-- ==== Sys2Proof/Word.lean ====
section
/-! DEFINITION. The word types of YN2's registers, descriptors and memories (R9: little-endian, bytes of 8 bits). -/

namespace Sys2Proof

/-- One byte of a descriptor, record or memory. -/
abbrev Byte := BitVec 8

/-- A 32-bit register or field. -/
abbrev W32 := BitVec 32

/-- A 64-bit register or field. -/
abbrev W64 := BitVec 64

end Sys2Proof
end

