-- ==== Sys2Proof/Syntax.lean ====
section
/-! DEFINITION. The commands of YN2: one constructor of Instr per row of spec/opcode_table.json, with the operands
the row's rule names. Operands also carry what the surroundings answer and what the spec leaves to the hardware
(log 1). -/

namespace Sys2Proof

/-- What a read at the host fabric port completes with (R468): data, or status ERROR or POISON. -/
inductive HostRead where
  | ok (data : List Byte)
  | error
  | poison
  deriving DecidableEq, Repr

/-- The status of a write at the host fabric port (R468). -/
inductive HostStatus where
  | ok
  | error
  | poison
  deriving DecidableEq, Repr

/-- Status of a line of a memory fabric response (R472). -/
inductive MfpStatus where
  | ok
  | uncorrectable
  | decodeError
  deriving DecidableEq, Repr

/-- A memory tier (R501). -/
inductive Tier where
  | fast
  | slow
  deriving DecidableEq, Repr

/-- The three rings of the JNL window (R409). -/
inductive JnlRing where
  | event
  | log
  | trace
  deriving DecidableEq, Repr

/-- The hub engines Watch observes (R352, codes of R504). -/
inductive HubEngine where
  | frontFetch | frontCompletion | bramble | trestle | scheduler | wardrobe | journal | event
  deriving DecidableEq, Repr

/-- A microcode patch package (R422): its 64-byte header, ciphertext, and public key and signature. -/
structure PatchPkg where
  header : List Byte
  cipher : List Byte
  keySig : List Byte
  deriving DecidableEq, Repr

/-- What the hardware chooses during a loop's boundary where the rules leave the choice open: the free frames taken, in
order, for growth, copies on write, promotions and demotions, and the leaf blocks taken (R231, R227). -/
structure BoundaryChoice where
  fastFrames : List Nat
  slowFrames : List Nat
  leaves : List Nat
  deriving DecidableEq, Repr

/-- What a memory fabric response answers (R472): a side command of a stream, a text read, a page mover's piece, or a
shared hub structure. -/
inductive MfpWho where
  | side (p st eng : Nat)
  | text (p st : Nat)
  | mover (m : Nat)
  | hubShared
  deriving DecidableEq, Repr

/-- What a host fabric completion answers (R468): an access of a queue (ring, Completion Word, Detail Ring), a fence
write-through of a command, an access of a stream's side command, a mover's piece, a context's Journal ring, an event
or report write. -/
inductive HfpWho where
  | queue (c q : Nat) (addr : Nat)
  | fence (c q pos : Nat) (addr : Nat)
  | side (p st eng : Nat) (addr : Nat)
  | mover (m : Nat) (addr : Nat)
  | context (c : Nat) (addr : Nat)
  | physical (addr : Nat)
  deriving DecidableEq, Repr

/-- The registers a FIRMWARE record holds (R433). -/
structure TrapFrame where
  mepc : W32
  mcause : W32
  mtval : W32
  regs : List W32
  stack : List Byte
  deriving DecidableEq, Repr

/-- A word of on-block SRAM with an uncorrectable error, outside Chest: a queue's control word, a cached object entry, a sequence
record (R357, aux 4), a structure that contexts share (R378), or a slice's own SRAM (R365). -/
inductive SramWord where
  | queueWord (c q : Nat)
  | objEntry (c idx : Nat)
  | seqRecord (idx : Nat)
  | shared (addr : Nat)
  | slice (p : Nat)
  deriving DecidableEq, Repr

/-- The unit that reports an internal fault (R357, row ENGINE_FAULT_REPORT). -/
inductive FaultUnit where
  | core (p st core : Nat)
  | scratch (p st core : Nat)
  | side (p st eng : Nat)
  | mover (m : Nat)
  | collective (p st : Nat)
  | sram (w : SramWord) (bank : Nat)
  deriving DecidableEq, Repr

/-- Instructions of the test access port (R481). -/
inductive TapInstr where
  | idcode | bypass | scan | memTest | leave
  deriving DecidableEq, Repr

/-- What ECC finds at a cell that is read (R314 to R316). -/
inductive EccFinding where
  | clean
  | corrected (word : Nat)
  | badData (word : Nat)
  | badMeta
  deriving DecidableEq, Repr

/-- One finding of the scrub engine (R452): what ECC finds at a cell of Chest, or a word of other on-block SRAM beyond correction with
its address. -/
inductive ScrubFinding where
  | cell (index : Nat) (ecc : EccFinding)
  | word (w : SramWord) (addr : Nat)
  deriving DecidableEq, Repr

/-- What of a side command has landed: a 4 KiB piece (R352), or every write of the command (R151). -/
inductive SideLanding where
  | piece (eng : Nat)
  | whole (eng : Nat)
  deriving DecidableEq, Repr

/-- The engine of a landing. -/
def SideLanding.engine : SideLanding → Nat
  | .piece e => e
  | .whole e => e

/-- The commands of the block, one per row of spec/opcode_table.json, in its order. c is a context_id, q a queue index,
pos a position, p a partition, st a stream. -/
inductive Instr where
  | tenantActivate (id : Nat) (rd : HostRead)
  | tenantRetire (id : Nat)
  | contextActivate (id : Nat) (rd : HostRead)
  | contextRetire (id : Nat)
  | teardownDone (c : Nat)
  | queueEnable (c q : Nat) (rd : HostRead) (wr : HostStatus)
  | queueShutdown (c q : Nat)
  | queueShutdownHang (c q : Nat)
  | sealLoad (slot : Nat) (rd : HostRead)
  | sealClear (slot : Nat)
  | partitionReset (p : Nat)
  | computeReset (p : Nat)
  | resetReq (p : Nat)
  | updateStage (lengthKib : Nat)
  | updateActivate (raiseFloor : Bool)
  | updateCancel
  | stagingDone (img : List Byte) (flashOk : Bool)
  | updateEmergencyCleared
  | updateQuiesced
  | updateLoaded (ok : Bool)
  | probationExpiry
  | rollbackDone
  | wrdCfgWrite (v : W64)
  | frameTableBuilt
  | hostCapsWrite (v : W64)
  | burReqWrite (v : W32)
  | burRingWrite (v : W64)
  | jnlRingWrite (ring : JnlRing) (v : W64)
  | eventConsWrite (v : W64)
  | barrierSlotOwn (v : W32)
  | staAddrWrite (v : W64)
  | staReadDone
  | bar0ErrRead
  | peakRead (cls : Option Nat)
  | registerWrite (off : Nat) (size : Nat) (v : W64)
  | doorbellWrite (fn off size : Nat) (v : W64)
  | pushWrite (fn off : Nat) (bytes : List Byte)
  | fetchIssue (c q n : Nat)
  | fetchReturn (c q : Nat) (rd : HostRead)
  | fetcherGoIdle (c q : Nat)
  | arbiterGrant (slot : Option Nat)
  | entryAccept (c q : Nat)
  | acceptReadReturn (c q : Nat) (rd : HostRead)
  | commandDispatch (c q pos : Nat)
  | commandRetire (c q : Nat)
  | completionWordWrite (c q : Nat)
  | msixModerationTimeout (c q : Nat)
  | watchSample
  | queueTimeout (c q : Nat)
  | streamHang (p st : Nat)
  | peerWaitTimeout (p st : Nat)
  | moverHang (m : Nat)
  | hubEngineHang (e : HubEngine)
  | deadlockScan
  | opNop (c q pos : Nat)
  | opFenceWait (c q pos : Nat)
  | opFenceSignal (c q pos : Nat)
  | opCopy (c q pos : Nat)
  | opFill (c q pos : Nat)
  | opTimestamp (c q pos : Nat)
  | opLaunchGraph (c q pos : Nat)
  | opGraphPatch (c q pos : Nat)
  | opLoopOpen (c q pos : Nat)
  | opLoopAdmit (c q pos : Nat) (seed : W64)
  | opLoopCancel (c q pos : Nat)
  | opLoopClose (c q pos : Nat)
  | opModelLoad (c q pos : Nat) (frames : List Nat)
  | opModelPin (c q pos : Nat)
  | opModelUnpin (c q pos : Nat)
  | opObjFree (c q pos : Nat)
  | opBarrierJoin (c q pos : Nat)
  | opQuery (c q pos : Nat)
  | opSnapshot (c q pos : Nat)
  | opSelftest (c q pos : Nat)
  | opAbort (c q pos : Nat)
  | opReplayOpen (c q pos : Nat)
  | verifyDone (c q pos : Nat) (rd : HostRead)
  | launchReceive (p st : Nat)
  | launchRetryRequest (p st cause : Nat)
  | bundleIssue (p st : Nat) (hazard : Option (Nat × Nat))
  | icacheFill (p st off : Nat)
  | alarmSet (p st cycle id : Nat) (prefetch : Bool)
  | load (p st : Nat)
  | store (p st : Nat)
  | gather (p st : Nat)
  | scatter (p st : Nat)
  | send (p st : Nat)
  | recv (p st : Nat)
  | reduce (p st : Nat)
  | setreg (p st : Nat)
  | sideCommandLanded (p st : Nat) (what : SideLanding)
  | collectiveData (p st : Nat) (peer chan : Nat) (data : List Byte)
  | streamDrainDone (p st : Nat)
  | stopRequest (p st : Nat)
  | stopConfirm (p st : Nat)
  | streamRelease (p st : Nat)
  | hazardReport (p st : Nat)
  | stepEndReport (p st : Nat) (crcOk : Bool)
  | stepBoundary (l : Nat) (ch : BoundaryChoice)
  | stepLaunch (l : Nat)
  /-- The tick carries nothing. -/
  | chargeTick (tick : Unit)
  | evictAfterExpiry (r : Nat)
  | saveLanded (r : Nat)
  | restoreLanded (r : Nat)
  | clearDone (b : Nat)
  | wardrobeSweep (n : Nat)
  | backgroundDemote (f dst : Nat)
  | backgroundPromote (f dst : Nat)
  | backgroundZero (f : Nat)
  | moverPieceLanded (m : Nat) (slot : Option Nat)
  | mapoutRequest (tier : Tier) (ch : Nat) (lost : Bool) (units : List Nat) (source : Nat)
  | mapoutMoveRetry (f dst : Nat)
  | modelMissRetry (k : Nat) (frames : List Nat)
  | modelMissService (k : Nat) (frames : List Nat)
  | mfpResponse (who : MfpWho) (tier : Tier) (addr : Nat) (status : MfpStatus)
  | hfpCompletion (who : HfpWho) (rd : HostRead)
  | channelReady (tier : Tier) (ch : Nat)
  | channelFault (tier : Tier) (ch : Nat) (units : List Nat)
  | ceRate (tier : Tier) (ch : Nat) (units : List Nat)
  | channelUncorrectable (tier : Tier) (ch addr : Nat)
  | cellAllocate (cls queue : Nat) (tenant : Option Nat) (cells : List Nat)
  | cellRead (cls queue : Nat) (ecc : List EccFinding)
  | cellMark (cls queue : Nat)
  | cellRewind (cls queue : Nat)
  | cellRelease (cls queue k : Nat)
  | chestWalkDone (stray : Option Nat)
  | bureauTick
  | sensorSample (p : Nat) (code : BitVec 16)
  | occ
  | eng
  | byt
  | bytFlushTimer (tenant cls : Nat)
  | act
  | ret
  | req
  | sync
  | periodicReport
  | signingStart
  /-- The secret drawn, and the one drawn where the first gives no signature (FIPS 186-5). -/
  | signingDone (k next : BitVec 256)
  | reportForward
  | vddAonUp (epoch : W64) (keyOk : Bool)
  | stageBudgetExpiry (stage unit : Nat)
  | partitionResetAssert (p : Nat)
  | partitionWritesDrained (p : Nat)
  | partitionResetRelease (p : Nat)
  | sliceReady (p : Nat)
  | dumpAllowanceExpiry (landed : Nat)
  | completionsAllowanceExpiry
  | computeResetAssert
  | computeResetRelease
  | hubReady
  | resetRequest
  | por
  | blockReset
  | blockResetRelease
  | bootLoadDone
  | patchLoad (pkg : PatchPkg)
  | bootCommit
  | mcWatchFlag (core : Nat) (t : TrapFrame)
  | watchdogExpiry (core : Nat) (t : TrapFrame)
  | fatalTrap (core : Nat) (t : TrapFrame)
  | settlePanic (core : Nat) (t : TrapFrame)
  | memoryError (core : Option Nat) (t : TrapFrame)
  | mcDumpDone (core : Nat)
  | mcReloadDone (core : Nat) (ok : Bool)
  | mailboxItem (core : Nat)
  | pwrSag (k : Nat)
  | thermAlert (asserted : Bool)
  | temperatureInput (sensor temp : Nat)
  | vminTimer (p mv : Nat)
  | vfGrant (p code : Nat)
  | vfGrantTimeout (p : Nat)
  | limiterCapStep (p mv : Nat)
  | shedHoldExpiry
  | quiesceDump
  | selftestRun (p : Nat)
  | selftestDone (p detail : Nat)
  | bankTest (bank : Nat)
  | calibration (p : Nat)
  | scrub (found : List ScrubFinding)
  | telemetry
  | hfpFlrReq (fn : Nat)
  | hfpFlrAck (fn : Nat)
  | release (group slot : Nat) (epoch : W32)
  | barrierDeadline (slot : Nat)
  | links (dir up : Nat)
  | tapInstruction (t : TapInstr)
  | journalWrite (l : Nat)
  | journalConsumedPoll (l : Nat) (consumed : W64)
  | eventWrite
  | channelReadyTimeout (ch : Nat) (units : List Nat)
  | engineFaultReport (u : FaultUnit)
  | calibrationDone (p : Nat)
  | bankTestDone (bank : Nat) (failed : Bool)
  | traceRingWrite
  | hubSupplyLoss
  | vddAonLoss
  deriving DecidableEq, Repr

end Sys2Proof
end

