-- ==== Sys2Proof/Machine/Tab.lean ====
section
/-! DEFINITION. Sparse tables of the state: lists of key and entry, keys rising, and lists of bytes. -/

namespace Sys2Proof.Machine

/-- A sparse table: keys rising, no key twice. -/
abbrev Tab (α : Type) := List (Nat × α)

/-- The entry of a key, none where the table lists none. -/
def tget {α : Type} : Tab α → Nat → Option α
  | [], _ => none
  | (k, a) :: t, n => if k = n then some a else tget t n

/-- The table with an entry put at a key. -/
def tset {α : Type} : Tab α → Nat → α → Tab α
  | [], n, x => [(n, x)]
  | (k, a) :: t, n, x =>
    if n < k then (n, x) :: (k, a) :: t else if k = n then (n, x) :: t else (k, a) :: tset t n x

/-- The table without a key. -/
def tdel {α : Type} : Tab α → Nat → Tab α
  | [], _ => []
  | (k, a) :: t, n => if k = n then tdel t n else (k, a) :: tdel t n

/-- The entry of a key, with a default. -/
def tgetD {α : Type} (t : Tab α) (n : Nat) (d : α) : α := (tget t n).getD d

/-- The table with the entry of a key changed, the default changed where none is listed. -/
def tmod {α : Type} (t : Tab α) (n : Nat) (d : α) (f : α → α) : Tab α := tset t n (f (tgetD t n d))

/-- The table with the entry of a key changed where one is listed. -/
def tupd {α : Type} (t : Tab α) (n : Nat) (f : α → α) : Tab α :=
  match tget t n with
  | some a => tset t n (f a)
  | none => t

/-- Every entry changed. -/
def tmapv {α : Type} (t : Tab α) (f : Nat → α → α) : Tab α := t.map (fun e => (e.1, f e.1 e.2))

/-- The entries that a test keeps. -/
def tkeep {α : Type} (t : Tab α) (f : Nat → α → Bool) : Tab α := t.filter (fun e => f e.1 e.2)

/-- Keys strictly rising. -/
def tabWf {α : Type} : Tab α → Bool
  | [] => true
  | [_] => true
  | (a, _) :: (b, y) :: t => decide (a < b) && tabWf ((b, y) :: t)

/-- A list with the element at an index replaced. -/
def lset {α : Type} (l : List α) (i : Nat) (x : α) : List α := l.set i x

/-- A list with the element at an index changed. -/
def lmod {α : Type} (l : List α) (i : Nat) (f : α → α) : List α := l.modify i f

/-- The number a run of bytes spells, little-endian (R9). -/
def leNat : List Byte → Nat
  | [] => 0
  | b :: bs => b.toNat + 256 * leNat bs

/-- The n bytes that spell a number, little-endian (R9). -/
def le : Nat → Nat → List Byte
  | 0, _ => []
  | n + 1, v => BitVec.ofNat 8 v :: le n (v / 256)

/-- n zero bytes. -/
def zeros (n : Nat) : List Byte := List.replicate n 0

/-- Bytes [off, off + n) of a record. -/
def slice (bs : List Byte) (off n : Nat) : List Byte := (bs.drop off).take n

/-- The field of n bytes at an offset of a record (R9). -/
def fld (bs : List Byte) (off n : Nat) : Nat := leNat (slice bs off n)

/-- Bits [hi:lo] of a number. -/
def bits (v hi lo : Nat) : Nat := (v >>> lo) % 2 ^ (hi + 1 - lo)

/-- Bit i of a number. -/
def bit (v i : Nat) : Bool := v.testBit i

/-- Every byte of a run is zero (a reserved field, R7). -/
def allZero (bs : List Byte) : Bool := bs.all (fun b => b == 0)

/-- A count that saturates at 2^w - 1. -/
def satInc (w v : Nat) (by_ : Nat := 1) : Nat := min (2 ^ w - 1) (v + by_)

/-- Bytes padded with zero to a length. -/
def padTo (n : Nat) (bs : List Byte) : List Byte := bs ++ zeros (n - bs.length)

/-- The number rounded up to a multiple. -/
def roundUp (v m : Nat) : Nat := ((v + m - 1) / m) * m

/-- The quotient rounded up. -/
def ceilDiv (a b : Nat) : Nat := (a + b - 1) / b

/-- A flag as a number. -/
def b2n (b : Bool) : Nat := if b then 1 else 0

/-- Without the first element equal to x. -/
def removeOne (l : List Nat) (x : Nat) : List Nat := l.erase x

end Sys2Proof.Machine
end

