-- ==== Sys2Proof/Machine/Crypto.lean ====
section
/-! DEFINITION. SHA-256 and SHA-384 (FIPS 180-4) and the verification of ECDSA signatures over P-256 and P-384
(FIPS 186-5), which R145, R157, R393, R415 and R422 name. -/

namespace Sys2Proof.Machine

/-! ### Hashes -/

/-- The first 80 primes: the numbers below 410 that no smaller prime up to 19 divides. -/
def primes : List Nat :=
  (List.range 410).filter (fun n => decide (1 < n) && [2, 3, 5, 7, 11, 13, 17, 19].all (fun d => n == d || n % d != 0))

/-- The largest r + t, t below 2^n, whose k-th power is at most v: a binary search from the top bit down. -/
def rootFrom (k v : Nat) : Nat → Nat → Nat
  | 0, r => r
  | n + 1, r => rootFrom k v n (if (r + 2 ^ n) ^ k ≤ v then r + 2 ^ n else r)

/-- The first w bits of the fractional part of the k-th root of a number below 512: how FIPS 180-4 gives its constants. -/
def rootFraction (k w a : Nat) : Nat := rootFrom k (a * 2 ^ (k * w)) (w + 5) 0 % 2 ^ w

/-- Round constants of SHA-256 and of SHA-384: from cube roots of the first 64 and 80 primes (FIPS 180-4). -/
def k256 : List Nat := (primes.take 64).map (rootFraction 3 32)
def k512 : List Nat := primes.map (rootFraction 3 64)

/-- Initial values: from square roots of the first eight primes for SHA-256, of the ninth to sixteenth for SHA-384
(FIPS 180-4). -/
def h256 : List Nat := (primes.take 8).map (rootFraction 2 32)
def h384 : List Nat := ((primes.drop 8).take 8).map (rootFraction 2 64)

/-- What distinguishes the two hashes: word width in bits, rotations of the round and of the schedule, constants. -/
structure Sha where
  w : Nat
  s1 : Nat × Nat × Nat
  s0 : Nat × Nat × Nat
  t0 : Nat × Nat × Nat
  t1 : Nat × Nat × Nat
  k : List Nat

def sha2w32 : Sha := { w := 32, s1 := (6, 11, 25), s0 := (2, 13, 22), t0 := (7, 18, 3), t1 := (17, 19, 10), k := k256 }
def sha2w64 : Sha := { w := 64, s1 := (14, 18, 41), s0 := (28, 34, 39), t0 := (1, 8, 7), t1 := (19, 61, 6), k := k512 }

/-- Rotation right of a word. -/
def rotr (w n x : Nat) : Nat := (x >>> n) ||| ((x <<< (w - n)) % 2 ^ w)

/-- The three-rotation mixing of the round, and the mixing of the schedule, whose third is a shift. -/
def mix3 (w : Nat) (r : Nat × Nat × Nat) (x : Nat) : Nat := rotr w r.1 x ^^^ rotr w r.2.1 x ^^^ rotr w r.2.2 x
def mix2 (w : Nat) (r : Nat × Nat × Nat) (x : Nat) : Nat := rotr w r.1 x ^^^ rotr w r.2.1 x ^^^ (x >>> r.2.2)

/-- The number a run of bytes spells, most significant first. -/
def beNat (bs : List Byte) : Nat := bs.foldl (fun a b => a * 256 + b.toNat) 0

/-- The n bytes that spell a number, most significant first. -/
def be (n v : Nat) : List Byte := (le n v).reverse

/-- The schedule, newest word first, extended by n words. -/
def shaExtend (h : Sha) : Nat → List Nat → List Nat
  | 0, r => r
  | n + 1, r =>
    let x (i : Nat) : Nat := r.getD i 0
    shaExtend h n (((mix2 h.w h.t1 (x 1) + x 6 + mix2 h.w h.t0 (x 14) + x 15) % 2 ^ h.w) :: r)

/-- One round over the eight working variables. -/
def shaRound (h : Sha) (v : List Nat) (kw : Nat × Nat) : List Nat :=
  match v with
  | [a, b, c, d, e, f, g, z] =>
    let m := 2 ^ h.w
    let ch := (e &&& f) ^^^ ((m - 1 - e) &&& g)
    let maj := (a &&& b) ^^^ (a &&& c) ^^^ (b &&& c)
    let t1 := z + mix3 h.w h.s1 e + ch + kw.1 + kw.2
    [(t1 + mix3 h.w h.s0 a + maj) % m, a, b, c, (d + t1) % m, e, f, g]
  | _ => v

/-- The hash value after one block of 16 words. -/
def shaBlock (h : Sha) (v : List Nat) (blk : List Byte) : List Nat :=
  let n := h.w / 8
  let ws := (List.range 16).map (fun i => beNat (slice blk (n * i) n))
  let sched := (shaExtend h (h.k.length - 16) ws.reverse).reverse
  let o := (h.k.zip sched).foldl (shaRound h) v
  (v.zip o).map (fun p => (p.1 + p.2) % 2 ^ h.w)

/-- The blocks of a padded message, up to a count. -/
def shaBlocks (h : Sha) : Nat → List Byte → List Nat → List Nat
  | 0, _, v => v
  | n + 1, m, v =>
    let b := 2 * h.w
    match m with
    | [] => v
    | _ => shaBlocks h n (m.drop b) (shaBlock h v (m.take b))

/-- The padded message: a one bit, zeros, the length in bits in 2·w bits. -/
def shaPad (h : Sha) (m : List Byte) : List Byte :=
  let b := 2 * h.w
  let l := h.w / 4
  let z := (b - (m.length + 1 + l) % b) % b
  m ++ [0x80] ++ zeros z ++ be l (8 * m.length)

/-- SHA-256, most significant byte first. -/
def sha256 (m : List Byte) : List Byte :=
  let p := shaPad sha2w32 m
  ((shaBlocks sha2w32 (p.length / 64) p h256).map (be 4)).flatten

/-- SHA-384, most significant byte first. -/
def sha384 (m : List Byte) : List Byte :=
  let p := shaPad sha2w64 m
  (((shaBlocks sha2w64 (p.length / 128) p h384).take 6).map (be 8)).flatten

/-! ### ECDSA -/

/-- A short Weierstrass curve y² = x³ - 3x + b over a prime field with a base point of prime order. -/
structure Curve where
  p : Nat
  b : Nat
  n : Nat
  gx : Nat
  gy : Nat

/-- P-256 and P-384 (FIPS 186-5). -/
def curve256 : Curve :=
  { p := 0xffffffff00000001000000000000000000000000ffffffffffffffffffffffff,
    b := 0x5ac635d8aa3a93e7b3ebbd55769886bc651d06b0cc53b0f63bce3c3e27d2604b,
    n := 0xffffffff00000000ffffffffffffffffbce6faada7179e84f3b9cac2fc632551,
    gx := 0x6b17d1f2e12c4247f8bce6e563a440f277037d812deb33a0f4a13945d898c296,
    gy := 0x4fe342e2fe1a7f9b8ee7eb4a7c0f9e162bce33576b315ececbb6406837bf51f5 }
def curve384 : Curve :=
  { p := 0xfffffffffffffffffffffffffffffffffffffffffffffffffffffffffffffffeffffffff0000000000000000ffffffff,
    b := 0xb3312fa7e23ee7e4988e056be3f82d19181d9c6efe8141120314088f5013875ac656398d8a2ed19d2a85c8edd3ec2aef,
    n := 0xffffffffffffffffffffffffffffffffffffffffffffffffc7634d81f4372ddf581a0db248b0a77aecec196accc52973,
    gx := 0xaa87ca22be8b05378eb1c71ef320ad746e1d3b628ba79b9859f741e082542a385502f25dbf55296c3a545e3872760ab7,
    gy := 0x3617de4a96262c6f5d9e98bf9292dc29f8f41dbd289a147ce9da3113b5f0b8c00a60b1ce1d7e819d7a431d7c90ea0e5f }

/-- b to the power e modulo m, for e below 2^n. -/
def powMod (m : Nat) : Nat → Nat → Nat → Nat → Nat
  | 0, _, _, acc => acc
  | n + 1, b, e, acc => if e = 0 then acc else powMod m n (b * b % m) (e / 2) (if e % 2 = 1 then acc * b % m else acc)

/-- The inverse modulo a prime. -/
def invMod (x m : Nat) : Nat := powMod m 400 (x % m) (m - 2) 1

/-- The sum of two points; none is the point at infinity. -/
def ecAdd (c : Curve) (a b : Option (Nat × Nat)) : Option (Nat × Nat) :=
  match a, b with
  | none, q => q
  | q, none => q
  | some (x1, y1), some (x2, y2) =>
    if x1 = x2 ∧ (y1 + y2) % c.p = 0 then none else
    let l := if x1 = x2 then (3 * x1 * x1 + 3 * (c.p - 1)) % c.p * invMod (2 * y1) c.p % c.p
             else (y2 + c.p - y1) % c.p * invMod (x2 + c.p - x1) c.p % c.p
    let x := (l * l + 2 * c.p - x1 - x2) % c.p
    some (x, (l * (x1 + c.p - x) + c.p - y1) % c.p)

/-- k times a point, for k below 2^n. -/
def ecMul (c : Curve) : Nat → Nat → Option (Nat × Nat) → Option (Nat × Nat) → Option (Nat × Nat)
  | 0, _, _, acc => acc
  | n + 1, k, q, acc => if k = 0 then acc else ecMul c n (k / 2) (ecAdd c q q) (if k % 2 = 1 then ecAdd c acc q else acc)

/-- (x, y) lies on the curve. -/
def onCurve (c : Curve) (x y : Nat) : Bool :=
  decide (x < c.p) && decide (y < c.p) && decide (y * y % c.p = (x * x * x + 3 * (c.p - x) + c.b) % c.p)

/-- The signature of a digest e under a private key d with the per-signature secret k (FIPS 186-5); none where that secret gives
none. -/
def ecdsaSign (c : Curve) (e d k : Nat) : Option (Nat × Nat) :=
  if 1 ≤ k ∧ k < c.n then
    match ecMul c 400 k (some (c.gx, c.gy)) none with
    | none => none
    | some (x, _) =>
      let r := x % c.n
      let s := invMod k c.n * (e + r * d) % c.n
      if r = 0 ∨ s = 0 then none else some (r, s)
  else none

/-- (r, s) is a valid signature of a digest e under the key (qx, qy). -/
def ecdsaOk (c : Curve) (e r s qx qy : Nat) : Bool :=
  if 1 ≤ r ∧ r < c.n ∧ 1 ≤ s ∧ s < c.n ∧ onCurve c qx qy = true then
    let w := invMod s c.n
    let u1 := e * w % c.n
    let u2 := r * w % c.n
    match ecAdd c (ecMul c 400 u1 (some (c.gx, c.gy)) none) (ecMul c 400 u2 (some (qx, qy)) none) with
    | none => false
    | some (x, _) => decide (x % c.n = r)
  else false

end Sys2Proof.Machine
end

