-- ==== Sys2Proof/Config.lean ====
section
/-! DEFINITION. The numbers the spec fixes for every YN2 instance, and the free values: opaque constants of which nothing is known. -/

namespace Sys2Proof.Config

/-- Largest number of slices of an instance (R2). -/
def maxSlices : Nat := 48
/-- Tenant and context table sizes (R22). -/
def maxTenants : Nat := 1024
def maxContexts : Nat := 16384
/-- Queues of an instance (R35) and of a context (R27). -/
def maxQueues : Nat := 65536
/-- Swap-mode contexts of an instance (R29). -/
def maxSwap : Nat := 8
/-- Serving loops and sequences of an instance (R59). -/
def maxLoops : Nat := 1024
def maxSequences : Nat := 262144
/-- Pinned objects (R55), wait entries, shadows and wait entries of one context (R125). -/
def maxPins : Nat := 1048576
def maxWaits : Nat := 131072
def maxShadows : Nat := 262144
def maxContextWaits : Nat := 16384
/-- Entries of a queue fetched and not handed over, or in flight (R79). -/
def maxFetched : Nat := 64
/-- Spilled Detail Ring records of one queue and of the area (R90). -/
def maxQueueSpill : Nat := 16384
def maxSpill : Nat := 2097152
/-- Depths of the four side queues, by engine code 1 to 4 (R150). -/
def sideDepth (e : Nat) : Nat := if e = 1 ∨ e = 2 then 32 else 16
/-- Bytes of a core's scratchpad (00_scope, reference integration): the range a side command may use. -/
def scratchBytes : Nat := 768 * 1024
/-- Program store (R159) and Batch Record pool (R211), in bytes. -/
def programStore : Nat := 128 * 1024 * 1024
def batchPool : Nat := 96 * 1024 * 1024
/-- Model directory (R253), hub mailbox (R430), waiting graph jobs (R261). -/
def maxModels : Nat := 4096
def mailboxDepth : Nat := 1024
def maxGraphJobs : Nat := 4096
/-- Cells of Chest, its skid reserve and the retired-cell limit (R298, R304, R318). -/
def cells : Nat := 262144
def skid : Nat := 1024
def retiredLimit : Nat := 4096
/-- Report queue of Bureau (R338) and depth of the usage FIFO (R326). -/
def reportQueue : Nat := 16
def usageFifo : Nat := 256
/-- The housekeeping region and the Hutch spill region, 1 GiB each (R492, R371). -/
def gib : Nat := 1073741824
/-- Offset of the program store in the housekeeping region (R492). -/
def storeOffset : Nat := 0x2C000000
/-- Offset of the Detail spill area in the housekeeping region (R492). -/
def detailOffset : Nat := 0x34000000
/-- Offset of the Batch Record pool in the housekeeping region (R492). -/
def batchPoolOffset : Nat := 0x3A000000
/-- Offset of the sequence parameter blocks in the housekeeping region (R492). -/
def paramOffset : Nat := 0x38000000
/-- AON_CLK cycles of a microsecond and of a millisecond (R18: 100 MHz). -/
def us : Nat := 100
def ms : Nat := 100000

/-- The E8M0 scale of a block whose 32 elements are all zero in an MX format: neither R238 nor the OCP formula it names
states one, since a block without a nonzero element has no exponent. A free value of the format (log 8). -/
opaque mxZeroScale (format : Nat) : Byte

/-- What the unit actions of one bundle write to one core's scratch storage (R148: the actions are defined by the core
generation and not specified): addresses and bytes, of the latency table, the actions, the core, the program cycle, the
step's Batch Record (R15) and the core's storage. The block time base does not enter (R21). A free value: nothing is
known of it (log 20). -/
opaque coreWrites (table : Nat) (actions : List Byte) (core cycle : Nat) (batch : List Byte)
    (scratch : List (Nat × Byte)) : List (Nat × Byte)

/-- What the unit actions of one bundle write to the results array of the step's Batch Record (R214: the program writes it; R148
leaves the actions open): offsets in the array and bytes. A free value, as coreWrites is (log 20). -/
opaque resultWrites (table : Nat) (actions : List Byte) (core cycle : Nat) (batch : List Byte)
    (scratch : List (Nat × Byte)) : List (Nat × Byte)

/-- Where the copy of a graph's version lies in the program store (R156, R492 give the store and no place in it): a free value
(log 100). -/
opaque storePlace (graph version : Nat) : Nat

/-- Where in the housekeeping region the argument bases of a launch lie (R167 and R375 have a slice read its argument table over the
slice memory port; no rule places it): a free value of the launch's context, tag and step (log 100). -/
opaque argPlace (ctx tag step : Nat) : Nat

/-- Whether a hub SRAM bank other than Chest's 64 holds live data (R455 names no banks but Chest's): a free value of the bank and the
time (log 119). -/
opaque bankInUse (bank now : Nat) : Bool

/-- How long after the release of block reset the ROM begins to authenticate a slot, and how long that takes (R418 gives the order of
boot_stage 0, 1 and 2 and no times): free values of the time of the release (log 132). -/
opaque bootAuthAfter (release : Nat) : Nat
opaque bootAuthTime (release : Nat) : Nat

/-- What a slot holds from its first byte on after a programming that failed (R435, R438 name the result FLASH_ERROR and not the bytes):
a free value of the time (log 133). -/
opaque failedProgram (now : Nat) : List Byte

/-- The 8 SECDED check bits of a data word or metadata word (R298 names no code): a free value (log 89). -/
opaque secded (word : W64) : Byte

/-- The queue number of R299 that a queue of a class has within its class: the spec numbers no queue. A free value of
the class and of the queue's name in this model (log 89). -/
opaque cellQueueNumber (cls queue : Nat) : BitVec 16

/-- Whether the condition that a control word selects holds (R419 names the field and no condition): a free value of the
condition and the entry being decoded (log 67). -/
opaque microCond (cond : Nat) (entry : List Byte) : Bool

/-- The sum of a REDUCE whose exact value lies outside INT32 (R153 states no result): a free value (log 21). -/
opaque reduceSum (elements : List Int) : BitVec 32

/-- The 32-bit code of a firmware log entry (R407): firmware's, a free value of the entry's core, subject and count. -/
opaque logCode (core subject count : Nat) : BitVec 32

/-- The text of a firmware log entry (R407): firmware's, a free value; its first 40 bytes count. -/
opaque logText (core subject count : Nat) : List Byte

/-- The capabilities a firmware image offers (R437; R414 gives the header no field for them): a free value of its
header. -/
opaque imageCaps (header : List Byte) : BitVec 64

end Sys2Proof.Config
end

