-- ==== Sys2Proof/Machine/State.lean ====
section
/-! DEFINITION. The state of YN2 as plain data: every register, table, queue, buffer and pin the spec names
(INVENTORY.md '## State' lists them with their rules), and the queue of commands. -/

namespace Sys2Proof.Machine

/-- Why a step faults. No command of this model faults: a block reports what goes wrong in its own state (R117, R373). -/
inductive Fault where
  /-- Raised by no command; kept so that the type has a constructor. Safe. -/
  | noFault
  deriving DecidableEq, Repr

/-- Why a command has no meaning. -/
inductive Refusal where
  /-- Raised by an arm of exec whose command has no meaning yet. Safe. -/
  | notModelled (mnemonic : String)
  deriving DecidableEq, Repr

/-- Status codes of R117. -/
inductive Status where
  | ok | aborted | malformed | unsupported | stale | access | timeout | hang | deadlock | hazard | engineFault
  | memUncorrectable | noMemory | peerTimeout | contextLost | partitionReset | shed | verifyReject | busy
  | replayDiverge | preemptedDiscard
  deriving DecidableEq, Repr

/-- Where a byte lies: host memory of one function and PASID, or a tier (R42). -/
inductive Space where
  | host | fast | slow
  deriving DecidableEq, Repr

/-- One byte address with its space. A host address carries function and PASID (log 9). -/
structure Loc where
  space : Space
  addr : Nat
  deriving DecidableEq, Repr

/-- Byte memories behind the ports; flash is the device of R412, with the boot directories, the slots and the firmware data. -/
structure Mems where
  host : List Host.Cell
  fast : List Host.Cell
  slow : List Host.Cell
  scratch : List Host.Cell
  flash : List Host.Cell
  deriving DecidableEq, Repr

/-- The part of the block that makes a request of a tier, and with it the port and the virtual channel (R472, R477): a hub engine
on vc 0 and the Hutch writer on vc 2 of any MFP by address interleave, page mover k on vc 1 of MFPk, slice k on vc 0 of slice memory
port k. A request of host memory leaves by HFP, whoever makes it. -/
inductive Via where
  | hub
  | mover (k : Nat)
  | hutch
  | slice (k : Nat)
  deriving DecidableEq, Repr

/-- Requests and messages the block has issued, in order (R468, R482, R478, R375). -/
inductive PortOut where
  /-- A read or a write, of at most 4 KiB and not crossing 4 KiB: function and PASID or tier stand in the location (log 9); key is
  the key index of R25, none where key_valid is 0 (R468, R473). A write's bytes and its location give its byte enables. -/
  | read (loc : Loc) (len : Nat) (key : Option Nat) (via : Via)
  | write (loc : Loc) (data : List Byte) (key : Option Nat) (via : Via)
  /-- WR_ZERO (R472). -/
  | zero (loc : Loc) (len : Nat) (key : Option Nat) (via : Via)
  /-- The clear of a bench, on its partition's memory path, with the key of the residency's tenant (R280, R473, R477). -/
  | clear (bench : Nat) (key : Option Nat)
  /-- Accesses of the flash on the xSPI port (R480). -/
  | flashRead (off len : Nat)
  | flashWrite (off : Nat) (data : List Byte)
  /-- BUR_SNS_TICK, asserted for one AON_CLK cycle (R325). -/
  | snsTick
  | msix (fn vector : Nat)
  | flrAck (fn : Nat)
  | arrive (group slot epoch participants x y z : Nat)
  | budget (dir bytesPerUs : Nat)
  | vfReq (p code : Nat)
  | launch (p st : Nat)
  | stop (p st : Nat)
  | report (p st : Nat)
  /-- An alarm, an alarm's report, a request for a launch again, and the release of a halted stream (R168, R173, R375). -/
  | alarm (p st cycle id : Nat) (prefetch : Bool)
  | alarmReport (p st id : Nat) (late unreached : Bool)
  | retryRequest (p st cause : Nat)
  | release (p st : Nat)
  /-- Data of a SEND: the peer's coordinates, partition and stream, the channel, and this chip's coordinates, partition and stream,
  by which the peer's RECV names it (R465, R486). -/
  | peerData (x y z p st chan : Nat) (from_ : Nat × Nat × Nat × Nat × Nat) (data : List Byte)
  deriving DecidableEq, Repr

/-- Ports, pins and straps (R462 to R481). -/
structure Port where
  porN : Bool
  blkRstN : Bool
  vddAon : Bool
  hfpReady : Bool
  lkpReady : Bool
  prtRst : List Nat
  resetReq : Bool
  out : List PortOut
  readData : W64
  flr : List Nat
  flrPf : Bool
  dropHost : List Nat
  dropAll : Bool
  strapPins : Nat × Nat × Nat × Nat
  straps : Nat × Nat × Nat × Nat
  scan : Bool
  /-- XSPI_CS_N between two accesses, and XSPI_RESET_N (R467, R480). -/
  xspiCsN : Bool
  xspiResetN : Bool
  deriving DecidableEq, Repr

/-- A region of the channel map (R501). -/
structure Region where
  tier : Tier
  base : Nat
  size : Nat
  granule : Nat
  first : Nat
  count : Nat
  deriving DecidableEq, Repr

/-- What the integrator and the fuses fix (R2, R149, R332, R416, R440, R459, R496). -/
structure Integ where
  slices : Nat
  latencyTableId : Nat
  revision : Nat
  vminMv : Nat
  tMax : Nat
  floorMin : Nat
  fmax : Nat
  gain : List Nat
  offset : List Int
  calibId : Nat
  serial : Nat
  /-- Bureau's device key: the private half and the public half (R323, R336, R351). -/
  devKey : Nat
  pubX : Nat
  pubY : Nat
  keyHashes : List Nat
  revoked : List Bool
  romId : Nat
  /-- The fused microcode key (R423). -/
  mcKey : Nat
  /-- Control words of Bramble's ROM by address (R419, R420; log 67). -/
  rom : Tab (BitVec 176)
  deviceCaps : Nat
  fastGib : Nat
  slowGib : Nat
  spillGib : Option Nat
  banks : Nat
  /-- The channel map of the integration's memory description (R501). -/
  chmap : List Region
  deriving DecidableEq, Repr

/-- A seal key (R163). -/
structure SealKey where
  keyId : Nat
  qx : Nat
  qy : Nat
  deriving DecidableEq, Repr

/-- A record of the usage channel (R327). -/
inductive Usage where
  | occ (bench : Nat) (tenant : Option Nat)
  | eng (tenant coreCycles : Nat)
  | byt (tenant cls bytes : Nat)
  | act (tenant : Nat)
  | ret (tenant : Nat)
  | req (tenant : Option Nat)
  | sync
  deriving DecidableEq, Repr

/-- The figures of R61 selector 0x02 of a context_id: core-cycles, bytes by class, steps run, pre-emptions suffered. -/
structure Use where
  core : Nat
  bytes : List Nat
  steps : Nat
  preempts : Nat
  deriving DecidableEq, Repr

/-- The HUB window (R30 to R32, R160 to R162, R341, R342, R427, R497) and the hub end of the usage channel (R326). -/
structure Hub where
  tntBase : Nat
  ctxBase : Nat
  objBusy : Bool
  objResult : Nat
  objLast : Nat
  sealAddr : Nat
  sealResult : Nat
  sealSlots : Tab SealKey
  burRingBase : Nat
  burRingLog2 : Nat
  burProd : Nat
  devCaps : Nat
  hostCaps : Nat
  agreedCaps : Nat
  capsValid : Bool
  bar0Count : Nat
  bar0Cause : Nat
  bar0Off : Nat
  barOwnLast : Nat
  burFifo : List (Nat × Usage)
  /-- Records that the hub holds while the FIFO of 256 is full (R326). -/
  burHeld : List (Nat × Usage)
  burSeq : Nat
  bytAgg : Tab Nat
  /-- Selector 0x02 of R61: each context_id's figures since it was last activated. -/
  uses : Tab Use
  deriving DecidableEq, Repr

/-- The tenant record of R24. -/
structure TenantRec where
  isSealed : Bool
  allowRt : Bool
  allowInt : Bool
  allowBat : Bool
  share : Nat
  maxContexts : Nat
  maxLoops : Nat
  maxSequences : Nat
  benchQuota : Nat
  fastBase : Nat
  fastSize : Nat
  slowBase : Nat
  slowSize : Nat
  maxKvFrames : Nat
  deriving DecidableEq, Repr

/-- An ACTIVE tenant: its record and, when sealed, its slot offset (R294). A tenant that is not listed is FREE. -/
structure Tenant where
  rcd : TenantRec
  slotOffset : Option Nat
  deriving DecidableEq, Repr

/-- Service classes (R27). -/
inductive Cls where
  | rt | int | bat
  deriving DecidableEq, Repr

/-- The context record of R27. -/
structure CtxRec where
  cls : Cls
  swap : Bool
  tenant : Nat
  share : Nat
  fn : Nat
  pasid : Nat
  queueCount : Nat
  objLog2 : Nat
  queueTable : Nat
  objTable : Nat
  faultAddr : Nat
  msixLast : Nat
  deriving DecidableEq, Repr

/-- Context states of R36; a context that is not listed is FREE. -/
inductive CtxState where
  | active
  | teardown (fault : Bool)
  | lost
  deriving DecidableEq, Repr

/-- What a fault record says of its fault (R358). -/
structure FaultInfo where
  status : Status
  aux : Nat
  tag : Nat
  queue : Nat
  loopId : Nat
  seq : Nat
  step : Nat
  address : Nat
  time : Nat
  hutchSeq : Nat
  graph : Nat
  version : Nat
  cycle : Nat
  textOffset : Nat
  core : Nat
  destClass : Nat
  partition : Nat
  stream : Nat
  benchMask : Nat
  flags : Nat
  stage : Nat
  deriving DecidableEq, Repr

/-- A context: state, record with its bytes as read, the teardown's start and cause. -/
structure Context where
  state : CtxState
  rcd : CtxRec
  raw : List Byte
  teardownAt : Nat
  cause : Option FaultInfo
  wantRetire : Bool
  /-- The stage-2 resets its teardown ordered, and whether its budget has expired (R360). -/
  ordered : List Nat
  escalated : Bool
  /-- When an OP_LAUNCH_GRAPH of the context was last accepted (R277). -/
  launchAt : Nat
  /-- The save frames a swap_mode context keeps until its teardown (R260). -/
  saveFrames : List Nat
  deriving DecidableEq, Repr

/-- A cached memory object (R42). -/
structure MemObj where
  addr : Nat
  size : Nat
  space : Space
  read : Bool
  write : Bool
  fence : Bool
  prog : Bool
  devVa : Nat
  deriving DecidableEq, Repr

/-- A cached tensor descriptor (R45). -/
structure Tensor where
  memKey : Nat
  memHandle : Nat
  dtype : Nat
  byteOffset : Nat
  deriving DecidableEq, Repr

/-- A cached graph entry (R50). -/
structure Graph where
  imageKey : Nat
  imageHandle : Nat
  imageOffset : Nat
  imageLength : Nat
  deriving DecidableEq, Repr

/-- The body of a cached object entry (R40). -/
inductive ObjBody where
  | mem (o : MemObj)
  | tensor (o : Tensor)
  | graph (o : Graph)
  deriving DecidableEq, Repr

/-- A fence named by a wait, a signal or a release (R48): where it lies, its width, the value, its device address. -/
structure FenceRef where
  loc : Loc
  compact : Bool
  value : Nat
  va : Nat
  deriving DecidableEq, Repr

/-- A cached object: tag, body, FREE_PENDING with the release fence, pins and references (R54, R56). -/
structure Obj where
  tag : Nat
  body : ObjBody
  freePending : Bool
  release : Option FenceRef
  freer : Nat
  freerTag : Nat
  /-- Queue key and position of the OP_OBJ_FREE (R119). -/
  freerAt : Nat × Nat
  pins : Nat
  refs : Nat
  deriving DecidableEq, Repr

/-- One version of a graph (R51, R52): number, the verified copy of the image, the object it was built from, launches
and loops bound to it. -/
structure Version where
  num : Nat
  image : List Byte
  imageKey : Nat
  bound : Nat
  deriving DecidableEq, Repr

/-- The versions of a graph; the current one is named by number. -/
structure GraphVers where
  current : Nat
  versions : List Version
  deriving DecidableEq, Repr

/-- The queue record of R65. -/
structure QueueRec where
  detailMode : Nat
  msixEnable : Bool
  msixOnError : Bool
  ringLog2 : Nat
  weight : Nat
  burst : Nat
  detailLog2 : Nat
  msixVector : Nat
  timeoutMs : Nat
  modDelayUs : Nat
  modCount : Nat
  ringBase : Nat
  completionAddr : Nat
  detailBase : Nat
  startIndex : Nat
  deriving DecidableEq, Repr

/-- Queue states of R67. -/
inductive QState where
  | stopped | idle | fetching | idleArmed | shutting
  deriving DecidableEq, Repr

/-- A command's retire latch once taken (R84). -/
structure Latch where
  status : Status
  aux : Nat
  deriving DecidableEq, Repr

/-- Why an entry is held at its intake: PAYLOAD cells (R306, R308), a limit of its context or of pins (R55, R125), or the
wait entries and shadows all contexts share (R125). -/
inductive HoldCause where
  | cells | own | shared
  deriving DecidableEq, Repr

/-- Where a command is: at its queue's intake, held there (R126), waiting for a read of acceptance (R108) or for a
verification (R51), accepted, or dispatched (R128). -/
inductive CmdPhase where
  | intake
  | held (why : HoldCause)
  | reading (loc : Loc) (len : Nat) (aux : Nat)
  | verifying (gkey : Nat) (aux : Nat)
  | accepted
  | dispatched
  deriving DecidableEq, Repr

/-- A wait of a command (R104): the fence and whether it has been met (R122). -/
structure Wait where
  ref : FenceRef
  met : Bool
  deriving DecidableEq, Repr

/-- A result write of a command, issued before it retires (R85, R111). -/
structure ResultWrite where
  loc : Loc
  data : List Byte
  deriving DecidableEq, Repr

/-- A command from hand-over to retirement. -/
structure Cmd where
  pos : Nat
  /-- The 64 bytes of the entry; empty for a position that retires unread. -/
  entry : List Byte
  phase : CmdPhase
  /-- Reads of acceptance made so far (R108). -/
  reads : List (Loc × List Byte)
  waits : List Wait
  signals : List FenceRef
  /-- Fences its operands name: a release fence, an admission's fence (R49). -/
  fences : List FenceRef
  pins : List Nat
  args : List Nat
  latch : Option Latch
  /-- Stopped on an engine, and the engine has not confirmed (R85). -/
  stopping : Bool
  /-- Dispatched to its executor and not finished there. -/
  running : Bool
  /-- Its executor has begun on it. -/
  started : Bool
  dispatchedAt : Nat
  /-- What was taken when it was dispatched: the words of an OP_QUERY (R61), the shadows of an OP_LOOP_ADMIT (R392). -/
  snapshot : List Nat
  results : List ResultWrite
  order : Nat
  acceptedAt : Nat
  /-- The graph version a launch or loop binds: graph key and number (R52). -/
  bound : Option (Nat × Nat)
  /-- Sequences an OP_LOOP_CANCEL named and that have not ended (R205). -/
  awaits : List Nat
  deriving DecidableEq, Repr

/-- A retirement that the Completion Word, Detail Ring and MSI-X have not reported (R86). -/
structure Retired where
  pos : Nat
  opcode : Nat
  tag : Nat
  unread : Bool
  status : Status
  aux : Nat
  time : Nat
  /-- Its completion cell was lost in Chest (R317). -/
  lost : Bool
  deriving DecidableEq, Repr

/-- A fetched entry not handed over: position and bytes (R79); empty bytes for a position that retires unread. latch:
the latch taken before hand-over (R93, R98); ring: it was read from the ring and counts against the 64 of R79. -/
structure Fetched where
  pos : Nat
  entry : List Byte
  latch : Option Latch
  ring : Bool
  deriving DecidableEq, Repr

/-- A queue (R62 to R99). -/
structure Queue where
  state : QState
  everEnabled : Bool
  rcd : QueueRec
  d : Nat
  f : Nat
  w : Nat
  /-- Push window: four slots of 64 bytes, each byte none until it is written (R77). -/
  push : List (List (Option Byte))
  credit : Nat
  inflight : List (Nat × Nat)
  fetched : List Fetched
  cmds : List Cmd
  dropped : Nat
  badDoorbell : Nat
  badSize : Nat
  badDetail : Nat
  timeouts : Nat
  pd : Nat
  cd : Nat
  overflow : Bool
  overflowCount : Nat
  missed : Nat
  /-- The slots of the Detail spill area that hold the queue's spilled records, oldest first (R90, R492). -/
  spilled : List Nat
  unwritten : List Retired
  unreported : Nat
  firstUnreported : Nat
  urgent : Bool
  progress : Nat
  sample : Nat
  /-- The sample before the newest, and the time of the counter's last advance (R504). -/
  sampleWas : Nat
  advanced : Nat
  heldSince : Nat
  shutAt : Nat
  /-- Status and aux with which the queue's remaining positions retire (R94, R96). -/
  shutLatch : Latch
  deriving DecidableEq, Repr

/-- Front (R69, R70, R82, R83). -/
structure Front where
  queues : Tab Queue
  last : Tab Nat
  lastCtx : Nat
  qBusy : Bool
  qResult : Nat
  qBusyKey : Nat
  ctxDrops : Tab (Nat × Nat)
  deriving DecidableEq, Repr

/-- A fence shadow (R49). -/
structure Shadow where
  loc : Loc
  compact : Bool
  value : Nat
  deriving DecidableEq, Repr

/-- Bramble (R125, R130 to R136, R420). -/
structure Bramble where
  shadows : List Shadow
  dlkEnable : Bool
  dlkWindow : Nat
  dlkCnt : Nat
  prevSet : List Nat
  rises : List Loc
  nextOrder : Nat
  /-- Write-throughs of fences whose completion has not come: queue key, position and tag of the signaller (R119). -/
  through : List (Nat × Nat × Nat)
  /-- Address of the decoder's next control word (R420). -/
  upc : Nat
  overlay : List (BitVec 176)
  redirect : Tab Nat
  deriving DecidableEq, Repr

/-- Stream states of R140. -/
inductive StreamState where
  | idle | loading | running | stalled | draining | halted
  deriving DecidableEq, Repr

/-- What an argument slot is bound to at launch (R154, R167): the object key, its memory object, the tensor's byte
offset. -/
structure ArgBind where
  memKey : Nat
  mem : MemObj
  byteOffset : Nat
  deriving DecidableEq, Repr

/-- The launch of a stream (R167): the owner's context, tag and step, the command or loop, the version bound, the
partition's ordinal, the number of partitions, the Batch Record, the arguments and the Watch window. -/
structure Launch where
  ctx : Nat
  tag : Nat
  step : Nat
  loopId : Option Nat
  cmd : Option (Nat × Nat)
  gkey : Nat
  ver : Nat
  ordinal : Nat
  parts : List Nat
  benches : List Nat
  batch : Nat
  args : List (Option ArgBind)
  windowUs : Nat
  res : Nat
  deriving DecidableEq, Repr

/-- A posted side entry (R151) with the bundle that posted it. -/
structure Posted where
  entry : Nat
  textOffset : Nat
  cycle : Nat
  deriving DecidableEq, Repr

/-- A side engine: its queue, whose head is the entry it runs, its program counter, whether the current command's action has
been taken and its writes have not landed, or it has begun and waits (R150, R151, R173), and the 4 KiB landed of it (R352). -/
structure SideEngine where
  queue : List Posted
  pc : Option Nat
  busy : Bool
  waiting : Bool
  landed : Nat
  deriving DecidableEq, Repr

/-- A hub alarm on a stream (R168). -/
structure Alarm where
  cycle : Nat
  id : Nat
  prefetch : Bool
  deriving DecidableEq, Repr

/-- A reported alarm: id, late, unreached (R168). -/
structure AlarmReport where
  id : Nat
  late : Bool
  unreached : Bool
  deriving DecidableEq, Repr

/-- What a hazard or program error report carries (R173, R357): status, fault code, program cycle, text offset, core,
destination class, refused address. -/
structure StreamFault where
  status : Status
  code : Nat
  cycle : Nat
  textOffset : Nat
  core : Nat
  destClass : Nat
  address : Nat
  deriving DecidableEq, Repr

/-- A stream of a slice (R138). -/
structure Stream where
  state : StreamState
  mask : Nat
  stallCause : Nat
  stallFlag : Nat
  cycle : Nat
  pc : Nat
  loops : List (Nat × Nat)
  flags : BitVec 64
  regs : List W64
  pend : BitVec 32
  engines : List SideEngine
  alarms : List Alarm
  alarmReports : List AlarmReport
  slip : Option (Nat × Nat × Nat)
  slips : Nat
  slipCycles : Nat
  launch : Option Launch
  fault : Option StreamFault
  /-- The hub has sent a stop request (R173). -/
  stopSent : Bool
  confirmed : Bool
  progress : Nat
  sample : Nat
  /-- Time of the counter's last advance (R504). -/
  advanced : Nat
  heldSince : Nat
  /-- Watch has flagged it, and its counter has not moved since (R353). -/
  flagged : Bool
  retries : Nat
  /-- A read of its text has failed once (R375). -/
  textRetry : Bool
  /-- CCLK cycles since its first bundle's issue, that one included, and those of them charged (R266). -/
  ran : Nat
  charged : Nat
  deriving DecidableEq, Repr

/-- A slice (R137, R178 to R183): streams, cache lines of its four portions as (bench of the partition, graph key,
version, text offset), least recently used first, and counters. -/
structure Slice where
  streams : List Stream
  lines : List (Nat × Nat × Nat × Nat)
  slipTotal : List (Nat × Nat)
  misses : Nat
  missStall : Nat
  fastChannels : Nat
  badCrc : Nat
  deriving DecidableEq, Repr

/-- The loop parameter record of R196. -/
structure LoopParams where
  discard : Bool
  journal : Bool
  benchCount : Nat
  graphHandle : Nat
  argHandle : Nat
  argCount : Nat
  maxSeqs : Nat
  argOffset : Nat
  modelKey : Nat
  tokensPerPage : Nat
  chunkTokens : Nat
  maxTokens : Nat
  windowUs : Nat
  deadlineUs : Nat
  rtMhz : Nat
  demoteFormat : Nat
  mse : Nat
  jnlHandle : Nat
  jnlOffset : Nat
  jnlLog2 : Nat
  deriving DecidableEq, Repr

/-- An entry of a Batch Record (R213): sequence index, phase, flags, counts. -/
structure BEntry where
  seqIdx : Nat
  seqId : Nat
  phase : Nat
  sample : Bool
  cow : Bool
  kvTokens : Nat
  stepTokens : Nat
  deriving DecidableEq, Repr

/-- Inputs sampled as stage 1 begins (R185). -/
structure Sampled where
  shed : Nat
  freeFast : Int
  freeSlow : Int
  journalCongested : Bool
  /-- The block's own shed level, by which stage 7 acts: a replay's stages 2 to 6 use the recorded one (R395). -/
  level : Nat
  deriving DecidableEq, Repr

/-- Loop statistics (R219, R240, R402). -/
structure LoopStats where
  steps : Nat
  deadlineMisses : Nat
  ended : List Nat
  suffered : Nat
  inflicted : Nat
  stage5Stops : Nat
  lossy : List Nat
  native : Nat
  gated : Nat
  promoted : Nat
  lost : Nat
  mseSum : List Nat
  mseMax : Nat
  deriving DecidableEq, Repr

/-- The Journal ring of a loop (R389, R390). -/
structure Jnl where
  obj : Nat
  base : Loc
  log2 : Nat
  produced : Nat
  consumed : Nat
  badConsumed : Nat
  written : Nat
  waits : Nat
  gaps : Nat
  nextSeq : Nat
  waiting : List (Nat × List Byte)
  /-- The queue of the JOURNAL class whose cells hold the waiting records (R302). -/
  cells : Nat
  deriving DecidableEq, Repr

/-- The Journal of a loop that has become CLOSED while records of it waited for room (R389, R390; log 13): the loop, its context
and tag. -/
structure JnlLeft where
  loop : Nat
  ctx : Nat
  tag : Nat
  jnl : Jnl
  deriving DecidableEq, Repr

/-- A replay loop's window (R394, R395): records, command, first step, count, map of recorded to live sequences, result
word. -/
structure Replay where
  records : List (List Byte)
  queue : Nat
  pos : Nat
  first : Nat
  count : Nat
  map : List (Nat × Nat)
  result : Loc
  diverged : Option (Nat × Nat × Nat)
  deriving DecidableEq, Repr

/-- Where a loop stands between steps (R184, R195): idle, record written and launch due, or its step running. -/
inductive LoopPhase where
  | idle
  | recorded
  | running
  | ended
  deriving DecidableEq, Repr

/-- A serving loop that is OPEN or DRAINING (R199); a loop_id that is not listed is CLOSED. -/
structure Loop where
  draining : Bool
  phase : LoopPhase
  ctx : Nat
  tenant : Nat
  tag : Nat
  params : LoopParams
  gkey : Nat
  ver : Nat
  args : List (Option ArgBind)
  pins : List Nat
  step : Nat
  nextOrder : Nat
  sampled : Sampled
  entries : List BEntry
  batchOff : Nat
  slotBytes : Nat
  stats : LoopStats
  jnl : Option Jnl
  replay : Option Replay
  closer : Option (Nat × Nat)
  endedAt : Nat
  /-- An event has woken the loop while it was idle, and the frames Wardrobe had released when it became idle (R184). -/
  woken : Bool
  slept : Nat
  deriving DecidableEq, Repr

/-- Sequence states of R206. -/
inductive SeqState where
  | waiting | prefill | decode | preempted
  deriving DecidableEq, Repr

/-- The admission record of R201 as kept in the parameter block (R203). -/
structure AdmitRec where
  sharePrefix : Bool
  autoSeed : Bool
  outLog2 : Nat
  promptTokens : Nat
  maxNew : Nat
  seed : W64
  firstCounter : Nat
  prefixSource : Nat
  prefixTokens : Nat
  temperature : Nat
  topP : Nat
  topK : Nat
  stops : List Nat
  promptHandle : Nat
  promptOffset : Nat
  outHandle : Nat
  outOffset : Nat
  fenceHandle : Nat
  fenceOffset : Nat
  deriving DecidableEq, Repr

/-- A sequence record (R207) with its parameter block, its verdict and the last token it sampled. -/
structure Seq where
  state : SeqState
  cancel : Bool
  loopId : Nat
  seqId : Nat
  ctx : Nat
  tenant : Nat
  admitTag : Nat
  adm : AdmitRec
  rawAdmit : List Byte
  admitStep : Nat
  lastStep : Nat
  promptDone : Nat
  produced : Nat
  kvTokens : Nat
  root : Option Nat
  rootCount : Nat
  rootOwn : Bool
  reserve : Nat
  rtReserved : Bool
  phaseDecode : Bool
  staged : Bool
  acceptOrder : Nat
  preempts : Nat
  verdict : Option (Nat × Nat)
  lostPage : Option Nat
  lastToken : Nat
  promptLoc : Loc
  outLoc : Loc
  fence : FenceRef
  promptKey : Nat
  outKey : Nat
  fenceKey : Nat
  deriving DecidableEq, Repr

/-- Trestle (R184 to R219) and the Sequence Store's free indices (R58). -/
structure Trestle where
  loops : Tab Loop
  seqs : Tab Seq
  nextFresh : Nat
  freed : List Nat
  reuse : Tab Nat
  jnlLeft : List JnlLeft
  deriving DecidableEq, Repr

/-- Bench states of R265; a bench that is not listed is FREE. -/
inductive BenchState where
  | free | claimed | held | saving | clearing | restoring | out
  deriving DecidableEq, Repr

/-- A bench: state, residency, claimant job. -/
structure Bench where
  state : BenchState
  res : Option Nat
  claim : Option Nat
  deriving DecidableEq, Repr

/-- What a residency or a job belongs to (R261, R262). -/
inductive Owner where
  | loop (l : Nat)
  | graph
  deriving DecidableEq, Repr

/-- The registers of a stream that a save takes (R138, R279). -/
structure StreamRegs where
  cycle : Nat
  pc : Nat
  loops : List (Nat × Nat)
  flags : BitVec 64
  regs : List W64
  sidePc : List (Option Nat)
  deriving DecidableEq, Repr

/-- A residency (R262): benches held, or save frames while saved (R279). -/
structure Residency where
  ctx : Nat
  owner : Owner
  count : Nat
  benches : List Nat
  running : Bool
  cmd : Option (Nat × Nat)
  blockedAt : Option Nat
  placedAt : Nat
  saveFrames : List Nat
  saved : Bool
  moving : Bool
  /-- The streams its last step or run was sent to, and the registers that its save took from them (R279). -/
  streams : List (Nat × Nat)
  regs : List StreamRegs
  deriving DecidableEq, Repr

/-- A job waiting for benches (R261, R264). -/
structure Job where
  ctx : Nat
  owner : Owner
  cmd : Option (Nat × Nat)
  count : Nat
  since : Nat
  deriving DecidableEq, Repr

/-- The scheduler (R261 to R288, R294 to R296). -/
structure Sched where
  passes : Tab Nat
  gvt : Nat
  jobs : Tab Job
  nextJob : Nat
  residencies : Tab Residency
  nextRes : Nat
  benches : Tab Bench
  rtBenchMax : Nat
  minBat : Nat
  minInt : Nat
  evictAfter : Nat
  benchSel : Nat
  vacates : Nat
  slotsPerTenant : Nat
  unusable : List Nat
  deriving DecidableEq, Repr

/-- Frame states of R224. -/
inductive FrameState where
  | free | kv | model | save | reserved | leaving | lost
  deriving DecidableEq, Repr

/-- A frame table entry (R224); was keeps the use of a LEAVING frame. format and holders are those of the page the frame
holds, also while it is LEAVING or LOST: the entry's word shows them in state KV only (Frame.word). A frame that is not
listed is FREE with zero_pending set (R221), or RESERVED where a reserved range covers it (R220). -/
structure Frame where
  state : FrameState
  format : Nat
  accessed : Bool
  zeroPending : Bool
  holders : Nat
  was : FrameState
  deriving DecidableEq, Repr

/-- An entry of a leaf block (R227). -/
structure LeafEntry where
  valid : Bool
  lost : Bool
  frame : Nat
  deriving DecidableEq, Repr

/-- A leaf block (R227). -/
structure Leaf where
  pred : Option Nat
  predValid : Nat
  used : Nat
  chains : Nat
  entries : List LeafEntry
  deriving DecidableEq, Repr

/-- What a page mover's job does (R505). -/
inductive MoveKind where
  | copy (ctx queue pos : Nat) (src dst : Loc)
  | fill (ctx queue pos : Nat) (dst : Loc) (pattern : List Byte)
  | model (key : Nat) (src : Loc) (frames : List Nat)
  /-- A page move between frames (R247): format to be written, the page's loop, whether it is a demotion or swap, whether
  the source was counted free when it started (R192, R242), the step whose inputs it precedes (R246). -/
  | page (src dst : Nat) (format : Nat) (loopId : Option Nat) (demote early : Bool) (step : Nat)
  | cow (src dst : Nat)
  | zero (frame : Nat)
  | saveMove (src dst : Nat)
  deriving DecidableEq, Repr

/-- A job of a page mover. -/
structure MoveJob where
  /-- The order in which jobs were given to the movers. -/
  id : Nat
  /-- The mover it was given to. -/
  mover : Nat
  kind : MoveKind
  total : Nat
  done : Nat
  background : Bool
  stopped : Bool
  /-- The context and the tenant charged (R328), the key of its traffic (R473), and the tenant whose work it is (R295). -/
  ctx : Option Nat
  tenant : Option Nat
  key : Option Nat
  work : Option Nat
  deriving DecidableEq, Repr

/-- A page mover (R505, R352). -/
structure Mover where
  jobs : List MoveJob
  progress : Nat
  sample : Nat
  /-- Time of the counter's last advance (R504). -/
  advanced : Nat
  heldSince : Nat
  /-- The job for which Watch has flagged it, while its counter has not moved since (R353). -/
  flagged : Option Nat
  /-- The 1 ms interval in which background pieces were last served ahead of foreground work, how many, and whether the last piece
  was foreground work (R451). -/
  aheadMs : Nat
  ahead : Nat
  foreground : Bool
  deriving DecidableEq, Repr

/-- Model states of R253. -/
inductive ModelState where
  | loading | resident | evicted | miss | inPlace
  deriving DecidableEq, Repr

/-- An entry of the model directory (R253). -/
structure Model where
  tenant : Nat
  key : Nat
  state : ModelState
  frames : List Nat
  count : Nat
  pins : Nat
  srcKey : Nat
  src : Loc
  srcOffset : Nat
  length : Nat
  ctx : Nat
  lastUse : Nat
  waiters : List (Nat × Nat × Nat)
  /-- The context that loaded it has been torn down (R257). -/
  orphan : Bool
  deriving DecidableEq, Repr

/-- A map-out (R248, R249). -/
structure Mapout where
  tier : Tier
  channel : Nat
  lost : Bool
  units : List Nat
  source : Nat
  removed : Nat
  invalidated : Nat
  outcome : Nat
  tenant : Nat
  deriving DecidableEq, Repr

/-- Wardrobe (R220 to R260). -/
structure Wardrobe where
  hkBase : Nat
  enable : Bool
  pageLog2 : Nat
  slowGib : Nat
  fastGib : Nat
  built : Bool
  frames : Tab Frame
  leaves : Tab Leaf
  demoteBelow : Nat
  promoteAbove : Nat
  maxFrames : Nat
  minFrames : Nat
  mapout : Option Mapout
  mapoutLast : Nat × Bool
  mapoutWait : List Mapout
  phase2Due : Option Mapout
  removedTotal : Nat
  /-- 256 KiB units of channels mapped out, per tier (R220, R248). -/
  outUnits : List (Tier × Nat)
  outChannels : List (Tier × Nat)
  hand : Nat
  movers : List Mover
  models : Tab Model
  nextModel : Nat
  /-- Channels whose controller has reported FAULT and not READY since (R474). -/
  faultChannels : List (Tier × Nat)
  /-- Jobs given to the movers, and frames released, since reset: the model's own counts (R505, R184). -/
  nextJob : Nat
  released : Nat
  chmap : List Region
  deriving DecidableEq, Repr

/-- A cell of Chest (R298, R299); item is what its packet carries: a position, an event, a Journal record (log 29); taken: its
consumer has read it, and it waits to become the oldest, for cells leave a queue from its head (R312). -/
structure Cell where
  index : Nat
  data : List W64
  complete : Bool
  first : Bool
  last : Bool
  tenant : Option Nat
  poison : Bool
  item : Option Nat
  taken : Bool
  deriving DecidableEq, Repr

/-- A queue of cells, oldest first, with its read pointer and mark counted from the head (R312). -/
structure CellQueue where
  cells : List Cell
  rd : Nat
  mark : Option Nat
  deriving DecidableEq, Repr

/-- A producer's request for the cells of one packet (R300, R304): choice holds a cell for each, item what it carries,
data the bytes written to it when they are at hand, source the class and queue from which its item moves (R303). -/
structure CellReq where
  cls : Nat
  queue : Nat
  tenant : Option Nat
  choice : List Nat
  item : Option Nat
  data : Option (List Byte)
  source : Option (Nat × Nat)
  deriving DecidableEq, Repr

/-- Limits and status of a class (R302, R320, R321). -/
structure CellClass where
  used : Nat
  peak : Nat
  congested : Bool
  cut : Nat
  high : Nat
  low : Nat
  quota : Nat
  deriving DecidableEq, Repr

/-- Chest (R298 to R322). -/
structure Chest where
  queues : Tab CellQueue
  classes : List CellClass
  retired : List Nat
  peak : Nat
  hfpPause : Bool
  mfpPause : Bool
  mfpHigh : Nat
  mfpLow : Nat
  hfpHigh : Nat
  hfpLow : Nat
  /-- Requests not granted, in arrival order (R304); and the class granted last. -/
  waiting : List CellReq
  lastClass : Nat
  /-- The cell the last READ returned: its nine words with their check bits (R298, R312). -/
  readOut : List (W64 × Byte)
  bankThreshold : Nat
  eventStep : Nat
  corrected : Nat
  uncorrectable : Nat
  bankCount : Tab Nat
  bankBad : Tab Nat
  bankRetired : Tab Nat
  walk : Bool
  deriving DecidableEq, Repr

/-- Kinds of signed reports, in the code of R336. -/
inductive ReportKind where
  | periodic | requested | activation | retirement
  deriving DecidableEq, Repr

/-- A tenant slot of Bureau (R334). -/
structure Slot where
  counters : List W64
  incarnation : Nat
  start : List W64
  prevStart : List W64
  active : Bool
  prevValid : Bool
  sensorGap : Bool
  acc : Nat
  deriving DecidableEq, Repr

/-- Bureau (R323 to R351). -/
structure Bureau where
  samples : Tab Nat
  miss : Tab Nat
  last : Tab Nat
  res : Tab Nat
  unatt : Tab W64
  gap : Tab Nat
  missed : Tab Nat
  occ : Tab Nat
  slots : Tab Slot
  pending : List (Nat × ReportKind)
  signing : Option (List Byte)
  queue : List (List Byte)
  reportSeq : Nat
  timeUs : Nat
  /-- Periods of 60 s for which periodic reports have become pending (R338). -/
  periods : Nat
  epoch : W64
  expect : Nat
  usageGap : Bool
  sensorGap : Bool
  writeDrops : Nat
  keyOk : Bool
  deriving DecidableEq, Repr

/-- A recovery stage in progress (R359): unit is the partition of stage 2; phase counts the steps taken of R362 or
R366; byCmd: ordered by WCH_RESET_CMD; flr: by a Function Level Reset of the physical function. -/
structure Stage where
  stage : Nat
  unit : Nat
  at_ : Nat
  cause : Nat
  phase : Nat
  /-- Time of the last phase. -/
  since : Nat
  byCmd : Bool
  flr : Bool
  dumpSlot : Nat
  truncated : Bool
  ready : List Nat
  test : Bool
  /-- What a self-test found, with its partition's reset (R453, R454): 0 for none. -/
  detail : Nat
  deriving DecidableEq, Repr

/-- Watch (R352 to R387). -/
structure Watch where
  pfVector : Nat
  notify : Bool
  /-- The fields of WCH_CFG, and the windows in force since the last sample (R381). -/
  moverWindow : Nat
  hubWindow : Nat
  moverInForce : Nat
  hubInForce : Nat
  hubReady : Bool
  lastMc : Nat
  computeResets : Nat
  partitionResets : Nat
  faultTeardowns : Nat
  rstBusy : Bool
  rstResult : Nat
  spillBase : Nat
  spillValid : Bool
  stages : List Stage
  hubBusy : List Bool
  hubProgress : List Nat
  hubSample : List Nat
  hubHeld : List Nat
  /-- Time of each counter's last advance (R504). -/
  hubAdvanced : List Nat
  hubFlagged : List Bool
  /-- Positions retired in the compute dump only (R367): queue keys. -/
  lostCompletions : List Nat
  deriving DecidableEq, Repr

/-- Hutch (R370 to R374). -/
structure Hutch where
  log : List (List Byte)
  /-- The records of the log spill ring, oldest first: offset and length in the ring, whose bytes lie in the slow tier (R371). -/
  spill : List (Nat × Nat)
  spillAt : Nat
  /-- The bytes each dump slot holds, in the slow tier; and the slots whose dump is marked truncated (R374, R446). -/
  dumps : Tab Nat
  cut : List Nat
  dumpArea : List Byte
  nextSeq : Nat
  boot : Nat
  lastSlot : Nat
  nextSlot : Nat
  spillOk : Bool
  overwritten : Nat
  deriving DecidableEq, Repr

/-- An event waiting for the event ring (R405); id names its cell in Chest. -/
structure Event where
  id : Nat
  code : Nat
  merged : Bool
  count : Nat
  time : Nat
  ctx : Nat
  tenant : Nat
  tag : Nat
  srcKind : Nat
  srcNum : Nat
  words : List Nat
  deriving DecidableEq, Repr

/-- The JNL window, waiting events and trace staging (R405 to R409). -/
structure JnlRegs where
  evtBase : Nat
  evtLog2 : Nat
  evtCons : Nat
  evtMsix : Bool
  evtVector : Nat
  evtProd : Nat
  logBase : Nat
  logMin : Nat
  logLog2 : Nat
  logProd : Nat
  traceMask : W64
  traceBase : Nat
  traceLog2 : Nat
  traceDropped : Nat
  traceProd : Nat
  traceGap : Bool
  trace : List (List Byte)
  events : List Event
  nextEvt : Nat
  evtLost : Nat
  evtMerged : Nat
  evtWritten : Nat
  deriving DecidableEq, Repr

/-- The state window (R399). -/
structure Sta where
  addr : W64
  busy : Bool
  valid : Bool
  error : Nat
  data : List W64
  deriving DecidableEq, Repr

/-- States of a management core (R429). -/
inductive CoreState where
  | off | running | dumping | reloading | failed
  deriving DecidableEq, Repr

/-- A work item of a mailbox (R410, R430). -/
inductive Work where
  | modelLoad (k : Nat)
  | mapout (m : Mapout)
  | selftest (p : Nat)
  | bankTest (bank : Nat)
  | reportForward
  /-- A FIRMWARE record that MC1 writes once it runs (R410): core and payload. -/
  | firmwareRecord (core : Nat) (payload : List Byte)
  /-- A log entry (R407): level, the core that logs, and what it is about. -/
  | log (level core subject : Nat)
  /-- MC0's start-up work after the ROM (R410, R418 step 4). -/
  | bootSetup
  deriving DecidableEq, Repr

/-- A management core with its mailbox and YN1 watchdog (R429, R430, R434). -/
structure Core where
  state : CoreState
  mailbox : List Work
  inService : List Work
  progress : Nat
  sample : Nat
  heldSince : Nat
  restarts : List Nat
  cause : Nat
  trap : TrapFrame
  returned : Nat
  reloadFailed : Bool
  wdtEnable : Bool
  wdtExpired : Bool
  wdtExpiries : Nat
  wdtTimeout : Nat
  /-- When Settle last kicked or armed the watchdog (R434). -/
  wdtKick : Nat
  /-- The core's tightly coupled memory (R415, R429). -/
  tcm : List Host.Cell
  deriving DecidableEq, Repr

/-- A boot directory copy (R413). -/
structure BootDir where
  active : Nat
  pending : Option Nat
  tries : Nat
  seq : Nat
  deriving DecidableEq, Repr

/-- Update activation states (R435). -/
inductive UpdState where
  | idle | staging | staged | pendingEmergency | quiescing | loading | probation | rollingBack
  deriving DecidableEq, Repr

/-- The management complex (R410 to R439). -/
structure Mgmt where
  bootStage : Nat
  bootError : Nat
  slot : Nat
  fwReady : Bool
  bootedPending : Bool
  securityFloor : Nat
  restarts : Nat
  /-- fw_window_ms, and the window in force since the last sample (R439). -/
  fwWindow : Nat
  fwInForce : Nat
  fwVersion : Nat
  patchLevel : Nat
  cores : List Core
  updAddr : Nat
  updBusy : Bool
  updState : UpdState
  updResult : Nat
  stagedVersion : Nat
  updLength : Nat
  raiseFloor : Bool
  probationAt : Nat
  /-- Time of the release of block reset (R418). -/
  bootAt : Nat
  /-- The memory the four cores share (R415, R429). -/
  shared : List Host.Cell
  /-- A reload has failed since the activation entered LOADING; a rollback waits for MC0 (R410, R435). -/
  loadFailed : Bool
  rollbackDue : Bool
  deriving DecidableEq, Repr

/-- Clock request state of a partition (R447, R448, R460). -/
structure Vf where
  supply : Nat
  temp : Nat
  overgrants : Nat
  cap : Nat
  requested : Nat
  granted : Nat
  low : Bool
  late : Bool
  since : Nat
  deriving DecidableEq, Repr

/-- The Limiter, shed levels and background work (R440 to R461). -/
structure Power where
  level : Nat
  quiesced : Bool
  levelChanges : Nat
  sag : Nat
  therm : Bool
  hubTemp : Nat
  tempDemand : Nat
  vf : Tab Vf
  forced : Nat
  holdMs : Nat
  tWarn : Nat
  tHigh : Nat
  tCrit : Nat
  targetCode : Nat
  floorCode : Nat
  scrubPeriod : Nat
  calibPeriod : Nat
  bankTestPeriod : Nat
  telemetryPeriod : Nat
  scrubPasses : Nat
  priorityScrubs : Nat
  calibPostponed : Nat
  selftestsFailed : Nat
  belowSince : Nat
  /-- Self-tests queued or running: partition, command, running, start (R453). -/
  tests : List (Nat × Nat × Nat × Bool × Nat)
  failedParts : List Nat
  /-- A bank pass in progress: command if requested, banks left, failures, start (R455). -/
  bankPass : Option (Option (Nat × Nat) × Nat × Nat × Nat)
  bankOut : List Nat
  /-- Hub SRAM banks that have failed a test, out until block reset (R455). -/
  bankBad : List Nat
  calibrating : List Nat
  s6At : Nat
  /-- Time and slot of the quiesce's dump (R446). -/
  quiesceAt : Nat
  quiesceSlot : Nat
  deriving DecidableEq, Repr

/-- An ARMED barrier slot (R483). -/
structure Join where
  ctx : Nat
  queue : Nat
  pos : Nat
  epoch : Nat
  participants : Nat
  timeoutUs : Nat
  deadline : Nat
  deriving DecidableEq, Repr

/-- The link port (R482 to R490). -/
structure Link where
  owners : Tab Nat
  joins : Tab Join
  linksUp : List Nat
  transitPct : Nat
  stray : Nat
  /-- Collective data waiting for its RECV: partition, stream, peer, channel, data (R486). -/
  inbox : List (Nat × Nat × Nat × Nat × List Byte)
  discarded : Nat
  deriving DecidableEq, Repr

/-- The state of the block and its queue of waiting commands. -/
structure State where
  pending : List Instr
  time : W64
  port : Port
  integ : Integ
  mem : Mems
  hub : Hub
  tenants : Tab Tenant
  contexts : Tab Context
  objects : Tab Obj
  graphs : Tab GraphVers
  front : Front
  bramble : Bramble
  slices : Tab Slice
  trestle : Trestle
  sched : Sched
  wrd : Wardrobe
  chest : Chest
  bureau : Bureau
  watch : Watch
  hutch : Hutch
  jnl : JnlRegs
  sta : Sta
  mgmt : Mgmt
  power : Power
  link : Link
  deriving DecidableEq, Repr

/-- Trap registers of a core that has not trapped. -/
def TrapFrame.zero : TrapFrame := { mepc := 0, mcause := 0, mtval := 0, regs := [], stack := [] }

/-- A latch value for a queue that is not shut down. -/
def Latch.okay : Latch := { status := .ok, aux := 0 }

/-- A queue record with every field zero. -/
def QueueRec.zero : QueueRec :=
  { detailMode := 0, msixEnable := false, msixOnError := false, ringLog2 := 0, weight := 0, burst := 0, detailLog2 := 0,
    msixVector := 0, timeoutMs := 0, modDelayUs := 0, modCount := 0, ringBase := 0, completionAddr := 0, detailBase := 0,
    startIndex := 0 }

/-- A queue that is STOPPED and has not been enabled since its context was activated (R67). -/
def Queue.reset : Queue :=
  { state := .stopped, everEnabled := false, rcd := QueueRec.zero, d := 0, f := 0, w := 0, push := List.replicate 4 [],
    credit := 0, inflight := [], fetched := [], cmds := [], dropped := 0, badDoorbell := 0, badSize := 0, badDetail := 0,
    timeouts := 0, pd := 0, cd := 0, overflow := false, overflowCount := 0, missed := 0, spilled := [], unwritten := [],
    unreported := 0, firstUnreported := 0, urgent := false, progress := 0, sample := 0, sampleWas := 0, advanced := 0, heldSince := 0, shutAt := 0,
    shutLatch := Latch.okay }

/-- A side engine with nothing posted (R150). -/
def SideEngine.reset : SideEngine := { queue := [], pc := none, busy := false, waiting := false, landed := 0 }

/-- An IDLE stream (R140). -/
def Stream.reset : Stream :=
  { state := .idle, mask := 0, stallCause := 0, stallFlag := 0, cycle := 0, pc := 0, loops := [], flags := 0,
    regs := List.replicate 32 0, pend := 0, engines := List.replicate 4 SideEngine.reset, alarms := [],
    alarmReports := [], slip := none, slips := 0, slipCycles := 0, launch := none, fault := none,
    stopSent := false, confirmed := false, progress := 0, sample := 0, advanced := 0, heldSince := 0, flagged := false, retries := 0, textRetry := false, ran := 0, charged := 0 }

/-- A slice after reset (R178). -/
def Slice.reset : Slice :=
  { streams := List.replicate 4 Stream.reset, lines := [], slipTotal := List.replicate 4 (0, 0), misses := 0,
    missStall := 0, fastChannels := 8, badCrc := 0 }

/-- Front after reset; the round robin starts at context 0 (log 6). -/
def Front.reset : Front :=
  { queues := [], last := [], lastCtx := 16383, qBusy := false, qResult := 0, qBusyKey := 0, ctxDrops := [] }

/-- Bramble after reset (R129, R135, R136). -/
def Bramble.reset : Bramble :=
  { shadows := [], dlkEnable := true, dlkWindow := 100, dlkCnt := 0, prevSet := [], rises := [], nextOrder := 0, through := [],
    upc := 0, overlay := [], redirect := [] }

/-- Trestle after reset: every index free in ascending order, every reuse count 0 (R58). -/
def Trestle.reset : Trestle := { loops := [], seqs := [], nextFresh := 0, freed := [], reuse := [], jnlLeft := [] }

/-- The scheduler after reset (R268, R285, R286, R296). -/
def Sched.reset : Sched :=
  { passes := [], gvt := 0, jobs := [], nextJob := 0, residencies := [], nextRes := 0, benches := [],
    rtBenchMax := 192, minBat := 5000, minInt := 500, evictAfter := 50, benchSel := 0, vacates := 0,
    slotsPerTenant := 4, unusable := [] }

/-- An idle page mover. -/
def Mover.reset : Mover :=
  { jobs := [], progress := 0, sample := 0, advanced := 0, heldSince := 0, flagged := none, aheadMs := 0, ahead := 0,
    foreground := false }

/-- Wardrobe after reset (R221, R222, R244, R251, R259). -/
def Wardrobe.reset : Wardrobe :=
  { hkBase := 0, enable := false, pageLog2 := 16, slowGib := 0, fastGib := 0, built := false, frames := [],
    leaves := [], demoteBelow := 0, promoteAbove := 0, maxFrames := 0, minFrames := 0, mapout := none,
    mapoutLast := (0, false), mapoutWait := [], phase2Due := none, removedTotal := 0, outUnits := [],
    outChannels := [], hand := 0, movers := List.replicate 4 Mover.reset, models := [], nextModel := 0, faultChannels := [], nextJob := 0,
    released := 0, chmap := [] }

/-- A class of Chest with the limits of R302. -/
def CellClass.mk0 (quota high low cut : Nat) : CellClass :=
  { used := 0, peak := 0, congested := false, cut := cut, high := high, low := low, quota := quota }

/-- Chest after reset (R302, R319, R320, R322). -/
def Chest.reset : Chest :=
  { queues := [],
    classes := [CellClass.mk0 8192 49152 40960 1, CellClass.mk0 16384 65536 57344 1,
      CellClass.mk0 8192 32768 28672 4, CellClass.mk0 16384 32768 24576 1, CellClass.mk0 4096 8192 6144 1,
      CellClass.mk0 16384 32768 24576 8],
    retired := [], peak := 0, hfpPause := false, mfpPause := false, mfpHigh := 832, mfpLow := 768, hfpHigh := 768,
    hfpLow := 704, waiting := [], lastClass := 5, readOut := [], bankThreshold := 16, eventStep := 64, corrected := 0, uncorrectable := 0,
    bankCount := [], bankBad := [], bankRetired := [], walk := false }

/-- Bureau when VDD_AON has come up and no epoch is drawn yet but the one of log 7 (R346, R351). -/
def Bureau.reset : Bureau :=
  { samples := [], miss := [], last := [], res := [], unatt := [], gap := [], missed := [], occ := [], slots := [],
    pending := [], signing := none, queue := [], reportSeq := 0, timeUs := 0, periods := 0, epoch := 1, expect := 0,
    usageGap := false, sensorGap := false, writeDrops := 0, keyOk := true }

/-- Watch after POR (R381 to R386). -/
def Watch.reset : Watch :=
  { pfVector := 0, notify := false, moverWindow := 10, hubWindow := 10, moverInForce := 10, hubInForce := 10, hubReady := false, lastMc := 0,
    computeResets := 0, partitionResets := 0, faultTeardowns := 0, rstBusy := false, rstResult := 0, spillBase := 0,
    spillValid := false, stages := [], hubBusy := List.replicate 8 false, hubProgress := List.replicate 8 0,
    hubSample := List.replicate 8 0, hubHeld := List.replicate 8 0, hubAdvanced := List.replicate 8 0, hubFlagged := List.replicate 8 false, lostCompletions := [] }

/-- Hutch when the hub supply has come up (R387). -/
def Hutch.reset : Hutch :=
  { log := [], spill := [], spillAt := 0, dumps := [], cut := [], dumpArea := [], nextSeq := 0, boot := 0, lastSlot := 0, nextSlot := 0,
    spillOk := false, overwritten := 0 }

/-- The JNL window after reset (R409). -/
def JnlRegs.reset : JnlRegs :=
  { evtBase := 0, evtLog2 := 0, evtCons := 0, evtMsix := false, evtVector := 0, evtProd := 0, logBase := 0,
    logMin := 2, logLog2 := 0, logProd := 0, traceMask := 0, traceBase := 0, traceLog2 := 0, traceDropped := 0,
    traceProd := 0, traceGap := false, trace := [], events := [], nextEvt := 0, evtLost := 0, evtMerged := 0, evtWritten := 0 }

/-- The state window after reset (R399). -/
def Sta.reset : Sta := { addr := 0, busy := false, valid := false, error := 0, data := List.replicate 8 0 }

/-- A management core in OFF (R429, R434). -/
def Core.reset : Core :=
  { state := .off, mailbox := [], inService := [], progress := 0, sample := 0, heldSince := 0, restarts := [],
    cause := 0, trap := TrapFrame.zero, returned := 0, reloadFailed := false, wdtEnable := false, wdtExpired := false,
    wdtExpiries := 0, wdtTimeout := 1000, wdtKick := 0, tcm := [] }

/-- The management complex after reset, with the security floor that stays (R439, R416). -/
def Mgmt.reset (floor : Nat) : Mgmt :=
  { bootStage := 0, bootError := 0, slot := 0, fwReady := false, bootedPending := false, securityFloor := floor,
    restarts := 0, fwWindow := 20, fwInForce := 20, fwVersion := 0, patchLevel := 0, cores := List.replicate 4 Core.reset, updAddr := 0,
    updBusy := false, updState := .idle, updResult := 0, stagedVersion := 0, updLength := 0, raiseFloor := false,
    probationAt := 0, bootAt := 0, shared := [], loadFailed := false, rollbackDue := false }

/-- Clock state of a partition after reset (R460). -/
def Vf.reset (fmax : Nat) : Vf :=
  { supply := 0, temp := 0, overgrants := 0, cap := fmax, requested := 0, granted := 0, low := false, late := false,
    since := 0 }

/-- The Limiter after block reset: level S0 (R442), working thresholds of R458, R460, R461. -/
def Power.reset (fmax : Nat) : Power :=
  { level := 0, quiesced := false, levelChanges := 0, sag := 0, therm := false, hubTemp := 0, tempDemand := 0,
    vf := [], forced := 0, holdMs := 10, tWarn := 85, tHigh := 95, tCrit := 102, targetCode := fmax, floorCode := 16,
    scrubPeriod := 60, calibPeriod := 600, bankTestPeriod := 1440, telemetryPeriod := 1000, scrubPasses := 0,
    priorityScrubs := 0, calibPostponed := 0, selftestsFailed := 0, belowSince := 0, tests := [], failedParts := [],
    bankPass := none, bankOut := [], bankBad := [], calibrating := [], s6At := 0, quiesceAt := 0, quiesceSlot := 0 }

/-- The link port after block reset (R485, R489, R490). -/
def Link.reset : Link :=
  { owners := [], joins := [], linksUp := List.replicate 6 0, transitPct := 25, stray := 0, inbox := [],
    discarded := 0 }

/-- The HUB window after block reset. -/
def Hub.reset : Hub :=
  { tntBase := 0, ctxBase := 0, objBusy := false, objResult := 0, objLast := 0, sealAddr := 0, sealResult := 0,
    sealSlots := [], burRingBase := 0, burRingLog2 := 0, burProd := 0, devCaps := 0, hostCaps := 0, agreedCaps := 0,
    capsValid := false, bar0Count := 0, bar0Cause := 0, bar0Off := 0, barOwnLast := 0, burFifo := [], burHeld := [], burSeq := 0,
    bytAgg := [], uses := [] }

/-- The reference integration (00_scope.md, R459) with the choices of log 5. -/
def Integ.reference : Integ :=
  { slices := 40, latencyTableId := 1, revision := 0, vminMv := 850, tMax := 110, floorMin := 8, fmax := 64,
    gain := List.replicate 48 65536, offset := List.replicate 48 0, calibId := 0, serial := 0, devKey := 1, pubX := 0x6b17d1f2e12c4247f8bce6e563a440f277037d812deb33a0f4a13945d898c296,
    pubY := 0x4fe342e2fe1a7f9b8ee7eb4a7c0f9e162bce33576b315ececbb6406837bf51f5,
    keyHashes := List.replicate 4 0, revoked := List.replicate 4 false, romId := 0, mcKey := 0, rom := [], deviceCaps := 0xFF,
    fastGib := 960, slowGib := 3072, spillGib := some 3071, banks := 384, chmap := [] }

/-- Ports while BLK_RST_N is asserted after power-up (R463, R467): every partition in reset, nothing issued. -/
def Port.reset (n : Nat) : Port :=
  { porN := true, blkRstN := false, vddAon := true, hfpReady := false, lkpReady := false, prtRst := List.range n,
    resetReq := false, out := [], readData := 0, flr := [], flrPf := false, dropHost := [], dropAll := false,
    strapPins := (0, 0, 0, 0), straps := (0, 0, 0, 0), scan := false, xspiCsN := true, xspiResetN := false }

/-- No byte listed in any memory. -/
def Mems.empty : Mems := { host := [], fast := [], slow := [], scratch := [], flash := [] }

/-- The block after power-up, POR_N released and BLK_RST_N still asserted (R464, log 3). -/
def State.reset : State :=
  { pending := [], time := 0, port := Port.reset 40, integ := Integ.reference, mem := Mems.empty, hub := Hub.reset,
    tenants := [], contexts := [], objects := [], graphs := [], front := Front.reset, bramble := Bramble.reset,
    slices := [], trestle := Trestle.reset, sched := Sched.reset, wrd := Wardrobe.reset, chest := Chest.reset,
    bureau := Bureau.reset, watch := Watch.reset, hutch := Hutch.reset, jnl := JnlRegs.reset, sta := Sta.reset,
    mgmt := Mgmt.reset 0, power := Power.reset 64, link := Link.reset }

end Sys2Proof.Machine
end

