-- ==== Sys2Proof/Machine/Flags.lean ====
section
/-! DEFINITION. Codes and comparisons: statuses (R117), events (R118), opcodes (R109), fences (R120, R121), shed levels
(R441, R445), serial-number comparisons, checksums. -/

namespace Sys2Proof.Machine

/-- Status code (R117). -/
def Status.code : Status → Nat
  | .ok => 0x00 | .aborted => 0x01 | .malformed => 0x02 | .unsupported => 0x03 | .stale => 0x04 | .access => 0x05
  | .timeout => 0x06 | .hang => 0x07 | .deadlock => 0x08 | .hazard => 0x09 | .engineFault => 0x0A
  | .memUncorrectable => 0x0B | .noMemory => 0x0C | .peerTimeout => 0x0D | .contextLost => 0x0E
  | .partitionReset => 0x0F | .shed => 0x10 | .verifyReject => 0x11 | .busy => 0x12 | .replayDiverge => 0x13
  | .preemptedDiscard => 0x14

/-- Event codes (R118). -/
def evFenceRegress : Nat := 1
def evTimingSlip : Nat := 2
def evFwRestart : Nat := 3
def evCapacityChange : Nat := 4
def evShedLevel : Nat := 5
def evDetailOverflow : Nat := 6
def evCorrectedEcc : Nat := 7
def evPeerTimeout : Nat := 8
def evDeadlock : Nat := 9

/-- A row of the opcode table of R109: capability bit (R424), allowed for generation 1. -/
structure OpRow where
  code : Nat
  cap : Option Nat
  gen1 : Bool
  deriving DecidableEq, Repr

/-- The opcodes of R109; values not listed are reserved. -/
def opTable : List OpRow :=
  [⟨0x00, none, true⟩, ⟨0x01, none, true⟩, ⟨0x02, none, true⟩, ⟨0x03, none, true⟩, ⟨0x04, none, true⟩,
   ⟨0x05, none, true⟩, ⟨0x06, none, false⟩, ⟨0x08, some 0, false⟩, ⟨0x09, some 0, false⟩, ⟨0x0A, some 0, false⟩,
   ⟨0x0B, some 0, false⟩, ⟨0x0C, some 1, false⟩, ⟨0x0D, some 1, false⟩, ⟨0x0E, some 1, false⟩, ⟨0x10, none, false⟩,
   ⟨0x11, some 2, false⟩, ⟨0x12, none, false⟩, ⟨0x13, none, false⟩, ⟨0x14, some 3, false⟩, ⟨0x15, none, false⟩,
   ⟨0x16, none, false⟩, ⟨0x17, some 4, false⟩]

/-- The row of an opcode. -/
def opRow (op : Nat) : Option OpRow := opTable.find? (fun r => r.code == op)

/-- Capability bits of R424 that are not tied to an opcode. -/
def capSealed : Nat := 5
def capGen1 : Nat := 6
def capWdt : Nat := 7

/-- How far the count a is past the count b, both modulo 2 to the power w. -/
def lag (w a b : Nat) : Nat := (a + (2 ^ w - b % 2 ^ w)) % 2 ^ w

/-- A wait is met (R120, R121). -/
def waitMet (compact : Bool) (c v : Nat) : Bool :=
  if compact then decide (lag 32 c v < 2 ^ 31) else decide (v ≤ c)

/-- What a signal does to a fence that holds c (R120, R121): rise, nothing, or refused. -/
inductive SignalEffect where
  | rise | same | regress
  deriving DecidableEq, Repr

/-- The effect of a signal s on a fence that holds c. -/
def signalEffect (compact : Bool) (c s : Nat) : SignalEffect :=
  if compact then
    let d := lag 32 s c
    if d = 0 then .same else if d < 2 ^ 31 then .rise else .regress
  else if s = c then .same else if c < s then .rise else .regress

/-- Serial-number arithmetic over 2^31 (R207): a is before b. -/
def before32 (a b : Nat) : Bool :=
  let d := lag 32 b a
  decide (1 ≤ d) && decide (d < 2 ^ 31)

/-- Serial-number arithmetic over 2^63 (R267): pass a is below pass b. -/
def below64 (a b : Nat) : Bool :=
  let d := lag 64 b a
  decide (1 ≤ d) && decide (d < 2 ^ 63)

/-- The shed level from which a command is refused at dispatch (R445); 7 for never. rt: from a context of class RT;
evicted: an OP_MODEL_PIN of an EVICTED model. -/
def refusedFrom (op : Nat) (rt evicted : Bool) : Nat :=
  if op = 0x14 then 1
  else if op = 0x09 ∨ op = 0x17 then 2
  else if op = 0x0C then 3
  else if op = 0x0D then (if evicted then 3 else 6)
  else if op = 0x08 then (if rt then 6 else 4)
  else if op = 0x03 ∨ op = 0x04 ∨ op = 0x13 then (if rt then 6 else 5)
  else if op = 0x00 ∨ op = 0x01 ∨ op = 0x02 ∨ op = 0x15 ∨ op = 0x10 ∨ op = 0x12 ∨ op = 0x16 ∨ op = 0x0A ∨ op = 0x0B then 7
  else 6

/-- One step of a CRC over a bit, most significant bit first, width w and polynomial p. -/
def crcBit (w p acc : Nat) (b : Bool) : Nat :=
  let top := acc.testBit (w - 1) != b
  let sh := (acc * 2) % 2 ^ w
  if top then sh ^^^ p else sh

/-- One step of a CRC over a byte, most significant bit first. -/
def crcByte (w p acc : Nat) (b : Byte) : Nat :=
  [7, 6, 5, 4, 3, 2, 1, 0].foldl (fun a i => crcBit w p a (b.toNat.testBit i)) acc

/-- CRC-16 of R372: polynomial 0x1021, initial value 0xFFFF. -/
def crc16 (bs : List Byte) : Nat := bs.foldl (crcByte 16 0x1021) 0xFFFF

/-- One bit of the reflected CRC-32. -/
def crc32Bit (a : Nat) : Nat := if a % 2 = 1 then a / 2 ^^^ 0xEDB88320 else a / 2

/-- CRC-32 of IEEE 802.3 (R413): reflected, initial value and final complement all ones. -/
def crc32 (bs : List Byte) : Nat :=
  bs.foldl (fun a b => (List.range 8).foldl (fun a _ => crc32Bit a) (a ^^^ b.toNat)) 0xFFFFFFFF ^^^ 0xFFFFFFFF

/-- CRC-64 of R393: ECMA-182, initial value 0, no reflection. -/
def crc64 (bs : List Byte) : Nat := bs.foldl (crcByte 64 0x42F0E1EBA9EA3693) 0

/-- An IEEE 754 binary32 pattern is finite and not negative (R196, R201: finite and ≥ 0). -/
def f32NonNeg (v : Nat) : Bool := decide (v < 0x7F800000) || decide (v = 0x80000000)

/-- An IEEE 754 binary32 pattern is greater than 0 and at most 1 (R201). -/
def f32UnitInterval (v : Nat) : Bool := decide (0 < v) && decide (v ≤ 0x3F800000)

/-- Code of a service class (R27). -/
def Cls.code : Cls → Nat
  | .rt => 0 | .int => 1 | .bat => 2

/-- Code of a queue state (R401). -/
def QState.code : QState → Nat
  | .stopped => 0 | .idle => 1 | .fetching => 2 | .idleArmed => 3 | .shutting => 4

/-- Code of a stream state (R180). -/
def StreamState.code : StreamState → Nat
  | .idle => 0 | .loading => 1 | .running => 2 | .stalled => 3 | .draining => 4 | .halted => 5

/-- Code of a bench state (R287). -/
def BenchState.code : BenchState → Nat
  | .free => 0 | .claimed => 1 | .held => 2 | .saving => 3 | .clearing => 4 | .restoring => 5 | .out => 6

/-- Code of a sequence state (R207). -/
def SeqState.code : SeqState → Nat
  | .waiting => 1 | .prefill => 2 | .decode => 3 | .preempted => 4

/-- Code of a core state (R439). -/
def CoreState.code : CoreState → Nat
  | .off => 0 | .running => 1 | .dumping => 2 | .reloading => 3 | .failed => 4

/-- Code of an update state (R438). -/
def UpdState.code : UpdState → Nat
  | .idle => 0 | .staging => 1 | .staged => 2 | .pendingEmergency => 3 | .quiescing => 4 | .loading => 5
  | .probation => 6 | .rollingBack => 7

/-- Code of a frame state (R224). -/
def FrameState.code : FrameState → Nat
  | .free => 0 | .kv => 1 | .model => 2 | .save => 3 | .reserved => 4 | .leaving => 5 | .lost => 6

/-- Code of a report kind (R336). -/
def ReportKind.code : ReportKind → Nat
  | .periodic => 1 | .requested => 2 | .activation => 3 | .retirement => 4

/-- Rank of a report kind when two meet in one slot (R338): activation and retirement over requested over periodic. -/
def ReportKind.rank : ReportKind → Nat
  | .periodic => 0 | .requested => 1 | .activation => 2 | .retirement => 2

/-- Code of a tier (R472). -/
def tierCode : Tier → Nat
  | .fast => 0 | .slow => 1

/-- The space of a tier. -/
def tierSpace : Tier → Space
  | .fast => .fast | .slow => .slow

/-- Code of a hub engine (R504). -/
def hubCode : HubEngine → Nat
  | .frontFetch => 0 | .frontCompletion => 1 | .bramble => 2 | .trestle => 3 | .scheduler => 4 | .wardrobe => 5
  | .journal => 6 | .event => 7

end Sys2Proof.Machine
end

