-- ==== Sys2Proof/Machine/Operands.lean ====
section
/-! DEFINITION. The fields of the records and descriptors YN2 reads, and which values are legal: tenant, context and
queue records (R24, R27, R65), seal keys (R163), handles and object entries (R38 to R50), ring entries (R101 to R116),
loop parameter and admission records (R196, R201). -/

namespace Sys2Proof.Machine

/-- The tenant record of R24 where every field is legal and every reserved field zero; n is the number of slices. -/
def parseTenant (n : Nat) (b : List Byte) : Option TenantRec :=
  let flags := fld b 1 1
  let r : TenantRec :=
    { isSealed := bit flags 0, allowRt := bit flags 1, allowInt := bit flags 2, allowBat := bit flags 3,
      share := fld b 2 2, maxContexts := fld b 4 2, maxLoops := fld b 6 2, maxSequences := fld b 8 4,
      benchQuota := fld b 12 2, fastBase := fld b 16 8, fastSize := fld b 24 8, slowBase := fld b 32 8,
      slowSize := fld b 40 8, maxKvFrames := fld b 48 4 }
  if b.length = 64 ∧ fld b 0 1 = 2 ∧ flags < 16 ∧ 1 ≤ r.share ∧ 1 ≤ r.maxContexts ∧ r.maxContexts ≤ 16384 ∧
      r.maxLoops ≤ 1024 ∧ r.maxSequences ≤ 262144 ∧ 1 ≤ r.benchQuota ∧ r.benchQuota ≤ 4 * n ∧
      fld b 14 2 = 0 ∧ r.fastBase % 65536 = 0 ∧ r.fastSize % 65536 = 0 ∧ r.slowBase % 65536 = 0 ∧
      r.slowSize % 65536 = 0 ∧ allZero (slice b 52 12) = true
  then some r else none

/-- A service class code of R27; 0b11 is illegal. -/
def clsOf (v : Nat) : Option Cls :=
  if v = 0 then some .rt else if v = 1 then some .int else if v = 2 then some .bat else none

/-- The context record of R27 where every field is legal; swap_mode needs class INT or BAT (R29). -/
def parseCtx (b : List Byte) : Option CtxRec :=
  let flags := fld b 1 1
  match clsOf (flags % 4) with
  | none => none
  | some cls =>
    let r : CtxRec :=
      { cls := cls, swap := bit flags 2, tenant := fld b 2 2, share := fld b 4 2, fn := fld b 6 2, pasid := fld b 8 4,
        queueCount := fld b 12 2, objLog2 := fld b 14 1, queueTable := fld b 16 8, objTable := fld b 24 8,
        faultAddr := fld b 32 8, msixLast := fld b 40 2 }
    if b.length = 64 ∧ fld b 0 1 = 2 ∧ flags < 8 ∧ r.tenant < 1024 ∧ 1 ≤ r.share ∧ r.fn ≤ 1024 ∧ r.pasid < 2 ^ 20 ∧
        1 ≤ r.queueCount ∧ r.queueCount ≤ 256 ∧ 4 ≤ r.objLog2 ∧ r.objLog2 ≤ 20 ∧ fld b 15 1 = 0 ∧
        r.queueTable % 4096 = 0 ∧ r.objTable % 4096 = 0 ∧ r.faultAddr % 64 = 0 ∧ r.msixLast ≤ 4095 ∧
        allZero (slice b 42 22) = true ∧ (r.swap = true → cls ≠ Cls.rt)
    then some r else none

/-- The queue record of R65 where every field is legal. A field that is ignored while msix_enable is 0 has no illegal
value then. -/
def parseQueue (b : List Byte) : Option QueueRec :=
  let flags := fld b 1 1
  let r : QueueRec :=
    { detailMode := flags % 4, msixEnable := bit flags 2, msixOnError := bit flags 3, ringLog2 := fld b 2 1,
      weight := fld b 3 1, burst := fld b 4 1, detailLog2 := fld b 5 1, msixVector := fld b 6 2,
      timeoutMs := fld b 8 4, modDelayUs := fld b 12 2, modCount := fld b 14 1, ringBase := fld b 16 8,
      completionAddr := fld b 24 8, detailBase := fld b 32 8, startIndex := fld b 40 4 }
  if b.length = 64 ∧ fld b 0 1 = 2 ∧ flags < 16 ∧ r.detailMode ≠ 3 ∧ 4 ≤ r.ringLog2 ∧ r.ringLog2 ≤ 16 ∧
      1 ≤ r.weight ∧ 1 ≤ r.burst ∧ r.burst ≤ 64 ∧
      (if r.detailMode = 0 then r.detailLog2 = 0 ∧ r.detailBase = 0
       else 4 ≤ r.detailLog2 ∧ r.detailLog2 ≤ 16 ∧ r.detailBase % 4096 = 0) ∧
      (r.msixEnable = true → r.msixVector ≤ 4095 ∧ 1 ≤ r.modDelayUs ∧ 1 ≤ r.modCount) ∧
      1 ≤ r.timeoutMs ∧ r.timeoutMs ≤ 60000 ∧ fld b 15 1 = 0 ∧ r.ringBase % 4096 = 0 ∧
      r.completionAddr % 8 = 0 ∧ allZero (slice b 44 20) = true
  then some r else none

/-- The seal key record of R163 where it is legal. -/
def parseSealKey (b : List Byte) : Option SealKey :=
  let k : SealKey := { keyId := fld b 0 4, qx := fld b 8 32, qy := fld b 40 32 }
  if b.length = 128 ∧ fld b 4 1 = 2 ∧ k.keyId ≠ 0 ∧ allZero (slice b 5 3) = true ∧ allZero (slice b 72 56) = true ∧
      onCurve curve256 k.qx k.qy = true
  then some k else none

/-- Fields of a handle (R38). -/
def hKind (h : Nat) : Nat := bits h 31 30
def hTag (h : Nat) : Nat := bits h 29 20
def hIndex (h : Nat) : Nat := bits h 19 0

/-- The key of an object in the cache table. -/
def objKey (c idx : Nat) : Nat := c * 2 ^ 20 + idx

/-- The key of a queue in the queue table. -/
def qkey (c q : Nat) : Nat := c * 256 + q

/-- Bits of an element of a dtype (R46); none for an illegal dtype. -/
def dtypeBits (d : Nat) : Option Nat :=
  if d = 1 ∨ d = 7 then some 32 else if d = 2 ∨ d = 3 then some 16
  else if d = 4 ∨ d = 5 ∨ d = 6 ∨ d = 8 ∨ d = 0x0C then some 8
  else if d = 9 ∨ d = 0x0A then some 6 else if d = 0x0B then some 4 else none

/-- A block-scaled dtype (R46). -/
def dtypeScaled (d : Nat) : Bool := decide (8 ≤ d) && decide (d ≤ 0x0C)

/-- An object entry read on a cache miss: header of R40 and the body of its kind, with what has to be checked against
other entries. -/
inductive RawBody where
  | mem (o : MemObj)
  | tensor (memHandle dtype byteOffset need : Nat)
  | graph (imageHandle imageOffset imageLength : Nat)
  deriving DecidableEq, Repr

/-- The memory object fields of R42 where they are legal; hloc gives a host address its space. -/
def parseMem (hloc : Nat → Loc) (b : List Byte) : Option RawBody :=
  let acc := fld b 25 1
  let backing := fld b 24 1
  let addr := fld b 8 8
  let size := fld b 16 8
  if addr % 4096 = 0 ∧ size ≠ 0 ∧ size % 4096 = 0 ∧ backing ≤ 2 ∧ acc < 16 ∧ allZero (slice b 26 6) = true ∧
      fld b 32 8 % 4096 = 0 ∧ allZero (slice b 40 24) = true
  then
    let base := if backing = 0 then (hloc addr).addr else addr
    some (.mem { addr := base, size := size,
                 space := if backing = 0 then .host else if backing = 1 then .fast else .slow,
                 read := bit acc 0, write := bit acc 1, fence := bit acc 2, prog := bit acc 3, devVa := fld b 32 8 })
  else none

/-- dims[i] and strides[i] of a tensor descriptor (R45). -/
def tDim (b : List Byte) (i : Nat) : Nat := fld b (24 + 4 * i) 4
def tStride (b : List Byte) (i : Nat) : Nat := fld b (44 + 4 * i) 4

/-- The extent a tensor descriptor needs (R47), none where the descriptor is illegal. -/
def parseTensor (b : List Byte) : Option RawBody :=
  let rank := fld b 13 1
  let dtype := fld b 12 1
  match dtypeBits dtype with
  | none => none
  | some w =>
    let used := (List.range 5).all (fun i =>
      if i < rank then decide (1 ≤ tDim b i) else decide (tDim b i = 0))
    let str := (List.range 4).all (fun i => if i + 1 < rank then true else decide (tStride b i = 0))
    let last := (List.range (rank - 1)).foldl (fun a i => a + (tDim b (i + 1) - 1) * tStride b i) (tDim b 0 - 1)
    let data := ceilDiv ((last + 1) * w) 8
    let off := fld b 16 8
    let so := fld b 60 4
    let scales := (List.range (rank - 1)).foldl (fun a i => a * tDim b (i + 1)) (ceilDiv (tDim b 0) 32)
    let need := if dtypeScaled dtype then max (off + data) (off + so + scales) else off + data
    if 1 ≤ rank ∧ rank ≤ 5 ∧ fld b 14 2 = 0 ∧ used = true ∧ str = true ∧
        (if dtypeScaled dtype then data ≤ so else so = 0) ∧ hKind (fld b 8 4) = 0
    then some (.tensor (fld b 8 4) dtype off need) else none

/-- The graph fields of R50 where they are legal. -/
def parseGraph (b : List Byte) : Option RawBody :=
  if fld b 12 4 = 0 ∧ fld b 16 8 % 4096 = 0 ∧ fld b 24 8 ≠ 0 ∧ allZero (slice b 32 32) = true
  then some (.graph (fld b 8 4) (fld b 16 8) (fld b 24 8)) else none

/-- The body of an object entry whose own fields are legal (check 5 of R39). -/
def parseObj (hloc : Nat → Loc) (b : List Byte) : Option RawBody :=
  if b.length = 64 ∧ fld b 0 1 = 2 ∧ fld b 3 1 = 0 ∧ fld b 4 2 < 1024 ∧ fld b 6 2 = 0 then
    let k := fld b 1 1
    if k = 0 then parseMem hloc b else if k = 1 then parseTensor b else if k = 2 then parseGraph b else none
  else none

/-- Header fields of a ring entry (R101). -/
def eGen (e : List Byte) : Nat := fld e 0 1
def eOp (e : List Byte) : Nat := fld e 1 1
def eFlags (e : List Byte) : Nat := fld e 2 1
def eWaits (e : List Byte) : Nat := fld e 3 1 % 8
def eSignals (e : List Byte) : Nat := (fld e 3 1 / 16) % 8
def eTag (e : List Byte) : Nat := fld e 4 4
def eDepHandle (e : List Byte) : Nat := fld e 8 4
def eDepOffset (e : List Byte) : Nat := fld e 12 4
/-- The ordered flag (R102). -/
def eOrdered (e : List Byte) : Bool := bit (eFlags e) 0
/-- The compact flag, read as 1 for generation 1 (R110). -/
def eCompact (e : List Byte) : Bool := decide (eGen e = 1) || bit (eFlags e) 1

/-- One field check: the offset of the field and whether its value is legal. -/
abbrev FieldCheck := Nat × Bool

/-- Zero bytes from a to b of a record, checked as one reserved field. -/
def rsv (e : List Byte) (a b : Nat) : FieldCheck := (a, allZero (slice e a (b - a)))

/-- Payload bytes from a to b that a layout does not list: each is reserved by itself (R101), so the first that is not
zero is the failing field. -/
def rsvBytes (e : List Byte) (a b : Nat) : FieldCheck :=
  let run := slice e a (b - a)
  (a + run.findIdx (fun x => x != 0), allZero run)

/-- A field of n bytes aligned to m. -/
def aligned (e : List Byte) (a n m : Nat) : FieldCheck := (a, decide (fld e a n % m = 0))

/-- A field of n bytes that is not zero. -/
def nonzero (e : List Byte) (a n : Nat) : FieldCheck := (a, decide (fld e a n ≠ 0))

/-- A handle field whose kind is not one of those the field takes (R113 to R116). -/
def kindIs (e : List Byte) (a : Nat) (ks : List Nat) : FieldCheck := (a, ks.contains (hKind (fld e a 4)))

/-- The first field whose check fails. -/
def firstBad (l : List FieldCheck) : Option Nat := (l.find? (fun c => !c.2)).map (·.1)

/-- Header checks of step 3 of R105, in ascending offset. The compact flag of a generation-1 entry is ignored (R110). -/
def headerChecks (e : List Byte) : List FieldCheck :=
  let wc := eWaits e
  let sc := eSignals e
  let deps := fld e 3 1
  let rule := if eOp e = 1 then decide (1 ≤ wc) else if eOp e = 2 then decide (1 ≤ sc) else true
  let none_ := decide (wc = 0 ∧ sc = 0)
  [(2, decide (eFlags e < 4)),
   (3, !bit deps 3 && !bit deps 7 && decide (wc ≤ 4) && decide (sc ≤ 4) && rule),
   (8, if none_ then decide (eDepHandle e = 0) else decide (hKind (eDepHandle e) = 0 ∨ hKind (eDepHandle e) = 3)),
   (12, if none_ then decide (eDepOffset e = 0) else decide (eDepOffset e % 16 = 0))]

/-- Bench counts legal for n slices (R113). -/
def okBenchCount (n v : Nat) : Bool :=
  (decide (1 ≤ v) && decide (v ≤ 4)) || (decide (v % 4 = 0) && decide (4 ≤ v) && decide (v ≤ 4 * n))

/-- Payload checks of step 3 of R105 for each opcode, in ascending offset (R111 to R116, R453). -/
def payloadChecks (n : Nat) (e : List Byte) : List FieldCheck :=
  let op := eOp e
  if op ≤ 2 then [rsvBytes e 16 64]
  else if op = 3 then
    let s := fld e 24 8
    let d := fld e 32 8
    let n := fld e 40 8
    [kindIs e 16 [0], kindIs e 20 [0],
     (32, decide (fld e 16 4 ≠ fld e 20 4 ∨ d + n ≤ s ∨ s + n ≤ d ∨ n = 0)), nonzero e 40 8, rsvBytes e 48 64]
  else if op = 4 then
    let pb := fld e 20 1
    let ok := decide (pb = 1 ∨ pb = 2 ∨ pb = 4 ∨ pb = 8)
    [kindIs e 16 [0], (20, ok), rsvBytes e 21 24, (24, !ok || decide (fld e 24 8 % pb = 0)),
     (32, !ok || (decide (fld e 32 8 ≠ 0) && decide (fld e 32 8 % pb = 0))),
     (40, !ok || decide (fld e 40 8 < 256 ^ pb)), rsvBytes e 48 64]
  else if op = 5 then
    let ac := fld e 32 2
    [kindIs e 16 [2], (20, if ac = 0 then decide (fld e 20 4 = 0) else decide (hKind (fld e 20 4) = 0)), aligned e 24 8 4, (32, decide (ac ≤ 256)),
     (34, okBenchCount n (fld e 34 2)), (36, decide (100 ≤ fld e 36 4) && decide (fld e 36 4 ≤ 60000000)),
     rsvBytes e 40 64]
  else if op = 6 then [kindIs e 16 [2], kindIs e 20 [0], aligned e 24 8 4096, nonzero e 32 8, rsvBytes e 40 64]
  else if op = 8 then [kindIs e 16 [0], kindIs e 20 [0], aligned e 24 8 64, aligned e 32 8 8, rsvBytes e 40 64]
  else if op = 9 then
    [(16, decide (fld e 16 2 ≤ 1023)), rsvBytes e 18 20, kindIs e 20 [0], aligned e 24 8 64, kindIs e 32 [0], rsvBytes e 36 40, aligned e 40 8 8, rsvBytes e 48 64]
  else if op = 0x0A then [(16, decide (fld e 16 2 ≤ 1023)), rsvBytes e 18 20, rsvBytes e 24 64]
  else if op = 0x0B then [(16, decide (fld e 16 2 ≤ 1023)), (18, decide (fld e 18 1 ≤ 1)), rsvBytes e 19 64]
  else if op = 0x0C then [nonzero e 16 8, kindIs e 24 [0], rsvBytes e 28 32, aligned e 32 8 4096, nonzero e 40 8, rsvBytes e 48 64]
  else if op = 0x0D ∨ op = 0x0E then [nonzero e 16 8, rsvBytes e 24 64]
  else if op = 0x10 then
    [kindIs e 20 [0], rsvBytes e 28 32, (32, !eCompact e || decide (fld e 32 8 < 2 ^ 32)), rsvBytes e 40 64]
  else if op = 0x11 then
    [(16, decide (fld e 16 2 ≤ 255)), rsvBytes e 18 20, (24, decide (2 ≤ fld e 24 4) && decide (fld e 24 4 ≤ 16384)),
     (28, decide (1 ≤ fld e 28 4) && decide (fld e 28 4 ≤ 60000000)), rsvBytes e 32 64]
  else if op = 0x12 then
    let sel := fld e 16 1
    [(16, decide (1 ≤ sel) && decide (sel ≤ 5)), rsvBytes e 17 20, (20, decide ((sel = 4) = (fld e 20 4 ≠ 0))),
     kindIs e 24 [0], rsvBytes e 28 32, aligned e 32 8 64, rsvBytes e 40 64]
  else if op = 0x13 then [kindIs e 16 [0], rsvBytes e 20 24, aligned e 24 8 4096, nonzero e 32 8, rsvBytes e 40 64]
  else if op = 0x14 then
    let tg := fld e 16 1
    [(16, decide (tg = 1 ∨ tg = 2)), (17, decide (fld e 17 1 ≤ 1)),
     (18, if tg = 1 then decide (fld e 18 2 < n) else decide (fld e 18 2 = 0)), kindIs e 20 [0],
     aligned e 24 8 8, rsvBytes e 32 64]
  else if op = 0x15 then [kindIs e 16 [0], rsvBytes e 20 24, aligned e 24 8 8, rsvBytes e 32 64]
  else if op = 0x16 then [rsvBytes e 17 24, kindIs e 32 [0], rsvBytes e 36 40, aligned e 40 8 8, rsvBytes e 48 64]
  else if op = 0x17 then
    [kindIs e 16 [0], kindIs e 20 [0], aligned e 24 8 64, nonzero e 32 8, aligned e 40 8 8, nonzero e 56 8]
  else []

/-- The first illegal field of a ring entry (step 3 of R105), none where every field is legal. -/
def entryBadField (n : Nat) (e : List Byte) : Option Nat := firstBad (headerChecks e ++ payloadChecks n e)

/-- The loop parameter record of R196, or the offset of its first illegal field (order 1 of R197). -/
def parseLoopParams (n : Nat) (b : List Byte) : Except Nat LoopParams :=
  let p : LoopParams :=
    { discard := bit (fld b 1 1) 0, journal := bit (fld b 1 1) 1, benchCount := fld b 2 2, graphHandle := fld b 4 4,
      argHandle := fld b 8 4, argCount := fld b 12 2, maxSeqs := fld b 14 2, argOffset := fld b 16 8,
      modelKey := fld b 24 8, tokensPerPage := fld b 32 4, chunkTokens := fld b 36 4, maxTokens := fld b 40 4,
      windowUs := fld b 44 4, deadlineUs := fld b 48 4, rtMhz := fld b 52 2, demoteFormat := fld b 54 1,
      mse := fld b 56 4, jnlHandle := fld b 60 4, jnlOffset := fld b 64 8, jnlLog2 := fld b 72 1 }
  let checks : List FieldCheck :=
    [(0, decide (fld b 0 1 = 2)), (1, decide (fld b 1 1 < 4)), (2, okBenchCount n p.benchCount),
     (4, decide (hKind p.graphHandle = 2)), (8, decide (p.argCount ≠ 0) || decide (p.argHandle = 0)),
     (12, decide (p.argCount ≤ 256)), (14, decide (1 ≤ p.maxSeqs) && decide (p.maxSeqs ≤ 4096)),
     (16, decide (p.argOffset % 4 = 0)), (32, decide (1 ≤ p.tokensPerPage) && decide (p.tokensPerPage ≤ 65536)),
     (36, decide (1 ≤ p.chunkTokens) && decide (p.chunkTokens ≤ 65536)),
     (40, decide (p.maxSeqs ≤ p.maxTokens) && decide (p.maxTokens ≤ 65536)),
     (44, decide (100 ≤ p.windowUs) && decide (p.windowUs ≤ 60000000)), (48, decide (p.deadlineUs ≤ 1000000)),
     (52, decide (p.rtMhz = 0) || (decide (100 ≤ p.rtMhz) && decide (p.rtMhz ≤ 1600))),
     (54, decide (p.demoteFormat ≤ 5)), (55, decide (fld b 55 1 = 0)), (56, f32NonNeg p.mse),
     (60, p.journal || decide (p.jnlHandle = 0)),
     (64, if p.journal then decide (p.jnlOffset % 64 = 0) else decide (p.jnlOffset = 0)),
     (72, if p.journal then decide (6 ≤ p.jnlLog2) && decide (p.jnlLog2 ≤ 20) else decide (p.jnlLog2 = 0)),
     rsv b 73 128]
  match firstBad checks with
  | some k => .error k
  | none => .ok p

/-- The admission record of R201, or the offset of its first illegal field (order 2 of R202). Unused entries of stop_tokens are one
field here: its offset is that of the first unused entry, whichever is nonzero (DESIGN CHOICE, log 128). -/
def parseAdmit (b : List Byte) : Except Nat AdmitRec :=
  let sc := fld b 2 1
  let a : AdmitRec :=
    { sharePrefix := bit (fld b 1 1) 0, autoSeed := bit (fld b 1 1) 1, outLog2 := fld b 3 1,
      promptTokens := fld b 16 4, maxNew := fld b 20 4, seed := BitVec.ofNat 64 (fld b 24 8),
      firstCounter := fld b 32 4, prefixSource := fld b 36 4, prefixTokens := fld b 40 4, temperature := fld b 64 4,
      topP := fld b 68 4, topK := fld b 72 2, stops := (List.range sc).map (fun i => fld b (80 + 4 * i) 4),
      promptHandle := fld b 4 4, promptOffset := fld b 8 8, outHandle := fld b 44 4, outOffset := fld b 48 8,
      fenceHandle := fld b 56 4, fenceOffset := fld b 60 4 }
  let checks : List FieldCheck :=
    [(0, decide (fld b 0 1 = 2)), (1, decide (fld b 1 1 < 4)), (2, decide (sc ≤ 8)),
     (3, decide (4 ≤ a.outLog2) && decide (a.outLog2 ≤ 20)), (8, decide (a.promptOffset % 4 = 0)),
     (16, decide (1 ≤ a.promptTokens) && decide (a.promptTokens ≤ 1048576)),
     (20, decide (1 ≤ a.maxNew) && decide (a.maxNew ≤ 1048576)), (24, !a.autoSeed || decide (fld b 24 8 = 0)),
     (32, decide (a.firstCounter + a.maxNew ≤ 2 ^ 32)), (36, a.sharePrefix || decide (a.prefixSource = 0)),
     (40, if a.sharePrefix then decide (1 ≤ a.prefixTokens) && decide (a.prefixTokens ≤ a.promptTokens)
          else decide (a.prefixTokens = 0)),
     (48, decide (a.outOffset % 64 = 0)), (60, decide (a.fenceOffset % 8 = 0)), (64, f32NonNeg a.temperature),
     (68, f32UnitInterval a.topP), rsv b 74 80, rsv b (80 + 4 * min sc 8) 112, rsv b 112 128]
  match firstBad checks with
  | some k => .error k
  | none => .ok a

/-- The host location of an address of a function and PASID (log 9). -/
def hostLoc (fn pasid va : Nat) : Loc := { space := .host, addr := (fn * 2 ^ 20 + pasid + 1) * 2 ^ 64 + va }

/-- The host location of an address of the physical function without a PASID (R22). -/
def pfLoc (va : Nat) : Loc := { space := .host, addr := va }

/-- The host location of an address in a context's space (R28). -/
def ctxLoc (r : CtxRec) (va : Nat) : Loc := hostLoc r.fn r.pasid va

/-- The function of a host location; none for the physical function without a PASID. -/
def locFn (l : Loc) : Option Nat :=
  if l.addr < 2 ^ 64 then none else some ((l.addr / 2 ^ 64 - 1) / 2 ^ 20)

/-- A location further on. -/
def Loc.plus (l : Loc) (n : Nat) : Loc := { l with addr := l.addr + n }

/-- The location of an offset of a memory object. -/
def MemObj.at_ (o : MemObj) (off : Nat) : Loc := { space := o.space, addr := o.addr + off }

end Sys2Proof.Machine
end

