-- ==== Sys2Proof/Machine/CellOps.lean ====
section
/-! DEFINITION. Shared operations of Chest: cells, packets and queues (R298 to R300), watermarks (R306, R307), trace points (R408), grants
(R304, R309), the cells a producer takes and a consumer frees (R303, R308, R312, R313). -/

namespace Sys2Proof.Machine

/-! ### Time and trace points -/

/-- The block time base as a number (R21). -/
def State.now (s : State) : Nat := s.time.toNat

/-- Records the trace staging buffer of 64 KiB holds (R408). -/
def traceDepth : Nat := 2048

/-- A trace point (R408): a record when its mask bit is set, dropped and counted when the buffer is full. -/
def trace (point tag ctx queue arg : Nat) (s : State) : State :=
  if s.jnl.traceMask.toNat.testBit point then
    if traceDepth ≤ s.jnl.trace.length then
      { s with jnl := { s.jnl with traceDropped := satInc 32 s.jnl.traceDropped, traceGap := true } }
    else
      let r := le 1 2 ++ le 1 point ++ le 1 (b2n s.jnl.traceGap) ++ le 1 0 ++ le 4 tag ++ le 8 s.now ++ le 2 ctx ++
        le 1 queue ++ zeros 5 ++ le 8 arg
      { s with jnl := { s.jnl with trace := s.jnl.trace ++ [r], traceGap := false } }
  else s

/-! ### Cells, queues, counts -/

def State.modChest (s : State) (f : Chest → Chest) : State := { s with chest := f s.chest }

/-- The key of a queue of a class. -/
def cellKey (cls queue : Nat) : Nat := cls * 2 ^ 32 + queue

/-- Queues of the ISSUE class beside the intake of a submission queue (R302): the command queue of a slice stream and the
issue queue of an engine. -/
def streamQueue (p st : Nat) : Nat := 2 ^ 22 + 4 * p + st
def engineQueue (e : Nat) : Nat := 2 ^ 23 + e

/-- What a cell of an engine's issue queue carries: the command at a position of a submission queue. -/
def engineItem (k pos : Nat) : Nat := k * 2 ^ 64 + pos

def CellQueue.empty : CellQueue := { cells := [], rd := 0, mark := none }

def cellQueue (cls queue : Nat) (s : State) : CellQueue := tgetD s.chest.queues (cellKey cls queue) CellQueue.empty

def modCells (cls queue : Nat) (f : CellQueue → CellQueue) (s : State) : State :=
  s.modChest (fun c =>
    let q := f (tgetD c.queues (cellKey cls queue) CellQueue.empty)
    { c with queues := if q.cells.isEmpty && q.mark.isNone then tdel c.queues (cellKey cls queue)
                       else tset c.queues (cellKey cls queue) q })

/-- Bank of a cell (R298). -/
def bankOf (cell : Nat) : Nat := cell / 4096

def classAt (n : Nat) (s : State) : CellClass := (s.chest.classes[n]?).getD (CellClass.mk0 0 0 0 1)

/-- The count of cells charged to a class changes. -/
def modUsed (cls : Nat) (f : Nat → Nat) (s : State) : State :=
  s.modChest (fun c => { c with classes := c.classes.modify cls (fun x => { x with used := f x.used }) })

/-- Cells used in the pool, retired cells included (R303, R307). -/
def poolUsed' (s : State) : Nat := s.chest.classes.foldl (fun a c => a + c.used) 0 + s.chest.retired.length

/-- Cells free in the pool (R303). -/
def poolFree (s : State) : Nat := Config.cells - poolUsed' s

/-! ### Watermarks (R306, R307) -/

/-- A level with hysteresis: set at or above high, cleared at or below low. -/
def hysteresis (on : Bool) (used high low : Nat) : Bool :=
  if high ≤ used then true else if used ≤ low then false else on

/-- Watermarks, pauses and peaks are evaluated. During a compute reset FC_HFP_PAUSE stays deasserted (R366). -/
def evalLevels (s : State) : State :=
  let used := poolUsed' s
  let held := s.watch.stages.any (fun x => x.stage == 3)
  s.modChest (fun c =>
    { c with peak := max c.peak used,
             hfpPause := !held && hysteresis c.hfpPause used (256 * c.hfpHigh) (256 * c.hfpLow),
             mfpPause := hysteresis c.mfpPause used (256 * c.mfpHigh) (256 * c.mfpLow),
             classes := c.classes.map (fun x =>
               { x with peak := max x.peak x.used, congested := hysteresis x.congested x.used x.high x.low }) })

/-- A class of Chest is congested (R306). -/
def classCongested (n : Nat) (s : State) : Bool := ((s.chest.classes[n]?).map (·.congested)).getD false

/-- The levels of Chest are evaluated, and each class that becomes congested or clears meets trace point 12 (R408). -/
def evalChest (s : State) : State :=
  let t := evalLevels s
  ((List.range 6).filter (fun c => classCongested c s != classCongested c t)).foldl (fun t c => trace 12 0 0xFFFF 0 c t) t

/-! ### Words of a cell (R298, R299) -/

/-- The eight data words of up to 64 bytes; what is not written reads as zero (R300). -/
def cellWords (bs : List Byte) : List W64 := (List.range 8).map (fun i => BitVec.ofNat 64 (fld bs (8 * i) 8))

/-- Where the packet of the cell at an index of a queue begins, and the index after its end. -/
def packetSpan (cs : List Cell) (i : Nat) : Nat × Nat :=
  let start := i - ((cs.take (i + 1)).reverse.findIdx? (·.first)).getD 0
  let tail := ((cs.drop i).findIdx? (·.last)).getD 0
  (start, i + tail + 1)

/-- The metadata word of the cell at an index of a queue (R299). -/
def metaWord (cls queue : Nat) (cs : List Cell) (i : Nat) (c : Cell) : W64 :=
  let (a, b) := packetSpan cs i
  let next := ((cs[i + 1]?).map (·.index)).getD 0
  BitVec.ofNat 64 (b2n c.poison * 2 ^ 56 + b2n c.first * 2 ^ 55 + b2n c.last * 2 ^ 54 +
    (if c.first then (b - a - 1) % 64 else 0) * 2 ^ 48 + cls * 2 ^ 45 + (Config.cellQueueNumber cls queue).toNat * 2 ^ 29 +
    b2n c.tenant.isSome * 2 ^ 28 + c.tenant.getD 0 % 1024 * 2 ^ 18 + next % 2 ^ 18)

/-- A word with its check bits (R298). -/
def codedWord (w : W64) : W64 × Byte := (w, Config.secded w)

/-- The nine words that READ returns (R298, R312). -/
def cellOut (cls queue : Nat) (cs : List Cell) (i : Nat) (c : Cell) : List (W64 × Byte) :=
  (c.data ++ [metaWord cls queue cs i c]).map codedWord

/-! ### Grants (R300, R304, R309) -/

/-- A cell may be handed out. -/
def cellFree (i : Nat) (s : State) : Bool :=
  decide (i < Config.cells) && !s.chest.retired.contains i && !s.power.bankOut.contains (bankOf i) && !s.power.bankBad.contains (bankOf i) &&
  s.chest.queues.all (fun e => e.2.cells.all (fun c => c.index != i))

/-- Up to k cells that may be handed out, lowest first. -/
def lowestCells (s : State) : Nat → Nat → Nat → List Nat
  | 0, _, _ => []
  | fuel + 1, i, k =>
    if k = 0 ∨ Config.cells ≤ i then []
    else if cellFree i s then i :: lowestCells s fuel (i + 1) (k - 1) else lowestCells s fuel (i + 1) k

/-- The cells of a packet: those the pool has chosen where they are free, else the lowest (log 11). -/
def packetCells (choice : List Nat) (s : State) : List Nat :=
  if choice.all (fun i => cellFree i s) && decide (choice.eraseDups.length = choice.length) then choice
  else lowestCells s Config.cells 0 choice.length

/-- Unfilled quotas of the other classes. -/
def otherQuotas (cls : Nat) (s : State) : Nat :=
  (s.chest.classes.zipIdx).foldl (fun a e => if e.2 = cls then a else a + (e.1.quota - e.1.used)) 0

/-- A request of a class for k cells is granted (R304). -/
def grants (cls k : Nat) (s : State) : Bool :=
  decide ((classAt cls s).used + k ≤ (classAt cls s).quota) || decide (k + Config.skid + otherQuotas cls s ≤ poolFree s)

/-- A push, or data of the hub channel, that arrives while its pause is asserted finds cells of the skid reserve (R309). -/
def grantsSkid (cls k : Nat) (s : State) : Bool := grants cls k s || decide (k + otherQuotas cls s ≤ poolFree s)

/-- The cells of a packet; written when its bytes are at hand. -/
def mkPacket (r : CellReq) (cells : List Nat) : List Cell :=
  (cells.zipIdx).map (fun e =>
    { index := e.1, data := cellWords (slice (r.data.getD []) (64 * e.2) 64), complete := r.data.isSome, first := e.2 == 0,
      last := e.2 + 1 == cells.length, tenant := r.tenant, poison := false, item := r.item, taken := false })

/-- A packet is linked to its queue's tail, and its cells charged to the class (R300, R303). -/
def linkPacket (r : CellReq) (cells : List Nat) (s : State) : State :=
  (modUsed r.cls (fun u => u + cells.length) (modCells r.cls r.queue (fun q => { q with cells := q.cells ++ mkPacket r cells }) s)).modChest
    (fun c => { c with lastClass := r.cls })

/-- The packet is linked where the pool still has all its cells (R300: all or none). -/
def linkWhole (r : CellReq) (s : State) : Option State :=
  let cells := packetCells r.choice s
  if cells.length = r.choice.length then some (linkPacket r cells s) else none

/-- Cells leave a queue wherever they stand; the read pointer and the mark keep their cells. -/
def CellQueue.without (q : CellQueue) (gone : Cell → Bool) : CellQueue :=
  { cells := q.cells.filter (fun c => !gone c), rd := q.rd - (q.cells.take q.rd).countP gone,
    mark := q.mark.bind (fun m =>
      if ((q.cells[m]?).map gone).getD false then none else some (m - (q.cells.take m).countP gone)) }

/-- Cells that move from one queue to another, whose class is charged for them from then on (R303). -/
def relink (cls queue : Nat) (r : CellReq) (s : State) : State :=
  let mine (c : Cell) : Bool := c.item == r.item && !c.poison
  let cs := (cellQueue cls queue s).cells.filter mine
  let s := modUsed cls (fun u => u - cs.length) (modCells cls queue (fun q => q.without mine) s)
  (modUsed r.cls (fun u => u + cs.length) (modCells r.cls r.queue (fun q => { q with cells := q.cells ++ cs }) s)).modChest
    (fun c => { c with lastClass := r.cls })

/-- What the grant of a request does: its cells move, or its packet is linked. -/
def serveReq (r : CellReq) (s : State) : Option State :=
  match r.source with
  | some (cls, queue) => some (relink cls queue r s)
  | none => linkWhole r s

/-- A request is granted at once: no request of its class waits, and R304 holds. -/
def grantNow (r : CellReq) (s : State) : Option State :=
  if !s.chest.waiting.any (fun w => w.cls == r.cls) && grants r.cls r.choice.length s then serveReq r s else none

/-- Waiting requests are granted: of one class in arrival order, of different classes in round robin (R304). -/
def grantWaiting : Nat → State → State
  | 0, s => s
  | fuel + 1, s =>
    let order := (List.range 6).map (fun i => (s.chest.lastClass + 1 + i) % 6)
    match order.findSome? (fun cls =>
      (s.chest.waiting.find? (fun w => w.cls == cls)).filter (fun w => grants cls w.choice.length s)) with
    | none => s
    | some w =>
      match serveReq w (s.modChest (fun c => { c with waiting := c.waiting.erase w })) with
      | none => s
      | some t => grantWaiting fuel t

/-- Cells, quotas or counts have changed: waiting requests are tried again and every watermark evaluated (R304, R306). -/
def settleChest (s : State) : State := evalChest (grantWaiting s.chest.waiting.length s)

/-! ### What producers and consumers do in their own steps (R303, R308, R312, R313) -/

/-- A request for k cells that carry an item of a queue. -/
def itemReq (cls queue : Nat) (tenant : Option Nat) (item k : Nat) (data : Option (List Byte)) : CellReq :=
  { cls := cls, queue := queue, tenant := tenant, choice := List.replicate k Config.cells, item := some item, data := data,
    source := none }

/-- A packet of k cells of the queue that carries nothing yet: its cells were allocated ahead (R308). -/
def sparePacket (cs : List Cell) (k : Nat) : Option Nat :=
  (List.range cs.length).find? (fun i => match cs[i]? with
    | some c => c.first && c.item.isNone && !c.complete && decide ((packetSpan cs i).2 - i = k)
    | none => false)

/-- The cells of an index range carry a request's item. -/
def bindCells (r : CellReq) (a b : Nat) (cs : List Cell) : List Cell :=
  (cs.zipIdx).map (fun e =>
    if a ≤ e.2 ∧ e.2 < b then
      { e.1 with item := r.item, complete := r.data.isSome, data := cellWords (slice (r.data.getD []) (64 * (e.2 - a)) 64) }
    else e.1)

/-- A producer takes the cells of a packet: those allocated ahead in its queue, else cells granted now; none: not granted
(R300, R304, R308). Watermarks see the counts that the whole of it leaves (R306). -/
def takeCells (r : CellReq) (s : State) : Option State :=
  if r.source.isSome then (grantNow r s).map settleChest else
  match sparePacket (cellQueue r.cls r.queue s).cells r.choice.length with
  | some i => some (modCells r.cls r.queue (fun q => { q with cells := bindCells r i (i + r.choice.length) q.cells }) s)
  | none => (grantNow r s).map evalChest

/-- A producer that does not stop takes the cell of an item, or its request waits (R304). -/
def takeOrWait (r : CellReq) (s : State) : State :=
  match takeCells r s with
  | some t => t
  | none => s.modChest (fun c => { c with waiting := c.waiting ++ [r] })

/-- The cells of an item stand in its queue: written where its bytes are at hand, else to be written. -/
def hasItem (r : CellReq) (s : State) : Bool :=
  let cs := (cellQueue r.cls r.queue s).cells
  (List.range cs.length).any (fun i => match cs[i]? with
    | some c => (c.item == r.item) && !c.poison && !c.taken && (c.complete == r.data.isSome) && decide ((packetSpan cs i).2 - i = r.choice.length)
    | none => false)

/-- A producer that stops until it has the cells of an item asks for them: true once they stand in its queue; a request that is
not granted waits in arrival order (R304). -/
def askCells (r : CellReq) (s : State) : Bool × State :=
  if hasItem r s then (true, s)
  else if s.chest.waiting.any (fun w => w.cls == r.cls && w.queue == r.queue && w.item == r.item) then (false, s)
  else match takeCells r s with
  | some t => (true, t)
  | none => (false, s.modChest (fun c => { c with waiting := c.waiting ++ [r] }))

/-- A push takes a cell, from the skid reserve while FC_HFP_PAUSE is asserted (R309); none: it is discarded. -/
def takeSkid (r : CellReq) (s : State) : Option State :=
  match takeCells r s with
  | some t => some t
  | none => if s.chest.hfpPause && grantsSkid r.cls r.choice.length s then (linkWhole r s).map evalChest else none

/-- The producer writes the incomplete cells of an item in order (R300). -/
def fillCells (item : Nat) : List Cell → List Byte → List Cell
  | [], _ => []
  | c :: t, bs =>
    if c.item == some item && !c.complete && !c.poison && !bs.isEmpty then
      { c with data := cellWords (bs.take 64), complete := true } :: fillCells item t (bs.drop 64)
    else c :: fillCells item t bs

def fillItem (cls queue item : Nat) (bs : List Byte) (s : State) : State :=
  modCells cls queue (fun q => { q with cells := fillCells item q.cells bs }) s

/-- Cells of a queue are freed. -/
def freeCells (cls queue : Nat) (gone : Cell → Bool) (s : State) : State :=
  let n := (cellQueue cls queue s).cells.countP gone
  if n = 0 then s else settleChest (modUsed cls (fun u => u - n) (modCells cls queue (fun q => q.without gone) s))

/-- Cells that a test accepts are discarded, and with them the cells at the head that their consumer has read (R312, R313); a cell
that no link reaches any more is left to the metadata walk (R315). -/
def discardFrom (cls queue : Nat) (gone : Cell → Bool) (s : State) : State :=
  let dead (c : Cell) : Bool := gone c && !c.poison
  let left := (cellQueue cls queue s).cells.filter (fun c => !dead c)
  let head := (left.takeWhile (·.taken)).map (·.index)
  freeCells cls queue (fun c => dead c || head.contains c.index) s

/-- Requests of a queue that a test accepts are withdrawn. -/
def dropRequests (cls queue : Nat) (gone : CellReq → Bool) (s : State) : State :=
  s.modChest (fun c => { c with waiting := c.waiting.filter (fun w => !(w.cls == cls && w.queue == queue && gone w)) })

/-- An item is discarded: its cells are free (R313). -/
def dropItem (cls queue item : Nat) (s : State) : State :=
  discardFrom cls queue (fun c => c.item == some item) (dropRequests cls queue (fun w => w.item == some item) s)

/-- The consumer has read an item. Its cells are released once they are the oldest of the queue (R312). -/
def consumeItem (cls queue item : Nat) (s : State) : State :=
  discardFrom cls queue (fun _ => false) (modCells cls queue (fun q =>
    { q with cells := q.cells.map (fun c => if c.item == some item then { c with taken := true } else c) })
    (dropRequests cls queue (fun w => w.item == some item) s))

/-- Every packet of a queue is released, and every request of it withdrawn. -/
def dropQueue (cls queue : Nat) (s : State) : State :=
  discardFrom cls queue (fun _ => true) (modCells cls queue (fun q => { q with mark := none }) (dropRequests cls queue (fun _ => true) s))

/-- The consumer marks where it stands and reads every cell of its queue (MARK, READ of R312). -/
def readMarked (cls queue : Nat) (s : State) : State :=
  modCells cls queue (fun q => { q with mark := some q.rd, rd := q.cells.length }) s

/-- The consumer goes back to its mark (REWIND of R312). -/
def rewindQueue (cls queue : Nat) (s : State) : State := modCells cls queue (fun q => { q with rd := q.mark.getD q.rd }) s

/-- A queue holds a packet, and its cells are complete. -/
def packetReady (cls queue : Nat) (s : State) : Bool :=
  let cs := (cellQueue cls queue s).cells.filter (fun c => !c.poison)
  !cs.isEmpty && cs.all (·.complete)

/-- Cells leave the head of a queue (RELEASE of R312). -/
def freeHead (cls queue k : Nat) (s : State) : State :=
  let gone := ((cellQueue cls queue s).cells.take k).length
  settleChest (modUsed cls (fun u => u - gone) (modCells cls queue (fun q =>
    { cells := q.cells.drop k, rd := q.rd - k, mark := q.mark.bind (fun m => if m < k then none else some (m - k)) }) s))

/-- Packets of a queue that its consumer has not begun are discarded, and its requests withdrawn (R313). -/
def discardCells (cls queue : Nat) (s : State) : State :=
  let s := dropRequests cls queue (fun _ => true) s
  match tget s.chest.queues (cellKey cls queue) with
  | none => s
  | some q =>
    let begun := (q.cells.take q.rd ++ ((q.cells.drop q.rd).takeWhile (fun c => !c.first))).map (·.index)
    discardFrom cls queue (fun c => !begun.contains c.index) s

/-- An item asks to move to a queue of another class, where the allocation is granted (R303, R304); true once it stands there. -/
def askMove (cls queue : Nat) (r : CellReq) (s : State) : Bool × State :=
  let here := (cellQueue cls queue s).cells.any (fun c => (c.item == r.item) && !c.poison)
  askCells { r with source := if here then some (cls, queue) else none } s

end Sys2Proof.Machine
end

