-- ==== Sys2Proof/Machine/Ops.lean ====
section
/-! DEFINITION. Shared operations: byte memories, host writes, usage records, events, Hutch records, trace points,
queues and latches, fences, object pins and releases. -/

namespace Sys2Proof.Machine

/-- Shorthand for the outcome of a command that completes. -/
abbrev Out := Host.Outcome State Fault Refusal

/-! ### Byte memories -/

/-- The byte a memory holds at an address; an unlisted byte reads 0 (log 2). -/
def cellGet : List Host.Cell → Nat → Byte
  | [], _ => 0
  | (k, b) :: t, a => if k = a then b else cellGet t a

/-- The memory without an address. -/
def cellDel : List Host.Cell → Nat → List Host.Cell
  | [], _ => []
  | (k, b) :: t, a => if k = a then t else (k, b) :: cellDel t a

/-- The memory with a nonzero byte listed at an address. -/
def cellIns : List Host.Cell → Nat → Byte → List Host.Cell
  | [], a, v => [(a, v)]
  | (k, b) :: t, a, v =>
    if a < k then (a, v) :: (k, b) :: t else if k = a then (a, v) :: t else (k, b) :: cellIns t a v

/-- The memory with a byte written: zero is not listed (log 2). -/
def cellPut (m : List Host.Cell) (a : Nat) (v : Byte) : List Host.Cell :=
  if v = 0 then cellDel m a else cellIns m a v

/-- Bytes [a, a + n) of a memory. -/
def readN (m : List Host.Cell) (a n : Nat) : List Byte := (List.range n).map (fun i => cellGet m (a + i))

/-- The memory with bytes written from an address on. -/
def writeN : List Host.Cell → Nat → List Byte → List Host.Cell
  | m, _, [] => m
  | m, a, b :: bs => writeN (cellPut m a b) (a + 1) bs

/-- The canonical form of a memory: addresses strictly rising and no entry zero. -/
def memWf : List Host.Cell → Bool
  | [] => true
  | [(_, b)] => decide (b ≠ 0)
  | (a, x) :: (b, y) :: t => decide (x ≠ 0) && decide (a < b) && memWf ((b, y) :: t)

/-- The canonical form of every memory of the state. -/
def Mems.wf (m : Mems) : Bool := memWf m.host && memWf m.fast && memWf m.slow && memWf m.scratch && memWf m.flash

/-- The memory of a space. -/
def Mems.of (m : Mems) : Space → List Host.Cell
  | .host => m.host
  | .fast => m.fast
  | .slow => m.slow

/-- The memories with bytes written at a location. -/
def Mems.write (m : Mems) (l : Loc) (bs : List Byte) : Mems :=
  match l.space with
  | .host => { m with host := writeN m.host l.addr bs }
  | .fast => { m with fast := writeN m.fast l.addr bs }
  | .slow => { m with slow := writeN m.slow l.addr bs }

/-- n bytes at a location. -/
def memRead (l : Loc) (n : Nat) (s : State) : List Byte := readN (s.mem.of l.space) l.addr n

/-- The state with bytes written at a location. -/
def memWrite (l : Loc) (bs : List Byte) (s : State) : State := { s with mem := s.mem.write l bs }

/-! ### BAR0 (R467, R493, R495, R497) -/

/-- BAR0 and BAR2 requests are discarded until HFP_READY (R467). -/
def barOpen (s : State) : Bool := s.port.hfpReady

/-- A dropped or ignored BAR0 write is counted with its cause and offset (R497). -/
def bar0Err (cause off : Nat) (s : State) : State :=
  { s with hub := { s.hub with bar0Count := satInc 32 s.hub.bar0Count, bar0Cause := cause, bar0Off := off } }

/-- A command register takes a command: BAR0 is open, the hub is ready (R495) and no command runs there. -/
def cmdOpen (busy : Bool) (s : State) : Bool := barOpen s && s.watch.hubReady && !busy

/-- A write of a command register that is not taken (R495; R31, R69 and R161 while busy). -/
def cmdIgnored (off : Nat) (s : State) : State :=
  if !barOpen s then s else if !s.watch.hubReady then bar0Err 4 off s else bar0Err 3 off s

/-- Offsets of the command registers of R495. -/
def hubObjCmd : Nat := 0x110
def hubSealCmd : Nat := 0x208
def frtQcmd : Nat := 0x10100

/-! ### Usage records and bytes (R326 to R328) -/

/-- A usage record is handed to the usage channel with the next sequence number; while the FIFO is full the hub holds it
(R326). -/
def usageSend (u : Usage) (s : State) : State :=
  let e := (s.hub.burSeq, u)
  let full := decide (Config.usageFifo ≤ s.hub.burFifo.length)
  { s with hub := { s.hub with burFifo := if full then s.hub.burFifo else s.hub.burFifo ++ [e],
                               burHeld := if full then s.hub.burHeld ++ [e] else s.hub.burHeld,
                               burSeq := (s.hub.burSeq + 1) % 65536 } }

/-- Class of a space in a BYT record (R327). -/
def Space.cls : Space → Nat
  | .fast => 0
  | .slow => 1
  | .host => 2

/-- Largest byte count of a BYT record (R327). -/
def bytMax : Nat := 2 ^ 40 - 1

/-- Figures of a context_id that has not run anything (R61). -/
def Use.zero : Use := { core := 0, bytes := [0, 0, 0, 0], steps := 0, preempts := 0 }

/-- The figures of a context_id change (R61, selector 0x02). -/
def modUse (c : Nat) (f : Use → Use) (s : State) : State :=
  { s with hub := { s.hub with uses := tset s.hub.uses c (f (tgetD s.hub.uses c Use.zero)) } }

/-- n bytes more of a class. -/
def Use.addBytes (cls n : Nat) (u : Use) : Use := { u with bytes := u.bytes.modify cls (fun v => (v + n) % 2 ^ 64) }

/-- Bytes of a class aggregate for a tenant until a BYT record carries them (R327). -/
def aggBytes (t cls n : Nat) (s : State) : State :=
  let k := t * 4 + cls
  let v := tgetD s.hub.bytAgg k 0 + n
  if bytMax ≤ v then
    let s := usageSend (.byt t cls bytMax) s
    { s with hub := { s.hub with bytAgg := if v = bytMax then tdel s.hub.bytAgg k else tset s.hub.bytAgg k (v - bytMax) } }
  else { s with hub := { s.hub with bytAgg := tset s.hub.bytAgg k v } }

/-- The tenant of a context. -/
def State.tenantOf (s : State) (c : Nat) : Option Nat := (tget s.contexts c).map (fun x => x.rcd.tenant)

/-- n bytes of a class are charged to a context: to its figures of R61 and to its tenant (R328); none: to no tenant. -/
def charge (c : Option Nat) (cls n : Nat) (s : State) : State :=
  match c with
  | none => s
  | some k =>
    if n = 0 then s
    else match s.tenantOf k with
      | none => modUse k (Use.addBytes cls n) s
      | some t => aggBytes t cls n (modUse k (Use.addBytes cls n) s)

/-- The bytes of a tenant and class not yet sent go out as a BYT record (R327). -/
def flushBytes (t cls : Nat) (s : State) : State :=
  match tget s.hub.bytAgg (t * 4 + cls) with
  | none => s
  | some v =>
    let s := usageSend (.byt t cls v) s
    { s with hub := { s.hub with bytAgg := tdel s.hub.bytAgg (t * 4 + cls) } }

/-- Host writes to a location are discarded (R470). -/
def hostDropped (l : Loc) (s : State) : Bool :=
  s.port.dropAll || (match locFn l with | some f => s.port.dropHost.contains f | none => false)

/-- A request leaves a port. -/
def emit (o : PortOut) (s : State) : State := { s with port := { s.port with out := s.port.out ++ [o] } }

/-- The key index on requests made for a context: its tenant_id; none: key_valid 0 (R25, R468, R473). -/
def State.keyOf (s : State) (c : Option Nat) : Option Nat := c.bind s.tenantOf

/-- Requests leave a port in order. -/
def emitAll (os : List PortOut) (s : State) : State := { s with port := { s.port with out := s.port.out ++ os } }

/-- The requests that n bytes at a location need: none crosses 4 KiB (R468, R472). -/
def pieces : Nat → Loc → Nat → List (Loc × Nat)
  | 0, _, _ => []
  | f + 1, l, n =>
    if n = 0 then [] else
    let k := min n (4096 - l.addr % 4096)
    (l, k) :: pieces f (l.plus k) (n - k)

def split (l : Loc) (n : Nat) : List (Loc × Nat) := pieces (n / 4096 + 2) l n

/-- The read requests of n bytes, the write requests of bytes, the WR_ZERO requests of n bytes. -/
def readReqs (key : Option Nat) (via : Via) (l : Loc) (n : Nat) : List PortOut := (split l n).map (fun p => .read p.1 p.2 key via)

def writeReqs (key : Option Nat) (via : Via) (l : Loc) (bs : List Byte) : List PortOut :=
  (split l bs.length).map (fun p => .write p.1 (slice bs (p.1.addr - l.addr) p.2) key via)

def zeroReqs (key : Option Nat) (via : Via) (l : Loc) (n : Nat) : List PortOut := (split l n).map (fun p => .zero p.1 p.2 key via)

/-- Host accesses of a function have stopped (R470). -/
def hostStopped (l : Loc) (s : State) : Bool :=
  (l.space == .host) && (match locFn l with | some f => s.port.dropHost.contains f | none => false)

/-- Read requests leave the port of their space (R468, R472), none for a function whose host accesses have stopped. -/
def readReq (key : Option Nat) (via : Via) (l : Loc) (n : Nat) (s : State) : State :=
  if hostStopped l s then s else emitAll (readReqs key via l n) s

/-- A read made for a context through a part of the block: issued with the tenant's key and charged (R25, R328). -/
def readBy (via : Via) (c : Option Nat) (l : Loc) (n : Nat) (s : State) : State :=
  if hostStopped l s then s else charge c l.space.cls n (readReq (s.keyOf c) via l n s)

/-- A read that a hub engine makes for a context. -/
def readFor (c : Option Nat) (l : Loc) (n : Nat) (s : State) : State := readBy .hub c l n s

/-- Bytes are written, by requests that leave the port of their space. -/
def portWrite (key : Option Nat) (via : Via) (l : Loc) (bs : List Byte) (s : State) : State :=
  emitAll (writeReqs key via l bs) (memWrite l bs s)

/-- A host write of the block: issued on the host fabric port unless it is discarded (R470), and charged (R328). -/
def hostWrite (c : Option Nat) (l : Loc) (bs : List Byte) (s : State) : State :=
  if hostDropped l s then s else charge c 2 bs.length (portWrite (s.keyOf c) .hub l bs s)

/-- A write that a part of the block makes for a context: host memory through the host fabric port, a tier through the part's own. -/
def writeBy (via : Via) (c : Option Nat) (l : Loc) (bs : List Byte) (s : State) : State :=
  match l.space with
  | .host => hostWrite c l bs s
  | _ => charge c l.space.cls bs.length (portWrite (s.keyOf c) via l bs s)

/-- A write that a hub engine makes for a context. -/
def locWrite (c : Option Nat) (l : Loc) (bs : List Byte) (s : State) : State := writeBy .hub c l bs s

/-- An MSI-X message (R91), dropped with the host writes of its function (R470). -/
def msix (fn vector : Nat) (s : State) : State :=
  if s.port.dropAll || s.port.dropHost.contains fn then s else emit (.msix fn vector) s

/-! ### Events -/

/-- The event ring is on (R409). -/
def evtRingOn (s : State) : Bool := decide (s.jnl.evtBase ≠ 0 ∧ 6 ≤ s.jnl.evtLog2 ∧ s.jnl.evtLog2 ≤ 16)

/-- The event ring has room (R405). -/
def evtRoom (s : State) : Bool :=
  evtRingOn s && decide (lag 32 s.jnl.evtProd s.jnl.evtCons ≠ 2 ^ s.jnl.evtLog2)

/-- An event with one occurrence, at the present time. -/
def mkEvent (s : State) (code ctx tenant tag srcKind srcNum : Nat) (words : List Nat) : Event :=
  { code := code, merged := false, count := 1, time := s.now, ctx := ctx, tenant := tenant, tag := tag,
    srcKind := srcKind, srcNum := srcNum, words := words, id := 0 }

/-- The 64 bytes of an event record (R405). -/
def Event.bytes (e : Event) : List Byte :=
  le 1 2 ++ le 1 e.code ++ le 1 (b2n e.merged) ++ le 1 0 ++ le 4 e.count ++ le 8 e.time ++ le 2 e.ctx ++
  le 2 e.tenant ++ le 4 e.tag ++ le 4 (e.srcKind * 2 ^ 24 + e.srcNum) ++ zeros 4 ++
  padTo 32 ((e.words.map (le 8)).flatten)

/-- An event is raised: it waits in a cell of the EVENT class until the ring takes it (R405). While the class is congested
an undelivered event of the same code and source counts it, and no cell is taken (R306). -/
def raiseEvent (e : Event) (s : State) : State :=
  let same (x : Event) : Bool := x.code == e.code && x.srcKind == e.srcKind && x.srcNum == e.srcNum
  if classCongested 4 s && s.jnl.events.any same then
    let i := (s.jnl.events.findIdx? same).getD 0
    { s with jnl := { s.jnl with
        events := s.jnl.events.modify i (fun x => { x with merged := true, count := satInc 32 x.count }),
        evtMerged := s.jnl.evtMerged + 1 } }
  else
    let id := s.jnl.nextEvt
    takeOrWait (itemReq 4 0 none id 1 (some e.bytes))
      { s with jnl := { s.jnl with events := s.jnl.events ++ [{ e with id := id }], nextEvt := id + 1 } }

/-! ### Hutch (R370 to R374, R504) -/

/-- The spill region is in use (R386, R377). -/
def spillOn (s : State) : Bool := s.watch.spillValid && s.hutch.spillOk

/-- Bytes of a list of records. -/
def recBytes (l : List (List Byte)) : Nat := l.foldl (fun a r => a + r.length) 0

/-- The oldest records taken from a ring until what is left has at most lim bytes: those taken, those left. -/
def takeOldest (lim : Nat) : List (List Byte) → List (List Byte) × List (List Byte)
  | [] => ([], [])
  | r :: t =>
    if recBytes (r :: t) ≤ lim then ([], r :: t)
    else let p := takeOldest lim t; (r :: p.1, p.2)

/-- Sizes of the log ring and of the log spill ring, in bytes (R371). -/
def logRing : Nat := 2 ^ 20
def spillRing : Nat := 512 * 2 ^ 20

/-- Where the spill region lies from an offset on (R371, R386). -/
def spillLoc (s : State) (off : Nat) : Loc := { space := .slow, addr := s.watch.spillBase + off }

/-- The Hutch writer writes to the spill region: on vc 2, with key_valid 0 (R371, R472, R473). -/
def spillWrite (off : Nat) (bs : List Byte) (s : State) : State := portWrite none .hutch (spillLoc s off) bs s

/-- The oldest records of the log spill ring go until the others take at most lim bytes. -/
def keepSpill (lim : Nat) : List (Nat × Nat) → List (Nat × Nat)
  | [] => []
  | e :: t => if (e :: t).foldl (fun a r => a + r.2) 0 ≤ lim then e :: t else keepSpill lim t

/-- A record is copied to the log spill ring behind the last; the oldest it does not leave room for are overwritten and counted
(R371). -/
def spillPut (s : State) (r : List Byte) : State :=
  let h := s.hutch
  let kept := keepSpill (spillRing - r.length) h.spill
  let first := min r.length (spillRing - h.spillAt)
  let s := spillWrite 0 (r.drop first) (spillWrite h.spillAt (r.take first) s)
  { s with hutch := { s.hutch with spill := kept ++ [(h.spillAt, r.length)], spillAt := (h.spillAt + r.length) % spillRing,
                                   overwritten := satInc 24 h.overwritten (h.spill.length - kept.length) } }

/-- The bytes of a record of the log spill ring. -/
def spillRecord (s : State) (e : Nat × Nat) : List Byte :=
  let first := min e.2 (spillRing - e.1)
  memRead (spillLoc s e.1) first s ++ memRead (spillLoc s 0) (e.2 - first) s

/-- A record enters the log ring (R371): at 90% the oldest go to the spill ring; without a spill region the oldest are
overwritten when the ring is full. -/
def hutchPush (r : List Byte) (s : State) : State :=
  let log := s.hutch.log ++ [r]
  if spillOn s then
    if logRing * 9 / 10 ≤ recBytes log then
      let p := takeOldest (logRing * 9 / 10 - 1) log
      p.1.foldl spillPut { s with hutch := { s.hutch with log := p.2 } }
    else { s with hutch := { s.hutch with log := log } }
  else { s with hutch := { s.hutch with log := (takeOldest logRing log).2 } }

/-- What a Hutch record's header says of its object (R372). -/
structure RecHead where
  ctx : Nat
  tenant : Nat
  tag : Nat
  stage : Nat
  part : Nat
  deriving DecidableEq, Repr

/-- A header that names nothing. -/
def RecHead.blank : RecHead := { ctx := 0xFFFF, tenant := 0xFFFF, tag := 0, stage := 0, part := 0xFF }

/-- The bytes of a Hutch record (R372): header, payload padded to 32 bytes, check over the record with the check field
zero. -/
def hutchBytes (seq time boot typ : Nat) (h : RecHead) (payload : List Byte) : List Byte :=
  let body := padTo (roundUp payload.length 32) payload
  let head := le 1 2 ++ le 1 typ ++ le 2 (32 + body.length) ++ le 4 seq ++ le 8 time ++ le 4 boot ++ le 2 h.ctx ++
    le 2 h.tenant ++ le 4 h.tag ++ le 1 h.stage ++ le 1 h.part
  head ++ le 2 (crc16 (head ++ zeros 2 ++ body)) ++ body

/-- A Hutch record is written (R372). -/
def hutchRec (typ : Nat) (h : RecHead) (payload : List Byte) (s : State) : State :=
  let s1 := hutchPush (hutchBytes s.hutch.nextSeq s.now s.hutch.boot typ h payload) s
  { s1 with hutch := { s1.hutch with nextSeq := (s.hutch.nextSeq + 1) % 2 ^ 32 } }

/-! ### Lookups -/

def State.queue (s : State) (c q : Nat) : Option Queue := tget s.front.queues (qkey c q)

/-- The function of a context. -/
def State.fnOf (s : State) (c : Nat) : Nat := ((tget s.contexts c).map (fun x => x.rcd.fn)).getD 0

/-- A context is ACTIVE. -/
def State.isActive (s : State) (c : Nat) : Bool := ((tget s.contexts c).map (fun x => x.state == .active)).getD false

/-- Header of a record about a context's command. -/
def ctxHead (s : State) (c tag : Nat) : RecHead :=
  { RecHead.blank with ctx := c, tenant := (s.tenantOf c).getD 0xFFFF, tag := tag }

/-- An event whose source is a context. -/
def ctxEvent (s : State) (code c tag : Nat) (words : List Nat) : Event :=
  mkEvent s code c ((s.tenantOf c).getD 0xFFFF) tag 0 c words

/-- A hub engine finishes an item: its progress counter advances (R352). The engines are numbered as in R504. -/
def bump (e : Nat) (s : State) : State :=
  { s with watch := { s.watch with hubProgress := s.watch.hubProgress.modify e (fun v => (v + 1) % 2 ^ 32),
                                   hubAdvanced := s.watch.hubAdvanced.set e s.now } }

/-! ### Queues, commands, latches -/

def State.modQueues (s : State) (f : Tab Queue → Tab Queue) : State :=
  { s with front := { s.front with queues := f s.front.queues } }

/-- The state with a queue changed. -/
def State.modQ (s : State) (k : Nat) (f : Queue → Queue) : State := s.modQueues (fun t => tupd t k f)

/-- The command of a position. -/
def Queue.cmd (q : Queue) (pos : Nat) : Option Cmd := q.cmds.find? (fun c => c.pos == pos)

def Queue.modCmd (q : Queue) (pos : Nat) (f : Cmd → Cmd) : Queue :=
  { q with cmds := q.cmds.map (fun c => if c.pos == pos then f c else c) }

/-- The state with a command changed. -/
def State.modC (s : State) (k pos : Nat) (f : Cmd → Cmd) : State := s.modQ k (fun q => q.modCmd pos f)

/-- The command of a queue and position. -/
def State.cmd (s : State) (k pos : Nat) : Option Cmd := (tget s.front.queues k).bind (fun q => q.cmd pos)

/-- The latch of a command is requested (R84): taken where it is free, otherwise nothing. -/
def Cmd.take (st : Status) (aux : Nat) (c : Cmd) : Cmd :=
  match c.latch with
  | some _ => c
  | none =>
    if c.phase = .dispatched then { c with latch := some { status := st, aux := aux } }
    else { c with latch := some { status := st, aux := aux }, waits := [] }

/-- The executor's issue queue that a dispatched command waits in (R109, R302). -/
def opEngine (op : Nat) : Nat :=
  if op = 3 ∨ op = 4 then 1 else if op = 5 then 2 else if 8 ≤ op ∧ op ≤ 0x0B ∨ op = 0x17 then 3
  else if 0x0C ≤ op ∧ op ≤ 0x0E then 4 else if op = 0x11 then 5 else if op = 0x12 ∨ op = 0x13 then 6
  else if op = 0x14 then 7 else if op = 0x16 then 8 else 0

/-- The cells a command holds before its consumer begins on it are free: ISSUE and PAYLOAD cells at the intake, its cell in
an engine's issue queue (R302, R312, R313). -/
def dropCmdCells (k pos op : Nat) (s : State) : State :=
  dropItem 1 (engineQueue (opEngine op)) (engineItem k pos) (dropItem 2 k pos (dropItem 1 k pos s))

/-- A free latch is taken for a command (R84, R127); packets of it that no consumer has begun are discarded (R313). -/
def takeLatch (k pos : Nat) (st : Status) (aux : Nat) (s : State) : State :=
  dropCmdCells k pos (((s.cmd k pos).map (fun m => eOp m.entry)).getD 0) (s.modC k pos (Cmd.take st aux))

/-- The completing engine takes the latch with its own status (R84 rank 1); the command no longer runs. -/
def finish (k pos : Nat) (st : Status) (aux : Nat) (s : State) : State :=
  s.modC k pos (fun c => { c.take st aux with running := false, stopping := false })

/-- The completing sub-block takes the latch with ST_OK. -/
def finishOk (k pos : Nat) (s : State) : State := finish k pos .ok 0 s

/-- A result write of a command (R85, R111): issued before the command's signals, when it retires. -/
def addResult (k pos : Nat) (l : Loc) (bs : List Byte) (s : State) : State :=
  s.modC k pos (fun c => { c with results := c.results ++ [{ loc := l, data := bs }] })

/-- Every command of every queue, with its queue's key. -/
def State.allCmds (s : State) : List (Nat × Cmd) :=
  (s.front.queues.map (fun e => e.2.cmds.map (fun c => (e.1, c)))).flatten

/-- Wait entries a command holds (R125): its unmet waits once it is accepted. -/
def Cmd.waitEntries (c : Cmd) : Nat :=
  match c.phase with
  | .accepted => if c.latch.isNone then c.waits.countP (fun w => !w.met) else 0
  | _ => 0

/-- Wait entries in use (R129). -/
def State.waitsUsed (s : State) : Nat := s.allCmds.foldl (fun a e => a + e.2.waitEntries) 0

/-- Wait entries of a context (R125). -/
def State.ctxWaits (s : State) (c : Nat) : Nat :=
  s.allCmds.foldl (fun a e => if e.1 / 256 = c then a + e.2.waitEntries else a) 0

/-- A command that names fences still: accepted, and its latch not taken or holding ST_OK (R49, R125). -/
def Cmd.namesFences (c : Cmd) : Bool :=
  (match c.phase with | .accepted => true | .dispatched => true | _ => false) &&
  (match c.latch with | none => true | some l => l.status == .ok)

/-- A fence is named by a wait, a signal or an operand of an accepted command (R49, R125). -/
def State.fenceNamed (s : State) (l : Loc) (compact : Bool) : Bool :=
  s.allCmds.any (fun e => e.2.namesFences &&
    (e.2.signals.any (fun r => r.loc == l && r.compact == compact) ||
     e.2.fences.any (fun r => r.loc == l && r.compact == compact) ||
     e.2.waits.any (fun w => w.ref.loc == l && w.ref.compact == compact)))

/-- Shadows that no wait or signal names are dropped (R49). -/
def dropShadows (s : State) : State :=
  { s with bramble := { s.bramble with shadows := s.bramble.shadows.filter (fun x => s.fenceNamed x.loc x.compact) } }

/-! ### Fences (R119 to R124) -/

/-- Bytes of a fence. -/
def fenceBytes (compact : Bool) : Nat := if compact then 4 else 8

/-- The shadow of a fence. -/
def State.shadow (s : State) (l : Loc) (compact : Bool) : Option Shadow :=
  s.bramble.shadows.find? (fun x => x.loc == l && x.compact == compact)

/-- The value of a fence: its shadow, or the word in memory (R49). -/
def State.fenceValue (s : State) (l : Loc) (compact : Bool) : Nat :=
  match s.shadow l compact with
  | some x => x.value
  | none => leNat (memRead l (fenceBytes compact) s)

/-- A shadow is created for a fence that has none, loaded from memory (R49); a word in host memory was read at acceptance,
one in a tier is read now for the context (R328). -/
def loadShadow (c : Option Nat) (l : Loc) (compact : Bool) (s : State) : State :=
  match s.shadow l compact with
  | some _ => s
  | none =>
    let s := if l.space = .host then s else readFor c l (fenceBytes compact) s
    { s with bramble := { s.bramble with
        shadows := s.bramble.shadows ++ [{ loc := l, compact := compact, value := s.fenceValue l compact }] } }

/-- Waits on a fence are latched as met by its value (R122). -/
def Cmd.meet (l : Loc) (compact : Bool) (v : Nat) (c : Cmd) : Cmd :=
  { c with waits := c.waits.map (fun w =>
      if w.ref.loc == l && w.ref.compact == compact then { w with met := w.met || waitMet compact v w.ref.value } else w) }

/-- A fence rises to a value: shadow, write-through, waits met (R119, R122). -/
def fenceRise (c : Option Nat) (l : Loc) (compact : Bool) (v : Nat) (s : State) : State :=
  let sh := s.bramble.shadows.map (fun x => if x.loc == l && x.compact == compact then { x with value := v } else x)
  let s := { s with bramble := { s.bramble with shadows := sh, rises := s.bramble.rises ++ [l] } }
  let s := locWrite c l (le (fenceBytes compact) v) s
  s.modQueues (fun t => tmapv t (fun _ q => { q with cmds := q.cmds.map (Cmd.meet l compact v) }))

/-- A signal is applied to a fence (R119 to R121, R123) on behalf of context c with a command tag. -/
def signalFence (c tag : Nat) (r : FenceRef) (s : State) : State :=
  let cur := s.fenceValue r.loc r.compact
  match signalEffect r.compact cur r.value with
  | .rise => trace 5 tag c 0 r.va (fenceRise (some c) r.loc r.compact r.value s)
  | .same => s
  | .regress => raiseEvent (ctxEvent s evFenceRegress c tag [r.va, cur, r.value, 0]) s

/-- Write-throughs of a command's signals whose completions have not come (R119). -/
def noteThrough (k pos tag : Nat) (s : State) : State :=
  { s with bramble := { s.bramble with through := s.bramble.through ++ [(k, pos, tag)] } }

/-- A command's signal or the release fence it named (R56, R85, R119): a rise of a fence in host memory has a write-through under way. -/
def signalOut (c k pos tag : Nat) (r : FenceRef) (s : State) : State :=
  let goes := r.loc.space == .host && !hostDropped r.loc s &&
    (match signalEffect r.compact (s.fenceValue r.loc r.compact) r.value with | .rise => true | _ => false)
  let s := signalFence c tag r s
  if goes then noteThrough k pos tag s else s

/-! ### Objects: pins, references, release (R54 to R57) -/

/-- The location of an object table entry (R38). -/
def entryLoc (r : CtxRec) (idx : Nat) : Loc := ctxLoc r (r.objTable + idx * 64)

/-- An object is released (R56): the cached copy goes, state 0x00 is written to its entry, then the release fence is
signalled. -/
def releaseOne (key : Nat) (s : State) : State :=
  match tget s.objects key with
  | none => s
  | some o =>
    let c := key / 2 ^ 20
    let s := { s with objects := tdel s.objects key }
    let s := match tget s.contexts c with
      | some x => hostWrite (some c) ((entryLoc x.rcd (key % 2 ^ 20)).plus 2) [0] s
      | none => s
    match o.release with
    | some f => signalOut o.freer o.freerAt.1 o.freerAt.2 o.freerTag f s
    | none => s

/-- A memory object that is FREE_PENDING and no longer used is released. -/
def releaseIfIdle (key : Nat) (s : State) : State :=
  match tget s.objects key with
  | some o => if o.freePending && o.pins == 0 && o.refs == 0 then releaseOne key s else s
  | none => s

/-- A reference on an object is dropped, and the object released with the last (R56). -/
def dropRefMem (key : Nat) (s : State) : State :=
  releaseIfIdle key { s with objects := tupd s.objects key (fun o => { o with refs := o.refs - 1 }) }

/-- Instruction cache lines of versions of a graph that are freed are invalidated (R166). -/
def dropLines (g : Nat) (gone : Nat → Bool) (s : State) : State :=
  { s with slices := tmapv s.slices (fun _ x => { x with lines := x.lines.filter (fun e => !(e.2.1 == g && gone e.2.2.1)) }) }

/-- The versions of a graph are freed and drop their references on their image objects (R56). -/
def freeVersions (key : Nat) (s : State) : State :=
  match tget s.graphs key with
  | none => s
  | some g => g.versions.foldl (fun s v => dropRefMem v.imageKey s)
      (dropLines key (fun _ => true) { s with graphs := tdel s.graphs key })

/-- An object that is FREE_PENDING and no longer used is released; a graph frees its versions first (R56). -/
def releaseObj (key : Nat) (s : State) : State :=
  match tget s.objects key with
  | some o => if o.freePending && o.pins == 0 && o.refs == 0 then releaseOne key (freeVersions key s) else s
  | none => s

/-- A pin on an object is dropped (R54). -/
def unpin (key : Nat) (s : State) : State :=
  releaseObj key { s with objects := tupd s.objects key (fun o => { o with pins := o.pins - 1 }) }

/-- A reference on an object is dropped (R54). -/
def unref (key : Nat) (s : State) : State :=
  releaseObj key { s with objects := tupd s.objects key (fun o => { o with refs := o.refs - 1 }) }

/-- Pins are dropped, in order. -/
def unpinAll (keys : List Nat) (s : State) : State := keys.foldl (fun s k => unpin k s) s

/-- References are dropped, in order. -/
def unrefAll (keys : List Nat) (s : State) : State := keys.foldl (fun s k => unref k s) s

def pin (key : Nat) (s : State) : State :=
  { s with objects := tupd s.objects key (fun o => { o with pins := o.pins + 1 }) }

def addRef (key : Nat) (s : State) : State :=
  { s with objects := tupd s.objects key (fun o => { o with refs := o.refs + 1 }) }

/-- Objects that hold at least one pin (R55). -/
def State.pinnedObjects (s : State) : Nat := s.objects.countP (fun e => decide (0 < e.2.pins))

/-- A graph version loses a launch or loop; a version other than the current one with none left is freed (R52). -/
def unbind (g ver : Nat) (s : State) : State :=
  match tget s.graphs g with
  | none => s
  | some x =>
    let vs := x.versions.map (fun v => if v.num = ver then { v with bound := v.bound - 1 } else v)
    match vs.find? (fun v => v.num = ver && ver != x.current && v.bound == 0) with
    | some v =>
      dropRefMem v.imageKey (dropLines g (fun n => n == ver)
        { s with graphs := tset s.graphs g { x with versions := vs.filter (fun y => y.num != ver) } })
    | none => { s with graphs := tset s.graphs g { x with versions := vs } }

/-- A launch or loop binds a version (R52). -/
def bindVer (g ver : Nat) (s : State) : State :=
  { s with graphs := tupd s.graphs g (fun x =>
      { x with versions := x.versions.map (fun v => if v.num = ver then { v with bound := v.bound + 1 } else v) }) }

/-- Program store in use (R159). -/
def State.storeUsed (s : State) : Nat :=
  s.graphs.foldl (fun a e => e.2.versions.foldl (fun a v => a + v.image.length) a) 0

/-- Names the host address of a device address within a context: the cached memory object that maps it (R43, R44). -/
def State.mapVa (s : State) (c va n : Nat) : Option (Nat × MemObj × Loc) :=
  (s.objects.findSome? (fun e =>
    match e.2.body with
    | .mem o => if e.1 / 2 ^ 20 = c ∧ o.devVa ≤ va ∧ va + n ≤ o.devVa + o.size then some (e.1, o, o.at_ (va - o.devVa)) else none
    | _ => none))

/-! ### Journal records (R389 to R392) -/

/-- A Journal record of a loop waits in a cell of the JOURNAL class for its ring write (R302, R389). The header and payload
are those of R391. -/
def journal (l typ tag step part items : Nat) (payload : List Byte) (s : State) : State :=
  match tget s.trestle.loops l with
  | none => s
  | some lp =>
    match lp.jnl with
    | none => s
    | some j =>
      let r := le 1 2 ++ le 1 typ ++ le 2 l ++ le 4 tag ++ le 8 j.nextSeq ++ le 8 step ++ le 1 part ++ le 1 items ++
        zeros 2 ++ padTo 36 (payload.take 36)
      let k := j.nextSeq
      let j := { j with nextSeq := k + 1, waiting := j.waiting ++ [(step, r)] }
      takeOrWait (itemReq 5 j.cells (some lp.tenant) k 1 (some r))
        { s with trestle := { s.trestle with loops := tset s.trestle.loops l { lp with jnl := some j } } }

/-- Items of w bytes each packed n to a record. -/
def chunks (n : Nat) : Nat → List (List Byte) → List (List (List Byte))
  | 0, _ => []
  | f + 1, l => if l.isEmpty then [] else l.take n :: chunks n f (l.drop n)

/-- Journal records of up to n items each, in parts. -/
def journalItems (l typ tag step n : Nat) (items : List (List Byte)) (s : State) : State :=
  let cs := chunks n items.length items
  (cs.zipIdx).foldl (fun s e => journal l typ tag step e.2 e.1.length e.1.flatten s) s

end Sys2Proof.Machine
end

