-- ==== Sys2Proof/Machine/WardOps.lean ====
section
/-! DEFINITION. Shared operations of Wardrobe: frames and tiers (R220 to R225), leaf chains (R227 to R230), page movers
(R505), bulk copies in sparse memories, events of capacity changes (R250). -/

namespace Sys2Proof.Machine

/-! ### Bulk copies -/

/-- The memory with n bytes from a on zeroed. -/
def clearRange (m : List Host.Cell) (a n : Nat) : List Host.Cell := m.filter (fun c => decide (c.1 < a ∨ a + n ≤ c.1))

/-- Bytes [a, a + n) of one memory copied to b of another. -/
def copyCells (src : List Host.Cell) (a n : Nat) (dst : List Host.Cell) (b : Nat) : List Host.Cell :=
  (src.filter (fun c => decide (a ≤ c.1 ∧ c.1 < a + n))).foldl (fun d c => cellPut d (c.1 - a + b) c.2) (clearRange dst b n)

/-- The memories with the memory of a space replaced. -/
def Mems.put (m : Mems) (sp : Space) (x : List Host.Cell) : Mems :=
  match sp with
  | .host => { m with host := x }
  | .fast => { m with fast := x }
  | .slow => { m with slow := x }

/-- n bytes copied from one location to another. -/
def memCopy (src dst : Loc) (n : Nat) (s : State) : State :=
  { s with mem := s.mem.put dst.space (copyCells (s.mem.of src.space) src.addr n (s.mem.of dst.space) dst.addr) }

/-- n bytes at a location zeroed. -/
def memZero (l : Loc) (n : Nat) (s : State) : State :=
  { s with mem := s.mem.put l.space (clearRange (s.mem.of l.space) l.addr n) }

/-- Address of a byte of a core's scratch storage: 768 KiB of scratchpad, then 128 KiB of accumulators (R279). -/
def scratchAddr (bench core byte : Nat) : Nat := (bench * 8 + core) * 2 ^ 20 + byte

/-- Bytes of scratch storage of a core (R279). -/
def coreBytes : Nat := 896 * 1024

/-- Every scratchpad and accumulator word of a bench becomes zero (R280). -/
def clearBench (b : Nat) (s : State) : State :=
  { s with mem := { s.mem with scratch := clearRange s.mem.scratch (scratchAddr b 0 0) (8 * 2 ^ 20) } }

/-! ### Frames (R220, R224) -/

/-- Page size P (R220). -/
def pageBytes (s : State) : Nat := 2 ^ s.wrd.pageLog2

/-- F_fast and F_slow (R220). -/
def fFast (s : State) : Nat := min (s.wrd.fastGib * Config.gib / pageBytes s) (2 ^ 26)
def fSlow (s : State) : Nat := min (s.wrd.slowGib * Config.gib / pageBytes s) (2 ^ 26 - fFast s)

/-- Where a frame lies (R220). -/
def frameLoc (f : Nat) (s : State) : Loc :=
  if f < fFast s then { space := .fast, addr := f * pageBytes s }
  else { space := .slow, addr := (f - fFast s) * pageBytes s }

def isFast (f : Nat) (s : State) : Bool := decide (f < fFast s)
def isFrame (f : Nat) (s : State) : Bool := decide (f < fFast s + fSlow s)

/-- Tier of a frame. -/
def frameTier (f : Nat) (s : State) : Tier := if isFast f s then .fast else .slow

/-- Frames [lo, hi) that a byte range of a tier overlaps. -/
def frameRange (t : Tier) (base size : Nat) (s : State) : Nat × Nat :=
  let p := pageBytes s
  let off := match t with | .fast => 0 | .slow => fFast s
  if size = 0 then (0, 0) else (off + base / p, off + ceilDiv (base + size) p)

/-- The ranges of R220 that are never handed out, but for channels mapped out. -/
def reservedRanges (s : State) : List (Nat × Nat) :=
  [frameRange .fast s.wrd.hkBase Config.gib s] ++
  (if s.watch.spillValid then [frameRange .slow s.watch.spillBase Config.gib s] else []) ++
  (s.tenants.map (fun e => [frameRange .fast e.2.rcd.fastBase e.2.rcd.fastSize s,
                            frameRange .slow e.2.rcd.slowBase e.2.rcd.slowSize s])).flatten

/-- The range that holds a frame, none where no range does. -/
def rangeOf (l : List (Nat × Nat)) (f : Nat) : Option (Nat × Nat) := l.find? (fun r => decide (r.1 ≤ f ∧ f < r.2))

/-- The first 256 KiB unit of a frame in its tier (R248). A frame of at most 256 KiB lies in one unit. -/
def unitOf (f : Nat) (s : State) : Tier × Nat := (frameTier f s, (frameLoc f s).addr / 262144)

/-- The frame lies on a channel mapped out (R220). -/
def isOut (f : Nat) (s : State) : Bool := s.wrd.outUnits.contains (unitOf f s)

/-- An entry of the frame table with no other use. -/
def Frame.of (st : FrameState) (zp : Bool) : Frame :=
  { state := st, format := 0, accessed := false, zeroPending := zp, holders := 0, was := st }

/-- The frame table entry of a frame (R224). -/
def frameAt (f : Nat) (s : State) : Frame :=
  match tget s.wrd.frames f with
  | some x => x
  | none => if (rangeOf (reservedRanges s) f).isSome || isOut f s then Frame.of .reserved false else Frame.of .free true

/-- The frame table with an entry changed. -/
def setFrame (f : Nat) (x : Frame) (s : State) : State :=
  { s with wrd := { s.wrd with frames := tset s.wrd.frames f x } }

/-- The frame becomes FREE with zero_pending set, or RESERVED where it lies on a channel mapped out; Wardrobe has released
a frame (R184). -/
def freeFrame (f : Nat) (s : State) : State :=
  { s with wrd := { s.wrd with frames := tdel s.wrd.frames f, released := s.wrd.released + 1 } }

/-- The word of a frame table entry (R224): format and holders are zero in other states than KV. -/
def Frame.word (x : Frame) : Nat :=
  x.state.code * 2 ^ 29 + (if x.state = .kv then x.format % 8 * 2 ^ 26 + x.holders % 2 ^ 19 else 0) + b2n x.accessed * 2 ^ 25 +
  b2n x.zeroPending * 2 ^ 24

/-- The frame is FREE. -/
def isFree (f : Nat) (s : State) : Bool := isFrame f s && ((frameAt f s).state == .free)

/-- Frames of a list of units, at page size P. -/
def framesOfUnits (t : Tier) (units : List Nat) (s : State) : List Nat :=
  let p := pageBytes s
  let off := match t with | .fast => 0 | .slow => fFast s
  ((units.map (fun u => (List.range (262144 / p)).map (fun i => off + u * (262144 / p) + i))).flatten).filter
    (fun f => isFrame f s && (frameTier f s == t))

/-- Frames of [lo, hi) that the ranges of R220 and the units out cover. -/
def reservedIn (lo hi : Nat) (s : State) : Nat :=
  let rs := reservedRanges s
  let base := rs.foldl (fun a r => a + (min hi r.2 - max lo r.1)) 0
  let outs := s.wrd.outUnits.foldl (fun a u =>
    a + ((framesOfUnits u.1 [u.2] s).countP (fun f => decide (lo ≤ f ∧ f < hi) && (rangeOf rs f).isNone))) 0
  base + outs

/-- Frames in state FREE of [lo, hi). -/
def freeIn (lo hi : Nat) (s : State) : Nat :=
  let rs := reservedRanges s
  let listed := s.wrd.frames.countP (fun e => decide (lo ≤ e.1 ∧ e.1 < hi) && (e.2.state != .free) &&
    (rangeOf rs e.1).isNone && !s.wrd.outUnits.contains (unitOf e.1 s))
  (hi - lo) - reservedIn lo hi s - listed

def fastFreeFrames (s : State) : Nat := freeIn 0 (fFast s) s
def slowFreeFrames (s : State) : Nat := freeIn (fFast s) (fFast s + fSlow s) s

/-- Fast frames held by the hot set (R225). -/
def hotFrames (s : State) : Nat := s.wrd.models.foldl (fun a e => a + e.2.frames.length) 0

/-- Frames a job of a mover moves, copies or zeroes. -/
def MoveKind.frames : MoveKind → List Nat
  | .page a b .. => [a, b]
  | .cow a b => [a, b]
  | .zero f => [f]
  | .saveMove a b => [a, b]
  | .model _ _ fs => fs
  | .copy .. => []
  | .fill .. => []

/-- The destination a job writes. -/
def MoveKind.target : MoveKind → List Nat
  | .page _ b .. => [b]
  | .cow _ b => [b]
  | .zero f => [f]
  | .saveMove _ b => [b]
  | .model _ _ fs => fs
  | .copy .. => []
  | .fill .. => []

/-- The job zeroes a frame. -/
def MoveKind.zeroes : MoveKind → Bool
  | .zero _ => true
  | _ => false

/-- Every job of every mover. -/
def State.allJobs (s : State) : List MoveJob := (s.wrd.movers.map (·.jobs)).flatten

/-- Frames still to be moved out of LEAVING frames, of either tier: those of a map-out whose data are gone are not moved. A
move under way to a fast frame has taken that frame already and is not counted again (R225, R249). -/
def leavingFrames (s : State) : Nat :=
  if (s.wrd.mapout.map (·.lost)).getD false then 0 else
  s.wrd.frames.countP (fun e => (e.2.state == .leaving) &&
    !(s.allJobs.any (fun j => j.kind.frames.contains e.1 && j.kind.target.any (fun d => d != e.1 && isFast d s))))

/-- Frames reserved under reserve_frames and R215 and not yet used. -/
def reservedSeqFrames (s : State) : Nat := s.trestle.seqs.foldl (fun a e => a + e.2.reserve) 0

/-- free_fast of R225; it may be negative. -/
def freeFast (s : State) : Int :=
  (fastFreeFrames s : Int) - (leavingFrames s : Int) - ((s.wrd.minFrames - hotFrames s : Nat) : Int) - (reservedSeqFrames s : Int)

/-- free_slow of R225. -/
def freeSlow (s : State) : Int := (slowFreeFrames s : Int)

/-- Frames in service of a tier (R226): those neither RESERVED, LEAVING nor LOST. -/
def inService (lo hi : Nat) (s : State) : Nat :=
  let rs := reservedRanges s
  (hi - lo) - reservedIn lo hi s -
    s.wrd.frames.countP (fun e => decide (lo ≤ e.1 ∧ e.1 < hi) && (rangeOf rs e.1).isNone &&
      !s.wrd.outUnits.contains (unitOf e.1 s) &&
      (e.2.state == .reserved || e.2.state == .leaving || e.2.state == .lost))

/-- The next frame at or above f that no range of R220 covers. -/
def skipRanges (rs : List (Nat × Nat)) : Nat → Nat → Nat
  | 0, f => f
  | n + 1, f => match rangeOf rs f with
    | some r => skipRanges rs n r.2
    | none => f

/-- Up to k free frames of [f, hi), lowest first, that a test accepts. -/
def lowestFree (s : State) (rs : List (Nat × Nat)) (ok : Nat → Bool) (hi : Nat) : Nat → Nat → Nat → List Nat
  | 0, _, _ => []
  | fuel + 1, f, k =>
    if k = 0 then [] else
    let g := skipRanges rs (rs.length + 1) f
    if hi ≤ g then [] else
    if isFree g s && ok g then g :: lowestFree s rs ok hi fuel (g + 1) (k - 1)
    else lowestFree s rs ok hi fuel (g + 1) k

/-- Free frames of a tier whose zero_pending is clear, lowest first (R231). -/
def cleanFrames (t : Tier) (s : State) : List Nat :=
  (s.wrd.frames.filter (fun e => (e.2.state == .free) && !e.2.zeroPending && (frameTier e.1 s == t) && !isOut e.1 s &&
    (rangeOf (reservedRanges s) e.1).isNone)).map (·.1)

/-- Bounds of a tier's frames. -/
def tierBounds (t : Tier) (s : State) : Nat × Nat :=
  match t with
  | .fast => (0, fFast s)
  | .slow => (fFast s, fFast s + fSlow s)

/-- A free frame of a tier: the hardware's choice where it keeps R231 (frames without zero_pending first), else the
lowest such frame (log 11). -/
def pickFrame (t : Tier) (choice : Option Nat) (s : State) : Option Nat :=
  let clean := cleanFrames t s
  let b := tierBounds t s
  let fallback := match clean with
    | f :: _ => some f
    | [] => (lowestFree s (reservedRanges s) (fun _ => true) b.2 (b.2 - b.1) b.1 1).head?
  match choice with
  | some f =>
    if isFree f s && (frameTier f s == t) && (clean.isEmpty || clean.contains f) then some f else fallback
  | none => fallback

/-- The frame of a device address of a tier. -/
def frameOfAddr (tier : Tier) (addr : Nat) (s : State) : Nat :=
  match tier with
  | .fast => addr / pageBytes s
  | .slow => fFast s + addr / pageBytes s

/-- The channel that an address of a tier lies on, by the channel map (R501). -/
def channelAt (t : Tier) (a : Nat) (s : State) : Option Nat :=
  (s.wrd.chmap.find? (fun r => (r.tier == t) && decide (r.base ≤ a ∧ a < r.base + r.size))).map
    (fun r => r.first + ((a - r.base) / r.granule) % r.count)

/-- The partition whose channels hold a location of the fast tier. -/
def locPartition (l : Loc) (s : State) : Option Nat := if l.space = .fast then (channelAt .fast l.addr s).map (· / 8) else none

/-- The partitions whose channels hold n bytes of the fast tier: a granule of the map is at least 256 KiB (R501). -/
def rangeParts (l : Loc) (n : Nat) (s : State) : List Nat :=
  if n = 0 then [] else
  ((List.range ((l.addr + n - 1) / 2 ^ 18 - l.addr / 2 ^ 18 + 1)).filterMap (fun i =>
    locPartition { l with addr := max l.addr ((l.addr / 2 ^ 18 + i) * 2 ^ 18) } s)).eraseDups

/-- A request for n bytes is held at a memory fabric port: a partition whose channels it is addressed to is in reset (R362). -/
def rangeHeld (l : Loc) (n : Nat) (s : State) : Bool := (rangeParts l n s).any (fun p => s.port.prtRst.contains p)

/-- The partition whose channels hold a fast frame, by the channel map (R501). -/
def framePartition (f : Nat) (s : State) : Option Nat := (channelAt .fast (frameLoc f s).addr s).map (· / 8)

/-- Requests for a frame are held. -/
def frameHeld (f : Nat) (s : State) : Bool := rangeHeld (frameLoc f s) (pageBytes s) s

/-- Up to k free frames of a tier that a test accepts, those without zero_pending first (R231). -/
def freeOf (t : Tier) (ok : Nat → Bool) (k : Nat) (s : State) : List Nat :=
  let b := tierBounds t s
  let clean := (cleanFrames t s).filter ok
  clean.take k ++ lowestFree s (reservedRanges s) (fun f => ok f && !clean.contains f) b.2 (b.2 - b.1) b.1 (k - clean.length)

/-- The channels of a partition are in the channel map (R501). -/
def mapHas (p : Nat) (s : State) : Bool :=
  s.wrd.chmap.any (fun r => (r.tier == .fast) && decide (r.first ≤ 8 * p + 7 ∧ 8 * p < r.first + r.count))

/-- The fast frames of a save that lie on the partitions' own channels: for each partition of a list, up to its count, at
most n in all (R279). -/
def nearFrames (s : State) : List (Nat × Nat) → Nat → List Nat → List (List Nat)
  | [], _, _ => []
  | (p, k) :: t, n, got =>
    let fs := if mapHas p s then freeOf .fast (fun f => framePartition f s == some p && !got.contains f) (min k n) s else []
    fs :: nearFrames s t (n - fs.length) (got ++ fs)

/-- Each partition's frames made up to its count from a list. -/
def fillUp : List ((Nat × Nat) × List Nat) → List Nat → List Nat
  | [], _ => []
  | ((_, k), fs) :: t, more => fs ++ more.take (k - fs.length) ++ fillUp t (more.drop (k - fs.length))

/-- The save frames of the partitions of a residency, each with the count it needs, in the order of R279; none where too few
are free. Frames reserved under R225 are not used (freeFast bounds the fast frames taken). -/
def pickSave (ps : List (Nat × Nat)) (s : State) : Option (List Nat) :=
  let k := ps.foldl (fun a e => a + e.2) 0
  let nFast := min k (freeFast s).toNat
  let near := nearFrames s ps nFast []
  let own := near.flatten
  let far := freeOf .fast (fun f => !own.contains f) (nFast - own.length) s
  let slow := freeOf .slow (fun _ => true) (k - own.length - far.length) s
  let all := fillUp (ps.zip near) (far ++ slow)
  if all.length = k then some all else none

/-- Frames are freed, or become RESERVED on a channel mapped out. -/
def freeFrames (fs : List Nat) (s : State) : State := fs.foldl (fun s f => freeFrame f s) s

/-! ### Page movers (R505) -/

/-- Whom a mover's job serves: the context and the tenant it is charged to (R328), the key of its traffic (R473), and the tenant
whose work it is (R295). -/
structure Payer where
  ctx : Option Nat
  tenant : Option Nat
  key : Option Nat
  work : Option Nat

/-- Traffic of no tenant (R328, R473). -/
def Payer.nobody : Payer := { ctx := none, tenant := none, key := none, work := none }

/-- Traffic charged to no tenant that a tenant's work waits for (R295, R328). -/
def Payer.workOf (t : Option Nat) : Payer := { Payer.nobody with work := t }

/-- Traffic of a context: its tenant pays, and the tenant's key is used (R25, R328). -/
def payCtx (c : Nat) (s : State) : Payer := { ctx := some c, tenant := s.tenantOf c, key := s.tenantOf c, work := s.tenantOf c }

/-- Bytes of a mover assigned and not landed. -/
def Mover.outstanding (m : Mover) : Nat := m.jobs.foldl (fun a j => a + (j.total - j.done)) 0

/-- The mover with the fewest bytes outstanding, the lower number first. -/
def leastMover : Nat → List Mover → Option (Nat × Nat)
  | _, [] => none
  | i, m :: t =>
    match leastMover (i + 1) t with
    | some (j, b) => if m.outstanding ≤ b then some (i, m.outstanding) else some (j, b)
    | none => some (i, m.outstanding)

/-- Two jobs touch one frame, and one of them writes it. -/
def MoveKind.meets (a b : MoveKind) : Bool :=
  a.target.any (fun f => b.frames.contains f) || b.target.any (fun f => a.frames.contains f)

/-- Background jobs that a foreground job waits for are foreground work themselves (R232), of its tenant (R295). -/
def hurry (kind : MoveKind) (work : Option Nat) (s : State) : State :=
  { s with wrd := { s.wrd with movers := s.wrd.movers.map (fun m =>
      { m with jobs := m.jobs.map (fun j =>
          if j.background && j.kind.meets kind then { j with background := false, work := work } else j) }) } }

/-- A job is given to a mover (R505). -/
def startJob (kind : MoveKind) (total : Nat) (background : Bool) (who : Payer) (s : State) : State :=
  let s := if background then s else hurry kind who.work s
  let m := ((leastMover 0 s.wrd.movers).map (·.1)).getD 0
  let j : MoveJob := { id := s.wrd.nextJob, mover := m, kind := kind, total := total, done := 0, background := background, stopped := false,
                       ctx := who.ctx, tenant := who.tenant, key := who.key, work := who.work }
  bump 5 { s with wrd := { s.wrd with
      nextJob := s.wrd.nextJob + 1, movers := s.wrd.movers.modify m (fun x => { x with jobs := x.jobs ++ [j] }) } }

/-- A job waits: one given earlier and not landed has yet to read or write a frame of it (R193, R231, R505). -/
def jobWaits (j : MoveJob) (s : State) : Bool := s.allJobs.any (fun k => decide (k.id < j.id) && k.kind.meets j.kind)

/-- A move, copy or zeroing reads or writes a frame: accesses are held until it lands (R193, R236). -/
def inFlight (f : Nat) (s : State) : Bool := s.allJobs.any (fun j => j.kind.frames.contains f)

/-- A move, copy or zeroing writes a frame. -/
def arriving (f : Nat) (s : State) : Bool := s.allJobs.any (fun j => j.kind.target.contains f)

/-- Bytes of a job are charged (R328). -/
def chargeJob (j : MoveJob) (cls n : Nat) (s : State) : State :=
  if n = 0 then s else
  let s := match j.ctx with | some c => modUse c (Use.addBytes cls n) s | none => s
  match j.tenant with | some t => aggBytes t cls n s | none => s

/-- A mover's read of n bytes on its own port (R472) or the host fabric, and its requests for n bytes that it has written; none of
either for a function whose host accesses have stopped (R470). -/
def moverRead (j : MoveJob) (l : Loc) (n : Nat) (s : State) : State :=
  if hostStopped l s then s else chargeJob j l.space.cls n (readReq j.key (.mover j.mover) l n s)

def moverWrote (j : MoveJob) (l : Loc) (n : Nat) (s : State) : State :=
  chargeJob j l.space.cls n (emitAll (writeReqs j.key (.mover j.mover) l (memRead l n s)) s)

/-- The mover jobs of a queue's command (or of every command of a context) that have not landed. -/
def MoveKind.isCmd (c : Nat) : MoveKind → Bool
  | .copy x .. => x == c
  | .fill x .. => x == c
  | _ => false

def MoveKind.isCmdAt (c q pos : Nat) : MoveKind → Bool
  | .copy x y z .. => x == c && y == q && z == pos
  | .fill x y z .. => x == c && y == q && z == pos
  | _ => false

/-- Jobs of a command are told to stop (R85). -/
def stopJobs (t : MoveKind → Bool) (s : State) : State :=
  { s with wrd := { s.wrd with movers := s.wrd.movers.map (fun m =>
      { m with jobs := m.jobs.map (fun j => if t j.kind then { j with stopped := true } else j) }) } }

/-! ### Taking and freeing frames -/

/-- A frame is taken for a holder of a tenant; a zero-pending one is zeroed at once, and accesses are held until that lands
(R231). -/
def allocFrame (t : Option Nat) (f : Nat) (x : Frame) (s : State) : State :=
  let zp := (frameAt f s).zeroPending
  let s := setFrame f x s
  if zp then startJob (.zero f) (pageBytes s) false (Payer.workOf t) s else s

/-- Frames become SAVE frames of a tenant's residency (R279). -/
def takeSave (t : Option Nat) (fs : List Nat) (s : State) : State := fs.foldl (fun s f => allocFrame t f (Frame.of .save false) s) s

/-- A KV frame with one holder, in format 0. -/
def Frame.kv : Frame := { Frame.of .kv false with holders := 1, was := .kv }

/-! ### Leaf chains (R227 to R230) -/

/-- The chain of leaves from a leaf with a count of its entries, newest first. -/
def chainFrom (ls : Tab Leaf) : Nat → Option Nat → Nat → List (Nat × Nat)
  | 0, _, _ => []
  | _ + 1, none, _ => []
  | n + 1, some i, k =>
    match tget ls i with
    | none => []
    | some l => (i, k) :: chainFrom ls n l.pred l.predValid

/-- Entries of the newest leaf that belong to a sequence (R227). -/
def rootEntries (q : Seq) (s : State) : Nat :=
  match q.root with
  | none => 0
  | some r => if q.rootOwn then ((tget s.wrd.leaves r).map (·.used)).getD 0 else q.rootCount

/-- The chain of a sequence, newest leaf first, each with the entries that belong to it (R227). -/
def chainOf (q : Seq) (s : State) : List (Nat × Nat) :=
  chainFrom s.wrd.leaves (s.wrd.leaves.length + 1) q.root (rootEntries q s)

/-- The pages of a sequence in page order (R227). -/
def pagesOf (q : Seq) (s : State) : List LeafEntry :=
  ((chainOf q s).reverse.map (fun p => (((tget s.wrd.leaves p.1).map (·.entries)).getD []).take p.2)).flatten

/-- Frames of a sequence's pages. -/
def pageFrames (q : Seq) (s : State) : List Nat := (pagesOf q s).map (·.frame)

/-- A leaf that is not in use: the hardware's choice, else the lowest (log 11). -/
def pickLeaf (choice : Option Nat) (s : State) : Nat :=
  let low := ((List.range (s.wrd.leaves.length + 1)).find? (fun i => (tget s.wrd.leaves i).isNone)).getD 0
  match choice with
  | some i => if i < 1703936 ∧ (tget s.wrd.leaves i).isNone then i else low
  | none => low

/-- A sequence record changed. -/
def State.modSeq (s : State) (i : Nat) (f : Seq → Seq) : State :=
  { s with trestle := { s.trestle with seqs := tupd s.trestle.seqs i f } }

/-- A loop changed. -/
def State.modLoop (s : State) (l : Nat) (f : Loop → Loop) : State :=
  { s with trestle := { s.trestle with loops := tupd s.trestle.loops l f } }

/-- A frame is entered as the newest page of a sequence (R227): in its own newest leaf, or in a new leaf of its own. -/
def addPage (i f : Nat) (leaf : Option Nat) (s : State) : State :=
  match tget s.trestle.seqs i with
  | none => s
  | some q =>
    let e : LeafEntry := { valid := true, lost := false, frame := f }
    let room := q.rootOwn && decide (rootEntries q s < 60) && q.root.isSome
    if room then
      { s with wrd := { s.wrd with leaves := tupd s.wrd.leaves (q.root.getD 0) (fun l =>
          { l with used := l.used + 1, entries := l.entries ++ [e] }) } }
    else
      let n := pickLeaf leaf s
      let l : Leaf := { pred := q.root, predValid := rootEntries q s, used := 1, chains := 1, entries := [e] }
      ({ s with wrd := { s.wrd with leaves := tset s.wrd.leaves n l } }).modSeq i
        (fun q => { q with root := some n, rootOwn := true, rootCount := 1 })

/-- One holder less on a KV page (R229, R247): with none left the frame is freed, when no move of it is in flight; a
LOST frame stays LOST while its channel is out. -/
def dropHolder (f : Nat) (s : State) : State :=
  let x := frameAt f s
  let x := { x with holders := x.holders - 1 }
  if x.holders = 0 then
    if arriving f s then setFrame f x s
    else if x.state = .lost ∧ isOut f s = true then setFrame f x s
    else freeFrame f s
  else setFrame f x s

/-- One chain less through a leaf (R229). -/
def dropLeaf (i : Nat) (s : State) : State :=
  match tget s.wrd.leaves i with
  | none => s
  | some l =>
    if l.chains ≤ 1 then { s with wrd := { s.wrd with leaves := tdel s.wrd.leaves i } }
    else { s with wrd := { s.wrd with leaves := tset s.wrd.leaves i { l with chains := l.chains - 1 } } }

/-- The pages of a sequence are returned, newest first (R187, R229). -/
def freePages (i : Nat) (s : State) : State :=
  match tget s.trestle.seqs i with
  | none => s
  | some q =>
    let fs := (pageFrames q s).reverse
    let ls := (chainOf q s).map (·.1)
    let s := fs.foldl (fun s f => dropHolder f s) s
    let s := ls.foldl (fun s l => dropLeaf l s) s
    s.modSeq i (fun q => { q with root := none, rootCount := 0, rootOwn := false, reserve := 0 })

/-- The sequences that hold a frame as a page, with the page's index. -/
def holdersOf (f : Nat) (s : State) : List (Nat × Nat) :=
  s.trestle.seqs.filterMap (fun e => ((pageFrames e.2 s).findIdx? (· == f)).map (fun j => (e.1, j)))

/-- The leaf entry of a frame is changed (each page has one, R228). -/
def modEntry (f : Nat) (g : LeafEntry → LeafEntry) (s : State) : State :=
  { s with wrd := { s.wrd with leaves := tmapv s.wrd.leaves (fun _ l =>
      { l with entries := l.entries.map (fun e => if e.valid && e.frame == f then g e else e) }) } }

/-- The loop of the first sequence that holds a frame, with its next step. -/
def frameLoop (f : Nat) (s : State) : Option (Nat × Loop) :=
  match holdersOf f s with
  | (i, _) :: _ => (tget s.trestle.seqs i).bind (fun q => (tget s.trestle.loops q.loopId).map (fun l => (q.loopId, l)))
  | [] => none

/-- Who pays for a page's move made at a boundary of a loop's context (R328); none: nobody. The key is that of the page's own
loop (R473). -/
def payMove (f : Nat) (ctx : Option Nat) (s : State) : Payer :=
  { ctx := ctx, tenant := ctx.bind s.tenantOf, key := (frameLoop f s).map (fun p => p.2.tenant), work := ctx.bind s.tenantOf }

/-- A page goes from one frame to another (R247): the leaf entry follows at once, and accesses are held until the move lands
(R236), which carries the bytes in format fmt. With early, the source is counted free now (R192, R242); otherwise it is freed
when the move lands. -/
def movePage (src dst fmt : Nat) (demote early background : Bool) (ctx : Option Nat) (s : State) : State :=
  let x := frameAt src s
  let own := frameLoop src s
  let who := payMove src ctx s
  let step := ((own.map (fun p => p.2.step)).getD 0) + 1
  let kind := MoveKind.page src dst fmt (own.map (·.1)) demote (early && x.state == .kv) step
  let s := setFrame dst { x with state := .kv, accessed := false, zeroPending := false, was := .kv } s
  let s := modEntry src (fun e => { e with frame := dst }) s
  let s := startJob kind (pageBytes s) background who s
  trace 9 0 0xFFFF 0 src (if early && x.state == .kv then freeFrame src s else s)

/-- KV frames charged to a tenant (R225): each page that is not lost once, with reserved frames. -/
def heldFrames (t : Nat) (s : State) : Nat :=
  let seqs := s.trestle.seqs.filter (fun e => e.2.tenant == t)
  let fs := (seqs.foldl (fun (a : List Nat) e =>
    a ++ ((pagesOf e.2 s).filter (fun g => !g.lost && !a.contains g.frame)).map (·.frame)) [])
  fs.length + seqs.foldl (fun a e => a + e.2.reserve) 0

/-- Pages of a sequence in the fast tier. -/
def fastPages (q : Seq) (s : State) : Nat := (pageFrames q s).countP (fun f => isFast f s)

/-- EV_CAPACITY_CHANGE (R250, R406). -/
def capacityEvent (phase : Nat) (m : Mapout) (s : State) : State :=
  let w := [phase + tierCode m.tier * 2 ^ 8 + m.channel * 2 ^ 16 + b2n m.lost * 2 ^ 32, m.removed, m.invalidated,
    ((freeFast s).emod (2 ^ 32)).toNat * 2 ^ 32 + ((freeSlow s).emod (2 ^ 32)).toNat]
  let slice := match m.tier with | .fast => m.channel / 8 | .slow => m.channel
  raiseEvent (mkEvent s evCapacityChange 0xFFFF 0xFFFF 0 1 slice w) s

/-! ### The housekeeping region (R223) -/

/-- The 256 bytes of a leaf block (R227). -/
def Leaf.bytes (l : Leaf) : List Byte :=
  le 4 (l.pred.getD 0xFFFFFFFF) ++ le 1 l.predValid ++ le 1 l.used ++ zeros 2 ++ le 4 l.chains ++ zeros 4 ++
  padTo 240 ((l.entries.map (fun e => le 4 (b2n e.valid * 2 ^ 31 + b2n e.lost * 2 ^ 30 + e.frame % 2 ^ 26))).flatten)

/-- The frames of a model as extents of consecutive frames: first frame and count (R253). -/
def extentsOf : List Nat → List (Nat × Nat)
  | [] => []
  | f :: t =>
    match extentsOf t with
    | (g, n) :: u => if g = f + 1 then (f, n + 1) :: u else (f, 1) :: (g, n) :: u
    | [] => [(f, 1)]

/-- The extent lists of the models, in directory order. The spec gives an extent 8 bytes and no layout: here the first frame,
then the count (log 96). -/
def extentBytes (s : State) : List Byte :=
  ((s.wrd.models.map (fun e => (extentsOf e.2.frames).map (fun x => le 4 x.1 ++ le 4 x.2))).flatten).flatten

/-- The byte at an offset of the first 704 MiB of the housekeeping region (R223): the frame table, the leaf area and the
extent lists stand there as the tables of Wardrobe say. -/
def hkByte (off : Nat) (s : State) : Byte :=
  if off < 0x10000000 then (((le 4 (frameAt (off / 4) s).word))[off % 4]?).getD 0
  else if off < 0x2A000000 then
    match tget s.wrd.leaves ((off - 0x10000000) / 256) with
    | some l => ((l.bytes)[(off - 0x10000000) % 256]?).getD 0
    | none => 0
  else ((extentBytes s)[off - 0x2A000000]?).getD 0

end Sys2Proof.Machine
end

