-- ==== Sys2Proof/Machine/SchedOps.lean ====
section
/-! DEFINITION. Shared operations of slices and the scheduler: streams and launches (R137, R167, R173), benches (R265),
passes (R266 to R268), placement and vacating (R269 to R279). -/

namespace Sys2Proof.Machine

/-! ### Slices and streams -/

/-- The slice of a partition. -/
def sliceAt (p : Nat) (s : State) : Slice := tgetD s.slices p Slice.reset

/-- A stream of a slice. -/
def streamAt (p st : Nat) (s : State) : Stream := ((sliceAt p s).streams[st]?).getD Stream.reset

def State.modSlice (s : State) (p : Nat) (f : Slice → Slice) : State := { s with slices := tmod s.slices p Slice.reset f }

def State.modStream (s : State) (p st : Nat) (f : Stream → Stream) : State :=
  s.modSlice p (fun x => { x with streams := x.streams.modify st f })

/-- Partitions of a set of benches, in bench order (R11). -/
def partsOf (bs : List Nat) : List Nat := (bs.map (· / 4)).eraseDups

/-- Benches of a partition within a set. -/
def inPart (p : Nat) (bs : List Nat) : List Nat := bs.filter (fun b => b / 4 == p)

/-- Bench mask of R180. -/
def maskOf (p : Nat) (bs : List Nat) : Nat := (inPart p bs).foldl (fun a b => a + 2 ^ (b % 4)) 0

/-- A stream that no launch occupies. -/
def Stream.unused (x : Stream) : Bool := (x.state == .idle) && x.launch.isNone

/-- The lowest unused stream of a slice (R137). -/
def freeStream (p : Nat) (s : State) : Option Nat := (sliceAt p s).streams.findIdx? Stream.unused

/-- Every partition of a set of benches has an unused stream. -/
def streamsReady (benches : List Nat) (s : State) : Bool := (partsOf benches).all (fun p => (freeStream p s).isSome)

/-- A launch is sent to one stream of each partition of a residency (R137, R167), in a cell of the stream's command queue
(R302). -/
def sendLaunch (base : Launch) (benches : List Nat) (s : State) : State :=
  let ps := partsOf benches
  (ps.zipIdx).foldl (fun s e =>
    match freeStream e.1 s with
    | none => s
    | some st =>
      let r := itemReq 1 (streamQueue e.1 st) (s.tenantOf base.ctx) base.step 1 (some (le 4 base.tag ++ le 8 base.step))
      emit (.launch e.1 st) ((takeOrWait r s).modStream e.1 st (fun x =>
        { Stream.reset with slips := 0, retries := 0, progress := x.progress, sample := x.progress, advanced := x.advanced,
                            heldSince := s.now, mask := maskOf e.1 benches,
                            launch := some { base with ordinal := e.2, parts := ps, benches := inPart e.1 benches } })))
    (trace 6 base.tag base.ctx 0 base.step s)

/-- The streams a launch takes on a set of benches. -/
def launchStreams (benches : List Nat) (s : State) : List (Nat × Nat) :=
  (partsOf benches).filterMap (fun p => (freeStream p s).map (fun st => (p, st)))

/-- Streams that run a launch which a test accepts. -/
def streamsOf (t : Launch → Bool) (s : State) : List (Nat × Nat) :=
  (s.slices.map (fun e => (e.2.streams.zipIdx).filterMap (fun x =>
    match x.1.launch with
    | some l => if t l then some (e.1, x.2) else none
    | none => none))).flatten

/-- A stop request is sent to a stream that has neither ended nor halted (R173). -/
def requestStop (p st : Nat) (s : State) : State :=
  let x := streamAt p st s
  if x.launch.isSome && !x.stopSent && (x.state != .halted) then
    emit (.stop p st) (s.modStream p st (fun x => { x with stopSent := true }))
  else s

def requestStops (l : List (Nat × Nat)) (s : State) : State := l.foldl (fun s e => requestStop e.1 e.2 s) s

/-- The packets of a stream's command queue are released (R312). -/
def dropStreamCells (p st : Nat) (s : State) : State := dropQueue 1 (streamQueue p st) s

/-- The registers of a stream (R138). -/
def Stream.saved (x : Stream) : StreamRegs :=
  { cycle := x.cycle, pc := x.pc, loops := x.loops, flags := x.flags, regs := x.regs, sidePc := x.engines.map (·.pc) }

def State.modRes (s : State) (r : Nat) (f : Residency → Residency) : State :=
  { s with sched := { s.sched with residencies := tupd s.sched.residencies r f } }

/-- A residency's step or run goes to streams, whose registers are kept for its save as its launch sets them (R167, R279). -/
def Residency.launched (sts : List (Nat × Nat)) (x : Residency) : Residency :=
  { x with running := true, blockedAt := none, streams := sts, regs := sts.map (fun _ => Stream.reset.saved) }

/-- The registers that a stream's step or run leaves are kept with its residency (R138, R279). -/
def keepRegs (p st : Nat) (s : State) : State :=
  let x := streamAt p st s
  match x.launch with
  | none => s
  | some l => s.modRes l.res (fun r =>
      match r.streams.findIdx? (fun e => e == (p, st)) with
      | some i => { r with regs := r.regs.set i x.saved }
      | none => r)

/-- A stream is released to IDLE (R140); collective data it has not received goes. -/
def releaseStream (p st : Nat) (s : State) : State :=
  let s := dropStreamCells p st (keepRegs p st s)
  { s with link := { s.link with inbox := s.link.inbox.filter (fun e => !(e.1 == p && e.2.1 == st)) } }.modStream p st (fun x =>
    { Stream.reset with progress := x.progress, advanced := x.advanced, cycle := x.cycle, pc := x.pc, loops := x.loops, flags := x.flags,
                        regs := x.regs })

/-- Every stream of a launch that a test accepts has halted and confirmed. -/
def allConfirmed (t : Launch → Bool) (s : State) : Bool :=
  (streamsOf t s).all (fun e => (streamAt e.1 e.2 s).confirmed)

/-! ### Benches -/

def Bench.reset : Bench := { state := .free, res := none, claim := none }

def benchAt (b : Nat) (s : State) : Bench := tgetD s.sched.benches b Bench.reset

/-- The tenant a bench is HELD for, where it is HELD. -/
def heldBy (s : State) (x : Bench) : Option (Option Nat) :=
  if x.state = .held then
    some (((x.res.bind (tget s.sched.residencies)).map (fun r => s.tenantOf r.ctx)).join)
  else none

/-- A bench changes; entering or leaving HELD sends an OCC record (R327). -/
def setBench (b : Nat) (x : Bench) (s : State) : State :=
  let old := heldBy s (benchAt b s)
  let new := heldBy s x
  let s1 := { s with sched := { s.sched with benches := if x = Bench.reset then tdel s.sched.benches b else tset s.sched.benches b x } }
  if old = new then s1 else usageSend (.occ b new.join) s1

def setBenches (bs : List Nat) (f : Bench → Bench) (s : State) : State :=
  bs.foldl (fun s b => setBench b (f (benchAt b s)) s) s

/-- Benches of the instance. -/
def allBenches (s : State) : List Nat := List.range (4 * s.integ.slices)

def partBenches (p : Nat) : List Nat := [4 * p, 4 * p + 1, 4 * p + 2, 4 * p + 3]

/-! ### Contexts, shares, passes -/

def ctxCls (s : State) (c : Nat) : Cls := ((tget s.contexts c).map (fun x => x.rcd.cls)).getD .bat
def ctxSwap (s : State) (c : Nat) : Bool := ((tget s.contexts c).map (fun x => x.rcd.swap)).getD false
def isSealedT (s : State) (t : Option Nat) : Bool :=
  ((t.bind (tget s.tenants)).map (fun x => x.rcd.isSealed)).getD false
def tenantRec (s : State) (c : Nat) : Option TenantRec := ((s.tenantOf c).bind (tget s.tenants)).map (·.rcd)

def passOf (s : State) (c : Nat) : Nat := tgetD s.sched.passes c 0

/-- A residency holds benches: one that is saved holds save frames only, and its loop waits for a placement (R262, R279). -/
def Residency.held (x : Residency) : Bool := !x.benches.isEmpty

/-- The context holds a residency or has a waiting job (R268). -/
def inSet (s : State) (c : Nat) : Bool :=
  s.sched.residencies.any (fun e => e.2.held && e.2.ctx == c) || s.sched.jobs.any (fun e => e.2.ctx == c)

/-- The contexts of the set of R268. -/
def schedSet (s : State) : List Nat :=
  (((s.sched.residencies.filter (fun e => e.2.held)).map (fun e => e.2.ctx)) ++ (s.sched.jobs.map (fun e => e.2.ctx))).eraseDups

/-- gvt is the lowest pass of the set; with the set empty it keeps its value (R268). -/
def updateGvt (s : State) : State :=
  match (schedSet s).map (passOf s) with
  | [] => s
  | p :: ps => { s with sched := { s.sched with gvt := ps.foldl (fun a b => if below64 b a then b else a) p } }

/-- A context joins the set: its pass becomes the larger of its pass and gvt, the lowest pass of the set (R268). -/
def joinSet (c : Nat) (s : State) : State :=
  let s := updateGvt s
  if inSet s c then s
  else if below64 (passOf s c) s.sched.gvt then { s with sched := { s.sched with passes := tset s.sched.passes c s.sched.gvt } }
  else s

/-- T_t of R267. -/
def shareSum (s : State) (t : Nat) : Nat :=
  (schedSet s).foldl (fun a c =>
    match tget s.contexts c with
    | some x => if x.rcd.tenant = t then a + x.rcd.share else a
    | none => a) 0

/-- stride_c of R267. -/
def stride (s : State) (c : Nat) : Nat :=
  match tget s.contexts c with
  | none => 0
  | some x =>
    match tget s.tenants x.rcd.tenant with
    | none => 0
    | some t => 2 ^ 32 * shareSum s x.rcd.tenant / (t.rcd.share * x.rcd.share)

/-- A context is charged k core-cycles (R266, R267; at S3 and above the charge added to a BAT context is four times that, R284), and an ENG record
is sent (R327). -/
def chargeCycles (c k : Nat) (s : State) : State :=
  if k = 0 then s else
  let inc := ceilDiv (k * stride s c) (2 ^ 32) * (if 3 ≤ s.power.level ∧ ctxCls s c = .bat then 4 else 1)
  let cap := (s.sched.gvt + 2 ^ 62) % 2 ^ 64
  let ahead := lag 64 (passOf s c) s.sched.gvt + inc
  let p := if 2 ^ 62 < ahead then cap else (passOf s c + inc) % 2 ^ 64
  let s := updateGvt { s with sched := { s.sched with passes := tset s.sched.passes c p } }
  let s := modUse c (fun u => { u with core := (u.core + k) % 2 ^ 64 }) s
  match s.tenantOf c with
  | some t => usageSend (.eng t k) s
  | none => s

/-! ### Jobs (R261, R269 to R272) -/

/-- Service group of a job (R269). -/
def jobGroup (s : State) (j : Job) : Nat := if ctxCls s j.ctx = .rt then 0 else if ctxSwap s j.ctx then 1 else 2

/-- Order of waiting jobs (R269). -/
def jobBefore (s : State) (a b : Nat × Job) : Bool :=
  let ga := jobGroup s a.2
  let gb := jobGroup s b.2
  if ga ≠ gb then decide (ga < gb) else
  let pa := passOf s a.2.ctx
  let pb := passOf s b.2.ctx
  if pa ≠ pb then below64 pa pb else
  if a.2.since ≠ b.2.since then decide (a.2.since < b.2.since) else decide (a.2.ctx < b.2.ctx ∨ (a.2.ctx = b.2.ctx ∧ a.1 < b.1))

def insertBy {α : Type} (before : α → α → Bool) (x : α) : List α → List α
  | [] => [x]
  | y :: t => if before x y then x :: y :: t else y :: insertBy before x t

def sortBy {α : Type} (before : α → α → Bool) (l : List α) : List α := l.foldl (fun a x => insertBy before x a) []

/-- The waiting jobs in service order (R269). -/
def jobOrder (s : State) : List (Nat × Job) := sortBy (jobBefore s) s.sched.jobs

/-- The tenant that holds, saves, restores or claims a bench. -/
def benchTenant (s : State) (b : Nat) : Option Nat :=
  let x := benchAt b s
  match x.res.bind (tget s.sched.residencies) with
  | some r => s.tenantOf r.ctx
  | none => (x.claim.bind (tget s.sched.jobs)).bind (fun j => s.tenantOf j.ctx)

/-- usable of R271 with R272. -/
def usable (p : Nat) (j : Job) (s : State) : Bool :=
  let t := s.tenantOf j.ctx
  let others := (partBenches p).filterMap (fun b => benchTenant s b) |>.filter (fun x => some x != t)
  !s.sched.unusable.contains p && (partBenches p).all (fun b => (benchAt b s).state != .out) &&
  (if isSealedT s t then others.isEmpty else others.all (fun x => !isSealedT s (some x)))

/-- A bench is FREE, or claimed by the job. -/
def freeFor (id : Nat) (s : State) (b : Nat) : Bool :=
  let x := benchAt b s
  (x.state == .free) || ((x.state == .claimed) && (x.claim == some id))

/-- Residencies with benches in a partition. -/
def resInPart (p : Nat) (s : State) : List Nat := ((partBenches p).filterMap (fun b => (benchAt b s).res)).eraseDups

/-- Streams of a partition that no residency needs: the unused ones, less one for each residency there that runs nothing and
whose next launch takes one (R137, R271). -/
def spareStreams (p : Nat) (s : State) : Nat :=
  (sliceAt p s).streams.countP Stream.unused -
    (resInPart p s).countP (fun r => ((tget s.sched.residencies r).map (fun x => !x.running)).getD false)

/-- First fit (R271). -/
def firstFit (id : Nat) (j : Job) (s : State) : Option (List Nat) :=
  let n := s.integ.slices
  if j.count ≤ 4 then
    (List.range n).findSome? (fun p =>
      let bs := (partBenches p).filter (freeFor id s)
      if usable p j s && decide (0 < spareStreams p s) && decide (j.count ≤ bs.length) then some (bs.take j.count) else none)
  else
    let m := j.count / 4
    (List.range (n + 1 - m)).findSome? (fun p =>
      let ps := (List.range m).map (· + p)
      let bs := (ps.map partBenches).flatten
      if ps.all (fun x => usable x j s && decide (0 < spareStreams x s)) && bs.all (freeFor id s) then some bs else none)

/-- Benches held by residencies that a test accepts. -/
def benchCount (t : Residency → Bool) (s : State) : Nat :=
  s.sched.residencies.foldl (fun a e => if t e.2 then a + e.2.benches.length else a) 0

def tenantBenches (t : Option Nat) (s : State) : Nat := benchCount (fun r => s.tenantOf r.ctx == t) s
def rtBenches (s : State) : Nat := benchCount (fun r => ctxCls s r.ctx == .rt) s

/-- Quota of a job's tenant (R270). -/
def quotaOf (j : Job) (s : State) : Nat := ((tenantRec s j.ctx).map (·.benchQuota)).getD 0

/-- A shed level lets the job be placed (R284). -/
def shedAllows (j : Job) (s : State) : Bool :=
  decide (s.power.level < 4) || (decide (s.power.level < 6) && (ctxCls s j.ctx == .rt))

/-- R270, R277 and R284 let the job be placed. -/
def mayPlace (j : Job) (s : State) : Bool :=
  shedAllows j s && decide (tenantBenches (s.tenantOf j.ctx) s + j.count ≤ quotaOf j s) &&
  ((ctxCls s j.ctx != .rt) || decide (rtBenches s + j.count ≤ min s.sched.rtBenchMax (4 * s.integ.slices)))

/-- Claims of a job are withdrawn (R273). -/
def withdrawClaims (id : Nat) (s : State) : State :=
  setBenches (allBenches s) (fun x =>
    if x.claim = some id then
      { x with claim := none, state := if x.state = .claimed then .free else x.state } else x) s

/-- A run of a graph residency's shape from its context waits for benches (R264). -/
def readyGraph (x : Residency) (s : State) : Bool :=
  s.sched.jobs.any (fun e => (e.2.ctx == x.ctx) && (e.2.owner == .graph) && (e.2.count == x.count))

/-- Graph residencies that run nothing are ready, or blocked from the moment they became so (R264). -/
def settleReady (s : State) : State :=
  { s with sched := { s.sched with residencies := tmapv s.sched.residencies (fun _ x =>
      if x.owner = .graph ∧ x.running = false then
        { x with blockedAt := if readyGraph x s then none else some (x.blockedAt.getD s.now) }
      else x) } }

/-- A job stops waiting; its context may leave the set (R268). -/
def dropJob (id : Nat) (s : State) : State :=
  let s := withdrawClaims id s
  settleReady (updateGvt { s with sched := { s.sched with jobs := tdel s.sched.jobs id } })

/-- The residency of a loop. -/
def loopRes (l : Nat) (s : State) : Option (Nat × Residency) := s.sched.residencies.find? (fun e => e.2.owner == .loop l)

/-- The launch of an OP_LAUNCH_GRAPH: what it carries is kept with the command (R167). The Watch window, graph and
arguments are resolved by the command's entry. -/
def graphLaunch (k pos r : Nat) (args : List (Option ArgBind)) (s : State) : Option Launch :=
  (s.cmd k pos).map (fun c =>
    { ctx := k / 256, tag := eTag c.entry, step := 0, loopId := none, cmd := some (k, pos),
      gkey := (c.bound.map (·.1)).getD 0, ver := (c.bound.map (·.2)).getD 0, ordinal := 0, parts := [], benches := [],
      batch := 0, args := args, windowUs := fld c.entry 36 4, res := r })

/-- What an argument handle is bound to at launch (R154, R167). -/
def bindArg (c h : Nat) (s : State) : Option ArgBind :=
  if h = 0 then none else
  match tget s.objects (objKey c (hIndex h)) with
  | none => none
  | some o =>
    match o.body with
    | .mem m => some { memKey := objKey c (hIndex h), mem := m, byteOffset := 0 }
    | .tensor t =>
      match (tget s.objects t.memKey).map Obj.body with
      | some (ObjBody.mem m) => some { memKey := t.memKey, mem := m, byteOffset := t.byteOffset }
      | _ => none
    | _ => none

/-- The run of an OP_LAUNCH_GRAPH starts on a residency (R262). -/
def launchGraph (k pos r : Nat) (s : State) : State :=
  match tget s.sched.residencies r, s.cmd k pos with
  | some x, some c =>
    match graphLaunch k pos r (c.args.map (fun h => bindArg (k / 256) h s)) s with
    | some l =>
      let sts := launchStreams x.benches s
      sendLaunch l x.benches (s.modRes r (fun x => { x.launched sts with cmd := some (k, pos) }))
    | none => s
  | _, _ => s

/-- The PLACE record of a loop's placement (R392), for the loop's next step. -/
def journalPlace (o : Owner) (bs : List Nat) (s : State) : State :=
  match o with
  | .graph => s
  | .loop l =>
    match tget s.trestle.loops l with
    | none => s
    | some lp =>
      let ps := partsOf bs
      let head := le 2 bs.length ++ le 2 ps.length ++ le 2 (bs.headD 0) ++ zeros 2
      let cs := chunks 28 ps.length (ps.map (le 1))
      (cs.zipIdx).foldl (fun s e => journal l 0x08 lp.tag (lp.step + 1) e.2 e.1.length (head ++ e.1.flatten) s) s

/-! ### Clock requests (R447) -/

def State.modPower (s : State) (f : Power → Power) : State := { s with power := f s.power }

def vfAt (p : Nat) (s : State) : Vf := tgetD s.power.vf p (Vf.reset s.integ.fmax)

def State.modVf (s : State) (p : Nat) (f : Vf → Vf) : State :=
  s.modPower (fun w => { w with vf := tmod w.vf p (Vf.reset s.integ.fmax) f })

/-- The Limiter cap of a partition. -/
def capOf (p : Nat) (s : State) : Nat := if 5 ≤ s.power.tempDemand then s.power.floorCode else (vfAt p s).cap

/-- An RT residency holds a bench of the partition. -/
def holdsRt (p : Nat) (s : State) : Bool :=
  s.sched.residencies.any (fun e => (ctxCls s e.2.ctx == .rt) && e.2.benches.any (fun b => b / 4 == p))

/-- The code a partition requests. -/
def wantedCode (p : Nat) (s : State) : Nat :=
  let base := if 5 ≤ s.power.level ∧ holdsRt p s = false then s.power.floorCode else s.power.targetCode
  min base (min s.integ.fmax (capOf p s))

/-- A request goes out when it differs from the one held (R478). A request that no longer lowers the code ends its S6
demand (R448). -/
def requestCode (s : State) (p : Nat) : State :=
  let c := wantedCode p s
  if c = (vfAt p s).requested then s
  else emit (.vfReq p c)
    (s.modVf p (fun v => { v with requested := c, since := s.now, late := v.late && decide (c < v.granted) }))

/-- Every partition's request follows what it depends on (R447). -/
def requestCodes (s : State) : State := (List.range s.integ.slices).foldl requestCode s

/-- A residency has come to or left benches: the requests of their partitions follow at S5 and S6 (R447). -/
def requestParts (bs : List Nat) (s : State) : State := if s.power.level < 5 then s else (partsOf bs).foldl requestCode s

/-- A job is placed on benches (R271): a saved loop is restored, another finds its benches HELD; a graph run starts. -/
def placeJob (id : Nat) (j : Job) (bs : List Nat) (s : State) : State :=
  let s := dropJob id s
  let saved := match j.owner with | .loop l => loopRes l s | .graph => none
  match saved with
  | some (r, x) =>
    if x.saved then
      let s := s.modRes r (fun x => { x with benches := bs, moving := true, placedAt := s.now, blockedAt := none })
      let s := setBenches bs (fun _ => { state := .restoring, res := some r, claim := none }) s
      journalPlace j.owner bs (trace 10 0 j.ctx 0 r (requestParts bs s))
    else s
  | none =>
    let r := s.sched.nextRes
    let x : Residency := { ctx := j.ctx, owner := j.owner, count := j.count, benches := bs, running := false, cmd := j.cmd,
                           blockedAt := none, placedAt := s.now, saveFrames := [], saved := false, moving := false, streams := [],
                           regs := [] }
    let s := { s with sched := { s.sched with nextRes := r + 1, residencies := tset s.sched.residencies r x } }
    let s := setBenches bs (fun _ => { state := .held, res := some r, claim := none }) s
    let s := journalPlace j.owner bs (trace 10 0 j.ctx 0 r (requestParts bs s))
    match j.cmd with
    | some (k, pos) => launchGraph k pos r s
    | none => s

/-! ### Vacating (R273 to R279) -/

/-- Minimum slice of a class in time base counts (R274). -/
def minSlice (s : State) : Cls → Nat
  | .int => s.sched.minInt * Config.us
  | _ => s.sched.minBat * Config.us

/-- A residency is vacatable for a job (R274). -/
def vacatable (r : Residency) (h : Job) (s : State) : Bool :=
  let rc := ctxCls s r.ctx
  let hc := ctxCls s h.ctx
  if rc = .rt ∨ r.moving = true ∨ r.saved = true ∨ r.benches = [] ∨ (r.owner = h.owner ∧ h.owner ≠ .graph) then false
  else match r.blockedAt with
    | some t => decide (s.sched.evictAfter * Config.us ≤ s.now - t)
    | none =>
      if ctxSwap s r.ctx ∧ r.owner ≠ .graph ∧ hc ≠ .rt then true
      else if hc = .rt then true
      else
        let held := decide (minSlice s rc ≤ s.now - r.placedAt)
        if ctxSwap s h.ctx then held else held && below64 (passOf s h.ctx) (passOf s r.ctx)

/-- Order in which victims are taken (R275 item 3). -/
def victimBefore (s : State) (a b : Nat × Residency) : Bool :=
  match a.2.blockedAt, b.2.blockedAt with
  | some x, some y => if x ≠ y then decide (x < y) else below64 (passOf s b.2.ctx) (passOf s a.2.ctx)
  | some _, none => true
  | none, some _ => false
  | none, none =>
    let pa := passOf s a.2.ctx
    let pb := passOf s b.2.ctx
    if pa ≠ pb then below64 pb pa else decide (b.2.ctx < a.2.ctx)

/-- Victims taken in order until n benches more are freed (R275). -/
def takeVictims : Nat → List (Nat × Residency) → List (Nat × Residency)
  | _, [] => []
  | n, v :: t => if n = 0 then [] else v :: takeVictims (n - v.2.benches.length) t

/-- A bench claimed for another job. -/
def claimedElse (id : Nat) (s : State) (b : Nat) : Bool :=
  match (benchAt b s).claim with
  | some x => x != id
  | none => false

/-- The target of a claimant (R275): the free benches claimed and the victims; skip: residencies whose save was abandoned
(R282). -/
def targetOf (id : Nat) (h : Job) (skip : List Nat) (s : State) : Option (List Nat × List (Nat × Residency)) :=
  let n := s.integ.slices
  let cands := sortBy (victimBefore s) (s.sched.residencies.filter (fun e =>
    vacatable e.2 h s && !skip.contains e.1 && e.2.benches.all (fun b => !claimedElse id s b)))
  if h.count ≤ 4 then
    (List.range n).findSome? (fun p =>
      let free := (partBenches p).filter (freeFor id s)
      let vs := takeVictims (h.count - free.length) (cands.filter (fun e => e.2.benches.all (fun b => b / 4 == p)))
      let got := vs.foldl (fun a v => a + v.2.benches.length) free.length
      if usable p h s && decide (h.count ≤ got) then some (free, vs) else none)
  else
    let m := h.count / 4
    (List.range (n + 1 - m)).findSome? (fun p =>
      let ps := (List.range m).map (· + p)
      let bs := (ps.map partBenches).flatten
      let vs := cands.filter (fun e => e.2.benches.any (fun b => bs.contains b))
      let covered := (vs.map (fun v => v.2.benches)).flatten
      if ps.all (fun x => usable x h s) && bs.all (fun b => freeFor id s b || covered.contains b)
      then some (bs.filter (freeFor id s), vs) else none)

/-- Frames a save of a residency takes (R279). -/
def saveCount (n : Nat) (s : State) : Nat := n * (7 * 2 ^ 20 / pageBytes s)

/-- A residency vacated is counted (R288). -/
def countVacate (s : State) : State := { s with sched := { s.sched with vacates := satInc 32 s.sched.vacates } }

/-- Benches begin to be cleared, with the key of the residency's tenant (R280, R473, R477). -/
def startClear (c : Nat) (bs : List Nat) (s : State) : State := emitAll (bs.map (fun b => .clear b (s.keyOf (some c)))) s

/-- A residency is released and its benches cleared (R279). -/
def releaseRes (r : Nat) (s : State) : State :=
  match tget s.sched.residencies r with
  | none => s
  | some x =>
    let s := startClear x.ctx (x.benches.filter (fun b => (benchAt b s).state != .out)) s
    let s := setBenches x.benches (fun b => if b.state = .out then { b with res := none } else { b with state := .clearing, res := none }) s
    let s := { s with sched := { s.sched with residencies := tdel s.sched.residencies r } }
    updateGvt (trace 10 0 x.ctx 0 r (requestParts x.benches s))

/-- Save frames of a context that no residency of it uses (R260). -/
def idleSave (c : Nat) (s : State) : List Nat :=
  let all := ((tget s.contexts c).map (fun x => x.saveFrames)).getD []
  let used := (s.sched.residencies.map (fun e => if e.2.ctx = c then e.2.saveFrames else [])).flatten
  all.filter (fun f => !used.contains f)

/-- The frames of a save of benches for a context: those a swap_mode context keeps first, then new ones, which such a context
keeps from then on (R260, R279); none where too few can be taken. -/
def saveInto (c : Nat) (benches : List Nat) (s : State) : Option (List Nat × State) :=
  let ps := (partsOf benches).map (fun p => (p, saveCount (inPart p benches).length s))
  let own := (idleSave c s).take (saveCount benches.length s)
  let ask := ((ps.foldl (fun (a : List (Nat × Nat) × Nat) e => (a.1 ++ [(e.1, e.2 - a.2)], a.2 - e.2)) ([], own.length)).1)
  match pickSave ask s with
  | none => none
  | some fs =>
    let s := takeSave (s.tenantOf c) fs s
    some (own ++ fs, if ctxSwap s c then { s with contexts := tupd s.contexts c (fun x => { x with saveFrames := x.saveFrames ++ fs }) } else s)

/-- The save of a loop residency begins (R279): the scratch storage lands later, and the residency holds the stream registers; unless
too few save frames can be taken (R282). -/
def saveRes (r : Nat) (s : State) : Option State :=
  match tget s.sched.residencies r with
  | none => none
  | some x =>
    match saveInto x.ctx x.benches s with
    | none => none
    | some (fs, s) =>
      some (trace 10 0 x.ctx 0 r (countVacate (setBenches x.benches (fun b => { b with state := .saving })
        (s.modRes r (fun x => { x with saveFrames := fs, moving := true })))))

/-- Save frames of a residency are given up: those of a swap_mode context stay with the context (R260, R279). -/
def dropSave (x : Residency) (s : State) : State := if ctxSwap s x.ctx then s else freeFrames x.saveFrames s

/-- A residency that may be vacated at once is vacated: a loop's is saved, a graph's released; none where the save is
abandoned (R282). -/
def vacateRes (r : Nat) (s : State) : Option State :=
  match tget s.sched.residencies r with
  | none => none
  | some x =>
    match x.owner with
    | .loop _ => saveRes r s
    | .graph => some (releaseRes r (countVacate s))

/-- A residency is at a point where it may change hands now: it is blocked, or at its boundary (R264, R274). -/
def givesNow (here : Option Nat) (r : Nat) (x : Residency) : Bool := !x.running && (x.blockedAt.isSome || here == some r)

/-- The victims of a claimant that may go now are vacated, in order; the first whose save is abandoned is named (R282). -/
def vacateAll (here : Option Nat) : List (Nat × Residency) → State → Except (Nat × State) State
  | [], s => .ok s
  | v :: t, s =>
    if givesNow here v.1 v.2 then
      match vacateRes v.1 s with
      | some u => vacateAll here t u
      | none => .error (v.1, s)
    else vacateAll here t s

/-- A claimant claims its target (R273, R274). -/
def claimTarget (id : Nat) (free : List Nat) (vs : List (Nat × Residency)) (s : State) : State :=
  let s := setBenches free (fun b => { b with state := .claimed, claim := some id }) s
  vs.foldl (fun s v => setBenches v.2.benches (fun b => { b with claim := some id }) s) s

/-- A job claims a target, vacating what may go now; where a save is abandoned it tries the next victim and then the next
target (R273, R275, R282). none: it has no target. -/
def claimFor (here : Option Nat) (id : Nat) (h : Job) : Nat → List Nat → State → Option State
  | 0, _, _ => none
  | n + 1, skip, s =>
    match targetOf id h skip s with
    | none => none
    | some (free, vs) =>
      match vacateAll here vs (claimTarget id free vs s) with
      | .ok t => some t
      | .error (r, t) => claimFor here id h n (r :: skip) (withdrawClaims id t)

/-- The context of an RT graph residency has had no accepted OP_LAUNCH_GRAPH for evict_after_us (R277). -/
def rtExpired (x : Residency) (s : State) : Bool :=
  (x.owner == .graph) && (ctxCls s x.ctx == .rt) &&
    (match tget s.contexts x.ctx with
     | some c => decide (s.sched.evictAfter * Config.us ≤ s.now - c.launchAt)
     | none => true)

/-- The residency's benches are claimed for a waiting job (R274: it vacates at its boundary, a graph residency as its run retires). -/
def claimedRes (x : Residency) (s : State) : Bool := x.benches.any (fun b => (benchAt b s).claim.isSome)

/-- The residency has benches in a partition that stage 2 resets (R362 step 2, R363). -/
def underReset (x : Residency) (s : State) : Bool :=
  s.watch.stages.any (fun g => (g.stage == 2) && x.benches.any (fun b => b / 4 == g.unit))

/-- The idle graph residency that the next run of a context and shape uses (R262), claimed or not: a claim takes effect as its run
retires (R264, R274). -/
def idleGraph (j : Job) (s : State) : Option Nat :=
  if j.owner = .graph then
    (s.sched.residencies.find? (fun e => (e.2.ctx == j.ctx) && (e.2.owner == .graph) && (e.2.count == j.count) &&
      !e.2.running && e.2.cmd.isNone && streamsReady e.2.benches s && e.2.benches.all (fun b => (benchAt b s).state == .held))).map (·.1)
  else none

/-- One pass over the waiting jobs in order (R273, R276): a run takes its context's idle residency; each that fits is
placed; the first that does not and has a target claims it. here: the residency at its boundary. -/
def passJobs (here : Option Nat) : List (Nat × Job) → Bool → State → State
  | [], _, s => s
  | (id, j) :: t, claimed, s =>
    match (if shedAllows j s then idleGraph j s else none), j.cmd with
    | some r, some (k, pos) => passJobs here t claimed (launchGraph k pos r (dropJob id s))
    | _, _ =>
    match (if mayPlace j s then firstFit id j s else none) with
    | some bs => passJobs here t claimed (placeJob id j bs s)
    | none =>
      if claimed || !shedAllows j s then passJobs here t claimed s
      else if (allBenches s).any (fun b => (benchAt b s).claim == some id) then passJobs here t true s
      else match claimFor here id j (s.sched.residencies.length + 1) [] s with
        | some u => passJobs here t true u
        | none => passJobs here t claimed s

/-- A decision pass (R276) with a residency at its boundary. Claims of jobs that the shed level keeps from placement are
withdrawn first (R273, R284). During a compute reset nothing is placed (R366). -/
def passAt (here : Option Nat) (s : State) : State :=
  if !s.watch.hubReady then updateGvt s else
  let s := s.sched.jobs.foldl (fun s e => if shedAllows e.2 s then s else withdrawClaims e.1 s) s
  bump 4 (updateGvt (passJobs here (jobOrder s) false s))

/-- A decision pass (R276). -/
def decisionPass (s : State) : State := passAt none s

/-- The save of a claimed residency has been abandoned: its claimant tries the next victim, then the next target (R282). -/
def tryNext (r : Nat) (s : State) : State :=
  match ((tget s.sched.residencies r).bind (fun x => x.benches.findSome? (fun b => (benchAt b s).claim))) with
  | none => s
  | some id =>
    match tget s.sched.jobs id with
    | none => s
    | some h => (claimFor none id h (s.sched.residencies.length + 1) [r] (withdrawClaims id s)).getD (withdrawClaims id s)

/-- Jobs stop waiting; a decision pass follows where any did (R276). -/
def dropJobs (t : Job → Bool) (s : State) : State :=
  match s.sched.jobs.filter (fun e => t e.2) with
  | [] => s
  | l => decisionPass (l.foldl (fun s e => dropJob e.1 s) s)

/-- A job begins waiting (R261, R268). -/
def addJob (j : Job) (s : State) : State :=
  let s := joinSet j.ctx s
  let id := s.sched.nextJob
  settleReady { s with sched := { s.sched with nextJob := id + 1, jobs := tset s.sched.jobs id j } }

/-- The waiting job of a loop. -/
def loopJob (l : Nat) (s : State) : Option Nat := (s.sched.jobs.find? (fun e => e.2.owner == .loop l)).map (·.1)

/-- The waiting job of an OP_LAUNCH_GRAPH. -/
def cmdJob (k pos : Nat) (s : State) : Option Nat := (s.sched.jobs.find? (fun e => e.2.cmd == some (k, pos))).map (·.1)


end Sys2Proof.Machine
end

