-- ==== Sys2Proof/Machine/TearOps.lean ====
section
/-! DEFINITION. Shared operations of Trestle and Watch: Batch Records (R211 to R213), the end of a sequence (R187), the
close of a loop (R199), fault records and Hutch records of a context (R358, R373), teardown (R37), stages (R359 to
R369). -/

namespace Sys2Proof.Machine

/-! ### Batch Records -/

/-- Slot size of a loop's Batch Record area (R211). -/
def slotSize (p : LoopParams) : Nat := roundUp (256 + 72 * p.maxSeqs + 4 * p.maxTokens) 4096

/-- Where the Batch Record of a step lies (R211, R492). -/
def batchLoc (lp : Loop) (step : Nat) (s : State) : Loc :=
  { space := .fast, addr := s.wrd.hkBase + Config.batchPoolOffset + lp.batchOff + (step % 2) * lp.slotBytes }

/-- page_root of a sequence (R227). -/
def pageRoot (q : Seq) : Nat := q.root.getD 0xFFFFFFFF

/-- The tokens of an entry (R213): the last sampled token for decode, a chunk of the prompt for prefill. -/
def entryTokens (e : BEntry) (q : Seq) (s : State) : List Byte :=
  if e.phase = 2 then le 4 q.lastToken
  else memRead (q.promptLoc.plus (4 * q.promptDone)) (4 * e.stepTokens) s

/-- The 64 bytes of a Batch Record entry (R213). -/
def entryBytes (e : BEntry) (q : Seq) (idx : Nat) : List Byte :=
  le 4 q.seqId ++ le 1 e.phase ++ le 1 (b2n e.sample + 2 * b2n e.cow) ++ zeros 2 ++ le 4 e.kvTokens ++ le 4 e.stepTokens ++
  le 4 idx ++ le 4 (pageRoot q) ++ le 8 q.adm.seed.toNat ++
  le 4 (if e.sample then q.adm.firstCounter + q.produced else 0) ++ le 4 q.adm.temperature ++ le 4 q.adm.topP ++
  le 2 q.adm.topK ++ zeros 18

/-- Entries with their sequences and token indices. -/
def batchRows (es : List BEntry) (s : State) : List (BEntry × Seq × Nat) :=
  (es.foldl (fun (a : List (BEntry × Seq × Nat) × Nat) e =>
    match tget s.trestle.seqs e.seqIdx with
    | some q => (a.1 ++ [(e, q, a.2)], a.2 + e.stepTokens)
    | none => a) ([], 0)).1

def tokenCount (es : List BEntry) : Nat := es.foldl (fun a e => a + e.stepTokens) 0

/-- The Batch Record of a loop's next step (R212 to R214), its results zero. -/
def batchBytes (l : Nat) (lp : Loop) (shed : Nat) (s : State) : List Byte :=
  let rows := batchRows lp.entries s
  let smax := lp.params.maxSeqs
  let res := 256 + 64 * smax
  let head := le 1 2 ++ le 1 (b2n (ctxCls s lp.ctx == .rt) + 2 * b2n lp.replay.isSome) ++ le 2 l ++ le 2 lp.ctx ++
    le 2 lp.tenant ++ le 8 (lp.step + 1) ++ le 4 rows.length ++ le 4 (tokenCount lp.entries) ++ le 4 lp.params.tokensPerPage ++
    le 1 shed ++ zeros 3 ++ le 4 256 ++ le 4 res ++ le 4 (res + 8 * smax) ++ le 4 lp.slotBytes ++ zeros 208
  let ents := (rows.map (fun r => entryBytes r.1 r.2.1 r.2.2)).flatten
  let toks := (rows.map (fun r => entryTokens r.1 r.2.1 s)).flatten
  padTo res (head ++ ents) ++ zeros (8 * smax) ++ toks

/-- The Batch Record of the next step is written (R15). -/
def writeBatch (l : Nat) (s : State) : State :=
  match tget s.trestle.loops l with
  | none => s
  | some lp => portWrite none .hub (batchLoc lp (lp.step + 1) s) (batchBytes l lp lp.sampled.shed s) s

/-! ### Journal ring (R389, R390) -/

/-- The ring has room for record k (R390). -/
def Jnl.room (j : Jnl) (k : Nat) : Bool := decide (lag 64 k j.consumed < 2 ^ j.log2)

/-- The oldest waiting record of a Journal is written to the slot of its jseq, then produced, which covers it (R389, R390); its cell
is then free. -/
def journalPut (ctx : Nat) (j : Jnl) (s : State) : Jnl × State :=
  match j.waiting with
  | [] => (j, s)
  | (_, r) :: t =>
    let k := fld r 8 8
    if j.room k then
      let s := locWrite (some ctx) (j.base.plus (64 + (k % 2 ^ j.log2) * 64)) r s
      let s := locWrite (some ctx) j.base (le 8 (k + 1)) s
      ({ j with produced := k + 1, written := j.written + 1, waiting := t }, bump 6 (dropItem 5 j.cells k s))
    else (j, s)

/-- The oldest waiting record of an open loop is written. -/
def journalOne (l : Nat) (s : State) : State :=
  match tget s.trestle.loops l with
  | none => s
  | some lp =>
    match lp.jnl with
    | none => s
    | some j =>
      let p := journalPut lp.ctx j s
      p.2.modLoop l (fun lp => { lp with jnl := some p.1 })

/-- The memory object of a key. -/
def memOfKey (key : Nat) (s : State) : Option MemObj :=
  match (tget s.objects key).map Obj.body with
  | some (ObjBody.mem m) => some m
  | _ => none

/-- The ring lies inside an object that grants the write right (R389). -/
def jnlInside (j : Jnl) (s : State) : Bool :=
  match memOfKey j.obj s with
  | some o => o.write && decide (j.base.addr - o.addr + 64 + 64 * 2 ^ j.log2 ≤ o.size)
  | none => false

/-- Waiting records are written while the ring has room. -/
def journalDrain (l : Nat) : Nat → State → State
  | 0, s => s
  | n + 1, s => journalDrain l n (journalOne l s)

/-! ### Sequences -/

/-- OP_LOOP_CANCEL commands that awaited a sequence: with none left they complete (R205). -/
def seqEnded (seqId : Nat) (s : State) : State :=
  s.modQueues (fun t => tmapv t (fun _ q => { q with cmds := q.cmds.map (fun c =>
    if c.awaits.contains seqId then
      let a := c.awaits.filter (· != seqId)
      if a.isEmpty then { c.take .ok 0 with awaits := [], running := false } else { c with awaits := a }
    else c) }))

/-- The end record of a sequence (R210). -/
def endRecord (q : Seq) (st : Status) (reason stop : Nat) (now : Nat) : List Byte :=
  le 1 2 ++ le 1 st.code ++ le 1 reason ++ le 1 stop ++ le 4 q.admitTag ++ le 4 q.seqId ++ le 4 q.produced ++
  le 8 q.adm.seed.toNat ++ le 8 q.admitStep ++ le 8 q.lastStep ++ le 8 now ++
  le 4 ((q.adm.firstCounter + q.produced) % 2 ^ 32) ++ le 4 q.promptDone ++ zeros 8

/-- A sequence that does not run. -/
def Seq.parked (q : Seq) : Bool :=
  match q.state with
  | .waiting => true
  | .preempted => true
  | _ => false

/-- The record of a sequence is freed (R58, R187): its index joins the free ones. -/
def freeSeq (i : Nat) (s : State) : State :=
  { s with trestle := { s.trestle with seqs := tdel s.trestle.seqs i, freed := s.trestle.freed ++ [i] } }

/-- References of a sequence (R54): the prompt's is 0 once its prefill has completed. -/
def Seq.refs (q : Seq) : List Nat := [q.promptKey, q.outKey, q.fenceKey].filter (· != 0)

/-- A sequence ends without end record or fence rise (R37, R199). -/
def dropSeq (i : Nat) (s : State) : State :=
  match tget s.trestle.seqs i with
  | none => s
  | some q => seqEnded q.seqId (freeSeq i (unrefAll q.refs (freePages i s)))

/-- A loop whose record is written but not launched loses an entry, and the record is written again (log 12). -/
def dropEntry (l i : Nat) (s : State) : State :=
  match tget s.trestle.loops l with
  | none => s
  | some lp =>
    if lp.phase = .recorded ∧ lp.entries.any (fun e => e.seqIdx == i) = true then
      let es := lp.entries.filter (fun e => e.seqIdx != i)
      let s := s.modLoop l (fun lp => { lp with entries := es, phase := if es.isEmpty then .idle else .recorded })
      if es.isEmpty then s else writeBatch l s
    else s

/-- Sequences of a loop. -/
def loopSeqs (l : Nat) (s : State) : Tab Seq := s.trestle.seqs.filter (fun e => e.2.loopId == l)

/-- A sequence ends (R187): pages returned, end record, fence, references, record; a RETIRE record where it has run
(R392). The end record and the fence of a replay are delivered only from first_step onward (R397). -/
def endSeq (i : Nat) (st : Status) (reason stop : Nat) (s : State) : State :=
  match tget s.trestle.seqs i with
  | none => s
  | some q =>
    let lp := tget s.trestle.loops q.loopId
    let quiet : Bool := match lp.bind (·.replay) with
      | some r => decide ((lp.map (·.step)).getD 0 < r.first)
      | none => false
    let s := freePages i s
    let s := if quiet then s else locWrite (some q.ctx) q.outLoc (endRecord q st reason stop s.now) s
    let s := if quiet then s else signalFence q.ctx q.admitTag { q.fence with value := 2 ^ 63 + q.produced } s
    let s := if q.admitStep = 0 then s
      else journal q.loopId 0x04 q.admitTag ((lp.map (·.step)).getD 0 + 1) 0 1
        (le 4 q.seqId ++ le 1 st.code ++ le 1 reason ++ le 1 stop ++ [0]) s
    let s := s.modLoop q.loopId (fun lp => { lp with stats := { lp.stats with
        ended := lp.stats.ended.modify (reason - 1) (· + 1) } })
    let s := unrefAll q.refs s
    let s := seqEnded q.seqId (freeSeq i s)
    dropEntry q.loopId i s

/-! ### Loops -/

/-- Counters of a loop at OP_LOOP_OPEN (R219, R240, R402). -/
def LoopStats.zero : LoopStats :=
  { steps := 0, deadlineMisses := 0, ended := List.replicate 8 0, suffered := 0, inflicted := 0, stage5Stops := 0,
    lossy := List.replicate 5 0, native := 0, gated := 0, promoted := 0, lost := 0, mseSum := [], mseMax := 0 }

/-- A model is in use (R255): pinned, or named by an open loop of its tenant. -/
def modelInUse (m : Model) (s : State) : Bool :=
  decide (0 < m.pins) || s.trestle.loops.any (fun e => (e.2.tenant == m.tenant) && (e.2.params.modelKey == m.key))

/-- The jobs that fill a model. -/
def MoveKind.fills (id : Nat) : MoveKind → Bool
  | .model k .. => k == id
  | _ => false

/-- A model's entry goes (R257): what fills it is told to stop, its frames are freed, its reference is dropped. -/
def removeModel (id : Nat) (s : State) : State :=
  match tget s.wrd.models id with
  | none => s
  | some m =>
    let s := stopJobs (MoveKind.fills id) s
    unref m.srcKey (freeFrames m.frames { s with wrd := { s.wrd with models := tdel s.wrd.models id } })

/-- A model is removed where R257 says so: its source is FREE_PENDING or the context that loaded it is torn down, it is not in
use, and no command waits for it. -/
def reapModel (id : Nat) (s : State) : State :=
  match tget s.wrd.models id with
  | none => s
  | some m =>
    let pend := match tget s.objects m.srcKey with | some o => o.freePending | none => true
    if (pend || m.orphan) && !modelInUse m s && m.waiters.isEmpty then removeModel id s else s

def reapModels (s : State) : State := s.wrd.models.foldl (fun s e => reapModel e.1 s) s

/-- A loop's job ends (R261): it waits no longer, and its residency is released with its save frames (R260, R279). -/
def dropLoopRes (l : Nat) (s : State) : State :=
  let s := dropJobs (fun j => j.owner == .loop l) s
  match loopRes l s with
  | some (r, x) => releaseRes r (dropSave x s)
  | none => s

/-- The Journal of a loop that is closed: waiting records go out while the ring has room. Those that do not wait on while the context
is ACTIVE (log 13), and the ring's object keeps its reference until they are written. -/
def leaveJournal (l : Nat) (s : State) : State :=
  let due (j : Jnl) : Nat := j.waiting.length
  let s := match (tget s.trestle.loops l).bind (·.jnl) with
    | some j => if jnlInside j s then journalDrain l (due j) s else s
    | none => s
  match tget s.trestle.loops l with
  | none => s
  | some lp =>
    match lp.jnl with
    | none => s
    | some j =>
      if j.waiting.isEmpty || !s.isActive lp.ctx then dropQueue 5 j.cells s
      else addRef j.obj { s with trestle := { s.trestle with
        jnlLeft := s.trestle.jnlLeft ++ [{ loop := l, ctx := lp.ctx, tag := lp.tag, jnl := j }] } }

/-- The Journals of closed loops of a context are given up (R37). -/
def dropLeft (c : Nat) (s : State) : State :=
  let mine := s.trestle.jnlLeft.filter (fun x => x.ctx == c)
  mine.foldl (fun s x => unref x.jnl.obj (dropQueue 5 x.jnl.cells s))
    { s with trestle := { s.trestle with jnlLeft := s.trestle.jnlLeft.filter (fun x => x.ctx != c) } }

/-- The result word of a replay (R396). -/
def replayWord (kind step : Nat) : List Byte := le 8 (kind * 2 ^ 56 + step % 2 ^ 56)

/-- The result word of a replay that ends, with its command whatever its status (R396). -/
def replayResult (lp : Loop) (s : State) : State :=
  match lp.replay with
  | none => s
  | some r =>
    addResult (qkey lp.ctx r.queue) r.pos r.result
      (match r.diverged with
       | some (kind, step, _) => replayWord kind step
       | none => replayWord 0 lp.step) s

/-- A loop becomes CLOSED (R199): waiting records go out while the ring has room, a replay leaves its result word, its area, version,
pins and benches are given up, the OP_LOOP_CLOSE that closed it completes. -/
def closeLoop (l : Nat) (s : State) : State :=
  match tget s.trestle.loops l with
  | none => s
  | some lp =>
    let s := dropQueue 5 l (dropLoopRes l (leaveJournal l s))
    let s := replayResult lp { s with trestle := { s.trestle with loops := tdel s.trestle.loops l } }
    let s := unbind lp.gkey lp.ver s
    let s := unrefAll lp.pins s
    let s := match lp.closer with
      | some (k, pos) => finishOk k pos s
      | none => s
    reapModels s

/-- A DRAINING loop with no sequence and no step running becomes CLOSED (R199). -/
def closeIfDone (l : Nat) (s : State) : State :=
  match tget s.trestle.loops l with
  | none => s
  | some lp =>
    if lp.draining && (loopSeqs l s).isEmpty && (lp.phase != .running) then closeLoop l s else s

/-! ### Fault records and Hutch records of a context -/

/-- A fault with nothing said (R358). -/
def FaultInfo.of (st : Status) (aux now : Nat) : FaultInfo :=
  { status := st, aux := aux, tag := 0, queue := 0xFFFF, loopId := 0xFFFF, seq := 0, step := 0, address := 0, time := now,
    hutchSeq := 0, graph := 0, version := 0, cycle := 0, textOffset := 0, core := 0, destClass := 0, partition := 0xFF,
    stream := 0xFF, benchMask := 0, flags := 0, stage := 1 }

/-- The fault record (R358). -/
def FaultInfo.bytes (f : FaultInfo) : List Byte :=
  le 1 2 ++ le 1 f.status.code ++ le 1 f.flags ++ le 1 f.stage ++ le 4 f.aux ++ le 4 f.tag ++ le 2 f.queue ++
  le 2 f.loopId ++ le 8 f.seq ++ le 8 f.step ++ le 8 f.address ++ le 8 f.time ++ le 4 f.hutchSeq ++ le 4 f.graph ++
  le 4 f.version ++ le 4 f.cycle ++ le 4 f.textOffset ++ le 2 f.core ++ le 1 f.destClass ++ le 1 f.partition ++
  le 1 f.stream ++ le 1 f.benchMask ++ zeros 54

/-- What a fault record says of the launch of a stream. -/
def FaultInfo.ofStream (f : FaultInfo) (p st : Nat) (x : Stream) (s : State) : FaultInfo :=
  match x.launch with
  | none => { f with partition := p, stream := st }
  | some l =>
    let gh := match tget s.objects l.gkey with
      | some o => 2 ^ 31 + o.tag * 2 ^ 20 + l.gkey % 2 ^ 20
      | none => 2 ^ 31 + l.gkey % 2 ^ 20
    let f := { f with tag := l.tag, step := l.step, loopId := l.loopId.getD 0xFFFF, graph := gh, version := l.ver,
                      cycle := x.cycle, textOffset := x.pc, partition := p, stream := st, benchMask := x.mask }
    match l.cmd with
    | some (k, pos) => { f with queue := k % 256, seq := pos + 1 }
    | none => f

/-- A queue is enabled (R67). -/
def Queue.enabled (q : Queue) : Bool := match q.state with | .stopped => false | .shutting => false | _ => true

/-- Queues of a context. -/
def ctxQueues (c : Nat) (s : State) : Tab Queue := s.front.queues.filter (fun e => e.1 / 256 == c)

/-- Unretired positions listed in a QUEUE record (R504): position, tag, latch, status. -/
def queuePositions (q : Queue) : List (List Byte) :=
  (List.range (min 64 (q.d - q.w))).map (fun i =>
    let pos := q.w + i
    let f := q.fetched.find? (fun f => f.pos == pos)
    let (tag, latch) : Nat × Option Latch := match q.cmd pos with
      | some c => (eTag c.entry, c.latch)
      | none => ((f.map (fun f => eTag f.entry)).getD 0,
          match f with
          | some f => f.latch
          | none => if q.state = .shutting then some q.shutLatch else none)
    le 8 pos ++ le 4 tag ++ le 1 (b2n latch.isSome) ++ le 1 ((latch.map (·.status.code)).getD 0) ++ zeros 2)

/-- Payload of a QUEUE record (R504). -/
def queuePayload (k : Nat) (q : Queue) : List Byte :=
  let ps := queuePositions q
  le 1 (k % 256) ++ le 1 q.state.code ++ le 1 ps.length ++ zeros 5 ++ le 8 q.d ++ le 8 q.f ++ le 8 q.w ++ ps.flatten

/-- Wait items of R403 for the unmet waits of a context's commands. -/
def waitItems (c : Nat) (all : Bool) (s : State) : List (List Byte) :=
  ((ctxQueues c s).map (fun e => (e.2.cmds.map (fun m => ((m.waits.zipIdx).filterMap (fun w =>
    if m.phase = .accepted ∧ m.latch = none ∧ (all || !w.1.met) = true then
      some (le 8 w.1.ref.va ++ le 8 w.1.ref.value ++ le 8 (s.fenceValue w.1.ref.loc w.1.ref.compact) ++
        le 8 (m.pos % 2 ^ 48 + (e.1 % 256) * 2 ^ 48 + w.2 * 2 ^ 56))
    else none)))).flatten)).flatten

/-- SLC_STREAM_STS of a stream (R180). -/
def streamSts (x : Stream) : Nat :=
  x.state.code * 2 ^ 61 + x.mask % 16 * 2 ^ 57 + x.stallCause % 8 * 2 ^ 54 + x.stallFlag % 64 * 2 ^ 48 + x.cycle % 2 ^ 32

/-- Entries of a side queue (R181). -/
def sideDepthOf (x : Stream) (e : Nat) : Nat := ((x.engines[e - 1]?).map (fun g => g.queue.length)).getD 0

/-- SLC_SIDE_DEPTH of a stream (R181). -/
def sideDepths (x : Stream) : Nat :=
  sideDepthOf x 4 * 2 ^ 24 + sideDepthOf x 3 * 2 ^ 16 + sideDepthOf x 2 * 2 ^ 8 + sideDepthOf x 1

/-- Payload of an ENGINE record (R504). -/
def enginePayload (p st : Nat) (x : Stream) : List Byte :=
  le 1 p ++ le 1 st ++ le 1 x.loops.length ++ le 1 0 ++ le 4 (sideDepths x) ++ le 8 (streamSts x) ++ le 8 x.flags.toNat ++
  padTo 32 ((x.loops.map (fun l => le 4 l.1 ++ le 4 (l.2 / 16))).flatten) ++
  (x.engines.map (fun g => le 4 (g.pc.getD 0))).flatten ++ zeros 24

/-- QUEUE, SYNC and ENGINE records of a context (R373). -/
def contextRecords (c tag : Nat) (s : State) : State :=
  let h := ctxHead s c tag
  let s1 := ((ctxQueues c s).filter (fun e => e.2.state != .stopped)).foldl (fun s e => hutchRec 0x04 h (queuePayload e.1 e.2) s) s
  let ws := waitItems c false s
  let s2 := (chunks 126 ws.length ws).foldl (fun s l => hutchRec 0x05 h (le 4 l.length ++ zeros 28 ++ l.flatten) s) s1
  (streamsOf (fun l => l.ctx == c) s).foldl (fun s e => hutchRec 0x06 { h with part := e.1 } (enginePayload e.1 e.2 (streamAt e.1 e.2 s)) s) s2

/-! ### Queue shutdown and teardown -/

/-- A command's latch is taken from outside; one that runs on an engine is stopping (R85, R94). -/
def Cmd.kill (l : Latch) (c : Cmd) : Cmd :=
  match c.latch with
  | some _ => c
  | none => { c.take l.status l.aux with stopping := c.running }

/-- The opcodes that run on an engine that confirms a stop: page movers and slices (R85). -/
def Cmd.onEngine (c : Cmd) : Bool := eOp c.entry == 0x03 || eOp c.entry == 0x04 || eOp c.entry == 0x05

/-- A command as Front hands it over. -/
def Cmd.fresh (f : Fetched) : Cmd :=
  { pos := f.pos, entry := f.entry, phase := .intake, reads := [], waits := [], signals := [], fences := [], pins := [],
    args := [], latch := f.latch, stopping := false, running := false, started := false, dispatchedAt := 0, snapshot := [],
    results := [], order := 0, acceptedAt := 0, bound := none, awaits := [] }

/-- Latches of every position of a queue are requested, fetch stops, fetched entries are withdrawn (R94). A position that was
never fetched has the latch shutLatch from now on, and F stands at D, for none is read any more (DESIGN CHOICE, log 115). -/
def Queue.shut (l : Latch) (now : Nat) (q : Queue) : Queue :=
  let late : List Cmd := q.fetched.map (fun f => { Cmd.fresh f with latch := some (f.latch.getD l) })
  { q with state := .shutting, shutLatch := l, inflight := [], fetched := [], f := q.d, shutAt := now,
           push := List.replicate 4 [],
           cmds := (q.cmds.map (fun c => { c.kill l with stopping := (c.kill l).stopping && c.onEngine })) ++ late }

/-- What outside Front and Bramble a command loses with its latch: its mover jobs and streams are told to stop, its
barrier slot becomes FREE, its bench request ends, a loop close is forgotten (R85, R94, R379). -/
def stopWork (t : Nat → Nat → Bool) (s : State) : State :=
  let s := stopJobs (fun k => match k with
    | .copy c q pos .. => t (qkey c q) pos
    | .fill c q pos .. => t (qkey c q) pos
    | _ => false) s
  let s := requestStops (streamsOf (fun l => match l.cmd with | some (k, pos) => t k pos | none => false) s) s
  let s := { s with link := { s.link with joins := s.link.joins.filter (fun e => !t (qkey e.2.ctx e.2.queue) e.2.pos) } }
  let s := dropJobs (fun j => match j.cmd with | some (k, pos) => t k pos | none => false) s
  let gone := s.power.tests.filter (fun x => !x.2.2.2.1 && t x.2.1 x.2.2.1)
  { s with wrd := { s.wrd with models := tmapv s.wrd.models (fun _ m =>
             { m with waiters := m.waiters.filter (fun w => !t (qkey w.1 w.2.1) w.2.2) }) },
           power := { s.power with tests := s.power.tests.filter (fun x => !gone.contains x) },
           sched := { s.sched with unusable := s.sched.unusable.filter (fun p => !gone.any (fun x => x.1 == p) || s.watch.stages.any (fun g => g.stage == 2 && g.unit == p)) } }

/-- A command still runs on an engine: a stream not confirmed, or a mover's job. -/
def engineBusy (k pos : Nat) (s : State) : Bool :=
  (streamsOf (fun l => l.cmd == some (k, pos)) s).any (fun e => !(streamAt e.1 e.2 s).confirmed) ||
  s.allJobs.any (fun j => j.kind.isCmdAt (k / 256) (k % 256) pos)

/-- Commands whose engines have confirmed that they have stopped no longer wait for them (R85). -/
def settleStops (s : State) : State :=
  let busy := (s.allCmds.filter (fun e => e.2.stopping && engineBusy e.1 e.2.pos s)).map (fun e => (e.1, e.2.pos))
  s.modQueues (fun t => tmapv t (fun k q => { q with cmds := q.cmds.map (fun c =>
    if c.stopping then { c with stopping := busy.contains (k, c.pos) } else c) }))

/-- The result of a queue command (R70). -/
def qResult (r : Nat) (s : State) : State := { s with front := { s.front with qBusy := false, qResult := r } }

/-- A SHUTTING queue whose every position has retired becomes STOPPED; FRT_QSTS.busy clears (R94). Reports cease in STOPPED
(R67), so those of its retirements, and a message that a fault teardown owes (R96), come first (log 95). -/
def settleQueue (k : Nat) (s : State) : State :=
  match tget s.front.queues k with
  | none => s
  | some q =>
    if q.state = .shutting ∧ q.w = q.d ∧ q.unwritten.isEmpty = true ∧ (q.urgent && q.rcd.msixEnable) = false then
      let s := s.modQ k (fun q => { q with state := .stopped })
      if s.front.qBusy && s.front.qBusyKey == k then qResult 0 s else s
    else s

/-- A queue goes through steps 1 to 3 of R94 with a latch value; one with nothing left to retire is STOPPED at once. -/
def shutQueue (k : Nat) (l : Latch) (s : State) : State :=
  match tget s.front.queues k with
  | none => s
  | some q =>
    let s := q.fetched.foldl (fun s f => dropItem 1 k f.pos s) (discardCells 0 k s)
    let free := (q.cmds.filter (fun c => c.latch.isNone || c.stopping)).map (·.pos)
    let s := (q.cmds.filter (fun c => c.latch.isNone)).foldl (fun s c => dropCmdCells k c.pos (eOp c.entry) s) s
    let s := s.modQ k (Queue.shut l s.now)
    settleQueue k (settleStops (dropShadows (stopWork (fun k' pos => k' == k && free.contains pos) s)))

/-- Saves and restores of a context are abandoned and its idle residencies cleared (R283). -/
def dropIdleRes (c : Nat) (s : State) : State :=
  s.sched.residencies.foldl (fun s e =>
    if e.2.ctx = c ∧ e.2.running = false then releaseRes e.1 (dropSave e.2 s) else s) s

/-- Releases still due are forgotten: teardown writes nothing to the object table and signals no release fence (R37). -/
def forgetReleases (c : Nat) (s : State) : State :=
  { s with objects := tmapv s.objects (fun k o => if k / 2 ^ 20 = c then { o with freePending := false, release := none } else o) }

/-- The record of a context fault and its subject's records, and the context in TEARDOWN with its cause (R36, R358,
R37). -/
def markTeardown (c : Nat) (fault : Bool) (info : FaultInfo) (headRec : Option (Nat × List Byte)) (x : Context) (s : State) :
    State :=
  let info := { info with hutchSeq := s.hutch.nextSeq }
  let s := if fault then
      let (t, p) := headRec.getD (0x01, info.bytes)
      contextRecords c info.tag (hutchRec t { ctxHead s c info.tag with stage := 1, part := info.partition } p s)
    else s
  let s := { s with contexts := tset s.contexts c { x with
      state := .teardown fault, teardownAt := s.now, cause := if fault then some info else none } }
  if fault then { s with watch := { s.watch with faultTeardowns := satInc 32 s.watch.faultTeardowns } } else s

/-- A fault teardown owes each queue with msix_enable a message, whatever the moderation (R96). -/
def oweMsix (mine : Nat → Bool) (s : State) : State :=
  s.modQueues (fun t => tmapv t (fun k q =>
    if mine k && q.rcd.msixEnable && q.state != .stopped then { q with urgent := true } else q))

/-- Everything of a context stops: its queues shut down with a latch, its streams are asked to stop, its jobs, joins and
idle residencies go (R37, R96). -/
def stopContext (c : Nat) (fault : Bool) (l : Latch) (s : State) : State :=
  let s := forgetReleases c s
  let s := if fault then oweMsix (fun k => k / 256 == c) s else s
  let s := (ctxQueues c s).foldl (fun s e => if e.2.enabled then shutQueue e.1 l s else s) s
  let s := requestStops (streamsOf (fun z => z.ctx == c) s) s
  let s := dropJobs (fun j => j.ctx == c) s
  let s := { s with link := { s.link with joins := s.link.joins.filter (fun e => e.2.ctx != c) } }
  decisionPass (dropIdleRes c s)

/-- Teardown of an ACTIVE context begins (R37, R96): records for a fault teardown, every enabled queue put through
shutdown, streams and movers stopped, residencies that do not run cleared. -/
def beginTeardown (c : Nat) (fault : Bool) (info : FaultInfo) (headRec : Option (Nat × List Byte)) (s : State) : State :=
  match tget s.contexts c with
  | none => s
  | some x =>
    if x.state ≠ .active then s
    else stopContext c fault (if fault then { status := .contextLost, aux := info.status.code } else { status := .aborted, aux := 3 })
      (markTeardown c fault info headRec x s)

/-- A command takes its free latch with a fault's status; what runs of it on an engine is stopping, and packets of it that no
consumer has begun are discarded (R85, R313). -/
def faultLatch (k pos : Nat) (st : Status) (aux : Nat) (s : State) : State :=
  dropCmdCells k pos (((s.cmd k pos).map (fun m => eOp m.entry)).getD 0)
    (s.modC k pos (fun c => { c.take st aux with stopping := c.running && c.onEngine }))

/-- A command takes its latch with a status that costs its context, and fault teardown follows where the request won
(R100, R177). -/
def faultCmd (k pos : Nat) (info : FaultInfo) (headRec : Option (Nat × List Byte)) (s : State) : State :=
  match s.cmd k pos with
  | none => s
  | some c =>
    match c.latch with
    | some _ => s
    | none => beginTeardown (k / 256) true { info with queue := k % 256, seq := pos + 1, tag := eTag c.entry } headRec
        (faultLatch k pos info.status info.aux s)

/-- A fault of a stream (R100, R174, R357): of an OP_LAUNCH_GRAPH's run by its command, of a loop step by its context. -/
def faultStream (p st : Nat) (info : FaultInfo) (headRec : Option (Nat × List Byte)) (s : State) : State :=
  let x := streamAt p st s
  match x.launch with
  | none => s
  | some l =>
    match l.cmd with
    | some (k, pos) => faultCmd k pos info headRec s
    | none => beginTeardown l.ctx true info headRec s

/-- Payload of a MEM_ERROR record (R504). -/
def memErr (tier source channel frame address seqId queue seq : Nat) : List Byte :=
  le 1 tier ++ le 1 source ++ le 2 channel ++ le 4 frame ++ le 8 address ++ le 4 seqId ++ le 2 queue ++ zeros 2 ++ le 8 seq

/-- Payload of a MEM_ERROR record about an address of a tier, with the channel that the channel map gives and the frame that holds
it (R501, R504). -/
def memErrAt (t : Tier) (source address seqId queue seq : Nat) (s : State) : List Byte :=
  let f := frameOfAddr t address s
  memErr (tierCode t) source ((channelAt t address s).getD 0xFFFF) (if isFrame f s && (frameTier f s == t) then f else 0xFFFFFFFF)
    address seqId queue seq

/-- The command of a launch as a record names it: queue and sequence number, none for a loop step (R504). -/
def Launch.queueSeq (l : Launch) : Nat × Nat :=
  match l.cmd with
  | some (k, pos) => (k % 256, pos + 1)
  | none => (0xFFFF, 0)

/-- A command is lost to an uncorrectable error of a source of R357, with its MEM_ERROR record: of a bank of hub SRAM. -/
def memFaultCmd (k pos source bank : Nat) (s : State) : State :=
  faultCmd k pos (FaultInfo.of .memUncorrectable source s.now)
    (some (0x08, memErr 2 source 0xFFFF 0xFFFFFFFF bank 0 (k % 256) (pos + 1))) s

/-- The same of an address of a tier. -/
def tierFaultCmd (k pos source : Nat) (t : Tier) (address : Nat) (s : State) : State :=
  faultCmd k pos (FaultInfo.of .memUncorrectable source s.now) (some (0x08, memErrAt t source address 0 (k % 256) (pos + 1) s)) s

/-! ### Stages (R359 to R369) -/

/-- Budget of a stage in microseconds (R359, R504). -/
def stageBudget (stage : Nat) : Nat :=
  if stage = 0 then 10000 else if stage = 1 then 5000 else if stage = 2 then 20000 else if stage = 3 then 100000 else 0

/-- A STAGE record (R504). -/
def stageRec (stage event cause slot elapsed flags part : Nat) (s : State) : State :=
  hutchRec 0x09 { RecHead.blank with stage := stage, part := part }
    (le 1 stage ++ le 1 event ++ le 1 cause ++ le 1 slot ++ le 4 (stageBudget stage) ++ le 4 elapsed ++ le 1 flags ++
     le 1 part ++ zeros 18) s

/-- A Watch notification (R382). -/
def notify (s : State) : State := if s.watch.notify then msix 0 s.watch.pfVector s else s

/-- The wait table and fence shadows of a stage-3 dump (R374). -/
def waitTable (s : State) : List Byte :=
  ((s.allCmds.map (fun e => (e.2.waits.filter (fun w => !w.met)).map (fun w =>
    le 8 w.ref.va ++ le 8 w.ref.value ++ le 8 (e.1 * 2 ^ 32 + e.2.pos % 2 ^ 32)))).flatten).flatten

/-- The last 16 entries of a list. -/
def last16 (l : List (List Byte)) : List Byte := ((l.reverse.take 16).reverse).flatten

/-- A Spine message to a slice: launch, stop request, alarm, release (R374; log 35). -/
def PortOut.toSlice (p : Nat) : PortOut → Option (List Byte)
  | .launch q st => if q = p then some (le 1 0 ++ le 1 st) else none
  | .stop q st => if q = p then some (le 1 1 ++ le 1 st) else none
  | .alarm q st _ _ _ => if q = p then some (le 1 3 ++ le 1 st) else none
  | .release q st => if q = p then some (le 1 4 ++ le 1 st) else none
  | _ => none

/-- A Spine message from a slice: step-end report or stop report, an alarm's report, a request for a launch again. -/
def PortOut.toHub (p : Nat) : PortOut → Option (List Byte)
  | .report q st => if q = p then some (le 1 2 ++ le 1 st) else none
  | .alarmReport q st _ _ _ => if q = p then some (le 1 5 ++ le 1 st) else none
  | .retryRequest q st _ => if q = p then some (le 1 6 ++ le 1 st) else none
  | _ => none

/-- The last 16 Spine messages to a slice, and the last 16 from it (R374; log 35). -/
def spineDump (p : Nat) (s : State) : List Byte :=
  last16 (s.port.out.filterMap (PortOut.toSlice p)) ++ last16 (s.port.out.filterMap (PortOut.toHub p))

/-- Status of a fast-tier channel's controller (R374, R474; log 35): 0 READY, 1 FAULT, 2 mapped out. -/
def channelStatus (ch : Nat) (s : State) : Byte :=
  if s.wrd.outChannels.contains (.fast, ch) then 2 else if s.wrd.faultChannels.contains (.fast, ch) then 1 else 0

/-- The entries of a stream's side queues. -/
def sideQueues (x : Stream) : List Byte :=
  (x.engines.map (fun g => (g.queue.map (fun h => le 4 h.entry ++ le 4 h.textOffset ++ le 4 h.cycle)).flatten)).flatten

/-- A slice as a stage-2 dump shows it (R374): its streams and side queues, its Spine messages, its benches' states and its
channels' status. -/
def sliceDump (p : Nat) (s : State) : List Byte :=
  (((sliceAt p s).streams.zipIdx).map (fun e => enginePayload p e.2 e.1 ++ sideQueues e.1)).flatten ++ spineDump p s ++
  (partBenches p).map (fun b => BitVec.ofNat 8 (benchAt b s).state.code) ++
  (List.range 8).map (fun i => channelStatus (8 * p + i) s)

/-- Contents of a stage-2 dump (R374). -/
def dump2 (p : Nat) (s : State) : List Byte :=
  let cs := ((partBenches p).filterMap (fun b => ((benchAt b s).res.bind (tget s.sched.residencies)).map (·.ctx))).eraseDups
  (cs.map (fun c => (((ctxQueues c s).filter (fun e => e.2.state != .stopped)).map (fun e => queuePayload e.1 e.2)).flatten ++
    (waitItems c false s).flatten ++
    ((streamsOf (fun l => l.ctx == c) s).map (fun e => enginePayload e.1 e.2 (streamAt e.1 e.2 s))).flatten)).flatten ++
  sliceDump p s

/-- The input queues of the hub engines, in the order of their codes (R504, R374; log 25): for each the number of items, and two
words an item. -/
def engineInputs (s : State) : List Byte :=
  let rows (l : List (Nat × Nat)) : List Byte := le 8 l.length ++ (l.map (fun e => le 8 e.1 ++ le 8 e.2)).flatten
  rows ((s.front.queues.filter (fun e => (e.2.state == .fetching) && decide (e.2.f < e.2.d))).map (fun e => (e.1, e.2.d - e.2.f))) ++
  rows ((s.front.queues.filter (fun e => !e.2.unwritten.isEmpty)).map (fun e => (e.1, e.2.unwritten.length))) ++
  rows ((s.allCmds.filter (fun e => e.2.phase == .intake)).map (fun e => (e.1, e.2.pos))) ++
  rows ((s.trestle.loops.filter (fun e => (e.2.phase == .ended) || (e.2.phase == .idle && e.2.woken))).map (fun e => (e.1, e.2.step))) ++
  rows (s.sched.jobs.map (fun e => (e.1, e.2.ctx))) ++
  rows ((s.wrd.models.filter (fun e => (e.2.state == .miss) && e.2.frames.isEmpty)).map (fun e => (e.1, e.2.length))) ++
  rows (s.trestle.loops.filterMap (fun e => e.2.jnl.map (fun j => (e.1, j.waiting.length)))) ++
  rows (s.jnl.events.map (fun e => (e.id, e.code)))

/-- Contents of a stage-3 dump (R374). -/
def dump3 (s : State) : List Byte :=
  ((s.front.queues.filter (fun e => e.2.state != .stopped)).map (fun e =>
    le 4 e.1 ++ le 4 e.2.state.code ++ le 8 e.2.d ++ le 8 e.2.f ++ le 8 e.2.w)).flatten ++
  waitTable s ++
  (s.bramble.shadows.map (fun x => le 8 x.loc.addr ++ le 8 x.value)).flatten ++
  ((List.range s.integ.slices).map (fun p => sliceDump p s)).flatten ++
  (s.chest.classes.map (fun c => le 4 c.used)).flatten ++ engineInputs s ++
  (s.watch.lostCompletions.map (le 4)).flatten

/-- Where a dump slot lies in the spill region: behind the log spill ring (R371). -/
def dumpOff (n : Nat) : Nat := spillRing + n * (64 * 2 ^ 20)

/-- The bytes of a dump slot. -/
def dumpBytes (n : Nat) (s : State) : List Byte := memRead (spillLoc s (dumpOff n)) (tgetD s.hutch.dumps n 0) s

/-- The slot that the next dump takes: none while dumps are kept in the dump area only (R386, R504). -/
def nextDump (s : State) : Nat := if spillOn s then s.hutch.nextSlot else 0xFF

/-- The dump written with a stage: that of its slot, or the dump area. -/
def stageDump (g : Stage) (s : State) : List Byte := if g.dumpSlot < 8 then dumpBytes g.dumpSlot s else s.hutch.dumpArea

/-- Contents of a stage-4 dump (R374): the dump of the stage 3 in progress, if there is one, and the STAGE records written since. -/
def dump4 (x : Option Stage) (s : State) : List Byte :=
  let since := (x.map (·.at_)).getD s.now
  (x.map (fun g => stageDump g s)).getD [] ++
  ((s.hutch.spill.map (spillRecord s) ++ s.hutch.log).filter (fun r => (fld r 1 1 == 9) && decide (since ≤ fld r 8 8) &&
    !((fld r 32 1 == 3) && (fld r 33 1 == 0)))).flatten

/-- A dump goes to the next dump slot, in the slow tier, and its first 3 MiB to the dump area (R371, R374, R386). -/
def writeDump (d : List Byte) (s : State) : State :=
  let n := s.hutch.nextSlot
  let s := { s with hutch := { s.hutch with dumpArea := d.take (3 * 2 ^ 20) } }
  if spillOn s then
    let s := spillWrite (dumpOff n) d s
    { s with hutch := { s.hutch with dumps := tset s.hutch.dumps n d.length, cut := s.hutch.cut.filter (fun k => k != n),
                                     lastSlot := n, nextSlot := (n + 1) % 8 } }
  else s

/-- A stage just ordered. -/
def Stage.mk0 (stage unit cause now slot : Nat) (byCmd flr test : Bool) : Stage :=
  { stage := stage, unit := unit, at_ := now, cause := cause, phase := 0, since := now, byCmd := byCmd, flr := flr,
    dumpSlot := slot, truncated := false, ready := [], test := test, detail := 0 }

def addStage (x : Stage) (s : State) : State := { s with watch := { s.watch with stages := s.watch.stages ++ [x] } }

/-- The stage in progress of a partition. -/
def stageOf (n unit : Nat) (s : State) : Option Stage := s.watch.stages.find? (fun x => x.stage == n && x.unit == unit)

def modStage (n unit : Nat) (f : Stage → Stage) (s : State) : State :=
  { s with watch := { s.watch with stages := s.watch.stages.map (fun x => if x.stage == n && x.unit == unit then f x else x) } }

def dropStage (n unit : Nat) (s : State) : State :=
  { s with watch := { s.watch with stages := s.watch.stages.filter (fun x => !(x.stage == n && x.unit == unit)) } }

/-- Stage 4 is ordered (R361, R369): STAGE record, dump, and Hutch's log flushed to the spill region. No notification (R382). -/
def orderStage4 (cause : Nat) (byCmd : Bool) (s : State) : State :=
  if s.watch.stages.any (fun x => x.stage == 4) then s else
  let s := if s.watch.stages.any (fun x => (x.stage == 2 || x.stage == 3) && x.byCmd)
    then { s with watch := { s.watch with rstBusy := false, rstResult := 3 } } else s
  let x := stageOf 3 0 s
  let s := { s with watch := { s.watch with stages := s.watch.stages.filter (fun x => x.stage != 3 && x.stage != 2) } }
  let slot := nextDump s
  let s := stageRec 4 0 cause slot 0 0 0xFF s
  let s := writeDump (dump4 x s) s
  let s := if spillOn s then s.hutch.log.foldl spillPut { s with hutch := { s.hutch with log := [] } } else s
  trace 14 0 0xFFFF 0 4 (addStage (Stage.mk0 4 0 cause s.now slot byCmd false false) s)

/-- The partition a command runs on: the lowest of its streams. -/
def runsOn (k pos : Nat) (s : State) : Option Nat :=
  ((streamsOf (fun l => l.cmd == some (k, pos)) s).map (·.1)).head?

/-- A fault whose teardown a compute reset took over (R358). -/
def FaultInfo.reset3 (i : FaultInfo) : FaultInfo := { i with flags := i.flags ||| 4, stage := 3 }

/-- Stage 3 is ordered (R361, R366 steps 1 to 3): STAGE record, dump, doorbells dropped, FC_HFP_PAUSE deasserted, every
command's latch taken, every stream and transfer told to stop (R85, R175). Contexts that were ACTIVE are torn down by it. -/
def orderStage3 (cause : Nat) (byCmd flr : Bool) (s : State) : State :=
  if s.watch.stages.any (fun x => x.stage == 3 || x.stage == 4) then s else
  let s := if s.watch.stages.any (fun x => x.stage == 2 && x.byCmd)
    then { s with watch := { s.watch with rstBusy := false, rstResult := 3 } } else s
  let s := { s with watch := { s.watch with stages := s.watch.stages.filter (fun x => x.stage != 2),
                                            hubReady := false, computeResets := satInc 16 s.watch.computeResets } }
  let slot := nextDump s
  let s := stageRec 3 0 cause slot 0 0 0xFF s
  let s := notify (writeDump (dump3 s) s)
  let s := { s with chest := { s.chest with hfpPause := false } }
  let s : State := if flr then { s with port := { s.port with dropAll := true } } else s
  let info : FaultInfo := { FaultInfo.of .partitionReset 0x3FF s.now with flags := 4, stage := 3 }
  let s := { s with contexts := tmapv s.contexts (fun _ (x : Context) =>
      if x.state = CtxState.active then { x with state := .teardown true, teardownAt := s.now, cause := some info }
      else { x with cause := x.cause.map FaultInfo.reset3 }) }
  let s := s.contexts.foldl (fun s e => forgetReleases e.1 s) s
  let runs := s.allCmds.filterMap (fun e => (runsOn e.1 e.2.pos s).map (fun p => (e.1, e.2.pos, p)))
  let s := runs.foldl (fun s r => s.modC r.1 r.2.1 (Cmd.kill { status := .partitionReset, aux := 0x300 + r.2.2 })) s
  let s := oweMsix (fun _ => true) s
  let s := s.front.queues.foldl (fun s e => if e.2.enabled then shutQueue e.1 { status := .contextLost, aux := 0x0F } s else s) s
  let s := settleStops (stopJobs (fun k => k.target.isEmpty) (requestStops (streamsOf (fun _ => true) s) s))
  trace 14 0 0xFFFF 0 3 (addStage (Stage.mk0 3 0 cause s.now slot byCmd flr false) s)

/-- Bystanders and holders of a partition under reset (R362 step 2, R363): claims withdrawn, idle graph residencies
released, idle loop residencies saved. -/
def clearBystanders (p : Nat) (s : State) : State :=
  let ids := ((partBenches p).filterMap (fun b => (benchAt b s).claim)).eraseDups
  let s := ids.foldl (fun s id => withdrawClaims id s) s
  (resInPart p s).foldl (fun s r =>
    match tget s.sched.residencies r with
    | none => s
    | some x =>
      if x.running || x.moving then s else
      match x.owner with
      | .graph => releaseRes r s
      | .loop _ => (saveRes r s).getD s) s

/-- The commands running on a partition whose latches are free take them with ST_PARTITION_RESET (R362 step 3). -/
def killRuns (p : Nat) (s : State) : State :=
  let runs := (streamsOf (fun l => l.cmd.isSome && l.parts.contains p) s).filterMap (fun e => ((streamAt e.1 e.2 s).launch.bind (·.cmd)))
  let free := runs.filter (fun r => ((s.cmd r.1 r.2).map (fun c => c.latch.isNone)).getD false)
  let s := free.foldl (fun s r => s.modC r.1 r.2 (fun c => { c.take .partitionReset (0x200 + p) with stopping := true })) s
  requestStops (streamsOf (fun l => match l.cmd with | some r => free.contains r | none => false) s) s

/-- Stage 2 is ordered for a partition (R361, R362 steps 1 and 2): STAGE record, dump, placement withheld, bystanders
dealt with. -/
def orderStage2 (p cause : Nat) (byCmd test : Bool) (s : State) : State :=
  if s.watch.stages.any (fun x => x.stage == 3 || x.stage == 4) then s
  else match stageOf 2 p s with
  | some _ => if byCmd then modStage 2 p (fun x => { x with byCmd := true }) s else s
  | none =>
    let slot := if test then 0xFF else nextDump s
    let s := stageRec 2 0 cause slot 0 0 p s
    let s := notify (if test then s else writeDump (dump2 p s) s)
    let s := { s with watch := { s.watch with partitionResets := satInc 16 s.watch.partitionResets },
                      sched := { s.sched with unusable := if s.sched.unusable.contains p then s.sched.unusable else s.sched.unusable ++ [p] } }
    let s := clearBystanders p s
    trace 14 0 0xFFFF 0 2 (addStage (Stage.mk0 2 p cause s.now slot byCmd false test) s)

/-- The end record of a stage (R362 step 8, R366 step 6) with its notification (R382). -/
def stageEnd (x : Stage) (flags : Nat) (s : State) : State :=
  notify (stageRec x.stage 1 x.cause x.dumpSlot ((s.now - x.at_) / Config.us) (flags + b2n x.truncated)
    (if x.stage = 2 then x.unit else 0xFF) s)

/-- WCH_RESET_CMD's stage has ended (R385). -/
def rstDone (result : Nat) (s : State) : State := { s with watch := { s.watch with rstBusy := false, rstResult := result } }

/-- A machine check (R378): MACHINE_CHECK record, code kept, stage 3 ordered. -/
def machineCheck (code unit detail : Nat) (s : State) : State :=
  let s := hutchRec 0x0A RecHead.blank (le 1 code ++ zeros 3 ++ le 4 unit ++ le 8 detail ++ zeros 16) s
  let s := notify { s with watch := { s.watch with lastMc := code } }
  orderStage3 8 false false s

end Sys2Proof.Machine
end

