-- ==== Sys2Proof/Machine/Front.lean ====
section
/-! DEFINITION. Front: queue control (R67 to R71), doorbells and push windows (R73 to R78), fetch (R79, R81), arbitration
(R82, R83), retirement and its reports (R84 to R91), timeouts and shutdown (R92 to R95). -/

namespace Sys2Proof.Machine

/-- A queue of an active context; one never enabled reads as STOPPED. -/
def queueAt (c q : Nat) (s : State) : Queue := tgetD s.front.queues (qkey c q) Queue.reset

def modQueue (c q : Nat) (f : Queue → Queue) (s : State) : State :=
  s.modQueues (fun t => tmod t (qkey c q) Queue.reset f)


/-- A queue as ENABLE leaves it (R68). -/
def Queue.enable (r : QueueRec) (now : Nat) : Queue :=
  { Queue.reset with state := .idle, everEnabled := true, rcd := r, d := r.startIndex, f := r.startIndex, w := r.startIndex,
                     credit := r.weight, heldSince := now }

/-- What the cell of a queue record's read carries: no position. -/
def recordItem : Nat := 2 ^ 64

/-- The queue record is read into a FETCH cell (R68, R308), which Front releases with the read (log 29). -/
def recordRead (c q : Nat) (x : CtxRec) (s : State) : State :=
  let s := match grantNow (itemReq 0 (qkey c q) (s.tenantOf c) recordItem 1 none) s with
    | some t => dropItem 0 (qkey c q) recordItem (evalChest t)
    | none => s
  readFor (some c) (ctxLoc x (x.queueTable + q * 64)) 64 s

/-- FRT_QCMD ENABLE (R68 to R71, R502). -/
def queueEnable (c q : Nat) (rd : HostRead) (wr : HostStatus) (s : State) : State :=
  if cmdOpen s.front.qBusy s = false then cmdIgnored frtQcmd s else
  match tget s.contexts c with
  | none => qResult 2 s
  | some x =>
    if x.state ≠ .active ∨ x.rcd.queueCount ≤ q then qResult 2 s
    else if (queueAt c q s).state ≠ .stopped then qResult 3 s
    else
    let s := recordRead c q x.rcd s
    match rd with
    | .ok b =>
      match parseQueue b with
      | none => qResult 4 s
      | some r =>
        if r.msixEnable ∧ x.rcd.msixLast < r.msixVector then qResult 4 s else
        match wr with
        | .ok =>
          let s := hostWrite (some c) (ctxLoc x.rcd r.completionAddr) (le 8 r.startIndex) s
          qResult 0 (modQueue c q (fun _ => Queue.enable r s.now) (discardCells 0 (qkey c q) s))
        | _ =>
          qResult 2 (beginTeardown c true { FaultInfo.of .access 0xFFFFFFFF s.now with queue := q, address := r.completionAddr } none s)
    | _ => qResult 5 s

def execQueueEnable (c q : Nat) (rd : HostRead) (wr : HostStatus) (s : State) : Out := .next (queueEnable c q rd wr s)

/-- FRT_QCMD SHUTDOWN (R71, R94). -/
def queueShutdown (c q : Nat) (s : State) : State :=
  if cmdOpen s.front.qBusy s = false then cmdIgnored frtQcmd s else
  match tget s.contexts c with
  | none => qResult 2 s
  | some x =>
    if x.state ≠ .active ∨ x.rcd.queueCount ≤ q then qResult 2 s
    else if !(queueAt c q s).enabled then qResult 3 s
    else
      shutQueue (qkey c q) { status := .aborted, aux := 2 } { s with front := { s.front with qBusy := true, qBusyKey := qkey c q } }

def execQueueShutdown (c q : Nat) (s : State) : Out := .next (queueShutdown c q s)

/-- Payload of a HANG record (R504). -/
def hangPayload (agent unit stream queue window counter s1 s2 last : Nat) : List Byte :=
  le 1 agent ++ le 1 unit ++ le 1 stream ++ le 1 queue ++ le 4 window ++ le 4 counter ++ le 4 s1 ++ le 4 s2 ++ zeros 4 ++ le 8 last

/-- A queue not STOPPED 5 ms after its SHUTDOWN (R95). -/
def queueShutdownHang (c q : Nat) (s : State) : State :=
  let x := queueAt c q s
  if x.state = .shutting ∧ s.isActive c = true ∧ 5 * Config.ms ≤ s.now - x.shutAt then
    let info := { FaultInfo.of .hang (5 * 2 ^ 28 + 5000) s.now with queue := q, seq := x.w }
    beginTeardown c true info (some (0x03, hangPayload 5 0xFF 0xFF q 5000 x.progress x.sample x.sampleWas x.advanced)) s
  else s

def execQueueShutdownHang (c q : Nat) (s : State) : Out := .next (queueShutdownHang c q s)

/-! ### Doorbells and push windows -/

/-- Writes of a context's window that no queue counts: .1 through another function (R28), .2 under R73. -/
def countCtxDrop (c : Nat) (other : Bool) (s : State) : State :=
  { s with front := { s.front with ctxDrops := tmod s.front.ctxDrops c (0, 0) (fun p =>
      if other then (satInc 64 p.1, p.2) else (p.1, satInc 64 p.2)) } }

/-- The queue accepts doorbells and pushes (R67); during a compute reset none does (R366). -/
def accepts (c q : Nat) (s : State) : Bool :=
  s.isActive c && (queueAt c q s).enabled && !(s.watch.stages.any (fun x => x.stage == 3))

/-- Bytes of a push slot that have been written all. -/
def slotBytes (sl : List (Option Byte)) : Option (List Byte) :=
  if sl.length = 64 then sl.foldr (fun b a => match b, a with | some x, some l => some (x :: l) | _, _ => none) (some []) else none

/-- Entries taken from push slots for the first positions of a publication (R77, R78). -/
def takenSlots (q : Queue) (p n : Nat) : List Fetched :=
  ((q.push.take (min n 4)).zipIdx).filterMap (fun e =>
    (slotBytes e.1).map (fun b => { pos := p + e.2, entry := b, latch := none, ring := false }))

/-- A fetched entry put in its place by position; a position already present keeps its entry. -/
def putFetched (f : Fetched) : List Fetched → List Fetched
  | [] => [f]
  | g :: t => if f.pos < g.pos then f :: g :: t else if f.pos = g.pos then g :: t else g :: putFetched f t

/-- F moves past positions taken from push slots. -/
def skipTaken (fs : List Fetched) : Nat → Nat → Nat
  | 0, f => f
  | n + 1, f => if fs.any (fun x => x.pos == f) then skipTaken fs n (f + 1) else f

/-- Entries that a producer value newly publishes (R75); none: the value is dropped. -/
def Queue.published (v : Nat) (q : Queue) : Option Nat :=
  if 2 ^ q.rcd.ringLog2 < lag 32 v q.w then none else some (lag 32 v q.d)

/-- A producer value (R75, R77, R81) with the pushed entries that Front takes. For a queue that was empty the window of R92
starts. -/
def Queue.produce (v now : Nat) (taken : List Fetched) (q : Queue) : Queue :=
  if lag 32 v q.d = 0 then q
  else match q.published v with
  | none => { q with badDoorbell := satInc 32 q.badDoorbell }
  | some n =>
    let fs := taken.foldl (fun a f => putFetched f a) q.fetched
    { q with d := q.d + n, fetched := fs, push := List.replicate 4 [], f := skipTaken fs fs.length q.f,
             heldSince := if q.w = q.d then now else q.heldSince,
             state := if q.state = .idle then .fetching else q.state }

/-- A Detail consumer value (R87). -/
def Queue.consume (v : Nat) (q : Queue) : Queue :=
  if 2 ^ q.rcd.detailLog2 < lag 32 q.pd v then { q with badDetail := satInc 32 q.badDetail }
  else { q with cd := v }

/-- Pushed entries are taken with a cell each, in order; while FETCH is congested none is, and one that finds neither a cell
nor, under FC_HFP_PAUSE, one of the skid reserve is discarded and fetched later (R78, R306, R309). -/
def takePushes (k : Nat) (tenant : Option Nat) : List Fetched → State → List Fetched × State
  | [], s => ([], s)
  | f :: t, s =>
    match (if classCongested 0 s then none else takeSkid (itemReq 0 k tenant f.pos 1 (some f.entry)) s) with
    | none => takePushes k tenant t s
    | some s => let r := takePushes k tenant t s; (f :: r.1, r.2)

/-- A producer value for a queue of a context (R75 to R78). -/
def produceAt (c q v : Nat) (s : State) : State :=
  let x := queueAt c q s
  let n := (x.published v).getD 0
  let (fs, s) := takePushes (qkey c q) (s.tenantOf c) (takenSlots x x.d n) s
  let s := modQueue c q (Queue.produce v s.now fs) s
  if n = 0 then s else trace 0 0 c q x.d s

/-- A read of the doorbell window, of any function and at any offset, returns zero (R73). -/
def readBar2 (_fn _off : Nat) (_s : State) : W64 := 0

/-- A write to the doorbell of a queue (R72 to R77). -/
def doorbellAt (c q w size : Nat) (v : W64) (s : State) : State :=
  if !((size == 8 && w % 8 == 0) || (size == 4 && w % 4 == 0)) then
    modQueue c q (fun a => { a with badSize := satInc 32 a.badSize }) s
  else if !accepts c q s then modQueue c q (fun a => { a with dropped := satInc 32 a.dropped }) s
  else
    let lo := v.toNat % 2 ^ 32
    let s := if size = 4 ∧ w % 8 = 4 then s else produceAt c q lo s
    if size = 8 then modQueue c q (Queue.consume (v.toNat / 2 ^ 32)) s
    else if w % 8 = 4 then modQueue c q (Queue.consume lo) s else s

/-- Bytes written into a push slot. -/
def writeSlot (sl : List (Option Byte)) (off : Nat) (bs : List Byte) : List (Option Byte) :=
  let full := sl ++ List.replicate (64 - sl.length) none
  (bs.zipIdx).foldl (fun a e => a.set (off + e.2) (some e.1)) full

/-- A write to the push window of a queue at a byte of it (R77): it may cover several slots. -/
def pushAt (c q o : Nat) (bytes : List Byte) (s : State) : State :=
  if !accepts c q s then modQueue c q (fun a => { a with dropped := satInc 32 a.dropped }) s
  else modQueue c q (fun a => { a with push := (a.push.zipIdx).map (fun e =>
    let lo := 64 * e.2
    let part := ((bytes.zipIdx).filter (fun b => decide (lo ≤ o + b.2 ∧ o + b.2 < lo + 64)))
    match part with
    | [] => e.1
    | b :: _ => writeSlot e.1 (o + b.2 - lo) (part.map (·.1))) }) s

/-- A BAR2 write (R28, R73): in a doorbell, in the unused range, or in a push window of the context at its offset. -/
def bar2Write (fn off size : Nat) (v : W64) (bytes : List Byte) (s : State) : State :=
  if !barOpen s then s else
  let c := off / 0x20000
  let w := off % 0x20000
  match tget s.contexts c with
  | none => s
  | some x =>
    if x.rcd.fn ≠ fn then countCtxDrop c true s
    else if w < 0x800 then
      if x.rcd.queueCount ≤ w / 8 then countCtxDrop c false s else doorbellAt c (w / 8) w size v s
    else if w < 0x10000 then countCtxDrop c false s
    else if x.rcd.queueCount ≤ (w - 0x10000) / 256 then countCtxDrop c false s
    else pushAt c ((w - 0x10000) / 256) (w % 256) bytes s

/-- DOORBELL_WRITE: a BAR2 write given as a size and a value. -/
def doorbellWrite (fn off size : Nat) (v : W64) (s : State) : State := bar2Write fn off size v (le size v.toNat) s

def execDoorbellWrite (fn off size : Nat) (v : W64) (s : State) : Out := .next (doorbellWrite fn off size v s)

/-- PUSH_WRITE: a BAR2 write given as its bytes. -/
def pushWrite (fn off : Nat) (bytes : List Byte) (s : State) : State :=
  bar2Write fn off bytes.length (BitVec.ofNat 64 (leNat bytes)) bytes s

def execPushWrite (fn off : Nat) (bytes : List Byte) (s : State) : Out := .next (pushWrite fn off bytes s)

/-! ### Fetch -/

/-- Entries in flight as reads. -/
def Queue.inflightCount (q : Queue) : Nat := q.inflight.foldl (fun a r => a + r.2) 0

/-- Entries read from the ring and not handed over: pushed entries do not count (R80). -/
def Queue.fetchedCount (q : Queue) : Nat := q.fetched.countP (·.ring)

/-- Reads outstanding at the host fabric port for Front and Bramble (R468). -/
def readsOut (s : State) : Nat :=
  s.front.queues.foldl (fun a e => a + e.2.inflight.length) 0 +
  s.allCmds.countP (fun e => match e.2.phase with | .reading .. => true | _ => false)

/-- The conditions of a fetch read (R79, R306, R307, R468). -/
def mayFetch (c q n : Nat) (s : State) : Bool :=
  let x := queueAt c q s
  (x.state == .fetching) && decide (1 ≤ n ∧ n ≤ 16 ∧ x.f + n ≤ x.d ∧ x.f % 2 ^ x.rcd.ringLog2 + n ≤ 2 ^ x.rcd.ringLog2 ∧
    x.fetchedCount + x.inflightCount + n ≤ Config.maxFetched ∧ readsOut s < 1024) &&
  !classCongested 0 s && !s.chest.hfpPause &&
  x.fetched.all (fun f => decide (f.pos < x.f ∨ x.f + n ≤ f.pos))

/-- A FETCH cell for each of n positions (R308); false: not all are granted, and requests wait (R304). -/
def takeFetch (k : Nat) (tenant : Option Nat) : Nat → Nat → State → Bool × State
  | _, 0, s => (true, s)
  | p, n + 1, s =>
    let a := askCells (itemReq 0 k tenant p 1 none) s
    let r := takeFetch k tenant (p + 1) n a.2
    (a.1 && r.1, r.2)

/-- Where the entry of a position lies in its ring (R62), in the context's address space (R28). -/
def ringLoc (x : CtxRec) (r : QueueRec) (pos : Nat) : Loc := ctxLoc x (r.ringBase + (pos % 2 ^ r.ringLog2) * 64)

/-- A fetch read of n entries is issued (R79) once its cells are allocated (R308): a request of the context's function, PASID
and key at the ring slots (R28, R468). -/
def fetchIssue (c q n : Nat) (s : State) : State :=
  if mayFetch c q n s then
    let x := queueAt c q s
    match takeFetch (qkey c q) (s.tenantOf c) x.f n s, tget s.contexts c with
    | (true, s), some ctx =>
      readReq (s.tenantOf c) .hub (ringLoc ctx.rcd x.rcd x.f) (64 * n) <|
        trace 1 0 c q x.f <| bump 0 (modQueue c q (fun x =>
          { x with inflight := x.inflight ++ [(x.f, n)], f := skipTaken x.fetched x.fetched.length (x.f + n) }) s)
    | (false, s), some _ => s
    | _, none => s
  else s

def execFetchIssue (c q n : Nat) (s : State) : Out := .next (fetchIssue c q n s)

/-- The position Front hands over next. -/
def Queue.nextHand (q : Queue) : Nat := q.w + q.cmds.length

/-- An entry that has come from the ring takes its place, with its cell written; at a position that has been handed over or
has its latch taken it is dropped with its cell (R93, R98). -/
def entryArrived (c q pos : Nat) (b : List Byte) (s : State) : State :=
  let x := queueAt c q s
  if x.nextHand ≤ pos ∧ x.fetched.all (fun f => f.pos != pos) = true then
    fillItem 0 (qkey c q) pos b (modQueue c q (fun x =>
      { x with fetched := putFetched { pos := pos, entry := b, latch := none, ring := true } x.fetched }) s)
  else dropItem 0 (qkey c q) pos s

/-- The oldest fetch read of a queue returns (R79): its bytes are those of the ring slots it named (R28); a failed read costs
the context (R66). -/
def fetchReturn (c q : Nat) (rd : HostRead) (s : State) : State :=
  let x := queueAt c q s
  match x.inflight, tget s.contexts c with
  | (p, n) :: t, some ctx =>
    let s := modQueue c q (fun x => { x with inflight := t }) s
    match rd with
    | .ok b =>
      let b := padTo (64 * n) (b.take (64 * n))
      let s := charge (some c) 2 (64 * n) (memWrite (ringLoc ctx.rcd x.rcd p) b s)
      (List.range n).foldl (fun s i => entryArrived c q (p + i) (slice b (64 * i) 64) s) s
    | _ =>
      beginTeardown c true { FaultInfo.of .access 0xFFFFFFFF s.now with queue := q, address := (ringLoc ctx.rcd x.rcd p).addr % 2 ^ 64 } none s
  | _, _ => s

def execFetchReturn (c q : Nat) (rd : HostRead) (s : State) : Out := .next (fetchReturn c q rd s)

/-- The fetcher that has reached D writes IDLE_ARMED; its closing re-read then finds IDLE or FETCHING (R81). -/
def fetcherGoIdle (c q : Nat) (s : State) : State :=
  let x := queueAt c q s
  if x.state = .fetching ∧ x.f = x.d then modQueue c q (fun x => { x with state := .idleArmed }) s
  else if x.state = .idleArmed then modQueue c q (fun x => { x with state := if x.f = x.d then .idle else .fetching }) s
  else s

def execFetcherGoIdle (c q : Nat) (s : State) : Out := .next (fetcherGoIdle c q s)

/-! ### Arbitration -/

/-- Fetched entries that follow on in position order. -/
def handable : List Fetched → Nat → List Fetched
  | [], _ => []
  | f :: t, p => if f.pos = p then f :: handable t (p + 1) else []

/-- The queue is eligible (R82): an entry fetched, and its intake not held (R126). -/
def Queue.eligible (q : Queue) : Bool :=
  q.enabled && !(handable q.fetched q.nextHand).isEmpty && q.cmds.all (fun c => match c.phase with | .held _ => false | _ => true)

/-- n entries are handed over (R83). -/
def Queue.handOver (n : Nat) (q : Queue) : Queue :=
  let hs := (handable q.fetched q.nextHand).take n
  { q with cmds := q.cmds ++ hs.map Cmd.fresh, fetched := q.fetched.drop hs.length, credit := q.credit - 1 }

/-- Entries move with their cells from the FETCH class to the ISSUE class as long as those are granted (R303, R304): how many
do. One whose latch is taken needs none. -/
def moveEntries (k : Nat) (tenant : Option Nat) : List Fetched → State → Nat × State
  | [], s => (0, s)
  | f :: t, s =>
    let moved := if f.latch.isSome then (true, dropItem 0 k f.pos s)
      else askMove 0 k (itemReq 1 k tenant f.pos 1 (some f.entry)) s
    match moved with
    | (false, s) => (0, s)
    | (true, s) => let r := moveEntries k tenant t s; (r.1 + 1, r.2)

/-- The queue a context's weighted round robin grants (R83); it starts at queue 0 (DESIGN CHOICE, log 6: R83 gives last[ctx] no start). -/
def wrrPick (c : Nat) (s : State) : Option Nat :=
  let last := tgetD s.front.last c 255
  ((List.range 256).map (fun i => (last + 1 + i) % 256)).find? (fun q =>
    match s.queue c q with
    | some x => x.eligible && decide (0 < x.credit)
    | none => false)

/-- The context has an eligible queue. -/
def ctxEligible (c : Nat) (s : State) : Bool := (ctxQueues c s).any (fun e => e.2.eligible)

/-- A context is granted (R83): with no credit left the round ends and every queue's credit is its weight. -/
def grantCtx (c : Nat) (s : State) : State :=
  let s := match wrrPick c s with
    | some _ => s
    | none => s.modQueues (fun t => tmapv t (fun k x => if k / 256 = c then { x with credit := x.rcd.weight } else x))
  match wrrPick c s with
  | none => s
  | some q =>
    match s.queue c q with
    | none => s
    | some x =>
      let (n, s) := moveEntries (qkey c q) (s.tenantOf c) ((handable x.fetched x.nextHand).take x.rcd.burst) s
      if n = 0 then s else
      let s := s.modQ (qkey c q) (Queue.handOver n)
      { s with front := { s.front with last := tset s.front.last c q } }

/-- One grant of Front (R82): in a slot of a sealed tenant its own contexts only, otherwise those of unsealed tenants
(R295). The sealed tenant keeps its own round robin (log 6). -/
def arbiterGrant (slot : Option Nat) (s : State) : State :=
  if classCongested 1 s then s else
  let mine (c : Nat) : Bool := match slot with
    | some t => (s.tenantOf c == some t) && isSealedT s (some t)
    | none => !isSealedT s (s.tenantOf c)
  let key := match slot with | some t => 16384 + t | none => 16384 + 1024
  let last := match slot with | some _ => tgetD s.front.last key 16383 | none => s.front.lastCtx
  let cs := (s.contexts.map (·.1)).filter (fun c => mine c && ctxEligible c s)
  match (cs.filter (fun c => decide (last < c)) ++ cs).head? with
  | none => s
  | some c =>
    let s := grantCtx c s
    match slot with
    | some _ => { s with front := { s.front with last := tset s.front.last key c } }
    | none => { s with front := { s.front with lastCtx := c } }

def execArbiterGrant (slot : Option Nat) (s : State) : Out := .next (arbiterGrant slot s)

/-! ### Retirement -/

/-- A graph residency at its boundary, the retirement of its run (R262, R274, R284): vacated, or held through a decision pass
that may give it to another job or to its context's next run. -/
def graphBoundary (r : Nat) (s : State) : State :=
  match tget s.sched.residencies r with
  | none => s
  | some x =>
    let s := settleReady (s.modRes r (fun x => { x with running := false, cmd := none }))
    let shed := decide (4 ≤ s.power.level) && ((ctxCls s x.ctx != .rt) || decide (6 ≤ s.power.level))
    if claimedRes x s || shed || rtExpired x s then decisionPass (releaseRes r (countVacate s))
    else if underReset x s || decide (x.benches.length ≠ x.count) then decisionPass (releaseRes r s)
    else passAt (some r) s

/-- What a retirement leaves to be reported (R86, R91). -/
def Queue.retire (r : Retired) (now : Nat) (q : Queue) : Queue :=
  { q with w := q.w + 1, progress := (q.progress + 1) % 2 ^ 32, unwritten := q.unwritten ++ [r],
           cmds := q.cmds.filter (fun c => c.pos != r.pos), unreported := q.unreported + 1, heldSince := now, advanced := now,
           firstUnreported := if q.unreported = 0 then now else q.firstUnreported,
           urgent := q.urgent || (q.rcd.msixOnError && (r.status != .ok)) }

/-- The bytes of a retirement record in its COMPLETION cell (R302): status, aux, tag, sequence number, time. -/
def Retired.bytes (r : Retired) : List Byte :=
  le 1 r.opcode ++ le 1 r.status.code ++ zeros 2 ++ le 4 r.aux ++ le 4 r.tag ++ zeros 4 ++ le 8 (r.pos + 1) ++ le 8 r.time

/-- Bytes of host memory that have been asked for on a command's behalf and have not come when it retires: they are read all the same
(R328). -/
def lateBytes (c : Nat) (m : Cmd) (s : State) : Nat :=
  let image (key n : Nat) : Nat := if ((memOfKey key s).map (·.space)) == some .host then n else 0
  match m.phase with
  | .reading _ n _ => n
  | .verifying g _ =>
    match (tget s.objects g).map Obj.body with
    | some (ObjBody.graph b) => image b.imageKey b.imageLength
    | _ => 0
  | .dispatched =>
    if m.running && m.started && eOp m.entry == 6 then image (objKey c (hIndex (fld m.entry 20 4))) (fld m.entry 32 8) else 0
  | _ => 0

/-- The command at W retires (R85): result writes, signals with ST_OK, pins dropped, version given back, report. Its record
waits in a cell of the COMPLETION class (R302); retirement itself never waits (R306). -/
def retireCmd (c q : Nat) (m : Cmd) (l : Latch) (s : State) : State :=
  let k := qkey c q
  let s := dropCmdCells k m.pos (eOp m.entry) (dropItem 0 k m.pos (charge (some c) 2 (lateBytes c m s) s))
  let unread := m.entry.isEmpty
  let tag := if unread then 0 else eTag m.entry
  let s := m.results.foldl (fun s r => locWrite (some c) r.loc r.data s) s
  let s := if l.status = .ok then
      m.signals.foldl (fun s r => signalOut c k m.pos tag r s) s
    else s
  let r : Retired := { pos := m.pos, opcode := if unread then 0xFF else eOp m.entry, tag := tag, unread := unread,
                       status := l.status, aux := l.aux, time := s.now, lost := false }
  let res := s.sched.residencies.find? (fun e => e.2.cmd == some (k, m.pos))
  let s := takeOrWait (itemReq 3 k (s.tenantOf c) m.pos 1 (some r.bytes)) (s.modQ k (Queue.retire r s.now))
  let s := unpinAll m.pins s
  let s := match m.bound with
    | some (g, v) => unbind g v s
    | none => s
  let s := reapModels (dropShadows (trace 4 tag c q m.pos s))
  let s := match res with
    | some (id, _) => if s.isActive c then graphBoundary id s else s
    | none => s
  settleQueue k s

/-- The replay that a command opened has not ended: the command retires when it has, also with its latch taken (R397). -/
def replayOpen (k pos : Nat) (s : State) : Bool :=
  s.trestle.loops.any (fun e => match e.2.replay with | some r => qkey e.2.ctx r.queue == k && r.pos == pos | none => false)

/-- The oldest unretired command of a queue retires once its latch is taken and it has finished acting (R85). In a queue
being shut down a position that was never fetched retires unread (R94). -/
def commandRetire (c q : Nat) (s : State) : State :=
  match s.queue c q with
  | none => s
  | some x =>
    if x.state = .stopped ∨ x.d ≤ x.w then s else
    match x.cmd x.w with
    | some m =>
      match m.latch with
      | some l => if m.stopping || replayOpen (qkey c q) x.w s then s else retireCmd c q m l s
      | none => s
    | none =>
      match x.fetched.find? (fun f => f.pos == x.w && f.latch.isSome) with
      | some f =>
        retireCmd c q (Cmd.fresh f) (f.latch.getD x.shutLatch)
          (s.modQ (qkey c q) (fun x => { x with fetched := x.fetched.filter (fun g => g.pos != f.pos) }))
      | none =>
        if x.state = .shutting then
          retireCmd c q (Cmd.fresh { pos := x.w, entry := [], latch := some x.shutLatch, ring := false }) x.shutLatch s
        else s

def execCommandRetire (c q : Nat) (s : State) : Out := .next (commandRetire c q s)

/-! ### Reports -/

/-- A Detail Ring record (R88). -/
def detailRecord (r : Retired) (phase : Bool) (missed : Nat) : List Byte :=
  le 1 2 ++ le 1 r.opcode ++ le 1 r.status.code ++ le 1 (b2n phase + 2 * b2n (decide (missed ≠ 0)) + 4 * b2n r.unread) ++
  le 4 r.tag ++ le 8 (r.pos + 1) ++ le 8 r.time ++ le 4 missed ++ le 4 r.aux

/-- The slots of the Detail spill area in use (R90). -/
def spilledSlots (s : State) : List Nat := (s.front.queues.map (fun e => e.2.spilled)).flatten

/-- A slot of the Detail spill area (R90, R492). -/
def spillSlot (n : Nat) (s : State) : Loc := { space := .fast, addr := s.wrd.hkBase + Config.detailOffset + 32 * n }

/-- The lowest free slot of the Detail spill area. The spec names none; the choice is the model's (log 120). -/
def freeSpill (s : State) : Nat :=
  let used := spilledSlots s
  ((List.range (used.length + 1)).find? (fun n => !used.contains n)).getD used.length

/-- A missed record is kept in the Detail spill area, traffic of no tenant (R90, R328, R473, R492). -/
def spillDetail (k : Nat) (r : List Byte) (s : State) : State :=
  let n := freeSpill s
  (portWrite none .hub (spillSlot n s) r s).modQ k (fun x => { x with spilled := x.spilled ++ [n] })

/-- The records of a queue in the Detail spill area, oldest first. -/
def spilledRecords (q : Queue) (s : State) : List (List Byte) := q.spilled.map (fun n => memRead (spillSlot n s) 32 s)

/-- A Detail Ring record is due for a retirement (R87, R89, R90); one whose cell was lost is counted as missed (R317). -/
def detailDue (c q : Nat) (r : Retired) (s : State) : State :=
  match s.queue c q, tget s.contexts c with
  | some x, some ctx =>
    let due := x.rcd.detailMode = 2 ∨ (x.rcd.detailMode = 1 ∧ r.status ≠ .ok)
    if !(decide due) then s else
    if r.lost then
      s.modQ (qkey c q) (fun x => { x with overflowCount := satInc 32 x.overflowCount, missed := satInc 32 x.missed })
    else
    let sd := 2 ^ x.rcd.detailLog2
    let phase := decide ((x.pd / sd) % 2 = 0)
    if lag 32 x.pd x.cd = sd then
      let first := !x.overflow
      let keep := decide (x.spilled.length < Config.maxQueueSpill ∧ (spilledSlots s).length < Config.maxSpill)
      let s := s.modQ (qkey c q) (fun x => { x with
        overflow := true, overflowCount := satInc 32 x.overflowCount, missed := satInc 32 x.missed })
      let s := if keep then spillDetail (qkey c q) (detailRecord r phase 0) s else s
      if first then
        raiseEvent (mkEvent s evDetailOverflow c ctx.rcd.tenant 0 3 (qkey c q) [satInc 32 x.overflowCount, 0, 0, 0]) s
      else s
    else
      let s := hostWrite (some c) (ctxLoc ctx.rcd (x.rcd.detailBase + (x.pd % sd) * 32)) (detailRecord r phase x.missed) s
      s.modQ (qkey c q) (fun x => { x with pd := (x.pd + 1) % 2 ^ 32, missed := 0 })
  | _, _ => s

/-- A due MSI-X message is sent (R91). -/
def sendMsix (c q : Nat) (s : State) : State :=
  match s.queue c q with
  | none => s
  | some x => msix (s.fnOf c) x.rcd.msixVector (s.modQ (qkey c q) (fun x => { x with unreported := 0, urgent := false }))

/-- The completion writer releases the cell of a retirement (R302, R312), or the request for one that waits. -/
def dropCompletion (k pos : Nat) (s : State) : State :=
  dropItem 3 k pos (s.modChest (fun c =>
    { c with waiting := c.waiting.filter (fun w => !(w.cls == 3 && w.queue == k && w.item == some pos)) }))

/-- Detail Ring records, the Completion Word and the MSI-X message of the retirements not yet written, in the order of R86;
with none left, the message a fault teardown owes (R96). Reports cease in STOPPED (R67). -/
def completionWordWrite (c q : Nat) (s : State) : State :=
  match s.queue c q, tget s.contexts c with
  | some x, some ctx =>
    if x.state = .stopped then s
    else if x.unwritten.isEmpty then (if x.rcd.msixEnable && x.urgent then settleQueue (qkey c q) (sendMsix c q s) else s)
    else
    let s := x.unwritten.foldl (fun s r => detailDue c q r s) s
    let s := hostWrite (some c) (ctxLoc ctx.rcd x.rcd.completionAddr) (le 8 x.w) s
    let s := x.unwritten.foldl (fun s r => dropCompletion (qkey c q) r.pos s) s
    let s := bump 1 (s.modQ (qkey c q) (fun x => { x with unwritten := [] }))
    settleQueue (qkey c q)
      (if x.rcd.msixEnable && (decide (x.rcd.modCount ≤ x.unreported) || x.urgent) then sendMsix c q s else s)
  | _, _ => s

def execCompletionWordWrite (c q : Nat) (s : State) : Out := .next (completionWordWrite c q s)

/-- The oldest unreported retirement is mod_delay_us old (R91). -/
def msixModerationTimeout (c q : Nat) (s : State) : State :=
  match s.queue c q with
  | none => s
  | some x =>
    if (x.state != .stopped) && x.rcd.msixEnable && decide (0 < x.unreported) && x.unwritten.isEmpty &&
        decide (x.rcd.modDelayUs * Config.us ≤ s.now - x.firstUnreported)
    then sendMsix c q s else s

def execMsixModerationTimeout (c q : Nat) (s : State) : Out := .next (msixModerationTimeout c q s)

/-! ### Timeouts -/

/-- An item waits in MC3's mailbox. -/
def inMailbox3 (w : Work) (s : State) : Bool := ((s.mgmt.cores[3]?).map (fun c => c.mailbox.contains w)).getD false

/-- A requested bank test that waits for the pass in progress, or that has been returned to MC3's mailbox (R430, R455). -/
def queuedBankTest (k pos : Nat) (s : State) : Bool :=
  ((s.cmd k pos).map (fun m => (eOp m.entry == 0x14) && (fld m.entry 16 1 == 2) && m.started && m.running)).getD false &&
  (((s.power.bankPass.bind (·.1)) != some (k, pos)) || inMailbox3 (.bankTest 0) s)

/-- A self-test that is queued or returned to its mailbox, and a command that waits in a mailbox, count as not dispatched to an engine
(R453, R430). -/
def queuedTest (k pos : Nat) (s : State) : Bool :=
  s.power.tests.any (fun x => x.2.1 == k && x.2.2.1 == pos && (!x.2.2.2.1 || inMailbox3 (.selftest x.1) s)) ||
  queuedBankTest k pos s ||
  s.mgmt.cores.any (fun c => c.mailbox.any (fun w => match w with
    | .modelLoad m => ((tget s.wrd.models m).map (fun x => x.waiters.contains (k / 256, k % 256, pos))).getD false
    | _ => false))

/-- A queue flagged by Watch (R92, R93). -/
def queueTimeout (c q : Nat) (s : State) : State :=
  match s.queue c q with
  | none => s
  | some x =>
    if x.enabled && decide (x.w < x.d) && decide (x.rcd.timeoutMs * Config.ms ≤ s.now - x.heldSince) && x.progress == x.sample then
      let k := qkey c q
      let s := trace 13 0 c q x.w (s.modQ k (fun x => { x with heldSince := s.now }))
      let l : Latch := { status := .timeout, aux := x.rcd.timeoutMs }
      match x.cmd x.w with
      | some m =>
        if m.latch.isSome then s
        else if m.phase = .dispatched ∧ queuedTest k x.w s = false then s.modQ k (fun x => { x with timeouts := satInc 32 x.timeouts })
        else dropShadows (stopWork (fun k' pos => k' == k && pos == x.w) (takeLatch k x.w l.status l.aux s))
      | none =>
        dropItem 1 k x.w <| dropItem 0 k x.w <| s.modQ k (fun x =>
          if x.fetched.any (fun f => f.pos == x.w) then
            { x with fetched := x.fetched.map (fun f => if f.pos == x.w && f.latch.isNone then { f with latch := some l } else f) }
          else
            let fs := putFetched { pos := x.w, entry := [], latch := some l, ring := false } x.fetched
            { x with fetched := fs, f := skipTaken fs fs.length x.f })
    else s

def execQueueTimeout (c q : Nat) (s : State) : Out := .next (queueTimeout c q s)

end Sys2Proof.Machine
end

