-- ==== Sys2Proof/Machine/Image.lean ====
section
/-! DEFINITION. Program images: header, sections and seal block (R141 to R145), verification (R156, R157, R159), the
checks of a program against its arguments (R165), its worst-case table (R143, R216). -/

namespace Sys2Proof.Machine

/-! ### The header (R141) -/

def imLoopStep (b : List Byte) : Bool := bit (fld b 5 1) 0
def imShape (b : List Byte) : Nat := fld b 6 2
def imTextOff (b : List Byte) : Nat := fld b 16 4
def imTextLen (b : List Byte) : Nat := fld b 20 4
def imSideOff (b : List Byte) : Nat := fld b 24 4
def imSideLen (b : List Byte) : Nat := fld b 28 4
def imSides (b : List Byte) : Nat := fld b 32 2
def imArgs (b : List Byte) : Nat := fld b 34 2
def imArgOff (b : List Byte) : Nat := fld b 36 4
def imWcets (b : List Byte) : Nat := fld b 40 2
def imWcetOff (b : List Byte) : Nat := fld b 44 4
def imSeal (b : List Byte) : Nat := fld b 56 4

/-- Sections that are present, as ranges of the image. -/
def imSections (b : List Byte) : List (Nat × Nat) :=
  [(imTextOff b, imTextOff b + imTextLen b)] ++
  (if imSides b = 0 then [] else [(imSideOff b, imSideOff b + imSideLen b)]) ++
  (if imArgs b = 0 then [] else [(imArgOff b, imArgOff b + 8 * imArgs b)]) ++
  (if imWcets b = 0 then [] else [(imWcetOff b, imWcetOff b + 8 * imWcets b)])

/-- Ranges that do not overlap, pairwise. -/
def disjoint : List (Nat × Nat) → Bool
  | [] => true
  | a :: t => t.all (fun b => decide (a.2 ≤ b.1 ∨ b.2 ≤ a.1)) && disjoint t

/-- The header is legal (R141). -/
def okHeader (b : List Byte) : Bool :=
  decide (fld b 5 1 < 4) && okBenchCount Config.maxSlices (imShape b) && decide (fld b 12 4 ≠ 0) &&
  decide (imTextOff b % 16 = 0 ∧ imTextLen b % 16 = 0 ∧ 16 ≤ imTextLen b ∧ imTextLen b ≤ 16 * 2 ^ 20) &&
  (if imSides b = 0 then decide (imSideOff b = 0 ∧ imSideLen b = 0)
   else decide (imSideOff b % 32 = 0 ∧ imSideLen b % 32 = 0 ∧ imSides b ≤ 4096)) &&
  decide (imArgs b ≤ 256) && (if imArgs b = 0 then decide (imArgOff b = 0) else decide (imArgOff b % 8 = 0)) &&
  decide (imWcets b ≤ 32) && (if imWcets b = 0 then decide (imWcetOff b = 0) else decide (imWcetOff b % 8 = 0)) &&
  decide (fld b 42 2 = 0 ∧ 1 ≤ fld b 48 4 ∧ imSeal b % 16 = 0) && allZero (slice b 64 64) &&
  (imSections b).all (fun r => decide (128 ≤ r.1 ∧ r.2 ≤ imSeal b)) && disjoint (imSections b)

/-- Declaration i of the argument section (R142). -/
structure ArgDecl where
  kind : Nat
  optional : Bool
  read : Bool
  write : Bool
  dtype : Nat
  minPages : Nat
  deriving DecidableEq, Repr

def argDecl (b : List Byte) (i : Nat) : ArgDecl :=
  let o := imArgOff b + 8 * i
  { kind := fld b o 1, optional := bit (fld b (o + 1) 1) 0, read := bit (fld b (o + 1) 1) 1,
    write := bit (fld b (o + 1) 1) 2, dtype := fld b (o + 2) 1, minPages := fld b (o + 4) 4 }

/-- Declaration i is legal (R142). -/
def okDecl (b : List Byte) (i : Nat) : Bool :=
  let d := argDecl b i
  decide (d.kind ≤ 1) && decide (fld b (imArgOff b + 8 * i + 1) 1 < 8) && decide (fld b (imArgOff b + 8 * i + 3) 1 = 0) &&
  (if d.kind = 0 then decide (d.dtype = 0) else (decide (d.dtype = 0) || (dtypeBits d.dtype).isSome))

/-- Offset of side entry i relative to the side section (R144). -/
def sideEntry (b : List Byte) (i : Nat) : Nat := fld b (imSideOff b + 4 * i) 4

/-- The entry table of the side section is legal (R144). -/
def okSides (b : List Byte) : Bool :=
  let first := roundUp (4 * imSides b) 32
  (List.range (imSides b)).all (fun i =>
    let o := sideEntry b i
    decide (o % 32 = 0 ∧ first ≤ o ∧ o + 32 ≤ imSideLen b))

/-- The seal block is legal (R145). -/
def okSealBlock (b : List Byte) : Bool :=
  let o := imSeal b
  decide (fld b o 2 = 1 ∧ fld b (o + 2) 2 = 0) && allZero (slice b (o + 8) 56)

/-- Entry i of the worst-case section: max_sequences and cycles (R143). -/
def wcet (b : List Byte) (i : Nat) : Nat × Nat := (fld b (imWcetOff b + 8 * i) 4, fld b (imWcetOff b + 8 * i + 4) 4)

/-- The worst-case table. -/
def wcets (b : List Byte) : List (Nat × Nat) := (List.range (imWcets b)).map (wcet b)

/-- The worst-case section meets R143, above a bound on max_sequences. -/
def okWcets (maxCycles : Nat) : Nat → List (Nat × Nat) → Bool
  | _, [] => true
  | lo, e :: t => decide (lo < e.1 ∧ e.1 ≤ 4096 ∧ e.2 ≤ maxCycles) && okWcets maxCycles e.1 t

/-- Order 2 of R157. -/
def okImage (b : List Byte) : Bool :=
  okHeader b && decide (b.length = imSeal b + 128) && (List.range (imArgs b)).all (okDecl b) && okSides b && okSealBlock b

/-- The loaded seal key of an identifier. -/
def sealKey (id : Nat) (s : State) : Option SealKey := (s.hub.sealSlots.find? (fun e => e.2.keyId == id)).map (·.2)

/-- The seal's signature is valid under a key (R145). -/
def sealValid (b : List Byte) (k : SealKey) : Bool :=
  let o := imSeal b
  ecdsaOk curve256 (beNat (sha256 (b.take (o + 64)))) (fld b (o + 64) 32) (fld b (o + 96) 32) k.qx k.qy

/-- The aux of the first check of R157 that fails; none where the image verifies. -/
def verifyImage (b : List Byte) (s : State) : Option Nat :=
  if fld b 0 4 ≠ 0x324E5950 ∨ fld b 4 1 ≠ 2 then some 1
  else if okImage b = false then some 2
  else match (if fld b 12 4 = fld b (imSeal b + 4) 4 then sealKey (fld b 12 4) s else none) with
  | none => some 3
  | some k =>
    if sealValid b k = false then some 4
    else if fld b 8 4 ≠ s.integ.latencyTableId then some 5
    else if ¬ (fld b 52 1 ≤ 32 ∧ fld b 53 1 ≤ 32 ∧ fld b 54 1 ≤ 16 ∧ fld b 55 1 ≤ 16) then some 6
    else if okBenchCount s.integ.slices (imShape b) = false ∨ okWcets (fld b 48 4) 0 (wcets b) = false then some 7
    else none

/-- The refusal of an image: no room in the program store (R159), or a check of R157; none where it passes. -/
def imageRefusal (b : List Byte) (s : State) : Option (Status × Nat) :=
  if Config.programStore < s.storeUsed + b.length then some (.noMemory, 3)
  else (verifyImage b s).map (fun a => (.verifyReject, a))

/-- Version 1 of a graph, or a later one, built from an image object (R51); the version it replaces, where nothing is bound to it,
is freed with its cached lines (R52, R166). -/
def addVersion (g imageKey : Nat) (b : List Byte) (s : State) : State :=
  let gv : GraphVers := tgetD s.graphs g { current := 0, versions := [] }
  let v : Version := { num := gv.current + 1, image := b, imageKey := imageKey, bound := 0 }
  let old := gv.versions.filter (fun w => w.num == gv.current && w.bound == 0)
  let keep := gv.versions.filter (fun w => !(w.num == gv.current && w.bound == 0))
  let s := addRef imageKey { s with graphs := tset s.graphs g { current := v.num, versions := keep ++ [v] } }
  old.foldl (fun s w => dropRefMem w.imageKey s) (dropLines g (fun n => old.any (fun w => w.num == n)) s)

/-- The current version's number and image. -/
def currentImage (g : Nat) (s : State) : Option (Nat × List Byte) :=
  (tget s.graphs g).bind (fun x => (x.versions.find? (fun v => v.num == x.current)).map (fun v => (v.num, v.image)))

/-- The image of a version. -/
def versionImage (g ver : Nat) (s : State) : List Byte :=
  (((tget s.graphs g).bind (fun x => x.versions.find? (fun v => v.num == ver))).map (·.image)).getD []

/-! ### Arguments (R165) -/

/-- The memory object that an argument handle reaches. -/
def argMem (c h : Nat) (s : State) : Option MemObj := (bindArg c h s).map (·.mem)

/-- Kind and dtype of a handle match a declaration (order 4 of R165). -/
def declMatches (c h : Nat) (d : ArgDecl) (s : State) : Bool :=
  if h = 0 then d.optional
  else decide (hKind h = d.kind) &&
    (match (tget s.objects (objKey c (hIndex h))).map Obj.body with
     | some (ObjBody.tensor t) => decide (d.dtype = 0 ∨ d.dtype = t.dtype)
     | _ => true)

/-- Rights and size of a slot's memory object satisfy a declaration (order 5 of R165). -/
def declGranted (c h : Nat) (d : ArgDecl) (s : State) : Bool :=
  if h = 0 then true
  else match argMem c h s with
    | none => false
    | some m => (!d.read || m.read) && (!d.write || m.write) && decide (d.minPages * 4096 ≤ m.size)

/-- The first failure of orders 3 to 5 of R165 for an image and its argument handles; countAux names arg_count. -/
def argsRefusal (c : Nat) (b : List Byte) (args : List Nat) (countAux : Nat) (s : State) : Option (Status × Nat) :=
  if args.length < imArgs b then some (.malformed, countAux)
  else
    let slots := (args.take (imArgs b)).zipIdx
    match slots.find? (fun e => !declMatches c e.1 (argDecl b e.2) s) with
    | some e => some (.malformed, 0x1000 + 4 * e.2)
    | none => (slots.find? (fun e => !declGranted c e.1 (argDecl b e.2) s)).map (fun e => (.access, 0x1000 + 4 * e.2))

/-- The test of R216 for a batch of b sequences. -/
def rtAllowed (img : List Byte) (mhz deadline b : Nat) : Bool :=
  match (wcets img).find? (fun e => decide (b ≤ e.1)) with
  | none => false
  | some e => decide (e.2 + 4 * mhz ≤ deadline * mhz)

end Sys2Proof.Machine
end

