-- ==== Sys2Proof/Machine/Accept.lean ====
section
/-! DEFINITION. Acceptance (R105 to R108, R503): handle checks and caching (R39, R43, R47, R50), the dependency list,
operands, the opcodes' state checks, pins and wait entries (R54, R55, R125, R126), and verification before launch (R51). -/

namespace Sys2Proof.Machine

/-- Why an acceptance does not finish: refused with status and aux (R106), a host read is needed (R108, R503), or a graph
has to be verified first (R51). -/
inductive Stop where
  | refuse (st : Status) (aux : Nat)
  | read (l : Loc) (n aux : Nat)
  | verify (g aux : Nat)
  deriving DecidableEq, Repr

/-- What an acceptance has gathered: the state with the entries it caches, the command, the reads made so far, the pins it
holds already, the objects to pin, argument handles, waits, signals and the fences its operands name. -/
structure AccEnv where
  s : State
  c : Nat
  q : Nat
  x : CtxRec
  e : List Byte
  reads : List (Loc × List Byte)
  held : List Nat
  pins : List Nat
  args : List Nat
  waits : List FenceRef
  signals : List FenceRef
  fences : List FenceRef

/-- Acceptance as a computation that may stop. -/
abbrev Acc (α : Type) : Type := ExceptT Stop (StateM AccEnv) α

/-- The entry is refused (R106). -/
def refuse {α : Type} (st : Status) (aux : Nat) : Acc α := throw (.refuse st aux)

/-- A check of R105. -/
def need (b : Bool) (st : Status) (aux : Nat) : Acc Unit := if b then pure () else refuse st aux

/-- A read of acceptance, made once: from device memory at once, from host memory through the host fabric port. -/
def readA (l : Loc) (n aux : Nat) : Acc (List Byte) := do
  let v ← get
  match v.reads.find? (fun r => r.1 == l && r.2.length == n) with
  | some r => pure r.2
  | none =>
    if l.space = .host then throw (.read l n aux)
    else
      let b := memRead l n v.s
      set { v with reads := v.reads ++ [(l, b)] }
      pure b

/-- An object is to be pinned, once however often the command names it (R54). -/
def pinA (key : Nat) : Acc Unit :=
  modify (fun v => if v.pins.contains key then v else { v with pins := v.pins ++ [key] })

/-- A cached entry just read. -/
def Obj.fresh (tag : Nat) (b : ObjBody) : Obj :=
  { tag := tag, body := b, freePending := false, release := none, freer := 0, freerTag := 0, freerAt := (0, 0), pins := 0, refs := 0 }

def cacheA (key tag : Nat) (b : ObjBody) : Acc Unit :=
  modify (fun v => { v with s := { v.s with objects := tset v.s.objects key (Obj.fresh tag b) } })

/-- Kind of a cached object (R40). -/
def Obj.kind (o : Obj) : Nat :=
  match o.body with
  | .mem _ => 0
  | .tensor _ => 1
  | .graph _ => 2

/-- Checks 1 to 4 of R39: the cached object, or the entry's bytes where it is not cached. An object this command has pinned
for a verification serves it on although it has been marked FREE_PENDING since (R51). -/
def headA (h aux : Nat) : Acc (Option Obj × List Byte) := do
  let v ← get
  need (decide (hKind h ≠ 3 ∧ hIndex h ≠ 0 ∧ hIndex h < 2 ^ v.x.objLog2)) .malformed aux
  let key := objKey v.c (hIndex h)
  match tget v.s.objects key with
  | some o =>
    need (decide (o.kind = hKind h ∧ o.tag = hTag h)) .stale aux
    need (!o.freePending || v.held.contains key) .stale aux
    pure (some o, [])
  | none =>
    let b ← readA (entryLoc v.x (hIndex h)) 64 aux
    need (decide (fld b 2 1 = 1 ∧ fld b 1 1 = hKind h ∧ bits (fld b 4 2) 9 0 = hTag h)) .stale aux
    pure (none, b)

/-- A device-backed object lies inside its tenant's arena of that tier (R43). -/
def inArena (c : Nat) (m : MemObj) (s : State) : Bool :=
  match m.space, tenantRec s c with
  | .host, _ => true
  | .fast, some t => decide (t.fastBase ≤ m.addr ∧ m.addr + m.size ≤ t.fastBase + t.fastSize)
  | .slow, some t => decide (t.slowBase ≤ m.addr ∧ m.addr + m.size ≤ t.slowBase + t.slowSize)
  | _, none => false

/-- The device range of an object overlaps no cached object of the context (R43). -/
def vaFree (c : Nat) (m : MemObj) (s : State) : Bool :=
  s.objects.all (fun e => match e.2.body with
    | .mem o => decide (e.1 / 2 ^ 20 ≠ c ∨ o.devVa + o.size ≤ m.devVa ∨ m.devVa + m.size ≤ o.devVa)
    | _ => true)

/-- A handle of a memory object (R39, R43): its key, pinned. -/
def memA (h aux : Nat) : Acc Nat := do
  need (decide (hKind h = 0 ∨ hKind h = 3)) .malformed aux
  let (o, b) ← headA h aux
  let v ← get
  let key := objKey v.c (hIndex h)
  match o with
  | some _ => pure ()
  | none =>
    match parseObj (ctxLoc v.x) b with
    | some (.mem m) =>
      need (inArena v.c m v.s && vaFree v.c m v.s) .access aux
      cacheA key (hTag h) (.mem m)
    | _ => refuse .malformed aux
  pinA key
  pure key

/-- A handle of a tensor descriptor (R39, R47, R57): its key, pinned with its memory object. A command that names a
descriptor cached since before its memory object was released finds the memory object's handle stale (DESIGN CHOICE, log
90: R57 speaks of a command that caches the entry). -/
def tensorA (h aux : Nat) : Acc Nat := do
  let (o, b) ← headA h aux
  let v ← get
  let key := objKey v.c (hIndex h)
  match o.map Obj.body with
  | some (ObjBody.tensor t) =>
    let _ ← memA t.memHandle aux
    pure ()
  | some _ => pure ()
  | none =>
    match parseObj (ctxLoc v.x) b with
    | some (.tensor mh dt off nd) =>
      let mk ← memA mh aux
      let v ← get
      let size := match (tget v.s.objects mk).map Obj.body with
        | some (ObjBody.mem m) => m.size
        | _ => 0
      need (decide (nd ≤ size)) .access aux
      cacheA key (hTag h) (.tensor { memKey := mk, memHandle := mh, dtype := dt, byteOffset := off })
    | _ => refuse .malformed aux
  pinA key
  pure key

/-- Checks of R39 on a graph handle, its entry's own fields included, without caching it. -/
def graphHandleA (h aux : Nat) : Acc Unit := do
  need (decide (hKind h = 2 ∨ hKind h = 3)) .malformed aux
  let (o, b) ← headA h aux
  let v ← get
  match o with
  | some _ => pure ()
  | none => need (parseObj (ctxLoc v.x) b).isSome .malformed aux

/-- An image range lies inside its object, which grants the program right (R50). -/
def imageOk (key off len : Nat) (s : State) : Bool :=
  match (tget s.objects key).map Obj.body with
  | some (ObjBody.mem m) => m.prog && decide (off + len ≤ m.size)
  | _ => false

/-- A graph is cached, pinned with its image object, and has a version; without one its verification is due (R50, R51). -/
def graphA (h aux : Nat) : Acc Nat := do
  graphHandleA h aux
  let (o, b) ← headA h aux
  let v ← get
  let key := objKey v.c (hIndex h)
  match o.map Obj.body with
  | some (ObjBody.graph g) =>
    pinA key
    if (tget v.s.graphs key).isSome then
      match tget v.s.objects g.imageKey with
      | some im => if im.tag = hTag g.imageHandle ∧ im.kind = 0 then pinA g.imageKey else pure ()
      | none => pure ()
    else
      let ik ← memA g.imageHandle aux
      let v ← get
      need (imageOk ik g.imageOffset g.imageLength v.s) .access aux
  | some _ => pure ()
  | none =>
    match parseObj (ctxLoc v.x) b with
    | some (.graph ih off len) =>
      let ik ← memA ih aux
      let v ← get
      need (imageOk ik off len v.s) .access aux
      cacheA key (hTag h) (.graph { imageKey := ik, imageHandle := ih, imageOffset := off, imageLength := len })
      pinA key
    | _ => refuse .malformed aux
  let v ← get
  if (tget v.s.graphs key).isNone then throw (.verify key aux) else pure key

/-- A handle of any kind (R39). -/
def anyA (h aux : Nat) : Acc Nat :=
  if hKind h = 1 then tensorA h aux else if hKind h = 2 then graphA h aux else memA h aux

/-- A range of an object with a right, or ST_ACCESS (step 8 of R105). -/
def rangeA (key off n : Nat) (right : MemObj → Bool) (aux : Nat) : Acc Loc := do
  let v ← get
  match memOfKey key v.s with
  | some m =>
    need (right m && decide (off + n ≤ m.size)) .access aux
    pure (m.at_ off)
  | none => refuse .access aux

/-- A fence word overlaps a shadow of the other width (R48). -/
def fenceClash (l : Loc) (compact : Bool) (s : State) : Bool :=
  s.bramble.shadows.any (fun x => (x.loc.space == l.space) && (x.compact != compact) &&
    decide (x.loc.addr < l.addr + fenceBytes compact ∧ l.addr < x.loc.addr + fenceBytes x.compact))

/-- A fence of an object at an offset (R48); the word is read where no shadow stands for it (R49). A read that fails gives
ST_ACCESS with aux the field of the fence's handle (DESIGN CHOICE, log 91: R503 does not list this read). -/
def fenceA (key off value : Nat) (compact : Bool) (aux haux : Nat) : Acc FenceRef := do
  need (decide (off % fenceBytes compact = 0)) .access aux
  let l ← rangeA key off (fenceBytes compact) (·.fence) aux
  let v ← get
  need (!fenceClash l compact v.s) .access aux
  if l.space = .host ∧ (v.s.shadow l compact).isNone then
    let _ ← readA l (fenceBytes compact) haux
    pure ()
  let va := match memOfKey key v.s with
    | some m => m.devVa + off
    | none => 0
  pure { loc := l, compact := compact, value := value, va := va }

/-- One fence reference of the dependency list (step 6 of R105). -/
def fenceRefA (b : List Byte) (i : Nat) : Acc FenceRef := do
  let v ← get
  let r := slice b (16 * i) 16
  let a := 0x100 + 16 * i
  let key ← memA (fld r 0 4) a
  let f ← fenceA key (fld r 4 4) (fld r 8 8) (eCompact v.e) (a + 4) a
  need (!eCompact v.e || decide (fld r 8 8 < 2 ^ 32)) .malformed (a + 8)
  pure f

/-- Fence references i, i + 1, … of the list. -/
def fenceRefsA (b : List Byte) : Nat → Nat → Acc (List FenceRef)
  | _, 0 => pure []
  | i, n + 1 => do
    let f ← fenceRefA b i
    let t ← fenceRefsA b (i + 1) n
    pure (f :: t)

/-- Steps 4 to 6 of R105. -/
def depsA : Acc Unit := do
  let v ← get
  let n := eWaits v.e + eSignals v.e
  if n = 0 then pure ()
  else
    let key ← memA (eDepHandle v.e) 8
    let l ← rangeA key (eDepOffset v.e) (16 * n) (·.read) 12
    let b ← readA l (16 * n) 8
    let fs ← fenceRefsA b 0 n
    modify (fun v => { v with waits := fs.take (eWaits v.e), signals := fs.drop (eWaits v.e) })

/-- The handles of an argument table, in table order (step 7 of R105). -/
def argHandlesA : Nat → List Nat → Acc Unit
  | _, [] => pure ()
  | i, h :: t => do
    if h ≠ 0 then
      need (decide (hKind h ≠ 2)) .malformed (0x1000 + 4 * i)
      let _ ← anyA h (0x1000 + 4 * i)
    argHandlesA (i + 1) t

/-- An argument table: its range and right, its read, its handles. -/
def argTableA (key off count rangeAux readAux : Nat) : Acc Unit := do
  let l ← rangeA key off (4 * count) (·.read) rangeAux
  let b ← readA l (4 * count) readAux
  let hs := (List.range count).map (fun i => fld b (4 * i) 4)
  modify (fun v => { v with args := hs })
  argHandlesA 0 hs

/-! ### State checks of the serving-loop operations -/

/-- The loop of an identifier that is open in a context (R114). -/
def ctxLoop (l c : Nat) (s : State) : Option Loop := (tget s.trestle.loops l).filter (fun x => x.ctx == c)

/-- The loop is OPEN in the context and takes admissions (R114, R199, R395). -/
def loopOpenIn (l c : Nat) (s : State) : Bool :=
  match ctxLoop l c s with
  | some x => !x.draining && x.replay.isNone
  | none => false

/-- A live sequence of a sequence_id (R58). -/
def liveSeq (id : Nat) (s : State) : Option (Nat × Seq) :=
  match tget s.trestle.seqs (id % 2 ^ 18) with
  | some q => if q.seqId = id then some (id % 2 ^ 18, q) else none
  | none => none

def tenantLoops (t : Option Nat) (s : State) : Nat := s.trestle.loops.countP (fun e => some e.2.tenant == t)
def tenantSeqs (t : Option Nat) (s : State) : Nat := s.trestle.seqs.countP (fun e => some e.2.tenant == t)

/-- The limit of R59 that a new loop breaks. -/
def loopLimit (c : Nat) (s : State) : Option Nat :=
  if Config.maxLoops ≤ s.trestle.loops.length then some 1
  else if ((tenantRec s c).map (·.maxLoops)).getD 0 ≤ tenantLoops (s.tenantOf c) s then some 2 else none

/-- The limit of R59 that n new sequences break. -/
def seqLimit (c : Nat) (s : State) : Option Nat :=
  if Config.maxSequences ≤ s.trestle.seqs.length then some 1
  else if ((tenantRec s c).map (·.maxSequences)).getD 0 ≤ tenantSeqs (s.tenantOf c) s then some 2 else none

/-- The lowest offset of the pool of R211 where an area of n bytes fits. -/
def areaFit (n : Nat) (s : State) : Option Nat :=
  let used := s.trestle.loops.map (fun e => (e.2.batchOff, e.2.batchOff + 2 * e.2.slotBytes))
  let cands := 0 :: used.map (·.2)
  let ok := cands.filter (fun o => decide (o + n ≤ Config.batchPool) &&
    used.all (fun r => decide (o + n ≤ r.1 ∨ r.2 ≤ o)))
  match ok with
  | [] => none
  | a :: t => some (t.foldl min a)

/-- The model of a tenant and key (R253). -/
def modelOf (t : Option Nat) (key : Nat) (s : State) : Option (Nat × Model) :=
  s.wrd.models.find? (fun e => some e.2.tenant == t && e.2.key == key)

/-- The status of orders 4 to 11 of R197, made over a graph with a version. replay: order 9 is skipped (R394). -/
def loopRefusal (c g : Nat) (p : LoopParams) (args : List Nat) (replay : Bool) (s : State) : Option (Status × Nat) :=
  let img := ((currentImage g s).map (·.2)).getD []
  let quota := ((tenantRec s c).map (·.benchQuota)).getD 0
  let rt := ctxCls s c == .rt
  if imLoopStep img = false then some (.malformed, 0x2004)
  else if p.benchCount ≠ imShape img then some (.malformed, 0x2002)
  else match argsRefusal c img args 0x200C s with
  | some r => some r
  | none =>
    if quota < p.benchCount then some (.access, 0x2002)
    else if p.modelKey ≠ 0 ∧ modelOf (s.tenantOf c) p.modelKey s = none then some (.stale, 0x2018)
    else if !replay && ((p.deadlineUs != 0) != rt) then some (.malformed, 0x2030)
    else if !replay && ((p.rtMhz != 0) != rt) then some (.malformed, 0x2034)
    else if !replay && rt && !rtAllowed img p.rtMhz p.deadlineUs 1 then some (.malformed, 0x2030)
    else match loopLimit c s with
    | some a => some (.noMemory, a)
    | none => if (areaFit (2 * slotSize p) s).isNone then some (.noMemory, 4) else none

/-- The payload of a Journal record (R391). -/
def jPayload (r : List Byte) : List Byte := slice r 28 36

/-- Record i of a recorded window. -/
def windowRecord (w : List Byte) (i : Nat) : List Byte := slice w (64 * i) 64

/-- Fields of a Journal record (R391). -/
def jType (r : List Byte) : Nat := fld r 1 1
def jSeq (r : List Byte) : Nat := fld r 8 8
def jStep (r : List Byte) : Nat := fld r 16 8
def jPart (r : List Byte) : Nat := fld r 24 1
def jItems (r : List Byte) : Nat := fld r 25 1

/-- A record at its place in the window is one that a replay may read (R396 kind 2). -/
def okRecord (r : List Byte) (k : Nat) : Bool :=
  decide (jSeq r = k) && decide (1 ≤ jType r ∧ jType r ≤ 0x0C ∧ jType r ≠ 0x0B)

/-- A window begins with the six parts of a LOOP record (R392). -/
def hasLoopRecord (w : List Byte) : Bool :=
  (List.range 6).all (fun i => okRecord (windowRecord w i) i && decide (jType (windowRecord w i) = 1))

/-- Part 4 of a LOOP record (R392): the digest of the image and the latency tables. -/
def loopPart4 (img : List Byte) (s : State) : List Byte := sha256 img ++ le 4 s.integ.latencyTableId

/-- The environment of a window equals this one's (R394 check 3): that of its LOOP record, which its first six records hold. -/
def sameEnv (w img : List Byte) (ver : Nat) (s : State) : Bool :=
  let p4 := jPayload (windowRecord w 4)
  let p5 := jPayload (windowRecord w 5)
  decide (slice p4 0 36 = loopPart4 img s) && decide (fld p5 0 4 = s.mgmt.fwVersion ∧ fld p5 4 4 = s.mgmt.patchLevel ∧
    fld p5 8 4 = ver ∧ fld p5 12 1 = s.wrd.pageLog2)

/-- The state checks of R197 on a parameter record; replay: with the exceptions of R394. -/
def loopOpenA (b : List Byte) (replay : Bool) : Acc Unit := do
  let v ← get
  match parseLoopParams v.s.integ.slices b with
  | .error k => refuse .malformed (0x2000 + k)
  | .ok p =>
    graphHandleA p.graphHandle 0x2004
    let ak ← (if p.argCount = 0 then pure 0 else memA p.argHandle 0x2008)
    if p.journal then
      let _ ← memA p.jnlHandle 0x203C
    if p.argCount ≠ 0 then argTableA ak p.argOffset p.argCount 0x2010 0x2008
    let g ← graphA p.graphHandle 0x2004
    let v ← get
    match loopRefusal v.c g p v.args replay v.s with
    | some r => refuse r.1 r.2
    | none => pure ()

/-- A recorded parameter record with the fields that R394 ignores cleared. -/
def replayParams (b : List Byte) : List Byte :=
  b.take 1 ++ [BitVec.ofNat 8 (fld b 1 1 / 4 * 4 + fld b 1 1 % 2)] ++ slice b 2 46 ++ zeros 6 ++ slice b 54 6 ++ zeros 13 ++ slice b 73 55

/-- The parameter record that a window's first records hold (R392). -/
def windowParams (w : List Byte) : List Byte :=
  (((List.range 4).map (fun i => jPayload (slice w (64 * i) 64))).flatten).take 128

/-- Pages an admission of R204 starts with. -/
def prefixPages (a : AdmitRec) (src : Option Seq) (tpp : Nat) : Nat :=
  match src with
  | some q => min (a.prefixTokens / tpp) (q.kvTokens / tpp)
  | none => 0

/-- The source of a prefix (R204): a live sequence of the loop. -/
def prefixSource (l : Nat) (a : AdmitRec) (s : State) : Option Seq :=
  if a.sharePrefix then ((liveSeq a.prefixSource s).filter (fun e => e.2.loopId == l)).map (·.2) else none

/-- Orders 6 to 8 of R202. -/
def admitRefusal (c l : Nat) (a : AdmitRec) (s : State) : Option (Status × Nat) :=
  match tget s.trestle.loops l with
  | none => none
  | some lp =>
    let src := prefixSource l a s
    let tpp := lp.params.tokensPerPage
    if a.sharePrefix && src.isNone then some (.stale, 0x3024)
    else if ctxCls s c = .rt ∧ ((tenantRec s c).map (·.maxKvFrames)).getD 0 <
        ceilDiv (a.promptTokens + a.maxNew) tpp - prefixPages a src tpp then some (.noMemory, 5)
    else (seqLimit c s).map (fun x => (.noMemory, x))

/-- The state checks of OP_LOOP_ADMIT (R114, R202). -/
def admitA (l key : Nat) : Acc Unit := do
  let v ← get
  need (loopOpenIn l v.c v.s) .stale 16
  need (decide (v.s.power.level < 2)) .shed v.s.power.level
  let loc ← rangeA key (fld v.e 24 8) 128 (·.read) 24
  let b ← readA loc 128 20
  match parseAdmit b with
  | .error k => refuse .malformed (0x3000 + k)
  | .ok a =>
    let pk ← memA a.promptHandle 0x3004
    let ok ← memA a.outHandle 0x302C
    let fk ← memA a.fenceHandle 0x3038
    let _ ← rangeA pk a.promptOffset (4 * a.promptTokens) (·.read) 0x3008
    let _ ← rangeA ok a.outOffset (64 + 4 * 2 ^ a.outLog2) (·.write) 0x3030
    let f ← fenceA fk a.fenceOffset 0 false 0x303C 0x3038
    modify (fun v => { v with fences := v.fences ++ [f] })
    let v ← get
    let cur := match v.s.shadow f.loc false with
      | some x => x.value
      | none => match v.reads.find? (fun r => r.1 == f.loc && r.2.length == 8) with
        | some r => leNat r.2
        | none => v.s.fenceValue f.loc false
    need (decide (cur = 0)) .malformed 0x303C
    match admitRefusal v.c l a v.s with
    | some r => refuse r.1 r.2
    | none => pure ()

/-- The loop or sequence that a cancel names (R58, R114, R205). -/
def cancelRefusal (c : Nat) (e : List Byte) (s : State) : Option (Status × Nat) :=
  let l := fld e 16 2
  let id := fld e 20 4
  if (match ctxLoop l c s with | some x => x.replay.isSome | none => true) then some (.stale, 16)
  else if id = 0xFFFFFFFF then none
  else match liveSeq id s with
    | some q => if q.2.loopId = l then none else some (.stale, 20)
    | none => some (.stale, 20)

/-- The state checks of R254 on OP_MODEL_LOAD. The rule does not say whether check 3 holds for a swap-mode context, whose model uses no
frames: here it does not (DESIGN CHOICE, log 127). -/
def modelRefusal (c : Nat) (e : List Byte) (s : State) : Option (Status × Nat) :=
  if (modelOf (s.tenantOf c) (fld e 16 8) s).isSome then some (.malformed, 16)
  else if Config.maxModels ≤ s.wrd.models.length then some (.noMemory, 1)
  else if !ctxSwap s c && decide (s.wrd.maxFrames < ceilDiv (fld e 40 8) (pageBytes s)) then some (.noMemory, 6)
  else none

/-- What OP_ABORT refuses whenever it is examined (R97). -/
def abortRefusal (c q pos : Nat) (e : List Byte) (s : State) : Option (Status × Nat) :=
  let t := fld e 16 1
  let n := ((tget s.contexts c).map (fun x => x.rcd.queueCount)).getD 0
  if n ≤ t ∨ (queueAt c t s).everEnabled = false then some (.malformed, 16)
  else if t = q ∧ fld e 24 8 = pos + 1 then some (.malformed, 24)
  else none

def refusalA (r : Option (Status × Nat)) : Acc Unit :=
  match r with
  | some x => refuse x.1 x.2
  | none => pure ()

/-- Steps 7 to 9 of R105 for each opcode. -/
def opcodeA (pos : Nat) : Acc Unit := do
  let v ← get
  let e := v.e
  let op := eOp e
  if op ≤ 2 then pure ()
  else if op = 3 then
    let sk ← memA (fld e 16 4) 16
    let dk ← memA (fld e 20 4) 20
    let _ ← rangeA sk (fld e 24 8) (fld e 40 8) (·.read) 24
    let _ ← rangeA dk (fld e 32 8) (fld e 40 8) (·.write) 32
  else if op = 4 then
    let dk ← memA (fld e 16 4) 16
    let _ ← rangeA dk (fld e 24 8) (fld e 32 8) (·.write) 24
  else if op = 5 then
    graphHandleA (fld e 16 4) 16
    if fld e 32 2 ≠ 0 then
      let ak ← memA (fld e 20 4) 20
      argTableA ak (fld e 24 8) (fld e 32 2) 24 20
    need (decide (fld e 34 2 ≤ ((tenantRec v.s v.c).map (·.benchQuota)).getD 0)) .access 34
    let g ← graphA (fld e 16 4) 16
    let v ← get
    let img := ((currentImage g v.s).map (·.2)).getD []
    need (!imLoopStep img) .malformed 16
    need (decide (fld e 34 2 = imShape img)) .malformed 34
    refusalA (argsRefusal v.c img v.args 32 v.s)
  else if op = 6 then
    graphHandleA (fld e 16 4) 16
    let ik ← memA (fld e 20 4) 20
    let _ ← rangeA ik (fld e 24 8) (fld e 32 8) (·.prog) 24
    let _ ← graphA (fld e 16 4) 16
  else if op = 8 then
    let pk ← memA (fld e 16 4) 16
    let rk ← memA (fld e 20 4) 20
    let l ← rangeA pk (fld e 24 8) 128 (·.read) 24
    let _ ← rangeA rk (fld e 32 8) 8 (·.write) 32
    let b ← readA l 128 16
    loopOpenA b false
  else if op = 9 then
    let ak ← memA (fld e 20 4) 20
    let rk ← memA (fld e 32 4) 32
    let _ ← rangeA ak (fld e 24 8) 128 (·.read) 24
    let _ ← rangeA rk (fld e 40 8) 8 (·.write) 40
    admitA (fld e 16 2) ak
  else if op = 0x0A then refusalA (cancelRefusal v.c e v.s)
  else if op = 0x0B then need (loopOpenIn (fld e 16 2) v.c v.s) .stale 16
  else if op = 0x0C then
    let sk ← memA (fld e 24 4) 24
    let _ ← rangeA sk (fld e 32 8) (fld e 40 8) (·.read) 32
    refusalA (modelRefusal v.c e v.s)
  else if op = 0x0D ∨ op = 0x0E then need (modelOf (v.s.tenantOf v.c) (fld e 16 8) v.s).isSome .stale 16
  else if op = 0x10 then
    let _ ← anyA (fld e 16 4) 16
    if fld e 20 4 ≠ 0 then
      let fk ← memA (fld e 20 4) 20
      let f ← fenceA fk (fld e 24 4) (fld e 32 8) (eCompact e) 24 20
      modify (fun v => { v with fences := v.fences ++ [f] })
  else if op = 0x11 then
    need (decide (tget v.s.link.owners (fld e 16 2) = v.s.tenantOf v.c ∧ (v.s.tenantOf v.c).isSome = true)) .access 16
  else if op = 0x12 then
    if fld e 16 1 = 4 then
      let _ ← anyA (fld e 20 4) 20
    let rk ← memA (fld e 24 4) 24
    let _ ← rangeA rk (fld e 32 8) 64 (·.write) 32
  else if op = 0x13 then
    let bk ← memA (fld e 16 4) 16
    let _ ← rangeA bk (fld e 24 8) (fld e 32 8) (·.write) 24
  else if op = 0x14 then
    let rk ← memA (fld e 20 4) 20
    let _ ← rangeA rk (fld e 24 8) 8 (·.write) 24
    need (decide (v.x.fn = 0)) .access 1
  else if op = 0x15 then
    let dk ← memA (fld e 16 4) 16
    let _ ← rangeA dk (fld e 24 8) 8 (·.write) 24
  else if op = 0x16 then
    let rk ← memA (fld e 32 4) 32
    let _ ← rangeA rk (fld e 40 8) 8 (·.write) 40
    refusalA (abortRefusal v.c v.q pos e v.s)
  else
    let jk ← memA (fld e 16 4) 16
    let rk ← memA (fld e 20 4) 20
    let l ← rangeA jk (fld e 24 8) (fld e 32 8) (·.read) 24
    let _ ← rangeA rk (fld e 40 8) 8 (·.write) 40
    need (decide (fld e 32 8 % 64 = 0 ∧ 384 ≤ fld e 32 8)) .malformed 32
    need (decide (1 ≤ fld e 48 8)) .malformed 48
    let b ← readA l (fld e 32 8) 16
    loopOpenA (replayParams (windowParams b)) true
    let v ← get
    let (ver, img) := (currentImage (objKey v.c (hIndex (fld (windowParams b) 4 4))) v.s).getD (0, [])
    need (!hasLoopRecord b || sameEnv b img ver v.s) .replayDiverge 0

/-- The opcode may be carried by the generation and its capabilities are agreed (step 2 of R105, R110, R425). -/
def opAllowed (gen op : Nat) (s : State) : Bool :=
  match opRow op with
  | none => false
  | some r =>
    (match r.cap with | some b => bit s.hub.agreedCaps b | none => true) &&
    (decide (gen ≠ 1) || (r.gen1 && bit s.hub.agreedCaps capGen1))

/-- R105 in its order. -/
def acceptA (pos : Nat) : Acc Unit := do
  let v ← get
  let gen := eGen v.e
  need (decide (gen = 1 ∨ gen = 2)) .malformed 0
  need (opAllowed gen (eOp v.e) v.s) .unsupported (gen * 256 + eOp v.e)
  match entryBadField v.s.integ.slices v.e with
  | some k => refuse .malformed k
  | none => pure ()
  depsA
  opcodeA pos

/-! ### Outcome of an acceptance -/

/-- Cells that a read of n bytes fills: one packet; a longer read passes through it (R300; log 29). -/
def payloadCells (n : Nat) : Nat := min 64 (ceilDiv n 64)

/-- Bramble has the PAYLOAD cells that a read of n bytes for a command fills, or its request for them waits (R304, R308). -/
def askPayload (k pos n : Nat) (s : State) : Bool × State :=
  if n = 0 then (true, s) else askCells (itemReq 2 k (s.tenantOf (k / 256)) pos (payloadCells n) none) s

/-- Reads in device memory are made for the context and charged (R328), each once its cells are allocated (R308): those made. -/
def tierReads (k pos : Nat) : List (Loc × List Byte) → State → List (Loc × List Byte) × State
  | [], s => ([], s)
  | r :: t, s =>
    match askPayload k pos r.2.length s with
    | (false, s) => ([], s)
    | (true, s) =>
      let p := tierReads k pos t (fillItem 2 k pos (r.2.take 4096) (readFor (some (k / 256)) r.1 r.2.length s))
      (r :: p.1, p.2)

/-- Waits evaluated at acceptance (R122). -/
def waitsNow (ws : List FenceRef) (s : State) : List Wait :=
  ws.map (fun r => { ref := r, met := waitMet r.compact (s.fenceValue r.loc r.compact) r.value })

/-- Fences that get a shadow with these references. -/
def newShadows (rs : List FenceRef) (s : State) : Nat :=
  ((rs.map (fun r => (r.loc, r.compact))).eraseDups.filter (fun p => (s.shadow p.1 p.2).isNone)).length

/-- Objects of a list that hold no pin yet. -/
def freshPins (pins : List Nat) (s : State) : Nat :=
  pins.countP (fun k => match tget s.objects k with | some o => decide (o.pins = 0) | none => false)

/-- The limit of R55 admits the pins. -/
def pinsFit (pins : List Nat) (s : State) : Bool := decide (s.pinnedObjects + freshPins pins s ≤ Config.maxPins)

/-- The limits that one context's entries reach alone, and pins, admit a command (R55, R125). -/
def fitsOwn (c unmet : Nat) (pins : List Nat) (s : State) : Bool :=
  decide (s.ctxWaits c + unmet ≤ Config.maxContextWaits) && pinsFit pins s

/-- The wait entries and shadows shared by all contexts admit a command (R125). -/
def fitsShared (unmet shadows : Nat) (s : State) : Bool :=
  decide (s.waitsUsed + unmet ≤ Config.maxWaits) && decide (s.bramble.shadows.length + shadows ≤ Config.maxShadows)

def nextOrder (s : State) : State := { s with bramble := { s.bramble with nextOrder := s.bramble.nextOrder + 1 } }

/-- Pins a command does not hold yet are taken. -/
def pinNew (held pins : List Nat) (s : State) : State :=
  (pins.filter (fun k => !held.contains k)).foldl (fun s k => pin k s) s

/-- Bytes of fence words in a tier that the shadows of these references read (R49). -/
def shadowBytes (rs : List FenceRef) (s : State) : Nat :=
  (((rs.map (fun r => (r.loc, r.compact))).eraseDups.filter (fun p => (p.1.space != .host) && (s.shadow p.1 p.2).isNone)).map
    (fun p => fenceBytes p.2)).sum

/-- The command is held at its intake (R126, R306); it keeps its place among the held. -/
def holdCmd (k : Nat) (m : Cmd) (why : HoldCause) (reads : List (Loc × List Byte)) (s : State) : State :=
  match m.phase with
  | .held _ => s.modC k m.pos (fun m => { m with phase := .held why, reads := reads })
  | _ =>
    let o := s.bramble.nextOrder
    nextOrder (s.modC k m.pos (fun m => { m with phase := .held why, reads := reads, order := o }))

/-- The entry is accepted (R108, R122): objects cached and pinned, waits latched or registered, shadows created for every
fence it names (R49, R125), with cells for the words it reads in a tier (R308), its cells at the intake released (R312). behind:
entries held before it for shared wait entries and shadows come first (R126). -/
def commitAccept (k : Nat) (m : Cmd) (v : AccEnv) (behind : Bool) (s : State) : State :=
  let s := { s with objects := v.s.objects }
  let refs := v.waits ++ v.signals ++ v.fences
  let waits := waitsNow v.waits s
  let unmet := waits.countP (fun w => !w.met)
  let shadows := newShadows refs s
  if !fitsOwn v.c unmet v.pins s then holdCmd k m .own v.reads s
  else if !fitsShared unmet shadows s || (behind && decide (0 < unmet + shadows)) then holdCmd k m .shared v.reads s
  else
    let (granted, s) := askPayload k m.pos (shadowBytes refs s) s
    if !granted then holdCmd k m .cells v.reads s else
    let s := pinNew m.pins v.pins s
    let s := refs.foldl (fun s r => loadShadow (some v.c) r.loc r.compact s) s
    let s := if eOp m.entry = 5 then
        { s with contexts := tupd s.contexts v.c (fun x => { x with launchAt := s.now }) }
      else s
    let o := s.bramble.nextOrder
    let s := consumeItem 2 k m.pos (consumeItem 1 k m.pos s)
    trace 2 (eTag m.entry) v.c (k % 256) m.pos (nextOrder (s.modC k m.pos (fun m =>
      { m with phase := .accepted, reads := v.reads, waits := waits, signals := v.signals, fences := v.fences,
               pins := m.pins ++ v.pins.filter (fun x => !m.pins.contains x), args := v.args, order := o,
               acceptedAt := s.now })))

/-- The length of the image of a graph entry. -/
def imageLength (g : Option Obj) : Nat :=
  match g.map Obj.body with
  | some (ObjBody.graph b) => b.imageLength
  | _ => 0

/-- The image that the verification of a graph reads is asked for, where it lies in host memory (R51, R468). -/
def askImage (c : Nat) (g : Option Obj) (s : State) : State :=
  match g.map Obj.body with
  | some (ObjBody.graph b) =>
    match memOfKey b.imageKey s with
    | some im => if im.space = .host then readReq (s.tenantOf c) .hub (im.at_ b.imageOffset) b.imageLength s else s
    | none => s
  | _ => s

/-- A graph's verification begins (R51) once it has cells for the read of its image (R308): the graph and its image object are cached
and pinned, within the limit of R55. -/
def beginVerify (k : Nat) (m : Cmd) (v : AccEnv) (g aux : Nat) (s : State) : State :=
  let keys := match (tget v.s.objects g).map Obj.body with
    | some (ObjBody.graph b) => [g, b.imageKey]
    | _ => [g]
  let (granted, s) := askPayload k m.pos (imageLength (tget v.s.objects g)) s
  if !granted then holdCmd k m .cells v.reads s else
  let t := keys.foldl (fun s x => match tget s.objects x, tget v.s.objects x with
    | none, some o => { s with objects := tset s.objects x o }
    | _, _ => s) s
  if !pinsFit (keys.filter (fun x => !m.pins.contains x)) t then holdCmd k m .own v.reads s
  else
    let t := askImage v.c (tget v.s.objects g) (pinNew m.pins keys t)
    t.modC k m.pos (fun m => { m with phase := .verifying g aux, reads := v.reads,
                                      pins := m.pins ++ keys.filter (fun x => !m.pins.contains x) })

/-- The entry needs a payload: a dependency list, an argument table, a loop parameter or admission record, a recorded
window (R302). -/
def needsPayload (e : List Byte) : Bool :=
  decide (eWaits e ≠ 0 ∨ eSignals e ≠ 0 ∨ (eOp e = 5 ∧ fld e 32 2 ≠ 0) ∨ eOp e = 8 ∨ eOp e = 9 ∨ eOp e = 0x17)

/-- A read of acceptance is issued once its PAYLOAD cells are allocated (R308) and a read may be outstanding (R468);
until then the entry is held. -/
def issueRead (k : Nat) (m : Cmd) (reads : List (Loc × List Byte)) (l : Loc) (n aux : Nat) (s : State) : State :=
  if 1024 ≤ readsOut s then holdCmd k m .cells reads s
  else match askPayload k m.pos n s with
  | (false, s) => holdCmd k m .cells reads s
  | (true, t) =>
    readReq (t.tenantOf (k / 256)) .hub l n
      (t.modC k m.pos (fun m => { m with phase := .reading l n aux, reads := reads }))

/-- A command held for a limit of R125 or R55 has passed its checks. It ends through acceptance only (R126): it stays held although
a check that is made again fails (log 93). -/
def Cmd.passed (m : Cmd) : Bool :=
  match m.phase with
  | .held .own => true
  | .held .shared => true
  | _ => false

/-- A replay refused for its environment has its result word, of kind 1 (R394 check 3, R396; log 116). -/
def envResult (k : Nat) (m : Cmd) (st : Status) (v : AccEnv) (s : State) : State :=
  match st, memOfKey (objKey v.c (hIndex (fld m.entry 20 4))) v.s with
  | .replayDiverge, some o => addResult k m.pos (o.at_ (fld m.entry 40 8)) (replayWord 1 0) s
  | _, _ => s

/-- One attempt at acceptance of a command. While PAYLOAD is congested an entry that needs a payload makes no further read
(R306). -/
def tryAccept (behind : Bool) (k : Nat) (m : Cmd) (s : State) : State :=
  match tget s.contexts (k / 256) with
  | none => s
  | some x =>
    let v : AccEnv := { s := s, c := k / 256, q := k % 256, x := x.rcd, e := m.entry, reads := m.reads, held := m.pins,
                        pins := [], args := [], waits := [], signals := [], fences := [] }
    let (r, v) := (acceptA m.pos).run.run v
    let more := decide (m.reads.length < v.reads.length) || (match r with | .error (.read ..) => true | _ => false)
    if classCongested 2 s && needsPayload m.entry && more then holdCmd k m .cells m.reads s else
    let fresh := v.reads.drop m.reads.length
    let (made, s) := tierReads k m.pos fresh s
    if made.length < fresh.length then holdCmd k m .cells (m.reads ++ made) s else
    match r with
    | .ok _ => commitAccept k m v behind s
    | .error (.refuse st aux) => if m.passed then s else takeLatch k m.pos st aux (envResult k m st v s)
    | .error (.read l n aux) => issueRead k m v.reads l n aux s
    | .error (.verify g aux) => beginVerify k m v g aux s

/-- The command at the head of a queue's intake. -/
def Queue.intakeHead (q : Queue) : Option Cmd :=
  q.cmds.find? (fun m => m.latch.isNone && (match m.phase with
    | .accepted => false
    | .dispatched => false
    | _ => true))

/-- Why a command is held (R126). -/
def Cmd.hold (m : Cmd) : Option HoldCause :=
  match m.phase with
  | .held why => some why
  | _ => none

/-- Held commands in the order in which they were held (R126). -/
def heldCmds (s : State) : List (Nat × Cmd) :=
  sortBy (fun a b => decide (a.2.order < b.2.order)) (s.allCmds.filter (fun e => e.2.latch.isNone && e.2.hold.isSome))

/-- A command is held for the wait entries and shadows that all contexts share. -/
def sharedHeld (k pos : Nat) (s : State) : Bool := ((s.cmd k pos).bind Cmd.hold) == some .shared

/-- The sealed tenant in whose slots a context's work is served; none: unsealed work (R295). -/
def sealedOf (c : Nat) (s : State) : Option Nat :=
  (s.tenantOf c).filter (fun t => ((tget s.tenants t).map (fun x => x.slotOffset.isSome)).getD false)

/-- Entries and shadows that have become free go to held commands in order (R126), to those whose work the slot serves (R295): one that
still lacks shared entries keeps those behind it from taking any, one held by its own context or for cells does not. -/
def serveHeld (slot : Option Nat) : Bool → List (Nat × Cmd) → State → State
  | _, [], s => s
  | behind, (k, m) :: t, s =>
    let s := if sealedOf (k / 256) s = slot then tryAccept behind k m s else s
    serveHeld slot (behind || sharedHeld k m.pos s) t s

/-- A command whose read or verification has ended is examined again, after the held ones that the same slot serves: what has become free
is theirs (R126, R295). -/
def acceptAgain (k pos : Nat) (s : State) : State :=
  let s := serveHeld (sealedOf (k / 256) s) false (heldCmds s) s
  match s.cmd k pos with
  | some m => tryAccept false k m s
  | none => s

/-! ### The decoder's control words (R419 to R421) -/

/-- A ROM word that goes to its own address: what an address of the ROM holds that the integration does not list (log 67). -/
def romWord (a : Nat) : BitVec 176 :=
  let q3 := BitVec.ofNat 176 (a % 2 ^ 14) <<< 161
  let odd := ((List.range 14).countP (fun i => a.testBit i)) % 2 = 1
  q3 ||| (if odd then 0 else 1 <<< 175) ||| (1 <<< 131) ||| (1 <<< 87) ||| (1 <<< 43)

/-- Every quarter of a control word has odd parity (R419). -/
def wordParity (w : BitVec 176) : Bool :=
  (List.range 4).all (fun q => (List.range 44).countP (fun i => w.getLsbD (44 * q + i)) % 2 == 1)

/-- The control word of a microcode address (R420); none above 0x23FF. -/
def microWord (a : Nat) (s : State) : Option (BitVec 176) :=
  if a < 0x2000 then some (tgetD s.integ.rom a (romWord a))
  else if a ≤ 0x23FF then some ((s.bramble.overlay[a - 0x2000]?).getD 0)
  else none

/-- The successor that a word names for an entry (R419); none where seq is 3. -/
def microNext (w : BitVec 176) (e : List Byte) : Option Nat :=
  let next := (w.extractLsb' 161 14).toNat
  let seq := (w.extractLsb' 159 2).toNat
  if seq = 0 then some next
  else if seq = 1 then some (if Config.microCond (w.extractLsb' 153 6).toNat e then next else (w.extractLsb' 139 14).toNat)
  else if seq = 2 then some (next + eOp e)
  else none

/-- A successor address goes through the redirect table (R420). -/
def redirected (a : Nat) (s : State) : Nat :=
  match tget s.bramble.redirect a with
  | some i => if a < 0x2000 then 0x2000 + i else a
  | none => a

/-- The decoder fetches the word at its address for an entry: the next word's address, or none where the word does not act
(R421). -/
def microFetch (e : List Byte) (s : State) : Option Nat :=
  match microWord s.bramble.upc s with
  | none => none
  | some w =>
    if !wordParity w then none
    else match microNext w e with
    | none => none
    | some a => if 0x23FF < a then none else some (redirected a s)

/-- The entry at the head of a queue's intake is examined (R105 to R108) in a slot that serves its work (R295), under the decoder's next
control word; a word that does not act raises machine check 0x01 (R421). -/
def entryAccept (c q : Nat) (s : State) : State :=
  let s := serveHeld (sealedOf c s) false (heldCmds s) s
  match (s.queue c q).bind Queue.intakeHead with
  | none => s
  | some m =>
    if m.phase ≠ .intake then s
    else match microFetch m.entry s with
    | none => machineCheck 1 0 s.bramble.upc s
    | some a =>
      tryAccept false (qkey c q) m (bump 2 { s with bramble := { s.bramble with upc := a } })

def execEntryAccept (c q : Nat) (s : State) : Out := .next (entryAccept c q s)

/-- The command of a queue whose read of acceptance is under way. -/
def Queue.reader (q : Queue) : Option Cmd :=
  q.cmds.find? (fun m => match m.phase with | .reading .. => true | _ => false)

/-- A read of acceptance returns (R108), or fails (R503); its cells are written (R300). One that comes when the command's latch has
been taken is charged all the same (R328). -/
def acceptReadReturn (c q : Nat) (rd : HostRead) (s : State) : State :=
  match (s.queue c q).bind Queue.reader with
  | none => s
  | some m =>
    match m.phase with
    | .reading l n aux =>
      match rd with
      | .ok b =>
        let b := padTo n (b.take n)
        let s := charge (some c) 2 n (memWrite l b s)
        if m.latch.isSome then s.modC (qkey c q) m.pos (fun m => { m with phase := .intake }) else
        let s := fillItem 2 (qkey c q) m.pos (b.take 4096) s
        acceptAgain (qkey c q) m.pos
          (bump 2 (s.modC (qkey c q) m.pos (fun m => { m with phase := .intake, reads := m.reads ++ [(l, b)] })))
      | _ => takeLatch (qkey c q) m.pos .access aux (s.modC (qkey c q) m.pos (fun m => { m with phase := .intake }))
    | _ => s

def execAcceptReadReturn (c q : Nat) (rd : HostRead) (s : State) : Out := .next (acceptReadReturn c q rd s)

/-! ### Verification (R51, R156 to R159) -/

/-- The bytes of an image: read from the host, or from the tier that backs its object; none where the read failed. -/
def imageBytes (m : MemObj) (off len : Nat) (rd : HostRead) (s : State) : Option (List Byte) :=
  if m.space = .host then
    match rd with
    | .ok b => some (padTo len (b.take len))
    | _ => none
  else some (memRead (m.at_ off) len s)

/-- The bytes of an image are charged (R328); one in a tier is read now, one in host memory was asked for before. -/
def chargeImage (c : Nat) (im : MemObj) (off n : Nat) (s : State) : State :=
  if im.space = .host then charge (some c) 2 n s else readFor (some c) (im.at_ off) n s

/-- An image that has been read is charged (R328); the verification's command has lost its latch meanwhile. -/
def lateImage (c key off n : Nat) (rd : HostRead) (s : State) : State :=
  match memOfKey key s with
  | some im => match imageBytes im off n rd s with
    | some b => chargeImage c im off b.length s
    | none => s
  | none => s

/-- The verification of a graph that has no version yet ends (R51): the command goes on whether or not the graph or its
image has been marked FREE_PENDING meanwhile. -/
def verifyFirst (c q : Nat) (m : Cmd) (g aux : Nat) (rd : HostRead) (s : State) : State :=
  let k := qkey c q
  let again (s : State) : State := acceptAgain k m.pos (s.modC k m.pos (fun m => { m with phase := .intake }))
  if (tget s.graphs g).isSome then again s else
  match (tget s.objects g).map Obj.body with
  | some (ObjBody.graph b) =>
    match memOfKey b.imageKey s with
    | none => takeLatch k m.pos .stale aux s
    | some im =>
      match imageBytes im b.imageOffset b.imageLength rd s with
      | none => takeLatch k m.pos .access aux s
      | some img =>
        let s := chargeImage c im b.imageOffset img.length s
        match imageRefusal img s with
        | some r => takeLatch k m.pos r.1 r.2 s
        | none => again (addVersion g b.imageKey img s)
  | _ => takeLatch k m.pos .stale aux s

/-- The verification of an OP_GRAPH_PATCH's own image ends (R51, R52, R60). -/
def verifyPatch (c q : Nat) (m : Cmd) (rd : HostRead) (s : State) : State :=
  let k := qkey c q
  let g := objKey c (hIndex (fld m.entry 16 4))
  let ik := objKey c (hIndex (fld m.entry 20 4))
  match memOfKey ik s with
  | none => finish k m.pos .access 20 s
  | some im =>
    match imageBytes im (fld m.entry 24 8) (fld m.entry 32 8) rd s with
    | none => finish k m.pos .access 20 s
    | some img =>
      let s := chargeImage c im (fld m.entry 24 8) img.length s
      match imageRefusal img s with
      | some r => finish k m.pos r.1 r.2 s
      | none =>
        let gv : GraphVers := tgetD s.graphs g { current := 0, versions := [] }
        if 4 ≤ gv.versions.length then finish k m.pos .busy 1 s
        else if 2 ^ 32 - 1 ≤ gv.current then finish k m.pos .busy 2 s
        else finishOk k m.pos (addVersion g ik img s)

/-- Verification of an image ends: of the graph a command is held for, or of a patch that runs. -/
def verifyDone (c q pos : Nat) (rd : HostRead) (s : State) : State :=
  match s.cmd (qkey c q) pos with
  | none => s
  | some m =>
    match m.phase with
    | .verifying g aux =>
      if m.latch.isNone then verifyFirst c q m g aux rd s
      else
        let s := s.modC (qkey c q) pos (fun m => { m with phase := .intake })
        match (tget s.objects g).map Obj.body with
        | some (ObjBody.graph b) => lateImage c b.imageKey b.imageOffset b.imageLength rd s
        | _ => s
    | .dispatched =>
      if !(m.running && m.started && eOp m.entry == 6) then s
      else if m.latch.isNone then dropItem 2 (qkey c q) pos (verifyPatch c q m rd s)
      else
        lateImage c (objKey c (hIndex (fld m.entry 20 4))) (fld m.entry 24 8) (fld m.entry 32 8) rd
          (s.modC (qkey c q) pos (fun m => { m with running := false }))
    | _ => s

def execVerifyDone (c q pos : Nat) (rd : HostRead) (s : State) : Out := .next (verifyDone c q pos rd s)

end Sys2Proof.Machine
end

