-- ==== Sys2Proof/Machine/Bramble.lean ====
section
/-! DEFINITION. Bramble after acceptance: dispatch (R102, R128, R445), deadlock detection (R130 to R133), and the
commands it executes itself or hands to Front, the link port and the verifier: OP_NOP, OP_FENCE_WAIT, OP_FENCE_SIGNAL,
OP_TIMESTAMP (R111), OP_OBJ_FREE (R56), OP_BARRIER_JOIN (R483), OP_ABORT (R97, R98), OP_QUERY (R61), OP_GRAPH_PATCH
(R51), OP_LAUNCH_GRAPH (R52, R261). -/

namespace Sys2Proof.Machine

/-! ### Queries (R61) -/

/-- Code of a context's state (R61, selector 0x01). -/
def ctxStateCode (x : Option Context) : Nat :=
  match x.map Context.state with
  | none => 0
  | some CtxState.active => 1
  | some (CtxState.teardown _) => 2
  | some CtxState.lost => 3

def ctxObjects (c : Nat) (s : State) : Tab Obj := s.objects.filter (fun e => e.1 / 2 ^ 20 == c)

/-- Bytes of device-backed objects cached for a context in a tier. -/
def mappedBytes (c : Nat) (sp : Space) (s : State) : Nat :=
  (ctxObjects c s).foldl (fun a e => match e.2.body with
    | .mem m => if m.space = sp then a + m.size else a
    | _ => a) 0

/-- Frames that a context's sequences hold, each once. Frames reserved and not yet used are no page's, and the frame of a lost page
counts until its holders end (DESIGN CHOICE, log 94: R61 says neither). -/
def ctxFrames (c : Nat) (s : State) : List Nat :=
  (s.trestle.seqs.filter (fun e => e.2.ctx == c)).foldl (fun (a : List Nat) e =>
    a ++ ((pageFrames e.2 s).filter (fun f => !a.contains f))) []

/-- Words of a query about a context: selectors 0x01, 0x02 and 0x03. -/
def queryContext (c : Nat) (s : State) : List Nat :=
  let x := tget s.contexts c
  let qs := ctxQueues c s
  [ctxStateCode x, (ctxCls s c).code, benchCount (fun r => r.ctx == c) s, qs.countP (fun e => decide (e.2.w < e.2.d)),
   qs.foldl (fun a e => a + (e.2.d - e.2.w)) 0, s.ctxWaits c, s.trestle.loops.countP (fun e => e.2.ctx == c),
   s.trestle.seqs.countP (fun e => e.2.ctx == c)]

/-- Selector 0x02: the figures of the context_id since it was last activated. -/
def queryUse (c : Nat) (s : State) : List Nat :=
  let u := tgetD s.hub.uses c Use.zero
  [u.core] ++ u.bytes ++ [u.steps, u.preempts, s.now]

def queryMemory (c : Nat) (s : State) : List Nat :=
  let os := ctxObjects c s
  let fs := ctxFrames c s
  [os.length, os.countP (fun e => decide (0 < e.2.pins)), os.countP (fun e => e.2.freePending),
   fs.countP (fun f => isFast f s), fs.countP (fun f => !isFast f s), mappedBytes c .fast s, mappedBytes c .slow s,
   (s.graphs.filter (fun e => e.1 / 2 ^ 20 == c)).foldl (fun a e => a + e.2.versions.length) 0]

/-- Selector 0x04; own is the pin the query itself holds. -/
def queryObject (c h own : Nat) (s : State) : List Nat :=
  let key := objKey c (hIndex h)
  match tget s.objects key with
  | none => List.replicate 8 0
  | some o =>
    let g := tget s.graphs key
    [if o.freePending then 2 else 1, o.pins - own, o.refs, o.kind, o.tag, (g.map (·.current)).getD 0,
     (g.map (·.versions.length)).getD 0, 0]

/-- Selector 0x05. -/
def queryTenant (c : Nat) (s : State) : List Nat :=
  let t := s.tenantOf c
  let r := tenantRec s c
  [s.contexts.countP (fun e => (e.2.state == .active) && some e.2.rcd.tenant == t), tenantBenches t s, tenantLoops t s,
   tenantSeqs t s, heldFrames (t.getD 1024) s, (r.map (·.maxKvFrames)).getD 0, (r.map (·.share)).getD 0, 0]

/-- The eight words of a query. -/
def queryWords (c : Nat) (e : List Byte) (s : State) : List Nat :=
  let sel := fld e 16 1
  if sel = 1 then queryContext c s
  else if sel = 2 then queryUse c s
  else if sel = 3 then queryMemory c s
  else if sel = 4 then queryObject c (fld e 20 4) 1 s
  else queryTenant c s

/-! ### Dispatch -/

/-- Every earlier command of the queue has been dispatched or has retired (R102). -/
def orderedOk (q : Queue) (m : Cmd) : Bool :=
  !eOrdered m.entry || q.cmds.all (fun x => decide (m.pos ≤ x.pos) || x.phase == .dispatched)

/-- Graph jobs waiting for benches, those of launches dispatched and not begun among them (R261). -/
def graphJobs (s : State) : Nat :=
  s.sched.jobs.countP (fun e => e.2.owner == .graph) +
  s.allCmds.countP (fun e => (e.2.phase == .dispatched) && e.2.running && !e.2.started && e.2.latch.isNone && eOp e.2.entry == 0x05)

/-- The executor of a command can take it (R128, R261, R483). -/
def canTake (m : Cmd) (s : State) : Bool :=
  if eOp m.entry = 0x05 then decide (graphJobs s < Config.maxGraphJobs)
  else if eOp m.entry = 0x11 then (tget s.link.joins (fld m.entry 16 2)).isNone
  else true

/-- The command is ready for dispatch (R128). -/
def isReady (k : Nat) (m : Cmd) (s : State) : Bool :=
  (m.phase == .accepted) && m.latch.isNone && m.waits.all (·.met) && canTake m s &&
  (match tget s.front.queues k with
   | some q => orderedOk q m
   | none => false)

/-- The OP_MODEL_PIN names an EVICTED model (R445). -/
def pinsEvicted (c : Nat) (e : List Byte) (s : State) : Bool :=
  match modelOf (s.tenantOf c) (fld e 16 8) s with
  | some (_, x) => x.state == .evicted
  | none => false

/-- The current version of a graph is bound to a command that launches it or opens a loop on it (R52, R198). -/
def bindCurrent (k pos g : Nat) (s : State) : State :=
  match tget s.graphs g with
  | some x => bindVer g x.current (s.modC k pos (fun m => { m with bound := some (g, x.current) }))
  | none => s

/-- The graph that a loop parameter record names. -/
def recordGraph (k : Nat) (b : List Byte) : Nat := objKey (k / 256) (hIndex (fld b 4 4))

/-- The bytes of a range of an operand's object as acceptance read them. -/
def readBytes (k : Nat) (m : Cmd) (hOff oOff n : Nat) (s : State) : List Byte :=
  match memOfKey (objKey (k / 256) (hIndex (fld m.entry hOff 4))) s with
  | some o =>
    let l := o.at_ (fld m.entry oOff 8)
    match m.reads.find? (fun r => r.1 == l && r.2.length == n) with
    | some r => r.2
    | none => memRead l n s
  | none => zeros n

/-- The parameter record of an OP_LOOP_OPEN, or the recorded one of an OP_REPLAY_OPEN. -/
def openParams (k : Nat) (m : Cmd) (s : State) : List Byte :=
  if eOp m.entry = 0x08 then readBytes k m 16 24 128 s
  else replayParams (windowParams (readBytes k m 16 24 (fld m.entry 32 8) s))

/-- Of the ready commands served in the same slots the one accepted first is dispatched first (R128, R295). -/
def firstReady (c : Nat) (m : Cmd) (s : State) : Bool :=
  s.allCmds.all (fun e => decide (m.order ≤ e.2.order) || sealedOf (e.1 / 256) s != sealedOf c s || !isReady e.1 e.2 s)

/-- The slot of an OP_BARRIER_JOIN becomes ARMED (R483). -/
def armJoin (c q : Nat) (m : Cmd) (s : State) : State :=
  let t := fld m.entry 28 4
  let j : Join := { ctx := c, queue := q, pos := m.pos, epoch := fld m.entry 20 4, participants := fld m.entry 24 4,
                    timeoutUs := t, deadline := s.now + t * Config.us }
  { s with link := { s.link with joins := tset s.link.joins (fld m.entry 16 2) j } }

/-- What dispatch does beside the hand-over to the executor: a launch or an open binds a version (R52), a join arms its slot
(R483), a query takes its snapshot (R61), an admission the values of the fences it waited for (R392). -/
def onDispatch (c q : Nat) (m : Cmd) (s : State) : State :=
  let k := qkey c q
  let op := eOp m.entry
  if op = 0x05 then bindCurrent k m.pos (objKey c (hIndex (fld m.entry 16 4))) s
  else if op = 0x08 ∨ op = 0x17 then bindCurrent k m.pos (recordGraph k (openParams k m s)) s
  else if op = 0x11 then armJoin c q m s
  else if op = 0x12 then s.modC k m.pos (fun m => { m with snapshot := queryWords c m.entry s })
  else if op = 0x09 then s.modC k m.pos (fun m => { m with snapshot := m.waits.map (fun w => s.fenceValue w.ref.loc w.ref.compact) })
  else s

/-- A ready command is dispatched through a cell of its executor's issue queue (R302), or refused by the shed level in
force (R445). -/
def commandDispatch (c q pos : Nat) (s : State) : State :=
  let k := qkey c q
  match s.cmd k pos with
  | none => s
  | some m =>
    if isReady k m s && firstReady c m s then
      let op := eOp m.entry
      if refusedFrom op (ctxCls s c == .rt) (pinsEvicted c m.entry s) ≤ s.power.level then
        dropShadows (takeLatch k pos .shed s.power.level s)
      else
        match askCells (itemReq 1 (engineQueue (opEngine op)) (s.tenantOf c) (engineItem k pos) 1 (some m.entry)) s with
        | (false, s) => s
        | (true, s) =>
          let s := s.modC k pos (fun m => { m with phase := .dispatched, running := true, dispatchedAt := s.now })
          trace 3 (eTag m.entry) c q pos (onDispatch c q m s)
    else s

def execCommandDispatch (c q pos : Nat) (s : State) : Out := .next (commandDispatch c q pos s)

/-! ### Execution -/

/-- A command of an opcode that its executor has to begin on. -/
def starting (k pos op : Nat) (s : State) : Option Cmd :=
  (s.cmd k pos).filter (fun m => (m.phase == .dispatched) && m.running && m.latch.isNone && !m.started && eOp m.entry == op)

/-- The executor has begun on a command: it has read its cell, which is released from the head of the issue queue (R312). -/
def begun (k pos : Nat) (s : State) : State :=
  let op := ((s.cmd k pos).map (fun m => eOp m.entry)).getD 0
  consumeItem 1 (engineQueue (opEngine op)) (engineItem k pos) (s.modC k pos (fun m => { m with started := true }))

/-- The location of an operand: handle field and offset field of the entry. -/
def operandLoc (k : Nat) (m : Cmd) (hOff oOff : Nat) (s : State) : Option Loc :=
  (memOfKey (objKey (k / 256) (hIndex (fld m.entry hOff 4))) s).map (fun o => o.at_ (fld m.entry oOff 8))

/-- A result word of a command (R111). -/
def putResult (k : Nat) (m : Cmd) (hOff oOff : Nat) (bs : List Byte) (s : State) : State :=
  match operandLoc k m hOff oOff s with
  | some l => addResult k m.pos l bs s
  | none => s

/-- The outcome of an operation that does nothing beyond its waits and signals (R111). -/
def finishNop (k pos op : Nat) (s : State) : State :=
  match starting k pos op s with
  | some _ => finishOk k pos (begun k pos s)
  | none => s

def execOpNop (c q pos : Nat) (s : State) : Out := .next (finishNop (qkey c q) pos 0x00 s)

def execOpFenceWait (c q pos : Nat) (s : State) : Out := .next (finishNop (qkey c q) pos 0x01 s)

def execOpFenceSignal (c q pos : Nat) (s : State) : Out := .next (finishNop (qkey c q) pos 0x02 s)

/-- OP_TIMESTAMP writes the block time base of its dispatch (R111). -/
def opTimestamp (c q pos : Nat) (s : State) : State :=
  let k := qkey c q
  match starting k pos 0x15 s with
  | some m => finishOk k pos (putResult k m 16 24 (le 8 m.dispatchedAt) (begun k pos s))
  | none => s

def execOpTimestamp (c q pos : Nat) (s : State) : Out := .next (opTimestamp c q pos s)

/-- The release fence an OP_OBJ_FREE names (R116). -/
def releaseFence (k : Nat) (m : Cmd) (s : State) : Option FenceRef :=
  if fld m.entry 20 4 = 0 then none else
  (memOfKey (objKey (k / 256) (hIndex (fld m.entry 20 4))) s).map (fun o =>
    { loc := o.at_ (fld m.entry 24 4), compact := eCompact m.entry, value := fld m.entry 32 8, va := o.devVa + fld m.entry 24 4 })

/-- OP_OBJ_FREE (R56): the object is released at once where no other pin or reference stands, else FREE_PENDING. -/
def opObjFree (c q pos : Nat) (s : State) : State :=
  let k := qkey c q
  match starting k pos 0x10 s with
  | none => s
  | some m =>
    let s := begun k pos s
    let key := objKey c (hIndex (fld m.entry 16 4))
    match tget s.objects key with
    | none => finish k pos .stale 16 s
    | some o =>
      if o.freePending then finish k pos .stale 16 s
      else
        let rf := releaseFence k m s
        let s := { s with objects := tset s.objects key { o with freePending := true, release := rf, freer := c,
                                                                 freerTag := eTag m.entry, freerAt := (k, pos) } }
        let s := s.modC k pos (fun m => { m with pins := removeOne m.pins key })
        finishOk k pos (unpin key (reapModels s))

def execOpObjFree (c q pos : Nat) (s : State) : Out := .next (opObjFree c q pos s)

/-- OP_BARRIER_JOIN (R483): the link port takes the join whose slot was ARMED at its dispatch, and sends ARRIVE. -/
def opBarrierJoin (c q pos : Nat) (s : State) : State :=
  let k := qkey c q
  match starting k pos 0x11 s with
  | none => s
  | some m =>
    let slot := fld m.entry 16 2
    match (tget s.link.joins slot).filter (fun j => j.ctx == c && j.queue == q && j.pos == pos) with
    | none => s
    | some j =>
      let st := s.port.straps
      emit (.arrive st.2.2.2 slot j.epoch j.participants st.1 st.2.1 st.2.2.1) (begun k pos s)

def execOpBarrierJoin (c q pos : Nat) (s : State) : Out := .next (opBarrierJoin c q pos s)

/-- A position that has not been handed over takes its latch; one never fetched retires unread (R98). -/
def Queue.abortEarly (t : Nat) (l : Latch) (x : Queue) : Queue :=
  if x.fetched.any (fun f => f.pos == t) then
    { x with fetched := x.fetched.map (fun f => if f.pos == t && f.latch.isNone then { f with latch := some l } else f) }
  else
    let fs := putFetched { pos := t, entry := [], latch := some l, ring := false } x.fetched
    { x with fetched := fs, f := skipTaken fs fs.length x.f }

/-- The target's latch is free for an abort. The shutdown of a queue has taken those of all its positions (R94, R99). -/
def Queue.latchFree (t : Nat) (x : Queue) : Bool :=
  match x.cmd t with
  | some m => m.latch.isNone
  | none => match x.fetched.find? (fun f => f.pos == t) with
    | some f => f.latch.isNone
    | none => x.state != .shutting

/-- The target of an abort is stopped (R98). -/
def abortTarget (k t : Nat) (s : State) : State :=
  let l : Latch := { status := .aborted, aux := 1 }
  match (tget s.front.queues k).bind (fun x => x.cmd t) with
  | some m =>
    settleStops (dropShadows (stopWork (fun k' pos => k' == k && pos == t)
      (dropCmdCells k t (eOp m.entry) (s.modC k t (fun m => { m.kill l with stopping := (m.kill l).stopping && m.onEngine })))))
  | none => dropItem 1 k t (dropItem 0 k t (s.modQ k (Queue.abortEarly t l)))

/-- The answer of an OP_ABORT is written when its request is decided; it waits for no other command (R98). -/
def abortAnswer (c k : Nat) (m : Cmd) (v : Nat) (s : State) : State :=
  match operandLoc k m 32 40 s with
  | some l => locWrite (some c) l (le 8 v) s
  | none => s

/-- OP_ABORT (R97, R98). -/
def opAbort (c q pos : Nat) (s : State) : State :=
  let k := qkey c q
  match starting k pos 0x16 s with
  | none => s
  | some m =>
    let s := begun k pos s
    match abortRefusal c q pos m.entry s with
    | some r => finish k pos r.1 r.2 s
    | none =>
      let t := fld m.entry 16 1
      let seq := fld m.entry 24 8
      let x := queueAt c t s
      if seq = 0 ∨ x.d < seq then finish k pos .malformed 24 s
      else if x.w < seq ∧ x.latchFree (seq - 1) = true then
        finishOk k pos (abortAnswer c k m 1 (abortTarget (qkey c t) (seq - 1) s))
      else finishOk k pos (abortAnswer c k m 2 s)

def execOpAbort (c q pos : Nat) (s : State) : Out := .next (opAbort c q pos s)

/-- The image of a patch is asked for, where it lies in host memory (R468). -/
def askPatch (c : Nat) (m : Cmd) (s : State) : State :=
  match memOfKey (objKey c (hIndex (fld m.entry 20 4))) s with
  | some im => if im.space = .host then readReq (s.tenantOf c) .hub (im.at_ (fld m.entry 24 8)) (fld m.entry 32 8) s else s
  | none => s

/-- OP_GRAPH_PATCH: verification of its image begins (R51) once it has cells for the read (R308); VERIFY_DONE ends it. -/
def opGraphPatch (c q pos : Nat) (s : State) : State :=
  match starting (qkey c q) pos 0x06 s with
  | some m =>
    match askPayload (qkey c q) pos (fld m.entry 32 8) s with
    | (true, s) => begun (qkey c q) pos (askPatch c m s)
    | (false, s) => s
  | none => s

def execOpGraphPatch (c q pos : Nat) (s : State) : Out := .next (opGraphPatch c q pos s)

/-- OP_LAUNCH_GRAPH becomes a job of the scheduler (R261); at S6 a job that would wait for benches retires with ST_SHED (R446). -/
def opLaunchGraph (c q pos : Nat) (s : State) : State :=
  let k := qkey c q
  match starting k pos 0x05 s with
  | none => s
  | some m =>
    let s := begun k pos s
    if 6 ≤ s.power.level then dropShadows (finish k pos .shed s.power.level s)
    else decisionPass (addJob { ctx := c, owner := .graph, cmd := some (k, pos), count := fld m.entry 34 2, since := s.now } s)

def execOpLaunchGraph (c q pos : Nat) (s : State) : Out := .next (opLaunchGraph c q pos s)

/-- Words as bytes. -/
def wordBytes (ws : List Nat) : List Byte := (ws.map (le 8)).flatten

/-- OP_QUERY writes the snapshot taken at its dispatch (R61). -/
def opQuery (c q pos : Nat) (s : State) : State :=
  let k := qkey c q
  match starting k pos 0x12 s with
  | some m => finishOk k pos (putResult k m 24 32 (wordBytes m.snapshot) (begun k pos s))
  | none => s

def execOpQuery (c q pos : Nat) (s : State) : Out := .next (opQuery c q pos s)

/-! ### Deadlock detection (R130 to R133) -/

/-- The blocked head of a queue (R130). -/
def blockedHead (q : Queue) (s : State) : Option Cmd :=
  if q.enabled then
    (q.cmd q.w).filter (fun m => (m.phase == .accepted) && m.latch.isNone && m.waits.any (fun w => !w.met) &&
      decide (s.bramble.dlkWindow * Config.ms ≤ s.now - m.acceptedAt))
  else none

/-- Queues that hold a pending signaller of a wait (R130). -/
def signallers (w : Wait) (s : State) : List Nat :=
  (s.allCmds.filter (fun e => (match e.2.phase with | .accepted => true | .dispatched => true | _ => false) &&
    e.2.latch.isNone && e.2.signals.any (fun r => r.loc == w.ref.loc && r.compact == w.ref.compact &&
      waitMet r.compact r.value w.ref.value))).map (·.1)

/-- Queues that hold a pending signaller of some unmet wait of a head; none where a wait has none. -/
def helpOf (m : Cmd) (s : State) : Option (List Nat) :=
  (m.waits.filter (fun w => !w.met)).foldr (fun w a =>
    match a with
    | none => none
    | some l => let x := signallers w s; if x.isEmpty then none else some (x ++ l)) (some [])

/-- A queue with a blocked head and the queues its help stands in. -/
structure Stuck where
  key : Nat
  head : Cmd
  help : List Nat

/-- The candidates of a scan. -/
def stuckQueues (s : State) : List Stuck :=
  s.front.queues.filterMap (fun e =>
    match blockedHead e.2 s with
    | none => none
    | some m => (helpOf m s).map (fun h => { key := e.1, head := m, help := h }))

/-- The largest closed set (R131): queues whose help stands outside are removed until none is. -/
def closedSet : Nat → List Stuck → List Stuck
  | 0, k => k
  | n + 1, k =>
    let ks := k.map (·.key)
    closedSet n (k.filter (fun x => x.help.all (fun h => ks.contains h)))

/-- Queues that a set of queues reaches along wait-for edges. -/
def reach : Nat → List Stuck → List Nat → List Nat
  | 0, _, r => r
  | n + 1, k, r => reach n k ((r ++ ((k.filter (fun x => r.contains x.key)).map (·.help)).flatten).eraseDups)

/-- The queue lies on a cycle of wait-for edges. -/
def onCycle (k : List Stuck) (x : Stuck) : Bool := (reach k.length k x.help.eraseDups).contains x.key

/-- The victim (R132 step 1). -/
def victimOf (k : List Stuck) : Option Stuck :=
  (k.filter (onCycle k)).foldl (fun (a : Option Stuck) x =>
    match a with
    | none => some x
    | some y =>
      if y.head.acceptedAt < x.head.acceptedAt ∨ (y.head.acceptedAt = x.head.acceptedAt ∧ y.key < x.key) then some x
      else a) none

/-- An entry of a DEADLOCK record (R504). -/
def deadlockEntry (k : List Stuck) (victim : Nat) (x : Stuck) (s : State) : List Byte :=
  let w := x.head.waits.find? (fun w => !w.met)
  let f (g : FenceRef → Nat) : List Byte := le 8 ((w.map (fun w => g w.ref)).getD 0)
  padTo 64 (le 2 (x.key / 256) ++ le 1 (x.key % 256) ++ le 1 (b2n (x.key == victim) + 2 * b2n (onCycle k x)) ++
    le 4 (eTag x.head.entry) ++ le 8 x.head.pos ++ f (·.va) ++ f (·.value) ++ f (fun r => s.fenceValue r.loc r.compact))

/-- A verdict (R132). -/
def verdict (k : List Stuck) (s : State) : State :=
  match victimOf k with
  | none => s
  | some v =>
    let n := k.length
    let body := le 4 n ++ le 4 (min 16 n) ++ le 8 (v.head.pos + 1) ++ zeros 16 ++
      ((k.take 16).map (fun x => deadlockEntry k v.key x s)).flatten
    let tag := eTag v.head.entry
    let e := ctxEvent s evDeadlock (v.key / 256) tag [n, v.key % 256, v.head.pos, 0]
    let s := { s with bramble := { s.bramble with dlkCnt := satInc 32 s.bramble.dlkCnt } }
    raiseEvent e (faultCmd v.key v.head.pos (FaultInfo.of .deadlock n s.now) (some (0x02, body)) s)

/-- A scan (R131). The fences its heads await are those of the waits still unmet now: a rise that met another wait of a head
is not one of them (DESIGN CHOICE, log 92). -/
def deadlockScan (s : State) : State :=
  if !s.bramble.dlkEnable then s else
  let st := stuckQueues s
  let k := closedSet st.length st
  let keys := k.map (·.key)
  let waited := (k.map (fun x => (x.head.waits.filter (fun w => !w.met)).map (fun w => w.ref.loc))).flatten
  let still := !k.isEmpty && (keys == s.bramble.prevSet) && waited.all (fun l => !s.bramble.rises.contains l)
  let s := if still then verdict k s else s
  { s with bramble := { s.bramble with prevSet := keys, rises := [] } }

def execDeadlockScan (s : State) : Out := .next (deadlockScan s)

end Sys2Proof.Machine
end

