-- ==== Sys2Proof/Machine/Requant.lean ====
section
/-! DEFINITION. The re-quantiser (R237 to R240): stored formats, MX formats and asymmetric INT4 in exact arithmetic, the mean squared
error and its gate. -/

namespace Sys2Proof.Machine

/-- Bytes of codes of a block in a format (R237). -/
def codeBytes (fmt : Nat) : Nat :=
  if fmt = 0 then 64 else if fmt = 1 then 32 else if fmt = 2 ∨ fmt = 3 then 24 else 16

/-- Bytes of metadata of a block in a format (R237). -/
def metaBytes (fmt : Nat) : Nat := if fmt = 0 then 0 else if fmt = 5 then 6 else 1

/-- Stored bytes of a page in a format (R237). -/
def storedBytes (fmt : Nat) (s : State) : Nat := pageBytes s / 64 * (codeBytes fmt + metaBytes fmt)

/-- A finite BF16 value in units of 2^-133. -/
def bf16Units (w : Nat) : Int :=
  let e := bits w 14 7
  let m := bits w 6 0
  let v : Nat := if e = 0 then m else (128 + m) * 2 ^ (e - 1)
  if bit w 15 then -(v : Int) else (v : Int)

/-- A BF16 pattern is finite. -/
def bf16Finite (w : Nat) : Bool := decide (bits w 14 7 ≠ 255)

/-- n ÷ d rounded to the nearest integer, ties to even. -/
def rneDiv (n : Int) (d : Nat) : Int :=
  let f := n / (d : Int)
  let r := (n - f * d) * 2
  if r < d then f else if (d : Int) < r then f + 1 else if f % 2 = 0 then f else f + 1

/-- n ÷ d, not negative and in units of 2^-133, rounded to BF16: the exponent k and significand q of q × 2^k units. -/
def bf16Round (n d : Nat) : Nat × Nat :=
  let k := Nat.log2 (n / d) - 7
  (k, (rneDiv n (d * 2 ^ k)).toNat)

/-- An integer held to a range. -/
def clampI (lo hi x : Int) : Int := if x < lo then lo else if hi < x then hi else x

/-- The 32 words of a block. -/
def blockWords (b : List Byte) : List Nat := (List.range 32).map (fun i => fld b (2 * i) 2)

/-- A block as stored and as a core decodes it: its codes and metadata, and the values they stand for in units of 2^-133. -/
structure StoredBlock where
  codes : List Byte
  info : List Byte
  values : List Int

/-- Codes of w bits packed into a block's little-endian code field (R237). -/
def packCodes (w : Nat) (cs : List Nat) : List Byte :=
  le (4 * w) ((cs.zipIdx).foldl (fun a e => a + e.1 * 2 ^ (w * e.2)) 0)

/-- One block in asymmetric INT4 (R238): the metadata are scale, zero point, reserved byte and code sum. Division and rounding
are of the exact quotients (log 15). -/
def int4Block (b : List Byte) : StoredBlock :=
  let xs := (blockWords b).map bf16Units
  let lo := xs.foldl min (xs.headD 0)
  let hi := xs.foldl max (xs.headD 0)
  let (k, q) := bf16Round (hi - lo).toNat 15
  let zero := decide (q = 0)
  let sUnits : Nat := if zero then 2 ^ 133 else q * 2 ^ k
  let sBits : Nat := if zero then 0x3F80 else k * 128 + q
  let z := clampI (-128) 127 (rneDiv (-lo) sUnits)
  let cs := xs.map (fun x => (clampI 0 15 (rneDiv x sUnits + z)).toNat)
  { codes := packCodes 4 cs, info := le 2 sBits ++ le 1 (z % 256).toNat ++ [0] ++ le 2 (cs.foldl (· + ·) 0),
    values := cs.map (fun (c : Nat) => ((c : Int) - z) * (sUnits : Int)) }

/-- The element of an MX format (R237): mantissa bits, least exponent of a normal number, exponent of the largest, code bits.
MXINT8 has none. -/
structure MxElem where
  mant : Nat
  emin : Int
  emax : Int
  width : Nat

/-- E2M3, E3M2 and E2M1 (R237), with the biases of the OCP Microscaling Formats specification (log 8). -/
def mxElem (fmt : Nat) : MxElem :=
  if fmt = 2 then { mant := 3, emin := 0, emax := 2, width := 6 }
  else if fmt = 3 then { mant := 2, emin := -2, emax := 4, width := 6 }
  else { mant := 1, emin := 0, emax := 2, width := 4 }

/-- The code of a magnitude of units × 2^(-133 - se) in an element format, rounded to nearest with ties to even and saturated
to the largest finite magnitude (R238). -/
def mxCode (e : MxElem) (se : Int) (units : Nat) : Nat :=
  if units = 0 then 0 else
  let x := max e.emin ((Nat.log2 units : Int) - 133 - se)
  let n := (rneDiv units (2 ^ (x - (e.mant : Int) + 133 + se).toNat)).toNat
  min (2 ^ (e.width - 1) - 1) ((x - e.emin).toNat * 2 ^ e.mant + n)

/-- The value of a magnitude's code in units of 2^-133. -/
def mxValue (e : MxElem) (se : Int) (c : Nat) : Nat :=
  let f := c % 2 ^ e.mant
  let x := c / 2 ^ e.mant
  let g := (e.emin - (e.mant : Int) + se + 133).toNat
  if x = 0 then f * 2 ^ g else (2 ^ e.mant + f) * 2 ^ (g + x - 1)

/-- The shared exponent of a block with a nonzero element: that of its largest magnitude less the element format's largest
exponent, held to what E8M0 expresses (R238; log 8). -/
def mxExp (emax : Int) (amax : Nat) : Int := max (-127) ((Nat.log2 amax : Int) - 133 - emax)

/-- One block in an MX format (R237, R238): codes, then the E8M0 scale. -/
def mxBlock (fmt : Nat) (b : List Byte) : StoredBlock :=
  let ws := blockWords b
  let amax := (ws.map (fun w => (bf16Units w).natAbs)).foldl max 0
  let se := mxExp (if fmt = 1 then 0 else (mxElem fmt).emax) amax
  let scale := if amax = 0 then Config.mxZeroScale fmt else BitVec.ofNat 8 (se + 127).toNat
  if fmt = 1 then
    let cs := ws.map (fun w => clampI (-128) 127 (rneDiv (bf16Units w) (2 ^ (se + 127).toNat)))
    { codes := packCodes 8 (cs.map (fun c => (c % 256).toNat)), info := [scale], values := cs.map (fun c => c * 2 ^ (se + 127).toNat) }
  else
    let e := mxElem fmt
    let cs := ws.map (fun w => (bit w 15, mxCode e se (bf16Units w).natAbs))
    { codes := packCodes e.width (cs.map (fun c => b2n c.1 * 2 ^ (e.width - 1) + c.2)), info := [scale],
      values := cs.map (fun c => if c.1 then -(mxValue e se c.2 : Int) else (mxValue e se c.2 : Int)) }

/-- One block in a format (R237). -/
def blockIn (fmt : Nat) (b : List Byte) : StoredBlock :=
  if fmt = 0 then { codes := b, info := [], values := (blockWords b).map bf16Units }
  else if fmt = 5 then int4Block b
  else mxBlock fmt b

/-- The blocks of a native page. -/
def pageBlocks (page : List Byte) : List (List Byte) :=
  (List.range (page.length / 64)).map (fun i => slice page (64 * i) 64)

/-- A native page in a format: the codes of its blocks, then their metadata (R234, R237; log 16). -/
def requant (fmt : Nat) (page : List Byte) : List Byte :=
  let bs := (pageBlocks page).map (blockIn fmt)
  (bs.map (·.codes)).flatten ++ (bs.map (·.info)).flatten

/-- n rounded to p significant bits, and to a multiple of 2^lo, ties to even. -/
def roundSig (p lo n : Nat) : Nat :=
  let k := max lo (Nat.log2 n + 1 - p)
  (rneDiv n (2 ^ k)).toNat * 2 ^ k

/-- The square of a difference of d units of 2^-133, formed in FP32, in units of 2^-149 (R239): the difference and its square
are each rounded to FP32; none where one of them is beyond its range. -/
def squareF32 (d : Nat) : Option Nat :=
  let r := roundSig 24 0 d
  let q := roundSig 24 117 (r * r) / 2 ^ 117
  if r < 2 ^ 261 ∧ q < 2 ^ 277 then some q else none

/-- The FP64 sum of squares in units of 2^-149, in page order. -/
def sumSquares (l : List (Option Nat)) : Option Nat :=
  l.foldl (fun a x => match a, x with
    | some a, some x => some (roundSig 53 0 (a + x))
    | _, _ => none) (some 0)

/-- The FP32 pattern of n ÷ 2^m units of 2^-149, rounded (R239). -/
def meanBits (n m : Nat) : Nat :=
  let r := roundSig 24 m n / 2 ^ m
  if r < 2 ^ 23 then r
  else
    let l := Nat.log2 r
    if 277 ≤ l then 0x7F800000 else (l - 22) * 2 ^ 23 + (r / 2 ^ (l - 23) - 2 ^ 23)

/-- The mean squared error of a native page in a format (R239), an FP32 pattern; infinity where a square has no finite
value. -/
def pageMse (fmt : Nat) (page : List Byte) : Nat :=
  let ds := ((pageBlocks page).map (fun b =>
    (((blockIn fmt b).values.zip ((blockWords b).map bf16Units)).map (fun x => (x.1 - x.2).natAbs)))).flatten
  match sumSquares (ds.map squareF32) with
  | some n => meanBits n (Nat.log2 ds.length)
  | none => 0x7F800000

/-- The page holds a value that is not finite (R239). -/
def hasNonFinite (page : List Byte) : Bool :=
  (List.range (page.length / 2)).any (fun i => !bf16Finite (fld page (2 * i) 2))

/-- An FP32 pattern that is not negative, minus zero as zero. -/
def f32Key (v : Nat) : Nat := if v = 0x80000000 then 0 else v

/-- The error gate fails (R239): the mean exceeds the threshold, or a value is not finite. -/
def gateFails (mean threshold : Nat) (page : List Byte) : Bool :=
  hasNonFinite page || decide (f32Key threshold < f32Key mean)

/-- The page of a frame becomes the stored form of its native bytes, the rest of the frame zero (R231). -/
def convertFrame (f fmt : Nat) (s : State) : State :=
  let p := pageBytes s
  let l := frameLoc f s
  let b := requant fmt (memRead l p s)
  setFrame f { frameAt f s with format := fmt } (memWrite l b (memZero l p s))

/-- The frame where the moves in flight take the page of a frame in the end. -/
def finalFrame : Nat → Nat → State → Nat
  | 0, f, _ => f
  | n + 1, f, s =>
    match s.allJobs.findSome? (fun j => match j.kind with | .page a b .. => if a = f then some b else none | _ => none) with
    | some b => finalFrame n b s
    | none => f

/-- Sequence_ids of the holders of a frame, with the page index of the first. -/
def convertHolders (f : Nat) (s : State) : Nat × List Nat :=
  let hs := holdersOf (finalFrame s.allJobs.length f s) s
  ((hs.head?.map (·.2)).getD 0, hs.filterMap (fun h => (tget s.trestle.seqs h.1).map (·.seqId)))

/-- CONVERT records of a converted page (R246, R392): up to seven holders a record; step: the loop's next step when the
conversion was decided (R391). -/
def journalConvert (l f fmt step : Nat) (s : State) : State :=
  match tget s.trestle.loops l with
  | none => s
  | some lp =>
    let (page, ids) := convertHolders f s
    let cs := chunks 7 ids.length (ids.map (le 4))
    (cs.zipIdx).foldl (fun s e =>
      journal l 0x06 lp.tag step e.2 1 (le 4 page ++ le 1 fmt ++ le 1 e.1.length ++ zeros 2 ++ e.1.flatten) s) s

/-- The statistics of a loop changed. -/
def State.modStats (s : State) (l : Nat) (f : LoopStats → LoopStats) : State :=
  s.modLoop l (fun lp => { lp with stats := f lp.stats })

/-- A page demoted in a format is counted (R240); mean: that of a page converted. -/
def countDemoted (l fmt : Nat) (mean : Option Nat) (s : State) : State :=
  s.modStats l (fun t =>
    let t := if fmt = 0 then { t with native := t.native + 1 } else { t with lossy := t.lossy.modify (fmt - 1) (· + 1) }
    match mean with
    | some m => { t with mseSum := t.mseSum ++ [m], mseMax := max t.mseMax (f32Key m) }
    | none => t)

end Sys2Proof.Machine
end

