-- ==== Sys2Proof/Machine/Ward.lean ====
section
/-! DEFINITION. Wardrobe: the model hot set (R252 to R258), map-outs and lost pages (R248 to R250, R377), cold pages,
demotion and promotion (R241 to R245), the page movers' jobs (R505), OP_COPY and OP_FILL (R112), OP_MODEL_LOAD, OP_MODEL_PIN
and OP_MODEL_UNPIN. -/

namespace Sys2Proof.Machine

/-! ### Mailboxes (R410, R430) -/

def State.modCore (s : State) (k : Nat) (f : Core → Core) : State :=
  { s with mgmt := { s.mgmt with cores := s.mgmt.cores.modify k f } }

def coreAt (k : Nat) (s : State) : Core := (s.mgmt.cores[k]?).getD Core.reset

/-- A work item for a core; one that finds the mailbox full is held in order (R430). -/
def pushWork (k : Nat) (w : Work) (s : State) : State := s.modCore k (fun c => { c with mailbox := c.mailbox ++ [w] })

/-- An item in service is finished. -/
def doneWork (k : Nat) (w : Work) (s : State) : State := s.modCore k (fun c => { c with inService := c.inService.erase w })

/-- A running core has an item in service. -/
def hasService (k : Nat) (w : Work) (s : State) : Bool :=
  let c := coreAt k s
  (c.state == .running) && c.inService.contains w

/-! ### Models -/

def State.modModel (s : State) (k : Nat) (f : Model → Model) : State :=
  { s with wrd := { s.wrd with models := tupd s.wrd.models k f } }

/-- Demand for an EVICTED model starts miss service (R253, R255). -/
def demandModel (k : Nat) (s : State) : State :=
  match tget s.wrd.models k with
  | some m =>
    if m.state = .evicted then pushWork 1 (.modelLoad k) (s.modModel k (fun m => { m with state := .miss, frames := [] }))
    else s
  | none => s

/-- A model loses its frames (R253); what fills them is told to stop. -/
def evictModel (k : Nat) (s : State) : State :=
  match tget s.wrd.models k with
  | some m => (freeFrames m.frames (stopJobs (MoveKind.fills k) s)).modModel k (fun m => { m with state := .evicted, frames := [] })
  | none => s

/-- An evicted model that is still demanded misses at once. -/
def redemand (k : Nat) (s : State) : State :=
  match tget s.wrd.models k with
  | some m => if modelInUse m s || !m.waiters.isEmpty then demandModel k s else s
  | none => s

/-- A model that may be evicted (R256). -/
def evictable (m : Model) (s : State) : Bool := (m.state == .resident) && !modelInUse m s

/-- Frames a tenant's models hold, and the incoming ones where it requests them (R256). -/
def tenantHot (t req incoming : Nat) (s : State) : Nat :=
  s.wrd.models.foldl (fun a e => if e.2.tenant = t then a + e.2.frames.length else a) 0 + (if t = req then incoming else 0)

def shareOf (t : Nat) (s : State) : Nat := ((tget s.tenants t).map (fun x => x.rcd.share)).getD 1

/-- The model that is evicted next (R256). -/
def evictNext (req incoming : Nat) (s : State) : Option Nat :=
  let ev := s.wrd.models.filter (fun e => evictable e.2 s)
  let ratioBelow (a b : Nat) : Bool :=
    let x := tenantHot a req incoming s * shareOf b s
    let y := tenantHot b req incoming s * shareOf a s
    decide (x < y ∨ (x = y ∧ b < a))
  let t := ev.foldl (fun (a : Option Nat) e =>
    match a with
    | none => some e.2.tenant
    | some b => if ratioBelow b e.2.tenant then some e.2.tenant else some b) none
  let own := ev.filter (fun e => some e.2.tenant == t)
  (own.foldl (fun (a : Option (Nat × Model)) e =>
    match a with
    | none => some e
    | some b => if e.2.lastUse < b.2.lastUse then some e else some b) none).map (·.1)

/-- Room for f frames is made (R256), and whether it could be; what has been evicted before it fails stays evicted. -/
def makeRoom (req f : Nat) : Nat → State → State × Bool
  | 0, s => (s, false)
  | n + 1, s =>
    if hotFrames s + f ≤ s.wrd.maxFrames ∧ f ≤ fastFreeFrames s then (s, true)
    else match evictNext req f s with
    | some k => makeRoom req f n (evictModel k s)
    | none => (s, false)

/-- f fast frames: the hardware's choice where it keeps R231, else the lowest (log 11). -/
def pickModelFrames (f : Nat) (choice : List Nat) (s : State) : List Nat :=
  let clean := cleanFrames .fast s
  let b := tierBounds .fast s
  let low := clean.take f ++ lowestFree s (reservedRanges s) (fun x => !clean.contains x) b.2 (b.2 - b.1) b.1 (f - clean.length)
  let ok := decide (choice.length = f) && decide choice.Nodup &&
    choice.all (fun x => isFree x s && isFast x s) &&
    decide (choice.countP (fun x => clean.contains x) = min f clean.length)
  if ok then choice else low

/-- Frames become MODEL frames, zeroed (R254). -/
def takeModel (k : Nat) (fs : List Nat) (s : State) : State :=
  let t := (tget s.wrd.models k).map (·.tenant)
  let s := fs.foldl (fun s f => allocFrame t f (Frame.of .model false) s) s
  s.modModel k (fun m => { m with frames := fs })

/-- Who pays for filling a model (R328): the context that loads it, or the tenant that owns it for miss service. -/
def payModel (m : Model) (miss : Bool) : Payer :=
  { ctx := if miss then none else some m.ctx, tenant := some m.tenant, key := some m.tenant, work := some m.tenant }

/-- The copy of a model's source into its frames starts (R254, R258), where no job fills it yet. -/
def fillModel (k : Nat) (s : State) : State :=
  match tget s.wrd.models k with
  | some m =>
    if s.allJobs.any (fun j => j.kind.fills k && !j.stopped) then s
    else startJob (.model k m.src m.frames) m.length false (payModel m (m.state == .miss)) s
  | none => s

/-- The work item of a model that MC1 has taken: a load, or a model whose frames are held, is filled (again, R430). -/
def modelWork (k : Nat) (s : State) : State :=
  match tget s.wrd.models k with
  | none => doneWork 1 (.modelLoad k) s
  | some m =>
    match m.state with
    | .loading => if m.frames.isEmpty then s else fillModel k s
    | .miss => if m.frames.isEmpty then s else fillModel k s
    | _ => doneWork 1 (.modelLoad k) s

/-- Firmware fills a model that misses, where room can be made; otherwise the miss waits (R256, R258). -/
def missFill (k : Nat) (frames : List Nat) (s : State) : State :=
  if !hasService 1 (.modelLoad k) s then s else
  match tget s.wrd.models k with
  | none => doneWork 1 (.modelLoad k) s
  | some m =>
    if m.state = .miss ∧ m.frames = [] then
      match makeRoom m.tenant m.count (s.wrd.models.length + 1) s with
      | (s, true) => fillModel k (takeModel k (pickModelFrames m.count frames s) s)
      | (s, false) => s
    else s

def execModelMissService (k : Nat) (frames : List Nat) (s : State) : Out := .next (missFill k frames s)

def execModelMissRetry (k : Nat) (frames : List Nat) (s : State) : Out := .next (missFill k frames s)

/-- The copy of a model into the frames it holds has landed (R253): RESIDENT, and the commands that waited complete. -/
def modelLanded (k : Nat) (s : State) : State :=
  match tget s.wrd.models k with
  | none => doneWork 1 (.modelLoad k) s
  | some m =>
    if m.frames.isEmpty then s else
    let s := m.waiters.foldl (fun s w => finishOk (qkey w.1 w.2.1) w.2.2 s) s
    reapModel k (doneWork 1 (.modelLoad k) (s.modModel k (fun m => { m with state := .resident, waiters := [] })))

/-! ### Lost pages (R247, R250) -/

/-- The boundary of a loop is in progress: its record is written and stage 7 has not launched it (R184). -/
def atBoundary (l : Nat) (s : State) : Bool := ((tget s.trestle.loops l).map (fun lp => lp.phase == .recorded)).getD false

/-- The MEM_ERROR record of a sequence that a page of a frame was reported lost to (R210, R250). -/
def lostRecord (q : Seq) (f : Nat) (s : State) : State :=
  hutchRec 0x08 (ctxHead s q.ctx q.admitTag)
    (memErrAt (frameTier f s) 6 (frameLoc f s).addr q.seqId 0xFFFF 0 s) s

/-- Status of a verdict's reason (R210). -/
def reasonStatus (r : Nat) : Status :=
  if r ≤ 3 then .ok else if r = 4 then .aborted else if r ≤ 6 then .preemptedDiscard else if r = 7 then .memUncorrectable
  else .engineFault

/-- A sequence ends with its verdict. -/
def endVerdict (i : Nat) (s : State) : State :=
  match tget s.trestle.seqs i with
  | some q =>
    match q.verdict with
    | some (r, x) => endSeq i (reasonStatus r) r x (if r = 7 then lostRecord q (q.lostPage.getD 0xFFFFFFFF) s else s)
    | none => s
  | none => s

/-- A holder of a lost page that does not run ends at once, after stage 7 where a boundary of its loop is in progress (R205,
R218); the others end at their boundary. Reason 7 where the page was reported uncorrectable (R250). -/
def loseHolder (f : Nat) (uncorrectable : Bool) (i : Nat) (s : State) : State :=
  let s := if uncorrectable then s.modSeq i (fun q => { q with lostPage := some f }) else s
  match tget s.trestle.seqs i with
  | none => s
  | some q =>
    if !q.parked then s
    else if atBoundary q.loopId s then
      s.modSeq i (fun q => { q with verdict := some (q.verdict.getD (if uncorrectable then 7 else 6, 0xFF)) })
    else if uncorrectable then endSeq i .memUncorrectable 7 0xFF (lostRecord q f s)
    else endSeq i .preemptedDiscard 6 0xFF s

/-- The frame a page is being moved to from a frame, where that move is in flight and no other page holds the frame. -/
def movingTo (f : Nat) (s : State) : Option Nat :=
  if (holdersOf f s).isEmpty then
    s.allJobs.findSome? (fun j => match j.kind with | .page a b .. => if a = f then some b else none | _ => none)
  else none

/-- A page's data are gone (R247, R250): its leaf entry is marked, the frame it holds is LOST, and its holders end. -/
def losePage (at_ : Nat) (uncorrectable : Bool) (s : State) : State :=
  let f := (movingTo at_ s).getD at_
  let hs := holdersOf f s
  let x := frameAt f s
  let s := setFrame f { x with state := .lost } (modEntry f (fun e => { e with lost := true }) s)
  let s := match hs with
    | (i, _) :: _ => match tget s.trestle.seqs i with
      | some q => s.modStats q.loopId (fun t => { t with lost := t.lost + 1 })
      | none => s
    | [] => s
  let loops := (hs.filterMap (fun h => (tget s.trestle.seqs h.1).map (·.loopId))).eraseDups
  loops.foldl (fun s l => closeIfDone l s) (hs.foldl (fun s h => loseHolder f uncorrectable h.1 s) s)

/-- A frame holds a KV page, also while it is LEAVING, or is the source of a page's move (R249, R250). -/
def holdsPage (f : Nat) (s : State) : Bool :=
  let x := frameAt f s
  (x.state == .kv) || ((x.state == .leaving) && (x.was == .kv)) || (movingTo f s).isSome

/-! ### Map-outs (R248 to R251) -/

/-- A frame whose move is in flight. -/
def beingMoved (f : Nat) (s : State) : Bool := s.allJobs.any (fun j => j.kind.frames.contains f)

def replaceAll (a b : Nat) (l : List Nat) : List Nat := l.map (fun x => if x = a then b else x)

/-- A LEAVING frame is moved to a free frame (R249). A page's leaf entry follows at once; what refers to a model or save frame
follows when the move lands. It stays LEAVING until then. -/
def mapMove (f dst : Nat) (s : State) : State :=
  let x := frameAt f s
  match x.was with
  | .kv => movePage f dst x.format false false false none s
  | _ => startJob (.saveMove f dst) (pageBytes s) false (Payer.nobody) (setFrame dst (Frame.of x.was false) s)

/-- References to a moved model or save frame follow it (R249). -/
def follow (f dst : Nat) (s : State) : State :=
  { s with
    wrd := { s.wrd with models := tmapv s.wrd.models (fun _ m => { m with frames := replaceAll f dst m.frames }) },
    sched := { s.sched with residencies := tmapv s.sched.residencies (fun _ r => { r with saveFrames := replaceAll f dst r.saveFrames }) },
    contexts := tmapv s.contexts (fun _ c => { c with saveFrames := replaceAll f dst c.saveFrames }) }

/-- What becomes of a LEAVING frame when it can be moved (R249); dst: the hardware's choice. -/
def leaveFrame (f : Nat) (dst : Option Nat) (s : State) : State :=
  let x := frameAt f s
  if x.state ≠ .leaving ∨ beingMoved f s = true then s else
  match x.was with
  | .model =>
    match pickFrame .fast dst s with
    | some d => mapMove f d s
    | none =>
      match s.wrd.models.find? (fun e => e.2.frames.contains f) with
      | some (k, _) => redemand k (evictModel k s)
      | none => freeFrame f s
  | _ =>
    match pickFrame .fast dst s with
    | some d => mapMove f d s
    | none => match pickFrame .slow dst s with
      | some d => mapMove f d s
      | none => s

/-- The context whose state a save frame holds. -/
def saveOwner (f : Nat) (s : State) : Option Nat :=
  match s.sched.residencies.find? (fun e => e.2.saveFrames.contains f) with
  | some e => some e.2.ctx
  | none => (s.contexts.find? (fun e => e.2.saveFrames.contains f)).map (·.1)

/-- A frame of a context that is lost is torn down for is in no list of it any more. -/
def forgetSave (f : Nat) (s : State) : State :=
  { s with sched := { s.sched with residencies := tmapv s.sched.residencies (fun _ r => { r with saveFrames := r.saveFrames.filter (· != f) }) },
           contexts := tmapv s.contexts (fun _ c => { c with saveFrames := c.saveFrames.filter (· != f) }) }

/-- A LEAVING frame of a channel whose data are gone (R249). -/
def loseFrame (f : Nat) (s : State) : State :=
  match (frameAt f s).was with
  | .kv => losePage f false s
  | .model =>
    match s.wrd.models.find? (fun e => e.2.frames.contains f) with
    | some (k, _) => redemand k (evictModel k s)
    | none => freeFrame f s
  | _ =>
    match saveOwner f s with
    | some c =>
      let a := (frameLoc f s).addr
      freeFrame f (forgetSave f (beginTeardown c true { FaultInfo.of .memUncorrectable 5 s.now with address := a }
        (some (0x08, memErr (tierCode (frameTier f s)) 5 ((s.wrd.mapout.map (·.channel)).getD 0xFFFF) f a 0 0xFFFF 0)) s))
    | none => freeFrame f s

/-- Units of a map-out that a range of a tier covers. -/
def unitsHit (m : Mapout) (t : Tier) (base size : Nat) : Bool :=
  (m.tier == t) && m.units.any (fun u => decide (u * 262144 < base + size ∧ base < (u + 1) * 262144))

/-- The tenant whose arena a map-out meets. -/
def arenaHit (m : Mapout) (s : State) : Option Nat :=
  (s.tenants.find? (fun e => unitsHit m .fast e.2.rcd.fastBase e.2.rcd.fastSize ||
    unitsHit m .slow e.2.rcd.slowBase e.2.rcd.slowSize)).map (·.1)

/-- A map-out meets an arena: every context of its owner is torn down (R377). -/
def tearArena (m : Mapout) (s : State) : State :=
  let ts := (s.tenants.filter (fun e => unitsHit m .fast e.2.rcd.fastBase e.2.rcd.fastSize ||
    unitsHit m .slow e.2.rcd.slowBase e.2.rcd.slowSize)).map (·.1)
  s.contexts.foldl (fun s e =>
    if ts.contains e.2.rcd.tenant then
      beginTeardown e.1 true (FaultInfo.of .memUncorrectable 5 s.now)
        (some (0x08, memErr (tierCode m.tier) 5 m.channel (frameOfAddr m.tier ((m.units.headD 0) * 262144) s)
          ((m.units.headD 0) * 262144) 0 0xFFFF 0)) s
    else s) s

/-- A MAPOUT record, sent when the map-out ends (R504, R382). -/
def mapoutEnd (m : Mapout) (s : State) : State :=
  let s := hutchRec 0x0B RecHead.blank
    (le 1 (tierCode m.tier) ++ le 1 (b2n m.lost) ++ le 1 m.source ++ le 1 m.outcome ++ le 2 m.channel ++ le 2 m.tenant ++
     le 4 m.removed ++ le 4 m.invalidated ++ zeros 16) s
  notify { s with wrd := { s.wrd with mapout := none, mapoutLast := (m.channel, m.lost) } }

/-- LEAVING frames are left (R251: pending). -/
def leavingCount (s : State) : Nat := s.wrd.frames.countP (fun e => e.2.state == .leaving)

/-- Steps 1 to 3 of R249. -/
def startMapout (m : Mapout) (s : State) : State :=
  let hk := unitsHit m .fast s.wrd.hkBase Config.gib
  let spill := s.watch.spillValid && unitsHit m .slow s.watch.spillBase Config.gib
  let arena := arenaHit m s
  let all := framesOfUnits m.tier m.units s
  let removed := all.countP (fun f => (frameAt f s).state != .reserved && (frameAt f s).state != .lost)
  let used := (s.wrd.frames.filter (fun e => all.contains e.1 &&
    (match e.2.state with | .kv | .model | .save => true | _ => false))).map (·.1)
  let m := { m with removed := removed, invalidated := if m.lost then used.length else 0,
                    outcome := if hk then 1 else if arena.isSome then 2 else 0, tenant := arena.getD 0xFFFF }
  let frames := (tkeep s.wrd.frames (fun f x => !(all.contains f && x.state == .free)))
  let s := { s with wrd := { s.wrd with
    mapout := some m, mapoutLast := (m.channel, m.lost), removedTotal := s.wrd.removedTotal + removed,
    outUnits := s.wrd.outUnits ++ m.units.map (fun u => (m.tier, u)),
    outChannels := s.wrd.outChannels ++ [(m.tier, m.channel)],
    frames := tmapv frames (fun f x => if used.contains f then { x with was := x.state, state := .leaving } else x) } }
  let s := match m.tier with
    | .fast => s.modSlice (m.channel / 8) (fun x => { x with fastChannels := 7 })
    | .slow => s
  let s := capacityEvent 1 m s
  let s := if spill then { s with hutch := { s.hutch with spillOk := false } } else s
  let s := if arena.isSome then tearArena m s else s
  let s := if hk then orderStage4 13 false s else s
  let models := used.filter (fun f => (frameAt f s).was == .model)
  let rest := used.filter (fun f => (frameAt f s).was != .model)
  (models ++ rest).foldl (fun s f => if m.lost then loseFrame f s else leaveFrame f none s) s

/-- A self-test's result word is written and its command retires (R453, R454). -/
def finishTest (k pos word : Nat) (s : State) : State :=
  match s.cmd k pos with
  | some m => if m.latch.isNone && m.running then finishOk k pos (putResult k m 20 24 (le 8 word) s) else s
  | none => s

/-- A partition has failed a self-test (R454, R461): it is counted, and MC3 logs it at level 0. -/
def failTest (p : Nat) (s : State) : State :=
  let w := s.power
  let fs := if w.failedParts.contains p then w.failedParts else w.failedParts ++ [p]
  pushWork 2 (.log 0 3 p) { s with power := { w with failedParts := fs, selftestsFailed := satInc 8 w.selftestsFailed } }

/-- The running self-test of a partition ends with a detail, 0 for a pass (R454). -/
def testEnd (p detail : Nat) (s : State) : State :=
  match s.power.tests.find? (fun t => t.1 == p && t.2.2.2.1) with
  | none => s
  | some t =>
    let us := (s.now - t.2.2.2.2) / Config.us
    let word := us % 2 ^ 32 * 2 ^ 32 + detail % 256 * 2 ^ 8 + (if detail = 0 then 0 else 1)
    doneWork 3 (.selftest p) (finishTest t.2.1 t.2.2.1 word { s with power := { s.power with tests := s.power.tests.erase t } })

/-- The last steps of a partition reset, once every channel of the partition is ready or mapped out (R362 steps 7 and 8,
R365): its benches enter CLEARING, and the stage ends; a self-test gives its result (R453). A partition that has failed a self-test
keeps its benches OUT until the next compute reset (R454). -/
def settlePart (p : Nat) (s : State) : State :=
  match stageOf 2 p s with
  | none => s
  | some x =>
    let ok (i : Nat) : Bool := x.ready.contains (8 * p + i) || s.wrd.outChannels.contains (.fast, 8 * p + i)
    if x.phase = 4 ∧ (List.range 8).all ok = true then
      let failed := decide (x.detail ≠ 0) || s.power.failedParts.contains p
      let s := if failed then s else setBenches (partBenches p) (fun b => if b.state = .out then { b with state := .clearing, res := none } else b)
        (emitAll (((partBenches p).filter (fun b => (benchAt b s).state == .out)).map (fun b => .clear b none)) s)
      let s := { s with sched := { s.sched with unusable := s.sched.unusable.filter (fun u => u != p || s.power.tests.any (fun t => t.1 == p && !t.2.2.2.1)) } }
      let s := if x.test then testEnd p x.detail s else s
      let s := stageEnd x 0 s
      let s := if x.byCmd then rstDone 0 s else s
      trace 14 0 0xFFFF 0 2 (dropStage 2 p s)
    else s

/-- A map-out starts; a partition under reset that waited for its phase 1 comes back (R365). -/
def beginMapout (m : Mapout) (s : State) : State :=
  let s := startMapout m s
  match m.tier with
  | .fast => settlePart (m.channel / 8) s
  | .slow => s

/-- A map-out with no LEAVING frame left ends (R249 step 5), and the next request starts (R251). -/
def settleMapout : Nat → State → State
  | 0, s => s
  | n + 1, s =>
    match s.wrd.mapout with
    | some m => if leavingCount s = 0 then settleMapout n (mapoutEnd m (capacityEvent 2 m s)) else s
    | none =>
      match s.wrd.mapoutWait with
      | m :: t => settleMapout n (beginMapout m { s with wrd := { s.wrd with mapoutWait := t } })
      | [] => s

def checkMapout (s : State) : State := settleMapout (2 * s.wrd.mapoutWait.length + 2) s

/-- A map-out request of firmware (R248, R251). -/
def mapoutRequest (tier : Tier) (ch : Nat) (lost : Bool) (units : List Nat) (source : Nat) (s : State) : State :=
  let m : Mapout := { tier := tier, channel := ch, lost := lost, units := units, source := source, removed := 0,
                      invalidated := 0, outcome := 0, tenant := 0xFFFF }
  if !hasService 1 (.mapout m) s then s
  else checkMapout (doneWork 1 (.mapout m) { s with wrd := { s.wrd with mapoutWait := s.wrd.mapoutWait ++ [m] } })

def execMapoutRequest (tier : Tier) (ch : Nat) (lost : Bool) (units : List Nat) (source : Nat) (s : State) : Out :=
  .next (mapoutRequest tier ch lost units source s)

/-- A move that waited for a free frame is tried again (R249). -/
def execMapoutMoveRetry (f dst : Nat) (s : State) : Out := .next (checkMapout (leaveFrame f (some dst) s))

/-! ### Cold pages, demotion and promotion (R241 to R245) -/

/-- A sequence has an entry in a running step. -/
def seqRuns (i : Nat) (s : State) : Bool :=
  match tget s.trestle.seqs i with
  | some q => match tget s.trestle.loops q.loopId with
    | some l => (l.phase == .running) && l.entries.any (fun e => e.seqIdx == i)
    | none => false
  | none => false

/-- A cold page (R241); a replay loop's pages are never cold (R395). -/
def isCold (f : Nat) (s : State) : Bool :=
  let x := frameAt f s
  isFast f s && (x.state == .kv) && !x.accessed && !beingMoved f s &&
  (match frameLoop f s with
   | some (_, l) => l.replay.isNone && (ctxCls s l.ctx != .rt)
   | none => false) &&
  (holdersOf f s).all (fun h => !seqRuns h.1 s &&
    ((tget s.trestle.seqs h.1).map (fun q => (pageFrames q s).getLast? != some f)).getD true)

/-- Fast KV frames in clock order from the hand (R242). -/
def clockOrder (s : State) : List Nat :=
  let fs := (s.wrd.frames.filter (fun e => isFast e.1 s && (e.2.state == .kv))).map (·.1)
  fs.filter (fun f => decide (s.wrd.hand ≤ f)) ++ fs.filter (fun f => decide (f < s.wrd.hand))

/-- Cold pages of tenants other than t, by ascending share, then clock order (R242 group 2); t none: of every tenant. -/
def coldOthers (t : Option Nat) (s : State) : List Nat :=
  let fs := (clockOrder s).filterMap (fun f =>
    match frameLoop f s with
    | some (_, l) => if isCold f s && some l.tenant != t then some (shareOf l.tenant s, f) else none
    | none => none)
  (sortBy (fun a b => decide (a.1 < b.1)) fs).map (·.2)

/-- Cold pages of a tenant in clock order (R242 group 1). -/
def coldOwn (t : Nat) (s : State) : List Nat :=
  (clockOrder s).filter (fun f => isCold f s && ((frameLoop f s).map (fun p => p.2.tenant)) == some t)

/-- A page is demoted (R192, R242, R243): to a slow frame, in its own loop's format where it is native and conversion is asked
for; early: its frame is counted free at once. -/
def demotePage (f : Nat) (convert early background : Bool) (ctx : Option Nat) (dst : Option Nat) (s : State) : State :=
  match pickFrame .slow dst s with
  | none => s
  | some d =>
    let x := frameAt f s
    let fmt := match frameLoop f s with
      | some (_, l) => if convert && decide (x.format = 0) then l.params.demoteFormat else x.format
      | none => x.format
    movePage f d fmt true early background ctx s

/-- Up to n cold pages are demoted for a boundary of tenant t's loop (R242). -/
def demoteCold (n t : Nat) (ctx : Option Nat) (choice : List Nat) (s : State) : State :=
  let own := coldOwn t s
  let list := (own.map (fun f => (f, true)) ++ (coldOthers (some t) s).map (fun f => (f, false))).take n
  (list.zipIdx).foldl (fun s e => demotePage e.1.1 e.1.2 true false ctx choice[e.2]? s) s

/-- The free count below which background demotion runs (R244). -/
def demoteTarget (s : State) : Nat := if 2 ≤ s.power.level then s.wrd.promoteAbove else s.wrd.demoteBelow

/-- Background demotion of the next cold page (R244). -/
def backgroundDemote (f dst : Nat) (s : State) : State :=
  if freeFast s < (demoteTarget s : Int) ∧ (coldOthers none s).head? = some f then demotePage f false false true none (some dst) s
  else s

def execBackgroundDemote (f dst : Nat) (s : State) : Out := .next (backgroundDemote f dst s)

/-- A slow page is promoted, in its stored format (R245). -/
def promotePage (f : Nat) (background : Bool) (ctx : Option Nat) (dst : Option Nat) (s : State) : State :=
  match pickFrame .fast dst s with
  | some d => movePage f d (frameAt f s).format false false background ctx s
  | none => s

/-- A slow page held by a sequence in PREFILL or DECODE, no holder of which runs (R244). -/
def promotable (f : Nat) (s : State) : Bool :=
  isFrame f s && !isFast f s && ((frameAt f s).state == .kv) && !beingMoved f s &&
  (holdersOf f s).all (fun h => !seqRuns h.1 s) &&
  (holdersOf f s).any (fun h => ((tget s.trestle.seqs h.1).map (fun q => q.state == .prefill || q.state == .decode)).getD false)

/-- The slow pages that may be promoted, in clock order: the hand stands below every slow-tier frame, so by frame number
(R244; log 84). -/
def promoteOrder (s : State) : List Nat := (s.wrd.frames.map (·.1)).filter (fun f => promotable f s)

/-- Background promotion of the next page (R244). -/
def backgroundPromote (f dst : Nat) (s : State) : State :=
  if s.power.level = 0 ∧ (s.wrd.promoteAbove : Int) < freeFast s ∧ (promoteOrder s).head? = some f then
    promotePage f true none (some dst) s
  else s

def execBackgroundPromote (f dst : Nat) (s : State) : Out := .next (backgroundPromote f dst s)

/-- Zeroing of a free frame that no holder awaits (R232). -/
def backgroundZero (f : Nat) (s : State) : State :=
  if s.wrd.built && isFree f s && (frameAt f s).zeroPending && !inFlight f s then
    startJob (.zero f) (pageBytes s) true Payer.nobody s
  else s

def execBackgroundZero (f : Nat) (s : State) : Out := .next (backgroundZero f s)

/-- The clock hand visits n fast frames (R241). -/
def wardrobeSweep (n : Nat) (s : State) : State :=
  let total := fFast s
  if total = 0 ∨ s.wrd.built = false then s else
  let near (f : Nat) : Bool := decide (f < total ∧ (f + total - s.wrd.hand) % total < n)
  { s with wrd := { s.wrd with
      frames := tmapv s.wrd.frames (fun f x => if near f && x.state == .kv then { x with accessed := false } else x),
      hand := (s.wrd.hand + n) % total } }

def execWardrobeSweep (n : Nat) (s : State) : Out := .next (wardrobeSweep n s)

/-- The frame table build is complete (R221, R498). -/
def frameTableBuilt (s : State) : State := if s.wrd.enable then { s with wrd := { s.wrd with built := true, hand := 0 } } else s

def execFrameTableBuilt (s : State) : Out := .next (frameTableBuilt s)

/-! ### The page movers (R505) -/

/-- A job that a mover may serve in a slot (R295): a sealed tenant's slot serves that tenant's jobs alone, another slot the
jobs of no sealed tenant; background work uses no sealed slot (R451). -/
def inSlot (slot : Option Nat) (j : MoveJob) (s : State) : Bool :=
  match slot with
  | some t => (j.work == some t) && isSealedT s (some t) && !j.background
  | none => !isSealedT s j.work

/-- Pieces of 4 KiB that a mover carries in 10 us (R451): 10 us x 512 GB/s. -/
def aheadPieces : Nat := 1250

/-- The 1 ms interval of the block time base (R451). -/
def State.ms (s : State) : Nat := s.now / (1000 * Config.us)

/-- A mover's background work comes ahead of foreground work: at the end of a foreground piece, for up to 10 us in every 1 ms interval
(R451; one piece at a time: log 117). -/
def Mover.aheadDue (m : Mover) (s : State) : Bool := m.foreground && (m.aheadMs != s.ms || decide (m.ahead < aheadPieces))

/-- The job a mover serves next in a slot: foreground jobs in order, then background ones (R505), or background work ahead of
them (R451). A job that waits for another's frame keeps its place, and the mover waits with it. -/
def Mover.serves (m : Mover) (slot : Option Nat) (s : State) : Option Nat :=
  let fg := m.jobs.findIdx? (fun j => !j.background && inSlot slot j s)
  let bg := m.jobs.findIdx? (fun j => j.background && inSlot slot j s)
  if m.aheadDue s then bg.or fg else fg.or bg

/-- A mover has served a piece of a job; one of background work counts where foreground work waits (R451). -/
def Mover.served (background : Bool) (slot : Option Nat) (s : State) (m : Mover) : Mover :=
  let waits := m.jobs.any (fun j => !j.background && inSlot slot j s)
  if background && waits then { m with foreground := false, aheadMs := s.ms, ahead := if m.aheadMs = s.ms then m.ahead + 1 else 1 }
  else { m with foreground := !background }

/-- The stored bytes of a page move from one frame to another (R247): carried whole, the rest of the frame zero (R231). -/
def carryPage (src dst n : Nat) (s : State) : State :=
  memCopy (frameLoc src s) (frameLoc dst s) n (memZero (frameLoc dst s) (pageBytes s) s)

/-- A page move converts the page that it carries (R243): its loop is open, and a recorded conversion of a replay is not gated
(R246). -/
def MoveJob.converts (j : MoveJob) (s : State) : Bool :=
  match j.kind with
  | .page src dst fmt (some l) true early _ =>
    let x := frameAt dst s
    (tget s.trestle.loops l).isSome && decide (fmt ≠ (if early then x.format else (frameAt src s).format)) && decide (x.holders ≠ 0)
  | _ => false

/-- A demotion or swap that converts has landed (R239, R240, R246): the error gate decides the format, but in a replay the record. -/
def convertLanded (j : MoveJob) (src dst fmt l step : Nat) (lp : Loop) (s : State) : State :=
  let page := memRead (frameLoc src s) (pageBytes s) s
  let mean := pageMse fmt page
  if lp.replay.isNone && gateFails mean lp.params.mse page then
    (countDemoted l 0 none (moverWrote j (frameLoc dst s) (pageBytes s) (carryPage src dst (pageBytes s) s))).modStats l
      (fun t => { t with gated := t.gated + 1 })
  else
    let s := convertFrame dst fmt (memCopy (frameLoc src s) (frameLoc dst s) (pageBytes s) s)
    journalConvert l dst fmt step (countDemoted l fmt (some mean) (moverWrote j (frameLoc dst s) (storedBytes fmt s) s))

/-- The bytes of a page move have arrived (R239, R240, R247): the conversion, or the statistics of its loop. -/
def pageArrives (j : MoveJob) (src dst fmt : Nat) (loopId : Option Nat) (demote : Bool) (step : Nat) (s : State) : State :=
  let x := frameAt dst s
  match loopId.bind (fun l => (tget s.trestle.loops l).map (fun lp => (l, lp))) with
  | none => s
  | some (l, lp) =>
    if demote && decide (fmt ≠ x.format) then convertLanded j src dst fmt l step lp s
    else if demote then countDemoted l x.format none s
    else if isFast dst s && !isFast src s && (frameAt src s).state != .leaving then
      s.modStats l (fun t => { t with promoted := t.promoted + 1 })
    else s

/-- A later move takes a page on from a frame that was counted free when it started (R192). -/
def passedOn (j : MoveJob) (dst : Nat) (s : State) : Bool :=
  s.allJobs.any (fun k => decide (j.id < k.id) && (match k.kind with | .page a _ _ _ _ e _ => decide (a = dst) && e | _ => false))

/-- A page move has landed (R247): the source is freed, unless it was when the move started; a page that no sequence holds any
more frees its destination too, and a lost one carries nothing. The page arrives in the format it has in the source, which an
earlier move may have written after this one started. -/
def pageLanded (j : MoveJob) (src dst fmt : Nat) (loopId : Option Nat) (demote early : Bool) (step : Nat) (s : State) : State :=
  if passedOn j dst s then
    let s := if j.converts s then moverWrote j (frameLoc dst s) (pageBytes s) (carryPage src dst (pageBytes s) s) else s
    trace 9 0 0xFFFF 0 dst (if early then s else freeFrame src s)
  else
    let s := if early then s else setFrame dst { frameAt dst s with format := (frameAt src s).format } s
    let x := frameAt dst s
    let s := if x.state = .lost ∨ x.holders = 0 then s else pageArrives j src dst fmt loopId demote step s
    let s := if early then s else freeFrame src s
    trace 9 0 0xFFFF 0 dst (if x.holders = 0 then freeFrame dst s else s)

/-- A map-out's move of a model or save frame has landed (R249): what refers to the frame follows; where it was freed
meanwhile, so is the destination. -/
def frameLanded (src dst : Nat) (s : State) : State :=
  if (frameAt src s).state = .leaving then freeFrame src (follow src dst s) else freeFrame dst s

/-- What a job that has landed whole does. -/
def jobLanded (j : MoveJob) (s : State) : State :=
  match j.kind with
  | .copy c q pos _ _ => settleStops (finishOk (qkey c q) pos s)
  | .fill c q pos _ _ => settleStops (finishOk (qkey c q) pos s)
  | .model k _ _ => modelLanded k s
  | .page src dst fmt l demote early step => checkMapout (pageLanded j src dst fmt l demote early step s)
  | .cow _ dst =>
    let x := frameAt dst s
    if x.state = .kv ∧ x.holders = 0 ∧ arriving dst s = false then freeFrame dst s else s
  | .zero f =>
    let x := frameAt f s
    let s := memZero (frameLoc f s) (pageBytes s) s
    if x.state = .free ∧ x.zeroPending = true then setFrame f (Frame.of .free false) s
    else if x.state = .kv ∧ x.holders = 0 ∧ arriving f s = false then freeFrame f s
    else s
  | .saveMove src dst => checkMapout (frameLanded src dst s)

/-- Bytes of its frame that a page's move carries, or a copy on write: the stored bytes of the page's format, the whole frame
where a later move takes the page on, none of a lost page (R247). -/
def MoveJob.carries (j : MoveJob) (s : State) : Nat :=
  match j.kind with
  | .page src dst _ _ _ early _ =>
    if passedOn j dst s then pageBytes s
    else if (frameAt dst s).state = .lost then 0
    else storedBytes (frameAt (if early then dst else src) s).format s
  | .cow _ dst => storedBytes (frameAt dst s).format s
  | .saveMove src _ => if (frameAt src s).state = .leaving then pageBytes s else 0
  | _ => 0

/-- A piece of a frame is carried to another frame (R505): the rest of that frame becomes zero (R231). A page that is converted is
written when the whole of it has been read. -/
def framePiece (j : MoveJob) (src dst n : Nat) (s : State) : State :=
  let k := min n (j.carries s - j.done)
  let a := (frameLoc src s).plus j.done
  let b := (frameLoc dst s).plus j.done
  let s := moverRead j a k s
  if j.converts s then s
  else moverWrote j b k (memCopy a b k (if j.done = 0 then memZero (frameLoc dst s) (pageBytes s) s else s))

/-- The bytes of a piece of a job are moved (R505): a zeroing goes out as WR_ZERO requests (R472). -/
def pieceMoved (j : MoveJob) (n : Nat) (s : State) : State :=
  match j.kind with
  | .copy _ _ _ src dst =>
    let a := src.plus j.done
    let b := dst.plus j.done
    let bs := memRead a n s
    let s := moverRead j a n s
    if (b.space = .host ∧ hostDropped b s = true) ∨ hostStopped a s = true then s else moverWrote j b n (memWrite b bs s)
  | .fill _ _ _ dst pat =>
    let b := dst.plus j.done
    if b.space = .host ∧ hostDropped b s = true then s
    else moverWrote j b n (memWrite b ((List.range n).map (fun i => (pat[i % pat.length]?).getD 0)) s)
  | .model k src _ =>
    match tget s.wrd.models k with
    | none => s
    | some m =>
      let p := pageBytes s
      match m.frames[j.done / p]? with
      | none => s
      | some f =>
        let b := (frameLoc f s).plus (j.done % p)
        if hostStopped (src.plus j.done) s then s else
        moverWrote j b n (memCopy (src.plus j.done) b n (moverRead j (src.plus j.done) n s))
  | .zero f => emitAll (zeroReqs none (.mover j.mover) ((frameLoc f s).plus j.done) n) s
  | .page src dst .. => framePiece j src dst n s
  | .cow src dst => framePiece j src dst n s
  | .saveMove src dst => framePiece j src dst n s

/-- Where the next piece of a job lies: what it reads and what it writes. -/
def MoveJob.places (j : MoveJob) (s : State) : List Loc :=
  let at_ (f : Nat) : Loc := (frameLoc f s).plus j.done
  match j.kind with
  | .copy _ _ _ src dst => [src.plus j.done, dst.plus j.done]
  | .fill _ _ _ dst _ => [dst.plus j.done]
  | .model k src _ =>
    src.plus j.done :: (((tget s.wrd.models k).bind (fun m => m.frames[j.done / pageBytes s]?)).map (fun f =>
      (frameLoc f s).plus (j.done % pageBytes s))).toList
  | .zero f => [at_ f]
  | .page src dst .. => [at_ src, at_ dst]
  | .cow src dst => [at_ src, at_ dst]
  | .saveMove src dst => [at_ src, at_ dst]

/-- The requests of a job's next piece are held at a memory fabric port (R362). -/
def MoveJob.held (j : MoveJob) (n : Nat) (s : State) : Bool := (j.places s).any (fun l => rangeHeld l n s)

def State.modMover (s : State) (m : Nat) (f : Mover → Mover) : State :=
  { s with wrd := { s.wrd with movers := s.wrd.movers.modify m f } }

/-- A mover lands 4 KiB. -/
def Mover.tick (now : Nat) (m : Mover) : Mover := { m with progress := (m.progress + 1) % 2 ^ 32, advanced := now }

/-- A piece of 4 KiB lands on a mover in a slot: jobs of the slot that were told to stop end, otherwise the job it serves advances
(R505, R85, R295). -/
def moverPieceLanded (m : Nat) (slot : Option Nat) (s : State) : State :=
  match s.wrd.movers[m]? with
  | none => s
  | some x =>
    let ends (j : MoveJob) : Bool := j.stopped && inSlot slot j s
    if x.jobs.any ends then
      settleStops (s.modMover m (fun x => Mover.tick s.now { x with jobs := x.jobs.filter (fun j => !ends j) }))
    else match (x.serves slot s).bind (fun i => (x.jobs[i]?).map (fun j => (i, j))) with
    | none => s
    | some (i, j) =>
      let n := min 4096 (j.total - j.done)
      if jobWaits j s || j.held n s then s
      else
        let s := pieceMoved j n (s.modMover m (Mover.served j.background slot s))
        if j.total ≤ j.done + n then jobLanded j (s.modMover m (fun x => Mover.tick s.now { x with jobs := x.jobs.eraseIdx i }))
        else s.modMover m (fun x => Mover.tick s.now { x with jobs := x.jobs.modify i (fun j => { j with done := j.done + n }) })

def execMoverPieceLanded (m : Nat) (slot : Option Nat) (s : State) : Out := .next (moverPieceLanded m slot s)

/-! ### Commands of the page movers and the hot set -/

/-- OP_COPY (R112): a job of a page mover. -/
def opCopy (c q pos : Nat) (s : State) : State :=
  let k := qkey c q
  match starting k pos 0x03 s with
  | none => s
  | some m =>
    match operandLoc k m 16 24 s, operandLoc k m 20 32 s with
    | some a, some b => startJob (.copy c q pos a b) (fld m.entry 40 8) false (payCtx c s) (begun k pos s)
    | _, _ => finish k pos .stale 16 (begun k pos s)

def execOpCopy (c q pos : Nat) (s : State) : Out := .next (opCopy c q pos s)

/-- OP_FILL (R112). -/
def opFill (c q pos : Nat) (s : State) : State :=
  let k := qkey c q
  match starting k pos 0x04 s with
  | none => s
  | some m =>
    match operandLoc k m 16 24 s with
    | some d => startJob (.fill c q pos d (slice m.entry 40 (fld m.entry 20 1))) (fld m.entry 32 8) false (payCtx c s) (begun k pos s)
    | none => finish k pos .stale 16 (begun k pos s)

def execOpFill (c q pos : Nat) (s : State) : Out := .next (opFill c q pos s)

/-- An entry of the model directory is made for an OP_MODEL_LOAD (R253, R254). R256 counts a model's last use from its most recent
launch; before the first, here from its load (DESIGN CHOICE, log 126). -/
def registerModel (c q pos : Nat) (m : Cmd) (src : Loc) (st : ModelState) (s : State) : State :=
  let k := s.wrd.nextModel
  let skey := objKey c (hIndex (fld m.entry 24 4))
  let x : Model := { tenant := (s.tenantOf c).getD 0, key := fld m.entry 16 8, state := st, frames := [],
                     count := ceilDiv (fld m.entry 40 8) (pageBytes s), pins := 0, srcKey := skey, src := src,
                     srcOffset := fld m.entry 32 8, length := fld m.entry 40 8, ctx := c, lastUse := s.now,
                     waiters := if st = .loading then [(c, q, pos)] else [], orphan := false }
  addRef skey { s with wrd := { s.wrd with nextModel := k + 1, models := tset s.wrd.models k x } }

/-- OP_MODEL_LOAD (R254): the model enters LOADING, or IN_PLACE for a swap-mode context; MC1 copies it (R410). -/
def opModelLoad (c q pos : Nat) (frames : List Nat) (s : State) : State :=
  let k := qkey c q
  match starting k pos 0x0C s with
  | none => s
  | some m =>
    let s := begun k pos s
    match modelRefusal c m.entry s, operandLoc k m 24 32 s with
    | some r, _ => finish k pos r.1 r.2 s
    | none, none => finish k pos .stale 24 s
    | none, some src =>
      let id := s.wrd.nextModel
      if ctxSwap s c then finishOk k pos (registerModel c q pos m src .inPlace s)
      else
        let n := ceilDiv (fld m.entry 40 8) (pageBytes s)
        match makeRoom ((s.tenantOf c).getD 0) n (s.wrd.models.length + 1) s with
        | (s, false) => finish k pos .noMemory 6 s
        | (s, true) =>
          let fs := pickModelFrames n frames s
          pushWork 1 (.modelLoad id) (takeModel id fs (registerModel c q pos m src .loading s))

def execOpModelLoad (c q pos : Nat) (frames : List Nat) (s : State) : Out := .next (opModelLoad c q pos frames s)

/-- Frames of pinned models, with those of one more (R255). -/
def pinnedFrames (id : Nat) (s : State) : Nat :=
  s.wrd.models.foldl (fun a e => if (0 < e.2.pins ∨ e.1 = id) ∧ e.2.state ≠ .inPlace then a + e.2.count else a) 0

/-- OP_MODEL_PIN (R255). -/
def opModelPin (c q pos : Nat) (s : State) : State :=
  let k := qkey c q
  match starting k pos 0x0D s with
  | none => s
  | some m =>
    let s := begun k pos s
    match modelOf (s.tenantOf c) (fld m.entry 16 8) s with
    | none => finish k pos .stale 16 s
    | some (id, x) =>
      if x.state ≠ .inPlace ∧ s.wrd.maxFrames < 2 * pinnedFrames id s then finish k pos .noMemory 7 s
      else
        let s := s.modModel id (fun x => { x with pins := min 65535 (x.pins + 1) })
        match x.state with
        | .resident => finishOk k pos s
        | .inPlace => finishOk k pos s
        | _ => demandModel id (s.modModel id (fun x => { x with waiters := x.waiters ++ [(c, q, pos)] }))

def execOpModelPin (c q pos : Nat) (s : State) : Out := .next (opModelPin c q pos s)

/-- OP_MODEL_UNPIN (R255). -/
def opModelUnpin (c q pos : Nat) (s : State) : State :=
  let k := qkey c q
  match starting k pos 0x0E s with
  | none => s
  | some m =>
    let s := begun k pos s
    match modelOf (s.tenantOf c) (fld m.entry 16 8) s with
    | none => finish k pos .stale 16 s
    | some (id, _) => finishOk k pos (reapModel id (s.modModel id (fun x => { x with pins := x.pins - 1 })))

def execOpModelUnpin (c q pos : Nat) (s : State) : Out := .next (opModelUnpin c q pos s)

end Sys2Proof.Machine
end

