-- ==== Sys2Proof/Machine/Loops.lean ====
section
/-! DEFINITION. Serving loops from outside a boundary: OP_LOOP_OPEN (R198, R392), OP_LOOP_ADMIT (R203, R204, R228),
OP_LOOP_CANCEL (R205), OP_LOOP_CLOSE (R199), OP_REPLAY_OPEN (R394, R395), and the Journal ring (R389, R390). -/

namespace Sys2Proof.Machine

/-- Keys a loop holds references on for one argument slot. -/
def argKeys (c h : Nat) (s : State) : List Nat :=
  if h = 0 then [] else
  let key := objKey c (hIndex h)
  match (tget s.objects key).map Obj.body with
  | some (ObjBody.tensor t) => [key, t.memKey]
  | some _ => [key]
  | none => []

/-- The lowest free loop_id (R58). -/
def freeLoopId (s : State) : Nat :=
  ((List.range (s.trestle.loops.length + 1)).find? (fun i => (tget s.trestle.loops i).isNone)).getD 0

/-- The length of the model that a loop names, 0 for none. -/
def loopModel (t : Nat) (key : Nat) (s : State) : Nat × Nat :=
  match modelOf (some t) key s with
  | some (id, m) => (id, m.length)
  | none => (0, 0)

/-- Part 5 of a LOOP record (R392). -/
def loopPart5 (t c ver key : Nat) (s : State) : List Byte :=
  le 4 s.mgmt.fwVersion ++ le 4 s.mgmt.patchLevel ++ le 4 ver ++ le 1 s.wrd.pageLog2 ++ zeros 3 ++
  le 8 (loopModel t key s).2 ++ le 2 t ++ le 2 c

/-- The LOOP record of a loop just opened (R392). -/
def journalLoop (l tag t c g ver : Nat) (raw : List Byte) (key : Nat) (s : State) : State :=
  let raw := padTo 144 raw
  let s := (List.range 4).foldl (fun s i => journal l 0x01 tag 0 i 1 (slice raw (36 * i) 36) s) s
  let s := journal l 0x01 tag 0 4 1 (loopPart4 (versionImage g ver s) s) s
  journal l 0x01 tag 0 5 1 (loopPart5 t c ver key s) s

/-- What is refused when a loop opens although acceptance passed (R59, R211, R257). -/
def openRefusal (c : Nat) (p : LoopParams) (s : State) : Option (Status × Nat) :=
  if p.modelKey ≠ 0 ∧ modelOf (s.tenantOf c) p.modelKey s = none then some (.stale, 0x2018)
  else match loopLimit c s with
  | some a => some (.noMemory, a)
  | none => if (areaFit (2 * slotSize p) s).isNone then some (.noMemory, 4) else none

/-- The queue of JOURNAL cells of a loop: its own number, unless records of a closed loop of that number still stand there. -/
def jnlCells (l : Nat) (s : State) : Nat :=
  let used (n : Nat) : Bool := s.trestle.jnlLeft.any (fun x => x.jnl.cells == n)
  (((List.range (s.trestle.jnlLeft.length + 1)).map (fun i => l + 65536 * i)).find? (fun n => !used n)).getD l

/-- A loop enters OPEN (R198): version, references, area, Journal; an evicted model is demanded. Its first admission gets
accept_order 0 (log 97: R207 gives a count and no start). It is idle until something wakes it (R184); a replay needs no
waking. -/
def openLoop (k : Nat) (m : Cmd) (p : LoopParams) (raw : List Byte) (replay : Option Replay) (s : State) : State :=
  let c := k / 256
  let id := freeLoopId s
  let t := (s.tenantOf c).getD 0
  let (g, ver) := m.bound.getD (0, 0)
  let jobj := objKey c (hIndex p.jnlHandle)
  let jnl : Option Jnl := if p.journal then
      (memOfKey jobj s).map (fun o =>
        { obj := jobj, base := o.at_ p.jnlOffset, log2 := p.jnlLog2, produced := 0, consumed := 0, badConsumed := 0,
          written := 0, waits := 0, gaps := 0, nextSeq := 0, waiting := [], cells := jnlCells id s })
    else none
  let pins := ([g] ++ (m.args.map (fun h => argKeys c h s)).flatten ++ (if p.journal then [jobj] else [])).eraseDups
  let lp : Loop :=
    { draining := false, phase := .idle, ctx := c, tenant := t, tag := eTag m.entry, params := p, gkey := g, ver := ver,
      args := m.args.map (fun h => bindArg c h s), pins := pins, step := 0, nextOrder := 0,
      sampled := { shed := s.power.level, freeFast := 0, freeSlow := 0, journalCongested := false, level := s.power.level }, entries := [],
      batchOff := (areaFit (2 * slotSize p) s).getD 0, slotBytes := slotSize p, stats := LoopStats.zero, jnl := jnl,
      replay := replay, closer := none, endedAt := s.now, woken := replay.isSome, slept := s.wrd.released }
  let s := pins.foldl (fun s x => addRef x s) { s with trestle := { s.trestle with loops := tset s.trestle.loops id lp } }
  let s := s.modC k m.pos (fun m => { m with bound := none })
  let s := if p.modelKey = 0 then s else demandModel (loopModel t p.modelKey s).1 s
  journalLoop id lp.tag t c g ver raw p.modelKey s

/-- OP_LOOP_OPEN (R198, R58). -/
def opLoopOpen (c q pos : Nat) (s : State) : State :=
  let k := qkey c q
  match starting k pos 0x08 s with
  | none => s
  | some m =>
    let s := begun k pos s
    let raw := openParams k m s
    match parseLoopParams s.integ.slices raw with
    | .error a => finish k pos .malformed (0x2000 + a) s
    | .ok p =>
      match openRefusal c p s with
      | some r => finish k pos r.1 r.2 s
      | none =>
        let id := freeLoopId s
        finishOk k pos (putResult k m 20 32 (le 8 id) (openLoop k m p raw none s))

def execOpLoopOpen (c q pos : Nat) (s : State) : Out := .next (opLoopOpen c q pos s)

/-! ### Admission (R203, R204) -/

/-- The index a new sequence takes and its reuse count (R58). -/
def nextSeqIndex (s : State) : Nat × Nat :=
  if s.trestle.nextFresh < Config.maxSequences then (s.trestle.nextFresh, 0)
  else
    let i := s.trestle.freed.headD 0
    let r := (tgetD s.trestle.reuse i 0 + 1) % 2 ^ 14
    (i, if i = 262143 ∧ r = 16383 then 0 else r)

/-- The index is taken. -/
def takeSeqIndex (s : State) : State :=
  let (i, r) := nextSeqIndex s
  { s with trestle := { s.trestle with
      nextFresh := if s.trestle.nextFresh < Config.maxSequences then i + 1 else s.trestle.nextFresh,
      freed := if s.trestle.nextFresh < Config.maxSequences then s.trestle.freed else s.trestle.freed.drop 1,
      reuse := if r = 0 then tdel s.trestle.reuse i else tset s.trestle.reuse i r } }

/-- The leaf of a chain, oldest leaf first, that holds page n, and the entry's index in it. -/
def leafOfPage : List (Nat × Nat) → Nat → Option (Nat × Nat)
  | [], _ => none
  | (l, k) :: t, n => if n < k then some (l, n) else leafOfPage t (n - k)

/-- The leaves of a chain, oldest first, that hold pages below n. -/
def leavesBelow : List (Nat × Nat) → Nat → List Nat
  | [], _ => []
  | (l, k) :: t, n => if n = 0 then [] else l :: leavesBelow t (n - k)

/-- The first p pages of a sequence are shared (R228). -/
def sharePages (src : Seq) (p : Nat) (s : State) : State :=
  let chain := (chainOf src s).reverse
  let s := ((pageFrames src s).take p).foldl (fun s f => setFrame f { frameAt f s with holders := (frameAt f s).holders + 1 } s) s
  (leavesBelow chain p).foldl (fun s l =>
    { s with wrd := { s.wrd with leaves := tupd s.wrd.leaves l (fun x => { x with chains := x.chains + 1 }) } }) s

/-- Where the parameter block of a sequence lies (R203, R492). -/
def paramLoc (i : Nat) (s : State) : Loc := { space := .fast, addr := s.wrd.hkBase + Config.paramOffset + 128 * i }

/-- The location of a field of an admission record's operand. -/
def admitLoc (c h off : Nat) (s : State) : Loc :=
  match memOfKey (objKey c (hIndex h)) s with
  | some o => o.at_ off
  | none => { space := .host, addr := 0 }

/-- A WAITING sequence of an admission, which shares the first p pages of its source (R203, R228). -/
def admitSeq (l : Nat) (lp : Loop) (tag : Nat) (a : AdmitRec) (raw : List Byte) (src : Option Seq) (p : Nat) (s : State) : State :=
  let c := lp.ctx
  let (i, r) := nextSeqIndex s
  let root := (src.bind (fun q => leafOfPage (chainOf q s).reverse (p - 1))).filter (fun _ => decide (0 < p))
  let key (h : Nat) := objKey c (hIndex h)
  let q : Seq :=
    { state := .waiting, cancel := false, loopId := l, seqId := i + r * 2 ^ 18, ctx := c, tenant := lp.tenant, admitTag := tag,
      adm := a, rawAdmit := raw, admitStep := 0, lastStep := 0, promptDone := p * lp.params.tokensPerPage, produced := 0,
      kvTokens := p * lp.params.tokensPerPage, root := root.map (·.1), rootCount := (root.map (·.2 + 1)).getD 0,
      rootOwn := false, reserve := 0, rtReserved := false, phaseDecode := false, staged := true,
      acceptOrder := lp.nextOrder, preempts := 0, verdict := none, lostPage := none, lastToken := 0,
      promptLoc := admitLoc c a.promptHandle a.promptOffset s, outLoc := admitLoc c a.outHandle a.outOffset s,
      fence := { loc := admitLoc c a.fenceHandle a.fenceOffset s, compact := false, value := 0,
                 va := ((memOfKey (key a.fenceHandle) s).map (fun o => o.devVa + a.fenceOffset)).getD 0 },
      promptKey := key a.promptHandle, outKey := key a.outHandle, fenceKey := key a.fenceHandle }
  let s := match src with
    | some x => sharePages x p s
    | none => s
  let s := takeSeqIndex s
  let s := q.refs.foldl (fun s k => addRef k s) s
  let s := portWrite none .hub (paramLoc i s) raw s
  let s := { s with trestle := { s.trestle with seqs := tset s.trestle.seqs i q } }
  s.modLoop l (fun lp => { lp with nextOrder := (lp.nextOrder + 1) % 2 ^ 32 })

/-- The FENCE records of an admission (R392): its waits with the values that their shadows had at its dispatch. -/
def journalFences (l : Nat) (m : Cmd) (id : Nat) (s : State) : State :=
  (m.waits.zipIdx).foldl (fun s w =>
    journal l 0x07 (eTag m.entry) (((tget s.trestle.loops l).map (·.step)).getD 0 + 1) 0 1
      (le 4 id ++ le 1 w.2 ++ zeros 3 ++ le 8 w.1.ref.va ++ le 8 w.1.ref.value ++
        le 8 ((m.snapshot[w.2]?).getD 0)) s) s

/-- A loop that is idle wakes (R184). -/
def wakeLoop (l : Nat) (s : State) : State := s.modLoop l (fun lp => { lp with woken := true })

/-- OP_LOOP_ADMIT (R203, R184); seed: the draw of the hub's random source, used with auto_seed. -/
def opLoopAdmit (c q pos : Nat) (seed : W64) (s : State) : State :=
  let k := qkey c q
  match starting k pos 0x09 s with
  | none => s
  | some m =>
    let s := begun k pos s
    let l := fld m.entry 16 2
    let raw := readBytes k m 20 24 128 s
    match ctxLoop l c s, parseAdmit raw with
    | some lp, .ok a =>
      if lp.draining || lp.replay.isSome then finish k pos .stale 16 s
      else match admitRefusal c l a s with
      | some r => finish k pos r.1 r.2 s
      | none =>
        let a := if a.autoSeed then { a with seed := seed } else a
        let (i, r) := nextSeqIndex s
        let src := prefixSource l a s
        let s := admitSeq l lp (eTag m.entry) a raw src (prefixPages a src lp.params.tokensPerPage) s
        let s := wakeLoop l (journalFences l m (i + r * 2 ^ 18) s)
        finishOk k pos (putResult k m 32 40 (le 8 (i + r * 2 ^ 18)) s)
    | none, _ => finish k pos .stale 16 s
    | _, .error a => finish k pos .malformed (0x3000 + a) s

def execOpLoopAdmit (c q pos : Nat) (seed : W64) (s : State) : Out := .next (opLoopAdmit c q pos seed s)

/-! ### Cancel and close (R205, R199) -/

/-- cancel_pending is set; a WAITING or PREEMPTED sequence ends at once unless a boundary of its loop is in progress,
after whose stage 7 it ends (R205). -/
def cancelSeq (i : Nat) (s : State) : State :=
  match tget s.trestle.seqs i with
  | none => s
  | some q =>
    let s := s.modSeq i (fun q => { q with cancel := true })
    if q.parked && !atBoundary q.loopId s then endSeq i .aborted 4 0xFF s else s

def cancelSeqs (l : List Nat) (s : State) : State := l.foldl (fun s i => cancelSeq i s) s

/-- Parked sequences with a pending cancel end once stage 7 is done (R205). -/
def endParked (l : Nat) (s : State) : State :=
  (loopSeqs l s).foldl (fun s e =>
    if !e.2.parked then s
    else if e.2.verdict.isSome then endVerdict e.1 s
    else if e.2.cancel then endSeq e.1 .aborted 4 0xFF s else s) s

/-- OP_LOOP_CANCEL (R205). -/
def opLoopCancel (c q pos : Nat) (s : State) : State :=
  let k := qkey c q
  match starting k pos 0x0A s with
  | none => s
  | some m =>
    let s := begun k pos s
    match cancelRefusal c m.entry s with
    | some r => finish k pos r.1 r.2 s
    | none =>
      let l := fld m.entry 16 2
      let id := fld m.entry 20 4
      let named := (loopSeqs l s).filter (fun e => id == 0xFFFFFFFF || e.2.seqId == id)
      if named.isEmpty then finishOk k pos s
      else
        let s := s.modC k pos (fun m => { m with awaits := named.map (fun e => e.2.seqId) })
        checkMapout (closeIfDone l (cancelSeqs (named.map (·.1)) s))

def execOpLoopCancel (c q pos : Nat) (s : State) : Out := .next (opLoopCancel c q pos s)

/-- OP_LOOP_CLOSE (R199). -/
def opLoopClose (c q pos : Nat) (s : State) : State :=
  let k := qkey c q
  match starting k pos 0x0B s with
  | none => s
  | some m =>
    let s := begun k pos s
    let l := fld m.entry 16 2
    if loopOpenIn l c s then
      let mode := fld m.entry 18 1
      let s := s.modLoop l (fun lp => { lp with draining := true, closer := some (k, pos) })
      let s := journal l 0x0C (((tget s.trestle.loops l).map (·.tag)).getD 0)
        (((tget s.trestle.loops l).map (·.step)).getD 0 + 1) 0 1 (le 1 mode) s
      let s := if mode = 1 then cancelSeqs ((loopSeqs l s).map (·.1)) s else s
      checkMapout (closeIfDone l s)
    else finish k pos .stale 16 s

def execOpLoopClose (c q pos : Nat) (s : State) : Out := .next (opLoopClose c q pos s)

/-! ### The Journal ring (R389, R390) -/

/-- The first write of a ring that is not inside its object is a refused access (R389, R44). -/
def journalRefused (l c tag : Nat) (j : Jnl) (s : State) : State :=
  beginTeardown c true { FaultInfo.of .access 0xFFFFFFFF s.now with loopId := l, tag := tag, address := j.base.addr } none s

/-- Records of a Journal are written while the ring has room. -/
def Jnl.drain (ctx : Nat) : Nat → Jnl → State → Jnl × State
  | 0, j, s => (j, s)
  | n + 1, j, s => let p := journalPut ctx j s; Jnl.drain ctx n p.1 p.2

/-- The Journal of a loop that is CLOSED is changed (log 13), and given up once no record of it waits. -/
def State.setLeft (s : State) (x : JnlLeft) (j : Jnl) : State :=
  if j.waiting.isEmpty then
    unref j.obj { s with trestle := { s.trestle with jnlLeft := s.trestle.jnlLeft.filter (fun y => y.jnl.cells != j.cells) } }
  else { s with trestle := { s.trestle with jnlLeft := s.trestle.jnlLeft.map (fun y =>
    if y.jnl.cells = x.jnl.cells then { y with jnl := j } else y) } }

/-- Waiting records of a closed loop are written. -/
def leftWrite (x : JnlLeft) (s : State) : State :=
  if jnlInside x.jnl s then
    let p := Jnl.drain x.ctx x.jnl.waiting.length x.jnl s
    p.2.setLeft x p.1
  else journalRefused x.loop x.ctx x.tag x.jnl s

/-- The Journals of closed loops of a number. -/
def leftOf (l : Nat) (s : State) : List JnlLeft := s.trestle.jnlLeft.filter (fun x => x.loop == l)

/-- Waiting records are written while the ring has room; a ring outside its object is a refused access (R389, R44). -/
def journalWrite (l : Nat) (s : State) : State :=
  let s := (leftOf l s).foldl (fun s x => leftWrite x s) s
  match tget s.trestle.loops l with
  | none => s
  | some lp =>
    match lp.jnl with
    | none => s
    | some j =>
      if j.waiting.isEmpty then s
      else if jnlInside j s then journalDrain l j.waiting.length s
      else journalRefused l lp.ctx lp.tag j s

def execJournalWrite (l : Nat) (s : State) : Out := .next (journalWrite l s)

/-- A consumed count that was read: one that says more than was produced is ignored and counted (R390). -/
def Jnl.take (consumed : Nat) (j : Jnl) : Jnl :=
  if 2 ^ j.log2 < lag 64 j.produced consumed then { j with badConsumed := j.badConsumed + 1 } else { j with consumed := consumed }

/-- The consumed count of a loop's ring is read (R390). -/
def readConsumed (l : Nat) (s : State) : State :=
  match tget s.trestle.loops l with
  | none => s
  | some lp =>
    match lp.jnl with
    | none => s
    | some j =>
      let n := leNat (memRead (j.base.plus 8) 8 s)
      readFor (some lp.ctx) (j.base.plus 8) 8 (s.modLoop l (fun lp => { lp with jnl := some (j.take n) }))

/-- A read of a ring's consumed count, of an open loop, or of a closed one of that number (R390). -/
def journalConsumedPoll (l : Nat) (consumed : Nat) (s : State) : State :=
  match (tget s.trestle.loops l).bind (·.jnl) with
  | some j => readConsumed l (memWrite (j.base.plus 8) (le 8 consumed) s)
  | none =>
    (leftOf l s).foldl (fun s x => readFor (some x.ctx) (x.jnl.base.plus 8) 8
      ((memWrite (x.jnl.base.plus 8) (le 8 consumed) s).setLeft x (x.jnl.take consumed))) s

def execJournalConsumedPoll (l : Nat) (consumed : W64) (s : State) : Out := .next (journalConsumedPoll l consumed.toNat s)

/-! ### Replay (R394 to R397) -/

/-- The records of a window. -/
def windowRecords (w : List Byte) : List (List Byte) := (List.range (w.length / 64)).map (windowRecord w)

/-- An OP_REPLAY_OPEN that opens no loop: its result word is written whatever the status (R396). One that fails for no divergence
has replayed nothing: kind 0 and step 0 (log 116). -/
def replayFails (k : Nat) (m : Cmd) (r : Status × Nat) (kind : Nat) (s : State) : State :=
  finish k m.pos r.1 r.2 (putResult k m 20 40 (replayWord kind 0) s)

/-- OP_REPLAY_OPEN (R394, R395): a replay loop opens, unless the window does not begin with a LOOP record. -/
def opReplayOpen (c q pos : Nat) (s : State) : State :=
  let k := qkey c q
  match starting k pos 0x17 s with
  | none => s
  | some m =>
    let s := begun k pos s
    let w := readBytes k m 16 24 (fld m.entry 32 8) s
    let recs := windowRecords w
    let raw := replayParams (windowParams w)
    match parseLoopParams s.integ.slices raw with
    | .error a => replayFails k m (.malformed, 0x2000 + a) 0 s
    | .ok p =>
      match openRefusal c p s with
      | some r => replayFails k m r 0 s
      | none =>
        if !hasLoopRecord w then replayFails k m (.replayDiverge, 0) 2 s
        else
          let rp : Replay := { records := recs, queue := q, pos := pos, first := fld m.entry 48 8, count := fld m.entry 56 8,
                               map := [], result := (operandLoc k m 20 40 s).getD { space := .host, addr := 0 },
                               diverged := none }
          openLoop k m p raw (some rp) s

def execOpReplayOpen (c q pos : Nat) (s : State) : Out := .next (opReplayOpen c q pos s)

end Sys2Proof.Machine
end

