-- ==== Sys2Proof/Machine/Boundary.lean ====
section
/-! DEFINITION. The step boundary (R184 to R195): stages 1 to 6 as one command, stage 7 as another; pre-emption (R189 to
R193), admission (R194, R215, R216), and the boundary of a replay loop (R395 to R397). -/

namespace Sys2Proof.Machine

/-- A boundary in progress: the state and the hardware's choices not yet used (log 11). -/
structure Bnd where
  s : State
  ch : BoundaryChoice

/-- The state changed. -/
def Bnd.on (b : Bnd) (f : State → State) : Bnd := { b with s := f b.s }

/-- A fast frame chosen by the hardware is used up. -/
def Bnd.popFast (b : Bnd) : Option Nat × Bnd :=
  (b.ch.fastFrames.head?, { b with ch := { b.ch with fastFrames := b.ch.fastFrames.drop 1 } })

def Bnd.popSlow (b : Bnd) : Option Nat × Bnd :=
  (b.ch.slowFrames.head?, { b with ch := { b.ch with slowFrames := b.ch.slowFrames.drop 1 } })

def Bnd.popLeaf (b : Bnd) : Option Nat × Bnd :=
  (b.ch.leaves.head?, { b with ch := { b.ch with leaves := b.ch.leaves.drop 1 } })

def loopAt (l : Nat) (s : State) : Option Loop := tget s.trestle.loops l

/-- The loop's next step. -/
def nextStep (l : Nat) (s : State) : Nat := ((loopAt l s).map (·.step)).getD 0 + 1

/-! ### Stage 1: collect (R186) -/

/-- Result i of a Batch Record (R214): token, valid, stop. -/
def resultOf (lp : Loop) (i : Nat) (s : State) : Nat × Bool × Bool :=
  let b := memRead ((batchLoc lp lp.step s).plus (256 + 64 * lp.params.maxSeqs + 8 * i)) 8 s
  (fld b 0 4, bit (fld b 4 1) 0, bit (fld b 4 1) 1)

/-- A replay delivers nothing for steps before first_step (R397). -/
def quietStep (lp : Loop) : Bool :=
  match lp.replay with
  | some r => decide (lp.step < r.first)
  | none => false

/-- A token is delivered (R209): the ring write, then the fence. -/
def deliver (i : Nat) (q : Seq) (lp : Loop) (tok : Nat) (s : State) : State :=
  let s := if quietStep lp then s else
    signalFence q.ctx q.admitTag { q.fence with value := q.produced + 1 }
      (locWrite (some q.ctx) (q.outLoc.plus (64 + (q.produced % 2 ^ q.adm.outLog2) * 4)) (le 4 tok) s)
  s.modSeq i (fun q => { q with produced := q.produced + 1, lastToken := tok })

/-- The verdict of a token delivered (R186): reason and stop index. -/
def verdictOf (q : Seq) (tok : Nat) (stop : Bool) : Option (Nat × Nat) :=
  match q.adm.stops.findIdx? (· == tok) with
  | some k => some (1, k)
  | none => if stop then some (2, 0xFF) else if q.adm.maxNew ≤ q.produced + 1 then some (3, 0xFF) else none

/-- Key/value state of an entry's tokens is stored (R186, R207). -/
def Seq.stored (e : BEntry) (q : Seq) : Seq :=
  { q with kvTokens := q.kvTokens + e.stepTokens, promptDone := if e.phase = 2 then q.promptDone else q.promptDone + e.stepTokens }

/-- The prefill of a sequence has completed: its reference on the prompt is dropped (R54). -/
def dropPrompt (i : Nat) (s : State) : State :=
  match tget s.trestle.seqs i with
  | some q => if q.promptKey = 0 then s else unref q.promptKey (s.modSeq i (fun q => { q with promptKey := 0 }))
  | none => s

/-- A sequence after a token with a verdict (R186): without one it is in DECODE, or stays PREEMPTED and will resume there. -/
def Seq.collected (v : Option (Nat × Nat)) (q : Seq) : Seq :=
  { q with verdict := v, state := if v.isNone && !q.parked then .decode else q.state, phaseDecode := v.isNone || q.phaseDecode }

/-- One entry of step n is collected; the token that is recorded, none without the sample flag. -/
def collectOne (lp : Loop) (e : BEntry) (i : Nat) (s : State) : State × Option Nat :=
  match tget s.trestle.seqs e.seqIdx with
  | none => (s, if e.sample then some 0xFFFFFFFF else none)
  | some q =>
    if q.seqId ≠ e.seqId then (s, if e.sample then some 0xFFFFFFFF else none) else
    let (tok, valid, stop) := resultOf lp i s
    let s := s.modSeq e.seqIdx (Seq.stored e)
    let s := if e.phase = 1 then dropPrompt e.seqIdx s else s
    if !e.sample then (s, none)
    else if q.verdict.isSome then (s, some 0xFFFFFFFF)
    else if !valid then (s.modSeq e.seqIdx (fun q => { q with verdict := some (8, 0xFF) }), some 0xFFFFFFFF)
    else
      let v := verdictOf q tok stop
      let s := deliver e.seqIdx q lp tok s
      (s.modSeq e.seqIdx (Seq.collected v), some tok)

/-- Every entry of step n in order; the tokens of the sample entries. -/
def collectAll (lp : Loop) (s : State) : State × List Nat :=
  (lp.entries.zipIdx).foldl (fun a e =>
    let r := collectOne lp e.1 e.2 a.1
    (r.1, match r.2 with | some t => a.2 ++ [t] | none => a.2)) (s, [])

/-- RESULT records (R392): up to eight tokens each. -/
def journalResults (l : Nat) (lp : Loop) (toks : List Nat) (s : State) : State :=
  let cs := chunks 8 toks.length (toks.map (le 4))
  (cs.zipIdx).foldl (fun s e =>
    journal l 0x0A lp.tag lp.step 0 e.1.length (le 2 (8 * e.2) ++ zeros 2 ++ e.1.flatten) s) s

/-! ### Stage 2: retire (R187, R218) -/

/-- Sequences of a loop: those of its last record in entry order, then the others in acceptance order. -/
def loopOrder (l : Nat) (s : State) : List Nat :=
  let es := ((loopAt l s).map (fun lp => lp.entries.map (·.seqIdx))).getD []
  let mine := loopSeqs l s
  let listed := es.filter (fun i => mine.any (fun e => e.1 == i))
  let rest := sortBy (fun a b => before32 a.2.acceptOrder b.2.acceptOrder) (mine.filter (fun e => !es.contains e.1))
  listed ++ rest.map (·.1)

/-- A sequence holds a page whose data are gone (R218, R250): reason 7 where the page was reported uncorrectable. -/
def lostReason (q : Seq) (s : State) : Option Nat :=
  if q.lostPage.isSome then some 7 else if (pagesOf q s).any (·.lost) then some 6 else none

/-- A verdict for the sequences that hold a lost page. -/
def lostVerdicts (l : Nat) (s : State) : State :=
  (loopOrder l s).foldl (fun s i =>
    match tget s.trestle.seqs i with
    | some q =>
      match q.verdict, lostReason q s with
      | none, some r => s.modSeq i (fun q => { q with verdict := some (r, 0xFF) })
      | _, _ => s
    | none => s) s

/-- Stage 2: verdicts first, then pending cancels. -/
def stage2 (l : Nat) (s : State) : State :=
  let s := lostVerdicts l s
  let order := loopOrder l s
  let s := order.foldl (fun s i => endVerdict i s) s
  order.foldl (fun s i =>
    match tget s.trestle.seqs i with
    | some q => if q.cancel then endSeq i .aborted 4 0xFF s else s
    | none => s) s

/-! ### Stage 3: growth (R188) -/

/-- A cap under a shed level (R188). -/
def capped (v shed : Nat) : Nat := if 3 ≤ shed then max 1 (v / 2) else v

/-- Pages a sequence holds. -/
def heldPages (q : Seq) (s : State) : Nat := (pageFrames q s).length

/-- The last page is shared and its next write needs a copy (R188). -/
def needsCow (q : Seq) (tpp : Nat) (s : State) : Bool :=
  decide (q.kvTokens % tpp ≠ 0) && decide (1 < (((pageFrames q s).getLast?.map (fun f => (frameAt f s).holders)).getD 0))

/-- Frames a step of n tokens takes, before the reserve is used (R188). -/
def growth (q : Seq) (tpp n : Nat) (s : State) : Nat :=
  ceilDiv (q.kvTokens + n) tpp - heldPages q s + b2n (needsCow q tpp s)

/-- Frames still to be found once the reserve is used. -/
def needOf (q : Seq) (tpp n : Nat) (s : State) : Nat := growth q tpp n s - q.reserve

/-- The younger of two sequences (R191): the later admit_step, 0 latest; then the later accept_order. -/
def younger (a b : Seq) : Bool :=
  if a.admitStep ≠ b.admitStep then decide (a.admitStep = 0 ∨ (b.admitStep ≠ 0 ∧ b.admitStep < a.admitStep))
  else before32 b.acceptOrder a.acceptOrder

/-- The Batch Record entry of a sequence with n tokens. -/
def entryOf (i : Nat) (q : Seq) (n tpp : Nat) (s : State) : BEntry :=
  let decode := match q.state with | .decode => true | _ => false
  let phase := if decode then 2 else if q.promptDone + n = q.adm.promptTokens then 1 else 0
  { seqIdx := i, seqId := q.seqId, phase := phase, sample := decide (phase ≠ 0), cow := needsCow q tpp s,
    kvTokens := q.kvTokens, stepTokens := n }

/-- Continuing sequences of a loop in a state. -/
def continuing (l : Nat) (t : SeqState) (s : State) : List (Nat × Seq) :=
  (loopOrder l s).filterMap (fun i => (tget s.trestle.seqs i).bind (fun q => if q.state = t then some (i, q) else none))

/-- Chunks of the continuing PREFILL sequences in acceptance order (R188). -/
def chunksOf (chunk : Nat) : Nat → List (Nat × Seq) → List (Nat × Nat)
  | _, [] => []
  | left, (i, q) :: t =>
    let n := min (min (q.adm.promptTokens - q.promptDone) chunk) left
    if n = 0 then chunksOf chunk left t else (i, n) :: chunksOf chunk (left - n) t

/-- Stage 3: the cap victims, and the tokens of each continuing sequence, in the order of step n's record. -/
def stage3 (l : Nat) (lp : Loop) (shed : Nat) (s : State) : List Nat × List (Nat × Nat) :=
  let bseq := capped lp.params.maxSeqs shed
  let btok := capped lp.params.maxTokens shed
  let dec := continuing l .decode s
  let excess := dec.length - min bseq btok
  let byAge := sortBy (fun a b => younger a.2 b.2) dec
  let victims := (byAge.take excess).map (·.1)
  let kept := dec.filter (fun e => !victims.contains e.1)
  let pre := sortBy (fun a b => before32 a.2.acceptOrder b.2.acceptOrder) (continuing l .prefill s)
  let cs := chunksOf lp.params.chunkTokens (btok - kept.length) pre
  let toks := kept.map (fun e => (e.1, 1)) ++ cs
  (victims, (loopOrder l s).filterMap (fun i => toks.find? (fun t => t.1 == i)))

/-! ### Stage 4: reserve (R189 to R193, R230) -/

/-- A PREEMPT record (R392), in the victim loop's Journal for its next step. -/
def journalPreempt (q : Seq) (kind : Nat) (discard : Bool) (s : State) : State :=
  journal q.loopId 0x05 q.admitTag (nextStep q.loopId s) 0 1 (le 4 q.seqId ++ le 1 kind ++ le 1 (b2n discard) ++ zeros 2) s

/-- A pre-emption is counted in the victim's loop and context and, at another loop's boundary, there (R219, R61). R61 does not
say what a pre-emption suffered is: here a sequence taken as a victim at a live boundary, neither a residency vacated nor a
recorded pre-emption of a replay (log 98). -/
def countPreempt (l : Nat) (q : Seq) (s : State) : State :=
  let s := s.modStats q.loopId (fun t => { t with suffered := t.suffered + 1 })
  let s := if q.loopId = l then s else s.modStats l (fun t => { t with inflicted := t.inflicted + 1 })
  modUse q.ctx (fun u => { u with preempts := u.preempts + 1 }) s

/-- A page is the newest of one of its holders: it is never converted (R243). -/
def isNewest (f : Nat) (s : State) : Bool :=
  (holdersOf f s).any (fun h => ((tget s.trestle.seqs h.1).map (fun q => (pageFrames q s).getLast? == some f)).getD false)

/-- A victim under swap: its fast pages go to the slow tier, their frames counted free at once (R192, R243). -/
def swapOut (l i : Nat) (q : Seq) (ctx : Nat) (b : Bnd) : Bnd :=
  let own := match loopAt l b.s with | some lp => decide (lp.tenant = q.tenant) | none => false
  let fs := ((pagesOf q b.s).filter (fun g => !g.lost && isFast g.frame b.s)).map (·.frame)
  let b := fs.foldl (fun (b : Bnd) f =>
    let (d, b) := b.popSlow
    b.on (fun s => demotePage f (own && !isNewest f s) true false (some ctx) d s)) b
  b.on (fun s => dropEntry q.loopId i (s.modSeq i (fun q =>
    { q with state := .preempted, preempts := q.preempts + 1, reserve := 0 })))

/-- One victim is treated (R192); kind: 0 pool, 1 quota, 2 cap. The row of R192 for a slow tier without room names a pool
shortfall; a cap victim finds no room either and is discarded with the same reason (log 99). -/
def preempt (l i kind ctx : Nat) (b : Bnd) : Bnd :=
  match tget b.s.trestle.seqs i with
  | none => b
  | some q =>
    let policy := ((loopAt q.loopId b.s).map (·.params.discard)).getD true
    let room := decide (fastPages q b.s ≤ slowFreeFrames b.s)
    let discard := decide (kind = 1) || policy || !room
    let b := b.on (fun s => countPreempt l q (journalPreempt q kind discard s))
    if discard then b.on (endSeq i .preemptedDiscard 5 0xFF) else swapOut l i q ctx b

/-- The next victim of a shortfall (R191): of every loop that may give one, or of the tenant's own loops. -/
def nextVictim (l t : Nat) (quota : Bool) (s : State) : Option Nat :=
  let ok (q : Seq) : Bool :=
    (match q.state with | .prefill => true | .decode => true | _ => false) &&
    (match loopAt q.loopId s with
     | some lp => (ctxCls s lp.ctx != .rt) && lp.replay.isNone && s.isActive lp.ctx && (!quota || lp.tenant == t) &&
         (q.loopId == l || lp.phase != .running)
     | none => false)
  let before (a b : Seq) : Bool :=
    let x := shareOf a.tenant s
    let y := shareOf b.tenant s
    if x ≠ y then decide (x < y) else younger a b
  ((s.trestle.seqs.filter (fun e => ok e.2)).foldl (fun (a : Option (Nat × Seq)) e =>
    match a with
    | none => some e
    | some b => if before e.2 b.2 then some e else some b) none).map (·.1)

/-- Total need of the entries that are left. -/
def totalNeed (tpp : Nat) (es : List (Nat × Nat)) (s : State) : Nat :=
  es.foldl (fun a e => match tget s.trestle.seqs e.1 with
    | some q => if q.parked then a else a + needOf q tpp e.2 s
    | none => a) 0

/-- Pool and quota shortfalls (R189). -/
def poolShort (tpp : Nat) (es : List (Nat × Nat)) (s : State) : Int := (totalNeed tpp es s : Int) - freeFast s

def maxKv (t : Nat) (s : State) : Nat := ((tget s.tenants t).map (fun x => x.rcd.maxKvFrames)).getD 0

def quotaShort (t tpp : Nat) (es : List (Nat × Nat)) (s : State) : Int :=
  (heldFrames t s : Int) + (totalNeed tpp es s : Int) - (maxKv t s : Int)

/-- Victims are taken while a shortfall remains; the pool's shortfall is met first (log 18). -/
def takeShort (l t tpp ctx : Nat) (es : List (Nat × Nat)) : Nat → Bnd → Bnd
  | 0, b => b
  | n + 1, b =>
    let pool := decide (0 < poolShort tpp es b.s)
    let quota := decide (0 < quotaShort t tpp es b.s)
    if pool || quota then
      match nextVictim l t (!pool) b.s with
      | some i => takeShort l t tpp ctx es n (preempt l i (if pool then 0 else 1) ctx b)
      | none => b
    else b

/-- The page a copy on write replaces is left: the new leaf continues the chain before it (R230, R227). -/
def cowRoot (q : Seq) (s : State) : Option Nat × Nat × Bool × Option Nat :=
  match chainOf q s with
  | [] => (none, 0, false, none)
  | (l, k) :: _ =>
    if 1 < k then (some l, k - 1, false, none)
    else match tget s.wrd.leaves l with
      | some x => (x.pred, x.predValid, false, some l)
      | none => (none, 0, false, none)

/-- Copy on write of a sequence's last page (R230). -/
def copyOnWrite (i ctx : Nat) (b : Bnd) : Bnd :=
  match tget b.s.trestle.seqs i with
  | none => b
  | some q =>
    match (pageFrames q b.s).getLast? with
    | none => b
    | some f =>
      let (d, b) := b.popFast
      match pickFrame .fast d b.s with
      | none => b
      | some d =>
        let (lf, b) := b.popLeaf
        let s := b.s
        let x := frameAt f s
        let s := setFrame d { x with holders := 1, accessed := false, zeroPending := false, state := .kv, was := .kv } s
        let s := startJob (.cow f d) (pageBytes s) false (payMove f (some ctx) s) s
        let (root, n, _, dead) := cowRoot q s
        let s := s.modSeq i (fun q => { q with root := root, rootCount := n, rootOwn := false })
        let s := dropHolder f s
        let s := match dead with | some l => dropLeaf l s | none => s
        { b with s := addPage i d lf s }

/-- One page more for a sequence, from the free fast frames (R189, R231). -/
def growOne (i : Nat) (b : Bnd) : Bnd :=
  let (d, b) := b.popFast
  match pickFrame .fast d b.s with
  | none => b
  | some d =>
    let (lf, b) := b.popLeaf
    b.on (fun s => addPage i d lf (allocFrame ((tget s.trestle.seqs i).map (·.tenant)) d Frame.kv s))

def growN (i : Nat) : Nat → Bnd → Bnd
  | 0, b => b
  | n + 1, b => growN i n (growOne i b)

/-- The growth of a sequence with n tokens is reserved: its own reserve first (R188), then free frames. -/
def reserveFor (i n tpp ctx : Nat) (b : Bnd) : Bnd :=
  match tget b.s.trestle.seqs i with
  | none => b
  | some q =>
    let g := growth q tpp n b.s
    let cow := needsCow q tpp b.s
    let b := b.on (fun s => s.modSeq i (fun q => { q with reserve := q.reserve - g }))
    let b := if cow then copyOnWrite i ctx b else b
    growN i (g - b2n cow) b

/-- A sequence that still has an entry. -/
def stillRuns (i : Nat) (s : State) : Bool := ((tget s.trestle.seqs i).map (fun q => !q.parked)).getD false

/-- Stage 4: cap victims, demotion, pre-emption, reservation; the entries that remain, flags as of stage 3. -/
def stage4 (l : Nat) (lp : Loop) (victims : List Nat) (toks : List (Nat × Nat)) (b : Bnd) : Bnd × List BEntry :=
  let tpp := lp.params.tokensPerPage
  let rt := ctxCls b.s lp.ctx == .rt
  let b := if rt then b else victims.foldl (fun b i => preempt l i 2 lp.ctx b) b
  let short := (poolShort tpp toks b.s).toNat
  let b := if rt || short = 0 then b
    else { s := demoteCold short lp.tenant (some lp.ctx) b.ch.slowFrames b.s, ch := { b.ch with slowFrames := b.ch.slowFrames.drop short } }
  let b := if rt then b else takeShort l lp.tenant tpp lp.ctx toks (b.s.trestle.seqs.length + 1) b
  let toks := toks.filter (fun e => stillRuns e.1 b.s)
  let es := toks.filterMap (fun e => (tget b.s.trestle.seqs e.1).map (fun q => entryOf e.1 q e.2 tpp b.s))
  (toks.foldl (fun b e => reserveFor e.1 e.2 tpp lp.ctx b) b, es)

/-! ### Stage 5: adm (R194, R215, R216) -/

/-- Slow pages of a sequence; a lost page is not moved. -/
def slowPages (q : Seq) (s : State) : List Nat :=
  ((pagesOf q s).filter (fun g => !g.lost && !isFast g.frame s)).map (·.frame)

/-- A stage-5 candidate's phase: a waiting sequence enters PREFILL, a resumed one the phase it left (R194). -/
def Seq.joined (q : Seq) : SeqState :=
  match q.state with
  | .waiting => .prefill
  | _ => if q.phaseDecode then .decode else .prefill

/-- Tokens a joiner gets. -/
def joinTokens (q : Seq) (lp : Loop) (left : Nat) : Nat :=
  match q.joined with
  | .decode => 1
  | _ => min (min (q.adm.promptTokens - q.promptDone) lp.params.chunkTokens) left

/-- Frames a joiner takes from the free fast frames, and the reserve it is left with before its growth (R194, R215;
log 17). -/
def joinFrames (q : Seq) (lp : Loop) (n : Nat) (rt : Bool) (s : State) : Nat × Nat :=
  let tpp := lp.params.tokensPerPage
  let g := growth q tpp n s
  if rt then
    let r := ceilDiv (q.adm.promptTokens - q.promptDone + q.adm.maxNew + q.kvTokens) tpp - heldPages q s
    (r, r)
  else match q.state with
  | .waiting => (g + 1, g + 1)
  | _ => ((slowPages q s).length + max 1 g, max 1 g)

/-- The checks of R194 on the next joiner; count: entries so far, left: tokens left. -/
def admissible (q : Seq) (lp : Loop) (shed count left : Nat) (s : State) : Bool :=
  let rt := ctxCls s lp.ctx == .rt
  let n := joinTokens q lp left
  let (frames, extra) := joinFrames q lp n rt s
  decide (shed ≤ 1) && decide (count + 1 ≤ capped lp.params.maxSeqs shed) && decide (1 ≤ left) && q.staged &&
  decide ((frames : Int) ≤ freeFast s) && decide (heldFrames lp.tenant s + extra ≤ maxKv lp.tenant s) &&
  (!rt || rtAllowed (versionImage lp.gkey lp.ver s) lp.params.rtMhz lp.params.deadlineUs (count + 1)) &&
  (!lp.params.journal || !lp.sampled.journalCongested)

/-- The ADMIT or RESUME record of a joiner (R392); the prompt that its CRC-64 covers is read for the context (R328). -/
def journalJoin (l : Nat) (lp : Loop) (q : Seq) (n : Nat) (s : State) : State :=
  let step := lp.step + 1
  match q.state with
  | .waiting =>
    let raw := padTo 144 (q.rawAdmit.take 24 ++ le 8 q.adm.seed.toNat ++ q.rawAdmit.drop 32)
    let s := (List.range 4).foldl (fun s i => journal l 0x02 q.admitTag step i 1 (slice raw (36 * i) 36) s) s
    let s := if lp.jnl.isSome then readFor (some lp.ctx) q.promptLoc (4 * q.adm.promptTokens) s else s
    journal l 0x02 q.admitTag step 4 1 (le 4 q.seqId ++ le 4 q.acceptOrder ++
      le 8 (crc64 (memRead q.promptLoc (4 * q.adm.promptTokens) s)) ++ le 4 n ++ le 4 q.promptDone) s
  | _ => journal l 0x03 q.admitTag step 0 1 (le 4 q.seqId ++ le 4 q.acceptOrder) s

/-- A joiner enters the step with n tokens. A waiting sequence whose shared prefix covers its whole prompt has a first chunk of 0
tokens: it takes an entry all the same, which owes a sample (DESIGN CHOICE, log 118: R194 does not say). -/
def joinSeq (l : Nat) (lp : Loop) (i : Nat) (q : Seq) (n : Nat) (b : Bnd) : Bnd × BEntry :=
  let rt := ctxCls b.s lp.ctx == .rt
  let tpp := lp.params.tokensPerPage
  let (_, reserve) := joinFrames q lp n rt b.s
  let b := b.on (journalJoin l lp q n)
  let b := b.on (fun s => s.modSeq i (fun q =>
    { q with state := q.joined, reserve := reserve, rtReserved := rt || q.rtReserved }))
  let resumed := match q.state with | .preempted => true | _ => false
  let b := (if resumed then slowPages q b.s else []).foldl (fun (b : Bnd) f =>
    let (d, b) := b.popFast
    b.on (promotePage f false (some lp.ctx) d)) b
  let e := match tget b.s.trestle.seqs i with
    | some q => entryOf i q n tpp b.s
    | none => { seqIdx := i, seqId := q.seqId, phase := 0, sample := false, cow := false, kvTokens := 0, stepTokens := 0 }
  (reserveFor i n tpp lp.ctx b, e)

/-- The resume list, then the waiting list, of a loop (R194). -/
def joinList (l : Nat) (s : State) : List Nat :=
  let by_ (t : SeqState) : List Nat :=
    (sortBy (fun (a b : Nat × Seq) => before32 a.2.acceptOrder b.2.acceptOrder)
      ((loopSeqs l s).filter (fun e => e.2.state == t))).map (·.1)
  by_ .preempted ++ by_ .waiting

/-- Stage 5 over the lists; stops at the first sequence that may not join. -/
def stage5 (l : Nat) (lp : Loop) (shed : Nat) : List Nat → Bnd → List BEntry → Bnd × List BEntry
  | [], b, es => (b, es)
  | i :: t, b, es =>
    match tget b.s.trestle.seqs i with
    | none => stage5 l lp shed t b es
    | some q =>
      let left := capped lp.params.maxTokens shed - tokenCount es
      if admissible q lp shed es.length left b.s then
        let (b, e) := joinSeq l lp i q (joinTokens q lp left) b
        stage5 l lp shed t b (es ++ [e])
      else (b.on (fun s => s.modStats l (fun x => { x with stage5Stops := x.stage5Stops + 1 })), es)

/-! ### Stage 6: record (R195) -/

/-- The composition CRC of a Batch Record (R393). -/
def compositionCrc (rcd : List Byte) (smax n : Nat) (toks : Nat) : Nat :=
  let ents := ((List.range n).map (fun i => slice rcd (256 + 64 * i + 4) 16 ++ slice rcd (256 + 64 * i + 24) 22)).flatten
  crc64 (slice rcd 16 8 ++ ents ++ slice rcd (256 + 72 * smax) (4 * toks))

/-- The composition CRC of the record that a loop has written for its next step. -/
def loopCrc (l : Nat) (lp : Loop) (s : State) : Nat :=
  compositionCrc (batchBytes l lp lp.sampled.shed s) lp.params.maxSeqs lp.entries.length (tokenCount lp.entries)

/-- The STEP record (R392), of the composition and at the time of the launch: it is written as the step is launched (log 19). -/
def journalStep (l : Nat) (lp : Loop) (s : State) : State :=
  journal l 0x09 lp.tag (lp.step + 1) 0 1
    (le 1 lp.sampled.shed ++ zeros 3 ++ le 4 lp.entries.length ++ le 4 (tokenCount lp.entries) ++
     le 4 ((lp.sampled.freeFast.emod (2 ^ 32)).toNat) ++ le 8 (loopCrc l lp s) ++ le 8 s.now) s

/-- Bytes of prompts read for the record are charged to the context (R328). -/
def chargePrompts (lp : Loop) (s : State) : State :=
  lp.entries.foldl (fun s e => match tget s.trestle.seqs e.seqIdx with
    | some q => if e.phase = 2 then s else readFor (some lp.ctx) (q.promptLoc.plus (4 * q.promptDone)) (4 * e.stepTokens) s
    | none => s) s

/-- Stage 6: the Batch Record, or an idle loop, which sleeps until it is woken (R184). -/
def stage6 (l : Nat) (es : List BEntry) (s : State) : State :=
  let s := s.modLoop l (fun lp =>
    { lp with entries := es, phase := if es.isEmpty then .idle else .recorded, woken := false, slept := s.wrd.released })
  match loopAt l s with
  | none => s
  | some lp => if es.isEmpty then s else chargePrompts lp (writeBatch l s)

/-- A shed level has a residency saved at its boundary (R284; R277 for RT). -/
def shedSave (x : Residency) (level : Nat) (s : State) : Bool :=
  decide (4 ≤ level) && ((ctxCls s x.ctx != .rt) || decide (6 ≤ level))

/-- The residency of a loop after stage 6 (R264): ready for stage 7, or blocked while the loop is idle; a blocked one that is
claimed, or that the shed level or a partition reset has saved, gives up its benches at once (R274, R284, R363). -/
def loopBoundary (l : Nat) (s : State) : State :=
  match loopRes l s, loopAt l s with
  | some (r, x), some lp =>
    let idle := match lp.phase with | .idle => true | _ => false
    let since := if idle then some (x.blockedAt.getD s.now) else none
    let s := s.modRes r (fun x => { x with running := false, blockedAt := since })
    let s := if idle && !x.saved && !x.moving && (claimedRes x s || shedSave x lp.sampled.level s || underReset x s) then
        (vacateRes r s).getD (tryNext r s)
      else s
    decisionPass s
  | _, _ => s

/-! ### Replay (R395, R396) -/

/-- A replay's first failure: kind, step, aux. -/
abbrev Diverge := Nat × Nat × Nat

/-- Records of a step and type, in order. -/
def recsOf (r : Replay) (step typ : Nat) : List (List Byte) :=
  r.records.filter (fun x => jStep x == step && jType x == typ)

/-- The live sequence of a recorded sequence_id. -/
def liveOf (r : Replay) (id : Nat) : Option Nat := (r.map.find? (fun e => e.1 == id)).map (·.2)

/-- The recorded sequence_id of a live one. -/
def recordedOf (r : Replay) (id : Nat) : Nat := ((r.map.find? (fun e => e.2 == id)).map (·.1)).getD 0

/-- The records up to those of a step are ones that a replay may read (R396 kind 2). -/
def readable (r : Replay) (step : Nat) : Bool :=
  ((r.records.zipIdx).takeWhile (fun e => decide (jStep e.1 ≤ step))).all (fun e => okRecord e.1 e.2)

/-- The tokens that the RESULT records of a step hold. -/
def recordedTokens (r : Replay) (step : Nat) : List Nat :=
  ((recsOf r step 0x0A).map (fun x => (List.range (min 8 (jItems x))).map (fun i => fld (jPayload x) (4 + 4 * i) 4))).flatten

/-- Items of 8 bytes of the records of a step and type. -/
def items8 (r : Replay) (step typ : Nat) : List (List Byte) :=
  ((recsOf r step typ).map (fun x => (List.range (min 4 (jItems x))).map (fun i => slice (jPayload x) (8 * i) 8))).flatten

/-- Check 5 (R396): tokens of step n against the record; the entry whose token differs. -/
def tokenCheck (r : Replay) (lp : Loop) (toks : List Nat) : Option Diverge :=
  let rec_ := recordedTokens r lp.step
  let sampled := lp.entries.filter (·.sample)
  if rec_.length < toks.length then some (2, lp.step, 0)
  else ((toks.zip rec_).zip sampled).findSome? (fun x =>
    if x.1.1 = x.1.2 then none else some (5, lp.step, recordedOf r x.2.seqId))

/-- Check 6 (R396): verdicts of stage 1 against the RETIRE records of the boundary. -/
def verdictCheck (l : Nat) (r : Replay) (lp : Loop) (s : State) : Option Diverge :=
  let rs := (items8 r (lp.step + 1) 0x04).filter (fun x => decide (fld x 5 1 ≤ 3 ∨ fld x 5 1 = 8))
  let vs := (loopSeqs l s).filter (fun e => e.2.verdict.isSome)
  let missing := vs.find? (fun e =>
    !rs.any (fun x => liveOf r (fld x 0 4) == some e.2.seqId && decide (e.2.verdict = some (fld x 5 1, fld x 6 1))))
  match missing with
  | some e => some (6, lp.step, recordedOf r e.2.seqId)
  | none => (rs.find? (fun x => !vs.any (fun e => liveOf r (fld x 0 4) == some e.2.seqId))).map (fun x => (6, lp.step, fld x 0 4))

/-- The sequence of a live id. -/
def seqIndex (id : Nat) (s : State) : Option Nat := (liveSeq id s).map (·.1)

/-- The recorded endings of stage 2 that are no verdicts: cancels and lost pages. -/
def replayEnds (r : Replay) (step : Nat) (s : State) : State :=
  (items8 r step 0x04).foldl (fun s x =>
    let reason := fld x 5 1
    if reason = 4 ∨ reason = 6 ∨ reason = 7 then
      match (liveOf r (fld x 0 4)).bind (fun id => seqIndex id s) with
      | some i => endSeq i (reasonStatus reason) reason (fld x 6 1) s
      | none => s
    else s) s

/-- The map of a replay loop from recorded to live sequences. -/
def mapNow (l : Nat) (r : Replay) (s : State) : Replay := ((loopAt l s).bind (·.replay)).getD r

/-- The recorded pre-emptions of a step (R395), of sequences that a test accepts. -/
def replayPreempts (l ctx : Nat) (r : Replay) (step : Nat) (ok : Nat → Bool) (b : Bnd) : Bnd :=
  (items8 r step 0x05).foldl (fun (b : Bnd) x =>
    match (liveOf (mapNow l r b.s) (fld x 0 4)).bind (fun id => seqIndex id b.s) with
    | none => b
    | some i =>
      match tget b.s.trestle.seqs i with
      | none => b
      | some q =>
        if !ok i then b else
        let b := b.on (countPreempt l q)
        if fld x 5 1 = 1 then b.on (endSeq i .preemptedDiscard 5 0xFF)
        else swapOut l i { q with tenant := Config.maxTenants } ctx b) b

/-- The frames and formats of the recorded conversions before a step. -/
def convertTargets (r : Replay) (step : Nat) (s : State) : List (Nat × Nat) :=
  (recsOf r step 0x06).filterMap (fun x =>
    let p := jPayload x
    ((liveOf r (fld p 8 4)).bind (fun id => seqIndex id s)).bind (fun i =>
      (((tget s.trestle.seqs i).map (fun q => pageFrames q s)).bind (fun fs => fs[fld p 0 4]?)).map (fun f => (f, fld p 4 1))))

/-- A page move to a frame. -/
def MoveKind.brings (f : Nat) : MoveKind → Bool
  | .page _ b .. => b == f
  | _ => false

/-- The page move to a frame converts what it brings (R246). -/
def convertMove (l f fmt step : Nat) (s : State) : State :=
  { s with wrd := { s.wrd with movers := s.wrd.movers.map (fun m => { m with jobs := m.jobs.map (fun j =>
      match j.kind with
      | .page a b _ _ _ e _ => if b = f then { j with kind := .page a b fmt (some l) true e step } else j
      | _ => j) }) } }

/-- A recorded conversion without the error gate (R246): of the page in its frame, or as the page's move lands. -/
def replayConvert (l step : Nat) (s : State) (e : Nat × Nat) : State :=
  if (frameAt e.1 s).format ≠ 0 then s
  else if s.allJobs.any (fun j => j.kind.brings e.1) then convertMove l e.1 e.2 step s
  else convertFrame e.1 e.2 s

def replayConverts (l : Nat) (r : Replay) (step : Nat) (s : State) : State :=
  (convertTargets r step s).foldl (replayConvert l step) s

/-- A copy on write still writes a page that is to be converted: the stage waits for it. -/
def convertsHeld (r : Replay) (step : Nat) (s : State) : Bool :=
  (convertTargets r step s).any (fun e => arriving e.1 s && !s.allJobs.any (fun j => j.kind.brings e.1))

/-- A memory object of a recorded handle is resolved in the replay's context (R395): cached, or read from its table, which is
charged to the context (R328); and whether it could be. -/
def resolveObj (c h : Nat) (s : State) : State × Bool :=
  let key := objKey c (hIndex h)
  match tget s.contexts c with
  | none => (s, false)
  | some x =>
    match tget s.objects key with
    | some o => (s, decide (o.tag = hTag h ∧ o.kind = 0 ∧ o.freePending = false))
    | none =>
      if hKind h = 0 ∧ hIndex h ≠ 0 ∧ hIndex h < 2 ^ x.rcd.objLog2 then
        let b := memRead (entryLoc x.rcd (hIndex h)) 64 s
        let s := readFor (some c) (entryLoc x.rcd (hIndex h)) 64 s
        match (if fld b 2 1 = 1 ∧ fld b 1 1 = 0 ∧ fld b 4 2 = hTag h then parseObj (ctxLoc x.rcd) b else none) with
        | some (.mem m) =>
          if inArena c m s && vaFree c m s then ({ s with objects := tset s.objects key (Obj.fresh (hTag h) (.mem m)) }, true)
          else (s, false)
        | _ => (s, false)
      else (s, false)

/-- The objects of a recorded admission are resolved in turn, up to the first that cannot be. -/
def resolveAll (c : Nat) : List Nat → State → State × Bool
  | [], s => (s, true)
  | h :: t, s =>
    match resolveObj c h s with
    | (s, true) => resolveAll c t s
    | (s, false) => (s, false)

/-- A recorded admission (R392): the record, and what its last part gives. -/
structure RecAdmit where
  raw : List Byte
  id : Nat
  crc : Nat
  tag : Nat
  step : Nat
  order : Nat
  first : Nat
  promptDone : Nat

/-- Every admission of a window. -/
def allAdmits (r : Replay) : List RecAdmit :=
  (r.records.filter (fun x => jType x == 0x02 && jPart x == 4)).map (fun x =>
    let parts := (List.range 4).map (fun i => jPayload ((r.records[jSeq x - 4 + i]?).getD []))
    let p := jPayload x
    { raw := parts.flatten.take 128, id := fld p 0 4, crc := fld p 8 8, tag := fld x 4 4, step := jStep x, order := fld p 4 4,
      first := fld p 16 4, promptDone := fld p 20 4 })

/-- The admissions recorded for a step. -/
def recAdmits (r : Replay) (step : Nat) : List RecAdmit := (allAdmits r).filter (fun a => a.step == step)

/-- The admission record of a recorded admission; its seed has been drawn. -/
def RecAdmit.parse (a : RecAdmit) : Option AdmitRec :=
  match parseAdmit ((a.raw.take 1 ++ [BitVec.ofNat 8 (fld a.raw 1 1 % 2)]) ++ a.raw.drop 2) with
  | .ok r => some r
  | .error _ => none

/-- The live sequence whose prefix a recorded admission shares. -/
def prefixOf (lp : Loop) (r : AdmitRec) (s : State) : Option Seq :=
  if r.sharePrefix then (lp.replay.bind (fun p => liveOf p r.prefixSource)).bind (fun x => (liveSeq x s).map (·.2)) else none

/-- A recorded admission carried out again, with the accept_order and the shared prefix of its record: the sequence takes the next
number, and the replay remembers which number stands for the recorded one (R395, R204). -/
def admitAgain (l : Nat) (a : RecAdmit) (r : AdmitRec) (lp : Loop) (s : State) : State :=
  let (i, k) := nextSeqIndex s
  let id := i + k * 2 ^ 18
  let s := admitSeq l lp a.tag r a.raw (prefixOf lp r s) (if (prefixOf lp r s).isSome then a.promptDone / lp.params.tokensPerPage else 0) s
  let s := s.modSeq i (fun q => { q with acceptOrder := a.order })
  s.modLoop l (fun lp => { lp with replay := lp.replay.map (fun p => { p with map := p.map ++ [(a.id, id)] }) })

/-- The sequence of a recorded admission that has been carried out. -/
def admitted (l : Nat) (a : RecAdmit) (s : State) : Option Nat :=
  (((loopAt l s).bind (·.replay)).bind (fun r => liveOf r a.id)).bind (fun id => seqIndex id s)

/-- A recorded admission becomes a live WAITING sequence, and whether its handles could be resolved. -/
def admitRecord (l : Nat) (a : RecAdmit) (s : State) : State × Bool :=
  if (admitted l a s).isSome then (s, true) else
  match loopAt l s, a.parse with
  | some lp, some r =>
    match resolveAll lp.ctx [r.promptHandle, r.outHandle, r.fenceHandle] s with
    | (s, false) => (s, false)
    | (s, true) => (admitAgain l a r lp s, true)
  | _, _ => (s, false)

/-- The prompt of the admitted sequence is the recorded one (R394). -/
def promptMatches (a : RecAdmit) (q : Seq) (s : State) : Bool :=
  decide (crc64 (memRead q.promptLoc (4 * q.adm.promptTokens) s) = a.crc)

/-- A recorded admission is staged; kind 3 where its prompt, which is read for the context (R328), differs (R396). -/
def replayAdmit (l : Nat) (a : RecAdmit) (s : State) : State × Option Diverge :=
  let fail : Diverge := (3, nextStep l s, a.id)
  match admitRecord l a s with
  | (s, false) => (s, some fail)
  | (s, true) =>
    match (admitted l a s).bind (fun i => tget s.trestle.seqs i) with
    | none => (s, some fail)
    | some q =>
      if promptMatches a q s then (readFor (some q.ctx) q.promptLoc (4 * q.adm.promptTokens) s, none) else (s, some fail)

/-- The recorded sequences that end at a boundary, or are discarded at its stage 4. -/
def recordedEnds (r : Replay) (step : Nat) : List Nat :=
  (items8 r step 0x04).map (fun x => fld x 0 4) ++
    ((items8 r step 0x05).filter (fun x => decide (fld x 5 1 = 1))).map (fun x => fld x 0 4)

/-- Sequences that share the prefix of one that ends now are admitted before it ends, since their references hold its pages (R204);
they join at their recorded step. -/
def keepPrefixes (l : Nat) (r : Replay) (step : Nat) (s : State) : State :=
  let ends := recordedEnds r step
  ((allAdmits r).filter (fun a => decide (step ≤ a.step ∧ 0 < a.promptDone) &&
    ((a.parse.map (fun x => ends.contains x.prefixSource)).getD false))).foldl (fun s a => (admitRecord l a s).1) s

/-- Every recorded admission of a step, up to the first that fails. -/
def replayAdmits (l : Nat) : List RecAdmit → State → State × Option Diverge
  | [], s => (s, none)
  | a :: t, s => match replayAdmit l a s with
    | (s, none) => replayAdmits l t s
    | (s, some d) => (s, some d)

/-- The records of a boundary are read into the JOURNAL queue of the replay loop, one cell each, and the reader marks the
first (R312, R395); a retry rewinds and reads the same cells again. false: the cells are not all granted yet. -/
def readWindow (l : Nat) (lp : Loop) (r : Replay) (step : Nat) (s : State) : Bool × State :=
  let read (q : CellQueue) : CellQueue := { q with rd := q.cells.length, mark := some 0 }
  if (cellQueue 5 l s).mark.isSome then (true, modCells 5 l (fun q => read { q with rd := q.mark.getD 0 }) s)
  else
    match (r.records.filter (fun x => jStep x == step)).foldl (fun (a : Bool × State) x =>
        let p := askCells (itemReq 5 l (some lp.tenant) (jSeq x) 1 (some x)) a.2
        (a.1 && p.1, p.2)) (true, s) with
    | (true, s) => (true, modCells 5 l read s)
    | (false, s) => (false, s)

/-- Stage 5 of a replay: the recorded resumes, then the admissions with their recorded first chunks; none where free frames cannot
meet one (R395). -/
def replayJoins (l : Nat) (lp : Loop) (shed : Nat) : List (Nat × Option Nat) → Bnd → List BEntry → Option (Bnd × List BEntry)
  | [], b, es => some (b, es)
  | (i, first) :: t, b, es =>
    match tget b.s.trestle.seqs i with
    | none => replayJoins l lp shed t b es
    | some q =>
      let rt := ctxCls b.s lp.ctx == .rt
      let n := first.getD (joinTokens q lp (capped lp.params.maxTokens shed - tokenCount es))
      if ((joinFrames q lp n rt b.s).1 : Int) ≤ freeFast b.s then
        let (b, e) := joinSeq l lp i q n b
        replayJoins l lp shed t b (es ++ [e])
      else none

/-- A replay ends (R397): every sequence with reason 4, the command, and the loop with the result word. -/
def endReplay (l : Nat) (d : Option Diverge) (s : State) : State :=
  match loopAt l s with
  | none => s
  | some lp =>
    match lp.replay with
    | none => s
    | some r =>
      let k := qkey lp.ctx r.queue
      let s := (loopOrder l s).foldl (fun s i => endSeq i .aborted 4 0xFF s) s
      let s := s.modLoop l (fun lp => { lp with replay := lp.replay.map (fun p => { p with diverged := d }) })
      let s := match d with
        | some (_, _, aux) => finish k r.pos .replayDiverge aux s
        | none => finishOk k r.pos s
      closeLoop l s

/-- The replay's command has lost its latch to another request. -/
def replayDead (lp : Loop) (r : Replay) (s : State) : Bool :=
  match s.cmd (qkey lp.ctx r.queue) r.pos with
  | some m => m.latch.isSome
  | none => true

/-- Stages 2 to 6 of a replay, from the recorded window; none where a reservation has to wait. -/
def replayStages (l : Nat) (lp : Loop) (r : Replay) (ch : BoundaryChoice) (s : State) : Option State :=
  let n1 := lp.step + 1
  if !readable r n1 then some (endReplay l (some (2, n1, 0)) s) else
  if convertsHeld r n1 s then none else
  let s := keepPrefixes l r n1 s
  let r := mapNow l r s
  let s := (loopOrder l s).foldl (fun s i => endVerdict i s) s
  let s := replayEnds r n1 s
  match recsOf r n1 0x09 with
  | [] => some (endReplay l (some (2, n1, 0)) s)
  | st :: _ =>
    let shed := fld (jPayload st) 0 1
    let s := s.modLoop l (fun lp => { lp with sampled := { lp.sampled with shed := shed } })
    match loopAt l s with
    | none => some s
    | some lp =>
      let (_, toks) := stage3 l lp shed s
      let parked := (loopSeqs l s).filterMap (fun e => if e.2.parked then some e.1 else none)
      let b := replayPreempts l lp.ctx r n1 (fun i => !parked.contains i) { s := s, ch := ch }
      let b := b.on (replayConverts l r n1)
      let tpp := lp.params.tokensPerPage
      let toks := toks.filter (fun e => stillRuns e.1 b.s)
      if 0 < poolShort tpp toks b.s then none else
      let es := toks.filterMap (fun e => (tget b.s.trestle.seqs e.1).map (fun q => entryOf e.1 q e.2 tpp b.s))
      let b := toks.foldl (fun b e => reserveFor e.1 e.2 tpp lp.ctx b) b
      let resumed := (items8 r n1 0x03).filterMap (fun x => (liveOf r (fld x 0 4)).bind (fun id => seqIndex id b.s))
      match replayAdmits l (recAdmits r n1) b.s with
      | (s, some d) => some (endReplay l (some d) s)
      | (s, none) =>
        let new := (recAdmits r n1).filterMap (fun a => (admitted l a s).map (fun i => (i, some a.first)))
        let joins := (joinList l s).filterMap (fun i => new.find? (fun e => e.1 == i))
        match replayJoins l lp shed (resumed.map (fun i => (i, none)) ++ joins) { b with s := s } es with
        | none => none
        | some (b, es) =>
          let late := parked ++ new.map (·.1)
          let b := replayPreempts l lp.ctx r n1 (fun i => late.contains i && stillRuns i b.s) b
          let s := stage6 l (es.filter (fun e => stillRuns e.seqIdx b.s)) b.s
          match loopAt l s with
          | none => some s
          | some lp =>
            if loopCrc l lp s = fld (jPayload st) 16 8 then some s else some (endReplay l (some (4, n1, 0)) s)

/-- The boundary of a replay loop (R395): one that has to wait leaves no more than its records read and marked. A step whose token
differs delivers nothing (R397). -/
def replayBoundary (l : Nat) (lp : Loop) (r : Replay) (ch : BoundaryChoice) (s : State) : State :=
  if replayDead lp r s then endReplay l none s else
  let s := s.modLoop l (fun lp => { lp with sampled := { lp.sampled with level := s.power.level } })
  match readWindow l lp r (lp.step + 1) s with
  | (false, s) => s
  | (true, s) =>
  match lp.phase with
  | .ended =>
    let (s1, toks) := collectAll lp s
    let last := decide (r.first + r.count ≤ lp.step + 1)
    match tokenCheck r lp toks with
    | some d => endReplay l (some d) s
    | none =>
      match (if last then none else verdictCheck l r lp s1) with
      | some d => endReplay l (some d) s1
      | none => if last then endReplay l none s1 else (replayStages l lp r ch s1).getD s
  | _ => (replayStages l lp r ch s).getD s

/-! ### STEP_BOUNDARY and STEP_LAUNCH -/

/-- Inputs sampled as stage 1 begins (R185). -/
def sampleInputs (s : State) : Sampled :=
  { shed := s.power.level, freeFast := freeFast s, freeSlow := freeSlow s, journalCongested := classCongested 5 s,
    level := s.power.level }

/-- Stages 3 to 6 of a live loop. -/
def liveStages (l : Nat) (ch : BoundaryChoice) (s : State) : State :=
  match loopAt l s with
  | none => s
  | some lp =>
    let shed := lp.sampled.shed
    let (victims, toks) := stage3 l lp shed s
    let (b, es) := stage4 l lp victims toks { s := s, ch := ch }
    let (b, es) := stage5 l lp shed (joinList l b.s) b es
    stage6 l es b.s

/-- Stages 1 to 6 of a live loop: after a step all of them, for an idle loop that has been woken stages 3 to 6 (R184). -/
def liveBoundary (l : Nat) (lp : Loop) (ch : BoundaryChoice) (s : State) : State :=
  let s := s.modLoop l (fun lp => { lp with sampled := sampleInputs s })
  match lp.phase with
  | .ended =>
    let (s, toks) := collectAll lp (readConsumed l s)
    liveStages l ch (stage2 l (journalResults l lp toks s))
  | _ => liveStages l ch s

/-- An idle loop has been woken: an admission or a fall of the shed level, or a release of frames since it became idle
(R184). -/
def Loop.awake (lp : Loop) (s : State) : Bool := lp.woken || decide (lp.slept ≠ s.wrd.released)

/-- Loops whose record is written and waits for stage 7. -/
def recordedLoops (s : State) : List Nat :=
  s.trestle.loops.filterMap (fun e => match e.2.phase with | .recorded => some e.1 | _ => none)

/-- Loops whose waiting record lost its last entry are idle: their boundary is over, so that parked sequences with a cancel or a
verdict end (R205, R218), and their residencies are blocked. -/
def settleEmptied (was : List Nat) (s : State) : State :=
  was.foldl (fun s l =>
    match loopAt l s with
    | some lp => (match lp.phase with | .idle => closeIfDone l (loopBoundary l (endParked l s)) | _ => s)
    | none => s) s

/-- Trace point 8: a record for each stage that has been completed (R408): all up to stage 6, of an idle loop stages 3 to 6. -/
def traceStages (lp : Loop) (s : State) : State :=
  let n := match lp.phase with | .ended => 6 | _ => 4
  (List.range n).foldl (fun s _ => trace 8 lp.tag lp.ctx 0 lp.step s) s

/-- The boundary of a loop (R184), up to the record of its next step. A replay whose command is aborted ends though its record
waits (R397). -/
def stepBoundary (l : Nat) (ch : BoundaryChoice) (s : State) : State :=
  match loopAt l s with
  | none => s
  | some lp =>
    let dead := match lp.replay with | some r => replayDead lp r s | none => false
    let due := match lp.phase with | .idle => lp.awake s | .ended => true | .recorded => dead | .running => false
    if !due || !s.isActive lp.ctx then s else
    let was := (recordedLoops s).filter (· != l)
    let s := match lp.replay with
      | some r => replayBoundary l lp r ch s
      | none => liveBoundary l lp ch s
    let s := bump 3 (traceStages lp s)
    checkMapout (settleEmptied was (closeIfDone l (loopBoundary l s)))

def execStepBoundary (l : Nat) (ch : BoundaryChoice) (s : State) : Out := .next (stepBoundary l ch s)

/-- The weights of a loop are resident (R198). -/
def weightsReady (lp : Loop) (s : State) : Bool :=
  if lp.params.modelKey = 0 then true
  else match modelOf (some lp.tenant) lp.params.modelKey s with
    | some (_, m) => (match m.state with | .resident => true | .inPlace => true | _ => false)
    | none => false

/-- Every record of a step or an earlier one is written (R390), those of conversions decided and still under way included, and the
ring has room for the STEP record, which is written with the launch (log 19). -/
def recordsOut (l : Nat) (lp : Loop) (s : State) : Bool :=
  match lp.jnl with
  | none => true
  | some j => j.waiting.all (fun w => decide (lp.step + 1 < w.1)) && j.room j.nextSeq &&
    s.allJobs.all (fun k => match k.kind with
      | .page _ d fmt (some l') true _ step => !(l' == l && decide (step ≤ lp.step + 1 ∧ fmt ≠ (frameAt d s).format))
      | _ => true)

/-- A sequence has a step of its own (R207). -/
def Seq.stepped (n : Nat) (q : Seq) : Seq := { q with admitStep := if q.admitStep = 0 then n else q.admitStep, lastStep := n }

/-- The launch of the next step is sent (R195). It counts as a step run by the context: R61 does not say when a step is counted,
nor whether a graph's run is one; here a loop's step at its launch, and no graph run (log 98). -/
def launchStep (l r : Nat) (lp : Loop) (x : Residency) (s : State) : State :=
  let n := lp.step + 1
  let s := journalStep l lp s
  let s := journalDrain l (((loopAt l s).bind (·.jnl)).map (fun j => j.waiting.length) |>.getD 0) s
  let s := lp.entries.foldl (fun s e => s.modSeq e.seqIdx (Seq.stepped n)) s
  let s := s.modLoop l (fun lp => { lp with step := n, phase := .running, stats := { lp.stats with steps := lp.stats.steps + 1 } })
  let s := modUse lp.ctx (fun u => { u with steps := u.steps + 1 }) s
  let s := match modelOf (some lp.tenant) lp.params.modelKey s with
    | some (k, _) => s.modModel k (fun m => { m with lastUse := s.now })
    | none => s
  let sts := launchStreams x.benches s
  let s := s.modRes r (Residency.launched sts)
  let launch : Launch :=
    { ctx := lp.ctx, tag := lp.tag, step := n, loopId := some l, cmd := none, gkey := lp.gkey, ver := lp.ver, ordinal := 0,
      parts := [], benches := [], batch := (batchLoc lp n s).addr, args := lp.args, windowUs := lp.params.windowUs, res := r }
  let s := if lp.replay.isSome then dropQueue 5 l s else s
  checkMapout (endParked l (trace 8 lp.tag lp.ctx 0 n (sendLaunch launch x.benches s)))

/-- The scheduler's verdict on a loop that has reached stage 7 on benches it holds (R276): saved for a claimant, for a partition reset
(R363) or under the shed level sampled at stage 1 (R185, R284, R444); else the step is launched, once its partitions have streams.
A save that finds no frames launches nothing while that level lasts; a save made for the level is made once (log 111). -/
def stage7 (l r : Nat) (lp : Loop) (s : State) : State :=
  match tget s.sched.residencies r with
  | none => s
  | some x =>
    if x.moving || x.benches.isEmpty then s
    else if claimedRes x s || underReset x s || shedSave x lp.sampled.level s then
      match saveRes r s with
      | some s => decisionPass (s.modLoop l (fun lp => { lp with sampled := { lp.sampled with level := 0 } }))
      | none =>
        let s := tryNext r s
        if underReset x s || shedSave x (min lp.sampled.level s.power.level) s || !streamsReady x.benches s then s
        else launchStep l r lp x s
    else if streamsReady x.benches s then launchStep l r lp x s
    else s

/-- A loop asks for benches. -/
def askBenches (l : Nat) (lp : Loop) (s : State) : State :=
  decisionPass (addJob { ctx := lp.ctx, owner := .loop l, cmd := none, count := lp.params.benchCount, since := s.now } s)

/-- Stage 7 (R195): the launch goes out once Journal records, weights and benches are there; benches are asked for. A loop of
R217 whose context is saved launches nothing, since a saved residency holds no benches. -/
def stepLaunch (l : Nat) (s : State) : State :=
  match loopAt l s with
  | none => s
  | some lp =>
    if lp.phase ≠ .recorded ∨ s.isActive lp.ctx = false then s
    else if !recordsOut l lp s then
      s.modLoop l (fun lp => { lp with jnl := lp.jnl.map (fun j => { j with waits := j.waits + 1 }) })
    else if !weightsReady lp s then s
    else match loopRes l s with
    | some (r, x) =>
      if x.saved then (if x.moving || (loopJob l s).isSome then s else askBenches l lp s)
      else if x.moving || x.running then s
      else stage7 l r lp (passAt (some r) s)
    | none => if (loopJob l s).isSome then s else askBenches l lp s

def execStepLaunch (l : Nat) (s : State) : Out := .next (stepLaunch l s)

end Sys2Proof.Machine
end

