-- ==== Sys2Proof/Machine/SchedRows.lean ====
section
/-! DEFINITION. The scheduler's own events: charges (R266), blocked residencies (R274), saves, restores and clears that
land (R279 to R281). -/

namespace Sys2Proof.Machine

/-- Cores of a set of benches (R1: eight a bench). -/
def coresOf (bs : List Nat) : Nat := 8 * bs.length

/-- A stream's cycles since its last charge are charged to its context: cores times CCLK cycles, stalls included (R266). -/
def chargeStream (p st : Nat) (s : State) : State :=
  let x := streamAt p st s
  match x.launch with
  | none => s
  | some l => chargeCycles l.ctx (coresOf l.benches * (x.ran - x.charged)) (s.modStream p st (fun x => { x with charged := x.ran }))

/-- A stream whose step or run is under way. -/
def Stream.active (x : Stream) : Bool :=
  match x.state with
  | .loading | .running | .stalled | .draining => true
  | _ => false

/-- The 1 ms charge tick (R266): each running stream is charged, and a decision pass follows (R276). -/
def chargeTick (s : State) : State :=
  let sts := (streamsOf (fun _ => true) s).filter (fun e => (streamAt e.1 e.2 s).active)
  decisionPass (sts.foldl (fun s e => chargeStream e.1 e.2 s) s)

def execChargeTick (_ : Unit) (s : State) : Out := .next (chargeTick s)

/-- A residency has been blocked for evict_after_us and becomes vacatable (R274); an idle graph residency of an RT context
is released (R277). -/
def evictAfterExpiry (r : Nat) (s : State) : State :=
  match tget s.sched.residencies r with
  | some x =>
    match x.blockedAt with
    | some t =>
      if rtExpired x s && !x.running && !x.moving then decisionPass (releaseRes r (countVacate s))
      else if s.sched.evictAfter * Config.us ≤ s.now - t then decisionPass s
      else s
    | none => s
  | none => s

def execEvictAfterExpiry (r : Nat) (s : State) : Out := .next (evictAfterExpiry r s)

/-- Pieces in which the state of benches is copied: 16 KiB, which divides a core's storage and a frame. -/
def savePiece : Nat := 16384

/-- Piece t of the saved state of benches: its address in scratch storage (R279). -/
def scratchPiece (bs : List Nat) (t : Nat) : Nat :=
  let o := t * savePiece
  let core := o / coreBytes
  scratchAddr ((bs[core / 8]?).getD 0) (core % 8) (o % coreBytes)

/-- Piece t of the saved state: its location in the save frames. -/
def savePlace (fs : List Nat) (t : Nat) (s : State) : Loc :=
  let o := t * savePiece
  (frameLoc ((fs[o / pageBytes s]?).getD 0) s).plus (o % pageBytes s)

def savePieces (bs : List Nat) : Nat := bs.length * 8 * coreBytes / savePiece

/-- The scratch storage of benches is written to save frames. -/
def saveBytes (bs fs : List Nat) (s : State) : State :=
  (List.range (savePieces bs)).foldl (fun s t =>
    let d := savePlace fs t s
    { s with mem := s.mem.put d.space (copyCells s.mem.scratch (scratchPiece bs t) savePiece (s.mem.of d.space) d.addr) }) s

/-- The scratch storage of benches is overwritten from save frames. -/
def restoreBytes (bs fs : List Nat) (s : State) : State :=
  (List.range (savePieces bs)).foldl (fun s t =>
    let d := savePlace fs t s
    { s with mem := { s.mem with scratch := copyCells (s.mem.of d.space) d.addr savePiece s.mem.scratch (scratchPiece bs t) } }) s

/-- A residency's benches are all in a state. -/
def resIn (x : Residency) (st : BenchState) (s : State) : Bool := x.benches.all (fun b => (benchAt b s).state == st)

/-- Requests of a save or restore of benches on their partitions' memory paths, with the residency's key (R473, R477). -/
def frameTraffic (write : Bool) (c : Nat) (bs fs : List Nat) (s : State) : State :=
  emitAll ((List.range (savePieces bs)).flatMap (fun t =>
    let l := savePlace fs t s
    let via : Via := .slice ((bs[t * savePiece / coreBytes / 8]?).getD 0 / 4)
    if write then writeReqs (s.keyOf (some c)) via l (memRead l savePiece s) else readReqs (s.keyOf (some c)) via l savePiece)) s

/-- A save or restore waits: a move or zeroing of a save frame is in flight (R193, R231), or its requests are held (R362). -/
def saveHeld (x : Residency) (s : State) : Bool := x.saveFrames.any (fun f => inFlight f s || frameHeld f s)

/-- A save has landed (R279): the benches enter CLEARING. -/
def saveLanded (r : Nat) (s : State) : State :=
  match tget s.sched.residencies r with
  | none => s
  | some x =>
    if x.moving && !x.saved && !x.benches.isEmpty && resIn x .saving s && !saveHeld x s then
      let s := frameTraffic true x.ctx x.benches x.saveFrames (saveBytes x.benches x.saveFrames s)
      let s := setBenches x.benches (fun b => { b with state := .clearing, res := none }) s
      let s := s.modRes r (fun x => { x with benches := [], saved := true, moving := false, blockedAt := none })
      decisionPass (trace 11 0 x.ctx 0 r (requestParts x.benches (startClear x.ctx x.benches s)))
    else s

def execSaveLanded (r : Nat) (s : State) : Out := .next (saveLanded r s)

/-- A restore has landed (R281): the benches are HELD, and the save frames are freed but for a swap-mode context's, which
the context keeps (R260, R279). The saved stream registers go: a launch sets every one (R167). -/
def restoreLanded (r : Nat) (s : State) : State :=
  match tget s.sched.residencies r with
  | none => s
  | some x =>
    if x.moving && x.saved && !x.benches.isEmpty && resIn x .restoring s && !saveHeld x s then
      let s := dropSave x (frameTraffic false x.ctx x.benches x.saveFrames (restoreBytes x.benches x.saveFrames s))
      let s := s.modRes r (fun x => { x with saved := false, moving := false, saveFrames := [], regs := [] })
      let s := setBenches x.benches (fun b => { b with state := .held }) s
      checkMapout (decisionPass (trace 11 0 x.ctx 0 r s))
    else s

def execRestoreLanded (r : Nat) (s : State) : Out := .next (restoreLanded r s)

/-- A bench's clear is done (R280): its words are zero, its cache portion is invalid (R166), and it is FREE or
CLAIMED. -/
def clearDone (b : Nat) (s : State) : State :=
  let x := benchAt b s
  if x.state = .clearing then
    let s := clearBench b s
    let s := s.modSlice (b / 4) (fun y => { y with lines := y.lines.filter (fun l => l.1 != b % 4) })
    let s := setBench b { state := if x.claim.isSome then .claimed else .free, res := none, claim := x.claim } s
    decisionPass (trace 11 0 0xFFFF 0 b s)
  else s

def execClearDone (b : Nat) (s : State) : Out := .next (clearDone b s)

end Sys2Proof.Machine
end

