-- ==== Sys2Proof/Machine/Slices.lean ====
section
/-! DEFINITION. The slices: launches (R167, R375, R376), text lines (R166), bundles (R146 to R149, R168, R169, R172), stops
(R173 to R177), step ends (R176). -/

namespace Sys2Proof.Machine

/-! ### Text and lines -/

/-- The verified image a stream runs. -/
def launchImage (l : Launch) (s : State) : List Byte := versionImage l.gkey l.ver s

/-- The portion that holds the line at a text offset: the bench of the partition (R166). -/
def linePortion (l : Launch) (off : Nat) : Nat :=
  ((l.benches[(off / 256) % max 1 l.benches.length]?).getD 0) % 4

/-- The cache line of a text offset. -/
def lineOf (l : Launch) (off : Nat) : Nat × Nat × Nat × Nat := (linePortion l off, l.gkey, l.ver, off / 256 * 256)

/-- Text offsets of the lines of a range. -/
def linesOf (a n : Nat) : List Nat := (List.range ((a + n + 255) / 256 - a / 256)).map (fun i => (a / 256 + i) * 256)

/-- A line is used or arrives: it becomes the most recently used of its portion; of 512 the least recently used goes
(R166). -/
def touchLine (x : Nat × Nat × Nat × Nat) (y : Slice) : Slice :=
  let ls := y.lines.filter (fun l => l != x)
  let full := decide (512 ≤ ls.countP (fun l => l.1 == x.1))
  let ls := if full then ls.eraseP (fun l => l.1 == x.1) else ls
  { y with lines := ls ++ [x] }

/-- A place of the copy of a launch's version in the program store (R156, R492). -/
def storeLoc (l : Launch) (off : Nat) (s : State) : Loc :=
  { space := .fast, addr := s.wrd.hkBase + Config.storeOffset + Config.storePlace l.gkey l.ver + off }

/-- Text of a version is read from the program store over the slice memory port (R166, R477), and charged (R328). -/
def readText (p : Nat) (l : Launch) (off : Nat) (s : State) : State := readBy (.slice p) (some l.ctx) (storeLoc l (imTextOff (launchImage l s) + off) s) 256 s

/-- A slice reads a table of the housekeeping region over its memory port: a side section, an argument table, a Batch Record (R477).
R328 charges such a read to no tenant (log 121). -/
def readTable (p : Nat) (l : Launch) (a : Loc) (n : Nat) (s : State) : State := readReq (s.keyOf (some l.ctx)) (.slice p) a n s

/-- The argument table of a launch: 16 bytes an argument (R167). -/
def argTable (l : Launch) (s : State) : Loc :=
  { space := .fast, addr := s.wrd.hkBase + Config.argPlace l.ctx l.tag l.step }

/-- A launch is received (R167): the slice marks and reads its packet (R312), and the stream is LOADING with its registers
set, once its argument table is read (R167, R477). -/
def launchReceive (p st : Nat) (s : State) : State :=
  let x := streamAt p st s
  match x.launch with
  | none => s
  | some l =>
    if x.state ≠ .idle ∨ x.confirmed = true ∨ packetReady 1 (streamQueue p st) s = false then s
    else (readTable p l (argTable l s) (16 * l.args.length) (readMarked 1 (streamQueue p st) s)).modStream p st (fun x =>
      { x with state := .loading, cycle := 0, flags := 0, loops := [], pc := 0, pend := 0,
               regs := [BitVec.ofNat 64 l.ordinal, BitVec.ofNat 64 l.parts.length, BitVec.ofNat 64 l.batch,
                        BitVec.ofNat 64 l.step] ++ List.replicate 28 0 })

def execLaunchReceive (p st : Nat) (s : State) : Out := .next (launchReceive p st s)

/-- A slice asks for a launch again (R375): the packet is read again from its mark (R312); a fourth failure orders a partition reset (R376). -/
def launchRetryRequest (p st cause : Nat) (s : State) : State :=
  let x := streamAt p st s
  match x.launch with
  | none => s
  | some l =>
    let waiting := (match x.state with | .idle => !x.confirmed | .loading => true | _ => false) && decide (x.cycle = 0)
    if !waiting then s else
    let s := emit (.retryRequest p st cause) s
    if 3 ≤ x.retries then orderStage2 p 6 false false s
    else
      let s := hutchRec 0x0D { ctxHead s l.ctx l.tag with part := p }
        (le 1 p ++ le 1 st ++ le 1 cause ++ le 1 (x.retries + 1) ++ zeros 28) s
      emit (.launch p st) ((rewindQueue 1 (streamQueue p st) s).modStream p st (fun x =>
        { x with state := .idle, retries := x.retries + 1 }))

def execLaunchRetryRequest (p st cause : Nat) (s : State) : Out := .next (launchRetryRequest p st cause s)

/-- Bytes of the bundle at the program counter, as its control word says (R146). -/
def headLen (x : Stream) (l : Launch) (s : State) : Nat :=
  let img := launchImage l s
  (fld img (imTextOff img + x.pc) 8 / 2 ^ 58 % 64 + 1) * 16

/-- A CCLK cycle more since the first bundle issued; none before it has (R266). -/
def Stream.elapse (x : Stream) : Nat := if x.ran = 0 then 0 else x.ran + 1

/-- The stream stalls at its head bundle (R169): a new cause of 1 to 3 is a slip, each further cycle is counted. The
text preload of a LOADING stream is no stall (R140). R180 gives stall_flag for cause 1 only: here causes 2 and 3 clear it, and
through a stall of cause 4, DRAINING and HALTED it keeps the flag last awaited (log 101). -/
def stall (p st cause what : Nat) (s : State) : State :=
  let x := streamAt p st s
  let fresh := decide (x.stallCause ≠ cause)
  let state : StreamState := match x.state with | .loading => .loading | .draining => .draining | _ => .stalled
  if cause = 4 then
    if x.state = .loading then s else
    (s.modSlice p (fun y => { y with missStall := satInc 32 y.missStall })).modStream p st (fun x =>
      { x with state := state, stallCause := 4, ran := x.elapse })
  else
    let s := s.modStream p st (fun x =>
      { x with state := state, stallCause := cause, stallFlag := if cause = 1 then what else 0,
               slip := if fresh && x.slip.isNone then some (x.cycle, cause, what) else x.slip,
               slips := if fresh then x.slips + 1 else x.slips, slipCycles := x.slipCycles + 1, ran := x.elapse })
    s.modSlice p (fun y => { y with slipTotal := y.slipTotal.modify st (fun t =>
      (if fresh then satInc 32 t.1 else t.1, satInc 32 t.2)) })

/-- A text line that is not in the cache arrives (R166); one that the stalled head bundle lacks counts as a miss (R183). -/
def lineArrives (p st off : Nat) (s : State) : State :=
  let x := streamAt p st s
  match x.launch with
  | none => s
  | some l =>
    if x.active && decide (off < imTextLen (launchImage l s)) && !(sliceAt p s).lines.contains (lineOf l off) then
      let s := (s.modSlice p (touchLine (lineOf l off))).modStream p st (fun x => { x with textRetry := false })
      let s := if x.stallCause = 4 ∧ (linesOf x.pc (headLen x l s)).contains (off / 256 * 256) = true then
          s.modSlice p (fun y => { y with misses := satInc 32 y.misses })
        else s
      readText p l (off / 256 * 256) s
    else s

/-- ICACHE_FILL. Of a line of the head bundle that the cache holds already, the held one has failed parity: it is treated as absent, and
the stream stalls with cause 4 until the line has arrived again (R375; log 122). -/
def icacheFill (p st off : Nat) (s : State) : State :=
  let x := streamAt p st s
  match x.launch with
  | none => s
  | some l =>
    let line := lineOf l off
    if x.active && decide (off < imTextLen (launchImage l s)) && (sliceAt p s).lines.contains line &&
        (linesOf x.pc (headLen x l s)).contains (off / 256 * 256) then
      lineArrives p st off (stall p st 4 0 (s.modSlice p (fun y => { y with lines := y.lines.filter (fun e => e != line) })))
    else lineArrives p st off s

def execIcacheFill (p st off : Nat) (s : State) : Out := .next (icacheFill p st off s)

/-- A slice reports an alarm on the Spine (R168). -/
def alarmReport (p st : Nat) (r : AlarmReport) (s : State) : State :=
  emit (.alarmReport p st r.id r.late r.unreached) (s.modStream p st (fun x => { x with alarmReports := x.alarmReports ++ [r] }))

/-- The hub places an alarm (R168): at most 16; a late one is reported at once; S1 and above drop NEXT_PREFETCH. -/
def alarmSet (p st cycle id : Nat) (prefetch : Bool) (s : State) : State :=
  let x := streamAt p st s
  if !x.active || (prefetch && decide (1 ≤ s.power.level)) || decide (16 ≤ x.alarms.length) then s
  else
  let s := emit (.alarm p st cycle id prefetch) s
  if cycle < x.cycle then alarmReport p st { id := id, late := true, unreached := false } s
  else s.modStream p st (fun x => { x with alarms := x.alarms ++ [{ cycle := cycle, id := id, prefetch := prefetch }] })

def execAlarmSet (p st cycle id : Nat) (prefetch : Bool) (s : State) : Out := .next (alarmSet p st cycle id prefetch s)

/-! ### Stops -/

/-- An engine runs a side command: its writes have not landed, or it waits to act. -/
def SideEngine.runs (g : SideEngine) : Bool := g.busy || g.waiting

/-- The side engines of a stream that halts (R173): the running command completes, the rest is discarded. -/
def SideEngine.discard (g : SideEngine) : SideEngine :=
  if g.runs then { g with queue := g.queue.take 1 } else SideEngine.reset

/-- A stream halts, with a fault to report or because it was asked to stop (R173). -/
def haltStream (p st : Nat) (f : Option StreamFault) (s : State) : State :=
  s.modStream p st (fun x =>
    { x with state := .halted, stallCause := 0, confirmed := false, engines := x.engines.map SideEngine.discard,
             fault := match x.fault with | some g => some g | none => f })

/-- A fault found at the stream's present bundle. -/
def faultHere (x : Stream) (st : Status) (code off : Nat) : StreamFault :=
  { status := st, code := code, cycle := x.cycle, textOffset := off, core := 0, destClass := 0, address := 0 }

/-- A program error (R149, R357). -/
def programError (p st code : Nat) (s : State) : State :=
  let x := streamAt p st s
  haltStream p st (some (faultHere x .engineFault code x.pc)) s

/-- EV_TIMING_SLIP of a stream that slipped (R169, R406). -/
def slipEvent (p st : Nat) (s : State) : State :=
  let x := streamAt p st s
  match x.launch, x.slip with
  | some l, some (cyc, cause, what) =>
    raiseEvent (ctxEvent s evTimingSlip l.ctx l.tag
      [p + st * 2 ^ 8 + cause * 2 ^ 16 + what * 2 ^ 24 + x.slips * 2 ^ 32, l.step, cyc, x.slipCycles]) s
  | _, _ => s

/-- A stop request reaches a slice (R173, R177). -/
def stopRequest (p st : Nat) (s : State) : State :=
  let x := streamAt p st s
  let fresh := match x.state with | .idle => x.launch.isSome && !x.confirmed | _ => false
  if x.stopSent && (x.active || fresh) then haltStream p st none s else s

def execStopRequest (p st : Nat) (s : State) : Out := .next (stopRequest p st s)

/-- A halted stream's operations and running side commands are complete: the slice confirms the stop (R173), or sends the
hazard report. -/
def stopConfirm (p st : Nat) (s : State) : State :=
  let x := streamAt p st s
  match x.launch with
  | none => s
  | some _ =>
    if x.state = .halted ∧ x.confirmed = false ∧ x.engines.all (fun g => !g.runs) = true then
      let s := chargeStream p st (slipEvent p st s)
      settleStops (emit (.report p st) (s.modStream p st (fun x => { x with confirmed := true })))
    else s

def execStopConfirm (p st : Nat) (s : State) : Out := .next (stopConfirm p st s)

/-- The streams of the launch that a stream belongs to. -/
def sameLaunch (l : Launch) (y : Launch) : Bool := l.res == y.res && l.cmd == y.cmd && l.loopId == y.loopId && l.step == y.step

/-- Aux of a stream's fault (R174, R357). -/
def StreamFault.aux (f : StreamFault) : Nat :=
  match f.status with
  | .hazard => f.textOffset / 16
  | .engineFault => f.code * 2 ^ 24 + f.textOffset / 16 % 2 ^ 24
  | .memUncorrectable => f.code
  | _ => 0xFFFFFFFF

/-- What a fault record says of a stream's fault (R358). -/
def streamInfo (p st : Nat) (f : StreamFault) (s : State) : FaultInfo :=
  let i := (FaultInfo.of f.status f.aux s.now).ofStream p st (streamAt p st s) s
  { i with cycle := f.cycle, textOffset := f.textOffset, core := f.core, destClass := f.destClass, address := f.address }

/-- The hub takes a fault report (R174): the latch or the context's teardown, and the launch's other slices stop. -/
def hazardReport (p st : Nat) (s : State) : State :=
  let x := streamAt p st s
  match x.launch, x.fault with
  | some l, some f =>
    if x.confirmed then
      let s := faultStream p st (streamInfo p st f s) none s
      let s := s.modStream p st (fun x => { x with fault := none })
      requestStops (streamsOf (sameLaunch l) s) s
    else s
  | _, _ => s

def execHazardReport (p st : Nat) (s : State) : Out := .next (hazardReport p st s)

/-- The hub releases a halted stream once its command has retired or its loop is CLOSED (R173). -/
def streamRelease (p st : Nat) (s : State) : State :=
  let x := streamAt p st s
  match x.launch with
  | none => s
  | some l =>
    let gone := match l.cmd with
      | some (k, pos) => (s.cmd k pos).isNone
      | none => match l.loopId with
        | some i => (loopAt i s).isNone
        | none => true
    if x.state = .halted ∧ x.confirmed = true ∧ x.fault = none ∧ gone = true then emit (.release p st) (releaseStream p st s) else s

def execStreamRelease (p st : Nat) (s : State) : Out := .next (streamRelease p st s)

/-! ### Bundles (R146, R147) -/

/-- A control word (R146). -/
structure Ctl where
  len : Nat
  ctl : Nat
  wait : Nat
  clear : Bool
  engine : Nat
  entry : Nat
  arg : Nat
  deriving DecidableEq, Repr

def Ctl.of (w : Nat) : Ctl :=
  { len := (bits w 63 58 + 1) * 16, ctl := bits w 57 54, wait := bits w 53 48, clear := bit w 47, engine := bits w 46 44,
    entry := bits w 43 32, arg := bits w 31 0 }

/-- The control word is legal under R146 and R147, what depends on the run apart. -/
def Ctl.legal (b : Ctl) (sides : Nat) : Bool :=
  decide (b.ctl ≤ 4 ∧ b.engine ≤ 4) && !(b.clear && b.wait == 63) &&
  (if b.engine = 0 then b.entry == 0 else decide (b.entry < sides)) &&
  (match b.ctl with
   | 1 => bit b.arg 31 || decide (1 ≤ bits b.arg 30 0)
   | 3 => decide (bits b.arg 26 24 ≤ 3)
   | _ => b.arg == 0)

/-- A scalar register. -/
def Stream.reg (x : Stream) (i : Nat) : W64 := (x.regs[i]?).getD 0

/-- The scalar register a control bundle reads. -/
def Ctl.reads (b : Ctl) : Option Nat :=
  match b.ctl with
  | 1 => if bit b.arg 31 then some (bits b.arg 4 0) else none
  | 3 => some (bits b.arg 31 27)
  | _ => none

/-- The branch condition (R147). -/
def taken (cond : Nat) (v : W64) : Bool :=
  match cond with
  | 0 => v == 0
  | 1 => v != 0
  | 2 => decide (v.toInt < 0)
  | _ => decide (0 ≤ v.toInt)

/-- Loop stack and next bundle of a control word at a text offset; a code of R357 where it cannot be. -/
def Ctl.next (b : Ctl) (x : Stream) (textLen : Nat) : Except Nat (List (Nat × Nat) × Nat) :=
  let seq := x.pc + b.len
  match b.ctl with
  | 1 =>
    let n : Int := if bit b.arg 31 then (x.reg (bits b.arg 4 0)).toInt else (bits b.arg 30 0 : Nat)
    if 4 ≤ x.loops.length then .error 2 else .ok ((if n ≤ 0 then 1 else n.toNat, seq) :: x.loops, seq)
  | 2 =>
    match x.loops with
    | [] => .error 2
    | (n, a) :: t => if 1 < n then .ok ((n - 1, a) :: t, a) else .ok (t, seq)
  | 3 =>
    if taken (bits b.arg 26 24) (x.reg (bits b.arg 31 27)) then
      let t := bits b.arg 23 0 * 16
      if t < textLen then .ok (x.loops, t) else .error 3
    else .ok (x.loops, seq)
  | _ => .ok (x.loops, seq)

/-- Side work of a stream is outstanding. -/
def sideBusy (x : Stream) : Bool := x.engines.any (fun g => g.busy || !g.queue.isEmpty)

/-- The Batch Record of a launch, as far as its token array; empty for a run of OP_LAUNCH_GRAPH (R15, R212). -/
def batchRecord (l : Launch) (s : State) : List Byte :=
  if l.batch = 0 then [] else
  let head := memRead { space := .fast, addr := l.batch } 256 s
  memRead { space := .fast, addr := l.batch } (fld head 40 4 + 4 * fld head 20 4) s

/-- The offset and the length of the results array of a Batch Record (R212, R214). -/
def resultsArea (b : List Byte) : Nat × Nat := (fld b 36 4, fld b 40 4 - fld b 36 4)

/-- The Batch Record, or n bytes of it, is read over the slice memory port (R15, R477). -/
def readBatch (p : Nat) (l : Launch) (off n : Nat) (s : State) : State :=
  if l.batch = 0 then s else readTable p l { space := .fast, addr := l.batch + off } n s

/-- Bytes of results are written to the Batch Record over the slice memory port (R214, R477); none falls outside its results array. -/
def writeResults (p : Nat) (l : Launch) (b : List Byte) (ws : List (Nat × Byte)) (s : State) : State :=
  let a := resultsArea b
  ws.foldl (fun s w =>
    if w.1 < a.2 then portWrite (s.keyOf (some l.ctx)) (.slice p) { space := .fast, addr := l.batch + a.1 + w.1 } [w.2] s else s) s

/-- The unit actions of a bundle read the step's Batch Record and change the cores' storage and the record's results as the core
generation defines (R15, R148, R214); zero does nothing. -/
def unitActions (p : Nat) (l : Launch) (actions : List Byte) (cycle : Nat) (s : State) : State :=
  if allZero actions then s else
  let b := batchRecord l s
  let s := readBatch p l 0 b.length s
  let table := s.integ.latencyTableId
  (l.benches.map (fun b => (List.range 8).map (fun c => (b, c)))).flatten.foldl (fun s bc =>
    let base := scratchAddr bc.1 bc.2 0
    let old := (s.mem.scratch.filter (fun c => decide (base ≤ c.1 ∧ c.1 < base + coreBytes))).map (fun c => (c.1 - base, c.2))
    let ws := Config.coreWrites table actions bc.2 cycle b old
    writeResults p l b (Config.resultWrites table actions bc.2 cycle b old)
      { s with mem := { s.mem with scratch := ws.foldl (fun m w => cellPut m (base + w.1 % coreBytes) w.2) s.mem.scratch } }) s

/-- The lines of the first 16 KiB of text that the cache lacks are fetched (R168). -/
def prefetchText (p : Nat) (l : Launch) (s : State) : State :=
  (linesOf 0 (min 16384 (imTextLen (launchImage l s)))).foldl (fun s o =>
    if (sliceAt p s).lines.contains (lineOf l o) then s else readText p l o (s.modSlice p (touchLine (lineOf l o)))) s

/-- Alarms whose cycle a bundle issues at are reported; NEXT_PREFETCH loads the first 16 KiB of text (R168). The spec says that
S1 and above drop NEXT_PREFETCH alarms and not what becomes of one placed below S1 that fires later: here its load is dropped,
and its report is sent (log 102). -/
def fireAlarms (p st : Nat) (l : Launch) (cycle : Nat) (s : State) : State :=
  let x := streamAt p st s
  let hit := x.alarms.filter (fun a => a.cycle == cycle)
  let s := hit.foldl (fun s a => alarmReport p st { id := a.id, late := false, unreached := false } s)
    (s.modStream p st (fun x => { x with alarms := x.alarms.filter (fun a => a.cycle != cycle) }))
  if hit.any (·.prefetch) && decide (s.power.level = 0) then prefetchText p l s else s

/-- The lines of a bundle are used (R166). -/
def useLines (p : Nat) (l : Launch) (pc n : Nat) (s : State) : State :=
  (linesOf pc n).foldl (fun s o => s.modSlice p (touchLine (lineOf l o))) s

/-- What every bundle does at its issue, END included: it counts a cycle, clears its flag, posts its side entry, and its unit
actions and alarms follow (R147, R151, R152, R168). -/
def issueCommon (p st : Nat) (l : Launch) (b : Ctl) (actions : List Byte) (s : State) : State :=
  let x := streamAt p st s
  let s := (useLines p l x.pc b.len s).modStream p st (fun x =>
    { x with stallCause := 0, stallFlag := 0, cycle := (x.cycle + 1) % 2 ^ 32, ran := x.ran + 1,
             flags := if b.clear then x.flags &&& ~~~(1#64 <<< b.wait) else x.flags, progress := (x.progress + 1) % 2 ^ 32, advanced := s.now,
             engines := if b.engine = 0 then x.engines else x.engines.modify (b.engine - 1) (fun g =>
               { g with queue := g.queue ++ [{ entry := b.entry, textOffset := x.pc, cycle := x.cycle }] }) })
  fireAlarms p st l x.cycle (unitActions p l actions x.cycle s)

/-- A bundle issues, and the stream goes on at another (R147). -/
def issueBundle (p st : Nat) (l : Launch) (b : Ctl) (actions : List Byte) (loops : List (Nat × Nat)) (pc : Nat) (s : State) : State :=
  (issueCommon p st l b actions s).modStream p st (fun x => { x with state := .running, loops := loops, pc := pc })

/-- The register a bundle reads while its value has not landed. -/
def Stream.hazards (x : Stream) (b : Ctl) : Option Nat := b.reads.filter (fun r => x.pend.toNat.testBit r)

/-- The bundle at the program counter, legal and ready. END drains the stream; another is checked against the scoreboard and
halts the stream on a hazard, or issues (R169, R172). Of a bundle with both kinds of hazard the spec does not say which the report
carries: here the scalar register's, core 0xFFFF (DESIGN CHOICE, log 123). -/
def bundleGo (p st : Nat) (hazard : Option (Nat × Nat)) (x : Stream) (l : Launch) (b : Ctl) (s : State) : State :=
  let img := launchImage l s
  if b.ctl = 4 then
    let s := s.modStream p st (fun x => { x with state := .draining, stallCause := 0 })
    if sideBusy x then stall p st 3 0 s else s
  else match hazard, x.hazards b with
  | _, some r => haltStream p st (some { faultHere x .hazard 0 x.pc with core := 0xFFFF, destClass := r }) s
  | some (c, d), none => haltStream p st (some { faultHere x .hazard 0 x.pc with core := c, destClass := d }) s
  | none, none =>
    match b.next x (imTextLen img) with
    | .error code => programError p st code s
    | .ok (loops, pc) => issueBundle p st l b (slice img (imTextOff img + x.pc + 8) (b.len - 8)) loops pc s

/-- The bundle at the program counter of an active stream: present, legal, and with no stall condition, in the order of R169. -/
def bundleRun (p st : Nat) (hazard : Option (Nat × Nat)) (x : Stream) (l : Launch) (s : State) : State :=
  let img := launchImage l s
  let n := imTextLen img
  if n ≤ x.pc then programError p st 3 s
  else if !(sliceAt p s).lines.contains (lineOf l x.pc) then stall p st 4 0 s
  else
    let b := Ctl.of (fld img (imTextOff img + x.pc) 8)
    if n < x.pc + b.len then programError p st 3 s
    else if !(linesOf x.pc b.len).all (fun o => (sliceAt p s).lines.contains (lineOf l o)) then stall p st 4 0 s
    else if !b.legal (imSides img) then programError p st 1 s
    else if b.wait ≠ 63 ∧ x.flags.toNat.testBit b.wait = false then stall p st 1 b.wait s
    else if b.engine ≠ 0 ∧ Config.sideDepth b.engine ≤ sideDepthOf x b.engine then stall p st 2 b.engine s
    else bundleGo p st hazard x l b s

/-- A stream's head bundle (R169, R172): it stalls, halts or issues; an END at the head drains, and issues with STREAM_DRAIN_DONE unless
it halts here. hazard: the core and destination class of a pending read that a core reports. -/
def bundleIssue (p st : Nat) (hazard : Option (Nat × Nat)) (s : State) : State :=
  let x := streamAt p st s
  match x.launch with
  | none => s
  | some l =>
    match x.state with
    | .draining =>
      if sideBusy x then stall p st 3 0 s
      else match hazard with
        | some (c, d) => haltStream p st (some { faultHere x .hazard 0 x.pc with core := c, destClass := d }) s
        | none => s
    | .loading | .running | .stalled => bundleRun p st hazard x l s
    | _ => s

def execBundleIssue (p st : Nat) (hazard : Option (Nat × Nat)) (s : State) : Out := .next (bundleIssue p st hazard s)

/-! ### Step ends (R176) -/

/-- END issues once the side queues are empty (R140, R169): alarms not reached are reported, and the step-end report is sent. A core
that finds a pending destination at END halts the stream instead, by BUNDLE_ISSUE (R172). -/
def streamDrainDone (p st : Nat) (s : State) : State :=
  let x := streamAt p st s
  match x.launch with
  | none => s
  | some l =>
    if x.state = .draining ∧ sideBusy x = false then
      let img := launchImage l s
      let b := Ctl.of (fld img (imTextOff img + x.pc) 8)
      let s := issueCommon p st l b (slice img (imTextOff img + x.pc + 8) (b.len - 8)) s
      let left := (streamAt p st s).alarms
      let s := s.modStream p st (fun x => { x with state := .idle, confirmed := true, alarms := [] })
      let s := left.foldl (fun s a => alarmReport p st { id := a.id, late := false, unreached := true } s) s
      settleStops (emit (.report p st) (slipEvent p st s))
    else s

def execStreamDrainDone (p st : Nat) (s : State) : Out := .next (streamDrainDone p st s)

/-- A loop's step has ended (R176, R216). -/
def stepEnded (l : Nat) (r : Nat) (s : State) : State :=
  match loopAt l s with
  | none => s
  | some lp =>
    let late := decide (lp.params.deadlineUs ≠ 0 ∧ 1 < lp.step ∧ lp.params.deadlineUs * Config.us < s.now - lp.endedAt)
    let s := s.modLoop l (fun lp =>
      { lp with phase := .ended, endedAt := s.now,
                stats := { lp.stats with deadlineMisses := if late then lp.stats.deadlineMisses + 1 else lp.stats.deadlineMisses } })
    trace 7 lp.tag lp.ctx 0 lp.step (s.modRes r (fun x => { x with running := false }))

/-- A graph's run has ended: its residency runs nothing and is ready or blocked from now (R264), and the command takes its latch
(R176). A residency that has become blocked gives a decision pass (R276). -/
def runEnded (k pos r : Nat) (s : State) : State :=
  let s := settleStops (finishOk k pos (settleReady (s.modRes r (fun x => { x with running := false }))))
  if ((tget s.sched.residencies r).map (fun x => x.blockedAt.isSome)).getD false then decisionPass s else s

/-- A report that fails its CRC (R375): the slice sends it again; three without a good one order a compute reset where no launch is on its
way (R378). -/
def badReport (p st : Nat) (l : Launch) (s : State) : State :=
  let n := (sliceAt p s).badCrc + 1
  let s := hutchRec 0x0D { ctxHead s l.ctx l.tag with part := p } (le 1 p ++ le 1 st ++ le 1 4 ++ le 1 (min 3 n) ++ zeros 28) s
  let s := emit (.report p st) (s.modSlice p (fun y => { y with badCrc := n }))
  let inFlight := (sliceAt p s).streams.any (fun y => y.launch.isSome &&
    (match y.state with | .idle => !y.confirmed | .loading => true | _ => false))
  if 3 ≤ n ∧ inFlight = false then machineCheck 6 p 0 s else s

/-- A halted stream has a report on its way to the hub: its stop's confirmation, or its fault report (R173). -/
def Stream.reporting (x : Stream) : Bool :=
  (x.state == .halted) && x.engines.all (fun g => !g.runs) && (!x.confirmed || x.fault.isSome)

/-- The hub takes a step-end report (R176, R375); the run or step ends with the last of them. An entry that END posted runs on in
the idle stream (R151): the report is taken once its writes are acknowledged (log 103). With crcOk false it is any report of the
stream that has failed its CRC: of a halted one the fault report or the confirmation of its stop, which HAZARD_REPORT and STOP_CONFIRM
take once the slice has sent it again (R375, R475; log 124). -/
def stepEndReport (p st : Nat) (crcOk : Bool) (s : State) : State :=
  let x := streamAt p st s
  match x.launch with
  | none => s
  | some l =>
    match x.state with
    | .idle =>
      if !x.confirmed || sideBusy x then s
      else if !crcOk then badReport p st l s
      else
        let s := chargeStream p st (s.modSlice p (fun y => { y with badCrc := 0 }))
        let s := releaseStream p st s
        if (streamsOf (sameLaunch l) s).isEmpty then
          match l.cmd, l.loopId with
          | some (k, pos), _ => runEnded k pos l.res s
          | none, some i => stepEnded i l.res s
          | none, none => s
        else s
    | .halted => if !crcOk && x.reporting then badReport p st l s else s
    | _ => s

def execStepEndReport (p st : Nat) (crcOk : Bool) (s : State) : Out := .next (stepEndReport p st crcOk s)

end Sys2Proof.Machine
end

