-- ==== Sys2Proof/Machine/Sides.lean ====
section
/-! DEFINITION. The side engines of a stream (R150 to R154): LOAD, STORE, GATHER, SCATTER (R233 to R235), SEND, RECV
(R486), REDUCE, SETREG. -/

namespace Sys2Proof.Machine

/-- A side command (R153). -/
structure SideCmd where
  op : Nat
  flags : Nat
  flag : Nat
  slot : Nat
  length : Nat
  offset : Nat
  core : Nat
  addr : Nat
  aux1 : Nat
  aux2 : Nat
  deriving DecidableEq, Repr

def SideCmd.of (b : List Byte) : SideCmd :=
  { op := fld b 0 1, flags := fld b 1 1, flag := fld b 2 1, slot := fld b 3 1, length := fld b 4 4, offset := fld b 8 8,
    core := bits (fld b 16 4) 31 20, addr := bits (fld b 16 4) 19 0, aux1 := fld b 20 4, aux2 := fld b 24 8 }

/-- The last command of its entry. -/
def SideCmd.last (c : SideCmd) : Bool := bit c.flags 0

/-- The flag the command sets (R151). -/
def SideCmd.sets (c : SideCmd) : Option Nat := if bit c.flags 1 then some c.flag else none

/-- The op is allowed for the engine, and flags and flag are legal (R150, R153). -/
def SideCmd.legal (c : SideCmd) (eng : Nat) : Bool :=
  decide (1 ≤ c.op ∧ (c.op + 1) / 2 = eng ∧ c.flags < 4) && (match c.sets with | some f => decide (f ≤ 62) | none => true)

/-- What a side command does when its engine takes it: it acts, its stream halts with a fault (mismatch: code 0x08,
with the data discarded), it waits, or it does not begin. -/
inductive SideAct where
  | done (s : State)
  | mismatch (s : State)
  | stop (status : Status) (code address : Nat)
  | wait
  | hold

/-- An engine of a stream. -/
def engineAt (x : Stream) (eng : Nat) : SideEngine := (x.engines[eng - 1]?).getD SideEngine.reset

/-- Where an engine's next command lies in the side section (R151). -/
def SideEngine.place (g : SideEngine) (img : List Byte) : Option (Posted × Nat) :=
  g.queue.head?.map (fun h => (h, g.pc.getD (sideEntry img h.entry)))

def State.modEngine (s : State) (p st eng : Nat) (f : SideEngine → SideEngine) : State :=
  s.modStream p st (fun x => { x with engines := x.engines.modify (eng - 1) f })

/-- An engine may take its next command: its stream runs, or END has issued and left it an entry (R151); in a halted stream only a
command that had begun goes on (R173). -/
def mayTake (x : Stream) (g : SideEngine) : Bool :=
  x.active || ((x.state == .idle) && x.confirmed) || ((x.state == .halted) && g.waiting)

/-- A fault of a side command halts its stream, and the engine runs nothing more (R149, R153, R154). -/
def sideFault (p st eng : Nat) (h : Posted) (status : Status) (code address : Nat) (s : State) : State :=
  haltStream p st (some { status := status, code := code, cycle := h.cycle, textOffset := h.textOffset, core := 0,
                          destClass := 0, address := address }) (s.modEngine p st eng (fun _ => SideEngine.reset))

/-- An engine takes its next command, where that command's op is the one given (R151). -/
def takeSide (p st eng op : Nat) (act : Launch → SideCmd → State → SideAct) (s : State) : State :=
  let x := streamAt p st s
  let g := engineAt x eng
  match x.launch with
  | none => s
  | some l =>
    let img := launchImage l s
    match g.place img with
    | none => s
    | some (h, pc) =>
      if g.busy || !mayTake x g then s
      else if imSideLen img < pc + 32 then sideFault p st eng h .engineFault 4 0 s
      else
        let c := SideCmd.of (slice img (imSideOff img + pc) 32)
        let r := if g.waiting then s else readTable p l (storeLoc l (imSideOff img + pc) s) 32 s
        if !c.legal eng then sideFault p st eng h .engineFault 4 0 r
        else if c.op ≠ op then s
        else match act l c r with
        | .done s => s.modEngine p st eng (fun g => { g with pc := some pc, busy := true, waiting := false, landed := 0 })
        | .stop status code address => sideFault p st eng h status code address r
        | .mismatch s => sideFault p st eng h .engineFault 8 0 s
        | .wait => r.modEngine p st eng (fun g => { g with pc := some pc, waiting := true })
        | .hold => s

/-- A scratch range of n bytes is legal (R153). -/
def scratchOk (l : Launch) (c : SideCmd) (n : Nat) : Bool :=
  decide (c.core < 8 * l.benches.length ∧ c.addr + n ≤ Config.scratchBytes)

/-- The address of a command's scratch range. -/
def scratchOf (l : Launch) (c : SideCmd) : Nat := scratchAddr ((l.benches[c.core / 8]?).getD 0) (c.core % 8) c.addr

/-- Bytes written to scratch storage. -/
def scratchWrite (a : Nat) (bs : List Byte) (s : State) : State :=
  { s with mem := { s.mem with scratch := writeN s.mem.scratch a bs } }

/-! ### LOAD and STORE (R154, R252) -/

/-- The object bound to a command's slot. -/
def sideArg (l : Launch) (c : SideCmd) : Option ArgBind := (l.args[c.slot]?).join

/-- The fault address of a refused access (R154). -/
def refusedAddr (l : Launch) (c : SideCmd) : Nat :=
  match sideArg l c with
  | some a => a.mem.devVa + a.byteOffset + c.offset
  | none => c.offset

/-- The resident model of a loop step whose source object is bound to the command's slot (R252). -/
def hotModel (l : Launch) (a : ArgBind) (s : State) : Option Model :=
  (l.loopId.bind (fun i => tget s.trestle.loops i)).bind (fun lp =>
    (s.wrd.models.find? (fun e => (e.2.tenant == lp.tenant) && (e.2.key == lp.params.modelKey) && (e.2.state == .resident) &&
      (e.2.srcKey == a.memKey))).map (·.2))

/-- Bytes of a model's hot copy. -/
def hotBytes (m : Model) (off n : Nat) (s : State) : List Byte :=
  let p := pageBytes s
  (List.range n).map (fun i =>
    let l := (frameLoc ((m.frames[(off + i) / p]?).getD 0) s).plus ((off + i) % p)
    cellGet (s.mem.of l.space) l.addr)

/-- The parts of a byte range of a hot copy, one a frame: frame, offset in it, length. -/
def hotParts (m : Model) (off n : Nat) (s : State) : List (Nat × Nat × Nat) :=
  let p := pageBytes s
  if n = 0 then [] else
  (List.range ((off + n - 1) / p - off / p + 1)).map (fun i =>
    let a := max off ((off / p + i) * p)
    let b := min (off + n) ((off / p + i + 1) * p)
    ((m.frames[off / p + i]?).getD 0, a % p, b - a))

/-- A hot copy is read over the slice memory port and charged (R25, R328, R477). -/
def readHot (p c : Nat) (m : Model) (off n : Nat) (s : State) : State :=
  (hotParts m off n s).foldl (fun s e => readBy (.slice p) (some c) ((frameLoc e.1 s).plus e.2.1) e.2.2 s) s

/-- The access of a LOAD or STORE passes the checks of R154. -/
def sideAccess (l : Launch) (c : SideCmd) (right : MemObj → Bool) : Option ArgBind :=
  (sideArg l c).filter (fun a => right a.mem && decide (a.byteOffset + c.offset + c.length ≤ a.mem.size))

/-- LOAD (R153, R154): bytes of the argument, or of the hot copy (R252), go to scratch. A move or zeroing of a frame of the hot copy
holds it (R231, R249), and so does a partition in reset whose channels it reads (R362). One of host memory whose function's accesses
have stopped does not begin (R470). -/
def loadAct (p : Nat) (l : Launch) (c : SideCmd) (s : State) : SideAct :=
  if !scratchOk l c c.length then .stop .engineFault 4 0 else
  match sideAccess l c (·.read) with
  | none => .stop .access 0 (refusedAddr l c)
  | some a =>
    let off := a.byteOffset + c.offset
    match (hotModel l a s).filter (fun m => decide (m.srcOffset ≤ off ∧ off + c.length ≤ m.srcOffset + m.length)) with
    | some m =>
      if (hotParts m (off - m.srcOffset) c.length s).any (fun e => inFlight e.1 s || frameHeld e.1 s) then .wait
      else .done (readHot p l.ctx m (off - m.srcOffset) c.length
        (scratchWrite (scratchOf l c) (hotBytes m (off - m.srcOffset) c.length s) s))
    | none =>
      if hostStopped (a.mem.at_ off) s then .hold
      else if rangeHeld (a.mem.at_ off) c.length s then .wait
      else .done (readBy (.slice p) (some l.ctx) (a.mem.at_ off) c.length
        (scratchWrite (scratchOf l c) (memRead (a.mem.at_ off) c.length s) s))

def execLoad (p st : Nat) (s : State) : Out := .next (takeSide p st 1 1 (loadAct p) s)

/-- STORE (R153, R154): scratch goes to the argument; the source range of a resident model is refused (R252). -/
def storeAct (p : Nat) (l : Launch) (c : SideCmd) (s : State) : SideAct :=
  if !scratchOk l c c.length then .stop .engineFault 4 0 else
  match sideAccess l c (·.write) with
  | none => .stop .access 0 (refusedAddr l c)
  | some a =>
    let off := a.byteOffset + c.offset
    match (hotModel l a s).filter (fun m => decide (off < m.srcOffset + m.length ∧ m.srcOffset < off + c.length)) with
    | some _ => .stop .access 0 (refusedAddr l c)
    | none =>
      if rangeHeld (a.mem.at_ off) c.length s then .wait
      else .done (writeBy (.slice p) (some l.ctx) (a.mem.at_ off) (readN s.mem.scratch (scratchOf l c) c.length) s)

def execStore (p st : Nat) (s : State) : Out := .next (takeSide p st 2 3 (storeAct p) s)

/-! ### GATHER and SCATTER (R233 to R236) -/

/-- What a GATHER or SCATTER finds in the step's Batch Record (R212, R213, R233): the sequence of an entry, and the page limit
ceil((kv_tokens + step_tokens) / tokens_per_page) of R235; none at or above seq_count. -/
def recordEntry (l : Launch) (i : Nat) (s : State) : Option (Nat × Nat) :=
  let rd := batchRecord l s
  let e := slice rd (fld rd 32 4 + 64 * i) 64
  if i < fld rd 16 4 then some (fld e 0 4 % 2 ^ 18, ceilDiv (fld e 8 4 + fld e 12 4) (fld rd 24 4)) else none

/-- The entry and sequence a GATHER or SCATTER names, its pages, and the entry's page limit (R233, R235); none where the
fields are misused. perPage is what each page takes in scratch. -/
def pagesNamed (l : Launch) (c : SideCmd) (perPage : Nat) (s : State) :
    Option (Nat × Seq × List (Nat × LeafEntry) × Nat) :=
  match recordEntry l (c.aux1 % 4096) s with
  | none => none
  | some (i, limit) =>
    match tget s.trestle.seqs i with
    | none => none
    | some q =>
      let first := bits c.aux2 31 0
      let count := bits c.aux2 63 32
      let ps := pagesOf q s
      if c.slot = 0 ∧ c.aux1 < 4096 ∧ 1 ≤ c.length ∧ c.offset + c.length ≤ pageBytes s / 64 ∧ 1 ≤ count ∧
          first + count ≤ ps.length ∧ scratchOk l c (count * perPage) = true
      then some (i, q, ((ps.drop first).take count).zipIdx.map (fun x => (first + x.2, x.1)), limit)
      else none

/-- Wardrobe reports a sequence that reached a lost page (R250): reason 6, or 7 where the page was uncorrectable. -/
def reportLost (i f : Nat) (s : State) : State :=
  s.modSeq i (fun q =>
    match q.verdict with
    | some _ => q
    | none => { q with verdict := some (if q.lostPage = some f then 7 else 6, 0xFF) })

/-- The bytes of the selected blocks of a stored page: codes, then metadata (R234, R237, log 16). -/
def blockData (f fmt off n : Nat) (s : State) : List Byte :=
  let l := frameLoc f s
  memRead (l.plus (off * codeBytes fmt)) (n * codeBytes fmt) s ++
  memRead (l.plus (pageBytes s / 64 * codeBytes fmt + off * metaBytes fmt)) (n * metaBytes fmt) s

/-- The record of one page (R234). -/
def gatherPage (p : Nat) (l : Launch) (c : SideCmd) (i : Nat) (e : LeafEntry) (a : Nat) (s : State) : State :=
  let header (fmt n : Nat) : List Byte := le 4 fmt ++ le 4 n ++ zeros 8
  if e.lost then
    reportLost i e.frame (scratchWrite a (header 7 (64 * c.length) ++ zeros (64 * c.length)) s)
  else
    let x := frameAt e.frame s
    let d := blockData e.frame x.format c.offset c.length s
    let s := setFrame e.frame { x with accessed := true } s
    readBy (.slice p) (some l.ctx) ((frameLoc e.frame s).plus (c.offset * codeBytes x.format)) d.length
      (scratchWrite a (header x.format d.length ++ d) s)

/-- The requests with which a GATHER or SCATTER reads its step's Batch Record: the header and its entry (R233, R477). -/
def readRecord (p : Nat) (l : Launch) (c : SideCmd) (s : State) : State :=
  readBatch p l (256 + 64 * (c.aux1 % 4096)) 64 (readBatch p l 0 256 s)

/-- GATHER (R234): held while a page's move, copy or zeroing is in flight (R236), or its partition is in reset (R362). -/
def gatherAct (p : Nat) (l : Launch) (c : SideCmd) (s : State) : SideAct :=
  let per := 16 + 64 * c.length
  match pagesNamed l c per s with
  | none => .stop .engineFault 5 0
  | some (i, _, ps, _) =>
    if ps.any (fun e => !e.2.lost && (inFlight e.2.frame s || frameHeld e.2.frame s)) then .wait
    else .done (ps.zipIdx.foldl (fun s e => gatherPage p l c i e.1.2 (scratchOf l c + e.2 * per) s) (readRecord p l c s))

def execGather (p st : Nat) (s : State) : Out := .next (takeSide p st 1 2 (gatherAct p) s)

/-- A page may be scattered to (R235). -/
def scatterable (limit : Nat) (e : Nat × LeafEntry) (s : State) : Bool :=
  let x := frameAt e.2.frame s
  isFast e.2.frame s && (x.format == 0) && (x.holders == 1) && decide (e.1 < limit)

/-- SCATTER (R235): native bytes go to the selected blocks; those of a lost page are discarded. -/
def scatterAct (p : Nat) (l : Launch) (c : SideCmd) (s : State) : SideAct :=
  let per := 64 * c.length
  match pagesNamed l c per s with
  | none => .stop .engineFault 5 0
  | some (i, _, ps, limit) =>
    if ps.any (fun e => !e.2.lost && (inFlight e.2.frame s || frameHeld e.2.frame s)) then .wait
    else if ps.any (fun e => !e.2.lost && !scatterable limit e s) then .stop .engineFault 5 0
    else .done (ps.zipIdx.foldl (fun s e =>
      if e.1.2.lost then reportLost i e.1.2.frame s
      else writeBy (.slice p) (some l.ctx) ((frameLoc e.1.2.frame s).plus (64 * c.offset))
        (readN s.mem.scratch (scratchOf l c + e.2 * per) per) s) (readRecord p l c s))

def execScatter (p st : Nat) (s : State) : Out := .next (takeSide p st 2 4 (scatterAct p) s)

/-- Where a LOAD, STORE, GATHER or SCATTER reads and writes outside scratch storage: locations and bytes. -/
def sidePlaces (l : Launch) (c : SideCmd) (s : State) : List (Loc × Nat) :=
  if c.op = 1 ∨ c.op = 3 then
    match sideArg l c with
    | none => []
    | some a =>
      let off := a.byteOffset + c.offset
      match (hotModel l a s).filter (fun m => decide (c.op = 1 ∧ m.srcOffset ≤ off ∧ off + c.length ≤ m.srcOffset + m.length)) with
      | some m => (hotParts m (off - m.srcOffset) c.length s).map (fun e => ((frameLoc e.1 s).plus e.2.1, e.2.2))
      | none => [(a.mem.at_ off, c.length)]
  else if c.op = 2 ∨ c.op = 4 then
    match pagesNamed l c 0 s with
    | some (_, _, ps, _) => ps.map (fun e => (frameLoc e.2.frame s, pageBytes s))
    | none => []
  else []

/-! ### SEND and RECV (R486) -/

/-- The fields of aux2 that must be zero are zero, and so is slot (R153, R486). -/
def peerOk (c : SideCmd) : Bool := decide (c.slot = 0) && !bit c.aux2 15 && decide (c.aux2 < 2 ^ 40)

/-- SEND (R486): bytes go out on the links to the peer, with this chip's coordinates (R465), partition and stream. -/
def sendAct (p st : Nat) (l : Launch) (c : SideCmd) (s : State) : SideAct :=
  if !scratchOk l c c.length || !peerOk c then .stop .engineFault 4 0 else
  let a := c.aux2
  .done (charge (some l.ctx) 3 c.length
    (emit (.peerData (bits a 4 0) (bits a 9 5) (bits a 14 10) (bits a 21 16) (bits a 23 22) (bits a 39 24)
      (s.port.straps.1, s.port.straps.2.1, s.port.straps.2.2.1, p, st)
      (readN s.mem.scratch (scratchOf l c) c.length)) s))

def execSend (p st : Nat) (s : State) : Out := .next (takeSide p st 3 5 (sendAct p st) s)

/-- RECV (R486): data that the peer has sent goes to scratch; data of another length is discarded and counted. -/
def recvAct (p st : Nat) (l : Launch) (c : SideCmd) (s : State) : SideAct :=
  if !scratchOk l c c.length || !peerOk c then .stop .engineFault 4 0 else
  let mine (e : Nat × Nat × Nat × Nat × List Byte) : Bool :=
    e.1 == p && e.2.1 == st && e.2.2.1 == bits c.aux2 23 0 && e.2.2.2.1 == bits c.aux2 39 24
  match s.link.inbox.find? mine with
  | none => .wait
  | some e =>
    let s := { s with link := { s.link with inbox := s.link.inbox.eraseP mine } }
    if e.2.2.2.2.length ≠ c.length then .mismatch { s with link := { s.link with discarded := satInc 32 s.link.discarded } }
    else .done (scratchWrite (scratchOf l c) e.2.2.2.2 s)

def execRecv (p st : Nat) (s : State) : Out := .next (takeSide p st 3 6 (recvAct p st) s)

/-- The stream of this chip that a peer's name means (R486). -/
def ownPeer (peer : Nat) (s : State) : Option (Nat × Nat) :=
  let a := s.port.straps
  if bits peer 4 0 = a.1 ∧ bits peer 9 5 = a.2.1 ∧ bits peer 14 10 = a.2.2.1 then some (bits peer 21 16, bits peer 23 22) else none

/-- Data for a stream that runs a launch come from another launch. The message names none: where the sender is a stream of this chip
that runs a launch, it is that one (log 125). -/
def otherLaunch (l : Launch) (peer : Nat) (s : State) : Bool :=
  match (ownPeer peer s).bind (fun e => (streamAt e.1 e.2 s).launch) with
  | some y => !sameLaunch l y
  | none => false

/-- A stream takes collective data: its step is under way, or it is halted and the RECV it had begun waits for them (R173, R486). -/
def Stream.takesData (x : Stream) : Bool :=
  x.active || (x.state == .idle && !x.confirmed) || ((x.state == .halted) && (engineAt x 3).waiting)

/-- Collective data arrives for a stream (R486): it waits for its RECV, or is discarded and counted where no step of the same launch
runs there. -/
def collectiveData (p st peer chan : Nat) (data : List Byte) (s : State) : State :=
  let x := streamAt p st s
  match x.launch with
  | some l =>
    if x.takesData && !otherLaunch l peer s then
      charge (some l.ctx) 3 data.length
        { s with link := { s.link with inbox := s.link.inbox ++ [(p, st, peer % 2 ^ 24, chan % 2 ^ 16, data)] } }
    else { s with link := { s.link with discarded := satInc 32 s.link.discarded } }
  | none => { s with link := { s.link with discarded := satInc 32 s.link.discarded } }

def execCollectiveData (p st peer chan : Nat) (data : List Byte) (s : State) : Out :=
  .next (collectiveData p st peer chan data s)

/-! ### REDUCE and SETREG (R153) -/

/-- The INT32 elements of a run of bytes. -/
def int32s (bs : List Byte) : List Int := (List.range (bs.length / 4)).map (fun i => (BitVec.ofNat 32 (fld bs (4 * i) 4)).toInt)

/-- The INT32 result of a reduction (R153). A sum outside INT32 is a free value (log 21). -/
def reduction (kind : Nat) (xs : List Int) : BitVec 32 :=
  if kind = 0 then
    let t := xs.foldl (· + ·) 0
    if -(2 ^ 31) ≤ t ∧ t < 2 ^ 31 then BitVec.ofInt 32 t else Config.reduceSum xs
  else if kind = 1 then BitVec.ofInt 32 (xs.foldl max (-(2 ^ 31)))
  else if kind = 2 then BitVec.ofInt 32 (xs.foldl min (2 ^ 31 - 1))
  else if xs.any (fun x => x != 0) then 1 else 0

/-- The scalar unit holds a write of a register that has not landed: a read of it is a hazard. R172 sets the pending bit at the
issue of the writing action; here that is when the unit takes the REDUCE or SETREG, not when a bundle posts its entry (log
104). -/
def writeReg (p st r : Nat) (v : W64) (s : State) : State :=
  s.modStream p st (fun x => { x with regs := x.regs.set r v, pend := x.pend ||| (1#32 <<< r) })

/-- REDUCE (R153). -/
def reduceAct (p st : Nat) (l : Launch) (c : SideCmd) (s : State) : SideAct :=
  if !scratchOk l c c.length || decide (c.length % 4 ≠ 0 ∨ 3 < c.aux1 ∨ 31 < c.slot) then .stop .engineFault 4 0
  else .done (writeReg p st c.slot ((reduction c.aux1 (int32s (readN s.mem.scratch (scratchOf l c) c.length))).signExtend 64) s)

def execReduce (p st : Nat) (s : State) : Out := .next (takeSide p st 4 7 (reduceAct p st) s)

/-- SETREG (R153). -/
def setregAct (p st : Nat) (_ : Launch) (c : SideCmd) (s : State) : SideAct :=
  if 31 < c.slot then .stop .engineFault 4 0 else .done (writeReg p st c.slot (BitVec.ofNat 64 c.aux2) s)

def execSetreg (p st : Nat) (s : State) : Out := .next (takeSide p st 4 8 (setregAct p st) s)

/-! ### Landing (R151) -/

/-- Bytes a command lands. -/
def SideCmd.bytes (c : SideCmd) : Nat :=
  if c.op = 2 then bits c.aux2 63 32 * (16 + 64 * c.length) else if c.op = 4 then bits c.aux2 63 32 * (64 * c.length)
  else if c.op ≤ 6 then c.length else 0

/-- The 4 KiB pieces of a command (R352). -/
def SideCmd.pieces (c : SideCmd) : Nat := c.bytes / 4096

/-- The engine after its command (R151): the next command of the entry, the next entry, or nothing where its stream has halted
(R173). -/
def SideEngine.after (g : SideEngine) (c : SideCmd) (pc : Nat) (halted : Bool) : SideEngine :=
  if halted then SideEngine.reset
  else if c.last then { SideEngine.reset with queue := g.queue.tail }
  else { SideEngine.reset with queue := g.queue, pc := some (pc + 32) }

/-- The side command an engine runs, with its place in the side section. -/
def runningSide (g : SideEngine) (l : Launch) (s : State) : Option (SideCmd × Nat) :=
  let img := launchImage l s
  if g.busy then (g.place img).map (fun h => (SideCmd.of (slice img (imSideOff img + h.2) 32), h.2)) else none

/-- A 4 KiB piece of a side command has landed, and counts as progress (R171, R352). -/
def sidePieceLanded (p st eng : Nat) (s : State) : State :=
  let x := streamAt p st s
  let g := engineAt x eng
  match x.launch.bind (fun l => runningSide g l s) with
  | none => s
  | some (c, _) =>
    if g.landed < c.pieces then
      (s.modEngine p st eng (fun g => { g with landed := g.landed + 1 })).modStream p st (fun x =>
        { x with progress := (x.progress + 1) % 2 ^ 32, advanced := s.now })
    else s

/-- Every write of a side command has landed: its flag is set and the engine goes on (R151). Progress counts the command and the
pieces not counted yet (R171, R352). -/
def sideCommandLanded (p st eng : Nat) (s : State) : State :=
  let x := streamAt p st s
  let g := engineAt x eng
  match x.launch.bind (fun l => runningSide g l s) with
  | none => s
  | some (c, pc) =>
    s.modStream p st (fun x =>
      { x with engines := x.engines.set (eng - 1) (g.after c pc (x.state == .halted)),
               progress := (x.progress + 1 + (c.pieces - g.landed)) % 2 ^ 32, advanced := s.now,
               flags := match c.sets with | some f => x.flags ||| (1#64 <<< f) | none => x.flags,
               pend := if eng = 4 then x.pend &&& ~~~(1#32 <<< c.slot) else x.pend })

def execSideCommandLanded (p st : Nat) (what : SideLanding) (s : State) : Out :=
  .next (match what with
    | .piece eng => sidePieceLanded p st eng s
    | .whole eng => sideCommandLanded p st eng s)

end Sys2Proof.Machine
end

