-- ==== Sys2Proof/Machine/Admin.lean ====
section
/-! DEFINITION. Tenants and contexts: ACTIVATE and RETIRE (R30 to R36), the end of a teardown (R37), seal keys (R161 to
R164). -/

namespace Sys2Proof.Machine

/-- The result of a HUB_OBJ_CMD with its id (R32). -/
def objResult (r id : Nat) (s : State) : State :=
  { s with hub := { s.hub with objBusy := false, objResult := r, objLast := id } }

/-! ### Tenants (R34) -/

/-- Two byte ranges of a tier overlap. -/
def overlaps (a n b m : Nat) : Bool := decide (0 < n ∧ 0 < m ∧ a < b + m ∧ b < a + n)

/-- A frame of Wardrobe's pool in [lo, hi) is in a state other than FREE, RESERVED for another range that covers part of it
included (R220). A frame that a move still reads, though it is counted free, is held too (R26: an arena never covers a frame that
another holder uses; log 105). -/
def poolUsed (r : Nat × Nat) (s : State) : Bool :=
  s.wrd.frames.any (fun e => decide (r.1 ≤ e.1 ∧ e.1 < r.2) && (e.2.state != .free)) ||
  (reservedRanges s).any (fun a => decide (max a.1 r.1 < min a.2 r.2)) ||
  s.allJobs.any (fun j => !j.kind.zeroes && j.kind.frames.any (fun f => decide (r.1 ≤ f ∧ f < r.2))) ||
  s.wrd.outUnits.any (fun u => (framesOfUnits u.1 [u.2] s).any (fun f => decide (r.1 ≤ f ∧ f < r.2)))

/-- Frames that an arena covers. -/
def arenaFrames (t : TenantRec) (s : State) : List (Nat × Nat) :=
  [frameRange .fast t.fastBase t.fastSize s, frameRange .slow t.slowBase t.slowSize s]

/-- An arena of the record overlaps what R34 names. -/
def arenaOverlaps (t : TenantRec) (s : State) : Bool :=
  overlaps t.fastBase t.fastSize s.wrd.hkBase Config.gib ||
  (s.watch.spillValid && overlaps t.slowBase t.slowSize s.watch.spillBase Config.gib) ||
  s.tenants.any (fun e => overlaps t.fastBase t.fastSize e.2.rcd.fastBase e.2.rcd.fastSize ||
    overlaps t.slowBase t.slowSize e.2.rcd.slowBase e.2.rcd.slowSize) ||
  (arenaFrames t s).any (fun r => poolUsed r s)

/-- An arena lies inside the installed memory of its tier. -/
def arenasFit (t : TenantRec) (s : State) : Bool :=
  decide ((t.fastSize = 0 ∨ t.fastBase + t.fastSize ≤ s.wrd.fastGib * Config.gib) ∧
          (t.slowSize = 0 ∨ t.slowBase + t.slowSize ≤ s.wrd.slowGib * Config.gib))

/-- The lowest free slot offset of a sealed tenant (R294). -/
def freeOffset (s : State) : Option Nat :=
  (List.range (48 / max 1 s.sched.slotsPerTenant)).find? (fun o => s.tenants.all (fun e => e.2.slotOffset != some o))

/-- The frames of the arenas leave the pool (R26), and no zeroing of them goes on (log 105). -/
def takeArenas (t : TenantRec) (s : State) : State :=
  let mine (f : Nat) : Bool := (arenaFrames t s).any (fun r => decide (r.1 ≤ f ∧ f < r.2))
  { s with wrd := { s.wrd with
      frames := s.wrd.frames.filter (fun e => !mine e.1),
      movers := s.wrd.movers.map (fun m => { m with jobs := m.jobs.filter (fun j => !(j.kind.zeroes && j.kind.frames.any mine)) }) } }

/-- HUB_OBJ_CMD ACTIVATE of a tenant (R33, R34, R502). -/
def tenantActivate (id : Nat) (rd : HostRead) (s : State) : State :=
  if cmdOpen s.hub.objBusy s = false then cmdIgnored hubObjCmd s
  else if 1024 ≤ id then objResult 2 id s
  else if (tget s.tenants id).isSome ∨ s.wrd.enable = false ∨ s.hub.capsValid = false then objResult 3 id s
  else
  let s := readReq none .hub (pfLoc (s.hub.tntBase + id * 64)) 64 s
  match rd with
  | .ok b =>
    match parseTenant s.integ.slices b with
    | none => objResult 4 id s
    | some r =>
      if (r.isSealed && !bit s.hub.agreedCaps capSealed) || !arenasFit r s then objResult 4 id s
      else if arenaOverlaps r s then objResult 6 id s
      else if r.isSealed && (freeOffset s).isNone then objResult 5 id s
      else
        let t : Tenant := { rcd := r, slotOffset := if r.isSealed then freeOffset s else none }
        let s := takeArenas r s
        objResult 0 id (usageSend (.act id) { s with tenants := tset s.tenants id t })
  | _ => objResult 7 id s

def execTenantActivate (id : Nat) (rd : HostRead) (s : State) : Out := .next (tenantActivate id rd s)

/-- Models of a tenant that is retired go with it (log 22). -/
def dropTenantModels (t : Nat) (s : State) : State :=
  (s.wrd.models.filter (fun e => e.2.tenant == t)).foldl (fun s e => removeModel e.1 s) s

/-- HUB_OBJ_CMD RETIRE of a tenant (R34): what is aggregated for it is sent first (R327); its arenas return (R26). -/
def tenantRetire (id : Nat) (s : State) : State :=
  if cmdOpen s.hub.objBusy s = false then cmdIgnored hubObjCmd s
  else if 1024 ≤ id then objResult 2 id s
  else if (tget s.tenants id).isNone ∨ s.contexts.any (fun e => e.2.rcd.tenant == id) = true then objResult 3 id s
  else
    let s := [0, 1, 2, 3].foldl (fun s cls => flushBytes id cls s) (dropTenantModels id s)
    objResult 0 id (usageSend (.ret id) { s with tenants := tdel s.tenants id })

def execTenantRetire (id : Nat) (s : State) : Out := .next (tenantRetire id s)

/-! ### Contexts (R35) -/

/-- The tenant allows a service class (R24). -/
def TenantRec.allows (t : TenantRec) : Cls → Bool
  | .rt => t.allowRt
  | .int => t.allowInt
  | .bat => t.allowBat

/-- A context just activated. -/
def Context.fresh (r : CtxRec) (raw : List Byte) : Context :=
  { state := .active, rcd := r, raw := raw, teardownAt := 0, cause := none, wantRetire := false, ordered := [], escalated := false,
    launchAt := 0, saveFrames := [] }

/-- Activation would exceed a limit of R35. The spec does not say whether contexts in TEARDOWN or LOST count: every context that is
not FREE counts here (log 106). -/
def ctxLimit (r : CtxRec) (t : TenantRec) (s : State) : Bool :=
  decide (t.maxContexts ≤ s.contexts.countP (fun e => e.2.rcd.tenant == r.tenant)) ||
  decide (Config.maxQueues < s.contexts.foldl (fun a e => a + e.2.rcd.queueCount) 0 + r.queueCount) ||
  (r.swap && decide (Config.maxSwap ≤ s.contexts.countP (fun e => e.2.rcd.swap)))

/-- HUB_OBJ_CMD ACTIVATE of a context (R35, R502). Its figures of R61 start from zero. The tenant that check 1 names is the record's (R27). -/
def contextActivate (id : Nat) (rd : HostRead) (s : State) : State :=
  if cmdOpen s.hub.objBusy s = false then cmdIgnored hubObjCmd s
  else if (tget s.contexts (id % 16384)).isSome then objResult 3 (id % 16384) s
  else
    let id := id % 16384
    let s := readReq none .hub (pfLoc (s.hub.ctxBase + id * 64)) 64 s
    match rd with
    | .ok b =>
      let named := bits (fld b 2 2) 9 0
      match tget s.tenants named with
      | none => objResult 3 id s
      | some t =>
        match parseCtx b with
        | none => objResult 4 id s
        | some r =>
          if !t.rcd.allows r.cls then objResult 4 id s
          else if ctxLimit r t.rcd s then objResult 5 id s
          else objResult 0 id { s with contexts := tset s.contexts id (Context.fresh r b),
                                       hub := { s.hub with uses := tdel s.hub.uses id } }
    | _ => objResult 7 id s

def execContextActivate (id : Nat) (rd : HostRead) (s : State) : Out := .next (contextActivate id rd s)

/-- A context becomes FREE: its queues and counts go with it, but not the figures of R61. -/
def freeContext (c : Nat) (s : State) : State :=
  { s with contexts := tdel s.contexts c,
           front := { s.front with queues := s.front.queues.filter (fun e => e.1 / 256 != c),
                                   ctxDrops := tdel s.front.ctxDrops c, last := tdel s.front.last c },
           sched := { s.sched with passes := tdel s.sched.passes c } }

/-- HUB_OBJ_CMD RETIRE of a context (R35). -/
def contextRetire (id : Nat) (s : State) : State :=
  if cmdOpen s.hub.objBusy s = false then cmdIgnored hubObjCmd s
  else
    let id := id % 16384
    match tget s.contexts id with
    | none => objResult 3 id s
    | some x =>
      match x.state with
      | .teardown _ => objResult 3 id s
      | .lost => objResult 0 id (freeContext id s)
      | .active =>
        let s := { s with hub := { s.hub with objBusy := true, objLast := id },
                          contexts := tset s.contexts id { x with wantRetire := true } }
        beginTeardown id false (FaultInfo.of .aborted 3 s.now) none s

def execContextRetire (id : Nat) (s : State) : Out := .next (contextRetire id s)

/-! ### The end of a teardown (R37) -/

/-- Everything a teardown waits for has happened: every position retired and reported (R94, R96), every stream stopped
or ended, no mover at work for the context's commands. -/
def tearReady (c : Nat) (s : State) : Bool :=
  (ctxQueues c s).all (fun e => (e.2.state == .stopped) && e.2.unwritten.isEmpty) &&
  (streamsOf (fun l => l.ctx == c) s).all (fun e => (streamAt e.1 e.2 s).confirmed) &&
  s.allJobs.all (fun j => !j.kind.isCmd c)

/-- The streams of a context are released; a step that ended and was not reported is charged first. -/
def releaseStreams (c : Nat) (s : State) : State :=
  (streamsOf (fun l => l.ctx == c) s).foldl (fun s e =>
    let s := if (streamAt e.1 e.2 s).state = .idle then chargeStream e.1 e.2 s else s
    releaseStream e.1 e.2 s) s

/-- The save frames that a swap_mode context keeps go with its teardown (R260). -/
def dropKept (c : Nat) (s : State) : State :=
  match tget s.contexts c with
  | none => s
  | some x => freeFrames x.saveFrames { s with contexts := tset s.contexts c { x with saveFrames := [] } }

/-- The residencies of a context are released with their save frames, and its scratch zeroed (R37 step 5, R260, R283). -/
def releaseAllRes (c : Nat) (s : State) : State :=
  dropKept c ((s.sched.residencies.filter (fun e => e.2.ctx == c)).foldl (fun s e =>
    releaseRes e.1 (e.2.benches.foldl (fun s b => clearBench b s) (dropSave e.2 s))) s)

/-- Models that a context loaded lose it: each goes at once, or when it is no longer in use (R257). -/
def orphanModels (c : Nat) (s : State) : State :=
  reapModels { s with wrd := { s.wrd with models := tmapv s.wrd.models (fun _ m => { m with orphan := m.orphan || m.ctx == c }) } }

/-- Sequences, loops, objects, graph versions and models of a context go (R37 steps 3 and 4, R257). -/
def dropOwned (c : Nat) (s : State) : State :=
  let s := (s.trestle.seqs.filter (fun e => e.2.ctx == c)).foldl (fun s e => dropSeq e.1 s) s
  let s := (s.trestle.loops.filter (fun e => e.2.ctx == c)).foldl (fun s e => closeLoop e.1 s) (dropLeft c s)
  let s := (s.graphs.filter (fun e => e.1 / 2 ^ 20 == c)).foldl (fun s e => dropLines e.1 (fun _ => true) s) s
  orphanModels c { s with objects := s.objects.filter (fun e => e.1 / 2 ^ 20 != c), graphs := s.graphs.filter (fun e => e.1 / 2 ^ 20 != c) }

/-- The fault record is written to fault_record_addr (R358). -/
def writeFault (c : Nat) (x : Context) (s : State) : State :=
  match x.cause with
  | none => s
  | some i => hostWrite (some c) (ctxLoc x.rcd x.rcd.faultAddr) i.bytes s

/-- A teardown has done everything (R37): FREE after a driver teardown, LOST after a fault teardown. -/
def endTeardown (c : Nat) (x : Context) (fault : Bool) (s : State) : State :=
  let s := releaseAllRes c (releaseStreams c (dropOwned c s))
  let s := { s with sched := { s.sched with passes := tdel s.sched.passes c } }
  let s := if fault then writeFault c x s else s
  let x := tgetD s.contexts c x
  let s := if fault then { s with contexts := tset s.contexts c { x with state := .lost, wantRetire := false, ordered := [], escalated := false } }
    else freeContext c s
  let s := if x.wantRetire then objResult 0 s.hub.objLast s else s
  decisionPass (checkMapout (updateGvt s))

/-- A teardown ends (R37). -/
def teardownDone (c : Nat) (s : State) : State :=
  match tget s.contexts c with
  | none => s
  | some x =>
    match x.state with
    | .teardown fault => if tearReady c s then endTeardown c x fault s else s
    | _ => s

def execTeardownDone (c : Nat) (s : State) : Out := .next (teardownDone c s)

/-! ### Seal keys (R161 to R164) -/

def sealResult (r : Nat) (s : State) : State := { s with hub := { s.hub with sealResult := r } }

/-- HUB_SEAL_CMD LOAD (R163, R502). -/
def sealLoad (slot : Nat) (rd : HostRead) (s : State) : State :=
  if cmdOpen false s = false then cmdIgnored hubSealCmd s
  else
  let s := readReq none .hub (pfLoc s.hub.sealAddr) 128 s
  match rd with
  | .ok b =>
    match parseSealKey b with
    | none => sealResult 2 s
    | some k =>
      if s.hub.sealSlots.any (fun e => (e.1 != slot % 8) && (e.2.keyId == k.keyId)) then sealResult 3 s
      else sealResult 0 { s with hub := { s.hub with sealSlots := tset s.hub.sealSlots (slot % 8) k } }
  | _ => sealResult 4 s

def execSealLoad (slot : Nat) (rd : HostRead) (s : State) : Out := .next (sealLoad slot rd s)

/-- HUB_SEAL_CMD CLEAR (R161). -/
def sealClear (slot : Nat) (s : State) : State :=
  if cmdOpen false s = false then cmdIgnored hubSealCmd s
  else sealResult 0 { s with hub := { s.hub with sealSlots := tdel s.hub.sealSlots (slot % 8) } }

def execSealClear (slot : Nat) (s : State) : Out := .next (sealClear slot s)

end Sys2Proof.Machine
end

