-- ==== Sys2Proof/Machine/Chest.lean ====
section
/-! DEFINITION. Chest: requests (R304, R309), reads, marks and releases (R312), errors, tags and poison (R314 to R318),
peaks (R321). -/

namespace Sys2Proof.Machine

/-- A producer asks for a packet of cells ahead of what it will carry (R300, R304, R308); a request that is not granted waits. -/
def cellAllocate (cls queue : Nat) (tenant : Option Nat) (cells : List Nat) (s : State) : State :=
  let k := cells.length
  if 6 ≤ cls ∨ k = 0 ∨ 64 < k then s
  else
    let r : CellReq := { cls := cls, queue := queue, tenant := tenant, choice := cells, item := none, data := none, source := none }
    match grantNow r s with
    | some t => evalChest t
    | none => s.modChest (fun c => { c with waiting := c.waiting ++ [r] })

def execCellAllocate (cls queue : Nat) (tenant : Option Nat) (cells : List Nat) (s : State) : Out :=
  .next (cellAllocate cls queue tenant cells s)

/-! ### Mark, rewind, release (R312) -/

/-- A machine check about a queue of Chest names its head cell. -/
def chestCheck (code cls queue : Nat) (s : State) : State :=
  let i := ((cellQueue cls queue s).cells.head?.map (·.index)).getD 0
  machineCheck code (bankOf i) i s

def cellMark (cls queue : Nat) (s : State) : State :=
  if cls < 6 then modCells cls queue (fun q => { q with mark := some q.rd }) s else s

def execCellMark (cls queue : Nat) (s : State) : Out := .next (cellMark cls queue s)

def cellRewind (cls queue : Nat) (s : State) : State :=
  if 6 ≤ cls then s else
  match (cellQueue cls queue s).mark with
  | some m => modCells cls queue (fun q => { q with rd := m }) s
  | none => chestCheck 2 cls queue s

def execCellRewind (cls queue : Nat) (s : State) : Out := .next (cellRewind cls queue s)

def cellRelease (cls queue k : Nat) (s : State) : State :=
  if 6 ≤ cls then s
  else if (cellQueue cls queue s).rd < k then chestCheck 2 cls queue s
  else freeHead cls queue k s

def execCellRelease (cls queue k : Nat) (s : State) : Out := .next (cellRelease cls queue k s)

/-! ### Errors, tags and poison (R314 to R318) -/

/-- A corrected error of a bank (R314): counts, and EV_CORRECTED_ECC at the first and at multiples of event_step. -/
def correctedEcc (cell word : Nat) (s : State) : State :=
  let b := bankOf cell
  let n := tgetD s.chest.bankCount b 0 + 1
  let s := s.modChest (fun c => { c with bankCount := tset c.bankCount b n, corrected := satInc 32 c.corrected })
  if n = 1 ∨ n % max 1 s.chest.eventStep = 0 then
    raiseEvent (mkEvent s evCorrectedEcc 0xFFFF 0xFFFF 0 2 b [b, cell, word, n]) s
  else s

/-- A cell is retired until block reset (R315); at the limit Chest reports a hub fault (R318). -/
def retireCell (cell : Nat) (s : State) : State :=
  let b := bankOf cell
  let s := s.modChest (fun c =>
    { c with retired := c.retired ++ [cell], uncorrectable := satInc 16 c.uncorrectable,
             bankBad := tset c.bankBad b (tgetD c.bankBad b 0 + 1), bankRetired := tset c.bankRetired b (tgetD c.bankRetired b 0 + 1) })
  if s.chest.retired.length = Config.retiredLimit then orderStage3 10 false false s else s

/-- What a queue of the ISSUE class is (R302): the intake of a submission queue, the command queue of a stream, or the issue
queue of an engine. -/
inductive IssueQueue where
  | intake (k : Nat)
  | stream (p st : Nat)
  | engine (e : Nat)
  deriving DecidableEq, Repr

def issueQueue (queue : Nat) : IssueQueue :=
  if queue < 2 ^ 22 then .intake queue
  else if queue < 2 ^ 23 then .stream ((queue - 2 ^ 22) / 4) (queue % 4)
  else .engine (queue - 2 ^ 23)

/-- The submission queue and position of the command that a cell of an engine's issue queue carries. -/
def itemCmd (item : Nat) : Nat × Nat := (item / 2 ^ 64, item % 2 ^ 64)

/-- The loop whose Journal records stand in a queue of the JOURNAL class. -/
def jnlLoop (queue : Nat) (s : State) : Option (Nat × Loop) :=
  s.trestle.loops.find? (fun e => (e.2.jnl.map (·.cells)) == some queue)

/-- The tenant of the command or queue that a cell serves (R316): of an engine's issue queue, which tenants share, the tenant of
the cell's command. -/
def chestTenant (cls queue : Nat) (c : Cell) (s : State) : Option Nat :=
  if cls = 5 then
    match jnlLoop queue s with
    | some e => some e.2.tenant
    | none => (s.trestle.jnlLeft.find? (fun x => x.jnl.cells == queue)).bind (fun x => s.tenantOf x.ctx)
  else if cls = 4 then none
  else if cls = 1 then
    match issueQueue queue with
    | .intake k => s.tenantOf (k / 256)
    | .stream p st => ((streamAt p st s).launch.map (·.ctx)).bind s.tenantOf
    | .engine _ => c.item.bind (fun i => s.tenantOf ((itemCmd i).1 / 256))
  else s.tenantOf (queue / 256)

/-- Commands of one context lose their latches to poisoned packets; the context is lost (R317, R100). -/
def poisonCtx (cs : List (Nat × Nat)) (cell : Nat) (s : State) : State :=
  let free := cs.filter (fun e => ((s.cmd e.1 e.2).map (fun m => m.latch.isNone)).getD false)
  match free with
  | [] => s
  | e :: t => memFaultCmd e.1 e.2 1 (bankOf cell) (t.foldl (fun s e => faultLatch e.1 e.2 .memUncorrectable 1 s) s)

/-- Commands by queue and position lose their latches to poisoned packets, and each context with one is lost (R317, R100). -/
def poisonCmds (cs : List (Nat × Nat)) (cell : Nat) (s : State) : State :=
  ((cs.map (fun e => e.1 / 256)).eraseDups).foldl (fun s c => poisonCtx (cs.filter (fun e => e.1 / 256 == c)) cell s) s

/-- Fetched entries whose cells are lost, and reads on their way to lost cells, are discarded from the first lost position on; F
goes back to it (R317). Reads that began before it keep what lies before it. -/
def Queue.refetch (p0 : Nat) (q : Queue) : Queue :=
  { q with f := min q.f p0, fetched := q.fetched.filter (fun f => decide (f.pos < p0) || f.latch.isSome),
           inflight := q.inflight.filterMap (fun e => if p0 ≤ e.1 then none else some (e.1, min e.2 (p0 - e.1))),
           state := if q.state = .idle ∨ q.state = .idleArmed then .fetching else q.state }

/-- FETCH packets are lost (R317): those behind the first are read again too, and their cells, as far as links reach them, are
free. -/
def poisonFetch (k : Nat) (items : List Nat) (s : State) : State :=
  match items with
  | [] => s
  | p :: t =>
    let p0 := t.foldl min p
    let gone := (((tget s.front.queues k).map (·.fetched)).getD []).filter (fun f => decide (p0 ≤ f.pos) && f.latch.isNone)
    let s := s.modQ k (Queue.refetch p0)
    gone.foldl (fun s f => dropItem 1 k f.pos (dropItem 0 k f.pos s)) s

/-- A Journal without records that are lost. -/
def Jnl.without (items : List Nat) (j : Jnl) : Jnl :=
  { j with waiting := j.waiting.filter (fun w => !items.contains (fld w.2 8 8)), gaps := j.gaps + 1 }

/-- Journal records of a loop are lost: a gap record says which (R317, R391). Those of a loop that is CLOSED are left out of its
ring (log 13). -/
def poisonJournal (queue : Nat) (items : List Nat) (s : State) : State :=
  let s := { s with trestle := { s.trestle with jnlLeft := s.trestle.jnlLeft.map (fun x =>
    if x.jnl.cells = queue then { x with jnl := x.jnl.without items } else x) } }
  match jnlLoop queue s with
  | none => s
  | some (l, lp) =>
    match lp.jnl with
    | none => s
    | some j =>
      let lost := j.waiting.filter (fun w => items.contains (fld w.2 8 8))
      match lost with
      | [] => s
      | (_, r) :: _ =>
        let s := s.modLoop l (fun lp => { lp with jnl := some (j.without items) })
        journal l 0x0B lp.tag (lp.step + 1) 0 1 (le 8 (fld r 8 8) ++ le 4 lost.length ++ le 1 1) s

/-- What the loss of the packets that carry these items does to their consumer (R317). -/
def poisonOutcome (cls queue cell : Nat) (items : List Nat) (s : State) : State :=
  if cls = 0 then poisonFetch queue items s
  else if cls = 1 then
    match issueQueue queue with
    | .intake k => poisonCmds (items.map (fun p => (k, p))) cell s
    | .engine _ => poisonCmds (items.map itemCmd) cell s
    | .stream p st =>
      if items.isEmpty then s
      else faultStream p st ((FaultInfo.of .memUncorrectable 1 s.now).ofStream p st (streamAt p st s) s)
        (some (0x08, memErr 2 1 0xFFFF 0xFFFFFFFF (bankOf cell) 0 0xFFFF 0)) s
  else if cls = 2 then poisonCmds (items.map (fun p => (queue, p))) cell s
  else if cls = 3 then
    s.modQ queue (fun q => { q with unwritten := q.unwritten.map (fun r => if items.contains r.pos then { r with lost := true } else r) })
  else if cls = 4 then
    let n := s.jnl.events.countP (fun e => items.contains e.id)
    { s with jnl := { s.jnl with events := s.jnl.events.filter (fun e => !items.contains e.id), evtLost := satInc 32 s.jnl.evtLost n } }
  else poisonJournal queue items s

/-- The CHEST record of a lost cell (R504). An unreadable metadata word hides its tenant, and from scrub, which serves no queue, its
class and queue too. -/
def chestRecord (cls queue word cause : Nat) (c : Cell) (scrub : Bool) (s : State) : State :=
  let known := word ≠ 8 ∨ cause ≠ 0
  let tenant := if known then c.tenant.getD 0xFFFF else 0xFFFF
  let hidden : Bool := scrub && !(decide known)
  hutchRec 0x07 { RecHead.blank with tenant := tenant }
    (le 1 cause ++ le 1 (bankOf c.index) ++ le 1 word ++ le 1 (if hidden then 0xFF else cls) ++ le 4 c.index ++
      le 2 (if hidden then 0xFFFF else (Config.cellQueueNumber cls queue).toNat) ++ le 2 tenant ++ zeros 20) s

/-- The cells of a queue whose loss of the cell at an index takes with it: those freed now (the packet, as far as it can be reached),
and those that only the metadata walk recovers (R315). -/
def lostSpan (cs : List Cell) (i : Nat) (meta_ : Bool) : List Cell × List Cell :=
  let (a, b) := packetSpan cs i
  if meta_ then ((cs.drop a).take (i + 1 - a), cs.drop (i + 1)) else ((cs.drop a).take (b - a), [])

/-- An uncorrectable error or a tag mismatch (R315, R316): Hutch record, the cell retired, the packet discarded, or with it all of
the queue from there on, which is unreachable until the metadata walk ends; then what R317 says of what was lost. -/
def cellLost (cls queue : Nat) (i : Nat) (c : Cell) (word cause : Nat) (scrub : Bool) (s : State) : State :=
  let s := chestRecord cls queue word cause c scrub s
  let (now, later) := lostSpan (cellQueue cls queue s).cells i (decide (word = 8))
  let has (l : List Cell) (x : Cell) : Bool := l.any (fun y => y.index == x.index)
  let s := modUsed cls (fun u => u - now.length) (modCells cls queue (fun q =>
    let q := q.without (has now)
    { q with cells := q.cells.map (fun x => if has later x then { x with poison := true } else x) }) s)
  let s := s.modChest (fun x => { x with walk := x.walk || decide (word = 8) })
  let items := ((now ++ later).filterMap (·.item)).eraseDups
  poisonOutcome cls queue c.index items (settleChest (retireCell c.index s))

/-- The consumer may begin the packet of the cell at an index, or go on in it (R310): the first min(cut, cells) of its cells are
complete, and so is this one. -/
def mayRead (cls : Nat) (cs : List Cell) (i : Nat) (c : Cell) (s : State) : Bool :=
  let (a, b) := packetSpan cs i
  c.complete && (!c.first || ((cs.drop a).take (min (classAt cls s).cut (b - a))).all (·.complete))

/-- The words of a read that are found with an error beyond correction: metadata first. -/
def fatalWord (ecc : List EccFinding) : Option Nat :=
  if ecc.contains .badMeta then some 8
  else ecc.findSome? (fun e => match e with | .badData w => some (min w 7) | _ => none)

/-- Corrected errors of the words read are counted (R314). -/
def correctAll (cell : Nat) (ecc : List EccFinding) (s : State) : State :=
  ecc.foldl (fun s e => match e with | .corrected w => correctedEcc cell (min w 8) s | _ => s) s

/-- A consumer reads the cell at its read pointer (R312), with the checks of R310 and R314 to R316: ecc is what is found at its nine
words. The cell's words are returned. -/
def cellRead (cls queue : Nat) (ecc : List EccFinding) (s : State) : State :=
  let q := cellQueue cls queue s
  if 6 ≤ cls then s else
  match q.cells[q.rd]? with
  | none => s
  | some c =>
    if c.poison || !mayRead cls q.cells q.rd c s then s else
    let s := correctAll c.index ecc s
    match fatalWord ecc with
    | some w => cellLost cls queue q.rd c w 0 false s
    | none =>
      if c.tenant = chestTenant cls queue c s then
        (modCells cls queue (fun q => { q with rd := q.rd + 1 }) s).modChest (fun x =>
          { x with readOut := cellOut cls queue q.cells q.rd c })
      else cellLost cls queue q.rd c 8 1 false s

def execCellRead (cls queue : Nat) (ecc : List EccFinding) (s : State) : Out := .next (cellRead cls queue ecc s)

/-- The metadata walk ends (R315): the unreachable cells are free again; a cell in no queue and not free is a machine
check (R378). -/
def chestWalkDone (stray : Option Nat) (s : State) : State :=
  if !s.chest.walk then s else
  let s := s.modChest (fun c => { c with walk := false })
  match stray with
  | some i => machineCheck 4 (bankOf i) i s
  | none =>
    settleChest (s.chest.queues.foldl (fun s e => freeCells (e.1 / 2 ^ 32) (e.1 % 2 ^ 32) (·.poison) s) s)

def execChestWalkDone (stray : Option Nat) (s : State) : Out := .next (chestWalkDone stray s)

/-- A read of CST_POOL_STS (none) or of CST_CLASS_STSc: the value, and the peak starts again (R10, R321). R10 says that a field of
access RC clears, and R321 that this one holds the largest count since the last read: here it restarts at the cells used now, which
have been used since the read (log 107). -/
def peakRead (cls : Option Nat) (s : State) : State :=
  if !barOpen s then s else
  match cls with
  | none =>
    let u := poolUsed' s
    let v := b2n s.chest.hfpPause * 2 ^ 63 + b2n s.chest.mfpPause * 2 ^ 62 + s.chest.peak % 2 ^ 19 * 2 ^ 32 + u % 2 ^ 19
    { s with port := { s.port with readData := BitVec.ofNat 64 v }, chest := { s.chest with peak := u } }
  | some n =>
    if 6 ≤ n then { s with port := { s.port with readData := 0 } } else
    let c := classAt n s
    let v := b2n c.congested * 2 ^ 63 + c.peak % 2 ^ 19 * 2 ^ 32 + c.used % 2 ^ 19
    { s with port := { s.port with readData := BitVec.ofNat 64 v },
             chest := { s.chest with classes := s.chest.classes.modify n (fun x => { x with peak := x.used }) } }

def execPeakRead (cls : Option Nat) (s : State) : Out := .next (peakRead cls s)

end Sys2Proof.Machine
end

