-- ==== Sys2Proof/Machine/Bureau.lean ====
section
/-! DEFINITION. Bureau: sensor samples and energy (R325, R331), usage records (R326 to R329), tenant slots (R334), reports
(R336 to R342), VDD_AON (R346). -/

namespace Sys2Proof.Machine

def State.modBureau (s : State) (f : Bureau → Bureau) : State := { s with bureau := f s.bureau }

/-- A slot that has held no tenant. -/
def Slot.reset : Slot :=
  { counters := List.replicate 6 0, incarnation := 0, start := List.replicate 6 0, prevStart := List.replicate 6 0,
    active := false, prevValid := false, sensorGap := false, acc := 0 }

def slotAt (t : Nat) (b : Bureau) : Slot := tgetD b.slots t Slot.reset

def Bureau.modSlot (b : Bureau) (t : Nat) (f : Slot → Slot) : Bureau := { b with slots := tmod b.slots t Slot.reset f }

/-- A counter rises, modulo 2^64 (R329). -/
def Slot.add (i n : Nat) (x : Slot) : Slot := { x with counters := x.counters.modify i (fun v => v + BitVec.ofNat 64 n) }

/-! ### Energy (R325, R331) -/

/-- A sample for the interval just ended (R325): the last of an interval counts. -/
def sensorSample (p : Nat) (code : BitVec 16) (s : State) : State :=
  if s.port.vddAon && decide (p < s.integ.slices) then s.modBureau (fun b => { b with samples := tset b.samples p code.toNat }) else s

def execSensorSample (p : Nat) (code : BitVec 16) (s : State) : Out := .next (sensorSample p code s)

/-- The tenants that hold a bench of a partition. -/
def occOf (p : Nat) (b : Bureau) : List Nat := ((partBenches p).filterMap (fun x => tget b.occ x)).eraseDups

/-- The code used for a partition in this interval, and the counts of samples that are missing (R331). A partition that has had no
sample since VDD_AON came up has the last code 0 (DESIGN CHOICE, log 129). -/
def pickCode (p : Nat) (b : Bureau) : Option Nat × Bureau :=
  match tget b.samples p with
  | some code => (some code, { b with miss := tset b.miss p 0, last := tset b.last p code })
  | none =>
    let m := tgetD b.miss p 0 + 1
    let b := { b with miss := tset b.miss p m, missed := tset b.missed p (satInc 32 (tgetD b.missed p 0)) }
    if m ≤ 16 then (some (tgetD b.last p 0), b)
    else
      let b := { b with gap := tset b.gap p (satInc 32 (tgetD b.gap p 0)), sensorGap := true }
      (none, (occOf p b).foldl (fun b t => b.modSlot t (fun x => { x with sensorGap := true })) b)

/-- Calibrated power in mW (R331, R332). -/
def milliwatts (i : Integ) (p : Nat) (code : Option Nat) : Nat :=
  match code with
  | none => 0
  | some c => ((((c * (i.gain[p]?).getD 0) / 65536 : Nat) : Int) + (i.offset[p]?).getD 0).toNat

/-- One partition's energy of one interval is divided among its benches (R331). -/
def shareEnergy (i : Integ) (b : Bureau) (p : Nat) : Bureau :=
  let (code, b) := pickCode p b
  let e := milliwatts i p code + tgetD b.res p 0
  let q := e / 4
  let b := { b with res := tset b.res p (e % 4) }
  (partBenches p).foldl (fun b x =>
    match tget b.occ x with
    | none => { b with unatt := tset b.unatt p (tgetD b.unatt p 0 + BitVec.ofNat 64 q) }
    | some t => b.modSlot t (fun y =>
        let a := y.acc + q
        { y.add 5 (a / 1000) with acc := a % 1000 })) b

/-- The 1 us tick, given out as BUR_SNS_TICK (R325, R331). -/
def bureauTick (s : State) : State :=
  if s.port.vddAon then
    (emit .snsTick s).modBureau (fun b =>
      let b := (List.range s.integ.slices).foldl (shareEnergy s.integ) b
      { b with samples := [], timeUs := (b.timeUs + 1) % 2 ^ 64 })
  else s

def execBureauTick (s : State) : Out := .next (bureauTick s)

/-! ### Reports becoming pending (R338) -/

/-- A report of a kind becomes pending for a slot. One that replaces a pending report of the slot has its place in the signing order
(DESIGN CHOICE, log 130). -/
def makePending (t : Nat) (k : ReportKind) (b : Bureau) : Bureau :=
  match b.pending.find? (fun e => e.1 == t) with
  | none => { b with pending := b.pending ++ [(t, k)] }
  | some e =>
    if e.2.rank ≤ k.rank then { b with pending := b.pending.map (fun x => if x.1 == t then (t, k) else x) } else b

/-- Slots that are active, in ascending order. -/
def activeSlots (b : Bureau) : List Nat := (b.slots.filter (fun e => e.2.active)).map (·.1)

/-- RET (R334). -/
def retireSlot (t : Nat) (b : Bureau) : Bureau :=
  makePending t .retirement (b.modSlot t (fun x => { x with active := false }))

/-- ACT (R334). -/
def activateSlot (t : Nat) (b : Bureau) : Bureau :=
  makePending t .activation (b.modSlot t (fun x =>
    { x with prevStart := x.start, prevValid := true, start := x.counters, incarnation := (x.incarnation + 1) % 2 ^ 32,
             sensorGap := false, active := true }))

/-! ### Usage records (R326, R327) -/

/-- Kinds of usage records, as rows of the table. -/
def Usage.kind : Usage → Nat
  | .occ .. => 0 | .eng .. => 1 | .byt .. => 2 | .act .. => 3 | .ret .. => 4 | .req .. => 5 | .sync => 6

/-- A counter is increased; a slot that is not active sets usage_gap (R329). -/
def addUse (t i n : Nat) (b : Bureau) : Bureau :=
  let b := b.modSlot t (Slot.add i n)
  if (slotAt t b).active then b else { b with usageGap := true }

/-- What a usage record does (R327). -/
def applyUsage (u : Usage) (b : Bureau) : Bureau :=
  match u with
  | .occ bench t => { b with occ := match t with | some x => tset b.occ bench x | none => tdel b.occ bench }
  | .eng t n => addUse t 0 n b
  | .byt t cls n => addUse t (1 + cls) n b
  | .act t => activateSlot t b
  | .ret t => retireSlot t b
  | .req (some t) => makePending t .requested b
  | .req none => (activeSlots b).foldl (fun b t => makePending t .requested b) b
  | .sync => { b with occ := [] }

/-- Bureau takes the oldest record of the usage channel, where it is of a kind (R326): a sequence number it does not
expect sets usage_gap. The oldest record that the hub holds enters the FIFO. -/
def takeUsage (kind : Nat) (s : State) : State :=
  match s.hub.burFifo with
  | [] => s
  | (n, u) :: t =>
    if u.kind = kind ∧ s.port.vddAon = true then
      { s with hub := { s.hub with burFifo := t ++ s.hub.burHeld.take 1, burHeld := s.hub.burHeld.drop 1 },
               bureau := applyUsage u { s.bureau with usageGap := s.bureau.usageGap || n != s.bureau.expect,
                                                      expect := (n + 1) % 65536 } }
    else s

def execOcc (s : State) : Out := .next (takeUsage 0 s)
def execEng (s : State) : Out := .next (takeUsage 1 s)
def execByt (s : State) : Out := .next (takeUsage 2 s)
def execAct (s : State) : Out := .next (takeUsage 3 s)
def execRet (s : State) : Out := .next (takeUsage 4 s)
def execReq (s : State) : Out := .next (takeUsage 5 s)
def execSync (s : State) : Out := .next (takeUsage 6 s)

/-- 10 us after the first byte not yet sent (R327); while the FIFO is full the bytes go on aggregating (R326). -/
def bytFlushTimer (tenant cls : Nat) (s : State) : State :=
  if cls < 4 ∧ s.hub.burFifo.length < Config.usageFifo then flushBytes tenant cls s else s

def execBytFlushTimer (tenant cls : Nat) (s : State) : Out := .next (bytFlushTimer tenant cls s)

/-! ### Signing and forwarding (R336 to R341) -/

/-- Microseconds between periodic reports (R338). -/
def reportPeriod : Nat := 60000000

/-- Every 60 s of bureau_time_us a periodic report becomes pending for each active slot (R338). -/
def periodicReport (s : State) : State :=
  if s.port.vddAon && decide (s.bureau.periods < s.bureau.timeUs / reportPeriod) then
    s.modBureau (fun b => { (activeSlots b).foldl (fun b t => makePending t .periodic b) b with periods := b.periods + 1 })
  else s

def execPeriodicReport (s : State) : Out := .next (periodicReport s)

def words (l : List W64) : List Byte := (l.map (fun v => le 8 v.toNat)).flatten

/-- Bytes [0, 192) of a report (R336). -/
def reportBytes (i : Integ) (b : Bureau) (t : Nat) (k : ReportKind) : List Byte :=
  let x := slotAt t b
  le 1 2 ++ le 1 k.code ++ le 2 t ++
  le 4 (b2n x.active + 2 * b2n x.prevValid + 4 * b2n x.sensorGap + 8 * b2n b.usageGap) ++ le 8 i.serial ++
  le 8 b.epoch.toNat ++ le 8 b.reportSeq ++ le 8 b.timeUs ++ le 4 x.incarnation ++ le 4 i.calibId ++
  words x.counters ++ words x.start ++ (if x.prevValid then words x.prevStart else zeros 48)

/-- Signing of the oldest pending report begins (R337, R338, R351). -/
def signingStart (s : State) : State :=
  let b := s.bureau
  match b.pending with
  | [] => s
  | (t, k) :: rest =>
    if s.port.vddAon && b.keyOk && b.signing.isNone && decide (b.queue.length < Config.reportQueue) then
      s.modBureau (fun b => { b with pending := rest, signing := some (reportBytes s.integ b t k) })
    else s

def execSigningStart (s : State) : Out := .next (signingStart s)

/-- The device key's signature of a report's first 192 bytes, with a secret from Bureau's entropy source; where the first secret gives
none, with the next (FIPS 186-5). -/
def signReport (x : List Byte) (k next : BitVec 256) (i : Integ) : Option (Nat × Nat) :=
  (ecdsaSign curve256 (beNat (sha256 x)) i.devKey k.toNat).or (ecdsaSign curve256 (beNat (sha256 x)) i.devKey next.toNat)

/-- The signed report is queued (R336, R338). -/
def signingDone (k next : BitVec 256) (s : State) : State :=
  match s.bureau.signing with
  | none => s
  | some x =>
    match signReport x k next s.integ with
    | none => s
    | some (r, sv) => s.modBureau (fun b =>
        { b with signing := none, queue := b.queue ++ [x ++ le 32 r ++ le 32 sv], reportSeq := (b.reportSeq + 1) % 2 ^ 64 })

def execSigningDone (k next : BitVec 256) (s : State) : Out := .next (signingDone k next s)

/-- A management core is RUNNING (R429). -/
def coreRuns (k : Nat) (s : State) : Bool := (coreAt k s).state == .running

/-- Firmware forwards a signed report (R340, R410). -/
def reportForward (s : State) : State :=
  match s.bureau.queue with
  | [] => s
  | r :: t =>
    if coreRuns 2 s && decide (4 ≤ s.hub.burRingLog2 ∧ s.hub.burRingLog2 ≤ 12) then
      let a := s.hub.burRingBase + (s.hub.burProd % 2 ^ s.hub.burRingLog2) * 256
      let s := hostWrite none (pfLoc a) r s
      { s with bureau := { s.bureau with queue := t }, hub := { s.hub with burProd := (s.hub.burProd + 1) % 2 ^ 64 } }
    else s

def execReportForward (s : State) : Out := .next (reportForward s)

/-- HUB_BUR_RING is written (R341): the write count starts again. -/
def burRingWrite (v : W64) (s : State) : State :=
  if !barOpen s then s else
  { s with hub := { s.hub with burRingBase := v.toNat / 4096 * 4096, burRingLog2 := v.toNat % 16, burProd := 0 } }

def execBurRingWrite (v : W64) (s : State) : Out := .next (burRingWrite v s)

/-- HUB_BUR_REQ is written (R342): one REQ record. -/
def burReqWrite (v : W32) (s : State) : State :=
  if !barOpen s then s else
  usageSend (.req (if bit v.toNat 31 then none else some (v.toNat % 1024))) s

def execBurReqWrite (v : W32) (s : State) : Out := .next (burReqWrite v s)

/-! ### Power and resets (R344, R346) -/

/-- VDD_AON comes up (R346, R347). Bureau expects sequence number 0, while the hub's FIFO and numbering go on, so that the next record
can set usage_gap (DESIGN CHOICE, log 131). -/
def vddAonUp (epoch : W64) (keyOk : Bool) (s : State) : State :=
  { s with port := { s.port with vddAon := true },
           bureau := { Bureau.reset with epoch := if epoch = 0 then 1 else epoch, keyOk := keyOk } }

def execVddAonUp (epoch : W64) (keyOk : Bool) (s : State) : Out := .next (vddAonUp epoch keyOk s)

/-- VDD_AON leaves its limits (R346): Bureau's state is lost. -/
def vddAonLoss (s : State) : State :=
  { s with port := { s.port with vddAon := false }, bureau := { Bureau.reset with keyOk := false } }

def execVddAonLoss (s : State) : Out := .next (vddAonLoss s)

/-- BLK_RST_N or POR_N is asserted (R344). -/
def bureauReset (b : Bureau) : Bureau :=
  let b := (activeSlots b).foldl (fun b t => retireSlot t b) { b with occ := [] }
  { b with expect := 0 }

end Sys2Proof.Machine
end

