-- ==== Sys2Proof/Machine/Recovery.lean ====
section
/-! DEFINITION. The stages of recovery (R359 to R369): orders by WCH_RESET_CMD (R384, R385), budgets (R360), the partition
reset (R362 to R365), the compute reset (R366 to R368) and the reset request. -/

namespace Sys2Proof.Machine

/-! ### WCH_RESET_CMD -/

/-- BAR0 offset of WCH_RESET_CMD. -/
def wchResetCmd : Nat := 0x60120

/-- A write of WCH_RESET_CMD starts an operation unless one runs (R384). -/
def resetCmd (op : State → State) (s : State) : State :=
  if !barOpen s then s
  else if s.watch.rstBusy then bar0Err 3 wchResetCmd s
  else op s

/-- The command runs from here (R385). -/
def rstStart (s : State) : State := { s with watch := { s.watch with rstBusy := true, rstResult := 0 } }

/-- WCH_RESET_CMD PARTITION_RESET (R384); a compute reset or reset request in progress absorbs it (R361). -/
def partitionReset (p : Nat) (s : State) : State :=
  resetCmd (fun s =>
    if s.integ.slices ≤ p % 64 then rstDone 2 s
    else if s.watch.stages.any (fun x => x.stage == 3 || x.stage == 4) then rstDone 3 s
    else orderStage2 (p % 64) 2 true false (rstStart s)) s

def execPartitionReset (p : Nat) (s : State) : Out := .next (partitionReset p s)

/-- WCH_RESET_CMD COMPUTE_RESET (R384): it joins a compute reset in progress. -/
def computeReset (p : Nat) (s : State) : State :=
  resetCmd (fun s =>
    if p % 64 ≠ 0 then rstDone 2 s
    else if s.watch.stages.any (fun x => x.stage == 4) then rstDone 3 s
    else modStage 3 0 (fun x => { x with byCmd := true }) (orderStage3 2 true false (rstStart s))) s

def execComputeReset (p : Nat) (s : State) : Out := .next (computeReset p s)

/-- WCH_RESET_CMD RESET_REQ (R384, R369). -/
def resetReq (p : Nat) (s : State) : State :=
  resetCmd (fun s =>
    if p % 64 ≠ 0 then rstDone 2 s
    else if s.port.resetReq then rstDone 0 s
    else modStage 4 0 (fun x => { x with byCmd := true }) (orderStage4 2 true (rstStart s))) s

def execResetReq (p : Nat) (s : State) : Out := .next (resetReq p s)

/-- RESET_REQ_N is asserted once the log is flushed (R369); it stays asserted until the next block reset. -/
def resetRequest (s : State) : State :=
  match stageOf 4 0 s with
  | none => s
  | some x =>
    let s := { s with port := { s.port with resetReq := true } }
    if x.byCmd && s.watch.rstBusy then rstDone 0 s else s

def execResetRequest (s : State) : Out := .next (resetRequest s)

/-! ### Budgets (R360) -/

/-- The side command that an engine has begun and that has not landed. -/
def begunSide (g : SideEngine) (l : Launch) (s : State) : Option SideCmd :=
  let img := launchImage l s
  if g.runs then (g.place img).map (fun h => SideCmd.of (slice img (imSideOff img + h.2) 32)) else none

/-- Partitions whose channels hold the requests of a stopped stream's side commands (R173, R360). -/
def heldBySides (p st : Nat) (s : State) : List Nat :=
  let x := streamAt p st s
  match x.launch with
  | none => []
  | some l =>
    if x.state = .halted ∧ x.confirmed = false then
      x.engines.flatMap (fun g => ((begunSide g l s).map (fun c => (sidePlaces l c s).flatMap (fun e => rangeParts e.1 e.2 s))).getD [])
    else []

/-- Partitions whose channels hold the requests of a stop that a context's teardown waits for: of a mover job's next piece, and of
its stopped streams' side commands (R360, R85). -/
def heldPartitions (c : Nat) (s : State) : List Nat :=
  (s.allJobs.flatMap (fun j => if j.kind.isCmd c then (j.places s).filterMap (fun l => locPartition l s) else [])) ++
  ((streamsOf (fun l => l.ctx == c) s).flatMap (fun e => heldBySides e.1 e.2 s))

/-- The partitions of a context (R360). -/
def partitionsOf (c : Nat) (s : State) : List Nat :=
  (((s.sched.residencies.filter (fun e => e.2.ctx == c)).map (fun e => partsOf e.2.benches)).flatten ++ heldPartitions c s).eraseDups

/-- A fault information after a stage (R358). -/
def FaultInfo.reach (stage : Nat) (i : FaultInfo) : FaultInfo :=
  { i with stage := max i.stage stage, flags := i.flags ||| (if stage = 2 then 2 else 4) }

/-- A context's teardown is over its budget (R360): stage 2 for its partitions, or stage 3. -/
def escalateContext (c : Nat) (x : Context) (s : State) : State :=
  let ps := partitionsOf c s
  let put (stage : Nat) (s : State) : State :=
    { s with contexts := tupd s.contexts c (fun y => { y with
        escalated := true, ordered := if stage = 2 then ps else [], cause := y.cause.map (FaultInfo.reach stage) }) }
  if ps.isEmpty || x.escalated then orderStage3 1 false false (put 3 s)
  else ps.foldl (fun s p => orderStage2 p 1 false false s) (put 2 s)

/-- Firmware has yet to map out a channel of the partition that did not become ready (R365). -/
def awaitsMapout (p : Nat) (s : State) : Bool :=
  let mine (m : Mapout) : Bool := (m.tier == .fast) && (m.source == 2) && (m.channel / 8 == p)
  let w (x : Work) : Bool := match x with | .mapout m => mine m | _ => false
  (coreAt 1 s).mailbox.any w || (coreAt 1 s).inService.any w || s.wrd.mapoutWait.any mine

/-- A stage's budget has expired (R360). A teardown that ordered stage 2 waits for those resets to end; a partition's
wait for firmware's map-out is not counted (R365). -/
def stageBudgetExpiry (stage unit : Nat) (s : State) : State :=
  if stage = 1 then
    match tget s.contexts unit with
    | none => s
    | some x =>
      match x.state with
      | .teardown _ =>
        let late := decide (stageBudget 1 * Config.us ≤ s.now - x.teardownAt)
        let wait := x.ordered.any (fun p => (stageOf 2 p s).isSome)
        if late && !wait && !s.watch.stages.any (fun g => g.stage == 3 || g.stage == 4) then escalateContext unit x s else s
      | _ => s
  else
    match (if stage = 2 then stageOf 2 unit s else if stage = 3 then stageOf 3 0 s else none) with
    | none => s
    | some x =>
      if s.now - x.at_ < stageBudget stage * Config.us ∨ (stage = 2 ∧ awaitsMapout unit s = true) then s
      else
        let s := stageEnd x 2 s
        if stage = 2 then orderStage3 1 false false s else orderStage4 1 false s

def execStageBudgetExpiry (stage unit : Nat) (s : State) : Out := .next (stageBudgetExpiry stage unit s)

/-! ### Partition reset (R362, R363) -/

/-- The next step of a stage has been taken. -/
def setPhase (stage unit n : Nat) (s : State) : State := modStage stage unit (fun x => { x with phase := n, since := s.now }) s

/-- What the reset of partition p does to a residency that still has benches there (R363): an idle graph residency is
released; a loop being restored keeps its save; a loop not saved costs its context. -/
def evictRes (p r : Nat) (s : State) : State :=
  match tget s.sched.residencies r with
  | none => s
  | some x =>
    match x.owner with
    | .graph => if x.running then s else releaseRes r s
    | .loop l =>
      if x.saved then
        (setBenches x.benches (fun b => { b with state := .clearing, res := none }) s).modRes r
          (fun x => { x with benches := [], moving := false })
      else
        let i := FaultInfo.of .partitionReset (0x200 + p) s.now
        beginTeardown x.ctx true { i with partition := p, loopId := l, flags := 2, stage := 2 } none s

/-- A stream whose slice is reset stops: its faults and side commands go with the slice (R140, R362 step 4). -/
def Stream.reset2 (x : Stream) : Stream :=
  if x.launch.isSome && !x.confirmed then
    { x with state := .halted, stopSent := true, stallCause := 0, fault := none, engines := List.replicate 4 SideEngine.reset }
  else x

/-- A bystander loop of a partition has not been saved yet (R363). -/
def unsavedLoop (p : Nat) (s : State) : Bool :=
  (resInPart p s).any (fun r => ((tget s.sched.residencies r).map (fun x => (x.owner != .graph) && (!x.saved || x.moving))).getD false)

/-- Steps 1 and 2 are over, with every bystander loop saved or the allowance of 1 ms at its end (R362, R363): the commands running on
the partition whose latches are free take them (step 3), and the partition's reset is asserted (step 4, R477). -/
def partitionResetAssert (p : Nat) (s : State) : State :=
  match stageOf 2 p s with
  | none => s
  | some x =>
    if x.phase ≠ 0 ∨ (unsavedLoop p s = true ∧ s.now - x.at_ < Config.ms) then s else
    let s := killRuns p s
    let s := (resInPart p s).foldl (fun s r => evictRes p r s) s
    let s := setBenches (partBenches p) (fun _ => { state := .out, res := none, claim := none }) s
    let rs := tmapv s.sched.residencies (fun _ (x : Residency) => { x with benches := x.benches.filter (fun b => b / 4 != p) })
    let held := if s.port.prtRst.contains p then s.port.prtRst else s.port.prtRst ++ [p]
    let s := { s with sched := { s.sched with residencies := rs }, port := { s.port with prtRst := held } }
    setPhase 2 p 1 (s.modSlice p (fun y => { y with streams := y.streams.map Stream.reset2, lines := [] }))

def execPartitionResetAssert (p : Nat) (s : State) : Out := .next (partitionResetAssert p s)

/-- Every write of the partition is acknowledged or discarded: its stopped streams count as confirmed (R362 step 5). -/
def partitionWritesDrained (p : Nat) (s : State) : State :=
  match stageOf 2 p s with
  | none => s
  | some x =>
    if x.phase ≠ 1 then s else
    let s := (List.range 4).foldl (fun s st =>
      let y := streamAt p st s
      match y.launch with
      | some _ =>
        if y.state = .halted ∧ y.confirmed = false then
          (chargeStream p st s).modStream p st (fun y => { y with confirmed := true })
        else s
      | none => s) s
    settleStops (setPhase 2 p 2 s)

def execPartitionWritesDrained (p : Nat) (s : State) : Out := .next (partitionWritesDrained p s)

/-- The reset is released, at least 10 µs after it was asserted (R362 steps 4 and 6). -/
def partitionResetRelease (p : Nat) (s : State) : State :=
  match stageOf 2 p s with
  | none => s
  | some x =>
    if x.phase = 2 ∧ 10 * Config.us ≤ s.now - x.since then
      setPhase 2 p 3 { s with port := { s.port with prtRst := s.port.prtRst.filter (· != p) } }
    else s

def execPartitionResetRelease (p : Nat) (s : State) : Out := .next (partitionResetRelease p s)

/-- A slice after the reset of its partition: counters cleared (R178), stopped and free streams IDLE (R140). -/
def Slice.reset2 (y : Slice) : Slice :=
  { Slice.reset with fastChannels := y.fastChannels,
                     streams := y.streams.map (fun x => if x.state == .halted || x.launch.isNone then Stream.reset else x) }

/-- What stopped and free streams of a slice have in Chest and at the link port goes with the slice's reset. -/
def clearStreams (p : Nat) (s : State) : State :=
  (List.range 4).foldl (fun s st =>
    let x := streamAt p st s
    if x.state == .halted || x.launch.isNone then releaseStream p st s else s) s

/-- A slice reports ready (R362 step 6, R366 step 5). -/
def sliceReady (p : Nat) (s : State) : State :=
  match stageOf 3 0 s, stageOf 2 p s with
  | some x, _ =>
    if x.phase = 2 ∧ p < s.integ.slices ∧ x.ready.contains p = false then
      modStage 3 0 (fun x => { x with ready := x.ready ++ [p] }) s
    else s
  | none, some x =>
    if x.phase = 3 then settlePart p (modStage 2 p (fun x => { x with phase := 4 }) ((clearStreams p s).modSlice p Slice.reset2)) else s
  | none, none => s

def execSliceReady (p : Nat) (s : State) : Out := .next (sliceReady p s)

/-- A channel controller reports READY (R362 step 7, R364, R474). -/
def channelReady (tier : Tier) (ch : Nat) (s : State) : State :=
  let s := { s with wrd := { s.wrd with faultChannels := s.wrd.faultChannels.filter (fun e => e != (tier, ch)) } }
  match tier, stageOf 2 (ch / 8) s with
  | .fast, some x =>
    if 3 ≤ x.phase ∧ x.ready.contains ch = false then
      settlePart (ch / 8) (modStage 2 (ch / 8) (fun x => { x with ready := x.ready ++ [ch] }) s)
    else s
  | _, _ => s

def execChannelReady (tier : Tier) (ch : Nat) (s : State) : Out := .next (channelReady tier ch s)

/-- A map-out request for MC1 (R410, R377). -/
def requestMapout (tier : Tier) (ch : Nat) (lost : Bool) (units : List Nat) (source : Nat) (s : State) : State :=
  pushWork 1 (.mapout { tier := tier, channel := ch, lost := lost, units := units, source := source, removed := 0,
                        invalidated := 0, outcome := 0, tenant := 0xFFFF }) s

/-- A channel has not become ready 15 ms after the release (R365): it is reported for a map-out in mode LOST. With a
second channel of the partition gone the partition stays OUT and the stage ends. -/
def channelReadyTimeout (ch : Nat) (units : List Nat) (s : State) : State :=
  let p := ch / 8
  match stageOf 2 p s with
  | none => s
  | some x =>
    let due := decide (3 ≤ x.phase ∧ 15 * Config.ms ≤ s.now - x.since) &&
      !x.ready.contains ch && !s.wrd.outChannels.contains (.fast, ch)
    let mine (m : Mapout) : Bool := (m.tier == .fast) && (m.channel == ch)
    let w (y : Work) : Bool := match y with | .mapout m => mine m | _ => false
    let asked := (coreAt 1 s).mailbox.any w || (coreAt 1 s).inService.any w || s.wrd.mapoutWait.any mine
    if !due || asked then s
    else if awaitsMapout p s || s.wrd.outChannels.any (fun e => e.1 == .fast && e.2 / 8 == p) then
      let s := if x.test then testEnd p (if x.detail = 0 then 4 else x.detail) (if x.detail = 0 then failTest p s else s) else s
      let s := if x.byCmd then rstDone 0 s else s
      dropStage 2 p (stageEnd x 0 s)
    else requestMapout .fast ch true units 2 s

def execChannelReadyTimeout (ch : Nat) (units : List Nat) (s : State) : Out := .next (channelReadyTimeout ch units s)

/-- A channel controller reports FAULT (R365, R377): a fast channel's partition is reset, and a map-out in mode LOST is
requested. -/
def channelFault (tier : Tier) (ch : Nat) (units : List Nat) (s : State) : State :=
  let fs := s.wrd.faultChannels
  let s := { s with wrd := { s.wrd with faultChannels := if fs.contains (tier, ch) then fs else fs ++ [(tier, ch)] } }
  let s := match tier with
    | .fast => if ch / 8 < s.integ.slices then orderStage2 (ch / 8) 5 false false s else s
    | .slow => s
  requestMapout tier ch true units 0 s

def execChannelFault (tier : Tier) (ch : Nat) (units : List Nat) (s : State) : Out := .next (channelFault tier ch units s)

/-- A controller's corrected-error rate has passed its limit (R377): a map-out in mode MIGRATE is requested. -/
def ceRate (tier : Tier) (ch : Nat) (units : List Nat) (s : State) : State := requestMapout tier ch false units 1 s

def execCeRate (tier : Tier) (ch : Nat) (units : List Nat) (s : State) : Out := .next (ceRate tier ch units s)

/-- A frame that holds a page is reported uncorrectable (R250). -/
def uncorrectableFrame (tier : Tier) (addr : Nat) (s : State) : State :=
  let f := frameOfAddr tier addr s
  if isFrame f s && (frameTier f s == tier) && holdsPage f s then checkMapout (losePage f true s) else s

/-- A controller reports an uncorrectable address (R250, R474). -/
def execChannelUncorrectable (tier : Tier) (_ addr : Nat) (s : State) : Out := .next (uncorrectableFrame tier addr s)

/-! ### Allowances (R367, R374) -/

/-- A dump is the newest: its slot is the last one written, or dumps are kept in the dump area only (R374, R386). -/
def newestDump (slot : Nat) (s : State) : Bool := !(decide (slot < 8)) || s.hutch.lastSlot == slot

/-- Bytes of a dump. -/
def dumpSize (slot : Nat) (s : State) : Nat := if slot < 8 then tgetD s.hutch.dumps slot 0 else s.hutch.dumpArea.length

/-- What of a dump has not landed is cut off, and the dump is marked truncated (R374, R446). -/
def cutDump (slot landed : Nat) (s : State) : State :=
  let h := s.hutch
  { s with hutch := { h with dumps := if slot < 8 then tupd h.dumps slot (fun n => min n landed) else h.dumps,
                             cut := if slot < 8 then h.cut.filter (fun k => k != slot) ++ [slot] else h.cut,
                             dumpArea := if newestDump slot s then h.dumpArea.take landed else h.dumpArea } }

/-- The newest stage whose dump's allowance has ended, and whose dump has not been cut off (R362, R366). -/
def dumpDue (s : State) : Option Stage :=
  s.watch.stages.reverse.find? (fun x => (x.phase == 0) && (x.stage != 4) && !x.test && !x.truncated &&
    decide ((if x.stage = 2 then 1000 else 2000) * Config.us ≤ s.now - x.at_))

/-- A dump's allowance has ended (R362, R366, R446): what has not landed is cut off and the dump is marked. -/
def dumpAllowanceExpiry (landed : Nat) (s : State) : State :=
  match dumpDue s with
  | some x =>
    if landed < dumpSize x.dumpSlot s then
      modStage x.stage x.unit (fun x => { x with truncated := true }) (cutDump x.dumpSlot landed s)
    else s
  | none =>
    let slot := s.power.quiesceSlot
    if s.power.quiesced ∧ 2000 * Config.us ≤ s.now - s.power.quiesceAt ∧ landed < dumpSize slot s then cutDump slot landed s else s

def execDumpAllowanceExpiry (landed : Nat) (s : State) : Out := .next (dumpAllowanceExpiry landed s)

/-- A queue whose completions cannot be written in time (R367): its positions retire in the dump only. -/
def loseCompletions (k : Nat) (q : Queue) (s : State) : State :=
  let row := le 4 k ++ le 4 0 ++ le 8 q.w ++ le 8 q.d
  let slot := ((stageOf 3 0 s).map (·.dumpSlot)).getD 0xFF
  let n := dumpSize slot s
  let s := if slot < 8 then spillWrite (dumpOff slot + n) row s else s
  let h := s.hutch
  let s := { s with watch := { s.watch with lostCompletions := s.watch.lostCompletions ++ [k] },
                    hutch := { h with dumps := if slot < 8 then tset h.dumps slot (n + row.length) else h.dumps,
                                      dumpArea := if newestDump slot s then (h.dumpArea ++ row).take (3 * 2 ^ 20) else h.dumpArea } }
  let s := s.modQ k (fun q => { q with w := q.d, f := q.d, cmds := [], fetched := [], unwritten := [], urgent := false, state := .stopped })
  if s.front.qBusy && s.front.qBusyKey == k then qResult 0 s else s

/-- Completions not written within 10 ms of the order of stage 3 are retired in the dump only (R366 step 3, R367). -/
def completionsAllowanceExpiry (s : State) : State :=
  match stageOf 3 0 s with
  | none => s
  | some x =>
    if x.phase = 0 ∧ 10 * Config.ms ≤ s.now - x.at_ then
      (s.front.queues.filter (fun e => decide (e.2.w < e.2.d) || !e.2.unwritten.isEmpty)).foldl (fun s e => loseCompletions e.1 e.2 s) s
    else s

def execCompletionsAllowanceExpiry (s : State) : Out := .next (completionsAllowanceExpiry s)

/-! ### Compute reset (R366 to R368) -/

/-- A context at step 4 of a compute reset (R368, R360): its fault record, then LOST, its save frames given up with all others;
FREE after a driver teardown that had escalated. -/
def loseContext (c : Nat) (x : Context) (s : State) : State :=
  let lostQ := s.watch.lostCompletions.any (fun k => k / 256 == c)
  let x := { x with cause := x.cause.map (fun (i : FaultInfo) => if lostQ then { i with flags := i.flags ||| 1 } else i) }
  match x.state with
  | .lost => s
  | _ =>
    let s := writeFault c x s
    let s := if x.wantRetire then objResult 0 s.hub.objLast s else s
    if x.cause.isNone && x.escalated then { s with contexts := tdel s.contexts c }
    else
      let x := tgetD s.contexts c x
      { s with contexts := tset s.contexts c { x with state := .lost, wantRetire := false, ordered := [], escalated := false, saveFrames := [] } }

/-- The reset of the hub's command-processing sub-blocks (R366 step 4, R368): configuration and producer counts stay. So does the
count of deadlock verdicts, which R136 counts since block reset. -/
def resetHub (s : State) : State :=
  let cls := s.chest.classes.map (fun c => CellClass.mk0 c.quota c.high c.low c.cut)
  let b := s.bramble
  let c := s.chest
  let d := s.sched
  let w := s.wrd
  let j := s.jnl
  let power := { s.power with tests := [], failedParts := [], calibrating := [],
                              bankPass := s.power.bankPass.map (fun p => (none, p.2)) }
  let watch := { s.watch with hubProgress := List.replicate 8 0, hubSample := List.replicate 8 0,
                              hubHeld := List.replicate 8 s.now, hubFlagged := List.replicate 8 false, lostCompletions := [] }
  let slices := tmapv s.slices (fun _ (y : Slice) => { Slice.reset with fastChannels := y.fastChannels })
  { s with
    objects := [], graphs := [], front := Front.reset, trestle := Trestle.reset,
    bramble := { Bramble.reset with dlkEnable := b.dlkEnable, dlkWindow := b.dlkWindow, dlkCnt := b.dlkCnt },
    slices := slices,
    chest := { Chest.reset with mfpPause := c.mfpPause, classes := cls, retired := c.retired, peak := c.retired.length, mfpHigh := c.mfpHigh, mfpLow := c.mfpLow,
                                hfpHigh := c.hfpHigh, hfpLow := c.hfpLow, bankThreshold := c.bankThreshold,
                                eventStep := c.eventStep, bankRetired := c.bankRetired },
    sched := { Sched.reset with passes := d.passes, gvt := d.gvt, nextJob := d.nextJob, nextRes := d.nextRes,
                                rtBenchMax := d.rtBenchMax, minBat := d.minBat, minInt := d.minInt,
                                evictAfter := d.evictAfter, benchSel := d.benchSel, slotsPerTenant := d.slotsPerTenant,
                                benches := d.benches },
    wrd := { w with leaves := [], models := [], movers := List.replicate 4 Mover.reset, mapoutLast := (0, false), faultChannels := [] },
    jnl := { j with trace := [], traceGap := false, events := [], evtLost := 0, evtMerged := 0, evtWritten := 0 },
    sta := { s.sta with busy := false, valid := false, error := 0, data := List.replicate 8 0 },
    link := { s.link with inbox := [] },
    watch := watch, mgmt := { s.mgmt with patchLevel := 0 }, power := power }

/-- Every queue has retired and reported all its positions. -/
def completionsOut (s : State) : Bool :=
  s.front.queues.all (fun e => (e.2.state == .stopped) && e.2.unwritten.isEmpty)

/-- A RETIRE runs that step 4 of a compute reset waits for (R495): not one whose own teardown escalated to that reset, which ends
with it (R37, R360; log 110). A teardown that has only ordered stage 2 goes on, and its RETIRE is waited for. -/
def retireRuns (s : State) : Bool :=
  s.hub.objBusy && s.contexts.any (fun e => e.2.wantRetire && !(e.2.escalated && e.2.ordered.isEmpty))

/-- Step 4 of a compute reset begins once completions are out and no object or queue command runs (R366, R367, R495). -/
def computeResetAssert (s : State) : State :=
  match stageOf 3 0 s with
  | none => s
  | some x =>
    if x.phase ≠ 0 ∨ s.front.qBusy = true ∨ retireRuns s = true ∨ completionsOut s = false then s else
    let s := s.contexts.foldl (fun s e => loseContext e.1 e.2 s) s
    let s := setBenches (allBenches s) (fun _ => { state := .out, res := none, claim := none }) s
    let s := resetHub s
    setPhase 3 0 1 { s with port := { s.port with prtRst := List.range s.integ.slices } }

def execComputeResetAssert (s : State) : Out := .next (computeResetAssert s)

/-- A map-out in progress ends with the reset (R249): its phase 2 is raised once the hub is ready. -/
def endMapout (s : State) : State :=
  match s.wrd.mapout with
  | none => s
  | some m =>
    let s := mapoutEnd { m with outcome := 3 } s
    { s with wrd := { s.wrd with phase2Due := some m, mapoutLast := (0, false) } }

/-- The reset is released (R366 step 5): benches are FREE with their contents zero, and the frame table is rebuilt:
frames RESERVED, LOST or on a channel mapped out stay, every other is FREE and zero-pending. -/
def computeResetRelease (s : State) : State :=
  match stageOf 3 0 s with
  | none => s
  | some x =>
    if x.phase ≠ 1 then s else
    let s := endMapout s
    let wrd := { s.wrd with hand := 0, frames := tkeep s.wrd.frames (fun _ f => f.state == .reserved || f.state == .lost) }
    setPhase 3 0 2 { s with port := { s.port with prtRst := [] }, mem := { s.mem with scratch := [] },
                            sched := { s.sched with benches := [] }, wrd := wrd }

def execComputeResetRelease (s : State) : Out := .next (computeResetRelease s)

/-- Start-up is complete once MC0 runs and the hub is ready (R418 step 5), if that is within 500 ms of the release. -/
def finishStart (s : State) : State :=
  if s.mgmt.bootStage = 3 ∧ s.watch.hubReady = true ∧ (coreAt 0 s).state = .running then
    if s.now - s.mgmt.bootAt ≤ 500 * Config.ms then
      let hub := { s.hub with devCaps := s.integ.deviceCaps % 2 ^ 8 }
      { s with mgmt := { s.mgmt with bootStage := 4, fwReady := true }, hub := hub }
    else { s with mgmt := { s.mgmt with bootStage := 0xF } }
  else s

/-- The hub is ready (R366 step 6): every slice has reported and the microcode patch is loaded (R421). The pauses of Chest follow its
counts again (R307). -/
def hubReady (s : State) : State :=
  match stageOf 3 0 s with
  | none => s
  | some x =>
    if x.phase = 2 ∧ (List.range s.integ.slices).all x.ready.contains = true ∧ s.bramble.overlay ≠ [] then
      let s := { s with watch := { s.watch with hubReady := true } }
      let s := stageEnd x 0 s
      let s := if x.byCmd then rstDone 0 s else s
      let s := trace 14 0 0xFFFF 0 3 (dropStage 3 0 s)
      let s : State := if x.flr then { s with port := { s.port with dropAll := false } } else s
      let s := match s.wrd.phase2Due with
        | some m => capacityEvent 2 m { s with wrd := { s.wrd with phase2Due := none } }
        | none => s
      finishStart (checkMapout (evalChest s))
    else s

def execHubReady (s : State) : Out := .next (hubReady s)

end Sys2Proof.Machine
end

