-- ==== Sys2Proof/Machine/Hangs.lean ====
section
/-! DEFINITION. Watch's samples and flags (R352 to R355), reports of internal faults (R357), responses of the memory fabric
(R472) and completions of the host fabric (R468). -/

namespace Sys2Proof.Machine

/-! ### Samples (R353) -/

/-- The input of a hub engine holds an item (R352; what each engine's input is, log 25 says). A Journal record that its ring has no
room for is no hang (R390), and an event waits in Chest while its ring is full or off (R405). -/
def hubWork (s : State) : List Bool :=
  [ s.front.queues.any (fun e => (e.2.state == .fetching) && decide (e.2.f < e.2.d)),
    s.front.queues.any (fun e => !e.2.unwritten.isEmpty),
    s.allCmds.any (fun e => e.2.phase == .intake),
    s.trestle.loops.any (fun e => ((e.2.phase == .ended) || ((e.2.phase == .idle) && e.2.awake s)) && s.isActive e.2.ctx),
    !s.sched.jobs.isEmpty,
    s.wrd.models.any (fun e => (e.2.state == .miss) && e.2.frames.isEmpty),
    s.trestle.loops.any (fun e => (e.2.jnl.map (fun j => !j.waiting.isEmpty && decide (j.produced - j.consumed < 2 ^ j.log2))).getD false),
    !s.jnl.events.isEmpty && evtRoom s ]

def Queue.sampled (now : Nat) (q : Queue) : Queue :=
  let q := { q with sampleWas := q.sample }
  if q.enabled && decide (q.w < q.d) && q.progress == q.sample then q else { q with sample := q.progress, heldSince := now }

def Stream.sampled (now : Nat) (x : Stream) : Stream :=
  if x.active && x.progress == x.sample then x
  else { x with sample := x.progress, heldSince := now, flagged := x.flagged && x.progress == x.sample }

def Mover.sampled (now : Nat) (m : Mover) : Mover :=
  if !m.jobs.isEmpty && m.progress == m.sample then m else { m with sample := m.progress, heldSince := now, flagged := none }

def Core.sampled (now : Nat) (c : Core) : Core :=
  if (c.state == .running) && c.progress == c.sample then c else { c with sample := c.progress, heldSince := now }

/-- Watch samples every progress counter (R353): heldSince is the time since which an agent has been busy with its counter
unmoved. A counter that has moved lets its agent be flagged again. Windows written since the last sample are in force from here on (R381,
R439). -/
def watchSample (s : State) : State :=
  let work := hubWork s
  let w := s.watch
  let held := (List.range 8).map (fun e =>
    if work.getD e false && w.hubProgress.getD e 0 == w.hubSample.getD e 0 then w.hubHeld.getD e 0 else s.now)
  let flagged := (List.range 8).map (fun e => w.hubFlagged.getD e false && w.hubProgress.getD e 0 == w.hubSample.getD e 0)
  { s with
    front := { s.front with queues := tmapv s.front.queues (fun _ q => q.sampled s.now) },
    slices := tmapv s.slices (fun _ y => { y with streams := y.streams.map (Stream.sampled s.now) }),
    wrd := { s.wrd with movers := s.wrd.movers.map (Mover.sampled s.now) },
    mgmt := { s.mgmt with cores := s.mgmt.cores.map (Core.sampled s.now), fwInForce := s.mgmt.fwWindow },
    watch := { w with moverInForce := w.moverWindow, hubInForce := w.hubWindow, hubBusy := work, hubSample := w.hubProgress, hubHeld := held, hubFlagged := flagged } }

def execWatchSample (s : State) : Out := .next (watchSample s)

/-! ### Streams (R354, R355) -/

/-- The entry's commands from a place on, to its last (R151). -/
def sideRun (img : List Byte) : Nat → Nat → List SideCmd
  | 0, _ => []
  | n + 1, pc =>
    if imSideLen img < pc + 32 then [] else
    let c := SideCmd.of (slice img (imSideOff img + pc) 32)
    if c.last then [c] else c :: sideRun img n (pc + 32)

/-- The commands an engine holds, running or queued. -/
def engineCmds (img : List Byte) (g : SideEngine) : List SideCmd :=
  match g.place img with
  | none => []
  | some (_, pc) => sideRun img 4096 pc ++ (g.queue.tail.map (fun h => sideRun img 4096 (sideEntry img h.entry))).flatten

/-- The SEND or RECV at the collective port that waits for its peer. -/
def waitingPeer (x : Stream) (img : List Byte) : Option SideCmd :=
  let g := engineAt x 3
  match g.place img with
  | none => none
  | some (_, pc) =>
    let c := SideCmd.of (slice img (imSideOff img + pc) 32)
    if (c.op = 5 ∧ g.busy = true) ∨ (c.op = 6 ∧ g.waiting = true) then some c else none

/-- A stall is a peer wait (R355): the command waited for. -/
def peerWait (x : Stream) (img : List Byte) : Option SideCmd :=
  let names (e : Nat) : Bool := (engineCmds img (engineAt x e)).any (fun c => c.sets == some x.stallFlag)
  let held : Bool :=
    match x.stallCause with
    | 1 => names 3 && !names 1 && !names 2 && !names 4
    | 2 => match x.launch with
      | some _ => decide (Config.sideDepth 3 ≤ sideDepthOf x 3) && (Ctl.of (fld img (imTextOff img + x.pc) 8)).engine == 3
      | none => false
    | 3 => !(engineAt x 3).queue.isEmpty
    | _ => false
  if held then waitingPeer x img else none

/-- A stream has been busy through its window with its counter unmoved, and has not been flagged for it (R353). -/
def streamFlagged (x : Stream) (l : Launch) (s : State) : Bool :=
  x.active && !x.flagged && x.progress == x.sample && decide (l.windowUs * Config.us ≤ s.now - x.heldSince)

/-- The stream is flagged: not again until its counter moves or the action ends, with which the stream is released (R353). -/
def reflag (p st : Nat) (l : Launch) (s : State) : State :=
  trace 13 l.tag l.ctx 0 l.step (s.modStream p st (fun x => { x with flagged := true }))

/-- A stream that hangs (R354): ST_HANG for the run, or its loop's context is torn down. -/
def streamHang (p st : Nat) (s : State) : State :=
  let x := streamAt p st s
  match x.launch with
  | none => s
  | some l =>
    if streamFlagged x l s && (peerWait x (launchImage l s)).isNone then
      let i := FaultInfo.ofStream (FaultInfo.of .hang (2 ^ 28 + l.windowUs % 2 ^ 26) s.now) p st x s
      faultStream p st i (some (0x03, hangPayload 1 p st 0xFF l.windowUs x.progress x.sample x.sample x.advanced)) (reflag p st l s)
    else s

def execStreamHang (p st : Nat) (s : State) : Out := .next (streamHang p st s)

/-- A peer wait through the window (R354, R355, R487): the run takes ST_PEER_TIMEOUT and its context goes on; a loop
step's context is torn down. -/
def peerWaitTimeout (p st : Nat) (s : State) : State :=
  let x := streamAt p st s
  match x.launch with
  | none => s
  | some l =>
    match (if streamFlagged x l s then peerWait x (launchImage l s) else none) with
    | none => s
    | some c =>
      let ws := [2 + p * 2 ^ 8 + st * 2 ^ 16, bits c.aux2 39 24, c.aux2 % 2 ^ 24, l.windowUs]
      let rcd := (ws.map (le 8)).flatten
      let aux := 2 ^ 29 + p * 2 ^ 8 + st
      let s := raiseEvent (ctxEvent s evPeerTimeout l.ctx l.tag ws) (reflag p st l s)
      match l.cmd with
      | some (k, pos) =>
        let s := hutchRec 0x0C { ctxHead s l.ctx l.tag with part := p } rcd s
        match (s.cmd k pos).bind (·.latch) with
        | some _ => s
        | none =>
          let s := s.modC k pos (fun m => { m.take .peerTimeout aux with stopping := true })
          requestStops (streamsOf (fun y => y.cmd == some (k, pos)) s) s
      | none => beginTeardown l.ctx true (FaultInfo.ofStream (FaultInfo.of .peerTimeout aux s.now) p st x s) (some (0x0C, rcd)) s

def execPeerWaitTimeout (p st : Nat) (s : State) : Out := .next (peerWaitTimeout p st s)

/-! ### Page movers and hub engines (R354) -/

/-- The job a mover runs: the oldest of its foreground jobs, else of all (R505). -/
def Mover.runs (x : Mover) : Option MoveJob := (x.jobs.find? (fun j => !j.background)).or x.jobs.head?

/-- The command whose transfer a mover runs: OP_COPY, OP_FILL, or the OP_MODEL_LOAD of a model being loaded. -/
def moverCmd (m : Nat) (s : State) : Option (Nat × Nat) :=
  match (s.wrd.movers[m]?).bind Mover.runs with
  | none => none
  | some j =>
    match j.kind with
    | .copy c q pos _ _ => some (qkey c q, pos)
    | .fill c q pos _ _ => some (qkey c q, pos)
    | .model k _ _ =>
      ((tget s.wrd.models k).filter (fun x => x.state == .loading)).bind (fun x => x.waiters.head?.map (fun w => (qkey w.1 w.2.1, w.2.2)))
    | _ => none

/-- A hub fault of an agent with a HANG record (R354, R356). -/
def hubHang (payload : List Byte) (s : State) : State := orderStage3 9 false false (hutchRec 0x03 RecHead.blank payload s)

/-- A page mover's hang costs the context of the command it runs (R354). The command's latch may be taken already: an abort whose
stop the mover does not confirm is ended by the escalation that the flag starts, so the teardown follows all the same (R85; log
108). -/
def hangCmd (k pos : Nat) (info : FaultInfo) (rcd : List Byte) (s : State) : State :=
  match s.cmd k pos with
  | none => s
  | some c =>
    match c.latch with
    | some _ => beginTeardown (k / 256) true { info with queue := k % 256, seq := pos + 1, tag := eTag c.entry } (some (0x03, rcd)) s
    | none => faultCmd k pos info (some (0x03, rcd)) s

/-- A page mover that hangs (R354). It is not flagged again until its counter moves or it runs another job (R353). -/
def moverHang (m : Nat) (s : State) : State :=
  match s.wrd.movers[m]? with
  | none => s
  | some x =>
    let job := x.runs.map (·.id)
    if job.isSome && x.flagged != job && x.progress == x.sample && decide (s.watch.moverInForce * Config.ms ≤ s.now - x.heldSince) then
      let us := s.watch.moverInForce * 1000
      let rcd := hangPayload 2 m 0xFF 0xFF us x.progress x.sample x.sample x.advanced
      let cmd := moverCmd m s
      let s := { s with wrd := { s.wrd with movers := s.wrd.movers.modify m (fun x => { x with flagged := job }) } }
      let s := trace 13 0 0xFFFF 0 m s
      match cmd with
      | some (k, pos) => hangCmd k pos (FaultInfo.of .hang (2 ^ 29 + us) s.now) rcd s
      | none => hubHang rcd s
    else s

def execMoverHang (m : Nat) (s : State) : Out := .next (moverHang m s)

/-- A hub engine that hangs (R354). -/
def hubEngineHang (h : HubEngine) (s : State) : State :=
  let e := hubCode h
  let w := s.watch
  let counter := w.hubProgress.getD e 0
  if w.hubBusy.getD e false && (hubWork s).getD e false && !w.hubFlagged.getD e false && counter == w.hubSample.getD e 0 &&
      decide (w.hubInForce * Config.ms ≤ s.now - w.hubHeld.getD e 0) then
    let s := { s with watch := { w with hubFlagged := w.hubFlagged.set e true } }
    hubHang (hangPayload 3 e 0xFF 0xFF (w.hubInForce * 1000) counter counter counter (w.hubAdvanced.getD e 0)) (trace 13 0 0xFFFF 0 e s)
  else s

def execHubEngineHang (e : HubEngine) (s : State) : Out := .next (hubEngineHang e s)

/-! ### Internal faults (R357) -/

/-- The run or loop step of a stream ends with a fault that a unit reports, and the launch's streams stop. -/
def unitFault (p st : Nat) (i : FaultInfo) (rcd : Option (Nat × List Byte)) (s : State) : State :=
  match (streamAt p st s).launch with
  | none => s
  | some l =>
    let s := faultStream p st i rcd s
    requestStops (streamsOf (sameLaunch l) s) s

/-- Information of a stream's fault at its present bundle, or at the bundle that posted an engine's entry. -/
def unitInfo (p st : Nat) (status : Status) (code : Nat) (posted : Option Posted) (core : Nat) (s : State) : FaultInfo :=
  let x := streamAt p st s
  let off := (posted.map (·.textOffset)).getD x.pc
  let aux := if status = .engineFault then code * 2 ^ 24 + off / 16 % 2 ^ 24 else code
  let i := FaultInfo.ofStream (FaultInfo.of status aux s.now) p st x s
  { i with textOffset := off, cycle := (posted.map (·.cycle)).getD x.cycle, core := core }

/-- A fault teardown for state that one context alone has in hub SRAM (R357 aux 4), with its MEM_ERROR record. -/
def ownStateLost (c queue seqId bank : Nat) (s : State) : State :=
  beginTeardown c true { FaultInfo.of .memUncorrectable 4 s.now with queue := queue }
    (some (0x08, memErr 2 4 0xFFFF 0xFFFFFFFF bank seqId queue 0)) s

/-- An uncorrectable error in a word of on-block SRAM outside Chest: its context is lost (R357), the hub's shared state makes a
machine check (R378), and a slice's own makes a partition reset (R365). -/
def sramLost (w : SramWord) (bank : Nat) (s : State) : State :=
  match w with
  | .queueWord c q => if (s.queue c q).isSome then ownStateLost c q 0 bank s else s
  | .objEntry c i => if (tget s.objects (objKey c i)).isSome then ownStateLost c 0xFFFF 0 bank s else s
  | .seqRecord i =>
    match tget s.trestle.seqs i with
    | some q => ownStateLost q.ctx 0xFFFF q.seqId bank s
    | none => s
  | .shared addr => machineCheck 5 0 addr s
  | .slice p => if p < s.integ.slices then orderStage2 p 4 false false s else s

/-- A unit reports an internal fault, or its SRAM an uncorrectable error (R357). -/
def engineFaultReport (u : FaultUnit) (s : State) : State :=
  let live (p st : Nat) : Bool := (streamAt p st s).active
  let posted (p st eng : Nat) : Option Posted := (engineAt (streamAt p st s) eng).queue.head?
  match u with
  | .core p st core => if live p st then unitFault p st (unitInfo p st .engineFault 6 none core s) none s else s
  | .scratch p st core =>
    if live p st then
      let id := (((streamAt p st s).launch).map Launch.queueSeq).getD (0xFFFF, 0)
      unitFault p st (unitInfo p st .memUncorrectable 3 none core s) (some (0x08, memErr 0 3 0xFFFF 0xFFFFFFFF 0 0 id.1 id.2)) s
    else s
  | .side p st eng => if live p st then unitFault p st (unitInfo p st .engineFault 7 (posted p st eng) 0 s) none s else s
  | .collective p st => if live p st then unitFault p st (unitInfo p st .engineFault 8 (posted p st 3) 0 s) none s else s
  | .mover m =>
    match moverCmd m s with
    | some (k, pos) => faultCmd k pos (FaultInfo.of .engineFault (7 * 2 ^ 24) s.now) none s
    | none => orderStage3 9 false false s
  | .sram w bank => sramLost w bank s

def execEngineFaultReport (u : FaultUnit) (s : State) : Out := .next (engineFaultReport u s)

/-! ### Memory fabric (R472) -/

/-- The frame at an address holds a KV page. -/
def kvAt (tier : Tier) (addr : Nat) (s : State) : Bool :=
  let f := frameOfAddr tier addr s
  isFrame f s && (frameTier f s == tier) && holdsPage f s

/-- A read of program text failed (R375): in LOADING the launch is asked for again, since no bundle has issued; later the read is retried
once, then the run or step ends. -/
def textFailed (p st : Nat) (tier : Tier) (addr : Nat) (s : State) : State :=
  let x := streamAt p st s
  match x.launch with
  | none => s
  | some l =>
    if !x.active then s
    else if x.state = .loading then launchRetryRequest p st 3 s
    else if !x.textRetry then
      let s := hutchRec 0x0D { ctxHead s l.ctx l.tag with part := p } (le 1 p ++ le 1 st ++ le 1 3 ++ le 1 1 ++ zeros 28) s
      s.modStream p st (fun x => { x with textRetry := true })
    else
      unitFault p st (unitInfo p st .memUncorrectable 2 none 0 s)
        (some (0x08, memErrAt tier 2 addr 0 l.queueSeq.1 l.queueSeq.2 s)) s

/-- A host access of a context fails outside a command, or a fabric request made for it finds no memory: fault teardown (R44, R66,
R472). -/
def hostFault (c queue pos tag addr : Nat) (s : State) : State :=
  beginTeardown c true { FaultInfo.of .access 0xFFFFFFFF s.now with queue := queue, seq := pos, tag := tag, address := addr } none s

/-- The context whose page or saved state a job of a page mover carries. -/
def carriedFor (m : Nat) (s : State) : Option Nat :=
  ((s.wrd.movers[m]?).bind Mover.runs).bind (fun j =>
    j.ctx.or (match j.kind with
      | .page a b .. => ((frameLoop b s).or (frameLoop a s)).map (fun l => l.2.ctx)
      | .cow a b => ((frameLoop b s).or (frameLoop a s)).map (fun l => l.2.ctx)
      | .saveMove a _ => saveOwner a s
      | _ => none))

/-- The sequence whose page an engine's side command reads. -/
def readerSeq (p st eng : Nat) (s : State) : Option Nat :=
  let x := streamAt p st s
  x.launch.bind (fun l => (begunSide (engineAt x eng) l s).bind (fun c =>
    if c.op = 2 ∨ c.op = 4 then (recordEntry l (c.aux1 % 4096) s).map (·.1) else none))

/-- A page that a frame holds is reported uncorrectable by the read of a side command: a holder whose read it was is reported to Trestle
before stage 1 (R250). -/
def pageUnreadable (p st eng : Nat) (tier : Tier) (addr : Nat) (s : State) : State :=
  let f := frameOfAddr tier addr s
  let f := (movingTo f s).getD f
  match (readerSeq p st eng s).filter (fun i => (holdersOf f s).any (fun h => h.1 == i)) with
  | some i => reportLost i f (uncorrectableFrame tier addr s)
  | none => uncorrectableFrame tier addr s

/-- The queue of PAYLOAD cells that data of the hub channel take (R307, R309; log 29). -/
def hubDataQueue : Nat := 2 ^ 24

/-- Data of the hub channel arrive: they take a cell, from the skid reserve while FC_MFP_PAUSE is asserted, and their consumer releases it
with RELEASE (R309, R312). -/
def hubData (tier : Tier) (addr : Nat) (s : State) : State :=
  let l : Loc := { space := tierSpace tier, addr := addr / 64 * 64 }
  let r := itemReq 2 hubDataQueue none (addr / 64) 1 (some (memRead l 64 s))
  match takeCells r s with
  | some t => t
  | none =>
    if !s.chest.mfpPause then takeOrWait r s
    else match (if grantsSkid 2 1 s then linkWhole r s else none) with
    | some t => evalChest t
    | none => machineCheck 3 0 0 s

/-- A response of the memory fabric (R472): a KV page at the address is lost; a command or step that read or wrote it
faults; a shared hub structure is a machine check. Data of the hub channel take a cell, and make a machine check where the skid reserve
is exhausted too (R309). -/
def mfpResponse (who : MfpWho) (tier : Tier) (addr : Nat) (status : MfpStatus) (s : State) : State :=
  match status with
  | .ok => if who = .hubShared then hubData tier addr s else s
  | .uncorrectable =>
    match who with
    | .side p st eng =>
      if kvAt tier addr s then pageUnreadable p st eng tier addr s
      else match (streamAt p st s).launch with
      | some l =>
        if (streamAt p st s).active then
          unitFault p st (unitInfo p st .memUncorrectable 2 ((engineAt (streamAt p st s) eng).queue.head?) 0 s)
            (some (0x08, memErrAt tier 2 addr 0 l.queueSeq.1 l.queueSeq.2 s)) s
        else s
      | none => s
    | .text p st => if kvAt tier addr s then uncorrectableFrame tier addr s else textFailed p st tier addr s
    | .mover m =>
      if kvAt tier addr s then uncorrectableFrame tier addr s
      else match moverCmd m s, carriedFor m s with
      | some (k, pos), _ => tierFaultCmd k pos 2 tier addr s
      | none, some c => beginTeardown c true { FaultInfo.of .memUncorrectable 2 s.now with address := addr }
          (some (0x08, memErrAt tier 2 addr 0 0xFFFF 0 s)) s
      | none, none => s
    | .hubShared => machineCheck 5 0 addr s
  | .decodeError =>
    match who with
    | .hubShared => machineCheck 5 0 addr s
    | .side p st eng =>
      if (streamAt p st s).active then
        unitFault p st { unitInfo p st .access 0xFFFFFFFF ((engineAt (streamAt p st s) eng).queue.head?) 0 s with address := addr } none s
      else s
    | .text p st =>
      if (streamAt p st s).active then
        unitFault p st { unitInfo p st .access 0xFFFFFFFF none 0 s with address := addr } none s
      else s
    | .mover m =>
      match moverCmd m s, carriedFor m s with
      | some (k, pos), _ => faultCmd k pos { FaultInfo.of .access 0xFFFFFFFF s.now with address := addr } none s
      | none, some c => hostFault c 0xFFFF 0 0 addr s
      | none, none => s

def execMfpResponse (who : MfpWho) (tier : Tier) (addr : Nat) (status : MfpStatus) (s : State) : Out :=
  .next (mfpResponse who tier addr status s)

/-! ### Host fabric (R468) -/

/-- Data that a host read brings, deposited at its address in a context's space (log 1). -/
def hostData (c addr : Nat) (b : List Byte) (s : State) : State :=
  match tget s.contexts c with
  | some x => memWrite (ctxLoc x.rcd addr) b s
  | none => s

/-- The tag of the command whose signal's write-through is under way (R119). -/
def throughTag (c q pos : Nat) (s : State) : Nat :=
  ((s.bramble.through.find? (fun e => e.1 == qkey c q && e.2.1 == pos)).map (·.2.2)).getD 0

/-- A write-through of a command's signal has its completion (R119). -/
def throughDone (c q pos : Nat) (s : State) : State :=
  { s with bramble := { s.bramble with through := s.bramble.through.eraseP (fun e => e.1 == qkey c q && e.2.1 == pos) } }

/-- A completion of the host fabric port (R468): data, or an access fault of what made the access (R44, R66, R119). -/
def hfpCompletion (who : HfpWho) (rd : HostRead) (s : State) : State :=
  match rd with
  | .ok b =>
    match who with
    | .queue c _ addr => hostData c addr b s
    | .fence c q pos _ => throughDone c q pos s
    | .side p st _ addr =>
      match (streamAt p st s).launch with
      | some l => hostData l.ctx addr b s
      | none => s
    | .mover m addr =>
      match moverCmd m s with
      | some (k, _) => hostData (k / 256) addr b s
      | none => s
    | .context c addr => hostData c addr b s
    | .physical addr => memWrite (pfLoc addr) b s
  | _ =>
    match who with
    | .queue c q addr => hostFault c q 0 0 addr s
    | .fence c q pos addr => hostFault c q (pos + 1) (throughTag c q pos s) addr (throughDone c q pos s)
    | .side p st eng addr =>
      if (streamAt p st s).active then
        unitFault p st { unitInfo p st .access 0xFFFFFFFF ((engineAt (streamAt p st s) eng).queue.head?) 0 s with address := addr } none s
      else s
    | .mover m addr =>
      match moverCmd m s with
      | some (k, pos) => faultCmd k pos { FaultInfo.of .access 0xFFFFFFFF s.now with address := addr } none s
      | none => s
    | .context c addr => hostFault c 0xFFFF 0 0 addr s
    | .physical _ => s

def execHfpCompletion (who : HfpWho) (rd : HostRead) (s : State) : Out := .next (hfpCompletion who rd s)

end Sys2Proof.Machine
end

