-- ==== Sys2Proof/Machine/Gcm.lean ====
section
/-! DEFINITION. AES-256 (FIPS 197) in Galois/Counter Mode (NIST SP 800-38D), which R422 and R423 name for microcode patches. -/

namespace Sys2Proof.Machine

/-! ### The block cipher -/

/-- A byte of the field times x, modulo x⁸ + x⁴ + x³ + x + 1. -/
def gfTwice (a : Nat) : Nat := if a < 128 then 2 * a else (2 * a) % 256 ^^^ 0x1B

/-- The product of two bytes of the field, by the lowest n bits of the second. -/
def gfMul : Nat → Nat → Nat → Nat
  | 0, _, _ => 0
  | n + 1, a, b => (if b % 2 = 1 then a else 0) ^^^ gfMul n (gfTwice a) (b / 2)

/-- The inverse of a byte of the field, as its 254th power; 0 for 0. -/
def gfInv (a : Nat) : Nat :=
  ([1, 2, 3, 4, 5, 6, 7].foldl (fun (x : Nat × Nat) _ => let q := gfMul 8 x.1 x.1; (q, gfMul 8 x.2 q)) (a, 1)).2

/-- The substitution of a byte: its inverse, each bit mixed with the four above it, and 0x63 added. -/
def subByte (a : Nat) : Nat :=
  let b := gfInv a
  let turn (n : Nat) : Nat := (b * 2 ^ n) % 256 + b / 2 ^ (8 - n)
  b ^^^ turn 1 ^^^ turn 2 ^^^ turn 3 ^^^ turn 4 ^^^ 0x63

/-- Bytes added in the field, place by place. -/
def xorBytes (a b : List Nat) : List Nat := a.zipWith (· ^^^ ·) b

/-- The next n words of the key schedule; words so far newest first, their number, and the round constant. -/
def keyWords : Nat → Nat → Nat → List (List Nat) → List (List Nat)
  | 0, _, _, ws => ws
  | n + 1, i, rc, ws =>
    let t := ws.headD []
    let mixed :=
      if i % 8 = 0 then xorBytes ((t.drop 1 ++ t.take 1).map subByte) [rc, 0, 0, 0]
      else if i % 8 = 4 then t.map subByte else t
    keyWords n (i + 1) (if i % 8 = 0 then gfTwice rc else rc) (xorBytes (ws.getD 7 []) mixed :: ws)

/-- The fifteen round keys of a 32-byte key. -/
def roundKeys (key : List Nat) : List (List Nat) :=
  let first := (List.range 8).map (fun i => (key.drop (4 * i)).take 4)
  let ws := (keyWords 52 8 1 first.reverse).reverse
  (List.range 15).map (fun r => ((ws.drop (4 * r)).take 4).flatten)

/-- The bytes of a column mixed: 2, 3, 1, 1 of each and its successors. -/
def mixColumn (c : List Nat) : List Nat :=
  (List.range 4).map (fun r =>
    let at_ (k : Nat) : Nat := c.getD ((r + k) % 4) 0
    gfTwice (at_ 0) ^^^ gfTwice (at_ 1) ^^^ at_ 1 ^^^ at_ 2 ^^^ at_ 3)

/-- Bytes substituted, and row r of the block turned by r places. -/
def subShift (b : List Nat) : List Nat := (List.range 16).map (fun i => subByte (b.getD ((i + 4 * (i % 4)) % 16) 0))

def mixColumns (b : List Nat) : List Nat := ((List.range 4).map (fun c => mixColumn ((b.drop (4 * c)).take 4))).flatten

/-- A block of 16 bytes under the round keys. -/
def aesBlock (ks : List (List Nat)) (b : List Nat) : List Nat :=
  let start := xorBytes b (ks.headD [])
  let mid := ((ks.drop 1).take 13).foldl (fun b k => xorBytes (mixColumns (subShift b)) k) start
  xorBytes (subShift mid) (ks.getD 14 [])

/-! ### The mode -/

/-- A 128-bit number as a block goes through the cipher. -/
def cipherNat (ks : List (List Nat)) (n : Nat) : Nat :=
  (aesBlock ks ((be 16 n).map (·.toNat))).foldl (fun a b => a * 256 + b) 0

/-- The product in the field of the mode, whose first bit is the coefficient of 1: by the n lowest places of x. -/
def ghashMul : Nat → Nat → Nat → Nat
  | 0, _, _ => 0
  | n + 1, x, v =>
    (if x.testBit n then v else 0) ^^^ ghashMul n x (if v % 2 = 1 then v / 2 ^^^ (0xE1 * 2 ^ 120) else v / 2)

/-- Bytes in blocks of 16, the last padded with zeros. -/
def blocks16 (bs : List Byte) : List (List Byte) := (List.range ((bs.length + 15) / 16)).map (fun i => padTo 16 (slice bs (16 * i) 16))

/-- The hash of additional data and ciphertext under h. -/
def ghash (h : Nat) (aad ct : List Byte) : Nat :=
  let bs := (blocks16 aad ++ blocks16 ct).map beNat ++ [8 * aad.length * 2 ^ 64 + 8 * ct.length]
  bs.foldl (fun y b => ghashMul 128 (y ^^^ b) h) 0

/-- The plaintext of a ciphertext under a 32-byte key and a 12-byte nonce; none where the tag does not match. -/
def gcmOpen (key iv aad ct tag : List Byte) : Option (List Byte) :=
  let ks := roundKeys (key.map (·.toNat))
  let j := beNat iv * 2 ^ 32
  if beNat tag = ghash (cipherNat ks 0) aad ct ^^^ cipherNat ks (j + 1) then
    some (((blocks16 ct).zipIdx.map (fun e => be 16 (beNat e.1 ^^^ cipherNat ks (j + (2 + e.2) % 2 ^ 32)))).flatten.take ct.length)
  else none

end Sys2Proof.Machine
end

