-- ==== Sys2Proof/Machine/Power.lean ====
section
/-! DEFINITION. The Limiter (R440 to R443), shed levels (R444 to R446), clock requests (R447 to R449), self-test, bank test,
calibration, scrub and telemetry (R450 to R456). -/

namespace Sys2Proof.Machine

/-! ### Demands (R441, R443) -/

/-- The hottest temperature input and its sensor, 63 for the hub; the lowest sensor of equals. -/
def hottest (s : State) : Nat × Nat :=
  let ps := (List.range s.integ.slices).map (fun p => ((vfAt p s).temp, p))
  (ps ++ [(s.power.hubTemp, 63)]).foldl (fun (a b : Nat × Nat) => if a.1 < b.1 then b else a) (0, 0)

/-- The demand of the temperature inputs: a threshold demands from its value on, until 3 °C below it. -/
def temperatureDemand (s : State) : Nat :=
  let t := (hottest s).1
  let w := s.power
  let on (e : Nat × Nat) : Bool := decide (e.2 ≤ t) || (decide (e.1 ≤ w.tempDemand) && decide (e.2 < t + 3))
  ([(1, w.tWarn), (3, w.tHigh), (5, w.tCrit), (6, s.integ.tMax)].filter on).foldl (fun a e => max a e.1) 0

def sagDemand (k : Nat) : Nat := min k 6

/-- The highest demand of the triggers other than forced_level. -/
def triggerDemand (s : State) : Nat :=
  let w := s.power
  let low : Nat := if w.vf.any (fun e => e.2.low) then 3 else 0
  let late : Nat := if w.vf.any (fun e => e.2.late) then 6 else 0
  max (max (sagDemand w.sag) (if w.therm then 4 else 0)) (max (max low late) w.tempDemand)

/-- The highest current demand (R441). -/
def demand (s : State) : Nat := max (triggerDemand s) s.power.forced

/-- The emergency flag (R443). -/
def emergency (s : State) : Bool := decide (2 ≤ triggerDemand s)

/-- The causes of PWR_STS (R457), PWR_SAG lowest. -/
def shedCauses (s : State) : Nat :=
  let w := s.power
  b2n (decide (1 ≤ w.sag)) + 2 * b2n w.therm + 4 * b2n (decide (1 ≤ w.tempDemand)) +
  8 * b2n (w.vf.any (fun e => e.2.low)) + 16 * b2n (decide (1 ≤ w.forced))

/-! ### The level (R442, R444, R446, R449) -/

/-- EV_SHED_LEVEL (R449). -/
def shedEvent (old new : Nat) (s : State) : State :=
  let h := hottest s
  raiseEvent (mkEvent s evShedLevel 0xFFFF 0xFFFF 0 0 0xFFFFFF
    [old + new * 2 ^ 8 + shedCauses s * 2 ^ 16, s.power.sag, h.2 + h.1 % 256 * 2 ^ 8, b2n (emergency s)]) s

/-- A command that waits in an executor retires with ST_SHED and the level. -/
def shedCmd (k pos : Nat) (s : State) : State := dropShadows (finish k pos .shed s.power.level s)

/-- Requested bank tests that wait for the pass in progress, oldest first (R455). -/
def waitingBankTests (s : State) : List (Nat × Nat) :=
  let mine : Option (Nat × Nat) := s.power.bankPass.bind (·.1)
  let l := s.allCmds.filter (fun e => (eOp e.2.entry == 0x14) && (fld e.2.entry 16 1 == 2) && e.2.started && e.2.running &&
    e.2.latch.isNone && (mine != some (e.1, e.2.pos)))
  (sortBy (fun a b => decide (a.2.order < b.2.order)) l).map (fun e => (e.1, e.2.pos))

/-- Queued self-tests retire when the level reaches S1 (R453). -/
def shedTests (s : State) : State :=
  let q := s.power.tests.filter (fun t => !t.2.2.2.1)
  let s := s.modPower (fun w => { w with tests := w.tests.filter (fun t => t.2.2.2.1) })
  let s := { s with sched := { s.sched with unusable := s.sched.unusable.filter (fun p =>
      !q.any (fun t => t.1 == p) || (stageOf 2 p s).isSome || s.power.tests.any (fun t => t.1 == p)) } }
  let s := q.foldl (fun s t => shedCmd t.2.1 t.2.2.1 s) s
  (waitingBankTests s).foldl (fun s e => shedCmd e.1 e.2 s) s

/-- Jobs of commands that wait for benches retire at S6 (R446). -/
def shedJobs (s : State) : State :=
  s.sched.jobs.foldl (fun s e => match e.2.cmd with
    | some (k, pos) => shedCmd k pos (dropJob e.1 s)
    | none => s) s

/-- Every loop is woken (R184): a fall of the shed level. -/
def wakeLoops (s : State) : State :=
  { s with trestle := { s.trestle with loops := tmapv s.trestle.loops (fun _ lp => { lp with woken := true }) } }

/-- The level changes: its event, the actions of the levels passed, placement and clock requests (R444); a fall wakes every idle
loop (R184). -/
def setLevel (new : Nat) (s : State) : State :=
  let old := s.power.level
  let s := s.modPower (fun w =>
    { w with level := new, levelChanges := satInc 16 w.levelChanges, quiesced := w.quiesced && decide (6 ≤ new),
             s6At := if old < 6 ∧ 6 ≤ new then s.now else w.s6At })
  let s := shedEvent old new s
  let s := if new < old then wakeLoops s else s
  let s := if 1 ≤ new then shedTests s else s
  let s := if 6 ≤ new then shedJobs s else s
  requestCodes (decisionPass s)

/-- A trigger or threshold has changed: the level rises to the highest demand at once, and its hold starts when every
demand falls below it (R442). The Limiter is held in reset with the block. -/
def limiter (f : State → State) (s : State) : State :=
  if !s.port.blkRstN then f s else
  let below := decide (demand s < s.power.level)
  let s := f s
  let s := s.modPower (fun w => { w with tempDemand := temperatureDemand s })
  let d := demand s
  let s := if below && decide (d < s.power.level) then s else s.modPower (fun w => { w with belowSince := s.now })
  if s.power.level < d then setLevel d s else requestCodes s

/-- PWR_SAG (R441). -/
def execPwrSag (k : Nat) (s : State) : Out :=
  .next (limiter (fun s => s.modPower (fun w => { w with sag := k % 8 })) s)

/-- THERM_ALERT_N (R441). -/
def execThermAlert (asserted : Bool) (s : State) : Out :=
  .next (limiter (fun s => s.modPower (fun w => { w with therm := asserted })) s)

/-- A temperature input (R441, R478): a partition's, or the hub's as 63. -/
def temperatureInput (sensor temp : Nat) (s : State) : State :=
  limiter (fun s =>
    if sensor = 63 then s.modPower (fun w => { w with hubTemp := temp % 256 })
    else if sensor < s.integ.slices then s.modVf sensor (fun v => { v with temp := temp % 256 })
    else s) s

def execTemperatureInput (sensor temp : Nat) (s : State) : Out := .next (temperatureInput sensor temp s)

/-- The cap falls by 4 codes, not below floor_code (R447). -/
def lowerCap (floor cap : Nat) : Nat := min cap (max floor (cap - 4))

/-- A partition's supply has been below vmin_mv for 1 us (R441, R447). -/
def vminTimer (p mv : Nat) (s : State) : State :=
  if s.integ.slices ≤ p then s else
  limiter (fun s =>
    if mv < s.integ.vminMv then
      s.modVf p (fun v => { v with supply := mv, low := true, cap := lowerCap s.power.floorCode v.cap })
    else s.modVf p (fun v => { v with supply := mv, low := false })) s

def execVminTimer (p mv : Nat) (s : State) : Out := .next (vminTimer p mv s)

/-- The next step of a partition's cap (R447): down while its supply is low, up once it has recovered. -/
def limiterCapStep (p mv : Nat) (s : State) : State :=
  if s.integ.slices ≤ p then s else
  limiter (fun s =>
    if mv < s.integ.vminMv then s.modVf p (fun v => { v with supply := mv, cap := lowerCap s.power.floorCode v.cap })
    else s.modVf p (fun v => { v with supply := mv, low := false, cap := min s.integ.fmax (v.cap + 4) })) s

def execLimiterCapStep (p mv : Nat) (s : State) : Out := .next (limiterCapStep p mv s)

/-- The power controller grants a code (R448): above the request it counts and is the request. -/
def vfGrant (p code : Nat) (s : State) : State :=
  if s.integ.slices ≤ p then s else
  limiter (fun s => s.modVf p (fun v =>
    { v with granted := min code v.requested, late := false,
             overgrants := if v.requested < code then satInc 8 v.overgrants else v.overgrants })) s

def execVfGrant (p code : Nat) (s : State) : Out := .next (vfGrant p code s)

/-- A lowering request has not been granted within 50 us (R448). -/
def vfGrantTimeout (p : Nat) (s : State) : State :=
  let v := vfAt p s
  if p < s.integ.slices ∧ v.requested < v.granted ∧ 50 * Config.us ≤ s.now - v.since then
    limiter (fun s => s.modVf p (fun v => { v with late := true })) s
  else s

def execVfGrantTimeout (p : Nat) (s : State) : Out := .next (vfGrantTimeout p s)

/-- Every demand has stayed below the level for hold_ms: the level falls by one and the hold starts again (R442). -/
def shedHoldExpiry (s : State) : State :=
  if demand s < s.power.level ∧ s.power.holdMs * Config.ms ≤ s.now - s.power.belowSince then
    setLevel (s.power.level - 1) (s.modPower (fun w => { w with belowSince := s.now }))
  else s

def execShedHoldExpiry (s : State) : Out := .next (shedHoldExpiry s)

/-- No step, run, save or restore is in progress (R446). -/
def computeIdle (s : State) : Bool := s.sched.residencies.all (fun e => !e.2.running && !e.2.moving)

/-- The quiesce at S6 (R446): STAGE record, dump, quiesced. -/
def quiesceDump (s : State) : State :=
  if s.power.level = 6 ∧ s.power.quiesced = false ∧ (computeIdle s = true ∨ 10 * Config.ms ≤ s.now - s.power.s6At) then
    let slot := nextDump s
    let s := stageRec 0 0 11 slot 0 0 0xFF s
    (writeDump (dump3 s) s).modPower (fun w => { w with quiesced := true, quiesceAt := s.now, quiesceSlot := slot })
  else s

def execQuiesceDump (s : State) : Out := .next (quiesceDump s)

/-! ### Self-test of a partition (R453, R454) -/

/-- Claims of jobs on a partition are withdrawn (R273, R453). -/
def withdrawPart (p : Nat) (s : State) : State :=
  (((partBenches p).filterMap (fun b => (benchAt b s).claim)).eraseDups).foldl (fun s id => withdrawClaims id s) s

/-- A bench of the partition is not FREE, or a self-test is queued or running on it. -/
def partBusy (p : Nat) (s : State) : Bool :=
  (partBenches p).any (fun b => (benchAt b s).state != .free) || s.power.tests.any (fun t => t.1 == p)

/-- The next requested bank test begins its pass in MC3's mailbox (R455). -/
def nextBankTest (s : State) : State :=
  match s.power.bankPass, waitingBankTests s with
  | none, (k, pos) :: _ => pushWork 3 (.bankTest 0) (s.modPower (fun w => { w with bankPass := some (some (k, pos), 0, 0, s.now) }))
  | _, _ => s

/-- OP_SELFTEST (R453, R455): from a context of the physical function only; busy and reject_if_busy gives ST_BUSY. A test that would
be queued at S1 or above retires with ST_SHED at once. -/
def opSelftest (c q pos : Nat) (s : State) : State :=
  let k := qkey c q
  match starting k pos 0x14 s with
  | none => s
  | some m =>
    let s := begun k pos s
    let target := fld m.entry 16 1
    let reject := bit (fld m.entry 17 1) 0
    let p := fld m.entry 18 2
    if s.fnOf c ≠ 0 then finish k pos .access 1 s
    else if target = 1 then
      if reject && partBusy p s then finish k pos .busy 3 s
      else if 1 ≤ s.power.level then shedCmd k pos s
      else
        let un := if s.sched.unusable.contains p then s.sched.unusable else s.sched.unusable ++ [p]
        let s := s.modPower (fun w => { w with tests := w.tests ++ [(p, k, pos, false, 0)] })
        decisionPass (withdrawPart p (pushWork 3 (.selftest p) { s with sched := { s.sched with unusable := un } }))
    else if reject && s.power.bankPass.isSome then finish k pos .busy 3 s
    else if 1 ≤ s.power.level then shedCmd k pos s
    else nextBankTest s

def execOpSelftest (c q pos : Nat) (s : State) : Out := .next (opSelftest c q pos s)

/-- All four benches are FREE: they go OUT and MC3 runs the test (R453 step 2). -/
def selftestRun (p : Nat) (s : State) : State :=
  if !hasService 3 (.selftest p) s || (stageOf 2 p s).isSome then s
  else if s.power.tests.any (fun t => t.1 == p && t.2.2.2.1) then s
  else match s.power.tests.find? (fun t => t.1 == p) with
    | none => s
    | some t =>
      if (partBenches p).all (fun b => (benchAt b s).state == .free) then
        let s := setBenches (partBenches p) (fun _ => { state := .out, res := none, claim := none }) s
        s.modPower (fun w => { w with tests := (w.tests.erase t) ++ [(p, t.2.1, t.2.2.1, true, s.now)] })
      else s

def execSelftestRun (p : Nat) (s : State) : Out := .next (selftestRun p s)

/-- The test of a partition has run with a detail (R453 step 3, R454): the partition is reset, and the end of that reset writes the
result; a failure is counted and logged, and its benches stay OUT. -/
def selftestDone (p detail : Nat) (s : State) : State :=
  let d := detail % 256
  if !hasService 3 (.selftest p) s || (stageOf 2 p s).isSome || !s.power.tests.any (fun t => t.1 == p && t.2.2.2.1) ||
     s.watch.stages.any (fun x => x.stage == 3 || x.stage == 4) then s
  else modStage 2 p (fun x => { x with detail := d }) (orderStage2 p 7 false true (if d = 0 then s else failTest p s))

def execSelftestDone (p detail : Nat) (s : State) : Out := .next (selftestDone p detail s)

/-! ### Bank tests (R455) -/

/-- A hub SRAM bank holds no live data (R455): no cell of a Chest bank is held; whether another bank holds data is a free value
(log 119). -/
def bankIdle (b : Nat) (s : State) : Bool :=
  if b < 64 then !s.chest.queues.any (fun e => e.2.cells.any (fun c => bankOf c.index == b)) else !Config.bankInUse b s.now

/-- A pass has visited a bank; after the last one a requested test gives its result (R454, R455). -/
def bankVisited (s : State) : State :=
  match s.power.bankPass with
  | none => s
  | some (cmd, n, bad, start) =>
    if n + 1 < s.integ.banks then s.modPower (fun w => { w with bankPass := some (cmd, n + 1, bad, start) })
    else
      let s := s.modPower (fun w => { w with bankPass := none })
      let word := (s.now - start) / Config.us % 2 ^ 32 * 2 ^ 32 + min bad 255 * 2 ^ 8 + (if bad = 0 then 0 else 1)
      let s := match cmd with
        | some (k, pos) => finishTest k pos word (doneWork 3 (.bankTest 0) s)
        | none => s
      nextBankTest s

/-- A pass takes its next bank (log 26): a bank with live data, or out since it failed, is passed over. -/
def bankTest (bank : Nat) (s : State) : State :=
  if 1 ≤ s.power.level ∨ coreRuns 3 s = false then s else
  let start (s : State) : Option State :=
    match s.power.bankPass with
    | some (some _, n, _, _) => if n = bank ∧ hasService 3 (.bankTest 0) s = true then some s else none
    | some (none, n, _, _) => if n = bank then some s else none
    | none =>
      if bank = 0 ∧ s.power.bankTestPeriod ≠ 0 then some (s.modPower (fun w => { w with bankPass := some (none, 0, 0, s.now) })) else none
  match start s with
  | none => s
  | some s =>
    if s.power.bankOut.contains bank then s
    else if bankIdle bank s && !s.power.bankBad.contains bank then s.modPower (fun w => { w with bankOut := w.bankOut ++ [bank] })
    else bankVisited s

def execBankTest (bank : Nat) (s : State) : Out := .next (bankTest bank s)

/-- The cells of a failed Chest bank count as retired, and every watermark follows (R455, R318, R306). -/
def retireBank (bank : Nat) (s : State) : State :=
  if 64 ≤ bank then s else
  let new := ((List.range 4096).map (fun i => bank * 4096 + i)).filter (fun i => !s.chest.retired.contains i)
  let old := s.chest.retired.length
  let s := s.modChest (fun c => { c with retired := c.retired ++ new,
                                         bankRetired := tset c.bankRetired bank (tgetD c.bankRetired bank 0 + new.length) })
  let s := settleChest s
  if old < Config.retiredLimit ∧ Config.retiredLimit ≤ s.chest.retired.length then orderStage3 10 false false s else s

/-- MC3 ends a bank's test (R410, R455): back to allocation, or out until block reset with a MEM_ERROR record. -/
def bankTestDone (bank : Nat) (failed : Bool) (s : State) : State :=
  match s.power.bankPass with
  | none => s
  | some (cmd, n, bad, start) =>
    if n ≠ bank ∨ s.power.bankOut.contains bank = false ∨ coreRuns 3 s = false ∨
       (cmd.isSome = true ∧ hasService 3 (.bankTest 0) s = false) then s
    else if failed then
      let s := s.modPower (fun w => { w with selftestsFailed := satInc 8 w.selftestsFailed, bankPass := some (cmd, n, bad + 1, start),
                                             bankOut := w.bankOut.erase bank, bankBad := w.bankBad ++ [bank] })
      bankVisited (retireBank bank (hutchRec 0x08 RecHead.blank (memErr 2 7 0xFFFF 0xFFFFFFFF bank 0 0xFFFF 0) s))
    else bankVisited (settleChest (s.modPower (fun w => { w with bankOut := w.bankOut.erase bank })))

def execBankTestDone (bank : Nat) (failed : Bool) (s : State) : Out := .next (bankTestDone bank failed s)

/-! ### Calibration, scrub, telemetry (R450, R452, R456) -/

/-- Calibration of a partition begins, or is postponed (R456). -/
def calibration (p : Nat) (s : State) : State :=
  if s.power.calibPeriod = 0 ∨ 1 ≤ s.power.level ∨ coreRuns 3 s = false ∨ s.integ.slices ≤ p ∨
     s.power.calibrating.contains p = true then s
  else if (partBenches p).all (fun b => (benchAt b s).state == .free) then
    (setBenches (partBenches p) (fun _ => { state := .out, res := none, claim := none }) s).modPower
      (fun w => { w with calibrating := w.calibrating ++ [p] })
  else s.modPower (fun w => { w with calibPostponed := satInc 8 w.calibPostponed })

def execCalibration (p : Nat) (s : State) : Out := .next (calibration p s)

/-- MC3 ends the calibration of a partition: its benches are FREE again, and jobs can be placed there (R456). -/
def calibrationDone (p : Nat) (s : State) : State :=
  if !s.power.calibrating.contains p || !coreRuns 3 s then s else
  let s := s.modPower (fun w => { w with calibrating := w.calibrating.erase p })
  if (stageOf 2 p s).isSome then s
  else decisionPass (setBenches (partBenches p) (fun b => if b.state = .out then { b with state := .free } else b) s)

def execCalibrationDone (p : Nat) (s : State) : Out := .next (calibrationDone p s)

/-- The queue that holds a cell: class, queue, index and cell. -/
def cellHolder (cell : Nat) (s : State) : Option (Nat × Nat × Nat × Cell) :=
  s.chest.queues.findSome? (fun e =>
    match e.2.cells.findIdx? (fun c => c.index == cell) with
    | some i => (e.2.cells[i]?).map (fun c => (e.1 / 2 ^ 32, e.1 % 2 ^ 32, i, c))
    | none => none)

/-- What the scrub engine finds at a cell is handled as for a consumer's read (R452, R314, R315); a cell that is unreachable until the
metadata walk ends is left to the walk. -/
def scrubCell (cell : Nat) (ecc : EccFinding) (s : State) : State :=
  if Config.cells ≤ cell ∨ s.chest.retired.contains cell = true then s else
  let lost (word : Nat) : State :=
    match cellHolder cell s with
    | some (cls, queue, i, c) => if c.poison then s else cellLost cls queue i c word 0 true s
    | none =>
      settleChest (retireCell cell (hutchRec 0x07 RecHead.blank
        (le 1 0 ++ le 1 (bankOf cell) ++ le 1 word ++ le 1 0xFF ++ le 4 cell ++ le 2 0xFFFF ++ le 2 0xFFFF ++ zeros 20) s))
  match ecc with
  | .clean => s
  | .corrected w => correctedEcc cell (min w 8) s
  | .badData w => lost (min w 7)
  | .badMeta => lost 8

/-- Banks whose count has reached bank_threshold (R314). -/
def hotBanks (s : State) : List Nat :=
  (s.chest.bankCount.filter (fun e => decide (s.chest.bankThreshold ≤ e.2))).map (·.1)

/-- A finding of the scrub engine is handled as a consumer's read would (R452). -/
def scrubFinding (f : ScrubFinding) (s : State) : State :=
  match f with
  | .cell i ecc => scrubCell i ecc s
  | .word w a => sramLost w a s

/-- A finding at a cell of a bank. -/
def ScrubFinding.inBank (b : Nat) : ScrubFinding → Bool
  | .cell i _ => bankOf i == b
  | .word .. => false

/-- The scrub engine passes over a bank that has reached bank_threshold, ahead of other work on the bank (R314, R451 rule 2). -/
def scrubBank (b : Nat) (found : List ScrubFinding) (s : State) : State :=
  let s := (found.filter (ScrubFinding.inBank b)).foldl (fun s f => scrubFinding f s) s
  (s.modChest (fun c => { c with bankCount := tdel c.bankCount b })).modPower (fun w =>
    { w with priorityScrubs := satInc 16 w.priorityScrubs })

/-- The scrub engine passes over all on-block SRAM (R452). -/
def scrubAll (found : List ScrubFinding) (s : State) : State :=
  let s := found.foldl (fun s f => scrubFinding f s) s
  (s.modChest (fun c => { c with bankCount := [] })).modPower (fun w => { w with scrubPasses := satInc 32 w.scrubPasses })

/-- One pass of the scrub engine: over the first bank at bank_threshold alone, below S6; where there is none over everything, at S0
(R450, R452). A bank's count clears when it has been passed over (R314). -/
def scrub (found : List ScrubFinding) (s : State) : State :=
  if 6 ≤ s.power.level then s else
  match hotBanks s with
  | b :: _ => scrubBank b found s
  | [] => if 1 ≤ s.power.level then s else scrubAll found s

def execScrub (found : List ScrubFinding) (s : State) : Out := .next (scrub found s)

/-- Firmware sends telemetry (R450); the rules give it no format and no place in the block's state (log 27). -/
def execTelemetry (s : State) : Out := .next s

end Sys2Proof.Machine
end

