-- ==== Sys2Proof/Machine/Mgmt.lean ====
section
/-! DEFINITION. The management complex: images and boot (R412 to R418), microcode patches (R419 to R423), feature
negotiation (R424 to R427), crash and restart (R428 to R433), watchdogs (R434), update activation (R435 to R438), mailboxes
(R430) and the firmware log (R407). -/

namespace Sys2Proof.Machine

def State.modMgmt (s : State) (f : Mgmt → Mgmt) : State := { s with mgmt := f s.mgmt }

/-! ### Images (R414 to R416) -/

/-- boot_stage (R418, R439): 0, 1 and 2 while the ROM works, at times the rules leave open; 0xF once start-up has taken 500 ms. -/
def bootStageNow (s : State) : Nat :=
  let m := s.mgmt
  let t := s.now - m.bootAt
  let auth := Config.bootAuthAfter m.bootAt
  if !s.port.blkRstN then 0
  else if m.bootStage < 4 ∧ 500 * Config.ms < t then 0xF
  else if m.bootStage ≠ 0 then m.bootStage
  else if t < auth then 0 else if t < auth + Config.bootAuthTime m.bootAt then 1 else 2

def fwVersionOf (h : List Byte) : Nat := fld h 8 4
def fwPatchLevel (h : List Byte) : Nat := fld h 12 4
def fwSecurity (h : List Byte) : Nat := fld h 16 4
def fwKeyIndex (h : List Byte) : Nat := fld h 20 4
def fwLength (h : List Byte) : Nat := fld h 24 4
def fwSections (h : List Byte) : Nat := fld h 5 1

/-- A section table entry (R415). -/
def fwSection (h : List Byte) (i : Nat) : List Byte := slice h (128 + 64 * i) 64

def secOffset (e : List Byte) : Nat := fld e 48 4
def secLength (e : List Byte) : Nat := fld e 52 4
def secType (e : List Byte) : Nat := fld e 56 1

def fwTable (h : List Byte) : List (List Byte) := (List.range (fwSections h)).map (fwSection h)

/-- Largest length of a section type (R415). -/
def secLimit (t : Nat) : Nat :=
  if t = 5 then 2 * 2 ^ 20 else if t = 6 then 256 * 1024 else if t = 7 then 16 * 2 ^ 20 else 384 * 1024

/-- A section table entry is legal (R415). -/
def okSection (len : Nat) (e : List Byte) : Bool :=
  decide (secOffset e % 4096 = 0 ∧ 4096 ≤ secOffset e ∧ secOffset e + secLength e ≤ len) &&
  decide (1 ≤ secType e ∧ secType e ≤ 7 ∧ secLength e ≤ secLimit (secType e)) && allZero (slice e 57 7)

/-- Sections lie apart, each type at most once, types 1 to 6 present (R415). -/
def okTable (es : List (List Byte)) : Bool :=
  disjoint (es.map (fun e => (secOffset e, secOffset e + secLength e))) &&
  decide (((es.map secType).eraseDups).length = es.length) && [1, 2, 3, 4, 5, 6].all (fun t => es.any (fun e => secType e == t))

/-- Order 1 of R416: the header of R414 is legal. -/
def okFwHeader (h : List Byte) : Bool :=
  decide (h.length = 1024) && decide (fld h 0 4 = 0x46574E59) && decide (fld h 4 1 = 2) &&
  decide (1 ≤ fwSections h ∧ fwSections h ≤ 8) && allZero (slice h 6 2) && decide (fwSecurity h ≤ 64) &&
  decide (fwKeyIndex h ≤ 3) && decide (1024 ≤ fwLength h ∧ fwLength h ≤ 31 * 2 ^ 20) && allZero (slice h 32 96) &&
  allZero (slice h (128 + 64 * fwSections h) (512 - 64 * fwSections h)) && allZero (slice h 736 192) &&
  (fwTable h).all (okSection (fwLength h)) && okTable (fwTable h)

/-- The key hash at an index is that of a key, and its revoke fuse is intact (R416). -/
def okFwKey (index : Nat) (key : List Byte) (s : State) : Bool :=
  ((s.integ.keyHashes[index]?).map (fun h => decide (h = beNat (sha384 key)))).getD false &&
  !(s.integ.revoked[index]?).getD true

/-- An ECDSA P-384 signature over bytes; key and values as R414 lays them out. -/
def okFwSignature (msg key sig : List Byte) : Bool :=
  ecdsaOk curve384 (beNat (sha384 msg)) (fld sig 0 48) (fld sig 48 48) (fld key 0 48) (fld key 48 48)

/-- A section's bytes have its digest (R416). -/
def okSectionData (e data : List Byte) : Bool := decide (data.length = secLength e ∧ sha384 data = slice e 0 48)

/-- Orders 1 to 4 of R416: the boot_error of the first check that fails, 0 for none. -/
def headerError (h : List Byte) (s : State) : Nat :=
  if !okFwHeader h then 2
  else if !okFwKey (fwKeyIndex h) (slice h 640 96) s then 3
  else if fwSecurity h < s.mgmt.securityFloor ∨ fld h 28 4 ≠ s.integ.romId then 4
  else if !okFwSignature (h.take 928) (slice h 640 96) (slice h 928 96) then 5
  else 0

/-- R416: the boot_error of an image that a reader of its bytes gives, 0 where it is authentic. -/
def imageError (rd : Nat → Nat → List Byte) (s : State) : Nat :=
  let h := rd 0 1024
  let e := headerError h s
  if e ≠ 0 then e
  else if (fwTable h).all (fun x => okSectionData x (rd (secOffset x) (secLength x))) then 0 else 5

/-! ### The flash (R412, R480) -/

def flashSlot : Nat := 31 * 2 ^ 20

/-- Where a slot begins (R412). -/
def slotBase (slot : Nat) : Nat := if slot = 0 then 0x100000 else 0x2100000

/-- n bytes of a slot from an offset on. -/
def slotRead (slot off n : Nat) (s : State) : List Byte := readN s.mem.flash (slotBase slot + off) n

/-- The image header of a slot. -/
def slotHeader (slot : Nat) (s : State) : List Byte := slotRead slot 0 1024 s

/-- The bytes of the section of a type in a slot; none listed: no bytes. -/
def slotSection (slot typ : Nat) (s : State) : List Byte :=
  (((fwTable (slotHeader slot s)).find? (fun e => secType e == typ)).map (fun e => slotRead slot (secOffset e) (secLength e) s)).getD []

/-- The boot_error of a slot. -/
def slotError (slot : Nat) (s : State) : Nat := imageError (fun off n => slotRead slot off n s) s

/-- The flash reads that check a slot under R416: its header, and its sections where the header passes. -/
def slotReads (slot : Nat) (s : State) : List PortOut :=
  let h := slotHeader slot s
  .flashRead (slotBase slot) 1024 ::
    (if headerError h s = 0 then (fwTable h).map (fun e => .flashRead (slotBase slot + secOffset e) (secLength e)) else [])

/-- Bytes are written to the flash. -/
def flashWrite (off : Nat) (bs : List Byte) (s : State) : State :=
  emit (.flashWrite off bs) { s with mem := { s.mem with flash := writeN s.mem.flash off bs } }

/-- A slot is erased: none of its bytes is listed (log 2). -/
def eraseSlot (slot : Nat) (s : State) : State :=
  let b := slotBase slot
  { s with mem := { s.mem with flash := s.mem.flash.filter (fun e => decide (e.1 < b ∨ b + flashSlot ≤ e.1)) } }

/-- A slot is erased and programmed with an image (R435). -/
def programSlot (slot : Nat) (img : List Byte) (s : State) : State :=
  flashWrite (slotBase slot) (img.take flashSlot) (eraseSlot slot s)

/-! ### The boot directory (R413) -/

/-- The bytes of a copy. -/
def BootDir.bytes (d : BootDir) : List Byte :=
  let b := le 4 0x44524E59 ++ le 1 2 ++ le 1 d.active ++ le 1 (d.pending.getD 0xFF) ++ le 1 d.tries ++ le 8 d.seq ++ zeros 44
  b ++ le 4 (crc32 b)

/-- The directory that a copy holds, where it is valid. -/
def dirOf (b : List Byte) : Option BootDir :=
  if b.length = 64 ∧ fld b 0 4 = 0x44524E59 ∧ fld b 4 1 = 2 ∧ fld b 60 4 = crc32 (b.take 60) then
    some { active := fld b 5 1, pending := if fld b 6 1 = 0xFF then none else some (fld b 6 1), tries := fld b 7 1, seq := fld b 8 8 }
  else none

/-- Where a copy begins (R412). -/
def dirBase (i : Nat) : Nat := 0x8000 * i

/-- A copy as the flash holds it. -/
def dirAt (i : Nat) (s : State) : Option BootDir := dirOf (readN s.mem.flash (dirBase i) 64)

/-- The newest valid copy (R417). -/
def newestDir (s : State) : Option BootDir :=
  match dirAt 0 s, dirAt 1 s with
  | some a, some b => if a.seq < b.seq then some b else some a
  | some a, none => some a
  | none, b => b

/-- The directory in force: without a valid copy slot A, nothing pending (R417). -/
def currentDir (s : State) : BootDir := (newestDir s).getD { active := 0, pending := none, tries := 0, seq := 0 }

/-- The copy with the lower dir_seq, or one that is not valid, is rewritten with dir_seq one above the other's (R413). -/
def writeDir (d : BootDir) (s : State) : State :=
  let i := match dirAt 0 s, dirAt 1 s with
    | some a, some b => if a.seq < b.seq then 0 else 1
    | some _, none => 1
    | none, _ => 0
  flashWrite (dirBase i) (BootDir.bytes { d with seq := (currentDir s).seq + 1 }) s

/-! ### Start-up (R417, R418) -/

/-- The slots in the order the ROM tries them, the directory as it leaves it, and whether it wrote it (R417). -/
def bootOrder (d : BootDir) : List Nat × Option BootDir :=
  match d.pending with
  | some p => if 0 < d.tries then ([p, d.active], some { d with tries := d.tries - 1 })
              else ([d.active, 1 - d.active], some { d with pending := none })
  | none => ([d.active, 1 - d.active], none)

/-- The first authentic slot, and the last boot_error met. -/
def tryBoot (s : State) : List Nat → Nat → Option Nat × Nat
  | [], e => (none, e)
  | k :: t, e => if slotError k s = 0 then (some k, e) else tryBoot s t (slotError k s)

/-- The bytes of an image section as a memory from address 0 on holds them. -/
def imageCells (bs : List Byte) : List Host.Cell := writeN [] 0 bs

/-- A core enters RUNNING with its tightly coupled memory cleared and filled (R429). -/
def Core.run (now : Nat) (image : List Byte) (c : Core) : Core :=
  { c with state := .running, heldSince := now, wdtExpired := false, reloadFailed := false, wdtKick := now, tcm := imageCells image }

/-- A core runs the section of its number of a slot. -/
def runCore (k slot : Nat) (s : State) : State := s.modCore k (Core.run s.now (slotSection slot (k + 1) s))

/-- MC0 writes WRD_TIER and WCH_SPILL_BASE and gives the channel map (R418 step 4, R222, R386, R501). -/
def tierSetup (s : State) : State :=
  let i := s.integ
  let base := ((i.spillGib).getD 0) * Config.gib
  { s with wrd := { s.wrd with fastGib := i.fastGib, slowGib := i.slowGib, chmap := i.chmap },
           watch := { s.watch with spillBase := base, spillValid := i.spillGib.isSome },
           hutch := { s.hutch with spillOk := i.spillGib.isSome } }

/-- The slots that the ROM reads: those in its order, up to the one it boots. -/
def slotsTried (s : State) : List Nat → List Nat
  | [] => []
  | k :: t => if slotError k s = 0 then [k] else k :: slotsTried s t

/-- The flash reads of the ROM: both directory copies, then the slots it tries (R417). -/
def romReads (order : List Nat) (s : State) : List PortOut :=
  [.flashRead (dirBase 0) 64, .flashRead (dirBase 1) 64] ++ ((slotsTried s order).map (fun k => slotReads k s)).flatten

/-- MC0's work after the ROM (R418 step 4): the tiers and the spill region, then the start-up compute reset. -/
def bootSetup (s : State) : State :=
  if s.mgmt.bootStage ≠ 2 then s
  else orderStage3 3 false false (tierSetup (s.modMgmt (fun m => { m with bootStage := 3 })))

/-- The boot ROM has chosen, authenticated and loaded a slot: sections 1 to 5 are loaded, the cores enter Settle, and MC0 finds its
start-up work in its mailbox; or both slots fail (R417, R418 steps 2 and 3). -/
def bootLoadDone (s : State) : State :=
  if !s.port.blkRstN || s.mgmt.bootStage ≠ 0 then s else
  let d := currentDir s
  let o := bootOrder d
  let none_ := (newestDir s).isNone
  let (slot, err) := tryBoot s o.1 (if none_ then 1 else 0)
  let s := emitAll (romReads o.1 s) s
  let s := match o.2 with
    | some d => writeDir d s
    | none => s
  match slot with
  | none => s.modMgmt (fun m => { m with bootStage := 0xF, bootError := err })
  | some k =>
    let s := s.modMgmt (fun m =>
      { m with bootStage := 2, bootError := err, slot := k, bootedPending := d.pending == some k && decide (0 < d.tries),
               fwVersion := fwVersionOf (slotHeader k s), shared := imageCells (slotSection k 5 s) })
    pushWork 0 .bootSetup ([0, 1, 2, 3].foldl (fun s c => runCore c k s) s)

def execBootLoadDone (s : State) : Out := .next (bootLoadDone s)

/-- MC0 commits the slot of a pending try once the capabilities are agreed (R418 step 7). -/
def bootCommit (s : State) : State :=
  let live : Bool := match s.mgmt.updState with | .loading => true | .probation => true | .rollingBack => true | _ => false
  if s.mgmt.bootedPending && s.hub.capsValid && coreRuns 0 s && !live then
    (writeDir { currentDir s with active := s.mgmt.slot, pending := none, tries := 0 } s).modMgmt
      (fun m => { m with bootedPending := false })
  else s

def execBootCommit (s : State) : Out := .next (bootCommit s)

/-! ### Microcode patches (R419 to R423) -/

/-- Each quarter of a control word has odd parity (R419). -/
def okParity (w : BitVec 176) : Bool :=
  (List.range 4).all (fun i => ((List.range 44).countP (fun j => w.getLsbD (44 * i + j))) % 2 == 1)

def patchRedirects (h : List Byte) : Nat := fld h 6 2
def patchWords (h : List Byte) : Nat := fld h 8 2

/-- The header of a patch package is legal, for the running image (R422). -/
def okPatchHeader (pkg : PatchPkg) (s : State) : Bool :=
  let h := pkg.header
  decide (h.length = 64) && decide (fld h 0 4 = 0x50504E59) && decide (fld h 4 1 = 2) && allZero (slice h 5 1) &&
  decide (patchRedirects h ≤ 64) && decide (1 ≤ patchWords h ∧ patchWords h ≤ 1024) && allZero (slice h 10 2) &&
  decide (fld h 12 4 = s.integ.romId) &&
  decide (fld h 16 4 = fwPatchLevel (slotHeader s.mgmt.slot s)) && decide (fld h 20 4 ≤ 3) &&
  allZero (slice h 36 12) && decide (pkg.cipher.length = 4 * patchRedirects h + 22 * patchWords h) &&
  decide (pkg.keySig.length = 192)

/-- The redirects of a plaintext: rom_addr, overlay_index and whether the other bits are zero (R422). -/
def redirects (h p : List Byte) : List (Nat × Nat × Bool) :=
  (List.range (patchRedirects h)).map (fun i =>
    let v := fld p (4 * i) 4
    (bits v 12 0, bits v 25 16, decide (v = bits v 12 0 + bits v 25 16 * 2 ^ 16)))

/-- The control words of a plaintext. -/
def controlWords (h p : List Byte) : List (BitVec 176) :=
  (List.range (patchWords h)).map (fun i => BitVec.ofNat 176 (fld p (4 * patchRedirects h + 22 * i) 22))

/-- The patch loader's check 5 (R423). -/
def okPatchBody (h p : List Byte) : Bool :=
  let rs := redirects h p
  decide (((rs.map (·.1)).eraseDups).length = rs.length) && rs.all (fun r => decide (r.2.1 < patchWords h) && r.2.2) &&
  (controlWords h p).all okParity

/-- The plaintext of a package under the fused microcode key; none where the tag does not match (R423, check 4). -/
def patchPlain (pkg : PatchPkg) (s : State) : Option (List Byte) :=
  gcmOpen (be 32 s.integ.mcKey) (slice pkg.header 24 12) (pkg.header.take 48) pkg.cipher (slice pkg.header 48 16)

/-- All checks of the patch loader, in their order (R423). -/
def okPatch (pkg : PatchPkg) (s : State) : Option (List Byte) :=
  let key := slice pkg.keySig 0 96
  if okPatchHeader pkg s && okFwKey (fld pkg.header 20 4) key s &&
      okFwSignature (pkg.header ++ pkg.cipher) key (slice pkg.keySig 96 96) then
    (patchPlain pkg s).filter (okPatchBody pkg.header)
  else none

/-- The package that bytes begin with: 64 bytes of header, the ciphertext of its counts, and key and signature (R422). Bytes after it are
not read (log 133). -/
def PatchPkg.of (b : List Byte) : PatchPkg :=
  let h := b.take 64
  let n := 4 * patchRedirects h + 22 * patchWords h
  { header := h, cipher := slice b 64 n, keySig := slice b (64 + n) 192 }

/-- The package that MC0 gives the loader: section 6 of the slot that runs (R422, R423). -/
def slotPatch (s : State) : PatchPkg := PatchPkg.of (slotSection s.mgmt.slot 6 s)

/-- The patch is loaded during step 5 of a compute reset (R418, R421, R423), or the overlay stays empty. The package is that of the
running slot: with any other the command does nothing. -/
def patchLoad (pkg : PatchPkg) (s : State) : State :=
  match stageOf 3 0 s with
  | none => s
  | some x =>
    if x.phase ≠ 2 ∨ coreRuns 0 s = false ∨ s.bramble.overlay ≠ [] ∨ pkg ≠ slotPatch s then s else
    match okPatch pkg s with
    | some p =>
      let rs := (redirects pkg.header p).foldl (fun (t : Tab Nat) r => tset t r.1 r.2.1) []
      { s with bramble := { s.bramble with overlay := controlWords pkg.header p, redirect := rs },
               mgmt := { s.mgmt with patchLevel := fld pkg.header 16 4 } }
    | none => s.modMgmt (fun m => { m with bootError := 6, bootStage := if m.bootStage = 3 then 0xF else m.bootStage })

def execPatchLoad (pkg : PatchPkg) (s : State) : Out := .next (patchLoad pkg s)

/-! ### Feature negotiation (R425 to R427) -/

def hubHostCaps : Nat := 0x408

/-- HUB_HOST_CAPS is written. Settle arms the watchdogs when YN1_WDT is agreed (R434). -/
def hostCapsWrite (v : W64) (s : State) : State :=
  if !barOpen s then s
  else if !s.mgmt.fwReady then bar0Err 4 hubHostCaps s
  else if !s.tenants.isEmpty then bar0Err 3 hubHostCaps s
  else
    let c := v.toNat % 2 ^ 63
    let a := s.hub.devCaps &&& c
    let s := s.modMgmt (fun m => { m with cores := m.cores.map (fun x => { x with wdtEnable := a.testBit capWdt, wdtKick := s.now }) })
    { s with hub := { s.hub with hostCaps := c, agreedCaps := a, capsValid := true } }

def execHostCapsWrite (v : W64) (s : State) : Out := .next (hostCapsWrite v s)

/-! ### Crash and restart (R428 to R433) -/

/-- Restarts of a core in the last 10 s. -/
def recentRestarts (now : Nat) (c : Core) : List Nat := c.restarts.filter (fun t => decide (now - t < 10000 * Config.ms))

/-- The payload of a FIRMWARE record (R433). -/
def firmwarePayload (k cause state : Nat) (c : Core) (s : State) : List Byte :=
  let t := c.trap
  le 1 k ++ le 1 cause ++ le 1 state ++ [0] ++ le 4 t.mepc.toNat ++ le 4 t.mcause.toNat ++ le 4 t.mtval.toNat ++
    le 4 (recentRestarts s.now c).length ++ le 4 c.returned ++ padTo 124 (((t.regs.take 31).map (fun r => le 4 r.toNat)).flatten) ++
    zeros 12 ++ padTo 1024 (t.stack.take 1024)

/-- The FIRMWARE record of a core can be written (R410): MC1 runs, or the core is MC1 itself (log 132). -/
def canRecord (k : Nat) (s : State) : Bool := (k == 1) || coreRuns 1 s

/-- A FIRMWARE record is written, or waits in MC1's mailbox (R410, R433). -/
def firmwareRec (k cause state : Nat) (c : Core) (s : State) : State :=
  let p := firmwarePayload k cause state c s
  if canRecord k s then hutchRec 0x0E RecHead.blank p s else pushWork 1 (.firmwareRecord k p) s

/-- EV_FW_RESTART (R432). -/
def fwRestartEvent (k cause outcome : Nat) (c : Core) (s : State) : State :=
  raiseEvent (mkEvent s evFwRestart 0xFFFF 0xFFFF 0 0 0xFFFFFF
    [k + cause * 2 ^ 8 + outcome * 2 ^ 16 + (recentRestarts s.now c).length * 2 ^ 32, c.trap.mepc.toNat, c.returned,
     if outcome = 0 then s.now else 0]) s

/-- Items in service go back to the head of the mailbox in their order (R430). -/
def Core.giveBack (c : Core) : Core :=
  { c with mailbox := c.inService ++ c.mailbox, inService := [], returned := c.inService.length }

/-- Fills that MC1 had in service go no further than the pieces already issued (R430). -/
def stopFills (ws : List Work) (s : State) : State :=
  stopJobs (fun j => match j with | .model k _ _ => ws.contains (.modelLoad k) | _ => false) s

/-- A core is restarted into the slot that runs, without a cause of R428 (R435); only block reset takes a core out of FAILED (R429). -/
def Core.restart (c : Core) : Core :=
  match c.state with
  | .dumping => { c with reloadFailed := false }
  | .reloading => { c with reloadFailed := false }
  | .failed => c
  | _ => { c.giveBack with state := .dumping, cause := 0, trap := TrapFrame.zero, reloadFailed := false }

/-- The shared memory is initialised from section 5 of a slot, at a restart of all four cores (R429, R435). -/
def loadShared (slot : Nat) (s : State) : State := s.modMgmt (fun m => { m with shared := imageCells (slotSection slot 5 s) })

/-- All four cores are restarted into a slot (R435). -/
def restartInto (slot : Nat) (s : State) : State :=
  let s := stopFills (coreAt 1 s).inService s
  loadShared slot (s.modMgmt (fun m =>
    { m with slot := slot, fwVersion := fwVersionOf (slotHeader slot s), cores := m.cores.map Core.restart, loadFailed := false }))

/-- Rollback (R435): all four cores into the previous slot, and nothing pending. -/
def rollback (s : State) : State :=
  let s := writeDir { currentDir s with pending := none } s
  (restartInto (1 - s.mgmt.slot) s).modMgmt (fun m => { m with updState := .rollingBack, rollbackDue := false })

/-- ROLLING_BACK is entered (R435). The rollback is MC0's work and waits until MC0 runs (R410). -/
def enterRollback (s : State) : State :=
  if coreRuns 0 s then rollback s else s.modMgmt (fun m => { m with updState := .rollingBack, rollbackDue := true })

/-- A restart or a FAILED core ends PROBATION (R435). -/
def endProbation (s : State) : State :=
  match s.mgmt.updState with
  | .probation => enterRollback s
  | _ => s

/-- A cause of R428 for a core that runs: DUMPING, or FAILED at the fourth restart within 10 s (R429). -/
def coreStop (k cause : Nat) (t : TrapFrame) (s : State) : State :=
  let c := coreAt k s
  match c.state with
  | .running =>
    let s := if k = 1 then stopFills c.inService s else s
    let recent := recentRestarts s.now c ++ [s.now]
    let failed := decide (4 ≤ recent.length)
    let c := { c.giveBack with state := if failed then .failed else .dumping, restarts := recent, cause := cause, trap := t, reloadFailed := false }
    let s := (s.modCore k (fun _ => c)).modMgmt (fun m => { m with restarts := satInc 16 m.restarts })
    if failed then fwRestartEvent k cause 1 c (firmwareRec k cause 4 c s) else s
  | _ => s

/-- A core stops for a cause of R428; one that ran ends a PROBATION. -/
def coreFail (k cause : Nat) (t : TrapFrame) (s : State) : State :=
  if coreRuns k s then endProbation (coreStop k cause t s) else s

/-- A core's Watch counter has held through fw_window_ms (R428, R353). -/
def mcWatchFlag (k : Nat) (t : TrapFrame) (s : State) : State :=
  let c := coreAt k s
  if (c.state == .running) && c.progress == c.sample && decide (s.mgmt.fwInForce * Config.ms ≤ s.now - c.heldSince) then
    coreFail k 1 t (trace 13 0 0xFFFF 0 k s)
  else s

def execMcWatchFlag (core : Nat) (t : TrapFrame) (s : State) : Out := .next (mcWatchFlag core t s)

/-- A YN1 watchdog that is armed expires (R434), timeout_ms or more after it was armed or its core entered RUNNING; Settle's kicks from
its tick path are no command (log 134). -/
def watchdogExpiry (k : Nat) (t : TrapFrame) (s : State) : State :=
  let c := coreAt k s
  if (c.state == .running) && c.wdtEnable && decide (c.wdtTimeout * Config.ms ≤ s.now - c.wdtKick) then
    coreFail k 2 t (s.modCore k (fun c => { c with wdtExpired := true, wdtExpiries := satInc 16 c.wdtExpiries }))
  else s

def execWatchdogExpiry (core : Nat) (t : TrapFrame) (s : State) : Out := .next (watchdogExpiry core t s)

def execFatalTrap (core : Nat) (t : TrapFrame) (s : State) : Out := .next (coreFail core 3 t s)

def execSettlePanic (core : Nat) (t : TrapFrame) (s : State) : Out := .next (coreFail core 4 t s)

/-- An uncorrectable error in a core's memory, or in the shared memory (none): all four cores, and the shared memory starts again from
section 5 (R428, R429). -/
def memoryError (core : Option Nat) (t : TrapFrame) (s : State) : State :=
  match core with
  | some k => coreFail k 5 t s
  | none =>
    let any := [0, 1, 2, 3].any (fun k => coreRuns k s)
    let s := loadShared s.mgmt.slot ([0, 1, 2, 3].foldl (fun s k => coreStop k 5 t s) s)
    if any then endProbation s else s

def execMemoryError (core : Option Nat) (t : TrapFrame) (s : State) : Out := .next (memoryError core t s)

/-- The FIRMWARE record is written and the core reloads (R429); the record is MC1's work, and a core waits in DUMPING until MC1 can write
it (R410, log 132). -/
def mcDumpDone (k : Nat) (s : State) : State :=
  let c := coreAt k s
  match c.state with
  | .dumping => if !canRecord k s then s else (firmwareRec k c.cause 2 c s).modCore k (fun c => { c with state := .reloading })
  | _ => s

def execMcDumpDone (core : Nat) (s : State) : Out := .next (mcDumpDone core s)

/-- The section of a core in the running slot is authentic (R429): header reauthenticated, section as its digest says. -/
def reloadOk (k : Nat) (s : State) : Bool :=
  let h := slotHeader s.mgmt.slot s
  decide (headerError h s = 0) &&
  (fwTable h).any (fun e => decide (secType e = k + 1) && okSectionData e (slotRead s.mgmt.slot (secOffset e) (secLength e) s))

/-- The flash reads of a reload: the header and the core's section of the running slot (R429). -/
def reloadReads (k : Nat) (s : State) : List PortOut :=
  let b := slotBase s.mgmt.slot
  .flashRead b 1024 :: (((fwTable (slotHeader s.mgmt.slot s)).filter (fun e => secType e == k + 1)).map
    (fun e => .flashRead (b + secOffset e) (secLength e)))

/-- The cores whose FIRMWARE records wait in MC1's mailbox have them written once MC1 takes the item (R410). -/
def writeRecord (p : List Byte) (s : State) : State := hutchRec 0x0E RecHead.blank p s

/-- The emergency test of an activation (R436). -/
def emergencyTest (s : State) : State :=
  s.modMgmt (fun m => { m with updState := if emergency s then .pendingEmergency else .quiescing })

/-- An activation that found MC0 stopped reaches it (R410). -/
def resumeActivate (s : State) : State :=
  if s.mgmt.updBusy && (s.mgmt.updState == .staged) then emergencyTest s else s

/-- MC0 runs again: what waits for it goes on (R410). -/
def resumeMc0 (s : State) : State := if s.mgmt.rollbackDue then rollback s else finishStart (resumeActivate s)

/-- A core's section is reloaded (R429): RUNNING; or a failure, the second of which makes it FAILED. A failure in LOADING ends the
activation (R435). -/
def mcReloadDone (k : Nat) (ok : Bool) (s : State) : State :=
  let c := coreAt k s
  match c.state with
  | .reloading =>
    let s := emitAll (reloadReads k s) s
    if ok && reloadOk k s then
      let s := fwRestartEvent k c.cause 0 c (runCore k s.mgmt.slot s)
      if k = 0 then resumeMc0 s else s
    else
      let s := match s.mgmt.updState with
        | .loading => s.modMgmt (fun m => { m with loadFailed := true })
        | _ => s
      if c.reloadFailed then
        let s := s.modCore k (fun c => { c with state := .failed })
        endProbation (fwRestartEvent k c.cause 1 c (firmwareRec k 6 4 c s))
      else s.modCore k (fun c => { c with reloadFailed := true })
  | _ => s

def execMcReloadDone (core : Nat) (ok : Bool) (s : State) : Out := .next (mcReloadDone core ok s)

/-! ### Mailboxes and the firmware log (R430, R407) -/

/-- A log entry is written where the log ring is on and its level is not above min_level (R407, R409). -/
def logEntry (level core subject : Nat) (s : State) : State :=
  let j := s.jnl
  if j.logBase = 0 ∨ j.logLog2 < 6 ∨ 20 < j.logLog2 ∨ j.logMin < level then s else
  let n := j.logProd
  let text := padTo 40 ((Config.logText core subject n).take 40)
  let e := le 1 2 ++ le 1 level ++ le 1 core ++ le 1 0 ++ le 4 (Config.logCode core subject n).toNat ++ le 8 s.now ++ le 8 n ++ text
  let s := hostWrite none (pfLoc (j.logBase + (n % 2 ^ j.logLog2) * 64)) e s
  { s with jnl := { s.jnl with logProd := (n + 1) % 2 ^ 64 } }

/-- MC3 takes the self-test of a partition: a test that runs begins again, unless its reset is under way (R430, R453). -/
def retakeTest (p : Nat) (s : State) : State :=
  if (stageOf 2 p s).isSome then s
  else s.modPower (fun w => { w with tests := w.tests.map (fun t => if t.1 = p ∧ t.2.2.2.1 = true then (t.1, t.2.1, t.2.2.1, true, s.now) else t) })

/-- MC3 takes a requested bank test: its pass begins, or begins again, at bank 0 (R430, R455). -/
def retakeBankTest (s : State) : State :=
  match s.power.bankPass with
  | some (some cmd, n, _, _) =>
    settleChest (s.modPower (fun w => { w with bankPass := some (some cmd, 0, 0, s.now), bankOut := w.bankOut.erase n }))
  | _ => s

/-- What taking a work item starts. -/
def serveWork (k : Nat) (w : Work) (s : State) : State :=
  match w with
  | .modelLoad m => modelWork m s
  | .mapout _ => s
  | .selftest p => if s.power.tests.any (fun t => t.1 == p) then retakeTest p s else doneWork k w s
  | .bankTest _ => if (s.power.bankPass.bind (·.1)).isSome then retakeBankTest s else doneWork k w s
  | .firmwareRecord _ p => doneWork k w (writeRecord p s)
  | .bootSetup => doneWork k w (bootSetup s)
  | .reportForward => doneWork k w s
  | .log level core subject => doneWork k w (logEntry level core subject s)

/-- A core that runs takes the oldest item of its mailbox (R430). Of the list of items the first 1,024 stand in the mailbox; its
producers hold the others, as a full mailbox makes them. -/
def mailboxItem (k : Nat) (s : State) : State :=
  let c := coreAt k s
  match c.state, c.mailbox with
  | .running, w :: t => serveWork k w (s.modCore k (fun c => { c with mailbox := t, inService := c.inService ++ [w] }))
  | _, _ => s

def execMailboxItem (core : Nat) (s : State) : Out := .next (mailboxItem core s)

/-! ### Firmware update (R435 to R438) -/

def mgtUpdCmd : Nat := 0x70208

/-- An update operation ends in IDLE with a result (R435, R438). -/
def updEnd (result : Nat) (s : State) : State :=
  s.modMgmt (fun m => { m with updState := .idle, updBusy := false, updResult := result, stagedVersion := 0 })

def updResult (result : Nat) (s : State) : State := s.modMgmt (fun m => { m with updResult := result })

/-- MGT_UPD_CMD is written (R438): ignored while busy. -/
def updCmd (op : State → State) (s : State) : State :=
  if !barOpen s then s else if s.mgmt.updBusy then bar0Err 3 mgtUpdCmd s else op s

/-- STAGE (R435). -/
def updateStage (kib : Nat) (s : State) : State :=
  updCmd (fun s =>
    if kib = 0 ∨ 31744 < kib then updEnd 3 s
    else s.modMgmt (fun m => { m with updState := .staging, updBusy := true, updResult := 0, stagedVersion := 0, updLength := kib })) s

def execUpdateStage (lengthKib : Nat) (s : State) : Out := .next (updateStage lengthKib s)

/-- The bytes of an image as a reader of it. -/
def imageReader (img : List Byte) (off n : Nat) : List Byte := slice img off n

/-- The image that STAGE read, whose bytes the host memory then holds (log 32), has been checked, programmed and read back (R435). -/
def stagingDone (img : List Byte) (flashOk : Bool) (s : State) : State :=
  match s.mgmt.updState with
  | .staging =>
    if !coreRuns 0 s then s else
    let n := s.mgmt.updLength * 1024
    let img := padTo n (img.take n)
    let s := memWrite (pfLoc s.mgmt.updAddr) img (readReq none .hub (pfLoc s.mgmt.updAddr) n s)
    let e := imageError (imageReader img) s
    if e = 4 then updEnd 4 s
    else if e ≠ 0 ∨ n < fwLength (img.take 1024) then updEnd 3 s
    else
      let other := 1 - s.mgmt.slot
      if !flashOk then updEnd 5 (programSlot other (Config.failedProgram s.now) s)
      else
        let s := programSlot other img s
        (emitAll (slotReads other s) s).modMgmt (fun m =>
          { m with updState := .staged, updBusy := false, updResult := 0, stagedVersion := fwVersionOf (img.take 1024) })
  | _ => s

def execStagingDone (img : List Byte) (flashOk : Bool) (s : State) : Out := .next (stagingDone img flashOk s)

/-- ACTIVATE (R435 to R437): BAD_STATE in IDLE, CAPS, or the emergency test. -/
def updateActivate (raise : Bool) (s : State) : State :=
  updCmd (fun s =>
    match s.mgmt.updState with
    | .staged =>
      let caps := (Config.imageCaps (slotHeader (1 - s.mgmt.slot) s)).toNat
      if s.hub.agreedCaps &&& caps ≠ s.hub.agreedCaps then updResult 6 s
      else
        let s := s.modMgmt (fun m => { m with updBusy := true, updResult := 0, raiseFloor := raise })
        if coreRuns 0 s then emergencyTest s else s
    | _ => updResult 2 s) s

def execUpdateActivate (raiseFloor : Bool) (s : State) : Out := .next (updateActivate raiseFloor s)

/-- CANCEL (R435, R438): accepted in STAGED, and in PENDING_EMERGENCY although busy is 1. -/
def updateCancel (s : State) : State :=
  if !barOpen s then s else
  match s.mgmt.updState with
  | .pendingEmergency => updEnd 8 s
  | .staged => if s.mgmt.updBusy then bar0Err 3 mgtUpdCmd s else updEnd 8 s
  | .idle => updResult 2 s
  | _ => bar0Err 3 mgtUpdCmd s

def execUpdateCancel (s : State) : Out := .next (updateCancel s)

/-- The emergency flag has fallen while an activation waits (R436). -/
def updateEmergencyCleared (s : State) : State :=
  match s.mgmt.updState with
  | .pendingEmergency => if coreRuns 0 s then emergencyTest s else s
  | _ => s

def execUpdateEmergencyCleared (s : State) : Out := .next (updateEmergencyCleared s)

/-- Every core has returned its items: MC0 names the pending slot and restarts the cores into it (R435). -/
def updateQuiesced (s : State) : State :=
  match s.mgmt.updState with
  | .quiescing =>
    if !coreRuns 0 s then s else
    let new := 1 - s.mgmt.slot
    (restartInto new (writeDir { currentDir s with pending := some new, tries := 1 } s)).modMgmt (fun m => { m with updState := .loading })
  | _ => s

def execUpdateQuiesced (s : State) : Out := .next (updateQuiesced s)

/-- All four cores are RUNNING. -/
def allRun (s : State) : Bool := s.mgmt.cores.all (fun c => c.state == .running)

/-- A reload has failed since LOADING began, or a core is FAILED and can run no slot (log 132). -/
def reloadFailure (s : State) : Bool := s.mgmt.loadFailed || s.mgmt.cores.any (fun c => c.state == .failed)

/-- All cores run on the new slot, or a reload failure starts the rollback (R435): a failure that a later reload mends starts it too. -/
def updateLoaded (ok : Bool) (s : State) : State :=
  match s.mgmt.updState with
  | .loading =>
    if reloadFailure s then enterRollback s
    else if ok && allRun s then s.modMgmt (fun m => { m with updState := .probation, probationAt := s.now })
    else s
  | _ => s

def execUpdateLoaded (ok : Bool) (s : State) : Out := .next (updateLoaded ok s)

/-- Commit after 10 s of probation (R435): with raise_floor the floor rises to the image's security_version. -/
def probationExpiry (s : State) : State :=
  match s.mgmt.updState with
  | .probation =>
    if allRun s && decide (10000 * Config.ms ≤ s.now - s.mgmt.probationAt) then
      let sec := fwSecurity (slotHeader s.mgmt.slot s)
      let s := writeDir { currentDir s with active := s.mgmt.slot, pending := none, tries := 0 } s
      updEnd 0 (s.modMgmt (fun m => { m with securityFloor := if m.raiseFloor then max m.securityFloor sec else m.securityFloor }))
    else s
  | _ => s

def execProbationExpiry (s : State) : Out := .next (probationExpiry s)

/-- All cores run on the previous slot again (R435). -/
def rollbackDone (s : State) : State :=
  match s.mgmt.updState with
  | .rollingBack => if allRun s && !s.mgmt.rollbackDue then updEnd 7 s else s
  | _ => s

def execRollbackDone (s : State) : Out := .next (rollbackDone s)

end Sys2Proof.Machine
end

