-- ==== Sys2Proof/Machine/Link.lean ====
section
/-! DEFINITION. The block boundary: resets and power (R344, R370, R418, R463 to R467), Function Level Reset (R470), the test
access port (R481) and the link port (R482 to R490). -/

namespace Sys2Proof.Machine

def State.modPort (s : State) (f : Port → Port) : State := { s with port := f s.port }

def State.modLink (s : State) (f : Link → Link) : State := { s with link := f s.link }

/-! ### Transit budgets (R488) -/

/-- Injection budget of a direction in bytes per microsecond. -/
def budget (dir : Nat) (s : State) : Nat := s.link.linksUp.getD dir 0 * 28000 * (100 - s.link.transitPct) / 100

def sendBudget (s : State) (dir : Nat) : State := emit (.budget dir (budget dir s)) s

/-- The budgets of all six directions go out. -/
def sendBudgets (s : State) : State := [0, 1, 2, 3, 4, 5].foldl sendBudget s

/-- LINKS (R482, R488). -/
def links (dir up : Nat) (s : State) : State :=
  if s.port.lkpReady && decide (dir < 6) && decide (up ≤ 8) then
    sendBudget (s.modLink (fun l => { l with linksUp := l.linksUp.set dir up })) dir
  else s

def execLinks (dir up : Nat) (s : State) : Out := .next (links dir up s)

/-! ### Barriers (R483, R485, R487) -/

def hubBarOwn : Nat := 0x518

/-- HUB_BAR_OWN is written (R485). -/
def barrierSlotOwn (v : W32) (s : State) : State :=
  let n := v.toNat
  let slot := n % 256
  if !barOpen s then s
  else if (tget s.link.joins slot).isSome then bar0Err 3 hubBarOwn s
  else
    let s := { s with hub := { s.hub with barOwnLast := slot } }
    s.modLink (fun l => { l with owners := if bit n 31 then tset l.owners slot (bits n 25 16) else tdel l.owners slot })

def execBarrierSlotOwn (v : W32) (s : State) : Out := .next (barrierSlotOwn v s)

/-- A slot becomes FREE. -/
def freeSlot (slot : Nat) (s : State) : State := s.modLink (fun l => { l with joins := tdel l.joins slot })

/-- RELEASE (R483): the join completes, or the message is dropped and counted. -/
def release (group slot epoch : Nat) (s : State) : State :=
  if !s.port.lkpReady then s else
  let stray := s.modLink (fun l => { l with stray := satInc 16 l.stray })
  match tget s.link.joins slot with
  | none => stray
  | some j =>
    if j.epoch = epoch ∧ group = s.port.straps.2.2.2 then finishOk (qkey j.ctx j.queue) j.pos (freeSlot slot s) else stray

def execRelease (group slot : Nat) (epoch : W32) (s : State) : Out := .next (release group slot epoch.toNat s)

/-- The deadline of a join has passed (R483, R487). -/
def barrierDeadline (slot : Nat) (s : State) : State :=
  match tget s.link.joins slot with
  | none => s
  | some j =>
    if s.now < j.deadline then s else
    let k := qkey j.ctx j.queue
    let tag := ((s.cmd k j.pos).map (fun m => eTag m.entry)).getD 0
    let ws := [1 + slot * 2 ^ 8, j.epoch, j.participants, j.timeoutUs]
    let s := raiseEvent (ctxEvent s evPeerTimeout j.ctx tag ws) (freeSlot slot s)
    let s := hutchRec 0x0C (ctxHead s j.ctx tag) ((ws.map (le 8)).flatten) s
    dropShadows (finish k j.pos .peerTimeout (2 ^ 28 + slot) s)

def execBarrierDeadline (slot : Nat) (s : State) : Out := .next (barrierDeadline slot s)

/-! ### Function Level Reset (R470) -/

/-- Contexts of a function that are neither FREE nor LOST. -/
def fnContexts (fn : Nat) (s : State) : List Nat :=
  (s.contexts.filter (fun e => (e.2.rcd.fn == fn) && (e.2.state != CtxState.lost))).map (·.1)

/-- A Function Level Reset is requested. Of a virtual function: its host accesses stop and its ACTIVE contexts are torn
down; of the physical function: a compute reset with every host write discarded. -/
def hfpFlrReq (fn : Nat) (s : State) : State :=
  if !barOpen s then s
  else if fn = 0 then
    let s := modStage 3 0 (fun x => { x with flr := true }) (orderStage3 12 false true s)
    s.modPort (fun p => { p with flrPf := true, dropAll := true })
  else
    let s := s.modPort (fun p => { p with flr := if p.flr.contains fn then p.flr else p.flr ++ [fn],
                                          dropHost := if p.dropHost.contains fn then p.dropHost else p.dropHost ++ [fn] })
    (fnContexts fn s).foldl (fun s c => beginTeardown c true (FaultInfo.of .aborted 0 s.now) none s) s

def execHfpFlrReq (fn : Nat) (s : State) : Out := .next (hfpFlrReq fn s)

/-- The reset is acknowledged once no request of the function is outstanding, or the compute reset has ended. -/
def hfpFlrAck (fn : Nat) (s : State) : State :=
  if fn = 0 then
    if s.port.flrPf && (stageOf 3 0 s).isNone && (stageOf 4 0 s).isNone then
      emit (.flrAck 0) (s.modPort (fun p => { p with flrPf := false, dropAll := false }))
    else s
  else if s.port.flr.contains fn && (fnContexts fn s).isEmpty then
    emit (.flrAck fn) (s.modPort (fun p => { p with flr := p.flr.filter (· != fn), dropHost := p.dropHost.filter (· != fn) }))
  else s

def execHfpFlrAck (fn : Nat) (s : State) : Out := .next (hfpFlrAck fn s)

/-! ### Block reset, POR, test access port, supplies -/

/-- Every part of the block but Hutch, Bureau, WCH_CNT, fuses, flash, pins and memory at its reset value (R500, R344,
R370, R383). -/
def clearBlock (s : State) : State :=
  let w := s.power
  let vf := tmapv w.vf (fun _ v => { Vf.reset s.integ.fmax with supply := v.supply, temp := v.temp })
  let power := { Power.reset s.integ.fmax with sag := w.sag, therm := w.therm, hubTemp := w.hubTemp, vf := vf }
  let watch := { Watch.reset with computeResets := s.watch.computeResets, partitionResets := s.watch.partitionResets,
                                  faultTeardowns := s.watch.faultTeardowns }
  let port := { Port.reset s.integ.slices with vddAon := s.port.vddAon, strapPins := s.port.strapPins, out := s.port.out,
                                               scan := s.port.scan }
  let mem := { s.mem with scratch := [] }
  { s with port := port, mem := mem, hub := Hub.reset, tenants := [], contexts := [], objects := [], graphs := [],
           front := Front.reset, bramble := Bramble.reset, slices := [], trestle := Trestle.reset, sched := Sched.reset,
           wrd := Wardrobe.reset, chest := Chest.reset, watch := watch, jnl := JnlRegs.reset, sta := Sta.reset,
           mgmt := Mgmt.reset s.mgmt.securityFloor, power := power, link := Link.reset }

/-- BLK_RST_N is asserted (R344, R463, R500). -/
def blockReset (s : State) : State :=
  let boot := if s.port.blkRstN then (s.hutch.boot + 1) % 2 ^ 32 else s.hutch.boot
  let b := if s.port.vddAon then bureauReset s.bureau else s.bureau
  { clearBlock s with bureau := b, hutch := { s.hutch with boot := boot } }

def execBlockReset (s : State) : Out := .next (blockReset s)

/-- POR_N is asserted and released (R463): a block reset; WCH_CNT and the block time base start again (R21, R383), and a
test instruction is left (R481). -/
def por (s : State) : State :=
  let s := blockReset s
  { s with time := 0, watch := { s.watch with computeResets := 0, partitionResets := 0, faultTeardowns := 0 },
           port := { s.port with porN := true, scan := false } }

def execPor (s : State) : Out := .next (por s)

/-- A Hutch record has its check (R372). -/
def recordOk (r : List Byte) : Bool :=
  decide (32 ≤ r.length) && decide (fld r 30 2 = crc16 (r.take 30 ++ zeros 2 ++ r.drop 32))

/-- Hutch checks its records and goes on with its numbering (R370). -/
def hutchCheck (h : Hutch) : Hutch :=
  let good := h.log.filter recordOk
  let last := good.getLast?
  { h with log := good, overwritten := satInc 24 h.overwritten (h.log.length - good.length),
           nextSeq := (last.map (fun r => (fld r 4 4 + 1) % 2 ^ 32)).getD h.nextSeq,
           boot := (last.map (fun r => (fld r 16 4 + 1) % 2 ^ 32)).getD h.boot }

/-- BLK_RST_N is released (R418 step 1, R464, R465): Hutch checks its records, the straps are sampled, the ports are ready,
XSPI_RESET_N is released (R480), SYNC goes to Bureau (R327), the budgets go out (R488) and the Limiter takes its first sample (R442). -/
def blockResetRelease (s : State) : State :=
  if s.port.blkRstN || s.port.scan then s else
  let s := s.modPort (fun p => { p with blkRstN := true, hfpReady := true, lkpReady := true, xspiResetN := true, straps := p.strapPins })
  let s := { s with hutch := hutchCheck s.hutch, mgmt := { s.mgmt with bootAt := s.now } }
  limiter id (sendBudgets (usageSend .sync s))

def execBlockResetRelease (s : State) : Out := .next (blockResetRelease s)

/-- An instruction of the test access port (R481): scan and memory test take effect only while BLK_RST_N is asserted, clear
every hub and management SRAM but Hutch, and are left only by POR_N. -/
def tapInstruction (t : TapInstr) (s : State) : State :=
  let enter (s : State) : State := if s.port.blkRstN then s else (clearBlock s).modPort (fun p => { p with scan := true })
  match t with
  | .scan => enter s
  | .memTest => enter s
  | .idcode => s
  | .bypass => s
  | .leave => s

def execTapInstruction (t : TapInstr) (s : State) : Out := .next (tapInstruction t s)

/-- The hub supply fails (R370): the contents of Hutch's SRAM are lost; the bytes of the spill region lie in the slow tier. -/
def execHubSupplyLoss (s : State) : Out := .next { s with hutch := Hutch.reset }

end Sys2Proof.Machine
end

