-- ==== Sys2Proof/Machine/Readback.lean ====
section
/-! DEFINITION. The state window (R398 to R402), snapshots (R403, R404), the event ring (R405), the log and trace rings
(R408, R409). -/

namespace Sys2Proof.Machine

def State.modJnl (s : State) (f : JnlRegs → JnlRegs) : State := { s with jnl := f s.jnl }

/-! ### Rings (R405, R408, R409) -/

/-- A ring register of the JNL window is written (R409): its ring's count starts again. -/
def jnlRingWrite (ring : JnlRing) (v : W64) (s : State) : State :=
  if !barOpen s then s else
  let n := v.toNat
  let base := n / 4096 * 4096
  match ring with
  | .event => s.modJnl (fun j => { j with evtBase := base, evtLog2 := n % 32, evtProd := 0 })
  | .log => s.modJnl (fun j => { j with logBase := base, logMin := bits n 9 8, logLog2 := n % 32, logProd := 0 })
  | .trace => s.modJnl (fun j => { j with traceBase := base, traceLog2 := n % 32, traceProd := 0 })

def execJnlRingWrite (ring : JnlRing) (v : W64) (s : State) : Out := .next (jnlRingWrite ring v s)

def jnlEvtCfg : Nat := 0xB0108

/-- JNL_EVT_CFG is written (R405, R409): a consumed count out of range is ignored and counted. -/
def eventConsWrite (v : W64) (s : State) : State :=
  if !barOpen s then s else
  let n := v.toNat
  let cons := n / 2 ^ 32
  let s := s.modJnl (fun j => { j with evtMsix := bit n 16, evtVector := n % 4096 })
  if 2 ^ s.jnl.evtLog2 < lag 32 s.jnl.evtProd cons then bar0Err 3 jnlEvtCfg s
  else s.modJnl (fun j => { j with evtCons := cons })

def execEventConsWrite (v : W64) (s : State) : Out := .next (eventConsWrite v s)

/-- The event writer writes the oldest waiting event, whose cell is then free (R405). -/
def eventWrite (s : State) : State :=
  match s.jnl.events with
  | [] => s
  | e :: t =>
    if evtRoom s then
      let j := s.jnl
      let s := hostWrite none (pfLoc (j.evtBase + (j.evtProd % 2 ^ j.evtLog2) * 64)) e.bytes s
      let s := s.modJnl (fun j => { j with events := t, evtProd := (j.evtProd + 1) % 2 ^ 64, evtWritten := (j.evtWritten + 1) % 2 ^ 64 })
      let s := dropItem 4 0 e.id s
      let s := if j.evtMsix then msix 0 j.evtVector s else s
      bump 7 s
    else s

def execEventWrite (s : State) : Out := .next (eventWrite s)

/-- The trace ring is on (R409). -/
def traceRingOn (s : State) : Bool := decide (s.jnl.traceBase ≠ 0 ∧ 8 ≤ s.jnl.traceLog2 ∧ s.jnl.traceLog2 ≤ 24)

/-- The oldest staged trace record is written (R408). -/
def traceRingWrite (s : State) : State :=
  match s.jnl.trace with
  | [] => s
  | r :: t =>
    if traceRingOn s then
      let j := s.jnl
      let s := hostWrite none (pfLoc (j.traceBase + (j.traceProd % 2 ^ j.traceLog2) * 32)) r s
      s.modJnl (fun j => { j with trace := t, traceProd := (j.traceProd + 1) % 2 ^ 32 })
    else s

def execTraceRingWrite (s : State) : Out := .next (traceRingWrite s)

/-! ### What is read back (R400 to R402, R207) -/

/-- Space 0x01 (R400). -/
def contextObject (c : Nat) (x : Context) (s : State) : List Byte :=
  let d := tgetD s.front.ctxDrops c (0, 0)
  padTo 64 (x.raw.take 64) ++ wordBytes (queryContext c s ++ queryUse c s ++ queryMemory c s) ++ le 8 d.1 ++ le 8 d.2

/-- A queue (R401). -/
def queueObject (q : Queue) : List Byte :=
  le 1 q.state.code ++ le 1 (b2n q.overflow) ++ zeros 2 ++ le 4 q.overflowCount ++ le 8 q.d ++ le 8 q.f ++ le 8 q.w ++
  le 4 q.dropped ++ le 4 q.badDoorbell ++ le 4 q.badSize ++ le 4 q.badDetail ++ le 4 q.timeouts ++ le 4 q.spilled.length ++
  le 4 q.pd ++ le 4 q.cd

/-- A sequence record (R207). -/
def seqRecord (q : Seq) (s : State) : List Byte :=
  let fast := fastPages q s
  let slow := (pageFrames q s).length - fast
  le 1 q.state.code ++
  le 1 (b2n q.cancel + 2 * b2n q.adm.sharePrefix + 4 * b2n q.adm.autoSeed + 8 * b2n q.staged + 16 * b2n q.rtReserved +
    32 * b2n q.phaseDecode) ++
  le 2 q.loopId ++ le 4 q.seqId ++ le 2 q.ctx ++ le 2 q.tenant ++ le 4 q.admitTag ++ le 8 q.adm.seed.toNat ++ le 8 q.admitStep ++
  le 8 q.lastStep ++ le 4 q.adm.promptTokens ++ le 4 q.promptDone ++ le 4 q.produced ++ le 4 q.adm.maxNew ++
  le 4 q.adm.firstCounter ++ le 4 q.kvTokens ++ le 4 fast ++ le 4 slow ++ le 4 (pageRoot q) ++ le 4 q.reserve ++
  le 4 q.acceptOrder ++ le 4 q.preempts ++ zeros 8

/-- A finite nonnegative FP32 value in units of 2^-149. -/
def f32Units (v : Nat) : Nat :=
  let e := bits v 30 23
  if e = 0 then bits v 22 0 else (2 ^ 23 + bits v 22 0) * 2 ^ (e - 1)

/-- The FP64 sum of FP32 means, in order (R240); a mean that is not finite gives infinity. -/
def sumF64 (vs : List Nat) : Nat :=
  if vs.any (fun v => bits v 30 23 == 255) then 0x7FF0000000000000 else
  let n := vs.foldl (fun a v => roundSig 53 0 (a + f32Units v)) 0
  if n = 0 then 0 else
  let l := Nat.log2 n
  let m := if 52 ≤ l then n / 2 ^ (l - 52) else n * 2 ^ (52 - l)
  (l + 874) * 2 ^ 52 + (m - 2 ^ 52)

/-- The words of a loop (R402). -/
def loopWords (l : Nat) (lp : Loop) (s : State) : List Nat :=
  let qs := loopSeqs l s
  let n (st : SeqState) : Nat := qs.countP (fun e => e.2.state == st)
  let t := lp.stats
  [(if lp.draining then 2 else 1) + lp.ctx * 2 ^ 16 + lp.tenant * 2 ^ 32, lp.step,
   n .waiting + (n .prefill + n .decode) * 2 ^ 32, n .preempted, t.steps, t.deadlineMisses] ++ t.ended ++
  [t.suffered, t.inflicted, t.stage5Stops] ++ t.lossy ++ [t.native, t.gated, sumF64 t.mseSum, t.mseMax, t.promoted, t.lost] ++
  (match lp.jnl with
   | some j => [j.written, j.consumed, j.waits, j.gaps]
   | none => [0, 0, 0, 0])

/-- A loop (R402); zero where it is not open. -/
def loopObject (l : Nat) (s : State) : List Byte :=
  match tget s.trestle.loops l with
  | some lp => wordBytes (loopWords l lp s)
  | none => zeros 256

/-- Size of a region of Hutch (R371, R400). -/
def hutchSize (i : Nat) : Nat := if i = 0 then logRing else if i = 9 then 3 * 2 ^ 20 else if i = 10 then spillRing else 64 * 2 ^ 20

/-- 64 bytes of a region of Hutch from an offset on (R371, R400): of its log ring and dump area, where bytes not written read zero, or of
the spill region as the slow tier holds it. -/
def hutchRead (i off : Nat) (s : State) : List Byte :=
  if i = 0 then padTo 64 (slice s.hutch.log.flatten off 64)
  else if i = 9 then padTo 64 (slice s.hutch.dumpArea off 64)
  else memRead (spillLoc s ((if i = 10 then 0 else dumpOff (i - 1)) + off)) 64 s

/-- The object of a state-window address outside space 6, with its size; an error code where there is none (R399, R400). -/
def staObject (space index : Nat) (s : State) : Except Nat (List Byte × Nat) :=
  let whole (b : List Byte) : Except Nat (List Byte × Nat) := .ok (b, b.length)
  let queue : Except Nat Queue :=
    match tget s.contexts (index / 256) with
    | some x => if index % 256 < x.rcd.queueCount then .ok (queueAt (index / 256) (index % 256) s) else .error 2
    | none => .error 2
  if space = 1 then
    match tget s.contexts index with
    | some x => whole (contextObject index x s)
    | none => .error 2
  else if space = 2 then queue.bind (fun q => whole (queueObject q))
  else if space = 3 then queue.bind (fun q => whole (spilledRecords q s).flatten)
  else if space = 4 then
    if Config.maxSequences ≤ index then .error 2 else
    let r := match tget s.trestle.seqs index with
      | some q => seqRecord q s
      | none => zeros 96
    whole (r ++ zeros 32 ++ memRead (paramLoc index s) 128 s)
  else if space = 5 then (if Config.maxLoops ≤ index then .error 2 else whole (loopObject index s))
  else if space = 7 then
    if 64 ≤ index then .error 2 else
    whole (wordBytes [tgetD s.chest.bankCount index 0, tgetD s.chest.bankRetired index 0, tgetD s.chest.bankBad index 0])
  else if space = 8 then
    if index ≠ 0 then .error 2 else whole (wordBytes [s.jnl.evtLost, s.jnl.evtMerged, s.jnl.evtWritten])
  else .error 1

/-- A compute reset stands between its steps 4 and 5, where the state window does not answer (R398). -/
def staBlocked (s : State) : Bool := ((stageOf 3 0 s).map (fun x => x.phase == 1)).getD false

/-- The offset of a read is legal in an object of a size (R399). -/
def staOffset (off n : Nat) (b : List Byte) : Except Nat (List Byte) :=
  if off % 64 ≠ 0 then .error 5 else if n ≤ off then .error 3 else .ok b

/-- A read of space 6 (R400): the spill region is there while WCH_SPILL_BASE is valid, and what was spilled stays readable (R377). -/
def staHutch (index off : Nat) (s : State) : Except Nat (List Byte) :=
  if 10 < index then .error 2
  else if index ≠ 0 ∧ index ≠ 9 ∧ s.watch.spillValid = false then .error 4
  else staOffset off (hutchSize index) (hutchRead index off s)

/-- The 64 bytes a state-window read gives, or its error code (R399). -/
def staRead (a : Nat) (s : State) : Except Nat (List Byte) :=
  if staBlocked s then .error 4 else
  if bits a 63 56 = 6 then staHutch (bits a 55 32) (a % 2 ^ 32) s else
  match staObject (bits a 63 56) (bits a 55 32) s with
  | .error e => .error e
  | .ok (b, n) => staOffset (a % 2 ^ 32) n (padTo 64 (slice b (a % 2 ^ 32) 64))

/-- STA_ADDR is written (R399): one read starts. -/
def staAddrWrite (v : W64) (s : State) : State :=
  if !barOpen s then s else
  { s with sta := { s.sta with addr := v, busy := true, valid := false, data := List.replicate 8 0 } }

def execStaAddrWrite (v : W64) (s : State) : Out := .next (staAddrWrite v s)

/-- The read completes (R398, R399). -/
def staReadDone (s : State) : State :=
  if !s.sta.busy then s else
  match staRead s.sta.addr.toNat s with
  | .error e => { s with sta := { s.sta with busy := false, valid := false, error := e, data := List.replicate 8 0 } }
  | .ok b =>
    let ws := (List.range 8).map (fun i => BitVec.ofNat 64 (fld b (8 * i) 8))
    { s with sta := { s.sta with busy := false, valid := true, error := 0, data := ws } }

def execStaReadDone (s : State) : Out := .next (staReadDone s)

/-! ### Snapshots (R403, R404) -/

/-- An item of section 4 (R403). -/
def snapObject (key : Nat) (o : Obj) : List Byte :=
  le 4 (o.kind * 2 ^ 30 + o.tag * 2 ^ 20 + key % 2 ^ 20) ++ le 1 (b2n o.freePending) ++ le 1 o.kind ++ zeros 2 ++ le 4 o.pins ++ le 4 o.refs

/-- Items of section 8 (R403). -/
def snapVersions (key : Nat) (g : GraphVers) (s : State) : List (List Byte) :=
  let tag := ((tget s.objects key).map (·.tag)).getD 0
  g.versions.map (fun v =>
    le 4 (2 * 2 ^ 30 + tag * 2 ^ 20 + key % 2 ^ 20) ++ le 4 v.num ++ le 4 v.bound ++ le 4 (b2n (decide (v.num = g.current))))

/-- The items of a section of a context's snapshot (R403). -/
def snapItems (c typ : Nat) (s : State) : List (List Byte) :=
  match tget s.contexts c with
  | none => []
  | some x =>
    if typ = 1 then [(contextObject c x s).take 256]
    else if typ = 2 then (List.range x.rcd.queueCount).map (fun q => queueObject (queueAt c q s))
    else if typ = 3 then ((ctxQueues c s).map (fun e => spilledRecords e.2 s)).flatten
    else if typ = 4 then (ctxObjects c s).map (fun e => snapObject e.1 e.2)
    else if typ = 5 then waitItems c false s
    else if typ = 6 then (s.trestle.loops.filter (fun e => e.2.ctx == c)).map (fun e => loopObject e.1 s)
    else if typ = 7 then (s.trestle.seqs.filter (fun e => e.2.ctx == c)).map (fun e => seqRecord e.2 s)
    else ((s.graphs.filter (fun e => e.1 / 2 ^ 20 == c)).map (fun e => snapVersions e.1 e.2 s)).flatten

/-- The Detail section takes the spilled records and clears the overflow of their queues (R404, R90). -/
def takeSpilled (c : Nat) (s : State) : State :=
  s.modQueues (fun t => tmapv t (fun k q => if k / 256 = c then { q with spilled := [], overflow := false, overflowCount := 0 } else q))

/-- A snapshot as it grows: bytes used, directory, truncated, whether section 2 was written. -/
structure Snap where
  used : Nat
  dir : List Byte
  truncated : Bool
  queues : Bool
  deriving DecidableEq, Repr

/-- One section is written where it fits (R404). -/
def snapSection (c : Nat) (buf : Loc) (len : Nat) (a : Snap × State) (typ : Nat) : Snap × State :=
  let (d, s) := a
  let items := snapItems c typ s
  let bs := items.flatten
  let off := roundUp d.used 64
  if off + bs.length ≤ len ∧ (typ = 3 → d.queues = true) then
    let s := locWrite (some c) (buf.plus off) bs s
    let s := if typ = 3 then takeSpilled c s else s
    ({ d with used := off + bs.length, dir := d.dir ++ le 4 typ ++ le 4 off ++ le 4 bs.length ++ le 4 items.length,
              queues := d.queues || decide (typ = 2) }, s)
  else ({ d with dir := d.dir ++ zeros 16, truncated := true }, s)

/-- OP_SNAPSHOT (R403, R404). -/
def opSnapshot (c q pos : Nat) (s : State) : State :=
  let k := qkey c q
  match starting k pos 0x13 s with
  | none => s
  | some m =>
    let s := begun k pos s
    match operandLoc k m 16 24 s with
    | none => finish k pos .access 16 s
    | some buf =>
      let len := fld m.entry 32 8
      let (d, s) := [1, 2, 3, 4, 5, 6, 7, 8].foldl (snapSection c buf len)
        ({ used := 256, dir := [], truncated := false, queues := false }, s)
      let head := le 1 2 ++ le 1 (b2n d.truncated) ++ le 2 c ++ zeros 4 ++ le 8 m.dispatchedAt ++ le 8 s.now ++ zeros 8 ++ d.dir
      finishOk k pos (locWrite (some c) buf ((padTo 256 head).take len) s)

def execOpSnapshot (c q pos : Nat) (s : State) : Out := .next (opSnapshot c q pos s)

end Sys2Proof.Machine
end

