-- ==== Sys2Proof/Machine/Registers.lean ====
section
/-! DEFINITION. BAR0 (R491 to R500): which register lies at an offset, what a read of it returns, and what a write of it does. -/

namespace Sys2Proof.Machine

/-- The registers of BAR0 (R491, the register index). c is a class of Chest, p a partition, k a slice, st a stream. -/
inductive Reg where
  | hubId | bar0Err | tntBase | ctxBase | objCmd | objSts | sealAddr | sealCmd | sealSts | burRing | burProd | burReq
  | devCaps | hostCaps | agreedCaps | straps | lkpCfg | lkpSts | barOwn
  | qcmd | qsts | dlkCfg | waitSts | dlkCnt
  | trsSts | schCfg | sealCfg | benchSel | benchSts | schSts
  | wrdCfg | wrdTier | wrdFrames | wrdFree | demoteCfg | mapoutSts | hotsetCfg
  | poolCfg | classCfg (c : Nat) | poolSts | classSts (c : Nat) | eccCfg | eccSts
  | wchCfg | wchSts | wchCnt | resetCmd | resetSts | spillBase | hutchSts
  | mgtSts | mgtCfg | fwVer | wdt (c : Nat) | updAddr | updCmd | updSts
  | pwrSts | shedCfg | thermCfg | limFuse | vfCfg | bgCfg | bgSts | vfSts (p : Nat)
  | staAddr | staSts | staData (i : Nat)
  | evtRing | evtCfg | evtProd | logRing | logProd | traceMask | traceRing | traceProd
  | slcId (k : Nat) | streamSts (k st : Nat) | sideDepth (k st : Nat) | slip (k st : Nat) | icache (k : Nat)
  deriving DecidableEq, Repr

/-- The registers that stand alone, by BAR0 offset. -/
def regTable : List (Nat × Reg) :=
  [(0x000, .hubId), (0x010, .bar0Err), (0x100, .tntBase), (0x108, .ctxBase), (0x110, .objCmd), (0x118, .objSts),
   (0x200, .sealAddr), (0x208, .sealCmd), (0x210, .sealSts), (0x300, .burRing), (0x308, .burProd), (0x310, .burReq),
   (0x400, .devCaps), (0x408, .hostCaps), (0x410, .agreedCaps), (0x500, .straps), (0x508, .lkpCfg), (0x510, .lkpSts),
   (0x518, .barOwn), (0x10100, .qcmd), (0x10108, .qsts), (0x20100, .dlkCfg), (0x20108, .waitSts), (0x20110, .dlkCnt)] ++
  [(0x30100, .trsSts), (0x30200, .schCfg), (0x30208, .sealCfg), (0x30210, .benchSel), (0x30218, .benchSts),
   (0x30220, .schSts), (0x40100, .wrdCfg), (0x40108, .wrdTier), (0x40110, .wrdFrames), (0x40118, .wrdFree),
   (0x40120, .demoteCfg), (0x40128, .mapoutSts), (0x40130, .hotsetCfg), (0x50100, .poolCfg), (0x50140, .poolSts),
   (0x50180, .eccCfg), (0x50188, .eccSts), (0x60100, .wchCfg), (0x60108, .wchSts), (0x60110, .wchCnt),
   (0x60120, .resetCmd), (0x60128, .resetSts), (0x60140, .spillBase), (0x60148, .hutchSts)] ++
  [(0x70100, .mgtSts), (0x70108, .mgtCfg), (0x70110, .fwVer), (0x70200, .updAddr), (0x70208, .updCmd), (0x70210, .updSts),
   (0x80100, .pwrSts), (0x80108, .shedCfg), (0x80110, .thermCfg), (0x80118, .limFuse), (0x80120, .vfCfg), (0x80130, .bgCfg),
   (0x80138, .bgSts), (0xA0100, .staAddr), (0xA0108, .staSts), (0xB0100, .evtRing), (0xB0108, .evtCfg), (0xB0110, .evtProd),
   (0xB0120, .logRing), (0xB0128, .logProd), (0xB0140, .traceMask), (0xB0148, .traceRing), (0xB0150, .traceProd)]

/-- The registers of a slice's window (R178). -/
def sliceReg (k off : Nat) : Option Reg :=
  let st := (off - 0x100) / 0x20
  let r := (off - 0x100) % 0x20
  if off = 0 then some (.slcId k)
  else if off = 0x200 then some (.icache k)
  else if 0x100 ≤ off ∧ off < 0x180 then
    (if r = 0 then some (.streamSts k st) else if r = 8 then some (.sideDepth k st) else if r = 0x10 then some (.slip k st) else none)
  else none

/-- The register at an 8-byte-aligned BAR0 offset of a block of n slices (R491, R178, R493). -/
def Reg.at_ (n off : Nat) : Option Reg :=
  let i (base : Nat) : Nat := (off - base) / 8
  let within (base count : Nat) : Bool := decide (base ≤ off ∧ off < base + 8 * count)
  if within 0x50110 6 then some (.classCfg (i 0x50110))
  else if within 0x50150 6 then some (.classSts (i 0x50150))
  else if within 0x70120 4 then some (.wdt (i 0x70120))
  else if within 0x80200 48 then some (.vfSts (i 0x80200))
  else if within 0xA0140 8 then some (.staData (i 0xA0140))
  else if 0x100000 ≤ off then
    (if (off - 0x100000) / 0x1000 < n then sliceReg ((off - 0x100000) / 0x1000) (off % 0x1000) else none)
  else (regTable.find? (fun e => e.1 == off)).map (·.2)

/-- A register has 32 bits. -/
def Reg.narrow : Reg → Bool
  | .objCmd | .objSts | .sealCmd | .sealSts | .burReq | .straps | .lkpCfg | .barOwn | .qcmd | .qsts | .dlkCfg | .dlkCnt
  | .sealCfg | .benchSel | .eccCfg | .resetCmd | .resetSts | .shedCfg | .thermCfg | .vfCfg | .sideDepth _ _ => true
  | _ => false

/-- A register has a field of access RW, W1C, W1S or WO (R493). -/
def Reg.writable : Reg → Bool
  | .tntBase | .ctxBase | .objCmd | .sealAddr | .sealCmd | .burRing | .burReq | .hostCaps | .lkpCfg | .barOwn | .qcmd
  | .dlkCfg | .schCfg | .sealCfg | .benchSel | .wrdCfg | .wrdTier | .demoteCfg | .hotsetCfg | .poolCfg | .classCfg _
  | .eccCfg | .wchCfg | .resetCmd | .spillBase | .mgtCfg | .updAddr | .updCmd | .shedCfg | .thermCfg | .vfCfg | .bgCfg
  | .staAddr | .evtRing | .evtCfg | .logRing | .traceMask | .traceRing => true
  | _ => false

/-! ### Reads (R493) -/

/-- TRS_BENCH_STS of a bench (R287). -/
def benchStatus (b : Nat) (s : State) : Nat :=
  let x := benchAt b s
  let st := x.state.code * 2 ^ 61
  let who (c : Nat) : Nat := c % 2 ^ 14 * 2 ^ 42 + (s.tenantOf c).getD 0 % 2 ^ 10 * 2 ^ 32
  match x.res.bind (tget s.sched.residencies) with
  | some r =>
    let rt := ctxCls s r.ctx == .rt
    st + (ctxCls s r.ctx).code * 2 ^ 59 + b2n rt * 2 ^ 58 + b2n (isSealedT s (s.tenantOf r.ctx)) * 2 ^ 57 +
      b2n r.running * 2 ^ 56 + who r.ctx + min ((s.now - r.placedAt) / Config.us) (2 ^ 32 - 1)
  | none =>
    match x.state, x.claim.bind (tget s.sched.jobs) with
    | .claimed, some j => st + who j.ctx
    | _, _ => st

/-- Benches in a state. -/
def benchesIn (t : BenchState → Bool) (s : State) : Nat := (allBenches s).countP (fun b => t (benchAt b s).state)

/-- WRD_CFG (R221). -/
def wrdCfgValue (w : Wardrobe) : Nat := w.hkBase / 2 ^ 30 * 2 ^ 30 + b2n w.enable * 2 ^ 8 + w.pageLog2 % 32

/-- A value of a two's-complement field of w bits. -/
def signed (w : Nat) (v : Int) : Nat := (v % (2 ^ w : Int)).toNat

/-- WRD_FRAMES and WRD_FREE (R226): zero until the frame table is built (R498). -/
def wrdFramesValue (s : State) : Nat :=
  if s.wrd.built then inService (fFast s) (fFast s + fSlow s) s * 2 ^ 32 + inService 0 (fFast s) s else 0
def wrdFreeValue (s : State) : Nat :=
  if s.wrd.built then signed 28 (freeSlow s) * 2 ^ 32 + signed 28 (freeFast s) else 0

/-- WRD_MAPOUT_STS (R251). -/
def mapoutValue (s : State) : Nat :=
  let w := s.wrd
  let last := match w.mapout with
    | some m => (m.channel, m.lost)
    | none => w.mapoutLast
  b2n w.mapout.isSome * 2 ^ 63 + b2n last.2 * 2 ^ 62 + last.1 % 2 ^ 9 * 2 ^ 53 +
    w.frames.countP (fun e => e.2.state == .leaving) % 2 ^ 26 * 2 ^ 27 + w.removedTotal % 2 ^ 27

/-- CST_POOL_STS and CST_CLASS_STS (R321). -/
def poolStatus (s : State) : Nat :=
  b2n s.chest.hfpPause * 2 ^ 63 + b2n s.chest.mfpPause * 2 ^ 62 + s.chest.peak % 2 ^ 19 * 2 ^ 32 + poolUsed' s % 2 ^ 19
def classStatus (c : Nat) (s : State) : Nat :=
  let x := classAt c s
  b2n x.congested * 2 ^ 63 + x.peak % 2 ^ 19 * 2 ^ 32 + x.used % 2 ^ 19

/-- WCH_STS (R383). -/
def wchStatus (s : State) : Nat :=
  let w := s.watch
  let out := (List.range s.integ.slices).countP (fun p => (partBenches p).all (fun b => (benchAt b s).state == .out))
  let downs := s.contexts.countP (fun e => e.2.state == .teardown true)
  b2n w.hubReady * 2 ^ 63 + b2n (stageOf 3 0 s).isSome * 2 ^ 62 + b2n s.port.resetReq * 2 ^ 61 +
    w.stages.countP (fun x => x.stage == 2) % 2 ^ 7 * 2 ^ 48 + out % 2 ^ 8 * 2 ^ 40 + w.lastMc % 2 ^ 8 * 2 ^ 32 + downs % 2 ^ 16

/-- MGT_STS (R439). -/
def mgtStatus (s : State) : Nat :=
  let m := s.mgmt
  let core (k : Nat) : Nat := (coreAt k s).state.code * 16 ^ k
  bootStageNow s % 2 ^ 8 * 2 ^ 56 + m.bootError % 2 ^ 8 * 2 ^ 48 + m.slot % 2 * 2 ^ 47 + b2n m.fwReady * 2 ^ 46 +
    b2n m.bootedPending * 2 ^ 45 + m.securityFloor % 2 ^ 7 * 2 ^ 32 + (core 0 + core 1 + core 2 + core 3) * 2 ^ 16 + m.restarts % 2 ^ 16

/-- PWR_STS (R457). -/
def pwrStatus (s : State) : Nat :=
  let w := s.power
  let h := hottest s
  w.level % 8 * 2 ^ 61 + demand s % 8 * 2 ^ 58 + b2n (emergency s) * 2 ^ 57 + b2n w.quiesced * 2 ^ 56 + shedCauses s % 32 * 2 ^ 51 +
    w.sag % 8 * 2 ^ 48 + h.1 % 2 ^ 8 * 2 ^ 40 + h.2 % 2 ^ 8 * 2 ^ 32 + w.levelChanges % 2 ^ 16

/-- Four bits per direction (R490). -/
def linksValue (l : List Nat) : Nat := (l.zipIdx).foldl (fun a e => a + e.1 % 16 * 16 ^ e.2) 0

/-- A register of the HUB window. -/
def readHub (r : Reg) (s : State) : Nat :=
  let h := s.hub
  let i := s.integ
  match r with
  | .hubId => 2 * 2 ^ 56 + i.revision % 256 * 2 ^ 48 + i.slices % 64 * 2 ^ 32 + 0x594E * 2 ^ 16
  | .bar0Err => h.bar0Count * 2 ^ 32 + h.bar0Cause % 16 * 2 ^ 28 + h.bar0Off % 2 ^ 21
  | .tntBase => h.tntBase
  | .ctxBase => h.ctxBase
  | .objSts => b2n h.objBusy * 2 ^ 31 + h.objResult % 256 * 2 ^ 16 + h.objLast % 2 ^ 14
  | .sealAddr => h.sealAddr
  | .sealSts => h.sealResult % 256 * 2 ^ 16 + h.sealSlots.foldl (fun a e => a + 2 ^ e.1) 0
  | .burRing => h.burRingBase + h.burRingLog2 % 16
  | .burProd => h.burProd
  | .devCaps => h.devCaps
  | .hostCaps => h.hostCaps
  | .agreedCaps => b2n h.capsValid * 2 ^ 63 + h.agreedCaps % 2 ^ 63
  | .straps => s.port.straps.2.2.2 % 64 * 2 ^ 15 + s.port.straps.2.2.1 % 32 * 2 ^ 10 + s.port.straps.2.1 % 32 * 2 ^ 5 + s.port.straps.1 % 32
  | .lkpCfg => s.link.transitPct % 128
  | .lkpSts => b2n s.port.lkpReady * 2 ^ 63 + min s.link.joins.length 255 * 2 ^ 48 + s.link.stray % 2 ^ 16 * 2 ^ 32 + linksValue s.link.linksUp
  | .barOwn =>
    h.barOwnLast % 256 + (match tget s.link.owners h.barOwnLast with
      | some t => 2 ^ 31 + t % 1024 * 2 ^ 16
      | none => 0)
  | _ => 0

/-- A register of the FRT, BRM, TRS, WRD and CST windows. -/
def readWork (r : Reg) (s : State) : Nat :=
  match r with
  | .qsts => b2n s.front.qBusy * 2 ^ 31 + s.front.qResult % 256 * 2 ^ 16
  | .dlkCfg => b2n s.bramble.dlkEnable * 2 ^ 31 + s.bramble.dlkWindow % 2 ^ 16
  | .waitSts => s.bramble.shadows.length % 2 ^ 19 * 2 ^ 32 + s.waitsUsed % 2 ^ 18
  | .dlkCnt => s.bramble.dlkCnt % 2 ^ 32
  | .trsSts => s.trestle.loops.length % 2 ^ 11 * 2 ^ 48 +
      ceilDiv (s.trestle.loops.foldl (fun a e => a + 2 * e.2.slotBytes) 0) (2 ^ 20) % 2 ^ 7 * 2 ^ 32 + s.trestle.seqs.length % 2 ^ 19
  | .schCfg => s.sched.rtBenchMax % 256 * 2 ^ 56 + s.sched.minBat % 2 ^ 16 * 2 ^ 32 + s.sched.minInt % 2 ^ 16 * 2 ^ 16 + s.sched.evictAfter % 2 ^ 16
  | .sealCfg => s.tenants.countP (fun e => e.2.rcd.isSealed) % 256 * 2 ^ 8 + s.sched.slotsPerTenant % 32
  | .benchSel => s.sched.benchSel % 256
  | .benchSts => benchStatus s.sched.benchSel s
  | .schSts => s.sched.vacates % 2 ^ 32 * 2 ^ 32 + benchesIn (· == .free) s % 256 * 2 ^ 16 + rtBenches s % 256 * 2 ^ 8 +
      benchesIn (fun b => (b == .saving) || (b == .restoring)) s % 256
  | .wrdCfg => wrdCfgValue s.wrd
  | .wrdTier => s.wrd.slowGib % 2 ^ 32 * 2 ^ 32 + s.wrd.fastGib % 2 ^ 32
  | .wrdFrames => wrdFramesValue s
  | .wrdFree => wrdFreeValue s
  | .demoteCfg => s.wrd.promoteAbove % 2 ^ 27 * 2 ^ 27 + s.wrd.demoteBelow % 2 ^ 27
  | .mapoutSts => mapoutValue s
  | .hotsetCfg => s.wrd.maxFrames % 2 ^ 27 * 2 ^ 32 + s.wrd.minFrames % 2 ^ 27
  | .poolCfg => s.chest.mfpHigh % 1024 * 2 ^ 30 + s.chest.mfpLow % 1024 * 2 ^ 20 + s.chest.hfpHigh % 1024 * 2 ^ 10 + s.chest.hfpLow % 1024
  | .classCfg c => let x := classAt c s
                   (x.cut - 1) % 64 * 2 ^ 58 + x.high % 2 ^ 18 * 2 ^ 40 + x.low % 2 ^ 18 * 2 ^ 22 + x.quota % 2 ^ 18
  | .poolSts => poolStatus s
  | .classSts c => classStatus c s
  | .eccCfg => s.chest.bankThreshold % 2 ^ 16 * 2 ^ 16 + s.chest.eventStep % 2 ^ 16
  | .eccSts => min s.chest.retired.length (2 ^ 16 - 1) * 2 ^ 48 + s.chest.uncorrectable % 2 ^ 16 * 2 ^ 32 + s.chest.corrected % 2 ^ 32
  | _ => 0

/-- A register of the WCH, MGT and PWR windows. -/
def readManage (r : Reg) (s : State) : Nat :=
  let w := s.watch
  let m := s.mgmt
  let p := s.power
  let i := s.integ
  match r with
  | .wchCfg => w.pfVector % 2 ^ 12 * 2 ^ 44 + b2n w.notify * 2 ^ 43 + w.moverWindow % 2 ^ 16 * 2 ^ 16 + w.hubWindow % 2 ^ 16
  | .wchSts => wchStatus s
  | .wchCnt => w.computeResets % 2 ^ 16 * 2 ^ 48 + w.partitionResets % 2 ^ 16 * 2 ^ 32 + w.faultTeardowns % 2 ^ 32
  | .resetSts => b2n w.rstBusy * 2 ^ 31 + w.rstResult % 256 * 2 ^ 16
  | .spillBase => w.spillBase / 2 ^ 30 * 2 ^ 30 + b2n w.spillValid
  | .hutchSts => s.hutch.nextSeq % 2 ^ 32 * 2 ^ 32 + s.hutch.dumps.length % 16 * 2 ^ 28 + s.hutch.lastSlot % 8 * 2 ^ 25 +
      b2n s.hutch.spillOk * 2 ^ 24 + s.hutch.overwritten % 2 ^ 24
  | .mgtSts => mgtStatus s
  | .mgtCfg => m.fwWindow % 2 ^ 16
  | .fwVer => m.fwVersion % 2 ^ 32 * 2 ^ 32 + m.patchLevel % 2 ^ 32
  | .wdt c => let x := coreAt c s
              b2n x.wdtEnable * 2 ^ 63 + b2n x.wdtExpired * 2 ^ 62 + x.wdtExpiries % 2 ^ 16 * 2 ^ 32 + x.wdtTimeout % 2 ^ 16
  | .updAddr => m.updAddr
  | .updSts => b2n m.updBusy * 2 ^ 63 + m.updState.code * 2 ^ 60 + m.updResult % 256 * 2 ^ 48 + m.stagedVersion % 2 ^ 32
  | .pwrSts => pwrStatus s
  | .shedCfg => p.forced % 8 * 2 ^ 16 + p.holdMs % 2 ^ 16
  | .thermCfg => p.tCrit % 256 * 2 ^ 16 + p.tHigh % 256 * 2 ^ 8 + p.tWarn % 256
  | .limFuse => i.vminMv % 2 ^ 16 * 2 ^ 48 + i.tMax % 256 * 2 ^ 40 + i.floorMin % 256 * 2 ^ 8 + i.fmax % 256
  | .vfCfg => p.floorCode % 256 * 2 ^ 8 + p.targetCode % 256
  | .bgCfg => p.scrubPeriod % 2 ^ 16 * 2 ^ 48 + p.calibPeriod % 2 ^ 16 * 2 ^ 32 + p.bankTestPeriod % 2 ^ 16 * 2 ^ 16 + p.telemetryPeriod % 2 ^ 16
  | .bgSts => p.scrubPasses % 2 ^ 32 * 2 ^ 32 + p.priorityScrubs % 2 ^ 16 * 2 ^ 16 + p.calibPostponed % 256 * 2 ^ 8 + p.selftestsFailed % 256
  | .vfSts k =>
    if i.slices ≤ k then 0 else
    let v := vfAt k s
    v.supply % 2 ^ 16 * 2 ^ 48 + v.temp % 256 * 2 ^ 40 + v.overgrants % 256 * 2 ^ 32 + capOf k s % 256 * 2 ^ 24 +
      v.requested % 256 * 2 ^ 16 + v.granted % 256 * 2 ^ 8
  | _ => 0

/-- A register of the STA, JNL and SLC windows. -/
def readTrace (r : Reg) (s : State) : Nat :=
  let j := s.jnl
  match r with
  | .staAddr => s.sta.addr.toNat
  | .staSts => b2n s.sta.busy * 2 ^ 63 + b2n s.sta.valid * 2 ^ 62 + s.sta.error % 64 * 2 ^ 56
  | .staData i => ((s.sta.data[i]?).getD 0).toNat
  | .evtRing => j.evtBase + j.evtLog2 % 32
  | .evtCfg => j.evtCons % 2 ^ 32 * 2 ^ 32 + b2n j.evtMsix * 2 ^ 16 + j.evtVector % 2 ^ 12
  | .evtProd => j.evtProd
  | .logRing => j.logBase + j.logMin % 4 * 2 ^ 8 + j.logLog2 % 32
  | .logProd => j.logProd
  | .traceMask => j.traceMask.toNat
  | .traceRing => j.traceBase + j.traceLog2 % 32
  | .traceProd => j.traceDropped % 2 ^ 32 * 2 ^ 32 + j.traceProd % 2 ^ 32
  | .slcId k => s.integ.latencyTableId % 2 ^ 32 * 2 ^ 32 + k % 64 * 2 ^ 8 + (sliceAt k s).fastChannels % 16
  | .streamSts k st => Sys2Proof.Machine.streamSts (streamAt k st s)
  | .sideDepth k st => sideDepths (streamAt k st s)
  | .slip k st => let x := ((sliceAt k s).slipTotal[st]?).getD (0, 0)
                  x.2 % 2 ^ 32 * 2 ^ 32 + x.1 % 2 ^ 32
  | .icache k => (sliceAt k s).missStall % 2 ^ 32 * 2 ^ 32 + (sliceAt k s).misses % 2 ^ 32
  | _ => 0

/-- The value of a register; a write-only register reads zero (R10). -/
def Reg.value (r : Reg) (s : State) : Nat :=
  match r with
  | .hubId | .bar0Err | .tntBase | .ctxBase | .objCmd | .objSts | .sealAddr | .sealCmd | .sealSts | .burRing | .burProd
  | .burReq | .devCaps | .hostCaps | .agreedCaps | .straps | .lkpCfg | .lkpSts | .barOwn => readHub r s
  | .wchCfg | .wchSts | .wchCnt | .resetCmd | .resetSts | .spillBase | .hutchSts | .mgtSts | .mgtCfg | .fwVer | .wdt _
  | .updAddr | .updCmd | .updSts | .pwrSts | .shedCfg | .thermCfg | .limFuse | .vfCfg | .bgCfg | .bgSts | .vfSts _ =>
    readManage r s
  | .staAddr | .staSts | .staData _ | .evtRing | .evtCfg | .evtProd | .logRing | .logProd | .traceMask | .traceRing
  | .traceProd | .slcId _ | .streamSts _ _ | .sideDepth _ _ | .slip _ _ | .icache _ => readTrace r s
  | _ => readWork r s

/-- A 64-bit word of the BUR window (R348 to R351); it is taken while VDD_AON is up. -/
def readBureau (off : Nat) (s : State) : Nat :=
  let b := s.bureau
  let i := s.integ
  if off < 0xC000 then (((slotAt (off / 48) b).counters[off % 48 / 8]?).getD 0).toNat
  else if off < 0xE000 then
    let t := (off - 0xC000) / 8
    let x := slotAt t b
    x.incarnation % 2 ^ 32 * 2 ^ 32 + b2n (b.pending.any (fun e => e.1 == t)) * 8 + b2n x.sensorGap * 4 + b2n x.prevValid * 2 + b2n x.active
  else if off = 0xE000 then i.calibId % 2 ^ 32 * 2 ^ 32 + 2 * 2 ^ 8 + i.slices % 64
  else if off = 0xE008 then
    b.writeDrops % 2 ^ 32 * 2 ^ 32 + b.queue.length % 32 * 2 ^ 16 + b.pending.length % 2 ^ 11 * 2 ^ 5 +
      b2n b.usageGap * 4 + b2n b.sensorGap * 2 + b2n b.keyOk
  else if off = 0xE010 then b.epoch.toNat
  else if off = 0xE018 then b.timeUs
  else if off = 0xE020 then i.serial
  else if 0xE040 ≤ off ∧ off < 0xE060 then i.pubX / 2 ^ (8 * (off - 0xE040)) % 2 ^ 64
  else if 0xE060 ≤ off ∧ off < 0xE080 then i.pubY / 2 ^ (8 * (off - 0xE060)) % 2 ^ 64
  else if 0xE100 ≤ off ∧ off < 0xE100 + 8 * i.slices then (tgetD b.unatt ((off - 0xE100) / 8) 0).toNat
  else if 0xE300 ≤ off ∧ off < 0xE300 + 8 * i.slices then
    tgetD b.gap ((off - 0xE300) / 8) 0 % 2 ^ 32 * 2 ^ 32 + tgetD b.missed ((off - 0xE300) / 8) 0 % 2 ^ 32
  else 0

/-- The 64-bit word at an aligned BAR0 offset. -/
def readWord (off : Nat) (s : State) : Nat :=
  if 0x90000 ≤ off ∧ off < 0xA0000 then readBureau (off - 0x90000) s
  else ((Reg.at_ s.integ.slices off).map (fun r => r.value s)).getD 0

/-- What a BAR0 read of 4 or 8 bytes returns (R493); zero for any other size or alignment. -/
def readBar0 (off size : Nat) (s : State) : Nat :=
  if size = 8 ∧ off % 8 = 0 then readWord off s
  else if size = 4 ∧ off % 4 = 0 then readWord (off / 8 * 8) s / 2 ^ (8 * (off % 8)) % 2 ^ 32
  else 0

/-- A read of HUB_BAR0_ERR: the count, cause and offset, and the count starts again (R497). -/
def bar0ErrRead (s : State) : State :=
  if !barOpen s then s else
  { s with port := { s.port with readData := BitVec.ofNat 64 (Reg.bar0Err.value s) }, hub := { s.hub with bar0Count := 0 } }

def execBar0ErrRead (s : State) : Out := .next (bar0ErrRead s)

/-! ### Writes (R493 to R495, R498) -/

def wrdCfgOff : Nat := 0x40100

/-- The enable of WRD_CFG is refused (R498). -/
def enableRefused (s : State) : Bool :=
  decide (s.wrd.fastGib = 0 ∨ s.wrd.fastGib * Config.gib < s.wrd.hkBase + Config.gib) ||
  (s.watch.spillValid && decide (s.wrd.slowGib * Config.gib < s.watch.spillBase + Config.gib))

/-- WRD_CFG is written (R221, R495, R498): hk_base and page_log2 first, then the enable is checked. -/
def wrdCfgWrite (v : W64) (s : State) : State :=
  let n := v.toNat
  if !barOpen s then s
  else if s.wrd.enable then bar0Err 3 wrdCfgOff s
  else if bit n 8 && !s.mgmt.fwReady then bar0Err 4 wrdCfgOff s
  else
    let s := { s with wrd := { s.wrd with hkBase := bits n 63 30 * 2 ^ 30 } }
    let ok := decide (14 ≤ n % 32 ∧ n % 32 ≤ 18)
    let s := if ok then { s with wrd := { s.wrd with pageLog2 := n % 32 } } else bar0Err 3 wrdCfgOff s
    if !bit n 8 then s
    else if enableRefused s then bar0Err 3 wrdCfgOff s
    else { s with wrd := { s.wrd with enable := true, built := false, frames := [] } }

def execWrdCfgWrite (v : W64) (s : State) : Out := .next (wrdCfgWrite v s)

/-- A write that the register's rule accepts, or counts as refused (cause 3). -/
def accept (ok : Bool) (off : Nat) (f : State → State) (s : State) : State := if ok then f s else bar0Err 3 off s

/-- A 64-byte record of a table in host memory, as the block's read of it returns it. -/
def tableRead (base i : Nat) (s : State) : HostRead := .ok (memRead (pfLoc (base + i * 64)) 64 s)

/-- HUB_OBJ_CMD is written (R31, R32). -/
def objCmdWrite (n : Nat) (s : State) : State :=
  let op := bits n 31 28
  let kind := bits n 27 24
  let id := bits n 13 0
  if op = 1 ∧ kind = 1 then tenantActivate id (tableRead s.hub.tntBase id s) s
  else if op = 2 ∧ kind = 1 then tenantRetire id s
  else if op = 1 ∧ kind = 2 then contextActivate id (tableRead s.hub.ctxBase id s) s
  else if op = 2 ∧ kind = 2 then contextRetire id s
  else if cmdOpen s.hub.objBusy s then objResult 1 id s
  else cmdIgnored hubObjCmd s

/-- FRT_QCMD is written (R69 to R71). -/
def qcmdWrite (n : Nat) (s : State) : State :=
  let op := bits n 31 28
  let c := bits n 21 8
  let q := n % 256
  let rd : HostRead := match tget s.contexts c with
    | some x => .ok (memRead (ctxLoc x.rcd (x.rcd.queueTable + q * 64)) 64 s)
    | none => .error
  if op = 1 then queueEnable c q rd .ok s
  else if op = 2 then queueShutdown c q s
  else if cmdOpen s.front.qBusy s then qResult 1 s
  else cmdIgnored frtQcmd s

/-- HUB_SEAL_CMD is written (R161). -/
def sealCmdWrite (n : Nat) (s : State) : State :=
  let op := bits n 31 28
  if op = 1 then sealLoad (n % 8) (.ok (memRead (pfLoc s.hub.sealAddr) 128 s)) s
  else if op = 2 then sealClear (n % 8) s
  else if cmdOpen false s then sealResult 1 s
  else cmdIgnored hubSealCmd s

/-- WCH_RESET_CMD is written (R384). -/
def resetCmdWrite (n : Nat) (s : State) : State :=
  let op := bits n 31 28
  if op = 1 then partitionReset (n % 64) s
  else if op = 2 then computeReset (n % 64) s
  else if op = 3 then resetReq (n % 64) s
  else resetCmd (rstDone 1) s

/-- MGT_UPD_CMD is written (R438). -/
def updCmdWrite (n : Nat) (s : State) : State :=
  let op := bits n 63 60
  if op = 1 then updateStage (n % 2 ^ 16) s
  else if op = 2 then updateActivate (bit n 59) s
  else if op = 3 then updateCancel s
  else updCmd (updResult 1) s

/-- A register of Chest is written (R319, R320, R322). -/
def classCfgOk (c n : Nat) (s : State) : Bool :=
  let high := bits n 57 40
  let quota := bits n 17 0
  let others := ((s.chest.classes.zipIdx).filter (fun e => e.2 != c)).foldl (fun a e => a + e.1.quota) 0
  decide (bits n 39 22 < high ∧ quota ≤ high ∧ high ≤ 261120 ∧ others + quota ≤ 131072)

/-- CST_CLASS_CFGc takes a value; requests that the new quota grants are granted, and the states follow (R304, R306). -/
def setClassCfg (c n : Nat) (s : State) : State :=
  settleChest (s.modChest (fun x => { x with classes := x.classes.modify c (fun k =>
    { k with cut := bits n 63 58 + 1, high := bits n 57 40, low := bits n 39 22, quota := bits n 17 0 }) }))

/-- A value n is written to a register at its offset: what its rule says. -/
def Reg.write (r : Reg) (off n : Nat) (s : State) : State :=
  match r with
  | .tntBase => accept s.tenants.isEmpty off (fun s => { s with hub := { s.hub with tntBase := n / 4096 * 4096 } }) s
  | .ctxBase => accept s.tenants.isEmpty off (fun s => { s with hub := { s.hub with ctxBase := n / 4096 * 4096 } }) s
  | .objCmd => objCmdWrite n s
  | .sealAddr => { s with hub := { s.hub with sealAddr := n / 128 * 128 } }
  | .sealCmd => sealCmdWrite n s
  | .burRing => burRingWrite (BitVec.ofNat 64 n) s
  | .burReq => burReqWrite (BitVec.ofNat 32 n) s
  | .hostCaps => hostCapsWrite (BitVec.ofNat 64 n) s
  | .lkpCfg => accept (decide (25 ≤ n % 128 ∧ n % 128 ≤ 75)) off
      (fun s => sendBudgets (s.modLink (fun l => { l with transitPct := n % 128 }))) s
  | .barOwn => barrierSlotOwn (BitVec.ofNat 32 n) s
  | .qcmd => qcmdWrite n s
  | .dlkCfg => accept (decide (10 ≤ n % 2 ^ 16 ∧ n % 2 ^ 16 ≤ 60000)) off
      (fun s => { s with bramble := { s.bramble with dlkEnable := bit n 31, dlkWindow := n % 2 ^ 16 } }) s
  | .schCfg => { s with sched := { s.sched with rtBenchMax := bits n 63 56, minBat := bits n 47 32, minInt := bits n 31 16, evictAfter := bits n 15 0 } }
  | .sealCfg => accept (!s.tenants.any (fun e => e.2.rcd.isSealed) && [1, 2, 4, 8, 16].contains (n % 32)) off
      (fun s => { s with sched := { s.sched with slotsPerTenant := n % 32 } }) s
  | .benchSel => accept (decide (n % 256 < 4 * s.integ.slices)) off (fun s => { s with sched := { s.sched with benchSel := n % 256 } }) s
  | .wrdCfg => wrdCfgWrite (BitVec.ofNat 64 n) s
  | .wrdTier => accept (!s.wrd.enable) off (fun s => { s with wrd := { s.wrd with slowGib := bits n 63 32, fastGib := n % 2 ^ 32 } }) s
  | .demoteCfg => accept (decide (n % 2 ^ 27 ≤ bits n 53 27)) off
      (fun s => { s with wrd := { s.wrd with promoteAbove := bits n 53 27, demoteBelow := n % 2 ^ 27 } }) s
  | .hotsetCfg => accept (decide (n % 2 ^ 27 ≤ bits n 58 32)) off
      (fun s => { s with wrd := { s.wrd with maxFrames := bits n 58 32, minFrames := n % 2 ^ 27 } }) s
  | .poolCfg => accept (decide (bits n 29 20 < bits n 39 30 ∧ bits n 9 0 < bits n 19 10)) off
      (fun s => evalChest (s.modChest (fun x =>
        { x with mfpHigh := bits n 39 30, mfpLow := bits n 29 20, hfpHigh := bits n 19 10, hfpLow := bits n 9 0 }))) s
  | .classCfg c => accept (classCfgOk c n s) off (setClassCfg c n) s
  | .eccCfg => accept (decide (bits n 31 16 ≠ 0 ∧ bits n 15 0 ≠ 0)) off
      (fun s => s.modChest (fun x => { x with bankThreshold := bits n 31 16, eventStep := bits n 15 0 })) s
  | .wchCfg => accept (decide (1 ≤ bits n 31 16 ∧ bits n 31 16 ≤ 1000 ∧ 1 ≤ bits n 15 0 ∧ bits n 15 0 ≤ 1000)) off
      (fun s => { s with watch := { s.watch with pfVector := bits n 55 44, notify := bit n 43, moverWindow := bits n 31 16, hubWindow := bits n 15 0 } }) s
  | .resetCmd => resetCmdWrite n s
  | .spillBase => accept (!s.wrd.enable) off
      (fun s => { s with watch := { s.watch with spillBase := bits n 63 30 * 2 ^ 30, spillValid := bit n 0 },
                         hutch := { s.hutch with spillOk := bit n 0 } }) s
  | .mgtCfg => accept (decide (1 ≤ n % 2 ^ 16 ∧ n % 2 ^ 16 ≤ 1000)) off (fun s => s.modMgmt (fun m => { m with fwWindow := n % 2 ^ 16 })) s
  | .updAddr => s.modMgmt (fun m => { m with updAddr := n / 4096 * 4096 })
  | .updCmd => updCmdWrite n s
  | .shedCfg => accept (decide (1 ≤ n % 2 ^ 16 ∧ n % 2 ^ 16 ≤ 1000 ∧ bits n 18 16 ≤ 6)) off
      (limiter (fun s => s.modPower (fun w => { w with forced := bits n 18 16, holdMs := n % 2 ^ 16 }))) s
  | .thermCfg => accept (decide (n % 256 < bits n 15 8 ∧ bits n 15 8 < bits n 23 16 ∧ bits n 23 16 < s.integ.tMax)) off
      (limiter (fun s => s.modPower (fun w => { w with tWarn := n % 256, tHigh := bits n 15 8, tCrit := bits n 23 16 }))) s
  | .vfCfg => accept (decide (s.integ.floorMin ≤ bits n 15 8 ∧ bits n 15 8 ≤ n % 256 ∧ n % 256 ≤ s.integ.fmax)) off
      (limiter (fun s => s.modPower (fun w => { w with floorCode := bits n 15 8, targetCode := n % 256 }))) s
  | .bgCfg => accept (decide (bits n 63 48 ≠ 0)) off
      (fun s => s.modPower (fun w => { w with scrubPeriod := bits n 63 48, calibPeriod := bits n 47 32, bankTestPeriod := bits n 31 16,
                                              telemetryPeriod := bits n 15 0 })) s
  | .staAddr => staAddrWrite (BitVec.ofNat 64 n) s
  | .evtRing => jnlRingWrite .event (BitVec.ofNat 64 n) s
  | .evtCfg => eventConsWrite (BitVec.ofNat 64 n) s
  | .logRing => jnlRingWrite .log (BitVec.ofNat 64 n) s
  | .traceMask => { s with jnl := { s.jnl with traceMask := BitVec.ofNat 64 (n % 2 ^ 15) } }
  | .traceRing => jnlRingWrite .trace (BitVec.ofNat 64 n) s
  | _ => s

/-- A write that reaches a register: its size must fit, and the register must have a writable field (R493). -/
def regWrite (r : Reg) (off size n : Nat) (s : State) : State :=
  if off % 8 ≠ 0 ∨ (r.narrow = false ∧ size ≠ 8) ∨ (r.narrow = true ∧ 2 ^ 32 ≤ n) then bar0Err 2 off s
  else if !r.writable then bar0Err 5 off s
  else r.write off n s

/-- A BAR0 write (R348, R493): to the BUR window dropped and counted there; otherwise to the register at the offset, or
dropped and counted with its cause. -/
def registerWrite (off size : Nat) (v : W64) (s : State) : State :=
  if !barOpen s then s
  else if 0x90000 ≤ off ∧ off < 0xA0000 then s.modBureau (fun b => { b with writeDrops := satInc 32 b.writeDrops })
  else if (size ≠ 4 ∧ size ≠ 8) ∨ off % size ≠ 0 then bar0Err 2 off s
  else match Reg.at_ s.integ.slices (off / 8 * 8) with
  | none => bar0Err 1 off s
  | some r => regWrite r off size (v.toNat % 2 ^ (8 * size)) s

def execRegisterWrite (off size : Nat) (v : W64) (s : State) : Out := .next (registerWrite off size v s)

end Sys2Proof.Machine
end

