-- ==== Sys2Proof/Machine/Dispatch.lean ====
section
/-! DEFINITION. One arm per command: each calls the command's meaning. -/

namespace Sys2Proof.Machine

def exec (i : Instr) (s : State) : Host.Outcome State Fault Refusal :=
  match i with
  | .tenantActivate id rd => Sys2Proof.Machine.execTenantActivate id rd s
  | .tenantRetire id => Sys2Proof.Machine.execTenantRetire id s
  | .contextActivate id rd => Sys2Proof.Machine.execContextActivate id rd s
  | .contextRetire id => Sys2Proof.Machine.execContextRetire id s
  | .teardownDone c => Sys2Proof.Machine.execTeardownDone c s
  | .queueEnable c q rd wr => Sys2Proof.Machine.execQueueEnable c q rd wr s
  | .queueShutdown c q => Sys2Proof.Machine.execQueueShutdown c q s
  | .queueShutdownHang c q => Sys2Proof.Machine.execQueueShutdownHang c q s
  | .sealLoad slot rd => Sys2Proof.Machine.execSealLoad slot rd s
  | .sealClear slot => Sys2Proof.Machine.execSealClear slot s
  | .partitionReset p => Sys2Proof.Machine.execPartitionReset p s
  | .computeReset p => Sys2Proof.Machine.execComputeReset p s
  | .resetReq p => Sys2Proof.Machine.execResetReq p s
  | .updateStage lengthKib => Sys2Proof.Machine.execUpdateStage lengthKib s
  | .updateActivate raiseFloor => Sys2Proof.Machine.execUpdateActivate raiseFloor s
  | .updateCancel => Sys2Proof.Machine.execUpdateCancel s
  | .stagingDone img flashOk => Sys2Proof.Machine.execStagingDone img flashOk s
  | .updateEmergencyCleared => Sys2Proof.Machine.execUpdateEmergencyCleared s
  | .updateQuiesced => Sys2Proof.Machine.execUpdateQuiesced s
  | .updateLoaded ok => Sys2Proof.Machine.execUpdateLoaded ok s
  | .probationExpiry => Sys2Proof.Machine.execProbationExpiry s
  | .rollbackDone => Sys2Proof.Machine.execRollbackDone s
  | .wrdCfgWrite v => Sys2Proof.Machine.execWrdCfgWrite v s
  | .frameTableBuilt => Sys2Proof.Machine.execFrameTableBuilt s
  | .hostCapsWrite v => Sys2Proof.Machine.execHostCapsWrite v s
  | .burReqWrite v => Sys2Proof.Machine.execBurReqWrite v s
  | .burRingWrite v => Sys2Proof.Machine.execBurRingWrite v s
  | .jnlRingWrite ring v => Sys2Proof.Machine.execJnlRingWrite ring v s
  | .eventConsWrite v => Sys2Proof.Machine.execEventConsWrite v s
  | .barrierSlotOwn v => Sys2Proof.Machine.execBarrierSlotOwn v s
  | .staAddrWrite v => Sys2Proof.Machine.execStaAddrWrite v s
  | .staReadDone => Sys2Proof.Machine.execStaReadDone s
  | .bar0ErrRead => Sys2Proof.Machine.execBar0ErrRead s
  | .peakRead cls => Sys2Proof.Machine.execPeakRead cls s
  | .registerWrite off size v => Sys2Proof.Machine.execRegisterWrite off size v s
  | .doorbellWrite fn off size v => Sys2Proof.Machine.execDoorbellWrite fn off size v s
  | .pushWrite fn off bytes => Sys2Proof.Machine.execPushWrite fn off bytes s
  | .fetchIssue c q n => Sys2Proof.Machine.execFetchIssue c q n s
  | .fetchReturn c q rd => Sys2Proof.Machine.execFetchReturn c q rd s
  | .fetcherGoIdle c q => Sys2Proof.Machine.execFetcherGoIdle c q s
  | .arbiterGrant slot => Sys2Proof.Machine.execArbiterGrant slot s
  | .entryAccept c q => Sys2Proof.Machine.execEntryAccept c q s
  | .acceptReadReturn c q rd => Sys2Proof.Machine.execAcceptReadReturn c q rd s
  | .commandDispatch c q pos => Sys2Proof.Machine.execCommandDispatch c q pos s
  | .commandRetire c q => Sys2Proof.Machine.execCommandRetire c q s
  | .completionWordWrite c q => Sys2Proof.Machine.execCompletionWordWrite c q s
  | .msixModerationTimeout c q => Sys2Proof.Machine.execMsixModerationTimeout c q s
  | .watchSample => Sys2Proof.Machine.execWatchSample s
  | .queueTimeout c q => Sys2Proof.Machine.execQueueTimeout c q s
  | .streamHang p st => Sys2Proof.Machine.execStreamHang p st s
  | .peerWaitTimeout p st => Sys2Proof.Machine.execPeerWaitTimeout p st s
  | .moverHang m => Sys2Proof.Machine.execMoverHang m s
  | .hubEngineHang e => Sys2Proof.Machine.execHubEngineHang e s
  | .deadlockScan => Sys2Proof.Machine.execDeadlockScan s
  | .opNop c q pos => Sys2Proof.Machine.execOpNop c q pos s
  | .opFenceWait c q pos => Sys2Proof.Machine.execOpFenceWait c q pos s
  | .opFenceSignal c q pos => Sys2Proof.Machine.execOpFenceSignal c q pos s
  | .opCopy c q pos => Sys2Proof.Machine.execOpCopy c q pos s
  | .opFill c q pos => Sys2Proof.Machine.execOpFill c q pos s
  | .opTimestamp c q pos => Sys2Proof.Machine.execOpTimestamp c q pos s
  | .opLaunchGraph c q pos => Sys2Proof.Machine.execOpLaunchGraph c q pos s
  | .opGraphPatch c q pos => Sys2Proof.Machine.execOpGraphPatch c q pos s
  | .opLoopOpen c q pos => Sys2Proof.Machine.execOpLoopOpen c q pos s
  | .opLoopAdmit c q pos seed => Sys2Proof.Machine.execOpLoopAdmit c q pos seed s
  | .opLoopCancel c q pos => Sys2Proof.Machine.execOpLoopCancel c q pos s
  | .opLoopClose c q pos => Sys2Proof.Machine.execOpLoopClose c q pos s
  | .opModelLoad c q pos frames => Sys2Proof.Machine.execOpModelLoad c q pos frames s
  | .opModelPin c q pos => Sys2Proof.Machine.execOpModelPin c q pos s
  | .opModelUnpin c q pos => Sys2Proof.Machine.execOpModelUnpin c q pos s
  | .opObjFree c q pos => Sys2Proof.Machine.execOpObjFree c q pos s
  | .opBarrierJoin c q pos => Sys2Proof.Machine.execOpBarrierJoin c q pos s
  | .opQuery c q pos => Sys2Proof.Machine.execOpQuery c q pos s
  | .opSnapshot c q pos => Sys2Proof.Machine.execOpSnapshot c q pos s
  | .opSelftest c q pos => Sys2Proof.Machine.execOpSelftest c q pos s
  | .opAbort c q pos => Sys2Proof.Machine.execOpAbort c q pos s
  | .opReplayOpen c q pos => Sys2Proof.Machine.execOpReplayOpen c q pos s
  | .verifyDone c q pos rd => Sys2Proof.Machine.execVerifyDone c q pos rd s
  | .launchReceive p st => Sys2Proof.Machine.execLaunchReceive p st s
  | .launchRetryRequest p st cause => Sys2Proof.Machine.execLaunchRetryRequest p st cause s
  | .bundleIssue p st hazard => Sys2Proof.Machine.execBundleIssue p st hazard s
  | .icacheFill p st off => Sys2Proof.Machine.execIcacheFill p st off s
  | .alarmSet p st cycle id prefetch => Sys2Proof.Machine.execAlarmSet p st cycle id prefetch s
  | .load p st => Sys2Proof.Machine.execLoad p st s
  | .store p st => Sys2Proof.Machine.execStore p st s
  | .gather p st => Sys2Proof.Machine.execGather p st s
  | .scatter p st => Sys2Proof.Machine.execScatter p st s
  | .send p st => Sys2Proof.Machine.execSend p st s
  | .recv p st => Sys2Proof.Machine.execRecv p st s
  | .reduce p st => Sys2Proof.Machine.execReduce p st s
  | .setreg p st => Sys2Proof.Machine.execSetreg p st s
  | .sideCommandLanded p st what => Sys2Proof.Machine.execSideCommandLanded p st what s
  | .collectiveData p st peer chan data => Sys2Proof.Machine.execCollectiveData p st peer chan data s
  | .streamDrainDone p st => Sys2Proof.Machine.execStreamDrainDone p st s
  | .stopRequest p st => Sys2Proof.Machine.execStopRequest p st s
  | .stopConfirm p st => Sys2Proof.Machine.execStopConfirm p st s
  | .streamRelease p st => Sys2Proof.Machine.execStreamRelease p st s
  | .hazardReport p st => Sys2Proof.Machine.execHazardReport p st s
  | .stepEndReport p st crcOk => Sys2Proof.Machine.execStepEndReport p st crcOk s
  | .stepBoundary l ch => Sys2Proof.Machine.execStepBoundary l ch s
  | .stepLaunch l => Sys2Proof.Machine.execStepLaunch l s
  | .chargeTick tick => Sys2Proof.Machine.execChargeTick tick s
  | .evictAfterExpiry r => Sys2Proof.Machine.execEvictAfterExpiry r s
  | .saveLanded r => Sys2Proof.Machine.execSaveLanded r s
  | .restoreLanded r => Sys2Proof.Machine.execRestoreLanded r s
  | .clearDone b => Sys2Proof.Machine.execClearDone b s
  | .wardrobeSweep n => Sys2Proof.Machine.execWardrobeSweep n s
  | .backgroundDemote f dst => Sys2Proof.Machine.execBackgroundDemote f dst s
  | .backgroundPromote f dst => Sys2Proof.Machine.execBackgroundPromote f dst s
  | .backgroundZero f => Sys2Proof.Machine.execBackgroundZero f s
  | .moverPieceLanded m slot => Sys2Proof.Machine.execMoverPieceLanded m slot s
  | .mapoutRequest tier ch lost units source => Sys2Proof.Machine.execMapoutRequest tier ch lost units source s
  | .mapoutMoveRetry f dst => Sys2Proof.Machine.execMapoutMoveRetry f dst s
  | .modelMissRetry k frames => Sys2Proof.Machine.execModelMissRetry k frames s
  | .modelMissService k frames => Sys2Proof.Machine.execModelMissService k frames s
  | .mfpResponse who tier addr status => Sys2Proof.Machine.execMfpResponse who tier addr status s
  | .hfpCompletion who rd => Sys2Proof.Machine.execHfpCompletion who rd s
  | .channelReady tier ch => Sys2Proof.Machine.execChannelReady tier ch s
  | .channelFault tier ch units => Sys2Proof.Machine.execChannelFault tier ch units s
  | .ceRate tier ch units => Sys2Proof.Machine.execCeRate tier ch units s
  | .channelUncorrectable tier ch addr => Sys2Proof.Machine.execChannelUncorrectable tier ch addr s
  | .cellAllocate cls queue tenant cells => Sys2Proof.Machine.execCellAllocate cls queue tenant cells s
  | .cellRead cls queue ecc => Sys2Proof.Machine.execCellRead cls queue ecc s
  | .cellMark cls queue => Sys2Proof.Machine.execCellMark cls queue s
  | .cellRewind cls queue => Sys2Proof.Machine.execCellRewind cls queue s
  | .cellRelease cls queue k => Sys2Proof.Machine.execCellRelease cls queue k s
  | .chestWalkDone stray => Sys2Proof.Machine.execChestWalkDone stray s
  | .bureauTick => Sys2Proof.Machine.execBureauTick s
  | .sensorSample p code => Sys2Proof.Machine.execSensorSample p code s
  | .occ => Sys2Proof.Machine.execOcc s
  | .eng => Sys2Proof.Machine.execEng s
  | .byt => Sys2Proof.Machine.execByt s
  | .bytFlushTimer tenant cls => Sys2Proof.Machine.execBytFlushTimer tenant cls s
  | .act => Sys2Proof.Machine.execAct s
  | .ret => Sys2Proof.Machine.execRet s
  | .req => Sys2Proof.Machine.execReq s
  | .sync => Sys2Proof.Machine.execSync s
  | .periodicReport => Sys2Proof.Machine.execPeriodicReport s
  | .signingStart => Sys2Proof.Machine.execSigningStart s
  | .signingDone k next => Sys2Proof.Machine.execSigningDone k next s
  | .reportForward => Sys2Proof.Machine.execReportForward s
  | .vddAonUp epoch keyOk => Sys2Proof.Machine.execVddAonUp epoch keyOk s
  | .stageBudgetExpiry stage unit => Sys2Proof.Machine.execStageBudgetExpiry stage unit s
  | .partitionResetAssert p => Sys2Proof.Machine.execPartitionResetAssert p s
  | .partitionWritesDrained p => Sys2Proof.Machine.execPartitionWritesDrained p s
  | .partitionResetRelease p => Sys2Proof.Machine.execPartitionResetRelease p s
  | .sliceReady p => Sys2Proof.Machine.execSliceReady p s
  | .dumpAllowanceExpiry landed => Sys2Proof.Machine.execDumpAllowanceExpiry landed s
  | .completionsAllowanceExpiry => Sys2Proof.Machine.execCompletionsAllowanceExpiry s
  | .computeResetAssert => Sys2Proof.Machine.execComputeResetAssert s
  | .computeResetRelease => Sys2Proof.Machine.execComputeResetRelease s
  | .hubReady => Sys2Proof.Machine.execHubReady s
  | .resetRequest => Sys2Proof.Machine.execResetRequest s
  | .por => Sys2Proof.Machine.execPor s
  | .blockReset => Sys2Proof.Machine.execBlockReset s
  | .blockResetRelease => Sys2Proof.Machine.execBlockResetRelease s
  | .bootLoadDone => Sys2Proof.Machine.execBootLoadDone s
  | .patchLoad pkg => Sys2Proof.Machine.execPatchLoad pkg s
  | .bootCommit => Sys2Proof.Machine.execBootCommit s
  | .mcWatchFlag core t => Sys2Proof.Machine.execMcWatchFlag core t s
  | .watchdogExpiry core t => Sys2Proof.Machine.execWatchdogExpiry core t s
  | .fatalTrap core t => Sys2Proof.Machine.execFatalTrap core t s
  | .settlePanic core t => Sys2Proof.Machine.execSettlePanic core t s
  | .memoryError core t => Sys2Proof.Machine.execMemoryError core t s
  | .mcDumpDone core => Sys2Proof.Machine.execMcDumpDone core s
  | .mcReloadDone core ok => Sys2Proof.Machine.execMcReloadDone core ok s
  | .mailboxItem core => Sys2Proof.Machine.execMailboxItem core s
  | .pwrSag k => Sys2Proof.Machine.execPwrSag k s
  | .thermAlert asserted => Sys2Proof.Machine.execThermAlert asserted s
  | .temperatureInput sensor temp => Sys2Proof.Machine.execTemperatureInput sensor temp s
  | .vminTimer p mv => Sys2Proof.Machine.execVminTimer p mv s
  | .vfGrant p code => Sys2Proof.Machine.execVfGrant p code s
  | .vfGrantTimeout p => Sys2Proof.Machine.execVfGrantTimeout p s
  | .limiterCapStep p mv => Sys2Proof.Machine.execLimiterCapStep p mv s
  | .shedHoldExpiry => Sys2Proof.Machine.execShedHoldExpiry s
  | .quiesceDump => Sys2Proof.Machine.execQuiesceDump s
  | .selftestRun p => Sys2Proof.Machine.execSelftestRun p s
  | .selftestDone p detail => Sys2Proof.Machine.execSelftestDone p detail s
  | .bankTest bank => Sys2Proof.Machine.execBankTest bank s
  | .calibration p => Sys2Proof.Machine.execCalibration p s
  | .scrub found => Sys2Proof.Machine.execScrub found s
  | .telemetry => Sys2Proof.Machine.execTelemetry s
  | .hfpFlrReq fn => Sys2Proof.Machine.execHfpFlrReq fn s
  | .hfpFlrAck fn => Sys2Proof.Machine.execHfpFlrAck fn s
  | .release group slot epoch => Sys2Proof.Machine.execRelease group slot epoch s
  | .barrierDeadline slot => Sys2Proof.Machine.execBarrierDeadline slot s
  | .links dir up => Sys2Proof.Machine.execLinks dir up s
  | .tapInstruction t => Sys2Proof.Machine.execTapInstruction t s
  | .journalWrite l => Sys2Proof.Machine.execJournalWrite l s
  | .journalConsumedPoll l consumed => Sys2Proof.Machine.execJournalConsumedPoll l consumed s
  | .eventWrite => Sys2Proof.Machine.execEventWrite s
  | .channelReadyTimeout ch units => Sys2Proof.Machine.execChannelReadyTimeout ch units s
  | .engineFaultReport u => Sys2Proof.Machine.execEngineFaultReport u s
  | .calibrationDone p => Sys2Proof.Machine.execCalibrationDone p s
  | .bankTestDone bank failed => Sys2Proof.Machine.execBankTestDone bank failed s
  | .traceRingWrite => Sys2Proof.Machine.execTraceRingWrite s
  | .hubSupplyLoss => Sys2Proof.Machine.execHubSupplyLoss s
  | .vddAonLoss => Sys2Proof.Machine.execVddAonLoss s

end Sys2Proof.Machine
end

