-- ==== Sys2Proof/Safety.lean ====
section
/-! DEFINITION. What claims say of a run: that a command takes effect, that the memories keep their canonical form, and
which parts of the state a command may change. -/

namespace Sys2Proof.Machine

/-- An outcome is a next state. -/
def IsNext (o : Host.Outcome State Fault Refusal) : Prop := ∃ t, o = .next t

/-- A state whose memories are in canonical form (log 2). -/
def State.MemOk (s : State) : Prop := s.mem.wf = true

/-- The parts of the state, one per component. -/
inductive Part where
  | pending | time | port | integ | mem | hub | tenants | contexts | objects | graphs | front | bramble | slices
  | trestle | sched | wrd | chest | bureau | watch | hutch | jnl | sta | mgmt | power | link
  deriving DecidableEq, Repr

/-- A part is the same in two states. -/
def Part.same (p : Part) (s t : State) : Prop :=
  match p with
  | .pending => t.pending = s.pending
  | .time => t.time = s.time
  | .port => t.port = s.port
  | .integ => t.integ = s.integ
  | .mem => t.mem = s.mem
  | .hub => t.hub = s.hub
  | .tenants => t.tenants = s.tenants
  | .contexts => t.contexts = s.contexts
  | .objects => t.objects = s.objects
  | .graphs => t.graphs = s.graphs
  | .front => t.front = s.front
  | .bramble => t.bramble = s.bramble
  | .slices => t.slices = s.slices
  | .trestle => t.trestle = s.trestle
  | .sched => t.sched = s.sched
  | .wrd => t.wrd = s.wrd
  | .chest => t.chest = s.chest
  | .bureau => t.bureau = s.bureau
  | .watch => t.watch = s.watch
  | .hutch => t.hutch = s.hutch
  | .jnl => t.jnl = s.jnl
  | .sta => t.sta = s.sta
  | .mgmt => t.mgmt = s.mgmt
  | .power => t.power = s.power
  | .link => t.link = s.link

/-- A state differs from another in the listed parts only. -/
def OnlyIn (l : List Part) (s t : State) : Prop := ∀ p, p ∉ l → p.same s t

/-- The parts a command may change; every other part is as it was (the rules of each command, the shared operations of
Machine/Ops.lean among them: a host write is charged to its context and to the usage channel, a fence that rises meets the
waits on it, a context fault begins a teardown). -/
def touches : Instr → List Part
  | .telemetry => []
  | .hfpFlrAck .. => [.port]
  | .sealClear .. | .burReqWrite .. | .burRingWrite .. | .bytFlushTimer .. => [.hub]
  | .fetcherGoIdle .. => [.front]
  | .sideCommandLanded .. | .stopRequest .. => [.slices]
  | .frameTableBuilt | .wardrobeSweep .. => [.wrd]
  | .cellMark .. => [.chest]
  | .sensorSample .. | .periodicReport | .signingStart | .signingDone .. => [.bureau]
  | .hubSupplyLoss => [.hutch]
  | .jnlRingWrite .. => [.jnl]
  | .staAddrWrite .. | .staReadDone => [.sta]
  | .updateEmergencyCleared | .rollbackDone | .ceRate .. => [.mgmt]
  | .sealLoad .. | .bar0ErrRead => [.port, .hub]
  | .msixModerationTimeout .. => [.port, .front]
  | .alarmSet .. | .reduce .. | .setreg .. => [.port, .slices]
  | .peakRead .. => [.port, .chest]
  | .bureauTick | .vddAonUp .. | .vddAonLoss => [.port, .bureau]
  | .partitionResetRelease .. | .resetRequest => [.port, .watch]
  | .links .. => [.port, .link]
  | .wrdCfgWrite .. => [.hub, .wrd]
  | .occ | .eng | .byt | .act | .ret | .req | .sync => [.hub, .bureau]
  | .eventConsWrite .. => [.hub, .jnl]
  | .updateStage .. | .updateActivate .. | .updateCancel | .hostCapsWrite .. => [.hub, .mgmt]
  | .barrierSlotOwn .. | .collectiveData .. => [.hub, .link]
  | .release .. => [.front, .link]
  | .patchLoad .. => [.bramble, .mgmt]
  | .backgroundZero .. => [.wrd, .watch]
  | .cellAllocate .. => [.chest, .jnl]
  | .dumpAllowanceExpiry .. => [.watch, .hutch]
  | .stagingDone .. | .probationExpiry | .bootLoadDone | .bootCommit => [.port, .mem, .mgmt]
  | .contextActivate .. => [.port, .hub, .contexts]
  | .icacheFill .. | .send .. => [.port, .hub, .slices]
  | .launchReceive .. => [.port, .slices, .chest]
  | .selftestRun .. | .calibration .. => [.hub, .sched, .power]
  | .doorbellWrite .. | .pushWrite .. | .arbiterGrant .. | .opNop .. | .opFenceWait .. | .opFenceSignal ..
  | .opTimestamp .. | .opQuery .. =>
    [.front, .chest, .jnl]
  | .bankTest .. => [.front, .mgmt, .power]
  | .backgroundDemote .. | .backgroundPromote .. => [.wrd, .watch, .jnl]
  | .modelMissRetry .. | .modelMissService .. => [.wrd, .watch, .mgmt]
  | .bundleIssue .. | .load .. | .store .. => [.port, .mem, .hub, .slices]
  | .reportForward => [.port, .mem, .hub, .bureau]
  | .traceRingWrite => [.port, .mem, .hub, .jnl]
  | .recv .. => [.port, .mem, .slices, .link]
  | .updateQuiesced | .updateLoaded .. => [.port, .mem, .wrd, .mgmt]
  | .mcDumpDone .. => [.port, .mem, .hutch, .mgmt]
  | .quiesceDump => [.port, .mem, .hutch, .power]
  | .tenantActivate .. => [.port, .hub, .tenants, .wrd]
  | .opGraphPatch .. | .opBarrierJoin .. => [.port, .front, .chest, .jnl]
  | .scatter .. => [.port, .mem, .hub, .slices, .trestle]
  | .completionsAllowanceExpiry => [.port, .mem, .front, .watch, .hutch]
  | .fetchIssue .. => [.port, .front, .chest, .watch, .jnl]
  | .partitionWritesDrained .. => [.hub, .front, .slices, .sched, .watch]
  | .watchSample => [.front, .slices, .wrd, .watch, .mgmt]
  | .opCopy .. | .opFill .. => [.front, .wrd, .chest, .watch, .jnl]
  | .opModelPin .. => [.front, .wrd, .chest, .jnl, .mgmt]
  | .opSnapshot .. => [.port, .mem, .hub, .front, .chest, .jnl]
  | .gather .. => [.port, .mem, .hub, .slices, .trestle, .wrd]
  | .eventWrite => [.port, .mem, .hub, .chest, .watch, .jnl]
  | .resetReq .. => [.port, .mem, .hub, .watch, .hutch, .jnl]
  | .computeResetRelease => [.port, .mem, .sched, .wrd, .watch, .hutch]
  | .streamRelease .. => [.port, .slices, .sched, .chest, .jnl, .link]
  | .commandDispatch .. => [.graphs, .front, .bramble, .chest, .jnl, .link]
  | .streamDrainDone .. => [.port, .mem, .hub, .front, .slices, .chest, .jnl]
  | .completionWordWrite .. => [.port, .mem, .hub, .front, .chest, .watch, .jnl]
  | .channelReadyTimeout .. => [.port, .mem, .front, .watch, .hutch, .mgmt, .power]
  | .mcWatchFlag .. | .watchdogExpiry .. | .fatalTrap .. | .settlePanic .. | .memoryError .. =>
    [.port, .mem, .wrd, .chest, .hutch, .jnl, .mgmt]
  | .stopConfirm .. => [.port, .hub, .front, .slices, .sched, .chest, .jnl]
  | .opLoopOpen .. | .opReplayOpen .. => [.objects, .front, .trestle, .wrd, .chest, .jnl, .mgmt]
  | .opModelLoad .. => [.objects, .front, .wrd, .chest, .watch, .jnl, .mgmt]
  | .mcReloadDone .. => [.port, .mem, .hub, .wrd, .chest, .hutch, .jnl, .mgmt]
  | .opLoopAdmit .. => [.port, .mem, .objects, .front, .trestle, .wrd, .chest, .jnl]
  | .barrierDeadline .. => [.port, .mem, .front, .bramble, .chest, .hutch, .jnl, .link]
  | .acceptReadReturn .. => [.port, .mem, .hub, .contexts, .objects, .front, .bramble, .chest, .watch, .jnl]
  | .partitionReset .. => [.port, .mem, .hub, .contexts, .sched, .wrd, .watch, .hutch, .jnl, .power]
  | .verifyDone .. => [.port, .mem, .hub, .contexts, .objects, .graphs, .front, .bramble, .slices, .chest, .jnl]
  | .channelFault .. | .selftestDone .. =>
    [.port, .mem, .hub, .contexts, .sched, .wrd, .watch, .hutch, .jnl, .mgmt, .power]
  | .journalConsumedPoll .. =>
    [.port, .mem, .hub, .objects, .graphs, .front, .bramble, .slices, .trestle, .chest, .jnl]
  | .opModelUnpin .. | .opObjFree .. =>
    [.port, .mem, .hub, .objects, .graphs, .front, .bramble, .slices, .wrd, .chest, .jnl]
  | .channelReady .. => [.port, .mem, .hub, .front, .sched, .wrd, .watch, .hutch, .jnl, .mgmt, .power]
  | .chargeTick .. | .evictAfterExpiry .. | .calibrationDone .. =>
    [.port, .hub, .contexts, .slices, .trestle, .sched, .wrd, .chest, .watch, .jnl, .power]
  | .tenantRetire .. =>
    [.port, .mem, .hub, .tenants, .objects, .graphs, .front, .bramble, .slices, .wrd, .chest, .jnl]
  | .saveLanded .. | .clearDone .. =>
    [.port, .mem, .hub, .contexts, .slices, .trestle, .sched, .wrd, .chest, .watch, .jnl, .power]
  | .launchRetryRequest .. =>
    [.port, .mem, .hub, .contexts, .slices, .sched, .wrd, .chest, .watch, .hutch, .jnl, .power]
  | .sliceReady .. => [.port, .mem, .hub, .front, .slices, .sched, .chest, .watch, .hutch, .jnl, .mgmt, .power, .link]
  | .opLaunchGraph .. | .pwrSag .. | .thermAlert .. | .temperatureInput .. | .vminTimer .. | .vfGrant ..
  | .vfGrantTimeout .. | .limiterCapStep .. | .shedHoldExpiry =>
    [.port, .hub, .contexts, .front, .bramble, .slices, .trestle, .sched, .wrd, .chest, .watch, .jnl, .power]
  | .opSelftest .. =>
    [.port, .hub, .contexts, .front, .bramble, .slices, .trestle, .sched, .wrd, .chest, .watch, .jnl, .mgmt, .power]
  | .queueShutdown .. | .queueTimeout .. =>
    [.port, .hub, .contexts, .front, .bramble, .slices, .trestle, .sched, .wrd, .chest, .watch, .jnl, .power, .link]
  | .opAbort .. =>
    [.port, .mem, .hub, .contexts, .front, .bramble, .slices, .trestle, .sched, .wrd, .chest, .watch, .jnl, .power,
     .link]
  | .blockResetRelease =>
    [.port, .hub, .contexts, .front, .bramble, .slices, .trestle, .sched, .wrd, .chest, .watch, .hutch, .jnl, .mgmt,
     .power]
  | .commandRetire .. =>
    [.port, .mem, .hub, .contexts, .objects, .graphs, .front, .bramble, .slices, .trestle, .sched, .wrd, .chest,
     .watch, .jnl, .power]
  | .contextRetire .. | .queueEnable .. | .queueShutdownHang .. | .computeReset .. | .fetchReturn ..
  | .entryAccept .. | .streamHang .. | .peerWaitTimeout .. | .moverHang .. | .hubEngineHang .. | .deadlockScan
  | .hazardReport .. | .stepEndReport .. | .hfpCompletion .. | .cellRead .. | .cellRewind .. | .cellRelease ..
  | .chestWalkDone .. | .stageBudgetExpiry .. | .partitionResetAssert .. | .scrub .. | .hfpFlrReq ..
  | .engineFaultReport .. =>
    [.port, .mem, .hub, .contexts, .objects, .front, .bramble, .slices, .trestle, .sched, .wrd, .chest, .watch,
     .hutch, .jnl, .power, .link]
  | .journalWrite .. =>
    [.port, .mem, .hub, .contexts, .objects, .graphs, .front, .bramble, .slices, .trestle, .sched, .wrd, .chest,
     .watch, .hutch, .jnl, .power, .link]
  | .mailboxItem .. | .bankTestDone .. =>
    [.port, .mem, .hub, .contexts, .objects, .front, .bramble, .slices, .trestle, .sched, .wrd, .chest, .watch,
     .hutch, .jnl, .mgmt, .power, .link]
  | .teardownDone .. | .opLoopCancel .. | .opLoopClose .. | .stepBoundary .. | .stepLaunch .. | .restoreLanded ..
  | .moverPieceLanded .. | .mapoutRequest .. | .mapoutMoveRetry .. | .mfpResponse .. | .channelUncorrectable ..
  | .hubReady =>
    [.port, .mem, .hub, .contexts, .objects, .graphs, .front, .bramble, .slices, .trestle, .sched, .wrd, .chest,
     .watch, .hutch, .jnl, .mgmt, .power, .link]
  | .computeResetAssert =>
    [.port, .mem, .hub, .contexts, .objects, .graphs, .front, .bramble, .slices, .trestle, .sched, .wrd, .chest,
     .watch, .jnl, .sta, .mgmt, .power, .link]
  | .tapInstruction .. =>
    [.port, .mem, .hub, .tenants, .contexts, .objects, .graphs, .front, .bramble, .slices, .trestle, .sched, .wrd,
     .chest, .watch, .jnl, .sta, .mgmt, .power, .link]
  | .registerWrite .. | .blockReset =>
    [.port, .mem, .hub, .tenants, .contexts, .objects, .graphs, .front, .bramble, .slices, .trestle, .sched, .wrd,
     .chest, .bureau, .watch, .hutch, .jnl, .sta, .mgmt, .power, .link]
  | .por =>
    [.time, .port, .mem, .hub, .tenants, .contexts, .objects, .graphs, .front, .bramble, .slices, .trestle, .sched,
     .wrd, .chest, .bureau, .watch, .hutch, .jnl, .sta, .mgmt, .power, .link]

/-- Every byte outside n bytes at a location reads as it did. -/
def UnchangedOutside (l : Loc) (n : Nat) (s t : State) : Prop :=
  ∀ k : Loc, (k.space ≠ l.space ∨ k.addr < l.addr ∨ l.addr + n ≤ k.addr) → memRead k 1 t = memRead k 1 s

/-- Every queue but one is as it was. -/
def OtherQueuesSame (k : Nat) (s t : State) : Prop :=
  ∀ k', k' ≠ k → tget t.front.queues k' = tget s.front.queues k'

/-- The context has begun a fault teardown at the present time, with a cause that a test accepts (R36, R37, R358). -/
def FaultTeardownBegun (c : Nat) (s t : State) (why : FaultInfo → Prop) : Prop :=
  ∃ x i, tget t.contexts c = some x ∧ x.state = .teardown true ∧ x.teardownAt = s.now ∧ x.cause = some i ∧ why i

/-- A side engine of a stream takes a command: its launch runs or has left it an entry, its queue has an entry, the engine is not
busy, and the command at its place lies in the side section, is legal and has the op (R150, R151, R153, R173). -/
def SideTakes (p st eng op : Nat) (l : Launch) (c : SideCmd) (h : Posted) (pc : Nat) (s : State) : Prop :=
  let x := streamAt p st s
  let img := launchImage l s
  x.launch = some l ∧ mayTake x (engineAt x eng) = true ∧ (engineAt x eng).busy = false ∧
  (engineAt x eng).place img = some (h, pc) ∧
  pc + 32 ≤ imSideLen img ∧ c = SideCmd.of (slice img (imSideOff img + pc) 32) ∧ c.legal eng = true ∧ c.op = op

/-- The state in which a side command acts: its 32 bytes have been read over the slice memory port, once (R150, R153, R477). -/
def sideRead (p st eng pc : Nat) (l : Launch) (s : State) : State :=
  if (engineAt (streamAt p st s) eng).waiting then s else readTable p l (storeLoc l (imSideOff (launchImage l s) + pc) s) 32 s

/-- Every stream but one is as it was. -/
def OtherStreamsSame (p st : Nat) (s t : State) : Prop :=
  ∀ p' st', (p', st') ≠ (p, st) → streamAt p' st' t = streamAt p' st' s

/-- A side engine is busy with the command at a place, and every other engine and stream is as it was. -/
def EngineTook (p st eng pc : Nat) (s t : State) : Prop :=
  (streamAt p st t).engines = (streamAt p st s).engines.modify (eng - 1)
    (fun g => { g with pc := some pc, busy := true, waiting := false, landed := 0 }) ∧
  (streamAt p st t).state = (streamAt p st s).state ∧ (streamAt p st t).flags = (streamAt p st s).flags ∧
  OtherStreamsSame p st s t

/-- A stream has halted with a fault, where none was found before, and nothing but the stream has changed (R149, R173). -/
def HaltedWith (p st : Nat) (f : StreamFault) (s t : State) : Prop :=
  (streamAt p st t).state = .halted ∧ ((streamAt p st s).fault = none → (streamAt p st t).fault = some f) ∧
  (streamAt p st t).cycle = (streamAt p st s).cycle ∧ OtherStreamsSame p st s t ∧ OnlyIn [.slices] s t

/-- The frames a command carries are the ones that would be taken for n model frames: as many free fast frames, no two the
same, those that need no zeroing first (R231, log 11). -/
abbrev GoodFrames (n : Nat) (fs : List Nat) (s : State) : Prop :=
  fs.length = n ∧ fs.Nodup ∧ (∀ f ∈ fs, isFree f s = true ∧ isFast f s = true) ∧
  fs.countP (fun f => (cleanFrames .fast s).contains f) = min n (cleanFrames .fast s).length

/-- The mover with the fewest bytes outstanding, the lowest such (R505). -/
def LeastMover (i : Nat) (s : State) : Prop :=
  ∃ x, s.wrd.movers[i]? = some x ∧
    ∀ j y, s.wrd.movers[j]? = some y → x.outstanding ≤ y.outstanding ∧ (j < i → x.outstanding < y.outstanding)

/-- The mover has one more job, and every other mover is as it was. -/
def JobGiven (i : Nat) (j : MoveJob) (s t : State) : Prop :=
  (∀ x, s.wrd.movers[i]? = some x → t.wrd.movers[i]? = some { x with jobs := x.jobs ++ [{ j with mover := i }] }) ∧
  (∀ k, k ≠ i → t.wrd.movers[k]? = s.wrd.movers[k]?)

/-- The move of a page from one frame to another, in a format, has started (R247): its leaf entry names the destination, which is a
KV page with its holders, no byte has moved, and the move is a job of the movers; the source frame stays until it lands, or is
free from now on (early: R192, R242). -/
def PageMoveStarted (f dst fmt : Nat) (demote early background : Bool) (who : Payer) (s t : State) : Prop :=
  tget t.wrd.frames dst = some { frameAt f s with state := .kv, accessed := false, zeroPending := false, was := .kv } ∧
  tget t.wrd.frames f = (if early then none else tget s.wrd.frames f) ∧
  (∀ g, g ≠ f → g ≠ dst → tget t.wrd.frames g = tget s.wrd.frames g) ∧
  (∀ i l, tget s.wrd.leaves i = some l → tget t.wrd.leaves i = some { l with
    entries := l.entries.map (fun e => if e.valid && e.frame == f then { e with frame := dst } else e) }) ∧
  (∃ i, i < 4 ∧ {
    id := s.wrd.nextJob, mover := i,
    kind := .page f dst fmt ((frameLoop f s).map (·.1)) demote early (((frameLoop f s).map (fun p => p.2.step)).getD 0 + 1),
    total := pageBytes s, done := 0, background := background, stopped := false, ctx := who.ctx, tenant := who.tenant,
    key := who.key, work := who.work : MoveJob } ∈ t.allJobs) ∧ t.mem = s.mem

/-- No compute reset and no block reset is under way (R361). -/
abbrev NoReset (s : State) : Prop := ∀ g ∈ s.watch.stages, g.stage ≠ 3 ∧ g.stage ≠ 4

/-- A compute reset has been ordered at the present time for a cause (R361, R366): its stage is in progress, the hub is not
ready, it is counted, and every context that was ACTIVE is in fault teardown. -/
def ComputeResetBegun (cause : Nat) (s t : State) : Prop :=
  (∃ g, stageOf 3 0 t = some g ∧ g.cause = cause ∧ g.at_ = s.now ∧ g.phase = 0) ∧ t.watch.hubReady = false ∧
  t.watch.computeResets = satInc 16 s.watch.computeResets ∧
  (∀ c x, tget s.contexts c = some x → x.state = .active → (tget t.contexts c).map (·.state) = some (.teardown true))

/-- A machine check has been reported with its code, and a compute reset ordered (R378). -/
def MachineChecked (code : Nat) (s t : State) : Prop := t.watch.lastMc = code ∧ ComputeResetBegun 8 s t

/-- Every queue of Chest but one is as it was. -/
def OtherCellsSame (cls queue : Nat) (s t : State) : Prop :=
  ∀ k, k ≠ cellKey cls queue → tget t.chest.queues k = tget s.chest.queues k

/-- Some cells are one packet of 1 to 64 cells: the first and only the first is marked first, the last and only the last
last (R300). -/
abbrev OnePacket (l : List Cell) : Prop :=
  l ≠ [] ∧ ∀ i, i < l.length → ∀ x, l[i]? = some x → (x.first = decide (i = 0) ∧ x.last = decide (i + 1 = l.length))

/-- A report of a kind has become pending for a slot (R338): at the end where the slot had none, otherwise in its place where
it ranks as high. -/
def MadePending (t : Nat) (k : ReportKind) (a b : Bureau) : Prop :=
  ((∀ e ∈ a.pending, e.1 ≠ t) → b.pending = a.pending ++ [(t, k)]) ∧
  (∀ pre k' post, a.pending = pre ++ (t, k') :: post → (∀ e ∈ pre ++ post, e.1 ≠ t) →
    b.pending = pre ++ (t, if k'.rank ≤ k.rank then k else k') :: post)

/-- Every tenant slot but one is as it was. -/
def OtherSlotsSame (t : Nat) (a b : Bureau) : Prop := ∀ d, d ≠ t → slotAt d b = slotAt d a

/-- The code that a partition uses in an interval (R331): its sample, the last one for up to 16 intervals without, or none. -/
def usedCode (p : Nat) (b : Bureau) : Option Nat :=
  match tget b.samples p with
  | some c => some c
  | none => if tgetD b.miss p 0 + 1 ≤ 16 then some (tgetD b.last p 0) else none

/-- The energy of a partition in an interval, in nJ, with its residue (R331). -/
def intervalEnergy (i : Integ) (p : Nat) (b : Bureau) : Nat :=
  (match usedCode p b with
   | none => 0
   | some c => (((c * (i.gain[p]?).getD 0 / 65536 : Nat) : Int) + (i.offset[p]?).getD 0).toNat) + tgetD b.res p 0

/-- A command whose latch is free, of an ACTIVE context. -/
def CmdLive (k pos : Nat) (s : State) : Prop :=
  ∃ m x, s.cmd k pos = some m ∧ m.latch = none ∧ tget s.contexts (k / 256) = some x ∧ x.state = .active

/-- The command has taken a status and its context has begun a fault teardown with it (R100). -/
def CmdFaulted (k pos : Nat) (status : Status) (aux : Nat) (s t : State) : Prop :=
  (t.cmd k pos).map (·.latch) = some (some ⟨status, aux⟩) ∧
  FaultTeardownBegun (k / 256) s t (fun i => i.status = status ∧ i.aux = aux ∧ i.queue = k % 256 ∧ i.seq = pos + 1)

/-- What a launch runs has faulted (R100, R177): the command of an OP_LAUNCH_GRAPH, or the context of a loop. -/
def RunFaulted (l : Launch) (status : Status) (aux : Nat) (why : FaultInfo → Prop) (s t : State) : Prop :=
  (∀ k pos, l.cmd = some (k, pos) → CmdLive k pos s → CmdFaulted k pos status aux s t ∧
    FaultTeardownBegun (k / 256) s t why) ∧
  (∀ x, l.cmd = none → tget s.contexts l.ctx = some x → x.state = .active →
    FaultTeardownBegun l.ctx s t (fun i => i.status = status ∧ i.aux = aux ∧ why i))

/-- A partition reset has been ordered at the present time for a cause (R361, R362): its stage is in progress, it is counted,
and nothing is placed in the partition. -/
def PartitionResetBegun (p cause : Nat) (byCmd : Bool) (s t : State) : Prop :=
  (∃ g, stageOf 2 p t = some g ∧ g.cause = cause ∧ g.at_ = s.now ∧ g.phase = 0 ∧ g.byCmd = byCmd) ∧
  t.watch.partitionResets = satInc 16 s.watch.partitionResets ∧ p ∈ t.sched.unusable

/-- Every stage but one is as it was. -/
def OtherStagesSame (n unit : Nat) (s t : State) : Prop :=
  ∀ m u, (m, u) ≠ (n, unit) → stageOf m u t = stageOf m u s

/-- Every byte of the flash outside n bytes from an offset on reads as it did. -/
def FlashSame (off n : Nat) (s t : State) : Prop :=
  ∀ a, (a < off ∨ off + n ≤ a) → cellGet t.mem.flash a = cellGet s.mem.flash a

/-- The boot directory has been rewritten (R413): the 64 bytes of one copy now hold this directory with dir_seq one above, every
other byte of the flash is as it was, and the other copy is the newest where any was valid. -/
def DirWritten (d : BootDir) (s t : State) : Prop :=
  ∃ i, i < 2 ∧ readN t.mem.flash (0x8000 * i) 64 = BootDir.bytes { d with seq := (currentDir s).seq + 1 } ∧
    FlashSame (0x8000 * i) 64 s t ∧ (∀ e, newestDir s = some e → dirAt (1 - i) s = some e)

/-- All four cores have been restarted into a slot (R435): one that dumps or reloads goes on with it, one that is FAILED stays so
(R429), every other enters DUMPING with its items in service back at the head of its mailbox; the shared memory is that of the
slot's section 5. -/
def CoresRestarted (slot : Nat) (s t : State) : Prop :=
  t.mgmt.slot = slot ∧ t.mgmt.shared = imageCells (slotSection slot 5 t) ∧ t.mgmt.loadFailed = false ∧
  ∀ (k : Nat) (c : Core), s.mgmt.cores[k]? = some c →
    ((c.state = .dumping ∨ c.state = .reloading) → t.mgmt.cores[k]? = some { c with reloadFailed := false }) ∧
    (c.state = .failed → t.mgmt.cores[k]? = some c) ∧
    (c.state ≠ .dumping → c.state ≠ .reloading → c.state ≠ .failed → t.mgmt.cores[k]? = some { c with
      state := .dumping, mailbox := c.inService ++ c.mailbox, inService := [], returned := c.inService.length, cause := 0,
      trap := TrapFrame.zero, reloadFailed := false })

/-- The update is being rolled back (R435): at once while MC0 runs, otherwise once it does (R410, log 132). -/
def RolledBack (s t : State) : Prop :=
  t.mgmt.updState = .rollingBack ∧
  ((coreAt 0 s).state = .running → t.mgmt.rollbackDue = false ∧ CoresRestarted (1 - s.mgmt.slot) s t ∧
    (s.MemOk → DirWritten { currentDir s with pending := none } s t)) ∧
  ((coreAt 0 s).state ≠ .running →
    t = { s with mgmt := { s.mgmt with updState := .rollingBack, rollbackDue := true } })

/-- Every core but one is as it was. -/
def OtherCoresSame (k : Nat) (s t : State) : Prop := ∀ j, j ≠ k → t.mgmt.cores[j]? = s.mgmt.cores[j]?

/-- An EV_FW_RESTART waits for the event ring (R432). -/
def RestartReported (t : State) : Prop :=
  ∃ e ∈ t.jnl.events, e.code = 3 ∧ e.srcKind = 0 ∧ e.srcNum = 0xFFFFFF

/-- The restarts of a core in the last 10 s, with the one at hand (R429). -/
def restartsNow (now : Nat) (c : Core) : List Nat := c.restarts.filter (fun x => decide (now - x < 1000000000)) ++ [now]

/-- A core that a cause has stopped (R429, R430): DUMPING, or FAILED at the fourth restart within 10 s; its items in service are
back at the head of its mailbox. -/
def coreDown (cause : Nat) (trap : TrapFrame) (now : Nat) (c : Core) : Core :=
  { c with
    state := if 4 ≤ (restartsNow now c).length then .failed else .dumping, mailbox := c.inService ++ c.mailbox, inService := [],
    returned := c.inService.length, restarts := restartsNow now c, cause := cause, trap := trap, reloadFailed := false }

/-- A core that ran has failed with a cause (R428 to R430): it is stopped and counted, and reported where it is FAILED; the FIRMWARE
record of a FAILED core is written, or waits in the mailbox of an MC1 that does not run (R410, log 132); during probation the
update is rolled back besides, at once where MC0 runs on. -/
def CoreFailed (k cause : Nat) (trap : TrapFrame) (c : Core) (s t : State) : Prop :=
  let down := coreDown cause trap s.now c
  let failed := 4 ≤ (restartsNow s.now c).length
  let written := k = 1 ∨ (coreAt 1 s).state = .running
  let mc0 := k ≠ 0 ∧ (coreAt 0 s).state = .running
  t.mgmt.restarts = satInc 16 s.mgmt.restarts ∧ (failed → RestartReported t) ∧
  (failed → written → t.hutch.nextSeq = (s.hutch.nextSeq + 1) % 2 ^ 32) ∧
  ((¬failed ∨ ¬written) → t.hutch = s.hutch) ∧
  (s.mgmt.updState ≠ .probation → t.mgmt.cores[k]? = some down ∧ t.mgmt.updState = s.mgmt.updState ∧
    (∀ j, j ≠ k → j ≠ 1 → t.mgmt.cores[j]? = s.mgmt.cores[j]?) ∧
    (k ≠ 1 → (¬failed ∨ written) → t.mgmt.cores[1]? = s.mgmt.cores[1]?) ∧
    (failed → ¬written → ∀ x, s.mgmt.cores[1]? = some x →
      t.mgmt.cores[1]? = some { x with mailbox := x.mailbox ++ [.firmwareRecord k (firmwarePayload k cause 4 down s)] })) ∧
  (s.mgmt.updState = .probation → t.mgmt.updState = .rollingBack ∧ (coreAt k t).state = down.state ∧
    (coreAt k t).mailbox = down.mailbox ∧
    (mc0 → t.mgmt.rollbackDue = false ∧ t.mgmt.slot = 1 - s.mgmt.slot ∧
      (s.MemOk → DirWritten { currentDir s with pending := none } s t)) ∧
    (¬mc0 → t.mgmt.rollbackDue = true ∧ t.mgmt.slot = s.mgmt.slot ∧ t.mem.flash = s.mem.flash)) ∧
  OnlyIn [.port, .mem, .wrd, .chest, .hutch, .jnl, .mgmt] s t

/-- An EV_SHED_LEVEL waits for the event ring; where none waited before, it gives the levels before and after (R449). -/
def LevelReported (old new : Nat) (s t : State) : Prop :=
  (∃ e ∈ t.jnl.events, e.code = 5 ∧ e.srcKind = 0 ∧ e.srcNum = 0xFFFFFF) ∧
  ((∀ e ∈ s.jnl.events, e.code ≠ 5) → ∃ e ∈ t.jnl.events, e.code = 5 ∧ ∃ w, e.words[0]? = some w ∧ w % 2 ^ 16 = (old + new * 256) % 2 ^ 16)

/-- The Limiter has taken a trigger's new value, which the state u shows, outside block reset (R441, R442, R444, R447): the
level is the higher of the level and the demand; a rise is counted and reported, and sheds the queued self-tests and, at S6,
the waiting commands; the hold starts unless every demand was below the level and still is; every partition requests the
code of R447. -/
def LimiterActs (u s t : State) : Prop :=
  let d := demand { u with power := { u.power with tempDemand := temperatureDemand u } }
  t.power.level = max s.power.level d ∧
  (d ≤ s.power.level → t.power.levelChanges = s.power.levelChanges ∧ t.jnl = s.jnl ∧ t.sched = s.sched ∧ t.front = s.front) ∧
  (s.power.level < d → t.power.levelChanges = satInc 16 s.power.levelChanges ∧
    LevelReported s.power.level d s t ∧
    (s.power.level < 6 → 6 ≤ d → t.power.s6At = s.now) ∧
    (∀ x ∈ t.power.tests, x.2.2.2.1 = true) ∧
    (∀ x ∈ s.power.tests, x.2.2.2.1 = false → ∀ m, s.cmd x.2.1 x.2.2.1 = some m → m.latch = none →
      (t.cmd x.2.1 x.2.2.1).map (·.latch) = some (some ⟨.shed, d⟩)) ∧
    (6 ≤ d → ∀ e ∈ s.sched.jobs, ∀ k pos m, e.2.cmd = some (k, pos) → s.cmd k pos = some m → m.latch = none →
      (t.cmd k pos).map (·.latch) = some (some ⟨.shed, d⟩))) ∧
  t.power.belowSince = (if demand s < s.power.level ∧ d < s.power.level then s.power.belowSince else s.now) ∧
  (t.power.sag, t.power.therm, t.power.hubTemp, t.power.forced, t.power.tempDemand) =
    (u.power.sag, u.power.therm, u.power.hubTemp, u.power.forced, temperatureDemand u) ∧
  (∀ p, p < s.integ.slices → (vfAt p t).requested = wantedCode p t ∧ ((vfAt p t).late = true → (vfAt p u).late = true)) ∧
  (∀ p, ((vfAt p t).supply, (vfAt p t).temp, (vfAt p t).overgrants, (vfAt p t).cap, (vfAt p t).granted, (vfAt p t).low) =
    ((vfAt p u).supply, (vfAt p u).temp, (vfAt p u).overgrants, (vfAt p u).cap, (vfAt p u).granted, (vfAt p u).low))

/-- A partition's clock state has changed, and nothing else. -/
def vfSet (p : Nat) (x : Vf) (s : State) : State := { s with power := { s.power with vf := tset s.power.vf p x } }

/-- The lists of the state that stand for tables of the hardware have its shape: the keyed tables list every key once, keys
rising; the tables of a fixed number of entries have that number; the page size is a legal one. -/
def State.Shaped (s : State) : Prop :=
  (tabWf s.contexts = true ∧ tabWf s.front.queues = true ∧ tabWf s.slices = true ∧ tabWf s.trestle.seqs = true ∧
    tabWf s.sched.benches = true ∧ tabWf s.wrd.frames = true ∧ tabWf s.chest.bankCount = true) ∧
  s.chest.classes.length = 6 ∧ s.link.linksUp.length = 6 ∧ s.mgmt.cores.length = 4 ∧
  (14 ≤ s.wrd.pageLog2 ∧ s.wrd.pageLog2 ≤ 18) ∧
  (∀ e ∈ s.front.queues, e.2.push.length = 4 ∧ ∀ l ∈ e.2.push, l.length ≤ 64) ∧
  (∀ e ∈ s.hub.uses, e.2.bytes.length = 4) ∧
  (∀ e ∈ s.bureau.slots, e.2.counters.length = 6 ∧ e.2.start.length = 6 ∧ e.2.prevStart.length = 6)

end Sys2Proof.Machine
end

