-- ==== Sys2Proof/WellFormed.lean ====
section
/-! DEFINITION. Which commands are well formed: every identifier lies in the range the spec gives it. -/

namespace Sys2Proof

/-- A context_id (R22). -/
def okCtx (c : Nat) : Bool := decide (c < Config.maxContexts)
/-- A queue index (R27). -/
def okQueue (q : Nat) : Bool := decide (q < 256)
/-- A context and one of its queue indices. -/
def okCQ (c q : Nat) : Bool := okCtx c && okQueue q
/-- A context, a queue and a position (R62: 64 bits). -/
def okCmd (c q pos : Nat) : Bool := okCQ c q && decide (pos < 2 ^ 64)
/-- A partition number (R2). -/
def okPart (p : Nat) : Bool := decide (p < Config.maxSlices)
/-- A stream of a slice (R137). -/
def okStream (p st : Nat) : Bool := okPart p && decide (st < 4)
/-- A tenant_id. -/
def okTenant (t : Nat) : Bool := decide (t < Config.maxTenants)
/-- A frame number (R220). -/
def okFrame (f : Nat) : Bool := decide (f < 2 ^ 26)
/-- A channel number of a tier (R251: nine bits). -/
def okChannel (ch : Nat) : Bool := decide (ch < 512)
/-- A class of Chest and a queue of it, by the number the model gives it (R302; Config.cellQueueNumber gives the one of R299). -/
def okCellQueue (cls queue : Nat) : Bool := decide (cls < 6) && decide (queue < 2 ^ 24)
/-- A management core. -/
def okCore (k : Nat) : Bool := decide (k < 4)

/-- Identifiers in range, for each command. -/
def Instr.wellFormed : Instr → Bool
  | .tenantActivate id _ | .tenantRetire id => decide (id < Config.maxContexts)
  | .contextActivate c _ | .contextRetire c | .teardownDone c => okCtx c
  | .queueEnable c q _ _ | .queueShutdown c q | .queueShutdownHang c q => okCQ c q
  | .sealLoad slot _ | .sealClear slot => decide (slot < 8)
  | .partitionReset p | .computeReset p | .resetReq p => decide (p < 64)
  | .updateStage k => decide (k < 65536)
  | .updateActivate _ | .updateCancel | .stagingDone _ _ | .updateEmergencyCleared | .updateQuiesced
  | .updateLoaded _ | .probationExpiry | .rollbackDone => true
  | .wrdCfgWrite _ | .frameTableBuilt | .hostCapsWrite _ | .burReqWrite _ | .burRingWrite _ | .jnlRingWrite _ _
  | .eventConsWrite _ | .barrierSlotOwn _ | .staAddrWrite _ | .staReadDone | .bar0ErrRead => true
  | .peakRead none => true
  | .peakRead (some c) => decide (c < 6)
  | .registerWrite off size _ => decide (off < 2 ^ 21) && decide (size ≤ 64)
  | .doorbellWrite fn off size _ => decide (fn ≤ 1024) && decide (off < 2 ^ 31) && decide (size ≤ 64)
  | .pushWrite fn off bytes => decide (fn ≤ 1024) && decide (off < 2 ^ 31) && decide (bytes.length ≤ 64)
  | .fetchIssue c q n => okCQ c q && decide (n ≤ 16)
  | .fetchReturn c q _ | .fetcherGoIdle c q | .acceptReadReturn c q _ => okCQ c q
  | .arbiterGrant none => true
  | .arbiterGrant (some t) => okTenant t
  | .entryAccept c q | .commandRetire c q | .completionWordWrite c q | .msixModerationTimeout c q
  | .queueTimeout c q => okCQ c q
  | .commandDispatch c q pos => okCmd c q pos
  | .watchSample | .hubEngineHang _ | .deadlockScan => true
  | .streamHang p st | .peerWaitTimeout p st => okStream p st
  | .moverHang m => decide (m < 4)
  | .opNop c q pos | .opFenceWait c q pos | .opFenceSignal c q pos | .opCopy c q pos | .opFill c q pos
  | .opTimestamp c q pos | .opLaunchGraph c q pos | .opGraphPatch c q pos | .opLoopOpen c q pos
  | .opLoopAdmit c q pos _ | .opLoopCancel c q pos | .opLoopClose c q pos | .opModelPin c q pos
  | .opModelUnpin c q pos | .opObjFree c q pos | .opBarrierJoin c q pos | .opQuery c q pos | .opSnapshot c q pos
  | .opSelftest c q pos | .opAbort c q pos | .opReplayOpen c q pos | .verifyDone c q pos _ => okCmd c q pos
  | .opModelLoad c q pos frames => okCmd c q pos && frames.all okFrame
  | .launchReceive p st | .bundleIssue p st _ | .load p st | .store p st | .gather p st | .scatter p st
  | .send p st | .recv p st | .reduce p st | .setreg p st | .streamDrainDone p st | .stopRequest p st
  | .stopConfirm p st | .streamRelease p st | .hazardReport p st | .stepEndReport p st _ => okStream p st
  | .launchRetryRequest p st cause => okStream p st && decide (1 ≤ cause) && decide (cause ≤ 3)
  | .icacheFill p st off => okStream p st && decide (off % 256 = 0)
  | .alarmSet p st cycle _ _ => okStream p st && decide (cycle < 2 ^ 32)
  | .sideCommandLanded p st w => okStream p st && decide (1 ≤ w.engine) && decide (w.engine ≤ 4)
  | .collectiveData p st peer chan _ => okStream p st && decide (peer < 2 ^ 24) && decide (chan < 65536)
  | .stepBoundary l ch => decide (l < Config.maxLoops) && ch.fastFrames.all okFrame && ch.slowFrames.all okFrame
  | .stepLaunch l => decide (l < Config.maxLoops)
  | .chargeTick _ | .evictAfterExpiry _ | .saveLanded _ | .restoreLanded _ => true
  | .clearDone b => decide (b < 4 * Config.maxSlices)
  | .wardrobeSweep _ => true
  | .backgroundDemote f d | .backgroundPromote f d | .mapoutMoveRetry f d => okFrame f && okFrame d
  | .backgroundZero f => okFrame f
  | .moverPieceLanded m _ => decide (m < 4)
  | .mapoutRequest _ ch _ _ _ | .channelReady _ ch | .channelFault _ ch _ | .ceRate _ ch _
  | .channelUncorrectable _ ch _ | .channelReadyTimeout ch _ => okChannel ch
  | .modelMissRetry _ fr | .modelMissService _ fr => fr.all okFrame
  | .mfpResponse _ _ _ _ | .hfpCompletion _ _ => true
  | .cellAllocate cls queue _ idx => okCellQueue cls queue && idx.all (fun i => decide (i < Config.cells))
  | .cellRead cls queue _ | .cellMark cls queue | .cellRewind cls queue | .cellRelease cls queue _ =>
    okCellQueue cls queue
  | .chestWalkDone _ | .bureauTick => true
  | .sensorSample p _ => decide (p < 64)
  | .occ | .eng | .byt | .act | .ret | .req | .sync | .periodicReport | .signingStart | .signingDone _ _
  | .reportForward | .vddAonUp _ _ => true
  | .bytFlushTimer t cls => okTenant t && decide (cls < 4)
  | .stageBudgetExpiry stage _ => decide (1 ≤ stage) && decide (stage ≤ 3)
  | .partitionResetAssert p | .partitionWritesDrained p | .partitionResetRelease p | .sliceReady p => okPart p
  | .dumpAllowanceExpiry _ | .completionsAllowanceExpiry | .computeResetAssert | .computeResetRelease | .hubReady
  | .resetRequest | .por | .blockReset | .blockResetRelease | .bootLoadDone | .patchLoad _ | .bootCommit => true
  | .mcWatchFlag k _ | .watchdogExpiry k _ | .fatalTrap k _ | .settlePanic k _ | .memoryError (some k) _
  | .mcDumpDone k | .mcReloadDone k _ | .mailboxItem k => okCore k
  | .memoryError none _ => true
  | .pwrSag k => decide (k < 8)
  | .thermAlert _ => true
  | .temperatureInput sensor temp => (okPart sensor || decide (sensor = 63)) && decide (temp < 256)
  | .vminTimer p mv | .limiterCapStep p mv => okPart p && decide (mv < 4096)
  | .vfGrant p code => okPart p && decide (code < 256)
  | .vfGrantTimeout p => okPart p
  | .shedHoldExpiry | .quiesceDump => true
  | .selftestRun p | .calibration p | .calibrationDone p => okPart p
  | .selftestDone p detail => okPart p && decide (detail ≤ 4)
  | .bankTest _ | .bankTestDone _ _ => true
  | .scrub _ | .telemetry => true
  | .hfpFlrReq fn | .hfpFlrAck fn => decide (fn ≤ 1024)
  | .release group slot _ => decide (group < 64) && decide (slot < 256)
  | .barrierDeadline slot => decide (slot < 256)
  | .links dir up => decide (dir < 6) && decide (up ≤ 8)
  | .tapInstruction _ => true
  | .journalWrite l | .journalConsumedPoll l _ => decide (l < Config.maxLoops)
  | .eventWrite | .engineFaultReport _ | .traceRingWrite | .hubSupplyLoss | .vddAonLoss => true

end Sys2Proof
end

