-- ==== Sys2Proof/Certificates/Slice0/Obligations.lean ====
section
/-! DEFINITION. The statements for the provers. Each says what the spec's rules make of a command on a state: where it
completes, what the next state holds, and what it leaves as it was (OnlyIn lists the parts of the state that may change). -/

open Sys2Proof Sys2Proof.Machine

/-- TENANT_ACTIVATE on a record that passes every check of R34 makes the tenant ACTIVE with that record, takes its
arenas out of the frame pool (R26) with the zeroing jobs of their frames (the model's choice, log 105), sends an ACT record (R327), which the hub holds while the FIFO is full (R326), and reports OK
(R32); its record was read with no tenant's key (R502); every other tenant is as before.
TENANT_RETIRE of an ACTIVE tenant with no context makes it FREE, sends what is aggregated for it and a RET record
last (R327; held while the FIFO is full, R326), and reports OK (R34); every other tenant is as before. That no model of the
tenant is left is the model's choice (log 22): R34 says nothing of its models. -/
def Obligations.TenantsComeAndGo : Prop :=
  (∀ (id : Nat) (b : List Byte) (r : TenantRec) (s : State),
     cmdOpen s.hub.objBusy s = true → id < 1024 → tget s.tenants id = none → s.wrd.enable = true → s.hub.capsValid = true →
     parseTenant s.integ.slices b = some r → (r.isSealed = true → bit s.hub.agreedCaps capSealed = true) →
     arenasFit r s = true → arenaOverlaps r s = false → (r.isSealed = true → (freeOffset s).isSome = true) →
     ∃ t, Machine.exec (.tenantActivate id (.ok b)) s = .next t ∧
       tget t.tenants id = some { rcd := r, slotOffset := if r.isSealed then freeOffset s else none } ∧
       (∀ k, k ≠ id → tget t.tenants k = tget s.tenants k) ∧
       t.wrd = { s.wrd with
         frames := s.wrd.frames.filter (fun e => !(arenaFrames r s).any (fun a => decide (a.1 ≤ e.1 ∧ e.1 < a.2))),
         movers := s.wrd.movers.map (fun m => { m with jobs := m.jobs.filter (fun j =>
           !(j.kind.zeroes && j.kind.frames.any (fun f => (arenaFrames r s).any (fun a => decide (a.1 ≤ f ∧ f < a.2))))) }) } ∧
       t.hub = { s.hub with objBusy := false, objResult := 0, objLast := id,
                            burFifo := if 256 ≤ s.hub.burFifo.length then s.hub.burFifo else s.hub.burFifo ++ [(s.hub.burSeq, .act id)],
                            burHeld := if 256 ≤ s.hub.burFifo.length then s.hub.burHeld ++ [(s.hub.burSeq, .act id)] else s.hub.burHeld,
                            burSeq := (s.hub.burSeq + 1) % 65536 } ∧
       t.port = (readReq none .hub (pfLoc (s.hub.tntBase + id * 64)) 64 s).port ∧
       OnlyIn [.port, .hub, .tenants, .wrd] s t) ∧
  (∀ (id : Nat) (s : State), cmdOpen s.hub.objBusy s = true → id < 1024 → (tget s.tenants id).isSome = true →
     (∀ e ∈ s.contexts, e.2.rcd.tenant ≠ id) →
     ∃ t, Machine.exec (.tenantRetire id) s = .next t ∧ tget t.tenants id = none ∧
       (∀ k, k ≠ id → tget t.tenants k = tget s.tenants k) ∧
       (∀ e ∈ t.wrd.models, e.2.tenant ≠ id) ∧
       (∀ cls, cls < 4 → tget t.hub.bytAgg (id * 4 + cls) = none) ∧
       ((t.hub.burFifo.getLast?).map Prod.snd = some (.ret id) ∨ (t.hub.burHeld.getLast?).map Prod.snd = some (.ret id)) ∧
       t.hub.objResult = 0 ∧ t.hub.objBusy = false ∧ t.hub.objLast = id ∧ OnlyIn (touches (.tenantRetire id)) s t)

/-- CONTEXT_ACTIVATE on a record that passes every check of R35 (whose limits count every context that is not FREE, log 106) makes the context ACTIVE with that record and reports OK;
the figures of R61 start at zero; every other context is as before.
CONTEXT_RETIRE (R35): a FREE context, or one in TEARDOWN, is refused with BAD_STATE; a LOST one becomes FREE at once
with OK; an ACTIVE one begins a driver teardown: it is in TEARDOWN since now, to be reported when it is FREE, and its
queues are not enabled; every other context keeps everything but, where benches change hands, its save frames.
TEARDOWN_DONE (R36, R37): when everything the teardown waits for has happened, a driver teardown ends in FREE and a
fault teardown in LOST; the context's objects, graph versions, loops and sequences are gone, a RETIRE that waited is
reported OK, and every other context keeps its state, unless a map-out that waited starts now (R251). -/
def Obligations.ContextsLiveAndEnd : Prop :=
  (∀ (id : Nat) (b : List Byte) (r : CtxRec) (tn : Tenant) (s : State),
     cmdOpen s.hub.objBusy s = true → id < 16384 → tget s.contexts id = none → parseCtx b = some r →
     tget s.tenants r.tenant = some tn → tn.rcd.allows r.cls = true → ctxLimit r tn.rcd s = false →
     ∃ t, Machine.exec (.contextActivate id (.ok b)) s = .next t ∧ tget t.contexts id = some (Context.fresh r b) ∧
       (Context.fresh r b).state = .active ∧ (∀ k, k ≠ id → tget t.contexts k = tget s.contexts k) ∧
       t.hub = { s.hub with objBusy := false, objResult := 0, objLast := id, uses := tdel s.hub.uses id } ∧
       t.port = (readReq none .hub (pfLoc (s.hub.ctxBase + id * 64)) 64 s).port ∧
       OnlyIn [.port, .hub, .contexts] s t) ∧
  (∀ (id : Nat) (s : State), cmdOpen s.hub.objBusy s = true → id < 16384 →
     (tget s.contexts id = none → Machine.exec (.contextRetire id) s = .next (objResult 3 id s)) ∧
     (∀ x, tget s.contexts id = some x →
       (∀ f, x.state = .teardown f → Machine.exec (.contextRetire id) s = .next (objResult 3 id s)) ∧
       (x.state = .lost → ∃ t, Machine.exec (.contextRetire id) s = .next t ∧ tget t.contexts id = none ∧
         (∀ k, k ≠ id → tget t.contexts k = tget s.contexts k) ∧
         (∀ e ∈ t.front.queues, e.1 / 256 ≠ id) ∧ t.hub = { s.hub with objBusy := false, objResult := 0, objLast := id } ∧
         OnlyIn [.hub, .contexts, .front, .sched] s t) ∧
       (x.state = .active → ∃ t, Machine.exec (.contextRetire id) s = .next t ∧
         (∃ fs, tget t.contexts id = some { x with state := .teardown false, teardownAt := s.now, cause := none,
                                                   wantRetire := true, saveFrames := fs }) ∧
         (∀ k y, k ≠ id → tget s.contexts k = some y → ∃ fs, tget t.contexts k = some { y with saveFrames := fs }) ∧
         (∀ q u, q < 256 → t.queue id q = some u → u.enabled = false) ∧
         t.hub.objBusy = true ∧ t.hub.objLast = id ∧ OnlyIn (touches (.contextRetire id)) s t))) ∧
  (∀ (c : Nat) (x : Context) (fault : Bool) (s : State), tget s.contexts c = some x → x.state = .teardown fault →
     tearReady c s = true →
     ∃ t, Machine.exec (.teardownDone c) s = .next t ∧
       (fault = false → tget t.contexts c = none ∧ (∀ e ∈ t.front.queues, e.1 / 256 ≠ c)) ∧
       (fault = true → (tget t.contexts c).map (·.state) = some .lost) ∧
       (s.wrd.mapoutWait = [] → ∀ k, k ≠ c → (tget t.contexts k).map (·.state) = (tget s.contexts k).map (·.state)) ∧
       (∀ e ∈ t.objects, e.1 / 2 ^ 20 ≠ c) ∧ (∀ e ∈ t.graphs, e.1 / 2 ^ 20 ≠ c) ∧
       (∀ e ∈ t.trestle.loops, e.2.ctx ≠ c) ∧ (∀ e ∈ t.trestle.seqs, e.2.ctx ≠ c) ∧
       (x.wantRetire = true → t.hub.objBusy = false ∧ t.hub.objResult = 0) ∧ OnlyIn (touches (.teardownDone c)) s t)

/-- HUB_OBJ_CMD fails with the result of the first check of R33 to R35 that fails, and no tenant or context changes: the
tenant's ACTIVATE, the context's ACTIVATE and both RETIREs; a command written while the register takes none changes no
tenant and no context either.
SEAL_LOAD (R163, R502) puts a legal key into its slot and reports OK; it reports READ_ERROR, BAD_RECORD or DUPLICATE
and leaves every slot otherwise. SEAL_CLEAR (R161) empties its slot.
FRT_QCMD reports the first check of R71 that fails and leaves every queue as it was; an ENABLE whose own write of the
Completion Word faults costs the context with ST_ACCESS and reports BAD_ID with the queue STOPPED. -/
def Obligations.ControlCommandsAnswer : Prop :=
  ((∀ (id : Nat) (rd : HostRead) (s : State), cmdOpen s.hub.objBusy s = true → 1024 ≤ id →
     Machine.exec (.tenantActivate id rd) s = .next (objResult 2 id s) ∧
     Machine.exec (.tenantRetire id) s = .next (objResult 2 id s)) ∧
   (∀ (id : Nat) (rd : HostRead) (s : State), cmdOpen s.hub.objBusy s = true → id < 1024 →
     ((tget s.tenants id).isSome = true ∨ s.wrd.enable = false ∨ s.hub.capsValid = false) →
     Machine.exec (.tenantActivate id rd) s = .next (objResult 3 id s)) ∧
   (∀ (id : Nat) (rd : HostRead) (s : State), cmdOpen s.hub.objBusy s = true → id < 1024 → tget s.tenants id = none →
     s.wrd.enable = true → s.hub.capsValid = true → (rd = .error ∨ rd = .poison) →
     Machine.exec (.tenantActivate id rd) s = .next (objResult 7 id (readReq none .hub (pfLoc (s.hub.tntBase + id * 64)) 64 s))) ∧
   (∀ (id : Nat) (b : List Byte) (s : State), cmdOpen s.hub.objBusy s = true → id < 1024 → tget s.tenants id = none →
     s.wrd.enable = true → s.hub.capsValid = true →
     (∀ r, parseTenant s.integ.slices b = some r →
       (r.isSealed = true ∧ bit s.hub.agreedCaps capSealed = false) ∨ arenasFit r s = false) →
     Machine.exec (.tenantActivate id (.ok b)) s =
       .next (objResult 4 id (readReq none .hub (pfLoc (s.hub.tntBase + id * 64)) 64 s))) ∧
   (∀ (id : Nat) (b : List Byte) (r : TenantRec) (s : State), cmdOpen s.hub.objBusy s = true → id < 1024 →
     tget s.tenants id = none → s.wrd.enable = true → s.hub.capsValid = true → parseTenant s.integ.slices b = some r →
     (r.isSealed = true → bit s.hub.agreedCaps capSealed = true) → arenasFit r s = true →
     (arenaOverlaps r s = true → Machine.exec (.tenantActivate id (.ok b)) s =
       .next (objResult 6 id (readReq none .hub (pfLoc (s.hub.tntBase + id * 64)) 64 s))) ∧
     (arenaOverlaps r s = false → r.isSealed = true → freeOffset s = none →
       Machine.exec (.tenantActivate id (.ok b)) s =
       .next (objResult 5 id (readReq none .hub (pfLoc (s.hub.tntBase + id * 64)) 64 s)))) ∧
   (∀ (id : Nat) (s : State), cmdOpen s.hub.objBusy s = true → id < 1024 →
     (tget s.tenants id = none ∨ ∃ e ∈ s.contexts, e.2.rcd.tenant = id) →
     Machine.exec (.tenantRetire id) s = .next (objResult 3 id s)) ∧
   (∀ (id : Nat) (rd : HostRead) (s : State), cmdOpen s.hub.objBusy s = true → id < 16384 →
     (tget s.contexts id).isSome = true → Machine.exec (.contextActivate id rd) s = .next (objResult 3 id s)) ∧
   (∀ (id : Nat) (rd : HostRead) (s : State), cmdOpen s.hub.objBusy s = true → id < 16384 → tget s.contexts id = none →
     (rd = .error ∨ rd = .poison) → Machine.exec (.contextActivate id rd) s =
       .next (objResult 7 id (readReq none .hub (pfLoc (s.hub.ctxBase + id * 64)) 64 s))) ∧
   (∀ (id : Nat) (b : List Byte) (s : State), cmdOpen s.hub.objBusy s = true → id < 16384 → tget s.contexts id = none →
     (tget s.tenants (bits (fld b 2 2) 9 0) = none →
       Machine.exec (.contextActivate id (.ok b)) s =
         .next (objResult 3 id (readReq none .hub (pfLoc (s.hub.ctxBase + id * 64)) 64 s))) ∧
     ((tget s.tenants (bits (fld b 2 2) 9 0)).isSome = true → parseCtx b = none →
       Machine.exec (.contextActivate id (.ok b)) s =
         .next (objResult 4 id (readReq none .hub (pfLoc (s.hub.ctxBase + id * 64)) 64 s)))) ∧
   (∀ (id : Nat) (b : List Byte) (r : CtxRec) (tn : Tenant) (s : State), cmdOpen s.hub.objBusy s = true → id < 16384 →
     tget s.contexts id = none → parseCtx b = some r → tget s.tenants r.tenant = some tn →
     (tn.rcd.allows r.cls = false → Machine.exec (.contextActivate id (.ok b)) s =
         .next (objResult 4 id (readReq none .hub (pfLoc (s.hub.ctxBase + id * 64)) 64 s))) ∧
     (tn.rcd.allows r.cls = true → ctxLimit r tn.rcd s = true →
       Machine.exec (.contextActivate id (.ok b)) s =
         .next (objResult 5 id (readReq none .hub (pfLoc (s.hub.ctxBase + id * 64)) 64 s)))) ∧
   (∀ (id : Nat) (rd : HostRead) (s : State), cmdOpen s.hub.objBusy s = false →
     (∀ c ∈ [Instr.tenantActivate id rd, .tenantRetire id, .contextActivate id rd, .contextRetire id],
       Machine.exec c s = .next (cmdIgnored hubObjCmd s)) ∧
     (cmdIgnored hubObjCmd s).tenants = s.tenants ∧ (cmdIgnored hubObjCmd s).contexts = s.contexts)) ∧
  ((∀ (slot : Nat) (b : List Byte) (k : SealKey) (s : State), cmdOpen false s = true → slot < 8 → parseSealKey b = some k →
     (∀ e ∈ s.hub.sealSlots, e.1 ≠ slot → e.2.keyId ≠ k.keyId) →
     Machine.exec (.sealLoad slot (.ok b)) s =
       .next { readReq none .hub (pfLoc s.hub.sealAddr) 128 s with
                 hub := { s.hub with sealResult := 0, sealSlots := tset s.hub.sealSlots slot k } }) ∧
   (∀ (slot : Nat) (rd : HostRead) (s : State), cmdOpen false s = true → slot < 8 → (rd = .error ∨ rd = .poison) →
     Machine.exec (.sealLoad slot rd) s = .next { readReq none .hub (pfLoc s.hub.sealAddr) 128 s with hub := { s.hub with sealResult := 4 } }) ∧
   (∀ (slot : Nat) (b : List Byte) (s : State), cmdOpen false s = true → slot < 8 → parseSealKey b = none →
     Machine.exec (.sealLoad slot (.ok b)) s = .next { readReq none .hub (pfLoc s.hub.sealAddr) 128 s with hub := { s.hub with sealResult := 2 } }) ∧
   (∀ (slot : Nat) (b : List Byte) (k : SealKey) (s : State), cmdOpen false s = true → slot < 8 → parseSealKey b = some k →
     (∃ e ∈ s.hub.sealSlots, e.1 ≠ slot ∧ e.2.keyId = k.keyId) →
     Machine.exec (.sealLoad slot (.ok b)) s = .next { readReq none .hub (pfLoc s.hub.sealAddr) 128 s with hub := { s.hub with sealResult := 3 } }) ∧
   (∀ (slot : Nat) (s : State), cmdOpen false s = true → slot < 8 →
     Machine.exec (.sealClear slot) s =
       .next { s with hub := { s.hub with sealResult := 0, sealSlots := tdel s.hub.sealSlots slot } })) ∧
  ((∀ (c q : Nat) (rd : HostRead) (wr : HostStatus) (s : State), cmdOpen s.front.qBusy s = true →
     (∀ x, tget s.contexts c = some x → x.state ≠ .active ∨ x.rcd.queueCount ≤ q) →
     Machine.exec (.queueEnable c q rd wr) s = .next (qResult 2 s) ∧
     Machine.exec (.queueShutdown c q) s = .next (qResult 2 s)) ∧
   (∀ (c q : Nat) (rd : HostRead) (wr : HostStatus) (x : Context) (s : State), cmdOpen s.front.qBusy s = true →
     tget s.contexts c = some x → x.state = .active → q < x.rcd.queueCount →
     ((queueAt c q s).state ≠ .stopped → Machine.exec (.queueEnable c q rd wr) s = .next (qResult 3 s)) ∧
     ((queueAt c q s).enabled = false → Machine.exec (.queueShutdown c q) s = .next (qResult 3 s)) ∧
     ((queueAt c q s).state = .stopped → (rd = .error ∨ rd = .poison) →
       Machine.exec (.queueEnable c q rd wr) s =
         .next (qResult 5 (recordRead c q x.rcd s)) ∧ (recordRead c q x.rcd s).front = s.front ∧
       (recordRead c q x.rcd s).port = (readFor (some c) (ctxLoc x.rcd (x.rcd.queueTable + q * 64)) 64 s).port) ∧
     (∀ b, rd = .ok b → (queueAt c q s).state = .stopped →
       (∀ r, parseQueue b = some r → r.msixEnable = true ∧ x.rcd.msixLast < r.msixVector) →
       ∃ t, Machine.exec (.queueEnable c q rd wr) s = .next t ∧ t.front = { s.front with qBusy := false, qResult := 4 } ∧
         OnlyIn [.port, .hub, .front, .chest, .jnl] s t) ∧
     (∀ b r, rd = .ok b → (queueAt c q s).state = .stopped → parseQueue b = some r →
       (r.msixEnable = true → r.msixVector ≤ x.rcd.msixLast) → wr ≠ .ok →
       ∃ t, Machine.exec (.queueEnable c q rd wr) s = .next t ∧ t.front.qResult = 2 ∧ t.front.qBusy = false ∧
         (queueAt c q t).state = .stopped ∧
         FaultTeardownBegun c s t (fun i => i.status = .access ∧ i.queue = q ∧ i.address = r.completionAddr))) ∧
   (∀ (c q : Nat) (rd : HostRead) (wr : HostStatus) (s : State), cmdOpen s.front.qBusy s = false →
     Machine.exec (.queueEnable c q rd wr) s = .next (cmdIgnored frtQcmd s) ∧
     Machine.exec (.queueShutdown c q) s = .next (cmdIgnored frtQcmd s) ∧ (cmdIgnored frtQcmd s).front = s.front))

/-- QUEUE_ENABLE with a legal record of a STOPPED queue of an ACTIVE context (R68, R71): D, F and W hold start_index, the
Completion Word holds it too, the push windows, the Detail Ring indices, the overflow flag and count and the counters of
R72 are clear, the queue is IDLE, the result OK; the record is read and the word written with the key of the context's
tenant (R25, R468); no other queue and no other byte changes.
QUEUE_SHUTDOWN of an enabled queue (R94): fetch stops, every command of the queue has its latch taken, those whose
latch was free with ST_ABORTED and aux 2, and any position never fetched has that latch from then on; D and W stay. With
W = D and nothing left to report the queue is STOPPED and the command reports OK, else it is SHUTTING and the register busy; that
the reports come first (log 95) and that F stands at D (log 115) is the model's choice. Every other queue keeps its state and its indices.
QUEUE_TIMEOUT of a queue whose window has passed without a retirement (R92, R93): the window restarts; the oldest
command, not dispatched, has its free latch taken with ST_TIMEOUT and timeout_ms and its waits withdrawn, and so has one that
waits in a mailbox or for its test (R430, R453); one that runs is not stopped and the expiry is counted; one whose latch is taken is left; a position not handed over retires so later.
No context changes its record, state or cause. -/
def Obligations.QueuesStartAndStop : Prop :=
  (∀ (c q : Nat) (b : List Byte) (r : QueueRec) (x : Context) (s : State), cmdOpen s.front.qBusy s = true → s.MemOk →
     tget s.contexts c = some x → x.state = .active → q < x.rcd.queueCount → (queueAt c q s).state = .stopped →
     parseQueue b = some r → (r.msixEnable = true → r.msixVector ≤ x.rcd.msixLast) →
     ∃ t u, Machine.exec (.queueEnable c q (.ok b) .ok) s = .next t ∧ t.queue c q = some u ∧
       u.state = .idle ∧ u.everEnabled = true ∧ u.rcd = r ∧ u.d = r.startIndex ∧ u.f = r.startIndex ∧ u.w = r.startIndex ∧
       u.credit = r.weight ∧ u.push = List.replicate 4 [] ∧ u.pd = 0 ∧ u.cd = 0 ∧ u.overflow = false ∧ u.overflowCount = 0 ∧
       u.spilled = [] ∧ u.dropped = 0 ∧ u.badDoorbell = 0 ∧ u.badSize = 0 ∧ u.badDetail = 0 ∧ u.timeouts = 0 ∧
       OtherQueuesSame (qkey c q) s t ∧ t.front.qResult = 0 ∧ t.front.qBusy = false ∧
       (hostDropped (ctxLoc x.rcd r.completionAddr) s = false →
         memRead (ctxLoc x.rcd r.completionAddr) 8 t = le 8 r.startIndex) ∧
       UnchangedOutside (ctxLoc x.rcd r.completionAddr) 8 s t ∧
       (let slot := ctxLoc x.rcd (x.rcd.queueTable + q * 64)
        let word := ctxLoc x.rcd r.completionAddr
        t.port.out = s.port.out ++ (if hostStopped slot s then [] else readReqs (some x.rcd.tenant) .hub slot 64) ++
         (if hostDropped word s then [] else writeReqs (some x.rcd.tenant) .hub word (le 8 r.startIndex))) ∧
       OnlyIn [.port, .mem, .hub, .front, .chest, .jnl] s t) ∧
  (∀ (c q : Nat) (x : Context) (u : Queue) (s : State), cmdOpen s.front.qBusy s = true → tget s.contexts c = some x →
     x.state = .active → q < x.rcd.queueCount → s.queue c q = some u → u.enabled = true →
     ∃ t v, Machine.exec (.queueShutdown c q) s = .next t ∧ t.queue c q = some v ∧ v.d = u.d ∧ v.f = u.d ∧ v.w = u.w ∧
       v.inflight = [] ∧ v.fetched = [] ∧ v.shutLatch = ⟨.aborted, 2⟩ ∧ v.unwritten = u.unwritten ∧
       (∀ pos m, u.cmd pos = some m → (v.cmd pos).map (·.latch) = some (some (m.latch.getD ⟨.aborted, 2⟩))) ∧
       (u.w = u.d → u.unwritten = [] → (u.urgent = false ∨ u.rcd.msixEnable = false) →
         v.state = .stopped ∧ t.front.qBusy = false ∧ t.front.qResult = 0) ∧
       ((u.w ≠ u.d ∨ u.unwritten ≠ [] ∨ (u.urgent = true ∧ u.rcd.msixEnable = true)) →
         v.state = .shutting ∧ t.front.qBusy = true ∧ t.front.qBusyKey = qkey c q) ∧
       (∀ k w, k ≠ qkey c q → tget s.front.queues k = some w →
         ∃ w', tget t.front.queues k = some w' ∧ w'.state = w.state ∧ w'.d = w.d ∧ w'.f = w.f ∧ w'.w = w.w) ∧
       OnlyIn (touches (.queueShutdown c q)) s t) ∧
  (∀ (c q : Nat) (u : Queue) (s : State), s.queue c q = some u → u.enabled = true → u.w < u.d →
     u.rcd.timeoutMs * Config.ms ≤ s.now - u.heldSince → u.progress = u.sample →
     ∃ t v, Machine.exec (.queueTimeout c q) s = .next t ∧ t.queue c q = some v ∧ v.heldSince = s.now ∧ v.w = u.w ∧
       v.d = u.d ∧ (∀ k, (tget t.contexts k).map (fun x => (x.rcd, x.state, x.cause)) =
         (tget s.contexts k).map (fun x => (x.rcd, x.state, x.cause))) ∧ OtherQueuesSame (qkey c q) s t ∧
       (∀ m, u.cmd u.w = some m →
         (∀ l, m.latch = some l → v = { u with heldSince := s.now }) ∧
         (m.latch = none → m.phase = .dispatched → queuedTest (qkey c q) u.w s = false →
           v = { u with heldSince := s.now, timeouts := satInc 32 u.timeouts }) ∧
         (m.latch = none → m.phase = .dispatched → queuedTest (qkey c q) u.w s = true →
           v.cmd u.w = some { m with latch := some ⟨.timeout, u.rcd.timeoutMs⟩ }) ∧
         (m.latch = none → m.phase ≠ .dispatched →
           v.cmd u.w = some { m with latch := some ⟨.timeout, u.rcd.timeoutMs⟩, waits := [] })) ∧
       (u.cmd u.w = none → ∃ f ∈ v.fetched, f.pos = u.w ∧ f.latch.isSome = true) ∧
       OnlyIn (touches (.queueTimeout c q)) s t)

/-- A doorbell write that the queue accepts (R73, R75, R77, R81). With V the producer value and C the low half of W: a V
equal to D's low half changes nothing, a V more than S beyond C is dropped and counted, any other moves D on by the
difference, empties the push window, takes complete push slots for its first positions, and wakes an IDLE queue to FETCHING; W
never moves. The Detail consumer value is taken unless it lies more than the ring behind Pd. The 64-bit write does both, the
producer first.
PUSH_WRITE of a piece inside one slot of an accepting queue's window (R77): the piece's bytes are written there, the
other bytes of the slot and the other slots stay; nothing else changes.
BAR2 writes that are dropped (R28, R67, R73): each is counted in one place and moves nothing else. A write given by its bytes that
lies in the doorbells is the doorbell write of them, and a write given by its value that lies in the push windows is the push write of
it. -/
def Obligations.Bar2WritesAreTakenOrCounted : Prop :=
  (∀ (fn c q : Nat) (v : W64) (x : Context) (u : Queue) (s : State), barOpen s = true → tget s.contexts c = some x →
     x.rcd.fn = fn → q < x.rcd.queueCount → q < 256 → accepts c q s = true → s.queue c q = some u →
     let n := lag 32 (v.toNat % 2 ^ 32) u.d
     let beyond := 2 ^ u.rcd.ringLog2 < lag 32 (v.toNat % 2 ^ 32) u.w
     let late (k : Nat) := 2 ^ u.rcd.detailLog2 < lag 32 u.pd k
     (∃ t w, Machine.exec (.doorbellWrite fn (c * 0x20000 + q * 8) 4 v) s = .next t ∧ t.queue c q = some w ∧
       w.w = u.w ∧ w.cd = u.cd ∧ (n = 0 → w = u) ∧
       (n ≠ 0 → beyond → w = { u with badDoorbell := satInc 32 u.badDoorbell }) ∧
       (n ≠ 0 → ¬beyond → w.d = u.d + n ∧ w.push = List.replicate 4 [] ∧
         w.state = (if u.state = .idle then .fetching else u.state) ∧ (∀ e ∈ u.fetched, e ∈ w.fetched) ∧
         (∀ e ∈ w.fetched, e ∈ u.fetched ∨ e ∈ takenSlots u u.d n)) ∧
       OtherQueuesSame (qkey c q) s t ∧ OnlyIn [.front, .chest, .jnl] s t) ∧
     (∃ t w, Machine.exec (.doorbellWrite fn (c * 0x20000 + q * 8 + 4) 4 v) s = .next t ∧ t.queue c q = some w ∧
       (late (v.toNat % 2 ^ 32) → w = { u with badDetail := satInc 32 u.badDetail }) ∧
       (¬late (v.toNat % 2 ^ 32) → w = { u with cd := v.toNat % 2 ^ 32 }) ∧
       OtherQueuesSame (qkey c q) s t ∧ OnlyIn [.front, .chest, .jnl] s t) ∧
     (∃ t w, Machine.exec (.doorbellWrite fn (c * 0x20000 + q * 8) 8 v) s = .next t ∧ t.queue c q = some w ∧
       w.w = u.w ∧ w.d = (if n ≠ 0 ∧ ¬beyond then u.d + n else u.d) ∧
       w.cd = (if late (v.toNat / 2 ^ 32) then u.cd else v.toNat / 2 ^ 32) ∧
       OtherQueuesSame (qkey c q) s t ∧ OnlyIn [.front, .chest, .jnl] s t)) ∧
  (∀ (fn c q k j : Nat) (bytes : List Byte) (x : Context) (u : Queue) (s : State), barOpen s = true →
     tget s.contexts c = some x → x.rcd.fn = fn → q < x.rcd.queueCount → q < 256 → accepts c q s = true →
     s.queue c q = some u → u.push.length = 4 → (∀ sl ∈ u.push, sl.length ≤ 64) → k < 4 → bytes ≠ [] →
     j + bytes.length ≤ 64 →
     ∃ t w, Machine.exec (.pushWrite fn (c * 0x20000 + 0x10000 + q * 256 + 64 * k + j) bytes) s = .next t ∧
       t.queue c q = some w ∧ w = { u with push := w.push } ∧ w.push.length = 4 ∧
       (∀ k', k' ≠ k → w.push[k']? = u.push[k']?) ∧
       (∀ i, i < 64 → ((w.push[k]?).bind (·[i]?)).join =
         if j ≤ i ∧ i < j + bytes.length then bytes[i - j]? else ((u.push[k]?).bind (·[i]?)).join) ∧
       OtherQueuesSame (qkey c q) s t ∧ OnlyIn [.front] s t) ∧
  (∀ (fn c o size : Nat) (v : W64) (bytes : List Byte) (s : State), o < 0x20000 →
     (o < 0x800 → Machine.exec (.pushWrite fn (c * 0x20000 + o) bytes) s =
       Machine.exec (.doorbellWrite fn (c * 0x20000 + o) bytes.length (BitVec.ofNat 64 (leNat bytes))) s) ∧
     (0x10000 ≤ o → Machine.exec (.doorbellWrite fn (c * 0x20000 + o) size v) s =
       Machine.exec (.pushWrite fn (c * 0x20000 + o) (le size v.toNat)) s) ∧
     (barOpen s = false →
       Machine.exec (.doorbellWrite fn (c * 0x20000 + o) size v) s = .next s ∧
       Machine.exec (.pushWrite fn (c * 0x20000 + o) bytes) s = .next s) ∧
     (∀ x, barOpen s = true → tget s.contexts c = some x →
       (x.rcd.fn ≠ fn →
         Machine.exec (.doorbellWrite fn (c * 0x20000 + o) size v) s = .next (countCtxDrop c true s) ∧
         Machine.exec (.pushWrite fn (c * 0x20000 + o) bytes) s = .next (countCtxDrop c true s)) ∧
       (x.rcd.fn = fn → 0x800 ≤ o → o < 0x10000 →
         Machine.exec (.doorbellWrite fn (c * 0x20000 + o) size v) s = .next (countCtxDrop c false s)) ∧
       (x.rcd.fn = fn → 0x800 ≤ o → o < 0x10000 →
         Machine.exec (.pushWrite fn (c * 0x20000 + o) bytes) s = .next (countCtxDrop c false s)) ∧
       (x.rcd.fn = fn → o < 0x800 → x.rcd.queueCount ≤ o / 8 →
         Machine.exec (.doorbellWrite fn (c * 0x20000 + o) size v) s = .next (countCtxDrop c false s)) ∧
       (x.rcd.fn = fn → 0x10000 ≤ o → x.rcd.queueCount ≤ (o - 0x10000) / 256 →
         Machine.exec (.pushWrite fn (c * 0x20000 + o) bytes) s = .next (countCtxDrop c false s)) ∧
       (x.rcd.fn = fn → o < 0x800 → o / 8 < x.rcd.queueCount →
         (¬((size = 8 ∧ o % 8 = 0) ∨ (size = 4 ∧ o % 4 = 0)) →
           Machine.exec (.doorbellWrite fn (c * 0x20000 + o) size v) s =
             .next (modQueue c (o / 8) (fun a => { a with badSize := satInc 32 a.badSize }) s)) ∧
         (((size = 8 ∧ o % 8 = 0) ∨ (size = 4 ∧ o % 4 = 0)) → accepts c (o / 8) s = false →
           Machine.exec (.doorbellWrite fn (c * 0x20000 + o) size v) s =
             .next (modQueue c (o / 8) (fun a => { a with dropped := satInc 32 a.dropped }) s))) ∧
       (x.rcd.fn = fn → 0x10000 ≤ o → (o - 0x10000) / 256 < x.rcd.queueCount →
         accepts c ((o - 0x10000) / 256) s = false →
         Machine.exec (.pushWrite fn (c * 0x20000 + o) bytes) s =
           .next (modQueue c ((o - 0x10000) / 256) (fun a => { a with dropped := satInc 32 a.dropped }) s))))

/-- The fetcher (R28, R66, R79, R81, R308). FETCH_ISSUE, where R79 and Chest let it, takes a cell for each of the n entries from
F on, all below D, and reads their ring slots with the context's function, PASID and key; without the cells it reads nothing, and
its requests for them wait. That host memory then holds the bytes a return brings is the model's reading (log 32). FETCH_RETURN puts the bytes of the oldest read's ring slots in their places, those apart that have been handed over or have their
entry; a failed one costs the context with ST_ACCESS and the failing address. FETCHER_GO_IDLE takes FETCHING with F = D to
IDLE_ARMED, whose closing re-read finds IDLE or FETCHING.
ARBITER_GRANT (R82, R83, R303): the context next in round robin after the last granted one among those that have an
eligible queue (of a sealed tenant in its slot, R295, else of unsealed tenants) hands over up to burst entries of the
queue that weighted round robin finds, as many as find a cell of the ISSUE class, for one credit; where no eligible queue has
credit every queue's credit becomes its weight first. The start of each round robin, and that a sealed tenant's slot keeps one of its
own, is the model's choice (log 6). -/
def Obligations.EntriesAreFetchedAndGranted : Prop :=
  ((∀ (c q n : Nat) (x : Context) (u : Queue) (s : State), s.queue c q = some u → tget s.contexts c = some x →
     mayFetch c q n s = true →
     ((takeFetch (qkey c q) (some x.rcd.tenant) u.f n s).1 = false →
       ∃ t, Machine.exec (.fetchIssue c q n) s = .next t ∧ t = (takeFetch (qkey c q) (some x.rcd.tenant) u.f n s).2 ∧
         (∃ w ∈ t.chest.waiting, w.cls = 0 ∧ w.queue = qkey c q) ∧ OnlyIn [.chest, .jnl] s t) ∧
     ((takeFetch (qkey c q) (some x.rcd.tenant) u.f n s).1 = true →
       ∃ t w, Machine.exec (.fetchIssue c q n) s = .next t ∧ t.queue c q = some w ∧ w.inflight = u.inflight ++ [(u.f, n)] ∧
         u.f + n ≤ w.f ∧ u.f + n ≤ u.d ∧ w.d = u.d ∧ w.w = u.w ∧ OtherQueuesSame (qkey c q) s t ∧
         (let slots := ctxLoc x.rcd (u.rcd.ringBase + (u.f % 2 ^ u.rcd.ringLog2) * 64)
          t.port.out = s.port.out ++ (if hostStopped slots s then [] else readReqs (some x.rcd.tenant) .hub slots (64 * n))) ∧
         OnlyIn [.port, .front, .chest, .watch, .jnl] s t)) ∧
   (∀ (c q p n : Nat) (rest : List (Nat × Nat)) (b : List Byte) (x : Context) (u : Queue) (s : State), s.MemOk →
     s.queue c q = some u → tget s.contexts c = some x → u.inflight = (p, n) :: rest →
     let slots := ctxLoc x.rcd (u.rcd.ringBase + (p % 2 ^ u.rcd.ringLog2) * 64)
     let got := padTo (64 * n) (b.take (64 * n))
     ∃ t w, Machine.exec (.fetchReturn c q (.ok b)) s = .next t ∧ t.queue c q = some w ∧ w.inflight = rest ∧
       w.d = u.d ∧ w.f = u.f ∧ w.w = u.w ∧
       (∀ i, i < n → u.w + u.cmds.length ≤ p + i → (∀ f ∈ u.fetched, f.pos ≠ p + i) →
         ⟨p + i, slice got (64 * i) 64, none, true⟩ ∈ w.fetched) ∧
       (∀ f ∈ u.fetched, f ∈ w.fetched) ∧ (∀ f ∈ w.fetched, f ∈ u.fetched ∨ u.w + u.cmds.length ≤ f.pos) ∧
       memRead slots (64 * n) t = got ∧ UnchangedOutside slots (64 * n) s t ∧ OtherQueuesSame (qkey c q) s t ∧
       OnlyIn [.mem, .hub, .front, .chest, .jnl] s t) ∧
   (∀ (c q p n : Nat) (rest : List (Nat × Nat)) (rd : HostRead) (x : Context) (u : Queue) (s : State),
     s.queue c q = some u → u.inflight = (p, n) :: rest → (rd = .error ∨ rd = .poison) → tget s.contexts c = some x →
     x.state = .active →
     ∃ t, Machine.exec (.fetchReturn c q rd) s = .next t ∧
       FaultTeardownBegun c s t (fun i => i.status = .access ∧ i.queue = q ∧
         i.address = (u.rcd.ringBase + (p % 2 ^ u.rcd.ringLog2) * 64) % 2 ^ 64)) ∧
   (∀ (c q : Nat) (u : Queue) (s : State), s.queue c q = some u →
     (u.state = .fetching → u.f = u.d → ∃ t, Machine.exec (.fetcherGoIdle c q) s = .next t ∧
       t.queue c q = some { u with state := .idleArmed } ∧ OtherQueuesSame (qkey c q) s t ∧ OnlyIn [.front] s t) ∧
     (u.state = .idleArmed → ∃ t, Machine.exec (.fetcherGoIdle c q) s = .next t ∧
       t.queue c q = some { u with state := if u.f = u.d then .idle else .fetching } ∧
       OtherQueuesSame (qkey c q) s t ∧ OnlyIn [.front] s t))) ∧
  (∀ (slot : Option Nat) (c q n : Nat) (u : Queue) (s : State),
     let mine (k : Nat) : Bool := match slot with
       | some tn => (s.tenantOf k == some tn) && isSealedT s (some tn)
       | none => !isSealedT s (s.tenantOf k)
     let last := match slot with | some tn => tgetD s.front.last (16384 + tn) 16383 | none => s.front.lastCtx
     let order := (s.contexts.map (·.1)).filter (fun k => mine k && ctxEligible k s)
     let reloaded := s.modQueues (fun l => tmapv l (fun k x => if k / 256 = c then { x with credit := x.rcd.weight } else x))
     let moved (w : State) := (moveEntries (qkey c q) (w.tenantOf c) ((handable u.fetched u.nextHand).take u.rcd.burst) w).1
     classCongested 1 s = false → (order.filter (fun k => decide (last < k)) ++ order).head? = some c → c < 16384 → 0 < n →
     (wrrPick c s = some q → s.queue c q = some u → moved s = n →
       ∃ t, Machine.exec (.arbiterGrant slot) s = .next t ∧ t.queue c q = some (u.handOver n) ∧ n ≤ u.rcd.burst ∧
         (u.handOver n).cmds = u.cmds ++ ((handable u.fetched u.nextHand).take n).map Cmd.fresh ∧
         (u.handOver n).credit = u.credit - 1 ∧ tget t.front.last c = some q ∧
         (slot = none → t.front.lastCtx = c) ∧ OtherQueuesSame (qkey c q) s t ∧ OnlyIn [.front, .chest, .jnl] s t) ∧
     (wrrPick c s = none → wrrPick c reloaded = some q → reloaded.queue c q = some u → moved reloaded = n →
       ∃ t, Machine.exec (.arbiterGrant slot) s = .next t ∧ t.queue c q = some (u.handOver n) ∧ n ≤ u.rcd.burst ∧
         (∀ q' w, q' < 256 → q' ≠ q → t.queue c q' = some w → w.credit = w.rcd.weight) ∧ tget t.front.last c = some q ∧
         OnlyIn [.front, .chest, .jnl] s t))

/-- COMMAND_RETIRE (R85, R86, R94): the oldest unretired command retires once its latch is taken and it has finished
acting, and that of a replay once the replay has ended (R397): W is one more, its report waits with the latch's status and aux, it is gone from the queue. A position whose entry
was not handed over retires with the latch it has taken, and a position of a SHUTTING queue that was never fetched retires
unread. A SHUTTING queue keeps its state although its W may be D now: it stops once its reports are out (the model's reading, log 95).
Other queues keep their indices.
What a retirement does to memory (R85, R119 to R121), for a command with at most one signal that pins and binds nothing and has no
result writes (those of other commands are not said here), with no model in the directory and no residency of its own: with a status other than ST_OK no byte changes; with
ST_OK its one signal raises the fence to the value where that is ahead of the fence's, and changes no other byte; for a fence in
host memory the write-through is then outstanding. -/
def Obligations.CommandsRetireAndSignal : Prop :=
  (∀ (c q : Nat) (u : Queue) (s : State), s.queue c q = some u → u.state ≠ .stopped → u.w < u.d →
     (∀ m l, u.cmd u.w = some m → m.latch = some l → (m.stopping = true ∨ replayOpen (qkey c q) u.w s = true) →
       Machine.exec (.commandRetire c q) s = .next s) ∧
     (∀ m l, u.cmd u.w = some m → m.latch = some l → m.stopping = false → replayOpen (qkey c q) u.w s = false → m.pos = u.w →
       ∃ t v, Machine.exec (.commandRetire c q) s = .next t ∧ t.queue c q = some v ∧ v.w = u.w + 1 ∧ v.d = u.d ∧
         v.f = u.f ∧ v.progress = (u.progress + 1) % 2 ^ 32 ∧ v.cmd u.w = none ∧
         v.unwritten = u.unwritten ++ [{ pos := u.w, opcode := if m.entry.isEmpty then 0xFF else eOp m.entry,
                                         tag := if m.entry.isEmpty then 0 else eTag m.entry, unread := m.entry.isEmpty,
                                         status := l.status, aux := l.aux, time := s.now, lost := false }] ∧
         v.state = u.state ∧
         (∀ k w, k ≠ qkey c q → tget s.front.queues k = some w →
           ∃ w', tget t.front.queues k = some w' ∧ w'.state = w.state ∧ w'.d = w.d ∧ w'.f = w.f ∧ w'.w = w.w) ∧
         OnlyIn (touches (.commandRetire c q)) s t) ∧
     (∀ f l, u.cmd u.w = none → u.fetched.find? (fun g => g.pos == u.w && g.latch.isSome) = some f → f.latch = some l →
       ∃ t v, Machine.exec (.commandRetire c q) s = .next t ∧ t.queue c q = some v ∧ v.w = u.w + 1 ∧ v.d = u.d ∧
         v.fetched = u.fetched.filter (fun g => g.pos != u.w) ∧
         v.unwritten = u.unwritten ++ [{ pos := u.w, opcode := if f.entry.isEmpty then 0xFF else eOp f.entry,
                                         tag := if f.entry.isEmpty then 0 else eTag f.entry, unread := f.entry.isEmpty,
                                         status := l.status, aux := l.aux, time := s.now, lost := false }]) ∧
     (u.cmd u.w = none → (∀ f ∈ u.fetched, f.pos ≠ u.w) → u.state = .shutting →
       ∃ t v, Machine.exec (.commandRetire c q) s = .next t ∧ t.queue c q = some v ∧ v.w = u.w + 1 ∧ v.d = u.d ∧
         v.unwritten = u.unwritten ++ [{ pos := u.w, opcode := 0xFF, tag := 0, unread := true, status := u.shutLatch.status,
                                         aux := u.shutLatch.aux, time := s.now, lost := false }])) ∧
  (∀ (c q : Nat) (u : Queue) (m : Cmd) (l : Latch) (s : State), s.MemOk → s.queue c q = some u → u.state ≠ .stopped →
     u.w < u.d → u.cmd u.w = some m → m.latch = some l → m.stopping = false → replayOpen (qkey c q) u.w s = false →
     m.pins = [] → m.results = [] →
     m.bound = none → s.wrd.models = [] → (∀ e ∈ s.sched.residencies, e.2.cmd ≠ some (qkey c q, m.pos)) →
     ∃ t, Machine.exec (.commandRetire c q) s = .next t ∧
       (l.status ≠ .ok → t.mem = s.mem) ∧
       (∀ r, l.status = .ok → m.signals = [r] →
         (signalEffect r.compact (s.fenceValue r.loc r.compact) r.value ≠ .rise → t.mem = s.mem) ∧
         (signalEffect r.compact (s.fenceValue r.loc r.compact) r.value = .rise →
           (r.loc.space = .host → hostDropped r.loc s = false → t.bramble.through = s.bramble.through ++
             [(qkey c q, u.w, if m.entry.isEmpty then 0 else eTag m.entry)]) ∧
           ((r.loc.space ≠ .host ∨ hostDropped r.loc s = false) →
           memRead r.loc (fenceBytes r.compact) t = le (fenceBytes r.compact) r.value ∧
           UnchangedOutside r.loc (fenceBytes r.compact) s t))))

/-- COMPLETION_WORD_WRITE and MSIX_MODERATION_TIMEOUT (R86, R87, R91): the Completion Word holds W and no retirement
waits for its report; without a Detail Ring no other byte changes; a message goes out, and the count of unreported
retirements is zero, exactly when mod_count is reached or a message is due at once, or, after mod_delay_us, by the
timeout. A SHUTTING queue whose W is D is then STOPPED, and its FRT_QCMD reports OK (R67, R94; that it stops here, after its reports,
is the model's reading, log 95). With nothing left to report the
message that a fault teardown owes goes out (R96). -/
def Obligations.CompletionReports : Prop :=
  (∀ (c q : Nat) (x : Context) (u : Queue) (s : State), s.MemOk → s.queue c q = some u → tget s.contexts c = some x →
    u.state ≠ .stopped → u.unwritten ≠ [] → hostDropped (ctxLoc x.rcd u.rcd.completionAddr) s = false → s.port.dropAll = false →
    s.port.dropHost = [] →
    ∃ t v, Machine.exec (.completionWordWrite c q) s = .next t ∧ t.queue c q = some v ∧ v.unwritten = [] ∧ v.w = u.w ∧
      memRead (ctxLoc x.rcd u.rcd.completionAddr) 8 t = le 8 u.w ∧
      (u.rcd.detailMode = 0 → UnchangedOutside (ctxLoc x.rcd u.rcd.completionAddr) 8 s t) ∧
      (u.rcd.msixEnable = true → (u.rcd.modCount ≤ u.unreported ∨ u.urgent = true) →
        v.unreported = 0 ∧ v.urgent = false ∧ t.port.out.getLast? = some (.msix x.rcd.fn u.rcd.msixVector)) ∧
      ((u.rcd.msixEnable = false ∨ (u.unreported < u.rcd.modCount ∧ u.urgent = false)) →
        v.unreported = u.unreported ∧ ∀ f n, t.port.out.getLast? ≠ some (.msix f n)) ∧
      v.state = (if u.state = .shutting ∧ u.w = u.d then .stopped else u.state) ∧
      (u.state = .shutting → u.w = u.d → s.front.qBusy = true → s.front.qBusyKey = qkey c q →
        t.front.qBusy = false ∧ t.front.qResult = 0) ∧
      OtherQueuesSame (qkey c q) s t ∧ OnlyIn [.port, .mem, .hub, .front, .chest, .watch, .jnl] s t) ∧
  (∀ (c q : Nat) (x : Context) (u : Queue) (s : State), s.queue c q = some u → tget s.contexts c = some x →
    u.state ≠ .stopped → u.unwritten = [] → u.rcd.msixEnable = true → u.urgent = true → s.port.dropAll = false →
    s.port.dropHost = [] →
    ∃ t v, Machine.exec (.completionWordWrite c q) s = .next t ∧ t.queue c q = some v ∧
      v = { u with unreported := 0, urgent := false, state := v.state } ∧
      t.port = { s.port with out := s.port.out ++ [.msix x.rcd.fn u.rcd.msixVector] } ∧
      OtherQueuesSame (qkey c q) s t ∧ OnlyIn [.port, .front] s t) ∧
  (∀ (c q : Nat) (x : Context) (u : Queue) (s : State), s.queue c q = some u → tget s.contexts c = some x →
    u.state ≠ .stopped → u.rcd.msixEnable = true → 0 < u.unreported → u.unwritten = [] →
    u.rcd.modDelayUs * Config.us ≤ s.now - u.firstUnreported → s.port.dropAll = false → s.port.dropHost = [] →
    ∃ t, Machine.exec (.msixModerationTimeout c q) s = .next t ∧
      t.queue c q = some { u with unreported := 0, urgent := false } ∧
      t.port = { s.port with out := s.port.out ++ [.msix x.rcd.fn u.rcd.msixVector] } ∧
      OtherQueuesSame (qkey c q) s t ∧ OnlyIn [.port, .front] s t)

/-- A 64-bit fence (R120). A signal above its value makes it that value, one equal to it changes nothing, one below it is
ignored and raises EV_FENCE_REGRESS with the address, both values and the tag (R123). A wait for v is met when the fence is
at least v; a wait for 0 always. -/
def Obligations.WideFencesOnlyRise : Prop :=
  (∀ (c v : Nat), waitMet false c v = decide (v ≤ c)) ∧ (∀ c : Nat, waitMet false c 0 = true) ∧
  (∀ (c tag : Nat) (r : FenceRef) (s : State), s.MemOk → r.compact = false → r.value < 2 ^ 64 →
    s.fenceValue r.loc false < 2 ^ 64 → (r.loc.space ≠ .host ∨ hostDropped r.loc s = false) →
    let cur := s.fenceValue r.loc false
    let t := signalFence c tag r s
    (cur < r.value → t.fenceValue r.loc false = r.value ∧ memRead r.loc 8 t = le 8 r.value ∧ UnchangedOutside r.loc 8 s t) ∧
    (r.value = cur → t = s) ∧
    (r.value < cur → t.fenceValue r.loc false = cur ∧
      t = raiseEvent (ctxEvent s evFenceRegress c tag [r.va, cur, r.value, 0]) s))

/-- A compact fence (R121), of 32 bits. A signal 1 to 2^31 - 1 ahead of its value modulo 2^32 makes it that value, one equal
to it changes nothing, any other is ignored and raises EV_FENCE_REGRESS with the address, both values and the tag (R123). A
wait for v is met when the fence lies less than 2^31 beyond v. -/
def Obligations.CompactFencesCompareSerially : Prop :=
  (∀ (c v : Nat), c < 2 ^ 32 → v < 2 ^ 32 → waitMet true c v = decide ((c + 2 ^ 32 - v) % 2 ^ 32 < 2 ^ 31)) ∧
  (∀ (c tag : Nat) (r : FenceRef) (s : State), s.MemOk → r.compact = true → r.value < 2 ^ 32 →
    s.fenceValue r.loc true < 2 ^ 32 → (r.loc.space ≠ .host ∨ hostDropped r.loc s = false) →
    let cur := s.fenceValue r.loc true
    let d := (r.value + 2 ^ 32 - cur) % 2 ^ 32
    let t := signalFence c tag r s
    (1 ≤ d → d ≤ 2 ^ 31 - 1 → t.fenceValue r.loc true = r.value ∧ memRead r.loc 4 t = le 4 r.value ∧
      UnchangedOutside r.loc 4 s t) ∧
    (d = 0 → t = s) ∧
    (2 ^ 31 ≤ d → t.fenceValue r.loc true = cur ∧
      t = raiseEvent (ctxEvent s evFenceRegress c tag [r.va, cur, r.value, 0]) s))

/-- ENTRY_ACCEPT of the entry at the head of a queue's intake, nothing being held and the decoder's control word acting (R105,
R106, R108, R122, R126, R420, R421): an entry that passes R105 and fits the limits is accepted with its waits evaluated, its
pins, signals and fences kept and the next order of acceptance; one that does not fit is held; one that fails has its latch taken
with the status and aux of the check, a replay refused for its environment with its result word; one that needs a host read has it
issued with its cells allocated (R308), or is held for them; one that needs a verification waits for it; one that reads in a tier
is held until it has the cells. The first checks, of generation, opcode and fields, are made in that order. A control word that does
not act raises machine check 1 (R421). The model's choices: one control word for each ENTRY_ACCEPT, at upc (log 67); whether an
entry is held by its own context or for entries that all share (log 93); the cells of a read (log 29); the result word of a refused
replay (log 116).
ACCEPT_READ_RETURN (R108, R503) lays the bytes read where they lie in host memory (the command carries them: log 32) and goes on
with the acceptance; a read that fails takes the latch with ST_ACCESS and the field's aux and costs no context; the bytes of one
that comes when the latch has been taken do no more than that. COMMAND_DISPATCH (R128, R295, R445, R52, R61, R392, R483) takes the
ready command accepted first among those served in the same slots: refused from its shed level on with ST_SHED and the level, else,
with a cell of its executor's issue queue, dispatched at the present time, an OP_LAUNCH_GRAPH or a loop open bound to the graph's
current version, the slot of a barrier join ARMED, a query's snapshot taken, the values of the fences that an OP_LOOP_ADMIT waited
for kept; without a cell its request waits. -/
def Obligations.EntriesAreAccepted : Prop :=
  (∀ (c q pos a : Nat) (m : Cmd) (x : Context) (s : State), heldCmds s = [] → (s.queue c q).bind Queue.intakeHead = some m →
     s.cmd (qkey c q) pos = some m → m.phase = .intake → c < 16384 → q < 256 → tget s.contexts c = some x →
     (classCongested 2 s = false ∨ needsPayload m.entry = false) →
     let b := bump 2 { s with bramble := { s.bramble with upc := a } }
     let v : AccEnv := { s := b, c := c, q := q, x := x.rcd, e := m.entry, reads := m.reads, held := m.pins, pins := [],
                         args := [], waits := [], signals := [], fences := [] }
     let k := qkey c q
     (microFetch m.entry s = none → NoReset s → ∃ t, Machine.exec (.entryAccept c q) s = .next t ∧ MachineChecked 1 s t) ∧
     (microFetch m.entry s = some a → ∀ r w, (acceptA m.pos).run.run v = (r, w) →
       let fresh := w.reads.drop m.reads.length
       let made := (tierReads k pos fresh b).1
       let base := (tierReads k pos fresh b).2
       (made.length < fresh.length → ∃ t, Machine.exec (.entryAccept c q) s = .next t ∧
         (t.cmd k pos).map (fun y => (y.phase, y.reads)) = some (.held .cells, m.reads ++ made) ∧ t.objects = s.objects ∧
         OtherQueuesSame k s t) ∧
       (fresh.length ≤ made.length → r = .ok () →
         let now := { base with objects := w.s.objects }
         let refs := w.waits ++ w.signals ++ w.fences
         let ws := waitsNow w.waits now
         let unmet := ws.countP (fun y => !y.met)
         let own := fitsOwn w.c unmet w.pins now
         let shared := fitsShared unmet (newShadows refs now) now
         let cells := (askPayload k pos (shadowBytes refs now) now).1
         ∃ t, Machine.exec (.entryAccept c q) s = .next t ∧ t.bramble.nextOrder = s.bramble.nextOrder + 1 ∧
           t.bramble.upc = a ∧
           (own = true → shared = true → cells = true →
             t.cmd k pos = some { m with phase := .accepted, reads := w.reads, waits := ws, signals := w.signals,
                                         fences := w.fences, pins := m.pins ++ w.pins.filter (fun y => !m.pins.contains y),
                                         args := w.args, order := s.bramble.nextOrder, acceptedAt := s.now }) ∧
           (own = false → (t.cmd k pos).map (·.phase) = some (.held .own)) ∧
           (own = true → shared = false → (t.cmd k pos).map (·.phase) = some (.held .shared)) ∧
           (own = true → shared = true → cells = false → (t.cmd k pos).map (·.phase) = some (.held .cells)) ∧
           OtherQueuesSame k s t) ∧
       (∀ st aux, fresh.length ≤ made.length → r = .error (.refuse st aux) →
         ∃ t, Machine.exec (.entryAccept c q) s = .next t ∧
           (t.cmd k pos).map (fun y => (y.latch, y.waits)) = some (some ⟨st, aux⟩, []) ∧
           (st ≠ .replayDiverge → (t.cmd k pos).map (·.results) = some m.results) ∧
           (∀ o, st = .replayDiverge → memOfKey (objKey c (hIndex (fld m.entry 20 4))) w.s = some o →
             (t.cmd k pos).map (·.results) = some (m.results ++ [⟨o.at_ (fld m.entry 40 8), replayWord 1 0⟩])) ∧
           t.objects = s.objects ∧ OtherQueuesSame k s t) ∧
       (∀ l n aux, fresh.length ≤ made.length → r = .error (.read l n aux) →
         let cells := (askPayload k pos n base).1
         ∃ t, Machine.exec (.entryAccept c q) s = .next t ∧ t.objects = s.objects ∧ OtherQueuesSame k s t ∧
           (readsOut base < 1024 → cells = true →
             t.cmd k pos = some { m with phase := .reading l n aux, reads := w.reads } ∧
             t.port = (readReq (some x.rcd.tenant) .hub l n base).port) ∧
           ((1024 ≤ readsOut base ∨ cells = false) → (t.cmd k pos).map (·.phase) = some (.held .cells))) ∧
       (∀ g aux, fresh.length ≤ made.length → r = .error (.verify g aux) →
         let cells := (askPayload k pos (imageLength (tget w.s.objects g)) base).1
         ∃ t, Machine.exec (.entryAccept c q) s = .next t ∧ OtherQueuesSame k s t ∧
           (cells = true → s.pinnedObjects + 2 ≤ Config.maxPins → (t.cmd k pos).map (·.phase) = some (.verifying g aux)) ∧
           (cells = false → (t.cmd k pos).map (·.phase) = some (.held .cells)))) ∧
     (eGen m.entry ≠ 1 → eGen m.entry ≠ 2 →
       (acceptA m.pos).run.run v = (.error (.refuse .malformed 0), v)) ∧
     ((eGen m.entry = 1 ∨ eGen m.entry = 2) → opAllowed (eGen m.entry) (eOp m.entry) b = false →
       (acceptA m.pos).run.run v = (.error (.refuse .unsupported (eGen m.entry * 256 + eOp m.entry)), v)) ∧
     (∀ k, (eGen m.entry = 1 ∨ eGen m.entry = 2) → opAllowed (eGen m.entry) (eOp m.entry) b = true →
       entryBadField s.integ.slices m.entry = some k →
       (acceptA m.pos).run.run v = (.error (.refuse .malformed k), v))) ∧
  ((∀ (c q pos : Nat) (m : Cmd) (l : Loc) (n aux : Nat) (s : State), (s.queue c q).bind Queue.reader = some m →
     s.cmd (qkey c q) pos = some m → m.phase = .reading l n aux →
     (∀ b, ∃ t, Machine.exec (.acceptReadReturn c q (.ok b)) s = .next t ∧
       t.mem = s.mem.write l (padTo n (b.take n)) ∧ UnchangedOutside l n s t ∧
       (heldCmds s = [] → OtherQueuesSame (qkey c q) s t) ∧
       (m.latch.isSome = true → t.cmd (qkey c q) pos = some { m with phase := .intake } ∧ OnlyIn [.mem, .hub, .front] s t)) ∧
     (∀ rd, rd = .error ∨ rd = .poison → m.latch = none →
       ∃ t, Machine.exec (.acceptReadReturn c q rd) s = .next t ∧
         t.cmd (qkey c q) pos = some { m with phase := .intake, latch := some ⟨.access, aux⟩, waits := [] } ∧
         OtherQueuesSame (qkey c q) s t ∧ OnlyIn [.front, .chest, .jnl] s t)) ∧
   (∀ (c q pos : Nat) (m : Cmd) (s : State), s.cmd (qkey c q) pos = some m → isReady (qkey c q) m s = true →
     (∀ e ∈ s.allCmds, sealedOf (e.1 / 256) s = sealedOf c s → isReady e.1 e.2 s = true → m.order ≤ e.2.order) →
     let k := qkey c q
     let level := refusedFrom (eOp m.entry) (ctxCls s c == .rt) (pinsEvicted c m.entry s)
     let cell := askCells (itemReq 1 (engineQueue (opEngine (eOp m.entry))) (s.tenantOf c) (engineItem k pos) 1 (some m.entry)) s
     (level ≤ s.power.level →
       ∃ t, Machine.exec (.commandDispatch c q pos) s = .next t ∧
         t.cmd k pos = some { m with latch := some ⟨.shed, s.power.level⟩, waits := [] } ∧
         OtherQueuesSame k s t ∧ OnlyIn [.front, .bramble, .chest, .jnl] s t) ∧
     (s.power.level < level → cell.1 = false → Machine.exec (.commandDispatch c q pos) s = .next cell.2 ∧ OnlyIn [.chest] s cell.2) ∧
     (s.power.level < level → cell.1 = true →
       ∃ t, Machine.exec (.commandDispatch c q pos) s = .next t ∧
         (∃ d sn, t.cmd k pos = some { m with phase := .dispatched, running := true, dispatchedAt := s.now, bound := d,
                                              snapshot := sn } ∧
           (eOp m.entry ≠ 5 → eOp m.entry ≠ 8 → eOp m.entry ≠ 0x17 → d = m.bound) ∧
           (∀ g, eOp m.entry = 5 → tget s.graphs (objKey c (hIndex (fld m.entry 16 4))) = some g →
             d = some (objKey c (hIndex (fld m.entry 16 4)), g.current)) ∧
           (∀ g, (eOp m.entry = 8 ∨ eOp m.entry = 0x17) → tget s.graphs (recordGraph k (openParams k m s)) = some g →
             d = some (recordGraph k (openParams k m s), g.current)) ∧
           (eOp m.entry ≠ 0x12 → eOp m.entry ≠ 9 → sn = m.snapshot) ∧
           (eOp m.entry = 9 → sn = m.waits.map (fun w => s.fenceValue w.ref.loc w.ref.compact)) ∧
           (eOp m.entry = 0x12 → sn = queryWords c m.entry s ∧ sn.length = 8)) ∧
         (eOp m.entry = 0x11 → tget t.link.joins (fld m.entry 16 2) =
           some { ctx := c, queue := q, pos := pos, epoch := fld m.entry 20 4, participants := fld m.entry 24 4,
                  timeoutUs := fld m.entry 28 4, deadline := s.now + fld m.entry 28 4 * Config.us }) ∧
         (eOp m.entry ≠ 0x11 → t.link = s.link) ∧
         OtherQueuesSame k s t ∧ OnlyIn [.graphs, .front, .chest, .jnl, .link] s t)))

/-- The commands that Bramble ends itself (R111, R61), once begun on: OP_NOP, OP_FENCE_WAIT and OP_FENCE_SIGNAL finish
with ST_OK; OP_TIMESTAMP has the time of its dispatch as its result word, OP_QUERY the eight words taken at its dispatch, to be
written before it retires. Nothing else changes but the cell of its issue queue, which is read, and free once it is the oldest
(R312).
OP_OBJ_FREE (R56): of an object that is FREE_PENDING or not cached ST_STALE_HANDLE (with aux 16, which R56 does not give: log
38); else it finishes with ST_OK, and an object that stays is FREE_PENDING; with no model in the directory, an object with no other
pin or reference is released: its cached copy goes, state 0x00 is written to its entry where it names no release fence, and a graph
frees its versions; one with others keeps them and the release fence. OP_BARRIER_JOIN (R483), whose slot its dispatch ARMED, sends
ARRIVE with the join's epoch and participants and waits. -/
def Obligations.BrambleFinishesCommands : Prop :=
  (∀ (c q pos : Nat) (m : Cmd) (s : State),
     let k := qkey c q
     let done : Cmd := { m with started := true, latch := some ⟨.ok, 0⟩, running := false, stopping := false }
     (starting k pos 0x00 s = some m → ∃ t, Machine.exec (.opNop c q pos) s = .next t ∧ t.cmd k pos = some done ∧
       (∀ k' p', (k', p') ≠ (k, pos) → t.cmd k' p' = s.cmd k' p') ∧ OnlyIn [.front, .chest, .jnl] s t) ∧
     (starting k pos 0x01 s = some m → ∃ t, Machine.exec (.opFenceWait c q pos) s = .next t ∧ t.cmd k pos = some done ∧
       (∀ k' p', (k', p') ≠ (k, pos) → t.cmd k' p' = s.cmd k' p') ∧ OnlyIn [.front, .chest, .jnl] s t) ∧
     (starting k pos 0x02 s = some m → ∃ t, Machine.exec (.opFenceSignal c q pos) s = .next t ∧ t.cmd k pos = some done ∧
       (∀ k' p', (k', p') ≠ (k, pos) → t.cmd k' p' = s.cmd k' p') ∧ OnlyIn [.front, .chest, .jnl] s t) ∧
     (∀ l, starting k pos 0x15 s = some m → operandLoc k m 16 24 s = some l →
       ∃ t, Machine.exec (.opTimestamp c q pos) s = .next t ∧
         t.cmd k pos = some { done with results := m.results ++ [⟨l, le 8 m.dispatchedAt⟩] } ∧
         (∀ k' p', (k', p') ≠ (k, pos) → t.cmd k' p' = s.cmd k' p') ∧ OnlyIn [.front, .chest, .jnl] s t) ∧
     (∀ l, starting k pos 0x12 s = some m → operandLoc k m 24 32 s = some l →
       ∃ t, Machine.exec (.opQuery c q pos) s = .next t ∧
         t.cmd k pos = some { done with results := m.results ++ [⟨l, wordBytes m.snapshot⟩] } ∧
         (∀ k' p', (k', p') ≠ (k, pos) → t.cmd k' p' = s.cmd k' p') ∧ OnlyIn [.front, .chest, .jnl] s t)) ∧
  ((∀ (c q pos : Nat) (m : Cmd) (s : State), starting (qkey c q) pos 0x10 s = some m →
     let key := objKey c (hIndex (fld m.entry 16 4))
     ((tget s.objects key = none ∨ ∃ o, tget s.objects key = some o ∧ o.freePending = true) →
       ∃ t, Machine.exec (.opObjFree c q pos) s = .next t ∧ t.objects = s.objects ∧
         (t.cmd (qkey c q) pos).map (·.latch) = some (some ⟨.stale, 16⟩) ∧ OnlyIn [.front, .chest, .jnl] s t) ∧
     (∀ o, tget s.objects key = some o → o.freePending = false →
       ∃ t, Machine.exec (.opObjFree c q pos) s = .next t ∧
         (t.cmd (qkey c q) pos).map (·.latch) = some (some ⟨.ok, 0⟩) ∧
         (∀ o', tget t.objects key = some o' → o'.freePending = true) ∧
         (s.wrd.models = [] →
           (o.pins ≤ 1 → o.refs = 0 → tget t.objects key = none ∧ tget t.graphs key = none ∧
             (∀ x, tget s.graphs key = none → tget s.contexts c = some x → fld m.entry 20 4 = 0 →
               hostDropped ((entryLoc x.rcd (key % 2 ^ 20)).plus 2) s = false →
               t.mem = s.mem.write ((entryLoc x.rcd (key % 2 ^ 20)).plus 2) [0])) ∧
           (¬(o.pins ≤ 1 ∧ o.refs = 0) →
             tget t.objects key = some { o with freePending := true, release := releaseFence (qkey c q) m (begun (qkey c q) pos s),
                                                freer := c, freerTag := eTag m.entry, freerAt := (qkey c q, pos), pins := o.pins - 1 } ∧
             t.graphs = s.graphs) ∧
           (tget s.graphs key = none → ∀ key', key' ≠ key → tget t.objects key' = tget s.objects key') ∧
           (∀ g, g ≠ key → tget t.graphs g = tget s.graphs g)))) ∧
   (∀ (c q pos : Nat) (m : Cmd) (j : Join) (s : State), starting (qkey c q) pos 0x11 s = some m →
     let slot := fld m.entry 16 2
     tget s.link.joins slot = some j → j.ctx = c → j.queue = q → j.pos = pos →
     ∃ t, Machine.exec (.opBarrierJoin c q pos) s = .next t ∧
       t.port = { s.port with out := s.port.out ++ [.arrive s.port.straps.2.2.2 slot j.epoch j.participants
         s.port.straps.1 s.port.straps.2.1 s.port.straps.2.2.1] } ∧
       t.cmd (qkey c q) pos = some { m with started := true } ∧ OnlyIn [.port, .front, .chest, .jnl] s t))

/-- OP_ABORT (R97, R98): ST_MALFORMED with aux 16 for a queue at or above queue_count or never enabled since the activation, with
aux 24 for the command itself and a target at or above D (and for sequence number 0, which no position has: log 45); otherwise it
finishes with ST_OK and its answer is written at once: 1 (ABORT_DONE) with the target's latch taken with ST_ABORTED and aux 1 where
the latch was free, and 2 (ABORT_TOO_LATE), the target and every other command as it was, where it has retired or its latch was
taken (which the shutdown of a queue does for all its positions, R94). -/
def Obligations.AbortAnswers : Prop :=
  ∀ (c q pos : Nat) (m : Cmd) (l : Loc) (x : Context) (s : State), starting (qkey c q) pos 0x16 s = some m → q < 256 →
    tget s.contexts c = some x → operandLoc (qkey c q) m 32 40 s = some l →
    let tq := fld m.entry 16 1
    let seq := fld m.entry 24 8
    let answered (v : Nat) (t : State) : Prop :=
      (t.cmd (qkey c q) pos).map (fun y => (y.latch, y.results)) = some (some ⟨.ok, 0⟩, m.results) ∧
      t.mem = (if l.space = .host ∧ hostDropped l s = true then s.mem else s.mem.write l (le 8 v))
    let refused (aux : Nat) : Prop := ∃ t, Machine.exec (.opAbort c q pos) s = .next t ∧
      (t.cmd (qkey c q) pos).map (fun y => (y.latch, y.results)) = some (some ⟨.malformed, aux⟩, m.results) ∧
      (∀ k' p', (k', p') ≠ (qkey c q, pos) → t.cmd k' p' = s.cmd k' p') ∧ OnlyIn [.front, .chest, .jnl] s t
    (x.rcd.queueCount ≤ tq → refused 16) ∧
    (∀ u, s.queue c tq = some u → tq < x.rcd.queueCount → u.everEnabled = false → refused 16) ∧
    (s.queue c tq = none → tq < x.rcd.queueCount → refused 16) ∧
    (∀ u, s.queue c tq = some u → tq < x.rcd.queueCount → u.everEnabled = true →
      (tq = q → seq = pos + 1 → refused 24) ∧
      (u.d < seq → refused 24) ∧
      (seq = 0 → refused 24) ∧
      ((tq = q → seq ≠ pos + 1) → 1 ≤ seq → seq ≤ u.d → (seq ≤ u.w ∨ u.latchFree (seq - 1) = false) →
        ∃ t, Machine.exec (.opAbort c q pos) s = .next t ∧ answered 2 t ∧
          (∀ k' p', (k', p') ≠ (qkey c q, pos) → t.cmd k' p' = s.cmd k' p') ∧
          (∀ y, t.queue c tq = some y → y.fetched = u.fetched ∧ y.w = u.w ∧ y.f = u.f ∧ y.d = u.d ∧ y.state = u.state) ∧
          OnlyIn [.port, .mem, .hub, .front, .chest, .jnl] s t) ∧
      ((tq = q → seq ≠ pos + 1) → u.w < seq → seq ≤ u.d → u.latchFree (seq - 1) = true →
        ∃ t, Machine.exec (.opAbort c q pos) s = .next t ∧ answered 1 t ∧
          (∀ y, u.cmd (seq - 1) = some y → (t.cmd (qkey c tq) (seq - 1)).map (·.latch) = some (some ⟨.aborted, 1⟩)) ∧
          (u.cmd (seq - 1) = none → ∃ w, t.queue c tq = some w ∧ ∃ f ∈ w.fetched, f.pos = seq - 1 ∧ f.latch = some ⟨.aborted, 1⟩) ∧
          (∀ k, (tget t.contexts k).map (fun y => (y.rcd, y.state, y.cause)) =
            (tget s.contexts k).map (fun y => (y.rcd, y.state, y.cause))) ∧ OnlyIn (touches (.opAbort c q pos)) s t))

/-- Graphs (R51, R52, R60, R261, R446): OP_GRAPH_PATCH begins once it has cells for its image (R308), whose read is asked for; the
VERIFY_DONE of its image takes the latch with ST_ACCESS where the read failed, with the reason an image is refused for, with ST_BUSY
for a fifth version or past the last number, and otherwise makes the next version current; the VERIFY_DONE of a graph's own image
refuses the command, or makes version 1. OP_LAUNCH_GRAPH has begun and is a job of the scheduler or holds a residency; at S6 it
takes ST_SHED and the level. The cells of an image
that streams, and which check's code a refusal carries where two fail, are the model's reading (logs 29, 43). -/
def Obligations.GraphVersionsAndLaunch : Prop :=
  (∀ (c q pos : Nat) (m : Cmd) (s : State), starting (qkey c q) pos 0x06 s = some m →
    let asked := askPayload (qkey c q) pos (fld m.entry 32 8) s
    (asked.1 = true → ∃ t, Machine.exec (.opGraphPatch c q pos) s = .next t ∧
      t.cmd (qkey c q) pos = some { m with started := true } ∧
      (∀ im, memOfKey (objKey c (hIndex (fld m.entry 20 4))) s = some im → im.space = .host →
        t.port = (readReq (s.tenantOf c) .hub (im.at_ (fld m.entry 24 8)) (fld m.entry 32 8) s).port) ∧
      OnlyIn [.port, .front, .chest, .jnl] s t) ∧
    (asked.1 = false → Machine.exec (.opGraphPatch c q pos) s = .next asked.2 ∧ OnlyIn [.chest] s asked.2)) ∧
  (∀ (c q pos : Nat) (m : Cmd) (im : MemObj) (rd : HostRead) (s : State),
    s.cmd (qkey c q) pos = some m → m.phase = .dispatched → m.running = true → m.started = true → m.latch = none →
    eOp m.entry = 6 → memOfKey (objKey c (hIndex (fld m.entry 20 4))) s = some im →
    imageBytes im (fld m.entry 24 8) (fld m.entry 32 8) rd s = none →
    ∃ t, Machine.exec (.verifyDone c q pos rd) s = .next t ∧
      (t.cmd (qkey c q) pos).map (·.latch) = some (some ⟨.access, 20⟩) ∧ t.graphs = s.graphs) ∧
  (∀ (c q pos : Nat) (m : Cmd) (im : MemObj) (img : List Byte) (rd : HostRead) (s : State),
    s.cmd (qkey c q) pos = some m → m.phase = .dispatched → m.running = true → m.started = true → m.latch = none →
    eOp m.entry = 6 →
    let g := objKey c (hIndex (fld m.entry 16 4))
    memOfKey (objKey c (hIndex (fld m.entry 20 4))) s = some im →
    imageBytes im (fld m.entry 24 8) (fld m.entry 32 8) rd s = some img →
    let gv := tgetD s.graphs g { current := 0, versions := [] }
    let refused := imageRefusal img (chargeImage c im (fld m.entry 24 8) img.length s)
    (∀ r, refused = some r → ∃ t, Machine.exec (.verifyDone c q pos rd) s = .next t ∧
      (t.cmd (qkey c q) pos).map (·.latch) = some (some ⟨r.1, r.2⟩) ∧ t.graphs = s.graphs) ∧
    (refused = none → 4 ≤ gv.versions.length → ∃ t, Machine.exec (.verifyDone c q pos rd) s = .next t ∧
      (t.cmd (qkey c q) pos).map (·.latch) = some (some ⟨.busy, 1⟩) ∧ t.graphs = s.graphs) ∧
    (refused = none → gv.versions.length < 4 → 2 ^ 32 - 1 ≤ gv.current →
      ∃ t, Machine.exec (.verifyDone c q pos rd) s = .next t ∧
        (t.cmd (qkey c q) pos).map (·.latch) = some (some ⟨.busy, 2⟩) ∧ t.graphs = s.graphs) ∧
    (refused = none → gv.versions.length < 4 → gv.current < 2 ^ 32 - 1 →
      ∃ t, Machine.exec (.verifyDone c q pos rd) s = .next t ∧
        (t.cmd (qkey c q) pos).map (·.latch) = some (some ⟨.ok, 0⟩) ∧
        (tget t.graphs g).map (·.current) = some (gv.current + 1) ∧
        ((tget t.graphs g).bind (fun x => x.versions.getLast?)).map (fun w => (w.num, w.image)) =
          some (gv.current + 1, img) ∧
        (∀ g', g' ≠ g → tget t.graphs g' = tget s.graphs g'))) ∧
  (∀ (c q pos g aux : Nat) (m : Cmd) (b : Graph) (o : Obj) (im : MemObj) (rd : HostRead) (s : State),
    s.cmd (qkey c q) pos = some m → m.phase = .verifying g aux → m.latch = none → tget s.graphs g = none →
    tget s.objects g = some o → o.body = .graph b → memOfKey b.imageKey s = some im →
    (imageBytes im b.imageOffset b.imageLength rd s = none → ∃ t, Machine.exec (.verifyDone c q pos rd) s = .next t ∧
      (t.cmd (qkey c q) pos).map (·.latch) = some (some ⟨.access, aux⟩) ∧ t.graphs = s.graphs) ∧
    (∀ img, imageBytes im b.imageOffset b.imageLength rd s = some img →
      (∀ r, imageRefusal img (chargeImage c im b.imageOffset img.length s) = some r →
        ∃ t, Machine.exec (.verifyDone c q pos rd) s = .next t ∧
          (t.cmd (qkey c q) pos).map (·.latch) = some (some ⟨r.1, r.2⟩) ∧ t.graphs = s.graphs) ∧
      (imageRefusal img (chargeImage c im b.imageOffset img.length s) = none →
        ∃ t, Machine.exec (.verifyDone c q pos rd) s = .next t ∧
          tget t.graphs g = some { current := 1, versions := [⟨1, img, b.imageKey, 0⟩] }))) ∧
  (∀ (c q pos : Nat) (m : Cmd) (s : State), starting (qkey c q) pos 0x05 s = some m → 6 ≤ s.power.level →
    ∃ t, Machine.exec (.opLaunchGraph c q pos) s = .next t ∧
      (t.cmd (qkey c q) pos).map (·.latch) = some (some ⟨.shed, s.power.level⟩) ∧ OnlyIn [.front, .bramble, .chest, .jnl] s t) ∧
  (∀ (c q pos : Nat) (m : Cmd) (s : State), starting (qkey c q) pos 0x05 s = some m → s.power.level < 6 →
    (∀ e ∈ s.sched.jobs, e.1 < s.sched.nextJob) →
    ∃ t, Machine.exec (.opLaunchGraph c q pos) s = .next t ∧ (t.cmd (qkey c q) pos) = some { m with started := true } ∧
      ((∃ e ∈ t.sched.jobs, e.2.cmd = some (qkey c q, pos)) ∨ (∃ e ∈ t.sched.residencies, e.2.cmd = some (qkey c q, pos))) ∧
      OnlyIn (touches (.opLaunchGraph c q pos)) s t)

/-- DEADLOCK_SCAN (R131, R132, R135). Disabled it changes nothing. Enabled, it keeps the largest closed set for the next
scan and starts a new account of rises. Where the set is the one of the last scan, no fence its heads await has risen since, and a queue
lies on a cycle, the victim's head has its latch taken with ST_DEADLOCK and the size of the set, its context begins a
fault teardown and the verdict is counted; otherwise no context and no latch changes. The fences its heads await are those of the
waits still unmet at this scan, which is the model's choice (log 92). -/
def Obligations.DeadlockVerdicts : Prop :=
  ∀ (s : State),
    let st := stuckQueues s
    let k := closedSet st.length st
    let quiet : Prop := ∀ x ∈ k, ∀ w ∈ x.head.waits, w.met = false → s.bramble.rises.contains w.ref.loc = false
    (s.bramble.dlkEnable = false → Machine.exec .deadlockScan s = .next s) ∧
    (s.bramble.dlkEnable = true →
      ∃ t, Machine.exec .deadlockScan s = .next t ∧ t.bramble.prevSet = k.map (·.key) ∧ t.bramble.rises = [] ∧
        ((k = [] ∨ k.map (·.key) ≠ s.bramble.prevSet ∨ ¬quiet) → t.contexts = s.contexts ∧ t.front = s.front ∧
          t.bramble.dlkCnt = s.bramble.dlkCnt ∧ OnlyIn [.bramble] s t) ∧
        (∀ v x, k.map (·.key) = s.bramble.prevSet → quiet → victimOf k = some v →
          tget s.contexts (v.key / 256) = some x → x.state = .active → s.cmd v.key v.head.pos = some v.head →
          v.head.latch = none →
          (t.cmd v.key v.head.pos).map (·.latch) = some (some ⟨.deadlock, k.length⟩) ∧
          FaultTeardownBegun (v.key / 256) s t (fun i => i.status = .deadlock ∧ i.aux = k.length) ∧
          t.bramble.dlkCnt = satInc 32 s.bramble.dlkCnt ∧
          (∀ c, c ≠ v.key / 256 → (tget t.contexts c).map (·.state) = (tget s.contexts c).map (·.state))))

/-- OP_LOOP_OPEN (R197, R198, R58): a parameter record that is illegal, a model that is not loaded or a limit of R59 or R211
refuses it; otherwise the loop is OPEN under the lowest free loop_id with the parameters of its record, the version bound
at dispatch and step 0, its id is the result word, and every other loop is as before.
OP_REPLAY_OPEN (R394, R395, R396): it ends with the status of a refusal and kind 0 in the result word (the kind is the model's
choice, log 116), with ST_REPLAY_DIVERGE and kind 2 where the window's first six records are not the LOOP record in sequence;
otherwise a replay loop of the window opens and the command runs on. (The environment is checked at acceptance.) -/
def Obligations.LoopsOpen : Prop :=
  (∀ (c q pos : Nat) (m : Cmd) (s : State), starting (qkey c q) pos 0x08 s = some m →
     let k := qkey c q
     let raw := openParams k m s
     (∀ a, parseLoopParams s.integ.slices raw = .error a →
       ∃ t, Machine.exec (.opLoopOpen c q pos) s = .next t ∧
         (t.cmd k pos).map (·.latch) = some (some ⟨.malformed, 0x2000 + a⟩) ∧ OnlyIn [.front, .chest, .jnl] s t) ∧
     (∀ p, parseLoopParams s.integ.slices raw = .ok p →
       (∀ r, openRefusal c p s = some r → ∃ t, Machine.exec (.opLoopOpen c q pos) s = .next t ∧
         (t.cmd k pos).map (·.latch) = some (some ⟨r.1, r.2⟩) ∧ OnlyIn [.front, .chest, .jnl] s t) ∧
       (∀ out, openRefusal c p s = none → c < 16384 → q < 256 → operandLoc k m 20 32 s = some out →
         ∃ t lp, Machine.exec (.opLoopOpen c q pos) s = .next t ∧ tget s.trestle.loops (freeLoopId s) = none ∧
           tget t.trestle.loops (freeLoopId s) = some lp ∧ lp.draining = false ∧ lp.phase = .idle ∧ lp.ctx = c ∧
           lp.params = p ∧ (lp.gkey, lp.ver) = m.bound.getD (0, 0) ∧ lp.step = 0 ∧ lp.entries = [] ∧
           lp.replay = none ∧ lp.tag = eTag m.entry ∧
           (∀ l, l ≠ freeLoopId s → tget t.trestle.loops l = tget s.trestle.loops l) ∧
           (t.cmd k pos).map (fun x => (x.latch, x.results)) =
             some (some ⟨.ok, 0⟩, m.results ++ [⟨out, le 8 (freeLoopId s)⟩]) ∧
           OnlyIn [.objects, .front, .trestle, .wrd, .chest, .jnl, .mgmt] s t))) ∧
  (∀ (c q pos : Nat) (m : Cmd) (out : Loc) (s : State), starting (qkey c q) pos 0x17 s = some m →
     let k := qkey c q
     let w := readBytes k m 16 24 (fld m.entry 32 8) s
     let fails (st : Status) (aux kind : Nat) : Prop := ∃ t, Machine.exec (.opReplayOpen c q pos) s = .next t ∧
       (t.cmd k pos).map (fun x => (x.latch, x.results)) = some (some ⟨st, aux⟩, m.results ++ [⟨out, le 8 (kind * 2 ^ 56)⟩]) ∧
       OnlyIn [.front, .chest, .jnl] s t
     c < 16384 → q < 256 → operandLoc k m 20 40 s = some out →
     (∀ a, parseLoopParams s.integ.slices (replayParams (windowParams w)) = .error a → fails .malformed (0x2000 + a) 0) ∧
     (∀ p, parseLoopParams s.integ.slices (replayParams (windowParams w)) = .ok p →
       (∀ r, openRefusal c p s = some r → fails r.1 r.2 0) ∧
       (openRefusal c p s = none → hasLoopRecord w = false → fails .replayDiverge 0 2) ∧
       (openRefusal c p s = none → hasLoopRecord w = true →
         ∃ t lp r, Machine.exec (.opReplayOpen c q pos) s = .next t ∧
           tget t.trestle.loops (freeLoopId s) = some lp ∧ lp.replay = some r ∧ r.records = windowRecords w ∧ r.queue = q ∧
           r.pos = pos ∧ r.first = fld m.entry 48 8 ∧ r.count = fld m.entry 56 8 ∧ r.result = out ∧ r.map = [] ∧ lp.ctx = c ∧
           lp.step = 0 ∧ lp.phase = .idle ∧ lp.awake t = true ∧
           (∀ l, l ≠ freeLoopId s → tget t.trestle.loops l = tget s.trestle.loops l) ∧
           (t.cmd k pos).map (·.latch) = some none ∧ OnlyIn [.objects, .front, .trestle, .wrd, .chest, .jnl, .mgmt] s t)))

/-- STEP_BOUNDARY of a replay loop (R395, R396, R397), in an ACTIVE context. A replay whose command lost its latch (R397) ends: no
loop and no sequence of it is left. Otherwise it waits where the cells for its records are not granted, or where a recorded outcome
has to wait (log 56), with its step, entries and phase as they were. After a step it ends with ST_REPLAY_DIVERGE, its kind and step
in the result word, at the first token or verdict that the records do not hold, and with ST_OK and kind 0 after its last step; a
window that cannot be read on, or without a STEP record, is kind 2. A boundary whose stages are done has written the record of the
next step with the recorded composition (or has ended the replay: the composition is kind 4), under the recorded shed level. -/
def Obligations.ReplayBoundaryFollowsItsWindow : Prop :=
  ∀ (l : Nat) (ch : BoundaryChoice) (lp : Loop) (r : Replay) (s : State), tget s.trestle.loops l = some lp →
    lp.replay = some r → s.isActive lp.ctx = true →
    let n := lp.step + 1
    let w := readWindow l lp r n (s.modLoop l (fun x => { x with sampled := { x.sampled with level := s.power.level } }))
    let toks := (collectAll lp w.2).2
    let s1 := if lp.phase = .ended then (collectAll lp w.2).1 else w.2
    let gone (t : State) : Prop := tget t.trestle.loops l = none ∧ ∀ e ∈ t.trestle.seqs, e.2.loopId ≠ l
    let ends (st : Status) (aux kind step : Nat) : Prop := ∃ t m', Machine.exec (.stepBoundary l ch) s = .next t ∧ gone t ∧
      t.cmd (qkey lp.ctx r.queue) r.pos = some m' ∧ m'.latch = some ⟨st, aux⟩ ∧ ⟨r.result, replayWord kind step⟩ ∈ m'.results
    let waits : Prop := lp.draining = false → ∃ t, Machine.exec (.stepBoundary l ch) s = .next t ∧
      (tget t.trestle.loops l).map (fun x => (x.step, x.phase, x.entries, x.replay)) =
        some (lp.step, lp.phase, lp.entries, lp.replay)
    (replayDead lp r s = true → (lp.phase = .ended ∨ lp.phase = .recorded ∨ (lp.phase = .idle ∧ lp.awake s = true)) →
      ∃ t, Machine.exec (.stepBoundary l ch) s = .next t ∧ gone t) ∧
    (replayDead lp r s = false → lp.phase = .recorded → Machine.exec (.stepBoundary l ch) s = .next s) ∧
    (∀ m, s.cmd (qkey lp.ctx r.queue) r.pos = some m → m.latch = none → m.awaits = [] →
      (lp.phase = .ended ∨ (lp.phase = .idle ∧ lp.awake s = true)) →
      let last := r.first + r.count ≤ n
      let clear := lp.phase = .ended → tokenCheck r lp toks = none ∧ ¬last ∧ verdictCheck l r lp s1 = none
      (w.1 = false → waits) ∧
      (w.1 = true →
        (∀ d, lp.phase = .ended → tokenCheck r lp toks = some d → ends .replayDiverge d.2.2 d.1 d.2.1) ∧
        (lp.phase = .ended → tokenCheck r lp toks = none → last → ends .ok 0 0 lp.step) ∧
        (∀ d, lp.phase = .ended → tokenCheck r lp toks = none → ¬last → verdictCheck l r lp s1 = some d →
          ends .replayDiverge d.2.2 d.1 d.2.1) ∧
        (clear → readable r n = false → ends .replayDiverge 0 2 n) ∧
        (clear → readable r n = true → convertsHeld r n s1 = false → recsOf r n 0x09 = [] → ends .replayDiverge 0 2 n) ∧
        (clear → replayStages l lp r ch s1 = none → waits) ∧
        (∀ u x, replayStages l lp r ch s1 = some u → tget u.trestle.loops l = some x → ∃ y rest, recsOf r n 0x09 = y :: rest ∧
          loopCrc l x u = fld (jPayload y) 16 8 ∧ x.sampled.shed = fld (jPayload y) 0 1 ∧ x.step = lp.step ∧
          x.phase = (if x.entries = [] then .idle else .recorded))))

/-- OP_LOOP_ADMIT (R199, R202, R203, R58): refused with ST_STALE_HANDLE on a loop that is not OPEN in the context and as
orders 6 to 8 of R202 say; otherwise a WAITING sequence is written under the next index with the loop's next accept_order,
the admission record lies in its parameter block, its sequence_id is the result word, and the loop, where idle, is woken
(R184). Its staging is done at once (the model's reading, log 51); the seed of an auto_seed admission is the operand (log 1). -/
def Obligations.LoopAdmits : Prop :=
  ∀ (c q pos : Nat) (seed : W64) (m : Cmd) (s : State), starting (qkey c q) pos 0x09 s = some m → s.MemOk →
    c < 16384 → q < 256 →
    let k := qkey c q
    let l := fld m.entry 16 2
    let raw := readBytes k m 20 24 128 s
    let i := (nextSeqIndex s).1
    let id := (nextSeqIndex s).1 + (nextSeqIndex s).2 * 2 ^ 18
    ((ctxLoop l c s = none ∨ ∃ lp a, ctxLoop l c s = some lp ∧ parseAdmit raw = .ok a ∧ (lp.draining = true ∨ lp.replay.isSome = true)) →
      ∃ t, Machine.exec (.opLoopAdmit c q pos seed) s = .next t ∧
        (t.cmd k pos).map (·.latch) = some (some ⟨.stale, 16⟩) ∧ OnlyIn [.front, .chest, .jnl] s t) ∧
    (∀ lp a, ctxLoop l c s = some lp → parseAdmit raw = .ok a → lp.draining = false → lp.replay = none →
      (∀ r, admitRefusal c l a s = some r → ∃ t, Machine.exec (.opLoopAdmit c q pos seed) s = .next t ∧
        (t.cmd k pos).map (·.latch) = some (some ⟨r.1, r.2⟩) ∧ OnlyIn [.front, .chest, .jnl] s t) ∧
      (∀ out, admitRefusal c l a s = none → operandLoc k m 32 40 s = some out →
        ∃ t x, Machine.exec (.opLoopAdmit c q pos seed) s = .next t ∧ tget t.trestle.seqs i = some x ∧
          x.state = .waiting ∧ x.loopId = l ∧ x.seqId = id ∧ x.ctx = lp.ctx ∧ x.tenant = lp.tenant ∧
          x.admitTag = eTag m.entry ∧ x.adm = (if a.autoSeed then { a with seed := seed } else a) ∧ x.produced = 0 ∧
          x.acceptOrder = lp.nextOrder ∧ x.cancel = false ∧
          x.promptDone = prefixPages a (prefixSource l a s) lp.params.tokensPerPage * lp.params.tokensPerPage ∧
          x.kvTokens = x.promptDone ∧
          (∀ j, j ≠ i → tget t.trestle.seqs j = tget s.trestle.seqs j) ∧
          (tget t.trestle.loops l).map (fun y => (y.nextOrder, y.woken, y.step, y.phase)) =
            some ((lp.nextOrder + 1) % 2 ^ 32, true, lp.step, lp.phase) ∧
          (∀ j, j ≠ l → tget t.trestle.loops j = tget s.trestle.loops j) ∧
          memRead (paramLoc i s) 128 t = raw ∧ UnchangedOutside (paramLoc i s) 128 s t ∧
          (t.cmd k pos).map (fun y => (y.latch, y.results)) = some (some ⟨.ok, 0⟩, m.results ++ [⟨out, le 8 id⟩]) ∧
          OnlyIn [.port, .mem, .objects, .front, .trestle, .wrd, .chest, .jnl] s t))

/-- OP_LOOP_CANCEL (R205): each sequence named that is WAITING or PREEMPTED ends at once unless a boundary of its loop is
in progress; every other one named has its cancel pending; no other sequence changes; with every named one ended the command
completes with ST_OK (where no map-out waits for its turn, which may begin once a frame is given back, R251). A boundary is in progress while the
record of the next step waits for stage 7. OP_LOOP_CLOSE (R199): ST_STALE_HANDLE on a loop that is not OPEN; a loop with no sequence and no step
running is CLOSED and the command complete; in mode drain a loop with sequences drains, its sequences as they were; in mode
cancel they are treated as a cancel treats them. What becomes of the record that
waits, and of the Journal of a loop that closes, is the model's reading (logs 12, 13). -/
def Obligations.LoopsCancelAndClose : Prop :=
  (∀ (c q pos : Nat) (m : Cmd) (s : State), starting (qkey c q) pos 0x0A s = some m →
    tabWf s.trestle.seqs = true →
    let k := qkey c q
    let l := fld m.entry 16 2
    let id := fld m.entry 20 4
    let busy := (tget s.trestle.loops l).map (·.phase) = some .recorded
    (∀ r, cancelRefusal c m.entry s = some r → ∃ t, Machine.exec (.opLoopCancel c q pos) s = .next t ∧
      (t.cmd k pos).map (·.latch) = some (some ⟨r.1, r.2⟩) ∧ OnlyIn [.front, .chest, .jnl] s t) ∧
    (cancelRefusal c m.entry s = none → ∃ t, Machine.exec (.opLoopCancel c q pos) s = .next t ∧
      (∀ i x, tget s.trestle.seqs i = some x → x.loopId = l → (id = 0xFFFFFFFF ∨ x.seqId = id) →
        (x.parked = true → ¬busy → tget t.trestle.seqs i = none) ∧
        ((x.parked = false ∨ busy) → (tget t.trestle.seqs i).map (fun y => (y.state, y.cancel)) = some (x.state, true))) ∧
      (s.wrd.mapoutWait = [] → ∀ i x, tget s.trestle.seqs i = some x → (x.loopId ≠ l ∨ (id ≠ 0xFFFFFFFF ∧ x.seqId ≠ id)) →
        tget t.trestle.seqs i = some x) ∧
      ((∀ e ∈ loopSeqs l s, (id = 0xFFFFFFFF ∨ e.2.seqId = id) → e.2.parked = true ∧ ¬busy) →
        (t.cmd k pos).map (·.latch) = some (some ⟨.ok, 0⟩)))) ∧
  (∀ (c q pos : Nat) (m : Cmd) (s : State), starting (qkey c q) pos 0x0B s = some m →
    tabWf s.trestle.seqs = true →
    let k := qkey c q
    let l := fld m.entry 16 2
    let mode := fld m.entry 18 1
    (loopOpenIn l c s = false → ∃ t, Machine.exec (.opLoopClose c q pos) s = .next t ∧
      (t.cmd k pos).map (·.latch) = some (some ⟨.stale, 16⟩) ∧ OnlyIn [.front, .chest, .jnl] s t) ∧
    (∀ lp, loopOpenIn l c s = true → tget s.trestle.loops l = some lp →
      (loopSeqs l s = [] → lp.phase ≠ .running → ∃ t, Machine.exec (.opLoopClose c q pos) s = .next t ∧
        tget t.trestle.loops l = none ∧ (t.cmd k pos).map (·.latch) = some (some ⟨.ok, 0⟩) ∧
        (∀ j, j ≠ l → (tget t.trestle.loops j).map (·.draining) = (tget s.trestle.loops j).map (·.draining))) ∧
      (mode ≠ 1 → s.wrd.mapoutWait = [] → (loopSeqs l s ≠ [] ∨ lp.phase = .running) → ∃ t lp', Machine.exec (.opLoopClose c q pos) s = .next t ∧
        tget t.trestle.loops l = some lp' ∧ lp'.draining = true ∧ lp'.closer = some (k, pos) ∧ lp'.step = lp.step ∧
        lp'.phase = lp.phase ∧ lp'.entries = lp.entries ∧ t.trestle.seqs = s.trestle.seqs ∧
        (t.cmd k pos).map (·.latch) = some none) ∧
      (mode = 1 → ∃ t, Machine.exec (.opLoopClose c q pos) s = .next t ∧
        (∀ i x, tget s.trestle.seqs i = some x → x.loopId = l →
          (x.parked = true → lp.phase ≠ .recorded → tget t.trestle.seqs i = none) ∧
          ((x.parked = false ∨ lp.phase = .recorded) →
            (tget t.trestle.seqs i).map (fun y => (y.state, y.cancel)) = some (x.state, true))) ∧
        (s.wrd.mapoutWait = [] → ∀ i x, tget s.trestle.seqs i = some x → x.loopId ≠ l → tget t.trestle.seqs i = some x))))

/-- STEP_BOUNDARY of a live loop that is due, its step ended or it woken while idle, of an ACTIVE context (R184, R185, R188, R194,
R195): no step is launched, the inputs are those sampled as it began, the loop ends with a record of its next step, or idle with
none, and the tokens of that record are within the cap in force. A loop that is not due, or whose context is not ACTIVE, is left
alone. What wakes an idle loop is the model's reading (log 41). The boundary of a replay loop is
ReplayBoundaryFollowsItsWindow. -/
def Obligations.BoundaryRecordsTheNextStep : Prop :=
  ∀ (l : Nat) (ch : BoundaryChoice) (lp : Loop) (s : State), tget s.trestle.loops l = some lp →
    ((lp.phase = .recorded ∨ lp.phase = .running ∨ (lp.phase = .idle ∧ lp.awake s = false) ∨ s.isActive lp.ctx = false) →
      Machine.exec (.stepBoundary l ch) s = .next s) ∧
    (((lp.phase = .idle ∧ lp.awake s = true) ∨ lp.phase = .ended) → s.isActive lp.ctx = true → lp.replay = none →
      (lp.entries.map (·.seqIdx)).Nodup → tabWf s.trestle.seqs = true →
      ∃ t, Machine.exec (.stepBoundary l ch) s = .next t ∧
        (∀ lp', tget t.trestle.loops l = some lp' → lp'.step = lp.step ∧ lp'.sampled = sampleInputs s ∧
          lp'.params = lp.params ∧ lp'.ver = lp.ver ∧
          (lp'.entries = [] → lp'.phase = .idle) ∧ (lp'.entries ≠ [] → lp'.phase = .recorded) ∧
          tokenCount lp'.entries ≤ capped lp.params.maxTokens s.power.level) ∧
        (∀ e ∈ s.trestle.loops, ∀ x, e.1 ≠ l → tget t.trestle.loops e.1 = some x →
          ∃ y, tget s.trestle.loops e.1 = some y ∧ x.step = y.step ∧ x.params = y.params ∧ x.draining = y.draining))

/-- A boundary takes pages from no sequence that runs or that belongs to class RT (R191, R215): with no map-out waiting,
every sequence of another loop whose class is RT, or whose loop has a step running, keeps its state, its tokens, its place in
the acceptance order, and the leaf, with the pages in it, that its page table ends with. -/
def Obligations.BoundarySparesRunningAndRt : Prop :=
  ∀ (l : Nat) (ch : BoundaryChoice) (lp : Loop) (i : Nat) (x : Seq) (lx : Loop) (s : State),
    tget s.trestle.loops l = some lp → lp.replay = none → s.wrd.mapoutWait = [] →
    tget s.trestle.seqs i = some x → x.loopId ≠ l → tget s.trestle.loops x.loopId = some lx →
    (ctxCls s lx.ctx = .rt ∨ lx.phase = .running) →
    (∀ e ∈ lp.entries, e.seqIdx ≠ i) → tabWf s.trestle.seqs = true →
    ∃ t y, Machine.exec (.stepBoundary l ch) s = .next t ∧ tget t.trestle.seqs i = some y ∧ y.state = x.state ∧
      y.seqId = x.seqId ∧ y.produced = x.produced ∧ y.kvTokens = x.kvTokens ∧ y.promptDone = x.promptDone ∧
      y.acceptOrder = x.acceptOrder ∧ y.preempts = x.preempts ∧ y.cancel = x.cancel ∧ y.root = x.root ∧
      y.rootCount = x.rootCount ∧ y.rootOwn = x.rootOwn ∧ y.reserve = x.reserve

/-- Stage 1 on one sampled entry (R186): an invalid result is the verdict program error and delivers nothing; a valid one
is delivered, and the verdict is the first that applies of stop token, program stop and length; without one the sequence
decodes, or stays PREEMPTED to resume there. -/
def Obligations.ResultsAreJudged : Prop :=
  ∀ (lp : Loop) (e : BEntry) (i : Nat) (x : Seq) (s : State), tget s.trestle.seqs e.seqIdx = some x →
    x.seqId = e.seqId → e.sample = true → x.verdict = none →
    let r := resultOf lp i s
    let y := tget (collectOne lp e i s).1.trestle.seqs e.seqIdx
    (r.2.1 = false → y.map (fun z => (z.verdict, z.produced)) = some (some (8, 0xFF), x.produced)) ∧
    (r.2.1 = true → y.map (·.produced) = some (x.produced + 1) ∧ y.map (·.lastToken) = some r.1 ∧
      (∀ n, x.adm.stops.findIdx? (· == r.1) = some n → y.map (·.verdict) = some (some (1, n))) ∧
      (r.1 ∉ x.adm.stops →
        (r.2.2 = true → y.map (·.verdict) = some (some (2, 0xFF))) ∧
        (r.2.2 = false → x.adm.maxNew ≤ x.produced + 1 → y.map (·.verdict) = some (some (3, 0xFF))) ∧
        (r.2.2 = false → x.produced + 1 < x.adm.maxNew → y.map (fun z => (z.verdict, z.phaseDecode)) = some (none, true) ∧
          y.map (·.state) = some (if x.parked then x.state else .decode))))

/-- STEP_LAUNCH (R195, R198, R276, R284, R390) of a recorded loop: counted as waiting while its records are not written; left
alone while the weights are not resident; without benches it becomes a job that waits for them, or is placed. With benches it
holds, the decision pass of its boundary runs first: then it is saved, where its benches are claimed or the shed level sampled at
stage 1 (R185, R444) or a partition reset says so, and where the save finds no frames it launches nothing while a reset or the level
lasts; otherwise the next step runs: the step number rises by one, the sequences of the record ran it, one launch goes to an unused
stream of each partition, and the residency runs. The model's choices: a wait is counted for each attempt (log 55); the lowest idle
stream is taken (log 37); the context's steps run count this one (log 98). -/
def Obligations.StepLaunches : Prop :=
  ∀ (l : Nat) (lp : Loop) (s : State), tget s.trestle.loops l = some lp → lp.phase = .recorded → s.isActive lp.ctx = true →
    (recordsOut l lp s = false →
      ∃ t, Machine.exec (.stepLaunch l) s = .next t ∧
        tget t.trestle.loops l = some { lp with jnl := lp.jnl.map (fun j => { j with waits := j.waits + 1 }) } ∧
        OnlyIn [.trestle] s t) ∧
    (recordsOut l lp s = true → weightsReady lp s = false → Machine.exec (.stepLaunch l) s = .next s) ∧
    (recordsOut l lp s = true → weightsReady lp s = true → loopRes l s = none → loopJob l s = none →
      (∀ e ∈ s.sched.jobs, e.1 < s.sched.nextJob) →
      ∃ t, Machine.exec (.stepLaunch l) s = .next t ∧
        ((∃ e ∈ t.sched.jobs, e.2.owner = .loop l) ∨ (∃ e ∈ t.sched.residencies, e.2.owner = .loop l))) ∧
    (∀ r x y, recordsOut l lp s = true → weightsReady lp s = true → loopRes l s = some (r, x) →
      x.saved = false → x.moving = false → x.running = false →
      let u := passAt (some r) s
      let gives := claimedRes y u || underReset y u || shedSave y lp.sampled.level u
      tget u.sched.residencies r = some y → y.moving = false → y.benches ≠ [] →
      (∀ w, gives = true → saveRes r u = some w →
        ∃ t lp', Machine.exec (.stepLaunch l) s = .next t ∧ tget t.trestle.loops l = some lp' ∧ lp'.step = lp.step ∧
          lp'.phase = .recorded ∧ lp'.entries = lp.entries ∧
          (tget t.sched.residencies r).map (fun z => (z.moving, z.running)) = some (true, y.running)) ∧
      (gives = true → saveRes r u = none →
        (underReset y (tryNext r u) || shedSave y (min lp.sampled.level s.power.level) (tryNext r u)) = true →
        ∃ t lp', Machine.exec (.stepLaunch l) s = .next t ∧ tget t.trestle.loops l = some lp' ∧ lp'.step = lp.step ∧
          lp'.phase = .recorded ∧ lp'.entries = lp.entries) ∧
      (gives = false → streamsReady y.benches u = true → s.wrd.mapoutWait = [] →
        (∀ e ∈ s.trestle.seqs, e.2.loopId = l → e.2.parked = true → e.2.cancel = false ∧ e.2.verdict = none) →
        ∃ t lp', Machine.exec (.stepLaunch l) s = .next t ∧ tget t.trestle.loops l = some lp' ∧ lp'.step = lp.step + 1 ∧
          lp'.phase = .running ∧ lp'.entries = lp.entries ∧ lp'.stats.steps = lp.stats.steps + 1 ∧
          (∀ e ∈ lp.entries, ∀ z, tget s.trestle.seqs e.seqIdx = some z →
            (tget t.trestle.seqs e.seqIdx).map (fun z => (z.lastStep, z.admitStep)) =
              some (lp.step + 1, if z.admitStep = 0 then lp.step + 1 else z.admitStep)) ∧
          (∀ j, (∀ e ∈ lp.entries, e.seqIdx ≠ j) → tget t.trestle.seqs j = tget s.trestle.seqs j) ∧
          (∀ p ∈ partsOf y.benches, ∀ st, freeStream p u = some st →
            (streamAt p st t).launch.map (fun z => (z.loopId, z.step, z.gkey, z.ver, z.batch)) =
              some (some l, lp.step + 1, lp.gkey, lp.ver, (batchLoc lp (lp.step + 1) s).addr) ∧
            PortOut.launch p st ∈ t.port.out) ∧
          (tget t.sched.residencies r).map (fun z => (z.running, z.blockedAt)) = some (true, none) ∧
          (tgetD t.hub.uses lp.ctx Use.zero).steps = (tgetD s.hub.uses lp.ctx Use.zero).steps + 1))

/-- The Journal ring (R389, R390): JOURNAL_WRITE of a ring inside its object writes the oldest waiting records while the ring has
room, each to the slot of its number, then the produced count, which covers it; a ring outside its object costs the loop's context. A
closed loop's records go out likewise (that they wait is the model's reading, log 13). JOURNAL_CONSUMED_POLL reads the count (whose
bytes are the command's: log 32), takes one that the produced one can have reached and counts any other.
The rings of the JNL window (R405, R408, R409): a ring register gives its ring a base and a size and its count starts
again; a consumed count out of range is ignored and counted; while its ring is on and has room the oldest event is written to
its place, counted, its cell given back, and a message sent for it; the oldest trace record likewise while its ring is on. When waiting
events merge is the model's reading (log 30). -/
def Obligations.RingsAreWritten : Prop :=
  ((∀ (l n k0 : Nat) (lp : Loop) (j : Jnl) (s : State), s.MemOk → leftOf l s = [] → tget s.trestle.loops l = some lp →
     lp.jnl = some j → n ≤ j.waiting.length → j.waiting ≠ [] → (∀ w ∈ j.waiting, w.2.length = 64) → jnlInside j s = true →
     (∀ i w, j.waiting[i]? = some w → fld w.2 8 8 = k0 + i) →
     (∀ i, i < n → j.room (k0 + i) = true) → (n < j.waiting.length → j.room (k0 + n) = false) →
     (j.base.space = .host → ∀ n, n < 64 + 64 * 2 ^ j.log2 → hostDropped (j.base.plus n) s = false) →
     ∃ t j', Machine.exec (.journalWrite l) s = .next t ∧ (tget t.trestle.loops l).bind (·.jnl) = some j' ∧
       j'.produced = (if n = 0 then j.produced else k0 + n) ∧ j'.written = j.written + n ∧ j'.waiting = j.waiting.drop n ∧
       j'.consumed = j.consumed ∧ (0 < n → memRead j.base 8 t = le 8 (k0 + n)) ∧
       (∀ i w, i < n → j.waiting[i]? = some w →
         memRead (j.base.plus (64 + ((k0 + i) % 2 ^ j.log2) * 64)) 64 t = w.2) ∧
       UnchangedOutside j.base (64 + 64 * 2 ^ j.log2) s t ∧
       (∀ k, k ≠ l → tget t.trestle.loops k = tget s.trestle.loops k) ∧ t.trestle.seqs = s.trestle.seqs) ∧
   (∀ (l : Nat) (lp : Loop) (j : Jnl) (s : State), leftOf l s = [] → tget s.trestle.loops l = some lp → lp.jnl = some j →
     j.waiting ≠ [] → jnlInside j s = false → s.isActive lp.ctx = true →
     ∃ t, Machine.exec (.journalWrite l) s = .next t ∧
       FaultTeardownBegun lp.ctx s t (fun i => i.status = .access ∧ i.loopId = l ∧ i.address = j.base.addr) ∧
       t.trestle.seqs = s.trestle.seqs) ∧
   (∀ (l : Nat) (x : JnlLeft) (s : State), leftOf l s = [x] → tget s.trestle.loops l = none → jnlInside x.jnl s = true →
     (∀ w ∈ x.jnl.waiting, x.jnl.room (fld w.2 8 8) = true) →
     ∃ t, Machine.exec (.journalWrite l) s = .next t ∧ (∀ y ∈ t.trestle.jnlLeft, y.jnl.cells ≠ x.jnl.cells) ∧
       t.trestle.loops = s.trestle.loops ∧ t.trestle.seqs = s.trestle.seqs) ∧
   (∀ (l : Nat) (v : W64) (lp : Loop) (j : Jnl) (s : State), s.MemOk → tget s.trestle.loops l = some lp → lp.jnl = some j →
     ∃ t, Machine.exec (.journalConsumedPoll l v) s = .next t ∧
       (2 ^ j.log2 < (j.produced + 2 ^ 64 - v.toNat) % 2 ^ 64 →
         tget t.trestle.loops l = some { lp with jnl := some { j with badConsumed := j.badConsumed + 1 } }) ∧
       ((j.produced + 2 ^ 64 - v.toNat) % 2 ^ 64 ≤ 2 ^ j.log2 →
         tget t.trestle.loops l = some { lp with jnl := some { j with consumed := v.toNat } }) ∧
       (∀ k, k ≠ l → tget t.trestle.loops k = tget s.trestle.loops k) ∧
       t.port = (readReq (s.tenantOf lp.ctx) .hub (j.base.plus 8) 8 s).port ∧
       t.mem = s.mem.write (j.base.plus 8) (le 8 v.toNat) ∧ OnlyIn [.port, .mem, .hub, .trestle] s t)) ∧
  ((∀ (v : W64) (s : State),
     let n := v.toNat
     (barOpen s = true →
       Machine.exec (.jnlRingWrite .event v) s = .next { s with jnl := { s.jnl with
         evtBase := n / 4096 * 4096, evtLog2 := n % 32, evtProd := 0 } } ∧
       Machine.exec (.jnlRingWrite .log v) s = .next { s with jnl := { s.jnl with
         logBase := n / 4096 * 4096, logMin := n / 256 % 4, logLog2 := n % 32, logProd := 0 } } ∧
       Machine.exec (.jnlRingWrite .trace v) s = .next { s with jnl := { s.jnl with
         traceBase := n / 4096 * 4096, traceLog2 := n % 32, traceProd := 0 } }) ∧
     (barOpen s = true →
       let excess := lag 32 s.jnl.evtProd (n / 2 ^ 32)
       let s1 : State := { s with jnl := { s.jnl with evtMsix := n.testBit 16, evtVector := n % 4096 } }
       (2 ^ s.jnl.evtLog2 < excess → Machine.exec (.eventConsWrite v) s = .next (bar0Err 3 0xB0108 s1)) ∧
       (excess ≤ 2 ^ s.jnl.evtLog2 → Machine.exec (.eventConsWrite v) s = .next { s1 with
         jnl := { s1.jnl with evtCons := n / 2 ^ 32 } })) ∧
     (barOpen s = false → Machine.exec (.eventConsWrite v) s = .next s ∧
       ∀ r : JnlRing, Machine.exec (.jnlRingWrite r v) s = .next s)) ∧
   (∀ (e : Event) (rest : List Event) (s : State), s.jnl.events = e :: rest →
     let a := pfLoc (s.jnl.evtBase + s.jnl.evtProd % 2 ^ s.jnl.evtLog2 * 64)
     (evtRoom s = false → Machine.exec .eventWrite s = .next s) ∧
     (evtRoom s = true → s.MemOk → ∃ t, Machine.exec .eventWrite s = .next t ∧
       (hostDropped a s = false → memRead a e.bytes.length t = e.bytes) ∧ UnchangedOutside a e.bytes.length s t ∧
       (hostDropped a s = true → t.mem = s.mem) ∧
       (t.jnl.events, t.jnl.evtProd, t.jnl.evtWritten, t.jnl.evtCons, t.jnl.evtBase, t.jnl.evtLog2) =
         (rest, (s.jnl.evtProd + 1) % 2 ^ 64, (s.jnl.evtWritten + 1) % 2 ^ 64, s.jnl.evtCons, s.jnl.evtBase, s.jnl.evtLog2) ∧
       (∀ x ∈ (cellQueue 4 0 t).cells, x.item ≠ some e.id) ∧
       t.port = { s.port with out := s.port.out ++ (if hostDropped a s then [] else writeReqs none .hub a e.bytes) ++
         (if s.jnl.evtMsix && !s.port.dropAll && !s.port.dropHost.contains 0 then [.msix 0 s.jnl.evtVector] else []) } ∧
       (∀ v, s.watch.hubProgress[7]? = some v → t.watch.hubProgress[7]? = some ((v + 1) % 2 ^ 32)) ∧
       OnlyIn [.port, .mem, .hub, .chest, .watch, .jnl] s t)) ∧
   (∀ (r : List Byte) (rest : List (List Byte)) (s : State), s.jnl.trace = r :: rest →
     let a := pfLoc (s.jnl.traceBase + s.jnl.traceProd % 2 ^ s.jnl.traceLog2 * 32)
     (traceRingOn s = false → Machine.exec .traceRingWrite s = .next s) ∧
     (traceRingOn s = true → s.MemOk → ∃ t, Machine.exec .traceRingWrite s = .next t ∧
       (hostDropped a s = false → memRead a r.length t = r) ∧ UnchangedOutside a r.length s t ∧
       t.jnl = { s.jnl with trace := rest, traceProd := (s.jnl.traceProd + 1) % 2 ^ 32 } ∧ OnlyIn [.port, .mem, .hub, .jnl] s t)) ∧
   (∀ s : State, (s.jnl.events = [] → Machine.exec .eventWrite s = .next s) ∧
     (s.jnl.trace = [] → Machine.exec .traceRingWrite s = .next s)))

/-- Side engines (R150 to R154, R252, R362, R470). A command is read from the side section over the slice memory port, once. A LOAD
brings the bytes of its argument, or of a resident model's hot copy, into the scratch range (it waits while a frame of that copy is
moved or zeroed, or a channel it reads is held by a partition reset, and does not begin where it reads the host memory of a function
whose accesses have stopped); a STORE puts the scratch range into its argument, or waits for a held channel; REDUCE and SETREG set
their scalar register, whose value is awaited; each makes its engine busy. The model's own: the register is pending from here (log
104), a sum outside INT32 is a free value (log 21), the command's read is charged to no tenant (log 121). A scratch range outside the launch's cores is a program error, an access
outside the argument or its rights, or a STORE into a resident model's source, a refused access. SIDE_COMMAND_LANDED
counts a 4 KiB piece of the command, or all of it: then it sets the command's flag and goes on to the next command or the next
entry.
Collective data (R173, R465, R486): a SEND hands its scratch range to the link with the peer's coordinates and with this chip's,
its partition and its stream; COLLECTIVE_DATA waits for the RECV of a stream whose step is under way, or that is halted with that RECV
begun, and is discarded and counted elsewhere, from a stream of this chip that runs another launch too (the model's own: log 125); a RECV takes the data its peer sent on its channel
into scratch, waits while there is none, and is a program error where the length differs. -/
def Obligations.SideEnginesMoveData : Prop :=
  ((∀ (p st pc : Nat) (l : Launch) (c : SideCmd) (h : Posted) (s : State), SideTakes p st 1 1 l c h pc s → s.MemOk →
     let r := sideRead p st 1 pc l s
     (scratchOk l c c.length = false → ∃ t, Machine.exec (.load p st) s = .next t ∧
       HaltedWith p st ⟨.engineFault, 4, h.cycle, h.textOffset, 0, 0, 0⟩ r t) ∧
     (scratchOk l c c.length = true → sideAccess l c (·.read) = none → ∃ t, Machine.exec (.load p st) s = .next t ∧
       HaltedWith p st ⟨.access, 0, h.cycle, h.textOffset, 0, 0, refusedAddr l c⟩ r t) ∧
     (∀ a, scratchOk l c c.length = true → sideAccess l c (·.read) = some a →
       let off := a.byteOffset + c.offset
       let hot := (hotModel l a s).filter (fun m => decide (m.srcOffset ≤ off ∧ off + c.length ≤ m.srcOffset + m.length))
       let held := hot.any (fun m => (hotParts m (off - m.srcOffset) c.length s).any (fun e => inFlight e.1 s || frameHeld e.1 s))
       let stopped := hot.isNone && hostStopped (a.mem.at_ off) s
       let reset := hot.isNone && rangeHeld (a.mem.at_ off) c.length s
       (stopped = true → Machine.exec (.load p st) s = .next s) ∧
       (stopped = false → (held = true ∨ reset = true) → Machine.exec (.load p st) s = .next (r.modEngine p st 1 (fun g => { g with pc := some pc, waiting := true }))) ∧
       (stopped = false → held = false → reset = false → ∃ t, Machine.exec (.load p st) s = .next t ∧ EngineTook p st 1 pc s t ∧
         (hot = none → readN t.mem.scratch (scratchOf l c) c.length = memRead (a.mem.at_ off) c.length s) ∧
         (∀ m, hot = some m → readN t.mem.scratch (scratchOf l c) c.length = hotBytes m (off - m.srcOffset) c.length s) ∧
         (∀ k, (k < scratchOf l c ∨ scratchOf l c + c.length ≤ k) → cellGet t.mem.scratch k = cellGet s.mem.scratch k) ∧
         t.mem.host = s.mem.host ∧ t.mem.fast = s.mem.fast ∧ t.mem.slow = s.mem.slow ∧
         OnlyIn [.port, .mem, .hub, .slices] s t))) ∧
   (∀ (p st pc : Nat) (l : Launch) (c : SideCmd) (h : Posted) (s : State), SideTakes p st 2 3 l c h pc s → s.MemOk →
     let r := sideRead p st 2 pc l s
     (scratchOk l c c.length = false → ∃ t, Machine.exec (.store p st) s = .next t ∧
       HaltedWith p st ⟨.engineFault, 4, h.cycle, h.textOffset, 0, 0, 0⟩ r t) ∧
     (scratchOk l c c.length = true → sideAccess l c (·.write) = none → ∃ t, Machine.exec (.store p st) s = .next t ∧
       HaltedWith p st ⟨.access, 0, h.cycle, h.textOffset, 0, 0, refusedAddr l c⟩ r t) ∧
     (∀ a, scratchOk l c c.length = true → sideAccess l c (·.write) = some a →
       let off := a.byteOffset + c.offset
       let hot := (hotModel l a s).filter (fun m => decide (off < m.srcOffset + m.length ∧ m.srcOffset < off + c.length))
       (hot.isSome = true → ∃ t, Machine.exec (.store p st) s = .next t ∧
         HaltedWith p st ⟨.access, 0, h.cycle, h.textOffset, 0, 0, refusedAddr l c⟩ r t) ∧
       (hot = none → rangeHeld (a.mem.at_ off) c.length s = true →
         Machine.exec (.store p st) s = .next (r.modEngine p st 2 (fun g => { g with pc := some pc, waiting := true }))) ∧
       (hot = none → rangeHeld (a.mem.at_ off) c.length s = false → ∃ t, Machine.exec (.store p st) s = .next t ∧ EngineTook p st 2 pc s t ∧
         ((a.mem.space ≠ .host ∨ hostDropped (a.mem.at_ off) s = false) →
           memRead (a.mem.at_ off) c.length t = readN s.mem.scratch (scratchOf l c) c.length) ∧
         UnchangedOutside (a.mem.at_ off) c.length s t ∧ t.mem.scratch = s.mem.scratch ∧
         OnlyIn [.port, .mem, .hub, .slices] s t))) ∧
   (∀ (p st pc : Nat) (l : Launch) (c : SideCmd) (h : Posted) (s : State), SideTakes p st 4 7 l c h pc s →
     let r := sideRead p st 4 pc l s
     let x := streamAt p st s
     let bad := !scratchOk l c c.length || decide (c.length % 4 ≠ 0 ∨ 3 < c.aux1 ∨ 31 < c.slot)
     (bad = true → ∃ t, Machine.exec (.reduce p st) s = .next t ∧
       HaltedWith p st ⟨.engineFault, 4, h.cycle, h.textOffset, 0, 0, 0⟩ r t) ∧
     (bad = false → ∃ t, Machine.exec (.reduce p st) s = .next t ∧ EngineTook p st 4 pc s t ∧
       (streamAt p st t).regs = x.regs.set c.slot
         ((reduction c.aux1 (int32s (readN s.mem.scratch (scratchOf l c) c.length))).signExtend 64) ∧
       (streamAt p st t).pend = x.pend ||| (1#32 <<< c.slot) ∧ t.port = r.port ∧ OnlyIn [.port, .slices] s t)) ∧
   (∀ (p st pc : Nat) (l : Launch) (c : SideCmd) (h : Posted) (s : State), SideTakes p st 4 8 l c h pc s →
     let r := sideRead p st 4 pc l s
     let x := streamAt p st s
     (31 < c.slot → ∃ t, Machine.exec (.setreg p st) s = .next t ∧
       HaltedWith p st ⟨.engineFault, 4, h.cycle, h.textOffset, 0, 0, 0⟩ r t) ∧
     (c.slot ≤ 31 → ∃ t, Machine.exec (.setreg p st) s = .next t ∧ EngineTook p st 4 pc s t ∧
       (streamAt p st t).regs = x.regs.set c.slot (BitVec.ofNat 64 c.aux2) ∧
       (streamAt p st t).pend = x.pend ||| (1#32 <<< c.slot) ∧ t.port = r.port ∧ OnlyIn [.port, .slices] s t)) ∧
   (∀ (p st eng pc : Nat) (l : Launch) (h : Posted) (s : State),
     let x := streamAt p st s
     let c := SideCmd.of (slice (launchImage l s) (imSideOff (launchImage l s) + pc) 32)
     x.launch = some l → 1 ≤ eng → (engineAt x eng).busy = true → (engineAt x eng).place (launchImage l s) = some (h, pc) →
     let g := engineAt x eng
     (∃ t, Machine.exec (.sideCommandLanded p st (.whole eng)) s = .next t ∧
       (∀ f, c.sets = some f → f < 64 → (streamAt p st t).flags = x.flags ||| (1#64 <<< f)) ∧
       (c.sets = none → (streamAt p st t).flags = x.flags) ∧
       (x.state ≠ .halted → engineAt (streamAt p st t) eng =
         if c.last then ⟨g.queue.tail, none, false, false, 0⟩ else ⟨g.queue, some (pc + 32), false, false, 0⟩) ∧
       (x.state = .halted → engineAt (streamAt p st t) eng = ⟨[], none, false, false, 0⟩) ∧
       (eng = 4 → c.slot < 32 → (streamAt p st t).pend.toNat.testBit c.slot = false) ∧
       (streamAt p st t).progress = (x.progress + 1 + (c.bytes / 4096 - g.landed)) % 2 ^ 32 ∧
       (streamAt p st t).regs = x.regs ∧ OtherStreamsSame p st s t ∧ OnlyIn [.slices] s t) ∧
     (g.landed < c.bytes / 4096 → ∃ t, Machine.exec (.sideCommandLanded p st (.piece eng)) s = .next t ∧
       engineAt (streamAt p st t) eng = { g with landed := g.landed + 1 } ∧
       (streamAt p st t).progress = (x.progress + 1) % 2 ^ 32 ∧ (streamAt p st t).flags = x.flags ∧
       (streamAt p st t).regs = x.regs ∧ OtherStreamsSame p st s t ∧ OnlyIn [.slices] s t) ∧
     (c.bytes / 4096 ≤ g.landed → Machine.exec (.sideCommandLanded p st (.piece eng)) s = .next s))) ∧
  ((∀ (p st pc : Nat) (l : Launch) (c : SideCmd) (h : Posted) (s : State), SideTakes p st 3 5 l c h pc s →
     let r := sideRead p st 3 pc l s
     ((scratchOk l c c.length = false ∨ peerOk c = false) → ∃ t, Machine.exec (.send p st) s = .next t ∧
       HaltedWith p st ⟨.engineFault, 4, h.cycle, h.textOffset, 0, 0, 0⟩ r t) ∧
     (scratchOk l c c.length = true → peerOk c = true → ∃ t, Machine.exec (.send p st) s = .next t ∧ EngineTook p st 3 pc s t ∧
       t.port = { r.port with out := r.port.out ++ [.peerData (bits c.aux2 4 0) (bits c.aux2 9 5) (bits c.aux2 14 10)
         (bits c.aux2 21 16) (bits c.aux2 23 22) (bits c.aux2 39 24)
         (s.port.straps.1, s.port.straps.2.1, s.port.straps.2.2.1, p, st) (readN s.mem.scratch (scratchOf l c) c.length)] } ∧
       OnlyIn [.port, .hub, .slices] s t)) ∧
   (∀ (p st peer chan : Nat) (data : List Byte) (s : State),
     let x := streamAt p st s
     let takes := x.launch.isSome = true ∧ (x.active = true ∨ (x.state = .idle ∧ x.confirmed = false) ∨
       (x.state = .halted ∧ (engineAt x 3).waiting = true)) ∧ (∀ l, x.launch = some l → otherLaunch l peer s = false)
     (takes → ∃ t, Machine.exec (.collectiveData p st peer chan data) s = .next t ∧
       t.link = { s.link with inbox := s.link.inbox ++ [(p, st, peer % 2 ^ 24, chan % 2 ^ 16, data)] } ∧
       OnlyIn [.hub, .link] s t) ∧
     (¬takes → Machine.exec (.collectiveData p st peer chan data) s =
       .next { s with link := { s.link with discarded := satInc 32 s.link.discarded } })) ∧
   (∀ (p st pc : Nat) (l : Launch) (c : SideCmd) (h : Posted) (s : State), SideTakes p st 3 6 l c h pc s → s.MemOk →
     let r := sideRead p st 3 pc l s
     scratchOk l c c.length = true → peerOk c = true →
     let mine := fun (e : Nat × Nat × Nat × Nat × List Byte) =>
       e.1 = p ∧ e.2.1 = st ∧ e.2.2.1 = bits c.aux2 23 0 ∧ e.2.2.2.1 = bits c.aux2 39 24
     ((∀ e ∈ s.link.inbox, ¬mine e) →
       Machine.exec (.recv p st) s = .next (r.modEngine p st 3 (fun g => { g with pc := some pc, waiting := true }))) ∧
     (∀ before e rest, s.link.inbox = before ++ e :: rest → (∀ b ∈ before, ¬mine b) → mine e →
       (e.2.2.2.2.length = c.length → ∃ t, Machine.exec (.recv p st) s = .next t ∧ EngineTook p st 3 pc s t ∧
         readN t.mem.scratch (scratchOf l c) c.length = e.2.2.2.2 ∧ t.link = { s.link with inbox := before ++ rest } ∧
         t.mem.host = s.mem.host ∧ t.mem.fast = s.mem.fast ∧ t.mem.slow = s.mem.slow ∧ OnlyIn [.port, .mem, .slices, .link] s t) ∧
       (e.2.2.2.2.length ≠ c.length → ∃ t, Machine.exec (.recv p st) s = .next t ∧ (streamAt p st t).state = .halted ∧
         ((streamAt p st s).fault = none → (streamAt p st t).fault = some ⟨.engineFault, 8, h.cycle, h.textOffset, 0, 0, 0⟩) ∧
         t.link = { s.link with inbox := before ++ rest, discarded := satInc 32 s.link.discarded } ∧ t.mem = s.mem))))

/-- Paged accesses (R233 to R236, R250, R362): a GATHER or SCATTER with misused fields is a program error; one with a page of which a
move is in flight, or whose channel a partition reset holds, waits; a GATHER brings each page's header and selected blocks into scratch, code 7 and zeros for a lost
page; a SCATTER puts native bytes into the selected blocks of each page that is not lost, and is a program error where a
page is not in the fast tier, native and unshared or lies past the entry's pages; of two named pages in one frame the later one's
bytes stay. The model's own: the codes come before the metadata (log 16) and the reading of the fields (log 58). -/
def Obligations.PagesAreGatheredAndScattered : Prop :=
  (∀ (p st pc : Nat) (l : Launch) (c : SideCmd) (h : Posted) (s : State), SideTakes p st 1 2 l c h pc s → s.MemOk →
    let r := sideRead p st 1 pc l s
    let per := 16 + 64 * c.length
    (pagesNamed l c per s = none → ∃ t, Machine.exec (.gather p st) s = .next t ∧
      HaltedWith p st ⟨.engineFault, 5, h.cycle, h.textOffset, 0, 0, 0⟩ r t) ∧
    (∀ i q ps n, pagesNamed l c per s = some (i, q, ps, n) →
      ((∃ e ∈ ps, e.2.lost = false ∧ (inFlight e.2.frame s = true ∨ frameHeld e.2.frame s = true)) →
        Machine.exec (.gather p st) s = .next (r.modEngine p st 1 (fun g => { g with pc := some pc, waiting := true }))) ∧
      ((∀ e ∈ ps, e.2.lost = false → inFlight e.2.frame s = false ∧ frameHeld e.2.frame s = false) →
        ∃ t, Machine.exec (.gather p st) s = .next t ∧ EngineTook p st 1 pc s t ∧
          (∀ k e, ps[k]? = some e → e.2.lost = false →
            let fmt := (frameAt e.2.frame s).format
            let d := blockData e.2.frame fmt c.offset c.length s
            readN t.mem.scratch (scratchOf l c + k * per) (16 + d.length) = le 4 fmt ++ le 4 d.length ++ zeros 8 ++ d ∧
            (frameAt e.2.frame t).accessed = true) ∧
          (∀ k e, ps[k]? = some e → e.2.lost = true →
            readN t.mem.scratch (scratchOf l c + k * per) per = le 4 7 ++ le 4 (64 * c.length) ++ zeros (8 + 64 * c.length)) ∧
          t.mem.host = s.mem.host ∧ t.mem.fast = s.mem.fast ∧ t.mem.slow = s.mem.slow ∧
          OnlyIn [.port, .mem, .hub, .slices, .trestle, .wrd] s t))) ∧
  (∀ (p st pc : Nat) (l : Launch) (c : SideCmd) (h : Posted) (s : State), SideTakes p st 2 4 l c h pc s → s.MemOk →
    let r := sideRead p st 2 pc l s
    let per := 64 * c.length
    (pagesNamed l c per s = none → ∃ t, Machine.exec (.scatter p st) s = .next t ∧
      HaltedWith p st ⟨.engineFault, 5, h.cycle, h.textOffset, 0, 0, 0⟩ r t) ∧
    (∀ i q ps n, pagesNamed l c per s = some (i, q, ps, n) →
      ((∃ e ∈ ps, e.2.lost = false ∧ (inFlight e.2.frame s = true ∨ frameHeld e.2.frame s = true)) →
        Machine.exec (.scatter p st) s = .next (r.modEngine p st 2 (fun g => { g with pc := some pc, waiting := true }))) ∧
      ((∀ e ∈ ps, e.2.lost = false → inFlight e.2.frame s = false ∧ frameHeld e.2.frame s = false) →
        (∃ e ∈ ps, e.2.lost = false ∧ scatterable n e s = false) → ∃ t, Machine.exec (.scatter p st) s = .next t ∧
          HaltedWith p st ⟨.engineFault, 5, h.cycle, h.textOffset, 0, 0, 0⟩ r t) ∧
      ((∀ e ∈ ps, e.2.lost = false → inFlight e.2.frame s = false ∧ frameHeld e.2.frame s = false ∧ scatterable n e s = true) →
        ∃ t, Machine.exec (.scatter p st) s = .next t ∧ EngineTook p st 2 pc s t ∧
          (∀ k e, ps[k]? = some e → e.2.lost = false →
            (∀ k' e', k < k' → ps[k']? = some e' → e'.2.lost = false → e'.2.frame ≠ e.2.frame) →
            memRead ((frameLoc e.2.frame s).plus (64 * c.offset)) per t = readN s.mem.scratch (scratchOf l c + k * per) per) ∧
          (∀ a : Loc, (∀ e ∈ ps, e.2.lost = false → a.space = .fast →
              (a.addr < (frameLoc e.2.frame s).addr + 64 * c.offset ∨
                (frameLoc e.2.frame s).addr + 64 * c.offset + per ≤ a.addr)) → memRead a 1 t = memRead a 1 s) ∧
          t.mem.scratch = s.mem.scratch ∧ OnlyIn [.port, .mem, .hub, .slices, .trestle] s t)))

/-- A stream's run (R140, R146, R147, R166 to R169, R172, R176). LAUNCH_RECEIVE loads a stream whose packet is complete, with
its registers set, and reads its argument table. ICACHE_FILL brings a line that is not cached; of a line of the head bundle
that the cache holds, that line has failed parity: the stream stalls with cause 4 and it is brought again (R375; log 122). BUNDLE_ISSUE at a bundle that is present and legal: it stalls on a flag that is not set and on a
full side queue with the program cycle unchanged, halts with a timing hazard on a pending read (at END once the side engines are idle), drains at END, and otherwise
advances the program cycle by one, clears its flag, posts its side entry and goes to the next bundle. STREAM_DRAIN_DONE
issues END once the side engines are idle, its side entry posted, and the step-end report is sent. The model's own: of a bundle with
both kinds of hazard the scalar register's is reported (log 123), and what a stall does to stall_flag and a first bundle to the counts (logs
57, 101).
The end of a run and what stops one (R168, R173 to R177, R375, R376). STEP_END_REPORT, once the side engines are idle (log
103), releases the stream: the last of a run completes its OP_LAUNCH_GRAPH or ends its loop's step; one whose check fails is sent again, and so is a fault report or a stop's confirmation of a halted stream (log 124). STOP_REQUEST halts a
stream, STOP_CONFIRM confirms it, HAZARD_REPORT costs the owner its context, STREAM_RELEASE frees a confirmed stream whose
owner is gone. A launch that is asked for again is sent again three times; the next time the partition is reset. ALARM_SET
places an alarm, or reports a late one. The model's own as well: what counts as a launch on its way (log 68). -/
def Obligations.StreamsRunAndEnd : Prop :=
  ((∀ (p st : Nat) (l : Launch) (s : State), (streamAt p st s).launch = some l →
     ((streamAt p st s).state = .idle → (streamAt p st s).confirmed = false → packetReady 1 (streamQueue p st) s = true →
       ∃ t, Machine.exec (.launchReceive p st) s = .next t ∧
         streamAt p st t = { streamAt p st s with
           state := .loading, cycle := 0, flags := 0, loops := [], pc := 0, pend := 0,
           regs := [BitVec.ofNat 64 l.ordinal, BitVec.ofNat 64 l.parts.length, BitVec.ofNat 64 l.batch, BitVec.ofNat 64 l.step] ++
             List.replicate 28 0 } ∧ t.port = (readTable p l (argTable l s) (16 * l.args.length) s).port ∧
         OtherStreamsSame p st s t ∧ OnlyIn [.port, .slices, .chest] s t) ∧
     (((streamAt p st s).state ≠ .idle ∨ (streamAt p st s).confirmed = true ∨ packetReady 1 (streamQueue p st) s = false) → Machine.exec (.launchReceive p st) s = .next s)) ∧
   (∀ (p st off : Nat) (l : Launch) (s : State), (streamAt p st s).launch = some l →
     ((streamAt p st s).active = true → off < imTextLen (launchImage l s) → lineOf l off ∉ (sliceAt p s).lines →
       ∃ t, Machine.exec (.icacheFill p st off) s = .next t ∧ lineOf l off ∈ (sliceAt p t).lines ∧
         (streamAt p st t).state = (streamAt p st s).state ∧ (streamAt p st t).pc = (streamAt p st s).pc ∧
         ((streamAt p st s).stallCause ≠ 4 ∨ off / 256 * 256 ∉ linesOf (streamAt p st s).pc (headLen (streamAt p st s) l s) →
           (sliceAt p t).misses = (sliceAt p s).misses) ∧
         ((streamAt p st s).stallCause = 4 → off / 256 * 256 ∈ linesOf (streamAt p st s).pc (headLen (streamAt p st s) l s) →
           (sliceAt p t).misses = satInc 32 (sliceAt p s).misses) ∧
         OtherStreamsSame p st s t ∧ OnlyIn [.port, .hub, .slices] s t) ∧
     ((streamAt p st s).active = true → off < imTextLen (launchImage l s) → lineOf l off ∈ (sliceAt p s).lines →
       off / 256 * 256 ∈ linesOf (streamAt p st s).pc (headLen (streamAt p st s) l s) →
       ∃ t, Machine.exec (.icacheFill p st off) s = .next t ∧ lineOf l off ∈ (sliceAt p t).lines ∧
         (streamAt p st t).pc = (streamAt p st s).pc ∧ (streamAt p st t).cycle = (streamAt p st s).cycle ∧
         ((streamAt p st s).state = .loading → (streamAt p st t).state = .loading) ∧
         ((streamAt p st s).state ≠ .loading → (streamAt p st t).stallCause = 4 ∧
           (streamAt p st t).state = (if (streamAt p st s).state = .draining then .draining else .stalled) ∧
           (sliceAt p t).misses = satInc 32 (sliceAt p s).misses) ∧
         OtherStreamsSame p st s t ∧ OnlyIn [.port, .hub, .slices] s t) ∧
     (((streamAt p st s).active = false ∨ imTextLen (launchImage l s) ≤ off ∨ (lineOf l off ∈ (sliceAt p s).lines ∧
         off / 256 * 256 ∉ linesOf (streamAt p st s).pc (headLen (streamAt p st s) l s))) →
       Machine.exec (.icacheFill p st off) s = .next s)) ∧
   (∀ (p st : Nat) (hz : Option (Nat × Nat)) (l : Launch) (s : State),
     let x := streamAt p st s
     let img := launchImage l s
     let b := Ctl.of (fld img (imTextOff img + x.pc) 8)
     x.launch = some l → (x.state = .loading ∨ x.state = .running ∨ x.state = .stalled) → x.pc + b.len ≤ imTextLen img →
     (∀ o ∈ linesOf x.pc b.len, lineOf l o ∈ (sliceAt p s).lines) → lineOf l x.pc ∈ (sliceAt p s).lines →
     b.legal (imSides img) = true →
     let held := b.wait ≠ 63 ∧ x.flags.toNat.testBit b.wait = false
     let full := b.engine ≠ 0 ∧ Config.sideDepth b.engine ≤ sideDepthOf x b.engine
     (held → ∃ t, Machine.exec (.bundleIssue p st hz) s = .next t ∧ (streamAt p st t).stallCause = 1 ∧
       (streamAt p st t).stallFlag = b.wait ∧ (streamAt p st t).cycle = x.cycle ∧ (streamAt p st t).pc = x.pc ∧
       (streamAt p st t).slipCycles = x.slipCycles + 1 ∧ OtherStreamsSame p st s t ∧ OnlyIn [.slices] s t) ∧
     (¬held → full → ∃ t, Machine.exec (.bundleIssue p st hz) s = .next t ∧ (streamAt p st t).stallCause = 2 ∧
       (streamAt p st t).cycle = x.cycle ∧ (streamAt p st t).pc = x.pc ∧
       (streamAt p st t).slipCycles = x.slipCycles + 1 ∧ OtherStreamsSame p st s t ∧ OnlyIn [.slices] s t) ∧
     (¬held → ¬full → ∀ r, x.hazards b = some r → ∃ t, Machine.exec (.bundleIssue p st hz) s = .next t ∧
       HaltedWith p st ⟨.hazard, 0, x.cycle, x.pc, 0xFFFF, r, 0⟩ s t) ∧
     (¬held → ¬full → b.ctl ≠ 4 → x.hazards b = none → ∀ core d, hz = some (core, d) → ∃ t, Machine.exec (.bundleIssue p st hz) s = .next t ∧
       HaltedWith p st ⟨.hazard, 0, x.cycle, x.pc, core, d, 0⟩ s t) ∧
     (¬held → ¬full → b.ctl = 4 → ∃ t, Machine.exec (.bundleIssue p st hz) s = .next t ∧
       (streamAt p st t).state = .draining ∧ (streamAt p st t).cycle = x.cycle ∧ OtherStreamsSame p st s t ∧ OnlyIn [.slices] s t) ∧
     (¬held → ¬full → x.hazards b = none → hz = none → b.ctl ≠ 4 →
       (∀ code, b.next x (imTextLen img) = .error code → ∃ t, Machine.exec (.bundleIssue p st hz) s = .next t ∧
         HaltedWith p st ⟨.engineFault, code, x.cycle, x.pc, 0, 0, 0⟩ s t) ∧
       (∀ loops pc', b.next x (imTextLen img) = .ok (loops, pc') → ∃ t, Machine.exec (.bundleIssue p st hz) s = .next t ∧
         (streamAt p st t).state = .running ∧ (streamAt p st t).cycle = (x.cycle + 1) % 2 ^ 32 ∧ (streamAt p st t).pc = pc' ∧
         (streamAt p st t).loops = loops ∧ (streamAt p st t).stallCause = 0 ∧
         (streamAt p st t).flags = (if b.clear then x.flags &&& ~~~(1#64 <<< b.wait) else x.flags) ∧
         (streamAt p st t).engines = (if b.engine = 0 then x.engines else x.engines.modify (b.engine - 1) (fun g =>
           { g with queue := g.queue ++ [{ entry := b.entry, textOffset := x.pc, cycle := x.cycle }] })) ∧
         (streamAt p st t).regs = x.regs ∧ OtherStreamsSame p st s t ∧ OnlyIn [.port, .mem, .hub, .slices] s t))) ∧
   (∀ (p st : Nat) (l : Launch) (s : State), (streamAt p st s).launch = some l → (streamAt p st s).state = .draining →
     (∀ hz, sideBusy (streamAt p st s) = true → ∃ t, Machine.exec (.bundleIssue p st hz) s = .next t ∧
       (streamAt p st t).stallCause = 3 ∧ (streamAt p st t).state = .draining ∧ OnlyIn [.slices] s t) ∧
     (sideBusy (streamAt p st s) = true → Machine.exec (.streamDrainDone p st) s = .next s) ∧
     (sideBusy (streamAt p st s) = false → Machine.exec (.bundleIssue p st none) s = .next s) ∧
     (∀ core d, sideBusy (streamAt p st s) = false → ∃ t, Machine.exec (.bundleIssue p st (some (core, d))) s = .next t ∧
       HaltedWith p st ⟨.hazard, 0, (streamAt p st s).cycle, (streamAt p st s).pc, core, d, 0⟩ s t) ∧
     (let x := streamAt p st s
      let b := Ctl.of (fld (launchImage l s) (imTextOff (launchImage l s) + x.pc) 8)
      sideBusy x = false → ∃ t, Machine.exec (.streamDrainDone p st) s = .next t ∧
       (streamAt p st t).state = .idle ∧ (streamAt p st t).confirmed = true ∧ (streamAt p st t).launch = some l ∧
       (streamAt p st t).cycle = (x.cycle + 1) % 2 ^ 32 ∧ (streamAt p st t).alarms = [] ∧
       (∀ a ∈ x.alarms, ⟨a.id, false, decide (a.cycle ≠ x.cycle)⟩ ∈ (streamAt p st t).alarmReports) ∧
       (streamAt p st t).engines = (if b.engine = 0 then x.engines else x.engines.modify (b.engine - 1) (fun g =>
         { g with queue := g.queue ++ [{ entry := b.entry, textOffset := x.pc, cycle := x.cycle }] })) ∧
       t.port.out.getLast? = some (.report p st) ∧ OtherStreamsSame p st s t ∧
       OnlyIn [.port, .mem, .hub, .front, .slices, .chest, .jnl] s t))) ∧
  ((∀ (p st : Nat) (l : Launch) (s : State), (streamAt p st s).launch = some l → (streamAt p st s).state = .idle →
     (streamAt p st s).confirmed = true → tabWf s.slices = true →
     (∀ ok, sideBusy (streamAt p st s) = true → Machine.exec (.stepEndReport p st ok) s = .next s) ∧
     (sideBusy (streamAt p st s) = false →
     ((sliceAt p s).badCrc < 2 → ∃ t, Machine.exec (.stepEndReport p st false) s = .next t ∧
       (sliceAt p t).badCrc = (sliceAt p s).badCrc + 1 ∧ t.port.out.getLast? = some (.report p st) ∧
       streamAt p st t = streamAt p st s ∧ OnlyIn [.port, .mem, .slices, .hutch] s t) ∧
     (2 ≤ (sliceAt p s).badCrc → (∀ g ∈ s.watch.stages, g.stage ≠ 3 ∧ g.stage ≠ 4) →
       (∀ y ∈ (sliceAt p s).streams, y.launch.isSome = true → y.state ≠ .loading ∧ (y.state = .idle → y.confirmed = true)) →
       ∃ t, Machine.exec (.stepEndReport p st false) s = .next t ∧ t.watch.lastMc = 6 ∧ (stageOf 3 0 t).isSome = true) ∧
     (∃ t, Machine.exec (.stepEndReport p st true) s = .next t ∧ (streamAt p st t).launch = none ∧
       (streamAt p st t).state = .idle ∧ (sliceAt p t).badCrc = 0 ∧
       ((∃ e ∈ streamsOf (sameLaunch l) s, e ≠ (p, st)) → t.front = s.front ∧ t.trestle = s.trestle) ∧
       ((∀ e ∈ streamsOf (sameLaunch l) s, e = (p, st)) →
         (∀ k pos m, l.cmd = some (k, pos) → s.cmd k pos = some m → m.latch = none →
           (t.cmd k pos).map (fun x => (x.latch, x.running)) = some (some ⟨.ok, 0⟩, false)) ∧
         (∀ i lp, l.cmd = none → l.loopId = some i → tget s.trestle.loops i = some lp →
           (tget t.trestle.loops i).map (fun x => (x.phase, x.endedAt, x.step)) = some (.ended, s.now, lp.step)))))) ∧
   (∀ (p st : Nat) (l : Launch) (s : State), (streamAt p st s).launch = some l → (streamAt p st s).state = .halted →
     ((streamAt p st s).reporting = true → (sliceAt p s).badCrc < 2 → ∃ t, Machine.exec (.stepEndReport p st false) s = .next t ∧
       (sliceAt p t).badCrc = (sliceAt p s).badCrc + 1 ∧ t.port.out.getLast? = some (.report p st) ∧
       streamAt p st t = streamAt p st s ∧ OnlyIn [.port, .mem, .slices, .hutch] s t) ∧
     ((streamAt p st s).reporting = false → Machine.exec (.stepEndReport p st false) s = .next s) ∧
     Machine.exec (.stepEndReport p st true) s = .next s) ∧
   (∀ (p st : Nat) (s : State),
     let x := streamAt p st s
     let runs := x.active = true ∨ (x.state = .idle ∧ x.launch.isSome = true ∧ x.confirmed = false)
     (x.stopSent = true → runs → ∃ t, Machine.exec (.stopRequest p st) s = .next t ∧ (streamAt p st t).state = .halted ∧
       (streamAt p st t).engines = x.engines.map SideEngine.discard ∧ (streamAt p st t).fault = x.fault ∧
       OtherStreamsSame p st s t ∧ OnlyIn [.slices] s t) ∧
     ((x.stopSent = false ∨ ¬runs) → Machine.exec (.stopRequest p st) s = .next s)) ∧
   (∀ (p st : Nat) (l : Launch) (s : State), (streamAt p st s).launch = some l → (streamAt p st s).state = .halted →
     ((streamAt p st s).confirmed = false → (∀ g ∈ (streamAt p st s).engines, g.busy = false ∧ g.waiting = false) →
       ∃ t, Machine.exec (.stopConfirm p st) s = .next t ∧ (streamAt p st t).confirmed = true ∧
         (streamAt p st t).state = .halted ∧ t.port.out = s.port.out ++ [.report p st] ∧ OtherStreamsSame p st s t) ∧
     ((∃ g ∈ (streamAt p st s).engines, g.busy = true ∨ g.waiting = true) → Machine.exec (.stopConfirm p st) s = .next s) ∧
     (∀ f k pos m c, (streamAt p st s).fault = some f → (streamAt p st s).confirmed = true → l.cmd = some (k, pos) →
       s.cmd k pos = some m → m.latch = none → tget s.contexts (k / 256) = some c → c.state = .active →
       ∃ t, Machine.exec (.hazardReport p st) s = .next t ∧ (streamAt p st t).fault = none ∧
         (t.cmd k pos).map (·.latch) = some (some ⟨f.status, f.aux⟩) ∧
         FaultTeardownBegun (k / 256) s t (fun i => i.status = f.status ∧ i.aux = f.aux ∧ i.cycle = f.cycle ∧
           i.textOffset = f.textOffset ∧ i.core = f.core ∧ i.address = f.address)) ∧
     (∀ f c, (streamAt p st s).fault = some f → (streamAt p st s).confirmed = true → l.cmd = none →
       tget s.contexts l.ctx = some c → c.state = .active → ∃ t, Machine.exec (.hazardReport p st) s = .next t ∧
         (streamAt p st t).fault = none ∧ FaultTeardownBegun l.ctx s t (fun i => i.status = f.status ∧ i.aux = f.aux ∧
           i.partition = p ∧ i.stream = st)) ∧
     (∀ k pos, (streamAt p st s).confirmed = true → (streamAt p st s).fault = none → l.cmd = some (k, pos) →
       (s.cmd k pos = none → ∃ t, Machine.exec (.streamRelease p st) s = .next t ∧ (streamAt p st t).launch = none ∧
         (streamAt p st t).state = .idle ∧ t.port.out.getLast? = some (.release p st) ∧ OtherStreamsSame p st s t ∧
         OnlyIn [.port, .slices, .sched, .chest, .jnl, .link] s t) ∧
       ((s.cmd k pos).isSome = true → Machine.exec (.streamRelease p st) s = .next s)) ∧
     (∀ i, (streamAt p st s).confirmed = true → (streamAt p st s).fault = none → l.cmd = none → l.loopId = some i →
       (tget s.trestle.loops i = none → ∃ t, Machine.exec (.streamRelease p st) s = .next t ∧ (streamAt p st t).launch = none ∧
         (streamAt p st t).state = .idle ∧ t.port.out.getLast? = some (.release p st) ∧ OtherStreamsSame p st s t ∧
         OnlyIn [.port, .slices, .sched, .chest, .jnl, .link] s t) ∧
       ((tget s.trestle.loops i).isSome = true → Machine.exec (.streamRelease p st) s = .next s))) ∧
   (∀ (p st cause : Nat) (l : Launch) (s : State), (streamAt p st s).launch = some l → (streamAt p st s).cycle = 0 →
     ((streamAt p st s).state = .loading ∨ ((streamAt p st s).state = .idle ∧ (streamAt p st s).confirmed = false)) →
     ((streamAt p st s).retries < 3 → ∃ t, Machine.exec (.launchRetryRequest p st cause) s = .next t ∧
       streamAt p st t = { streamAt p st s with state := .idle, retries := (streamAt p st s).retries + 1 } ∧
       t.port.out[s.port.out.length]? = some (.retryRequest p st cause) ∧ t.port.out.getLast? = some (.launch p st) ∧
       OtherStreamsSame p st s t ∧ OnlyIn [.port, .mem, .slices, .chest, .hutch] s t) ∧
     (3 ≤ (streamAt p st s).retries → (∀ g ∈ s.watch.stages, g.stage ≠ 3 ∧ g.stage ≠ 4) →
       ∃ t, Machine.exec (.launchRetryRequest p st cause) s = .next t ∧ (stageOf 2 p t).isSome = true)) ∧
   (∀ (p st cycle id : Nat) (pre : Bool) (s : State), (streamAt p st s).active = true →
     let x := streamAt p st s
     let dropped := (pre = true ∧ 1 ≤ s.power.level) ∨ 16 ≤ x.alarms.length
     (dropped → Machine.exec (.alarmSet p st cycle id pre) s = .next s) ∧
     (¬dropped → cycle < x.cycle → ∃ t, Machine.exec (.alarmSet p st cycle id pre) s = .next t ∧
       streamAt p st t = { x with alarmReports := x.alarmReports ++ [⟨id, true, false⟩] } ∧
       t.port.out = s.port.out ++ [.alarm p st cycle id pre, .alarmReport p st id true false] ∧
       OtherStreamsSame p st s t ∧ OnlyIn [.port, .slices] s t) ∧
     (¬dropped → x.cycle ≤ cycle → ∃ t, Machine.exec (.alarmSet p st cycle id pre) s = .next t ∧
       streamAt p st t = { x with alarms := x.alarms ++ [⟨cycle, id, pre⟩] } ∧
       t.port.out = s.port.out ++ [.alarm p st cycle id pre] ∧
       OtherStreamsSame p st s t ∧ OnlyIn [.port, .slices] s t)))

/-- The scheduler's rows (R166, R266, R267, R274, R277, R279 to R281, R284). Each answers a next state. A charge tick adds the
CCLK cycles of every stream that runs, times its cores, to its context's figures and pass, with an ENG record. An idle graph
residency of an RT context is released when it expires. A save puts the scratch storage into the save frames and the benches
into CLEARING; a restore brings it back and the benches are HELD; a clear leaves no word and no cached line. A decision pass
follows each, which changes no memory, and with no job waiting no bench and no residency. The model's own: the rounding before the
factor 4 (log 14) and the clear of benches between owners (log 59). -/
def Obligations.SchedulerMovesBenches : Prop :=
  (∀ (u : Unit) (s : State), tabWf s.slices = true → ∃ t, Machine.exec (.chargeTick u) s = .next t ∧ t.mem = s.mem ∧ t.contexts.map (·.1) = s.contexts.map (·.1) ∧
    (∀ p st, (streamAt p st s).active = true → (streamAt p st s).launch.isSome = true →
      (streamAt p st t).charged = (streamAt p st s).ran ∧ (streamAt p st t).state = (streamAt p st s).state) ∧
    ((∀ p st, (streamAt p st s).active = false) → s.sched.jobs = [] → OnlyIn [.sched, .watch] s t ∧
      t.sched = { s.sched with gvt := t.sched.gvt })) ∧
  (∀ (p st : Nat) (l : Launch) (c : Context) (u : Unit) (s : State), tabWf s.slices = true → (streamAt p st s).active = true →
    (streamAt p st s).launch = some l → (∀ p' st', (streamAt p' st' s).active = true → p' = p ∧ st' = st) →
    tget s.contexts l.ctx = some c → s.sched.jobs = [] →
    let k := 8 * l.benches.length * ((streamAt p st s).ran - (streamAt p st s).charged)
    let factor := if 3 ≤ s.power.level ∧ ctxCls s l.ctx = .bat then 4 else 1
    let inc := ceilDiv (k * stride s l.ctx) (2 ^ 32) * factor
    0 < k → ∃ t, Machine.exec (.chargeTick u) s = .next t ∧
      tgetD t.hub.uses l.ctx Use.zero =
        { tgetD s.hub.uses l.ctx Use.zero with core := ((tgetD s.hub.uses l.ctx Use.zero).core + k) % 2 ^ 64 } ∧
      (∀ d, d ≠ l.ctx → tget t.hub.uses d = tget s.hub.uses d ∧ passOf t d = passOf s d) ∧
      (lag 64 (passOf s l.ctx) s.sched.gvt + inc ≤ 2 ^ 62 → passOf t l.ctx = (passOf s l.ctx + inc) % 2 ^ 64) ∧
      (2 ^ 62 < lag 64 (passOf s l.ctx) s.sched.gvt + inc → passOf t l.ctx = (s.sched.gvt + 2 ^ 62) % 2 ^ 64) ∧
      (s.hub.burSeq, Usage.eng c.rcd.tenant k) ∈ t.hub.burFifo ++ t.hub.burHeld ∧
      (streamAt p st t).charged = (streamAt p st s).ran ∧ OnlyIn [.hub, .slices, .sched, .watch] s t) ∧
  (∀ (r at_ : Nat) (x : Residency) (s : State), tget s.sched.residencies r = some x → x.blockedAt = some at_ →
    (rtExpired x s = true → x.running = false → x.moving = false →
      ∃ t u, Machine.exec (.evictAfterExpiry r) s = .next t ∧ t = decisionPass u ∧ t.mem = s.mem ∧
        (s.sched.jobs = [] → t.sched.benches = u.sched.benches ∧ t.sched.residencies = u.sched.residencies) ∧
        tget u.sched.residencies r = none ∧
        (∀ b ∈ x.benches, (benchAt b s).state ≠ .out → (benchAt b u).state = .clearing ∧ (benchAt b u).res = none) ∧
        (∀ b, b ∉ x.benches → benchAt b u = benchAt b s) ∧ u.sched.vacates = satInc 32 s.sched.vacates) ∧
    ((rtExpired x s = false ∨ x.running = true ∨ x.moving = true) →
      (s.now - at_ < s.sched.evictAfter * Config.us → Machine.exec (.evictAfterExpiry r) s = .next s) ∧
      (s.sched.evictAfter * Config.us ≤ s.now - at_ →
        ∃ t, Machine.exec (.evictAfterExpiry r) s = .next t ∧ t = decisionPass s ∧ t.mem = s.mem))) ∧
  (∀ (r : Nat) (x : Residency) (s : State), tget s.sched.residencies r = some x → x.moving = true → x.benches ≠ [] → s.MemOk →
    14 ≤ s.wrd.pageLog2 → s.wrd.pageLog2 ≤ 20 → x.saveFrames.length = saveCount x.benches.length s → x.saveFrames.Nodup →
    x.benches.Nodup → saveHeld x s = false →
    (x.saved = false → (∀ b ∈ x.benches, (benchAt b s).state = .saving) →
      ∃ t u, Machine.exec (.saveLanded r) s = .next t ∧ t = decisionPass u ∧ t.mem = u.mem ∧
        (s.sched.jobs = [] → t.sched.benches = u.sched.benches ∧ t.sched.residencies = u.sched.residencies) ∧
        (∀ b ∈ x.benches, (benchAt b u).state = .clearing ∧ (benchAt b u).res = none) ∧
        (∀ b, b ∉ x.benches → benchAt b u = benchAt b s) ∧
        tget u.sched.residencies r = some { x with benches := [], saved := true, moving := false, blockedAt := none } ∧
        (∀ i, i < savePieces x.benches → memRead (savePlace x.saveFrames i s) savePiece t =
          readN s.mem.scratch (scratchPiece x.benches i) savePiece) ∧ t.mem.scratch = s.mem.scratch) ∧
    (x.saved = true → (∀ b ∈ x.benches, (benchAt b s).state = .restoring) → s.wrd.mapout = none → s.wrd.mapoutWait = [] →
      ∃ t u, Machine.exec (.restoreLanded r) s = .next t ∧ t = decisionPass u ∧ t.mem = u.mem ∧
        (s.sched.jobs = [] → t.sched.benches = u.sched.benches ∧ t.sched.residencies = u.sched.residencies) ∧
        (∀ b ∈ x.benches, (benchAt b u).state = .held) ∧ (∀ b, b ∉ x.benches → benchAt b u = benchAt b s) ∧
        tget u.sched.residencies r = some { x with saved := false, moving := false, saveFrames := [], regs := [] } ∧
        (ctxSwap s x.ctx = false → ∀ f ∈ x.saveFrames, tget u.wrd.frames f = none) ∧
        (ctxSwap s x.ctx = true → u.wrd.frames = s.wrd.frames) ∧
        (∀ i, i < savePieces x.benches → readN t.mem.scratch (scratchPiece x.benches i) savePiece =
          memRead (savePlace x.saveFrames i s) savePiece s))) ∧
  (∀ (b : Nat) (s : State),
    ((benchAt b s).state = .clearing → ∃ t u, Machine.exec (.clearDone b) s = .next t ∧ t = decisionPass u ∧
      (s.sched.jobs = [] → t.sched.benches = u.sched.benches ∧ t.sched.residencies = u.sched.residencies) ∧
      benchAt b u = { state := if (benchAt b s).claim.isSome then .claimed else .free, res := none, claim := (benchAt b s).claim } ∧
      (∀ d, d ≠ b → benchAt d u = benchAt d s) ∧
      (∀ core byte, core < 8 → byte < 2 ^ 20 → cellGet t.mem.scratch (scratchAddr b core byte) = 0) ∧
      (∀ a, (a < scratchAddr b 0 0 ∨ scratchAddr b 0 0 + 8 * 2 ^ 20 ≤ a) → cellGet t.mem.scratch a = cellGet s.mem.scratch a) ∧
      (∀ ln ∈ (sliceAt (b / 4) u).lines, ln.1 ≠ b % 4) ∧ t.mem.fast = s.mem.fast ∧ t.mem.slow = s.mem.slow ∧ t.mem.host = s.mem.host) ∧
    ((benchAt b s).state ≠ .clearing → Machine.exec (.clearDone b) s = .next s))

/-- OP_COPY and OP_FILL (R112, R505): the command becomes a job of the mover with the fewest bytes outstanding, the lower
number first, with its ranges, its length, its context and the tenant that pays; one whose object is gone ends with ST_STALE_HANDLE.
MOVER_PIECE_LANDED (R85, R112, R193, R231, R239, R246, R247, R253, R295, R362, R451, R505): in a slot of a tenant's sealed work or
of the others' a mover ends the slot's jobs that were told to stop, else serves its first foreground job there, else its first
background one, which comes ahead for up to 10 us in each 1 ms (one piece after each foreground piece: log 117), 4 KiB at a time. It
waits while a job given earlier has yet to move a frame of it, or a partition reset holds a channel. A copy's piece carries the source
bytes to the destination, a fill's the pattern, a frame's to its new frame, whose rest is zero; the last piece ends the job and retires
its command with ST_OK, makes a model RESIDENT for those that wait, clears a frame, or has brought a page to its frame, converted
there where the error gate, or in a replay the record, has it so, and frees the frame it came from. -/
def Obligations.MoversCopyAndFill : Prop :=
  ((∀ (c q pos : Nat) (m : Cmd) (s : State), starting (qkey c q) pos 0x03 s = some m → c < 16384 → q < 256 →
     let k := qkey c q
     (∀ a b i, operandLoc k m 16 24 s = some a → operandLoc k m 20 32 s = some b → LeastMover i s →
       ∃ t, Machine.exec (.opCopy c q pos) s = .next t ∧ t.cmd k pos = some { m with started := true } ∧
         JobGiven i { id := s.wrd.nextJob, mover := i, work := s.tenantOf c, kind := .copy c q pos a b, total := fld m.entry 40 8, done := 0, background := false,
                      stopped := false, ctx := some c, tenant := s.tenantOf c, key := s.tenantOf c } s t ∧ OtherQueuesSame k s t ∧ OnlyIn [.front, .wrd, .chest, .watch, .jnl] s t) ∧
     ((operandLoc k m 16 24 s = none ∨ operandLoc k m 20 32 s = none) → ∃ t, Machine.exec (.opCopy c q pos) s = .next t ∧
       (t.cmd k pos).map (·.latch) = some (some ⟨.stale, 16⟩) ∧ OtherQueuesSame k s t ∧ OnlyIn [.front, .chest, .jnl] s t)) ∧
   (∀ (c q pos : Nat) (m : Cmd) (s : State), starting (qkey c q) pos 0x04 s = some m → c < 16384 → q < 256 →
     let k := qkey c q
     (∀ a i, operandLoc k m 16 24 s = some a → LeastMover i s →
       ∃ t, Machine.exec (.opFill c q pos) s = .next t ∧ t.cmd k pos = some { m with started := true } ∧
         JobGiven i { id := s.wrd.nextJob, mover := i, work := s.tenantOf c, kind := .fill c q pos a (slice m.entry 40 (fld m.entry 20 1)), total := fld m.entry 32 8, done := 0,
                      background := false, stopped := false, ctx := some c, tenant := s.tenantOf c, key := s.tenantOf c } s t ∧
         OtherQueuesSame k s t ∧ OnlyIn [.front, .wrd, .chest, .watch, .jnl] s t) ∧
     (operandLoc k m 16 24 s = none → ∃ t, Machine.exec (.opFill c q pos) s = .next t ∧
       (t.cmd k pos).map (·.latch) = some (some ⟨.stale, 16⟩) ∧ OtherQueuesSame k s t ∧ OnlyIn [.front, .chest, .jnl] s t))) ∧
  (∀ (mv i : Nat) (slot : Option Nat) (x : Mover) (j : MoveJob) (s : State), s.wrd.movers[mv]? = some x → s.MemOk →
     let exec := Machine.exec (.moverPieceLanded mv slot) s
     let ours := fun (g : MoveJob) => inSlot slot g s = true
     let foreground := ∃ g ∈ x.jobs, ours g ∧ g.background = false
     let background := ∃ g ∈ x.jobs, ours g ∧ g.background = true
     let ahead := x.foreground = true ∧ (x.aheadMs ≠ s.now / (1000 * Config.us) ∨ x.ahead < 1250)
     ((∃ g ∈ x.jobs, g.stopped = true ∧ ours g) → ∃ t, exec = .next t ∧
       t.wrd.movers[mv]? = some { x with jobs := x.jobs.filter (fun g => !(g.stopped && inSlot slot g s)),
                                         progress := (x.progress + 1) % 2 ^ 32, advanced := s.now } ∧
       OnlyIn [.front, .wrd] s t) ∧
     ((∀ g ∈ x.jobs, inSlot slot g s = false) → exec = .next s) ∧
     ((∀ g ∈ x.jobs, ours g → g.stopped = false) → x.jobs[i]? = some j → ours j →
       (∀ k g, k < i → x.jobs[k]? = some g → ours g → g.background ≠ j.background) →
       (j.background = true → ahead ∨ ¬foreground) → (j.background = false → ¬ahead ∨ ¬background) →
       let n := min 4096 (j.total - j.done)
       let last := j.total ≤ j.done + n
       let rest := if last then x.jobs.eraseIdx i else x.jobs.modify i (fun g => { g with done := g.done + n })
       let moved := fun (t : State) => ∃ y, t.wrd.movers[mv]? = some y ∧ y.jobs = rest ∧ y.progress = (x.progress + 1) % 2 ^ 32 ∧
         y.advanced = s.now ∧ ((j.background = false ∨ ¬foreground) → y.foreground = !j.background) ∧
         (j.background = true → foreground → y.foreground = false ∧ y.aheadMs = s.now / (1000 * Config.us) ∧
           y.ahead = (if x.aheadMs = s.now / (1000 * Config.us) then x.ahead + 1 else 1))
       let retired := fun (c q pos : Nat) (t : State) => ∀ m, s.cmd (qkey c q) pos = some m → m.latch = none →
         (t.cmd (qkey c q) pos).map (fun y => (y.latch, y.running)) = some (if last then (some ⟨.ok, 0⟩, false) else (none, m.running))
       ((jobWaits j s = true ∨ j.held n s = true) → exec = .next s) ∧
       (jobWaits j s = false → j.held n s = false →
         (∀ c q pos a b, j.kind = .copy c q pos a b → ∃ t, exec = .next t ∧ moved t ∧ retired c q pos t ∧
           let stopped := (b.space = .host ∧ hostDropped (b.plus j.done) s = true) ∨ hostStopped (a.plus j.done) s = true
           (¬stopped → memRead (b.plus j.done) n t = memRead (a.plus j.done) n s) ∧ (stopped → t.mem = s.mem) ∧
           UnchangedOutside (b.plus j.done) n s t ∧ OnlyIn [.port, .mem, .hub, .front, .wrd] s t) ∧
         (∀ c q pos b pat, j.kind = .fill c q pos b pat → ∃ t, exec = .next t ∧ moved t ∧ retired c q pos t ∧
           ((b.space ≠ .host ∨ hostDropped (b.plus j.done) s = false) →
             memRead (b.plus j.done) n t = (List.range n).map (fun i => (pat[i % pat.length]?).getD 0)) ∧
           UnchangedOutside (b.plus j.done) n s t ∧ OnlyIn [.port, .mem, .hub, .front, .wrd] s t) ∧
         (∀ k src fs mo f, j.kind = .model k src fs → ¬last → tget s.wrd.models k = some mo →
           mo.frames[j.done / pageBytes s]? = some f → hostStopped (src.plus j.done) s = false →
           ∃ t, exec = .next t ∧ moved t ∧ OnlyIn [.port, .mem, .hub, .wrd] s t ∧
             memRead ((frameLoc f s).plus (j.done % pageBytes s)) n t = memRead (src.plus j.done) n s ∧
             UnchangedOutside ((frameLoc f s).plus (j.done % pageBytes s)) n s t) ∧
         (∀ k src fs mo o, j.kind = .model k src fs → last → tget s.wrd.models k = some mo → mo.frames ≠ [] →
           mo.orphan = false → tget s.objects mo.srcKey = some o → o.freePending = false →
           ∃ t, exec = .next t ∧ tget t.wrd.models k = some { mo with state := .resident, waiters := [] } ∧
             (∀ w m, w ∈ mo.waiters → s.cmd (qkey w.1 w.2.1) w.2.2 = some m → m.latch = none →
               (t.cmd (qkey w.1 w.2.1) w.2.2).map (·.latch) = some (some ⟨.ok, 0⟩))) ∧
         (∀ f, j.kind = .zero f → last → (frameAt f s).state = .free → (frameAt f s).zeroPending = true →
           ∃ t, exec = .next t ∧ frameAt f t = Frame.of .free false ∧
             (∀ g, g ≠ f → tget t.wrd.frames g = tget s.wrd.frames g) ∧
             memRead (frameLoc f s) (pageBytes s) t = zeros (pageBytes s) ∧ OnlyIn [.port, .mem, .wrd] s t) ∧
         (∀ src dst, ((∃ fmt l d e st, j.kind = .page src dst fmt l d e st) ∨ j.kind = .cow src dst ∨ j.kind = .saveMove src dst) →
           ¬last → src ≠ dst → 14 ≤ s.wrd.pageLog2 →
           let k := min n (j.carries s - j.done)
           ∃ t, exec = .next t ∧ moved t ∧ t.wrd.frames = s.wrd.frames ∧ OnlyIn [.port, .mem, .hub, .wrd] s t ∧
             (j.converts s = true → t.mem = s.mem) ∧
             (j.converts s = false →
               memRead ((frameLoc dst s).plus j.done) k t = memRead ((frameLoc src s).plus j.done) k s ∧
               (j.done ≠ 0 → UnchangedOutside ((frameLoc dst s).plus j.done) k s t) ∧
               (j.done = 0 → memRead ((frameLoc dst s).plus k) (pageBytes s - k) t = zeros (pageBytes s - k) ∧
                 UnchangedOutside (frameLoc dst s) (pageBytes s) s t))) ∧
         (∀ src dst fmt l demote early step, j.kind = .page src dst fmt l demote early step → last → src ≠ dst →
           passedOn j dst s = false → s.wrd.mapout = none → s.wrd.mapoutWait = [] → (frameAt dst s).state = .kv →
           (frameAt dst s).holders ≠ 0 →
           let was := if early then (frameAt dst s).format else (frameAt src s).format
           let k := min n (j.carries s - j.done)
           (j.converts s = false → 14 ≤ s.wrd.pageLog2 → ∃ t, exec = .next t ∧ (early = false → tget t.wrd.frames src = none) ∧
             frameAt dst t = { frameAt dst s with format := was } ∧
             memRead ((frameLoc dst s).plus j.done) k t = memRead ((frameLoc src s).plus j.done) k s) ∧
           (∀ u lp, demote = true → l = some u → tget s.trestle.loops u = some lp → fmt ≠ was → early = false →
             let page := memRead (frameLoc src s) (pageBytes s) s
             let gated := lp.replay.isNone && gateFails (pageMse fmt page) lp.params.mse page
             ∃ t lp', exec = .next t ∧ tget t.wrd.frames src = none ∧
               frameAt dst t = { frameAt dst s with format := if gated then was else fmt } ∧
               tget t.trestle.loops u = some lp' ∧ lp'.stats.gated = lp.stats.gated + b2n gated ∧
               memRead (frameLoc dst s) (pageBytes s) t = if gated then page else padTo (pageBytes s) (requant fmt page))))))

/-- OP_MODEL_LOAD (R254, R29): refused in the order of R254; from a swap-mode context the model is IN_PLACE at once; where
there is room it is LOADING with its frames and a work item waits for MC1; where nothing can be evicted for it the command
ends with ST_NO_MEMORY and aux 6 and no model is registered. The model's own: a swap-mode context's load has no check 3 (log 127), a
model is last used at its load until a loop launches it (log 126), and which free frames are taken (log 11).
OP_MODEL_PIN, OP_MODEL_UNPIN (R255, R257): a pin beyond half of max_frames ends with ST_NO_MEMORY and aux 7; a pin counts
and retires where the model is RESIDENT or IN_PLACE, starts miss service where it is EVICTED, and waits otherwise; an unpin
counts down, not below zero, and removes a model out of use whose source object is freed. -/
def Obligations.ModelsAreLoadedAndPinned : Prop :=
  (∀ (c q pos : Nat) (frames : List Nat) (m : Cmd) (s : State), starting (qkey c q) pos 0x0C s = some m →
     c < 16384 → q < 256 →
     let k := qkey c q
     let n := ceilDiv (fld m.entry 40 8) (pageBytes s)
     let id := s.wrd.nextModel
     let refused := fun (st : Status) (aux : Nat) => ∃ t, Machine.exec (.opModelLoad c q pos frames) s = .next t ∧
       (t.cmd k pos).map (·.latch) = some (some ⟨st, aux⟩) ∧ OtherQueuesSame k s t ∧ OnlyIn [.front, .chest, .jnl] s t
     let known := (modelOf (s.tenantOf c) (fld m.entry 16 8) s).isSome = true
     let full := 4096 ≤ s.wrd.models.length
     let big := ctxSwap s c = false ∧ s.wrd.maxFrames < n
     let room := hotFrames s + n ≤ s.wrd.maxFrames ∧ n ≤ fastFreeFrames s
     let entered := fun (st : ModelState) (fs : List Nat) (ws : List (Nat × Nat × Nat)) (src : Loc) =>
       ({ tenant := (s.tenantOf c).getD 0, key := fld m.entry 16 8, state := st, frames := fs, count := n, pins := 0,
          srcKey := objKey c (hIndex (fld m.entry 24 4)), src := src, srcOffset := fld m.entry 32 8, length := fld m.entry 40 8,
          ctx := c, lastUse := s.now, waiters := ws, orphan := false } : Model)
     (known → refused .malformed 16) ∧
     (¬known → full → refused .noMemory 1) ∧
     (¬known → ¬full → big → refused .noMemory 6) ∧
     (∀ src, ¬known → ¬full → ¬big → operandLoc k m 24 32 s = some src →
       (ctxSwap s c = true → ∃ t, Machine.exec (.opModelLoad c q pos frames) s = .next t ∧
         tget t.wrd.models id = some (entered .inPlace [] [] src) ∧ t.wrd.frames = s.wrd.frames ∧
         (∀ i, i ≠ id → tget t.wrd.models i = tget s.wrd.models i) ∧ t.wrd.nextModel = id + 1 ∧
         (t.cmd k pos).map (·.latch) = some (some ⟨.ok, 0⟩) ∧ OnlyIn [.objects, .front, .wrd, .chest, .jnl] s t) ∧
       (ctxSwap s c = false → room → GoodFrames n frames s → 1 < s.mgmt.cores.length →
         ∃ t, Machine.exec (.opModelLoad c q pos frames) s = .next t ∧
           tget t.wrd.models id = some (entered .loading frames [(c, q, pos)] src) ∧
           (∀ f ∈ frames, frameAt f t = Frame.of .model false) ∧
           (∀ f, f ∉ frames → tget t.wrd.frames f = tget s.wrd.frames f) ∧
           (∀ i, i ≠ id → tget t.wrd.models i = tget s.wrd.models i) ∧ t.wrd.nextModel = id + 1 ∧
           (coreAt 1 t).mailbox = (coreAt 1 s).mailbox ++ [.modelLoad id] ∧ t.cmd k pos = some { m with started := true } ∧
           OnlyIn [.objects, .front, .wrd, .chest, .watch, .jnl, .mgmt] s t) ∧
       (ctxSwap s c = false → ¬room → (∀ e ∈ s.wrd.models, evictable e.2 s = false) → refused .noMemory 6))) ∧
  ((∀ (c q pos id : Nat) (m : Cmd) (x : Model) (s : State), starting (qkey c q) pos 0x0D s = some m → c < 16384 → q < 256 →
     let k := qkey c q
     let pinned := { x with pins := min 65535 (x.pins + 1) }
     let tooMany := x.state ≠ .inPlace ∧ s.wrd.maxFrames < 2 * pinnedFrames id s
     let latch := fun (t : State) => (t.cmd k pos).map (·.latch)
     let others := fun (t : State) => ∀ i, i ≠ id → tget t.wrd.models i = tget s.wrd.models i
     (modelOf (s.tenantOf c) (fld m.entry 16 8) s = none → ∃ t, Machine.exec (.opModelPin c q pos) s = .next t ∧
       latch t = some (some ⟨.stale, 16⟩) ∧ OnlyIn [.front, .chest, .jnl] s t) ∧
     (modelOf (s.tenantOf c) (fld m.entry 16 8) s = some (id, x) → tget s.wrd.models id = some x →
       (tooMany → ∃ t, Machine.exec (.opModelPin c q pos) s = .next t ∧ latch t = some (some ⟨.noMemory, 7⟩) ∧
         OnlyIn [.front, .chest, .jnl] s t) ∧
       (¬tooMany → (x.state = .resident ∨ x.state = .inPlace) → ∃ t, Machine.exec (.opModelPin c q pos) s = .next t ∧
         latch t = some (some ⟨.ok, 0⟩) ∧ tget t.wrd.models id = some pinned ∧ others t ∧ t.wrd.frames = s.wrd.frames ∧
         OnlyIn [.front, .wrd, .chest, .jnl] s t) ∧
       (¬tooMany → x.state = .evicted → 1 < s.mgmt.cores.length → ∃ t, Machine.exec (.opModelPin c q pos) s = .next t ∧
         latch t = some none ∧ others t ∧ t.wrd.frames = s.wrd.frames ∧
         tget t.wrd.models id = some { pinned with state := .miss, frames := [], waiters := x.waiters ++ [(c, q, pos)] } ∧
         (coreAt 1 t).mailbox = (coreAt 1 s).mailbox ++ [.modelLoad id] ∧ OnlyIn [.front, .wrd, .chest, .jnl, .mgmt] s t) ∧
       (¬tooMany → (x.state = .loading ∨ x.state = .miss) → ∃ t, Machine.exec (.opModelPin c q pos) s = .next t ∧
         latch t = some none ∧ others t ∧ t.wrd.frames = s.wrd.frames ∧
         tget t.wrd.models id = some { pinned with waiters := x.waiters ++ [(c, q, pos)] } ∧ OnlyIn [.front, .wrd, .chest, .jnl] s t))) ∧
   (∀ (c q pos id : Nat) (m : Cmd) (x : Model) (s : State), starting (qkey c q) pos 0x0E s = some m → c < 16384 → q < 256 →
     let k := qkey c q
     let latch := fun (t : State) => (t.cmd k pos).map (·.latch)
     (modelOf (s.tenantOf c) (fld m.entry 16 8) s = none → ∃ t, Machine.exec (.opModelUnpin c q pos) s = .next t ∧
       latch t = some (some ⟨.stale, 16⟩) ∧ OnlyIn [.front, .chest, .jnl] s t) ∧
     (modelOf (s.tenantOf c) (fld m.entry 16 8) s = some (id, x) → tget s.wrd.models id = some x →
       (∀ o, tget s.objects x.srcKey = some o → o.freePending = false → x.orphan = false →
         ∃ t, Machine.exec (.opModelUnpin c q pos) s = .next t ∧ latch t = some (some ⟨.ok, 0⟩) ∧
           tget t.wrd.models id = some { x with pins := x.pins - 1 } ∧
           (∀ i, i ≠ id → tget t.wrd.models i = tget s.wrd.models i) ∧ OnlyIn [.front, .wrd, .chest, .jnl] s t) ∧
       (∀ o, tget s.objects x.srcKey = some o → (o.freePending = true ∨ x.orphan = true) →
         modelInUse { x with pins := x.pins - 1 } s = false → x.waiters = [] →
         ∃ t, Machine.exec (.opModelUnpin c q pos) s = .next t ∧ latch t = some (some ⟨.ok, 0⟩) ∧
           tget t.wrd.models id = none ∧ (∀ f ∈ x.frames, tget t.wrd.frames f = none) ∧
           (∀ i, i ≠ id → tget t.wrd.models i = tget s.wrd.models i)))))

/-- Model miss service (R256, R258): with the work item in service and room at hand, the model that misses takes the frames
and a copy from its source begins; where nothing can be evicted it waits; a retry is the same attempt; an item of a model
that is gone is done (log 54); without the item in service nothing happens. -/
def Obligations.MissesAreServed : Prop :=
  ∀ (id : Nat) (frames : List Nat) (c : Instr) (s : State), c = .modelMissService id frames ∨ c = .modelMissRetry id frames →
    (hasService 1 (.modelLoad id) s = false → Machine.exec c s = .next s) ∧
    (hasService 1 (.modelLoad id) s = true → tget s.wrd.models id = none →
      ∃ t, Machine.exec c s = .next t ∧
        (coreAt 1 t).inService = (coreAt 1 s).inService.erase (.modelLoad id) ∧ OnlyIn [.mgmt] s t) ∧
    (∀ x, hasService 1 (.modelLoad id) s = true → tget s.wrd.models id = some x →
      (x.state ≠ .miss ∨ x.frames ≠ [] → Machine.exec c s = .next s) ∧
      (x.state = .miss → x.frames = [] →
        let room := hotFrames s + x.count ≤ s.wrd.maxFrames ∧ x.count ≤ fastFreeFrames s
        (¬room → (∀ e ∈ s.wrd.models, evictable e.2 s = false) → Machine.exec c s = .next s) ∧
        (room → GoodFrames x.count frames s → s.wrd.movers ≠ [] → (∀ j ∈ s.allJobs, j.kind.fills id = true → j.stopped = true) →
          ∃ t, Machine.exec c s = .next t ∧
            tget t.wrd.models id = some { x with frames := frames } ∧ (∀ i, i ≠ id → tget t.wrd.models i = tget s.wrd.models i) ∧
            (∀ f ∈ frames, frameAt f t = Frame.of .model false) ∧
            (∀ f, f ∉ frames → tget t.wrd.frames f = tget s.wrd.frames f) ∧
            (∃ j ∈ t.allJobs, j.kind = .model id x.src frames ∧ (j.total, j.done, j.background, j.stopped) = (x.length, 0, false, false) ∧
              (j.ctx, j.tenant, j.key, j.work) = (none, some x.tenant, some x.tenant, some x.tenant)) ∧ OnlyIn [.wrd, .watch] s t)))

/-- Wardrobe's own work (R221, R232, R241, R244, R247, R495, R498). A WRD_CFG write is counted with cause 3 once enabled and
with cause 4 for an enable before firmware is ready; it sets hk_base, page_log2 where it is 14 to 18, and enable where R498
allows it. The frame table is built; the sweep clears the accessed flags it passes; background demotion takes the first cold
page, background promotion the next promotable one at S0, each only past its threshold; background zeroing takes a free frame. -/
def Obligations.WardrobeTendsFrames : Prop :=
  (∀ (v : W64) (s : State), barOpen s = true →
    let n := v.toNat
    let log2Ok := 14 ≤ n % 32 ∧ n % 32 ≤ 18
    let hk := bits n 63 30 * 2 ^ 30
    let refuse := s.wrd.fastGib = 0 ∨ s.wrd.fastGib * 2 ^ 30 < hk + 2 ^ 30 ∨
      (s.watch.spillValid = true ∧ s.wrd.slowGib * 2 ^ 30 < s.watch.spillBase + 2 ^ 30)
    (s.wrd.enable = true → Machine.exec (.wrdCfgWrite v) s = .next (bar0Err 3 0x40100 s)) ∧
    (s.wrd.enable = false → bit n 8 = true → s.mgmt.fwReady = false →
      Machine.exec (.wrdCfgWrite v) s = .next (bar0Err 4 0x40100 s)) ∧
    (s.wrd.enable = false → (bit n 8 = false ∨ s.mgmt.fwReady = true) → ∃ t, Machine.exec (.wrdCfgWrite v) s = .next t ∧
      t.wrd.hkBase = hk ∧ t.wrd.pageLog2 = (if log2Ok then n % 32 else s.wrd.pageLog2) ∧
      (bit n 8 = true → refuse → t.wrd.enable = false) ∧
      (bit n 8 = true → ¬refuse → t.wrd.enable = true ∧ t.wrd.built = false ∧ t.wrd.frames = []) ∧
      (bit n 8 = false → t.wrd.enable = false ∧ t.wrd.frames = s.wrd.frames) ∧
      (log2Ok → ¬(bit n 8 = true ∧ refuse) → t.hub = s.hub) ∧
      (¬log2Ok → ¬(bit n 8 = true ∧ refuse) → t.hub.bar0Count = satInc 32 s.hub.bar0Count ∧ t.hub.bar0Cause = 3) ∧
      OnlyIn [.hub, .wrd] s t)) ∧
  (∀ s : State,
    (s.wrd.enable = true → Machine.exec .frameTableBuilt s = .next { s with wrd := { s.wrd with built := true, hand := 0 } }) ∧
    (s.wrd.enable = false → Machine.exec .frameTableBuilt s = .next s)) ∧
  (∀ (n : Nat) (s : State), fFast s ≠ 0 → s.wrd.built = true → n ≤ fFast s → ∃ t, Machine.exec (.wardrobeSweep n) s = .next t ∧
    t.wrd.hand = (s.wrd.hand + n) % fFast s ∧
    (∀ f, tget t.wrd.frames f = (tget s.wrd.frames f).map (fun x =>
      if f < fFast s ∧ (f + fFast s - s.wrd.hand) % fFast s < n ∧ x.state = .kv then { x with accessed := false } else x)) ∧
    OnlyIn [.wrd] s t) ∧
  (∀ (f dst : Nat) (s : State),
    let below := if 2 ≤ s.power.level then s.wrd.promoteAbove else s.wrd.demoteBelow
    (((below : Int) ≤ freeFast s ∨ (coldOthers none s).head? ≠ some f) → Machine.exec (.backgroundDemote f dst) s = .next s) ∧
    (freeFast s < (below : Int) → (coldOthers none s).head? = some f → isFree dst s = true → isFast dst s = false →
      (cleanFrames .slow s).contains dst = true → s.MemOk → s.wrd.movers ≠ [] →
      ∃ t, Machine.exec (.backgroundDemote f dst) s = .next t ∧ PageMoveStarted f dst (frameAt f s).format true false true (payMove f none s) s t ∧
        OnlyIn [.wrd, .watch, .jnl] s t)) ∧
  (∀ (f dst : Nat) (s : State),
    let may := s.power.level = 0 ∧ (s.wrd.promoteAbove : Int) < freeFast s ∧ (promoteOrder s).head? = some f
    (¬may → Machine.exec (.backgroundPromote f dst) s = .next s) ∧
    (may → isFree dst s = true → isFast dst s = true → (cleanFrames .fast s).contains dst = true → s.MemOk →
      s.wrd.movers ≠ [] → ∃ t, Machine.exec (.backgroundPromote f dst) s = .next t ∧ PageMoveStarted f dst (frameAt f s).format false false true (payMove f none s) s t ∧
        OnlyIn [.wrd, .watch, .jnl] s t)) ∧
  (∀ (f : Nat) (s : State),
    let may := s.wrd.built = true ∧ isFree f s = true ∧ (frameAt f s).zeroPending = true ∧ inFlight f s = false
    (¬may → Machine.exec (.backgroundZero f) s = .next s) ∧
    (∀ i, may → LeastMover i s → ∃ t, Machine.exec (.backgroundZero f) s = .next t ∧
      JobGiven i { id := s.wrd.nextJob, mover := i, work := none, kind := .zero f, total := pageBytes s, done := 0, background := true, stopped := false,
                     ctx := none, tenant := none, key := none } s t ∧
      t.wrd.frames = s.wrd.frames ∧ OnlyIn [.wrd, .watch] s t))

/-- Map-outs (R248, R249, R251). A request whose work item is not in service does nothing; one that comes while a map-out is
in progress waits; one for a channel of either tier that holds nothing in use, and no partition reset waits for, ends at once, with its free frames RESERVED, its units
and channel out and its frames in the total. For a LEAVING page that a free frame is found for a move starts: its leaf entry names
that frame, and its own stays LEAVING until the move lands. That the entry follows at once is
the model's reading (log 34). -/
def Obligations.ChannelsAreMappedOut : Prop :=
  (∀ (tier : Tier) (ch src : Nat) (lost : Bool) (units : List Nat) (s : State),
    let m : Mapout := { tier := tier, channel := ch, lost := lost, units := units, source := src, removed := 0,
                        invalidated := 0, outcome := 0, tenant := 0xFFFF }
    (hasService 1 (.mapout m) s = false → Machine.exec (.mapoutRequest tier ch lost units src) s = .next s) ∧
    (∀ m', hasService 1 (.mapout m) s = true → s.wrd.mapout = some m' → leavingCount s ≠ 0 →
      ∃ t, Machine.exec (.mapoutRequest tier ch lost units src) s = .next t ∧
        t.wrd = { s.wrd with mapoutWait := s.wrd.mapoutWait ++ [m] } ∧
        (coreAt 1 t).inService = (coreAt 1 s).inService.erase (.mapout m) ∧ OnlyIn [.wrd, .mgmt] s t) ∧
    (hasService 1 (.mapout m) s = true → s.wrd.mapout = none → s.wrd.mapoutWait = [] → leavingCount s = 0 →
      (tier = .fast → stageOf 2 (ch / 8) s = none ∧ unitsHit m .fast s.wrd.hkBase Config.gib = false) →
      s.watch.spillValid = false → arenaHit m s = none → tabWf s.wrd.frames = true → 14 ≤ s.wrd.pageLog2 → s.wrd.pageLog2 ≤ 18 →
      let all := framesOfUnits tier units s
      (∀ e ∈ s.wrd.frames, all.contains e.1 = true → e.2.state ≠ .kv ∧ e.2.state ≠ .model ∧ e.2.state ≠ .save) →
      ∃ t, Machine.exec (.mapoutRequest tier ch lost units src) s = .next t ∧ t.wrd.mapout = none ∧
        t.wrd.mapoutLast = (ch, lost) ∧ t.wrd.outChannels = s.wrd.outChannels ++ [(tier, ch)] ∧
        t.wrd.outUnits = s.wrd.outUnits ++ units.map (fun u => (tier, u)) ∧
        t.wrd.removedTotal =
          s.wrd.removedTotal + all.countP (fun f => (frameAt f s).state != .reserved && (frameAt f s).state != .lost) ∧
        (∀ f ∈ all, (frameAt f s).state = .free → (frameAt f t).state = .reserved) ∧
        (∀ f, f ∉ all → tget t.wrd.frames f = tget s.wrd.frames f) ∧
        (∃ e ∈ t.jnl.events, e.code = evCapacityChange ∧ e.srcKind = 1 ∧ e.srcNum = ch) ∧
        (classCongested 4 s = false → s.jnl.events.length < t.jnl.events.length) ∧
        (tier = .fast → ∀ p, sliceAt p t = if p = ch / 8 then { sliceAt p s with fastChannels := 7 } else sliceAt p s) ∧
        (tier = .slow → t.slices = s.slices) ∧ OnlyIn [.port, .slices, .wrd, .chest, .hutch, .jnl, .mgmt] s t)) ∧
  (∀ (f dst : Nat) (s : State), (frameAt f s).state = .leaving → beingMoved f s = false → (frameAt f s).was = .kv →
    s.wrd.mapout.isSome = true → isFree dst s = true → isFast dst s = true → (cleanFrames .fast s).contains dst = true →
    f ≠ dst → s.MemOk → s.wrd.movers ≠ [] →
    ∃ t, Machine.exec (.mapoutMoveRetry f dst) s = .next t ∧ (tget t.wrd.frames f).map (·.state) = some .leaving ∧
      PageMoveStarted f dst (frameAt f s).format false false false (payMove f none s) s t ∧ OnlyIn [.wrd, .watch, .jnl] s t)

/-- CELL_ALLOCATE (R300, R303, R304, R306, R307, R308): a packet is granted whole, within its class's quota or where the others'
quotas and the skid reserve stay free and no request of its class waits; the pool hands out the cells chosen where they are free
and distinct, incomplete, linked to the queue's tail and charged to the class; congestion and the pauses follow the watermarks. A
request that is not granted waits. The model's own: the cells are the ones named where those may be handed out (log 11).
MARK, REWIND, RELEASE, the metadata walk and peak reads (R312, R315, R321). A mark is the read pointer; a rewind goes
back to it and keeps it; a release frees the oldest cells and drops a mark it passes; a rewind without a mark and a release
past the read pointer are machine checks. The walk frees the unreachable cells, and a stray cell is a machine check. A read
of a status register gives its value and starts the peak again at the cells used now (log 107). -/
def Obligations.CellsAreGrantedAndFreed : Prop :=
  (∀ (cls queue : Nat) (tenant : Option Nat) (cells : List Nat) (s : State), cls < 6 → 1 ≤ cells.length → cells.length ≤ 64 →
     s.chest.classes.length = 6 →
     let k := cells.length
     let got := packetCells cells s
     let used := fun (d : Nat) => (classAt d s).used
     let others := (((List.range 6).filter (fun d => d ≠ cls)).map (fun d => (classAt d s).quota - used d)).sum
     let free := 262144 - ((s.chest.classes.map (·.used)).sum + s.chest.retired.length)
     let granted := (∀ w ∈ s.chest.waiting, w.cls ≠ cls) ∧
       (used cls + k ≤ (classAt cls s).quota ∨ k + 1024 + others ≤ free)
     ((∀ i ∈ cells, cellFree i s = true) → cells.Nodup → got = cells) ∧
     (granted → got.length = k →
       ∃ t new, Machine.exec (.cellAllocate cls queue tenant cells) s = .next t ∧
         (cellQueue cls queue t).cells = (cellQueue cls queue s).cells ++ new ∧ new.map (·.index) = got ∧ OnePacket new ∧
         (∀ c ∈ new, c.complete = false ∧ c.poison = false ∧ c.tenant = tenant ∧ c.item = none ∧ c.taken = false ∧ c.data = List.replicate 8 0) ∧
         (cellQueue cls queue t).rd = (cellQueue cls queue s).rd ∧ (cellQueue cls queue t).mark = (cellQueue cls queue s).mark ∧
         (classAt cls t).used = used cls + k ∧ (∀ d, d ≠ cls → (classAt d t).used = used d) ∧
         (∀ d, d < 6 → (classAt d t).high ≤ (classAt d t).used → (classAt d t).congested = true) ∧
         (256 * s.chest.hfpHigh ≤ poolUsed' t → (∀ g ∈ s.watch.stages, g.stage ≠ 3) → t.chest.hfpPause = true) ∧
         (256 * s.chest.mfpHigh ≤ poolUsed' t → t.chest.mfpPause = true) ∧
         t.chest.waiting = s.chest.waiting ∧ OtherCellsSame cls queue s t ∧ OnlyIn [.chest, .jnl] s t) ∧
     (¬(granted ∧ got.length = k) → Machine.exec (.cellAllocate cls queue tenant cells) s =
       .next { s with chest := { s.chest with
         waiting := s.chest.waiting ++ [{ cls := cls, queue := queue, tenant := tenant, choice := cells, item := none, data := none, source := none }] } })) ∧
  ((∀ (cls queue : Nat) (s : State), cls < 6 → s.chest.classes.length = 6 →
     let q := cellQueue cls queue s
     (∃ t, Machine.exec (.cellMark cls queue) s = .next t ∧ cellQueue cls queue t = { q with mark := some q.rd } ∧
       OtherCellsSame cls queue s t ∧ t.chest.classes = s.chest.classes ∧ OnlyIn [.chest] s t) ∧
     (∀ m, q.mark = some m → ∃ t, Machine.exec (.cellRewind cls queue) s = .next t ∧
       cellQueue cls queue t = { q with rd := m } ∧ OtherCellsSame cls queue s t ∧ t.chest.classes = s.chest.classes ∧
       OnlyIn [.chest] s t) ∧
     (q.mark = none → NoReset s → ∃ t, Machine.exec (.cellRewind cls queue) s = .next t ∧ MachineChecked 2 s t) ∧
     (∀ k, q.rd < k → NoReset s → ∃ t, Machine.exec (.cellRelease cls queue k) s = .next t ∧ MachineChecked 2 s t) ∧
     (∀ k, k ≤ q.rd → q.rd ≤ q.cells.length → s.chest.waiting = [] →
       ∃ t, Machine.exec (.cellRelease cls queue k) s = .next t ∧ (cellQueue cls queue t).cells = q.cells.drop k ∧
         (q.cells.drop k ≠ [] → (cellQueue cls queue t).rd = q.rd - k) ∧
         (∀ m, q.mark = some m → (cellQueue cls queue t).mark = if m < k then none else some (m - k)) ∧
         (classAt cls t).used = (classAt cls s).used - k ∧ (∀ d, d ≠ cls → (classAt d t).used = (classAt d s).used) ∧
         OtherCellsSame cls queue s t ∧ OnlyIn [.chest, .jnl] s t)) ∧
   (∀ (stray : Option Nat) (s : State),
     (s.chest.walk = false → Machine.exec (.chestWalkDone stray) s = .next s) ∧
     (∀ i, s.chest.walk = true → stray = some i → NoReset s → ∃ t, Machine.exec (.chestWalkDone stray) s = .next t ∧
       t.chest.walk = false ∧ MachineChecked 4 s t) ∧
     (s.chest.walk = true → stray = none → s.chest.waiting = [] → ∃ t, Machine.exec (.chestWalkDone stray) s = .next t ∧
       t.chest.walk = false ∧ (∀ cls queue, queue < 2 ^ 32 →
         (cellQueue cls queue t).cells = (cellQueue cls queue s).cells.filter (fun c => !c.poison)) ∧ OnlyIn [.chest, .jnl] s t)) ∧
   (∀ (r : Option Nat) (s : State), ∃ t, Machine.exec (.peakRead r) s = .next t ∧ OnlyIn [.port, .chest] s t ∧
     (barOpen s = false → t = s) ∧
     (barOpen s = true → r = none → bits t.port.readData.toNat 18 0 = poolUsed' s % 2 ^ 19 ∧
       bits t.port.readData.toNat 50 32 = s.chest.peak % 2 ^ 19 ∧ t.port.readData.toNat.testBit 63 = s.chest.hfpPause ∧
       t.port.readData.toNat.testBit 62 = s.chest.mfpPause ∧ t.chest = { s.chest with peak := poolUsed' s }) ∧
     (∀ n x, barOpen s = true → r = some n → n < 6 → s.chest.classes[n]? = some x →
       bits t.port.readData.toNat 18 0 = x.used % 2 ^ 19 ∧ bits t.port.readData.toNat 50 32 = x.peak % 2 ^ 19 ∧
       t.port.readData.toNat.testBit 63 = x.congested ∧
       t.chest = { s.chest with classes := s.chest.classes.set n { x with peak := x.used } })))

/-- CELL_READ (R310, R312, R314 to R317). A packet is not begun before its first min(cut, cells) cells are complete, and no cell is
read before it is. A clean cell of the right tenant gives its nine words and advances the read pointer; a corrected word is
counted in its bank and in the total, with an event at the bank's first and at multiples of event_step. An uncorrectable data
word discards its packet; one in the metadata, or a tag mismatch, discards the packet as far as it was reached, poisons the queue
from there on and starts the walk; the cell is retired and the consumer suffers by class for what was lost: fetched entries are
fetched again from the first lost one, a completion is missed, an event is lost, a Journal record gives way to a gap record, a
launch on its way to a stream faults, and a command at intake, at an engine or waiting for its payload takes ST_MEM_UNCORRECTABLE;
each of the last two costs its context. The model's own: what carries what (logs 23, 29), the reading of R314 to R317 (log 60). -/
def Obligations.ConsumersReadCells : Prop :=
  ∀ (cls queue : Nat) (c : Cell) (pre pkt post : List Cell) (s : State), cls < 6 → s.chest.classes.length = 6 →
    let q := cellQueue cls queue s
    let reads := fun (f : List EccFinding) => Machine.exec (.cellRead cls queue f) s
    let mine := c.tenant = chestTenant cls queue c s
    let gone := fun (t : State) => t.chest.retired = s.chest.retired ++ [c.index] ∧
      t.chest.uncorrectable = satInc 16 s.chest.uncorrectable
    let metaLost := fun (f : List EccFinding) => f = [.badMeta] ∨ (f = [] ∧ ¬mine)
    let loses := fun (f : List EccFinding) (its : List Nat) =>
      ((∃ w, f = [.badData w]) ∧ its = (pkt.filterMap (·.item)).eraseDups) ∨
      (metaLost f ∧ its = ((pkt ++ post).filterMap (·.item)).eraseDups)
    q.cells[q.rd]? = some c → c.poison = false → q.cells = pre ++ pkt ++ post → pre.length ≤ q.rd →
    q.rd < pre.length + pkt.length → OnePacket pkt → (q.cells.map (·.index)).Nodup →
    ((c.complete = false ∨ (q.rd = pre.length ∧ ∃ x ∈ pkt.take (min (classAt cls s).cut pkt.length), x.complete = false)) →
      ∀ f, reads f = .next s) ∧
    (c.complete = true → (q.rd = pre.length → ∀ x ∈ pkt.take (min (classAt cls s).cut pkt.length), x.complete = true) →
      (∀ f, mine → (∀ e ∈ f, e = .clean) → ∃ t, reads f = .next t ∧ cellQueue cls queue t = { q with rd := q.rd + 1 } ∧
        t.chest.readOut = (c.data ++ [metaWord cls queue q.cells q.rd c]).map (fun w => (w, Config.secded w)) ∧
        OtherCellsSame cls queue s t ∧ OnlyIn [.chest] s t) ∧
      (∀ w, mine → ∃ t, reads [.corrected w] = .next t ∧
        let n := tgetD s.chest.bankCount (c.index / 4096) 0 + 1
        (cellQueue cls queue t).rd = q.rd + 1 ∧ (cls ≠ 4 → cellQueue cls queue t = { q with rd := q.rd + 1 }) ∧
        tgetD t.chest.bankCount (c.index / 4096) 0 = n ∧ t.chest.corrected = satInc 32 s.chest.corrected ∧
        ((n = 1 ∨ n % max 1 s.chest.eventStep = 0) → classCongested 4 s = false →
          t.jnl.events.map (fun e => (e.code, e.words)) = s.jnl.events.map (fun e => (e.code, e.words)) ++
            [(evCorrectedEcc, [c.index / 4096, c.index, min w 8, n])]) ∧
        (¬(n = 1 ∨ n % max 1 s.chest.eventStep = 0) → t.jnl = s.jnl) ∧ OnlyIn [.chest, .jnl] s t) ∧
      (∀ f its, loses f its → s.chest.retired.length + 1 ≠ 4096 →
        ((cls = 3 ∨ cls = 4) → s.chest.waiting = [] → ∃ t, reads f = .next t ∧ gone t ∧ OtherCellsSame cls queue s t ∧
          (¬metaLost f → (cellQueue cls queue t).cells = pre ++ post ∧
            (classAt cls t).used = (classAt cls s).used - pkt.length ∧ t.chest.walk = s.chest.walk) ∧
          (metaLost f → (cellQueue cls queue t).cells = pre ++ (q.cells.drop (q.rd + 1)).map (fun x => { x with poison := true }) ∧
            t.chest.walk = true) ∧
          (cls = 3 → ∀ u, tget s.front.queues queue = some u → (tget t.front.queues queue).map (·.unwritten) =
            some (u.unwritten.map (fun r => if r.pos ∈ its then { r with lost := true } else r))) ∧
          (cls = 4 → t.jnl.events = s.jnl.events.filter (fun e => e.id ∉ its) ∧
            t.jnl.evtLost = satInc 32 s.jnl.evtLost (s.jnl.events.countP (fun e => e.id ∈ its))) ∧
          OnlyIn [.port, .mem, .front, .chest, .hutch, .jnl] s t) ∧
        (∀ u p r, cls = 0 → its = p :: r → tget s.front.queues queue = some u →
          let p0 := r.foldl min p
          ∃ t, reads f = .next t ∧ gone t ∧ (metaLost f → t.chest.walk = true) ∧
            (tget t.front.queues queue).map (fun y => (y.f, y.fetched, y.d, y.w)) =
              some (min u.f p0, u.fetched.filter (fun e => decide (e.pos < p0) || e.latch.isSome), u.d, u.w)) ∧
        (∀ k p m x, ((((cls = 1 ∧ queue < 2 ^ 22) ∨ cls = 2) ∧ k = queue ∧ p ∈ its) ∨
            (cls = 1 ∧ 2 ^ 23 ≤ queue ∧ p < 2 ^ 64 ∧ k * 2 ^ 64 + p ∈ its)) →
          s.cmd k p = some m → m.latch = none → tget s.contexts (k / 256) = some x → x.state = .active →
          ∃ t, reads f = .next t ∧ (metaLost f → t.chest.walk = true) ∧
            (t.cmd k p).map (·.latch) = some (some ⟨.memUncorrectable, 1⟩) ∧
            FaultTeardownBegun (k / 256) s t (fun i => i.status = .memUncorrectable ∧ i.aux = 1)) ∧
        (∀ p st l, cls = 1 → p < 2 ^ 20 → st < 4 → queue = streamQueue p st → its ≠ [] → (streamAt p st s).launch = some l →
          ∃ t, reads f = .next t ∧ gone t ∧
            RunFaulted l .memUncorrectable 1 (fun i => i.partition = p ∧ i.stream = st) s t) ∧
        (∀ l lp j, cls = 5 → jnlLoop queue s = some (l, lp) → tget s.trestle.loops l = some lp → lp.jnl = some j →
          let lost := j.waiting.filter (fun e => fld e.2 8 8 ∈ its)
          let kept := j.waiting.filter (fun e => fld e.2 8 8 ∉ its)
          ∃ t lp' j', reads f = .next t ∧ gone t ∧ tget t.trestle.loops l = some lp' ∧ lp'.jnl = some j' ∧
            (lost = [] → j' = j) ∧
            (∀ e r, lost = e :: r → j'.gaps = j.gaps + 1 ∧ j'.nextSeq = j.nextSeq + 1 ∧ ∃ g, j'.waiting = kept ++ [(lp.step + 1, g)] ∧
              fld g 1 1 = 0x0B ∧ fld g 28 8 = fld e.2 8 8 ∧ fld g 36 4 = lost.length % 2 ^ 32 ∧ fld g 40 1 = 1) ∧
            OnlyIn [.port, .mem, .trestle, .chest, .hutch, .jnl] s t)))

/-- BUREAU_TICK (R331): for each partition the code is its sample, the last one, or none after 16 intervals; its power with
the residue is divided by four; each of its four benches gives its quarter to its tenant's residue and counter, or to the
partition's unattributed energy; the tick goes out to the sensors (R325). Without VDD_AON nothing happens (R346). The model's own: the
last code of a partition that has had no sample is 0 (log 129). -/
def Obligations.EnergyIsShared : Prop :=
  ∀ s : State,
    (s.port.vddAon = false → Machine.exec .bureauTick s = .next s) ∧
    (s.port.vddAon = true →
      let b := s.bureau
      let e := fun (p : Nat) => intervalEnergy s.integ p b
      let mine := fun (t p : Nat) => ([4 * p, 4 * p + 1, 4 * p + 2, 4 * p + 3].filter (fun x => tget b.occ x = some t)).length
      let free := fun (p : Nat) => ([4 * p, 4 * p + 1, 4 * p + 2, 4 * p + 3].filter (fun x => tget b.occ x = none)).length
      ∃ t, Machine.exec .bureauTick s = .next t ∧ OnlyIn [.port, .bureau] s t ∧
        t.port = { s.port with out := s.port.out ++ [.snsTick] } ∧
        (∀ p c, p < s.integ.slices → tget b.samples p = some c →
          tgetD t.bureau.miss p 0 = 0 ∧ tgetD t.bureau.last p 0 = c ∧ tgetD t.bureau.gap p 0 = tgetD b.gap p 0) ∧
        (∀ p, p < s.integ.slices → tget b.samples p = none →
          tgetD t.bureau.miss p 0 = tgetD b.miss p 0 + 1 ∧ tgetD t.bureau.last p 0 = tgetD b.last p 0 ∧
          tgetD t.bureau.gap p 0 = if tgetD b.miss p 0 + 1 ≤ 16 then tgetD b.gap p 0 else satInc 32 (tgetD b.gap p 0)) ∧
        (∀ p, p < s.integ.slices → tgetD t.bureau.res p 0 = e p % 4 ∧
          tgetD t.bureau.unatt p 0 = tgetD b.unatt p 0 + BitVec.ofNat 64 (e p / 4 * free p)) ∧
        (∀ d, (slotAt d b).acc < 1000 → (slotAt d b).counters.length = 6 →
          let gain := ((List.range s.integ.slices).map (fun p => e p / 4 * mine d p)).sum
          (slotAt d t.bureau).acc = ((slotAt d b).acc + gain) % 1000 ∧
          (slotAt d t.bureau).counters = (slotAt d b).counters.set 5
            (((slotAt d b).counters[5]?).getD 0 + BitVec.ofNat 64 (((slotAt d b).acc + gain) / 1000)) ∧
          ((slotAt d t.bureau).sensorGap = true ↔ (slotAt d b).sensorGap = true ∨
            ∃ p, p < s.integ.slices ∧ usedCode p b = none ∧ 0 < mine d p) ∧
          (slotAt d t.bureau).start = (slotAt d b).start ∧ (slotAt d t.bureau).incarnation = (slotAt d b).incarnation) ∧
        (t.bureau.sensorGap = true ↔ b.sensorGap = true ∨ ∃ p, p < s.integ.slices ∧ usedCode p b = none) ∧
        t.bureau.samples = [] ∧ t.bureau.timeUs = (b.timeUs + 1) % 2 ^ 64 ∧ t.bureau.occ = b.occ ∧
        t.bureau.pending = b.pending ∧ t.bureau.queue = b.queue)

/-- The usage channel (R326, R327, R329, R334): Bureau takes the oldest record where it is of the command's kind, notes an
unexpected sequence number, and applies it: occupancy, counters, the activation and retirement of a slot, requested reports,
SYNC; a command of another kind does nothing. The hub appends records of bytes not yet sent and of requests; while the FIFO of 256
is full it goes on aggregating bytes and holds records back, and the oldest one held enters as Bureau takes one (logs 31, 46). The model's
own: a report that replaces a pending one has its place in the signing order (log 130). -/
def Obligations.UsageIsMetered : Prop :=
  (∀ (n : Nat) (u : Usage) (rest : List (Nat × Usage)) (s : State), s.hub.burFifo = (n, u) :: rest → s.port.vddAon = true →
    let b := s.bureau
    let took := fun (t : State) => t.hub = { s.hub with burFifo := rest ++ s.hub.burHeld.take 1, burHeld := s.hub.burHeld.drop 1 } ∧ t.bureau.expect = (n + 1) % 65536 ∧
      (n ≠ b.expect → t.bureau.usageGap = true) ∧ t.bureau.epoch = b.epoch ∧ t.bureau.queue = b.queue ∧
      t.bureau.unatt = b.unatt ∧ OnlyIn [.hub, .bureau] s t
    (∀ bench o, u = .occ bench o → ∃ t, Machine.exec .occ s = .next t ∧ took t ∧ tget t.bureau.occ bench = o ∧
      (∀ x, x ≠ bench → tget t.bureau.occ x = tget b.occ x) ∧ t.bureau.slots = b.slots) ∧
    (∀ d k, u = .eng d k → ∃ t, Machine.exec .eng s = .next t ∧ took t ∧ OtherSlotsSame d b t.bureau ∧
      slotAt d t.bureau = (slotAt d b).add 0 k ∧ ((slotAt d b).active = false → t.bureau.usageGap = true)) ∧
    (∀ d c k, u = .byt d c k → ∃ t, Machine.exec .byt s = .next t ∧ took t ∧ OtherSlotsSame d b t.bureau ∧
      slotAt d t.bureau = (slotAt d b).add (1 + c) k ∧ ((slotAt d b).active = false → t.bureau.usageGap = true)) ∧
    (∀ d, u = .act d → ∃ t, Machine.exec .act s = .next t ∧ took t ∧ OtherSlotsSame d b t.bureau ∧
      slotAt d t.bureau = { slotAt d b with
        prevStart := (slotAt d b).start, prevValid := true, start := (slotAt d b).counters,
        incarnation := ((slotAt d b).incarnation + 1) % 2 ^ 32, sensorGap := false, active := true } ∧
      MadePending d .activation b t.bureau) ∧
    (∀ d, u = .ret d → ∃ t, Machine.exec .ret s = .next t ∧ took t ∧ OtherSlotsSame d b t.bureau ∧
      slotAt d t.bureau = { slotAt d b with active := false } ∧ MadePending d .retirement b t.bureau) ∧
    (∀ d, u = .req (some d) → ∃ t, Machine.exec .req s = .next t ∧ took t ∧ t.bureau.slots = b.slots ∧
      MadePending d .requested b t.bureau) ∧
    (u = .req none → ∃ t, Machine.exec .req s = .next t ∧ took t ∧ t.bureau.slots = b.slots ∧
      (∀ e ∈ b.slots, e.2.active = true → ∃ k : ReportKind, (e.1, k) ∈ t.bureau.pending ∧ ReportKind.requested.rank ≤ k.rank)) ∧
    (u = .sync → ∃ t, Machine.exec .sync s = .next t ∧ took t ∧ t.bureau.occ = [] ∧ t.bureau.slots = b.slots) ∧
    ((∀ x o, u ≠ .occ x o) → Machine.exec .occ s = .next s) ∧ ((∀ d k, u ≠ .eng d k) → Machine.exec .eng s = .next s) ∧
    ((∀ d c k, u ≠ .byt d c k) → Machine.exec .byt s = .next s) ∧ ((∀ d, u ≠ .act d) → Machine.exec .act s = .next s) ∧
    ((∀ d, u ≠ .ret d) → Machine.exec .ret s = .next s) ∧ ((∀ o, u ≠ .req o) → Machine.exec .req s = .next s) ∧
    (u ≠ .sync → Machine.exec .sync s = .next s)) ∧
  (∀ (d c : Nat) (s : State),
    (256 ≤ s.hub.burFifo.length → Machine.exec (.bytFlushTimer d c) s = .next s) ∧
    (∀ v, c < 4 → s.hub.burFifo.length < 256 → tget s.hub.bytAgg (d * 4 + c) = some v → ∃ t, Machine.exec (.bytFlushTimer d c) s = .next t ∧
      t.hub.burFifo = s.hub.burFifo ++ [(s.hub.burSeq, .byt d c v)] ∧ t.hub.burSeq = (s.hub.burSeq + 1) % 65536 ∧
      tget t.hub.bytAgg (d * 4 + c) = none ∧ (∀ k, k ≠ d * 4 + c → tget t.hub.bytAgg k = tget s.hub.bytAgg k) ∧
      OnlyIn [.hub] s t) ∧
    (tget s.hub.bytAgg (d * 4 + c) = none → Machine.exec (.bytFlushTimer d c) s = .next s)) ∧
  (∀ (v : W32) (w : W64) (s : State),
    let r := (s.hub.burSeq, Usage.req (if v.toNat.testBit 31 then none else some (v.toNat % 1024)))
    (barOpen s = true → s.hub.burFifo.length < 256 → Machine.exec (.burReqWrite v) s = .next { s with hub := { s.hub with
      burFifo := s.hub.burFifo ++ [r], burSeq := (s.hub.burSeq + 1) % 65536 } }) ∧
    (barOpen s = true → 256 ≤ s.hub.burFifo.length → Machine.exec (.burReqWrite v) s = .next { s with hub := { s.hub with
      burHeld := s.hub.burHeld ++ [r], burSeq := (s.hub.burSeq + 1) % 65536 } }) ∧
    (barOpen s = true → Machine.exec (.burRingWrite w) s = .next { s with hub := { s.hub with
      burRingBase := w.toNat / 4096 * 4096, burRingLog2 := w.toNat % 16, burProd := 0 } }) ∧
    (barOpen s = false → Machine.exec (.burReqWrite v) s = .next s ∧ Machine.exec (.burRingWrite w) s = .next s))

/-- Reports and the supply (R325, R336 to R341, R346, R347). A sample is kept for its partition; every active slot gets a
pending report at each 60 s of bureau_time_us; signing copies the fields of R336 of the first pending report, where the key is valid, nothing is
being signed and the queue has room; the report with its ECDSA P-256 signature under the device key, by the
first of two secrets that gives one (log 62), is queued and counted; firmware writes the oldest to its place in the
ring. VDD_AON clears Bureau as it comes up, which then expects record 0 while the hub's FIFO goes on (the model's own: log 131), and draws an
epoch that is not zero (log 7: 1 for 0), and its loss loses all. -/
def Obligations.ReportsAreSigned : Prop :=
  (∀ (p : Nat) (code : BitVec 16) (s : State),
    (s.port.vddAon = true → p < s.integ.slices → Machine.exec (.sensorSample p code) s =
      .next { s with bureau := { s.bureau with samples := tset s.bureau.samples p code.toNat } }) ∧
    ((s.port.vddAon = false ∨ s.integ.slices ≤ p) → Machine.exec (.sensorSample p code) s = .next s)) ∧
  (∀ s : State,
    let due := s.bureau.periods < s.bureau.timeUs / 60000000
    (s.port.vddAon = true → due → ∃ t, Machine.exec .periodicReport s = .next t ∧ t.bureau.slots = s.bureau.slots ∧
      t.bureau.periods = s.bureau.periods + 1 ∧
      (∀ e ∈ s.bureau.slots, e.2.active = true → ∃ k : ReportKind, (e.1, k) ∈ t.bureau.pending) ∧
      ((s.bureau.pending.map (·.1)).Nodup →
        ∀ e ∈ s.bureau.pending, ∃ k : ReportKind, (e.1, k) ∈ t.bureau.pending ∧ e.2.rank ≤ k.rank) ∧ OnlyIn [.bureau] s t) ∧
    (s.port.vddAon = false ∨ ¬due → Machine.exec .periodicReport s = .next s)) ∧
  (∀ (d : Nat) (k : ReportKind) (rest : List (Nat × ReportKind)) (s : State), s.bureau.pending = (d, k) :: rest →
    let b := s.bureau
    let may := s.port.vddAon = true ∧ b.keyOk = true ∧ b.signing = none ∧ b.queue.length < 16
    (may → d < 1024 → b.reportSeq < 2 ^ 64 → b.timeUs < 2 ^ 64 → (slotAt d b).incarnation < 2 ^ 32 →
      (slotAt d b).counters.length = 6 → (slotAt d b).start.length = 6 → (slotAt d b).prevStart.length = 6 →
      ∃ t r, Machine.exec .signingStart s = .next t ∧ t.bureau = { b with pending := rest, signing := some r } ∧ r.length = 192 ∧
        fld r 0 1 = 2 ∧ fld r 1 1 = k.code ∧ fld r 2 2 = d ∧
        fld r 4 4 = b2n (slotAt d b).active + 2 * b2n (slotAt d b).prevValid + 4 * b2n (slotAt d b).sensorGap + 8 * b2n b.usageGap ∧
        fld r 8 8 = s.integ.serial % 2 ^ 64 ∧ fld r 16 8 = b.epoch.toNat ∧ fld r 24 8 = b.reportSeq ∧ fld r 32 8 = b.timeUs ∧
        fld r 40 4 = (slotAt d b).incarnation ∧ fld r 44 4 = s.integ.calibId % 2 ^ 32 ∧
        (∀ i, i < 6 → fld r (48 + 8 * i) 8 = (((slotAt d b).counters[i]?).getD 0).toNat ∧
          fld r (96 + 8 * i) 8 = (((slotAt d b).start[i]?).getD 0).toNat) ∧ OnlyIn [.bureau] s t) ∧
    (¬may → Machine.exec .signingStart s = .next s)) ∧
  (∀ (k next : BitVec 256) (s : State),
    let sign (x : List Byte) (k : BitVec 256) := ecdsaSign curve256 (beNat (sha256 x)) s.integ.devKey k.toNat
    (∀ x r v, s.bureau.signing = some x → (sign x k = some (r, v) ∨ sign x k = none ∧ sign x next = some (r, v)) →
      Machine.exec (.signingDone k next) s = .next { s with bureau := { s.bureau with
        signing := none, queue := s.bureau.queue ++ [x ++ le 32 r ++ le 32 v],
        reportSeq := (s.bureau.reportSeq + 1) % 2 ^ 64 } }) ∧
    (∀ x, s.bureau.signing = some x → sign x k = none → sign x next = none → Machine.exec (.signingDone k next) s = .next s) ∧
    (s.bureau.signing = none → Machine.exec (.signingDone k next) s = .next s)) ∧
  (∀ (r : List Byte) (rest : List (List Byte)) (s : State), s.bureau.queue = r :: rest → s.MemOk →
    let on := 4 ≤ s.hub.burRingLog2 ∧ s.hub.burRingLog2 ≤ 12
    let a := pfLoc (s.hub.burRingBase + s.hub.burProd % 2 ^ s.hub.burRingLog2 * 256)
    ((coreAt 2 s).state = .running → on → ∃ t, Machine.exec .reportForward s = .next t ∧
      t.bureau = { s.bureau with queue := rest } ∧ t.hub.burProd = (s.hub.burProd + 1) % 2 ^ 64 ∧
      (hostDropped a s = false → memRead a r.length t = r) ∧ UnchangedOutside a r.length s t ∧
      t.hub.bytAgg = s.hub.bytAgg ∧ t.contexts = s.contexts ∧ OnlyIn [.port, .mem, .hub, .bureau] s t) ∧
    (((coreAt 2 s).state ≠ .running ∨ ¬on) → Machine.exec .reportForward s = .next s)) ∧
  (∀ (epoch : W64) (ok : Bool) (s : State),
    Machine.exec (.vddAonUp epoch ok) s = .next { s with
      port := { s.port with vddAon := true },
      bureau := { Bureau.reset with epoch := if epoch = 0 then 1 else epoch, keyOk := ok } } ∧
    Machine.exec .vddAonLoss s = .next { s with
      port := { s.port with vddAon := false }, bureau := { Bureau.reset with keyOk := false } })

/-- WATCH_SAMPLE and the flags (R95, R353 to R355). At a sample an agent that is busy with its counter unmoved keeps the time
since which it is held, and every other one starts again. An agent is flagged once until its counter moves (R353). A stream held through its window hangs: its run takes ST_HANG, or
ST_PEER_TIMEOUT without cost to its context in a peer wait, and a loop's context is torn down; a mover costs the context
of the command it runs, also where an abort of that command waits for the mover's stop (R85, log 108), or a compute reset; a hub engine a compute reset; a queue SHUTTING for 5 ms its context. Before that nothing happens. A window that
was written is in force from the next sample on (R381, R439). The model's own: what an engine's input holds (log 25). -/
def Obligations.AgentsHang : Prop :=
  (∀ s : State, ∃ t, Machine.exec .watchSample s = .next t ∧ OnlyIn [.front, .slices, .wrd, .watch, .mgmt] s t ∧
    (∀ k q, tget s.front.queues k = some q → tget t.front.queues k = some
      (if q.enabled = true ∧ q.w < q.d ∧ q.progress = q.sample then { q with sampleWas := q.sample }
       else { q with sampleWas := q.sample, sample := q.progress, heldSince := s.now })) ∧
    (∀ p st x, tget s.slices p ≠ none → (sliceAt p s).streams[st]? = some x → streamAt p st t =
      if x.active = true ∧ x.progress = x.sample then x
      else { x with sample := x.progress, heldSince := s.now, flagged := x.flagged && decide (x.progress = x.sample) }) ∧
    (∀ (i : Nat) (m : Mover), s.wrd.movers[i]? = some m → t.wrd.movers[i]? = some
      (if m.jobs ≠ [] ∧ m.progress = m.sample then m else { m with
        sample := m.progress, heldSince := s.now, flagged := none })) ∧
    (∀ (i : Nat) (c : Core), s.mgmt.cores[i]? = some c → t.mgmt.cores[i]? = some
      (if c.state = .running ∧ c.progress = c.sample then c else { c with sample := c.progress, heldSince := s.now })) ∧
    t.mgmt = { s.mgmt with cores := t.mgmt.cores, fwInForce := s.mgmt.fwWindow } ∧
    t.watch = { s.watch with moverInForce := s.watch.moverWindow, hubInForce := s.watch.hubWindow, hubBusy := hubWork s, hubSample := s.watch.hubProgress, hubHeld := t.watch.hubHeld,
                              hubFlagged := t.watch.hubFlagged } ∧
    (∀ e, e < 8 → t.watch.hubHeld[e]? = some
      (if (hubWork s)[e]? = some true ∧ s.watch.hubProgress.getD e 0 = s.watch.hubSample.getD e 0 then s.watch.hubHeld.getD e 0
       else s.now) ∧
      t.watch.hubFlagged[e]? = some (s.watch.hubFlagged.getD e false && decide (s.watch.hubProgress.getD e 0 = s.watch.hubSample.getD e 0)))) ∧
  (∀ (p st : Nat) (l : Launch) (s : State), (streamAt p st s).launch = some l →
    let x := streamAt p st s
    let flagged := x.active = true ∧ x.flagged = false ∧ x.progress = x.sample ∧ l.windowUs * 100 ≤ s.now - x.heldSince
    let peer := peerWait x (launchImage l s)
    (flagged → peer = none → ∃ t, Machine.exec (.streamHang p st) s = .next t ∧
      RunFaulted l .hang (2 ^ 28 + l.windowUs % 2 ^ 26) (fun i => i.partition = p ∧ i.stream = st) s t) ∧
    ((¬flagged ∨ peer ≠ none) → Machine.exec (.streamHang p st) s = .next s) ∧
    ((¬flagged ∨ peer = none) → Machine.exec (.peerWaitTimeout p st) s = .next s) ∧
    (∀ c, flagged → peer = some c →
      (∀ k pos m, l.cmd = some (k, pos) → s.cmd k pos = some m → m.latch = none →
        ∃ t, Machine.exec (.peerWaitTimeout p st) s = .next t ∧
          (t.cmd k pos).map (·.latch) = some (some ⟨.peerTimeout, 2 ^ 29 + p * 2 ^ 8 + st⟩) ∧
          (streamAt p st t).stopSent = true ∧ (streamAt p st t).flagged = true ∧
          OnlyIn [.port, .mem, .front, .slices, .chest, .hutch, .jnl] s t) ∧
      (∀ y, l.cmd = none → tget s.contexts l.ctx = some y → y.state = .active →
        ∃ t, Machine.exec (.peerWaitTimeout p st) s = .next t ∧ FaultTeardownBegun l.ctx s t (fun i =>
          i.status = .peerTimeout ∧ i.aux = 2 ^ 29 + p * 2 ^ 8 + st)))) ∧
  (∀ (i : Nat) (x : Mover) (s : State), s.wrd.movers[i]? = some x →
    let job := x.runs.map (·.id)
    let flagged := job ≠ none ∧ x.flagged ≠ job ∧ x.progress = x.sample ∧ s.watch.moverInForce * 100000 ≤ s.now - x.heldSince
    (¬flagged → Machine.exec (.moverHang i) s = .next s) ∧
    (∀ k pos, flagged → moverCmd i s = some (k, pos) → CmdLive k pos s → ∃ t, Machine.exec (.moverHang i) s = .next t ∧
      CmdFaulted k pos .hang (2 ^ 29 + s.watch.moverInForce * 1000) s t) ∧
    (∀ k pos m y, flagged → moverCmd i s = some (k, pos) → s.cmd k pos = some m → m.latch ≠ none →
      tget s.contexts (k / 256) = some y → y.state = .active → ∃ t, Machine.exec (.moverHang i) s = .next t ∧
        FaultTeardownBegun (k / 256) s t (fun i => i.status = .hang ∧ i.aux = 2 ^ 29 + s.watch.moverInForce * 1000 ∧
          i.queue = k % 256 ∧ i.seq = pos + 1)) ∧
    (flagged → moverCmd i s = none → NoReset s → ∃ t, Machine.exec (.moverHang i) s = .next t ∧ ComputeResetBegun 9 s t)) ∧
  (∀ (h : HubEngine) (s : State),
    let e := hubCode h
    let flagged := s.watch.hubBusy[e]? = some true ∧ (hubWork s)[e]? = some true ∧
      s.watch.hubFlagged.getD e false = false ∧ s.watch.hubProgress.getD e 0 = s.watch.hubSample.getD e 0 ∧ s.watch.hubInForce * 100000 ≤ s.now - s.watch.hubHeld.getD e 0
    (flagged → NoReset s → ∃ t, Machine.exec (.hubEngineHang h) s = .next t ∧ ComputeResetBegun 9 s t) ∧
    (¬flagged → Machine.exec (.hubEngineHang h) s = .next s)) ∧
  (∀ (c q : Nat) (u : Queue) (s : State), tget s.front.queues (qkey c q) = some u →
    let late := u.state = .shutting ∧ s.isActive c = true ∧ 500000 ≤ s.now - u.shutAt
    (late → ∃ t, Machine.exec (.queueShutdownHang c q) s = .next t ∧ FaultTeardownBegun c s t (fun i =>
      i.status = .hang ∧ i.aux = 5 * 2 ^ 28 + 5000 ∧ i.queue = q)) ∧
    (¬late → Machine.exec (.queueShutdownHang c q) s = .next s))

/-- Responses and reports of faults (R44, R119, R250, R357, R375, R378, R468, R472, R474). Data of a host read lie at their
address. A refused access, an uncorrectable read or an internal fault ends what made it: a run or a loop step, a mover's
command, a context, with the status and aux of R357; a text read is retried once, before the first bundle as a launch that is asked for
again; a shared hub structure is a machine check;
a KV page reported uncorrectable is lost, also while its frame is being left; its holder is reported where the read was its own, and one that does not run
ends, after its loop's boundary where one is in progress. A word of on-block SRAM costs its context, a slice or the block.
Data of the hub channel take a cell, in the pause one of the skid, and without one make a machine check (R309; that they are PAYLOAD
cells, log 29). The model's own: the tag of a write-through's fault where no command's signal made it (log 115), R375 (log 68). -/
def Obligations.FabricsAnswer : Prop :=
  (∀ (u : FaultUnit) (p st : Nat) (l : Launch) (s : State), (streamAt p st s).launch = some l →
    let x := streamAt p st s
    let off := fun (e : Nat) => (((engineAt x e).queue.head?.map (·.textOffset)).getD x.pc) / 16 % 2 ^ 24
    let ends := fun (status : Status) (aux : Nat) => ∃ t, Machine.exec (.engineFaultReport u) s = .next t ∧
      RunFaulted l status aux (fun i => i.partition = p ∧ i.stream = st) s t
    (x.active = true → (∀ core, u = .core p st core → ends .engineFault (6 * 2 ^ 24 + x.pc / 16 % 2 ^ 24)) ∧
      (∀ core, u = .scratch p st core → ends .memUncorrectable 3) ∧
      (∀ e, u = .side p st e → ends .engineFault (7 * 2 ^ 24 + off e)) ∧
      (u = .collective p st → ends .engineFault (8 * 2 ^ 24 + off 3))) ∧
    (x.active = false → ((∃ core, u = .core p st core ∨ u = .scratch p st core) ∨ (∃ e, u = .side p st e) ∨ u = .collective p st) →
      Machine.exec (.engineFaultReport u) s = .next s)) ∧
  (∀ (i : Nat) (s : State),
    (∀ k pos, moverCmd i s = some (k, pos) → CmdLive k pos s → ∃ t, Machine.exec (.engineFaultReport (.mover i)) s = .next t ∧
      CmdFaulted k pos .engineFault (7 * 2 ^ 24) s t) ∧
    (moverCmd i s = none → NoReset s → ∃ t, Machine.exec (.engineFaultReport (.mover i)) s = .next t ∧ ComputeResetBegun 9 s t)) ∧
  (∀ (bank : Nat) (s : State),
    let lost := fun (w : SramWord) (c queue seq : Nat) => ∃ t, Machine.exec (.engineFaultReport (.sram w bank)) s = .next t ∧
      FaultTeardownBegun c s t (fun i => i.status = .memUncorrectable ∧ i.aux = 4 ∧ i.queue = queue ∧ i.seq = seq)
    (∀ c q u, s.queue c q = some u → s.isActive c = true → lost (.queueWord c q) c q 0) ∧
    (∀ c i o, tget s.objects (objKey c i) = some o → s.isActive c = true → lost (.objEntry c i) c 0xFFFF 0) ∧
    (∀ i q, tget s.trestle.seqs i = some q → s.isActive q.ctx = true → lost (.seqRecord i) q.ctx 0xFFFF 0) ∧
    (∀ a, NoReset s → ∃ t, Machine.exec (.engineFaultReport (.sram (.shared a) bank)) s = .next t ∧ MachineChecked 5 s t) ∧
    (∀ p, p < s.integ.slices → NoReset s → stageOf 2 p s = none →
      ∃ t, Machine.exec (.engineFaultReport (.sram (.slice p) bank)) s = .next t ∧ PartitionResetBegun p 4 false s t)) ∧
  (∀ (who : MfpWho) (tier : Tier) (addr : Nat) (status : MfpStatus) (s : State),
    let line := memRead { space := tierSpace tier, addr := addr / 64 * 64 } 64 s
    let granted := (∀ w ∈ s.chest.waiting, w.cls ≠ 2) ∧ grants 2 1 s = true
    let skid := s.chest.mfpPause = true ∧ grantsSkid 2 1 s = true
    (who ≠ .hubShared → Machine.exec (.mfpResponse who tier addr .ok) s = .next s) ∧
    (who = .hubShared → sparePacket (cellQueue 2 hubDataQueue s).cells 1 = none → (packetCells [Config.cells] s).length = 1 →
      ((granted ∨ skid) → ∃ t c, Machine.exec (.mfpResponse who tier addr .ok) s = .next t ∧
        (cellQueue 2 hubDataQueue t).cells = (cellQueue 2 hubDataQueue s).cells ++ [c] ∧ c.complete = true ∧ c.data = cellWords line ∧
        OtherCellsSame 2 hubDataQueue s t ∧ OnlyIn [.chest, .jnl] s t) ∧
      (¬granted → s.chest.mfpPause = false → ∃ w, Machine.exec (.mfpResponse who tier addr .ok) s =
        .next { s with chest := { s.chest with waiting := s.chest.waiting ++ [w] } } ∧ w.cls = 2 ∧ w.queue = hubDataQueue ∧ w.data = some line) ∧
      (s.chest.mfpPause = true → grantsSkid 2 1 s = false → NoReset s →
        ∃ t, Machine.exec (.mfpResponse who tier addr .ok) s = .next t ∧ MachineChecked 3 s t)) ∧
    (∀ ch, kvAt tier addr s = true →
      ((∃ p st, who = .text p st) ∨ (∃ i, who = .mover i) →
        Machine.exec (.mfpResponse who tier addr .uncorrectable) s = Machine.exec (.channelUncorrectable tier ch addr) s) ∧
      (∀ p st e, who = .side p st e →
        let f := frameOfAddr tier addr s
        let g := (movingTo f s).getD f
        ∃ u, Machine.exec (.channelUncorrectable tier ch addr) s = .next u ∧
          (∀ i j, readerSeq p st e s = some i → (i, j) ∈ holdersOf g s →
            Machine.exec (.mfpResponse who tier addr .uncorrectable) s = .next (u.modSeq i (fun q =>
              { q with verdict := some (q.verdict.getD (if q.lostPage = some g then 7 else 6, 0xFF)) }))) ∧
          ((∀ i j, readerSeq p st e s = some i → (i, j) ∉ holdersOf g s) →
            Machine.exec (.mfpResponse who tier addr .uncorrectable) s = .next u))) ∧
    (who = .hubShared → status ≠ .ok → NoReset s →
      ∃ t, Machine.exec (.mfpResponse who tier addr status) s = .next t ∧ MachineChecked 5 s t) ∧
    (∀ p st e l, who = .side p st e → (streamAt p st s).launch = some l → (streamAt p st s).active = true →
      (kvAt tier addr s = false → ∃ t, Machine.exec (.mfpResponse who tier addr .uncorrectable) s = .next t ∧
        RunFaulted l .memUncorrectable 2 (fun i => i.stream = st) s t) ∧
      (∃ t, Machine.exec (.mfpResponse who tier addr .decodeError) s = .next t ∧
        RunFaulted l .access 0xFFFFFFFF (fun i => i.address = addr) s t)) ∧
    (∀ p st l, who = .text p st → (streamAt p st s).launch = some l → (streamAt p st s).active = true →
      kvAt tier addr s = false →
      ((streamAt p st s).state = .loading → Machine.exec (.mfpResponse who tier addr .uncorrectable) s =
        Machine.exec (.launchRetryRequest p st 3) s) ∧
      ((streamAt p st s).state ≠ .loading → (streamAt p st s).textRetry = false → ∃ t, Machine.exec (.mfpResponse who tier addr .uncorrectable) s = .next t ∧
        streamAt p st t = { streamAt p st s with textRetry := true } ∧ OtherStreamsSame p st s t ∧
        OnlyIn [.port, .mem, .slices, .hutch] s t) ∧
      ((streamAt p st s).state ≠ .loading → (streamAt p st s).textRetry = true → ∃ t, Machine.exec (.mfpResponse who tier addr .uncorrectable) s = .next t ∧
        RunFaulted l .memUncorrectable 2 (fun i => i.stream = st) s t) ∧
      (∃ t, Machine.exec (.mfpResponse who tier addr .decodeError) s = .next t ∧
        RunFaulted l .access 0xFFFFFFFF (fun i => i.address = addr) s t)) ∧
    (∀ i k pos, who = .mover i → moverCmd i s = some (k, pos) → CmdLive k pos s →
      (kvAt tier addr s = false → ∃ t, Machine.exec (.mfpResponse who tier addr .uncorrectable) s = .next t ∧
        CmdFaulted k pos .memUncorrectable 2 s t) ∧
      (∃ t, Machine.exec (.mfpResponse who tier addr .decodeError) s = .next t ∧ CmdFaulted k pos .access 0xFFFFFFFF s t)) ∧
    (∀ i, who = .mover i → moverCmd i s = none →
      (∀ c y, carriedFor i s = some c → tget s.contexts c = some y → y.state = .active →
        (kvAt tier addr s = false → ∃ t, Machine.exec (.mfpResponse who tier addr .uncorrectable) s = .next t ∧
          FaultTeardownBegun c s t (fun i => i.status = .memUncorrectable ∧ i.aux = 2 ∧ i.address = addr)) ∧
        (∃ t, Machine.exec (.mfpResponse who tier addr .decodeError) s = .next t ∧
          FaultTeardownBegun c s t (fun i => i.status = .access ∧ i.aux = 0xFFFFFFFF ∧ i.address = addr))) ∧
      (carriedFor i s = none → Machine.exec (.mfpResponse who tier addr .decodeError) s = .next s ∧
        (kvAt tier addr s = false → Machine.exec (.mfpResponse who tier addr .uncorrectable) s = .next s)))) ∧
  (∀ (tier : Tier) (ch addr : Nat) (s : State),
    let f := frameOfAddr tier addr s
    (kvAt tier addr s = false → Machine.exec (.channelUncorrectable tier ch addr) s = .next s) ∧
    (kvAt tier addr s = true → tabWf s.trestle.seqs = true → s.wrd.mapout = none → s.wrd.mapoutWait = [] →
      let g := (movingTo f s).getD f
      ((∀ h ∈ holdersOf g s, ∀ q, tget s.trestle.seqs h.1 = some q → q.parked = false) →
        ∃ t, Machine.exec (.channelUncorrectable tier ch addr) s = .next t ∧
          tget t.wrd.frames g = some { frameAt g s with state := .lost } ∧
          (∀ k, k ≠ g → tget t.wrd.frames k = tget s.wrd.frames k) ∧
          (∀ i l, tget s.wrd.leaves i = some l → tget t.wrd.leaves i = some { l with
            entries := l.entries.map (fun e => if e.valid && e.frame == g then { e with lost := true } else e) }) ∧
          (∀ i, (∃ j, (i, j) ∈ holdersOf g s) →
            tget t.trestle.seqs i = (tget s.trestle.seqs i).map (fun q => { q with lostPage := some g })) ∧
          OnlyIn [.trestle, .wrd] s t) ∧
      (∀ i j q, holdersOf f s = [(i, j)] → tget s.trestle.seqs i = some q → q.parked = true →
        (frameAt f s).holders = 1 → isOut f s = false → inFlight f s = false →
        ∃ t, Machine.exec (.channelUncorrectable tier ch addr) s = .next t ∧
          (atBoundary q.loopId s = false → tget t.trestle.seqs i = none ∧ tget t.wrd.frames f = none) ∧
          (atBoundary q.loopId s = true → tget t.trestle.seqs i = some { q with
            lostPage := some f, verdict := some (q.verdict.getD (7, 0xFF)) })))) ∧
  (∀ (b : List Byte) (rd : HostRead) (s : State), s.MemOk →
    let brings := fun (who : HfpWho) (l : Loc) => ∃ t, Machine.exec (.hfpCompletion who (.ok b)) s = .next t ∧
      memRead l b.length t = b ∧ UnchangedOutside l b.length s t ∧ OnlyIn [.mem] s t
    (∀ c q addr x, tget s.contexts c = some x → brings (.queue c q addr) (ctxLoc x.rcd addr) ∧ brings (.context c addr) (ctxLoc x.rcd addr)) ∧
    (∀ p st e addr l x, (streamAt p st s).launch = some l → tget s.contexts l.ctx = some x → brings (.side p st e addr) (ctxLoc x.rcd addr)) ∧
    (∀ i addr k pos x, moverCmd i s = some (k, pos) → tget s.contexts (k / 256) = some x → brings (.mover i addr) (ctxLoc x.rcd addr)) ∧
    (∀ addr, brings (.physical addr) (pfLoc addr)) ∧
    (∀ c q pos addr, ∃ t, Machine.exec (.hfpCompletion (.fence c q pos addr) (.ok b)) s = .next t ∧
      t.bramble.through = s.bramble.through.eraseP (fun e => e.1 == qkey c q && e.2.1 == pos) ∧ OnlyIn [.bramble] s t) ∧
    ((rd = .error ∨ rd = .poison) →
      (∀ addr, Machine.exec (.hfpCompletion (.physical addr) rd) s = .next s) ∧
      (∀ c q pos addr x, tget s.contexts c = some x → x.state = .active →
        (∃ t, Machine.exec (.hfpCompletion (.queue c q addr) rd) s = .next t ∧
          FaultTeardownBegun c s t (fun i => i.status = .access ∧ i.queue = q ∧ i.address = addr)) ∧
        (∃ t, Machine.exec (.hfpCompletion (.fence c q pos addr) rd) s = .next t ∧
          FaultTeardownBegun c s t (fun i => i.status = .access ∧ i.queue = q ∧ i.seq = pos + 1 ∧ i.address = addr ∧
            i.tag = throughTag c q pos s)) ∧
        (∃ t, Machine.exec (.hfpCompletion (.context c addr) rd) s = .next t ∧
          FaultTeardownBegun c s t (fun i => i.status = .access ∧ i.queue = 0xFFFF ∧ i.address = addr))) ∧
      (∀ p st e addr l, (streamAt p st s).launch = some l → (streamAt p st s).active = true →
        ∃ t, Machine.exec (.hfpCompletion (.side p st e addr) rd) s = .next t ∧
          RunFaulted l .access 0xFFFFFFFF (fun i => i.address = addr) s t) ∧
      (∀ i addr k pos, moverCmd i s = some (k, pos) → CmdLive k pos s →
        ∃ t, Machine.exec (.hfpCompletion (.mover i addr) rd) s = .next t ∧ CmdFaulted k pos .access 0xFFFFFFFF s t)))

/-- Orders of WCH_RESET_CMD (R361, R369, R384, R385): ignored and counted with cause 3 while one runs; BAD_ID for a partition
out of range and ESCALATED under a stage that absorbs it; otherwise the stage is ordered with cause 2, or joined, and the
command runs until it ends. The fault teardowns of a compute reset owe every queue with msix_enable that is not STOPPED a message
(R96). RESET_REQ_N is asserted by stage 4. Joining and the causes of orders are the model's reading (logs 64, 65).
STAGE_BUDGET_EXPIRY (R359 to R361, R365): a teardown over 5 ms orders resets of the partitions its context holds, or a
compute reset where it holds none or has escalated already; a partition reset over 20 ms, not waiting for firmware's map-out,
a compute reset; a compute reset over 100 ms the reset request. Before its budget is over nothing happens. That a RETIRE whose own
teardown escalated ends with the reset is the model's reading (log 110). -/
def Obligations.ResetsAreOrderedAndEscalate : Prop :=
  ((∀ (p : Nat) (s : State), barOpen s = true →
     let r := p % 64
     let done := fun (n : Nat) => ({ s with watch := { s.watch with rstBusy := false, rstResult := n } } : State)
     (s.watch.rstBusy = true → Machine.exec (.partitionReset p) s = .next (bar0Err 3 0x60120 s) ∧
       Machine.exec (.computeReset p) s = .next (bar0Err 3 0x60120 s) ∧ Machine.exec (.resetReq p) s = .next (bar0Err 3 0x60120 s)) ∧
     (s.watch.rstBusy = false →
       (s.integ.slices ≤ r → Machine.exec (.partitionReset p) s = .next (done 2)) ∧
       (r ≠ 0 → Machine.exec (.computeReset p) s = .next (done 2) ∧ Machine.exec (.resetReq p) s = .next (done 2)) ∧
       (r < s.integ.slices → ¬NoReset s → Machine.exec (.partitionReset p) s = .next (done 3)) ∧
       (r < s.integ.slices → NoReset s → stageOf 2 r s = none → ∃ t, Machine.exec (.partitionReset p) s = .next t ∧
         PartitionResetBegun r 2 true s t ∧ t.watch.rstBusy = true ∧ OtherStagesSame 2 r s t) ∧
       (∀ g, r < s.integ.slices → NoReset s → stageOf 2 r s = some g → ∃ t, Machine.exec (.partitionReset p) s = .next t ∧
         stageOf 2 r t = some { g with byCmd := true } ∧ t.watch.rstBusy = true ∧ OtherStagesSame 2 r s t ∧ OnlyIn [.watch] s t) ∧
       (r = 0 → (∃ g ∈ s.watch.stages, g.stage = 4) → Machine.exec (.computeReset p) s = .next (done 3)) ∧
       (r = 0 → NoReset s → (∀ g ∈ s.watch.stages, g.byCmd = false) → ∃ t, Machine.exec (.computeReset p) s = .next t ∧
         ComputeResetBegun 2 s t ∧ (stageOf 3 0 t).map (·.byCmd) = some true ∧ t.watch.rstBusy = true ∧
         (∀ k q, tget s.front.queues k = some q → q.state ≠ .stopped → q.rcd.msixEnable = true →
           (tget t.front.queues k).map (·.urgent) = some true)) ∧
       (∀ g, r = 0 → (∀ x ∈ s.watch.stages, x.stage ≠ 4) → stageOf 3 0 s = some g → ∃ t, Machine.exec (.computeReset p) s = .next t ∧
         stageOf 3 0 t = some { g with byCmd := true } ∧ t.watch.rstBusy = true ∧ OtherStagesSame 3 0 s t ∧ OnlyIn [.watch] s t) ∧
       (∀ g, r = 0 → s.port.resetReq = false → stageOf 4 0 s = some g → ∃ t, Machine.exec (.resetReq p) s = .next t ∧
         stageOf 4 0 t = some { g with byCmd := true } ∧ t.watch.rstBusy = true ∧ OtherStagesSame 4 0 s t ∧ OnlyIn [.watch] s t) ∧
       (r = 0 → s.port.resetReq = true → Machine.exec (.resetReq p) s = .next (done 0)) ∧
       (r = 0 → s.port.resetReq = false → (∀ g ∈ s.watch.stages, g.stage ≠ 4 ∧ g.byCmd = false) →
         ∃ t, Machine.exec (.resetReq p) s = .next t ∧ t.watch.rstBusy = true ∧
           (stageOf 4 0 t).map (fun g => (g.cause, g.byCmd, g.at_)) = some (2, true, s.now) ∧
           (∀ g ∈ t.watch.stages, g.stage ≠ 2 ∧ g.stage ≠ 3)))) ∧
   (∀ s : State,
     (stageOf 4 0 s = none → Machine.exec .resetRequest s = .next s) ∧
     (∀ g, stageOf 4 0 s = some g → ∃ t, Machine.exec .resetRequest s = .next t ∧ t.port = { s.port with resetReq := true } ∧
       (g.byCmd = true → s.watch.rstBusy = true → t.watch.rstBusy = false ∧ t.watch.rstResult = 0) ∧
       ((g.byCmd = false ∨ s.watch.rstBusy = false) → t.watch = s.watch) ∧ OnlyIn [.port, .watch] s t))) ∧
  ((∀ (c : Nat) (x : Context) (fault : Bool) (s : State), tget s.contexts c = some x → x.state = .teardown fault → NoReset s →
     let late := 500000 ≤ s.now - x.teardownAt
     let waits := ∃ p ∈ x.ordered, (stageOf 2 p s).isSome = true
     ((¬late ∨ waits) → Machine.exec (.stageBudgetExpiry 1 c) s = .next s) ∧
     (late → ¬waits → partitionsOf c s ≠ [] → x.escalated = false → ∃ t, Machine.exec (.stageBudgetExpiry 1 c) s = .next t ∧
       (∀ p ∈ partitionsOf c s, (stageOf 2 p t).isSome = true ∧
         (stageOf 2 p s = none → (stageOf 2 p t).map (fun g => (g.cause, g.phase)) = some (1, 0))) ∧
       (tget t.contexts c).map (fun y => (y.escalated, y.ordered)) = some (true, partitionsOf c s)) ∧
     (late → ¬waits → (partitionsOf c s = [] ∨ x.escalated = true) → ∃ t, Machine.exec (.stageBudgetExpiry 1 c) s = .next t ∧
       ComputeResetBegun 1 s t)) ∧
   (∀ (p : Nat) (g : Stage) (s : State), stageOf 2 p s = some g → NoReset s →
     let late := 2000000 ≤ s.now - g.at_ ∧ awaitsMapout p s = false
     (¬late → Machine.exec (.stageBudgetExpiry 2 p) s = .next s) ∧
     (late → ∃ t, Machine.exec (.stageBudgetExpiry 2 p) s = .next t ∧ ComputeResetBegun 1 s t ∧ stageOf 2 p t = none)) ∧
   (∀ (u : Nat) (g : Stage) (s : State), stageOf 3 0 s = some g → (∀ x ∈ s.watch.stages, x.stage ≠ 4) →
     (s.now - g.at_ < 10000000 → Machine.exec (.stageBudgetExpiry 3 u) s = .next s) ∧
     (10000000 ≤ s.now - g.at_ → ∃ t, Machine.exec (.stageBudgetExpiry 3 u) s = .next t ∧
       (stageOf 4 0 t).map (fun x => (x.cause, x.at_)) = some (1, s.now) ∧ stageOf 3 0 t = none)))

/-- The partition reset (R362 to R365): it is asserted once its bystander loops are saved, or 1 ms after the order; runs with free
latches take ST_PARTITION_RESET, the benches are OUT, the streams halt and the partition's reset is asserted; once its writes are drained the halted streams count as confirmed; the
release comes 10 us after; the slice is cleared when ready; with the last channel ready, or out, the benches enter CLEARING
and the stage ends; those of a partition that has failed a self-test stay OUT (R454). A channel not ready 15 ms after the release, or
that reports a fault, is reported for a map-out; with a second one gone the partition stays OUT, and a self-test has failed. The
order of the phases, the message and cause 7 of a test's reset are the model's reading (logs 24, 66, 86). -/
def Obligations.PartitionsAreReset : Prop :=
  (∀ (p : Nat) (g : Stage) (s : State), stageOf 2 p s = some g →
    let saving := unsavedLoop p s = true ∧ s.now - g.at_ < 100000
    ((g.phase ≠ 0 ∨ saving) → Machine.exec (.partitionResetAssert p) s = .next s) ∧
    (g.phase = 0 → ¬saving → ∃ t, Machine.exec (.partitionResetAssert p) s = .next t ∧
      stageOf 2 p t = some { g with phase := 1, since := s.now } ∧ p ∈ t.port.prtRst ∧
      (∀ b, b / 4 = p → (benchAt b t).state = .out ∧ (benchAt b t).res = none) ∧
      (∀ st x, (sliceAt p s).streams[st]? = some x → x.launch.isSome = true → x.confirmed = false →
        (streamAt p st t).state = .halted ∧ (streamAt p st t).fault = none ∧ (streamAt p st t).launch = x.launch) ∧
      (∀ st l k pos m, (streamAt p st s).launch = some l → p ∈ l.parts → l.cmd = some (k, pos) →
        s.cmd k pos = some m → m.latch = none → (t.cmd k pos).map (·.latch) = some (some ⟨.partitionReset, 0x200 + p⟩))) ∧
    (g.phase ≠ 1 → Machine.exec (.partitionWritesDrained p) s = .next s) ∧
    (g.phase = 1 → ∃ t, Machine.exec (.partitionWritesDrained p) s = .next t ∧
      stageOf 2 p t = some { g with phase := 2, since := s.now } ∧
      (∀ st, st < 4 → (streamAt p st s).launch.isSome = true → (streamAt p st s).state = .halted → (streamAt p st t).confirmed = true) ∧
      t.port = s.port) ∧
    (g.phase = 2 → 1000 ≤ s.now - g.since → ∃ t, Machine.exec (.partitionResetRelease p) s = .next t ∧
      stageOf 2 p t = some { g with phase := 3, since := s.now } ∧
      t.port = { s.port with prtRst := s.port.prtRst.filter (fun q => q != p) } ∧ OnlyIn [.port, .watch] s t) ∧
    ((g.phase ≠ 2 ∨ s.now - g.since < 1000) → Machine.exec (.partitionResetRelease p) s = .next s)) ∧
  (∀ (p : Nat) (s : State),
    (stageOf 2 p s = none → Machine.exec (.partitionResetAssert p) s = .next s ∧
      Machine.exec (.partitionWritesDrained p) s = .next s ∧ Machine.exec (.partitionResetRelease p) s = .next s)) ∧
  (∀ (p : Nat) (g : Stage) (s : State), stageOf 2 p s = some g → stageOf 3 0 s = none →
    let there := fun (l : List Nat) (i : Nat) => 8 * p + i ∈ l ∨ (Tier.fast, 8 * p + i) ∈ s.wrd.outChannels
    let ends := fun (t : State) => stageOf 2 p t = none ∧
      (g.detail = 0 → p ∉ s.power.failedParts → ∀ b, b / 4 = p → (benchAt b s).state = .out →
        (benchAt b t).state = .clearing ∧ (benchAt b t).res = none) ∧
      ((g.detail ≠ 0 ∨ p ∈ s.power.failedParts) → ∀ b, benchAt b t = benchAt b s) ∧
      (g.byCmd = true → t.watch.rstBusy = false ∧ t.watch.rstResult = 0) ∧
      (g.test = false → (∀ y ∈ s.power.tests, y.1 ≠ p) → p ∉ t.sched.unusable)
    let heard := fun (ch : Nat) => ({ s with wrd := { s.wrd with
      faultChannels := s.wrd.faultChannels.filter (fun e => e != (Tier.fast, ch)) } } : State)
    let cleared := fun (t : State) => sliceAt p t = { Slice.reset with
      fastChannels := (sliceAt p s).fastChannels,
      streams := (sliceAt p s).streams.map (fun x => if x.state = .halted ∨ x.launch = none then Stream.reset else x) }
    (g.phase ≠ 3 → Machine.exec (.sliceReady p) s = .next s) ∧
    (g.phase = 3 → (∃ i, i < 8 ∧ ¬there g.ready i) → ∃ t, Machine.exec (.sliceReady p) s = .next t ∧
      stageOf 2 p t = some { g with phase := 4 } ∧ cleared t ∧ OnlyIn [.slices, .chest, .jnl, .watch, .link] s t) ∧
    (g.phase = 3 → (∀ i, i < 8 → there g.ready i) → ∃ t, Machine.exec (.sliceReady p) s = .next t ∧ cleared t ∧ ends t) ∧
    (∀ i, i < 8 →
      (3 ≤ g.phase → 8 * p + i ∉ g.ready → (g.phase ≠ 4 ∨ ∃ j, j < 8 ∧ ¬there (g.ready ++ [8 * p + i]) j) →
        ∃ t, Machine.exec (.channelReady .fast (8 * p + i)) s = .next t ∧
          stageOf 2 p t = some { g with ready := g.ready ++ [8 * p + i] } ∧ t.wrd = (heard (8 * p + i)).wrd ∧ OnlyIn [.watch, .wrd] s t) ∧
      (g.phase = 4 → 8 * p + i ∉ g.ready → (∀ j, j < 8 → there (g.ready ++ [8 * p + i]) j) →
        ∃ t, Machine.exec (.channelReady .fast (8 * p + i)) s = .next t ∧ ends t) ∧
      ((g.phase < 3 ∨ 8 * p + i ∈ g.ready) → Machine.exec (.channelReady .fast (8 * p + i)) s = .next (heard (8 * p + i)))) ∧
    (∀ i units, i < 8 →
      let ch := 8 * p + i
      let m : Mapout := { tier := .fast, channel := ch, lost := true, units := units, source := 2, removed := 0,
                          invalidated := 0, outcome := 0, tenant := 0xFFFF }
      let due := 3 ≤ g.phase ∧ 1500000 ≤ s.now - g.since ∧ ch ∉ g.ready ∧ (Tier.fast, ch) ∉ s.wrd.outChannels
      let unasked := (∀ m, Work.mapout m ∉ (coreAt 1 s).mailbox ++ (coreAt 1 s).inService) ∧ s.wrd.mapoutWait = []
      let other := ∃ j, j < 8 ∧ (Tier.fast, 8 * p + j) ∈ s.wrd.outChannels
      (¬due → Machine.exec (.channelReadyTimeout ch units) s = .next s) ∧
      (due → unasked → ¬other → 1 < s.mgmt.cores.length → ∃ t, Machine.exec (.channelReadyTimeout ch units) s = .next t ∧
        (coreAt 1 t).mailbox = (coreAt 1 s).mailbox ++ [.mapout m] ∧ OnlyIn [.mgmt] s t) ∧
      (due → unasked → other → g.test = false → ∃ t, Machine.exec (.channelReadyTimeout ch units) s = .next t ∧
        stageOf 2 p t = none ∧ t.sched = s.sched ∧ t.mgmt = s.mgmt) ∧
      (due → unasked → other → g.test = true → g.detail = 0 → 2 < s.mgmt.cores.length → ∃ t, Machine.exec (.channelReadyTimeout ch units) s = .next t ∧
        stageOf 2 p t = none ∧ t.sched = s.sched ∧ p ∈ t.power.failedParts ∧
        t.power.selftestsFailed = satInc 8 s.power.selftestsFailed ∧ (coreAt 2 t).mailbox = (coreAt 2 s).mailbox ++ [.log 0 3 p]))) ∧
  (∀ (p : Nat) (g : Stage) (s : State), stageOf 3 0 s = some g →
    (g.phase = 2 → p < s.integ.slices → p ∉ g.ready → ∃ t, Machine.exec (.sliceReady p) s = .next t ∧
      stageOf 3 0 t = some { g with ready := g.ready ++ [p] } ∧ OnlyIn [.watch] s t) ∧
    ((g.phase ≠ 2 ∨ s.integ.slices ≤ p ∨ p ∈ g.ready) → Machine.exec (.sliceReady p) s = .next s)) ∧
  (∀ (tier : Tier) (ch : Nat) (units : List Nat) (s : State), 1 < s.mgmt.cores.length →
    let known := (tier, ch) ∈ s.wrd.faultChannels
    let asks := fun (lost : Bool) (source : Nat) (t : State) => (coreAt 1 t).mailbox = (coreAt 1 s).mailbox ++
      [.mapout { tier := tier, channel := ch, lost := lost, units := units, source := source, removed := 0,
                 invalidated := 0, outcome := 0, tenant := 0xFFFF }]
    Machine.exec (.channelReady .slow ch) s = .next { s with wrd := { s.wrd with
      faultChannels := s.wrd.faultChannels.filter (fun e => e != (Tier.slow, ch)) } } ∧
    (∃ t, Machine.exec (.ceRate tier ch units) s = .next t ∧ asks false 1 t ∧ OnlyIn [.mgmt] s t) ∧
    (tier = .slow → ∃ t, Machine.exec (.channelFault tier ch units) s = .next t ∧ asks true 0 t ∧
      t.wrd = { s.wrd with faultChannels := if known then s.wrd.faultChannels else s.wrd.faultChannels ++ [(tier, ch)] } ∧
      OnlyIn [.mgmt, .wrd] s t) ∧
    (tier = .fast → ch / 8 < s.integ.slices → NoReset s → stageOf 2 (ch / 8) s = none →
      ∃ t, Machine.exec (.channelFault tier ch units) s = .next t ∧ asks true 0 t ∧
        (tier, ch) ∈ t.wrd.faultChannels ∧ PartitionResetBegun (ch / 8) 5 false s t))

/-- The compute reset (R366 to R368). Completions not out within 10 ms are given up and their queues STOPPED; once they are
out every context is LOST, or FREE after a driver teardown that had escalated (log 64), and the command-processing sub-blocks are
cleared while tenants, configuration, producer counts and the count of deadlock verdicts (R136) stay, unless a command runs (R495; of a
RETIRE whose own teardown escalated, log 110); at the release scratch storage is zero, the benches FREE and
the frames but RESERVED and LOST ones forgotten; with every slice ready and the patch loaded the hub is ready. A dump past its allowance, of a stage or of
a quiesce, is cut off where it has landed and marked (R374, R446). -/
def Obligations.ComputeIsReset : Prop :=
  (∀ (g : Stage) (s : State), stageOf 3 0 s = some g →
    ((g.phase ≠ 0 ∨ s.now - g.at_ < 1000000) → Machine.exec .completionsAllowanceExpiry s = .next s) ∧
    (g.phase = 0 → 1000000 ≤ s.now - g.at_ → tabWf s.front.queues = true →
      ∃ t, Machine.exec .completionsAllowanceExpiry s = .next t ∧ OnlyIn [.port, .mem, .front, .watch, .hutch] s t ∧
        (∀ k q, tget s.front.queues k = some q → (q.w < q.d ∨ q.unwritten ≠ []) → k ∈ t.watch.lostCompletions ∧
          tget t.front.queues k = some { q with
            w := q.d, f := q.d, cmds := [], fetched := [], unwritten := [], urgent := false, state := .stopped }) ∧
        (∀ k q, tget s.front.queues k = some q → ¬(q.w < q.d ∨ q.unwritten ≠ []) → tget t.front.queues k = some q)) ∧
    (let may := g.phase = 0 ∧ s.front.qBusy = false ∧ retireRuns s = false ∧ (∀ e ∈ s.front.queues, e.2.state = .stopped ∧ e.2.unwritten = []);
      (¬may → Machine.exec .computeResetAssert s = .next s) ∧
      (may → tabWf s.contexts = true → ∃ t, Machine.exec .computeResetAssert s = .next t ∧
        (stageOf 3 0 t).map (fun x => (x.phase, x.since)) = some (1, s.now) ∧
        (∀ c x, tget s.contexts c = some x → (x.state = .lost ∨ x.cause.isSome = true ∨ x.escalated = false) →
          (tget t.contexts c).map (·.state) = some .lost) ∧
        (∀ c x, tget s.contexts c = some x → x.state ≠ .lost → x.cause = none → x.escalated = true → tget t.contexts c = none) ∧
        t.objects = [] ∧ t.graphs = [] ∧ t.front = Front.reset ∧ t.trestle = Trestle.reset ∧ t.wrd.models = [] ∧ t.wrd.leaves = [] ∧
        t.wrd.mapoutLast = (0, false) ∧ t.chest.mfpPause = s.chest.mfpPause ∧ t.chest.hfpPause = false ∧
        t.sched.jobs = [] ∧ t.sched.residencies = [] ∧ (∀ b, b < 4 * s.integ.slices → (benchAt b t).state = .out) ∧
        (∀ p st, (streamAt p st t).launch = none) ∧ t.chest.queues = [] ∧ t.chest.retired = s.chest.retired ∧
        t.chest.classes.map (fun c => (c.quota, c.high, c.low, c.used)) = s.chest.classes.map (fun c => (c.quota, c.high, c.low, 0)) ∧
        t.port.prtRst = List.range s.integ.slices ∧ t.tenants = s.tenants ∧ t.hub.sealSlots = s.hub.sealSlots ∧
        t.wrd.hkBase = s.wrd.hkBase ∧ t.wrd.enable = s.wrd.enable ∧ t.wrd.frames = s.wrd.frames ∧ t.sched.rtBenchMax = s.sched.rtBenchMax ∧
        t.hub.burProd = s.hub.burProd ∧ t.jnl.evtProd = s.jnl.evtProd ∧ t.jnl.traceProd = s.jnl.traceProd ∧
        t.jnl.logProd = s.jnl.logProd ∧ t.mgmt.patchLevel = 0 ∧ t.bureau = s.bureau ∧
        t.bramble.dlkCnt = s.bramble.dlkCnt ∧ t.chest.peak = s.chest.retired.length)) ∧
    (g.phase ≠ 1 → Machine.exec .computeResetRelease s = .next s) ∧
    (g.phase = 1 → ∃ t, Machine.exec .computeResetRelease s = .next t ∧
      stageOf 3 0 t = some { g with phase := 2, since := s.now } ∧ t.port.prtRst = [] ∧ t.mem = { s.mem with scratch := [], slow := t.mem.slow } ∧
      t.sched = { s.sched with benches := [] } ∧ t.wrd.hand = 0 ∧ t.wrd.mapout = none ∧
      t.wrd.frames = s.wrd.frames.filter (fun e => e.2.state == .reserved || e.2.state == .lost)) ∧
    (let may := g.phase = 2 ∧ (∀ p, p < s.integ.slices → p ∈ g.ready) ∧ s.bramble.overlay ≠ [];
      (¬may → Machine.exec .hubReady s = .next s) ∧
      (may → s.wrd.mapout = none → s.wrd.mapoutWait = [] → ∃ t, Machine.exec .hubReady s = .next t ∧ t.watch.hubReady = true ∧
        stageOf 3 0 t = none ∧ (g.byCmd = true → t.watch.rstBusy = false ∧ t.watch.rstResult = 0) ∧
        (g.flr = true → t.port.dropAll = false) ∧ t.contexts = s.contexts ∧ t.mem = { s.mem with slow := t.mem.slow }))) ∧
  (∀ s : State, stageOf 3 0 s = none → Machine.exec .completionsAllowanceExpiry s = .next s ∧
    Machine.exec .computeResetAssert s = .next s ∧ Machine.exec .computeResetRelease s = .next s ∧ Machine.exec .hubReady s = .next s) ∧
  (∀ (landed : Nat) (s : State),
    let due := fun (g : Stage) => g.phase = 0 ∧ g.stage ≠ 4 ∧ g.test = false ∧ g.truncated = false ∧
      (if g.stage = 2 then 100000 else 200000) ≤ s.now - g.at_
    let cut := fun (slot : Nat) (t : State) =>
      (slot < 8 → tget t.hutch.dumps slot = some landed ∧ slot ∈ t.hutch.cut) ∧
      ((8 ≤ slot ∨ s.hutch.lastSlot = slot) → t.hutch.dumpArea = s.hutch.dumpArea.take landed) ∧
      (slot < 8 → s.hutch.lastSlot ≠ slot → t.hutch.dumpArea = s.hutch.dumpArea) ∧ OnlyIn [.watch, .hutch] s t
    let size := fun (slot n : Nat) => (slot < 8 → tget s.hutch.dumps slot = some n) ∧ (8 ≤ slot → s.hutch.dumpArea.length = n)
    (∀ before g after n, s.watch.stages = before ++ g :: after → due g → (∀ x ∈ after, ¬due x) → size g.dumpSlot n →
      (landed < n → ∃ t, Machine.exec (.dumpAllowanceExpiry landed) s = .next t ∧ cut g.dumpSlot t ∧
        { g with truncated := true } ∈ t.watch.stages) ∧
      (n ≤ landed → Machine.exec (.dumpAllowanceExpiry landed) s = .next s)) ∧
    ((∀ x ∈ s.watch.stages, ¬due x) →
      let late := s.power.quiesced = true ∧ 200000 ≤ s.now - s.power.quiesceAt
      (¬late → Machine.exec (.dumpAllowanceExpiry landed) s = .next s) ∧
      (∀ n, late → size s.power.quiesceSlot n →
        (landed < n → ∃ t, Machine.exec (.dumpAllowanceExpiry landed) s = .next t ∧ cut s.power.quiesceSlot t ∧ t.watch = s.watch) ∧
        (n ≤ landed → Machine.exec (.dumpAllowanceExpiry landed) s = .next s))))

/-- OP_SNAPSHOT (R403, R404): it retires with ST_OK and writes nothing outside its buffer; the header gives generation 2, the
context and the two times; the Context section lies at byte 256 with its directory entry; where nothing was truncated the
queues of the context have no spilled records and no overflow left; no other queue changes. A buffer that is no memory object
is ST_ACCESS. The places of the sections and what counts as truncated are the model's reading (log 80).
The state window (R398, R399): a write of STA_ADDR starts one read and drops what the last one gave; where it completes it
gives the error code, with the data zero, or eight words of 64 bytes at the offset. R400: a context reads as its record, its
queries and its drops, a queue as R401, a loop as R402, Hutch's ring and dump area as they stand and its spill region as the slow tier
holds it while WCH_SPILL_BASE is valid (log 79); a bad space, index, offset or alignment, and a compute reset between
its steps, are the errors. Fields that two rules share are read as in logs 79 and 94 (the model's). -/
def Obligations.StateIsReadBackAndSaved : Prop :=
  (∀ (c q pos : Nat) (m : Cmd) (s : State), starting (qkey c q) pos 0x13 s = some m → q < 256 →
     (operandLoc (qkey c q) m 16 24 s = none → ∃ t, Machine.exec (.opSnapshot c q pos) s = .next t ∧
       (t.cmd (qkey c q) pos).map (·.latch) = some (some ⟨.access, 16⟩) ∧ OnlyIn [.front, .chest, .jnl] s t) ∧
     (∀ buf, operandLoc (qkey c q) m 16 24 s = some buf → s.MemOk →
       let len := fld m.entry 32 8
       ∃ t, Machine.exec (.opSnapshot c q pos) s = .next t ∧
         t.cmd (qkey c q) pos = some { m with started := true, running := false, stopping := false, latch := some ⟨.ok, 0⟩ } ∧
         UnchangedOutside buf len s t ∧ OnlyIn [.port, .mem, .hub, .front, .chest, .jnl] s t ∧
         (∀ k, k / 256 ≠ c → tget t.front.queues k = tget s.front.queues k) ∧
         (∀ k u, tget s.front.queues k = some u → ∃ v, tget t.front.queues k = some v ∧
           (v.d, v.f, v.w, v.state) = (u.d, u.f, u.w, u.state) ∧
           ((v.spilled, v.overflow, v.overflowCount) = (u.spilled, u.overflow, u.overflowCount) ∨
            (v.spilled, v.overflow, v.overflowCount) = ([], false, 0))) ∧
         (256 ≤ len → (buf.space = .host → hostDropped buf s = false) →
           let h := memRead buf 256 t
           fld h 0 1 = 2 ∧ fld h 1 1 ≤ 1 ∧ fld h 2 2 = c % 65536 ∧ fld h 8 8 = m.dispatchedAt % 2 ^ 64 ∧ fld h 16 8 = s.now ∧
           (fld h 1 1 = 0 → ∀ k v, tget t.front.queues k = some v → k / 256 = c → v.spilled = [] ∧ v.overflow = false ∧ v.overflowCount = 0)) ∧
         (∀ x, 512 ≤ len → tget s.contexts c = some x → (tgetD s.hub.uses c Use.zero).bytes.length = 4 →
           (∀ n, n ≤ 256 → buf.space = .host → hostDropped (buf.plus n) s = false) →
           let o := (contextObject c x (begun (qkey c q) pos s)).take 256
           (fld (memRead buf 256 t) 32 4, fld (memRead buf 256 t) 36 4, fld (memRead buf 256 t) 40 4, fld (memRead buf 256 t) 44 4) =
             (1, 256, 256, 1) ∧ memRead (buf.plus 256) 256 t = o))) ∧
  ((∀ (v : W64) (s : State),
     (barOpen s = true → Machine.exec (.staAddrWrite v) s =
       .next { s with sta := { s.sta with addr := v, busy := true, valid := false, data := [0, 0, 0, 0, 0, 0, 0, 0] } }) ∧
     (barOpen s = false → Machine.exec (.staAddrWrite v) s = .next s)) ∧
   (∀ s : State,
     (s.sta.busy = false → Machine.exec .staReadDone s = .next s) ∧
     (s.sta.busy = true →
       let a := s.sta.addr.toNat
       let space := a / 2 ^ 56
       let index := a / 2 ^ 32 % 2 ^ 24
       let off := a % 2 ^ 32
       let err := fun (n : Nat) => ({ s with sta := { s.sta with
         busy := false, valid := false, error := n, data := [0, 0, 0, 0, 0, 0, 0, 0] } } : State)
       let region := fun (bs : List Byte) (n : Nat) =>
         (off % 64 ≠ 0 → Machine.exec .staReadDone s = .next (err 5)) ∧
         (off % 64 = 0 → n ≤ off → Machine.exec .staReadDone s = .next (err 3)) ∧
         (off % 64 = 0 → off < n → ∃ t, Machine.exec .staReadDone s = .next t ∧ OnlyIn [.sta] s t ∧
           (t.sta.busy, t.sta.valid, t.sta.error, t.sta.addr, t.sta.data.length) = (false, true, 0, s.sta.addr, 8) ∧
           (∀ i j, i < 8 → j < 8 → ((t.sta.data[i]?).getD 0).toNat / 256 ^ j % 256 = ((bs[8 * i + j]?).getD 0).toNat))
       let reads := fun (o : List Byte) => region (o.drop off) o.length
       let spill := fun (at_ n : Nat) =>
         (s.watch.spillValid = false → Machine.exec .staReadDone s = .next (err 4)) ∧
         (s.watch.spillValid = true → region (memRead ⟨.slow, s.watch.spillBase + at_ + off⟩ 64 s) n)
       (staBlocked s = true → Machine.exec .staReadDone s = .next (err 4)) ∧
       (staBlocked s = false →
         ((space = 0 ∨ 8 < space) → Machine.exec .staReadDone s = .next (err 1)) ∧
         (space = 1 → tget s.contexts index = none → Machine.exec .staReadDone s = .next (err 2)) ∧
         (∀ x, space = 1 → tget s.contexts index = some x → reads (contextObject index x s)) ∧
         ((space = 2 ∨ space = 3) → (∀ x, tget s.contexts (index / 256) = some x → x.rcd.queueCount ≤ index % 256) →
           Machine.exec .staReadDone s = .next (err 2)) ∧
         (∀ x u, tget s.contexts (index / 256) = some x → index % 256 < x.rcd.queueCount →
           tget s.front.queues index = some u →
           (space = 2 → reads (queueObject u)) ∧ (space = 3 → reads (spilledRecords u s).flatten)) ∧
         (space = 4 → Config.maxSequences ≤ index → Machine.exec .staReadDone s = .next (err 2)) ∧
         (∀ x, space = 4 → index < Config.maxSequences → tget s.trestle.seqs index = some x →
           reads (seqRecord x s ++ zeros 32 ++ memRead (paramLoc index s) 128 s)) ∧
         (space = 5 → Config.maxLoops ≤ index → Machine.exec .staReadDone s = .next (err 2)) ∧
         (space = 5 → index < Config.maxLoops → reads (loopObject index s)) ∧
         (space = 6 → 10 < index → Machine.exec .staReadDone s = .next (err 2)) ∧
         (space = 6 → index = 0 → region (s.hutch.log.flatten.drop off) (2 ^ 20)) ∧
         (space = 6 → index = 9 → region (s.hutch.dumpArea.drop off) (3 * 2 ^ 20)) ∧
         (space = 6 → index = 10 → spill 0 (512 * 2 ^ 20)) ∧
         (space = 6 → 1 ≤ index → index ≤ 8 → spill (512 * 2 ^ 20 + (index - 1) * (64 * 2 ^ 20)) (64 * 2 ^ 20)) ∧
         (space = 7 → 64 ≤ index → Machine.exec .staReadDone s = .next (err 2)) ∧
         (space = 7 → index < 64 → reads (wordBytes [tgetD s.chest.bankCount index 0, tgetD s.chest.bankRetired index 0,
           tgetD s.chest.bankBad index 0])) ∧
         (space = 8 → index ≠ 0 → Machine.exec .staReadDone s = .next (err 2)) ∧
         (space = 8 → index = 0 → reads (wordBytes [s.jnl.evtLost, s.jnl.evtMerged, s.jnl.evtWritten]))))))

/-- Firmware update (R435 to R438): STAGE takes a length and waits for the image, which is read from host memory, and whose checks give
BAD_VERSION, BAD_IMAGE or FLASH_ERROR or make it STAGED: the flash slot that is not running then holds its bytes, and zeros behind
them (log 133), and nothing else of the flash changes; ACTIVATE is BAD_STATE unless STAGED, CAPS where the image lacks
an agreed capability, and otherwise the emergency test; QUIESCING ends with the pending slot written and the cores restarted
into it; PROBATION follows with all running, and a commit 10 s after; a reload that failed in LOADING, or a FAILED core (log 132), rolls back, once
MC0 runs; CANCEL. A write while busy is ignored and counted. That firmware's own steps take no time of their own is log 69 (DESIGN
CHOICE), the order of the checks log 74. -/
def Obligations.FirmwareIsUpdated : Prop :=
  (∀ (kib : Nat) (raise : Bool) (s : State),
    let m := s.mgmt
    let ended := fun (r : Nat) => ({ s with mgmt := { m with
      updState := .idle, updBusy := false, updResult := r, stagedVersion := 0 } } : State)
    let lacks := s.hub.agreedCaps &&& (Config.imageCaps (slotHeader (1 - m.slot) s)).toNat ≠ s.hub.agreedCaps
    let tested : UpdState := if emergency s then .pendingEmergency else .quiescing
    (barOpen s = false → Machine.exec (.updateStage kib) s = .next s ∧ Machine.exec (.updateActivate raise) s = .next s ∧
      Machine.exec .updateCancel s = .next s) ∧
    (barOpen s = true → m.updBusy = true → Machine.exec (.updateStage kib) s = .next (bar0Err 3 0x70208 s) ∧
      Machine.exec (.updateActivate raise) s = .next (bar0Err 3 0x70208 s)) ∧
    (barOpen s = true → m.updBusy = false →
      ((kib = 0 ∨ 31744 < kib) → Machine.exec (.updateStage kib) s = .next (ended 3)) ∧
      (1 ≤ kib → kib ≤ 31744 → Machine.exec (.updateStage kib) s = .next { s with mgmt := { m with
        updState := .staging, updBusy := true, updResult := 0, stagedVersion := 0, updLength := kib } }) ∧
      (m.updState ≠ .staged → Machine.exec (.updateActivate raise) s = .next { s with mgmt := { m with updResult := 2 } }) ∧
      (m.updState = .staged → lacks → Machine.exec (.updateActivate raise) s = .next { s with mgmt := { m with updResult := 6 } }) ∧
      (m.updState = .staged → ¬lacks → (coreAt 0 s).state = .running → Machine.exec (.updateActivate raise) s =
        .next { s with mgmt := { m with updBusy := true, updResult := 0, raiseFloor := raise, updState := tested } }) ∧
      (m.updState = .staged → ¬lacks → (coreAt 0 s).state ≠ .running → Machine.exec (.updateActivate raise) s =
        .next { s with mgmt := { m with updBusy := true, updResult := 0, raiseFloor := raise } })) ∧
    (barOpen s = true →
      ((m.updState = .pendingEmergency ∨ (m.updState = .staged ∧ m.updBusy = false)) →
        Machine.exec .updateCancel s = .next (ended 8)) ∧
      (m.updState = .idle → Machine.exec .updateCancel s = .next { s with mgmt := { m with updResult := 2 } }) ∧
      ((m.updState ∈ [.staging, .quiescing, .loading, .probation, .rollingBack] ∨ (m.updState = .staged ∧ m.updBusy = true)) →
        Machine.exec .updateCancel s = .next (bar0Err 3 0x70208 s))) ∧
    (m.updState = .pendingEmergency → (coreAt 0 s).state = .running →
      Machine.exec .updateEmergencyCleared s = .next { s with mgmt := { m with updState := tested } }) ∧
    ((m.updState ≠ .pendingEmergency ∨ (coreAt 0 s).state ≠ .running) → Machine.exec .updateEmergencyCleared s = .next s)) ∧
  (∀ (img : List Byte) (ok : Bool) (s : State), s.MemOk →
    let m := s.mgmt
    let n := m.updLength * 1024
    let got := padTo n (img.take n)
    let e := imageError (imageReader got) s
    let h := got.take 1024
    let host := fun (t : State) => t.mem.host = (memWrite (pfLoc m.updAddr) got s).mem.host ∧ OnlyIn [.port, .mem, .mgmt] s t
    let kept := fun (t : State) => t.mem = { s.mem with host := t.mem.host }
    let ended := fun (r : Nat) (t : State) => host t ∧ t.mgmt = { m with updState := .idle, updBusy := false, updResult := r, stagedVersion := 0 }
    let other := slotBase (1 - m.slot)
    let waits := m.updState = .staging ∧ (coreAt 0 s).state = .running
    let long := n < fld h 24 4
    (¬waits → Machine.exec (.stagingDone img ok) s = .next s) ∧
    (waits → e = 4 → ∃ t, Machine.exec (.stagingDone img ok) s = .next t ∧ ended 4 t ∧ kept t) ∧
    (waits → e ≠ 4 → (e ≠ 0 ∨ long) → ∃ t, Machine.exec (.stagingDone img ok) s = .next t ∧ ended 3 t ∧ kept t) ∧
    (waits → e = 0 → ¬long → ok = false → ∃ t, Machine.exec (.stagingDone img ok) s = .next t ∧ ended 5 t ∧
      FlashSame other flashSlot s t) ∧
    (waits → e = 0 → ¬long → ok = true → ∃ t, Machine.exec (.stagingDone img ok) s = .next t ∧ host t ∧
      t.mgmt = { m with updState := .staged, updBusy := false, updResult := 0, stagedVersion := fld h 8 4 } ∧
      FlashSame other flashSlot s t ∧
      (∀ off k, off + k ≤ flashSlot → slotRead (1 - m.slot) off k t = padTo k (slice got off k)))) ∧
  (∀ s : State, s.MemOk →
    let m := s.mgmt
    let may := m.updState = .quiescing ∧ (coreAt 0 s).state = .running
    (may → ∃ t, Machine.exec .updateQuiesced s = .next t ∧ t.mgmt.updState = .loading ∧ t.mgmt.updBusy = m.updBusy ∧
      CoresRestarted (1 - m.slot) s t ∧
      DirWritten { currentDir s with pending := some (1 - m.slot), tries := 1 } s t ∧ OnlyIn [.port, .mem, .wrd, .mgmt] s t) ∧
    (¬may → Machine.exec .updateQuiesced s = .next s)) ∧
  (∀ (ok : Bool) (s : State),
    let m := s.mgmt
    let up := ∀ c ∈ m.cores, c.state = .running
    let bad := m.loadFailed = true ∨ ∃ c ∈ m.cores, c.state = .failed
    (m.updState = .loading → bad → ∃ t, Machine.exec (.updateLoaded ok) s = .next t ∧ RolledBack s t ∧
      OnlyIn [.port, .mem, .wrd, .mgmt] s t) ∧
    (m.updState = .loading → ¬bad → ok = true → up → Machine.exec (.updateLoaded ok) s =
      .next { s with mgmt := { m with updState := .probation, probationAt := s.now } }) ∧
    ((m.updState ≠ .loading ∨ (¬bad ∧ (ok = false ∨ ¬up))) → Machine.exec (.updateLoaded ok) s = .next s) ∧
    (let due := m.updState = .probation ∧ up ∧ 1000000000 ≤ s.now - m.probationAt;
      (due → ∃ t, Machine.exec .probationExpiry s = .next t ∧ t.mgmt.updState = .idle ∧ t.mgmt.updBusy = false ∧
        t.mgmt.updResult = 0 ∧ (s.MemOk → DirWritten { currentDir s with active := m.slot, pending := none, tries := 0 } s t) ∧
        t.mgmt.securityFloor = (if m.raiseFloor then max m.securityFloor (fld (slotHeader m.slot s) 16 4) else m.securityFloor) ∧
        t.mgmt.cores = m.cores ∧ t.mgmt.slot = m.slot ∧ OnlyIn [.port, .mem, .mgmt] s t) ∧
      (¬due → Machine.exec .probationExpiry s = .next s)) ∧
    (m.updState = .rollingBack → up → m.rollbackDue = false → Machine.exec .rollbackDone s = .next { s with mgmt := { m with
      updState := .idle, updBusy := false, updResult := 7, stagedVersion := 0 } }) ∧
    ((m.updState ≠ .rollingBack ∨ ¬up ∨ m.rollbackDue = true) → Machine.exec .rollbackDone s = .next s))

/-- Start-up (R416 to R418, R423, R425, R426). An image that passes has a legal header, sections that lie apart, an unrevoked
key, a security version at the floor, the fused rom_id and a valid signature. The ROM tries the pending slot while tries are
left, with one taken, then the active one; otherwise the active one and the other; the sections 1 to 5 of the first authentic slot are
loaded and its code runs in all four cores; with none boot_stage is 0xF. MC0's first work sets the tiers up and orders the start-up
compute reset. The patch of section 6 of the slot that runs, where it passes, fills overlay and redirects in a compute reset's step 5;
one that fails sets boot_error 6. HUB_HOST_CAPS forms the agreed set. A pending try is committed. What MC0 writes to HUB_DEV_CAPS and
the times of the boot stages are the model's choice (logs 73, 132). -/
def Obligations.TheBlockStartsUp : Prop :=
  (∀ (rd : Nat → Nat → List Byte) (s : State), imageError rd s = 0 →
    let h := rd 0 1024
    let lo := fun (k : Nat) => fld h (128 + 64 * k + 48) 4
    let hi := fun (k : Nat) => lo k + fld h (128 + 64 * k + 52) 4
    let n := fld h 5 1
    fld h 0 4 = 0x46574E59 ∧ fld h 4 1 = 2 ∧ 1 ≤ n ∧ n ≤ 8 ∧
    (∀ k, k < n → 4096 ≤ lo k ∧ hi k ≤ fld h 24 4 ∧ lo k % 4096 = 0) ∧
    (∀ j k, j < n → k < n → j ≠ k → hi j ≤ lo k ∨ hi k ≤ lo j) ∧
    (∀ k, k < n → ∃ x, x = rd (lo k) (hi k - lo k) ∧ x.length = hi k - lo k ∧ sha384 x = slice h (128 + 64 * k) 48) ∧
    s.integ.keyHashes[fld h 20 4]? = some (beNat (sha384 (slice h 640 96))) ∧ s.integ.revoked[fld h 20 4]? = some false ∧
    s.mgmt.securityFloor ≤ fld h 16 4 ∧ fld h 28 4 = s.integ.romId ∧
    ecdsaOk curve384 (beNat (sha384 (h.take 928))) (fld h 928 48) (fld h 976 48) (fld h 640 48) (fld h 688 48) = true) ∧
  (∀ s : State, s.MemOk →
    let m := s.mgmt
    let d := currentDir s
    let may := s.port.blkRstN = true ∧ m.bootStage = 0
    let trial := d.pending.isSome = true ∧ 0 < d.tries
    let dir := fun (t : State) =>
      (∀ p, d.pending = some p → 0 < d.tries → DirWritten { d with tries := d.tries - 1 } s t) ∧
      (∀ p, d.pending = some p → d.tries = 0 → DirWritten { d with pending := none } s t) ∧
      (d.pending = none → t.mem = s.mem) ∧ OnlyIn [.port, .mem, .mgmt] s t
    let noDir := if newestDir s = none then 1 else 0
    let boots := fun (k err : Nat) (t : State) => t.mgmt.bootStage = 2 ∧ t.mgmt.slot = k ∧ t.mgmt.bootError = err ∧
      t.mgmt.bootedPending = decide (trial ∧ d.pending = some k) ∧
      t.mgmt.fwVersion = fld (slotHeader k s) 8 4 ∧ t.mgmt.shared = imageCells (slotSection k 5 s) ∧
      (∀ (j : Nat) (c : Core), j < 4 → m.cores[j]? = some c → t.mgmt.cores[j]? =
        some { c with state := .running, heldSince := s.now, wdtExpired := false, reloadFailed := false, wdtKick := s.now,
                      tcm := imageCells (slotSection k (j + 1) s),
                      mailbox := if j = 0 then c.mailbox ++ [.bootSetup] else c.mailbox }) ∧ dir t
    let fails := fun (err : Nat) (t : State) => t.mgmt.bootStage = 0xF ∧ t.mgmt.bootError = err ∧ t.mgmt.cores = m.cores ∧ dir t
    (¬may → Machine.exec .bootLoadDone s = .next s) ∧
    (∀ a b, may → ((d.pending = some a ∧ 0 < d.tries ∧ b = d.active) ∨ (¬trial ∧ a = d.active ∧ b = 1 - d.active)) →
      ∃ t, Machine.exec .bootLoadDone s = .next t ∧
        (slotError a s = 0 → boots a noDir t) ∧ (slotError a s ≠ 0 → slotError b s = 0 → a ≠ b → boots b (slotError a s) t) ∧
        (slotError a s ≠ 0 → slotError b s ≠ 0 → fails (slotError b s) t)) ∧
    (∀ rest, (coreAt 0 s).state = .running → (coreAt 0 s).mailbox = .bootSetup :: rest → m.bootStage = 2 → NoReset s →
      ∃ t, Machine.exec (.mailboxItem 0) s = .next t ∧ t.mgmt.bootStage = 3 ∧ ComputeResetBegun 3 s t ∧
        (t.wrd.fastGib, t.wrd.slowGib, t.wrd.chmap, t.watch.spillValid, t.watch.spillBase) =
          (s.integ.fastGib, s.integ.slowGib, s.integ.chmap, s.integ.spillGib.isSome, ((s.integ.spillGib).getD 0) * 2 ^ 30)) ∧
    (let commits := m.bootedPending = true ∧ s.hub.capsValid = true ∧ (coreAt 0 s).state = .running ∧
        m.updState ∉ [.loading, .probation, .rollingBack];
      (commits → ∃ t, Machine.exec .bootCommit s = .next t ∧ t.mgmt.bootedPending = false ∧
        DirWritten { d with active := m.slot, pending := none, tries := 0 } s t ∧ t.mgmt.cores = m.cores ∧ OnlyIn [.port, .mem, .mgmt] s t) ∧
      (¬commits → Machine.exec .bootCommit s = .next s))) ∧
  (∀ (pkg : PatchPkg) (g : Stage) (s : State), stageOf 3 0 s = some g →
    let h := pkg.header
    let may := g.phase = 2 ∧ (coreAt 0 s).state = .running ∧ s.bramble.overlay = [] ∧ pkg = PatchPkg.of (slotSection s.mgmt.slot 6 s)
    let nr := fld h 6 2
    let ra := fun (p : List Byte) (i : Nat) => fld p (4 * i) 4 % 2 ^ 13
    let ri := fun (p : List Byte) (i : Nat) => fld p (4 * i) 4 / 2 ^ 16 % 2 ^ 10
    (¬may → Machine.exec (.patchLoad pkg) s = .next s) ∧
    (∀ p, may → okPatch pkg s = some p → ∃ t, Machine.exec (.patchLoad pkg) s = .next t ∧
      t.mgmt = { s.mgmt with patchLevel := fld h 16 4 } ∧ t.bramble.overlay.length = fld h 8 2 ∧
      (∀ i, i < fld h 8 2 → t.bramble.overlay[i]? = some (BitVec.ofNat 176 (fld p (4 * nr + 22 * i) 22))) ∧
      (∀ i, i < nr → tget t.bramble.redirect (ra p i) = some (ri p i)) ∧
      (∀ a, (∀ i, i < nr → ra p i ≠ a) → tget t.bramble.redirect a = none) ∧
      (∀ w ∈ t.bramble.overlay, okParity w = true) ∧ (∀ i j, i < nr → j < nr → ra p i = ra p j → i = j) ∧
      (∀ i, i < nr → ri p i < fld h 8 2) ∧ fld h 0 4 = 0x50504E59 ∧ fld h 12 4 = s.integ.romId ∧
      fld h 16 4 = fld (slotHeader s.mgmt.slot s) 12 4 ∧ patchPlain pkg s = some p ∧
      okFwSignature (pkg.header ++ pkg.cipher) (slice pkg.keySig 0 96) (slice pkg.keySig 96 96) = true ∧
      t.bramble = { s.bramble with overlay := t.bramble.overlay, redirect := t.bramble.redirect } ∧ OnlyIn [.bramble, .mgmt] s t) ∧
    (may → okPatch pkg s = none → Machine.exec (.patchLoad pkg) s = .next { s with mgmt := { s.mgmt with
      bootError := 6, bootStage := if s.mgmt.bootStage = 3 then 0xF else s.mgmt.bootStage } })) ∧
  (∀ (pkg : PatchPkg) (v : W64) (s : State),
    let c := v.toNat % 2 ^ 63
    (stageOf 3 0 s = none → Machine.exec (.patchLoad pkg) s = .next s) ∧
    (barOpen s = false → Machine.exec (.hostCapsWrite v) s = .next s) ∧
    (barOpen s = true → s.mgmt.fwReady = false → Machine.exec (.hostCapsWrite v) s = .next (bar0Err 4 0x408 s)) ∧
    (barOpen s = true → s.mgmt.fwReady = true → s.tenants ≠ [] → Machine.exec (.hostCapsWrite v) s = .next (bar0Err 3 0x408 s)) ∧
    (barOpen s = true → s.mgmt.fwReady = true → s.tenants = [] → Machine.exec (.hostCapsWrite v) s = .next { s with
      hub := { s.hub with hostCaps := c, agreedCaps := s.hub.devCaps &&& c, capsValid := true },
      mgmt := { s.mgmt with cores := s.mgmt.cores.map (fun x => { x with
        wdtEnable := (s.hub.devCaps &&& c).testBit 7, wdtKick := s.now }) } }))

/-- Crash and restart (R428 to R434). A core that runs fails with cause 1 when its counter has held through the window, 2 when
its watchdog, armed for timeout_ms, expires (log 134), 3 and 4 for a trap and a panic, 5 for a memory error, all four for one in the
shared memory, which starts again from section 5; DUMPING ends with the FIRMWARE record, which waits for MC1 (log 132); a reload that is
authentic runs the core with its memory filled anew and is reported, and brings up or resumes what waited for MC0, a rollback among
it; the second failure makes it FAILED (logs 75, 132). A core that runs takes the oldest item of its mailbox; a self-test or a bank test that a
restart returned begins again. -/
def Obligations.CoresAreRestarted : Prop :=
  (∀ (k : Nat) (trap : TrapFrame) (c : Core) (s : State), s.mgmt.cores[k]? = some c →
    let held := c.state = .running ∧ c.progress = c.sample ∧ s.mgmt.fwInForce * 100000 ≤ s.now - c.heldSince
    (held → ∃ t, Machine.exec (.mcWatchFlag k trap) s = .next t ∧ CoreFailed k 1 trap c s t) ∧
    (¬held → Machine.exec (.mcWatchFlag k trap) s = .next s) ∧
    let kept := c.wdtEnable = true ∧ c.wdtTimeout * 100000 ≤ s.now - c.wdtKick
    (c.state = .running → kept → ∃ t, Machine.exec (.watchdogExpiry k trap) s = .next t ∧
      CoreFailed k 2 trap { c with wdtExpired := true, wdtExpiries := satInc 16 c.wdtExpiries } s t) ∧
    ((c.state ≠ .running ∨ ¬kept) → Machine.exec (.watchdogExpiry k trap) s = .next s) ∧
    (c.state = .running →
      (∃ t, Machine.exec (.fatalTrap k trap) s = .next t ∧ CoreFailed k 3 trap c s t) ∧
      (∃ t, Machine.exec (.settlePanic k trap) s = .next t ∧ CoreFailed k 4 trap c s t) ∧
      (∃ t, Machine.exec (.memoryError (some k) trap) s = .next t ∧ CoreFailed k 5 trap c s t)) ∧
    (c.state ≠ .running → Machine.exec (.fatalTrap k trap) s = .next s ∧ Machine.exec (.settlePanic k trap) s = .next s ∧
      Machine.exec (.memoryError (some k) trap) s = .next s) ∧
    (∃ t, Machine.exec (.memoryError none trap) s = .next t ∧ OnlyIn [.port, .mem, .wrd, .chest, .hutch, .jnl, .mgmt] s t ∧
      t.mgmt.shared = imageCells (slotSection s.mgmt.slot 5 s) ∧
      (k < 4 → c.state = .running → (coreAt k t).cause = 5 ∧ (coreAt k t).trap = trap ∧
        ((coreAt k t).state = .dumping ∨ (coreAt k t).state = .failed) ∧
        (k ≠ 1 → (coreAt k t).mailbox = c.inService ++ c.mailbox) ∧ (∃ l, (coreAt k t).mailbox = c.inService ++ c.mailbox ++ l) ∧
        (s.mgmt.updState = .probation → t.mgmt.updState = .rollingBack ∧ t.mgmt.rollbackDue = true)) ∧
      (c.state ≠ .running → (k ≠ 1 → t.mgmt.cores[k]? = some c) ∧ (coreAt k t).state = c.state)) ∧
    (let writes := c.state = .dumping ∧ (k = 1 ∨ (coreAt 1 s).state = .running);
      (writes → ∃ t, Machine.exec (.mcDumpDone k) s = .next t ∧
        t.mgmt.cores[k]? = some { c with state := .reloading } ∧ OtherCoresSame k s t ∧
        t.hutch.nextSeq = (s.hutch.nextSeq + 1) % 2 ^ 32 ∧ OnlyIn [.port, .mem, .hutch, .mgmt] s t) ∧
      (¬writes → Machine.exec (.mcDumpDone k) s = .next s))) ∧
  (∀ (k : Nat) (ok : Bool) (c : Core) (s : State), s.mgmt.cores[k]? = some c →
    let good := ok = true ∧ reloadOk k s = true
    let written := k = 1 ∨ (coreAt 1 s).state = .running
    let mc0 := k ≠ 0 ∧ (coreAt 0 s).state = .running
    let runs : Core := { c with state := .running, heldSince := s.now, wdtExpired := false, reloadFailed := false, wdtKick := s.now,
                                tcm := imageCells (slotSection s.mgmt.slot (k + 1) s) }
    (c.state ≠ .reloading → Machine.exec (.mcReloadDone k ok) s = .next s) ∧
    (c.state = .reloading → good → (k ≠ 0 ∨ s.mgmt.rollbackDue = false) → ∃ t, Machine.exec (.mcReloadDone k ok) s = .next t ∧
      t.mgmt.cores[k]? = some runs ∧ OtherCoresSame k s t ∧ RestartReported t ∧ OnlyIn [.port, .hub, .chest, .jnl, .mgmt] s t ∧
      (k ≠ 0 → t.hub = s.hub ∧ t.mgmt = { s.mgmt with cores := t.mgmt.cores }) ∧
      (k = 0 → s.mgmt.updBusy = true → s.mgmt.updState = .staged →
        t.mgmt.updState = if emergency s then .pendingEmergency else .quiescing) ∧
      (k = 0 → s.mgmt.bootStage = 3 → s.watch.hubReady = true → s.now - s.mgmt.bootAt ≤ 50000000 →
        t.mgmt.bootStage = 4 ∧ t.mgmt.fwReady = true ∧ t.hub.devCaps = s.integ.deviceCaps % 2 ^ 8) ∧
      (k = 0 → s.mgmt.bootStage = 3 → s.watch.hubReady = true → 50000000 < s.now - s.mgmt.bootAt →
        t.mgmt.bootStage = 0xF ∧ t.mgmt.fwReady = s.mgmt.fwReady ∧ t.hub = s.hub)) ∧
    (c.state = .reloading → good → k = 0 → s.mgmt.rollbackDue = true → ∃ t, Machine.exec (.mcReloadDone k ok) s = .next t ∧
      RestartReported t ∧ t.mgmt.updState = .rollingBack ∧ t.mgmt.rollbackDue = false ∧ t.mgmt.slot = 1 - s.mgmt.slot ∧
      (s.MemOk → DirWritten { currentDir s with pending := none } s t)) ∧
    (c.state = .reloading → ¬good → c.reloadFailed = false →
      ∃ t, Machine.exec (.mcReloadDone k ok) s = .next t ∧ t.mgmt.cores[k]? = some { c with reloadFailed := true } ∧
        OtherCoresSame k s t ∧ t.mgmt.loadFailed = (s.mgmt.loadFailed || decide (s.mgmt.updState = .loading)) ∧
        OnlyIn [.port, .mgmt] s t) ∧
    (c.state = .reloading → ¬good → c.reloadFailed = true → ∃ t, Machine.exec (.mcReloadDone k ok) s = .next t ∧ RestartReported t ∧
      (written → t.hutch.nextSeq = (s.hutch.nextSeq + 1) % 2 ^ 32) ∧ (¬written → t.hutch = s.hutch) ∧
      (s.mgmt.updState ≠ .probation → t.mgmt.cores[k]? = some { c with state := .failed } ∧
        (∀ j, j ≠ k → j ≠ 1 → t.mgmt.cores[j]? = s.mgmt.cores[j]?) ∧ (written → OtherCoresSame k s t) ∧
        (¬written → ∀ x, s.mgmt.cores[1]? = some x → ∃ p, t.mgmt.cores[1]? = some { x with mailbox := x.mailbox ++ [.firmwareRecord k p] }) ∧
        t.mgmt.updState = s.mgmt.updState) ∧
      (s.mgmt.updState = .probation → t.mgmt.updState = .rollingBack ∧
        (mc0 → t.mgmt.rollbackDue = false ∧ (s.MemOk → DirWritten { currentDir s with pending := none } s t)) ∧
        (¬mc0 → t.mgmt.rollbackDue = true ∧ t.mem.flash = s.mem.flash)))) ∧
  (∀ (k : Nat) (c : Core) (s : State), s.mgmt.cores[k]? = some c →
    ((c.state ≠ .running ∨ c.mailbox = []) → Machine.exec (.mailboxItem k) s = .next s) ∧
    (∀ w rest, c.state = .running → c.mailbox = w :: rest → ∃ t, Machine.exec (.mailboxItem k) s = .next t ∧
      (coreAt k t).mailbox = rest ∧ (coreAt k t).state = .running ∧
      (((∀ x, w ≠ .modelLoad x) ∨ k = 1) → OtherCoresSame k s t) ∧
      (∀ m, w = .mapout m → (coreAt k t).inService = c.inService ++ [w] ∧ OnlyIn [.mgmt] s t) ∧
      (∀ p, w = .selftest p → (∃ x ∈ s.power.tests, x.1 = p) → (coreAt k t).inService = c.inService ++ [w] ∧ OnlyIn [.power, .mgmt] s t ∧
        ((stageOf 2 p s).isSome = true → t.power = s.power) ∧
        (stageOf 2 p s = none → t.power = { s.power with tests := s.power.tests.map (fun x =>
          if x.1 = p ∧ x.2.2.2.1 = true then (x.1, x.2.1, x.2.2.1, true, s.now) else x) })) ∧
      (∀ b cmd n f at_, w = .bankTest b → s.power.bankPass = some (some cmd, n, f, at_) → (coreAt k t).inService = c.inService ++ [w] ∧
        t.power = { s.power with bankPass := some (some cmd, 0, 0, s.now), bankOut := s.power.bankOut.erase n } ∧
        OnlyIn [.chest, .jnl, .power, .mgmt] s t) ∧
      (∀ j p, w = .firmwareRecord j p → w ∉ c.inService → (coreAt k t).inService = c.inService ∧
        t.hutch.nextSeq = (s.hutch.nextSeq + 1) % 2 ^ 32 ∧ OnlyIn [.port, .mem, .hutch, .mgmt] s t) ∧
      (w = .reportForward → w ∉ c.inService → (coreAt k t).inService = c.inService ∧ OnlyIn [.mgmt] s t) ∧
      (∀ x m, k = 1 → w = .modelLoad x → tget s.wrd.models x = some m → m.state = .miss → m.frames = [] →
        (coreAt k t).inService = c.inService ++ [w] ∧ OnlyIn [.mgmt] s t) ∧
      (∀ lv who subj, w = .log lv who subj → w ∉ c.inService → s.MemOk →
        let j := s.jnl
        let a := pfLoc (j.logBase + j.logProd % 2 ^ j.logLog2 * 64)
        (coreAt k t).inService = c.inService ∧
        ((j.logBase = 0 ∨ j.logLog2 < 6 ∨ 20 < j.logLog2 ∨ j.logMin < lv) → OnlyIn [.mgmt] s t) ∧
        (j.logBase ≠ 0 → 6 ≤ j.logLog2 → j.logLog2 ≤ 20 → lv ≤ j.logMin →
          t.jnl = { j with logProd := (j.logProd + 1) % 2 ^ 64 } ∧ UnchangedOutside a 64 s t ∧
          (hostDropped a s = false →
            let b := memRead a 64 t
            fld b 0 1 = 2 ∧ fld b 1 1 = lv % 256 ∧ fld b 2 1 = who % 256 ∧ fld b 8 8 = s.now ∧ fld b 16 8 = j.logProd % 2 ^ 64)))))

/-- The Limiter (R440 to R449). PWR_SAG, THERM_ALERT_N, a temperature, a supply below vmin_mv, its cap stepping by 4 codes,
a grant, and a lowering request not granted in 50 us each give the Limiter a new value, which it takes whether or not it runs;
outside block reset it acts on it. When every demand has been below the level for hold_ms the level falls by one. The reading of the
demands is log 70 (the model's). -/
def Obligations.TheLevelFollowsDemand : Prop :=
  (∀ (k : Nat) (on : Bool) (s : State),
    let u1 : State := { s with power := { s.power with sag := k % 8 } }
    let u2 : State := { s with power := { s.power with therm := on } }
    (s.port.blkRstN = false → Machine.exec (.pwrSag k) s = .next u1 ∧ Machine.exec (.thermAlert on) s = .next u2) ∧
    (s.port.blkRstN = true →
      (∃ t, Machine.exec (.pwrSag k) s = .next t ∧ LimiterActs u1 s t ∧ min (k % 8) 6 ≤ t.power.level) ∧
      (∃ t, Machine.exec (.thermAlert on) s = .next t ∧ LimiterActs u2 s t ∧ (on = true → 4 ≤ t.power.level)))) ∧
  (∀ (sensor temp : Nat) (s : State), s.port.blkRstN = true →
    let hot := fun (t : State) => (s.power.tWarn ≤ temp % 256 → 1 ≤ t.power.level) ∧ (s.power.tHigh ≤ temp % 256 → 3 ≤ t.power.level) ∧
      (s.power.tCrit ≤ temp % 256 → 5 ≤ t.power.level) ∧ (s.integ.tMax ≤ temp % 256 → 6 ≤ t.power.level)
    (sensor = 63 → ∃ t, Machine.exec (.temperatureInput sensor temp) s = .next t ∧
      LimiterActs { s with power := { s.power with hubTemp := temp % 256 } } s t ∧ hot t) ∧
    (sensor ≠ 63 → sensor < s.integ.slices → ∃ t, Machine.exec (.temperatureInput sensor temp) s = .next t ∧
      LimiterActs (vfSet sensor { vfAt sensor s with temp := temp % 256 } s) s t ∧ hot t)) ∧
  (∀ (p mv code : Nat) (s : State), s.port.blkRstN = true → p < s.integ.slices →
    let v := vfAt p s
    let down := min v.cap (max s.power.floorCode (v.cap - 4))
    let acts := fun (c : Instr) (x : Vf) => ∃ t, Machine.exec c s = .next t ∧ LimiterActs (vfSet p x s) s t
    (mv < s.integ.vminMv → acts (.vminTimer p mv) { v with supply := mv, low := true, cap := down } ∧
      (∃ t, Machine.exec (.vminTimer p mv) s = .next t ∧ 3 ≤ t.power.level) ∧
      acts (.limiterCapStep p mv) { v with supply := mv, cap := down }) ∧
    (s.integ.vminMv ≤ mv → acts (.vminTimer p mv) { v with supply := mv, low := false } ∧
      acts (.limiterCapStep p mv) { v with supply := mv, low := false, cap := min s.integ.fmax (v.cap + 4) }) ∧
    (code ≤ v.requested → acts (.vfGrant p code) { v with granted := code, late := false }) ∧
    (v.requested < code → acts (.vfGrant p code) { v with
      granted := v.requested, late := false, overgrants := satInc 8 v.overgrants }) ∧
    (let due := v.requested < v.granted ∧ 5000 ≤ s.now - v.since;
      (due → ∃ t, Machine.exec (.vfGrantTimeout p) s = .next t ∧ LimiterActs (vfSet p { v with late := true } s) s t ∧
        6 ≤ t.power.level) ∧
      (¬due → Machine.exec (.vfGrantTimeout p) s = .next s))) ∧
  (∀ (p mv code : Nat) (s : State), s.integ.slices ≤ p → Machine.exec (.vminTimer p mv) s = .next s ∧
    Machine.exec (.limiterCapStep p mv) s = .next s ∧ Machine.exec (.vfGrant p code) s = .next s ∧
    Machine.exec (.vfGrantTimeout p) s = .next s) ∧
  (∀ s : State,
    let n := s.power.level - 1
    let due := demand s < s.power.level ∧ s.power.holdMs * 100000 ≤ s.now - s.power.belowSince
    (due → ∃ t, Machine.exec .shedHoldExpiry s = .next t ∧ t.power.level = n ∧ t.power.belowSince = s.now ∧
      t.power.levelChanges = satInc 16 s.power.levelChanges ∧ LevelReported s.power.level n s t ∧
      (n < 6 → t.power.quiesced = false) ∧
      (∀ l lp, tget s.trestle.loops l = some lp → (tget t.trestle.loops l).map (·.woken) = some true) ∧ (∀ p, p < s.integ.slices → (vfAt p t).requested = wantedCode p t) ∧
      OnlyIn (touches .shedHoldExpiry) s t) ∧
    (¬due → Machine.exec .shedHoldExpiry s = .next s) ∧
    (let may := s.power.level = 6 ∧ s.power.quiesced = false ∧
        ((∀ e ∈ s.sched.residencies, e.2.running = false ∧ e.2.moving = false) ∨ 1000000 ≤ s.now - s.power.s6At);
      (may → ∃ t, Machine.exec .quiesceDump s = .next t ∧ t.power = { s.power with
          quiesced := true, quiesceAt := s.now, quiesceSlot := if spillOn s then s.hutch.nextSlot else 0xFF } ∧
        t.hutch.nextSeq = (s.hutch.nextSeq + 1) % 2 ^ 32 ∧
        (spillOn s = true → t.hutch.lastSlot = s.hutch.nextSlot ∧ t.hutch.nextSlot = (s.hutch.nextSlot + 1) % 8) ∧
        (spillOn s = false → (t.hutch.lastSlot, t.hutch.nextSlot, t.hutch.dumps) = (s.hutch.lastSlot, s.hutch.nextSlot, s.hutch.dumps)) ∧
        OnlyIn [.port, .mem, .hutch, .power] s t) ∧
      (¬may → Machine.exec .quiesceDump s = .next s)))

/-- Self-test on request (R453, R454). OP_SELFTEST of another function is ST_ACCESS; a busy partition or bank test with
reject_if_busy is ST_BUSY; at S1 or above it is ST_SHED; otherwise the test is queued, the partition no longer usable, or the bank pass
begins or waits. MC3 runs a queued test once the four benches are FREE, which go OUT; the partition is then reset without a dump, and
the end of that reset gives the result word: after a pass the benches come back, after a failure, which is counted and logged, they
stay OUT. Cause 7 and the absent dump of that reset are the model's reading (log 24). -/
def Obligations.PartitionsAreTested : Prop :=
  (∀ (c q pos : Nat) (m : Cmd) (s : State), starting (qkey c q) pos 0x14 s = some m → 3 < s.mgmt.cores.length →
    let k := qkey c q
    let p := fld m.entry 18 2
    let reject := (fld m.entry 17 1).testBit 0
    let busy := (∃ b, b / 4 = p ∧ (benchAt b s).state ≠ .free) ∨ (∃ x ∈ s.power.tests, x.1 = p)
    let ends := fun (st : Status) (aux : Nat) => ∃ t, Machine.exec (.opSelftest c q pos) s = .next t ∧
      (t.cmd k pos).map (·.latch) = some (some ⟨st, aux⟩) ∧ OnlyIn [.front, .chest, .jnl] s t
    let waits := fun (t : State) => t.cmd k pos = some { m with started := true }
    (s.fnOf c ≠ 0 → ends .access 1) ∧
    (s.fnOf c = 0 → fld m.entry 16 1 = 1 → reject = true → busy → ends .busy 3) ∧
    let shed := ∃ t, Machine.exec (.opSelftest c q pos) s = .next t ∧
      (t.cmd k pos).map (·.latch) = some (some ⟨.shed, s.power.level⟩) ∧ OnlyIn [.front, .bramble, .chest, .jnl] s t
    (s.fnOf c = 0 → fld m.entry 16 1 = 1 → (reject = false ∨ ¬busy) → 1 ≤ s.power.level → shed) ∧
    (s.fnOf c = 0 → fld m.entry 16 1 = 2 → (reject = false ∨ s.power.bankPass = none) → 1 ≤ s.power.level → shed) ∧
    (s.fnOf c = 0 → fld m.entry 16 1 = 1 → (reject = false ∨ ¬busy) → s.power.level = 0 →
      ∃ t, Machine.exec (.opSelftest c q pos) s = .next t ∧ waits t ∧
        t.power = { s.power with tests := s.power.tests ++ [(p, k, pos, false, 0)], vf := t.power.vf } ∧ p ∈ t.sched.unusable ∧
        (coreAt 3 t).mailbox = (coreAt 3 s).mailbox ++ [.selftest p] ∧
        (s.sched.jobs = [] → p < s.integ.slices → tabWf s.sched.benches = true → ∀ b, b / 4 = p → (benchAt b t).claim = none)) ∧
    (s.fnOf c = 0 → fld m.entry 16 1 = 2 → reject = true → s.power.bankPass.isSome = true → ends .busy 3) ∧
    (s.fnOf c = 0 → fld m.entry 16 1 = 2 → reject = false → s.power.bankPass.isSome = true → s.power.level = 0 →
      ∃ t, Machine.exec (.opSelftest c q pos) s = .next t ∧ waits t ∧ OnlyIn [.front, .chest, .jnl] s t) ∧
    (s.fnOf c = 0 → fld m.entry 16 1 = 2 → s.power.bankPass = none → s.power.level = 0 → waitingBankTests s = [] →
      ∃ t, Machine.exec (.opSelftest c q pos) s = .next t ∧ waits t ∧
        t.power = { s.power with bankPass := some (some (k, pos), 0, 0, s.now) } ∧
        (coreAt 3 t).mailbox = (coreAt 3 s).mailbox ++ [.bankTest 0] ∧ OnlyIn [.front, .chest, .jnl, .mgmt, .power] s t)) ∧
  (∀ (p k pos at_ : Nat) (on : Bool) (s : State), s.power.tests.find? (fun x => x.1 == p) = some (p, k, pos, on, at_) →
    let taken := hasService 3 (.selftest p) s = true ∧ stageOf 2 p s = none
    let running := ∃ x ∈ s.power.tests, x.1 = p ∧ x.2.2.2.1 = true
    let free := ∀ b, b / 4 = p → (benchAt b s).state = .free
    (taken → ¬running → free → ∃ t, Machine.exec (.selftestRun p) s = .next t ∧
      t.power = { s.power with tests := s.power.tests.erase (p, k, pos, on, at_) ++ [(p, k, pos, true, s.now)] } ∧
      (∀ b, b / 4 = p → benchAt b t = { state := .out, res := none, claim := none }) ∧
      (∀ b, b / 4 ≠ p → benchAt b t = benchAt b s) ∧ OnlyIn [.sched, .power] s t) ∧
    ((¬taken ∨ running ∨ ¬free) → Machine.exec (.selftestRun p) s = .next s)) ∧
  (∀ (p detail k pos at_ : Nat) (s : State),
    s.power.tests.find? (fun x => x.1 == p && x.2.2.2.1) = some (p, k, pos, true, at_) → 2 < s.mgmt.cores.length →
    let taken := hasService 3 (.selftest p) s = true ∧ stageOf 2 p s = none
    (¬taken → Machine.exec (.selftestDone p detail) s = .next s) ∧
    (¬NoReset s → Machine.exec (.selftestDone p detail) s = .next s) ∧
    (taken → NoReset s → ∃ t, Machine.exec (.selftestDone p detail) s = .next t ∧ PartitionResetBegun p 7 false s t ∧
      (stageOf 2 p t).map (fun g => (g.test, g.detail)) = some (true, detail % 256) ∧ OtherStagesSame 2 p s t ∧
      (t.hutch.dumps, t.hutch.dumpArea, t.hutch.nextSlot) = (s.hutch.dumps, s.hutch.dumpArea, s.hutch.nextSlot) ∧
      t.power.tests = s.power.tests ∧
      (detail % 256 = 0 → (t.power.failedParts, t.power.selftestsFailed) = (s.power.failedParts, s.power.selftestsFailed) ∧ t.mgmt = s.mgmt) ∧
      (detail % 256 ≠ 0 → p ∈ t.power.failedParts ∧ t.power.selftestsFailed = satInc 8 s.power.selftestsFailed ∧
        (coreAt 2 t).mailbox = (coreAt 2 s).mailbox ++ [.log 0 3 p]))) ∧
  (∀ (p i k pos at_ : Nat) (g : Stage) (s : State), stageOf 2 p s = some g → stageOf 3 0 s = none → g.phase = 4 → g.test = true → i < 8 →
    8 * p + i ∉ g.ready → (∀ j, j < 8 → 8 * p + j ∈ g.ready ++ [8 * p + i] ∨ (Tier.fast, 8 * p + j) ∈ s.wrd.outChannels) →
    s.power.tests.find? (fun x => x.1 == p && x.2.2.2.1) = some (p, k, pos, true, at_) →
    let word := (s.now - at_) / 100 % 2 ^ 32 * 2 ^ 32 + g.detail % 256 * 256 + (if g.detail = 0 then 0 else 1)
    ∃ t, Machine.exec (.channelReady .fast (8 * p + i)) s = .next t ∧ stageOf 2 p t = none ∧
      t.power.tests = s.power.tests.erase (p, k, pos, true, at_) ∧
      (coreAt 3 t).inService = (coreAt 3 s).inService.erase (.selftest p) ∧
      (∀ m l, s.cmd k pos = some m → m.latch = none → m.running = true → operandLoc k m 20 24 s = some l →
        (t.cmd k pos).map (fun x => (x.latch, x.results)) = some (some ⟨.ok, 0⟩, m.results ++ [⟨l, le 8 word⟩])) ∧
      (g.detail ≠ 0 → ∀ b, b / 4 = p → benchAt b t = benchAt b s)) ∧
  (∀ (p detail : Nat) (s : State),
    ((∀ x ∈ s.power.tests, x.1 ≠ p) → Machine.exec (.selftestRun p) s = .next s) ∧
    ((∀ x ∈ s.power.tests, x.1 = p → x.2.2.2.1 = false) → Machine.exec (.selftestDone p detail) s = .next s))

/-- Background work (R450, R452, R455, R456). A bank pass takes its next bank out where it holds no live data, passes over it
otherwise, or where it has failed before (logs 26, 119), and puts it back after a pass; a bank that fails stays out with its record and its cells count
as retired; MC3 ends what it runs only while it runs itself (R410); a
requested pass ends with the result word. Calibration takes an idle partition OUT and gives it back, or is postponed. A scrub pass is
over the first bank at its threshold alone, below S6 (R314), and with none there over everything, at S0 (log 71); what it finds in Chest
is handled as a consumer's read does, what it finds elsewhere by R357; it clears the counts of the banks it passed. Telemetry changes nothing (log 27). -/
def Obligations.BackgroundWorkIsDone : Prop :=
  (∀ (bank n bad start : Nat) (cmd : Option (Nat × Nat)) (failed : Bool) (s : State), s.power.bankPass = some (cmd, n, bad, start) →
    let w := s.power
    let may := w.level = 0 ∧ (coreAt 3 s).state = .running ∧ (cmd.isSome = true → hasService 3 (.bankTest 0) s = true) ∧ n = bank
    let word := (s.now - start) / 100 % 2 ^ 32 * 2 ^ 32 + min bad 255 * 256 + (if bad = 0 then 0 else 1)
    (¬may → Machine.exec (.bankTest bank) s = .next s) ∧
    (may → bank ∈ w.bankOut → Machine.exec (.bankTest bank) s = .next s) ∧
    let serves := (coreAt 3 s).state = .running ∧ (cmd.isSome = true → hasService 3 (.bankTest 0) s = true)
    let ends := n = bank ∧ bank ∈ w.bankOut ∧ serves
    (may → bank ∉ w.bankOut → bankIdle bank s = true → bank ∉ w.bankBad → Machine.exec (.bankTest bank) s =
      .next { s with power := { w with bankOut := w.bankOut ++ [bank] } }) ∧
    (may → bank ∉ w.bankOut → (bankIdle bank s = false ∨ bank ∈ w.bankBad) → bank + 1 < s.integ.banks → Machine.exec (.bankTest bank) s =
      .next { s with power := { w with bankPass := some (cmd, bank + 1, bad, start) } }) ∧
    (¬ends → Machine.exec (.bankTestDone bank failed) s = .next s) ∧
    (ends → failed = false → bank + 1 < s.integ.banks → ∃ t, Machine.exec (.bankTestDone bank failed) s = .next t ∧
      t.power = { w with bankOut := w.bankOut.erase bank, bankPass := some (cmd, bank + 1, bad, start) } ∧ OnlyIn [.chest, .jnl, .power] s t) ∧
    (ends → failed = false → s.integ.banks ≤ bank + 1 → cmd = none → waitingBankTests s = [] →
      ∃ t, Machine.exec (.bankTestDone bank failed) s = .next t ∧
        t.power = { w with bankOut := w.bankOut.erase bank, bankPass := none } ∧ OnlyIn [.chest, .jnl, .power] s t) ∧
    (∀ k pos m l, ends → failed = false → s.integ.banks ≤ bank + 1 → cmd = some (k, pos) →
      s.cmd k pos = some m → m.latch = none → m.running = true → operandLoc k m 20 24 s = some l →
      ∃ t, Machine.exec (.bankTestDone bank failed) s = .next t ∧
        (t.cmd k pos).map (fun x => (x.latch, x.results)) = some (some ⟨.ok, 0⟩, m.results ++ [⟨l, le 8 word⟩]) ∧
        t.power.bankOut = w.bankOut.erase bank ∧ (waitingBankTests s = [] → t.power.bankPass = none)) ∧
    (ends → failed = true → bank + 1 < s.integ.banks →
      ∃ t, Machine.exec (.bankTestDone bank failed) s = .next t ∧ t.power.bankOut = w.bankOut.erase bank ∧ bank ∈ t.power.bankBad ∧
        t.power.selftestsFailed = satInc 8 w.selftestsFailed ∧ t.power.bankPass = some (cmd, bank + 1, bad + 1, start) ∧
        (64 ≤ bank → t.hutch.nextSeq = (s.hutch.nextSeq + 1) % 2 ^ 32 ∧ t.chest = s.chest ∧ OnlyIn [.port, .mem, .hutch, .power] s t) ∧
        (bank < 64 → (∀ i, i / 4096 = bank → i ∈ t.chest.retired) ∧ (∀ i ∈ s.chest.retired, i ∈ t.chest.retired)) ∧
        (bank < 64 → s.chest.retired = [] → NoReset s → ComputeResetBegun 10 s t))) ∧
  (∀ (bank : Nat) (failed : Bool) (s : State), s.power.bankPass = none →
    let w := s.power
    let may := w.level = 0 ∧ (coreAt 3 s).state = .running ∧ bank = 0 ∧ w.bankTestPeriod ≠ 0
    (¬may → Machine.exec (.bankTest bank) s = .next s) ∧
    (may → 0 ∉ w.bankOut → bankIdle 0 s = true → 0 ∉ w.bankBad → Machine.exec (.bankTest bank) s =
      .next { s with power := { w with bankPass := some (none, 0, 0, s.now), bankOut := w.bankOut ++ [0] } }) ∧
    Machine.exec (.bankTestDone bank failed) s = .next s) ∧
  (∀ (p : Nat) (s : State),
    let w := s.power
    let may := w.calibPeriod ≠ 0 ∧ w.level = 0 ∧ (coreAt 3 s).state = .running ∧ p < s.integ.slices ∧ p ∉ w.calibrating
    let free := ∀ b, b / 4 = p → (benchAt b s).state = .free
    (¬may → Machine.exec (.calibration p) s = .next s) ∧
    (may → free → ∃ t, Machine.exec (.calibration p) s = .next t ∧ t.power = { w with calibrating := w.calibrating ++ [p] } ∧
      (∀ b, b / 4 = p → benchAt b t = { state := .out, res := none, claim := none }) ∧
      (∀ b, b / 4 ≠ p → benchAt b t = benchAt b s) ∧ OnlyIn [.sched, .power] s t) ∧
    (may → ¬free → Machine.exec (.calibration p) s =
      .next { s with power := { w with calibPostponed := satInc 8 w.calibPostponed } }) ∧
    let mine := p ∈ w.calibrating ∧ (coreAt 3 s).state = .running
    (¬mine → Machine.exec (.calibrationDone p) s = .next s) ∧
    (mine → (stageOf 2 p s).isSome = true → Machine.exec (.calibrationDone p) s =
      .next { s with power := { w with calibrating := w.calibrating.erase p } }) ∧
    (mine → stageOf 2 p s = none → tabWf s.sched.benches = true →
      ∃ t u, Machine.exec (.calibrationDone p) s = .next t ∧ t = decisionPass u ∧ t.power = { u.power with vf := t.power.vf } ∧ t.mem = s.mem ∧
        u.power = { w with calibrating := w.calibrating.erase p } ∧
        (∀ b, b / 4 = p → benchAt b u = if (benchAt b s).state = .out then { benchAt b s with state := .free } else benchAt b s) ∧
        (∀ b, b / 4 ≠ p → benchAt b u = benchAt b s) ∧ OnlyIn [.sched, .power] s u)) ∧
  (∀ (found : List ScrubFinding) (s : State),
    let w := s.power
    (6 ≤ w.level → Machine.exec (.scrub found) s = .next s) ∧
    (1 ≤ w.level → hotBanks s = [] → Machine.exec (.scrub found) s = .next s) ∧
    (w.level = 0 → hotBanks s = [] → (∀ e ∈ found, ∃ i, e = .cell i .clean) → ∃ t, Machine.exec (.scrub found) s = .next t ∧
      t.power = { w with scrubPasses := satInc 32 w.scrubPasses } ∧ t.chest = { s.chest with bankCount := [] } ∧ OnlyIn [.chest, .power] s t) ∧
    (∀ b rest, w.level < 6 → hotBanks s = b :: rest → (∀ i e, .cell i e ∈ found → i / 4096 ≠ b) →
      ∃ t, Machine.exec (.scrub found) s = .next t ∧ t.power = { w with priorityScrubs := satInc 16 w.priorityScrubs } ∧
        t.chest = { s.chest with bankCount := t.chest.bankCount } ∧ tget t.chest.bankCount b = none ∧
        (∀ a, a ≠ b → tget t.chest.bankCount a = tget s.chest.bankCount a) ∧ OnlyIn [.chest, .power] s t)) ∧
  (∀ (cell x : Nat) (s : State), s.power.level = 0 → hotBanks s = [] →
    (cell < 262144 → cell ∉ s.chest.retired → ∃ t, Machine.exec (.scrub [.cell cell (.corrected x)]) s = .next t ∧
      t.chest.corrected = satInc 32 s.chest.corrected ∧ t.chest.bankCount = [] ∧ OnlyIn [.chest, .jnl, .power] s t) ∧
    (cell < 262144 → cell ∉ s.chest.retired → s.chest.retired.length + 1 ≠ 4096 → s.chest.waiting = [] →
      (∀ e ∈ s.chest.queues, ∀ c ∈ e.2.cells, c.index ≠ cell) →
      ∃ t, Machine.exec (.scrub [.cell cell (.badData x)]) s = .next t ∧ t.chest.retired = s.chest.retired ++ [cell] ∧
        t.chest.uncorrectable = satInc 16 s.chest.uncorrectable ∧ t.chest.queues = s.chest.queues ∧
        t.hutch.nextSeq = (s.hutch.nextSeq + 1) % 2 ^ 32 ∧ OnlyIn [.port, .mem, .chest, .hutch, .jnl, .power] s t) ∧
    (∀ c q u, s.queue c q = some u → s.isActive c = true → ∃ t, Machine.exec (.scrub [.word (.queueWord c q) x]) s = .next t ∧
      FaultTeardownBegun c s t (fun i => i.status = .memUncorrectable ∧ i.aux = 4 ∧ i.queue = q)) ∧
    (NoReset s → ∃ t, Machine.exec (.scrub [.word (.shared cell) x]) s = .next t ∧ MachineChecked 5 s t)) ∧
  (∀ s : State, Machine.exec .telemetry s = .next s)

/-- The link port (R482 to R485, R487 to R489): LINKS keeps the links of a direction and sends its budget; HUB_BAR_OWN gives
a slot an owner or takes it, unless it is ARMED; a RELEASE of the slot's group and epoch ends the join with ST_OK and frees
the slot, any other is counted; past its deadline the join is ST_PEER_TIMEOUT, reported and recorded, and the slot FREE. The budget's
message and the group's release are read as in log 76 (the model's). -/
def Obligations.LinksAndBarriersWork : Prop :=
  (∀ (dir up : Nat) (s : State),
    (s.port.lkpReady = true → dir < 6 → up ≤ 8 → s.link.linksUp.length = 6 → Machine.exec (.links dir up) s = .next { s with
      link := { s.link with linksUp := s.link.linksUp.set dir up },
      port := { s.port with out := s.port.out ++ [.budget dir (up * 28000 * (100 - s.link.transitPct) / 100)] } }) ∧
    ((s.port.lkpReady = false ∨ 6 ≤ dir ∨ 8 < up) → Machine.exec (.links dir up) s = .next s)) ∧
  (∀ (v : W32) (s : State),
    let slot := v.toNat % 256
    (barOpen s = false → Machine.exec (.barrierSlotOwn v) s = .next s) ∧
    (barOpen s = true → (tget s.link.joins slot).isSome = true → Machine.exec (.barrierSlotOwn v) s = .next (bar0Err 3 0x518 s)) ∧
    (barOpen s = true → tget s.link.joins slot = none → ∃ t, Machine.exec (.barrierSlotOwn v) s = .next t ∧
      t.hub = { s.hub with barOwnLast := slot } ∧ (v.toNat.testBit 31 = true → tget t.link.owners slot = some (v.toNat / 2 ^ 16 % 1024)) ∧
      (v.toNat.testBit 31 = false → tget t.link.owners slot = none) ∧
      (∀ k, k ≠ slot → tget t.link.owners k = tget s.link.owners k) ∧ t.link.joins = s.link.joins ∧ OnlyIn [.hub, .link] s t)) ∧
  (∀ (group slot : Nat) (epoch : W32) (s : State),
    let drops := { s with link := { s.link with stray := satInc 16 s.link.stray } }
    (s.port.lkpReady = false → Machine.exec (.release group slot epoch) s = .next s) ∧
    (s.port.lkpReady = true → tget s.link.joins slot = none → Machine.exec (.release group slot epoch) s = .next drops) ∧
    (∀ j, s.port.lkpReady = true → tget s.link.joins slot = some j → (j.epoch ≠ epoch.toNat ∨ group ≠ s.port.straps.2.2.2) →
      Machine.exec (.release group slot epoch) s = .next drops) ∧
    (∀ j, s.port.lkpReady = true → tget s.link.joins slot = some j → j.epoch = epoch.toNat → group = s.port.straps.2.2.2 →
      ∃ t, Machine.exec (.release group slot epoch) s = .next t ∧ tget t.link.joins slot = none ∧
        (∀ k, k ≠ slot → tget t.link.joins k = tget s.link.joins k) ∧ t.link.stray = s.link.stray ∧
        (∀ m, s.cmd (qkey j.ctx j.queue) j.pos = some m → m.latch = none →
          (t.cmd (qkey j.ctx j.queue) j.pos).map (fun x => (x.latch, x.running)) = some (some ⟨.ok, 0⟩, false)) ∧
        OnlyIn [.front, .link] s t)) ∧
  (∀ (slot : Nat) (s : State),
    (tget s.link.joins slot = none → Machine.exec (.barrierDeadline slot) s = .next s) ∧
    (∀ j, tget s.link.joins slot = some j → s.now < j.deadline → Machine.exec (.barrierDeadline slot) s = .next s) ∧
    (∀ j, tget s.link.joins slot = some j → j.deadline ≤ s.now →
      ∃ t, Machine.exec (.barrierDeadline slot) s = .next t ∧ tget t.link.joins slot = none ∧
        (∀ m, s.cmd (qkey j.ctx j.queue) j.pos = some m → m.latch = none →
          (t.cmd (qkey j.ctx j.queue) j.pos).map (fun x => (x.latch, x.running)) = some (some ⟨.peerTimeout, 2 ^ 28 + slot⟩, false)) ∧
        (∃ e ∈ t.jnl.events, e.code = 8 ∧ e.srcKind = 0 ∧ e.srcNum = j.ctx) ∧
        ((∀ e ∈ s.jnl.events, e.code ≠ 8) →
          ∃ e ∈ t.jnl.events, e.words = [1 + slot * 256, j.epoch, j.participants, j.timeoutUs]) ∧
        t.hutch.nextSeq = (s.hutch.nextSeq + 1) % 2 ^ 32 ∧ OnlyIn [.port, .mem, .front, .bramble, .chest, .hutch, .jnl, .link] s t))

/-- Function Level Reset (R470): of the physical function a compute reset with cause 12 and every host write discarded, one
in progress taken as it; of a virtual function its host accesses stop, so that no read or write of it is issued, and its ACTIVE contexts are torn down with
ST_ABORTED.
It is acknowledged once the compute reset has ended, or no context of the function is left but LOST ones (log 77). -/
def Obligations.FunctionsAreReset : Prop :=
  (∀ (fn : Nat) (s : State),
    (barOpen s = false → Machine.exec (.hfpFlrReq fn) s = .next s) ∧
    (barOpen s = true → fn = 0 → NoReset s → ∃ t, Machine.exec (.hfpFlrReq fn) s = .next t ∧ ComputeResetBegun 12 s t ∧
      (stageOf 3 0 t).map (·.flr) = some true ∧ t.port.flrPf = true ∧ t.port.dropAll = true) ∧
    (∀ g, barOpen s = true → fn = 0 → stageOf 3 0 s = some g → ∃ t, Machine.exec (.hfpFlrReq fn) s = .next t ∧
      stageOf 3 0 t = some { g with flr := true } ∧ t.port = { s.port with flrPf := true, dropAll := true } ∧ OnlyIn [.port, .watch] s t) ∧
    (barOpen s = true → fn ≠ 0 → tabWf s.contexts = true → ∃ t, Machine.exec (.hfpFlrReq fn) s = .next t ∧
      fn ∈ t.port.flr ∧ fn ∈ t.port.dropHost ∧ (∀ f, f ≠ fn → (f ∈ t.port.dropHost ↔ f ∈ s.port.dropHost)) ∧
      (∀ c x, tget s.contexts c = some x → x.rcd.fn = fn → x.state = .active →
        FaultTeardownBegun c s t (fun i => i.status = .aborted ∧ i.aux = 0)) ∧
      (∀ c x, tget s.contexts c = some x → (x.rcd.fn ≠ fn ∨ x.state ≠ .active) → (tget t.contexts c).map (·.state) = some x.state))) ∧
  (∀ (fn : Nat) (s : State),
    let ended := (∀ g ∈ s.watch.stages, (g.stage ≠ 3 ∧ g.stage ≠ 4) ∨ g.unit ≠ 0)
    let left := ∃ e ∈ s.contexts, e.2.rcd.fn = fn ∧ e.2.state ≠ .lost
    (fn = 0 → s.port.flrPf = true → ended → Machine.exec (.hfpFlrAck fn) s = .next { s with port := { s.port with
      flrPf := false, dropAll := false, out := s.port.out ++ [.flrAck 0] } }) ∧
    (fn = 0 → (s.port.flrPf = false ∨ ¬ended) → Machine.exec (.hfpFlrAck fn) s = .next s) ∧
    (fn ≠ 0 → fn ∈ s.port.flr → ¬left → Machine.exec (.hfpFlrAck fn) s = .next { s with port := { s.port with
      flr := s.port.flr.filter (fun f => f != fn), dropHost := s.port.dropHost.filter (fun f => f != fn),
      out := s.port.out ++ [.flrAck fn] } }) ∧
    (fn ≠ 0 → (fn ∉ s.port.flr ∨ left) → Machine.exec (.hfpFlrAck fn) s = .next s) ∧
    (∀ (key c : Option Nat) (via : Via) (l : Loc) (n : Nat) (bs : List Byte), l.space = .host → locFn l = some fn → fn ∈ s.port.dropHost →
      readReq key via l n s = s ∧ hostWrite c l bs s = s))

/-- Reset and power (R344, R370, R383, R418, R442, R463 to R465, R481, R500). BLK_RST_N returns every register to its reset
value but Hutch's, WCH_CNT and Bureau's, whose active slots are retired; memory outside scratch, fuses and flash stay; POR_N
clears WCH_CNT and the time base besides. Its release has Hutch check its records, samples the straps, opens the ports, sends
SYNC and the budgets and lets the Limiter sample. Scan and memory test clear the block while it is in reset and hold it there
until POR_N. The loss of the hub supply loses Hutch's records. What block reset leaves of memory and the model's start in reset are the
model's reading (logs 3, 78). -/
def Obligations.TheBlockIsReset : Prop :=
  (∀ s : State,
    let cleared := fun (t : State) =>
      (t.tenants, t.contexts, t.objects, t.graphs, t.slices) = ([], [], [], [], []) ∧
      (t.hub, t.front, t.bramble, t.trestle, t.sched) = (Hub.reset, Front.reset, Bramble.reset, Trestle.reset, Sched.reset) ∧
      (t.wrd, t.chest, t.jnl, t.sta, t.link) = (Wardrobe.reset, Chest.reset, JnlRegs.reset, Sta.reset, Link.reset) ∧
      t.mgmt = Mgmt.reset s.mgmt.securityFloor ∧ t.mem = { s.mem with scratch := [] } ∧
      (t.power.level, t.power.sag, t.power.therm, t.power.hubTemp, t.power.forced, t.power.tests) =
        (0, s.power.sag, s.power.therm, s.power.hubTemp, 0, []) ∧
      (∀ p, (vfAt p t).temp = (vfAt p s).temp ∧ (vfAt p t).supply = (vfAt p s).supply) ∧
      (t.port.blkRstN, t.port.hfpReady, t.port.lkpReady, t.port.resetReq, t.port.xspiResetN) = (false, false, false, false, false) ∧
      t.port.xspiCsN = true ∧
      (t.port.vddAon, t.port.strapPins, t.port.out) = (s.port.vddAon, s.port.strapPins, s.port.out) ∧
      t.watch.stages = [] ∧ t.watch.hubReady = false ∧ t.integ = s.integ ∧ t.pending = s.pending
    let counts := fun (t : State) => (t.watch.computeResets, t.watch.partitionResets, t.watch.faultTeardowns)
    let rest := fun (t : State) =>
      t.hutch = { s.hutch with boot := if s.port.blkRstN then (s.hutch.boot + 1) % 2 ^ 32 else s.hutch.boot } ∧
      (s.port.vddAon = false → t.bureau = s.bureau) ∧
      (s.port.vddAon = true → t.bureau.occ = [] ∧ t.bureau.expect = 0 ∧ t.bureau.timeUs = s.bureau.timeUs ∧ t.bureau.queue = s.bureau.queue ∧
        (∀ d, slotAt d t.bureau = { slotAt d s.bureau with active := false } ∧
          ((slotAt d s.bureau).active = true → ∃ k : ReportKind, (d, k) ∈ t.bureau.pending ∧ 2 ≤ k.rank)))
    (∃ t, Machine.exec .blockReset s = .next t ∧ cleared t ∧ rest t ∧ counts t = counts s ∧ t.time = s.time ∧ t.port.scan = s.port.scan) ∧
    (∃ t, Machine.exec .por s = .next t ∧ cleared t ∧ rest t ∧ counts t = (0, 0, 0) ∧ t.time = 0 ∧ t.port.porN = true ∧
      t.port.scan = false) ∧
    (∀ x, (x = TapInstr.scan ∨ x = TapInstr.memTest) →
      (s.port.blkRstN = true → Machine.exec (.tapInstruction x) s = .next s) ∧
      (s.port.blkRstN = false → ∃ t, Machine.exec (.tapInstruction x) s = .next t ∧ cleared t ∧ t.port.scan = true ∧
        t.hutch = s.hutch ∧ t.bureau = s.bureau ∧ counts t = counts s)) ∧
    (∀ x, (x = TapInstr.idcode ∨ x = TapInstr.bypass ∨ x = TapInstr.leave) → Machine.exec (.tapInstruction x) s = .next s) ∧
    Machine.exec .hubSupplyLoss s = .next { s with hutch := Hutch.reset }) ∧
  (∀ s : State,
    ((s.port.blkRstN = true ∨ s.port.scan = true) → Machine.exec .blockResetRelease s = .next s) ∧
    (s.port.blkRstN = false → s.port.scan = false → ∃ u t, Machine.exec .blockResetRelease s = .next t ∧ LimiterActs u u t ∧
      OnlyIn [.port, .hub, .mgmt, .hutch] s u ∧ t.hutch = u.hutch ∧ (t.port.blkRstN, t.port.hfpReady, t.port.lkpReady, t.port.xspiResetN, t.port.straps) = (true, true, true, true, s.port.strapPins) ∧
      (s.hub.burFifo.length < 256 → u.hub.burFifo = s.hub.burFifo ++ [(s.hub.burSeq, .sync)]) ∧ t.mgmt = { s.mgmt with bootAt := s.now } ∧
      (∀ r ∈ t.hutch.log, recordOk r = true) ∧ (∀ r ∈ s.hutch.log, recordOk r = true → r ∈ t.hutch.log) ∧
      (∀ r, (s.hutch.log.filter recordOk).getLast? = some r → t.hutch.nextSeq = (fld r 4 4 + 1) % 2 ^ 32 ∧
        t.hutch.boot = (fld r 16 4 + 1) % 2 ^ 32) ∧
      (∀ d, d < 6 → PortOut.budget d (s.link.linksUp.getD d 0 * 28000 * (100 - s.link.transitPct) / 100) ∈ t.port.out)))

/-- Writes of BAR0 (R348, R493, R495, R497): nothing is taken before HFP_READY; the BUR window counts a write and drops it; a
wrong size or alignment, an offset without a register and a register without a writable field are counted in HUB_BAR0_ERR
with causes 2, 1 and 5; a value that the register's rule refuses with cause 3; a register with a command of its own takes it as
that command does (log 81: a read is no command of the table). New thresholds and quotas of Chest count at once (R304, R306, R307). A read of HUB_BAR0_ERR returns count, cause and offset and clears the count. The order of the tests is the model's reading (logs 61, 82). -/
def Obligations.RegistersAreWritten : Prop :=
  (∀ (off size : Nat) (v : W64) (s : State),
    let w := Machine.exec (.registerWrite off size v) s
    let n := v.toNat % 2 ^ (8 * size)
    let reg := Reg.at_ s.integ.slices (off / 8 * 8)
    (barOpen s = false → w = .next s) ∧
    (barOpen s = true → 0x90000 ≤ off → off < 0xA0000 → w = .next { s with bureau := { s.bureau with
      writeDrops := satInc 32 s.bureau.writeDrops } }) ∧
    (barOpen s = true → (off < 0x90000 ∨ 0xA0000 ≤ off) →
      (((size ≠ 4 ∧ size ≠ 8) ∨ off % size ≠ 0) → w = .next (bar0Err 2 off s)) ∧
      ((size = 4 ∨ size = 8) → off % size = 0 →
        (reg = none → w = .next (bar0Err 1 off s)) ∧
        (∀ r, reg = some r →
          ((off % 8 ≠ 0 ∨ (r.narrow = false ∧ size = 4) ∨ (r.narrow = true ∧ 2 ^ 32 ≤ n)) → w = .next (bar0Err 2 off s)) ∧
          (off % 8 = 0 → (r.narrow = true ∨ size = 8) → (r.narrow = false ∨ n < 2 ^ 32) → r.writable = false →
            w = .next (bar0Err 5 off s)))))) ∧
  (∀ (v : W64) (s : State), barOpen s = true →
    let n := v.toNat
    let set := fun (off : Nat) (ok : Prop) (t : State) =>
      (ok → Machine.exec (.registerWrite off 8 v) s = .next t) ∧ (¬ok → Machine.exec (.registerWrite off 8 v) s = .next (bar0Err 3 off s))
    let set' := fun (off : Nat) (ok : Prop) (q : State → Prop) =>
      (ok → ∃ t, Machine.exec (.registerWrite off 8 v) s = .next t ∧ q t) ∧
      (¬ok → Machine.exec (.registerWrite off 8 v) s = .next (bar0Err 3 off s))
    set 0x100 (s.tenants = []) { s with hub := { s.hub with tntBase := n / 4096 * 4096 } } ∧
    set 0x108 (s.tenants = []) { s with hub := { s.hub with ctxBase := n / 4096 * 4096 } } ∧
    set 0x200 True { s with hub := { s.hub with sealAddr := n / 128 * 128 } } ∧
    set 0x30200 True { s with sched := { s.sched with
      rtBenchMax := n / 2 ^ 56, minBat := n / 2 ^ 32 % 2 ^ 16, minInt := n / 2 ^ 16 % 2 ^ 16, evictAfter := n % 2 ^ 16 } } ∧
    set 0x40108 (s.wrd.enable = false) { s with wrd := { s.wrd with slowGib := n / 2 ^ 32, fastGib := n % 2 ^ 32 } } ∧
    set 0x40120 (n % 2 ^ 27 ≤ n / 2 ^ 27 % 2 ^ 27) { s with wrd := { s.wrd with
      promoteAbove := n / 2 ^ 27 % 2 ^ 27, demoteBelow := n % 2 ^ 27 } } ∧
    set 0x40130 (n % 2 ^ 27 ≤ n / 2 ^ 32 % 2 ^ 27) { s with wrd := { s.wrd with
      maxFrames := n / 2 ^ 32 % 2 ^ 27, minFrames := n % 2 ^ 27 } } ∧
    set' 0x50100 (n / 2 ^ 20 % 1024 < n / 2 ^ 30 % 1024 ∧ n % 1024 < n / 1024 % 1024) (fun t =>
      (t.chest.mfpHigh, t.chest.mfpLow, t.chest.hfpHigh, t.chest.hfpLow) =
        (n / 2 ^ 30 % 1024, n / 2 ^ 20 % 1024, n / 1024 % 1024, n % 1024) ∧ OnlyIn [.chest, .jnl] s t) ∧
    set 0x60100 (1 ≤ n / 2 ^ 16 % 2 ^ 16 ∧ n / 2 ^ 16 % 2 ^ 16 ≤ 1000 ∧ 1 ≤ n % 2 ^ 16 ∧ n % 2 ^ 16 ≤ 1000) { s with watch := { s.watch with
      pfVector := n / 2 ^ 44 % 4096, notify := n.testBit 43, moverWindow := n / 2 ^ 16 % 2 ^ 16, hubWindow := n % 2 ^ 16 } } ∧
    set 0x60140 (s.wrd.enable = false) { s with
      watch := { s.watch with spillBase := n / 2 ^ 30 * 2 ^ 30, spillValid := n.testBit 0 },
      hutch := { s.hutch with spillOk := n.testBit 0 } } ∧
    set 0x70108 (1 ≤ n % 2 ^ 16 ∧ n % 2 ^ 16 ≤ 1000) { s with mgmt := { s.mgmt with fwWindow := n % 2 ^ 16 } } ∧
    set 0x70200 True { s with mgmt := { s.mgmt with updAddr := n / 4096 * 4096 } } ∧
    set 0x80130 (n / 2 ^ 48 ≠ 0) { s with power := { s.power with
      scrubPeriod := n / 2 ^ 48, calibPeriod := n / 2 ^ 32 % 2 ^ 16, bankTestPeriod := n / 2 ^ 16 % 2 ^ 16,
      telemetryPeriod := n % 2 ^ 16 } } ∧
    (∃ t, Machine.exec (.registerWrite 0xB0140 8 v) s = .next t ∧ t = { s with jnl := { s.jnl with traceMask := t.jnl.traceMask } } ∧
      t.jnl.traceMask.toNat = n % 2 ^ 15) ∧
    (∀ c x, c < 6 → s.chest.classes[c]? = some x →
      let quota := n % 2 ^ 18
      let low := n / 2 ^ 22 % 2 ^ 18
      let high := n / 2 ^ 40 % 2 ^ 18
      let others := (((s.chest.classes.zipIdx).filter (fun e => e.2 ≠ c)).map (fun e => e.1.quota)).sum
      set' (0x50110 + 8 * c) (low < high ∧ quota ≤ high ∧ high ≤ 261120 ∧ others + quota ≤ 131072) (fun t =>
        t.chest.classes.map (fun y => (y.cut, y.high, y.low, y.quota)) =
          (s.chest.classes.map (fun y => (y.cut, y.high, y.low, y.quota))).set c (n / 2 ^ 58 + 1, high, low, quota) ∧
        OnlyIn [.chest, .jnl] s t))) ∧
  (∀ (v : W32) (s : State), barOpen s = true →
    let n := v.toNat
    let set := fun (off : Nat) (ok : Prop) (t : State) =>
      (ok → Machine.exec (.registerWrite off 4 (v.setWidth 64)) s = .next t) ∧
      (¬ok → Machine.exec (.registerWrite off 4 (v.setWidth 64)) s = .next (bar0Err 3 off s))
    let acts := fun (off : Nat) (ok : Prop) (u : State) =>
      (ok → s.port.blkRstN = true → ∃ t, Machine.exec (.registerWrite off 4 (v.setWidth 64)) s = .next t ∧ LimiterActs u s t) ∧
      (¬ok → Machine.exec (.registerWrite off 4 (v.setWidth 64)) s = .next (bar0Err 3 off s))
    set 0x20100 (10 ≤ n % 2 ^ 16 ∧ n % 2 ^ 16 ≤ 60000) { s with bramble := { s.bramble with
      dlkEnable := n.testBit 31, dlkWindow := n % 2 ^ 16 } } ∧
    set 0x30208 ((∀ e ∈ s.tenants, e.2.rcd.isSealed = false) ∧ n % 32 ∈ [1, 2, 4, 8, 16]) { s with sched := { s.sched with
      slotsPerTenant := n % 32 } } ∧
    set 0x30210 (n % 256 < 4 * s.integ.slices) { s with sched := { s.sched with benchSel := n % 256 } } ∧
    set 0x50180 (n / 2 ^ 16 ≠ 0 ∧ n % 2 ^ 16 ≠ 0) { s with chest := { s.chest with
      bankThreshold := n / 2 ^ 16, eventStep := n % 2 ^ 16 } } ∧
    set 0x508 (25 ≤ n % 128 ∧ n % 128 ≤ 75) { s with
      link := { s.link with transitPct := n % 128 },
      port := { s.port with out := s.port.out ++ ([0, 1, 2, 3, 4, 5].map (fun d =>
        .budget d (s.link.linksUp.getD d 0 * 28000 * (100 - n % 128) / 100))) } } ∧
    acts 0x80108 (1 ≤ n % 2 ^ 16 ∧ n % 2 ^ 16 ≤ 1000 ∧ n / 2 ^ 16 % 8 ≤ 6) { s with power := { s.power with
      forced := n / 2 ^ 16 % 8, holdMs := n % 2 ^ 16 } } ∧
    acts 0x80110 (n % 256 < n / 256 % 256 ∧ n / 256 % 256 < n / 2 ^ 16 % 256 ∧ n / 2 ^ 16 % 256 < s.integ.tMax) { s with
      power := { s.power with tWarn := n % 256, tHigh := n / 256 % 256, tCrit := n / 2 ^ 16 % 256 } } ∧
    acts 0x80120 (s.integ.floorMin ≤ n / 256 % 256 ∧ n / 256 % 256 ≤ n % 256 ∧ n % 256 ≤ s.integ.fmax) { s with
      power := { s.power with floorCode := n / 256 % 256, targetCode := n % 256 } } ∧
    (let w := fun (off : Nat) => Machine.exec (.registerWrite off 4 (v.setWidth 64)) s
     let op := n / 2 ^ 28
     w 0x310 = Machine.exec (.burReqWrite v) s ∧ w 0x518 = Machine.exec (.barrierSlotOwn v) s ∧
     (op = 1 → n / 2 ^ 24 % 16 = 1 → w 0x110 = Machine.exec (.tenantActivate (n % 16384) (tableRead s.hub.tntBase (n % 16384) s)) s) ∧
     (op = 2 → n / 2 ^ 24 % 16 = 1 → w 0x110 = Machine.exec (.tenantRetire (n % 16384)) s) ∧
     (op = 1 → n / 2 ^ 24 % 16 = 2 → w 0x110 = Machine.exec (.contextActivate (n % 16384) (tableRead s.hub.ctxBase (n % 16384) s)) s) ∧
     (op = 2 → n / 2 ^ 24 % 16 = 2 → w 0x110 = Machine.exec (.contextRetire (n % 16384)) s) ∧
     (∀ x, op = 1 → tget s.contexts (n / 256 % 16384) = some x → w 0x10100 = Machine.exec (.queueEnable (n / 256 % 16384) (n % 256)
       (.ok (memRead (ctxLoc x.rcd (x.rcd.queueTable + n % 256 * 64)) 64 s)) .ok) s) ∧
     (op = 1 → w 0x208 = Machine.exec (.sealLoad (n % 8) (.ok (memRead (pfLoc s.hub.sealAddr) 128 s))) s) ∧
     (op = 2 → w 0x10100 = Machine.exec (.queueShutdown (n / 256 % 16384) (n % 256)) s) ∧
     (op = 2 → w 0x208 = Machine.exec (.sealClear (n % 8)) s) ∧
     (op = 1 → w 0x60120 = Machine.exec (.partitionReset (n % 64)) s) ∧ (op = 2 → w 0x60120 = Machine.exec (.computeReset (n % 64)) s) ∧
     (op = 3 → w 0x60120 = Machine.exec (.resetReq (n % 64)) s))) ∧
  (∀ (v : W64) (s : State), barOpen s = true →
    let w := fun (off : Nat) => Machine.exec (.registerWrite off 8 v) s
    let op := v.toNat / 2 ^ 60
    w 0x300 = Machine.exec (.burRingWrite v) s ∧ w 0x408 = Machine.exec (.hostCapsWrite v) s ∧
    w 0x40100 = Machine.exec (.wrdCfgWrite v) s ∧ w 0xA0100 = Machine.exec (.staAddrWrite v) s ∧
    w 0xB0100 = Machine.exec (.jnlRingWrite .event v) s ∧ w 0xB0108 = Machine.exec (.eventConsWrite v) s ∧
    w 0xB0120 = Machine.exec (.jnlRingWrite .log v) s ∧ w 0xB0148 = Machine.exec (.jnlRingWrite .trace v) s ∧
    (op = 1 → w 0x70208 = Machine.exec (.updateStage (v.toNat % 2 ^ 16)) s) ∧
    (op = 2 → w 0x70208 = Machine.exec (.updateActivate (v.toNat.testBit 59)) s) ∧
    (op = 3 → w 0x70208 = Machine.exec .updateCancel s)) ∧
  (∀ s : State,
    (barOpen s = false → Machine.exec .bar0ErrRead s = .next s) ∧
    (barOpen s = true → s.hub.bar0Count < 2 ^ 32 → ∃ t, Machine.exec .bar0ErrRead s = .next t ∧
      t.port.readData.toNat = s.hub.bar0Count * 2 ^ 32 + s.hub.bar0Cause % 16 * 2 ^ 28 + s.hub.bar0Off % 2 ^ 21 ∧
      t.hub = { s.hub with bar0Count := 0 } ∧ OnlyIn [.port, .hub] s t))

/-- A step takes the command at the front of the queue: it is that command's effect on the state with the queue's rest. -/
def Obligations.StepRunsFront : Prop :=
  ∀ (c : Instr) (rest : List Instr) (s : State),
    Machine.step { s with pending := c :: rest } = Machine.exec c { s with pending := rest }

/-- On an empty queue a step is one AON_CLK cycle: the block time base (R21) goes up by one and nothing else changes. That an
empty queue lets time pass is the model's choice (log 10). -/
def Obligations.EmptyQueueTicks : Prop :=
  ∀ s : State, s.pending = [] → ∃ t, Machine.step s = .next t ∧ t.time = s.time + 1 ∧ OnlyIn [.time] s t

/-- Every command takes effect in every state (log 1), and changes no part of the state but those listed for it (touches): no
command changes what manufacture and integration set, none but POR_N sets the block time base (R21), none changes Bureau but
its own commands, a mailbox item, the forwarding of a report, a register write, the supply and the resets of R344. -/
def Obligations.CommandsTouchOnlyTheirParts : Prop :=
  ∀ (c : Instr) (s : State), ∃ t, Machine.exec c s = .next t ∧ OnlyIn (touches c) s t

/-- Every step answers a next state, and keeps the memories in canonical form (log 2), whatever stands in the queue. -/
def Obligations.MemoriesStayCanonical : Prop :=
  ∀ s : State, s.MemOk → ∃ t, Machine.step s = .next t ∧ t.MemOk

/-- Every step keeps the shape of the state's tables: no key twice in the tables of contexts, queues, slices, sequences,
benches, frames and bank counts; six classes of cells (R302), six directions (R488), four cores (R410),
four slots of 64 bytes in every push window (R77), six counters in every tenant slot (R328); a page_log2 of 14 to 18 (R221). -/
def Obligations.TablesStayInOrder : Prop :=
  ∀ s t : State, s.Shaped → Machine.step s = .next t → t.Shaped

/-- Block reset (R344, R491): State.reset has empty memories and an empty queue, no tenant, context, queue, loop, model or
residency, its tables in shape, level S0 (R442), and the registers read as the register tables give their reset values (those that no rule
gives are logs 3 to 7). -/
def Obligations.ResetLeavesTheGivenValues : Prop :=
  State.reset.MemOk ∧ State.reset.Shaped ∧ State.reset.pending = [] ∧
  (State.reset.tenants, State.reset.contexts, State.reset.front.queues) = ([], [], []) ∧
  (State.reset.trestle.loops, State.reset.wrd.models, State.reset.sched.residencies) = ([], [], []) ∧
  State.reset.power.level = 0 ∧ State.reset.watch.hubReady = false ∧ State.reset.port.prtRst = List.range 40 ∧
  (∀ e ∈ [(0x100, 0), (0x108, 0), (0x110, 0), (0x118, 0), (0x200, 0), (0x210, 0), (0x300, 0), (0x308, 0), (0x508, 25), (0x518, 0)],
    readBar0 e.1 8 State.reset = e.2) ∧
  (∀ e ∈ [(0x10108, 0), (0x20100, 0x80000064), (0x20110, 0), (0x30200, 0xC000138801F40032), (0x30208, 4), (0x40100, 16),
      (0x40108, 0), (0x40120, 0), (0x40130, 0), (0x50100, 0xD0300C02C0), (0x50180, 0x100040)],
    readBar0 e.1 8 State.reset = e.2) ∧
  (∀ e ∈ [(0x60100, 0xA000A), (0x60110, 0), (0x60128, 0), (0x60140, 0), (0x70108, 20), (0x70120, 1000), (0x70200, 0), (0x70210, 0),
      (0x80108, 10), (0x80110, 0x665F55), (0x80130, 0x003C025805A003E8), (0x80138, 0)],
    readBar0 e.1 8 State.reset = e.2) ∧
  (∀ e ∈ [(0xA0100, 0), (0xA0108, 0), (0xB0100, 0), (0xB0108, 0), (0xB0110, 0), (0xB0120, 0x200), (0xB0128, 0), (0xB0140, 0), (0xB0148, 0),
      (0xB0150, 0)],
    readBar0 e.1 8 State.reset = e.2)
end

