-- ==== Sys2Proof/Laws/Memory.lean ====
section
/-! SUPPORT. What the memory operations give: a byte read after a write, and the canonical form kept (log 2). -/

namespace Sys2Proof.Machine

theorem cellGet_cellIns (m : List Host.Cell) (a b : Nat) (v : Byte) :
    cellGet (cellIns m a v) b = if b = a then v else cellGet m b := by
  induction m with
  | nil => simp [cellIns, cellGet, eq_comm]
  | cons e m ih =>
    obtain ⟨k, x⟩ := e
    simp only [cellIns]
    split
    · by_cases h : b = a
      · simp [cellGet, h]
      · simp [cellGet, h, Ne.symm h]
    · split
      · next hk =>
        subst hk
        by_cases h : b = k
        · simp [cellGet, h]
        · simp [cellGet, h, Ne.symm h]
      · next hk =>
        simp only [cellGet, ih]
        by_cases hb : k = b
        · subst hb; simp [hk]
        · simp [hb]

/-- Every key of the list lies above a bound. -/
def keysAbove (k : Nat) (m : List Host.Cell) : Prop := ∀ e ∈ m, k < e.1

/-- Canonical form, as a recursive proposition. -/
def memWfP : List Host.Cell → Prop
  | [] => True
  | (k, b) :: m => b ≠ 0 ∧ keysAbove k m ∧ memWfP m

theorem memWf_iff (m : List Host.Cell) : memWf m = true ↔ memWfP m := by
  induction m with
  | nil => simp [memWf, memWfP]
  | cons e m ih =>
    obtain ⟨k, b⟩ := e
    cases m with
    | nil => simp [memWf, memWfP, keysAbove]
    | cons f m =>
      obtain ⟨k', b'⟩ := f
      simp only [memWf, Bool.and_eq_true, decide_eq_true_eq, ih, memWfP]
      constructor
      · rintro ⟨⟨h1, h2⟩, h3⟩
        refine ⟨h1, fun e he => ?_, h3⟩
        rcases List.mem_cons.1 he with rfl | he
        · exact h2
        · exact lt_trans h2 (h3.2.1 e he)
      · rintro ⟨h1, h2, h3⟩
        exact ⟨⟨h1, h2 _ (List.mem_cons_self ..)⟩, h3⟩

theorem cellIns_mem {m : List Host.Cell} {a : Nat} {v : Byte} {e : Host.Cell} (h : e ∈ cellIns m a v) :
    e = (a, v) ∨ e ∈ m := by
  induction m with
  | nil => simpa [cellIns] using h
  | cons f m ih =>
    obtain ⟨k, x⟩ := f
    simp only [cellIns] at h
    split at h
    · simpa using h
    · split at h
      · rcases List.mem_cons.1 h with h | h
        · exact .inl h
        · exact .inr (List.mem_cons_of_mem _ h)
      · rcases List.mem_cons.1 h with h | h
        · exact .inr (h ▸ List.mem_cons_self ..)
        · exact (ih h).imp_right (List.mem_cons_of_mem _)

theorem memWfP_cellIns {m : List Host.Cell} (a : Nat) {v : Byte} (hv : v ≠ 0) (h : memWfP m) :
    memWfP (cellIns m a v) := by
  induction m with
  | nil => exact ⟨hv, by simp [keysAbove], trivial⟩
  | cons f m ih =>
    obtain ⟨k, x⟩ := f
    obtain ⟨h1, h2, h3⟩ := h
    simp only [cellIns]
    split
    · next ha =>
      refine ⟨hv, fun e he => ?_, h1, h2, h3⟩
      rcases List.mem_cons.1 he with rfl | he
      · exact ha
      · exact lt_trans ha (h2 e he)
    · split
      · next hk => subst hk; exact ⟨hv, h2, h3⟩
      · refine ⟨h1, fun e he => ?_, ih h3⟩
        rcases cellIns_mem he with rfl | he
        · show k < a; omega
        · exact h2 e he

theorem cellDel_mem {m : List Host.Cell} {a : Nat} {e : Host.Cell} (h : e ∈ cellDel m a) : e ∈ m := by
  induction m with
  | nil => exact h
  | cons f m ih =>
    obtain ⟨k, x⟩ := f
    simp only [cellDel] at h
    split at h
    · exact List.mem_cons_of_mem _ h
    · rcases List.mem_cons.1 h with h | h
      · exact h ▸ List.mem_cons_self ..
      · exact List.mem_cons_of_mem _ (ih h)

theorem memWfP_cellDel {m : List Host.Cell} (a : Nat) (h : memWfP m) : memWfP (cellDel m a) := by
  induction m with
  | nil => trivial
  | cons f m ih =>
    obtain ⟨k, x⟩ := f
    obtain ⟨h1, h2, h3⟩ := h
    simp only [cellDel]
    split
    · exact h3
    · exact ⟨h1, fun e he => h2 e (cellDel_mem he), ih h3⟩

theorem cellGet_of_above {m : List Host.Cell} {a k : Nat} (h : keysAbove k m) (ha : a ≤ k) : cellGet m a = 0 := by
  induction m with
  | nil => rfl
  | cons f m ih =>
    have := h f (List.mem_cons_self ..)
    have hne : f.1 ≠ a := by omega
    simp only [cellGet, hne, if_false]
    exact ih (fun e he => h e (List.mem_cons_of_mem _ he))

theorem cellGet_cellDel {m : List Host.Cell} (a b : Nat) (h : memWfP m) :
    cellGet (cellDel m a) b = if b = a then 0 else cellGet m b := by
  induction m with
  | nil => simp [cellDel, cellGet]
  | cons f m ih =>
    obtain ⟨k, x⟩ := f
    obtain ⟨_, h2, h3⟩ := h
    simp only [cellDel]
    split
    · next hk =>
      subst hk
      by_cases hb : b = k
      · subst hb; simp [cellGet_of_above h2 le_rfl]
      · simp [cellGet, hb, Ne.symm hb]
    · next hk =>
      simp only [cellGet, ih h3]
      by_cases hb : k = b
      · subst hb; simp [hk]
      · simp [hb]

theorem memWfP_cellPut {m : List Host.Cell} (a : Nat) (v : Byte) (h : memWfP m) : memWfP (cellPut m a v) := by
  unfold cellPut
  split
  · exact memWfP_cellDel a h
  · next hv => exact memWfP_cellIns a hv h

/-- A byte read after a byte is put: the byte put at its address, what it was elsewhere. -/
theorem cellGet_cellPut {m : List Host.Cell} (a b : Nat) (v : Byte) (h : memWfP m) :
    cellGet (cellPut m a v) b = if b = a then v else cellGet m b := by
  unfold cellPut
  split
  · next hv => subst hv; exact cellGet_cellDel a b h
  · exact cellGet_cellIns m a b v

theorem memWfP_writeN {m : List Host.Cell} (a : Nat) (bs : List Byte) (h : memWfP m) : memWfP (writeN m a bs) := by
  induction bs generalizing m a with
  | nil => exact h
  | cons b bs ih => exact ih (a + 1) (memWfP_cellPut a b h)

/-- A byte read after a run of bytes is written: inside the run the byte written, outside it what it was. -/
theorem cellGet_writeN {m : List Host.Cell} (a b : Nat) (bs : List Byte) (h : memWfP m) :
    cellGet (writeN m a bs) b = if a ≤ b ∧ b < a + bs.length then bs.getD (b - a) 0 else cellGet m b := by
  induction bs generalizing m a with
  | nil => rw [if_neg (by simp only [List.length_nil]; omega)]; rfl
  | cons c bs ih =>
    simp only [writeN, ih (a + 1) (memWfP_cellPut a c h), cellGet_cellPut a b c h, List.length_cons]
    by_cases h1 : b = a
    · subst h1; simp
    · by_cases h2 : a + 1 ≤ b ∧ b < a + 1 + bs.length
      · rw [if_pos h2, if_pos (by omega)]
        obtain ⟨n, hn⟩ : ∃ n, b - a = n + 1 := ⟨b - a - 1, by omega⟩
        have : b - (a + 1) = n := by omega
        simp [hn, this]
      · rw [if_neg h2, if_neg h1, if_neg (by omega)]

theorem cellGet_cellDel_ne (m : List Host.Cell) {a b : Nat} (h : b ≠ a) : cellGet (cellDel m a) b = cellGet m b := by
  induction m with
  | nil => rfl
  | cons f m ih =>
    obtain ⟨k, x⟩ := f
    simp only [cellDel]
    split
    · next hk => subst hk; simp [cellGet, Ne.symm h]
    · simp [cellGet, ih]

theorem cellGet_cellPut_ne (m : List Host.Cell) {a b : Nat} (v : Byte) (h : b ≠ a) :
    cellGet (cellPut m a v) b = cellGet m b := by
  unfold cellPut
  split
  · exact cellGet_cellDel_ne m h
  · rw [cellGet_cellIns, if_neg h]

/-- Bytes outside a written run read as before. -/
theorem cellGet_writeN_outside (m : List Host.Cell) {a b : Nat} (bs : List Byte)
    (hb : b < a ∨ a + bs.length ≤ b) : cellGet (writeN m a bs) b = cellGet m b := by
  induction bs generalizing m a with
  | nil => rfl
  | cons c bs ih =>
    simp only [List.length_cons] at hb
    rw [writeN, ih _ (by omega), cellGet_cellPut_ne m c (by omega)]

/-- A run read back at the place it was written to. -/
theorem readN_writeN {m : List Host.Cell} (a : Nat) (bs : List Byte) (h : memWfP m) :
    readN (writeN m a bs) a bs.length = bs := by
  apply List.ext_getElem
  · simp [readN]
  · intro i h1 h2
    simp only [readN, List.getElem_map, List.getElem_range]
    rw [cellGet_writeN a (a + i) bs h, if_pos (by omega)]
    simp [h2]

theorem memWfP_filter {m : List Host.Cell} (p : Host.Cell → Bool) (h : memWfP m) : memWfP (m.filter p) := by
  induction m with
  | nil => trivial
  | cons f m ih =>
    obtain ⟨h1, h2, h3⟩ := h
    rw [List.filter_cons]
    split
    · exact ⟨h1, fun e he => h2 e (List.mem_filter.1 he).1, ih h3⟩
    · exact ih h3

theorem memWfP_clearRange {m : List Host.Cell} (a n : Nat) (h : memWfP m) : memWfP (clearRange m a n) :=
  memWfP_filter _ h

theorem memWfP_foldPut {m : List Host.Cell} (cs : List Host.Cell) (f : Host.Cell → Nat) (h : memWfP m) :
    memWfP (cs.foldl (fun d c => cellPut d (f c) c.2) m) := by
  induction cs generalizing m with
  | nil => exact h
  | cons c cs ih => exact ih (memWfP_cellPut _ _ h)

theorem memWfP_copyCells (src : List Host.Cell) (a n : Nat) {dst : List Host.Cell} (b : Nat) (h : memWfP dst) :
    memWfP (copyCells src a n dst b) := memWfP_foldPut _ _ (memWfP_clearRange b n h)

/-- The memories of a state are in canonical form. -/
def Mems.Canon (m : Mems) : Prop := memWfP m.host ∧ memWfP m.fast ∧ memWfP m.slow ∧ memWfP m.scratch ∧ memWfP m.flash

theorem Mems.wf_iff (m : Mems) : m.wf = true ↔ m.Canon := by
  simp [Mems.wf, Mems.Canon, memWf_iff, and_assoc]

theorem Mems.Canon.of {m : Mems} (h : m.Canon) (sp : Space) : memWfP (m.of sp) := by
  cases sp
  · exact h.1
  · exact h.2.1
  · exact h.2.2.1

theorem Mems.Canon.put {m : Mems} (h : m.Canon) (sp : Space) {x : List Host.Cell} (hx : memWfP x) : (m.put sp x).Canon := by
  cases sp
  · exact ⟨hx, h.2⟩
  · exact ⟨h.1, hx, h.2.2⟩
  · exact ⟨h.1, h.2.1, hx, h.2.2.2⟩

theorem Mems.Canon.write {m : Mems} (h : m.Canon) (l : Loc) (bs : List Byte) : (m.write l bs).Canon := by
  obtain ⟨sp, a⟩ := l
  cases sp
  · exact ⟨memWfP_writeN _ _ h.1, h.2⟩
  · exact ⟨h.1, memWfP_writeN _ _ h.2.1, h.2.2⟩
  · exact ⟨h.1, h.2.1, memWfP_writeN _ _ h.2.2.1, h.2.2.2⟩

theorem Mems.of_write (m : Mems) (l : Loc) (bs : List Byte) (sp : Space) :
    (m.write l bs).of sp = if sp = l.space then writeN (m.of sp) l.addr bs else m.of sp := by
  obtain ⟨sp', a⟩ := l
  cases sp <;> cases sp' <;> rfl

theorem Mems.scratch_write (m : Mems) (l : Loc) (bs : List Byte) : (m.write l bs).scratch = m.scratch := by
  obtain ⟨sp', a⟩ := l
  cases sp' <;> rfl

end Sys2Proof.Machine
end

