-- ==== Sys2Proof/Laws/Within.lean ====
section
/-! SUPPORT. What every operation of the block may change: one lemma per operation says the parts of the state it may
write, every other part staying as it was and the memories staying canonical. Cited, never unfolded, by the lemmas of the
operations that call it. -/

set_option Elab.async false
set_option linter.unusedTactic false
set_option linter.unreachableTactic false

namespace Sys2Proof.Machine

/-- A state reached from another with no part written outside a list, and canonical memories where the first one's
were. -/
structure Within (fp : List Part) (s0 s : State) : Prop where
  same : ∀ p, p ∉ fp → p.same s0 s
  canon : s0.mem.Canon → s.mem.Canon

/-- A list of parts covers another. -/
def Covers (l fp : List Part) : Prop := ∀ p ∈ l, p ∈ fp

theorem Covers.refl (l : List Part) : Covers l l := fun _ h => h

theorem Covers.sub {l l' fp : List Part} (h : Covers l fp) (h' : ∀ p ∈ l', p ∈ l) : Covers l' fp :=
  fun p hp => h p (h' p hp)

theorem Part.same_refl (p : Part) (s : State) : p.same s s := by cases p <;> rfl

theorem Part.same_trans {p : Part} {s t u : State} (h : p.same s t) (h' : p.same t u) : p.same s u := by
  cases p <;> exact Eq.trans h' h

theorem Within.refl (fp : List Part) (s : State) : Within fp s s := ⟨fun p _ => p.same_refl s, id⟩

/-- A change of covered parts that leaves canonical memories. -/
theorem Within.set {fp : List Part} {s0 s t : State} (hk : Within fp s0 s) (h : ∀ p, p ∈ fp ∨ p.same s t)
    (hc : s.mem.Canon → t.mem.Canon) : Within fp s0 t :=
  ⟨fun p hp => Part.same_trans (hk.same p hp) ((h p).resolve_left hp), fun c => hc (hk.canon c)⟩

theorem Within.ite {fp : List Part} {s0 a b : State} {c : Prop} [Decidable c] (ha : c → Within fp s0 a)
    (hb : ¬c → Within fp s0 b) : Within fp s0 (if c then a else b) := by
  split
  · exact ha ‹_›
  · exact hb ‹_›

theorem Within.foldl {α : Type} {fp : List Part} {s0 : State} {f : State → α → State}
    (hf : ∀ s a, Within fp s0 s → Within fp s0 (f s a)) (l : List α) {s : State} (h : Within fp s0 s) :
    Within fp s0 (l.foldl f s) := by
  induction l generalizing s with
  | nil => exact h
  | cons a l ih => exact ih (hf s a h)

theorem Within.getD {fp : List Part} {s0 s : State} (o : Option State) (h : Within fp s0 s)
    (ho : ∀ t, o = some t → Within fp s0 t) : Within fp s0 (o.getD s) := by
  cases o with
  | none => exact h
  | some t => exact ho t rfl

/-- The core storage replaced by a canonical one. -/
theorem Mems.Canon.scratch {m : Mems} (h : m.Canon) {x : List Host.Cell} (hx : memWfP x) :
    Mems.Canon { m with scratch := x } := ⟨h.1, h.2.1, h.2.2.1, hx, h.2.2.2.2⟩

/-- The flash replaced by a canonical one. -/
theorem Mems.Canon.flash {m : Mems} (h : m.Canon) {x : List Host.Cell} (hx : memWfP x) :
    Mems.Canon { m with flash := x } := ⟨h.1, h.2.1, h.2.2.1, h.2.2.2.1, hx⟩

theorem Within.mem {fp : List Part} {s0 s : State} (hk : Within fp s0 s) {m : Mems} (hc : s.mem.Canon → m.Canon)
    (hm : Covers [.mem] fp) : Within fp s0 { s with mem := m } := by
  refine hk.set (fun p => ?_) hc
  cases p <;> first | exact .inr rfl | exact .inl (hm _ (by decide))

theorem memWrite_within {fp : List Part} {s0 s : State} (l : Loc) (bs : List Byte) (hk : Within fp s0 s)
    (hm : Covers [.mem] fp := by exact Covers.sub ‹Covers _ _› (by decide)) : Within fp s0 (memWrite l bs s) :=
  hk.mem (fun c => c.write l bs) hm

theorem memCopy_within {fp : List Part} {s0 s : State} (src dst : Loc) (n : Nat) (hk : Within fp s0 s)
    (hm : Covers [.mem] fp := by exact Covers.sub ‹Covers _ _› (by decide)) : Within fp s0 (memCopy src dst n s) :=
  hk.mem (fun c => c.put _ (memWfP_copyCells _ _ _ _ (c.of _))) hm

theorem memZero_within {fp : List Part} {s0 s : State} (l : Loc) (n : Nat) (hk : Within fp s0 s)
    (hm : Covers [.mem] fp := by exact Covers.sub ‹Covers _ _› (by decide)) : Within fp s0 (memZero l n s) :=
  hk.mem (fun c => c.put _ (memWfP_clearRange _ _ (c.of _))) hm

theorem clearBench_within {fp : List Part} {s0 s : State} (b : Nat) (hk : Within fp s0 s)
    (hm : Covers [.mem] fp := by exact Covers.sub ‹Covers _ _› (by decide)) : Within fp s0 (clearBench b s) :=
  hk.mem (fun c => c.scratch (memWfP_clearRange _ _ c.2.2.2.1)) hm

/-- Every state an optional answer holds keeps what the first one kept. -/
abbrev WithinO (fp : List Part) (s0 : State) (o : Option State) : Prop := ∀ t, o = some t → Within fp s0 t

theorem WithinO.none {fp : List Part} {s0 : State} : WithinO fp s0 none := fun _ h => nomatch h

theorem WithinO.some {fp : List Part} {s0 s : State} (h : Within fp s0 s) : WithinO fp s0 (some s) := by
  intro t e; injection e with e; exact e ▸ h

theorem WithinO.of {fp : List Part} {s0 t : State} {o : Option State} (e : o = Option.some t) (h : WithinO fp s0 o) :
    Within fp s0 t := h t e

theorem WithinO.map {fp : List Part} {s0 : State} {o : Option State} {f : State → State} (h : WithinO fp s0 o)
    (hf : ∀ t, Within fp s0 t → Within fp s0 (f t)) : WithinO fp s0 (o.map f) := by
  cases o with
  | none => exact WithinO.none
  | some t => exact WithinO.some (hf t (h t rfl))

theorem WithinO.bind {fp : List Part} {s0 : State} {o : Option State} {f : State → Option State} (h : WithinO fp s0 o)
    (hf : ∀ t, Within fp s0 t → WithinO fp s0 (f t)) : WithinO fp s0 (o.bind f) := by
  cases o with
  | none => exact WithinO.none
  | some t => exact hf t (h t rfl)

theorem WithinO.foldl {α : Type} {fp : List Part} {s0 : State} {f : Option State → α → Option State}
    (hf : ∀ o a, WithinO fp s0 o → WithinO fp s0 (f o a)) (l : List α) {o : Option State} (h : WithinO fp s0 o) :
    WithinO fp s0 (l.foldl f o) := by
  induction l generalizing o with
  | nil => exact h
  | cons a l ih => exact ih (hf o a h)

theorem Within.of_fst {α : Type} {fp : List Part} {s0 t : State} {a : α} {p : State × α} (e : p = (t, a))
    (h : Within fp s0 p.1) : Within fp s0 t := by
  subst e; exact h

theorem Within.of_snd {α : Type} {fp : List Part} {s0 t : State} {a : α} {p : α × State} (e : p = (a, t))
    (h : Within fp s0 p.2) : Within fp s0 t := by
  subst e; exact h

theorem Within.port {fp : List Part} {s0 s : State} (hk : Within fp s0 s)
    (hm : Covers [.port] fp) (v0) :
    Within fp s0 { s with port := v0 } := by
  refine hk.set (fun p => ?_) id
  cases p <;> first | exact .inr rfl | exact .inl (hm _ (by decide))

theorem Within.hub {fp : List Part} {s0 s : State} (hk : Within fp s0 s)
    (hm : Covers [.hub] fp) (v0) :
    Within fp s0 { s with hub := v0 } := by
  refine hk.set (fun p => ?_) id
  cases p <;> first | exact .inr rfl | exact .inl (hm _ (by decide))

theorem Within.tenants {fp : List Part} {s0 s : State} (hk : Within fp s0 s)
    (hm : Covers [.tenants] fp) (v0) :
    Within fp s0 { s with tenants := v0 } := by
  refine hk.set (fun p => ?_) id
  cases p <;> first | exact .inr rfl | exact .inl (hm _ (by decide))

theorem Within.contexts {fp : List Part} {s0 s : State} (hk : Within fp s0 s)
    (hm : Covers [.contexts] fp) (v0) :
    Within fp s0 { s with contexts := v0 } := by
  refine hk.set (fun p => ?_) id
  cases p <;> first | exact .inr rfl | exact .inl (hm _ (by decide))

theorem Within.objects {fp : List Part} {s0 s : State} (hk : Within fp s0 s)
    (hm : Covers [.objects] fp) (v0) :
    Within fp s0 { s with objects := v0 } := by
  refine hk.set (fun p => ?_) id
  cases p <;> first | exact .inr rfl | exact .inl (hm _ (by decide))

theorem Within.graphs {fp : List Part} {s0 s : State} (hk : Within fp s0 s)
    (hm : Covers [.graphs] fp) (v0) :
    Within fp s0 { s with graphs := v0 } := by
  refine hk.set (fun p => ?_) id
  cases p <;> first | exact .inr rfl | exact .inl (hm _ (by decide))

theorem Within.front {fp : List Part} {s0 s : State} (hk : Within fp s0 s)
    (hm : Covers [.front] fp) (v0) :
    Within fp s0 { s with front := v0 } := by
  refine hk.set (fun p => ?_) id
  cases p <;> first | exact .inr rfl | exact .inl (hm _ (by decide))

theorem Within.bramble {fp : List Part} {s0 s : State} (hk : Within fp s0 s)
    (hm : Covers [.bramble] fp) (v0) :
    Within fp s0 { s with bramble := v0 } := by
  refine hk.set (fun p => ?_) id
  cases p <;> first | exact .inr rfl | exact .inl (hm _ (by decide))

theorem Within.slices {fp : List Part} {s0 s : State} (hk : Within fp s0 s)
    (hm : Covers [.slices] fp) (v0) :
    Within fp s0 { s with slices := v0 } := by
  refine hk.set (fun p => ?_) id
  cases p <;> first | exact .inr rfl | exact .inl (hm _ (by decide))

theorem Within.trestle {fp : List Part} {s0 s : State} (hk : Within fp s0 s)
    (hm : Covers [.trestle] fp) (v0) :
    Within fp s0 { s with trestle := v0 } := by
  refine hk.set (fun p => ?_) id
  cases p <;> first | exact .inr rfl | exact .inl (hm _ (by decide))

theorem Within.sched {fp : List Part} {s0 s : State} (hk : Within fp s0 s)
    (hm : Covers [.sched] fp) (v0) :
    Within fp s0 { s with sched := v0 } := by
  refine hk.set (fun p => ?_) id
  cases p <;> first | exact .inr rfl | exact .inl (hm _ (by decide))

theorem Within.wrd {fp : List Part} {s0 s : State} (hk : Within fp s0 s)
    (hm : Covers [.wrd] fp) (v0) :
    Within fp s0 { s with wrd := v0 } := by
  refine hk.set (fun p => ?_) id
  cases p <;> first | exact .inr rfl | exact .inl (hm _ (by decide))

theorem Within.chest {fp : List Part} {s0 s : State} (hk : Within fp s0 s)
    (hm : Covers [.chest] fp) (v0) :
    Within fp s0 { s with chest := v0 } := by
  refine hk.set (fun p => ?_) id
  cases p <;> first | exact .inr rfl | exact .inl (hm _ (by decide))

theorem Within.bureau {fp : List Part} {s0 s : State} (hk : Within fp s0 s)
    (hm : Covers [.bureau] fp) (v0) :
    Within fp s0 { s with bureau := v0 } := by
  refine hk.set (fun p => ?_) id
  cases p <;> first | exact .inr rfl | exact .inl (hm _ (by decide))

theorem Within.watch {fp : List Part} {s0 s : State} (hk : Within fp s0 s)
    (hm : Covers [.watch] fp) (v0) :
    Within fp s0 { s with watch := v0 } := by
  refine hk.set (fun p => ?_) id
  cases p <;> first | exact .inr rfl | exact .inl (hm _ (by decide))

theorem Within.hutch {fp : List Part} {s0 s : State} (hk : Within fp s0 s)
    (hm : Covers [.hutch] fp) (v0) :
    Within fp s0 { s with hutch := v0 } := by
  refine hk.set (fun p => ?_) id
  cases p <;> first | exact .inr rfl | exact .inl (hm _ (by decide))

theorem Within.jnl {fp : List Part} {s0 s : State} (hk : Within fp s0 s)
    (hm : Covers [.jnl] fp) (v0) :
    Within fp s0 { s with jnl := v0 } := by
  refine hk.set (fun p => ?_) id
  cases p <;> first | exact .inr rfl | exact .inl (hm _ (by decide))

theorem Within.sta {fp : List Part} {s0 s : State} (hk : Within fp s0 s)
    (hm : Covers [.sta] fp) (v0) :
    Within fp s0 { s with sta := v0 } := by
  refine hk.set (fun p => ?_) id
  cases p <;> first | exact .inr rfl | exact .inl (hm _ (by decide))

theorem Within.mgmt {fp : List Part} {s0 s : State} (hk : Within fp s0 s)
    (hm : Covers [.mgmt] fp) (v0) :
    Within fp s0 { s with mgmt := v0 } := by
  refine hk.set (fun p => ?_) id
  cases p <;> first | exact .inr rfl | exact .inl (hm _ (by decide))

theorem Within.power {fp : List Part} {s0 s : State} (hk : Within fp s0 s)
    (hm : Covers [.power] fp) (v0) :
    Within fp s0 { s with power := v0 } := by
  refine hk.set (fun p => ?_) id
  cases p <;> first | exact .inr rfl | exact .inl (hm _ (by decide))

theorem Within.link {fp : List Part} {s0 s : State} (hk : Within fp s0 s)
    (hm : Covers [.link] fp) (v0) :
    Within fp s0 { s with link := v0 } := by
  refine hk.set (fun p => ?_) id
  cases p <;> first | exact .inr rfl | exact .inl (hm _ (by decide))

theorem Within.port_hub {fp : List Part} {s0 s : State} (hk : Within fp s0 s)
    (hm : Covers [.port, .hub] fp) (v0 v1) :
    Within fp s0 { s with port := v0, hub := v1 } := by
  refine hk.set (fun p => ?_) id
  cases p <;> first | exact .inr rfl | exact .inl (hm _ (by decide))

theorem Within.port_sched {fp : List Part} {s0 s : State} (hk : Within fp s0 s)
    (hm : Covers [.port, .sched] fp) (v0 v1) :
    Within fp s0 { s with port := v0, sched := v1 } := by
  refine hk.set (fun p => ?_) id
  cases p <;> first | exact .inr rfl | exact .inl (hm _ (by decide))

theorem Within.port_chest {fp : List Part} {s0 s : State} (hk : Within fp s0 s)
    (hm : Covers [.port, .chest] fp) (v0 v1) :
    Within fp s0 { s with port := v0, chest := v1 } := by
  refine hk.set (fun p => ?_) id
  cases p <;> first | exact .inr rfl | exact .inl (hm _ (by decide))

theorem Within.port_bureau {fp : List Part} {s0 s : State} (hk : Within fp s0 s)
    (hm : Covers [.port, .bureau] fp) (v0 v1) :
    Within fp s0 { s with port := v0, bureau := v1 } := by
  refine hk.set (fun p => ?_) id
  cases p <;> first | exact .inr rfl | exact .inl (hm _ (by decide))

theorem Within.hub_contexts {fp : List Part} {s0 s : State} (hk : Within fp s0 s)
    (hm : Covers [.hub, .contexts] fp) (v0 v1) :
    Within fp s0 { s with hub := v0, contexts := v1 } := by
  refine hk.set (fun p => ?_) id
  cases p <;> first | exact .inr rfl | exact .inl (hm _ (by decide))

theorem Within.hub_bureau {fp : List Part} {s0 s : State} (hk : Within fp s0 s)
    (hm : Covers [.hub, .bureau] fp) (v0 v1) :
    Within fp s0 { s with hub := v0, bureau := v1 } := by
  refine hk.set (fun p => ?_) id
  cases p <;> first | exact .inr rfl | exact .inl (hm _ (by decide))

theorem Within.hub_mgmt {fp : List Part} {s0 s : State} (hk : Within fp s0 s)
    (hm : Covers [.hub, .mgmt] fp) (v0 v1) :
    Within fp s0 { s with hub := v0, mgmt := v1 } := by
  refine hk.set (fun p => ?_) id
  cases p <;> first | exact .inr rfl | exact .inl (hm _ (by decide))

theorem Within.contexts_sched {fp : List Part} {s0 s : State} (hk : Within fp s0 s)
    (hm : Covers [.contexts, .sched] fp) (v0 v1) :
    Within fp s0 { s with contexts := v0, sched := v1 } := by
  refine hk.set (fun p => ?_) id
  cases p <;> first | exact .inr rfl | exact .inl (hm _ (by decide))

theorem Within.contexts_watch {fp : List Part} {s0 s : State} (hk : Within fp s0 s)
    (hm : Covers [.contexts, .watch] fp) (v0 v1) :
    Within fp s0 { s with contexts := v0, watch := v1 } := by
  refine hk.set (fun p => ?_) id
  cases p <;> first | exact .inr rfl | exact .inl (hm _ (by decide))

theorem Within.objects_graphs {fp : List Part} {s0 s : State} (hk : Within fp s0 s)
    (hm : Covers [.objects, .graphs] fp) (v0 v1) :
    Within fp s0 { s with objects := v0, graphs := v1 } := by
  refine hk.set (fun p => ?_) id
  cases p <;> first | exact .inr rfl | exact .inl (hm _ (by decide))

theorem Within.bramble_mgmt {fp : List Part} {s0 s : State} (hk : Within fp s0 s)
    (hm : Covers [.bramble, .mgmt] fp) (v0 v1) :
    Within fp s0 { s with bramble := v0, mgmt := v1 } := by
  refine hk.set (fun p => ?_) id
  cases p <;> first | exact .inr rfl | exact .inl (hm _ (by decide))

theorem Within.sched_watch {fp : List Part} {s0 s : State} (hk : Within fp s0 s)
    (hm : Covers [.sched, .watch] fp) (v0 v1) :
    Within fp s0 { s with sched := v0, watch := v1 } := by
  refine hk.set (fun p => ?_) id
  cases p <;> first | exact .inr rfl | exact .inl (hm _ (by decide))

theorem Within.bureau_hutch {fp : List Part} {s0 s : State} (hk : Within fp s0 s)
    (hm : Covers [.bureau, .hutch] fp) (v0 v1) :
    Within fp s0 { s with bureau := v0, hutch := v1 } := by
  refine hk.set (fun p => ?_) id
  cases p <;> first | exact .inr rfl | exact .inl (hm _ (by decide))

theorem Within.watch_hutch {fp : List Part} {s0 s : State} (hk : Within fp s0 s)
    (hm : Covers [.watch, .hutch] fp) (v0 v1) :
    Within fp s0 { s with watch := v0, hutch := v1 } := by
  refine hk.set (fun p => ?_) id
  cases p <;> first | exact .inr rfl | exact .inl (hm _ (by decide))

theorem Within.hutch_mgmt {fp : List Part} {s0 s : State} (hk : Within fp s0 s)
    (hm : Covers [.hutch, .mgmt] fp) (v0 v1) :
    Within fp s0 { s with hutch := v0, mgmt := v1 } := by
  refine hk.set (fun p => ?_) id
  cases p <;> first | exact .inr rfl | exact .inl (hm _ (by decide))

theorem Within.time_port_watch {fp : List Part} {s0 s : State} (hk : Within fp s0 s)
    (hm : Covers [.time, .port, .watch] fp) (v0 v1 v2) :
    Within fp s0 { s with time := v0, port := v1, watch := v2 } := by
  refine hk.set (fun p => ?_) id
  cases p <;> first | exact .inr rfl | exact .inl (hm _ (by decide))

theorem Within.contexts_front_sched {fp : List Part} {s0 s : State} (hk : Within fp s0 s)
    (hm : Covers [.contexts, .front, .sched] fp) (v0 v1 v2) :
    Within fp s0 { s with contexts := v0, front := v1, sched := v2 } := by
  refine hk.set (fun p => ?_) id
  cases p <;> first | exact .inr rfl | exact .inl (hm _ (by decide))

theorem Within.contexts_sched_wrd {fp : List Part} {s0 s : State} (hk : Within fp s0 s)
    (hm : Covers [.contexts, .sched, .wrd] fp) (v0 v1 v2) :
    Within fp s0 { s with contexts := v0, sched := v1, wrd := v2 } := by
  refine hk.set (fun p => ?_) id
  cases p <;> first | exact .inr rfl | exact .inl (hm _ (by decide))

theorem Within.sched_wrd_power {fp : List Part} {s0 s : State} (hk : Within fp s0 s)
    (hm : Covers [.sched, .wrd, .power] fp) (v0 v1 v2) :
    Within fp s0 { s with sched := v0, wrd := v1, power := v2 } := by
  refine hk.set (fun p => ?_) id
  cases p <;> first | exact .inr rfl | exact .inl (hm _ (by decide))

theorem Within.wrd_watch_hutch {fp : List Part} {s0 s : State} (hk : Within fp s0 s)
    (hm : Covers [.wrd, .watch, .hutch] fp) (v0 v1 v2) :
    Within fp s0 { s with wrd := v0, watch := v1, hutch := v2 } := by
  refine hk.set (fun p => ?_) id
  cases p <;> first | exact .inr rfl | exact .inl (hm _ (by decide))

theorem Within.front_slices_wrd_watch_mgmt {fp : List Part} {s0 s : State} (hk : Within fp s0 s)
    (hm : Covers [.front, .slices, .wrd, .watch, .mgmt] fp) (v0 v1 v2 v3 v4) :
    Within fp s0 { s with front := v0, slices := v1, wrd := v2, watch := v3, mgmt := v4 } := by
  refine hk.set (fun p => ?_) id
  cases p <;> first | exact .inr rfl | exact .inl (hm _ (by decide))

theorem Within.objects_graphs_front_bramble_slices_trestle_sched_wrd_chest_watch_jnl_sta_mgmt_power_link {fp : List Part} {s0 s : State} (hk : Within fp s0 s)
    (hm : Covers [.objects, .graphs, .front, .bramble, .slices, .trestle, .sched, .wrd, .chest, .watch, .jnl, .sta, .mgmt, .power, .link] fp) (v0 v1 v2 v3 v4 v5 v6 v7 v8 v9 v10 v11 v12 v13 v14) :
    Within fp s0 { s with objects := v0, graphs := v1, front := v2, bramble := v3, slices := v4, trestle := v5, sched := v6, wrd := v7, chest := v8, watch := v9, jnl := v10, sta := v11, mgmt := v12, power := v13, link := v14 } := by
  refine hk.set (fun p => ?_) id
  cases p <;> first | exact .inr rfl | exact .inl (hm _ (by decide))

end Sys2Proof.Machine
end

