-- ==== Sys2Proof/Laws/WithinOps.lean ====
section
/-! SUPPORT. What the shared operations may change. -/

set_option Elab.async false
set_option linter.unusedTactic false
set_option linter.unreachableTactic false

namespace Sys2Proof.Machine

theorem trace_within {fp : List Part} {s0 s : State} (point tag ctx queue arg : Nat) (hk : Within fp s0 s)
    (hm : Covers [.jnl] fp :=
      by exact Covers.sub ‹Covers _ _› (by decide)) :
    Within fp s0 (trace point tag ctx queue arg s) := by
  unfold trace; try dsimp only
  repeat' (with_reducible first
    | exact hk | exact hm.sub (by decide) | (fail_if_no_progress refine Within.jnl ?_ (hm.sub (by decide)) _)
    | (refine Within.ite (fun _ => ?_) (fun _ => ?_)) | split)

theorem State.modChest_within {fp : List Part} {s0 s : State} (f : Chest → Chest) (hk : Within fp s0 s)
    (hm : Covers [.chest] fp :=
      by exact Covers.sub ‹Covers _ _› (by decide)) :
    Within fp s0 (State.modChest s f) := by
  unfold State.modChest; try dsimp only
  repeat' (with_reducible first
    | exact hk | exact hm.sub (by decide) | (fail_if_no_progress refine Within.chest ?_ (hm.sub (by decide)) _)
    | (refine Within.ite (fun _ => ?_) (fun _ => ?_)) | split)

theorem modCells_within {fp : List Part} {s0 s : State} (cls queue : Nat) (f : CellQueue → CellQueue)
    (hk : Within fp s0 s)
    (hm : Covers [.chest] fp :=
      by exact Covers.sub ‹Covers _ _› (by decide)) :
    Within fp s0 (modCells cls queue f s) := by
  unfold modCells; try dsimp only
  repeat' (with_reducible first
    | exact hk | exact hm.sub (by decide) | (refine Within.ite (fun _ => ?_) (fun _ => ?_)) | split
    | apply State.modChest_within)

theorem modUsed_within {fp : List Part} {s0 s : State} (cls : Nat) (f : Nat → Nat) (hk : Within fp s0 s)
    (hm : Covers [.chest] fp :=
      by exact Covers.sub ‹Covers _ _› (by decide)) :
    Within fp s0 (modUsed cls f s) := by
  unfold modUsed; try dsimp only
  repeat' (with_reducible first
    | exact hk | exact hm.sub (by decide) | (refine Within.ite (fun _ => ?_) (fun _ => ?_)) | split
    | apply State.modChest_within)

theorem evalLevels_within {fp : List Part} {s0 s : State} (hk : Within fp s0 s)
    (hm : Covers [.chest] fp :=
      by exact Covers.sub ‹Covers _ _› (by decide)) :
    Within fp s0 (evalLevels s) := by
  unfold evalLevels; try dsimp only
  repeat' (with_reducible first
    | exact hk | exact hm.sub (by decide) | (refine Within.ite (fun _ => ?_) (fun _ => ?_)) | split
    | apply State.modChest_within)

theorem evalChest_within {fp : List Part} {s0 s : State} (hk : Within fp s0 s)
    (hm : Covers [.chest, .jnl] fp :=
      by exact Covers.sub ‹Covers _ _› (by decide)) :
    Within fp s0 (evalChest s) := by
  unfold evalChest; try dsimp only
  repeat' (with_reducible first
    | exact hk | exact hm.sub (by decide) | (refine Within.ite (fun _ => ?_) (fun _ => ?_)) | split | assumption
    | apply Within.foldl | intro _ _ _ | apply evalLevels_within | apply trace_within)

theorem linkPacket_within {fp : List Part} {s0 s : State} (r : CellReq) (cells : List Nat) (hk : Within fp s0 s)
    (hm : Covers [.chest] fp :=
      by exact Covers.sub ‹Covers _ _› (by decide)) :
    Within fp s0 (linkPacket r cells s) := by
  unfold linkPacket; try dsimp only
  repeat' (with_reducible first
    | exact hk | exact hm.sub (by decide) | (refine Within.ite (fun _ => ?_) (fun _ => ?_)) | split
    | apply State.modChest_within | apply modCells_within | apply modUsed_within)

theorem linkWhole_within {fp : List Part} {s0 s : State} (r : CellReq) (hk : Within fp s0 s)
    (hm : Covers [.chest] fp :=
      by exact Covers.sub ‹Covers _ _› (by decide)) :
    WithinO fp s0 (linkWhole r s) := by
  unfold linkWhole; try dsimp only
  repeat' (with_reducible first
    | exact hk | exact hm.sub (by decide) | (refine Within.ite (fun _ => ?_) (fun _ => ?_)) | split
    | apply linkPacket_within | exact WithinO.none | (refine WithinO.some ?_)
    | (refine WithinO.map ?_ (fun _ _ => ?_)) | assumption)

theorem relink_within {fp : List Part} {s0 s : State} (cls queue : Nat) (r : CellReq) (hk : Within fp s0 s)
    (hm : Covers [.chest] fp :=
      by exact Covers.sub ‹Covers _ _› (by decide)) :
    Within fp s0 (relink cls queue r s) := by
  unfold relink; try dsimp only
  repeat' (with_reducible first
    | exact hk | exact hm.sub (by decide) | (refine Within.ite (fun _ => ?_) (fun _ => ?_)) | split
    | apply State.modChest_within | apply modCells_within | apply modUsed_within)

theorem serveReq_within {fp : List Part} {s0 s : State} (r : CellReq) (hk : Within fp s0 s)
    (hm : Covers [.chest] fp :=
      by exact Covers.sub ‹Covers _ _› (by decide)) :
    WithinO fp s0 (serveReq r s) := by
  unfold serveReq; try dsimp only
  repeat' (with_reducible first
    | exact hk | exact hm.sub (by decide) | (refine Within.ite (fun _ => ?_) (fun _ => ?_)) | split
    | (refine linkWhole_within _ ?_) | (refine WithinO.of ‹linkWhole _ _ = some _› (linkWhole_within _ ?_))
    | (refine Within.getD _ ?_ (linkWhole_within _ ?_)) | apply relink_within | exact WithinO.none
    | (refine WithinO.some ?_) | (refine WithinO.map ?_ (fun _ _ => ?_)) | assumption)

theorem grantNow_within {fp : List Part} {s0 s : State} (r : CellReq) (hk : Within fp s0 s)
    (hm : Covers [.chest] fp :=
      by exact Covers.sub ‹Covers _ _› (by decide)) :
    WithinO fp s0 (grantNow r s) := by
  unfold grantNow; try dsimp only
  repeat' (with_reducible first
    | exact hk | exact hm.sub (by decide) | (refine Within.ite (fun _ => ?_) (fun _ => ?_)) | split
    | (refine serveReq_within _ ?_) | (refine WithinO.of ‹serveReq _ _ = some _› (serveReq_within _ ?_))
    | (refine Within.getD _ ?_ (serveReq_within _ ?_)) | exact WithinO.none | (refine WithinO.some ?_)
    | (refine WithinO.map ?_ (fun _ _ => ?_)) | assumption)

theorem grantWaiting_within {fp : List Part} {s0 : State} (n : Nat) {s : State} (hk : Within fp s0 s)
    (hm : Covers [.chest] fp :=
      by exact Covers.sub ‹Covers _ _› (by decide)) : Within fp s0 (grantWaiting n s) := by
  induction n generalizing s with
  | zero => exact hk
  | succ n ih =>
    simp only [grantWaiting]
    split
    · exact hk
    · split
      · exact hk
      · next e => exact ih (WithinO.of e (serveReq_within _ (State.modChest_within _ hk)))

theorem settleChest_within {fp : List Part} {s0 s : State} (hk : Within fp s0 s)
    (hm : Covers [.chest, .jnl] fp :=
      by exact Covers.sub ‹Covers _ _› (by decide)) :
    Within fp s0 (settleChest s) := by
  unfold settleChest; try dsimp only
  repeat' (with_reducible first
    | exact hk | exact hm.sub (by decide) | (refine Within.ite (fun _ => ?_) (fun _ => ?_)) | split
    | apply evalChest_within | apply grantWaiting_within)

theorem takeCells_within {fp : List Part} {s0 s : State} (r : CellReq) (hk : Within fp s0 s)
    (hm : Covers [.chest, .jnl] fp :=
      by exact Covers.sub ‹Covers _ _› (by decide)) :
    WithinO fp s0 (takeCells r s) := by
  unfold takeCells; try dsimp only
  repeat' (with_reducible first
    | exact hk | exact hm.sub (by decide) | (refine Within.ite (fun _ => ?_) (fun _ => ?_)) | split
    | apply evalChest_within | (refine grantNow_within _ ?_)
    | (refine WithinO.of ‹grantNow _ _ = some _› (grantNow_within _ ?_))
    | (refine Within.getD _ ?_ (grantNow_within _ ?_)) | apply modCells_within | apply settleChest_within
    | exact WithinO.none | (refine WithinO.some ?_) | (refine WithinO.map ?_ (fun _ _ => ?_)) | assumption)

theorem takeOrWait_within {fp : List Part} {s0 s : State} (r : CellReq) (hk : Within fp s0 s)
    (hm : Covers [.chest, .jnl] fp :=
      by exact Covers.sub ‹Covers _ _› (by decide)) :
    Within fp s0 (takeOrWait r s) := by
  unfold takeOrWait; try dsimp only
  repeat' (with_reducible first
    | exact hk | exact hm.sub (by decide) | (refine Within.ite (fun _ => ?_) (fun _ => ?_)) | split
    | apply State.modChest_within | (refine takeCells_within _ ?_)
    | (refine WithinO.of ‹takeCells _ _ = some _› (takeCells_within _ ?_))
    | (refine Within.getD _ ?_ (takeCells_within _ ?_)) | exact WithinO.none | (refine WithinO.some ?_)
    | (refine WithinO.map ?_ (fun _ _ => ?_)) | assumption)

theorem askCells_within {fp : List Part} {s0 s : State} (r : CellReq) (hk : Within fp s0 s)
    (hm : Covers [.chest, .jnl] fp :=
      by exact Covers.sub ‹Covers _ _› (by decide)) :
    Within fp s0 (askCells r s).2 := by
  unfold askCells; try dsimp only
  repeat' (with_reducible first
    | exact hk | exact hm.sub (by decide) | (refine Within.ite (fun _ => ?_) (fun _ => ?_)) | split
    | apply State.modChest_within | (refine takeCells_within _ ?_)
    | (refine WithinO.of ‹takeCells _ _ = some _› (takeCells_within _ ?_))
    | (refine Within.getD _ ?_ (takeCells_within _ ?_)) | exact WithinO.none | (refine WithinO.some ?_)
    | (refine WithinO.map ?_ (fun _ _ => ?_)) | assumption)

theorem takeSkid_within {fp : List Part} {s0 s : State} (r : CellReq) (hk : Within fp s0 s)
    (hm : Covers [.chest, .jnl] fp :=
      by exact Covers.sub ‹Covers _ _› (by decide)) :
    WithinO fp s0 (takeSkid r s) := by
  unfold takeSkid
  split
  · next e => exact WithinO.some (WithinO.of e (takeCells_within _ hk))
  · split
    · exact WithinO.map (linkWhole_within _ hk) (fun _ h => evalChest_within h)
    · exact WithinO.none

theorem fillItem_within {fp : List Part} {s0 s : State} (cls queue item : Nat) (bs : List Byte)
    (hk : Within fp s0 s)
    (hm : Covers [.chest] fp :=
      by exact Covers.sub ‹Covers _ _› (by decide)) :
    Within fp s0 (fillItem cls queue item bs s) := by
  unfold fillItem; try dsimp only
  repeat' (with_reducible first
    | exact hk | exact hm.sub (by decide) | (refine Within.ite (fun _ => ?_) (fun _ => ?_)) | split
    | apply modCells_within)

theorem freeCells_within {fp : List Part} {s0 s : State} (cls queue : Nat) (gone : Cell → Bool)
    (hk : Within fp s0 s)
    (hm : Covers [.chest, .jnl] fp :=
      by exact Covers.sub ‹Covers _ _› (by decide)) :
    Within fp s0 (freeCells cls queue gone s) := by
  unfold freeCells; try dsimp only
  repeat' (with_reducible first
    | exact hk | exact hm.sub (by decide) | (refine Within.ite (fun _ => ?_) (fun _ => ?_)) | split
    | apply modCells_within | apply modUsed_within | apply settleChest_within)

theorem discardFrom_within {fp : List Part} {s0 s : State} (cls queue : Nat) (gone : Cell → Bool)
    (hk : Within fp s0 s)
    (hm : Covers [.chest, .jnl] fp :=
      by exact Covers.sub ‹Covers _ _› (by decide)) :
    Within fp s0 (discardFrom cls queue gone s) := by
  unfold discardFrom; try dsimp only
  repeat' (with_reducible first
    | exact hk | exact hm.sub (by decide) | (refine Within.ite (fun _ => ?_) (fun _ => ?_)) | split
    | apply freeCells_within)

theorem dropRequests_within {fp : List Part} {s0 s : State} (cls queue : Nat) (gone : CellReq → Bool)
    (hk : Within fp s0 s)
    (hm : Covers [.chest] fp :=
      by exact Covers.sub ‹Covers _ _› (by decide)) :
    Within fp s0 (dropRequests cls queue gone s) := by
  unfold dropRequests; try dsimp only
  repeat' (with_reducible first
    | exact hk | exact hm.sub (by decide) | (refine Within.ite (fun _ => ?_) (fun _ => ?_)) | split
    | apply State.modChest_within)

theorem dropItem_within {fp : List Part} {s0 s : State} (cls queue item : Nat) (hk : Within fp s0 s)
    (hm : Covers [.chest, .jnl] fp :=
      by exact Covers.sub ‹Covers _ _› (by decide)) :
    Within fp s0 (dropItem cls queue item s) := by
  unfold dropItem; try dsimp only
  repeat' (with_reducible first
    | exact hk | exact hm.sub (by decide) | (refine Within.ite (fun _ => ?_) (fun _ => ?_)) | split
    | apply discardFrom_within | apply dropRequests_within)

theorem consumeItem_within {fp : List Part} {s0 s : State} (cls queue item : Nat) (hk : Within fp s0 s)
    (hm : Covers [.chest, .jnl] fp :=
      by exact Covers.sub ‹Covers _ _› (by decide)) :
    Within fp s0 (consumeItem cls queue item s) := by
  unfold consumeItem; try dsimp only
  repeat' (with_reducible first
    | exact hk | exact hm.sub (by decide) | (refine Within.ite (fun _ => ?_) (fun _ => ?_)) | split
    | apply discardFrom_within | apply dropRequests_within | apply modCells_within)

theorem dropQueue_within {fp : List Part} {s0 s : State} (cls queue : Nat) (hk : Within fp s0 s)
    (hm : Covers [.chest, .jnl] fp :=
      by exact Covers.sub ‹Covers _ _› (by decide)) :
    Within fp s0 (dropQueue cls queue s) := by
  unfold dropQueue; try dsimp only
  repeat' (with_reducible first
    | exact hk | exact hm.sub (by decide) | (refine Within.ite (fun _ => ?_) (fun _ => ?_)) | split
    | apply discardFrom_within | apply dropRequests_within | apply modCells_within)

theorem readMarked_within {fp : List Part} {s0 s : State} (cls queue : Nat) (hk : Within fp s0 s)
    (hm : Covers [.chest] fp :=
      by exact Covers.sub ‹Covers _ _› (by decide)) :
    Within fp s0 (readMarked cls queue s) := by
  unfold readMarked; try dsimp only
  repeat' (with_reducible first
    | exact hk | exact hm.sub (by decide) | (refine Within.ite (fun _ => ?_) (fun _ => ?_)) | split
    | apply modCells_within)

theorem rewindQueue_within {fp : List Part} {s0 s : State} (cls queue : Nat) (hk : Within fp s0 s)
    (hm : Covers [.chest] fp :=
      by exact Covers.sub ‹Covers _ _› (by decide)) :
    Within fp s0 (rewindQueue cls queue s) := by
  unfold rewindQueue; try dsimp only
  repeat' (with_reducible first
    | exact hk | exact hm.sub (by decide) | (refine Within.ite (fun _ => ?_) (fun _ => ?_)) | split
    | apply modCells_within)

theorem freeHead_within {fp : List Part} {s0 s : State} (cls queue k : Nat) (hk : Within fp s0 s)
    (hm : Covers [.chest, .jnl] fp :=
      by exact Covers.sub ‹Covers _ _› (by decide)) :
    Within fp s0 (freeHead cls queue k s) := by
  unfold freeHead; try dsimp only
  repeat' (with_reducible first
    | exact hk | exact hm.sub (by decide) | (refine Within.ite (fun _ => ?_) (fun _ => ?_)) | split
    | apply modCells_within | apply modUsed_within | apply settleChest_within)

theorem discardCells_within {fp : List Part} {s0 s : State} (cls queue : Nat) (hk : Within fp s0 s)
    (hm : Covers [.chest, .jnl] fp :=
      by exact Covers.sub ‹Covers _ _› (by decide)) :
    Within fp s0 (discardCells cls queue s) := by
  unfold discardCells; try dsimp only
  repeat' (with_reducible first
    | exact hk | exact hm.sub (by decide) | (refine Within.ite (fun _ => ?_) (fun _ => ?_)) | split
    | apply discardFrom_within | apply dropRequests_within)

theorem askMove_within {fp : List Part} {s0 s : State} (cls queue : Nat) (r : CellReq) (hk : Within fp s0 s)
    (hm : Covers [.chest, .jnl] fp :=
      by exact Covers.sub ‹Covers _ _› (by decide)) :
    Within fp s0 (askMove cls queue r s).2 := by
  unfold askMove; try dsimp only
  repeat' (with_reducible first
    | exact hk | exact hm.sub (by decide) | (refine Within.ite (fun _ => ?_) (fun _ => ?_)) | split
    | apply askCells_within | (refine Within.of_snd ‹askCells _ _ = _› (askCells_within _ ?_)))

theorem bar0Err_within {fp : List Part} {s0 s : State} (cause off : Nat) (hk : Within fp s0 s)
    (hm : Covers [.hub] fp :=
      by exact Covers.sub ‹Covers _ _› (by decide)) :
    Within fp s0 (bar0Err cause off s) := by
  unfold bar0Err; try dsimp only
  repeat' (with_reducible first
    | exact hk | exact hm.sub (by decide) | (fail_if_no_progress refine Within.hub ?_ (hm.sub (by decide)) _)
    | (refine Within.ite (fun _ => ?_) (fun _ => ?_)) | split)

theorem cmdIgnored_within {fp : List Part} {s0 s : State} (off : Nat) (hk : Within fp s0 s)
    (hm : Covers [.hub] fp :=
      by exact Covers.sub ‹Covers _ _› (by decide)) :
    Within fp s0 (cmdIgnored off s) := by
  unfold cmdIgnored; try dsimp only
  repeat' (with_reducible first
    | exact hk | exact hm.sub (by decide) | (refine Within.ite (fun _ => ?_) (fun _ => ?_)) | split
    | apply bar0Err_within)

theorem usageSend_within {fp : List Part} {s0 s : State} (u : Usage) (hk : Within fp s0 s)
    (hm : Covers [.hub] fp :=
      by exact Covers.sub ‹Covers _ _› (by decide)) :
    Within fp s0 (usageSend u s) := by
  unfold usageSend; try dsimp only
  repeat' (with_reducible first
    | exact hk | exact hm.sub (by decide) | (fail_if_no_progress refine Within.hub ?_ (hm.sub (by decide)) _)
    | (refine Within.ite (fun _ => ?_) (fun _ => ?_)) | split)

theorem modUse_within {fp : List Part} {s0 s : State} (c : Nat) (f : Use → Use) (hk : Within fp s0 s)
    (hm : Covers [.hub] fp :=
      by exact Covers.sub ‹Covers _ _› (by decide)) :
    Within fp s0 (modUse c f s) := by
  unfold modUse; try dsimp only
  repeat' (with_reducible first
    | exact hk | exact hm.sub (by decide) | (fail_if_no_progress refine Within.hub ?_ (hm.sub (by decide)) _)
    | (refine Within.ite (fun _ => ?_) (fun _ => ?_)) | split)

theorem aggBytes_within {fp : List Part} {s0 s : State} (t cls n : Nat) (hk : Within fp s0 s)
    (hm : Covers [.hub] fp :=
      by exact Covers.sub ‹Covers _ _› (by decide)) :
    Within fp s0 (aggBytes t cls n s) := by
  unfold aggBytes; try dsimp only
  repeat' (with_reducible first
    | exact hk | exact hm.sub (by decide) | (fail_if_no_progress refine Within.hub ?_ (hm.sub (by decide)) _)
    | (refine Within.ite (fun _ => ?_) (fun _ => ?_)) | split | apply usageSend_within)

theorem charge_within {fp : List Part} {s0 s : State} (c : Option Nat) (cls n : Nat) (hk : Within fp s0 s)
    (hm : Covers [.hub] fp :=
      by exact Covers.sub ‹Covers _ _› (by decide)) :
    Within fp s0 (charge c cls n s) := by
  unfold charge; try dsimp only
  repeat' (with_reducible first
    | exact hk | exact hm.sub (by decide) | (refine Within.ite (fun _ => ?_) (fun _ => ?_)) | split
    | apply aggBytes_within | apply modUse_within)

theorem flushBytes_within {fp : List Part} {s0 s : State} (t cls : Nat) (hk : Within fp s0 s)
    (hm : Covers [.hub] fp :=
      by exact Covers.sub ‹Covers _ _› (by decide)) :
    Within fp s0 (flushBytes t cls s) := by
  unfold flushBytes; try dsimp only
  repeat' (with_reducible first
    | exact hk | exact hm.sub (by decide) | (fail_if_no_progress refine Within.hub ?_ (hm.sub (by decide)) _)
    | (refine Within.ite (fun _ => ?_) (fun _ => ?_)) | split | apply usageSend_within)

theorem emit_within {fp : List Part} {s0 s : State} (o : PortOut) (hk : Within fp s0 s)
    (hm : Covers [.port] fp :=
      by exact Covers.sub ‹Covers _ _› (by decide)) :
    Within fp s0 (emit o s) := by
  unfold emit; try dsimp only
  repeat' (with_reducible first
    | exact hk | exact hm.sub (by decide) | (fail_if_no_progress refine Within.port ?_ (hm.sub (by decide)) _)
    | (refine Within.ite (fun _ => ?_) (fun _ => ?_)) | split)

theorem emitAll_within {fp : List Part} {s0 s : State} (os : List PortOut) (hk : Within fp s0 s)
    (hm : Covers [.port] fp :=
      by exact Covers.sub ‹Covers _ _› (by decide)) :
    Within fp s0 (emitAll os s) := by
  unfold emitAll; try dsimp only
  repeat' (with_reducible first
    | exact hk | exact hm.sub (by decide) | (fail_if_no_progress refine Within.port ?_ (hm.sub (by decide)) _)
    | (refine Within.ite (fun _ => ?_) (fun _ => ?_)) | split)

theorem readReq_within {fp : List Part} {s0 s : State} (key : Option Nat) (via : Via) (l : Loc) (n : Nat)
    (hk : Within fp s0 s)
    (hm : Covers [.port] fp :=
      by exact Covers.sub ‹Covers _ _› (by decide)) :
    Within fp s0 (readReq key via l n s) := by
  unfold readReq; try dsimp only
  repeat' (with_reducible first
    | exact hk | exact hm.sub (by decide) | (refine Within.ite (fun _ => ?_) (fun _ => ?_)) | split
    | apply emitAll_within)

theorem readBy_within {fp : List Part} {s0 s : State} (via : Via) (c : Option Nat) (l : Loc) (n : Nat)
    (hk : Within fp s0 s)
    (hm : Covers [.port, .hub] fp :=
      by exact Covers.sub ‹Covers _ _› (by decide)) :
    Within fp s0 (readBy via c l n s) := by
  unfold readBy; try dsimp only
  repeat' (with_reducible first
    | exact hk | exact hm.sub (by decide) | (refine Within.ite (fun _ => ?_) (fun _ => ?_)) | split
    | apply charge_within | apply readReq_within)

theorem readFor_within {fp : List Part} {s0 s : State} (c : Option Nat) (l : Loc) (n : Nat)
    (hk : Within fp s0 s)
    (hm : Covers [.port, .hub] fp :=
      by exact Covers.sub ‹Covers _ _› (by decide)) :
    Within fp s0 (readFor c l n s) := by
  unfold readFor; try dsimp only
  repeat' (with_reducible first
    | exact hk | exact hm.sub (by decide) | (refine Within.ite (fun _ => ?_) (fun _ => ?_)) | split
    | apply readBy_within)

theorem portWrite_within {fp : List Part} {s0 s : State} (key : Option Nat) (via : Via) (l : Loc)
    (bs : List Byte) (hk : Within fp s0 s)
    (hm : Covers [.port, .mem] fp :=
      by exact Covers.sub ‹Covers _ _› (by decide)) :
    Within fp s0 (portWrite key via l bs s) := by
  unfold portWrite; try dsimp only
  repeat' (with_reducible first
    | exact hk | exact hm.sub (by decide) | (refine Within.ite (fun _ => ?_) (fun _ => ?_)) | split
    | apply emitAll_within | apply memWrite_within)

theorem hostWrite_within {fp : List Part} {s0 s : State} (c : Option Nat) (l : Loc) (bs : List Byte)
    (hk : Within fp s0 s)
    (hm : Covers [.port, .mem, .hub] fp :=
      by exact Covers.sub ‹Covers _ _› (by decide)) :
    Within fp s0 (hostWrite c l bs s) := by
  unfold hostWrite; try dsimp only
  repeat' (with_reducible first
    | exact hk | exact hm.sub (by decide) | (refine Within.ite (fun _ => ?_) (fun _ => ?_)) | split
    | apply charge_within | apply portWrite_within)

theorem writeBy_within {fp : List Part} {s0 s : State} (via : Via) (c : Option Nat) (l : Loc) (bs : List Byte)
    (hk : Within fp s0 s)
    (hm : Covers [.port, .mem, .hub] fp :=
      by exact Covers.sub ‹Covers _ _› (by decide)) :
    Within fp s0 (writeBy via c l bs s) := by
  unfold writeBy; try dsimp only
  repeat' (with_reducible first
    | exact hk | exact hm.sub (by decide) | (refine Within.ite (fun _ => ?_) (fun _ => ?_)) | split
    | apply charge_within | apply hostWrite_within | apply portWrite_within)

theorem locWrite_within {fp : List Part} {s0 s : State} (c : Option Nat) (l : Loc) (bs : List Byte)
    (hk : Within fp s0 s)
    (hm : Covers [.port, .mem, .hub] fp :=
      by exact Covers.sub ‹Covers _ _› (by decide)) :
    Within fp s0 (locWrite c l bs s) := by
  unfold locWrite; try dsimp only
  repeat' (with_reducible first
    | exact hk | exact hm.sub (by decide) | (refine Within.ite (fun _ => ?_) (fun _ => ?_)) | split
    | apply writeBy_within)

theorem msix_within {fp : List Part} {s0 s : State} (fn vector : Nat) (hk : Within fp s0 s)
    (hm : Covers [.port] fp :=
      by exact Covers.sub ‹Covers _ _› (by decide)) :
    Within fp s0 (msix fn vector s) := by
  unfold msix; try dsimp only
  repeat' (with_reducible first
    | exact hk | exact hm.sub (by decide) | (refine Within.ite (fun _ => ?_) (fun _ => ?_)) | split
    | apply emit_within)

theorem raiseEvent_within {fp : List Part} {s0 s : State} (e : Event) (hk : Within fp s0 s)
    (hm : Covers [.chest, .jnl] fp :=
      by exact Covers.sub ‹Covers _ _› (by decide)) :
    Within fp s0 (raiseEvent e s) := by
  unfold raiseEvent; try dsimp only
  repeat' (with_reducible first
    | exact hk | exact hm.sub (by decide) | (fail_if_no_progress refine Within.jnl ?_ (hm.sub (by decide)) _)
    | (refine Within.ite (fun _ => ?_) (fun _ => ?_)) | split | apply takeOrWait_within)

theorem spillWrite_within {fp : List Part} {s0 s : State} (off : Nat) (bs : List Byte) (hk : Within fp s0 s)
    (hm : Covers [.port, .mem] fp :=
      by exact Covers.sub ‹Covers _ _› (by decide)) :
    Within fp s0 (spillWrite off bs s) := by
  unfold spillWrite; try dsimp only
  repeat' (with_reducible first
    | exact hk | exact hm.sub (by decide) | (refine Within.ite (fun _ => ?_) (fun _ => ?_)) | split
    | apply portWrite_within)

theorem spillPut_within {fp : List Part} {s0 s : State} (r : List Byte) (hk : Within fp s0 s)
    (hm : Covers [.port, .mem, .hutch] fp :=
      by exact Covers.sub ‹Covers _ _› (by decide)) :
    Within fp s0 (spillPut s r) := by
  unfold spillPut; try dsimp only
  repeat' (with_reducible first
    | exact hk | exact hm.sub (by decide) | (fail_if_no_progress refine Within.hutch ?_ (hm.sub (by decide)) _)
    | (refine Within.ite (fun _ => ?_) (fun _ => ?_)) | split | apply spillWrite_within)

theorem hutchPush_within {fp : List Part} {s0 s : State} (r : List Byte) (hk : Within fp s0 s)
    (hm : Covers [.port, .mem, .hutch] fp :=
      by exact Covers.sub ‹Covers _ _› (by decide)) :
    Within fp s0 (hutchPush r s) := by
  unfold hutchPush; try dsimp only
  repeat' (with_reducible first
    | exact hk | exact hm.sub (by decide) | (fail_if_no_progress refine Within.hutch ?_ (hm.sub (by decide)) _)
    | (refine Within.ite (fun _ => ?_) (fun _ => ?_)) | split | assumption | apply Within.foldl | intro _ _ _
    | apply spillPut_within)

theorem hutchRec_within {fp : List Part} {s0 s : State} (typ : Nat) (h : RecHead) (payload : List Byte)
    (hk : Within fp s0 s)
    (hm : Covers [.port, .mem, .hutch] fp :=
      by exact Covers.sub ‹Covers _ _› (by decide)) :
    Within fp s0 (hutchRec typ h payload s) := by
  unfold hutchRec; try dsimp only
  repeat' (with_reducible first
    | exact hk | exact hm.sub (by decide) | (fail_if_no_progress refine Within.hutch ?_ (hm.sub (by decide)) _)
    | (refine Within.ite (fun _ => ?_) (fun _ => ?_)) | split | apply hutchPush_within)

theorem bump_within {fp : List Part} {s0 s : State} (e : Nat) (hk : Within fp s0 s)
    (hm : Covers [.watch] fp :=
      by exact Covers.sub ‹Covers _ _› (by decide)) :
    Within fp s0 (bump e s) := by
  unfold bump; try dsimp only
  repeat' (with_reducible first
    | exact hk | exact hm.sub (by decide) | (fail_if_no_progress refine Within.watch ?_ (hm.sub (by decide)) _)
    | (refine Within.ite (fun _ => ?_) (fun _ => ?_)) | split)

theorem State.modQueues_within {fp : List Part} {s0 s : State} (f : Tab Queue → Tab Queue) (hk : Within fp s0 s)
    (hm : Covers [.front] fp :=
      by exact Covers.sub ‹Covers _ _› (by decide)) :
    Within fp s0 (State.modQueues s f) := by
  unfold State.modQueues; try dsimp only
  repeat' (with_reducible first
    | exact hk | exact hm.sub (by decide) | (fail_if_no_progress refine Within.front ?_ (hm.sub (by decide)) _)
    | (refine Within.ite (fun _ => ?_) (fun _ => ?_)) | split)

theorem State.modQ_within {fp : List Part} {s0 s : State} (k : Nat) (f : Queue → Queue) (hk : Within fp s0 s)
    (hm : Covers [.front] fp :=
      by exact Covers.sub ‹Covers _ _› (by decide)) :
    Within fp s0 (State.modQ s k f) := by
  unfold State.modQ; try dsimp only
  repeat' (with_reducible first
    | exact hk | exact hm.sub (by decide) | (refine Within.ite (fun _ => ?_) (fun _ => ?_)) | split
    | apply State.modQueues_within)

theorem State.modC_within {fp : List Part} {s0 s : State} (k pos : Nat) (f : Cmd → Cmd) (hk : Within fp s0 s)
    (hm : Covers [.front] fp :=
      by exact Covers.sub ‹Covers _ _› (by decide)) :
    Within fp s0 (State.modC s k pos f) := by
  unfold State.modC; try dsimp only
  repeat' (with_reducible first
    | exact hk | exact hm.sub (by decide) | (refine Within.ite (fun _ => ?_) (fun _ => ?_)) | split
    | apply State.modQ_within)

theorem dropCmdCells_within {fp : List Part} {s0 s : State} (k pos op : Nat) (hk : Within fp s0 s)
    (hm : Covers [.chest, .jnl] fp :=
      by exact Covers.sub ‹Covers _ _› (by decide)) :
    Within fp s0 (dropCmdCells k pos op s) := by
  unfold dropCmdCells; try dsimp only
  repeat' (with_reducible first
    | exact hk | exact hm.sub (by decide) | (refine Within.ite (fun _ => ?_) (fun _ => ?_)) | split
    | apply dropItem_within)

theorem takeLatch_within {fp : List Part} {s0 s : State} (k pos : Nat) (st : Status) (aux : Nat)
    (hk : Within fp s0 s)
    (hm : Covers [.front, .chest, .jnl] fp :=
      by exact Covers.sub ‹Covers _ _› (by decide)) :
    Within fp s0 (takeLatch k pos st aux s) := by
  unfold takeLatch; try dsimp only
  repeat' (with_reducible first
    | exact hk | exact hm.sub (by decide) | (refine Within.ite (fun _ => ?_) (fun _ => ?_)) | split
    | apply State.modC_within | apply dropCmdCells_within)

theorem finish_within {fp : List Part} {s0 s : State} (k pos : Nat) (st : Status) (aux : Nat)
    (hk : Within fp s0 s)
    (hm : Covers [.front] fp :=
      by exact Covers.sub ‹Covers _ _› (by decide)) :
    Within fp s0 (finish k pos st aux s) := by
  unfold finish; try dsimp only
  repeat' (with_reducible first
    | exact hk | exact hm.sub (by decide) | (refine Within.ite (fun _ => ?_) (fun _ => ?_)) | split
    | apply State.modC_within)

theorem finishOk_within {fp : List Part} {s0 s : State} (k pos : Nat) (hk : Within fp s0 s)
    (hm : Covers [.front] fp :=
      by exact Covers.sub ‹Covers _ _› (by decide)) :
    Within fp s0 (finishOk k pos s) := by
  unfold finishOk; try dsimp only
  repeat' (with_reducible first
    | exact hk | exact hm.sub (by decide) | (refine Within.ite (fun _ => ?_) (fun _ => ?_)) | split
    | apply finish_within)

theorem addResult_within {fp : List Part} {s0 s : State} (k pos : Nat) (l : Loc) (bs : List Byte)
    (hk : Within fp s0 s)
    (hm : Covers [.front] fp :=
      by exact Covers.sub ‹Covers _ _› (by decide)) :
    Within fp s0 (addResult k pos l bs s) := by
  unfold addResult; try dsimp only
  repeat' (with_reducible first
    | exact hk | exact hm.sub (by decide) | (refine Within.ite (fun _ => ?_) (fun _ => ?_)) | split
    | apply State.modC_within)

theorem dropShadows_within {fp : List Part} {s0 s : State} (hk : Within fp s0 s)
    (hm : Covers [.bramble] fp :=
      by exact Covers.sub ‹Covers _ _› (by decide)) :
    Within fp s0 (dropShadows s) := by
  unfold dropShadows; try dsimp only
  repeat' (with_reducible first
    | exact hk | exact hm.sub (by decide) | (fail_if_no_progress refine Within.bramble ?_ (hm.sub (by decide)) _)
    | (refine Within.ite (fun _ => ?_) (fun _ => ?_)) | split)

theorem loadShadow_within {fp : List Part} {s0 s : State} (c : Option Nat) (l : Loc) (compact : Bool)
    (hk : Within fp s0 s)
    (hm : Covers [.port, .hub, .bramble] fp :=
      by exact Covers.sub ‹Covers _ _› (by decide)) :
    Within fp s0 (loadShadow c l compact s) := by
  unfold loadShadow; try dsimp only
  repeat' (with_reducible first
    | exact hk | exact hm.sub (by decide) | (fail_if_no_progress refine Within.bramble ?_ (hm.sub (by decide)) _)
    | (refine Within.ite (fun _ => ?_) (fun _ => ?_)) | split | apply readFor_within)

theorem fenceRise_within {fp : List Part} {s0 s : State} (c : Option Nat) (l : Loc) (compact : Bool) (v : Nat)
    (hk : Within fp s0 s)
    (hm : Covers [.port, .mem, .hub, .front, .bramble] fp :=
      by exact Covers.sub ‹Covers _ _› (by decide)) :
    Within fp s0 (fenceRise c l compact v s) := by
  unfold fenceRise; try dsimp only
  repeat' (with_reducible first
    | exact hk | exact hm.sub (by decide) | (fail_if_no_progress refine Within.bramble ?_ (hm.sub (by decide)) _)
    | (refine Within.ite (fun _ => ?_) (fun _ => ?_)) | split | apply State.modQueues_within
    | apply locWrite_within)

theorem signalFence_within {fp : List Part} {s0 s : State} (c tag : Nat) (r : FenceRef) (hk : Within fp s0 s)
    (hm : Covers [.port, .mem, .hub, .front, .bramble, .chest, .jnl] fp :=
      by exact Covers.sub ‹Covers _ _› (by decide)) :
    Within fp s0 (signalFence c tag r s) := by
  unfold signalFence; try dsimp only
  repeat' (with_reducible first
    | exact hk | exact hm.sub (by decide) | (refine Within.ite (fun _ => ?_) (fun _ => ?_)) | split
    | apply fenceRise_within | apply raiseEvent_within | apply trace_within)

theorem noteThrough_within {fp : List Part} {s0 s : State} (k pos tag : Nat) (hk : Within fp s0 s)
    (hm : Covers [.bramble] fp :=
      by exact Covers.sub ‹Covers _ _› (by decide)) :
    Within fp s0 (noteThrough k pos tag s) := by
  unfold noteThrough; try dsimp only
  repeat' (with_reducible first
    | exact hk | exact hm.sub (by decide) | (fail_if_no_progress refine Within.bramble ?_ (hm.sub (by decide)) _)
    | (refine Within.ite (fun _ => ?_) (fun _ => ?_)) | split)

theorem signalOut_within {fp : List Part} {s0 s : State} (c k pos tag : Nat) (r : FenceRef)
    (hk : Within fp s0 s)
    (hm : Covers [.port, .mem, .hub, .front, .bramble, .chest, .jnl] fp :=
      by exact Covers.sub ‹Covers _ _› (by decide)) :
    Within fp s0 (signalOut c k pos tag r s) := by
  unfold signalOut; try dsimp only
  repeat' (with_reducible first
    | exact hk | exact hm.sub (by decide) | (refine Within.ite (fun _ => ?_) (fun _ => ?_)) | split
    | apply noteThrough_within | apply signalFence_within)

theorem releaseOne_within {fp : List Part} {s0 s : State} (key : Nat) (hk : Within fp s0 s)
    (hm : Covers [.port, .mem, .hub, .objects, .front, .bramble, .chest, .jnl] fp :=
      by exact Covers.sub ‹Covers _ _› (by decide)) :
    Within fp s0 (releaseOne key s) := by
  unfold releaseOne; try dsimp only
  repeat' (with_reducible first
    | exact hk | exact hm.sub (by decide) | (fail_if_no_progress refine Within.objects ?_ (hm.sub (by decide)) _)
    | (refine Within.ite (fun _ => ?_) (fun _ => ?_)) | split | apply hostWrite_within | apply signalOut_within)

theorem releaseIfIdle_within {fp : List Part} {s0 s : State} (key : Nat) (hk : Within fp s0 s)
    (hm : Covers [.port, .mem, .hub, .objects, .front, .bramble, .chest, .jnl] fp :=
      by exact Covers.sub ‹Covers _ _› (by decide)) :
    Within fp s0 (releaseIfIdle key s) := by
  unfold releaseIfIdle; try dsimp only
  repeat' (with_reducible first
    | exact hk | exact hm.sub (by decide) | (refine Within.ite (fun _ => ?_) (fun _ => ?_)) | split
    | apply releaseOne_within)

theorem dropRefMem_within {fp : List Part} {s0 s : State} (key : Nat) (hk : Within fp s0 s)
    (hm : Covers [.port, .mem, .hub, .objects, .front, .bramble, .chest, .jnl] fp :=
      by exact Covers.sub ‹Covers _ _› (by decide)) :
    Within fp s0 (dropRefMem key s) := by
  unfold dropRefMem; try dsimp only
  repeat' (with_reducible first
    | exact hk | exact hm.sub (by decide) | (fail_if_no_progress refine Within.objects ?_ (hm.sub (by decide)) _)
    | (refine Within.ite (fun _ => ?_) (fun _ => ?_)) | split | apply releaseIfIdle_within)

theorem dropLines_within {fp : List Part} {s0 s : State} (g : Nat) (gone : Nat → Bool) (hk : Within fp s0 s)
    (hm : Covers [.slices] fp :=
      by exact Covers.sub ‹Covers _ _› (by decide)) :
    Within fp s0 (dropLines g gone s) := by
  unfold dropLines; try dsimp only
  repeat' (with_reducible first
    | exact hk | exact hm.sub (by decide) | (fail_if_no_progress refine Within.slices ?_ (hm.sub (by decide)) _)
    | (refine Within.ite (fun _ => ?_) (fun _ => ?_)) | split)

theorem freeVersions_within {fp : List Part} {s0 s : State} (key : Nat) (hk : Within fp s0 s)
    (hm : Covers [.port, .mem, .hub, .objects, .graphs, .front, .bramble, .slices, .chest, .jnl] fp :=
      by exact Covers.sub ‹Covers _ _› (by decide)) :
    Within fp s0 (freeVersions key s) := by
  unfold freeVersions; try dsimp only
  repeat' (with_reducible first
    | exact hk | exact hm.sub (by decide) | (fail_if_no_progress refine Within.graphs ?_ (hm.sub (by decide)) _)
    | (refine Within.ite (fun _ => ?_) (fun _ => ?_)) | split | assumption | apply Within.foldl | intro _ _ _
    | apply dropLines_within | apply dropRefMem_within)

theorem releaseObj_within {fp : List Part} {s0 s : State} (key : Nat) (hk : Within fp s0 s)
    (hm : Covers [.port, .mem, .hub, .objects, .graphs, .front, .bramble, .slices, .chest, .jnl] fp :=
      by exact Covers.sub ‹Covers _ _› (by decide)) :
    Within fp s0 (releaseObj key s) := by
  unfold releaseObj; try dsimp only
  repeat' (with_reducible first
    | exact hk | exact hm.sub (by decide) | (refine Within.ite (fun _ => ?_) (fun _ => ?_)) | split
    | apply freeVersions_within | apply releaseOne_within)

theorem unpin_within {fp : List Part} {s0 s : State} (key : Nat) (hk : Within fp s0 s)
    (hm : Covers [.port, .mem, .hub, .objects, .graphs, .front, .bramble, .slices, .chest, .jnl] fp :=
      by exact Covers.sub ‹Covers _ _› (by decide)) :
    Within fp s0 (unpin key s) := by
  unfold unpin; try dsimp only
  repeat' (with_reducible first
    | exact hk | exact hm.sub (by decide) | (fail_if_no_progress refine Within.objects ?_ (hm.sub (by decide)) _)
    | (refine Within.ite (fun _ => ?_) (fun _ => ?_)) | split | apply releaseObj_within)

theorem unref_within {fp : List Part} {s0 s : State} (key : Nat) (hk : Within fp s0 s)
    (hm : Covers [.port, .mem, .hub, .objects, .graphs, .front, .bramble, .slices, .chest, .jnl] fp :=
      by exact Covers.sub ‹Covers _ _› (by decide)) :
    Within fp s0 (unref key s) := by
  unfold unref; try dsimp only
  repeat' (with_reducible first
    | exact hk | exact hm.sub (by decide) | (fail_if_no_progress refine Within.objects ?_ (hm.sub (by decide)) _)
    | (refine Within.ite (fun _ => ?_) (fun _ => ?_)) | split | apply releaseObj_within)

theorem unpinAll_within {fp : List Part} {s0 s : State} (keys : List Nat) (hk : Within fp s0 s)
    (hm : Covers [.port, .mem, .hub, .objects, .graphs, .front, .bramble, .slices, .chest, .jnl] fp :=
      by exact Covers.sub ‹Covers _ _› (by decide)) :
    Within fp s0 (unpinAll keys s) := by
  unfold unpinAll; try dsimp only
  repeat' (with_reducible first
    | exact hk | exact hm.sub (by decide) | (refine Within.ite (fun _ => ?_) (fun _ => ?_)) | split | assumption
    | apply Within.foldl | intro _ _ _ | apply unpin_within)

theorem unrefAll_within {fp : List Part} {s0 s : State} (keys : List Nat) (hk : Within fp s0 s)
    (hm : Covers [.port, .mem, .hub, .objects, .graphs, .front, .bramble, .slices, .chest, .jnl] fp :=
      by exact Covers.sub ‹Covers _ _› (by decide)) :
    Within fp s0 (unrefAll keys s) := by
  unfold unrefAll; try dsimp only
  repeat' (with_reducible first
    | exact hk | exact hm.sub (by decide) | (refine Within.ite (fun _ => ?_) (fun _ => ?_)) | split | assumption
    | apply Within.foldl | intro _ _ _ | apply unref_within)

theorem pin_within {fp : List Part} {s0 s : State} (key : Nat) (hk : Within fp s0 s)
    (hm : Covers [.objects] fp :=
      by exact Covers.sub ‹Covers _ _› (by decide)) :
    Within fp s0 (pin key s) := by
  unfold pin; try dsimp only
  repeat' (with_reducible first
    | exact hk | exact hm.sub (by decide) | (fail_if_no_progress refine Within.objects ?_ (hm.sub (by decide)) _)
    | (refine Within.ite (fun _ => ?_) (fun _ => ?_)) | split)

theorem addRef_within {fp : List Part} {s0 s : State} (key : Nat) (hk : Within fp s0 s)
    (hm : Covers [.objects] fp :=
      by exact Covers.sub ‹Covers _ _› (by decide)) :
    Within fp s0 (addRef key s) := by
  unfold addRef; try dsimp only
  repeat' (with_reducible first
    | exact hk | exact hm.sub (by decide) | (fail_if_no_progress refine Within.objects ?_ (hm.sub (by decide)) _)
    | (refine Within.ite (fun _ => ?_) (fun _ => ?_)) | split)

theorem unbind_within {fp : List Part} {s0 s : State} (g ver : Nat) (hk : Within fp s0 s)
    (hm : Covers [.port, .mem, .hub, .objects, .graphs, .front, .bramble, .slices, .chest, .jnl] fp :=
      by exact Covers.sub ‹Covers _ _› (by decide)) :
    Within fp s0 (unbind g ver s) := by
  unfold unbind; try dsimp only
  repeat' (with_reducible first
    | exact hk | exact hm.sub (by decide) | (fail_if_no_progress refine Within.graphs ?_ (hm.sub (by decide)) _)
    | (refine Within.ite (fun _ => ?_) (fun _ => ?_)) | split | apply dropLines_within | apply dropRefMem_within)

theorem bindVer_within {fp : List Part} {s0 s : State} (g ver : Nat) (hk : Within fp s0 s)
    (hm : Covers [.graphs] fp :=
      by exact Covers.sub ‹Covers _ _› (by decide)) :
    Within fp s0 (bindVer g ver s) := by
  unfold bindVer; try dsimp only
  repeat' (with_reducible first
    | exact hk | exact hm.sub (by decide) | (fail_if_no_progress refine Within.graphs ?_ (hm.sub (by decide)) _)
    | (refine Within.ite (fun _ => ?_) (fun _ => ?_)) | split)

theorem journal_within {fp : List Part} {s0 s : State} (l typ tag step part items : Nat) (payload : List Byte)
    (hk : Within fp s0 s)
    (hm : Covers [.trestle, .chest, .jnl] fp :=
      by exact Covers.sub ‹Covers _ _› (by decide)) :
    Within fp s0 (journal l typ tag step part items payload s) := by
  unfold journal; try dsimp only
  repeat' (with_reducible first
    | exact hk | exact hm.sub (by decide) | (fail_if_no_progress refine Within.trestle ?_ (hm.sub (by decide)) _)
    | (refine Within.ite (fun _ => ?_) (fun _ => ?_)) | split | apply takeOrWait_within)

theorem journalItems_within {fp : List Part} {s0 s : State} (l typ tag step n : Nat) (items : List (List Byte))
    (hk : Within fp s0 s)
    (hm : Covers [.trestle, .chest, .jnl] fp :=
      by exact Covers.sub ‹Covers _ _› (by decide)) :
    Within fp s0 (journalItems l typ tag step n items s) := by
  unfold journalItems; try dsimp only
  repeat' (with_reducible first
    | exact hk | exact hm.sub (by decide) | (refine Within.ite (fun _ => ?_) (fun _ => ?_)) | split | assumption
    | apply Within.foldl | intro _ _ _ | apply journal_within)

theorem setFrame_within {fp : List Part} {s0 s : State} (f : Nat) (x : Frame) (hk : Within fp s0 s)
    (hm : Covers [.wrd] fp :=
      by exact Covers.sub ‹Covers _ _› (by decide)) :
    Within fp s0 (setFrame f x s) := by
  unfold setFrame; try dsimp only
  repeat' (with_reducible first
    | exact hk | exact hm.sub (by decide) | (fail_if_no_progress refine Within.wrd ?_ (hm.sub (by decide)) _)
    | (refine Within.ite (fun _ => ?_) (fun _ => ?_)) | split)

theorem freeFrame_within {fp : List Part} {s0 s : State} (f : Nat) (hk : Within fp s0 s)
    (hm : Covers [.wrd] fp :=
      by exact Covers.sub ‹Covers _ _› (by decide)) :
    Within fp s0 (freeFrame f s) := by
  unfold freeFrame; try dsimp only
  repeat' (with_reducible first
    | exact hk | exact hm.sub (by decide) | (fail_if_no_progress refine Within.wrd ?_ (hm.sub (by decide)) _)
    | (refine Within.ite (fun _ => ?_) (fun _ => ?_)) | split)

theorem freeFrames_within {fp : List Part} {s0 s : State} (fs : List Nat) (hk : Within fp s0 s)
    (hm : Covers [.wrd] fp :=
      by exact Covers.sub ‹Covers _ _› (by decide)) :
    Within fp s0 (freeFrames fs s) := by
  unfold freeFrames; try dsimp only
  repeat' (with_reducible first
    | exact hk | exact hm.sub (by decide) | (refine Within.ite (fun _ => ?_) (fun _ => ?_)) | split | assumption
    | apply Within.foldl | intro _ _ _ | apply freeFrame_within)

theorem hurry_within {fp : List Part} {s0 s : State} (kind : MoveKind) (work : Option Nat) (hk : Within fp s0 s)
    (hm : Covers [.wrd] fp :=
      by exact Covers.sub ‹Covers _ _› (by decide)) :
    Within fp s0 (hurry kind work s) := by
  unfold hurry; try dsimp only
  repeat' (with_reducible first
    | exact hk | exact hm.sub (by decide) | (fail_if_no_progress refine Within.wrd ?_ (hm.sub (by decide)) _)
    | (refine Within.ite (fun _ => ?_) (fun _ => ?_)) | split)

theorem startJob_within {fp : List Part} {s0 s : State} (kind : MoveKind) (total : Nat) (background : Bool)
    (who : Payer) (hk : Within fp s0 s)
    (hm : Covers [.wrd, .watch] fp :=
      by exact Covers.sub ‹Covers _ _› (by decide)) :
    Within fp s0 (startJob kind total background who s) := by
  unfold startJob; try dsimp only
  repeat' (with_reducible first
    | exact hk | exact hm.sub (by decide) | (fail_if_no_progress refine Within.wrd ?_ (hm.sub (by decide)) _)
    | (refine Within.ite (fun _ => ?_) (fun _ => ?_)) | split | apply bump_within | apply hurry_within)

theorem chargeJob_within {fp : List Part} {s0 s : State} (j : MoveJob) (cls n : Nat) (hk : Within fp s0 s)
    (hm : Covers [.hub] fp :=
      by exact Covers.sub ‹Covers _ _› (by decide)) :
    Within fp s0 (chargeJob j cls n s) := by
  unfold chargeJob; try dsimp only
  repeat' (with_reducible first
    | exact hk | exact hm.sub (by decide) | (refine Within.ite (fun _ => ?_) (fun _ => ?_)) | split
    | apply aggBytes_within | apply modUse_within)

theorem moverRead_within {fp : List Part} {s0 s : State} (j : MoveJob) (l : Loc) (n : Nat) (hk : Within fp s0 s)
    (hm : Covers [.port, .hub] fp :=
      by exact Covers.sub ‹Covers _ _› (by decide)) :
    Within fp s0 (moverRead j l n s) := by
  unfold moverRead; try dsimp only
  repeat' (with_reducible first
    | exact hk | exact hm.sub (by decide) | (refine Within.ite (fun _ => ?_) (fun _ => ?_)) | split
    | apply chargeJob_within | apply readReq_within)

theorem moverWrote_within {fp : List Part} {s0 s : State} (j : MoveJob) (l : Loc) (n : Nat)
    (hk : Within fp s0 s)
    (hm : Covers [.port, .hub] fp :=
      by exact Covers.sub ‹Covers _ _› (by decide)) :
    Within fp s0 (moverWrote j l n s) := by
  unfold moverWrote; try dsimp only
  repeat' (with_reducible first
    | exact hk | exact hm.sub (by decide) | (refine Within.ite (fun _ => ?_) (fun _ => ?_)) | split
    | apply chargeJob_within | apply emitAll_within)

theorem stopJobs_within {fp : List Part} {s0 s : State} (t : MoveKind → Bool) (hk : Within fp s0 s)
    (hm : Covers [.wrd] fp :=
      by exact Covers.sub ‹Covers _ _› (by decide)) :
    Within fp s0 (stopJobs t s) := by
  unfold stopJobs; try dsimp only
  repeat' (with_reducible first
    | exact hk | exact hm.sub (by decide) | (fail_if_no_progress refine Within.wrd ?_ (hm.sub (by decide)) _)
    | (refine Within.ite (fun _ => ?_) (fun _ => ?_)) | split)

theorem allocFrame_within {fp : List Part} {s0 s : State} (t : Option Nat) (f : Nat) (x : Frame)
    (hk : Within fp s0 s)
    (hm : Covers [.wrd, .watch] fp :=
      by exact Covers.sub ‹Covers _ _› (by decide)) :
    Within fp s0 (allocFrame t f x s) := by
  unfold allocFrame; try dsimp only
  repeat' (with_reducible first
    | exact hk | exact hm.sub (by decide) | (refine Within.ite (fun _ => ?_) (fun _ => ?_)) | split
    | apply setFrame_within | apply startJob_within)

theorem takeSave_within {fp : List Part} {s0 s : State} (t : Option Nat) (fs : List Nat) (hk : Within fp s0 s)
    (hm : Covers [.wrd, .watch] fp :=
      by exact Covers.sub ‹Covers _ _› (by decide)) :
    Within fp s0 (takeSave t fs s) := by
  unfold takeSave; try dsimp only
  repeat' (with_reducible first
    | exact hk | exact hm.sub (by decide) | (refine Within.ite (fun _ => ?_) (fun _ => ?_)) | split | assumption
    | apply Within.foldl | intro _ _ _ | apply allocFrame_within)

theorem State.modSeq_within {fp : List Part} {s0 s : State} (i : Nat) (f : Seq → Seq) (hk : Within fp s0 s)
    (hm : Covers [.trestle] fp :=
      by exact Covers.sub ‹Covers _ _› (by decide)) :
    Within fp s0 (State.modSeq s i f) := by
  unfold State.modSeq; try dsimp only
  repeat' (with_reducible first
    | exact hk | exact hm.sub (by decide) | (fail_if_no_progress refine Within.trestle ?_ (hm.sub (by decide)) _)
    | (refine Within.ite (fun _ => ?_) (fun _ => ?_)) | split)

theorem State.modLoop_within {fp : List Part} {s0 s : State} (l : Nat) (f : Loop → Loop) (hk : Within fp s0 s)
    (hm : Covers [.trestle] fp :=
      by exact Covers.sub ‹Covers _ _› (by decide)) :
    Within fp s0 (State.modLoop s l f) := by
  unfold State.modLoop; try dsimp only
  repeat' (with_reducible first
    | exact hk | exact hm.sub (by decide) | (fail_if_no_progress refine Within.trestle ?_ (hm.sub (by decide)) _)
    | (refine Within.ite (fun _ => ?_) (fun _ => ?_)) | split)

theorem addPage_within {fp : List Part} {s0 s : State} (i f : Nat) (leaf : Option Nat) (hk : Within fp s0 s)
    (hm : Covers [.trestle, .wrd] fp :=
      by exact Covers.sub ‹Covers _ _› (by decide)) :
    Within fp s0 (addPage i f leaf s) := by
  unfold addPage; try dsimp only
  repeat' (with_reducible first
    | exact hk | exact hm.sub (by decide) | (fail_if_no_progress refine Within.wrd ?_ (hm.sub (by decide)) _)
    | (refine Within.ite (fun _ => ?_) (fun _ => ?_)) | split | apply State.modSeq_within)

theorem dropHolder_within {fp : List Part} {s0 s : State} (f : Nat) (hk : Within fp s0 s)
    (hm : Covers [.wrd] fp :=
      by exact Covers.sub ‹Covers _ _› (by decide)) :
    Within fp s0 (dropHolder f s) := by
  unfold dropHolder; try dsimp only
  repeat' (with_reducible first
    | exact hk | exact hm.sub (by decide) | (refine Within.ite (fun _ => ?_) (fun _ => ?_)) | split
    | apply freeFrame_within | apply setFrame_within)

theorem dropLeaf_within {fp : List Part} {s0 s : State} (i : Nat) (hk : Within fp s0 s)
    (hm : Covers [.wrd] fp :=
      by exact Covers.sub ‹Covers _ _› (by decide)) :
    Within fp s0 (dropLeaf i s) := by
  unfold dropLeaf; try dsimp only
  repeat' (with_reducible first
    | exact hk | exact hm.sub (by decide) | (fail_if_no_progress refine Within.wrd ?_ (hm.sub (by decide)) _)
    | (refine Within.ite (fun _ => ?_) (fun _ => ?_)) | split)

theorem freePages_within {fp : List Part} {s0 s : State} (i : Nat) (hk : Within fp s0 s)
    (hm : Covers [.trestle, .wrd] fp :=
      by exact Covers.sub ‹Covers _ _› (by decide)) :
    Within fp s0 (freePages i s) := by
  unfold freePages; try dsimp only
  repeat' (with_reducible first
    | exact hk | exact hm.sub (by decide) | (refine Within.ite (fun _ => ?_) (fun _ => ?_)) | split | assumption
    | apply Within.foldl | intro _ _ _ | apply State.modSeq_within | apply dropHolder_within
    | apply dropLeaf_within)

theorem modEntry_within {fp : List Part} {s0 s : State} (f : Nat) (g : LeafEntry → LeafEntry)
    (hk : Within fp s0 s)
    (hm : Covers [.wrd] fp :=
      by exact Covers.sub ‹Covers _ _› (by decide)) :
    Within fp s0 (modEntry f g s) := by
  unfold modEntry; try dsimp only
  repeat' (with_reducible first
    | exact hk | exact hm.sub (by decide) | (fail_if_no_progress refine Within.wrd ?_ (hm.sub (by decide)) _)
    | (refine Within.ite (fun _ => ?_) (fun _ => ?_)) | split)

theorem movePage_within {fp : List Part} {s0 s : State} (src dst fmt : Nat) (demote early background : Bool)
    (ctx : Option Nat) (hk : Within fp s0 s)
    (hm : Covers [.wrd, .watch, .jnl] fp :=
      by exact Covers.sub ‹Covers _ _› (by decide)) :
    Within fp s0 (movePage src dst fmt demote early background ctx s) := by
  unfold movePage; try dsimp only
  repeat' (with_reducible first
    | exact hk | exact hm.sub (by decide) | (refine Within.ite (fun _ => ?_) (fun _ => ?_)) | split
    | apply freeFrame_within | apply modEntry_within | apply setFrame_within | apply startJob_within
    | apply trace_within)

theorem capacityEvent_within {fp : List Part} {s0 s : State} (phase : Nat) (m : Mapout) (hk : Within fp s0 s)
    (hm : Covers [.chest, .jnl] fp :=
      by exact Covers.sub ‹Covers _ _› (by decide)) :
    Within fp s0 (capacityEvent phase m s) := by
  unfold capacityEvent; try dsimp only
  repeat' (with_reducible first
    | exact hk | exact hm.sub (by decide) | (refine Within.ite (fun _ => ?_) (fun _ => ?_)) | split
    | apply raiseEvent_within)

theorem State.modSlice_within {fp : List Part} {s0 s : State} (p : Nat) (f : Slice → Slice)
    (hk : Within fp s0 s)
    (hm : Covers [.slices] fp :=
      by exact Covers.sub ‹Covers _ _› (by decide)) :
    Within fp s0 (State.modSlice s p f) := by
  unfold State.modSlice; try dsimp only
  repeat' (with_reducible first
    | exact hk | exact hm.sub (by decide) | (fail_if_no_progress refine Within.slices ?_ (hm.sub (by decide)) _)
    | (refine Within.ite (fun _ => ?_) (fun _ => ?_)) | split)

theorem State.modStream_within {fp : List Part} {s0 s : State} (p st : Nat) (f : Stream → Stream)
    (hk : Within fp s0 s)
    (hm : Covers [.slices] fp :=
      by exact Covers.sub ‹Covers _ _› (by decide)) :
    Within fp s0 (State.modStream s p st f) := by
  unfold State.modStream; try dsimp only
  repeat' (with_reducible first
    | exact hk | exact hm.sub (by decide) | (refine Within.ite (fun _ => ?_) (fun _ => ?_)) | split
    | apply State.modSlice_within)

theorem sendLaunch_within {fp : List Part} {s0 s : State} (base : Launch) (benches : List Nat)
    (hk : Within fp s0 s)
    (hm : Covers [.port, .slices, .chest, .jnl] fp :=
      by exact Covers.sub ‹Covers _ _› (by decide)) :
    Within fp s0 (sendLaunch base benches s) := by
  unfold sendLaunch; try dsimp only
  repeat' (with_reducible first
    | exact hk | exact hm.sub (by decide) | (refine Within.ite (fun _ => ?_) (fun _ => ?_)) | split | assumption
    | apply Within.foldl | intro _ _ _ | apply State.modStream_within | apply emit_within | apply takeOrWait_within
    | apply trace_within)

theorem requestStop_within {fp : List Part} {s0 s : State} (p st : Nat) (hk : Within fp s0 s)
    (hm : Covers [.port, .slices] fp :=
      by exact Covers.sub ‹Covers _ _› (by decide)) :
    Within fp s0 (requestStop p st s) := by
  unfold requestStop; try dsimp only
  repeat' (with_reducible first
    | exact hk | exact hm.sub (by decide) | (refine Within.ite (fun _ => ?_) (fun _ => ?_)) | split
    | apply State.modStream_within | apply emit_within)

theorem requestStops_within {fp : List Part} {s0 s : State} (l : List (Nat × Nat)) (hk : Within fp s0 s)
    (hm : Covers [.port, .slices] fp :=
      by exact Covers.sub ‹Covers _ _› (by decide)) :
    Within fp s0 (requestStops l s) := by
  unfold requestStops; try dsimp only
  repeat' (with_reducible first
    | exact hk | exact hm.sub (by decide) | (refine Within.ite (fun _ => ?_) (fun _ => ?_)) | split | assumption
    | apply Within.foldl | intro _ _ _ | apply requestStop_within)

theorem dropStreamCells_within {fp : List Part} {s0 s : State} (p st : Nat) (hk : Within fp s0 s)
    (hm : Covers [.chest, .jnl] fp :=
      by exact Covers.sub ‹Covers _ _› (by decide)) :
    Within fp s0 (dropStreamCells p st s) := by
  unfold dropStreamCells; try dsimp only
  repeat' (with_reducible first
    | exact hk | exact hm.sub (by decide) | (refine Within.ite (fun _ => ?_) (fun _ => ?_)) | split
    | apply dropQueue_within)

theorem State.modRes_within {fp : List Part} {s0 s : State} (r : Nat) (f : Residency → Residency)
    (hk : Within fp s0 s)
    (hm : Covers [.sched] fp :=
      by exact Covers.sub ‹Covers _ _› (by decide)) :
    Within fp s0 (State.modRes s r f) := by
  unfold State.modRes; try dsimp only
  repeat' (with_reducible first
    | exact hk | exact hm.sub (by decide) | (fail_if_no_progress refine Within.sched ?_ (hm.sub (by decide)) _)
    | (refine Within.ite (fun _ => ?_) (fun _ => ?_)) | split)

theorem keepRegs_within {fp : List Part} {s0 s : State} (p st : Nat) (hk : Within fp s0 s)
    (hm : Covers [.sched] fp :=
      by exact Covers.sub ‹Covers _ _› (by decide)) :
    Within fp s0 (keepRegs p st s) := by
  unfold keepRegs; try dsimp only
  repeat' (with_reducible first
    | exact hk | exact hm.sub (by decide) | (refine Within.ite (fun _ => ?_) (fun _ => ?_)) | split
    | apply State.modRes_within)

theorem releaseStream_within {fp : List Part} {s0 s : State} (p st : Nat) (hk : Within fp s0 s)
    (hm : Covers [.slices, .sched, .chest, .jnl, .link] fp :=
      by exact Covers.sub ‹Covers _ _› (by decide)) :
    Within fp s0 (releaseStream p st s) := by
  unfold releaseStream; try dsimp only
  repeat' (with_reducible first
    | exact hk | exact hm.sub (by decide) | (fail_if_no_progress refine Within.link ?_ (hm.sub (by decide)) _)
    | (refine Within.ite (fun _ => ?_) (fun _ => ?_)) | split | apply State.modStream_within
    | apply dropStreamCells_within | apply keepRegs_within)

theorem setBench_within {fp : List Part} {s0 s : State} (b : Nat) (x : Bench) (hk : Within fp s0 s)
    (hm : Covers [.hub, .sched] fp :=
      by exact Covers.sub ‹Covers _ _› (by decide)) :
    Within fp s0 (setBench b x s) := by
  unfold setBench; try dsimp only
  repeat' (with_reducible first
    | exact hk | exact hm.sub (by decide) | (fail_if_no_progress refine Within.sched ?_ (hm.sub (by decide)) _)
    | (refine Within.ite (fun _ => ?_) (fun _ => ?_)) | split | apply usageSend_within)

theorem setBenches_within {fp : List Part} {s0 s : State} (bs : List Nat) (f : Bench → Bench)
    (hk : Within fp s0 s)
    (hm : Covers [.hub, .sched] fp :=
      by exact Covers.sub ‹Covers _ _› (by decide)) :
    Within fp s0 (setBenches bs f s) := by
  unfold setBenches; try dsimp only
  repeat' (with_reducible first
    | exact hk | exact hm.sub (by decide) | (refine Within.ite (fun _ => ?_) (fun _ => ?_)) | split | assumption
    | apply Within.foldl | intro _ _ _ | apply setBench_within)

theorem updateGvt_within {fp : List Part} {s0 s : State} (hk : Within fp s0 s)
    (hm : Covers [.sched] fp :=
      by exact Covers.sub ‹Covers _ _› (by decide)) :
    Within fp s0 (updateGvt s) := by
  unfold updateGvt; try dsimp only
  repeat' (with_reducible first
    | exact hk | exact hm.sub (by decide) | (fail_if_no_progress refine Within.sched ?_ (hm.sub (by decide)) _)
    | (refine Within.ite (fun _ => ?_) (fun _ => ?_)) | split | assumption | apply Within.foldl | intro _ _ _)

theorem joinSet_within {fp : List Part} {s0 s : State} (c : Nat) (hk : Within fp s0 s)
    (hm : Covers [.sched] fp :=
      by exact Covers.sub ‹Covers _ _› (by decide)) :
    Within fp s0 (joinSet c s) := by
  unfold joinSet; try dsimp only
  repeat' (with_reducible first
    | exact hk | exact hm.sub (by decide) | (fail_if_no_progress refine Within.sched ?_ (hm.sub (by decide)) _)
    | (refine Within.ite (fun _ => ?_) (fun _ => ?_)) | split | apply updateGvt_within)

theorem chargeCycles_within {fp : List Part} {s0 s : State} (c k : Nat) (hk : Within fp s0 s)
    (hm : Covers [.hub, .sched] fp :=
      by exact Covers.sub ‹Covers _ _› (by decide)) :
    Within fp s0 (chargeCycles c k s) := by
  unfold chargeCycles; try dsimp only
  repeat' (with_reducible first
    | exact hk | exact hm.sub (by decide) | (fail_if_no_progress refine Within.sched ?_ (hm.sub (by decide)) _)
    | (refine Within.ite (fun _ => ?_) (fun _ => ?_)) | split | apply modUse_within | apply updateGvt_within
    | apply usageSend_within)

theorem withdrawClaims_within {fp : List Part} {s0 s : State} (id : Nat) (hk : Within fp s0 s)
    (hm : Covers [.hub, .sched] fp :=
      by exact Covers.sub ‹Covers _ _› (by decide)) :
    Within fp s0 (withdrawClaims id s) := by
  unfold withdrawClaims; try dsimp only
  repeat' (with_reducible first
    | exact hk | exact hm.sub (by decide) | (refine Within.ite (fun _ => ?_) (fun _ => ?_)) | split
    | apply setBenches_within)

theorem settleReady_within {fp : List Part} {s0 s : State} (hk : Within fp s0 s)
    (hm : Covers [.sched] fp :=
      by exact Covers.sub ‹Covers _ _› (by decide)) :
    Within fp s0 (settleReady s) := by
  unfold settleReady; try dsimp only
  repeat' (with_reducible first
    | exact hk | exact hm.sub (by decide) | (fail_if_no_progress refine Within.sched ?_ (hm.sub (by decide)) _)
    | (refine Within.ite (fun _ => ?_) (fun _ => ?_)) | split)

theorem dropJob_within {fp : List Part} {s0 s : State} (id : Nat) (hk : Within fp s0 s)
    (hm : Covers [.hub, .sched] fp :=
      by exact Covers.sub ‹Covers _ _› (by decide)) :
    Within fp s0 (dropJob id s) := by
  unfold dropJob; try dsimp only
  repeat' (with_reducible first
    | exact hk | exact hm.sub (by decide) | (fail_if_no_progress refine Within.sched ?_ (hm.sub (by decide)) _)
    | (refine Within.ite (fun _ => ?_) (fun _ => ?_)) | split | apply settleReady_within | apply updateGvt_within
    | apply withdrawClaims_within)

theorem launchGraph_within {fp : List Part} {s0 s : State} (k pos r : Nat) (hk : Within fp s0 s)
    (hm : Covers [.port, .slices, .sched, .chest, .jnl] fp :=
      by exact Covers.sub ‹Covers _ _› (by decide)) :
    Within fp s0 (launchGraph k pos r s) := by
  unfold launchGraph; try dsimp only
  repeat' (with_reducible first
    | exact hk | exact hm.sub (by decide) | (refine Within.ite (fun _ => ?_) (fun _ => ?_)) | split
    | apply State.modRes_within | apply sendLaunch_within)

theorem journalPlace_within {fp : List Part} {s0 s : State} (o : Owner) (bs : List Nat) (hk : Within fp s0 s)
    (hm : Covers [.trestle, .chest, .jnl] fp :=
      by exact Covers.sub ‹Covers _ _› (by decide)) :
    Within fp s0 (journalPlace o bs s) := by
  unfold journalPlace; try dsimp only
  repeat' (with_reducible first
    | exact hk | exact hm.sub (by decide) | (refine Within.ite (fun _ => ?_) (fun _ => ?_)) | split | assumption
    | apply Within.foldl | intro _ _ _ | apply journal_within)

theorem State.modPower_within {fp : List Part} {s0 s : State} (f : Power → Power) (hk : Within fp s0 s)
    (hm : Covers [.power] fp :=
      by exact Covers.sub ‹Covers _ _› (by decide)) :
    Within fp s0 (State.modPower s f) := by
  unfold State.modPower; try dsimp only
  repeat' (with_reducible first
    | exact hk | exact hm.sub (by decide) | (fail_if_no_progress refine Within.power ?_ (hm.sub (by decide)) _)
    | (refine Within.ite (fun _ => ?_) (fun _ => ?_)) | split)

theorem State.modVf_within {fp : List Part} {s0 s : State} (p : Nat) (f : Vf → Vf) (hk : Within fp s0 s)
    (hm : Covers [.power] fp :=
      by exact Covers.sub ‹Covers _ _› (by decide)) :
    Within fp s0 (State.modVf s p f) := by
  unfold State.modVf; try dsimp only
  repeat' (with_reducible first
    | exact hk | exact hm.sub (by decide) | (refine Within.ite (fun _ => ?_) (fun _ => ?_)) | split
    | apply State.modPower_within)

theorem requestCode_within {fp : List Part} {s0 s : State} (p : Nat) (hk : Within fp s0 s)
    (hm : Covers [.port, .power] fp :=
      by exact Covers.sub ‹Covers _ _› (by decide)) :
    Within fp s0 (requestCode s p) := by
  unfold requestCode; try dsimp only
  repeat' (with_reducible first
    | exact hk | exact hm.sub (by decide) | (refine Within.ite (fun _ => ?_) (fun _ => ?_)) | split
    | apply State.modVf_within | apply emit_within)

theorem requestCodes_within {fp : List Part} {s0 s : State} (hk : Within fp s0 s)
    (hm : Covers [.port, .power] fp :=
      by exact Covers.sub ‹Covers _ _› (by decide)) :
    Within fp s0 (requestCodes s) := by
  unfold requestCodes; try dsimp only
  repeat' (with_reducible first
    | exact hk | exact hm.sub (by decide) | (refine Within.ite (fun _ => ?_) (fun _ => ?_)) | split | assumption
    | apply Within.foldl | intro _ _ _ | apply requestCode_within)

theorem requestParts_within {fp : List Part} {s0 s : State} (bs : List Nat) (hk : Within fp s0 s)
    (hm : Covers [.port, .power] fp :=
      by exact Covers.sub ‹Covers _ _› (by decide)) :
    Within fp s0 (requestParts bs s) := by
  unfold requestParts; try dsimp only
  repeat' (with_reducible first
    | exact hk | exact hm.sub (by decide) | (refine Within.ite (fun _ => ?_) (fun _ => ?_)) | split | assumption
    | apply Within.foldl | intro _ _ _ | apply requestCode_within)

theorem placeJob_within {fp : List Part} {s0 s : State} (id : Nat) (j : Job) (bs : List Nat)
    (hk : Within fp s0 s)
    (hm : Covers [.port, .hub, .slices, .trestle, .sched, .chest, .jnl, .power] fp :=
      by exact Covers.sub ‹Covers _ _› (by decide)) :
    Within fp s0 (placeJob id j bs s) := by
  unfold placeJob; try dsimp only
  repeat' (with_reducible first
    | exact hk | exact hm.sub (by decide) | (fail_if_no_progress refine Within.sched ?_ (hm.sub (by decide)) _)
    | (refine Within.ite (fun _ => ?_) (fun _ => ?_)) | split | apply State.modRes_within | apply dropJob_within
    | apply journalPlace_within | apply launchGraph_within | apply requestParts_within | apply setBenches_within
    | apply trace_within)

theorem countVacate_within {fp : List Part} {s0 s : State} (hk : Within fp s0 s)
    (hm : Covers [.sched] fp :=
      by exact Covers.sub ‹Covers _ _› (by decide)) :
    Within fp s0 (countVacate s) := by
  unfold countVacate; try dsimp only
  repeat' (with_reducible first
    | exact hk | exact hm.sub (by decide) | (fail_if_no_progress refine Within.sched ?_ (hm.sub (by decide)) _)
    | (refine Within.ite (fun _ => ?_) (fun _ => ?_)) | split)

theorem startClear_within {fp : List Part} {s0 s : State} (c : Nat) (bs : List Nat) (hk : Within fp s0 s)
    (hm : Covers [.port] fp :=
      by exact Covers.sub ‹Covers _ _› (by decide)) :
    Within fp s0 (startClear c bs s) := by
  unfold startClear; try dsimp only
  repeat' (with_reducible first
    | exact hk | exact hm.sub (by decide) | (refine Within.ite (fun _ => ?_) (fun _ => ?_)) | split
    | apply emitAll_within)

theorem releaseRes_within {fp : List Part} {s0 s : State} (r : Nat) (hk : Within fp s0 s)
    (hm : Covers [.port, .hub, .sched, .jnl, .power] fp :=
      by exact Covers.sub ‹Covers _ _› (by decide)) :
    Within fp s0 (releaseRes r s) := by
  unfold releaseRes; try dsimp only
  repeat' (with_reducible first
    | exact hk | exact hm.sub (by decide) | (fail_if_no_progress refine Within.sched ?_ (hm.sub (by decide)) _)
    | (refine Within.ite (fun _ => ?_) (fun _ => ?_)) | split | apply requestParts_within | apply setBenches_within
    | apply startClear_within | apply trace_within | apply updateGvt_within)

theorem saveInto_within {fp : List Part} {s0 s t : State} {fs : List Nat} (c : Nat) (benches : List Nat)
    (hk : Within fp s0 s) (h : saveInto c benches s = some (fs, t))
    (hm : Covers [.contexts, .wrd, .watch] fp :=
      by exact Covers.sub ‹Covers _ _› (by decide)) : Within fp s0 t := by
  unfold saveInto at h; dsimp only at h
  split at h
  · cases h
  · injection h with h; injection h with h1 h2
    subst h2
    refine Within.ite (fun _ => ?_) (fun _ => takeSave_within _ _ hk)
    exact Within.contexts (takeSave_within _ _ hk) (hm.sub (by decide)) _

theorem saveRes_within {fp : List Part} {s0 s : State} (r : Nat) (hk : Within fp s0 s)
    (hm : Covers [.hub, .contexts, .sched, .wrd, .watch, .jnl] fp :=
      by exact Covers.sub ‹Covers _ _› (by decide)) :
    WithinO fp s0 (saveRes r s) := by
  unfold saveRes
  split
  · exact WithinO.none
  · split
    · exact WithinO.none
    · next e =>
      exact WithinO.some (trace_within _ _ _ _ _ (countVacate_within (setBenches_within _ _ (State.modRes_within _ _
        (saveInto_within _ _ hk e)))))

theorem dropSave_within {fp : List Part} {s0 s : State} (x : Residency) (hk : Within fp s0 s)
    (hm : Covers [.wrd] fp :=
      by exact Covers.sub ‹Covers _ _› (by decide)) :
    Within fp s0 (dropSave x s) := by
  unfold dropSave; try dsimp only
  repeat' (with_reducible first
    | exact hk | exact hm.sub (by decide) | (refine Within.ite (fun _ => ?_) (fun _ => ?_)) | split
    | apply freeFrames_within)

theorem vacateRes_within {fp : List Part} {s0 s : State} (r : Nat) (hk : Within fp s0 s)
    (hm : Covers [.port, .hub, .contexts, .sched, .wrd, .watch, .jnl, .power] fp :=
      by exact Covers.sub ‹Covers _ _› (by decide)) :
    WithinO fp s0 (vacateRes r s) := by
  unfold vacateRes
  split
  · exact WithinO.none
  · split
    · exact saveRes_within _ hk
    · exact WithinO.some (releaseRes_within _ (countVacate_within hk))

/-- The state a pass over victims leaves, done or stopped. -/
def vacated : Except (Nat × State) State → State
  | .ok s => s
  | .error e => e.2

theorem vacateAll_within {fp : List Part} {s0 : State} (here : Option Nat) (l : List (Nat × Residency)) {s : State}
    (hk : Within fp s0 s)
    (hm : Covers [.port, .hub, .contexts, .sched, .wrd, .watch, .jnl, .power] fp :=
      by exact Covers.sub ‹Covers _ _› (by decide)) : Within fp s0 (vacated (vacateAll here l s)) := by
  induction l generalizing s with
  | nil => exact hk
  | cons v t ih =>
    simp only [vacateAll]
    split
    · split
      · next e => exact ih (WithinO.of e (vacateRes_within _ hk))
      · exact hk
    · exact ih hk

theorem claimTarget_within {fp : List Part} {s0 s : State} (id : Nat) (free : List Nat)
    (vs : List (Nat × Residency)) (hk : Within fp s0 s)
    (hm : Covers [.hub, .sched] fp :=
      by exact Covers.sub ‹Covers _ _› (by decide)) :
    Within fp s0 (claimTarget id free vs s) := by
  unfold claimTarget; try dsimp only
  repeat' (with_reducible first
    | exact hk | exact hm.sub (by decide) | (refine Within.ite (fun _ => ?_) (fun _ => ?_)) | split | assumption
    | apply Within.foldl | intro _ _ _ | apply setBenches_within)

theorem claimFor_within {fp : List Part} {s0 : State} (here : Option Nat) (id : Nat) (h : Job) (n : Nat)
    (skip : List Nat) {s : State} (hk : Within fp s0 s)
    (hm : Covers [.port, .hub, .contexts, .sched, .wrd, .watch, .jnl, .power] fp :=
      by exact Covers.sub ‹Covers _ _› (by decide)) : WithinO fp s0 (claimFor here id h n skip s) := by
  induction n generalizing skip s with
  | zero => exact WithinO.none
  | succ n ih =>
    simp only [claimFor]
    split
    · exact WithinO.none
    · next free vs _ =>
      have h1 := vacateAll_within here vs (claimTarget_within id free vs hk) (hm.sub (by decide))
      split
      · next e => rw [e] at h1; exact WithinO.some h1
      · next e => rw [e] at h1; exact ih _ (withdrawClaims_within _ h1)

theorem passJobs_within {fp : List Part} {s0 : State} (here : Option Nat) (js : List (Nat × Job)) (b : Bool)
    {s : State} (hk : Within fp s0 s)
    (hm : Covers [.port, .hub, .contexts, .slices, .trestle, .sched, .wrd, .chest, .watch, .jnl, .power] fp :=
      by exact Covers.sub ‹Covers _ _› (by decide)) : Within fp s0 (passJobs here js b s) := by
  induction js generalizing s b with
  | nil => exact hk
  | cons e t ih =>
    obtain ⟨id, j⟩ := e
    simp only [passJobs]
    split
    · exact ih _ (launchGraph_within _ _ _ (dropJob_within _ hk))
    · split
      · exact ih _ (placeJob_within _ _ _ hk)
      · repeat' (with_reducible first
          | exact hm.sub (by decide) | apply ih | exact hk | split
          | (refine WithinO.of ‹claimFor _ _ _ _ _ _ = some _› (claimFor_within _ _ _ _ _ ?_)))

theorem passAt_within {fp : List Part} {s0 s : State} (here : Option Nat) (hk : Within fp s0 s)
    (hm : Covers [.port, .hub, .contexts, .slices, .trestle, .sched, .wrd, .chest, .watch, .jnl, .power] fp :=
      by exact Covers.sub ‹Covers _ _› (by decide)) :
    Within fp s0 (passAt here s) := by
  unfold passAt; try dsimp only
  repeat' (with_reducible first
    | exact hk | exact hm.sub (by decide) | (refine Within.ite (fun _ => ?_) (fun _ => ?_)) | split | assumption
    | apply Within.foldl | intro _ _ _ | apply bump_within | apply passJobs_within | apply updateGvt_within
    | apply withdrawClaims_within)

theorem decisionPass_within {fp : List Part} {s0 s : State} (hk : Within fp s0 s)
    (hm : Covers [.port, .hub, .contexts, .slices, .trestle, .sched, .wrd, .chest, .watch, .jnl, .power] fp :=
      by exact Covers.sub ‹Covers _ _› (by decide)) :
    Within fp s0 (decisionPass s) := by
  unfold decisionPass; try dsimp only
  repeat' (with_reducible first
    | exact hk | exact hm.sub (by decide) | (refine Within.ite (fun _ => ?_) (fun _ => ?_)) | split
    | apply passAt_within)

theorem tryNext_within {fp : List Part} {s0 s : State} (r : Nat) (hk : Within fp s0 s)
    (hm : Covers [.port, .hub, .contexts, .sched, .wrd, .watch, .jnl, .power] fp :=
      by exact Covers.sub ‹Covers _ _› (by decide)) :
    Within fp s0 (tryNext r s) := by
  unfold tryNext; try dsimp only
  repeat' (with_reducible first
    | exact hk | exact hm.sub (by decide) | (refine Within.ite (fun _ => ?_) (fun _ => ?_)) | split
    | (refine claimFor_within _ _ _ _ _ ?_)
    | (refine WithinO.of ‹claimFor _ _ _ _ _ _ = some _› (claimFor_within _ _ _ _ _ ?_))
    | (refine Within.getD _ ?_ (claimFor_within _ _ _ _ _ ?_)) | apply withdrawClaims_within | exact WithinO.none
    | (refine WithinO.some ?_) | (refine WithinO.map ?_ (fun _ _ => ?_)) | assumption)

theorem dropJobs_within {fp : List Part} {s0 s : State} (t : Job → Bool) (hk : Within fp s0 s)
    (hm : Covers [.port, .hub, .contexts, .slices, .trestle, .sched, .wrd, .chest, .watch, .jnl, .power] fp :=
      by exact Covers.sub ‹Covers _ _› (by decide)) :
    Within fp s0 (dropJobs t s) := by
  unfold dropJobs; try dsimp only
  repeat' (with_reducible first
    | exact hk | exact hm.sub (by decide) | (refine Within.ite (fun _ => ?_) (fun _ => ?_)) | split | assumption
    | apply Within.foldl | intro _ _ _ | apply decisionPass_within | apply dropJob_within)

theorem addJob_within {fp : List Part} {s0 s : State} (j : Job) (hk : Within fp s0 s)
    (hm : Covers [.sched] fp :=
      by exact Covers.sub ‹Covers _ _› (by decide)) :
    Within fp s0 (addJob j s) := by
  unfold addJob; try dsimp only
  repeat' (with_reducible first
    | exact hk | exact hm.sub (by decide) | (fail_if_no_progress refine Within.sched ?_ (hm.sub (by decide)) _)
    | (refine Within.ite (fun _ => ?_) (fun _ => ?_)) | split | apply joinSet_within | apply settleReady_within)

theorem writeBatch_within {fp : List Part} {s0 s : State} (l : Nat) (hk : Within fp s0 s)
    (hm : Covers [.port, .mem] fp :=
      by exact Covers.sub ‹Covers _ _› (by decide)) :
    Within fp s0 (writeBatch l s) := by
  unfold writeBatch; try dsimp only
  repeat' (with_reducible first
    | exact hk | exact hm.sub (by decide) | (refine Within.ite (fun _ => ?_) (fun _ => ?_)) | split
    | apply portWrite_within)

theorem journalPut_within {fp : List Part} {s0 s : State} (ctx : Nat) (j : Jnl) (hk : Within fp s0 s)
    (hm : Covers [.port, .mem, .hub, .chest, .watch, .jnl] fp :=
      by exact Covers.sub ‹Covers _ _› (by decide)) :
    Within fp s0 (journalPut ctx j s).2 := by
  unfold journalPut; try dsimp only
  repeat' (with_reducible first
    | exact hk | exact hm.sub (by decide) | (refine Within.ite (fun _ => ?_) (fun _ => ?_)) | split
    | apply bump_within | apply dropItem_within | apply locWrite_within)

theorem journalOne_within {fp : List Part} {s0 s : State} (l : Nat) (hk : Within fp s0 s)
    (hm : Covers [.port, .mem, .hub, .trestle, .chest, .watch, .jnl] fp :=
      by exact Covers.sub ‹Covers _ _› (by decide)) :
    Within fp s0 (journalOne l s) := by
  unfold journalOne; try dsimp only
  repeat' (with_reducible first
    | exact hk | exact hm.sub (by decide) | (refine Within.ite (fun _ => ?_) (fun _ => ?_)) | split
    | apply State.modLoop_within | apply journalPut_within
    | (refine Within.of_snd ‹journalPut _ _ _ = _› (journalPut_within _ _ ?_)))

theorem journalDrain_within {fp : List Part} {s0 : State} (l n : Nat) {s : State} (hk : Within fp s0 s)
    (hm : Covers [.port, .mem, .hub, .trestle, .chest, .watch, .jnl] fp :=
      by exact Covers.sub ‹Covers _ _› (by decide)) : Within fp s0 (journalDrain l n s) := by
  induction n generalizing s with
  | zero => exact hk
  | succ n ih => exact ih (journalOne_within _ hk)

theorem seqEnded_within {fp : List Part} {s0 s : State} (seqId : Nat) (hk : Within fp s0 s)
    (hm : Covers [.front] fp :=
      by exact Covers.sub ‹Covers _ _› (by decide)) :
    Within fp s0 (seqEnded seqId s) := by
  unfold seqEnded; try dsimp only
  repeat' (with_reducible first
    | exact hk | exact hm.sub (by decide) | (refine Within.ite (fun _ => ?_) (fun _ => ?_)) | split
    | apply State.modQueues_within)

theorem freeSeq_within {fp : List Part} {s0 s : State} (i : Nat) (hk : Within fp s0 s)
    (hm : Covers [.trestle] fp :=
      by exact Covers.sub ‹Covers _ _› (by decide)) :
    Within fp s0 (freeSeq i s) := by
  unfold freeSeq; try dsimp only
  repeat' (with_reducible first
    | exact hk | exact hm.sub (by decide) | (fail_if_no_progress refine Within.trestle ?_ (hm.sub (by decide)) _)
    | (refine Within.ite (fun _ => ?_) (fun _ => ?_)) | split)

theorem dropSeq_within {fp : List Part} {s0 s : State} (i : Nat) (hk : Within fp s0 s)
    (hm : Covers [.port, .mem, .hub, .objects, .graphs, .front, .bramble, .slices, .trestle, .wrd, .chest,
        .jnl] fp :=
      by exact Covers.sub ‹Covers _ _› (by decide)) :
    Within fp s0 (dropSeq i s) := by
  unfold dropSeq; try dsimp only
  repeat' (with_reducible first
    | exact hk | exact hm.sub (by decide) | (refine Within.ite (fun _ => ?_) (fun _ => ?_)) | split
    | apply freePages_within | apply freeSeq_within | apply seqEnded_within | apply unrefAll_within)

theorem dropEntry_within {fp : List Part} {s0 s : State} (l i : Nat) (hk : Within fp s0 s)
    (hm : Covers [.port, .mem, .trestle] fp :=
      by exact Covers.sub ‹Covers _ _› (by decide)) :
    Within fp s0 (dropEntry l i s) := by
  unfold dropEntry; try dsimp only
  repeat' (with_reducible first
    | exact hk | exact hm.sub (by decide) | (refine Within.ite (fun _ => ?_) (fun _ => ?_)) | split
    | apply State.modLoop_within | apply writeBatch_within)

theorem endSeq_within {fp : List Part} {s0 s : State} (i : Nat) (st : Status) (reason stop : Nat)
    (hk : Within fp s0 s)
    (hm : Covers [.port, .mem, .hub, .objects, .graphs, .front, .bramble, .slices, .trestle, .wrd, .chest,
        .jnl] fp :=
      by exact Covers.sub ‹Covers _ _› (by decide)) :
    Within fp s0 (endSeq i st reason stop s) := by
  unfold endSeq; try dsimp only
  repeat' (with_reducible first
    | exact hk | exact hm.sub (by decide) | (refine Within.ite (fun _ => ?_) (fun _ => ?_)) | split
    | apply State.modLoop_within | apply dropEntry_within | apply freePages_within | apply freeSeq_within
    | apply journal_within | apply locWrite_within | apply seqEnded_within | apply signalFence_within
    | apply unrefAll_within)

theorem removeModel_within {fp : List Part} {s0 s : State} (id : Nat) (hk : Within fp s0 s)
    (hm : Covers [.port, .mem, .hub, .objects, .graphs, .front, .bramble, .slices, .wrd, .chest, .jnl] fp :=
      by exact Covers.sub ‹Covers _ _› (by decide)) :
    Within fp s0 (removeModel id s) := by
  unfold removeModel; try dsimp only
  repeat' (with_reducible first
    | exact hk | exact hm.sub (by decide) | (fail_if_no_progress refine Within.wrd ?_ (hm.sub (by decide)) _)
    | (refine Within.ite (fun _ => ?_) (fun _ => ?_)) | split | apply freeFrames_within | apply stopJobs_within
    | apply unref_within)

theorem reapModel_within {fp : List Part} {s0 s : State} (id : Nat) (hk : Within fp s0 s)
    (hm : Covers [.port, .mem, .hub, .objects, .graphs, .front, .bramble, .slices, .wrd, .chest, .jnl] fp :=
      by exact Covers.sub ‹Covers _ _› (by decide)) :
    Within fp s0 (reapModel id s) := by
  unfold reapModel; try dsimp only
  repeat' (with_reducible first
    | exact hk | exact hm.sub (by decide) | (refine Within.ite (fun _ => ?_) (fun _ => ?_)) | split
    | apply removeModel_within)

theorem reapModels_within {fp : List Part} {s0 s : State} (hk : Within fp s0 s)
    (hm : Covers [.port, .mem, .hub, .objects, .graphs, .front, .bramble, .slices, .wrd, .chest, .jnl] fp :=
      by exact Covers.sub ‹Covers _ _› (by decide)) :
    Within fp s0 (reapModels s) := by
  unfold reapModels; try dsimp only
  repeat' (with_reducible first
    | exact hk | exact hm.sub (by decide) | (refine Within.ite (fun _ => ?_) (fun _ => ?_)) | split | assumption
    | apply Within.foldl | intro _ _ _ | apply reapModel_within)

theorem dropLoopRes_within {fp : List Part} {s0 s : State} (l : Nat) (hk : Within fp s0 s)
    (hm : Covers [.port, .hub, .contexts, .slices, .trestle, .sched, .wrd, .chest, .watch, .jnl, .power] fp :=
      by exact Covers.sub ‹Covers _ _› (by decide)) :
    Within fp s0 (dropLoopRes l s) := by
  unfold dropLoopRes; try dsimp only
  repeat' (with_reducible first
    | exact hk | exact hm.sub (by decide) | (refine Within.ite (fun _ => ?_) (fun _ => ?_)) | split
    | apply dropJobs_within | apply dropSave_within | apply releaseRes_within)

theorem leaveJournal_within {fp : List Part} {s0 s : State} (l : Nat) (hk : Within fp s0 s)
    (hm : Covers [.port, .mem, .hub, .objects, .trestle, .chest, .watch, .jnl] fp :=
      by exact Covers.sub ‹Covers _ _› (by decide)) :
    Within fp s0 (leaveJournal l s) := by
  unfold leaveJournal; try dsimp only
  repeat' (with_reducible first
    | exact hk | exact hm.sub (by decide) | (fail_if_no_progress refine Within.trestle ?_ (hm.sub (by decide)) _)
    | (refine Within.ite (fun _ => ?_) (fun _ => ?_)) | split | apply addRef_within | apply dropQueue_within
    | apply journalDrain_within)

theorem dropLeft_within {fp : List Part} {s0 s : State} (c : Nat) (hk : Within fp s0 s)
    (hm : Covers [.port, .mem, .hub, .objects, .graphs, .front, .bramble, .slices, .trestle, .chest, .jnl] fp
        :=
      by exact Covers.sub ‹Covers _ _› (by decide)) :
    Within fp s0 (dropLeft c s) := by
  unfold dropLeft; try dsimp only
  repeat' (with_reducible first
    | exact hk | exact hm.sub (by decide) | (fail_if_no_progress refine Within.trestle ?_ (hm.sub (by decide)) _)
    | (refine Within.ite (fun _ => ?_) (fun _ => ?_)) | split | assumption | apply Within.foldl | intro _ _ _
    | apply dropQueue_within | apply unref_within)

theorem replayResult_within {fp : List Part} {s0 s : State} (lp : Loop) (hk : Within fp s0 s)
    (hm : Covers [.front] fp :=
      by exact Covers.sub ‹Covers _ _› (by decide)) :
    Within fp s0 (replayResult lp s) := by
  unfold replayResult; try dsimp only
  repeat' (with_reducible first
    | exact hk | exact hm.sub (by decide) | (refine Within.ite (fun _ => ?_) (fun _ => ?_)) | split
    | apply addResult_within)

theorem closeLoop_within {fp : List Part} {s0 s : State} (l : Nat) (hk : Within fp s0 s)
    (hm : Covers [.port, .mem, .hub, .contexts, .objects, .graphs, .front, .bramble, .slices, .trestle, .sched,
        .wrd, .chest, .watch, .jnl, .power] fp :=
      by exact Covers.sub ‹Covers _ _› (by decide)) :
    Within fp s0 (closeLoop l s) := by
  unfold closeLoop; try dsimp only
  repeat' (with_reducible first
    | exact hk | exact hm.sub (by decide) | (fail_if_no_progress refine Within.trestle ?_ (hm.sub (by decide)) _)
    | (refine Within.ite (fun _ => ?_) (fun _ => ?_)) | split | apply dropLoopRes_within | apply dropQueue_within
    | apply finishOk_within | apply leaveJournal_within | apply reapModels_within | apply replayResult_within
    | apply unbind_within | apply unrefAll_within)

theorem closeIfDone_within {fp : List Part} {s0 s : State} (l : Nat) (hk : Within fp s0 s)
    (hm : Covers [.port, .mem, .hub, .contexts, .objects, .graphs, .front, .bramble, .slices, .trestle, .sched,
        .wrd, .chest, .watch, .jnl, .power] fp :=
      by exact Covers.sub ‹Covers _ _› (by decide)) :
    Within fp s0 (closeIfDone l s) := by
  unfold closeIfDone; try dsimp only
  repeat' (with_reducible first
    | exact hk | exact hm.sub (by decide) | (refine Within.ite (fun _ => ?_) (fun _ => ?_)) | split
    | apply closeLoop_within)

theorem contextRecords_within {fp : List Part} {s0 s : State} (c tag : Nat) (hk : Within fp s0 s)
    (hm : Covers [.port, .mem, .hutch] fp :=
      by exact Covers.sub ‹Covers _ _› (by decide)) :
    Within fp s0 (contextRecords c tag s) := by
  unfold contextRecords; try dsimp only
  repeat' (with_reducible first
    | exact hk | exact hm.sub (by decide) | (refine Within.ite (fun _ => ?_) (fun _ => ?_)) | split | assumption
    | apply Within.foldl | intro _ _ _ | apply hutchRec_within)

theorem stopWork_within {fp : List Part} {s0 s : State} (t : Nat → Nat → Bool) (hk : Within fp s0 s)
    (hm : Covers [.port, .hub, .contexts, .slices, .trestle, .sched, .wrd, .chest, .watch, .jnl, .power, .link]
        fp :=
      by exact Covers.sub ‹Covers _ _› (by decide)) :
    Within fp s0 (stopWork t s) := by
  unfold stopWork; try dsimp only
  repeat' (with_reducible first
    | exact hk | exact hm.sub (by decide) | (fail_if_no_progress refine Within.link ?_ (hm.sub (by decide)) _)
    | (fail_if_no_progress refine Within.sched_wrd_power ?_ (hm.sub (by decide)) _ _ _)
    | (refine Within.ite (fun _ => ?_) (fun _ => ?_)) | split | apply dropJobs_within | apply requestStops_within
    | apply stopJobs_within)

theorem settleStops_within {fp : List Part} {s0 s : State} (hk : Within fp s0 s)
    (hm : Covers [.front] fp :=
      by exact Covers.sub ‹Covers _ _› (by decide)) :
    Within fp s0 (settleStops s) := by
  unfold settleStops; try dsimp only
  repeat' (with_reducible first
    | exact hk | exact hm.sub (by decide) | (refine Within.ite (fun _ => ?_) (fun _ => ?_)) | split
    | apply State.modQueues_within)

theorem qResult_within {fp : List Part} {s0 s : State} (r : Nat) (hk : Within fp s0 s)
    (hm : Covers [.front] fp :=
      by exact Covers.sub ‹Covers _ _› (by decide)) :
    Within fp s0 (qResult r s) := by
  unfold qResult; try dsimp only
  repeat' (with_reducible first
    | exact hk | exact hm.sub (by decide) | (fail_if_no_progress refine Within.front ?_ (hm.sub (by decide)) _)
    | (refine Within.ite (fun _ => ?_) (fun _ => ?_)) | split)

theorem settleQueue_within {fp : List Part} {s0 s : State} (k : Nat) (hk : Within fp s0 s)
    (hm : Covers [.front] fp :=
      by exact Covers.sub ‹Covers _ _› (by decide)) :
    Within fp s0 (settleQueue k s) := by
  unfold settleQueue; try dsimp only
  repeat' (with_reducible first
    | exact hk | exact hm.sub (by decide) | (refine Within.ite (fun _ => ?_) (fun _ => ?_)) | split
    | apply State.modQ_within | apply qResult_within)

theorem shutQueue_within {fp : List Part} {s0 s : State} (k : Nat) (l : Latch) (hk : Within fp s0 s)
    (hm : Covers [.port, .hub, .contexts, .front, .bramble, .slices, .trestle, .sched, .wrd, .chest, .watch,
        .jnl, .power, .link] fp :=
      by exact Covers.sub ‹Covers _ _› (by decide)) :
    Within fp s0 (shutQueue k l s) := by
  unfold shutQueue; try dsimp only
  repeat' (with_reducible first
    | exact hk | exact hm.sub (by decide) | (refine Within.ite (fun _ => ?_) (fun _ => ?_)) | split | assumption
    | apply Within.foldl | intro _ _ _ | apply State.modQ_within | apply discardCells_within
    | apply dropCmdCells_within | apply dropItem_within | apply dropShadows_within | apply settleQueue_within
    | apply settleStops_within | apply stopWork_within)

theorem dropIdleRes_within {fp : List Part} {s0 s : State} (c : Nat) (hk : Within fp s0 s)
    (hm : Covers [.port, .hub, .sched, .wrd, .jnl, .power] fp :=
      by exact Covers.sub ‹Covers _ _› (by decide)) :
    Within fp s0 (dropIdleRes c s) := by
  unfold dropIdleRes; try dsimp only
  repeat' (with_reducible first
    | exact hk | exact hm.sub (by decide) | (refine Within.ite (fun _ => ?_) (fun _ => ?_)) | split | assumption
    | apply Within.foldl | intro _ _ _ | apply dropSave_within | apply releaseRes_within)

theorem forgetReleases_within {fp : List Part} {s0 s : State} (c : Nat) (hk : Within fp s0 s)
    (hm : Covers [.objects] fp :=
      by exact Covers.sub ‹Covers _ _› (by decide)) :
    Within fp s0 (forgetReleases c s) := by
  unfold forgetReleases; try dsimp only
  repeat' (with_reducible first
    | exact hk | exact hm.sub (by decide) | (fail_if_no_progress refine Within.objects ?_ (hm.sub (by decide)) _)
    | (refine Within.ite (fun _ => ?_) (fun _ => ?_)) | split)

theorem markTeardown_within {fp : List Part} {s0 s : State} (c : Nat) (fault : Bool) (info : FaultInfo)
    (headRec : Option (Nat × List Byte)) (x : Context) (hk : Within fp s0 s)
    (hm : Covers [.port, .mem, .contexts, .watch, .hutch] fp :=
      by exact Covers.sub ‹Covers _ _› (by decide)) :
    Within fp s0 (markTeardown c fault info headRec x s) := by
  unfold markTeardown; try dsimp only
  repeat' (with_reducible first
    | exact hk | exact hm.sub (by decide) | (fail_if_no_progress refine Within.contexts ?_ (hm.sub (by decide)) _)
    | (fail_if_no_progress refine Within.watch ?_ (hm.sub (by decide)) _)
    | (fail_if_no_progress refine Within.contexts_watch ?_ (hm.sub (by decide)) _ _)
    | (refine Within.ite (fun _ => ?_) (fun _ => ?_)) | split | apply contextRecords_within | apply hutchRec_within)

theorem oweMsix_within {fp : List Part} {s0 s : State} (mine : Nat → Bool) (hk : Within fp s0 s)
    (hm : Covers [.front] fp :=
      by exact Covers.sub ‹Covers _ _› (by decide)) :
    Within fp s0 (oweMsix mine s) := by
  unfold oweMsix; try dsimp only
  repeat' (with_reducible first
    | exact hk | exact hm.sub (by decide) | (refine Within.ite (fun _ => ?_) (fun _ => ?_)) | split
    | apply State.modQueues_within)

theorem stopContext_within {fp : List Part} {s0 s : State} (c : Nat) (fault : Bool) (l : Latch)
    (hk : Within fp s0 s)
    (hm : Covers [.port, .hub, .contexts, .objects, .front, .bramble, .slices, .trestle, .sched, .wrd, .chest,
        .watch, .jnl, .power, .link] fp :=
      by exact Covers.sub ‹Covers _ _› (by decide)) :
    Within fp s0 (stopContext c fault l s) := by
  unfold stopContext; try dsimp only
  repeat' (with_reducible first
    | exact hk | exact hm.sub (by decide) | (fail_if_no_progress refine Within.link ?_ (hm.sub (by decide)) _)
    | (refine Within.ite (fun _ => ?_) (fun _ => ?_)) | split | assumption | apply Within.foldl | intro _ _ _
    | apply decisionPass_within | apply dropIdleRes_within | apply dropJobs_within | apply forgetReleases_within
    | apply oweMsix_within | apply requestStops_within | apply shutQueue_within)

theorem beginTeardown_within {fp : List Part} {s0 s : State} (c : Nat) (fault : Bool) (info : FaultInfo)
    (headRec : Option (Nat × List Byte)) (hk : Within fp s0 s)
    (hm : Covers [.port, .mem, .hub, .contexts, .objects, .front, .bramble, .slices, .trestle, .sched, .wrd,
        .chest, .watch, .hutch, .jnl, .power, .link] fp :=
      by exact Covers.sub ‹Covers _ _› (by decide)) :
    Within fp s0 (beginTeardown c fault info headRec s) := by
  unfold beginTeardown; try dsimp only
  repeat' (with_reducible first
    | exact hk | exact hm.sub (by decide) | (refine Within.ite (fun _ => ?_) (fun _ => ?_)) | split
    | apply markTeardown_within | apply stopContext_within)

theorem faultLatch_within {fp : List Part} {s0 s : State} (k pos : Nat) (st : Status) (aux : Nat)
    (hk : Within fp s0 s)
    (hm : Covers [.front, .chest, .jnl] fp :=
      by exact Covers.sub ‹Covers _ _› (by decide)) :
    Within fp s0 (faultLatch k pos st aux s) := by
  unfold faultLatch; try dsimp only
  repeat' (with_reducible first
    | exact hk | exact hm.sub (by decide) | (refine Within.ite (fun _ => ?_) (fun _ => ?_)) | split
    | apply State.modC_within | apply dropCmdCells_within)

theorem faultCmd_within {fp : List Part} {s0 s : State} (k pos : Nat) (info : FaultInfo)
    (headRec : Option (Nat × List Byte)) (hk : Within fp s0 s)
    (hm : Covers [.port, .mem, .hub, .contexts, .objects, .front, .bramble, .slices, .trestle, .sched, .wrd,
        .chest, .watch, .hutch, .jnl, .power, .link] fp :=
      by exact Covers.sub ‹Covers _ _› (by decide)) :
    Within fp s0 (faultCmd k pos info headRec s) := by
  unfold faultCmd; try dsimp only
  repeat' (with_reducible first
    | exact hk | exact hm.sub (by decide) | (refine Within.ite (fun _ => ?_) (fun _ => ?_)) | split
    | apply beginTeardown_within | apply faultLatch_within)

theorem faultStream_within {fp : List Part} {s0 s : State} (p st : Nat) (info : FaultInfo)
    (headRec : Option (Nat × List Byte)) (hk : Within fp s0 s)
    (hm : Covers [.port, .mem, .hub, .contexts, .objects, .front, .bramble, .slices, .trestle, .sched, .wrd,
        .chest, .watch, .hutch, .jnl, .power, .link] fp :=
      by exact Covers.sub ‹Covers _ _› (by decide)) :
    Within fp s0 (faultStream p st info headRec s) := by
  unfold faultStream; try dsimp only
  repeat' (with_reducible first
    | exact hk | exact hm.sub (by decide) | (refine Within.ite (fun _ => ?_) (fun _ => ?_)) | split
    | apply beginTeardown_within | apply faultCmd_within)

theorem memFaultCmd_within {fp : List Part} {s0 s : State} (k pos source bank : Nat) (hk : Within fp s0 s)
    (hm : Covers [.port, .mem, .hub, .contexts, .objects, .front, .bramble, .slices, .trestle, .sched, .wrd,
        .chest, .watch, .hutch, .jnl, .power, .link] fp :=
      by exact Covers.sub ‹Covers _ _› (by decide)) :
    Within fp s0 (memFaultCmd k pos source bank s) := by
  unfold memFaultCmd; try dsimp only
  repeat' (with_reducible first
    | exact hk | exact hm.sub (by decide) | (refine Within.ite (fun _ => ?_) (fun _ => ?_)) | split
    | apply faultCmd_within)

theorem tierFaultCmd_within {fp : List Part} {s0 s : State} (k pos source : Nat) (t : Tier) (address : Nat)
    (hk : Within fp s0 s)
    (hm : Covers [.port, .mem, .hub, .contexts, .objects, .front, .bramble, .slices, .trestle, .sched, .wrd,
        .chest, .watch, .hutch, .jnl, .power, .link] fp :=
      by exact Covers.sub ‹Covers _ _› (by decide)) :
    Within fp s0 (tierFaultCmd k pos source t address s) := by
  unfold tierFaultCmd; try dsimp only
  repeat' (with_reducible first
    | exact hk | exact hm.sub (by decide) | (refine Within.ite (fun _ => ?_) (fun _ => ?_)) | split
    | apply faultCmd_within)

theorem stageRec_within {fp : List Part} {s0 s : State} (stage event cause slot elapsed flags part : Nat)
    (hk : Within fp s0 s)
    (hm : Covers [.port, .mem, .hutch] fp :=
      by exact Covers.sub ‹Covers _ _› (by decide)) :
    Within fp s0 (stageRec stage event cause slot elapsed flags part s) := by
  unfold stageRec; try dsimp only
  repeat' (with_reducible first
    | exact hk | exact hm.sub (by decide) | (refine Within.ite (fun _ => ?_) (fun _ => ?_)) | split
    | apply hutchRec_within)

theorem notify_within {fp : List Part} {s0 s : State} (hk : Within fp s0 s)
    (hm : Covers [.port] fp :=
      by exact Covers.sub ‹Covers _ _› (by decide)) :
    Within fp s0 (notify s) := by
  unfold notify; try dsimp only
  repeat' (with_reducible first
    | exact hk | exact hm.sub (by decide) | (refine Within.ite (fun _ => ?_) (fun _ => ?_)) | split
    | apply msix_within)

theorem writeDump_within {fp : List Part} {s0 s : State} (d : List Byte) (hk : Within fp s0 s)
    (hm : Covers [.port, .mem, .hutch] fp :=
      by exact Covers.sub ‹Covers _ _› (by decide)) :
    Within fp s0 (writeDump d s) := by
  unfold writeDump; try dsimp only
  repeat' (with_reducible first
    | exact hk | exact hm.sub (by decide) | (fail_if_no_progress refine Within.hutch ?_ (hm.sub (by decide)) _)
    | (refine Within.ite (fun _ => ?_) (fun _ => ?_)) | split | apply spillWrite_within)

theorem addStage_within {fp : List Part} {s0 s : State} (x : Stage) (hk : Within fp s0 s)
    (hm : Covers [.watch] fp :=
      by exact Covers.sub ‹Covers _ _› (by decide)) :
    Within fp s0 (addStage x s) := by
  unfold addStage; try dsimp only
  repeat' (with_reducible first
    | exact hk | exact hm.sub (by decide) | (fail_if_no_progress refine Within.watch ?_ (hm.sub (by decide)) _)
    | (refine Within.ite (fun _ => ?_) (fun _ => ?_)) | split)

theorem modStage_within {fp : List Part} {s0 s : State} (n unit : Nat) (f : Stage → Stage) (hk : Within fp s0 s)
    (hm : Covers [.watch] fp :=
      by exact Covers.sub ‹Covers _ _› (by decide)) :
    Within fp s0 (modStage n unit f s) := by
  unfold modStage; try dsimp only
  repeat' (with_reducible first
    | exact hk | exact hm.sub (by decide) | (fail_if_no_progress refine Within.watch ?_ (hm.sub (by decide)) _)
    | (refine Within.ite (fun _ => ?_) (fun _ => ?_)) | split)

theorem dropStage_within {fp : List Part} {s0 s : State} (n unit : Nat) (hk : Within fp s0 s)
    (hm : Covers [.watch] fp :=
      by exact Covers.sub ‹Covers _ _› (by decide)) :
    Within fp s0 (dropStage n unit s) := by
  unfold dropStage; try dsimp only
  repeat' (with_reducible first
    | exact hk | exact hm.sub (by decide) | (fail_if_no_progress refine Within.watch ?_ (hm.sub (by decide)) _)
    | (refine Within.ite (fun _ => ?_) (fun _ => ?_)) | split)

theorem orderStage4_within {fp : List Part} {s0 s : State} (cause : Nat) (byCmd : Bool) (hk : Within fp s0 s)
    (hm : Covers [.port, .mem, .watch, .hutch, .jnl] fp :=
      by exact Covers.sub ‹Covers _ _› (by decide)) :
    Within fp s0 (orderStage4 cause byCmd s) := by
  unfold orderStage4; try dsimp only
  repeat' (with_reducible first
    | exact hk | exact hm.sub (by decide) | (fail_if_no_progress refine Within.hutch ?_ (hm.sub (by decide)) _)
    | (fail_if_no_progress refine Within.watch ?_ (hm.sub (by decide)) _)
    | (refine Within.ite (fun _ => ?_) (fun _ => ?_)) | split | assumption | apply Within.foldl | intro _ _ _
    | apply addStage_within | apply spillPut_within | apply stageRec_within | apply trace_within
    | apply writeDump_within)

theorem orderStage3_within {fp : List Part} {s0 s : State} (cause : Nat) (byCmd flr : Bool)
    (hk : Within fp s0 s)
    (hm : Covers [.port, .mem, .hub, .contexts, .objects, .front, .bramble, .slices, .trestle, .sched, .wrd,
        .chest, .watch, .hutch, .jnl, .power, .link] fp :=
      by exact Covers.sub ‹Covers _ _› (by decide)) :
    Within fp s0 (orderStage3 cause byCmd flr s) := by
  unfold orderStage3; try dsimp only
  repeat' (with_reducible first
    | exact hk | exact hm.sub (by decide) | (fail_if_no_progress refine Within.chest ?_ (hm.sub (by decide)) _)
    | (fail_if_no_progress refine Within.contexts ?_ (hm.sub (by decide)) _)
    | (fail_if_no_progress refine Within.port ?_ (hm.sub (by decide)) _)
    | (fail_if_no_progress refine Within.watch ?_ (hm.sub (by decide)) _)
    | (fail_if_no_progress refine Within.port_chest ?_ (hm.sub (by decide)) _ _)
    | (refine Within.ite (fun _ => ?_) (fun _ => ?_)) | split | assumption | apply Within.foldl | intro _ _ _
    | apply State.modC_within | apply addStage_within | apply forgetReleases_within | apply notify_within
    | apply oweMsix_within | apply requestStops_within | apply settleStops_within | apply shutQueue_within
    | apply stageRec_within | apply stopJobs_within | apply trace_within | apply writeDump_within)

theorem clearBystanders_within {fp : List Part} {s0 s : State} (p : Nat) (hk : Within fp s0 s)
    (hm : Covers [.port, .hub, .contexts, .sched, .wrd, .watch, .jnl, .power] fp :=
      by exact Covers.sub ‹Covers _ _› (by decide)) :
    Within fp s0 (clearBystanders p s) := by
  unfold clearBystanders; try dsimp only
  repeat' (with_reducible first
    | exact hk | exact hm.sub (by decide) | (refine Within.ite (fun _ => ?_) (fun _ => ?_)) | split | assumption
    | apply Within.foldl | intro _ _ _ | apply releaseRes_within | (refine saveRes_within _ ?_)
    | (refine WithinO.of ‹saveRes _ _ = some _› (saveRes_within _ ?_))
    | (refine Within.getD _ ?_ (saveRes_within _ ?_)) | apply withdrawClaims_within | exact WithinO.none
    | (refine WithinO.some ?_) | (refine WithinO.map ?_ (fun _ _ => ?_)) | assumption)

theorem killRuns_within {fp : List Part} {s0 s : State} (p : Nat) (hk : Within fp s0 s)
    (hm : Covers [.port, .front, .slices] fp :=
      by exact Covers.sub ‹Covers _ _› (by decide)) :
    Within fp s0 (killRuns p s) := by
  unfold killRuns; try dsimp only
  repeat' (with_reducible first
    | exact hk | exact hm.sub (by decide) | (refine Within.ite (fun _ => ?_) (fun _ => ?_)) | split | assumption
    | apply Within.foldl | intro _ _ _ | apply State.modC_within | apply requestStops_within)

theorem orderStage2_within {fp : List Part} {s0 s : State} (p cause : Nat) (byCmd test : Bool)
    (hk : Within fp s0 s)
    (hm : Covers [.port, .mem, .hub, .contexts, .sched, .wrd, .watch, .hutch, .jnl, .power] fp :=
      by exact Covers.sub ‹Covers _ _› (by decide)) :
    Within fp s0 (orderStage2 p cause byCmd test s) := by
  unfold orderStage2; try dsimp only
  repeat' (with_reducible first
    | exact hk | exact hm.sub (by decide)
    | (fail_if_no_progress refine Within.sched_watch ?_ (hm.sub (by decide)) _ _)
    | (refine Within.ite (fun _ => ?_) (fun _ => ?_)) | split | apply addStage_within
    | apply clearBystanders_within | apply modStage_within | apply notify_within | apply stageRec_within
    | apply trace_within | apply writeDump_within)

theorem stageEnd_within {fp : List Part} {s0 s : State} (x : Stage) (flags : Nat) (hk : Within fp s0 s)
    (hm : Covers [.port, .mem, .hutch] fp :=
      by exact Covers.sub ‹Covers _ _› (by decide)) :
    Within fp s0 (stageEnd x flags s) := by
  unfold stageEnd; try dsimp only
  repeat' (with_reducible first
    | exact hk | exact hm.sub (by decide) | (refine Within.ite (fun _ => ?_) (fun _ => ?_)) | split
    | apply notify_within | apply stageRec_within)

theorem rstDone_within {fp : List Part} {s0 s : State} (result : Nat) (hk : Within fp s0 s)
    (hm : Covers [.watch] fp :=
      by exact Covers.sub ‹Covers _ _› (by decide)) :
    Within fp s0 (rstDone result s) := by
  unfold rstDone; try dsimp only
  repeat' (with_reducible first
    | exact hk | exact hm.sub (by decide) | (fail_if_no_progress refine Within.watch ?_ (hm.sub (by decide)) _)
    | (refine Within.ite (fun _ => ?_) (fun _ => ?_)) | split)

theorem machineCheck_within {fp : List Part} {s0 s : State} (code unit detail : Nat) (hk : Within fp s0 s)
    (hm : Covers [.port, .mem, .hub, .contexts, .objects, .front, .bramble, .slices, .trestle, .sched, .wrd,
        .chest, .watch, .hutch, .jnl, .power, .link] fp :=
      by exact Covers.sub ‹Covers _ _› (by decide)) :
    Within fp s0 (machineCheck code unit detail s) := by
  unfold machineCheck; try dsimp only
  repeat' (with_reducible first
    | exact hk | exact hm.sub (by decide) | (fail_if_no_progress refine Within.watch ?_ (hm.sub (by decide)) _)
    | (refine Within.ite (fun _ => ?_) (fun _ => ?_)) | split | apply hutchRec_within | apply notify_within
    | apply orderStage3_within)

end Sys2Proof.Machine
end

