-- ==== Sys2Proof/Laws/WithinCommands.lean ====
section
/-! SUPPORT. What the commands of the front, of Bramble, Wardrobe and Trestle may change. -/

set_option Elab.async false
set_option linter.unusedTactic false
set_option linter.unreachableTactic false

namespace Sys2Proof.Machine

theorem Within.foldlB {α : Type} {fp : List Part} {s0 : State} {f : Bnd → α → Bnd}
    (hf : ∀ b a, Within fp s0 b.s → Within fp s0 (f b a).s)
    (l : List α) {b : Bnd} (h : Within fp s0 b.s) : Within fp s0 (l.foldl f b).s := by
  induction l generalizing b with
  | nil => exact h
  | cons a l ih => exact ih (hf b a h)


theorem Within.foldlS {α β : Type} {fp : List Part} {s0 : State} {f : β × State → α → β × State}
    (hf : ∀ b a, Within fp s0 b.2 → Within fp s0 (f b a).2)
    (l : List α) {b : β × State} (h : Within fp s0 b.2) : Within fp s0 (l.foldl f b).2 := by
  induction l generalizing b with
  | nil => exact h
  | cons a l ih => exact ih (hf b a h)

theorem modQueue_within {fp : List Part} {s0 s : State} (c q : Nat) (f : Queue → Queue) (hk : Within fp s0 s)
    (hm : Covers [.front] fp :=
      by exact Covers.sub ‹Covers _ _› (by decide)) :
    Within fp s0 (modQueue c q f s) := by
  unfold modQueue; try dsimp only
  repeat' (with_reducible first
    | exact hk | exact hm.sub (by decide) | (refine Within.ite (fun _ => ?_) (fun _ => ?_)) | split
    | apply State.modQueues_within)

theorem recordRead_within {fp : List Part} {s0 s : State} (c q : Nat) (x : CtxRec) (hk : Within fp s0 s)
    (hm : Covers [.port, .hub, .chest, .jnl] fp :=
      by exact Covers.sub ‹Covers _ _› (by decide)) :
    Within fp s0 (recordRead c q x s) := by
  unfold recordRead; try dsimp only
  repeat' (with_reducible first
    | exact hk | exact hm.sub (by decide) | (refine Within.ite (fun _ => ?_) (fun _ => ?_)) | split
    | apply dropItem_within | apply evalChest_within | (refine grantNow_within _ ?_)
    | (refine WithinO.of ‹grantNow _ _ = some _› (grantNow_within _ ?_))
    | (refine Within.getD _ ?_ (grantNow_within _ ?_)) | apply readFor_within | exact WithinO.none
    | (refine WithinO.some ?_) | (refine WithinO.map ?_ (fun _ _ => ?_)) | assumption)

theorem queueEnable_within {fp : List Part} {s0 s : State} (c q : Nat) (rd : HostRead) (wr : HostStatus)
    (hk : Within fp s0 s)
    (hm : Covers [.port, .mem, .hub, .contexts, .objects, .front, .bramble, .slices, .trestle, .sched, .wrd,
        .chest, .watch, .hutch, .jnl, .power, .link] fp :=
      by exact Covers.sub ‹Covers _ _› (by decide)) :
    Within fp s0 (queueEnable c q rd wr s) := by
  unfold queueEnable; try dsimp only
  repeat' (with_reducible first
    | exact hk | exact hm.sub (by decide) | (refine Within.ite (fun _ => ?_) (fun _ => ?_)) | split
    | apply beginTeardown_within | apply cmdIgnored_within | apply discardCells_within | apply hostWrite_within
    | apply modQueue_within | apply qResult_within | apply recordRead_within)

theorem queueShutdown_within {fp : List Part} {s0 s : State} (c q : Nat) (hk : Within fp s0 s)
    (hm : Covers [.port, .hub, .contexts, .front, .bramble, .slices, .trestle, .sched, .wrd, .chest, .watch,
        .jnl, .power, .link] fp :=
      by exact Covers.sub ‹Covers _ _› (by decide)) :
    Within fp s0 (queueShutdown c q s) := by
  unfold queueShutdown; try dsimp only
  repeat' (with_reducible first
    | exact hk | exact hm.sub (by decide) | (fail_if_no_progress refine Within.front ?_ (hm.sub (by decide)) _)
    | (refine Within.ite (fun _ => ?_) (fun _ => ?_)) | split | apply cmdIgnored_within | apply qResult_within
    | apply shutQueue_within)

theorem queueShutdownHang_within {fp : List Part} {s0 s : State} (c q : Nat) (hk : Within fp s0 s)
    (hm : Covers [.port, .mem, .hub, .contexts, .objects, .front, .bramble, .slices, .trestle, .sched, .wrd,
        .chest, .watch, .hutch, .jnl, .power, .link] fp :=
      by exact Covers.sub ‹Covers _ _› (by decide)) :
    Within fp s0 (queueShutdownHang c q s) := by
  unfold queueShutdownHang; try dsimp only
  repeat' (with_reducible first
    | exact hk | exact hm.sub (by decide) | (refine Within.ite (fun _ => ?_) (fun _ => ?_)) | split
    | apply beginTeardown_within)

theorem countCtxDrop_within {fp : List Part} {s0 s : State} (c : Nat) (other : Bool) (hk : Within fp s0 s)
    (hm : Covers [.front] fp :=
      by exact Covers.sub ‹Covers _ _› (by decide)) :
    Within fp s0 (countCtxDrop c other s) := by
  unfold countCtxDrop; try dsimp only
  repeat' (with_reducible first
    | exact hk | exact hm.sub (by decide) | (fail_if_no_progress refine Within.front ?_ (hm.sub (by decide)) _)
    | (refine Within.ite (fun _ => ?_) (fun _ => ?_)) | split)

theorem takePushes_within {fp : List Part} {s0 : State} (k : Nat) (tenant : Option Nat) (l : List Fetched) {s : State}
    (hk : Within fp s0 s)
    (hm : Covers [.chest, .jnl] fp :=
      by exact Covers.sub ‹Covers _ _› (by decide)) : Within fp s0 (takePushes k tenant l s).2 := by
  induction l generalizing s with
  | nil => exact hk
  | cons f t ih =>
    simp only [takePushes]
    split
    · exact ih hk
    · next e =>
      split at e
      · cases e
      · exact ih (WithinO.of e (takeSkid_within _ hk))

theorem produceAt_within {fp : List Part} {s0 s : State} (c q v : Nat) (hk : Within fp s0 s)
    (hm : Covers [.front, .chest, .jnl] fp :=
      by exact Covers.sub ‹Covers _ _› (by decide)) :
    Within fp s0 (produceAt c q v s) := by
  unfold produceAt; dsimp only
  have h := takePushes_within (qkey c q) (s.tenantOf c)
    (takenSlots (queueAt c q s) (queueAt c q s).d (((queueAt c q s).published v).getD 0)) hk (hm.sub (by decide))
  generalize takePushes _ _ _ s = r at h ⊢
  obtain ⟨fs, t⟩ := r
  exact Within.ite (fun _ => modQueue_within _ _ _ h) (fun _ => trace_within _ _ _ _ _ (modQueue_within _ _ _ h))

theorem doorbellAt_within {fp : List Part} {s0 s : State} (c q w size : Nat) (v : W64) (hk : Within fp s0 s)
    (hm : Covers [.front, .chest, .jnl] fp :=
      by exact Covers.sub ‹Covers _ _› (by decide)) :
    Within fp s0 (doorbellAt c q w size v s) := by
  unfold doorbellAt; try dsimp only
  repeat' (with_reducible first
    | exact hk | exact hm.sub (by decide) | (refine Within.ite (fun _ => ?_) (fun _ => ?_)) | split
    | apply modQueue_within | apply produceAt_within)

theorem pushAt_within {fp : List Part} {s0 s : State} (c q o : Nat) (bytes : List Byte) (hk : Within fp s0 s)
    (hm : Covers [.front] fp :=
      by exact Covers.sub ‹Covers _ _› (by decide)) :
    Within fp s0 (pushAt c q o bytes s) := by
  unfold pushAt; try dsimp only
  repeat' (with_reducible first
    | exact hk | exact hm.sub (by decide) | (refine Within.ite (fun _ => ?_) (fun _ => ?_)) | split
    | apply modQueue_within)

theorem bar2Write_within {fp : List Part} {s0 s : State} (fn off size : Nat) (v : W64) (bytes : List Byte)
    (hk : Within fp s0 s)
    (hm : Covers [.front, .chest, .jnl] fp :=
      by exact Covers.sub ‹Covers _ _› (by decide)) :
    Within fp s0 (bar2Write fn off size v bytes s) := by
  unfold bar2Write; try dsimp only
  repeat' (with_reducible first
    | exact hk | exact hm.sub (by decide) | (refine Within.ite (fun _ => ?_) (fun _ => ?_)) | split
    | apply countCtxDrop_within | apply doorbellAt_within | apply pushAt_within)

theorem doorbellWrite_within {fp : List Part} {s0 s : State} (fn off size : Nat) (v : W64) (hk : Within fp s0 s)
    (hm : Covers [.front, .chest, .jnl] fp :=
      by exact Covers.sub ‹Covers _ _› (by decide)) :
    Within fp s0 (doorbellWrite fn off size v s) := by
  unfold doorbellWrite; try dsimp only
  repeat' (with_reducible first
    | exact hk | exact hm.sub (by decide) | (refine Within.ite (fun _ => ?_) (fun _ => ?_)) | split
    | apply bar2Write_within)

theorem pushWrite_within {fp : List Part} {s0 s : State} (fn off : Nat) (bytes : List Byte)
    (hk : Within fp s0 s)
    (hm : Covers [.front, .chest, .jnl] fp :=
      by exact Covers.sub ‹Covers _ _› (by decide)) :
    Within fp s0 (pushWrite fn off bytes s) := by
  unfold pushWrite; try dsimp only
  repeat' (with_reducible first
    | exact hk | exact hm.sub (by decide) | (refine Within.ite (fun _ => ?_) (fun _ => ?_)) | split
    | apply bar2Write_within)

theorem takeFetch_within {fp : List Part} {s0 : State} (k : Nat) (tenant : Option Nat) (p n : Nat) {s : State}
    (hk : Within fp s0 s)
    (hm : Covers [.chest, .jnl] fp :=
      by exact Covers.sub ‹Covers _ _› (by decide)) : Within fp s0 (takeFetch k tenant p n s).2 := by
  induction n generalizing p s with
  | zero => exact hk
  | succ n ih => exact ih _ (askCells_within _ hk)

theorem fetchIssue_within {fp : List Part} {s0 s : State} (c q n : Nat) (hk : Within fp s0 s)
    (hm : Covers [.port, .front, .chest, .watch, .jnl] fp :=
      by exact Covers.sub ‹Covers _ _› (by decide)) :
    Within fp s0 (fetchIssue c q n s) := by
  unfold fetchIssue; try dsimp only
  repeat' (with_reducible first
    | exact hk | exact hm.sub (by decide) | (refine Within.ite (fun _ => ?_) (fun _ => ?_)) | split
    | apply bump_within | apply modQueue_within | apply readReq_within | apply takeFetch_within
    | (refine Within.of_snd ‹takeFetch _ _ _ _ _ = _› (takeFetch_within _ _ _ _ ?_)) | apply trace_within)

theorem entryArrived_within {fp : List Part} {s0 s : State} (c q pos : Nat) (b : List Byte)
    (hk : Within fp s0 s)
    (hm : Covers [.front, .chest, .jnl] fp :=
      by exact Covers.sub ‹Covers _ _› (by decide)) :
    Within fp s0 (entryArrived c q pos b s) := by
  unfold entryArrived; try dsimp only
  repeat' (with_reducible first
    | exact hk | exact hm.sub (by decide) | (refine Within.ite (fun _ => ?_) (fun _ => ?_)) | split
    | apply dropItem_within | apply fillItem_within | apply modQueue_within)

theorem fetchReturn_within {fp : List Part} {s0 s : State} (c q : Nat) (rd : HostRead) (hk : Within fp s0 s)
    (hm : Covers [.port, .mem, .hub, .contexts, .objects, .front, .bramble, .slices, .trestle, .sched, .wrd,
        .chest, .watch, .hutch, .jnl, .power, .link] fp :=
      by exact Covers.sub ‹Covers _ _› (by decide)) :
    Within fp s0 (fetchReturn c q rd s) := by
  unfold fetchReturn; try dsimp only
  repeat' (with_reducible first
    | exact hk | exact hm.sub (by decide) | (refine Within.ite (fun _ => ?_) (fun _ => ?_)) | split | assumption
    | apply Within.foldl | intro _ _ _ | apply beginTeardown_within | apply charge_within
    | apply entryArrived_within | apply memWrite_within | apply modQueue_within)

theorem fetcherGoIdle_within {fp : List Part} {s0 s : State} (c q : Nat) (hk : Within fp s0 s)
    (hm : Covers [.front] fp :=
      by exact Covers.sub ‹Covers _ _› (by decide)) :
    Within fp s0 (fetcherGoIdle c q s) := by
  unfold fetcherGoIdle; try dsimp only
  repeat' (with_reducible first
    | exact hk | exact hm.sub (by decide) | (refine Within.ite (fun _ => ?_) (fun _ => ?_)) | split
    | apply modQueue_within)

theorem moveEntries_within {fp : List Part} {s0 : State} (k : Nat) (tenant : Option Nat) (l : List Fetched)
    {s : State} (hk : Within fp s0 s)
    (hm : Covers [.chest, .jnl] fp :=
      by exact Covers.sub ‹Covers _ _› (by decide)) : Within fp s0 (moveEntries k tenant l s).2 := by
  induction l generalizing s with
  | nil => exact hk
  | cons f t ih =>
    simp only [moveEntries]
    have h : Within fp s0 (if f.latch.isSome = true then (true, dropItem 0 k f.pos s)
        else askMove 0 k (itemReq 1 k tenant f.pos 1 (some f.entry)) s).2 := by
      split
      · exact dropItem_within _ _ _ hk
      · exact askMove_within _ _ _ hk
    split
    · next e => exact Within.of_snd e h
    · next e => exact ih (Within.of_snd e h)

theorem grantCtx_within {fp : List Part} {s0 s : State} (c : Nat) (hk : Within fp s0 s)
    (hm : Covers [.front, .chest, .jnl] fp :=
      by exact Covers.sub ‹Covers _ _› (by decide)) :
    Within fp s0 (grantCtx c s) := by
  unfold grantCtx; try dsimp only
  repeat' (with_reducible first
    | exact hk | exact hm.sub (by decide) | (fail_if_no_progress refine Within.front ?_ (hm.sub (by decide)) _)
    | (refine Within.ite (fun _ => ?_) (fun _ => ?_)) | split | apply State.modQ_within
    | apply State.modQueues_within | apply moveEntries_within
    | (refine Within.of_snd ‹moveEntries _ _ _ _ = _› (moveEntries_within _ _ _ ?_)))

theorem arbiterGrant_within {fp : List Part} {s0 s : State} (slot : Option Nat) (hk : Within fp s0 s)
    (hm : Covers [.front, .chest, .jnl] fp :=
      by exact Covers.sub ‹Covers _ _› (by decide)) :
    Within fp s0 (arbiterGrant slot s) := by
  unfold arbiterGrant; try dsimp only
  repeat' (with_reducible first
    | exact hk | exact hm.sub (by decide) | (fail_if_no_progress refine Within.front ?_ (hm.sub (by decide)) _)
    | (refine Within.ite (fun _ => ?_) (fun _ => ?_)) | split | apply grantCtx_within)

theorem graphBoundary_within {fp : List Part} {s0 s : State} (r : Nat) (hk : Within fp s0 s)
    (hm : Covers [.port, .hub, .contexts, .slices, .trestle, .sched, .wrd, .chest, .watch, .jnl, .power] fp :=
      by exact Covers.sub ‹Covers _ _› (by decide)) :
    Within fp s0 (graphBoundary r s) := by
  unfold graphBoundary; try dsimp only
  repeat' (with_reducible first
    | exact hk | exact hm.sub (by decide) | (refine Within.ite (fun _ => ?_) (fun _ => ?_)) | split
    | apply State.modRes_within | apply countVacate_within | apply decisionPass_within | apply passAt_within
    | apply releaseRes_within | apply settleReady_within)

theorem retireCmd_within {fp : List Part} {s0 s : State} (c q : Nat) (m : Cmd) (l : Latch) (hk : Within fp s0 s)
    (hm : Covers [.port, .mem, .hub, .contexts, .objects, .graphs, .front, .bramble, .slices, .trestle, .sched,
        .wrd, .chest, .watch, .jnl, .power] fp :=
      by exact Covers.sub ‹Covers _ _› (by decide)) :
    Within fp s0 (retireCmd c q m l s) := by
  unfold retireCmd; try dsimp only
  repeat' (with_reducible first
    | exact hk | exact hm.sub (by decide) | (refine Within.ite (fun _ => ?_) (fun _ => ?_)) | split | assumption
    | apply Within.foldl | intro _ _ _ | apply State.modQ_within | apply charge_within | apply dropCmdCells_within
    | apply dropItem_within | apply dropShadows_within | apply graphBoundary_within | apply locWrite_within
    | apply reapModels_within | apply settleQueue_within | apply signalOut_within | apply takeOrWait_within
    | apply trace_within | apply unbind_within | apply unpinAll_within)

theorem commandRetire_within {fp : List Part} {s0 s : State} (c q : Nat) (hk : Within fp s0 s)
    (hm : Covers [.port, .mem, .hub, .contexts, .objects, .graphs, .front, .bramble, .slices, .trestle, .sched,
        .wrd, .chest, .watch, .jnl, .power] fp :=
      by exact Covers.sub ‹Covers _ _› (by decide)) :
    Within fp s0 (commandRetire c q s) := by
  unfold commandRetire; try dsimp only
  repeat' (with_reducible first
    | exact hk | exact hm.sub (by decide) | (refine Within.ite (fun _ => ?_) (fun _ => ?_)) | split
    | apply State.modQ_within | apply retireCmd_within)

theorem spillDetail_within {fp : List Part} {s0 s : State} (k : Nat) (r : List Byte) (hk : Within fp s0 s)
    (hm : Covers [.port, .mem, .front] fp :=
      by exact Covers.sub ‹Covers _ _› (by decide)) :
    Within fp s0 (spillDetail k r s) := by
  unfold spillDetail; try dsimp only
  repeat' (with_reducible first
    | exact hk | exact hm.sub (by decide) | (refine Within.ite (fun _ => ?_) (fun _ => ?_)) | split
    | apply State.modQ_within | apply portWrite_within)

theorem detailDue_within {fp : List Part} {s0 s : State} (c q : Nat) (r : Retired) (hk : Within fp s0 s)
    (hm : Covers [.port, .mem, .hub, .front, .chest, .jnl] fp :=
      by exact Covers.sub ‹Covers _ _› (by decide)) :
    Within fp s0 (detailDue c q r s) := by
  unfold detailDue; try dsimp only
  repeat' (with_reducible first
    | exact hk | exact hm.sub (by decide) | (refine Within.ite (fun _ => ?_) (fun _ => ?_)) | split
    | apply State.modQ_within | apply hostWrite_within | apply raiseEvent_within | apply spillDetail_within)

theorem sendMsix_within {fp : List Part} {s0 s : State} (c q : Nat) (hk : Within fp s0 s)
    (hm : Covers [.port, .front] fp :=
      by exact Covers.sub ‹Covers _ _› (by decide)) :
    Within fp s0 (sendMsix c q s) := by
  unfold sendMsix; try dsimp only
  repeat' (with_reducible first
    | exact hk | exact hm.sub (by decide) | (refine Within.ite (fun _ => ?_) (fun _ => ?_)) | split
    | apply State.modQ_within | apply msix_within)

theorem dropCompletion_within {fp : List Part} {s0 s : State} (k pos : Nat) (hk : Within fp s0 s)
    (hm : Covers [.chest, .jnl] fp :=
      by exact Covers.sub ‹Covers _ _› (by decide)) :
    Within fp s0 (dropCompletion k pos s) := by
  unfold dropCompletion; try dsimp only
  repeat' (with_reducible first
    | exact hk | exact hm.sub (by decide) | (refine Within.ite (fun _ => ?_) (fun _ => ?_)) | split
    | apply State.modChest_within | apply dropItem_within)

theorem completionWordWrite_within {fp : List Part} {s0 s : State} (c q : Nat) (hk : Within fp s0 s)
    (hm : Covers [.port, .mem, .hub, .front, .chest, .watch, .jnl] fp :=
      by exact Covers.sub ‹Covers _ _› (by decide)) :
    Within fp s0 (completionWordWrite c q s) := by
  unfold completionWordWrite; try dsimp only
  repeat' (with_reducible first
    | exact hk | exact hm.sub (by decide) | (refine Within.ite (fun _ => ?_) (fun _ => ?_)) | split | assumption
    | apply Within.foldl | intro _ _ _ | apply State.modQ_within | apply bump_within | apply detailDue_within
    | apply dropCompletion_within | apply hostWrite_within | apply sendMsix_within | apply settleQueue_within)

theorem msixModerationTimeout_within {fp : List Part} {s0 s : State} (c q : Nat) (hk : Within fp s0 s)
    (hm : Covers [.port, .front] fp :=
      by exact Covers.sub ‹Covers _ _› (by decide)) :
    Within fp s0 (msixModerationTimeout c q s) := by
  unfold msixModerationTimeout; try dsimp only
  repeat' (with_reducible first
    | exact hk | exact hm.sub (by decide) | (refine Within.ite (fun _ => ?_) (fun _ => ?_)) | split
    | apply sendMsix_within)

theorem queueTimeout_within {fp : List Part} {s0 s : State} (c q : Nat) (hk : Within fp s0 s)
    (hm : Covers [.port, .hub, .contexts, .front, .bramble, .slices, .trestle, .sched, .wrd, .chest, .watch,
        .jnl, .power, .link] fp :=
      by exact Covers.sub ‹Covers _ _› (by decide)) :
    Within fp s0 (queueTimeout c q s) := by
  unfold queueTimeout; try dsimp only
  repeat' (with_reducible first
    | exact hk | exact hm.sub (by decide) | (refine Within.ite (fun _ => ?_) (fun _ => ?_)) | split
    | apply State.modQ_within | apply dropItem_within | apply dropShadows_within | apply stopWork_within
    | apply takeLatch_within | apply trace_within)

theorem addVersion_within {fp : List Part} {s0 s : State} (g imageKey : Nat) (b : List Byte)
    (hk : Within fp s0 s)
    (hm : Covers [.port, .mem, .hub, .objects, .graphs, .front, .bramble, .slices, .chest, .jnl] fp :=
      by exact Covers.sub ‹Covers _ _› (by decide)) :
    Within fp s0 (addVersion g imageKey b s) := by
  unfold addVersion; try dsimp only
  repeat' (with_reducible first
    | exact hk | exact hm.sub (by decide) | (fail_if_no_progress refine Within.graphs ?_ (hm.sub (by decide)) _)
    | (refine Within.ite (fun _ => ?_) (fun _ => ?_)) | split | assumption | apply Within.foldl | intro _ _ _
    | apply addRef_within | apply dropLines_within | apply dropRefMem_within)

theorem askPayload_within {fp : List Part} {s0 s : State} (k pos n : Nat) (hk : Within fp s0 s)
    (hm : Covers [.chest, .jnl] fp :=
      by exact Covers.sub ‹Covers _ _› (by decide)) :
    Within fp s0 (askPayload k pos n s).2 := by
  unfold askPayload; try dsimp only
  repeat' (with_reducible first
    | exact hk | exact hm.sub (by decide) | (refine Within.ite (fun _ => ?_) (fun _ => ?_)) | split
    | apply askCells_within | (refine Within.of_snd ‹askCells _ _ = _› (askCells_within _ ?_)))

theorem tierReads_within {fp : List Part} {s0 : State} (k pos : Nat) (l : List (Loc × List Byte)) {s : State}
    (hk : Within fp s0 s)
    (hm : Covers [.port, .hub, .chest, .jnl] fp :=
      by exact Covers.sub ‹Covers _ _› (by decide)) : Within fp s0 (tierReads k pos l s).2 := by
  induction l generalizing s with
  | nil => exact hk
  | cons r t ih =>
    simp only [tierReads]
    split
    · next e => exact Within.of_snd e (askPayload_within _ _ _ hk)
    · next e =>
      exact ih (fillItem_within _ _ _ _ (readFor_within _ _ _ (Within.of_snd e (askPayload_within _ _ _ hk))))

theorem nextOrder_within {fp : List Part} {s0 s : State} (hk : Within fp s0 s)
    (hm : Covers [.bramble] fp :=
      by exact Covers.sub ‹Covers _ _› (by decide)) :
    Within fp s0 (nextOrder s) := by
  unfold nextOrder; try dsimp only
  repeat' (with_reducible first
    | exact hk | exact hm.sub (by decide) | (fail_if_no_progress refine Within.bramble ?_ (hm.sub (by decide)) _)
    | (refine Within.ite (fun _ => ?_) (fun _ => ?_)) | split)

theorem pinNew_within {fp : List Part} {s0 s : State} (held pins : List Nat) (hk : Within fp s0 s)
    (hm : Covers [.objects] fp :=
      by exact Covers.sub ‹Covers _ _› (by decide)) :
    Within fp s0 (pinNew held pins s) := by
  unfold pinNew; try dsimp only
  repeat' (with_reducible first
    | exact hk | exact hm.sub (by decide) | (refine Within.ite (fun _ => ?_) (fun _ => ?_)) | split | assumption
    | apply Within.foldl | intro _ _ _ | apply pin_within)

theorem holdCmd_within {fp : List Part} {s0 s : State} (k : Nat) (m : Cmd) (why : HoldCause)
    (reads : List (Loc × List Byte)) (hk : Within fp s0 s)
    (hm : Covers [.front, .bramble] fp :=
      by exact Covers.sub ‹Covers _ _› (by decide)) :
    Within fp s0 (holdCmd k m why reads s) := by
  unfold holdCmd; try dsimp only
  repeat' (with_reducible first
    | exact hk | exact hm.sub (by decide) | (refine Within.ite (fun _ => ?_) (fun _ => ?_)) | split
    | apply State.modC_within | apply nextOrder_within)

theorem commitAccept_within {fp : List Part} {s0 s : State} (k : Nat) (m : Cmd) (v : AccEnv) (behind : Bool)
    (hk : Within fp s0 s)
    (hm : Covers [.port, .hub, .contexts, .objects, .front, .bramble, .chest, .jnl] fp :=
      by exact Covers.sub ‹Covers _ _› (by decide)) :
    Within fp s0 (commitAccept k m v behind s) := by
  unfold commitAccept; try dsimp only
  repeat' (with_reducible first
    | exact hk | exact hm.sub (by decide) | (fail_if_no_progress refine Within.contexts ?_ (hm.sub (by decide)) _)
    | (fail_if_no_progress refine Within.objects ?_ (hm.sub (by decide)) _)
    | (refine Within.ite (fun _ => ?_) (fun _ => ?_)) | split | assumption | apply Within.foldl | intro _ _ _
    | apply State.modC_within | apply askPayload_within
    | (refine Within.of_snd ‹askPayload _ _ _ _ = _› (askPayload_within _ _ _ ?_)) | apply consumeItem_within
    | apply holdCmd_within | apply loadShadow_within | apply nextOrder_within | apply pinNew_within
    | apply trace_within)

theorem askImage_within {fp : List Part} {s0 s : State} (c : Nat) (g : Option Obj) (hk : Within fp s0 s)
    (hm : Covers [.port] fp :=
      by exact Covers.sub ‹Covers _ _› (by decide)) :
    Within fp s0 (askImage c g s) := by
  unfold askImage; try dsimp only
  repeat' (with_reducible first
    | exact hk | exact hm.sub (by decide) | (refine Within.ite (fun _ => ?_) (fun _ => ?_)) | split
    | apply readReq_within)

theorem beginVerify_within {fp : List Part} {s0 s : State} (k : Nat) (m : Cmd) (v : AccEnv) (g aux : Nat)
    (hk : Within fp s0 s)
    (hm : Covers [.port, .objects, .front, .bramble, .chest, .jnl] fp :=
      by exact Covers.sub ‹Covers _ _› (by decide)) :
    Within fp s0 (beginVerify k m v g aux s) := by
  unfold beginVerify; try dsimp only
  repeat' (with_reducible first
    | exact hk | exact hm.sub (by decide) | (fail_if_no_progress refine Within.objects ?_ (hm.sub (by decide)) _)
    | (refine Within.ite (fun _ => ?_) (fun _ => ?_)) | split | assumption | apply Within.foldl | intro _ _ _
    | apply State.modC_within | apply askImage_within | apply askPayload_within
    | (refine Within.of_snd ‹askPayload _ _ _ _ = _› (askPayload_within _ _ _ ?_)) | apply holdCmd_within
    | apply pinNew_within)

theorem issueRead_within {fp : List Part} {s0 s : State} (k : Nat) (m : Cmd) (reads : List (Loc × List Byte))
    (l : Loc) (n aux : Nat) (hk : Within fp s0 s)
    (hm : Covers [.port, .front, .bramble, .chest, .jnl] fp :=
      by exact Covers.sub ‹Covers _ _› (by decide)) :
    Within fp s0 (issueRead k m reads l n aux s) := by
  unfold issueRead; try dsimp only
  repeat' (with_reducible first
    | exact hk | exact hm.sub (by decide) | (refine Within.ite (fun _ => ?_) (fun _ => ?_)) | split
    | apply State.modC_within | apply askPayload_within
    | (refine Within.of_snd ‹askPayload _ _ _ _ = _› (askPayload_within _ _ _ ?_)) | apply holdCmd_within
    | apply readReq_within)

theorem envResult_within {fp : List Part} {s0 s : State} (k : Nat) (m : Cmd) (st : Status) (v : AccEnv)
    (hk : Within fp s0 s)
    (hm : Covers [.front] fp :=
      by exact Covers.sub ‹Covers _ _› (by decide)) :
    Within fp s0 (envResult k m st v s) := by
  unfold envResult; try dsimp only
  repeat' (with_reducible first
    | exact hk | exact hm.sub (by decide) | (refine Within.ite (fun _ => ?_) (fun _ => ?_)) | split
    | apply addResult_within)

theorem tryAccept_within {fp : List Part} {s0 s : State} (behind : Bool) (k : Nat) (m : Cmd)
    (hk : Within fp s0 s)
    (hm : Covers [.port, .hub, .contexts, .objects, .front, .bramble, .chest, .jnl] fp :=
      by exact Covers.sub ‹Covers _ _› (by decide)) :
    Within fp s0 (tryAccept behind k m s) := by
  unfold tryAccept; try dsimp only
  repeat' (with_reducible first
    | exact hk | exact hm.sub (by decide) | (refine Within.ite (fun _ => ?_) (fun _ => ?_)) | split
    | apply beginVerify_within | apply commitAccept_within | apply envResult_within | apply holdCmd_within
    | apply issueRead_within | apply takeLatch_within | apply tierReads_within
    | (refine Within.of_snd ‹tierReads _ _ _ _ = _› (tierReads_within _ _ _ ?_)))

theorem serveHeld_within {fp : List Part} {s0 : State} (slot : Option Nat) (b : Bool) (l : List (Nat × Cmd)) {s : State}
    (hk : Within fp s0 s)
    (hm : Covers [.port, .hub, .contexts, .objects, .front, .bramble, .chest, .jnl] fp :=
      by exact Covers.sub ‹Covers _ _› (by decide)) : Within fp s0 (serveHeld slot b l s) := by
  induction l generalizing s b with
  | nil => exact hk
  | cons e t ih =>
    simp only [serveHeld]
    exact ih _ (Within.ite (fun _ => tryAccept_within _ _ _ hk) (fun _ => hk))

theorem acceptAgain_within {fp : List Part} {s0 s : State} (k pos : Nat) (hk : Within fp s0 s)
    (hm : Covers [.port, .hub, .contexts, .objects, .front, .bramble, .chest, .jnl] fp :=
      by exact Covers.sub ‹Covers _ _› (by decide)) :
    Within fp s0 (acceptAgain k pos s) := by
  unfold acceptAgain; try dsimp only
  repeat' (with_reducible first
    | exact hk | exact hm.sub (by decide) | (refine Within.ite (fun _ => ?_) (fun _ => ?_)) | split
    | apply serveHeld_within | apply tryAccept_within)

theorem entryAccept_within {fp : List Part} {s0 s : State} (c q : Nat) (hk : Within fp s0 s)
    (hm : Covers [.port, .mem, .hub, .contexts, .objects, .front, .bramble, .slices, .trestle, .sched, .wrd,
        .chest, .watch, .hutch, .jnl, .power, .link] fp :=
      by exact Covers.sub ‹Covers _ _› (by decide)) :
    Within fp s0 (entryAccept c q s) := by
  unfold entryAccept; try dsimp only
  repeat' (with_reducible first
    | exact hk | exact hm.sub (by decide) | (fail_if_no_progress refine Within.bramble ?_ (hm.sub (by decide)) _)
    | (refine Within.ite (fun _ => ?_) (fun _ => ?_)) | split | apply bump_within | apply machineCheck_within
    | apply serveHeld_within | apply tryAccept_within)

theorem acceptReadReturn_within {fp : List Part} {s0 s : State} (c q : Nat) (rd : HostRead)
    (hk : Within fp s0 s)
    (hm : Covers [.port, .mem, .hub, .contexts, .objects, .front, .bramble, .chest, .watch, .jnl] fp :=
      by exact Covers.sub ‹Covers _ _› (by decide)) :
    Within fp s0 (acceptReadReturn c q rd s) := by
  unfold acceptReadReturn; try dsimp only
  repeat' (with_reducible first
    | exact hk | exact hm.sub (by decide) | (refine Within.ite (fun _ => ?_) (fun _ => ?_)) | split
    | apply State.modC_within | apply acceptAgain_within | apply bump_within | apply charge_within
    | apply fillItem_within | apply memWrite_within | apply takeLatch_within)

theorem chargeImage_within {fp : List Part} {s0 s : State} (c : Nat) (im : MemObj) (off n : Nat)
    (hk : Within fp s0 s)
    (hm : Covers [.port, .hub] fp :=
      by exact Covers.sub ‹Covers _ _› (by decide)) :
    Within fp s0 (chargeImage c im off n s) := by
  unfold chargeImage; try dsimp only
  repeat' (with_reducible first
    | exact hk | exact hm.sub (by decide) | (refine Within.ite (fun _ => ?_) (fun _ => ?_)) | split
    | apply charge_within | apply readFor_within)

theorem lateImage_within {fp : List Part} {s0 s : State} (c key off n : Nat) (rd : HostRead)
    (hk : Within fp s0 s)
    (hm : Covers [.port, .hub] fp :=
      by exact Covers.sub ‹Covers _ _› (by decide)) :
    Within fp s0 (lateImage c key off n rd s) := by
  unfold lateImage; try dsimp only
  repeat' (with_reducible first
    | exact hk | exact hm.sub (by decide) | (refine Within.ite (fun _ => ?_) (fun _ => ?_)) | split
    | apply chargeImage_within)

theorem verifyFirst_within {fp : List Part} {s0 s : State} (c q : Nat) (m : Cmd) (g aux : Nat) (rd : HostRead)
    (hk : Within fp s0 s)
    (hm : Covers [.port, .mem, .hub, .contexts, .objects, .graphs, .front, .bramble, .slices, .chest, .jnl] fp
        :=
      by exact Covers.sub ‹Covers _ _› (by decide)) :
    Within fp s0 (verifyFirst c q m g aux rd s) := by
  unfold verifyFirst; try dsimp only
  repeat' (with_reducible first
    | exact hk | exact hm.sub (by decide) | (refine Within.ite (fun _ => ?_) (fun _ => ?_)) | split
    | apply State.modC_within | apply acceptAgain_within | apply addVersion_within | apply chargeImage_within
    | apply takeLatch_within)

theorem verifyPatch_within {fp : List Part} {s0 s : State} (c q : Nat) (m : Cmd) (rd : HostRead)
    (hk : Within fp s0 s)
    (hm : Covers [.port, .mem, .hub, .objects, .graphs, .front, .bramble, .slices, .chest, .jnl] fp :=
      by exact Covers.sub ‹Covers _ _› (by decide)) :
    Within fp s0 (verifyPatch c q m rd s) := by
  unfold verifyPatch; try dsimp only
  repeat' (with_reducible first
    | exact hk | exact hm.sub (by decide) | (refine Within.ite (fun _ => ?_) (fun _ => ?_)) | split
    | apply addVersion_within | apply chargeImage_within | apply finish_within | apply finishOk_within)

theorem verifyDone_within {fp : List Part} {s0 s : State} (c q pos : Nat) (rd : HostRead) (hk : Within fp s0 s)
    (hm : Covers [.port, .mem, .hub, .contexts, .objects, .graphs, .front, .bramble, .slices, .chest, .jnl] fp
        :=
      by exact Covers.sub ‹Covers _ _› (by decide)) :
    Within fp s0 (verifyDone c q pos rd s) := by
  unfold verifyDone; try dsimp only
  repeat' (with_reducible first
    | exact hk | exact hm.sub (by decide) | (refine Within.ite (fun _ => ?_) (fun _ => ?_)) | split
    | apply State.modC_within | apply dropItem_within | apply lateImage_within | apply verifyFirst_within
    | apply verifyPatch_within)

theorem bindCurrent_within {fp : List Part} {s0 s : State} (k pos g : Nat) (hk : Within fp s0 s)
    (hm : Covers [.graphs, .front] fp :=
      by exact Covers.sub ‹Covers _ _› (by decide)) :
    Within fp s0 (bindCurrent k pos g s) := by
  unfold bindCurrent; try dsimp only
  repeat' (with_reducible first
    | exact hk | exact hm.sub (by decide) | (refine Within.ite (fun _ => ?_) (fun _ => ?_)) | split
    | apply State.modC_within | apply bindVer_within)

theorem armJoin_within {fp : List Part} {s0 s : State} (c q : Nat) (m : Cmd) (hk : Within fp s0 s)
    (hm : Covers [.link] fp :=
      by exact Covers.sub ‹Covers _ _› (by decide)) :
    Within fp s0 (armJoin c q m s) := by
  unfold armJoin; try dsimp only
  repeat' (with_reducible first
    | exact hk | exact hm.sub (by decide) | (fail_if_no_progress refine Within.link ?_ (hm.sub (by decide)) _)
    | (refine Within.ite (fun _ => ?_) (fun _ => ?_)) | split)

theorem onDispatch_within {fp : List Part} {s0 s : State} (c q : Nat) (m : Cmd) (hk : Within fp s0 s)
    (hm : Covers [.graphs, .front, .link] fp :=
      by exact Covers.sub ‹Covers _ _› (by decide)) :
    Within fp s0 (onDispatch c q m s) := by
  unfold onDispatch; try dsimp only
  repeat' (with_reducible first
    | exact hk | exact hm.sub (by decide) | (refine Within.ite (fun _ => ?_) (fun _ => ?_)) | split
    | apply State.modC_within | apply armJoin_within | apply bindCurrent_within)

theorem commandDispatch_within {fp : List Part} {s0 s : State} (c q pos : Nat) (hk : Within fp s0 s)
    (hm : Covers [.graphs, .front, .bramble, .chest, .jnl, .link] fp :=
      by exact Covers.sub ‹Covers _ _› (by decide)) :
    Within fp s0 (commandDispatch c q pos s) := by
  unfold commandDispatch; try dsimp only
  repeat' (with_reducible first
    | exact hk | exact hm.sub (by decide) | (refine Within.ite (fun _ => ?_) (fun _ => ?_)) | split
    | apply State.modC_within | apply askCells_within
    | (refine Within.of_snd ‹askCells _ _ = _› (askCells_within _ ?_)) | apply dropShadows_within
    | apply onDispatch_within | apply takeLatch_within | apply trace_within)

theorem begun_within {fp : List Part} {s0 s : State} (k pos : Nat) (hk : Within fp s0 s)
    (hm : Covers [.front, .chest, .jnl] fp :=
      by exact Covers.sub ‹Covers _ _› (by decide)) :
    Within fp s0 (begun k pos s) := by
  unfold begun; try dsimp only
  repeat' (with_reducible first
    | exact hk | exact hm.sub (by decide) | (refine Within.ite (fun _ => ?_) (fun _ => ?_)) | split
    | apply State.modC_within | apply consumeItem_within)

theorem putResult_within {fp : List Part} {s0 s : State} (k : Nat) (m : Cmd) (hOff oOff : Nat) (bs : List Byte)
    (hk : Within fp s0 s)
    (hm : Covers [.front] fp :=
      by exact Covers.sub ‹Covers _ _› (by decide)) :
    Within fp s0 (putResult k m hOff oOff bs s) := by
  unfold putResult; try dsimp only
  repeat' (with_reducible first
    | exact hk | exact hm.sub (by decide) | (refine Within.ite (fun _ => ?_) (fun _ => ?_)) | split
    | apply addResult_within)

theorem finishNop_within {fp : List Part} {s0 s : State} (k pos op : Nat) (hk : Within fp s0 s)
    (hm : Covers [.front, .chest, .jnl] fp :=
      by exact Covers.sub ‹Covers _ _› (by decide)) :
    Within fp s0 (finishNop k pos op s) := by
  unfold finishNop; try dsimp only
  repeat' (with_reducible first
    | exact hk | exact hm.sub (by decide) | (refine Within.ite (fun _ => ?_) (fun _ => ?_)) | split
    | apply begun_within | apply finishOk_within)

theorem opTimestamp_within {fp : List Part} {s0 s : State} (c q pos : Nat) (hk : Within fp s0 s)
    (hm : Covers [.front, .chest, .jnl] fp :=
      by exact Covers.sub ‹Covers _ _› (by decide)) :
    Within fp s0 (opTimestamp c q pos s) := by
  unfold opTimestamp; try dsimp only
  repeat' (with_reducible first
    | exact hk | exact hm.sub (by decide) | (refine Within.ite (fun _ => ?_) (fun _ => ?_)) | split
    | apply begun_within | apply finishOk_within | apply putResult_within)

theorem opObjFree_within {fp : List Part} {s0 s : State} (c q pos : Nat) (hk : Within fp s0 s)
    (hm : Covers [.port, .mem, .hub, .objects, .graphs, .front, .bramble, .slices, .wrd, .chest, .jnl] fp :=
      by exact Covers.sub ‹Covers _ _› (by decide)) :
    Within fp s0 (opObjFree c q pos s) := by
  unfold opObjFree; try dsimp only
  repeat' (with_reducible first
    | exact hk | exact hm.sub (by decide) | (fail_if_no_progress refine Within.objects ?_ (hm.sub (by decide)) _)
    | (refine Within.ite (fun _ => ?_) (fun _ => ?_)) | split | apply State.modC_within | apply begun_within
    | apply finish_within | apply finishOk_within | apply reapModels_within | apply unpin_within)

theorem opBarrierJoin_within {fp : List Part} {s0 s : State} (c q pos : Nat) (hk : Within fp s0 s)
    (hm : Covers [.port, .front, .chest, .jnl] fp :=
      by exact Covers.sub ‹Covers _ _› (by decide)) :
    Within fp s0 (opBarrierJoin c q pos s) := by
  unfold opBarrierJoin; try dsimp only
  repeat' (with_reducible first
    | exact hk | exact hm.sub (by decide) | (refine Within.ite (fun _ => ?_) (fun _ => ?_)) | split
    | apply begun_within | apply emit_within)

theorem abortTarget_within {fp : List Part} {s0 s : State} (k t : Nat) (hk : Within fp s0 s)
    (hm : Covers [.port, .hub, .contexts, .front, .bramble, .slices, .trestle, .sched, .wrd, .chest, .watch,
        .jnl, .power, .link] fp :=
      by exact Covers.sub ‹Covers _ _› (by decide)) :
    Within fp s0 (abortTarget k t s) := by
  unfold abortTarget; try dsimp only
  repeat' (with_reducible first
    | exact hk | exact hm.sub (by decide) | (refine Within.ite (fun _ => ?_) (fun _ => ?_)) | split
    | apply State.modC_within | apply State.modQ_within | apply dropCmdCells_within | apply dropItem_within
    | apply dropShadows_within | apply settleStops_within | apply stopWork_within)

theorem abortAnswer_within {fp : List Part} {s0 s : State} (c k : Nat) (m : Cmd) (v : Nat) (hk : Within fp s0 s)
    (hm : Covers [.port, .mem, .hub] fp :=
      by exact Covers.sub ‹Covers _ _› (by decide)) :
    Within fp s0 (abortAnswer c k m v s) := by
  unfold abortAnswer; try dsimp only
  repeat' (with_reducible first
    | exact hk | exact hm.sub (by decide) | (refine Within.ite (fun _ => ?_) (fun _ => ?_)) | split
    | apply locWrite_within)

theorem opAbort_within {fp : List Part} {s0 s : State} (c q pos : Nat) (hk : Within fp s0 s)
    (hm : Covers [.port, .mem, .hub, .contexts, .front, .bramble, .slices, .trestle, .sched, .wrd, .chest,
        .watch, .jnl, .power, .link] fp :=
      by exact Covers.sub ‹Covers _ _› (by decide)) :
    Within fp s0 (opAbort c q pos s) := by
  unfold opAbort; try dsimp only
  repeat' (with_reducible first
    | exact hk | exact hm.sub (by decide) | (refine Within.ite (fun _ => ?_) (fun _ => ?_)) | split
    | apply abortAnswer_within | apply abortTarget_within | apply begun_within | apply finish_within
    | apply finishOk_within)

theorem askPatch_within {fp : List Part} {s0 s : State} (c : Nat) (m : Cmd) (hk : Within fp s0 s)
    (hm : Covers [.port] fp :=
      by exact Covers.sub ‹Covers _ _› (by decide)) :
    Within fp s0 (askPatch c m s) := by
  unfold askPatch; try dsimp only
  repeat' (with_reducible first
    | exact hk | exact hm.sub (by decide) | (refine Within.ite (fun _ => ?_) (fun _ => ?_)) | split
    | apply readReq_within)

theorem opGraphPatch_within {fp : List Part} {s0 s : State} (c q pos : Nat) (hk : Within fp s0 s)
    (hm : Covers [.port, .front, .chest, .jnl] fp :=
      by exact Covers.sub ‹Covers _ _› (by decide)) :
    Within fp s0 (opGraphPatch c q pos s) := by
  unfold opGraphPatch; try dsimp only
  repeat' (with_reducible first
    | exact hk | exact hm.sub (by decide) | (refine Within.ite (fun _ => ?_) (fun _ => ?_)) | split
    | apply askPatch_within | apply askPayload_within
    | (refine Within.of_snd ‹askPayload _ _ _ _ = _› (askPayload_within _ _ _ ?_)) | apply begun_within)

theorem opLaunchGraph_within {fp : List Part} {s0 s : State} (c q pos : Nat) (hk : Within fp s0 s)
    (hm : Covers [.port, .hub, .contexts, .front, .bramble, .slices, .trestle, .sched, .wrd, .chest, .watch,
        .jnl, .power] fp :=
      by exact Covers.sub ‹Covers _ _› (by decide)) :
    Within fp s0 (opLaunchGraph c q pos s) := by
  unfold opLaunchGraph; try dsimp only
  repeat' (with_reducible first
    | exact hk | exact hm.sub (by decide) | (refine Within.ite (fun _ => ?_) (fun _ => ?_)) | split
    | apply addJob_within | apply begun_within | apply decisionPass_within | apply dropShadows_within
    | apply finish_within)

theorem opQuery_within {fp : List Part} {s0 s : State} (c q pos : Nat) (hk : Within fp s0 s)
    (hm : Covers [.front, .chest, .jnl] fp :=
      by exact Covers.sub ‹Covers _ _› (by decide)) :
    Within fp s0 (opQuery c q pos s) := by
  unfold opQuery; try dsimp only
  repeat' (with_reducible first
    | exact hk | exact hm.sub (by decide) | (refine Within.ite (fun _ => ?_) (fun _ => ?_)) | split
    | apply begun_within | apply finishOk_within | apply putResult_within)

theorem verdict_within {fp : List Part} {s0 s : State} (k : List Stuck) (hk : Within fp s0 s)
    (hm : Covers [.port, .mem, .hub, .contexts, .objects, .front, .bramble, .slices, .trestle, .sched, .wrd,
        .chest, .watch, .hutch, .jnl, .power, .link] fp :=
      by exact Covers.sub ‹Covers _ _› (by decide)) :
    Within fp s0 (verdict k s) := by
  unfold verdict; try dsimp only
  repeat' (with_reducible first
    | exact hk | exact hm.sub (by decide) | (fail_if_no_progress refine Within.bramble ?_ (hm.sub (by decide)) _)
    | (refine Within.ite (fun _ => ?_) (fun _ => ?_)) | split | apply faultCmd_within | apply raiseEvent_within)

theorem deadlockScan_within {fp : List Part} {s0 s : State} (hk : Within fp s0 s)
    (hm : Covers [.port, .mem, .hub, .contexts, .objects, .front, .bramble, .slices, .trestle, .sched, .wrd,
        .chest, .watch, .hutch, .jnl, .power, .link] fp :=
      by exact Covers.sub ‹Covers _ _› (by decide)) :
    Within fp s0 (deadlockScan s) := by
  unfold deadlockScan; try dsimp only
  repeat' (with_reducible first
    | exact hk | exact hm.sub (by decide) | (fail_if_no_progress refine Within.bramble ?_ (hm.sub (by decide)) _)
    | (refine Within.ite (fun _ => ?_) (fun _ => ?_)) | split | apply verdict_within)

theorem convertFrame_within {fp : List Part} {s0 s : State} (f fmt : Nat) (hk : Within fp s0 s)
    (hm : Covers [.mem, .wrd] fp :=
      by exact Covers.sub ‹Covers _ _› (by decide)) :
    Within fp s0 (convertFrame f fmt s) := by
  unfold convertFrame; try dsimp only
  repeat' (with_reducible first
    | exact hk | exact hm.sub (by decide) | (refine Within.ite (fun _ => ?_) (fun _ => ?_)) | split
    | apply memWrite_within | apply memZero_within | apply setFrame_within)

theorem journalConvert_within {fp : List Part} {s0 s : State} (l f fmt step : Nat) (hk : Within fp s0 s)
    (hm : Covers [.trestle, .chest, .jnl] fp :=
      by exact Covers.sub ‹Covers _ _› (by decide)) :
    Within fp s0 (journalConvert l f fmt step s) := by
  unfold journalConvert; try dsimp only
  repeat' (with_reducible first
    | exact hk | exact hm.sub (by decide) | (refine Within.ite (fun _ => ?_) (fun _ => ?_)) | split | assumption
    | apply Within.foldl | intro _ _ _ | apply journal_within)

theorem State.modStats_within {fp : List Part} {s0 s : State} (l : Nat) (f : LoopStats → LoopStats)
    (hk : Within fp s0 s)
    (hm : Covers [.trestle] fp :=
      by exact Covers.sub ‹Covers _ _› (by decide)) :
    Within fp s0 (State.modStats s l f) := by
  unfold State.modStats; try dsimp only
  repeat' (with_reducible first
    | exact hk | exact hm.sub (by decide) | (refine Within.ite (fun _ => ?_) (fun _ => ?_)) | split
    | apply State.modLoop_within)

theorem countDemoted_within {fp : List Part} {s0 s : State} (l fmt : Nat) (mean : Option Nat)
    (hk : Within fp s0 s)
    (hm : Covers [.trestle] fp :=
      by exact Covers.sub ‹Covers _ _› (by decide)) :
    Within fp s0 (countDemoted l fmt mean s) := by
  unfold countDemoted; try dsimp only
  repeat' (with_reducible first
    | exact hk | exact hm.sub (by decide) | (refine Within.ite (fun _ => ?_) (fun _ => ?_)) | split
    | apply State.modStats_within)

theorem State.modCore_within {fp : List Part} {s0 s : State} (k : Nat) (f : Core → Core) (hk : Within fp s0 s)
    (hm : Covers [.mgmt] fp :=
      by exact Covers.sub ‹Covers _ _› (by decide)) :
    Within fp s0 (State.modCore s k f) := by
  unfold State.modCore; try dsimp only
  repeat' (with_reducible first
    | exact hk | exact hm.sub (by decide) | (fail_if_no_progress refine Within.mgmt ?_ (hm.sub (by decide)) _)
    | (refine Within.ite (fun _ => ?_) (fun _ => ?_)) | split)

theorem pushWork_within {fp : List Part} {s0 s : State} (k : Nat) (w : Work) (hk : Within fp s0 s)
    (hm : Covers [.mgmt] fp :=
      by exact Covers.sub ‹Covers _ _› (by decide)) :
    Within fp s0 (pushWork k w s) := by
  unfold pushWork; try dsimp only
  repeat' (with_reducible first
    | exact hk | exact hm.sub (by decide) | (refine Within.ite (fun _ => ?_) (fun _ => ?_)) | split
    | apply State.modCore_within)

theorem doneWork_within {fp : List Part} {s0 s : State} (k : Nat) (w : Work) (hk : Within fp s0 s)
    (hm : Covers [.mgmt] fp :=
      by exact Covers.sub ‹Covers _ _› (by decide)) :
    Within fp s0 (doneWork k w s) := by
  unfold doneWork; try dsimp only
  repeat' (with_reducible first
    | exact hk | exact hm.sub (by decide) | (refine Within.ite (fun _ => ?_) (fun _ => ?_)) | split
    | apply State.modCore_within)

theorem State.modModel_within {fp : List Part} {s0 s : State} (k : Nat) (f : Model → Model)
    (hk : Within fp s0 s)
    (hm : Covers [.wrd] fp :=
      by exact Covers.sub ‹Covers _ _› (by decide)) :
    Within fp s0 (State.modModel s k f) := by
  unfold State.modModel; try dsimp only
  repeat' (with_reducible first
    | exact hk | exact hm.sub (by decide) | (fail_if_no_progress refine Within.wrd ?_ (hm.sub (by decide)) _)
    | (refine Within.ite (fun _ => ?_) (fun _ => ?_)) | split)

theorem demandModel_within {fp : List Part} {s0 s : State} (k : Nat) (hk : Within fp s0 s)
    (hm : Covers [.wrd, .mgmt] fp :=
      by exact Covers.sub ‹Covers _ _› (by decide)) :
    Within fp s0 (demandModel k s) := by
  unfold demandModel; try dsimp only
  repeat' (with_reducible first
    | exact hk | exact hm.sub (by decide) | (refine Within.ite (fun _ => ?_) (fun _ => ?_)) | split
    | apply State.modModel_within | apply pushWork_within)

theorem evictModel_within {fp : List Part} {s0 s : State} (k : Nat) (hk : Within fp s0 s)
    (hm : Covers [.wrd] fp :=
      by exact Covers.sub ‹Covers _ _› (by decide)) :
    Within fp s0 (evictModel k s) := by
  unfold evictModel; try dsimp only
  repeat' (with_reducible first
    | exact hk | exact hm.sub (by decide) | (refine Within.ite (fun _ => ?_) (fun _ => ?_)) | split
    | apply State.modModel_within | apply freeFrames_within | apply stopJobs_within)

theorem redemand_within {fp : List Part} {s0 s : State} (k : Nat) (hk : Within fp s0 s)
    (hm : Covers [.wrd, .mgmt] fp :=
      by exact Covers.sub ‹Covers _ _› (by decide)) :
    Within fp s0 (redemand k s) := by
  unfold redemand; try dsimp only
  repeat' (with_reducible first
    | exact hk | exact hm.sub (by decide) | (refine Within.ite (fun _ => ?_) (fun _ => ?_)) | split
    | apply demandModel_within)

theorem makeRoom_within {fp : List Part} {s0 : State} (req f n : Nat) {s : State} (hk : Within fp s0 s)
    (hm : Covers [.wrd] fp :=
      by exact Covers.sub ‹Covers _ _› (by decide)) : Within fp s0 (makeRoom req f n s).1 := by
  induction n generalizing s with
  | zero => exact hk
  | succ n ih =>
    simp only [makeRoom]
    split
    · exact hk
    · split
      · exact ih (evictModel_within _ hk)
      · exact hk

theorem takeModel_within {fp : List Part} {s0 s : State} (k : Nat) (fs : List Nat) (hk : Within fp s0 s)
    (hm : Covers [.wrd, .watch] fp :=
      by exact Covers.sub ‹Covers _ _› (by decide)) :
    Within fp s0 (takeModel k fs s) := by
  unfold takeModel; try dsimp only
  repeat' (with_reducible first
    | exact hk | exact hm.sub (by decide) | (refine Within.ite (fun _ => ?_) (fun _ => ?_)) | split | assumption
    | apply Within.foldl | intro _ _ _ | apply State.modModel_within | apply allocFrame_within)

theorem fillModel_within {fp : List Part} {s0 s : State} (k : Nat) (hk : Within fp s0 s)
    (hm : Covers [.wrd, .watch] fp :=
      by exact Covers.sub ‹Covers _ _› (by decide)) :
    Within fp s0 (fillModel k s) := by
  unfold fillModel; try dsimp only
  repeat' (with_reducible first
    | exact hk | exact hm.sub (by decide) | (refine Within.ite (fun _ => ?_) (fun _ => ?_)) | split
    | apply startJob_within)

theorem modelWork_within {fp : List Part} {s0 s : State} (k : Nat) (hk : Within fp s0 s)
    (hm : Covers [.wrd, .watch, .mgmt] fp :=
      by exact Covers.sub ‹Covers _ _› (by decide)) :
    Within fp s0 (modelWork k s) := by
  unfold modelWork; try dsimp only
  repeat' (with_reducible first
    | exact hk | exact hm.sub (by decide) | (refine Within.ite (fun _ => ?_) (fun _ => ?_)) | split
    | apply doneWork_within | apply fillModel_within)

theorem missFill_within {fp : List Part} {s0 s : State} (k : Nat) (frames : List Nat) (hk : Within fp s0 s)
    (hm : Covers [.wrd, .watch, .mgmt] fp :=
      by exact Covers.sub ‹Covers _ _› (by decide)) :
    Within fp s0 (missFill k frames s) := by
  unfold missFill; try dsimp only
  repeat' (with_reducible first
    | exact hk | exact hm.sub (by decide) | (refine Within.ite (fun _ => ?_) (fun _ => ?_)) | split
    | apply doneWork_within | apply fillModel_within | apply makeRoom_within
    | (refine Within.of_fst ‹makeRoom _ _ _ _ = _› (makeRoom_within _ _ _ ?_)) | apply takeModel_within)

theorem modelLanded_within {fp : List Part} {s0 s : State} (k : Nat) (hk : Within fp s0 s)
    (hm : Covers [.port, .mem, .hub, .objects, .graphs, .front, .bramble, .slices, .wrd, .chest, .jnl, .mgmt]
        fp :=
      by exact Covers.sub ‹Covers _ _› (by decide)) :
    Within fp s0 (modelLanded k s) := by
  unfold modelLanded; try dsimp only
  repeat' (with_reducible first
    | exact hk | exact hm.sub (by decide) | (refine Within.ite (fun _ => ?_) (fun _ => ?_)) | split | assumption
    | apply Within.foldl | intro _ _ _ | apply State.modModel_within | apply doneWork_within
    | apply finishOk_within | apply reapModel_within)

theorem lostRecord_within {fp : List Part} {s0 s : State} (q : Seq) (f : Nat) (hk : Within fp s0 s)
    (hm : Covers [.port, .mem, .hutch] fp :=
      by exact Covers.sub ‹Covers _ _› (by decide)) :
    Within fp s0 (lostRecord q f s) := by
  unfold lostRecord; try dsimp only
  repeat' (with_reducible first
    | exact hk | exact hm.sub (by decide) | (refine Within.ite (fun _ => ?_) (fun _ => ?_)) | split
    | apply hutchRec_within)

theorem endVerdict_within {fp : List Part} {s0 s : State} (i : Nat) (hk : Within fp s0 s)
    (hm : Covers [.port, .mem, .hub, .objects, .graphs, .front, .bramble, .slices, .trestle, .wrd, .chest,
        .hutch, .jnl] fp :=
      by exact Covers.sub ‹Covers _ _› (by decide)) :
    Within fp s0 (endVerdict i s) := by
  unfold endVerdict; try dsimp only
  repeat' (with_reducible first
    | exact hk | exact hm.sub (by decide) | (refine Within.ite (fun _ => ?_) (fun _ => ?_)) | split
    | apply endSeq_within | apply lostRecord_within)

theorem loseHolder_within {fp : List Part} {s0 s : State} (f : Nat) (uncorrectable : Bool) (i : Nat)
    (hk : Within fp s0 s)
    (hm : Covers [.port, .mem, .hub, .objects, .graphs, .front, .bramble, .slices, .trestle, .wrd, .chest,
        .hutch, .jnl] fp :=
      by exact Covers.sub ‹Covers _ _› (by decide)) :
    Within fp s0 (loseHolder f uncorrectable i s) := by
  unfold loseHolder; try dsimp only
  repeat' (with_reducible first
    | exact hk | exact hm.sub (by decide) | (refine Within.ite (fun _ => ?_) (fun _ => ?_)) | split
    | apply State.modSeq_within | apply endSeq_within | apply lostRecord_within)

theorem losePage_within {fp : List Part} {s0 s : State} (at_ : Nat) (uncorrectable : Bool) (hk : Within fp s0 s)
    (hm : Covers [.port, .mem, .hub, .contexts, .objects, .graphs, .front, .bramble, .slices, .trestle, .sched,
        .wrd, .chest, .watch, .hutch, .jnl, .power] fp :=
      by exact Covers.sub ‹Covers _ _› (by decide)) :
    Within fp s0 (losePage at_ uncorrectable s) := by
  unfold losePage; try dsimp only
  repeat' (with_reducible first
    | exact hk | exact hm.sub (by decide) | (refine Within.ite (fun _ => ?_) (fun _ => ?_)) | split | assumption
    | apply Within.foldl | intro _ _ _ | apply State.modStats_within | apply closeIfDone_within
    | apply loseHolder_within | apply modEntry_within | apply setFrame_within)

theorem mapMove_within {fp : List Part} {s0 s : State} (f dst : Nat) (hk : Within fp s0 s)
    (hm : Covers [.wrd, .watch, .jnl] fp :=
      by exact Covers.sub ‹Covers _ _› (by decide)) :
    Within fp s0 (mapMove f dst s) := by
  unfold mapMove; try dsimp only
  repeat' (with_reducible first
    | exact hk | exact hm.sub (by decide) | (refine Within.ite (fun _ => ?_) (fun _ => ?_)) | split
    | apply movePage_within | apply setFrame_within | apply startJob_within)

theorem follow_within {fp : List Part} {s0 s : State} (f dst : Nat) (hk : Within fp s0 s)
    (hm : Covers [.contexts, .sched, .wrd] fp :=
      by exact Covers.sub ‹Covers _ _› (by decide)) :
    Within fp s0 (follow f dst s) := by
  unfold follow; try dsimp only
  repeat' (with_reducible first
    | exact hk | exact hm.sub (by decide)
    | (fail_if_no_progress refine Within.contexts_sched_wrd ?_ (hm.sub (by decide)) _ _ _)
    | (refine Within.ite (fun _ => ?_) (fun _ => ?_)) | split)

theorem leaveFrame_within {fp : List Part} {s0 s : State} (f : Nat) (dst : Option Nat) (hk : Within fp s0 s)
    (hm : Covers [.wrd, .watch, .jnl, .mgmt] fp :=
      by exact Covers.sub ‹Covers _ _› (by decide)) :
    Within fp s0 (leaveFrame f dst s) := by
  unfold leaveFrame; try dsimp only
  repeat' (with_reducible first
    | exact hk | exact hm.sub (by decide) | (refine Within.ite (fun _ => ?_) (fun _ => ?_)) | split
    | apply evictModel_within | apply freeFrame_within | apply mapMove_within | apply redemand_within)

theorem forgetSave_within {fp : List Part} {s0 s : State} (f : Nat) (hk : Within fp s0 s)
    (hm : Covers [.contexts, .sched] fp :=
      by exact Covers.sub ‹Covers _ _› (by decide)) :
    Within fp s0 (forgetSave f s) := by
  unfold forgetSave; try dsimp only
  repeat' (with_reducible first
    | exact hk | exact hm.sub (by decide)
    | (fail_if_no_progress refine Within.contexts_sched ?_ (hm.sub (by decide)) _ _)
    | (refine Within.ite (fun _ => ?_) (fun _ => ?_)) | split)

theorem loseFrame_within {fp : List Part} {s0 s : State} (f : Nat) (hk : Within fp s0 s)
    (hm : Covers [.port, .mem, .hub, .contexts, .objects, .graphs, .front, .bramble, .slices, .trestle, .sched,
        .wrd, .chest, .watch, .hutch, .jnl, .mgmt, .power, .link] fp :=
      by exact Covers.sub ‹Covers _ _› (by decide)) :
    Within fp s0 (loseFrame f s) := by
  unfold loseFrame; try dsimp only
  repeat' (with_reducible first
    | exact hk | exact hm.sub (by decide) | (refine Within.ite (fun _ => ?_) (fun _ => ?_)) | split
    | apply beginTeardown_within | apply evictModel_within | apply forgetSave_within | apply freeFrame_within
    | apply losePage_within | apply redemand_within)

theorem tearArena_within {fp : List Part} {s0 s : State} (m : Mapout) (hk : Within fp s0 s)
    (hm : Covers [.port, .mem, .hub, .contexts, .objects, .front, .bramble, .slices, .trestle, .sched, .wrd,
        .chest, .watch, .hutch, .jnl, .power, .link] fp :=
      by exact Covers.sub ‹Covers _ _› (by decide)) :
    Within fp s0 (tearArena m s) := by
  unfold tearArena; try dsimp only
  repeat' (with_reducible first
    | exact hk | exact hm.sub (by decide) | (refine Within.ite (fun _ => ?_) (fun _ => ?_)) | split | assumption
    | apply Within.foldl | intro _ _ _ | apply beginTeardown_within)

theorem mapoutEnd_within {fp : List Part} {s0 s : State} (m : Mapout) (hk : Within fp s0 s)
    (hm : Covers [.port, .mem, .wrd, .hutch] fp :=
      by exact Covers.sub ‹Covers _ _› (by decide)) :
    Within fp s0 (mapoutEnd m s) := by
  unfold mapoutEnd; try dsimp only
  repeat' (with_reducible first
    | exact hk | exact hm.sub (by decide) | (fail_if_no_progress refine Within.wrd ?_ (hm.sub (by decide)) _)
    | (refine Within.ite (fun _ => ?_) (fun _ => ?_)) | split | apply hutchRec_within | apply notify_within)

theorem startMapout_within {fp : List Part} {s0 s : State} (m : Mapout) (hk : Within fp s0 s)
    (hm : Covers [.port, .mem, .hub, .contexts, .objects, .graphs, .front, .bramble, .slices, .trestle, .sched,
        .wrd, .chest, .watch, .hutch, .jnl, .mgmt, .power, .link] fp :=
      by exact Covers.sub ‹Covers _ _› (by decide)) :
    Within fp s0 (startMapout m s) := by
  unfold startMapout; try dsimp only
  repeat' (with_reducible first
    | exact hk | exact hm.sub (by decide) | (fail_if_no_progress refine Within.hutch ?_ (hm.sub (by decide)) _)
    | (fail_if_no_progress refine Within.wrd ?_ (hm.sub (by decide)) _)
    | (refine Within.ite (fun _ => ?_) (fun _ => ?_)) | split | assumption | apply Within.foldl | intro _ _ _
    | apply State.modSlice_within | apply capacityEvent_within | apply leaveFrame_within | apply loseFrame_within
    | apply orderStage4_within | apply tearArena_within)

theorem finishTest_within {fp : List Part} {s0 s : State} (k pos word : Nat) (hk : Within fp s0 s)
    (hm : Covers [.front] fp :=
      by exact Covers.sub ‹Covers _ _› (by decide)) :
    Within fp s0 (finishTest k pos word s) := by
  unfold finishTest; try dsimp only
  repeat' (with_reducible first
    | exact hk | exact hm.sub (by decide) | (refine Within.ite (fun _ => ?_) (fun _ => ?_)) | split
    | apply finishOk_within | apply putResult_within)

theorem failTest_within {fp : List Part} {s0 s : State} (p : Nat) (hk : Within fp s0 s)
    (hm : Covers [.mgmt, .power] fp :=
      by exact Covers.sub ‹Covers _ _› (by decide)) :
    Within fp s0 (failTest p s) := by
  unfold failTest; try dsimp only
  repeat' (with_reducible first
    | exact hk | exact hm.sub (by decide) | (fail_if_no_progress refine Within.power ?_ (hm.sub (by decide)) _)
    | (refine Within.ite (fun _ => ?_) (fun _ => ?_)) | split | apply pushWork_within)

theorem testEnd_within {fp : List Part} {s0 s : State} (p detail : Nat) (hk : Within fp s0 s)
    (hm : Covers [.front, .mgmt, .power] fp :=
      by exact Covers.sub ‹Covers _ _› (by decide)) :
    Within fp s0 (testEnd p detail s) := by
  unfold testEnd; try dsimp only
  repeat' (with_reducible first
    | exact hk | exact hm.sub (by decide) | (fail_if_no_progress refine Within.power ?_ (hm.sub (by decide)) _)
    | (refine Within.ite (fun _ => ?_) (fun _ => ?_)) | split | apply doneWork_within | apply finishTest_within)

theorem settlePart_within {fp : List Part} {s0 s : State} (p : Nat) (hk : Within fp s0 s)
    (hm : Covers [.port, .mem, .hub, .front, .sched, .watch, .hutch, .jnl, .mgmt, .power] fp :=
      by exact Covers.sub ‹Covers _ _› (by decide)) :
    Within fp s0 (settlePart p s) := by
  unfold settlePart; try dsimp only
  repeat' (with_reducible first
    | exact hk | exact hm.sub (by decide) | (fail_if_no_progress refine Within.sched ?_ (hm.sub (by decide)) _)
    | (refine Within.ite (fun _ => ?_) (fun _ => ?_)) | split | apply dropStage_within | apply emitAll_within
    | apply rstDone_within | apply setBenches_within | apply stageEnd_within | apply testEnd_within
    | apply trace_within)

theorem beginMapout_within {fp : List Part} {s0 s : State} (m : Mapout) (hk : Within fp s0 s)
    (hm : Covers [.port, .mem, .hub, .contexts, .objects, .graphs, .front, .bramble, .slices, .trestle, .sched,
        .wrd, .chest, .watch, .hutch, .jnl, .mgmt, .power, .link] fp :=
      by exact Covers.sub ‹Covers _ _› (by decide)) :
    Within fp s0 (beginMapout m s) := by
  unfold beginMapout; try dsimp only
  repeat' (with_reducible first
    | exact hk | exact hm.sub (by decide) | (refine Within.ite (fun _ => ?_) (fun _ => ?_)) | split
    | apply settlePart_within | apply startMapout_within)

theorem settleMapout_within {fp : List Part} {s0 : State} (n : Nat) {s : State} (hk : Within fp s0 s)
    (hm : Covers [.port, .mem, .hub, .contexts, .objects, .graphs, .front, .bramble, .slices, .trestle, .sched,
        .wrd, .chest, .watch, .hutch, .jnl, .mgmt, .power, .link] fp :=
      by exact Covers.sub ‹Covers _ _› (by decide)) : Within fp s0 (settleMapout n s) := by
  induction n generalizing s with
  | zero => exact hk
  | succ n ih =>
    simp only [settleMapout]
    repeat' (with_reducible first
      | exact hk | apply ih | exact hm.sub (by decide) | (fail_if_no_progress refine Within.wrd ?_ (hm.sub (by decide)) _)
      | (refine Within.ite (fun _ => ?_) (fun _ => ?_)) | split | apply beginMapout_within
      | apply capacityEvent_within | apply mapoutEnd_within)

theorem checkMapout_within {fp : List Part} {s0 s : State} (hk : Within fp s0 s)
    (hm : Covers [.port, .mem, .hub, .contexts, .objects, .graphs, .front, .bramble, .slices, .trestle, .sched,
        .wrd, .chest, .watch, .hutch, .jnl, .mgmt, .power, .link] fp :=
      by exact Covers.sub ‹Covers _ _› (by decide)) :
    Within fp s0 (checkMapout s) := by
  unfold checkMapout; try dsimp only
  repeat' (with_reducible first
    | exact hk | exact hm.sub (by decide) | (refine Within.ite (fun _ => ?_) (fun _ => ?_)) | split
    | apply settleMapout_within)

theorem mapoutRequest_within {fp : List Part} {s0 s : State} (tier : Tier) (ch : Nat) (lost : Bool)
    (units : List Nat) (source : Nat) (hk : Within fp s0 s)
    (hm : Covers [.port, .mem, .hub, .contexts, .objects, .graphs, .front, .bramble, .slices, .trestle, .sched,
        .wrd, .chest, .watch, .hutch, .jnl, .mgmt, .power, .link] fp :=
      by exact Covers.sub ‹Covers _ _› (by decide)) :
    Within fp s0 (mapoutRequest tier ch lost units source s) := by
  unfold mapoutRequest; try dsimp only
  repeat' (with_reducible first
    | exact hk | exact hm.sub (by decide) | (fail_if_no_progress refine Within.wrd ?_ (hm.sub (by decide)) _)
    | (refine Within.ite (fun _ => ?_) (fun _ => ?_)) | split | apply checkMapout_within | apply doneWork_within)

theorem demotePage_within {fp : List Part} {s0 s : State} (f : Nat) (convert early background : Bool)
    (ctx : Option Nat) (dst : Option Nat) (hk : Within fp s0 s)
    (hm : Covers [.wrd, .watch, .jnl] fp :=
      by exact Covers.sub ‹Covers _ _› (by decide)) :
    Within fp s0 (demotePage f convert early background ctx dst s) := by
  unfold demotePage; try dsimp only
  repeat' (with_reducible first
    | exact hk | exact hm.sub (by decide) | (refine Within.ite (fun _ => ?_) (fun _ => ?_)) | split
    | apply movePage_within)

theorem demoteCold_within {fp : List Part} {s0 s : State} (n t : Nat) (ctx : Option Nat) (choice : List Nat)
    (hk : Within fp s0 s)
    (hm : Covers [.wrd, .watch, .jnl] fp :=
      by exact Covers.sub ‹Covers _ _› (by decide)) :
    Within fp s0 (demoteCold n t ctx choice s) := by
  unfold demoteCold; try dsimp only
  repeat' (with_reducible first
    | exact hk | exact hm.sub (by decide) | (refine Within.ite (fun _ => ?_) (fun _ => ?_)) | split | assumption
    | apply Within.foldl | intro _ _ _ | apply demotePage_within)

theorem backgroundDemote_within {fp : List Part} {s0 s : State} (f dst : Nat) (hk : Within fp s0 s)
    (hm : Covers [.wrd, .watch, .jnl] fp :=
      by exact Covers.sub ‹Covers _ _› (by decide)) :
    Within fp s0 (backgroundDemote f dst s) := by
  unfold backgroundDemote; try dsimp only
  repeat' (with_reducible first
    | exact hk | exact hm.sub (by decide) | (refine Within.ite (fun _ => ?_) (fun _ => ?_)) | split
    | apply demotePage_within)

theorem promotePage_within {fp : List Part} {s0 s : State} (f : Nat) (background : Bool) (ctx : Option Nat)
    (dst : Option Nat) (hk : Within fp s0 s)
    (hm : Covers [.wrd, .watch, .jnl] fp :=
      by exact Covers.sub ‹Covers _ _› (by decide)) :
    Within fp s0 (promotePage f background ctx dst s) := by
  unfold promotePage; try dsimp only
  repeat' (with_reducible first
    | exact hk | exact hm.sub (by decide) | (refine Within.ite (fun _ => ?_) (fun _ => ?_)) | split
    | apply movePage_within)

theorem backgroundPromote_within {fp : List Part} {s0 s : State} (f dst : Nat) (hk : Within fp s0 s)
    (hm : Covers [.wrd, .watch, .jnl] fp :=
      by exact Covers.sub ‹Covers _ _› (by decide)) :
    Within fp s0 (backgroundPromote f dst s) := by
  unfold backgroundPromote; try dsimp only
  repeat' (with_reducible first
    | exact hk | exact hm.sub (by decide) | (refine Within.ite (fun _ => ?_) (fun _ => ?_)) | split
    | apply promotePage_within)

theorem backgroundZero_within {fp : List Part} {s0 s : State} (f : Nat) (hk : Within fp s0 s)
    (hm : Covers [.wrd, .watch] fp :=
      by exact Covers.sub ‹Covers _ _› (by decide)) :
    Within fp s0 (backgroundZero f s) := by
  unfold backgroundZero; try dsimp only
  repeat' (with_reducible first
    | exact hk | exact hm.sub (by decide) | (refine Within.ite (fun _ => ?_) (fun _ => ?_)) | split
    | apply startJob_within)

theorem wardrobeSweep_within {fp : List Part} {s0 s : State} (n : Nat) (hk : Within fp s0 s)
    (hm : Covers [.wrd] fp :=
      by exact Covers.sub ‹Covers _ _› (by decide)) :
    Within fp s0 (wardrobeSweep n s) := by
  unfold wardrobeSweep; try dsimp only
  repeat' (with_reducible first
    | exact hk | exact hm.sub (by decide) | (fail_if_no_progress refine Within.wrd ?_ (hm.sub (by decide)) _)
    | (refine Within.ite (fun _ => ?_) (fun _ => ?_)) | split)

theorem frameTableBuilt_within {fp : List Part} {s0 s : State} (hk : Within fp s0 s)
    (hm : Covers [.wrd] fp :=
      by exact Covers.sub ‹Covers _ _› (by decide)) :
    Within fp s0 (frameTableBuilt s) := by
  unfold frameTableBuilt; try dsimp only
  repeat' (with_reducible first
    | exact hk | exact hm.sub (by decide) | (fail_if_no_progress refine Within.wrd ?_ (hm.sub (by decide)) _)
    | (refine Within.ite (fun _ => ?_) (fun _ => ?_)) | split)

theorem carryPage_within {fp : List Part} {s0 s : State} (src dst n : Nat) (hk : Within fp s0 s)
    (hm : Covers [.mem] fp :=
      by exact Covers.sub ‹Covers _ _› (by decide)) :
    Within fp s0 (carryPage src dst n s) := by
  unfold carryPage; try dsimp only
  repeat' (with_reducible first
    | exact hk | exact hm.sub (by decide) | (refine Within.ite (fun _ => ?_) (fun _ => ?_)) | split
    | apply memCopy_within | apply memZero_within)

theorem convertLanded_within {fp : List Part} {s0 s : State} (j : MoveJob) (src dst fmt l step : Nat)
    (lp : Loop) (hk : Within fp s0 s)
    (hm : Covers [.port, .mem, .hub, .trestle, .wrd, .chest, .jnl] fp :=
      by exact Covers.sub ‹Covers _ _› (by decide)) :
    Within fp s0 (convertLanded j src dst fmt l step lp s) := by
  unfold convertLanded; try dsimp only
  repeat' (with_reducible first
    | exact hk | exact hm.sub (by decide) | (refine Within.ite (fun _ => ?_) (fun _ => ?_)) | split
    | apply State.modStats_within | apply carryPage_within | apply convertFrame_within | apply countDemoted_within
    | apply journalConvert_within | apply memCopy_within | apply moverWrote_within)

theorem pageArrives_within {fp : List Part} {s0 s : State} (j : MoveJob) (src dst fmt : Nat)
    (loopId : Option Nat) (demote : Bool) (step : Nat) (hk : Within fp s0 s)
    (hm : Covers [.port, .mem, .hub, .trestle, .wrd, .chest, .jnl] fp :=
      by exact Covers.sub ‹Covers _ _› (by decide)) :
    Within fp s0 (pageArrives j src dst fmt loopId demote step s) := by
  unfold pageArrives; try dsimp only
  repeat' (with_reducible first
    | exact hk | exact hm.sub (by decide) | (refine Within.ite (fun _ => ?_) (fun _ => ?_)) | split
    | apply State.modStats_within | apply convertLanded_within | apply countDemoted_within)

theorem pageLanded_within {fp : List Part} {s0 s : State} (j : MoveJob) (src dst fmt : Nat)
    (loopId : Option Nat) (demote early : Bool) (step : Nat) (hk : Within fp s0 s)
    (hm : Covers [.port, .mem, .hub, .trestle, .wrd, .chest, .jnl] fp :=
      by exact Covers.sub ‹Covers _ _› (by decide)) :
    Within fp s0 (pageLanded j src dst fmt loopId demote early step s) := by
  unfold pageLanded; try dsimp only
  repeat' (with_reducible first
    | exact hk | exact hm.sub (by decide) | (refine Within.ite (fun _ => ?_) (fun _ => ?_)) | split
    | apply carryPage_within | apply freeFrame_within | apply moverWrote_within | apply pageArrives_within
    | apply setFrame_within | apply trace_within)

theorem frameLanded_within {fp : List Part} {s0 s : State} (src dst : Nat) (hk : Within fp s0 s)
    (hm : Covers [.contexts, .sched, .wrd] fp :=
      by exact Covers.sub ‹Covers _ _› (by decide)) :
    Within fp s0 (frameLanded src dst s) := by
  unfold frameLanded; try dsimp only
  repeat' (with_reducible first
    | exact hk | exact hm.sub (by decide) | (refine Within.ite (fun _ => ?_) (fun _ => ?_)) | split
    | apply follow_within | apply freeFrame_within)

theorem jobLanded_within {fp : List Part} {s0 s : State} (j : MoveJob) (hk : Within fp s0 s)
    (hm : Covers [.port, .mem, .hub, .contexts, .objects, .graphs, .front, .bramble, .slices, .trestle, .sched,
        .wrd, .chest, .watch, .hutch, .jnl, .mgmt, .power, .link] fp :=
      by exact Covers.sub ‹Covers _ _› (by decide)) :
    Within fp s0 (jobLanded j s) := by
  unfold jobLanded; try dsimp only
  repeat' (with_reducible first
    | exact hk | exact hm.sub (by decide) | (refine Within.ite (fun _ => ?_) (fun _ => ?_)) | split
    | apply checkMapout_within | apply finishOk_within | apply frameLanded_within | apply freeFrame_within
    | apply memZero_within | apply modelLanded_within | apply pageLanded_within | apply setFrame_within
    | apply settleStops_within)

theorem framePiece_within {fp : List Part} {s0 s : State} (j : MoveJob) (src dst n : Nat) (hk : Within fp s0 s)
    (hm : Covers [.port, .mem, .hub] fp :=
      by exact Covers.sub ‹Covers _ _› (by decide)) :
    Within fp s0 (framePiece j src dst n s) := by
  unfold framePiece; try dsimp only
  repeat' (with_reducible first
    | exact hk | exact hm.sub (by decide) | (refine Within.ite (fun _ => ?_) (fun _ => ?_)) | split
    | apply memCopy_within | apply memZero_within | apply moverRead_within | apply moverWrote_within)

theorem pieceMoved_within {fp : List Part} {s0 s : State} (j : MoveJob) (n : Nat) (hk : Within fp s0 s)
    (hm : Covers [.port, .mem, .hub] fp :=
      by exact Covers.sub ‹Covers _ _› (by decide)) :
    Within fp s0 (pieceMoved j n s) := by
  unfold pieceMoved; try dsimp only
  repeat' (with_reducible first
    | exact hk | exact hm.sub (by decide) | (refine Within.ite (fun _ => ?_) (fun _ => ?_)) | split
    | apply emitAll_within | apply framePiece_within | apply memCopy_within | apply memWrite_within
    | apply moverRead_within | apply moverWrote_within)

theorem State.modMover_within {fp : List Part} {s0 s : State} (m : Nat) (f : Mover → Mover)
    (hk : Within fp s0 s)
    (hm : Covers [.wrd] fp :=
      by exact Covers.sub ‹Covers _ _› (by decide)) :
    Within fp s0 (State.modMover s m f) := by
  unfold State.modMover; try dsimp only
  repeat' (with_reducible first
    | exact hk | exact hm.sub (by decide) | (fail_if_no_progress refine Within.wrd ?_ (hm.sub (by decide)) _)
    | (refine Within.ite (fun _ => ?_) (fun _ => ?_)) | split)

theorem moverPieceLanded_within {fp : List Part} {s0 s : State} (m : Nat) (slot : Option Nat)
    (hk : Within fp s0 s)
    (hm : Covers [.port, .mem, .hub, .contexts, .objects, .graphs, .front, .bramble, .slices, .trestle, .sched,
        .wrd, .chest, .watch, .hutch, .jnl, .mgmt, .power, .link] fp :=
      by exact Covers.sub ‹Covers _ _› (by decide)) :
    Within fp s0 (moverPieceLanded m slot s) := by
  unfold moverPieceLanded; try dsimp only
  repeat' (with_reducible first
    | exact hk | exact hm.sub (by decide) | (refine Within.ite (fun _ => ?_) (fun _ => ?_)) | split
    | apply State.modMover_within | apply jobLanded_within | apply pieceMoved_within | apply settleStops_within)

theorem opCopy_within {fp : List Part} {s0 s : State} (c q pos : Nat) (hk : Within fp s0 s)
    (hm : Covers [.front, .wrd, .chest, .watch, .jnl] fp :=
      by exact Covers.sub ‹Covers _ _› (by decide)) :
    Within fp s0 (opCopy c q pos s) := by
  unfold opCopy; try dsimp only
  repeat' (with_reducible first
    | exact hk | exact hm.sub (by decide) | (refine Within.ite (fun _ => ?_) (fun _ => ?_)) | split
    | apply begun_within | apply finish_within | apply startJob_within)

theorem opFill_within {fp : List Part} {s0 s : State} (c q pos : Nat) (hk : Within fp s0 s)
    (hm : Covers [.front, .wrd, .chest, .watch, .jnl] fp :=
      by exact Covers.sub ‹Covers _ _› (by decide)) :
    Within fp s0 (opFill c q pos s) := by
  unfold opFill; try dsimp only
  repeat' (with_reducible first
    | exact hk | exact hm.sub (by decide) | (refine Within.ite (fun _ => ?_) (fun _ => ?_)) | split
    | apply begun_within | apply finish_within | apply startJob_within)

theorem registerModel_within {fp : List Part} {s0 s : State} (c q pos : Nat) (m : Cmd) (src : Loc)
    (st : ModelState) (hk : Within fp s0 s)
    (hm : Covers [.objects, .wrd] fp :=
      by exact Covers.sub ‹Covers _ _› (by decide)) :
    Within fp s0 (registerModel c q pos m src st s) := by
  unfold registerModel; try dsimp only
  repeat' (with_reducible first
    | exact hk | exact hm.sub (by decide) | (fail_if_no_progress refine Within.wrd ?_ (hm.sub (by decide)) _)
    | (refine Within.ite (fun _ => ?_) (fun _ => ?_)) | split | apply addRef_within)

theorem opModelLoad_within {fp : List Part} {s0 s : State} (c q pos : Nat) (frames : List Nat)
    (hk : Within fp s0 s)
    (hm : Covers [.objects, .front, .wrd, .chest, .watch, .jnl, .mgmt] fp :=
      by exact Covers.sub ‹Covers _ _› (by decide)) :
    Within fp s0 (opModelLoad c q pos frames s) := by
  unfold opModelLoad; try dsimp only
  repeat' (with_reducible first
    | exact hk | exact hm.sub (by decide) | (refine Within.ite (fun _ => ?_) (fun _ => ?_)) | split
    | apply begun_within | apply finish_within | apply finishOk_within | apply makeRoom_within
    | (refine Within.of_fst ‹makeRoom _ _ _ _ = _› (makeRoom_within _ _ _ ?_)) | apply pushWork_within
    | apply registerModel_within | apply takeModel_within)

theorem opModelPin_within {fp : List Part} {s0 s : State} (c q pos : Nat) (hk : Within fp s0 s)
    (hm : Covers [.front, .wrd, .chest, .jnl, .mgmt] fp :=
      by exact Covers.sub ‹Covers _ _› (by decide)) :
    Within fp s0 (opModelPin c q pos s) := by
  unfold opModelPin; try dsimp only
  repeat' (with_reducible first
    | exact hk | exact hm.sub (by decide) | (refine Within.ite (fun _ => ?_) (fun _ => ?_)) | split
    | apply State.modModel_within | apply begun_within | apply demandModel_within | apply finish_within
    | apply finishOk_within)

theorem opModelUnpin_within {fp : List Part} {s0 s : State} (c q pos : Nat) (hk : Within fp s0 s)
    (hm : Covers [.port, .mem, .hub, .objects, .graphs, .front, .bramble, .slices, .wrd, .chest, .jnl] fp :=
      by exact Covers.sub ‹Covers _ _› (by decide)) :
    Within fp s0 (opModelUnpin c q pos s) := by
  unfold opModelUnpin; try dsimp only
  repeat' (with_reducible first
    | exact hk | exact hm.sub (by decide) | (refine Within.ite (fun _ => ?_) (fun _ => ?_)) | split
    | apply State.modModel_within | apply begun_within | apply finish_within | apply finishOk_within
    | apply reapModel_within)

theorem journalLoop_within {fp : List Part} {s0 s : State} (l tag t c g ver : Nat) (raw : List Byte) (key : Nat)
    (hk : Within fp s0 s)
    (hm : Covers [.trestle, .chest, .jnl] fp :=
      by exact Covers.sub ‹Covers _ _› (by decide)) :
    Within fp s0 (journalLoop l tag t c g ver raw key s) := by
  unfold journalLoop; try dsimp only
  repeat' (with_reducible first
    | exact hk | exact hm.sub (by decide) | (refine Within.ite (fun _ => ?_) (fun _ => ?_)) | split | assumption
    | apply Within.foldl | intro _ _ _ | apply journal_within)

theorem openLoop_within {fp : List Part} {s0 s : State} (k : Nat) (m : Cmd) (p : LoopParams) (raw : List Byte)
    (replay : Option Replay) (hk : Within fp s0 s)
    (hm : Covers [.objects, .front, .trestle, .wrd, .chest, .jnl, .mgmt] fp :=
      by exact Covers.sub ‹Covers _ _› (by decide)) :
    Within fp s0 (openLoop k m p raw replay s) := by
  unfold openLoop; try dsimp only
  repeat' (with_reducible first
    | exact hk | exact hm.sub (by decide) | (fail_if_no_progress refine Within.trestle ?_ (hm.sub (by decide)) _)
    | (refine Within.ite (fun _ => ?_) (fun _ => ?_)) | split | assumption | apply Within.foldl | intro _ _ _
    | apply State.modC_within | apply addRef_within | apply demandModel_within | apply journalLoop_within)

theorem opLoopOpen_within {fp : List Part} {s0 s : State} (c q pos : Nat) (hk : Within fp s0 s)
    (hm : Covers [.objects, .front, .trestle, .wrd, .chest, .jnl, .mgmt] fp :=
      by exact Covers.sub ‹Covers _ _› (by decide)) :
    Within fp s0 (opLoopOpen c q pos s) := by
  unfold opLoopOpen; try dsimp only
  repeat' (with_reducible first
    | exact hk | exact hm.sub (by decide) | (refine Within.ite (fun _ => ?_) (fun _ => ?_)) | split
    | apply begun_within | apply finish_within | apply finishOk_within | apply openLoop_within
    | apply putResult_within)

theorem takeSeqIndex_within {fp : List Part} {s0 s : State} (hk : Within fp s0 s)
    (hm : Covers [.trestle] fp :=
      by exact Covers.sub ‹Covers _ _› (by decide)) :
    Within fp s0 (takeSeqIndex s) := by
  unfold takeSeqIndex; try dsimp only
  repeat' (with_reducible first
    | exact hk | exact hm.sub (by decide) | (fail_if_no_progress refine Within.trestle ?_ (hm.sub (by decide)) _)
    | (refine Within.ite (fun _ => ?_) (fun _ => ?_)) | split)

theorem sharePages_within {fp : List Part} {s0 s : State} (src : Seq) (p : Nat) (hk : Within fp s0 s)
    (hm : Covers [.wrd] fp :=
      by exact Covers.sub ‹Covers _ _› (by decide)) :
    Within fp s0 (sharePages src p s) := by
  unfold sharePages; try dsimp only
  repeat' (with_reducible first
    | exact hk | exact hm.sub (by decide) | (fail_if_no_progress refine Within.wrd ?_ (hm.sub (by decide)) _)
    | (refine Within.ite (fun _ => ?_) (fun _ => ?_)) | split | assumption | apply Within.foldl | intro _ _ _
    | apply setFrame_within)

theorem admitSeq_within {fp : List Part} {s0 s : State} (l : Nat) (lp : Loop) (tag : Nat) (a : AdmitRec)
    (raw : List Byte) (src : Option Seq) (p : Nat) (hk : Within fp s0 s)
    (hm : Covers [.port, .mem, .objects, .trestle, .wrd] fp :=
      by exact Covers.sub ‹Covers _ _› (by decide)) :
    Within fp s0 (admitSeq l lp tag a raw src p s) := by
  unfold admitSeq; try dsimp only
  repeat' (with_reducible first
    | exact hk | exact hm.sub (by decide) | (fail_if_no_progress refine Within.trestle ?_ (hm.sub (by decide)) _)
    | (refine Within.ite (fun _ => ?_) (fun _ => ?_)) | split | assumption | apply Within.foldl | intro _ _ _
    | apply State.modLoop_within | apply addRef_within | apply portWrite_within | apply sharePages_within
    | apply takeSeqIndex_within)

theorem journalFences_within {fp : List Part} {s0 s : State} (l : Nat) (m : Cmd) (id : Nat)
    (hk : Within fp s0 s)
    (hm : Covers [.trestle, .chest, .jnl] fp :=
      by exact Covers.sub ‹Covers _ _› (by decide)) :
    Within fp s0 (journalFences l m id s) := by
  unfold journalFences; try dsimp only
  repeat' (with_reducible first
    | exact hk | exact hm.sub (by decide) | (refine Within.ite (fun _ => ?_) (fun _ => ?_)) | split | assumption
    | apply Within.foldl | intro _ _ _ | apply journal_within)

theorem wakeLoop_within {fp : List Part} {s0 s : State} (l : Nat) (hk : Within fp s0 s)
    (hm : Covers [.trestle] fp :=
      by exact Covers.sub ‹Covers _ _› (by decide)) :
    Within fp s0 (wakeLoop l s) := by
  unfold wakeLoop; try dsimp only
  repeat' (with_reducible first
    | exact hk | exact hm.sub (by decide) | (refine Within.ite (fun _ => ?_) (fun _ => ?_)) | split
    | apply State.modLoop_within)

theorem opLoopAdmit_within {fp : List Part} {s0 s : State} (c q pos : Nat) (seed : W64) (hk : Within fp s0 s)
    (hm : Covers [.port, .mem, .objects, .front, .trestle, .wrd, .chest, .jnl] fp :=
      by exact Covers.sub ‹Covers _ _› (by decide)) :
    Within fp s0 (opLoopAdmit c q pos seed s) := by
  unfold opLoopAdmit; try dsimp only
  repeat' (with_reducible first
    | exact hk | exact hm.sub (by decide) | (refine Within.ite (fun _ => ?_) (fun _ => ?_)) | split
    | apply admitSeq_within | apply begun_within | apply finish_within | apply finishOk_within
    | apply journalFences_within | apply putResult_within | apply wakeLoop_within)

theorem cancelSeq_within {fp : List Part} {s0 s : State} (i : Nat) (hk : Within fp s0 s)
    (hm : Covers [.port, .mem, .hub, .objects, .graphs, .front, .bramble, .slices, .trestle, .wrd, .chest,
        .jnl] fp :=
      by exact Covers.sub ‹Covers _ _› (by decide)) :
    Within fp s0 (cancelSeq i s) := by
  unfold cancelSeq; try dsimp only
  repeat' (with_reducible first
    | exact hk | exact hm.sub (by decide) | (refine Within.ite (fun _ => ?_) (fun _ => ?_)) | split
    | apply State.modSeq_within | apply endSeq_within)

theorem cancelSeqs_within {fp : List Part} {s0 s : State} (l : List Nat) (hk : Within fp s0 s)
    (hm : Covers [.port, .mem, .hub, .objects, .graphs, .front, .bramble, .slices, .trestle, .wrd, .chest,
        .jnl] fp :=
      by exact Covers.sub ‹Covers _ _› (by decide)) :
    Within fp s0 (cancelSeqs l s) := by
  unfold cancelSeqs; try dsimp only
  repeat' (with_reducible first
    | exact hk | exact hm.sub (by decide) | (refine Within.ite (fun _ => ?_) (fun _ => ?_)) | split | assumption
    | apply Within.foldl | intro _ _ _ | apply cancelSeq_within)

theorem endParked_within {fp : List Part} {s0 s : State} (l : Nat) (hk : Within fp s0 s)
    (hm : Covers [.port, .mem, .hub, .objects, .graphs, .front, .bramble, .slices, .trestle, .wrd, .chest,
        .hutch, .jnl] fp :=
      by exact Covers.sub ‹Covers _ _› (by decide)) :
    Within fp s0 (endParked l s) := by
  unfold endParked; try dsimp only
  repeat' (with_reducible first
    | exact hk | exact hm.sub (by decide) | (refine Within.ite (fun _ => ?_) (fun _ => ?_)) | split | assumption
    | apply Within.foldl | intro _ _ _ | apply endSeq_within | apply endVerdict_within)

theorem opLoopCancel_within {fp : List Part} {s0 s : State} (c q pos : Nat) (hk : Within fp s0 s)
    (hm : Covers [.port, .mem, .hub, .contexts, .objects, .graphs, .front, .bramble, .slices, .trestle, .sched,
        .wrd, .chest, .watch, .hutch, .jnl, .mgmt, .power, .link] fp :=
      by exact Covers.sub ‹Covers _ _› (by decide)) :
    Within fp s0 (opLoopCancel c q pos s) := by
  unfold opLoopCancel; try dsimp only
  repeat' (with_reducible first
    | exact hk | exact hm.sub (by decide) | (refine Within.ite (fun _ => ?_) (fun _ => ?_)) | split
    | apply State.modC_within | apply begun_within | apply cancelSeqs_within | apply checkMapout_within
    | apply closeIfDone_within | apply finish_within | apply finishOk_within)

theorem opLoopClose_within {fp : List Part} {s0 s : State} (c q pos : Nat) (hk : Within fp s0 s)
    (hm : Covers [.port, .mem, .hub, .contexts, .objects, .graphs, .front, .bramble, .slices, .trestle, .sched,
        .wrd, .chest, .watch, .hutch, .jnl, .mgmt, .power, .link] fp :=
      by exact Covers.sub ‹Covers _ _› (by decide)) :
    Within fp s0 (opLoopClose c q pos s) := by
  unfold opLoopClose; try dsimp only
  repeat' (with_reducible first
    | exact hk | exact hm.sub (by decide) | (refine Within.ite (fun _ => ?_) (fun _ => ?_)) | split
    | apply State.modLoop_within | apply begun_within | apply cancelSeqs_within | apply checkMapout_within
    | apply closeIfDone_within | apply finish_within | apply journal_within)

theorem journalRefused_within {fp : List Part} {s0 s : State} (l c tag : Nat) (j : Jnl) (hk : Within fp s0 s)
    (hm : Covers [.port, .mem, .hub, .contexts, .objects, .front, .bramble, .slices, .trestle, .sched, .wrd,
        .chest, .watch, .hutch, .jnl, .power, .link] fp :=
      by exact Covers.sub ‹Covers _ _› (by decide)) :
    Within fp s0 (journalRefused l c tag j s) := by
  unfold journalRefused; try dsimp only
  repeat' (with_reducible first
    | exact hk | exact hm.sub (by decide) | (refine Within.ite (fun _ => ?_) (fun _ => ?_)) | split
    | apply beginTeardown_within)

theorem Jnl.drain_within {fp : List Part} {s0 : State} (ctx n : Nat) (j : Jnl) {s : State} (hk : Within fp s0 s)
    (hm : Covers [.port, .mem, .hub, .chest, .watch, .jnl] fp :=
      by exact Covers.sub ‹Covers _ _› (by decide)) : Within fp s0 (Jnl.drain ctx n j s).2 := by
  induction n generalizing j s with
  | zero => exact hk
  | succ n ih => exact ih _ (journalPut_within _ _ hk)

theorem State.setLeft_within {fp : List Part} {s0 s : State} (x : JnlLeft) (j : Jnl) (hk : Within fp s0 s)
    (hm : Covers [.port, .mem, .hub, .objects, .graphs, .front, .bramble, .slices, .trestle, .chest, .jnl] fp
        :=
      by exact Covers.sub ‹Covers _ _› (by decide)) :
    Within fp s0 (State.setLeft s x j) := by
  unfold State.setLeft; try dsimp only
  repeat' (with_reducible first
    | exact hk | exact hm.sub (by decide) | (fail_if_no_progress refine Within.trestle ?_ (hm.sub (by decide)) _)
    | (refine Within.ite (fun _ => ?_) (fun _ => ?_)) | split | apply unref_within)

theorem leftWrite_within {fp : List Part} {s0 s : State} (x : JnlLeft) (hk : Within fp s0 s)
    (hm : Covers [.port, .mem, .hub, .contexts, .objects, .graphs, .front, .bramble, .slices, .trestle, .sched,
        .wrd, .chest, .watch, .hutch, .jnl, .power, .link] fp :=
      by exact Covers.sub ‹Covers _ _› (by decide)) :
    Within fp s0 (leftWrite x s) := by
  unfold leftWrite; try dsimp only
  repeat' (with_reducible first
    | exact hk | exact hm.sub (by decide) | (refine Within.ite (fun _ => ?_) (fun _ => ?_)) | split
    | apply Jnl.drain_within | (refine Within.of_snd ‹Jnl.drain _ _ _ _ = _› (Jnl.drain_within _ _ _ ?_))
    | apply State.setLeft_within | apply journalRefused_within)

theorem journalWrite_within {fp : List Part} {s0 s : State} (l : Nat) (hk : Within fp s0 s)
    (hm : Covers [.port, .mem, .hub, .contexts, .objects, .graphs, .front, .bramble, .slices, .trestle, .sched,
        .wrd, .chest, .watch, .hutch, .jnl, .power, .link] fp :=
      by exact Covers.sub ‹Covers _ _› (by decide)) :
    Within fp s0 (journalWrite l s) := by
  unfold journalWrite; try dsimp only
  repeat' (with_reducible first
    | exact hk | exact hm.sub (by decide) | (refine Within.ite (fun _ => ?_) (fun _ => ?_)) | split | assumption
    | apply Within.foldl | intro _ _ _ | apply journalDrain_within | apply journalRefused_within
    | apply leftWrite_within)

theorem readConsumed_within {fp : List Part} {s0 s : State} (l : Nat) (hk : Within fp s0 s)
    (hm : Covers [.port, .hub, .trestle] fp :=
      by exact Covers.sub ‹Covers _ _› (by decide)) :
    Within fp s0 (readConsumed l s) := by
  unfold readConsumed; try dsimp only
  repeat' (with_reducible first
    | exact hk | exact hm.sub (by decide) | (refine Within.ite (fun _ => ?_) (fun _ => ?_)) | split
    | apply State.modLoop_within | apply readFor_within)

theorem journalConsumedPoll_within {fp : List Part} {s0 s : State} (l : Nat) (consumed : Nat)
    (hk : Within fp s0 s)
    (hm : Covers [.port, .mem, .hub, .objects, .graphs, .front, .bramble, .slices, .trestle, .chest, .jnl] fp
        :=
      by exact Covers.sub ‹Covers _ _› (by decide)) :
    Within fp s0 (journalConsumedPoll l consumed s) := by
  unfold journalConsumedPoll; try dsimp only
  repeat' (with_reducible first
    | exact hk | exact hm.sub (by decide) | (refine Within.ite (fun _ => ?_) (fun _ => ?_)) | split | assumption
    | apply Within.foldl | intro _ _ _ | apply State.setLeft_within | apply memWrite_within
    | apply readConsumed_within | apply readFor_within)

theorem replayFails_within {fp : List Part} {s0 s : State} (k : Nat) (m : Cmd) (r : Status × Nat) (kind : Nat)
    (hk : Within fp s0 s)
    (hm : Covers [.front] fp :=
      by exact Covers.sub ‹Covers _ _› (by decide)) :
    Within fp s0 (replayFails k m r kind s) := by
  unfold replayFails; try dsimp only
  repeat' (with_reducible first
    | exact hk | exact hm.sub (by decide) | (refine Within.ite (fun _ => ?_) (fun _ => ?_)) | split
    | apply finish_within | apply putResult_within)

theorem opReplayOpen_within {fp : List Part} {s0 s : State} (c q pos : Nat) (hk : Within fp s0 s)
    (hm : Covers [.objects, .front, .trestle, .wrd, .chest, .jnl, .mgmt] fp :=
      by exact Covers.sub ‹Covers _ _› (by decide)) :
    Within fp s0 (opReplayOpen c q pos s) := by
  unfold opReplayOpen; try dsimp only
  repeat' (with_reducible first
    | exact hk | exact hm.sub (by decide) | (refine Within.ite (fun _ => ?_) (fun _ => ?_)) | split
    | apply begun_within | apply openLoop_within | apply replayFails_within)

theorem Bnd.on_s (b : Bnd) (f : State → State) : (b.on f).s = f b.s := rfl

theorem Bnd.popFast_s (b : Bnd) : b.popFast.2.s = b.s := rfl

theorem Bnd.popSlow_s (b : Bnd) : b.popSlow.2.s = b.s := rfl

theorem Bnd.popLeaf_s (b : Bnd) : b.popLeaf.2.s = b.s := rfl

theorem deliver_within {fp : List Part} {s0 s : State} (i : Nat) (q : Seq) (lp : Loop) (tok : Nat)
    (hk : Within fp s0 s)
    (hm : Covers [.port, .mem, .hub, .front, .bramble, .trestle, .chest, .jnl] fp :=
      by exact Covers.sub ‹Covers _ _› (by decide)) :
    Within fp s0 (deliver i q lp tok s) := by
  unfold deliver; try dsimp only
  repeat' (with_reducible first
    | exact hk | exact hm.sub (by decide) | (refine Within.ite (fun _ => ?_) (fun _ => ?_)) | split
    | apply State.modSeq_within | apply locWrite_within | apply signalFence_within)

theorem dropPrompt_within {fp : List Part} {s0 s : State} (i : Nat) (hk : Within fp s0 s)
    (hm : Covers [.port, .mem, .hub, .objects, .graphs, .front, .bramble, .slices, .trestle, .chest, .jnl] fp
        :=
      by exact Covers.sub ‹Covers _ _› (by decide)) :
    Within fp s0 (dropPrompt i s) := by
  unfold dropPrompt; try dsimp only
  repeat' (with_reducible first
    | exact hk | exact hm.sub (by decide) | (refine Within.ite (fun _ => ?_) (fun _ => ?_)) | split
    | apply State.modSeq_within | apply unref_within)

theorem collectOne_within {fp : List Part} {s0 s : State} (lp : Loop) (e : BEntry) (i : Nat)
    (hk : Within fp s0 s)
    (hm : Covers [.port, .mem, .hub, .objects, .graphs, .front, .bramble, .slices, .trestle, .chest, .jnl] fp
        :=
      by exact Covers.sub ‹Covers _ _› (by decide)) :
    Within fp s0 (collectOne lp e i s).1 := by
  unfold collectOne; try dsimp only
  repeat' (with_reducible first
    | exact hk | exact hm.sub (by decide) | (refine Within.ite (fun _ => ?_) (fun _ => ?_)) | split
    | apply State.modSeq_within | apply deliver_within | apply dropPrompt_within)

theorem collectAll_within {fp : List Part} {s0 s : State} (lp : Loop) (hk : Within fp s0 s)
    (hm : Covers [.port, .mem, .hub, .objects, .graphs, .front, .bramble, .slices, .trestle, .chest, .jnl] fp
        :=
      by exact Covers.sub ‹Covers _ _› (by decide)) : Within fp s0 (collectAll lp s).1 := by
  unfold collectAll
  suffices h : ∀ (l : List (BEntry × Nat)) (a : State × List Nat), Within fp s0 a.1 →
      Within fp s0 (l.foldl (fun a e =>
        let r := collectOne lp e.1 e.2 a.1
        (r.1, match r.2 with | some t => a.2 ++ [t] | none => a.2)) a).1 from h _ _ hk
  intro l
  induction l with
  | nil => exact fun a h => h
  | cons e l ih => exact fun a h => ih _ (collectOne_within lp e.1 e.2 h)

theorem journalResults_within {fp : List Part} {s0 s : State} (l : Nat) (lp : Loop) (toks : List Nat)
    (hk : Within fp s0 s)
    (hm : Covers [.trestle, .chest, .jnl] fp :=
      by exact Covers.sub ‹Covers _ _› (by decide)) :
    Within fp s0 (journalResults l lp toks s) := by
  unfold journalResults; try dsimp only
  repeat' (with_reducible first
    | exact hk | exact hm.sub (by decide) | (refine Within.ite (fun _ => ?_) (fun _ => ?_)) | split | assumption
    | apply Within.foldl | intro _ _ _ | apply journal_within)

theorem lostVerdicts_within {fp : List Part} {s0 s : State} (l : Nat) (hk : Within fp s0 s)
    (hm : Covers [.trestle] fp :=
      by exact Covers.sub ‹Covers _ _› (by decide)) :
    Within fp s0 (lostVerdicts l s) := by
  unfold lostVerdicts; try dsimp only
  repeat' (with_reducible first
    | exact hk | exact hm.sub (by decide) | (refine Within.ite (fun _ => ?_) (fun _ => ?_)) | split | assumption
    | apply Within.foldl | intro _ _ _ | apply State.modSeq_within)

theorem stage2_within {fp : List Part} {s0 s : State} (l : Nat) (hk : Within fp s0 s)
    (hm : Covers [.port, .mem, .hub, .objects, .graphs, .front, .bramble, .slices, .trestle, .wrd, .chest,
        .hutch, .jnl] fp :=
      by exact Covers.sub ‹Covers _ _› (by decide)) :
    Within fp s0 (stage2 l s) := by
  unfold stage2; try dsimp only
  repeat' (with_reducible first
    | exact hk | exact hm.sub (by decide) | (refine Within.ite (fun _ => ?_) (fun _ => ?_)) | split | assumption
    | apply Within.foldl | intro _ _ _ | apply endSeq_within | apply endVerdict_within | apply lostVerdicts_within)

theorem journalPreempt_within {fp : List Part} {s0 s : State} (q : Seq) (kind : Nat) (discard : Bool)
    (hk : Within fp s0 s)
    (hm : Covers [.trestle, .chest, .jnl] fp :=
      by exact Covers.sub ‹Covers _ _› (by decide)) :
    Within fp s0 (journalPreempt q kind discard s) := by
  unfold journalPreempt; try dsimp only
  repeat' (with_reducible first
    | exact hk | exact hm.sub (by decide) | (refine Within.ite (fun _ => ?_) (fun _ => ?_)) | split
    | apply journal_within)

theorem countPreempt_within {fp : List Part} {s0 s : State} (l : Nat) (q : Seq) (hk : Within fp s0 s)
    (hm : Covers [.hub, .trestle] fp :=
      by exact Covers.sub ‹Covers _ _› (by decide)) :
    Within fp s0 (countPreempt l q s) := by
  unfold countPreempt; try dsimp only
  repeat' (with_reducible first
    | exact hk | exact hm.sub (by decide) | (refine Within.ite (fun _ => ?_) (fun _ => ?_)) | split
    | apply State.modStats_within | apply modUse_within)

theorem swapOut_within {fp : List Part} {s0 : State} {b : Bnd} (l i : Nat) (q : Seq) (ctx : Nat)
    (hk : Within fp s0 b.s)
    (hm : Covers [.port, .mem, .trestle, .wrd, .watch, .jnl] fp :=
      by exact Covers.sub ‹Covers _ _› (by decide)) :
    Within fp s0 (swapOut l i q ctx b).s := by
  unfold swapOut; dsimp only [Bnd.on]
  exact dropEntry_within _ _ (State.modSeq_within _ _
    (Within.foldlB (fun _ _ h => demotePage_within _ _ _ _ _ _ h) _ hk))

theorem preempt_within {fp : List Part} {s0 : State} {b : Bnd} (l i kind ctx : Nat) (hk : Within fp s0 b.s)
    (hm : Covers [.port, .mem, .hub, .objects, .graphs, .front, .bramble, .slices, .trestle, .wrd, .chest,
        .watch, .jnl] fp :=
      by exact Covers.sub ‹Covers _ _› (by decide)) :
    Within fp s0 (preempt l i kind ctx b).s := by
  unfold preempt; try dsimp only [Bnd.on, Bnd.popFast, Bnd.popSlow, Bnd.popLeaf]
  repeat' (with_reducible first
    | exact hk | (refine Within.foldlB (fun _ _ _ => ?_) _ ?_) | assumption | exact hm.sub (by decide) | (refine Within.ite (fun _ => ?_) (fun _ => ?_)) | split
    | apply countPreempt_within | apply endSeq_within | apply journalPreempt_within | apply swapOut_within)

theorem takeShort_within {fp : List Part} {s0 : State} (l t tpp ctx : Nat) (es : List (Nat × Nat))
    (n : Nat) {b : Bnd} (hk : Within fp s0 b.s)
    (hm : Covers [.port, .mem, .hub, .objects, .graphs, .front, .bramble, .slices, .trestle, .wrd, .chest,
        .watch, .jnl] fp :=
      by exact Covers.sub ‹Covers _ _› (by decide)) : Within fp s0 (takeShort l t tpp ctx es n b).s := by
  induction n generalizing b with
  | zero => exact hk
  | succ n ih =>
    simp only [takeShort]
    repeat' (with_reducible first
      | exact hk | apply ih | exact hm.sub (by decide) | (refine Within.ite (fun _ => ?_) (fun _ => ?_)) | split
      | apply preempt_within)

theorem copyOnWrite_within {fp : List Part} {s0 : State} {b : Bnd} (i ctx : Nat) (hk : Within fp s0 b.s)
    (hm : Covers [.trestle, .wrd, .watch] fp :=
      by exact Covers.sub ‹Covers _ _› (by decide)) :
    Within fp s0 (copyOnWrite i ctx b).s := by
  unfold copyOnWrite; try dsimp only [Bnd.on, Bnd.popFast, Bnd.popSlow, Bnd.popLeaf]
  repeat' (with_reducible first
    | exact hk | (refine Within.foldlB (fun _ _ _ => ?_) _ ?_) | assumption | exact hm.sub (by decide) | (refine Within.ite (fun _ => ?_) (fun _ => ?_)) | split
    | apply State.modSeq_within | apply addPage_within | apply dropHolder_within | apply dropLeaf_within
    | apply setFrame_within | apply startJob_within)

theorem growOne_within {fp : List Part} {s0 : State} {b : Bnd} (i : Nat) (hk : Within fp s0 b.s)
    (hm : Covers [.trestle, .wrd, .watch] fp :=
      by exact Covers.sub ‹Covers _ _› (by decide)) :
    Within fp s0 (growOne i b).s := by
  unfold growOne; try dsimp only [Bnd.on, Bnd.popFast, Bnd.popSlow, Bnd.popLeaf]
  repeat' (with_reducible first
    | exact hk | (refine Within.foldlB (fun _ _ _ => ?_) _ ?_) | assumption | exact hm.sub (by decide) | (refine Within.ite (fun _ => ?_) (fun _ => ?_)) | split
    | apply addPage_within | apply allocFrame_within)

theorem growN_within {fp : List Part} {s0 : State} (i n : Nat) {b : Bnd} (hk : Within fp s0 b.s)
    (hm : Covers [.trestle, .wrd, .watch] fp :=
      by exact Covers.sub ‹Covers _ _› (by decide)) : Within fp s0 (growN i n b).s := by
  induction n generalizing b with
  | zero => exact hk
  | succ n ih => exact ih (growOne_within _ hk)

theorem reserveFor_within {fp : List Part} {s0 : State} {b : Bnd} (i n tpp ctx : Nat) (hk : Within fp s0 b.s)
    (hm : Covers [.trestle, .wrd, .watch] fp :=
      by exact Covers.sub ‹Covers _ _› (by decide)) :
    Within fp s0 (reserveFor i n tpp ctx b).s := by
  unfold reserveFor; dsimp only [Bnd.on]
  split
  · exact hk
  · refine growN_within _ _ ?_
    split
    · exact copyOnWrite_within _ _ (State.modSeq_within _ _ hk)
    · exact State.modSeq_within _ _ hk

theorem stage4_within {fp : List Part} {s0 : State} (l : Nat) (lp : Loop) (victims : List Nat)
    (toks : List (Nat × Nat)) {b : Bnd} (hk : Within fp s0 b.s)
    (hm : Covers [.port, .mem, .hub, .objects, .graphs, .front, .bramble, .slices, .trestle, .wrd, .chest,
        .watch, .jnl] fp :=
      by exact Covers.sub ‹Covers _ _› (by decide)) : Within fp s0 (stage4 l lp victims toks b).1.s := by
  unfold stage4; dsimp only
  refine Within.foldlB (fun _ _ h => reserveFor_within _ _ _ _ h) _ ?_
  have h1 : Within fp s0 (if (ctxCls b.s lp.ctx == .rt) = true then b
      else victims.foldl (fun b i => preempt l i 2 lp.ctx b) b).s := by
    split
    · exact hk
    · exact Within.foldlB (fun _ _ h => preempt_within _ _ _ _ h) _ hk
  generalize (if (ctxCls b.s lp.ctx == .rt) = true then b
      else victims.foldl (fun b i => preempt l i 2 lp.ctx b) b) = b1 at h1 ⊢
  have h2 : Within fp s0 (if ((ctxCls b.s lp.ctx == .rt) ||
      decide ((poolShort lp.params.tokensPerPage toks b1.s).toNat = 0)) = true then b1
      else { s := demoteCold (poolShort lp.params.tokensPerPage toks b1.s).toNat lp.tenant (some lp.ctx) b1.ch.slowFrames b1.s,
             ch := { b1.ch with slowFrames := b1.ch.slowFrames.drop (poolShort lp.params.tokensPerPage toks b1.s).toNat } }).s := by
    split
    · exact h1
    · exact demoteCold_within _ _ _ _ h1
  generalize (if ((ctxCls b.s lp.ctx == .rt) ||
      decide ((poolShort lp.params.tokensPerPage toks b1.s).toNat = 0)) = true then b1
      else { s := demoteCold (poolShort lp.params.tokensPerPage toks b1.s).toNat lp.tenant (some lp.ctx) b1.ch.slowFrames b1.s,
             ch := { b1.ch with slowFrames := b1.ch.slowFrames.drop (poolShort lp.params.tokensPerPage toks b1.s).toNat } })
    = b2 at h2 ⊢
  split
  · exact h2
  · exact takeShort_within _ _ _ _ _ _ h2

theorem journalJoin_within {fp : List Part} {s0 s : State} (l : Nat) (lp : Loop) (q : Seq) (n : Nat)
    (hk : Within fp s0 s)
    (hm : Covers [.port, .hub, .trestle, .chest, .jnl] fp :=
      by exact Covers.sub ‹Covers _ _› (by decide)) :
    Within fp s0 (journalJoin l lp q n s) := by
  unfold journalJoin; try dsimp only
  repeat' (with_reducible first
    | exact hk | exact hm.sub (by decide) | (refine Within.ite (fun _ => ?_) (fun _ => ?_)) | split | assumption
    | apply Within.foldl | intro _ _ _ | apply journal_within | apply readFor_within)

theorem joinSeq_within {fp : List Part} {s0 : State} {b : Bnd} (l : Nat) (lp : Loop) (i : Nat) (q : Seq)
    (n : Nat) (hk : Within fp s0 b.s)
    (hm : Covers [.port, .hub, .trestle, .wrd, .chest, .watch, .jnl] fp :=
      by exact Covers.sub ‹Covers _ _› (by decide)) :
    Within fp s0 (joinSeq l lp i q n b).1.s := by
  unfold joinSeq; dsimp only [Bnd.on, Bnd.popFast]
  exact reserveFor_within _ _ _ _ (Within.foldlB (fun _ _ h => promotePage_within _ _ _ _ h) _
    (State.modSeq_within _ _ (journalJoin_within _ _ _ _ hk)))

theorem stage5_within {fp : List Part} {s0 : State} (l : Nat) (lp : Loop) (shed : Nat) (is : List Nat) {b : Bnd}
    (es : List BEntry)
    (hk : Within fp s0 b.s)
    (hm : Covers [.port, .hub, .trestle, .wrd, .chest, .watch, .jnl] fp :=
      by exact Covers.sub ‹Covers _ _› (by decide)) : Within fp s0 (stage5 l lp shed is b es).1.s := by
  induction is generalizing b es with
  | nil => exact hk
  | cons i t ih =>
    simp only [stage5]
    split
    · exact ih _ hk
    · split
      · exact ih _ (joinSeq_within _ _ _ _ _ hk)
      · dsimp only [Bnd.on]
        exact State.modStats_within _ _ hk

theorem journalStep_within {fp : List Part} {s0 s : State} (l : Nat) (lp : Loop) (hk : Within fp s0 s)
    (hm : Covers [.trestle, .chest, .jnl] fp :=
      by exact Covers.sub ‹Covers _ _› (by decide)) :
    Within fp s0 (journalStep l lp s) := by
  unfold journalStep; try dsimp only
  repeat' (with_reducible first
    | exact hk | exact hm.sub (by decide) | (refine Within.ite (fun _ => ?_) (fun _ => ?_)) | split
    | apply journal_within)

theorem chargePrompts_within {fp : List Part} {s0 s : State} (lp : Loop) (hk : Within fp s0 s)
    (hm : Covers [.port, .hub] fp :=
      by exact Covers.sub ‹Covers _ _› (by decide)) :
    Within fp s0 (chargePrompts lp s) := by
  unfold chargePrompts; try dsimp only
  repeat' (with_reducible first
    | exact hk | exact hm.sub (by decide) | (refine Within.ite (fun _ => ?_) (fun _ => ?_)) | split | assumption
    | apply Within.foldl | intro _ _ _ | apply readFor_within)

theorem stage6_within {fp : List Part} {s0 s : State} (l : Nat) (es : List BEntry) (hk : Within fp s0 s)
    (hm : Covers [.port, .mem, .hub, .trestle] fp :=
      by exact Covers.sub ‹Covers _ _› (by decide)) :
    Within fp s0 (stage6 l es s) := by
  unfold stage6; try dsimp only
  repeat' (with_reducible first
    | exact hk | exact hm.sub (by decide) | (refine Within.ite (fun _ => ?_) (fun _ => ?_)) | split
    | apply State.modLoop_within | apply chargePrompts_within | apply writeBatch_within)

theorem loopBoundary_within {fp : List Part} {s0 s : State} (l : Nat) (hk : Within fp s0 s)
    (hm : Covers [.port, .hub, .contexts, .slices, .trestle, .sched, .wrd, .chest, .watch, .jnl, .power] fp :=
      by exact Covers.sub ‹Covers _ _› (by decide)) :
    Within fp s0 (loopBoundary l s) := by
  unfold loopBoundary; try dsimp only
  repeat' (with_reducible first
    | exact hk | exact hm.sub (by decide) | (refine Within.ite (fun _ => ?_) (fun _ => ?_)) | split
    | apply State.modRes_within | apply decisionPass_within | apply tryNext_within | (refine vacateRes_within _ ?_)
    | (refine WithinO.of ‹vacateRes _ _ = some _› (vacateRes_within _ ?_))
    | (refine Within.getD _ ?_ (vacateRes_within _ ?_)) | exact WithinO.none | (refine WithinO.some ?_)
    | (refine WithinO.map ?_ (fun _ _ => ?_)) | assumption)

theorem replayEnds_within {fp : List Part} {s0 s : State} (r : Replay) (step : Nat) (hk : Within fp s0 s)
    (hm : Covers [.port, .mem, .hub, .objects, .graphs, .front, .bramble, .slices, .trestle, .wrd, .chest,
        .jnl] fp :=
      by exact Covers.sub ‹Covers _ _› (by decide)) :
    Within fp s0 (replayEnds r step s) := by
  unfold replayEnds; try dsimp only
  repeat' (with_reducible first
    | exact hk | exact hm.sub (by decide) | (refine Within.ite (fun _ => ?_) (fun _ => ?_)) | split | assumption
    | apply Within.foldl | intro _ _ _ | apply endSeq_within)

theorem replayPreempts_within {fp : List Part} {s0 : State} {b : Bnd} (l ctx : Nat) (r : Replay) (step : Nat)
    (ok : Nat → Bool) (hk : Within fp s0 b.s)
    (hm : Covers [.port, .mem, .hub, .objects, .graphs, .front, .bramble, .slices, .trestle, .wrd, .chest,
        .watch, .jnl] fp :=
      by exact Covers.sub ‹Covers _ _› (by decide)) :
    Within fp s0 (replayPreempts l ctx r step ok b).s := by
  refine Within.foldlB (fun b x h => ?_) _ hk
  dsimp only [Bnd.on]
  repeat' first
    | exact hm.sub (by decide) | assumption | apply endSeq_within | apply countPreempt_within
    | refine swapOut_within _ _ _ _ ?_ | split

theorem convertMove_within {fp : List Part} {s0 s : State} (l f fmt step : Nat) (hk : Within fp s0 s)
    (hm : Covers [.wrd] fp :=
      by exact Covers.sub ‹Covers _ _› (by decide)) :
    Within fp s0 (convertMove l f fmt step s) := by
  unfold convertMove; try dsimp only
  repeat' (with_reducible first
    | exact hk | exact hm.sub (by decide) | (fail_if_no_progress refine Within.wrd ?_ (hm.sub (by decide)) _)
    | (refine Within.ite (fun _ => ?_) (fun _ => ?_)) | split)

theorem replayConvert_within {fp : List Part} {s0 s : State} (l step : Nat) (e : Nat × Nat)
    (hk : Within fp s0 s)
    (hm : Covers [.mem, .wrd] fp :=
      by exact Covers.sub ‹Covers _ _› (by decide)) :
    Within fp s0 (replayConvert l step s e) := by
  unfold replayConvert; try dsimp only
  repeat' (with_reducible first
    | exact hk | exact hm.sub (by decide) | (refine Within.ite (fun _ => ?_) (fun _ => ?_)) | split
    | apply convertFrame_within | apply convertMove_within)

theorem replayConverts_within {fp : List Part} {s0 s : State} (l : Nat) (r : Replay) (step : Nat)
    (hk : Within fp s0 s)
    (hm : Covers [.mem, .wrd] fp :=
      by exact Covers.sub ‹Covers _ _› (by decide)) :
    Within fp s0 (replayConverts l r step s) := by
  unfold replayConverts; try dsimp only
  repeat' (with_reducible first
    | exact hk | exact hm.sub (by decide) | (refine Within.ite (fun _ => ?_) (fun _ => ?_)) | split | assumption
    | apply Within.foldl | intro _ _ _ | apply replayConvert_within)

theorem resolveObj_within {fp : List Part} {s0 s : State} (c h : Nat) (hk : Within fp s0 s)
    (hm : Covers [.port, .hub, .objects] fp :=
      by exact Covers.sub ‹Covers _ _› (by decide)) :
    Within fp s0 (resolveObj c h s).1 := by
  unfold resolveObj; try dsimp only
  repeat' (with_reducible first
    | exact hk | exact hm.sub (by decide) | (fail_if_no_progress refine Within.objects ?_ (hm.sub (by decide)) _)
    | (refine Within.ite (fun _ => ?_) (fun _ => ?_)) | split | apply readFor_within)

theorem resolveAll_within {fp : List Part} {s0 : State} (c : Nat) (l : List Nat) {s : State} (hk : Within fp s0 s)
    (hm : Covers [.port, .hub, .objects] fp :=
      by exact Covers.sub ‹Covers _ _› (by decide)) : Within fp s0 (resolveAll c l s).1 := by
  induction l generalizing s with
  | nil => exact hk
  | cons h t ih =>
    simp only [resolveAll]
    split
    · next e => exact ih (Within.of_fst e (resolveObj_within _ _ hk))
    · next e => exact Within.of_fst e (resolveObj_within _ _ hk)

theorem admitAgain_within {fp : List Part} {s0 s : State} (l : Nat) (a : RecAdmit) (r : AdmitRec) (lp : Loop)
    (hk : Within fp s0 s)
    (hm : Covers [.port, .mem, .objects, .trestle, .wrd] fp :=
      by exact Covers.sub ‹Covers _ _› (by decide)) :
    Within fp s0 (admitAgain l a r lp s) := by
  unfold admitAgain; try dsimp only
  repeat' (with_reducible first
    | exact hk | exact hm.sub (by decide) | (refine Within.ite (fun _ => ?_) (fun _ => ?_)) | split
    | apply State.modLoop_within | apply State.modSeq_within | apply admitSeq_within)

theorem admitRecord_within {fp : List Part} {s0 s : State} (l : Nat) (a : RecAdmit) (hk : Within fp s0 s)
    (hm : Covers [.port, .mem, .hub, .objects, .trestle, .wrd] fp :=
      by exact Covers.sub ‹Covers _ _› (by decide)) :
    Within fp s0 (admitRecord l a s).1 := by
  unfold admitRecord; try dsimp only
  repeat' (with_reducible first
    | exact hk | exact hm.sub (by decide) | (refine Within.ite (fun _ => ?_) (fun _ => ?_)) | split
    | apply admitAgain_within | apply resolveAll_within
    | (refine Within.of_fst ‹resolveAll _ _ _ = _› (resolveAll_within _ _ ?_)))

theorem replayAdmit_within {fp : List Part} {s0 s : State} (l : Nat) (a : RecAdmit) (hk : Within fp s0 s)
    (hm : Covers [.port, .mem, .hub, .objects, .trestle, .wrd] fp :=
      by exact Covers.sub ‹Covers _ _› (by decide)) : Within fp s0 (replayAdmit l a s).1 := by
  unfold replayAdmit; dsimp only
  split
  · next e => exact Within.of_fst e (admitRecord_within _ _ hk)
  · next e =>
    have h := Within.of_fst e (admitRecord_within _ _ hk)
    split
    · exact h
    · split
      · exact readFor_within _ _ _ h
      · exact h

theorem keepPrefixes_within {fp : List Part} {s0 s : State} (l : Nat) (r : Replay) (step : Nat)
    (hk : Within fp s0 s)
    (hm : Covers [.port, .mem, .hub, .objects, .trestle, .wrd] fp :=
      by exact Covers.sub ‹Covers _ _› (by decide)) :
    Within fp s0 (keepPrefixes l r step s) := by
  unfold keepPrefixes; try dsimp only
  repeat' (with_reducible first
    | exact hk | exact hm.sub (by decide) | (refine Within.ite (fun _ => ?_) (fun _ => ?_)) | split | assumption
    | apply Within.foldl | intro _ _ _ | apply admitRecord_within
    | (refine Within.of_fst ‹admitRecord _ _ _ = _› (admitRecord_within _ _ ?_)))

theorem replayAdmits_within {fp : List Part} {s0 : State} (l : Nat) (as : List RecAdmit) {s : State}
    (hk : Within fp s0 s)
    (hm : Covers [.port, .mem, .hub, .objects, .trestle, .wrd] fp :=
      by exact Covers.sub ‹Covers _ _› (by decide)) : Within fp s0 (replayAdmits l as s).1 := by
  induction as generalizing s with
  | nil => exact hk
  | cons a t ih =>
    simp only [replayAdmits]
    split
    · next e => exact ih (Within.of_fst e (replayAdmit_within _ _ hk))
    · next e => exact Within.of_fst e (replayAdmit_within _ _ hk)

theorem readWindow_within {fp : List Part} {s0 s : State} (l : Nat) (lp : Loop) (r : Replay) (step : Nat)
    (hk : Within fp s0 s)
    (hm : Covers [.chest, .jnl] fp :=
      by exact Covers.sub ‹Covers _ _› (by decide)) :
    Within fp s0 (readWindow l lp r step s).2 := by
  unfold readWindow; dsimp only
  split
  · dsimp only; exact modCells_within _ _ _ hk
  · have h : ∀ (rs : List (List Byte)) (a : Bool × State), Within fp s0 a.2 →
        Within fp s0 (rs.foldl (fun (a : Bool × State) x =>
        (a.1 && (askCells (itemReq 5 l (some lp.tenant) (jSeq x) 1 (some x)) a.2).1,
          (askCells (itemReq 5 l (some lp.tenant) (jSeq x) 1 (some x)) a.2).2)) a).2 :=
      fun rs _ => Within.foldlS (fun _ _ h => by exact askCells_within _ h) rs
    split
    · next e => dsimp only; exact modCells_within _ _ _ (Within.of_snd e (h _ _ hk))
    · next e => exact Within.of_snd e (h _ _ hk)

theorem replayJoins_within {fp : List Part} {s0 : State} (l : Nat) (lp : Loop) (shed : Nat)
    (is : List (Nat × Option Nat)) {b : Bnd} (es : List BEntry)
    {r : Bnd × List BEntry} (hk : Within fp s0 b.s) (h : replayJoins l lp shed is b es = some r)
    (hm : Covers [.port, .hub, .trestle, .wrd, .chest, .watch, .jnl] fp :=
      by exact Covers.sub ‹Covers _ _› (by decide)) : Within fp s0 r.1.s := by
  induction is generalizing b es with
  | nil => injection h with h; exact h ▸ hk
  | cons e t ih =>
    obtain ⟨i, first⟩ := e
    simp only [replayJoins] at h
    split at h
    · exact ih _ hk h
    · split at h
      · exact ih _ (joinSeq_within _ _ _ _ _ hk) h
      · cases h

theorem endReplay_within {fp : List Part} {s0 s : State} (l : Nat) (d : Option Diverge) (hk : Within fp s0 s)
    (hm : Covers [.port, .mem, .hub, .contexts, .objects, .graphs, .front, .bramble, .slices, .trestle, .sched,
        .wrd, .chest, .watch, .jnl, .power] fp :=
      by exact Covers.sub ‹Covers _ _› (by decide)) :
    Within fp s0 (endReplay l d s) := by
  unfold endReplay; try dsimp only
  repeat' (with_reducible first
    | exact hk | exact hm.sub (by decide) | (refine Within.ite (fun _ => ?_) (fun _ => ?_)) | split | assumption
    | apply Within.foldl | intro _ _ _ | apply State.modLoop_within | apply closeLoop_within | apply endSeq_within
    | apply finish_within | apply finishOk_within)

theorem replayStages_within {fp : List Part} {s0 s : State} (l : Nat) (lp : Loop) (r : Replay)
    (ch : BoundaryChoice) (hk : Within fp s0 s)
    (hm : Covers [.port, .mem, .hub, .contexts, .objects, .graphs, .front, .bramble, .slices, .trestle, .sched,
        .wrd, .chest, .watch, .hutch, .jnl, .power] fp :=
      by exact Covers.sub ‹Covers _ _› (by decide)) :
    WithinO fp s0 (replayStages l lp r ch s) := by
  unfold replayStages; dsimp only
  split
  · exact WithinO.some (endReplay_within _ _ hk)
  · split
    · exact WithinO.none
    · have hb : ∀ r', Within fp s0 (replayEnds r' (lp.step + 1) ((loopOrder l (keepPrefixes l r (lp.step + 1) s)).foldl
          (fun s i => endVerdict i s) (keepPrefixes l r (lp.step + 1) s))) := fun r' =>
        replayEnds_within _ _ (Within.foldl (fun _ _ h => endVerdict_within _ h) _ (keepPrefixes_within _ _ _ hk))
      generalize mapNow l r (keepPrefixes l r (lp.step + 1) s) = r at hb ⊢
      replace hb := hb r
      generalize replayEnds r (lp.step + 1) _ = s1 at hb ⊢
      split
      · exact WithinO.some (endReplay_within _ _ hb)
      · next st _ _ =>
        have h2 := State.modLoop_within l
          (fun lp => { lp with sampled := { lp.sampled with shed := fld (jPayload st) 0 1 } }) hb
        generalize s1.modLoop l (fun lp => { lp with sampled := { lp.sampled with shed := fld (jPayload st) 0 1 } }) = s2
          at h2 ⊢
        split
        · exact WithinO.some h2
        · next lp' _ =>
          have h3 : ∀ ok, Within fp s0 ((replayPreempts l lp'.ctx r (lp.step + 1) ok { s := s2, ch := ch }).on
              (replayConverts l r (lp.step + 1))).s := fun _ => replayConverts_within _ _ _ (replayPreempts_within _ _ _ _ _ h2)
          generalize hok : (fun i => !((loopSeqs l s2).filterMap (fun e => if e.2.parked = true then some e.1 else none)).contains i)
            = ok
          replace h3 := h3 ok
          generalize (replayPreempts l lp'.ctx r (lp.step + 1) ok { s := s2, ch := ch }).on
            (replayConverts l r (lp.step + 1)) = b at h3 ⊢
          split
          · exact WithinO.none
          · have h4 : ∀ (tk : List (Nat × Nat)), Within fp s0
                (tk.foldl (fun b e => reserveFor e.1 e.2 lp'.params.tokensPerPage lp'.ctx b) b).s :=
              fun tk => Within.foldlB (fun _ _ h => reserveFor_within _ _ _ _ h) tk h3
            split
            · next e => exact WithinO.some (endReplay_within _ _ (Within.of_fst e (replayAdmits_within _ _ (h4 _))))
            · next s4 hs4 =>
              have h5 := Within.of_fst hs4 (replayAdmits_within _ _ (h4 _))
              split
              · exact WithinO.none
              · next b' es' hj =>
                have h6 := replayJoins_within _ _ _ _ _ (by exact h5) hj
                have h7 := fun ok => stage6_within l (es'.filter (fun e => stillRuns e.seqIdx
                  (replayPreempts l lp'.ctx r (lp.step + 1) ok b').s)) (replayPreempts_within l lp'.ctx r (lp.step + 1) ok h6)
                split
                · exact WithinO.some (h7 _)
                · split
                  · exact WithinO.some (h7 _)
                  · exact WithinO.some (endReplay_within _ _ (h7 _))

theorem replayBoundary_within {fp : List Part} {s0 s : State} (l : Nat) (lp : Loop) (r : Replay)
    (ch : BoundaryChoice) (hk : Within fp s0 s)
    (hm : Covers [.port, .mem, .hub, .contexts, .objects, .graphs, .front, .bramble, .slices, .trestle, .sched,
        .wrd, .chest, .watch, .hutch, .jnl, .power] fp :=
      by exact Covers.sub ‹Covers _ _› (by decide)) :
    Within fp s0 (replayBoundary l lp r ch s) := by
  unfold replayBoundary; try dsimp only
  repeat' (with_reducible first
    | exact hk | exact hm.sub (by decide) | (refine Within.ite (fun _ => ?_) (fun _ => ?_)) | split
    | apply State.modLoop_within | apply collectAll_within
    | (refine Within.of_fst ‹collectAll _ _ = _› (collectAll_within _ ?_)) | apply endReplay_within
    | apply readWindow_within | (refine Within.of_snd ‹readWindow _ _ _ _ _ = _› (readWindow_within _ _ _ _ ?_))
    | (refine replayStages_within _ _ _ _ ?_)
    | (refine WithinO.of ‹replayStages _ _ _ _ _ = some _› (replayStages_within _ _ _ _ ?_))
    | (refine Within.getD _ ?_ (replayStages_within _ _ _ _ ?_)) | exact WithinO.none | (refine WithinO.some ?_)
    | (refine WithinO.map ?_ (fun _ _ => ?_)) | assumption)

theorem liveStages_within {fp : List Part} {s0 s : State} (l : Nat) (ch : BoundaryChoice) (hk : Within fp s0 s)
    (hm : Covers [.port, .mem, .hub, .objects, .graphs, .front, .bramble, .slices, .trestle, .wrd, .chest,
        .watch, .jnl] fp :=
      by exact Covers.sub ‹Covers _ _› (by decide)) :
    Within fp s0 (liveStages l ch s) := by
  unfold liveStages; try dsimp only
  repeat' (with_reducible first
    | exact hk | exact hm.sub (by decide) | (refine Within.ite (fun _ => ?_) (fun _ => ?_)) | split
    | apply stage4_within | apply stage5_within | apply stage6_within)

theorem liveBoundary_within {fp : List Part} {s0 s : State} (l : Nat) (lp : Loop) (ch : BoundaryChoice)
    (hk : Within fp s0 s)
    (hm : Covers [.port, .mem, .hub, .objects, .graphs, .front, .bramble, .slices, .trestle, .wrd, .chest,
        .watch, .hutch, .jnl] fp :=
      by exact Covers.sub ‹Covers _ _› (by decide)) :
    Within fp s0 (liveBoundary l lp ch s) := by
  unfold liveBoundary; try dsimp only
  repeat' (with_reducible first
    | exact hk | exact hm.sub (by decide) | (refine Within.ite (fun _ => ?_) (fun _ => ?_)) | split
    | apply State.modLoop_within | apply collectAll_within
    | (refine Within.of_fst ‹collectAll _ _ = _› (collectAll_within _ ?_)) | apply journalResults_within
    | apply liveStages_within | apply readConsumed_within | apply stage2_within)

theorem settleEmptied_within {fp : List Part} {s0 s : State} (was : List Nat) (hk : Within fp s0 s)
    (hm : Covers [.port, .mem, .hub, .contexts, .objects, .graphs, .front, .bramble, .slices, .trestle, .sched,
        .wrd, .chest, .watch, .hutch, .jnl, .power] fp :=
      by exact Covers.sub ‹Covers _ _› (by decide)) :
    Within fp s0 (settleEmptied was s) := by
  unfold settleEmptied; try dsimp only
  repeat' (with_reducible first
    | exact hk | exact hm.sub (by decide) | (refine Within.ite (fun _ => ?_) (fun _ => ?_)) | split | assumption
    | apply Within.foldl | intro _ _ _ | apply closeIfDone_within | apply endParked_within
    | apply loopBoundary_within)

theorem traceStages_within {fp : List Part} {s0 s : State} (lp : Loop) (hk : Within fp s0 s)
    (hm : Covers [.jnl] fp :=
      by exact Covers.sub ‹Covers _ _› (by decide)) :
    Within fp s0 (traceStages lp s) := by
  unfold traceStages; try dsimp only
  repeat' (with_reducible first
    | exact hk | exact hm.sub (by decide) | (refine Within.ite (fun _ => ?_) (fun _ => ?_)) | split | assumption
    | apply Within.foldl | intro _ _ _ | apply trace_within)

theorem stepBoundary_within {fp : List Part} {s0 s : State} (l : Nat) (ch : BoundaryChoice)
    (hk : Within fp s0 s)
    (hm : Covers [.port, .mem, .hub, .contexts, .objects, .graphs, .front, .bramble, .slices, .trestle, .sched,
        .wrd, .chest, .watch, .hutch, .jnl, .mgmt, .power, .link] fp :=
      by exact Covers.sub ‹Covers _ _› (by decide)) :
    Within fp s0 (stepBoundary l ch s) := by
  unfold stepBoundary; try dsimp only
  repeat' (with_reducible first
    | exact hk | exact hm.sub (by decide) | (refine Within.ite (fun _ => ?_) (fun _ => ?_)) | split
    | apply bump_within | apply checkMapout_within | apply closeIfDone_within | apply liveBoundary_within
    | apply loopBoundary_within | apply replayBoundary_within | apply settleEmptied_within
    | apply traceStages_within)

theorem launchStep_within {fp : List Part} {s0 s : State} (l r : Nat) (lp : Loop) (x : Residency)
    (hk : Within fp s0 s)
    (hm : Covers [.port, .mem, .hub, .contexts, .objects, .graphs, .front, .bramble, .slices, .trestle, .sched,
        .wrd, .chest, .watch, .hutch, .jnl, .mgmt, .power, .link] fp :=
      by exact Covers.sub ‹Covers _ _› (by decide)) :
    Within fp s0 (launchStep l r lp x s) := by
  unfold launchStep; try dsimp only
  repeat' (with_reducible first
    | exact hk | exact hm.sub (by decide) | (refine Within.ite (fun _ => ?_) (fun _ => ?_)) | split | assumption
    | apply Within.foldl | intro _ _ _ | apply State.modLoop_within | apply State.modModel_within
    | apply State.modRes_within | apply State.modSeq_within | apply checkMapout_within | apply dropQueue_within
    | apply endParked_within | apply journalDrain_within | apply journalStep_within | apply modUse_within
    | apply sendLaunch_within | apply trace_within)

theorem stage7_within {fp : List Part} {s0 s : State} (l r : Nat) (lp : Loop) (hk : Within fp s0 s)
    (hm : Covers [.port, .mem, .hub, .contexts, .objects, .graphs, .front, .bramble, .slices, .trestle, .sched,
        .wrd, .chest, .watch, .hutch, .jnl, .mgmt, .power, .link] fp :=
      by exact Covers.sub ‹Covers _ _› (by decide)) :
    Within fp s0 (stage7 l r lp s) := by
  unfold stage7; try dsimp only
  repeat' (with_reducible first
    | exact hk | exact hm.sub (by decide) | (refine Within.ite (fun _ => ?_) (fun _ => ?_)) | split
    | apply State.modLoop_within | apply decisionPass_within | apply launchStep_within
    | (refine saveRes_within _ ?_) | (refine WithinO.of ‹saveRes _ _ = some _› (saveRes_within _ ?_))
    | (refine Within.getD _ ?_ (saveRes_within _ ?_)) | apply tryNext_within | exact WithinO.none
    | (refine WithinO.some ?_) | (refine WithinO.map ?_ (fun _ _ => ?_)) | assumption)

theorem askBenches_within {fp : List Part} {s0 s : State} (l : Nat) (lp : Loop) (hk : Within fp s0 s)
    (hm : Covers [.port, .hub, .contexts, .slices, .trestle, .sched, .wrd, .chest, .watch, .jnl, .power] fp :=
      by exact Covers.sub ‹Covers _ _› (by decide)) :
    Within fp s0 (askBenches l lp s) := by
  unfold askBenches; try dsimp only
  repeat' (with_reducible first
    | exact hk | exact hm.sub (by decide) | (refine Within.ite (fun _ => ?_) (fun _ => ?_)) | split
    | apply addJob_within | apply decisionPass_within)

theorem stepLaunch_within {fp : List Part} {s0 s : State} (l : Nat) (hk : Within fp s0 s)
    (hm : Covers [.port, .mem, .hub, .contexts, .objects, .graphs, .front, .bramble, .slices, .trestle, .sched,
        .wrd, .chest, .watch, .hutch, .jnl, .mgmt, .power, .link] fp :=
      by exact Covers.sub ‹Covers _ _› (by decide)) :
    Within fp s0 (stepLaunch l s) := by
  unfold stepLaunch; try dsimp only
  repeat' (with_reducible first
    | exact hk | exact hm.sub (by decide) | (refine Within.ite (fun _ => ?_) (fun _ => ?_)) | split
    | apply State.modLoop_within | apply askBenches_within | apply passAt_within | apply stage7_within)

end Sys2Proof.Machine
end

