-- ==== Sys2Proof/Laws/WithinBlock.lean ====
section
/-! SUPPORT. What the other commands of the block may change. -/

set_option Elab.async false
set_option linter.unusedTactic false
set_option linter.unreachableTactic false

namespace Sys2Proof.Machine

/-- The state an engine's action leaves keeps what its state before kept. -/
def SideAct.Within (fp : List Part) (s0 : State) : SideAct → Prop
  | .done s => Machine.Within fp s0 s
  | .stop _ _ _ => True
  | .mismatch s => Machine.Within fp s0 s
  | .wait => True
  | .hold => True

theorem SideAct.Within.done {fp : List Part} {s0 s : State}
    (h : Machine.Within fp s0 s) : (SideAct.done s).Within fp s0 := h
theorem SideAct.Within.mismatch {fp : List Part} {s0 s : State}
    (h : Machine.Within fp s0 s) : (SideAct.mismatch s).Within fp s0 := h
theorem SideAct.Within.of_done {fp : List Part} {s0 s : State} {a : SideAct} (e : a = .done s)
    (h : a.Within fp s0) : Machine.Within fp s0 s := by
  subst e; exact h
theorem SideAct.Within.of_mismatch {fp : List Part} {s0 s : State} {a : SideAct} (e : a = .mismatch s)
    (h : a.Within fp s0) :
    Machine.Within fp s0 s := by
  subst e; exact h


theorem chargeStream_within {fp : List Part} {s0 s : State} (p st : Nat) (hk : Within fp s0 s)
    (hm : Covers [.hub, .slices, .sched] fp :=
      by exact Covers.sub ‹Covers _ _› (by decide)) :
    Within fp s0 (chargeStream p st s) := by
  unfold chargeStream; try dsimp only
  repeat' (with_reducible first
    | exact hk | exact hm.sub (by decide) | (refine Within.ite (fun _ => ?_) (fun _ => ?_)) | split
    | apply State.modStream_within | apply chargeCycles_within)

theorem chargeTick_within {fp : List Part} {s0 s : State} (hk : Within fp s0 s)
    (hm : Covers [.port, .hub, .contexts, .slices, .trestle, .sched, .wrd, .chest, .watch, .jnl, .power] fp :=
      by exact Covers.sub ‹Covers _ _› (by decide)) :
    Within fp s0 (chargeTick s) := by
  unfold chargeTick; try dsimp only
  repeat' (with_reducible first
    | exact hk | exact hm.sub (by decide) | (refine Within.ite (fun _ => ?_) (fun _ => ?_)) | split | assumption
    | apply Within.foldl | intro _ _ _ | apply chargeStream_within | apply decisionPass_within)

theorem evictAfterExpiry_within {fp : List Part} {s0 s : State} (r : Nat) (hk : Within fp s0 s)
    (hm : Covers [.port, .hub, .contexts, .slices, .trestle, .sched, .wrd, .chest, .watch, .jnl, .power] fp :=
      by exact Covers.sub ‹Covers _ _› (by decide)) :
    Within fp s0 (evictAfterExpiry r s) := by
  unfold evictAfterExpiry; try dsimp only
  repeat' (with_reducible first
    | exact hk | exact hm.sub (by decide) | (refine Within.ite (fun _ => ?_) (fun _ => ?_)) | split
    | apply countVacate_within | apply decisionPass_within | apply releaseRes_within)

theorem saveBytes_within {fp : List Part} {s0 s : State} (bs fs : List Nat) (hk : Within fp s0 s)
    (hm : Covers [.mem] fp :=
      by exact Covers.sub ‹Covers _ _› (by decide)) :
    Within fp s0 (saveBytes bs fs s) := by
  refine Within.foldl (fun _ _ h => h.mem (fun c => c.put _ (memWfP_copyCells _ _ _ _ (c.of _))) (hm.sub (by decide))) _ hk

theorem restoreBytes_within {fp : List Part} {s0 s : State} (bs fs : List Nat) (hk : Within fp s0 s)
    (hm : Covers [.mem] fp :=
      by exact Covers.sub ‹Covers _ _› (by decide)) :
    Within fp s0 (restoreBytes bs fs s) := by
  refine Within.foldl (fun _ _ h => h.mem (fun c => c.scratch (memWfP_copyCells _ _ _ _ c.2.2.2.1)) (hm.sub (by decide))) _ hk

theorem frameTraffic_within {fp : List Part} {s0 s : State} (write : Bool) (c : Nat) (bs fs : List Nat)
    (hk : Within fp s0 s)
    (hm : Covers [.port] fp :=
      by exact Covers.sub ‹Covers _ _› (by decide)) :
    Within fp s0 (frameTraffic write c bs fs s) := by
  unfold frameTraffic; try dsimp only
  repeat' (with_reducible first
    | exact hk | exact hm.sub (by decide) | (refine Within.ite (fun _ => ?_) (fun _ => ?_)) | split
    | apply emitAll_within)

theorem saveLanded_within {fp : List Part} {s0 s : State} (r : Nat) (hk : Within fp s0 s)
    (hm : Covers [.port, .mem, .hub, .contexts, .slices, .trestle, .sched, .wrd, .chest, .watch, .jnl, .power]
        fp :=
      by exact Covers.sub ‹Covers _ _› (by decide)) :
    Within fp s0 (saveLanded r s) := by
  unfold saveLanded; try dsimp only
  repeat' (with_reducible first
    | exact hk | exact hm.sub (by decide) | (refine Within.ite (fun _ => ?_) (fun _ => ?_)) | split
    | apply State.modRes_within | apply decisionPass_within | apply frameTraffic_within | apply requestParts_within
    | apply saveBytes_within | apply setBenches_within | apply startClear_within | apply trace_within)

theorem restoreLanded_within {fp : List Part} {s0 s : State} (r : Nat) (hk : Within fp s0 s)
    (hm : Covers [.port, .mem, .hub, .contexts, .objects, .graphs, .front, .bramble, .slices, .trestle, .sched,
        .wrd, .chest, .watch, .hutch, .jnl, .mgmt, .power, .link] fp :=
      by exact Covers.sub ‹Covers _ _› (by decide)) :
    Within fp s0 (restoreLanded r s) := by
  unfold restoreLanded; try dsimp only
  repeat' (with_reducible first
    | exact hk | exact hm.sub (by decide) | (refine Within.ite (fun _ => ?_) (fun _ => ?_)) | split
    | apply State.modRes_within | apply checkMapout_within | apply decisionPass_within | apply dropSave_within
    | apply frameTraffic_within | apply restoreBytes_within | apply setBenches_within | apply trace_within)

theorem clearDone_within {fp : List Part} {s0 s : State} (b : Nat) (hk : Within fp s0 s)
    (hm : Covers [.port, .mem, .hub, .contexts, .slices, .trestle, .sched, .wrd, .chest, .watch, .jnl, .power]
        fp :=
      by exact Covers.sub ‹Covers _ _› (by decide)) :
    Within fp s0 (clearDone b s) := by
  unfold clearDone; try dsimp only
  repeat' (with_reducible first
    | exact hk | exact hm.sub (by decide) | (refine Within.ite (fun _ => ?_) (fun _ => ?_)) | split
    | apply State.modSlice_within | apply clearBench_within | apply decisionPass_within | apply setBench_within
    | apply trace_within)

theorem readText_within {fp : List Part} {s0 s : State} (p : Nat) (l : Launch) (off : Nat) (hk : Within fp s0 s)
    (hm : Covers [.port, .hub] fp :=
      by exact Covers.sub ‹Covers _ _› (by decide)) :
    Within fp s0 (readText p l off s) := by
  unfold readText; try dsimp only
  repeat' (with_reducible first
    | exact hk | exact hm.sub (by decide) | (refine Within.ite (fun _ => ?_) (fun _ => ?_)) | split
    | apply readBy_within)

theorem readTable_within {fp : List Part} {s0 s : State} (p : Nat) (l : Launch) (a : Loc) (n : Nat)
    (hk : Within fp s0 s)
    (hm : Covers [.port] fp :=
      by exact Covers.sub ‹Covers _ _› (by decide)) :
    Within fp s0 (readTable p l a n s) := by
  unfold readTable; try dsimp only
  repeat' (with_reducible first
    | exact hk | exact hm.sub (by decide) | (refine Within.ite (fun _ => ?_) (fun _ => ?_)) | split
    | apply readReq_within)

theorem launchReceive_within {fp : List Part} {s0 s : State} (p st : Nat) (hk : Within fp s0 s)
    (hm : Covers [.port, .slices, .chest] fp :=
      by exact Covers.sub ‹Covers _ _› (by decide)) :
    Within fp s0 (launchReceive p st s) := by
  unfold launchReceive; try dsimp only
  repeat' (with_reducible first
    | exact hk | exact hm.sub (by decide) | (refine Within.ite (fun _ => ?_) (fun _ => ?_)) | split
    | apply State.modStream_within | apply readMarked_within | apply readTable_within)

theorem launchRetryRequest_within {fp : List Part} {s0 s : State} (p st cause : Nat) (hk : Within fp s0 s)
    (hm : Covers [.port, .mem, .hub, .contexts, .slices, .sched, .wrd, .chest, .watch, .hutch, .jnl, .power] fp
        :=
      by exact Covers.sub ‹Covers _ _› (by decide)) :
    Within fp s0 (launchRetryRequest p st cause s) := by
  unfold launchRetryRequest; try dsimp only
  repeat' (with_reducible first
    | exact hk | exact hm.sub (by decide) | (refine Within.ite (fun _ => ?_) (fun _ => ?_)) | split
    | apply State.modStream_within | apply emit_within | apply hutchRec_within | apply orderStage2_within
    | apply rewindQueue_within)

theorem stall_within {fp : List Part} {s0 s : State} (p st cause what : Nat) (hk : Within fp s0 s)
    (hm : Covers [.slices] fp :=
      by exact Covers.sub ‹Covers _ _› (by decide)) :
    Within fp s0 (stall p st cause what s) := by
  unfold stall; try dsimp only
  repeat' (with_reducible first
    | exact hk | exact hm.sub (by decide) | (refine Within.ite (fun _ => ?_) (fun _ => ?_)) | split
    | apply State.modSlice_within | apply State.modStream_within)

theorem lineArrives_within {fp : List Part} {s0 s : State} (p st off : Nat) (hk : Within fp s0 s)
    (hm : Covers [.port, .hub, .slices] fp :=
      by exact Covers.sub ‹Covers _ _› (by decide)) :
    Within fp s0 (lineArrives p st off s) := by
  unfold lineArrives; try dsimp only
  repeat' (with_reducible first
    | exact hk | exact hm.sub (by decide) | (refine Within.ite (fun _ => ?_) (fun _ => ?_)) | split
    | apply State.modSlice_within | apply State.modStream_within | apply readText_within)

theorem icacheFill_within {fp : List Part} {s0 s : State} (p st off : Nat) (hk : Within fp s0 s)
    (hm : Covers [.port, .hub, .slices] fp :=
      by exact Covers.sub ‹Covers _ _› (by decide)) :
    Within fp s0 (icacheFill p st off s) := by
  unfold icacheFill; try dsimp only
  repeat' (with_reducible first
    | exact hk | exact hm.sub (by decide) | (refine Within.ite (fun _ => ?_) (fun _ => ?_)) | split
    | apply State.modSlice_within | apply lineArrives_within | apply stall_within)

theorem alarmReport_within {fp : List Part} {s0 s : State} (p st : Nat) (r : AlarmReport) (hk : Within fp s0 s)
    (hm : Covers [.port, .slices] fp :=
      by exact Covers.sub ‹Covers _ _› (by decide)) :
    Within fp s0 (alarmReport p st r s) := by
  unfold alarmReport; try dsimp only
  repeat' (with_reducible first
    | exact hk | exact hm.sub (by decide) | (refine Within.ite (fun _ => ?_) (fun _ => ?_)) | split
    | apply State.modStream_within | apply emit_within)

theorem alarmSet_within {fp : List Part} {s0 s : State} (p st cycle id : Nat) (prefetch : Bool)
    (hk : Within fp s0 s)
    (hm : Covers [.port, .slices] fp :=
      by exact Covers.sub ‹Covers _ _› (by decide)) :
    Within fp s0 (alarmSet p st cycle id prefetch s) := by
  unfold alarmSet; try dsimp only
  repeat' (with_reducible first
    | exact hk | exact hm.sub (by decide) | (refine Within.ite (fun _ => ?_) (fun _ => ?_)) | split
    | apply State.modStream_within | apply alarmReport_within | apply emit_within)

theorem haltStream_within {fp : List Part} {s0 s : State} (p st : Nat) (f : Option StreamFault)
    (hk : Within fp s0 s)
    (hm : Covers [.slices] fp :=
      by exact Covers.sub ‹Covers _ _› (by decide)) :
    Within fp s0 (haltStream p st f s) := by
  unfold haltStream; try dsimp only
  repeat' (with_reducible first
    | exact hk | exact hm.sub (by decide) | (refine Within.ite (fun _ => ?_) (fun _ => ?_)) | split
    | apply State.modStream_within)

theorem programError_within {fp : List Part} {s0 s : State} (p st code : Nat) (hk : Within fp s0 s)
    (hm : Covers [.slices] fp :=
      by exact Covers.sub ‹Covers _ _› (by decide)) :
    Within fp s0 (programError p st code s) := by
  unfold programError; try dsimp only
  repeat' (with_reducible first
    | exact hk | exact hm.sub (by decide) | (refine Within.ite (fun _ => ?_) (fun _ => ?_)) | split
    | apply haltStream_within)

theorem slipEvent_within {fp : List Part} {s0 s : State} (p st : Nat) (hk : Within fp s0 s)
    (hm : Covers [.chest, .jnl] fp :=
      by exact Covers.sub ‹Covers _ _› (by decide)) :
    Within fp s0 (slipEvent p st s) := by
  unfold slipEvent; try dsimp only
  repeat' (with_reducible first
    | exact hk | exact hm.sub (by decide) | (refine Within.ite (fun _ => ?_) (fun _ => ?_)) | split
    | apply raiseEvent_within)

theorem stopRequest_within {fp : List Part} {s0 s : State} (p st : Nat) (hk : Within fp s0 s)
    (hm : Covers [.slices] fp :=
      by exact Covers.sub ‹Covers _ _› (by decide)) :
    Within fp s0 (stopRequest p st s) := by
  unfold stopRequest; try dsimp only
  repeat' (with_reducible first
    | exact hk | exact hm.sub (by decide) | (refine Within.ite (fun _ => ?_) (fun _ => ?_)) | split
    | apply haltStream_within)

theorem stopConfirm_within {fp : List Part} {s0 s : State} (p st : Nat) (hk : Within fp s0 s)
    (hm : Covers [.port, .hub, .front, .slices, .sched, .chest, .jnl] fp :=
      by exact Covers.sub ‹Covers _ _› (by decide)) :
    Within fp s0 (stopConfirm p st s) := by
  unfold stopConfirm; try dsimp only
  repeat' (with_reducible first
    | exact hk | exact hm.sub (by decide) | (refine Within.ite (fun _ => ?_) (fun _ => ?_)) | split
    | apply State.modStream_within | apply chargeStream_within | apply emit_within | apply settleStops_within
    | apply slipEvent_within)

theorem hazardReport_within {fp : List Part} {s0 s : State} (p st : Nat) (hk : Within fp s0 s)
    (hm : Covers [.port, .mem, .hub, .contexts, .objects, .front, .bramble, .slices, .trestle, .sched, .wrd,
        .chest, .watch, .hutch, .jnl, .power, .link] fp :=
      by exact Covers.sub ‹Covers _ _› (by decide)) :
    Within fp s0 (hazardReport p st s) := by
  unfold hazardReport; try dsimp only
  repeat' (with_reducible first
    | exact hk | exact hm.sub (by decide) | (refine Within.ite (fun _ => ?_) (fun _ => ?_)) | split
    | apply State.modStream_within | apply faultStream_within | apply requestStops_within)

theorem streamRelease_within {fp : List Part} {s0 s : State} (p st : Nat) (hk : Within fp s0 s)
    (hm : Covers [.port, .slices, .sched, .chest, .jnl, .link] fp :=
      by exact Covers.sub ‹Covers _ _› (by decide)) :
    Within fp s0 (streamRelease p st s) := by
  unfold streamRelease; try dsimp only
  repeat' (with_reducible first
    | exact hk | exact hm.sub (by decide) | (refine Within.ite (fun _ => ?_) (fun _ => ?_)) | split
    | apply emit_within | apply releaseStream_within)

theorem readBatch_within {fp : List Part} {s0 s : State} (p : Nat) (l : Launch) (off n : Nat)
    (hk : Within fp s0 s)
    (hm : Covers [.port] fp :=
      by exact Covers.sub ‹Covers _ _› (by decide)) :
    Within fp s0 (readBatch p l off n s) := by
  unfold readBatch; try dsimp only
  repeat' (with_reducible first
    | exact hk | exact hm.sub (by decide) | (refine Within.ite (fun _ => ?_) (fun _ => ?_)) | split
    | apply readTable_within)

theorem writeResults_within {fp : List Part} {s0 s : State} (p : Nat) (l : Launch) (b : List Byte)
    (ws : List (Nat × Byte)) (hk : Within fp s0 s)
    (hm : Covers [.port, .mem] fp :=
      by exact Covers.sub ‹Covers _ _› (by decide)) :
    Within fp s0 (writeResults p l b ws s) := by
  unfold writeResults; dsimp only
  refine Within.foldl (fun _ _ h => Within.ite (fun _ => portWrite_within _ _ _ _ h) (fun _ => h)) _ hk

theorem unitActions_within {fp : List Part} {s0 s : State} (p : Nat) (l : Launch) (actions : List Byte)
    (cycle : Nat) (hk : Within fp s0 s)
    (hm : Covers [.port, .mem] fp :=
      by exact Covers.sub ‹Covers _ _› (by decide)) :
    Within fp s0 (unitActions p l actions cycle s) := by
  unfold unitActions; dsimp only
  refine Within.ite (fun _ => hk) (fun _ => Within.foldl (fun _ _ h => writeResults_within _ _ _ _ ?_) _
    (readBatch_within _ _ _ _ hk))
  exact h.mem (fun c => c.scratch (memWfP_foldPut _ _ c.2.2.2.1)) (hm.sub (by decide))

theorem prefetchText_within {fp : List Part} {s0 s : State} (p : Nat) (l : Launch) (hk : Within fp s0 s)
    (hm : Covers [.port, .hub, .slices] fp :=
      by exact Covers.sub ‹Covers _ _› (by decide)) :
    Within fp s0 (prefetchText p l s) := by
  unfold prefetchText; try dsimp only
  repeat' (with_reducible first
    | exact hk | exact hm.sub (by decide) | (refine Within.ite (fun _ => ?_) (fun _ => ?_)) | split | assumption
    | apply Within.foldl | intro _ _ _ | apply State.modSlice_within | apply readText_within)

theorem fireAlarms_within {fp : List Part} {s0 s : State} (p st : Nat) (l : Launch) (cycle : Nat)
    (hk : Within fp s0 s)
    (hm : Covers [.port, .hub, .slices] fp :=
      by exact Covers.sub ‹Covers _ _› (by decide)) :
    Within fp s0 (fireAlarms p st l cycle s) := by
  unfold fireAlarms; try dsimp only
  repeat' (with_reducible first
    | exact hk | exact hm.sub (by decide) | (refine Within.ite (fun _ => ?_) (fun _ => ?_)) | split | assumption
    | apply Within.foldl | intro _ _ _ | apply State.modStream_within | apply alarmReport_within
    | apply prefetchText_within)

theorem useLines_within {fp : List Part} {s0 s : State} (p : Nat) (l : Launch) (pc n : Nat)
    (hk : Within fp s0 s)
    (hm : Covers [.slices] fp :=
      by exact Covers.sub ‹Covers _ _› (by decide)) :
    Within fp s0 (useLines p l pc n s) := by
  unfold useLines; try dsimp only
  repeat' (with_reducible first
    | exact hk | exact hm.sub (by decide) | (refine Within.ite (fun _ => ?_) (fun _ => ?_)) | split | assumption
    | apply Within.foldl | intro _ _ _ | apply State.modSlice_within)

theorem issueCommon_within {fp : List Part} {s0 s : State} (p st : Nat) (l : Launch) (b : Ctl)
    (actions : List Byte) (hk : Within fp s0 s)
    (hm : Covers [.port, .mem, .hub, .slices] fp :=
      by exact Covers.sub ‹Covers _ _› (by decide)) :
    Within fp s0 (issueCommon p st l b actions s) := by
  unfold issueCommon; try dsimp only
  repeat' (with_reducible first
    | exact hk | exact hm.sub (by decide) | (refine Within.ite (fun _ => ?_) (fun _ => ?_)) | split
    | apply State.modStream_within | apply fireAlarms_within | apply unitActions_within | apply useLines_within)

theorem issueBundle_within {fp : List Part} {s0 s : State} (p st : Nat) (l : Launch) (b : Ctl)
    (actions : List Byte) (loops : List (Nat × Nat)) (pc : Nat) (hk : Within fp s0 s)
    (hm : Covers [.port, .mem, .hub, .slices] fp :=
      by exact Covers.sub ‹Covers _ _› (by decide)) :
    Within fp s0 (issueBundle p st l b actions loops pc s) := by
  unfold issueBundle; try dsimp only
  repeat' (with_reducible first
    | exact hk | exact hm.sub (by decide) | (refine Within.ite (fun _ => ?_) (fun _ => ?_)) | split
    | apply State.modStream_within | apply issueCommon_within)

theorem bundleGo_within {fp : List Part} {s0 s : State} (p st : Nat) (hazard : Option (Nat × Nat)) (x : Stream)
    (l : Launch) (b : Ctl) (hk : Within fp s0 s)
    (hm : Covers [.port, .mem, .hub, .slices] fp :=
      by exact Covers.sub ‹Covers _ _› (by decide)) :
    Within fp s0 (bundleGo p st hazard x l b s) := by
  unfold bundleGo; try dsimp only
  repeat' (with_reducible first
    | exact hk | exact hm.sub (by decide) | (refine Within.ite (fun _ => ?_) (fun _ => ?_)) | split
    | apply State.modStream_within | apply haltStream_within | apply issueBundle_within | apply programError_within
    | apply stall_within)

theorem bundleRun_within {fp : List Part} {s0 s : State} (p st : Nat) (hazard : Option (Nat × Nat)) (x : Stream)
    (l : Launch) (hk : Within fp s0 s)
    (hm : Covers [.port, .mem, .hub, .slices] fp :=
      by exact Covers.sub ‹Covers _ _› (by decide)) :
    Within fp s0 (bundleRun p st hazard x l s) := by
  unfold bundleRun; try dsimp only
  repeat' (with_reducible first
    | exact hk | exact hm.sub (by decide) | (refine Within.ite (fun _ => ?_) (fun _ => ?_)) | split
    | apply bundleGo_within | apply programError_within | apply stall_within)

theorem bundleIssue_within {fp : List Part} {s0 s : State} (p st : Nat) (hazard : Option (Nat × Nat))
    (hk : Within fp s0 s)
    (hm : Covers [.port, .mem, .hub, .slices] fp :=
      by exact Covers.sub ‹Covers _ _› (by decide)) :
    Within fp s0 (bundleIssue p st hazard s) := by
  unfold bundleIssue; try dsimp only
  repeat' (with_reducible first
    | exact hk | exact hm.sub (by decide) | (refine Within.ite (fun _ => ?_) (fun _ => ?_)) | split
    | apply bundleRun_within | apply haltStream_within | apply stall_within)

theorem streamDrainDone_within {fp : List Part} {s0 s : State} (p st : Nat) (hk : Within fp s0 s)
    (hm : Covers [.port, .mem, .hub, .front, .slices, .chest, .jnl] fp :=
      by exact Covers.sub ‹Covers _ _› (by decide)) :
    Within fp s0 (streamDrainDone p st s) := by
  unfold streamDrainDone; try dsimp only
  repeat' (with_reducible first
    | exact hk | exact hm.sub (by decide) | (refine Within.ite (fun _ => ?_) (fun _ => ?_)) | split | assumption
    | apply Within.foldl | intro _ _ _ | apply State.modStream_within | apply alarmReport_within
    | apply emit_within | apply issueCommon_within | apply settleStops_within | apply slipEvent_within)

theorem stepEnded_within {fp : List Part} {s0 s : State} (l : Nat) (r : Nat) (hk : Within fp s0 s)
    (hm : Covers [.trestle, .sched, .jnl] fp :=
      by exact Covers.sub ‹Covers _ _› (by decide)) :
    Within fp s0 (stepEnded l r s) := by
  unfold stepEnded; try dsimp only
  repeat' (with_reducible first
    | exact hk | exact hm.sub (by decide) | (refine Within.ite (fun _ => ?_) (fun _ => ?_)) | split
    | apply State.modLoop_within | apply State.modRes_within | apply trace_within)

theorem runEnded_within {fp : List Part} {s0 s : State} (k pos r : Nat) (hk : Within fp s0 s)
    (hm : Covers [.port, .hub, .contexts, .front, .slices, .trestle, .sched, .wrd, .chest, .watch, .jnl,
        .power] fp :=
      by exact Covers.sub ‹Covers _ _› (by decide)) :
    Within fp s0 (runEnded k pos r s) := by
  unfold runEnded; try dsimp only
  repeat' (with_reducible first
    | exact hk | exact hm.sub (by decide) | (refine Within.ite (fun _ => ?_) (fun _ => ?_)) | split
    | apply State.modRes_within | apply decisionPass_within | apply finishOk_within | apply settleReady_within
    | apply settleStops_within)

theorem badReport_within {fp : List Part} {s0 s : State} (p st : Nat) (l : Launch) (hk : Within fp s0 s)
    (hm : Covers [.port, .mem, .hub, .contexts, .objects, .front, .bramble, .slices, .trestle, .sched, .wrd,
        .chest, .watch, .hutch, .jnl, .power, .link] fp :=
      by exact Covers.sub ‹Covers _ _› (by decide)) :
    Within fp s0 (badReport p st l s) := by
  unfold badReport; try dsimp only
  repeat' (with_reducible first
    | exact hk | exact hm.sub (by decide) | (refine Within.ite (fun _ => ?_) (fun _ => ?_)) | split
    | apply State.modSlice_within | apply emit_within | apply hutchRec_within | apply machineCheck_within)

theorem stepEndReport_within {fp : List Part} {s0 s : State} (p st : Nat) (crcOk : Bool) (hk : Within fp s0 s)
    (hm : Covers [.port, .mem, .hub, .contexts, .objects, .front, .bramble, .slices, .trestle, .sched, .wrd,
        .chest, .watch, .hutch, .jnl, .power, .link] fp :=
      by exact Covers.sub ‹Covers _ _› (by decide)) :
    Within fp s0 (stepEndReport p st crcOk s) := by
  unfold stepEndReport; try dsimp only
  repeat' (with_reducible first
    | exact hk | exact hm.sub (by decide) | (refine Within.ite (fun _ => ?_) (fun _ => ?_)) | split
    | apply State.modSlice_within | apply badReport_within | apply chargeStream_within | apply releaseStream_within
    | apply runEnded_within | apply stepEnded_within)

theorem State.modEngine_within {fp : List Part} {s0 s : State} (p st eng : Nat) (f : SideEngine → SideEngine)
    (hk : Within fp s0 s)
    (hm : Covers [.slices] fp :=
      by exact Covers.sub ‹Covers _ _› (by decide)) :
    Within fp s0 (State.modEngine s p st eng f) := by
  unfold State.modEngine; try dsimp only
  repeat' (with_reducible first
    | exact hk | exact hm.sub (by decide) | (refine Within.ite (fun _ => ?_) (fun _ => ?_)) | split
    | apply State.modStream_within)

theorem sideFault_within {fp : List Part} {s0 s : State} (p st eng : Nat) (h : Posted) (status : Status)
    (code address : Nat) (hk : Within fp s0 s)
    (hm : Covers [.slices] fp :=
      by exact Covers.sub ‹Covers _ _› (by decide)) :
    Within fp s0 (sideFault p st eng h status code address s) := by
  unfold sideFault; try dsimp only
  repeat' (with_reducible first
    | exact hk | exact hm.sub (by decide) | (refine Within.ite (fun _ => ?_) (fun _ => ?_)) | split
    | apply State.modEngine_within | apply haltStream_within)

theorem takeSide_within {fp : List Part} {s0 s : State} (p st eng op : Nat)
    (act : Launch → SideCmd → State → SideAct) (hk : Within fp s0 s)
    (ha : ∀ l c s, Within fp s0 s → (act l c s).Within fp s0)
    (hm : Covers [.port, .slices] fp :=
      by exact Covers.sub ‹Covers _ _› (by decide)) : Within fp s0 (takeSide p st eng op act s) := by
  unfold takeSide; dsimp only
  split
  · exact hk
  · next l _ =>
    split
    · exact hk
    · next h pc _ =>
      refine Within.ite (fun _ => hk) (fun _ => Within.ite (fun _ => sideFault_within _ _ _ _ _ _ _ hk) (fun _ => ?_))
      have hr : Within fp s0 (if (engineAt (streamAt p st s) eng).waiting = true then s
          else readTable p l (storeLoc l (imSideOff (launchImage l s) + pc) s) 32 s) :=
        Within.ite (fun _ => hk) (fun _ => readTable_within _ _ _ _ hk)
      generalize (if (engineAt (streamAt p st s) eng).waiting = true then s
          else readTable p l (storeLoc l (imSideOff (launchImage l s) + pc) s) 32 s) = r at hr ⊢
      refine Within.ite (fun _ => sideFault_within _ _ _ _ _ _ _ hr) (fun _ => Within.ite (fun _ => hk) (fun _ => ?_))
      split
      · next e => exact State.modEngine_within _ _ _ _ (SideAct.Within.of_done e (ha _ _ _ hr))
      · exact sideFault_within _ _ _ _ _ _ _ hr
      · next e => exact sideFault_within _ _ _ _ _ _ _ (SideAct.Within.of_mismatch e (ha _ _ _ hr))
      · exact State.modEngine_within _ _ _ _ hr
      · exact hk

theorem scratchWrite_within {fp : List Part} {s0 s : State} (a : Nat) (bs : List Byte) (hk : Within fp s0 s)
    (hm : Covers [.mem] fp :=
      by exact Covers.sub ‹Covers _ _› (by decide)) :
    Within fp s0 (scratchWrite a bs s) := by
  exact hk.mem (fun c => c.scratch (memWfP_writeN _ _ c.2.2.2.1)) (hm.sub (by decide))

theorem readHot_within {fp : List Part} {s0 s : State} (p c : Nat) (m : Model) (off n : Nat)
    (hk : Within fp s0 s)
    (hm : Covers [.port, .hub] fp :=
      by exact Covers.sub ‹Covers _ _› (by decide)) :
    Within fp s0 (readHot p c m off n s) := by
  unfold readHot; try dsimp only
  repeat' (with_reducible first
    | exact hk | exact hm.sub (by decide) | (refine Within.ite (fun _ => ?_) (fun _ => ?_)) | split | assumption
    | apply Within.foldl | intro _ _ _ | apply readBy_within)

theorem loadAct_within {fp : List Part} {s0 s : State} (p : Nat) (l : Launch) (c : SideCmd)
    (hk : Within fp s0 s)
    (hm : Covers [.port, .mem, .hub] fp :=
      by exact Covers.sub ‹Covers _ _› (by decide)) :
    (loadAct p l c s).Within fp s0 := by
  unfold loadAct; try dsimp only
  repeat' first | exact True.intro | (with_reducible first
    | exact hk | exact hm.sub (by decide) | (refine Within.ite (fun _ => ?_) (fun _ => ?_)) | split
    | apply readBy_within | apply readHot_within | apply scratchWrite_within | apply SideAct.Within.done
    | apply SideAct.Within.mismatch | assumption)

theorem storeAct_within {fp : List Part} {s0 s : State} (p : Nat) (l : Launch) (c : SideCmd)
    (hk : Within fp s0 s)
    (hm : Covers [.port, .mem, .hub] fp :=
      by exact Covers.sub ‹Covers _ _› (by decide)) :
    (storeAct p l c s).Within fp s0 := by
  unfold storeAct; try dsimp only
  repeat' first | exact True.intro | (with_reducible first
    | exact hk | exact hm.sub (by decide) | (refine Within.ite (fun _ => ?_) (fun _ => ?_)) | split
    | apply writeBy_within | apply SideAct.Within.done | apply SideAct.Within.mismatch | assumption)

theorem reportLost_within {fp : List Part} {s0 s : State} (i f : Nat) (hk : Within fp s0 s)
    (hm : Covers [.trestle] fp :=
      by exact Covers.sub ‹Covers _ _› (by decide)) :
    Within fp s0 (reportLost i f s) := by
  unfold reportLost; try dsimp only
  repeat' (with_reducible first
    | exact hk | exact hm.sub (by decide) | (refine Within.ite (fun _ => ?_) (fun _ => ?_)) | split
    | apply State.modSeq_within)

theorem gatherPage_within {fp : List Part} {s0 s : State} (p : Nat) (l : Launch) (c : SideCmd) (i : Nat)
    (e : LeafEntry) (a : Nat) (hk : Within fp s0 s)
    (hm : Covers [.port, .mem, .hub, .trestle, .wrd] fp :=
      by exact Covers.sub ‹Covers _ _› (by decide)) :
    Within fp s0 (gatherPage p l c i e a s) := by
  unfold gatherPage; try dsimp only
  repeat' (with_reducible first
    | exact hk | exact hm.sub (by decide) | (refine Within.ite (fun _ => ?_) (fun _ => ?_)) | split
    | apply readBy_within | apply reportLost_within | apply scratchWrite_within | apply setFrame_within)

theorem readRecord_within {fp : List Part} {s0 s : State} (p : Nat) (l : Launch) (c : SideCmd)
    (hk : Within fp s0 s)
    (hm : Covers [.port] fp :=
      by exact Covers.sub ‹Covers _ _› (by decide)) :
    Within fp s0 (readRecord p l c s) := by
  unfold readRecord; try dsimp only
  repeat' (with_reducible first
    | exact hk | exact hm.sub (by decide) | (refine Within.ite (fun _ => ?_) (fun _ => ?_)) | split
    | apply readBatch_within)

theorem gatherAct_within {fp : List Part} {s0 s : State} (p : Nat) (l : Launch) (c : SideCmd)
    (hk : Within fp s0 s)
    (hm : Covers [.port, .mem, .hub, .trestle, .wrd] fp :=
      by exact Covers.sub ‹Covers _ _› (by decide)) :
    (gatherAct p l c s).Within fp s0 := by
  unfold gatherAct; try dsimp only
  repeat' first | exact True.intro | (with_reducible first
    | exact hk | exact hm.sub (by decide) | (refine Within.ite (fun _ => ?_) (fun _ => ?_)) | split | assumption
    | apply Within.foldl | intro _ _ _ | apply gatherPage_within | apply readRecord_within
    | apply SideAct.Within.done | apply SideAct.Within.mismatch | assumption)

theorem scatterAct_within {fp : List Part} {s0 s : State} (p : Nat) (l : Launch) (c : SideCmd)
    (hk : Within fp s0 s)
    (hm : Covers [.port, .mem, .hub, .trestle] fp :=
      by exact Covers.sub ‹Covers _ _› (by decide)) :
    (scatterAct p l c s).Within fp s0 := by
  unfold scatterAct; try dsimp only
  repeat' first | exact True.intro | (with_reducible first
    | exact hk | exact hm.sub (by decide) | (refine Within.ite (fun _ => ?_) (fun _ => ?_)) | split | assumption
    | apply Within.foldl | intro _ _ _ | apply readRecord_within | apply reportLost_within | apply writeBy_within
    | apply SideAct.Within.done | apply SideAct.Within.mismatch | assumption)

theorem sendAct_within {fp : List Part} {s0 s : State} (p st : Nat) (l : Launch) (c : SideCmd)
    (hk : Within fp s0 s)
    (hm : Covers [.port, .hub] fp :=
      by exact Covers.sub ‹Covers _ _› (by decide)) :
    (sendAct p st l c s).Within fp s0 := by
  unfold sendAct; try dsimp only
  repeat' first | exact True.intro | (with_reducible first
    | exact hk | exact hm.sub (by decide) | (refine Within.ite (fun _ => ?_) (fun _ => ?_)) | split
    | apply charge_within | apply emit_within | apply SideAct.Within.done | apply SideAct.Within.mismatch
    | assumption)

theorem recvAct_within {fp : List Part} {s0 s : State} (p st : Nat) (l : Launch) (c : SideCmd)
    (hk : Within fp s0 s)
    (hm : Covers [.mem, .link] fp :=
      by exact Covers.sub ‹Covers _ _› (by decide)) :
    (recvAct p st l c s).Within fp s0 := by
  unfold recvAct; try dsimp only
  repeat' first | exact True.intro | (with_reducible first
    | exact hk | exact hm.sub (by decide) | (fail_if_no_progress refine Within.link ?_ (hm.sub (by decide)) _)
    | (refine Within.ite (fun _ => ?_) (fun _ => ?_)) | split | apply scratchWrite_within
    | apply SideAct.Within.done | apply SideAct.Within.mismatch | assumption)

theorem collectiveData_within {fp : List Part} {s0 s : State} (p st peer chan : Nat) (data : List Byte)
    (hk : Within fp s0 s)
    (hm : Covers [.hub, .link] fp :=
      by exact Covers.sub ‹Covers _ _› (by decide)) :
    Within fp s0 (collectiveData p st peer chan data s) := by
  unfold collectiveData; try dsimp only
  repeat' (with_reducible first
    | exact hk | exact hm.sub (by decide) | (fail_if_no_progress refine Within.link ?_ (hm.sub (by decide)) _)
    | (refine Within.ite (fun _ => ?_) (fun _ => ?_)) | split | apply charge_within)

theorem writeReg_within {fp : List Part} {s0 s : State} (p st r : Nat) (v : W64) (hk : Within fp s0 s)
    (hm : Covers [.slices] fp :=
      by exact Covers.sub ‹Covers _ _› (by decide)) :
    Within fp s0 (writeReg p st r v s) := by
  unfold writeReg; try dsimp only
  repeat' (with_reducible first
    | exact hk | exact hm.sub (by decide) | (refine Within.ite (fun _ => ?_) (fun _ => ?_)) | split
    | apply State.modStream_within)

theorem reduceAct_within {fp : List Part} {s0 s : State} (p st : Nat) (l : Launch) (c : SideCmd)
    (hk : Within fp s0 s)
    (hm : Covers [.slices] fp :=
      by exact Covers.sub ‹Covers _ _› (by decide)) :
    (reduceAct p st l c s).Within fp s0 := by
  unfold reduceAct; try dsimp only
  repeat' first | exact True.intro | (with_reducible first
    | exact hk | exact hm.sub (by decide) | (refine Within.ite (fun _ => ?_) (fun _ => ?_)) | split
    | apply writeReg_within | apply SideAct.Within.done | apply SideAct.Within.mismatch | assumption)

theorem setregAct_within {fp : List Part} {s0 s : State} (p st : Nat) (x0 : Launch) (c : SideCmd)
    (hk : Within fp s0 s)
    (hm : Covers [.slices] fp :=
      by exact Covers.sub ‹Covers _ _› (by decide)) :
    (setregAct p st x0 c s).Within fp s0 := by
  unfold setregAct; try dsimp only
  repeat' first | exact True.intro | (with_reducible first
    | exact hk | exact hm.sub (by decide) | (refine Within.ite (fun _ => ?_) (fun _ => ?_)) | split
    | apply writeReg_within | apply SideAct.Within.done | apply SideAct.Within.mismatch | assumption)

theorem sidePieceLanded_within {fp : List Part} {s0 s : State} (p st eng : Nat) (hk : Within fp s0 s)
    (hm : Covers [.slices] fp :=
      by exact Covers.sub ‹Covers _ _› (by decide)) :
    Within fp s0 (sidePieceLanded p st eng s) := by
  unfold sidePieceLanded; try dsimp only
  repeat' (with_reducible first
    | exact hk | exact hm.sub (by decide) | (refine Within.ite (fun _ => ?_) (fun _ => ?_)) | split
    | apply State.modEngine_within | apply State.modStream_within)

theorem sideCommandLanded_within {fp : List Part} {s0 s : State} (p st eng : Nat) (hk : Within fp s0 s)
    (hm : Covers [.slices] fp :=
      by exact Covers.sub ‹Covers _ _› (by decide)) :
    Within fp s0 (sideCommandLanded p st eng s) := by
  unfold sideCommandLanded; try dsimp only
  repeat' (with_reducible first
    | exact hk | exact hm.sub (by decide) | (refine Within.ite (fun _ => ?_) (fun _ => ?_)) | split
    | apply State.modStream_within)

theorem objResult_within {fp : List Part} {s0 s : State} (r id : Nat) (hk : Within fp s0 s)
    (hm : Covers [.hub] fp :=
      by exact Covers.sub ‹Covers _ _› (by decide)) :
    Within fp s0 (objResult r id s) := by
  unfold objResult; try dsimp only
  repeat' (with_reducible first
    | exact hk | exact hm.sub (by decide) | (fail_if_no_progress refine Within.hub ?_ (hm.sub (by decide)) _)
    | (refine Within.ite (fun _ => ?_) (fun _ => ?_)) | split)

theorem takeArenas_within {fp : List Part} {s0 s : State} (t : TenantRec) (hk : Within fp s0 s)
    (hm : Covers [.wrd] fp :=
      by exact Covers.sub ‹Covers _ _› (by decide)) :
    Within fp s0 (takeArenas t s) := by
  unfold takeArenas; try dsimp only
  repeat' (with_reducible first
    | exact hk | exact hm.sub (by decide) | (fail_if_no_progress refine Within.wrd ?_ (hm.sub (by decide)) _)
    | (refine Within.ite (fun _ => ?_) (fun _ => ?_)) | split)

theorem tenantActivate_within {fp : List Part} {s0 s : State} (id : Nat) (rd : HostRead) (hk : Within fp s0 s)
    (hm : Covers [.port, .hub, .tenants, .wrd] fp :=
      by exact Covers.sub ‹Covers _ _› (by decide)) :
    Within fp s0 (tenantActivate id rd s) := by
  unfold tenantActivate; try dsimp only
  repeat' (with_reducible first
    | exact hk | exact hm.sub (by decide) | (fail_if_no_progress refine Within.tenants ?_ (hm.sub (by decide)) _)
    | (refine Within.ite (fun _ => ?_) (fun _ => ?_)) | split | apply cmdIgnored_within | apply objResult_within
    | apply readReq_within | apply takeArenas_within | apply usageSend_within)

theorem dropTenantModels_within {fp : List Part} {s0 s : State} (t : Nat) (hk : Within fp s0 s)
    (hm : Covers [.port, .mem, .hub, .objects, .graphs, .front, .bramble, .slices, .wrd, .chest, .jnl] fp :=
      by exact Covers.sub ‹Covers _ _› (by decide)) :
    Within fp s0 (dropTenantModels t s) := by
  unfold dropTenantModels; try dsimp only
  repeat' (with_reducible first
    | exact hk | exact hm.sub (by decide) | (refine Within.ite (fun _ => ?_) (fun _ => ?_)) | split | assumption
    | apply Within.foldl | intro _ _ _ | apply removeModel_within)

theorem tenantRetire_within {fp : List Part} {s0 s : State} (id : Nat) (hk : Within fp s0 s)
    (hm : Covers [.port, .mem, .hub, .tenants, .objects, .graphs, .front, .bramble, .slices, .wrd, .chest,
        .jnl] fp :=
      by exact Covers.sub ‹Covers _ _› (by decide)) :
    Within fp s0 (tenantRetire id s) := by
  unfold tenantRetire; try dsimp only
  repeat' (with_reducible first
    | exact hk | exact hm.sub (by decide) | (fail_if_no_progress refine Within.tenants ?_ (hm.sub (by decide)) _)
    | (refine Within.ite (fun _ => ?_) (fun _ => ?_)) | split | assumption | apply Within.foldl | intro _ _ _
    | apply cmdIgnored_within | apply dropTenantModels_within | apply flushBytes_within | apply objResult_within
    | apply usageSend_within)

theorem contextActivate_within {fp : List Part} {s0 s : State} (id : Nat) (rd : HostRead) (hk : Within fp s0 s)
    (hm : Covers [.port, .hub, .contexts] fp :=
      by exact Covers.sub ‹Covers _ _› (by decide)) :
    Within fp s0 (contextActivate id rd s) := by
  unfold contextActivate; try dsimp only
  repeat' (with_reducible first
    | exact hk | exact hm.sub (by decide)
    | (fail_if_no_progress refine Within.hub_contexts ?_ (hm.sub (by decide)) _ _)
    | (refine Within.ite (fun _ => ?_) (fun _ => ?_)) | split | apply cmdIgnored_within | apply objResult_within
    | apply readReq_within)

theorem freeContext_within {fp : List Part} {s0 s : State} (c : Nat) (hk : Within fp s0 s)
    (hm : Covers [.contexts, .front, .sched] fp :=
      by exact Covers.sub ‹Covers _ _› (by decide)) :
    Within fp s0 (freeContext c s) := by
  unfold freeContext; try dsimp only
  repeat' (with_reducible first
    | exact hk | exact hm.sub (by decide)
    | (fail_if_no_progress refine Within.contexts_front_sched ?_ (hm.sub (by decide)) _ _ _)
    | (refine Within.ite (fun _ => ?_) (fun _ => ?_)) | split)

theorem contextRetire_within {fp : List Part} {s0 s : State} (id : Nat) (hk : Within fp s0 s)
    (hm : Covers [.port, .mem, .hub, .contexts, .objects, .front, .bramble, .slices, .trestle, .sched, .wrd,
        .chest, .watch, .hutch, .jnl, .power, .link] fp :=
      by exact Covers.sub ‹Covers _ _› (by decide)) :
    Within fp s0 (contextRetire id s) := by
  unfold contextRetire; try dsimp only
  repeat' (with_reducible first
    | exact hk | exact hm.sub (by decide)
    | (fail_if_no_progress refine Within.hub_contexts ?_ (hm.sub (by decide)) _ _)
    | (refine Within.ite (fun _ => ?_) (fun _ => ?_)) | split | apply beginTeardown_within
    | apply cmdIgnored_within | apply freeContext_within | apply objResult_within)

theorem releaseStreams_within {fp : List Part} {s0 s : State} (c : Nat) (hk : Within fp s0 s)
    (hm : Covers [.hub, .slices, .sched, .chest, .jnl, .link] fp :=
      by exact Covers.sub ‹Covers _ _› (by decide)) :
    Within fp s0 (releaseStreams c s) := by
  unfold releaseStreams; try dsimp only
  repeat' (with_reducible first
    | exact hk | exact hm.sub (by decide) | (refine Within.ite (fun _ => ?_) (fun _ => ?_)) | split | assumption
    | apply Within.foldl | intro _ _ _ | apply chargeStream_within | apply releaseStream_within)

theorem dropKept_within {fp : List Part} {s0 s : State} (c : Nat) (hk : Within fp s0 s)
    (hm : Covers [.contexts, .wrd] fp :=
      by exact Covers.sub ‹Covers _ _› (by decide)) :
    Within fp s0 (dropKept c s) := by
  unfold dropKept; try dsimp only
  repeat' (with_reducible first
    | exact hk | exact hm.sub (by decide) | (fail_if_no_progress refine Within.contexts ?_ (hm.sub (by decide)) _)
    | (refine Within.ite (fun _ => ?_) (fun _ => ?_)) | split | apply freeFrames_within)

theorem releaseAllRes_within {fp : List Part} {s0 s : State} (c : Nat) (hk : Within fp s0 s)
    (hm : Covers [.port, .mem, .hub, .contexts, .sched, .wrd, .jnl, .power] fp :=
      by exact Covers.sub ‹Covers _ _› (by decide)) :
    Within fp s0 (releaseAllRes c s) := by
  unfold releaseAllRes; try dsimp only
  repeat' (with_reducible first
    | exact hk | exact hm.sub (by decide) | (refine Within.ite (fun _ => ?_) (fun _ => ?_)) | split | assumption
    | apply Within.foldl | intro _ _ _ | apply clearBench_within | apply dropKept_within | apply dropSave_within
    | apply releaseRes_within)

theorem orphanModels_within {fp : List Part} {s0 s : State} (c : Nat) (hk : Within fp s0 s)
    (hm : Covers [.port, .mem, .hub, .objects, .graphs, .front, .bramble, .slices, .wrd, .chest, .jnl] fp :=
      by exact Covers.sub ‹Covers _ _› (by decide)) :
    Within fp s0 (orphanModels c s) := by
  unfold orphanModels; try dsimp only
  repeat' (with_reducible first
    | exact hk | exact hm.sub (by decide) | (fail_if_no_progress refine Within.wrd ?_ (hm.sub (by decide)) _)
    | (refine Within.ite (fun _ => ?_) (fun _ => ?_)) | split | apply reapModels_within)

theorem dropOwned_within {fp : List Part} {s0 s : State} (c : Nat) (hk : Within fp s0 s)
    (hm : Covers [.port, .mem, .hub, .contexts, .objects, .graphs, .front, .bramble, .slices, .trestle, .sched,
        .wrd, .chest, .watch, .jnl, .power] fp :=
      by exact Covers.sub ‹Covers _ _› (by decide)) :
    Within fp s0 (dropOwned c s) := by
  unfold dropOwned; try dsimp only
  repeat' (with_reducible first
    | exact hk | exact hm.sub (by decide)
    | (fail_if_no_progress refine Within.objects_graphs ?_ (hm.sub (by decide)) _ _)
    | (refine Within.ite (fun _ => ?_) (fun _ => ?_)) | split | assumption | apply Within.foldl | intro _ _ _
    | apply closeLoop_within | apply dropLeft_within | apply dropLines_within | apply dropSeq_within
    | apply orphanModels_within)

theorem writeFault_within {fp : List Part} {s0 s : State} (c : Nat) (x : Context) (hk : Within fp s0 s)
    (hm : Covers [.port, .mem, .hub] fp :=
      by exact Covers.sub ‹Covers _ _› (by decide)) :
    Within fp s0 (writeFault c x s) := by
  unfold writeFault; try dsimp only
  repeat' (with_reducible first
    | exact hk | exact hm.sub (by decide) | (refine Within.ite (fun _ => ?_) (fun _ => ?_)) | split
    | apply hostWrite_within)

theorem endTeardown_within {fp : List Part} {s0 s : State} (c : Nat) (x : Context) (fault : Bool)
    (hk : Within fp s0 s)
    (hm : Covers [.port, .mem, .hub, .contexts, .objects, .graphs, .front, .bramble, .slices, .trestle, .sched,
        .wrd, .chest, .watch, .hutch, .jnl, .mgmt, .power, .link] fp :=
      by exact Covers.sub ‹Covers _ _› (by decide)) :
    Within fp s0 (endTeardown c x fault s) := by
  unfold endTeardown; try dsimp only
  repeat' (with_reducible first
    | exact hk | exact hm.sub (by decide) | (fail_if_no_progress refine Within.contexts ?_ (hm.sub (by decide)) _)
    | (fail_if_no_progress refine Within.sched ?_ (hm.sub (by decide)) _)
    | (refine Within.ite (fun _ => ?_) (fun _ => ?_)) | split | apply checkMapout_within
    | apply decisionPass_within | apply dropOwned_within | apply freeContext_within | apply objResult_within
    | apply releaseAllRes_within | apply releaseStreams_within | apply updateGvt_within | apply writeFault_within)

theorem teardownDone_within {fp : List Part} {s0 s : State} (c : Nat) (hk : Within fp s0 s)
    (hm : Covers [.port, .mem, .hub, .contexts, .objects, .graphs, .front, .bramble, .slices, .trestle, .sched,
        .wrd, .chest, .watch, .hutch, .jnl, .mgmt, .power, .link] fp :=
      by exact Covers.sub ‹Covers _ _› (by decide)) :
    Within fp s0 (teardownDone c s) := by
  unfold teardownDone; try dsimp only
  repeat' (with_reducible first
    | exact hk | exact hm.sub (by decide) | (refine Within.ite (fun _ => ?_) (fun _ => ?_)) | split
    | apply endTeardown_within)

theorem sealResult_within {fp : List Part} {s0 s : State} (r : Nat) (hk : Within fp s0 s)
    (hm : Covers [.hub] fp :=
      by exact Covers.sub ‹Covers _ _› (by decide)) :
    Within fp s0 (sealResult r s) := by
  unfold sealResult; try dsimp only
  repeat' (with_reducible first
    | exact hk | exact hm.sub (by decide) | (fail_if_no_progress refine Within.hub ?_ (hm.sub (by decide)) _)
    | (refine Within.ite (fun _ => ?_) (fun _ => ?_)) | split)

theorem sealLoad_within {fp : List Part} {s0 s : State} (slot : Nat) (rd : HostRead) (hk : Within fp s0 s)
    (hm : Covers [.port, .hub] fp :=
      by exact Covers.sub ‹Covers _ _› (by decide)) :
    Within fp s0 (sealLoad slot rd s) := by
  unfold sealLoad; try dsimp only
  repeat' (with_reducible first
    | exact hk | exact hm.sub (by decide) | (fail_if_no_progress refine Within.hub ?_ (hm.sub (by decide)) _)
    | (refine Within.ite (fun _ => ?_) (fun _ => ?_)) | split | apply cmdIgnored_within | apply readReq_within
    | apply sealResult_within)

theorem sealClear_within {fp : List Part} {s0 s : State} (slot : Nat) (hk : Within fp s0 s)
    (hm : Covers [.hub] fp :=
      by exact Covers.sub ‹Covers _ _› (by decide)) :
    Within fp s0 (sealClear slot s) := by
  unfold sealClear; try dsimp only
  repeat' (with_reducible first
    | exact hk | exact hm.sub (by decide) | (fail_if_no_progress refine Within.hub ?_ (hm.sub (by decide)) _)
    | (refine Within.ite (fun _ => ?_) (fun _ => ?_)) | split | apply cmdIgnored_within | apply sealResult_within)

theorem cellAllocate_within {fp : List Part} {s0 s : State} (cls queue : Nat) (tenant : Option Nat)
    (cells : List Nat) (hk : Within fp s0 s)
    (hm : Covers [.chest, .jnl] fp :=
      by exact Covers.sub ‹Covers _ _› (by decide)) :
    Within fp s0 (cellAllocate cls queue tenant cells s) := by
  unfold cellAllocate; try dsimp only
  repeat' (with_reducible first
    | exact hk | exact hm.sub (by decide) | (refine Within.ite (fun _ => ?_) (fun _ => ?_)) | split
    | apply State.modChest_within | apply evalChest_within | (refine grantNow_within _ ?_)
    | (refine WithinO.of ‹grantNow _ _ = some _› (grantNow_within _ ?_))
    | (refine Within.getD _ ?_ (grantNow_within _ ?_)) | exact WithinO.none | (refine WithinO.some ?_)
    | (refine WithinO.map ?_ (fun _ _ => ?_)) | assumption)

theorem chestCheck_within {fp : List Part} {s0 s : State} (code cls queue : Nat) (hk : Within fp s0 s)
    (hm : Covers [.port, .mem, .hub, .contexts, .objects, .front, .bramble, .slices, .trestle, .sched, .wrd,
        .chest, .watch, .hutch, .jnl, .power, .link] fp :=
      by exact Covers.sub ‹Covers _ _› (by decide)) :
    Within fp s0 (chestCheck code cls queue s) := by
  unfold chestCheck; try dsimp only
  repeat' (with_reducible first
    | exact hk | exact hm.sub (by decide) | (refine Within.ite (fun _ => ?_) (fun _ => ?_)) | split
    | apply machineCheck_within)

theorem cellMark_within {fp : List Part} {s0 s : State} (cls queue : Nat) (hk : Within fp s0 s)
    (hm : Covers [.chest] fp :=
      by exact Covers.sub ‹Covers _ _› (by decide)) :
    Within fp s0 (cellMark cls queue s) := by
  unfold cellMark; try dsimp only
  repeat' (with_reducible first
    | exact hk | exact hm.sub (by decide) | (refine Within.ite (fun _ => ?_) (fun _ => ?_)) | split
    | apply modCells_within)

theorem cellRewind_within {fp : List Part} {s0 s : State} (cls queue : Nat) (hk : Within fp s0 s)
    (hm : Covers [.port, .mem, .hub, .contexts, .objects, .front, .bramble, .slices, .trestle, .sched, .wrd,
        .chest, .watch, .hutch, .jnl, .power, .link] fp :=
      by exact Covers.sub ‹Covers _ _› (by decide)) :
    Within fp s0 (cellRewind cls queue s) := by
  unfold cellRewind; try dsimp only
  repeat' (with_reducible first
    | exact hk | exact hm.sub (by decide) | (refine Within.ite (fun _ => ?_) (fun _ => ?_)) | split
    | apply chestCheck_within | apply modCells_within)

theorem cellRelease_within {fp : List Part} {s0 s : State} (cls queue k : Nat) (hk : Within fp s0 s)
    (hm : Covers [.port, .mem, .hub, .contexts, .objects, .front, .bramble, .slices, .trestle, .sched, .wrd,
        .chest, .watch, .hutch, .jnl, .power, .link] fp :=
      by exact Covers.sub ‹Covers _ _› (by decide)) :
    Within fp s0 (cellRelease cls queue k s) := by
  unfold cellRelease; try dsimp only
  repeat' (with_reducible first
    | exact hk | exact hm.sub (by decide) | (refine Within.ite (fun _ => ?_) (fun _ => ?_)) | split
    | apply chestCheck_within | apply freeHead_within)

theorem correctedEcc_within {fp : List Part} {s0 s : State} (cell word : Nat) (hk : Within fp s0 s)
    (hm : Covers [.chest, .jnl] fp :=
      by exact Covers.sub ‹Covers _ _› (by decide)) :
    Within fp s0 (correctedEcc cell word s) := by
  unfold correctedEcc; try dsimp only
  repeat' (with_reducible first
    | exact hk | exact hm.sub (by decide) | (refine Within.ite (fun _ => ?_) (fun _ => ?_)) | split
    | apply State.modChest_within | apply raiseEvent_within)

theorem retireCell_within {fp : List Part} {s0 s : State} (cell : Nat) (hk : Within fp s0 s)
    (hm : Covers [.port, .mem, .hub, .contexts, .objects, .front, .bramble, .slices, .trestle, .sched, .wrd,
        .chest, .watch, .hutch, .jnl, .power, .link] fp :=
      by exact Covers.sub ‹Covers _ _› (by decide)) :
    Within fp s0 (retireCell cell s) := by
  unfold retireCell; try dsimp only
  repeat' (with_reducible first
    | exact hk | exact hm.sub (by decide) | (refine Within.ite (fun _ => ?_) (fun _ => ?_)) | split
    | apply State.modChest_within | apply orderStage3_within)

theorem poisonCtx_within {fp : List Part} {s0 s : State} (cs : List (Nat × Nat)) (cell : Nat)
    (hk : Within fp s0 s)
    (hm : Covers [.port, .mem, .hub, .contexts, .objects, .front, .bramble, .slices, .trestle, .sched, .wrd,
        .chest, .watch, .hutch, .jnl, .power, .link] fp :=
      by exact Covers.sub ‹Covers _ _› (by decide)) :
    Within fp s0 (poisonCtx cs cell s) := by
  unfold poisonCtx; try dsimp only
  repeat' (with_reducible first
    | exact hk | exact hm.sub (by decide) | (refine Within.ite (fun _ => ?_) (fun _ => ?_)) | split | assumption
    | apply Within.foldl | intro _ _ _ | apply faultLatch_within | apply memFaultCmd_within)

theorem poisonCmds_within {fp : List Part} {s0 s : State} (cs : List (Nat × Nat)) (cell : Nat)
    (hk : Within fp s0 s)
    (hm : Covers [.port, .mem, .hub, .contexts, .objects, .front, .bramble, .slices, .trestle, .sched, .wrd,
        .chest, .watch, .hutch, .jnl, .power, .link] fp :=
      by exact Covers.sub ‹Covers _ _› (by decide)) :
    Within fp s0 (poisonCmds cs cell s) := by
  unfold poisonCmds; try dsimp only
  repeat' (with_reducible first
    | exact hk | exact hm.sub (by decide) | (refine Within.ite (fun _ => ?_) (fun _ => ?_)) | split | assumption
    | apply Within.foldl | intro _ _ _ | apply poisonCtx_within)

theorem poisonFetch_within {fp : List Part} {s0 s : State} (k : Nat) (items : List Nat) (hk : Within fp s0 s)
    (hm : Covers [.front, .chest, .jnl] fp :=
      by exact Covers.sub ‹Covers _ _› (by decide)) :
    Within fp s0 (poisonFetch k items s) := by
  unfold poisonFetch; try dsimp only
  repeat' (with_reducible first
    | exact hk | exact hm.sub (by decide) | (refine Within.ite (fun _ => ?_) (fun _ => ?_)) | split | assumption
    | apply Within.foldl | intro _ _ _ | apply State.modQ_within | apply dropItem_within)

theorem poisonJournal_within {fp : List Part} {s0 s : State} (queue : Nat) (items : List Nat)
    (hk : Within fp s0 s)
    (hm : Covers [.trestle, .chest, .jnl] fp :=
      by exact Covers.sub ‹Covers _ _› (by decide)) :
    Within fp s0 (poisonJournal queue items s) := by
  unfold poisonJournal; try dsimp only
  repeat' (with_reducible first
    | exact hk | exact hm.sub (by decide) | (fail_if_no_progress refine Within.trestle ?_ (hm.sub (by decide)) _)
    | (refine Within.ite (fun _ => ?_) (fun _ => ?_)) | split | apply State.modLoop_within | apply journal_within)

theorem poisonOutcome_within {fp : List Part} {s0 s : State} (cls queue cell : Nat) (items : List Nat)
    (hk : Within fp s0 s)
    (hm : Covers [.port, .mem, .hub, .contexts, .objects, .front, .bramble, .slices, .trestle, .sched, .wrd,
        .chest, .watch, .hutch, .jnl, .power, .link] fp :=
      by exact Covers.sub ‹Covers _ _› (by decide)) :
    Within fp s0 (poisonOutcome cls queue cell items s) := by
  unfold poisonOutcome; try dsimp only
  repeat' (with_reducible first
    | exact hk | exact hm.sub (by decide) | (fail_if_no_progress refine Within.jnl ?_ (hm.sub (by decide)) _)
    | (refine Within.ite (fun _ => ?_) (fun _ => ?_)) | split | apply State.modQ_within | apply faultStream_within
    | apply poisonCmds_within | apply poisonFetch_within | apply poisonJournal_within)

theorem chestRecord_within {fp : List Part} {s0 s : State} (cls queue word cause : Nat) (c : Cell)
    (scrub : Bool) (hk : Within fp s0 s)
    (hm : Covers [.port, .mem, .hutch] fp :=
      by exact Covers.sub ‹Covers _ _› (by decide)) :
    Within fp s0 (chestRecord cls queue word cause c scrub s) := by
  unfold chestRecord; try dsimp only
  repeat' (with_reducible first
    | exact hk | exact hm.sub (by decide) | (refine Within.ite (fun _ => ?_) (fun _ => ?_)) | split
    | apply hutchRec_within)

theorem cellLost_within {fp : List Part} {s0 s : State} (cls queue : Nat) (i : Nat) (c : Cell)
    (word cause : Nat) (scrub : Bool) (hk : Within fp s0 s)
    (hm : Covers [.port, .mem, .hub, .contexts, .objects, .front, .bramble, .slices, .trestle, .sched, .wrd,
        .chest, .watch, .hutch, .jnl, .power, .link] fp :=
      by exact Covers.sub ‹Covers _ _› (by decide)) :
    Within fp s0 (cellLost cls queue i c word cause scrub s) := by
  unfold cellLost; try dsimp only
  repeat' (with_reducible first
    | exact hk | exact hm.sub (by decide) | (refine Within.ite (fun _ => ?_) (fun _ => ?_)) | split
    | apply State.modChest_within | apply chestRecord_within | apply modCells_within | apply modUsed_within
    | apply poisonOutcome_within | apply retireCell_within | apply settleChest_within)

theorem correctAll_within {fp : List Part} {s0 s : State} (cell : Nat) (ecc : List EccFinding)
    (hk : Within fp s0 s)
    (hm : Covers [.chest, .jnl] fp :=
      by exact Covers.sub ‹Covers _ _› (by decide)) :
    Within fp s0 (correctAll cell ecc s) := by
  unfold correctAll; try dsimp only
  repeat' (with_reducible first
    | exact hk | exact hm.sub (by decide) | (refine Within.ite (fun _ => ?_) (fun _ => ?_)) | split | assumption
    | apply Within.foldl | intro _ _ _ | apply correctedEcc_within)

theorem cellRead_within {fp : List Part} {s0 s : State} (cls queue : Nat) (ecc : List EccFinding)
    (hk : Within fp s0 s)
    (hm : Covers [.port, .mem, .hub, .contexts, .objects, .front, .bramble, .slices, .trestle, .sched, .wrd,
        .chest, .watch, .hutch, .jnl, .power, .link] fp :=
      by exact Covers.sub ‹Covers _ _› (by decide)) :
    Within fp s0 (cellRead cls queue ecc s) := by
  unfold cellRead; try dsimp only
  repeat' (with_reducible first
    | exact hk | exact hm.sub (by decide) | (refine Within.ite (fun _ => ?_) (fun _ => ?_)) | split
    | apply State.modChest_within | apply cellLost_within | apply correctAll_within | apply modCells_within)

theorem chestWalkDone_within {fp : List Part} {s0 s : State} (stray : Option Nat) (hk : Within fp s0 s)
    (hm : Covers [.port, .mem, .hub, .contexts, .objects, .front, .bramble, .slices, .trestle, .sched, .wrd,
        .chest, .watch, .hutch, .jnl, .power, .link] fp :=
      by exact Covers.sub ‹Covers _ _› (by decide)) :
    Within fp s0 (chestWalkDone stray s) := by
  unfold chestWalkDone; try dsimp only
  repeat' (with_reducible first
    | exact hk | exact hm.sub (by decide) | (refine Within.ite (fun _ => ?_) (fun _ => ?_)) | split | assumption
    | apply Within.foldl | intro _ _ _ | apply State.modChest_within | apply freeCells_within
    | apply machineCheck_within | apply settleChest_within)

theorem peakRead_within {fp : List Part} {s0 s : State} (cls : Option Nat) (hk : Within fp s0 s)
    (hm : Covers [.port, .chest] fp :=
      by exact Covers.sub ‹Covers _ _› (by decide)) :
    Within fp s0 (peakRead cls s) := by
  unfold peakRead; try dsimp only
  repeat' (with_reducible first
    | exact hk | exact hm.sub (by decide) | (fail_if_no_progress refine Within.port ?_ (hm.sub (by decide)) _)
    | (fail_if_no_progress refine Within.port_chest ?_ (hm.sub (by decide)) _ _)
    | (refine Within.ite (fun _ => ?_) (fun _ => ?_)) | split)

theorem State.modBureau_within {fp : List Part} {s0 s : State} (f : Bureau → Bureau) (hk : Within fp s0 s)
    (hm : Covers [.bureau] fp :=
      by exact Covers.sub ‹Covers _ _› (by decide)) :
    Within fp s0 (State.modBureau s f) := by
  unfold State.modBureau; try dsimp only
  repeat' (with_reducible first
    | exact hk | exact hm.sub (by decide) | (fail_if_no_progress refine Within.bureau ?_ (hm.sub (by decide)) _)
    | (refine Within.ite (fun _ => ?_) (fun _ => ?_)) | split)

theorem sensorSample_within {fp : List Part} {s0 s : State} (p : Nat) (code : BitVec 16) (hk : Within fp s0 s)
    (hm : Covers [.bureau] fp :=
      by exact Covers.sub ‹Covers _ _› (by decide)) :
    Within fp s0 (sensorSample p code s) := by
  unfold sensorSample; try dsimp only
  repeat' (with_reducible first
    | exact hk | exact hm.sub (by decide) | (refine Within.ite (fun _ => ?_) (fun _ => ?_)) | split
    | apply State.modBureau_within)

theorem bureauTick_within {fp : List Part} {s0 s : State} (hk : Within fp s0 s)
    (hm : Covers [.port, .bureau] fp :=
      by exact Covers.sub ‹Covers _ _› (by decide)) :
    Within fp s0 (bureauTick s) := by
  unfold bureauTick; try dsimp only
  repeat' (with_reducible first
    | exact hk | exact hm.sub (by decide) | (refine Within.ite (fun _ => ?_) (fun _ => ?_)) | split | assumption
    | apply Within.foldl | intro _ _ _ | apply State.modBureau_within | apply emit_within)

theorem takeUsage_within {fp : List Part} {s0 s : State} (kind : Nat) (hk : Within fp s0 s)
    (hm : Covers [.hub, .bureau] fp :=
      by exact Covers.sub ‹Covers _ _› (by decide)) :
    Within fp s0 (takeUsage kind s) := by
  unfold takeUsage; try dsimp only
  repeat' (with_reducible first
    | exact hk | exact hm.sub (by decide)
    | (fail_if_no_progress refine Within.hub_bureau ?_ (hm.sub (by decide)) _ _)
    | (refine Within.ite (fun _ => ?_) (fun _ => ?_)) | split)

theorem bytFlushTimer_within {fp : List Part} {s0 s : State} (tenant cls : Nat) (hk : Within fp s0 s)
    (hm : Covers [.hub] fp :=
      by exact Covers.sub ‹Covers _ _› (by decide)) :
    Within fp s0 (bytFlushTimer tenant cls s) := by
  unfold bytFlushTimer; try dsimp only
  repeat' (with_reducible first
    | exact hk | exact hm.sub (by decide) | (refine Within.ite (fun _ => ?_) (fun _ => ?_)) | split
    | apply flushBytes_within)

theorem periodicReport_within {fp : List Part} {s0 s : State} (hk : Within fp s0 s)
    (hm : Covers [.bureau] fp :=
      by exact Covers.sub ‹Covers _ _› (by decide)) :
    Within fp s0 (periodicReport s) := by
  unfold periodicReport; try dsimp only
  repeat' (with_reducible first
    | exact hk | exact hm.sub (by decide) | (refine Within.ite (fun _ => ?_) (fun _ => ?_)) | split | assumption
    | apply Within.foldl | intro _ _ _ | apply State.modBureau_within)

theorem signingStart_within {fp : List Part} {s0 s : State} (hk : Within fp s0 s)
    (hm : Covers [.bureau] fp :=
      by exact Covers.sub ‹Covers _ _› (by decide)) :
    Within fp s0 (signingStart s) := by
  unfold signingStart; try dsimp only
  repeat' (with_reducible first
    | exact hk | exact hm.sub (by decide) | (refine Within.ite (fun _ => ?_) (fun _ => ?_)) | split
    | apply State.modBureau_within)

theorem signingDone_within {fp : List Part} {s0 s : State} (k next : BitVec 256) (hk : Within fp s0 s)
    (hm : Covers [.bureau] fp :=
      by exact Covers.sub ‹Covers _ _› (by decide)) :
    Within fp s0 (signingDone k next s) := by
  unfold signingDone; try dsimp only
  repeat' (with_reducible first
    | exact hk | exact hm.sub (by decide) | (refine Within.ite (fun _ => ?_) (fun _ => ?_)) | split
    | apply State.modBureau_within)

theorem reportForward_within {fp : List Part} {s0 s : State} (hk : Within fp s0 s)
    (hm : Covers [.port, .mem, .hub, .bureau] fp :=
      by exact Covers.sub ‹Covers _ _› (by decide)) :
    Within fp s0 (reportForward s) := by
  unfold reportForward; try dsimp only
  repeat' (with_reducible first
    | exact hk | exact hm.sub (by decide)
    | (fail_if_no_progress refine Within.hub_bureau ?_ (hm.sub (by decide)) _ _)
    | (refine Within.ite (fun _ => ?_) (fun _ => ?_)) | split | apply hostWrite_within)

theorem burRingWrite_within {fp : List Part} {s0 s : State} (v : W64) (hk : Within fp s0 s)
    (hm : Covers [.hub] fp :=
      by exact Covers.sub ‹Covers _ _› (by decide)) :
    Within fp s0 (burRingWrite v s) := by
  unfold burRingWrite; try dsimp only
  repeat' (with_reducible first
    | exact hk | exact hm.sub (by decide) | (fail_if_no_progress refine Within.hub ?_ (hm.sub (by decide)) _)
    | (refine Within.ite (fun _ => ?_) (fun _ => ?_)) | split)

theorem burReqWrite_within {fp : List Part} {s0 s : State} (v : W32) (hk : Within fp s0 s)
    (hm : Covers [.hub] fp :=
      by exact Covers.sub ‹Covers _ _› (by decide)) :
    Within fp s0 (burReqWrite v s) := by
  unfold burReqWrite; try dsimp only
  repeat' (with_reducible first
    | exact hk | exact hm.sub (by decide) | (refine Within.ite (fun _ => ?_) (fun _ => ?_)) | split
    | apply usageSend_within)

theorem vddAonUp_within {fp : List Part} {s0 s : State} (epoch : W64) (keyOk : Bool) (hk : Within fp s0 s)
    (hm : Covers [.port, .bureau] fp :=
      by exact Covers.sub ‹Covers _ _› (by decide)) :
    Within fp s0 (vddAonUp epoch keyOk s) := by
  unfold vddAonUp; try dsimp only
  repeat' (with_reducible first
    | exact hk | exact hm.sub (by decide)
    | (fail_if_no_progress refine Within.port_bureau ?_ (hm.sub (by decide)) _ _)
    | (refine Within.ite (fun _ => ?_) (fun _ => ?_)) | split)

theorem vddAonLoss_within {fp : List Part} {s0 s : State} (hk : Within fp s0 s)
    (hm : Covers [.port, .bureau] fp :=
      by exact Covers.sub ‹Covers _ _› (by decide)) :
    Within fp s0 (vddAonLoss s) := by
  unfold vddAonLoss; try dsimp only
  repeat' (with_reducible first
    | exact hk | exact hm.sub (by decide)
    | (fail_if_no_progress refine Within.port_bureau ?_ (hm.sub (by decide)) _ _)
    | (refine Within.ite (fun _ => ?_) (fun _ => ?_)) | split)

theorem resetCmd_within {fp : List Part} {s0 s : State} (op : State → State)
    (ho : ∀ {s}, Within fp s0 s → Within fp s0 (op s)) (hk : Within fp s0 s)
    (hm : Covers [.hub] fp :=
      by exact Covers.sub ‹Covers _ _› (by decide)) :
    Within fp s0 (resetCmd op s) := by
  unfold resetCmd
  repeat' (with_reducible first | exact hm.sub (by decide) | exact hk | split | exact ho hk | apply bar0Err_within)

theorem rstStart_within {fp : List Part} {s0 s : State} (hk : Within fp s0 s)
    (hm : Covers [.watch] fp :=
      by exact Covers.sub ‹Covers _ _› (by decide)) :
    Within fp s0 (rstStart s) := by
  unfold rstStart; try dsimp only
  repeat' (with_reducible first
    | exact hk | exact hm.sub (by decide) | (fail_if_no_progress refine Within.watch ?_ (hm.sub (by decide)) _)
    | (refine Within.ite (fun _ => ?_) (fun _ => ?_)) | split)

theorem partitionReset_within {fp : List Part} {s0 s : State} (p : Nat) (hk : Within fp s0 s)
    (hm : Covers [.port, .mem, .hub, .contexts, .sched, .wrd, .watch, .hutch, .jnl, .power] fp :=
      by exact Covers.sub ‹Covers _ _› (by decide)) :
    Within fp s0 (partitionReset p s) := by
  unfold partitionReset; try dsimp only
  repeat' (with_reducible first
    | exact hk | exact hm.sub (by decide) | (refine Within.ite (fun _ => ?_) (fun _ => ?_)) | split
    | apply orderStage2_within | apply resetCmd_within | apply rstDone_within | apply rstStart_within
    | (intro _ hk) | (dsimp only [id]; exact hk))

theorem computeReset_within {fp : List Part} {s0 s : State} (p : Nat) (hk : Within fp s0 s)
    (hm : Covers [.port, .mem, .hub, .contexts, .objects, .front, .bramble, .slices, .trestle, .sched, .wrd,
        .chest, .watch, .hutch, .jnl, .power, .link] fp :=
      by exact Covers.sub ‹Covers _ _› (by decide)) :
    Within fp s0 (computeReset p s) := by
  unfold computeReset; try dsimp only
  repeat' (with_reducible first
    | exact hk | exact hm.sub (by decide) | (refine Within.ite (fun _ => ?_) (fun _ => ?_)) | split
    | apply modStage_within | apply orderStage3_within | apply resetCmd_within | apply rstDone_within
    | apply rstStart_within | (intro _ hk) | (dsimp only [id]; exact hk))

theorem resetReq_within {fp : List Part} {s0 s : State} (p : Nat) (hk : Within fp s0 s)
    (hm : Covers [.port, .mem, .hub, .watch, .hutch, .jnl] fp :=
      by exact Covers.sub ‹Covers _ _› (by decide)) :
    Within fp s0 (resetReq p s) := by
  unfold resetReq; try dsimp only
  repeat' (with_reducible first
    | exact hk | exact hm.sub (by decide) | (refine Within.ite (fun _ => ?_) (fun _ => ?_)) | split
    | apply modStage_within | apply orderStage4_within | apply resetCmd_within | apply rstDone_within
    | apply rstStart_within | (intro _ hk) | (dsimp only [id]; exact hk))

theorem resetRequest_within {fp : List Part} {s0 s : State} (hk : Within fp s0 s)
    (hm : Covers [.port, .watch] fp :=
      by exact Covers.sub ‹Covers _ _› (by decide)) :
    Within fp s0 (resetRequest s) := by
  unfold resetRequest; try dsimp only
  repeat' (with_reducible first
    | exact hk | exact hm.sub (by decide) | (fail_if_no_progress refine Within.port ?_ (hm.sub (by decide)) _)
    | (refine Within.ite (fun _ => ?_) (fun _ => ?_)) | split | apply rstDone_within)

theorem escalateContext_within {fp : List Part} {s0 s : State} (c : Nat) (x : Context) (hk : Within fp s0 s)
    (hm : Covers [.port, .mem, .hub, .contexts, .objects, .front, .bramble, .slices, .trestle, .sched, .wrd,
        .chest, .watch, .hutch, .jnl, .power, .link] fp :=
      by exact Covers.sub ‹Covers _ _› (by decide)) :
    Within fp s0 (escalateContext c x s) := by
  unfold escalateContext; try dsimp only
  repeat' (with_reducible first
    | exact hk | exact hm.sub (by decide) | (fail_if_no_progress refine Within.contexts ?_ (hm.sub (by decide)) _)
    | (refine Within.ite (fun _ => ?_) (fun _ => ?_)) | split | assumption | apply Within.foldl | intro _ _ _
    | apply orderStage2_within | apply orderStage3_within)

theorem stageBudgetExpiry_within {fp : List Part} {s0 s : State} (stage unit : Nat) (hk : Within fp s0 s)
    (hm : Covers [.port, .mem, .hub, .contexts, .objects, .front, .bramble, .slices, .trestle, .sched, .wrd,
        .chest, .watch, .hutch, .jnl, .power, .link] fp :=
      by exact Covers.sub ‹Covers _ _› (by decide)) :
    Within fp s0 (stageBudgetExpiry stage unit s) := by
  unfold stageBudgetExpiry; try dsimp only
  repeat' (with_reducible first
    | exact hk | exact hm.sub (by decide) | (refine Within.ite (fun _ => ?_) (fun _ => ?_)) | split
    | apply escalateContext_within | apply orderStage3_within | apply orderStage4_within | apply stageEnd_within)

theorem setPhase_within {fp : List Part} {s0 s : State} (stage unit n : Nat) (hk : Within fp s0 s)
    (hm : Covers [.watch] fp :=
      by exact Covers.sub ‹Covers _ _› (by decide)) :
    Within fp s0 (setPhase stage unit n s) := by
  unfold setPhase; try dsimp only
  repeat' (with_reducible first
    | exact hk | exact hm.sub (by decide) | (refine Within.ite (fun _ => ?_) (fun _ => ?_)) | split
    | apply modStage_within)

theorem evictRes_within {fp : List Part} {s0 s : State} (p r : Nat) (hk : Within fp s0 s)
    (hm : Covers [.port, .mem, .hub, .contexts, .objects, .front, .bramble, .slices, .trestle, .sched, .wrd,
        .chest, .watch, .hutch, .jnl, .power, .link] fp :=
      by exact Covers.sub ‹Covers _ _› (by decide)) :
    Within fp s0 (evictRes p r s) := by
  unfold evictRes; try dsimp only
  repeat' (with_reducible first
    | exact hk | exact hm.sub (by decide) | (refine Within.ite (fun _ => ?_) (fun _ => ?_)) | split
    | apply State.modRes_within | apply beginTeardown_within | apply releaseRes_within | apply setBenches_within)

theorem partitionResetAssert_within {fp : List Part} {s0 s : State} (p : Nat) (hk : Within fp s0 s)
    (hm : Covers [.port, .mem, .hub, .contexts, .objects, .front, .bramble, .slices, .trestle, .sched, .wrd,
        .chest, .watch, .hutch, .jnl, .power, .link] fp :=
      by exact Covers.sub ‹Covers _ _› (by decide)) :
    Within fp s0 (partitionResetAssert p s) := by
  unfold partitionResetAssert; try dsimp only
  repeat' (with_reducible first
    | exact hk | exact hm.sub (by decide)
    | (fail_if_no_progress refine Within.port_sched ?_ (hm.sub (by decide)) _ _)
    | (refine Within.ite (fun _ => ?_) (fun _ => ?_)) | split | assumption | apply Within.foldl | intro _ _ _
    | apply State.modSlice_within | apply evictRes_within | apply killRuns_within | apply setBenches_within
    | apply setPhase_within)

theorem partitionWritesDrained_within {fp : List Part} {s0 s : State} (p : Nat) (hk : Within fp s0 s)
    (hm : Covers [.hub, .front, .slices, .sched, .watch] fp :=
      by exact Covers.sub ‹Covers _ _› (by decide)) :
    Within fp s0 (partitionWritesDrained p s) := by
  unfold partitionWritesDrained; try dsimp only
  repeat' (with_reducible first
    | exact hk | exact hm.sub (by decide) | (refine Within.ite (fun _ => ?_) (fun _ => ?_)) | split | assumption
    | apply Within.foldl | intro _ _ _ | apply State.modStream_within | apply chargeStream_within
    | apply setPhase_within | apply settleStops_within)

theorem partitionResetRelease_within {fp : List Part} {s0 s : State} (p : Nat) (hk : Within fp s0 s)
    (hm : Covers [.port, .watch] fp :=
      by exact Covers.sub ‹Covers _ _› (by decide)) :
    Within fp s0 (partitionResetRelease p s) := by
  unfold partitionResetRelease; try dsimp only
  repeat' (with_reducible first
    | exact hk | exact hm.sub (by decide) | (fail_if_no_progress refine Within.port ?_ (hm.sub (by decide)) _)
    | (refine Within.ite (fun _ => ?_) (fun _ => ?_)) | split | apply setPhase_within)

theorem clearStreams_within {fp : List Part} {s0 s : State} (p : Nat) (hk : Within fp s0 s)
    (hm : Covers [.slices, .sched, .chest, .jnl, .link] fp :=
      by exact Covers.sub ‹Covers _ _› (by decide)) :
    Within fp s0 (clearStreams p s) := by
  unfold clearStreams; try dsimp only
  repeat' (with_reducible first
    | exact hk | exact hm.sub (by decide) | (refine Within.ite (fun _ => ?_) (fun _ => ?_)) | split | assumption
    | apply Within.foldl | intro _ _ _ | apply releaseStream_within)

theorem sliceReady_within {fp : List Part} {s0 s : State} (p : Nat) (hk : Within fp s0 s)
    (hm : Covers [.port, .mem, .hub, .front, .slices, .sched, .chest, .watch, .hutch, .jnl, .mgmt, .power,
        .link] fp :=
      by exact Covers.sub ‹Covers _ _› (by decide)) :
    Within fp s0 (sliceReady p s) := by
  unfold sliceReady; try dsimp only
  repeat' (with_reducible first
    | exact hk | exact hm.sub (by decide) | (refine Within.ite (fun _ => ?_) (fun _ => ?_)) | split
    | apply State.modSlice_within | apply clearStreams_within | apply modStage_within | apply settlePart_within)

theorem channelReady_within {fp : List Part} {s0 s : State} (tier : Tier) (ch : Nat) (hk : Within fp s0 s)
    (hm : Covers [.port, .mem, .hub, .front, .sched, .wrd, .watch, .hutch, .jnl, .mgmt, .power] fp :=
      by exact Covers.sub ‹Covers _ _› (by decide)) :
    Within fp s0 (channelReady tier ch s) := by
  unfold channelReady; try dsimp only
  repeat' (with_reducible first
    | exact hk | exact hm.sub (by decide) | (fail_if_no_progress refine Within.wrd ?_ (hm.sub (by decide)) _)
    | (refine Within.ite (fun _ => ?_) (fun _ => ?_)) | split | apply modStage_within | apply settlePart_within)

theorem requestMapout_within {fp : List Part} {s0 s : State} (tier : Tier) (ch : Nat) (lost : Bool)
    (units : List Nat) (source : Nat) (hk : Within fp s0 s)
    (hm : Covers [.mgmt] fp :=
      by exact Covers.sub ‹Covers _ _› (by decide)) :
    Within fp s0 (requestMapout tier ch lost units source s) := by
  unfold requestMapout; try dsimp only
  repeat' (with_reducible first
    | exact hk | exact hm.sub (by decide) | (refine Within.ite (fun _ => ?_) (fun _ => ?_)) | split
    | apply pushWork_within)

theorem channelReadyTimeout_within {fp : List Part} {s0 s : State} (ch : Nat) (units : List Nat)
    (hk : Within fp s0 s)
    (hm : Covers [.port, .mem, .front, .watch, .hutch, .mgmt, .power] fp :=
      by exact Covers.sub ‹Covers _ _› (by decide)) :
    Within fp s0 (channelReadyTimeout ch units s) := by
  unfold channelReadyTimeout; try dsimp only
  repeat' (with_reducible first
    | exact hk | exact hm.sub (by decide) | (refine Within.ite (fun _ => ?_) (fun _ => ?_)) | split
    | apply dropStage_within | apply failTest_within | apply requestMapout_within | apply rstDone_within
    | apply stageEnd_within | apply testEnd_within)

theorem channelFault_within {fp : List Part} {s0 s : State} (tier : Tier) (ch : Nat) (units : List Nat)
    (hk : Within fp s0 s)
    (hm : Covers [.port, .mem, .hub, .contexts, .sched, .wrd, .watch, .hutch, .jnl, .mgmt, .power] fp :=
      by exact Covers.sub ‹Covers _ _› (by decide)) :
    Within fp s0 (channelFault tier ch units s) := by
  unfold channelFault; try dsimp only
  repeat' (with_reducible first
    | exact hk | exact hm.sub (by decide) | (fail_if_no_progress refine Within.wrd ?_ (hm.sub (by decide)) _)
    | (refine Within.ite (fun _ => ?_) (fun _ => ?_)) | split | apply orderStage2_within
    | apply requestMapout_within)

theorem ceRate_within {fp : List Part} {s0 s : State} (tier : Tier) (ch : Nat) (units : List Nat)
    (hk : Within fp s0 s)
    (hm : Covers [.mgmt] fp :=
      by exact Covers.sub ‹Covers _ _› (by decide)) :
    Within fp s0 (ceRate tier ch units s) := by
  unfold ceRate; try dsimp only
  repeat' (with_reducible first
    | exact hk | exact hm.sub (by decide) | (refine Within.ite (fun _ => ?_) (fun _ => ?_)) | split
    | apply requestMapout_within)

theorem uncorrectableFrame_within {fp : List Part} {s0 s : State} (tier : Tier) (addr : Nat)
    (hk : Within fp s0 s)
    (hm : Covers [.port, .mem, .hub, .contexts, .objects, .graphs, .front, .bramble, .slices, .trestle, .sched,
        .wrd, .chest, .watch, .hutch, .jnl, .mgmt, .power, .link] fp :=
      by exact Covers.sub ‹Covers _ _› (by decide)) :
    Within fp s0 (uncorrectableFrame tier addr s) := by
  unfold uncorrectableFrame; try dsimp only
  repeat' (with_reducible first
    | exact hk | exact hm.sub (by decide) | (refine Within.ite (fun _ => ?_) (fun _ => ?_)) | split
    | apply checkMapout_within | apply losePage_within)

theorem cutDump_within {fp : List Part} {s0 s : State} (slot landed : Nat) (hk : Within fp s0 s)
    (hm : Covers [.hutch] fp :=
      by exact Covers.sub ‹Covers _ _› (by decide)) :
    Within fp s0 (cutDump slot landed s) := by
  unfold cutDump; try dsimp only
  repeat' (with_reducible first
    | exact hk | exact hm.sub (by decide) | (fail_if_no_progress refine Within.hutch ?_ (hm.sub (by decide)) _)
    | (refine Within.ite (fun _ => ?_) (fun _ => ?_)) | split)

theorem dumpAllowanceExpiry_within {fp : List Part} {s0 s : State} (landed : Nat) (hk : Within fp s0 s)
    (hm : Covers [.watch, .hutch] fp :=
      by exact Covers.sub ‹Covers _ _› (by decide)) :
    Within fp s0 (dumpAllowanceExpiry landed s) := by
  unfold dumpAllowanceExpiry; try dsimp only
  repeat' (with_reducible first
    | exact hk | exact hm.sub (by decide) | (refine Within.ite (fun _ => ?_) (fun _ => ?_)) | split
    | apply cutDump_within | apply modStage_within)

theorem loseCompletions_within {fp : List Part} {s0 s : State} (k : Nat) (q : Queue) (hk : Within fp s0 s)
    (hm : Covers [.port, .mem, .front, .watch, .hutch] fp :=
      by exact Covers.sub ‹Covers _ _› (by decide)) :
    Within fp s0 (loseCompletions k q s) := by
  unfold loseCompletions; try dsimp only
  repeat' (with_reducible first
    | exact hk | exact hm.sub (by decide)
    | (fail_if_no_progress refine Within.watch_hutch ?_ (hm.sub (by decide)) _ _)
    | (refine Within.ite (fun _ => ?_) (fun _ => ?_)) | split | apply State.modQ_within | apply qResult_within
    | apply spillWrite_within)

theorem completionsAllowanceExpiry_within {fp : List Part} {s0 s : State} (hk : Within fp s0 s)
    (hm : Covers [.port, .mem, .front, .watch, .hutch] fp :=
      by exact Covers.sub ‹Covers _ _› (by decide)) :
    Within fp s0 (completionsAllowanceExpiry s) := by
  unfold completionsAllowanceExpiry; try dsimp only
  repeat' (with_reducible first
    | exact hk | exact hm.sub (by decide) | (refine Within.ite (fun _ => ?_) (fun _ => ?_)) | split | assumption
    | apply Within.foldl | intro _ _ _ | apply loseCompletions_within)

theorem loseContext_within {fp : List Part} {s0 s : State} (c : Nat) (x : Context) (hk : Within fp s0 s)
    (hm : Covers [.port, .mem, .hub, .contexts] fp :=
      by exact Covers.sub ‹Covers _ _› (by decide)) :
    Within fp s0 (loseContext c x s) := by
  unfold loseContext; try dsimp only
  repeat' (with_reducible first
    | exact hk | exact hm.sub (by decide) | (fail_if_no_progress refine Within.contexts ?_ (hm.sub (by decide)) _)
    | (refine Within.ite (fun _ => ?_) (fun _ => ?_)) | split | apply objResult_within | apply writeFault_within)

theorem resetHub_within {fp : List Part} {s0 s : State} (hk : Within fp s0 s)
    (hm : Covers [.objects, .graphs, .front, .bramble, .slices, .trestle, .sched, .wrd, .chest, .watch, .jnl,
        .sta, .mgmt, .power, .link] fp :=
      by exact Covers.sub ‹Covers _ _› (by decide)) :
    Within fp s0 (resetHub s) := by
  exact hk.set (fun p => by cases p <;> first | exact .inr rfl | exact .inl (hm _ (by decide))) id

theorem computeResetAssert_within {fp : List Part} {s0 s : State} (hk : Within fp s0 s)
    (hm : Covers [.port, .mem, .hub, .contexts, .objects, .graphs, .front, .bramble, .slices, .trestle, .sched,
        .wrd, .chest, .watch, .jnl, .sta, .mgmt, .power, .link] fp :=
      by exact Covers.sub ‹Covers _ _› (by decide)) :
    Within fp s0 (computeResetAssert s) := by
  unfold computeResetAssert; try dsimp only
  repeat' (with_reducible first
    | exact hk | exact hm.sub (by decide) | (fail_if_no_progress refine Within.port ?_ (hm.sub (by decide)) _)
    | (refine Within.ite (fun _ => ?_) (fun _ => ?_)) | split | assumption | apply Within.foldl | intro _ _ _
    | apply loseContext_within | apply resetHub_within | apply setBenches_within | apply setPhase_within)

theorem endMapout_within {fp : List Part} {s0 s : State} (hk : Within fp s0 s)
    (hm : Covers [.port, .mem, .wrd, .hutch] fp :=
      by exact Covers.sub ‹Covers _ _› (by decide)) :
    Within fp s0 (endMapout s) := by
  unfold endMapout; try dsimp only
  repeat' (with_reducible first
    | exact hk | exact hm.sub (by decide) | (fail_if_no_progress refine Within.wrd ?_ (hm.sub (by decide)) _)
    | (refine Within.ite (fun _ => ?_) (fun _ => ?_)) | split | apply mapoutEnd_within)

theorem computeResetRelease_within {fp : List Part} {s0 s : State} (hk : Within fp s0 s)
    (hm : Covers [.port, .mem, .sched, .wrd, .watch, .hutch] fp :=
      by exact Covers.sub ‹Covers _ _› (by decide)) :
    Within fp s0 (computeResetRelease s) := by
  unfold computeResetRelease; dsimp only
  split
  · exact hk
  · refine Within.ite (fun _ => hk) (fun _ => setPhase_within _ _ _ ((endMapout_within hk).set
      (fun p => by cases p <;> first | exact .inr rfl | exact .inl (hm _ (by decide)))
      (fun c => c.scratch (x := []) trivial)))

theorem finishStart_within {fp : List Part} {s0 s : State} (hk : Within fp s0 s)
    (hm : Covers [.hub, .mgmt] fp :=
      by exact Covers.sub ‹Covers _ _› (by decide)) :
    Within fp s0 (finishStart s) := by
  unfold finishStart; try dsimp only
  repeat' (with_reducible first
    | exact hk | exact hm.sub (by decide) | (fail_if_no_progress refine Within.mgmt ?_ (hm.sub (by decide)) _)
    | (fail_if_no_progress refine Within.hub_mgmt ?_ (hm.sub (by decide)) _ _)
    | (refine Within.ite (fun _ => ?_) (fun _ => ?_)) | split)

theorem hubReady_within {fp : List Part} {s0 s : State} (hk : Within fp s0 s)
    (hm : Covers [.port, .mem, .hub, .contexts, .objects, .graphs, .front, .bramble, .slices, .trestle, .sched,
        .wrd, .chest, .watch, .hutch, .jnl, .mgmt, .power, .link] fp :=
      by exact Covers.sub ‹Covers _ _› (by decide)) :
    Within fp s0 (hubReady s) := by
  unfold hubReady; try dsimp only
  repeat' (with_reducible first
    | exact hk | exact hm.sub (by decide) | (fail_if_no_progress refine Within.port ?_ (hm.sub (by decide)) _)
    | (fail_if_no_progress refine Within.watch ?_ (hm.sub (by decide)) _)
    | (fail_if_no_progress refine Within.wrd ?_ (hm.sub (by decide)) _)
    | (refine Within.ite (fun _ => ?_) (fun _ => ?_)) | split | apply capacityEvent_within
    | apply checkMapout_within | apply dropStage_within | apply evalChest_within | apply finishStart_within
    | apply rstDone_within | apply stageEnd_within | apply trace_within)

theorem watchSample_within {fp : List Part} {s0 s : State} (hk : Within fp s0 s)
    (hm : Covers [.front, .slices, .wrd, .watch, .mgmt] fp :=
      by exact Covers.sub ‹Covers _ _› (by decide)) :
    Within fp s0 (watchSample s) := by
  unfold watchSample; try dsimp only
  repeat' (with_reducible first
    | exact hk | exact hm.sub (by decide)
    | (fail_if_no_progress refine Within.front_slices_wrd_watch_mgmt ?_ (hm.sub (by decide)) _ _ _ _ _)
    | (refine Within.ite (fun _ => ?_) (fun _ => ?_)) | split)

theorem reflag_within {fp : List Part} {s0 s : State} (p st : Nat) (l : Launch) (hk : Within fp s0 s)
    (hm : Covers [.slices, .jnl] fp :=
      by exact Covers.sub ‹Covers _ _› (by decide)) :
    Within fp s0 (reflag p st l s) := by
  unfold reflag; try dsimp only
  repeat' (with_reducible first
    | exact hk | exact hm.sub (by decide) | (refine Within.ite (fun _ => ?_) (fun _ => ?_)) | split
    | apply State.modStream_within | apply trace_within)

theorem streamHang_within {fp : List Part} {s0 s : State} (p st : Nat) (hk : Within fp s0 s)
    (hm : Covers [.port, .mem, .hub, .contexts, .objects, .front, .bramble, .slices, .trestle, .sched, .wrd,
        .chest, .watch, .hutch, .jnl, .power, .link] fp :=
      by exact Covers.sub ‹Covers _ _› (by decide)) :
    Within fp s0 (streamHang p st s) := by
  unfold streamHang; try dsimp only
  repeat' (with_reducible first
    | exact hk | exact hm.sub (by decide) | (refine Within.ite (fun _ => ?_) (fun _ => ?_)) | split
    | apply faultStream_within | apply reflag_within)

theorem peerWaitTimeout_within {fp : List Part} {s0 s : State} (p st : Nat) (hk : Within fp s0 s)
    (hm : Covers [.port, .mem, .hub, .contexts, .objects, .front, .bramble, .slices, .trestle, .sched, .wrd,
        .chest, .watch, .hutch, .jnl, .power, .link] fp :=
      by exact Covers.sub ‹Covers _ _› (by decide)) :
    Within fp s0 (peerWaitTimeout p st s) := by
  unfold peerWaitTimeout; try dsimp only
  repeat' (with_reducible first
    | exact hk | exact hm.sub (by decide) | (refine Within.ite (fun _ => ?_) (fun _ => ?_)) | split
    | apply State.modC_within | apply beginTeardown_within | apply hutchRec_within | apply raiseEvent_within
    | apply reflag_within | apply requestStops_within)

theorem hubHang_within {fp : List Part} {s0 s : State} (payload : List Byte) (hk : Within fp s0 s)
    (hm : Covers [.port, .mem, .hub, .contexts, .objects, .front, .bramble, .slices, .trestle, .sched, .wrd,
        .chest, .watch, .hutch, .jnl, .power, .link] fp :=
      by exact Covers.sub ‹Covers _ _› (by decide)) :
    Within fp s0 (hubHang payload s) := by
  unfold hubHang; try dsimp only
  repeat' (with_reducible first
    | exact hk | exact hm.sub (by decide) | (refine Within.ite (fun _ => ?_) (fun _ => ?_)) | split
    | apply hutchRec_within | apply orderStage3_within)

theorem hangCmd_within {fp : List Part} {s0 s : State} (k pos : Nat) (info : FaultInfo) (rcd : List Byte)
    (hk : Within fp s0 s)
    (hm : Covers [.port, .mem, .hub, .contexts, .objects, .front, .bramble, .slices, .trestle, .sched, .wrd,
        .chest, .watch, .hutch, .jnl, .power, .link] fp :=
      by exact Covers.sub ‹Covers _ _› (by decide)) :
    Within fp s0 (hangCmd k pos info rcd s) := by
  unfold hangCmd; try dsimp only
  repeat' (with_reducible first
    | exact hk | exact hm.sub (by decide) | (refine Within.ite (fun _ => ?_) (fun _ => ?_)) | split
    | apply beginTeardown_within | apply faultCmd_within)

theorem moverHang_within {fp : List Part} {s0 s : State} (m : Nat) (hk : Within fp s0 s)
    (hm : Covers [.port, .mem, .hub, .contexts, .objects, .front, .bramble, .slices, .trestle, .sched, .wrd,
        .chest, .watch, .hutch, .jnl, .power, .link] fp :=
      by exact Covers.sub ‹Covers _ _› (by decide)) :
    Within fp s0 (moverHang m s) := by
  unfold moverHang; try dsimp only
  repeat' (with_reducible first
    | exact hk | exact hm.sub (by decide) | (fail_if_no_progress refine Within.wrd ?_ (hm.sub (by decide)) _)
    | (refine Within.ite (fun _ => ?_) (fun _ => ?_)) | split | apply hangCmd_within | apply hubHang_within
    | apply trace_within)

theorem hubEngineHang_within {fp : List Part} {s0 s : State} (h : HubEngine) (hk : Within fp s0 s)
    (hm : Covers [.port, .mem, .hub, .contexts, .objects, .front, .bramble, .slices, .trestle, .sched, .wrd,
        .chest, .watch, .hutch, .jnl, .power, .link] fp :=
      by exact Covers.sub ‹Covers _ _› (by decide)) :
    Within fp s0 (hubEngineHang h s) := by
  unfold hubEngineHang; try dsimp only
  repeat' (with_reducible first
    | exact hk | exact hm.sub (by decide) | (fail_if_no_progress refine Within.watch ?_ (hm.sub (by decide)) _)
    | (refine Within.ite (fun _ => ?_) (fun _ => ?_)) | split | apply hubHang_within | apply trace_within)

theorem unitFault_within {fp : List Part} {s0 s : State} (p st : Nat) (i : FaultInfo)
    (rcd : Option (Nat × List Byte)) (hk : Within fp s0 s)
    (hm : Covers [.port, .mem, .hub, .contexts, .objects, .front, .bramble, .slices, .trestle, .sched, .wrd,
        .chest, .watch, .hutch, .jnl, .power, .link] fp :=
      by exact Covers.sub ‹Covers _ _› (by decide)) :
    Within fp s0 (unitFault p st i rcd s) := by
  unfold unitFault; try dsimp only
  repeat' (with_reducible first
    | exact hk | exact hm.sub (by decide) | (refine Within.ite (fun _ => ?_) (fun _ => ?_)) | split
    | apply faultStream_within | apply requestStops_within)

theorem ownStateLost_within {fp : List Part} {s0 s : State} (c queue seqId bank : Nat) (hk : Within fp s0 s)
    (hm : Covers [.port, .mem, .hub, .contexts, .objects, .front, .bramble, .slices, .trestle, .sched, .wrd,
        .chest, .watch, .hutch, .jnl, .power, .link] fp :=
      by exact Covers.sub ‹Covers _ _› (by decide)) :
    Within fp s0 (ownStateLost c queue seqId bank s) := by
  unfold ownStateLost; try dsimp only
  repeat' (with_reducible first
    | exact hk | exact hm.sub (by decide) | (refine Within.ite (fun _ => ?_) (fun _ => ?_)) | split
    | apply beginTeardown_within)

theorem sramLost_within {fp : List Part} {s0 s : State} (w : SramWord) (bank : Nat) (hk : Within fp s0 s)
    (hm : Covers [.port, .mem, .hub, .contexts, .objects, .front, .bramble, .slices, .trestle, .sched, .wrd,
        .chest, .watch, .hutch, .jnl, .power, .link] fp :=
      by exact Covers.sub ‹Covers _ _› (by decide)) :
    Within fp s0 (sramLost w bank s) := by
  unfold sramLost; try dsimp only
  repeat' (with_reducible first
    | exact hk | exact hm.sub (by decide) | (refine Within.ite (fun _ => ?_) (fun _ => ?_)) | split
    | apply machineCheck_within | apply orderStage2_within | apply ownStateLost_within)

theorem engineFaultReport_within {fp : List Part} {s0 s : State} (u : FaultUnit) (hk : Within fp s0 s)
    (hm : Covers [.port, .mem, .hub, .contexts, .objects, .front, .bramble, .slices, .trestle, .sched, .wrd,
        .chest, .watch, .hutch, .jnl, .power, .link] fp :=
      by exact Covers.sub ‹Covers _ _› (by decide)) :
    Within fp s0 (engineFaultReport u s) := by
  unfold engineFaultReport; try dsimp only
  repeat' (with_reducible first
    | exact hk | exact hm.sub (by decide) | (refine Within.ite (fun _ => ?_) (fun _ => ?_)) | split
    | apply faultCmd_within | apply orderStage3_within | apply sramLost_within | apply unitFault_within)

theorem textFailed_within {fp : List Part} {s0 s : State} (p st : Nat) (tier : Tier) (addr : Nat)
    (hk : Within fp s0 s)
    (hm : Covers [.port, .mem, .hub, .contexts, .objects, .front, .bramble, .slices, .trestle, .sched, .wrd,
        .chest, .watch, .hutch, .jnl, .power, .link] fp :=
      by exact Covers.sub ‹Covers _ _› (by decide)) :
    Within fp s0 (textFailed p st tier addr s) := by
  unfold textFailed; try dsimp only
  repeat' (with_reducible first
    | exact hk | exact hm.sub (by decide) | (refine Within.ite (fun _ => ?_) (fun _ => ?_)) | split
    | apply State.modStream_within | apply hutchRec_within | apply launchRetryRequest_within
    | apply unitFault_within)

theorem hostFault_within {fp : List Part} {s0 s : State} (c queue pos tag addr : Nat) (hk : Within fp s0 s)
    (hm : Covers [.port, .mem, .hub, .contexts, .objects, .front, .bramble, .slices, .trestle, .sched, .wrd,
        .chest, .watch, .hutch, .jnl, .power, .link] fp :=
      by exact Covers.sub ‹Covers _ _› (by decide)) :
    Within fp s0 (hostFault c queue pos tag addr s) := by
  unfold hostFault; try dsimp only
  repeat' (with_reducible first
    | exact hk | exact hm.sub (by decide) | (refine Within.ite (fun _ => ?_) (fun _ => ?_)) | split
    | apply beginTeardown_within)

theorem pageUnreadable_within {fp : List Part} {s0 s : State} (p st eng : Nat) (tier : Tier) (addr : Nat)
    (hk : Within fp s0 s)
    (hm : Covers [.port, .mem, .hub, .contexts, .objects, .graphs, .front, .bramble, .slices, .trestle, .sched,
        .wrd, .chest, .watch, .hutch, .jnl, .mgmt, .power, .link] fp :=
      by exact Covers.sub ‹Covers _ _› (by decide)) :
    Within fp s0 (pageUnreadable p st eng tier addr s) := by
  unfold pageUnreadable; try dsimp only
  repeat' (with_reducible first
    | exact hk | exact hm.sub (by decide) | (refine Within.ite (fun _ => ?_) (fun _ => ?_)) | split
    | apply reportLost_within | apply uncorrectableFrame_within)

theorem hubData_within {fp : List Part} {s0 s : State} (tier : Tier) (addr : Nat) (hk : Within fp s0 s)
    (hm : Covers [.port, .mem, .hub, .contexts, .objects, .front, .bramble, .slices, .trestle, .sched, .wrd,
        .chest, .watch, .hutch, .jnl, .power, .link] fp :=
      by exact Covers.sub ‹Covers _ _› (by decide)) :
    Within fp s0 (hubData tier addr s) := by
  unfold hubData; dsimp only
  split
  · next e => exact WithinO.of e (takeCells_within _ hk)
  · refine Within.ite (fun _ => takeOrWait_within _ hk) (fun _ => ?_)
    split
    · next e =>
      split at e
      · exact evalChest_within (WithinO.of e (linkWhole_within _ hk))
      · cases e
    · exact machineCheck_within _ _ _ hk

theorem mfpResponse_within {fp : List Part} {s0 s : State} (who : MfpWho) (tier : Tier) (addr : Nat)
    (status : MfpStatus) (hk : Within fp s0 s)
    (hm : Covers [.port, .mem, .hub, .contexts, .objects, .graphs, .front, .bramble, .slices, .trestle, .sched,
        .wrd, .chest, .watch, .hutch, .jnl, .mgmt, .power, .link] fp :=
      by exact Covers.sub ‹Covers _ _› (by decide)) :
    Within fp s0 (mfpResponse who tier addr status s) := by
  unfold mfpResponse; try dsimp only
  repeat' (with_reducible first
    | exact hk | exact hm.sub (by decide) | (refine Within.ite (fun _ => ?_) (fun _ => ?_)) | split
    | apply beginTeardown_within | apply faultCmd_within | apply hostFault_within | apply hubData_within
    | apply machineCheck_within | apply pageUnreadable_within | apply textFailed_within | apply tierFaultCmd_within
    | apply uncorrectableFrame_within | apply unitFault_within)

theorem hostData_within {fp : List Part} {s0 s : State} (c addr : Nat) (b : List Byte) (hk : Within fp s0 s)
    (hm : Covers [.mem] fp :=
      by exact Covers.sub ‹Covers _ _› (by decide)) :
    Within fp s0 (hostData c addr b s) := by
  unfold hostData; try dsimp only
  repeat' (with_reducible first
    | exact hk | exact hm.sub (by decide) | (refine Within.ite (fun _ => ?_) (fun _ => ?_)) | split
    | apply memWrite_within)

theorem throughDone_within {fp : List Part} {s0 s : State} (c q pos : Nat) (hk : Within fp s0 s)
    (hm : Covers [.bramble] fp :=
      by exact Covers.sub ‹Covers _ _› (by decide)) :
    Within fp s0 (throughDone c q pos s) := by
  unfold throughDone; try dsimp only
  repeat' (with_reducible first
    | exact hk | exact hm.sub (by decide) | (fail_if_no_progress refine Within.bramble ?_ (hm.sub (by decide)) _)
    | (refine Within.ite (fun _ => ?_) (fun _ => ?_)) | split)

theorem hfpCompletion_within {fp : List Part} {s0 s : State} (who : HfpWho) (rd : HostRead)
    (hk : Within fp s0 s)
    (hm : Covers [.port, .mem, .hub, .contexts, .objects, .front, .bramble, .slices, .trestle, .sched, .wrd,
        .chest, .watch, .hutch, .jnl, .power, .link] fp :=
      by exact Covers.sub ‹Covers _ _› (by decide)) :
    Within fp s0 (hfpCompletion who rd s) := by
  unfold hfpCompletion; try dsimp only
  repeat' (with_reducible first
    | exact hk | exact hm.sub (by decide) | (refine Within.ite (fun _ => ?_) (fun _ => ?_)) | split
    | apply faultCmd_within | apply hostData_within | apply hostFault_within | apply memWrite_within
    | apply throughDone_within | apply unitFault_within)

theorem shedEvent_within {fp : List Part} {s0 s : State} (old new : Nat) (hk : Within fp s0 s)
    (hm : Covers [.chest, .jnl] fp :=
      by exact Covers.sub ‹Covers _ _› (by decide)) :
    Within fp s0 (shedEvent old new s) := by
  unfold shedEvent; try dsimp only
  repeat' (with_reducible first
    | exact hk | exact hm.sub (by decide) | (refine Within.ite (fun _ => ?_) (fun _ => ?_)) | split
    | apply raiseEvent_within)

theorem shedCmd_within {fp : List Part} {s0 s : State} (k pos : Nat) (hk : Within fp s0 s)
    (hm : Covers [.front, .bramble] fp :=
      by exact Covers.sub ‹Covers _ _› (by decide)) :
    Within fp s0 (shedCmd k pos s) := by
  unfold shedCmd; try dsimp only
  repeat' (with_reducible first
    | exact hk | exact hm.sub (by decide) | (refine Within.ite (fun _ => ?_) (fun _ => ?_)) | split
    | apply dropShadows_within | apply finish_within)

theorem shedTests_within {fp : List Part} {s0 s : State} (hk : Within fp s0 s)
    (hm : Covers [.front, .bramble, .sched, .power] fp :=
      by exact Covers.sub ‹Covers _ _› (by decide)) :
    Within fp s0 (shedTests s) := by
  unfold shedTests; try dsimp only
  repeat' (with_reducible first
    | exact hk | exact hm.sub (by decide) | (fail_if_no_progress refine Within.sched ?_ (hm.sub (by decide)) _)
    | (refine Within.ite (fun _ => ?_) (fun _ => ?_)) | split | assumption | apply Within.foldl | intro _ _ _
    | apply State.modPower_within | apply shedCmd_within)

theorem shedJobs_within {fp : List Part} {s0 s : State} (hk : Within fp s0 s)
    (hm : Covers [.hub, .front, .bramble, .sched] fp :=
      by exact Covers.sub ‹Covers _ _› (by decide)) :
    Within fp s0 (shedJobs s) := by
  unfold shedJobs; try dsimp only
  repeat' (with_reducible first
    | exact hk | exact hm.sub (by decide) | (refine Within.ite (fun _ => ?_) (fun _ => ?_)) | split | assumption
    | apply Within.foldl | intro _ _ _ | apply dropJob_within | apply shedCmd_within)

theorem wakeLoops_within {fp : List Part} {s0 s : State} (hk : Within fp s0 s)
    (hm : Covers [.trestle] fp :=
      by exact Covers.sub ‹Covers _ _› (by decide)) :
    Within fp s0 (wakeLoops s) := by
  unfold wakeLoops; try dsimp only
  repeat' (with_reducible first
    | exact hk | exact hm.sub (by decide) | (fail_if_no_progress refine Within.trestle ?_ (hm.sub (by decide)) _)
    | (refine Within.ite (fun _ => ?_) (fun _ => ?_)) | split)

theorem setLevel_within {fp : List Part} {s0 s : State} (new : Nat) (hk : Within fp s0 s)
    (hm : Covers [.port, .hub, .contexts, .front, .bramble, .slices, .trestle, .sched, .wrd, .chest, .watch,
        .jnl, .power] fp :=
      by exact Covers.sub ‹Covers _ _› (by decide)) :
    Within fp s0 (setLevel new s) := by
  unfold setLevel; try dsimp only
  repeat' (with_reducible first
    | exact hk | exact hm.sub (by decide) | (refine Within.ite (fun _ => ?_) (fun _ => ?_)) | split
    | apply State.modPower_within | apply decisionPass_within | apply requestCodes_within | apply shedEvent_within
    | apply shedJobs_within | apply shedTests_within | apply wakeLoops_within)

theorem limiter_within {fp : List Part} {s0 s : State} (f : State → State)
    (hf : ∀ {s}, Within fp s0 s → Within fp s0 (f s)) (hk : Within fp s0 s)
    (hm : Covers [.port, .hub, .contexts, .front, .bramble, .slices, .trestle, .sched, .wrd, .chest, .watch,
        .jnl, .power] fp :=
      by exact Covers.sub ‹Covers _ _› (by decide)) :
    Within fp s0 (limiter f s) := by
  unfold limiter; dsimp only
  have h := hf hk
  repeat' (with_reducible first
    | exact hm.sub (by decide) | exact hk | assumption | split | apply setLevel_within | apply requestCodes_within
    | apply State.modPower_within)

theorem temperatureInput_within {fp : List Part} {s0 s : State} (sensor temp : Nat) (hk : Within fp s0 s)
    (hm : Covers [.port, .hub, .contexts, .front, .bramble, .slices, .trestle, .sched, .wrd, .chest, .watch,
        .jnl, .power] fp :=
      by exact Covers.sub ‹Covers _ _› (by decide)) :
    Within fp s0 (temperatureInput sensor temp s) := by
  unfold temperatureInput; try dsimp only
  repeat' (with_reducible first
    | exact hk | exact hm.sub (by decide) | (refine Within.ite (fun _ => ?_) (fun _ => ?_)) | split
    | apply State.modPower_within | apply State.modVf_within | apply limiter_within | (intro _ hk)
    | (dsimp only [id]; exact hk))

theorem vminTimer_within {fp : List Part} {s0 s : State} (p mv : Nat) (hk : Within fp s0 s)
    (hm : Covers [.port, .hub, .contexts, .front, .bramble, .slices, .trestle, .sched, .wrd, .chest, .watch,
        .jnl, .power] fp :=
      by exact Covers.sub ‹Covers _ _› (by decide)) :
    Within fp s0 (vminTimer p mv s) := by
  unfold vminTimer; try dsimp only
  repeat' (with_reducible first
    | exact hk | exact hm.sub (by decide) | (refine Within.ite (fun _ => ?_) (fun _ => ?_)) | split
    | apply State.modVf_within | apply limiter_within | (intro _ hk) | (dsimp only [id]; exact hk))

theorem limiterCapStep_within {fp : List Part} {s0 s : State} (p mv : Nat) (hk : Within fp s0 s)
    (hm : Covers [.port, .hub, .contexts, .front, .bramble, .slices, .trestle, .sched, .wrd, .chest, .watch,
        .jnl, .power] fp :=
      by exact Covers.sub ‹Covers _ _› (by decide)) :
    Within fp s0 (limiterCapStep p mv s) := by
  unfold limiterCapStep; try dsimp only
  repeat' (with_reducible first
    | exact hk | exact hm.sub (by decide) | (refine Within.ite (fun _ => ?_) (fun _ => ?_)) | split
    | apply State.modVf_within | apply limiter_within | (intro _ hk) | (dsimp only [id]; exact hk))

theorem vfGrant_within {fp : List Part} {s0 s : State} (p code : Nat) (hk : Within fp s0 s)
    (hm : Covers [.port, .hub, .contexts, .front, .bramble, .slices, .trestle, .sched, .wrd, .chest, .watch,
        .jnl, .power] fp :=
      by exact Covers.sub ‹Covers _ _› (by decide)) :
    Within fp s0 (vfGrant p code s) := by
  unfold vfGrant; try dsimp only
  repeat' (with_reducible first
    | exact hk | exact hm.sub (by decide) | (refine Within.ite (fun _ => ?_) (fun _ => ?_)) | split
    | apply State.modVf_within | apply limiter_within | (intro _ hk) | (dsimp only [id]; exact hk))

theorem vfGrantTimeout_within {fp : List Part} {s0 s : State} (p : Nat) (hk : Within fp s0 s)
    (hm : Covers [.port, .hub, .contexts, .front, .bramble, .slices, .trestle, .sched, .wrd, .chest, .watch,
        .jnl, .power] fp :=
      by exact Covers.sub ‹Covers _ _› (by decide)) :
    Within fp s0 (vfGrantTimeout p s) := by
  unfold vfGrantTimeout; try dsimp only
  repeat' (with_reducible first
    | exact hk | exact hm.sub (by decide) | (refine Within.ite (fun _ => ?_) (fun _ => ?_)) | split
    | apply State.modVf_within | apply limiter_within | (intro _ hk) | (dsimp only [id]; exact hk))

theorem shedHoldExpiry_within {fp : List Part} {s0 s : State} (hk : Within fp s0 s)
    (hm : Covers [.port, .hub, .contexts, .front, .bramble, .slices, .trestle, .sched, .wrd, .chest, .watch,
        .jnl, .power] fp :=
      by exact Covers.sub ‹Covers _ _› (by decide)) :
    Within fp s0 (shedHoldExpiry s) := by
  unfold shedHoldExpiry; try dsimp only
  repeat' (with_reducible first
    | exact hk | exact hm.sub (by decide) | (refine Within.ite (fun _ => ?_) (fun _ => ?_)) | split
    | apply State.modPower_within | apply setLevel_within)

theorem quiesceDump_within {fp : List Part} {s0 s : State} (hk : Within fp s0 s)
    (hm : Covers [.port, .mem, .hutch, .power] fp :=
      by exact Covers.sub ‹Covers _ _› (by decide)) :
    Within fp s0 (quiesceDump s) := by
  unfold quiesceDump; try dsimp only
  repeat' (with_reducible first
    | exact hk | exact hm.sub (by decide) | (refine Within.ite (fun _ => ?_) (fun _ => ?_)) | split
    | apply State.modPower_within | apply stageRec_within | apply writeDump_within)

theorem withdrawPart_within {fp : List Part} {s0 s : State} (p : Nat) (hk : Within fp s0 s)
    (hm : Covers [.hub, .sched] fp :=
      by exact Covers.sub ‹Covers _ _› (by decide)) :
    Within fp s0 (withdrawPart p s) := by
  unfold withdrawPart; try dsimp only
  repeat' (with_reducible first
    | exact hk | exact hm.sub (by decide) | (refine Within.ite (fun _ => ?_) (fun _ => ?_)) | split | assumption
    | apply Within.foldl | intro _ _ _ | apply withdrawClaims_within)

theorem nextBankTest_within {fp : List Part} {s0 s : State} (hk : Within fp s0 s)
    (hm : Covers [.mgmt, .power] fp :=
      by exact Covers.sub ‹Covers _ _› (by decide)) :
    Within fp s0 (nextBankTest s) := by
  unfold nextBankTest; try dsimp only
  repeat' (with_reducible first
    | exact hk | exact hm.sub (by decide) | (refine Within.ite (fun _ => ?_) (fun _ => ?_)) | split
    | apply State.modPower_within | apply pushWork_within)

theorem opSelftest_within {fp : List Part} {s0 s : State} (c q pos : Nat) (hk : Within fp s0 s)
    (hm : Covers [.port, .hub, .contexts, .front, .bramble, .slices, .trestle, .sched, .wrd, .chest, .watch,
        .jnl, .mgmt, .power] fp :=
      by exact Covers.sub ‹Covers _ _› (by decide)) :
    Within fp s0 (opSelftest c q pos s) := by
  unfold opSelftest; try dsimp only
  repeat' (with_reducible first
    | exact hk | exact hm.sub (by decide) | (fail_if_no_progress refine Within.sched ?_ (hm.sub (by decide)) _)
    | (refine Within.ite (fun _ => ?_) (fun _ => ?_)) | split | apply State.modPower_within | apply begun_within
    | apply decisionPass_within | apply finish_within | apply nextBankTest_within | apply pushWork_within
    | apply shedCmd_within | apply withdrawPart_within)

theorem selftestRun_within {fp : List Part} {s0 s : State} (p : Nat) (hk : Within fp s0 s)
    (hm : Covers [.hub, .sched, .power] fp :=
      by exact Covers.sub ‹Covers _ _› (by decide)) :
    Within fp s0 (selftestRun p s) := by
  unfold selftestRun; try dsimp only
  repeat' (with_reducible first
    | exact hk | exact hm.sub (by decide) | (refine Within.ite (fun _ => ?_) (fun _ => ?_)) | split
    | apply State.modPower_within | apply setBenches_within)

theorem selftestDone_within {fp : List Part} {s0 s : State} (p detail : Nat) (hk : Within fp s0 s)
    (hm : Covers [.port, .mem, .hub, .contexts, .sched, .wrd, .watch, .hutch, .jnl, .mgmt, .power] fp :=
      by exact Covers.sub ‹Covers _ _› (by decide)) :
    Within fp s0 (selftestDone p detail s) := by
  unfold selftestDone; try dsimp only
  repeat' (with_reducible first
    | exact hk | exact hm.sub (by decide) | (refine Within.ite (fun _ => ?_) (fun _ => ?_)) | split
    | apply failTest_within | apply modStage_within | apply orderStage2_within)

theorem bankVisited_within {fp : List Part} {s0 s : State} (hk : Within fp s0 s)
    (hm : Covers [.front, .mgmt, .power] fp :=
      by exact Covers.sub ‹Covers _ _› (by decide)) :
    Within fp s0 (bankVisited s) := by
  unfold bankVisited; try dsimp only
  repeat' (with_reducible first
    | exact hk | exact hm.sub (by decide) | (refine Within.ite (fun _ => ?_) (fun _ => ?_)) | split
    | apply State.modPower_within | apply doneWork_within | apply finishTest_within | apply nextBankTest_within)

theorem bankTest_within {fp : List Part} {s0 s : State} (bank : Nat) (hk : Within fp s0 s)
    (hm : Covers [.front, .mgmt, .power] fp :=
      by exact Covers.sub ‹Covers _ _› (by decide)) : Within fp s0 (bankTest bank s) := by
  unfold bankTest; dsimp only
  split
  · exact hk
  · split
    · exact hk
    · next t ht =>
      have h : Within fp s0 t := by
        split at ht
        · split at ht
          · injection ht with ht; exact ht ▸ hk
          · cases ht
        · split at ht
          · injection ht with ht; exact ht ▸ hk
          · cases ht
        · split at ht
          · injection ht with ht; subst ht; exact State.modPower_within _ hk
          · cases ht
      repeat' (with_reducible first
        | exact hm.sub (by decide) | exact h | split | apply State.modPower_within | apply bankVisited_within)

theorem retireBank_within {fp : List Part} {s0 s : State} (bank : Nat) (hk : Within fp s0 s)
    (hm : Covers [.port, .mem, .hub, .contexts, .objects, .front, .bramble, .slices, .trestle, .sched, .wrd,
        .chest, .watch, .hutch, .jnl, .power, .link] fp :=
      by exact Covers.sub ‹Covers _ _› (by decide)) :
    Within fp s0 (retireBank bank s) := by
  unfold retireBank; try dsimp only
  repeat' (with_reducible first
    | exact hk | exact hm.sub (by decide) | (refine Within.ite (fun _ => ?_) (fun _ => ?_)) | split
    | apply State.modChest_within | apply orderStage3_within | apply settleChest_within)

theorem bankTestDone_within {fp : List Part} {s0 s : State} (bank : Nat) (failed : Bool) (hk : Within fp s0 s)
    (hm : Covers [.port, .mem, .hub, .contexts, .objects, .front, .bramble, .slices, .trestle, .sched, .wrd,
        .chest, .watch, .hutch, .jnl, .mgmt, .power, .link] fp :=
      by exact Covers.sub ‹Covers _ _› (by decide)) :
    Within fp s0 (bankTestDone bank failed s) := by
  unfold bankTestDone; try dsimp only
  repeat' (with_reducible first
    | exact hk | exact hm.sub (by decide) | (refine Within.ite (fun _ => ?_) (fun _ => ?_)) | split
    | apply State.modPower_within | apply bankVisited_within | apply hutchRec_within | apply retireBank_within
    | apply settleChest_within)

theorem calibration_within {fp : List Part} {s0 s : State} (p : Nat) (hk : Within fp s0 s)
    (hm : Covers [.hub, .sched, .power] fp :=
      by exact Covers.sub ‹Covers _ _› (by decide)) :
    Within fp s0 (calibration p s) := by
  unfold calibration; try dsimp only
  repeat' (with_reducible first
    | exact hk | exact hm.sub (by decide) | (refine Within.ite (fun _ => ?_) (fun _ => ?_)) | split
    | apply State.modPower_within | apply setBenches_within)

theorem calibrationDone_within {fp : List Part} {s0 s : State} (p : Nat) (hk : Within fp s0 s)
    (hm : Covers [.port, .hub, .contexts, .slices, .trestle, .sched, .wrd, .chest, .watch, .jnl, .power] fp :=
      by exact Covers.sub ‹Covers _ _› (by decide)) :
    Within fp s0 (calibrationDone p s) := by
  unfold calibrationDone; try dsimp only
  repeat' (with_reducible first
    | exact hk | exact hm.sub (by decide) | (refine Within.ite (fun _ => ?_) (fun _ => ?_)) | split
    | apply State.modPower_within | apply decisionPass_within | apply setBenches_within)

theorem scrubCell_within {fp : List Part} {s0 s : State} (cell : Nat) (ecc : EccFinding) (hk : Within fp s0 s)
    (hm : Covers [.port, .mem, .hub, .contexts, .objects, .front, .bramble, .slices, .trestle, .sched, .wrd,
        .chest, .watch, .hutch, .jnl, .power, .link] fp :=
      by exact Covers.sub ‹Covers _ _› (by decide)) :
    Within fp s0 (scrubCell cell ecc s) := by
  unfold scrubCell; try dsimp only
  repeat' (with_reducible first
    | exact hk | exact hm.sub (by decide) | (refine Within.ite (fun _ => ?_) (fun _ => ?_)) | split
    | apply cellLost_within | apply correctedEcc_within | apply hutchRec_within | apply retireCell_within
    | apply settleChest_within)

theorem scrubFinding_within {fp : List Part} {s0 s : State} (f : ScrubFinding) (hk : Within fp s0 s)
    (hm : Covers [.port, .mem, .hub, .contexts, .objects, .front, .bramble, .slices, .trestle, .sched, .wrd,
        .chest, .watch, .hutch, .jnl, .power, .link] fp :=
      by exact Covers.sub ‹Covers _ _› (by decide)) :
    Within fp s0 (scrubFinding f s) := by
  unfold scrubFinding; try dsimp only
  repeat' (with_reducible first
    | exact hk | exact hm.sub (by decide) | (refine Within.ite (fun _ => ?_) (fun _ => ?_)) | split
    | apply scrubCell_within | apply sramLost_within)

theorem scrubBank_within {fp : List Part} {s0 s : State} (b : Nat) (found : List ScrubFinding)
    (hk : Within fp s0 s)
    (hm : Covers [.port, .mem, .hub, .contexts, .objects, .front, .bramble, .slices, .trestle, .sched, .wrd,
        .chest, .watch, .hutch, .jnl, .power, .link] fp :=
      by exact Covers.sub ‹Covers _ _› (by decide)) :
    Within fp s0 (scrubBank b found s) := by
  unfold scrubBank; try dsimp only
  repeat' (with_reducible first
    | exact hk | exact hm.sub (by decide) | (refine Within.ite (fun _ => ?_) (fun _ => ?_)) | split | assumption
    | apply Within.foldl | intro _ _ _ | apply State.modChest_within | apply State.modPower_within
    | apply scrubFinding_within)

theorem scrubAll_within {fp : List Part} {s0 s : State} (found : List ScrubFinding) (hk : Within fp s0 s)
    (hm : Covers [.port, .mem, .hub, .contexts, .objects, .front, .bramble, .slices, .trestle, .sched, .wrd,
        .chest, .watch, .hutch, .jnl, .power, .link] fp :=
      by exact Covers.sub ‹Covers _ _› (by decide)) :
    Within fp s0 (scrubAll found s) := by
  unfold scrubAll; try dsimp only
  repeat' (with_reducible first
    | exact hk | exact hm.sub (by decide) | (refine Within.ite (fun _ => ?_) (fun _ => ?_)) | split | assumption
    | apply Within.foldl | intro _ _ _ | apply State.modChest_within | apply State.modPower_within
    | apply scrubFinding_within)

theorem scrub_within {fp : List Part} {s0 s : State} (found : List ScrubFinding) (hk : Within fp s0 s)
    (hm : Covers [.port, .mem, .hub, .contexts, .objects, .front, .bramble, .slices, .trestle, .sched, .wrd,
        .chest, .watch, .hutch, .jnl, .power, .link] fp :=
      by exact Covers.sub ‹Covers _ _› (by decide)) :
    Within fp s0 (scrub found s) := by
  unfold scrub; try dsimp only
  repeat' (with_reducible first
    | exact hk | exact hm.sub (by decide) | (refine Within.ite (fun _ => ?_) (fun _ => ?_)) | split
    | apply scrubAll_within | apply scrubBank_within)

theorem State.modMgmt_within {fp : List Part} {s0 s : State} (f : Mgmt → Mgmt) (hk : Within fp s0 s)
    (hm : Covers [.mgmt] fp :=
      by exact Covers.sub ‹Covers _ _› (by decide)) :
    Within fp s0 (State.modMgmt s f) := by
  unfold State.modMgmt; try dsimp only
  repeat' (with_reducible first
    | exact hk | exact hm.sub (by decide) | (fail_if_no_progress refine Within.mgmt ?_ (hm.sub (by decide)) _)
    | (refine Within.ite (fun _ => ?_) (fun _ => ?_)) | split)

theorem flashWrite_within {fp : List Part} {s0 s : State} (off : Nat) (bs : List Byte) (hk : Within fp s0 s)
    (hm : Covers [.port, .mem] fp :=
      by exact Covers.sub ‹Covers _ _› (by decide)) :
    Within fp s0 (flashWrite off bs s) := by
  exact emit_within _ (hk.mem (fun c => c.flash (memWfP_writeN _ _ c.2.2.2.2)) (hm.sub (by decide)))

theorem eraseSlot_within {fp : List Part} {s0 s : State} (slot : Nat) (hk : Within fp s0 s)
    (hm : Covers [.mem] fp :=
      by exact Covers.sub ‹Covers _ _› (by decide)) :
    Within fp s0 (eraseSlot slot s) := by
  exact hk.mem (fun c => c.flash (memWfP_filter _ c.2.2.2.2)) (hm.sub (by decide))

theorem programSlot_within {fp : List Part} {s0 s : State} (slot : Nat) (img : List Byte) (hk : Within fp s0 s)
    (hm : Covers [.port, .mem] fp :=
      by exact Covers.sub ‹Covers _ _› (by decide)) :
    Within fp s0 (programSlot slot img s) := by
  unfold programSlot; try dsimp only
  repeat' (with_reducible first
    | exact hk | exact hm.sub (by decide) | (refine Within.ite (fun _ => ?_) (fun _ => ?_)) | split
    | apply eraseSlot_within | apply flashWrite_within)

theorem writeDir_within {fp : List Part} {s0 s : State} (d : BootDir) (hk : Within fp s0 s)
    (hm : Covers [.port, .mem] fp :=
      by exact Covers.sub ‹Covers _ _› (by decide)) :
    Within fp s0 (writeDir d s) := by
  unfold writeDir; try dsimp only
  repeat' (with_reducible first
    | exact hk | exact hm.sub (by decide) | (refine Within.ite (fun _ => ?_) (fun _ => ?_)) | split
    | apply flashWrite_within)

theorem runCore_within {fp : List Part} {s0 s : State} (k slot : Nat) (hk : Within fp s0 s)
    (hm : Covers [.mgmt] fp :=
      by exact Covers.sub ‹Covers _ _› (by decide)) :
    Within fp s0 (runCore k slot s) := by
  unfold runCore; try dsimp only
  repeat' (with_reducible first
    | exact hk | exact hm.sub (by decide) | (refine Within.ite (fun _ => ?_) (fun _ => ?_)) | split
    | apply State.modCore_within)

theorem tierSetup_within {fp : List Part} {s0 s : State} (hk : Within fp s0 s)
    (hm : Covers [.wrd, .watch, .hutch] fp :=
      by exact Covers.sub ‹Covers _ _› (by decide)) :
    Within fp s0 (tierSetup s) := by
  unfold tierSetup; try dsimp only
  repeat' (with_reducible first
    | exact hk | exact hm.sub (by decide)
    | (fail_if_no_progress refine Within.wrd_watch_hutch ?_ (hm.sub (by decide)) _ _ _)
    | (refine Within.ite (fun _ => ?_) (fun _ => ?_)) | split)

theorem bootSetup_within {fp : List Part} {s0 s : State} (hk : Within fp s0 s)
    (hm : Covers [.port, .mem, .hub, .contexts, .objects, .front, .bramble, .slices, .trestle, .sched, .wrd,
        .chest, .watch, .hutch, .jnl, .mgmt, .power, .link] fp :=
      by exact Covers.sub ‹Covers _ _› (by decide)) :
    Within fp s0 (bootSetup s) := by
  unfold bootSetup; try dsimp only
  repeat' (with_reducible first
    | exact hk | exact hm.sub (by decide) | (refine Within.ite (fun _ => ?_) (fun _ => ?_)) | split
    | apply State.modMgmt_within | apply orderStage3_within | apply tierSetup_within)

theorem bootLoadDone_within {fp : List Part} {s0 s : State} (hk : Within fp s0 s)
    (hm : Covers [.port, .mem, .mgmt] fp :=
      by exact Covers.sub ‹Covers _ _› (by decide)) :
    Within fp s0 (bootLoadDone s) := by
  unfold bootLoadDone; try dsimp only
  repeat' (with_reducible first
    | exact hk | exact hm.sub (by decide) | (refine Within.ite (fun _ => ?_) (fun _ => ?_)) | split | assumption
    | apply Within.foldl | intro _ _ _ | apply State.modMgmt_within | apply emitAll_within | apply pushWork_within
    | apply runCore_within | apply writeDir_within)

theorem bootCommit_within {fp : List Part} {s0 s : State} (hk : Within fp s0 s)
    (hm : Covers [.port, .mem, .mgmt] fp :=
      by exact Covers.sub ‹Covers _ _› (by decide)) :
    Within fp s0 (bootCommit s) := by
  unfold bootCommit; try dsimp only
  repeat' (with_reducible first
    | exact hk | exact hm.sub (by decide) | (refine Within.ite (fun _ => ?_) (fun _ => ?_)) | split
    | apply State.modMgmt_within | apply writeDir_within)

theorem patchLoad_within {fp : List Part} {s0 s : State} (pkg : PatchPkg) (hk : Within fp s0 s)
    (hm : Covers [.bramble, .mgmt] fp :=
      by exact Covers.sub ‹Covers _ _› (by decide)) :
    Within fp s0 (patchLoad pkg s) := by
  unfold patchLoad; try dsimp only
  repeat' (with_reducible first
    | exact hk | exact hm.sub (by decide)
    | (fail_if_no_progress refine Within.bramble_mgmt ?_ (hm.sub (by decide)) _ _)
    | (refine Within.ite (fun _ => ?_) (fun _ => ?_)) | split | assumption | apply Within.foldl | intro _ _ _
    | apply State.modMgmt_within)

theorem hostCapsWrite_within {fp : List Part} {s0 s : State} (v : W64) (hk : Within fp s0 s)
    (hm : Covers [.hub, .mgmt] fp :=
      by exact Covers.sub ‹Covers _ _› (by decide)) :
    Within fp s0 (hostCapsWrite v s) := by
  unfold hostCapsWrite; try dsimp only
  repeat' (with_reducible first
    | exact hk | exact hm.sub (by decide) | (fail_if_no_progress refine Within.hub ?_ (hm.sub (by decide)) _)
    | (refine Within.ite (fun _ => ?_) (fun _ => ?_)) | split | apply State.modMgmt_within | apply bar0Err_within)

theorem firmwareRec_within {fp : List Part} {s0 s : State} (k cause state : Nat) (c : Core)
    (hk : Within fp s0 s)
    (hm : Covers [.port, .mem, .hutch, .mgmt] fp :=
      by exact Covers.sub ‹Covers _ _› (by decide)) :
    Within fp s0 (firmwareRec k cause state c s) := by
  unfold firmwareRec; try dsimp only
  repeat' (with_reducible first
    | exact hk | exact hm.sub (by decide) | (refine Within.ite (fun _ => ?_) (fun _ => ?_)) | split
    | apply hutchRec_within | apply pushWork_within)

theorem fwRestartEvent_within {fp : List Part} {s0 s : State} (k cause outcome : Nat) (c : Core)
    (hk : Within fp s0 s)
    (hm : Covers [.chest, .jnl] fp :=
      by exact Covers.sub ‹Covers _ _› (by decide)) :
    Within fp s0 (fwRestartEvent k cause outcome c s) := by
  unfold fwRestartEvent; try dsimp only
  repeat' (with_reducible first
    | exact hk | exact hm.sub (by decide) | (refine Within.ite (fun _ => ?_) (fun _ => ?_)) | split
    | apply raiseEvent_within)

theorem stopFills_within {fp : List Part} {s0 s : State} (ws : List Work) (hk : Within fp s0 s)
    (hm : Covers [.wrd] fp :=
      by exact Covers.sub ‹Covers _ _› (by decide)) :
    Within fp s0 (stopFills ws s) := by
  unfold stopFills; try dsimp only
  repeat' (with_reducible first
    | exact hk | exact hm.sub (by decide) | (refine Within.ite (fun _ => ?_) (fun _ => ?_)) | split
    | apply stopJobs_within)

theorem loadShared_within {fp : List Part} {s0 s : State} (slot : Nat) (hk : Within fp s0 s)
    (hm : Covers [.mgmt] fp :=
      by exact Covers.sub ‹Covers _ _› (by decide)) :
    Within fp s0 (loadShared slot s) := by
  unfold loadShared; try dsimp only
  repeat' (with_reducible first
    | exact hk | exact hm.sub (by decide) | (refine Within.ite (fun _ => ?_) (fun _ => ?_)) | split
    | apply State.modMgmt_within)

theorem restartInto_within {fp : List Part} {s0 s : State} (slot : Nat) (hk : Within fp s0 s)
    (hm : Covers [.wrd, .mgmt] fp :=
      by exact Covers.sub ‹Covers _ _› (by decide)) :
    Within fp s0 (restartInto slot s) := by
  unfold restartInto; try dsimp only
  repeat' (with_reducible first
    | exact hk | exact hm.sub (by decide) | (refine Within.ite (fun _ => ?_) (fun _ => ?_)) | split
    | apply State.modMgmt_within | apply loadShared_within | apply stopFills_within)

theorem rollback_within {fp : List Part} {s0 s : State} (hk : Within fp s0 s)
    (hm : Covers [.port, .mem, .wrd, .mgmt] fp :=
      by exact Covers.sub ‹Covers _ _› (by decide)) :
    Within fp s0 (rollback s) := by
  unfold rollback; try dsimp only
  repeat' (with_reducible first
    | exact hk | exact hm.sub (by decide) | (refine Within.ite (fun _ => ?_) (fun _ => ?_)) | split
    | apply State.modMgmt_within | apply restartInto_within | apply writeDir_within)

theorem enterRollback_within {fp : List Part} {s0 s : State} (hk : Within fp s0 s)
    (hm : Covers [.port, .mem, .wrd, .mgmt] fp :=
      by exact Covers.sub ‹Covers _ _› (by decide)) :
    Within fp s0 (enterRollback s) := by
  unfold enterRollback; try dsimp only
  repeat' (with_reducible first
    | exact hk | exact hm.sub (by decide) | (refine Within.ite (fun _ => ?_) (fun _ => ?_)) | split
    | apply State.modMgmt_within | apply rollback_within)

theorem endProbation_within {fp : List Part} {s0 s : State} (hk : Within fp s0 s)
    (hm : Covers [.port, .mem, .wrd, .mgmt] fp :=
      by exact Covers.sub ‹Covers _ _› (by decide)) :
    Within fp s0 (endProbation s) := by
  unfold endProbation; try dsimp only
  repeat' (with_reducible first
    | exact hk | exact hm.sub (by decide) | (refine Within.ite (fun _ => ?_) (fun _ => ?_)) | split
    | apply enterRollback_within)

theorem coreStop_within {fp : List Part} {s0 s : State} (k cause : Nat) (t : TrapFrame) (hk : Within fp s0 s)
    (hm : Covers [.port, .mem, .wrd, .chest, .hutch, .jnl, .mgmt] fp :=
      by exact Covers.sub ‹Covers _ _› (by decide)) :
    Within fp s0 (coreStop k cause t s) := by
  unfold coreStop; try dsimp only
  repeat' (with_reducible first
    | exact hk | exact hm.sub (by decide) | (refine Within.ite (fun _ => ?_) (fun _ => ?_)) | split
    | apply State.modCore_within | apply State.modMgmt_within | apply firmwareRec_within
    | apply fwRestartEvent_within | apply stopFills_within)

theorem coreFail_within {fp : List Part} {s0 s : State} (k cause : Nat) (t : TrapFrame) (hk : Within fp s0 s)
    (hm : Covers [.port, .mem, .wrd, .chest, .hutch, .jnl, .mgmt] fp :=
      by exact Covers.sub ‹Covers _ _› (by decide)) :
    Within fp s0 (coreFail k cause t s) := by
  unfold coreFail; try dsimp only
  repeat' (with_reducible first
    | exact hk | exact hm.sub (by decide) | (refine Within.ite (fun _ => ?_) (fun _ => ?_)) | split
    | apply coreStop_within | apply endProbation_within)

theorem mcWatchFlag_within {fp : List Part} {s0 s : State} (k : Nat) (t : TrapFrame) (hk : Within fp s0 s)
    (hm : Covers [.port, .mem, .wrd, .chest, .hutch, .jnl, .mgmt] fp :=
      by exact Covers.sub ‹Covers _ _› (by decide)) :
    Within fp s0 (mcWatchFlag k t s) := by
  unfold mcWatchFlag; try dsimp only
  repeat' (with_reducible first
    | exact hk | exact hm.sub (by decide) | (refine Within.ite (fun _ => ?_) (fun _ => ?_)) | split
    | apply coreFail_within | apply trace_within)

theorem watchdogExpiry_within {fp : List Part} {s0 s : State} (k : Nat) (t : TrapFrame) (hk : Within fp s0 s)
    (hm : Covers [.port, .mem, .wrd, .chest, .hutch, .jnl, .mgmt] fp :=
      by exact Covers.sub ‹Covers _ _› (by decide)) :
    Within fp s0 (watchdogExpiry k t s) := by
  unfold watchdogExpiry; try dsimp only
  repeat' (with_reducible first
    | exact hk | exact hm.sub (by decide) | (refine Within.ite (fun _ => ?_) (fun _ => ?_)) | split
    | apply State.modCore_within | apply coreFail_within)

theorem memoryError_within {fp : List Part} {s0 s : State} (core : Option Nat) (t : TrapFrame)
    (hk : Within fp s0 s)
    (hm : Covers [.port, .mem, .wrd, .chest, .hutch, .jnl, .mgmt] fp :=
      by exact Covers.sub ‹Covers _ _› (by decide)) :
    Within fp s0 (memoryError core t s) := by
  unfold memoryError; try dsimp only
  repeat' (with_reducible first
    | exact hk | exact hm.sub (by decide) | (refine Within.ite (fun _ => ?_) (fun _ => ?_)) | split | assumption
    | apply Within.foldl | intro _ _ _ | apply coreFail_within | apply coreStop_within | apply endProbation_within
    | apply loadShared_within)

theorem mcDumpDone_within {fp : List Part} {s0 s : State} (k : Nat) (hk : Within fp s0 s)
    (hm : Covers [.port, .mem, .hutch, .mgmt] fp :=
      by exact Covers.sub ‹Covers _ _› (by decide)) :
    Within fp s0 (mcDumpDone k s) := by
  unfold mcDumpDone; try dsimp only
  repeat' (with_reducible first
    | exact hk | exact hm.sub (by decide) | (refine Within.ite (fun _ => ?_) (fun _ => ?_)) | split
    | apply State.modCore_within | apply firmwareRec_within)

theorem writeRecord_within {fp : List Part} {s0 s : State} (p : List Byte) (hk : Within fp s0 s)
    (hm : Covers [.port, .mem, .hutch] fp :=
      by exact Covers.sub ‹Covers _ _› (by decide)) :
    Within fp s0 (writeRecord p s) := by
  unfold writeRecord; try dsimp only
  repeat' (with_reducible first
    | exact hk | exact hm.sub (by decide) | (refine Within.ite (fun _ => ?_) (fun _ => ?_)) | split
    | apply hutchRec_within)

theorem emergencyTest_within {fp : List Part} {s0 s : State} (hk : Within fp s0 s)
    (hm : Covers [.mgmt] fp :=
      by exact Covers.sub ‹Covers _ _› (by decide)) :
    Within fp s0 (emergencyTest s) := by
  unfold emergencyTest; try dsimp only
  repeat' (with_reducible first
    | exact hk | exact hm.sub (by decide) | (refine Within.ite (fun _ => ?_) (fun _ => ?_)) | split
    | apply State.modMgmt_within)

theorem resumeActivate_within {fp : List Part} {s0 s : State} (hk : Within fp s0 s)
    (hm : Covers [.mgmt] fp :=
      by exact Covers.sub ‹Covers _ _› (by decide)) :
    Within fp s0 (resumeActivate s) := by
  unfold resumeActivate; try dsimp only
  repeat' (with_reducible first
    | exact hk | exact hm.sub (by decide) | (refine Within.ite (fun _ => ?_) (fun _ => ?_)) | split
    | apply emergencyTest_within)

theorem resumeMc0_within {fp : List Part} {s0 s : State} (hk : Within fp s0 s)
    (hm : Covers [.port, .mem, .hub, .wrd, .mgmt] fp :=
      by exact Covers.sub ‹Covers _ _› (by decide)) :
    Within fp s0 (resumeMc0 s) := by
  unfold resumeMc0; try dsimp only
  repeat' (with_reducible first
    | exact hk | exact hm.sub (by decide) | (refine Within.ite (fun _ => ?_) (fun _ => ?_)) | split
    | apply finishStart_within | apply resumeActivate_within | apply rollback_within)

theorem mcReloadDone_within {fp : List Part} {s0 s : State} (k : Nat) (ok : Bool) (hk : Within fp s0 s)
    (hm : Covers [.port, .mem, .hub, .wrd, .chest, .hutch, .jnl, .mgmt] fp :=
      by exact Covers.sub ‹Covers _ _› (by decide)) :
    Within fp s0 (mcReloadDone k ok s) := by
  unfold mcReloadDone; try dsimp only
  repeat' (with_reducible first
    | exact hk | exact hm.sub (by decide) | (refine Within.ite (fun _ => ?_) (fun _ => ?_)) | split
    | apply State.modCore_within | apply State.modMgmt_within | apply emitAll_within | apply endProbation_within
    | apply firmwareRec_within | apply fwRestartEvent_within | apply resumeMc0_within | apply runCore_within)

theorem logEntry_within {fp : List Part} {s0 s : State} (level core subject : Nat) (hk : Within fp s0 s)
    (hm : Covers [.port, .mem, .hub, .jnl] fp :=
      by exact Covers.sub ‹Covers _ _› (by decide)) :
    Within fp s0 (logEntry level core subject s) := by
  unfold logEntry; try dsimp only
  repeat' (with_reducible first
    | exact hk | exact hm.sub (by decide) | (fail_if_no_progress refine Within.jnl ?_ (hm.sub (by decide)) _)
    | (refine Within.ite (fun _ => ?_) (fun _ => ?_)) | split | apply hostWrite_within)

theorem retakeTest_within {fp : List Part} {s0 s : State} (p : Nat) (hk : Within fp s0 s)
    (hm : Covers [.power] fp :=
      by exact Covers.sub ‹Covers _ _› (by decide)) :
    Within fp s0 (retakeTest p s) := by
  unfold retakeTest; try dsimp only
  repeat' (with_reducible first
    | exact hk | exact hm.sub (by decide) | (refine Within.ite (fun _ => ?_) (fun _ => ?_)) | split
    | apply State.modPower_within)

theorem retakeBankTest_within {fp : List Part} {s0 s : State} (hk : Within fp s0 s)
    (hm : Covers [.chest, .jnl, .power] fp :=
      by exact Covers.sub ‹Covers _ _› (by decide)) :
    Within fp s0 (retakeBankTest s) := by
  unfold retakeBankTest; try dsimp only
  repeat' (with_reducible first
    | exact hk | exact hm.sub (by decide) | (refine Within.ite (fun _ => ?_) (fun _ => ?_)) | split
    | apply State.modPower_within | apply settleChest_within)

theorem serveWork_within {fp : List Part} {s0 s : State} (k : Nat) (w : Work) (hk : Within fp s0 s)
    (hm : Covers [.port, .mem, .hub, .contexts, .objects, .front, .bramble, .slices, .trestle, .sched, .wrd,
        .chest, .watch, .hutch, .jnl, .mgmt, .power, .link] fp :=
      by exact Covers.sub ‹Covers _ _› (by decide)) :
    Within fp s0 (serveWork k w s) := by
  unfold serveWork; try dsimp only
  repeat' (with_reducible first
    | exact hk | exact hm.sub (by decide) | (refine Within.ite (fun _ => ?_) (fun _ => ?_)) | split
    | apply bootSetup_within | apply doneWork_within | apply logEntry_within | apply modelWork_within
    | apply retakeBankTest_within | apply retakeTest_within | apply writeRecord_within)

theorem mailboxItem_within {fp : List Part} {s0 s : State} (k : Nat) (hk : Within fp s0 s)
    (hm : Covers [.port, .mem, .hub, .contexts, .objects, .front, .bramble, .slices, .trestle, .sched, .wrd,
        .chest, .watch, .hutch, .jnl, .mgmt, .power, .link] fp :=
      by exact Covers.sub ‹Covers _ _› (by decide)) :
    Within fp s0 (mailboxItem k s) := by
  unfold mailboxItem; try dsimp only
  repeat' (with_reducible first
    | exact hk | exact hm.sub (by decide) | (refine Within.ite (fun _ => ?_) (fun _ => ?_)) | split
    | apply State.modCore_within | apply serveWork_within)

theorem updEnd_within {fp : List Part} {s0 s : State} (result : Nat) (hk : Within fp s0 s)
    (hm : Covers [.mgmt] fp :=
      by exact Covers.sub ‹Covers _ _› (by decide)) :
    Within fp s0 (updEnd result s) := by
  unfold updEnd; try dsimp only
  repeat' (with_reducible first
    | exact hk | exact hm.sub (by decide) | (refine Within.ite (fun _ => ?_) (fun _ => ?_)) | split
    | apply State.modMgmt_within)

theorem updResult_within {fp : List Part} {s0 s : State} (result : Nat) (hk : Within fp s0 s)
    (hm : Covers [.mgmt] fp :=
      by exact Covers.sub ‹Covers _ _› (by decide)) :
    Within fp s0 (updResult result s) := by
  unfold updResult; try dsimp only
  repeat' (with_reducible first
    | exact hk | exact hm.sub (by decide) | (refine Within.ite (fun _ => ?_) (fun _ => ?_)) | split
    | apply State.modMgmt_within)

theorem updCmd_within {fp : List Part} {s0 s : State} (op : State → State)
    (ho : ∀ {s}, Within fp s0 s → Within fp s0 (op s)) (hk : Within fp s0 s)
    (hm : Covers [.hub] fp :=
      by exact Covers.sub ‹Covers _ _› (by decide)) :
    Within fp s0 (updCmd op s) := by
  unfold updCmd
  repeat' (with_reducible first | exact hm.sub (by decide) | exact hk | split | exact ho hk | apply bar0Err_within)

theorem updateStage_within {fp : List Part} {s0 s : State} (kib : Nat) (hk : Within fp s0 s)
    (hm : Covers [.hub, .mgmt] fp :=
      by exact Covers.sub ‹Covers _ _› (by decide)) :
    Within fp s0 (updateStage kib s) := by
  unfold updateStage; try dsimp only
  repeat' (with_reducible first
    | exact hk | exact hm.sub (by decide) | (refine Within.ite (fun _ => ?_) (fun _ => ?_)) | split
    | apply State.modMgmt_within | apply updCmd_within | apply updEnd_within | (intro _ hk)
    | (dsimp only [id]; exact hk))

theorem stagingDone_within {fp : List Part} {s0 s : State} (img : List Byte) (flashOk : Bool)
    (hk : Within fp s0 s)
    (hm : Covers [.port, .mem, .mgmt] fp :=
      by exact Covers.sub ‹Covers _ _› (by decide)) :
    Within fp s0 (stagingDone img flashOk s) := by
  unfold stagingDone; try dsimp only
  repeat' (with_reducible first
    | exact hk | exact hm.sub (by decide) | (refine Within.ite (fun _ => ?_) (fun _ => ?_)) | split
    | apply State.modMgmt_within | apply emitAll_within | apply memWrite_within | apply programSlot_within
    | apply readReq_within | apply updEnd_within)

theorem updateActivate_within {fp : List Part} {s0 s : State} (raise : Bool) (hk : Within fp s0 s)
    (hm : Covers [.hub, .mgmt] fp :=
      by exact Covers.sub ‹Covers _ _› (by decide)) :
    Within fp s0 (updateActivate raise s) := by
  unfold updateActivate; try dsimp only
  repeat' (with_reducible first
    | exact hk | exact hm.sub (by decide) | (refine Within.ite (fun _ => ?_) (fun _ => ?_)) | split
    | apply State.modMgmt_within | apply emergencyTest_within | apply updCmd_within | apply updResult_within
    | (intro _ hk) | (dsimp only [id]; exact hk))

theorem updateCancel_within {fp : List Part} {s0 s : State} (hk : Within fp s0 s)
    (hm : Covers [.hub, .mgmt] fp :=
      by exact Covers.sub ‹Covers _ _› (by decide)) :
    Within fp s0 (updateCancel s) := by
  unfold updateCancel; try dsimp only
  repeat' (with_reducible first
    | exact hk | exact hm.sub (by decide) | (refine Within.ite (fun _ => ?_) (fun _ => ?_)) | split
    | apply bar0Err_within | apply updEnd_within | apply updResult_within)

theorem updateEmergencyCleared_within {fp : List Part} {s0 s : State} (hk : Within fp s0 s)
    (hm : Covers [.mgmt] fp :=
      by exact Covers.sub ‹Covers _ _› (by decide)) :
    Within fp s0 (updateEmergencyCleared s) := by
  unfold updateEmergencyCleared; try dsimp only
  repeat' (with_reducible first
    | exact hk | exact hm.sub (by decide) | (refine Within.ite (fun _ => ?_) (fun _ => ?_)) | split
    | apply emergencyTest_within)

theorem updateQuiesced_within {fp : List Part} {s0 s : State} (hk : Within fp s0 s)
    (hm : Covers [.port, .mem, .wrd, .mgmt] fp :=
      by exact Covers.sub ‹Covers _ _› (by decide)) :
    Within fp s0 (updateQuiesced s) := by
  unfold updateQuiesced; try dsimp only
  repeat' (with_reducible first
    | exact hk | exact hm.sub (by decide) | (refine Within.ite (fun _ => ?_) (fun _ => ?_)) | split
    | apply State.modMgmt_within | apply restartInto_within | apply writeDir_within)

theorem updateLoaded_within {fp : List Part} {s0 s : State} (ok : Bool) (hk : Within fp s0 s)
    (hm : Covers [.port, .mem, .wrd, .mgmt] fp :=
      by exact Covers.sub ‹Covers _ _› (by decide)) :
    Within fp s0 (updateLoaded ok s) := by
  unfold updateLoaded; try dsimp only
  repeat' (with_reducible first
    | exact hk | exact hm.sub (by decide) | (refine Within.ite (fun _ => ?_) (fun _ => ?_)) | split
    | apply State.modMgmt_within | apply enterRollback_within)

theorem probationExpiry_within {fp : List Part} {s0 s : State} (hk : Within fp s0 s)
    (hm : Covers [.port, .mem, .mgmt] fp :=
      by exact Covers.sub ‹Covers _ _› (by decide)) :
    Within fp s0 (probationExpiry s) := by
  unfold probationExpiry; try dsimp only
  repeat' (with_reducible first
    | exact hk | exact hm.sub (by decide) | (refine Within.ite (fun _ => ?_) (fun _ => ?_)) | split
    | apply State.modMgmt_within | apply updEnd_within | apply writeDir_within)

theorem rollbackDone_within {fp : List Part} {s0 s : State} (hk : Within fp s0 s)
    (hm : Covers [.mgmt] fp :=
      by exact Covers.sub ‹Covers _ _› (by decide)) :
    Within fp s0 (rollbackDone s) := by
  unfold rollbackDone; try dsimp only
  repeat' (with_reducible first
    | exact hk | exact hm.sub (by decide) | (refine Within.ite (fun _ => ?_) (fun _ => ?_)) | split
    | apply updEnd_within)

theorem State.modPort_within {fp : List Part} {s0 s : State} (f : Port → Port) (hk : Within fp s0 s)
    (hm : Covers [.port] fp :=
      by exact Covers.sub ‹Covers _ _› (by decide)) :
    Within fp s0 (State.modPort s f) := by
  unfold State.modPort; try dsimp only
  repeat' (with_reducible first
    | exact hk | exact hm.sub (by decide) | (fail_if_no_progress refine Within.port ?_ (hm.sub (by decide)) _)
    | (refine Within.ite (fun _ => ?_) (fun _ => ?_)) | split)

theorem State.modLink_within {fp : List Part} {s0 s : State} (f : Link → Link) (hk : Within fp s0 s)
    (hm : Covers [.link] fp :=
      by exact Covers.sub ‹Covers _ _› (by decide)) :
    Within fp s0 (State.modLink s f) := by
  unfold State.modLink; try dsimp only
  repeat' (with_reducible first
    | exact hk | exact hm.sub (by decide) | (fail_if_no_progress refine Within.link ?_ (hm.sub (by decide)) _)
    | (refine Within.ite (fun _ => ?_) (fun _ => ?_)) | split)

theorem sendBudget_within {fp : List Part} {s0 s : State} (dir : Nat) (hk : Within fp s0 s)
    (hm : Covers [.port] fp :=
      by exact Covers.sub ‹Covers _ _› (by decide)) :
    Within fp s0 (sendBudget s dir) := by
  unfold sendBudget; try dsimp only
  repeat' (with_reducible first
    | exact hk | exact hm.sub (by decide) | (refine Within.ite (fun _ => ?_) (fun _ => ?_)) | split
    | apply emit_within)

theorem sendBudgets_within {fp : List Part} {s0 s : State} (hk : Within fp s0 s)
    (hm : Covers [.port] fp :=
      by exact Covers.sub ‹Covers _ _› (by decide)) :
    Within fp s0 (sendBudgets s) := by
  unfold sendBudgets; try dsimp only
  repeat' (with_reducible first
    | exact hk | exact hm.sub (by decide) | (refine Within.ite (fun _ => ?_) (fun _ => ?_)) | split | assumption
    | apply Within.foldl | intro _ _ _ | apply sendBudget_within)

theorem links_within {fp : List Part} {s0 s : State} (dir up : Nat) (hk : Within fp s0 s)
    (hm : Covers [.port, .link] fp :=
      by exact Covers.sub ‹Covers _ _› (by decide)) :
    Within fp s0 (links dir up s) := by
  unfold links; try dsimp only
  repeat' (with_reducible first
    | exact hk | exact hm.sub (by decide) | (refine Within.ite (fun _ => ?_) (fun _ => ?_)) | split
    | apply State.modLink_within | apply sendBudget_within)

theorem barrierSlotOwn_within {fp : List Part} {s0 s : State} (v : W32) (hk : Within fp s0 s)
    (hm : Covers [.hub, .link] fp :=
      by exact Covers.sub ‹Covers _ _› (by decide)) :
    Within fp s0 (barrierSlotOwn v s) := by
  unfold barrierSlotOwn; try dsimp only
  repeat' (with_reducible first
    | exact hk | exact hm.sub (by decide) | (fail_if_no_progress refine Within.hub ?_ (hm.sub (by decide)) _)
    | (refine Within.ite (fun _ => ?_) (fun _ => ?_)) | split | apply State.modLink_within | apply bar0Err_within)

theorem freeSlot_within {fp : List Part} {s0 s : State} (slot : Nat) (hk : Within fp s0 s)
    (hm : Covers [.link] fp :=
      by exact Covers.sub ‹Covers _ _› (by decide)) :
    Within fp s0 (freeSlot slot s) := by
  unfold freeSlot; try dsimp only
  repeat' (with_reducible first
    | exact hk | exact hm.sub (by decide) | (refine Within.ite (fun _ => ?_) (fun _ => ?_)) | split
    | apply State.modLink_within)

theorem release_within {fp : List Part} {s0 s : State} (group slot epoch : Nat) (hk : Within fp s0 s)
    (hm : Covers [.front, .link] fp :=
      by exact Covers.sub ‹Covers _ _› (by decide)) :
    Within fp s0 (release group slot epoch s) := by
  unfold release; try dsimp only
  repeat' (with_reducible first
    | exact hk | exact hm.sub (by decide) | (refine Within.ite (fun _ => ?_) (fun _ => ?_)) | split
    | apply State.modLink_within | apply finishOk_within | apply freeSlot_within)

theorem barrierDeadline_within {fp : List Part} {s0 s : State} (slot : Nat) (hk : Within fp s0 s)
    (hm : Covers [.port, .mem, .front, .bramble, .chest, .hutch, .jnl, .link] fp :=
      by exact Covers.sub ‹Covers _ _› (by decide)) :
    Within fp s0 (barrierDeadline slot s) := by
  unfold barrierDeadline; try dsimp only
  repeat' (with_reducible first
    | exact hk | exact hm.sub (by decide) | (refine Within.ite (fun _ => ?_) (fun _ => ?_)) | split
    | apply dropShadows_within | apply finish_within | apply freeSlot_within | apply hutchRec_within
    | apply raiseEvent_within)

theorem hfpFlrReq_within {fp : List Part} {s0 s : State} (fn : Nat) (hk : Within fp s0 s)
    (hm : Covers [.port, .mem, .hub, .contexts, .objects, .front, .bramble, .slices, .trestle, .sched, .wrd,
        .chest, .watch, .hutch, .jnl, .power, .link] fp :=
      by exact Covers.sub ‹Covers _ _› (by decide)) :
    Within fp s0 (hfpFlrReq fn s) := by
  unfold hfpFlrReq; try dsimp only
  repeat' (with_reducible first
    | exact hk | exact hm.sub (by decide) | (refine Within.ite (fun _ => ?_) (fun _ => ?_)) | split | assumption
    | apply Within.foldl | intro _ _ _ | apply State.modPort_within | apply beginTeardown_within
    | apply modStage_within | apply orderStage3_within)

theorem hfpFlrAck_within {fp : List Part} {s0 s : State} (fn : Nat) (hk : Within fp s0 s)
    (hm : Covers [.port] fp :=
      by exact Covers.sub ‹Covers _ _› (by decide)) :
    Within fp s0 (hfpFlrAck fn s) := by
  unfold hfpFlrAck; try dsimp only
  repeat' (with_reducible first
    | exact hk | exact hm.sub (by decide) | (refine Within.ite (fun _ => ?_) (fun _ => ?_)) | split
    | apply State.modPort_within | apply emit_within)

theorem clearBlock_within {fp : List Part} {s0 s : State} (hk : Within fp s0 s)
    (hm : Covers [.port, .mem, .hub, .tenants, .contexts, .objects, .graphs, .front, .bramble, .slices,
        .trestle, .sched, .wrd, .chest, .watch, .jnl, .sta, .mgmt, .power, .link] fp :=
      by exact Covers.sub ‹Covers _ _› (by decide)) :
    Within fp s0 (clearBlock s) := by
  exact hk.set (fun p => by cases p <;> first | exact .inr rfl | exact .inl (hm _ (by decide)))
    (fun c => c.scratch (x := []) trivial)

theorem blockReset_within {fp : List Part} {s0 s : State} (hk : Within fp s0 s)
    (hm : Covers [.port, .mem, .hub, .tenants, .contexts, .objects, .graphs, .front, .bramble, .slices,
        .trestle, .sched, .wrd, .chest, .bureau, .watch, .hutch, .jnl, .sta, .mgmt, .power, .link] fp :=
      by exact Covers.sub ‹Covers _ _› (by decide)) :
    Within fp s0 (blockReset s) := by
  unfold blockReset; try dsimp only
  repeat' (with_reducible first
    | exact hk | exact hm.sub (by decide)
    | (fail_if_no_progress refine Within.bureau_hutch ?_ (hm.sub (by decide)) _ _)
    | (refine Within.ite (fun _ => ?_) (fun _ => ?_)) | split | apply clearBlock_within)

theorem por_within {fp : List Part} {s0 s : State} (hk : Within fp s0 s)
    (hm : Covers [.time, .port, .mem, .hub, .tenants, .contexts, .objects, .graphs, .front, .bramble, .slices,
        .trestle, .sched, .wrd, .chest, .bureau, .watch, .hutch, .jnl, .sta, .mgmt, .power, .link] fp :=
      by exact Covers.sub ‹Covers _ _› (by decide)) :
    Within fp s0 (por s) := by
  unfold por; try dsimp only
  repeat' (with_reducible first
    | exact hk | exact hm.sub (by decide)
    | (fail_if_no_progress refine Within.time_port_watch ?_ (hm.sub (by decide)) _ _ _)
    | (refine Within.ite (fun _ => ?_) (fun _ => ?_)) | split | apply blockReset_within)

theorem blockResetRelease_within {fp : List Part} {s0 s : State} (hk : Within fp s0 s)
    (hm : Covers [.port, .hub, .contexts, .front, .bramble, .slices, .trestle, .sched, .wrd, .chest, .watch,
        .hutch, .jnl, .mgmt, .power] fp :=
      by exact Covers.sub ‹Covers _ _› (by decide)) :
    Within fp s0 (blockResetRelease s) := by
  unfold blockResetRelease; try dsimp only
  repeat' (with_reducible first
    | exact hk | exact hm.sub (by decide)
    | (fail_if_no_progress refine Within.hutch_mgmt ?_ (hm.sub (by decide)) _ _)
    | (refine Within.ite (fun _ => ?_) (fun _ => ?_)) | split | apply State.modPort_within | apply limiter_within
    | apply sendBudgets_within | apply usageSend_within | (intro _ hk) | (dsimp only [id]; exact hk))

theorem tapInstruction_within {fp : List Part} {s0 s : State} (t : TapInstr) (hk : Within fp s0 s)
    (hm : Covers [.port, .mem, .hub, .tenants, .contexts, .objects, .graphs, .front, .bramble, .slices,
        .trestle, .sched, .wrd, .chest, .watch, .jnl, .sta, .mgmt, .power, .link] fp :=
      by exact Covers.sub ‹Covers _ _› (by decide)) :
    Within fp s0 (tapInstruction t s) := by
  unfold tapInstruction; try dsimp only
  repeat' (with_reducible first
    | exact hk | exact hm.sub (by decide) | (refine Within.ite (fun _ => ?_) (fun _ => ?_)) | split
    | apply State.modPort_within | apply clearBlock_within)

theorem State.modJnl_within {fp : List Part} {s0 s : State} (f : JnlRegs → JnlRegs) (hk : Within fp s0 s)
    (hm : Covers [.jnl] fp :=
      by exact Covers.sub ‹Covers _ _› (by decide)) :
    Within fp s0 (State.modJnl s f) := by
  unfold State.modJnl; try dsimp only
  repeat' (with_reducible first
    | exact hk | exact hm.sub (by decide) | (fail_if_no_progress refine Within.jnl ?_ (hm.sub (by decide)) _)
    | (refine Within.ite (fun _ => ?_) (fun _ => ?_)) | split)

theorem jnlRingWrite_within {fp : List Part} {s0 s : State} (ring : JnlRing) (v : W64) (hk : Within fp s0 s)
    (hm : Covers [.jnl] fp :=
      by exact Covers.sub ‹Covers _ _› (by decide)) :
    Within fp s0 (jnlRingWrite ring v s) := by
  unfold jnlRingWrite; try dsimp only
  repeat' (with_reducible first
    | exact hk | exact hm.sub (by decide) | (refine Within.ite (fun _ => ?_) (fun _ => ?_)) | split
    | apply State.modJnl_within)

theorem eventConsWrite_within {fp : List Part} {s0 s : State} (v : W64) (hk : Within fp s0 s)
    (hm : Covers [.hub, .jnl] fp :=
      by exact Covers.sub ‹Covers _ _› (by decide)) :
    Within fp s0 (eventConsWrite v s) := by
  unfold eventConsWrite; try dsimp only
  repeat' (with_reducible first
    | exact hk | exact hm.sub (by decide) | (refine Within.ite (fun _ => ?_) (fun _ => ?_)) | split
    | apply State.modJnl_within | apply bar0Err_within)

theorem eventWrite_within {fp : List Part} {s0 s : State} (hk : Within fp s0 s)
    (hm : Covers [.port, .mem, .hub, .chest, .watch, .jnl] fp :=
      by exact Covers.sub ‹Covers _ _› (by decide)) :
    Within fp s0 (eventWrite s) := by
  unfold eventWrite; try dsimp only
  repeat' (with_reducible first
    | exact hk | exact hm.sub (by decide) | (refine Within.ite (fun _ => ?_) (fun _ => ?_)) | split
    | apply State.modJnl_within | apply bump_within | apply dropItem_within | apply hostWrite_within
    | apply msix_within)

theorem traceRingWrite_within {fp : List Part} {s0 s : State} (hk : Within fp s0 s)
    (hm : Covers [.port, .mem, .hub, .jnl] fp :=
      by exact Covers.sub ‹Covers _ _› (by decide)) :
    Within fp s0 (traceRingWrite s) := by
  unfold traceRingWrite; try dsimp only
  repeat' (with_reducible first
    | exact hk | exact hm.sub (by decide) | (refine Within.ite (fun _ => ?_) (fun _ => ?_)) | split
    | apply State.modJnl_within | apply hostWrite_within)

theorem staAddrWrite_within {fp : List Part} {s0 s : State} (v : W64) (hk : Within fp s0 s)
    (hm : Covers [.sta] fp :=
      by exact Covers.sub ‹Covers _ _› (by decide)) :
    Within fp s0 (staAddrWrite v s) := by
  unfold staAddrWrite; try dsimp only
  repeat' (with_reducible first
    | exact hk | exact hm.sub (by decide) | (fail_if_no_progress refine Within.sta ?_ (hm.sub (by decide)) _)
    | (refine Within.ite (fun _ => ?_) (fun _ => ?_)) | split)

theorem staReadDone_within {fp : List Part} {s0 s : State} (hk : Within fp s0 s)
    (hm : Covers [.sta] fp :=
      by exact Covers.sub ‹Covers _ _› (by decide)) :
    Within fp s0 (staReadDone s) := by
  unfold staReadDone; try dsimp only
  repeat' (with_reducible first
    | exact hk | exact hm.sub (by decide) | (fail_if_no_progress refine Within.sta ?_ (hm.sub (by decide)) _)
    | (refine Within.ite (fun _ => ?_) (fun _ => ?_)) | split)

theorem takeSpilled_within {fp : List Part} {s0 s : State} (c : Nat) (hk : Within fp s0 s)
    (hm : Covers [.front] fp :=
      by exact Covers.sub ‹Covers _ _› (by decide)) :
    Within fp s0 (takeSpilled c s) := by
  unfold takeSpilled; try dsimp only
  repeat' (with_reducible first
    | exact hk | exact hm.sub (by decide) | (refine Within.ite (fun _ => ?_) (fun _ => ?_)) | split
    | apply State.modQueues_within)

theorem snapSection_within {fp : List Part} {s0 : State} (c : Nat) (buf : Loc) (len : Nat) (a : Snap × State)
    (typ : Nat) (hk : Within fp s0 a.2)
    (hm : Covers [.port, .mem, .hub, .front] fp :=
      by exact Covers.sub ‹Covers _ _› (by decide)) :
    Within fp s0 (snapSection c buf len a typ).2 := by
  unfold snapSection; dsimp only
  repeat' (with_reducible first
    | exact hm.sub (by decide) | exact hk | split | apply takeSpilled_within | apply locWrite_within)

theorem opSnapshot_within {fp : List Part} {s0 s : State} (c q pos : Nat) (hk : Within fp s0 s)
    (hm : Covers [.port, .mem, .hub, .front, .chest, .jnl] fp :=
      by exact Covers.sub ‹Covers _ _› (by decide)) : Within fp s0 (opSnapshot c q pos s) := by
  have hf : ∀ (buf : Loc) (len : Nat) (l : List Nat) (a : Snap × State), Within fp s0 a.2 →
      Within fp s0 (l.foldl (snapSection c buf len) a).2 := by
    intro buf len l
    induction l with
    | nil => exact fun a h => h
    | cons t l ih => exact fun a h => ih _ (snapSection_within _ _ _ _ _ h)
  unfold opSnapshot; dsimp only
  split
  · exact hk
  · have hb := begun_within (qkey c q) pos hk
    split
    · exact finish_within _ _ _ _ hb
    · exact finishOk_within _ _ (locWrite_within _ _ _ (hf _ _ _ _ hb))

theorem bar0ErrRead_within {fp : List Part} {s0 s : State} (hk : Within fp s0 s)
    (hm : Covers [.port, .hub] fp :=
      by exact Covers.sub ‹Covers _ _› (by decide)) :
    Within fp s0 (bar0ErrRead s) := by
  unfold bar0ErrRead; try dsimp only
  repeat' (with_reducible first
    | exact hk | exact hm.sub (by decide)
    | (fail_if_no_progress refine Within.port_hub ?_ (hm.sub (by decide)) _ _)
    | (refine Within.ite (fun _ => ?_) (fun _ => ?_)) | split)

theorem wrdCfgWrite_within {fp : List Part} {s0 s : State} (v : W64) (hk : Within fp s0 s)
    (hm : Covers [.hub, .wrd] fp :=
      by exact Covers.sub ‹Covers _ _› (by decide)) :
    Within fp s0 (wrdCfgWrite v s) := by
  unfold wrdCfgWrite; try dsimp only
  repeat' (with_reducible first
    | exact hk | exact hm.sub (by decide) | (fail_if_no_progress refine Within.wrd ?_ (hm.sub (by decide)) _)
    | (refine Within.ite (fun _ => ?_) (fun _ => ?_)) | split | apply bar0Err_within)

theorem accept_within {fp : List Part} {s0 s : State} (ok : Bool) (off : Nat) (f : State → State)
    (hf : ∀ {s}, Within fp s0 s → Within fp s0 (f s))
    (hk : Within fp s0 s)
    (hm : Covers [.hub] fp :=
      by exact Covers.sub ‹Covers _ _› (by decide)) : Within fp s0 (accept ok off f s) := by
  unfold accept
  split
  · exact hf hk
  · exact bar0Err_within _ _ hk

theorem objCmdWrite_within {fp : List Part} {s0 s : State} (n : Nat) (hk : Within fp s0 s)
    (hm : Covers [.port, .mem, .hub, .tenants, .contexts, .objects, .graphs, .front, .bramble, .slices,
        .trestle, .sched, .wrd, .chest, .watch, .hutch, .jnl, .power, .link] fp :=
      by exact Covers.sub ‹Covers _ _› (by decide)) :
    Within fp s0 (objCmdWrite n s) := by
  unfold objCmdWrite; try dsimp only
  repeat' (with_reducible first
    | exact hk | exact hm.sub (by decide) | (refine Within.ite (fun _ => ?_) (fun _ => ?_)) | split
    | apply cmdIgnored_within | apply contextActivate_within | apply contextRetire_within | apply objResult_within
    | apply tenantActivate_within | apply tenantRetire_within)

theorem qcmdWrite_within {fp : List Part} {s0 s : State} (n : Nat) (hk : Within fp s0 s)
    (hm : Covers [.port, .mem, .hub, .contexts, .objects, .front, .bramble, .slices, .trestle, .sched, .wrd,
        .chest, .watch, .hutch, .jnl, .power, .link] fp :=
      by exact Covers.sub ‹Covers _ _› (by decide)) :
    Within fp s0 (qcmdWrite n s) := by
  unfold qcmdWrite; try dsimp only
  repeat' (with_reducible first
    | exact hk | exact hm.sub (by decide) | (refine Within.ite (fun _ => ?_) (fun _ => ?_)) | split
    | apply cmdIgnored_within | apply qResult_within | apply queueEnable_within | apply queueShutdown_within)

theorem sealCmdWrite_within {fp : List Part} {s0 s : State} (n : Nat) (hk : Within fp s0 s)
    (hm : Covers [.port, .hub] fp :=
      by exact Covers.sub ‹Covers _ _› (by decide)) :
    Within fp s0 (sealCmdWrite n s) := by
  unfold sealCmdWrite; try dsimp only
  repeat' (with_reducible first
    | exact hk | exact hm.sub (by decide) | (refine Within.ite (fun _ => ?_) (fun _ => ?_)) | split
    | apply cmdIgnored_within | apply sealClear_within | apply sealLoad_within | apply sealResult_within)

theorem resetCmdWrite_within {fp : List Part} {s0 s : State} (n : Nat) (hk : Within fp s0 s)
    (hm : Covers [.port, .mem, .hub, .contexts, .objects, .front, .bramble, .slices, .trestle, .sched, .wrd,
        .chest, .watch, .hutch, .jnl, .power, .link] fp :=
      by exact Covers.sub ‹Covers _ _› (by decide)) :
    Within fp s0 (resetCmdWrite n s) := by
  unfold resetCmdWrite; try dsimp only
  repeat' (with_reducible first
    | exact hk | exact hm.sub (by decide) | (refine Within.ite (fun _ => ?_) (fun _ => ?_)) | split
    | apply computeReset_within | apply partitionReset_within | apply resetCmd_within | apply resetReq_within
    | apply rstDone_within | (intro _ hk) | (dsimp only [id]; exact hk))

theorem updCmdWrite_within {fp : List Part} {s0 s : State} (n : Nat) (hk : Within fp s0 s)
    (hm : Covers [.hub, .mgmt] fp :=
      by exact Covers.sub ‹Covers _ _› (by decide)) :
    Within fp s0 (updCmdWrite n s) := by
  unfold updCmdWrite; try dsimp only
  repeat' (with_reducible first
    | exact hk | exact hm.sub (by decide) | (refine Within.ite (fun _ => ?_) (fun _ => ?_)) | split
    | apply updCmd_within | apply updResult_within | apply updateActivate_within | apply updateCancel_within
    | apply updateStage_within | (intro _ hk) | (dsimp only [id]; exact hk))

theorem setClassCfg_within {fp : List Part} {s0 s : State} (c n : Nat) (hk : Within fp s0 s)
    (hm : Covers [.chest, .jnl] fp :=
      by exact Covers.sub ‹Covers _ _› (by decide)) :
    Within fp s0 (setClassCfg c n s) := by
  unfold setClassCfg; try dsimp only
  repeat' (with_reducible first
    | exact hk | exact hm.sub (by decide) | (refine Within.ite (fun _ => ?_) (fun _ => ?_)) | split
    | apply State.modChest_within | apply settleChest_within)

theorem Reg.write_within {fp : List Part} {s0 s : State} (r : Reg) (off n : Nat) (hk : Within fp s0 s)
    (hm : Covers [.port, .mem, .hub, .tenants, .contexts, .objects, .graphs, .front, .bramble, .slices,
        .trestle, .sched, .wrd, .chest, .watch, .hutch, .jnl, .sta, .mgmt, .power, .link] fp :=
      by exact Covers.sub ‹Covers _ _› (by decide)) :
    Within fp s0 (Reg.write r off n s) := by
  unfold Reg.write; try dsimp only
  repeat' (with_reducible first
    | exact hk | exact hm.sub (by decide) | (fail_if_no_progress refine Within.bramble ?_ (hm.sub (by decide)) _)
    | (fail_if_no_progress refine Within.hub ?_ (hm.sub (by decide)) _)
    | (fail_if_no_progress refine Within.jnl ?_ (hm.sub (by decide)) _)
    | (fail_if_no_progress refine Within.sched ?_ (hm.sub (by decide)) _)
    | (fail_if_no_progress refine Within.watch ?_ (hm.sub (by decide)) _)
    | (fail_if_no_progress refine Within.wrd ?_ (hm.sub (by decide)) _)
    | (fail_if_no_progress refine Within.watch_hutch ?_ (hm.sub (by decide)) _ _)
    | (refine Within.ite (fun _ => ?_) (fun _ => ?_)) | split | apply State.modChest_within
    | apply State.modLink_within | apply State.modMgmt_within | apply State.modPower_within | apply accept_within
    | apply barrierSlotOwn_within | apply burReqWrite_within | apply burRingWrite_within | apply evalChest_within
    | apply eventConsWrite_within | apply hostCapsWrite_within | apply jnlRingWrite_within | apply limiter_within
    | apply objCmdWrite_within | apply qcmdWrite_within | apply resetCmdWrite_within | apply sealCmdWrite_within
    | apply sendBudgets_within | apply setClassCfg_within | apply staAddrWrite_within | apply updCmdWrite_within
    | apply wrdCfgWrite_within | (intro _ hk) | (dsimp only [id]; exact hk))

theorem regWrite_within {fp : List Part} {s0 s : State} (r : Reg) (off size n : Nat) (hk : Within fp s0 s)
    (hm : Covers [.port, .mem, .hub, .tenants, .contexts, .objects, .graphs, .front, .bramble, .slices,
        .trestle, .sched, .wrd, .chest, .watch, .hutch, .jnl, .sta, .mgmt, .power, .link] fp :=
      by exact Covers.sub ‹Covers _ _› (by decide)) :
    Within fp s0 (regWrite r off size n s) := by
  unfold regWrite; try dsimp only
  repeat' (with_reducible first
    | exact hk | exact hm.sub (by decide) | (refine Within.ite (fun _ => ?_) (fun _ => ?_)) | split
    | apply Reg.write_within | apply bar0Err_within)

theorem registerWrite_within {fp : List Part} {s0 s : State} (off size : Nat) (v : W64) (hk : Within fp s0 s)
    (hm : Covers [.port, .mem, .hub, .tenants, .contexts, .objects, .graphs, .front, .bramble, .slices,
        .trestle, .sched, .wrd, .chest, .bureau, .watch, .hutch, .jnl, .sta, .mgmt, .power, .link] fp :=
      by exact Covers.sub ‹Covers _ _› (by decide)) :
    Within fp s0 (registerWrite off size v s) := by
  unfold registerWrite; try dsimp only
  repeat' (with_reducible first
    | exact hk | exact hm.sub (by decide) | (refine Within.ite (fun _ => ?_) (fun _ => ?_)) | split
    | apply State.modBureau_within | apply bar0Err_within | apply regWrite_within)

end Sys2Proof.Machine
end

