-- ==== Sys2Proof/Laws/Shared.lean ====
section
/-! SUPPORT. The components that the shared operations leave as they were. -/

namespace Sys2Proof.Machine

@[simp] theorem charge_pending (c : Option Nat) (cls n : Nat) (s : State) : (charge c cls n s).pending = s.pending :=
  (charge_within c cls n (Within.refl [.hub] s) (Covers.refl _)).same .pending (by decide)
@[simp] theorem charge_time (c : Option Nat) (cls n : Nat) (s : State) : (charge c cls n s).time = s.time :=
  (charge_within c cls n (Within.refl [.hub] s) (Covers.refl _)).same .time (by decide)
@[simp] theorem charge_port (c : Option Nat) (cls n : Nat) (s : State) : (charge c cls n s).port = s.port :=
  (charge_within c cls n (Within.refl [.hub] s) (Covers.refl _)).same .port (by decide)
@[simp] theorem charge_integ (c : Option Nat) (cls n : Nat) (s : State) : (charge c cls n s).integ = s.integ :=
  (charge_within c cls n (Within.refl [.hub] s) (Covers.refl _)).same .integ (by decide)
@[simp] theorem charge_mem (c : Option Nat) (cls n : Nat) (s : State) : (charge c cls n s).mem = s.mem :=
  (charge_within c cls n (Within.refl [.hub] s) (Covers.refl _)).same .mem (by decide)
@[simp] theorem charge_tenants (c : Option Nat) (cls n : Nat) (s : State) : (charge c cls n s).tenants = s.tenants :=
  (charge_within c cls n (Within.refl [.hub] s) (Covers.refl _)).same .tenants (by decide)
@[simp] theorem charge_contexts (c : Option Nat) (cls n : Nat) (s : State) : (charge c cls n s).contexts = s.contexts :=
  (charge_within c cls n (Within.refl [.hub] s) (Covers.refl _)).same .contexts (by decide)
@[simp] theorem charge_objects (c : Option Nat) (cls n : Nat) (s : State) : (charge c cls n s).objects = s.objects :=
  (charge_within c cls n (Within.refl [.hub] s) (Covers.refl _)).same .objects (by decide)
@[simp] theorem charge_graphs (c : Option Nat) (cls n : Nat) (s : State) : (charge c cls n s).graphs = s.graphs :=
  (charge_within c cls n (Within.refl [.hub] s) (Covers.refl _)).same .graphs (by decide)
@[simp] theorem charge_front (c : Option Nat) (cls n : Nat) (s : State) : (charge c cls n s).front = s.front :=
  (charge_within c cls n (Within.refl [.hub] s) (Covers.refl _)).same .front (by decide)
@[simp] theorem charge_bramble (c : Option Nat) (cls n : Nat) (s : State) : (charge c cls n s).bramble = s.bramble :=
  (charge_within c cls n (Within.refl [.hub] s) (Covers.refl _)).same .bramble (by decide)
@[simp] theorem charge_slices (c : Option Nat) (cls n : Nat) (s : State) : (charge c cls n s).slices = s.slices :=
  (charge_within c cls n (Within.refl [.hub] s) (Covers.refl _)).same .slices (by decide)
@[simp] theorem charge_trestle (c : Option Nat) (cls n : Nat) (s : State) : (charge c cls n s).trestle = s.trestle :=
  (charge_within c cls n (Within.refl [.hub] s) (Covers.refl _)).same .trestle (by decide)
@[simp] theorem charge_sched (c : Option Nat) (cls n : Nat) (s : State) : (charge c cls n s).sched = s.sched :=
  (charge_within c cls n (Within.refl [.hub] s) (Covers.refl _)).same .sched (by decide)
@[simp] theorem charge_wrd (c : Option Nat) (cls n : Nat) (s : State) : (charge c cls n s).wrd = s.wrd :=
  (charge_within c cls n (Within.refl [.hub] s) (Covers.refl _)).same .wrd (by decide)
@[simp] theorem charge_chest (c : Option Nat) (cls n : Nat) (s : State) : (charge c cls n s).chest = s.chest :=
  (charge_within c cls n (Within.refl [.hub] s) (Covers.refl _)).same .chest (by decide)
@[simp] theorem charge_bureau (c : Option Nat) (cls n : Nat) (s : State) : (charge c cls n s).bureau = s.bureau :=
  (charge_within c cls n (Within.refl [.hub] s) (Covers.refl _)).same .bureau (by decide)
@[simp] theorem charge_watch (c : Option Nat) (cls n : Nat) (s : State) : (charge c cls n s).watch = s.watch :=
  (charge_within c cls n (Within.refl [.hub] s) (Covers.refl _)).same .watch (by decide)
@[simp] theorem charge_hutch (c : Option Nat) (cls n : Nat) (s : State) : (charge c cls n s).hutch = s.hutch :=
  (charge_within c cls n (Within.refl [.hub] s) (Covers.refl _)).same .hutch (by decide)
@[simp] theorem charge_jnl (c : Option Nat) (cls n : Nat) (s : State) : (charge c cls n s).jnl = s.jnl :=
  (charge_within c cls n (Within.refl [.hub] s) (Covers.refl _)).same .jnl (by decide)
@[simp] theorem charge_sta (c : Option Nat) (cls n : Nat) (s : State) : (charge c cls n s).sta = s.sta :=
  (charge_within c cls n (Within.refl [.hub] s) (Covers.refl _)).same .sta (by decide)
@[simp] theorem charge_mgmt (c : Option Nat) (cls n : Nat) (s : State) : (charge c cls n s).mgmt = s.mgmt :=
  (charge_within c cls n (Within.refl [.hub] s) (Covers.refl _)).same .mgmt (by decide)
@[simp] theorem charge_power (c : Option Nat) (cls n : Nat) (s : State) : (charge c cls n s).power = s.power :=
  (charge_within c cls n (Within.refl [.hub] s) (Covers.refl _)).same .power (by decide)
@[simp] theorem charge_link (c : Option Nat) (cls n : Nat) (s : State) : (charge c cls n s).link = s.link :=
  (charge_within c cls n (Within.refl [.hub] s) (Covers.refl _)).same .link (by decide)

@[simp] theorem cmdIgnored_pending (off : Nat) (s : State) : (cmdIgnored off s).pending = s.pending :=
  (cmdIgnored_within off (Within.refl [.hub] s) (Covers.refl _)).same .pending (by decide)
@[simp] theorem cmdIgnored_time (off : Nat) (s : State) : (cmdIgnored off s).time = s.time :=
  (cmdIgnored_within off (Within.refl [.hub] s) (Covers.refl _)).same .time (by decide)
@[simp] theorem cmdIgnored_port (off : Nat) (s : State) : (cmdIgnored off s).port = s.port :=
  (cmdIgnored_within off (Within.refl [.hub] s) (Covers.refl _)).same .port (by decide)
@[simp] theorem cmdIgnored_integ (off : Nat) (s : State) : (cmdIgnored off s).integ = s.integ :=
  (cmdIgnored_within off (Within.refl [.hub] s) (Covers.refl _)).same .integ (by decide)
@[simp] theorem cmdIgnored_mem (off : Nat) (s : State) : (cmdIgnored off s).mem = s.mem :=
  (cmdIgnored_within off (Within.refl [.hub] s) (Covers.refl _)).same .mem (by decide)
@[simp] theorem cmdIgnored_tenants (off : Nat) (s : State) : (cmdIgnored off s).tenants = s.tenants :=
  (cmdIgnored_within off (Within.refl [.hub] s) (Covers.refl _)).same .tenants (by decide)
@[simp] theorem cmdIgnored_contexts (off : Nat) (s : State) : (cmdIgnored off s).contexts = s.contexts :=
  (cmdIgnored_within off (Within.refl [.hub] s) (Covers.refl _)).same .contexts (by decide)
@[simp] theorem cmdIgnored_objects (off : Nat) (s : State) : (cmdIgnored off s).objects = s.objects :=
  (cmdIgnored_within off (Within.refl [.hub] s) (Covers.refl _)).same .objects (by decide)
@[simp] theorem cmdIgnored_graphs (off : Nat) (s : State) : (cmdIgnored off s).graphs = s.graphs :=
  (cmdIgnored_within off (Within.refl [.hub] s) (Covers.refl _)).same .graphs (by decide)
@[simp] theorem cmdIgnored_front (off : Nat) (s : State) : (cmdIgnored off s).front = s.front :=
  (cmdIgnored_within off (Within.refl [.hub] s) (Covers.refl _)).same .front (by decide)
@[simp] theorem cmdIgnored_bramble (off : Nat) (s : State) : (cmdIgnored off s).bramble = s.bramble :=
  (cmdIgnored_within off (Within.refl [.hub] s) (Covers.refl _)).same .bramble (by decide)
@[simp] theorem cmdIgnored_slices (off : Nat) (s : State) : (cmdIgnored off s).slices = s.slices :=
  (cmdIgnored_within off (Within.refl [.hub] s) (Covers.refl _)).same .slices (by decide)
@[simp] theorem cmdIgnored_trestle (off : Nat) (s : State) : (cmdIgnored off s).trestle = s.trestle :=
  (cmdIgnored_within off (Within.refl [.hub] s) (Covers.refl _)).same .trestle (by decide)
@[simp] theorem cmdIgnored_sched (off : Nat) (s : State) : (cmdIgnored off s).sched = s.sched :=
  (cmdIgnored_within off (Within.refl [.hub] s) (Covers.refl _)).same .sched (by decide)
@[simp] theorem cmdIgnored_wrd (off : Nat) (s : State) : (cmdIgnored off s).wrd = s.wrd :=
  (cmdIgnored_within off (Within.refl [.hub] s) (Covers.refl _)).same .wrd (by decide)
@[simp] theorem cmdIgnored_chest (off : Nat) (s : State) : (cmdIgnored off s).chest = s.chest :=
  (cmdIgnored_within off (Within.refl [.hub] s) (Covers.refl _)).same .chest (by decide)
@[simp] theorem cmdIgnored_bureau (off : Nat) (s : State) : (cmdIgnored off s).bureau = s.bureau :=
  (cmdIgnored_within off (Within.refl [.hub] s) (Covers.refl _)).same .bureau (by decide)
@[simp] theorem cmdIgnored_watch (off : Nat) (s : State) : (cmdIgnored off s).watch = s.watch :=
  (cmdIgnored_within off (Within.refl [.hub] s) (Covers.refl _)).same .watch (by decide)
@[simp] theorem cmdIgnored_hutch (off : Nat) (s : State) : (cmdIgnored off s).hutch = s.hutch :=
  (cmdIgnored_within off (Within.refl [.hub] s) (Covers.refl _)).same .hutch (by decide)
@[simp] theorem cmdIgnored_jnl (off : Nat) (s : State) : (cmdIgnored off s).jnl = s.jnl :=
  (cmdIgnored_within off (Within.refl [.hub] s) (Covers.refl _)).same .jnl (by decide)
@[simp] theorem cmdIgnored_sta (off : Nat) (s : State) : (cmdIgnored off s).sta = s.sta :=
  (cmdIgnored_within off (Within.refl [.hub] s) (Covers.refl _)).same .sta (by decide)
@[simp] theorem cmdIgnored_mgmt (off : Nat) (s : State) : (cmdIgnored off s).mgmt = s.mgmt :=
  (cmdIgnored_within off (Within.refl [.hub] s) (Covers.refl _)).same .mgmt (by decide)
@[simp] theorem cmdIgnored_power (off : Nat) (s : State) : (cmdIgnored off s).power = s.power :=
  (cmdIgnored_within off (Within.refl [.hub] s) (Covers.refl _)).same .power (by decide)
@[simp] theorem cmdIgnored_link (off : Nat) (s : State) : (cmdIgnored off s).link = s.link :=
  (cmdIgnored_within off (Within.refl [.hub] s) (Covers.refl _)).same .link (by decide)

@[simp] theorem flushBytes_pending (t cls : Nat) (s : State) : (flushBytes t cls s).pending = s.pending :=
  (flushBytes_within t cls (Within.refl [.hub] s) (Covers.refl _)).same .pending (by decide)
@[simp] theorem flushBytes_time (t cls : Nat) (s : State) : (flushBytes t cls s).time = s.time :=
  (flushBytes_within t cls (Within.refl [.hub] s) (Covers.refl _)).same .time (by decide)
@[simp] theorem flushBytes_port (t cls : Nat) (s : State) : (flushBytes t cls s).port = s.port :=
  (flushBytes_within t cls (Within.refl [.hub] s) (Covers.refl _)).same .port (by decide)
@[simp] theorem flushBytes_integ (t cls : Nat) (s : State) : (flushBytes t cls s).integ = s.integ :=
  (flushBytes_within t cls (Within.refl [.hub] s) (Covers.refl _)).same .integ (by decide)
@[simp] theorem flushBytes_mem (t cls : Nat) (s : State) : (flushBytes t cls s).mem = s.mem :=
  (flushBytes_within t cls (Within.refl [.hub] s) (Covers.refl _)).same .mem (by decide)
@[simp] theorem flushBytes_tenants (t cls : Nat) (s : State) : (flushBytes t cls s).tenants = s.tenants :=
  (flushBytes_within t cls (Within.refl [.hub] s) (Covers.refl _)).same .tenants (by decide)
@[simp] theorem flushBytes_contexts (t cls : Nat) (s : State) : (flushBytes t cls s).contexts = s.contexts :=
  (flushBytes_within t cls (Within.refl [.hub] s) (Covers.refl _)).same .contexts (by decide)
@[simp] theorem flushBytes_objects (t cls : Nat) (s : State) : (flushBytes t cls s).objects = s.objects :=
  (flushBytes_within t cls (Within.refl [.hub] s) (Covers.refl _)).same .objects (by decide)
@[simp] theorem flushBytes_graphs (t cls : Nat) (s : State) : (flushBytes t cls s).graphs = s.graphs :=
  (flushBytes_within t cls (Within.refl [.hub] s) (Covers.refl _)).same .graphs (by decide)
@[simp] theorem flushBytes_front (t cls : Nat) (s : State) : (flushBytes t cls s).front = s.front :=
  (flushBytes_within t cls (Within.refl [.hub] s) (Covers.refl _)).same .front (by decide)
@[simp] theorem flushBytes_bramble (t cls : Nat) (s : State) : (flushBytes t cls s).bramble = s.bramble :=
  (flushBytes_within t cls (Within.refl [.hub] s) (Covers.refl _)).same .bramble (by decide)
@[simp] theorem flushBytes_slices (t cls : Nat) (s : State) : (flushBytes t cls s).slices = s.slices :=
  (flushBytes_within t cls (Within.refl [.hub] s) (Covers.refl _)).same .slices (by decide)
@[simp] theorem flushBytes_trestle (t cls : Nat) (s : State) : (flushBytes t cls s).trestle = s.trestle :=
  (flushBytes_within t cls (Within.refl [.hub] s) (Covers.refl _)).same .trestle (by decide)
@[simp] theorem flushBytes_sched (t cls : Nat) (s : State) : (flushBytes t cls s).sched = s.sched :=
  (flushBytes_within t cls (Within.refl [.hub] s) (Covers.refl _)).same .sched (by decide)
@[simp] theorem flushBytes_wrd (t cls : Nat) (s : State) : (flushBytes t cls s).wrd = s.wrd :=
  (flushBytes_within t cls (Within.refl [.hub] s) (Covers.refl _)).same .wrd (by decide)
@[simp] theorem flushBytes_chest (t cls : Nat) (s : State) : (flushBytes t cls s).chest = s.chest :=
  (flushBytes_within t cls (Within.refl [.hub] s) (Covers.refl _)).same .chest (by decide)
@[simp] theorem flushBytes_bureau (t cls : Nat) (s : State) : (flushBytes t cls s).bureau = s.bureau :=
  (flushBytes_within t cls (Within.refl [.hub] s) (Covers.refl _)).same .bureau (by decide)
@[simp] theorem flushBytes_watch (t cls : Nat) (s : State) : (flushBytes t cls s).watch = s.watch :=
  (flushBytes_within t cls (Within.refl [.hub] s) (Covers.refl _)).same .watch (by decide)
@[simp] theorem flushBytes_hutch (t cls : Nat) (s : State) : (flushBytes t cls s).hutch = s.hutch :=
  (flushBytes_within t cls (Within.refl [.hub] s) (Covers.refl _)).same .hutch (by decide)
@[simp] theorem flushBytes_jnl (t cls : Nat) (s : State) : (flushBytes t cls s).jnl = s.jnl :=
  (flushBytes_within t cls (Within.refl [.hub] s) (Covers.refl _)).same .jnl (by decide)
@[simp] theorem flushBytes_sta (t cls : Nat) (s : State) : (flushBytes t cls s).sta = s.sta :=
  (flushBytes_within t cls (Within.refl [.hub] s) (Covers.refl _)).same .sta (by decide)
@[simp] theorem flushBytes_mgmt (t cls : Nat) (s : State) : (flushBytes t cls s).mgmt = s.mgmt :=
  (flushBytes_within t cls (Within.refl [.hub] s) (Covers.refl _)).same .mgmt (by decide)
@[simp] theorem flushBytes_power (t cls : Nat) (s : State) : (flushBytes t cls s).power = s.power :=
  (flushBytes_within t cls (Within.refl [.hub] s) (Covers.refl _)).same .power (by decide)
@[simp] theorem flushBytes_link (t cls : Nat) (s : State) : (flushBytes t cls s).link = s.link :=
  (flushBytes_within t cls (Within.refl [.hub] s) (Covers.refl _)).same .link (by decide)

@[simp] theorem hostWrite_pending (c : Option Nat) (l : Loc) (bs : List Byte) (s : State) : (hostWrite c l bs s).pending = s.pending :=
  (hostWrite_within c l bs (Within.refl [.port, .mem, .hub] s) (Covers.refl _)).same .pending (by decide)
@[simp] theorem hostWrite_time (c : Option Nat) (l : Loc) (bs : List Byte) (s : State) : (hostWrite c l bs s).time = s.time :=
  (hostWrite_within c l bs (Within.refl [.port, .mem, .hub] s) (Covers.refl _)).same .time (by decide)
@[simp] theorem hostWrite_integ (c : Option Nat) (l : Loc) (bs : List Byte) (s : State) : (hostWrite c l bs s).integ = s.integ :=
  (hostWrite_within c l bs (Within.refl [.port, .mem, .hub] s) (Covers.refl _)).same .integ (by decide)
@[simp] theorem hostWrite_tenants (c : Option Nat) (l : Loc) (bs : List Byte) (s : State) : (hostWrite c l bs s).tenants = s.tenants :=
  (hostWrite_within c l bs (Within.refl [.port, .mem, .hub] s) (Covers.refl _)).same .tenants (by decide)
@[simp] theorem hostWrite_contexts (c : Option Nat) (l : Loc) (bs : List Byte) (s : State) : (hostWrite c l bs s).contexts = s.contexts :=
  (hostWrite_within c l bs (Within.refl [.port, .mem, .hub] s) (Covers.refl _)).same .contexts (by decide)
@[simp] theorem hostWrite_objects (c : Option Nat) (l : Loc) (bs : List Byte) (s : State) : (hostWrite c l bs s).objects = s.objects :=
  (hostWrite_within c l bs (Within.refl [.port, .mem, .hub] s) (Covers.refl _)).same .objects (by decide)
@[simp] theorem hostWrite_graphs (c : Option Nat) (l : Loc) (bs : List Byte) (s : State) : (hostWrite c l bs s).graphs = s.graphs :=
  (hostWrite_within c l bs (Within.refl [.port, .mem, .hub] s) (Covers.refl _)).same .graphs (by decide)
@[simp] theorem hostWrite_front (c : Option Nat) (l : Loc) (bs : List Byte) (s : State) : (hostWrite c l bs s).front = s.front :=
  (hostWrite_within c l bs (Within.refl [.port, .mem, .hub] s) (Covers.refl _)).same .front (by decide)
@[simp] theorem hostWrite_bramble (c : Option Nat) (l : Loc) (bs : List Byte) (s : State) : (hostWrite c l bs s).bramble = s.bramble :=
  (hostWrite_within c l bs (Within.refl [.port, .mem, .hub] s) (Covers.refl _)).same .bramble (by decide)
@[simp] theorem hostWrite_slices (c : Option Nat) (l : Loc) (bs : List Byte) (s : State) : (hostWrite c l bs s).slices = s.slices :=
  (hostWrite_within c l bs (Within.refl [.port, .mem, .hub] s) (Covers.refl _)).same .slices (by decide)
@[simp] theorem hostWrite_trestle (c : Option Nat) (l : Loc) (bs : List Byte) (s : State) : (hostWrite c l bs s).trestle = s.trestle :=
  (hostWrite_within c l bs (Within.refl [.port, .mem, .hub] s) (Covers.refl _)).same .trestle (by decide)
@[simp] theorem hostWrite_sched (c : Option Nat) (l : Loc) (bs : List Byte) (s : State) : (hostWrite c l bs s).sched = s.sched :=
  (hostWrite_within c l bs (Within.refl [.port, .mem, .hub] s) (Covers.refl _)).same .sched (by decide)
@[simp] theorem hostWrite_wrd (c : Option Nat) (l : Loc) (bs : List Byte) (s : State) : (hostWrite c l bs s).wrd = s.wrd :=
  (hostWrite_within c l bs (Within.refl [.port, .mem, .hub] s) (Covers.refl _)).same .wrd (by decide)
@[simp] theorem hostWrite_chest (c : Option Nat) (l : Loc) (bs : List Byte) (s : State) : (hostWrite c l bs s).chest = s.chest :=
  (hostWrite_within c l bs (Within.refl [.port, .mem, .hub] s) (Covers.refl _)).same .chest (by decide)
@[simp] theorem hostWrite_bureau (c : Option Nat) (l : Loc) (bs : List Byte) (s : State) : (hostWrite c l bs s).bureau = s.bureau :=
  (hostWrite_within c l bs (Within.refl [.port, .mem, .hub] s) (Covers.refl _)).same .bureau (by decide)
@[simp] theorem hostWrite_watch (c : Option Nat) (l : Loc) (bs : List Byte) (s : State) : (hostWrite c l bs s).watch = s.watch :=
  (hostWrite_within c l bs (Within.refl [.port, .mem, .hub] s) (Covers.refl _)).same .watch (by decide)
@[simp] theorem hostWrite_hutch (c : Option Nat) (l : Loc) (bs : List Byte) (s : State) : (hostWrite c l bs s).hutch = s.hutch :=
  (hostWrite_within c l bs (Within.refl [.port, .mem, .hub] s) (Covers.refl _)).same .hutch (by decide)
@[simp] theorem hostWrite_jnl (c : Option Nat) (l : Loc) (bs : List Byte) (s : State) : (hostWrite c l bs s).jnl = s.jnl :=
  (hostWrite_within c l bs (Within.refl [.port, .mem, .hub] s) (Covers.refl _)).same .jnl (by decide)
@[simp] theorem hostWrite_sta (c : Option Nat) (l : Loc) (bs : List Byte) (s : State) : (hostWrite c l bs s).sta = s.sta :=
  (hostWrite_within c l bs (Within.refl [.port, .mem, .hub] s) (Covers.refl _)).same .sta (by decide)
@[simp] theorem hostWrite_mgmt (c : Option Nat) (l : Loc) (bs : List Byte) (s : State) : (hostWrite c l bs s).mgmt = s.mgmt :=
  (hostWrite_within c l bs (Within.refl [.port, .mem, .hub] s) (Covers.refl _)).same .mgmt (by decide)
@[simp] theorem hostWrite_power (c : Option Nat) (l : Loc) (bs : List Byte) (s : State) : (hostWrite c l bs s).power = s.power :=
  (hostWrite_within c l bs (Within.refl [.port, .mem, .hub] s) (Covers.refl _)).same .power (by decide)
@[simp] theorem hostWrite_link (c : Option Nat) (l : Loc) (bs : List Byte) (s : State) : (hostWrite c l bs s).link = s.link :=
  (hostWrite_within c l bs (Within.refl [.port, .mem, .hub] s) (Covers.refl _)).same .link (by decide)

@[simp] theorem hutchRec_pending (typ : Nat) (h : RecHead) (payload : List Byte) (s : State) : (hutchRec typ h payload s).pending = s.pending :=
  (hutchRec_within typ h payload (Within.refl [.port, .mem, .hutch] s) (Covers.refl _)).same .pending (by decide)
@[simp] theorem hutchRec_time (typ : Nat) (h : RecHead) (payload : List Byte) (s : State) : (hutchRec typ h payload s).time = s.time :=
  (hutchRec_within typ h payload (Within.refl [.port, .mem, .hutch] s) (Covers.refl _)).same .time (by decide)
@[simp] theorem hutchRec_integ (typ : Nat) (h : RecHead) (payload : List Byte) (s : State) : (hutchRec typ h payload s).integ = s.integ :=
  (hutchRec_within typ h payload (Within.refl [.port, .mem, .hutch] s) (Covers.refl _)).same .integ (by decide)
@[simp] theorem hutchRec_hub (typ : Nat) (h : RecHead) (payload : List Byte) (s : State) : (hutchRec typ h payload s).hub = s.hub :=
  (hutchRec_within typ h payload (Within.refl [.port, .mem, .hutch] s) (Covers.refl _)).same .hub (by decide)
@[simp] theorem hutchRec_tenants (typ : Nat) (h : RecHead) (payload : List Byte) (s : State) : (hutchRec typ h payload s).tenants = s.tenants :=
  (hutchRec_within typ h payload (Within.refl [.port, .mem, .hutch] s) (Covers.refl _)).same .tenants (by decide)
@[simp] theorem hutchRec_contexts (typ : Nat) (h : RecHead) (payload : List Byte) (s : State) : (hutchRec typ h payload s).contexts = s.contexts :=
  (hutchRec_within typ h payload (Within.refl [.port, .mem, .hutch] s) (Covers.refl _)).same .contexts (by decide)
@[simp] theorem hutchRec_objects (typ : Nat) (h : RecHead) (payload : List Byte) (s : State) : (hutchRec typ h payload s).objects = s.objects :=
  (hutchRec_within typ h payload (Within.refl [.port, .mem, .hutch] s) (Covers.refl _)).same .objects (by decide)
@[simp] theorem hutchRec_graphs (typ : Nat) (h : RecHead) (payload : List Byte) (s : State) : (hutchRec typ h payload s).graphs = s.graphs :=
  (hutchRec_within typ h payload (Within.refl [.port, .mem, .hutch] s) (Covers.refl _)).same .graphs (by decide)
@[simp] theorem hutchRec_front (typ : Nat) (h : RecHead) (payload : List Byte) (s : State) : (hutchRec typ h payload s).front = s.front :=
  (hutchRec_within typ h payload (Within.refl [.port, .mem, .hutch] s) (Covers.refl _)).same .front (by decide)
@[simp] theorem hutchRec_bramble (typ : Nat) (h : RecHead) (payload : List Byte) (s : State) : (hutchRec typ h payload s).bramble = s.bramble :=
  (hutchRec_within typ h payload (Within.refl [.port, .mem, .hutch] s) (Covers.refl _)).same .bramble (by decide)
@[simp] theorem hutchRec_slices (typ : Nat) (h : RecHead) (payload : List Byte) (s : State) : (hutchRec typ h payload s).slices = s.slices :=
  (hutchRec_within typ h payload (Within.refl [.port, .mem, .hutch] s) (Covers.refl _)).same .slices (by decide)
@[simp] theorem hutchRec_trestle (typ : Nat) (h : RecHead) (payload : List Byte) (s : State) : (hutchRec typ h payload s).trestle = s.trestle :=
  (hutchRec_within typ h payload (Within.refl [.port, .mem, .hutch] s) (Covers.refl _)).same .trestle (by decide)
@[simp] theorem hutchRec_sched (typ : Nat) (h : RecHead) (payload : List Byte) (s : State) : (hutchRec typ h payload s).sched = s.sched :=
  (hutchRec_within typ h payload (Within.refl [.port, .mem, .hutch] s) (Covers.refl _)).same .sched (by decide)
@[simp] theorem hutchRec_wrd (typ : Nat) (h : RecHead) (payload : List Byte) (s : State) : (hutchRec typ h payload s).wrd = s.wrd :=
  (hutchRec_within typ h payload (Within.refl [.port, .mem, .hutch] s) (Covers.refl _)).same .wrd (by decide)
@[simp] theorem hutchRec_chest (typ : Nat) (h : RecHead) (payload : List Byte) (s : State) : (hutchRec typ h payload s).chest = s.chest :=
  (hutchRec_within typ h payload (Within.refl [.port, .mem, .hutch] s) (Covers.refl _)).same .chest (by decide)
@[simp] theorem hutchRec_bureau (typ : Nat) (h : RecHead) (payload : List Byte) (s : State) : (hutchRec typ h payload s).bureau = s.bureau :=
  (hutchRec_within typ h payload (Within.refl [.port, .mem, .hutch] s) (Covers.refl _)).same .bureau (by decide)
@[simp] theorem hutchRec_watch (typ : Nat) (h : RecHead) (payload : List Byte) (s : State) : (hutchRec typ h payload s).watch = s.watch :=
  (hutchRec_within typ h payload (Within.refl [.port, .mem, .hutch] s) (Covers.refl _)).same .watch (by decide)
@[simp] theorem hutchRec_jnl (typ : Nat) (h : RecHead) (payload : List Byte) (s : State) : (hutchRec typ h payload s).jnl = s.jnl :=
  (hutchRec_within typ h payload (Within.refl [.port, .mem, .hutch] s) (Covers.refl _)).same .jnl (by decide)
@[simp] theorem hutchRec_sta (typ : Nat) (h : RecHead) (payload : List Byte) (s : State) : (hutchRec typ h payload s).sta = s.sta :=
  (hutchRec_within typ h payload (Within.refl [.port, .mem, .hutch] s) (Covers.refl _)).same .sta (by decide)
@[simp] theorem hutchRec_mgmt (typ : Nat) (h : RecHead) (payload : List Byte) (s : State) : (hutchRec typ h payload s).mgmt = s.mgmt :=
  (hutchRec_within typ h payload (Within.refl [.port, .mem, .hutch] s) (Covers.refl _)).same .mgmt (by decide)
@[simp] theorem hutchRec_power (typ : Nat) (h : RecHead) (payload : List Byte) (s : State) : (hutchRec typ h payload s).power = s.power :=
  (hutchRec_within typ h payload (Within.refl [.port, .mem, .hutch] s) (Covers.refl _)).same .power (by decide)
@[simp] theorem hutchRec_link (typ : Nat) (h : RecHead) (payload : List Byte) (s : State) : (hutchRec typ h payload s).link = s.link :=
  (hutchRec_within typ h payload (Within.refl [.port, .mem, .hutch] s) (Covers.refl _)).same .link (by decide)

@[simp] theorem locWrite_pending (c : Option Nat) (l : Loc) (bs : List Byte) (s : State) : (locWrite c l bs s).pending = s.pending :=
  (locWrite_within c l bs (Within.refl [.port, .mem, .hub] s) (Covers.refl _)).same .pending (by decide)
@[simp] theorem locWrite_time (c : Option Nat) (l : Loc) (bs : List Byte) (s : State) : (locWrite c l bs s).time = s.time :=
  (locWrite_within c l bs (Within.refl [.port, .mem, .hub] s) (Covers.refl _)).same .time (by decide)
@[simp] theorem locWrite_integ (c : Option Nat) (l : Loc) (bs : List Byte) (s : State) : (locWrite c l bs s).integ = s.integ :=
  (locWrite_within c l bs (Within.refl [.port, .mem, .hub] s) (Covers.refl _)).same .integ (by decide)
@[simp] theorem locWrite_tenants (c : Option Nat) (l : Loc) (bs : List Byte) (s : State) : (locWrite c l bs s).tenants = s.tenants :=
  (locWrite_within c l bs (Within.refl [.port, .mem, .hub] s) (Covers.refl _)).same .tenants (by decide)
@[simp] theorem locWrite_contexts (c : Option Nat) (l : Loc) (bs : List Byte) (s : State) : (locWrite c l bs s).contexts = s.contexts :=
  (locWrite_within c l bs (Within.refl [.port, .mem, .hub] s) (Covers.refl _)).same .contexts (by decide)
@[simp] theorem locWrite_objects (c : Option Nat) (l : Loc) (bs : List Byte) (s : State) : (locWrite c l bs s).objects = s.objects :=
  (locWrite_within c l bs (Within.refl [.port, .mem, .hub] s) (Covers.refl _)).same .objects (by decide)
@[simp] theorem locWrite_graphs (c : Option Nat) (l : Loc) (bs : List Byte) (s : State) : (locWrite c l bs s).graphs = s.graphs :=
  (locWrite_within c l bs (Within.refl [.port, .mem, .hub] s) (Covers.refl _)).same .graphs (by decide)
@[simp] theorem locWrite_front (c : Option Nat) (l : Loc) (bs : List Byte) (s : State) : (locWrite c l bs s).front = s.front :=
  (locWrite_within c l bs (Within.refl [.port, .mem, .hub] s) (Covers.refl _)).same .front (by decide)
@[simp] theorem locWrite_bramble (c : Option Nat) (l : Loc) (bs : List Byte) (s : State) : (locWrite c l bs s).bramble = s.bramble :=
  (locWrite_within c l bs (Within.refl [.port, .mem, .hub] s) (Covers.refl _)).same .bramble (by decide)
@[simp] theorem locWrite_slices (c : Option Nat) (l : Loc) (bs : List Byte) (s : State) : (locWrite c l bs s).slices = s.slices :=
  (locWrite_within c l bs (Within.refl [.port, .mem, .hub] s) (Covers.refl _)).same .slices (by decide)
@[simp] theorem locWrite_trestle (c : Option Nat) (l : Loc) (bs : List Byte) (s : State) : (locWrite c l bs s).trestle = s.trestle :=
  (locWrite_within c l bs (Within.refl [.port, .mem, .hub] s) (Covers.refl _)).same .trestle (by decide)
@[simp] theorem locWrite_sched (c : Option Nat) (l : Loc) (bs : List Byte) (s : State) : (locWrite c l bs s).sched = s.sched :=
  (locWrite_within c l bs (Within.refl [.port, .mem, .hub] s) (Covers.refl _)).same .sched (by decide)
@[simp] theorem locWrite_wrd (c : Option Nat) (l : Loc) (bs : List Byte) (s : State) : (locWrite c l bs s).wrd = s.wrd :=
  (locWrite_within c l bs (Within.refl [.port, .mem, .hub] s) (Covers.refl _)).same .wrd (by decide)
@[simp] theorem locWrite_chest (c : Option Nat) (l : Loc) (bs : List Byte) (s : State) : (locWrite c l bs s).chest = s.chest :=
  (locWrite_within c l bs (Within.refl [.port, .mem, .hub] s) (Covers.refl _)).same .chest (by decide)
@[simp] theorem locWrite_bureau (c : Option Nat) (l : Loc) (bs : List Byte) (s : State) : (locWrite c l bs s).bureau = s.bureau :=
  (locWrite_within c l bs (Within.refl [.port, .mem, .hub] s) (Covers.refl _)).same .bureau (by decide)
@[simp] theorem locWrite_watch (c : Option Nat) (l : Loc) (bs : List Byte) (s : State) : (locWrite c l bs s).watch = s.watch :=
  (locWrite_within c l bs (Within.refl [.port, .mem, .hub] s) (Covers.refl _)).same .watch (by decide)
@[simp] theorem locWrite_hutch (c : Option Nat) (l : Loc) (bs : List Byte) (s : State) : (locWrite c l bs s).hutch = s.hutch :=
  (locWrite_within c l bs (Within.refl [.port, .mem, .hub] s) (Covers.refl _)).same .hutch (by decide)
@[simp] theorem locWrite_jnl (c : Option Nat) (l : Loc) (bs : List Byte) (s : State) : (locWrite c l bs s).jnl = s.jnl :=
  (locWrite_within c l bs (Within.refl [.port, .mem, .hub] s) (Covers.refl _)).same .jnl (by decide)
@[simp] theorem locWrite_sta (c : Option Nat) (l : Loc) (bs : List Byte) (s : State) : (locWrite c l bs s).sta = s.sta :=
  (locWrite_within c l bs (Within.refl [.port, .mem, .hub] s) (Covers.refl _)).same .sta (by decide)
@[simp] theorem locWrite_mgmt (c : Option Nat) (l : Loc) (bs : List Byte) (s : State) : (locWrite c l bs s).mgmt = s.mgmt :=
  (locWrite_within c l bs (Within.refl [.port, .mem, .hub] s) (Covers.refl _)).same .mgmt (by decide)
@[simp] theorem locWrite_power (c : Option Nat) (l : Loc) (bs : List Byte) (s : State) : (locWrite c l bs s).power = s.power :=
  (locWrite_within c l bs (Within.refl [.port, .mem, .hub] s) (Covers.refl _)).same .power (by decide)
@[simp] theorem locWrite_link (c : Option Nat) (l : Loc) (bs : List Byte) (s : State) : (locWrite c l bs s).link = s.link :=
  (locWrite_within c l bs (Within.refl [.port, .mem, .hub] s) (Covers.refl _)).same .link (by decide)

@[simp] theorem msix_pending (fn vector : Nat) (s : State) : (msix fn vector s).pending = s.pending :=
  (msix_within fn vector (Within.refl [.port] s) (Covers.refl _)).same .pending (by decide)
@[simp] theorem msix_time (fn vector : Nat) (s : State) : (msix fn vector s).time = s.time :=
  (msix_within fn vector (Within.refl [.port] s) (Covers.refl _)).same .time (by decide)
@[simp] theorem msix_integ (fn vector : Nat) (s : State) : (msix fn vector s).integ = s.integ :=
  (msix_within fn vector (Within.refl [.port] s) (Covers.refl _)).same .integ (by decide)
@[simp] theorem msix_mem (fn vector : Nat) (s : State) : (msix fn vector s).mem = s.mem :=
  (msix_within fn vector (Within.refl [.port] s) (Covers.refl _)).same .mem (by decide)
@[simp] theorem msix_hub (fn vector : Nat) (s : State) : (msix fn vector s).hub = s.hub :=
  (msix_within fn vector (Within.refl [.port] s) (Covers.refl _)).same .hub (by decide)
@[simp] theorem msix_tenants (fn vector : Nat) (s : State) : (msix fn vector s).tenants = s.tenants :=
  (msix_within fn vector (Within.refl [.port] s) (Covers.refl _)).same .tenants (by decide)
@[simp] theorem msix_contexts (fn vector : Nat) (s : State) : (msix fn vector s).contexts = s.contexts :=
  (msix_within fn vector (Within.refl [.port] s) (Covers.refl _)).same .contexts (by decide)
@[simp] theorem msix_objects (fn vector : Nat) (s : State) : (msix fn vector s).objects = s.objects :=
  (msix_within fn vector (Within.refl [.port] s) (Covers.refl _)).same .objects (by decide)
@[simp] theorem msix_graphs (fn vector : Nat) (s : State) : (msix fn vector s).graphs = s.graphs :=
  (msix_within fn vector (Within.refl [.port] s) (Covers.refl _)).same .graphs (by decide)
@[simp] theorem msix_front (fn vector : Nat) (s : State) : (msix fn vector s).front = s.front :=
  (msix_within fn vector (Within.refl [.port] s) (Covers.refl _)).same .front (by decide)
@[simp] theorem msix_bramble (fn vector : Nat) (s : State) : (msix fn vector s).bramble = s.bramble :=
  (msix_within fn vector (Within.refl [.port] s) (Covers.refl _)).same .bramble (by decide)
@[simp] theorem msix_slices (fn vector : Nat) (s : State) : (msix fn vector s).slices = s.slices :=
  (msix_within fn vector (Within.refl [.port] s) (Covers.refl _)).same .slices (by decide)
@[simp] theorem msix_trestle (fn vector : Nat) (s : State) : (msix fn vector s).trestle = s.trestle :=
  (msix_within fn vector (Within.refl [.port] s) (Covers.refl _)).same .trestle (by decide)
@[simp] theorem msix_sched (fn vector : Nat) (s : State) : (msix fn vector s).sched = s.sched :=
  (msix_within fn vector (Within.refl [.port] s) (Covers.refl _)).same .sched (by decide)
@[simp] theorem msix_wrd (fn vector : Nat) (s : State) : (msix fn vector s).wrd = s.wrd :=
  (msix_within fn vector (Within.refl [.port] s) (Covers.refl _)).same .wrd (by decide)
@[simp] theorem msix_chest (fn vector : Nat) (s : State) : (msix fn vector s).chest = s.chest :=
  (msix_within fn vector (Within.refl [.port] s) (Covers.refl _)).same .chest (by decide)
@[simp] theorem msix_bureau (fn vector : Nat) (s : State) : (msix fn vector s).bureau = s.bureau :=
  (msix_within fn vector (Within.refl [.port] s) (Covers.refl _)).same .bureau (by decide)
@[simp] theorem msix_watch (fn vector : Nat) (s : State) : (msix fn vector s).watch = s.watch :=
  (msix_within fn vector (Within.refl [.port] s) (Covers.refl _)).same .watch (by decide)
@[simp] theorem msix_hutch (fn vector : Nat) (s : State) : (msix fn vector s).hutch = s.hutch :=
  (msix_within fn vector (Within.refl [.port] s) (Covers.refl _)).same .hutch (by decide)
@[simp] theorem msix_jnl (fn vector : Nat) (s : State) : (msix fn vector s).jnl = s.jnl :=
  (msix_within fn vector (Within.refl [.port] s) (Covers.refl _)).same .jnl (by decide)
@[simp] theorem msix_sta (fn vector : Nat) (s : State) : (msix fn vector s).sta = s.sta :=
  (msix_within fn vector (Within.refl [.port] s) (Covers.refl _)).same .sta (by decide)
@[simp] theorem msix_mgmt (fn vector : Nat) (s : State) : (msix fn vector s).mgmt = s.mgmt :=
  (msix_within fn vector (Within.refl [.port] s) (Covers.refl _)).same .mgmt (by decide)
@[simp] theorem msix_power (fn vector : Nat) (s : State) : (msix fn vector s).power = s.power :=
  (msix_within fn vector (Within.refl [.port] s) (Covers.refl _)).same .power (by decide)
@[simp] theorem msix_link (fn vector : Nat) (s : State) : (msix fn vector s).link = s.link :=
  (msix_within fn vector (Within.refl [.port] s) (Covers.refl _)).same .link (by decide)

@[simp] theorem notify_pending (s : State) : (notify s).pending = s.pending :=
  (notify_within (Within.refl [.port] s) (Covers.refl _)).same .pending (by decide)
@[simp] theorem notify_time (s : State) : (notify s).time = s.time :=
  (notify_within (Within.refl [.port] s) (Covers.refl _)).same .time (by decide)
@[simp] theorem notify_integ (s : State) : (notify s).integ = s.integ :=
  (notify_within (Within.refl [.port] s) (Covers.refl _)).same .integ (by decide)
@[simp] theorem notify_mem (s : State) : (notify s).mem = s.mem :=
  (notify_within (Within.refl [.port] s) (Covers.refl _)).same .mem (by decide)
@[simp] theorem notify_hub (s : State) : (notify s).hub = s.hub :=
  (notify_within (Within.refl [.port] s) (Covers.refl _)).same .hub (by decide)
@[simp] theorem notify_tenants (s : State) : (notify s).tenants = s.tenants :=
  (notify_within (Within.refl [.port] s) (Covers.refl _)).same .tenants (by decide)
@[simp] theorem notify_contexts (s : State) : (notify s).contexts = s.contexts :=
  (notify_within (Within.refl [.port] s) (Covers.refl _)).same .contexts (by decide)
@[simp] theorem notify_objects (s : State) : (notify s).objects = s.objects :=
  (notify_within (Within.refl [.port] s) (Covers.refl _)).same .objects (by decide)
@[simp] theorem notify_graphs (s : State) : (notify s).graphs = s.graphs :=
  (notify_within (Within.refl [.port] s) (Covers.refl _)).same .graphs (by decide)
@[simp] theorem notify_front (s : State) : (notify s).front = s.front :=
  (notify_within (Within.refl [.port] s) (Covers.refl _)).same .front (by decide)
@[simp] theorem notify_bramble (s : State) : (notify s).bramble = s.bramble :=
  (notify_within (Within.refl [.port] s) (Covers.refl _)).same .bramble (by decide)
@[simp] theorem notify_slices (s : State) : (notify s).slices = s.slices :=
  (notify_within (Within.refl [.port] s) (Covers.refl _)).same .slices (by decide)
@[simp] theorem notify_trestle (s : State) : (notify s).trestle = s.trestle :=
  (notify_within (Within.refl [.port] s) (Covers.refl _)).same .trestle (by decide)
@[simp] theorem notify_sched (s : State) : (notify s).sched = s.sched :=
  (notify_within (Within.refl [.port] s) (Covers.refl _)).same .sched (by decide)
@[simp] theorem notify_wrd (s : State) : (notify s).wrd = s.wrd :=
  (notify_within (Within.refl [.port] s) (Covers.refl _)).same .wrd (by decide)
@[simp] theorem notify_chest (s : State) : (notify s).chest = s.chest :=
  (notify_within (Within.refl [.port] s) (Covers.refl _)).same .chest (by decide)
@[simp] theorem notify_bureau (s : State) : (notify s).bureau = s.bureau :=
  (notify_within (Within.refl [.port] s) (Covers.refl _)).same .bureau (by decide)
@[simp] theorem notify_watch (s : State) : (notify s).watch = s.watch :=
  (notify_within (Within.refl [.port] s) (Covers.refl _)).same .watch (by decide)
@[simp] theorem notify_hutch (s : State) : (notify s).hutch = s.hutch :=
  (notify_within (Within.refl [.port] s) (Covers.refl _)).same .hutch (by decide)
@[simp] theorem notify_jnl (s : State) : (notify s).jnl = s.jnl :=
  (notify_within (Within.refl [.port] s) (Covers.refl _)).same .jnl (by decide)
@[simp] theorem notify_sta (s : State) : (notify s).sta = s.sta :=
  (notify_within (Within.refl [.port] s) (Covers.refl _)).same .sta (by decide)
@[simp] theorem notify_mgmt (s : State) : (notify s).mgmt = s.mgmt :=
  (notify_within (Within.refl [.port] s) (Covers.refl _)).same .mgmt (by decide)
@[simp] theorem notify_power (s : State) : (notify s).power = s.power :=
  (notify_within (Within.refl [.port] s) (Covers.refl _)).same .power (by decide)
@[simp] theorem notify_link (s : State) : (notify s).link = s.link :=
  (notify_within (Within.refl [.port] s) (Covers.refl _)).same .link (by decide)

@[simp] theorem raiseEvent_pending (e : Event) (s : State) : (raiseEvent e s).pending = s.pending :=
  (raiseEvent_within e (Within.refl [.chest, .jnl] s) (Covers.refl _)).same .pending (by decide)
@[simp] theorem raiseEvent_time (e : Event) (s : State) : (raiseEvent e s).time = s.time :=
  (raiseEvent_within e (Within.refl [.chest, .jnl] s) (Covers.refl _)).same .time (by decide)
@[simp] theorem raiseEvent_port (e : Event) (s : State) : (raiseEvent e s).port = s.port :=
  (raiseEvent_within e (Within.refl [.chest, .jnl] s) (Covers.refl _)).same .port (by decide)
@[simp] theorem raiseEvent_integ (e : Event) (s : State) : (raiseEvent e s).integ = s.integ :=
  (raiseEvent_within e (Within.refl [.chest, .jnl] s) (Covers.refl _)).same .integ (by decide)
@[simp] theorem raiseEvent_mem (e : Event) (s : State) : (raiseEvent e s).mem = s.mem :=
  (raiseEvent_within e (Within.refl [.chest, .jnl] s) (Covers.refl _)).same .mem (by decide)
@[simp] theorem raiseEvent_hub (e : Event) (s : State) : (raiseEvent e s).hub = s.hub :=
  (raiseEvent_within e (Within.refl [.chest, .jnl] s) (Covers.refl _)).same .hub (by decide)
@[simp] theorem raiseEvent_tenants (e : Event) (s : State) : (raiseEvent e s).tenants = s.tenants :=
  (raiseEvent_within e (Within.refl [.chest, .jnl] s) (Covers.refl _)).same .tenants (by decide)
@[simp] theorem raiseEvent_contexts (e : Event) (s : State) : (raiseEvent e s).contexts = s.contexts :=
  (raiseEvent_within e (Within.refl [.chest, .jnl] s) (Covers.refl _)).same .contexts (by decide)
@[simp] theorem raiseEvent_objects (e : Event) (s : State) : (raiseEvent e s).objects = s.objects :=
  (raiseEvent_within e (Within.refl [.chest, .jnl] s) (Covers.refl _)).same .objects (by decide)
@[simp] theorem raiseEvent_graphs (e : Event) (s : State) : (raiseEvent e s).graphs = s.graphs :=
  (raiseEvent_within e (Within.refl [.chest, .jnl] s) (Covers.refl _)).same .graphs (by decide)
@[simp] theorem raiseEvent_front (e : Event) (s : State) : (raiseEvent e s).front = s.front :=
  (raiseEvent_within e (Within.refl [.chest, .jnl] s) (Covers.refl _)).same .front (by decide)
@[simp] theorem raiseEvent_bramble (e : Event) (s : State) : (raiseEvent e s).bramble = s.bramble :=
  (raiseEvent_within e (Within.refl [.chest, .jnl] s) (Covers.refl _)).same .bramble (by decide)
@[simp] theorem raiseEvent_slices (e : Event) (s : State) : (raiseEvent e s).slices = s.slices :=
  (raiseEvent_within e (Within.refl [.chest, .jnl] s) (Covers.refl _)).same .slices (by decide)
@[simp] theorem raiseEvent_trestle (e : Event) (s : State) : (raiseEvent e s).trestle = s.trestle :=
  (raiseEvent_within e (Within.refl [.chest, .jnl] s) (Covers.refl _)).same .trestle (by decide)
@[simp] theorem raiseEvent_sched (e : Event) (s : State) : (raiseEvent e s).sched = s.sched :=
  (raiseEvent_within e (Within.refl [.chest, .jnl] s) (Covers.refl _)).same .sched (by decide)
@[simp] theorem raiseEvent_wrd (e : Event) (s : State) : (raiseEvent e s).wrd = s.wrd :=
  (raiseEvent_within e (Within.refl [.chest, .jnl] s) (Covers.refl _)).same .wrd (by decide)
@[simp] theorem raiseEvent_bureau (e : Event) (s : State) : (raiseEvent e s).bureau = s.bureau :=
  (raiseEvent_within e (Within.refl [.chest, .jnl] s) (Covers.refl _)).same .bureau (by decide)
@[simp] theorem raiseEvent_watch (e : Event) (s : State) : (raiseEvent e s).watch = s.watch :=
  (raiseEvent_within e (Within.refl [.chest, .jnl] s) (Covers.refl _)).same .watch (by decide)
@[simp] theorem raiseEvent_hutch (e : Event) (s : State) : (raiseEvent e s).hutch = s.hutch :=
  (raiseEvent_within e (Within.refl [.chest, .jnl] s) (Covers.refl _)).same .hutch (by decide)
@[simp] theorem raiseEvent_sta (e : Event) (s : State) : (raiseEvent e s).sta = s.sta :=
  (raiseEvent_within e (Within.refl [.chest, .jnl] s) (Covers.refl _)).same .sta (by decide)
@[simp] theorem raiseEvent_mgmt (e : Event) (s : State) : (raiseEvent e s).mgmt = s.mgmt :=
  (raiseEvent_within e (Within.refl [.chest, .jnl] s) (Covers.refl _)).same .mgmt (by decide)
@[simp] theorem raiseEvent_power (e : Event) (s : State) : (raiseEvent e s).power = s.power :=
  (raiseEvent_within e (Within.refl [.chest, .jnl] s) (Covers.refl _)).same .power (by decide)
@[simp] theorem raiseEvent_link (e : Event) (s : State) : (raiseEvent e s).link = s.link :=
  (raiseEvent_within e (Within.refl [.chest, .jnl] s) (Covers.refl _)).same .link (by decide)

@[simp] theorem signalFence_pending (c tag : Nat) (r : FenceRef) (s : State) : (signalFence c tag r s).pending = s.pending :=
  (signalFence_within c tag r (Within.refl [.port, .mem, .hub, .front, .bramble, .chest, .jnl] s) (Covers.refl _)).same .pending (by decide)
@[simp] theorem signalFence_time (c tag : Nat) (r : FenceRef) (s : State) : (signalFence c tag r s).time = s.time :=
  (signalFence_within c tag r (Within.refl [.port, .mem, .hub, .front, .bramble, .chest, .jnl] s) (Covers.refl _)).same .time (by decide)
@[simp] theorem signalFence_integ (c tag : Nat) (r : FenceRef) (s : State) : (signalFence c tag r s).integ = s.integ :=
  (signalFence_within c tag r (Within.refl [.port, .mem, .hub, .front, .bramble, .chest, .jnl] s) (Covers.refl _)).same .integ (by decide)
@[simp] theorem signalFence_tenants (c tag : Nat) (r : FenceRef) (s : State) : (signalFence c tag r s).tenants = s.tenants :=
  (signalFence_within c tag r (Within.refl [.port, .mem, .hub, .front, .bramble, .chest, .jnl] s) (Covers.refl _)).same .tenants (by decide)
@[simp] theorem signalFence_contexts (c tag : Nat) (r : FenceRef) (s : State) : (signalFence c tag r s).contexts = s.contexts :=
  (signalFence_within c tag r (Within.refl [.port, .mem, .hub, .front, .bramble, .chest, .jnl] s) (Covers.refl _)).same .contexts (by decide)
@[simp] theorem signalFence_objects (c tag : Nat) (r : FenceRef) (s : State) : (signalFence c tag r s).objects = s.objects :=
  (signalFence_within c tag r (Within.refl [.port, .mem, .hub, .front, .bramble, .chest, .jnl] s) (Covers.refl _)).same .objects (by decide)
@[simp] theorem signalFence_graphs (c tag : Nat) (r : FenceRef) (s : State) : (signalFence c tag r s).graphs = s.graphs :=
  (signalFence_within c tag r (Within.refl [.port, .mem, .hub, .front, .bramble, .chest, .jnl] s) (Covers.refl _)).same .graphs (by decide)
@[simp] theorem signalFence_slices (c tag : Nat) (r : FenceRef) (s : State) : (signalFence c tag r s).slices = s.slices :=
  (signalFence_within c tag r (Within.refl [.port, .mem, .hub, .front, .bramble, .chest, .jnl] s) (Covers.refl _)).same .slices (by decide)
@[simp] theorem signalFence_trestle (c tag : Nat) (r : FenceRef) (s : State) : (signalFence c tag r s).trestle = s.trestle :=
  (signalFence_within c tag r (Within.refl [.port, .mem, .hub, .front, .bramble, .chest, .jnl] s) (Covers.refl _)).same .trestle (by decide)
@[simp] theorem signalFence_sched (c tag : Nat) (r : FenceRef) (s : State) : (signalFence c tag r s).sched = s.sched :=
  (signalFence_within c tag r (Within.refl [.port, .mem, .hub, .front, .bramble, .chest, .jnl] s) (Covers.refl _)).same .sched (by decide)
@[simp] theorem signalFence_wrd (c tag : Nat) (r : FenceRef) (s : State) : (signalFence c tag r s).wrd = s.wrd :=
  (signalFence_within c tag r (Within.refl [.port, .mem, .hub, .front, .bramble, .chest, .jnl] s) (Covers.refl _)).same .wrd (by decide)
@[simp] theorem signalFence_bureau (c tag : Nat) (r : FenceRef) (s : State) : (signalFence c tag r s).bureau = s.bureau :=
  (signalFence_within c tag r (Within.refl [.port, .mem, .hub, .front, .bramble, .chest, .jnl] s) (Covers.refl _)).same .bureau (by decide)
@[simp] theorem signalFence_watch (c tag : Nat) (r : FenceRef) (s : State) : (signalFence c tag r s).watch = s.watch :=
  (signalFence_within c tag r (Within.refl [.port, .mem, .hub, .front, .bramble, .chest, .jnl] s) (Covers.refl _)).same .watch (by decide)
@[simp] theorem signalFence_hutch (c tag : Nat) (r : FenceRef) (s : State) : (signalFence c tag r s).hutch = s.hutch :=
  (signalFence_within c tag r (Within.refl [.port, .mem, .hub, .front, .bramble, .chest, .jnl] s) (Covers.refl _)).same .hutch (by decide)
@[simp] theorem signalFence_sta (c tag : Nat) (r : FenceRef) (s : State) : (signalFence c tag r s).sta = s.sta :=
  (signalFence_within c tag r (Within.refl [.port, .mem, .hub, .front, .bramble, .chest, .jnl] s) (Covers.refl _)).same .sta (by decide)
@[simp] theorem signalFence_mgmt (c tag : Nat) (r : FenceRef) (s : State) : (signalFence c tag r s).mgmt = s.mgmt :=
  (signalFence_within c tag r (Within.refl [.port, .mem, .hub, .front, .bramble, .chest, .jnl] s) (Covers.refl _)).same .mgmt (by decide)
@[simp] theorem signalFence_power (c tag : Nat) (r : FenceRef) (s : State) : (signalFence c tag r s).power = s.power :=
  (signalFence_within c tag r (Within.refl [.port, .mem, .hub, .front, .bramble, .chest, .jnl] s) (Covers.refl _)).same .power (by decide)
@[simp] theorem signalFence_link (c tag : Nat) (r : FenceRef) (s : State) : (signalFence c tag r s).link = s.link :=
  (signalFence_within c tag r (Within.refl [.port, .mem, .hub, .front, .bramble, .chest, .jnl] s) (Covers.refl _)).same .link (by decide)

@[simp] theorem stageRec_pending (stage event cause slot elapsed flags part : Nat) (s : State) : (stageRec stage event cause slot elapsed flags part s).pending = s.pending :=
  (stageRec_within stage event cause slot elapsed flags part (Within.refl [.port, .mem, .hutch] s) (Covers.refl _)).same .pending (by decide)
@[simp] theorem stageRec_time (stage event cause slot elapsed flags part : Nat) (s : State) : (stageRec stage event cause slot elapsed flags part s).time = s.time :=
  (stageRec_within stage event cause slot elapsed flags part (Within.refl [.port, .mem, .hutch] s) (Covers.refl _)).same .time (by decide)
@[simp] theorem stageRec_integ (stage event cause slot elapsed flags part : Nat) (s : State) : (stageRec stage event cause slot elapsed flags part s).integ = s.integ :=
  (stageRec_within stage event cause slot elapsed flags part (Within.refl [.port, .mem, .hutch] s) (Covers.refl _)).same .integ (by decide)
@[simp] theorem stageRec_hub (stage event cause slot elapsed flags part : Nat) (s : State) : (stageRec stage event cause slot elapsed flags part s).hub = s.hub :=
  (stageRec_within stage event cause slot elapsed flags part (Within.refl [.port, .mem, .hutch] s) (Covers.refl _)).same .hub (by decide)
@[simp] theorem stageRec_tenants (stage event cause slot elapsed flags part : Nat) (s : State) : (stageRec stage event cause slot elapsed flags part s).tenants = s.tenants :=
  (stageRec_within stage event cause slot elapsed flags part (Within.refl [.port, .mem, .hutch] s) (Covers.refl _)).same .tenants (by decide)
@[simp] theorem stageRec_contexts (stage event cause slot elapsed flags part : Nat) (s : State) : (stageRec stage event cause slot elapsed flags part s).contexts = s.contexts :=
  (stageRec_within stage event cause slot elapsed flags part (Within.refl [.port, .mem, .hutch] s) (Covers.refl _)).same .contexts (by decide)
@[simp] theorem stageRec_objects (stage event cause slot elapsed flags part : Nat) (s : State) : (stageRec stage event cause slot elapsed flags part s).objects = s.objects :=
  (stageRec_within stage event cause slot elapsed flags part (Within.refl [.port, .mem, .hutch] s) (Covers.refl _)).same .objects (by decide)
@[simp] theorem stageRec_graphs (stage event cause slot elapsed flags part : Nat) (s : State) : (stageRec stage event cause slot elapsed flags part s).graphs = s.graphs :=
  (stageRec_within stage event cause slot elapsed flags part (Within.refl [.port, .mem, .hutch] s) (Covers.refl _)).same .graphs (by decide)
@[simp] theorem stageRec_front (stage event cause slot elapsed flags part : Nat) (s : State) : (stageRec stage event cause slot elapsed flags part s).front = s.front :=
  (stageRec_within stage event cause slot elapsed flags part (Within.refl [.port, .mem, .hutch] s) (Covers.refl _)).same .front (by decide)
@[simp] theorem stageRec_bramble (stage event cause slot elapsed flags part : Nat) (s : State) : (stageRec stage event cause slot elapsed flags part s).bramble = s.bramble :=
  (stageRec_within stage event cause slot elapsed flags part (Within.refl [.port, .mem, .hutch] s) (Covers.refl _)).same .bramble (by decide)
@[simp] theorem stageRec_slices (stage event cause slot elapsed flags part : Nat) (s : State) : (stageRec stage event cause slot elapsed flags part s).slices = s.slices :=
  (stageRec_within stage event cause slot elapsed flags part (Within.refl [.port, .mem, .hutch] s) (Covers.refl _)).same .slices (by decide)
@[simp] theorem stageRec_trestle (stage event cause slot elapsed flags part : Nat) (s : State) : (stageRec stage event cause slot elapsed flags part s).trestle = s.trestle :=
  (stageRec_within stage event cause slot elapsed flags part (Within.refl [.port, .mem, .hutch] s) (Covers.refl _)).same .trestle (by decide)
@[simp] theorem stageRec_sched (stage event cause slot elapsed flags part : Nat) (s : State) : (stageRec stage event cause slot elapsed flags part s).sched = s.sched :=
  (stageRec_within stage event cause slot elapsed flags part (Within.refl [.port, .mem, .hutch] s) (Covers.refl _)).same .sched (by decide)
@[simp] theorem stageRec_wrd (stage event cause slot elapsed flags part : Nat) (s : State) : (stageRec stage event cause slot elapsed flags part s).wrd = s.wrd :=
  (stageRec_within stage event cause slot elapsed flags part (Within.refl [.port, .mem, .hutch] s) (Covers.refl _)).same .wrd (by decide)
@[simp] theorem stageRec_chest (stage event cause slot elapsed flags part : Nat) (s : State) : (stageRec stage event cause slot elapsed flags part s).chest = s.chest :=
  (stageRec_within stage event cause slot elapsed flags part (Within.refl [.port, .mem, .hutch] s) (Covers.refl _)).same .chest (by decide)
@[simp] theorem stageRec_bureau (stage event cause slot elapsed flags part : Nat) (s : State) : (stageRec stage event cause slot elapsed flags part s).bureau = s.bureau :=
  (stageRec_within stage event cause slot elapsed flags part (Within.refl [.port, .mem, .hutch] s) (Covers.refl _)).same .bureau (by decide)
@[simp] theorem stageRec_watch (stage event cause slot elapsed flags part : Nat) (s : State) : (stageRec stage event cause slot elapsed flags part s).watch = s.watch :=
  (stageRec_within stage event cause slot elapsed flags part (Within.refl [.port, .mem, .hutch] s) (Covers.refl _)).same .watch (by decide)
@[simp] theorem stageRec_jnl (stage event cause slot elapsed flags part : Nat) (s : State) : (stageRec stage event cause slot elapsed flags part s).jnl = s.jnl :=
  (stageRec_within stage event cause slot elapsed flags part (Within.refl [.port, .mem, .hutch] s) (Covers.refl _)).same .jnl (by decide)
@[simp] theorem stageRec_sta (stage event cause slot elapsed flags part : Nat) (s : State) : (stageRec stage event cause slot elapsed flags part s).sta = s.sta :=
  (stageRec_within stage event cause slot elapsed flags part (Within.refl [.port, .mem, .hutch] s) (Covers.refl _)).same .sta (by decide)
@[simp] theorem stageRec_mgmt (stage event cause slot elapsed flags part : Nat) (s : State) : (stageRec stage event cause slot elapsed flags part s).mgmt = s.mgmt :=
  (stageRec_within stage event cause slot elapsed flags part (Within.refl [.port, .mem, .hutch] s) (Covers.refl _)).same .mgmt (by decide)
@[simp] theorem stageRec_power (stage event cause slot elapsed flags part : Nat) (s : State) : (stageRec stage event cause slot elapsed flags part s).power = s.power :=
  (stageRec_within stage event cause slot elapsed flags part (Within.refl [.port, .mem, .hutch] s) (Covers.refl _)).same .power (by decide)
@[simp] theorem stageRec_link (stage event cause slot elapsed flags part : Nat) (s : State) : (stageRec stage event cause slot elapsed flags part s).link = s.link :=
  (stageRec_within stage event cause slot elapsed flags part (Within.refl [.port, .mem, .hutch] s) (Covers.refl _)).same .link (by decide)

@[simp] theorem startJob_pending (kind : MoveKind) (total : Nat) (background : Bool) (who : Payer) (s : State) : (startJob kind total background who s).pending = s.pending :=
  (startJob_within kind total background who (Within.refl [.wrd, .watch] s) (Covers.refl _)).same .pending (by decide)
@[simp] theorem startJob_time (kind : MoveKind) (total : Nat) (background : Bool) (who : Payer) (s : State) : (startJob kind total background who s).time = s.time :=
  (startJob_within kind total background who (Within.refl [.wrd, .watch] s) (Covers.refl _)).same .time (by decide)
@[simp] theorem startJob_port (kind : MoveKind) (total : Nat) (background : Bool) (who : Payer) (s : State) : (startJob kind total background who s).port = s.port :=
  (startJob_within kind total background who (Within.refl [.wrd, .watch] s) (Covers.refl _)).same .port (by decide)
@[simp] theorem startJob_integ (kind : MoveKind) (total : Nat) (background : Bool) (who : Payer) (s : State) : (startJob kind total background who s).integ = s.integ :=
  (startJob_within kind total background who (Within.refl [.wrd, .watch] s) (Covers.refl _)).same .integ (by decide)
@[simp] theorem startJob_mem (kind : MoveKind) (total : Nat) (background : Bool) (who : Payer) (s : State) : (startJob kind total background who s).mem = s.mem :=
  (startJob_within kind total background who (Within.refl [.wrd, .watch] s) (Covers.refl _)).same .mem (by decide)
@[simp] theorem startJob_hub (kind : MoveKind) (total : Nat) (background : Bool) (who : Payer) (s : State) : (startJob kind total background who s).hub = s.hub :=
  (startJob_within kind total background who (Within.refl [.wrd, .watch] s) (Covers.refl _)).same .hub (by decide)
@[simp] theorem startJob_tenants (kind : MoveKind) (total : Nat) (background : Bool) (who : Payer) (s : State) : (startJob kind total background who s).tenants = s.tenants :=
  (startJob_within kind total background who (Within.refl [.wrd, .watch] s) (Covers.refl _)).same .tenants (by decide)
@[simp] theorem startJob_contexts (kind : MoveKind) (total : Nat) (background : Bool) (who : Payer) (s : State) : (startJob kind total background who s).contexts = s.contexts :=
  (startJob_within kind total background who (Within.refl [.wrd, .watch] s) (Covers.refl _)).same .contexts (by decide)
@[simp] theorem startJob_objects (kind : MoveKind) (total : Nat) (background : Bool) (who : Payer) (s : State) : (startJob kind total background who s).objects = s.objects :=
  (startJob_within kind total background who (Within.refl [.wrd, .watch] s) (Covers.refl _)).same .objects (by decide)
@[simp] theorem startJob_graphs (kind : MoveKind) (total : Nat) (background : Bool) (who : Payer) (s : State) : (startJob kind total background who s).graphs = s.graphs :=
  (startJob_within kind total background who (Within.refl [.wrd, .watch] s) (Covers.refl _)).same .graphs (by decide)
@[simp] theorem startJob_front (kind : MoveKind) (total : Nat) (background : Bool) (who : Payer) (s : State) : (startJob kind total background who s).front = s.front :=
  (startJob_within kind total background who (Within.refl [.wrd, .watch] s) (Covers.refl _)).same .front (by decide)
@[simp] theorem startJob_bramble (kind : MoveKind) (total : Nat) (background : Bool) (who : Payer) (s : State) : (startJob kind total background who s).bramble = s.bramble :=
  (startJob_within kind total background who (Within.refl [.wrd, .watch] s) (Covers.refl _)).same .bramble (by decide)
@[simp] theorem startJob_slices (kind : MoveKind) (total : Nat) (background : Bool) (who : Payer) (s : State) : (startJob kind total background who s).slices = s.slices :=
  (startJob_within kind total background who (Within.refl [.wrd, .watch] s) (Covers.refl _)).same .slices (by decide)
@[simp] theorem startJob_trestle (kind : MoveKind) (total : Nat) (background : Bool) (who : Payer) (s : State) : (startJob kind total background who s).trestle = s.trestle :=
  (startJob_within kind total background who (Within.refl [.wrd, .watch] s) (Covers.refl _)).same .trestle (by decide)
@[simp] theorem startJob_sched (kind : MoveKind) (total : Nat) (background : Bool) (who : Payer) (s : State) : (startJob kind total background who s).sched = s.sched :=
  (startJob_within kind total background who (Within.refl [.wrd, .watch] s) (Covers.refl _)).same .sched (by decide)
@[simp] theorem startJob_chest (kind : MoveKind) (total : Nat) (background : Bool) (who : Payer) (s : State) : (startJob kind total background who s).chest = s.chest :=
  (startJob_within kind total background who (Within.refl [.wrd, .watch] s) (Covers.refl _)).same .chest (by decide)
@[simp] theorem startJob_bureau (kind : MoveKind) (total : Nat) (background : Bool) (who : Payer) (s : State) : (startJob kind total background who s).bureau = s.bureau :=
  (startJob_within kind total background who (Within.refl [.wrd, .watch] s) (Covers.refl _)).same .bureau (by decide)
@[simp] theorem startJob_hutch (kind : MoveKind) (total : Nat) (background : Bool) (who : Payer) (s : State) : (startJob kind total background who s).hutch = s.hutch :=
  (startJob_within kind total background who (Within.refl [.wrd, .watch] s) (Covers.refl _)).same .hutch (by decide)
@[simp] theorem startJob_jnl (kind : MoveKind) (total : Nat) (background : Bool) (who : Payer) (s : State) : (startJob kind total background who s).jnl = s.jnl :=
  (startJob_within kind total background who (Within.refl [.wrd, .watch] s) (Covers.refl _)).same .jnl (by decide)
@[simp] theorem startJob_sta (kind : MoveKind) (total : Nat) (background : Bool) (who : Payer) (s : State) : (startJob kind total background who s).sta = s.sta :=
  (startJob_within kind total background who (Within.refl [.wrd, .watch] s) (Covers.refl _)).same .sta (by decide)
@[simp] theorem startJob_mgmt (kind : MoveKind) (total : Nat) (background : Bool) (who : Payer) (s : State) : (startJob kind total background who s).mgmt = s.mgmt :=
  (startJob_within kind total background who (Within.refl [.wrd, .watch] s) (Covers.refl _)).same .mgmt (by decide)
@[simp] theorem startJob_power (kind : MoveKind) (total : Nat) (background : Bool) (who : Payer) (s : State) : (startJob kind total background who s).power = s.power :=
  (startJob_within kind total background who (Within.refl [.wrd, .watch] s) (Covers.refl _)).same .power (by decide)
@[simp] theorem startJob_link (kind : MoveKind) (total : Nat) (background : Bool) (who : Payer) (s : State) : (startJob kind total background who s).link = s.link :=
  (startJob_within kind total background who (Within.refl [.wrd, .watch] s) (Covers.refl _)).same .link (by decide)

@[simp] theorem trace_pending (point tag ctx queue arg : Nat) (s : State) : (trace point tag ctx queue arg s).pending = s.pending :=
  (trace_within point tag ctx queue arg (Within.refl [.jnl] s) (Covers.refl _)).same .pending (by decide)
@[simp] theorem trace_time (point tag ctx queue arg : Nat) (s : State) : (trace point tag ctx queue arg s).time = s.time :=
  (trace_within point tag ctx queue arg (Within.refl [.jnl] s) (Covers.refl _)).same .time (by decide)
@[simp] theorem trace_port (point tag ctx queue arg : Nat) (s : State) : (trace point tag ctx queue arg s).port = s.port :=
  (trace_within point tag ctx queue arg (Within.refl [.jnl] s) (Covers.refl _)).same .port (by decide)
@[simp] theorem trace_integ (point tag ctx queue arg : Nat) (s : State) : (trace point tag ctx queue arg s).integ = s.integ :=
  (trace_within point tag ctx queue arg (Within.refl [.jnl] s) (Covers.refl _)).same .integ (by decide)
@[simp] theorem trace_mem (point tag ctx queue arg : Nat) (s : State) : (trace point tag ctx queue arg s).mem = s.mem :=
  (trace_within point tag ctx queue arg (Within.refl [.jnl] s) (Covers.refl _)).same .mem (by decide)
@[simp] theorem trace_hub (point tag ctx queue arg : Nat) (s : State) : (trace point tag ctx queue arg s).hub = s.hub :=
  (trace_within point tag ctx queue arg (Within.refl [.jnl] s) (Covers.refl _)).same .hub (by decide)
@[simp] theorem trace_tenants (point tag ctx queue arg : Nat) (s : State) : (trace point tag ctx queue arg s).tenants = s.tenants :=
  (trace_within point tag ctx queue arg (Within.refl [.jnl] s) (Covers.refl _)).same .tenants (by decide)
@[simp] theorem trace_contexts (point tag ctx queue arg : Nat) (s : State) : (trace point tag ctx queue arg s).contexts = s.contexts :=
  (trace_within point tag ctx queue arg (Within.refl [.jnl] s) (Covers.refl _)).same .contexts (by decide)
@[simp] theorem trace_objects (point tag ctx queue arg : Nat) (s : State) : (trace point tag ctx queue arg s).objects = s.objects :=
  (trace_within point tag ctx queue arg (Within.refl [.jnl] s) (Covers.refl _)).same .objects (by decide)
@[simp] theorem trace_graphs (point tag ctx queue arg : Nat) (s : State) : (trace point tag ctx queue arg s).graphs = s.graphs :=
  (trace_within point tag ctx queue arg (Within.refl [.jnl] s) (Covers.refl _)).same .graphs (by decide)
@[simp] theorem trace_front (point tag ctx queue arg : Nat) (s : State) : (trace point tag ctx queue arg s).front = s.front :=
  (trace_within point tag ctx queue arg (Within.refl [.jnl] s) (Covers.refl _)).same .front (by decide)
@[simp] theorem trace_bramble (point tag ctx queue arg : Nat) (s : State) : (trace point tag ctx queue arg s).bramble = s.bramble :=
  (trace_within point tag ctx queue arg (Within.refl [.jnl] s) (Covers.refl _)).same .bramble (by decide)
@[simp] theorem trace_slices (point tag ctx queue arg : Nat) (s : State) : (trace point tag ctx queue arg s).slices = s.slices :=
  (trace_within point tag ctx queue arg (Within.refl [.jnl] s) (Covers.refl _)).same .slices (by decide)
@[simp] theorem trace_trestle (point tag ctx queue arg : Nat) (s : State) : (trace point tag ctx queue arg s).trestle = s.trestle :=
  (trace_within point tag ctx queue arg (Within.refl [.jnl] s) (Covers.refl _)).same .trestle (by decide)
@[simp] theorem trace_sched (point tag ctx queue arg : Nat) (s : State) : (trace point tag ctx queue arg s).sched = s.sched :=
  (trace_within point tag ctx queue arg (Within.refl [.jnl] s) (Covers.refl _)).same .sched (by decide)
@[simp] theorem trace_wrd (point tag ctx queue arg : Nat) (s : State) : (trace point tag ctx queue arg s).wrd = s.wrd :=
  (trace_within point tag ctx queue arg (Within.refl [.jnl] s) (Covers.refl _)).same .wrd (by decide)
@[simp] theorem trace_chest (point tag ctx queue arg : Nat) (s : State) : (trace point tag ctx queue arg s).chest = s.chest :=
  (trace_within point tag ctx queue arg (Within.refl [.jnl] s) (Covers.refl _)).same .chest (by decide)
@[simp] theorem trace_bureau (point tag ctx queue arg : Nat) (s : State) : (trace point tag ctx queue arg s).bureau = s.bureau :=
  (trace_within point tag ctx queue arg (Within.refl [.jnl] s) (Covers.refl _)).same .bureau (by decide)
@[simp] theorem trace_watch (point tag ctx queue arg : Nat) (s : State) : (trace point tag ctx queue arg s).watch = s.watch :=
  (trace_within point tag ctx queue arg (Within.refl [.jnl] s) (Covers.refl _)).same .watch (by decide)
@[simp] theorem trace_hutch (point tag ctx queue arg : Nat) (s : State) : (trace point tag ctx queue arg s).hutch = s.hutch :=
  (trace_within point tag ctx queue arg (Within.refl [.jnl] s) (Covers.refl _)).same .hutch (by decide)
@[simp] theorem trace_sta (point tag ctx queue arg : Nat) (s : State) : (trace point tag ctx queue arg s).sta = s.sta :=
  (trace_within point tag ctx queue arg (Within.refl [.jnl] s) (Covers.refl _)).same .sta (by decide)
@[simp] theorem trace_mgmt (point tag ctx queue arg : Nat) (s : State) : (trace point tag ctx queue arg s).mgmt = s.mgmt :=
  (trace_within point tag ctx queue arg (Within.refl [.jnl] s) (Covers.refl _)).same .mgmt (by decide)
@[simp] theorem trace_power (point tag ctx queue arg : Nat) (s : State) : (trace point tag ctx queue arg s).power = s.power :=
  (trace_within point tag ctx queue arg (Within.refl [.jnl] s) (Covers.refl _)).same .power (by decide)
@[simp] theorem trace_link (point tag ctx queue arg : Nat) (s : State) : (trace point tag ctx queue arg s).link = s.link :=
  (trace_within point tag ctx queue arg (Within.refl [.jnl] s) (Covers.refl _)).same .link (by decide)

@[simp] theorem takeLatch_pending (k pos : Nat) (st : Status) (aux : Nat) (s : State) : (takeLatch k pos st aux s).pending = s.pending :=
  (takeLatch_within k pos st aux (Within.refl [.front, .chest, .jnl] s) (Covers.refl _)).same .pending (by decide)
@[simp] theorem takeLatch_time (k pos : Nat) (st : Status) (aux : Nat) (s : State) : (takeLatch k pos st aux s).time = s.time :=
  (takeLatch_within k pos st aux (Within.refl [.front, .chest, .jnl] s) (Covers.refl _)).same .time (by decide)
@[simp] theorem takeLatch_port (k pos : Nat) (st : Status) (aux : Nat) (s : State) : (takeLatch k pos st aux s).port = s.port :=
  (takeLatch_within k pos st aux (Within.refl [.front, .chest, .jnl] s) (Covers.refl _)).same .port (by decide)
@[simp] theorem takeLatch_integ (k pos : Nat) (st : Status) (aux : Nat) (s : State) : (takeLatch k pos st aux s).integ = s.integ :=
  (takeLatch_within k pos st aux (Within.refl [.front, .chest, .jnl] s) (Covers.refl _)).same .integ (by decide)
@[simp] theorem takeLatch_mem (k pos : Nat) (st : Status) (aux : Nat) (s : State) : (takeLatch k pos st aux s).mem = s.mem :=
  (takeLatch_within k pos st aux (Within.refl [.front, .chest, .jnl] s) (Covers.refl _)).same .mem (by decide)
@[simp] theorem takeLatch_hub (k pos : Nat) (st : Status) (aux : Nat) (s : State) : (takeLatch k pos st aux s).hub = s.hub :=
  (takeLatch_within k pos st aux (Within.refl [.front, .chest, .jnl] s) (Covers.refl _)).same .hub (by decide)
@[simp] theorem takeLatch_tenants (k pos : Nat) (st : Status) (aux : Nat) (s : State) : (takeLatch k pos st aux s).tenants = s.tenants :=
  (takeLatch_within k pos st aux (Within.refl [.front, .chest, .jnl] s) (Covers.refl _)).same .tenants (by decide)
@[simp] theorem takeLatch_contexts (k pos : Nat) (st : Status) (aux : Nat) (s : State) : (takeLatch k pos st aux s).contexts = s.contexts :=
  (takeLatch_within k pos st aux (Within.refl [.front, .chest, .jnl] s) (Covers.refl _)).same .contexts (by decide)
@[simp] theorem takeLatch_objects (k pos : Nat) (st : Status) (aux : Nat) (s : State) : (takeLatch k pos st aux s).objects = s.objects :=
  (takeLatch_within k pos st aux (Within.refl [.front, .chest, .jnl] s) (Covers.refl _)).same .objects (by decide)
@[simp] theorem takeLatch_graphs (k pos : Nat) (st : Status) (aux : Nat) (s : State) : (takeLatch k pos st aux s).graphs = s.graphs :=
  (takeLatch_within k pos st aux (Within.refl [.front, .chest, .jnl] s) (Covers.refl _)).same .graphs (by decide)
@[simp] theorem takeLatch_bramble (k pos : Nat) (st : Status) (aux : Nat) (s : State) : (takeLatch k pos st aux s).bramble = s.bramble :=
  (takeLatch_within k pos st aux (Within.refl [.front, .chest, .jnl] s) (Covers.refl _)).same .bramble (by decide)
@[simp] theorem takeLatch_slices (k pos : Nat) (st : Status) (aux : Nat) (s : State) : (takeLatch k pos st aux s).slices = s.slices :=
  (takeLatch_within k pos st aux (Within.refl [.front, .chest, .jnl] s) (Covers.refl _)).same .slices (by decide)
@[simp] theorem takeLatch_trestle (k pos : Nat) (st : Status) (aux : Nat) (s : State) : (takeLatch k pos st aux s).trestle = s.trestle :=
  (takeLatch_within k pos st aux (Within.refl [.front, .chest, .jnl] s) (Covers.refl _)).same .trestle (by decide)
@[simp] theorem takeLatch_sched (k pos : Nat) (st : Status) (aux : Nat) (s : State) : (takeLatch k pos st aux s).sched = s.sched :=
  (takeLatch_within k pos st aux (Within.refl [.front, .chest, .jnl] s) (Covers.refl _)).same .sched (by decide)
@[simp] theorem takeLatch_wrd (k pos : Nat) (st : Status) (aux : Nat) (s : State) : (takeLatch k pos st aux s).wrd = s.wrd :=
  (takeLatch_within k pos st aux (Within.refl [.front, .chest, .jnl] s) (Covers.refl _)).same .wrd (by decide)
@[simp] theorem takeLatch_bureau (k pos : Nat) (st : Status) (aux : Nat) (s : State) : (takeLatch k pos st aux s).bureau = s.bureau :=
  (takeLatch_within k pos st aux (Within.refl [.front, .chest, .jnl] s) (Covers.refl _)).same .bureau (by decide)
@[simp] theorem takeLatch_watch (k pos : Nat) (st : Status) (aux : Nat) (s : State) : (takeLatch k pos st aux s).watch = s.watch :=
  (takeLatch_within k pos st aux (Within.refl [.front, .chest, .jnl] s) (Covers.refl _)).same .watch (by decide)
@[simp] theorem takeLatch_hutch (k pos : Nat) (st : Status) (aux : Nat) (s : State) : (takeLatch k pos st aux s).hutch = s.hutch :=
  (takeLatch_within k pos st aux (Within.refl [.front, .chest, .jnl] s) (Covers.refl _)).same .hutch (by decide)
@[simp] theorem takeLatch_sta (k pos : Nat) (st : Status) (aux : Nat) (s : State) : (takeLatch k pos st aux s).sta = s.sta :=
  (takeLatch_within k pos st aux (Within.refl [.front, .chest, .jnl] s) (Covers.refl _)).same .sta (by decide)
@[simp] theorem takeLatch_mgmt (k pos : Nat) (st : Status) (aux : Nat) (s : State) : (takeLatch k pos st aux s).mgmt = s.mgmt :=
  (takeLatch_within k pos st aux (Within.refl [.front, .chest, .jnl] s) (Covers.refl _)).same .mgmt (by decide)
@[simp] theorem takeLatch_power (k pos : Nat) (st : Status) (aux : Nat) (s : State) : (takeLatch k pos st aux s).power = s.power :=
  (takeLatch_within k pos st aux (Within.refl [.front, .chest, .jnl] s) (Covers.refl _)).same .power (by decide)
@[simp] theorem takeLatch_link (k pos : Nat) (st : Status) (aux : Nat) (s : State) : (takeLatch k pos st aux s).link = s.link :=
  (takeLatch_within k pos st aux (Within.refl [.front, .chest, .jnl] s) (Covers.refl _)).same .link (by decide)

@[simp] theorem readReq_pending (key : Option Nat) (via : Via) (l : Loc) (n : Nat) (s : State) : (readReq key via l n s).pending = s.pending :=
  (readReq_within key via l n (Within.refl [.port] s) (Covers.refl _)).same .pending (by decide)
@[simp] theorem readReq_time (key : Option Nat) (via : Via) (l : Loc) (n : Nat) (s : State) : (readReq key via l n s).time = s.time :=
  (readReq_within key via l n (Within.refl [.port] s) (Covers.refl _)).same .time (by decide)
@[simp] theorem readReq_integ (key : Option Nat) (via : Via) (l : Loc) (n : Nat) (s : State) : (readReq key via l n s).integ = s.integ :=
  (readReq_within key via l n (Within.refl [.port] s) (Covers.refl _)).same .integ (by decide)
@[simp] theorem readReq_mem (key : Option Nat) (via : Via) (l : Loc) (n : Nat) (s : State) : (readReq key via l n s).mem = s.mem :=
  (readReq_within key via l n (Within.refl [.port] s) (Covers.refl _)).same .mem (by decide)
@[simp] theorem readReq_hub (key : Option Nat) (via : Via) (l : Loc) (n : Nat) (s : State) : (readReq key via l n s).hub = s.hub :=
  (readReq_within key via l n (Within.refl [.port] s) (Covers.refl _)).same .hub (by decide)
@[simp] theorem readReq_tenants (key : Option Nat) (via : Via) (l : Loc) (n : Nat) (s : State) : (readReq key via l n s).tenants = s.tenants :=
  (readReq_within key via l n (Within.refl [.port] s) (Covers.refl _)).same .tenants (by decide)
@[simp] theorem readReq_contexts (key : Option Nat) (via : Via) (l : Loc) (n : Nat) (s : State) : (readReq key via l n s).contexts = s.contexts :=
  (readReq_within key via l n (Within.refl [.port] s) (Covers.refl _)).same .contexts (by decide)
@[simp] theorem readReq_objects (key : Option Nat) (via : Via) (l : Loc) (n : Nat) (s : State) : (readReq key via l n s).objects = s.objects :=
  (readReq_within key via l n (Within.refl [.port] s) (Covers.refl _)).same .objects (by decide)
@[simp] theorem readReq_graphs (key : Option Nat) (via : Via) (l : Loc) (n : Nat) (s : State) : (readReq key via l n s).graphs = s.graphs :=
  (readReq_within key via l n (Within.refl [.port] s) (Covers.refl _)).same .graphs (by decide)
@[simp] theorem readReq_front (key : Option Nat) (via : Via) (l : Loc) (n : Nat) (s : State) : (readReq key via l n s).front = s.front :=
  (readReq_within key via l n (Within.refl [.port] s) (Covers.refl _)).same .front (by decide)
@[simp] theorem readReq_bramble (key : Option Nat) (via : Via) (l : Loc) (n : Nat) (s : State) : (readReq key via l n s).bramble = s.bramble :=
  (readReq_within key via l n (Within.refl [.port] s) (Covers.refl _)).same .bramble (by decide)
@[simp] theorem readReq_slices (key : Option Nat) (via : Via) (l : Loc) (n : Nat) (s : State) : (readReq key via l n s).slices = s.slices :=
  (readReq_within key via l n (Within.refl [.port] s) (Covers.refl _)).same .slices (by decide)
@[simp] theorem readReq_trestle (key : Option Nat) (via : Via) (l : Loc) (n : Nat) (s : State) : (readReq key via l n s).trestle = s.trestle :=
  (readReq_within key via l n (Within.refl [.port] s) (Covers.refl _)).same .trestle (by decide)
@[simp] theorem readReq_sched (key : Option Nat) (via : Via) (l : Loc) (n : Nat) (s : State) : (readReq key via l n s).sched = s.sched :=
  (readReq_within key via l n (Within.refl [.port] s) (Covers.refl _)).same .sched (by decide)
@[simp] theorem readReq_wrd (key : Option Nat) (via : Via) (l : Loc) (n : Nat) (s : State) : (readReq key via l n s).wrd = s.wrd :=
  (readReq_within key via l n (Within.refl [.port] s) (Covers.refl _)).same .wrd (by decide)
@[simp] theorem readReq_chest (key : Option Nat) (via : Via) (l : Loc) (n : Nat) (s : State) : (readReq key via l n s).chest = s.chest :=
  (readReq_within key via l n (Within.refl [.port] s) (Covers.refl _)).same .chest (by decide)
@[simp] theorem readReq_bureau (key : Option Nat) (via : Via) (l : Loc) (n : Nat) (s : State) : (readReq key via l n s).bureau = s.bureau :=
  (readReq_within key via l n (Within.refl [.port] s) (Covers.refl _)).same .bureau (by decide)
@[simp] theorem readReq_watch (key : Option Nat) (via : Via) (l : Loc) (n : Nat) (s : State) : (readReq key via l n s).watch = s.watch :=
  (readReq_within key via l n (Within.refl [.port] s) (Covers.refl _)).same .watch (by decide)
@[simp] theorem readReq_hutch (key : Option Nat) (via : Via) (l : Loc) (n : Nat) (s : State) : (readReq key via l n s).hutch = s.hutch :=
  (readReq_within key via l n (Within.refl [.port] s) (Covers.refl _)).same .hutch (by decide)
@[simp] theorem readReq_jnl (key : Option Nat) (via : Via) (l : Loc) (n : Nat) (s : State) : (readReq key via l n s).jnl = s.jnl :=
  (readReq_within key via l n (Within.refl [.port] s) (Covers.refl _)).same .jnl (by decide)
@[simp] theorem readReq_sta (key : Option Nat) (via : Via) (l : Loc) (n : Nat) (s : State) : (readReq key via l n s).sta = s.sta :=
  (readReq_within key via l n (Within.refl [.port] s) (Covers.refl _)).same .sta (by decide)
@[simp] theorem readReq_mgmt (key : Option Nat) (via : Via) (l : Loc) (n : Nat) (s : State) : (readReq key via l n s).mgmt = s.mgmt :=
  (readReq_within key via l n (Within.refl [.port] s) (Covers.refl _)).same .mgmt (by decide)
@[simp] theorem readReq_power (key : Option Nat) (via : Via) (l : Loc) (n : Nat) (s : State) : (readReq key via l n s).power = s.power :=
  (readReq_within key via l n (Within.refl [.port] s) (Covers.refl _)).same .power (by decide)
@[simp] theorem readReq_link (key : Option Nat) (via : Via) (l : Loc) (n : Nat) (s : State) : (readReq key via l n s).link = s.link :=
  (readReq_within key via l n (Within.refl [.port] s) (Covers.refl _)).same .link (by decide)

@[simp] theorem readFor_pending (c : Option Nat) (l : Loc) (n : Nat) (s : State) : (readFor c l n s).pending = s.pending :=
  (readFor_within c l n (Within.refl [.port, .hub] s) (Covers.refl _)).same .pending (by decide)
@[simp] theorem readFor_time (c : Option Nat) (l : Loc) (n : Nat) (s : State) : (readFor c l n s).time = s.time :=
  (readFor_within c l n (Within.refl [.port, .hub] s) (Covers.refl _)).same .time (by decide)
@[simp] theorem readFor_integ (c : Option Nat) (l : Loc) (n : Nat) (s : State) : (readFor c l n s).integ = s.integ :=
  (readFor_within c l n (Within.refl [.port, .hub] s) (Covers.refl _)).same .integ (by decide)
@[simp] theorem readFor_mem (c : Option Nat) (l : Loc) (n : Nat) (s : State) : (readFor c l n s).mem = s.mem :=
  (readFor_within c l n (Within.refl [.port, .hub] s) (Covers.refl _)).same .mem (by decide)
@[simp] theorem readFor_tenants (c : Option Nat) (l : Loc) (n : Nat) (s : State) : (readFor c l n s).tenants = s.tenants :=
  (readFor_within c l n (Within.refl [.port, .hub] s) (Covers.refl _)).same .tenants (by decide)
@[simp] theorem readFor_contexts (c : Option Nat) (l : Loc) (n : Nat) (s : State) : (readFor c l n s).contexts = s.contexts :=
  (readFor_within c l n (Within.refl [.port, .hub] s) (Covers.refl _)).same .contexts (by decide)
@[simp] theorem readFor_objects (c : Option Nat) (l : Loc) (n : Nat) (s : State) : (readFor c l n s).objects = s.objects :=
  (readFor_within c l n (Within.refl [.port, .hub] s) (Covers.refl _)).same .objects (by decide)
@[simp] theorem readFor_graphs (c : Option Nat) (l : Loc) (n : Nat) (s : State) : (readFor c l n s).graphs = s.graphs :=
  (readFor_within c l n (Within.refl [.port, .hub] s) (Covers.refl _)).same .graphs (by decide)
@[simp] theorem readFor_front (c : Option Nat) (l : Loc) (n : Nat) (s : State) : (readFor c l n s).front = s.front :=
  (readFor_within c l n (Within.refl [.port, .hub] s) (Covers.refl _)).same .front (by decide)
@[simp] theorem readFor_bramble (c : Option Nat) (l : Loc) (n : Nat) (s : State) : (readFor c l n s).bramble = s.bramble :=
  (readFor_within c l n (Within.refl [.port, .hub] s) (Covers.refl _)).same .bramble (by decide)
@[simp] theorem readFor_slices (c : Option Nat) (l : Loc) (n : Nat) (s : State) : (readFor c l n s).slices = s.slices :=
  (readFor_within c l n (Within.refl [.port, .hub] s) (Covers.refl _)).same .slices (by decide)
@[simp] theorem readFor_trestle (c : Option Nat) (l : Loc) (n : Nat) (s : State) : (readFor c l n s).trestle = s.trestle :=
  (readFor_within c l n (Within.refl [.port, .hub] s) (Covers.refl _)).same .trestle (by decide)
@[simp] theorem readFor_sched (c : Option Nat) (l : Loc) (n : Nat) (s : State) : (readFor c l n s).sched = s.sched :=
  (readFor_within c l n (Within.refl [.port, .hub] s) (Covers.refl _)).same .sched (by decide)
@[simp] theorem readFor_wrd (c : Option Nat) (l : Loc) (n : Nat) (s : State) : (readFor c l n s).wrd = s.wrd :=
  (readFor_within c l n (Within.refl [.port, .hub] s) (Covers.refl _)).same .wrd (by decide)
@[simp] theorem readFor_chest (c : Option Nat) (l : Loc) (n : Nat) (s : State) : (readFor c l n s).chest = s.chest :=
  (readFor_within c l n (Within.refl [.port, .hub] s) (Covers.refl _)).same .chest (by decide)
@[simp] theorem readFor_bureau (c : Option Nat) (l : Loc) (n : Nat) (s : State) : (readFor c l n s).bureau = s.bureau :=
  (readFor_within c l n (Within.refl [.port, .hub] s) (Covers.refl _)).same .bureau (by decide)
@[simp] theorem readFor_watch (c : Option Nat) (l : Loc) (n : Nat) (s : State) : (readFor c l n s).watch = s.watch :=
  (readFor_within c l n (Within.refl [.port, .hub] s) (Covers.refl _)).same .watch (by decide)
@[simp] theorem readFor_hutch (c : Option Nat) (l : Loc) (n : Nat) (s : State) : (readFor c l n s).hutch = s.hutch :=
  (readFor_within c l n (Within.refl [.port, .hub] s) (Covers.refl _)).same .hutch (by decide)
@[simp] theorem readFor_jnl (c : Option Nat) (l : Loc) (n : Nat) (s : State) : (readFor c l n s).jnl = s.jnl :=
  (readFor_within c l n (Within.refl [.port, .hub] s) (Covers.refl _)).same .jnl (by decide)
@[simp] theorem readFor_sta (c : Option Nat) (l : Loc) (n : Nat) (s : State) : (readFor c l n s).sta = s.sta :=
  (readFor_within c l n (Within.refl [.port, .hub] s) (Covers.refl _)).same .sta (by decide)
@[simp] theorem readFor_mgmt (c : Option Nat) (l : Loc) (n : Nat) (s : State) : (readFor c l n s).mgmt = s.mgmt :=
  (readFor_within c l n (Within.refl [.port, .hub] s) (Covers.refl _)).same .mgmt (by decide)
@[simp] theorem readFor_power (c : Option Nat) (l : Loc) (n : Nat) (s : State) : (readFor c l n s).power = s.power :=
  (readFor_within c l n (Within.refl [.port, .hub] s) (Covers.refl _)).same .power (by decide)
@[simp] theorem readFor_link (c : Option Nat) (l : Loc) (n : Nat) (s : State) : (readFor c l n s).link = s.link :=
  (readFor_within c l n (Within.refl [.port, .hub] s) (Covers.refl _)).same .link (by decide)

@[simp] theorem evalChest_pending (s : State) : (evalChest s).pending = s.pending :=
  (evalChest_within (Within.refl [.chest, .jnl] s) (Covers.refl _)).same .pending (by decide)
@[simp] theorem evalChest_time (s : State) : (evalChest s).time = s.time :=
  (evalChest_within (Within.refl [.chest, .jnl] s) (Covers.refl _)).same .time (by decide)
@[simp] theorem evalChest_port (s : State) : (evalChest s).port = s.port :=
  (evalChest_within (Within.refl [.chest, .jnl] s) (Covers.refl _)).same .port (by decide)
@[simp] theorem evalChest_integ (s : State) : (evalChest s).integ = s.integ :=
  (evalChest_within (Within.refl [.chest, .jnl] s) (Covers.refl _)).same .integ (by decide)
@[simp] theorem evalChest_mem (s : State) : (evalChest s).mem = s.mem :=
  (evalChest_within (Within.refl [.chest, .jnl] s) (Covers.refl _)).same .mem (by decide)
@[simp] theorem evalChest_hub (s : State) : (evalChest s).hub = s.hub :=
  (evalChest_within (Within.refl [.chest, .jnl] s) (Covers.refl _)).same .hub (by decide)
@[simp] theorem evalChest_tenants (s : State) : (evalChest s).tenants = s.tenants :=
  (evalChest_within (Within.refl [.chest, .jnl] s) (Covers.refl _)).same .tenants (by decide)
@[simp] theorem evalChest_contexts (s : State) : (evalChest s).contexts = s.contexts :=
  (evalChest_within (Within.refl [.chest, .jnl] s) (Covers.refl _)).same .contexts (by decide)
@[simp] theorem evalChest_objects (s : State) : (evalChest s).objects = s.objects :=
  (evalChest_within (Within.refl [.chest, .jnl] s) (Covers.refl _)).same .objects (by decide)
@[simp] theorem evalChest_graphs (s : State) : (evalChest s).graphs = s.graphs :=
  (evalChest_within (Within.refl [.chest, .jnl] s) (Covers.refl _)).same .graphs (by decide)
@[simp] theorem evalChest_front (s : State) : (evalChest s).front = s.front :=
  (evalChest_within (Within.refl [.chest, .jnl] s) (Covers.refl _)).same .front (by decide)
@[simp] theorem evalChest_bramble (s : State) : (evalChest s).bramble = s.bramble :=
  (evalChest_within (Within.refl [.chest, .jnl] s) (Covers.refl _)).same .bramble (by decide)
@[simp] theorem evalChest_slices (s : State) : (evalChest s).slices = s.slices :=
  (evalChest_within (Within.refl [.chest, .jnl] s) (Covers.refl _)).same .slices (by decide)
@[simp] theorem evalChest_trestle (s : State) : (evalChest s).trestle = s.trestle :=
  (evalChest_within (Within.refl [.chest, .jnl] s) (Covers.refl _)).same .trestle (by decide)
@[simp] theorem evalChest_sched (s : State) : (evalChest s).sched = s.sched :=
  (evalChest_within (Within.refl [.chest, .jnl] s) (Covers.refl _)).same .sched (by decide)
@[simp] theorem evalChest_wrd (s : State) : (evalChest s).wrd = s.wrd :=
  (evalChest_within (Within.refl [.chest, .jnl] s) (Covers.refl _)).same .wrd (by decide)
@[simp] theorem evalChest_bureau (s : State) : (evalChest s).bureau = s.bureau :=
  (evalChest_within (Within.refl [.chest, .jnl] s) (Covers.refl _)).same .bureau (by decide)
@[simp] theorem evalChest_watch (s : State) : (evalChest s).watch = s.watch :=
  (evalChest_within (Within.refl [.chest, .jnl] s) (Covers.refl _)).same .watch (by decide)
@[simp] theorem evalChest_hutch (s : State) : (evalChest s).hutch = s.hutch :=
  (evalChest_within (Within.refl [.chest, .jnl] s) (Covers.refl _)).same .hutch (by decide)
@[simp] theorem evalChest_sta (s : State) : (evalChest s).sta = s.sta :=
  (evalChest_within (Within.refl [.chest, .jnl] s) (Covers.refl _)).same .sta (by decide)
@[simp] theorem evalChest_mgmt (s : State) : (evalChest s).mgmt = s.mgmt :=
  (evalChest_within (Within.refl [.chest, .jnl] s) (Covers.refl _)).same .mgmt (by decide)
@[simp] theorem evalChest_power (s : State) : (evalChest s).power = s.power :=
  (evalChest_within (Within.refl [.chest, .jnl] s) (Covers.refl _)).same .power (by decide)
@[simp] theorem evalChest_link (s : State) : (evalChest s).link = s.link :=
  (evalChest_within (Within.refl [.chest, .jnl] s) (Covers.refl _)).same .link (by decide)

@[simp] theorem grantWaiting_pending (n : Nat) (s : State) : (grantWaiting n s).pending = s.pending :=
  (grantWaiting_within n (Within.refl [.chest] s) (Covers.refl _)).same .pending (by decide)
@[simp] theorem grantWaiting_time (n : Nat) (s : State) : (grantWaiting n s).time = s.time :=
  (grantWaiting_within n (Within.refl [.chest] s) (Covers.refl _)).same .time (by decide)
@[simp] theorem grantWaiting_port (n : Nat) (s : State) : (grantWaiting n s).port = s.port :=
  (grantWaiting_within n (Within.refl [.chest] s) (Covers.refl _)).same .port (by decide)
@[simp] theorem grantWaiting_integ (n : Nat) (s : State) : (grantWaiting n s).integ = s.integ :=
  (grantWaiting_within n (Within.refl [.chest] s) (Covers.refl _)).same .integ (by decide)
@[simp] theorem grantWaiting_mem (n : Nat) (s : State) : (grantWaiting n s).mem = s.mem :=
  (grantWaiting_within n (Within.refl [.chest] s) (Covers.refl _)).same .mem (by decide)
@[simp] theorem grantWaiting_hub (n : Nat) (s : State) : (grantWaiting n s).hub = s.hub :=
  (grantWaiting_within n (Within.refl [.chest] s) (Covers.refl _)).same .hub (by decide)
@[simp] theorem grantWaiting_tenants (n : Nat) (s : State) : (grantWaiting n s).tenants = s.tenants :=
  (grantWaiting_within n (Within.refl [.chest] s) (Covers.refl _)).same .tenants (by decide)
@[simp] theorem grantWaiting_contexts (n : Nat) (s : State) : (grantWaiting n s).contexts = s.contexts :=
  (grantWaiting_within n (Within.refl [.chest] s) (Covers.refl _)).same .contexts (by decide)
@[simp] theorem grantWaiting_objects (n : Nat) (s : State) : (grantWaiting n s).objects = s.objects :=
  (grantWaiting_within n (Within.refl [.chest] s) (Covers.refl _)).same .objects (by decide)
@[simp] theorem grantWaiting_graphs (n : Nat) (s : State) : (grantWaiting n s).graphs = s.graphs :=
  (grantWaiting_within n (Within.refl [.chest] s) (Covers.refl _)).same .graphs (by decide)
@[simp] theorem grantWaiting_front (n : Nat) (s : State) : (grantWaiting n s).front = s.front :=
  (grantWaiting_within n (Within.refl [.chest] s) (Covers.refl _)).same .front (by decide)
@[simp] theorem grantWaiting_bramble (n : Nat) (s : State) : (grantWaiting n s).bramble = s.bramble :=
  (grantWaiting_within n (Within.refl [.chest] s) (Covers.refl _)).same .bramble (by decide)
@[simp] theorem grantWaiting_slices (n : Nat) (s : State) : (grantWaiting n s).slices = s.slices :=
  (grantWaiting_within n (Within.refl [.chest] s) (Covers.refl _)).same .slices (by decide)
@[simp] theorem grantWaiting_trestle (n : Nat) (s : State) : (grantWaiting n s).trestle = s.trestle :=
  (grantWaiting_within n (Within.refl [.chest] s) (Covers.refl _)).same .trestle (by decide)
@[simp] theorem grantWaiting_sched (n : Nat) (s : State) : (grantWaiting n s).sched = s.sched :=
  (grantWaiting_within n (Within.refl [.chest] s) (Covers.refl _)).same .sched (by decide)
@[simp] theorem grantWaiting_wrd (n : Nat) (s : State) : (grantWaiting n s).wrd = s.wrd :=
  (grantWaiting_within n (Within.refl [.chest] s) (Covers.refl _)).same .wrd (by decide)
@[simp] theorem grantWaiting_bureau (n : Nat) (s : State) : (grantWaiting n s).bureau = s.bureau :=
  (grantWaiting_within n (Within.refl [.chest] s) (Covers.refl _)).same .bureau (by decide)
@[simp] theorem grantWaiting_watch (n : Nat) (s : State) : (grantWaiting n s).watch = s.watch :=
  (grantWaiting_within n (Within.refl [.chest] s) (Covers.refl _)).same .watch (by decide)
@[simp] theorem grantWaiting_hutch (n : Nat) (s : State) : (grantWaiting n s).hutch = s.hutch :=
  (grantWaiting_within n (Within.refl [.chest] s) (Covers.refl _)).same .hutch (by decide)
@[simp] theorem grantWaiting_jnl (n : Nat) (s : State) : (grantWaiting n s).jnl = s.jnl :=
  (grantWaiting_within n (Within.refl [.chest] s) (Covers.refl _)).same .jnl (by decide)
@[simp] theorem grantWaiting_sta (n : Nat) (s : State) : (grantWaiting n s).sta = s.sta :=
  (grantWaiting_within n (Within.refl [.chest] s) (Covers.refl _)).same .sta (by decide)
@[simp] theorem grantWaiting_mgmt (n : Nat) (s : State) : (grantWaiting n s).mgmt = s.mgmt :=
  (grantWaiting_within n (Within.refl [.chest] s) (Covers.refl _)).same .mgmt (by decide)
@[simp] theorem grantWaiting_power (n : Nat) (s : State) : (grantWaiting n s).power = s.power :=
  (grantWaiting_within n (Within.refl [.chest] s) (Covers.refl _)).same .power (by decide)
@[simp] theorem grantWaiting_link (n : Nat) (s : State) : (grantWaiting n s).link = s.link :=
  (grantWaiting_within n (Within.refl [.chest] s) (Covers.refl _)).same .link (by decide)

@[simp] theorem dropItem_pending (cls queue item : Nat) (s : State) : (dropItem cls queue item s).pending = s.pending :=
  (dropItem_within cls queue item (Within.refl [.chest, .jnl] s) (Covers.refl _)).same .pending (by decide)
@[simp] theorem dropItem_time (cls queue item : Nat) (s : State) : (dropItem cls queue item s).time = s.time :=
  (dropItem_within cls queue item (Within.refl [.chest, .jnl] s) (Covers.refl _)).same .time (by decide)
@[simp] theorem dropItem_port (cls queue item : Nat) (s : State) : (dropItem cls queue item s).port = s.port :=
  (dropItem_within cls queue item (Within.refl [.chest, .jnl] s) (Covers.refl _)).same .port (by decide)
@[simp] theorem dropItem_integ (cls queue item : Nat) (s : State) : (dropItem cls queue item s).integ = s.integ :=
  (dropItem_within cls queue item (Within.refl [.chest, .jnl] s) (Covers.refl _)).same .integ (by decide)
@[simp] theorem dropItem_mem (cls queue item : Nat) (s : State) : (dropItem cls queue item s).mem = s.mem :=
  (dropItem_within cls queue item (Within.refl [.chest, .jnl] s) (Covers.refl _)).same .mem (by decide)
@[simp] theorem dropItem_hub (cls queue item : Nat) (s : State) : (dropItem cls queue item s).hub = s.hub :=
  (dropItem_within cls queue item (Within.refl [.chest, .jnl] s) (Covers.refl _)).same .hub (by decide)
@[simp] theorem dropItem_tenants (cls queue item : Nat) (s : State) : (dropItem cls queue item s).tenants = s.tenants :=
  (dropItem_within cls queue item (Within.refl [.chest, .jnl] s) (Covers.refl _)).same .tenants (by decide)
@[simp] theorem dropItem_contexts (cls queue item : Nat) (s : State) : (dropItem cls queue item s).contexts = s.contexts :=
  (dropItem_within cls queue item (Within.refl [.chest, .jnl] s) (Covers.refl _)).same .contexts (by decide)
@[simp] theorem dropItem_objects (cls queue item : Nat) (s : State) : (dropItem cls queue item s).objects = s.objects :=
  (dropItem_within cls queue item (Within.refl [.chest, .jnl] s) (Covers.refl _)).same .objects (by decide)
@[simp] theorem dropItem_graphs (cls queue item : Nat) (s : State) : (dropItem cls queue item s).graphs = s.graphs :=
  (dropItem_within cls queue item (Within.refl [.chest, .jnl] s) (Covers.refl _)).same .graphs (by decide)
@[simp] theorem dropItem_front (cls queue item : Nat) (s : State) : (dropItem cls queue item s).front = s.front :=
  (dropItem_within cls queue item (Within.refl [.chest, .jnl] s) (Covers.refl _)).same .front (by decide)
@[simp] theorem dropItem_bramble (cls queue item : Nat) (s : State) : (dropItem cls queue item s).bramble = s.bramble :=
  (dropItem_within cls queue item (Within.refl [.chest, .jnl] s) (Covers.refl _)).same .bramble (by decide)
@[simp] theorem dropItem_slices (cls queue item : Nat) (s : State) : (dropItem cls queue item s).slices = s.slices :=
  (dropItem_within cls queue item (Within.refl [.chest, .jnl] s) (Covers.refl _)).same .slices (by decide)
@[simp] theorem dropItem_trestle (cls queue item : Nat) (s : State) : (dropItem cls queue item s).trestle = s.trestle :=
  (dropItem_within cls queue item (Within.refl [.chest, .jnl] s) (Covers.refl _)).same .trestle (by decide)
@[simp] theorem dropItem_sched (cls queue item : Nat) (s : State) : (dropItem cls queue item s).sched = s.sched :=
  (dropItem_within cls queue item (Within.refl [.chest, .jnl] s) (Covers.refl _)).same .sched (by decide)
@[simp] theorem dropItem_wrd (cls queue item : Nat) (s : State) : (dropItem cls queue item s).wrd = s.wrd :=
  (dropItem_within cls queue item (Within.refl [.chest, .jnl] s) (Covers.refl _)).same .wrd (by decide)
@[simp] theorem dropItem_bureau (cls queue item : Nat) (s : State) : (dropItem cls queue item s).bureau = s.bureau :=
  (dropItem_within cls queue item (Within.refl [.chest, .jnl] s) (Covers.refl _)).same .bureau (by decide)
@[simp] theorem dropItem_watch (cls queue item : Nat) (s : State) : (dropItem cls queue item s).watch = s.watch :=
  (dropItem_within cls queue item (Within.refl [.chest, .jnl] s) (Covers.refl _)).same .watch (by decide)
@[simp] theorem dropItem_hutch (cls queue item : Nat) (s : State) : (dropItem cls queue item s).hutch = s.hutch :=
  (dropItem_within cls queue item (Within.refl [.chest, .jnl] s) (Covers.refl _)).same .hutch (by decide)
@[simp] theorem dropItem_sta (cls queue item : Nat) (s : State) : (dropItem cls queue item s).sta = s.sta :=
  (dropItem_within cls queue item (Within.refl [.chest, .jnl] s) (Covers.refl _)).same .sta (by decide)
@[simp] theorem dropItem_mgmt (cls queue item : Nat) (s : State) : (dropItem cls queue item s).mgmt = s.mgmt :=
  (dropItem_within cls queue item (Within.refl [.chest, .jnl] s) (Covers.refl _)).same .mgmt (by decide)
@[simp] theorem dropItem_power (cls queue item : Nat) (s : State) : (dropItem cls queue item s).power = s.power :=
  (dropItem_within cls queue item (Within.refl [.chest, .jnl] s) (Covers.refl _)).same .power (by decide)
@[simp] theorem dropItem_link (cls queue item : Nat) (s : State) : (dropItem cls queue item s).link = s.link :=
  (dropItem_within cls queue item (Within.refl [.chest, .jnl] s) (Covers.refl _)).same .link (by decide)

@[simp] theorem modCells_pending (cls queue : Nat) (f : CellQueue → CellQueue) (s : State) : (modCells cls queue f s).pending = s.pending :=
  (modCells_within cls queue f (Within.refl [.chest] s) (Covers.refl _)).same .pending (by decide)
@[simp] theorem modCells_time (cls queue : Nat) (f : CellQueue → CellQueue) (s : State) : (modCells cls queue f s).time = s.time :=
  (modCells_within cls queue f (Within.refl [.chest] s) (Covers.refl _)).same .time (by decide)
@[simp] theorem modCells_port (cls queue : Nat) (f : CellQueue → CellQueue) (s : State) : (modCells cls queue f s).port = s.port :=
  (modCells_within cls queue f (Within.refl [.chest] s) (Covers.refl _)).same .port (by decide)
@[simp] theorem modCells_integ (cls queue : Nat) (f : CellQueue → CellQueue) (s : State) : (modCells cls queue f s).integ = s.integ :=
  (modCells_within cls queue f (Within.refl [.chest] s) (Covers.refl _)).same .integ (by decide)
@[simp] theorem modCells_mem (cls queue : Nat) (f : CellQueue → CellQueue) (s : State) : (modCells cls queue f s).mem = s.mem :=
  (modCells_within cls queue f (Within.refl [.chest] s) (Covers.refl _)).same .mem (by decide)
@[simp] theorem modCells_hub (cls queue : Nat) (f : CellQueue → CellQueue) (s : State) : (modCells cls queue f s).hub = s.hub :=
  (modCells_within cls queue f (Within.refl [.chest] s) (Covers.refl _)).same .hub (by decide)
@[simp] theorem modCells_tenants (cls queue : Nat) (f : CellQueue → CellQueue) (s : State) : (modCells cls queue f s).tenants = s.tenants :=
  (modCells_within cls queue f (Within.refl [.chest] s) (Covers.refl _)).same .tenants (by decide)
@[simp] theorem modCells_contexts (cls queue : Nat) (f : CellQueue → CellQueue) (s : State) : (modCells cls queue f s).contexts = s.contexts :=
  (modCells_within cls queue f (Within.refl [.chest] s) (Covers.refl _)).same .contexts (by decide)
@[simp] theorem modCells_objects (cls queue : Nat) (f : CellQueue → CellQueue) (s : State) : (modCells cls queue f s).objects = s.objects :=
  (modCells_within cls queue f (Within.refl [.chest] s) (Covers.refl _)).same .objects (by decide)
@[simp] theorem modCells_graphs (cls queue : Nat) (f : CellQueue → CellQueue) (s : State) : (modCells cls queue f s).graphs = s.graphs :=
  (modCells_within cls queue f (Within.refl [.chest] s) (Covers.refl _)).same .graphs (by decide)
@[simp] theorem modCells_front (cls queue : Nat) (f : CellQueue → CellQueue) (s : State) : (modCells cls queue f s).front = s.front :=
  (modCells_within cls queue f (Within.refl [.chest] s) (Covers.refl _)).same .front (by decide)
@[simp] theorem modCells_bramble (cls queue : Nat) (f : CellQueue → CellQueue) (s : State) : (modCells cls queue f s).bramble = s.bramble :=
  (modCells_within cls queue f (Within.refl [.chest] s) (Covers.refl _)).same .bramble (by decide)
@[simp] theorem modCells_slices (cls queue : Nat) (f : CellQueue → CellQueue) (s : State) : (modCells cls queue f s).slices = s.slices :=
  (modCells_within cls queue f (Within.refl [.chest] s) (Covers.refl _)).same .slices (by decide)
@[simp] theorem modCells_trestle (cls queue : Nat) (f : CellQueue → CellQueue) (s : State) : (modCells cls queue f s).trestle = s.trestle :=
  (modCells_within cls queue f (Within.refl [.chest] s) (Covers.refl _)).same .trestle (by decide)
@[simp] theorem modCells_sched (cls queue : Nat) (f : CellQueue → CellQueue) (s : State) : (modCells cls queue f s).sched = s.sched :=
  (modCells_within cls queue f (Within.refl [.chest] s) (Covers.refl _)).same .sched (by decide)
@[simp] theorem modCells_wrd (cls queue : Nat) (f : CellQueue → CellQueue) (s : State) : (modCells cls queue f s).wrd = s.wrd :=
  (modCells_within cls queue f (Within.refl [.chest] s) (Covers.refl _)).same .wrd (by decide)
@[simp] theorem modCells_bureau (cls queue : Nat) (f : CellQueue → CellQueue) (s : State) : (modCells cls queue f s).bureau = s.bureau :=
  (modCells_within cls queue f (Within.refl [.chest] s) (Covers.refl _)).same .bureau (by decide)
@[simp] theorem modCells_watch (cls queue : Nat) (f : CellQueue → CellQueue) (s : State) : (modCells cls queue f s).watch = s.watch :=
  (modCells_within cls queue f (Within.refl [.chest] s) (Covers.refl _)).same .watch (by decide)
@[simp] theorem modCells_hutch (cls queue : Nat) (f : CellQueue → CellQueue) (s : State) : (modCells cls queue f s).hutch = s.hutch :=
  (modCells_within cls queue f (Within.refl [.chest] s) (Covers.refl _)).same .hutch (by decide)
@[simp] theorem modCells_jnl (cls queue : Nat) (f : CellQueue → CellQueue) (s : State) : (modCells cls queue f s).jnl = s.jnl :=
  (modCells_within cls queue f (Within.refl [.chest] s) (Covers.refl _)).same .jnl (by decide)
@[simp] theorem modCells_sta (cls queue : Nat) (f : CellQueue → CellQueue) (s : State) : (modCells cls queue f s).sta = s.sta :=
  (modCells_within cls queue f (Within.refl [.chest] s) (Covers.refl _)).same .sta (by decide)
@[simp] theorem modCells_mgmt (cls queue : Nat) (f : CellQueue → CellQueue) (s : State) : (modCells cls queue f s).mgmt = s.mgmt :=
  (modCells_within cls queue f (Within.refl [.chest] s) (Covers.refl _)).same .mgmt (by decide)
@[simp] theorem modCells_power (cls queue : Nat) (f : CellQueue → CellQueue) (s : State) : (modCells cls queue f s).power = s.power :=
  (modCells_within cls queue f (Within.refl [.chest] s) (Covers.refl _)).same .power (by decide)
@[simp] theorem modCells_link (cls queue : Nat) (f : CellQueue → CellQueue) (s : State) : (modCells cls queue f s).link = s.link :=
  (modCells_within cls queue f (Within.refl [.chest] s) (Covers.refl _)).same .link (by decide)

@[simp] theorem dropCmdCells_pending (k pos op : Nat) (s : State) : (dropCmdCells k pos op s).pending = s.pending :=
  (dropCmdCells_within k pos op (Within.refl [.chest, .jnl] s) (Covers.refl _)).same .pending (by decide)
@[simp] theorem dropCmdCells_time (k pos op : Nat) (s : State) : (dropCmdCells k pos op s).time = s.time :=
  (dropCmdCells_within k pos op (Within.refl [.chest, .jnl] s) (Covers.refl _)).same .time (by decide)
@[simp] theorem dropCmdCells_port (k pos op : Nat) (s : State) : (dropCmdCells k pos op s).port = s.port :=
  (dropCmdCells_within k pos op (Within.refl [.chest, .jnl] s) (Covers.refl _)).same .port (by decide)
@[simp] theorem dropCmdCells_integ (k pos op : Nat) (s : State) : (dropCmdCells k pos op s).integ = s.integ :=
  (dropCmdCells_within k pos op (Within.refl [.chest, .jnl] s) (Covers.refl _)).same .integ (by decide)
@[simp] theorem dropCmdCells_mem (k pos op : Nat) (s : State) : (dropCmdCells k pos op s).mem = s.mem :=
  (dropCmdCells_within k pos op (Within.refl [.chest, .jnl] s) (Covers.refl _)).same .mem (by decide)
@[simp] theorem dropCmdCells_hub (k pos op : Nat) (s : State) : (dropCmdCells k pos op s).hub = s.hub :=
  (dropCmdCells_within k pos op (Within.refl [.chest, .jnl] s) (Covers.refl _)).same .hub (by decide)
@[simp] theorem dropCmdCells_tenants (k pos op : Nat) (s : State) : (dropCmdCells k pos op s).tenants = s.tenants :=
  (dropCmdCells_within k pos op (Within.refl [.chest, .jnl] s) (Covers.refl _)).same .tenants (by decide)
@[simp] theorem dropCmdCells_contexts (k pos op : Nat) (s : State) : (dropCmdCells k pos op s).contexts = s.contexts :=
  (dropCmdCells_within k pos op (Within.refl [.chest, .jnl] s) (Covers.refl _)).same .contexts (by decide)
@[simp] theorem dropCmdCells_objects (k pos op : Nat) (s : State) : (dropCmdCells k pos op s).objects = s.objects :=
  (dropCmdCells_within k pos op (Within.refl [.chest, .jnl] s) (Covers.refl _)).same .objects (by decide)
@[simp] theorem dropCmdCells_graphs (k pos op : Nat) (s : State) : (dropCmdCells k pos op s).graphs = s.graphs :=
  (dropCmdCells_within k pos op (Within.refl [.chest, .jnl] s) (Covers.refl _)).same .graphs (by decide)
@[simp] theorem dropCmdCells_front (k pos op : Nat) (s : State) : (dropCmdCells k pos op s).front = s.front :=
  (dropCmdCells_within k pos op (Within.refl [.chest, .jnl] s) (Covers.refl _)).same .front (by decide)
@[simp] theorem dropCmdCells_bramble (k pos op : Nat) (s : State) : (dropCmdCells k pos op s).bramble = s.bramble :=
  (dropCmdCells_within k pos op (Within.refl [.chest, .jnl] s) (Covers.refl _)).same .bramble (by decide)
@[simp] theorem dropCmdCells_slices (k pos op : Nat) (s : State) : (dropCmdCells k pos op s).slices = s.slices :=
  (dropCmdCells_within k pos op (Within.refl [.chest, .jnl] s) (Covers.refl _)).same .slices (by decide)
@[simp] theorem dropCmdCells_trestle (k pos op : Nat) (s : State) : (dropCmdCells k pos op s).trestle = s.trestle :=
  (dropCmdCells_within k pos op (Within.refl [.chest, .jnl] s) (Covers.refl _)).same .trestle (by decide)
@[simp] theorem dropCmdCells_sched (k pos op : Nat) (s : State) : (dropCmdCells k pos op s).sched = s.sched :=
  (dropCmdCells_within k pos op (Within.refl [.chest, .jnl] s) (Covers.refl _)).same .sched (by decide)
@[simp] theorem dropCmdCells_wrd (k pos op : Nat) (s : State) : (dropCmdCells k pos op s).wrd = s.wrd :=
  (dropCmdCells_within k pos op (Within.refl [.chest, .jnl] s) (Covers.refl _)).same .wrd (by decide)
@[simp] theorem dropCmdCells_bureau (k pos op : Nat) (s : State) : (dropCmdCells k pos op s).bureau = s.bureau :=
  (dropCmdCells_within k pos op (Within.refl [.chest, .jnl] s) (Covers.refl _)).same .bureau (by decide)
@[simp] theorem dropCmdCells_watch (k pos op : Nat) (s : State) : (dropCmdCells k pos op s).watch = s.watch :=
  (dropCmdCells_within k pos op (Within.refl [.chest, .jnl] s) (Covers.refl _)).same .watch (by decide)
@[simp] theorem dropCmdCells_hutch (k pos op : Nat) (s : State) : (dropCmdCells k pos op s).hutch = s.hutch :=
  (dropCmdCells_within k pos op (Within.refl [.chest, .jnl] s) (Covers.refl _)).same .hutch (by decide)
@[simp] theorem dropCmdCells_sta (k pos op : Nat) (s : State) : (dropCmdCells k pos op s).sta = s.sta :=
  (dropCmdCells_within k pos op (Within.refl [.chest, .jnl] s) (Covers.refl _)).same .sta (by decide)
@[simp] theorem dropCmdCells_mgmt (k pos op : Nat) (s : State) : (dropCmdCells k pos op s).mgmt = s.mgmt :=
  (dropCmdCells_within k pos op (Within.refl [.chest, .jnl] s) (Covers.refl _)).same .mgmt (by decide)
@[simp] theorem dropCmdCells_power (k pos op : Nat) (s : State) : (dropCmdCells k pos op s).power = s.power :=
  (dropCmdCells_within k pos op (Within.refl [.chest, .jnl] s) (Covers.refl _)).same .power (by decide)
@[simp] theorem dropCmdCells_link (k pos op : Nat) (s : State) : (dropCmdCells k pos op s).link = s.link :=
  (dropCmdCells_within k pos op (Within.refl [.chest, .jnl] s) (Covers.refl _)).same .link (by decide)

@[simp] theorem takeOrWait_pending (r : CellReq) (s : State) : (takeOrWait r s).pending = s.pending :=
  (takeOrWait_within r (Within.refl [.chest, .jnl] s) (Covers.refl _)).same .pending (by decide)
@[simp] theorem takeOrWait_time (r : CellReq) (s : State) : (takeOrWait r s).time = s.time :=
  (takeOrWait_within r (Within.refl [.chest, .jnl] s) (Covers.refl _)).same .time (by decide)
@[simp] theorem takeOrWait_port (r : CellReq) (s : State) : (takeOrWait r s).port = s.port :=
  (takeOrWait_within r (Within.refl [.chest, .jnl] s) (Covers.refl _)).same .port (by decide)
@[simp] theorem takeOrWait_integ (r : CellReq) (s : State) : (takeOrWait r s).integ = s.integ :=
  (takeOrWait_within r (Within.refl [.chest, .jnl] s) (Covers.refl _)).same .integ (by decide)
@[simp] theorem takeOrWait_mem (r : CellReq) (s : State) : (takeOrWait r s).mem = s.mem :=
  (takeOrWait_within r (Within.refl [.chest, .jnl] s) (Covers.refl _)).same .mem (by decide)
@[simp] theorem takeOrWait_hub (r : CellReq) (s : State) : (takeOrWait r s).hub = s.hub :=
  (takeOrWait_within r (Within.refl [.chest, .jnl] s) (Covers.refl _)).same .hub (by decide)
@[simp] theorem takeOrWait_tenants (r : CellReq) (s : State) : (takeOrWait r s).tenants = s.tenants :=
  (takeOrWait_within r (Within.refl [.chest, .jnl] s) (Covers.refl _)).same .tenants (by decide)
@[simp] theorem takeOrWait_contexts (r : CellReq) (s : State) : (takeOrWait r s).contexts = s.contexts :=
  (takeOrWait_within r (Within.refl [.chest, .jnl] s) (Covers.refl _)).same .contexts (by decide)
@[simp] theorem takeOrWait_objects (r : CellReq) (s : State) : (takeOrWait r s).objects = s.objects :=
  (takeOrWait_within r (Within.refl [.chest, .jnl] s) (Covers.refl _)).same .objects (by decide)
@[simp] theorem takeOrWait_graphs (r : CellReq) (s : State) : (takeOrWait r s).graphs = s.graphs :=
  (takeOrWait_within r (Within.refl [.chest, .jnl] s) (Covers.refl _)).same .graphs (by decide)
@[simp] theorem takeOrWait_front (r : CellReq) (s : State) : (takeOrWait r s).front = s.front :=
  (takeOrWait_within r (Within.refl [.chest, .jnl] s) (Covers.refl _)).same .front (by decide)
@[simp] theorem takeOrWait_bramble (r : CellReq) (s : State) : (takeOrWait r s).bramble = s.bramble :=
  (takeOrWait_within r (Within.refl [.chest, .jnl] s) (Covers.refl _)).same .bramble (by decide)
@[simp] theorem takeOrWait_slices (r : CellReq) (s : State) : (takeOrWait r s).slices = s.slices :=
  (takeOrWait_within r (Within.refl [.chest, .jnl] s) (Covers.refl _)).same .slices (by decide)
@[simp] theorem takeOrWait_trestle (r : CellReq) (s : State) : (takeOrWait r s).trestle = s.trestle :=
  (takeOrWait_within r (Within.refl [.chest, .jnl] s) (Covers.refl _)).same .trestle (by decide)
@[simp] theorem takeOrWait_sched (r : CellReq) (s : State) : (takeOrWait r s).sched = s.sched :=
  (takeOrWait_within r (Within.refl [.chest, .jnl] s) (Covers.refl _)).same .sched (by decide)
@[simp] theorem takeOrWait_wrd (r : CellReq) (s : State) : (takeOrWait r s).wrd = s.wrd :=
  (takeOrWait_within r (Within.refl [.chest, .jnl] s) (Covers.refl _)).same .wrd (by decide)
@[simp] theorem takeOrWait_bureau (r : CellReq) (s : State) : (takeOrWait r s).bureau = s.bureau :=
  (takeOrWait_within r (Within.refl [.chest, .jnl] s) (Covers.refl _)).same .bureau (by decide)
@[simp] theorem takeOrWait_watch (r : CellReq) (s : State) : (takeOrWait r s).watch = s.watch :=
  (takeOrWait_within r (Within.refl [.chest, .jnl] s) (Covers.refl _)).same .watch (by decide)
@[simp] theorem takeOrWait_hutch (r : CellReq) (s : State) : (takeOrWait r s).hutch = s.hutch :=
  (takeOrWait_within r (Within.refl [.chest, .jnl] s) (Covers.refl _)).same .hutch (by decide)
@[simp] theorem takeOrWait_sta (r : CellReq) (s : State) : (takeOrWait r s).sta = s.sta :=
  (takeOrWait_within r (Within.refl [.chest, .jnl] s) (Covers.refl _)).same .sta (by decide)
@[simp] theorem takeOrWait_mgmt (r : CellReq) (s : State) : (takeOrWait r s).mgmt = s.mgmt :=
  (takeOrWait_within r (Within.refl [.chest, .jnl] s) (Covers.refl _)).same .mgmt (by decide)
@[simp] theorem takeOrWait_power (r : CellReq) (s : State) : (takeOrWait r s).power = s.power :=
  (takeOrWait_within r (Within.refl [.chest, .jnl] s) (Covers.refl _)).same .power (by decide)
@[simp] theorem takeOrWait_link (r : CellReq) (s : State) : (takeOrWait r s).link = s.link :=
  (takeOrWait_within r (Within.refl [.chest, .jnl] s) (Covers.refl _)).same .link (by decide)

@[simp] theorem fillItem_pending (cls queue item : Nat) (bs : List Byte) (s : State) : (fillItem cls queue item bs s).pending = s.pending :=
  (fillItem_within cls queue item bs (Within.refl [.chest] s) (Covers.refl _)).same .pending (by decide)
@[simp] theorem fillItem_time (cls queue item : Nat) (bs : List Byte) (s : State) : (fillItem cls queue item bs s).time = s.time :=
  (fillItem_within cls queue item bs (Within.refl [.chest] s) (Covers.refl _)).same .time (by decide)
@[simp] theorem fillItem_port (cls queue item : Nat) (bs : List Byte) (s : State) : (fillItem cls queue item bs s).port = s.port :=
  (fillItem_within cls queue item bs (Within.refl [.chest] s) (Covers.refl _)).same .port (by decide)
@[simp] theorem fillItem_integ (cls queue item : Nat) (bs : List Byte) (s : State) : (fillItem cls queue item bs s).integ = s.integ :=
  (fillItem_within cls queue item bs (Within.refl [.chest] s) (Covers.refl _)).same .integ (by decide)
@[simp] theorem fillItem_mem (cls queue item : Nat) (bs : List Byte) (s : State) : (fillItem cls queue item bs s).mem = s.mem :=
  (fillItem_within cls queue item bs (Within.refl [.chest] s) (Covers.refl _)).same .mem (by decide)
@[simp] theorem fillItem_hub (cls queue item : Nat) (bs : List Byte) (s : State) : (fillItem cls queue item bs s).hub = s.hub :=
  (fillItem_within cls queue item bs (Within.refl [.chest] s) (Covers.refl _)).same .hub (by decide)
@[simp] theorem fillItem_tenants (cls queue item : Nat) (bs : List Byte) (s : State) : (fillItem cls queue item bs s).tenants = s.tenants :=
  (fillItem_within cls queue item bs (Within.refl [.chest] s) (Covers.refl _)).same .tenants (by decide)
@[simp] theorem fillItem_contexts (cls queue item : Nat) (bs : List Byte) (s : State) : (fillItem cls queue item bs s).contexts = s.contexts :=
  (fillItem_within cls queue item bs (Within.refl [.chest] s) (Covers.refl _)).same .contexts (by decide)
@[simp] theorem fillItem_objects (cls queue item : Nat) (bs : List Byte) (s : State) : (fillItem cls queue item bs s).objects = s.objects :=
  (fillItem_within cls queue item bs (Within.refl [.chest] s) (Covers.refl _)).same .objects (by decide)
@[simp] theorem fillItem_graphs (cls queue item : Nat) (bs : List Byte) (s : State) : (fillItem cls queue item bs s).graphs = s.graphs :=
  (fillItem_within cls queue item bs (Within.refl [.chest] s) (Covers.refl _)).same .graphs (by decide)
@[simp] theorem fillItem_front (cls queue item : Nat) (bs : List Byte) (s : State) : (fillItem cls queue item bs s).front = s.front :=
  (fillItem_within cls queue item bs (Within.refl [.chest] s) (Covers.refl _)).same .front (by decide)
@[simp] theorem fillItem_bramble (cls queue item : Nat) (bs : List Byte) (s : State) : (fillItem cls queue item bs s).bramble = s.bramble :=
  (fillItem_within cls queue item bs (Within.refl [.chest] s) (Covers.refl _)).same .bramble (by decide)
@[simp] theorem fillItem_slices (cls queue item : Nat) (bs : List Byte) (s : State) : (fillItem cls queue item bs s).slices = s.slices :=
  (fillItem_within cls queue item bs (Within.refl [.chest] s) (Covers.refl _)).same .slices (by decide)
@[simp] theorem fillItem_trestle (cls queue item : Nat) (bs : List Byte) (s : State) : (fillItem cls queue item bs s).trestle = s.trestle :=
  (fillItem_within cls queue item bs (Within.refl [.chest] s) (Covers.refl _)).same .trestle (by decide)
@[simp] theorem fillItem_sched (cls queue item : Nat) (bs : List Byte) (s : State) : (fillItem cls queue item bs s).sched = s.sched :=
  (fillItem_within cls queue item bs (Within.refl [.chest] s) (Covers.refl _)).same .sched (by decide)
@[simp] theorem fillItem_wrd (cls queue item : Nat) (bs : List Byte) (s : State) : (fillItem cls queue item bs s).wrd = s.wrd :=
  (fillItem_within cls queue item bs (Within.refl [.chest] s) (Covers.refl _)).same .wrd (by decide)
@[simp] theorem fillItem_bureau (cls queue item : Nat) (bs : List Byte) (s : State) : (fillItem cls queue item bs s).bureau = s.bureau :=
  (fillItem_within cls queue item bs (Within.refl [.chest] s) (Covers.refl _)).same .bureau (by decide)
@[simp] theorem fillItem_watch (cls queue item : Nat) (bs : List Byte) (s : State) : (fillItem cls queue item bs s).watch = s.watch :=
  (fillItem_within cls queue item bs (Within.refl [.chest] s) (Covers.refl _)).same .watch (by decide)
@[simp] theorem fillItem_hutch (cls queue item : Nat) (bs : List Byte) (s : State) : (fillItem cls queue item bs s).hutch = s.hutch :=
  (fillItem_within cls queue item bs (Within.refl [.chest] s) (Covers.refl _)).same .hutch (by decide)
@[simp] theorem fillItem_jnl (cls queue item : Nat) (bs : List Byte) (s : State) : (fillItem cls queue item bs s).jnl = s.jnl :=
  (fillItem_within cls queue item bs (Within.refl [.chest] s) (Covers.refl _)).same .jnl (by decide)
@[simp] theorem fillItem_sta (cls queue item : Nat) (bs : List Byte) (s : State) : (fillItem cls queue item bs s).sta = s.sta :=
  (fillItem_within cls queue item bs (Within.refl [.chest] s) (Covers.refl _)).same .sta (by decide)
@[simp] theorem fillItem_mgmt (cls queue item : Nat) (bs : List Byte) (s : State) : (fillItem cls queue item bs s).mgmt = s.mgmt :=
  (fillItem_within cls queue item bs (Within.refl [.chest] s) (Covers.refl _)).same .mgmt (by decide)
@[simp] theorem fillItem_power (cls queue item : Nat) (bs : List Byte) (s : State) : (fillItem cls queue item bs s).power = s.power :=
  (fillItem_within cls queue item bs (Within.refl [.chest] s) (Covers.refl _)).same .power (by decide)
@[simp] theorem fillItem_link (cls queue item : Nat) (bs : List Byte) (s : State) : (fillItem cls queue item bs s).link = s.link :=
  (fillItem_within cls queue item bs (Within.refl [.chest] s) (Covers.refl _)).same .link (by decide)

@[simp] theorem consumeItem_pending (cls queue item : Nat) (s : State) : (consumeItem cls queue item s).pending = s.pending :=
  (consumeItem_within cls queue item (Within.refl [.chest, .jnl] s) (Covers.refl _)).same .pending (by decide)
@[simp] theorem consumeItem_time (cls queue item : Nat) (s : State) : (consumeItem cls queue item s).time = s.time :=
  (consumeItem_within cls queue item (Within.refl [.chest, .jnl] s) (Covers.refl _)).same .time (by decide)
@[simp] theorem consumeItem_port (cls queue item : Nat) (s : State) : (consumeItem cls queue item s).port = s.port :=
  (consumeItem_within cls queue item (Within.refl [.chest, .jnl] s) (Covers.refl _)).same .port (by decide)
@[simp] theorem consumeItem_integ (cls queue item : Nat) (s : State) : (consumeItem cls queue item s).integ = s.integ :=
  (consumeItem_within cls queue item (Within.refl [.chest, .jnl] s) (Covers.refl _)).same .integ (by decide)
@[simp] theorem consumeItem_mem (cls queue item : Nat) (s : State) : (consumeItem cls queue item s).mem = s.mem :=
  (consumeItem_within cls queue item (Within.refl [.chest, .jnl] s) (Covers.refl _)).same .mem (by decide)
@[simp] theorem consumeItem_hub (cls queue item : Nat) (s : State) : (consumeItem cls queue item s).hub = s.hub :=
  (consumeItem_within cls queue item (Within.refl [.chest, .jnl] s) (Covers.refl _)).same .hub (by decide)
@[simp] theorem consumeItem_tenants (cls queue item : Nat) (s : State) : (consumeItem cls queue item s).tenants = s.tenants :=
  (consumeItem_within cls queue item (Within.refl [.chest, .jnl] s) (Covers.refl _)).same .tenants (by decide)
@[simp] theorem consumeItem_contexts (cls queue item : Nat) (s : State) : (consumeItem cls queue item s).contexts = s.contexts :=
  (consumeItem_within cls queue item (Within.refl [.chest, .jnl] s) (Covers.refl _)).same .contexts (by decide)
@[simp] theorem consumeItem_objects (cls queue item : Nat) (s : State) : (consumeItem cls queue item s).objects = s.objects :=
  (consumeItem_within cls queue item (Within.refl [.chest, .jnl] s) (Covers.refl _)).same .objects (by decide)
@[simp] theorem consumeItem_graphs (cls queue item : Nat) (s : State) : (consumeItem cls queue item s).graphs = s.graphs :=
  (consumeItem_within cls queue item (Within.refl [.chest, .jnl] s) (Covers.refl _)).same .graphs (by decide)
@[simp] theorem consumeItem_front (cls queue item : Nat) (s : State) : (consumeItem cls queue item s).front = s.front :=
  (consumeItem_within cls queue item (Within.refl [.chest, .jnl] s) (Covers.refl _)).same .front (by decide)
@[simp] theorem consumeItem_bramble (cls queue item : Nat) (s : State) : (consumeItem cls queue item s).bramble = s.bramble :=
  (consumeItem_within cls queue item (Within.refl [.chest, .jnl] s) (Covers.refl _)).same .bramble (by decide)
@[simp] theorem consumeItem_slices (cls queue item : Nat) (s : State) : (consumeItem cls queue item s).slices = s.slices :=
  (consumeItem_within cls queue item (Within.refl [.chest, .jnl] s) (Covers.refl _)).same .slices (by decide)
@[simp] theorem consumeItem_trestle (cls queue item : Nat) (s : State) : (consumeItem cls queue item s).trestle = s.trestle :=
  (consumeItem_within cls queue item (Within.refl [.chest, .jnl] s) (Covers.refl _)).same .trestle (by decide)
@[simp] theorem consumeItem_sched (cls queue item : Nat) (s : State) : (consumeItem cls queue item s).sched = s.sched :=
  (consumeItem_within cls queue item (Within.refl [.chest, .jnl] s) (Covers.refl _)).same .sched (by decide)
@[simp] theorem consumeItem_wrd (cls queue item : Nat) (s : State) : (consumeItem cls queue item s).wrd = s.wrd :=
  (consumeItem_within cls queue item (Within.refl [.chest, .jnl] s) (Covers.refl _)).same .wrd (by decide)
@[simp] theorem consumeItem_bureau (cls queue item : Nat) (s : State) : (consumeItem cls queue item s).bureau = s.bureau :=
  (consumeItem_within cls queue item (Within.refl [.chest, .jnl] s) (Covers.refl _)).same .bureau (by decide)
@[simp] theorem consumeItem_watch (cls queue item : Nat) (s : State) : (consumeItem cls queue item s).watch = s.watch :=
  (consumeItem_within cls queue item (Within.refl [.chest, .jnl] s) (Covers.refl _)).same .watch (by decide)
@[simp] theorem consumeItem_hutch (cls queue item : Nat) (s : State) : (consumeItem cls queue item s).hutch = s.hutch :=
  (consumeItem_within cls queue item (Within.refl [.chest, .jnl] s) (Covers.refl _)).same .hutch (by decide)
@[simp] theorem consumeItem_sta (cls queue item : Nat) (s : State) : (consumeItem cls queue item s).sta = s.sta :=
  (consumeItem_within cls queue item (Within.refl [.chest, .jnl] s) (Covers.refl _)).same .sta (by decide)
@[simp] theorem consumeItem_mgmt (cls queue item : Nat) (s : State) : (consumeItem cls queue item s).mgmt = s.mgmt :=
  (consumeItem_within cls queue item (Within.refl [.chest, .jnl] s) (Covers.refl _)).same .mgmt (by decide)
@[simp] theorem consumeItem_power (cls queue item : Nat) (s : State) : (consumeItem cls queue item s).power = s.power :=
  (consumeItem_within cls queue item (Within.refl [.chest, .jnl] s) (Covers.refl _)).same .power (by decide)
@[simp] theorem consumeItem_link (cls queue item : Nat) (s : State) : (consumeItem cls queue item s).link = s.link :=
  (consumeItem_within cls queue item (Within.refl [.chest, .jnl] s) (Covers.refl _)).same .link (by decide)

@[simp] theorem settleChest_pending (s : State) : (settleChest s).pending = s.pending :=
  (settleChest_within (Within.refl [.chest, .jnl] s) (Covers.refl _)).same .pending (by decide)
@[simp] theorem settleChest_time (s : State) : (settleChest s).time = s.time :=
  (settleChest_within (Within.refl [.chest, .jnl] s) (Covers.refl _)).same .time (by decide)
@[simp] theorem settleChest_port (s : State) : (settleChest s).port = s.port :=
  (settleChest_within (Within.refl [.chest, .jnl] s) (Covers.refl _)).same .port (by decide)
@[simp] theorem settleChest_integ (s : State) : (settleChest s).integ = s.integ :=
  (settleChest_within (Within.refl [.chest, .jnl] s) (Covers.refl _)).same .integ (by decide)
@[simp] theorem settleChest_mem (s : State) : (settleChest s).mem = s.mem :=
  (settleChest_within (Within.refl [.chest, .jnl] s) (Covers.refl _)).same .mem (by decide)
@[simp] theorem settleChest_hub (s : State) : (settleChest s).hub = s.hub :=
  (settleChest_within (Within.refl [.chest, .jnl] s) (Covers.refl _)).same .hub (by decide)
@[simp] theorem settleChest_tenants (s : State) : (settleChest s).tenants = s.tenants :=
  (settleChest_within (Within.refl [.chest, .jnl] s) (Covers.refl _)).same .tenants (by decide)
@[simp] theorem settleChest_contexts (s : State) : (settleChest s).contexts = s.contexts :=
  (settleChest_within (Within.refl [.chest, .jnl] s) (Covers.refl _)).same .contexts (by decide)
@[simp] theorem settleChest_objects (s : State) : (settleChest s).objects = s.objects :=
  (settleChest_within (Within.refl [.chest, .jnl] s) (Covers.refl _)).same .objects (by decide)
@[simp] theorem settleChest_graphs (s : State) : (settleChest s).graphs = s.graphs :=
  (settleChest_within (Within.refl [.chest, .jnl] s) (Covers.refl _)).same .graphs (by decide)
@[simp] theorem settleChest_front (s : State) : (settleChest s).front = s.front :=
  (settleChest_within (Within.refl [.chest, .jnl] s) (Covers.refl _)).same .front (by decide)
@[simp] theorem settleChest_bramble (s : State) : (settleChest s).bramble = s.bramble :=
  (settleChest_within (Within.refl [.chest, .jnl] s) (Covers.refl _)).same .bramble (by decide)
@[simp] theorem settleChest_slices (s : State) : (settleChest s).slices = s.slices :=
  (settleChest_within (Within.refl [.chest, .jnl] s) (Covers.refl _)).same .slices (by decide)
@[simp] theorem settleChest_trestle (s : State) : (settleChest s).trestle = s.trestle :=
  (settleChest_within (Within.refl [.chest, .jnl] s) (Covers.refl _)).same .trestle (by decide)
@[simp] theorem settleChest_sched (s : State) : (settleChest s).sched = s.sched :=
  (settleChest_within (Within.refl [.chest, .jnl] s) (Covers.refl _)).same .sched (by decide)
@[simp] theorem settleChest_wrd (s : State) : (settleChest s).wrd = s.wrd :=
  (settleChest_within (Within.refl [.chest, .jnl] s) (Covers.refl _)).same .wrd (by decide)
@[simp] theorem settleChest_bureau (s : State) : (settleChest s).bureau = s.bureau :=
  (settleChest_within (Within.refl [.chest, .jnl] s) (Covers.refl _)).same .bureau (by decide)
@[simp] theorem settleChest_watch (s : State) : (settleChest s).watch = s.watch :=
  (settleChest_within (Within.refl [.chest, .jnl] s) (Covers.refl _)).same .watch (by decide)
@[simp] theorem settleChest_hutch (s : State) : (settleChest s).hutch = s.hutch :=
  (settleChest_within (Within.refl [.chest, .jnl] s) (Covers.refl _)).same .hutch (by decide)
@[simp] theorem settleChest_sta (s : State) : (settleChest s).sta = s.sta :=
  (settleChest_within (Within.refl [.chest, .jnl] s) (Covers.refl _)).same .sta (by decide)
@[simp] theorem settleChest_mgmt (s : State) : (settleChest s).mgmt = s.mgmt :=
  (settleChest_within (Within.refl [.chest, .jnl] s) (Covers.refl _)).same .mgmt (by decide)
@[simp] theorem settleChest_power (s : State) : (settleChest s).power = s.power :=
  (settleChest_within (Within.refl [.chest, .jnl] s) (Covers.refl _)).same .power (by decide)
@[simp] theorem settleChest_link (s : State) : (settleChest s).link = s.link :=
  (settleChest_within (Within.refl [.chest, .jnl] s) (Covers.refl _)).same .link (by decide)

@[simp] theorem portWrite_pending (key : Option Nat) (via : Via) (l : Loc) (bs : List Byte) (s : State) : (portWrite key via l bs s).pending = s.pending :=
  (portWrite_within key via l bs (Within.refl [.port, .mem] s) (Covers.refl _)).same .pending (by decide)
@[simp] theorem portWrite_time (key : Option Nat) (via : Via) (l : Loc) (bs : List Byte) (s : State) : (portWrite key via l bs s).time = s.time :=
  (portWrite_within key via l bs (Within.refl [.port, .mem] s) (Covers.refl _)).same .time (by decide)
@[simp] theorem portWrite_integ (key : Option Nat) (via : Via) (l : Loc) (bs : List Byte) (s : State) : (portWrite key via l bs s).integ = s.integ :=
  (portWrite_within key via l bs (Within.refl [.port, .mem] s) (Covers.refl _)).same .integ (by decide)
@[simp] theorem portWrite_hub (key : Option Nat) (via : Via) (l : Loc) (bs : List Byte) (s : State) : (portWrite key via l bs s).hub = s.hub :=
  (portWrite_within key via l bs (Within.refl [.port, .mem] s) (Covers.refl _)).same .hub (by decide)
@[simp] theorem portWrite_tenants (key : Option Nat) (via : Via) (l : Loc) (bs : List Byte) (s : State) : (portWrite key via l bs s).tenants = s.tenants :=
  (portWrite_within key via l bs (Within.refl [.port, .mem] s) (Covers.refl _)).same .tenants (by decide)
@[simp] theorem portWrite_contexts (key : Option Nat) (via : Via) (l : Loc) (bs : List Byte) (s : State) : (portWrite key via l bs s).contexts = s.contexts :=
  (portWrite_within key via l bs (Within.refl [.port, .mem] s) (Covers.refl _)).same .contexts (by decide)
@[simp] theorem portWrite_objects (key : Option Nat) (via : Via) (l : Loc) (bs : List Byte) (s : State) : (portWrite key via l bs s).objects = s.objects :=
  (portWrite_within key via l bs (Within.refl [.port, .mem] s) (Covers.refl _)).same .objects (by decide)
@[simp] theorem portWrite_graphs (key : Option Nat) (via : Via) (l : Loc) (bs : List Byte) (s : State) : (portWrite key via l bs s).graphs = s.graphs :=
  (portWrite_within key via l bs (Within.refl [.port, .mem] s) (Covers.refl _)).same .graphs (by decide)
@[simp] theorem portWrite_front (key : Option Nat) (via : Via) (l : Loc) (bs : List Byte) (s : State) : (portWrite key via l bs s).front = s.front :=
  (portWrite_within key via l bs (Within.refl [.port, .mem] s) (Covers.refl _)).same .front (by decide)
@[simp] theorem portWrite_bramble (key : Option Nat) (via : Via) (l : Loc) (bs : List Byte) (s : State) : (portWrite key via l bs s).bramble = s.bramble :=
  (portWrite_within key via l bs (Within.refl [.port, .mem] s) (Covers.refl _)).same .bramble (by decide)
@[simp] theorem portWrite_slices (key : Option Nat) (via : Via) (l : Loc) (bs : List Byte) (s : State) : (portWrite key via l bs s).slices = s.slices :=
  (portWrite_within key via l bs (Within.refl [.port, .mem] s) (Covers.refl _)).same .slices (by decide)
@[simp] theorem portWrite_trestle (key : Option Nat) (via : Via) (l : Loc) (bs : List Byte) (s : State) : (portWrite key via l bs s).trestle = s.trestle :=
  (portWrite_within key via l bs (Within.refl [.port, .mem] s) (Covers.refl _)).same .trestle (by decide)
@[simp] theorem portWrite_sched (key : Option Nat) (via : Via) (l : Loc) (bs : List Byte) (s : State) : (portWrite key via l bs s).sched = s.sched :=
  (portWrite_within key via l bs (Within.refl [.port, .mem] s) (Covers.refl _)).same .sched (by decide)
@[simp] theorem portWrite_wrd (key : Option Nat) (via : Via) (l : Loc) (bs : List Byte) (s : State) : (portWrite key via l bs s).wrd = s.wrd :=
  (portWrite_within key via l bs (Within.refl [.port, .mem] s) (Covers.refl _)).same .wrd (by decide)
@[simp] theorem portWrite_chest (key : Option Nat) (via : Via) (l : Loc) (bs : List Byte) (s : State) : (portWrite key via l bs s).chest = s.chest :=
  (portWrite_within key via l bs (Within.refl [.port, .mem] s) (Covers.refl _)).same .chest (by decide)
@[simp] theorem portWrite_bureau (key : Option Nat) (via : Via) (l : Loc) (bs : List Byte) (s : State) : (portWrite key via l bs s).bureau = s.bureau :=
  (portWrite_within key via l bs (Within.refl [.port, .mem] s) (Covers.refl _)).same .bureau (by decide)
@[simp] theorem portWrite_watch (key : Option Nat) (via : Via) (l : Loc) (bs : List Byte) (s : State) : (portWrite key via l bs s).watch = s.watch :=
  (portWrite_within key via l bs (Within.refl [.port, .mem] s) (Covers.refl _)).same .watch (by decide)
@[simp] theorem portWrite_hutch (key : Option Nat) (via : Via) (l : Loc) (bs : List Byte) (s : State) : (portWrite key via l bs s).hutch = s.hutch :=
  (portWrite_within key via l bs (Within.refl [.port, .mem] s) (Covers.refl _)).same .hutch (by decide)
@[simp] theorem portWrite_jnl (key : Option Nat) (via : Via) (l : Loc) (bs : List Byte) (s : State) : (portWrite key via l bs s).jnl = s.jnl :=
  (portWrite_within key via l bs (Within.refl [.port, .mem] s) (Covers.refl _)).same .jnl (by decide)
@[simp] theorem portWrite_sta (key : Option Nat) (via : Via) (l : Loc) (bs : List Byte) (s : State) : (portWrite key via l bs s).sta = s.sta :=
  (portWrite_within key via l bs (Within.refl [.port, .mem] s) (Covers.refl _)).same .sta (by decide)
@[simp] theorem portWrite_mgmt (key : Option Nat) (via : Via) (l : Loc) (bs : List Byte) (s : State) : (portWrite key via l bs s).mgmt = s.mgmt :=
  (portWrite_within key via l bs (Within.refl [.port, .mem] s) (Covers.refl _)).same .mgmt (by decide)
@[simp] theorem portWrite_power (key : Option Nat) (via : Via) (l : Loc) (bs : List Byte) (s : State) : (portWrite key via l bs s).power = s.power :=
  (portWrite_within key via l bs (Within.refl [.port, .mem] s) (Covers.refl _)).same .power (by decide)
@[simp] theorem portWrite_link (key : Option Nat) (via : Via) (l : Loc) (bs : List Byte) (s : State) : (portWrite key via l bs s).link = s.link :=
  (portWrite_within key via l bs (Within.refl [.port, .mem] s) (Covers.refl _)).same .link (by decide)

@[simp] theorem writeBy_pending (via : Via) (c : Option Nat) (l : Loc) (bs : List Byte) (s : State) : (writeBy via c l bs s).pending = s.pending :=
  (writeBy_within via c l bs (Within.refl [.port, .mem, .hub] s) (Covers.refl _)).same .pending (by decide)
@[simp] theorem writeBy_time (via : Via) (c : Option Nat) (l : Loc) (bs : List Byte) (s : State) : (writeBy via c l bs s).time = s.time :=
  (writeBy_within via c l bs (Within.refl [.port, .mem, .hub] s) (Covers.refl _)).same .time (by decide)
@[simp] theorem writeBy_integ (via : Via) (c : Option Nat) (l : Loc) (bs : List Byte) (s : State) : (writeBy via c l bs s).integ = s.integ :=
  (writeBy_within via c l bs (Within.refl [.port, .mem, .hub] s) (Covers.refl _)).same .integ (by decide)
@[simp] theorem writeBy_tenants (via : Via) (c : Option Nat) (l : Loc) (bs : List Byte) (s : State) : (writeBy via c l bs s).tenants = s.tenants :=
  (writeBy_within via c l bs (Within.refl [.port, .mem, .hub] s) (Covers.refl _)).same .tenants (by decide)
@[simp] theorem writeBy_contexts (via : Via) (c : Option Nat) (l : Loc) (bs : List Byte) (s : State) : (writeBy via c l bs s).contexts = s.contexts :=
  (writeBy_within via c l bs (Within.refl [.port, .mem, .hub] s) (Covers.refl _)).same .contexts (by decide)
@[simp] theorem writeBy_objects (via : Via) (c : Option Nat) (l : Loc) (bs : List Byte) (s : State) : (writeBy via c l bs s).objects = s.objects :=
  (writeBy_within via c l bs (Within.refl [.port, .mem, .hub] s) (Covers.refl _)).same .objects (by decide)
@[simp] theorem writeBy_graphs (via : Via) (c : Option Nat) (l : Loc) (bs : List Byte) (s : State) : (writeBy via c l bs s).graphs = s.graphs :=
  (writeBy_within via c l bs (Within.refl [.port, .mem, .hub] s) (Covers.refl _)).same .graphs (by decide)
@[simp] theorem writeBy_front (via : Via) (c : Option Nat) (l : Loc) (bs : List Byte) (s : State) : (writeBy via c l bs s).front = s.front :=
  (writeBy_within via c l bs (Within.refl [.port, .mem, .hub] s) (Covers.refl _)).same .front (by decide)
@[simp] theorem writeBy_bramble (via : Via) (c : Option Nat) (l : Loc) (bs : List Byte) (s : State) : (writeBy via c l bs s).bramble = s.bramble :=
  (writeBy_within via c l bs (Within.refl [.port, .mem, .hub] s) (Covers.refl _)).same .bramble (by decide)
@[simp] theorem writeBy_slices (via : Via) (c : Option Nat) (l : Loc) (bs : List Byte) (s : State) : (writeBy via c l bs s).slices = s.slices :=
  (writeBy_within via c l bs (Within.refl [.port, .mem, .hub] s) (Covers.refl _)).same .slices (by decide)
@[simp] theorem writeBy_trestle (via : Via) (c : Option Nat) (l : Loc) (bs : List Byte) (s : State) : (writeBy via c l bs s).trestle = s.trestle :=
  (writeBy_within via c l bs (Within.refl [.port, .mem, .hub] s) (Covers.refl _)).same .trestle (by decide)
@[simp] theorem writeBy_sched (via : Via) (c : Option Nat) (l : Loc) (bs : List Byte) (s : State) : (writeBy via c l bs s).sched = s.sched :=
  (writeBy_within via c l bs (Within.refl [.port, .mem, .hub] s) (Covers.refl _)).same .sched (by decide)
@[simp] theorem writeBy_wrd (via : Via) (c : Option Nat) (l : Loc) (bs : List Byte) (s : State) : (writeBy via c l bs s).wrd = s.wrd :=
  (writeBy_within via c l bs (Within.refl [.port, .mem, .hub] s) (Covers.refl _)).same .wrd (by decide)
@[simp] theorem writeBy_chest (via : Via) (c : Option Nat) (l : Loc) (bs : List Byte) (s : State) : (writeBy via c l bs s).chest = s.chest :=
  (writeBy_within via c l bs (Within.refl [.port, .mem, .hub] s) (Covers.refl _)).same .chest (by decide)
@[simp] theorem writeBy_bureau (via : Via) (c : Option Nat) (l : Loc) (bs : List Byte) (s : State) : (writeBy via c l bs s).bureau = s.bureau :=
  (writeBy_within via c l bs (Within.refl [.port, .mem, .hub] s) (Covers.refl _)).same .bureau (by decide)
@[simp] theorem writeBy_watch (via : Via) (c : Option Nat) (l : Loc) (bs : List Byte) (s : State) : (writeBy via c l bs s).watch = s.watch :=
  (writeBy_within via c l bs (Within.refl [.port, .mem, .hub] s) (Covers.refl _)).same .watch (by decide)
@[simp] theorem writeBy_hutch (via : Via) (c : Option Nat) (l : Loc) (bs : List Byte) (s : State) : (writeBy via c l bs s).hutch = s.hutch :=
  (writeBy_within via c l bs (Within.refl [.port, .mem, .hub] s) (Covers.refl _)).same .hutch (by decide)
@[simp] theorem writeBy_jnl (via : Via) (c : Option Nat) (l : Loc) (bs : List Byte) (s : State) : (writeBy via c l bs s).jnl = s.jnl :=
  (writeBy_within via c l bs (Within.refl [.port, .mem, .hub] s) (Covers.refl _)).same .jnl (by decide)
@[simp] theorem writeBy_sta (via : Via) (c : Option Nat) (l : Loc) (bs : List Byte) (s : State) : (writeBy via c l bs s).sta = s.sta :=
  (writeBy_within via c l bs (Within.refl [.port, .mem, .hub] s) (Covers.refl _)).same .sta (by decide)
@[simp] theorem writeBy_mgmt (via : Via) (c : Option Nat) (l : Loc) (bs : List Byte) (s : State) : (writeBy via c l bs s).mgmt = s.mgmt :=
  (writeBy_within via c l bs (Within.refl [.port, .mem, .hub] s) (Covers.refl _)).same .mgmt (by decide)
@[simp] theorem writeBy_power (via : Via) (c : Option Nat) (l : Loc) (bs : List Byte) (s : State) : (writeBy via c l bs s).power = s.power :=
  (writeBy_within via c l bs (Within.refl [.port, .mem, .hub] s) (Covers.refl _)).same .power (by decide)
@[simp] theorem writeBy_link (via : Via) (c : Option Nat) (l : Loc) (bs : List Byte) (s : State) : (writeBy via c l bs s).link = s.link :=
  (writeBy_within via c l bs (Within.refl [.port, .mem, .hub] s) (Covers.refl _)).same .link (by decide)

@[simp] theorem spillPut_pending (s : State) (r : List Byte) : (spillPut s r).pending = s.pending :=
  (spillPut_within r (Within.refl [.port, .mem, .hutch] s) (Covers.refl _)).same .pending (by decide)
@[simp] theorem spillPut_time (s : State) (r : List Byte) : (spillPut s r).time = s.time :=
  (spillPut_within r (Within.refl [.port, .mem, .hutch] s) (Covers.refl _)).same .time (by decide)
@[simp] theorem spillPut_integ (s : State) (r : List Byte) : (spillPut s r).integ = s.integ :=
  (spillPut_within r (Within.refl [.port, .mem, .hutch] s) (Covers.refl _)).same .integ (by decide)
@[simp] theorem spillPut_hub (s : State) (r : List Byte) : (spillPut s r).hub = s.hub :=
  (spillPut_within r (Within.refl [.port, .mem, .hutch] s) (Covers.refl _)).same .hub (by decide)
@[simp] theorem spillPut_tenants (s : State) (r : List Byte) : (spillPut s r).tenants = s.tenants :=
  (spillPut_within r (Within.refl [.port, .mem, .hutch] s) (Covers.refl _)).same .tenants (by decide)
@[simp] theorem spillPut_contexts (s : State) (r : List Byte) : (spillPut s r).contexts = s.contexts :=
  (spillPut_within r (Within.refl [.port, .mem, .hutch] s) (Covers.refl _)).same .contexts (by decide)
@[simp] theorem spillPut_objects (s : State) (r : List Byte) : (spillPut s r).objects = s.objects :=
  (spillPut_within r (Within.refl [.port, .mem, .hutch] s) (Covers.refl _)).same .objects (by decide)
@[simp] theorem spillPut_graphs (s : State) (r : List Byte) : (spillPut s r).graphs = s.graphs :=
  (spillPut_within r (Within.refl [.port, .mem, .hutch] s) (Covers.refl _)).same .graphs (by decide)
@[simp] theorem spillPut_front (s : State) (r : List Byte) : (spillPut s r).front = s.front :=
  (spillPut_within r (Within.refl [.port, .mem, .hutch] s) (Covers.refl _)).same .front (by decide)
@[simp] theorem spillPut_bramble (s : State) (r : List Byte) : (spillPut s r).bramble = s.bramble :=
  (spillPut_within r (Within.refl [.port, .mem, .hutch] s) (Covers.refl _)).same .bramble (by decide)
@[simp] theorem spillPut_slices (s : State) (r : List Byte) : (spillPut s r).slices = s.slices :=
  (spillPut_within r (Within.refl [.port, .mem, .hutch] s) (Covers.refl _)).same .slices (by decide)
@[simp] theorem spillPut_trestle (s : State) (r : List Byte) : (spillPut s r).trestle = s.trestle :=
  (spillPut_within r (Within.refl [.port, .mem, .hutch] s) (Covers.refl _)).same .trestle (by decide)
@[simp] theorem spillPut_sched (s : State) (r : List Byte) : (spillPut s r).sched = s.sched :=
  (spillPut_within r (Within.refl [.port, .mem, .hutch] s) (Covers.refl _)).same .sched (by decide)
@[simp] theorem spillPut_wrd (s : State) (r : List Byte) : (spillPut s r).wrd = s.wrd :=
  (spillPut_within r (Within.refl [.port, .mem, .hutch] s) (Covers.refl _)).same .wrd (by decide)
@[simp] theorem spillPut_chest (s : State) (r : List Byte) : (spillPut s r).chest = s.chest :=
  (spillPut_within r (Within.refl [.port, .mem, .hutch] s) (Covers.refl _)).same .chest (by decide)
@[simp] theorem spillPut_bureau (s : State) (r : List Byte) : (spillPut s r).bureau = s.bureau :=
  (spillPut_within r (Within.refl [.port, .mem, .hutch] s) (Covers.refl _)).same .bureau (by decide)
@[simp] theorem spillPut_watch (s : State) (r : List Byte) : (spillPut s r).watch = s.watch :=
  (spillPut_within r (Within.refl [.port, .mem, .hutch] s) (Covers.refl _)).same .watch (by decide)
@[simp] theorem spillPut_jnl (s : State) (r : List Byte) : (spillPut s r).jnl = s.jnl :=
  (spillPut_within r (Within.refl [.port, .mem, .hutch] s) (Covers.refl _)).same .jnl (by decide)
@[simp] theorem spillPut_sta (s : State) (r : List Byte) : (spillPut s r).sta = s.sta :=
  (spillPut_within r (Within.refl [.port, .mem, .hutch] s) (Covers.refl _)).same .sta (by decide)
@[simp] theorem spillPut_mgmt (s : State) (r : List Byte) : (spillPut s r).mgmt = s.mgmt :=
  (spillPut_within r (Within.refl [.port, .mem, .hutch] s) (Covers.refl _)).same .mgmt (by decide)
@[simp] theorem spillPut_power (s : State) (r : List Byte) : (spillPut s r).power = s.power :=
  (spillPut_within r (Within.refl [.port, .mem, .hutch] s) (Covers.refl _)).same .power (by decide)
@[simp] theorem spillPut_link (s : State) (r : List Byte) : (spillPut s r).link = s.link :=
  (spillPut_within r (Within.refl [.port, .mem, .hutch] s) (Covers.refl _)).same .link (by decide)

end Sys2Proof.Machine
end

