-- ==== Sys2Proof/Laws/State.lean ====
section
/-! SUPPORT. What each named update of the state leaves: one lemma per other component, by definition. -/

namespace Sys2Proof.Machine

@[simp] theorem emit_pending (o : PortOut) (s : State) : (emit o s).pending = s.pending := rfl
@[simp] theorem emit_time (o : PortOut) (s : State) : (emit o s).time = s.time := rfl
@[simp] theorem emit_integ (o : PortOut) (s : State) : (emit o s).integ = s.integ := rfl
@[simp] theorem emit_mem (o : PortOut) (s : State) : (emit o s).mem = s.mem := rfl
@[simp] theorem emit_hub (o : PortOut) (s : State) : (emit o s).hub = s.hub := rfl
@[simp] theorem emit_tenants (o : PortOut) (s : State) : (emit o s).tenants = s.tenants := rfl
@[simp] theorem emit_contexts (o : PortOut) (s : State) : (emit o s).contexts = s.contexts := rfl
@[simp] theorem emit_objects (o : PortOut) (s : State) : (emit o s).objects = s.objects := rfl
@[simp] theorem emit_graphs (o : PortOut) (s : State) : (emit o s).graphs = s.graphs := rfl
@[simp] theorem emit_front (o : PortOut) (s : State) : (emit o s).front = s.front := rfl
@[simp] theorem emit_bramble (o : PortOut) (s : State) : (emit o s).bramble = s.bramble := rfl
@[simp] theorem emit_slices (o : PortOut) (s : State) : (emit o s).slices = s.slices := rfl
@[simp] theorem emit_trestle (o : PortOut) (s : State) : (emit o s).trestle = s.trestle := rfl
@[simp] theorem emit_sched (o : PortOut) (s : State) : (emit o s).sched = s.sched := rfl
@[simp] theorem emit_wrd (o : PortOut) (s : State) : (emit o s).wrd = s.wrd := rfl
@[simp] theorem emit_chest (o : PortOut) (s : State) : (emit o s).chest = s.chest := rfl
@[simp] theorem emit_bureau (o : PortOut) (s : State) : (emit o s).bureau = s.bureau := rfl
@[simp] theorem emit_watch (o : PortOut) (s : State) : (emit o s).watch = s.watch := rfl
@[simp] theorem emit_hutch (o : PortOut) (s : State) : (emit o s).hutch = s.hutch := rfl
@[simp] theorem emit_jnl (o : PortOut) (s : State) : (emit o s).jnl = s.jnl := rfl
@[simp] theorem emit_sta (o : PortOut) (s : State) : (emit o s).sta = s.sta := rfl
@[simp] theorem emit_mgmt (o : PortOut) (s : State) : (emit o s).mgmt = s.mgmt := rfl
@[simp] theorem emit_power (o : PortOut) (s : State) : (emit o s).power = s.power := rfl
@[simp] theorem emit_link (o : PortOut) (s : State) : (emit o s).link = s.link := rfl

@[simp] theorem memWrite_pending (l : Loc) (bs : List Byte) (s : State) : (memWrite l bs s).pending = s.pending := rfl
@[simp] theorem memWrite_time (l : Loc) (bs : List Byte) (s : State) : (memWrite l bs s).time = s.time := rfl
@[simp] theorem memWrite_port (l : Loc) (bs : List Byte) (s : State) : (memWrite l bs s).port = s.port := rfl
@[simp] theorem memWrite_integ (l : Loc) (bs : List Byte) (s : State) : (memWrite l bs s).integ = s.integ := rfl
@[simp] theorem memWrite_hub (l : Loc) (bs : List Byte) (s : State) : (memWrite l bs s).hub = s.hub := rfl
@[simp] theorem memWrite_tenants (l : Loc) (bs : List Byte) (s : State) : (memWrite l bs s).tenants = s.tenants := rfl
@[simp] theorem memWrite_contexts (l : Loc) (bs : List Byte) (s : State) : (memWrite l bs s).contexts = s.contexts := rfl
@[simp] theorem memWrite_objects (l : Loc) (bs : List Byte) (s : State) : (memWrite l bs s).objects = s.objects := rfl
@[simp] theorem memWrite_graphs (l : Loc) (bs : List Byte) (s : State) : (memWrite l bs s).graphs = s.graphs := rfl
@[simp] theorem memWrite_front (l : Loc) (bs : List Byte) (s : State) : (memWrite l bs s).front = s.front := rfl
@[simp] theorem memWrite_bramble (l : Loc) (bs : List Byte) (s : State) : (memWrite l bs s).bramble = s.bramble := rfl
@[simp] theorem memWrite_slices (l : Loc) (bs : List Byte) (s : State) : (memWrite l bs s).slices = s.slices := rfl
@[simp] theorem memWrite_trestle (l : Loc) (bs : List Byte) (s : State) : (memWrite l bs s).trestle = s.trestle := rfl
@[simp] theorem memWrite_sched (l : Loc) (bs : List Byte) (s : State) : (memWrite l bs s).sched = s.sched := rfl
@[simp] theorem memWrite_wrd (l : Loc) (bs : List Byte) (s : State) : (memWrite l bs s).wrd = s.wrd := rfl
@[simp] theorem memWrite_chest (l : Loc) (bs : List Byte) (s : State) : (memWrite l bs s).chest = s.chest := rfl
@[simp] theorem memWrite_bureau (l : Loc) (bs : List Byte) (s : State) : (memWrite l bs s).bureau = s.bureau := rfl
@[simp] theorem memWrite_watch (l : Loc) (bs : List Byte) (s : State) : (memWrite l bs s).watch = s.watch := rfl
@[simp] theorem memWrite_hutch (l : Loc) (bs : List Byte) (s : State) : (memWrite l bs s).hutch = s.hutch := rfl
@[simp] theorem memWrite_jnl (l : Loc) (bs : List Byte) (s : State) : (memWrite l bs s).jnl = s.jnl := rfl
@[simp] theorem memWrite_sta (l : Loc) (bs : List Byte) (s : State) : (memWrite l bs s).sta = s.sta := rfl
@[simp] theorem memWrite_mgmt (l : Loc) (bs : List Byte) (s : State) : (memWrite l bs s).mgmt = s.mgmt := rfl
@[simp] theorem memWrite_power (l : Loc) (bs : List Byte) (s : State) : (memWrite l bs s).power = s.power := rfl
@[simp] theorem memWrite_link (l : Loc) (bs : List Byte) (s : State) : (memWrite l bs s).link = s.link := rfl

@[simp] theorem bar0Err_pending (cause off : Nat) (s : State) : (bar0Err cause off s).pending = s.pending := rfl
@[simp] theorem bar0Err_time (cause off : Nat) (s : State) : (bar0Err cause off s).time = s.time := rfl
@[simp] theorem bar0Err_port (cause off : Nat) (s : State) : (bar0Err cause off s).port = s.port := rfl
@[simp] theorem bar0Err_integ (cause off : Nat) (s : State) : (bar0Err cause off s).integ = s.integ := rfl
@[simp] theorem bar0Err_mem (cause off : Nat) (s : State) : (bar0Err cause off s).mem = s.mem := rfl
@[simp] theorem bar0Err_tenants (cause off : Nat) (s : State) : (bar0Err cause off s).tenants = s.tenants := rfl
@[simp] theorem bar0Err_contexts (cause off : Nat) (s : State) : (bar0Err cause off s).contexts = s.contexts := rfl
@[simp] theorem bar0Err_objects (cause off : Nat) (s : State) : (bar0Err cause off s).objects = s.objects := rfl
@[simp] theorem bar0Err_graphs (cause off : Nat) (s : State) : (bar0Err cause off s).graphs = s.graphs := rfl
@[simp] theorem bar0Err_front (cause off : Nat) (s : State) : (bar0Err cause off s).front = s.front := rfl
@[simp] theorem bar0Err_bramble (cause off : Nat) (s : State) : (bar0Err cause off s).bramble = s.bramble := rfl
@[simp] theorem bar0Err_slices (cause off : Nat) (s : State) : (bar0Err cause off s).slices = s.slices := rfl
@[simp] theorem bar0Err_trestle (cause off : Nat) (s : State) : (bar0Err cause off s).trestle = s.trestle := rfl
@[simp] theorem bar0Err_sched (cause off : Nat) (s : State) : (bar0Err cause off s).sched = s.sched := rfl
@[simp] theorem bar0Err_wrd (cause off : Nat) (s : State) : (bar0Err cause off s).wrd = s.wrd := rfl
@[simp] theorem bar0Err_chest (cause off : Nat) (s : State) : (bar0Err cause off s).chest = s.chest := rfl
@[simp] theorem bar0Err_bureau (cause off : Nat) (s : State) : (bar0Err cause off s).bureau = s.bureau := rfl
@[simp] theorem bar0Err_watch (cause off : Nat) (s : State) : (bar0Err cause off s).watch = s.watch := rfl
@[simp] theorem bar0Err_hutch (cause off : Nat) (s : State) : (bar0Err cause off s).hutch = s.hutch := rfl
@[simp] theorem bar0Err_jnl (cause off : Nat) (s : State) : (bar0Err cause off s).jnl = s.jnl := rfl
@[simp] theorem bar0Err_sta (cause off : Nat) (s : State) : (bar0Err cause off s).sta = s.sta := rfl
@[simp] theorem bar0Err_mgmt (cause off : Nat) (s : State) : (bar0Err cause off s).mgmt = s.mgmt := rfl
@[simp] theorem bar0Err_power (cause off : Nat) (s : State) : (bar0Err cause off s).power = s.power := rfl
@[simp] theorem bar0Err_link (cause off : Nat) (s : State) : (bar0Err cause off s).link = s.link := rfl

@[simp] theorem usageSend_pending (u : Usage) (s : State) : (usageSend u s).pending = s.pending := rfl
@[simp] theorem usageSend_time (u : Usage) (s : State) : (usageSend u s).time = s.time := rfl
@[simp] theorem usageSend_port (u : Usage) (s : State) : (usageSend u s).port = s.port := rfl
@[simp] theorem usageSend_integ (u : Usage) (s : State) : (usageSend u s).integ = s.integ := rfl
@[simp] theorem usageSend_mem (u : Usage) (s : State) : (usageSend u s).mem = s.mem := rfl
@[simp] theorem usageSend_tenants (u : Usage) (s : State) : (usageSend u s).tenants = s.tenants := rfl
@[simp] theorem usageSend_contexts (u : Usage) (s : State) : (usageSend u s).contexts = s.contexts := rfl
@[simp] theorem usageSend_objects (u : Usage) (s : State) : (usageSend u s).objects = s.objects := rfl
@[simp] theorem usageSend_graphs (u : Usage) (s : State) : (usageSend u s).graphs = s.graphs := rfl
@[simp] theorem usageSend_front (u : Usage) (s : State) : (usageSend u s).front = s.front := rfl
@[simp] theorem usageSend_bramble (u : Usage) (s : State) : (usageSend u s).bramble = s.bramble := rfl
@[simp] theorem usageSend_slices (u : Usage) (s : State) : (usageSend u s).slices = s.slices := rfl
@[simp] theorem usageSend_trestle (u : Usage) (s : State) : (usageSend u s).trestle = s.trestle := rfl
@[simp] theorem usageSend_sched (u : Usage) (s : State) : (usageSend u s).sched = s.sched := rfl
@[simp] theorem usageSend_wrd (u : Usage) (s : State) : (usageSend u s).wrd = s.wrd := rfl
@[simp] theorem usageSend_chest (u : Usage) (s : State) : (usageSend u s).chest = s.chest := rfl
@[simp] theorem usageSend_bureau (u : Usage) (s : State) : (usageSend u s).bureau = s.bureau := rfl
@[simp] theorem usageSend_watch (u : Usage) (s : State) : (usageSend u s).watch = s.watch := rfl
@[simp] theorem usageSend_hutch (u : Usage) (s : State) : (usageSend u s).hutch = s.hutch := rfl
@[simp] theorem usageSend_jnl (u : Usage) (s : State) : (usageSend u s).jnl = s.jnl := rfl
@[simp] theorem usageSend_sta (u : Usage) (s : State) : (usageSend u s).sta = s.sta := rfl
@[simp] theorem usageSend_mgmt (u : Usage) (s : State) : (usageSend u s).mgmt = s.mgmt := rfl
@[simp] theorem usageSend_power (u : Usage) (s : State) : (usageSend u s).power = s.power := rfl
@[simp] theorem usageSend_link (u : Usage) (s : State) : (usageSend u s).link = s.link := rfl

@[simp] theorem setFrame_pending (f : Nat) (x : Frame) (s : State) : (setFrame f x s).pending = s.pending := rfl
@[simp] theorem setFrame_time (f : Nat) (x : Frame) (s : State) : (setFrame f x s).time = s.time := rfl
@[simp] theorem setFrame_port (f : Nat) (x : Frame) (s : State) : (setFrame f x s).port = s.port := rfl
@[simp] theorem setFrame_integ (f : Nat) (x : Frame) (s : State) : (setFrame f x s).integ = s.integ := rfl
@[simp] theorem setFrame_mem (f : Nat) (x : Frame) (s : State) : (setFrame f x s).mem = s.mem := rfl
@[simp] theorem setFrame_hub (f : Nat) (x : Frame) (s : State) : (setFrame f x s).hub = s.hub := rfl
@[simp] theorem setFrame_tenants (f : Nat) (x : Frame) (s : State) : (setFrame f x s).tenants = s.tenants := rfl
@[simp] theorem setFrame_contexts (f : Nat) (x : Frame) (s : State) : (setFrame f x s).contexts = s.contexts := rfl
@[simp] theorem setFrame_objects (f : Nat) (x : Frame) (s : State) : (setFrame f x s).objects = s.objects := rfl
@[simp] theorem setFrame_graphs (f : Nat) (x : Frame) (s : State) : (setFrame f x s).graphs = s.graphs := rfl
@[simp] theorem setFrame_front (f : Nat) (x : Frame) (s : State) : (setFrame f x s).front = s.front := rfl
@[simp] theorem setFrame_bramble (f : Nat) (x : Frame) (s : State) : (setFrame f x s).bramble = s.bramble := rfl
@[simp] theorem setFrame_slices (f : Nat) (x : Frame) (s : State) : (setFrame f x s).slices = s.slices := rfl
@[simp] theorem setFrame_trestle (f : Nat) (x : Frame) (s : State) : (setFrame f x s).trestle = s.trestle := rfl
@[simp] theorem setFrame_sched (f : Nat) (x : Frame) (s : State) : (setFrame f x s).sched = s.sched := rfl
@[simp] theorem setFrame_chest (f : Nat) (x : Frame) (s : State) : (setFrame f x s).chest = s.chest := rfl
@[simp] theorem setFrame_bureau (f : Nat) (x : Frame) (s : State) : (setFrame f x s).bureau = s.bureau := rfl
@[simp] theorem setFrame_watch (f : Nat) (x : Frame) (s : State) : (setFrame f x s).watch = s.watch := rfl
@[simp] theorem setFrame_hutch (f : Nat) (x : Frame) (s : State) : (setFrame f x s).hutch = s.hutch := rfl
@[simp] theorem setFrame_jnl (f : Nat) (x : Frame) (s : State) : (setFrame f x s).jnl = s.jnl := rfl
@[simp] theorem setFrame_sta (f : Nat) (x : Frame) (s : State) : (setFrame f x s).sta = s.sta := rfl
@[simp] theorem setFrame_mgmt (f : Nat) (x : Frame) (s : State) : (setFrame f x s).mgmt = s.mgmt := rfl
@[simp] theorem setFrame_power (f : Nat) (x : Frame) (s : State) : (setFrame f x s).power = s.power := rfl
@[simp] theorem setFrame_link (f : Nat) (x : Frame) (s : State) : (setFrame f x s).link = s.link := rfl

@[simp] theorem freeFrame_pending (f : Nat) (s : State) : (freeFrame f s).pending = s.pending := rfl
@[simp] theorem freeFrame_time (f : Nat) (s : State) : (freeFrame f s).time = s.time := rfl
@[simp] theorem freeFrame_port (f : Nat) (s : State) : (freeFrame f s).port = s.port := rfl
@[simp] theorem freeFrame_integ (f : Nat) (s : State) : (freeFrame f s).integ = s.integ := rfl
@[simp] theorem freeFrame_mem (f : Nat) (s : State) : (freeFrame f s).mem = s.mem := rfl
@[simp] theorem freeFrame_hub (f : Nat) (s : State) : (freeFrame f s).hub = s.hub := rfl
@[simp] theorem freeFrame_tenants (f : Nat) (s : State) : (freeFrame f s).tenants = s.tenants := rfl
@[simp] theorem freeFrame_contexts (f : Nat) (s : State) : (freeFrame f s).contexts = s.contexts := rfl
@[simp] theorem freeFrame_objects (f : Nat) (s : State) : (freeFrame f s).objects = s.objects := rfl
@[simp] theorem freeFrame_graphs (f : Nat) (s : State) : (freeFrame f s).graphs = s.graphs := rfl
@[simp] theorem freeFrame_front (f : Nat) (s : State) : (freeFrame f s).front = s.front := rfl
@[simp] theorem freeFrame_bramble (f : Nat) (s : State) : (freeFrame f s).bramble = s.bramble := rfl
@[simp] theorem freeFrame_slices (f : Nat) (s : State) : (freeFrame f s).slices = s.slices := rfl
@[simp] theorem freeFrame_trestle (f : Nat) (s : State) : (freeFrame f s).trestle = s.trestle := rfl
@[simp] theorem freeFrame_sched (f : Nat) (s : State) : (freeFrame f s).sched = s.sched := rfl
@[simp] theorem freeFrame_chest (f : Nat) (s : State) : (freeFrame f s).chest = s.chest := rfl
@[simp] theorem freeFrame_bureau (f : Nat) (s : State) : (freeFrame f s).bureau = s.bureau := rfl
@[simp] theorem freeFrame_watch (f : Nat) (s : State) : (freeFrame f s).watch = s.watch := rfl
@[simp] theorem freeFrame_hutch (f : Nat) (s : State) : (freeFrame f s).hutch = s.hutch := rfl
@[simp] theorem freeFrame_jnl (f : Nat) (s : State) : (freeFrame f s).jnl = s.jnl := rfl
@[simp] theorem freeFrame_sta (f : Nat) (s : State) : (freeFrame f s).sta = s.sta := rfl
@[simp] theorem freeFrame_mgmt (f : Nat) (s : State) : (freeFrame f s).mgmt = s.mgmt := rfl
@[simp] theorem freeFrame_power (f : Nat) (s : State) : (freeFrame f s).power = s.power := rfl
@[simp] theorem freeFrame_link (f : Nat) (s : State) : (freeFrame f s).link = s.link := rfl

@[simp] theorem bump_pending (e : Nat) (s : State) : (bump e s).pending = s.pending := rfl
@[simp] theorem bump_time (e : Nat) (s : State) : (bump e s).time = s.time := rfl
@[simp] theorem bump_port (e : Nat) (s : State) : (bump e s).port = s.port := rfl
@[simp] theorem bump_integ (e : Nat) (s : State) : (bump e s).integ = s.integ := rfl
@[simp] theorem bump_mem (e : Nat) (s : State) : (bump e s).mem = s.mem := rfl
@[simp] theorem bump_hub (e : Nat) (s : State) : (bump e s).hub = s.hub := rfl
@[simp] theorem bump_tenants (e : Nat) (s : State) : (bump e s).tenants = s.tenants := rfl
@[simp] theorem bump_contexts (e : Nat) (s : State) : (bump e s).contexts = s.contexts := rfl
@[simp] theorem bump_objects (e : Nat) (s : State) : (bump e s).objects = s.objects := rfl
@[simp] theorem bump_graphs (e : Nat) (s : State) : (bump e s).graphs = s.graphs := rfl
@[simp] theorem bump_front (e : Nat) (s : State) : (bump e s).front = s.front := rfl
@[simp] theorem bump_bramble (e : Nat) (s : State) : (bump e s).bramble = s.bramble := rfl
@[simp] theorem bump_slices (e : Nat) (s : State) : (bump e s).slices = s.slices := rfl
@[simp] theorem bump_trestle (e : Nat) (s : State) : (bump e s).trestle = s.trestle := rfl
@[simp] theorem bump_sched (e : Nat) (s : State) : (bump e s).sched = s.sched := rfl
@[simp] theorem bump_wrd (e : Nat) (s : State) : (bump e s).wrd = s.wrd := rfl
@[simp] theorem bump_chest (e : Nat) (s : State) : (bump e s).chest = s.chest := rfl
@[simp] theorem bump_bureau (e : Nat) (s : State) : (bump e s).bureau = s.bureau := rfl
@[simp] theorem bump_hutch (e : Nat) (s : State) : (bump e s).hutch = s.hutch := rfl
@[simp] theorem bump_jnl (e : Nat) (s : State) : (bump e s).jnl = s.jnl := rfl
@[simp] theorem bump_sta (e : Nat) (s : State) : (bump e s).sta = s.sta := rfl
@[simp] theorem bump_mgmt (e : Nat) (s : State) : (bump e s).mgmt = s.mgmt := rfl
@[simp] theorem bump_power (e : Nat) (s : State) : (bump e s).power = s.power := rfl
@[simp] theorem bump_link (e : Nat) (s : State) : (bump e s).link = s.link := rfl

@[simp] theorem State.modQueues_pending (f : Tab Queue → Tab Queue) (s : State) : (s.modQueues f).pending = s.pending := rfl
@[simp] theorem State.modQueues_time (f : Tab Queue → Tab Queue) (s : State) : (s.modQueues f).time = s.time := rfl
@[simp] theorem State.modQueues_port (f : Tab Queue → Tab Queue) (s : State) : (s.modQueues f).port = s.port := rfl
@[simp] theorem State.modQueues_integ (f : Tab Queue → Tab Queue) (s : State) : (s.modQueues f).integ = s.integ := rfl
@[simp] theorem State.modQueues_mem (f : Tab Queue → Tab Queue) (s : State) : (s.modQueues f).mem = s.mem := rfl
@[simp] theorem State.modQueues_hub (f : Tab Queue → Tab Queue) (s : State) : (s.modQueues f).hub = s.hub := rfl
@[simp] theorem State.modQueues_tenants (f : Tab Queue → Tab Queue) (s : State) : (s.modQueues f).tenants = s.tenants := rfl
@[simp] theorem State.modQueues_contexts (f : Tab Queue → Tab Queue) (s : State) : (s.modQueues f).contexts = s.contexts := rfl
@[simp] theorem State.modQueues_objects (f : Tab Queue → Tab Queue) (s : State) : (s.modQueues f).objects = s.objects := rfl
@[simp] theorem State.modQueues_graphs (f : Tab Queue → Tab Queue) (s : State) : (s.modQueues f).graphs = s.graphs := rfl
@[simp] theorem State.modQueues_bramble (f : Tab Queue → Tab Queue) (s : State) : (s.modQueues f).bramble = s.bramble := rfl
@[simp] theorem State.modQueues_slices (f : Tab Queue → Tab Queue) (s : State) : (s.modQueues f).slices = s.slices := rfl
@[simp] theorem State.modQueues_trestle (f : Tab Queue → Tab Queue) (s : State) : (s.modQueues f).trestle = s.trestle := rfl
@[simp] theorem State.modQueues_sched (f : Tab Queue → Tab Queue) (s : State) : (s.modQueues f).sched = s.sched := rfl
@[simp] theorem State.modQueues_wrd (f : Tab Queue → Tab Queue) (s : State) : (s.modQueues f).wrd = s.wrd := rfl
@[simp] theorem State.modQueues_chest (f : Tab Queue → Tab Queue) (s : State) : (s.modQueues f).chest = s.chest := rfl
@[simp] theorem State.modQueues_bureau (f : Tab Queue → Tab Queue) (s : State) : (s.modQueues f).bureau = s.bureau := rfl
@[simp] theorem State.modQueues_watch (f : Tab Queue → Tab Queue) (s : State) : (s.modQueues f).watch = s.watch := rfl
@[simp] theorem State.modQueues_hutch (f : Tab Queue → Tab Queue) (s : State) : (s.modQueues f).hutch = s.hutch := rfl
@[simp] theorem State.modQueues_jnl (f : Tab Queue → Tab Queue) (s : State) : (s.modQueues f).jnl = s.jnl := rfl
@[simp] theorem State.modQueues_sta (f : Tab Queue → Tab Queue) (s : State) : (s.modQueues f).sta = s.sta := rfl
@[simp] theorem State.modQueues_mgmt (f : Tab Queue → Tab Queue) (s : State) : (s.modQueues f).mgmt = s.mgmt := rfl
@[simp] theorem State.modQueues_power (f : Tab Queue → Tab Queue) (s : State) : (s.modQueues f).power = s.power := rfl
@[simp] theorem State.modQueues_link (f : Tab Queue → Tab Queue) (s : State) : (s.modQueues f).link = s.link := rfl

@[simp] theorem State.modQ_pending (k : Nat) (f : Queue → Queue) (s : State) : (s.modQ k f).pending = s.pending := rfl
@[simp] theorem State.modQ_time (k : Nat) (f : Queue → Queue) (s : State) : (s.modQ k f).time = s.time := rfl
@[simp] theorem State.modQ_port (k : Nat) (f : Queue → Queue) (s : State) : (s.modQ k f).port = s.port := rfl
@[simp] theorem State.modQ_integ (k : Nat) (f : Queue → Queue) (s : State) : (s.modQ k f).integ = s.integ := rfl
@[simp] theorem State.modQ_mem (k : Nat) (f : Queue → Queue) (s : State) : (s.modQ k f).mem = s.mem := rfl
@[simp] theorem State.modQ_hub (k : Nat) (f : Queue → Queue) (s : State) : (s.modQ k f).hub = s.hub := rfl
@[simp] theorem State.modQ_tenants (k : Nat) (f : Queue → Queue) (s : State) : (s.modQ k f).tenants = s.tenants := rfl
@[simp] theorem State.modQ_contexts (k : Nat) (f : Queue → Queue) (s : State) : (s.modQ k f).contexts = s.contexts := rfl
@[simp] theorem State.modQ_objects (k : Nat) (f : Queue → Queue) (s : State) : (s.modQ k f).objects = s.objects := rfl
@[simp] theorem State.modQ_graphs (k : Nat) (f : Queue → Queue) (s : State) : (s.modQ k f).graphs = s.graphs := rfl
@[simp] theorem State.modQ_bramble (k : Nat) (f : Queue → Queue) (s : State) : (s.modQ k f).bramble = s.bramble := rfl
@[simp] theorem State.modQ_slices (k : Nat) (f : Queue → Queue) (s : State) : (s.modQ k f).slices = s.slices := rfl
@[simp] theorem State.modQ_trestle (k : Nat) (f : Queue → Queue) (s : State) : (s.modQ k f).trestle = s.trestle := rfl
@[simp] theorem State.modQ_sched (k : Nat) (f : Queue → Queue) (s : State) : (s.modQ k f).sched = s.sched := rfl
@[simp] theorem State.modQ_wrd (k : Nat) (f : Queue → Queue) (s : State) : (s.modQ k f).wrd = s.wrd := rfl
@[simp] theorem State.modQ_chest (k : Nat) (f : Queue → Queue) (s : State) : (s.modQ k f).chest = s.chest := rfl
@[simp] theorem State.modQ_bureau (k : Nat) (f : Queue → Queue) (s : State) : (s.modQ k f).bureau = s.bureau := rfl
@[simp] theorem State.modQ_watch (k : Nat) (f : Queue → Queue) (s : State) : (s.modQ k f).watch = s.watch := rfl
@[simp] theorem State.modQ_hutch (k : Nat) (f : Queue → Queue) (s : State) : (s.modQ k f).hutch = s.hutch := rfl
@[simp] theorem State.modQ_jnl (k : Nat) (f : Queue → Queue) (s : State) : (s.modQ k f).jnl = s.jnl := rfl
@[simp] theorem State.modQ_sta (k : Nat) (f : Queue → Queue) (s : State) : (s.modQ k f).sta = s.sta := rfl
@[simp] theorem State.modQ_mgmt (k : Nat) (f : Queue → Queue) (s : State) : (s.modQ k f).mgmt = s.mgmt := rfl
@[simp] theorem State.modQ_power (k : Nat) (f : Queue → Queue) (s : State) : (s.modQ k f).power = s.power := rfl
@[simp] theorem State.modQ_link (k : Nat) (f : Queue → Queue) (s : State) : (s.modQ k f).link = s.link := rfl

@[simp] theorem State.modC_pending (k pos : Nat) (f : Cmd → Cmd) (s : State) : (s.modC k pos f).pending = s.pending := rfl
@[simp] theorem State.modC_time (k pos : Nat) (f : Cmd → Cmd) (s : State) : (s.modC k pos f).time = s.time := rfl
@[simp] theorem State.modC_port (k pos : Nat) (f : Cmd → Cmd) (s : State) : (s.modC k pos f).port = s.port := rfl
@[simp] theorem State.modC_integ (k pos : Nat) (f : Cmd → Cmd) (s : State) : (s.modC k pos f).integ = s.integ := rfl
@[simp] theorem State.modC_mem (k pos : Nat) (f : Cmd → Cmd) (s : State) : (s.modC k pos f).mem = s.mem := rfl
@[simp] theorem State.modC_hub (k pos : Nat) (f : Cmd → Cmd) (s : State) : (s.modC k pos f).hub = s.hub := rfl
@[simp] theorem State.modC_tenants (k pos : Nat) (f : Cmd → Cmd) (s : State) : (s.modC k pos f).tenants = s.tenants := rfl
@[simp] theorem State.modC_contexts (k pos : Nat) (f : Cmd → Cmd) (s : State) : (s.modC k pos f).contexts = s.contexts := rfl
@[simp] theorem State.modC_objects (k pos : Nat) (f : Cmd → Cmd) (s : State) : (s.modC k pos f).objects = s.objects := rfl
@[simp] theorem State.modC_graphs (k pos : Nat) (f : Cmd → Cmd) (s : State) : (s.modC k pos f).graphs = s.graphs := rfl
@[simp] theorem State.modC_bramble (k pos : Nat) (f : Cmd → Cmd) (s : State) : (s.modC k pos f).bramble = s.bramble := rfl
@[simp] theorem State.modC_slices (k pos : Nat) (f : Cmd → Cmd) (s : State) : (s.modC k pos f).slices = s.slices := rfl
@[simp] theorem State.modC_trestle (k pos : Nat) (f : Cmd → Cmd) (s : State) : (s.modC k pos f).trestle = s.trestle := rfl
@[simp] theorem State.modC_sched (k pos : Nat) (f : Cmd → Cmd) (s : State) : (s.modC k pos f).sched = s.sched := rfl
@[simp] theorem State.modC_wrd (k pos : Nat) (f : Cmd → Cmd) (s : State) : (s.modC k pos f).wrd = s.wrd := rfl
@[simp] theorem State.modC_chest (k pos : Nat) (f : Cmd → Cmd) (s : State) : (s.modC k pos f).chest = s.chest := rfl
@[simp] theorem State.modC_bureau (k pos : Nat) (f : Cmd → Cmd) (s : State) : (s.modC k pos f).bureau = s.bureau := rfl
@[simp] theorem State.modC_watch (k pos : Nat) (f : Cmd → Cmd) (s : State) : (s.modC k pos f).watch = s.watch := rfl
@[simp] theorem State.modC_hutch (k pos : Nat) (f : Cmd → Cmd) (s : State) : (s.modC k pos f).hutch = s.hutch := rfl
@[simp] theorem State.modC_jnl (k pos : Nat) (f : Cmd → Cmd) (s : State) : (s.modC k pos f).jnl = s.jnl := rfl
@[simp] theorem State.modC_sta (k pos : Nat) (f : Cmd → Cmd) (s : State) : (s.modC k pos f).sta = s.sta := rfl
@[simp] theorem State.modC_mgmt (k pos : Nat) (f : Cmd → Cmd) (s : State) : (s.modC k pos f).mgmt = s.mgmt := rfl
@[simp] theorem State.modC_power (k pos : Nat) (f : Cmd → Cmd) (s : State) : (s.modC k pos f).power = s.power := rfl
@[simp] theorem State.modC_link (k pos : Nat) (f : Cmd → Cmd) (s : State) : (s.modC k pos f).link = s.link := rfl

@[simp] theorem finish_pending (k pos : Nat) (st : Status) (aux : Nat) (s : State) : (finish k pos st aux s).pending = s.pending := rfl
@[simp] theorem finish_time (k pos : Nat) (st : Status) (aux : Nat) (s : State) : (finish k pos st aux s).time = s.time := rfl
@[simp] theorem finish_port (k pos : Nat) (st : Status) (aux : Nat) (s : State) : (finish k pos st aux s).port = s.port := rfl
@[simp] theorem finish_integ (k pos : Nat) (st : Status) (aux : Nat) (s : State) : (finish k pos st aux s).integ = s.integ := rfl
@[simp] theorem finish_mem (k pos : Nat) (st : Status) (aux : Nat) (s : State) : (finish k pos st aux s).mem = s.mem := rfl
@[simp] theorem finish_hub (k pos : Nat) (st : Status) (aux : Nat) (s : State) : (finish k pos st aux s).hub = s.hub := rfl
@[simp] theorem finish_tenants (k pos : Nat) (st : Status) (aux : Nat) (s : State) : (finish k pos st aux s).tenants = s.tenants := rfl
@[simp] theorem finish_contexts (k pos : Nat) (st : Status) (aux : Nat) (s : State) : (finish k pos st aux s).contexts = s.contexts := rfl
@[simp] theorem finish_objects (k pos : Nat) (st : Status) (aux : Nat) (s : State) : (finish k pos st aux s).objects = s.objects := rfl
@[simp] theorem finish_graphs (k pos : Nat) (st : Status) (aux : Nat) (s : State) : (finish k pos st aux s).graphs = s.graphs := rfl
@[simp] theorem finish_bramble (k pos : Nat) (st : Status) (aux : Nat) (s : State) : (finish k pos st aux s).bramble = s.bramble := rfl
@[simp] theorem finish_slices (k pos : Nat) (st : Status) (aux : Nat) (s : State) : (finish k pos st aux s).slices = s.slices := rfl
@[simp] theorem finish_trestle (k pos : Nat) (st : Status) (aux : Nat) (s : State) : (finish k pos st aux s).trestle = s.trestle := rfl
@[simp] theorem finish_sched (k pos : Nat) (st : Status) (aux : Nat) (s : State) : (finish k pos st aux s).sched = s.sched := rfl
@[simp] theorem finish_wrd (k pos : Nat) (st : Status) (aux : Nat) (s : State) : (finish k pos st aux s).wrd = s.wrd := rfl
@[simp] theorem finish_chest (k pos : Nat) (st : Status) (aux : Nat) (s : State) : (finish k pos st aux s).chest = s.chest := rfl
@[simp] theorem finish_bureau (k pos : Nat) (st : Status) (aux : Nat) (s : State) : (finish k pos st aux s).bureau = s.bureau := rfl
@[simp] theorem finish_watch (k pos : Nat) (st : Status) (aux : Nat) (s : State) : (finish k pos st aux s).watch = s.watch := rfl
@[simp] theorem finish_hutch (k pos : Nat) (st : Status) (aux : Nat) (s : State) : (finish k pos st aux s).hutch = s.hutch := rfl
@[simp] theorem finish_jnl (k pos : Nat) (st : Status) (aux : Nat) (s : State) : (finish k pos st aux s).jnl = s.jnl := rfl
@[simp] theorem finish_sta (k pos : Nat) (st : Status) (aux : Nat) (s : State) : (finish k pos st aux s).sta = s.sta := rfl
@[simp] theorem finish_mgmt (k pos : Nat) (st : Status) (aux : Nat) (s : State) : (finish k pos st aux s).mgmt = s.mgmt := rfl
@[simp] theorem finish_power (k pos : Nat) (st : Status) (aux : Nat) (s : State) : (finish k pos st aux s).power = s.power := rfl
@[simp] theorem finish_link (k pos : Nat) (st : Status) (aux : Nat) (s : State) : (finish k pos st aux s).link = s.link := rfl

@[simp] theorem addResult_pending (k pos : Nat) (l : Loc) (bs : List Byte) (s : State) : (addResult k pos l bs s).pending = s.pending := rfl
@[simp] theorem addResult_time (k pos : Nat) (l : Loc) (bs : List Byte) (s : State) : (addResult k pos l bs s).time = s.time := rfl
@[simp] theorem addResult_port (k pos : Nat) (l : Loc) (bs : List Byte) (s : State) : (addResult k pos l bs s).port = s.port := rfl
@[simp] theorem addResult_integ (k pos : Nat) (l : Loc) (bs : List Byte) (s : State) : (addResult k pos l bs s).integ = s.integ := rfl
@[simp] theorem addResult_mem (k pos : Nat) (l : Loc) (bs : List Byte) (s : State) : (addResult k pos l bs s).mem = s.mem := rfl
@[simp] theorem addResult_hub (k pos : Nat) (l : Loc) (bs : List Byte) (s : State) : (addResult k pos l bs s).hub = s.hub := rfl
@[simp] theorem addResult_tenants (k pos : Nat) (l : Loc) (bs : List Byte) (s : State) : (addResult k pos l bs s).tenants = s.tenants := rfl
@[simp] theorem addResult_contexts (k pos : Nat) (l : Loc) (bs : List Byte) (s : State) : (addResult k pos l bs s).contexts = s.contexts := rfl
@[simp] theorem addResult_objects (k pos : Nat) (l : Loc) (bs : List Byte) (s : State) : (addResult k pos l bs s).objects = s.objects := rfl
@[simp] theorem addResult_graphs (k pos : Nat) (l : Loc) (bs : List Byte) (s : State) : (addResult k pos l bs s).graphs = s.graphs := rfl
@[simp] theorem addResult_bramble (k pos : Nat) (l : Loc) (bs : List Byte) (s : State) : (addResult k pos l bs s).bramble = s.bramble := rfl
@[simp] theorem addResult_slices (k pos : Nat) (l : Loc) (bs : List Byte) (s : State) : (addResult k pos l bs s).slices = s.slices := rfl
@[simp] theorem addResult_trestle (k pos : Nat) (l : Loc) (bs : List Byte) (s : State) : (addResult k pos l bs s).trestle = s.trestle := rfl
@[simp] theorem addResult_sched (k pos : Nat) (l : Loc) (bs : List Byte) (s : State) : (addResult k pos l bs s).sched = s.sched := rfl
@[simp] theorem addResult_wrd (k pos : Nat) (l : Loc) (bs : List Byte) (s : State) : (addResult k pos l bs s).wrd = s.wrd := rfl
@[simp] theorem addResult_chest (k pos : Nat) (l : Loc) (bs : List Byte) (s : State) : (addResult k pos l bs s).chest = s.chest := rfl
@[simp] theorem addResult_bureau (k pos : Nat) (l : Loc) (bs : List Byte) (s : State) : (addResult k pos l bs s).bureau = s.bureau := rfl
@[simp] theorem addResult_watch (k pos : Nat) (l : Loc) (bs : List Byte) (s : State) : (addResult k pos l bs s).watch = s.watch := rfl
@[simp] theorem addResult_hutch (k pos : Nat) (l : Loc) (bs : List Byte) (s : State) : (addResult k pos l bs s).hutch = s.hutch := rfl
@[simp] theorem addResult_jnl (k pos : Nat) (l : Loc) (bs : List Byte) (s : State) : (addResult k pos l bs s).jnl = s.jnl := rfl
@[simp] theorem addResult_sta (k pos : Nat) (l : Loc) (bs : List Byte) (s : State) : (addResult k pos l bs s).sta = s.sta := rfl
@[simp] theorem addResult_mgmt (k pos : Nat) (l : Loc) (bs : List Byte) (s : State) : (addResult k pos l bs s).mgmt = s.mgmt := rfl
@[simp] theorem addResult_power (k pos : Nat) (l : Loc) (bs : List Byte) (s : State) : (addResult k pos l bs s).power = s.power := rfl
@[simp] theorem addResult_link (k pos : Nat) (l : Loc) (bs : List Byte) (s : State) : (addResult k pos l bs s).link = s.link := rfl

@[simp] theorem State.modSeq_pending (i : Nat) (f : Seq → Seq) (s : State) : (s.modSeq i f).pending = s.pending := rfl
@[simp] theorem State.modSeq_time (i : Nat) (f : Seq → Seq) (s : State) : (s.modSeq i f).time = s.time := rfl
@[simp] theorem State.modSeq_port (i : Nat) (f : Seq → Seq) (s : State) : (s.modSeq i f).port = s.port := rfl
@[simp] theorem State.modSeq_integ (i : Nat) (f : Seq → Seq) (s : State) : (s.modSeq i f).integ = s.integ := rfl
@[simp] theorem State.modSeq_mem (i : Nat) (f : Seq → Seq) (s : State) : (s.modSeq i f).mem = s.mem := rfl
@[simp] theorem State.modSeq_hub (i : Nat) (f : Seq → Seq) (s : State) : (s.modSeq i f).hub = s.hub := rfl
@[simp] theorem State.modSeq_tenants (i : Nat) (f : Seq → Seq) (s : State) : (s.modSeq i f).tenants = s.tenants := rfl
@[simp] theorem State.modSeq_contexts (i : Nat) (f : Seq → Seq) (s : State) : (s.modSeq i f).contexts = s.contexts := rfl
@[simp] theorem State.modSeq_objects (i : Nat) (f : Seq → Seq) (s : State) : (s.modSeq i f).objects = s.objects := rfl
@[simp] theorem State.modSeq_graphs (i : Nat) (f : Seq → Seq) (s : State) : (s.modSeq i f).graphs = s.graphs := rfl
@[simp] theorem State.modSeq_front (i : Nat) (f : Seq → Seq) (s : State) : (s.modSeq i f).front = s.front := rfl
@[simp] theorem State.modSeq_bramble (i : Nat) (f : Seq → Seq) (s : State) : (s.modSeq i f).bramble = s.bramble := rfl
@[simp] theorem State.modSeq_slices (i : Nat) (f : Seq → Seq) (s : State) : (s.modSeq i f).slices = s.slices := rfl
@[simp] theorem State.modSeq_sched (i : Nat) (f : Seq → Seq) (s : State) : (s.modSeq i f).sched = s.sched := rfl
@[simp] theorem State.modSeq_wrd (i : Nat) (f : Seq → Seq) (s : State) : (s.modSeq i f).wrd = s.wrd := rfl
@[simp] theorem State.modSeq_chest (i : Nat) (f : Seq → Seq) (s : State) : (s.modSeq i f).chest = s.chest := rfl
@[simp] theorem State.modSeq_bureau (i : Nat) (f : Seq → Seq) (s : State) : (s.modSeq i f).bureau = s.bureau := rfl
@[simp] theorem State.modSeq_watch (i : Nat) (f : Seq → Seq) (s : State) : (s.modSeq i f).watch = s.watch := rfl
@[simp] theorem State.modSeq_hutch (i : Nat) (f : Seq → Seq) (s : State) : (s.modSeq i f).hutch = s.hutch := rfl
@[simp] theorem State.modSeq_jnl (i : Nat) (f : Seq → Seq) (s : State) : (s.modSeq i f).jnl = s.jnl := rfl
@[simp] theorem State.modSeq_sta (i : Nat) (f : Seq → Seq) (s : State) : (s.modSeq i f).sta = s.sta := rfl
@[simp] theorem State.modSeq_mgmt (i : Nat) (f : Seq → Seq) (s : State) : (s.modSeq i f).mgmt = s.mgmt := rfl
@[simp] theorem State.modSeq_power (i : Nat) (f : Seq → Seq) (s : State) : (s.modSeq i f).power = s.power := rfl
@[simp] theorem State.modSeq_link (i : Nat) (f : Seq → Seq) (s : State) : (s.modSeq i f).link = s.link := rfl

@[simp] theorem State.modLoop_pending (l : Nat) (f : Loop → Loop) (s : State) : (s.modLoop l f).pending = s.pending := rfl
@[simp] theorem State.modLoop_time (l : Nat) (f : Loop → Loop) (s : State) : (s.modLoop l f).time = s.time := rfl
@[simp] theorem State.modLoop_port (l : Nat) (f : Loop → Loop) (s : State) : (s.modLoop l f).port = s.port := rfl
@[simp] theorem State.modLoop_integ (l : Nat) (f : Loop → Loop) (s : State) : (s.modLoop l f).integ = s.integ := rfl
@[simp] theorem State.modLoop_mem (l : Nat) (f : Loop → Loop) (s : State) : (s.modLoop l f).mem = s.mem := rfl
@[simp] theorem State.modLoop_hub (l : Nat) (f : Loop → Loop) (s : State) : (s.modLoop l f).hub = s.hub := rfl
@[simp] theorem State.modLoop_tenants (l : Nat) (f : Loop → Loop) (s : State) : (s.modLoop l f).tenants = s.tenants := rfl
@[simp] theorem State.modLoop_contexts (l : Nat) (f : Loop → Loop) (s : State) : (s.modLoop l f).contexts = s.contexts := rfl
@[simp] theorem State.modLoop_objects (l : Nat) (f : Loop → Loop) (s : State) : (s.modLoop l f).objects = s.objects := rfl
@[simp] theorem State.modLoop_graphs (l : Nat) (f : Loop → Loop) (s : State) : (s.modLoop l f).graphs = s.graphs := rfl
@[simp] theorem State.modLoop_front (l : Nat) (f : Loop → Loop) (s : State) : (s.modLoop l f).front = s.front := rfl
@[simp] theorem State.modLoop_bramble (l : Nat) (f : Loop → Loop) (s : State) : (s.modLoop l f).bramble = s.bramble := rfl
@[simp] theorem State.modLoop_slices (l : Nat) (f : Loop → Loop) (s : State) : (s.modLoop l f).slices = s.slices := rfl
@[simp] theorem State.modLoop_sched (l : Nat) (f : Loop → Loop) (s : State) : (s.modLoop l f).sched = s.sched := rfl
@[simp] theorem State.modLoop_wrd (l : Nat) (f : Loop → Loop) (s : State) : (s.modLoop l f).wrd = s.wrd := rfl
@[simp] theorem State.modLoop_chest (l : Nat) (f : Loop → Loop) (s : State) : (s.modLoop l f).chest = s.chest := rfl
@[simp] theorem State.modLoop_bureau (l : Nat) (f : Loop → Loop) (s : State) : (s.modLoop l f).bureau = s.bureau := rfl
@[simp] theorem State.modLoop_watch (l : Nat) (f : Loop → Loop) (s : State) : (s.modLoop l f).watch = s.watch := rfl
@[simp] theorem State.modLoop_hutch (l : Nat) (f : Loop → Loop) (s : State) : (s.modLoop l f).hutch = s.hutch := rfl
@[simp] theorem State.modLoop_jnl (l : Nat) (f : Loop → Loop) (s : State) : (s.modLoop l f).jnl = s.jnl := rfl
@[simp] theorem State.modLoop_sta (l : Nat) (f : Loop → Loop) (s : State) : (s.modLoop l f).sta = s.sta := rfl
@[simp] theorem State.modLoop_mgmt (l : Nat) (f : Loop → Loop) (s : State) : (s.modLoop l f).mgmt = s.mgmt := rfl
@[simp] theorem State.modLoop_power (l : Nat) (f : Loop → Loop) (s : State) : (s.modLoop l f).power = s.power := rfl
@[simp] theorem State.modLoop_link (l : Nat) (f : Loop → Loop) (s : State) : (s.modLoop l f).link = s.link := rfl

@[simp] theorem State.modChest_pending (f : Chest → Chest) (s : State) : (s.modChest f).pending = s.pending := rfl
@[simp] theorem State.modChest_time (f : Chest → Chest) (s : State) : (s.modChest f).time = s.time := rfl
@[simp] theorem State.modChest_port (f : Chest → Chest) (s : State) : (s.modChest f).port = s.port := rfl
@[simp] theorem State.modChest_integ (f : Chest → Chest) (s : State) : (s.modChest f).integ = s.integ := rfl
@[simp] theorem State.modChest_mem (f : Chest → Chest) (s : State) : (s.modChest f).mem = s.mem := rfl
@[simp] theorem State.modChest_hub (f : Chest → Chest) (s : State) : (s.modChest f).hub = s.hub := rfl
@[simp] theorem State.modChest_tenants (f : Chest → Chest) (s : State) : (s.modChest f).tenants = s.tenants := rfl
@[simp] theorem State.modChest_contexts (f : Chest → Chest) (s : State) : (s.modChest f).contexts = s.contexts := rfl
@[simp] theorem State.modChest_objects (f : Chest → Chest) (s : State) : (s.modChest f).objects = s.objects := rfl
@[simp] theorem State.modChest_graphs (f : Chest → Chest) (s : State) : (s.modChest f).graphs = s.graphs := rfl
@[simp] theorem State.modChest_front (f : Chest → Chest) (s : State) : (s.modChest f).front = s.front := rfl
@[simp] theorem State.modChest_bramble (f : Chest → Chest) (s : State) : (s.modChest f).bramble = s.bramble := rfl
@[simp] theorem State.modChest_slices (f : Chest → Chest) (s : State) : (s.modChest f).slices = s.slices := rfl
@[simp] theorem State.modChest_trestle (f : Chest → Chest) (s : State) : (s.modChest f).trestle = s.trestle := rfl
@[simp] theorem State.modChest_sched (f : Chest → Chest) (s : State) : (s.modChest f).sched = s.sched := rfl
@[simp] theorem State.modChest_wrd (f : Chest → Chest) (s : State) : (s.modChest f).wrd = s.wrd := rfl
@[simp] theorem State.modChest_bureau (f : Chest → Chest) (s : State) : (s.modChest f).bureau = s.bureau := rfl
@[simp] theorem State.modChest_watch (f : Chest → Chest) (s : State) : (s.modChest f).watch = s.watch := rfl
@[simp] theorem State.modChest_hutch (f : Chest → Chest) (s : State) : (s.modChest f).hutch = s.hutch := rfl
@[simp] theorem State.modChest_jnl (f : Chest → Chest) (s : State) : (s.modChest f).jnl = s.jnl := rfl
@[simp] theorem State.modChest_sta (f : Chest → Chest) (s : State) : (s.modChest f).sta = s.sta := rfl
@[simp] theorem State.modChest_mgmt (f : Chest → Chest) (s : State) : (s.modChest f).mgmt = s.mgmt := rfl
@[simp] theorem State.modChest_power (f : Chest → Chest) (s : State) : (s.modChest f).power = s.power := rfl
@[simp] theorem State.modChest_link (f : Chest → Chest) (s : State) : (s.modChest f).link = s.link := rfl

@[simp] theorem State.modSlice_pending (p : Nat) (f : Slice → Slice) (s : State) : (s.modSlice p f).pending = s.pending := rfl
@[simp] theorem State.modSlice_time (p : Nat) (f : Slice → Slice) (s : State) : (s.modSlice p f).time = s.time := rfl
@[simp] theorem State.modSlice_port (p : Nat) (f : Slice → Slice) (s : State) : (s.modSlice p f).port = s.port := rfl
@[simp] theorem State.modSlice_integ (p : Nat) (f : Slice → Slice) (s : State) : (s.modSlice p f).integ = s.integ := rfl
@[simp] theorem State.modSlice_mem (p : Nat) (f : Slice → Slice) (s : State) : (s.modSlice p f).mem = s.mem := rfl
@[simp] theorem State.modSlice_hub (p : Nat) (f : Slice → Slice) (s : State) : (s.modSlice p f).hub = s.hub := rfl
@[simp] theorem State.modSlice_tenants (p : Nat) (f : Slice → Slice) (s : State) : (s.modSlice p f).tenants = s.tenants := rfl
@[simp] theorem State.modSlice_contexts (p : Nat) (f : Slice → Slice) (s : State) : (s.modSlice p f).contexts = s.contexts := rfl
@[simp] theorem State.modSlice_objects (p : Nat) (f : Slice → Slice) (s : State) : (s.modSlice p f).objects = s.objects := rfl
@[simp] theorem State.modSlice_graphs (p : Nat) (f : Slice → Slice) (s : State) : (s.modSlice p f).graphs = s.graphs := rfl
@[simp] theorem State.modSlice_front (p : Nat) (f : Slice → Slice) (s : State) : (s.modSlice p f).front = s.front := rfl
@[simp] theorem State.modSlice_bramble (p : Nat) (f : Slice → Slice) (s : State) : (s.modSlice p f).bramble = s.bramble := rfl
@[simp] theorem State.modSlice_trestle (p : Nat) (f : Slice → Slice) (s : State) : (s.modSlice p f).trestle = s.trestle := rfl
@[simp] theorem State.modSlice_sched (p : Nat) (f : Slice → Slice) (s : State) : (s.modSlice p f).sched = s.sched := rfl
@[simp] theorem State.modSlice_wrd (p : Nat) (f : Slice → Slice) (s : State) : (s.modSlice p f).wrd = s.wrd := rfl
@[simp] theorem State.modSlice_chest (p : Nat) (f : Slice → Slice) (s : State) : (s.modSlice p f).chest = s.chest := rfl
@[simp] theorem State.modSlice_bureau (p : Nat) (f : Slice → Slice) (s : State) : (s.modSlice p f).bureau = s.bureau := rfl
@[simp] theorem State.modSlice_watch (p : Nat) (f : Slice → Slice) (s : State) : (s.modSlice p f).watch = s.watch := rfl
@[simp] theorem State.modSlice_hutch (p : Nat) (f : Slice → Slice) (s : State) : (s.modSlice p f).hutch = s.hutch := rfl
@[simp] theorem State.modSlice_jnl (p : Nat) (f : Slice → Slice) (s : State) : (s.modSlice p f).jnl = s.jnl := rfl
@[simp] theorem State.modSlice_sta (p : Nat) (f : Slice → Slice) (s : State) : (s.modSlice p f).sta = s.sta := rfl
@[simp] theorem State.modSlice_mgmt (p : Nat) (f : Slice → Slice) (s : State) : (s.modSlice p f).mgmt = s.mgmt := rfl
@[simp] theorem State.modSlice_power (p : Nat) (f : Slice → Slice) (s : State) : (s.modSlice p f).power = s.power := rfl
@[simp] theorem State.modSlice_link (p : Nat) (f : Slice → Slice) (s : State) : (s.modSlice p f).link = s.link := rfl

@[simp] theorem State.modStream_pending (p st : Nat) (f : Stream → Stream) (s : State) : (s.modStream p st f).pending = s.pending := rfl
@[simp] theorem State.modStream_time (p st : Nat) (f : Stream → Stream) (s : State) : (s.modStream p st f).time = s.time := rfl
@[simp] theorem State.modStream_port (p st : Nat) (f : Stream → Stream) (s : State) : (s.modStream p st f).port = s.port := rfl
@[simp] theorem State.modStream_integ (p st : Nat) (f : Stream → Stream) (s : State) : (s.modStream p st f).integ = s.integ := rfl
@[simp] theorem State.modStream_mem (p st : Nat) (f : Stream → Stream) (s : State) : (s.modStream p st f).mem = s.mem := rfl
@[simp] theorem State.modStream_hub (p st : Nat) (f : Stream → Stream) (s : State) : (s.modStream p st f).hub = s.hub := rfl
@[simp] theorem State.modStream_tenants (p st : Nat) (f : Stream → Stream) (s : State) : (s.modStream p st f).tenants = s.tenants := rfl
@[simp] theorem State.modStream_contexts (p st : Nat) (f : Stream → Stream) (s : State) : (s.modStream p st f).contexts = s.contexts := rfl
@[simp] theorem State.modStream_objects (p st : Nat) (f : Stream → Stream) (s : State) : (s.modStream p st f).objects = s.objects := rfl
@[simp] theorem State.modStream_graphs (p st : Nat) (f : Stream → Stream) (s : State) : (s.modStream p st f).graphs = s.graphs := rfl
@[simp] theorem State.modStream_front (p st : Nat) (f : Stream → Stream) (s : State) : (s.modStream p st f).front = s.front := rfl
@[simp] theorem State.modStream_bramble (p st : Nat) (f : Stream → Stream) (s : State) : (s.modStream p st f).bramble = s.bramble := rfl
@[simp] theorem State.modStream_trestle (p st : Nat) (f : Stream → Stream) (s : State) : (s.modStream p st f).trestle = s.trestle := rfl
@[simp] theorem State.modStream_sched (p st : Nat) (f : Stream → Stream) (s : State) : (s.modStream p st f).sched = s.sched := rfl
@[simp] theorem State.modStream_wrd (p st : Nat) (f : Stream → Stream) (s : State) : (s.modStream p st f).wrd = s.wrd := rfl
@[simp] theorem State.modStream_chest (p st : Nat) (f : Stream → Stream) (s : State) : (s.modStream p st f).chest = s.chest := rfl
@[simp] theorem State.modStream_bureau (p st : Nat) (f : Stream → Stream) (s : State) : (s.modStream p st f).bureau = s.bureau := rfl
@[simp] theorem State.modStream_watch (p st : Nat) (f : Stream → Stream) (s : State) : (s.modStream p st f).watch = s.watch := rfl
@[simp] theorem State.modStream_hutch (p st : Nat) (f : Stream → Stream) (s : State) : (s.modStream p st f).hutch = s.hutch := rfl
@[simp] theorem State.modStream_jnl (p st : Nat) (f : Stream → Stream) (s : State) : (s.modStream p st f).jnl = s.jnl := rfl
@[simp] theorem State.modStream_sta (p st : Nat) (f : Stream → Stream) (s : State) : (s.modStream p st f).sta = s.sta := rfl
@[simp] theorem State.modStream_mgmt (p st : Nat) (f : Stream → Stream) (s : State) : (s.modStream p st f).mgmt = s.mgmt := rfl
@[simp] theorem State.modStream_power (p st : Nat) (f : Stream → Stream) (s : State) : (s.modStream p st f).power = s.power := rfl
@[simp] theorem State.modStream_link (p st : Nat) (f : Stream → Stream) (s : State) : (s.modStream p st f).link = s.link := rfl

@[simp] theorem State.modRes_pending (r : Nat) (f : Residency → Residency) (s : State) : (s.modRes r f).pending = s.pending := rfl
@[simp] theorem State.modRes_time (r : Nat) (f : Residency → Residency) (s : State) : (s.modRes r f).time = s.time := rfl
@[simp] theorem State.modRes_port (r : Nat) (f : Residency → Residency) (s : State) : (s.modRes r f).port = s.port := rfl
@[simp] theorem State.modRes_integ (r : Nat) (f : Residency → Residency) (s : State) : (s.modRes r f).integ = s.integ := rfl
@[simp] theorem State.modRes_mem (r : Nat) (f : Residency → Residency) (s : State) : (s.modRes r f).mem = s.mem := rfl
@[simp] theorem State.modRes_hub (r : Nat) (f : Residency → Residency) (s : State) : (s.modRes r f).hub = s.hub := rfl
@[simp] theorem State.modRes_tenants (r : Nat) (f : Residency → Residency) (s : State) : (s.modRes r f).tenants = s.tenants := rfl
@[simp] theorem State.modRes_contexts (r : Nat) (f : Residency → Residency) (s : State) : (s.modRes r f).contexts = s.contexts := rfl
@[simp] theorem State.modRes_objects (r : Nat) (f : Residency → Residency) (s : State) : (s.modRes r f).objects = s.objects := rfl
@[simp] theorem State.modRes_graphs (r : Nat) (f : Residency → Residency) (s : State) : (s.modRes r f).graphs = s.graphs := rfl
@[simp] theorem State.modRes_front (r : Nat) (f : Residency → Residency) (s : State) : (s.modRes r f).front = s.front := rfl
@[simp] theorem State.modRes_bramble (r : Nat) (f : Residency → Residency) (s : State) : (s.modRes r f).bramble = s.bramble := rfl
@[simp] theorem State.modRes_slices (r : Nat) (f : Residency → Residency) (s : State) : (s.modRes r f).slices = s.slices := rfl
@[simp] theorem State.modRes_trestle (r : Nat) (f : Residency → Residency) (s : State) : (s.modRes r f).trestle = s.trestle := rfl
@[simp] theorem State.modRes_wrd (r : Nat) (f : Residency → Residency) (s : State) : (s.modRes r f).wrd = s.wrd := rfl
@[simp] theorem State.modRes_chest (r : Nat) (f : Residency → Residency) (s : State) : (s.modRes r f).chest = s.chest := rfl
@[simp] theorem State.modRes_bureau (r : Nat) (f : Residency → Residency) (s : State) : (s.modRes r f).bureau = s.bureau := rfl
@[simp] theorem State.modRes_watch (r : Nat) (f : Residency → Residency) (s : State) : (s.modRes r f).watch = s.watch := rfl
@[simp] theorem State.modRes_hutch (r : Nat) (f : Residency → Residency) (s : State) : (s.modRes r f).hutch = s.hutch := rfl
@[simp] theorem State.modRes_jnl (r : Nat) (f : Residency → Residency) (s : State) : (s.modRes r f).jnl = s.jnl := rfl
@[simp] theorem State.modRes_sta (r : Nat) (f : Residency → Residency) (s : State) : (s.modRes r f).sta = s.sta := rfl
@[simp] theorem State.modRes_mgmt (r : Nat) (f : Residency → Residency) (s : State) : (s.modRes r f).mgmt = s.mgmt := rfl
@[simp] theorem State.modRes_power (r : Nat) (f : Residency → Residency) (s : State) : (s.modRes r f).power = s.power := rfl
@[simp] theorem State.modRes_link (r : Nat) (f : Residency → Residency) (s : State) : (s.modRes r f).link = s.link := rfl

@[simp] theorem State.modCore_pending (k : Nat) (f : Core → Core) (s : State) : (s.modCore k f).pending = s.pending := rfl
@[simp] theorem State.modCore_time (k : Nat) (f : Core → Core) (s : State) : (s.modCore k f).time = s.time := rfl
@[simp] theorem State.modCore_port (k : Nat) (f : Core → Core) (s : State) : (s.modCore k f).port = s.port := rfl
@[simp] theorem State.modCore_integ (k : Nat) (f : Core → Core) (s : State) : (s.modCore k f).integ = s.integ := rfl
@[simp] theorem State.modCore_mem (k : Nat) (f : Core → Core) (s : State) : (s.modCore k f).mem = s.mem := rfl
@[simp] theorem State.modCore_hub (k : Nat) (f : Core → Core) (s : State) : (s.modCore k f).hub = s.hub := rfl
@[simp] theorem State.modCore_tenants (k : Nat) (f : Core → Core) (s : State) : (s.modCore k f).tenants = s.tenants := rfl
@[simp] theorem State.modCore_contexts (k : Nat) (f : Core → Core) (s : State) : (s.modCore k f).contexts = s.contexts := rfl
@[simp] theorem State.modCore_objects (k : Nat) (f : Core → Core) (s : State) : (s.modCore k f).objects = s.objects := rfl
@[simp] theorem State.modCore_graphs (k : Nat) (f : Core → Core) (s : State) : (s.modCore k f).graphs = s.graphs := rfl
@[simp] theorem State.modCore_front (k : Nat) (f : Core → Core) (s : State) : (s.modCore k f).front = s.front := rfl
@[simp] theorem State.modCore_bramble (k : Nat) (f : Core → Core) (s : State) : (s.modCore k f).bramble = s.bramble := rfl
@[simp] theorem State.modCore_slices (k : Nat) (f : Core → Core) (s : State) : (s.modCore k f).slices = s.slices := rfl
@[simp] theorem State.modCore_trestle (k : Nat) (f : Core → Core) (s : State) : (s.modCore k f).trestle = s.trestle := rfl
@[simp] theorem State.modCore_sched (k : Nat) (f : Core → Core) (s : State) : (s.modCore k f).sched = s.sched := rfl
@[simp] theorem State.modCore_wrd (k : Nat) (f : Core → Core) (s : State) : (s.modCore k f).wrd = s.wrd := rfl
@[simp] theorem State.modCore_chest (k : Nat) (f : Core → Core) (s : State) : (s.modCore k f).chest = s.chest := rfl
@[simp] theorem State.modCore_bureau (k : Nat) (f : Core → Core) (s : State) : (s.modCore k f).bureau = s.bureau := rfl
@[simp] theorem State.modCore_watch (k : Nat) (f : Core → Core) (s : State) : (s.modCore k f).watch = s.watch := rfl
@[simp] theorem State.modCore_hutch (k : Nat) (f : Core → Core) (s : State) : (s.modCore k f).hutch = s.hutch := rfl
@[simp] theorem State.modCore_jnl (k : Nat) (f : Core → Core) (s : State) : (s.modCore k f).jnl = s.jnl := rfl
@[simp] theorem State.modCore_sta (k : Nat) (f : Core → Core) (s : State) : (s.modCore k f).sta = s.sta := rfl
@[simp] theorem State.modCore_power (k : Nat) (f : Core → Core) (s : State) : (s.modCore k f).power = s.power := rfl
@[simp] theorem State.modCore_link (k : Nat) (f : Core → Core) (s : State) : (s.modCore k f).link = s.link := rfl

@[simp] theorem State.modModel_pending (k : Nat) (f : Model → Model) (s : State) : (s.modModel k f).pending = s.pending := rfl
@[simp] theorem State.modModel_time (k : Nat) (f : Model → Model) (s : State) : (s.modModel k f).time = s.time := rfl
@[simp] theorem State.modModel_port (k : Nat) (f : Model → Model) (s : State) : (s.modModel k f).port = s.port := rfl
@[simp] theorem State.modModel_integ (k : Nat) (f : Model → Model) (s : State) : (s.modModel k f).integ = s.integ := rfl
@[simp] theorem State.modModel_mem (k : Nat) (f : Model → Model) (s : State) : (s.modModel k f).mem = s.mem := rfl
@[simp] theorem State.modModel_hub (k : Nat) (f : Model → Model) (s : State) : (s.modModel k f).hub = s.hub := rfl
@[simp] theorem State.modModel_tenants (k : Nat) (f : Model → Model) (s : State) : (s.modModel k f).tenants = s.tenants := rfl
@[simp] theorem State.modModel_contexts (k : Nat) (f : Model → Model) (s : State) : (s.modModel k f).contexts = s.contexts := rfl
@[simp] theorem State.modModel_objects (k : Nat) (f : Model → Model) (s : State) : (s.modModel k f).objects = s.objects := rfl
@[simp] theorem State.modModel_graphs (k : Nat) (f : Model → Model) (s : State) : (s.modModel k f).graphs = s.graphs := rfl
@[simp] theorem State.modModel_front (k : Nat) (f : Model → Model) (s : State) : (s.modModel k f).front = s.front := rfl
@[simp] theorem State.modModel_bramble (k : Nat) (f : Model → Model) (s : State) : (s.modModel k f).bramble = s.bramble := rfl
@[simp] theorem State.modModel_slices (k : Nat) (f : Model → Model) (s : State) : (s.modModel k f).slices = s.slices := rfl
@[simp] theorem State.modModel_trestle (k : Nat) (f : Model → Model) (s : State) : (s.modModel k f).trestle = s.trestle := rfl
@[simp] theorem State.modModel_sched (k : Nat) (f : Model → Model) (s : State) : (s.modModel k f).sched = s.sched := rfl
@[simp] theorem State.modModel_chest (k : Nat) (f : Model → Model) (s : State) : (s.modModel k f).chest = s.chest := rfl
@[simp] theorem State.modModel_bureau (k : Nat) (f : Model → Model) (s : State) : (s.modModel k f).bureau = s.bureau := rfl
@[simp] theorem State.modModel_watch (k : Nat) (f : Model → Model) (s : State) : (s.modModel k f).watch = s.watch := rfl
@[simp] theorem State.modModel_hutch (k : Nat) (f : Model → Model) (s : State) : (s.modModel k f).hutch = s.hutch := rfl
@[simp] theorem State.modModel_jnl (k : Nat) (f : Model → Model) (s : State) : (s.modModel k f).jnl = s.jnl := rfl
@[simp] theorem State.modModel_sta (k : Nat) (f : Model → Model) (s : State) : (s.modModel k f).sta = s.sta := rfl
@[simp] theorem State.modModel_mgmt (k : Nat) (f : Model → Model) (s : State) : (s.modModel k f).mgmt = s.mgmt := rfl
@[simp] theorem State.modModel_power (k : Nat) (f : Model → Model) (s : State) : (s.modModel k f).power = s.power := rfl
@[simp] theorem State.modModel_link (k : Nat) (f : Model → Model) (s : State) : (s.modModel k f).link = s.link := rfl

@[simp] theorem State.modBureau_pending (f : Bureau → Bureau) (s : State) : (s.modBureau f).pending = s.pending := rfl
@[simp] theorem State.modBureau_time (f : Bureau → Bureau) (s : State) : (s.modBureau f).time = s.time := rfl
@[simp] theorem State.modBureau_port (f : Bureau → Bureau) (s : State) : (s.modBureau f).port = s.port := rfl
@[simp] theorem State.modBureau_integ (f : Bureau → Bureau) (s : State) : (s.modBureau f).integ = s.integ := rfl
@[simp] theorem State.modBureau_mem (f : Bureau → Bureau) (s : State) : (s.modBureau f).mem = s.mem := rfl
@[simp] theorem State.modBureau_hub (f : Bureau → Bureau) (s : State) : (s.modBureau f).hub = s.hub := rfl
@[simp] theorem State.modBureau_tenants (f : Bureau → Bureau) (s : State) : (s.modBureau f).tenants = s.tenants := rfl
@[simp] theorem State.modBureau_contexts (f : Bureau → Bureau) (s : State) : (s.modBureau f).contexts = s.contexts := rfl
@[simp] theorem State.modBureau_objects (f : Bureau → Bureau) (s : State) : (s.modBureau f).objects = s.objects := rfl
@[simp] theorem State.modBureau_graphs (f : Bureau → Bureau) (s : State) : (s.modBureau f).graphs = s.graphs := rfl
@[simp] theorem State.modBureau_front (f : Bureau → Bureau) (s : State) : (s.modBureau f).front = s.front := rfl
@[simp] theorem State.modBureau_bramble (f : Bureau → Bureau) (s : State) : (s.modBureau f).bramble = s.bramble := rfl
@[simp] theorem State.modBureau_slices (f : Bureau → Bureau) (s : State) : (s.modBureau f).slices = s.slices := rfl
@[simp] theorem State.modBureau_trestle (f : Bureau → Bureau) (s : State) : (s.modBureau f).trestle = s.trestle := rfl
@[simp] theorem State.modBureau_sched (f : Bureau → Bureau) (s : State) : (s.modBureau f).sched = s.sched := rfl
@[simp] theorem State.modBureau_wrd (f : Bureau → Bureau) (s : State) : (s.modBureau f).wrd = s.wrd := rfl
@[simp] theorem State.modBureau_chest (f : Bureau → Bureau) (s : State) : (s.modBureau f).chest = s.chest := rfl
@[simp] theorem State.modBureau_watch (f : Bureau → Bureau) (s : State) : (s.modBureau f).watch = s.watch := rfl
@[simp] theorem State.modBureau_hutch (f : Bureau → Bureau) (s : State) : (s.modBureau f).hutch = s.hutch := rfl
@[simp] theorem State.modBureau_jnl (f : Bureau → Bureau) (s : State) : (s.modBureau f).jnl = s.jnl := rfl
@[simp] theorem State.modBureau_sta (f : Bureau → Bureau) (s : State) : (s.modBureau f).sta = s.sta := rfl
@[simp] theorem State.modBureau_mgmt (f : Bureau → Bureau) (s : State) : (s.modBureau f).mgmt = s.mgmt := rfl
@[simp] theorem State.modBureau_power (f : Bureau → Bureau) (s : State) : (s.modBureau f).power = s.power := rfl
@[simp] theorem State.modBureau_link (f : Bureau → Bureau) (s : State) : (s.modBureau f).link = s.link := rfl

@[simp] theorem State.modPower_pending (f : Power → Power) (s : State) : (s.modPower f).pending = s.pending := rfl
@[simp] theorem State.modPower_time (f : Power → Power) (s : State) : (s.modPower f).time = s.time := rfl
@[simp] theorem State.modPower_port (f : Power → Power) (s : State) : (s.modPower f).port = s.port := rfl
@[simp] theorem State.modPower_integ (f : Power → Power) (s : State) : (s.modPower f).integ = s.integ := rfl
@[simp] theorem State.modPower_mem (f : Power → Power) (s : State) : (s.modPower f).mem = s.mem := rfl
@[simp] theorem State.modPower_hub (f : Power → Power) (s : State) : (s.modPower f).hub = s.hub := rfl
@[simp] theorem State.modPower_tenants (f : Power → Power) (s : State) : (s.modPower f).tenants = s.tenants := rfl
@[simp] theorem State.modPower_contexts (f : Power → Power) (s : State) : (s.modPower f).contexts = s.contexts := rfl
@[simp] theorem State.modPower_objects (f : Power → Power) (s : State) : (s.modPower f).objects = s.objects := rfl
@[simp] theorem State.modPower_graphs (f : Power → Power) (s : State) : (s.modPower f).graphs = s.graphs := rfl
@[simp] theorem State.modPower_front (f : Power → Power) (s : State) : (s.modPower f).front = s.front := rfl
@[simp] theorem State.modPower_bramble (f : Power → Power) (s : State) : (s.modPower f).bramble = s.bramble := rfl
@[simp] theorem State.modPower_slices (f : Power → Power) (s : State) : (s.modPower f).slices = s.slices := rfl
@[simp] theorem State.modPower_trestle (f : Power → Power) (s : State) : (s.modPower f).trestle = s.trestle := rfl
@[simp] theorem State.modPower_sched (f : Power → Power) (s : State) : (s.modPower f).sched = s.sched := rfl
@[simp] theorem State.modPower_wrd (f : Power → Power) (s : State) : (s.modPower f).wrd = s.wrd := rfl
@[simp] theorem State.modPower_chest (f : Power → Power) (s : State) : (s.modPower f).chest = s.chest := rfl
@[simp] theorem State.modPower_bureau (f : Power → Power) (s : State) : (s.modPower f).bureau = s.bureau := rfl
@[simp] theorem State.modPower_watch (f : Power → Power) (s : State) : (s.modPower f).watch = s.watch := rfl
@[simp] theorem State.modPower_hutch (f : Power → Power) (s : State) : (s.modPower f).hutch = s.hutch := rfl
@[simp] theorem State.modPower_jnl (f : Power → Power) (s : State) : (s.modPower f).jnl = s.jnl := rfl
@[simp] theorem State.modPower_sta (f : Power → Power) (s : State) : (s.modPower f).sta = s.sta := rfl
@[simp] theorem State.modPower_mgmt (f : Power → Power) (s : State) : (s.modPower f).mgmt = s.mgmt := rfl
@[simp] theorem State.modPower_link (f : Power → Power) (s : State) : (s.modPower f).link = s.link := rfl

@[simp] theorem State.modMgmt_pending (f : Mgmt → Mgmt) (s : State) : (s.modMgmt f).pending = s.pending := rfl
@[simp] theorem State.modMgmt_time (f : Mgmt → Mgmt) (s : State) : (s.modMgmt f).time = s.time := rfl
@[simp] theorem State.modMgmt_port (f : Mgmt → Mgmt) (s : State) : (s.modMgmt f).port = s.port := rfl
@[simp] theorem State.modMgmt_integ (f : Mgmt → Mgmt) (s : State) : (s.modMgmt f).integ = s.integ := rfl
@[simp] theorem State.modMgmt_mem (f : Mgmt → Mgmt) (s : State) : (s.modMgmt f).mem = s.mem := rfl
@[simp] theorem State.modMgmt_hub (f : Mgmt → Mgmt) (s : State) : (s.modMgmt f).hub = s.hub := rfl
@[simp] theorem State.modMgmt_tenants (f : Mgmt → Mgmt) (s : State) : (s.modMgmt f).tenants = s.tenants := rfl
@[simp] theorem State.modMgmt_contexts (f : Mgmt → Mgmt) (s : State) : (s.modMgmt f).contexts = s.contexts := rfl
@[simp] theorem State.modMgmt_objects (f : Mgmt → Mgmt) (s : State) : (s.modMgmt f).objects = s.objects := rfl
@[simp] theorem State.modMgmt_graphs (f : Mgmt → Mgmt) (s : State) : (s.modMgmt f).graphs = s.graphs := rfl
@[simp] theorem State.modMgmt_front (f : Mgmt → Mgmt) (s : State) : (s.modMgmt f).front = s.front := rfl
@[simp] theorem State.modMgmt_bramble (f : Mgmt → Mgmt) (s : State) : (s.modMgmt f).bramble = s.bramble := rfl
@[simp] theorem State.modMgmt_slices (f : Mgmt → Mgmt) (s : State) : (s.modMgmt f).slices = s.slices := rfl
@[simp] theorem State.modMgmt_trestle (f : Mgmt → Mgmt) (s : State) : (s.modMgmt f).trestle = s.trestle := rfl
@[simp] theorem State.modMgmt_sched (f : Mgmt → Mgmt) (s : State) : (s.modMgmt f).sched = s.sched := rfl
@[simp] theorem State.modMgmt_wrd (f : Mgmt → Mgmt) (s : State) : (s.modMgmt f).wrd = s.wrd := rfl
@[simp] theorem State.modMgmt_chest (f : Mgmt → Mgmt) (s : State) : (s.modMgmt f).chest = s.chest := rfl
@[simp] theorem State.modMgmt_bureau (f : Mgmt → Mgmt) (s : State) : (s.modMgmt f).bureau = s.bureau := rfl
@[simp] theorem State.modMgmt_watch (f : Mgmt → Mgmt) (s : State) : (s.modMgmt f).watch = s.watch := rfl
@[simp] theorem State.modMgmt_hutch (f : Mgmt → Mgmt) (s : State) : (s.modMgmt f).hutch = s.hutch := rfl
@[simp] theorem State.modMgmt_jnl (f : Mgmt → Mgmt) (s : State) : (s.modMgmt f).jnl = s.jnl := rfl
@[simp] theorem State.modMgmt_sta (f : Mgmt → Mgmt) (s : State) : (s.modMgmt f).sta = s.sta := rfl
@[simp] theorem State.modMgmt_power (f : Mgmt → Mgmt) (s : State) : (s.modMgmt f).power = s.power := rfl
@[simp] theorem State.modMgmt_link (f : Mgmt → Mgmt) (s : State) : (s.modMgmt f).link = s.link := rfl

@[simp] theorem State.modPort_pending (f : Port → Port) (s : State) : (s.modPort f).pending = s.pending := rfl
@[simp] theorem State.modPort_time (f : Port → Port) (s : State) : (s.modPort f).time = s.time := rfl
@[simp] theorem State.modPort_integ (f : Port → Port) (s : State) : (s.modPort f).integ = s.integ := rfl
@[simp] theorem State.modPort_mem (f : Port → Port) (s : State) : (s.modPort f).mem = s.mem := rfl
@[simp] theorem State.modPort_hub (f : Port → Port) (s : State) : (s.modPort f).hub = s.hub := rfl
@[simp] theorem State.modPort_tenants (f : Port → Port) (s : State) : (s.modPort f).tenants = s.tenants := rfl
@[simp] theorem State.modPort_contexts (f : Port → Port) (s : State) : (s.modPort f).contexts = s.contexts := rfl
@[simp] theorem State.modPort_objects (f : Port → Port) (s : State) : (s.modPort f).objects = s.objects := rfl
@[simp] theorem State.modPort_graphs (f : Port → Port) (s : State) : (s.modPort f).graphs = s.graphs := rfl
@[simp] theorem State.modPort_front (f : Port → Port) (s : State) : (s.modPort f).front = s.front := rfl
@[simp] theorem State.modPort_bramble (f : Port → Port) (s : State) : (s.modPort f).bramble = s.bramble := rfl
@[simp] theorem State.modPort_slices (f : Port → Port) (s : State) : (s.modPort f).slices = s.slices := rfl
@[simp] theorem State.modPort_trestle (f : Port → Port) (s : State) : (s.modPort f).trestle = s.trestle := rfl
@[simp] theorem State.modPort_sched (f : Port → Port) (s : State) : (s.modPort f).sched = s.sched := rfl
@[simp] theorem State.modPort_wrd (f : Port → Port) (s : State) : (s.modPort f).wrd = s.wrd := rfl
@[simp] theorem State.modPort_chest (f : Port → Port) (s : State) : (s.modPort f).chest = s.chest := rfl
@[simp] theorem State.modPort_bureau (f : Port → Port) (s : State) : (s.modPort f).bureau = s.bureau := rfl
@[simp] theorem State.modPort_watch (f : Port → Port) (s : State) : (s.modPort f).watch = s.watch := rfl
@[simp] theorem State.modPort_hutch (f : Port → Port) (s : State) : (s.modPort f).hutch = s.hutch := rfl
@[simp] theorem State.modPort_jnl (f : Port → Port) (s : State) : (s.modPort f).jnl = s.jnl := rfl
@[simp] theorem State.modPort_sta (f : Port → Port) (s : State) : (s.modPort f).sta = s.sta := rfl
@[simp] theorem State.modPort_mgmt (f : Port → Port) (s : State) : (s.modPort f).mgmt = s.mgmt := rfl
@[simp] theorem State.modPort_power (f : Port → Port) (s : State) : (s.modPort f).power = s.power := rfl
@[simp] theorem State.modPort_link (f : Port → Port) (s : State) : (s.modPort f).link = s.link := rfl

@[simp] theorem State.modLink_pending (f : Link → Link) (s : State) : (s.modLink f).pending = s.pending := rfl
@[simp] theorem State.modLink_time (f : Link → Link) (s : State) : (s.modLink f).time = s.time := rfl
@[simp] theorem State.modLink_port (f : Link → Link) (s : State) : (s.modLink f).port = s.port := rfl
@[simp] theorem State.modLink_integ (f : Link → Link) (s : State) : (s.modLink f).integ = s.integ := rfl
@[simp] theorem State.modLink_mem (f : Link → Link) (s : State) : (s.modLink f).mem = s.mem := rfl
@[simp] theorem State.modLink_hub (f : Link → Link) (s : State) : (s.modLink f).hub = s.hub := rfl
@[simp] theorem State.modLink_tenants (f : Link → Link) (s : State) : (s.modLink f).tenants = s.tenants := rfl
@[simp] theorem State.modLink_contexts (f : Link → Link) (s : State) : (s.modLink f).contexts = s.contexts := rfl
@[simp] theorem State.modLink_objects (f : Link → Link) (s : State) : (s.modLink f).objects = s.objects := rfl
@[simp] theorem State.modLink_graphs (f : Link → Link) (s : State) : (s.modLink f).graphs = s.graphs := rfl
@[simp] theorem State.modLink_front (f : Link → Link) (s : State) : (s.modLink f).front = s.front := rfl
@[simp] theorem State.modLink_bramble (f : Link → Link) (s : State) : (s.modLink f).bramble = s.bramble := rfl
@[simp] theorem State.modLink_slices (f : Link → Link) (s : State) : (s.modLink f).slices = s.slices := rfl
@[simp] theorem State.modLink_trestle (f : Link → Link) (s : State) : (s.modLink f).trestle = s.trestle := rfl
@[simp] theorem State.modLink_sched (f : Link → Link) (s : State) : (s.modLink f).sched = s.sched := rfl
@[simp] theorem State.modLink_wrd (f : Link → Link) (s : State) : (s.modLink f).wrd = s.wrd := rfl
@[simp] theorem State.modLink_chest (f : Link → Link) (s : State) : (s.modLink f).chest = s.chest := rfl
@[simp] theorem State.modLink_bureau (f : Link → Link) (s : State) : (s.modLink f).bureau = s.bureau := rfl
@[simp] theorem State.modLink_watch (f : Link → Link) (s : State) : (s.modLink f).watch = s.watch := rfl
@[simp] theorem State.modLink_hutch (f : Link → Link) (s : State) : (s.modLink f).hutch = s.hutch := rfl
@[simp] theorem State.modLink_jnl (f : Link → Link) (s : State) : (s.modLink f).jnl = s.jnl := rfl
@[simp] theorem State.modLink_sta (f : Link → Link) (s : State) : (s.modLink f).sta = s.sta := rfl
@[simp] theorem State.modLink_mgmt (f : Link → Link) (s : State) : (s.modLink f).mgmt = s.mgmt := rfl
@[simp] theorem State.modLink_power (f : Link → Link) (s : State) : (s.modLink f).power = s.power := rfl

@[simp] theorem State.modJnl_pending (f : JnlRegs → JnlRegs) (s : State) : (s.modJnl f).pending = s.pending := rfl
@[simp] theorem State.modJnl_time (f : JnlRegs → JnlRegs) (s : State) : (s.modJnl f).time = s.time := rfl
@[simp] theorem State.modJnl_port (f : JnlRegs → JnlRegs) (s : State) : (s.modJnl f).port = s.port := rfl
@[simp] theorem State.modJnl_integ (f : JnlRegs → JnlRegs) (s : State) : (s.modJnl f).integ = s.integ := rfl
@[simp] theorem State.modJnl_mem (f : JnlRegs → JnlRegs) (s : State) : (s.modJnl f).mem = s.mem := rfl
@[simp] theorem State.modJnl_hub (f : JnlRegs → JnlRegs) (s : State) : (s.modJnl f).hub = s.hub := rfl
@[simp] theorem State.modJnl_tenants (f : JnlRegs → JnlRegs) (s : State) : (s.modJnl f).tenants = s.tenants := rfl
@[simp] theorem State.modJnl_contexts (f : JnlRegs → JnlRegs) (s : State) : (s.modJnl f).contexts = s.contexts := rfl
@[simp] theorem State.modJnl_objects (f : JnlRegs → JnlRegs) (s : State) : (s.modJnl f).objects = s.objects := rfl
@[simp] theorem State.modJnl_graphs (f : JnlRegs → JnlRegs) (s : State) : (s.modJnl f).graphs = s.graphs := rfl
@[simp] theorem State.modJnl_front (f : JnlRegs → JnlRegs) (s : State) : (s.modJnl f).front = s.front := rfl
@[simp] theorem State.modJnl_bramble (f : JnlRegs → JnlRegs) (s : State) : (s.modJnl f).bramble = s.bramble := rfl
@[simp] theorem State.modJnl_slices (f : JnlRegs → JnlRegs) (s : State) : (s.modJnl f).slices = s.slices := rfl
@[simp] theorem State.modJnl_trestle (f : JnlRegs → JnlRegs) (s : State) : (s.modJnl f).trestle = s.trestle := rfl
@[simp] theorem State.modJnl_sched (f : JnlRegs → JnlRegs) (s : State) : (s.modJnl f).sched = s.sched := rfl
@[simp] theorem State.modJnl_wrd (f : JnlRegs → JnlRegs) (s : State) : (s.modJnl f).wrd = s.wrd := rfl
@[simp] theorem State.modJnl_chest (f : JnlRegs → JnlRegs) (s : State) : (s.modJnl f).chest = s.chest := rfl
@[simp] theorem State.modJnl_bureau (f : JnlRegs → JnlRegs) (s : State) : (s.modJnl f).bureau = s.bureau := rfl
@[simp] theorem State.modJnl_watch (f : JnlRegs → JnlRegs) (s : State) : (s.modJnl f).watch = s.watch := rfl
@[simp] theorem State.modJnl_hutch (f : JnlRegs → JnlRegs) (s : State) : (s.modJnl f).hutch = s.hutch := rfl
@[simp] theorem State.modJnl_sta (f : JnlRegs → JnlRegs) (s : State) : (s.modJnl f).sta = s.sta := rfl
@[simp] theorem State.modJnl_mgmt (f : JnlRegs → JnlRegs) (s : State) : (s.modJnl f).mgmt = s.mgmt := rfl
@[simp] theorem State.modJnl_power (f : JnlRegs → JnlRegs) (s : State) : (s.modJnl f).power = s.power := rfl
@[simp] theorem State.modJnl_link (f : JnlRegs → JnlRegs) (s : State) : (s.modJnl f).link = s.link := rfl

@[simp] theorem objResult_pending (r id : Nat) (s : State) : (objResult r id s).pending = s.pending := rfl
@[simp] theorem objResult_time (r id : Nat) (s : State) : (objResult r id s).time = s.time := rfl
@[simp] theorem objResult_port (r id : Nat) (s : State) : (objResult r id s).port = s.port := rfl
@[simp] theorem objResult_integ (r id : Nat) (s : State) : (objResult r id s).integ = s.integ := rfl
@[simp] theorem objResult_mem (r id : Nat) (s : State) : (objResult r id s).mem = s.mem := rfl
@[simp] theorem objResult_tenants (r id : Nat) (s : State) : (objResult r id s).tenants = s.tenants := rfl
@[simp] theorem objResult_contexts (r id : Nat) (s : State) : (objResult r id s).contexts = s.contexts := rfl
@[simp] theorem objResult_objects (r id : Nat) (s : State) : (objResult r id s).objects = s.objects := rfl
@[simp] theorem objResult_graphs (r id : Nat) (s : State) : (objResult r id s).graphs = s.graphs := rfl
@[simp] theorem objResult_front (r id : Nat) (s : State) : (objResult r id s).front = s.front := rfl
@[simp] theorem objResult_bramble (r id : Nat) (s : State) : (objResult r id s).bramble = s.bramble := rfl
@[simp] theorem objResult_slices (r id : Nat) (s : State) : (objResult r id s).slices = s.slices := rfl
@[simp] theorem objResult_trestle (r id : Nat) (s : State) : (objResult r id s).trestle = s.trestle := rfl
@[simp] theorem objResult_sched (r id : Nat) (s : State) : (objResult r id s).sched = s.sched := rfl
@[simp] theorem objResult_wrd (r id : Nat) (s : State) : (objResult r id s).wrd = s.wrd := rfl
@[simp] theorem objResult_chest (r id : Nat) (s : State) : (objResult r id s).chest = s.chest := rfl
@[simp] theorem objResult_bureau (r id : Nat) (s : State) : (objResult r id s).bureau = s.bureau := rfl
@[simp] theorem objResult_watch (r id : Nat) (s : State) : (objResult r id s).watch = s.watch := rfl
@[simp] theorem objResult_hutch (r id : Nat) (s : State) : (objResult r id s).hutch = s.hutch := rfl
@[simp] theorem objResult_jnl (r id : Nat) (s : State) : (objResult r id s).jnl = s.jnl := rfl
@[simp] theorem objResult_sta (r id : Nat) (s : State) : (objResult r id s).sta = s.sta := rfl
@[simp] theorem objResult_mgmt (r id : Nat) (s : State) : (objResult r id s).mgmt = s.mgmt := rfl
@[simp] theorem objResult_power (r id : Nat) (s : State) : (objResult r id s).power = s.power := rfl
@[simp] theorem objResult_link (r id : Nat) (s : State) : (objResult r id s).link = s.link := rfl

@[simp] theorem sealResult_pending (r : Nat) (s : State) : (sealResult r s).pending = s.pending := rfl
@[simp] theorem sealResult_time (r : Nat) (s : State) : (sealResult r s).time = s.time := rfl
@[simp] theorem sealResult_port (r : Nat) (s : State) : (sealResult r s).port = s.port := rfl
@[simp] theorem sealResult_integ (r : Nat) (s : State) : (sealResult r s).integ = s.integ := rfl
@[simp] theorem sealResult_mem (r : Nat) (s : State) : (sealResult r s).mem = s.mem := rfl
@[simp] theorem sealResult_tenants (r : Nat) (s : State) : (sealResult r s).tenants = s.tenants := rfl
@[simp] theorem sealResult_contexts (r : Nat) (s : State) : (sealResult r s).contexts = s.contexts := rfl
@[simp] theorem sealResult_objects (r : Nat) (s : State) : (sealResult r s).objects = s.objects := rfl
@[simp] theorem sealResult_graphs (r : Nat) (s : State) : (sealResult r s).graphs = s.graphs := rfl
@[simp] theorem sealResult_front (r : Nat) (s : State) : (sealResult r s).front = s.front := rfl
@[simp] theorem sealResult_bramble (r : Nat) (s : State) : (sealResult r s).bramble = s.bramble := rfl
@[simp] theorem sealResult_slices (r : Nat) (s : State) : (sealResult r s).slices = s.slices := rfl
@[simp] theorem sealResult_trestle (r : Nat) (s : State) : (sealResult r s).trestle = s.trestle := rfl
@[simp] theorem sealResult_sched (r : Nat) (s : State) : (sealResult r s).sched = s.sched := rfl
@[simp] theorem sealResult_wrd (r : Nat) (s : State) : (sealResult r s).wrd = s.wrd := rfl
@[simp] theorem sealResult_chest (r : Nat) (s : State) : (sealResult r s).chest = s.chest := rfl
@[simp] theorem sealResult_bureau (r : Nat) (s : State) : (sealResult r s).bureau = s.bureau := rfl
@[simp] theorem sealResult_watch (r : Nat) (s : State) : (sealResult r s).watch = s.watch := rfl
@[simp] theorem sealResult_hutch (r : Nat) (s : State) : (sealResult r s).hutch = s.hutch := rfl
@[simp] theorem sealResult_jnl (r : Nat) (s : State) : (sealResult r s).jnl = s.jnl := rfl
@[simp] theorem sealResult_sta (r : Nat) (s : State) : (sealResult r s).sta = s.sta := rfl
@[simp] theorem sealResult_mgmt (r : Nat) (s : State) : (sealResult r s).mgmt = s.mgmt := rfl
@[simp] theorem sealResult_power (r : Nat) (s : State) : (sealResult r s).power = s.power := rfl
@[simp] theorem sealResult_link (r : Nat) (s : State) : (sealResult r s).link = s.link := rfl

@[simp] theorem addStage_pending (x : Stage) (s : State) : (addStage x s).pending = s.pending := rfl
@[simp] theorem addStage_time (x : Stage) (s : State) : (addStage x s).time = s.time := rfl
@[simp] theorem addStage_port (x : Stage) (s : State) : (addStage x s).port = s.port := rfl
@[simp] theorem addStage_integ (x : Stage) (s : State) : (addStage x s).integ = s.integ := rfl
@[simp] theorem addStage_mem (x : Stage) (s : State) : (addStage x s).mem = s.mem := rfl
@[simp] theorem addStage_hub (x : Stage) (s : State) : (addStage x s).hub = s.hub := rfl
@[simp] theorem addStage_tenants (x : Stage) (s : State) : (addStage x s).tenants = s.tenants := rfl
@[simp] theorem addStage_contexts (x : Stage) (s : State) : (addStage x s).contexts = s.contexts := rfl
@[simp] theorem addStage_objects (x : Stage) (s : State) : (addStage x s).objects = s.objects := rfl
@[simp] theorem addStage_graphs (x : Stage) (s : State) : (addStage x s).graphs = s.graphs := rfl
@[simp] theorem addStage_front (x : Stage) (s : State) : (addStage x s).front = s.front := rfl
@[simp] theorem addStage_bramble (x : Stage) (s : State) : (addStage x s).bramble = s.bramble := rfl
@[simp] theorem addStage_slices (x : Stage) (s : State) : (addStage x s).slices = s.slices := rfl
@[simp] theorem addStage_trestle (x : Stage) (s : State) : (addStage x s).trestle = s.trestle := rfl
@[simp] theorem addStage_sched (x : Stage) (s : State) : (addStage x s).sched = s.sched := rfl
@[simp] theorem addStage_wrd (x : Stage) (s : State) : (addStage x s).wrd = s.wrd := rfl
@[simp] theorem addStage_chest (x : Stage) (s : State) : (addStage x s).chest = s.chest := rfl
@[simp] theorem addStage_bureau (x : Stage) (s : State) : (addStage x s).bureau = s.bureau := rfl
@[simp] theorem addStage_hutch (x : Stage) (s : State) : (addStage x s).hutch = s.hutch := rfl
@[simp] theorem addStage_jnl (x : Stage) (s : State) : (addStage x s).jnl = s.jnl := rfl
@[simp] theorem addStage_sta (x : Stage) (s : State) : (addStage x s).sta = s.sta := rfl
@[simp] theorem addStage_mgmt (x : Stage) (s : State) : (addStage x s).mgmt = s.mgmt := rfl
@[simp] theorem addStage_power (x : Stage) (s : State) : (addStage x s).power = s.power := rfl
@[simp] theorem addStage_link (x : Stage) (s : State) : (addStage x s).link = s.link := rfl

@[simp] theorem dropStage_pending (n unit : Nat) (s : State) : (dropStage n unit s).pending = s.pending := rfl
@[simp] theorem dropStage_time (n unit : Nat) (s : State) : (dropStage n unit s).time = s.time := rfl
@[simp] theorem dropStage_port (n unit : Nat) (s : State) : (dropStage n unit s).port = s.port := rfl
@[simp] theorem dropStage_integ (n unit : Nat) (s : State) : (dropStage n unit s).integ = s.integ := rfl
@[simp] theorem dropStage_mem (n unit : Nat) (s : State) : (dropStage n unit s).mem = s.mem := rfl
@[simp] theorem dropStage_hub (n unit : Nat) (s : State) : (dropStage n unit s).hub = s.hub := rfl
@[simp] theorem dropStage_tenants (n unit : Nat) (s : State) : (dropStage n unit s).tenants = s.tenants := rfl
@[simp] theorem dropStage_contexts (n unit : Nat) (s : State) : (dropStage n unit s).contexts = s.contexts := rfl
@[simp] theorem dropStage_objects (n unit : Nat) (s : State) : (dropStage n unit s).objects = s.objects := rfl
@[simp] theorem dropStage_graphs (n unit : Nat) (s : State) : (dropStage n unit s).graphs = s.graphs := rfl
@[simp] theorem dropStage_front (n unit : Nat) (s : State) : (dropStage n unit s).front = s.front := rfl
@[simp] theorem dropStage_bramble (n unit : Nat) (s : State) : (dropStage n unit s).bramble = s.bramble := rfl
@[simp] theorem dropStage_slices (n unit : Nat) (s : State) : (dropStage n unit s).slices = s.slices := rfl
@[simp] theorem dropStage_trestle (n unit : Nat) (s : State) : (dropStage n unit s).trestle = s.trestle := rfl
@[simp] theorem dropStage_sched (n unit : Nat) (s : State) : (dropStage n unit s).sched = s.sched := rfl
@[simp] theorem dropStage_wrd (n unit : Nat) (s : State) : (dropStage n unit s).wrd = s.wrd := rfl
@[simp] theorem dropStage_chest (n unit : Nat) (s : State) : (dropStage n unit s).chest = s.chest := rfl
@[simp] theorem dropStage_bureau (n unit : Nat) (s : State) : (dropStage n unit s).bureau = s.bureau := rfl
@[simp] theorem dropStage_hutch (n unit : Nat) (s : State) : (dropStage n unit s).hutch = s.hutch := rfl
@[simp] theorem dropStage_jnl (n unit : Nat) (s : State) : (dropStage n unit s).jnl = s.jnl := rfl
@[simp] theorem dropStage_sta (n unit : Nat) (s : State) : (dropStage n unit s).sta = s.sta := rfl
@[simp] theorem dropStage_mgmt (n unit : Nat) (s : State) : (dropStage n unit s).mgmt = s.mgmt := rfl
@[simp] theorem dropStage_power (n unit : Nat) (s : State) : (dropStage n unit s).power = s.power := rfl
@[simp] theorem dropStage_link (n unit : Nat) (s : State) : (dropStage n unit s).link = s.link := rfl

@[simp] theorem rstDone_pending (result : Nat) (s : State) : (rstDone result s).pending = s.pending := rfl
@[simp] theorem rstDone_time (result : Nat) (s : State) : (rstDone result s).time = s.time := rfl
@[simp] theorem rstDone_port (result : Nat) (s : State) : (rstDone result s).port = s.port := rfl
@[simp] theorem rstDone_integ (result : Nat) (s : State) : (rstDone result s).integ = s.integ := rfl
@[simp] theorem rstDone_mem (result : Nat) (s : State) : (rstDone result s).mem = s.mem := rfl
@[simp] theorem rstDone_hub (result : Nat) (s : State) : (rstDone result s).hub = s.hub := rfl
@[simp] theorem rstDone_tenants (result : Nat) (s : State) : (rstDone result s).tenants = s.tenants := rfl
@[simp] theorem rstDone_contexts (result : Nat) (s : State) : (rstDone result s).contexts = s.contexts := rfl
@[simp] theorem rstDone_objects (result : Nat) (s : State) : (rstDone result s).objects = s.objects := rfl
@[simp] theorem rstDone_graphs (result : Nat) (s : State) : (rstDone result s).graphs = s.graphs := rfl
@[simp] theorem rstDone_front (result : Nat) (s : State) : (rstDone result s).front = s.front := rfl
@[simp] theorem rstDone_bramble (result : Nat) (s : State) : (rstDone result s).bramble = s.bramble := rfl
@[simp] theorem rstDone_slices (result : Nat) (s : State) : (rstDone result s).slices = s.slices := rfl
@[simp] theorem rstDone_trestle (result : Nat) (s : State) : (rstDone result s).trestle = s.trestle := rfl
@[simp] theorem rstDone_sched (result : Nat) (s : State) : (rstDone result s).sched = s.sched := rfl
@[simp] theorem rstDone_wrd (result : Nat) (s : State) : (rstDone result s).wrd = s.wrd := rfl
@[simp] theorem rstDone_chest (result : Nat) (s : State) : (rstDone result s).chest = s.chest := rfl
@[simp] theorem rstDone_bureau (result : Nat) (s : State) : (rstDone result s).bureau = s.bureau := rfl
@[simp] theorem rstDone_hutch (result : Nat) (s : State) : (rstDone result s).hutch = s.hutch := rfl
@[simp] theorem rstDone_jnl (result : Nat) (s : State) : (rstDone result s).jnl = s.jnl := rfl
@[simp] theorem rstDone_sta (result : Nat) (s : State) : (rstDone result s).sta = s.sta := rfl
@[simp] theorem rstDone_mgmt (result : Nat) (s : State) : (rstDone result s).mgmt = s.mgmt := rfl
@[simp] theorem rstDone_power (result : Nat) (s : State) : (rstDone result s).power = s.power := rfl
@[simp] theorem rstDone_link (result : Nat) (s : State) : (rstDone result s).link = s.link := rfl

@[simp] theorem modUse_pending (c : Nat) (f : Use → Use) (s : State) : (modUse c f s).pending = s.pending := rfl
@[simp] theorem modUse_time (c : Nat) (f : Use → Use) (s : State) : (modUse c f s).time = s.time := rfl
@[simp] theorem modUse_port (c : Nat) (f : Use → Use) (s : State) : (modUse c f s).port = s.port := rfl
@[simp] theorem modUse_integ (c : Nat) (f : Use → Use) (s : State) : (modUse c f s).integ = s.integ := rfl
@[simp] theorem modUse_mem (c : Nat) (f : Use → Use) (s : State) : (modUse c f s).mem = s.mem := rfl
@[simp] theorem modUse_tenants (c : Nat) (f : Use → Use) (s : State) : (modUse c f s).tenants = s.tenants := rfl
@[simp] theorem modUse_contexts (c : Nat) (f : Use → Use) (s : State) : (modUse c f s).contexts = s.contexts := rfl
@[simp] theorem modUse_objects (c : Nat) (f : Use → Use) (s : State) : (modUse c f s).objects = s.objects := rfl
@[simp] theorem modUse_graphs (c : Nat) (f : Use → Use) (s : State) : (modUse c f s).graphs = s.graphs := rfl
@[simp] theorem modUse_front (c : Nat) (f : Use → Use) (s : State) : (modUse c f s).front = s.front := rfl
@[simp] theorem modUse_bramble (c : Nat) (f : Use → Use) (s : State) : (modUse c f s).bramble = s.bramble := rfl
@[simp] theorem modUse_slices (c : Nat) (f : Use → Use) (s : State) : (modUse c f s).slices = s.slices := rfl
@[simp] theorem modUse_trestle (c : Nat) (f : Use → Use) (s : State) : (modUse c f s).trestle = s.trestle := rfl
@[simp] theorem modUse_sched (c : Nat) (f : Use → Use) (s : State) : (modUse c f s).sched = s.sched := rfl
@[simp] theorem modUse_wrd (c : Nat) (f : Use → Use) (s : State) : (modUse c f s).wrd = s.wrd := rfl
@[simp] theorem modUse_chest (c : Nat) (f : Use → Use) (s : State) : (modUse c f s).chest = s.chest := rfl
@[simp] theorem modUse_bureau (c : Nat) (f : Use → Use) (s : State) : (modUse c f s).bureau = s.bureau := rfl
@[simp] theorem modUse_watch (c : Nat) (f : Use → Use) (s : State) : (modUse c f s).watch = s.watch := rfl
@[simp] theorem modUse_hutch (c : Nat) (f : Use → Use) (s : State) : (modUse c f s).hutch = s.hutch := rfl
@[simp] theorem modUse_jnl (c : Nat) (f : Use → Use) (s : State) : (modUse c f s).jnl = s.jnl := rfl
@[simp] theorem modUse_sta (c : Nat) (f : Use → Use) (s : State) : (modUse c f s).sta = s.sta := rfl
@[simp] theorem modUse_mgmt (c : Nat) (f : Use → Use) (s : State) : (modUse c f s).mgmt = s.mgmt := rfl
@[simp] theorem modUse_power (c : Nat) (f : Use → Use) (s : State) : (modUse c f s).power = s.power := rfl
@[simp] theorem modUse_link (c : Nat) (f : Use → Use) (s : State) : (modUse c f s).link = s.link := rfl

@[simp] theorem State.modMover_pending (m : Nat) (f : Mover → Mover) (s : State) : (s.modMover m f).pending = s.pending := rfl
@[simp] theorem State.modMover_time (m : Nat) (f : Mover → Mover) (s : State) : (s.modMover m f).time = s.time := rfl
@[simp] theorem State.modMover_port (m : Nat) (f : Mover → Mover) (s : State) : (s.modMover m f).port = s.port := rfl
@[simp] theorem State.modMover_integ (m : Nat) (f : Mover → Mover) (s : State) : (s.modMover m f).integ = s.integ := rfl
@[simp] theorem State.modMover_mem (m : Nat) (f : Mover → Mover) (s : State) : (s.modMover m f).mem = s.mem := rfl
@[simp] theorem State.modMover_hub (m : Nat) (f : Mover → Mover) (s : State) : (s.modMover m f).hub = s.hub := rfl
@[simp] theorem State.modMover_tenants (m : Nat) (f : Mover → Mover) (s : State) : (s.modMover m f).tenants = s.tenants := rfl
@[simp] theorem State.modMover_contexts (m : Nat) (f : Mover → Mover) (s : State) : (s.modMover m f).contexts = s.contexts := rfl
@[simp] theorem State.modMover_objects (m : Nat) (f : Mover → Mover) (s : State) : (s.modMover m f).objects = s.objects := rfl
@[simp] theorem State.modMover_graphs (m : Nat) (f : Mover → Mover) (s : State) : (s.modMover m f).graphs = s.graphs := rfl
@[simp] theorem State.modMover_front (m : Nat) (f : Mover → Mover) (s : State) : (s.modMover m f).front = s.front := rfl
@[simp] theorem State.modMover_bramble (m : Nat) (f : Mover → Mover) (s : State) : (s.modMover m f).bramble = s.bramble := rfl
@[simp] theorem State.modMover_slices (m : Nat) (f : Mover → Mover) (s : State) : (s.modMover m f).slices = s.slices := rfl
@[simp] theorem State.modMover_trestle (m : Nat) (f : Mover → Mover) (s : State) : (s.modMover m f).trestle = s.trestle := rfl
@[simp] theorem State.modMover_sched (m : Nat) (f : Mover → Mover) (s : State) : (s.modMover m f).sched = s.sched := rfl
@[simp] theorem State.modMover_chest (m : Nat) (f : Mover → Mover) (s : State) : (s.modMover m f).chest = s.chest := rfl
@[simp] theorem State.modMover_bureau (m : Nat) (f : Mover → Mover) (s : State) : (s.modMover m f).bureau = s.bureau := rfl
@[simp] theorem State.modMover_watch (m : Nat) (f : Mover → Mover) (s : State) : (s.modMover m f).watch = s.watch := rfl
@[simp] theorem State.modMover_hutch (m : Nat) (f : Mover → Mover) (s : State) : (s.modMover m f).hutch = s.hutch := rfl
@[simp] theorem State.modMover_jnl (m : Nat) (f : Mover → Mover) (s : State) : (s.modMover m f).jnl = s.jnl := rfl
@[simp] theorem State.modMover_sta (m : Nat) (f : Mover → Mover) (s : State) : (s.modMover m f).sta = s.sta := rfl
@[simp] theorem State.modMover_mgmt (m : Nat) (f : Mover → Mover) (s : State) : (s.modMover m f).mgmt = s.mgmt := rfl
@[simp] theorem State.modMover_power (m : Nat) (f : Mover → Mover) (s : State) : (s.modMover m f).power = s.power := rfl
@[simp] theorem State.modMover_link (m : Nat) (f : Mover → Mover) (s : State) : (s.modMover m f).link = s.link := rfl

@[simp] theorem State.modVf_pending (p : Nat) (f : Vf → Vf) (s : State) : (s.modVf p f).pending = s.pending := rfl
@[simp] theorem State.modVf_time (p : Nat) (f : Vf → Vf) (s : State) : (s.modVf p f).time = s.time := rfl
@[simp] theorem State.modVf_port (p : Nat) (f : Vf → Vf) (s : State) : (s.modVf p f).port = s.port := rfl
@[simp] theorem State.modVf_integ (p : Nat) (f : Vf → Vf) (s : State) : (s.modVf p f).integ = s.integ := rfl
@[simp] theorem State.modVf_mem (p : Nat) (f : Vf → Vf) (s : State) : (s.modVf p f).mem = s.mem := rfl
@[simp] theorem State.modVf_hub (p : Nat) (f : Vf → Vf) (s : State) : (s.modVf p f).hub = s.hub := rfl
@[simp] theorem State.modVf_tenants (p : Nat) (f : Vf → Vf) (s : State) : (s.modVf p f).tenants = s.tenants := rfl
@[simp] theorem State.modVf_contexts (p : Nat) (f : Vf → Vf) (s : State) : (s.modVf p f).contexts = s.contexts := rfl
@[simp] theorem State.modVf_objects (p : Nat) (f : Vf → Vf) (s : State) : (s.modVf p f).objects = s.objects := rfl
@[simp] theorem State.modVf_graphs (p : Nat) (f : Vf → Vf) (s : State) : (s.modVf p f).graphs = s.graphs := rfl
@[simp] theorem State.modVf_front (p : Nat) (f : Vf → Vf) (s : State) : (s.modVf p f).front = s.front := rfl
@[simp] theorem State.modVf_bramble (p : Nat) (f : Vf → Vf) (s : State) : (s.modVf p f).bramble = s.bramble := rfl
@[simp] theorem State.modVf_slices (p : Nat) (f : Vf → Vf) (s : State) : (s.modVf p f).slices = s.slices := rfl
@[simp] theorem State.modVf_trestle (p : Nat) (f : Vf → Vf) (s : State) : (s.modVf p f).trestle = s.trestle := rfl
@[simp] theorem State.modVf_sched (p : Nat) (f : Vf → Vf) (s : State) : (s.modVf p f).sched = s.sched := rfl
@[simp] theorem State.modVf_wrd (p : Nat) (f : Vf → Vf) (s : State) : (s.modVf p f).wrd = s.wrd := rfl
@[simp] theorem State.modVf_chest (p : Nat) (f : Vf → Vf) (s : State) : (s.modVf p f).chest = s.chest := rfl
@[simp] theorem State.modVf_bureau (p : Nat) (f : Vf → Vf) (s : State) : (s.modVf p f).bureau = s.bureau := rfl
@[simp] theorem State.modVf_watch (p : Nat) (f : Vf → Vf) (s : State) : (s.modVf p f).watch = s.watch := rfl
@[simp] theorem State.modVf_hutch (p : Nat) (f : Vf → Vf) (s : State) : (s.modVf p f).hutch = s.hutch := rfl
@[simp] theorem State.modVf_jnl (p : Nat) (f : Vf → Vf) (s : State) : (s.modVf p f).jnl = s.jnl := rfl
@[simp] theorem State.modVf_sta (p : Nat) (f : Vf → Vf) (s : State) : (s.modVf p f).sta = s.sta := rfl
@[simp] theorem State.modVf_mgmt (p : Nat) (f : Vf → Vf) (s : State) : (s.modVf p f).mgmt = s.mgmt := rfl
@[simp] theorem State.modVf_link (p : Nat) (f : Vf → Vf) (s : State) : (s.modVf p f).link = s.link := rfl

@[simp] theorem memCopy_pending (src dst : Loc) (n : Nat) (s : State) : (memCopy src dst n s).pending = s.pending := rfl
@[simp] theorem memCopy_time (src dst : Loc) (n : Nat) (s : State) : (memCopy src dst n s).time = s.time := rfl
@[simp] theorem memCopy_port (src dst : Loc) (n : Nat) (s : State) : (memCopy src dst n s).port = s.port := rfl
@[simp] theorem memCopy_integ (src dst : Loc) (n : Nat) (s : State) : (memCopy src dst n s).integ = s.integ := rfl
@[simp] theorem memCopy_hub (src dst : Loc) (n : Nat) (s : State) : (memCopy src dst n s).hub = s.hub := rfl
@[simp] theorem memCopy_tenants (src dst : Loc) (n : Nat) (s : State) : (memCopy src dst n s).tenants = s.tenants := rfl
@[simp] theorem memCopy_contexts (src dst : Loc) (n : Nat) (s : State) : (memCopy src dst n s).contexts = s.contexts := rfl
@[simp] theorem memCopy_objects (src dst : Loc) (n : Nat) (s : State) : (memCopy src dst n s).objects = s.objects := rfl
@[simp] theorem memCopy_graphs (src dst : Loc) (n : Nat) (s : State) : (memCopy src dst n s).graphs = s.graphs := rfl
@[simp] theorem memCopy_front (src dst : Loc) (n : Nat) (s : State) : (memCopy src dst n s).front = s.front := rfl
@[simp] theorem memCopy_bramble (src dst : Loc) (n : Nat) (s : State) : (memCopy src dst n s).bramble = s.bramble := rfl
@[simp] theorem memCopy_slices (src dst : Loc) (n : Nat) (s : State) : (memCopy src dst n s).slices = s.slices := rfl
@[simp] theorem memCopy_trestle (src dst : Loc) (n : Nat) (s : State) : (memCopy src dst n s).trestle = s.trestle := rfl
@[simp] theorem memCopy_sched (src dst : Loc) (n : Nat) (s : State) : (memCopy src dst n s).sched = s.sched := rfl
@[simp] theorem memCopy_wrd (src dst : Loc) (n : Nat) (s : State) : (memCopy src dst n s).wrd = s.wrd := rfl
@[simp] theorem memCopy_chest (src dst : Loc) (n : Nat) (s : State) : (memCopy src dst n s).chest = s.chest := rfl
@[simp] theorem memCopy_bureau (src dst : Loc) (n : Nat) (s : State) : (memCopy src dst n s).bureau = s.bureau := rfl
@[simp] theorem memCopy_watch (src dst : Loc) (n : Nat) (s : State) : (memCopy src dst n s).watch = s.watch := rfl
@[simp] theorem memCopy_hutch (src dst : Loc) (n : Nat) (s : State) : (memCopy src dst n s).hutch = s.hutch := rfl
@[simp] theorem memCopy_jnl (src dst : Loc) (n : Nat) (s : State) : (memCopy src dst n s).jnl = s.jnl := rfl
@[simp] theorem memCopy_sta (src dst : Loc) (n : Nat) (s : State) : (memCopy src dst n s).sta = s.sta := rfl
@[simp] theorem memCopy_mgmt (src dst : Loc) (n : Nat) (s : State) : (memCopy src dst n s).mgmt = s.mgmt := rfl
@[simp] theorem memCopy_power (src dst : Loc) (n : Nat) (s : State) : (memCopy src dst n s).power = s.power := rfl
@[simp] theorem memCopy_link (src dst : Loc) (n : Nat) (s : State) : (memCopy src dst n s).link = s.link := rfl

@[simp] theorem memZero_pending (l : Loc) (n : Nat) (s : State) : (memZero l n s).pending = s.pending := rfl
@[simp] theorem memZero_time (l : Loc) (n : Nat) (s : State) : (memZero l n s).time = s.time := rfl
@[simp] theorem memZero_port (l : Loc) (n : Nat) (s : State) : (memZero l n s).port = s.port := rfl
@[simp] theorem memZero_integ (l : Loc) (n : Nat) (s : State) : (memZero l n s).integ = s.integ := rfl
@[simp] theorem memZero_hub (l : Loc) (n : Nat) (s : State) : (memZero l n s).hub = s.hub := rfl
@[simp] theorem memZero_tenants (l : Loc) (n : Nat) (s : State) : (memZero l n s).tenants = s.tenants := rfl
@[simp] theorem memZero_contexts (l : Loc) (n : Nat) (s : State) : (memZero l n s).contexts = s.contexts := rfl
@[simp] theorem memZero_objects (l : Loc) (n : Nat) (s : State) : (memZero l n s).objects = s.objects := rfl
@[simp] theorem memZero_graphs (l : Loc) (n : Nat) (s : State) : (memZero l n s).graphs = s.graphs := rfl
@[simp] theorem memZero_front (l : Loc) (n : Nat) (s : State) : (memZero l n s).front = s.front := rfl
@[simp] theorem memZero_bramble (l : Loc) (n : Nat) (s : State) : (memZero l n s).bramble = s.bramble := rfl
@[simp] theorem memZero_slices (l : Loc) (n : Nat) (s : State) : (memZero l n s).slices = s.slices := rfl
@[simp] theorem memZero_trestle (l : Loc) (n : Nat) (s : State) : (memZero l n s).trestle = s.trestle := rfl
@[simp] theorem memZero_sched (l : Loc) (n : Nat) (s : State) : (memZero l n s).sched = s.sched := rfl
@[simp] theorem memZero_wrd (l : Loc) (n : Nat) (s : State) : (memZero l n s).wrd = s.wrd := rfl
@[simp] theorem memZero_chest (l : Loc) (n : Nat) (s : State) : (memZero l n s).chest = s.chest := rfl
@[simp] theorem memZero_bureau (l : Loc) (n : Nat) (s : State) : (memZero l n s).bureau = s.bureau := rfl
@[simp] theorem memZero_watch (l : Loc) (n : Nat) (s : State) : (memZero l n s).watch = s.watch := rfl
@[simp] theorem memZero_hutch (l : Loc) (n : Nat) (s : State) : (memZero l n s).hutch = s.hutch := rfl
@[simp] theorem memZero_jnl (l : Loc) (n : Nat) (s : State) : (memZero l n s).jnl = s.jnl := rfl
@[simp] theorem memZero_sta (l : Loc) (n : Nat) (s : State) : (memZero l n s).sta = s.sta := rfl
@[simp] theorem memZero_mgmt (l : Loc) (n : Nat) (s : State) : (memZero l n s).mgmt = s.mgmt := rfl
@[simp] theorem memZero_power (l : Loc) (n : Nat) (s : State) : (memZero l n s).power = s.power := rfl
@[simp] theorem memZero_link (l : Loc) (n : Nat) (s : State) : (memZero l n s).link = s.link := rfl

@[simp] theorem qResult_pending (r : Nat) (s : State) : (qResult r s).pending = s.pending := rfl
@[simp] theorem qResult_time (r : Nat) (s : State) : (qResult r s).time = s.time := rfl
@[simp] theorem qResult_port (r : Nat) (s : State) : (qResult r s).port = s.port := rfl
@[simp] theorem qResult_integ (r : Nat) (s : State) : (qResult r s).integ = s.integ := rfl
@[simp] theorem qResult_mem (r : Nat) (s : State) : (qResult r s).mem = s.mem := rfl
@[simp] theorem qResult_hub (r : Nat) (s : State) : (qResult r s).hub = s.hub := rfl
@[simp] theorem qResult_tenants (r : Nat) (s : State) : (qResult r s).tenants = s.tenants := rfl
@[simp] theorem qResult_contexts (r : Nat) (s : State) : (qResult r s).contexts = s.contexts := rfl
@[simp] theorem qResult_objects (r : Nat) (s : State) : (qResult r s).objects = s.objects := rfl
@[simp] theorem qResult_graphs (r : Nat) (s : State) : (qResult r s).graphs = s.graphs := rfl
@[simp] theorem qResult_bramble (r : Nat) (s : State) : (qResult r s).bramble = s.bramble := rfl
@[simp] theorem qResult_slices (r : Nat) (s : State) : (qResult r s).slices = s.slices := rfl
@[simp] theorem qResult_trestle (r : Nat) (s : State) : (qResult r s).trestle = s.trestle := rfl
@[simp] theorem qResult_sched (r : Nat) (s : State) : (qResult r s).sched = s.sched := rfl
@[simp] theorem qResult_wrd (r : Nat) (s : State) : (qResult r s).wrd = s.wrd := rfl
@[simp] theorem qResult_chest (r : Nat) (s : State) : (qResult r s).chest = s.chest := rfl
@[simp] theorem qResult_bureau (r : Nat) (s : State) : (qResult r s).bureau = s.bureau := rfl
@[simp] theorem qResult_watch (r : Nat) (s : State) : (qResult r s).watch = s.watch := rfl
@[simp] theorem qResult_hutch (r : Nat) (s : State) : (qResult r s).hutch = s.hutch := rfl
@[simp] theorem qResult_jnl (r : Nat) (s : State) : (qResult r s).jnl = s.jnl := rfl
@[simp] theorem qResult_sta (r : Nat) (s : State) : (qResult r s).sta = s.sta := rfl
@[simp] theorem qResult_mgmt (r : Nat) (s : State) : (qResult r s).mgmt = s.mgmt := rfl
@[simp] theorem qResult_power (r : Nat) (s : State) : (qResult r s).power = s.power := rfl
@[simp] theorem qResult_link (r : Nat) (s : State) : (qResult r s).link = s.link := rfl

@[simp] theorem countVacate_pending (s : State) : (countVacate s).pending = s.pending := rfl
@[simp] theorem countVacate_time (s : State) : (countVacate s).time = s.time := rfl
@[simp] theorem countVacate_port (s : State) : (countVacate s).port = s.port := rfl
@[simp] theorem countVacate_integ (s : State) : (countVacate s).integ = s.integ := rfl
@[simp] theorem countVacate_mem (s : State) : (countVacate s).mem = s.mem := rfl
@[simp] theorem countVacate_hub (s : State) : (countVacate s).hub = s.hub := rfl
@[simp] theorem countVacate_tenants (s : State) : (countVacate s).tenants = s.tenants := rfl
@[simp] theorem countVacate_contexts (s : State) : (countVacate s).contexts = s.contexts := rfl
@[simp] theorem countVacate_objects (s : State) : (countVacate s).objects = s.objects := rfl
@[simp] theorem countVacate_graphs (s : State) : (countVacate s).graphs = s.graphs := rfl
@[simp] theorem countVacate_front (s : State) : (countVacate s).front = s.front := rfl
@[simp] theorem countVacate_bramble (s : State) : (countVacate s).bramble = s.bramble := rfl
@[simp] theorem countVacate_slices (s : State) : (countVacate s).slices = s.slices := rfl
@[simp] theorem countVacate_trestle (s : State) : (countVacate s).trestle = s.trestle := rfl
@[simp] theorem countVacate_wrd (s : State) : (countVacate s).wrd = s.wrd := rfl
@[simp] theorem countVacate_chest (s : State) : (countVacate s).chest = s.chest := rfl
@[simp] theorem countVacate_bureau (s : State) : (countVacate s).bureau = s.bureau := rfl
@[simp] theorem countVacate_watch (s : State) : (countVacate s).watch = s.watch := rfl
@[simp] theorem countVacate_hutch (s : State) : (countVacate s).hutch = s.hutch := rfl
@[simp] theorem countVacate_jnl (s : State) : (countVacate s).jnl = s.jnl := rfl
@[simp] theorem countVacate_sta (s : State) : (countVacate s).sta = s.sta := rfl
@[simp] theorem countVacate_mgmt (s : State) : (countVacate s).mgmt = s.mgmt := rfl
@[simp] theorem countVacate_power (s : State) : (countVacate s).power = s.power := rfl
@[simp] theorem countVacate_link (s : State) : (countVacate s).link = s.link := rfl

@[simp] theorem nextOrder_pending (s : State) : (nextOrder s).pending = s.pending := rfl
@[simp] theorem nextOrder_time (s : State) : (nextOrder s).time = s.time := rfl
@[simp] theorem nextOrder_port (s : State) : (nextOrder s).port = s.port := rfl
@[simp] theorem nextOrder_integ (s : State) : (nextOrder s).integ = s.integ := rfl
@[simp] theorem nextOrder_mem (s : State) : (nextOrder s).mem = s.mem := rfl
@[simp] theorem nextOrder_hub (s : State) : (nextOrder s).hub = s.hub := rfl
@[simp] theorem nextOrder_tenants (s : State) : (nextOrder s).tenants = s.tenants := rfl
@[simp] theorem nextOrder_contexts (s : State) : (nextOrder s).contexts = s.contexts := rfl
@[simp] theorem nextOrder_objects (s : State) : (nextOrder s).objects = s.objects := rfl
@[simp] theorem nextOrder_graphs (s : State) : (nextOrder s).graphs = s.graphs := rfl
@[simp] theorem nextOrder_front (s : State) : (nextOrder s).front = s.front := rfl
@[simp] theorem nextOrder_slices (s : State) : (nextOrder s).slices = s.slices := rfl
@[simp] theorem nextOrder_trestle (s : State) : (nextOrder s).trestle = s.trestle := rfl
@[simp] theorem nextOrder_sched (s : State) : (nextOrder s).sched = s.sched := rfl
@[simp] theorem nextOrder_wrd (s : State) : (nextOrder s).wrd = s.wrd := rfl
@[simp] theorem nextOrder_chest (s : State) : (nextOrder s).chest = s.chest := rfl
@[simp] theorem nextOrder_bureau (s : State) : (nextOrder s).bureau = s.bureau := rfl
@[simp] theorem nextOrder_watch (s : State) : (nextOrder s).watch = s.watch := rfl
@[simp] theorem nextOrder_hutch (s : State) : (nextOrder s).hutch = s.hutch := rfl
@[simp] theorem nextOrder_jnl (s : State) : (nextOrder s).jnl = s.jnl := rfl
@[simp] theorem nextOrder_sta (s : State) : (nextOrder s).sta = s.sta := rfl
@[simp] theorem nextOrder_mgmt (s : State) : (nextOrder s).mgmt = s.mgmt := rfl
@[simp] theorem nextOrder_power (s : State) : (nextOrder s).power = s.power := rfl
@[simp] theorem nextOrder_link (s : State) : (nextOrder s).link = s.link := rfl

@[simp] theorem armJoin_pending (c q : Nat) (m : Cmd) (s : State) : (armJoin c q m s).pending = s.pending := rfl
@[simp] theorem armJoin_time (c q : Nat) (m : Cmd) (s : State) : (armJoin c q m s).time = s.time := rfl
@[simp] theorem armJoin_port (c q : Nat) (m : Cmd) (s : State) : (armJoin c q m s).port = s.port := rfl
@[simp] theorem armJoin_integ (c q : Nat) (m : Cmd) (s : State) : (armJoin c q m s).integ = s.integ := rfl
@[simp] theorem armJoin_mem (c q : Nat) (m : Cmd) (s : State) : (armJoin c q m s).mem = s.mem := rfl
@[simp] theorem armJoin_hub (c q : Nat) (m : Cmd) (s : State) : (armJoin c q m s).hub = s.hub := rfl
@[simp] theorem armJoin_tenants (c q : Nat) (m : Cmd) (s : State) : (armJoin c q m s).tenants = s.tenants := rfl
@[simp] theorem armJoin_contexts (c q : Nat) (m : Cmd) (s : State) : (armJoin c q m s).contexts = s.contexts := rfl
@[simp] theorem armJoin_objects (c q : Nat) (m : Cmd) (s : State) : (armJoin c q m s).objects = s.objects := rfl
@[simp] theorem armJoin_graphs (c q : Nat) (m : Cmd) (s : State) : (armJoin c q m s).graphs = s.graphs := rfl
@[simp] theorem armJoin_front (c q : Nat) (m : Cmd) (s : State) : (armJoin c q m s).front = s.front := rfl
@[simp] theorem armJoin_bramble (c q : Nat) (m : Cmd) (s : State) : (armJoin c q m s).bramble = s.bramble := rfl
@[simp] theorem armJoin_slices (c q : Nat) (m : Cmd) (s : State) : (armJoin c q m s).slices = s.slices := rfl
@[simp] theorem armJoin_trestle (c q : Nat) (m : Cmd) (s : State) : (armJoin c q m s).trestle = s.trestle := rfl
@[simp] theorem armJoin_sched (c q : Nat) (m : Cmd) (s : State) : (armJoin c q m s).sched = s.sched := rfl
@[simp] theorem armJoin_wrd (c q : Nat) (m : Cmd) (s : State) : (armJoin c q m s).wrd = s.wrd := rfl
@[simp] theorem armJoin_chest (c q : Nat) (m : Cmd) (s : State) : (armJoin c q m s).chest = s.chest := rfl
@[simp] theorem armJoin_bureau (c q : Nat) (m : Cmd) (s : State) : (armJoin c q m s).bureau = s.bureau := rfl
@[simp] theorem armJoin_watch (c q : Nat) (m : Cmd) (s : State) : (armJoin c q m s).watch = s.watch := rfl
@[simp] theorem armJoin_hutch (c q : Nat) (m : Cmd) (s : State) : (armJoin c q m s).hutch = s.hutch := rfl
@[simp] theorem armJoin_jnl (c q : Nat) (m : Cmd) (s : State) : (armJoin c q m s).jnl = s.jnl := rfl
@[simp] theorem armJoin_sta (c q : Nat) (m : Cmd) (s : State) : (armJoin c q m s).sta = s.sta := rfl
@[simp] theorem armJoin_mgmt (c q : Nat) (m : Cmd) (s : State) : (armJoin c q m s).mgmt = s.mgmt := rfl
@[simp] theorem armJoin_power (c q : Nat) (m : Cmd) (s : State) : (armJoin c q m s).power = s.power := rfl

@[simp] theorem scratchWrite_pending (a : Nat) (bs : List Byte) (s : State) : (scratchWrite a bs s).pending = s.pending := rfl
@[simp] theorem scratchWrite_time (a : Nat) (bs : List Byte) (s : State) : (scratchWrite a bs s).time = s.time := rfl
@[simp] theorem scratchWrite_port (a : Nat) (bs : List Byte) (s : State) : (scratchWrite a bs s).port = s.port := rfl
@[simp] theorem scratchWrite_integ (a : Nat) (bs : List Byte) (s : State) : (scratchWrite a bs s).integ = s.integ := rfl
@[simp] theorem scratchWrite_hub (a : Nat) (bs : List Byte) (s : State) : (scratchWrite a bs s).hub = s.hub := rfl
@[simp] theorem scratchWrite_tenants (a : Nat) (bs : List Byte) (s : State) : (scratchWrite a bs s).tenants = s.tenants := rfl
@[simp] theorem scratchWrite_contexts (a : Nat) (bs : List Byte) (s : State) : (scratchWrite a bs s).contexts = s.contexts := rfl
@[simp] theorem scratchWrite_objects (a : Nat) (bs : List Byte) (s : State) : (scratchWrite a bs s).objects = s.objects := rfl
@[simp] theorem scratchWrite_graphs (a : Nat) (bs : List Byte) (s : State) : (scratchWrite a bs s).graphs = s.graphs := rfl
@[simp] theorem scratchWrite_front (a : Nat) (bs : List Byte) (s : State) : (scratchWrite a bs s).front = s.front := rfl
@[simp] theorem scratchWrite_bramble (a : Nat) (bs : List Byte) (s : State) : (scratchWrite a bs s).bramble = s.bramble := rfl
@[simp] theorem scratchWrite_slices (a : Nat) (bs : List Byte) (s : State) : (scratchWrite a bs s).slices = s.slices := rfl
@[simp] theorem scratchWrite_trestle (a : Nat) (bs : List Byte) (s : State) : (scratchWrite a bs s).trestle = s.trestle := rfl
@[simp] theorem scratchWrite_sched (a : Nat) (bs : List Byte) (s : State) : (scratchWrite a bs s).sched = s.sched := rfl
@[simp] theorem scratchWrite_wrd (a : Nat) (bs : List Byte) (s : State) : (scratchWrite a bs s).wrd = s.wrd := rfl
@[simp] theorem scratchWrite_chest (a : Nat) (bs : List Byte) (s : State) : (scratchWrite a bs s).chest = s.chest := rfl
@[simp] theorem scratchWrite_bureau (a : Nat) (bs : List Byte) (s : State) : (scratchWrite a bs s).bureau = s.bureau := rfl
@[simp] theorem scratchWrite_watch (a : Nat) (bs : List Byte) (s : State) : (scratchWrite a bs s).watch = s.watch := rfl
@[simp] theorem scratchWrite_hutch (a : Nat) (bs : List Byte) (s : State) : (scratchWrite a bs s).hutch = s.hutch := rfl
@[simp] theorem scratchWrite_jnl (a : Nat) (bs : List Byte) (s : State) : (scratchWrite a bs s).jnl = s.jnl := rfl
@[simp] theorem scratchWrite_sta (a : Nat) (bs : List Byte) (s : State) : (scratchWrite a bs s).sta = s.sta := rfl
@[simp] theorem scratchWrite_mgmt (a : Nat) (bs : List Byte) (s : State) : (scratchWrite a bs s).mgmt = s.mgmt := rfl
@[simp] theorem scratchWrite_power (a : Nat) (bs : List Byte) (s : State) : (scratchWrite a bs s).power = s.power := rfl
@[simp] theorem scratchWrite_link (a : Nat) (bs : List Byte) (s : State) : (scratchWrite a bs s).link = s.link := rfl

@[simp] theorem rstStart_pending (s : State) : (rstStart s).pending = s.pending := rfl
@[simp] theorem rstStart_time (s : State) : (rstStart s).time = s.time := rfl
@[simp] theorem rstStart_port (s : State) : (rstStart s).port = s.port := rfl
@[simp] theorem rstStart_integ (s : State) : (rstStart s).integ = s.integ := rfl
@[simp] theorem rstStart_mem (s : State) : (rstStart s).mem = s.mem := rfl
@[simp] theorem rstStart_hub (s : State) : (rstStart s).hub = s.hub := rfl
@[simp] theorem rstStart_tenants (s : State) : (rstStart s).tenants = s.tenants := rfl
@[simp] theorem rstStart_contexts (s : State) : (rstStart s).contexts = s.contexts := rfl
@[simp] theorem rstStart_objects (s : State) : (rstStart s).objects = s.objects := rfl
@[simp] theorem rstStart_graphs (s : State) : (rstStart s).graphs = s.graphs := rfl
@[simp] theorem rstStart_front (s : State) : (rstStart s).front = s.front := rfl
@[simp] theorem rstStart_bramble (s : State) : (rstStart s).bramble = s.bramble := rfl
@[simp] theorem rstStart_slices (s : State) : (rstStart s).slices = s.slices := rfl
@[simp] theorem rstStart_trestle (s : State) : (rstStart s).trestle = s.trestle := rfl
@[simp] theorem rstStart_sched (s : State) : (rstStart s).sched = s.sched := rfl
@[simp] theorem rstStart_wrd (s : State) : (rstStart s).wrd = s.wrd := rfl
@[simp] theorem rstStart_chest (s : State) : (rstStart s).chest = s.chest := rfl
@[simp] theorem rstStart_bureau (s : State) : (rstStart s).bureau = s.bureau := rfl
@[simp] theorem rstStart_hutch (s : State) : (rstStart s).hutch = s.hutch := rfl
@[simp] theorem rstStart_jnl (s : State) : (rstStart s).jnl = s.jnl := rfl
@[simp] theorem rstStart_sta (s : State) : (rstStart s).sta = s.sta := rfl
@[simp] theorem rstStart_mgmt (s : State) : (rstStart s).mgmt = s.mgmt := rfl
@[simp] theorem rstStart_power (s : State) : (rstStart s).power = s.power := rfl
@[simp] theorem rstStart_link (s : State) : (rstStart s).link = s.link := rfl

@[simp] theorem pin_pending (key : Nat) (s : State) : (pin key s).pending = s.pending := rfl
@[simp] theorem pin_time (key : Nat) (s : State) : (pin key s).time = s.time := rfl
@[simp] theorem pin_port (key : Nat) (s : State) : (pin key s).port = s.port := rfl
@[simp] theorem pin_integ (key : Nat) (s : State) : (pin key s).integ = s.integ := rfl
@[simp] theorem pin_mem (key : Nat) (s : State) : (pin key s).mem = s.mem := rfl
@[simp] theorem pin_hub (key : Nat) (s : State) : (pin key s).hub = s.hub := rfl
@[simp] theorem pin_tenants (key : Nat) (s : State) : (pin key s).tenants = s.tenants := rfl
@[simp] theorem pin_contexts (key : Nat) (s : State) : (pin key s).contexts = s.contexts := rfl
@[simp] theorem pin_graphs (key : Nat) (s : State) : (pin key s).graphs = s.graphs := rfl
@[simp] theorem pin_front (key : Nat) (s : State) : (pin key s).front = s.front := rfl
@[simp] theorem pin_bramble (key : Nat) (s : State) : (pin key s).bramble = s.bramble := rfl
@[simp] theorem pin_slices (key : Nat) (s : State) : (pin key s).slices = s.slices := rfl
@[simp] theorem pin_trestle (key : Nat) (s : State) : (pin key s).trestle = s.trestle := rfl
@[simp] theorem pin_sched (key : Nat) (s : State) : (pin key s).sched = s.sched := rfl
@[simp] theorem pin_wrd (key : Nat) (s : State) : (pin key s).wrd = s.wrd := rfl
@[simp] theorem pin_chest (key : Nat) (s : State) : (pin key s).chest = s.chest := rfl
@[simp] theorem pin_bureau (key : Nat) (s : State) : (pin key s).bureau = s.bureau := rfl
@[simp] theorem pin_watch (key : Nat) (s : State) : (pin key s).watch = s.watch := rfl
@[simp] theorem pin_hutch (key : Nat) (s : State) : (pin key s).hutch = s.hutch := rfl
@[simp] theorem pin_jnl (key : Nat) (s : State) : (pin key s).jnl = s.jnl := rfl
@[simp] theorem pin_sta (key : Nat) (s : State) : (pin key s).sta = s.sta := rfl
@[simp] theorem pin_mgmt (key : Nat) (s : State) : (pin key s).mgmt = s.mgmt := rfl
@[simp] theorem pin_power (key : Nat) (s : State) : (pin key s).power = s.power := rfl
@[simp] theorem pin_link (key : Nat) (s : State) : (pin key s).link = s.link := rfl

@[simp] theorem addRef_pending (key : Nat) (s : State) : (addRef key s).pending = s.pending := rfl
@[simp] theorem addRef_time (key : Nat) (s : State) : (addRef key s).time = s.time := rfl
@[simp] theorem addRef_port (key : Nat) (s : State) : (addRef key s).port = s.port := rfl
@[simp] theorem addRef_integ (key : Nat) (s : State) : (addRef key s).integ = s.integ := rfl
@[simp] theorem addRef_mem (key : Nat) (s : State) : (addRef key s).mem = s.mem := rfl
@[simp] theorem addRef_hub (key : Nat) (s : State) : (addRef key s).hub = s.hub := rfl
@[simp] theorem addRef_tenants (key : Nat) (s : State) : (addRef key s).tenants = s.tenants := rfl
@[simp] theorem addRef_contexts (key : Nat) (s : State) : (addRef key s).contexts = s.contexts := rfl
@[simp] theorem addRef_graphs (key : Nat) (s : State) : (addRef key s).graphs = s.graphs := rfl
@[simp] theorem addRef_front (key : Nat) (s : State) : (addRef key s).front = s.front := rfl
@[simp] theorem addRef_bramble (key : Nat) (s : State) : (addRef key s).bramble = s.bramble := rfl
@[simp] theorem addRef_slices (key : Nat) (s : State) : (addRef key s).slices = s.slices := rfl
@[simp] theorem addRef_trestle (key : Nat) (s : State) : (addRef key s).trestle = s.trestle := rfl
@[simp] theorem addRef_sched (key : Nat) (s : State) : (addRef key s).sched = s.sched := rfl
@[simp] theorem addRef_wrd (key : Nat) (s : State) : (addRef key s).wrd = s.wrd := rfl
@[simp] theorem addRef_chest (key : Nat) (s : State) : (addRef key s).chest = s.chest := rfl
@[simp] theorem addRef_bureau (key : Nat) (s : State) : (addRef key s).bureau = s.bureau := rfl
@[simp] theorem addRef_watch (key : Nat) (s : State) : (addRef key s).watch = s.watch := rfl
@[simp] theorem addRef_hutch (key : Nat) (s : State) : (addRef key s).hutch = s.hutch := rfl
@[simp] theorem addRef_jnl (key : Nat) (s : State) : (addRef key s).jnl = s.jnl := rfl
@[simp] theorem addRef_sta (key : Nat) (s : State) : (addRef key s).sta = s.sta := rfl
@[simp] theorem addRef_mgmt (key : Nat) (s : State) : (addRef key s).mgmt = s.mgmt := rfl
@[simp] theorem addRef_power (key : Nat) (s : State) : (addRef key s).power = s.power := rfl
@[simp] theorem addRef_link (key : Nat) (s : State) : (addRef key s).link = s.link := rfl

@[simp] theorem dropLines_pending (g : Nat) (gone : Nat → Bool) (s : State) : (dropLines g gone s).pending = s.pending := rfl
@[simp] theorem dropLines_time (g : Nat) (gone : Nat → Bool) (s : State) : (dropLines g gone s).time = s.time := rfl
@[simp] theorem dropLines_port (g : Nat) (gone : Nat → Bool) (s : State) : (dropLines g gone s).port = s.port := rfl
@[simp] theorem dropLines_integ (g : Nat) (gone : Nat → Bool) (s : State) : (dropLines g gone s).integ = s.integ := rfl
@[simp] theorem dropLines_mem (g : Nat) (gone : Nat → Bool) (s : State) : (dropLines g gone s).mem = s.mem := rfl
@[simp] theorem dropLines_hub (g : Nat) (gone : Nat → Bool) (s : State) : (dropLines g gone s).hub = s.hub := rfl
@[simp] theorem dropLines_tenants (g : Nat) (gone : Nat → Bool) (s : State) : (dropLines g gone s).tenants = s.tenants := rfl
@[simp] theorem dropLines_contexts (g : Nat) (gone : Nat → Bool) (s : State) : (dropLines g gone s).contexts = s.contexts := rfl
@[simp] theorem dropLines_objects (g : Nat) (gone : Nat → Bool) (s : State) : (dropLines g gone s).objects = s.objects := rfl
@[simp] theorem dropLines_graphs (g : Nat) (gone : Nat → Bool) (s : State) : (dropLines g gone s).graphs = s.graphs := rfl
@[simp] theorem dropLines_front (g : Nat) (gone : Nat → Bool) (s : State) : (dropLines g gone s).front = s.front := rfl
@[simp] theorem dropLines_bramble (g : Nat) (gone : Nat → Bool) (s : State) : (dropLines g gone s).bramble = s.bramble := rfl
@[simp] theorem dropLines_trestle (g : Nat) (gone : Nat → Bool) (s : State) : (dropLines g gone s).trestle = s.trestle := rfl
@[simp] theorem dropLines_sched (g : Nat) (gone : Nat → Bool) (s : State) : (dropLines g gone s).sched = s.sched := rfl
@[simp] theorem dropLines_wrd (g : Nat) (gone : Nat → Bool) (s : State) : (dropLines g gone s).wrd = s.wrd := rfl
@[simp] theorem dropLines_chest (g : Nat) (gone : Nat → Bool) (s : State) : (dropLines g gone s).chest = s.chest := rfl
@[simp] theorem dropLines_bureau (g : Nat) (gone : Nat → Bool) (s : State) : (dropLines g gone s).bureau = s.bureau := rfl
@[simp] theorem dropLines_watch (g : Nat) (gone : Nat → Bool) (s : State) : (dropLines g gone s).watch = s.watch := rfl
@[simp] theorem dropLines_hutch (g : Nat) (gone : Nat → Bool) (s : State) : (dropLines g gone s).hutch = s.hutch := rfl
@[simp] theorem dropLines_jnl (g : Nat) (gone : Nat → Bool) (s : State) : (dropLines g gone s).jnl = s.jnl := rfl
@[simp] theorem dropLines_sta (g : Nat) (gone : Nat → Bool) (s : State) : (dropLines g gone s).sta = s.sta := rfl
@[simp] theorem dropLines_mgmt (g : Nat) (gone : Nat → Bool) (s : State) : (dropLines g gone s).mgmt = s.mgmt := rfl
@[simp] theorem dropLines_power (g : Nat) (gone : Nat → Bool) (s : State) : (dropLines g gone s).power = s.power := rfl
@[simp] theorem dropLines_link (g : Nat) (gone : Nat → Bool) (s : State) : (dropLines g gone s).link = s.link := rfl

@[simp] theorem emitAll_pending (os : List PortOut) (s : State) : (emitAll os s).pending = s.pending := rfl
@[simp] theorem emitAll_time (os : List PortOut) (s : State) : (emitAll os s).time = s.time := rfl
@[simp] theorem emitAll_integ (os : List PortOut) (s : State) : (emitAll os s).integ = s.integ := rfl
@[simp] theorem emitAll_mem (os : List PortOut) (s : State) : (emitAll os s).mem = s.mem := rfl
@[simp] theorem emitAll_hub (os : List PortOut) (s : State) : (emitAll os s).hub = s.hub := rfl
@[simp] theorem emitAll_tenants (os : List PortOut) (s : State) : (emitAll os s).tenants = s.tenants := rfl
@[simp] theorem emitAll_contexts (os : List PortOut) (s : State) : (emitAll os s).contexts = s.contexts := rfl
@[simp] theorem emitAll_objects (os : List PortOut) (s : State) : (emitAll os s).objects = s.objects := rfl
@[simp] theorem emitAll_graphs (os : List PortOut) (s : State) : (emitAll os s).graphs = s.graphs := rfl
@[simp] theorem emitAll_front (os : List PortOut) (s : State) : (emitAll os s).front = s.front := rfl
@[simp] theorem emitAll_bramble (os : List PortOut) (s : State) : (emitAll os s).bramble = s.bramble := rfl
@[simp] theorem emitAll_slices (os : List PortOut) (s : State) : (emitAll os s).slices = s.slices := rfl
@[simp] theorem emitAll_trestle (os : List PortOut) (s : State) : (emitAll os s).trestle = s.trestle := rfl
@[simp] theorem emitAll_sched (os : List PortOut) (s : State) : (emitAll os s).sched = s.sched := rfl
@[simp] theorem emitAll_wrd (os : List PortOut) (s : State) : (emitAll os s).wrd = s.wrd := rfl
@[simp] theorem emitAll_chest (os : List PortOut) (s : State) : (emitAll os s).chest = s.chest := rfl
@[simp] theorem emitAll_bureau (os : List PortOut) (s : State) : (emitAll os s).bureau = s.bureau := rfl
@[simp] theorem emitAll_watch (os : List PortOut) (s : State) : (emitAll os s).watch = s.watch := rfl
@[simp] theorem emitAll_hutch (os : List PortOut) (s : State) : (emitAll os s).hutch = s.hutch := rfl
@[simp] theorem emitAll_jnl (os : List PortOut) (s : State) : (emitAll os s).jnl = s.jnl := rfl
@[simp] theorem emitAll_sta (os : List PortOut) (s : State) : (emitAll os s).sta = s.sta := rfl
@[simp] theorem emitAll_mgmt (os : List PortOut) (s : State) : (emitAll os s).mgmt = s.mgmt := rfl
@[simp] theorem emitAll_power (os : List PortOut) (s : State) : (emitAll os s).power = s.power := rfl
@[simp] theorem emitAll_link (os : List PortOut) (s : State) : (emitAll os s).link = s.link := rfl

end Sys2Proof.Machine
end

