-- ==== Sys2Proof/Laws/Tab.lean ====
section
/-! SUPPORT. What the table operations give: the entry put is read back, every other entry stays, keys stay rising. -/

namespace Sys2Proof.Machine

variable {α : Type}

theorem tget_tset_self (t : Tab α) (n : Nat) (x : α) : tget (tset t n x) n = some x := by
  induction t with
  | nil => simp [tset, tget]
  | cons e t ih =>
    simp only [tset]
    split
    · simp [tget]
    · split
      · simp [tget]
      · simp [tget, *]

theorem tget_tset_ne (t : Tab α) {n m : Nat} (x : α) (h : m ≠ n) : tget (tset t n x) m = tget t m := by
  induction t with
  | nil => simp [tset, tget, h.symm]
  | cons e t ih =>
    simp only [tset]
    split
    · simp [tget, h.symm]
    · split
      · next hk => subst hk; simp [tget, h.symm]
      · simp [tget, ih]

theorem tget_tset (t : Tab α) (n m : Nat) (x : α) :
    tget (tset t n x) m = if m = n then some x else tget t m := by
  by_cases h : m = n
  · subst h; simp [tget_tset_self]
  · simp [tget_tset_ne t x h, h]

theorem tget_tdel_self (t : Tab α) (n : Nat) : tget (tdel t n) n = none := by
  induction t with
  | nil => rfl
  | cons e t ih =>
    simp only [tdel]
    split
    · exact ih
    · simp [tget, *]

theorem tget_tdel_ne (t : Tab α) {n m : Nat} (h : m ≠ n) : tget (tdel t n) m = tget t m := by
  induction t with
  | nil => rfl
  | cons e t ih =>
    simp only [tdel]
    split
    · next hk => subst hk; simp [tget, h.symm, ih]
    · simp [tget, ih]

theorem tget_tdel (t : Tab α) (n m : Nat) : tget (tdel t n) m = if m = n then none else tget t m := by
  by_cases h : m = n
  · subst h; simp [tget_tdel_self]
  · simp [tget_tdel_ne t h, h]

theorem tget_tupd (t : Tab α) (n m : Nat) (f : α → α) :
    tget (tupd t n f) m = if m = n then (tget t n).map f else tget t m := by
  unfold tupd
  cases h : tget t n with
  | none => by_cases hm : m = n <;> simp [hm, h]
  | some a => simp [tget_tset]

theorem tget_tmapv (t : Tab α) (f : Nat → α → α) (n : Nat) : tget (tmapv t f) n = (tget t n).map (f n) := by
  induction t with
  | nil => rfl
  | cons e t ih =>
    by_cases h : e.1 = n
    · subst h; simp [tmapv, tget]
    · have := ih; simp_all [tmapv, tget]

theorem tget_filter (t : Tab α) (p : Nat → Bool) (n : Nat) :
    tget (t.filter (fun e => p e.1)) n = if p n then tget t n else none := by
  induction t with
  | nil => simp [tget]
  | cons e t ih =>
    by_cases hp : p e.1 <;> by_cases h : e.1 = n
    · subst h; simp [hp, tget]
    · simp [hp, tget, h, ih]
    · subst h; simp [hp, ih]
    · simp [hp, tget, h, ih]

theorem tget_of_mem_head (k : Nat) (a : α) (t : Tab α) : tget ((k, a) :: t) k = some a := by simp [tget]

/-- The head key of a table, for the rising order. -/
theorem tabWf_cons {k : Nat} {a : α} {t : Tab α} :
    tabWf ((k, a) :: t) = true ↔ (∀ e ∈ t.head?, k < e.1) ∧ tabWf t = true := by
  cases t with
  | nil => simp [tabWf]
  | cons e t => simp [tabWf]

theorem tset_head (t : Tab α) (n : Nat) (x : α) :
    ∀ e ∈ (tset t n x).head?, e.1 = n ∨ ∃ e' ∈ t.head?, e.1 = e'.1 := by
  cases t with
  | nil => simp [tset]
  | cons e t => simp only [tset]; split <;> [simp; (split <;> simp)]

theorem tabWf_tset (t : Tab α) (n : Nat) (x : α) (h : tabWf t = true) : tabWf (tset t n x) = true := by
  induction t with
  | nil => rfl
  | cons e t ih =>
    obtain ⟨k, a⟩ := e
    obtain ⟨h1, h2⟩ := tabWf_cons.1 h
    simp only [tset]
    split
    · next hn => exact tabWf_cons.2 ⟨by simpa using hn, h⟩
    · split
      · next hk => subst hk; exact tabWf_cons.2 ⟨h1, h2⟩
      · next hn hk =>
        refine tabWf_cons.2 ⟨fun e he => ?_, ih h2⟩
        rcases tset_head t n x e he with h' | ⟨e', he', h'⟩
        · omega
        · rw [h']; exact h1 e' he'

end Sys2Proof.Machine
end

