-- ==== Sys2Proof/Laws/Queues.lean ====
section
/-! SUPPORT. What a change of one queue or of one command leaves of the queues and commands. -/

namespace Sys2Proof.Machine

@[simp] theorem State.modQ_queue (s : State) (c q : Nat) (f : Queue → Queue) :
    (s.modQ (qkey c q) f).queue c q = (s.queue c q).map f := by
  simp [State.queue, State.modQ, State.modQueues, tget_tupd]

theorem State.modQ_tget (s : State) (k k' : Nat) (f : Queue → Queue) :
    tget (s.modQ k f).front.queues k' = if k' = k then (tget s.front.queues k).map f else tget s.front.queues k' := by
  by_cases h : k' = k <;> simp [State.modQ, State.modQueues, tget_tupd, h]

theorem modQueue_tget (c q k : Nat) (f : Queue → Queue) (s : State) :
    tget (modQueue c q f s).front.queues k = if k = qkey c q then some (f (queueAt c q s)) else tget s.front.queues k := by
  by_cases h : k = qkey c q
  · subst h; simp [modQueue, State.modQueues, tmod, tget_tset_self, queueAt]
  · simp [modQueue, State.modQueues, tmod, tget_tset_ne _ _ h, h]

theorem modQueue_modQueue_tget (c q k : Nat) (f g : Queue → Queue) (s w : State) (h : w.front = (modQueue c q f s).front) :
    tget (modQueue c q g w).front.queues k = if k = qkey c q then some (g (f (queueAt c q s))) else tget s.front.queues k := by
  rw [modQueue_tget, queueAt, tgetD, h, modQueue_tget, modQueue_tget, if_pos rfl]
  by_cases hk : k = qkey c q
  · subst hk; rw [if_pos rfl, if_pos rfl]; rfl
  · rw [if_neg hk, if_neg hk, if_neg hk]

theorem Queue.modCmd_cmd (q : Queue) (pos pos' : Nat) (f : Cmd → Cmd) (hf : ∀ c, (f c).pos = c.pos) :
    (q.modCmd pos f).cmd pos' = if pos' = pos then (q.cmd pos).map f else q.cmd pos' := by
  simp only [Queue.cmd, Queue.modCmd]
  generalize q.cmds = l
  induction l with
  | nil => simp
  | cons a l ih =>
    simp only [List.map_cons, List.find?_cons]
    by_cases h : a.pos = pos
    · by_cases h' : pos' = pos
      · subst h'; simp [h, hf]
      · have : (pos == pos') = false := by simpa using Ne.symm h'
        simp only [h, beq_self_eq_true, if_true, hf, this, h', if_false] at ih ⊢
        simpa [h'] using ih
    · have ha : (a.pos == pos) = false := by simpa using h
      simp only [ha, Bool.false_eq_true, if_false]
      by_cases h2 : a.pos = pos'
      · have : ¬ pos' = pos := fun e => h (h2.trans e)
        simp [h2, this]
      · have h3 : (a.pos == pos') = false := by simpa using h2
        simp only [h3]; exact ih

theorem State.modC_cmd (s : State) (k pos k' pos' : Nat) (f : Cmd → Cmd) (hf : ∀ c, (f c).pos = c.pos) :
    (s.modC k pos f).cmd k' pos' = if k' = k ∧ pos' = pos then (s.cmd k pos).map f else s.cmd k' pos' := by
  simp only [State.cmd, State.modC, State.modQ_tget]
  by_cases h : k' = k
  · subst h
    by_cases h' : pos' = pos
    · subst h'
      cases hq : tget s.front.queues k' <;> simp [Queue.modCmd_cmd _ _ _ _ hf]
    · cases hq : tget s.front.queues k' <;> simp [Queue.modCmd_cmd _ _ _ _ hf, h']
  · simp [h]

theorem Cmd.take_pos (st : Status) (aux : Nat) (c : Cmd) : (c.take st aux).pos = c.pos := by
  unfold Cmd.take; split
  · rfl
  · split <;> rfl

theorem begun_cmd (s : State) (k pos k' pos' : Nat) :
    (begun k pos s).cmd k' pos' = if k' = k ∧ pos' = pos then (s.cmd k pos).map (fun m => { m with started := true }) else s.cmd k' pos' :=
  (congrArg (fun f : Front => ((tget f.queues k').bind (fun q => q.cmd pos'))) (consumeItem_front _ _ _ _)).trans
    (State.modC_cmd _ _ _ _ _ _ (fun _ => rfl))

theorem finish_cmd (s : State) (k pos k' pos' : Nat) (st : Status) (aux : Nat) :
    (finish k pos st aux s).cmd k' pos' = if k' = k ∧ pos' = pos then
      (s.cmd k pos).map (fun m => { m.take st aux with running := false, stopping := false }) else s.cmd k' pos' :=
  State.modC_cmd _ _ _ _ _ _ (fun c => Cmd.take_pos st aux c)

theorem addResult_cmd (s : State) (k pos k' pos' : Nat) (l : Loc) (bs : List Byte) :
    (addResult k pos l bs s).cmd k' pos' = if k' = k ∧ pos' = pos then
      (s.cmd k pos).map (fun m => { m with results := m.results ++ [{ loc := l, data := bs }] }) else s.cmd k' pos' :=
  State.modC_cmd _ _ _ _ _ _ (fun _ => rfl)

theorem starting_cmd {k pos op : Nat} {s : State} {m : Cmd} (h : starting k pos op s = some m) :
    s.cmd k pos = some m ∧ m.phase = .dispatched ∧ m.running = true ∧ m.latch = none ∧ m.started = false ∧ eOp m.entry = op := by
  unfold starting at h
  rw [Option.filter_eq_some_iff] at h
  simpa [Option.isNone_iff_eq_none, and_assoc] using h

end Sys2Proof.Machine
end

