-- ==== Sys2Proof/Laws/Stores.lean ====
section
/-! SUPPORT. What a store reads back as, and that every other byte stays. -/

namespace Sys2Proof.Machine

@[simp] theorem le_length (n v : Nat) : (le n v).length = n := by
  induction n generalizing v with
  | zero => rfl
  | succ n ih => simp [le, ih]

theorem memRead_congr {s t : State} (h : t.mem = s.mem) (l : Loc) (n : Nat) : memRead l n t = memRead l n s := by
  simp [memRead, h]

theorem memRead_write {s t : State} (l : Loc) (bs : List Byte) (hs : s.MemOk) (h : t.mem = s.mem.write l bs) :
    memRead l bs.length t = bs := by
  have hc := (Mems.wf_iff s.mem).1 hs
  simp only [memRead, h, Mems.of_write, if_true]
  exact readN_writeN _ _ (hc.of l.space)

theorem memRead_write_other {s t : State} (l : Loc) (bs : List Byte) (h : t.mem = s.mem.write l bs) (k : Loc)
    (ho : k.space ≠ l.space ∨ k.addr < l.addr ∨ l.addr + bs.length ≤ k.addr) : memRead k 1 t = memRead k 1 s := by
  simp only [memRead, h, Mems.of_write, readN, List.range_one, List.map_cons, List.map_nil, Nat.add_zero]
  by_cases hk : k.space = l.space
  · rw [if_pos hk, cellGet_writeN_outside, hk]
    rcases ho with h | h | h
    · exact absurd hk h
    · exact .inl h
    · exact .inr h
  · rw [if_neg hk]

theorem Mems.write_nil (m : Mems) (l : Loc) : m.write l [] = m := by
  cases hl : l.space <;> simp [Mems.write, writeN, hl]

theorem portWrite_mem (key : Option Nat) (via : Via) (l : Loc) (bs : List Byte) (s : State) :
    (portWrite key via l bs s).mem = s.mem.write l bs := rfl

theorem hostWrite_mem (c : Option Nat) (l : Loc) (bs : List Byte) (s : State) :
    (hostWrite c l bs s).mem = if hostDropped l s then s.mem else s.mem.write l bs := by
  unfold hostWrite; split
  · rfl
  · rw [charge_mem, portWrite_mem]

theorem writeBy_mem (via : Via) (c : Option Nat) (l : Loc) (bs : List Byte) (s : State) :
    (writeBy via c l bs s).mem = if (l.space = .host ∧ hostDropped l s = true) then s.mem else s.mem.write l bs := by
  unfold writeBy; split
  · rename_i h; rw [hostWrite_mem]; simp [h]
  · rename_i h; rw [charge_mem, if_neg (fun e => h e.1), portWrite_mem]

theorem locWrite_mem (c : Option Nat) (l : Loc) (bs : List Byte) (s : State) :
    (locWrite c l bs s).mem = if (l.space = .host ∧ hostDropped l s = true) then s.mem else s.mem.write l bs :=
  writeBy_mem .hub c l bs s

/-- Bytes written to the flash read back, and every other byte of it stays (R412). -/
theorem flashWrite_read {s : State} (off : Nat) (bs : List Byte) (hs : s.MemOk) :
    readN (flashWrite off bs s).mem.flash off bs.length = bs :=
  readN_writeN _ _ ((Mems.wf_iff s.mem).1 hs).2.2.2.2

theorem flashWrite_other {s : State} (off a : Nat) (bs : List Byte) (ha : a < off ∨ off + bs.length ≤ a) :
    cellGet (flashWrite off bs s).mem.flash a = cellGet s.mem.flash a :=
  cellGet_writeN_outside _ _ ha

end Sys2Proof.Machine
end

