-- ==== Sys2Proof/Laws/Teardown.lean ====
section
/-! SUPPORT. What the start of a teardown does to the context. -/

namespace Sys2Proof.Machine

/-- The start of a teardown of an ACTIVE context is the mark of the context and the stop of all its work (R37, R96). -/
theorem beginTeardown_eq {c : Nat} {fault : Bool} {info : FaultInfo} {headRec : Option (Nat × List Byte)} {s : State}
    {x : Context} (hx : tget s.contexts c = some x) (ha : x.state = .active) :
    beginTeardown c fault info headRec s =
      stopContext c fault (if fault then { status := .contextLost, aux := info.status.code } else { status := .aborted, aux := 3 })
        (markTeardown c fault info headRec x s) := by
  simp [beginTeardown, hx, ha]

/-- What the mark writes into the contexts (R36, R37). -/
theorem markTeardown_contexts (c : Nat) (fault : Bool) (info : FaultInfo) (headRec : Option (Nat × List Byte)) (x : Context)
    (s : State) :
    (markTeardown c fault info headRec x s).contexts = tset s.contexts c { x with
      state := .teardown fault, teardownAt := s.now,
      cause := if fault then some { info with hutchSeq := s.hutch.nextSeq } else none } := by
  have hr : ∀ (k tag : Nat) (s : State), (contextRecords k tag s).contexts = s.contexts ∧ (contextRecords k tag s).time = s.time :=
    fun k tag s => ⟨(contextRecords_within k tag (Within.refl _ _) (Covers.refl _)).same .contexts (by decide),
      (contextRecords_within k tag (Within.refl _ _) (Covers.refl _)).same .time (by decide)⟩
  cases fault <;> simp [markTeardown, State.now, hr]

end Sys2Proof.Machine
end

