-- ==== Sys2Proof/Tests/Slice0.lean ====
section
/-! SUPPORT. Small checks on written-out states: for every clause of the obligations a state and operands that meet its
hypotheses, what the command then leaves, and the identifiers that WellFormed refuses. -/

set_option linter.style.nameCheck false
set_option maxRecDepth 4000
set_option Elab.async false

namespace Sys2Proof.Machine.Tests

open Sys2Proof Sys2Proof.Machine

/-- The block with BAR0 open, the hub ready, Wardrobe enabled and capabilities agreed. -/
def up : State :=
  { State.reset with
    port := { State.reset.port with blkRstN := true, hfpReady := true, lkpReady := true, prtRst := [] },
    watch := { State.reset.watch with hubReady := true },
    wrd := { State.reset.wrd with enable := true, built := true, fastGib := 4, slowGib := 4, hkBase := 0xC0000000 },
    hub := { State.reset.hub with capsValid := true, agreedCaps := 0xFF } }

/-- The state a command leaves, itself where it stops. -/
def after (c : Instr) (s : State) : State :=
  match exec c s with
  | .next t => t
  | _ => s

/-- A tenant record (R24): class RT, INT and BAT allowed, no arenas, sealed or not. -/
def tenantBytes (sealedBit : Nat) : List Byte :=
  le 1 2 ++ le 1 (14 + sealedBit) ++ le 2 7 ++ le 2 4 ++ le 2 4 ++ le 4 16 ++ le 2 8 ++ zeros 2 ++ zeros 32 ++ le 4 64 ++ zeros 12

def tenantRcd (sealedBit : Bool) : TenantRec :=
  { isSealed := sealedBit, allowRt := true, allowInt := true, allowBat := true, share := 7, maxContexts := 4, maxLoops := 4,
    maxSequences := 16, benchQuota := 8, fastBase := 0, fastSize := 0, slowBase := 0, slowSize := 0, maxKvFrames := 64 }

/-- A context record (R27) of tenant 2, function 1, class INT, two queues, an object table of 16 entries at 0x2000. -/
def ctxBytes : List Byte :=
  le 1 2 ++ le 1 1 ++ le 2 2 ++ le 2 5 ++ le 2 1 ++ le 4 9 ++ le 2 2 ++ le 1 4 ++ le 1 0 ++ le 8 0x1000 ++ le 8 0x2000 ++
  le 8 0x3000 ++ le 2 3 ++ zeros 22

def ctxRcd : CtxRec :=
  { cls := .int, swap := false, tenant := 2, share := 5, fn := 1, pasid := 9, queueCount := 2, objLog2 := 4,
    queueTable := 0x1000, objTable := 0x2000, faultAddr := 0x3000, msixLast := 3 }

/-- Tenant 2 ACTIVE. -/
def upT : State := { up with tenants := [(2, { rcd := tenantRcd false, slotOffset := none })] }

/-- Context 3 of tenant 2 in a state. -/
def upC (x : CtxState) : State := { upT with contexts := [(3, { Context.fresh ctxRcd ctxBytes with state := x })] }

/-- A queue record (R65): ring of 16 entries at 0x8000, Completion Word at 0x9000, detail_mode m, messages on vector 3
after 2 retirements or 5 us, a window of 7 ms. -/
def queueBytes (m : Nat) : List Byte :=
  le 1 2 ++ le 1 (m + 4) ++ le 1 4 ++ le 1 3 ++ le 1 4 ++ le 1 (if m = 0 then 0 else 4) ++ le 2 3 ++ le 4 7 ++ le 2 5 ++ le 1 2 ++
  le 1 0 ++ le 8 0x8000 ++ le 8 0x9000 ++ le 8 (if m = 0 then 0 else 0xA000) ++ le 4 0xFFFFFFFE ++ zeros 20

def queueRcd (m : Nat) : QueueRec :=
  { detailMode := m, msixEnable := true, msixOnError := false, ringLog2 := 4, weight := 3, burst := 4,
    detailLog2 := if m = 0 then 0 else 4, msixVector := 3, timeoutMs := 7, modDelayUs := 5, modCount := 2, ringBase := 0x8000,
    completionAddr := 0x9000, detailBase := if m = 0 then 0 else 0xA000, startIndex := 0xFFFFFFFE }

/-- Queue 1 just enabled. -/
def q0 : Queue := Queue.enable (queueRcd 0) 0

/-- Context 3 ACTIVE with queue 1. -/
def upQ (u : Queue) : State :=
  { upC .active with front := { (upC .active).front with queues := [(qkey 3 1, u)] } }

/-- A ring entry (R101): generation 2, an opcode, tag 0x55, zero payload. -/
def entry (op : Nat) : List Byte := le 1 2 ++ le 1 op ++ zeros 2 ++ le 4 0x55 ++ zeros 56

/-- The command at W of q0 with an entry, in a phase. -/
def cmd0 (op : Nat) (p : CmdPhase) : Cmd := { Cmd.fresh ⟨0xFFFFFFFE, entry op, none, true⟩ with phase := p }

/-- Queue 1 with three positions published, the first one a command. -/
def q3 (m : Cmd) : Queue := { q0 with d := 0x100000001, f := 0xFFFFFFFF, cmds := [m] }

/-! ### Tenants, contexts, seal keys -/

theorem test_tenantActivate :
    cmdOpen up.hub.objBusy up = true ∧ tget up.tenants 1023 = none ∧ up.wrd.enable = true ∧ up.hub.capsValid = true ∧
    parseTenant up.integ.slices (tenantBytes 1) = some (tenantRcd true) ∧ bit up.hub.agreedCaps capSealed = true ∧
    arenasFit (tenantRcd true) up = true ∧ arenaOverlaps (tenantRcd true) up = false ∧ (freeOffset up).isSome = true ∧
    tget (after (.tenantActivate 1023 (.ok (tenantBytes 1))) up).tenants 1023 =
      some { rcd := tenantRcd true, slotOffset := some 0 } := by decide +kernel

theorem test_tenantRetire :
    cmdOpen upT.hub.objBusy upT = true ∧ (tget upT.tenants 2).isSome = true ∧ (∀ e ∈ upT.contexts, e.2.rcd.tenant ≠ 2) ∧
    (after (.tenantRetire 2) upT).tenants = [] ∧ (after (.tenantRetire 2) upT).hub.burFifo = [(0, .ret 2)] := by
  decide +kernel

theorem test_contextActivate :
    cmdOpen upT.hub.objBusy upT = true ∧ tget upT.contexts 16383 = none ∧ parseCtx ctxBytes = some ctxRcd ∧
    (tenantRcd false).allows ctxRcd.cls = true ∧ ctxLimit ctxRcd (tenantRcd false) upT = false ∧
    (tget (after (.contextActivate 16383 (.ok ctxBytes)) upT).contexts 16383).map (·.state) = some .active := by
  decide +kernel

/-- One state for each way HUB_OBJ_CMD fails (R33 to R35): the result it reports. -/
theorem test_objectCommands_reject :
    (after (.tenantActivate 1024 .error) up).hub.objResult = 2 ∧ (after (.tenantActivate 2 .error) upT).hub.objResult = 3 ∧
    (after (.tenantActivate 1 .poison) upT).hub.objResult = 7 ∧
    (after (.tenantActivate 1 (.ok (zeros 64))) upT).hub.objResult = 4 ∧
    (after (.tenantRetire 1) upT).hub.objResult = 3 ∧ (after (.tenantRetire 2) (upC .active)).hub.objResult = 3 ∧
    (after (.contextActivate 3 .error) (upC .lost)).hub.objResult = 3 ∧
    (after (.contextActivate 4 .error) upT).hub.objResult = 7 ∧
    (after (.contextActivate 4 (.ok ctxBytes)) up).hub.objResult = 3 ∧
    (after (.contextActivate 4 (.ok (zeros 2 ++ le 2 2 ++ zeros 60))) upT).hub.objResult = 4 := by decide +kernel

/-- OVERLAP with the housekeeping region, LIMIT of slot offsets, a class not allowed, a limit of contexts, a command while
busy. -/
theorem test_objectCommands_limits :
    (let r := { tenantRcd true with fastBase := 0xC0000000, fastSize := 65536 }
     arenasFit r up = true ∧ arenaOverlaps r up = true) ∧
    freeOffset { up with sched := { up.sched with slotsPerTenant := 49 } } = none ∧
    (let t := { tenantRcd false with allowInt := false }
     (after (.contextActivate 4 (.ok ctxBytes)) { up with tenants := [(2, { rcd := t, slotOffset := none })] }).hub.objResult = 4) ∧
    (let t := { tenantRcd false with maxContexts := 1 }
     (after (.contextActivate 4 (.ok ctxBytes)) { upC .active with tenants := [(2, { rcd := t, slotOffset := none })] }).hub.objResult = 5) ∧
    cmdOpen true up = false ∧ (cmdIgnored hubObjCmd { up with hub := { up.hub with objBusy := true } }).hub.bar0Cause = 3 := by
  decide +kernel

theorem test_contextRetire :
    (after (.contextRetire 4) (upC .active)).hub.objResult = 3 ∧
    (after (.contextRetire 3) (upC (.teardown true))).hub.objResult = 3 ∧
    (after (.contextRetire 3) (upC .lost)).contexts = [] ∧
    (tget (after (.contextRetire 3) (upC .active)).contexts 3).map (·.state) = some (.teardown false) ∧
    (after (.contextRetire 3) (upC .active)).hub.objBusy = true := by decide +kernel

theorem test_teardownDone :
    tearReady 3 (upC (.teardown false)) = true ∧ tearReady 3 (upC (.teardown true)) = true ∧
    (after (.teardownDone 3) (upC (.teardown false))).contexts = [] ∧
    (tget (after (.teardownDone 3) (upC (.teardown true))).contexts 3).map (·.state) = some .lost := by decide +kernel

/-- The seal record with the base point of P-256 as its key (FIPS 186-5). -/
def sealBytes : List Byte :=
  le 4 77 ++ le 1 2 ++ zeros 3 ++ le 32 curve256.gx ++ le 32 curve256.gy ++ zeros 56

theorem test_sealKeys :
    cmdOpen false up = true ∧ (parseSealKey sealBytes).map (·.keyId) = some 77 ∧ parseSealKey (zeros 128) = none ∧
    (after (.sealLoad 7 (.ok sealBytes)) up).hub.sealResult = 0 ∧
    (after (.sealLoad 7 .poison) up).hub.sealResult = 4 ∧ (after (.sealLoad 7 (.ok (zeros 128))) up).hub.sealResult = 2 ∧
    (let s := after (.sealLoad 7 (.ok sealBytes)) up
     (after (.sealLoad 6 (.ok sealBytes)) s).hub.sealResult = 3 ∧ (after (.sealClear 7) s).hub.sealSlots = []) := by
  decide +kernel

/-! ### Front -/

theorem test_queueEnable :
    cmdOpen (upC .active).front.qBusy (upC .active) = true ∧ (upC .active).mem.wf = true ∧
    (tget (upC .active).contexts 3).map (fun x => (x.state, x.rcd.queueCount)) = some (.active, 2) ∧
    (queueAt 3 1 (upC .active)).state = .stopped ∧ parseQueue (queueBytes 0) = some (queueRcd 0) ∧
    (queueRcd 0).msixVector ≤ ctxRcd.msixLast ∧ hostDropped (ctxLoc ctxRcd 0x9000) (upC .active) = false ∧
    (let t := after (.queueEnable 3 1 (.ok (queueBytes 0)) .ok) (upC .active)
     memRead (ctxLoc ctxRcd 0x9000) 8 t = le 8 0xFFFFFFFE ∧ t.front.qResult = 0) := by decide +kernel

/-- Each check of R71 that fails, and the two commands while FRT_QSTS is busy. -/
theorem test_queueCommands_reject :
    (after (.queueEnable 3 2 .error .ok) (upC .active)).front.qResult = 2 ∧
    (after (.queueShutdown 3 1) (upC .lost)).front.qResult = 2 ∧
    (after (.queueEnable 3 1 .error .ok) (upQ q0)).front.qResult = 3 ∧
    (after (.queueShutdown 3 0) (upQ q0)).front.qResult = 3 ∧
    (after (.queueEnable 3 0 .poison .ok) (upQ q0)).front.qResult = 5 ∧
    (after (.queueEnable 3 0 (.ok (zeros 64)) .ok) (upQ q0)).front.qResult = 4 ∧
    (after (.queueEnable 3 0 (.ok (queueBytes 0)) .poison) (upQ q0)).front.qResult = 2 ∧
    (after (.queueEnable 3 0 (.ok (queueBytes 0)) .ok)
      { upQ q0 with front := { (upQ q0).front with qBusy := true } }).hub.bar0Cause = 3 := by decide +kernel

theorem test_queueShutdown :
    q0.enabled = true ∧ (q3 (cmd0 0 .accepted)).enabled = true ∧
    (after (.queueShutdown 3 1) (upQ q0)).front.qResult = 0 ∧
    ((after (.queueShutdown 3 1) (upQ q0)).queue 3 1).map (·.state) = some .stopped ∧
    (let t := after (.queueShutdown 3 1) (upQ (q3 (cmd0 0 .accepted)))
     (t.queue 3 1).map (·.state) = some .shutting ∧
     (t.cmd (qkey 3 1) 0xFFFFFFFE).map (·.latch) = some (some ⟨.aborted, 2⟩)) := by decide +kernel

/-- The example of R63: D at 0xFFFFFFFE, a producer value of 1 publishes three entries across the wrap; a value 17 ahead
of W is dropped; the Detail consumer value. -/
theorem test_doorbell :
    barOpen (upQ q0) = true ∧ accepts 3 1 (upQ q0) = true ∧
    (tget (upQ q0).contexts 3).map (fun x => (x.rcd.fn, x.rcd.queueCount)) = some (1, 2) ∧
    ((after (.doorbellWrite 1 (3 * 0x20000 + 8) 4 1) (upQ q0)).queue 3 1).map (fun w => (w.d, w.state)) =
      some (0x100000001, .fetching) ∧
    ((after (.doorbellWrite 1 (3 * 0x20000 + 8) 4 15) (upQ q0)).queue 3 1).map (fun w => (w.d, w.badDoorbell)) =
      some (0xFFFFFFFE, 1) ∧
    ((after (.doorbellWrite 1 (3 * 0x20000 + 8) 4 0xFFFFFFFE) (upQ q0)).queue 3 1) = some q0 ∧
    ((after (.doorbellWrite 1 (3 * 0x20000 + 12) 4 5) (upQ { q0 with pd := 5 })).queue 3 1).map (·.cd) = some 5 ∧
    ((after (.doorbellWrite 1 (3 * 0x20000 + 12) 4 5) (upQ q0)).queue 3 1).map (·.badDetail) = some 1 ∧
    ((after (.doorbellWrite 1 (3 * 0x20000 + 8) 8 0xFFFFFFFF) (upQ q0)).queue 3 1).map (fun w => (w.d, w.cd)) =
      some (0xFFFFFFFF, 0) := by decide +kernel

/-- One write for each way of being dropped. -/
theorem test_dropped_writes :
    barOpen State.reset = false ∧ accepts 3 0 (upQ q0) = false ∧
    (after (.doorbellWrite 2 (3 * 0x20000) 4 1) (upQ q0)).front.ctxDrops = [(3, (1, 0))] ∧
    (after (.pushWrite 2 (3 * 0x20000) [1]) (upQ q0)).front.ctxDrops = [(3, (1, 0))] ∧
    (after (.doorbellWrite 1 (3 * 0x20000 + 0x800) 4 1) (upQ q0)).front.ctxDrops = [(3, (0, 1))] ∧
    (after (.pushWrite 1 (3 * 0x20000 + 0xFFFF) [1]) (upQ q0)).front.ctxDrops = [(3, (0, 1))] ∧
    (after (.doorbellWrite 1 (3 * 0x20000 + 16) 4 1) (upQ q0)).front.ctxDrops = [(3, (0, 1))] ∧
    (after (.pushWrite 1 (3 * 0x20000 + 0x10200) [1]) (upQ q0)).front.ctxDrops = [(3, (0, 1))] ∧
    ((after (.doorbellWrite 1 (3 * 0x20000 + 8) 2 1) (upQ q0)).queue 3 1).map (·.badSize) = some 1 ∧
    ((after (.doorbellWrite 1 (3 * 0x20000) 8 1) (upQ q0)).queue 3 0).map (·.dropped) = some 1 ∧
    ((after (.pushWrite 1 (3 * 0x20000 + 0x10000) [1]) (upQ q0)).queue 3 0).map (·.dropped) = some 1 := by decide +kernel

/-- A write of four bytes into the doorbells, and one of a value into the push window. -/
theorem test_bar2_forms :
    after (.pushWrite 1 (3 * 0x20000 + 8) (le 4 1)) (upQ q0) = after (.doorbellWrite 1 (3 * 0x20000 + 8) 4 1) (upQ q0) ∧
    after (.doorbellWrite 1 (3 * 0x20000 + 0x10000 + 256) 4 0x55) (upQ q0) =
      after (.pushWrite 1 (3 * 0x20000 + 0x10000 + 256) (le 4 0x55)) (upQ q0) ∧
    (after (.doorbellWrite 1 (3 * 0x20000 + 0x10000 + 256) 4 0x55) (upQ q0)).front ≠ (upQ q0).front := by decide +kernel

/-- The last byte of slot 3, written after the other 63: the slot is complete. -/
theorem test_pushWrite :
    q0.push.length = 4 ∧ (∀ sl ∈ q0.push, sl.length ≤ 64) ∧
    (let s := after (.pushWrite 1 (3 * 0x20000 + 0x10000 + 256 + 192) (List.replicate 63 7)) (upQ q0)
     let t := after (.pushWrite 1 (3 * 0x20000 + 0x10000 + 256 + 192 + 63) [9]) s
     ((t.queue 3 1).bind (fun w => (w.push[3]?).bind slotBytes)) = some (List.replicate 63 7 ++ [9])) := by decide +kernel

theorem test_fetcher :
    (let u := { q0 with state := .fetching, d := 0x100000001 }
     mayFetch 3 1 2 (upQ u) = true ∧ mayFetch 3 1 3 (upQ u) = false ∧ (upQ u).mem.wf = true ∧
     (takeFetch (qkey 3 1) (some 2) u.f 2 (upQ u)).1 = true ∧
     (let full : State := { upQ u with chest := { up.chest with classes := up.chest.classes.map (fun c => { c with used := 100000 }) } }
      (takeFetch (qkey 3 1) (some 2) u.f 2 full).1 = false ∧
      (after (.fetchIssue 3 1 2) full).chest.waiting.map (fun w => (w.cls, w.queue)) = [(0, qkey 3 1), (0, qkey 3 1)]) ∧
     (let t := after (.fetchIssue 3 1 2) (upQ u)
      (t.queue 3 1).map (·.inflight) = some [(0xFFFFFFFE, 2)] ∧
      ((after (.fetchReturn 3 1 (.ok (entry 0 ++ entry 1))) t).queue 3 1).map (fun w => w.fetched.map (·.pos)) =
        some [0xFFFFFFFE, 0xFFFFFFFF] ∧
      ((tget (after (.fetchReturn 3 1 .error) t).contexts 3).bind (·.cause)).map (·.address) = some (0x8000 + 14 * 64))) ∧
    ((after (.fetcherGoIdle 3 1) (upQ { q0 with state := .fetching })).queue 3 1).map (·.state) = some .idleArmed ∧
    ((after (.fetcherGoIdle 3 1) (upQ { q0 with state := .idleArmed })).queue 3 1).map (·.state) = some .idle ∧
    ((after (.fetcherGoIdle 3 1) (upQ { q0 with state := .idleArmed, d := 0xFFFFFFFF })).queue 3 1).map (·.state) =
      some .fetching := by decide +kernel

/-- One fetched entry; with credit left, and with none. -/
theorem test_arbiterGrant :
    (let u := { q0 with d := 0xFFFFFFFF, f := 0xFFFFFFFF, fetched := [⟨0xFFFFFFFE, entry 0, none, true⟩] }
     classCongested 1 (upQ u) = false ∧ wrrPick 3 (upQ u) = some 1 ∧ wrrPick 3 (upQ { u with credit := 0 }) = none ∧
     ((after (.arbiterGrant none) (upQ u)).queue 3 1).map (fun w => (w.cmds.length, w.credit)) = some (1, 2) ∧
     ((after (.arbiterGrant none) (upQ { u with credit := 0 })).queue 3 1).map (fun w => (w.cmds.length, w.credit)) = some (1, 2) ∧
     (let s := { upQ u with tenants := [(2, { rcd := tenantRcd true, slotOffset := some 0 })] }
      ((after (.arbiterGrant none) s).queue 3 1) = some u ∧
      ((after (.arbiterGrant (some 2)) s).queue 3 1).map (·.credit) = some 2)) := by decide +kernel

/-- The example of R83: three backlogged queues of weights 3, 1, 2 and bursts 4, 16, 1: what seven grants hand over. -/
theorem test_arbiter_round :
    (let qu (w b n : Nat) : Queue :=
      { q0 with rcd := { queueRcd 0 with weight := w, burst := b }, credit := w, d := n, f := n, w := 0,
                fetched := (List.range n).map (fun p => ⟨p, [], none, true⟩) }
     let s0 : State := { upQ q0 with front := { (upQ q0).front with
       queues := [(qkey 3 0, qu 3 4 40), (qkey 3 1, qu 1 16 40), (qkey 3 2, qu 2 1 40)] } }
     let s7 := (List.range 7).foldl (fun s _ => after (.arbiterGrant none) s) s0
     s7.front.queues.map (fun e => (e.2.cmds.length, e.2.credit)) = [(12, 3), (32, 0), (2, 2)]) := by decide +kernel

theorem test_commandRetire :
    (let m := { cmd0 1 .dispatched with latch := some ⟨.timeout, 7⟩ }
     (q3 m).cmd (q3 m).w = some m ∧ replayOpen (qkey 3 1) (q3 m).w (upQ (q3 m)) = false ∧
     ((after (.commandRetire 3 1) (upQ (q3 m))).queue 3 1).map (fun v => (v.w, v.cmds, v.unwritten.map (·.status))) =
       some (0xFFFFFFFF, [], [.timeout]) ∧
     (let t := after (.commandRetire 3 1) (upQ { q3 m with state := .shutting, d := 0xFFFFFFFF })
      (t.queue 3 1).map (·.state) = some .shutting ∧
      ((after (.completionWordWrite 3 1) t).queue 3 1).map (·.state) = some .stopped) ∧
     (let f : Fetched := ⟨0xFFFFFFFE, entry 1, some ⟨.timeout, 7⟩, true⟩
      ((after (.commandRetire 3 1) (upQ { q3 m with cmds := [], fetched := [f] })).queue 3 1).map
        (fun v => (v.fetched, v.unwritten.map (·.status))) = some ([], [.timeout])) ∧
     ((after (.commandRetire 3 1) (upQ { q3 m with state := .shutting, cmds := [] })).queue 3 1).map
       (fun v => v.unwritten.map (·.opcode)) = some [0xFF]) := by decide +kernel

/-- A compact fence at 0x7000 of slow memory raised from 3 to 5; a signal of 2 is behind it. -/
theorem test_retirement_signals :
    (let r (v : Nat) : FenceRef := ⟨⟨.slow, 0x7000⟩, true, v, 0⟩
     let m (st : Status) (v : Nat) := { cmd0 2 .dispatched with latch := some ⟨st, 0⟩, signals := [r v] }
     let s (st : Status) (v : Nat) := memWrite ⟨.slow, 0x7000⟩ (le 4 3) (upQ (q3 (m st v)))
     (s .ok 5).mem.wf = true ∧ signalEffect true ((s .ok 5).fenceValue ⟨.slow, 0x7000⟩ true) 5 = .rise ∧
     signalEffect true ((s .ok 2).fenceValue ⟨.slow, 0x7000⟩ true) 2 = .regress ∧
     memRead ⟨.slow, 0x7000⟩ 4 (after (.commandRetire 3 1) (s .ok 5)) = le 4 5 ∧
     (after (.commandRetire 3 1) (s .ok 2)).mem = (s .ok 2).mem ∧
     (after (.commandRetire 3 1) (s .aborted 5)).mem = (s .aborted 5).mem) := by decide +kernel

/-- One and two unreported retirements of a queue that sends a message for two; the delay passed. -/
theorem test_completion_reports :
    (let r : Retired := ⟨0xFFFFFFFE, 0, 0x55, false, .ok, 0, 0, false⟩
     let u (n : Nat) : Queue := { q0 with w := 0xFFFFFFFF, d := 0xFFFFFFFF, unwritten := [r], unreported := n }
     let t (n : Nat) := after (.completionWordWrite 3 1) (upQ (u n))
     memRead (ctxLoc ctxRcd 0x9000) 8 (t 1) = le 8 0xFFFFFFFF ∧ ((t 1).queue 3 1).map (·.unreported) = some 1 ∧
     ((t 2).queue 3 1).map (·.unreported) = some 0 ∧ (t 2).port.out.getLast? = some (.msix 1 3) ∧
     (let s := upQ { q0 with urgent := true, state := .shutting }
      (after (.completionWordWrite 3 1) s).port.out = [.msix 1 3] ∧
      ((after (.completionWordWrite 3 1) s).queue 3 1).map (·.state) = some .stopped) ∧
     (let s : State := { upQ { q0 with unreported := 1 } with time := 500 }
      (after (.msixModerationTimeout 3 1) s).port.out = [.msix 1 3])) := by decide +kernel

theorem test_queueTimeout :
    (let s (m : Cmd) : State := { upQ (q3 m) with time := 700000 }
     let t (m : Cmd) := (after (.queueTimeout 3 1) (s m)).queue 3 1
     (q3 (cmd0 1 .accepted)).rcd.timeoutMs * Config.ms ≤ (s (cmd0 1 .accepted)).now ∧
     (t (cmd0 1 .accepted)).map (fun v => v.cmds.map (·.latch)) = some [some ⟨.timeout, 7⟩] ∧
     queuedTest (qkey 3 1) 0xFFFFFFFE (s (cmd0 3 .dispatched)) = false ∧
     (t (cmd0 3 .dispatched)).map (·.timeouts) = some 1 ∧
     (let w : State := { s (cmd0 0x18 .dispatched) with power := { up.power with tests := [(0, qkey 3 1, 0xFFFFFFFE, false, 0)] } }
      ((after (.queueTimeout 3 1) w).queue 3 1).map (fun v => v.cmds.map (·.latch)) = some [some ⟨.timeout, 7⟩]) ∧
     (t { cmd0 3 .dispatched with latch := some ⟨.ok, 0⟩ }).map (fun v => (v.timeouts, v.heldSince)) = some (0, 700000) ∧
     ((after (.queueTimeout 3 1) { upQ { q3 (cmd0 0 .intake) with cmds := [] } with time := 700000 }).queue 3 1).map
       (fun v => v.fetched.map (·.pos)) = some [0xFFFFFFFE]) := by decide +kernel

/-! ### Acceptance and Bramble -/

/-- A ring entry of tag 0x55 without waits and signals, with a payload. -/
def entryP (op : Nat) (p : List Byte) : List Byte := le 1 2 ++ le 1 op ++ zeros 2 ++ le 4 0x55 ++ zeros 8 ++ padTo 48 p

/-- Object 1 of context 3: 64 KiB of slow memory with every right. -/
def mem1 : MemObj :=
  { addr := 0x100000, size := 0x10000, space := .slow, read := true, write := true, fence := true, prog := true,
    devVa := 0x40000 }

def withObj (key : Nat) (b : ObjBody) (s : State) : State := { s with objects := tset s.objects key (Obj.fresh 0 b) }

/-- Queue 1 of context 3 with a command of an entry in a phase at W; object 1 cached. -/
def upM (p : CmdPhase) (e : List Byte) : State :=
  withObj (objKey 3 1) (.mem mem1) (upQ (q3 { cmd0 0 p with entry := e }))

/-- Queue 1 of context 3 with a dispatched command of an entry. -/
def upRun (e : List Byte) : State :=
  withObj (objKey 3 1) (.mem mem1) (upQ (q3 { cmd0 0 .dispatched with entry := e, running := true, dispatchedAt := 77 }))

def at0 (s : State) : Option Cmd := s.cmd (qkey 3 1) 0xFFFFFFFE

theorem test_fences :
    waitMet false 5 5 = true ∧ waitMet false 5 6 = false ∧ waitMet true 2 0xFFFFFFFF = true ∧
    waitMet true 0x80000000 0 = false ∧
    (let r (v : Nat) : FenceRef := ⟨⟨.slow, 0x7000⟩, true, v, 0x42⟩
     let s := memWrite ⟨.slow, 0x7000⟩ (le 4 3) (upQ q0)
     (signalFence 3 9 (r 0x80000002) s).fenceValue ⟨.slow, 0x7000⟩ true = 0x80000002 ∧
     (signalFence 3 9 (r 0x80000003) s).jnl.events.map (·.words) = [[0x42, 3, 0x80000003, 0]] ∧
     (signalFence 3 9 (r 3) s).jnl.events = []) ∧
    (let r : FenceRef := ⟨⟨.slow, 0x7000⟩, false, 2 ^ 63, 0⟩
     (signalFence 3 9 r (upQ q0)).fenceValue ⟨.slow, 0x7000⟩ false = 2 ^ 63) := by decide +kernel

/-- Acceptance of OP_NOP, of a wrong generation, of an unknown opcode, of a reserved byte, with a dependency list in
host memory, and of a graph without a version. -/
theorem test_entryAccept :
    heldCmds (upM .intake (entryP 0 [])) = [] ∧
    ((upM .intake (entryP 0 [])).queue 3 1).bind Queue.intakeHead = some { cmd0 0 .intake with entry := entryP 0 [] } ∧
    (at0 (after (.entryAccept 3 1) (upM .intake (entryP 0 [])))).map (·.phase) = some .accepted ∧
    (let s := upM .intake (entryP 0x15 (le 4 2 ++ zeros 4))
     (at0 (after (.entryAccept 3 1) s)).map (·.phase) = some (.reading (ctxLoc ctxRcd (0x2000 + 128)) 64 16)) ∧
    (at0 (after (.entryAccept 3 1) (upM .intake (le 1 3 ++ zeros 63)))).map (·.latch) = some (some ⟨.malformed, 0⟩) ∧
    (at0 (after (.entryAccept 3 1) (upM .intake (entryP 7 [])))).map (·.latch) = some (some ⟨.unsupported, 0x207⟩) ∧
    (at0 (after (.entryAccept 3 1) (upM .intake (entryP 0 [0, 1])))).map (·.latch) = some (some ⟨.malformed, 17⟩) ∧
    (let s := withObj (objKey 3 2) (.graph ⟨objKey 3 1, 1, 0, 4096⟩)
       (upM .intake (entryP 6 (le 4 0x80000002 ++ le 4 1 ++ le 8 0 ++ le 8 64)))
     (at0 (after (.entryAccept 3 1) s)).map (·.phase) = some (.verifying (objKey 3 2) 16)) := by decide +kernel

/-- An entry that does not fit is held: by its context's wait entries, or by those that all contexts share. The control word at
address 0 names itself; one with a quarter of even parity is machine check 1. -/
theorem test_entryAccept_held :
    fitsOwn 3 16385 [] up = false ∧ fitsOwn 3 1 [] up = true ∧ fitsShared 131073 0 up = false ∧ fitsShared 1 262145 up = false ∧
    microFetch (entry 0) (upM .intake (entryP 0 [])) = some 0 ∧
    (let s := { upM .intake (entryP 0 []) with integ := { up.integ with rom := [(0, 0)] } }
     microFetch (entry 0) s = none ∧ (after (.entryAccept 3 1) s).watch.lastMc = 1) ∧
    (let s := { upM .intake (entryP 0 []) with chest := { up.chest with classes := up.chest.classes.map (fun c => { c with used := 100000 }) } }
     (askPayload (qkey 3 1) 0xFFFFFFFE 64 s).1 = false) ∧
    up.pinnedObjects + 2 ≤ Config.maxPins := by decide +kernel

theorem test_acceptReadReturn :
    (let l := ctxLoc ctxRcd 0x2080
     let s := upM (.reading l 64 16) (entryP 0x15 (le 4 2 ++ zeros 4))
     heldCmds s = [] ∧ ((s.queue 3 1).bind Queue.reader).map (·.pos) = some 0xFFFFFFFE ∧
     (at0 (after (.acceptReadReturn 3 1 .poison) s)).map (·.latch) = some (some ⟨.access, 16⟩) ∧
     (let t := after (.acceptReadReturn 3 1 (.ok (le 1 2))) s
      memRead l 2 t = le 2 2 ∧ (at0 t).map (·.latch) = some (some ⟨.stale, 16⟩))) := by decide +kernel

/-- An OP_COPY of an INT context at S4 and at S5; an OP_LAUNCH_GRAPH binds the current version. -/
theorem test_commandDispatch :
    isReady (qkey 3 1) { cmd0 0 .accepted with entry := entryP 3 [] } (upM .accepted (entryP 3 [])) = true ∧
    (let s (n : Nat) := { upM .accepted (entryP 3 []) with power := { up.power with level := n } }
     (at0 (after (.commandDispatch 3 1 0xFFFFFFFE) (s 4))).map (fun m => (m.phase, m.dispatchedAt)) = some (.dispatched, 0) ∧
     (at0 (after (.commandDispatch 3 1 0xFFFFFFFE) (s 5))).map (·.latch) = some (some ⟨.shed, 5⟩)) ∧
    (let s := { upM .accepted (entryP 5 (le 4 0x80000002)) with graphs := [(objKey 3 2, { current := 4, versions := [⟨4, [], 0, 0⟩] })] }
     (at0 (after (.commandDispatch 3 1 0xFFFFFFFE) s)).map (·.bound) = some (some (objKey 3 2, 4))) ∧
    (let t := after (.commandDispatch 3 1 0xFFFFFFFE)
       (upM .accepted (entryP 0x11 (le 2 9 ++ zeros 2 ++ le 4 0x10 ++ le 4 4 ++ le 4 50)))
     (tget t.link.joins 9).map (fun j => (j.epoch, j.deadline)) = some (0x10, 5000)) ∧
    (let t := after (.commandDispatch 3 1 0xFFFFFFFE) (upM .accepted (entryP 0x12 (le 1 1)))
     (at0 t).map (fun m => (m.snapshot.length, m.snapshot.take 4)) = some (8, [1, 1, 0, 1])) := by decide +kernel

theorem test_bramble_finishes :
    (∀ op ∈ [0, 1, 2, 0x15, 0x12], (starting (qkey 3 1) 0xFFFFFFFE op (upRun (entryP op []))).isSome = true) ∧
    (at0 (after (.opNop 3 1 0xFFFFFFFE) (upRun (entryP 0 [])))).map (fun m => (m.latch, m.running)) = some (some ⟨.ok, 0⟩, false) ∧
    (at0 (after (.opFenceWait 3 1 0xFFFFFFFE) (upRun (entryP 1 [])))).map (·.latch) = some (some ⟨.ok, 0⟩) ∧
    (at0 (after (.opFenceSignal 3 1 0xFFFFFFFE) (upRun (entryP 2 [])))).map (·.latch) = some (some ⟨.ok, 0⟩) ∧
    (at0 (after (.opTimestamp 3 1 0xFFFFFFFE) (upRun (entryP 0x15 (le 4 1 ++ zeros 4 ++ le 8 8))))).map (·.results) =
      some [⟨⟨.slow, 0x100008⟩, le 8 77⟩] ∧
    (at0 (after (.opQuery 3 1 0xFFFFFFFE) (upRun (entryP 0x12 (le 1 2 ++ zeros 7 ++ le 4 1 ++ zeros 4 ++ le 8 64))))).map
      (·.results) = some [⟨⟨.slow, 0x100040⟩, []⟩] := by decide +kernel

/-- Object 2 freed: not cached; pinned by the command alone; referenced by something else. -/
theorem test_opObjFree :
    (let e := entryP 0x10 (le 4 2)
     let s (pins refs : Nat) : State :=
       { upRun e with objects := tset (upRun e).objects (objKey 3 2) { Obj.fresh 0 (.mem mem1) with pins := pins, refs := refs } }
     (at0 (after (.opObjFree 3 1 0xFFFFFFFE) (upRun e))).map (·.latch) = some (some ⟨.stale, 16⟩) ∧
     tget (after (.opObjFree 3 1 0xFFFFFFFE) (s 1 0)).objects (objKey 3 2) = none ∧
     (tget (after (.opObjFree 3 1 0xFFFFFFFE) (s 1 1)).objects (objKey 3 2)).map (fun o => (o.freePending, o.pins)) =
       some (true, 0)) := by decide +kernel

theorem test_opBarrierJoin :
    (let s := upRun (entryP 0x11 (le 2 9 ++ zeros 2 ++ le 4 0x10 ++ le 4 4 ++ le 4 50))
     let j : Join := { ctx := 3, queue := 1, pos := 0xFFFFFFFE, epoch := 0x10, participants := 4, timeoutUs := 50, deadline := 5077 }
     let t := after (.opBarrierJoin 3 1 0xFFFFFFFE) { s with link := { s.link with joins := [(9, j)] } }
     t.port.out = [.arrive 0 9 0x10 4 0 0 0] ∧ (at0 t).map (·.started) = some true) := by decide +kernel

/-- Aborts of a queue that does not exist, of one never enabled, of a position not published, of the command itself, of position 0, of
a target that has retired, of one whose latch is taken, and of one that waits. -/
theorem test_opAbort :
    (let e (q n : Nat) := entryP 0x16 (le 1 q ++ zeros 7 ++ le 8 n ++ le 4 1)
     let other : Queue := { q3 (cmd0 0 .accepted) with rcd := queueRcd 1, everEnabled := true }
     let s (q n : Nat) : State := { upRun (e q n) with front := { (upRun (e q n)).front with
       queues := tset (upRun (e q n)).front.queues (qkey 3 0) other } }
     let t (q n : Nat) : State := after (.opAbort 3 1 0xFFFFFFFE) (s q n)
     let r (q n : Nat) := ((at0 (t q n)).bind (·.latch), leNat (memRead ⟨.slow, 0x100000⟩ 8 (t q n)))
     let taken : State := (s 0 0xFFFFFFFF).modC (qkey 3 0) 0xFFFFFFFE (fun m => { m with latch := some ⟨.ok, 0⟩ })
     starting (qkey 3 1) 0xFFFFFFFE 0x16 (s 0 0xFFFFFFFF) = at0 (s 0 0xFFFFFFFF) ∧
     operandLoc (qkey 3 1) { cmd0 0 .dispatched with entry := e 0 1 } 32 40 (s 0 1) = some ⟨.slow, 0x100000⟩ ∧
     r 2 1 = (some ⟨.malformed, 16⟩, 0) ∧
     ((at0 (after (.opAbort 3 1 0xFFFFFFFE) (upRun (e 0 1)))).bind (·.latch)) = some ⟨.malformed, 16⟩ ∧
     r 0 0x200000000 = (some ⟨.malformed, 24⟩, 0) ∧ r 0 0 = (some ⟨.malformed, 24⟩, 0) ∧ r 1 0xFFFFFFFF = (some ⟨.malformed, 24⟩, 0) ∧
     r 0 0xFFFFFFFE = (some ⟨.ok, 0⟩, 2) ∧ r 0 0xFFFFFFFF = (some ⟨.ok, 0⟩, 1) ∧
     leNat (memRead ⟨.slow, 0x100000⟩ 8 (after (.opAbort 3 1 0xFFFFFFFE) taken)) = 2 ∧
     (after (.opAbort 3 1 0xFFFFFFFE) taken).cmd (qkey 3 0) 0xFFFFFFFE = taken.cmd (qkey 3 0) 0xFFFFFFFE ∧
     ((after (.opAbort 3 1 0xFFFFFFFE) (s 0 0xFFFFFFFF)).cmd (qkey 3 0) 0xFFFFFFFE).map (·.latch) =
       some (some ⟨.aborted, 1⟩)) := by decide +kernel

/-- A patch whose image reads as zero is refused; a launch becomes a job, and takes ST_SHED at S6. -/
theorem test_graphs :
    (let e := entryP 6 (le 4 0x80000002 ++ le 4 1 ++ le 8 0 ++ le 8 64)
     (at0 (after (.opGraphPatch 3 1 0xFFFFFFFE) (upRun e))).map (·.started) = some true ∧
     (askPayload (qkey 3 1) 0xFFFFFFFE 64 (upRun e)).1 = true ∧
     (at0 (after (.verifyDone 3 1 0xFFFFFFFE .error) (after (.opGraphPatch 3 1 0xFFFFFFFE) (upRun e)))).map
       (fun m => m.latch.map (·.status)) = some (some .verifyReject)) ∧
    (let e := entryP 5 (le 4 0x80000002 ++ zeros 12 ++ le 2 0 ++ le 2 1)
     ((after (.opLaunchGraph 3 1 0xFFFFFFFE) (upRun e)).sched.jobs.length,
      (after (.opLaunchGraph 3 1 0xFFFFFFFE) (upRun e)).sched.residencies.length) ∈ [(1, 0), (0, 1)] ∧
     (at0 (after (.opLaunchGraph 3 1 0xFFFFFFFE) { upRun e with power := { up.power with level := 6 } })).map (·.latch) =
       some (some ⟨.shed, 6⟩)) := by decide +kernel

/-- Two queues of context 3 that wait on each other: the second scan takes the head of the later one. -/
theorem test_deadlockScan :
    (let f (a v : Nat) : FenceRef := ⟨⟨.slow, a⟩, false, v, 0⟩
     let m (w g : Nat) : Cmd := { cmd0 0 .accepted with waits := [⟨f w 1, false⟩], signals := [f g 1] }
     let s : State := { upQ q0 with
       time := 10000000, front := { (upQ q0).front with
         queues := [(qkey 3 0, q3 (m 0x100 0x200)), (qkey 3 1, q3 (m 0x200 0x100))] } }
     let t := after .deadlockScan s
     let u := after .deadlockScan t
     t.bramble.prevSet = [qkey 3 0, qkey 3 1] ∧ t.contexts = s.contexts ∧ u.bramble.dlkCnt = 1 ∧
     (u.cmd (qkey 3 1) 0xFFFFFFFE).map (·.latch) = some (some ⟨.deadlock, 2⟩) ∧
     (tget u.contexts 3).map (·.state) = some (.teardown true) ∧
     after .deadlockScan { s with bramble := { s.bramble with dlkEnable := false } } =
       { s with bramble := { s.bramble with dlkEnable := false } }) := by decide +kernel

/-- A program image of one END-less bundle, with a signature (FIPS 186-5) whose two multipliers are 1: r and s are the digest
of the sealed bytes, and the key is the point of that abscissa less the base point. -/
def goodImage : List Byte :=
  le 4 0x324E5950 ++ le 1 2 ++ le 1 0 ++ le 2 1 ++ le 4 1 ++ le 4 77 ++ le 4 128 ++ le 4 16 ++ zeros 24 ++ le 4 1 ++ zeros 4 ++
  le 4 144 ++ zeros 68 ++ le 16 1 ++ le 2 1 ++ zeros 2 ++ le 4 77 ++ zeros 56 ++
  le 32 0x6082461c0a6de17631873c9b5981041854a291eef2edc4268e4d3a9399b35fb5 ++
  le 32 0x6082461c0a6de17631873c9b5981041854a291eef2edc4268e4d3a9399b35fb5

/-- The block with the key of the image loaded. -/
def keyed (s : State) : State :=
  { s with hub := { s.hub with sealSlots :=
      [(0, ⟨77, 0xa6bacff0eed4d8f39ca875d8fbd7c1009c8f77a96e1d770943bd2fe7546c6fa,
        0xc09ff86ea975a214528077ea3952aa3aeaabc326cf36b4d364aebff243098891⟩)] } }

/-- The image passes every check of R157. -/
theorem test_image_verifies : goodImage.length = 272 ∧ imageRefusal goodImage (keyed up) = none := by decide +kernel

/-- A patch with that image makes version 2 current. -/
theorem test_patch_verified :
    (let e := entryP 6 (le 4 0x80000002 ++ le 4 1 ++ le 8 0 ++ le 8 272)
     let s := { after (.opGraphPatch 3 1 0xFFFFFFFE) (keyed (memWrite ⟨.slow, 0x100000⟩ goodImage (upRun e))) with
       graphs := [(objKey 3 2, { current := 1, versions := [⟨1, [], objKey 3 1, 1⟩] })] }
     let seen (t : State) := ((at0 t).map (·.latch), (tget t.graphs (objKey 3 2)).map (fun g => (g.current, g.versions.map (·.num))))
     seen (after (.verifyDone 3 1 0xFFFFFFFE .error) s) = (some (some ⟨.ok, 0⟩), some (2, [1, 2]))) := by decide +kernel

/-! ### Serving loops -/

/-- A loop parameter record (R196): four sequences and 64 tokens a step, 16 tokens a page, chunks of 32. -/
def loopBytes : List Byte :=
  le 1 2 ++ le 1 0 ++ le 2 1 ++ le 4 0x80000002 ++ zeros 6 ++ le 2 4 ++ zeros 8 ++ zeros 8 ++ le 4 16 ++ le 4 32 ++ le 4 64 ++
  le 4 1000 ++ zeros 80

def loopPars : LoopParams :=
  { discard := false, journal := false, benchCount := 1, graphHandle := 0x80000002, argHandle := 0, argCount := 0, maxSeqs := 4,
    argOffset := 0, modelKey := 0, tokensPerPage := 16, chunkTokens := 32, maxTokens := 64, windowUs := 1000, deadlineUs := 0,
    rtMhz := 0, demoteFormat := 0, mse := 0, jnlHandle := 0, jnlOffset := 0, jnlLog2 := 0 }

/-- Loop 0 of context 3. -/
def loop0 (p : LoopPhase) : Loop :=
  { draining := false, phase := p, ctx := 3, tenant := 2, tag := 0x77, params := loopPars, gkey := objKey 3 2, ver := 1,
    args := [], pins := [], step := 5, nextOrder := 3, sampled := { shed := 0, freeFast := 0, freeSlow := 0, journalCongested := false, level := 0 },
    entries := [], batchOff := 0, slotBytes := 4096, stats := LoopStats.zero, jnl := none, replay := none, closer := none, endedAt := 0, woken := true, slept := 0 }

def admit0 : AdmitRec :=
  { sharePrefix := false, autoSeed := false, outLog2 := 4, promptTokens := 8, maxNew := 4, seed := 9, firstCounter := 0,
    prefixSource := 0, prefixTokens := 0, temperature := 0, topP := 0x3F800000, topK := 0, stops := [42], promptHandle := 1,
    promptOffset := 0x2000, outHandle := 1, outOffset := 0x3000, fenceHandle := 1, fenceOffset := 0x4000 }

/-- A sequence of loop 0. -/
def seq0 (st : SeqState) : Seq :=
  { state := st, cancel := false, loopId := 0, seqId := 1, ctx := 3, tenant := 2, admitTag := 5, adm := admit0, rawAdmit := [],
    admitStep := 4, lastStep := 5, promptDone := 8, produced := 2, kvTokens := 9, root := none, rootCount := 0, rootOwn := false,
    reserve := 0, rtReserved := false, phaseDecode := true, staged := true, acceptOrder := 1, preempts := 0, verdict := none,
    lostPage := none, lastToken := 7, promptLoc := ⟨.slow, 0x102000⟩, outLoc := ⟨.slow, 0x103000⟩,
    fence := ⟨⟨.slow, 0x104000⟩, false, 0, 0⟩, promptKey := objKey 3 1, outKey := objKey 3 1, fenceKey := objKey 3 1 }

/-- A state with loop 0 and sequences. -/
def withLoop (lp : Loop) (qs : Tab Seq) (s : State) : State :=
  { s with trestle := { s.trestle with loops := [(0, lp)], seqs := qs, nextFresh := 10 } }

/-- A command of an entry runs on queue 1, with bytes in object 1. -/
def upRunAt (e : List Byte) (off : Nat) (b : List Byte) : State := memWrite ⟨.slow, 0x100000 + off⟩ b (upRun e)

/-- OP_LOOP_OPEN of a legal record takes id 1 beside loop 0; of an illegal one it is refused; so is one of a missing
model. -/
theorem test_opLoopOpen :
    (let e := entryP 8 (le 4 1 ++ le 4 1 ++ le 8 0 ++ le 8 0x1000)
     let run (b : List Byte) := after (.opLoopOpen 3 1 0xFFFFFFFE) (withLoop (loop0 .idle) [] (upRunAt e 0 b))
     parseLoopParams 40 (openParams (qkey 3 1) { cmd0 0 .dispatched with entry := e } (upRunAt e 0 loopBytes)) = .ok loopPars ∧
     (at0 (run loopBytes)).map (fun m => (m.latch, m.results)) =
       some (some ⟨.ok, 0⟩, [⟨⟨.slow, 0x101000⟩, le 8 1⟩]) ∧
     (tget (run loopBytes).trestle.loops 1).map (fun l => (l.phase, l.step, l.params.maxTokens)) = some (.idle, 0, 64) ∧
     (at0 (run (le 1 3))).map (·.latch) = some (some ⟨.malformed, 0x2000⟩) ∧
     (at0 (run (loopBytes.take 24 ++ [1] ++ loopBytes.drop 25))).map (·.latch) = some (some ⟨.stale, 0x2018⟩)) := by
  decide +kernel

/-- A Journal record of a LOOP record's part (R391). -/
def loopPart (i : Nat) (p : List Byte) : List Byte :=
  le 1 2 ++ le 1 1 ++ le 2 0 ++ le 4 0 ++ le 8 i ++ le 8 0 ++ le 1 i ++ le 1 1 ++ zeros 2 ++ padTo 36 p

/-- OP_REPLAY_OPEN of a window, one of another latency table at acceptance, and one out of sequence. -/
theorem test_opReplayOpen :
    (let e := entryP 0x17 (le 4 1 ++ le 4 1 ++ le 8 0 ++ le 8 384 ++ le 8 0x1000 ++ le 8 1 ++ le 8 2)
     let rows (tab first : Nat) := ((List.range 4).map (fun i => loopPart (i + if i = 0 then first else 0) (slice loopBytes (36 * i) 36))).flatten ++
       loopPart 4 (sha256 [] ++ le 4 tab) ++ loopPart 5 (zeros 12 ++ le 1 16 ++ zeros 23)
     let run (tab first : Nat) := after (.opReplayOpen 3 1 0xFFFFFFFE) (upRunAt e 0 (rows tab first))
     ((at0 (run 1 0)).map (·.latch), (tget (run 1 0).trestle.loops 0).map (fun l => l.replay.map (fun r => (r.first, r.count)))) =
       (some none, some (some (1, 2))) ∧
     sameEnv (rows 1 0) [] 0 (upRun e) = true ∧ sameEnv (rows 2 0) [] 0 (upRun e) = false ∧ hasLoopRecord (rows 1 7) = false ∧
     (at0 (run 1 7)).map (fun m => (m.latch, m.results.map (·.data))) = some (some ⟨.replayDiverge, 0⟩, [le 8 (2 ^ 57)])) := by
  decide +kernel

/-- OP_LOOP_ADMIT on an OPEN loop writes sequence 10; on a draining one it is refused; past max_sequences too. -/
theorem test_opLoopAdmit :
    (let e := entryP 9 (le 2 0 ++ zeros 2 ++ le 4 1 ++ le 8 0 ++ le 4 1 ++ zeros 4 ++ le 8 0x1000)
     let rcd := le 1 2 ++ le 1 0 ++ le 1 1 ++ le 1 4 ++ le 4 1 ++ le 8 0x2000 ++ le 4 8 ++ le 4 4 ++ le 8 9 ++ zeros 12 ++ le 4 1 ++
       le 8 0x3000 ++ le 4 1 ++ le 4 0x4000 ++ zeros 4 ++ le 4 0x3F800000 ++ zeros 8 ++ le 4 42 ++ zeros 44
     let run (lp : Loop) (qs : Tab Seq) := after (.opLoopAdmit 3 1 0xFFFFFFFE 1) (withLoop lp qs (upRunAt e 0 rcd))
     (upRunAt e 0 rcd).mem.wf = true ∧ parseAdmit rcd = .ok admit0 ∧
     (at0 (run (loop0 .idle) [])).map (fun m => (m.latch, m.results.map (·.data))) = some (some ⟨.ok, 0⟩, [le 8 10]) ∧
     (tget (run (loop0 .idle) []).trestle.seqs 10).map (fun q => (q.state, q.acceptOrder, q.produced)) = some (.waiting, 3, 0) ∧
     memRead (paramLoc 10 up) 128 (run (loop0 .idle) []) = rcd ∧
     (at0 (run { loop0 .idle with draining := true } [])).map (·.latch) = some (some ⟨.stale, 16⟩) ∧
     (at0 (run (loop0 .idle) ((List.range 16).map (fun i => (i, seq0 .waiting))))).map (·.latch) = some (some ⟨.noMemory, 2⟩)) := by
  decide +kernel

/-- Cancels of every sequence of loop 0 and of one that does not exist: a WAITING one ends, one in DECODE waits. -/
theorem test_opLoopCancel :
    (let e (id : Nat) := entryP 0x0A (le 2 0 ++ zeros 2 ++ le 4 id)
     let run (ph : LoopPhase) (id : Nat) (qs : Tab Seq) :=
       after (.opLoopCancel 3 1 0xFFFFFFFE) (withLoop (loop0 ph) qs (upRun (e id)))
     let two : Tab Seq := [(1, seq0 .waiting), (2, { seq0 .decode with seqId := 2 })]
     tabWf two = true ∧ (seq0 .waiting).parked = true ∧
     (run .running 0xFFFFFFFF two).trestle.seqs.map (fun q => (q.1, q.2.cancel)) = [(2, true)] ∧
     atBoundary 0 (withLoop (loop0 .recorded) two up) = true ∧
     (run .recorded 1 two).trestle.seqs.map (fun q => (q.1, q.2.cancel)) = [(1, true), (2, false)] ∧
     (at0 (run .idle 1 two)).map (·.latch) = some (some ⟨.ok, 0⟩) ∧
     (at0 (run .idle 9 two)).map (·.latch) = some (some ⟨.stale, 20⟩)) := by decide +kernel

theorem test_opLoopClose :
    (let e (mode : Nat) := entryP 0x0B (le 2 0 ++ le 1 mode)
     let run (lp : Loop) (mode : Nat) (qs : Tab Seq) := after (.opLoopClose 3 1 0xFFFFFFFE) (withLoop lp qs (upRun (e mode)))
     let two : Tab Seq := [(1, seq0 .waiting), (2, { seq0 .decode with seqId := 2 })]
     loopOpenIn 0 3 (withLoop (loop0 .idle) two up) = true ∧ up.wrd.mapoutWait = [] ∧
     (at0 (run { loop0 .idle with draining := true } 0 two)).map (·.latch) = some (some ⟨.stale, 16⟩) ∧
     ((run (loop0 .idle) 0 []).trestle.loops, (at0 (run (loop0 .idle) 0 [])).map (·.latch)) = ([], some (some ⟨.ok, 0⟩)) ∧
     (run (loop0 .running) 0 two).trestle.loops.map (fun l => (l.2.draining, l.2.closer)) = [(true, some (qkey 3 1, 0xFFFFFFFE))] ∧
     (run (loop0 .running) 1 two).trestle.seqs.map (fun q => (q.1, q.2.cancel)) = [(2, true)]) := by decide +kernel

/-- A boundary after a step: the waiting sequence joins with its prompt of 8 tokens beside the decoding one; one of a
running loop is left alone, as is an idle one that nothing has woken. -/
theorem test_stepBoundary :
    (let e : BEntry := { seqIdx := 2, seqId := 2, phase := 2, sample := false, cow := false, kvTokens := 9, stepTokens := 1 }
     let two : Tab Seq := [(1, { seq0 .waiting with promptDone := 0, kvTokens := 0, admitStep := 0 }), (2, { seq0 .decode with seqId := 2 })]
     let s := withLoop { loop0 .ended with entries := [e] } two (upC .active)
     let t := after (.stepBoundary 0 ⟨[], [], []⟩) s
     tabWf s.trestle.seqs = true ∧ s.isActive 3 = true ∧
     (tget t.trestle.loops 0).map (fun l => (l.step, l.phase, l.entries.map (fun e => (e.seqIdx, e.stepTokens)))) =
       some (5, .recorded, [(2, 1), (1, 8)]) ∧
     tokenCount (((tget t.trestle.loops 0).map (·.entries)).getD []) = 9 ∧
     (loop0 .idle).awake (upC .active) = true ∧ { loop0 .idle with woken := false }.awake (upC .active) = false ∧
     (tget (after (.stepBoundary 0 ⟨[], [], []⟩) (withLoop (loop0 .idle) two (upC .active))).trestle.loops 0).map (·.phase) = some .recorded ∧
     after (.stepBoundary 0 ⟨[], [], []⟩) (withLoop (loop0 .running) two (upC .active)) = withLoop (loop0 .running) two (upC .active) ∧
     (let s := withLoop { loop0 .idle with woken := false } two (upC .active)
      after (.stepBoundary 0 ⟨[], [], []⟩) s = s)) := by decide +kernel

/-- Another loop's sequences beside loop 0 at its boundary. -/
theorem test_boundary_spares :
    (let other : Loop := { loop0 .running with batchOff := 8192 }
     let s0 := withLoop (loop0 .idle) [(1, seq0 .waiting), (7, { seq0 .decode with loopId := 1, seqId := 7 })] (upC .active)
     let s := { s0 with trestle := { s0.trestle with loops := [(0, loop0 .idle), (1, other)] } }
     s.wrd.mapout = none ∧ s.wrd.mapoutWait = [] ∧ tget s.trestle.seqs 7 = some { seq0 .decode with loopId := 1, seqId := 7 } ∧
     tget (after (.stepBoundary 0 ⟨[], [], []⟩) s).trestle.seqs 7 = tget s.trestle.seqs 7) := by decide +kernel

/-- A token that is a stop token, the last of max_new_tokens, one in between, the program's stop, and an invalid
result. -/
theorem test_results :
    (let e : BEntry := { seqIdx := 2, seqId := 2, phase := 2, sample := true, cow := false, kvTokens := 9, stepTokens := 1 }
     let lp := { loop0 .ended with entries := [e] }
     let s (tok fl n : Nat) := memWrite ((batchLoc lp 5 up).plus (256 + 64 * 4)) (le 4 tok ++ le 4 fl)
       (withLoop lp [(2, { seq0 .decode with seqId := 2, produced := n })] (upC .active))
     let r (tok fl n : Nat) := (tget (collectOne lp e 0 (s tok fl n)).1.trestle.seqs 2).map (fun q => (q.verdict, q.produced))
     r 42 1 1 = some (some (1, 0), 2) ∧ r 6 1 3 = some (some (3, 0xFF), 4) ∧ r 6 1 1 = some (none, 2) ∧
     r 6 3 1 = some (some (2, 0xFF), 2) ∧ r 6 0 1 = some (some (8, 0xFF), 1)) := by decide +kernel

/-- A token of a sequence that was pre-empted meanwhile: it stays PREEMPTED, to resume in DECODE. -/
theorem test_results_parked :
    (let e : BEntry := { seqIdx := 2, seqId := 2, phase := 2, sample := true, cow := false, kvTokens := 9, stepTokens := 1 }
     let lp := { loop0 .ended with entries := [e] }
     let s := memWrite ((batchLoc lp 5 up).plus (256 + 64 * 4)) (le 4 6 ++ le 4 1)
       (withLoop lp [(2, { seq0 .preempted with seqId := 2 })] (upC .active))
     (tget (collectOne lp e 0 s).1.trestle.seqs 2).map (fun q => (q.state, q.verdict, q.phaseDecode, q.produced)) =
       some (.preempted, none, true, 3)) := by decide +kernel

/-- Loop 0 with a record and its benches 8 and 9 of partition 2 held by residency 0. -/
def launchable (lp : Loop) : State :=
  let s := withLoop lp [(2, { seq0 .decode with seqId := 2 })] (upC .active)
  { s with sched := { s.sched with
      nextRes := 1,
      residencies := [(0, { ctx := 3, owner := .loop 0, count := 2, benches := [8, 9], running := false, cmd := none, blockedAt := none,
                            placedAt := 0, saveFrames := [], saved := false, moving := false, streams := [], regs := [] })],
      benches := [(8, { state := .held, res := some 0, claim := none }), (9, { state := .held, res := some 0, claim := none })] } }

/-- A Journal ring of 64 records at 0x8000 of object 1 with waiting records. -/
def jnl0 (w : List (Nat × List Byte)) : Jnl :=
  { obj := objKey 3 1, base := ⟨.slow, 0x108000⟩, log2 := 6, produced := 63, consumed := 60, badConsumed := 0, written := 0,
    waits := 0, gaps := 0, nextSeq := 65, waiting := w, cells := 0 }

/-- A launch on stream 0 of partition 2; a save at shed level S4; a wait for records, for weights and for benches. -/
theorem test_stepLaunch :
    (let e : BEntry := { seqIdx := 2, seqId := 2, phase := 2, sample := true, cow := false, kvTokens := 9, stepTokens := 1 }
     let lp := { loop0 .recorded with entries := [e] }
     let s := launchable lp
     let t := after (.stepLaunch 0) s
     let four : State := { launchable { lp with sampled := { lp.sampled with level := 4 } } with power := { s.power with level := 4 } }
     let full : State := { four with wrd := { four.wrd with fastGib := 0, slowGib := 0 } }
     let x (u : State) := tget u.sched.residencies 0
     let y := (x (passAt (some 0) s)).getD { ctx := 0, owner := .graph, count := 0, benches := [], running := false, cmd := none, blockedAt := none, placedAt := 0, saveFrames := [], saved := false, moving := false, streams := [], regs := [] }
     recordsOut 0 lp s = true ∧ weightsReady lp s = true ∧ freeStream 2 (passAt (some 0) s) = some 0 ∧
     (x s).map (fun z => (z.saved, z.moving, z.running)) = some (false, false, false) ∧
     (y.moving, y.benches) = (false, [8, 9]) ∧
     (claimedRes y (passAt (some 0) s) || underReset y (passAt (some 0) s) || shedSave y 0 (passAt (some 0) s)) = false ∧
     streamsReady y.benches (passAt (some 0) s) = true ∧
     (tget t.trestle.loops 0).map (fun l => (l.step, l.phase)) = some (6, .running) ∧
     (streamAt 2 0 t).launch.map (fun l => (l.loopId, l.step)) = some (some 0, 6) ∧ PortOut.launch 2 0 ∈ t.port.out ∧
     (tget t.trestle.seqs 2).map (·.lastStep) = some 6 ∧
     shedSave y 4 (passAt (some 0) four) = true ∧ (saveRes 0 (passAt (some 0) four)).isSome = true ∧
     (x (after (.stepLaunch 0) four)).map (fun z => (z.moving, z.running)) = some (true, false) ∧
     (saveRes 0 (passAt (some 0) full)).isNone = true ∧
     (tget (after (.stepLaunch 0) full).trestle.loops 0).map (fun l => (l.step, l.phase)) = some (5, .recorded) ∧
     weightsReady { lp with params := { loopPars with modelKey := 5 } } s = false ∧
     recordsOut 0 { lp with jnl := some (jnl0 [(6, zeros 64)]) } s = false ∧
     (let bare : State := { s with sched := { s.sched with residencies := [], benches := [] } }
      loopRes 0 bare = none ∧ loopJob 0 bare = none ∧
      (after (.stepLaunch 0) bare).sched.jobs.map (·.2.owner) ++ (after (.stepLaunch 0) bare).sched.residencies.map (·.2.owner) = [.loop 0])) := by decide +kernel

/-- A Journal record (R391). -/
def jrec (typ seq step part items : Nat) (p : List Byte) : List Byte :=
  le 1 2 ++ le 1 typ ++ zeros 6 ++ le 8 seq ++ le 8 step ++ le 1 part ++ le 1 items ++ zeros 2 ++ padTo 36 p

/-- A ring of 64 records at 0x8000 of object 1: two waiting records go out, to the slots of their numbers, and the count follows; 64
behind, none does; an object without the write right costs the context; a closed loop's records go out; consumed counts within and
beyond the ring. -/
theorem test_journal :
    (let r (n : Nat) := jrec 5 n 6 0 1 [7]
     let j := jnl0 [(6, r 63), (6, r 64)]
     let s (j : Jnl) (w : Bool) := withObj (objKey 3 1) (.mem { mem1 with write := w })
       (withLoop { loop0 .idle with jnl := some j } [] (upC .active))
     let jn (t : State) := (tget t.trestle.loops 0).bind (·.jnl)
     jnlInside j (s j true) = true ∧ jnlInside j (s j false) = false ∧ leftOf 0 (s j true) = [] ∧ (r 63).length = 64 ∧
     j.room 63 = true ∧ j.room 64 = true ∧ { j with consumed := 0 }.room 64 = false ∧
     (let t := after (.journalWrite 0) (s j true)
      (jn t).map (fun x => (x.produced, x.waiting.length)) = some (65, 0) ∧ memRead j.base 8 t = le 8 65 ∧
      memRead (j.base.plus (64 + 63 * 64)) 64 t = r 63 ∧ memRead (j.base.plus 64) 64 t = r 64) ∧
     (jn (after (.journalWrite 0) (s { j with consumed := 0 } true))).map (fun x => (x.produced, x.waiting.length)) = some (64, 1) ∧
     (tget (after (.journalWrite 0) (s j false)).contexts 3).map (·.state) = some (.teardown true) ∧
     (let left : JnlLeft := { loop := 0, ctx := 3, tag := 1, jnl := j }
      let c : State := { s j true with trestle := { (s j true).trestle with loops := [], jnlLeft := [left] } }
      (leftOf 0 c).length = 1 ∧ (after (.journalWrite 0) c).trestle.jnlLeft = [] ∧
      memRead (j.base.plus 64) 64 (after (.journalWrite 0) c) = r 64) ∧
     (jn (after (.journalConsumedPoll 0 62) (s j true))).map (·.consumed) = some 62 ∧
     (jn (after (.journalConsumedPoll 0 64) (s j true))).map (·.badConsumed) = some 1) := by decide +kernel

/-- A window of a RESULT record of step 5 with a token, and more records. -/
def replay0 (tok n : Nat) (rest : List (List Byte)) : Replay :=
  { records := jrec 0x0A 0 5 0 1 (zeros 4 ++ le 4 tok) :: rest, queue := 1, pos := 0xFFFFFFFE, first := 1, count := n, map := [(2, 2)],
    result := ⟨.slow, 0x100000⟩, diverged := none }

/-- A replay loop of that window whose step 5 has ended; its one sequence got token 7. -/
def replaying (tok n : Nat) (rest : List (List Byte)) : State :=
  let e : BEntry := { seqIdx := 2, seqId := 2, phase := 2, sample := true, cow := false, kvTokens := 9, stepTokens := 1 }
  memWrite ((batchLoc (loop0 .ended) 5 up).plus (256 + 64 * 4)) (le 4 7 ++ le 4 1)
    (withLoop { loop0 .ended with entries := [e], replay := some (replay0 tok n rest) }
      [(2, { seq0 .decode with seqId := 2, produced := 0, adm := { admit0 with maxNew := 9 } })] (upRun (entryP 0x17 [])))

/-- The window holds another token (kind 5), ends with step 5, has no STEP record of step 6 (kind 2), or one of another composition
(kind 4). -/
theorem test_replay_ends :
    (let run (tok n : Nat) (rest : List (List Byte)) : State := after (.stepBoundary 0 ⟨[], [], []⟩) (replaying tok n rest)
     let seen (t : State) (st : Status) (aux : Nat) (res : List Byte) : Bool :=
       t.trestle.loops.isEmpty && t.trestle.seqs.isEmpty &&
       decide ((at0 t).map (·.latch) = some (some ⟨st, aux⟩)) && decide ((at0 t).map (fun m => m.results.map (·.data)) = some [res])
     let step := jrec 0x09 1 6 0 1 (zeros 4 ++ le 4 1 ++ le 4 1 ++ le 4 0 ++ le 8 0x9A1C)
     (at0 (replaying 7 9 [])).map (fun m => (m.latch, m.awaits)) = some (none, []) ∧
     seen (run 8 9 []) .replayDiverge 2 (replayWord 5 5) = true ∧
     seen (run 7 5 []) .ok 0 (replayWord 0 5) = true ∧
     seen (run 7 9 []) .replayDiverge 0 (replayWord 2 6) = true ∧
     seen (run 7 9 [step]) .replayDiverge 0 (replayWord 4 6) = true) := by decide +kernel

/-- The replay of a command that has lost its latch ends. -/
theorem test_replay_dead :
    (let s := (replaying 7 9 []).modC (qkey 3 1) 0xFFFFFFFE (fun m => { m with latch := some ⟨.aborted, 1⟩ })
     replayDead ((tget s.trestle.loops 0).getD (loop0 .idle)) (replay0 7 9 []) s = true ∧
     (after (.stepBoundary 0 ⟨[], [], []⟩) s).trestle.loops.length = 0) := by decide +kernel

/-- A STEP record of the composition that the boundary finds: the record of step 6 waits for stage 7. -/
theorem test_replay_goes_on :
    (let step := jrec 0x09 1 6 0 1 (zeros 4 ++ le 4 1 ++ le 4 1 ++ le 4 0 ++ le 8 960341898027619172)
     (tget (after (.stepBoundary 0 ⟨[], [], []⟩) (replaying 7 9 [step])).trestle.loops 0).map (fun l => (l.phase, l.step, l.entries.length)) =
       some (.recorded, 5, 1)) := by decide +kernel

/-! ### Slices, side engines, the scheduler -/

/-- An image with one bundle of text, a control word, and one side entry of one command (R141, R144, R146, R153). -/
def progImage (ctl : Nat) (side : List Byte) : List Byte :=
  le 4 0x324E5950 ++ le 1 2 ++ le 1 0 ++ le 2 1 ++ le 4 1 ++ le 4 77 ++ le 4 128 ++ le 4 16 ++ le 4 160 ++ le 4 64 ++ le 2 1 ++
  zeros 22 ++ le 4 224 ++ zeros 68 ++ le 8 ctl ++ zeros 24 ++ le 4 32 ++ zeros 28 ++ padTo 32 side ++ zeros 128

/-- A launch of version 1 of graph 2 on benches 8 and 9 with object 1 as argument 0. -/
def launch0 : Launch :=
  { ctx := 3, tag := 0x66, step := 5, loopId := some 0, cmd := none, gkey := objKey 3 2, ver := 1, ordinal := 0, parts := [2],
    benches := [8, 9], batch := 0, args := [some ⟨objKey 3 1, mem1, 0x100⟩], windowUs := 1000, res := 0 }

/-- Stream 1 of slice 2 in a state with a program. -/
def upStream (ctl : Nat) (side : List Byte) (x : Stream) : State :=
  let s := withObj (objKey 3 1) (.mem mem1) (withLoop (loop0 .running) [(2, { seq0 .decode with seqId := 2 })] (upC .active))
  { s with
    graphs := [(objKey 3 2, { current := 1, versions := [⟨1, progImage ctl side, objKey 3 1, 1⟩] })],
    slices := [(2, { Slice.reset with
      streams := [Stream.reset, x, Stream.reset, Stream.reset], lines := [(0, objKey 3 2, 1, 0), (1, objKey 3 2, 1, 256)] })] }

/-- A running stream, with an entry posted to an engine. -/
def run0 (eng : Nat) : Stream :=
  { Stream.reset with
    state := .running, launch := some launch0, cycle := 9, mask := 3,
    engines := (List.range 4).map (fun i => if i + 1 = eng then ⟨[⟨0, 0x40, 7⟩], none, false, false, 0⟩
      else SideEngine.reset) }

/-- A side command: op, flags, slot, length, offset, core and address, aux1, aux2. -/
def sideB (op fl slot len off ca a1 a2 : Nat) : List Byte :=
  le 1 op ++ le 1 fl ++ le 1 5 ++ le 1 slot ++ le 4 len ++ le 8 off ++ le 4 ca ++ le 4 a1 ++ le 8 a2

/-- A move of frame f is under way. -/
def moving (f : Nat) (s : State) : State := startJob (.zero f) 65536 false Payer.nobody s

theorem test_load_store :
    (let s (b : List Byte) (e : Nat) := memWrite ⟨.slow, 0x100110⟩ (le 4 0xDEADBEEF) (upStream 0 b (run0 e))
     let b := sideB 1 1 0 4 16 0x00100040 0 0
     let c := SideCmd.of b
     let t := after (.load 2 1) (s b 1)
     (streamAt 2 1 (s b 1)).launch = some launch0 ∧
     (engineAt (streamAt 2 1 (s b 1)) 1).place (progImage 0 b) = some (⟨0, 0x40, 7⟩, 32) ∧ c.legal 1 = true ∧
     scratchOk launch0 c 4 = true ∧ (sideAccess launch0 c (·.read)).isSome = true ∧ (s b 1).mem.wf = true ∧
     readN t.mem.scratch (scratchAddr 8 1 0x40) 4 = le 4 0xDEADBEEF ∧ (engineAt (streamAt 2 1 t) 1).busy = true ∧
     (streamAt 2 1 (after (.load 2 1) (s (sideB 1 1 0 4 0x10000 0 0 0) 1))).fault = some ⟨.access, 0, 7, 0x40, 0, 0, 0x50100⟩ ∧
     (streamAt 2 1 (after (.load 2 1) (s (sideB 1 1 0 4 0 0x01000000 0 0) 1))).fault = some ⟨.engineFault, 4, 7, 0x40, 0, 0, 0⟩ ∧
     (let d := sideB 3 1 0 4 32 0x00100040 0 0
      memRead ⟨.slow, 0x100120⟩ 4 (after (.store 2 1) { s d 2 with mem := (scratchWrite (scratchAddr 8 1 0x40) (le 4 99) (s d 2)).mem }) =
        le 4 99 ∧
      (streamAt 2 1 (after (.store 2 1) (s (sideB 3 1 7 4 0 0 0 0) 2))).fault = some ⟨.access, 0, 7, 0x40, 0, 0, 0⟩ ∧
      (streamAt 2 1 (after (.store 2 1) (s (sideB 3 1 0 0x100000 0 0 0 0) 2))).state = .halted)) := by decide +kernel

/-- The hot copy of a resident model is what a LOAD of its source reads; a STORE into it is refused. -/
theorem test_hot_copy :
    (let m : Model := { tenant := 2, key := 4, state := .resident, frames := [3], count := 1, pins := 0, srcKey := objKey 3 1,
                        src := ⟨.slow, 0x100000⟩, srcOffset := 0, length := 0x8000, ctx := 3, lastUse := 0, waiters := [], orphan := false }
     let s (b : List Byte) (e : Nat) : State :=
       let s := memWrite ⟨.fast, 3 * 65536 + 0x110⟩ (le 4 0x1234) (upStream 0 b (run0 e))
       { s with
         trestle := { s.trestle with loops := [(0, { loop0 .running with params := { loopPars with modelKey := 4 } })] },
         wrd := { s.wrd with models := [(0, m)] } }
     let b := sideB 1 1 0 4 16 0x00100040 0 0
     (hotModel launch0 ⟨objKey 3 1, mem1, 0x100⟩ (s b 1)).isSome = true ∧
     readN (after (.load 2 1) (s b 1)).mem.scratch (scratchAddr 8 1 0x40) 4 = le 4 0x1234 ∧
     (engineAt (streamAt 2 1 (after (.load 2 1) (moving 3 (s b 1)))) 1).waiting = true ∧
     (streamAt 2 1 (after (.store 2 1) (s (sideB 3 1 0 4 16 0 0 0) 2))).fault = some ⟨.access, 0, 7, 0x40, 0, 0, 0x40110⟩) := by
  decide +kernel

/-- REDUCE: the sum of 5 and -7 is -2 in 64 bits, the maximum 5; SETREG; what lands sets flag 5 and ends the entry. -/
theorem test_reduce_setreg :
    (let s (b : List Byte) := scratchWrite (scratchAddr 8 0 0) (le 4 5 ++ le 4 (2 ^ 32 - 7)) (upStream 0 b (run0 4))
     let r (b : List Byte) (c : Instr) := (streamAt 2 1 (after c (s b)))
     (r (sideB 7 1 31 8 0 0 0 0) (.reduce 2 1)).reg 31 = BitVec.ofInt 64 (-2) ∧
     (r (sideB 7 1 3 8 0 0 1 0) (.reduce 2 1)).reg 3 = 5 ∧ (r (sideB 7 1 3 6 0 0 0 0) (.reduce 2 1)).state = .halted ∧
     (r (sideB 8 1 31 0 0 0 0 0xABC) (.setreg 2 1)).reg 31 = 0xABC ∧ (r (sideB 8 1 32 0 0 0 0 0) (.setreg 2 1)).state = .halted ∧
     (let t := after (.setreg 2 1) (s (sideB 8 3 31 0 0 0 0 0xABC))
      let u := streamAt 2 1 (after (.sideCommandLanded 2 1 (.whole 4)) t)
      (engineAt (streamAt 2 1 t) 4).busy = true ∧ u.flags = 32 ∧ u.pend = 0 ∧ (engineAt u 4).queue = [] ∧
      (engineAt (streamAt 2 1 (after (.sideCommandLanded 2 1 (.whole 4)) (after (.setreg 2 1) (s (sideB 8 0 31 0 0 0 0 0))))) 4).pc = some 64)) := by
  decide +kernel

/-- A LOAD of 8 KiB under way: one piece lands, then all of it; in a halted stream the engine runs nothing more; a third piece
is none. -/
theorem test_pieces :
    (let b := sideB 1 1 0 8192 0 0 0 0
     let x (n : Nat) : Stream := { run0 1 with engines := [⟨[⟨0, 0x40, 7⟩], some 32, true, false, n⟩] ++ List.replicate 3 SideEngine.reset }
     let r (p : Bool) (x : Stream) := streamAt 2 1 (after (.sideCommandLanded 2 1 (if p then .piece 1 else .whole 1)) (upStream 0 b x))
     ((engineAt (r true (x 0)) 1).landed, (r true (x 0)).progress) = (1, 1) ∧ r true (x 2) = x 2 ∧
     (engineAt (r false (x 1)) 1, (r false (x 1)).progress) = (SideEngine.reset, 2) ∧
     engineAt (r false { x 1 with state := .halted }) 1 = SideEngine.reset) := by decide +kernel

/-- Sequence 2 with one page in frame 5, and an entry for it in the record. -/
def paged (b : List Byte) (e : Nat) (lost : Bool) : State :=
  let rd := padTo 256 (zeros 16 ++ le 4 1 ++ le 4 1 ++ le 4 16 ++ zeros 4 ++ le 4 256 ++ le 4 320 ++ le 4 328) ++
    padTo 64 (le 4 2 ++ zeros 4 ++ le 4 9 ++ le 4 1)
  let s := memWrite ⟨.fast, 0x3000000⟩ rd (upStream 0 b { run0 e with launch := some { launch0 with batch := 0x3000000 } })
  let en : BEntry := { seqIdx := 2, seqId := 2, phase := 2, sample := true, cow := false, kvTokens := 9, stepTokens := 1 }
  { s with
    trestle := { s.trestle with
      loops := [(0, { loop0 .running with entries := [en] })],
      seqs := [(2, { seq0 .decode with seqId := 2, root := some 0, rootCount := 1, rootOwn := true })] },
    wrd := { s.wrd with
      leaves := [(0, { pred := none, predValid := 0, used := 1, chains := 1, entries := [⟨true, lost, 5⟩] })],
      frames := [(5, Frame.kv)] } }

theorem test_gather_scatter :
    (let g := sideB 2 1 0 1 2 0 0 (2 ^ 32)
     let sc := sideB 4 1 0 1 2 0 0 (2 ^ 32)
     let s := memWrite ⟨.fast, 5 * 65536 + 128⟩ (List.replicate 64 7) (paged g 1 false)
     (pagesNamed { launch0 with batch := 0x3000000 } (SideCmd.of g) 80 s).isSome = true ∧
     readN (after (.gather 2 1) s).mem.scratch (scratchAddr 8 0 0) 80 = le 4 0 ++ le 4 64 ++ zeros 8 ++ List.replicate 64 7 ∧
     readN (after (.gather 2 1) (paged g 1 true)).mem.scratch (scratchAddr 8 0 0) 8 = le 4 7 ++ le 4 64 ∧
     (streamAt 2 1 (after (.gather 2 1) (paged (sideB 2 1 0 1 2 0 9 (2 ^ 32)) 1 false))).fault = some ⟨.engineFault, 5, 7, 0x40, 0, 0, 0⟩ ∧
     (let w := after (.gather 2 1) (moving 5 s)
      (engineAt (streamAt 2 1 w) 1).waiting = true ∧ (engineAt (streamAt 2 1 w) 1).pc = some 32) ∧
     (let u := scratchWrite (scratchAddr 8 0 0) (List.replicate 64 9) (paged sc 2 false)
      scatterable 1 (0, ⟨true, false, 5⟩) u = true ∧
      memRead ⟨.fast, 5 * 65536 + 128⟩ 64 (after (.scatter 2 1) u) = List.replicate 64 9 ∧
      (streamAt 2 1 (after (.scatter 2 1) (setFrame 5 { Frame.kv with holders := 2 } u))).state = .halted)) := by decide +kernel

/-- A launch received; a bundle in sequence (16 bytes) that posts entry 0 to the load mover, one that waits for flag 5, one
whose register is pending, one that is an END, and one whose core reports a pending read. -/
theorem test_stream_runs :
    (let w (ctl wait eng : Nat) := ctl * 2 ^ 54 + wait * 2 ^ 48 + eng * 2 ^ 44
     let r (c : Nat) (x : Stream) (hz : Option (Nat × Nat)) := streamAt 2 1 (after (.bundleIssue 2 1 hz) (upStream c [] x))
     let fresh : Stream := { Stream.reset with launch := some launch0 }
     let sent := takeOrWait (itemReq 1 (streamQueue 2 1) (some 2) 5 1 (some (le 4 0x66 ++ le 8 5))) (upStream 0 [] fresh)
     packetReady 1 (streamQueue 2 1) sent = true ∧ packetReady 1 (streamQueue 2 1) (upStream 0 [] fresh) = false ∧
     (streamAt 2 1 (after (.launchReceive 2 1) sent)).regs.take 4 = [0, 1, 0, 5] ∧
     (streamAt 2 1 (after (.launchReceive 2 1) sent)).state = .loading ∧
     (let x := r (w 0 63 1) (run0 0) none
      (x.cycle, x.pc, x.state, (engineAt x 1).queue) = (10, 16, .running, [⟨0, 0, 9⟩])) ∧
     (let x := r (w 0 5 0) (run0 0) none
      (x.cycle, x.stallCause, x.stallFlag, x.state) = (9, 1, 5, .stalled)) ∧
     (let x := r (w 0 63 1) { run0 0 with engines := List.replicate 4 ⟨List.replicate 32 ⟨0, 0, 0⟩, none, false, false, 0⟩ } none
      (x.cycle, x.stallCause) = (9, 2)) ∧
     (r (w 3 63 0) { run0 0 with pend := 1 } none).fault = some ⟨.hazard, 0, 9, 0, 0xFFFF, 0, 0⟩ ∧
     (r (w 0 63 0) (run0 0) (some (4, 2))).fault = some ⟨.hazard, 0, 9, 0, 4, 2, 0⟩ ∧
     (r (w 2 63 0) (run0 0) none).fault = some ⟨.engineFault, 2, 9, 0, 0, 0, 0⟩ ∧
     (r (w 4 63 0) (run0 0) none).state = .draining ∧
     (r (w 4 63 0) { run0 1 with state := .draining } none).stallCause = 3 ∧
     (let s := upStream 0 [] { run0 0 with stallCause := 4 }
      let t := after (.icacheFill 2 1 0) { s with slices := tmapv s.slices (fun _ x => { x with lines := [] }) }
      lineOf launch0 0 ∈ (sliceAt 2 t).lines ∧ (sliceAt 2 t).misses = 1)) := by decide +kernel

/-- A line of the head bundle that the cache holds and that fails parity: a stall of cause 4, one miss, and the line is there again; one
of another bundle is only used. -/
theorem test_line_parity :
    (let s := upStream 0 [] (run0 0)
     let far := upStream 0 [] { run0 0 with pc := 256 }
     let t := after (.icacheFill 2 1 0) s
     lineOf launch0 0 ∈ (sliceAt 2 t).lines ∧ (sliceAt 2 t).misses = 1 ∧ (streamAt 2 1 t).stallCause = 4 ∧
     (streamAt 2 1 t).state = .stalled ∧ after (.icacheFill 2 1 0) far = far) := by decide +kernel

theorem test_stream_ends :
    (let s := upStream (4 * 2 ^ 54 + 63 * 2 ^ 48) [] { run0 0 with state := .draining, alarms := [⟨9, 1, false⟩, ⟨12, 2, false⟩] }
     let t := after (.streamDrainDone 2 1) s
     tabWf s.slices = true ∧ sideBusy (streamAt 2 1 s) = false ∧ t.port.out.getLast? = some (.report 2 1) ∧
     (streamAt 2 1 t).alarmReports = [⟨1, false, false⟩, ⟨2, false, true⟩] ∧
     (let u := after (.stepEndReport 2 1 true) t
      (tget u.trestle.loops 0).map (fun l => (l.phase, l.step)) = some (.ended, 5) ∧ (streamAt 2 1 u).launch = none) ∧
     (streamAt 2 1 (after (.bundleIssue 2 1 (some (4, 2))) s)).fault = some ⟨.hazard, 0, 9, 0, 4, 2, 0⟩ ∧
     after (.bundleIssue 2 1 none) s = s ∧
     (let p := after (.streamDrainDone 2 1) (upStream (4 * 2 ^ 54 + 63 * 2 ^ 48 + 2 ^ 44) [] { run0 0 with state := .draining })
      (engineAt (streamAt 2 1 p) 1).queue = [⟨0, 0, 9⟩] ∧ after (.stepEndReport 2 1 true) p = p) ∧
     (sliceAt 2 (after (.stepEndReport 2 1 false) t)).badCrc = 1 ∧
     (let v := after (.stepEndReport 2 1 false) { t with slices := tmapv t.slices (fun _ x => { x with badCrc := 2 }) }
      (v.watch.lastMc, (stageOf 3 0 v).isSome) = (6, true))) := by decide +kernel

/-- A stop, its confirmation, the report of a hazard, the release after the loop has gone; launches asked for again. -/
theorem test_stream_stops :
    (let s := upStream 0 [] { run0 1 with stopSent := true }
     let t := after (.stopRequest 2 1) s
     let u := after (.stopConfirm 2 1) t
     (streamAt 2 1 t).state = .halted ∧ (streamAt 2 1 t).engines.all (fun g => g.queue.isEmpty) = true ∧
     (streamAt 2 1 u).confirmed = true ∧ after (.streamRelease 2 1) u = u ∧
     (streamAt 2 1 (after (.streamRelease 2 1) { u with trestle := Trestle.reset })).launch = none ∧
     (let h := upStream 0 [] { run0 0 with state := .halted, confirmed := true, fault := some ⟨.hazard, 0, 9, 32, 4, 2, 0⟩ }
      (tget (after (.hazardReport 2 1) h).contexts 3).map (fun x => (x.state, x.cause.map (fun i => (i.status, i.aux)))) =
        some (.teardown true, some (.hazard, 2))) ∧
     (let l (n : Nat) := upStream 0 [] { run0 0 with state := .loading, cycle := 0, retries := n }
      ((streamAt 2 1 (after (.launchRetryRequest 2 1 1) (l 2))).retries, (after (.launchRetryRequest 2 1 1) (l 2)).port.out.getLast?) =
        (3, some (.launch 2 1)) ∧
      (stageOf 2 2 (after (.launchRetryRequest 2 1 1) (l 3))).isSome = true) ∧
     (let a := upStream 0 [] (run0 0)
      (streamAt 2 1 (after (.alarmSet 2 1 8 3 false) a)).alarmReports = [⟨3, true, false⟩] ∧
      (streamAt 2 1 (after (.alarmSet 2 1 9 3 true) a)).alarms = [⟨9, 3, true⟩] ∧
      after (.alarmSet 2 1 9 3 true) { a with power := { a.power with level := 1 } } =
        { a with power := { a.power with level := 1 } } ∧
      (after (.alarmSet 2 1 8 3 false) a).port.out = [.alarm 2 1 8 3 false, .alarmReport 2 1 3 true false]) ∧
     (after (.streamRelease 2 1) { u with trestle := Trestle.reset }).port.out.getLast? = some (.release 2 1) ∧
     (streamAt 2 1 t).reporting = true ∧ (sliceAt 2 (after (.stepEndReport 2 1 false) t)).badCrc = 1 ∧
     after (.stepEndReport 2 1 true) t = t) := by decide +kernel

/-- A launch's halted run of a command, its context torn down, and its release once the command has retired. -/
theorem test_stream_of_command :
    (let x := { run0 0 with state := .halted, confirmed := true, fault := some ⟨.hazard, 0, 9, 32, 4, 2, 0⟩,
                            launch := some { launch0 with loopId := none, cmd := some (qkey 3 1, 0xFFFFFFFE) } }
     let s (u : Queue) (x : Stream) := { upQ u with slices := (upStream 0 [] x).slices, graphs := (upStream 0 [] x).graphs }
     let t := after (.hazardReport 2 1) (s (q3 { cmd0 5 .dispatched with running := true }) x)
     (at0 t).map (·.latch) = some (some ⟨.hazard, 2⟩) ∧ (tget t.contexts 3).map (·.state) = some (.teardown true) ∧
     (streamAt 2 1 (after (.streamRelease 2 1) (s q0 { x with fault := none }))).launch = none ∧
     (let d := { x with state := .idle, fault := none }
      (at0 (after (.stepEndReport 2 1 true) (s (q3 { cmd0 5 .dispatched with running := true }) d))).map (·.latch) =
        some (some ⟨.ok, 0⟩))) := by decide +kernel

theorem test_collectives :
    (let sd := sideB 5 1 0 4 0 0 0 (0x1234 * 2 ^ 24 + 0x020000 + 3)
     let rc := sideB 6 1 0 4 0 0 0 (0x1234 * 2 ^ 24 + 3)
     let s := scratchWrite (scratchAddr 8 0 0) (le 4 7) (upStream 0 sd (run0 3))
     let i (d : List Byte) := after (.collectiveData 2 1 3 0x1234 d) (upStream 0 rc (run0 3))
     let w := s.modEngine 2 1 3 (fun g => { g with waiting := true })
     let me := { run0 3 with state := .halted, engines := (run0 3).engines.map (fun g => { g with waiting := true }) }
     let mine (y : Launch) := { upStream 0 rc (run0 3) with slices := [(2, { Slice.reset with
       streams := [{ run0 0 with launch := some y }, run0 3, Stream.reset, Stream.reset] })] }
     peerOk (SideCmd.of sd) = true ∧
     (after (.send 2 1) w).port.out = [.peerData 3 0 0 2 0 0x1234 (w.port.straps.1, w.port.straps.2.1, w.port.straps.2.2.1, 2, 1) (le 4 7)] ∧
     (after (.collectiveData 2 1 3 0x1234 [1]) (upStream 0 rc me)).link.inbox.length = 1 ∧
     (after (.collectiveData 2 1 0x020000 0x1234 [1]) (mine launch0)).link.inbox.length = 1 ∧
     (after (.collectiveData 2 1 0x020000 0x1234 [1]) (mine { launch0 with step := 6 })).link.discarded = 1 ∧
     (i (le 4 9)).link.inbox = [(2, 1, 3, 0x1234, le 4 9)] ∧
     readN (after (.recv 2 1) (i (le 4 9))).mem.scratch (scratchAddr 8 0 0) 4 = le 4 9 ∧
     (streamAt 2 1 (after (.recv 2 1) (i [1]))).fault = some ⟨.engineFault, 8, 7, 0x40, 0, 0, 0⟩ ∧
     (engineAt (streamAt 2 1 (after (.recv 2 1) (upStream 0 rc (run0 3)))) 3).waiting = true ∧
     (after (.collectiveData 2 3 3 0x1234 [1]) s).link.discarded = 1 ∧
     (streamAt 2 1 (after (.send 2 1) (upStream 0 (sideB 5 1 1 4 0 0 0 0) (run0 3)))).state = .halted) := by decide +kernel

/-- A page, an argument and a hot copy whose channels partition 2's reset holds; an argument in the host memory of a function whose
accesses have stopped. -/
theorem test_held_accesses :
    (let held (s : State) : State := { s with
       port := { s.port with prtRst := [2] },
       wrd := { s.wrd with chmap := [{ first := 16, count := 8, tier := .fast, granule := 2 ^ 18, base := 0, size := 2 ^ 30 }] } }
     let arg (sp : Space) (a : Nat) : Launch := { launch0 with args := [some ⟨objKey 3 1, { mem1 with space := sp, addr := a }, 0x100⟩] }
     let obj (sp : Space) (a : Nat) (s : State) := s.modStream 2 1 (fun x => { x with launch := some (arg sp a) })
     let waits (c : Instr) (e : Nat) (s : State) := (engineAt (streamAt 2 1 (after c s)) e).waiting
     let ld := sideB 1 1 0 4 16 0x00100040 0 0
     let st := sideB 3 1 0 4 32 0x00100040 0 0
     waits (.gather 2 1) 1 (held (paged (sideB 2 1 0 1 2 0 0 (2 ^ 32)) 1 false)) = true ∧
     waits (.scatter 2 1) 2 (held (paged (sideB 4 1 0 1 2 0 0 (2 ^ 32)) 2 false)) = true ∧
     waits (.load 2 1) 1 (held (obj .fast 0x100000 (upStream 0 ld (run0 1)))) = true ∧
     waits (.store 2 1) 2 (held (obj .fast 0x100000 (upStream 0 st (run0 2)))) = true ∧
     (let h := obj .host (hostLoc 0 0 0x1000).addr (upStream 0 ld (run0 1))
      let d : State := { h with port := { h.port with dropHost := [0] } }
      after (.load 2 1) d = d ∧ (engineAt (streamAt 2 1 (after (.load 2 1) h)) 1).busy = true)) := by decide +kernel

/-- Residency 0 of loop 0 on benches 8 and 9 in a state, with save frames 5 on. -/
def benched (st : BenchState) (saved : Bool) (fr : List Nat) : State :=
  let s := launchable (loop0 .idle)
  { s with sched := { s.sched with
      residencies := [(0, { ctx := 3, owner := .loop 0, count := 2, benches := [8, 9], running := false, cmd := none, blockedAt := none,
                            placedAt := 0, saveFrames := fr, saved := saved, moving := true, streams := [], regs := [] })],
      benches := [(8, { state := st, res := some 0, claim := none }), (9, { state := st, res := some 0, claim := none })] } }

/-- The only stream that runs, one of context 3 with benches 8 and 9: 16 cores and 60 cycles since the last charge. -/
theorem test_chargeTick :
    (let s := { upStream 0 [] { run0 0 with ran := 100, charged := 40 } with sched := (launchable (loop0 .running)).sched }
     let t := after (.chargeTick ()) s
     tabWf s.slices = true ∧ s.sched.jobs = [] ∧ (streamAt 2 1 s).active = true ∧ (streamAt 2 1 t).charged = 100 ∧
     (tgetD t.hub.uses 3 Use.zero).core = 960 ∧ t.hub.burFifo = [(0, .eng 2 960)] ∧ stride s 3 = 2 ^ 32 / 7 ∧ passOf t 3 = 138 ∧
     (s.slices.map (fun e => (e.1, e.2.streams.map Stream.active))) = [(2, [false, true, false, false])]) := by decide +kernel

/-- An idle graph residency of an RT context, blocked. -/
theorem test_evict :
    (let s0 := launchable (loop0 .idle)
     let c : Context := { Context.fresh { ctxRcd with cls := .rt } ctxBytes with state := .active }
     let s : State := { s0 with
       time := 10000, contexts := [(3, c)],
       sched := { s0.sched with residencies := tmapv s0.sched.residencies (fun _ x => { x with owner := .graph, blockedAt := some 5 }) } }
     let t := after (.evictAfterExpiry 0) s
     s.sched.jobs = [] ∧ (tget s.sched.residencies 0).map (fun x => rtExpired x s) = some true ∧ t.sched.residencies = [] ∧
     (benchAt 8 t).state = .clearing ∧ t.sched.vacates = 1 ∧
     after (.evictAfterExpiry 0) { s with contexts := (upC .active).contexts, time := 4000 } =
       { s with contexts := (upC .active).contexts, time := 4000 }) := by decide +kernel

/-- The hypotheses of a save and a restore with the frames that two benches take at 64 KiB a page. -/
theorem test_save_restore_hyps :
    (let fr := (List.range 224).map (· + 5)
     let s := benched .saving false fr
     s.wrd.mapout = none ∧ s.wrd.mapoutWait = [] ∧ s.sched.jobs = [] ∧ (tget s.sched.residencies 0).map (fun x => saveHeld x s) = some false ∧
     saveCount 2 s = 224 ∧ fr.length = 224 ∧ fr.Nodup ∧ s.wrd.pageLog2 = 16 ∧ s.mem.wf = true ∧ savePieces [8, 9] = 896) := by
  decide +kernel

/-- A save that lands, a restore that lands, a clear that is done: of one nonzero byte of bench 9. -/
theorem test_save_restore_clear :
    (let fr := (List.range 224).map (· + 5)
     let byte := scratchAddr 9 7 0x12345
     let s := scratchWrite byte [0x5A] (benched .saving false fr)
     let t := after (.saveLanded 0) s
     let u := after (.restoreLanded 0) { benched .restoring true fr with mem := { t.mem with scratch := [] } }
     let v := after (.clearDone 9) { s with sched := (benched .clearing false fr).sched }
     (benchAt 8 t).state = .clearing ∧ (tget t.sched.residencies 0).map (·.saved) = some true ∧ t.mem.fast.length = 1 ∧
     (benchAt 9 u).state = .held ∧ cellGet u.mem.scratch byte = 0x5A ∧ v.mem.scratch = [] ∧ (benchAt 9 v).state = .free) := by
  decide +kernel

/-- A job of mover 0 for no tenant: bytes in all, bytes done, background, told to stop. -/
def job (id : Nat) (kind : MoveKind) (total done : Nat) (background stopped : Bool) : MoveJob :=
  { id := id, mover := 0, kind := kind, total := total, done := done, background := background, stopped := stopped, ctx := none,
    tenant := none, key := none, work := none }

/-- OP_COPY and OP_FILL given to the mover with the least to do, and their pieces. -/
theorem test_copy_fill :
    (let busy : Mover := { Mover.reset with
       jobs := [job 0 (.zero 9) 65536 0 false false] }
     let cp := entryP 3 (le 4 1 ++ le 4 1 ++ le 8 0 ++ le 8 0x8000 ++ le 8 0x1800)
     let fi := entryP 4 (le 4 1 ++ le 1 2 ++ zeros 3 ++ le 8 0x9000 ++ le 8 6 ++ le 8 0xBBAA)
     let idle (e : List Byte) := let s := upRunAt e 0xFFF (le 2 0xCDEF); { s with wrd := { s.wrd with movers := [busy, Mover.reset, Mover.reset] } }
     let t := after (.opCopy 3 1 0xFFFFFFFE) (idle cp)
     let u := after (.moverPieceLanded 1 none) t
     let v := after (.moverPieceLanded 1 none) u
     let w := after (.moverPieceLanded 1 none) (after (.opFill 3 1 0xFFFFFFFE) (idle fi))
     (starting (qkey 3 1) 0xFFFFFFFE 3 (idle cp)).isSome = true ∧ (idle cp).mem.wf = true ∧
     t.wrd.movers.map (fun m => m.jobs.length) = [1, 1, 0] ∧ (at0 t).map (fun m => (m.started, m.latch)) = some (true, none) ∧
     memRead ⟨.slow, 0x108FFF⟩ 2 u = [0xEF, 0] ∧ (at0 u).map (·.latch) = some none ∧
     memRead ⟨.slow, 0x108FFF⟩ 2 v = [0xEF, 0xCD] ∧ (at0 v).map (fun m => (m.latch, m.running)) = some (some ⟨.ok, 0⟩, false) ∧
     memRead ⟨.slow, 0x109000⟩ 8 w = [0xAA, 0xBB, 0xAA, 0xBB, 0xAA, 0xBB, 0, 0] ∧ (at0 w).map (·.latch) = some (some ⟨.ok, 0⟩) ∧
     (at0 (after (.opCopy 3 1 0xFFFFFFFE) { idle cp with objects := [] })).map (·.latch) = some (some ⟨.stale, 16⟩) ∧
     (at0 (after (.opFill 3 1 0xFFFFFFFE) { idle fi with objects := [] })).map (·.latch) = some (some ⟨.stale, 16⟩)) := by
  decide +kernel

/-- Zeroing that lands, a job told to stop, a mover with nothing to do, and a job that waits for one before it. -/
theorem test_mover_pieces :
    (let s (j : List MoveJob) := let s := memWrite ⟨.fast, 0x50001⟩ [7] (upC .active)
       { s with wrd := { s.wrd with
           movers := [{ Mover.reset with jobs := j }] } }
     let t := after (.moverPieceLanded 0 none) (s [job 0 (.zero 5) 65536 61440 true false])
     frameAt 5 (s []) = Frame.of .free true ∧ frameAt 5 t = Frame.of .free false ∧ t.mem.fast = [] ∧
     (after (.moverPieceLanded 0 none) (s [job 0 (.zero 5) 65536 0 true true])).wrd.movers =
       [{ Mover.reset with progress := 1 }] ∧
     (let z := job 0 (.zero 5) 65536 0 true false
      let w := job 1 (.zero 6) 65536 0 false false
      let run (g : Bool) (a : Nat) := (after (.moverPieceLanded 0 none) (let u := s [z, w]; { u with wrd := { u.wrd with
        movers := u.wrd.movers.map (fun m => { m with foreground := g, aheadMs := 0, ahead := a }) } })).wrd.movers.map
          (fun m => (m.jobs.map (·.done), m.foreground, m.ahead))
      run false 0 = [([0, 4096], true, 0)] ∧ run true 7 = [([4096, 0], false, 8)] ∧ run true 1250 = [([0, 4096], true, 1250)]) ∧
     (let h := s [job 0 (.zero 5) 65536 0 true false]
      let p : State := { h with port := { h.port with prtRst := [2] }, wrd := { h.wrd with
        chmap := [{ first := 16, count := 8, tier := .fast, granule := 2 ^ 18, base := 0, size := 2 ^ 30 }] } }
      after (.moverPieceLanded 0 none) p = p) ∧
     after (.moverPieceLanded 0 none) (s []) = s [] ∧ after (.moverPieceLanded 0 (some 2)) (s [job 0 (.zero 5) 65536 0 true false]) =
       s [job 0 (.zero 5) 65536 0 true false] ∧
     (let w := { s [] with wrd := { (s []).wrd with movers := [{ Mover.reset with jobs := [job 0 (.zero 5) 65536 0 true false] },
                                                              { Mover.reset with jobs := [job 1 (.page 6 5 0 none false false 1) 65536 0 false false] }] } }
      after (.moverPieceLanded 1 none) w = w)) := by decide +kernel

/-- A page of two bytes lands in frame 9 from frame 5, which is freed. -/
theorem test_page_landed :
    (let mv : MoveJob := job 0 (.page 5 9 0 none false false 6) 65536 65000 false false
     let s0 : State := { upC .active with wrd := { up.wrd with pageLog2 := 14, frames := [(5, Frame.kv), (9, Frame.kv)] } }
     let s : State := memWrite ⟨.fast, 5 * 16384⟩ [0x80, 0x3F] s0
     let u : State := { s with wrd := { s.wrd with movers := [{ Mover.reset with jobs := [mv] }] } }
     let t := after (.moverPieceLanded 0 none) u
     let first : State := { s with wrd := { s.wrd with movers := [{ Mover.reset with jobs := [{ mv with done := 0 }] }] } }
     let v := after (.moverPieceLanded 0 none) (memWrite ⟨.fast, 9 * 16384 + 16383⟩ [1] first)
     v.mem.fast.length = 4 ∧ memRead ⟨.fast, 9 * 16384⟩ 3 v = [0x80, 0x3F, 0] ∧ v.wrd.frames = u.wrd.frames ∧
     passedOn mv 9 u = false ∧ inSlot none mv u = true ∧
     tget t.wrd.frames 5 = none ∧ frameAt 9 t = Frame.kv) := by decide +kernel

/-- A demotion that converts to INT4 passes its gate (with pages of 64 bytes, to keep the conversion small). -/
theorem test_page_converted :
    (let mv : MoveJob := job 0 (.page 5 67108864 4 (some 0) true false 6) 64 0 false false
     let s0 : State := { upC .active with wrd := { up.wrd with pageLog2 := 6, frames := [(5, Frame.kv), (67108864, Frame.kv)] } }
     let s := withLoop (loop0 .idle) [] (memWrite ⟨.fast, 5 * 64⟩ [0x80, 0x3F] s0)
     let u := after (.moverPieceLanded 0 none) { s with wrd := { s.wrd with movers := [{ Mover.reset with jobs := [mv] }] } }
     fFast s0 = 67108864 ∧ (frameAt 67108864 u).format = 4 ∧ (tget u.trestle.loops 0).map (fun l => l.stats.gated) = some 0 ∧
     tget u.wrd.frames 5 = none ∧ mv.converts { s with wrd := { s.wrd with movers := [{ Mover.reset with jobs := [mv] }] } } = true) := by
  decide +kernel

/-- A directory with one model of tenant 2. -/
def model0 (st : ModelState) (pins : Nat) (fr : List Nat) : Model :=
  { tenant := 2, key := 77, state := st, frames := fr, count := 1, pins := pins, srcKey := objKey 3 1, src := ⟨.slow, 0x100000⟩,
    srcOffset := 0, length := 0x1000, ctx := 3, lastUse := 0, waiters := [], orphan := false }

/-- A command of an entry runs; the hot set may hold 8 frames; frames 5 and 6 need no zeroing; the models listed. -/
def upModels (e : List Byte) (ms : List Model) : State :=
  let s := upRunAt e 0 [1, 2, 3]
  { s with
    mgmt := { s.mgmt with
      cores := List.replicate 4 { Core.reset with state := .running, inService := [.modelLoad 0] } },
    wrd := { s.wrd with
      maxFrames := 8, frames := [(5, Frame.of .free false), (6, Frame.of .free false)], nextModel := 4,
      models := ms.zipIdx.map (fun e => (e.2, e.1)) } }

theorem test_modelLoad :
    (let e (n : Nat) := entryP 0x0C (le 8 77 ++ le 4 1 ++ le 4 0 ++ le 8 0 ++ le 8 n)
     let go (n : Nat) (ms : List Model) := after (.opModelLoad 3 1 0xFFFFFFFE [6]) (upModels (e n) ms)
     let lat (s : State) := (at0 s).map (·.latch)
     let t := go 0x1000 []
     GoodFrames 1 [6] (upModels (e 0x1000) []) ∧ hotFrames (upModels (e 0x1000) []) + 1 ≤ 8 ∧ 1 ≤ fastFreeFrames (upModels (e 0x1000) []) ∧
     (operandLoc (qkey 3 1) { cmd0 0 .dispatched with entry := e 0x1000 } 24 32 (upModels (e 0x1000) [])).isSome = true ∧
     (tget t.wrd.models 4).map (fun m => (m.state, m.frames, m.length)) = some (.loading, [6], 0x1000) ∧ lat t = some none ∧
     (frameAt 6 t).state = .model ∧ (frameAt 5 t).state = .free ∧ (coreAt 1 t).mailbox = [.modelLoad 4] ∧
     lat (go 0x1000 [model0 .resident 0 []]) = some (some ⟨.malformed, 16⟩) ∧
     lat (go 0x90000 []) = some (some ⟨.noMemory, 6⟩) ∧
     lat (go 0x1000 [{ model0 .loading 0 (List.range 8) with key := 1 }]) = some (some ⟨.noMemory, 6⟩) ∧
     (let s := upModels (e 0x1000) []
      let t := after (.opModelLoad 3 1 0xFFFFFFFE []) { s with contexts := [(3, { Context.fresh { ctxRcd with swap := true } ctxBytes with state := .active })] }
      (tget t.wrd.models 4).map (·.state) = some .inPlace ∧ lat t = some (some ⟨.ok, 0⟩))) := by
  decide +kernel

/-- A full directory. -/
theorem test_modelLoad_full :
    (let e := entryP 0x0C (le 8 77 ++ le 4 1 ++ le 4 0 ++ le 8 0 ++ le 8 0x1000)
     let s := upModels e (List.replicate 4096 { model0 .evicted 0 [] with key := 1 })
     (at0 (after (.opModelLoad 3 1 0xFFFFFFFE []) s)).map (·.latch) = some (some ⟨.noMemory, 1⟩)) := by decide +kernel

theorem test_modelPin :
    (let e (op : Nat) := entryP op (le 8 77)
     let pin (ms : List Model) := after (.opModelPin 3 1 0xFFFFFFFE) (upModels (e 13) ms)
     let lat (s : State) := (at0 s).map (·.latch)
     let m0 (s : State) := (tget s.wrd.models 0).map (fun m => (m.state, m.pins, m.waiters.length))
     lat (pin []) = some (some ⟨.stale, 16⟩) ∧
     (lat (pin [model0 .resident 2 [5]]), m0 (pin [model0 .resident 2 [5]])) = (some (some ⟨.ok, 0⟩), some (.resident, 3, 0)) ∧
     (lat (pin [model0 .evicted 0 []]), m0 (pin [model0 .evicted 0 []])) = (some none, some (.miss, 1, 1)) ∧
     (coreAt 1 (pin [model0 .evicted 0 []])).mailbox = [.modelLoad 0] ∧
     (lat (pin [model0 .loading 0 [5]]), m0 (pin [model0 .loading 0 [5]])) = (some none, some (.loading, 1, 1)) ∧
     lat (pin [{ model0 .resident 0 [] with count := 5 }]) = some (some ⟨.noMemory, 7⟩)) := by decide +kernel

theorem test_modelUnpin :
    (let e (op : Nat) := entryP op (le 8 77)
     let unpin (ms : List Model) := after (.opModelUnpin 3 1 0xFFFFFFFE) (upModels (e 14) ms)
     let lat (s : State) := (at0 s).map (·.latch)
     let m0 (s : State) := (tget s.wrd.models 0).map (fun m => (m.state, m.pins, m.waiters.length))
     lat (unpin []) = some (some ⟨.stale, 16⟩) ∧
     (lat (unpin [model0 .resident 0 [5]]), m0 (unpin [model0 .resident 0 [5]])) = (some (some ⟨.ok, 0⟩), some (.resident, 0, 0))) := by decide +kernel

theorem test_modelUnpin_removed :
     (let s := upModels (entryP 14 (le 8 77)) [model0 .resident 1 [5]]
      let t := after (.opModelUnpin 3 1 0xFFFFFFFE) { s with objects := tmapv s.objects (fun _ o => { o with freePending := true, refs := 1 }) }
      (at0 t).map (·.latch) = some (some ⟨.ok, 0⟩) ∧ t.wrd.models = [] ∧ tget t.wrd.frames 5 = none ∧ t.objects = []) := by decide +kernel

theorem test_modelMiss :
    (let s (ms : List Model) := upModels [] ms
     let go (ms : List Model) := after (.modelMissService 0 [5]) (s ms)
     let t := go [model0 .miss 1 []]
     GoodFrames 1 [5] (s [model0 .miss 1 []]) ∧ hasService 1 (.modelLoad 0) (s []) = true ∧
     (tget t.wrd.models 0).map (·.frames) = some [5] ∧ (frameAt 5 t).state = .model ∧
     t.allJobs.map (fun j => (j.kind, j.total)) = [(.model 0 ⟨.slow, 0x100000⟩ [5], 0x1000)] ∧
     after (.modelMissRetry 0 [5]) (s [model0 .miss 1 []]) = t ∧
     go [model0 .resident 0 []] = s [model0 .resident 0 []] ∧ (coreAt 1 (go [])).inService = [] ∧
     after (.modelMissService 1 []) (s []) = s [] ∧
     go [{ model0 .miss 1 [] with count := 9 }] = s [{ model0 .miss 1 [] with count := 9 }] ∧
     (let u := after (.moverPieceLanded 0 none) (t.modModel 0 (fun m => { m with waiters := [(3, 1, 0xFFFFFFFE)] }))
      (tget u.wrd.models 0).map (·.state) = some .resident ∧ (at0 u).map (·.latch) = some (some ⟨.ok, 0⟩) ∧
      memRead ⟨.fast, 0x50000⟩ 4 u = [1, 2, 3, 0])) := by decide +kernel

theorem test_wrdCfg :
    (let s0 : State := { up with wrd := { up.wrd with enable := false, built := false, frames := [(1, Frame.kv)] } }
     let s : State := { s0 with mgmt := { s0.mgmt with fwReady := true } }
     let t (v : W64) (s : State) := after (.wrdCfgWrite v) s
     (t 0x40000112 s).wrd.enable = true ∧ (t 0x40000112 s).wrd.pageLog2 = 18 ∧ (t 0x40000112 s).wrd.hkBase = 0x40000000 ∧
     (t 0x40000112 s).wrd.frames = [] ∧ (t 0xC0000110 s).wrd.enable = true ∧ (t 0x100000110 s).wrd.enable = false ∧
     (t 0x100000110 s).hub.bar0Cause = 3 ∧ (t 0x100000110 s).wrd.hkBase = 0x100000000 ∧
     (t 0x13 s).wrd.pageLog2 = 16 ∧ (t 0x13 s).hub.bar0Count = 1 ∧ (t 0xE s).wrd.pageLog2 = 14 ∧ (t 0xE s).hub.bar0Count = 0 ∧
     t 0x110 s0 = bar0Err 4 0x40100 s0 ∧ t 0x10 up = bar0Err 3 0x40100 up ∧
     (after .frameTableBuilt { up with wrd := { up.wrd with built := false, hand := 9 } }).wrd = up.wrd ∧
     after .frameTableBuilt s0 = s0) := by decide +kernel

/-- The sweep, background demotion of a cold page of frame 5, promotion of the same page from a slow frame, zeroing. -/
theorem test_wardrobe_tends :
    (let s0 := upStream 0 [] Stream.reset
     let st (f fmt : Nat) (lo hi : Nat) : State := memWrite (frameLoc f s0) [1, 2] { s0 with
       trestle := { s0.trestle with
         loops := [(0, loop0 .idle)],
         seqs := [(2, { seq0 .decode with seqId := 2, root := some 0, rootCount := 2, rootOwn := true })] },
       wrd := { s0.wrd with
         leaves := [(0, { pred := none, predValid := 0, used := 2, chains := 1, entries := [⟨true, false, f⟩, ⟨true, false, 8⟩] })],
         frames := [(4, Frame.of .free false), (5, { Frame.kv with format := fmt }), (8, { Frame.kv with accessed := true }),
                    (70000, { Frame.kv with format := fmt }), (70001, Frame.of .free false)],
         demoteBelow := lo, promoteAbove := hi } }
     let t := after (.backgroundDemote 5 70001) (st 5 2 60000 60001)
     let u := after (.backgroundPromote 70000 4) (st 70000 2 0 9)
     let z := after (.backgroundZero 20) (st 5 0 0 0)
     (tget (after (.wardrobeSweep 9) (st 5 0 0 0)).wrd.frames 8).map (·.accessed) = some false ∧
     (tget (after (.wardrobeSweep 8) (st 5 0 0 0)).wrd.frames 8).map (·.accessed) = some true ∧
     (coldOthers none (st 5 2 60000 60001)).head? = some 5 ∧ (cleanFrames .slow (st 5 2 60000 60001)).contains 70001 = true ∧
     (tget t.wrd.frames 70001).map (fun x => (x.state, x.format, x.holders)) = some (.kv, 2, 1) ∧ (tget t.wrd.frames 5).map (·.state) = some .kv ∧
     (tget t.wrd.leaves 0).map (fun l => l.entries.map (·.frame)) = some [70001, 8] ∧
     t.allJobs.map (·.kind) = [.page 5 70001 2 (some 0) true false 6] ∧
     after (.backgroundDemote 5 70001) (st 5 2 0 0) = st 5 2 0 0 ∧
     (promoteOrder (st 70000 2 0 9)).head? = some 70000 ∧ (cleanFrames .fast (st 70000 2 0 9)).contains 4 = true ∧
     (tget u.wrd.frames 4).map (fun x => (x.state, x.format, x.holders)) = some (.kv, 2, 1) ∧
     after (.backgroundPromote 70000 4) (st 70000 2 0 70000) = st 70000 2 0 70000 ∧
     z.allJobs.map (fun j => (j.kind, j.background)) = [(.zero 20, true)] ∧
     after (.backgroundZero 5) (st 5 0 0 0) = st 5 0 0 0) := by decide +kernel

theorem test_mapout :
    (let m : Mapout := { tier := .slow, channel := 3, lost := true, units := [2], source := 1, removed := 0, invalidated := 0, outcome := 0, tenant := 0xFFFF }
     let s : State := { upC .active with mgmt := { up.mgmt with cores := List.replicate 4 { Core.reset with state := .running, inService := [.mapout m] } },
                                         wrd := { up.wrd with frames := [(65536 + 9, Frame.of .free false)] },
                                         jnl := { up.jnl with evtBase := 0x1000, evtLog2 := 6 } }
     let go (s : State) := after (.mapoutRequest .slow 3 true [2] 1) s
     let t := go s
     arenaHit m s = none ∧ framesOfUnits .slow [2] s = [65544, 65545, 65546, 65547] ∧ tabWf s.wrd.frames = true ∧ evtRoom s = true ∧
     t.wrd.mapout = none ∧ t.wrd.outChannels = [(.slow, 3)] ∧ t.wrd.removedTotal = 4 ∧ (frameAt 65545 t).state = .reserved ∧
     (frameAt 65543 t).state = .free ∧ t.jnl.events.length = 2 ∧ t.hutch.log.length = 1 ∧ go up = up ∧
     (let b : State := { s with wrd := { s.wrd with mapout := some { m with channel := 1 }, frames := [(7, Frame.of .leaving false)] } }
      (go b).wrd.mapoutWait = [m] ∧ (coreAt 1 (go b)).inService = [])) := by decide +kernel

/-- A fast channel that holds nothing in use. -/
theorem test_mapout_fast :
    (let m : Mapout := { tier := .fast, channel := 19, lost := false, units := [2], source := 1, removed := 0, invalidated := 0, outcome := 0, tenant := 0xFFFF }
     let s : State := { upC .active with mgmt := { up.mgmt with cores := List.replicate 4 { Core.reset with state := .running, inService := [.mapout m] } } }
     let t := after (.mapoutRequest .fast 19 false [2] 1) s
     unitsHit m .fast s.wrd.hkBase Config.gib = false ∧ arenaHit m s = none ∧ t.wrd.mapout = none ∧ t.wrd.outChannels = [(.fast, 19)] ∧
     t.wrd.removedTotal = 4 ∧ (frameAt 8 t).state = .reserved ∧ (sliceAt 2 t).fastChannels = 7 ∧ t.jnl.events.length = 2) := by
  decide +kernel

theorem test_mapoutMoveRetry :
    (let m : Mapout := { tier := .fast, channel := 3, lost := false, units := [1], source := 1, removed := 0, invalidated := 0, outcome := 0, tenant := 0xFFFF }
     let s0 : State := { upC .active with wrd := { up.wrd with
       mapout := some m, outUnits := [(.fast, 1)],
       leaves := [(0, { pred := none, predValid := 0, used := 1, chains := 1, entries := [⟨true, false, 5⟩] })],
       frames := [(5, { Frame.kv with state := .leaving }), (9, Frame.of .free false)] } }
     let s := memWrite ((frameLoc 5 s0).plus 65000) [1, 2] s0
     let t := after (.mapoutMoveRetry 5 9) s
     (frameAt 5 s).state = .leaving ∧ (frameAt 5 s).was = .kv ∧ isFree 9 s = true ∧ (cleanFrames .fast s).contains 9 = true ∧
     (tget t.wrd.frames 5).map (·.state) = some .leaving ∧ (tget t.wrd.frames 9) = some Frame.kv ∧
     (tget t.wrd.leaves 0).map (fun l => l.entries.map (·.frame)) = some [9] ∧
     (let u := after (.moverPieceLanded 0 none) { t with wrd := { t.wrd with movers := t.wrd.movers.map (fun x => { x with jobs := x.jobs.map (fun j => { j with done := 65000 }) }) } }
      (frameAt 5 u).state = .reserved ∧ u.wrd.mapout = none ∧ memRead ((frameLoc 9 t).plus 65000) 2 u = [1, 2])) := by decide +kernel

/-- Packets of n cells from index i on, of a tenant. -/
def cellsAt (i n : Nat) (t : Option Nat) : List Cell :=
  (List.range n).map (fun j => { index := i + j, data := List.replicate 8 0, complete := true, first := j == 0, last := j + 1 == n,
                                 tenant := t, poison := false, item := some (i + j), taken := false })

/-- The event queue of Chest with a packet of one cell, one of two, one of one; read pointer rd. -/
def upCells (cls queue rd : Nat) (t m : Option Nat) (s : State) : State :=
  { s with chest := { s.chest with
      queues := [(cellKey cls queue, { cells := cellsAt 100 1 t ++ cellsAt 200 2 t ++ cellsAt 5000 1 t, rd := rd, mark := m })],
      classes := s.chest.classes.modify cls (fun x => { x with used := 4 }) } }

/-- An event and the event ring on. -/
def ev0 (s : State) : State :=
  { s with jnl := { s.jnl with evtBase := 0x1000, evtLog2 := 6, events := [{ mkEvent s 1 0 0 0 0 0 [] with id := 200 }] } }

/-- A packet of two cells granted; a request that waits, and one of a class whose requests wait. -/
theorem test_cellAllocate :
    (let s := upC .active
     let full (s : State) : State := { s with chest := { s.chest with classes := s.chest.classes.map (fun x => { x with quota := 0, used := 43690 }) } }
     let t := after (.cellAllocate 0 7 none [9, 8]) s
     let u := after (.cellAllocate 4 7 none [9]) (full s)
     let r : CellReq := { cls := 4, queue := 7, tenant := none, choice := [9], item := none, data := none, source := none }
     s.chest.classes.length = 6 ∧ packetCells [9, 8] s = [9, 8] ∧
      (cellQueue 0 7 t).cells.map (fun c => (c.index, c.first, c.last, c.complete)) = [(9, true, false, false), (8, false, true, false)] ∧
      (classAt 0 t).used = 2 ∧ t.chest.hfpPause = false ∧ u.chest.waiting = [r] ∧
      (after (.cellAllocate 4 7 none [9]) { s with chest := { s.chest with waiting := [r] } }).chest.waiting = [r, r]) := by decide +kernel

theorem test_cellAllocate_pauses :
    (let s := upC .active
     let near : State := { s with chest := { s.chest with classes := s.chest.classes.modify 1 (fun x => { x with quota := 300000, used := 196607 }) } }
     let t := after (.cellAllocate 1 7 none [0]) near
     t.chest.hfpPause = true ∧ t.chest.mfpPause = false ∧ (classAt 1 t).congested = true) := by decide +kernel

theorem test_cellRead :
    (let s := ev0 (upCells 4 0 1 none none (upC .active))
     let go (f : List EccFinding) := after (.cellRead 4 0 f) s
     let idx (t : State) := (cellQueue 4 0 t).cells.map (fun c => (c.index, c.poison))
     (cellQueue 4 0 (go [])).rd = 2 ∧ (cellQueue 4 0 (go [.corrected 3])).rd = 2 ∧ (go [.corrected 3]).chest.bankCount = [(0, 1)] ∧
     (go [.corrected 3]).jnl.events.map (·.words) = [[], [0, 200, 3, 1]] ∧
     (after (.cellRead 4 0 [.corrected 3]) (go [.corrected 3])).jnl.events.length = 2 ∧
     idx (go [.badData 2]) = [(100, false), (5000, false)] ∧ (classAt 4 (go [.badData 2])).used = 2 ∧ (go [.badData 2]).chest.retired = [200] ∧
     (go [.badData 2]).jnl.evtLost = 1 ∧ (go [.badData 2]).jnl.events = [] ∧ OnePacket (cellsAt 200 2 none) ∧
     idx (go [.badMeta]) = [(100, false), (201, true), (5000, true)] ∧ (go [.badMeta]).chest.walk = true ∧ (go [.badMeta]).jnl.events = []) := by
  decide +kernel

/-- A tag that is not the queue's; the walk; a packet that is not complete; the cut of the class at one cell. -/
theorem test_cellRead_waits :
    (let s := ev0 (upCells 4 0 1 none none (upC .active))
     let idx (t : State) := (cellQueue 4 0 t).cells.map (fun c => (c.index, c.poison))
     let part : State := { s with chest := { s.chest with queues := tmapv s.chest.queues (fun _ q => { q with cells := q.cells.map (fun c => { c with complete := c.index != 201 }) }) } }
     idx (after (.cellRead 4 0 []) (ev0 (upCells 4 0 1 (some 2) none (upC .active)))) = [(100, false), (201, true), (5000, true)] ∧
     idx (after (.chestWalkDone none) (after (.cellRead 4 0 [.badMeta]) s)) = [(100, false)] ∧
     (cellQueue 4 0 part).cells.length = 4 ∧
     (let at1 (cut : Nat) := after (.cellRead 4 0 []) { part with chest := { part.chest with classes := part.chest.classes.map (fun x => { x with cut := cut }) } }
      (cellQueue 4 0 (at1 1)).rd = 2 ∧ (cellQueue 4 0 (at1 2)).rd = 1)) := by decide +kernel

/-- What the consumers of classes 0, 1 and 3 suffer, and an engine. -/
theorem test_cellRead_consumers :
    (let k := qkey 3 1
     let carry (i : Nat) (s : State) : State := { s with chest := { s.chest with queues := tmapv s.chest.queues (fun _ q => { q with cells := q.cells.map (fun c => { c with item := some i }) }) } }
     let f : Fetched := { pos := 0xFFFFFFFF, entry := entry 0, latch := none, ring := true }
     let t0 := after (.cellRead 0 k [.badData 0]) (carry 0xFFFFFFFF (upCells 0 k 1 (some 2) none (upQ { q3 (cmd0 0 .dispatched) with fetched := [f], f := 0x100000000 })))
     let t1 := after (.cellRead 1 k [.badData 0]) (carry 0xFFFFFFFE (upCells 1 k 1 (some 2) none (upQ (q3 (cmd0 0 .intake)))))
     let te := after (.cellRead 1 (2 ^ 23 + 1) [.badData 0]) (carry (k * 2 ^ 64 + 0xFFFFFFFE) (upCells 1 (2 ^ 23 + 1) 1 (some 2) none (upQ (q3 (cmd0 0 .dispatched)))))
     let r : Retired := { pos := 0xFFFFFFFE, opcode := 0, tag := 1, unread := false, status := .ok, aux := 0, time := 0, lost := false }
     let t3 := after (.cellRead 3 k [.badData 0]) (carry 0xFFFFFFFE (upCells 3 k 1 (some 2) none (upQ { q0 with unwritten := [r, { r with pos := 9 }] })))
     (tget t0.front.queues k).map (fun q => (q.f, q.fetched)) = some (0xFFFFFFFF, []) ∧ t0.chest.retired = [200] ∧
     (at0 t1).map (·.latch) = some (some ⟨.memUncorrectable, 1⟩) ∧ (tget t1.contexts 3).map (·.state) = some (.teardown true) ∧
     (at0 te).map (·.latch) = some (some ⟨.memUncorrectable, 1⟩) ∧
     (tget t3.front.queues k).map (fun q => q.unwritten.map (·.lost)) = some [true, false]) := by decide +kernel

theorem test_cellMark :
    (let s := upCells 4 0 2 none none (upC .active)
     let m := after (.cellMark 4 0) s
     let b := upCells 4 0 2 none (some 1) (upC .active)
     let t := after (.cellRelease 4 0 2) b
     (cellQueue 4 0 m).mark = some 2 ∧ (cellQueue 4 0 (after (.cellRewind 4 0) b)).rd = 1 ∧
     (cellQueue 4 0 (after (.cellRewind 4 0) b)).mark = some 1 ∧ (after (.cellRewind 4 0) s).watch.lastMc = 2 ∧
     (after (.cellRelease 4 0 3) s).watch.lastMc = 2 ∧ (cellQueue 4 0 t).cells.map (·.index) = [201, 5000] ∧
     (cellQueue 4 0 t).rd = 0 ∧ (cellQueue 4 0 t).mark = none ∧ (classAt 4 t).used = 2 ∧
     (cellQueue 4 0 (after (.cellRelease 4 0 1) b)).mark = some 0 ∧
     (after (.chestWalkDone (some 5)) { s with chest := { s.chest with walk := true } }).watch.lastMc = 4 ∧
     after (.chestWalkDone none) s = s) := by decide +kernel

theorem test_peakRead :
    (let s := upCells 4 0 2 none none (upC .active)
     let s : State := { s with chest := { s.chest with peak := 9, mfpPause := true, retired := [1] } }
     let t := after (.peakRead none) s
     let u := after (.peakRead (some 4)) { s with chest := { s.chest with classes := s.chest.classes.map (fun x => { x with peak := 7, congested := true }) } }
     t.port.readData = 0x4000000900000005 ∧ t.chest.peak = 5 ∧ u.port.readData = 0x8000000700000004 ∧ (classAt 4 u).peak = 4 ∧
     after (.peakRead none) { s with port := { s.port with hfpReady := false } } = { s with port := { s.port with hfpReady := false } }) := by
  decide +kernel

/-- Every cell of Chest's queues carries an item. -/
def carry (i : Nat) (s : State) : State :=
  { s with chest := { s.chest with queues := tmapv s.chest.queues (fun _ q => { q with cells := q.cells.map (fun c => { c with item := some i }) }) } }

/-- Lost metadata in the queue of a submission queue's completions. -/
theorem test_cellRead_meta :
    (let k := qkey 3 1
     let r : Retired := { pos := 0xFFFFFFFE, opcode := 0, tag := 1, unread := false, status := .ok, aux := 0, time := 0, lost := false }
     let t := after (.cellRead 3 k [.badMeta]) (carry 0xFFFFFFFE (upCells 3 k 1 (some 2) none (upQ { q0 with unwritten := [r, { r with pos := 9 }] })))
     (tget t.front.queues k).map (fun q => q.unwritten.map (·.lost)) = some [true, false] ∧ t.chest.walk = true ∧
     (cellQueue 3 k t).cells.map (fun c => (c.index, c.poison)) = [(100, false), (201, true), (5000, true)]) := by decide +kernel

/-- The command queue of a stream. -/
theorem test_cellRead_stream :
    (let t := after (.cellRead 1 (streamQueue 2 1) [.badData 0])
       (carry 5 (upCells 1 (streamQueue 2 1) 1 (some 2) none (upStream 0 [] { run0 0 with state := .loading })))
     let cause := (tget t.contexts 3).bind (·.cause)
     (tget t.contexts 3).map (·.state) = some (.teardown true) ∧ cause.map (·.status) = some .memUncorrectable ∧
     cause.map (·.aux) = some 1 ∧ cause.map (fun i => (i.partition, i.stream)) = some (2, 1)) := by decide +kernel

/-- A Journal record of loop 0. -/
theorem test_cellRead_journal :
    (let r (n : Nat) : Nat × List Byte := (4, padTo 64 (zeros 8 ++ le 8 n))
     let j : Jnl := { obj := 0, base := ⟨.slow, 0⟩, log2 := 4, produced := 0, consumed := 0, badConsumed := 0, written := 0, waits := 0,
                      gaps := 0, nextSeq := 9, waiting := [r 7, r 8], cells := 0 }
     let s := carry 7 (upCells 5 0 1 (some 2) none (withLoop { loop0 .idle with jnl := some j } [] (upC .active)))
     let u := ((tget (after (.cellRead 5 0 [.badData 1]) s).trestle.loops 0).bind (·.jnl))
     (jnlLoop 0 s).map (·.1) = some 0 ∧ u.map (fun y => (y.gaps, y.nextSeq)) = some (1, 10) ∧
     u.map (fun y => y.waiting.map (fun e => [fld e.2 1 1, fld e.2 28 8, fld e.2 36 4])) = some [[0, 0, 0], [0x0B, 7, 1]]) := by
  decide +kernel

/-- Bureau with an active slot 2 and a pending report. -/
def bur (f : Bureau → Bureau) : State :=
  { up with bureau := f { Bureau.reset with
      slots := [(2, { Slot.reset with active := true, counters := [10, 0, 0, 0, 0, 3], acc := 900 })], pending := [(2, .periodic)] } }

theorem test_bureauTick :
    (let s := bur (fun b => { b with
       samples := [(0, 1601)], occ := [(0, 2), (1, 2)], miss := [(1, 16)], last := [(1, 7), (2, 8)], res := [(0, 3)] })
     let s : State := { s with integ := { s.integ with slices := 3, offset := [-1, 5, 100] } }
     let t := after .bureauTick s
     (tgetD t.bureau.res 0 9, tgetD t.bureau.unatt 0 9, tgetD t.bureau.last 0 0) = (3, 800, 1601) ∧
     (slotAt 2 t.bureau).acc = 700 ∧ (slotAt 2 t.bureau).counters = [10, 0, 0, 0, 0, 4] ∧
     (tgetD t.bureau.miss 1 0, tgetD t.bureau.gap 1 0, tgetD t.bureau.unatt 1 0) = (17, 1, 0) ∧
     (tgetD t.bureau.miss 2 0, tgetD t.bureau.unatt 2 0) = (1, 108) ∧ t.bureau.sensorGap = true ∧
     (slotAt 2 t.bureau).sensorGap = false ∧ t.bureau.timeUs = 1 ∧
     after .bureauTick { s with port := { s.port with vddAon := false } } = { s with port := { s.port with vddAon := false } }) := by
  decide +kernel

/-- A usage record at the head of the channel. -/
def usage (n : Nat) (u : Usage) : State := let s := bur id; { s with hub := { s.hub with burFifo := [(n, u), (1, .sync)] } }

theorem test_usage :
    (after .occ (usage 0 (.occ 9 (some 2)))).bureau.occ = [(9, 2)] ∧ (after .occ (usage 0 (.occ 9 none))).bureau.occ = [] ∧
    (slotAt 2 (after .eng (usage 0 (.eng 2 5))).bureau).counters = [15, 0, 0, 0, 0, 3] ∧
    (slotAt 2 (after .byt (usage 0 (.byt 2 3 5))).bureau).counters = [10, 0, 0, 0, 5, 3] ∧
    (after .byt (usage 0 (.byt 2 3 5))).bureau.usageGap = false ∧ (after .byt (usage 0 (.byt 3 3 5))).bureau.usageGap = true ∧
    (after .byt (usage 7 (.byt 2 3 5))).bureau.usageGap = true ∧ (after .byt (usage 7 (.byt 2 3 5))).bureau.expect = 8 ∧
    (slotAt 2 (after .act (usage 0 (.act 2))).bureau).start = [10, 0, 0, 0, 0, 3] ∧
    (after .act (usage 0 (.act 2))).bureau.pending = [(2, .activation)] ∧
    (slotAt 2 (after .ret (usage 0 (.ret 2))).bureau).active = false ∧
    (after .ret (usage 0 (.ret 5))).bureau.pending = [(2, .periodic), (5, .retirement)] ∧
    (after .req (usage 0 (.req (some 2)))).bureau.pending = [(2, .requested)] ∧
    (after .req (usage 0 (.req none))).bureau.pending = [(2, .requested)] ∧
    (after .sync (usage 0 .sync)).bureau.occ = [] ∧ (after .sync (usage 0 .sync)).hub.burFifo = [(1, .sync)] ∧
    after .sync (usage 0 (.act 2)) = usage 0 (.act 2) ∧ after .occ (usage 0 (.act 2)) = usage 0 (.act 2) ∧
    after .eng (usage 0 (.act 2)) = usage 0 (.act 2) ∧ after .byt (usage 0 (.act 2)) = usage 0 (.act 2) ∧
    after .act (usage 0 (.ret 2)) = usage 0 (.ret 2) ∧ after .ret (usage 0 (.act 2)) = usage 0 (.act 2) ∧
    after .req (usage 0 (.act 2)) = usage 0 (.act 2) := by decide +kernel

theorem test_usage_sent :
    (let s : State := { up with hub := { up.hub with bytAgg := [(11, 77)], burSeq := 65535 } }
     let t := after (.bytFlushTimer 2 3) s
     let u := after (.burReqWrite 0x80000005) up
     t.hub.burFifo = [(65535, .byt 2 3 77)] ∧ t.hub.burSeq = 0 ∧ t.hub.bytAgg = [] ∧ after (.bytFlushTimer 2 2) s = s ∧
     u.hub.burFifo = [(0, .req none)] ∧ (after (.burReqWrite 0x405) up).hub.burFifo = [(0, .req (some 5))] ∧
     (after (.burRingWrite 0x12345FF5) up).hub.burRingBase = 0x12345000 ∧ (after (.burRingWrite 0x12345FF5) up).hub.burRingLog2 = 5 ∧
     (let full : State := { s with hub := { s.hub with burFifo := List.replicate 256 (0, .sync) } }
      after (.bytFlushTimer 2 3) full = full ∧ (after (.burReqWrite 5) full).hub.burHeld = [(65535, .req (some 5))] ∧
      (after .sync (after (.burReqWrite 5) full)).hub.burFifo.length = 256) ∧
     after (.burRingWrite 5) State.reset = State.reset ∧ after (.burReqWrite 5) State.reset = State.reset) := by decide +kernel

/-- A state with the report of slot 2 about to be signed, in signing, signed. -/
def sign0 : State := bur (fun b => { b with reportSeq := 4, timeUs := 60, usageGap := true })
def sign1 : State := after .signingStart sign0
def sign2 : State := after (.signingDone 1 0) sign1

theorem test_reports :
    (sign1.bureau.signing.map (fun r => [r.length, fld r 0 1, fld r 1 1, fld r 2 2, fld r 4 4, fld r 16 8, fld r 24 8])) =
      some [192, 2, 1, 2, 9, 1, 4] ∧
    (sign1.bureau.signing.map (fun r => [fld r 32 8, fld r 40 4, fld r 48 8, fld r 88 8])) = some [60, 0, 10, 3] ∧
    sign2.bureau.queue.map (·.length) = [256] ∧ sign2.bureau.reportSeq = 5 ∧ sign2.bureau.signing = none ∧
    after (.signingDone 1 0) sign2 = sign2 ∧ after (.signingDone 0 0) sign1 = sign1 ∧
    (after (.signingDone 0 1) sign1).bureau.reportSeq = 5 ∧
    (ecdsaSign curve256 7 3 1).isSome = true ∧ after .signingStart sign2 = sign2 ∧
    after .signingStart (bur (fun b => { b with keyOk := false })) = bur (fun b => { b with keyOk := false }) ∧
    (after .periodicReport (bur (fun b => { b with pending := [], timeUs := 60000000 }))).bureau.pending = [(2, .periodic)] ∧
    after .periodicReport (bur (fun b => { b with pending := [] })) = bur (fun b => { b with pending := [] }) := by decide +kernel

theorem test_reportForward :
    (let v : State := { sign2 with
       hub := { sign2.hub with burRingBase := 0x10000, burRingLog2 := 4, burProd := 17 },
       mgmt := { sign2.mgmt with cores := List.replicate 4 { Core.reset with state := .running } } }
     let w := after .reportForward v
     sign2.mem.wf = true ∧ w.bureau.queue = [] ∧ w.hub.burProd = 18 ∧
     memRead (pfLoc 0x10100) 256 w = (sign2.bureau.queue[0]?).getD [] ∧ after .reportForward sign2 = sign2) := by decide +kernel

theorem test_vddAon :
    (after (.sensorSample 3 0x1234) up).bureau.samples = [(3, 0x1234)] ∧ after (.sensorSample 40 0x1234) up = up ∧
    (after (.vddAonUp 0 true) up).bureau = { Bureau.reset with epoch := 1 } ∧
    (after (.vddAonUp 9 false) up).bureau = { Bureau.reset with epoch := 9, keyOk := false } ∧
    (after .vddAonLoss up).port.vddAon = false ∧ after .periodicReport (after .vddAonLoss up) = after .vddAonLoss up := by
  decide +kernel

/-- Stream 1 of slice 2 runs a command's launch or a loop step; every agent was held for a second. -/
def stuck (cmd : Option (Nat × Nat)) (f : Stream → Stream) : State :=
  let s := upStream 0 (sideB 6 1 0 4 0 0 0 0) (f { run0 3 with launch := some { launch0 with cmd := cmd, loopId := none } })
  { s with time := 100000000, front := (upRun (entry 5)).front }

theorem test_watchSample :
    (let q : Queue := { q3 (cmd0 0 .intake) with progress := 4, sample := 4, heldSince := 7 }
     let s0 := upStream 0 [] { run0 1 with progress := 3, flagged := true }
     let s : State := { s0 with
       time := 99, front := (upQ q).front,
       mgmt := { s0.mgmt with cores := [{ Core.reset with state := .running, heldSince := 5 }, { Core.reset with progress := 1 }] },
       wrd := { s0.wrd with movers := [Mover.reset] } }
     let t := after .watchSample s
     (tget t.front.queues (qkey 3 1)) = some { q with sampleWas := 4 } ∧ (streamAt 2 1 t).heldSince = 99 ∧ (streamAt 2 1 t).sample = 3 ∧ (streamAt 2 1 t).flagged = false ∧ t.watch.hubFlagged[2]? = some false ∧
     t.wrd.movers.map (·.heldSince) = [99] ∧ t.mgmt.cores.map (·.heldSince) = [5, 99] ∧
     t.watch.hubBusy = hubWork s ∧ (hubWork s)[2]? = some true ∧ (hubWork s)[3]? = some false ∧ t.watch.hubHeld[2]? = some 0 ∧
     t.watch.hubHeld[3]? = some 99) := by decide +kernel

theorem test_streamHang :
    (let k := qkey 3 1
     let s := stuck (some (k, 0xFFFFFFFE)) id
     let t := after (.streamHang 2 1) s
     let u := after (.streamHang 2 1) (stuck none id)
     peerWait (streamAt 2 1 s) (progImage 0 (sideB 6 1 0 4 0 0 0 0)) = none ∧ (at0 s).map (·.latch) = some none ∧
     (at0 t).map (·.latch) = some (some ⟨.hang, 2 ^ 28 + 1000⟩) ∧ (tget t.contexts 3).map (·.state) = some (.teardown true) ∧
     ((tget u.contexts 3).bind (·.cause)).map (fun i => (i.status, i.partition, i.stream)) = some (.hang, 2, 1) ∧
     after (.streamHang 2 1) { s with time := 99999 } = { s with time := 99999 }) := by decide +kernel

theorem test_peerWait :
    (let k := qkey 3 1
     let w (x : Stream) : Stream := { x with stallCause := 3, state := .draining, engines := x.engines.map (fun g => { g with pc := some 0 }) }
     let w (x : Stream) : Stream := let x := w x; { x with engines := x.engines.modify 2 (fun g => { g with pc := some 32, waiting := true }) }
     let s := stuck (some (k, 0xFFFFFFFE)) w
     let t := after (.peerWaitTimeout 2 1) s
     let u := after (.peerWaitTimeout 2 1) (stuck none w)
     (peerWait (streamAt 2 1 s) (progImage 0 (sideB 6 1 0 4 0 0 0 0))).isSome = true ∧
     (at0 t).map (·.latch) = some (some ⟨.peerTimeout, 2 ^ 29 + 2 * 256 + 1⟩) ∧ (streamAt 2 1 t).stopSent = true ∧
     (streamAt 2 1 t).flagged = true ∧ after (.peerWaitTimeout 2 1) t = t ∧ t.contexts = s.contexts ∧ ((tget u.contexts 3).bind (·.cause)).map (·.status) = some .peerTimeout ∧
     after (.streamHang 2 1) s = s ∧ after (.peerWaitTimeout 2 1) (stuck none id) = stuck none id) := by decide +kernel

theorem test_moverHang :
    (let j (k : MoveKind) : MoveJob := job 7 k 9999 0 false false
     let s (k : MoveKind) : State := let s := upRun (entry 3); { s with time := 1000000, wrd := { s.wrd with movers := [{ Mover.reset with jobs := [j k] }] } }
     let cp : MoveKind := .copy 3 1 0xFFFFFFFE ⟨.slow, 0⟩ ⟨.slow, 9⟩
     (at0 (after (.moverHang 0) (s cp))).map (·.latch) = some (some ⟨.hang, 2 ^ 29 + 10000⟩) ∧
     (stageOf 3 0 (after (.moverHang 0) (s (.zero 3)))).map (·.cause) = some 9 ∧
     (let a : State := { s cp with front := (upQ (q3 { cmd0 3 .dispatched with latch := some ⟨.aborted, 1⟩, stopping := true })).front }
      ((tget (after (.moverHang 0) a).contexts 3).bind (·.cause)).map (fun i => (i.status, i.queue)) = some (.hang, 1)) ∧
     (let f : State := { s cp with wrd := { (s cp).wrd with movers := [{ Mover.reset with jobs := [j cp], flagged := some 7 }] } }
      after (.moverHang 0) f = f) ∧
     after (.moverHang 0) { s cp with time := 999999 } = { s cp with time := 999999 } ∧
     (at0 (after (.engineFaultReport (.mover 0)) (s cp))).map (·.latch) = some (some ⟨.engineFault, 7 * 2 ^ 24⟩) ∧
     (stageOf 3 0 (after (.engineFaultReport (.mover 0)) (s (.zero 3)))).map (·.cause) = some 9 ∧
     (at0 (after (.mfpResponse (.mover 0) .slow 0 .uncorrectable) (s cp))).map (·.latch) = some (some ⟨.memUncorrectable, 2⟩) ∧
     (at0 (after (.mfpResponse (.mover 0) .slow 0 .decodeError) (s cp))).map (·.latch) = some (some ⟨.access, 0xFFFFFFFF⟩) ∧
     (at0 (after (.hfpCompletion (.mover 0 5) .poison) (s cp))).map (·.latch) = some (some ⟨.access, 0xFFFFFFFF⟩) ∧
     memRead (hostLoc 1 9 5) 1 (after (.hfpCompletion (.mover 0 5) (.ok [7])) (s cp)) = [7]) := by decide +kernel

theorem test_hubEngineHang :
    (let s0 := upRun (entry 3)
     let s : State := { s0 with
       time := 1000000, jnl := { s0.jnl with evtBase := 0x1000, evtLog2 := 6, events := [mkEvent up 1 0 0 0 0 0 []] },
       watch := { s0.watch with hubBusy := List.replicate 8 true } }
     (hubWork s)[7]? = some true ∧ (stageOf 3 0 (after (.hubEngineHang .event) s)).map (·.cause) = some 9 ∧
     (after (.hubEngineHang .event) s).watch.hubReady = false ∧ (after (.hubEngineHang .event) s).watch.computeResets = 1 ∧
     after (.hubEngineHang .wardrobe) s = s ∧
     (let sh : State := { upQ { q3 (cmd0 0 .intake) with state := .shutting } with time := 500000 }
      ((tget (after (.queueShutdownHang 3 1) sh).contexts 3).bind (·.cause)).map (fun i => (i.status, i.aux)) = some (.hang, 5 * 2 ^ 28 + 5000) ∧
      after (.queueShutdownHang 3 1) (upQ q0) = upQ q0)) := by decide +kernel

theorem test_engineFaultReport :
    (let k := qkey 3 1
     let lat (u : FaultUnit) := (at0 (after (.engineFaultReport u) (stuck (some (k, 0xFFFFFFFE)) (fun x => { x with pc := 0x50 })))).map (·.latch)
     lat (.core 2 1 3) = some (some ⟨.engineFault, 6 * 2 ^ 24 + 5⟩) ∧ lat (.scratch 2 1 3) = some (some ⟨.memUncorrectable, 3⟩) ∧
     lat (.side 2 1 3) = some (some ⟨.engineFault, 7 * 2 ^ 24 + 4⟩) ∧ lat (.collective 2 1) = some (some ⟨.engineFault, 8 * 2 ^ 24 + 4⟩) ∧
     after (.engineFaultReport (.core 2 0 0)) up = up) := by decide +kernel

theorem test_sramLost :
    (let s := stuck none id
     let why (w : SramWord) := ((tget (after (.engineFaultReport (.sram w 9)) s).contexts 3).bind (·.cause)).map
       (fun i => (i.status, [i.aux, i.queue, i.seq]))
     why (.queueWord 3 1) = some (.memUncorrectable, [4, 1, 0]) ∧ why (.objEntry 3 1) = some (.memUncorrectable, [4, 0xFFFF, 0]) ∧
     why (.seqRecord 2) = some (.memUncorrectable, [4, 0xFFFF, 0]) ∧ s.isActive 3 = true ∧
     (after (.engineFaultReport (.sram (.shared 5) 9)) s).watch.lastMc = 5 ∧ stageOf 2 2 s = none ∧
     (stageOf 2 2 (after (.engineFaultReport (.sram (.slice 2) 9)) s)).map (·.cause) = some 4) := by decide +kernel

theorem test_mfpResponse :
    (let k := qkey 3 1
     let s := stuck (some (k, 0xFFFFFFFE)) id
     let lat (w : MfpWho) (x : MfpStatus) := (at0 (after (.mfpResponse w .slow 0x100 x) s)).map (·.latch)
     kvAt .slow 0x100 s = false ∧ lat (.side 2 1 3) .uncorrectable = some (some ⟨.memUncorrectable, 2⟩) ∧
     lat (.side 2 1 3) .decodeError = some (some ⟨.access, 0xFFFFFFFF⟩) ∧ lat (.text 2 1) .uncorrectable = some none ∧
     (streamAt 2 1 (after (.mfpResponse (.text 2 1) .slow 0x100 .uncorrectable) s)).textRetry = true ∧
     lat (.text 2 1) .decodeError = some (some ⟨.access, 0xFFFFFFFF⟩) ∧
     (at0 (after (.mfpResponse (.text 2 1) .slow 0x100 .uncorrectable) (stuck (some (k, 0xFFFFFFFE)) (fun x => { x with textRetry := true })))).map
       (·.latch) = some (some ⟨.memUncorrectable, 2⟩) ∧
     (after (.mfpResponse .hubShared .slow 0x100 .uncorrectable) s).watch.lastMc = 5 ∧
     (after (.mfpResponse .hubShared .slow 0x100 .ok) s).chest = (hubData .slow 0x100 s).chest ∧ (s.chest.classes.map (·.used), ((hubData .slow 0x100 s).chest.classes.map (·.used))) = ([0, 0, 0, 0, 0, 0], [0, 0, 1, 0, 0, 0]) ∧
     (let x : State := { s with chest := { s.chest with mfpPause := true, classes := s.chest.classes.map (fun c => { c with used := 300000, quota := 0 }) } }
      grantsSkid 2 1 x = false ∧ (after (.mfpResponse .hubShared .slow 0x100 .ok) x).watch.lastMc = 3)) := by decide +kernel

theorem test_channelUncorrectable :
    (let s := paged [] 1 false
     let s : State := { s with time := 77 }
     let t := after (.channelUncorrectable .fast 3 0x50010) s
     let w : State := { s with trestle := { s.trestle with seqs := tmapv s.trestle.seqs (fun _ q => { q with state := .waiting }) } }
     let u := after (.mfpResponse (.mover 0) .fast 0x50010 .uncorrectable) w
     kvAt .fast 0x50010 s = true ∧ holdersOf 5 s = [(2, 0)] ∧ (tget t.wrd.frames 5).map (·.state) = some .lost ∧
     (tget t.wrd.leaves 0).map (fun l => l.entries.map (·.lost)) = some [true] ∧ (tget t.trestle.seqs 2).map (·.lostPage) = some (some 5) ∧
     (frameAt 5 w).holders = 1 ∧ isOut 5 w = false ∧ inFlight 5 w = false ∧ u.trestle.seqs = [] ∧ u.wrd.frames = [] ∧
     (let b : State := { w with trestle := { w.trestle with loops := tmapv w.trestle.loops (fun _ l => { l with phase := .recorded }) } }
      atBoundary 0 w = false ∧ atBoundary 0 b = true ∧ (seq0 .decode).loopId = 0 ∧
      (tget (after (.channelUncorrectable .fast 3 0x50010) b).trestle.seqs 2).map (·.verdict) = some (some (7, 0xFF))) ∧
     (let m := movePage 5 6 0 false false false none s
      movingTo 5 m = some 6 ∧ kvAt .fast 0x50010 m = true ∧
      (tget (after (.channelUncorrectable .fast 3 0x50010) m).wrd.frames 6).map (·.state) = some .lost) ∧
     after (.channelUncorrectable .fast 3 0x70010) s = s) := by decide +kernel

theorem test_hfpCompletion :
    (let s := stuck none id
     let go (w : HfpWho) (r : HostRead) := after (.hfpCompletion w r) s
     let why (w : HfpWho) := ((tget (go w .error).contexts 3).bind (·.cause)).map (fun i => [i.queue, i.seq, i.address])
     s.mem.wf = true ∧ memRead (hostLoc 1 9 5) 1 (go (.queue 3 1 5) (.ok [7])) = [7] ∧ memRead (hostLoc 1 9 5) 1 (go (.side 2 1 3 5) (.ok [7])) = [7] ∧
     memRead (hostLoc 1 9 5) 1 (go (.context 3 5) (.ok [7])) = [7] ∧ memRead (pfLoc 5) 1 (go (.physical 5) (.ok [7])) = [7] ∧
     (let th : State := { s with bramble := { s.bramble with through := [(qkey 3 1, 2, 0x77)] } }
      (after (.hfpCompletion (.fence 3 1 2 5) (.ok [7])) th).bramble.through = [] ∧
      ((tget (after (.hfpCompletion (.fence 3 1 2 5) .error) th).contexts 3).bind (·.cause)).map (·.tag) = some 0x77) ∧ go (.physical 5) .error = s ∧ why (.queue 3 1 5) = some [1, 0, 5] ∧
     why (.fence 3 1 2 5) = some [1, 3, 5] ∧ why (.context 3 5) = some [0xFFFF, 0, 5] ∧
     ((tget (go (.side 2 1 3 5) .poison).contexts 3).bind (·.cause)).map (fun i => (i.status, i.address)) = some (.access, 5)) := by
  decide +kernel

/-- A stage in a phase, ordered at 0. -/
def stg (n u ph : Nat) : Stage := { Stage.mk0 n u 7 0 0 false false false with phase := ph }

/-- The state at a time with stages. -/
def staged (t : W64) (l : List Stage) (s : State) : State := { s with time := t, watch := { s.watch with stages := l } }

theorem test_orders :
    (let t := after (.partitionReset 66) up
     let busy : State := { up with watch := { up.watch with rstBusy := true } }
     let res (s : State) := (s.watch.rstBusy, s.watch.rstResult)
     (stageOf 2 2 t).map (fun g => (g.cause, g.byCmd, g.phase)) = some (2, true, 0) ∧ t.watch.rstBusy = true ∧ t.sched.unusable = [2] ∧
     t.watch.partitionResets = 1 ∧ res (after (.partitionReset 50) up) = (false, 2) ∧ res (after (.computeReset 1) up) = (false, 2) ∧
     res (after (.resetReq 1) up) = (false, 2) ∧ res (after (.partitionReset 2) (staged 9 [stg 3 0 0] up)) = (false, 3) ∧
     (stageOf 2 2 (after (.partitionReset 2) (staged 9 [stg 2 2 1] up))).map (fun g => (g.phase, g.byCmd)) = some (1, true) ∧
     res (after (.computeReset 0) (staged 9 [stg 4 0 0] up)) = (false, 3) ∧
     after (.partitionReset 2) busy = bar0Err 3 0x60120 busy ∧ after (.computeReset 0) busy = bar0Err 3 0x60120 busy ∧
     after (.resetReq 0) busy = bar0Err 3 0x60120 busy) := by decide +kernel

theorem test_computeReset_order :
    (let t := after (.computeReset 0) (upQ (q3 (cmd0 0 .intake)))
     let r := after (.resetReq 0) (staged 9 [stg 2 2 1] up)
     let a := after .resetRequest r
     (stageOf 3 0 t).map (fun g => (g.cause, g.byCmd)) = some (2, true) ∧ t.watch.hubReady = false ∧ t.watch.rstBusy = true ∧
     (tget t.contexts 3).map (·.state) = some (.teardown true) ∧ (at0 t).map (·.latch) = some (some ⟨.contextLost, 0x0F⟩) ∧
     r.watch.stages.map (fun g => (g.stage, g.cause, g.byCmd)) = [(4, 2, true)] ∧ r.watch.rstBusy = true ∧
     a.port.resetReq = true ∧ a.watch.rstBusy = false ∧ after .resetRequest up = up ∧
     (after (.resetReq 0) { up with port := { up.port with resetReq := true } }).watch.rstResult = 0) := by decide +kernel

/-- A run of a command on partition 2, through the reset. -/
theorem test_partitionReset :
    (let k := qkey 3 1
     let s0 : State := { upStream 0 [] { run0 1 with launch := some { launch0 with cmd := some (k, 0xFFFFFFFE), loopId := none } } with
       front := (upRun (entry 5)).front }
     let s0 : State := { s0 with sched := { s0.sched with benches := [(8, { state := .held, res := none, claim := none })], unusable := [2] } }
     let s := staged 5000 [stg 2 2 0] s0
     let a := after (.partitionResetAssert 2) s
     let d := after (.partitionWritesDrained 2) a
     let r := after (.partitionResetRelease 2) { d with time := 6000 }
     let y := after (.sliceReady 2) r
     let z (s : State) : State := (List.range 8).foldl (fun s i => after (.channelReady .fast (16 + i)) s) s
     (at0 a).map (·.latch) = some (some ⟨.partitionReset, 0x202⟩) ∧ (benchAt 8 a).state = .out ∧ (benchAt 11 a).state = .out ∧
     (streamAt 2 1 a).state = .halted ∧ a.port.prtRst = [2] ∧ (streamAt 2 1 d).confirmed = true ∧
     (stageOf 2 2 d).map (·.phase) = some 2 ∧ after (.partitionResetRelease 2) { d with time := 5999 } = { d with time := 5999 } ∧
     r.port.prtRst = [] ∧ (stageOf 2 2 y).map (·.phase) = some 4 ∧ (streamAt 2 1 y).state = .idle ∧
     (stageOf 2 2 (z y)) = none ∧ (benchAt 8 (z y)).state = .clearing ∧ (z y).sched.unusable = [] ∧
     (stageOf 2 2 (after (.sliceReady 2) (z r))) = none) := by decide +kernel

theorem test_partitionReset_idle :
    (let s := staged 9 [stg 2 2 3] up
     after (.partitionResetAssert 2) s = s ∧ after (.partitionWritesDrained 2) s = s ∧ after (.partitionResetRelease 2) s = s ∧
     after (.partitionResetAssert 1) s = s ∧ after (.partitionWritesDrained 1) s = s ∧ after (.partitionResetRelease 1) s = s ∧
     after (.sliceReady 2) (staged 9 [stg 2 2 1] up) = staged 9 [stg 2 2 1] up ∧
     after (.channelReady .fast 17) (staged 9 [stg 2 2 1] up) = staged 9 [stg 2 2 1] up ∧ after (.channelReady .slow 17) s = s ∧
     (stageOf 3 0 (after (.sliceReady 5) (staged 9 [stg 3 0 2] up))).map (·.ready) = some [5] ∧
     after (.sliceReady 50) (staged 9 [stg 3 0 2] up) = staged 9 [stg 3 0 2] up) := by decide +kernel

theorem test_channels :
    (let s (out : List (Tier × Nat)) : State := { staged 1500000 [stg 2 2 4] up with wrd := { up.wrd with outChannels := out } }
     let t := after (.channelReadyTimeout 17 [4]) (s [])
     let u := after (.channelReadyTimeout 17 [4]) (s [(.fast, 20)])
     let f := after (.channelFault .fast 17 [4]) up
     let m (l : Bool) (src : Nat) (x : Tier) : Mapout := { tier := x, channel := 17, lost := l, units := [4], source := src, removed := 0,
                                                           invalidated := 0, outcome := 0, tenant := 0xFFFF }
     (coreAt 1 t).mailbox = [.mapout (m true 2 .fast)] ∧ after (.channelReadyTimeout 17 [4]) t = t ∧ stageOf 2 2 u = none ∧ u.mgmt = (s []).mgmt ∧
     after (.channelReadyTimeout 17 [4]) (staged 1499999 [stg 2 2 4] up) = staged 1499999 [stg 2 2 4] up ∧
     (coreAt 1 f).mailbox = [.mapout (m true 0 .fast)] ∧ (stageOf 2 2 f).map (·.cause) = some 5 ∧
     (coreAt 1 (after (.channelFault .slow 17 [4]) up)).mailbox = [.mapout (m true 0 .slow)] ∧
     (coreAt 1 (after (.ceRate .slow 17 [4]) up)).mailbox = [.mapout (m false 1 .slow)]) := by decide +kernel

theorem test_computeReset :
    (let s0 := launchable (loop0 .idle)
     let s : State := staged 1000000 [stg 3 0 0] { s0 with
       front := (upQ (q3 (cmd0 0 .intake))).front, bramble := { s0.bramble with overlay := [0] },
       wrd := { s0.wrd with frames := [(1, Frame.kv), (2, Frame.of .lost false)] }, bureau := { s0.bureau with epoch := 9 } }
     let c := after .completionsAllowanceExpiry s
     let a := after .computeResetAssert c
     let r := after .computeResetRelease { a with mem := { a.mem with scratch := [(3, 4)] } }
     let y : State := { r with watch := { r.watch with stages := r.watch.stages.map (fun g => { g with ready := List.range 40 }) }, bramble := { r.bramble with overlay := [0] } }
     let h := after .hubReady y
     c.watch.lostCompletions = [qkey 3 1] ∧ (tget c.front.queues (qkey 3 1)).map (fun q => (q.state, q.w)) = some (.stopped, 0x100000001) ∧
     (tget a.contexts 3).map (·.state) = some .lost ∧ a.trestle.loops = [] ∧ (benchAt 8 a).state = .out ∧ a.front = Front.reset ∧
     a.tenants = s.tenants ∧ r.mem.scratch = [] ∧ (benchAt 8 r).state = .free ∧ r.wrd.frames = [(2, Frame.of .lost false)] ∧
     h.watch.hubReady = true ∧ h.watch.stages = []) := by decide +kernel

theorem test_computeReset_idle :
    (let s := staged 9 [stg 3 0 0] (upQ (q3 (cmd0 0 .intake)))
     let e : State := staged 9 [stg 3 0 0] { up with contexts := [(3, { Context.fresh ctxRcd ctxBytes with state := .teardown false, escalated := true })] }
     after .completionsAllowanceExpiry s = s ∧ after .computeResetAssert s = s ∧ after .computeResetRelease s = s ∧ after .hubReady s = s ∧
     after .completionsAllowanceExpiry up = up ∧ after .computeResetAssert up = up ∧ after .computeResetRelease up = up ∧
     after .hubReady up = up ∧ (after .computeResetAssert e).contexts = []) := by decide +kernel

theorem test_dumpAllowance :
    (let s0 : State := { up with hutch := { up.hutch with dumps := [(0, 3)], dumpArea := [1, 2, 3] } }
     let t := after (.dumpAllowanceExpiry 2) (staged 100000 [stg 2 5 0] s0)
     let q (d : W64) : State := { s0 with time := d, power := { s0.power with quiesced := true, quiesceSlot := 0xFF } }
     s0.hutch.lastSlot = 0 ∧ t.hutch.dumps = [(0, 2)] ∧ t.hutch.cut = [0] ∧ t.hutch.dumpArea = [1, 2] ∧ t.watch.stages.map (·.truncated) = [true] ∧
     after (.dumpAllowanceExpiry 2) (staged 199999 [stg 3 0 0] s0) = staged 199999 [stg 3 0 0] s0 ∧
     (after (.dumpAllowanceExpiry 0) (staged 200000 [stg 3 0 0] s0)).hutch.dumpArea = [] ∧
     after (.dumpAllowanceExpiry 2) t = t ∧ after (.dumpAllowanceExpiry 1) (q 199999) = q 199999 ∧
     (after (.dumpAllowanceExpiry 1) (q 200000)).hutch.dumpArea = [1] ∧ after (.dumpAllowanceExpiry 3) (q 200000) = q 200000) := by decide +kernel

theorem test_budgets :
    (let s0 := launchable (loop0 .idle)
     let tear (e : Bool) (t : W64) (s : State) : State := { s with time := t, contexts := tmapv s.contexts (fun _ x => { x with state := .teardown true, escalated := e }) }
     let a := after (.stageBudgetExpiry 1 3) (tear false 500000 s0)
     let b := after (.stageBudgetExpiry 1 3) (tear true 500000 s0)
     partitionsOf 3 (tear false 500000 s0) = [2] ∧ (stageOf 2 2 a).map (·.cause) = some 1 ∧
     (tget a.contexts 3).map (fun x => (x.escalated, x.ordered)) = some (true, [2]) ∧ (stageOf 3 0 b).map (·.cause) = some 1 ∧
     (stageOf 3 0 (after (.stageBudgetExpiry 1 3) (tear false 500000 (upC .active)))).map (·.cause) = some 1 ∧
     after (.stageBudgetExpiry 1 3) (tear false 499999 s0) = tear false 499999 s0 ∧
     (stageOf 3 0 (after (.stageBudgetExpiry 2 2) (staged 2000000 [stg 2 2 1] up))).map (·.cause) = some 1 ∧
     after (.stageBudgetExpiry 2 2) (staged 1999999 [stg 2 2 1] up) = staged 1999999 [stg 2 2 1] up ∧
     (after (.stageBudgetExpiry 3 0) (staged 10000000 [stg 3 0 1] up)).watch.stages.map (fun g => (g.stage, g.cause)) = [(4, 1)] ∧
     after (.stageBudgetExpiry 3 0) (staged 9999999 [stg 3 0 1] up) = staged 9999999 [stg 3 0 1] up) := by decide +kernel

theorem test_partition_waits :
    (let s0 := launchable (loop0 .idle)
     let s (d : W64) := staged d [stg 2 2 0] s0
     unsavedLoop 2 (s 99999) = true ∧ after (.partitionResetAssert 2) (s 99999) = s 99999 ∧
     (tget (after (.partitionResetAssert 2) (s 100000)).contexts 3).map (·.state) = some (.teardown true) ∧
     (let f : State := { staged 1500000 [{ stg 2 2 4 with test := true }] up with
        wrd := { up.wrd with outChannels := [(.fast, 20)] }, power := { up.power with tests := [(2, 5, 6, true, 7)] } }
      let t := after (.channelReadyTimeout 17 [4]) f
      t.power.failedParts = [2] ∧ t.power.selftestsFailed = 1 ∧ t.power.tests = [] ∧ (coreAt 2 t).mailbox = [.log 0 3 2]) ∧
     (let f : State := { staged 5 [{ stg 2 2 4 with ready := [16, 17, 18, 19, 20, 21, 22] }] up with
        sched := { up.sched with benches := [(8, { state := .out, res := none, claim := none })] }, power := { up.power with failedParts := [2] } }
      let t := after (.channelReady .fast 23) f
      stageOf 2 2 t = none ∧ (benchAt 8 t).state = .out)) := by decide +kernel

/-- A snapshot of a buffer of n bytes, the queue with a spilled record and its overflow flag. -/
def snap (n : Nat) : State :=
  let s := upRun (entryP 0x13 (le 4 1 ++ zeros 4 ++ le 8 0x40 ++ le 8 n))
  { s with front := { s.front with queues := tupd s.front.queues (qkey 3 1) (fun u =>
      { u with spilled := [5], overflow := true, overflowCount := 2 }) } }

theorem test_opSnapshot :
    (let s := snap 2048
     let t := after (.opSnapshot 3 1 0xFFFFFFFE) s
     let h := memRead ⟨.slow, 0x100040⟩ 256 t
     starting (qkey 3 1) 0xFFFFFFFE 0x13 s = at0 s ∧ (at0 t).map (fun m => (m.latch, m.running)) = some (some ⟨.ok, 0⟩, false) ∧
     [fld h 0 1, fld h 1 1, fld h 2 2, fld h 8 8, fld h 16 8] = [2, 0, 3, 77, 0] ∧
     [fld h 32 4, fld h 36 4, fld h 40 4, fld h 44 4] = [1, 256, 256, 1] ∧
     [fld h 48 4, fld h 52 4, fld h 56 4, fld h 60 4] = [2, 512, 128, 2] ∧
     [fld h 64 4, fld h 68 4, fld h 72 4, fld h 76 4] = [3, 640, 32, 1] ∧
     memRead ⟨.slow, 0x100140⟩ 40 t = ctxBytes.take 40 ∧
     ((tget t.front.queues (qkey 3 1)).map (fun u => (u.spilled, u.overflow, u.overflowCount))) = some ([], false, 0)) := by decide +kernel

/-- A buffer that holds the header and no more; a buffer that is no object. -/
theorem test_opSnapshot_short :
    (let t := after (.opSnapshot 3 1 0xFFFFFFFE) (snap 300)
     let h := memRead ⟨.slow, 0x100040⟩ 256 t
     (at0 t).map (·.latch) = some (some ⟨.ok, 0⟩) ∧ fld h 1 1 = 1 ∧ [fld h 32 4, fld h 36 4, fld h 40 4, fld h 44 4] = [0, 0, 0, 0] ∧
     ((tget t.front.queues (qkey 3 1)).map (fun u => (u.spilled.length, u.overflow))) = some (1, true) ∧
     (at0 (after (.opSnapshot 3 1 0xFFFFFFFE) { snap 300 with objects := [] })).map (·.latch) = some (some ⟨.access, 16⟩)) := by
  decide +kernel

/-- A state-window read of an address. -/
def sta (a : Nat) (s : State) : State := after .staReadDone (after (.staAddrWrite (BitVec.ofNat 64 a)) s)

theorem test_staErrors :
    (let e (a : Nat) (s : State) : Nat × Bool × Bool := ((sta a s).sta.error, (sta a s).sta.busy, (sta a s).sta.valid)
     (after (.staAddrWrite 7) up).sta.busy = true ∧ after (.staAddrWrite 7) State.reset = State.reset ∧ after .staReadDone up = up ∧
     ([0, 9].map (fun n => e (n * 2 ^ 56) up)) = [(1, false, false), (1, false, false)] ∧
     e (2 ^ 56) up = (2, false, false) ∧ e (2 * 2 ^ 56 + 0x302 * 2 ^ 32) (upQ q0) = (2, false, false) ∧
     e (4 * 2 ^ 56 + Config.maxSequences * 2 ^ 32) up = (2, false, false) ∧ e (5 * 2 ^ 56 + Config.maxLoops * 2 ^ 32) up = (2, false, false) ∧
     e (6 * 2 ^ 56 + 11 * 2 ^ 32) up = (2, false, false) ∧ e (6 * 2 ^ 56 + 10 * 2 ^ 32) up = (4, false, false) ∧
     e (7 * 2 ^ 56 + 64 * 2 ^ 32) up = (2, false, false) ∧ e (8 * 2 ^ 56 + 2 ^ 32) up = (2, false, false) ∧
     e (5 * 2 ^ 56 + 8) up = (5, false, false) ∧ e (5 * 2 ^ 56 + 256) up = (3, false, false) ∧
     (let b : State := { up with watch := { up.watch with stages := [{ stage := 3, unit := 0, cause := 1, at_ := 0, phase := 1, since := 0, ready := [], byCmd := false, flr := false, dumpSlot := 0, truncated := false, test := false, detail := 0 }] } }
      e (5 * 2 ^ 56) b = (4, false, false))) := by decide +kernel

theorem test_staObjects :
    (let d (a : Nat) (s : State) : Bool × Nat × List Nat := ((sta a s).sta.valid, (sta a s).sta.error, (sta a s).sta.data.map (·.toNat))
     let s := memWrite (spillSlot 4 up) [3] (upQ { q0 with d := 9, spilled := [4] })
     (d (2 ^ 56 + 3 * 2 ^ 32) s).2.2.take 2 = [leNat (ctxBytes.take 8), leNat ((ctxBytes.drop 8).take 8)] ∧
     (d (2 * 2 ^ 56 + 0x301 * 2 ^ 32) s).2.2.take 3 = [1, 9, q0.f] ∧ d (3 * 2 ^ 56 + 0x301 * 2 ^ 32) s = (true, 0, [3, 0, 0, 0, 0, 0, 0, 0]) ∧
     d (5 * 2 ^ 56 + 192) s = (true, 0, [0, 0, 0, 0, 0, 0, 0, 0]) ∧
     d (6 * 2 ^ 56) { s with hutch := { s.hutch with log := [le 8 5] } } = (true, 0, [5, 0, 0, 0, 0, 0, 0, 0]) ∧
     d (6 * 2 ^ 56 + 9 * 2 ^ 32 + 0x2FFFC0) s = (true, 0, [0, 0, 0, 0, 0, 0, 0, 0]) ∧
     (let v : State := { s with
        watch := { s.watch with spillValid := true, spillBase := 0x40000000 },
        mem := { s.mem with slow := [(0x40000000, 7), (0x40000000 + 640 * 2 ^ 20, 6)] } }
      d (6 * 2 ^ 56 + 10 * 2 ^ 32) v = (true, 0, [7, 0, 0, 0, 0, 0, 0, 0]) ∧ d (6 * 2 ^ 56 + 3 * 2 ^ 32) v = (true, 0, [6, 0, 0, 0, 0, 0, 0, 0])) ∧
     d (7 * 2 ^ 56 + 63 * 2 ^ 32) { s with chest := { s.chest with bankCount := [(63, 4)], bankBad := [(63, 2)] } } =
       (true, 0, [4, 0, 2, 0, 0, 0, 0, 0]) ∧
     d (8 * 2 ^ 56) { s with jnl := { s.jnl with evtMerged := 8, evtWritten := 5 } } = (true, 0, [0, 8, 5, 0, 0, 0, 0, 0])) := by
  decide +kernel

theorem test_staSequence :
    (sta (4 * 2 ^ 56 + 5 * 2 ^ 32) { up with trestle := { up.trestle with seqs := [(5, seq0 .decode)] } }).sta.valid = true ∧
    ((sta (4 * 2 ^ 56 + 5 * 2 ^ 32) { up with trestle := { up.trestle with seqs := [(5, seq0 .decode)] } }).sta.data[0]?).map
      (fun w => w.toNat % 256) = some 3 := by decide +kernel

theorem test_jnlRing :
    (let v : W64 := 0x12345E10
     [(after (.jnlRingWrite .event v) up).jnl.evtBase, (after (.jnlRingWrite .event v) up).jnl.evtLog2] = [0x12345000, 16] ∧
     [(after (.jnlRingWrite .log v) up).jnl.logBase, (after (.jnlRingWrite .log v) up).jnl.logMin] = [0x12345000, 2] ∧
     [(after (.jnlRingWrite .trace v) up).jnl.traceBase, (after (.jnlRingWrite .trace v) up).jnl.traceLog2] = [0x12345000, 16] ∧
     after (.jnlRingWrite .trace v) State.reset = State.reset ∧ after (.eventConsWrite v) State.reset = State.reset) := by decide +kernel

/-- The event ring of 64 events at 0x10000, n written, an event waiting, messages on vector 9. -/
def ring (n cons : Nat) : State :=
  let e : Event := mkEvent up 9 3 2 0x55 0 3 [1, 2, 3]
  { up with jnl := { up.jnl with
      evtBase := 0x10000, evtLog2 := 6, evtProd := n, evtCons := cons, events := [e], evtMsix := true, evtVector := 9,
      trace := [le 32 77], traceBase := 0x20000, traceLog2 := 8, traceProd := 257 } }

theorem test_events :
    (let t := after .eventWrite (ring 65 2)
     let b := memRead (pfLoc 0x10040) 64 t
     [fld b 0 1, fld b 1 1, fld b 4 4, fld b 16 2, fld b 24 4, fld b 32 8, fld b 48 8, fld b 56 8] = [2, 9, 1, 3, 3, 1, 3, 0] ∧
     (t.jnl.events, t.jnl.evtProd, t.jnl.evtWritten, t.port.out) = ([], 66, 1, [.write (pfLoc 0x10040) b none .hub, .msix 0 9]) ∧
     t.watch.hubProgress[7]? = some 1 ∧ after .eventWrite (ring 66 2) = ring 66 2 ∧ after .eventWrite up = up ∧
     (let d : State := { ring 65 2 with port := { up.port with dropAll := true } }
      (after .eventWrite d).mem = d.mem ∧ (after .eventWrite d).port.out = []) ∧
     (after (.eventConsWrite 0x4000000003) (ring 65 2)).jnl.evtCons = 64 ∧
     (after (.eventConsWrite 0x4200000003) (ring 65 2)).jnl.evtCons = 2 ∧ (after (.eventConsWrite 0x4200000003) (ring 65 2)).jnl.evtVector = 3 ∧
     (after (.eventConsWrite 0x4200000003) (ring 65 2)).hub.bar0Off = 0xB0108) := by decide +kernel

theorem test_traces :
    (let t := after .traceRingWrite (ring 0 0)
     memRead (pfLoc 0x20020) 1 t = [77] ∧ t.jnl.trace = [] ∧ t.jnl.traceProd = 258 ∧ after .traceRingWrite up = up ∧
     (let o : State := { ring 0 0 with jnl := { (ring 0 0).jnl with traceLog2 := 7 } }
      after .traceRingWrite o = o)) := by decide +kernel

/-- A firmware header of six empty sections, security version 9, rom_id 7, signed (FIPS 186-5) with the private key 1 and the
nonce 2 of P-384. -/
def fwKey : List Byte := le 48 curve384.gx ++ le 48 curve384.gy
def fwR : Nat := 0x8d999057ba3d2d969260045c55b97f089025959a6f434d651d207d19fb96e9e4fe0e86ebe0e64f85b96a9c75295df61
def fwSec (n t : Nat) : List Byte :=
  le 48 0x5bb99848f1d21ad5fb656fe7bfde4e27dae1f663bfc70c4c4307be1411b7fd216ae3b1b17e32d94c3896ac51a760b038 ++ le 4 n ++ le 4 0 ++
  le 1 t ++ zeros 7
def fwHeader : List Byte :=
  le 4 0x46574E59 ++ le 1 2 ++ le 1 6 ++ zeros 2 ++ le 4 0x1005 ++ le 4 3 ++ le 4 9 ++ le 4 0 ++ le 4 4096 ++ le 4 7 ++ zeros 96 ++
  fwSec 4096 1 ++ fwSec 4096 2 ++ fwSec 4096 3 ++ fwSec 4096 4 ++ fwSec 4096 5 ++ fwSec 4096 6 ++ zeros 128 ++ fwKey ++ zeros 192 ++
  le 48 fwR ++ le 48 0x4a409c02b4d9bb9cdfe4f21b3e1c6a44a36936a7621e8acd16256e583d54275355ba8af55ca80a0162b1558864c07007

/-- The cells of bytes that lie from an address on. -/
def bytesAt : Nat → List Byte → List Host.Cell
  | _, [] => []
  | a, b :: t => if b = 0 then bytesAt (a + 1) t else (a, b) :: bytesAt (a + 1) t

theorem cellGet_bytesAt_below (bs : List Byte) (a x : Nat) (h : x < a) : cellGet (bytesAt a bs) x = 0 := by
  induction bs generalizing a with
  | nil => rfl
  | cons b t ih =>
    have := ih (a + 1) (by omega)
    simp only [bytesAt]; split
    · exact this
    · rw [cellGet, if_neg (by omega), this]

theorem cellGet_bytesAt (bs : List Byte) (a i : Nat) : cellGet (bytesAt a bs) (a + i) = (bs[i]?).getD 0 := by
  induction bs generalizing a i with
  | nil => rfl
  | cons b t ih =>
    simp only [bytesAt]
    cases i with
    | zero => split <;> simp_all [cellGet, cellGet_bytesAt_below]
    | succ i =>
      have := ih (a + 1) i
      rw [show a + 1 + i = a + (i + 1) by omega] at this
      split
      · simpa using this
      · rw [cellGet, if_neg (by omega)]; simpa using this

theorem cellGet_skip (l m : List Host.Cell) (a x : Nat) (h : l.all (fun e => decide (e.1 < a)) = true) (g : a ≤ x) :
    cellGet (l ++ m) x = cellGet m x := by
  induction l with
  | nil => rfl
  | cons e t ih =>
    simp only [List.all_cons, Bool.and_eq_true, decide_eq_true_eq] at h
    rw [List.cons_append, cellGet, if_neg (by omega), ih h.2]

/-- A flash with two directory copies, the image in slot A and nothing in slot B. -/
def flashOf (d0 d1 : Option BootDir) : List Host.Cell :=
  bytesAt 0 ((d0.map BootDir.bytes).getD []) ++ bytesAt 0x8000 ((d1.map BootDir.bytes).getD []) ++ bytesAt 0x100000 fwHeader

/-- The block with the fuses that the image asks for, that flash, and cores that run. -/
def fused : State :=
  { up with
    integ := { up.integ with
      keyHashes := [0x6e8e2d204c43434ac2dbc8b6c24fe69e3127cef8847059c770d9b82e79dc57c66c30cafbca8dda39d3985e386ef4366b],
      revoked := [false], romId := 7 },
    mem := { up.mem with flash := flashOf (some ⟨0, some 1, 0, 4⟩) (some ⟨0, some 1, 2, 5⟩) },
    mgmt := { up.mgmt with cores := List.replicate 4 { Core.reset with state := .running } } }

/-- What is left of a multiplication, the point doubled and the sum so far, after some steps of ecMul. -/
def ecSteps (c : Curve) : Nat → Nat → Option (Nat × Nat) → Option (Nat × Nat) → Nat × Option (Nat × Nat) × Option (Nat × Nat)
  | 0, k, q, acc => (k, q, acc)
  | n + 1, k, q, acc => ecSteps c n (k / 2) (ecAdd c q q) (if k % 2 = 1 then ecAdd c acc q else acc)

theorem ecMul_zero (c : Curve) (n : Nat) (q acc : Option (Nat × Nat)) : ecMul c n 0 q acc = acc := by
  cases n <;> simp [ecMul]

theorem ecMul_steps (c : Curve) (m n k : Nat) (q acc : Option (Nat × Nat)) {k' : Nat} {q' acc' : Option (Nat × Nat)}
    (h : ecSteps c m k q acc = (k', q', acc')) : ecMul c (m + n) k q acc = ecMul c n k' q' acc' := by
  induction m generalizing k q acc with
  | zero => simp only [ecSteps, Prod.mk.injEq] at h; obtain ⟨rfl, rfl, rfl⟩ := h; rw [Nat.zero_add]
  | succ m ih =>
    have h := ih _ _ _ h
    rw [Nat.succ_add, ecMul]
    split
    · subst k; rw [← h]; simp [ecMul_zero]
    · exact h

theorem fw_mul0_0 : ecSteps curve384 50 0x1a4d65e389be2d7e4beaa723263c3893447d50fa38fa87bffd9806f43659f9c7f06ef22ce243485cb49a1cd2a1a8275f (some (0xaa87ca22be8b05378eb1c71ef320ad746e1d3b628ba79b9859f741e082542a385502f25dbf55296c3a545e3872760ab7, 0x3617de4a96262c6f5d9e98bf9292dc29f8f41dbd289a147ce9da3113b5f0b8c00a60b1ce1d7e819d7a431d7c90ea0e5f)) (none) =
    (0x6935978e26f8b5f92faa9c8c98f0e24d11f543e8e3ea1efff6601bd0d967e71fc1bbc8b3890d2172d26, some (0xe6ca49e150d457b329676ef73b33ff31bb7b6db56c89583a8814adbef906a056aa3255a6236442c537bc769c51032bf1, 0xfba7e4ada13ddf5132e5722e34b245c5ab2683e72ced02576989525d56e9baec929083444782094e61801510f83d65d6), some (0x78a79dee921371e817ef3124583c879a6e1484b551998c3bb939e15069102521550c79ec4b2be7482f386e279557f28b, 0xf6b13790d4e1525b4ff10f6ec4bb9d97494765c3623d05fc81a33b9ec2a73af5a3e47697ac8e5d93fd54055ff2438b27)) := by decide +kernel

theorem fw_mul0_1 : ecSteps curve384 50 0x6935978e26f8b5f92faa9c8c98f0e24d11f543e8e3ea1efff6601bd0d967e71fc1bbc8b3890d2172d26 (some (0xe6ca49e150d457b329676ef73b33ff31bb7b6db56c89583a8814adbef906a056aa3255a6236442c537bc769c51032bf1, 0xfba7e4ada13ddf5132e5722e34b245c5ab2683e72ced02576989525d56e9baec929083444782094e61801510f83d65d6)) (some (0x78a79dee921371e817ef3124583c879a6e1484b551998c3bb939e15069102521550c79ec4b2be7482f386e279557f28b, 0xf6b13790d4e1525b4ff10f6ec4bb9d97494765c3623d05fc81a33b9ec2a73af5a3e47697ac8e5d93fd54055ff2438b27)) =
    (0x1a4d65e389be2d7e4beaa723263c3893447d50fa38fa87bffd9806f43659f9c7f06ef22, some (0xa3f973765d6bd8af7dbe997ec1bd4c63422454f0da220c9b0a8ce94054a63592ffe3075972dcbd769703b2f6364f3d9b, 0x228c222833435953061b2bce4e84c4a3f72bf2a53251dfef19425828076eec6c9fe70e8ccaba0102acbdc0141fb62abf), some (0xf99bc759e72db52f335b1a3b66599ec6a2bfb42e4d469d7c5d159dc003077f751c66cdb719977106971362743de06f67, 0xb391aa951e8645c90faf52453f6c5f7005ec79756eb0cb6989e5a85cceb6f69e3d6d73a2d7ea3564d1101f0bcdc56d4b)) := by decide +kernel

theorem fw_mul0_2 : ecSteps curve384 50 0x1a4d65e389be2d7e4beaa723263c3893447d50fa38fa87bffd9806f43659f9c7f06ef22 (some (0xa3f973765d6bd8af7dbe997ec1bd4c63422454f0da220c9b0a8ce94054a63592ffe3075972dcbd769703b2f6364f3d9b, 0x228c222833435953061b2bce4e84c4a3f72bf2a53251dfef19425828076eec6c9fe70e8ccaba0102acbdc0141fb62abf)) (some (0xf99bc759e72db52f335b1a3b66599ec6a2bfb42e4d469d7c5d159dc003077f751c66cdb719977106971362743de06f67, 0xb391aa951e8645c90faf52453f6c5f7005ec79756eb0cb6989e5a85cceb6f69e3d6d73a2d7ea3564d1101f0bcdc56d4b)) =
    (0x6935978e26f8b5f92faa9c8c98f0e24d11f543e8e3ea1efff6601bd0d9, some (0xb43c75ac4a2a5408a2e399bfb2086dbf6c0b16d6ad5347e5446ebdda887de31994dd5f37a2c2db95e5cf38d35eb41c96, 0xf5c20bfbf79950a2d6f7111fb9336d32de6d2955d5880cc0709394fbc104d7ed977eaa20cba4a0022477f19c5193ba70), some (0x2e9cfea27236b007a701d32e0a10685db7299fa64c5ea48e7091671fbfc12ec1486c77af2ccf0b44fdea345745a76eac, 0x2b29f3d2846b3bbcc27f7c223f0e6cd1d7099e13ea8cce1f3ef010fce488aadf3e1ac12853b23bae73f4680cb8e98618)) := by decide +kernel

theorem fw_mul0_3 : ecSteps curve384 50 0x6935978e26f8b5f92faa9c8c98f0e24d11f543e8e3ea1efff6601bd0d9 (some (0xb43c75ac4a2a5408a2e399bfb2086dbf6c0b16d6ad5347e5446ebdda887de31994dd5f37a2c2db95e5cf38d35eb41c96, 0xf5c20bfbf79950a2d6f7111fb9336d32de6d2955d5880cc0709394fbc104d7ed977eaa20cba4a0022477f19c5193ba70)) (some (0x2e9cfea27236b007a701d32e0a10685db7299fa64c5ea48e7091671fbfc12ec1486c77af2ccf0b44fdea345745a76eac, 0x2b29f3d2846b3bbcc27f7c223f0e6cd1d7099e13ea8cce1f3ef010fce488aadf3e1ac12853b23bae73f4680cb8e98618)) =
    (0x1a4d65e389be2d7e4beaa723263c3893447d50fa38fa87, some (0x3dc56a32127f8c4ff9bc786c01f2318d49baf2960df0fafe9ef815283933f3e96b258ca2371da833794a459a6c91ad26, 0xea9ec23dcfc82f759a7eaf3243b2cbdc2103c6a0c8acaf2428c3a32cd1b32a37a42f9dde468e6a05329b33e950c23814), some (0x1342378fdcba2de19ae37678c9581d2470f57b0ef066642edbf382df5e8d7ee0aa5dae84fb8b2da400f072f6b8def78b, 0x866d670e2d5c5e6301c6faac33fb89424a4cd51d07175279177558837191782dc0bf7d218e0106f4b185d51d0b203630)) := by decide +kernel

theorem fw_mul0_4 : ecSteps curve384 50 0x1a4d65e389be2d7e4beaa723263c3893447d50fa38fa87 (some (0x3dc56a32127f8c4ff9bc786c01f2318d49baf2960df0fafe9ef815283933f3e96b258ca2371da833794a459a6c91ad26, 0xea9ec23dcfc82f759a7eaf3243b2cbdc2103c6a0c8acaf2428c3a32cd1b32a37a42f9dde468e6a05329b33e950c23814)) (some (0x1342378fdcba2de19ae37678c9581d2470f57b0ef066642edbf382df5e8d7ee0aa5dae84fb8b2da400f072f6b8def78b, 0x866d670e2d5c5e6301c6faac33fb89424a4cd51d07175279177558837191782dc0bf7d218e0106f4b185d51d0b203630)) =
    (0x6935978e26f8b5f92faa9c8c98f0e24d1, some (0x457c6ce0d3bfc264d158bb40e07db339ae4aac6517fcce977b803785626b13d861099fba580774713454600daecd03ff, 0xa7be3010e62704159c56e2701e2b8ed7050dcf553bef8bdaf7e57758f76bdebae26b7df2124c56ac2acbe4fcda9182ce), some (0x42763461dfe0c71b8ad01648465a6f7a10579757cdb5b6cbbe81b620cdfb9930ab0811bd825f46c92d7c420ee3a0a3c7, 0x59e5c34bbf60eb98d1831ceb0711088359a8398173246b076bd151be147d8b4fa6159662e13e5139259166736ee9cb19)) := by decide +kernel

theorem fw_mul0_5 : ecSteps curve384 50 0x6935978e26f8b5f92faa9c8c98f0e24d1 (some (0x457c6ce0d3bfc264d158bb40e07db339ae4aac6517fcce977b803785626b13d861099fba580774713454600daecd03ff, 0xa7be3010e62704159c56e2701e2b8ed7050dcf553bef8bdaf7e57758f76bdebae26b7df2124c56ac2acbe4fcda9182ce)) (some (0x42763461dfe0c71b8ad01648465a6f7a10579757cdb5b6cbbe81b620cdfb9930ab0811bd825f46c92d7c420ee3a0a3c7, 0x59e5c34bbf60eb98d1831ceb0711088359a8398173246b076bd151be147d8b4fa6159662e13e5139259166736ee9cb19)) =
    (0x1a4d65e389be2d7e4beaa, some (0x1bfd76a030cc3eda11fac541d9210950aaac218b29f24c098d31786b29199be62a4b411943c7549c3cedb737f3cddf3f, 0x4bf2143e6fef27c98c49bb4acdfb8100796343d64def5a2f0a18d7a8d34fde05e364a04fd4e9c56307abd76200f30197), some (0x5c61d1a8f42df0778eb0b9a48b995993e372fc714e716ddaeafaa2da98f7a29849c4f9d69fee20bdfdc073ac6f4cc4a2, 0xa7cc9089c7d9ede65b29da9daad244ae788704e2522a12f304c7ba59fc1c7db95946debf5a43678e0079ab3cef17cca2)) := by decide +kernel

theorem fw_mul0_6 : ecSteps curve384 50 0x1a4d65e389be2d7e4beaa (some (0x1bfd76a030cc3eda11fac541d9210950aaac218b29f24c098d31786b29199be62a4b411943c7549c3cedb737f3cddf3f, 0x4bf2143e6fef27c98c49bb4acdfb8100796343d64def5a2f0a18d7a8d34fde05e364a04fd4e9c56307abd76200f30197)) (some (0x5c61d1a8f42df0778eb0b9a48b995993e372fc714e716ddaeafaa2da98f7a29849c4f9d69fee20bdfdc073ac6f4cc4a2, 0xa7cc9089c7d9ede65b29da9daad244ae788704e2522a12f304c7ba59fc1c7db95946debf5a43678e0079ab3cef17cca2)) =
    (0x6935978e, some (0x80de8ed4f21a00473bf7773998c5e0a5ba8d24ea79fa98214984f1018d6fb4125cbea81fd7efe097a05578c5dc9b3525, 0x8411acda714aa83710d6e22516e6bc035f707c6bb8eb8480f7c873bca6a692181c1310d8d6a1726487386450725bd2c4), some (0xad86a1f717c7b4b8aa8bf085d313c3a378426090c9644c7aac63c4bb93d6c426358270015bcf9c5579d5fe99ad9d342e, 0xebe02fd543081e719a8095885a8432bbc2c10081e8f49e0f939b6f747633d6818d6abb5757be4ec0626dc37306559814)) := by decide +kernel

theorem fw_mul0_7 : ecSteps curve384 50 0x6935978e (some (0x80de8ed4f21a00473bf7773998c5e0a5ba8d24ea79fa98214984f1018d6fb4125cbea81fd7efe097a05578c5dc9b3525, 0x8411acda714aa83710d6e22516e6bc035f707c6bb8eb8480f7c873bca6a692181c1310d8d6a1726487386450725bd2c4)) (some (0xad86a1f717c7b4b8aa8bf085d313c3a378426090c9644c7aac63c4bb93d6c426358270015bcf9c5579d5fe99ad9d342e, 0xebe02fd543081e719a8095885a8432bbc2c10081e8f49e0f939b6f747633d6818d6abb5757be4ec0626dc37306559814)) =
    (0x0, some (0xdc8b82f7cb96a10e1cf97afebf1f50be7dbb5a9e261e301e0d1cae72900f58d91bd38c190aa08d23f2091e2c2e446983, 0xe8a53a991499c5bc14a8d7f4eb1bd9e34ce5e082e6078a1f3873c5f43238e00b13884b6da0984df2c6a71a6db51d364d), some (0xce2b57838ed96a4068cc00d28b6c09231337c7135c9ee9dae131c2be00838ef6292ce19fc9ed922dc11dbb7198ad5a0e, 0x99a9b4888cb987f43ce23d7df6dfd1cce3375c65cd007fff2bdec7e7b0f36b840b1f1047759bcad548261ea0111bf566)) := by decide +kernel

theorem fw_mul0 : ecMul curve384 400 0x1a4d65e389be2d7e4beaa723263c3893447d50fa38fa87bffd9806f43659f9c7f06ef22ce243485cb49a1cd2a1a8275f (some (curve384.gx, curve384.gy)) none =
    some (0xce2b57838ed96a4068cc00d28b6c09231337c7135c9ee9dae131c2be00838ef6292ce19fc9ed922dc11dbb7198ad5a0e, 0x99a9b4888cb987f43ce23d7df6dfd1cce3375c65cd007fff2bdec7e7b0f36b840b1f1047759bcad548261ea0111bf566) := by
  rw [show (some (curve384.gx, curve384.gy) : Option (Nat × Nat)) = some (0xaa87ca22be8b05378eb1c71ef320ad746e1d3b628ba79b9859f741e082542a385502f25dbf55296c3a545e3872760ab7, 0x3617de4a96262c6f5d9e98bf9292dc29f8f41dbd289a147ce9da3113b5f0b8c00a60b1ce1d7e819d7a431d7c90ea0e5f) from rfl]
  rw [show (400 : Nat) = 50 + 350 from rfl, ecMul_steps _ _ _ _ _ _ fw_mul0_0]
  rw [show (350 : Nat) = 50 + 300 from rfl, ecMul_steps _ _ _ _ _ _ fw_mul0_1]
  rw [show (300 : Nat) = 50 + 250 from rfl, ecMul_steps _ _ _ _ _ _ fw_mul0_2]
  rw [show (250 : Nat) = 50 + 200 from rfl, ecMul_steps _ _ _ _ _ _ fw_mul0_3]
  rw [show (200 : Nat) = 50 + 150 from rfl, ecMul_steps _ _ _ _ _ _ fw_mul0_4]
  rw [show (150 : Nat) = 50 + 100 from rfl, ecMul_steps _ _ _ _ _ _ fw_mul0_5]
  rw [show (100 : Nat) = 50 + 50 from rfl, ecMul_steps _ _ _ _ _ _ fw_mul0_6]
  rw [show (50 : Nat) = 50 + 0 from rfl, ecMul_steps _ _ _ _ _ _ fw_mul0_7]
  rfl

theorem fw_mul1_0 : ecSteps curve384 50 0xe5b29a1c7641d281b41558dcd9c3c76cbb82af05c705783fc9cb468dbddd341767ab1b85666d5f1e3851fc982b1d0216 (some (0xaa87ca22be8b05378eb1c71ef320ad746e1d3b628ba79b9859f741e082542a385502f25dbf55296c3a545e3872760ab7, 0x3617de4a96262c6f5d9e98bf9292dc29f8f41dbd289a147ce9da3113b5f0b8c00a60b1ce1d7e819d7a431d7c90ea0e5f)) (none) =
    (0x396ca6871d9074a06d0556373670f1db2ee0abc171c15e0ff272d1a36f774d05d9eac6e1599b57c78e14, some (0xe6ca49e150d457b329676ef73b33ff31bb7b6db56c89583a8814adbef906a056aa3255a6236442c537bc769c51032bf1, 0xfba7e4ada13ddf5132e5722e34b245c5ab2683e72ced02576989525d56e9baec929083444782094e61801510f83d65d6), some (0x4ba7f5ab54dcbecf6d6a35c89ffcd2742f8da2ed58d7ef5a2038c6cd643685212fc00863ee12a5af1588ca1de3cbf203, 0xdd3cea9cfcc77db8aaaa5639a11d263b154b38cf6366583047a8cd38945455a6464ea987a9cc87bcd7db4212aae11691)) := by decide +kernel

theorem fw_mul1_1 : ecSteps curve384 50 0x396ca6871d9074a06d0556373670f1db2ee0abc171c15e0ff272d1a36f774d05d9eac6e1599b57c78e14 (some (0xe6ca49e150d457b329676ef73b33ff31bb7b6db56c89583a8814adbef906a056aa3255a6236442c537bc769c51032bf1, 0xfba7e4ada13ddf5132e5722e34b245c5ab2683e72ced02576989525d56e9baec929083444782094e61801510f83d65d6)) (some (0x4ba7f5ab54dcbecf6d6a35c89ffcd2742f8da2ed58d7ef5a2038c6cd643685212fc00863ee12a5af1588ca1de3cbf203, 0xdd3cea9cfcc77db8aaaa5639a11d263b154b38cf6366583047a8cd38945455a6464ea987a9cc87bcd7db4212aae11691)) =
    (0xe5b29a1c7641d281b41558dcd9c3c76cbb82af05c705783fc9cb468dbddd341767ab1b8, some (0xa3f973765d6bd8af7dbe997ec1bd4c63422454f0da220c9b0a8ce94054a63592ffe3075972dcbd769703b2f6364f3d9b, 0x228c222833435953061b2bce4e84c4a3f72bf2a53251dfef19425828076eec6c9fe70e8ccaba0102acbdc0141fb62abf), some (0x64599c05819aa35c5b69b425cb7f7e38ef6997ea4ad72686955f619af740b0c00c28274715666c7506ffd6906c8aafaf, 0x924ac18783cb960c97ae9e7f0288e63f73f2059a94c9fac3e7c6e3cf924f1c602c2c0fe6099296a320c34db64a6fd696)) := by decide +kernel

theorem fw_mul1_2 : ecSteps curve384 50 0xe5b29a1c7641d281b41558dcd9c3c76cbb82af05c705783fc9cb468dbddd341767ab1b8 (some (0xa3f973765d6bd8af7dbe997ec1bd4c63422454f0da220c9b0a8ce94054a63592ffe3075972dcbd769703b2f6364f3d9b, 0x228c222833435953061b2bce4e84c4a3f72bf2a53251dfef19425828076eec6c9fe70e8ccaba0102acbdc0141fb62abf)) (some (0x64599c05819aa35c5b69b425cb7f7e38ef6997ea4ad72686955f619af740b0c00c28274715666c7506ffd6906c8aafaf, 0x924ac18783cb960c97ae9e7f0288e63f73f2059a94c9fac3e7c6e3cf924f1c602c2c0fe6099296a320c34db64a6fd696)) =
    (0x396ca6871d9074a06d0556373670f1db2ee0abc171c15e0ff272d1a36f7, some (0xb43c75ac4a2a5408a2e399bfb2086dbf6c0b16d6ad5347e5446ebdda887de31994dd5f37a2c2db95e5cf38d35eb41c96, 0xf5c20bfbf79950a2d6f7111fb9336d32de6d2955d5880cc0709394fbc104d7ed977eaa20cba4a0022477f19c5193ba70), some (0x7bcc3a9447e0a1b1972e08fe033576463dab7343e0233848629d63d5c31c3e26e7054a0558c50cc1f604d80d93cd4490, 0x19a2bc87e1bd99c6b8b3957790da17db18007d7fc98d22eacc78252348d66cf8855a547423c215e02b247021f4179927)) := by decide +kernel

theorem fw_mul1_3 : ecSteps curve384 50 0x396ca6871d9074a06d0556373670f1db2ee0abc171c15e0ff272d1a36f7 (some (0xb43c75ac4a2a5408a2e399bfb2086dbf6c0b16d6ad5347e5446ebdda887de31994dd5f37a2c2db95e5cf38d35eb41c96, 0xf5c20bfbf79950a2d6f7111fb9336d32de6d2955d5880cc0709394fbc104d7ed977eaa20cba4a0022477f19c5193ba70)) (some (0x7bcc3a9447e0a1b1972e08fe033576463dab7343e0233848629d63d5c31c3e26e7054a0558c50cc1f604d80d93cd4490, 0x19a2bc87e1bd99c6b8b3957790da17db18007d7fc98d22eacc78252348d66cf8855a547423c215e02b247021f4179927)) =
    (0xe5b29a1c7641d281b41558dcd9c3c76cbb82af05c70578, some (0x3dc56a32127f8c4ff9bc786c01f2318d49baf2960df0fafe9ef815283933f3e96b258ca2371da833794a459a6c91ad26, 0xea9ec23dcfc82f759a7eaf3243b2cbdc2103c6a0c8acaf2428c3a32cd1b32a37a42f9dde468e6a05329b33e950c23814), some (0x95dbcc5282235a101d0edfbd4fe8acb7beab4e4ea6b7b8a3764d8e3b768ae692aef6beb74b34e263c71b14e8bd18f8ea, 0x7c433f5924b3c1896af3934b7e769cff0be5e42ea8b30106b0f118cd4deae3ed4f67c7c889cf21c5efb7cbdb8385a131)) := by decide +kernel

theorem fw_mul1_4 : ecSteps curve384 50 0xe5b29a1c7641d281b41558dcd9c3c76cbb82af05c70578 (some (0x3dc56a32127f8c4ff9bc786c01f2318d49baf2960df0fafe9ef815283933f3e96b258ca2371da833794a459a6c91ad26, 0xea9ec23dcfc82f759a7eaf3243b2cbdc2103c6a0c8acaf2428c3a32cd1b32a37a42f9dde468e6a05329b33e950c23814)) (some (0x95dbcc5282235a101d0edfbd4fe8acb7beab4e4ea6b7b8a3764d8e3b768ae692aef6beb74b34e263c71b14e8bd18f8ea, 0x7c433f5924b3c1896af3934b7e769cff0be5e42ea8b30106b0f118cd4deae3ed4f67c7c889cf21c5efb7cbdb8385a131)) =
    (0x396ca6871d9074a06d0556373670f1db2e, some (0x457c6ce0d3bfc264d158bb40e07db339ae4aac6517fcce977b803785626b13d861099fba580774713454600daecd03ff, 0xa7be3010e62704159c56e2701e2b8ed7050dcf553bef8bdaf7e57758f76bdebae26b7df2124c56ac2acbe4fcda9182ce), some (0x9407c3bcf58f8ed6a3625972ff64a6c5461794be3e95d4a81c1695e0db0c1baaee32091c83d56c6f4ad28bd523844e23, 0x1e948eb1d45a3833a88eda24b8c80fa9888e13e2d9487db412c64bd24311dab601f3ab0a6d57b65ffa1e1039092d380d)) := by decide +kernel

theorem fw_mul1_5 : ecSteps curve384 50 0x396ca6871d9074a06d0556373670f1db2e (some (0x457c6ce0d3bfc264d158bb40e07db339ae4aac6517fcce977b803785626b13d861099fba580774713454600daecd03ff, 0xa7be3010e62704159c56e2701e2b8ed7050dcf553bef8bdaf7e57758f76bdebae26b7df2124c56ac2acbe4fcda9182ce)) (some (0x9407c3bcf58f8ed6a3625972ff64a6c5461794be3e95d4a81c1695e0db0c1baaee32091c83d56c6f4ad28bd523844e23, 0x1e948eb1d45a3833a88eda24b8c80fa9888e13e2d9487db412c64bd24311dab601f3ab0a6d57b65ffa1e1039092d380d)) =
    (0xe5b29a1c7641d281b4155, some (0x1bfd76a030cc3eda11fac541d9210950aaac218b29f24c098d31786b29199be62a4b411943c7549c3cedb737f3cddf3f, 0x4bf2143e6fef27c98c49bb4acdfb8100796343d64def5a2f0a18d7a8d34fde05e364a04fd4e9c56307abd76200f30197), some (0xd93c28c2c73bea9687f383b6777445b3e9c997fde1e21ed6a5b1ff337a3cba6e3064f2852f66b6ea14eaa3efe1ab0e27, 0xed3d603d0d2daf7c142253f84cf80571551f2cbf31a4b92e267992feb8448a7c8cc17a4f0c74fcef0810152e4eb9b00a)) := by decide +kernel

theorem fw_mul1_6 : ecSteps curve384 50 0xe5b29a1c7641d281b4155 (some (0x1bfd76a030cc3eda11fac541d9210950aaac218b29f24c098d31786b29199be62a4b411943c7549c3cedb737f3cddf3f, 0x4bf2143e6fef27c98c49bb4acdfb8100796343d64def5a2f0a18d7a8d34fde05e364a04fd4e9c56307abd76200f30197)) (some (0xd93c28c2c73bea9687f383b6777445b3e9c997fde1e21ed6a5b1ff337a3cba6e3064f2852f66b6ea14eaa3efe1ab0e27, 0xed3d603d0d2daf7c142253f84cf80571551f2cbf31a4b92e267992feb8448a7c8cc17a4f0c74fcef0810152e4eb9b00a)) =
    (0x396ca6871, some (0x80de8ed4f21a00473bf7773998c5e0a5ba8d24ea79fa98214984f1018d6fb4125cbea81fd7efe097a05578c5dc9b3525, 0x8411acda714aa83710d6e22516e6bc035f707c6bb8eb8480f7c873bca6a692181c1310d8d6a1726487386450725bd2c4), some (0xd762e8b8742c8899c3ef3622f57da7065d1e2d525ff3f92dc533b1cd3df5c49ecfbe1ec72827bba8fd111c0fce5161bd, 0xe7eead7c77e1c66e4c98c8fe281d646accff0d7f3ff4dd7eee2c0c198bea27cda88c4121163e158ee89dcd54a3c0c2c1)) := by decide +kernel

theorem fw_mul1_7 : ecSteps curve384 50 0x396ca6871 (some (0x80de8ed4f21a00473bf7773998c5e0a5ba8d24ea79fa98214984f1018d6fb4125cbea81fd7efe097a05578c5dc9b3525, 0x8411acda714aa83710d6e22516e6bc035f707c6bb8eb8480f7c873bca6a692181c1310d8d6a1726487386450725bd2c4)) (some (0xd762e8b8742c8899c3ef3622f57da7065d1e2d525ff3f92dc533b1cd3df5c49ecfbe1ec72827bba8fd111c0fce5161bd, 0xe7eead7c77e1c66e4c98c8fe281d646accff0d7f3ff4dd7eee2c0c198bea27cda88c4121163e158ee89dcd54a3c0c2c1)) =
    (0x0, some (0xdc8b82f7cb96a10e1cf97afebf1f50be7dbb5a9e261e301e0d1cae72900f58d91bd38c190aa08d23f2091e2c2e446983, 0xe8a53a991499c5bc14a8d7f4eb1bd9e34ce5e082e6078a1f3873c5f43238e00b13884b6da0984df2c6a71a6db51d364d), some (0xd3651c43e2f134c79b5624d59feaf8e599b4bd38e30f7ca6ea377e203abfe0eee724a2c68a5e2ec8a9b6c581ef04e23f, 0x1643ff20b4c89ad6523991e15422cb03a941a3fd30944a1dfbc5bd83ce88154d95e4744487e80ecbb37d8a5f20c2ce37)) := by decide +kernel

theorem fw_mul1 : ecMul curve384 400 0xe5b29a1c7641d281b41558dcd9c3c76cbb82af05c705783fc9cb468dbddd341767ab1b85666d5f1e3851fc982b1d0216 (some (curve384.gx, curve384.gy)) none =
    some (0xd3651c43e2f134c79b5624d59feaf8e599b4bd38e30f7ca6ea377e203abfe0eee724a2c68a5e2ec8a9b6c581ef04e23f, 0x1643ff20b4c89ad6523991e15422cb03a941a3fd30944a1dfbc5bd83ce88154d95e4744487e80ecbb37d8a5f20c2ce37) := by
  rw [show (some (curve384.gx, curve384.gy) : Option (Nat × Nat)) = some (0xaa87ca22be8b05378eb1c71ef320ad746e1d3b628ba79b9859f741e082542a385502f25dbf55296c3a545e3872760ab7, 0x3617de4a96262c6f5d9e98bf9292dc29f8f41dbd289a147ce9da3113b5f0b8c00a60b1ce1d7e819d7a431d7c90ea0e5f) from rfl]
  rw [show (400 : Nat) = 50 + 350 from rfl, ecMul_steps _ _ _ _ _ _ fw_mul1_0]
  rw [show (350 : Nat) = 50 + 300 from rfl, ecMul_steps _ _ _ _ _ _ fw_mul1_1]
  rw [show (300 : Nat) = 50 + 250 from rfl, ecMul_steps _ _ _ _ _ _ fw_mul1_2]
  rw [show (250 : Nat) = 50 + 200 from rfl, ecMul_steps _ _ _ _ _ _ fw_mul1_3]
  rw [show (200 : Nat) = 50 + 150 from rfl, ecMul_steps _ _ _ _ _ _ fw_mul1_4]
  rw [show (150 : Nat) = 50 + 100 from rfl, ecMul_steps _ _ _ _ _ _ fw_mul1_5]
  rw [show (100 : Nat) = 50 + 50 from rfl, ecMul_steps _ _ _ _ _ _ fw_mul1_6]
  rw [show (50 : Nat) = 50 + 0 from rfl, ecMul_steps _ _ _ _ _ _ fw_mul1_7]
  rfl

theorem fw_digest : beNat (sha384 (fwHeader.take 928)) = 0x8ba79effee0fa46056a3e3f0b6dd3c98bdd013f51d48e0c3da78d4dedaeee0085b942d7bfb41af0a69cc014976eb00ad ∧ fld (slice fwHeader 928 96) 0 48 = 0x8d999057ba3d2d969260045c55b97f089025959a6f434d651d207d19fb96e9e4fe0e86ebe0e64f85b96a9c75295df61 ∧
    fld (slice fwHeader 928 96) 48 48 = 0x4a409c02b4d9bb9cdfe4f21b3e1c6a44a36936a7621e8acd16256e583d54275355ba8af55ca80a0162b1558864c07007 ∧ fld (slice fwHeader 640 96) 0 48 = curve384.gx ∧
    fld (slice fwHeader 640 96) 48 48 = curve384.gy := by decide +kernel

theorem fw_factors : (1 ≤ 0x8d999057ba3d2d969260045c55b97f089025959a6f434d651d207d19fb96e9e4fe0e86ebe0e64f85b96a9c75295df61 ∧ 0x8d999057ba3d2d969260045c55b97f089025959a6f434d651d207d19fb96e9e4fe0e86ebe0e64f85b96a9c75295df61 < curve384.n ∧ 1 ≤ 0x4a409c02b4d9bb9cdfe4f21b3e1c6a44a36936a7621e8acd16256e583d54275355ba8af55ca80a0162b1558864c07007 ∧ 0x4a409c02b4d9bb9cdfe4f21b3e1c6a44a36936a7621e8acd16256e583d54275355ba8af55ca80a0162b1558864c07007 < curve384.n ∧ onCurve curve384 curve384.gx curve384.gy = true) ∧
    0x8ba79effee0fa46056a3e3f0b6dd3c98bdd013f51d48e0c3da78d4dedaeee0085b942d7bfb41af0a69cc014976eb00ad * invMod 0x4a409c02b4d9bb9cdfe4f21b3e1c6a44a36936a7621e8acd16256e583d54275355ba8af55ca80a0162b1558864c07007 curve384.n % curve384.n = 0x1a4d65e389be2d7e4beaa723263c3893447d50fa38fa87bffd9806f43659f9c7f06ef22ce243485cb49a1cd2a1a8275f ∧ 0x8d999057ba3d2d969260045c55b97f089025959a6f434d651d207d19fb96e9e4fe0e86ebe0e64f85b96a9c75295df61 * invMod 0x4a409c02b4d9bb9cdfe4f21b3e1c6a44a36936a7621e8acd16256e583d54275355ba8af55ca80a0162b1558864c07007 curve384.n % curve384.n = 0xe5b29a1c7641d281b41558dcd9c3c76cbb82af05c705783fc9cb468dbddd341767ab1b85666d5f1e3851fc982b1d0216 := by decide +kernel

/-- The signature is valid: both multiplications in eight parts each, so that no evaluation is long. -/
theorem test_fw_signature :
    okFwSignature (fwHeader.take 928) (slice fwHeader 640 96) (slice fwHeader 928 96) = true := by
  rw [okFwSignature, fw_digest.1, fw_digest.2.1, fw_digest.2.2.1, fw_digest.2.2.2.1, fw_digest.2.2.2.2, ecdsaOk, if_pos fw_factors.1]
  simp only [fw_factors.2.1, fw_factors.2.2]
  rw [fw_mul0, fw_mul1]
  decide +kernel

theorem test_fw_checks :
    okFwHeader fwHeader = true ∧ okFwKey (fwKeyIndex fwHeader) (slice fwHeader 640 96) fused = true ∧
    ¬(fwSecurity fwHeader < fused.mgmt.securityFloor ∨ fld fwHeader 28 4 ≠ fused.integ.romId) ∧
    (fwTable fwHeader).all (fun x => okSectionData x (slotRead 0 (secOffset x) (secLength x) fused)) = true ∧
    (fwTable fwHeader).any (fun x => decide (secType x = 2 + 1) && okSectionData x (slotRead 0 (secOffset x) (secLength x) fused)) = true := by
  decide +kernel

theorem test_fw_header : headerError fwHeader fused = 0 := by
  unfold headerError
  rw [test_fw_signature, test_fw_checks.1, test_fw_checks.2.1, if_neg (by decide), if_neg (by decide), if_neg test_fw_checks.2.2.1]
  rfl

theorem fwHeader_length : fwHeader.length = 1024 := by decide +kernel

theorem readN_end (l : List Host.Cell) (a n : Nat) (bs : List Byte) (h : l.all (fun e => decide (e.1 < a)) = true)
    (g : bs.length = n) : readN (l ++ bytesAt a bs) a n = bs := by
  apply List.ext_getElem
  · simp [readN, g]
  · intro i _ g
    simp only [readN, List.getElem_map, List.getElem_range]
    rw [cellGet_skip _ _ a _ h (by omega), cellGet_bytesAt, List.getElem?_eq_getElem g]; rfl

theorem cellGet_front (l : List Host.Cell) (a x : Nat) (bs : List Byte) (h : x < a) : cellGet (l ++ bytesAt a bs) x = cellGet l x := by
  induction l with
  | nil => exact cellGet_bytesAt_below bs a x h
  | cons e t ih => simp only [List.cons_append, cellGet, ih]

theorem readN_front (l : List Host.Cell) (a x n : Nat) (bs : List Byte) (h : x + n ≤ a) :
    readN (l ++ bytesAt a bs) x n = readN l x n := by
  simp only [readN]
  apply List.map_congr_left
  intro i g
  exact cellGet_front l a _ bs (by have := List.mem_range.1 g; omega)

theorem read_image (l : List Host.Cell) (h : l.all (fun e => decide (e.1 < 0x100000)) = true) :
    readN (l ++ bytesAt 0x100000 fwHeader) 0x100000 1024 = fwHeader := readN_end l _ _ _ h fwHeader_length

theorem test_fw_read : slotHeader 0 fused = fwHeader := read_image _ (by decide +kernel)

/-- The image boots from slot A, can be staged, and reloads core 2. -/
theorem image_of_header (rd : Nat → Nat → List Byte) (s : State) (hd : rd 0 1024 = fwHeader) (h : headerError fwHeader s = 0)
    (g : (fwTable fwHeader).all (fun x => okSectionData x (rd (secOffset x) (secLength x))) = true) : imageError rd s = 0 := by
  simp only [imageError, hd, h, g]; rfl

theorem test_fw_slot : slotError 0 fused = 0 :=
  image_of_header (fun off n => slotRead 0 off n fused) fused test_fw_read test_fw_header test_fw_checks.2.2.2.1

theorem test_fw_reload : reloadOk 2 fused = true := by
  have h : slotHeader fused.mgmt.slot fused = fwHeader := test_fw_read
  simp only [reloadOk, h, test_fw_header]
  exact test_fw_checks.2.2.2.2

/-- Sections that overlap, a wrong rom_id, a revoked key and a changed section are refused in the order of R416. -/
theorem test_fw_refused :
    (let bad (n t : Nat) (i : Nat) := fwHeader.take (128 + 64 * i) ++ fwSec n t ++ fwHeader.drop (192 + 64 * i)
     okTable [le 48 0 ++ le 4 4096 ++ le 4 4097 ++ le 1 1 ++ zeros 7, le 48 0 ++ le 4 8192 ++ le 4 1 ++ le 1 2 ++ zeros 7] = false ∧
     imageError (imageReader (bad 0 1 0)) fused = 2 ∧ imageError (imageReader (bad 4096 2 0)) fused = 2 ∧
     imageError (imageReader fwHeader) { fused with integ := { fused.integ with revoked := [true] } } = 3 ∧
     imageError (imageReader fwHeader) { fused with integ := { fused.integ with romId := 8 } } = 4 ∧
     imageError (imageReader fwHeader) { fused with mgmt := { fused.mgmt with securityFloor := 10 } } = 4 ∧ slotError 1 fused = 2 ∧
     imageError (imageReader (fwHeader.take 940 ++ zeros 84)) fused = 5) := by decide +kernel

/-- A patch of one word and one redirect, sealed with AES-256-GCM under the key 5 with the nonce 1, with a signature whose two
multipliers are 1, and the block with that key and its signer's hash in a compute reset's step 5. -/
def patchHead : List Byte :=
  le 4 0x50504E59 ++ le 1 2 ++ zeros 1 ++ le 2 1 ++ le 2 1 ++ zeros 2 ++ le 4 7 ++ le 4 3 ++ le 4 0 ++ le 12 1 ++ zeros 12 ++
  le 16 0x7493c0ea88473b994872bbeaaf28a802
def patchE : Nat := 0x683fe4f2d181a9e4e20441bad9b62655b6118fa5a7e81f0be3eeb93cfcdf6ac436301543cc873a85a79acd4999654914
def patch : PatchPkg :=
  { header := patchHead, cipher := le 26 0xf599134374cb9ed470fb0161b296efb723bf4f545f83e7ee0963,
    keySig := le 48 0x7622db50c3b07b30248bf347e720ed478d5ef2482316e727a2955dd54686d2c9ebbfa1fff3e76c57dacc8d97129c4759 ++
      le 48 0xf5511d7bbf00aff61f75e48e5d27b86ec8294a730fd1604ddb5d88749624f223d3d7c74083e85ebdd5d4f349e920b64f ++
      le 48 patchE ++ le 48 patchE }
/-- An image header whose section 6 is as long as the package, and the slot's bytes with it. -/
def patchImage : List Byte := fwHeader.take 500 ++ le 4 282 ++ fwHeader.drop 504
def patchBytes : List Byte := patch.header ++ patch.cipher ++ patch.keySig
def patchSlot : List Host.Cell := bytesAt 0x100000 patchImage ++ bytesAt 0x101000 patchBytes
def patchBlock (key : Nat) : State :=
  { fused with
    mem := { fused.mem with flash := patchSlot },
    integ := { fused.integ with
      mcKey := key,
      keyHashes := [0x63575a8c41f79f12c8232db23a6e5ea0897debe7f547e46b9e01c51bbd5d259667758a77a66c7359dc485342066aaefb] },
    mgmt := { fused.mgmt with bootStage := 3 },
    watch := { fused.watch with stages := [{ Stage.mk0 3 0 7 0 0 false false false with phase := 2 }] } }

theorem patchImage_facts : patchImage.length = 1024 ∧ patchBytes.length = 282 ∧
    ((fwTable patchImage).find? (fun e => secType e == 6)).map (fun e => (secOffset e, secLength e)) = some (4096, 282) ∧
    fwPatchLevel patchImage = 3 ∧ (bytesAt 0x100000 patchImage).all (fun e => decide (e.1 < 0x101000)) = true := by decide +kernel

theorem patchBytes_of : PatchPkg.of patchBytes = patch := by decide +kernel

theorem patchBlock_header (key : Nat) : slotHeader 0 (patchBlock key) = patchImage :=
  (readN_front (bytesAt 0x100000 patchImage) 0x101000 0x100000 1024 patchBytes (by decide)).trans
    (readN_end [] 0x100000 1024 patchImage rfl patchImage_facts.1)

/-- The loader's package is section 6 of the slot that runs. -/
theorem patchBlock_slot (key : Nat) : slotPatch (patchBlock key) = patch := by
  have hs : (patchBlock key).mgmt.slot = 0 := rfl
  obtain ⟨e, he, g⟩ := Option.map_eq_some_iff.1 patchImage_facts.2.2.1
  rw [Prod.mk.injEq] at g
  rw [slotPatch, slotSection, hs, patchBlock_header, he, Option.map_some, Option.getD_some, g.1, g.2]
  rw [show slotRead 0 4096 282 (patchBlock key) = patchBytes from
    readN_end (bytesAt 0x100000 patchImage) 0x101000 282 patchBytes patchImage_facts.2.2.2.2 patchImage_facts.2.1]
  exact patchBytes_of

theorem patch_checks :
    (okFwKey (fld patch.header 20 4) (slice patch.keySig 0 96) (patchBlock 5) &&
      okFwSignature (patch.header ++ patch.cipher) (slice patch.keySig 0 96) (slice patch.keySig 96 96)) = true := by decide +kernel

theorem patch_header (key : Nat) : okPatchHeader patch (patchBlock key) = true := by
  have hs : (patchBlock key).mgmt.slot = 0 := rfl
  have hr : (patchBlock key).integ.romId = 7 := rfl
  simp only [okPatchHeader, hs, hr, patchBlock_header, patchImage_facts.2.2.2.1]
  decide +kernel

theorem okPatch_block (key : Nat) : okPatch patch (patchBlock key) =
    (gcmOpen (be 32 key) (slice patch.header 24 12) (patch.header.take 48) patch.cipher (slice patch.header 48 16)).filter
      (okPatchBody patch.header) := by
  have h : okFwKey (fld patch.header 20 4) (slice patch.keySig 0 96) (patchBlock key) =
    okFwKey (fld patch.header 20 4) (slice patch.keySig 0 96) (patchBlock 5) := rfl
  have hm : (patchBlock key).integ.mcKey = key := rfl
  simp only [okPatch, patchPlain, patch_header, h, hm, Bool.true_and, patch_checks, if_true]

/-- What the command does in step 5 of a compute reset with the running slot's package. -/
theorem patchLoad_runs {pkg : PatchPkg} {s : State} {x : Stage} (hg : stageOf 3 0 s = some x) (hp : x.phase = 2)
    (hc : coreRuns 0 s = true) (ho : s.bramble.overlay = []) (hs : slotPatch s = pkg) :
    after (.patchLoad pkg) s =
    match okPatch pkg s with
    | some p =>
      { s with
        bramble := { s.bramble with
          overlay := controlWords pkg.header p,
          redirect := (redirects pkg.header p).foldl (fun (t : Tab Nat) r => tset t r.1 r.2.1) [] },
        mgmt := { s.mgmt with patchLevel := fld pkg.header 16 4 } }
    | none => s.modMgmt (fun m => { m with bootError := 6, bootStage := if m.bootStage = 3 then 0xF else m.bootStage }) := by
  have h : patchLoad pkg s = after (.patchLoad pkg) s := rfl
  rw [← h, patchLoad, hg]
  cases okPatch pkg s <;> simp only [hp, hc, ho, hs, ne_eq, not_true_eq_false, Bool.true_eq_false, or_self, if_false]

/-- What a test looks at after a load, and after a load that fails. -/
def patched (t : State) : List (BitVec 176) × Tab Nat × Nat := (t.bramble.overlay, t.bramble.redirect, t.mgmt.patchLevel)
def unpatched (t : State) : List (BitVec 176) × Nat × Nat := (t.bramble.overlay, t.mgmt.bootError, t.mgmt.bootStage)

theorem patchBlock_runs (key : Nat) :
    stageOf 3 0 (patchBlock key) = some { Stage.mk0 3 0 7 0 0 false false false with phase := 2 } ∧
    coreRuns 0 (patchBlock key) = true ∧ (patchBlock key).bramble.overlay = [] ∧ (patchBlock key).mgmt.bootStage = 3 :=
  ⟨rfl, rfl, rfl, rfl⟩

theorem patchLoad_some {key : Nat} {p : List Byte} (h : okPatch patch (patchBlock key) = some p) :
    patched (after (.patchLoad patch) (patchBlock key)) = (controlWords patch.header p,
        (redirects patch.header p).foldl (fun (t : Tab Nat) r => tset t r.1 r.2.1) [], fld patch.header 16 4) := by
  have r := patchBlock_runs key
  rw [patchLoad_runs r.1 rfl r.2.1 r.2.2.1 (patchBlock_slot key), h, patched]

theorem patchLoad_none {key : Nat} (h : okPatch patch (patchBlock key) = none) :
    unpatched (after (.patchLoad patch) (patchBlock key)) = ([], 6, 0xF) := by
  have r := patchBlock_runs key
  rw [patchLoad_runs r.1 rfl r.2.1 r.2.2.1 (patchBlock_slot key), h, unpatched]
  simp only [State.modMgmt, r.2.2.1, r.2.2.2, if_true]

theorem test_patchLoad : patched (after (.patchLoad patch) (patchBlock 5)) = ([1 + 2 ^ 44 + 2 ^ 88 + 2 ^ 132], [(5, 0)], 3) := by
  have h : okPatch patch (patchBlock 5) = some (le 4 5 ++ le 22 (1 + 2 ^ 44 + 2 ^ 88 + 2 ^ 132)) := by
    rw [okPatch_block]; decide +kernel
  rw [patchLoad_some h]
  decide +kernel

/-- Under another key the tag does not match. -/
theorem test_patchLoad_tag : unpatched (after (.patchLoad patch) (patchBlock 6)) = ([], 6, 0xF) :=
  patchLoad_none (by rw [okPatch_block]; decide +kernel)

/-- A word of even parity is refused; outside a compute reset, and with a package that is not the running slot's, nothing is loaded. -/
theorem test_patchLoad_refused :
    after (.patchLoad patch) fused = fused ∧
    (let s : State := { up with
       mgmt := { fused.mgmt with bootStage := 3 }, watch := { up.watch with stages := [{ Stage.mk0 3 0 7 0 0 false false false with phase := 2 }] } }
     after (.patchLoad patch) s = s) ∧
    okPatchBody patchHead (le 4 5 ++ le 22 0) = false := by decide +kernel

/-- The directories that the two copies hold. -/
def dirs2 (t : State) : List (Option BootDir) := [dirAt 0 t, dirAt 1 t]

/-- The block with cores that run, in an update state, slot A with a security_version of 9 only. -/
def upd (u : UpdState) (f : Mgmt → Mgmt) : State := { fused with
    mem := { fused.mem with flash := bytesAt 0 (BootDir.bytes ⟨0, some 1, 0, 4⟩) ++ bytesAt 0x8000 (BootDir.bytes ⟨0, some 1, 2, 5⟩) ++
      [(0x100010, 9)] },
    mgmt := f { fused.mgmt with updState := u } }

theorem test_updateStage :
    (let busy := upd .staging (fun m => { m with updBusy := true })
     (after (.updateStage 31744) up).mgmt.updState = .staging ∧ (after (.updateStage 31744) up).mgmt.updBusy = true ∧
     (after (.updateStage 31745) up).mgmt.updResult = 3 ∧ (after (.updateStage 0) up).mgmt.updResult = 3 ∧
     after (.updateStage 5) State.reset = State.reset ∧ after (.updateStage 5) busy = bar0Err 3 0x70208 busy ∧
     after (.updateActivate true) busy = bar0Err 3 0x70208 busy ∧ after .updateCancel busy = bar0Err 3 0x70208 busy ∧
     after (.updateActivate true) State.reset = State.reset ∧ after .updateCancel State.reset = State.reset) := by decide +kernel

/-- With no capability agreed nothing can be lacking; the emergency holds the activation until it clears. -/
theorem test_updateActivate :
    (let s (f : State → State) := f (let x := upd .staged id; { x with hub := { x.hub with agreedCaps := 0 } })
     let hot (x : State) : State := { x with power := { x.power with therm := true } }
     let stop (x : State) : State := { x with mgmt := { x.mgmt with cores := List.replicate 4 Core.reset } }
     s id = s (fun x => { x with hub := { x.hub with agreedCaps := x.hub.agreedCaps } }) ∧
     (after (.updateActivate true) (s id)).mgmt.updState = .quiescing ∧ (after (.updateActivate true) (s id)).mgmt.raiseFloor = true ∧
     (after (.updateActivate true) (s hot)).mgmt.updState = .pendingEmergency ∧
     (after (.updateActivate true) (s stop)).mgmt.updState = .staged ∧ (after (.updateActivate true) (s stop)).mgmt.updBusy = true ∧
     (after (.updateActivate true) fused).mgmt.updResult = 2 ∧
     (after .updateEmergencyCleared (upd .pendingEmergency id)).mgmt.updState = .quiescing ∧
     (after .updateEmergencyCleared (hot (upd .pendingEmergency id))).mgmt.updState = .pendingEmergency ∧
     after .updateEmergencyCleared fused = fused) := by decide +kernel

/-- A capability that no image offers is lacking, whatever the staged image offers. -/
theorem test_updateActivate_caps :
    let s := upd .staged id
    let s : State := { s with hub := { s.hub with agreedCaps := 2 ^ 64 } }
    s.hub.agreedCaps &&& (Config.imageCaps (slotHeader (1 - s.mgmt.slot) s)).toNat ≠ s.hub.agreedCaps := by
  intro s s' h
  have := (Config.imageCaps (slotHeader (1 - s'.mgmt.slot) s')).isLt
  have := Nat.and_le_right (n := s'.hub.agreedCaps) (m := (Config.imageCaps (slotHeader (1 - s'.mgmt.slot) s')).toNat)
  rw [h] at this
  exact absurd this (by show ¬(2 ^ 64 ≤ _); omega)

theorem test_updateCancel :
    (after .updateCancel (upd .staged id)).mgmt.updResult = 8 ∧ (after .updateCancel (upd .pendingEmergency id)).mgmt.updResult = 8 ∧
    (after .updateCancel fused).mgmt.updResult = 2 ∧
    (let s := upd .staged (fun m => { m with updBusy := true }); after .updateCancel s = bar0Err 3 0x70208 s) := by decide +kernel

/-- An image that does not pass, and one of a wrong version; the host memory then holds what was read. -/
theorem test_stagingDone :
    (let s := upd .staging (fun m => { m with updLength := 1, securityFloor := 0 })
     let t := after (.stagingDone [7] true) s
     (t.mgmt.updResult, t.mgmt.updState) = (3, .idle) ∧ memRead (pfLoc s.mgmt.updAddr) 2 t = [7, 0] ∧ t.mem.flash = s.mem.flash ∧
     (after (.stagingDone fwHeader true) { s with mgmt := { s.mgmt with securityFloor := 10 } }).mgmt.updResult = 4 ∧
     after (.stagingDone fwHeader true) fused = fused) := by decide +kernel

/-- One that passes as its 4 KiB are staged; a slot that is programmed with some bytes, the other one untouched. -/
theorem test_stagingDone_passes (s : State) (h : headerError fwHeader s = headerError fwHeader fused) :
    imageError (imageReader fwHeader) s = 0 :=
  image_of_header _ _ (by decide +kernel) (h.trans test_fw_header) (by decide +kernel)

theorem test_programSlot :
    (let t := programSlot 1 [1, 0, 3] { fused with mem := { fused.mem with flash := bytesAt 0x2100000 [9, 9, 9, 9] ++ [(0x4000000, 5)] } }
     slotRead 1 0 5 t = [1, 0, 3, 0, 0] ∧ t.mem.flash = [(0x2100000, 1), (0x2100002, 3), (0x4000000, 5)]) := by decide +kernel

theorem test_updateQuiesced :
    (let busy (c : Core) : Core := { c with mailbox := [.reportForward], inService := [.selftest 1, .selftest 2] }
     let s := upd .quiescing (fun m => { m with cores := m.cores.modify 3 busy })
     let s : State := { s with mgmt := { s.mgmt with cores := s.mgmt.cores.modify 2 (fun c => { c with state := .reloading, reloadFailed := true }) } }
     let t := after .updateQuiesced s
     t.mgmt.updState = .loading ∧ t.mgmt.slot = 1 ∧ dirs2 t = [some ⟨0, some 1, 1, 6⟩, some ⟨0, some 1, 2, 5⟩] ∧
     t.mgmt.cores.map (·.state) = [.dumping, .dumping, .reloading, .dumping] ∧
     (coreAt 3 t).mailbox = [.selftest 1, .selftest 2, .reportForward] ∧ (coreAt 3 t).returned = 2 ∧ after .updateQuiesced fused = fused) := by
  decide +kernel

theorem test_updateEnds :
    (let bad := upd .loading (fun m => { m with loadFailed := true })
     let p (t : W64) : State := { upd .probation (fun m => { m with slot := 0, raiseFloor := true, updBusy := true }) with time := t }
     let late := after (.updateLoaded true) { bad with mgmt := { bad.mgmt with cores := bad.mgmt.cores.modify 0 (fun c => { c with state := .reloading }) } }
     (after (.updateLoaded true) (upd .loading id)).mgmt.updState = .probation ∧ after (.updateLoaded false) (upd .loading id) = upd .loading id ∧
     (after (.updateLoaded false) bad).mgmt.updState = .rollingBack ∧ (after (.updateLoaded true) bad).mgmt.slot = 1 ∧
     dirs2 (after (.updateLoaded false) bad) = [some ⟨0, none, 2, 6⟩, some ⟨0, some 1, 2, 5⟩] ∧
     (late.mgmt.updState, late.mgmt.slot, late.mgmt.rollbackDue) = (.rollingBack, 0, true) ∧ after .rollbackDone late = late ∧
     (after .probationExpiry (p 1000000000)).mgmt.securityFloor = 9 ∧ (after .probationExpiry (p 1000000000)).mgmt.updState = .idle ∧
     after .probationExpiry (p 999999999) = p 999999999 ∧
     (after .rollbackDone (upd .rollingBack id)).mgmt.updResult = 7 ∧ after .rollbackDone fused = fused) := by decide +kernel

/-- A block in reset start-up with directories d0 and d1. -/
def booting (d0 d1 : Option BootDir) : State :=
  { fused with mem := { fused.mem with flash := flashOf d0 d1 }, mgmt := { fused.mgmt with cores := List.replicate 4 Core.reset },
               integ := { fused.integ with fastGib := 8, spillGib := some 3 } }

/-- Both slots are empty: the trial, the retry and no directory. -/
theorem test_boot_fails :
    (let bad (d : Option BootDir) : State := { fused with mem := { fused.mem with flash := bytesAt 0 ((d.map BootDir.bytes).getD []) } }
     let f (d : Option BootDir) := let t := after .bootLoadDone (bad d); (t.mgmt.bootStage, t.mgmt.bootError, dirs2 t)
     f (some ⟨0, some 1, 2, 5⟩) = (0xF, 2, [some ⟨0, some 1, 2, 5⟩, some ⟨0, some 1, 1, 6⟩]) ∧
     f (some ⟨0, some 1, 0, 5⟩) = (0xF, 2, [some ⟨0, some 1, 0, 5⟩, some ⟨0, none, 0, 6⟩]) ∧ f none = (0xF, 2, [none, none]) ∧
     after .bootLoadDone { fused with mgmt := { fused.mgmt with bootStage := 3 } } = { fused with mgmt := { fused.mgmt with bootStage := 3 } }) := by
  decide +kernel

/-- Slot A boots first, and after slot B has failed as a trial. -/
theorem test_boot_order :
    bootOrder (currentDir (booting none (some ⟨0, some 1, 2, 5⟩))) = ([1, 0], some ⟨0, some 1, 1, 5⟩) ∧
    bootOrder (currentDir (booting none none)) = ([0, 1], none) ∧ slotError 1 (booting none none) = 2 ∧
    (∀ g ∈ fused.watch.stages, g.stage ≠ 3 ∧ g.stage ≠ 4) ∧ (booting none none).mgmt.bootStage = 0 := by decide +kernel

theorem test_boot_slot : slotError 0 (booting none none) = 0 :=
  image_of_header _ _ (read_image _ rfl)
    ((show headerError fwHeader (booting none none) = headerError fwHeader fused from rfl).trans test_fw_header) (by decide +kernel)

/-- A slot's code is loaded and runs, with MC0's first work; that work brings the tiers up and orders the compute reset. -/
theorem test_bootSetup :
    (let s := fused
     let s : State := { s with integ := { s.integ with fastGib := 8, spillGib := some 3 }, mgmt := { s.mgmt with bootStage := 2 } }
     let t := after (.mailboxItem 0) (pushWork 0 .bootSetup s)
     (t.mgmt.bootStage, t.wrd.fastGib, t.watch.spillValid, t.watch.spillBase) = (3, 8, true, 3 * 2 ^ 30) ∧
     (stageOf 3 0 t).map (·.cause) = some 3 ∧ (coreAt 0 t).mailbox = [] ∧ (coreAt 0 t).inService = [] ∧
     (let x : State := { s with mem := { s.mem with flash := bytesAt 0x100000 (fwHeader.take 180 ++ le 4 3 ++ fwHeader.drop 184) ++ [(0x101001, 8)] } }
      (coreAt 0 (runCore 0 0 x)).tcm = [(1, 8)] ∧ (coreAt 0 (runCore 0 0 x)).state = .running)) := by decide +kernel

theorem test_bootCommit :
    (let s := upd .idle (fun m => { m with bootedPending := true, slot := 1 })
     let t := after .bootCommit s
     t.mgmt.bootedPending = false ∧ dirs2 t = [some ⟨1, none, 0, 6⟩, some ⟨0, some 1, 2, 5⟩] ∧ after .bootCommit fused = fused ∧
     (let p := upd .probation (fun m => { m with bootedPending := true }); after .bootCommit p = p)) := by decide +kernel

theorem test_hostCaps :
    (let s : State := { up with mgmt := { fused.mgmt with fwReady := true }, hub := { up.hub with devCaps := 0x8F } }
     let t := after (.hostCapsWrite 0xFFFFFFFFFFFFFFF3) s
     (t.hub.hostCaps, t.hub.agreedCaps, t.hub.capsValid) = (0x7FFFFFFFFFFFFFF3, 0x83, true) ∧ t.mgmt.cores.map (·.wdtEnable) = [true, true, true, true] ∧
     after (.hostCapsWrite 1) { s with tenants := upT.tenants } = bar0Err 3 0x408 { s with tenants := upT.tenants } ∧
     after (.hostCapsWrite 1) up = bar0Err 4 0x408 up ∧ after (.hostCapsWrite 1) State.reset = State.reset) := by decide +kernel

/-- A trap frame, and cores that run: core 1 with work in service and restarts at the times given. -/
def trap0 : TrapFrame := { mepc := 0x80001234, mcause := 2, mtval := 3, regs := [7], stack := [1, 2] }
def working (t : W64) (l : List Nat) (u : UpdState) : State :=
  let s := upd u (fun m => { m with cores := m.cores.modify 1 (fun c =>
    { c with restarts := l, inService := [.selftest 1], mailbox := [.reportForward], wdtEnable := true }) })
  { s with time := t }

theorem test_coreFails :
    (let s := working 100000000 [1] .idle
     let t := after (.mcWatchFlag 1 trap0) s
     let w := after (.watchdogExpiry 1 trap0) s
     let f := after (.fatalTrap 1 trap0) (working 2000000 [1, 2, 3] .idle)
     s.mgmt.fwInForce = 20 ∧ (coreAt 1 s).wdtTimeout = 1000 ∧
     (coreAt 1 t).state = .dumping ∧ (coreAt 1 t).cause = 1 ∧ (coreAt 1 t).mailbox = [.selftest 1, .reportForward] ∧ (coreAt 1 t).returned = 1 ∧
     t.mgmt.restarts = 1 ∧ t.jnl.events = [] ∧ after (.mcWatchFlag 1 trap0) (working 1999999 [1] .idle) = working 1999999 [1] .idle ∧
     (coreAt 1 w).cause = 2 ∧ (coreAt 1 w).wdtExpiries = 1 ∧ after (.watchdogExpiry 2 trap0) s = s ∧
     after (.watchdogExpiry 1 trap0) (working 99999999 [1] .idle) = working 99999999 [1] .idle ∧
     (coreAt 1 f).state = .failed ∧ f.jnl.events.map (·.words) = [[1 + 3 * 2 ^ 8 + 2 ^ 16 + 4 * 2 ^ 32, 0x80001234, 1, 0]] ∧
     f.hutch.nextSeq = 1 ∧ (coreAt 1 (after (.settlePanic 1 trap0) s)).cause = 4) := by decide +kernel

/-- All four stop, the FIRMWARE record of core 3 waiting for MC1, and during probation the rollback for MC0. -/
theorem test_memoryError :
    (let s (u : UpdState) : State := let x := working 2000000 [1, 2, 3] u
       { x with mgmt := { x.mgmt with cores := x.mgmt.cores.modify 3 (fun c => { c with restarts := [1, 2, 3] }) } }
     let t := after (.memoryError none trap0) (s .probation)
     (coreAt 1 (after (.memoryError (some 1) trap0) (s .idle))).cause = 5 ∧
     t.mgmt.cores.map (·.state) = [.dumping, .failed, .dumping, .failed] ∧ t.mgmt.cores.map (·.cause) = [5, 5, 5, 5] ∧
     (coreAt 1 t).mailbox.length = 3 ∧ (t.mgmt.updState, t.mgmt.rollbackDue, t.mgmt.shared) = (.rollingBack, true, []) ∧
     after (.memoryError (some 0) trap0) up = up ∧ after (.fatalTrap 0 trap0) up = up ∧ after (.settlePanic 0 trap0) up = up) := by decide +kernel

/-- A failure during probation rolls back: the core that failed dumps with its cause, the others with none. -/
theorem test_coreFails_probation :
    (let t := after (.fatalTrap 1 trap0) (working 2000000 [] .probation)
     let z := after (.fatalTrap 0 trap0) (working 2000000 [] .probation)
     t.mgmt.updState = .rollingBack ∧ t.mgmt.slot = 1 ∧ (coreAt 1 t).mailbox = [.selftest 1, .reportForward] ∧
     t.mgmt.cores.map (fun c => (c.state, c.cause)) = [(.dumping, 0), (.dumping, 3), (.dumping, 0), (.dumping, 0)] ∧
     dirs2 t = [some ⟨0, none, 2, 6⟩, some ⟨0, some 1, 2, 5⟩] ∧
     (z.mgmt.updState, z.mgmt.slot, z.mgmt.rollbackDue) = (.rollingBack, 0, true)) := by
  decide +kernel

/-- The FIRMWARE record, which waits for MC1, and a reload that fails once, twice, and during probation. -/
theorem test_reload :
    (let s := after (.fatalTrap 1 trap0) (working 2000000 [] .idle)
     let d := after (.mcDumpDone 1) s
     let r := after (.mcReloadDone 1 false) d
     let f := after (.mcReloadDone 1 false) r
     let p := after (.mcReloadDone 1 false) { r with mgmt := { r.mgmt with updState := .probation } }
     let w := after (.fatalTrap 2 trap0) s
     let l := after (.mcReloadDone 1 false) { d with mgmt := { d.mgmt with updState := .loading } }
     (coreAt 1 d).state = .reloading ∧ d.hutch.nextSeq = 1 ∧ after (.mcDumpDone 1) fused = fused ∧ (d.hutch.log.map (·.length)) = [1216] ∧
     ((d.hutch.log[0]?).map (fun b => [fld b 1 1, fld b 32 1, fld b 33 1, fld b 34 1, fld b 36 4])) = some [0x0E, 1, 3, 2, 0x80001234] ∧
     (coreAt 2 w).state = .dumping ∧ after (.mcDumpDone 2) w = w ∧ l.mgmt.loadFailed = true ∧
     (coreAt 1 r).reloadFailed = true ∧ (coreAt 1 r).state = .reloading ∧ (coreAt 1 f).state = .failed ∧ f.hutch.nextSeq = 2 ∧
     f.jnl.events.length = 1 ∧ p.mgmt.updState = .rollingBack ∧ after (.mcReloadDone 1 true) fused = fused) := by decide +kernel

/-- What a reload of core 0 brings up or resumes, a rollback among it. -/
theorem test_reload_core0 :
    (let s : State := upd .staged (fun m => { m with updBusy := true, bootStage := 3 })
     let s : State := { s with integ := { s.integ with deviceCaps := 0x8F } }
     let b := resumeMc0 (upd .rollingBack (fun m => { m with rollbackDue := true }))
     (finishStart (resumeActivate s)).mgmt.updState = .quiescing ∧ (finishStart s).mgmt.bootStage = 4 ∧ (finishStart s).hub.devCaps = 0x8F ∧
     (b.mgmt.slot, b.mgmt.rollbackDue, b.mgmt.updState) = (1, false, .rollingBack) ∧
     (finishStart { s with time := 50000001 }).mgmt.bootStage = 0xF) := by decide +kernel

theorem test_mailboxItem :
    (let s (w : Work) : State := upd .idle (fun m => { m with cores := m.cores.modify 1 (fun c => { c with mailbox := [w, .reportForward] }) })
     let seen (t : State) := ((coreAt 1 t).mailbox, (coreAt 1 t).inService)
     let mo : Work := .mapout { tier := .slow, channel := 1, lost := false, units := [], source := 0, removed := 0, invalidated := 0, outcome := 0, tenant := 0 }
     seen (after (.mailboxItem 1) (s .reportForward)) = ([.reportForward], []) ∧ seen (after (.mailboxItem 1) (s mo)) = ([.reportForward], [mo]) ∧
     seen (after (.mailboxItem 1) (s (.selftest 4))) = ([.reportForward], []) ∧ seen (after (.mailboxItem 1) (s (.log 1 1 1))) = ([.reportForward], []) ∧
     seen (after (.mailboxItem 1) (let x := s (.selftest 4); { x with power := { x.power with tests := [(4, 0)] } })) = ([.reportForward], [.selftest 4]) ∧
     after (.mailboxItem 2) (s mo) = s mo ∧ after (.mailboxItem 1) up = up) := by decide +kernel

/-- MC1's mailbox holds an item. -/
def has (w : Work) : State := upd .idle (fun m => { m with cores := m.cores.modify 1 (fun c => { c with mailbox := [w] }) })

/-- A self-test that runs begins again, unless its reset is under way. -/
theorem test_mailboxItem_test :
    (let r (st : List Stage) : State :=
       { has (.selftest 4) with time := 99, power := { (has (.selftest 4)).power with tests := [(4, 0, 0, true, 5)] },
                                watch := { (has (.selftest 4)).watch with stages := st } }
     (after (.mailboxItem 1) (r [])).power.tests = [(4, 0, 0, true, 99)] ∧
     (after (.mailboxItem 1) (r [Stage.mk0 2 4 7 0 0 false false true])).power.tests = [(4, 0, 0, true, 5)]) := by decide +kernel

/-- A bank test begins again at bank 0; a FIRMWARE record is written. -/
theorem test_mailboxItem_more :
    (let x := has (.bankTest 4)
     let t := after (.mailboxItem 1) { x with time := 99, power := { x.power with bankPass := some (some (4, 0), 5, 2, 0), bankOut := [5] } }
     let u := after (.mailboxItem 1) (has (.firmwareRecord 2 (zeros 1184)))
     (coreAt 1 t).inService = [.bankTest 4] ∧ t.power.bankOut = [] ∧ t.power.bankPass.map (·.2) = some (0, 0, 99) ∧
     u.hutch.nextSeq = 1 ∧ (coreAt 1 u).inService = []) := by decide +kernel

/-- A log entry of a level that is written, at place 17 of a ring of 64. -/
theorem test_log :
    (let s := upd .idle (fun m => { m with cores := m.cores.modify 1 (fun c => { c with mailbox := [.log 2 1 1] }) })
     let s : State := { s with jnl := { s.jnl with logBase := 0x30000, logLog2 := 6, logMin := 2, logProd := 81 } }
     let t := after (.mailboxItem 1) s
     hostDropped (pfLoc 0x30440) s = false ∧ s.mem.wf = true ∧ t.jnl.logProd = 82) := by decide +kernel

/-- Three partitions; MC3 runs. -/
def cool (f : Power → Power) : State :=
  { up with
    integ := { up.integ with slices := 3, banks := 66 }, power := f up.power,
    mgmt := { up.mgmt with cores := List.replicate 4 { Core.reset with state := .running } } }

theorem test_triggers :
    (let s : State := { cool id with time := 77 }
     let r : State := { s with port := { s.port with blkRstN := false } }
     let lv (t : State) := t.power.level
     (lv (after (.pwrSag 3) s), lv (after (.pwrSag 7) s), lv (after (.pwrSag 8) s)) = (3, 6, 0) ∧
     (after (.pwrSag 3) s).power.levelChanges = 1 ∧ (after (.pwrSag 3) s).power.belowSince = 77 ∧
     (after (.pwrSag 3) s).jnl.events.map (fun e => (e.code, e.words)) = [(5, [0x10300, 3, 0, 1])] ∧
     (vfAt 2 (after (.pwrSag 5) s)).requested = 16 ∧ (vfAt 2 (after (.pwrSag 3) s)).requested = 64 ∧
     (after (.pwrSag 3) s).port.out = [.vfReq 0 64, .vfReq 1 64, .vfReq 2 64] ∧
     (after (.pwrSag 6) s).power.s6At = 77 ∧ lv (after (.thermAlert true) s) = 4 ∧ lv (after (.thermAlert false) s) = 0 ∧
     after (.pwrSag 3) r = { r with power := { r.power with sag := 3 } } ∧
     after (.thermAlert true) r = { r with power := { r.power with therm := true } }) := by decide +kernel

theorem test_temperatures :
    (let lv (k v : Nat) (s : State) := (after (.temperatureInput k v) s).power.level
     let s := cool id
     [lv 63 84 s, lv 63 85 s, lv 2 95 s, lv 2 102 s, lv 0 110 s, lv 3 110 s] = [0, 1, 3, 5, 6, 0] ∧
     (let t := after (.temperatureInput 2 95) s
      let u := after (.temperatureInput 2 93) t
      (u.power.tempDemand, (after (.temperatureInput 2 92) u).power.tempDemand, (after (.temperatureInput 2 92) u).power.level) = (3, 1, 3) ∧
      (after (.temperatureInput 2 92) u).power.belowSince = 0)) := by decide +kernel

/-- Partition 1 asks for less than it has, its cap two codes above the floor. -/
def low1 (n : W64) : State :=
  { cool (fun w => { w with vf := [(1, { Vf.reset 64 with cap := 18, requested := 20, granted := 40 })] }) with time := n }

theorem test_supplies :
    (let v (c : Instr) := let x := vfAt 1 (after c (low1 0)); [x.supply, b2n x.low, x.cap, x.granted, x.overgrants, b2n x.late]
     v (.vminTimer 1 849) = [849, 1, 16, 40, 0, 0] ∧ v (.vminTimer 1 850) = [850, 0, 18, 40, 0, 0] ∧
     (after (.vminTimer 1 849) (low1 0)).power.level = 3 ∧ v (.limiterCapStep 1 849) = [849, 0, 16, 40, 0, 0] ∧
     v (.limiterCapStep 1 900) = [900, 0, 22, 40, 0, 0] ∧ v (.vfGrant 1 20) = [0, 0, 18, 20, 0, 0] ∧
     v (.vfGrant 1 41) = [0, 0, 18, 20, 1, 0]) := by decide +kernel

theorem test_grant_timeout :
    (let s := low1 0
     let t (n : W64) := after (.vfGrantTimeout 1) (low1 n)
     (t 5000).power.level = 6 ∧ (vfAt 1 (t 5000)).late = true ∧ (t 4999).power.level = 0 ∧
     after (.vfGrantTimeout 0) s = s ∧ after (.vfGrant 3 1) s = s ∧ after (.vminTimer 3 1) s = s ∧ after (.limiterCapStep 3 1) s = s ∧
     after (.vfGrantTimeout 3) s = s) := by decide +kernel

theorem test_hold :
    (let s (n : W64) : State := { cool (fun w => { w with level := 6, quiesced := true, sag := 5, belowSince := 9 }) with time := n }
     let t := after .shedHoldExpiry (s 1000009)
     (t.power.level, t.power.belowSince, t.power.levelChanges, t.power.quiesced) = (5, 1000009, 1, false) ∧
     after .shedHoldExpiry (s 1000008) = s 1000008 ∧ after .shedHoldExpiry t = t ∧ t.jnl.events.length = 1) := by decide +kernel

theorem test_quiesce :
    (let s : State := cool (fun w => { w with level := 6 })
     let busy : State := { s with sched := { s.sched with residencies := [(0, { ctx := 3, owner := .graph, count := 1, benches := [], running := true, cmd := none, blockedAt := none, placedAt := 0, saveFrames := [], saved := false, moving := false, streams := [], regs := [] })] } }
     let t := after .quiesceDump s
     t.power.quiesced = true ∧ t.power.quiesceSlot = 0xFF ∧ t.hutch.nextSeq = 1 ∧ t.hutch.nextSlot = s.hutch.nextSlot ∧ spillOn s = false ∧ after .quiesceDump t = t ∧
     after .quiesceDump busy = busy ∧ (after .quiesceDump { busy with time := 1000000 }).power.quiesced = true) := by decide +kernel

/-- A command that runs an OP_SELFTEST of a target, flags and an index, by the physical function. -/
def testing (target flags p : Nat) (f : State → State) : State :=
  let s := upRun (entryP 0x14 (le 1 target ++ le 1 flags ++ le 2 p ++ le 4 1 ++ le 8 0x40))
  f { s with
    contexts := s.contexts.map (fun e => (e.1, { e.2 with rcd := { e.2.rcd with fn := 0 } })), integ := (cool id).integ, mgmt := (cool id).mgmt }

def busyPart (s : State) : State := { s with sched := { s.sched with benches := [(9, { state := .held, res := none, claim := none })] } }
def inPass (s : State) : State := { s with power := { s.power with bankPass := some (none, 4, 0, 0) } }
def selftested (s : State) : State := after (.opSelftest 3 1 0xFFFFFFFE) s

theorem test_opSelftest :
    (let l (s : State) := (at0 (selftested s)).map (·.latch)
     let t := selftested (testing 1 0 2 busyPart)
     l { testing 1 0 2 id with contexts := (upC .active).contexts } = some (some ⟨.access, 1⟩) ∧ l (testing 1 1 2 busyPart) = some (some ⟨.busy, 3⟩) ∧
     l (testing 1 0 2 busyPart) = some none ∧ t.power.tests = [(2, qkey 3 1, 0xFFFFFFFE, false, 0)] ∧ t.sched.unusable = [2] ∧
     (coreAt 3 t).mailbox = [.selftest 2] ∧ (selftested (testing 1 1 2 id)).power.tests.length = 1 ∧
     (let hot (s : State) : State := { s with power := { s.power with level := 2 } }
      l (testing 1 0 2 hot) = some (some ⟨.shed, 2⟩) ∧ l (testing 2 0 0 hot) = some (some ⟨.shed, 2⟩) ∧ l (testing 1 1 2 (fun s => busyPart (hot s))) = some (some ⟨.busy, 3⟩))) := by decide +kernel

theorem test_opSelftest_banks :
    (let l (s : State) := (at0 (selftested s)).map (·.latch)
     l (testing 2 1 0 inPass) = some (some ⟨.busy, 3⟩) ∧ (selftested (testing 2 0 0 inPass)).power.bankPass = some (none, 4, 0, 0) ∧
     (selftested (testing 2 0 0 id)).power.bankPass = some (some (qkey 3 1, 0xFFFFFFFE), 0, 0, 0) ∧ waitingBankTests (testing 2 0 0 id) = [] ∧
     (coreAt 3 (selftested (testing 2 0 0 id))).mailbox = [.bankTest 0]) := by decide +kernel

/-- Queued tests and waiting jobs are shed. -/
theorem test_shed :
    (let s := after (.opSelftest 3 1 0xFFFFFFFE) (testing 1 0 2 id)
     let t := after (.pwrSag 1) s
     let j := after (.opLaunchGraph 3 1 0xFFFFFFFE) { upRun (entry 5) with sched := { (upRun (entry 5)).sched with unusable := List.range 40 } }
     t.power.tests = [] ∧ (at0 t).map (·.latch) = some (some ⟨.shed, 1⟩) ∧ t.sched.unusable = [] ∧
     j.sched.jobs.map (fun e => e.2.cmd) = [some (qkey 3 1, 0xFFFFFFFE)] ∧ (at0 j).map (·.latch) = some none ∧
     (at0 (after (.pwrSag 6) j)).map (·.latch) = some (some ⟨.shed, 6⟩)) := by decide +kernel

/-- The test of partition 2 in MC3's service, and run. -/
def taken2 : State := after (.mailboxItem 3) (after (.opSelftest 3 1 0xFFFFFFFE) (testing 1 0 2 id))
def run2 : State := after (.selftestRun 2) taken2
/-- The partition reset of that test, at its last channel. -/
def tested2 (detail : Nat) : State :=
  let x := after (.selftestDone 2 detail) { run2 with time := 700 }
  after (.channelReady .fast 23) { x with time := 900, watch := { x.watch with stages := x.watch.stages.map (fun y =>
    { y with phase := 4, ready := [16, 17, 18, 19, 20, 21, 22] }) } }

/-- The test of partition 2 is taken and runs. -/
theorem test_selftestRun :
    (let s := taken2
     let r := run2
     let held : State := { s with sched := { s.sched with benches := [(9, { state := .held, res := none, claim := none })] } }
     hasService 3 (.selftest 2) s = true ∧ r.power.tests = [(2, qkey 3 1, 0xFFFFFFFE, true, 0)] ∧ (benchAt 9 r).state = .out ∧ (benchAt 12 r).state = .free ∧
     after (.selftestRun 2) held = held ∧ after (.selftestRun 2) r = r ∧ after (.selftestDone 2 0) s = s ∧ after (.selftestRun 1) s = s) := by decide +kernel

/-- Its end orders the reset, after a pass as after a failure. -/
theorem test_selftestDone :
    (let r := run2
     let p := after (.selftestDone 2 0) { r with time := 700 }
     let g := after (.selftestDone 2 3) { r with time := 700 }
     (stageOf 2 2 p).map (fun g => (g.test, g.cause, g.at_)) = some (true, 7, 700) ∧ p.watch.partitionResets = 1 ∧ p.hutch.nextSlot = r.hutch.nextSlot ∧
     (stageOf 2 2 g).map (fun g => (g.test, g.detail)) = some (true, 3) ∧ g.power.tests = r.power.tests ∧ after (.selftestDone 2 3) p = p) := by decide +kernel

theorem test_selftest_results :
    (let f := tested2 3
     let y := tested2 0
     (benchAt 9 y).state = .clearing ∧ y.power.failedParts = [] ∧ y.power.tests = [] ∧ (benchAt 9 f).state = .out ∧
     f.power.failedParts = [2] ∧ f.power.selftestsFailed = 1 ∧ f.power.tests = [] ∧
     (at0 f).map (fun m => (m.latch, m.results.map (·.data))) = some (some ⟨.ok, 0⟩, [le 8 (9 * 2 ^ 32 + 0x301)]) ∧ (coreAt 2 f).mailbox = [.log 0 3 2] ∧
     (coreAt 3 f).inService = []) := by decide +kernel

/-- The block in a bank pass. -/
def banked (cmd : Option (Nat × Nat)) (n bad : Nat) (out : List Nat) (s : State) : State :=
  { s with power := { s.power with bankPass := some (cmd, n, bad, 0), bankOut := out } }

theorem test_bankTest :
    (let s := banked none 5 1 []
     let c := cool id
     let live (x : State) : State := { x with chest := { x.chest with queues := (upCells 4 0 0 none none up).chest.queues } }
     (after (.bankTest 5) (s c)).power.bankOut = [5] ∧ after (.bankTest 63) (s c) = s c ∧
     (let b : State := { s c with power := { (s c).power with bankBad := [5] } }; (after (.bankTest 5) b).power.bankPass = some (none, 6, 1, 0)) ∧
     after (.bankTest 64) (banked none 64 1 [64] c) = banked none 64 1 [64] c ∧
     (after (.bankTest 1) (live (banked none 1 1 [] c))).power.bankPass = some (none, 2, 1, 0) ∧
     (after (.bankTest 0) c).power.bankPass = some (none, 0, 0, 0) ∧ (after (.bankTest 0) c).power.bankOut = [0] ∧ after (.bankTest 1) c = c) := by
  decide +kernel

theorem test_bankTestDone :
    (let s := banked none 64 1 []
     let c := cool id
     (let d : State := { banked none 64 1 [64] c with mgmt := up.mgmt }; after (.bankTestDone 64 false) d = d) ∧
     after (.bankTestDone 1 false) c = c ∧ after (.bankTestDone 64 false) (s c) = s c ∧
     (after (.bankTestDone 64 false) (banked none 64 1 [64] c)).power.bankPass = some (none, 65, 1, 0) ∧
     (after (.bankTestDone 65 false) (banked none 65 1 [65] c)).power.bankPass = none ∧
     (let f := after (.bankTestDone 64 true) (banked none 64 1 [64] c)
      f.power.bankPass = some (none, 65, 2, 0) ∧ f.power.bankOut = [] ∧ f.power.bankBad = [64] ∧ [f.power.selftestsFailed, f.hutch.nextSeq] = [1, 1])) := by
  decide +kernel

/-- A requested pass over its last bank. -/
theorem test_bankTest_result :
    (let s := after (.mailboxItem 3) (after (.opSelftest 3 1 0xFFFFFFFE) (testing 2 0 0 id))
     let t := after (.bankTestDone 65 false) { banked (some (qkey 3 1, 0xFFFFFFFE)) 65 2 [65] s with time := 500 }
     hasService 3 (.bankTest 0) s = true ∧ (at0 t).map (fun m => (m.latch, m.results.map (·.data))) = some (some ⟨.ok, 0⟩, [le 8 (5 * 2 ^ 32 + 0x201)]) ∧
     t.power.bankPass = none) := by decide +kernel

/-- A failed bank of Chest: its hypotheses. -/
theorem test_bankTest_chest :
    (let s := banked none 1 0 [1] (cool id)
     s.power.bankPass = some (none, 1, 0, 0) ∧ s.chest.retired = [] ∧ (∀ g ∈ s.watch.stages, g.stage ≠ 3 ∧ g.stage ≠ 4)) := by decide +kernel

theorem test_calibration :
    (let s := cool id
     let busy : State := { s with sched := { s.sched with benches := [(9, { state := .held, res := none, claim := none })] } }
     let t := after (.calibration 2) s
     t.power.calibrating = [2] ∧ (benchAt 8 t).state = .out ∧ (benchAt 7 t).state = .free ∧ (after (.calibration 2) busy).power.calibPostponed = 1 ∧
     after (.calibration 3) s = s ∧ after (.calibration 2) t = t ∧ (benchAt 8 (after (.calibrationDone 2) t)).state = .free ∧
     (after (.calibrationDone 2) t).power.calibrating = [] ∧ (let d : State := { t with mgmt := up.mgmt }; after (.calibrationDone 2) d = d) ∧ after (.calibrationDone 1) t = t ∧
     (let g : State := { t with watch := { t.watch with stages := [Stage.mk0 2 2 7 0 0 false false false] } }
      (after (.calibrationDone 2) g).sched = g.sched)) := by decide +kernel

theorem test_scrub :
    (let s (lv : Nat) : State := let x := cool (fun w => { w with level := lv })
       { x with chest := { x.chest with bankCount := [(2, 3)], bankThreshold := 70000 } }
     let h (lv : Nat) : State := { s lv with chest := { (s lv).chest with bankCount := [(1, 70000), (2, 3)] } }
     let t (lv : Nat) (l : List (Nat × EccFinding)) := after (.scrub (l.map (fun e => .cell e.1 e.2))) (s lv)
     let u (lv : Nat) (l : List (Nat × EccFinding)) := after (.scrub (l.map (fun e => .cell e.1 e.2))) (h lv)
     after (.scrub []) (h 6) = h 6 ∧ t 1 [] = s 1 ∧ hotBanks (s 0) = [] ∧ hotBanks (h 5) = [1] ∧
     ((t 0 [(9, .clean)]).power.scrubPasses, (t 0 [(9, .clean)]).chest.bankCount) = (1, []) ∧
     (u 5 [(9, .badMeta)]).chest.bankCount = [(2, 3)] ∧ (u 0 [(9, .badMeta)]).chest.retired = [] ∧
     ((u 3 []).power.priorityScrubs, (u 3 []).power.scrubPasses) = (1, 0) ∧
     (t 0 [(9, .corrected 2)]).chest.corrected = 1 ∧ (t 0 [(9, .badData 2)]).chest.retired = [9] ∧
     (t 0 [(9, .badData 2)]).chest.uncorrectable = 1 ∧ (s 0).chest.waiting = [] ∧ after .telemetry up = up) := by decide +kernel

theorem test_scrub_words :
    (let q := upQ q0
     let t := after (.scrub [.word (.queueWord 3 1) 7]) q
     (q.queue 3 1).isSome = true ∧ q.isActive 3 = true ∧ q.power.level = 0 ∧
     ((tget t.contexts 3).bind (·.cause)).map (fun i => (i.status, i.aux, i.queue)) = some (.memUncorrectable, 4, 1) ∧
     (after (.scrub [.word (.shared 9) 7]) q).watch.lastMc = 5) := by decide +kernel

/-- Slot 5 is joined by the command at W of queue 1, epoch 9, until time 700; group 2. -/
def joined (n : W64) : State :=
  let s := upQ (q3 { cmd0 11 .dispatched with running := true })
  { s with
    time := n, port := { s.port with straps := (0, 0, 0, 2) },
    link := { s.link with joins := [(5, ⟨3, 1, 0xFFFFFFFE, 9, 4, 7, 700⟩)], owners := [(6, 1)], linksUp := [0, 0, 0, 0, 0, 0] } }

theorem test_links :
    (let s := joined 0
     let t := after (.links 4 8) s
     t.link.linksUp = [0, 0, 0, 0, 8, 0] ∧ t.port.out = [.budget 4 (8 * 28000 * (100 - s.link.transitPct) / 100)] ∧
     after (.links 6 8) s = s ∧ after (.links 4 9) s = s ∧ (after (.links 0 0) s).port.out = [.budget 0 0] ∧
     (let r : State := { s with port := { s.port with lkpReady := false } }
      after (.links 4 8) r = r ∧ after (.release 2 5 9) r = r)) := by decide +kernel

theorem test_barrierSlotOwn :
    (let s := joined 0
     let t := after (.barrierSlotOwn 0x83FF0006) s
     let r : State := { s with port := { s.port with hfpReady := false } }
     (t.link.owners, t.hub.barOwnLast) = ([(6, 1023)], 6) ∧ (after (.barrierSlotOwn 6) s).link.owners = [] ∧
     (after (.barrierSlotOwn 0x800000FF) s).link.owners = [(6, 1), (255, 0)] ∧
     ((after (.barrierSlotOwn 5) s).hub.bar0Count, (after (.barrierSlotOwn 5) s).hub.bar0Cause) = (1, 3) ∧
     (after (.barrierSlotOwn 5) s).link = s.link ∧ after (.barrierSlotOwn 6) r = r) := by decide +kernel

theorem test_release :
    (let s := joined 0
     let t := after (.release 2 5 9) s
     (t.cmd (qkey 3 1) 0xFFFFFFFE).map (fun m => (m.latch, m.running)) = some (some ⟨.ok, 0⟩, false) ∧ t.link.joins = [] ∧
     t.link.stray = 0 ∧ (after (.release 2 5 8) s).link = { s.link with stray := 1 } ∧
     (after (.release 3 5 9) s).link.joins = s.link.joins ∧ (after (.release 3 5 9) s).link.stray = 1 ∧
     (after (.release 2 4 9) s).link.stray = 1) := by decide +kernel

theorem test_barrierDeadline :
    (let s := joined 700
     let t := after (.barrierDeadline 5) s
     (t.cmd (qkey 3 1) 0xFFFFFFFE).map (fun m => (m.latch, m.running)) = some (some ⟨.peerTimeout, 2 ^ 28 + 5⟩, false) ∧
     t.link.joins = [] ∧ t.jnl.events.map (fun e => (e.code, e.srcKind, e.srcNum, e.words)) = [(8, 0, 3, [0x501, 9, 4, 7])] ∧
     t.hutch.nextSeq = (s.hutch.nextSeq + 1) % 2 ^ 32 ∧ after (.barrierDeadline 5) (joined 699) = joined 699 ∧
     after (.barrierDeadline 6) s = s) := by decide +kernel

theorem test_flrRequest :
    (let s := upC .active
     let c := (s.contexts.map (·.2)).headD (Context.fresh ctxRcd ctxBytes)
     let two : State := { s with contexts := [(3, c), (4, { c with rcd := { c.rcd with fn := 2 } }), (5, { c with state := .lost })] }
     let r : State := { s with port := { s.port with hfpReady := false } }
     let p := after (.hfpFlrReq 0) s
     let f := after (.hfpFlrReq 1) two
     after (.hfpFlrReq 1) r = r ∧ (stageOf 3 0 p).map (fun g => (g.cause, g.flr, g.phase)) = some (12, true, 0) ∧
     (p.port.flrPf, p.port.dropAll, p.watch.hubReady, p.watch.computeResets) = (true, true, false, 1) ∧
     (tget p.contexts 3).map (·.state) = some (.teardown true) ∧
     (stageOf 3 0 (after (.hfpFlrReq 0) (staged 9 [stg 3 0 2] up))).map (fun g => (g.cause, g.flr)) = some ((stg 3 0 2).cause, true) ∧
     f.contexts.map (fun e => e.2.state) = [.teardown true, .active, .lost] ∧ (f.port.flr, f.port.dropHost) = ([1], [1]) ∧
     (tget f.contexts 3).bind (fun x => x.cause.map (fun i => (i.status, i.aux))) = some (.aborted, 0)) := by decide +kernel

theorem test_flrAcknowledge :
    (let pf (l : List Stage) : State := { staged 9 l up with port := { up.port with flrPf := true, dropAll := true } }
     let vf (x : CtxState) : State := { upC x with port := { up.port with flr := [1, 7], dropHost := [1] } }
     let a := after (.hfpFlrAck 0) (pf [stg 2 0 0])
     let b := after (.hfpFlrAck 1) (vf .lost)
     (a.port.flrPf, a.port.dropAll, a.port.out) = (false, false, [.flrAck 0]) ∧
     after (.hfpFlrAck 0) (pf [stg 3 0 0]) = pf [stg 3 0 0] ∧ after (.hfpFlrAck 0) (pf [stg 4 0 0]) = pf [stg 4 0 0] ∧
     after (.hfpFlrAck 0) up = up ∧ (b.port.flr, b.port.dropHost, b.port.out) = ([7], [], [.flrAck 1]) ∧
     after (.hfpFlrAck 1) (vf (.teardown true)) = vf (.teardown true) ∧ after (.hfpFlrAck 2) (vf .lost) = vf .lost) := by decide +kernel

/-- The block with some of everything in use. -/
def busy : State :=
  let s := joined 900
  { s with
    port := { s.port with vddAon := true, strapPins := (1, 2, 3, 4), resetReq := true, scan := false },
    mem := { s.mem with host := [(9, 1)], scratch := [(3, 4)] }, watch := { s.watch with computeResets := 5, faultTeardowns := 6 },
    bureau := { s.bureau with occ := [(1, 2)], expect := 4, slots := [(2, { Slot.reset with active := true })] },
    power := { s.power with level := 3, sag := 4, vf := [(1, { Vf.reset 64 with supply := 800, temp := 60, cap := 18 })] } }

theorem test_blockReset :
    (let t := after .blockReset busy
     (t.tenants, t.contexts, t.objects) = ([], [], []) ∧ t.front = Front.reset ∧ t.link = Link.reset ∧ t.jnl = JnlRegs.reset ∧
     (t.mem.host, t.mem.scratch) = ([(9, 1)], []) ∧ (t.power.level, t.power.sag) = (0, 4) ∧
     ((vfAt 1 t).supply, (vfAt 1 t).temp, (vfAt 1 t).cap) = (800, 60, 64) ∧ t.port.strapPins = (1, 2, 3, 4) ∧
     (t.port.blkRstN, t.port.hfpReady, t.port.resetReq) = (false, false, false) ∧
     (t.watch.computeResets, t.watch.faultTeardowns) = (5, 6)) := by decide +kernel

theorem test_blockReset_kept :
    (let t := after .blockReset busy
     let l : State := { busy with port := { busy.port with vddAon := false, blkRstN := false } }
     t.hutch.boot = busy.hutch.boot + 1 ∧ t.time = 900 ∧
     (t.bureau.occ, t.bureau.expect, (slotAt 2 t.bureau).active, t.bureau.pending) = ([], 0, false, [(2, .retirement)]) ∧
     (after .blockReset l).bureau = l.bureau ∧ (after .blockReset l).hutch = l.hutch) := by decide +kernel

theorem test_por_and_test_port :
    (let t := after .por { busy with port := { busy.port with scan := true } }
     let low : State := { busy with port := { busy.port with blkRstN := false } }
     let x := after (.tapInstruction .scan) low
     (t.watch.computeResets, t.watch.faultTeardowns, t.time, t.port.porN, t.port.scan) = (0, 0, 0, true, false) ∧
     t.front = Front.reset ∧ (slotAt 2 t.bureau).active = false ∧
     (x.port.scan, x.hutch, x.bureau, x.front) = (true, low.hutch, low.bureau, Front.reset) ∧
     (after (.tapInstruction .memTest) low).port.scan = true ∧ after (.tapInstruction .scan) busy = busy ∧
     after (.tapInstruction .memTest) busy = busy ∧ after (.tapInstruction .idcode) busy = busy ∧
     after (.tapInstruction .bypass) busy = busy ∧ after (.tapInstruction .leave) busy = busy ∧
     after .hubSupplyLoss busy = { busy with hutch := Hutch.reset }) := by decide +kernel

/-- A Hutch record of boot 3, number 8. -/
def hutchGood : List Byte := hutchBytes 8 0 3 0x0C RecHead.blank (zeros 8)

theorem test_blockResetRelease :
    (let s0 := after .blockReset busy
     let s : State := { s0 with hutch := { s0.hutch with log := [hutchGood, le 4 1] } }
     let t := after .blockResetRelease s
     (t.port.blkRstN, t.port.hfpReady, t.port.lkpReady, t.port.straps) = (true, true, true, (1, 2, 3, 4)) ∧
     t.hub.burFifo = s.hub.burFifo ++ [(s.hub.burSeq, .sync)] ∧ t.mgmt.bootAt = 900 ∧ t.hutch.log = [hutchGood] ∧
     (t.hutch.nextSeq, t.hutch.boot) = (9, 4) ∧ t.power.level = 4 ∧
     PortOut.budget 5 0 ∈ t.port.out ∧ after .blockResetRelease busy = busy ∧
     (let x : State := { s0 with port := { s0.port with scan := true } }
      after .blockResetRelease x = x)) := by decide +kernel

theorem test_writes_dropped :
    (let w (off size : Nat) (v : W64) := after (.registerWrite off size v) up
     let err (off size : Nat) (v : W64) := let t := w off size v; (t.hub.bar0Count, t.hub.bar0Cause, t.hub.bar0Off)
     let r : State := { up with port := { up.port with hfpReady := false } }
     after (.registerWrite 0x100 8 0) r = r ∧ (w 0x90000 3 1).bureau.writeDrops = 1 ∧ (w 0x9FFFF 8 1).bureau.writeDrops = 1 ∧
     err 0x100 2 0 = (1, 2, 0x100) ∧ err 0x104 8 0 = (1, 2, 0x104) ∧ err 0xA0000 8 0 = (1, 1, 0xA0000) ∧
     err 0x8FFF8 8 0 = (1, 1, 0x8FFF8) ∧ err 0x100 4 0 = (1, 2, 0x100) ∧ err 0x114 4 0 = (1, 2, 0x114) ∧
     err 0x110 8 0x100000000 = (1, 2, 0x110) ∧ err 0x000 8 0 = (1, 5, 0) ∧ err 0x118 4 0 = (1, 5, 0x118)) := by decide +kernel

theorem test_writes_taken :
    (let w (off : Nat) (v : W64) := after (.registerWrite off 8 v) up
     (w 0x100 0x12345).hub.tntBase = 0x12000 ∧ (w 0x108 0x12345).hub.ctxBase = 0x12000 ∧ (w 0x200 0x1FF).hub.sealAddr = 0x180 ∧
     (after (.registerWrite 0x100 8 0x12345) upT).hub.bar0Cause = 3 ∧
     (let x := (w 0x30200 0x0200000300040005).sched; (x.rtBenchMax, x.minBat, x.minInt, x.evictAfter) = (2, 3, 4, 5)) ∧
     (w 0x40108 0x0000000300000002).hub.bar0Cause = 3 ∧
     (let x := (after (.registerWrite 0x40108 8 0x0000000300000002) { up with wrd := { up.wrd with enable := false } }).wrd
      (x.slowGib, x.fastGib) = (3, 2)) ∧
     (let x := (w 0x40120 0x8000001).wrd; (x.promoteAbove, x.demoteBelow) = (1, 1)) ∧ (w 0x40120 0x8000002).hub.bar0Cause = 3 ∧
     (let x := (w 0x40130 0x100000001).wrd; (x.maxFrames, x.minFrames) = (1, 1)) ∧ (w 0x40130 2).hub.bar0Cause = 3) := by decide +kernel

theorem test_writes_taken2 :
    (let w (off : Nat) (v : W64) := after (.registerWrite off 8 v) up
     (let x := (w 0x50100 0x80100C02).chest; (x.mfpHigh, x.mfpLow, x.hfpHigh, x.hfpLow) = (2, 1, 3, 2)) ∧
     (w 0x50100 0x80200C02).hub.bar0Cause = 3 ∧
     (let x := (w 0x60100 0x380003E80001).watch; (x.pfVector, x.notify, x.moverWindow, x.hubWindow) = (3, true, 1000, 1)) ∧
     (w 0x60100 0x3E90001).hub.bar0Cause = 3 ∧ (w 0x60140 0x40000001).hub.bar0Cause = 3 ∧
     (let t := after (.registerWrite 0x60140 8 0x40000001) { up with wrd := { up.wrd with enable := false } }
      (t.watch.spillBase, t.watch.spillValid, t.hutch.spillOk) = (0x40000000, true, true)) ∧
     (w 0x70108 1000).mgmt.fwWindow = 1000 ∧ (w 0x70108 0).hub.bar0Cause = 3 ∧ (w 0x70200 0x1FFF).mgmt.updAddr = 0x1000 ∧
     (let x := (w 0x80130 0x0001000200030004).power; (x.scrubPeriod, x.calibPeriod, x.bankTestPeriod, x.telemetryPeriod) = (1, 2, 3, 4)) ∧
     (w 0x80130 0x0000FFFF00000000).hub.bar0Cause = 3 ∧ (w 0xB0140 0xFFFFF).jnl.traceMask = 0x7FFF) := by decide +kernel

theorem test_writes_class :
    (let w (off : Nat) (v : W64) := after (.registerWrite off 8 v) up
     let n : W64 := 0xFC00000000000000 + 0x40000000000 + 0x400000 + 3
     let x := classAt 5 (w 0x50138 n)
     (x.cut, x.high, x.low, x.quota) = (64, 4, 1, 3) ∧ classAt 4 (w 0x50138 n) = classAt 4 up ∧
     (w 0x50110 0x40000400000).hub.bar0Cause = 0 ∧ (w 0x50110 0x40001000000).hub.bar0Cause = 3 ∧
     (w 0x50110 0x40000400005).hub.bar0Cause = 3 ∧ (w 0x50110 0xFFFFC0000000000).hub.bar0Cause = 3) := by decide +kernel

theorem test_writes_narrow :
    (let w (off : Nat) (v : W32) := after (.registerWrite off 4 (v.setWidth 64)) up
     let x (off : Nat) (v : W32) := (w off v).hub.bar0Cause
     (let b := (w 0x20100 0x8000000A).bramble; (b.dlkEnable, b.dlkWindow) = (true, 10)) ∧ x 0x20100 9 = 3 ∧ x 0x20100 60001 = 3 ∧
     (w 0x30208 16).sched.slotsPerTenant = 16 ∧ x 0x30208 3 = 3 ∧ (w 0x30210 3).sched.benchSel = 3 ∧ x 0x30210 255 = 3 ∧
     (let c := (w 0x50180 0x20003).chest; (c.bankThreshold, c.eventStep) = (2, 3)) ∧ x 0x50180 3 = 3 ∧
     (w 0x508 75).link.transitPct = 75 ∧ (w 0x508 75).port.out.length = 6 ∧ x 0x508 76 = 3 ∧ x 0x508 24 = 3 ∧
     (let p := (w 0x80108 0x303E8).power; (p.forced, p.holdMs, p.level) = (3, 1000, 3)) ∧ x 0x80108 0x70001 = 3 ∧
     (let p := (w 0x80110 0x030201).power; (p.tWarn, p.tHigh, p.tCrit) = (1, 2, 3)) ∧ x 0x80110 0x030202 = 3 ∧
     (let p := (w 0x80120 0x1020).power; (p.floorCode, p.targetCode) = (16, 32)) ∧ x 0x80120 0x2010 = 3) := by decide +kernel

theorem test_writes_delegated :
    (let w (off size : Nat) (v : W64) := registerWrite off size v up
     w 0x518 4 0x80010006 = barrierSlotOwn 0x80010006 up ∧ w 0x110 4 0x21000002 = tenantRetire 2 up ∧
     w 0x110 4 0x22000003 = contextRetire 3 up ∧ w 0x10100 4 0x20000301 = queueShutdown 3 1 up ∧ w 0x208 4 0x20000003 = sealClear 3 up ∧
     w 0x60120 4 0x30000009 = resetReq 9 up ∧ w 0x300 8 0x1000 = burRingWrite 0x1000 up ∧ w 0xB0108 8 5 = eventConsWrite 5 up ∧
     w 0x70208 8 0x3000000000000000 = updateCancel up ∧
     (let t := after .bar0ErrRead { up with hub := { up.hub with bar0Count := 2, bar0Cause := 5, bar0Off := 0x118 } }
      (t.port.readData, t.hub.bar0Count) = (0x0000000250000118, 0)) ∧
     (let r : State := { up with port := { up.port with hfpReady := false } }
      after .bar0ErrRead r = r)) := by decide +kernel

theorem test_reset_memory : State.reset.MemOk := by unfold State.MemOk; decide +kernel

theorem test_reset_shape : State.reset.Shaped := by unfold State.Shaped; decide +kernel

/-- A state with entries in its tables has their shape, and a step from it that adds to one keeps it. -/
theorem test_shape_of_use :
    up.MemOk ∧ (let s : State := { upQ q0 with pending := [.registerWrite 0x508 4 30] }
                s.Shaped ∧ (∃ t, step s = .next t ∧ t.link.transitPct = 30)) := by
  unfold State.MemOk State.Shaped
  refine ⟨by decide +kernel, by decide +kernel, ?_⟩
  exact ⟨_, rfl, by decide +kernel⟩

theorem test_idle : (match step State.reset with | .next t => t.time | _ => 0) = 1 := by decide +kernel

theorem test_front :
    step { State.reset with pending := [.periodicReport, .vddAonLoss] } = exec .periodicReport { State.reset with pending := [.vddAonLoss] } := rfl

theorem test_reset_registers :
    readBar0 0x30200 8 State.reset = 0xC000138801F40032 ∧ readBar0 0x50100 8 State.reset = 0xD0300C02C0 ∧
    readBar0 0x60100 8 State.reset = 0xA000A ∧ readBar0 0x80110 8 State.reset = 0x665F55 ∧
    readBar0 0x80130 8 State.reset = 0x003C025805A003E8 ∧ readBar0 0x70120 8 State.reset = 1000 ∧
    readBar0 0x508 8 State.reset = 25 ∧ readBar0 0xB0120 8 State.reset = 0x200 ∧ readBar0 0x20100 8 State.reset = 0x80000064 ∧
    readBar0 0x50180 8 State.reset = 0x100040 := by decide +kernel

/-- One ill-formed command for each check of an identifier, which the check refuses. -/
theorem test_ill_formed :
    (let bad : List Instr :=
      [.contextRetire 16384, .tenantRetire 16384, .queueShutdown 3 256, .queueShutdown 16384 0, .opNop 3 1 (2 ^ 64), .sealClear 8,
       .partitionReset 64, .updateStage 65536, .peakRead (some 6), .registerWrite (2 ^ 21) 8 0, .registerWrite 0 65 0,
       .doorbellWrite 1025 0 4 0, .doorbellWrite 0 (2 ^ 31) 4 0, .pushWrite 0 0 (List.replicate 65 0)]
     bad.all (fun c => !c.wellFormed) = true) ∧
    (let bad : List Instr :=
      [.fetchIssue 3 1 17, .arbiterGrant (some 1024), .streamHang 48 0, .streamHang 0 4, .moverHang 4, .opModelLoad 3 1 0 [2 ^ 26],
       .launchRetryRequest 0 0 0, .launchRetryRequest 0 0 4, .icacheFill 0 0 1, .alarmSet 0 0 (2 ^ 32) 0 0, .sideCommandLanded 0 0 (.whole 0),
       .sideCommandLanded 0 0 (.piece 5), .collectiveData 0 0 (2 ^ 24) 0 [], .collectiveData 0 0 0 65536 []]
     bad.all (fun c => !c.wellFormed) = true) ∧
    (let bad : List Instr :=
      [.stepLaunch 1024, .clearDone 192, .backgroundZero (2 ^ 26), .moverPieceLanded 4 (some 0), .channelReady .fast 512, .cellMark 6 0,
       .cellMark 0 (2 ^ 24), .cellAllocate 0 0 none [262144], .sensorSample 64 0, .bytFlushTimer 0 4, .stageBudgetExpiry 0 0,
       .stageBudgetExpiry 4 0, .sliceReady 48, .mcDumpDone 4, .pwrSag 8, .temperatureInput 48 0, .temperatureInput 0 256]
     bad.all (fun c => !c.wellFormed) = true) ∧
    (let bad : List Instr :=
      [.vminTimer 0 4096, .vfGrant 0 256, .selftestDone 0 5, .hfpFlrReq 1025, .release 64 0 0, .release 0 256 0, .barrierDeadline 256,
       .links 6 0, .links 0 9]
     bad.all (fun c => !c.wellFormed) = true) := by decide +kernel

/-- The greatest identifiers are well formed. -/
theorem test_well_formed :
    (let good : List Instr :=
      [.contextRetire 16383, .queueShutdown 16383 255, .opNop 16383 255 (2 ^ 64 - 1), .sealClear 7, .streamHang 47 3, .sliceReady 47,
       .clearDone 191, .backgroundZero (2 ^ 26 - 1), .channelReady .slow 511, .cellMark 5 65535, .stepLaunch 1023, .links 5 8,
       .temperatureInput 63 255, .release 63 255 0, .mcDumpDone 3]
     good.all Instr.wellFormed = true) := by decide +kernel

end Sys2Proof.Machine.Tests
end

section
/-! SUPPORT. What a step may change: every command answers a next state, which differs from the first one in the command's listed
parts only and whose memories keep their canonical form (log 2). -/

namespace Sys2Proof.Machine

/-- An outcome is a next state, which differs from the first one in the listed parts only and whose memories are canonical where
the first one's were. -/
def AnswersWithin (fp : List Part) (s : State) (o : Host.Outcome State Fault Refusal) : Prop :=
  ∃ t, o = .next t ∧ Within fp s t

/-- The footprint lemma of a meaning says it of the outcome: the state kept itself, and the parts cover themselves. -/
theorem next_within {fp : List Part} {s t : State} (h : Within fp s s → Covers fp fp → Within fp s t) :
    AnswersWithin fp s (.next t) :=
  ⟨t, rfl, h (.refl fp s) (.refl fp)⟩

theorem Within.memOk {fp : List Part} {s t : State} (h : Within fp s t) (hs : s.MemOk) : t.MemOk :=
  t.mem.wf_iff.2 (h.canon (s.mem.wf_iff.1 hs))

/-- Every command answers a next state, within the parts that touches lists for it: one arm per command, each by the footprint
lemma of the command's meaning. -/
theorem exec_within (c : Instr) (s : State) : AnswersWithin (touches c) s (exec c s) := by
  cases c with
  | tenantActivate => exact next_within fun w m => tenantActivate_within _ _ w m
  | tenantRetire => exact next_within fun w m => tenantRetire_within _ w m
  | contextActivate => exact next_within fun w m => contextActivate_within _ _ w m
  | contextRetire => exact next_within fun w m => contextRetire_within _ w m
  | teardownDone => exact next_within fun w m => teardownDone_within _ w m
  | queueEnable => exact next_within fun w m => queueEnable_within _ _ _ _ w m
  | queueShutdown => exact next_within fun w m => queueShutdown_within _ _ w m
  | queueShutdownHang => exact next_within fun w m => queueShutdownHang_within _ _ w m
  | sealLoad => exact next_within fun w m => sealLoad_within _ _ w m
  | sealClear => exact next_within fun w m => sealClear_within _ w m
  | partitionReset => exact next_within fun w m => partitionReset_within _ w m
  | computeReset => exact next_within fun w m => computeReset_within _ w m
  | resetReq => exact next_within fun w m => resetReq_within _ w m
  | updateStage => exact next_within fun w m => updateStage_within _ w m
  | updateActivate => exact next_within fun w m => updateActivate_within _ w m
  | updateCancel => exact next_within fun w m => updateCancel_within w m
  | stagingDone => exact next_within fun w m => stagingDone_within _ _ w m
  | updateEmergencyCleared => exact next_within fun w m => updateEmergencyCleared_within w m
  | updateQuiesced => exact next_within fun w m => updateQuiesced_within w m
  | updateLoaded => exact next_within fun w m => updateLoaded_within _ w m
  | probationExpiry => exact next_within fun w m => probationExpiry_within w m
  | rollbackDone => exact next_within fun w m => rollbackDone_within w m
  | wrdCfgWrite => exact next_within fun w m => wrdCfgWrite_within _ w m
  | frameTableBuilt => exact next_within fun w m => frameTableBuilt_within w m
  | hostCapsWrite => exact next_within fun w m => hostCapsWrite_within _ w m
  | burReqWrite => exact next_within fun w m => burReqWrite_within _ w m
  | burRingWrite => exact next_within fun w m => burRingWrite_within _ w m
  | jnlRingWrite => exact next_within fun w m => jnlRingWrite_within _ _ w m
  | eventConsWrite => exact next_within fun w m => eventConsWrite_within _ w m
  | barrierSlotOwn => exact next_within fun w m => barrierSlotOwn_within _ w m
  | staAddrWrite => exact next_within fun w m => staAddrWrite_within _ w m
  | staReadDone => exact next_within fun w m => staReadDone_within w m
  | bar0ErrRead => exact next_within fun w m => bar0ErrRead_within w m
  | peakRead => exact next_within fun w m => peakRead_within _ w m
  | registerWrite => exact next_within fun w m => registerWrite_within _ _ _ w m
  | doorbellWrite => exact next_within fun w m => doorbellWrite_within _ _ _ _ w m
  | pushWrite => exact next_within fun w m => pushWrite_within _ _ _ w m
  | fetchIssue => exact next_within fun w m => fetchIssue_within _ _ _ w m
  | fetchReturn => exact next_within fun w m => fetchReturn_within _ _ _ w m
  | fetcherGoIdle => exact next_within fun w m => fetcherGoIdle_within _ _ w m
  | arbiterGrant => exact next_within fun w m => arbiterGrant_within _ w m
  | entryAccept => exact next_within fun w m => entryAccept_within _ _ w m
  | acceptReadReturn => exact next_within fun w m => acceptReadReturn_within _ _ _ w m
  | commandDispatch => exact next_within fun w m => commandDispatch_within _ _ _ w m
  | commandRetire => exact next_within fun w m => commandRetire_within _ _ w m
  | completionWordWrite => exact next_within fun w m => completionWordWrite_within _ _ w m
  | msixModerationTimeout => exact next_within fun w m => msixModerationTimeout_within _ _ w m
  | watchSample => exact next_within fun w m => watchSample_within w m
  | queueTimeout => exact next_within fun w m => queueTimeout_within _ _ w m
  | streamHang => exact next_within fun w m => streamHang_within _ _ w m
  | peerWaitTimeout => exact next_within fun w m => peerWaitTimeout_within _ _ w m
  | moverHang => exact next_within fun w m => moverHang_within _ w m
  | hubEngineHang => exact next_within fun w m => hubEngineHang_within _ w m
  | deadlockScan => exact next_within fun w m => deadlockScan_within w m
  | opNop | opFenceWait | opFenceSignal => exact next_within fun w m => finishNop_within _ _ _ w m
  | opCopy => exact next_within fun w m => opCopy_within _ _ _ w m
  | opFill => exact next_within fun w m => opFill_within _ _ _ w m
  | opTimestamp => exact next_within fun w m => opTimestamp_within _ _ _ w m
  | opLaunchGraph => exact next_within fun w m => opLaunchGraph_within _ _ _ w m
  | opGraphPatch => exact next_within fun w m => opGraphPatch_within _ _ _ w m
  | opLoopOpen => exact next_within fun w m => opLoopOpen_within _ _ _ w m
  | opLoopAdmit => exact next_within fun w m => opLoopAdmit_within _ _ _ _ w m
  | opLoopCancel => exact next_within fun w m => opLoopCancel_within _ _ _ w m
  | opLoopClose => exact next_within fun w m => opLoopClose_within _ _ _ w m
  | opModelLoad => exact next_within fun w m => opModelLoad_within _ _ _ _ w m
  | opModelPin => exact next_within fun w m => opModelPin_within _ _ _ w m
  | opModelUnpin => exact next_within fun w m => opModelUnpin_within _ _ _ w m
  | opObjFree => exact next_within fun w m => opObjFree_within _ _ _ w m
  | opBarrierJoin => exact next_within fun w m => opBarrierJoin_within _ _ _ w m
  | opQuery => exact next_within fun w m => opQuery_within _ _ _ w m
  | opSnapshot => exact next_within fun w m => opSnapshot_within _ _ _ w m
  | opSelftest => exact next_within fun w m => opSelftest_within _ _ _ w m
  | opAbort => exact next_within fun w m => opAbort_within _ _ _ w m
  | opReplayOpen => exact next_within fun w m => opReplayOpen_within _ _ _ w m
  | verifyDone => exact next_within fun w m => verifyDone_within _ _ _ _ w m
  | launchReceive => exact next_within fun w m => launchReceive_within _ _ w m
  | launchRetryRequest => exact next_within fun w m => launchRetryRequest_within _ _ _ w m
  | bundleIssue => exact next_within fun w m => bundleIssue_within _ _ _ w m
  | icacheFill => exact next_within fun w m => icacheFill_within _ _ _ w m
  | alarmSet => exact next_within fun w m => alarmSet_within _ _ _ _ _ w m
  | load => exact next_within fun w (_ : Covers [.port, .mem, .hub, .slices] _) =>
      takeSide_within _ _ _ _ _ w fun _ _ _ h => loadAct_within _ _ _ h
  | store => exact next_within fun w (_ : Covers [.port, .mem, .hub, .slices] _) =>
      takeSide_within _ _ _ _ _ w fun _ _ _ h => storeAct_within _ _ _ h
  | gather => exact next_within fun w (_ : Covers [.port, .mem, .hub, .slices, .trestle, .wrd] _) =>
      takeSide_within _ _ _ _ _ w fun _ _ _ h => gatherAct_within _ _ _ h
  | scatter => exact next_within fun w (_ : Covers [.port, .mem, .hub, .slices, .trestle] _) =>
      takeSide_within _ _ _ _ _ w fun _ _ _ h => scatterAct_within _ _ _ h
  | send => exact next_within fun w (_ : Covers [.port, .hub, .slices] _) =>
      takeSide_within _ _ _ _ _ w fun _ _ _ h => sendAct_within _ _ _ _ h
  | recv => exact next_within fun w (_ : Covers [.port, .mem, .slices, .link] _) =>
      takeSide_within _ _ _ _ _ w fun _ _ _ h => recvAct_within _ _ _ _ h
  | reduce => exact next_within fun w (_ : Covers [.port, .slices] _) =>
      takeSide_within _ _ _ _ _ w fun _ _ _ h => reduceAct_within _ _ _ _ h
  | setreg => exact next_within fun w (_ : Covers [.port, .slices] _) =>
      takeSide_within _ _ _ _ _ w fun _ _ _ h => setregAct_within _ _ _ _ h
  | sideCommandLanded _ _ what =>
    cases what with
    | piece => exact next_within fun w m => sidePieceLanded_within _ _ _ w m
    | whole => exact next_within fun w m => sideCommandLanded_within _ _ _ w m
  | collectiveData => exact next_within fun w m => collectiveData_within _ _ _ _ _ w m
  | streamDrainDone => exact next_within fun w m => streamDrainDone_within _ _ w m
  | stopRequest => exact next_within fun w m => stopRequest_within _ _ w m
  | stopConfirm => exact next_within fun w m => stopConfirm_within _ _ w m
  | streamRelease => exact next_within fun w m => streamRelease_within _ _ w m
  | hazardReport => exact next_within fun w m => hazardReport_within _ _ w m
  | stepEndReport => exact next_within fun w m => stepEndReport_within _ _ _ w m
  | stepBoundary => exact next_within fun w m => stepBoundary_within _ _ w m
  | stepLaunch => exact next_within fun w m => stepLaunch_within _ w m
  | chargeTick => exact next_within fun w m => chargeTick_within w m
  | evictAfterExpiry => exact next_within fun w m => evictAfterExpiry_within _ w m
  | saveLanded => exact next_within fun w m => saveLanded_within _ w m
  | restoreLanded => exact next_within fun w m => restoreLanded_within _ w m
  | clearDone => exact next_within fun w m => clearDone_within _ w m
  | wardrobeSweep => exact next_within fun w m => wardrobeSweep_within _ w m
  | backgroundDemote => exact next_within fun w m => backgroundDemote_within _ _ w m
  | backgroundPromote => exact next_within fun w m => backgroundPromote_within _ _ w m
  | backgroundZero => exact next_within fun w m => backgroundZero_within _ w m
  | moverPieceLanded => exact next_within fun w m => moverPieceLanded_within _ _ w m
  | mapoutRequest => exact next_within fun w m => mapoutRequest_within _ _ _ _ _ w m
  | mapoutMoveRetry =>
    exact next_within fun w m => checkMapout_within (leaveFrame_within _ _ w (m.sub (by simp [touches]))) m
  | modelMissRetry | modelMissService => exact next_within fun w m => missFill_within _ _ w m
  | mfpResponse => exact next_within fun w m => mfpResponse_within _ _ _ _ w m
  | hfpCompletion => exact next_within fun w m => hfpCompletion_within _ _ w m
  | channelReady => exact next_within fun w m => channelReady_within _ _ w m
  | channelFault => exact next_within fun w m => channelFault_within _ _ _ w m
  | ceRate => exact next_within fun w m => ceRate_within _ _ _ w m
  | channelUncorrectable => exact next_within fun w m => uncorrectableFrame_within _ _ w m
  | cellAllocate => exact next_within fun w m => cellAllocate_within _ _ _ _ w m
  | cellRead => exact next_within fun w m => cellRead_within _ _ _ w m
  | cellMark => exact next_within fun w m => cellMark_within _ _ w m
  | cellRewind => exact next_within fun w m => cellRewind_within _ _ w m
  | cellRelease => exact next_within fun w m => cellRelease_within _ _ _ w m
  | chestWalkDone => exact next_within fun w m => chestWalkDone_within _ w m
  | bureauTick => exact next_within fun w m => bureauTick_within w m
  | sensorSample => exact next_within fun w m => sensorSample_within _ _ w m
  | occ | eng | byt | act | ret | req | sync => exact next_within fun w m => takeUsage_within _ w m
  | bytFlushTimer => exact next_within fun w m => bytFlushTimer_within _ _ w m
  | periodicReport => exact next_within fun w m => periodicReport_within w m
  | signingStart => exact next_within fun w m => signingStart_within w m
  | signingDone => exact next_within fun w m => signingDone_within _ _ w m
  | reportForward => exact next_within fun w m => reportForward_within w m
  | vddAonUp => exact next_within fun w m => vddAonUp_within _ _ w m
  | stageBudgetExpiry => exact next_within fun w m => stageBudgetExpiry_within _ _ w m
  | partitionResetAssert => exact next_within fun w m => partitionResetAssert_within _ w m
  | partitionWritesDrained => exact next_within fun w m => partitionWritesDrained_within _ w m
  | partitionResetRelease => exact next_within fun w m => partitionResetRelease_within _ w m
  | sliceReady => exact next_within fun w m => sliceReady_within _ w m
  | dumpAllowanceExpiry => exact next_within fun w m => dumpAllowanceExpiry_within _ w m
  | completionsAllowanceExpiry => exact next_within fun w m => completionsAllowanceExpiry_within w m
  | computeResetAssert => exact next_within fun w m => computeResetAssert_within w m
  | computeResetRelease => exact next_within fun w m => computeResetRelease_within w m
  | hubReady => exact next_within fun w m => hubReady_within w m
  | resetRequest => exact next_within fun w m => resetRequest_within w m
  | por => exact next_within fun w m => por_within w m
  | blockReset => exact next_within fun w m => blockReset_within w m
  | blockResetRelease => exact next_within fun w m => blockResetRelease_within w m
  | bootLoadDone => exact next_within fun w m => bootLoadDone_within w m
  | patchLoad => exact next_within fun w m => patchLoad_within _ w m
  | bootCommit => exact next_within fun w m => bootCommit_within w m
  | mcWatchFlag => exact next_within fun w m => mcWatchFlag_within _ _ w m
  | watchdogExpiry => exact next_within fun w m => watchdogExpiry_within _ _ w m
  | fatalTrap | settlePanic => exact next_within fun w m => coreFail_within _ _ _ w m
  | memoryError => exact next_within fun w m => memoryError_within _ _ w m
  | mcDumpDone => exact next_within fun w m => mcDumpDone_within _ w m
  | mcReloadDone => exact next_within fun w m => mcReloadDone_within _ _ w m
  | mailboxItem => exact next_within fun w m => mailboxItem_within _ w m
  | pwrSag | thermAlert =>
    exact next_within fun w m => limiter_within _ (fun h => State.modPower_within _ h (m.sub (by simp [touches]))) w m
  | temperatureInput => exact next_within fun w m => temperatureInput_within _ _ w m
  | vminTimer => exact next_within fun w m => vminTimer_within _ _ w m
  | vfGrant => exact next_within fun w m => vfGrant_within _ _ w m
  | vfGrantTimeout => exact next_within fun w m => vfGrantTimeout_within _ w m
  | limiterCapStep => exact next_within fun w m => limiterCapStep_within _ _ w m
  | shedHoldExpiry => exact next_within fun w m => shedHoldExpiry_within w m
  | quiesceDump => exact next_within fun w m => quiesceDump_within w m
  | selftestRun => exact next_within fun w m => selftestRun_within _ w m
  | selftestDone => exact next_within fun w m => selftestDone_within _ _ w m
  | bankTest => exact next_within fun w m => bankTest_within _ w m
  | calibration => exact next_within fun w m => calibration_within _ w m
  | scrub => exact next_within fun w m => scrub_within _ w m
  | telemetry => exact next_within fun w _ => w
  | hfpFlrReq => exact next_within fun w m => hfpFlrReq_within _ w m
  | hfpFlrAck => exact next_within fun w m => hfpFlrAck_within _ w m
  | release => exact next_within fun w m => release_within _ _ _ w m
  | barrierDeadline => exact next_within fun w m => barrierDeadline_within _ w m
  | links => exact next_within fun w m => links_within _ _ w m
  | tapInstruction => exact next_within fun w m => tapInstruction_within _ w m
  | journalWrite => exact next_within fun w m => journalWrite_within _ w m
  | journalConsumedPoll => exact next_within fun w m => journalConsumedPoll_within _ _ w m
  | eventWrite => exact next_within fun w m => eventWrite_within w m
  | channelReadyTimeout => exact next_within fun w m => channelReadyTimeout_within _ _ w m
  | engineFaultReport => exact next_within fun w m => engineFaultReport_within _ w m
  | calibrationDone => exact next_within fun w m => calibrationDone_within _ w m
  | bankTestDone => exact next_within fun w m => bankTestDone_within _ _ w m
  | traceRingWrite => exact next_within fun w m => traceRingWrite_within w m
  | hubSupplyLoss => exact next_within fun w m => w.hutch m _
  | vddAonLoss => exact next_within fun w m => vddAonLoss_within w m

theorem step_of_pending_nil {s : State} (h : s.pending = []) : step s = .next { s with time := s.time + 1 } := by
  simp only [step, h]

theorem step_of_pending_cons {s : State} {c : Instr} {rest : List Instr} (h : s.pending = c :: rest) :
    step s = exec c { s with pending := rest } := by
  simp only [step, h]

/-- Settles O58: an empty queue leaves the memories alone (log 10), and a command at its front writes them within its footprint. -/
theorem memoriesStayCanonical : Obligations.MemoriesStayCanonical := by
  intro s hs
  cases hp : s.pending with
  | nil => exact ⟨_, step_of_pending_nil hp, hs⟩
  | cons c rest =>
    obtain ⟨t, ht, hw⟩ := exec_within c { s with pending := rest }
    exact ⟨t, (step_of_pending_cons hp).trans ht, hw.memOk hs⟩

end Sys2Proof.Machine
end

section
/-! One step through the block: the frame of every command (R21, R344), and the tick of an empty queue (log 10). -/

namespace Sys2Proof.Machine

/-- The frame part of a footprint, in the words the obligations use. -/
theorem Within.onlyIn {fp : List Part} {s t : State} (h : Within fp s t) : OnlyIn fp s t := h.same

theorem onlyIn_time (s : State) (n : Nat) : OnlyIn [.time] s { s with time := n } := by
  intro p hp
  cases p
  case time => exact absurd (List.mem_singleton_self _) hp
  all_goals rfl

/-- Settles O57: each command answers a next state within its footprint (exec_within), and a footprint holds the frame. -/
theorem commandsTouchOnlyTheirParts : Obligations.CommandsTouchOnlyTheirParts := by
  intro c s
  obtain ⟨t, ht, hw⟩ := exec_within c s
  exact ⟨t, ht, hw.onlyIn⟩

/-- Settles O56: with no command at the front, the step is the tick alone. -/
theorem emptyQueueTicks : Obligations.EmptyQueueTicks := by
  intro s hp
  exact ⟨_, step_of_pending_nil hp, rfl, onlyIn_time s _⟩

end Sys2Proof.Machine
end

section
/-! SUPPORT and O1. HUB_OBJ_CMD of tenants (R33, R34): what each command leaves, check by check, and the models that go with a tenant. -/

namespace Sys2Proof.Machine

theorem readReq_eq_port (key : Option Nat) (via : Via) (l : Loc) (n : Nat) (s : State) :
    readReq key via l n s = { s with port := (readReq key via l n s).port } := by
  unfold readReq; split <;> rfl

@[simp] theorem arenasFit_readReq (r : TenantRec) (key : Option Nat) (via : Via) (l : Loc) (n : Nat) (s : State) :
    arenasFit r (readReq key via l n s) = arenasFit r s := by
  rw [readReq_eq_port]; rfl

@[simp] theorem arenaOverlaps_readReq (r : TenantRec) (key : Option Nat) (via : Via) (l : Loc) (n : Nat) (s : State) :
    arenaOverlaps r (readReq key via l n s) = arenaOverlaps r s := by
  rw [readReq_eq_port]; rfl

@[simp] theorem freeOffset_readReq (key : Option Nat) (via : Via) (l : Loc) (n : Nat) (s : State) :
    freeOffset (readReq key via l n s) = freeOffset s := by
  rw [readReq_eq_port]; rfl

theorem takeArenas_readReq (r : TenantRec) (key : Option Nat) (via : Via) (l : Loc) (n : Nat) (s : State) :
    takeArenas r (readReq key via l n s) = { takeArenas r s with port := (readReq key via l n s).port } := by
  rw [readReq_eq_port]; rfl

/-- The read of a tenant record (R502). -/
def tenantRead (id : Nat) (s : State) : State := readReq none .hub (pfLoc (s.hub.tntBase + id * 64)) 64 s

@[simp] theorem takeArenas_tenants (r : TenantRec) (s : State) : (takeArenas r s).tenants = s.tenants := rfl

/-- ACTIVATE of a FREE tenant with a record: the checks of R34 in their order. -/
theorem tenantActivate_record {id : Nat} {s : State} {b : List Byte} {r : TenantRec} (ho : cmdOpen s.hub.objBusy s = true)
    (hid : id < 1024) (hn : tget s.tenants id = none) (hw : s.wrd.enable = true) (hc : s.hub.capsValid = true)
    (hp : parseTenant s.integ.slices b = some r) :
    tenantActivate id (.ok b) s =
      if (r.isSealed = true ∧ bit s.hub.agreedCaps capSealed = false) ∨ arenasFit r s = false then objResult 4 id (tenantRead id s)
      else if arenaOverlaps r s = true then objResult 6 id (tenantRead id s)
      else if r.isSealed = true ∧ freeOffset s = none then objResult 5 id (tenantRead id s)
      else objResult 0 id (usageSend (.act id) { takeArenas r (tenantRead id s) with
        tenants := tset s.tenants id { rcd := r, slotOffset := if r.isSealed then freeOffset s else none } }) := by
  simp [tenantActivate, tenantRead, ho, Nat.not_le.2 hid, hn, hw, hc, hp]

/-- A command that answers a state changes only its listed parts. -/
theorem onlyIn_of_exec {c : Instr} {s t : State} (h : Machine.exec c s = .next t) : OnlyIn (touches c) s t := by
  obtain ⟨u, hu, hw⟩ := exec_within c s
  obtain rfl : t = u := by simpa using h.symm.trans hu
  exact hw.onlyIn

/-! ### Models that go with their tenant -/

theorem freeFrame_models (f : Nat) (s : State) : (freeFrame f s).wrd.models = s.wrd.models := rfl

theorem freeFrames_models (fs : List Nat) (s : State) : (freeFrames fs s).wrd.models = s.wrd.models := by
  induction fs generalizing s with
  | nil => rfl
  | cons f fs ih => exact (ih _).trans (freeFrame_models f s)

theorem unref_wrd (k : Nat) (s : State) : (unref k s).wrd = s.wrd :=
  (unref_within k (Within.refl _ s) (Covers.refl _)).same .wrd (by decide)

theorem mem_tdel {α : Type} {t : Tab α} {n : Nat} {e : Nat × α} : e ∈ tdel t n ↔ e ∈ t ∧ e.1 ≠ n := by
  induction t with
  | nil => simp [tdel]
  | cons a t ih =>
    obtain ⟨k, x⟩ := a
    by_cases h : k = n
    · subst h; simp only [tdel, if_true, ih, List.mem_cons]; constructor
      · rintro ⟨h1, h2⟩; exact ⟨.inr h1, h2⟩
      · rintro ⟨rfl | h1, h2⟩
        · exact absurd rfl h2
        · exact ⟨h1, h2⟩
    · simp only [tdel, if_neg h, List.mem_cons, ih]; constructor
      · rintro (rfl | ⟨h1, h2⟩)
        · exact ⟨.inl rfl, h⟩
        · exact ⟨.inr h1, h2⟩
      · rintro ⟨rfl | h1, h2⟩
        · exact .inl rfl
        · exact .inr ⟨h1, h2⟩

theorem ne_of_mem_of_tget_none {α : Type} {t : Tab α} {n : Nat} {e : Nat × α} (h : tget t n = none) (he : e ∈ t) : e.1 ≠ n := by
  induction t with
  | nil => simp at he
  | cons a t ih =>
    obtain ⟨k, x⟩ := a
    by_cases hk : k = n
    · simp [tget, hk] at h
    · rcases List.mem_cons.1 he with rfl | he
      · exact hk
      · exact ih (by simpa [tget, hk] using h) he

/-- The entry of a removed model is the only one that goes. -/
theorem mem_removeModel {id : Nat} {s : State} {e : Nat × Model} :
    e ∈ (removeModel id s).wrd.models ↔ e ∈ s.wrd.models ∧ e.1 ≠ id := by
  unfold removeModel
  split
  · next h => exact ⟨fun he => ⟨he, ne_of_mem_of_tget_none h he⟩, And.left⟩
  · rw [unref_wrd, freeFrames_models]; exact mem_tdel

/-- No model of a tenant is left once the tenant's models are dropped (log 22). -/
theorem dropTenantModels_models {t : Nat} {s : State} {e : Nat × Model} (he : e ∈ (dropTenantModels t s).wrd.models) :
    e.2.tenant ≠ t := by
  have key : ∀ (l : List (Nat × Model)) (s : State), e ∈ (l.foldl (fun s e => removeModel e.1 s) s).wrd.models →
      e ∈ s.wrd.models ∧ e ∉ l := by
    intro l
    induction l with
    | nil => exact fun s h => ⟨h, by simp⟩
    | cons a l ih =>
      intro s h
      obtain ⟨h1, h2⟩ := ih _ h
      obtain ⟨h3, h4⟩ := mem_removeModel.1 h1
      exact ⟨h3, by simpa [h2] using fun e => h4 (congrArg Prod.fst e)⟩
  obtain ⟨h1, h2⟩ := key _ _ he
  simpa [h1] using h2

theorem dropTenantModels_tenants (t : Nat) (s : State) : (dropTenantModels t s).tenants = s.tenants :=
  (dropTenantModels_within t (Within.refl _ s) (Covers.refl _)).same .tenants (by decide)

theorem flushBytes_bytAgg (t cls k : Nat) (s : State) :
    tget (flushBytes t cls s).hub.bytAgg k = if k = t * 4 + cls then none else tget s.hub.bytAgg k := by
  unfold flushBytes
  split
  · next h => split <;> simp_all
  · exact tget_tdel _ _ _

/-- RETIRE of an ACTIVE tenant without a context (R34). -/
theorem tenantRetire_ok {id : Nat} {s : State} (ho : cmdOpen s.hub.objBusy s = true) (hid : id < 1024)
    (ht : (tget s.tenants id).isSome = true) (hc : ∀ e ∈ s.contexts, e.2.rcd.tenant ≠ id) :
    ∃ u, u = flushBytes id 3 (flushBytes id 2 (flushBytes id 1 (flushBytes id 0 (dropTenantModels id s)))) ∧
      tenantRetire id s = objResult 0 id (usageSend (.ret id) { u with tenants := tdel u.tenants id }) := by
  have h1 : s.contexts.any (fun e => e.2.rcd.tenant == id) = false := by simpa using hc
  have h2 : (tget s.tenants id).isNone = false := by simpa using ht
  exact ⟨_, rfl, by simp [tenantRetire, ho, Nat.not_le.2 hid, h1, h2]⟩

/-- Settles O1: ACTIVATE by the checks of R34, all of them passed; RETIRE by what is dropped and flushed before the RET record. -/
theorem tenantsComeAndGo : Obligations.TenantsComeAndGo := by
  refine ⟨fun id b r s ho hid hn hw hc hp hs hf ha hsl => ?_, fun id s ho hid ht hcx => ?_⟩
  · have hne : ¬((r.isSealed = true ∧ bit s.hub.agreedCaps capSealed = false) ∨ arenasFit r s = false) := by
      simp only [hf, Bool.true_eq_false, or_false, not_and]
      exact fun h => by simp [hs h]
    have hfree : ¬(r.isSealed = true ∧ freeOffset s = none) := fun ⟨h1, h2⟩ => by simp [h2] at hsl; simp [hsl] at h1
    have he := tenantActivate_record ho hid hn hw hc hp
    rw [if_neg hne, if_neg (by simp [ha]), if_neg hfree] at he
    refine ⟨tenantActivate id (.ok b) s, rfl, ?_, fun k hk => ?_, ?_, ?_, ?_, onlyIn_of_exec (c := .tenantActivate id (.ok b)) rfl⟩
    all_goals rw [he]
    · exact tget_tset_self _ _ _
    · exact tget_tset_ne _ _ hk
    · rw [tenantRead, takeArenas_readReq]; rfl
    · rw [tenantRead, takeArenas_readReq]; simp [usageSend, objResult, Config.usageFifo, takeArenas]
    · rw [tenantRead, takeArenas_readReq]; rfl
  · obtain ⟨u, hu, he⟩ := tenantRetire_ok ho hid ht hcx
    have htn : u.tenants = s.tenants := by
      simp [hu, dropTenantModels_tenants]
    refine ⟨tenantRetire id s, rfl, ?_, fun k hk => ?_, ?_, ?_, ?_, ?_, ?_, ?_, onlyIn_of_exec (c := .tenantRetire id) rfl⟩
    all_goals rw [he]
    · exact tget_tdel_self _ _
    · exact (tget_tdel_ne _ hk).trans (by rw [htn])
    · intro e hm
      exact dropTenantModels_models (by simpa [hu] using hm)
    · intro cls hcls
      have : cls = 0 ∨ cls = 1 ∨ cls = 2 ∨ cls = 3 := by omega
      simp only [objResult, usageSend, hu, flushBytes_bytAgg]
      rcases this with rfl | rfl | rfl | rfl <;> simp
    · by_cases hfull : Config.usageFifo ≤ u.hub.burFifo.length <;> simp [objResult, usageSend, hfull]
    all_goals rfl

end Sys2Proof.Machine
end

section
/-! Refutation of O3: FRT_QCMD ENABLE whose write of the Completion Word faults (R71), in a state whose queue table lists a queue twice. -/

namespace Sys2Proof.Machine

/-- A context of tenant 0, class BAT, with one queue and a share, as an ACTIVATE leaves it. -/
def batCtx : Context :=
  Context.fresh { cls := .bat, swap := false, tenant := 0, share := 1, fn := 0, pasid := 0, queueCount := 1, objLog2 := 4,
                  queueTable := 0, objTable := 0, faultAddr := 0, msixLast := 0 } []

/-- The block ready for commands, with context 0 ACTIVE and its queue 0 listed twice, which State.Shaped excludes and the statement
does not: first STOPPED with a position not retired, then enabled. -/
def twiceListed : State :=
  { State.reset with
    port := { State.reset.port with hfpReady := true }
    watch := { State.reset.watch with hubReady := true }
    contexts := [(0, batCtx)]
    front := { State.reset.front with queues := [(0, { Queue.reset with d := 1 }), (0, { Queue.reset with state := .idle })] } }

/-- A legal queue record (R65): ring of 16 entries, weight and burst 1, a window of 1 ms, no messages. -/
def plainQueueBytes : List Byte :=
  le 1 2 ++ le 1 0 ++ le 1 4 ++ le 1 1 ++ le 1 1 ++ le 1 0 ++ le 2 0 ++ le 4 1 ++ le 2 1 ++ le 1 1 ++ zeros 49

/-- The fault teardown shuts the queue down for its second entry, and the first, which the commands read, is SHUTTING. -/
theorem queueEnable_twiceListed :
    (queueAt 0 0 (queueEnable 0 0 (.ok plainQueueBytes) .error twiceListed)).state = .shutting := by decide +kernel

/-- Refutes O3: the queue table is not required to list a queue once, so the fault teardown of a faulted ENABLE, which shuts down
every enabled entry of the context, can take the queue out of STOPPED. -/
theorem not_controlCommandsAnswer : ¬ Obligations.ControlCommandsAnswer := by
  intro h
  obtain ⟨-, -, -, hq, -⟩ := h
  have hr : (parseQueue plainQueueBytes).map (·.msixEnable) = some false := by decide +kernel
  obtain ⟨r, hp, hm⟩ := Option.map_eq_some_iff.1 hr
  obtain ⟨-, -, -, -, hf⟩ := hq 0 0 (.ok plainQueueBytes) .error batCtx twiceListed (by decide +kernel) rfl rfl (by decide)
  obtain ⟨t, ht, -, -, hs, -⟩ := hf plainQueueBytes r rfl rfl hp (by simp [hm]) (by decide)
  obtain rfl : queueEnable 0 0 (.ok plainQueueBytes) .error twiceListed = t := Host.Outcome.next.inj ht
  exact absurd (queueEnable_twiceListed.symm.trans hs) (by decide)

end Sys2Proof.Machine
end

section
/-! Refutation of O14: an OP_LAUNCH_GRAPH whose residency (R262) has the number that the next placement takes. -/

namespace Sys2Proof.Machine

/-- The tenant of the two contexts. -/
def eightBenchTenant : Tenant :=
  { rcd := { isSealed := false, allowRt := false, allowInt := false, allowBat := true, share := 1, maxContexts := 2, maxLoops := 0,
             maxSequences := 0, benchQuota := 8, fastBase := 0, fastSize := 0, slowBase := 0, slowSize := 0, maxKvFrames := 0 },
    slotOffset := none }

/-- OP_LAUNCH_GRAPH of one bench (R109), dispatched and not begun on. -/
def launchOne : Cmd :=
  { Cmd.fresh ⟨0, le 1 2 ++ le 1 5 ++ zeros 32 ++ le 2 1 ++ zeros 28, none, true⟩ with phase := .dispatched, running := true }

/-- The idle graph residency of context 0 on bench 0, which a run of one bench uses again (R262). -/
def idleRes : Residency :=
  { ctx := 0, owner := .graph, count := 1, benches := [0], running := false, cmd := none, blockedAt := none, placedAt := 0,
    saveFrames := [], saved := false, moving := false, streams := [], regs := [] }

/-- Context 0 is about to launch a graph, context 1 has a job waiting, and the number of the idle residency is the one the next
placement takes, which no hypothesis of the statement excludes. -/
def reusedNumber : State :=
  { State.reset with
    integ := { State.reset.integ with slices := 1 }
    watch := { State.reset.watch with hubReady := true }
    tenants := [(0, eightBenchTenant)]
    contexts := [(0, batCtx), (1, batCtx)]
    front := { State.reset.front with queues := [(0, { Queue.reset with state := .fetching, d := 1, f := 1, cmds := [launchOne] })] }
    sched := { State.reset.sched with
      jobs := [(0, { ctx := 1, owner := .graph, cmd := none, count := 1, since := 0 })], nextJob := 1,
      residencies := [(0, idleRes)], nextRes := 0, benches := [(0, { state := .held, res := some 0, claim := none })] } }

/-- The launch takes the idle residency, and the placement of the other job takes its number: of the launch no job and no residency
is left. -/
theorem opLaunchGraph_reusedNumber :
    (opLaunchGraph 0 0 0 reusedNumber).sched.jobs = [] ∧
    (opLaunchGraph 0 0 0 reusedNumber).sched.residencies.map (fun e => e.2.cmd) = [none] := by decide +kernel

/-- Refutes O14: the residency table may hold a residency under nextRes, so the placement that follows in the same decision pass takes
the place of the residency that the launch has just taken. -/
theorem not_graphVersionsAndLaunch : ¬ Obligations.GraphVersionsAndLaunch := by
  intro h
  obtain ⟨-, -, -, -, -, hl⟩ := h
  have hm : starting (qkey 0 0) 0 0x05 reusedNumber = some launchOne := by decide +kernel
  obtain ⟨t, ht, -, hj, -⟩ := hl 0 0 0 launchOne reusedNumber hm (by decide) (by decide)
  obtain rfl : opLaunchGraph 0 0 0 reusedNumber = t := Host.Outcome.next.inj ht
  obtain ⟨hjobs, hres⟩ := opLaunchGraph_reusedNumber
  rcases hj with ⟨e, he, -⟩ | ⟨e, he, hc⟩
  · simp [hjobs] at he
  · have := List.mem_map_of_mem (f := fun e : Nat × Residency => e.2.cmd) he
    simp [hres, hc] at this

end Sys2Proof.Machine
end

section
/-! Refutation of O40: the frame of a lost page is taken again, for a save, in the same command (R250, R199, R276, R279). -/

namespace Sys2Proof.Machine

/-- A DRAINING loop of context 0, between two steps. -/
def drainingLoop : Loop :=
  { draining := true, phase := .idle, ctx := 0, tenant := 0, tag := 0,
    params := { discard := false, journal := false, benchCount := 1, graphHandle := 0, argHandle := 0, argCount := 0, maxSeqs := 1,
                argOffset := 0, modelKey := 0, tokensPerPage := 16, chunkTokens := 1, maxTokens := 1, windowUs := 0, deadlineUs := 0,
                rtMhz := 0, demoteFormat := 0, mse := 0, jnlHandle := 0, jnlOffset := 0, jnlLog2 := 0 },
    gkey := 0, ver := 1, args := [], pins := [], step := 0, nextOrder := 0,
    sampled := { shed := 0, freeFast := 0, freeSlow := 0, journalCongested := false, level := 0 }, entries := [], batchOff := 0,
    slotBytes := 4096, stats := LoopStats.zero, jnl := none, replay := none, closer := none, endedAt := 0, woken := false, slept := 0 }

/-- The last sequence of that loop, WAITING, with one page in leaf 0. -/
def lastSeq : Seq :=
  { state := .waiting, cancel := false, loopId := 0, seqId := 0, ctx := 0, tenant := 0, admitTag := 0,
    adm := { sharePrefix := false, autoSeed := false, outLog2 := 4, promptTokens := 1, maxNew := 1, seed := 0, firstCounter := 0,
             prefixSource := 0, prefixTokens := 0, temperature := 0, topP := 0, topK := 0, stops := [], promptHandle := 0,
             promptOffset := 0, outHandle := 0, outOffset := 0, fenceHandle := 0, fenceOffset := 0 },
    rawAdmit := [], admitStep := 0, lastStep := 0, promptDone := 0, produced := 0, kvTokens := 0, root := some 0, rootCount := 1,
    rootOwn := true, reserve := 0, rtReserved := false, phaseDecode := false, staged := true, acceptOrder := 0, preempts := 0,
    verdict := none, lostPage := none, lastToken := 0, promptLoc := pfLoc 0, outLoc := pfLoc 0,
    fence := { loc := pfLoc 0, compact := false, value := 0, va := 0 }, promptKey := 0, outKey := 0, fenceKey := 0 }

/-- A residency of context 1 in partition 0. -/
def resOf (owner : Owner) (benches : List Nat) (running : Bool) (blockedAt : Option Nat) : Residency :=
  { ctx := 1, owner := owner, count := benches.length, benches := benches, running := running, cmd := none, blockedAt := blockedAt,
    placedAt := 0, saveFrames := [], saved := false, moving := false, streams := [], regs := [] }

/-- One slice, whose benches hold a blocked loop and a running one; a job waits for the bench of the blocked loop, and so does the
draining loop, whose last sequence has its page in frame 0. -/
def lastPageLost : State :=
  { State.reset with
    integ := { State.reset.integ with slices := 1 }
    watch := { State.reset.watch with hubReady := true }
    contexts := [(0, batCtx), (1, batCtx)]
    trestle := { State.reset.trestle with loops := [(0, drainingLoop)], seqs := [(0, lastSeq)] }
    wrd := { State.reset.wrd with
      enable := true, built := true, pageLog2 := 18, fastGib := 4, slowGib := 4, hkBase := 0xC0000000
      frames := [(0, { Frame.of .kv false with holders := 1 })]
      leaves := [(0, { pred := none, predValid := 0, used := 1, chains := 1, entries := [{ valid := true, lost := false, frame := 0 }] })] }
    sched := { State.reset.sched with
      evictAfter := 0, nextJob := 2, nextRes := 2
      jobs := [(0, { ctx := 0, owner := .loop 0, cmd := none, count := 1, since := 0 }),
               (1, { ctx := 1, owner := .graph, cmd := none, count := 1, since := 0 })]
      residencies := [(0, resOf (.loop 1) [0] false (some 0)), (1, resOf (.loop 2) [1, 2, 3] true none)]
      benches := [(0, { state := .held, res := some 0, claim := none }), (1, { state := .held, res := some 1, claim := none }),
                  (2, { state := .held, res := some 1, claim := none }), (3, { state := .held, res := some 1, claim := none })] } }

/-- The loop closes with its last sequence, and the decision pass saves the blocked loop into the lowest free frames (R279), the lost
page's among them. -/
theorem uncorrectableFrame_lastPageLost :
    (tget (uncorrectableFrame .fast 0 lastPageLost).wrd.frames 0).map (·.state) = some .save := by decide +kernel

/-- Refutes O40: the end of a lost page's only holder may close its loop, and the decision pass that follows may take the page's frame,
which is free again, for a save; the statement has it stay free. -/
theorem not_fabricsAnswer : ¬ Obligations.FabricsAnswer := by
  intro h
  obtain ⟨-, -, -, -, hc, -⟩ := h
  obtain ⟨-, hkv⟩ := hc .fast 0 0 lastPageLost
  obtain ⟨-, hlast⟩ := hkv (by decide +kernel) (by decide) (by decide) (by decide)
  obtain ⟨t, ht, hfree, -⟩ := hlast 0 0 lastSeq (by decide +kernel) (by decide +kernel) (by decide) (by decide +kernel) (by decide +kernel)
    (by decide +kernel)
  obtain rfl : uncorrectableFrame .fast 0 lastPageLost = t := Host.Outcome.next.inj ht
  obtain ⟨-, hnone⟩ := hfree (by decide +kernel)
  have hf : frameOfAddr .fast 0 lastPageLost = 0 := by decide +kernel
  rw [hf] at hnone
  simpa [hnone] using uncorrectableFrame_lastPageLost

end Sys2Proof.Machine
end

section
/-! SUPPORT. What the scheduler and the stop of a context's work leave alone (R37, R276): every context but for its save frames, the result of
HUB_OBJ_CMD, and the keys and owners of the tables, to which nothing is added. -/

namespace Sys2Proof.Machine

/-! ### Tables to which nothing is added -/

/-- Every entry of a table has the key and the owner of an entry of another. -/
def OwnedIn {α β : Type} (own : α → β) (t s : Tab α) : Prop := ∀ e ∈ t, ∃ e' ∈ s, e'.1 = e.1 ∧ own e'.2 = own e.2

section
variable {α β : Type} {own : α → β} {s t u : Tab α}

theorem OwnedIn.refl (own : α → β) (s : Tab α) : OwnedIn own s s := fun e he => ⟨e, he, rfl, rfl⟩

theorem OwnedIn.trans (h : OwnedIn own t s) (h' : OwnedIn own u t) : OwnedIn own u s := by
  intro e he
  obtain ⟨e1, h1, hk1, ho1⟩ := h' e he
  obtain ⟨e2, h2, hk2, ho2⟩ := h e1 h1
  exact ⟨e2, h2, hk2.trans hk1, ho2.trans ho1⟩

theorem OwnedIn.of_subset (h : ∀ e ∈ t, e ∈ s) : OwnedIn own t s := fun e he => ⟨e, h e he, rfl, rfl⟩

theorem OwnedIn.filter (p : Nat × α → Bool) : OwnedIn own (s.filter p) s :=
  .of_subset fun _ he => (List.mem_filter.1 he).1

theorem OwnedIn.tdel (n : Nat) : OwnedIn own (tdel s n) s := .of_subset fun _ he => (mem_tdel.1 he).1

theorem OwnedIn.tmapv {f : Nat → α → α} (h : ∀ k x, own (f k x) = own x) : OwnedIn own (tmapv s f) s := by
  intro e he
  obtain ⟨a, ha, rfl⟩ := List.mem_map.1 he
  exact ⟨a, ha, rfl, (h _ _).symm⟩

theorem mem_of_tget {n : Nat} {x : α} (h : tget s n = some x) : (n, x) ∈ s := by
  induction s with
  | nil => simp [tget] at h
  | cons a s ih =>
    obtain ⟨k, y⟩ := a
    by_cases hk : k = n
    · subst hk; simp [tget] at h; simp [h]
    · exact List.mem_cons_of_mem _ (ih (by simpa [tget, hk] using h))

theorem mem_tset {n : Nat} {x : α} {e : Nat × α} (h : e ∈ tset s n x) : e = (n, x) ∨ e ∈ s := by
  induction s with
  | nil => simpa [tset] using h
  | cons a s ih =>
    simp only [tset] at h
    split at h
    · simpa using h
    · split at h
      · exact (List.mem_cons.1 h).imp_right (List.mem_cons_of_mem _)
      · rcases List.mem_cons.1 h with rfl | h
        · exact .inr (List.mem_cons_self ..)
        · exact (ih h).imp_right (List.mem_cons_of_mem _)

theorem OwnedIn.tset {n : Nat} {x y : α} (hx : tget s n = some x) (ho : own x = own y) : OwnedIn own (tset s n y) s := by
  intro e he
  rcases mem_tset he with rfl | he
  · exact ⟨(n, x), mem_of_tget hx, rfl, ho⟩
  · exact ⟨e, he, rfl, rfl⟩

theorem OwnedIn.tupd {n : Nat} {f : α → α} (h : ∀ x, own (f x) = own x) : OwnedIn own (tupd s n f) s := by
  unfold Machine.tupd
  split
  · next a ha => exact .tset ha (h a).symm
  · exact .refl own s

theorem OwnedIn.none_of {p : Nat × α → Prop} (h : OwnedIn own t s) (hp : ∀ a b : Nat × α, a.1 = b.1 → own a.2 = own b.2 → p a → p b)
    (hs : ∀ e ∈ s, p e) : ∀ e ∈ t, p e := by
  intro e he
  obtain ⟨a, ha, hk, ho⟩ := h e he
  exact hp a e hk ho (hs a ha)
end

/-! ### Quiet operations -/

/-- A context but for the save frames it keeps. -/
def Context.bare (x : Context) : Context := { x with saveFrames := [] }

/-- What a HUB_OBJ_CMD reports (R31, R32). -/
def Hub.objSts (h : Hub) : Bool × Nat × Nat := (h.objBusy, h.objResult, h.objLast)

/-- Nothing is added to the tables of what contexts own, and no HUB_OBJ_CMD is answered. -/
structure Held (s t : State) : Prop where
  time : t.time = s.time
  obj : t.hub.objSts = s.hub.objSts
  objects : OwnedIn (fun _ => ()) t.objects s.objects
  graphs : OwnedIn (fun _ => ()) t.graphs s.graphs
  queues : OwnedIn (fun _ => ()) t.front.queues s.front.queues
  loops : OwnedIn Loop.ctx t.trestle.loops s.trestle.loops
  seqs : OwnedIn Seq.ctx t.trestle.seqs s.trestle.seqs

theorem Held.refl (s : State) : Held s s := ⟨rfl, rfl, .refl _ _, .refl _ _, .refl _ _, .refl _ _, .refl _ _⟩

theorem Held.trans {s t u : State} (h : Held s t) (h' : Held t u) : Held s u :=
  ⟨h'.time.trans h.time, h'.obj.trans h.obj, h.objects.trans h'.objects, h.graphs.trans h'.graphs, h.queues.trans h'.queues,
    h.loops.trans h'.loops, h.seqs.trans h'.seqs⟩

/-- A held state whose contexts are as they were but for their save frames, with the same map-outs waiting. -/
structure Quiet (s t : State) : Prop extends Held s t where
  ctx : ∀ k, (tget t.contexts k).map Context.bare = (tget s.contexts k).map Context.bare
  waits : t.wrd.mapoutWait = s.wrd.mapoutWait

theorem Quiet.refl (s : State) : Quiet s s := ⟨.refl s, fun _ => rfl, rfl⟩

theorem Quiet.trans {s t u : State} (h : Quiet s t) (h' : Quiet t u) : Quiet s u :=
  ⟨h.toHeld.trans h'.toHeld, fun k => (h'.ctx k).trans (h.ctx k), h'.waits.trans h.waits⟩

section
variable {s0 s t : State}

/-- The parts of which Held speaks. -/
def owners : List Part := [.time, .hub, .objects, .graphs, .front, .trestle]

/-- A change of no part of which Held speaks. -/
theorem Held.within {fp : List Part} (hw : Within fp s t) (hf : ∀ p ∈ owners, p ∉ fp := by decide) : Held s t := by
  have e : ∀ p ∈ owners, p.same s t := fun p hp => hw.same p (hf p hp)
  have et : t.time = s.time := e .time (by decide)
  have eh : t.hub = s.hub := e .hub (by decide)
  have eo : t.objects = s.objects := e .objects (by decide)
  have eg : t.graphs = s.graphs := e .graphs (by decide)
  have ef : t.front = s.front := e .front (by decide)
  have el : t.trestle = s.trestle := e .trestle (by decide)
  refine ⟨et, by rw [eh], ?_, ?_, ?_, ?_, ?_⟩
  · rw [eo]; exact .refl _ _
  · rw [eg]; exact .refl _ _
  · rw [ef]; exact .refl _ _
  · rw [el]; exact .refl _ _
  · rw [el]; exact .refl _ _

/-- A change of no part of which Quiet speaks. -/
theorem Quiet.within {fp : List Part} (h : Quiet s0 s) (hw : Within fp s t)
    (hf : ∀ p ∈ .contexts :: .wrd :: owners, p ∉ fp := by decide) : Quiet s0 t := by
  have ec : t.contexts = s.contexts := hw.same .contexts (hf _ (by decide))
  have ew : t.wrd = s.wrd := hw.same .wrd (hf _ (by decide))
  exact h.trans ⟨.within hw fun p hp => hf p (by simp [hp]), fun k => by rw [ec], by rw [ew]⟩

theorem Quiet.foldl {α : Type} {f : State → α → State} (hf : ∀ s a, Quiet s0 s → Quiet s0 (f s a)) (l : List α)
    (h : Quiet s0 s) : Quiet s0 (l.foldl f s) := by
  induction l generalizing s with
  | nil => exact h
  | cons a l ih => exact ih (hf s a h)

theorem Quiet.setHub (h : Quiet s0 s) {v : Hub} (hv : v.objSts = s.hub.objSts) : Quiet s0 { s with hub := v } :=
  h.trans ⟨⟨rfl, hv, .refl _ _, .refl _ _, .refl _ _, .refl _ _, .refl _ _⟩, fun _ => rfl, rfl⟩

theorem Quiet.setContexts (h : Quiet s0 s) {v : Tab Context}
    (hv : ∀ k, (tget v k).map Context.bare = (tget s.contexts k).map Context.bare) : Quiet s0 { s with contexts := v } :=
  h.trans ⟨⟨rfl, rfl, .refl _ _, .refl _ _, .refl _ _, .refl _ _, .refl _ _⟩, hv, rfl⟩

theorem Quiet.setObjects (h : Quiet s0 s) {v : Tab Obj} (hv : OwnedIn (fun _ => ()) v s.objects) : Quiet s0 { s with objects := v } :=
  h.trans ⟨⟨rfl, rfl, hv, .refl _ _, .refl _ _, .refl _ _, .refl _ _⟩, fun _ => rfl, rfl⟩

theorem Quiet.setGraphs (h : Quiet s0 s) {v} (hv : OwnedIn (fun _ => ()) v s.graphs) : Quiet s0 { s with graphs := v } :=
  h.trans ⟨⟨rfl, rfl, .refl _ _, hv, .refl _ _, .refl _ _, .refl _ _⟩, fun _ => rfl, rfl⟩

theorem Quiet.setFront (h : Quiet s0 s) {v : Front} (hv : OwnedIn (fun _ => ()) v.queues s.front.queues) : Quiet s0 { s with front := v } :=
  h.trans ⟨⟨rfl, rfl, .refl _ _, .refl _ _, hv, .refl _ _, .refl _ _⟩, fun _ => rfl, rfl⟩

theorem Quiet.setTrestle (h : Quiet s0 s) {v : Trestle} (hl : OwnedIn Loop.ctx v.loops s.trestle.loops)
    (hq : OwnedIn Seq.ctx v.seqs s.trestle.seqs) : Quiet s0 { s with trestle := v } :=
  h.trans ⟨⟨rfl, rfl, .refl _ _, .refl _ _, .refl _ _, hl, hq⟩, fun _ => rfl, rfl⟩

theorem Quiet.setWrd (h : Quiet s0 s) {v : Wardrobe} (hv : v.mapoutWait = s.wrd.mapoutWait) : Quiet s0 { s with wrd := v } :=
  h.trans ⟨⟨rfl, rfl, .refl _ _, .refl _ _, .refl _ _, .refl _ _, .refl _ _⟩, fun _ => rfl, hv⟩

theorem Quiet.setWatch (h : Quiet s0 s) (v : Watch) : Quiet s0 { s with watch := v } :=
  h.trans ⟨⟨rfl, rfl, .refl _ _, .refl _ _, .refl _ _, .refl _ _, .refl _ _⟩, fun _ => rfl, rfl⟩

theorem Quiet.setSched (h : Quiet s0 s) (v : Sched) : Quiet s0 { s with sched := v } :=
  h.trans ⟨⟨rfl, rfl, .refl _ _, .refl _ _, .refl _ _, .refl _ _, .refl _ _⟩, fun _ => rfl, rfl⟩

/-- An optional answer is quiet where there is one. -/
abbrev QuietO (s0 : State) (o : Option State) : Prop := ∀ t, o = some t → Quiet s0 t

/-! ### The movers and the frames -/

theorem usageSend_quiet (u : Usage) (h : Quiet s0 s) : Quiet s0 (usageSend u s) := h.setHub rfl

theorem bump_quiet (e : Nat) (h : Quiet s0 s) : Quiet s0 (bump e s) := h.setWatch _

theorem trace_quiet (p g c q a : Nat) (h : Quiet s0 s) : Quiet s0 (trace p g c q a s) :=
  h.within (trace_within _ _ _ _ _ (.refl _ s) (.refl _))

theorem stopJobs_quiet (t : MoveKind → Bool) (h : Quiet s0 s) : Quiet s0 (stopJobs t s) := h.setWrd rfl

theorem freeFrame_quiet (f : Nat) (h : Quiet s0 s) : Quiet s0 (freeFrame f s) := h.setWrd rfl

theorem freeFrames_quiet (fs : List Nat) (h : Quiet s0 s) : Quiet s0 (freeFrames fs s) :=
  h.foldl (fun _ f h => freeFrame_quiet f h) fs

theorem setFrame_quiet (f : Nat) (x : Frame) (h : Quiet s0 s) : Quiet s0 (setFrame f x s) := h.setWrd rfl

theorem startJob_quiet (k : MoveKind) (n : Nat) (b : Bool) (w : Payer) (h : Quiet s0 s) : Quiet s0 (startJob k n b w s) := by
  unfold startJob
  refine bump_quiet 5 (Quiet.setWrd ?_ rfl)
  split
  · exact h
  · exact h.setWrd rfl

theorem allocFrame_quiet (t : Option Nat) (f : Nat) (x : Frame) (h : Quiet s0 s) : Quiet s0 (allocFrame t f x s) := by
  unfold allocFrame
  dsimp only
  split
  · exact startJob_quiet _ _ _ _ (setFrame_quiet f x h)
  · exact setFrame_quiet f x h

theorem takeSave_quiet (t : Option Nat) (fs : List Nat) (h : Quiet s0 s) : Quiet s0 (takeSave t fs s) :=
  h.foldl (fun _ f h => allocFrame_quiet t f _ h) fs

theorem dropSave_quiet (x : Residency) (h : Quiet s0 s) : Quiet s0 (dropSave x s) := by
  unfold dropSave
  split
  · exact h
  · exact freeFrames_quiet _ h

/-! ### Benches, jobs and passes -/

theorem modRes_quiet (r : Nat) (f : Residency → Residency) (h : Quiet s0 s) : Quiet s0 (s.modRes r f) := h.setSched _

theorem updateGvt_quiet (h : Quiet s0 s) : Quiet s0 (updateGvt s) :=
  h.within (updateGvt_within (.refl _ s) (.refl _))

theorem settleReady_quiet (h : Quiet s0 s) : Quiet s0 (settleReady s) := h.setSched _

theorem countVacate_quiet (h : Quiet s0 s) : Quiet s0 (countVacate s) := h.setSched _

theorem setBench_quiet (b : Nat) (x : Bench) (h : Quiet s0 s) : Quiet s0 (setBench b x s) := by
  unfold setBench
  dsimp only
  split
  · exact h.setSched _
  · exact usageSend_quiet _ (h.setSched _)

theorem setBenches_quiet (bs : List Nat) (f : Bench → Bench) (h : Quiet s0 s) : Quiet s0 (setBenches bs f s) :=
  h.foldl (fun _ _ h => setBench_quiet _ _ h) bs

theorem withdrawClaims_quiet (id : Nat) (h : Quiet s0 s) : Quiet s0 (withdrawClaims id s) := setBenches_quiet _ _ h

theorem dropJob_quiet (id : Nat) (h : Quiet s0 s) : Quiet s0 (dropJob id s) :=
  settleReady_quiet (updateGvt_quiet ((withdrawClaims_quiet id h).setSched _))

theorem requestParts_quiet (bs : List Nat) (h : Quiet s0 s) : Quiet s0 (requestParts bs s) :=
  h.within (requestParts_within _ (.refl _ s) (.refl _))

theorem requestStops_quiet (l : List (Nat × Nat)) (h : Quiet s0 s) : Quiet s0 (requestStops l s) :=
  h.within (requestStops_within _ (.refl _ s) (.refl _))

theorem launchGraph_quiet (k pos r : Nat) (h : Quiet s0 s) : Quiet s0 (launchGraph k pos r s) :=
  h.within (launchGraph_within _ _ _ (.refl _ s) (.refl _))

theorem takeOrWait_quiet (r : CellReq) (h : Quiet s0 s) : Quiet s0 (takeOrWait r s) :=
  h.within (takeOrWait_within _ (.refl _ s) (.refl _))

theorem journal_quiet (l typ tag step part items : Nat) (p : List Byte) (h : Quiet s0 s) :
    Quiet s0 (journal l typ tag step part items p s) := by
  unfold journal
  split
  · exact h
  · next lp hl =>
    split
    · exact h
    · exact takeOrWait_quiet _ (h.setTrestle (.tset hl rfl) (.refl _ _))

theorem journalPlace_quiet (o : Owner) (bs : List Nat) (h : Quiet s0 s) : Quiet s0 (journalPlace o bs s) := by
  unfold journalPlace
  split
  · exact h
  · split
    · exact h
    · exact h.foldl (fun _ _ h => journal_quiet _ _ _ _ _ _ _ h) _

theorem releaseRes_quiet (r : Nat) (h : Quiet s0 s) : Quiet s0 (releaseRes r s) := by
  unfold releaseRes
  split
  · exact h
  · exact updateGvt_quiet (trace_quiet _ _ _ _ _ (requestParts_quiet _ ((setBenches_quiet _ _
      (h.within (startClear_within _ _ (.refl _ s) (.refl _)))).setSched _)))

theorem saveInto_quiet {c : Nat} {bs : List Nat} {p : List Nat × State} (h : Quiet s0 s) (e : saveInto c bs s = some p) :
    Quiet s0 p.2 := by
  unfold saveInto at e
  dsimp only at e
  split at e
  · cases e
  · next fs _ =>
    obtain rfl := Option.some.inj e
    have h1 := takeSave_quiet (s.tenantOf c) fs h
    dsimp only
    split
    · refine h1.setContexts fun k => ?_
      rw [tget_tupd]
      by_cases hk : k = c
      · subst hk; rw [if_pos rfl, Option.map_map]; rfl
      · rw [if_neg hk]
    · exact h1

theorem saveRes_quiet (r : Nat) (h : Quiet s0 s) : QuietO s0 (saveRes r s) := by
  intro t e
  unfold saveRes at e
  split at e
  · cases e
  · split at e
    · cases e
    · next hs =>
      obtain rfl := Option.some.inj e
      exact trace_quiet _ _ _ _ _ (countVacate_quiet (setBenches_quiet _ _ (modRes_quiet _ _ (saveInto_quiet h hs))))

theorem vacateRes_quiet (r : Nat) (h : Quiet s0 s) : QuietO s0 (vacateRes r s) := by
  intro t e
  unfold vacateRes at e
  split at e
  · cases e
  · split at e
    · exact saveRes_quiet r h t e
    · obtain rfl := Option.some.inj e
      exact releaseRes_quiet r (countVacate_quiet h)

/-- The state that the vacating of a claimant's victims leaves, complete or not. -/
def vacateEnd : Except (Nat × State) State → State
  | .ok t => t
  | .error e => e.2

theorem vacateAll_quiet (here : Option Nat) (l : List (Nat × Residency)) (h : Quiet s0 s) :
    Quiet s0 (vacateEnd (vacateAll here l s)) := by
  induction l generalizing s with
  | nil => exact h
  | cons v l ih =>
    unfold vacateAll
    split
    · split
      · next hv => exact ih (vacateRes_quiet _ h _ hv)
      · exact h
    · exact ih h

theorem claimTarget_quiet (id : Nat) (free : List Nat) (vs : List (Nat × Residency)) (h : Quiet s0 s) :
    Quiet s0 (claimTarget id free vs s) :=
  Quiet.foldl (fun _ _ h => setBenches_quiet _ _ h) vs (setBenches_quiet _ _ h)

theorem claimFor_quiet (here : Option Nat) (id : Nat) (j : Job) (n : Nat) (skip : List Nat) (h : Quiet s0 s) :
    QuietO s0 (claimFor here id j n skip s) := by
  induction n generalizing skip s with
  | zero => intro t e; cases e
  | succ n ih =>
    intro t e
    unfold claimFor at e
    split at e
    · cases e
    · next free vs _ =>
      have hv := vacateAll_quiet here vs (claimTarget_quiet id free vs h)
      split at e
      · next he => rw [he] at hv; obtain rfl := Option.some.inj e; exact hv
      · next he => rw [he] at hv; exact ih _ (withdrawClaims_quiet id hv) t e

theorem placeJob_quiet (id : Nat) (j : Job) (bs : List Nat) (h : Quiet s0 s) : Quiet s0 (placeJob id j bs s) := by
  have hd := dropJob_quiet id h
  unfold placeJob
  dsimp only
  split
  · split
    · exact journalPlace_quiet _ _ (trace_quiet _ _ _ _ _ (requestParts_quiet _ (setBenches_quiet _ _ (modRes_quiet _ _ hd))))
    · exact hd
  · have hp : ∀ (f : Bench → Bench) (r : Nat) (v : Sched), Quiet s0 (journalPlace j.owner bs (trace 10 0 j.ctx 0 r (requestParts bs
        (setBenches bs f { dropJob id s with sched := v })))) := fun f r v =>
      journalPlace_quiet _ _ (trace_quiet _ _ _ _ _ (requestParts_quiet _ (setBenches_quiet _ _ (hd.setSched v))))
    split
    · exact launchGraph_quiet _ _ _ (hp _ _ _)
    · exact hp _ _ _

theorem passJobs_quiet (here : Option Nat) (js : List (Nat × Job)) (b : Bool) (h : Quiet s0 s) : Quiet s0 (passJobs here js b s) := by
  induction js generalizing s b with
  | nil => exact h
  | cons e js ih =>
    obtain ⟨id, j⟩ := e
    simp only [passJobs]
    split
    · exact ih _ (launchGraph_quiet _ _ _ (dropJob_quiet id h))
    · split
      · exact ih _ (placeJob_quiet _ _ _ h)
      · split
        · exact ih _ h
        · split
          · exact ih _ h
          · split
            · next hc => exact ih _ (claimFor_quiet _ _ _ _ _ h _ hc)
            · exact ih _ h

theorem passAt_quiet (here : Option Nat) (h : Quiet s0 s) : Quiet s0 (passAt here s) := by
  unfold passAt
  split
  · exact updateGvt_quiet h
  · refine bump_quiet _ (updateGvt_quiet (passJobs_quiet _ _ _ (Quiet.foldl (fun s e h => ?_) _ h)))
    split
    · exact h
    · exact withdrawClaims_quiet _ h

theorem decisionPass_quiet (h : Quiet s0 s) : Quiet s0 (decisionPass s) := passAt_quiet none h

theorem dropJobs_quiet (t : Job → Bool) (h : Quiet s0 s) : Quiet s0 (dropJobs t s) := by
  unfold dropJobs
  split
  · exact h
  · exact decisionPass_quiet (Quiet.foldl (fun _ e h => dropJob_quiet e.1 h) _ h)

/-! ### The stop of a queue and of a context -/

theorem stopWork_quiet (t : Nat → Nat → Bool) (h : Quiet s0 s) : Quiet s0 (stopWork t s) := by
  unfold stopWork
  exact (dropJobs_quiet _ (Quiet.within (requestStops_quiet _ (stopJobs_quiet _ h)) (Within.link (.refl _ _) (.refl _) _))).trans
    ⟨⟨rfl, rfl, .refl _ _, .refl _ _, .refl _ _, .refl _ _, .refl _ _⟩, fun _ => rfl, rfl⟩

theorem modQueues_quiet {f : Tab Queue → Tab Queue} (hf : OwnedIn (fun _ => ()) (f s.front.queues) s.front.queues) (h : Quiet s0 s) :
    Quiet s0 (s.modQueues f) := h.setFront hf

theorem mapQueues_quiet (f : Nat → Queue → Queue) (h : Quiet s0 s) : Quiet s0 (s.modQueues (fun t => tmapv t f)) :=
  modQueues_quiet (.tmapv fun _ _ => rfl) h

theorem modQ_quiet (k : Nat) (f : Queue → Queue) (h : Quiet s0 s) : Quiet s0 (s.modQ k f) := modQueues_quiet (.tupd fun _ => rfl) h

theorem qResult_quiet (r : Nat) (h : Quiet s0 s) : Quiet s0 (qResult r s) := h.setFront (.refl _ _)

theorem settleStops_quiet (h : Quiet s0 s) : Quiet s0 (settleStops s) := mapQueues_quiet _ h

theorem settleQueue_quiet (k : Nat) (h : Quiet s0 s) : Quiet s0 (settleQueue k s) := by
  unfold settleQueue
  split
  · exact h
  · split
    · dsimp only
      split
      · exact qResult_quiet _ (modQ_quiet _ _ h)
      · exact modQ_quiet _ _ h
    · exact h

theorem dropItem_quiet (cls q i : Nat) (h : Quiet s0 s) : Quiet s0 (dropItem cls q i s) :=
  h.within (dropItem_within _ _ _ (.refl _ s) (.refl _))

theorem dropCmdCells_quiet (k pos op : Nat) (h : Quiet s0 s) : Quiet s0 (dropCmdCells k pos op s) :=
  h.within (dropCmdCells_within _ _ _ (.refl _ s) (.refl _))

theorem discardCells_quiet (cls q : Nat) (h : Quiet s0 s) : Quiet s0 (discardCells cls q s) :=
  h.within (discardCells_within _ _ (.refl _ s) (.refl _))

theorem shutQueue_quiet (k : Nat) (l : Latch) (h : Quiet s0 s) : Quiet s0 (shutQueue k l s) := by
  unfold shutQueue
  split
  · exact h
  · have h1 := Quiet.foldl (fun _ f h => dropItem_quiet 1 k f.pos h) (‹Queue›).fetched (discardCells_quiet 0 k h)
    have h2 := Quiet.foldl (fun _ c h => dropCmdCells_quiet k c.pos (eOp c.entry) h) ((‹Queue›).cmds.filter (fun c => c.latch.isNone)) h1
    exact settleQueue_quiet k (settleStops_quiet (Quiet.within (stopWork_quiet _ (modQ_quiet k _ h2))
      (dropShadows_within (.refl _ _) (.refl _))))

theorem forgetReleases_quiet (c : Nat) (h : Quiet s0 s) : Quiet s0 (forgetReleases c s) := h.setObjects (.tmapv fun _ _ => rfl)

theorem oweMsix_quiet (mine : Nat → Bool) (h : Quiet s0 s) : Quiet s0 (oweMsix mine s) := mapQueues_quiet _ h

theorem dropIdleRes_quiet (c : Nat) (h : Quiet s0 s) : Quiet s0 (dropIdleRes c s) := by
  refine Quiet.foldl (fun s e h => ?_) _ h
  split
  · exact releaseRes_quiet _ (dropSave_quiet _ h)
  · exact h

/-- Everything of a context stops, and no context changes but for save frames (R37, R96). -/
theorem stopContext_quiet (c : Nat) (fault : Bool) (l : Latch) (h : Quiet s0 s) : Quiet s0 (stopContext c fault l s) := by
  have h1 : Quiet s0 (if fault then oweMsix (fun k => k / 256 == c) (forgetReleases c s) else forgetReleases c s) := by
    split
    · exact oweMsix_quiet _ (forgetReleases_quiet c h)
    · exact forgetReleases_quiet c h
  unfold stopContext
  refine decisionPass_quiet (dropIdleRes_quiet c (Quiet.within (dropJobs_quiet _ (requestStops_quiet _
    (Quiet.foldl (fun s e h => ?_) _ h1))) (Within.link (.refl _ _) (.refl _) _)))
  split
  · exact shutQueue_quiet _ _ h
  · exact h

end

end Sys2Proof.Machine
end

section
/-! SUPPORT. What the start of a teardown leaves of the contexts (R36, R37). -/

namespace Sys2Proof.Machine

/-- An entry of contexts that are as they were but for their save frames. -/
theorem Quiet.ctx_some {s t : State} (h : Quiet s t) {k : Nat} {x : Context} (hx : tget s.contexts k = some x) :
    ∃ y, tget t.contexts k = some y ∧ y.bare = x.bare := by
  have := h.ctx k
  rw [hx] at this
  exact Option.map_eq_some_iff.1 this

/-- The context of a teardown that begins has its mark (R36, R37). -/
theorem beginTeardown_ctx {c : Nat} {fault : Bool} {info : FaultInfo} {hr : Option (Nat × List Byte)} {s : State} {x : Context}
    (hx : tget s.contexts c = some x) (ha : x.state = .active) :
    ∃ y, tget (beginTeardown c fault info hr s).contexts c = some y ∧ y.state = .teardown fault ∧ y.teardownAt = s.now ∧
      y.cause = if fault then some { info with hutchSeq := s.hutch.nextSeq } else none := by
  rw [beginTeardown_eq hx ha]
  obtain ⟨y, hy, hb⟩ := (stopContext_quiet c fault (if fault then { status := .contextLost, aux := info.status.code }
    else { status := .aborted, aux := 3 }) (.refl (markTeardown c fault info hr x s))).ctx_some
    (k := c) (by rw [markTeardown_contexts]; exact tget_tset_self _ _ _)
  exact ⟨y, hy, congrArg Context.state hb, congrArg Context.teardownAt hb, congrArg Context.cause hb⟩

/-- A fault of an ACTIVE context begins its fault teardown with that cause (R36). -/
theorem beginTeardown_fault {c : Nat} {info : FaultInfo} {hr : Option (Nat × List Byte)} {s : State} {x : Context}
    (hx : tget s.contexts c = some x) (ha : x.state = .active) {why : FaultInfo → Prop}
    (hw : why { info with hutchSeq := s.hutch.nextSeq }) : FaultTeardownBegun c s (beginTeardown c true info hr s) why := by
  obtain ⟨y, hy, hst, hat, hcause⟩ := beginTeardown_ctx (fault := true) (info := info) (hr := hr) hx ha
  exact ⟨y, _, hy, hst, hat, hcause, hw⟩

end Sys2Proof.Machine
end

section
/-! SUPPORT. What the fetcher does (R79, R81, R304, R308): the cells it asks for, the position it moves on to, the entries it puts in
their places. -/

namespace Sys2Proof.Machine

/-! ### Requests for cells -/

/-- The watermarks do not change what waits. -/
theorem evalChest_waiting (s : State) : (evalChest s).chest.waiting = s.chest.waiting := by
  suffices h : ∀ (l : List Nat) (t : State),
      (l.foldl (fun t c => trace 12 0 0xFFFF 0 c t) t).chest.waiting = t.chest.waiting by exact h _ _
  intro l
  induction l with
  | nil => intro t; rfl
  | cons a l ih => intro t; exact (ih _).trans (congrArg Chest.waiting ((trace_within 12 0 0xFFFF 0 a (.refl _ t) (.refl _)).same .chest (by decide)))

theorem linkWhole_waiting {r : CellReq} {s t : State} (h : linkWhole r s = some t) : t.chest.waiting = s.chest.waiting := by
  simp only [linkWhole] at h
  split at h
  · cases h; rfl
  · cases h

/-- Cells that a producer takes for itself leave the requests that wait. -/
theorem takeCells_waiting {r : CellReq} {s t : State} (hr : r.source = none) (h : takeCells r s = some t) :
    t.chest.waiting = s.chest.waiting := by
  simp only [takeCells, hr, Option.isSome_none, Bool.false_eq_true, if_false] at h
  split at h
  · cases h; rfl
  · obtain ⟨u, hu, rfl⟩ := Option.map_eq_some_iff.1 h
    rw [evalChest_waiting]
    simp only [grantNow, serveReq, hr] at hu
    split at hu
    · exact linkWhole_waiting hu
    · cases hu

/-- What waits goes on waiting, and a request that is not granted is among it (R304). -/
theorem askCells_waiting {r : CellReq} (hr : r.source = none) (s : State) :
    (∀ w ∈ s.chest.waiting, w ∈ (askCells r s).2.chest.waiting) ∧
    ((askCells r s).1 = false → ∃ w ∈ (askCells r s).2.chest.waiting, w.cls = r.cls ∧ w.queue = r.queue) := by
  unfold askCells
  split
  · exact ⟨fun _ h => h, by simp⟩
  · split
    · next hw =>
      obtain ⟨w, hm, he⟩ := List.any_eq_true.1 hw
      exact ⟨fun _ h => h, fun _ => ⟨w, hm, by simp_all⟩⟩
    · split
      · next t ht => exact ⟨fun w h => takeCells_waiting hr ht ▸ h, by simp⟩
      · exact ⟨fun w h => List.mem_append_left _ h, fun _ => ⟨r, by simp [State.modChest], rfl, rfl⟩⟩

theorem takeFetch_waiting (k : Nat) (tenant : Option Nat) (n p : Nat) (s : State) :
    (∀ w ∈ s.chest.waiting, w ∈ (takeFetch k tenant p n s).2.chest.waiting) ∧
    ((takeFetch k tenant p n s).1 = false → ∃ w ∈ (takeFetch k tenant p n s).2.chest.waiting, w.cls = 0 ∧ w.queue = k) := by
  induction n generalizing p s with
  | zero => exact ⟨fun _ h => h, by simp [takeFetch]⟩
  | succ n ih =>
    obtain ⟨hkeep, hask⟩ := askCells_waiting (r := itemReq 0 k tenant p 1 none) rfl s
    obtain ⟨hkeep', hrest⟩ := ih (p + 1) (askCells (itemReq 0 k tenant p 1 none) s).2
    refine ⟨fun w h => hkeep' w (hkeep w h), fun h => ?_⟩
    rcases Bool.and_eq_false_iff.1 h with h | h
    · obtain ⟨w, hw, hc⟩ := hask h
      exact ⟨w, hkeep' w hw, hc⟩
    · exact hrest h

/-- The cells of a fetch touch Chest and its trace only. -/
theorem takeFetch_parts (k : Nat) (tenant : Option Nat) (p n : Nat) (s : State) :
    Within [.chest, .jnl] s (takeFetch k tenant p n s).2 := takeFetch_within k tenant p n (.refl _ s) (.refl _)

/-! ### Positions and places -/

theorem le_skipTaken (fs : List Fetched) (n f : Nat) : f ≤ skipTaken fs n f := by
  induction n generalizing f with
  | zero => exact le_rfl
  | succ n ih =>
    simp only [skipTaken]
    split
    · exact (Nat.le_succ f).trans (ih _)
    · exact le_rfl

/-- What stands in its place stays, and nothing but the new entry is added. -/
theorem mem_putFetched {f g : Fetched} {fs : List Fetched} :
    (g ∈ fs → g ∈ putFetched f fs) ∧ (g ∈ putFetched f fs → g = f ∨ g ∈ fs) := by
  induction fs with
  | nil => simp [putFetched]
  | cons a fs ih =>
    simp only [putFetched]
    split
    · exact ⟨List.mem_cons_of_mem _, List.mem_cons.1⟩
    · split
      · exact ⟨id, .inr⟩
      · simp only [List.mem_cons]
        exact ⟨fun h => h.imp_right ih.1, fun h => h.elim (fun h => .inr (.inl h)) (fun h => (ih.2 h).imp_right .inr)⟩

/-- An entry of a position that has none takes its place. -/
theorem mem_putFetched_self {f : Fetched} {fs : List Fetched} (h : ∀ g ∈ fs, g.pos ≠ f.pos) : f ∈ putFetched f fs := by
  induction fs with
  | nil => simp [putFetched]
  | cons a fs ih =>
    have ha : f.pos ≠ a.pos := (h a List.mem_cons_self).symm
    simp only [putFetched, ha, if_false]
    split
    · exact List.mem_cons_self
    · exact List.mem_cons_of_mem _ (ih fun g hg => h g (List.mem_cons_of_mem _ hg))

/-! ### A queue of a context -/

theorem queueAt_of_queue {c q : Nat} {u : Queue} {s : State} (h : s.queue c q = some u) : queueAt c q s = u := by
  rw [State.queue] at h
  rw [queueAt, tgetD, h, Option.getD_some]

theorem queueAt_of_front {c q : Nat} {s t : State} (h : t.front = s.front) : queueAt c q t = queueAt c q s := by
  rw [queueAt, h]; rfl

theorem modQueue_queue (c q : Nat) (f : Queue → Queue) (s : State) : (modQueue c q f s).queue c q = some (f (queueAt c q s)) := by
  rw [State.queue, modQueue_tget, if_pos rfl]

theorem modQueue_others (c q : Nat) (f : Queue → Queue) (s : State) : OtherQueuesSame (qkey c q) s (modQueue c q f s) := by
  intro k hk
  rw [modQueue_tget, if_neg hk]

/-- A state with the same front. -/
theorem OtherQueuesSame.of_front {k : Nat} {s s' t t' : State} (h : OtherQueuesSame k s t) (hs : s.front = s'.front)
    (ht : t'.front = t.front) : OtherQueuesSame k s' t' := by
  intro k' hk
  rw [ht, ← hs]
  exact h k' hk

theorem tenantOf_of_ctx {c : Nat} {x : Context} {s : State} (h : tget s.contexts c = some x) : s.tenantOf c = some x.rcd.tenant := by
  rw [State.tenantOf, h]; rfl

end Sys2Proof.Machine
end

section
/-! SUPPORT. What a fetch read and its return do (R79, R66, R81). -/

namespace Sys2Proof.Machine

variable {c q n : Nat} {x : Context} {u : Queue} {s : State}

/-- Without the cells no read goes out, and requests for them wait (R304). -/
theorem fetchIssue_waits (hu : s.queue c q = some u) (hx : tget s.contexts c = some x) (hm : mayFetch c q n s = true)
    (hf : (takeFetch (qkey c q) (some x.rcd.tenant) u.f n s).1 = false) :
    fetchIssue c q n s = (takeFetch (qkey c q) (some x.rcd.tenant) u.f n s).2 := by
  simp only [fetchIssue, hm, if_true, queueAt_of_queue hu, tenantOf_of_ctx hx, hx]
  generalize takeFetch (qkey c q) (some x.rcd.tenant) u.f n s = a at *
  obtain ⟨b, t⟩ := a
  cases hf
  rfl

/-- The positions of a read are in flight, and F moves past them and past the entries taken from push slots (R79). -/
def Queue.fetching (n : Nat) (u : Queue) : Queue :=
  { u with inflight := u.inflight ++ [(u.f, n)], f := skipTaken u.fetched u.fetched.length (u.f + n) }

/-- With its cells the read goes out (R79). -/
theorem fetchIssue_reads (hu : s.queue c q = some u) (hx : tget s.contexts c = some x) (hm : mayFetch c q n s = true)
    {t : State} (hf : takeFetch (qkey c q) (some x.rcd.tenant) u.f n s = (true, t)) :
    fetchIssue c q n s = readReq (t.tenantOf c) .hub (ringLoc x.rcd u.rcd u.f) (64 * n)
      (trace 1 0 c q u.f (bump 0 (modQueue c q (Queue.fetching n) t))) := by
  simp only [fetchIssue, hm, if_true, queueAt_of_queue hu, tenantOf_of_ctx hx, hx, hf]
  rfl

theorem mayFetch_le (hu : s.queue c q = some u) (hm : mayFetch c q n s = true) : u.f + n ≤ u.d := by
  simp only [mayFetch, queueAt_of_queue hu, Bool.and_eq_true, decide_eq_true_eq] at hm
  obtain ⟨⟨⟨⟨-, -, -, hd, -⟩, -⟩, -⟩, -⟩ := hm
  exact hd

/-- What read requests add to what has left the port (R468), with the port of a state before. -/
theorem readReq_out {key : Option Nat} {via : Via} {l : Loc} {k : Nat} {w : State} (h : w.port = s.port) :
    (readReq key via l k w).port.out = s.port.out ++ (if hostStopped l s then [] else readReqs key via l k) := by
  have hs : hostStopped l w = hostStopped l s := by simp only [hostStopped, h]
  simp only [readReq, hs]
  split
  · rw [h, List.append_nil]
  · simp only [emitAll, h]

/-- The queue after a read has gone out, and the requests of the read (R79). -/
theorem fetchIssue_after (hu : s.queue c q = some u) (hx : tget s.contexts c = some x) (hm : mayFetch c q n s = true)
    (hf : (takeFetch (qkey c q) (some x.rcd.tenant) u.f n s).1 = true) :
    (fetchIssue c q n s).queue c q = some (u.fetching n) ∧ OtherQueuesSame (qkey c q) s (fetchIssue c q n s) ∧
    (fetchIssue c q n s).port.out = s.port.out ++ (if hostStopped (ringLoc x.rcd u.rcd u.f) s then [] else
      readReqs (some x.rcd.tenant) .hub (ringLoc x.rcd u.rcd u.f) (64 * n)) := by
  obtain ⟨t, ht⟩ : ∃ t, takeFetch (qkey c q) (some x.rcd.tenant) u.f n s = (true, t) := ⟨_, Prod.ext hf rfl⟩
  have hw : Within [.chest, .jnl] s t := by
    have := takeFetch_parts (qkey c q) (some x.rcd.tenant) u.f n s
    rwa [ht] at this
  have hfront : t.front = s.front := hw.same .front (by decide)
  have hk : t.tenantOf c = some x.rcd.tenant := tenantOf_of_ctx ((congrArg (tget · c) (hw.same .contexts (by decide))).trans hx)
  rw [fetchIssue_reads hu hx hm ht, hk]
  generalize hb : modQueue c q (Queue.fetching n) t = m
  have hv : Within [.watch, .jnl] m (trace 1 0 c q u.f (bump 0 m)) :=
    trace_within _ _ _ _ _ (bump_within _ (.refl _ m) (by simp [Covers])) (by simp [Covers])
  have hp : (trace 1 0 c q u.f (bump 0 m)).port = s.port :=
    (hv.same .port (by decide)).trans (hb ▸ hw.same .port (by decide))
  have hfr : (readReq (some x.rcd.tenant) .hub (ringLoc x.rcd u.rcd u.f) (64 * n) (trace 1 0 c q u.f (bump 0 m))).front = m.front := by
    rw [readReq_eq_port]; exact hv.same .front (by decide)
  refine ⟨?_, (modQueue_others c q (Queue.fetching n) t).of_front hfront (hfr.trans (hb ▸ rfl)), readReq_out hp⟩
  rw [State.queue, hfr, ← State.queue, ← hb, modQueue_queue, queueAt_of_front hfront, queueAt_of_queue hu]

/-! ### The return of a read -/

/-- An entry that has come takes its place in a queue (R93, R98). -/
def Queue.arrive (pos : Nat) (b : List Byte) (v : Queue) : Queue :=
  if v.nextHand ≤ pos ∧ v.fetched.all (fun f => f.pos != pos) = true then
    { v with fetched := putFetched { pos := pos, entry := b, latch := none, ring := true } v.fetched } else v

theorem entryArrived_front (pos : Nat) (b : List Byte) {v : Queue} (hv : s.queue c q = some v) :
    (entryArrived c q pos b s).queue c q = some (v.arrive pos b) ∧ OtherQueuesSame (qkey c q) s (entryArrived c q pos b s) := by
  simp only [entryArrived, Queue.arrive, queueAt_of_queue hv]
  split
  · refine ⟨?_, (modQueue_others c q _ s).of_front rfl (fillItem_front ..)⟩
    rw [State.queue, fillItem_front, ← State.queue, modQueue_queue, queueAt_of_queue hv]
  · refine ⟨?_, fun k _ => by rw [dropItem_front]⟩
    rw [State.queue, dropItem_front, ← State.queue, hv]

/-- The entries of a read take their places in order. -/
def arriveAll (c q p n : Nat) (b : List Byte) (s : State) : State :=
  (List.range n).foldl (fun s i => entryArrived c q (p + i) (slice b (64 * i) 64) s) s

/-- What the entries of a read of n from p have made of a queue. -/
structure Arrived (p n : Nat) (b : List Byte) (v w : Queue) : Prop where
  rest : w = { v with fetched := w.fetched }
  placed : ∀ i, i < n → v.nextHand ≤ p + i → (∀ f ∈ v.fetched, f.pos ≠ p + i) → ⟨p + i, slice b (64 * i) 64, none, true⟩ ∈ w.fetched
  kept : ∀ f ∈ v.fetched, f ∈ w.fetched
  only : ∀ f ∈ w.fetched, f ∈ v.fetched ∨ (v.nextHand ≤ f.pos ∧ f.pos < p + n)

theorem Arrived.next {p n : Nat} {b : List Byte} {v w : Queue} (h : Arrived p n b v w) :
    Arrived p (n + 1) b v (w.arrive (p + n) (slice b (64 * n) 64)) := by
  have hnext : w.nextHand = v.nextHand := by rw [h.rest]; rfl
  have hfresh : (∀ f ∈ v.fetched, f.pos ≠ p + n) → ∀ f ∈ w.fetched, f.pos ≠ p + n := by
    intro hv f hf
    rcases h.only f hf with hf | ⟨-, hlt⟩
    · exact hv f hf
    · exact hlt.ne
  unfold Queue.arrive
  split
  · next hcond =>
    rw [hnext] at hcond
    refine ⟨by conv_lhs => rw [h.rest], fun i hi hpos hv => ?_, fun f hf => mem_putFetched.1 (h.kept f hf), fun f hf => ?_⟩
    · rcases Nat.lt_succ_iff_lt_or_eq.1 hi with hi | rfl
      · exact mem_putFetched.1 (h.placed i hi hpos hv)
      · exact mem_putFetched_self (hfresh hv)
    · rcases mem_putFetched.2 hf with rfl | hf
      · exact .inr ⟨hcond.1, Nat.lt_succ_self _⟩
      · exact (h.only f hf).imp_right fun ⟨h1, h2⟩ => ⟨h1, by omega⟩
  · next hcond =>
    refine ⟨h.rest, fun i hi hpos hv => ?_, h.kept, fun f hf => (h.only f hf).imp_right fun ⟨h1, h2⟩ => ⟨h1, by omega⟩⟩
    rcases Nat.lt_succ_iff_lt_or_eq.1 hi with hi | rfl
    · exact h.placed i hi hpos hv
    · exact absurd ⟨hnext ▸ hpos, List.all_eq_true.2 fun f hf => by simpa using hfresh hv f hf⟩ hcond

theorem arriveAll_front (p n : Nat) (b : List Byte) {v : Queue} (hv : s.queue c q = some v) :
    ∃ w, (arriveAll c q p n b s).queue c q = some w ∧ Arrived p n b v w ∧ OtherQueuesSame (qkey c q) s (arriveAll c q p n b s) := by
  induction n with
  | zero => exact ⟨v, hv, ⟨rfl, by simp, fun _ h => h, fun _ h => .inl h⟩, fun _ _ => rfl⟩
  | succ n ih =>
    obtain ⟨w, hw, ha, ho⟩ := ih
    obtain ⟨hq, ho'⟩ := entryArrived_front (p + n) (slice b (64 * n) 64) hw
    have he : arriveAll c q p (n + 1) b s = entryArrived c q (p + n) (slice b (64 * n) 64) (arriveAll c q p n b s) := by
      simp only [arriveAll, List.range_succ, List.foldl_append, List.foldl_cons, List.foldl_nil]
    rw [he]
    exact ⟨_, hq, ha.next, fun k hk => (ho' k hk).trans (ho k hk)⟩

theorem arriveAll_within (p n : Nat) (b : List Byte) : Within [.front, .chest, .jnl] s (arriveAll c q p n b s) :=
  Within.foldl (fun _ _ h => entryArrived_within _ _ _ _ h (.refl _)) _ (.refl _ s)

/-- The queue and the memory when a read's bytes are written, before its entries take their places (R28, R328). -/
def landed (c q p n : Nat) (rest : List (Nat × Nat)) (got : List Byte) (x : Context) (u : Queue) (s : State) : State :=
  charge (some c) 2 (64 * n) (memWrite (ringLoc x.rcd u.rcd p) got (modQueue c q (fun a => { a with inflight := rest }) s))

theorem fetchReturn_ok {p : Nat} {rest : List (Nat × Nat)} (b : List Byte) (hu : s.queue c q = some u) (hx : tget s.contexts c = some x)
    (hi : u.inflight = (p, n) :: rest) :
    fetchReturn c q (.ok b) s = arriveAll c q p n (padTo (64 * n) (b.take (64 * n)))
      (landed c q p n rest (padTo (64 * n) (b.take (64 * n))) x u s) := by
  simp only [fetchReturn, queueAt_of_queue hu, hi, hx]
  rfl

theorem fetchReturn_failed {p : Nat} {rest : List (Nat × Nat)} {rd : HostRead} (hu : s.queue c q = some u)
    (hx : tget s.contexts c = some x) (hi : u.inflight = (p, n) :: rest) (hrd : rd = .error ∨ rd = .poison) :
    fetchReturn c q rd s = beginTeardown c true { FaultInfo.of .access 0xFFFFFFFF s.now with
      queue := q, address := (ringLoc x.rcd u.rcd p).addr % 2 ^ 64 } none (modQueue c q (fun a => { a with inflight := rest }) s) := by
  rcases hrd with rfl | rfl <;> (simp only [fetchReturn, queueAt_of_queue hu, hi, hx]; rfl)

theorem landed_queue (p n : Nat) (rest : List (Nat × Nat)) (got : List Byte) (hu : s.queue c q = some u) :
    (landed c q p n rest got x u s).queue c q = some { u with inflight := rest } ∧
    OtherQueuesSame (qkey c q) s (landed c q p n rest got x u s) := by
  have hf : (landed c q p n rest got x u s).front = (modQueue c q (fun a => { a with inflight := rest }) s).front := charge_front ..
  refine ⟨?_, (modQueue_others c q _ s).of_front rfl hf⟩
  rw [State.queue, hf, ← State.queue, modQueue_queue, queueAt_of_queue hu]

theorem landed_mem (p n : Nat) (rest : List (Nat × Nat)) (got : List Byte) :
    (landed c q p n rest got x u s).mem = s.mem.write (ringLoc x.rcd u.rcd p) got := charge_mem ..

theorem landed_within (p n : Nat) (rest : List (Nat × Nat)) (got : List Byte) :
    Within [.mem, .hub, .front, .chest, .jnl] s (landed c q p n rest got x u s) :=
  charge_within _ _ _ (memWrite_within _ _ (modQueue_within _ _ _ (.refl _ s) (by simp [Covers])) (by simp [Covers])) (by simp [Covers])

theorem padTo_take_length (k : Nat) (b : List Byte) : (padTo k (b.take k)).length = k := by
  simp only [padTo, zeros, List.length_append, List.length_replicate, List.length_take]
  omega

end Sys2Proof.Machine
end

section
/-! SUPPORT and O6. The grant of the arbiter (R82, R83), and the statement. -/

namespace Sys2Proof.Machine

section
variable {c q n : Nat} {u : Queue} {s : State}

/-! ### A grant -/

theorem moveEntries_le (k : Nat) (tenant : Option Nat) (l : List Fetched) (s : State) : (moveEntries k tenant l s).1 ≤ l.length := by
  induction l generalizing s with
  | nil => exact le_rfl
  | cons f l ih =>
    simp only [moveEntries, List.length_cons]
    split
    · exact Nat.zero_le _
    · exact Nat.succ_le_succ (ih _)

/-- The queue's entries are handed over and its number kept as the context's last (R83). -/
def granted (c q n : Nat) (m : State) : State :=
  let t := m.modQ (qkey c q) (Queue.handOver n)
  { t with front := { t.front with last := tset t.front.last c q } }

/-- The round of credit of a context ends (R83). -/
def reloaded (c : Nat) (s : State) : State :=
  s.modQueues (fun l => tmapv l (fun k x => if k / 256 = c then { x with credit := x.rcd.weight } else x))

/-- The entries of a queue's burst that move to the ISSUE class, and the state they leave (R83, R303). -/
def moved (c q : Nat) (u : Queue) (s : State) : Nat × State :=
  moveEntries (qkey c q) (s.tenantOf c) ((handable u.fetched u.nextHand).take u.rcd.burst) s

theorem moved_le (c q : Nat) (u : Queue) (s : State) : (moved c q u s).1 ≤ u.rcd.burst :=
  (moveEntries_le _ _ _ _).trans (List.length_take_le _ _)

theorem moved_front (c q : Nat) (u : Queue) (s : State) : (moved c q u s).2.front = s.front :=
  (moveEntries_within (fp := [.chest, .jnl]) _ _ _ (.refl _ s) (.refl _)).same .front (by decide)

/-- The grant with credit (R83). -/
theorem grantCtx_credit (hp : wrrPick c s = some q) (hu : s.queue c q = some u) (hn : 0 < (moved c q u s).1) :
    grantCtx c s = granted c q (moved c q u s).1 (moved c q u s).2 := by
  simp only [grantCtx, hp, hu]
  exact if_neg (Nat.pos_iff_ne_zero.1 hn)

/-- The grant where no queue has credit (R83). -/
theorem grantCtx_reload (h0 : wrrPick c s = none) (hp : wrrPick c (reloaded c s) = some q) (hu : (reloaded c s).queue c q = some u)
    (hn : 0 < (moved c q u (reloaded c s)).1) :
    grantCtx c s = granted c q (moved c q u (reloaded c s)).1 (moved c q u (reloaded c s)).2 := by
  rw [reloaded] at hp hu
  simp only [grantCtx, h0, hp, hu]
  exact if_neg (Nat.pos_iff_ne_zero.1 hn)

/-- What a grant leaves of the queues, from a state with the same front. -/
theorem granted_front {r : State} (m : State) (hm : m.front = r.front) (hu : r.queue c q = some u) :
    (granted c q n m).queue c q = some (u.handOver n) ∧ OtherQueuesSame (qkey c q) r (granted c q n m) ∧
    tget (granted c q n m).front.last c = some q := by
  have hq : m.queue c q = some u := by rw [State.queue, hm]; exact hu
  refine ⟨?_, fun k hk => ?_, tget_tset_self _ _ _⟩
  · exact (m.modQ_queue c q (Queue.handOver n)).trans (by rw [hq]; rfl)
  · exact (m.modQ_tget (qkey c q) k (Queue.handOver n)).trans (by rw [if_neg hk, hm])

/-- In the new round every queue of the context has its weight. -/
theorem reloaded_credit {w : Queue} (hq : q < 256) (hw : (reloaded c s).queue c q = some w) : w.credit = w.rcd.weight := by
  have hk : qkey c q / 256 = c := by rw [qkey]; omega
  rw [State.queue, reloaded, State.modQueues, tget_tmapv] at hw
  obtain ⟨v, -, rfl⟩ := Option.map_eq_some_iff.1 hw
  rw [if_pos hk]

/-! ### The round robin of contexts -/

/-- The context granted is kept as the last one of its round robin (R82, R295, log 6). -/
def rememberCtx (slot : Option Nat) (c : Nat) (s : State) : State :=
  match slot with
  | some tn => { s with front := { s.front with last := tset s.front.last (16384 + tn) c } }
  | none => { s with front := { s.front with lastCtx := c } }

theorem rememberCtx_front {slot : Option Nat} (hc : c < 16384) (s : State) :
    (rememberCtx slot c s).front.queues = s.front.queues ∧ tget (rememberCtx slot c s).front.last c = tget s.front.last c ∧
    (slot = none → (rememberCtx slot c s).front.lastCtx = c) := by
  cases slot with
  | none => exact ⟨rfl, rfl, fun _ => rfl⟩
  | some tn => exact ⟨rfl, tget_tset_ne _ _ (by omega), nofun⟩

/-- Where the slot's round robin finds a context, the grant is that context's (R82). -/
def turnOf (slot : Option Nat) (s : State) : Option Nat :=
  let mine (k : Nat) : Bool := match slot with
    | some tn => (s.tenantOf k == some tn) && isSealedT s (some tn)
    | none => !isSealedT s (s.tenantOf k)
  let last := match slot with | some tn => tgetD s.front.last (16384 + tn) 16383 | none => s.front.lastCtx
  let order := (s.contexts.map (·.1)).filter (fun k => mine k && ctxEligible k s)
  (order.filter (fun k => decide (last < k)) ++ order).head?

theorem arbiterGrant_turn {slot : Option Nat} (hf : classCongested 1 s = false) (ht : turnOf slot s = some c) :
    arbiterGrant slot s = rememberCtx slot c (grantCtx c s) := by
  cases slot <;> (simp only [turnOf] at ht; simp only [arbiterGrant, hf, Bool.false_eq_true, if_false, ht]; rfl)

/-- A grant of a queue that has been found, from the state whose queues it is handed over in. -/
theorem arbiterGrant_leaves {slot : Option Nat} {r : State} (hc : c < 16384) (hf : classCongested 1 s = false)
    (ht : turnOf slot s = some c) (hu : r.queue c q = some u)
    (hg : grantCtx c s = granted c q (moved c q u r).1 (moved c q u r).2) :
    ∃ t, Machine.exec (.arbiterGrant slot) s = .next t ∧ t.queue c q = some (u.handOver (moved c q u r).1) ∧
      tget t.front.last c = some q ∧ (slot = none → t.front.lastCtx = c) ∧ OtherQueuesSame (qkey c q) r t ∧
      OnlyIn [.front, .chest, .jnl] s t := by
  obtain ⟨hqueue, hother, hlast⟩ := granted_front (n := (moved c q u r).1) _ (moved_front c q u r) hu
  obtain ⟨hqs, hl, hctx⟩ := rememberCtx_front (slot := slot) hc (granted c q (moved c q u r).1 (moved c q u r).2)
  have he : Machine.exec (.arbiterGrant slot) s = .next (rememberCtx slot c (granted c q (moved c q u r).1 (moved c q u r).2)) := by
    rw [← hg, ← arbiterGrant_turn hf ht]; rfl
  refine ⟨_, he, ?_, hl.trans hlast, hctx, fun k hk => ?_, onlyIn_of_exec he⟩
  · rw [State.queue, hqs]; exact hqueue
  · rw [hqs]; exact hother k hk

/-! ### The clauses -/

/-- The bytes of a read lie at its ring slots, and its entries take their places (R28, R79). -/
theorem arriveAll_landed {p : Nat} {rest : List (Nat × Nat)} {got : List Byte} {x : Context} (hs : s.MemOk)
    (hlen : got.length = 64 * n) (hu : s.queue c q = some u) {t : State}
    (ht : t = arriveAll c q p n got (landed c q p n rest got x u s)) :
    (∃ w, t.queue c q = some w ∧ Arrived p n got { u with inflight := rest } w) ∧
    memRead (ringLoc x.rcd u.rcd p) (64 * n) t = got ∧ UnchangedOutside (ringLoc x.rcd u.rcd p) (64 * n) s t ∧
    OtherQueuesSame (qkey c q) s t ∧ OnlyIn [.mem, .hub, .front, .chest, .jnl] s t := by
  subst ht
  obtain ⟨hlq, hlo⟩ := landed_queue (x := x) p n rest got hu
  obtain ⟨w, hw, ha, ho⟩ := arriveAll_front p n got hlq
  have hin := arriveAll_within (s := landed c q p n rest got x u s) (c := c) (q := q) p n got
  have hm : (arriveAll c q p n got (landed c q p n rest got x u s)).mem = s.mem.write (ringLoc x.rcd u.rcd p) got :=
    (hin.same .mem (by decide)).trans (landed_mem p n rest got)
  refine ⟨⟨w, hw, ha⟩, ?_, fun k hk => ?_, fun k hk => (ho k hk).trans (hlo k hk), fun part hp => ?_⟩
  · rw [← hlen]; exact memRead_write _ _ hs hm
  · exact memRead_write_other _ _ hm k (by rwa [hlen])
  · refine Part.same_trans ((landed_within p n rest got).same part hp) (hin.same part fun h => hp ?_)
    revert h; cases part <;> decide

theorem fetcherGoIdle_fetching (hu : s.queue c q = some u) (hst : u.state = .fetching) (hd : u.f = u.d) :
    fetcherGoIdle c q s = modQueue c q (fun x => { x with state := .idleArmed }) s := by
  simp [fetcherGoIdle, queueAt_of_queue hu, hst, hd]

theorem fetcherGoIdle_armed (hu : s.queue c q = some u) (hst : u.state = .idleArmed) :
    fetcherGoIdle c q s = modQueue c q (fun x => { x with state := if x.f = x.d then .idle else .fetching }) s := by
  simp [fetcherGoIdle, queueAt_of_queue hu, hst]

/-- What FETCHER_GO_IDLE leaves where it changes the queue. -/
theorem fetcherGoIdle_leaves (hu : s.queue c q = some u) (f : Queue → Queue) (hf : fetcherGoIdle c q s = modQueue c q f s) :
    ∃ t, Machine.exec (.fetcherGoIdle c q) s = .next t ∧ t.queue c q = some (f u) ∧ OtherQueuesSame (qkey c q) s t ∧
      OnlyIn [.front] s t := by
  have he : Machine.exec (.fetcherGoIdle c q) s = .next (modQueue c q f s) := by rw [← hf]; rfl
  exact ⟨_, he, (modQueue_queue c q f s).trans (by rw [queueAt_of_queue hu]), modQueue_others c q f s, onlyIn_of_exec he⟩

/-- The address of a ring slot within its function and PASID (R62). -/
theorem ringLoc_addr_mod (x : CtxRec) (r : QueueRec) (p : Nat) :
    (ringLoc x r p).addr % 2 ^ 64 = (r.ringBase + (p % 2 ^ r.ringLog2) * 64) % 2 ^ 64 := Nat.mul_add_mod' _ _ _

end

/-- Settles O6: clause by clause, from what the fetch, its return and the grant leave of the queue. -/
theorem entriesAreFetchedAndGranted : Obligations.EntriesAreFetchedAndGranted := by
  unfold Obligations.EntriesAreFetchedAndGranted
  refine ⟨⟨?issue, ?ok, ?failed, ?idle⟩, ?grant⟩
  case issue =>
    intro c q n x u s hu hx hm
    refine ⟨fun hf => ?_, fun hf => ?_⟩
    · obtain ⟨w, hw, hc⟩ := (takeFetch_waiting (qkey c q) (some x.rcd.tenant) n u.f s).2 hf
      have he : Machine.exec (.fetchIssue c q n) s = .next (takeFetch (qkey c q) (some x.rcd.tenant) u.f n s).2 := by
        rw [← fetchIssue_waits hu hx hm hf]; rfl
      exact ⟨_, he, rfl, ⟨w, hw, hc⟩, (takeFetch_parts _ _ _ _ s).onlyIn⟩
    · obtain ⟨hq, ho, hp⟩ := fetchIssue_after hu hx hm hf
      have he : Machine.exec (.fetchIssue c q n) s = .next (fetchIssue c q n s) := rfl
      exact ⟨_, _, he, hq, rfl, le_skipTaken _ _ _, mayFetch_le hu hm, rfl, rfl, ho, hp, onlyIn_of_exec he⟩
  case ok =>
    intro c q p n rest b x u s hs hu hx hi
    obtain ⟨⟨w, hw, ha⟩, hread, hout, ho, hin⟩ := arriveAll_landed (rest := rest) (x := x) (p := p) (t := fetchReturn c q (.ok b) s) hs
      (padTo_take_length (64 * n) b) hu (fetchReturn_ok b hu hx hi)
    obtain ⟨hrest, hplaced, hkept, honly⟩ := ha
    refine ⟨_, w, rfl, hw, by rw [hrest], by rw [hrest], by rw [hrest], by rw [hrest], hplaced, hkept, fun f hf => ?_, hread, hout, ho, hin⟩
    exact (honly f hf).imp_right And.left
  case failed =>
    intro c q p n rest rd x u s hu hi hrd hx ha
    refine ⟨_, rfl, ?_⟩
    rw [fetchReturn_failed hu hx hi hrd]
    exact beginTeardown_fault (s := modQueue c q (fun a => { a with inflight := rest }) s) hx ha
      (info := { FaultInfo.of .access 0xFFFFFFFF s.now with queue := q, address := (ringLoc x.rcd u.rcd p).addr % 2 ^ 64 })
      (show _ ∧ _ ∧ _ from ⟨rfl, rfl, ringLoc_addr_mod x.rcd u.rcd p⟩)
  case idle =>
    intro c q u s hu
    exact ⟨fun hst hd => fetcherGoIdle_leaves hu _ (fetcherGoIdle_fetching hu hst hd),
      fun hst => fetcherGoIdle_leaves hu _ (fetcherGoIdle_armed hu hst)⟩
  case grant =>
    intro slot c q n u s
    dsimp only
    intro hf ht hc hn
    have ht : turnOf slot s = some c := by cases slot <;> exact ht
    refine ⟨fun hp hu hm => ?_, fun h0 hp hu hm => ?_⟩
    · obtain rfl : (moved c q u s).1 = n := hm
      obtain ⟨t, he, hq, hl, hlc, ho, hin⟩ := arbiterGrant_leaves hc hf ht hu (grantCtx_credit hp hu hn)
      exact ⟨t, he, hq, moved_le c q u s, rfl, rfl, hl, hlc, ho, hin⟩
    · obtain rfl : (moved c q u (reloaded c s)).1 = n := hm
      obtain ⟨t, he, hq, hl, -, ho, hin⟩ := arbiterGrant_leaves hc hf ht hu (grantCtx_reload h0 hp hu hn)
      refine ⟨t, he, hq, moved_le c q u _, fun q' w hlt hne hw => ?_, hl, hin⟩
      have hk : qkey c q' ≠ qkey c q := by simp only [qkey]; omega
      exact reloaded_credit hlt ((ho _ hk).symm.trans hw)

end Sys2Proof.Machine
end

section
/-! SUPPORT. What writes, fences, releases of objects and the end of loops and sequences leave alone (R37, R56, R119, R187, R199): every
context but for its save frames, and the keys and owners of the tables. -/

namespace Sys2Proof.Machine

variable {s0 s : State}

theorem Quiet.ite {c : Prop} [Decidable c] {a b : State} (ha : Quiet s0 a) (hb : Quiet s0 b) : Quiet s0 (if c then a else b) := by
  split
  · exact ha
  · exact hb

theorem Quiet.unless {c : Prop} [Decidable c] {a b : State} (ha : Quiet s0 a) (hb : Quiet s0 a → Quiet s0 b) :
    Quiet s0 (if c then a else b) := ha.ite (hb ha)

theorem Quiet.when {c : Prop} [Decidable c] {a b : State} (hb : Quiet s0 b) (ha : Quiet s0 b → Quiet s0 a) :
    Quiet s0 (if c then a else b) := (ha hb).ite hb

/-! ### Charges and host writes -/

theorem aggBytes_quiet (t cls n : Nat) (h : Quiet s0 s) : Quiet s0 (aggBytes t cls n s) := by
  unfold aggBytes
  dsimp only
  split
  · exact (usageSend_quiet _ h).setHub rfl
  · exact h.setHub rfl

theorem modUse_quiet (c : Nat) (f : Use → Use) (h : Quiet s0 s) : Quiet s0 (modUse c f s) := h.setHub rfl

theorem charge_quiet (c : Option Nat) (cls n : Nat) (h : Quiet s0 s) : Quiet s0 (charge c cls n s) := by
  unfold charge
  split
  · exact h
  · split
    · exact h
    · split
      · exact modUse_quiet _ _ h
      · exact aggBytes_quiet _ _ _ (modUse_quiet _ _ h)

theorem portWrite_quiet (key : Option Nat) (via : Via) (l : Loc) (bs : List Byte) (h : Quiet s0 s) :
    Quiet s0 (portWrite key via l bs s) :=
  h.within (portWrite_within _ _ _ _ (.refl _ s) (.refl _))

theorem hostWrite_quiet (c : Option Nat) (l : Loc) (bs : List Byte) (h : Quiet s0 s) : Quiet s0 (hostWrite c l bs s) := by
  unfold hostWrite
  split
  · exact h
  · exact charge_quiet _ _ _ (portWrite_quiet _ _ _ _ h)

theorem locWrite_quiet (c : Option Nat) (l : Loc) (bs : List Byte) (h : Quiet s0 s) : Quiet s0 (locWrite c l bs s) := by
  unfold locWrite writeBy
  split
  · exact hostWrite_quiet _ _ _ h
  · exact charge_quiet _ _ _ (portWrite_quiet _ _ _ _ h)

theorem chargeCycles_quiet (c k : Nat) (h : Quiet s0 s) : Quiet s0 (chargeCycles c k s) := by
  unfold chargeCycles
  split
  · exact h
  · dsimp only
    split
    · exact usageSend_quiet _ (modUse_quiet _ _ (updateGvt_quiet (h.setSched _)))
    · exact modUse_quiet _ _ (updateGvt_quiet (h.setSched _))

theorem chargeStream_quiet (p st : Nat) (h : Quiet s0 s) : Quiet s0 (chargeStream p st s) := by
  unfold chargeStream
  dsimp only
  split
  · exact h
  · exact chargeCycles_quiet _ _ (h.within (State.modStream_within _ _ _ (.refl _ s) (.refl _)))

theorem releaseStream_quiet (p st : Nat) (h : Quiet s0 s) : Quiet s0 (releaseStream p st s) :=
  h.within (releaseStream_within _ _ (.refl _ s) (.refl _))

/-! ### Fences, results, records -/

theorem modC_quiet (k pos : Nat) (f : Cmd → Cmd) (h : Quiet s0 s) : Quiet s0 (s.modC k pos f) := modQ_quiet k _ h

theorem finishOk_quiet (k pos : Nat) (h : Quiet s0 s) : Quiet s0 (finishOk k pos s) := modC_quiet _ _ _ h

theorem raiseEvent_quiet (e : Event) (h : Quiet s0 s) : Quiet s0 (raiseEvent e s) := h.within (raiseEvent_within _ (.refl _ s) (.refl _))

theorem fenceRise_quiet (c : Option Nat) (l : Loc) (compact : Bool) (v : Nat) (h : Quiet s0 s) :
    Quiet s0 (fenceRise c l compact v s) :=
  mapQueues_quiet _ (locWrite_quiet _ _ _ (h.within (Within.bramble (.refl _ s) (.refl _) _)))

theorem signalFence_quiet (c tag : Nat) (r : FenceRef) (h : Quiet s0 s) : Quiet s0 (signalFence c tag r s) := by
  unfold signalFence
  dsimp only
  split
  · exact trace_quiet _ _ _ _ _ (fenceRise_quiet _ _ _ _ h)
  · exact h
  · exact raiseEvent_quiet _ h

theorem signalOut_quiet (c k pos tag : Nat) (r : FenceRef) (h : Quiet s0 s) : Quiet s0 (signalOut c k pos tag r s) := by
  have hs := signalFence_quiet c tag r h
  exact Quiet.ite (hs.within (Within.bramble (.refl _ _) (.refl _) _)) hs

/-! ### Releases of objects -/

theorem updObject_quiet (key : Nat) (f : Obj → Obj) (h : Quiet s0 s) : Quiet s0 { s with objects := tupd s.objects key f } :=
  h.setObjects (.tupd fun _ => rfl)

theorem releaseOne_quiet (key : Nat) (h : Quiet s0 s) : Quiet s0 (releaseOne key s) := by
  unfold releaseOne
  split
  · exact h
  · next o _ =>
    have h1 : Quiet s0 { s with objects := tdel s.objects key } := h.setObjects (.tdel _)
    have h2 : Quiet s0 (match tget s.contexts (key / 2 ^ 20) with
        | some x => hostWrite (some (key / 2 ^ 20)) ((entryLoc x.rcd (key % 2 ^ 20)).plus 2) [0] { s with objects := tdel s.objects key }
        | none => { s with objects := tdel s.objects key }) := by
      split
      · exact hostWrite_quiet _ _ _ h1
      · exact h1
    dsimp only
    cases o.release with
    | none => exact h2
    | some f => exact signalOut_quiet _ _ _ _ _ h2

theorem dropRefMem_quiet (key : Nat) (h : Quiet s0 s) : Quiet s0 (dropRefMem key s) := by
  unfold dropRefMem releaseIfIdle
  split
  · split
    · exact releaseOne_quiet _ (updObject_quiet _ _ h)
    · exact updObject_quiet _ _ h
  · exact updObject_quiet _ _ h

theorem dropLines_quiet (g : Nat) (gone : Nat → Bool) (h : Quiet s0 s) : Quiet s0 (dropLines g gone s) :=
  h.within (dropLines_within _ _ (.refl _ s) (.refl _))

theorem freeVersions_quiet (key : Nat) (h : Quiet s0 s) : Quiet s0 (freeVersions key s) := by
  unfold freeVersions
  split
  · exact h
  · exact Quiet.foldl (fun _ _ h => dropRefMem_quiet _ h) _ (dropLines_quiet _ _ (h.setGraphs (.tdel _)))

theorem releaseObj_quiet (key : Nat) (h : Quiet s0 s) : Quiet s0 (releaseObj key s) := by
  unfold releaseObj
  split
  · split
    · exact releaseOne_quiet _ (freeVersions_quiet _ h)
    · exact h
  · exact h

theorem unref_quiet (key : Nat) (h : Quiet s0 s) : Quiet s0 (unref key s) := releaseObj_quiet _ (updObject_quiet _ _ h)

theorem unrefAll_quiet (keys : List Nat) (h : Quiet s0 s) : Quiet s0 (unrefAll keys s) := Quiet.foldl (fun _ k h => unref_quiet k h) _ h

theorem unbind_quiet (g ver : Nat) (h : Quiet s0 s) : Quiet s0 (unbind g ver s) := by
  unfold unbind
  split
  · exact h
  · next x hx =>
    dsimp only
    split
    · exact dropRefMem_quiet _ (dropLines_quiet _ _ (h.setGraphs (.tset hx rfl)))
    · exact h.setGraphs (.tset hx rfl)

/-! ### Models -/

theorem removeModel_quiet (id : Nat) (h : Quiet s0 s) : Quiet s0 (removeModel id s) := by
  unfold removeModel
  split
  · exact h
  · exact unref_quiet _ (freeFrames_quiet _ (Quiet.setWrd (stopJobs_quiet _ h) rfl))

theorem reapModel_quiet (id : Nat) (h : Quiet s0 s) : Quiet s0 (reapModel id s) := by
  unfold reapModel
  split
  · exact h
  · exact Quiet.ite (removeModel_quiet _ h) h

theorem reapModels_quiet (h : Quiet s0 s) : Quiet s0 (reapModels s) := h.foldl (fun _ e h => reapModel_quiet e.1 h) _

theorem orphanModels_quiet (c : Nat) (h : Quiet s0 s) : Quiet s0 (orphanModels c s) := reapModels_quiet (h.setWrd rfl)

theorem evictModel_quiet (k : Nat) (h : Quiet s0 s) : Quiet s0 (evictModel k s) := by
  unfold evictModel
  split
  · exact (freeFrames_quiet _ (stopJobs_quiet _ h)).setWrd rfl
  · exact h

theorem pushWork_quiet (k : Nat) (w : Work) (h : Quiet s0 s) : Quiet s0 (pushWork k w s) :=
  h.within (pushWork_within _ _ (.refl _ s) (.refl _))

theorem redemand_quiet (k : Nat) (h : Quiet s0 s) : Quiet s0 (redemand k s) := by
  unfold redemand demandModel
  split
  · split
    · split
      · split
        · exact pushWork_quiet _ _ (h.setWrd rfl)
        · exact h
      · exact h
    · exact h
  · exact h

/-! ### Sequences -/

theorem modSeq_quiet (i : Nat) (f : Seq → Seq) (hf : ∀ q, (f q).ctx = q.ctx) (h : Quiet s0 s) : Quiet s0 (s.modSeq i f) :=
  h.setTrestle (.refl _ _) (.tupd hf)

theorem modLoop_quiet (l : Nat) (f : Loop → Loop) (hf : ∀ lp, (f lp).ctx = lp.ctx) (h : Quiet s0 s) : Quiet s0 (s.modLoop l f) :=
  h.setTrestle (.tupd hf) (.refl _ _)

theorem dropHolder_quiet (f : Nat) (h : Quiet s0 s) : Quiet s0 (dropHolder f s) := by
  unfold dropHolder
  dsimp only
  split
  · split
    · exact setFrame_quiet _ _ h
    · split
      · exact setFrame_quiet _ _ h
      · exact freeFrame_quiet _ h
  · exact setFrame_quiet _ _ h

theorem dropLeaf_quiet (i : Nat) (h : Quiet s0 s) : Quiet s0 (dropLeaf i s) := by
  unfold dropLeaf
  split
  · exact h
  · split
    · exact h.setWrd rfl
    · exact h.setWrd rfl

theorem freePages_quiet (i : Nat) (h : Quiet s0 s) : Quiet s0 (freePages i s) := by
  unfold freePages
  split
  · exact h
  · exact modSeq_quiet _ _ (fun _ => rfl) (Quiet.foldl (fun _ l h => dropLeaf_quiet l h) _ (Quiet.foldl (fun _ f h => dropHolder_quiet f h) _ h))

theorem freeSeq_quiet (i : Nat) (h : Quiet s0 s) : Quiet s0 (freeSeq i s) := h.setTrestle (.refl _ _) (.tdel _)

theorem seqEnded_quiet (i : Nat) (h : Quiet s0 s) : Quiet s0 (seqEnded i s) := mapQueues_quiet _ h

theorem dropSeq_quiet (i : Nat) (h : Quiet s0 s) : Quiet s0 (dropSeq i s) := by
  unfold dropSeq
  split
  · exact h
  · exact seqEnded_quiet _ (freeSeq_quiet _ (unrefAll_quiet _ (freePages_quiet _ h)))

theorem writeBatch_quiet (l : Nat) (h : Quiet s0 s) : Quiet s0 (writeBatch l s) := h.within (writeBatch_within _ (.refl _ s) (.refl _))

theorem dropEntry_quiet (l i : Nat) (h : Quiet s0 s) : Quiet s0 (dropEntry l i s) := by
  unfold dropEntry
  split
  · exact h
  · split
    · dsimp only
      split
      · exact modLoop_quiet _ _ (fun _ => rfl) h
      · exact writeBatch_quiet _ (modLoop_quiet _ _ (fun _ => rfl) h)
    · exact h

theorem endSeq_quiet (i : Nat) (st : Status) (reason stop : Nat) (h : Quiet s0 s) : Quiet s0 (endSeq i st reason stop s) := by
  unfold endSeq
  split
  · exact h
  · refine dropEntry_quiet _ _ (seqEnded_quiet _ (freeSeq_quiet _ (unrefAll_quiet _ (modLoop_quiet _ _ (fun _ => rfl) ?_))))
    refine Quiet.unless (Quiet.unless (Quiet.unless (freePages_quiet i h) ?_) ?_) ?_
    · exact locWrite_quiet _ _ _
    · exact signalFence_quiet _ _ _
    · exact journal_quiet _ _ _ _ _ _ _

/-! ### Loops -/

theorem dropQueue_quiet (cls q : Nat) (h : Quiet s0 s) : Quiet s0 (dropQueue cls q s) :=
  h.within (dropQueue_within _ _ (.refl _ s) (.refl _))

theorem journalPut_quiet (c : Nat) (j : Jnl) (h : Quiet s0 s) : Quiet s0 (journalPut c j s).2 := by
  unfold journalPut
  split
  · exact h
  · dsimp only
    split
    · exact bump_quiet _ (dropItem_quiet _ _ _ (locWrite_quiet _ _ _ (locWrite_quiet _ _ _ h)))
    · exact h

theorem journalOne_quiet (l : Nat) (h : Quiet s0 s) : Quiet s0 (journalOne l s) := by
  unfold journalOne
  split
  · exact h
  · split
    · exact h
    · exact modLoop_quiet _ _ (fun _ => rfl) (journalPut_quiet _ _ h)

theorem journalDrain_quiet (l n : Nat) (h : Quiet s0 s) : Quiet s0 (journalDrain l n s) := by
  induction n generalizing s with
  | zero => exact h
  | succ n ih => exact ih (journalOne_quiet l h)

theorem addRef_quiet (key : Nat) (h : Quiet s0 s) : Quiet s0 (addRef key s) := updObject_quiet _ _ h

theorem leaveJournal_quiet (l : Nat) (h : Quiet s0 s) : Quiet s0 (leaveJournal l s) := by
  have h1 : ∀ o : Option Jnl, Quiet s0 (match o with
      | some j => if jnlInside j s then journalDrain l j.waiting.length s else s
      | none => s) := by
    intro o
    cases o with
    | none => exact h
    | some j => exact Quiet.ite (journalDrain_quiet _ _ h) h
  unfold leaveJournal
  dsimp only
  split
  · exact h1 _
  · split
    · exact h1 _
    · exact Quiet.ite (dropQueue_quiet _ _ (h1 _)) (addRef_quiet _ ((h1 _).setTrestle (.refl _ _) (.refl _ _)))

theorem dropLeft_quiet (c : Nat) (h : Quiet s0 s) : Quiet s0 (dropLeft c s) :=
  Quiet.foldl (fun _ _ h => unref_quiet _ (dropQueue_quiet _ _ h)) _ (h.setTrestle (.refl _ _) (.refl _ _))

theorem dropLoopRes_quiet (l : Nat) (h : Quiet s0 s) : Quiet s0 (dropLoopRes l s) := by
  unfold dropLoopRes
  dsimp only
  split
  · exact releaseRes_quiet _ (dropSave_quiet _ (dropJobs_quiet _ h))
  · exact dropJobs_quiet _ h

theorem replayResult_quiet (lp : Loop) (h : Quiet s0 s) : Quiet s0 (replayResult lp s) := by
  unfold replayResult
  split
  · exact h
  · exact modC_quiet _ _ _ h

/-- What follows the removal of a loop (R199). -/
def loopClosed (lp : Loop) (s : State) : State :=
  let s := unrefAll lp.pins (unbind lp.gkey lp.ver (replayResult lp s))
  reapModels (match lp.closer with
    | some (k, pos) => finishOk k pos s
    | none => s)

theorem loopClosed_quiet (lp : Loop) (h : Quiet s0 s) : Quiet s0 (loopClosed lp s) := by
  have h1 := unrefAll_quiet lp.pins (unbind_quiet lp.gkey lp.ver (replayResult_quiet lp h))
  unfold loopClosed
  refine reapModels_quiet ?_
  split
  · exact finishOk_quiet _ _ h1
  · exact h1

/-- A loop that is open is left, removed, and what it held given up (R199). -/
theorem closeLoop_some {l : Nat} {lp : Loop} (hl : tget s.trestle.loops l = some lp) :
    ∃ t, closeLoop l s = loopClosed lp { t with trestle := { t.trestle with loops := tdel t.trestle.loops l } } ∧
      ∀ s0, Quiet s0 s → Quiet s0 t := by
  refine ⟨dropQueue 5 l (dropLoopRes l (leaveJournal l s)), ?_, fun s0 h =>
    dropQueue_quiet _ _ (dropLoopRes_quiet _ (leaveJournal_quiet _ h))⟩
  simp only [closeLoop, hl]
  rfl

theorem closeLoop_none {l : Nat} (hl : tget s.trestle.loops l = none) : closeLoop l s = s := by
  simp only [closeLoop, hl]

theorem closeLoop_quiet (l : Nat) (h : Quiet s0 s) : Quiet s0 (closeLoop l s) := by
  cases hl : tget s.trestle.loops l with
  | none => rw [closeLoop_none hl]; exact h
  | some lp =>
    obtain ⟨t, ht, hq⟩ := closeLoop_some hl
    rw [ht]
    exact loopClosed_quiet lp ((hq s0 h).setTrestle (.tdel _) (.refl _ _))

theorem closeIfDone_quiet (l : Nat) (h : Quiet s0 s) : Quiet s0 (closeIfDone l s) := by
  unfold closeIfDone
  split
  · exact h
  · exact Quiet.ite (closeLoop_quiet _ h) h

end Sys2Proof.Machine
end

section
/-! SUPPORT. The end of a teardown (R37) and what a map-out does to contexts (R249 to R251): a context that is not ACTIVE keeps its state, a
FREE one stays FREE. -/

namespace Sys2Proof.Machine

variable {s0 s t : State}

/-! ### Lost pages and moved frames -/

theorem lostRecord_quiet (q : Seq) (f : Nat) (h : Quiet s0 s) : Quiet s0 (lostRecord q f s) :=
  h.within (lostRecord_within _ _ (.refl _ s) (.refl _))

theorem loseHolder_quiet (f : Nat) (uncorrectable : Bool) (i : Nat) (h : Quiet s0 s) : Quiet s0 (loseHolder f uncorrectable i s) := by
  unfold loseHolder
  have h1 : Quiet s0 (if uncorrectable then s.modSeq i (fun q => { q with lostPage := some f }) else s) :=
    Quiet.ite (modSeq_quiet _ _ (fun _ => rfl) h) h
  dsimp only
  split
  · exact h1
  · refine Quiet.ite h1 (Quiet.ite (modSeq_quiet _ _ (fun _ => rfl) h1) (Quiet.ite ?_ ?_))
    · exact endSeq_quiet _ _ _ _ (lostRecord_quiet _ _ h1)
    · exact endSeq_quiet _ _ _ _ h1

theorem modEntry_quiet (f : Nat) (g : LeafEntry → LeafEntry) (h : Quiet s0 s) : Quiet s0 (modEntry f g s) := h.setWrd rfl

theorem losePage_quiet (f : Nat) (uncorrectable : Bool) (h : Quiet s0 s) : Quiet s0 (losePage f uncorrectable s) := by
  unfold losePage
  dsimp only
  refine Quiet.foldl (fun _ l h => closeIfDone_quiet l h) _ (Quiet.foldl (fun _ _ h => loseHolder_quiet _ _ _ h) _ ?_)
  have h1 : ∀ g x, Quiet s0 (setFrame g x (modEntry g (fun e => { e with lost := true }) s)) := fun g x =>
    setFrame_quiet g x (modEntry_quiet _ _ h)
  split
  · split
    · exact modLoop_quiet _ _ (fun _ => rfl) (h1 _ _)
    · exact h1 _ _
  · exact h1 _ _

theorem movePage_quiet (src dst fmt : Nat) (demote early background : Bool) (c : Option Nat) (h : Quiet s0 s) :
    Quiet s0 (movePage src dst fmt demote early background c s) := by
  have h1 : ∀ k n w x, Quiet s0 (startJob k n background w (modEntry src (fun e => { e with frame := dst }) (setFrame dst x s))) :=
    fun k n w x => startJob_quiet _ _ _ _ (modEntry_quiet _ _ (setFrame_quiet _ _ h))
  exact trace_quiet _ _ _ _ _ (Quiet.ite (freeFrame_quiet _ (h1 _ _ _ _)) (h1 _ _ _ _))

theorem mapMove_quiet (f dst : Nat) (h : Quiet s0 s) : Quiet s0 (mapMove f dst s) := by
  unfold mapMove
  dsimp only
  split
  · exact movePage_quiet _ _ _ _ _ _ _ h
  · exact startJob_quiet _ _ _ _ (setFrame_quiet _ _ h)

/-- What becomes of a model whose frame is given up (R249). -/
def giveUpModel (f : Nat) (s : State) : State :=
  match s.wrd.models.find? (fun e => e.2.frames.contains f) with
  | some (k, _) => redemand k (evictModel k s)
  | none => freeFrame f s

theorem giveUpModel_quiet (f : Nat) (h : Quiet s0 s) : Quiet s0 (giveUpModel f s) := by
  unfold giveUpModel
  split
  · exact redemand_quiet _ (evictModel_quiet _ h)
  · exact freeFrame_quiet _ h

theorem leaveFrame_quiet (f : Nat) (dst : Option Nat) (h : Quiet s0 s) : Quiet s0 (leaveFrame f dst s) := by
  unfold leaveFrame
  refine Quiet.ite h ?_
  split
  · split
    · exact mapMove_quiet _ _ h
    · exact giveUpModel_quiet f h
  · split
    · exact mapMove_quiet _ _ h
    · split
      · exact mapMove_quiet _ _ h
      · exact h

theorem forgetSave_quiet (f : Nat) (h : Quiet s0 s) : Quiet s0 (forgetSave f s) :=
  h.trans ⟨⟨rfl, rfl, .refl _ _, .refl _ _, .refl _ _, .refl _ _, .refl _ _⟩,
    fun k => by simp only [forgetSave, tget_tmapv, Option.map_map]; rfl, rfl⟩

/-! ### What settles: FREE stays FREE, and a context that is not ACTIVE keeps its state -/

/-- Nothing is added to the tables, no HUB_OBJ_CMD is answered, a FREE context stays FREE and one that is not ACTIVE keeps its state. -/
structure Settled (s t : State) : Prop extends Held s t where
  free : ∀ k, tget s.contexts k = none → tget t.contexts k = none
  kept : ∀ k x, tget s.contexts k = some x → x.state ≠ .active → (tget t.contexts k).map Context.state = some x.state

theorem Settled.refl (s : State) : Settled s s := ⟨.refl s, fun _ h => h, fun _ x h _ => by rw [h]; rfl⟩

theorem Settled.trans {u : State} (h : Settled s t) (h' : Settled t u) : Settled s u := by
  refine ⟨h.toHeld.trans h'.toHeld, fun k hk => h'.free k (h.free k hk), fun k x hx ha => ?_⟩
  obtain ⟨y, hy, hst⟩ := Option.map_eq_some_iff.1 (h.kept k x hx ha)
  rw [h'.kept k y hy (hst ▸ ha), hst]

theorem Quiet.settled (h : Quiet s t) : Settled s t := by
  refine ⟨h.toHeld, fun k hk => ?_, fun k x hx _ => ?_⟩
  · have := h.ctx k
    rw [hk] at this
    exact Option.map_eq_none_iff.1 this
  · obtain ⟨y, hy, hb⟩ := h.ctx_some hx
    rw [hy]
    exact congrArg (fun z => some z.state) hb

theorem Settled.quiet (h : Settled s0 s) (hq : Quiet s t) : Settled s0 t := h.trans hq.settled

theorem Settled.foldl {α : Type} {f : State → α → State} (hf : ∀ s a, Settled s0 s → Settled s0 (f s a)) (l : List α)
    (h : Settled s0 s) : Settled s0 (l.foldl f s) := by
  induction l generalizing s with
  | nil => exact h
  | cons a l ih => exact ih (hf s a h)

theorem Settled.ite {c : Prop} [Decidable c] {a b : State} (ha : Settled s0 a) (hb : Settled s0 b) :
    Settled s0 (if c then a else b) := by
  split
  · exact ha
  · exact hb

theorem Settled.when {c : Prop} [Decidable c] {a b : State} (hb : Settled s0 b) (ha : Settled s0 b → Settled s0 a) :
    Settled s0 (if c then a else b) := (ha hb).ite hb

/-! ### Teardowns, stages and map-outs -/

/-- The mark of an ACTIVE context changes no other context's state (R36, R37). -/
theorem markTeardown_settled {c : Nat} {x : Context} (fault : Bool) (info : FaultInfo) (hr : Option (Nat × List Byte))
    (hx : tget s.contexts c = some x) (ha : x.state = .active) : Settled s (markTeardown c fault info hr x s) := by
  have hw := markTeardown_within c fault info hr x (.refl [.port, .mem, .contexts, .watch, .hutch] s) (.refl _)
  refine ⟨.within hw, fun k hk => ?_, fun k y hy hna => ?_⟩
  · rw [markTeardown_contexts, tget_tset_ne _ _ (fun e => by simp [e, hx] at hk), hk]
  · have hne : k ≠ c := by
      rintro rfl
      exact hna ((Option.some.inj (hx.symm.trans hy)) ▸ ha)
    rw [markTeardown_contexts, tget_tset_ne _ _ hne, hy]
    rfl

theorem beginTeardown_settled (c : Nat) (fault : Bool) (info : FaultInfo) (hr : Option (Nat × List Byte)) (h : Settled s0 s) :
    Settled s0 (beginTeardown c fault info hr s) := by
  cases hx : tget s.contexts c with
  | none => simpa [beginTeardown, hx] using h
  | some x =>
    by_cases ha : x.state = .active
    · rw [beginTeardown_eq hx ha]
      exact (h.trans (markTeardown_settled fault info hr hx ha)).quiet (stopContext_quiet _ _ _ (.refl _))
    · simpa [beginTeardown, hx, ha] using h

theorem tearArena_settled (m : Mapout) (h : Settled s0 s) : Settled s0 (tearArena m s) := by
  refine Settled.foldl (fun s e h => ?_) _ h
  exact Settled.ite (beginTeardown_settled _ _ _ _ h) h

theorem loseFrame_settled (f : Nat) (h : Settled s0 s) : Settled s0 (loseFrame f s) := by
  unfold loseFrame
  split
  · exact h.quiet (losePage_quiet _ _ (.refl s))
  · exact h.quiet (giveUpModel_quiet f (.refl s))
  · split
    · exact (beginTeardown_settled _ _ _ _ h).quiet (freeFrame_quiet _ (forgetSave_quiet _ (.refl _)))
    · exact h.quiet (freeFrame_quiet _ (.refl s))

theorem orderStage4_quiet (cause : Nat) (byCmd : Bool) (h : Quiet s0 s) : Quiet s0 (orderStage4 cause byCmd s) :=
  h.within (orderStage4_within _ _ (.refl _ s) (.refl _))

theorem capacityEvent_quiet (phase : Nat) (m : Mapout) (h : Quiet s0 s) : Quiet s0 (capacityEvent phase m s) :=
  h.within (capacityEvent_within _ _ (.refl _ s) (.refl _))

theorem notify_quiet (h : Quiet s0 s) : Quiet s0 (notify s) := h.within (notify_within (.refl _ s) (.refl _))

theorem mapoutEnd_quiet (m : Mapout) (h : Quiet s0 s) : Quiet s0 (mapoutEnd m s) :=
  notify_quiet (Quiet.setWrd (h.within (hutchRec_within _ _ _ (.refl _ s) (.refl _))) rfl)

theorem doneWork_quiet (k : Nat) (w : Work) (h : Quiet s0 s) : Quiet s0 (doneWork k w s) :=
  h.within (doneWork_within _ _ (.refl _ s) (.refl _))

theorem putResult_quiet (k : Nat) (m : Cmd) (hOff oOff : Nat) (bs : List Byte) (h : Quiet s0 s) :
    Quiet s0 (putResult k m hOff oOff bs s) := by
  unfold putResult
  split
  · exact modC_quiet _ _ _ h
  · exact h

theorem finishTest_quiet (k pos word : Nat) (h : Quiet s0 s) : Quiet s0 (finishTest k pos word s) := by
  unfold finishTest
  split
  · exact Quiet.ite (finishOk_quiet _ _ (putResult_quiet _ _ _ _ _ h)) h
  · exact h

theorem testEnd_quiet (p detail : Nat) (h : Quiet s0 s) : Quiet s0 (testEnd p detail s) := by
  unfold testEnd
  split
  · exact h
  · exact doneWork_quiet _ _ (finishTest_quiet _ _ _ (h.within (Within.power (.refl _ s) (.refl _) _)))

theorem stageEnd_quiet (x : Stage) (flags : Nat) (h : Quiet s0 s) : Quiet s0 (stageEnd x flags s) :=
  h.within (stageEnd_within _ _ (.refl _ s) (.refl _))

theorem rstDone_quiet (r : Nat) (h : Quiet s0 s) : Quiet s0 (rstDone r s) := h.setWatch _

theorem dropStage_quiet (n unit : Nat) (h : Quiet s0 s) : Quiet s0 (dropStage n unit s) := h.setWatch _

theorem emitAll_quiet (os : List PortOut) (h : Quiet s0 s) : Quiet s0 (emitAll os s) := h.within (emitAll_within _ (.refl _ s) (.refl _))

theorem settlePart_quiet (p : Nat) (h : Quiet s0 s) : Quiet s0 (settlePart p s) := by
  unfold settlePart
  split
  · exact h
  · next x _ =>
    refine Quiet.ite (trace_quiet _ _ _ _ _ (dropStage_quiet _ _ ?_)) h
    have hb : ∀ f, Quiet s0 (setBenches (partBenches p) f (emitAll (((partBenches p).filter (fun b => (benchAt b s).state == .out)).map
        (fun b => .clear b none)) s)) := fun f => setBenches_quiet _ f (emitAll_quiet _ h)
    have ht : ∀ {t}, Quiet s0 t → Quiet s0 (stageEnd x 0 (if x.test then testEnd p x.detail t else t)) :=
      fun h => stageEnd_quiet _ _ (Quiet.when h (testEnd_quiet _ _))
    exact Quiet.when (ht (Quiet.setSched (Quiet.unless h fun _ => hb _) _)) (rstDone_quiet _)

theorem startMapout_settled (m : Mapout) (h : Settled s0 s) : Settled s0 (startMapout m s) := by
  unfold startMapout
  refine Settled.foldl (fun s f h => Settled.ite (loseFrame_settled _ h) (h.quiet (leaveFrame_quiet _ _ (.refl s)))) _ ?_
  refine Settled.when (Settled.when (Settled.when (h.quiet (capacityEvent_quiet 1 _ ?_)) ?_) ?_) ?_
  · split
    · refine Quiet.within ?_ (State.modSlice_within _ _ (.refl [.slices] _) (.refl _))
      exact Quiet.setWrd (.refl s) rfl
    · exact Quiet.setWrd (.refl s) rfl
  · exact fun h => h.quiet (Quiet.within (.refl _) (Within.hutch (.refl _ _) (.refl _) _))
  · exact tearArena_settled _
  · exact fun h => h.quiet (orderStage4_quiet _ _ (.refl _))

theorem beginMapout_settled (m : Mapout) (h : Settled s0 s) : Settled s0 (beginMapout m s) := by
  unfold beginMapout
  split
  · exact (startMapout_settled m h).quiet (settlePart_quiet _ (.refl _))
  · exact startMapout_settled m h

theorem settleMapout_settled (n : Nat) (h : Settled s0 s) : Settled s0 (settleMapout n s) := by
  induction n generalizing s with
  | zero => exact h
  | succ n ih =>
    unfold settleMapout
    split
    · exact Settled.ite (ih (h.quiet (mapoutEnd_quiet _ (capacityEvent_quiet 2 _ (.refl s))))) h
    · split
      · refine ih (beginMapout_settled _ (h.trans ⟨?_, fun _ h => h, fun _ _ hx _ => by rw [hx]; rfl⟩))
        exact ⟨rfl, rfl, .refl _ _, .refl _ _, .refl _ _, .refl _ _, .refl _ _⟩
      · exact h

/-- With no map-out waiting no context changes (R251). -/
theorem settleMapout_quiet (n : Nat) (hw : s.wrd.mapoutWait = []) (h : Quiet s0 s) : Quiet s0 (settleMapout n s) := by
  induction n generalizing s with
  | zero => exact h
  | succ n ih =>
    unfold settleMapout
    split
    · next m _ =>
      have hq : ∀ {s0}, Quiet s0 s → Quiet s0 (mapoutEnd m (capacityEvent 2 m s)) := fun h => mapoutEnd_quiet _ (capacityEvent_quiet 2 _ h)
      exact Quiet.ite (ih ((hq (.refl s)).waits.trans hw) (hq h)) h
    · rw [hw]
      exact h

theorem checkMapout_settled (h : Settled s0 s) : Settled s0 (checkMapout s) := settleMapout_settled _ h

theorem checkMapout_quiet (hw : s.wrd.mapoutWait = []) (h : Quiet s0 s) : Quiet s0 (checkMapout s) := settleMapout_quiet _ hw h

end Sys2Proof.Machine
end

section
/-! SUPPORT. What a context owns goes with its teardown (R37 steps 3 to 5), and what the end of a teardown leaves. -/

namespace Sys2Proof.Machine

variable {s0 s t : State}

/-! ### What a context owns is gone -/

/-- No object, graph, loop or sequence of a context is left. -/
structure Gone (c : Nat) (s : State) : Prop where
  objects : ∀ e ∈ s.objects, e.1 / 2 ^ 20 ≠ c
  graphs : ∀ e ∈ s.graphs, e.1 / 2 ^ 20 ≠ c
  loops : ∀ e ∈ s.trestle.loops, e.2.ctx ≠ c
  seqs : ∀ e ∈ s.trestle.seqs, e.2.ctx ≠ c

theorem Gone.held {c : Nat} (h : Gone c s) (hh : Held s t) : Gone c t where
  objects := hh.objects.none_of (fun _ _ hk _ ha => hk ▸ ha) h.objects
  graphs := hh.graphs.none_of (fun _ _ hk _ ha => hk ▸ ha) h.graphs
  loops := hh.loops.none_of (fun _ _ _ ho ha => ho ▸ ha) h.loops
  seqs := hh.seqs.none_of (fun _ _ _ ho ha => ho ▸ ha) h.seqs

/-- The listed entries of a table are gone once each has been dropped by its key. -/
theorem foldl_drops {α β : Type} {own : α → β} {tab : State → Tab α} {f : Nat → State → State}
    (hq : ∀ k s, Quiet s (f k s)) (ht : ∀ s t, Quiet s t → OwnedIn own (tab t) (tab s)) (hd : ∀ k s, ∀ e ∈ tab (f k s), e.1 ≠ k)
    (l : Tab α) (s : State) : ∀ e ∈ tab (l.foldl (fun s e => f e.1 s) s), ∀ a ∈ l, e.1 ≠ a.1 := by
  induction l generalizing s with
  | nil => simp
  | cons b l ih =>
    intro e he a ha
    rcases List.mem_cons.1 ha with rfl | ha
    · have hr : Quiet (f a.1 s) (l.foldl (fun s e => f e.1 s) (f a.1 s)) :=
        Quiet.foldl (fun _ e h => h.trans (hq e.1 _)) l (.refl _)
      exact (ht _ _ hr).none_of (fun _ _ hk _ hn => hk ▸ hn) (hd a.1 s) e he
    · exact ih _ e he a ha

/-- The entries of an owner are gone once each has been dropped by its key. -/
theorem foldl_drops_owner {α : Type} {own : α → Nat} {tab : State → Tab α} {f : Nat → State → State}
    (hq : ∀ k s, Quiet s (f k s)) (ht : ∀ s t, Quiet s t → OwnedIn own (tab t) (tab s)) (hd : ∀ k s, ∀ e ∈ tab (f k s), e.1 ≠ k)
    (c : Nat) (h : Quiet s t) :
    ∀ e ∈ tab (((tab s).filter (fun e => own e.2 == c)).foldl (fun s e => f e.1 s) t), own e.2 ≠ c := by
  intro e he ho
  have hr := Quiet.foldl (s0 := s) (fun _ (e : Nat × α) h => h.trans (hq e.1 _)) ((tab s).filter (fun e => own e.2 == c)) h
  obtain ⟨a, ha, hk, hoa⟩ := ht _ _ hr e he
  exact foldl_drops hq ht hd _ t e he a (List.mem_filter.2 ⟨ha, by simp [hoa, ho]⟩) hk.symm

theorem dropSeq_key (k : Nat) (s : State) : ∀ e ∈ (dropSeq k s).trestle.seqs, e.1 ≠ k := by
  unfold dropSeq
  split
  · next h => exact fun e he => ne_of_mem_of_tget_none h he
  · exact (seqEnded_quiet _ (.refl _)).seqs.none_of (fun _ _ hk _ hn => hk ▸ hn) fun e he => (mem_tdel.1 he).2

theorem closeLoop_key (k : Nat) (s : State) : ∀ e ∈ (closeLoop k s).trestle.loops, e.1 ≠ k := by
  cases hl : tget s.trestle.loops k with
  | none => rw [closeLoop_none hl]; exact fun e he => ne_of_mem_of_tget_none hl he
  | some lp =>
    obtain ⟨t, ht, -⟩ := closeLoop_some hl
    rw [ht]
    exact (loopClosed_quiet lp (.refl _)).loops.none_of (fun _ _ hk _ hn => hk ▸ hn) fun e he => (mem_tdel.1 he).2

/-- The sequences of a context are dropped. -/
def dropSeqs (c : Nat) (s : State) : State := (s.trestle.seqs.filter (fun e => e.2.ctx == c)).foldl (fun s e => dropSeq e.1 s) s

/-- The Journals of a context's closed loops are given up, and its loops closed. -/
def closeLoops (c : Nat) (s : State) : State :=
  (s.trestle.loops.filter (fun e => e.2.ctx == c)).foldl (fun s e => closeLoop e.1 s) (dropLeft c s)

/-- The instruction cache lines of a context's graphs are invalidated. -/
def dropGraphLines (c : Nat) (s : State) : State :=
  (s.graphs.filter (fun e => e.1 / 2 ^ 20 == c)).foldl (fun s e => dropLines e.1 (fun _ => true) s) s

theorem dropSeqs_quiet (c : Nat) (h : Quiet s0 s) : Quiet s0 (dropSeqs c s) := Quiet.foldl (fun _ e h => dropSeq_quiet e.1 h) _ h

theorem closeLoops_quiet (c : Nat) (h : Quiet s0 s) : Quiet s0 (closeLoops c s) := 
  Quiet.foldl (fun _ e h => closeLoop_quiet e.1 h) _ (dropLeft_quiet c h)

theorem dropGraphLines_quiet (c : Nat) (h : Quiet s0 s) : Quiet s0 (dropGraphLines c s) :=
  Quiet.foldl (fun _ _ h => dropLines_quiet _ _ h) _ h

theorem dropSeqs_seqs (c : Nat) (s : State) : ∀ e ∈ (dropSeqs c s).trestle.seqs, e.2.ctx ≠ c :=
  foldl_drops_owner (own := Seq.ctx) (tab := fun s => s.trestle.seqs)
    (fun k s => dropSeq_quiet k (.refl s)) (fun _ _ h => h.seqs) dropSeq_key c (.refl s)

theorem closeLoops_loops (c : Nat) (s : State) : ∀ e ∈ (closeLoops c s).trestle.loops, e.2.ctx ≠ c :=
  foldl_drops_owner (own := Loop.ctx) (tab := fun s => s.trestle.loops)
    (fun k s => closeLoop_quiet k (.refl s)) (fun _ _ h => h.loops) closeLoop_key c
    (dropLeft_quiet c (.refl s))

/-- The objects and graphs of a context leave their tables. -/
def dropKeys (c : Nat) (s : State) : State :=
  { s with objects := s.objects.filter (fun e => e.1 / 2 ^ 20 != c), graphs := s.graphs.filter (fun e => e.1 / 2 ^ 20 != c) }

theorem dropKeys_quiet (c : Nat) (h : Quiet s0 s) : Quiet s0 (dropKeys c s) :=
  h.trans ⟨⟨rfl, rfl, .filter _, .filter _, .refl _ _, .refl _ _, .refl _ _⟩, fun _ => rfl, rfl⟩

theorem dropOwned_eq (c : Nat) (s : State) :
    dropOwned c s = orphanModels c (dropKeys c (dropGraphLines c (closeLoops c (dropSeqs c s)))) := rfl

theorem dropOwned_quiet (c : Nat) (h : Quiet s0 s) : Quiet s0 (dropOwned c s) :=
  orphanModels_quiet c (dropKeys_quiet c (dropGraphLines_quiet c (closeLoops_quiet c (dropSeqs_quiet c h))))

theorem dropOwned_gone (c : Nat) (s : State) : Gone c (dropOwned c s) := by
  rw [dropOwned_eq]
  refine Gone.held (s := dropKeys c (dropGraphLines c (closeLoops c (dropSeqs c s)))) ⟨?_, ?_, ?_, ?_⟩
    (orphanModels_quiet c (.refl _)).toHeld
  · exact fun e he => by simpa using (List.mem_filter.1 he).2
  · exact fun e he => by simpa using (List.mem_filter.1 he).2
  · exact (dropGraphLines_quiet c (.refl (closeLoops c (dropSeqs c s)))).loops.none_of (fun _ _ _ ho ha => ho ▸ ha)
      (closeLoops_loops c _)
  · exact (dropGraphLines_quiet c (closeLoops_quiet c (.refl (dropSeqs c s)))).seqs.none_of
      (fun _ _ _ ho ha => ho ▸ ha) (dropSeqs_seqs c s)

/-! ### Streams, residencies, the fault record -/

theorem releaseStreams_quiet (c : Nat) (h : Quiet s0 s) : Quiet s0 (releaseStreams c s) :=
  Quiet.foldl (fun _ e h => releaseStream_quiet _ _ (Quiet.when h (chargeStream_quiet e.1 e.2))) _ h

theorem dropKept_quiet (c : Nat) (h : Quiet s0 s) : Quiet s0 (dropKept c s) := by
  unfold dropKept
  split
  · exact h
  · next x hx =>
    refine freeFrames_quiet _ (h.setContexts fun k => ?_)
    rw [tget_tset]
    split
    · next hk => rw [hk, hx]; rfl
    · rfl

theorem clearBench_quiet (b : Nat) (h : Quiet s0 s) : Quiet s0 (clearBench b s) := h.within (clearBench_within _ (.refl _ s) (.refl _))

theorem releaseAllRes_quiet (c : Nat) (h : Quiet s0 s) : Quiet s0 (releaseAllRes c s) :=
  dropKept_quiet c (Quiet.foldl (fun _ e h => releaseRes_quiet e.1 (Quiet.foldl (fun _ b h => clearBench_quiet b h) _ (dropSave_quiet _ h))) _ h)

theorem writeFault_quiet (c : Nat) (x : Context) (h : Quiet s0 s) : Quiet s0 (writeFault c x s) := by
  unfold writeFault
  split
  · exact h
  · exact hostWrite_quiet _ _ _ h

/-- Everything of a context has gone, and its fault record has been written (R37, R358). -/
def tornDown (c : Nat) (x : Context) (fault : Bool) (s : State) : State :=
  let s := releaseAllRes c (releaseStreams c (dropOwned c s))
  let s := { s with sched := { s.sched with passes := tdel s.sched.passes c } }
  if fault then writeFault c x s else s

theorem tornDown_quiet (c : Nat) (x : Context) (fault : Bool) (h : Quiet s0 s) : Quiet s0 (tornDown c x fault s) :=
  Quiet.when ((releaseAllRes_quiet c (releaseStreams_quiet c (dropOwned_quiet c h))).setSched _) (writeFault_quiet c x)

theorem tornDown_gone (c : Nat) (x : Context) (fault : Bool) (s : State) : Gone c (tornDown c x fault s) :=
  (dropOwned_gone c s).held (Quiet.when ((releaseAllRes_quiet c (releaseStreams_quiet c (.refl _))).setSched _) (writeFault_quiet c x)).toHeld

/-- The context becomes FREE or LOST, and a RETIRE that waited is reported (R37). -/
def leaveState (c : Nat) (x : Context) (fault : Bool) (s : State) : State :=
  let s := if fault then { s with contexts := tset s.contexts c { x with state := .lost, wantRetire := false, ordered := [], escalated := false } }
    else freeContext c s
  if x.wantRetire then objResult 0 s.hub.objLast s else s

theorem endTeardown_eq (c : Nat) (x : Context) (fault : Bool) (s : State) :
    endTeardown c x fault s = decisionPass (checkMapout (updateGvt
      (leaveState c (tgetD (tornDown c x fault s).contexts c x) fault (tornDown c x fault s)))) := rfl

theorem endTeardown_settled (c : Nat) (x : Context) (fault : Bool) (s : State) :
    Settled (leaveState c (tgetD (tornDown c x fault s).contexts c x) fault (tornDown c x fault s)) (endTeardown c x fault s) := by
  rw [endTeardown_eq]
  exact (checkMapout_settled (updateGvt_quiet (.refl _)).settled).quiet (decisionPass_quiet (.refl _))

end Sys2Proof.Machine
end

section
/-! SUPPORT and O2. HUB_OBJ_CMD of contexts (R35), and the end of a teardown (R37). -/

namespace Sys2Proof.Machine

section
variable {s : State}

/-! ### ACTIVATE -/

/-- The tenant that check 1 of R35 names is the record's (R27). -/
theorem parseCtx_tenant {b : List Byte} {r : CtxRec} (h : parseCtx b = some r) : bits (fld b 2 2) 9 0 = r.tenant := by
  simp only [parseCtx] at h
  split at h
  · cases h
  · split at h
    · next hc =>
      obtain rfl := Option.some.inj h
      obtain ⟨-, -, -, ht, -⟩ := hc
      simpa [bits] using Nat.mod_eq_of_lt ht
    · cases h

@[simp] theorem ctxLimit_readReq (r : CtxRec) (t : TenantRec) (key : Option Nat) (via : Via) (l : Loc) (n : Nat) (s : State) :
    ctxLimit r t (readReq key via l n s) = ctxLimit r t s := by
  rw [readReq_eq_port]; rfl

/-- An ACTIVATE whose record passes every check (R35). -/
theorem contextActivate_ok {id : Nat} {b : List Byte} {r : CtxRec} {tn : Tenant} (ho : cmdOpen s.hub.objBusy s = true)
    (hid : id < 16384) (hn : tget s.contexts id = none) (hp : parseCtx b = some r) (ht : tget s.tenants r.tenant = some tn)
    (ha : tn.rcd.allows r.cls = true) (hl : ctxLimit r tn.rcd s = false) :
    contextActivate id (.ok b) s =
      { s with port := (readReq none .hub (pfLoc (s.hub.ctxBase + id * 64)) 64 s).port,
               contexts := tset s.contexts id (Context.fresh r b),
               hub := { s.hub with objBusy := false, objResult := 0, objLast := id, uses := tdel s.hub.uses id } } := by
  have htn : tget (readReq none .hub (pfLoc (s.hub.ctxBase + id * 64)) 64 s).tenants r.tenant = some tn := by rw [readReq_eq_port]; exact ht
  simp only [contextActivate, ho, Bool.true_eq_false, if_false, Nat.mod_eq_of_lt hid, hn, Option.isSome_none, Bool.false_eq_true,
    parseCtx_tenant hp, htn, hp, ha, Bool.not_true, ctxLimit_readReq, hl]
  rw [readReq_eq_port]
  rfl

/-! ### RETIRE -/

section
variable {id : Nat} {x : Context}

theorem contextRetire_free (ho : cmdOpen s.hub.objBusy s = true) (hid : id < 16384) (hn : tget s.contexts id = none) :
    contextRetire id s = objResult 3 id s := by
  simp [contextRetire, ho, Nat.mod_eq_of_lt hid, hn]

theorem contextRetire_teardown {f : Bool} (ho : cmdOpen s.hub.objBusy s = true) (hid : id < 16384)
    (hx : tget s.contexts id = some x) (hst : x.state = .teardown f) : contextRetire id s = objResult 3 id s := by
  simp [contextRetire, ho, Nat.mod_eq_of_lt hid, hx, hst]

theorem contextRetire_lost (ho : cmdOpen s.hub.objBusy s = true) (hid : id < 16384)
    (hx : tget s.contexts id = some x) (hst : x.state = .lost) : contextRetire id s = objResult 0 id (freeContext id s) := by
  simp [contextRetire, ho, Nat.mod_eq_of_lt hid, hx, hst]

/-- The state in which the driver teardown of a RETIRE begins (R35). -/
def retiring (id : Nat) (x : Context) (s : State) : State :=
  { s with hub := { s.hub with objBusy := true, objLast := id }, contexts := tset s.contexts id { x with wantRetire := true } }

/-- The context of a RETIRE with the mark of its driver teardown (R37). -/
def Context.retired (now : Nat) (x : Context) : Context :=
  { x with state := .teardown false, teardownAt := now, cause := none, wantRetire := true }

/-- The latch of a driver teardown (R37). -/
def driverLatch : Latch := { status := .aborted, aux := 3 }

theorem contextRetire_active (ho : cmdOpen s.hub.objBusy s = true) (hid : id < 16384) (hx : tget s.contexts id = some x)
    (hst : x.state = .active) : contextRetire id s = stopContext id false driverLatch
      (markTeardown id false (FaultInfo.of .aborted 3 s.now) none { x with wantRetire := true } (retiring id x s)) := by
  have h : contextRetire id s = beginTeardown id false (FaultInfo.of .aborted 3 s.now) none (retiring id x s) := by
    simp [contextRetire, ho, Nat.mod_eq_of_lt hid, hx, hst, retiring, State.now]
  rw [h, beginTeardown_eq (x := { x with wantRetire := true }) (tget_tset_self _ _ _) hst]
  rfl

theorem freeContext_contexts (c k : Nat) (s : State) :
    tget (freeContext c s).contexts k = if k = c then none else tget s.contexts k := tget_tdel _ _ _

theorem freeContext_queues (c : Nat) (s : State) : ∀ e ∈ (freeContext c s).front.queues, e.1 / 256 ≠ c :=
  fun e he => by simpa using (List.mem_filter.1 he).2

end

/-! ### The queues of a stopped context -/

/-- A queue is not enabled. -/
def Off (k : Nat) (s : State) : Prop := ∀ u, tget s.front.queues k = some u → u.enabled = false

theorem Off.of_front {k : Nat} {s t : State} (h : Off k s) (hf : t.front = s.front) : Off k t := by
  unfold Off; rw [hf]; exact h

/-- A change of every queue that leaves the states. -/
theorem Off.map {k : Nat} (h : Off k s) {f : Nat → Queue → Queue} (hf : ∀ i q, (f i q).state = q.state) :
    Off k (s.modQueues (fun t => tmapv t f)) := by
  intro u hu
  simp only [State.modQueues, tget_tmapv] at hu
  obtain ⟨v, hv, rfl⟩ := Option.map_eq_some_iff.1 hu
  rw [Queue.enabled, hf, ← Queue.enabled]
  exact h v hv

/-- A change of one queue that takes it out of the enabled states. -/
theorem Off.modQ {k j : Nat} {f : Queue → Queue} (hf : ∀ q, (f q).enabled = false) (h : k = j ∨ Off k s) : Off k (s.modQ j f) := by
  intro u hu
  rw [State.modQ_tget] at hu
  split at hu
  · obtain ⟨v, -, rfl⟩ := Option.map_eq_some_iff.1 hu
    exact hf v
  · next hne => exact (h.resolve_left hne) u hu

theorem settleQueue_off {k j : Nat} (h : Off k s) : Off k (settleQueue j s) := by
  unfold settleQueue
  split
  · exact h
  · split
    · have h1 := Off.modQ (j := j) (f := fun q => { q with state := .stopped }) (fun _ => rfl) (.inr h)
      dsimp only
      split
      · exact h1
      · exact h1
    · exact h

theorem settleStops_off {k : Nat} (h : Off k s) : Off k (settleStops s) := h.map fun _ _ => rfl

theorem discardItems_front (j : Nat) (fs : List Fetched) (s : State) :
    (fs.foldl (fun s f => dropItem 1 j f.pos s) s).front = s.front :=
  (Within.foldl (fp := [.chest, .jnl]) (fun _ f h => dropItem_within 1 j f.pos h (.refl _)) fs (.refl _ s)).same .front (by decide)

theorem dropCells_front (j : Nat) (cs : List Cmd) (s : State) :
    (cs.foldl (fun s c => dropCmdCells j c.pos (eOp c.entry) s) s).front = s.front :=
  (Within.foldl (fp := [.chest, .jnl]) (fun _ c h => dropCmdCells_within j c.pos (eOp c.entry) h (.refl _)) cs (.refl _ s)).same .front
    (by decide)

/-- A shutdown enables no queue, and its own is not enabled after it (R94). -/
theorem shutQueue_off {k j : Nat} (l : Latch) (h : k = j ∨ Off k s) : Off k (shutQueue j l s) := by
  unfold shutQueue
  split
  · next hn =>
    rcases h with rfl | h
    · intro u hu; rw [hn] at hu; cases hu
    · exact h
  · next q _ =>
    refine settleQueue_off (settleStops_off (Off.of_front ?_ ((dropShadows_within (.refl _ _) (.refl _)).same .front (by decide))))
    refine Off.of_front ?_ ((stopWork_within _ (.refl _ _) (.refl _)).same .front (by decide))
    refine Off.modQ (fun _ => rfl) (h.imp_right fun h => h.of_front ?_)
    rw [dropCells_front, discardItems_front]
    exact (discardCells_within 0 j (.refl _ s) (.refl _)).same .front (by decide)

/-- The enabled queues of a list are shut. -/
def shutAll (l : Latch) (qs : Tab Queue) (s : State) : State :=
  qs.foldl (fun s e => if e.2.enabled then shutQueue e.1 l s else s) s

theorem shutAll_off {k : Nat} (l : Latch) (qs : Tab Queue) (h : (∃ e ∈ qs, e.1 = k ∧ e.2.enabled = true) ∨ Off k s) :
    Off k (shutAll l qs s) := by
  induction qs generalizing s with
  | nil => exact h.resolve_left (by simp)
  | cons a qs ih =>
    refine ih (s := if a.2.enabled then shutQueue a.1 l s else s) ?_
    rcases h with ⟨e, he, hk, hen⟩ | h
    · rcases List.mem_cons.1 he with rfl | he
      · right; rw [if_pos hen]; exact shutQueue_off l (.inl hk.symm)
      · exact .inl ⟨e, he, hk, hen⟩
    · right
      split
      · exact shutQueue_off l (.inr h)
      · exact h

/-- What follows the shutdown of the queues (R37): streams, jobs, joins and idle residencies. -/
def stopRest (c : Nat) (s : State) : State :=
  let s := dropJobs (fun j => j.ctx == c) (requestStops (streamsOf (fun z => z.ctx == c) s) s)
  decisionPass (dropIdleRes c { s with link := { s.link with joins := s.link.joins.filter (fun e => e.2.ctx != c) } })

theorem stopRest_front (c : Nat) (s : State) : (stopRest c s).front = s.front := by
  have h : Within [.port, .hub, .contexts, .slices, .trestle, .sched, .wrd, .chest, .watch, .jnl, .power, .link] s (stopRest c s) :=
    decisionPass_within (dropIdleRes_within c (Within.link (dropJobs_within _ (requestStops_within _ (.refl _ s) (by simp [Covers]))
      (by simp [Covers])) (by simp [Covers]) _) (by simp [Covers])) (by simp [Covers])
  exact h.same .front (by decide)

theorem stopContext_driver (c : Nat) (l : Latch) (s : State) :
    stopContext c false l s = stopRest c (shutAll l (ctxQueues c (forgetReleases c s)) (forgetReleases c s)) := rfl

/-- No queue of a context is enabled once everything of it has stopped for a driver teardown (R37). -/
theorem stopContext_off {c k : Nat} (l : Latch) (hk : k / 256 = c) (s : State) : Off k (stopContext c false l s) := by
  rw [stopContext_driver]
  refine Off.of_front (shutAll_off l _ ?_) (stopRest_front c _)
  by_cases hen : ∃ u, tget s.front.queues k = some u ∧ u.enabled = true
  · obtain ⟨u, hu, hen⟩ := hen
    exact .inl ⟨(k, u), List.mem_filter.2 ⟨mem_of_tget hu, by simp [hk]⟩, rfl, hen⟩
  · exact .inr fun u hu => Bool.eq_false_iff.2 fun h => hen ⟨u, hu, h⟩

/-! ### What a RETIRE of an ACTIVE context leaves -/

/-- Contexts that are the same but for their save frames. -/
theorem Context.eq_of_bare {x y : Context} (h : y.bare = x.bare) : y = { x with saveFrames := y.saveFrames } := by
  cases x; cases y
  simp only [Context.bare, Context.mk.injEq] at h ⊢
  simp only [h, and_self]

theorem retired_contexts {id : Nat} {x : Context} (k : Nat) (s : State) :
    tget (markTeardown id false (FaultInfo.of .aborted 3 s.now) none { x with wantRetire := true } (retiring id x s)).contexts k =
      if k = id then some (x.retired s.now) else tget s.contexts k := by
  rw [markTeardown_contexts, tget_tset]
  split
  · rfl
  · next hne => exact tget_tset_ne _ _ hne

/-- Every context but the retired one keeps everything but its save frames, and its own queues are not enabled (R35, R37). -/
theorem contextRetire_leaves {id : Nat} {x : Context} (ho : cmdOpen s.hub.objBusy s = true) (hid : id < 16384)
    (hx : tget s.contexts id = some x) (hst : x.state = .active) :
    (∃ fs, tget (contextRetire id s).contexts id = some { x.retired s.now with saveFrames := fs }) ∧
    (∀ k y, k ≠ id → tget s.contexts k = some y → ∃ fs, tget (contextRetire id s).contexts k = some { y with saveFrames := fs }) ∧
    (∀ q u, q < 256 → (contextRetire id s).queue id q = some u → u.enabled = false) ∧
    (contextRetire id s).hub.objSts = (true, s.hub.objResult, id) := by
  rw [contextRetire_active ho hid hx hst]
  generalize hm : markTeardown id false (FaultInfo.of .aborted 3 s.now) none { x with wantRetire := true } (retiring id x s) = m
  have hq := stopContext_quiet id false driverLatch (.refl m)
  have hctx : ∀ k y, tget m.contexts k = some y → ∃ fs, tget (stopContext id false driverLatch m).contexts k = some { y with saveFrames := fs } := by
    intro k y hy
    obtain ⟨z, hz, hb⟩ := hq.ctx_some hy
    exact ⟨z.saveFrames, hz.trans (congrArg some (Context.eq_of_bare hb))⟩
  refine ⟨hctx id _ ?_, fun k y hk hy => hctx k y ?_, fun q u hlt hu => ?_, ?_⟩
  · rw [← hm, retired_contexts, if_pos rfl]
  · rw [← hm, retired_contexts, if_neg hk, hy]
  · exact stopContext_off driverLatch (k := qkey id q) (by rw [qkey]; omega) m u hu
  · rw [hq.obj, ← hm]
    have hh := (markTeardown_within id false (FaultInfo.of .aborted 3 s.now) none { x with wantRetire := true }
      (.refl [.port, .mem, .contexts, .watch, .hutch] (retiring id x s)) (.refl _)).same .hub (by decide)
    exact congrArg Hub.objSts hh

/-! ### What the end of a teardown leaves -/

section
variable {c : Nat} {x : Context} {fault : Bool}

theorem leaveState_parts (c : Nat) (x : Context) (fault : Bool) (s : State) :
    (leaveState c x fault s).objects = s.objects ∧ (leaveState c x fault s).graphs = s.graphs ∧
    (leaveState c x fault s).trestle = s.trestle ∧ (leaveState c x fault s).wrd = s.wrd := by
  cases fault <;> cases hw : x.wantRetire <;> simp [leaveState, hw, objResult, freeContext]

theorem leaveState_gone (h : Gone c s) : Gone c (leaveState c x fault s) := by
  obtain ⟨ho, hg, ht, -⟩ := leaveState_parts c x fault s
  exact ⟨by rw [ho]; exact h.objects, by rw [hg]; exact h.graphs, by rw [ht]; exact h.loops, by rw [ht]; exact h.seqs⟩

theorem leaveState_other {k : Nat} (hk : k ≠ c) : tget (leaveState c x fault s).contexts k = tget s.contexts k := by
  have h1 : ∀ y, tget (tset s.contexts c y) k = tget s.contexts k := fun y => tget_tset_ne _ _ hk
  have h2 : tget (freeContext c s).contexts k = tget s.contexts k := by rw [freeContext_contexts, if_neg hk]
  cases fault <;> cases hw : x.wantRetire <;> simp [leaveState, hw, objResult, h1, h2]

theorem leaveState_free (s : State) : tget (leaveState c x false s).contexts c = none ∧
    ∀ e ∈ (leaveState c x false s).front.queues, e.1 / 256 ≠ c := by
  have h : (leaveState c x false s).contexts = (freeContext c s).contexts ∧ (leaveState c x false s).front = (freeContext c s).front := by
    cases hw : x.wantRetire <;> simp [leaveState, hw, objResult]
  rw [h.1, h.2]
  exact ⟨(freeContext_contexts c c s).trans (if_pos rfl), freeContext_queues c s⟩

theorem leaveState_lost (s : State) :
    ∃ y, tget (leaveState c x true s).contexts c = some y ∧ y.state = .lost := by
  cases hw : x.wantRetire <;> simp [leaveState, hw, objResult, tget_tset_self]

theorem leaveState_retired (hw : x.wantRetire = true) (s : State) :
    (leaveState c x fault s).hub.objBusy = false ∧ (leaveState c x fault s).hub.objResult = 0 := by
  simp [leaveState, hw, objResult]

/-- With no map-out waiting every other context keeps its state (R251). -/
theorem endTeardown_state (hw : s.wrd.mapoutWait = []) {k : Nat} (hk : k ≠ c) :
    (tget (endTeardown c x fault s).contexts k).map Context.state = (tget s.contexts k).map Context.state := by
  have hstate : ∀ {a b : State}, Quiet a b → (tget b.contexts k).map Context.state = (tget a.contexts k).map Context.state := by
    intro a b h
    have := congrArg (Option.map Context.state) (h.ctx k)
    rwa [Option.map_map, Option.map_map] at this
  have hquiet := tornDown_quiet c x fault (.refl s)
  rw [endTeardown_eq]
  generalize tgetD (tornDown c x fault s).contexts c x = y
  have hgvt := updateGvt_quiet (.refl (leaveState c y fault (tornDown c x fault s)))
  obtain ⟨-, -, -, hwrd⟩ := leaveState_parts c y fault (tornDown c x fault s)
  have hwait : (updateGvt (leaveState c y fault (tornDown c x fault s))).wrd.mapoutWait = [] := by
    rw [hgvt.waits, hwrd, hquiet.waits, hw]
  rw [hstate (decisionPass_quiet (checkMapout_quiet hwait hgvt)), leaveState_other hk, hstate hquiet]

end

end

/-- Settles O2: the commands by their checks, the driver teardown by what stops quietly, the end of a teardown by what is dropped by
its key and by what settles after it. -/
theorem contextsLiveAndEnd : Obligations.ContextsLiveAndEnd := by
  unfold Obligations.ContextsLiveAndEnd
  refine ⟨?activate, ?retire, ?done⟩
  case activate =>
    intro id b r tn s ho hid hn hp ht ha hl
    have he : Machine.exec (.contextActivate id (.ok b)) s = .next (contextActivate id (.ok b) s) := rfl
    refine ⟨_, he, ?_, rfl, fun k hk => ?_, ?_, ?_, onlyIn_of_exec he⟩ <;> rw [contextActivate_ok ho hid hn hp ht ha hl]
    · exact tget_tset_self _ _ _
    · exact tget_tset_ne _ _ hk
  case retire =>
    intro id s ho hid
    have he : Machine.exec (.contextRetire id) s = .next (contextRetire id s) := rfl
    refine ⟨fun hn => by rw [he, contextRetire_free ho hid hn], fun x hx => ⟨fun f hst => ?_, fun hst => ?_, fun hst => ?_⟩⟩
    · rw [he, contextRetire_teardown ho hid hx hst]
    · refine ⟨objResult 0 id (freeContext id s), by rw [he, contextRetire_lost ho hid hx hst], ?_, fun k hk => ?_,
        freeContext_queues id s, rfl, ?_⟩
      · exact (freeContext_contexts id id s).trans (if_pos rfl)
      · exact (freeContext_contexts id k s).trans (if_neg hk)
      · exact (objResult_within 0 id (freeContext_within id (.refl _ s) (by simp [Covers])) (by simp [Covers])).onlyIn
    · obtain ⟨hmine, hothers, hoff, hsts⟩ := contextRetire_leaves ho hid hx hst
      exact ⟨_, he, hmine, hothers, hoff, congrArg (·.1) hsts, congrArg (·.2.2) hsts, onlyIn_of_exec he⟩
  case done =>
    intro c x fault s hx hst hready
    have he : Machine.exec (.teardownDone c) s = .next (endTeardown c x fault s) := by
      have : teardownDone c s = endTeardown c x fault s := by simp [teardownDone, hx, hst, hready]
      rw [← this]; rfl
    have hset := endTeardown_settled c x fault s
    have hquiet := tornDown_quiet c x fault (.refl s)
    obtain ⟨y, hy, hb⟩ := hquiet.ctx_some hx
    have hyD : tgetD (tornDown c x fault s).contexts c x = y := by rw [tgetD, hy, Option.getD_some]
    rw [hyD] at hset
    have hgone : Gone c (endTeardown c x fault s) := (leaveState_gone (tornDown_gone c x fault s)).held hset.toHeld
    refine ⟨_, he, ?_, ?_, ?_, hgone.objects, hgone.graphs, hgone.loops, hgone.seqs, ?_, onlyIn_of_exec he⟩
    · rintro rfl
      obtain ⟨hfree, hqs⟩ := leaveState_free (c := c) (x := y) (tornDown c x false s)
      exact ⟨hset.free c hfree, hset.queues.none_of (fun _ _ hk _ ha => hk ▸ ha) hqs⟩
    · rintro rfl
      obtain ⟨z, hz, hlost⟩ := leaveState_lost (c := c) (x := y) (tornDown c x true s)
      rw [hset.kept c z hz (by rw [hlost]; decide), hlost]
    · intro hw k hk
      exact endTeardown_state hw hk
    · intro hw
      obtain ⟨hbusy, hres⟩ := leaveState_retired (c := c) (fault := fault) (x := y)
        ((congrArg Context.wantRetire hb).trans hw) (tornDown c x fault s)
      have ho := hset.obj
      exact ⟨(congrArg (·.1) ho).trans hbusy, (congrArg (·.2.1) ho).trans hres⟩

end Sys2Proof.Machine
end

section
/-! SUPPORT. Operations that do no more to the ports than send (R468, R472): the function-level state that decides which host writes are
discarded (R470) stays. -/

namespace Sys2Proof.Machine

variable {s0 s t : State}

/-- Requests and messages may have left the ports; nothing else of the ports has changed. -/
def OutOnly (s t : State) : Prop := { t.port with out := [] } = { s.port with out := [] }

theorem OutOnly.refl (s : State) : OutOnly s s := rfl

theorem OutOnly.trans {u : State} (h : OutOnly s t) (h' : OutOnly t u) : OutOnly s u := Eq.trans h' h

theorem OutOnly.hostDropped (h : OutOnly s t) (l : Loc) : Machine.hostDropped l t = Machine.hostDropped l s := by
  have h' : { t.port with out := [] } = { s.port with out := [] } := h
  have ha : t.port.dropAll = s.port.dropAll := (congrArg Port.dropAll h' :)
  have hf : t.port.dropHost = s.port.dropHost := (congrArg Port.dropHost h' :)
  simp only [Machine.hostDropped, ha, hf]

/-- An operation whose parts leave out the ports. -/
theorem OutOnly.within {fp : List Part} (h : OutOnly s0 s) (hw : Within fp s t) (hp : Part.port ∉ fp := by decide) : OutOnly s0 t :=
  Eq.trans (congrArg (fun p : Port => { p with out := [] }) (hw.same .port hp)) h

theorem OutOnly.foldl {α : Type} {f : State → α → State} (hf : ∀ s a, OutOnly s0 s → OutOnly s0 (f s a)) (l : List α)
    (h : OutOnly s0 s) : OutOnly s0 (l.foldl f s) := by
  induction l generalizing s with
  | nil => exact h
  | cons a l ih => exact ih (hf s a h)

theorem OutOnly.ite {c : Prop} [Decidable c] {a b : State} (ha : OutOnly s0 a) (hb : OutOnly s0 b) : OutOnly s0 (if c then a else b) := by
  split
  · exact ha
  · exact hb

/-! ### Writes -/

theorem portWrite_outOnly (key : Option Nat) (via : Via) (l : Loc) (bs : List Byte) (h : OutOnly s0 s) :
    OutOnly s0 (portWrite key via l bs s) := h

theorem charge_outOnly (c : Option Nat) (cls n : Nat) (h : OutOnly s0 s) : OutOnly s0 (charge c cls n s) :=
  h.within (charge_within c cls n (.refl _ s) (.refl _))

theorem hostWrite_outOnly (c : Option Nat) (l : Loc) (bs : List Byte) (h : OutOnly s0 s) : OutOnly s0 (hostWrite c l bs s) := by
  unfold hostWrite
  exact .ite h (charge_outOnly _ _ _ (portWrite_outOnly _ _ _ _ h))

/-! ### Stops, launches and the scheduler -/

theorem requestStops_outOnly (l : List (Nat × Nat)) (h : OutOnly s0 s) : OutOnly s0 (requestStops l s) := by
  refine OutOnly.foldl (fun s e h => ?_) l h
  unfold requestStop
  dsimp only
  split
  · exact h
  · exact h

theorem requestParts_outOnly (bs : List Nat) (h : OutOnly s0 s) : OutOnly s0 (requestParts bs s) := by
  unfold requestParts
  split
  · exact h
  · refine OutOnly.foldl (fun s p h => ?_) _ h
    unfold requestCode
    dsimp only
    split
    · exact h
    · exact h

theorem trace_outOnly (p g c q a : Nat) (h : OutOnly s0 s) : OutOnly s0 (trace p g c q a s) :=
  h.within (trace_within _ _ _ _ _ (.refl _ s) (.refl _))

theorem takeOrWait_outOnly (r : CellReq) (h : OutOnly s0 s) : OutOnly s0 (takeOrWait r s) :=
  h.within (takeOrWait_within _ (.refl _ s) (.refl _))

theorem launchGraph_outOnly (k pos r : Nat) (h : OutOnly s0 s) : OutOnly s0 (launchGraph k pos r s) := by
  unfold launchGraph
  split
  · split
    · refine OutOnly.foldl (fun s e h => ?_) _ (trace_outOnly _ _ _ _ _ h)
      split
      · exact h
      · exact takeOrWait_outOnly _ h
    · exact h
  · exact h

theorem setBenches_outOnly (bs : List Nat) (f : Bench → Bench) (h : OutOnly s0 s) : OutOnly s0 (setBenches bs f s) :=
  h.within (setBenches_within bs f (.refl _ s) (.refl _))

theorem updateGvt_outOnly (h : OutOnly s0 s) : OutOnly s0 (updateGvt s) := h.within (updateGvt_within (.refl _ s) (.refl _))

theorem withdrawClaims_outOnly (id : Nat) (h : OutOnly s0 s) : OutOnly s0 (withdrawClaims id s) :=
  h.within (withdrawClaims_within id (.refl _ s) (.refl _))

theorem dropJob_outOnly (id : Nat) (h : OutOnly s0 s) : OutOnly s0 (dropJob id s) := h.within (dropJob_within id (.refl _ s) (.refl _))

theorem journalPlace_outOnly (o : Owner) (bs : List Nat) (h : OutOnly s0 s) : OutOnly s0 (journalPlace o bs s) :=
  h.within (journalPlace_within o bs (.refl _ s) (.refl _))

theorem releaseRes_outOnly (r : Nat) (h : OutOnly s0 s) : OutOnly s0 (releaseRes r s) := by
  unfold releaseRes
  split
  · exact h
  · exact updateGvt_outOnly (trace_outOnly _ _ _ _ _ (requestParts_outOnly _ (setBenches_outOnly _ _ h)))

theorem vacateRes_outOnly {r : Nat} (h : OutOnly s0 s) (e : vacateRes r s = some t) : OutOnly s0 t := by
  unfold vacateRes at e
  split at e
  · cases e
  · split at e
    · exact h.within (saveRes_within r (.refl _ s) (.refl _) t e)
    · obtain rfl := Option.some.inj e
      exact releaseRes_outOnly r (h.within (countVacate_within (.refl _ s) (.refl _)))

theorem vacateAll_outOnly (here : Option Nat) (l : List (Nat × Residency)) (h : OutOnly s0 s) :
    OutOnly s0 (vacateEnd (vacateAll here l s)) := by
  induction l generalizing s with
  | nil => exact h
  | cons v l ih =>
    unfold vacateAll
    split
    · split
      · next hv => exact ih (vacateRes_outOnly h hv)
      · exact h
    · exact ih h

theorem claimFor_outOnly {here : Option Nat} {id : Nat} {j : Job} {n : Nat} {skip : List Nat} (h : OutOnly s0 s)
    (e : claimFor here id j n skip s = some t) : OutOnly s0 t := by
  induction n generalizing skip s with
  | zero => cases e
  | succ n ih =>
    unfold claimFor at e
    split at e
    · cases e
    · next free vs _ =>
      have hv := vacateAll_outOnly here vs (h.within (claimTarget_within id free vs (.refl _ s) (.refl _)))
      split at e
      · next he => rw [he] at hv; obtain rfl := Option.some.inj e; exact hv
      · next he => rw [he] at hv; exact ih (withdrawClaims_outOnly id hv) e

theorem placeJob_outOnly (id : Nat) (j : Job) (bs : List Nat) (h : OutOnly s0 s) : OutOnly s0 (placeJob id j bs s) := by
  have hd := dropJob_outOnly id h
  unfold placeJob
  dsimp only
  split
  · split
    · exact journalPlace_outOnly _ _ (trace_outOnly _ _ _ _ _ (requestParts_outOnly _ (setBenches_outOnly _ _ hd)))
    · exact hd
  · have hp : ∀ (f : Bench → Bench) (r : Nat) (v : Sched), OutOnly s0 (journalPlace j.owner bs (trace 10 0 j.ctx 0 r (requestParts bs
        (setBenches bs f { dropJob id s with sched := v })))) := fun f r v =>
      journalPlace_outOnly _ _ (trace_outOnly _ _ _ _ _ (requestParts_outOnly _ (setBenches_outOnly _ _ hd)))
    split
    · exact launchGraph_outOnly _ _ _ (hp _ _ _)
    · exact hp _ _ _

theorem passJobs_outOnly (here : Option Nat) (js : List (Nat × Job)) (b : Bool) (h : OutOnly s0 s) :
    OutOnly s0 (passJobs here js b s) := by
  induction js generalizing s b with
  | nil => exact h
  | cons e js ih =>
    obtain ⟨id, j⟩ := e
    simp only [passJobs]
    split
    · exact ih _ (launchGraph_outOnly _ _ _ (dropJob_outOnly id h))
    · split
      · exact ih _ (placeJob_outOnly _ _ _ h)
      · split
        · exact ih _ h
        · split
          · exact ih _ h
          · split
            · next hc => exact ih _ (claimFor_outOnly h hc)
            · exact ih _ h

theorem decisionPass_outOnly (h : OutOnly s0 s) : OutOnly s0 (decisionPass s) := by
  unfold decisionPass passAt
  split
  · exact updateGvt_outOnly h
  · exact OutOnly.within (updateGvt_outOnly (passJobs_outOnly _ _ _ (OutOnly.foldl
      (fun s e h => .ite h (withdrawClaims_outOnly _ h)) _ h))) (bump_within 4 (.refl _ _) (.refl _))

theorem dropJobs_outOnly (t : Job → Bool) (h : OutOnly s0 s) : OutOnly s0 (dropJobs t s) := by
  unfold dropJobs
  split
  · exact h
  · exact decisionPass_outOnly (OutOnly.foldl (fun _ e h => dropJob_outOnly e.1 h) _ h)

/-- What a command loses with its latch outside Front and Bramble sends stops and no more (R85). -/
theorem stopWork_outOnly (t : Nat → Nat → Bool) (h : OutOnly s0 s) : OutOnly s0 (stopWork t s) := by
  unfold stopWork
  exact dropJobs_outOnly _ (requestStops_outOnly _ (h.within (stopJobs_within _ (.refl _ s) (.refl _))))

end Sys2Proof.Machine
end

section
/-! SUPPORT. Changes of commands that leave their positions, latches and results (R84, R85, R122): waits met, stops confirmed, executors begun. -/

namespace Sys2Proof.Machine

/-! ### The latch of a command -/

/-- A request for the latch leaves a latch that is taken, and takes one that is free (R84). -/
theorem Cmd.take_latch (st : Status) (aux : Nat) (m : Cmd) :
    (m.take st aux).latch = some (m.latch.getD ⟨st, aux⟩) ∧ (m.take st aux).results = m.results := by
  unfold Cmd.take
  cases h : m.latch with
  | some l => exact ⟨h, rfl⟩
  | none => dsimp only; split <;> exact ⟨rfl, rfl⟩

theorem Cmd.kill_latch (l : Latch) (m : Cmd) : (m.kill l).latch = some (m.latch.getD l) ∧ (m.kill l).pos = m.pos := by
  unfold Cmd.kill
  cases h : m.latch with
  | some l' => exact ⟨h, rfl⟩
  | none => exact ⟨(Cmd.take_latch l.status l.aux m).1.trans (by rw [h]), Cmd.take_pos _ _ m⟩

/-! ### Changes that leave latches -/

/-- A change of a command that leaves its position, its latch and its results. -/
def Cmd.Tame (g : Cmd → Cmd) : Prop := ∀ m, (g m).pos = m.pos ∧ (g m).latch = m.latch ∧ (g m).results = m.results

/-- A queue whose commands alone may differ, by a change that leaves their positions, latches and results. -/
def Queue.Alike (u v : Queue) : Prop := ∃ g, Cmd.Tame g ∧ v = { u with cmds := u.cmds.map g }

theorem Cmd.Tame.id : Cmd.Tame id := fun _ => ⟨rfl, rfl, rfl⟩

theorem Cmd.Tame.comp {f g : Cmd → Cmd} (hg : Cmd.Tame g) (hf : Cmd.Tame f) : Cmd.Tame (g ∘ f) := fun m => by
  obtain ⟨hp, hl, hr⟩ := hf m
  obtain ⟨hp', hl', hr'⟩ := hg (f m)
  exact ⟨hp'.trans hp, hl'.trans hl, hr'.trans hr⟩

theorem Queue.Alike.refl (u : Queue) : u.Alike u := ⟨_, .id, by rw [List.map_id]⟩

theorem Queue.Alike.trans {u v w : Queue} (h : u.Alike v) (h' : v.Alike w) : u.Alike w := by
  obtain ⟨f, hf, rfl⟩ := h
  obtain ⟨g, hg, rfl⟩ := h'
  exact ⟨_, hg.comp hf, by rw [← List.map_map]⟩

/-- The commands of such a queue, position by position. -/
theorem Queue.Alike.cmd {u v : Queue} (h : u.Alike v) (pos : Nat) : ∃ g, Cmd.Tame g ∧ v.cmd pos = (u.cmd pos).map g := by
  obtain ⟨g, hg, rfl⟩ := h
  refine ⟨g, hg, ?_⟩
  rw [Queue.cmd, Queue.cmd, List.find?_map]
  exact congrArg (fun p => (u.cmds.find? p).map g) (funext fun m => by rw [Function.comp, (hg m).1])

theorem Queue.Alike.cmd_none {u v : Queue} (h : u.Alike v) {pos : Nat} (hm : u.cmd pos = none) : v.cmd pos = none := by
  obtain ⟨g, -, he⟩ := h.cmd pos
  rw [he, hm]; rfl

theorem Queue.Alike.cmd_some {u v : Queue} (h : u.Alike v) {pos : Nat} {m : Cmd} (hm : u.cmd pos = some m) :
    ∃ m', v.cmd pos = some m' ∧ m'.latch = m.latch ∧ m'.results = m.results := by
  obtain ⟨g, hg, he⟩ := h.cmd pos
  exact ⟨g m, by rw [he, hm]; rfl, (hg m).2⟩

theorem Queue.Alike.latch {u v : Queue} (h : u.Alike v) (pos : Nat) : (v.cmd pos).map Cmd.latch = (u.cmd pos).map Cmd.latch := by
  obtain ⟨g, hg, he⟩ := h.cmd pos
  rw [he, Option.map_map]
  exact congrArg (fun f => (u.cmd pos).map f) (funext fun m => (hg m).2.1)

theorem Queue.Alike.modCmd {u : Queue} {f : Cmd → Cmd} (hf : Cmd.Tame f) (pos : Nat) : u.Alike (u.modCmd pos f) := by
  refine ⟨_, fun m => ?_, rfl⟩
  split
  · exact hf m
  · exact ⟨rfl, rfl, rfl⟩

/-- Every queue of a state is such in another. -/
def QueuesAlike (s t : State) : Prop := ∀ k u, tget s.front.queues k = some u → ∃ v, tget t.front.queues k = some v ∧ u.Alike v

variable {s0 s t : State}

theorem QueuesAlike.refl (s : State) : QueuesAlike s s := fun _ u h => ⟨u, h, .refl u⟩

theorem QueuesAlike.trans {u : State} (h : QueuesAlike s t) (h' : QueuesAlike t u) : QueuesAlike s u := by
  intro k a ha
  obtain ⟨b, hb, hab⟩ := h k a ha
  obtain ⟨c, hc, hbc⟩ := h' k b hb
  exact ⟨c, hc, hab.trans hbc⟩

theorem QueuesAlike.front (h : QueuesAlike s0 s) (hf : t.front = s.front) : QueuesAlike s0 t := by
  intro k u hu
  rw [hf]
  exact h k u hu

/-- An operation whose parts leave out the front. -/
theorem QueuesAlike.within {fp : List Part} (h : QueuesAlike s0 s) (hw : Within fp s t) (hp : Part.front ∉ fp := by decide) :
    QueuesAlike s0 t := h.front (hw.same .front hp)

theorem QueuesAlike.foldl {α : Type} {f : State → α → State} (hf : ∀ s a, QueuesAlike s0 s → QueuesAlike s0 (f s a)) (l : List α)
    (h : QueuesAlike s0 s) : QueuesAlike s0 (l.foldl f s) := by
  induction l generalizing s with
  | nil => exact h
  | cons a l ih => exact ih (hf s a h)

/-- Every command of every queue is changed so. -/
theorem QueuesAlike.mapCmds {g : Nat → Cmd → Cmd} (hg : ∀ k, Cmd.Tame (g k)) (h : QueuesAlike s0 s) :
    QueuesAlike s0 (s.modQueues (fun t => tmapv t (fun k q => { q with cmds := q.cmds.map (g k) }))) := by
  intro k u hu
  obtain ⟨v, hv, huv⟩ := h k u hu
  refine ⟨_, ?_, huv.trans ⟨g k, hg k, rfl⟩⟩
  simp only [State.modQueues, tget_tmapv, hv, Option.map_some]

theorem settleStops_alike (h : QueuesAlike s0 s) : QueuesAlike s0 (settleStops s) := by
  unfold settleStops
  dsimp only
  refine h.mapCmds (g := fun k c => if c.stopping then { c with stopping := _ } else c) fun k m => ?_
  dsimp only
  split
  · exact ⟨rfl, rfl, rfl⟩
  · exact ⟨rfl, rfl, rfl⟩

theorem modC_alike {f : Cmd → Cmd} (hf : Cmd.Tame f) (k pos : Nat) (h : QueuesAlike s0 s) : QueuesAlike s0 (s.modC k pos f) := by
  intro k' u hu
  obtain ⟨v, hv, huv⟩ := h k' u hu
  rw [State.modC, State.modQ_tget]
  by_cases hk : k' = k
  · subst hk
    rw [if_pos rfl, hv]
    exact ⟨_, rfl, huv.trans (.modCmd hf pos)⟩
  · rw [if_neg hk]
    exact ⟨v, hv, huv⟩

theorem begun_alike (k pos : Nat) (h : QueuesAlike s0 s) : QueuesAlike s0 (begun k pos s) :=
  (modC_alike (f := fun m => { m with started := true }) (fun _ => ⟨rfl, rfl, rfl⟩) k pos h).front (consumeItem_front ..)

/-- The work that a command loses with its latch is none of Front's. -/
theorem stopWork_front (f : Nat → Nat → Bool) (s : State) : (stopWork f s).front = s.front :=
  (stopWork_within f (.refl _ s) (.refl _)).same .front (by decide)

theorem dropShadows_front (s : State) : (dropShadows s).front = s.front := rfl

/-- A command of a queue that is alike. -/
theorem QueuesAlike.cmd_some (h : QueuesAlike s t) {k pos : Nat} {m : Cmd} (hm : s.cmd k pos = some m) :
    ∃ m', t.cmd k pos = some m' ∧ m'.latch = m.latch ∧ m'.results = m.results := by
  obtain ⟨u, hu, hc⟩ := Option.bind_eq_some_iff.1 hm
  obtain ⟨v, hv, huv⟩ := h k u hu
  obtain ⟨m', hm', hl⟩ := huv.cmd_some hc
  exact ⟨m', by rw [State.cmd, hv]; exact hm', hl⟩

end Sys2Proof.Machine
end

section
/-! SUPPORT and O13. OP_ABORT (R97, R98): its refusals, its answers, and the latch of its target. -/

namespace Sys2Proof.Machine

/-- A context as the statements about other contexts see it. -/
theorem Quiet.ctx_facts {s t : State} (h : Quiet s t) (k : Nat) :
    (tget t.contexts k).map (fun y => (y.rcd, y.state, y.cause)) = (tget s.contexts k).map (fun y => (y.rcd, y.state, y.cause)) := by
  have := congrArg (Option.map fun y : Context => (y.rcd, y.state, y.cause)) (h.ctx k)
  rwa [Option.map_map, Option.map_map] at this

section
variable {c q pos : Nat} {m : Cmd} {x : Context} {u : Queue} {s t : State}

/-! ### The command itself -/

/-- A command that finishes with its latch free takes the status it finishes with (R84). -/
theorem finish_answer {k aux : Nat} {st : Status} (hm : t.cmd k pos = some m) (hl : m.latch = none) :
    ((finish k pos st aux t).cmd k pos).map (fun y => (y.latch, y.results)) = some (some ⟨st, aux⟩, m.results) := by
  obtain ⟨hlatch, hres⟩ := Cmd.take_latch st aux m
  rw [finish_cmd, if_pos ⟨rfl, rfl⟩, hm, Option.map_some, Option.map_some, hlatch, hres, hl, Option.getD_none]

theorem finish_other {k aux k' p' : Nat} {st : Status} (h : (k', p') ≠ (k, pos)) : (finish k pos st aux t).cmd k' p' = t.cmd k' p' := by
  rw [finish_cmd, if_neg fun e => h (Prod.ext e.1 e.2)]

theorem begun_other {k k' p' : Nat} (h : (k', p') ≠ (k, pos)) : (begun k pos s).cmd k' p' = s.cmd k' p' := by
  rw [begun_cmd, if_neg fun e => h (Prod.ext e.1 e.2)]

theorem begun_starting {k op : Nat} (hs : starting k pos op s = some m) :
    (begun k pos s).cmd k pos = some { m with started := true } ∧ m.latch = none := by
  obtain ⟨hm, -, -, hl, -⟩ := starting_cmd hs
  rw [begun_cmd, if_pos ⟨rfl, rfl⟩, hm]
  exact ⟨rfl, hl⟩

theorem begun_none {k k' : Nat} (h : tget s.front.queues k' = none) : tget (begun k pos s).front.queues k' = none := by
  have hf : (begun k pos s).front = (s.modC k pos (fun m => { m with started := true })).front := consumeItem_front ..
  rw [hf, State.modC, State.modQ_tget]
  split
  · next hk => subst hk; rw [h]; rfl
  · exact h

theorem begun_quiet (k pos : Nat) (h : Quiet s t) : Quiet s (begun k pos t) :=
  Quiet.within (modC_quiet k pos _ h) (consumeItem_within _ _ _ (.refl _ _) (.refl _))

theorem begun_contexts (k : Nat) : (begun k pos s).contexts = s.contexts :=
  (begun_within k pos (.refl _ s) (.refl _)).same .contexts (by decide)

/-! ### Refusals -/

theorem abortRefusal_eq (hx : tget s.contexts c = some x) : abortRefusal c q pos m.entry (begun (qkey c q) pos s) =
    if x.rcd.queueCount ≤ fld m.entry 16 1 ∨ (queueAt c (fld m.entry 16 1) (begun (qkey c q) pos s)).everEnabled = false then
      some (.malformed, 16)
    else if fld m.entry 16 1 = q ∧ fld m.entry 24 8 = pos + 1 then some (.malformed, 24) else none := by
  simp only [abortRefusal, begun_contexts, hx, Option.map_some, Option.getD_some]

section
variable (hs : starting (qkey c q) pos 0x16 s = some m) (hx : tget s.contexts c = some x)
include hs

/-- A refused abort takes its latch and changes nothing else of any command. -/
theorem opAbort_refused {aux : Nat} (h : opAbort c q pos s = finish (qkey c q) pos .malformed aux (begun (qkey c q) pos s)) :
    ∃ t, Machine.exec (.opAbort c q pos) s = .next t ∧
      (t.cmd (qkey c q) pos).map (fun y => (y.latch, y.results)) = some (some ⟨.malformed, aux⟩, m.results) ∧
      (∀ k' p', (k', p') ≠ (qkey c q, pos) → t.cmd k' p' = s.cmd k' p') ∧ OnlyIn [.front, .chest, .jnl] s t := by
  obtain ⟨hm, hl⟩ := begun_starting hs
  refine ⟨_, congrArg Host.Outcome.next h, finish_answer (m := { m with started := true }) hm hl,
    fun k' p' hk => (finish_other hk).trans (begun_other hk), ?_⟩
  exact (finish_within _ _ _ _ (begun_within _ _ (.refl _ s) (.refl _)) (by simp [Covers])).onlyIn

theorem opAbort_of_refusal {r : Status × Nat} (h : abortRefusal c q pos m.entry (begun (qkey c q) pos s) = some r) :
    opAbort c q pos s = finish (qkey c q) pos r.1 r.2 (begun (qkey c q) pos s) := by
  simp only [opAbort, hs, h]

include hx

theorem opAbort_noQueue (h : x.rcd.queueCount ≤ fld m.entry 16 1 ∨
      (queueAt c (fld m.entry 16 1) (begun (qkey c q) pos s)).everEnabled = false) :
    opAbort c q pos s = finish (qkey c q) pos .malformed 16 (begun (qkey c q) pos s) :=
  opAbort_of_refusal hs (r := (.malformed, 16)) (by rw [abortRefusal_eq hx, if_pos h])

variable (hq : fld m.entry 16 1 < x.rcd.queueCount)
  (he : (queueAt c (fld m.entry 16 1) (begun (qkey c q) pos s)).everEnabled = true)
include hq he

theorem opAbort_itself (ht : fld m.entry 16 1 = q) (hseq : fld m.entry 24 8 = pos + 1) :
    opAbort c q pos s = finish (qkey c q) pos .malformed 24 (begun (qkey c q) pos s) := by
  refine opAbort_of_refusal hs (r := (.malformed, 24)) ?_
  rw [abortRefusal_eq hx, if_neg (by simp [he, hq]), if_pos ⟨ht, hseq⟩]

/-- What OP_ABORT does of a target that is not itself (R97, R98). -/
theorem opAbort_other (hne : fld m.entry 16 1 = q → fld m.entry 24 8 ≠ pos + 1) :
    opAbort c q pos s =
      let b := begun (qkey c q) pos s
      let y := queueAt c (fld m.entry 16 1) b
      let seq := fld m.entry 24 8
      if seq = 0 ∨ y.d < seq then finish (qkey c q) pos .malformed 24 b
      else if y.w < seq ∧ y.latchFree (seq - 1) = true then
        finishOk (qkey c q) pos (abortAnswer c (qkey c q) m 1 (abortTarget (qkey c (fld m.entry 16 1)) (seq - 1) b))
      else finishOk (qkey c q) pos (abortAnswer c (qkey c q) m 2 b) := by
  have hr : abortRefusal c q pos m.entry (begun (qkey c q) pos s) = none := by
    rw [abortRefusal_eq hx, if_neg (by simp [he, hq]), if_neg fun h => hne h.1 h.2]
  simp only [opAbort, hs, hr]

end

/-! ### The target -/

/-- The latch of a position is as free in a queue that is alike. -/
theorem Queue.Alike.latchFree {v : Queue} (h : u.Alike v) (p : Nat) : v.latchFree p = u.latchFree p := by
  unfold Queue.latchFree
  cases hc : u.cmd p with
  | none =>
    rw [h.cmd_none hc]
    obtain ⟨g, -, rfl⟩ := h
    rfl
  | some m =>
    obtain ⟨m', hm', hl, -⟩ := h.cmd_some hc
    rw [hm']
    exact congrArg Option.isNone hl

/-- The target of an abort that has been handed over has its latch taken, and no other command loses or gains one (R98). -/
theorem abortTarget_command {k p : Nat} {y : Cmd} (hy : t.cmd k p = some y) :
    ∃ f : Cmd → Cmd, (∀ m, (f m).pos = m.pos ∧ (m.latch = none → (f m).latch = some ⟨.aborted, 1⟩)) ∧
      QueuesAlike (t.modC k p f) (abortTarget k p t) := by
  refine ⟨fun m => { m.kill ⟨.aborted, 1⟩ with stopping := (m.kill ⟨.aborted, 1⟩).stopping && m.onEngine }, fun m => ?_, ?_⟩
  · obtain ⟨hl, hp⟩ := Cmd.kill_latch ⟨.aborted, 1⟩ m
    exact ⟨hp, fun h => by rw [show _ = _ from hl, h]; rfl⟩
  · have hb : (tget t.front.queues k).bind (fun x => x.cmd p) = some y := hy
    simp only [abortTarget, hb]
    exact settleStops_alike ((QueuesAlike.refl _).front ((dropShadows_front _).trans ((stopWork_front _ _).trans (dropCmdCells_front ..))))

/-- The target of an abort that has not been handed over takes its latch in its place (R98). -/
theorem Queue.abortEarly_latch {p : Nat} {l : Latch} (hc : u.cmd p = none) (hf : u.latchFree p = true) :
    ∃ f ∈ (u.abortEarly p l).fetched, f.pos = p ∧ f.latch = some l := by
  unfold Queue.latchFree at hf
  rw [hc] at hf
  unfold Queue.abortEarly
  cases hg : u.fetched.find? (fun f => f.pos == p) with
  | none =>
    have hno : ∀ g ∈ u.fetched, g.pos ≠ p := fun g h => by simpa using List.find?_eq_none.1 hg g h
    rw [if_neg (by simpa using hno)]
    exact ⟨_, mem_putFetched_self hno, rfl, rfl⟩
  | some g =>
    rw [hg] at hf
    have hp : g.pos = p := by simpa using List.find?_some hg
    have hm := List.mem_of_find?_eq_some hg
    rw [if_pos (List.any_eq_true.2 ⟨g, hm, by simpa using hp⟩)]
    refine ⟨{ g with latch := some l }, List.mem_map.2 ⟨g, hm, ?_⟩, hp, rfl⟩
    rw [if_pos (by simpa [hp] using hf)]

/-- The target of an abort that has not been handed over changes no command. -/
theorem abortTarget_early {k p : Nat} (hu : tget t.front.queues k = some u) (hc : u.cmd p = none) :
    tget (abortTarget k p t).front.queues k = some (u.abortEarly p ⟨.aborted, 1⟩) ∧
    (∀ k' p', (abortTarget k p t).cmd k' p' = t.cmd k' p') := by
  have hb : (tget t.front.queues k).bind (fun x => x.cmd p) = none := by rw [hu]; exact hc
  have hfront : (abortTarget k p t).front = (t.modQ k (Queue.abortEarly p ⟨.aborted, 1⟩)).front := by
    simp only [abortTarget, hb, dropItem_front]
  have hcm : ∀ v : Queue, ∀ p', (v.abortEarly p ⟨.aborted, 1⟩).cmd p' = v.cmd p' := by
    intro v p'
    unfold Queue.abortEarly
    split <;> rfl
  refine ⟨by rw [hfront, State.modQ_tget, if_pos rfl, hu]; rfl, fun k' p' => ?_⟩
  rw [State.cmd, hfront, State.modQ_tget, State.cmd]
  by_cases hk : k' = k
  · subst hk
    rw [if_pos rfl, hu]
    exact hcm u p'
  · rw [if_neg hk]

/-- What an abort leaves: its own command, and its target with its latch taken (R98). -/
theorem abortTarget_leaves {k k' p : Nat} (hne : (k', p) ≠ (k, pos)) (hu : tget t.front.queues k' = some u) (hm : t.cmd k pos = some m)
    (hl : m.latch = none) (hfree : u.latchFree p = true) :
    ∃ m', (abortTarget k' p t).cmd k pos = some m' ∧ m'.latch = none ∧ m'.results = m.results ∧
      (∀ y, u.cmd p = some y → ((abortTarget k' p t).cmd k' p).map Cmd.latch = some (some ⟨.aborted, 1⟩)) ∧
      (u.cmd p = none → ∃ w, tget (abortTarget k' p t).front.queues k' = some w ∧
        ∃ f ∈ w.fetched, f.pos = p ∧ f.latch = some ⟨.aborted, 1⟩) := by
  cases hc : u.cmd p with
  | none =>
    obtain ⟨hq, hcmds⟩ := abortTarget_early hu hc
    exact ⟨m, (hcmds k pos).trans hm, hl, rfl, fun _ h => (Option.some_ne_none _ h.symm).elim, fun _ => ⟨_, hq, Queue.abortEarly_latch hc hfree⟩⟩
  | some y =>
    have hy : t.cmd k' p = some y := by rw [State.cmd, hu]; exact hc
    have hyl : y.latch = none := by simpa [Queue.latchFree, hc] using hfree
    obtain ⟨f, hf, hal⟩ := abortTarget_command hy
    have hcmd := State.modC_cmd t k' p
    obtain ⟨m', hm', hl', hr'⟩ := hal.cmd_some (k := k) (pos := pos) (m := m)
      (by rw [hcmd _ _ _ fun a => (hf a).1, if_neg fun e => hne (Prod.ext e.1.symm e.2.symm)]; exact hm)
    obtain ⟨y', hy', hyl', -⟩ := hal.cmd_some (k := k') (pos := p) (m := f y)
      (by rw [hcmd _ _ _ fun a => (hf a).1, if_pos ⟨rfl, rfl⟩, hy]; rfl)
    refine ⟨m', hm', hl'.trans hl, hr', fun _ _ => ?_, fun h => nomatch h⟩
    rw [hy', Option.map_some, hyl', (hf y).2 hyl]

theorem abortTarget_quiet (k p : Nat) (h : Quiet s t) : Quiet s (abortTarget k p t) := by
  unfold abortTarget
  dsimp only
  split
  · exact settleStops_quiet (Quiet.within (stopWork_quiet _ (dropCmdCells_quiet _ _ _ (modC_quiet _ _ _ h)))
      (dropShadows_within (.refl _ _) (.refl _)))
  · exact dropItem_quiet _ _ _ (dropItem_quiet _ _ _ (modQ_quiet _ _ h))

theorem abortTarget_outOnly (k p : Nat) (h : OutOnly s t) : OutOnly s (abortTarget k p t) := by
  unfold abortTarget
  dsimp only
  split
  · exact OutOnly.within (stopWork_outOnly _ ((h.within (State.modC_within _ _ _ (.refl _ t) (.refl _))).within
      (dropCmdCells_within _ _ _ (.refl _ _) (.refl _))) : OutOnly s _) (settleStops_within (dropShadows_within (.refl _ _) (by simp [Covers]))
      (by simp [Covers]) : Within [.front, .bramble] _ _)
  · exact (h.within (State.modQ_within _ _ (.refl _ t) (.refl _))).within (dropItem_within _ _ _ (dropItem_within _ _ _ (.refl _ _) (.refl _))
      (.refl _))

/-! ### The answer -/

/-- The answer is written at once (R98). -/
theorem abortAnswer_mem {l : Loc} (v : Nat) (hl : operandLoc (qkey c q) m 32 40 t = some l) :
    (abortAnswer c (qkey c q) m v t).mem = if l.space = .host ∧ hostDropped l t = true then t.mem else t.mem.write l (le 8 v) := by
  simp only [abortAnswer, hl, locWrite_mem]

theorem abortAnswer_front (k v : Nat) : (abortAnswer c k m v t).front = t.front :=
  (abortAnswer_within c k m v (.refl _ t) (.refl _)).same .front (by decide)

theorem operandLoc_of_objects {k hOff oOff : Nat} (h : t.objects = s.objects) : operandLoc k m hOff oOff t = operandLoc k m hOff oOff s := by
  simp only [operandLoc, memOfKey, h]

/-- The abort's own command and the memory once the answer is written, in a state that has kept what the answer depends on (R98). -/
theorem abortAnswer_done {l : Loc} {m' : Cmd} (v : Nat) (hm : t.cmd (qkey c q) pos = some m') (hlatch : m'.latch = none)
    (hobj : t.objects = s.objects) (hmem : t.mem = s.mem) (hout : OutOnly s t) (hl : operandLoc (qkey c q) m 32 40 s = some l) :
    ((finishOk (qkey c q) pos (abortAnswer c (qkey c q) m v t)).cmd (qkey c q) pos).map (fun y => (y.latch, y.results)) =
      some (some ⟨.ok, 0⟩, m'.results) ∧
    (finishOk (qkey c q) pos (abortAnswer c (qkey c q) m v t)).mem =
      (if l.space = .host ∧ hostDropped l s = true then s.mem else s.mem.write l (le 8 v)) := by
  refine ⟨finish_answer (by rw [State.cmd, abortAnswer_front]; exact hm) hlatch, ?_⟩
  rw [finishOk, finish_mem, abortAnswer_mem v ((operandLoc_of_objects hobj).trans hl), hmem, hout.hostDropped]

/-- Every other command is as before the answer. -/
theorem abortAnswer_others {k v k' p' : Nat} (h : (k', p') ≠ (k, pos)) :
    (finishOk k pos (abortAnswer c k m v t)).cmd k' p' = t.cmd k' p' := by
  rw [finishOk, finish_other h, State.cmd, State.cmd, abortAnswer_front]

/-- The queues after the answer: of one the commands may differ. -/
theorem abortAnswer_queue {k v k' : Nat} {y : Queue} (hu : tget t.front.queues k' = some u)
    (hy : tget (finishOk k pos (abortAnswer c k m v t)).front.queues k' = some y) : y = { u with cmds := y.cmds } := by
  rw [finishOk, finish, State.modC, State.modQ_tget, abortAnswer_front] at hy
  split at hy
  · next hk =>
    subst hk
    rw [hu] at hy
    obtain rfl := Option.some.inj hy
    rfl
  · rw [hu] at hy
    obtain rfl := Option.some.inj hy
    rfl

theorem abortAnswer_keeps {k v k' : Nat} (hu : tget t.front.queues k' = some u) :
    ∃ y, tget (finishOk k pos (abortAnswer c k m v t)).front.queues k' = some y := by
  rw [finishOk, finish, State.modC, State.modQ_tget, abortAnswer_front]
  split
  · next hk => subst hk; rw [hu]; exact ⟨_, rfl⟩
  · exact ⟨_, hu⟩

theorem abortAnswer_quiet (c k : Nat) (m : Cmd) (v : Nat) (h : Quiet s t) : Quiet s (abortAnswer c k m v t) := by
  unfold abortAnswer
  split
  · exact locWrite_quiet _ _ _ h
  · exact h

end

/-- Settles O13: the refusals in their order, then the answers by whether the target's latch is free. -/
theorem abortAnswers : Obligations.AbortAnswers := by
  unfold Obligations.AbortAnswers
  intro c q pos m l x s hs hq hx hl
  dsimp only
  obtain ⟨hm, hlatch⟩ := begun_starting hs
  have hbw : Within [.front, .chest, .jnl] s (begun (qkey c q) pos s) := begun_within _ _ (.refl _ s) (.refl _)
  have hrefuse := fun aux h => opAbort_refused (aux := aux) hs h
  refine ⟨fun h => hrefuse 16 (opAbort_noQueue hs hx (.inl h)), fun u hu hlt hen => ?_, fun hu hlt => ?_, fun u hu hlt hen => ?_⟩
  · obtain ⟨v, hv, g, -, rfl⟩ := begun_alike (qkey c q) pos (.refl s) _ u hu
    exact hrefuse 16 (opAbort_noQueue hs hx (.inr (by rw [queueAt_of_queue hv]; exact hen)))
  · refine hrefuse 16 (opAbort_noQueue hs hx (.inr ?_))
    rw [queueAt, tgetD, begun_none hu]; rfl
  · obtain ⟨v, hv, hal⟩ := begun_alike (qkey c q) pos (.refl s) _ u hu
    have hat : queueAt c (fld m.entry 16 1) (begun (qkey c q) pos s) = v := queueAt_of_queue hv
    obtain ⟨hen', hd, hw⟩ : v.everEnabled = true ∧ v.d = u.d ∧ v.w = u.w := by
      obtain ⟨g, -, rfl⟩ := hal
      exact ⟨hen, rfl, rfl⟩
    have hitself := opAbort_itself hs hx hlt (hat ▸ hen')
    have hother := opAbort_other hs hx hlt (hat ▸ hen')
    dsimp only at hother
    rw [hat, hd, hw, hal.latchFree] at hother
    have hbeyond : fld m.entry 24 8 = 0 ∨ u.d < fld m.entry 24 8 →
        opAbort c q pos s = finish (qkey c q) pos .malformed 24 (begun (qkey c q) pos s) := by
      intro h
      by_cases hself : fld m.entry 16 1 = q ∧ fld m.entry 24 8 = pos + 1
      · exact hitself hself.1 hself.2
      · exact (hother fun ht hseq => hself ⟨ht, hseq⟩).trans (if_pos h)
    refine ⟨fun ht hseq => hrefuse 24 (hitself ht hseq), fun h => hrefuse 24 (hbeyond (.inr h)), fun h => hrefuse 24 (hbeyond (.inl h)),
      fun hne h1 hle hlate => ?_, fun hne hlt' hle hfree => ?_⟩
    · have hno : ¬(u.w < fld m.entry 24 8 ∧ u.latchFree (fld m.entry 24 8 - 1) = true) := by
        rintro ⟨h2, h3⟩
        exact hlate.elim (fun h => by omega) fun h => nomatch h.symm.trans h3
      have he := (hother hne).trans ((if_neg (by omega)).trans (if_neg hno))
      obtain ⟨hans, hmem⟩ := abortAnswer_done 2 hm hlatch (hbw.same .objects (by decide)) (hbw.same .mem (by decide))
        ((OutOnly.refl s).within hbw) hl
      refine ⟨_, congrArg Host.Outcome.next he, ⟨hans, hmem⟩, fun k' p' hk => (abortAnswer_others hk).trans (begun_other hk),
        fun y hy => ?_, ?_⟩
      · rw [abortAnswer_queue hv hy]
        obtain ⟨g, -, rfl⟩ := hal
        exact ⟨rfl, rfl, rfl, rfl, rfl⟩
      · exact (finishOk_within _ _ (abortAnswer_within _ _ _ _ (begun_within _ _ (.refl _ s) (by simp [Covers])) (by simp [Covers]))
          (by simp [Covers])).onlyIn
    · have he := (hother hne).trans ((if_neg (by omega)).trans (if_pos ⟨hlt', hfree⟩))
      have htarget : (qkey c (fld m.entry 16 1), fld m.entry 24 8 - 1) ≠ (qkey c q, pos) := by
        intro h
        obtain ⟨hk, hp⟩ := Prod.ext_iff.1 h
        have ht : fld m.entry 16 1 = q := by simp only [qkey] at hk; omega
        exact hne ht (by simp only at hp; omega)
      obtain ⟨m', hm', hl', hr', hcommand, hearly⟩ := abortTarget_leaves htarget hv hm hlatch (hal.latchFree _ ▸ hfree)
      have hobj : (abortTarget (qkey c (fld m.entry 16 1)) (fld m.entry 24 8 - 1) (begun (qkey c q) pos s)).objects = s.objects :=
        (abortTarget_within _ _ (begun_within _ _ (.refl _ s) (by simp [Covers])) (.refl _)).same .objects (by decide)
      obtain ⟨hans, hmem⟩ := abortAnswer_done 1 hm' hl' hobj
        ((abortTarget_within _ _ (begun_within _ _ (.refl _ s) (by simp [Covers])) (.refl _)).same .mem (by decide))
        (abortTarget_outOnly _ _ ((OutOnly.refl s).within hbw)) hl
      have hexec : Machine.exec (.opAbort c q pos) s = .next _ := congrArg Host.Outcome.next he
      refine ⟨_, hexec, ⟨hans.trans (by rw [hr']), hmem⟩, fun y hy => ?_, fun hc => ?_, fun k => Quiet.ctx_facts ?_ k, onlyIn_of_exec hexec⟩
      · obtain ⟨y', hy', -⟩ := hal.cmd_some hy
        rw [abortAnswer_others htarget]
        exact hcommand y' hy'
      · obtain ⟨w, hw', f, hf, hfp, hfl⟩ := hearly (hal.cmd_none hc)
        obtain ⟨z, hz⟩ := abortAnswer_keeps (m := m) (c := c) (k := qkey c q) (pos := pos) (v := 1) hw'
        refine ⟨z, hz, f, ?_, hfp, hfl⟩
        rw [abortAnswer_queue hw' hz]
        exact hf
      · exact finishOk_quiet _ _ (abortAnswer_quiet _ _ _ _ (abortTarget_quiet _ _ (begun_quiet _ _ (.refl s))))

end Sys2Proof.Machine
end

section
/-! SUPPORT and O5. Writes of BAR2 (R28, R72 to R78): where one lands, what a producer value and a Detail consumer value make of a queue, and
what a push makes of its slot. -/

namespace Sys2Proof.Machine

section
variable {c q : Nat} {x : Context} {u : Queue} {s : State}

/-! ### Where a write lands -/

/-- What a write does by its offset in the window of a context (R28, R73). -/
theorem bar2Write_at {fn o size : Nat} {v : W64} {bytes : List Byte} (hb : barOpen s = true) (ho : o < 0x20000)
    (hx : tget s.contexts c = some x) :
    bar2Write fn (c * 0x20000 + o) size v bytes s =
      if x.rcd.fn ≠ fn then countCtxDrop c true s
      else if o < 0x800 then
        if x.rcd.queueCount ≤ o / 8 then countCtxDrop c false s else doorbellAt c (o / 8) o size v s
      else if o < 0x10000 then countCtxDrop c false s
      else if x.rcd.queueCount ≤ (o - 0x10000) / 256 then countCtxDrop c false s
      else pushAt c ((o - 0x10000) / 256) (o % 256) bytes s := by
  have hc : (c * 0x20000 + o) / 0x20000 = c := by omega
  have hw : (c * 0x20000 + o) % 0x20000 = o := by omega
  simp only [bar2Write, hb, hc, hw, hx, Bool.not_true, Bool.false_eq_true, if_false]

/-- The doorbells are told by size and value alone, the push windows by the bytes alone (R73, R77). -/
theorem bar2Write_forms {fn o size size' : Nat} {v v' : W64} {bytes bytes' : List Byte} (ho : o < 0x20000)
    (h : (o < 0x800 ∧ size = size' ∧ v = v') ∨ (0x10000 ≤ o ∧ bytes = bytes')) :
    bar2Write fn (c * 0x20000 + o) size v bytes s = bar2Write fn (c * 0x20000 + o) size' v' bytes' s := by
  by_cases hb : barOpen s = true
  · cases hx : tget s.contexts c with
    | none =>
      have hc : (c * 0x20000 + o) / 0x20000 = c := by omega
      simp only [bar2Write, hc, hx]
    | some x =>
      rw [bar2Write_at hb ho hx, bar2Write_at hb ho hx]
      rcases h with ⟨hl, rfl, rfl⟩ | ⟨hl, rfl⟩
      · simp only [hl, if_true]
      · simp only [show ¬ o < 0x800 by omega, if_false]
  · simp [bar2Write, hb]

theorem bar2Write_closed {fn off size : Nat} {v : W64} {bytes : List Byte} (hb : barOpen s = false) :
    bar2Write fn off size v bytes s = s := by
  simp [bar2Write, hb]

/-- A write of the doorbell of a queue of the context. -/
theorem doorbellWrite_at {fn o off size : Nat} {v : W64} (hb : barOpen s = true) (hx : tget s.contexts c = some x)
    (hfn : x.rcd.fn = fn) (hq : q < x.rcd.queueCount) (hlt : q < 256) (hoff : off = c * 0x20000 + o) (ho : o / 8 = q) :
    Machine.exec (.doorbellWrite fn off size v) s = .next (doorbellAt c q o size v s) := by
  have h1 : o < 0x800 := by omega
  have h2 : ¬ x.rcd.queueCount ≤ q := by omega
  have he : doorbellWrite fn off size v s = doorbellAt c q o size v s := by
    rw [doorbellWrite, hoff, bar2Write_at hb (by omega) hx, ho]
    simp only [hfn, ne_eq, not_true_eq_false, if_false, h1, if_true, h2]
  rw [← he]; rfl

/-! ### The values of a doorbell (R72 to R77) -/

theorem doorbellSize_iff {w size : Nat} : ((size == 8 && w % 8 == 0) || (size == 4 && w % 4 == 0)) = true ↔
    (size = 8 ∧ w % 8 = 0) ∨ (size = 4 ∧ w % 4 = 0) := by
  simp only [Bool.or_eq_true, Bool.and_eq_true, beq_iff_eq]

theorem doorbellAt_badSize {w size : Nat} {v : W64} (h : ¬((size = 8 ∧ w % 8 = 0) ∨ (size = 4 ∧ w % 4 = 0))) :
    doorbellAt c q w size v s = modQueue c q (fun a => { a with badSize := satInc 32 a.badSize }) s := by
  have hs := Bool.eq_false_iff.2 (mt doorbellSize_iff.1 h)
  simp only [doorbellAt, hs, Bool.not_false, if_true]

theorem doorbellAt_notAccepted {w size : Nat} {v : W64} (h : (size = 8 ∧ w % 8 = 0) ∨ (size = 4 ∧ w % 4 = 0))
    (ha : accepts c q s = false) : doorbellAt c q w size v s = modQueue c q (fun a => { a with dropped := satInc 32 a.dropped }) s := by
  have hs := doorbellSize_iff.2 h
  simp only [doorbellAt, hs, ha, Bool.not_true, Bool.not_false, Bool.false_eq_true, if_false, if_true]

section
variable {w : Nat} {v : W64} (ha : accepts c q s = true)
include ha

theorem doorbellAt_producer (hw : w % 8 = 0) : doorbellAt c q w 4 v s = produceAt c q (v.toNat % 2 ^ 32) s := by
  have h4 : w % 4 = 0 := by omega
  simp [doorbellAt, ha, hw, h4]

theorem doorbellAt_consumer (hw : w % 8 = 4) :
    doorbellAt c q w 4 v s = modQueue c q (Queue.consume (v.toNat % 2 ^ 32)) s := by
  have h4 : w % 4 = 0 := by omega
  simp [doorbellAt, ha, hw, h4]

theorem doorbellAt_both (hw : w % 8 = 0) :
    doorbellAt c q w 8 v s = modQueue c q (Queue.consume (v.toNat / 2 ^ 32)) (produceAt c q (v.toNat % 2 ^ 32) s) := by
  simp [doorbellAt, ha, hw]

end

/-- Front takes no entry that was not pushed (R77, R78). -/
theorem takePushes_mem {k : Nat} {tenant : Option Nat} {l : List Fetched} {e : Fetched} :
    e ∈ (takePushes k tenant l s).1 → e ∈ l := by
  induction l generalizing s with
  | nil => exact id
  | cons f l ih =>
    simp only [takePushes]
    split
    · exact fun h => List.mem_cons_of_mem _ (ih h)
    · exact fun h => (List.mem_cons.1 h).elim (fun h => h ▸ List.mem_cons_self ..) (fun h => List.mem_cons_of_mem _ (ih h))

/-- A producer value acts on its queue with some of the pushed entries, and on no other queue (R75 to R78). -/
theorem produceAt_queue (v : Nat) (hu : s.queue c q = some u) :
    ∃ fs : List Fetched, (∀ f ∈ fs, f ∈ takenSlots u u.d ((u.published v).getD 0)) ∧
      (produceAt c q v s).queue c q = some (u.produce v s.now fs) ∧ OtherQueuesSame (qkey c q) s (produceAt c q v s) := by
  simp only [produceAt, queueAt_of_queue hu]
  generalize hp : takePushes (qkey c q) (s.tenantOf c) (takenSlots u u.d ((u.published v).getD 0)) s = p
  have hw : Within [.chest, .jnl] s p.2 := hp ▸ takePushes_within _ _ _ (.refl _ s) (.refl _)
  have hf : p.2.front = s.front := hw.same .front (by decide)
  have ht : p.2.now = s.now := congrArg BitVec.toNat (hw.same .time (by decide))
  have hfront : ∀ t : State, (if (u.published v).getD 0 = 0 then t else trace 0 0 c q u.d t).front = t.front := by
    intro t
    split
    · rfl
    · exact trace_front ..
  refine ⟨p.1, fun f h => takePushes_mem (hp ▸ h), ?_, (modQueue_others c q _ p.2).of_front hf (hfront _)⟩
  rw [State.queue, hfront, ← State.queue, modQueue_queue, queueAt_of_front hf, queueAt_of_queue hu, ht]

section
variable {v now : Nat} {fs : List Fetched}

theorem Queue.produce_same (h : lag 32 v u.d = 0) : u.produce v now fs = u := by
  simp only [Queue.produce, h, if_true]

theorem Queue.produce_beyond (h : lag 32 v u.d ≠ 0) (hb : 2 ^ u.rcd.ringLog2 < lag 32 v u.w) :
    u.produce v now fs = { u with badDoorbell := satInc 32 u.badDoorbell } := by
  simp only [Queue.produce, Queue.published, h, hb, if_true, if_false]

theorem Queue.published_within (hb : ¬ 2 ^ u.rcd.ringLog2 < lag 32 v u.w) : u.published v = some (lag 32 v u.d) := by
  simp only [Queue.published, hb, if_false]

theorem Queue.produce_moves (h : lag 32 v u.d ≠ 0) (hb : ¬ 2 ^ u.rcd.ringLog2 < lag 32 v u.w) :
    ∃ f held, u.produce v now fs = { u with
      d := u.d + lag 32 v u.d, fetched := fs.foldl (fun a f => putFetched f a) u.fetched, push := List.replicate 4 [],
      f := f, heldSince := held, state := if u.state = .idle then .fetching else u.state } := by
  simp only [Queue.produce, Queue.published_within hb, h, if_false]
  exact ⟨_, _, rfl⟩

/-- A producer value leaves W, the Detail indices and the rings as they were (R75). -/
theorem Queue.produce_keeps : (u.produce v now fs).w = u.w ∧ (u.produce v now fs).cd = u.cd ∧ (u.produce v now fs).pd = u.pd ∧
    (u.produce v now fs).rcd = u.rcd := by
  by_cases h : lag 32 v u.d = 0
  · simp only [Queue.produce_same h, and_self]
  · by_cases hb : 2 ^ u.rcd.ringLog2 < lag 32 v u.w
    · simp only [Queue.produce_beyond h hb, and_self]
    · obtain ⟨f, held, he⟩ := Queue.produce_moves (now := now) (fs := fs) h hb
      simp only [he, and_self]

theorem Queue.produce_d : (u.produce v now fs).d =
    if lag 32 v u.d ≠ 0 ∧ ¬ 2 ^ u.rcd.ringLog2 < lag 32 v u.w then u.d + lag 32 v u.d else u.d := by
  by_cases h : lag 32 v u.d = 0
  · simp only [Queue.produce_same h, h, ne_eq, not_true_eq_false, false_and, if_false]
  · by_cases hb : 2 ^ u.rcd.ringLog2 < lag 32 v u.w
    · simp only [Queue.produce_beyond h hb, hb, not_true_eq_false, and_false, if_false]
    · obtain ⟨f, held, he⟩ := Queue.produce_moves (now := now) (fs := fs) h hb
      rw [if_pos ⟨h, hb⟩, he]

end

/-- The entries that are put in their places join those that stand there. -/
theorem mem_foldl_putFetched {e : Fetched} (fs l : List Fetched) :
    (e ∈ l → e ∈ fs.foldl (fun a f => putFetched f a) l) ∧
    (e ∈ fs.foldl (fun a f => putFetched f a) l → e ∈ fs ∨ e ∈ l) := by
  induction fs generalizing l with
  | nil => exact ⟨id, .inr⟩
  | cons f fs ih =>
    obtain ⟨hin, hout⟩ := ih (putFetched f l)
    refine ⟨fun h => hin (mem_putFetched.1 h), fun h => ?_⟩
    rcases hout h with h | h
    · exact .inl (List.mem_cons_of_mem _ h)
    · exact (mem_putFetched.2 h).imp_left (fun h : e = f => h ▸ List.mem_cons_self ..)

theorem Queue.consume_eq (v : Nat) : u.consume v =
    if 2 ^ u.rcd.detailLog2 < lag 32 u.pd v then { u with badDetail := satInc 32 u.badDetail } else { u with cd := v } := rfl

/-! ### Push slots (R77) -/

/-- The bytes of a push that lie in a slot, with their places in the push. -/
def slotPart (o : Nat) (bytes : List Byte) (i : Nat) : List (Byte × Nat) :=
  bytes.zipIdx.filter (fun b => decide (64 * i ≤ o + b.2 ∧ o + b.2 < 64 * i + 64))

/-- A slot after a push. -/
def slotAfter (o : Nat) (bytes : List Byte) (i : Nat) (sl : List (Option Byte)) : List (Option Byte) :=
  match slotPart o bytes i with
  | [] => sl
  | b :: _ => writeSlot sl (o + b.2 - 64 * i) ((slotPart o bytes i).map (·.1))

/-- The slots of a window after a push. -/
def pushSlots (o : Nat) (bytes : List Byte) (p : List (List (Option Byte))) : List (List (Option Byte)) :=
  p.zipIdx.map (fun e => slotAfter o bytes e.2 e.1)

theorem pushAt_accepted (o : Nat) (bytes : List Byte) (ha : accepts c q s = true) :
    pushAt c q o bytes s = modQueue c q (fun a => { a with push := pushSlots o bytes a.push }) s := by
  simp only [pushAt, ha, Bool.not_true, Bool.false_eq_true, if_false]
  rfl

theorem pushSlots_get (o : Nat) (bytes : List Byte) (p : List (List (Option Byte))) (i : Nat) :
    (pushSlots o bytes p)[i]? = (p[i]?).map (slotAfter o bytes i) := by
  simp only [pushSlots, List.getElem?_map, List.getElem?_zipIdx, Option.map_map]
  rw [Nat.zero_add]; rfl

section
variable {k j : Nat} {bytes : List Byte} (hj : j + bytes.length ≤ 64)
include hj

/-- All bytes of a push inside one slot lie in that slot. -/
theorem slotPart_self : slotPart (64 * k + j) bytes k = bytes.zipIdx := by
  refine List.filter_eq_self.2 fun b hb => ?_
  have := List.snd_lt_of_mem_zipIdx hb
  exact decide_eq_true ⟨by omega, by omega⟩

theorem slotPart_other {i : Nat} (hi : i ≠ k) : slotPart (64 * k + j) bytes i = [] := by
  refine List.filter_eq_nil_iff.2 fun b hb => ?_
  have := List.snd_lt_of_mem_zipIdx hb
  rw [decide_eq_true_eq]
  omega

theorem slotAfter_other {i : Nat} (hi : i ≠ k) (sl : List (Option Byte)) : slotAfter (64 * k + j) bytes i sl = sl := by
  rw [slotAfter, slotPart_other hj hi]

theorem slotAfter_self (hne : bytes ≠ []) (sl : List (Option Byte)) : slotAfter (64 * k + j) bytes k sl = writeSlot sl j bytes := by
  obtain ⟨b, t, rfl⟩ := List.exists_cons_of_ne_nil hne
  have hm : ((b :: t).zipIdx).map (·.1) = b :: t := List.zipIdx_map_fst ..
  rw [slotAfter, slotPart_self hj, hm]
  show writeSlot sl (64 * k + j + 0 - 64 * k) (b :: t) = _
  rw [show 64 * k + j + 0 - 64 * k = j by omega]

end

theorem getElem?_foldl_set (bs : List Byte) (off n : Nat) (l : List (Option Byte)) (i : Nat) (h : off + n + bs.length ≤ l.length) :
    ((bs.zipIdx n).foldl (fun a e => a.set (off + e.2) (some e.1)) l)[i]? =
      if off + n ≤ i ∧ i < off + n + bs.length then some bs[i - (off + n)]? else l[i]? := by
  induction bs generalizing n l with
  | nil => rw [if_neg (by simp only [List.length_nil]; omega)]; rfl
  | cons b bs ih =>
    simp only [List.length_cons] at h ⊢
    rw [List.zipIdx_cons, List.foldl_cons, ih (n + 1) _ (by rw [List.length_set]; omega), List.getElem?_set]
    by_cases h1 : off + n = i
    · subst h1
      rw [if_neg (by omega), if_pos rfl, if_pos (by omega), if_pos (by omega), Nat.sub_self]; rfl
    · rw [if_neg h1]
      by_cases h2 : off + (n + 1) ≤ i ∧ i < off + (n + 1) + bs.length
      · rw [if_pos h2, if_pos (by omega), show i - (off + n) = (i - (off + (n + 1))) + 1 by omega, List.getElem?_cons_succ]
      · rw [if_neg h2, if_neg (by omega)]

/-- A byte of a slot after a write into it. -/
theorem writeSlot_byte {sl : List (Option Byte)} {j : Nat} {bytes : List Byte} {i : Nat} (hsl : sl.length ≤ 64)
    (hj : j + bytes.length ≤ 64) (hi : i < 64) : ((writeSlot sl j bytes)[i]?).join =
      if j ≤ i ∧ i < j + bytes.length then bytes[i - j]? else (sl[i]?).join := by
  rw [writeSlot, getElem?_foldl_set bytes j 0 _ i (by simp only [List.length_append, List.length_replicate]; omega), Nat.add_zero]
  split
  · rfl
  · by_cases h : i < sl.length
    · rw [List.getElem?_append_left h]
    · rw [List.getElem?_append_right (by omega), List.getElem?_replicate, if_pos (by omega), List.getElem?_eq_none (by omega)]; rfl

end

/-- Settles O5: the doorbell by what each of its two values makes of the queue, the push slot by slot, the dropped writes by where they land. -/
theorem bar2WritesAreTakenOrCounted : Obligations.Bar2WritesAreTakenOrCounted := by
  unfold Obligations.Bar2WritesAreTakenOrCounted
  refine ⟨?doorbell, ?push, ?dropped⟩
  case doorbell =>
    intro fn c q v x u s hb hx hfn hq hlt ha hu
    dsimp only
    have hmod : q * 8 % 8 = 0 := Nat.mul_mod_left q 8
    obtain ⟨fs, hfs, hpq, hpo⟩ := produceAt_queue (v.toNat % 2 ^ 32) hu
    obtain ⟨hw, hcd, hpd, hrcd⟩ := Queue.produce_keeps (u := u) (v := v.toNat % 2 ^ 32) (now := s.now) (fs := fs)
    refine ⟨?_, ?_, ?_⟩
    · have he := doorbellWrite_at (size := 4) (v := v) hb hx hfn hq hlt rfl (show q * 8 / 8 = q by omega)
      rw [doorbellAt_producer ha hmod] at he
      refine ⟨_, _, he, hpq, hw, hcd, Queue.produce_same, Queue.produce_beyond, fun h0 hbey => ?_, hpo, onlyIn_of_exec he⟩
      rw [Queue.published_within hbey, Option.getD_some] at hfs
      obtain ⟨f, held, hprod⟩ := Queue.produce_moves (now := s.now) (fs := fs) h0 hbey
      rw [hprod]
      exact ⟨rfl, rfl, rfl, fun e => (mem_foldl_putFetched fs _).1,
        fun e h => ((mem_foldl_putFetched fs _).2 h).symm.imp_right (hfs e)⟩
    · have he := doorbellWrite_at (size := 4) (v := v) hb hx hfn hq hlt (Nat.add_assoc ..) (show (q * 8 + 4) / 8 = q by omega)
      rw [doorbellAt_consumer ha (by omega)] at he
      refine ⟨_, _, he, modQueue_queue .., ?_, ?_, modQueue_others c q _ s, onlyIn_of_exec he⟩ <;>
        intro h <;> simp only [queueAt_of_queue hu, Queue.consume_eq, h, if_true, if_false]
    · have he := doorbellWrite_at (size := 8) (v := v) hb hx hfn hq hlt rfl (show q * 8 / 8 = q by omega)
      rw [doorbellAt_both ha hmod] at he
      refine ⟨_, _, he, modQueue_queue .., ?_, ?_, ?_, fun k hk => (modQueue_others c q _ _ k hk).trans (hpo k hk), onlyIn_of_exec he⟩ <;>
        simp only [queueAt_of_queue hpq, Queue.consume_eq, hpd, hrcd] <;> split
      · exact hw
      · exact hw
      · exact Queue.produce_d
      · exact Queue.produce_d
      · exact hcd
      · rfl
  case push =>
    intro fn c q k j bytes x u s hb hx hfn hq hlt ha hu hlen hsl hk hne hj
    have hpos : 0 < bytes.length := List.length_pos_iff.2 hne
    have he : Machine.exec (.pushWrite fn (c * 0x20000 + 0x10000 + q * 256 + 64 * k + j) bytes) s =
        .next (modQueue c q (fun a => { a with push := pushSlots (64 * k + j) bytes a.push }) s) := by
      rw [← pushAt_accepted _ _ ha]
      refine congrArg Host.Outcome.next ?_
      have hoff : c * 0x20000 + 0x10000 + q * 256 + 64 * k + j = c * 0x20000 + (0x10000 + q * 256 + 64 * k + j) := by omega
      rw [pushWrite, hoff, bar2Write_at hb (by omega) hx, if_neg (not_not.2 hfn), if_neg (by omega), if_neg (by omega),
        show (0x10000 + q * 256 + 64 * k + j - 0x10000) / 256 = q by omega,
        show (0x10000 + q * 256 + 64 * k + j) % 256 = 64 * k + j by omega, if_neg (by omega)]
    refine ⟨_, _, he, modQueue_queue .., ?_⟩
    rw [queueAt_of_queue hu]
    refine ⟨rfl, ?_, fun k' hk' => ?_, fun i hi => ?_, modQueue_others c q _ s, ?_⟩
    · show (pushSlots _ _ _).length = 4
      rw [pushSlots, List.length_map, List.length_zipIdx, hlen]
    · show (pushSlots _ _ _)[k']? = _
      rw [pushSlots_get, show slotAfter (64 * k + j) bytes k' = id from funext (slotAfter_other hj hk'), Option.map_id, id]
    · show (((pushSlots _ _ _)[k]?).bind (·[i]?)).join = _
      obtain ⟨sl, hg⟩ : ∃ sl, u.push[k]? = some sl := ⟨_, List.getElem?_eq_getElem (by omega)⟩
      rw [pushSlots_get, hg, Option.map_some, Option.bind_some, Option.bind_some, slotAfter_self hj hne,
        writeSlot_byte (hsl sl (List.mem_of_getElem? hg)) hj hi]
    · exact (modQueue_within c q _ (.refl _ s) (.refl _)).onlyIn
  case dropped =>
    intro fn c o size v bytes s ho
    refine ⟨fun hl => ?_, fun hl => ?_, fun hb => ?_, fun x hb hx => ?_⟩
    · exact congrArg Host.Outcome.next (bar2Write_forms ho (.inl ⟨hl, rfl, rfl⟩))
    · exact congrArg Host.Outcome.next (bar2Write_forms ho (.inr ⟨hl, rfl⟩))
    · exact ⟨congrArg Host.Outcome.next (bar2Write_closed hb), congrArg Host.Outcome.next (bar2Write_closed hb)⟩
    · have hd : Machine.exec (.doorbellWrite fn (c * 0x20000 + o) size v) s = .next _ :=
        congrArg Host.Outcome.next (bar2Write_at hb ho hx)
      have hp : Machine.exec (.pushWrite fn (c * 0x20000 + o) bytes) s = .next _ :=
        congrArg Host.Outcome.next (bar2Write_at hb ho hx)
      rw [hd, hp]
      refine ⟨fun hfn => ?_, fun hfn h1 h2 => ?_, fun hfn h1 h2 => ?_, fun hfn h1 h2 => ?_, fun hfn h1 h2 => ?_, fun hfn h1 h2 => ?_,
        fun hfn h1 h2 ha => ?_⟩
      · rw [if_pos hfn, if_pos hfn]; exact ⟨rfl, rfl⟩
      · rw [if_neg (not_not.2 hfn), if_neg (by omega), if_pos h2]
      · rw [if_neg (not_not.2 hfn), if_neg (by omega), if_pos h2]
      · rw [if_neg (not_not.2 hfn), if_pos h1, if_pos h2]
      · rw [if_neg (not_not.2 hfn), if_neg (by omega), if_neg (by omega), if_pos h2]
      · rw [if_neg (not_not.2 hfn), if_pos h1, if_neg (by omega)]
        refine ⟨fun hs => ?_, fun hs ha => ?_⟩
        · exact congrArg Host.Outcome.next (doorbellAt_badSize hs)
        · exact congrArg Host.Outcome.next (doorbellAt_notAccepted hs ha)
      · rw [if_neg (not_not.2 hfn), if_neg (by omega), if_neg (by omega), if_neg (by omega)]
        simp [pushAt, ha]

end Sys2Proof.Machine
end

section
/-! SUPPORT and O8. The end of a shutdown (R94), the reports of retirements (R86 to R91), and their messages. -/

namespace Sys2Proof.Machine

variable {c q k : Nat} {x : Context} {u v : Queue} {s s0 t : State}

/-! ### The end of a shutdown -/

/-- A queue being shut down that has nothing left to retire or to report (R94, R96). -/
def Queue.over (u : Queue) : Prop :=
  u.state = .shutting ∧ u.w = u.d ∧ u.unwritten.isEmpty = true ∧ (u.urgent && u.rcd.msixEnable) = false

theorem settleQueue_over (hu : tget s.front.queues k = some u) (h : u.over) :
    settleQueue k s = (let t := s.modQ k (fun q => { q with state := .stopped })
      if s.front.qBusy && s.front.qBusyKey == k then qResult 0 t else t) := by
  simp only [Queue.over] at h
  simp only [settleQueue, hu, h, and_self, if_true]
  rfl

theorem settleQueue_open (hu : tget s.front.queues k = some u) (h : ¬u.over) : settleQueue k s = s := by
  simp only [Queue.over] at h
  simp only [settleQueue, hu, h, if_false]

/-- What settling a queue does: it stops where its shutdown is over, which FRT_QSTS then reports (R94). -/
theorem settleQueue_leaves (hu : tget s.front.queues k = some u) :
    ∃ v, tget (settleQueue k s).front.queues k = some v ∧ v = { u with state := v.state } ∧
      (u.over → v.state = .stopped ∧ (s.front.qBusy = true → s.front.qBusyKey = k →
        (settleQueue k s).front.qBusy = false ∧ (settleQueue k s).front.qResult = 0)) ∧
      (¬u.over → v.state = u.state ∧ (settleQueue k s).front = s.front) ∧ OtherQueuesSame k s (settleQueue k s) := by
  by_cases h : u.over
  · have hq : tget (s.modQ k (fun q => { q with state := .stopped })).front.queues k = some { u with state := .stopped } := by
      rw [State.modQ_tget, if_pos rfl, hu]; rfl
    have ho : OtherQueuesSame k s (s.modQ k (fun q => { q with state := .stopped })) := fun k' hk => by
      rw [State.modQ_tget, if_neg hk]
    rw [settleQueue_over hu h]
    dsimp only
    by_cases hb : (s.front.qBusy && s.front.qBusyKey == k) = true
    · rw [if_pos hb]
      exact ⟨_, hq, rfl, fun _ => ⟨rfl, fun _ _ => ⟨rfl, rfl⟩⟩, fun h' => absurd h h', ho⟩
    · rw [if_neg hb]
      exact ⟨_, hq, rfl, fun _ => ⟨rfl, fun hb1 hb2 => absurd (by simp [hb1, hb2]) hb⟩, fun h' => absurd h h', ho⟩
  · rw [settleQueue_open hu h]
    exact ⟨u, hu, rfl, fun h' => absurd h' h, fun _ => ⟨rfl, rfl⟩, fun _ _ => rfl⟩

/-! ### Detail Ring records -/

/-- A queue but for its Detail Ring and spilled records (R87 to R90). -/
def Queue.plain (u : Queue) : Queue := { u with pd := 0, overflow := false, overflowCount := 0, missed := 0, spilled := [] }

/-- Detail Ring records of a queue have been dealt with: no other queue has changed, and the ports have sent at most. -/
structure Detailed (c q : Nat) (s t : State) : Prop where
  queue : (t.queue c q).map Queue.plain = (s.queue c q).map Queue.plain
  others : OtherQueuesSame (qkey c q) s t
  busy : (t.front.qBusy, t.front.qBusyKey) = (s.front.qBusy, s.front.qBusyKey)
  out : OutOnly s t

theorem Detailed.refl (c q : Nat) (s : State) : Detailed c q s s := ⟨rfl, fun _ _ => rfl, rfl, .refl s⟩

theorem Detailed.front (h : Detailed c q s0 s) (hf : t.front = s.front) (ho : OutOnly s0 s → OutOnly s0 t) : Detailed c q s0 t where
  queue := by rw [State.queue, hf]; exact h.queue
  others := h.others.of_front rfl hf
  busy := by rw [hf]; exact h.busy
  out := ho h.out

theorem Detailed.modQ (h : Detailed c q s0 s) {f : Queue → Queue} (hf : ∀ x, (f x).plain = x.plain) :
    Detailed c q s0 (s.modQ (qkey c q) f) where
  queue := by
    rw [State.modQ_queue, Option.map_map, show Queue.plain ∘ f = Queue.plain from funext hf]
    exact h.queue
  others := fun k hk => by rw [State.modQ_tget, if_neg hk]; exact h.others k hk
  busy := h.busy
  out := h.out

theorem spillDetail_detailed (r : List Byte) (h : Detailed c q s0 s) : Detailed c q s0 (spillDetail (qkey c q) r s) :=
  (h.front (t := portWrite none .hub (spillSlot (freeSpill s) s) r s) rfl (portWrite_outOnly _ _ _ _)).modQ
    (f := fun x => { x with spilled := x.spilled ++ [freeSpill s] }) fun _ => rfl

/-- A retirement's Detail Ring record (R87 to R90). -/
theorem detailDue_detailed (r : Retired) (h : Detailed c q s0 s) : Detailed c q s0 (detailDue c q r s) := by
  unfold detailDue
  split
  · next x ctx hx hctx =>
    dsimp only
    split
    · exact h
    · split
      · exact h.modQ fun _ => rfl
      · split
        · have hm := h.modQ (f := fun x => { x with
            overflow := true, overflowCount := satInc 32 x.overflowCount, missed := satInc 32 x.missed }) fun _ => rfl
          have hk : Detailed c q s0 (if decide (x.spilled.length < Config.maxQueueSpill ∧ (spilledSlots s).length < Config.maxSpill)
              then spillDetail (qkey c q) (detailRecord r (decide (x.pd / 2 ^ x.rcd.detailLog2 % 2 = 0)) 0) (s.modQ (qkey c q) fun x => { x with
                overflow := true, overflowCount := satInc 32 x.overflowCount, missed := satInc 32 x.missed })
              else s.modQ (qkey c q) fun x => { x with
                overflow := true, overflowCount := satInc 32 x.overflowCount, missed := satInc 32 x.missed }) := by
            split
            · exact spillDetail_detailed _ hm
            · exact hm
          split
          · exact hk.front (raiseEvent_front ..) fun h => h.within (raiseEvent_within _ (.refl _ _) (.refl _))
          · exact hk
        · exact (h.front (hostWrite_front ..) (hostWrite_outOnly _ _ _)).modQ fun _ => rfl
  · exact h

/-- Without a Detail Ring no record is due (R89). -/
theorem detailDue_off (r : Retired) (hu : s.queue c q = some u) (hm : u.rcd.detailMode = 0) : detailDue c q r s = s := by
  unfold detailDue
  rw [hu]
  split
  · next y ctx hy hctx =>
    obtain rfl := Option.some.inj hy
    simp [hm]
  · rfl

/-- The records of the retirements that have not been reported (R86). -/
def detailsDone (c q : Nat) (u : Queue) (s : State) : State := u.unwritten.foldl (fun s r => detailDue c q r s) s

theorem detailsDone_detailed (c q : Nat) (u : Queue) (s : State) : Detailed c q s (detailsDone c q u s) := by
  unfold detailsDone
  suffices h : ∀ (l : List Retired) (t : State), Detailed c q s t → Detailed c q s (l.foldl (fun s r => detailDue c q r s) t) by
    exact h _ s (.refl c q s)
  intro l
  induction l with
  | nil => exact fun t h => h
  | cons r l ih => exact fun t h => ih _ (detailDue_detailed r h)

theorem detailsDone_off (hu : s.queue c q = some u) (hm : u.rcd.detailMode = 0) : detailsDone c q u s = s := by
  unfold detailsDone
  generalize u.unwritten = l
  induction l with
  | nil => rfl
  | cons r l ih => rw [List.foldl_cons, detailDue_off r hu hm]; exact ih

theorem detailsDone_within (c q : Nat) (u : Queue) (s : State) :
    Within [.port, .mem, .hub, .front, .chest, .jnl] s (detailsDone c q u s) :=
  Within.foldl (fun _ r h => detailDue_within c q r h (.refl _)) _ (.refl _ s)

/-! ### The Completion Word -/

/-- The Completion Word's location (R86). -/
abbrev wordLoc (x : Context) (u : Queue) : Loc := ctxLoc x.rcd u.rcd.completionAddr

/-- Where the Completion Word is written, after the Detail Ring records (R86). -/
def wordWritten (c q : Nat) (x : Context) (u : Queue) (s : State) : State :=
  hostWrite (some c) (wordLoc x u) (le 8 u.w) (detailsDone c q u s)

/-- What is reported waits no longer, before a message goes out (R86, R302). -/
def reported (c q : Nat) (x : Context) (u : Queue) (s : State) : State :=
  bump 1 ((u.unwritten.foldl (fun s r => dropCompletion (qkey c q) r.pos s) (wordWritten c q x u s)).modQ (qkey c q)
    (fun x => { x with unwritten := [] }))

/-- A message is due (R91). -/
def Queue.msixDue (u : Queue) : Bool := u.rcd.msixEnable && (decide (u.rcd.modCount ≤ u.unreported) || u.urgent)

theorem cellsDropped_within (k : Nat) (l : List Retired) (s : State) :
    Within [.chest, .jnl] s (l.foldl (fun s r => dropCompletion k r.pos s) s) :=
  Within.foldl (fun _ _ h => dropCompletion_within _ _ h (.refl _)) _ (.refl _ s)

/-- The reports of a queue that has retirements to report, then the message, then the end of its shutdown (R86, R91, R94). -/
theorem completionWordWrite_due (hu : s.queue c q = some u) (hx : tget s.contexts c = some x) (hst : u.state ≠ .stopped)
    (hne : u.unwritten ≠ []) :
    completionWordWrite c q s =
      settleQueue (qkey c q) (if u.msixDue then sendMsix c q (reported c q x u s) else reported c q x u s) := by
  simp only [completionWordWrite, hu, hx, hst, List.isEmpty_iff, hne, if_false]
  rfl

/-- With nothing to report the message that is due at once goes out (R96). -/
theorem completionWordWrite_urgent (hu : s.queue c q = some u) (hx : tget s.contexts c = some x) (hst : u.state ≠ .stopped)
    (hne : u.unwritten = []) (he : u.rcd.msixEnable = true) (hur : u.urgent = true) :
    completionWordWrite c q s = settleQueue (qkey c q) (sendMsix c q s) := by
  simp only [completionWordWrite, hu, hx, hst, hne, he, hur, List.isEmpty_nil, Bool.and_self, if_false, if_true]

theorem wordWritten_detailed (c q : Nat) (x : Context) (u : Queue) (s : State) : Detailed c q s (wordWritten c q x u s) :=
  (detailsDone_detailed c q u s).front (hostWrite_front ..) (hostWrite_outOnly _ _ _)

theorem wordWritten_within (c q : Nat) (x : Context) (u : Queue) (s : State) :
    Within [.port, .mem, .hub, .front, .chest, .watch, .jnl] s (wordWritten c q x u s) :=
  hostWrite_within _ _ _ (Within.foldl (fun _ r h => detailDue_within c q r h (by simp [Covers])) _ (.refl _ s)) (by simp [Covers])

theorem reported_within (c q : Nat) (x : Context) (u : Queue) (s : State) :
    Within [.port, .mem, .hub, .front, .chest, .watch, .jnl] s (reported c q x u s) :=
  bump_within _ (State.modQ_within _ _ (Within.foldl (fun _ _ h => dropCompletion_within _ _ h (by simp [Covers])) _
    (wordWritten_within c q x u s)) (by simp [Covers])) (by simp [Covers])

theorem reported_front (c q : Nat) (x : Context) (u : Queue) (s : State) :
    (reported c q x u s).front = ((wordWritten c q x u s).modQ (qkey c q) (fun x => { x with unwritten := [] })).front := by
  rw [reported, bump_front, State.modQ, State.modQ, State.modQueues, State.modQueues]
  exact congrArg (fun f : Front => { f with queues := tupd f.queues (qkey c q) fun x => { x with unwritten := [] } })
    ((cellsDropped_within _ _ _).same .front (by decide))

theorem reported_port (c q : Nat) (x : Context) (u : Queue) (s : State) :
    (reported c q x u s).port = (wordWritten c q x u s).port :=
  (cellsDropped_within (qkey c q) u.unwritten (wordWritten c q x u s)).same .port (by decide)

theorem reported_mem (c q : Nat) (x : Context) (u : Queue) (s : State) :
    (reported c q x u s).mem = (wordWritten c q x u s).mem :=
  (cellsDropped_within (qkey c q) u.unwritten (wordWritten c q x u s)).same .mem (by decide)

/-- The queue whose retirements have been reported, but for its Detail Ring (R86). -/
theorem reported_queue (hu : s.queue c q = some u) (x : Context) :
    ∃ v, (reported c q x u s).queue c q = some v ∧ v.plain = { u with unwritten := [] }.plain := by
  have h := (wordWritten_detailed c q x u s).queue
  rw [hu] at h
  obtain ⟨w, hw, hwu⟩ := Option.map_eq_some_iff.1 h
  refine ⟨{ w with unwritten := [] }, ?_, (congrArg (fun y : Queue => { y with unwritten := [] }) hwu :)⟩
  rw [State.queue, reported_front, ← State.queue, State.modQ_queue, hw]
  rfl

theorem reported_others (c q : Nat) (x : Context) (u : Queue) (s : State) : OtherQueuesSame (qkey c q) s (reported c q x u s) :=
  fun k hk => by
    rw [reported_front, State.modQ_tget, if_neg hk]
    exact (wordWritten_detailed c q x u s).others k hk

theorem reported_busy (c q : Nat) (x : Context) (u : Queue) (s : State) :
    ((reported c q x u s).front.qBusy, (reported c q x u s).front.qBusyKey) = (s.front.qBusy, s.front.qBusyKey) := by
  rw [reported_front]
  exact (wordWritten_detailed c q x u s).busy

theorem reported_outOnly (c q : Nat) (x : Context) (u : Queue) (s : State) : OutOnly s (reported c q x u s) :=
  (wordWritten_detailed c q x u s).out.trans (congrArg (fun p : Port => { p with out := [] }) (reported_port ..) :)

section
variable (c q x u) (hd : hostDropped (wordLoc x u) s = false)
include hd

theorem wordWritten_open : hostDropped (wordLoc x u) (detailsDone c q u s) = false :=
  ((detailsDone_detailed c q u s).out.hostDropped _).trans hd

/-- The Completion Word in memory (R86). -/
theorem reported_word_mem : (reported c q x u s).mem = (detailsDone c q u s).mem.write (wordLoc x u) (le 8 u.w) := by
  rw [reported_mem, wordWritten, hostWrite_mem, wordWritten_open c q x u hd]
  rfl

/-- The last request of the reports is the Completion Word's write (R86). -/
theorem reported_last (f n : Nat) : (reported c q x u s).port.out.getLast? ≠ some (.msix f n) := by
  have hne : writeReqs ((detailsDone c q u s).keyOf (some c)) .hub (wordLoc x u) (le 8 u.w) ≠ [] := by
    simp [writeReqs, split, pieces]
  rw [reported_port, wordWritten, hostWrite, wordWritten_open c q x u hd, if_neg (by decide), charge_port]
  simp only [portWrite, emitAll, List.getLast?_append_of_ne_nil _ hne]
  intro h
  obtain ⟨p, -, hp⟩ := List.mem_map.1 (List.mem_of_getLast? h)
  cases hp

end

/-! ### Messages -/

/-- A message is sent (R91). -/
theorem sendMsix_eq (hu : s.queue c q = some u) (hx : tget s.contexts c = some x) (ha : s.port.dropAll = false)
    (hf : s.port.dropHost = []) :
    sendMsix c q s = emit (.msix x.rcd.fn u.rcd.msixVector) (s.modQ (qkey c q) (fun x => { x with unreported := 0, urgent := false })) := by
  simp only [sendMsix, hu, msix, State.fnOf, hx, Option.map_some, Option.getD_some]
  exact if_neg (by simp [State.modQ, State.modQueues, ha, hf])

/-- A queue whose message has gone out. -/
def Queue.messaged (b : Bool) (u : Queue) : Queue := if b then { u with unreported := 0, urgent := false } else u

theorem Queue.messaged_unwritten {b : Bool} : (u.messaged b).unwritten = u.unwritten := by cases b <;> rfl

theorem Queue.messaged_w {b : Bool} : (u.messaged b).w = u.w := by cases b <;> rfl

theorem Queue.messaged_state {b : Bool} : (u.messaged b).state = u.state := by cases b <;> rfl

/-- What a message, where one is due, leaves (R91). -/
theorem message_leaves (b : Bool) (hu : s.queue c q = some u) (hx : tget s.contexts c = some x) (ha : s.port.dropAll = false)
    (hf : s.port.dropHost = []) :
    let t := if b then sendMsix c q s else s
    t.queue c q = some (u.messaged b) ∧
    t.port = { s.port with out := s.port.out ++ if b then [.msix x.rcd.fn u.rcd.msixVector] else [] } ∧
    t.mem = s.mem ∧ (t.front.qBusy, t.front.qBusyKey) = (s.front.qBusy, s.front.qBusyKey) ∧ OtherQueuesSame (qkey c q) s t := by
  cases b with
  | true =>
    rw [if_pos rfl, if_pos rfl, sendMsix_eq hu hx ha hf]
    refine ⟨?_, rfl, rfl, rfl, fun k hk => ?_⟩
    · rw [State.queue, emit_front, ← State.queue, State.modQ_queue, hu]; rfl
    · rw [emit_front, State.modQ_tget, if_neg hk]
  | false => exact ⟨hu, by simp, rfl, rfl, fun _ _ => rfl⟩

/-- The end of the shutdown of a queue that has reported everything, its message sent where one is due (R94). -/
theorem Queue.messaged_over (hw : u.unwritten = []) : (u.messaged u.msixDue).over ↔ u.state = .shutting ∧ u.w = u.d := by
  unfold Queue.over Queue.messaged
  split
  · simp [hw]
  · next h =>
    have hn : (u.urgent && u.rcd.msixEnable) = false := by
      cases hu : u.urgent with
      | false => rfl
      | true => simpa [Queue.msixDue, hu] using h
    simp [hw, hn]

/-- Settles O8: the reports leave the queue as it is but for what waits to be reported, then the message and the end of the shutdown. -/
theorem completionReports : Obligations.CompletionReports := by
  unfold Obligations.CompletionReports
  refine ⟨fun c q x u s hok hu hx hst hne hd ha hf => ?_, fun c q x u s hu hx hst hne he hur ha hf => ?_,
    fun c q x u s hu hx hst he hpos hne hdelay ha hf => ?_⟩
  · obtain ⟨y, hy, hyu⟩ := reported_queue hu x
    have hout := reported_outOnly c q x u s
    have hyrcd : y.rcd = u.rcd := (congrArg Queue.rcd hyu :)
    have hyst : y.state = u.state := (congrArg Queue.state hyu :)
    have hyw : y.w = u.w := (congrArg Queue.w hyu :)
    have hyd : y.d = u.d := (congrArg Queue.d hyu :)
    have hyn : y.unwritten = [] := (congrArg Queue.unwritten hyu :)
    have hyr : y.unreported = u.unreported := (congrArg Queue.unreported hyu :)
    have hyg : y.urgent = u.urgent := (congrArg Queue.urgent hyu :)
    have hydue : y.msixDue = u.msixDue := by rw [Queue.msixDue, Queue.msixDue, hyrcd, hyr, hyg]
    have hrx : tget (reported c q x u s).contexts c = some x := by
      rw [(reported_within c q x u s).same .contexts (by decide)]; exact hx
    obtain ⟨hmq, hmport, hmmem, hmbusy, hmother⟩ := message_leaves u.msixDue hy hrx ((congrArg Port.dropAll hout :).trans ha)
      ((congrArg Port.dropHost hout :).trans hf)
    have hov : (y.messaged u.msixDue).over ↔ u.state = .shutting ∧ u.w = u.d := by
      rw [← hydue, Queue.messaged_over hyn, hyst, hyw, hyd]
    have hexec : Machine.exec (.completionWordWrite c q) s = .next _ := congrArg Host.Outcome.next (completionWordWrite_due hu hx hst hne)
    obtain ⟨v, hv, hvu, hover, hopen, hother⟩ := settleQueue_leaves hmq
    have hsettle := settleQueue_within (qkey c q) (.refl _ (if u.msixDue then sendMsix c q (reported c q x u s) else reported c q x u s))
      (.refl [.front])
    have hport := (hsettle.same .port (by decide)).trans hmport
    have hmem := (hsettle.same .mem (by decide)).trans (hmmem.trans (reported_word_mem c q x u hd))
    have hlen : (le 8 u.w).length = 8 := le_length 8 u.w
    refine ⟨_, v, hexec, hv, ?_, ?_, ?_, fun hmode k hk => ?_, fun he hm => ?_, fun hm => ?_, ?_, fun h1 h2 hb1 hb2 => ?_,
      fun k hk => ?_, onlyIn_of_exec hexec⟩
    · rw [hvu]; exact Queue.messaged_unwritten.trans hyn
    · rw [hvu]; exact Queue.messaged_w.trans hyw
    · have := memRead_write (wordLoc x u) (le 8 u.w) ((detailsDone_within c q u s).memOk hok) hmem
      rwa [hlen] at this
    · refine memRead_write_other (wordLoc x u) (le 8 u.w) ?_ k (by rw [hlen]; exact hk)
      rw [detailsDone_off hu hmode] at hmem
      exact hmem
    · have hdue : u.msixDue = true := by
        rw [Queue.msixDue, he, Bool.true_and, Bool.or_eq_true, decide_eq_true_eq]; exact hm
      rw [hdue] at hvu
      rw [hvu, hport, hyrcd, if_pos hdue]
      exact ⟨rfl, rfl, by simp⟩
    · have hdue : u.msixDue = false := by
        rw [Queue.msixDue]
        rcases hm with h | ⟨h, h'⟩
        · rw [h]; rfl
        · simp [h', Nat.not_le.2 h]
      rw [hdue] at hvu
      rw [hvu, hport, hdue]
      exact ⟨hyr, by simpa using reported_last c q x u hd⟩
    · split
      · next h => exact (hover (hov.2 h)).1
      · next h => exact (hopen fun h' => h (hov.1 h')).1.trans (Queue.messaged_state.trans hyst)
    · obtain ⟨h1', h2'⟩ := Prod.ext_iff.1 (hmbusy.trans (reported_busy c q x u s))
      exact (hover (hov.2 ⟨h1, h2⟩)).2 (h1'.trans hb1) (h2'.trans hb2)
    · exact (hother k hk).trans ((hmother k hk).trans (reported_others c q x u s k hk))
  · have hexec : Machine.exec (.completionWordWrite c q) s = .next _ :=
      congrArg Host.Outcome.next (completionWordWrite_urgent hu hx hst hne he hur)
    obtain ⟨hmq, hmport, -, -, hmother⟩ := message_leaves true hu hx ha hf
    obtain ⟨v, hv, hvu, -, -, hother⟩ := settleQueue_leaves hmq
    exact ⟨_, v, hexec, hv, hvu, ((settleQueue_within (qkey c q) (.refl _ _) (.refl [.front])).same .port (by decide)).trans hmport,
      fun k hk => (hother k hk).trans (hmother k hk),
      (settleQueue_within _ (sendMsix_within c q (.refl _ s) (.refl _)) (by simp [Covers])).onlyIn⟩
  · have hdue : msixModerationTimeout c q s = sendMsix c q s := by
      simp [msixModerationTimeout, hu, hst, he, hpos, hne, hdelay]
    have hexec : Machine.exec (.msixModerationTimeout c q) s = .next (sendMsix c q s) := congrArg Host.Outcome.next hdue
    obtain ⟨hmq, hmport, -, -, hmother⟩ := message_leaves true hu hx ha hf
    exact ⟨_, hexec, hmq, hmport, hmother, onlyIn_of_exec hexec⟩

end Sys2Proof.Machine
end

section
/-! SUPPORT and O4. The start of a queue (R68), its shutdown (R94), and its timeout (R92, R93). -/

namespace Sys2Proof.Machine

variable {c q k : Nat} {l : Latch} {x : Context} {u v : Queue} {s s0 t : State}

/-! ### Requests and memory of a hub access -/

theorem hostWrite_out (o : Option Nat) (w : Loc) (bs : List Byte) (s : State) :
    (hostWrite o w bs s).port.out = s.port.out ++ if hostDropped w s then [] else writeReqs (s.keyOf o) .hub w bs := by
  unfold hostWrite
  split
  · rw [List.append_nil]
  · rw [charge_port]; rfl

theorem readFor_out (o : Option Nat) (w : Loc) (n : Nat) (s : State) :
    (readFor o w n s).port.out = s.port.out ++ if hostStopped w s then [] else readReqs (s.keyOf o) .hub w n := by
  unfold readFor readBy
  split
  · rw [List.append_nil]
  · next h => rw [charge_port, readReq_out rfl, if_neg h]

theorem readFor_outOnly (o : Option Nat) (w : Loc) (n : Nat) (h : OutOnly s0 s) : OutOnly s0 (readFor o w n s) := by
  unfold readFor readBy
  refine .ite h (charge_outOnly _ _ _ ?_)
  unfold readReq
  exact .ite h h

/-- Eight bytes that a host write leaves (R86). -/
theorem hostWrite_word {w : Loc} {v : Nat} (hok : s.MemOk) (ht : t.mem = if hostDropped w s0 then s.mem else s.mem.write w (le 8 v)) :
    (hostDropped w s0 = false → memRead w 8 t = le 8 v) ∧ UnchangedOutside w 8 s t := by
  have hlen : (le 8 v).length = 8 := le_length 8 v
  by_cases hd : hostDropped w s0 = true
  · rw [if_pos hd] at ht
    exact ⟨fun h => absurd hd (by simp [h]), fun _ _ => memRead_congr ht _ _⟩
  · rw [if_neg hd] at ht
    refine ⟨fun _ => ?_, fun k hk => memRead_write_other w (le 8 v) ht k (by rw [hlen]; exact hk)⟩
    have := memRead_write w (le 8 v) hok ht
    rwa [hlen] at this

/-! ### ENABLE -/

/-- The cell that the read of a queue record takes and leaves (R68, R308). -/
def recordCell (c q : Nat) (s : State) : State :=
  match grantNow (itemReq 0 (qkey c q) (s.tenantOf c) recordItem 1 none) s with
  | some t => dropItem 0 (qkey c q) recordItem (evalChest t)
  | none => s

theorem recordRead_eq (c q : Nat) (x : CtxRec) (s : State) :
    recordRead c q x s = readFor (some c) (ctxLoc x (x.queueTable + q * 64)) 64 (recordCell c q s) := rfl

theorem recordCell_within (c q : Nat) (s : State) : Within [.chest, .jnl] s (recordCell c q s) := by
  unfold recordCell
  split
  · next t ht => exact dropItem_within _ _ _ (evalChest_within (grantNow_within _ (.refl _ s) (by simp [Covers]) t ht) (.refl _)) (.refl _)
  · exact .refl _ s

theorem recordRead_outOnly (c q : Nat) (x : CtxRec) (s : State) : OutOnly s (recordRead c q x s) :=
  readFor_outOnly _ _ _ ((OutOnly.refl s).within (recordCell_within c q s))

/-- The queue starts, its record read and its Completion Word written (R68). -/
def enabledFrom (c q : Nat) (r : QueueRec) (w : State) : State :=
  qResult 0 (modQueue c q (fun _ => Queue.enable r w.now) (discardCells 0 (qkey c q) w))

theorem enabledFrom_within {fp : List Part} {w : State} (c q : Nat) (r : QueueRec) (h : Within fp s0 w)
    (hm : Covers [.front, .chest, .jnl] fp) : Within fp s0 (enabledFrom c q r w) :=
  qResult_within _ (modQueue_within _ _ _ (discardCells_within _ _ h (hm.sub (by decide))) (hm.sub (by decide))) (hm.sub (by decide))

/-- What ENABLE of a legal record leaves (R68). -/
def enabled (c q : Nat) (x : Context) (r : QueueRec) (s : State) : State :=
  enabledFrom c q r (hostWrite (some c) (ctxLoc x.rcd r.completionAddr) (le 8 r.startIndex) (recordRead c q x.rcd s))

theorem queueEnable_legal {b : List Byte} {r : QueueRec} (ho : cmdOpen s.front.qBusy s = true) (hx : tget s.contexts c = some x)
    (ha : x.state = .active) (hq : q < x.rcd.queueCount) (hst : (queueAt c q s).state = .stopped) (hp : parseQueue b = some r)
    (hv : r.msixEnable = true → r.msixVector ≤ x.rcd.msixLast) : queueEnable c q (.ok b) .ok s = enabled c q x r s := by
  have hno : ¬(r.msixEnable = true ∧ x.rcd.msixLast < r.msixVector) := fun h => absurd h.2 (Nat.not_lt.2 (hv h.1))
  simp [queueEnable, ho, hx, ha, Nat.not_le.2 hq, hst, hp, hno, enabled, enabledFrom]

theorem enabled_within (c q : Nat) (x : Context) (r : QueueRec) (s : State) :
    Within [.port, .mem, .hub, .front, .chest, .jnl] s (enabled c q x r s) := by
  have h : Within [.port, .mem, .hub, .front, .chest, .jnl] s
      (hostWrite (some c) (ctxLoc x.rcd r.completionAddr) (le 8 r.startIndex) (recordRead c q x.rcd s)) :=
    hostWrite_within _ _ _ (recordRead_within c q x.rcd (.refl _ s) (by simp [Covers])) (by simp [Covers])
  exact enabledFrom_within c q r h (by simp [Covers])

theorem enabled_mem (c q : Nat) (x : Context) (r : QueueRec) (s : State) :
    (enabled c q x r s).mem = if hostDropped (ctxLoc x.rcd r.completionAddr) s then s.mem
      else s.mem.write (ctxLoc x.rcd r.completionAddr) (le 8 r.startIndex) := by
  have h := (enabledFrom_within c q r (.refl [.front, .chest, .jnl] (hostWrite (some c) (ctxLoc x.rcd r.completionAddr) (le 8 r.startIndex)
    (recordRead c q x.rcd s))) (.refl _)).same .mem (by decide)
  rw [enabled, h, hostWrite_mem, (recordRead_outOnly c q x.rcd s).hostDropped,
    (recordRead_within c q x.rcd (.refl [.port, .hub, .chest, .jnl] s) (.refl _)).same .mem (by decide)]

theorem enabled_out (hx : tget s.contexts c = some x) (r : QueueRec) :
    (enabled c q x r s).port.out = s.port.out ++
      (if hostStopped (ctxLoc x.rcd (x.rcd.queueTable + q * 64)) s then []
        else readReqs (some x.rcd.tenant) .hub (ctxLoc x.rcd (x.rcd.queueTable + q * 64)) 64) ++
      (if hostDropped (ctxLoc x.rcd r.completionAddr) s then []
        else writeReqs (some x.rcd.tenant) .hub (ctxLoc x.rcd r.completionAddr) (le 8 r.startIndex)) := by
  have h := (enabledFrom_within c q r (.refl [.front, .chest, .jnl] (hostWrite (some c) (ctxLoc x.rcd r.completionAddr) (le 8 r.startIndex)
    (recordRead c q x.rcd s))) (.refl _)).same .port (by decide)
  have hk : ∀ {fp : List Part} {t : State}, Within fp s t → Part.contexts ∉ fp → t.keyOf (some c) = some x.rcd.tenant :=
    fun hw hn => tenantOf_of_ctx ((congrArg (tget · c) (hw.same .contexts hn)).trans hx)
  have hcell : (recordCell c q s).port = s.port := (recordCell_within c q s).same .port (by decide)
  have hstop : ∀ w, hostStopped w (recordCell c q s) = hostStopped w s := fun w => by simp only [hostStopped, hcell]
  rw [enabled, h, hostWrite_out, (recordRead_outOnly c q x.rcd s).hostDropped,
    hk (recordRead_within c q x.rcd (.refl [.port, .hub, .chest, .jnl] s) (.refl _)) (by decide), recordRead_eq, readFor_out, hcell, hstop,
    hk (recordCell_within c q s) (by decide)]

theorem enabledFrom_queue (c q : Nat) (r : QueueRec) (w : State) :
    (enabledFrom c q r w).queue c q = some (Queue.enable r w.now) ∧ OtherQueuesSame (qkey c q) w (enabledFrom c q r w) := by
  have hd : (discardCells 0 (qkey c q) w).front = w.front := (discardCells_within 0 (qkey c q) (.refl [.chest, .jnl] w) (.refl _)).same
    .front (by decide)
  have ho := modQueue_others c q (fun _ => Queue.enable r w.now) (discardCells 0 (qkey c q) w)
  exact ⟨modQueue_queue c q (fun _ => Queue.enable r w.now) _, fun k hk => (ho k hk).trans (by rw [hd])⟩

/-- The queue that has started, every other queue, and the result (R68, R72). -/
theorem enabled_queue (c q : Nat) (x : Context) (r : QueueRec) (s : State) :
    ∃ now, (enabled c q x r s).queue c q = some (Queue.enable r now) ∧ OtherQueuesSame (qkey c q) s (enabled c q x r s) ∧
      (enabled c q x r s).front.qResult = 0 ∧ (enabled c q x r s).front.qBusy = false := by
  have hf : (hostWrite (some c) (ctxLoc x.rcd r.completionAddr) (le 8 r.startIndex) (recordRead c q x.rcd s)).front = s.front := by
    rw [hostWrite_front, (recordRead_within c q x.rcd (.refl [.port, .hub, .chest, .jnl] s) (.refl _)).same .front (by decide)]
  obtain ⟨hq, ho⟩ := enabledFrom_queue c q r (hostWrite (some c) (ctxLoc x.rcd r.completionAddr) (le 8 r.startIndex)
    (recordRead c q x.rcd s))
  exact ⟨_, hq, ho.of_front hf rfl, rfl, rfl⟩

/-! ### SHUTDOWN -/

/-- A queue that shuts, and the work of its commands told to stop (R94). -/
def shutting (k : Nat) (l : Latch) (u : Queue) (s : State) : State :=
  let s := u.fetched.foldl (fun s f => dropItem 1 k f.pos s) (discardCells 0 k s)
  let free := (u.cmds.filter (fun c => c.latch.isNone || c.stopping)).map (·.pos)
  let s := (u.cmds.filter (fun c => c.latch.isNone)).foldl (fun s c => dropCmdCells k c.pos (eOp c.entry) s) s
  dropShadows (stopWork (fun k' pos => k' == k && free.contains pos) (s.modQ k (Queue.shut l s.now)))

theorem shutQueue_eq (hu : tget s.front.queues k = some u) (l : Latch) :
    shutQueue k l s = settleQueue k (settleStops (shutting k l u s)) := by
  simp only [shutQueue, hu]
  rfl

theorem shutting_front (k : Nat) (l : Latch) (u : Queue) (s : State) :
    (shutting k l u s).front = (s.modQ k (Queue.shut l s.now)).front := by
  unfold shutting
  refine (dropShadows_front _).trans ((stopWork_front _ _).trans ?_)
  generalize hw : List.foldl _ _ (u.cmds.filter _) = w
  have hws : Within [.chest, .jnl] s w := by
    rw [← hw]
    exact Within.foldl (fun _ c h => dropCmdCells_within k c.pos (eOp c.entry) h (.refl _)) _
      (Within.foldl (fun _ f h => dropItem_within 1 k f.pos h (.refl _)) _ (discardCells_within 0 k (.refl _ s) (.refl _)))
  have hf : w.front = s.front := hws.same .front (by decide)
  have ht : w.now = s.now := by simp only [State.now, show w.time = s.time from hws.same .time (by decide)]
  simp only [State.modQ, State.modQueues, hf, ht]

/-- Every queue as a shutdown leaves it, but for stops confirmed and the end of the shutdown (R85, R94). -/
theorem shutting_alike (k : Nat) (l : Latch) (u : Queue) (s : State) :
    QueuesAlike (s.modQ k (Queue.shut l s.now)) (settleStops (shutting k l u s)) :=
  settleStops_alike ((QueuesAlike.refl _).front (shutting_front ..))

/-- What a shutdown leaves of a queue: as it shuts, or STOPPED where nothing is left (R94). -/
theorem shutQueue_leaves (hu : tget s.front.queues k = some u) (l : Latch) :
    ∃ v, tget (shutQueue k l s).front.queues k = some v ∧ ((u.shut l s.now).Alike { v with state := .shutting }) ∧
      ((u.shut l s.now).over → v.state = .stopped ∧ (s.front.qBusy = true → s.front.qBusyKey = k →
        (shutQueue k l s).front.qBusy = false ∧ (shutQueue k l s).front.qResult = 0)) ∧
      (¬(u.shut l s.now).over → v.state = .shutting ∧
        ((shutQueue k l s).front.qBusy, (shutQueue k l s).front.qBusyKey) = (s.front.qBusy, s.front.qBusyKey)) ∧
      (∀ k' w, k' ≠ k → tget s.front.queues k' = some w → ∃ w', tget (shutQueue k l s).front.queues k' = some w' ∧ w.Alike w') := by
  rw [shutQueue_eq hu]
  have hal := shutting_alike k l u s
  have hb : ((settleStops (shutting k l u s)).front.qBusy, (settleStops (shutting k l u s)).front.qBusyKey) =
      (s.front.qBusy, s.front.qBusyKey) := (congrArg (fun f : Front => (f.qBusy, f.qBusyKey)) (shutting_front k l u s) :)
  generalize settleStops (shutting k l u s) = t at hal hb
  obtain ⟨v1, hv1, hal1⟩ := hal k (u.shut l s.now) (by rw [State.modQ_tget, if_pos rfl, hu]; rfl)
  obtain ⟨v, hv, hvu, hover, hopen, hother⟩ := settleQueue_leaves hv1
  have hov : v1.over ↔ (u.shut l s.now).over := by
    obtain ⟨g, -, rfl⟩ := hal1
    rfl
  have hvs : { v with state := .shutting } = v1 := by
    obtain ⟨g, -, rfl⟩ := hal1
    rw [hvu]; rfl
  refine ⟨v, hv, hvs ▸ hal1, fun h => ?_, fun h => ?_, fun k' w hk hw => ?_⟩
  · obtain ⟨hs, hq⟩ := hover (hov.2 h)
    exact ⟨hs, fun h1 h2 => hq ((Prod.ext_iff.1 hb).1.trans h1) ((Prod.ext_iff.1 hb).2.trans h2)⟩
  · obtain ⟨hs, hq⟩ := hopen fun h' => h (hov.1 h')
    refine ⟨hs.trans (by rw [← hvs]), ?_⟩
    rw [hq]; exact hb
  · obtain ⟨w', hw', hww⟩ := hal k' w (by rw [State.modQ_tget, if_neg hk]; exact hw)
    exact ⟨w', (hother k' hk).trans hw', hww⟩

/-- A command of a queue that shuts has its latch taken (R94). -/
theorem Queue.shut_cmd {pos : Nat} {m : Cmd} (now : Nat) (hm : u.cmd pos = some m) (l : Latch) :
    ∃ m', (u.shut l now).cmd pos = some m' ∧ m'.latch = some (m.latch.getD l) := by
  refine ⟨{ m.kill l with stopping := (m.kill l).stopping && m.onEngine }, ?_, (Cmd.kill_latch l m).1⟩
  have hpos : ((fun c : Cmd => c.pos == pos) ∘ fun c : Cmd => { c.kill l with stopping := (c.kill l).stopping && c.onEngine }) =
      fun c => c.pos == pos := funext fun c => congrArg (· == pos) (Cmd.kill_latch l c).2
  have hm' : u.cmds.find? (fun c => c.pos == pos) = some m := hm
  rw [Queue.cmd, Queue.shut, List.find?_append, List.find?_map, hpos, hm']
  rfl

/-- A queue that shuts has nothing left where all its positions have retired and been reported (R94). -/
theorem Queue.shut_over {now : Nat} :
    (u.shut l now).over ↔ u.w = u.d ∧ u.unwritten = [] ∧ (u.urgent = false ∨ u.rcd.msixEnable = false) := by
  simp only [Queue.over, Queue.shut, true_and, List.isEmpty_iff, Bool.and_eq_false_iff]

/-- A SHUTDOWN that the register has taken (R69). -/
def shutRequested (k : Nat) (s : State) : State := { s with front := { s.front with qBusy := true, qBusyKey := k } }

theorem queueShutdown_due (ho : cmdOpen s.front.qBusy s = true) (hx : tget s.contexts c = some x) (ha : x.state = .active)
    (hq : q < x.rcd.queueCount) (hu : s.queue c q = some u) (hen : u.enabled = true) :
    queueShutdown c q s = shutQueue (qkey c q) ⟨.aborted, 2⟩ (shutRequested (qkey c q) s) := by
  simp [queueShutdown, ho, hx, ha, Nat.not_le.2 hq, queueAt_of_queue hu, hen, shutRequested]

/-! ### TIMEOUT -/

/-- A queue whose window has passed without a retirement (R92, R93): the window restarts and the oldest command is dealt with. -/
def Queue.expire (now : Nat) (queued : Bool) (u : Queue) : Queue :=
  let v := { u with heldSince := now }
  match u.cmd u.w with
  | some m =>
    if m.latch.isSome then v
    else if m.phase = .dispatched ∧ queued = false then { v with timeouts := satInc 32 u.timeouts }
    else v.modCmd u.w (Cmd.take .timeout u.rcd.timeoutMs)
  | none => v.abortEarly u.w ⟨.timeout, u.rcd.timeoutMs⟩

/-- The window restarts, and the expiry is traced (R93). -/
def windowRestarted (c q : Nat) (u : Queue) (s : State) : State :=
  trace 13 0 c q u.w (s.modQ (qkey c q) (fun x => { x with heldSince := s.now }))

/-- A queue changed in a state that has the front of another. -/
theorem queue_of_modQ {f : Queue → Queue} (hu : s.queue c q = some u) (hf : t.front = (s.modQ (qkey c q) f).front) :
    t.queue c q = some (f u) ∧ OtherQueuesSame (qkey c q) s t := by
  refine ⟨?_, fun k hk => ?_⟩
  · rw [State.queue, hf, ← State.queue, State.modQ_queue, hu]; rfl
  · rw [hf, State.modQ_tget, if_neg hk]

theorem windowRestarted_queue (hu : s.queue c q = some u) :
    (windowRestarted c q u s).queue c q = some { u with heldSince := s.now } ∧ OtherQueuesSame (qkey c q) s (windowRestarted c q u s) :=
  queue_of_modQ hu (trace_front ..)

/-- Whether a command waits in a mailbox or for its test does not depend on the window (R430, R453). -/
theorem windowRestarted_queuedTest (hu : s.queue c q = some u) (pos : Nat) :
    queuedTest (qkey c q) pos (windowRestarted c q u s) = queuedTest (qkey c q) pos s := by
  have hc : (windowRestarted c q u s).cmd (qkey c q) pos = s.cmd (qkey c q) pos := by
    have h := (windowRestarted_queue hu).1
    rw [State.queue] at h hu
    rw [State.cmd, State.cmd, h, hu]; rfl
  have hw : Within [.front, .jnl] s (windowRestarted c q u s) :=
    trace_within _ _ _ _ _ (State.modQ_within _ _ (.refl _ s) (by simp [Covers])) (by simp [Covers])
  have hp := hw.same .power (by decide)
  have hm := hw.same .mgmt (by decide)
  have hr := hw.same .wrd (by decide)
  simp only [Part.same] at hp hm hr
  simp only [queuedTest, queuedBankTest, inMailbox3, hc, hp, hm, hr]

section
variable (hu : s.queue c q = some u) (hen : u.enabled = true) (hlt : u.w < u.d)
  (hwin : u.rcd.timeoutMs * Config.ms ≤ s.now - u.heldSince) (hprog : u.progress = u.sample)
include hu hen hlt hwin hprog

/-- A timeout whose window has passed, by the state of the oldest command (R92, R93). -/
theorem queueTimeout_command {m : Cmd} (hm : u.cmd u.w = some m) :
    queueTimeout c q s =
      if m.latch.isSome then windowRestarted c q u s
      else if m.phase = .dispatched ∧ queuedTest (qkey c q) u.w (windowRestarted c q u s) = false then
        (windowRestarted c q u s).modQ (qkey c q) (fun x => { x with timeouts := satInc 32 x.timeouts })
      else dropShadows (stopWork (fun k' pos => k' == qkey c q && pos == u.w)
        (takeLatch (qkey c q) u.w .timeout u.rcd.timeoutMs (windowRestarted c q u s))) := by
  simp only [queueTimeout, windowRestarted, hu, hm, hen, hlt, hwin, hprog, decide_true, Bool.and_self, beq_self_eq_true, if_true]
  rfl

theorem queueTimeout_early (hm : u.cmd u.w = none) :
    queueTimeout c q s = dropItem 1 (qkey c q) u.w (dropItem 0 (qkey c q) u.w
      ((windowRestarted c q u s).modQ (qkey c q) (fun x => x.abortEarly x.w ⟨.timeout, u.rcd.timeoutMs⟩))) := by
  simp only [queueTimeout, windowRestarted, hu, hm, hen, hlt, hwin, hprog, decide_true, Bool.and_self, beq_self_eq_true, if_true]
  rfl

theorem queueTimeout_queue :
    (queueTimeout c q s).queue c q = some (u.expire s.now (queuedTest (qkey c q) u.w s)) ∧
    OtherQueuesSame (qkey c q) s (queueTimeout c q s) := by
  obtain ⟨hr, hro⟩ := windowRestarted_queue hu
  have hmod : ∀ {f : Queue → Queue} {t : State}, t.front = ((windowRestarted c q u s).modQ (qkey c q) f).front →
      t.queue c q = some (f { u with heldSince := s.now }) ∧ OtherQueuesSame (qkey c q) s t := fun hf => by
    obtain ⟨h, ho⟩ := queue_of_modQ hr hf
    exact ⟨h, fun k hk => (ho k hk).trans (hro k hk)⟩
  unfold Queue.expire
  split
  · next m hm =>
    rw [queueTimeout_command hu hen hlt hwin hprog hm, windowRestarted_queuedTest hu]
    split
    · exact ⟨hr, hro⟩
    · split
      · exact hmod rfl
      · exact hmod ((dropShadows_front _).trans ((stopWork_front _ _).trans (dropCmdCells_front ..)))
  · next hm =>
    rw [queueTimeout_early hu hen hlt hwin hprog hm]
    exact hmod ((dropItem_front ..).trans (dropItem_front ..))

theorem queueTimeout_quiet : Quiet s (queueTimeout c q s) := by
  have hr : Quiet s (windowRestarted c q u s) := trace_quiet _ _ _ _ _ (modQ_quiet _ _ (.refl s))
  cases hm : u.cmd u.w with
  | some m =>
    rw [queueTimeout_command hu hen hlt hwin hprog hm]
    split
    · exact hr
    · split
      · exact modQ_quiet _ _ hr
      · exact Quiet.within (stopWork_quiet _ (dropCmdCells_quiet _ _ _ (modC_quiet _ _ _ hr))) (dropShadows_within (.refl _ _) (.refl _))
  | none =>
    rw [queueTimeout_early hu hen hlt hwin hprog hm]
    exact dropItem_quiet _ _ _ (dropItem_quiet _ _ _ (modQ_quiet _ _ hr))

end

theorem Queue.abortEarly_keeps (p : Nat) (l : Latch) (u : Queue) :
    (u.abortEarly p l).heldSince = u.heldSince ∧ (u.abortEarly p l).w = u.w ∧ (u.abortEarly p l).d = u.d := by
  unfold Queue.abortEarly
  split
  · exact ⟨rfl, rfl, rfl⟩
  · exact ⟨rfl, rfl, rfl⟩

theorem Queue.expire_keeps (now : Nat) (b : Bool) (u : Queue) :
    (u.expire now b).heldSince = now ∧ (u.expire now b).w = u.w ∧ (u.expire now b).d = u.d := by
  unfold Queue.expire
  split
  · split
    · exact ⟨rfl, rfl, rfl⟩
    · split
      · exact ⟨rfl, rfl, rfl⟩
      · exact ⟨rfl, rfl, rfl⟩
  · exact Queue.abortEarly_keeps _ _ _

/-- A position that was not handed over retires with the latch it has from now on (R92). -/
theorem Queue.expire_fetched {now : Nat} {b : Bool} (hc : u.cmd u.w = none) :
    ∃ f ∈ (u.expire now b).fetched, f.pos = u.w ∧ f.latch.isSome = true := by
  simp only [Queue.expire, hc, Queue.abortEarly]
  split
  · next h =>
    obtain ⟨f, hf, hp⟩ := List.any_eq_true.1 h
    refine ⟨_, List.mem_map.2 ⟨f, hf, rfl⟩, ?_⟩
    have hp' : f.pos = u.w := by simpa using hp
    cases hl : f.latch with
    | none => simp [hp']
    | some l => simp [hp', hl]
  · next h =>
    have hno : ∀ g ∈ u.fetched, g.pos ≠ u.w := fun g hg hp => h (List.any_eq_true.2 ⟨g, hg, by simpa using hp⟩)
    exact ⟨_, mem_putFetched_self hno, rfl, rfl⟩

/-- The oldest command whose latch is requested (R92). -/
theorem Queue.expire_taken {now : Nat} {b : Bool} {m : Cmd} (hc : u.cmd u.w = some m) (hl : m.latch = none)
    (hq : ¬(m.phase = .dispatched ∧ b = false)) : (u.expire now b).cmd u.w = some (m.take .timeout u.rcd.timeoutMs) := by
  simp only [Queue.expire, hc, hl, hq, Option.isSome_none, Bool.false_eq_true, if_false]
  rw [Queue.modCmd_cmd _ _ _ _ (Cmd.take_pos _ _), if_pos rfl]
  exact congrArg _ hc

/-- Settles O4: ENABLE by the bytes and requests it makes, SHUTDOWN by the queue that shuts and what settles after it, TIMEOUT by the oldest
command. -/
theorem queuesStartAndStop : Obligations.QueuesStartAndStop := by
  unfold Obligations.QueuesStartAndStop
  refine ⟨fun c q b r x s ho hok hx ha hq hst hp hv => ?_, fun c q x u s ho hx ha hq hu hen => ?_,
    fun c q u s hu hen hlt hwin hprog => ?_⟩
  · have hexec : Machine.exec (.queueEnable c q (.ok b) .ok) s = .next (enabled c q x r s) :=
      congrArg Host.Outcome.next (queueEnable_legal ho hx ha hq hst hp hv)
    obtain ⟨hword, hother⟩ := hostWrite_word hok (enabled_mem c q x r s)
    obtain ⟨v, hqueue, hqs, hres, hbusy⟩ := enabled_queue c q x r s
    exact ⟨_, _, hexec, hqueue, rfl, rfl, rfl, rfl, rfl, rfl, rfl, rfl, rfl, rfl, rfl, rfl, rfl, rfl, rfl, rfl, rfl, rfl, hqs, hres, hbusy,
      hword, hother, enabled_out hx r, (enabled_within c q x r s).onlyIn⟩
  · obtain ⟨v, hv, hal, hover, hopen, hother⟩ := shutQueue_leaves (s := shutRequested (qkey c q) s) hu ⟨.aborted, 2⟩
    have hexec : Machine.exec (.queueShutdown c q) s = .next _ := congrArg Host.Outcome.next (queueShutdown_due ho hx ha hq hu hen)
    rw [Queue.shut_over] at hover hopen
    obtain ⟨g, hg, hvg⟩ := hal
    have hvu := fun {α : Type} (f : Queue → α) => congrArg f hvg
    refine ⟨_, v, hexec, hv, hvu Queue.d, hvu Queue.f, hvu Queue.w, hvu Queue.inflight, hvu Queue.fetched, hvu Queue.shutLatch,
      hvu Queue.unwritten, fun pos m hm => ?_, fun hw hun hurg => ?_, fun h => ?_, fun k w hk hw => ?_, onlyIn_of_exec hexec⟩
    · obtain ⟨m', hm', hl'⟩ := Queue.shut_cmd (shutRequested (qkey c q) s).now hm ⟨.aborted, 2⟩
      obtain ⟨m'', hm'', hl'', -⟩ := Queue.Alike.cmd_some ⟨g, hg, hvg⟩ hm'
      rw [show v.cmd pos = some m'' from hm'', Option.map_some, hl'', hl']
    · obtain ⟨hst, hb⟩ := hover ⟨hw, hun, hurg⟩
      exact ⟨hst, hb rfl rfl⟩
    · have hno : ¬(u.w = u.d ∧ u.unwritten = [] ∧ (u.urgent = false ∨ u.rcd.msixEnable = false)) := by
        rintro ⟨hw, hun, hurg⟩
        rcases h with h | h | ⟨h, h'⟩
        · exact h hw
        · exact h hun
        · simp [h, h'] at hurg
      obtain ⟨hst, hb⟩ := hopen hno
      exact ⟨hst, Prod.ext_iff.1 hb⟩
    · obtain ⟨w', hw', g', -, rfl⟩ := hother k w hk hw
      exact ⟨_, hw', rfl, rfl, rfl, rfl⟩
  · have hexec : Machine.exec (.queueTimeout c q) s = .next (queueTimeout c q s) := rfl
    obtain ⟨hqueue, hqs⟩ := queueTimeout_queue hu hen hlt hwin hprog
    obtain ⟨hheld, hw, hd⟩ := Queue.expire_keeps s.now (queuedTest (qkey c q) u.w s) u
    refine ⟨_, _, hexec, hqueue, hheld, hw, hd, fun k => (queueTimeout_quiet hu hen hlt hwin hprog).ctx_facts k, hqs, fun m hm => ?_,
      fun hc => Queue.expire_fetched hc, onlyIn_of_exec hexec⟩
    refine ⟨fun l hl => ?_, fun hl hph hqt => ?_, fun hl hph hqt => ?_, fun hl hph => ?_⟩
    · simp [Queue.expire, hm, hl]
    · simp [Queue.expire, hm, hl, hph, hqt]
    · rw [Queue.expire_taken hm hl (by simp [hqt])]
      simp [Cmd.take, hl, hph]
    · rw [Queue.expire_taken hm hl (by simp [hph])]
      simp [Cmd.take, hl, hph]

end Sys2Proof.Machine
end

section
/-! SUPPORT. What releases and signals do to the commands of other queues: they meet waits, and no more (R56, R119, R122). -/

namespace Sys2Proof.Machine

variable {s0 s : State}

theorem QueuesAlike.ite {c : Prop} [Decidable c] {a b : State} (ha : QueuesAlike s0 a) (hb : QueuesAlike s0 b) :
    QueuesAlike s0 (if c then a else b) := by
  split
  · exact ha
  · exact hb

theorem fenceRise_alike (c : Option Nat) (l : Loc) (b : Bool) (v : Nat) (h : QueuesAlike s0 s) :
    QueuesAlike s0 (fenceRise c l b v s) := by
  unfold fenceRise
  exact (h.front (by rw [locWrite_front])).mapCmds (g := fun _ => Cmd.meet l b v) fun _ _ => ⟨rfl, rfl, rfl⟩

theorem signalFence_alike (c tag : Nat) (r : FenceRef) (h : QueuesAlike s0 s) : QueuesAlike s0 (signalFence c tag r s) := by
  unfold signalFence
  dsimp only
  split
  · exact (fenceRise_alike _ _ _ _ h).front (trace_front ..)
  · exact h
  · exact h.front (raiseEvent_front ..)

theorem signalOut_alike (c k pos tag : Nat) (r : FenceRef) (h : QueuesAlike s0 s) : QueuesAlike s0 (signalOut c k pos tag r s) := by
  unfold signalOut
  exact .ite ((signalFence_alike c tag r h).front rfl) (signalFence_alike c tag r h)

theorem releaseOne_alike (key : Nat) (h : QueuesAlike s0 s) : QueuesAlike s0 (releaseOne key s) := by
  unfold releaseOne
  split
  · exact h
  · next o _ =>
    have hw : ∀ t : State, t.front = s.front → QueuesAlike s0 (match tget t.contexts (key / 2 ^ 20) with
        | some x => hostWrite (some (key / 2 ^ 20)) ((entryLoc x.rcd (key % 2 ^ 20)).plus 2) [0] t
        | none => t) := fun t ht => by
      split
      · exact h.front ((hostWrite_front ..).trans ht)
      · exact h.front ht
    dsimp only
    split
    · exact signalOut_alike _ _ _ _ _ (hw { s with objects := tdel s.objects key } rfl)
    · exact hw { s with objects := tdel s.objects key } rfl

theorem dropRefMem_alike (key : Nat) (h : QueuesAlike s0 s) : QueuesAlike s0 (dropRefMem key s) := by
  unfold dropRefMem releaseIfIdle
  dsimp only
  split
  · split
    · exact releaseOne_alike key (h.front rfl)
    · exact h.front rfl
  · exact h.front rfl

theorem freeVersions_alike (key : Nat) (h : QueuesAlike s0 s) : QueuesAlike s0 (freeVersions key s) := by
  unfold freeVersions
  split
  · exact h
  · exact QueuesAlike.foldl (fun _ v h => dropRefMem_alike v.imageKey h) _ (h.front rfl)

theorem releaseObj_alike (key : Nat) (h : QueuesAlike s0 s) : QueuesAlike s0 (releaseObj key s) := by
  unfold releaseObj
  split
  · split
    · exact releaseOne_alike key (freeVersions_alike key h)
    · exact h
  · exact h

theorem unpin_alike (key : Nat) (h : QueuesAlike s0 s) : QueuesAlike s0 (unpin key s) := releaseObj_alike key (h.front rfl)

theorem unref_alike (key : Nat) (h : QueuesAlike s0 s) : QueuesAlike s0 (unref key s) := releaseObj_alike key (h.front rfl)

theorem unpinAll_alike (keys : List Nat) (h : QueuesAlike s0 s) : QueuesAlike s0 (unpinAll keys s) :=
  QueuesAlike.foldl (fun _ k h => unpin_alike k h) keys h

theorem unbind_alike (g ver : Nat) (h : QueuesAlike s0 s) : QueuesAlike s0 (unbind g ver s) := by
  unfold unbind
  split
  · exact h
  · dsimp only
    split
    · exact dropRefMem_alike _ (h.front rfl)
    · exact h.front rfl

theorem removeModel_alike (id : Nat) (h : QueuesAlike s0 s) : QueuesAlike s0 (removeModel id s) := by
  unfold removeModel
  split
  · exact h
  · next m _ =>
    refine unref_alike _ (h.front ?_)
    exact (freeFrames_within _ (Within.wrd (stopJobs_within _ (.refl [.wrd] s) (by simp [Covers])) (by simp [Covers]) _)
      (by simp [Covers])).same .front (by decide)

theorem reapModel_alike (id : Nat) (h : QueuesAlike s0 s) : QueuesAlike s0 (reapModel id s) := by
  unfold reapModel
  split
  · exact h
  · exact .ite (removeModel_alike id h) h

theorem reapModels_alike (h : QueuesAlike s0 s) : QueuesAlike s0 (reapModels s) :=
  QueuesAlike.foldl (fun _ e h => reapModel_alike e.1 h) _ h

end Sys2Proof.Machine
end

section
/-! SUPPORT and O7. Retirement (R85, R86, R94): the queue of the command that retires, and its signal. -/

namespace Sys2Proof.Machine

variable {c q k : Nat} {l : Latch} {m : Cmd} {u v : Queue} {s s0 t : State}

/-! ### The steps of a retirement -/

/-- The record of a command that retires (R88). -/
def Cmd.retired (m : Cmd) (l : Latch) (now : Nat) : Retired :=
  { pos := m.pos, opcode := if m.entry.isEmpty then 0xFF else eOp m.entry, tag := if m.entry.isEmpty then 0 else eTag m.entry,
    unread := m.entry.isEmpty, status := l.status, aux := l.aux, time := now, lost := false }

/-- Before its result writes a command's cells are free and its late reads charged (R302, R328). -/
def cellsFreed (c q : Nat) (m : Cmd) (s : State) : State :=
  dropCmdCells (qkey c q) m.pos (eOp m.entry) (dropItem 0 (qkey c q) m.pos (charge (some c) 2 (lateBytes c m s) s))

/-- The result writes and signals of a command (R85). -/
def signalled (c q : Nat) (m : Cmd) (l : Latch) (s : State) : State :=
  let t := m.results.foldl (fun s r => locWrite (some c) r.loc r.data s) (cellsFreed c q m s)
  if l.status = .ok then
    m.signals.foldl (fun s r => signalOut c (qkey c q) m.pos (if m.entry.isEmpty then 0 else eTag m.entry) r s) t
  else t

/-- The report of a command waits, and what it held is given back (R54, R85, R302). -/
def givenBack (c q : Nat) (m : Cmd) (r : Retired) (s : State) : State :=
  let s := takeOrWait (itemReq 3 (qkey c q) (s.tenantOf c) m.pos 1 (some r.bytes)) (s.modQ (qkey c q) (Queue.retire r s.now))
  let s := unpinAll m.pins s
  let s := match m.bound with
    | some (g, v) => unbind g v s
    | none => s
  reapModels (dropShadows (trace 4 (if m.entry.isEmpty then 0 else eTag m.entry) c q m.pos s))

/-- A run's residency comes to its boundary (R262). -/
def ranOut (c : Nat) (res : Option (Nat × Residency)) (s : State) : State :=
  match res with
  | some (id, _) => if s.isActive c then graphBoundary id s else s
  | none => s

theorem retireCmd_eq (c q : Nat) (m : Cmd) (l : Latch) (s : State) :
    retireCmd c q m l s = settleQueue (qkey c q) (ranOut c
      ((signalled c q m l s).sched.residencies.find? (fun e => e.2.cmd == some (qkey c q, m.pos)))
      (givenBack c q m (m.retired l (signalled c q m l s).now) (signalled c q m l s))) := rfl

/-! ### The queues -/

theorem cellsFreed_within (c q : Nat) (m : Cmd) (s : State) : Within [.hub, .chest, .jnl] s (cellsFreed c q m s) :=
  dropCmdCells_within _ _ _ (dropItem_within _ _ _ (charge_within _ _ _ (.refl _ s) (by simp [Covers])) (by simp [Covers])) (by simp [Covers])

theorem signalled_within (c q : Nat) (m : Cmd) (l : Latch) (s : State) :
    Within [.port, .mem, .hub, .front, .bramble, .chest, .jnl] s (signalled c q m l s) := by
  have hc : Within [.port, .mem, .hub, .front, .bramble, .chest, .jnl] s (cellsFreed c q m s) :=
    dropCmdCells_within _ _ _ (dropItem_within _ _ _ (charge_within _ _ _ (.refl _ s) (by simp [Covers])) (by simp [Covers]))
      (by simp [Covers])
  have h := Within.foldl (fun _ (r : ResultWrite) h => locWrite_within (some c) r.loc r.data h (by simp [Covers])) m.results hc
  unfold signalled
  exact Within.ite (fun _ => Within.foldl (fun _ r h => signalOut_within _ _ _ _ r h (.refl _)) _ h) fun _ => h

theorem signalled_alike (c q : Nat) (m : Cmd) (l : Latch) (s : State) : QueuesAlike s (signalled c q m l s) := by
  have h : QueuesAlike s (m.results.foldl (fun s r => locWrite (some c) r.loc r.data s) (cellsFreed c q m s)) :=
    QueuesAlike.foldl (fun _ r h => h.front (locWrite_front ..)) _ ((QueuesAlike.refl s).within (cellsFreed_within c q m s))
  unfold signalled
  exact .ite (QueuesAlike.foldl (fun _ r h => signalOut_alike _ _ _ _ r h) _ h) h

theorem givenBack_alike (c q : Nat) (m : Cmd) (r : Retired) (s : State) :
    QueuesAlike (s.modQ (qkey c q) (Queue.retire r s.now)) (givenBack c q m r s) := by
  have h := unpinAll_alike m.pins ((QueuesAlike.refl (s.modQ (qkey c q) (Queue.retire r s.now))).within
    (takeOrWait_within (itemReq 3 (qkey c q) (s.tenantOf c) m.pos 1 (some r.bytes)) (.refl _ _) (.refl _)))
  unfold givenBack
  refine reapModels_alike (QueuesAlike.front ?_ ((dropShadows_front _).trans (trace_front ..)))
  split
  · exact unbind_alike _ _ h
  · exact h

theorem ranOut_front (c : Nat) (res : Option (Nat × Residency)) (s : State) : (ranOut c res s).front = s.front := by
  unfold ranOut
  split
  · split
    · exact (graphBoundary_within _ (.refl _ s) (.refl _)).same .front (by decide)
    · rfl
  · rfl

theorem Queue.retire_cmd (r : Retired) (now : Nat) (u : Queue) : (u.retire r now).cmd r.pos = none :=
  List.find?_eq_none.2 fun m hm => by simpa using (List.mem_filter.1 hm).2

/-- What a retirement leaves of the queues (R85, R86): its own with W one more and the report waiting, the command gone. -/
theorem retireCmd_leaves (hu : s.queue c q = some u) (m : Cmd) (l : Latch) :
    ∃ v, (retireCmd c q m l s).queue c q = some v ∧ v = { u.retire (m.retired l s.now) s.now with cmds := v.cmds } ∧ v.cmd m.pos = none ∧
      (∀ k w, k ≠ qkey c q → tget s.front.queues k = some w → ∃ w', tget (retireCmd c q m l s).front.queues k = some w' ∧ w.Alike w') := by
  rw [retireCmd_eq]
  have hsa := signalled_alike c q m l s
  have hnow : (signalled c q m l s).now = s.now := by
    simp only [State.now, show (signalled c q m l s).time = s.time from (signalled_within c q m l s).same .time (by decide)]
  rw [hnow]
  generalize (signalled c q m l s).sched.residencies.find? _ = res
  generalize signalled c q m l s = t at hsa hnow
  have hga := givenBack_alike c q m (m.retired l s.now) t
  rw [hnow] at hga
  have hrf := ranOut_front c res (givenBack c q m (m.retired l s.now) t)
  generalize ranOut c res (givenBack c q m (m.retired l s.now) t) = y at hrf
  obtain ⟨u', hu', gu, -, rfl⟩ := hsa _ u hu
  obtain ⟨v, hv, hal⟩ := hga.front hrf (qkey c q) _ (by rw [State.modQ_tget, if_pos rfl, hu']; rfl)
  have hopen : ¬v.over := by
    obtain ⟨g, -, rfl⟩ := hal
    simp [Queue.over, Queue.retire]
  rw [settleQueue_open hv hopen]
  refine ⟨v, hv, ?_, hal.cmd_none (Queue.retire_cmd (m.retired l s.now) s.now _), fun k w hk hw => ?_⟩
  · obtain ⟨g, -, rfl⟩ := hal
    rfl
  · obtain ⟨w1, hw1, h1⟩ := hsa k w hw
    obtain ⟨w2, hw2, h2⟩ := hga.front hrf k w1 (by rw [State.modQ_tget, if_neg hk]; exact hw1)
    exact ⟨w2, hw2, h1.trans h2⟩

/-! ### The memory -/

theorem signalOut_mem (c k pos tag : Nat) (r : FenceRef) (s : State) : (signalOut c k pos tag r s).mem = (signalFence c tag r s).mem := by
  have h : signalOut c k pos tag r s = noteThrough k pos tag (signalFence c tag r s) ∨ signalOut c k pos tag r s = signalFence c tag r s :=
    ite_eq_or_eq _ _ _
  rcases h with h | h
  · rw [h]; rfl
  · rw [h]

/-- A fence that rises has its value in memory (R119). -/
theorem signalFence_mem_rise {r : FenceRef} (c tag : Nat) (he : signalEffect r.compact (s.fenceValue r.loc r.compact) r.value = .rise) :
    (signalFence c tag r s).mem =
      if r.loc.space = .host ∧ hostDropped r.loc s = true then s.mem else s.mem.write r.loc (le (fenceBytes r.compact) r.value) := by
  simp only [signalFence, he, trace_mem]
  exact locWrite_mem (some c) r.loc (le (fenceBytes r.compact) r.value) _

/-- A fence that does not rise keeps memory (R119, R123). -/
theorem signalFence_mem_still {r : FenceRef} (c tag : Nat) (he : signalEffect r.compact (s.fenceValue r.loc r.compact) r.value ≠ .rise) :
    (signalFence c tag r s).mem = s.mem := by
  unfold signalFence
  dsimp only
  split
  · next h => exact absurd h he
  · rfl
  · exact raiseEvent_mem ..

/-- The write-through of a fence in host memory that rises is outstanding (R119). -/
theorem signalOut_through {c k pos tag : Nat} {r : FenceRef} (he : signalEffect r.compact (s.fenceValue r.loc r.compact) r.value = .rise)
    (hsp : r.loc.space = .host) (hd : hostDropped r.loc s = false) :
    (signalOut c k pos tag r s).bramble.through = s.bramble.through ++ [(k, pos, tag)] := by
  have hf : (signalFence c tag r s).bramble.through = s.bramble.through := by
    simp only [signalFence, he, trace_bramble, fenceRise, State.modQueues, locWrite_bramble]
  simp only [signalOut, he, hsp, hd, beq_self_eq_true, Bool.not_false, Bool.and_self, if_true, noteThrough, hf]

/-- What a command that holds nothing gives back: its cells alone (R85, R302). -/
theorem givenBack_bare (hpins : m.pins = []) (hbound : m.bound = none) (hmodels : s.wrd.models = []) (r : Retired) :
    (givenBack c q m r s).mem = s.mem ∧ (givenBack c q m r s).bramble.through = s.bramble.through := by
  have hz : Within [.front, .chest, .jnl] s (trace 4 (if m.entry.isEmpty then 0 else eTag m.entry) c q m.pos
      (takeOrWait (itemReq 3 (qkey c q) (s.tenantOf c) m.pos 1 (some r.bytes)) (s.modQ (qkey c q) (Queue.retire r s.now)))) :=
    trace_within _ _ _ _ _ (takeOrWait_within _ (State.modQ_within _ _ (.refl _ s) (by simp [Covers])) (by simp [Covers])) (by simp [Covers])
  unfold givenBack
  simp only [hpins, hbound, unpinAll, List.foldl_nil]
  generalize trace 4 _ c q m.pos _ = z at hz
  have hzm : (dropShadows z).wrd.models = [] := (congrArg Wardrobe.models (hz.same .wrd (by decide))).trans hmodels
  rw [reapModels, hzm]
  exact ⟨hz.same .mem (by decide), (congrArg Bramble.through (hz.same .bramble (by decide)) :)⟩

section
variable (hpins : m.pins = []) (hbound : m.bound = none) (hmodels : s.wrd.models = [])
  (hres : ∀ e ∈ s.sched.residencies, e.2.cmd ≠ some (qkey c q, m.pos))
include hpins hbound hmodels hres

/-- The memory and the write-throughs after the retirement of a command that holds nothing are those that its signals leave (R85). -/
theorem retireCmd_bare (l : Latch) :
    (retireCmd c q m l s).mem = (signalled c q m l s).mem ∧
    (retireCmd c q m l s).bramble.through = (signalled c q m l s).bramble.through := by
  have hs := signalled_within c q m l s
  have hm : (signalled c q m l s).wrd.models = [] := by
    rw [show (signalled c q m l s).wrd = s.wrd from hs.same .wrd (by decide), hmodels]
  have hr : (signalled c q m l s).sched.residencies.find? (fun e => e.2.cmd == some (qkey c q, m.pos)) = none := by
    rw [show (signalled c q m l s).sched = s.sched from hs.same .sched (by decide)]
    exact List.find?_eq_none.2 fun e he => by simpa using hres e he
  rw [retireCmd_eq, hr]
  generalize signalled c q m l s = t at hm
  have hset := settleQueue_within (qkey c q) (.refl _ (ranOut c none (givenBack c q m (m.retired l t.now) t))) (.refl [.front])
  have hgiven := givenBack_bare (c := c) (q := q) hpins hbound hm (m.retired l t.now)
  exact ⟨(hset.same .mem (by decide)).trans hgiven.1, (congrArg Bramble.through (hset.same .bramble (by decide))).trans hgiven.2⟩

end

theorem signalled_still (hres : m.results = []) (hl : l.status ≠ .ok) : (signalled c q m l s).mem = s.mem := by
  simp only [signalled, if_neg hl, hres, List.foldl_nil]
  exact (cellsFreed_within c q m s).same .mem (by decide)

/-- The fence of a command's one signal is as before when the signal comes. -/
theorem cellsFreed_fence (c q : Nat) (m : Cmd) (s : State) (w : Loc) (b : Bool) :
    (cellsFreed c q m s).fenceValue w b = s.fenceValue w b ∧ hostDropped w (cellsFreed c q m s) = hostDropped w s := by
  have h := cellsFreed_within c q m s
  have hb : (cellsFreed c q m s).bramble = s.bramble := h.same .bramble (by decide)
  have hm : (cellsFreed c q m s).mem = s.mem := h.same .mem (by decide)
  have hp : (cellsFreed c q m s).port = s.port := h.same .port (by decide)
  exact ⟨by simp only [State.fenceValue, State.shadow, memRead, hb, hm], by simp only [hostDropped, hp]⟩

theorem signalled_once {r : FenceRef} (hres : m.results = []) (hl : l.status = .ok) (hsig : m.signals = [r]) :
    signalled c q m l s = signalOut c (qkey c q) m.pos (if m.entry.isEmpty then 0 else eTag m.entry) r (cellsFreed c q m s) := by
  unfold signalled
  simp only [if_pos hl, hres, hsig, List.foldl_cons, List.foldl_nil]

/-! ### The oldest command -/

section
variable (hu : s.queue c q = some u) (hst : u.state ≠ .stopped) (hlt : u.w < u.d)
include hu hst hlt

theorem commandRetire_command (hm : u.cmd u.w = some m) (hl : m.latch = some l) :
    commandRetire c q s = if m.stopping || replayOpen (qkey c q) u.w s then s else retireCmd c q m l s := by
  simp [commandRetire, hu, hst, Nat.not_le.2 hlt, hm, hl]

theorem commandRetire_fetched {f : Fetched} (hm : u.cmd u.w = none)
    (hf : u.fetched.find? (fun g => g.pos == u.w && g.latch.isSome) = some f) (hl : f.latch = some l) :
    commandRetire c q s = retireCmd c q (Cmd.fresh f) l
      (s.modQ (qkey c q) (fun x => { x with fetched := x.fetched.filter (fun g => g.pos != f.pos) })) := by
  simp [commandRetire, hu, hst, Nat.not_le.2 hlt, hm, hf, hl]

omit hst in
theorem commandRetire_unread (hm : u.cmd u.w = none) (hf : ∀ f ∈ u.fetched, f.pos ≠ u.w) (hsh : u.state = .shutting) :
    commandRetire c q s =
      retireCmd c q (Cmd.fresh { pos := u.w, entry := [], latch := some u.shutLatch, ring := false }) u.shutLatch s := by
  have hn : u.fetched.find? (fun g => g.pos == u.w && g.latch.isSome) = none :=
    List.find?_eq_none.2 fun g hg => by simp [hf g hg]
  simp [commandRetire, hu, Nat.not_le.2 hlt, hm, hn, hsh]

end

/-- Settles O7: the queue by what a retirement leaves of it, the memory by the one signal. -/
theorem commandsRetireAndSignal : Obligations.CommandsRetireAndSignal := by
  unfold Obligations.CommandsRetireAndSignal
  refine ⟨fun c q u s hu hst hlt => ⟨fun m l hm hl hwait => ?_, fun m l hm hl hstop hrep hpos => ?_, fun f l hm hf hl => ?_,
    fun hm hf hsh => ?_⟩, fun c q u m l s hok hu hst hlt hm hl hstop hrep hpins hres hbound hmodels hnores => ?_⟩
  · exact congrArg Host.Outcome.next ((commandRetire_command hu hst hlt hm hl).trans (if_pos (by simpa using hwait)))
  · have hexec : Machine.exec (.commandRetire c q) s = .next (retireCmd c q m l s) :=
      congrArg Host.Outcome.next ((commandRetire_command hu hst hlt hm hl).trans (if_neg (by simp [hstop, hrep])))
    obtain ⟨v, hv, hvu, hgone, hother⟩ := retireCmd_leaves hu m l
    refine ⟨_, v, hexec, hv, ?_, ?_, ?_, ?_, hpos ▸ hgone, ?_, ?_, fun k w hk hw => ?_, onlyIn_of_exec hexec⟩
    · rw [hvu]; rfl
    · rw [hvu]; rfl
    · rw [hvu]; rfl
    · rw [hvu]; rfl
    · rw [hvu, ← hpos]; rfl
    · rw [hvu]; rfl
    · obtain ⟨w', hw', g, -, rfl⟩ := hother k w hk hw
      exact ⟨_, hw', rfl, rfl, rfl, rfl⟩
  · have hexec : Machine.exec (.commandRetire c q) s = .next _ := congrArg Host.Outcome.next (commandRetire_fetched hu hst hlt hm hf hl)
    have hpos : f.pos = u.w := by
      have h := List.find?_some hf
      simp only [Bool.and_eq_true, beq_iff_eq] at h
      exact h.1
    obtain ⟨v, hv, hvu, -, -⟩ := retireCmd_leaves (s := s.modQ (qkey c q) (fun x => { x with fetched := x.fetched.filter (fun g => g.pos != f.pos) }))
      (by rw [State.modQ_queue, hu]; rfl) (Cmd.fresh f) l
    refine ⟨_, v, hexec, hv, ?_, ?_, ?_, ?_⟩
    · rw [hvu]; rfl
    · rw [hvu]; rfl
    · rw [hvu, ← hpos]; rfl
    · rw [hvu, ← hpos]; rfl
  · have hexec : Machine.exec (.commandRetire c q) s = .next _ := congrArg Host.Outcome.next (commandRetire_unread hu hlt hm hf hsh)
    obtain ⟨v, hv, hvu, -, -⟩ := retireCmd_leaves hu (Cmd.fresh { pos := u.w, entry := [], latch := some u.shutLatch, ring := false }) u.shutLatch
    refine ⟨_, v, hexec, hv, ?_, ?_, ?_⟩
    · rw [hvu]; rfl
    · rw [hvu]; rfl
    · rw [hvu]; rfl
  · have hexec : Machine.exec (.commandRetire c q) s = .next (retireCmd c q m l s) :=
      congrArg Host.Outcome.next ((commandRetire_command hu hst hlt hm hl).trans (if_neg (by simp [hstop, hrep])))
    obtain ⟨hmem, hthrough⟩ := retireCmd_bare (c := c) (q := q) hpins hbound hmodels hnores l
    have hpos : m.pos = u.w := by simpa using List.find?_some hm
    refine ⟨_, hexec, fun hno => hmem.trans (signalled_still hres hno), fun r hok' hsig => ?_⟩
    obtain ⟨hfence, hdrop⟩ := cellsFreed_fence c q m s r.loc r.compact
    have hw := cellsFreed_within c q m s
    have hwm : (cellsFreed c q m s).mem = s.mem := hw.same .mem (by decide)
    rw [signalled_once hres hok' hsig] at hmem hthrough
    rw [signalOut_mem] at hmem
    rw [← hfence, ← hdrop]
    refine ⟨fun he => hmem.trans ((signalFence_mem_still c _ he).trans hwm), fun he => ⟨fun hsp hd => ?_, fun hd => ?_⟩⟩
    · rw [hthrough, signalOut_through he hsp hd, hpos, show (cellsFreed c q m s).bramble = s.bramble from hw.same .bramble (by decide)]
    · have hlen : (le (fenceBytes r.compact) r.value).length = fenceBytes r.compact := le_length ..
      have hno : ¬(r.loc.space = .host ∧ hostDropped r.loc (cellsFreed c q m s) = true) := fun h =>
        hd.elim (fun h' => h' h.1) fun h' => by simp [h'] at h
      rw [signalFence_mem_rise c _ he, if_neg hno, hwm] at hmem
      refine ⟨?_, fun k hk => memRead_write_other r.loc _ hmem k (by rw [hlen]; exact hk)⟩
      have := memRead_write r.loc _ hok hmem
      rwa [hlen] at this

end Sys2Proof.Machine
end

section
/-! SUPPORT. Faults that end commands and contexts (R36, R100, R177): a latch once taken stays, whatever stops afterwards. -/

namespace Sys2Proof.Machine

variable {k pos c : Nat} {l : Latch} {m : Cmd} {u v : Queue} {s0 s t : State}

/-! ### Latches that have been taken -/

/-- Every command with its latch taken is there with that latch. -/
def LatchesKept (s t : State) : Prop :=
  ∀ k pos m l, s.cmd k pos = some m → m.latch = some l → (t.cmd k pos).map (·.latch) = some (some l)

theorem LatchesKept.refl (s : State) : LatchesKept s s := fun _ _ _ _ hm hl => by rw [hm, Option.map_some, hl]

theorem LatchesKept.trans (h : LatchesKept s0 s) (h' : LatchesKept s t) : LatchesKept s0 t := fun k pos m l hm hl => by
  obtain ⟨m', hm', hl'⟩ := Option.map_eq_some_iff.1 (h k pos m l hm hl)
  exact h' k pos m' l hm' hl'

theorem LatchesKept.front (h : LatchesKept s0 s) (hf : t.front = s.front) : LatchesKept s0 t := fun k pos m l hm hl => by
  rw [State.cmd, hf]
  exact h k pos m l hm hl

/-- A shutdown takes free latches alone (R94). -/
theorem shutQueue_latches (k : Nat) (l : Latch) (s : State) : LatchesKept s (shutQueue k l s) := by
  intro k' pos m l' hm hl
  obtain ⟨u, hu, hc⟩ := Option.bind_eq_some_iff.1 hm
  cases hk : tget s.front.queues k with
  | none => rw [shutQueue, hk]; exact LatchesKept.refl s k' pos m l' hm hl
  | some w =>
    obtain ⟨v, hv, hal, -, -, hother⟩ := shutQueue_leaves hk l
    by_cases hkk : k' = k
    · subst hkk
      obtain rfl : w = u := Option.some.inj (hk.symm.trans hu)
      obtain ⟨m1, hm1, hl1⟩ := Queue.shut_cmd s.now hc l
      obtain ⟨m2, hm2, hl2, -⟩ := hal.cmd_some hm1
      rw [State.cmd, hv, Option.bind_some, show v.cmd pos = some m2 from hm2, Option.map_some, hl2, hl1, hl]
      rfl
    · obtain ⟨w', hw', hww⟩ := hother k' u hkk hu
      obtain ⟨m2, hm2, hl2, -⟩ := hww.cmd_some hc
      rw [State.cmd, hw', Option.bind_some, hm2, Option.map_some, hl2, hl]

theorem oweMsix_cmd (mine : Nat → Bool) (s : State) (k pos : Nat) : (oweMsix mine s).cmd k pos = s.cmd k pos := by
  simp only [State.cmd, oweMsix, State.modQueues, tget_tmapv]
  cases tget s.front.queues k with
  | none => rfl
  | some u =>
    simp only [Option.map_some, Option.bind_some]
    split
    · rfl
    · rfl

theorem shutAll_latches (l : Latch) (qs : Tab Queue) (h : LatchesKept s0 s) : LatchesKept s0 (shutAll l qs s) := by
  induction qs generalizing s with
  | nil => exact h
  | cons a qs ih =>
    refine ih (s := if a.2.enabled then shutQueue a.1 l s else s) ?_
    split
    · exact h.trans (shutQueue_latches _ _ _)
    · exact h

theorem stopContext_fault (c : Nat) (l : Latch) (s : State) :
    stopContext c true l s = stopRest c (shutAll l (ctxQueues c (oweMsix (fun k => k / 256 == c) (forgetReleases c s)))
      (oweMsix (fun k => k / 256 == c) (forgetReleases c s))) := rfl

/-- A fault teardown takes free latches alone (R37, R96). -/
theorem beginTeardown_latches (c : Nat) (info : FaultInfo) (hr : Option (Nat × List Byte)) (s : State) :
    LatchesKept s (beginTeardown c true info hr s) := by
  unfold beginTeardown
  split
  · exact .refl s
  · next x _ =>
    split
    · exact .refl s
    · have hm : (markTeardown c true info hr x s).front = s.front :=
        (markTeardown_within c true info hr x (.refl [.port, .mem, .contexts, .watch, .hutch] s) (.refl _)).same .front (by decide)
      rw [stopContext_fault]
      refine LatchesKept.front (shutAll_latches _ _ ?_) (stopRest_front c _)
      intro k pos m l hc hl
      rw [oweMsix_cmd, State.cmd, show (forgetReleases c (markTeardown c true info hr x s)).front = s.front from hm]
      exact LatchesKept.refl s k pos m l hc hl

/-! ### Faults of commands -/

theorem FaultTeardownBegun.of_now {why : FaultInfo → Prop} (h : FaultTeardownBegun c s t why) (hn : s.now = s0.now) :
    FaultTeardownBegun c s0 t why := by
  obtain ⟨x, i, hx, hst, hat, hi⟩ := h
  exact ⟨x, i, hx, hst, hat.trans hn, hi⟩

theorem modC_cmd_self {f : Cmd → Cmd} (hf : ∀ c, (f c).pos = c.pos) (hm : s.cmd k pos = some m) : (s.modC k pos f).cmd k pos = some (f m) := by
  rw [State.modC_cmd _ _ _ _ _ _ hf, if_pos ⟨rfl, rfl⟩, hm]; rfl

/-- The latch of a command that faults, its own where it was free (R84, R100). -/
theorem faultLatch_taken {st : Status} {aux : Nat} (hm : s.cmd k pos = some m) (hl : m.latch = none) :
    ∃ m', (faultLatch k pos st aux s).cmd k pos = some m' ∧ m'.latch = some ⟨st, aux⟩ := by
  refine ⟨{ m.take st aux with stopping := m.running && m.onEngine }, ?_, (Cmd.take_latch st aux m).1.trans (by rw [hl]; rfl)⟩
  rw [State.cmd, faultLatch, dropCmdCells_front]
  exact modC_cmd_self (fun a => Cmd.take_pos st aux a) hm

/-- A command with a free latch that faults takes it, and its context is torn down (R100). -/
theorem faultCmd_faulted {info : FaultInfo} {why : FaultInfo → Prop} (hlive : CmdLive k pos s) (hr : Option (Nat × List Byte))
    (hwhy : ∀ tag n, why { info with queue := k % 256, seq := pos + 1, tag := tag, hutchSeq := n }) :
    CmdFaulted k pos info.status info.aux s (faultCmd k pos info hr s) ∧ FaultTeardownBegun (k / 256) s (faultCmd k pos info hr s) why := by
  obtain ⟨m, x, hm, hl, hx, ha⟩ := hlive
  have he : faultCmd k pos info hr s =
      beginTeardown (k / 256) true { info with queue := k % 256, seq := pos + 1, tag := eTag m.entry } hr
        (faultLatch k pos info.status info.aux s) := by
    simp only [faultCmd, hm, hl]
  have hw := faultLatch_within k pos info.status info.aux (.refl [.front, .chest, .jnl] s) (.refl _)
  have hx' : tget (faultLatch k pos info.status info.aux s).contexts (k / 256) = some x := by
    rw [hw.same .contexts (by decide)]; exact hx
  have hn : (faultLatch k pos info.status info.aux s).now = s.now := by
    simp only [State.now, show (faultLatch k pos info.status info.aux s).time = s.time from hw.same .time (by decide)]
  obtain ⟨m', hm', hl'⟩ := faultLatch_taken (st := info.status) (aux := info.aux) hm hl
  rw [he]
  exact ⟨⟨beginTeardown_latches _ _ _ _ k pos m' _ hm' hl', (beginTeardown_fault hx' ha ⟨rfl, rfl, rfl, rfl⟩).of_now hn⟩,
    (beginTeardown_fault hx' ha (hwhy _ _)).of_now hn⟩

end Sys2Proof.Machine
end

section
/-! SUPPORT. Streams of a slice (R138, R173): what a change of one leaves, and what stop requests leave. -/

namespace Sys2Proof.Machine

variable {p st : Nat} {l : Launch} {s : State}

theorem sliceAt_modSlice (p p' : Nat) (f : Slice → Slice) (s : State) :
    sliceAt p' (s.modSlice p f) = if p' = p then f (sliceAt p s) else sliceAt p' s := by
  split
  · next h => subst h; simp [sliceAt, State.modSlice, tmod, tgetD, tget_tset_self]
  · next h => simp [sliceAt, State.modSlice, tmod, tgetD, tget_tset_ne _ _ h]

theorem streamAt_modStream (p st p' st' : Nat) (f : Stream → Stream) (s : State) :
    streamAt p' st' (s.modStream p st f) =
      if p' = p ∧ st' = st ∧ st < (sliceAt p s).streams.length then f (streamAt p st s) else streamAt p' st' s := by
  rw [streamAt, State.modStream, sliceAt_modSlice]
  by_cases hp : p' = p
  · subst hp
    rw [if_pos rfl]
    simp only [List.getElem?_modify, true_and]
    by_cases hs : st' = st
    · subst hs
      by_cases hlt : st' < (sliceAt p' s).streams.length
      · simp [hlt, streamAt]
      · simp [hlt, streamAt]
    · rw [if_neg fun h => hs h.1]
      simp [Ne.symm hs, streamAt]
  · rw [if_neg hp, if_neg fun h => hp h.1]; rfl

/-- A stream with a launch is one of a slice that is listed. -/
theorem launch_listed (hl : (streamAt p st s).launch = some l) :
    ∃ y, tget s.slices p = some y ∧ y.streams[st]? = some (streamAt p st s) := by
  cases hy : tget s.slices p with
  | none =>
    have hr : ∀ st : Nat, ((Slice.reset.streams[st]?).getD Stream.reset).launch = none := fun st => by
      cases hg : Slice.reset.streams[st]? with
      | none => rfl
      | some x =>
        obtain rfl := List.eq_of_mem_replicate (List.mem_of_getElem? hg)
        rfl
    rw [streamAt, sliceAt, tgetD, hy, Option.getD_none, hr] at hl
    cases hl
  | some y =>
    refine ⟨y, rfl, ?_⟩
    rw [streamAt, sliceAt, tgetD, hy, Option.getD_some] at hl ⊢
    cases hg : y.streams[st]? with
    | none => rw [hg] at hl; cases hl
    | some x => rfl

theorem launch_inRange (hl : (streamAt p st s).launch = some l) : st < (sliceAt p s).streams.length := by
  obtain ⟨y, hy, hg⟩ := launch_listed hl
  rw [sliceAt, tgetD, hy, Option.getD_some]
  exact (List.getElem?_eq_some_iff.1 hg).1

/-- A stream with a launch is among the streams of that launch. -/
theorem mem_streamsOf {t : Launch → Bool} (hl : (streamAt p st s).launch = some l) (ht : t l = true) : (p, st) ∈ streamsOf t s := by
  obtain ⟨y, hy, hg⟩ := launch_listed hl
  refine List.mem_flatten.2 ⟨_, List.mem_map.2 ⟨(p, y), mem_of_tget hy, rfl⟩, ?_⟩
  refine List.mem_filterMap.2 ⟨(streamAt p st s, st), ?_, by simp only [hl, ht, if_true]⟩
  exact List.mk_mem_zipIdx_iff_getElem?.2 hg

/-! ### Stop requests -/

/-- A stream with a launch that may have been sent a stop request in the meantime. -/
def StopSent (x y : Stream) : Prop := y = x ∨ y = { x with stopSent := true }

theorem requestStop_stream (a b : Nat) (s : State) : StopSent (streamAt p st s) (streamAt p st (requestStop a b s)) := by
  unfold requestStop
  dsimp only
  split
  · show StopSent _ (streamAt p st (s.modStream a b fun x => { x with stopSent := true }))
    rw [streamAt_modStream]
    split
    · next h => obtain ⟨rfl, rfl, -⟩ := h; exact .inr rfl
    · exact .inl rfl
  · exact .inl rfl

theorem requestStop_sent (hl : (streamAt p st s).launch = some l) (hh : (streamAt p st s).state ≠ .halted) :
    streamAt p st (requestStop p st s) = { streamAt p st s with stopSent := true } := by
  unfold requestStop
  dsimp only
  split
  · show streamAt p st (s.modStream p st fun x => { x with stopSent := true }) = _
    rw [streamAt_modStream, if_pos ⟨rfl, rfl, launch_inRange hl⟩]
  · next h =>
    have hs : (streamAt p st s).stopSent = true := by
      cases hs : (streamAt p st s).stopSent with
      | true => rfl
      | false => exact absurd (by simp [hl, hs, hh]) h
    rw [← hs]

/-- Every stream that stop requests go to, with a launch and not halted, has been sent one (R173). -/
theorem requestStops_sent {es : List (Nat × Nat)} (hl : (streamAt p st s).launch = some l) (hh : (streamAt p st s).state ≠ .halted)
    (hin : (p, st) ∈ es ∨ (streamAt p st s).stopSent = true) :
    streamAt p st (requestStops es s) = { streamAt p st s with stopSent := true } := by
  induction es generalizing s with
  | nil =>
    have hs := hin.resolve_left List.not_mem_nil
    show streamAt p st s = _
    rw [← hs]
  | cons e es ih =>
    have hsent := requestStop_stream (p := p) (st := st) e.1 e.2 s
    have hkeep : (streamAt p st (requestStop e.1 e.2 s)).launch = some l ∧ (streamAt p st (requestStop e.1 e.2 s)).state ≠ .halted := by
      rcases hsent with h | h
      · rw [h]; exact ⟨hl, hh⟩
      · rw [h]; exact ⟨hl, hh⟩
    refine (ih hkeep.1 hkeep.2 ?_).trans ?_
    · rcases hin with hin | hin
      · rcases List.mem_cons.1 hin with rfl | hin
        · right; rw [requestStop_sent hl hh]
        · exact .inl hin
      · right
        rcases hsent with h | h
        · rw [h]; exact hin
        · rw [h]
    · rcases hsent with h | h
      · rw [h]
      · rw [h]

end Sys2Proof.Machine
end

section
/-! SUPPORT. The order of a compute reset (R361, R366): the hub is not ready from then on, so no decision pass runs while commands stop. -/

namespace Sys2Proof.Machine

variable {k : Nat} {w : Watch} {s s0 t : State}

theorem passAt_watch (here : Option Nat) (hr : w.hubReady = false) (h : s.watch = w) : (passAt here s).watch = w := by
  unfold passAt
  rw [h, hr, Bool.not_false, if_pos rfl]
  exact ((updateGvt_within (.refl [.sched] s) (.refl _)).same .watch (by decide)).trans h

theorem dropJobs_watch (f : Job → Bool) (hr : w.hubReady = false) (h : s.watch = w) : (dropJobs f s).watch = w := by
  unfold dropJobs
  split
  · exact h
  · exact passAt_watch none hr (((Within.foldl (fun _ e h => dropJob_within e.1 h (.refl _)) _ (.refl [.hub, .sched] s)).same
      .watch (by decide)).trans h)

theorem stopWork_watch (f : Nat → Nat → Bool) (hr : w.hubReady = false) (h : s.watch = w) : (stopWork f s).watch = w := by
  unfold stopWork
  exact dropJobs_watch (s := { requestStops _ (stopJobs _ s) with link := _ }) _ hr
    (((requestStops_within _ (.refl [.port, .slices] (stopJobs _ s)) (.refl _)).same .watch (by decide)).trans h)

theorem settleQueue_watch (k : Nat) (h : s.watch = w) : (settleQueue k s).watch = w :=
  ((settleQueue_within k (.refl [.front] s) (.refl _)).same .watch (by decide)).trans h

theorem dropShadows_watch (s : State) : (dropShadows s).watch = s.watch := rfl

theorem settleStops_watch (s : State) : (settleStops s).watch = s.watch := rfl

theorem shutting_watch (k : Nat) (l : Latch) (u : Queue) (hr : w.hubReady = false) (h : s.watch = w) : (shutting k l u s).watch = w := by
  unfold shutting
  refine (dropShadows_watch _).trans (stopWork_watch _ hr ((State.modQ_watch ..).trans ?_))
  generalize hz : List.foldl _ _ (u.cmds.filter _) = z
  have hzs : Within [.chest, .jnl] s z := by
    rw [← hz]
    exact Within.foldl (fun _ c h => dropCmdCells_within k c.pos (eOp c.entry) h (.refl _)) _
      (Within.foldl (fun _ f h => dropItem_within 1 k f.pos h (.refl _)) _ (discardCells_within 0 k (.refl _ s) (.refl _)))
  exact (hzs.same .watch (by decide)).trans h

theorem shutQueue_watch (k : Nat) (l : Latch) (hr : w.hubReady = false) (h : s.watch = w) : (shutQueue k l s).watch = w := by
  cases hu : tget s.front.queues k with
  | none => rw [shutQueue, hu]; exact h
  | some u =>
    rw [shutQueue_eq hu]
    exact settleQueue_watch k ((settleStops_watch _).trans (shutting_watch k l u hr h))

theorem shutAll_watch (l : Latch) (qs : Tab Queue) (hr : w.hubReady = false) (h : s.watch = w) : (shutAll l qs s).watch = w := by
  induction qs generalizing s with
  | nil => exact h
  | cons a qs ih =>
    refine ih (s := if a.2.enabled then shutQueue a.1 l s else s) ?_
    split
    · exact shutQueue_watch _ _ hr h
    · exact h

theorem shutAll_quiet (l : Latch) (qs : Tab Queue) (h : Quiet s0 s) : Quiet s0 (shutAll l qs s) := by
  refine Quiet.foldl (fun s e h => ?_) qs h
  split
  · exact shutQueue_quiet _ _ h
  · exact h

/-! ### The order, step by step -/

/-- A test of a partition loses its answer, the stages of partitions end, and the hub is not ready (R361). -/
def resetMarked (s : State) : State :=
  let s := if s.watch.stages.any (fun x => x.stage == 2 && x.byCmd)
    then { s with watch := { s.watch with rstBusy := false, rstResult := 3 } } else s
  { s with watch := { s.watch with stages := s.watch.stages.filter (fun x => x.stage != 2),
                                   hubReady := false, computeResets := satInc 16 s.watch.computeResets } }

/-- The record, the dump and the notification of a compute reset (R366). -/
def resetRecorded (cause : Nat) (flr : Bool) (s : State) : State :=
  let s := stageRec 3 0 cause (nextDump s) 0 0 0xFF s
  let s := notify (writeDump (dump3 s) s)
  let s := { s with chest := { s.chest with hfpPause := false } }
  if flr then { s with port := { s.port with dropAll := true } } else s

/-- A context that a compute reset takes down (R358, R366). -/
def Context.resetDown (now : Nat) (x : Context) : Context :=
  if x.state = .active then
    { x with state := .teardown true, teardownAt := now, cause := some { FaultInfo.of .partitionReset 0x3FF now with flags := 4, stage := 3 } }
  else { x with cause := x.cause.map FaultInfo.reset3 }

/-- Every context that is ACTIVE is torn down by a compute reset (R366). -/
def resetContexts (s : State) : State := { s with contexts := tmapv s.contexts (fun _ x => x.resetDown s.now) }

/-- Releases are forgotten, and the commands that run on a partition take their latches with it (R37, R366). -/
def resetKilled (s : State) : State :=
  let s := s.contexts.foldl (fun s e => forgetReleases e.1 s) s
  let runs := s.allCmds.filterMap (fun e => (runsOn e.1 e.2.pos s).map (fun p => (e.1, e.2.pos, p)))
  runs.foldl (fun s r => s.modC r.1 r.2.1 (Cmd.kill { status := .partitionReset, aux := 0x300 + r.2.2 })) s

/-- Every stream and transfer is told to stop (R85, R366). -/
def resetQuiesced (s : State) : State :=
  settleStops (stopJobs (fun k => k.target.isEmpty) (requestStops (streamsOf (fun _ => true) s) s))

/-- Every queue shuts, for a message that it owes (R96, R366). -/
def resetShut (s : State) : State :=
  shutAll { status := .contextLost, aux := 0x0F } (oweMsix (fun _ => true) s).front.queues (oweMsix (fun _ => true) s)

/-- Every command's latch is taken and all its work told to stop (R366). -/
def resetStopped (s : State) : State := resetQuiesced (resetShut (resetKilled s))

theorem orderStage3_eq (cause : Nat) (byCmd flr : Bool) (hn : NoReset s) :
    orderStage3 cause byCmd flr s =
      let t := resetStopped (resetContexts (resetRecorded cause flr (resetMarked s)))
      trace 14 0 0xFFFF 0 3 (addStage (Stage.mk0 3 0 cause t.now (nextDump (resetMarked s)) byCmd flr false) t) := by
  have hno : ¬(s.watch.stages.any (fun x => x.stage == 3 || x.stage == 4)) = true := by
    simpa using fun g hg => hn g hg
  rw [orderStage3, if_neg hno]
  rfl

theorem resetMarked_watch (s : State) (hn : NoReset s) :
    (∀ g ∈ (resetMarked s).watch.stages, g.stage ≠ 3) ∧ (resetMarked s).watch.hubReady = false ∧
    (resetMarked s).watch.computeResets = satInc 16 s.watch.computeResets := by
  unfold resetMarked
  dsimp only
  split
  · exact ⟨fun g hg => (hn g (List.mem_filter.1 hg).1).1, rfl, rfl⟩
  · exact ⟨fun g hg => (hn g (List.mem_filter.1 hg).1).1, rfl, rfl⟩

theorem resetMarked_within (s : State) : Within [.watch] s (resetMarked s) := by
  unfold resetMarked
  dsimp only
  split
  · exact Within.watch (.refl _ s) (.refl _) _
  · exact Within.watch (.refl _ s) (.refl _) _

theorem resetRecorded_within (cause : Nat) (flr : Bool) (s : State) : Within [.port, .mem, .hutch, .chest] s (resetRecorded cause flr s) := by
  have h : Within [.port, .mem, .hutch, .chest] s (notify (writeDump (dump3 (stageRec 3 0 cause (nextDump s) 0 0 0xFF s))
      (stageRec 3 0 cause (nextDump s) 0 0 0xFF s))) :=
    notify_within (writeDump_within _ (stageRec_within _ _ _ _ _ _ _ (.refl _ s) (by simp [Covers])) (by simp [Covers])) (by simp [Covers])
  unfold resetRecorded
  exact Within.ite (fun _ => Within.port (Within.chest h (by simp [Covers]) _) (by simp [Covers]) _) fun _ => Within.chest h (by simp [Covers]) _

theorem resetKilled_within (s : State) : Within [.objects, .front] s (resetKilled s) := by
  unfold resetKilled
  exact Within.foldl (fun _ r h => State.modC_within r.1 r.2.1 _ h (by simp [Covers])) _
    (Within.foldl (fun _ e h => forgetReleases_within e.1 h (by simp [Covers])) _ (.refl _ s))

theorem resetKilled_quiet (s : State) : Quiet s (resetKilled s) := by
  unfold resetKilled
  exact Quiet.foldl (fun _ r h => modC_quiet r.1 r.2.1 _ h) _ (Quiet.foldl (fun _ e h => forgetReleases_quiet e.1 h) _ (.refl s))

theorem resetQuiesced_within (s : State) : Within [.port, .front, .slices, .wrd] s (resetQuiesced s) :=
  settleStops_within (stopJobs_within _ (requestStops_within _ (.refl _ s) (by simp [Covers])) (by simp [Covers])) (by simp [Covers])

theorem resetStopped_quiet (s : State) : Quiet s (resetStopped s) :=
  settleStops_quiet (stopJobs_quiet _ (requestStops_quiet _ (shutAll_quiet _ _ (oweMsix_quiet _ (resetKilled_quiet s)))))

theorem resetShut_watch (hr : s.watch.hubReady = false) : (resetShut s).watch = s.watch :=
  shutAll_watch _ _ hr ((oweMsix_within _ (.refl [.front] s) (.refl _)).same .watch (by decide))

theorem resetStopped_watch (hr : s.watch.hubReady = false) : (resetStopped s).watch = s.watch := by
  have hk : (resetKilled s).watch = s.watch := (resetKilled_within s).same .watch (by decide)
  exact ((resetQuiesced_within _).same .watch (by decide)).trans ((resetShut_watch (hk ▸ hr)).trans hk)

/-- A compute reset that is ordered while none is in progress (R361, R366). -/
theorem orderStage3_begun (cause : Nat) (byCmd flr : Bool) (hn : NoReset s) : ComputeResetBegun cause s (orderStage3 cause byCmd flr s) := by
  rw [orderStage3_eq cause byCmd flr hn]
  obtain ⟨hstages, hready, hresets⟩ := resetMarked_watch s hn
  have hmark := resetMarked_within s
  have hrec := resetRecorded_within cause flr (resetMarked s)
  have hctx : (resetRecorded cause flr (resetMarked s)).contexts = s.contexts :=
    (hrec.same .contexts (by decide)).trans (hmark.same .contexts (by decide))
  have htime : (resetRecorded cause flr (resetMarked s)).time = s.time := (hrec.same .time (by decide)).trans (hmark.same .time (by decide))
  have hwatch : (resetContexts (resetRecorded cause flr (resetMarked s))).watch = (resetMarked s).watch := hrec.same .watch (by decide)
  have hw := (resetStopped_watch (hwatch ▸ hready)).trans hwatch
  have hq := resetStopped_quiet (resetContexts (resetRecorded cause flr (resetMarked s)))
  have hnow : (resetStopped (resetContexts (resetRecorded cause flr (resetMarked s)))).now = s.now :=
    congrArg BitVec.toNat (hq.time.trans htime)
  dsimp only
  generalize resetStopped (resetContexts (resetRecorded cause flr (resetMarked s))) = t at hw hq hnow
  refine ⟨⟨Stage.mk0 3 0 cause t.now (nextDump (resetMarked s)) byCmd flr false, ?_, rfl, hnow, rfl⟩, ?_, ?_, fun c x hx ha => ?_⟩
  · rw [stageOf, trace_watch]
    have hnone : t.watch.stages.find? (fun x => x.stage == 3 && x.unit == 0) = none :=
      List.find?_eq_none.2 fun g hg => by simp [hstages g (hw ▸ hg)]
    rw [addStage, List.find?_append, hnone]
    rfl
  · rw [trace_watch, addStage, hw]; exact hready
  · rw [trace_watch, addStage, hw]; exact hresets
  · rw [trace_contexts]
    have hx' : tget (resetContexts (resetRecorded cause flr (resetMarked s))).contexts c =
        some (x.resetDown (resetRecorded cause flr (resetMarked s)).now) := by
      rw [resetContexts, tget_tmapv, hctx, hx]; rfl
    obtain ⟨y, hy, hb⟩ := hq.ctx_some hx'
    have hst : y.state = (x.resetDown (resetRecorded cause flr (resetMarked s)).now).state := (congrArg Context.state hb :)
    rw [addStage, hy, Option.map_some, hst, Context.resetDown, if_pos ha]

end Sys2Proof.Machine
end

section
/-! SUPPORT and O39. Watch's samples and flags (R95, R353 to R355). -/

namespace Sys2Proof.Machine

variable {p st c q i k pos : Nat} {l : Launch} {x : Stream} {s : State}

/-! ### Samples -/

theorem Queue.sampled_eq (now : Nat) (u : Queue) :
    u.sampled now = if u.enabled = true ∧ u.w < u.d ∧ u.progress = u.sample then { u with sampleWas := u.sample }
      else { u with sampleWas := u.sample, sample := u.progress, heldSince := now } := by
  have he : ({ u with sampleWas := u.sample } : Queue).enabled = u.enabled := rfl
  simp only [Queue.sampled, he, Bool.and_eq_true, decide_eq_true_eq, beq_iff_eq, and_assoc]

theorem Stream.sampled_eq (now : Nat) (x : Stream) :
    x.sampled now = if x.active = true ∧ x.progress = x.sample then x
      else { x with sample := x.progress, heldSince := now, flagged := x.flagged && decide (x.progress = x.sample) } := by
  simp only [Stream.sampled, Bool.and_eq_true, beq_iff_eq]
  rfl

theorem Mover.sampled_eq (now : Nat) (m : Mover) :
    m.sampled now = if m.jobs ≠ [] ∧ m.progress = m.sample then m else { m with sample := m.progress, heldSince := now, flagged := none } := by
  simp only [Mover.sampled, Bool.and_eq_true, beq_iff_eq, Bool.not_eq_true', List.isEmpty_eq_false_iff]

theorem Core.sampled_eq (now : Nat) (c : Core) :
    c.sampled now = if c.state = .running ∧ c.progress = c.sample then c else { c with sample := c.progress, heldSince := now } := by
  simp only [Core.sampled, Bool.and_eq_true, beq_iff_eq]

theorem watchSample_stream {y : Slice} (hy : tget s.slices p = some y) (hx : y.streams[st]? = some x) :
    streamAt p st (watchSample s) = x.sampled s.now := by
  have h : tget (watchSample s).slices p = some { y with streams := y.streams.map (Stream.sampled s.now) } := by
    rw [watchSample, tget_tmapv, hy]; rfl
  rw [streamAt, sliceAt, tgetD, h, Option.getD_some, List.getElem?_map, hx]
  rfl

/-! ### Streams -/

theorem streamFlagged_iff (x : Stream) (l : Launch) (s : State) :
    streamFlagged x l s = true ↔ x.active = true ∧ x.flagged = false ∧ x.progress = x.sample ∧ l.windowUs * 100 ≤ s.now - x.heldSince := by
  simp only [streamFlagged, Bool.and_eq_true, decide_eq_true_eq, beq_iff_eq, Bool.not_eq_true', and_assoc]
  rfl

theorem reflag_stream (hl : (streamAt p st s).launch = some l) (l' : Launch) :
    streamAt p st (reflag p st l' s) = { streamAt p st s with flagged := true } := by
  rw [streamAt, sliceAt, reflag, trace_slices]
  exact (streamAt_modStream p st p st _ s).trans (if_pos ⟨rfl, rfl, launch_inRange hl⟩)

/-! ### Faults of streams -/

theorem FaultInfo.ofStream_keeps (f : FaultInfo) (p st : Nat) (x : Stream) (s : State) :
    (f.ofStream p st x s).status = f.status ∧ (f.ofStream p st x s).aux = f.aux ∧ (f.ofStream p st x s).partition = p ∧
      (f.ofStream p st x s).stream = st := by
  unfold FaultInfo.ofStream
  split
  · exact ⟨rfl, rfl, rfl, rfl⟩
  · dsimp only
    split
    · exact ⟨rfl, rfl, rfl, rfl⟩
    · exact ⟨rfl, rfl, rfl, rfl⟩

/-- A fault of a stream ends what its launch runs (R100, R177). -/
theorem faultStream_faulted {info : FaultInfo} {why : FaultInfo → Prop} (hl : (streamAt p st s).launch = some l)
    (hr : Option (Nat × List Byte)) (hwhy : ∀ f : FaultInfo, f.partition = info.partition → f.stream = info.stream → why f) :
    RunFaulted l info.status info.aux why s (faultStream p st info hr s) := by
  refine ⟨fun k pos hc hlive => ?_, fun x hc hx ha => ?_⟩
  · have he : faultStream p st info hr s = faultCmd k pos info hr s := by simp only [faultStream, hl, hc]
    rw [he]
    exact faultCmd_faulted hlive hr fun _ _ => hwhy _ rfl rfl
  · have he : faultStream p st info hr s = beginTeardown l.ctx true info hr s := by simp only [faultStream, hl, hc]
    rw [he]
    exact beginTeardown_fault hx ha ⟨rfl, rfl, hwhy _ rfl rfl⟩

/-- A fault counts from a state with the same commands, contexts and time. -/
theorem RunFaulted.of_front {status : Status} {aux : Nat} {why : FaultInfo → Prop} {s0 t : State} (h : RunFaulted l status aux why s t)
    (hf : s.front = s0.front) (hc : s.contexts = s0.contexts) (hn : s.now = s0.now) : RunFaulted l status aux why s0 t := by
  obtain ⟨hcmd, hloop⟩ := h
  refine ⟨fun k pos hl hlive => ?_, fun x hl hx ha => (hloop x hl (by rw [hc]; exact hx) ha).of_now hn⟩
  obtain ⟨⟨hlatch, hctx⟩, hwhy⟩ := hcmd k pos hl (by rw [CmdLive, State.cmd, hf, hc]; exact hlive)
  exact ⟨⟨hlatch, hctx.of_now hn⟩, hwhy.of_now hn⟩

/-! ### Streams that hang (R354) -/

section
variable (hl : (streamAt p st s).launch = some l)
include hl

theorem streamHang_due (hf : streamFlagged (streamAt p st s) l s = true) (hp : peerWait (streamAt p st s) (launchImage l s) = none) :
    streamHang p st s = faultStream p st
      (FaultInfo.ofStream (FaultInfo.of .hang (2 ^ 28 + l.windowUs % 2 ^ 26) s.now) p st (streamAt p st s) s)
      (some (0x03, hangPayload 1 p st 0xFF l.windowUs (streamAt p st s).progress (streamAt p st s).sample (streamAt p st s).sample
        (streamAt p st s).advanced)) (reflag p st l s) := by
  simp [streamHang, hl, hf, hp]

theorem streamHang_not (h : streamFlagged (streamAt p st s) l s = false ∨ peerWait (streamAt p st s) (launchImage l s) ≠ none) :
    streamHang p st s = s := by
  have : ¬(streamFlagged (streamAt p st s) l s && (peerWait (streamAt p st s) (launchImage l s)).isNone) = true := by
    rcases h with h | h
    · simp [h]
    · simp [Option.isNone_iff_eq_none, h]
  simp only [streamHang, hl, if_neg this]

theorem streamHang_faulted (hf : streamFlagged (streamAt p st s) l s = true)
    (hp : peerWait (streamAt p st s) (launchImage l s) = none) :
    RunFaulted l .hang (2 ^ 28 + l.windowUs % 2 ^ 26) (fun i => i.partition = p ∧ i.stream = st) s (streamHang p st s) := by
  rw [streamHang_due hl hf hp]
  have hw := reflag_within p st l (.refl [.slices, .jnl] s) (.refl _)
  obtain ⟨hstatus, haux, hpart, hstream⟩ := FaultInfo.ofStream_keeps (FaultInfo.of .hang (2 ^ 28 + l.windowUs % 2 ^ 26) s.now) p st
    (streamAt p st s) s
  have h := faultStream_faulted (p := p) (st := st) (s := reflag p st l s) (l := l) (why := fun i => i.partition = p ∧ i.stream = st)
    (info := FaultInfo.ofStream (FaultInfo.of .hang (2 ^ 28 + l.windowUs % 2 ^ 26) s.now) p st (streamAt p st s) s)
    (by rw [reflag_stream hl]; exact hl)
    (some (0x03, hangPayload 1 p st 0xFF l.windowUs (streamAt p st s).progress (streamAt p st s).sample (streamAt p st s).sample
      (streamAt p st s).advanced)) fun f h1 h2 => ⟨h1.trans hpart, h2.trans hstream⟩
  rw [hstatus, haux] at h
  exact h.of_front (hw.same .front (by decide)) (hw.same .contexts (by decide))
    (congrArg BitVec.toNat (hw.same .time (by decide)))

/-! ### Peer waits (R355) -/

theorem peerWaitTimeout_not (h : streamFlagged (streamAt p st s) l s = false ∨ peerWait (streamAt p st s) (launchImage l s) = none) :
    peerWaitTimeout p st s = s := by
  have : (if streamFlagged (streamAt p st s) l s then peerWait (streamAt p st s) (launchImage l s) else none) = none := by
    rcases h with h | h
    · rw [if_neg (by simp [h])]
    · rw [h, ite_self]
  simp only [peerWaitTimeout, hl, this]

end

/-- What a peer wait reports: the place, the peer, the command and the window (R355, R487). -/
def peerWords (p st : Nat) (c : SideCmd) (l : Launch) : List Nat :=
  [2 + p * 2 ^ 8 + st * 2 ^ 16, bits c.aux2 39 24, c.aux2 % 2 ^ 24, l.windowUs]

/-- A peer wait through its window is flagged and its event raised (R355). -/
def peerReported (p st : Nat) (c : SideCmd) (l : Launch) (s : State) : State :=
  raiseEvent (ctxEvent s evPeerTimeout l.ctx l.tag (peerWords p st c l)) (reflag p st l s)

/-- A run that waits for its peer takes its latch, and its context goes on (R355). -/
def peerLatched (p st k pos : Nat) (c : SideCmd) (l : Launch) (s : State) : State :=
  (hutchRec 0x0C { ctxHead (peerReported p st c l s) l.ctx l.tag with part := p } ((peerWords p st c l).map (le 8)).flatten
    (peerReported p st c l s)).modC k pos (fun m => { m.take .peerTimeout (2 ^ 29 + p * 2 ^ 8 + st) with stopping := true })

theorem peerReported_within (p st : Nat) (c : SideCmd) (l : Launch) (s : State) : Within [.slices, .chest, .jnl] s (peerReported p st c l s) :=
  raiseEvent_within _ (reflag_within _ _ _ (.refl _ s) (by simp [Covers])) (by simp [Covers])

theorem peerLatched_within (p st k pos : Nat) (c : SideCmd) (l : Launch) (s : State) :
    Within [.port, .mem, .front, .slices, .chest, .hutch, .jnl] s (peerLatched p st k pos c l s) :=
  State.modC_within _ _ _ (hutchRec_within _ _ _ (raiseEvent_within _ (reflag_within _ _ _ (.refl _ s) (by simp [Covers]))
    (by simp [Covers])) (by simp [Covers])) (by simp [Covers])

section
variable {c : SideCmd} {m : Cmd} (hl : (streamAt p st s).launch = some l) (hf : streamFlagged (streamAt p st s) l s = true)
  (hp : peerWait (streamAt p st s) (launchImage l s) = some c)
include hl hf hp

theorem peerWaitTimeout_command (hc : l.cmd = some (k, pos)) (hm : s.cmd k pos = some m) (hlatch : m.latch = none) :
    peerWaitTimeout p st s =
      requestStops (streamsOf (fun y => y.cmd == some (k, pos)) (peerLatched p st k pos c l s)) (peerLatched p st k pos c l s) := by
  have hcmd : (hutchRec 0x0C { ctxHead (peerReported p st c l s) l.ctx l.tag with part := p } ((peerWords p st c l).map (le 8)).flatten
      (peerReported p st c l s)).cmd k pos = some m := by
    rw [State.cmd, hutchRec_front, (peerReported_within p st c l s).same .front (by decide)]
    exact hm
  simp only [peerReported, peerWords] at hcmd
  simp only [peerWaitTimeout, hl, hf, hp, if_true, hc, hcmd, Option.bind_some, hlatch]
  rfl

theorem peerWaitTimeout_loop (hc : l.cmd = none) :
    peerWaitTimeout p st s = beginTeardown l.ctx true (FaultInfo.ofStream (FaultInfo.of .peerTimeout (2 ^ 29 + p * 2 ^ 8 + st)
      (peerReported p st c l s).now) p st (streamAt p st s) (peerReported p st c l s))
      (some (0x0C, ((peerWords p st c l).map (le 8)).flatten)) (peerReported p st c l s) := by
  simp only [peerWaitTimeout, hl, hf, hp, if_true, hc]
  rfl

/-- A run that waits for its peer through its window ends without its context (R355). -/
theorem peerWaitTimeout_run (hc : l.cmd = some (k, pos)) (hm : s.cmd k pos = some m) (hlatch : m.latch = none) :
    ((peerWaitTimeout p st s).cmd k pos).map (·.latch) = some (some ⟨.peerTimeout, 2 ^ 29 + p * 2 ^ 8 + st⟩) ∧
    (streamAt p st (peerWaitTimeout p st s)).stopSent = true ∧ (streamAt p st (peerWaitTimeout p st s)).flagged = true ∧
    OnlyIn [.port, .mem, .front, .slices, .chest, .hutch, .jnl] s (peerWaitTimeout p st s) := by
  rw [peerWaitTimeout_command hl hf hp hc hm hlatch]
  have hstream : streamAt p st (peerLatched p st k pos c l s) = { streamAt p st s with flagged := true } := by
    have hsl : (peerLatched p st k pos c l s).slices = (reflag p st l s).slices := by
      rw [peerLatched, State.modC_slices, hutchRec_slices, peerReported, raiseEvent_slices]
    rw [streamAt, sliceAt, hsl]
    exact reflag_stream hl l
  have hactive := ((streamFlagged_iff _ _ _).1 hf).1
  have hhalt : (streamAt p st s).state ≠ .halted := fun h => by
    rw [Stream.active, h] at hactive; cases hactive
  have hcmd : (peerLatched p st k pos c l s).cmd k pos =
      some { m.take .peerTimeout (2 ^ 29 + p * 2 ^ 8 + st) with stopping := true } := by
    refine modC_cmd_self (fun a => Cmd.take_pos _ _ a) ?_
    rw [State.cmd, hutchRec_front, (peerReported_within p st c l s).same .front (by decide)]
    exact hm
  have hsent := requestStops_sent (p := p) (st := st) (s := peerLatched p st k pos c l s) (l := l)
    (es := streamsOf (fun y => y.cmd == some (k, pos)) (peerLatched p st k pos c l s)) (by rw [hstream]; exact hl) (by rw [hstream]; exact hhalt)
    (.inl (mem_streamsOf (by rw [hstream]; exact hl) (by simp [hc])))
  refine ⟨?_, by rw [hsent], by rw [hsent, hstream], (requestStops_within _ (peerLatched_within p st k pos c l s) (by simp [Covers])).onlyIn⟩
  rw [State.cmd, (requestStops_within _ (.refl [.port, .slices] _) (.refl _)).same .front (by decide), ← State.cmd, hcmd, Option.map_some]
  exact congrArg some ((Cmd.take_latch _ _ m).1.trans (by rw [hlatch]; rfl))

/-- A loop step that waits for its peer through its window costs its context (R355). -/
theorem peerWaitTimeout_torn {y : Context} (hc : l.cmd = none) (hy : tget s.contexts l.ctx = some y) (ha : y.state = .active) :
    FaultTeardownBegun l.ctx s (peerWaitTimeout p st s) (fun i => i.status = .peerTimeout ∧ i.aux = 2 ^ 29 + p * 2 ^ 8 + st) := by
  rw [peerWaitTimeout_loop hl hf hp hc]
  have hw := peerReported_within p st c l s
  obtain ⟨hstatus, haux, -, -⟩ := FaultInfo.ofStream_keeps (FaultInfo.of .peerTimeout (2 ^ 29 + p * 2 ^ 8 + st)
    (peerReported p st c l s).now) p st (streamAt p st s) (peerReported p st c l s)
  refine (beginTeardown_fault (by rw [hw.same .contexts (by decide)]; exact hy) ha ⟨hstatus, haux⟩).of_now ?_
  exact congrArg BitVec.toNat (hw.same .time (by decide))

end

/-! ### Page movers, hub engines and queues (R95, R354) -/

/-- A compute reset counts from a state with the same contexts, count of resets and time. -/
theorem ComputeResetBegun.of_same {cause : Nat} {s0 t : State} (h : ComputeResetBegun cause s t) (hn : s.now = s0.now)
    (hr : s.watch.computeResets = s0.watch.computeResets) (hc : s.contexts = s0.contexts) : ComputeResetBegun cause s0 t := by
  obtain ⟨⟨g, hg, hcause, hat, hphase⟩, hready, hresets, hctx⟩ := h
  exact ⟨⟨g, hg, hcause, hat.trans hn, hphase⟩, hready, hresets.trans (by rw [hr]), fun c x hx ha => hctx c x (by rw [hc]; exact hx) ha⟩

/-- An agent of the hub that hangs costs a compute reset (R354). -/
theorem hubHang_begun (payload : List Byte) (hn : NoReset s) : ComputeResetBegun 9 s (hubHang payload s) := by
  have hw := hutchRec_within 0x03 RecHead.blank payload (.refl [.port, .mem, .hutch] s) (.refl _)
  have hwatch : (hutchRec 0x03 RecHead.blank payload s).watch = s.watch := hw.same .watch (by decide)
  exact (orderStage3_begun 9 false false (by rw [NoReset, hwatch]; exact hn)).of_same (congrArg BitVec.toNat (hw.same .time (by decide)))
    (congrArg Watch.computeResets hwatch) (hw.same .contexts (by decide))

/-- A page mover that has hung is not flagged again for the job that it runs (R353). -/
def moverFlagged (i : Nat) (x : Mover) (s : State) : State :=
  trace 13 0 0xFFFF 0 i { s with wrd := { s.wrd with movers := s.wrd.movers.modify i (fun y => { y with flagged := x.runs.map (·.id) }) } }

theorem moverFlagged_within (i : Nat) (x : Mover) (s : State) : Within [.wrd, .jnl] s (moverFlagged i x s) :=
  trace_within _ _ _ _ _ (Within.wrd (.refl _ s) (by simp [Covers]) _) (by simp [Covers])

/-- The HANG record of a page mover (R504). -/
def moverRecord (i : Nat) (x : Mover) (s : State) : List Byte :=
  hangPayload 2 i 0xFF 0xFF (s.watch.moverInForce * 1000) x.progress x.sample x.sample x.advanced

/-- The fault of a page mover that hangs (R354). -/
def moverFault (i : Nat) (x : Mover) (s : State) : FaultInfo :=
  FaultInfo.of .hang (2 ^ 29 + s.watch.moverInForce * 1000) (moverFlagged i x s).now

section
variable {x : Mover} (hx : s.wrd.movers[i]? = some x)
include hx

theorem moverHang_not (h : ¬(x.runs.map (·.id) ≠ none ∧ x.flagged ≠ x.runs.map (·.id) ∧ x.progress = x.sample ∧
    s.watch.moverInForce * 100000 ≤ s.now - x.heldSince)) : moverHang i s = s := by
  have hno : ¬((x.runs.map (·.id)).isSome && x.flagged != x.runs.map (·.id) && x.progress == x.sample &&
      decide (s.watch.moverInForce * Config.ms ≤ s.now - x.heldSince)) = true := fun hb => by
    simp only [Bool.and_eq_true, decide_eq_true_eq, beq_iff_eq, bne_iff_ne, Option.isSome_iff_ne_none, and_assoc] at hb
    exact h hb
  simp only [moverHang, hx, if_neg hno]

variable (hf : x.runs.map (·.id) ≠ none ∧ x.flagged ≠ x.runs.map (·.id) ∧ x.progress = x.sample ∧
  s.watch.moverInForce * 100000 ≤ s.now - x.heldSince)
include hf

omit hx in
theorem mover_due : ((x.runs.map (·.id)).isSome && x.flagged != x.runs.map (·.id) && x.progress == x.sample &&
    decide (s.watch.moverInForce * Config.ms ≤ s.now - x.heldSince)) = true := by
  simp only [Bool.and_eq_true, decide_eq_true_eq, beq_iff_eq, bne_iff_ne, Option.isSome_iff_ne_none, and_assoc]
  exact hf

theorem moverHang_command (hc : moverCmd i s = some (k, pos)) :
    moverHang i s = hangCmd k pos (moverFault i x s) (moverRecord i x s) (moverFlagged i x s) := by
  simp only [moverHang, hx, if_pos (mover_due hf), hc]
  rfl

theorem moverHang_reset (hc : moverCmd i s = none) : moverHang i s = hubHang (moverRecord i x s) (moverFlagged i x s) := by
  simp only [moverHang, hx, if_pos (mover_due hf), hc]
  rfl

end

/-- A command with a free latch whose mover hangs faults (R354). -/
theorem hangCmd_free {info : FaultInfo} {rcd : List Byte} (hlive : CmdLive k pos s) :
    CmdFaulted k pos info.status info.aux s (hangCmd k pos info rcd s) := by
  obtain ⟨m, x, hm, hlatch, hx, ha⟩ := id hlive
  have he : hangCmd k pos info rcd s = faultCmd k pos info (some (0x03, rcd)) s := by simp only [hangCmd, hm, hlatch]
  rw [he]
  exact (faultCmd_faulted (why := fun _ => True) hlive (some (0x03, rcd)) fun _ _ => trivial).1

/-- A command whose latch is taken and whose mover does not stop costs its context all the same (R85, R354). -/
theorem hangCmd_taken {info : FaultInfo} {rcd : List Byte} {m : Cmd} {y : Context} (hm : s.cmd k pos = some m) (hlatch : m.latch ≠ none)
    (hy : tget s.contexts (k / 256) = some y) (ha : y.state = .active) :
    FaultTeardownBegun (k / 256) s (hangCmd k pos info rcd s) (fun i => i.status = info.status ∧ i.aux = info.aux ∧
      i.queue = k % 256 ∧ i.seq = pos + 1) := by
  obtain ⟨l, hl⟩ := Option.ne_none_iff_exists'.1 hlatch
  have he : hangCmd k pos info rcd s =
      beginTeardown (k / 256) true { info with queue := k % 256, seq := pos + 1, tag := eTag m.entry } (some (0x03, rcd)) s := by
    simp only [hangCmd, hm, hl]
  rw [he]
  exact beginTeardown_fault hy ha ⟨rfl, rfl, rfl, rfl⟩

section
variable {x : Mover}

theorem moverFlagged_cmd (k pos : Nat) : (moverFlagged i x s).cmd k pos = s.cmd k pos := by
  rw [State.cmd, (moverFlagged_within i x s).same .front (by decide)]; rfl

theorem moverFlagged_now : (moverFlagged i x s).now = s.now :=
  congrArg BitVec.toNat ((moverFlagged_within i x s).same .time (by decide))

theorem moverFlagged_contexts : (moverFlagged i x s).contexts = s.contexts := (moverFlagged_within i x s).same .contexts (by decide)

theorem moverFlagged_watch : (moverFlagged i x s).watch = s.watch := (moverFlagged_within i x s).same .watch (by decide)

end

/-! ### Hub engines -/

/-- A hub engine that has hung is flagged (R353). -/
def hubFlagged (e : Nat) (s : State) : State :=
  trace 13 0 0xFFFF 0 e { s with watch := { s.watch with hubFlagged := s.watch.hubFlagged.set e true } }

/-- A hub engine is to be flagged: its input held at the last sample and now, its counter unmoved through the window (R353). -/
def hubDue (e : Nat) (s : State) : Prop :=
  s.watch.hubBusy[e]? = some true ∧ (hubWork s)[e]? = some true ∧ s.watch.hubFlagged.getD e false = false ∧
  s.watch.hubProgress.getD e 0 = s.watch.hubSample.getD e 0 ∧ s.watch.hubInForce * 100000 ≤ s.now - s.watch.hubHeld.getD e 0

theorem getD_eq_true_iff (l : List Bool) (e : Nat) : l.getD e false = true ↔ l[e]? = some true := by
  rw [List.getD_eq_getElem?_getD]
  cases l[e]? with
  | none => simp
  | some b => simp

theorem hubDue_iff (e : Nat) (s : State) :
    (s.watch.hubBusy.getD e false && (hubWork s).getD e false && !s.watch.hubFlagged.getD e false &&
      s.watch.hubProgress.getD e 0 == s.watch.hubSample.getD e 0 &&
      decide (s.watch.hubInForce * Config.ms ≤ s.now - s.watch.hubHeld.getD e 0)) = true ↔ hubDue e s := by
  simp only [Bool.and_eq_true, decide_eq_true_eq, beq_iff_eq, Bool.not_eq_true', getD_eq_true_iff, and_assoc]
  rfl

theorem hubEngineHang_not {h : HubEngine} (hd : ¬hubDue (hubCode h) s) : hubEngineHang h s = s := by
  unfold hubEngineHang
  exact if_neg fun hb => hd ((hubDue_iff _ s).1 hb)

theorem hubEngineHang_due {h : HubEngine} (hd : hubDue (hubCode h) s) :
    hubEngineHang h s = hubHang (hangPayload 3 (hubCode h) 0xFF 0xFF (s.watch.hubInForce * 1000) (s.watch.hubProgress.getD (hubCode h) 0)
      (s.watch.hubProgress.getD (hubCode h) 0) (s.watch.hubProgress.getD (hubCode h) 0) (s.watch.hubAdvanced.getD (hubCode h) 0))
      (hubFlagged (hubCode h) s) := by
  unfold hubEngineHang
  exact if_pos ((hubDue_iff _ s).2 hd)

theorem hubFlagged_watch (e : Nat) (s : State) :
    (hubFlagged e s).watch = { s.watch with hubFlagged := s.watch.hubFlagged.set e true } := by
  rw [hubFlagged, trace_watch]

theorem hubFlagged_now (e : Nat) (s : State) : (hubFlagged e s).now = s.now := by
  simp only [State.now, hubFlagged, trace_time]

theorem hubFlagged_contexts (e : Nat) (s : State) : (hubFlagged e s).contexts = s.contexts := by
  rw [hubFlagged, trace_contexts]

/-! ### Queues -/

/-- An ACTIVE context has its record. -/
theorem isActive_ctx (h : s.isActive c = true) : ∃ x, tget s.contexts c = some x ∧ x.state = .active := by
  unfold State.isActive at h
  cases hx : tget s.contexts c with
  | none => rw [hx] at h; cases h
  | some x => rw [hx] at h; exact ⟨x, rfl, by simpa using h⟩

theorem queueShutdownHang_late {u : Queue} (hu : tget s.front.queues (qkey c q) = some u)
    (h : u.state = .shutting ∧ s.isActive c = true ∧ 500000 ≤ s.now - u.shutAt) :
    queueShutdownHang c q s = beginTeardown c true { FaultInfo.of .hang (5 * 2 ^ 28 + 5000) s.now with queue := q, seq := u.w }
      (some (0x03, hangPayload 5 0xFF 0xFF q 5000 u.progress u.sample u.sampleWas u.advanced)) s := by
  rw [queueShutdownHang, queueAt_of_queue hu]
  exact if_pos h

theorem queueShutdownHang_not {u : Queue} (hu : tget s.front.queues (qkey c q) = some u)
    (h : ¬(u.state = .shutting ∧ s.isActive c = true ∧ 500000 ≤ s.now - u.shutAt)) : queueShutdownHang c q s = s := by
  rw [queueShutdownHang, queueAt_of_queue hu]
  exact if_neg h

/-- The hub's flags and the times since which its engines are held, after a sample (R353). -/
theorem watchSample_hub {e : Nat} (he : e < 8) (s : State) :
    (watchSample s).watch.hubHeld[e]? = some
      (if (hubWork s)[e]? = some true ∧ s.watch.hubProgress.getD e 0 = s.watch.hubSample.getD e 0 then s.watch.hubHeld.getD e 0
       else s.now) ∧
    (watchSample s).watch.hubFlagged[e]? =
      some (s.watch.hubFlagged.getD e false && decide (s.watch.hubProgress.getD e 0 = s.watch.hubSample.getD e 0)) := by
  have hr : (List.range 8)[e]? = some e := List.getElem?_range he
  constructor
  · rw [watchSample, List.getElem?_map, hr]
    simp only [Option.map_some, Bool.and_eq_true, beq_iff_eq, getD_eq_true_iff]
  · rw [watchSample, List.getElem?_map, hr]
    rfl

/-- Settles O39: the samples part by part, then each agent by whether it is flagged. -/
theorem agentsHang : Obligations.AgentsHang := by
  unfold Obligations.AgentsHang
  refine ⟨?sample, ?stream, ?mover, ?engine, ?queue⟩
  case sample =>
    intro s
    have hexec : Machine.exec .watchSample s = .next (watchSample s) := rfl
    refine ⟨_, hexec, onlyIn_of_exec hexec, fun k u hu => ?_, fun p st x hp hx => ?_, fun i m hm => ?_, fun i c hc => ?_, rfl, rfl,
      fun e he => watchSample_hub he s⟩
    · rw [watchSample, tget_tmapv, hu, Option.map_some, Queue.sampled_eq]
    · obtain ⟨y, hy⟩ := Option.ne_none_iff_exists'.1 hp
      rw [sliceAt, tgetD, hy, Option.getD_some] at hx
      have hxs : streamAt p st s = x := by rw [streamAt, sliceAt, tgetD, hy, Option.getD_some, hx, Option.getD_some]
      rw [watchSample_stream hy hx, Stream.sampled_eq]
    · rw [watchSample, List.getElem?_map, hm, Option.map_some, Mover.sampled_eq]
    · rw [watchSample, List.getElem?_map, hc, Option.map_some, Core.sampled_eq]
  case stream =>
    intro p st l s hl
    have hiff := streamFlagged_iff (streamAt p st s) l s
    refine ⟨fun hf hp => ⟨_, rfl, streamHang_faulted hl (hiff.2 hf) hp⟩, fun h => ?_, fun h => ?_, fun c hf hp =>
      ⟨fun k pos m hc hm hlatch => ⟨_, rfl, peerWaitTimeout_run hl (hiff.2 hf) hp hc hm hlatch⟩,
        fun y hc hy ha => ⟨_, rfl, peerWaitTimeout_torn hl (hiff.2 hf) hp hc hy ha⟩⟩⟩
    · exact congrArg Host.Outcome.next (streamHang_not hl (h.imp_left fun hn => Bool.eq_false_iff.2 fun hf => hn (hiff.1 hf)))
    · exact congrArg Host.Outcome.next (peerWaitTimeout_not hl (h.imp_left fun hn => Bool.eq_false_iff.2 fun hf => hn (hiff.1 hf)))
  case mover =>
    intro i x s hx
    refine ⟨fun h => congrArg Host.Outcome.next (moverHang_not hx h), fun k pos hf hc hlive => ⟨_, rfl, ?_⟩,
      fun k pos m y hf hc hm hlatch hy ha => ⟨_, rfl, ?_⟩, fun hf hc hn => ⟨_, rfl, ?_⟩⟩
    · rw [moverHang_command hx hf hc]
      obtain ⟨htaken, htorn⟩ := hangCmd_free (k := k) (pos := pos) (s := moverFlagged i x s) (info := moverFault i x s)
        (rcd := moverRecord i x s) (by rw [CmdLive, moverFlagged_cmd, moverFlagged_contexts]; exact hlive)
      exact ⟨htaken, htorn.of_now moverFlagged_now⟩
    · rw [moverHang_command hx hf hc]
      exact (hangCmd_taken (info := moverFault i x s) (by rw [moverFlagged_cmd]; exact hm) hlatch (by rw [moverFlagged_contexts]; exact hy)
        ha).of_now moverFlagged_now
    · rw [moverHang_reset hx hf hc]
      exact (hubHang_begun _ (by rw [NoReset, moverFlagged_watch]; exact hn)).of_same moverFlagged_now
        (congrArg Watch.computeResets moverFlagged_watch) moverFlagged_contexts
  case engine =>
    intro h s
    refine ⟨fun hd hn => ⟨_, rfl, ?_⟩, fun hd => congrArg Host.Outcome.next (hubEngineHang_not hd)⟩
    rw [hubEngineHang_due hd]
    exact (hubHang_begun _ (by rw [NoReset, hubFlagged_watch]; exact hn)).of_same (hubFlagged_now _ s)
      (congrArg Watch.computeResets (hubFlagged_watch _ s) :) (hubFlagged_contexts _ s)
  case queue =>
    intro c q u s hu
    refine ⟨fun h => ⟨_, rfl, ?_⟩, fun h => congrArg Host.Outcome.next (queueShutdownHang_not hu h)⟩
    obtain ⟨-, hactive, -⟩ := id h
    rw [queueShutdownHang_late hu h]
    obtain ⟨x, hx, ha⟩ := isActive_ctx hactive
    exact beginTeardown_fault hx ha ⟨rfl, rfl, rfl⟩

end Sys2Proof.Machine
end

section
/-! SUPPORT for O9 and O10. The value of a fence after a signal (R119 to R123), for both widths at once. -/

namespace Sys2Proof.Machine

theorem leNat_le {v : Nat} : ∀ {n : Nat}, v < 256 ^ n → leNat (le n v) = v
  | 0, h => by rw [pow_zero, Nat.lt_one_iff] at h; rw [h]; rfl
  | n + 1, h => by
    have hv : v / 256 < 256 ^ n := Nat.div_lt_of_lt_mul (by rwa [pow_succ'] at h)
    simp only [le, leNat, leNat_le hv, BitVec.toNat_ofNat]
    omega

variable {s t : State} {c tag : Nat} {r : FenceRef}

/-! ### The value of a fence -/

theorem State.fenceValue_congr (hb : t.bramble.shadows = s.bramble.shadows) (hm : t.mem = s.mem) (l : Loc) (compact : Bool) :
    t.fenceValue l compact = s.fenceValue l compact := by
  simp only [State.fenceValue, State.shadow, hb, memRead_congr hm]

/-- A rise changes the shadows of its fence alone (R119). -/
theorem signalFence_shadow_rise (he : signalEffect r.compact (s.fenceValue r.loc r.compact) r.value = .rise) :
    (signalFence c tag r s).shadow r.loc r.compact = (s.shadow r.loc r.compact).map (fun x => { x with value := r.value }) := by
  have hf : ∀ x : Shadow, (if x.loc == r.loc && x.compact == r.compact then { x with value := r.value } else x).loc = x.loc ∧
      (if x.loc == r.loc && x.compact == r.compact then { x with value := r.value } else x).compact = x.compact := fun x => by
    split <;> exact ⟨rfl, rfl⟩
  simp only [State.shadow, signalFence, he, trace_bramble, fenceRise, State.modQueues, locWrite_bramble, List.find?_map,
    Function.comp_def, (hf _).1, (hf _).2]
  cases h : s.bramble.shadows.find? (fun x => x.loc == r.loc && x.compact == r.compact) with
  | none => rfl
  | some x => rw [Option.map_some, Option.map_some, if_pos (List.find?_some h :)]

/-- A fence that rises has its value, in its shadow where it has one and in memory (R119), and no other byte changes. -/
theorem signalFence_rise (hs : s.MemOk) (hv : r.value < 256 ^ fenceBytes r.compact)
    (hd : r.loc.space ≠ .host ∨ hostDropped r.loc s = false)
    (he : signalEffect r.compact (s.fenceValue r.loc r.compact) r.value = .rise) :
    (signalFence c tag r s).fenceValue r.loc r.compact = r.value ∧
    memRead r.loc (fenceBytes r.compact) (signalFence c tag r s) = le (fenceBytes r.compact) r.value ∧
    UnchangedOutside r.loc (fenceBytes r.compact) s (signalFence c tag r s) := by
  have hnd : ¬(r.loc.space = .host ∧ hostDropped r.loc s = true) := fun h => hd.elim (· h.1) fun hf => by simp [hf] at h
  have hm := signalFence_mem_rise c tag he
  rw [if_neg hnd] at hm
  have hread : memRead r.loc (fenceBytes r.compact) (signalFence c tag r s) = le (fenceBytes r.compact) r.value := by
    simpa only [le_length] using memRead_write r.loc _ hs hm
  refine ⟨?_, hread, fun k hk => memRead_write_other r.loc _ hm k (by rwa [le_length])⟩
  simp only [State.fenceValue, signalFence_shadow_rise he]
  cases s.shadow r.loc r.compact with
  | none => exact (congrArg leNat hread).trans (leNat_le hv)
  | some x => rfl

theorem signalFence_same (he : signalEffect r.compact (s.fenceValue r.loc r.compact) r.value = .same) : signalFence c tag r s = s := by
  simp only [signalFence, he]

/-- A signal that would take a fence back is refused and reported (R123). -/
theorem signalFence_regress (he : signalEffect r.compact (s.fenceValue r.loc r.compact) r.value = .regress) :
    (signalFence c tag r s).fenceValue r.loc r.compact = s.fenceValue r.loc r.compact ∧
    signalFence c tag r s =
      raiseEvent (ctxEvent s evFenceRegress c tag [r.va, s.fenceValue r.loc r.compact, r.value, 0]) s := by
  have h : signalFence c tag r s =
      raiseEvent (ctxEvent s evFenceRegress c tag [r.va, s.fenceValue r.loc r.compact, r.value, 0]) s := by
    simp only [signalFence, he]
  exact ⟨by rw [h, State.fenceValue_congr (by rw [raiseEvent_bramble]) (raiseEvent_mem ..)], h⟩

/-! ### The effect of a signal -/

theorem signalEffect_wide (a v : Nat) :
    signalEffect false a v = if v = a then .same else if a < v then .rise else .regress := rfl

theorem lag_of_lt {w a b : Nat} (hb : b < 2 ^ w) : lag w a b = (a + 2 ^ w - b) % 2 ^ w := by
  rw [lag, Nat.mod_eq_of_lt hb, Nat.add_sub_assoc hb.le]

theorem signalEffect_compact {a : Nat} (ha : a < 2 ^ 32) (v : Nat) :
    signalEffect true a v =
      if (v + 2 ^ 32 - a) % 2 ^ 32 = 0 then .same else if (v + 2 ^ 32 - a) % 2 ^ 32 < 2 ^ 31 then .rise else .regress := by
  rw [← lag_of_lt ha]; rfl

end Sys2Proof.Machine
end

section
/-! O9 and O10: a fence rises, stays, or refuses a signal. -/

namespace Sys2Proof.Machine

/-- Settles O9: by the effect of the signal, where the fence is below, at or above its value. -/
theorem wideFencesOnlyRise : Obligations.WideFencesOnlyRise := by
  unfold Obligations.WideFencesOnlyRise
  refine ⟨fun _ _ => rfl, fun c => decide_eq_true (Nat.zero_le c), fun c tag r s hs hc hv _ hd => ?_⟩
  have he := signalEffect_wide (s.fenceValue r.loc false) r.value
  rw [← hc] at he
  rw [← hc]
  refine ⟨fun h => ?_, fun h => ?_, fun h => ?_⟩
  · have hr := signalFence_rise (c := c) (tag := tag) hs (by rw [hc]; exact hv) hd (by rw [he, if_neg h.ne', if_pos h])
    rwa [show fenceBytes r.compact = 8 by rw [hc]; rfl] at hr
  · exact signalFence_same (by rw [he, if_pos h])
  · exact signalFence_regress (by rw [he, if_neg h.ne, if_neg h.le.not_gt])

/-- Settles O10: by the effect of the signal, where it lies 0, less than 2^31 or more ahead of the fence. -/
theorem compactFencesCompareSerially : Obligations.CompactFencesCompareSerially := by
  unfold Obligations.CompactFencesCompareSerially
  refine ⟨fun c v _ hv => by rw [← lag_of_lt hv]; rfl, fun c tag r s hs hc hv hcur hd => ?_⟩
  have he := signalEffect_compact hcur r.value
  rw [← hc] at he
  rw [← hc]
  refine ⟨fun h1 h2 => ?_, fun h => ?_, fun h => ?_⟩
  · have hr := signalFence_rise (c := c) (tag := tag) hs (by rw [hc]; exact hv) hd
      (by rw [he, if_neg (Nat.one_le_iff_ne_zero.1 h1), if_pos (Nat.lt_of_le_pred (by decide) h2)])
    rwa [show fenceBytes r.compact = 4 by rw [hc]; rfl] at hr
  · exact signalFence_same (by rw [he, if_pos h])
  · exact signalFence_regress (by rw [he, if_neg (by omega), if_neg (Nat.not_lt.2 h)])

end Sys2Proof.Machine
end

section
/-! Refutation of O11: the dispatch of an OP_QUERY (R61) in a state with two commands at one position of a queue. -/

namespace Sys2Proof.Machine

/-- OP_QUERY of the use of its context, accepted (R61, selector 1). -/
def acceptedQuery : Cmd :=
  { Cmd.fresh ⟨0, le 1 2 ++ le 1 0x12 ++ zeros 14 ++ le 1 1 ++ zeros 47, none, true⟩ with phase := .accepted }

/-- The same command with a wait that is not met. -/
def waitingQuery : Cmd :=
  { acceptedQuery with waits := [⟨{ loc := { space := .host, addr := 0 }, compact := false, value := 1, va := 0 }, false⟩] }

/-- A queue with both commands at position 0, which State.Shaped does not exclude, nor the statement. -/
def twoAtOnePosition : State :=
  { State.reset with
    front := { State.reset.front with
      queues := [(0, { Queue.reset with state := .fetching, d := 1, f := 1, cmds := [acceptedQuery, waitingQuery] })] } }

/-- The dispatch takes both commands for dispatched before it takes the snapshot, which so counts no command that waits; before the
dispatch one waits. -/
theorem commandDispatch_twoAtOnePosition :
    ((commandDispatch 0 0 0 twoAtOnePosition).cmd 0 0).map (·.snapshot) ≠
      some (queryWords 0 acceptedQuery.entry twoAtOnePosition) := by decide +kernel

/-- Refutes O11: its last clause has the words of an OP_QUERY as they are before the dispatch, and no hypothesis gives a position of a
queue to one command only, so a dispatch can end a wait that the words count. -/
theorem not_entriesAreAccepted : ¬ Obligations.EntriesAreAccepted := by
  intro h
  obtain ⟨-, -, hdispatch⟩ := h
  have hfirst : twoAtOnePosition.allCmds.all (fun e => decide (acceptedQuery.order ≤ e.2.order)) = true := by decide +kernel
  obtain ⟨-, -, htaken⟩ := hdispatch 0 0 0 acceptedQuery twoAtOnePosition (by decide +kernel) (by decide +kernel)
    (fun e he _ _ => of_decide_eq_true (List.all_eq_true.1 hfirst e he))
  obtain ⟨t, ht, ⟨d, sn, hcmd, -, -, -, -, -, hwords⟩, -⟩ := htaken (by decide +kernel) (by decide +kernel)
  obtain rfl : commandDispatch 0 0 0 twoAtOnePosition = t := Host.Outcome.next.inj ht
  obtain ⟨hsn, -⟩ := hwords (by decide +kernel)
  exact commandDispatch_twoAtOnePosition ((congrArg (Option.map (·.snapshot)) hcmd).trans (congrArg some hsn))

end Sys2Proof.Machine
end

section
/-! SUPPORT for O12. Commands that Bramble ends itself once it has begun on them (R111). -/

namespace Sys2Proof.Machine

variable {c q k pos op : Nat} {m : Cmd} {s t : State}

/-- A command that its executor has begun on and finished with ST_OK (R111). -/
def Cmd.done (m : Cmd) : Cmd := { m with started := true, latch := some ⟨.ok, 0⟩, running := false, stopping := false }

theorem starting_pos (h : starting k pos op s = some m) : m.pos = pos := by
  obtain ⟨hm, -⟩ := starting_cmd h
  obtain ⟨u, -, hu⟩ := Option.bind_eq_some_iff.1 hm
  simpa using List.find?_some hu

theorem begun_objects (k pos : Nat) (s : State) : (begun k pos s).objects = s.objects :=
  (begun_within k pos (.refl _ s) (.refl _)).same .objects (by decide)

/-- A dispatched command with a free latch keeps its waits when it finishes (R84). -/
theorem finishOk_cmd_self (hm : t.cmd k pos = some m) (hp : m.phase = .dispatched) (hl : m.latch = none) :
    (finishOk k pos t).cmd k pos = some { m with latch := some ⟨.ok, 0⟩, running := false, stopping := false } := by
  rw [finishOk, finish_cmd, if_pos ⟨rfl, rfl⟩, hm, Option.map_some, Cmd.take, hl]
  simp only [hp, if_true]

/-! ### Without an answer -/

theorem finishNop_eq (h : starting k pos op s = some m) : finishNop k pos op s = finishOk k pos (begun k pos s) := by
  rw [finishNop, h]

theorem finishNop_cmd (h : starting k pos op s = some m) : (finishNop k pos op s).cmd k pos = some m.done := by
  obtain ⟨hb, hl⟩ := begun_starting h
  obtain ⟨-, hp, -⟩ := starting_cmd h
  rw [finishNop_eq h]
  exact finishOk_cmd_self hb hp hl

theorem finishNop_other (h : starting k pos op s = some m) {k' p' : Nat} (hne : (k', p') ≠ (k, pos)) :
    (finishNop k pos op s).cmd k' p' = s.cmd k' p' := by
  rw [finishNop_eq h]
  exact (finish_other hne).trans (begun_other hne)

/-! ### With a result word (R111) -/

/-- The command has begun, its result is to be written, and it has finished. -/
def finishedWith (k pos : Nat) (m : Cmd) (hOff oOff : Nat) (bs : List Byte) (s : State) : State :=
  finishOk k pos (putResult k m hOff oOff bs (begun k pos s))

section
variable {hOff oOff : Nat} {l : Loc} {bs : List Byte}

theorem putResult_begun (h : starting k pos op s = some m) (hl : operandLoc k m hOff oOff s = some l) :
    putResult k m hOff oOff bs (begun k pos s) = addResult k pos l bs (begun k pos s) := by
  rw [putResult, operandLoc_of_objects (begun_objects k pos s), hl, starting_pos h]

theorem finishedWith_cmd (h : starting k pos op s = some m) (hl : operandLoc k m hOff oOff s = some l) :
    (finishedWith k pos m hOff oOff bs s).cmd k pos = some { m.done with results := m.results ++ [⟨l, bs⟩] } := by
  obtain ⟨hb, hlatch⟩ := begun_starting h
  obtain ⟨-, hp, -⟩ := starting_cmd h
  rw [finishedWith, putResult_begun h hl]
  have hr : (addResult k pos l bs (begun k pos s)).cmd k pos = some { m with started := true, results := m.results ++ [⟨l, bs⟩] } := by
    rw [addResult_cmd, if_pos ⟨rfl, rfl⟩, hb, Option.map_some]
  exact finishOk_cmd_self hr hp hlatch

theorem finishedWith_other (h : starting k pos op s = some m) (hl : operandLoc k m hOff oOff s = some l) {k' p' : Nat}
    (hne : (k', p') ≠ (k, pos)) : (finishedWith k pos m hOff oOff bs s).cmd k' p' = s.cmd k' p' := by
  rw [finishedWith, putResult_begun h hl]
  refine (finish_other hne).trans ?_
  rw [addResult_cmd, if_neg fun e => hne (Prod.ext e.1 e.2), begun_other hne]

end

theorem opTimestamp_eq (h : starting (qkey c q) pos 0x15 s = some m) :
    opTimestamp c q pos s = finishedWith (qkey c q) pos m 16 24 (le 8 m.dispatchedAt) s := by
  rw [opTimestamp, h, finishedWith]

theorem opQuery_eq (h : starting (qkey c q) pos 0x12 s = some m) :
    opQuery c q pos s = finishedWith (qkey c q) pos m 24 32 (wordBytes m.snapshot) s := by
  rw [opQuery, h, finishedWith]

/-! ### OP_BARRIER_JOIN (R483) -/

theorem opBarrierJoin_eq {j : Join} (h : starting (qkey c q) pos 0x11 s = some m) (hj : tget s.link.joins (fld m.entry 16 2) = some j)
    (hc : j.ctx = c) (hq : j.queue = q) (hp : j.pos = pos) :
    opBarrierJoin c q pos s = emit (.arrive s.port.straps.2.2.2 (fld m.entry 16 2) j.epoch j.participants s.port.straps.1
      s.port.straps.2.1 s.port.straps.2.2.1) (begun (qkey c q) pos s) := by
  have hf : (some j).filter (fun j => j.ctx == c && j.queue == q && j.pos == pos) = some j := by simp [hc, hq, hp]
  simp only [opBarrierJoin, h, hj, hf]

end Sys2Proof.Machine
end

section
/-! SUPPORT for O12. What the release of an object does to the tables of objects and graphs (R54, R56). -/

namespace Sys2Proof.Machine

variable {key k : Nat} {o : Obj} {s s0 : State}

/-! ### The release of one object -/

theorem signalOut_objects (c k pos tag : Nat) (r : FenceRef) (s : State) : (signalOut c k pos tag r s).objects = s.objects :=
  (signalOut_within c k pos tag r (.refl [.port, .mem, .hub, .front, .bramble, .chest, .jnl] s) (.refl _)).same .objects (by decide)

theorem releaseOne_graphs (key : Nat) (s : State) : (releaseOne key s).graphs = s.graphs :=
  (releaseOne_within key (.refl [.port, .mem, .hub, .objects, .front, .bramble, .chest, .jnl] s) (.refl _)).same .graphs (by decide)

/-- The state 0x00 written to the entry of an object that is released (R56). -/
def entryCleared (key : Nat) (s : State) : State :=
  match tget s.contexts (key / 2 ^ 20) with
  | some x => hostWrite (some (key / 2 ^ 20)) ((entryLoc x.rcd (key % 2 ^ 20)).plus 2) [0] s
  | none => s

theorem releaseOne_eq (ho : tget s.objects key = some o) : releaseOne key s =
    match o.release with
    | some f => signalOut o.freer o.freerAt.1 o.freerAt.2 o.freerTag f (entryCleared key { s with objects := tdel s.objects key })
    | none => entryCleared key { s with objects := tdel s.objects key } := by
  simp only [releaseOne, ho]
  rfl

theorem entryCleared_objects (key : Nat) (s : State) : (entryCleared key s).objects = s.objects := by
  unfold entryCleared
  split
  · exact hostWrite_objects ..
  · rfl

theorem entryCleared_mem {x : Context} (hx : tget s.contexts (key / 2 ^ 20) = some x)
    (hd : hostDropped ((entryLoc x.rcd (key % 2 ^ 20)).plus 2) s = false) :
    (entryCleared key s).mem = s.mem.write ((entryLoc x.rcd (key % 2 ^ 20)).plus 2) [0] := by
  simp only [entryCleared, hx, hostWrite_mem, hd, Bool.false_eq_true, if_false]

/-- A release takes the cached copy of its object away, and no other (R56). -/
theorem releaseOne_object (key k : Nat) (s : State) :
    tget (releaseOne key s).objects k = if k = key then none else tget s.objects k := by
  cases ho : tget s.objects key with
  | none =>
    have h : releaseOne key s = s := by simp only [releaseOne, ho]
    rw [h]
    split
    · next hk => rw [hk, ho]
    · rfl
  | some o =>
    have hobj : (releaseOne key s).objects = tdel s.objects key := by
      rw [releaseOne_eq ho]
      split
      · exact (signalOut_objects ..).trans (entryCleared_objects ..)
      · exact entryCleared_objects ..
    rw [hobj, tget_tdel]

/-! ### Objects that are FREE_PENDING or gone stay so -/

/-- An object is FREE_PENDING or not cached (R56). -/
def GoneOrPending (key : Nat) (s : State) : Prop := ∀ o, tget s.objects key = some o → o.freePending = true

theorem GoneOrPending.of_eq {t : State} (h : GoneOrPending key s) (he : t.objects = s.objects) : GoneOrPending key t := by
  rw [GoneOrPending, he]; exact h

theorem GoneOrPending.tupd {f : Obj → Obj} (hf : ∀ o, (f o).freePending = o.freePending) (h : GoneOrPending key s) (k : Nat) :
    GoneOrPending key { s with objects := tupd s.objects k f } := by
  intro o ho
  rw [tget_tupd] at ho
  split at ho
  · next hk =>
    obtain ⟨o', ho', rfl⟩ := Option.map_eq_some_iff.1 ho
    rw [hf]; exact h o' (hk ▸ ho')
  · exact h o ho

theorem GoneOrPending.ite {p : Prop} [Decidable p] {a b : State} (ha : GoneOrPending key a) (hb : GoneOrPending key b) :
    GoneOrPending key (if p then a else b) := by
  split
  · exact ha
  · exact hb

theorem GoneOrPending.foldl {α : Type} {f : State → α → State} (hf : ∀ s a, GoneOrPending key s → GoneOrPending key (f s a))
    (l : List α) (h : GoneOrPending key s) : GoneOrPending key (l.foldl f s) := by
  induction l generalizing s with
  | nil => exact h
  | cons a l ih => exact ih (hf s a h)

theorem releaseOne_pending (k : Nat) (h : GoneOrPending key s) : GoneOrPending key (releaseOne k s) := by
  intro o ho
  rw [releaseOne_object] at ho
  split at ho
  · cases ho
  · exact h o ho

theorem dropRefMem_pending (k : Nat) (h : GoneOrPending key s) : GoneOrPending key (dropRefMem k s) := by
  have hu := h.tupd (f := fun o => { o with refs := o.refs - 1 }) (fun _ => rfl) k
  unfold dropRefMem releaseIfIdle
  dsimp only
  split
  · exact .ite (releaseOne_pending k hu) hu
  · exact hu

theorem freeVersions_pending (k : Nat) (h : GoneOrPending key s) : GoneOrPending key (freeVersions k s) := by
  unfold freeVersions
  split
  · exact h
  · exact .foldl (fun _ v h => dropRefMem_pending v.imageKey h) _ (h.of_eq rfl)

theorem releaseObj_pending (k : Nat) (h : GoneOrPending key s) : GoneOrPending key (releaseObj k s) := by
  unfold releaseObj
  split
  · exact .ite (releaseOne_pending k (freeVersions_pending k h)) h
  · exact h

theorem unpin_pending (k : Nat) (h : GoneOrPending key s) : GoneOrPending key (unpin k s) :=
  releaseObj_pending k (h.tupd (f := fun o => { o with pins := o.pins - 1 }) (fun _ => rfl) k)

theorem unref_pending (k : Nat) (h : GoneOrPending key s) : GoneOrPending key (unref k s) :=
  releaseObj_pending k (h.tupd (f := fun o => { o with refs := o.refs - 1 }) (fun _ => rfl) k)

theorem removeModel_pending (id : Nat) (h : GoneOrPending key s) : GoneOrPending key (removeModel id s) := by
  unfold removeModel
  split
  · exact h
  · refine unref_pending _ (h.of_eq ?_)
    exact (freeFrames_within _ (Within.wrd (stopJobs_within _ (.refl [.wrd] s) (.refl _)) (.refl _) _) (.refl _)).same .objects
      (by decide)

theorem reapModel_pending (id : Nat) (h : GoneOrPending key s) : GoneOrPending key (reapModel id s) := by
  unfold reapModel
  split
  · exact h
  · exact .ite (removeModel_pending id h) h

theorem reapModels_pending (h : GoneOrPending key s) : GoneOrPending key (reapModels s) :=
  .foldl (fun _ e h => reapModel_pending e.1 h) _ h

theorem reapModels_nil (h : s.wrd.models = []) : reapModels s = s := by rw [reapModels, h]; rfl

/-! ### The versions of a graph -/

theorem dropRefMem_graphs (key : Nat) (s : State) : (dropRefMem key s).graphs = s.graphs :=
  (dropRefMem_within key (.refl [.port, .mem, .hub, .objects, .front, .bramble, .chest, .jnl] s) (.refl _)).same .graphs (by decide)

theorem freeVersions_none (h : tget s.graphs key = none) : freeVersions key s = s := by rw [freeVersions, h]

/-- A graph that frees its versions goes, and no other (R56). -/
theorem freeVersions_graph (key g : Nat) (s : State) :
    tget (freeVersions key s).graphs g = if g = key then none else tget s.graphs g := by
  cases hg : tget s.graphs key with
  | none =>
    rw [freeVersions_none hg]
    split
    · next h => rw [h, hg]
    · rfl
  | some x =>
    have hfold : ∀ (vs : List Version) (t : State), (vs.foldl (fun s v => dropRefMem v.imageKey s) t).graphs = t.graphs := by
      intro vs
      induction vs with
      | nil => exact fun _ => rfl
      | cons v vs ih => exact fun t => (ih _).trans (dropRefMem_graphs _ _)
    have hgr : (freeVersions key s).graphs = tdel s.graphs key := by
      rw [freeVersions, hg]
      exact hfold _ _
    rw [hgr, tget_tdel]

/-! ### The last pin (R54, R56) -/

theorem unpin_released (ho : tget s.objects key = some o) (hf : o.freePending = true) (hp : o.pins ≤ 1) (hr : o.refs = 0) :
    unpin key s = releaseOne key (freeVersions key
      { s with objects := tupd s.objects key (fun o => { o with pins := o.pins - 1 }) }) := by
  have h : tget (tupd s.objects key (fun o => { o with pins := o.pins - 1 })) key = some { o with pins := o.pins - 1 } := by
    rw [tget_tupd, if_pos rfl, ho]; rfl
  simp only [unpin, releaseObj, h]
  rw [if_pos]
  simp [hf, hr, Nat.sub_eq_zero_of_le hp]

theorem unpin_kept (ho : tget s.objects key = some o) (h : ¬(o.pins ≤ 1 ∧ o.refs = 0)) :
    unpin key s = { s with objects := tupd s.objects key (fun o => { o with pins := o.pins - 1 }) } := by
  have hu : tget (tupd s.objects key (fun o => { o with pins := o.pins - 1 })) key = some { o with pins := o.pins - 1 } := by
    rw [tget_tupd, if_pos rfl, ho]; rfl
  simp only [unpin, releaseObj, hu]
  rw [if_neg]
  intro hc
  simp only [Bool.and_eq_true, beq_iff_eq, Nat.sub_eq_zero_iff_le] at hc
  exact h ⟨hc.1.2, hc.2⟩

end Sys2Proof.Machine
end

section
/-! SUPPORT for O12. OP_OBJ_FREE (R56) as the release of one object. -/

namespace Sys2Proof.Machine

variable {c q k pos key : Nat} {m : Cmd} {o : Obj} {s : State}

/-- The object that an OP_OBJ_FREE of a queue frees (R56). -/
def Obj.freed (c k pos : Nat) (m : Cmd) (s : State) (o : Obj) : Obj :=
  { o with freePending := true, release := releaseFence k m (begun k pos s), freer := c, freerTag := eTag m.entry, freerAt := (k, pos) }

/-- The state in which the object of an OP_OBJ_FREE is FREE_PENDING and the command's own pin on it is to be dropped (R54, R56). -/
def freeing (c k pos key : Nat) (m : Cmd) (o : Obj) (s : State) : State :=
  State.modC { begun k pos s with objects := tset (begun k pos s).objects key (o.freed c k pos m s) } k pos
    (fun m => { m with pins := removeOne m.pins key })

theorem opObjFree_frees (h : starting (qkey c q) pos 0x10 s = some m)
    (ho : tget s.objects (objKey c (hIndex (fld m.entry 16 4))) = some o) (hf : o.freePending = false) :
    opObjFree c q pos s = finishOk (qkey c q) pos (unpin (objKey c (hIndex (fld m.entry 16 4)))
      (reapModels (freeing c (qkey c q) pos (objKey c (hIndex (fld m.entry 16 4))) m o s))) := by
  rw [← begun_objects (qkey c q) pos s] at ho
  simp only [opObjFree, h, ho, hf]
  rfl

theorem opObjFree_stale (h : starting (qkey c q) pos 0x10 s = some m)
    (hg : GoneOrPending (objKey c (hIndex (fld m.entry 16 4))) s) :
    opObjFree c q pos s = finish (qkey c q) pos .stale 16 (begun (qkey c q) pos s) := by
  rw [GoneOrPending, ← begun_objects (qkey c q) pos s] at hg
  simp only [opObjFree, h]
  split
  · rfl
  · next o ho => rw [if_pos (hg o ho)]

theorem freeing_objects : (freeing c k pos key m o s).objects = tset s.objects key (o.freed c k pos m s) :=
  congrArg (fun t => tset t key (o.freed c k pos m s)) (begun_objects k pos s)

/-- What an OP_OBJ_FREE leaves as it was, until the pin is dropped. -/
theorem freeing_within (c k pos key : Nat) (m : Cmd) (o : Obj) (s : State) :
    Within [.objects, .front, .chest, .jnl] s (freeing c k pos key m o s) :=
  State.modC_within _ _ _ (Within.objects (begun_within k pos (.refl _ s) (by simp [Covers])) (by simp [Covers]) _) (by simp [Covers])

theorem freeing_object : tget (freeing c k pos key m o s).objects key = some (o.freed c k pos m s) := by
  rw [freeing_objects, tget_tset_self]

theorem finishOk_objects (k pos : Nat) (s : State) : (finishOk k pos s).objects = s.objects := rfl

theorem finishOk_graphs (k pos : Nat) (s : State) : (finishOk k pos s).graphs = s.graphs := rfl

theorem finishOk_mem (k pos : Nat) (s : State) : (finishOk k pos s).mem = s.mem := rfl

theorem freeing_reaped (h : s.wrd.models = []) : reapModels (freeing c k pos key m o s) = freeing c k pos key m o s :=
  reapModels_nil (by rw [(freeing_within c k pos key m o s).same .wrd (by decide)]; exact h)

/-- An object that stays is FREE_PENDING (R56). -/
theorem freeing_pending : GoneOrPending key (finishOk k pos (unpin key (reapModels (freeing c k pos key m o s)))) := by
  refine GoneOrPending.of_eq (unpin_pending key (reapModels_pending fun o' ho' => ?_)) (finishOk_objects ..)
  rw [freeing_object] at ho'
  exact Option.some.inj ho' ▸ rfl

/-- The command finishes with ST_OK, whatever the release does to the waits of other commands (R56, R111). -/
theorem freeing_latch (hb : (begun k pos s).cmd k pos = some { m with started := true }) (hl : m.latch = none) :
    ((finishOk k pos (unpin key (reapModels (freeing c k pos key m o s)))).cmd k pos).map (·.latch) = some (some ⟨.ok, 0⟩) := by
  have hc : (freeing c k pos key m o s).cmd k pos = some { m with started := true, pins := removeOne m.pins key } :=
    modC_cmd_self (f := fun m => { m with pins := removeOne m.pins key }) (fun _ => rfl) hb
  obtain ⟨u, hu, hcu⟩ := Option.bind_eq_some_iff.1 hc
  obtain ⟨v, hv, hal⟩ := unpin_alike key (reapModels_alike (.refl (freeing c k pos key m o s))) k u hu
  obtain ⟨m', hm', hl', -⟩ := hal.cmd_some hcu
  have hm : (unpin key (reapModels (freeing c k pos key m o s))).cmd k pos = some m' := by rw [State.cmd, hv]; exact hm'
  have ha := congrArg (Option.map Prod.fst) (finish_answer (st := .ok) (aux := 0) hm (hl'.trans hl))
  rwa [Option.map_map] at ha

/-! ### No other pin or reference (R56) -/

/-- The state in which the object is released: its last pin is dropped. -/
def unpinned (c k pos key : Nat) (m : Cmd) (o : Obj) (s : State) : State :=
  let s := freeing c k pos key m o s
  { s with objects := tupd s.objects key (fun o => { o with pins := o.pins - 1 }) }

theorem unpinned_within (c k pos key : Nat) (m : Cmd) (o : Obj) (s : State) :
    Within [.objects, .front, .chest, .jnl] s (unpinned c k pos key m o s) :=
  Within.objects (freeing_within c k pos key m o s) (by simp [Covers]) _

theorem unpinned_object : tget (unpinned c k pos key m o s).objects key = some { o.freed c k pos m s with pins := o.pins - 1 } := by
  show tget (tupd _ key _) key = _
  rw [tget_tupd, if_pos rfl, freeing_object]
  rfl

theorem unpinned_other {k' : Nat} (h : k' ≠ key) : tget (unpinned c k pos key m o s).objects k' = tget s.objects k' := by
  show tget (tupd _ key _) k' = _
  rw [tget_tupd, if_neg h, freeing_objects, tget_tset_ne _ _ h]

theorem freed_unpin (hp : o.pins ≤ 1) (hr : o.refs = 0) :
    unpin key (freeing c k pos key m o s) = releaseOne key (freeVersions key (unpinned c k pos key m o s)) :=
  unpin_released freeing_object rfl hp hr

theorem kept_unpin (h : ¬(o.pins ≤ 1 ∧ o.refs = 0)) : unpin key (freeing c k pos key m o s) = unpinned c k pos key m o s :=
  unpin_kept freeing_object h

/-- Every other object is as it was where the object is no graph (R56). -/
theorem freeing_other (hg : tget s.graphs key = none) {k' : Nat} (h : k' ≠ key) :
    tget (unpin key (freeing c k pos key m o s)).objects k' = tget s.objects k' := by
  have hgu : tget (unpinned c k pos key m o s).graphs key = none := by
    rw [(unpinned_within c k pos key m o s).same .graphs (by decide)]; exact hg
  by_cases hrel : o.pins ≤ 1 ∧ o.refs = 0
  · rw [freed_unpin hrel.1 hrel.2, freeVersions_none hgu, releaseOne_object, if_neg h, unpinned_other h]
  · rw [kept_unpin hrel, unpinned_other h]

/-- Every other graph is as it was. -/
theorem freeing_graph {g : Nat} (h : g ≠ key) :
    tget (unpin key (freeing c k pos key m o s)).graphs g = tget s.graphs g := by
  have hgu : (unpinned c k pos key m o s).graphs = s.graphs := (unpinned_within c k pos key m o s).same .graphs (by decide)
  by_cases hrel : o.pins ≤ 1 ∧ o.refs = 0
  · rw [freed_unpin hrel.1 hrel.2, releaseOne_graphs, freeVersions_graph, if_neg h, hgu]
  · rw [kept_unpin hrel, hgu]

theorem objKey_ctx (c h : Nat) : objKey c (hIndex h) / 2 ^ 20 = c := by
  have hlt : hIndex h < 2 ^ 20 := Nat.mod_lt _ (by decide)
  rw [objKey]
  omega

/-- Where no release fence is named the release writes the state 0x00 to the entry, and nothing else to memory (R56). -/
theorem freeing_mem {x : Context} (hg : tget s.graphs key = none) (hp : o.pins ≤ 1) (hr : o.refs = 0) (hc : key / 2 ^ 20 = c)
    (hx : tget s.contexts c = some x) (hn : fld m.entry 20 4 = 0)
    (hd : hostDropped ((entryLoc x.rcd (key % 2 ^ 20)).plus 2) s = false) :
    (unpin key (freeing c k pos key m o s)).mem = s.mem.write ((entryLoc x.rcd (key % 2 ^ 20)).plus 2) [0] := by
  have hw := unpinned_within c k pos key m o s
  have hgu : tget (unpinned c k pos key m o s).graphs key = none := by rw [hw.same .graphs (by decide)]; exact hg
  have hcu : (unpinned c k pos key m o s).contexts = s.contexts := hw.same .contexts (by decide)
  have hpu : (unpinned c k pos key m o s).port = s.port := hw.same .port (by decide)
  have hmu : (unpinned c k pos key m o s).mem = s.mem := hw.same .mem (by decide)
  have hrf : (o.freed c k pos m s).release = none := by simp only [Obj.freed, releaseFence, hn, if_true]
  rw [freed_unpin hp hr, freeVersions_none hgu, releaseOne_eq unpinned_object]
  simp only [hrf]
  refine (entryCleared_mem (x := x) ?_ ?_).trans ?_
  · rw [hc]; exact hcu ▸ hx
  · simp only [hostDropped, hpu]; exact hd
  · exact congrArg (fun w : Mems => w.write ((entryLoc x.rcd (key % 2 ^ 20)).plus 2) [0]) hmu

end Sys2Proof.Machine
end

section
/-! O12: Bramble's own commands, OP_OBJ_FREE and OP_BARRIER_JOIN. -/

namespace Sys2Proof.Machine

/-- Settles O12: command by command, and OP_OBJ_FREE by whether its object is there and whether others still use it. -/
theorem brambleFinishesCommands : Obligations.BrambleFinishesCommands := by
  unfold Obligations.BrambleFinishesCommands
  refine ⟨fun c q pos m s => ⟨?nop, ?wait, ?signal, ?timestamp, ?query⟩, fun c q pos m s hs => ⟨fun hgone => ?stale, ?frees⟩, ?join⟩
  case nop =>
    intro hs
    exact ⟨_, rfl, finishNop_cmd hs, fun _ _ => finishNop_other hs, onlyIn_of_exec (c := .opNop c q pos) rfl⟩
  case wait =>
    intro hs
    exact ⟨_, rfl, finishNop_cmd hs, fun _ _ => finishNop_other hs, onlyIn_of_exec (c := .opFenceWait c q pos) rfl⟩
  case signal =>
    intro hs
    exact ⟨_, rfl, finishNop_cmd hs, fun _ _ => finishNop_other hs, onlyIn_of_exec (c := .opFenceSignal c q pos) rfl⟩
  case timestamp =>
    intro l hs hl
    have he : Machine.exec (.opTimestamp c q pos) s = .next (finishedWith (qkey c q) pos m 16 24 (le 8 m.dispatchedAt) s) :=
      congrArg Host.Outcome.next (opTimestamp_eq hs)
    exact ⟨_, he, finishedWith_cmd hs hl, fun _ _ => finishedWith_other hs hl, onlyIn_of_exec he⟩
  case query =>
    intro l hs hl
    have he : Machine.exec (.opQuery c q pos) s = .next (finishedWith (qkey c q) pos m 24 32 (wordBytes m.snapshot) s) :=
      congrArg Host.Outcome.next (opQuery_eq hs)
    exact ⟨_, he, finishedWith_cmd hs hl, fun _ _ => finishedWith_other hs hl, onlyIn_of_exec he⟩
  case stale =>
    have hg : GoneOrPending (objKey c (hIndex (fld m.entry 16 4))) s := fun o ho => by
      rcases hgone with h | ⟨o', ho', hf⟩
      · rw [h] at ho; cases ho
      · obtain rfl : o' = o := Option.some.inj (ho'.symm.trans ho)
        exact hf
    obtain ⟨hb, hl⟩ := begun_starting hs
    have hw := finish_within (qkey c q) pos .stale 16 (begun_within (qkey c q) pos (.refl [.front, .chest, .jnl] s) (.refl _))
      (by simp [Covers])
    have ha := congrArg (Option.map Prod.fst) (finish_answer (st := .stale) (aux := 16) hb hl)
    rw [Option.map_map] at ha
    exact ⟨_, congrArg Host.Outcome.next (opObjFree_stale hs hg), hw.same .objects (by decide), ha, hw.onlyIn⟩
  case frees =>
    intro o ho hf
    obtain ⟨hb, hl⟩ := begun_starting hs
    have hctx := objKey_ctx c (fld m.entry 16 4)
    have he := opObjFree_frees hs ho hf
    generalize objKey c (hIndex (fld m.entry 16 4)) = key at ho hctx he ⊢
    refine ⟨_, congrArg Host.Outcome.next he, freeing_latch hb hl, freeing_pending, fun hmodels => ?_⟩
    rw [freeing_reaped hmodels]
    refine ⟨fun hp hr => ⟨?_, ?_, fun x hg hx hn hd => ?_⟩, fun hk => ⟨?_, ?_⟩, fun hg k' hk' => ?_, fun g hne => ?_⟩
    · rw [finishOk_objects, freed_unpin hp hr, releaseOne_object, if_pos rfl]
    · rw [finishOk_graphs, freed_unpin hp hr, releaseOne_graphs, freeVersions_graph, if_pos rfl]
    · rw [finishOk_mem]
      exact freeing_mem hg hp hr hctx hx hn hd
    · rw [finishOk_objects, kept_unpin hk, unpinned_object]
      rfl
    · rw [finishOk_graphs, kept_unpin hk]
      exact (unpinned_within ..).same .graphs (by decide)
    · rw [finishOk_objects]
      exact freeing_other hg hk'
    · rw [finishOk_graphs]
      exact freeing_graph hne
  case join =>
    intro c q pos m j s hs slot hj hc hq hp
    have hw := begun_within (qkey c q) pos (.refl [.front, .chest, .jnl] s) (.refl _)
    have he : Machine.exec (.opBarrierJoin c q pos) s = _ := congrArg Host.Outcome.next (opBarrierJoin_eq hs hj hc hq hp)
    obtain ⟨hb, -⟩ := begun_starting hs
    refine ⟨_, he, ?_, hb, onlyIn_of_exec he⟩
    simp only [emit, show (begun (qkey c q) pos s).port = s.port from hw.same .port (by decide)]
    rfl

end Sys2Proof.Machine
end

section
/-! SUPPORT for O15. A fault teardown leaves the count of verdicts and every other context's state. -/

namespace Sys2Proof.Machine

variable {k pos c : Nat} {l : Latch} {u : Queue} {s s0 : State}

/-! ### The count of verdicts (R132) -/

/-- What leaves Bramble alone keeps the count. -/
theorem Within.dlkCnt {fp : List Part} (h : Within fp s0 s) (hp : Part.bramble ∉ fp) : s.bramble.dlkCnt = s0.bramble.dlkCnt :=
  congrArg Bramble.dlkCnt (h.same .bramble hp :)

theorem shutting_dlkCnt (k : Nat) (l : Latch) (u : Queue) (s : State) : (shutting k l u s).bramble.dlkCnt = s.bramble.dlkCnt := by
  have hdrop : ∀ t : State, (dropShadows t).bramble.dlkCnt = t.bramble.dlkCnt := fun _ => rfl
  rw [shutting, hdrop]
  exact Within.dlkCnt (fp := [.port, .hub, .contexts, .slices, .trestle, .sched, .wrd, .chest, .watch, .jnl, .power, .link, .front])
    (stopWork_within _ (State.modQ_within k _ (Within.foldl (fun _ c h => dropCmdCells_within k c.pos (eOp c.entry) h
    (by simp [Covers])) _ (Within.foldl (fun _ f h => dropItem_within 1 k f.pos h (by simp [Covers])) _
      (discardCells_within 0 k (.refl _ s) (by simp [Covers])))) (by simp [Covers])) (by simp [Covers])) (by decide)

theorem shutQueue_dlkCnt (k : Nat) (l : Latch) (s : State) : (shutQueue k l s).bramble.dlkCnt = s.bramble.dlkCnt := by
  cases hu : tget s.front.queues k with
  | none => rw [shutQueue, hu]
  | some u =>
    rw [shutQueue_eq hu]
    exact (Within.dlkCnt (settleQueue_within k (settleStops_within (.refl [.front] _) (.refl _)) (.refl _)) (by decide)).trans
      (shutting_dlkCnt k l u s)

theorem shutAll_dlkCnt (l : Latch) (qs : Tab Queue) (s : State) : (shutAll l qs s).bramble.dlkCnt = s.bramble.dlkCnt := by
  induction qs generalizing s with
  | nil => rfl
  | cons a qs ih =>
    refine (ih (if a.2.enabled then shutQueue a.1 l s else s)).trans ?_
    split
    · exact shutQueue_dlkCnt _ _ _
    · rfl

theorem stopRest_dlkCnt (c : Nat) (s : State) : (stopRest c s).bramble.dlkCnt = s.bramble.dlkCnt :=
  Within.dlkCnt (fp := [.port, .hub, .contexts, .slices, .trestle, .sched, .wrd, .chest, .watch, .jnl, .power, .link])
    (decisionPass_within (dropIdleRes_within c (Within.link (dropJobs_within _ (requestStops_within _ (.refl _ s) (by simp [Covers]))
      (by simp [Covers])) (by simp [Covers]) _) (by simp [Covers])) (by simp [Covers])) (by decide)

theorem beginTeardown_dlkCnt (c : Nat) (info : FaultInfo) (hr : Option (Nat × List Byte)) (s : State) :
    (beginTeardown c true info hr s).bramble.dlkCnt = s.bramble.dlkCnt := by
  unfold beginTeardown
  split
  · rfl
  · next x _ =>
    split
    · rfl
    · rw [stopContext_fault, stopRest_dlkCnt, shutAll_dlkCnt]
      exact Within.dlkCnt (oweMsix_within _ (forgetReleases_within c (markTeardown_within c true info hr x
        (.refl [.port, .mem, .contexts, .watch, .hutch, .objects, .front] s) (by simp [Covers])) (by simp [Covers])) (by simp [Covers]))
        (by decide)

/-! ### The other contexts -/

/-- A teardown changes the state of its own context alone (R36, R37). -/
theorem beginTeardown_others (fault : Bool) (info : FaultInfo) (hr : Option (Nat × List Byte)) (s : State) {k : Nat} (hk : k ≠ c) :
    (tget (beginTeardown c fault info hr s).contexts k).map (·.state) = (tget s.contexts k).map (·.state) := by
  unfold beginTeardown
  split
  · rfl
  · next x _ =>
    split
    · rfl
    · have hq := congrArg (Option.map (fun y => y.2.1)) ((stopContext_quiet c fault
        (if fault then { status := .contextLost, aux := info.status.code } else { status := .aborted, aux := 3 })
        (.refl (markTeardown c fault info hr x s))).ctx_facts k)
      rw [Option.map_map, Option.map_map] at hq
      refine hq.trans ?_
      rw [markTeardown_contexts, tget_tset_ne _ _ hk]
      rfl

/-! ### A fault of a command -/

theorem faultCmd_dlkCnt (k pos : Nat) (info : FaultInfo) (hr : Option (Nat × List Byte)) (s : State) :
    (faultCmd k pos info hr s).bramble.dlkCnt = s.bramble.dlkCnt := by
  unfold faultCmd
  split
  · rfl
  · split
    · rfl
    · exact (beginTeardown_dlkCnt ..).trans
        (Within.dlkCnt (faultLatch_within k pos info.status info.aux (.refl [.front, .chest, .jnl] s) (.refl _)) (by decide))

theorem faultCmd_others (k pos : Nat) (info : FaultInfo) (hr : Option (Nat × List Byte)) (s : State) (hc : c ≠ k / 256) :
    (tget (faultCmd k pos info hr s).contexts c).map (·.state) = (tget s.contexts c).map (·.state) := by
  unfold faultCmd
  split
  · rfl
  · split
    · rfl
    · have hw := faultLatch_within k pos info.status info.aux (.refl [.front, .chest, .jnl] s) (.refl _)
      exact (beginTeardown_others true _ hr _ hc).trans (by rw [hw.same .contexts (by decide)])

end Sys2Proof.Machine
end

section
/-! O15: a scan whose set stood still gives the verdict, and any other changes the account of the scan alone. -/

namespace Sys2Proof.Machine

/-! ### The scan -/

/-- No fence that the heads of a set await has risen since the last scan (R131). -/
def Stood (k : List Stuck) (s : State) : Prop :=
  ∀ x ∈ k, ∀ w ∈ x.head.waits, w.met = false → s.bramble.rises.contains w.ref.loc = false

/-- The account that a scan leaves for the next one (R131). -/
def scanned (keys : List Nat) (s : State) : State := { s with bramble := { s.bramble with prevSet := keys, rises := [] } }

/-- What the scan tests before a verdict (R131): the set is not empty, is the one of the last scan, and stood. -/
def stillStands (k : List Stuck) (s : State) : Bool :=
  !k.isEmpty && (k.map (·.key) == s.bramble.prevSet) &&
    (k.map (fun x => (x.head.waits.filter (fun w => !w.met)).map (fun w => w.ref.loc))).flatten.all
      (fun l => !s.bramble.rises.contains l)

theorem stillStands_iff (k : List Stuck) (s : State) :
    stillStands k s = true ↔ (k ≠ [] ∧ k.map (·.key) = s.bramble.prevSet) ∧ Stood k s := by
  rw [stillStands, Bool.and_eq_true, Bool.and_eq_true, Bool.not_eq_true', List.isEmpty_eq_false_iff, beq_iff_eq]
  refine and_congr_right fun _ => ?_
  simp only [List.all_eq_true, List.mem_flatten, List.mem_map, Bool.not_eq_true', Stood]
  constructor
  · intro h x hx w hw hm
    exact h w.ref.loc ⟨_, ⟨x, hx, rfl⟩, List.mem_map.2 ⟨w, List.mem_filter.2 ⟨hw, by rw [hm]; rfl⟩, rfl⟩⟩
  · rintro h l ⟨_, ⟨x, hx, rfl⟩, hl⟩
    obtain ⟨w, hw, rfl⟩ := List.mem_map.1 hl
    obtain ⟨hw, hm⟩ := List.mem_filter.1 hw
    exact h x hx w hw (by simpa using hm)

/-- The set of a scan (R131). -/
def scanSet (s : State) : List Stuck := closedSet (stuckQueues s).length (stuckQueues s)

section
variable {s : State}

theorem deadlockScan_on (he : s.bramble.dlkEnable = true) : deadlockScan s =
    scanned ((scanSet s).map (·.key)) (if stillStands (scanSet s) s then verdict (scanSet s) s else s) := by
  rw [deadlockScan, he]
  rfl

theorem deadlockScan_still (he : s.bramble.dlkEnable = true) (hne : scanSet s ≠ [])
    (hp : (scanSet s).map (·.key) = s.bramble.prevSet) (hq : Stood (scanSet s) s) :
    deadlockScan s = scanned ((scanSet s).map (·.key)) (verdict (scanSet s) s) := by
  rw [deadlockScan_on he, if_pos ((stillStands_iff _ s).2 ⟨⟨hne, hp⟩, hq⟩)]

theorem deadlockScan_moved (he : s.bramble.dlkEnable = true)
    (h : scanSet s = [] ∨ (scanSet s).map (·.key) ≠ s.bramble.prevSet ∨ ¬Stood (scanSet s) s) :
    deadlockScan s = scanned ((scanSet s).map (·.key)) s := by
  rw [deadlockScan_on he, if_neg fun hs => ?_]
  obtain ⟨⟨hne, hp⟩, hq⟩ := (stillStands_iff _ s).1 hs
  exact h.elim hne fun h => h.elim (· hp) (· hq)

theorem victimOf_ne_nil {k : List Stuck} {v : Stuck} (hv : victimOf k = some v) : k ≠ [] := by
  rintro rfl
  cases hv

/-- The state in which the victim's head takes its fault: the verdict is counted (R132). -/
def counted (s : State) : State := { s with bramble := { s.bramble with dlkCnt := satInc 32 s.bramble.dlkCnt } }

/-- A verdict faults the head of the victim, and then reports (R132). -/
theorem verdict_eq {k : List Stuck} {v : Stuck} (hv : victimOf k = some v) :
    ∃ e hr, verdict k s = raiseEvent e (faultCmd v.key v.head.pos (FaultInfo.of .deadlock k.length s.now) hr (counted s)) := by
  unfold verdict
  rw [hv]
  exact ⟨_, _, rfl⟩

/-- A verdict on a live victim (R132): its head takes ST_DEADLOCK with the size of the set, its context is torn down, and no other
context changes its state. -/
theorem verdict_victim {k : List Stuck} {v : Stuck} {x : Context} (hv : victimOf k = some v)
    (hx : tget s.contexts (v.key / 256) = some x) (ha : x.state = .active) (hm : s.cmd v.key v.head.pos = some v.head)
    (hl : v.head.latch = none) :
    ((verdict k s).cmd v.key v.head.pos).map (·.latch) = some (some ⟨.deadlock, k.length⟩) ∧
    FaultTeardownBegun (v.key / 256) s (verdict k s) (fun i => i.status = .deadlock ∧ i.aux = k.length) ∧
    (verdict k s).bramble.dlkCnt = satInc 32 s.bramble.dlkCnt ∧
    ∀ c, c ≠ v.key / 256 → (tget (verdict k s).contexts c).map (·.state) = (tget s.contexts c).map (·.state) := by
  obtain ⟨e, hr, he⟩ := verdict_eq (s := s) hv
  obtain ⟨⟨htaken, -⟩, hbegun⟩ := faultCmd_faulted (k := v.key) (pos := v.head.pos) (s := counted s)
    (info := FaultInfo.of .deadlock k.length s.now) (why := fun i => i.status = .deadlock ∧ i.aux = k.length)
    ⟨v.head, x, hm, hl, hx, ha⟩ hr (fun _ _ => ⟨rfl, rfl⟩)
  rw [he]
  refine ⟨?_, ?_, ?_, fun c hc => ?_⟩
  · rw [State.cmd, raiseEvent_front]; exact htaken
  · rw [FaultTeardownBegun, raiseEvent_contexts]; exact hbegun
  · rw [raiseEvent_bramble]; exact faultCmd_dlkCnt _ _ _ hr (counted s)
  · rw [raiseEvent_contexts]; exact faultCmd_others _ _ _ hr (counted s) hc

end

/-- Settles O15: the scan by its switch and by whether its set stood still, and the verdict on the victim. -/
theorem deadlockVerdicts : Obligations.DeadlockVerdicts := by
  unfold Obligations.DeadlockVerdicts
  intro s
  refine ⟨fun he => congrArg Host.Outcome.next (by rw [deadlockScan, he]; rfl), fun he => ⟨_, rfl, ?_⟩⟩
  rw [deadlockScan_on he]
  refine ⟨rfl, rfl, fun h => ?_, fun v x hp hq hv hx ha hm hl => ?_⟩
  · rw [← deadlockScan_on he, deadlockScan_moved he h]
    exact ⟨rfl, rfl, rfl, (Within.bramble (.refl [.bramble] s) (.refl _) _).onlyIn⟩
  · rw [← deadlockScan_on he, deadlockScan_still he (victimOf_ne_nil hv) hp hq]
    exact verdict_victim hv hx ha hm hl

end Sys2Proof.Machine
end

section
/-! SUPPORT for O29. What a copy and a zeroing of a range of a memory give, byte by byte (R112, R231, R472). -/

namespace Sys2Proof.Machine

/-! ### Cells -/

theorem cellGet_filter (m : List Host.Cell) (p : Nat → Bool) (x : Nat) :
    cellGet (m.filter (fun c => p c.1)) x = if p x then cellGet m x else 0 := by
  induction m with
  | nil => simp [cellGet]
  | cons c m ih =>
    obtain ⟨a, v⟩ := c
    rw [List.filter_cons]
    by_cases hp : p a = true
    · rw [if_pos hp]
      by_cases ha : a = x
      · subst ha; simp [cellGet, hp]
      · simp [cellGet, ha, ih]
    · rw [if_neg hp, ih]
      by_cases ha : a = x
      · subst ha; simp [hp]
      · simp [cellGet, ha]

theorem cellGet_clearRange (m : List Host.Cell) (a n x : Nat) :
    cellGet (clearRange m a n) x = if a ≤ x ∧ x < a + n then 0 else cellGet m x := by
  rw [clearRange, cellGet_filter m (fun c => decide (c < a ∨ a + n ≤ c))]
  by_cases h : a ≤ x ∧ x < a + n
  · rw [if_pos h, if_neg (by simp only [decide_eq_true_eq]; omega)]
  · rw [if_neg h, if_pos (by simp only [decide_eq_true_eq]; omega)]

/-- A byte after the cells of a canonical memory from a on have been put where they lie from b on. -/
theorem cellGet_foldPut {cs d : List Host.Cell} {a b : Nat} (k : Nat) (hc : memWfP cs) (ha : ∀ e ∈ cs, a ≤ e.1) (hd : memWfP d) :
    cellGet (cs.foldl (fun d c => cellPut d (c.1 - a + b) c.2) d) k =
      if b ≤ k ∧ cellGet cs (k - b + a) ≠ 0 then cellGet cs (k - b + a) else cellGet d k := by
  induction cs generalizing d with
  | nil => simp [cellGet]
  | cons e cs ih =>
    obtain ⟨x, v⟩ := e
    obtain ⟨hv, habove, hcs⟩ := hc
    have hx : a ≤ x := ha _ (List.mem_cons_self ..)
    rw [List.foldl_cons, ih hcs (fun e he => ha e (List.mem_cons_of_mem _ he)) (memWfP_cellPut _ _ hd), cellGet_cellPut _ _ _ hd]
    by_cases hk : k = x - a + b
    · have hkx : k - b + a = x := by omega
      simp only [hkx, cellGet_of_above habove le_rfl, cellGet, if_true]
      rw [if_neg (by simp), if_pos hk, if_pos ⟨by omega, hv⟩]
    · rw [if_neg hk]
      by_cases hb : b ≤ k
      · have hne : x ≠ k - b + a := by omega
        simp only [cellGet, hne, if_false]
      · rw [if_neg (fun h => hb h.1), if_neg (fun h => hb h.1)]

/-- A copy puts the bytes of the range it reads, and leaves every other byte. -/
theorem cellGet_copyCells {src dst : List Host.Cell} (a n b k : Nat) (hs : memWfP src) (hd : memWfP dst) :
    cellGet (copyCells src a n dst b) k = if b ≤ k ∧ k < b + n then cellGet src (k - b + a) else cellGet dst k := by
  have hf := cellGet_filter src (fun x => decide (a ≤ x ∧ x < a + n)) (k - b + a)
  rw [copyCells, cellGet_foldPut k (memWfP_filter _ hs) (fun e he => (of_decide_eq_true (List.mem_filter.1 he).2).1)
    (memWfP_clearRange _ _ hd), hf, cellGet_clearRange]
  by_cases h : b ≤ k ∧ k < b + n
  · rw [if_pos (show decide (a ≤ k - b + a ∧ k - b + a < a + n) = true by simp only [decide_eq_true_eq]; omega), if_pos h, if_pos h]
    by_cases hz : cellGet src (k - b + a) = 0
    · rw [if_neg fun e => e.2 hz, hz]
    · rw [if_pos ⟨h.1, hz⟩]
  · rw [if_neg h, if_neg h]
    by_cases hb : b ≤ k
    · rw [if_neg (show ¬decide (a ≤ k - b + a ∧ k - b + a < a + n) = true by simp only [decide_eq_true_eq]; omega), if_neg fun e => e.2 rfl]
    · rw [if_neg fun e => hb e.1]

/-! ### Ranges of a state's memories -/

variable {s t : State} {l k : Loc} {n m : Nat}

theorem Mems.of_put (w : Mems) (sp sp' : Space) (x : List Host.Cell) : (w.put sp x).of sp' = if sp' = sp then x else w.of sp' := by
  cases sp <;> cases sp' <;> rfl

/-- Two ranges have no byte in common. -/
def Apart (l : Loc) (n : Nat) (k : Loc) (m : Nat) : Prop := l.space ≠ k.space ∨ l.addr + n ≤ k.addr ∨ k.addr + m ≤ l.addr

/-- A run of bytes reads as another where each byte does. -/
theorem memRead_eq_of_cells
    (h : ∀ i, i < n → cellGet (t.mem.of l.space) (l.addr + i) = cellGet (s.mem.of k.space) (k.addr + i)) :
    memRead l n t = memRead k n s :=
  List.map_congr_left fun i hi => h i (List.mem_range.1 hi)

theorem memCopy_cell (hs : s.MemOk) (src dst : Loc) (n : Nat) (sp : Space) (a : Nat) :
    cellGet ((memCopy src dst n s).mem.of sp) a =
      if sp = dst.space ∧ dst.addr ≤ a ∧ a < dst.addr + n then cellGet (s.mem.of src.space) (a - dst.addr + src.addr)
      else cellGet (s.mem.of sp) a := by
  have hc := (Mems.wf_iff s.mem).1 hs
  rw [memCopy, Mems.of_put]
  by_cases h : sp = dst.space
  · subst h
    rw [if_pos rfl, cellGet_copyCells _ _ _ _ (hc.of _) (hc.of _)]
    simp only [true_and]
  · rw [if_neg h, if_neg fun e => h e.1]

theorem memZero_cell (l : Loc) (n : Nat) (s : State) (sp : Space) (a : Nat) :
    cellGet ((memZero l n s).mem.of sp) a = if sp = l.space ∧ l.addr ≤ a ∧ a < l.addr + n then 0 else cellGet (s.mem.of sp) a := by
  rw [memZero, Mems.of_put]
  by_cases h : sp = l.space
  · subst h
    rw [if_pos rfl, cellGet_clearRange]
    simp only [true_and]
  · rw [if_neg h, if_neg fun e => h e.1]

/-- What a copy carries (R112). -/
theorem memRead_memCopy (hs : s.MemOk) (src dst : Loc) (n : Nat) : memRead dst n (memCopy src dst n s) = memRead src n s :=
  memRead_eq_of_cells fun i hi => by
    rw [memCopy_cell hs, if_pos ⟨rfl, by omega, by omega⟩]
    congr 1
    omega

theorem memRead_memCopy_apart (hs : s.MemOk) (src : Loc) (h : Apart l n k m) : memRead k m (memCopy src l n s) = memRead k m s :=
  memRead_eq_of_cells fun i hi => by
    rw [memCopy_cell hs, if_neg]
    rintro ⟨hsp, h1, h2⟩
    rcases h with h | h | h
    · exact h hsp.symm
    · omega
    · omega

theorem memRead_memZero (l : Loc) (n : Nat) (s : State) : memRead l n (memZero l n s) = zeros n := by
  refine List.ext_getElem (by simp [memRead, readN, zeros]) fun i h1 h2 => ?_
  have hi : i < n := by simpa [memRead, readN] using h1
  simp only [memRead, readN, List.getElem_map, List.getElem_range, zeros, List.getElem_replicate]
  rw [memZero_cell, if_pos ⟨rfl, by omega, by omega⟩]

theorem memRead_memZero_apart (h : Apart l n k m) : memRead k m (memZero l n s) = memRead k m s :=
  memRead_eq_of_cells fun i hi => by
    rw [memZero_cell, if_neg]
    rintro ⟨hsp, h1, h2⟩
    rcases h with h | h | h
    · exact h hsp.symm
    · omega
    · omega

/-- The part of a zeroed range that a later copy leaves. -/
theorem memRead_memZero_part (h : k.space = l.space) (h1 : l.addr ≤ k.addr) (h2 : k.addr + m ≤ l.addr + n) :
    memRead k m (memZero l n s) = zeros m := by
  refine List.ext_getElem (by simp [memRead, readN, zeros]) fun i hi _ => ?_
  have hm : i < m := by simpa [memRead, readN] using hi
  simp only [memRead, readN, List.getElem_map, List.getElem_range, zeros, List.getElem_replicate]
  rw [memZero_cell, if_pos ⟨h, by omega, by omega⟩]

theorem memZero_ok (hs : s.MemOk) (l : Loc) (n : Nat) : (memZero l n s).MemOk :=
  (Mems.wf_iff _).2 ((memZero_within l n (.refl [.mem] s) (.refl _)).canon ((Mems.wf_iff _).1 hs))

theorem memCopy_ok (hs : s.MemOk) (src dst : Loc) (n : Nat) : (memCopy src dst n s).MemOk :=
  (Mems.wf_iff _).2 ((memCopy_within src dst n (.refl [.mem] s) (.refl _)).canon ((Mems.wf_iff _).1 hs))

theorem memRead_length (l : Loc) (n : Nat) (s : State) : (memRead l n s).length = n := by simp [memRead, readN]

/-- A byte outside a range is apart from it. -/
theorem Apart.of_outside (h : k.space ≠ l.space ∨ k.addr < l.addr ∨ l.addr + n ≤ k.addr) : Apart l n k 1 := by
  rcases h with h | h | h
  · exact .inl h.symm
  · exact .inr (.inr h)
  · exact .inr (.inl h)

theorem memCopy_unchanged (hs : s.MemOk) (src : Loc) (l : Loc) (n : Nat) : UnchangedOutside l n s (memCopy src l n s) :=
  fun _ hk => memRead_memCopy_apart hs src (.of_outside hk)

theorem UnchangedOutside.of_mem {t' : State} (h : UnchangedOutside l n s t) (hm : t'.mem = t.mem) : UnchangedOutside l n s t' :=
  fun k hk => (memRead_congr hm k 1).trans (h k hk)

end Sys2Proof.Machine
end

section
/-! SUPPORT for O29. A mover's choice of the job it serves, and what its piece does to it (R451, R505); the job that a command becomes. -/

namespace Sys2Proof.Machine

variable {mv i : Nat} {slot : Option Nat} {x : Mover} {j : MoveJob} {s t : State}

/-! ### The mover with the fewest bytes outstanding (R505) -/

theorem leastMover_none {ms : List Mover} {b : Nat} (h : leastMover b ms = none) : ms = [] := by
  cases ms with
  | nil => rfl
  | cons m ms =>
    simp only [leastMover] at h
    split at h
    · split at h <;> cases h
    · cases h

/-- The mover chosen among those from a number on: no other has fewer bytes outstanding, and none before it as few. -/
theorem leastMover_spec {ms : List Mover} {b n w : Nat} (h : leastMover b ms = some (n, w)) :
    ∃ d y, n = b + d ∧ ms[d]? = some y ∧ w = y.outstanding ∧
      ∀ k z, ms[k]? = some z → w ≤ z.outstanding ∧ (k < d → w < z.outstanding) := by
  induction ms generalizing b n w with
  | nil => cases h
  | cons m ms ih =>
    simp only [leastMover] at h
    cases hr : leastMover (b + 1) ms with
    | none =>
      obtain rfl := leastMover_none hr
      rw [hr] at h
      obtain ⟨rfl, rfl⟩ := Prod.mk.inj (Option.some.inj h)
      refine ⟨0, m, rfl, rfl, rfl, fun k z hz => ?_⟩
      cases k with
      | zero => obtain rfl : m = z := Option.some.inj hz; exact ⟨le_rfl, fun hk => absurd hk (Nat.lt_irrefl 0)⟩
      | succ k => cases hz
    | some r =>
      obtain ⟨n', w'⟩ := r
      obtain ⟨d, y, hn, hy, hw, hall⟩ := ih hr
      rw [hr] at h
      dsimp only at h
      split at h
      · next hle =>
        obtain ⟨rfl, rfl⟩ := Prod.mk.inj (Option.some.inj h)
        refine ⟨0, m, rfl, rfl, rfl, fun k z hz => ⟨?_, fun hk => absurd hk (Nat.not_lt_zero k)⟩⟩
        cases k with
        | zero => obtain rfl : m = z := Option.some.inj hz; exact le_rfl
        | succ k => exact hle.trans (hall k z hz).1
      · next hlt =>
        obtain ⟨rfl, rfl⟩ := Prod.mk.inj (Option.some.inj h)
        refine ⟨d + 1, y, by omega, hy, hw, fun k z hz => ?_⟩
        cases k with
        | zero => obtain rfl : m = z := Option.some.inj hz; exact ⟨by omega, fun _ => by omega⟩
        | succ k => exact ⟨(hall k z hz).1, fun hk => (hall k z hz).2 (by omega)⟩

theorem leastMover_eq (h : LeastMover i s) : ((leastMover 0 s.wrd.movers).map (·.1)).getD 0 = i := by
  obtain ⟨y, hy, hleast⟩ := h
  cases hl : leastMover 0 s.wrd.movers with
  | none => rw [leastMover_none hl] at hy; cases hy
  | some r =>
    obtain ⟨n, w⟩ := r
    obtain ⟨d, z, hn, hz, hw, hall⟩ := leastMover_spec hl
    have hd : n = d := by omega
    subst hd
    show n = i
    rcases Nat.lt_trichotomy n i with hlt | heq | hgt
    · exact absurd ((hleast n z hz).2 hlt) (by have := (hall i y hy).1; omega)
    · exact heq
    · exact absurd ((hall i y hy).2 hgt) (by have := (hleast n z hz).1; omega)

/-! ### A command becomes a job (R112) -/

/-- A copy or fill touches no frame, so no background job comes forward for it (R232). -/
theorem hurry_command {kind : MoveKind} (ht : kind.target = []) (hf : kind.frames = []) (work : Option Nat) (s : State) :
    hurry kind work s = s := by
  have hmeet : ∀ a : MoveKind, a.meets kind = false := fun a => by simp [MoveKind.meets, ht, hf]
  have hm : s.wrd.movers.map (fun m : Mover => { m with jobs := m.jobs.map (fun j =>
      if j.background && j.kind.meets kind then { j with background := false, work := work } else j) }) = s.wrd.movers := by
    refine (List.map_congr_left fun m _ => ?_).trans (List.map_id' _)
    simp only [hmeet, Bool.and_false, Bool.false_eq_true, if_false, List.map_id']
  rw [hurry, hm]

/-- The job that a command becomes on a mover (R112). -/
def MoveJob.given (i : Nat) (kind : MoveKind) (total : Nat) (who : Payer) (s : State) : MoveJob :=
  { id := s.wrd.nextJob, mover := i, kind := kind, total := total, done := 0, background := false, stopped := false,
    ctx := who.ctx, tenant := who.tenant, key := who.key, work := who.work }

theorem startJob_command {kind : MoveKind} (ht : kind.target = []) (hf : kind.frames = []) (total : Nat) (who : Payer)
    (hi : LeastMover i s) : JobGiven i (.given i kind total who s) s (startJob kind total false who s) := by
  have hwrd : (startJob kind total false who s).wrd.movers =
      s.wrd.movers.modify i (fun x => { x with jobs := x.jobs ++ [.given i kind total who s] }) := by
    simp only [startJob, Bool.false_eq_true, if_false, hurry_command ht hf, leastMover_eq hi]
    rfl
  refine ⟨fun x hx => ?_, fun k hk => ?_⟩
  · rw [hwrd, List.getElem?_modify_eq, hx]; rfl
  · rw [hwrd, List.getElem?_modify_ne _ _ (Ne.symm hk)]

section
variable {c q pos k op : Nat} {m : Cmd}

theorem begun_wrd (k pos : Nat) (s : State) : (begun k pos s).wrd = s.wrd :=
  (begun_within k pos (.refl [.front, .chest, .jnl] s) (.refl _)).same .wrd (by decide)

theorem begun_others (k pos : Nat) (s : State) : OtherQueuesSame k s (begun k pos s) := fun k' hk => by
  have hf : (begun k pos s).front = (s.modC k pos (fun m => { m with started := true })).front := consumeItem_front ..
  rw [hf, State.modC, State.modQ_tget, if_neg hk]

theorem finish_others {st : Status} {aux : Nat} (h : OtherQueuesSame k s t) : OtherQueuesSame k s (finish k pos st aux t) := fun k' hk => by
  rw [finish, State.modC, State.modQ_tget, if_neg hk]
  exact h k' hk

/-- The command that becomes a job has begun, and no other queue is touched (R112). -/
theorem startJob_begun {kind : MoveKind} (ht : kind.target = []) (hf : kind.frames = []) (hs : starting k pos op s = some m)
    (hi : LeastMover i s) (total : Nat) (who : Payer) :
    let t := startJob kind total false who (begun k pos s)
    t.cmd k pos = some { m with started := true } ∧
    JobGiven i (.given i kind total who s) s t ∧ OtherQueuesSame k s t := by
  obtain ⟨hb, -⟩ := begun_starting hs
  have hw := begun_wrd k pos s
  have hj := startJob_command ht hf total who (s := begun k pos s) (i := i) (by rw [LeastMover, hw]; exact hi)
  rw [MoveJob.given, hw, JobGiven, hw] at hj
  refine ⟨?_, hj, fun k' hk => ?_⟩
  · rw [State.cmd, startJob_front]; exact hb
  · rw [startJob_front]; exact begun_others k pos s k' hk

/-- A command whose object is gone ends with ST_STALE_HANDLE (R112). -/
theorem finish_stale (hs : starting k pos op s = some m) :
    let t := finish k pos .stale 16 (begun k pos s)
    (t.cmd k pos).map (·.latch) = some (some ⟨.stale, 16⟩) ∧ OtherQueuesSame k s t ∧ OnlyIn [.front, .chest, .jnl] s t := by
  obtain ⟨hb, hl⟩ := begun_starting hs
  have ha := congrArg (Option.map Prod.fst) (finish_answer (st := .stale) (aux := 16) hb hl)
  rw [Option.map_map] at ha
  exact ⟨ha, finish_others (begun_others k pos s),
    (finish_within k pos .stale 16 (begun_within k pos (.refl [.front, .chest, .jnl] s) (.refl _)) (by simp [Covers])).onlyIn⟩

theorem opCopy_job {a b : Loc} (hs : starting (qkey c q) pos 0x03 s = some m) (ha : operandLoc (qkey c q) m 16 24 s = some a)
    (hb : operandLoc (qkey c q) m 20 32 s = some b) :
    opCopy c q pos s = startJob (.copy c q pos a b) (fld m.entry 40 8) false (payCtx c s) (begun (qkey c q) pos s) := by
  simp only [opCopy, hs, ha, hb]

theorem opCopy_stale (hs : starting (qkey c q) pos 0x03 s = some m)
    (h : operandLoc (qkey c q) m 16 24 s = none ∨ operandLoc (qkey c q) m 20 32 s = none) :
    opCopy c q pos s = finish (qkey c q) pos .stale 16 (begun (qkey c q) pos s) := by
  simp only [opCopy, hs]
  split
  · next ha hb => rw [ha, hb] at h; rcases h with h | h <;> cases h
  · rfl

theorem opFill_job {a : Loc} (hs : starting (qkey c q) pos 0x04 s = some m) (ha : operandLoc (qkey c q) m 16 24 s = some a) :
    opFill c q pos s = startJob (.fill c q pos a (slice m.entry 40 (fld m.entry 20 1))) (fld m.entry 32 8) false (payCtx c s)
      (begun (qkey c q) pos s) := by
  simp only [opFill, hs, ha]

theorem opFill_stale (hs : starting (qkey c q) pos 0x04 s = some m) (ha : operandLoc (qkey c q) m 16 24 s = none) :
    opFill c q pos s = finish (qkey c q) pos .stale 16 (begun (qkey c q) pos s) := by
  simp only [opFill, hs, ha]

end

/-! ### The job served in a slot (R295, R451) -/

/-- A mover has a foreground or a background job in a slot. -/
def Mover.has (x : Mover) (bg : Bool) (slot : Option Nat) (s : State) : Prop := ∃ g ∈ x.jobs, inSlot slot g s = true ∧ g.background = bg

/-- Background work comes ahead of foreground work (R451). -/
def Mover.comesAhead (x : Mover) (s : State) : Prop := x.foreground = true ∧ (x.aheadMs ≠ s.now / (1000 * Config.us) ∨ x.ahead < 1250)

theorem Mover.aheadDue_iff (x : Mover) (s : State) : x.aheadDue s = true ↔ x.comesAhead s := by
  rw [Mover.aheadDue, Bool.and_eq_true, Bool.or_eq_true, bne_iff_ne, decide_eq_true_iff]
  rfl

/-- The first job of its class in the slot. -/
theorem findIdx?_first {p : MoveJob → Bool} {l : List MoveJob} (hj : l[i]? = some j) (hp : p j = true)
    (hfirst : ∀ k g, k < i → l[k]? = some g → p g = false) : l.findIdx? p = some i := by
  rw [List.findIdx?_eq_some_iff_getElem]
  obtain ⟨hi, rfl⟩ := List.getElem?_eq_some_iff.1 hj
  refine ⟨hi, hp, fun k hk => ?_⟩
  rw [hfirst k l[k] hk (List.getElem?_eq_getElem _)]
  exact Bool.false_ne_true

theorem Mover.serves_eq (hj : x.jobs[i]? = some j) (hours : inSlot slot j s = true)
    (hfirst : ∀ k g, k < i → x.jobs[k]? = some g → inSlot slot g s = true → g.background ≠ j.background)
    (hbg : j.background = true → x.comesAhead s ∨ ¬x.has false slot s) (hfg : j.background = false → ¬x.comesAhead s ∨ ¬x.has true slot s) :
    x.serves slot s = some i := by
  have hnone : ∀ bg, ¬x.has bg slot s → ∀ p : MoveJob → Bool, (∀ g, p g = true → inSlot slot g s = true ∧ g.background = bg) →
      x.jobs.findIdx? p = none := fun bg hn p hp => by
    rw [List.findIdx?_eq_none_iff]
    exact fun g hg => Bool.eq_false_iff.2 fun h => hn ⟨g, hg, hp g h⟩
  have hf : ∀ g, (!g.background && inSlot slot g s) = true → inSlot slot g s = true ∧ g.background = false := fun g h => by
    simpa [and_comm] using h
  have hb : ∀ g, (g.background && inSlot slot g s) = true → inSlot slot g s = true ∧ g.background = true := fun g h => by
    simpa [and_comm] using h
  cases hc : j.background with
  | true =>
    have hi : x.jobs.findIdx? (fun j => j.background && inSlot slot j s) = some i :=
      findIdx?_first hj (by simp [hc, hours]) fun k g hk hg => Bool.eq_false_iff.2 fun h =>
        hfirst k g hk hg (hb g h).1 ((hb g h).2.trans hc.symm)
    unfold Mover.serves
    dsimp only
    rw [hi]
    split
    · rfl
    · next hd =>
      rw [hnone false ((hbg hc).resolve_left fun h => hd ((x.aheadDue_iff s).2 h)) _ hf]
      rfl
  | false =>
    have hi : x.jobs.findIdx? (fun j => !j.background && inSlot slot j s) = some i :=
      findIdx?_first hj (by simp [hc, hours]) fun k g hk hg => Bool.eq_false_iff.2 fun h =>
        hfirst k g hk hg (hf g h).1 ((hf g h).2.trans hc.symm)
    unfold Mover.serves
    dsimp only
    rw [hi]
    split
    · next hd =>
      rw [hnone true ((hfg hc).resolve_left fun h => h ((x.aheadDue_iff s).1 hd)) _ hb]
      rfl
    · rfl

theorem Mover.serves_none (h : ∀ g ∈ x.jobs, inSlot slot g s = false) : x.serves slot s = none := by
  have hn : ∀ p : MoveJob → Bool, (∀ g, p g = true → inSlot slot g s = true) → x.jobs.findIdx? p = none := fun p hp => by
    rw [List.findIdx?_eq_none_iff]
    exact fun g hg => Bool.eq_false_iff.2 fun e => Bool.eq_false_iff.1 (h g hg) (hp g e)
  unfold Mover.serves
  dsimp only
  rw [hn _ fun g hg => (Bool.and_eq_true_iff.1 hg).2, hn _ fun g hg => (Bool.and_eq_true_iff.1 hg).2]
  split <;> rfl

end Sys2Proof.Machine
end

section
/-! SUPPORT for O29. A piece that lands (R505): the mover that served it, the rest of the state, and the command of a copy or fill. -/

namespace Sys2Proof.Machine

variable {mv i : Nat} {slot : Option Nat} {x : Mover} {j : MoveJob} {s t : State}

/-- The bytes of the next piece of a job: 4 KiB, or what is left. -/
def MoveJob.piece (j : MoveJob) : Nat := min 4096 (j.total - j.done)

/-- The jobs of a mover once the piece of the job at an index has landed: the job has moved on, or gone with its last piece. -/
def MoveJob.rest (j : MoveJob) (i : Nat) (jobs : List MoveJob) : List MoveJob :=
  if j.total ≤ j.done + j.piece then jobs.eraseIdx i else jobs.modify i (fun g => { g with done := g.done + j.piece })

/-- The state that a piece's bytes move in: its mover has counted it (R451). -/
def serving (mv : Nat) (slot : Option Nat) (j : MoveJob) (s : State) : State := s.modMover mv (Mover.served j.background slot s)

/-- The state in which the bytes of a piece have moved and its mover has moved on. -/
def pieceDone (mv i : Nat) (slot : Option Nat) (j : MoveJob) (s : State) : State :=
  (pieceMoved j j.piece (serving mv slot j s)).modMover mv (fun x => Mover.tick s.now { x with jobs := j.rest i x.jobs })

/-- A mover serves a job in a slot, none of the slot's jobs there having been told to stop (R85, R505). -/
structure Lands (mv i : Nat) (slot : Option Nat) (x : Mover) (j : MoveJob) (s : State) : Prop where
  mover : s.wrd.movers[mv]? = some x
  still : ∀ g ∈ x.jobs, inSlot slot g s = true → g.stopped = false
  job : x.jobs[i]? = some j
  serves : x.serves slot s = some i

theorem Lands.none_ends (h : Lands mv i slot x j s) : x.jobs.any (fun g => g.stopped && inSlot slot g s) = false := by
  rw [List.any_eq_false]
  intro g hg hs
  obtain ⟨h1, h2⟩ := Bool.and_eq_true_iff.1 hs
  rw [h.still g hg h2] at h1
  cases h1

theorem Lands.waits (h : Lands mv i slot x j s) (hw : jobWaits j s = true ∨ j.held j.piece s = true) : moverPieceLanded mv slot s = s := by
  have hb : (jobWaits j s || j.held (min 4096 (j.total - j.done)) s) = true := Bool.or_eq_true_iff.2 hw
  simp only [moverPieceLanded, h.mover, h.none_ends, h.serves, Option.bind_some, h.job, Option.map_some, hb, Bool.false_eq_true,
    if_false, if_true]

theorem pieceMoved_now (j : MoveJob) (n : Nat) (s : State) : (pieceMoved j n s).now = s.now :=
  congrArg BitVec.toNat ((pieceMoved_within j n (.refl [.port, .mem, .hub] s) (.refl _)).same .time (by decide) :)

/-- A piece that nothing holds moves its bytes, and its job lands with the last (R505). -/
theorem Lands.step (h : Lands mv i slot x j s) (hw : jobWaits j s = false) (hh : j.held j.piece s = false) :
    moverPieceLanded mv slot s =
      if j.total ≤ j.done + j.piece then jobLanded j (pieceDone mv i slot j s) else pieceDone mv i slot j s := by
  have hb : (jobWaits j s || j.held (min 4096 (j.total - j.done)) s) = false := Bool.or_eq_false_iff.2 ⟨hw, hh⟩
  have hn : (pieceMoved j (min 4096 (j.total - j.done)) (s.modMover mv (Mover.served j.background slot s))).now = s.now :=
    pieceMoved_now ..
  simp only [moverPieceLanded, h.mover, h.none_ends, h.serves, Option.bind_some, h.job, Option.map_some, hb, Bool.false_eq_true,
    if_false, hn]
  by_cases hl : j.total ≤ j.done + j.piece
  · have hr : ∀ l : List MoveJob, j.rest i l = l.eraseIdx i := fun l => if_pos hl
    simp only [pieceDone, hr]
    rw [if_pos hl]
    exact if_pos hl
  · have hr : ∀ l : List MoveJob, j.rest i l = l.modify i (fun g => { g with done := g.done + j.piece }) := fun l => if_neg hl
    simp only [pieceDone, hr]
    rw [if_neg hl]
    exact if_neg hl

/-- Jobs of a slot that were told to stop end with their mover's next piece (R85). -/
theorem moverPieceLanded_stops (hx : s.wrd.movers[mv]? = some x) (h : ∃ g ∈ x.jobs, g.stopped = true ∧ inSlot slot g s = true) :
    moverPieceLanded mv slot s = settleStops (s.modMover mv (fun x =>
      Mover.tick s.now { x with jobs := x.jobs.filter (fun g => !(g.stopped && inSlot slot g s)) })) := by
  have ha : x.jobs.any (fun g => g.stopped && inSlot slot g s) = true := by
    obtain ⟨g, hg, h1, h2⟩ := h
    exact List.any_eq_true.2 ⟨g, hg, by rw [h1, h2]; rfl⟩
  simp only [moverPieceLanded, hx, ha, if_true]

theorem moverPieceLanded_idle (hx : s.wrd.movers[mv]? = some x) (h : ∀ g ∈ x.jobs, inSlot slot g s = false) :
    moverPieceLanded mv slot s = s := by
  have ha : x.jobs.any (fun g => g.stopped && inSlot slot g s) = false := by
    rw [List.any_eq_false]
    intro g hg
    rw [h g hg, Bool.and_false]
    exact Bool.false_ne_true
  simp only [moverPieceLanded, hx, ha, Mover.serves_none h, Option.bind_none, Bool.false_eq_true, if_false]

/-! ### The mover (R451, R504) -/

theorem modMover_get (hx : s.wrd.movers[mv]? = some x) (f : Mover → Mover) : (s.modMover mv f).wrd.movers[mv]? = some (f x) := by
  rw [State.modMover, List.getElem?_modify_eq, hx]
  rfl

/-- What a piece has done to the mover that served it (R451, R504). -/
def Moved (mv : Nat) (slot : Option Nat) (x : Mover) (j : MoveJob) (jobs : List MoveJob) (s t : State) : Prop :=
  ∃ y, t.wrd.movers[mv]? = some y ∧ y.jobs = jobs ∧ y.progress = (x.progress + 1) % 2 ^ 32 ∧ y.advanced = s.now ∧
    ((j.background = false ∨ ¬x.has false slot s) → y.foreground = !j.background) ∧
    (j.background = true → x.has false slot s → y.foreground = false ∧ y.aheadMs = s.now / (1000 * Config.us) ∧
      y.ahead = (if x.aheadMs = s.now / (1000 * Config.us) then x.ahead + 1 else 1))

theorem Moved.of_wrd {u : State} {jobs : List MoveJob} (h : Moved mv slot x j jobs s t) (hw : u.wrd.movers = t.wrd.movers) :
    Moved mv slot x j jobs s u := by
  rw [Moved, hw]
  exact h

theorem Mover.has_iff (x : Mover) (slot : Option Nat) (s : State) :
    x.jobs.any (fun j => !j.background && inSlot slot j s) = true ↔ x.has false slot s := by
  simp only [List.any_eq_true, Mover.has, Bool.and_eq_true, Bool.not_eq_true', and_comm]

theorem served_waits (hb : j.background = true) (h : x.has false slot s) : x.served j.background slot s =
    { x with foreground := false, aheadMs := s.ms, ahead := if x.aheadMs = s.ms then x.ahead + 1 else 1 } := by
  rw [Mover.served, if_pos (by rw [hb, (x.has_iff slot s).2 h]; rfl)]

theorem served_alone (h : j.background = false ∨ ¬x.has false slot s) : x.served j.background slot s =
    { x with foreground := !j.background } := by
  rw [Mover.served, if_neg]
  intro hc
  obtain ⟨h1, h2⟩ := Bool.and_eq_true_iff.1 hc
  rcases h with h | h
  · rw [h] at h1; cases h1
  · exact h ((x.has_iff slot s).1 h2)

theorem served_kept (b : Bool) (slot : Option Nat) (s : State) (x : Mover) :
    (x.served b slot s).jobs = x.jobs ∧ (x.served b slot s).progress = x.progress := by
  unfold Mover.served
  dsimp only
  split
  · exact ⟨rfl, rfl⟩
  · exact ⟨rfl, rfl⟩

theorem pieceMoved_wrd (j : MoveJob) (n : Nat) (s : State) : (pieceMoved j n s).wrd = s.wrd :=
  (pieceMoved_within j n (.refl [.port, .mem, .hub] s) (.refl _)).same .wrd (by decide)

theorem pieceDone_moved (hx : s.wrd.movers[mv]? = some x) : Moved mv slot x j (j.rest i x.jobs) s (pieceDone mv i slot j s) := by
  have hserved : (pieceMoved j j.piece (serving mv slot j s)).wrd.movers[mv]? = some (x.served j.background slot s) := by
    rw [pieceMoved_wrd]
    exact modMover_get hx _
  obtain ⟨hjobs, hprog⟩ := served_kept j.background slot s x
  refine ⟨_, modMover_get hserved _, ?_, ?_, rfl, fun h => ?_, fun hb h => ?_⟩
  · show j.rest i (x.served j.background slot s).jobs = _
    rw [hjobs]
  · show ((x.served j.background slot s).progress + 1) % 2 ^ 32 = _
    rw [hprog]
  · rw [served_alone h]; rfl
  · rw [served_waits hb h]
    exact ⟨rfl, rfl, rfl⟩

/-! ### The rest of the state -/

theorem pieceDone_within (mv i : Nat) (slot : Option Nat) (j : MoveJob) (s : State) :
    Within [.port, .mem, .hub, .wrd] s (pieceDone mv i slot j s) :=
  State.modMover_within _ _ (pieceMoved_within _ _ (State.modMover_within _ _ (.refl _ s) (by simp [Covers])) (by simp [Covers]))
    (by simp [Covers])

theorem pieceDone_mem (mv i : Nat) (slot : Option Nat) (j : MoveJob) (s : State) :
    (pieceDone mv i slot j s).mem = (pieceMoved j j.piece (serving mv slot j s)).mem := rfl

/-- Of Wardrobe only the movers have changed. -/
theorem pieceDone_wrd (mv i : Nat) (slot : Option Nat) (j : MoveJob) (s : State) :
    (pieceDone mv i slot j s).wrd = { s.wrd with movers := (pieceDone mv i slot j s).wrd.movers } := by
  simp only [pieceDone, State.modMover, pieceMoved_wrd, serving]

/-! ### The command of a copy or fill (R85, R112) -/

/-- A command whose stop has been confirmed, or not (R85). -/
def Cmd.settled (busy : List (Nat × Nat)) (k : Nat) (c : Cmd) : Cmd :=
  if c.stopping then { c with stopping := busy.contains (k, c.pos) } else c

theorem Cmd.settled_kept (busy : List (Nat × Nat)) (k : Nat) (c : Cmd) :
    (c.settled busy k).pos = c.pos ∧ (c.settled busy k).latch = c.latch ∧ (c.settled busy k).running = c.running := by
  unfold Cmd.settled
  split
  · exact ⟨rfl, rfl, rfl⟩
  · exact ⟨rfl, rfl, rfl⟩

theorem settleStops_queues (s : State) : ∃ busy, (settleStops s).front.queues =
    tmapv s.front.queues (fun k q => { q with cmds := q.cmds.map (Cmd.settled busy k) }) := ⟨_, rfl⟩

theorem settleStops_cmd (k pos : Nat) (s : State) :
    ((settleStops s).cmd k pos).map (fun y => (y.latch, y.running)) = (s.cmd k pos).map (fun y => (y.latch, y.running)) := by
  obtain ⟨busy, hq⟩ := settleStops_queues s
  rw [State.cmd, hq, tget_tmapv, State.cmd]
  cases tget s.front.queues k with
  | none => rfl
  | some u =>
    simp only [Option.map_some, Option.bind_some, Queue.cmd, List.find?_map, Function.comp_def, (Cmd.settled_kept busy k _).1, Option.map_map,
      (Cmd.settled_kept busy k _).2.1, (Cmd.settled_kept busy k _).2.2]

/-- The job of a command lands: the command finishes with ST_OK (R85). -/
def commandLanded (k pos : Nat) (s : State) : State := settleStops (finishOk k pos s)

theorem commandLanded_within (k pos : Nat) (s : State) : Within [.front] s (commandLanded k pos s) :=
  settleStops_within (finish_within _ _ _ _ (.refl _ s) (.refl _)) (.refl _)

theorem commandLanded_cmd {k pos : Nat} {m : Cmd} (hm : s.cmd k pos = some m) (hl : m.latch = none) :
    ((commandLanded k pos s).cmd k pos).map (fun y => (y.latch, y.running)) = some (some ⟨.ok, 0⟩, false) := by
  rw [commandLanded, settleStops_cmd, finishOk, finish_cmd, if_pos ⟨rfl, rfl⟩, hm, Option.map_some, Option.map_some,
    (Cmd.take_latch .ok 0 m).1, hl]
  rfl

/-- A piece of a command's job: its mover, the command, and the parts it writes (R85, R112). -/
theorem Lands.command {c q pos : Nat} (h : Lands mv i slot x j s) (hw : jobWaits j s = false) (hh : j.held j.piece s = false)
    (hk : ∀ u, jobLanded j u = commandLanded (qkey c q) pos u) :
    ∃ t, moverPieceLanded mv slot s = t ∧ Moved mv slot x j (j.rest i x.jobs) s t ∧
      (∀ m, s.cmd (qkey c q) pos = some m → m.latch = none →
        (t.cmd (qkey c q) pos).map (fun y => (y.latch, y.running)) =
          some (if j.total ≤ j.done + j.piece then (some ⟨.ok, 0⟩, false) else (none, m.running))) ∧
      t.mem = (pieceMoved j j.piece (serving mv slot j s)).mem ∧ OnlyIn [.port, .mem, .hub, .front, .wrd] s t := by
  have hd := pieceDone_within mv i slot j s
  have hfront : (pieceDone mv i slot j s).front = s.front := hd.same .front (by decide)
  have hcmd : ∀ k p, (pieceDone mv i slot j s).cmd k p = s.cmd k p := fun k p => by rw [State.cmd, hfront]; rfl
  refine ⟨_, rfl, ?_⟩
  rw [h.step hw hh]
  by_cases hl : j.total ≤ j.done + j.piece
  · have hc := commandLanded_within (qkey c q) pos (pieceDone mv i slot j s)
    have hboth : Within [.port, .mem, .hub, .front, .wrd] s (commandLanded (qkey c q) pos (pieceDone mv i slot j s)) :=
      settleStops_within (finish_within _ _ _ _ ⟨fun p hp => hd.same p (by simp_all), hd.canon⟩ (by simp [Covers])) (by simp [Covers])
    rw [if_pos hl, hk]
    refine ⟨(pieceDone_moved h.mover).of_wrd (congrArg Wardrobe.movers (hc.same .wrd (by decide) :)), fun m hm hlatch => ?_,
      hc.same .mem (by decide), hboth.onlyIn⟩
    rw [if_pos hl]
    exact commandLanded_cmd ((hcmd _ _).trans hm) hlatch
  · rw [if_neg hl]
    refine ⟨pieceDone_moved h.mover, fun m hm hlatch => ?_, rfl, fun p hp => hd.same p (by simp_all)⟩
    rw [if_neg hl, hcmd, hm, Option.map_some, hlatch]

/-! ### What a copy or fill carries (R112, R470) -/

theorem moverRead_mem (j : MoveJob) (l : Loc) (n : Nat) (s : State) : (moverRead j l n s).mem = s.mem :=
  (moverRead_within j l n (.refl [.port, .hub] s) (.refl _)).same .mem (by decide)

theorem moverWrote_mem (j : MoveJob) (l : Loc) (n : Nat) (s : State) : (moverWrote j l n s).mem = s.mem :=
  (moverWrote_within j l n (.refl [.port, .hub] s) (.refl _)).same .mem (by decide)

theorem moverRead_outOnly (j : MoveJob) (l : Loc) (n : Nat) (s : State) : OutOnly s (moverRead j l n s) := by
  have hreq : OutOnly s (readReq j.key (.mover j.mover) l n s) := .ite (.refl s) (.refl s)
  exact .ite (.refl s) (hreq.within (chargeJob_within j _ _ (.refl [.hub] _) (.refl _)))

theorem OutOnly.hostStopped (h : OutOnly s t) (l : Loc) : Machine.hostStopped l t = Machine.hostStopped l s := by
  have h' : { t.port with out := [] } = { s.port with out := [] } := h
  have hf : t.port.dropHost = s.port.dropHost := (congrArg Port.dropHost h' :)
  simp only [Machine.hostStopped, hf]

section
variable {c q pos : Nat} {a b : Loc} {pat : List Byte} {n : Nat}

/-- The piece of a copy is not carried: a function's host accesses have stopped or its writes are discarded (R470). -/
def copyStopped (a b : Loc) (s : State) : Prop := (b.space = .host ∧ hostDropped b s = true) ∨ hostStopped a s = true

theorem copyStopped_read (l : Loc) (n : Nat) : copyStopped a b (moverRead j l n s) ↔ copyStopped a b s := by
  have h := moverRead_outOnly j l n s
  rw [copyStopped, h.hostDropped, h.hostStopped]
  rfl

theorem pieceMoved_copy (hk : j.kind = .copy c q pos a b) (h : ¬copyStopped (a.plus j.done) (b.plus j.done) s) :
    (pieceMoved j n s).mem = s.mem.write (b.plus j.done) (memRead (a.plus j.done) n s) := by
  simp only [pieceMoved, hk]
  refine (congrArg State.mem (if_neg (mt (copyStopped_read (a.plus j.done) n).1 h))).trans ?_
  rw [moverWrote_mem, memWrite, moverRead_mem]

theorem pieceMoved_copy_stopped (hk : j.kind = .copy c q pos a b) (h : copyStopped (a.plus j.done) (b.plus j.done) s) :
    (pieceMoved j n s).mem = s.mem := by
  simp only [pieceMoved, hk]
  exact (congrArg State.mem (if_pos ((copyStopped_read (a.plus j.done) n).2 h))).trans (moverRead_mem ..)

/-- What a copy's piece does to memory (R112). -/
theorem copy_carries (hs : s.MemOk) (hk : j.kind = .copy c q pos a b) (hm : t.mem = (pieceMoved j n s).mem) :
    (¬copyStopped (a.plus j.done) (b.plus j.done) s → memRead (b.plus j.done) n t = memRead (a.plus j.done) n s) ∧
    (copyStopped (a.plus j.done) (b.plus j.done) s → t.mem = s.mem) ∧ UnchangedOutside (b.plus j.done) n s t := by
  have hlen := memRead_length (a.plus j.done) n s
  refine ⟨fun h => ?_, fun h => hm.trans (pieceMoved_copy_stopped hk h), ?_⟩
  · have hr := memRead_write (b.plus j.done) (memRead (a.plus j.done) n s) hs (hm.trans (pieceMoved_copy hk h))
    rwa [hlen] at hr
  · by_cases h : copyStopped (a.plus j.done) (b.plus j.done) s
    · exact fun k _ => memRead_congr (hm.trans (pieceMoved_copy_stopped hk h)) k 1
    · exact fun k ho => memRead_write_other (b.plus j.done) _ (hm.trans (pieceMoved_copy hk h)) k (by rwa [hlen])

/-- The bytes of a pattern, from its start on (R112). -/
def patternBytes (pat : List Byte) (n : Nat) : List Byte := (List.range n).map (fun i => (pat[i % pat.length]?).getD 0)

theorem patternBytes_length (pat : List Byte) (n : Nat) : (patternBytes pat n).length = n := by simp [patternBytes]

theorem pieceMoved_fill (hk : j.kind = .fill c q pos b pat) : (pieceMoved j n s).mem =
    if (b.plus j.done).space = .host ∧ hostDropped (b.plus j.done) s = true then s.mem
    else s.mem.write (b.plus j.done) (patternBytes pat n) := by
  simp only [pieceMoved, hk]
  split
  · rfl
  · rw [moverWrote_mem]; rfl

/-- What a fill's piece does to memory (R112). -/
theorem fill_carries (hs : s.MemOk) (hk : j.kind = .fill c q pos b pat) (hm : t.mem = (pieceMoved j n s).mem) :
    ((b.space ≠ .host ∨ hostDropped (b.plus j.done) s = false) → memRead (b.plus j.done) n t = patternBytes pat n) ∧
    UnchangedOutside (b.plus j.done) n s t := by
  rw [pieceMoved_fill hk] at hm
  by_cases h : (b.plus j.done).space = .host ∧ hostDropped (b.plus j.done) s = true
  · rw [if_pos h] at hm
    refine ⟨fun hd => ?_, fun k _ => memRead_congr hm k 1⟩
    rcases hd with hd | hd
    · exact absurd h.1 hd
    · rw [hd] at h; exact absurd h.2 Bool.false_ne_true
  · rw [if_neg h] at hm
    refine ⟨fun _ => ?_, fun k ho => memRead_write_other _ _ hm k (by rwa [patternBytes_length])⟩
    have hr := memRead_write _ _ hs hm
    rwa [patternBytes_length] at hr

end

end Sys2Proof.Machine
end

section
/-! SUPPORT for O29. Pieces of frames (R193, R231, R247, R256, R505): what they carry, and what the last one does to Wardrobe's tables. -/

namespace Sys2Proof.Machine

variable {mv i n k src dst f : Nat} {slot : Option Nat} {x : Mover} {j : MoveJob} {s t : State}

/-! ### States that differ in no more than the movers -/

/-- Nothing that the place, the use or the format of a frame depends on has changed. -/
structure FramesAlike (s t : State) : Prop where
  wrd : { t.wrd with movers := [] } = { s.wrd with movers := [] }
  tenants : t.tenants = s.tenants
  watch : t.watch = s.watch
  trestle : t.trestle = s.trestle

theorem FramesAlike.frames (h : FramesAlike s t) : t.wrd.frames = s.wrd.frames := (congrArg Wardrobe.frames h.wrd :)
theorem FramesAlike.models (h : FramesAlike s t) : t.wrd.models = s.wrd.models := (congrArg Wardrobe.models h.wrd :)
theorem FramesAlike.mapout (h : FramesAlike s t) : t.wrd.mapout = s.wrd.mapout := (congrArg Wardrobe.mapout h.wrd :)
theorem FramesAlike.mapoutWait (h : FramesAlike s t) : t.wrd.mapoutWait = s.wrd.mapoutWait := (congrArg Wardrobe.mapoutWait h.wrd :)

theorem FramesAlike.pageBytes (h : FramesAlike s t) : Machine.pageBytes t = Machine.pageBytes s := by
  rw [Machine.pageBytes, show t.wrd.pageLog2 = s.wrd.pageLog2 from (congrArg Wardrobe.pageLog2 h.wrd :)]
  rfl

theorem FramesAlike.fFast (h : FramesAlike s t) : Machine.fFast t = Machine.fFast s := by
  rw [Machine.fFast, h.pageBytes, show t.wrd.fastGib = s.wrd.fastGib from (congrArg Wardrobe.fastGib h.wrd :)]
  rfl

theorem FramesAlike.frameLoc (h : FramesAlike s t) (f : Nat) : Machine.frameLoc f t = Machine.frameLoc f s := by
  simp only [Machine.frameLoc, h.fFast, h.pageBytes]

theorem FramesAlike.reservedRanges (h : FramesAlike s t) : Machine.reservedRanges t = Machine.reservedRanges s := by
  have hk : t.wrd.hkBase = s.wrd.hkBase := (congrArg Wardrobe.hkBase h.wrd :)
  simp only [Machine.reservedRanges, frameRange, h.fFast, h.pageBytes, h.tenants, h.watch, hk]

theorem FramesAlike.isOut (h : FramesAlike s t) (f : Nat) : Machine.isOut f t = Machine.isOut f s := by
  have ho : t.wrd.outUnits = s.wrd.outUnits := (congrArg Wardrobe.outUnits h.wrd :)
  have hf : Machine.isFast f t = Machine.isFast f s := congrArg (fun n => decide (f < n)) h.fFast
  simp only [Machine.isOut, unitOf, frameTier, hf, h.frameLoc, ho]

theorem FramesAlike.frameAt (h : FramesAlike s t) (f : Nat) : Machine.frameAt f t = Machine.frameAt f s := by
  simp only [Machine.frameAt, h.frames, h.reservedRanges, h.isOut]

theorem FramesAlike.converts (h : FramesAlike s t) (j : MoveJob) : j.converts t = j.converts s := by
  simp only [MoveJob.converts, h.frameAt, h.trestle]

theorem FramesAlike.carries (h : FramesAlike s t) (j : MoveJob) (hp : ∀ dst, passedOn j dst t = passedOn j dst s) :
    j.carries t = j.carries s := by
  simp only [MoveJob.carries, hp, h.frameAt, storedBytes, h.pageBytes]

theorem FramesAlike.trans {u : State} (h : FramesAlike s t) (h' : FramesAlike t u) : FramesAlike s u :=
  ⟨h'.wrd.trans h.wrd, h'.tenants.trans h.tenants, h'.watch.trans h.watch, h'.trestle.trans h.trestle⟩

theorem FramesAlike.within {fp : List Part} (h : Within fp s t) (hp : ∀ p ∈ [Part.wrd, .tenants, .watch, .trestle], p ∉ fp) :
    FramesAlike s t :=
  ⟨congrArg (fun w : Wardrobe => { w with movers := [] }) (h.same .wrd (hp _ (by decide)) :), h.same .tenants (hp _ (by decide)),
    h.same .watch (hp _ (by decide)), h.same .trestle (hp _ (by decide))⟩

theorem modMover_alike (m : Nat) (g : Mover → Mover) (s : State) : FramesAlike s (s.modMover m g) := ⟨rfl, rfl, rfl, rfl⟩

theorem serving_alike (mv : Nat) (slot : Option Nat) (j : MoveJob) (s : State) : FramesAlike s (serving mv slot j s) := modMover_alike ..

theorem moverRead_alike (j : MoveJob) (l : Loc) (n : Nat) (s : State) : FramesAlike s (moverRead j l n s) :=
  .within (moverRead_within j l n (.refl [.port, .hub] s) (.refl _)) (by decide)

theorem pieceDone_alike (mv i : Nat) (slot : Option Nat) (j : MoveJob) (s : State) : FramesAlike s (pieceDone mv i slot j s) :=
  ((modMover_alike _ _ _).trans (.within (pieceMoved_within j j.piece (.refl [.port, .mem, .hub] _) (.refl _)) (by decide))).trans
    (modMover_alike _ _ _)

/-! ### Jobs of all movers -/

theorem serving_jobs (mv : Nat) (slot : Option Nat) (j : MoveJob) (s : State) : (serving mv slot j s).allJobs = s.allJobs := by
  have h : ∀ (l : List Mover) (m : Nat), (l.modify m (Mover.served j.background slot s)).map (·.jobs) = l.map (·.jobs) := by
    intro l
    induction l with
    | nil => intro m; rw [List.modify_nil]
    | cons y l ih =>
      intro m
      cases m with
      | zero => simp only [List.modify_zero_cons, List.map_cons, (served_kept _ _ _ _).1]
      | succ m => simp only [List.modify_succ_cons, List.map_cons, ih]
  rw [State.allJobs, serving, State.modMover, h]
  rfl

theorem serving_passedOn (mv : Nat) (slot : Option Nat) (j : MoveJob) (s : State) (dst : Nat) :
    passedOn j dst (serving mv slot j s) = passedOn j dst s := by
  rw [passedOn, serving_jobs]
  rfl

/-- Every job left once a job has landed was there before. -/
theorem pieceDone_jobs (hl : j.total ≤ j.done + j.piece) : ∀ g ∈ (pieceDone mv i slot j s).allJobs, g ∈ s.allJobs := by
  intro g hg
  rw [← serving_jobs mv slot j s]
  obtain ⟨l, hl', hgl⟩ := List.mem_flatten.1 hg
  obtain ⟨y, hy, rfl⟩ := List.mem_map.1 hl'
  obtain ⟨m, hm⟩ := List.mem_iff_getElem?.1 hy
  rw [pieceDone, State.modMover, List.getElem?_modify, pieceMoved_wrd] at hm
  obtain ⟨z, hz, hzy⟩ := Option.map_eq_some_iff.1 hm
  have hgz : g ∈ z.jobs := by
    by_cases he : mv = m
    · rw [if_pos he] at hzy
      subst hzy
      rw [show (Mover.tick s.now { z with jobs := j.rest i z.jobs }).jobs = z.jobs.eraseIdx i from if_pos hl] at hgl
      exact List.mem_of_mem_eraseIdx hgl
    · rw [if_neg he] at hzy
      exact hzy ▸ hgl
  exact List.mem_flatten.2 ⟨_, List.mem_map.2 ⟨z, List.mem_of_getElem? hz, rfl⟩, hgz⟩

theorem pieceDone_passedOn (hl : j.total ≤ j.done + j.piece) (h : passedOn j dst s = false) :
    passedOn j dst (pieceDone mv i slot j s) = false := by
  rw [passedOn, List.any_eq_false] at h ⊢
  exact fun g hg => h g (pieceDone_jobs hl g hg)

/-! ### The place of a frame -/

theorem pageBytes_pos (s : State) : 0 < pageBytes s := Nat.two_pow_pos _

theorem frames_apart (hne : src ≠ dst) (s : State) : Apart (frameLoc dst s) (pageBytes s) (frameLoc src s) (pageBytes s) := by
  have hmul : ∀ a b : Nat, a < b → a * pageBytes s + pageBytes s ≤ b * pageBytes s := fun a b h => by
    rw [← Nat.succ_mul]; exact Nat.mul_le_mul_right _ h
  have hcase : ∀ a b : Nat, a ≠ b → a * pageBytes s + pageBytes s ≤ b * pageBytes s ∨ b * pageBytes s + pageBytes s ≤ a * pageBytes s :=
    fun a b h => (Nat.lt_or_gt_of_ne h).imp (hmul a b) (hmul b a)
  by_cases hs : src < fFast s
  · by_cases hd : dst < fFast s
    · simp only [frameLoc, hs, hd, if_true]
      exact .inr (hcase dst src (Ne.symm hne))
    · simp only [frameLoc, hs, hd, if_true, if_false]
      exact .inl nofun
  · by_cases hd : dst < fFast s
    · simp only [frameLoc, hs, hd, if_true, if_false]
      exact .inl nofun
    · simp only [frameLoc, hs, hd, if_false]
      exact .inr (hcase (dst - fFast s) (src - fFast s) (by omega))

theorem Apart.mono {l k : Loc} {a b a' b' d e : Nat} (h : Apart l a k b) (hl : d + a' ≤ a) (hk : e + b' ≤ b) :
    Apart (l.plus d) a' (k.plus e) b' := by
  rcases h with h | h | h
  · exact .inl h
  · exact .inr (.inl (by simp only [Loc.plus]; omega))
  · exact .inr (.inr (by simp only [Loc.plus]; omega))

theorem Apart.right {l k : Loc} {a b b' e : Nat} (h : Apart l a k b) (hk : e + b' ≤ b) : Apart l a (k.plus e) b' :=
  h.mono (d := 0) (a' := a) (Nat.zero_add a).le hk

theorem memCopy_mem_congr (h : t.mem = s.mem) (a b : Loc) (n : Nat) : (memCopy a b n t).mem = (memCopy a b n s).mem := by
  simp only [memCopy, h]

theorem memZero_mem_congr (h : t.mem = s.mem) (l : Loc) (n : Nat) : (memZero l n t).mem = (memZero l n s).mem := by
  simp only [memZero, h]

/-! ### A piece of a frame (R231, R505) -/

/-- The frame's bytes that the next piece carries. -/
def MoveJob.carried (j : MoveJob) (n : Nat) (s : State) : Nat := min n (j.carries s - j.done)

/-- The memory after a piece of a frame has been carried: before the first, the new frame is zeroed. -/
def carriedPiece (j : MoveJob) (src dst n : Nat) (s : State) : State :=
  memCopy ((frameLoc src s).plus j.done) ((frameLoc dst s).plus j.done) n
    (if j.done = 0 then memZero (frameLoc dst s) (pageBytes s) s else s)

theorem framePiece_converts (h : j.converts s = true) : (framePiece j src dst n s).mem = s.mem := by
  unfold framePiece
  dsimp only
  rw [if_pos (by rw [(moverRead_alike ..).converts]; exact h), moverRead_mem]

theorem framePiece_mem (h : j.converts s = false) : (framePiece j src dst n s).mem = (carriedPiece j src dst (j.carried n s) s).mem := by
  unfold framePiece
  dsimp only
  have ha := moverRead_alike j ((frameLoc src s).plus j.done) (min n (j.carries s - j.done)) s
  have hm := moverRead_mem j ((frameLoc src s).plus j.done) (min n (j.carries s - j.done)) s
  rw [if_neg (by rw [ha.converts, h]; exact Bool.false_ne_true), moverWrote_mem, ha.frameLoc, ha.pageBytes]
  refine memCopy_mem_congr ?_ _ _ _
  split
  · exact memZero_mem_congr hm _ _
  · exact hm

/-- A copy to the start of a range that has been zeroed: the bytes copied, zeros after them, and nothing outside (R231). -/
theorem copy_to_zeroed {a d : Loc} {p : Nat} (hs : s.MemOk) (hap : Apart d p a p) (hn : n ≤ p)
    (hm : t.mem = (memCopy (a.plus 0) (d.plus 0) n (memZero d p s)).mem) :
    memRead (d.plus 0) n t = memRead (a.plus 0) n s ∧ memRead (d.plus n) (p - n) t = zeros (p - n) ∧ UnchangedOutside d p s t := by
  have hz := memZero_ok hs d p
  have hafter : Apart (d.plus 0) n (d.plus n) (p - n) := .inr (.inl (by simp only [Loc.plus]; omega))
  have hrest : (d.plus n).addr + (p - n) ≤ d.addr + p := by simp only [Loc.plus]; omega
  refine ⟨?_, ?_, fun k hk => ?_⟩
  · rw [memRead_congr hm, memRead_memCopy hz]
    exact memRead_memZero_apart (hap.right (by omega))
  · rw [memRead_congr hm, memRead_memCopy_apart hz _ hafter]
    exact memRead_memZero_part rfl (Nat.le_add_right _ _) hrest
  · have hout : Apart (d.plus 0) n k 1 := by
      rcases hk with hk | hk | hk
      · exact .inl hk.symm
      · exact .inr (.inr (by simp only [Loc.plus]; omega))
      · exact .inr (.inl (by simp only [Loc.plus]; omega))
    rw [memRead_congr hm, memRead_memCopy_apart hz _ hout]
    exact memRead_memZero_apart (.of_outside hk)

/-- What a piece of a frame carries, and what else of the new frame it writes (R231, R247). -/
theorem carriedPiece_carries (hs : s.MemOk) (hne : src ≠ dst) (hn : n ≤ pageBytes s) (hm : t.mem = (carriedPiece j src dst n s).mem) :
    memRead ((frameLoc dst s).plus j.done) n t = memRead ((frameLoc src s).plus j.done) n s ∧
    (j.done ≠ 0 → UnchangedOutside ((frameLoc dst s).plus j.done) n s t) ∧
    (j.done = 0 → memRead ((frameLoc dst s).plus n) (pageBytes s - n) t = zeros (pageBytes s - n) ∧
      UnchangedOutside (frameLoc dst s) (pageBytes s) s t) := by
  by_cases hd : j.done = 0
  · rw [carriedPiece, if_pos hd, hd] at hm
    obtain ⟨hcopied, hzeros, hout⟩ := copy_to_zeroed hs (frames_apart hne s) hn hm
    rw [hd]
    exact ⟨hcopied, fun h => absurd rfl h, fun _ => ⟨hzeros, hout⟩⟩
  · rw [carriedPiece, if_neg hd] at hm
    refine ⟨?_, fun _ => .of_mem (memCopy_unchanged hs _ _ _) hm, fun h => absurd h hd⟩
    rw [memRead_congr hm, memRead_memCopy hs]

/-- The kinds of jobs that carry the bytes of a frame to another (R247). -/
def MoveKind.carriesFrame (kind : MoveKind) (src dst : Nat) : Prop :=
  (∃ fmt l d e st, kind = .page src dst fmt l d e st) ∨ kind = .cow src dst ∨ kind = .saveMove src dst

theorem pieceMoved_frame (hk : j.kind.carriesFrame src dst) (n : Nat) (s : State) : pieceMoved j n s = framePiece j src dst n s := by
  rcases hk with ⟨fmt, l, d, e, st, hk⟩ | hk | hk
  · simp only [pieceMoved, hk]
  · simp only [pieceMoved, hk]
  · simp only [pieceMoved, hk]

theorem piece_le_page (j : MoveJob) (hp : 14 ≤ s.wrd.pageLog2) (s' : State) : j.carried j.piece s' ≤ pageBytes s := by
  have h1 : j.carried j.piece s' ≤ 4096 := (Nat.min_le_left _ _).trans (Nat.min_le_left _ _)
  have h2 : 2 ^ 14 ≤ pageBytes s := Nat.pow_le_pow_right (by decide) hp
  omega

/-- The bytes of a piece that carries part of a frame and does not convert it (R247). -/
theorem pieceDone_carries (hs : s.MemOk) (hk : j.kind.carriesFrame src dst) (hne : src ≠ dst) (hp : 14 ≤ s.wrd.pageLog2)
    (hc : j.converts s = false) (hm : t.mem = (pieceDone mv i slot j s).mem) :
    memRead ((frameLoc dst s).plus j.done) (j.carried j.piece s) t = memRead ((frameLoc src s).plus j.done) (j.carried j.piece s) s ∧
    (j.done ≠ 0 → UnchangedOutside ((frameLoc dst s).plus j.done) (j.carried j.piece s) s t) ∧
    (j.done = 0 → memRead ((frameLoc dst s).plus (j.carried j.piece s)) (pageBytes s - j.carried j.piece s) t =
        zeros (pageBytes s - j.carried j.piece s) ∧ UnchangedOutside (frameLoc dst s) (pageBytes s) s t) := by
  have hcar : j.carried j.piece (serving mv slot j s) = j.carried j.piece s := by
    rw [MoveJob.carried, (serving_alike mv slot j s).carries j (serving_passedOn mv slot j s), MoveJob.carried]
  rw [pieceDone_mem, pieceMoved_frame hk, framePiece_mem (by rw [← hc]; exact (serving_alike mv slot j s).converts j), hcar] at hm
  exact carriedPiece_carries (s := serving mv slot j s) hs hne (piece_le_page j hp s) hm

theorem pieceDone_converts (hk : j.kind.carriesFrame src dst) (hc : j.converts s = true) : (pieceDone mv i slot j s).mem = s.mem := by
  rw [pieceDone_mem, pieceMoved_frame hk, framePiece_converts (by rw [← hc]; exact (serving_alike mv slot j s).converts j)]
  rfl

/-! ### A piece of a model (R256) -/

theorem pieceMoved_model {key : Nat} {a : Loc} {fs : List Nat} {mo : Model} (hk : j.kind = .model key a fs)
    (hm : tget s.wrd.models key = some mo) (hf : mo.frames[j.done / pageBytes s]? = some f) (hd : hostStopped (a.plus j.done) s = false) :
    (pieceMoved j n s).mem = (memCopy (a.plus j.done) ((frameLoc f s).plus (j.done % pageBytes s)) n s).mem := by
  simp only [pieceMoved, hk, hm, hf, hd, Bool.false_eq_true, if_false, moverWrote_mem]
  exact memCopy_mem_congr (moverRead_mem ..) _ _ _

theorem model_carries {key : Nat} {a : Loc} {fs : List Nat} {mo : Model} (hs : s.MemOk) (hk : j.kind = .model key a fs)
    (hm : tget s.wrd.models key = some mo) (hf : mo.frames[j.done / pageBytes s]? = some f) (hd : hostStopped (a.plus j.done) s = false) :
    memRead ((frameLoc f s).plus (j.done % pageBytes s)) j.piece (pieceDone mv i slot j s) = memRead (a.plus j.done) j.piece s ∧
    UnchangedOutside ((frameLoc f s).plus (j.done % pageBytes s)) j.piece s (pieceDone mv i slot j s) := by
  have he : (pieceDone mv i slot j s).mem = (memCopy (a.plus j.done) ((frameLoc f s).plus (j.done % pageBytes s)) j.piece s).mem :=
    (pieceDone_mem ..).trans (pieceMoved_model (s := serving mv slot j s) hk hm hf hd)
  exact ⟨(memRead_congr he _ _).trans (memRead_memCopy hs ..), UnchangedOutside.of_mem (memCopy_unchanged hs _ _ _) he⟩

/-! ### A model that has arrived (R256) -/

theorem finish_latches (k pos : Nat) (st : Status) (aux : Nat) (s : State) : LatchesKept s (finish k pos st aux s) := by
  intro k' p' m l hm hl
  rw [finish_cmd]
  split
  · next h =>
    obtain ⟨rfl, rfl⟩ := h
    rw [hm, Option.map_some, Option.map_some, (Cmd.take_latch st aux m).1, hl]
    rfl
  · rw [hm, Option.map_some, hl]

/-- The commands that wait for a model finish with ST_OK. -/
def finishAll (ws : List (Nat × Nat × Nat)) (s : State) : State := ws.foldl (fun s w => finishOk (qkey w.1 w.2.1) w.2.2 s) s

theorem finishAll_within (ws : List (Nat × Nat × Nat)) (s : State) : Within [.front] s (finishAll ws s) :=
  Within.foldl (fun _ _ h => finish_within _ _ _ _ h (.refl _)) ws (.refl _ s)

theorem finishAll_latches (ws : List (Nat × Nat × Nat)) (s : State) : LatchesKept s (finishAll ws s) := by
  induction ws generalizing s with
  | nil => exact .refl s
  | cons w ws ih => exact (finish_latches _ _ _ _ s).trans (ih _)

theorem finishAll_cmd {ws : List (Nat × Nat × Nat)} {w : Nat × Nat × Nat} {m : Cmd} (hw : w ∈ ws)
    (hm : s.cmd (qkey w.1 w.2.1) w.2.2 = some m) (hl : m.latch = none) :
    ((finishAll ws s).cmd (qkey w.1 w.2.1) w.2.2).map (·.latch) = some (some ⟨.ok, 0⟩) := by
  induction ws generalizing s with
  | nil => cases hw
  | cons v ws ih =>
    by_cases he : qkey w.1 w.2.1 = qkey v.1 v.2.1 ∧ w.2.2 = v.2.2
    · have hf : (finishOk (qkey v.1 v.2.1) v.2.2 s).cmd (qkey w.1 w.2.1) w.2.2 =
          some { m.take .ok 0 with running := false, stopping := false } := by
        rw [he.1, he.2] at hm ⊢
        exact (finish_cmd ..).trans (by rw [if_pos ⟨rfl, rfl⟩, hm, Option.map_some])
      exact finishAll_latches ws _ _ _ _ _ hf ((Cmd.take_latch .ok 0 m).1.trans (by rw [hl]; rfl))
    · refine ih ((List.mem_cons.1 hw).resolve_left fun h => he (h ▸ ⟨rfl, rfl⟩)) ?_
      exact (finish_cmd ..).trans ((if_neg he).trans hm)

/-- A model in use whose source object is not freed is RESIDENT, and the commands that waited for it finish (R256). -/
theorem modelLanded_resident {key : Nat} {mo : Model} {o : Obj} (hm : tget s.wrd.models key = some mo) (hf : mo.frames ≠ [])
    (hor : mo.orphan = false) (ho : tget s.objects mo.srcKey = some o) (hp : o.freePending = false) :
    tget (modelLanded key s).wrd.models key = some { mo with state := .resident, waiters := [] } ∧
    (modelLanded key s).front = (finishAll mo.waiters s).front := by
  have hw := finishAll_within mo.waiters s
  have hmodel : tget (tupd (finishAll mo.waiters s).wrd.models key (fun m => { m with state := .resident, waiters := [] })) key =
      some { mo with state := .resident, waiters := [] } := by
    rw [tget_tupd, if_pos rfl, show (finishAll mo.waiters s).wrd = s.wrd from hw.same .wrd (by decide), hm]
    rfl
  have hobj : (finishAll mo.waiters s).objects = s.objects := hw.same .objects (by decide)
  have hreap : ∀ u : State, tget u.wrd.models key = some { mo with state := .resident, waiters := [] } → u.objects = s.objects →
      reapModel key u = u := fun u hu huo => by
    simp only [reapModel, hu, huo, ho, hp, hor, Bool.or_self, Bool.false_and, Bool.false_eq_true, if_false]
  have he : modelLanded key s = doneWork 1 (.modelLoad key)
      ((finishAll mo.waiters s).modModel key (fun m => { m with state := .resident, waiters := [] })) := by
    simp only [modelLanded, hm, List.isEmpty_eq_false_iff.2 hf, Bool.false_eq_true, if_false]
    exact hreap _ hmodel hobj
  rw [he]
  exact ⟨hmodel, rfl⟩

/-! ### A frame that is cleared (R231, R472) -/

theorem jobLanded_zero (hk : j.kind = .zero f) (hfree : (frameAt f s).state = .free) (hz : (frameAt f s).zeroPending = true) :
    jobLanded j s = setFrame f (Frame.of .free false) (memZero (frameLoc f s) (pageBytes s) s) := by
  simp only [jobLanded, hk]
  exact if_pos ⟨hfree, hz⟩

theorem pieceMoved_zero_within (hk : j.kind = .zero f) (n : Nat) (s : State) : Within [.port] s (pieceMoved j n s) := by
  simp only [pieceMoved, hk]
  exact emitAll_within _ (.refl _ s) (.refl _)

theorem frameAt_setFrame (f : Nat) (y : Frame) (s : State) : frameAt f (setFrame f y s) = y := by
  simp only [frameAt, setFrame, tget_tset_self]

/-! ### A page that lands (R247) -/

theorem checkMapout_none (h : s.wrd.mapout = none) (hw : s.wrd.mapoutWait = []) : checkMapout s = s := by
  simp only [checkMapout, hw, settleMapout, h]

/-- The page's frame takes the format that the page has where it came from, unless that was counted free at the start (R192, R247). -/
def formatted (src dst : Nat) (early : Bool) (s : State) : State :=
  if early then s else setFrame dst { frameAt dst s with format := (frameAt src s).format } s

/-- The frame that the page came from is free, unless it was when the move started (R192). -/
def leftFree (src : Nat) (early : Bool) (s : State) : State := if early then s else freeFrame src s

theorem formatted_at (src dst : Nat) (early : Bool) (s : State) : frameAt dst (formatted src dst early s) =
    { frameAt dst s with format := if early then (frameAt dst s).format else (frameAt src s).format } := by
  unfold formatted
  cases early with
  | true => rfl
  | false => exact frameAt_setFrame ..

theorem formatted_within (src dst : Nat) (early : Bool) (s : State) : Within [.wrd] s (formatted src dst early s) :=
  Within.ite (fun _ => .refl _ s) fun _ => setFrame_within _ _ (.refl _ s) (.refl _)

theorem pageLanded_kv {fmt step : Nat} {l : Option Nat} {demote early : Bool} (hp : passedOn j dst s = false)
    (hst : (frameAt dst s).state = .kv) (hh : (frameAt dst s).holders ≠ 0) :
    pageLanded j src dst fmt l demote early step s =
      trace 9 0 0xFFFF 0 dst (leftFree src early (pageArrives j src dst fmt l demote step (formatted src dst early s))) := by
  have hx := formatted_at src dst early s
  have h1 : ¬((frameAt dst (formatted src dst early s)).state = .lost ∨ (frameAt dst (formatted src dst early s)).holders = 0) := by
    rw [hx]
    rintro (h | h)
    · exact absurd (hst.symm.trans h) (by decide)
    · exact hh h
  have h2 : ¬(frameAt dst (formatted src dst early s)).holders = 0 := fun h => h1 (.inr h)
  obtain ⟨w, hw, he⟩ : ∃ w, w = (if (frameAt dst (formatted src dst early s)).state = .lost ∨
        (frameAt dst (formatted src dst early s)).holders = 0 then formatted src dst early s
      else pageArrives j src dst fmt l demote step (formatted src dst early s)) ∧
      pageLanded j src dst fmt l demote early step s = trace 9 0 0xFFFF 0 dst
        (if (frameAt dst (formatted src dst early s)).holders = 0 then freeFrame dst (leftFree src early w) else leftFree src early w) := by
    refine ⟨_, rfl, ?_⟩
    rw [pageLanded, hp, if_neg Bool.false_ne_true]
    rfl
  rw [he, if_neg h2, hw, if_neg h1]

theorem leftFree_frame (hne : src ≠ dst) (early : Bool) (s : State) : tget (leftFree src early s).wrd.frames dst = tget s.wrd.frames dst := by
  unfold leftFree
  cases early with
  | true => rfl
  | false => exact tget_tdel_ne _ hne.symm

theorem frameAt_of_some {y : Frame} (h : tget s.wrd.frames f = some y) : frameAt f s = y := by simp only [frameAt, h]

/-- A frame in use has an entry in the table. -/
theorem frame_of_kv (hst : (frameAt f s).state = .kv) : tget s.wrd.frames f = some (frameAt f s) := by
  cases hf : tget s.wrd.frames f with
  | some y => rw [frameAt_of_some hf]
  | none =>
    exfalso
    simp only [frameAt, hf] at hst
    split at hst <;> cases hst

/-- The page's own entry once the page has its format. -/
theorem formatted_frame (early : Bool) (hst : (frameAt dst s).state = .kv) : tget (formatted src dst early s).wrd.frames dst =
    some { frameAt dst s with format := if early then (frameAt dst s).format else (frameAt src s).format } := by
  rw [← formatted_at]
  exact frame_of_kv (by rw [formatted_at]; exact hst)

theorem formatted_mapout (src dst : Nat) (early : Bool) (s : State) :
    (formatted src dst early s).wrd.mapout = s.wrd.mapout ∧ (formatted src dst early s).wrd.mapoutWait = s.wrd.mapoutWait := by
  unfold formatted
  cases early with
  | true => exact ⟨rfl, rfl⟩
  | false => exact ⟨rfl, rfl⟩

theorem leftFree_mapout (src : Nat) (early : Bool) (s : State) :
    (leftFree src early s).wrd.mapout = s.wrd.mapout ∧ (leftFree src early s).wrd.mapoutWait = s.wrd.mapoutWait ∧
    (leftFree src early s).mem = s.mem ∧ (leftFree src early s).trestle = s.trestle := by
  unfold leftFree
  cases early with
  | true => exact ⟨rfl, rfl, rfl, rfl⟩
  | false => exact ⟨rfl, rfl, rfl, rfl⟩

/-- What a page that lands leaves, from the state in which its bytes have arrived (R247). -/
theorem pageLanded_leaves {fmt step : Nat} {l : Option Nat} {demote early : Bool} {u : State} (hk : j.kind = .page src dst fmt l demote early step)
    (hp : passedOn j dst s = false) (hst : (frameAt dst s).state = .kv) (hh : (frameAt dst s).holders ≠ 0) (hne : src ≠ dst)
    (hu : pageArrives j src dst fmt l demote step (formatted src dst early s) = u) (hmo : u.wrd.mapout = none) (hmw : u.wrd.mapoutWait = []) :
    (jobLanded j s).mem = u.mem ∧ (jobLanded j s).trestle = u.trestle ∧ (early = false → tget (jobLanded j s).wrd.frames src = none) ∧
    tget (jobLanded j s).wrd.frames dst = tget u.wrd.frames dst := by
  obtain ⟨h1, h2, h3, h4⟩ := leftFree_mapout src early u
  have he : jobLanded j s = trace 9 0 0xFFFF 0 dst (leftFree src early u) := by
    have hl : jobLanded j s = checkMapout (pageLanded j src dst fmt l demote early step s) := by simp only [jobLanded, hk]
    rw [hl, pageLanded_kv hp hst hh, hu, checkMapout_none]
    · rw [trace_wrd, h1, hmo]
    · rw [trace_wrd, h2, hmw]
  rw [he, trace_mem, trace_wrd, trace_trestle]
  refine ⟨h3, h4, fun hearly => ?_, leftFree_frame hne early u⟩
  rw [leftFree, hearly]
  exact tget_tdel_self _ _

end Sys2Proof.Machine
end

section
/-! SUPPORT for O29. A page that is converted where it lands (R238, R239, R246), and one that is not. -/

namespace Sys2Proof.Machine

variable {mv i n src dst f fmt step l : Nat} {slot : Option Nat} {x : Mover} {j : MoveJob} {lp : Loop} {s t : State}

/-! ### The length of a stored page (R237) -/

theorem packCodes_length (w : Nat) (cs : List Nat) : (packCodes w cs).length = 4 * w := le_length _ _

/-- No stored block is longer than a native one. -/
theorem blockIn_length (fmt : Nat) {b : List Byte} (hb : b.length ≤ 64) :
    (blockIn fmt b).codes.length + (blockIn fmt b).info.length ≤ 64 := by
  have hmx : (mxBlock fmt b).codes.length + (mxBlock fmt b).info.length ≤ 64 := by
    unfold mxBlock
    dsimp only
    split
    · simp only [packCodes_length, List.length_singleton]; omega
    · have hw : (mxElem fmt).width ≤ 6 := by
        unfold mxElem
        split
        · exact le_rfl
        · split
          · exact le_rfl
          · exact (by decide : 4 ≤ 6)
      simp only [packCodes_length, List.length_singleton]
      omega
  unfold blockIn
  split
  · exact hb
  · split
    · simp only [int4Block, packCodes_length, List.length_append, le_length, List.length_singleton]; omega
    · exact hmx

theorem storedBlocks_length {bs : List StoredBlock} (h : ∀ b ∈ bs, b.codes.length + b.info.length ≤ 64) :
    (bs.map (·.codes)).flatten.length + (bs.map (·.info)).flatten.length ≤ 64 * bs.length := by
  induction bs with
  | nil => exact le_rfl
  | cons b bs ih =>
    have h1 := h b (List.mem_cons_self ..)
    have h2 := ih fun b' hb => h b' (List.mem_cons_of_mem _ hb)
    simp only [List.map_cons, List.flatten_cons, List.length_append, List.length_cons]
    omega

theorem requant_length (fmt : Nat) (page : List Byte) : (requant fmt page).length ≤ page.length := by
  have hb : ∀ b ∈ (pageBlocks page).map (blockIn fmt), b.codes.length + b.info.length ≤ 64 := fun b hb => by
    obtain ⟨c, hc, rfl⟩ := List.mem_map.1 hb
    obtain ⟨k, -, rfl⟩ := List.mem_map.1 hc
    exact blockIn_length fmt (List.length_take_le _ _)
  have hn : ((pageBlocks page).map (blockIn fmt)).length = page.length / 64 := by simp [pageBlocks]
  have hsum := storedBlocks_length hb
  rw [hn] at hsum
  rw [requant, List.length_append]
  exact hsum.trans (Nat.mul_div_le _ _)

/-! ### The bytes of a converted page (R231) -/

theorem memRead_append (l : Loc) (a b : Nat) (s : State) : memRead l (a + b) s = memRead l a s ++ memRead (l.plus a) b s := by
  simp only [memRead, readN, List.range_add, List.map_append, List.map_map, Loc.plus, Function.comp_def, Nat.add_assoc]

theorem memRead_write_apart {k d : Loc} {bs : List Byte} {m : Nat} (h : t.mem = s.mem.write d bs) (ha : Apart d bs.length k m) :
    memRead k m t = memRead k m s :=
  memRead_eq_of_cells fun b hb => by
    rw [h, Mems.of_write]
    by_cases hsp : k.space = d.space
    · rw [if_pos hsp, cellGet_writeN_outside]
      rcases ha with ha | ha | ha
      · exact absurd hsp.symm ha
      · exact .inr (by omega)
      · exact .inl (by omega)
    · rw [if_neg hsp]

/-- Bytes written at the start of a range that has been zeroed. -/
theorem memRead_written_zeroed {d : Loc} {bs : List Byte} {p : Nat} (hs : s.MemOk) (hb : bs.length ≤ p)
    (h : t.mem = (memZero d p s).mem.write d bs) : memRead d p t = padTo p bs := by
  have hsplit : p = bs.length + (p - bs.length) := by omega
  have hafter : Apart d bs.length (d.plus bs.length) (p - bs.length) := .inr (.inl le_rfl)
  have hrest : (d.plus bs.length).addr + (p - bs.length) ≤ d.addr + p := by simp only [Loc.plus]; omega
  have happ := memRead_append d bs.length (p - bs.length) t
  rw [← hsplit] at happ
  have hzero : memRead (d.plus bs.length) (p - bs.length) (memZero d p s) = zeros (p - bs.length) :=
    memRead_memZero_part rfl (Nat.le_add_right _ _) hrest
  rw [happ, memRead_write d bs (memZero_ok hs d p) h, memRead_write_apart h hafter, hzero, padTo]

theorem convertFrame_reads (hs : s.MemOk) (dst fmt : Nat) : memRead (frameLoc dst s) (pageBytes s) (convertFrame dst fmt s) =
    padTo (pageBytes s) (requant fmt (memRead (frameLoc dst s) (pageBytes s) s)) :=
  memRead_written_zeroed hs ((requant_length ..).trans (memRead_length ..).le) rfl

theorem carryPage_reads (hs : s.MemOk) (hne : src ≠ dst) : memRead (frameLoc dst s) (pageBytes s) (carryPage src dst (pageBytes s) s) =
    memRead (frameLoc src s) (pageBytes s) s :=
  (memRead_memCopy (memZero_ok hs _ _) _ _ _).trans (memRead_memZero_apart (frames_apart hne s))

/-! ### The loop of a converted page (R239, R246) -/

/-- A loop is there with its count of gated pages. -/
def Gated (l g : Nat) (s : State) : Prop := ∃ lp, tget s.trestle.loops l = some lp ∧ lp.stats.gated = g

theorem Gated.of_same {g : Nat} (h : Gated l g s) (ht : t.trestle = s.trestle) : Gated l g t := by
  rw [Gated, ht]; exact h

theorem modStats_gated {g : Nat} {k : LoopStats → LoopStats} (d : Nat) (hk : ∀ y, (k y).gated = y.gated + d) (h : Gated l g s) :
    Gated l (g + d) (s.modStats l k) := by
  obtain ⟨lp, hl, rfl⟩ := h
  refine ⟨{ lp with stats := k lp.stats }, ?_, hk _⟩
  show tget (tupd s.trestle.loops l _) l = _
  rw [tget_tupd, if_pos rfl, hl]
  rfl

theorem countDemoted_gated {g : Nat} (fmt : Nat) (mean : Option Nat) (h : Gated l g s) : Gated l g (countDemoted l fmt mean s) := by
  refine modStats_gated 0 (fun y => ?_) h
  cases mean with
  | none =>
    dsimp only
    split <;> rfl
  | some m =>
    dsimp only
    split <;> rfl

theorem journal_gated {g typ tag step part items : Nat} {b : List Byte} (h : Gated l g s) :
    Gated l g (journal l typ tag step part items b s) := by
  obtain ⟨lp, hl, hg⟩ := h
  unfold journal
  rw [hl]
  dsimp only
  split
  · exact ⟨lp, hl, hg⟩
  · rw [Gated, takeOrWait_trestle]
    exact ⟨_, tget_tset_self _ _ _, hg⟩

theorem Gated.foldl {α : Type} {g : Nat} {k : State → α → State} (hk : ∀ s a, Gated l g s → Gated l g (k s a)) (as : List α)
    (h : Gated l g s) : Gated l g (as.foldl k s) := by
  induction as generalizing s with
  | nil => exact h
  | cons a as ih => exact ih (hk s a h)

theorem journalConvert_gated {g : Nat} (f fmt step : Nat) (h : Gated l g s) : Gated l g (journalConvert l f fmt step s) := by
  unfold journalConvert
  split
  · exact h
  · exact .foldl (fun _ _ h => journal_gated h) _ h

/-- A page that the error gate refuses keeps its format and its bytes, and is counted (R239). -/
theorem convertLanded_gated (hl : tget s.trestle.loops l = some lp)
    (hg : (lp.replay.isNone && gateFails (pageMse fmt (memRead (frameLoc src s) (pageBytes s) s)) lp.params.mse
      (memRead (frameLoc src s) (pageBytes s) s)) = true) :
    (convertLanded j src dst fmt l step lp s).mem = (carryPage src dst (pageBytes s) s).mem ∧
    (convertLanded j src dst fmt l step lp s).wrd = s.wrd ∧
    Gated l (lp.stats.gated + 1) (convertLanded j src dst fmt l step lp s) := by
  have hc := carryPage_within src dst (pageBytes s) (.refl [.mem] s) (.refl _)
  have hw := moverWrote_within j (frameLoc dst s) (pageBytes s) (.refl [.port, .hub] (carryPage src dst (pageBytes s) s)) (.refl _)
  have hd := State.modStats_within l (fun t => { t with gated := t.gated + 1 }) (countDemoted_within l 0 none (.refl [.trestle]
    (moverWrote j (frameLoc dst s) (pageBytes s) (carryPage src dst (pageBytes s) s))) (.refl _)) (.refl _)
  have he : convertLanded j src dst fmt l step lp s =
      (countDemoted l 0 none (moverWrote j (frameLoc dst s) (pageBytes s) (carryPage src dst (pageBytes s) s))).modStats l
        (fun t => { t with gated := t.gated + 1 }) := by
    simp only [convertLanded, hg, if_true]
  have hloop : Gated l lp.stats.gated s := ⟨lp, hl, rfl⟩
  rw [he]
  exact ⟨(hd.same .mem (by decide)).trans (hw.same .mem (by decide)),
    (hd.same .wrd (by decide)).trans ((hw.same .wrd (by decide)).trans (hc.same .wrd (by decide))),
    modStats_gated 1 (fun _ => rfl) (countDemoted_gated 0 none (hloop.of_same ((hw.same .trestle (by decide)).trans
      (hc.same .trestle (by decide)))))⟩

/-- A page that is converted has its stored form in the new frame, and the format it was asked in (R246). -/
theorem convertLanded_converted (hl : tget s.trestle.loops l = some lp)
    (hg : (lp.replay.isNone && gateFails (pageMse fmt (memRead (frameLoc src s) (pageBytes s) s)) lp.params.mse
      (memRead (frameLoc src s) (pageBytes s) s)) = false) :
    (convertLanded j src dst fmt l step lp s).mem =
      (convertFrame dst fmt (memCopy (frameLoc src s) (frameLoc dst s) (pageBytes s) s)).mem ∧
    (convertLanded j src dst fmt l step lp s).wrd =
      (convertFrame dst fmt (memCopy (frameLoc src s) (frameLoc dst s) (pageBytes s) s)).wrd ∧
    Gated l lp.stats.gated (convertLanded j src dst fmt l step lp s) := by
  have he : ∃ mean bytes, convertLanded j src dst fmt l step lp s = journalConvert l dst fmt step (countDemoted l fmt mean
      (moverWrote j (frameLoc dst (convertFrame dst fmt (memCopy (frameLoc src s) (frameLoc dst s) (pageBytes s) s))) bytes
        (convertFrame dst fmt (memCopy (frameLoc src s) (frameLoc dst s) (pageBytes s) s)))) := by
    refine ⟨some (pageMse fmt (memRead (frameLoc src s) (pageBytes s) s)),
      storedBytes fmt (convertFrame dst fmt (memCopy (frameLoc src s) (frameLoc dst s) (pageBytes s) s)), ?_⟩
    simp only [convertLanded, hg, Bool.false_eq_true, if_false]
  obtain ⟨mean, bytes, he⟩ := he
  have hc := convertFrame_within dst fmt (memCopy_within (frameLoc src s) (frameLoc dst s) (pageBytes s) (.refl [.mem, .wrd] s)
    (by simp [Covers])) (.refl _)
  generalize convertFrame dst fmt (memCopy (frameLoc src s) (frameLoc dst s) (pageBytes s) s) = u at he hc ⊢
  have hw := moverWrote_within j (frameLoc dst u) bytes (.refl [.port, .hub] u) (.refl _)
  have hj := journalConvert_within l dst fmt step (countDemoted_within l fmt mean
    (.refl [.trestle, .chest, .jnl] (moverWrote j (frameLoc dst u) bytes u)) (by simp [Covers])) (.refl _)
  have hloop : Gated l lp.stats.gated s := ⟨lp, hl, rfl⟩
  rw [he]
  exact ⟨(hj.same .mem (by decide)).trans (hw.same .mem (by decide)), (hj.same .wrd (by decide)).trans (hw.same .wrd (by decide)),
    journalConvert_gated dst fmt step (countDemoted_gated fmt mean (hloop.of_same ((hw.same .trestle (by decide)).trans
      (hc.same .trestle (by decide)))))⟩

theorem setFrame_wrd (f : Nat) (y : Frame) (s : State) :
    (setFrame f y s).wrd = { s.wrd with frames := tset s.wrd.frames f y } := rfl

/-- Of Wardrobe a conversion writes the entry of its frame (R239). -/
theorem convertFrame_wrd (dst fmt : Nat) (s : State) : (convertFrame dst fmt s).wrd =
    { s.wrd with frames := tset s.wrd.frames dst { frameAt dst s with format := fmt } } := by
  obtain ⟨l, b, p, he⟩ : ∃ l b p, convertFrame dst fmt s = setFrame dst { frameAt dst s with format := fmt } (memWrite l b (memZero l p s)) :=
    ⟨_, _, _, rfl⟩
  rw [he, setFrame_wrd, (memWrite_wrd ..).trans (memZero_wrd ..)]

theorem memCopy_alike (a b : Loc) (n : Nat) (s : State) : FramesAlike s (memCopy a b n s) :=
  .within (memCopy_within a b n (.refl [.mem] s) (.refl _)) (by decide)

/-! ### A page that arrives (R247) -/

/-- A page that is not converted changes no more than the counts of its loop where it lands. -/
theorem pageArrives_plain {o : Option Nat} {demote : Bool}
    (h : ∀ l', o = some l' → (tget s.trestle.loops l').isSome = true → demote = true → fmt = (frameAt dst s).format) :
    Within [.trestle] s (pageArrives j src dst fmt o demote step s) := by
  unfold pageArrives
  dsimp only
  split
  · exact .refl _ s
  · next l' lp hb =>
    obtain ⟨l0, ho, hlp⟩ := Option.bind_eq_some_iff.1 hb
    obtain ⟨lp0, hlp0, heq⟩ := Option.map_eq_some_iff.1 hlp
    obtain ⟨rfl, rfl⟩ := Prod.mk.inj heq
    have hf := h l0 ho (by rw [hlp0]; rfl)
    split
    · next hd =>
      obtain ⟨h1, h2⟩ := Bool.and_eq_true_iff.1 hd
      exact absurd (hf h1) (of_decide_eq_true h2)
    · refine .ite (fun _ => countDemoted_within _ _ _ (.refl _ s) (.refl _)) fun _ => .ite (fun _ => ?_) fun _ => .refl _ s
      exact State.modStats_within _ _ (.refl _ s) (.refl _)

theorem pageArrives_converts (hl : tget s.trestle.loops l = some lp) (hf : fmt ≠ (frameAt dst s).format) :
    pageArrives j src dst fmt (some l) true step s = convertLanded j src dst fmt l step lp s := by
  simp only [pageArrives, Option.bind_some, hl, Option.map_some, decide_eq_true hf, Bool.and_self, if_true]

theorem converts_iff {o : Option Nat} {demote early : Bool} (hk : j.kind = .page src dst fmt o demote early step)
    (hh : (frameAt dst s).holders ≠ 0) : j.converts s = true ↔ ∃ l', o = some l' ∧ demote = true ∧ (tget s.trestle.loops l').isSome = true ∧
      fmt ≠ (if early then (frameAt dst s).format else (frameAt src s).format) := by
  cases o with
  | none => simp [MoveJob.converts, hk]
  | some l' =>
    cases demote with
    | false => simp [MoveJob.converts, hk]
    | true => simp [MoveJob.converts, hk, hh]

/-! ### The last piece of a page -/

/-- A page's move whose last piece lands, into a frame where the page is still held, with no map-out under way (R247, R249). -/
structure PageEnds (j : MoveJob) (src dst fmt : Nat) (o : Option Nat) (demote early : Bool) (step : Nat) (s : State) : Prop where
  kind : j.kind = .page src dst fmt o demote early step
  last : j.total ≤ j.done + j.piece
  ne : src ≠ dst
  kept : passedOn j dst s = false
  mapout : s.wrd.mapout = none
  waits : s.wrd.mapoutWait = []
  kv : (frameAt dst s).state = .kv
  held : (frameAt dst s).holders ≠ 0

section
variable {o : Option Nat} {demote early : Bool} {u : State}

theorem PageEnds.frame (h : PageEnds j src dst fmt o demote early step s) : j.kind.carriesFrame src dst :=
  .inl ⟨_, _, _, _, _, h.kind⟩

/-- What the last piece leaves, from the state in which the page has arrived. -/
theorem PageEnds.leaves (h : PageEnds j src dst fmt o demote early step s)
    (hu : pageArrives j src dst fmt o demote step (formatted src dst early (pieceDone mv i slot j s)) = u)
    (hm : u.wrd.mapout = (formatted src dst early (pieceDone mv i slot j s)).wrd.mapout)
    (hw : u.wrd.mapoutWait = (formatted src dst early (pieceDone mv i slot j s)).wrd.mapoutWait) :
    (jobLanded j (pieceDone mv i slot j s)).mem = u.mem ∧ (jobLanded j (pieceDone mv i slot j s)).trestle = u.trestle ∧
    (early = false → tget (jobLanded j (pieceDone mv i slot j s)).wrd.frames src = none) ∧
    tget (jobLanded j (pieceDone mv i slot j s)).wrd.frames dst = tget u.wrd.frames dst := by
  have ha := pieceDone_alike mv i slot j s
  obtain ⟨hmo, hwo⟩ := formatted_mapout src dst early (pieceDone mv i slot j s)
  exact pageLanded_leaves h.kind (pieceDone_passedOn h.last h.kept) (by rw [ha.frameAt]; exact h.kv) (by rw [ha.frameAt]; exact h.held)
    h.ne hu (hm.trans (hmo.trans (ha.mapout.trans h.mapout))) (hw.trans (hwo.trans (ha.mapoutWait.trans h.waits)))

/-- The entry of the page's frame once the page has its format. -/
theorem PageEnds.entry (h : PageEnds j src dst fmt o demote early step s) :
    tget (formatted src dst early (pieceDone mv i slot j s)).wrd.frames dst =
      some { frameAt dst s with format := if early then (frameAt dst s).format else (frameAt src s).format } := by
  have ha := pieceDone_alike mv i slot j s
  rw [formatted_frame early (by rw [ha.frameAt]; exact h.kv), ha.frameAt, ha.frameAt]

/-- A page that is not converted (R247). -/
theorem PageEnds.plain (h : PageEnds j src dst fmt o demote early step s) (hc : j.converts s = false) :
    (early = false → tget (jobLanded j (pieceDone mv i slot j s)).wrd.frames src = none) ∧
    frameAt dst (jobLanded j (pieceDone mv i slot j s)) =
      { frameAt dst s with format := if early then (frameAt dst s).format else (frameAt src s).format } ∧
    (jobLanded j (pieceDone mv i slot j s)).mem = (pieceDone mv i slot j s).mem := by
  have ha := pieceDone_alike mv i slot j s
  have hfw := formatted_within src dst early (pieceDone mv i slot j s)
  have hplain := pageArrives_plain (j := j) (src := src) (step := step) (fmt := fmt) (o := o) (demote := demote) (dst := dst)
    (s := formatted src dst early (pieceDone mv i slot j s)) fun l' ho hl hd => by
      rw [hfw.same .trestle (by decide), ha.trestle] at hl
      rw [formatted_at, ha.frameAt, ha.frameAt]
      by_contra hne
      exact Bool.eq_false_iff.1 hc ((converts_iff h.kind h.held).2 ⟨l', ho, hd, hl, hne⟩)
  have hwrd := hplain.same .wrd (by decide)
  obtain ⟨hmem, -, hsrc, hdst⟩ := h.leaves (mv := mv) (i := i) (slot := slot) rfl (congrArg Wardrobe.mapout hwrd :)
    (congrArg Wardrobe.mapoutWait hwrd :)
  refine ⟨hsrc, frameAt_of_some (hdst.trans ((congrArg (fun w : Wardrobe => tget w.frames dst) hwrd :).trans h.entry)), hmem.trans ?_⟩
  exact (hplain.same .mem (by decide)).trans (hfw.same .mem (by decide))

/-- A page that is to be converted: gated, or in its stored form (R239, R246). -/
theorem PageEnds.converted (h : PageEnds j src dst fmt (some l) true false step s) (hs : s.MemOk) (hl : tget s.trestle.loops l = some lp)
    (hf : fmt ≠ (frameAt src s).format) :
    let page := memRead (frameLoc src s) (pageBytes s) s
    let gated := lp.replay.isNone && gateFails (pageMse fmt page) lp.params.mse page
    let t := jobLanded j (pieceDone mv i slot j s)
    tget t.wrd.frames src = none ∧
    frameAt dst t = { frameAt dst s with format := if gated then (frameAt src s).format else fmt } ∧
    Gated l (lp.stats.gated + b2n gated) t ∧
    memRead (frameLoc dst s) (pageBytes s) t = if gated then page else padTo (pageBytes s) (requant fmt page) := by
  intro page gated t
  have ha := pieceDone_alike mv i slot j s
  have hmem : (pieceDone mv i slot j s).mem = s.mem :=
    pieceDone_converts h.frame ((converts_iff h.kind h.held).2 ⟨l, rfl, rfl, by rw [hl]; rfl, hf⟩)
  set v := formatted src dst false (pieceDone mv i slot j s) with hv
  have hvmem : v.mem = s.mem := hmem
  have hvs : v.MemOk := by rw [State.MemOk, hvmem]; exact hs
  have hvl : tget v.trestle.loops l = some lp := by rw [← hl, ← ha.trestle]; rfl
  have hvp : pageBytes v = pageBytes s := ha.pageBytes
  have hvf : ∀ f, frameLoc f v = frameLoc f s := ha.frameLoc
  have hvd : fmt ≠ (frameAt dst v).format := by rw [hv, formatted_at, ha.frameAt, ha.frameAt]; exact hf
  have hpage : memRead (frameLoc src v) (pageBytes v) v = page := by rw [hvp, hvf]; exact memRead_congr hvmem _ _
  have harr := pageArrives_converts (j := j) (src := src) (step := step) hvl hvd
  by_cases hg : gated = true
  · obtain ⟨hm, hw, hcount⟩ := convertLanded_gated (j := j) (dst := dst) (step := step) (fmt := fmt) (src := src) hvl (by rw [hpage]; exact hg)
    obtain ⟨htm, htt, hsrc, hdst⟩ := h.leaves (mv := mv) (i := i) (slot := slot) harr (congrArg Wardrobe.mapout hw :)
      (congrArg Wardrobe.mapoutWait hw :)
    rw [hg]
    refine ⟨hsrc rfl, frameAt_of_some ?_, hcount.of_same htt, ?_⟩
    · exact hdst.trans ((congrArg (fun w : Wardrobe => tget w.frames dst) hw :).trans h.entry)
    · have hr := carryPage_reads hvs h.ne
      rw [hvp, hvf, hvf] at hr
      exact (memRead_congr (htm.trans (hvp ▸ hm)) _ _).trans (hr.trans (memRead_congr hvmem _ _))
  · have hg' : gated = false := Bool.eq_false_iff.2 hg
    obtain ⟨hm, hw, hcount⟩ := convertLanded_converted (j := j) (dst := dst) (step := step) (fmt := fmt) (src := src) hvl
      (by rw [hpage]; exact hg')
    have hcw := convertFrame_wrd dst fmt (memCopy (frameLoc src v) (frameLoc dst v) (pageBytes v) v)
    obtain ⟨htm, htt, hsrc, hdst⟩ := h.leaves (mv := mv) (i := i) (slot := slot) harr
      (congrArg Wardrobe.mapout (hw.trans hcw) :) (congrArg Wardrobe.mapoutWait (hw.trans hcw) :)
    rw [hg']
    refine ⟨hsrc rfl, frameAt_of_some ?_, hcount.of_same htt, ?_⟩
    · refine hdst.trans ((congrArg (fun w : Wardrobe => tget w.frames dst) (hw.trans hcw) :).trans ?_)
      show tget (tset _ dst _) dst = _
      rw [tget_tset_self, (memCopy_alike ..).frameAt, hv, formatted_at, ha.frameAt]
      rfl
    · have hr := convertFrame_reads (memCopy_ok hvs (frameLoc src v) (frameLoc dst v) (pageBytes v)) dst fmt
      rw [(memCopy_alike ..).frameLoc, (memCopy_alike ..).pageBytes, memRead_memCopy hvs, hpage, ← memRead_congr (htm.trans hm), hvf, hvp] at hr
      exact hr

end

end Sys2Proof.Machine
end

section
/-! O29: copies and fills as jobs, and the pieces of each kind of job. -/

namespace Sys2Proof.Machine

section
variable {mv i src dst f : Nat} {slot : Option Nat} {x : Mover} {j : MoveJob} {s : State}

/-! ### The pieces, kind by kind -/

/-- The last piece of a model makes it RESIDENT (R256). -/
theorem Lands.model_last {key : Nat} {a : Loc} {fs : List Nat} {mo : Model} {o : Obj} (h : Lands mv i slot x j s)
    (hw : jobWaits j s = false) (hh : j.held j.piece s = false) (hk : j.kind = .model key a fs) (hl : j.total ≤ j.done + j.piece)
    (hm : tget s.wrd.models key = some mo) (hf : mo.frames ≠ []) (hor : mo.orphan = false) (ho : tget s.objects mo.srcKey = some o)
    (hp : o.freePending = false) :
    tget (moverPieceLanded mv slot s).wrd.models key = some { mo with state := .resident, waiters := [] } ∧
    ∀ w m, w ∈ mo.waiters → s.cmd (qkey w.1 w.2.1) w.2.2 = some m → m.latch = none →
      ((moverPieceLanded mv slot s).cmd (qkey w.1 w.2.1) w.2.2).map (·.latch) = some (some ⟨.ok, 0⟩) := by
  have hd := pieceDone_within mv i slot j s
  have he : moverPieceLanded mv slot s = modelLanded key (pieceDone mv i slot j s) := by
    rw [h.step hw hh, if_pos hl]
    simp only [jobLanded, hk]
  obtain ⟨hres, hfront⟩ := modelLanded_resident (key := key) (s := pieceDone mv i slot j s)
    (by rw [(pieceDone_alike ..).models]; exact hm) hf hor (by rw [hd.same .objects (by decide)]; exact ho) hp
  rw [he]
  refine ⟨hres, fun w m hwm hcmd hlatch => ?_⟩
  have hc : (pieceDone mv i slot j s).cmd (qkey w.1 w.2.1) w.2.2 = some m := by
    rw [State.cmd, hd.same .front (by decide)]; exact hcmd
  rw [State.cmd, hfront]
  exact finishAll_cmd hwm hc hlatch

/-- The last piece of a zeroing clears its frame (R231, R472). -/
theorem Lands.zero_last (h : Lands mv i slot x j s) (hw : jobWaits j s = false) (hh : j.held j.piece s = false) (hk : j.kind = .zero f)
    (hl : j.total ≤ j.done + j.piece) (hfree : (frameAt f s).state = .free) (hz : (frameAt f s).zeroPending = true) :
    frameAt f (moverPieceLanded mv slot s) = Frame.of .free false ∧
    (∀ g, g ≠ f → tget (moverPieceLanded mv slot s).wrd.frames g = tget s.wrd.frames g) ∧
    memRead (frameLoc f s) (pageBytes s) (moverPieceLanded mv slot s) = zeros (pageBytes s) ∧
    OnlyIn [.port, .mem, .wrd] s (moverPieceLanded mv slot s) := by
  have ha := pieceDone_alike mv i slot j s
  have hd : Within [.port, .mem, .wrd] s (pieceDone mv i slot j s) := by
    have hp := pieceMoved_zero_within hk j.piece (serving mv slot j s)
    exact State.modMover_within _ _ ⟨fun p hp' => Part.same_trans ((State.modMover_within _ _ (.refl [.port, .mem, .wrd] s)
      (by simp [Covers])).same p hp') (hp.same p (by simp_all)), hp.canon⟩ (by simp [Covers])
  have he : moverPieceLanded mv slot s =
      setFrame f (Frame.of .free false) (memZero (frameLoc f s) (pageBytes s) (pieceDone mv i slot j s)) := by
    rw [h.step hw hh, if_pos hl, jobLanded_zero hk (by rw [ha.frameAt]; exact hfree) (by rw [ha.frameAt]; exact hz), ha.frameLoc,
      ha.pageBytes]
  rw [he]
  refine ⟨frameAt_setFrame .., fun g hg => ?_, ?_, ?_⟩
  · rw [setFrame_wrd, memZero_wrd]
    exact (tget_tset_ne _ _ hg).trans (congrArg (fun t => tget t g) ha.frames)
  · rw [memRead_congr (setFrame_mem ..)]
    exact memRead_memZero ..
  · exact (setFrame_within _ _ (memZero_within _ _ hd (by simp [Covers])) (by simp [Covers])).onlyIn

theorem pieceDone_onlyIn : OnlyIn [.port, .mem, .hub, .wrd] s (pieceDone mv i slot j s) := (pieceDone_within ..).onlyIn

end

/-- Settles O29: the two commands by whether their objects are there; the mover by whether a job ends, none is its slot's, or one is
served, and then kind by kind. -/
theorem moversCopyAndFill : Obligations.MoversCopyAndFill := by
  unfold Obligations.MoversCopyAndFill
  refine ⟨⟨?copy, ?fill⟩, fun mv i slot x j s hx hs => ⟨?stops, ?idle, fun hstill hj hours hfirst hbg hfg => ?piece⟩⟩
  case copy =>
    intro c q pos m s hst _ _
    refine ⟨fun a b i ha hb hi => ?_, fun h => ?_⟩
    · have he : Machine.exec (.opCopy c q pos) s = _ := congrArg Host.Outcome.next (opCopy_job hst ha hb)
      obtain ⟨hcmd, hjob, hothers⟩ := startJob_begun (kind := .copy c q pos a b) rfl rfl hst hi (fld m.entry 40 8) (payCtx c s)
      exact ⟨_, he, hcmd, hjob, hothers, onlyIn_of_exec he⟩
    · exact ⟨_, congrArg Host.Outcome.next (opCopy_stale hst h), finish_stale hst⟩
  case fill =>
    intro c q pos m s hst _ _
    refine ⟨fun a i ha hi => ?_, fun h => ?_⟩
    · have he : Machine.exec (.opFill c q pos) s = _ := congrArg Host.Outcome.next (opFill_job hst ha)
      obtain ⟨hcmd, hjob, hothers⟩ := startJob_begun (kind := .fill c q pos a (slice m.entry 40 (fld m.entry 20 1))) rfl rfl hst hi
        (fld m.entry 32 8) (payCtx c s)
      exact ⟨_, he, hcmd, hjob, hothers, onlyIn_of_exec he⟩
    · exact ⟨_, congrArg Host.Outcome.next (opFill_stale hst h), finish_stale hst⟩
  case stops =>
    intro h
    refine ⟨_, congrArg Host.Outcome.next (moverPieceLanded_stops hx h), ?_, ?_⟩
    · have hw := settleStops_within (.refl [.front] (s.modMover mv (fun x =>
        Mover.tick s.now { x with jobs := x.jobs.filter (fun g => !(g.stopped && inSlot slot g s)) }))) (.refl _)
      rw [hw.same .wrd (by decide)]
      exact modMover_get hx _
    · exact (settleStops_within (State.modMover_within _ _ (.refl [.front, .wrd] s) (by simp [Covers])) (by simp [Covers])).onlyIn
  case idle => exact fun h => congrArg Host.Outcome.next (moverPieceLanded_idle hx h)
  case piece =>
    have h : Lands mv i slot x j s := ⟨hx, hstill, hj, Mover.serves_eq hj hours hfirst hbg hfg⟩
    refine ⟨fun hw => congrArg Host.Outcome.next (h.waits hw), fun hw hh => ⟨?copies, ?fills, ?model, ?modelLast, ?zero, ?frame, ?page⟩⟩
    case copies =>
      intro c q pos a b hk
      obtain ⟨t, ht, hmoved, hret, hmem, honly⟩ := h.command (c := c) (q := q) (pos := pos) hw hh (fun u => by simp only [jobLanded, hk]; rfl)
      obtain ⟨hcarried, hkept, hout⟩ := copy_carries (s := serving mv slot j s) hs hk hmem
      exact ⟨t, congrArg Host.Outcome.next ht, hmoved, hret, hcarried, hkept, hout, honly⟩
    case fills =>
      intro c q pos b pat hk
      obtain ⟨t, ht, hmoved, hret, hmem, honly⟩ := h.command (c := c) (q := q) (pos := pos) hw hh (fun u => by simp only [jobLanded, hk]; rfl)
      obtain ⟨hfilled, hout⟩ := fill_carries (s := serving mv slot j s) hs hk hmem
      exact ⟨t, congrArg Host.Outcome.next ht, hmoved, hret, hfilled, hout, honly⟩
    case model =>
      intro key a fs mo f hk hl hm hf hd
      obtain ⟨hbytes, hout⟩ := model_carries (mv := mv) (i := i) (slot := slot) hs hk hm hf hd
      exact ⟨_, congrArg Host.Outcome.next ((h.step hw hh).trans (if_neg hl)), pieceDone_moved hx, pieceDone_onlyIn, hbytes, hout⟩
    case modelLast =>
      intro key a fs mo o hk hl hm hf hor ho hp
      exact ⟨_, rfl, h.model_last hw hh hk hl hm hf hor ho hp⟩
    case zero =>
      intro f hk hl hfree hz
      exact ⟨_, rfl, h.zero_last hw hh hk hl hfree hz⟩
    case frame =>
      intro src dst hk hl hne hp
      exact ⟨_, congrArg Host.Outcome.next ((h.step hw hh).trans (if_neg hl)), pieceDone_moved hx, (pieceDone_alike ..).frames,
        pieceDone_onlyIn, pieceDone_converts hk, fun hc => pieceDone_carries hs hk hne hp hc rfl⟩
    case page =>
      intro src dst fmt l demote early step hk hl hne hpass hmo hmw hkv hheld
      have hend : PageEnds j src dst fmt l demote early step s := ⟨hk, hl, hne, hpass, hmo, hmw, hkv, hheld⟩
      have he : Machine.exec (.moverPieceLanded mv slot) s = .next (jobLanded j (pieceDone mv i slot j s)) :=
        congrArg Host.Outcome.next ((h.step hw hh).trans (if_pos hl))
      refine ⟨fun hc hp => ?_, fun u lp hd hlu hlp hf hearly => ?_⟩
      · obtain ⟨hsrc, hdst, hmem⟩ := hend.plain (mv := mv) (i := i) (slot := slot) hc
        obtain ⟨hbytes, -⟩ := pieceDone_carries hs hend.frame hne hp hc hmem
        exact ⟨_, he, hsrc, hdst, hbytes⟩
      · subst hd hlu hearly
        obtain ⟨hsrc, hdst, ⟨lp', hlp', hgated⟩, hpage⟩ := hend.converted (mv := mv) (i := i) (slot := slot) hs hlp hf
        exact ⟨_, lp', he, hsrc, hdst, hlp', hgated, hpage⟩

end Sys2Proof.Machine
end

section
/-! Refutation of O27: the last step-end report of a run (R176), after which the decision pass (R276) launches a waiting run on the stream that it
has just released. -/

namespace Sys2Proof.Machine

/-- The run of an OP_LAUNCH_GRAPH of context 0 on bench 0. -/
def lastRun : Launch :=
  { ctx := 0, tag := 0, step := 0, loopId := none, cmd := some (0, 0), gkey := 0, ver := 0, ordinal := 0, parts := [0], benches := [0],
    batch := 0, args := [], windowUs := 0, res := 0 }

/-- One slice, whose stream 0 has sent the step-end report of the only run; an OP_LAUNCH_GRAPH of context 1 waits for a bench. -/
def jobWaitsAtEnd : State :=
  { State.reset with
    integ := { State.reset.integ with slices := 1 }
    watch := { State.reset.watch with hubReady := true }
    tenants := [(0, eightBenchTenant)]
    contexts := [(0, batCtx), (1, batCtx)]
    front := { State.reset.front with queues :=
      [(0, { Queue.reset with state := .fetching, d := 1, f := 1, cmds := [launchOne] }),
       (256, { Queue.reset with state := .fetching, d := 1, f := 1, cmds := [launchOne] })] }
    slices := [(0, { Slice.reset with streams :=
      [{ Stream.reset with confirmed := true, launch := some lastRun }, Stream.reset, Stream.reset, Stream.reset] })]
    sched := { State.reset.sched with
      jobs := [(0, { ctx := 1, owner := .graph, cmd := some (256, 0), count := 1, since := 0 })], nextJob := 1,
      residencies := [(0, { idleRes with running := true, cmd := some (0, 0) })], nextRes := 1,
      benches := [(0, { state := .held, res := some 0, claim := none })] } }

/-- The residency of the run becomes blocked, and the decision pass that follows launches the other run on the stream just released. -/
theorem stepEndReport_jobWaitsAtEnd :
    ((streamAt 0 0 (stepEndReport 0 0 true jobWaitsAtEnd)).launch.map (·.ctx)) = some 1 := by decide +kernel

/-- Refutes O27: the decision pass (R276) that follows the end of a run may send the next launch to the stream that the report has just
released; the statement has that stream unused. -/
theorem not_streamsRunAndEnd : ¬ Obligations.StreamsRunAndEnd := by
  intro h
  obtain ⟨-, hend, -⟩ := h
  obtain ⟨-, hfree⟩ := hend 0 0 lastRun jobWaitsAtEnd rfl rfl rfl (by decide)
  obtain ⟨-, -, t, ht, hnone, -⟩ := hfree (by decide)
  obtain rfl : stepEndReport 0 0 true jobWaitsAtEnd = t := Host.Outcome.next.inj ht
  simpa [hnone] using stepEndReport_jobWaitsAtEnd

end Sys2Proof.Machine
end

section
/-! Refutation of O28: the charge tick (R266) in a state whose table of contexts is not in order. -/

namespace Sys2Proof.Machine

/-- A swap-mode context of tenant 0. -/
def swapCtx : Context := { batCtx with rcd := { batCtx.rcd with swap := true } }

/-- The charge tick of a block whose context table is not in order, which State.Shaped excludes and the statement does not: context 1,
behind context 2, has a blocked loop on the four benches of the only slice, and a job of context 2 waits for one of them. -/
def unsortedContexts : State :=
  { State.reset with
    integ := { State.reset.integ with slices := 1 }
    watch := { State.reset.watch with hubReady := true }
    tenants := [(0, eightBenchTenant)]
    contexts := [(2, batCtx), (1, swapCtx)]
    wrd := { State.reset.wrd with enable := true, built := true, pageLog2 := 18, fastGib := 4, slowGib := 4, hkBase := 0xC0000000 }
    sched := { State.reset.sched with
      evictAfter := 0, nextJob := 1, nextRes := 1
      jobs := [(0, { ctx := 2, owner := .graph, cmd := none, count := 1, since := 0 })]
      residencies := [(0, resOf (.loop 1) [0, 1, 2, 3] false (some 0))]
      benches := (List.range 4).map (fun b => (b, { state := .held, res := some 0, claim := none })) } }

/-- The save of the blocked loop gives its frames to its context (R260, R279), whose changed entry is put ahead of context 2. -/
theorem chargeTick_unsortedContexts :
    (chargeTick unsortedContexts).contexts.map (·.1) = [1, 2, 1] := by decide +kernel

/-- Refutes O28: only the table of slices is required to be in order; in a table of contexts that is not, the frames that a save gives to
a swap-mode context add an entry, where the statement has the listed contexts stay. -/
theorem not_schedulerMovesBenches : ¬ Obligations.SchedulerMovesBenches := by
  intro h
  obtain ⟨htick, -⟩ := h
  obtain ⟨t, ht, -, hkeys, -⟩ := htick () unsortedContexts rfl
  obtain rfl : chargeTick unsortedContexts = t := Host.Outcome.next.inj ht
  exact absurd (chargeTick_unsortedContexts.symm.trans hkeys) (by decide)

end Sys2Proof.Machine
end

section
/-! SUPPORT for O25. What a change of one stream leaves of the others, and what a stream's engine is after one (R138, R150). -/

namespace Sys2Proof.Machine

variable {p st eng : Nat} {s t : State} {l : Launch} {x : Stream}

theorem modStream_others (p st : Nat) (f : Stream → Stream) (s : State) : OtherStreamsSame p st s (s.modStream p st f) := fun p' st' hne => by
  rw [streamAt_modStream, if_neg fun h => hne (by rw [h.1, h.2.1])]

theorem streamAt_modStream_self (f : Stream → Stream) (h : st < (sliceAt p s).streams.length) :
    streamAt p st (s.modStream p st f) = f (streamAt p st s) := by
  rw [streamAt_modStream, if_pos ⟨rfl, rfl, h⟩]

@[simp] theorem modStream_streams_length (p st : Nat) (f : Stream → Stream) (s : State) :
    (sliceAt p (s.modStream p st f)).streams.length = (sliceAt p s).streams.length := by
  rw [State.modStream, sliceAt_modSlice, if_pos rfl, List.length_modify]

theorem streamAt_of_slices (h : t.slices = s.slices) (p st : Nat) : streamAt p st t = streamAt p st s := by
  rw [streamAt, streamAt, sliceAt, sliceAt, h]

theorem otherStreamsSame_of_slices (h : t.slices = s.slices) : OtherStreamsSame p st s t := fun p' st' _ => streamAt_of_slices h p' st'

theorem OtherStreamsSame.trans {u : State} (h : OtherStreamsSame p st s t) (h' : OtherStreamsSame p st t u) : OtherStreamsSame p st s u :=
  fun p' st' hne => (h' p' st' hne).trans (h p' st' hne)

/-- An engine with an entry is one of the stream's engines. -/
theorem engine_inRange {img : List Byte} {e : Posted × Nat} (h : (engineAt x eng).place img = some e) : eng - 1 < x.engines.length := by
  by_contra hlt
  rw [engineAt, List.getElem?_eq_none (not_lt.1 hlt)] at h
  cases h

theorem engineAt_modify (f : SideEngine → SideEngine) (h : eng - 1 < x.engines.length) :
    engineAt { x with engines := x.engines.modify (eng - 1) f } eng = f (engineAt x eng) := by
  simp [engineAt, h]

theorem engineAt_set (g : SideEngine) (h : eng - 1 < x.engines.length) :
    engineAt { x with engines := x.engines.set (eng - 1) g } eng = g := by
  simp [engineAt, h]

end Sys2Proof.Machine
end

section
/-! SUPPORT for O25. What an engine makes of the command at its place (R149 to R153, R173): it acts, waits, does not begin, or its stream halts. -/

namespace Sys2Proof.Machine

variable {p st eng op pc : Nat} {s t : State} {l : Launch} {c : SideCmd} {h : Posted} {act : Launch → SideCmd → State → SideAct}

/-- The state after a side command, read in a state s and acting in r, by what it does. -/
def sideEnd (p st eng pc : Nat) (h : Posted) (r s : State) : SideAct → State
  | .done t => t.modEngine p st eng (fun g => { g with pc := some pc, busy := true, waiting := false, landed := 0 })
  | .mismatch t => sideFault p st eng h .engineFault 8 0 t
  | .stop status code address => sideFault p st eng h status code address r
  | .wait => r.modEngine p st eng (fun g => { g with pc := some pc, waiting := true })
  | .hold => s

theorem SideTakes.ends (ht : SideTakes p st eng op l c h pc s) :
    takeSide p st eng op act s = sideEnd p st eng pc h (sideRead p st eng pc l s) s (act l c (sideRead p st eng pc l s)) := by
  obtain ⟨hl, hmay, hbusy, hplace, hlen, rfl, hlegal, hop⟩ := ht
  unfold takeSide
  simp only [hl, hplace, hmay, hbusy, Bool.not_true, Bool.or_false, Bool.false_eq_true, if_false, if_neg (not_lt.2 hlen), hlegal,
    hop, ne_eq, not_true_eq_false]
  unfold sideRead
  generalize act _ _ _ = a
  cases a <;> rfl

/-- The read of a side command does no more than send requests (R477). -/
theorem sideRead_emits (p st eng pc : Nat) (l : Launch) (s : State) : ∃ os, sideRead p st eng pc l s = emitAll os s := by
  unfold sideRead
  split
  · exact ⟨[], by simp [emitAll]⟩
  · exact ⟨_, rfl⟩

theorem sideRead_slices (p st eng pc : Nat) (l : Launch) (s : State) : (sideRead p st eng pc l s).slices = s.slices := by
  obtain ⟨os, h⟩ := sideRead_emits p st eng pc l s
  rw [h]; rfl

theorem sideRead_mem (p st eng pc : Nat) (l : Launch) (s : State) : (sideRead p st eng pc l s).mem = s.mem := by
  obtain ⟨os, h⟩ := sideRead_emits p st eng pc l s
  rw [h]; rfl

theorem sideRead_link (p st eng pc : Nat) (l : Launch) (s : State) : (sideRead p st eng pc l s).link = s.link := by
  obtain ⟨os, hr⟩ := sideRead_emits p st eng pc l s
  rw [hr]; rfl

theorem sideRead_straps (p st eng pc : Nat) (l : Launch) (s : State) : (sideRead p st eng pc l s).port.straps = s.port.straps := by
  obtain ⟨os, hr⟩ := sideRead_emits p st eng pc l s
  rw [hr]; rfl

theorem sideRead_hostDropped (p st eng pc : Nat) (l : Launch) (k : Loc) (s : State) :
    hostDropped k (sideRead p st eng pc l s) = hostDropped k s := by
  obtain ⟨os, hr⟩ := sideRead_emits p st eng pc l s
  rw [hr]; rfl

theorem sideRead_inRange (hl : (streamAt p st s).launch = some l) (eng pc : Nat) :
    st < (sliceAt p (sideRead p st eng pc l s)).streams.length := by
  rw [sliceAt, sideRead_slices]
  exact launch_inRange hl

/-- A stream halts, where no earlier fault was found with the one given (R173). -/
theorem haltStream_halts (f : StreamFault) (hin : st < (sliceAt p t).streams.length) :
    HaltedWith p st f t (haltStream p st (some f) t) := by
  have hothers : OtherStreamsSame p st t (haltStream p st (some f) t) := modStream_others p st _ t
  rw [HaltedWith, haltStream, streamAt_modStream_self _ hin]
  exact ⟨rfl, fun hf => by simp only [hf], rfl, hothers, (haltStream_within p st (some f) (.refl [.slices] t) (.refl _)).onlyIn⟩

theorem sideFault_halts (eng : Nat) (h : Posted) (status : Status) (code address : Nat) (hin : st < (sliceAt p t).streams.length) :
    HaltedWith p st ⟨status, code, h.cycle, h.textOffset, 0, 0, address⟩ t (sideFault p st eng h status code address t) := by
  have hin' : st < (sliceAt p (t.modEngine p st eng fun _ => SideEngine.reset)).streams.length := by
    rw [State.modEngine, modStream_streams_length]; exact hin
  have hx : streamAt p st (t.modEngine p st eng fun _ => SideEngine.reset) = _ := streamAt_modStream_self _ hin
  obtain ⟨hstate, hfault, hcycle, hothers, -⟩ := haltStream_halts ⟨status, code, h.cycle, h.textOffset, 0, 0, address⟩ hin'
  rw [hx] at hfault hcycle
  exact ⟨hstate, hfault, hcycle, (modStream_others p st _ t).trans hothers,
    (sideFault_within p st eng h status code address (.refl [.slices] t) (.refl _)).onlyIn⟩

theorem SideTakes.stops {status : Status} {code address : Nat} (ht : SideTakes p st eng op l c h pc s)
    (ha : act l c (sideRead p st eng pc l s) = .stop status code address) :
    HaltedWith p st ⟨status, code, h.cycle, h.textOffset, 0, 0, address⟩ (sideRead p st eng pc l s) (takeSide p st eng op act s) := by
  rw [ht.ends, ha]
  exact sideFault_halts eng h status code address (sideRead_inRange ht.1 eng pc)

theorem SideTakes.waits (ht : SideTakes p st eng op l c h pc s) (ha : act l c (sideRead p st eng pc l s) = .wait) :
    takeSide p st eng op act s =
      (sideRead p st eng pc l s).modEngine p st eng (fun g => { g with pc := some pc, waiting := true }) := by
  rw [ht.ends, ha]; rfl

theorem SideTakes.holds (ht : SideTakes p st eng op l c h pc s) (ha : act l c (sideRead p st eng pc l s) = .hold) :
    takeSide p st eng op act s = s := by
  rw [ht.ends, ha]; rfl

theorem SideTakes.does (ht : SideTakes p st eng op l c h pc s) (ha : act l c (sideRead p st eng pc l s) = .done t) :
    takeSide p st eng op act s =
      t.modEngine p st eng (fun g => { g with pc := some pc, busy := true, waiting := false, landed := 0 }) := by
  rw [ht.ends, ha]; rfl

/-- A command that leaves the slices alone makes its engine busy and no more of them. -/
theorem SideTakes.took (ht : SideTakes p st eng op l c h pc s) (ha : act l c (sideRead p st eng pc l s) = .done t) (hs : t.slices = s.slices) :
    EngineTook p st eng pc s (takeSide p st eng op act s) := by
  have hin : st < (sliceAt p t).streams.length := by rw [sliceAt, hs]; exact launch_inRange ht.1
  rw [ht.does ha, EngineTook, State.modEngine, streamAt_modStream_self _ hin, streamAt_of_slices hs]
  exact ⟨rfl, rfl, rfl, (otherStreamsSame_of_slices hs).trans (modStream_others p st _ t)⟩

theorem takeSide_onlyIn {fp : List Part} (ha : ∀ l c u, Within fp s u → (act l c u).Within fp s) (hm : Covers [.port, .slices] fp) :
    OnlyIn fp s (takeSide p st eng op act s) :=
  (takeSide_within p st eng op act (.refl fp s) ha hm).onlyIn

end Sys2Proof.Machine
end

section
/-! SUPPORT for O25. LOAD and STORE (R153, R154, R252): which bytes they move, and what keeps them. -/

namespace Sys2Proof.Machine

variable {p st eng pc n : Nat} {s t : State} {l : Launch} {c : SideCmd} {h : Posted} {a : ArgBind} {m : Model} {bs : List Byte}

/-! ### Scratch storage -/

/-- A memory that a run of bytes has been written to in scratch storage: it holds them there, and every other byte stays. -/
theorem scratch_written (hs : s.MemOk) (k : Nat) (hm : t.mem = (scratchWrite k bs s).mem) (hn : bs.length = n) :
    readN t.mem.scratch k n = bs ∧ (∀ i, (i < k ∨ k + n ≤ i) → cellGet t.mem.scratch i = cellGet s.mem.scratch i) ∧
      t.mem.host = s.mem.host ∧ t.mem.fast = s.mem.fast ∧ t.mem.slow = s.mem.slow := by
  subst hn
  rw [hm]
  exact ⟨readN_writeN k bs ((Mems.wf_iff s.mem).1 hs).2.2.2.1, fun i hi => cellGet_writeN_outside _ bs hi, rfl, rfl, rfl⟩

theorem Mems.write_scratch (w : Mems) (k : Loc) (bs : List Byte) : (w.write k bs).scratch = w.scratch := by
  unfold Mems.write; split <;> rfl

@[simp] theorem readN_length (w : List Host.Cell) (k n : Nat) : (readN w k n).length = n := by simp [readN]

@[simp] theorem hotBytes_length (m : Model) (off n : Nat) (s : State) : (hotBytes m off n s).length = n := by simp [hotBytes]

theorem readBy_mem (via : Via) (o : Option Nat) (k : Loc) (n : Nat) (s : State) : (readBy via o k n s).mem = s.mem :=
  (readBy_within via o k n (.refl [.port, .hub] s) (.refl _)).same .mem (by decide)

theorem readBy_slices (via : Via) (o : Option Nat) (k : Loc) (n : Nat) (s : State) : (readBy via o k n s).slices = s.slices :=
  (readBy_within via o k n (.refl [.port, .hub] s) (.refl _)).same .slices (by decide)

theorem readHot_mem (p k : Nat) (m : Model) (off n : Nat) (s : State) : (readHot p k m off n s).mem = s.mem :=
  (readHot_within p k m off n (.refl [.port, .hub] s) (.refl _)).same .mem (by decide)

theorem readHot_slices (p k : Nat) (m : Model) (off n : Nat) (s : State) : (readHot p k m off n s).slices = s.slices :=
  (readHot_within p k m off n (.refl [.port, .hub] s) (.refl _)).same .slices (by decide)

/-! ### LOAD -/

/-- The resident model whose hot copy holds every byte that a LOAD brings (R252). -/
def hotHolding (l : Launch) (c : SideCmd) (a : ArgBind) (s : State) : Option Model :=
  (hotModel l a s).filter (fun m =>
    decide (m.srcOffset ≤ a.byteOffset + c.offset ∧ a.byteOffset + c.offset + c.length ≤ m.srcOffset + m.length))

/-- A frame of a range of a hot copy is moved, zeroed or in a partition reset (R231, R249, R362). -/
def hotHeld (m : Model) (off n : Nat) (s : State) : Bool := (hotParts m off n s).any (fun e => inFlight e.1 s || frameHeld e.1 s)

theorem loadAct_misplaced (hok : scratchOk l c c.length = false) : loadAct p l c s = .stop .engineFault 4 0 := by
  simp [loadAct, hok]

theorem loadAct_refused (hok : scratchOk l c c.length = true) (ha : sideAccess l c (·.read) = none) :
    loadAct p l c s = .stop .access 0 (refusedAddr l c) := by
  simp [loadAct, hok, ha]

theorem loadAct_hot (hok : scratchOk l c c.length = true) (ha : sideAccess l c (·.read) = some a)
    (hm : hotHolding l c a s = some m) :
    loadAct p l c (sideRead p st eng pc l s) =
      if hotHeld m (a.byteOffset + c.offset - m.srcOffset) c.length s then .wait
      else .done (readHot p l.ctx m (a.byteOffset + c.offset - m.srcOffset) c.length
        (scratchWrite (scratchOf l c) (hotBytes m (a.byteOffset + c.offset - m.srcOffset) c.length s) (sideRead p st eng pc l s))) := by
  obtain ⟨os, hr⟩ := sideRead_emits p st eng pc l s
  rw [hr]
  have hm' : hotHolding l c a (emitAll os s) = some m := hm
  rw [hotHolding] at hm'
  simp only [loadAct, hok, ha, hm']
  rfl

theorem loadAct_cold (hok : scratchOk l c c.length = true) (ha : sideAccess l c (·.read) = some a)
    (hm : hotHolding l c a s = none) :
    loadAct p l c (sideRead p st eng pc l s) =
      if hostStopped (a.mem.at_ (a.byteOffset + c.offset)) s then .hold
      else if rangeHeld (a.mem.at_ (a.byteOffset + c.offset)) c.length s then .wait
      else .done (readBy (.slice p) (some l.ctx) (a.mem.at_ (a.byteOffset + c.offset)) c.length
        (scratchWrite (scratchOf l c) (memRead (a.mem.at_ (a.byteOffset + c.offset)) c.length s) (sideRead p st eng pc l s))) := by
  obtain ⟨os, hr⟩ := sideRead_emits p st eng pc l s
  rw [hr]
  have hm' : hotHolding l c a (emitAll os s) = none := hm
  rw [hotHolding] at hm'
  simp only [loadAct, hok, ha, hm']
  rfl

/-- A LOAD that acts: its engine is busy, the bytes it brings are in its scratch range, and no other byte changes. -/
def Loaded (p st pc : Nat) (l : Launch) (c : SideCmd) (bs : List Byte) (s t : State) : Prop :=
  EngineTook p st 1 pc s t ∧ readN t.mem.scratch (scratchOf l c) c.length = bs ∧
  (∀ k, (k < scratchOf l c ∨ scratchOf l c + c.length ≤ k) → cellGet t.mem.scratch k = cellGet s.mem.scratch k) ∧
  t.mem.host = s.mem.host ∧ t.mem.fast = s.mem.fast ∧ t.mem.slow = s.mem.slow ∧ OnlyIn [.port, .mem, .hub, .slices] s t

theorem SideTakes.loads (ht : SideTakes p st 1 1 l c h pc s) (hs : s.MemOk) (hn : bs.length = c.length)
    (ha : loadAct p l c (sideRead p st 1 pc l s) = .done t) (hm : t.mem = (scratchWrite (scratchOf l c) bs (sideRead p st 1 pc l s)).mem)
    (hsl : t.slices = (sideRead p st 1 pc l s).slices) : Loaded p st pc l c bs s (takeSide p st 1 1 (loadAct p) s) := by
  have hmem : (takeSide p st 1 1 (loadAct p) s).mem = (scratchWrite (scratchOf l c) bs s).mem := by
    rw [ht.does ha, State.modEngine, State.modStream_mem, hm, scratchWrite, scratchWrite, sideRead_mem]
  obtain ⟨hread, hrest, hhost, hfast, hslow⟩ := scratch_written hs (scratchOf l c) hmem hn
  exact ⟨ht.took ha (hsl.trans (sideRead_slices ..)), hread, hrest, hhost, hfast, hslow,
    takeSide_onlyIn (fun l c _ hk => loadAct_within p l c hk (by simp [Covers])) (by simp [Covers])⟩

section
variable (ht : SideTakes p st 1 1 l c h pc s) (hs : s.MemOk) (hok : scratchOk l c c.length = true) (ha : sideAccess l c (·.read) = some a)
include ht hs hok ha

theorem SideTakes.load_hot (hm : hotHolding l c a s = some m)
    (hheld : hotHeld m (a.byteOffset + c.offset - m.srcOffset) c.length s = false) :
    Loaded p st pc l c (hotBytes m (a.byteOffset + c.offset - m.srcOffset) c.length s) s (takeSide p st 1 1 (loadAct p) s) :=
  ht.loads hs (hotBytes_length ..) ((loadAct_hot hok ha hm).trans (if_neg (Bool.eq_false_iff.1 hheld))) (readHot_mem ..) (readHot_slices ..)

theorem SideTakes.load_cold (hm : hotHolding l c a s = none) (hstop : hostStopped (a.mem.at_ (a.byteOffset + c.offset)) s = false)
    (hheld : rangeHeld (a.mem.at_ (a.byteOffset + c.offset)) c.length s = false) :
    Loaded p st pc l c (memRead (a.mem.at_ (a.byteOffset + c.offset)) c.length s) s (takeSide p st 1 1 (loadAct p) s) :=
  ht.loads hs (memRead_length ..) ((loadAct_cold hok ha hm).trans ((if_neg (Bool.eq_false_iff.1 hstop)).trans (if_neg (Bool.eq_false_iff.1 hheld))))
    (readBy_mem ..) (readBy_slices ..)

end

/-! ### STORE -/

/-- The resident model whose source a STORE would write to (R252). -/
def hotSource (l : Launch) (c : SideCmd) (a : ArgBind) (s : State) : Option Model :=
  (hotModel l a s).filter (fun m =>
    decide (a.byteOffset + c.offset < m.srcOffset + m.length ∧ m.srcOffset < a.byteOffset + c.offset + c.length))

theorem storeAct_misplaced (hok : scratchOk l c c.length = false) : storeAct p l c s = .stop .engineFault 4 0 := by
  simp [storeAct, hok]

theorem storeAct_refused (hok : scratchOk l c c.length = true) (ha : sideAccess l c (·.write) = none) :
    storeAct p l c s = .stop .access 0 (refusedAddr l c) := by
  simp [storeAct, hok, ha]

theorem storeAct_source (hok : scratchOk l c c.length = true) (ha : sideAccess l c (·.write) = some a)
    (hm : hotSource l c a s = some m) : storeAct p l c (sideRead p st eng pc l s) = .stop .access 0 (refusedAddr l c) := by
  obtain ⟨os, hr⟩ := sideRead_emits p st eng pc l s
  rw [hr]
  have hm' : hotSource l c a (emitAll os s) = some m := hm
  rw [hotSource] at hm'
  simp only [storeAct, hok, ha, hm']
  rfl

theorem storeAct_cold (hok : scratchOk l c c.length = true) (ha : sideAccess l c (·.write) = some a)
    (hm : hotSource l c a s = none) :
    storeAct p l c (sideRead p st eng pc l s) =
      if rangeHeld (a.mem.at_ (a.byteOffset + c.offset)) c.length s then .wait
      else .done (writeBy (.slice p) (some l.ctx) (a.mem.at_ (a.byteOffset + c.offset)) (readN s.mem.scratch (scratchOf l c) c.length)
        (sideRead p st eng pc l s)) := by
  obtain ⟨os, hr⟩ := sideRead_emits p st eng pc l s
  rw [hr]
  have hm' : hotSource l c a (emitAll os s) = none := hm
  rw [hotSource] at hm'
  simp only [storeAct, hok, ha, hm']
  rfl

/-- A write through a part of the block reads back unless it is discarded (R470), and every other byte stays. -/
theorem writeBy_writes {r : State} (via : Via) (o : Option Nat) {k : Loc} (hs : s.MemOk) (hr : r.mem = s.mem)
    (hd : hostDropped k r = hostDropped k s) (ht : t.mem = (writeBy via o k bs r).mem) (hn : bs.length = n) :
    ((k.space ≠ .host ∨ hostDropped k s = false) → memRead k n t = bs) ∧ UnchangedOutside k n s t ∧ t.mem.scratch = s.mem.scratch := by
  subst hn
  rw [writeBy_mem, hr, hd] at ht
  split at ht
  · next hdrop =>
    refine ⟨fun h => ?_, fun j _ => memRead_congr ht j 1, by rw [ht]⟩
    rcases h with h | h
    · exact absurd hdrop.1 h
    · exact absurd hdrop.2 (by simp [h])
  · exact ⟨fun _ => memRead_write k bs hs ht, fun j hj => memRead_write_other k bs ht j hj, by rw [ht, Mems.write_scratch]⟩

/-- A STORE that is not kept back: its engine is busy, and its argument holds the bytes of the scratch range unless they are discarded. -/
theorem SideTakes.store_cold (ht : SideTakes p st 2 3 l c h pc s) (hs : s.MemOk) (hok : scratchOk l c c.length = true)
    (ha : sideAccess l c (·.write) = some a) (hm : hotSource l c a s = none)
    (hheld : rangeHeld (a.mem.at_ (a.byteOffset + c.offset)) c.length s = false) :
    EngineTook p st 2 pc s (takeSide p st 2 3 (storeAct p) s) ∧
    ((a.mem.space ≠ .host ∨ hostDropped (a.mem.at_ (a.byteOffset + c.offset)) s = false) →
      memRead (a.mem.at_ (a.byteOffset + c.offset)) c.length (takeSide p st 2 3 (storeAct p) s) =
        readN s.mem.scratch (scratchOf l c) c.length) ∧
    UnchangedOutside (a.mem.at_ (a.byteOffset + c.offset)) c.length s (takeSide p st 2 3 (storeAct p) s) ∧
    (takeSide p st 2 3 (storeAct p) s).mem.scratch = s.mem.scratch ∧
    OnlyIn [.port, .mem, .hub, .slices] s (takeSide p st 2 3 (storeAct p) s) := by
  have hact := (storeAct_cold (p := p) (st := st) (eng := 2) (pc := pc) hok ha hm).trans (if_neg (Bool.eq_false_iff.1 hheld))
  obtain ⟨hread, hrest, hscratch⟩ := writeBy_writes (.slice p) (some l.ctx) hs (sideRead_mem p st 2 pc l s)
    (sideRead_hostDropped p st 2 pc l _ s) ((congrArg State.mem (ht.does hact)).trans (State.modStream_mem ..)) (readN_length ..)
  exact ⟨ht.took hact ((writeBy_slices ..).trans (sideRead_slices ..)), hread, hrest, hscratch,
    takeSide_onlyIn (fun l c _ hk => storeAct_within p l c hk (by simp [Covers])) (by simp [Covers])⟩

end Sys2Proof.Machine
end

section
/-! SUPPORT for O25. REDUCE and SETREG (R153), and the landing of a side command (R151, R352). -/

namespace Sys2Proof.Machine

variable {p st op pc eng : Nat} {s t : State} {l : Launch} {c : SideCmd} {h : Posted} {act : Launch → SideCmd → State → SideAct}

/-! ### Scalar registers -/

theorem reduceAct_bad (hb : (!scratchOk l c c.length || decide (c.length % 4 ≠ 0 ∨ 3 < c.aux1 ∨ 31 < c.slot)) = true) :
    reduceAct p st l c s = .stop .engineFault 4 0 := if_pos hb

theorem reduceAct_good (hb : (!scratchOk l c c.length || decide (c.length % 4 ≠ 0 ∨ 3 < c.aux1 ∨ 31 < c.slot)) = false) :
    reduceAct p st l c s =
      .done (writeReg p st c.slot ((reduction c.aux1 (int32s (readN s.mem.scratch (scratchOf l c) c.length))).signExtend 64) s) :=
  if_neg (by simp only [hb]; decide)

theorem setregAct_bad (hb : 31 < c.slot) : setregAct p st l c s = .stop .engineFault 4 0 := if_pos hb

theorem setregAct_good (hb : c.slot ≤ 31) : setregAct p st l c s = .done (writeReg p st c.slot (BitVec.ofNat 64 c.aux2) s) :=
  if_neg (not_lt.2 hb)

/-- A command that sets a scalar register makes its engine busy; the register's value is awaited (R172). -/
theorem SideTakes.sets {r : Nat} {v : W64} (ht : SideTakes p st eng op l c h pc s)
    (ha : act l c (sideRead p st eng pc l s) = .done (writeReg p st r v (sideRead p st eng pc l s))) :
    EngineTook p st eng pc s (takeSide p st eng op act s) ∧
    (streamAt p st (takeSide p st eng op act s)).regs = (streamAt p st s).regs.set r v ∧
    (streamAt p st (takeSide p st eng op act s)).pend = (streamAt p st s).pend ||| (1#32 <<< r) ∧
    (takeSide p st eng op act s).port = (sideRead p st eng pc l s).port := by
  have hin := sideRead_inRange ht.1 eng pc
  have hslices := sideRead_slices p st eng pc l s
  rw [ht.does ha]
  generalize sideRead p st eng pc l s = u at hin hslices ⊢
  have hx : streamAt p st (writeReg p st r v u) = _ := streamAt_modStream_self _ hin
  rw [EngineTook, State.modEngine, streamAt_modStream_self _ (by rw [writeReg, modStream_streams_length]; exact hin), hx,
    streamAt_of_slices hslices]
  have hothers : OtherStreamsSame p st s (writeReg p st r v u) :=
    (otherStreamsSame_of_slices hslices).trans (modStream_others p st _ u)
  exact ⟨⟨rfl, rfl, rfl, hothers.trans (modStream_others p st _ _)⟩, rfl, rfl, rfl⟩

/-! ### Landing -/

theorem runningSide_of_place (hb : (engineAt (streamAt p st s) eng).busy = true)
    (hp : (engineAt (streamAt p st s) eng).place (launchImage l s) = some (h, pc)) :
    runningSide (engineAt (streamAt p st s) eng) l s =
      some (SideCmd.of (slice (launchImage l s) (imSideOff (launchImage l s) + pc) 32), pc) := by
  simp [runningSide, hb, hp]

theorem sideCommandLanded_stream (hl : (streamAt p st s).launch = some l)
    (hr : runningSide (engineAt (streamAt p st s) eng) l s = some (c, pc)) :
    streamAt p st (sideCommandLanded p st eng s) = { streamAt p st s with
      engines := (streamAt p st s).engines.set (eng - 1)
        ((engineAt (streamAt p st s) eng).after c pc ((streamAt p st s).state == .halted))
      progress := ((streamAt p st s).progress + 1 + (c.pieces - (engineAt (streamAt p st s) eng).landed)) % 2 ^ 32
      advanced := s.now
      flags := c.sets.elim (streamAt p st s).flags (fun f => (streamAt p st s).flags ||| (1#64 <<< f))
      pend := if eng = 4 then (streamAt p st s).pend &&& ~~~(1#32 <<< c.slot) else (streamAt p st s).pend } := by
  unfold sideCommandLanded
  simp only [hl, Option.bind_some, hr]
  rw [streamAt_modStream_self _ (launch_inRange hl), hl]
  cases c.sets <;> rfl

theorem sideCommandLanded_others : OtherStreamsSame p st s (sideCommandLanded p st eng s) := by
  unfold sideCommandLanded
  dsimp only
  split
  · exact otherStreamsSame_of_slices rfl
  · exact modStream_others p st _ s

theorem sidePieceLanded_stream (hl : (streamAt p st s).launch = some l)
    (hr : runningSide (engineAt (streamAt p st s) eng) l s = some (c, pc)) (hm : (engineAt (streamAt p st s) eng).landed < c.pieces) :
    streamAt p st (sidePieceLanded p st eng s) = { streamAt p st s with
      engines := (streamAt p st s).engines.modify (eng - 1) (fun g => { g with landed := g.landed + 1 })
      progress := ((streamAt p st s).progress + 1) % 2 ^ 32, advanced := s.now } := by
  unfold sidePieceLanded
  simp only [hl, Option.bind_some, hr, if_pos hm, State.modEngine]
  rw [streamAt_modStream_self _ (by rw [modStream_streams_length]; exact launch_inRange hl), streamAt_modStream_self _ (launch_inRange hl), hl]

theorem sidePieceLanded_others : OtherStreamsSame p st s (sidePieceLanded p st eng s) := by
  unfold sidePieceLanded
  dsimp only
  split
  · exact otherStreamsSame_of_slices rfl
  · split
    · exact (modStream_others p st _ s).trans (modStream_others p st _ _)
    · exact otherStreamsSame_of_slices rfl

theorem sidePieceLanded_all (hl : (streamAt p st s).launch = some l)
    (hr : runningSide (engineAt (streamAt p st s) eng) l s = some (c, pc)) (hm : c.pieces ≤ (engineAt (streamAt p st s) eng).landed) :
    sidePieceLanded p st eng s = s := by
  unfold sidePieceLanded
  simp only [hl, Option.bind_some, hr, if_neg (not_lt.2 hm)]

/-- A bit that a landing clears is clear (R151). -/
theorem testBit_cleared (v : BitVec 32) {i : Nat} (hi : i < 32) : (v &&& ~~~(1#32 <<< i)).toNat.testBit i = false := by
  rw [BitVec.testBit_toNat]
  simp [hi]

end Sys2Proof.Machine
end

section
/-! SUPPORT for O25. SEND, RECV and the data between (R465, R486). -/

namespace Sys2Proof.Machine

variable {p st pc : Nat} {s : State} {l : Launch} {c : SideCmd} {h : Posted}

theorem sendAct_bad (hb : scratchOk l c c.length = false ∨ peerOk c = false) : sendAct p st l c s = .stop .engineFault 4 0 := by
  rcases hb with hb | hb <;> simp [sendAct, hb]

theorem sendAct_good (hok : scratchOk l c c.length = true) (hp : peerOk c = true) :
    sendAct p st l c s = .done (charge (some l.ctx) 3 c.length
      (emit (.peerData (bits c.aux2 4 0) (bits c.aux2 9 5) (bits c.aux2 14 10) (bits c.aux2 21 16) (bits c.aux2 23 22) (bits c.aux2 39 24)
        (s.port.straps.1, s.port.straps.2.1, s.port.straps.2.2.1, p, st) (readN s.mem.scratch (scratchOf l c) c.length)) s)) := by
  simp [sendAct, hok, hp]

/-- A SEND makes its engine busy and hands its bytes to the link, with this chip's coordinates, its partition and its stream (R465). -/
theorem SideTakes.send (ht : SideTakes p st 3 5 l c h pc s) (hok : scratchOk l c c.length = true) (hp : peerOk c = true) :
    EngineTook p st 3 pc s (takeSide p st 3 5 (sendAct p st) s) ∧
    (takeSide p st 3 5 (sendAct p st) s).port = { (sideRead p st 3 pc l s).port with out := (sideRead p st 3 pc l s).port.out ++
      [.peerData (bits c.aux2 4 0) (bits c.aux2 9 5) (bits c.aux2 14 10) (bits c.aux2 21 16) (bits c.aux2 23 22) (bits c.aux2 39 24)
        (s.port.straps.1, s.port.straps.2.1, s.port.straps.2.2.1, p, st) (readN s.mem.scratch (scratchOf l c) c.length)] } ∧
    OnlyIn [.port, .hub, .slices] s (takeSide p st 3 5 (sendAct p st) s) := by
  have hact := sendAct_good (p := p) (st := st) (s := sideRead p st 3 pc l s) hok hp
  refine ⟨ht.took hact ((charge_slices ..).trans (sideRead_slices ..)), ?_,
    takeSide_onlyIn (fun l c _ hk => sendAct_within p st l c hk (by simp [Covers])) (by simp [Covers])⟩
  rw [ht.does hact, State.modEngine, State.modStream_port, charge_port, sideRead_straps, sideRead_mem]
  rfl

/-! ### RECV -/

/-- Data that waits for the RECV of a stream on the channel of its peer (R486). -/
def fromPeer (p st : Nat) (c : SideCmd) (e : Nat × Nat × Nat × Nat × List Byte) : Bool :=
  e.1 == p && e.2.1 == st && e.2.2.1 == bits c.aux2 23 0 && e.2.2.2.1 == bits c.aux2 39 24

theorem fromPeer_iff (e : Nat × Nat × Nat × Nat × List Byte) :
    fromPeer p st c e = true ↔ e.1 = p ∧ e.2.1 = st ∧ e.2.2.1 = bits c.aux2 23 0 ∧ e.2.2.2.1 = bits c.aux2 39 24 := by
  simp [fromPeer, and_assoc]

section
variable {before rest : List (Nat × Nat × Nat × Nat × List Byte)} {e : Nat × Nat × Nat × Nat × List Byte}

theorem recvAct_waits (hok : scratchOk l c c.length = true) (hp : peerOk c = true) (hf : s.link.inbox.find? (fromPeer p st c) = none) :
    recvAct p st l c s = .wait := by
  unfold fromPeer at hf
  simp only [recvAct, hok, hp, hf]
  rfl

theorem recvAct_found (hok : scratchOk l c c.length = true) (hp : peerOk c = true) (hb : s.link.inbox = before ++ e :: rest)
    (hn : ∀ b ∈ before, fromPeer p st c b = false) (hm : fromPeer p st c e = true) :
    recvAct p st l c s =
      if e.2.2.2.2.length ≠ c.length then
        .mismatch { s with link := { s.link with inbox := before ++ rest, discarded := satInc 32 s.link.discarded } }
      else .done (scratchWrite (scratchOf l c) e.2.2.2.2 { s with link := { s.link with inbox := before ++ rest } }) := by
  have hfind : s.link.inbox.find? (fromPeer p st c) = some e := by
    rw [List.find?_eq_some_iff_append]
    exact ⟨hm, before, rest, hb, fun b hbm => by rw [hn b hbm]; rfl⟩
  have herase : s.link.inbox.eraseP (fromPeer p st c) = before ++ rest := by
    rw [hb, List.eraseP_append_right _ fun b hbm => by simp [hn b hbm], List.eraseP_cons_of_pos hm]
  unfold fromPeer at hfind herase
  simp only [recvAct, hok, hp, hfind, herase]
  rfl

/-- A RECV that takes its data: its engine is busy, and the data are in its scratch range and no longer wait. -/
theorem SideTakes.receives (ht : SideTakes p st 3 6 l c h pc s) (hs : s.MemOk)
    (ha : recvAct p st l c (sideRead p st 3 pc l s) = .done (scratchWrite (scratchOf l c) e.2.2.2.2
      { sideRead p st 3 pc l s with link := { (sideRead p st 3 pc l s).link with inbox := before ++ rest } }))
    (hn : e.2.2.2.2.length = c.length) :
    EngineTook p st 3 pc s (takeSide p st 3 6 (recvAct p st) s) ∧
    readN (takeSide p st 3 6 (recvAct p st) s).mem.scratch (scratchOf l c) c.length = e.2.2.2.2 ∧
    (takeSide p st 3 6 (recvAct p st) s).link = { s.link with inbox := before ++ rest } ∧
    (takeSide p st 3 6 (recvAct p st) s).mem.host = s.mem.host ∧ (takeSide p st 3 6 (recvAct p st) s).mem.fast = s.mem.fast ∧
    (takeSide p st 3 6 (recvAct p st) s).mem.slow = s.mem.slow ∧
    OnlyIn [.port, .mem, .slices, .link] s (takeSide p st 3 6 (recvAct p st) s) := by
  have hmem : (takeSide p st 3 6 (recvAct p st) s).mem = (scratchWrite (scratchOf l c) e.2.2.2.2 s).mem := by
    rw [ht.does ha, State.modEngine, State.modStream_mem, scratchWrite, scratchWrite, sideRead_mem]
  obtain ⟨hread, -, hhost, hfast, hslow⟩ := scratch_written hs (scratchOf l c) hmem hn
  refine ⟨ht.took ha (sideRead_slices ..), hread, ?_, hhost, hfast, hslow,
    takeSide_onlyIn (fun l c _ hk => recvAct_within p st l c hk (by simp [Covers])) (by simp [Covers])⟩
  rw [ht.does ha, State.modEngine, State.modStream_link, scratchWrite_link, sideRead_link]

/-- Data of another length halt the stream, and are discarded and counted (R486). -/
theorem SideTakes.mismatches (ht : SideTakes p st 3 6 l c h pc s)
    (ha : recvAct p st l c (sideRead p st 3 pc l s) = .mismatch { sideRead p st 3 pc l s with
      link := { (sideRead p st 3 pc l s).link with inbox := before ++ rest, discarded := satInc 32 (sideRead p st 3 pc l s).link.discarded } }) :
    (streamAt p st (takeSide p st 3 6 (recvAct p st) s)).state = .halted ∧
    ((streamAt p st s).fault = none → (streamAt p st (takeSide p st 3 6 (recvAct p st) s)).fault =
      some ⟨.engineFault, 8, h.cycle, h.textOffset, 0, 0, 0⟩) ∧
    (takeSide p st 3 6 (recvAct p st) s).link = { s.link with inbox := before ++ rest, discarded := satInc 32 s.link.discarded } ∧
    (takeSide p st 3 6 (recvAct p st) s).mem = s.mem := by
  rw [ht.ends, ha, sideEnd]
  obtain ⟨hstate, hfault, -, -, hsame⟩ := sideFault_halts (t := { sideRead p st 3 pc l s with
      link := { (sideRead p st 3 pc l s).link with inbox := before ++ rest, discarded := satInc 32 (sideRead p st 3 pc l s).link.discarded } })
    3 h .engineFault 8 0 (sideRead_inRange ht.1 3 pc)
  refine ⟨hstate, fun hf => hfault ((congrArg Stream.fault (streamAt_of_slices (sideRead_slices ..) p st)).trans hf),
    (hsame .link (by decide)).trans (by rw [sideRead_link]), (hsame .mem (by decide)).trans (sideRead_mem ..)⟩

end

/-! ### COLLECTIVE_DATA -/

theorem takesData_iff (x : Stream) : x.takesData = true ↔
    x.active = true ∨ (x.state = .idle ∧ x.confirmed = false) ∨ (x.state = .halted ∧ (engineAt x 3).waiting = true) := by
  simp [Stream.takesData, or_assoc]

theorem collectiveData_taken {peer chan : Nat} {data : List Byte} (hl : (streamAt p st s).launch = some l)
    (hx : (streamAt p st s).takesData = true) (ho : otherLaunch l peer s = false) :
    collectiveData p st peer chan data s = charge (some l.ctx) 3 data.length
      { s with link := { s.link with inbox := s.link.inbox ++ [(p, st, peer % 2 ^ 24, chan % 2 ^ 16, data)] } } := by
  simp [collectiveData, hl, hx, ho]

theorem collectiveData_discarded {peer chan : Nat} {data : List Byte}
    (h : ∀ l, (streamAt p st s).launch = some l → (streamAt p st s).takesData = true → otherLaunch l peer s = true) :
    collectiveData p st peer chan data s = { s with link := { s.link with discarded := satInc 32 s.link.discarded } } := by
  unfold collectiveData
  dsimp only
  split
  · next l hl =>
    refine if_neg fun hx => ?_
    obtain ⟨hx, ho⟩ := Bool.and_eq_true_iff.1 hx
    rw [h l hl hx] at ho
    cases ho
  · rfl

end Sys2Proof.Machine
end

section
/-! O25: the side engines, command by command. -/

namespace Sys2Proof.Machine

/-- Settles O25: each command is the outcome of its act on the state in which it was read, which differs from the first in requests sent. -/
theorem sideEnginesMoveData : Obligations.SideEnginesMoveData := by
  refine ⟨⟨?load, ?store, ?reduce, ?setreg, ?landed⟩, ?send, ?data, ?recv⟩
  case load =>
    intro p st pc l c h s ht hs
    refine ⟨fun hok => ⟨_, rfl, ht.stops (loadAct_misplaced hok)⟩, fun hok ha => ⟨_, rfl, ht.stops (loadAct_refused hok ha)⟩, ?_⟩
    intro a hok ha off hot held stopped reset
    cases hhot : hotHolding l c a s with
    | some m =>
      have hm : hot = some m := hhot
      have hheld : held = hotHeld m (off - m.srcOffset) c.length s := by simp only [held, hm]; rfl
      have hstop : stopped = false := by simp only [stopped, hm]; rfl
      have hreset : reset = false := by simp only [reset, hm]; rfl
      rw [hheld, hstop, hreset, hm]
      refine ⟨fun h => absurd h (by decide), fun _ hw => congrArg Host.Outcome.next (ht.waits ?_), fun _ hfree _ => ?_⟩
      · exact (loadAct_hot hok ha hhot).trans (if_pos (hw.resolve_right (by decide)))
      · obtain ⟨htook, hread, hrest⟩ := ht.load_hot hs hok ha hhot hfree
        exact ⟨_, rfl, htook, fun h => absurd h (by simp), fun m' h' => by rw [← Option.some.inj h']; exact hread, hrest⟩
    | none =>
      have hm : hot = none := hhot
      have hheld : held = false := by simp only [held, hm]; rfl
      have hstop : stopped = hostStopped (a.mem.at_ off) s := by simp only [stopped, hm]; rfl
      have hreset : reset = rangeHeld (a.mem.at_ off) c.length s := by simp only [reset, hm]; rfl
      rw [hheld, hstop, hreset, hm]
      refine ⟨fun h => congrArg Host.Outcome.next (ht.holds ((loadAct_cold hok ha hhot).trans (if_pos h))),
        fun h hw => congrArg Host.Outcome.next (ht.waits ?_), fun h _ hfree => ?_⟩
      · exact (loadAct_cold hok ha hhot).trans ((if_neg (Bool.eq_false_iff.1 h)).trans (if_pos (hw.resolve_left (by decide))))
      · obtain ⟨htook, hread, hrest⟩ := ht.load_cold hs hok ha hhot h hfree
        exact ⟨_, rfl, htook, fun _ => hread, fun m' h' => absurd h' (by simp), hrest⟩
  case store =>
    intro p st pc l c h s ht hs
    refine ⟨fun hok => ⟨_, rfl, ht.stops (storeAct_misplaced hok)⟩, fun hok ha => ⟨_, rfl, ht.stops (storeAct_refused hok ha)⟩, ?_⟩
    intro a hok ha off hot
    refine ⟨fun hsome => ?_, fun hm hheld => congrArg Host.Outcome.next (ht.waits ((storeAct_cold hok ha hm).trans (if_pos hheld))),
      fun hm hheld => ⟨_, rfl, ht.store_cold hs hok ha hm hheld⟩⟩
    obtain ⟨m, hm⟩ := Option.isSome_iff_exists.1 hsome
    exact ⟨_, rfl, ht.stops (storeAct_source hok ha hm)⟩
  case reduce =>
    intro p st pc l c h s ht
    refine ⟨fun hb => ⟨_, rfl, ht.stops (reduceAct_bad hb)⟩, fun hb => ?_⟩
    obtain ⟨htook, hregs, hpend, hport⟩ := ht.sets (reduceAct_good (p := p) (st := st) hb)
    rw [sideRead_mem] at hregs
    exact ⟨_, rfl, htook, hregs, hpend, hport,
      takeSide_onlyIn (fun l c _ hk => reduceAct_within p st l c hk (by simp [Covers])) (by simp [Covers])⟩
  case setreg =>
    intro p st pc l c h s ht
    refine ⟨fun hb => ⟨_, rfl, ht.stops (setregAct_bad hb)⟩, fun hb => ?_⟩
    obtain ⟨htook, hregs, hpend, hport⟩ := ht.sets (setregAct_good (p := p) (st := st) (l := l) hb)
    exact ⟨_, rfl, htook, hregs, hpend, hport,
      takeSide_onlyIn (fun l c _ hk => setregAct_within p st l c hk (by simp [Covers])) (by simp [Covers])⟩
  case landed =>
    intro p st eng pc l h s x c hl _ hb hp g
    have hr := runningSide_of_place hb hp
    have hx := sideCommandLanded_stream hl hr
    have hin := engine_inRange hp
    refine ⟨⟨_, rfl, fun f hf _ => by rw [hx, hf]; rfl, fun hf => by rw [hx, hf]; rfl, fun hrun => ?_, fun hhalt => ?_, fun he hslot => ?_,
      by rw [hx]; rfl, by rw [hx], sideCommandLanded_others, (sideCommandLanded_within p st eng (.refl [.slices] s) (.refl _)).onlyIn⟩,
      fun hm => ?_, fun hm => congrArg Host.Outcome.next (sidePieceLanded_all hl hr hm)⟩
    · rw [hx, beq_false_of_ne hrun]
      exact engineAt_set _ hin
    · rw [hx, show x.state = _ from hhalt]
      exact engineAt_set _ hin
    · rw [hx, if_pos he]
      exact testBit_cleared _ hslot
    · have hy := sidePieceLanded_stream hl hr hm
      exact ⟨_, rfl, by rw [hy]; exact engineAt_modify _ hin, by rw [hy], by rw [hy], by rw [hy], sidePieceLanded_others,
        (sidePieceLanded_within p st eng (.refl [.slices] s) (.refl _)).onlyIn⟩
  case send =>
    intro p st pc l c h s ht
    exact ⟨fun hb => ⟨_, rfl, ht.stops (sendAct_bad hb)⟩, fun hok hp => ⟨_, rfl, ht.send hok hp⟩⟩
  case data =>
    intro p st peer chan data s x takes
    refine ⟨fun ⟨hl, hx, ho⟩ => ?_, fun hno => congrArg Host.Outcome.next (collectiveData_discarded fun l hl hx => ?_)⟩
    · obtain ⟨l, hl⟩ := Option.isSome_iff_exists.1 hl
      refine ⟨_, rfl, ?_, (collectiveData_within p st peer chan data (.refl [.hub, .link] s) (.refl _)).onlyIn⟩
      rw [collectiveData_taken hl ((takesData_iff _).2 hx) (ho l hl), charge_link]
    · by_contra ho
      refine hno ⟨Option.isSome_iff_exists.2 ⟨l, hl⟩, (takesData_iff _).1 hx, fun l' hl' => ?_⟩
      rw [← Option.some.inj (hl.symm.trans hl')]
      exact Bool.eq_false_iff.2 ho
  case recv =>
    intro p st pc l c h s ht hs r hok hp mine
    have hmine : ∀ e, fromPeer p st c e = true ↔ mine e := fromPeer_iff
    have hlink : r.link = s.link := sideRead_link ..
    refine ⟨fun hno => congrArg Host.Outcome.next (ht.waits (recvAct_waits hok hp ?_)), fun before e rest hb hn hm => ?_⟩
    · exact hlink ▸ List.find?_eq_none.2 fun e he => mt (hmine e).1 (hno e he)
    have hact := recvAct_found hok hp (hlink ▸ hb : r.link.inbox = before ++ e :: rest)
      (fun b hbm => Bool.eq_false_iff.2 (mt (hmine b).1 (hn b hbm))) ((hmine e).2 hm)
    exact ⟨fun hlen => ⟨_, rfl, ht.receives hs (hact.trans (if_neg (not_not.2 hlen))) hlen⟩,
      fun hlen => ⟨_, rfl, ht.mismatches (hact.trans (if_pos hlen))⟩⟩

end Sys2Proof.Machine
end

section
/-! SUPPORT. The operations that serving loops share: what an executor reads of a command that it has begun on, how it refuses one, the
number of a new loop (R58), and what a Journal record (R389) and a reference (R54) leave alone. -/

namespace Sys2Proof.Machine

variable {c q k pos op l : Nat} {m : Cmd} {s t u : State}

/-! ### A command that has begun -/

/-- Only the front end and the Chest change as an executor begins on a command (R312). -/
theorem begun_eq (k pos : Nat) (s : State) :
    begun k pos s = { s with front := (begun k pos s).front, chest := (begun k pos s).chest, jnl := (begun k pos s).jnl } := by
  have h := (begun_within k pos (.refl [.front, .chest, .jnl] s) (.refl _)).same
  generalize begun k pos s = t at h
  cases s
  cases t
  rw [State.mk.injEq]
  exact ⟨h .pending (by decide), h .time (by decide), h .port (by decide), h .integ (by decide), h .mem (by decide), h .hub (by decide),
    h .tenants (by decide), h .contexts (by decide), h .objects (by decide), h .graphs (by decide), rfl, h .bramble (by decide),
    h .slices (by decide), h .trestle (by decide), h .sched (by decide), h .wrd (by decide), rfl, h .bureau (by decide),
    h .watch (by decide), h .hutch (by decide), rfl, h .sta (by decide), h .mgmt (by decide), h .power (by decide), h .link (by decide)⟩

theorem begun_trestle (k pos : Nat) (s : State) : (begun k pos s).trestle = s.trestle := by rw [begun_eq]

theorem begun_mem (k pos : Nat) (s : State) : (begun k pos s).mem = s.mem := by rw [begun_eq]

theorem begun_integ (k pos : Nat) (s : State) : (begun k pos s).integ = s.integ := by rw [begun_eq]

theorem readBytes_begun (k' : Nat) (m : Cmd) (hOff oOff n : Nat) (s : State) :
    readBytes k' m hOff oOff n (begun k pos s) = readBytes k' m hOff oOff n s := by
  rw [begun_eq]; rfl

theorem openParams_begun (k' : Nat) (m : Cmd) (s : State) : openParams k' m (begun k pos s) = openParams k' m s := by
  rw [begun_eq]; rfl

theorem openRefusal_begun (c : Nat) (p : LoopParams) (s : State) : openRefusal c p (begun k pos s) = openRefusal c p s := by
  rw [begun_eq]; rfl

theorem freeLoopId_begun (s : State) : freeLoopId (begun k pos s) = freeLoopId s := by
  rw [begun_eq]; rfl

theorem ctxLoop_begun (l c : Nat) (s : State) : ctxLoop l c (begun k pos s) = ctxLoop l c s := by
  rw [begun_eq]; rfl

theorem admitRefusal_begun (c l : Nat) (a : AdmitRec) (s : State) : admitRefusal c l a (begun k pos s) = admitRefusal c l a s := by
  rw [begun_eq]; rfl

theorem prefixSource_begun (l : Nat) (a : AdmitRec) (s : State) : prefixSource l a (begun k pos s) = prefixSource l a s := by
  rw [begun_eq]; rfl

theorem nextSeqIndex_begun (s : State) : nextSeqIndex (begun k pos s) = nextSeqIndex s := by
  rw [begun_eq]; rfl

theorem paramLoc_begun (i : Nat) (s : State) : paramLoc i (begun k pos s) = paramLoc i s := by
  rw [begun_eq]; rfl

theorem qkey_ctx {q : Nat} (c : Nat) (hq : q < 256) : qkey c q / 256 = c := by
  simp only [qkey]; omega

theorem finish_latch {st : Status} {aux : Nat} (hm : t.cmd k pos = some m) (hl : m.latch = none) :
    ((finish k pos st aux t).cmd k pos).map (·.latch) = some (some ⟨st, aux⟩) := by
  have ha := congrArg (Option.map Prod.fst) (finish_answer (st := st) (aux := aux) hm hl)
  rwa [Option.map_map] at ha

/-- A command refused as its executor begins on it has the status alone to show for it (R84). -/
theorem finish_refused (hs : starting k pos op s = some m) (st : Status) (aux : Nat) :
    ((finish k pos st aux (begun k pos s)).cmd k pos).map (·.latch) = some (some ⟨st, aux⟩) ∧
    OnlyIn [.front, .chest, .jnl] s (finish k pos st aux (begun k pos s)) := by
  obtain ⟨hb, hl⟩ := begun_starting hs
  exact ⟨finish_latch hb hl,
    (finish_within k pos st aux (begun_within k pos (.refl [.front, .chest, .jnl] s) (.refl _)) (by simp [Covers])).onlyIn⟩

/-- A command that has a result word to write, and ends. -/
theorem finish_putResult {st : Status} {aux hOff oOff : Nat} {out : Loc} {m' : Cmd} (bs : List Byte) (hpos : m.pos = pos)
    (hm : t.cmd k pos = some m') (hl : m'.latch = none) (ho : operandLoc k m hOff oOff t = some out) :
    ((finish k m.pos st aux (putResult k m hOff oOff bs t)).cmd k pos).map (fun y => (y.latch, y.results)) =
      some (some ⟨st, aux⟩, m'.results ++ [⟨out, bs⟩]) := by
  have hr : (putResult k m hOff oOff bs t).cmd k pos = some { m' with results := m'.results ++ [⟨out, bs⟩] } := by
    rw [putResult, ho]
    dsimp only
    rw [hpos, addResult_cmd, if_pos ⟨rfl, rfl⟩, hm, Option.map_some]
  rw [hpos]
  exact finish_answer hr hl

theorem finish_putResult_trestle (st : Status) (aux hOff oOff : Nat) (bs : List Byte) (t : State) :
    (finish k pos st aux (putResult k m hOff oOff bs t)).trestle = t.trestle :=
  (finish_within k pos st aux (putResult_within k m hOff oOff bs (.refl [.front] t) (.refl _)) (.refl _)).same .trestle (by decide)

theorem finish_putResult_mem (st : Status) (aux hOff oOff : Nat) (bs : List Byte) (t : State) :
    (finish k pos st aux (putResult k m hOff oOff bs t)).mem = t.mem :=
  (finish_within k pos st aux (putResult_within k m hOff oOff bs (.refl [.front] t) (.refl _)) (.refl _)).same .mem (by decide)

/-! ### The number of a new loop -/

/-- One of the numbers below the length of a table, or that length, is free. -/
theorem exists_tget_none {α : Type} (t : Tab α) : ∃ i ∈ List.range (t.length + 1), (tget t i).isNone = true := by
  by_contra h
  push Not at h
  have hsub : List.range (t.length + 1) ⊆ t.map Prod.fst := fun i hi => by
    obtain ⟨x, hx⟩ := Option.ne_none_iff_exists'.1 (mt Option.isNone_iff_eq_none.2 (h i hi))
    exact List.mem_map_of_mem (f := Prod.fst) (mem_of_tget hx)
  have hlen := (List.subperm_of_subset List.nodup_range hsub).length_le
  simp only [List.length_range, List.length_map] at hlen
  omega

theorem freeLoopId_free (s : State) : tget s.trestle.loops (freeLoopId s) = none := by
  obtain ⟨i, hi, hn⟩ := exists_tget_none s.trestle.loops
  obtain ⟨j, hj⟩ := Option.isSome_iff_exists.1
    (List.find?_isSome (p := fun i => (tget s.trestle.loops i).isNone).2 ⟨i, hi, hn⟩)
  rw [freeLoopId, hj, Option.getD_some]
  simpa using List.find?_some hj

/-! ### A loop's Journal -/

/-- Of the loops and sequences, a state differs from another in the Journal of one loop at most. -/
def JournalOnly (l : Nat) (s t : State) : Prop :=
  t.trestle.seqs = s.trestle.seqs ∧ (∀ j, j ≠ l → tget t.trestle.loops j = tget s.trestle.loops j) ∧
  ∀ lp, tget s.trestle.loops l = some lp → ∃ j, tget t.trestle.loops l = some { lp with jnl := j }

theorem JournalOnly.refl (l : Nat) (s : State) : JournalOnly l s s := ⟨rfl, fun _ _ => rfl, fun lp h => ⟨lp.jnl, h⟩⟩

theorem JournalOnly.trans (h : JournalOnly l s t) (h' : JournalOnly l t u) : JournalOnly l s u := by
  obtain ⟨hs, ho, hl⟩ := h
  obtain ⟨hs', ho', hl'⟩ := h'
  refine ⟨hs'.trans hs, fun j hj => (ho' j hj).trans (ho j hj), fun lp hlp => ?_⟩
  obtain ⟨j, hj⟩ := hl lp hlp
  obtain ⟨j', hj'⟩ := hl' _ hj
  exact ⟨j', hj'⟩

theorem JournalOnly.foldl {α : Type} {f : State → α → State} (hf : ∀ s a, JournalOnly l s (f s a)) (as : List α) (s : State) :
    JournalOnly l s (as.foldl f s) := by
  induction as generalizing s with
  | nil => exact .refl l s
  | cons a as ih => exact (hf s a).trans (ih _)

theorem journal_journalOnly (l typ tag step part items : Nat) (payload : List Byte) (s : State) :
    JournalOnly l s (journal l typ tag step part items payload s) := by
  unfold journal
  split
  · exact .refl l s
  · next lp hlp =>
    split
    · exact .refl l s
    · rw [JournalOnly, takeOrWait_trestle]
      refine ⟨rfl, fun j hj => tget_tset_ne _ _ hj, fun lp' hlp' => ?_⟩
      obtain rfl : lp' = lp := Option.some.inj (hlp'.symm.trans hlp)
      exact ⟨_, tget_tset_self _ _ _⟩

theorem journalLoop_journalOnly (l tag t c g ver : Nat) (raw : List Byte) (key : Nat) (s : State) :
    JournalOnly l s (journalLoop l tag t c g ver raw key s) :=
  ((JournalOnly.foldl (fun _ _ => journal_journalOnly ..) _ _).trans (journal_journalOnly ..)).trans (journal_journalOnly ..)

theorem journalFences_journalOnly (l : Nat) (m : Cmd) (id : Nat) (s : State) : JournalOnly l s (journalFences l m id s) :=
  .foldl (fun _ _ => journal_journalOnly ..) _ _

/-! ### References -/

/-- A reference is counted beside an object, whose body stays. -/
theorem addRef_memOfKey (key k : Nat) (s : State) : memOfKey k (addRef key s) = memOfKey k s := by
  have hbody : (tget (addRef key s).objects k).map Obj.body = (tget s.objects k).map Obj.body := by
    simp only [addRef, tget_tupd]
    split
    · next h => rw [h, Option.map_map]; rfl
    · rfl
  simp only [memOfKey, hbody]

theorem addRefs_memOfKey (keys : List Nat) (k : Nat) (s : State) :
    memOfKey k (keys.foldl (fun s x => addRef x s) s) = memOfKey k s := by
  induction keys generalizing s with
  | nil => rfl
  | cons a as ih => exact (ih _).trans (addRef_memOfKey a k s)

theorem addRefs_within (keys : List Nat) (s : State) : Within [.objects] s (keys.foldl (fun s x => addRef x s) s) :=
  Within.foldl (fun _ _ h => addRef_within _ h (.refl _)) _ (.refl _ s)

theorem operandLoc_of_memOfKey {hOff oOff : Nat} (h : ∀ key, memOfKey key t = memOfKey key s) :
    operandLoc k m hOff oOff t = operandLoc k m hOff oOff s := by
  simp only [operandLoc, h]

end Sys2Proof.Machine
end

section
/-! Settling O16: OP_LOOP_OPEN (R198) and OP_REPLAY_OPEN (R394 to R396). -/

namespace Sys2Proof.Machine

variable {c q k pos l : Nat} {m : Cmd} {p : LoopParams} {raw : List Byte} {replay : Option Replay} {s t : State}

/-! ### A loop that opens -/

/-- A loop as its command opens it: OPEN, idle, at step 0, with the version bound at dispatch; a replay is awake. -/
structure Loop.Opened (k : Nat) (m : Cmd) (p : LoopParams) (replay : Option Replay) (lp : Loop) : Prop where
  live : lp.draining = false
  idle : lp.phase = .idle
  ctx : lp.ctx = k / 256
  params : lp.params = p
  bound : (lp.gkey, lp.ver) = m.bound.getD (0, 0)
  step : lp.step = 0
  entries : lp.entries = []
  replayed : lp.replay = replay
  tag : lp.tag = eTag m.entry
  woken : lp.woken = replay.isSome

theorem Loop.Opened.withJnl {lp : Loop} (h : lp.Opened k m p replay) (j : Option Jnl) : ({ lp with jnl := j } : Loop).Opened k m p replay :=
  ⟨h.live, h.idle, h.ctx, h.params, h.bound, h.step, h.entries, h.replayed, h.tag, h.woken⟩

/-- A loop opens as its record, written under the lowest free number, before its LOOP record goes to its Journal. Its command holds the
version no longer, and every operand is where it was. -/
theorem openLoop_stages (k : Nat) (m : Cmd) (p : LoopParams) (raw : List Byte) (replay : Option Replay) (s : State) :
    ∃ lp v tag t c g ver, lp.Opened k m p replay ∧ openLoop k m p raw replay s = journalLoop (freeLoopId s) tag t c g ver raw p.modelKey v ∧
      v.trestle.loops = tset s.trestle.loops (freeLoopId s) lp ∧
      (∀ m', s.cmd k m.pos = some m' → v.cmd k m.pos = some { m' with bound := none }) ∧ ∀ key, memOfKey key v = memOfKey key s := by
  unfold openLoop
  extract_lets c id t
  split
  next g ver hb =>
  extract_lets pins lp s1 s2 s3
  have h1 := addRefs_within pins { s with trestle := { s.trestle with loops := tset s.trestle.loops id lp } }
  have h3 : Within [.wrd, .mgmt] s2 s3 := .ite (fun _ => .refl _ s2) (fun _ => demandModel_within _ (.refl _ s2) (.refl _))
  refine ⟨lp, s3, _, _, _, _, _, ⟨rfl, rfl, rfl, rfl, hb.symm, rfl, rfl, rfl, rfl, rfl⟩, rfl, ?_, fun m' hm' => ?_, fun key => ?_⟩
  · exact congrArg Trestle.loops ((h3.same .trestle (by decide)).trans (h1.same .trestle (by decide)))
  · have hm1 : s1.cmd k m.pos = some m' := by rwa [State.cmd, show s1.front = s.front from h1.same .front (by decide)]
    rw [State.cmd, show s3.front = s2.front from h3.same .front (by decide)]
    exact modC_cmd_self (fun _ => rfl) hm1
  · have hobj : s3.objects = s1.objects := h3.same .objects (by decide)
    rw [memOfKey, hobj]
    exact addRefs_memOfKey pins key _

/-- The loops after one opened. -/
theorem openLoop_loops (k : Nat) (m : Cmd) (p : LoopParams) (raw : List Byte) (replay : Option Replay) (s : State) :
    (∃ lp, lp.Opened k m p replay ∧ tget (openLoop k m p raw replay s).trestle.loops (freeLoopId s) = some lp) ∧
    ∀ l, l ≠ freeLoopId s → tget (openLoop k m p raw replay s).trestle.loops l = tget s.trestle.loops l := by
  obtain ⟨lp, v, tag, t, c, g, ver, ho, he, hloops, -⟩ := openLoop_stages k m p raw replay s
  obtain ⟨-, hother, hself⟩ := journalLoop_journalOnly (freeLoopId s) tag t c g ver raw p.modelKey v
  obtain ⟨j, hj⟩ := hself lp (by rw [hloops]; exact tget_tset_self _ _ _)
  rw [he]
  exact ⟨⟨_, ho.withJnl j, hj⟩, fun l hl => (hother l hl).trans (by rw [hloops]; exact tget_tset_ne _ _ hl)⟩

theorem openLoop_cmd {m' : Cmd} (hm : s.cmd k m.pos = some m') :
    (openLoop k m p raw replay s).cmd k m.pos = some { m' with bound := none } := by
  obtain ⟨lp, v, tag, t, c, g, ver, -, he, -, hcmd, -⟩ := openLoop_stages k m p raw replay s
  have hf := (journalLoop_within (freeLoopId s) tag t c g ver raw p.modelKey (.refl _ v) (.refl _)).same .front (by decide)
  rw [he, State.cmd, show _ = v.front from hf]
  exact hcmd m' hm

theorem openLoop_operandLoc {m' : Cmd} {k' hOff oOff : Nat} :
    operandLoc k' m' hOff oOff (openLoop k m p raw replay s) = operandLoc k' m' hOff oOff s := by
  obtain ⟨lp, v, tag, t, c, g, ver, -, he, -, -, hmem⟩ := openLoop_stages k m p raw replay s
  have hobj := (journalLoop_within (freeLoopId s) tag t c g ver raw p.modelKey (.refl _ v) (.refl _)).same .objects (by decide)
  rw [he, operandLoc_of_objects hobj]
  exact operandLoc_of_memOfKey hmem

/-! ### OP_LOOP_OPEN -/

theorem opLoopOpen_malformed {a : Nat} (hs : starting (qkey c q) pos 0x08 s = some m)
    (hp : parseLoopParams s.integ.slices (openParams (qkey c q) m s) = .error a) :
    opLoopOpen c q pos s = finish (qkey c q) pos .malformed (0x2000 + a) (begun (qkey c q) pos s) := by
  simp only [opLoopOpen, hs, openParams_begun, begun_integ, hp]

theorem opLoopOpen_refused {r : Status × Nat} (hs : starting (qkey c q) pos 0x08 s = some m)
    (hp : parseLoopParams s.integ.slices (openParams (qkey c q) m s) = .ok p) (hr : openRefusal c p s = some r) :
    opLoopOpen c q pos s = finish (qkey c q) pos r.1 r.2 (begun (qkey c q) pos s) := by
  simp only [opLoopOpen, hs, openParams_begun, begun_integ, hp, openRefusal_begun, hr]

theorem opLoopOpen_opens (hs : starting (qkey c q) pos 0x08 s = some m)
    (hp : parseLoopParams s.integ.slices (openParams (qkey c q) m s) = .ok p) (hr : openRefusal c p s = none) :
    opLoopOpen c q pos s = finish (qkey c q) m.pos .ok 0 (putResult (qkey c q) m 20 32 (le 8 (freeLoopId s))
      (openLoop (qkey c q) m p (openParams (qkey c q) m s) none (begun (qkey c q) pos s))) := by
  simp only [opLoopOpen, hs, openParams_begun, begun_integ, hp, openRefusal_begun, hr, finishOk, starting_pos hs, freeLoopId_begun]

/-! ### OP_REPLAY_OPEN -/

/-- The window of records that an OP_REPLAY_OPEN names. -/
def replayWindow (k : Nat) (m : Cmd) (s : State) : List Byte := readBytes k m 16 24 (fld m.entry 32 8) s

/-- The replay that an OP_REPLAY_OPEN of a window begins. -/
def openedReplay (q pos : Nat) (m : Cmd) (w : List Byte) (out : Loc) : Replay :=
  { records := windowRecords w, queue := q, pos := pos, first := fld m.entry 48 8, count := fld m.entry 56 8, map := [], result := out,
    diverged := none }

theorem opReplayOpen_malformed {a : Nat} (hs : starting (qkey c q) pos 0x17 s = some m)
    (hp : parseLoopParams s.integ.slices (replayParams (windowParams (replayWindow (qkey c q) m s))) = .error a) :
    opReplayOpen c q pos s = replayFails (qkey c q) m (.malformed, 0x2000 + a) 0 (begun (qkey c q) pos s) := by
  simp only [replayWindow] at hp
  simp only [opReplayOpen, hs, readBytes_begun, begun_integ, hp]

theorem opReplayOpen_refused {r : Status × Nat} (hs : starting (qkey c q) pos 0x17 s = some m)
    (hp : parseLoopParams s.integ.slices (replayParams (windowParams (replayWindow (qkey c q) m s))) = .ok p)
    (hr : openRefusal c p s = some r) :
    opReplayOpen c q pos s = replayFails (qkey c q) m r 0 (begun (qkey c q) pos s) := by
  simp only [replayWindow] at hp
  simp only [opReplayOpen, hs, readBytes_begun, begun_integ, hp, openRefusal_begun, hr]

theorem opReplayOpen_noLoopRecord (hs : starting (qkey c q) pos 0x17 s = some m)
    (hp : parseLoopParams s.integ.slices (replayParams (windowParams (replayWindow (qkey c q) m s))) = .ok p)
    (hr : openRefusal c p s = none) (hw : hasLoopRecord (replayWindow (qkey c q) m s) = false) :
    opReplayOpen c q pos s = replayFails (qkey c q) m (.replayDiverge, 0) 2 (begun (qkey c q) pos s) := by
  simp only [replayWindow] at hp hw
  simp only [opReplayOpen, hs, readBytes_begun, begun_integ, hp, openRefusal_begun, hr, hw, Bool.not_false, if_true]

theorem opReplayOpen_opens {out : Loc} (hs : starting (qkey c q) pos 0x17 s = some m)
    (hp : parseLoopParams s.integ.slices (replayParams (windowParams (replayWindow (qkey c q) m s))) = .ok p)
    (hr : openRefusal c p s = none) (hw : hasLoopRecord (replayWindow (qkey c q) m s) = true)
    (ho : operandLoc (qkey c q) m 20 40 s = some out) :
    opReplayOpen c q pos s = openLoop (qkey c q) m p (replayParams (windowParams (replayWindow (qkey c q) m s)))
      (some (openedReplay q pos m (replayWindow (qkey c q) m s) out)) (begun (qkey c q) pos s) := by
  have ho' : operandLoc (qkey c q) m 20 40 (begun (qkey c q) pos s) = some out := (operandLoc_of_objects (begun_objects ..)).trans ho
  simp only [replayWindow] at hp hw
  simp only [opReplayOpen, hs, readBytes_begun, begun_integ, hp, openRefusal_begun, hr, hw, Bool.not_true, Bool.false_eq_true, if_false,
    ho', Option.getD_some, replayWindow, openedReplay]

theorem replayWord_zero (kind : Nat) : replayWord kind 0 = le 8 (kind * 2 ^ 56) := by
  rw [replayWord, Nat.zero_mod, Nat.add_zero]

/-- A replay that fails to open has its result word written and ends with its status (R396). -/
theorem replayFails_cmd {out : Loc} {r : Status × Nat} {kind : Nat} (hs : starting (qkey c q) pos 0x17 s = some m)
    (ho : operandLoc (qkey c q) m 20 40 s = some out)
    (he : opReplayOpen c q pos s = replayFails (qkey c q) m r kind (begun (qkey c q) pos s)) :
    ∃ t, Machine.exec (.opReplayOpen c q pos) s = .next t ∧
      (t.cmd (qkey c q) pos).map (fun x => (x.latch, x.results)) = some (some ⟨r.1, r.2⟩, m.results ++ [⟨out, le 8 (kind * 2 ^ 56)⟩]) ∧
      OnlyIn [.front, .chest, .jnl] s t := by
  obtain ⟨hb, hl⟩ := begun_starting hs
  refine ⟨opReplayOpen c q pos s, rfl, ?_, ?_⟩
  · rw [he, replayFails, replayWord_zero kind]
    exact (finish_putResult _ (starting_pos hs) hb hl ((operandLoc_of_objects (begun_objects ..)).trans ho) :)
  · rw [he, replayFails]
    exact (finish_within _ _ _ _ (putResult_within _ _ _ _ _ (begun_within _ _ (.refl [.front, .chest, .jnl] s) (.refl _))
      (by simp [Covers])) (by simp [Covers])).onlyIn

/-- A loop that opens for a command just begun. -/
theorem openLoop_begun {op : Nat} (hs : starting k pos op s = some m) (p : LoopParams) (raw : List Byte) (replay : Option Replay) :
    let u := openLoop k m p raw replay (begun k pos s)
    (∃ lp, lp.Opened k m p replay ∧ tget u.trestle.loops (freeLoopId s) = some lp) ∧
    (∀ l, l ≠ freeLoopId s → tget u.trestle.loops l = tget s.trestle.loops l) ∧
    u.cmd k pos = some { m with started := true, bound := none } := by
  obtain ⟨hopened, hothers⟩ := openLoop_loops k m p raw replay (begun k pos s)
  rw [freeLoopId_begun] at hopened hothers
  obtain ⟨hb, -⟩ := begun_starting hs
  rw [begun_trestle] at hothers
  have hpos := starting_pos hs
  exact ⟨hopened, hothers, (congrArg (State.cmd _ k) hpos.symm).trans (openLoop_cmd ((congrArg (State.cmd _ k) hpos).trans hb))⟩

/-- Settles O16: each refusal by finish_refused or replayFails_cmd, and the loop that opens by openLoop_begun. -/
theorem loopsOpen : Obligations.LoopsOpen := by
  refine ⟨fun c q pos m s hs => ?_, fun c q pos m out s hs => ?_⟩
  · refine ⟨fun a hp => ?_, fun p hp => ⟨fun r hr => ?_, fun out hr _ hq ho => ?_⟩⟩
    · exact ⟨_, rfl, by rw [opLoopOpen_malformed hs hp]; exact finish_refused hs ..⟩
    · exact ⟨_, rfl, by rw [opLoopOpen_refused hs hp hr]; exact finish_refused hs ..⟩
    have he := opLoopOpen_opens hs hp hr
    obtain ⟨⟨lp, h, hlp⟩, hothers, hcmd⟩ := openLoop_begun hs p (openParams (qkey c q) m s) none
    refine ⟨opLoopOpen c q pos s, lp, rfl, freeLoopId_free s, ?_, h.live, h.idle, h.ctx.trans (qkey_ctx c hq), h.params, h.bound,
      h.step, h.entries, h.replayed, h.tag, fun l hl => ?_, ?_, onlyIn_of_exec (c := .opLoopOpen c q pos) rfl⟩
    · rw [he, finish_putResult_trestle, hlp]
    · rw [he, finish_putResult_trestle, hothers l hl]
    · rw [he]
      exact (finish_putResult (le 8 (freeLoopId s)) (starting_pos hs) hcmd (begun_starting hs).2
        (openLoop_operandLoc.trans ((operandLoc_of_objects (begun_objects ..)).trans ho)) :)
  · intro k w fails _ hq ho
    refine ⟨fun a hp => ?_, fun p hp => ⟨fun r hr => ?_, fun hr hw => ?_, fun hr hw => ?_⟩⟩
    · exact replayFails_cmd (r := (.malformed, 0x2000 + a)) hs ho (opReplayOpen_malformed hs hp)
    · exact replayFails_cmd hs ho (opReplayOpen_refused hs hp hr)
    · exact replayFails_cmd (r := (.replayDiverge, 0)) hs ho (opReplayOpen_noLoopRecord hs hp hr hw)
    have he := opReplayOpen_opens hs hp hr hw ho
    obtain ⟨⟨lp, h, hlp⟩, hothers, hcmd⟩ := openLoop_begun hs p (replayParams (windowParams (replayWindow k m s)))
      (some (openedReplay q pos m (replayWindow k m s) out))
    refine ⟨opReplayOpen c q pos s, lp, _, rfl, ?_, h.replayed, rfl, rfl, rfl, rfl, rfl, rfl, rfl, h.ctx.trans (qkey_ctx c hq), h.step, h.idle, ?_,
      fun l hl => ?_, ?_, onlyIn_of_exec (c := .opReplayOpen c q pos) rfl⟩
    · rw [he]; exact hlp
    · rw [Loop.awake, h.woken, Option.isSome_some, Bool.true_or]
    · rw [he]; exact hothers l hl
    · rw [he, hcmd]
      exact congrArg some (begun_starting hs).2

end Sys2Proof.Machine
end

section
/-! Settling O18: OP_LOOP_ADMIT (R199, R202, R203). -/

namespace Sys2Proof.Machine

variable {c q k pos l : Nat} {m : Cmd} {lp : Loop} {a : AdmitRec} {s t : State}

/-! ### A sequence that is admitted -/

/-- A sequence as its admission writes it: WAITING, with the pages it shares and nothing produced. -/
structure Seq.Admitted (l : Nat) (lp : Loop) (tag id : Nat) (a : AdmitRec) (p : Nat) (x : Seq) : Prop where
  waiting : x.state = .waiting
  loop : x.loopId = l
  id : x.seqId = id
  ctx : x.ctx = lp.ctx
  tenant : x.tenant = lp.tenant
  tag : x.admitTag = tag
  adm : x.adm = a
  produced : x.produced = 0
  order : x.acceptOrder = lp.nextOrder
  live : x.cancel = false
  prompt : x.promptDone = p * lp.params.tokensPerPage
  tokens : x.kvTokens = p * lp.params.tokensPerPage

/-- What every step of a fold keeps, the fold keeps. -/
theorem foldl_keeps {α β : Type} {f : State → α → State} {g : State → β} (hf : ∀ s a, g (f s a) = g s) (as : List α) (s : State) :
    g (as.foldl f s) = g s := by
  induction as generalizing s with
  | nil => rfl
  | cons a as ih => exact (ih _).trans (hf s a)

theorem sharePages_hkBase (x : Seq) (p : Nat) (s : State) : (sharePages x p s).wrd.hkBase = s.wrd.hkBase := by
  refine (foldl_keeps (g := fun s => s.wrd.hkBase) ?_ _ _).trans (foldl_keeps (g := fun s => s.wrd.hkBase) ?_ _ s)
  · exact fun _ _ => rfl
  · exact fun _ _ => rfl

/-- The pages of a source are shared, where there is one (R228). -/
def shareFrom (src : Option Seq) (p : Nat) (s : State) : State :=
  match src with
  | some x => sharePages x p s
  | none => s

theorem shareFrom_within {fp : List Part} (src : Option Seq) (p : Nat) (s : State) (hm : Covers [.wrd] fp) :
    Within fp s (shareFrom src p s) := by
  cases src with
  | none => exact .refl _ s
  | some x => exact sharePages_within x p (.refl _ s) hm

theorem shareFrom_hkBase (src : Option Seq) (p : Nat) (s : State) : (shareFrom src p s).wrd.hkBase = s.wrd.hkBase := by
  cases src with
  | none => rfl
  | some x => exact sharePages_hkBase x p s

theorem takeSeqIndex_seqs (s : State) : (takeSeqIndex s).trestle.seqs = s.trestle.seqs := rfl

theorem takeSeqIndex_loops (s : State) : (takeSeqIndex s).trestle.loops = s.trestle.loops := rfl

/-- The record of a sequence is written. -/
def State.putSeq (s : State) (i : Nat) (x : Seq) : State :=
  { s with trestle := { s.trestle with seqs := tset s.trestle.seqs i x } }

theorem State.putSeq_mem (s : State) (i : Nat) (x : Seq) : (s.putSeq i x).mem = s.mem := rfl

theorem State.putSeq_front (s : State) (i : Nat) (x : Seq) : (s.putSeq i x).front = s.front := rfl

theorem State.putSeq_objects (s : State) (i : Nat) (x : Seq) : (s.putSeq i x).objects = s.objects := rfl

theorem State.putSeq_seqs (s : State) (i : Nat) (x : Seq) : (s.putSeq i x).trestle.seqs = tset s.trestle.seqs i x := rfl

theorem State.putSeq_loops (s : State) (i : Nat) (x : Seq) : (s.putSeq i x).trestle.loops = s.trestle.loops := rfl

theorem State.modLoop_seqs (s : State) (l : Nat) (f : Loop → Loop) : (s.modLoop l f).trestle.seqs = s.trestle.seqs := rfl

theorem State.modLoop_loops (s : State) (l : Nat) (f : Loop → Loop) :
    (s.modLoop l f).trestle.loops = tupd s.trestle.loops l f := rfl

/-- An admission before its record is stored: pages are shared, the index is taken, references are held. -/
def holdRefs (x : Seq) (src : Option Seq) (p : Nat) (s : State) : State :=
  x.refs.foldl (fun s key => addRef key s) (takeSeqIndex (shareFrom src p s))

theorem holdRefs_within (x : Seq) (src : Option Seq) (p : Nat) (s : State) :
    Within [.objects, .trestle, .wrd] s (holdRefs x src p s) :=
  Within.foldl (fun _ _ h => addRef_within _ h (by simp [Covers])) _
    (takeSeqIndex_within (shareFrom_within src p s (by simp [Covers])) (by simp [Covers]))

theorem holdRefs_trestle (x : Seq) (src : Option Seq) (p : Nat) (s : State) :
    (holdRefs x src p s).trestle = (takeSeqIndex (shareFrom src p s)).trestle :=
  (addRefs_within x.refs (takeSeqIndex (shareFrom src p s))).same .trestle (by decide)

theorem shareFrom_trestle (src : Option Seq) (p : Nat) (s : State) : (shareFrom src p s).trestle = s.trestle :=
  (shareFrom_within src p s (.refl [.wrd])).same .trestle (by decide)

theorem holdRefs_seqs (x : Seq) (src : Option Seq) (p : Nat) (s : State) : (holdRefs x src p s).trestle.seqs = s.trestle.seqs := by
  rw [holdRefs_trestle, takeSeqIndex_seqs, shareFrom_trestle]

theorem holdRefs_loops (x : Seq) (src : Option Seq) (p : Nat) (s : State) : (holdRefs x src p s).trestle.loops = s.trestle.loops := by
  rw [holdRefs_trestle, takeSeqIndex_loops, shareFrom_trestle]

theorem holdRefs_paramLoc (x : Seq) (src : Option Seq) (p i : Nat) (s : State) : paramLoc i (holdRefs x src p s) = paramLoc i s := by
  have hrefs : (holdRefs x src p s).wrd = (takeSeqIndex (shareFrom src p s)).wrd :=
    (addRefs_within x.refs (takeSeqIndex (shareFrom src p s))).same .wrd (by decide)
  have htake : (takeSeqIndex (shareFrom src p s)).wrd = (shareFrom src p s).wrd :=
    (takeSeqIndex_within (.refl [.trestle] (shareFrom src p s)) (.refl _)).same .wrd (by decide)
  rw [paramLoc, hrefs, htake, shareFrom_hkBase, paramLoc]

theorem holdRefs_memOfKey (x : Seq) (src : Option Seq) (p key : Nat) (s : State) : memOfKey key (holdRefs x src p s) = memOfKey key s := by
  have htake : (takeSeqIndex (shareFrom src p s)).objects = s.objects :=
    (takeSeqIndex_within (shareFrom_within src p s (by simp [Covers])) (by simp [Covers]) : Within [.trestle, .wrd] s _).same
      .objects (by decide)
  rw [holdRefs, addRefs_memOfKey, memOfKey, htake, memOfKey]

/-- An admission stores its record in the parameter block of its sequence, and writes the sequence; then its loop gives the next
accept_order. -/
theorem admitSeq_eq (l : Nat) (lp : Loop) (tag : Nat) (a : AdmitRec) (raw : List Byte) (src : Option Seq) (p : Nat) (s : State) :
    ∃ x, admitSeq l lp tag a raw src p s = State.modLoop
        ((portWrite none .hub (paramLoc (nextSeqIndex s).1 (holdRefs x src p s)) raw (holdRefs x src p s)).putSeq (nextSeqIndex s).1 x) l
        (fun lp => { lp with nextOrder := (lp.nextOrder + 1) % 2 ^ 32 }) ∧
      x.Admitted l lp tag ((nextSeqIndex s).1 + (nextSeqIndex s).2 * 2 ^ 18) a p := by
  unfold admitSeq
  generalize nextSeqIndex s = n
  obtain ⟨i, r⟩ := n
  exact ⟨_, rfl, ⟨rfl, rfl, rfl, rfl, rfl, rfl, rfl, rfl, rfl, rfl, rfl, rfl⟩⟩

/-- The sequences, the loops, the memory, the commands and the operands after a sequence is admitted. -/
theorem admitSeq_done (l : Nat) (lp : Loop) (tag : Nat) (a : AdmitRec) (raw : List Byte) (src : Option Seq) (p : Nat) (s : State) :
    let t := admitSeq l lp tag a raw src p s
    (∃ x, x.Admitted l lp tag ((nextSeqIndex s).1 + (nextSeqIndex s).2 * 2 ^ 18) a p ∧
      t.trestle.seqs = tset s.trestle.seqs (nextSeqIndex s).1 x) ∧
    t.trestle.loops = tupd s.trestle.loops l (fun lp => { lp with nextOrder := (lp.nextOrder + 1) % 2 ^ 32 }) ∧
    t.mem = s.mem.write (paramLoc (nextSeqIndex s).1 s) raw ∧ t.front = s.front ∧ ∀ key, memOfKey key t = memOfKey key s := by
  obtain ⟨x, he, hx⟩ := admitSeq_eq l lp tag a raw src p s
  have hheld := holdRefs_within x src p s
  have hseqs := holdRefs_seqs x src p s
  have hloops := holdRefs_loops x src p s
  have hparam := holdRefs_paramLoc x src p (nextSeqIndex s).1 s
  have hkeys := fun key => holdRefs_memOfKey x src p key s
  generalize holdRefs x src p s = u at *
  have hmem : u.mem = s.mem := hheld.same .mem (by decide)
  rw [he]
  refine ⟨⟨x, hx, ?_⟩, ?_, ?_, ?_, fun key => ?_⟩
  · rw [State.modLoop_seqs, State.putSeq_seqs, portWrite_trestle, hseqs]
  · rw [State.modLoop_loops, State.putSeq_loops, portWrite_trestle, hloops]
  · rw [State.modLoop_mem, State.putSeq_mem, portWrite_mem, hparam, hmem]
  · rw [State.modLoop_front, State.putSeq_front, portWrite_front]
    exact hheld.same .front (by decide)
  · rw [memOfKey, State.modLoop_objects, State.putSeq_objects, portWrite_objects]
    exact hkeys key

/-! ### The admission as a whole -/

/-- What an OP_LOOP_ADMIT that is not refused does before it ends. -/
def admission (l : Nat) (lp : Loop) (m : Cmd) (a : AdmitRec) (raw : List Byte) (src : Option Seq) (p id : Nat) (s : State) : State :=
  wakeLoop l (journalFences l m id (admitSeq l lp (eTag m.entry) a raw src p s))

section
variable {raw : List Byte} {src : Option Seq} {p id : Nat}

/-- The woken loop's Journal, and the parts that neither the Journal nor the loops are. -/
theorem admission_after (u : State) :
    (∀ lp', tget u.trestle.loops l = some lp' →
      ∃ j, tget (wakeLoop l (journalFences l m id u)).trestle.loops l = some { lp' with jnl := j, woken := true }) ∧
    (∀ j, j ≠ l → tget (wakeLoop l (journalFences l m id u)).trestle.loops j = tget u.trestle.loops j) ∧
    (wakeLoop l (journalFences l m id u)).trestle.seqs = u.trestle.seqs ∧ (wakeLoop l (journalFences l m id u)).mem = u.mem ∧
    (wakeLoop l (journalFences l m id u)).front = u.front ∧ (wakeLoop l (journalFences l m id u)).objects = u.objects := by
  obtain ⟨hseqs, hothers, hself⟩ := journalFences_journalOnly l m id u
  have hw : Within [.trestle, .chest, .jnl] u (wakeLoop l (journalFences l m id u)) :=
    wakeLoop_within l (journalFences_within l m id (.refl _ u) (.refl _)) (by simp [Covers])
  refine ⟨fun lp' hlp' => ?_, fun j hj => ?_, hseqs, hw.same .mem (by decide), hw.same .front (by decide), hw.same .objects (by decide)⟩
  · obtain ⟨j, hj⟩ := hself lp' hlp'
    exact ⟨j, by rw [wakeLoop, State.modLoop, tget_tupd, if_pos rfl, hj]; rfl⟩
  · rw [wakeLoop, State.modLoop, tget_tupd, if_neg hj]
    exact hothers j hj

/-- The tables, the memory, the commands and the operands after an admission. -/
theorem admission_done (hl : tget s.trestle.loops l = some lp) :
    let t := admission l lp m a raw src p id s
    (∃ x, x.Admitted l lp (eTag m.entry) ((nextSeqIndex s).1 + (nextSeqIndex s).2 * 2 ^ 18) a p ∧
      t.trestle.seqs = tset s.trestle.seqs (nextSeqIndex s).1 x) ∧
    (tget t.trestle.loops l).map (fun y => (y.nextOrder, y.woken, y.step, y.phase)) =
      some ((lp.nextOrder + 1) % 2 ^ 32, true, lp.step, lp.phase) ∧
    (∀ j, j ≠ l → tget t.trestle.loops j = tget s.trestle.loops j) ∧
    t.mem = s.mem.write (paramLoc (nextSeqIndex s).1 s) raw ∧ t.front = s.front ∧
    ∀ m' hOff oOff, operandLoc k m' hOff oOff t = operandLoc k m' hOff oOff s := by
  obtain ⟨⟨x, hx, hseqs⟩, hloops, hmem, hfront, hkeys⟩ := admitSeq_done l lp (eTag m.entry) a raw src p s
  unfold admission
  generalize admitSeq l lp (eTag m.entry) a raw src p s = u at *
  obtain ⟨hself, hothers, hseqs', hmem', hfront', hobj'⟩ := admission_after (l := l) (m := m) (id := id) u
  refine ⟨⟨x, hx, hseqs'.trans hseqs⟩, ?_, fun j hj => ?_, hmem'.trans hmem, hfront'.trans hfront, fun m' hOff oOff => ?_⟩
  · obtain ⟨j, hj⟩ := hself { lp with nextOrder := (lp.nextOrder + 1) % 2 ^ 32 } (by rw [hloops, tget_tupd, if_pos rfl, hl, Option.map_some])
    rw [hj]
    rfl
  · rw [hothers j hj, hloops, tget_tupd, if_neg hj]
  · exact (operandLoc_of_objects hobj').trans (operandLoc_of_memOfKey hkeys)

end

/-! ### OP_LOOP_ADMIT -/

/-- An admission record with the seed that the hub draws for it (R203). -/
def AdmitRec.seeded (a : AdmitRec) (seed : W64) : AdmitRec := if a.autoSeed then { a with seed := seed } else a

theorem prefixSource_seeded (l : Nat) (a : AdmitRec) (seed : W64) (s : State) : prefixSource l (a.seeded seed) s = prefixSource l a s := by
  unfold AdmitRec.seeded; split <;> rfl

theorem prefixPages_seeded (a : AdmitRec) (seed : W64) (src : Option Seq) (tpp : Nat) :
    prefixPages (a.seeded seed) src tpp = prefixPages a src tpp := by
  unfold AdmitRec.seeded; split <;> rfl

theorem readBytes_length (k : Nat) (m : Cmd) (hOff oOff n : Nat) (s : State) : (readBytes k m hOff oOff n s).length = n := by
  unfold readBytes
  split
  · dsimp only
    split
    · next r hr => simpa using (And.right (by simpa using List.find?_some hr) : r.2.length = n)
    · exact memRead_length ..
  · simp [zeros]

theorem opLoopAdmit_noLoop (seed : W64) (hs : starting (qkey c q) pos 0x09 s = some m) (hl : ctxLoop (fld m.entry 16 2) c s = none) :
    opLoopAdmit c q pos seed s = finish (qkey c q) pos .stale 16 (begun (qkey c q) pos s) := by
  simp only [opLoopAdmit, hs, ctxLoop_begun, hl]

section
variable (seed : W64) (hs : starting (qkey c q) pos 0x09 s = some m) (hl : ctxLoop (fld m.entry 16 2) c s = some lp)
  (ha : parseAdmit (readBytes (qkey c q) m 20 24 128 s) = .ok a)
include hs hl ha

theorem opLoopAdmit_notOpen (hn : lp.draining = true ∨ lp.replay.isSome = true) :
    opLoopAdmit c q pos seed s = finish (qkey c q) pos .stale 16 (begun (qkey c q) pos s) := by
  simp only [opLoopAdmit, hs, ctxLoop_begun, readBytes_begun, hl, ha, Bool.or_eq_true_iff.2 hn, if_true]

theorem opLoopAdmit_refused {r : Status × Nat} (hd : lp.draining = false) (hp : lp.replay = none)
    (hr : admitRefusal c (fld m.entry 16 2) a s = some r) :
    opLoopAdmit c q pos seed s = finish (qkey c q) pos r.1 r.2 (begun (qkey c q) pos s) := by
  simp only [opLoopAdmit, hs, ctxLoop_begun, readBytes_begun, hl, ha, hd, hp, Option.isSome_none, Bool.or_false, Bool.false_eq_true, if_false,
    admitRefusal_begun, hr]

theorem opLoopAdmit_admits (hd : lp.draining = false) (hp : lp.replay = none) (hr : admitRefusal c (fld m.entry 16 2) a s = none) :
    opLoopAdmit c q pos seed s =
      finish (qkey c q) m.pos .ok 0 (putResult (qkey c q) m 32 40 (le 8 ((nextSeqIndex s).1 + (nextSeqIndex s).2 * 2 ^ 18))
        (admission (fld m.entry 16 2) lp m (a.seeded seed) (readBytes (qkey c q) m 20 24 128 s) (prefixSource (fld m.entry 16 2) a s)
          (prefixPages a (prefixSource (fld m.entry 16 2) a s) lp.params.tokensPerPage)
          ((nextSeqIndex s).1 + (nextSeqIndex s).2 * 2 ^ 18) (begun (qkey c q) pos s))) := by
  rw [← prefixSource_seeded _ _ seed, ← prefixPages_seeded _ seed, ← prefixSource_begun (k := qkey c q) (pos := pos),
    ← nextSeqIndex_begun (k := qkey c q) (pos := pos), starting_pos hs]
  simp only [opLoopAdmit, hs, ctxLoop_begun, readBytes_begun, hl, ha, hd, hp, Option.isSome_none, Bool.or_false, Bool.false_eq_true, if_false,
    admitRefusal_begun, hr]
  rfl

/-- An OP_LOOP_ADMIT that is not refused, through the state in which its result word is to be written. -/
theorem opLoopAdmit_done (hd : lp.draining = false) (hp : lp.replay = none) (hr : admitRefusal c (fld m.entry 16 2) a s = none) :
    ∃ u x, opLoopAdmit c q pos seed s = finish (qkey c q) m.pos .ok 0 (putResult (qkey c q) m 32 40
        (le 8 ((nextSeqIndex s).1 + (nextSeqIndex s).2 * 2 ^ 18)) u) ∧
      x.Admitted (fld m.entry 16 2) lp (eTag m.entry) ((nextSeqIndex s).1 + (nextSeqIndex s).2 * 2 ^ 18) (a.seeded seed)
        (prefixPages a (prefixSource (fld m.entry 16 2) a s) lp.params.tokensPerPage) ∧
      u.trestle.seqs = tset s.trestle.seqs (nextSeqIndex s).1 x ∧
      (tget u.trestle.loops (fld m.entry 16 2)).map (fun y => (y.nextOrder, y.woken, y.step, y.phase)) =
        some ((lp.nextOrder + 1) % 2 ^ 32, true, lp.step, lp.phase) ∧
      (∀ j, j ≠ fld m.entry 16 2 → tget u.trestle.loops j = tget s.trestle.loops j) ∧
      u.mem = s.mem.write (paramLoc (nextSeqIndex s).1 s) (readBytes (qkey c q) m 20 24 128 s) ∧
      u.cmd (qkey c q) pos = some { m with started := true } ∧ operandLoc (qkey c q) m 32 40 u = operandLoc (qkey c q) m 32 40 s := by
  have he := opLoopAdmit_admits seed hs hl ha hd hp hr
  have hloop : tget (begun (qkey c q) pos s).trestle.loops (fld m.entry 16 2) = some lp := by
    rw [begun_trestle]
    exact (Option.filter_eq_some_iff.1 hl).1
  obtain ⟨⟨x, hx, hseqs⟩, hself, hothers, hwrite, hfront, hop⟩ := admission_done (m := m) (a := a.seeded seed)
    (raw := readBytes (qkey c q) m 20 24 128 s) (src := prefixSource (fld m.entry 16 2) a s)
    (p := prefixPages a (prefixSource (fld m.entry 16 2) a s) lp.params.tokensPerPage)
    (id := (nextSeqIndex s).1 + (nextSeqIndex s).2 * 2 ^ 18) hloop
  rw [nextSeqIndex_begun] at hx hseqs hwrite
  rw [begun_trestle] at hseqs hothers
  rw [begun_mem, paramLoc_begun] at hwrite
  refine ⟨_, x, he, hx, hseqs, hself, hothers, hwrite, ?_, (hop ..).trans (operandLoc_of_objects (begun_objects ..))⟩
  rw [State.cmd, hfront]
  exact (begun_starting hs).1

end

/-- Settles O18: each refusal by finish_refused, and an admission by what admission_done says of it. -/
theorem loopAdmits : Obligations.LoopAdmits := by
  intro c q pos seed m s hs hmem _ _ k l raw i id
  have hrefused (st : Status) (aux : Nat) (he : opLoopAdmit c q pos seed s = finish k pos st aux (begun k pos s)) :
      ∃ t, Machine.exec (.opLoopAdmit c q pos seed) s = .next t ∧
        (t.cmd k pos).map (·.latch) = some (some ⟨st, aux⟩) ∧ OnlyIn [.front, .chest, .jnl] s t :=
    ⟨_, rfl, by rw [he]; exact finish_refused hs st aux⟩
  refine ⟨fun h => ?_, fun lp a hl ha hd hp => ⟨fun r hr => ?_, fun out hr ho => ?_⟩⟩
  · rcases h with hl | ⟨lp, a, hl, ha, hn⟩
    · exact hrefused _ _ (opLoopAdmit_noLoop seed hs hl)
    · exact hrefused _ _ (opLoopAdmit_notOpen seed hs hl ha hn)
  · exact hrefused _ _ (opLoopAdmit_refused seed hs hl ha hd hp hr)
  obtain ⟨u, x, he, hx, hseqs, hself, hothers, hwrite, hcmd, hop⟩ := opLoopAdmit_done seed hs hl ha hd hp hr
  have hlen : raw.length = 128 := readBytes_length ..
  have hmemory : (opLoopAdmit c q pos seed s).mem = s.mem.write (paramLoc i s) raw := by rw [he, finish_putResult_mem]; exact hwrite
  have htrestle : (opLoopAdmit c q pos seed s).trestle = u.trestle := by rw [he]; exact finish_putResult_trestle ..
  refine ⟨opLoopAdmit c q pos seed s, x, rfl, ?_, hx.waiting, hx.loop, hx.id, hx.ctx, hx.tenant, hx.tag, hx.adm, hx.produced, hx.order, hx.live,
    hx.prompt, hx.tokens.trans hx.prompt.symm, fun j hj => ?_, ?_, fun j hj => ?_, ?_, fun k' hk' => ?_, ?_,
    onlyIn_of_exec (c := .opLoopAdmit c q pos seed) rfl⟩
  · rw [htrestle, hseqs]; exact tget_tset_self _ _ _
  · rw [htrestle, hseqs]; exact tget_tset_ne _ _ hj
  · rw [htrestle]; exact hself
  · rw [htrestle]; exact hothers j hj
  · rw [← hlen]; exact memRead_write _ _ hmem hmemory
  · exact memRead_write_other _ _ hmemory k' (by rwa [hlen])
  · rw [he]
    exact (finish_putResult _ (starting_pos hs) hcmd (begun_starting hs).2 (hop.trans ho) :)

end Sys2Proof.Machine
end

section
/-! Refutation of O19: closing a loop lets a map-out begin, which closes another loop (R199, R250, R251). -/

namespace Sys2Proof.Machine

/-- OP_LOOP_CLOSE of loop 1 in mode drain (R58), dispatched and not begun on. -/
def closeOne : Cmd :=
  { Cmd.fresh ⟨0, le 1 2 ++ le 1 0x0B ++ zeros 14 ++ le 2 1 ++ zeros 46, none, true⟩ with phase := .dispatched, running := true }

/-- A map-out of one unit of the fast memory, as MAPOUT_REQUEST makes it (R248). -/
def fastMapout (lost : Bool) (unit : Nat) : Mapout :=
  { tier := .fast, channel := unit, lost := lost, units := [unit], source := 0, removed := 0, invalidated := 0, outcome := 0,
    tenant := 0xFFFF }

/-- Loop 1, which is closed. -/
def openLoopOne : Loop := { drainingLoop with draining := false }

/-- Loop 1 is open with no sequence; its saved residency has the last frame, 1, that the map-out in progress waits for. The map-out
that waits its turn has lost frame 0 of the fast memory, where the last sequence of the draining loop 0 has its page. -/
def closeFreesFrame : State :=
  { State.reset with
    contexts := [(0, batCtx)]
    front := { State.reset.front with queues := [(0, { Queue.reset with state := .fetching, d := 1, f := 1, cmds := [closeOne] })] }
    trestle := { State.reset.trestle with
      loops := [(0, drainingLoop), (1, openLoopOne)], seqs := [(0, lastSeq)] }
    wrd := { State.reset.wrd with
      enable := true, built := true, pageLog2 := 18, fastGib := 4, slowGib := 4, hkBase := 0xC0000000
      mapout := some (fastMapout false 1)
      mapoutWait := [fastMapout true 0]
      frames := [(0, { Frame.of .kv false with holders := 1 }), (1, { Frame.of .save false with state := .leaving })]
      leaves := [(0, { pred := none, predValid := 0, used := 1, chains := 1, entries := [{ valid := true, lost := false, frame := 0 }] })] }
    sched := { State.reset.sched with
      residencies := [(0, { resOf (.loop 1) [] false none with ctx := 0, saved := true, saveFrames := [1] })], nextRes := 1 } }

/-- The map-out that begins loses the last page of loop 0, whose sequence ends, and the draining loop closes with it. -/
theorem opLoopClose_closeFreesFrame : (tget (opLoopClose 0 0 0 closeFreesFrame).trestle.loops 0).isNone = true := by decide +kernel

/-- Refutes O19: its clause on a loop closed at once has every other loop keep its draining mark with a map-out waiting for its turn as
well, but the frame given back lets that map-out begin (R251), and what it loses can end the last sequence of another loop that
drains. -/
theorem not_loopsCancelAndClose : ¬ Obligations.LoopsCancelAndClose := by
  intro h
  obtain ⟨-, hclose⟩ := h
  obtain ⟨-, hopen⟩ := hclose 0 0 0 closeOne closeFreesFrame (by decide +kernel) (by decide +kernel)
  obtain ⟨hempty, -⟩ := hopen openLoopOne (by decide +kernel) (by decide +kernel)
  obtain ⟨t, ht, -, -, hothers⟩ := hempty (by decide +kernel) (by decide)
  obtain rfl : opLoopClose 0 0 0 closeFreesFrame = t := Host.Outcome.next.inj ht
  have hzero := hothers 0 (by decide +kernel)
  rw [Option.isNone_iff_eq_none.1 opLoopClose_closeFreesFrame] at hzero
  exact absurd hzero (by decide +kernel)

end Sys2Proof.Machine
end

section
/-! Refutation of O20: the boundary of a recorded replay loop whose command has lost its latch (R397). -/

namespace Sys2Proof.Machine

/-- A replay of one step whose window is empty, opened by the command at position 0 of queue 0. -/
def emptyReplay : Replay :=
  { records := [], queue := 0, pos := 0, first := 0, count := 1, map := [], result := pfLoc 0, diverged := none }

/-- A replay loop of context 0 whose next step is recorded. -/
def recordedReplay : Loop := { drainingLoop with draining := false, phase := .recorded, replay := some emptyReplay }

/-- The loop's OP_REPLAY_OPEN, ended by a reset while it ran (R397). -/
def abortedReplayOpen : Cmd :=
  { Cmd.fresh ⟨0, le 1 2 ++ le 1 0x17 ++ zeros 62, none, true⟩ with
    phase := .dispatched, running := true, latch := some ⟨.aborted, 0⟩ }

/-- Context 0 with that command and that loop. -/
def abortedReplay : State :=
  { State.reset with
    contexts := [(0, batCtx)]
    front := { State.reset.front with queues := [(0, { Queue.reset with state := .fetching, d := 1, f := 1, cmds := [abortedReplayOpen] })] }
    trestle := { State.reset.trestle with loops := [(0, recordedReplay)] } }

/-- The boundary ends the replay and closes its loop. -/
theorem stepBoundary_abortedReplay :
    (tget (stepBoundary 0 ⟨[], [], []⟩ abortedReplay).trestle.loops 0).isNone = true := by decide +kernel

/-- Refutes O20: its first clause leaves a recorded loop alone whether or not it is a replay, but a recorded replay loop whose command
has lost its latch is due (R397), and its boundary closes it. -/
theorem not_boundaryRecordsTheNextStep : ¬ Obligations.BoundaryRecordsTheNextStep := by
  intro h
  obtain ⟨halone, -⟩ := h 0 ⟨[], [], []⟩ recordedReplay abortedReplay (by decide +kernel)
  have heq : stepBoundary 0 ⟨[], [], []⟩ abortedReplay = abortedReplay := Host.Outcome.next.inj (halone (.inl rfl))
  have hgone := stepBoundary_abortedReplay
  rw [heq] at hgone
  exact absurd hgone (by decide +kernel)

end Sys2Proof.Machine
end

section
/-! Refutation of O21: a loop table that lists a loop of class RT twice, once recorded and once idle. -/

namespace Sys2Proof.Machine

/-- A context of class RT. -/
def rtCtx : Context := { batCtx with rcd := { batCtx.rcd with cls := .rt } }

/-- The loop of context 0 whose boundary is due. -/
def wokenLoop : Loop := { drainingLoop with draining := false, woken := true }

/-- The idle loop of the RT context. -/
def rtLoop : Loop := { drainingLoop with draining := false, ctx := 1 }

/-- A sequence of that loop, WAITING, whose cancel is pending; it holds no page. -/
def cancelledSeq : Seq := { lastSeq with loopId := 2, ctx := 1, cancel := true, root := none, rootCount := 0, rootOwn := false }

/-- Loop 1 is due; loop 2, of class RT, is listed twice, first idle and then recorded. -/
def rtListedTwice : State :=
  { State.reset with
    contexts := [(0, batCtx), (1, rtCtx)]
    trestle := { State.reset.trestle with
      loops := [(1, wokenLoop), (2, rtLoop), (2, { rtLoop with phase := .recorded })], seqs := [(0, cancelledSeq)] } }

/-- Loop 2 counts as recorded as the boundary of loop 1 begins and as idle at its end, so its pending cancel takes effect (R205). -/
theorem stepBoundary_rtListedTwice :
    (tget (stepBoundary 1 ⟨[], [], []⟩ rtListedTwice).trestle.seqs 0).isNone = true := by decide +kernel

/-- Refutes O21: the loop table is not required to list a loop once, so a boundary can take a loop of class RT for one whose record it
has just emptied, and end its cancelled sequence. -/
theorem not_boundarySparesRunningAndRt : ¬ Obligations.BoundarySparesRunningAndRt := by
  intro h
  obtain ⟨t, y, ht, hy, -⟩ := h 1 ⟨[], [], []⟩ wokenLoop 0 cancelledSeq rtLoop rtListedTwice (by decide +kernel) rfl rfl
    (by decide +kernel) (by decide) (by decide +kernel) (.inl (by decide +kernel)) (by simp [wokenLoop, drainingLoop]) (by decide +kernel)
  obtain rfl : stepBoundary 1 ⟨[], [], []⟩ rtListedTwice = t := Host.Outcome.next.inj ht
  have hnone := stepBoundary_rtListedTwice
  simp [hy] at hnone

end Sys2Proof.Machine
end

section
/-! Settling O22: what stage 1 of a boundary does to the sequence of one sampled entry (R186). -/

namespace Sys2Proof.Machine

/-! ### The sequence under the operations of stage 1 -/

theorem modSeq_seq {s : State} {i : Nat} {q : Seq} (f : Seq → Seq) (h : tget s.trestle.seqs i = some q) :
    tget (s.modSeq i f).trestle.seqs i = some (f q) := by
  simp [State.modSeq, tget_tupd, h]

@[simp] theorem unref_trestle (key : Nat) (s : State) : (unref key s).trestle = s.trestle :=
  (unref_within key (.refl _ s) (.refl _)).same .trestle (by decide)

/-- Of the sequence itself, dropping the prompt changes only the reference it holds. -/
theorem dropPrompt_seq {s : State} {i : Nat} {q : Seq} (h : tget s.trestle.seqs i = some q) :
    ∃ key, tget (dropPrompt i s).trestle.seqs i = some { q with promptKey := key } := by
  by_cases hk : q.promptKey = 0
  · exact ⟨q.promptKey, by simp only [dropPrompt, h, if_pos hk]⟩
  · exact ⟨0, by simp [dropPrompt, h, hk, modSeq_seq]⟩

theorem deliver_seq {s : State} {i : Nat} {z : Seq} (q : Seq) (lp : Loop) (tok : Nat) (h : tget s.trestle.seqs i = some z) :
    tget (deliver i q lp tok s).trestle.seqs i = some { z with produced := z.produced + 1, lastToken := tok } := by
  refine modSeq_seq _ ?_
  split
  · exact h
  · simpa using h

/-- The key/value state of an entry's tokens is stored, and with the last prefill step the prompt is dropped. -/
def storeEntry (e : BEntry) (s : State) : State :=
  if e.phase = 1 then dropPrompt e.seqIdx (s.modSeq e.seqIdx (Seq.stored e)) else s.modSeq e.seqIdx (Seq.stored e)

theorem storeEntry_seq {e : BEntry} {s : State} {x : Seq} (h : tget s.trestle.seqs e.seqIdx = some x) :
    ∃ key, tget (storeEntry e s).trestle.seqs e.seqIdx = some { Seq.stored e x with promptKey := key } := by
  have hs := modSeq_seq (Seq.stored e) h
  by_cases he : e.phase = 1
  · simpa only [storeEntry, if_pos he] using dropPrompt_seq hs
  · exact ⟨x.promptKey, by rw [storeEntry, if_neg he]; exact hs⟩

/-- Stage 1 on a sampled entry whose sequence has no verdict yet. -/
theorem collectOne_sampled {lp : Loop} {e : BEntry} {x : Seq} {s : State} (i : Nat) (h : tget s.trestle.seqs e.seqIdx = some x)
    (hid : x.seqId = e.seqId) (hs : e.sample = true) (hv : x.verdict = none) :
    (collectOne lp e i s).1 =
      if (resultOf lp i s).2.1 = true then
        (deliver e.seqIdx x lp (resultOf lp i s).1 (storeEntry e s)).modSeq e.seqIdx
          (Seq.collected (verdictOf x (resultOf lp i s).1 (resultOf lp i s).2.2))
      else (storeEntry e s).modSeq e.seqIdx (fun q => { q with verdict := some (8, 0xFF) }) := by
  by_cases hr : (resultOf lp i s).2.1 = true <;> simp [collectOne, storeEntry, h, hid, hs, hv, hr]

/-! ### The verdict -/

theorem verdictOf_stop {q : Seq} {tok n : Nat} (stop : Bool) (h : q.adm.stops.findIdx? (· == tok) = some n) :
    verdictOf q tok stop = some (1, n) := by
  simp [verdictOf, h]

theorem verdictOf_noStop {q : Seq} {tok : Nat} (stop : Bool) (h : tok ∉ q.adm.stops) :
    verdictOf q tok stop = if stop = true then some (2, 0xFF) else if q.adm.maxNew ≤ q.produced + 1 then some (3, 0xFF) else none := by
  have : q.adm.stops.findIdx? (· == tok) = none := by
    rw [List.findIdx?_eq_none_iff]
    exact fun y hy => beq_eq_false_iff_ne.2 fun he => h (he ▸ hy)
  simp [verdictOf, this]

theorem collected_noVerdict_state (q : Seq) : (Seq.collected none q).state = if q.parked then q.state else .decode := by
  unfold Seq.collected
  cases q.parked <;> rfl

/-- Settles O22: an invalid result gives the verdict at once; a valid one is delivered and judged by verdictOf, whose cases are the
order of R186. -/
theorem resultsAreJudged : Obligations.ResultsAreJudged := by
  intro lp e i x s hx hid hs hv r y
  obtain ⟨key, hst⟩ := storeEntry_seq (e := e) hx
  have hc := collectOne_sampled (lp := lp) i hx hid hs hv
  refine ⟨fun hr => ?_, fun hr => ?_⟩
  · rw [show y = _ from congrArg (fun t : State => tget t.trestle.seqs e.seqIdx) (hc.trans (if_neg (Bool.eq_false_iff.1 hr)))]
    rw [modSeq_seq _ hst]
    rfl
  · have hy : y = some (Seq.collected (verdictOf x r.1 r.2.2)
        { Seq.stored e x with promptKey := key, produced := x.produced + 1, lastToken := r.1 }) := by
      rw [show y = _ from congrArg (fun t : State => tget t.trestle.seqs e.seqIdx) (hc.trans (if_pos hr))]
      exact modSeq_seq _ (deliver_seq x lp r.1 hst)
    rw [hy]
    refine ⟨rfl, rfl, fun n hn => by simp [verdictOf_stop _ hn, Seq.collected], fun hno => ⟨fun hp => ?_, fun hp hm => ?_, fun hp hm => ?_⟩⟩
    · simp [verdictOf_noStop _ hno, hp, Seq.collected]
    · simp [verdictOf_noStop _ hno, hp, hm, Seq.collected]
    · have hnone : verdictOf x r.1 r.2.2 = none := by simp [verdictOf_noStop _ hno, hp, Nat.not_le.2 hm]
      rw [hnone]
      exact ⟨rfl, congrArg some (collected_noVerdict_state _)⟩

end Sys2Proof.Machine
end

section
/-! Refutation of O23: the number of the residency that a STEP_LAUNCH saves is the one that the next placement takes. -/

namespace Sys2Proof.Machine

/-- A recorded loop of context 0, whose boundary sampled shed level 4. -/
def shedLoop : Loop :=
  { drainingLoop with draining := false, phase := .recorded, sampled := { drainingLoop.sampled with level := 4 } }

/-- The loop is about to launch on bench 0, which is out of service until its residency is saved; a job of context 1 waits, and the
number of the loop's residency is the one the next placement takes. -/
def takenNumber : State :=
  { State.reset with
    integ := { State.reset.integ with slices := 1 }
    watch := { State.reset.watch with hubReady := true }
    tenants := [(0, eightBenchTenant)]
    contexts := [(0, batCtx), (1, batCtx)]
    trestle := { State.reset.trestle with loops := [(0, shedLoop)] }
    wrd := { State.reset.wrd with enable := true, built := true, pageLog2 := 18, fastGib := 4, slowGib := 4, hkBase := 0xC0000000 }
    sched := { State.reset.sched with
      jobs := [(0, { ctx := 1, owner := .graph, cmd := none, count := 1, since := 0 })], nextJob := 1
      residencies := [(0, { resOf (.loop 0) [0] false none with ctx := 0 })], nextRes := 0
      benches := [(0, { state := .out, res := some 0, claim := none })] } }

/-- The save that the launch orders is possible. -/
theorem saveRes_takenNumber : (saveRes 0 (passAt (some 0) takenNumber)).isSome = true := by decide +kernel

/-- The placement that follows the save takes the number of the loop's residency. -/
theorem stepLaunch_takenNumber :
    (tget (stepLaunch 0 takenNumber).sched.residencies 0).map (·.moving) = some false := by decide +kernel

/-- Refutes O23: the residency table may hold a residency under nextRes, so the decision pass that follows the save of the loop may place
a waiting job under the number of the residency that moves. -/
theorem not_stepLaunches : ¬ Obligations.StepLaunches := by
  intro h
  obtain ⟨-, -, -, hrun⟩ := h 0 shedLoop takenNumber (by decide +kernel) rfl (by decide +kernel)
  obtain ⟨w, hw⟩ := Option.isSome_iff_exists.1 saveRes_takenNumber
  obtain ⟨hsave, -⟩ := hrun 0 { resOf (.loop 0) [0] false none with ctx := 0 } { resOf (.loop 0) [0] false none with ctx := 0 }
    (by decide +kernel) (by decide +kernel) (by decide +kernel) rfl rfl rfl (by decide +kernel) rfl (by decide)
  obtain ⟨t, lp', ht, -, -, -, -, hmoves⟩ := hsave w (by decide +kernel) hw
  obtain rfl : stepLaunch 0 takenNumber = t := Host.Outcome.next.inj ht
  have hmoving := stepLaunch_takenNumber
  obtain ⟨z, hz, hzm⟩ := Option.map_eq_some_iff.1 hmoves
  simp only [hz, Option.map_some, Option.some.injEq] at hmoving
  simp [hmoving] at hzm

end Sys2Proof.Machine
end

section
/-! Refutation of O32: a background demotion (R244) in a state with a fifth page mover. -/

namespace Sys2Proof.Machine

/-- A page mover with a byte to copy. -/
def busyMover : Mover :=
  { Mover.reset with jobs := [{ id := 0, mover := 0, kind := .copy 0 0 0 (pfLoc 0) (pfLoc 0), total := 1, done := 0, background := false,
                                stopped := false, ctx := none, tenant := none, key := none, work := none }] }

/-- A sequence of a loop of context 0 holds frames 5 and 8, and frame 5 is cold (R241). Frame 20000 of the slow tier needs no zeroing.
Four page movers are busy, and a fifth, which R505 does not have and no premise shuts out, is idle. -/
def fifthMover : State :=
  { State.reset with
    contexts := [(0, batCtx)]
    trestle := { State.reset.trestle with loops := [(0, drainingLoop)], seqs := [(0, { lastSeq with rootCount := 2 })] }
    wrd := { State.reset.wrd with
      enable := true, built := true, pageLog2 := 18, fastGib := 4, slowGib := 4, hkBase := 0xC0000000, demoteBelow := 20000
      frames := [(5, Frame.kv), (8, { Frame.kv with accessed := true }), (20000, Frame.of .free false)]
      leaves := [(0, { pred := none, predValid := 0, used := 2, chains := 1, entries := [⟨true, false, 5⟩, ⟨true, false, 8⟩] })]
      movers := List.replicate 4 busyMover ++ [Mover.reset], nextJob := 1 } }

/-- The demotion is a job of the mover with no byte outstanding (R505). -/
theorem backgroundDemote_ids : (backgroundDemote 5 20000 fifthMover).allJobs.map (fun j => (j.id, j.mover)) =
    [(0, 0), (0, 0), (0, 0), (0, 0), (1, 4)] := by
  decide +kernel

/-- Refutes O32: it has the move of a demotion lie on one of the movers 0 to 3 whatever the list of movers, but a job goes to the mover
with the fewest bytes outstanding (R505), the fifth here. -/
theorem not_wardrobeTendsFrames : ¬ Obligations.WardrobeTendsFrames := by
  intro h
  obtain ⟨-, -, -, hdemote, -⟩ := h
  obtain ⟨-, hmoves⟩ := hdemote 5 20000 fifthMover
  obtain ⟨t, ht, ⟨-, -, -, -, ⟨i, hi, hjob⟩, -⟩, -⟩ := hmoves (by decide +kernel) (by decide +kernel) (by decide +kernel) (by decide +kernel)
    (by decide +kernel) rfl (by decide)
  obtain rfl : backgroundDemote 5 20000 fifthMover = t := Host.Outcome.next.inj ht
  have hplace := List.mem_map_of_mem (f := fun j : MoveJob => (j.id, j.mover)) hjob
  rw [backgroundDemote_ids] at hplace
  have hmover : ((1, i) : Nat × Nat) ∈ [(0, 0), (0, 0), (0, 0), (0, 0), (1, 4)] := hplace
  simp at hmover
  omega

end Sys2Proof.Machine
end

section
/-! Refutation of O33: the source of the EV_CAPACITY_CHANGE of a fast channel is its slice (R249, R405). -/

namespace Sys2Proof.Machine

/-- The request for channel 9 of the fast tier, which slice 1 serves (R251): unit 2. -/
def channelNine : Mapout :=
  { tier := .fast, channel := 9, lost := false, units := [2], source := 0, removed := 0, invalidated := 0, outcome := 0, tenant := 0xFFFF }

/-- MC1 serves that request, and no frame is in use. -/
def mapoutOfNine : State :=
  { State.reset with
    wrd := { State.reset.wrd with enable := true, built := true, pageLog2 := 18, fastGib := 4, slowGib := 4, hkBase := 0xC0000000 }
    mgmt := { State.reset.mgmt with cores := List.replicate 2 { Core.reset with state := .running, inService := [.mapout channelNine] } } }

/-- Every event that the map-out raises names slice 1. -/
theorem mapoutRequest_sources : (mapoutRequest .fast 9 false [2] 0 mapoutOfNine).jnl.events.map (fun e => (e.srcKind, e.srcNum)) = [(1, 1), (1, 1)] := by
  decide +kernel

/-- Refutes O33: it has the event of a map-out of a fast channel name the channel's number, but the source of an event is the slice
(R405), and slice 1 serves channel 9. -/
theorem not_channelsAreMappedOut : ¬ Obligations.ChannelsAreMappedOut := by
  intro h
  obtain ⟨hrequest, -⟩ := h
  obtain ⟨-, -, hends⟩ := hrequest .fast 9 0 false [2] mapoutOfNine
  obtain ⟨t, ht, -, -, -, -, -, -, -, ⟨e, he, -, -, hnum⟩, -⟩ := hends (by decide +kernel) rfl rfl (by decide +kernel) (by decide +kernel)
    rfl (by decide +kernel) rfl (by decide) (by decide) (by decide +kernel)
  obtain rfl : mapoutRequest .fast 9 false [2] 0 mapoutOfNine = t := Host.Outcome.next.inj ht
  have hsrc := List.mem_map_of_mem (f := fun e => (e.srcKind, e.srcNum)) he
  rw [mapoutRequest_sources, hnum] at hsrc
  simp at hsrc

end Sys2Proof.Machine
end

section
/-! SUPPORT for O30 and O31. Room for a model in the hot set (R256), the frames taken for it (R231, R254), and the job that fills it
(R258, R505). -/

namespace Sys2Proof.Machine

variable {k n f g : Nat} {fs : List Nat} {kind : MoveKind} {total : Nat} {bg : Bool} {who : Payer} {tn : Option Nat} {x : Frame} {m : Model}
  {s t : State}

/-! ### Room (R256) -/

theorem evictNext_none (h : ∀ e ∈ s.wrd.models, evictable e.2 s = false) (req n : Nat) : evictNext req n s = none := by
  have hnone : s.wrd.models.filter (fun e => evictable e.2 s) = [] :=
    List.filter_eq_nil_iff.2 fun e he => Bool.eq_false_iff.1 (h e he)
  simp only [evictNext, hnone, List.filter_nil, List.foldl_nil, Option.map_none]

/-- The hot set may hold n frames more, and as many fast frames are free (R256). -/
abbrev HotRoom (n : Nat) (s : State) : Prop := hotFrames s + n ≤ s.wrd.maxFrames ∧ n ≤ fastFreeFrames s

theorem makeRoom_ready (h : HotRoom n s) (req fuel : Nat) : makeRoom req n (fuel + 1) s = (s, true) := if_pos h

theorem makeRoom_fails (h : ¬HotRoom n s) (hev : ∀ e ∈ s.wrd.models, evictable e.2 s = false) (req fuel : Nat) :
    makeRoom req n (fuel + 1) s = (s, false) := by
  rw [makeRoom, if_neg h, evictNext_none hev]

theorem pickModelFrames_good (h : GoodFrames n fs s) : pickModelFrames n fs s = fs := by
  obtain ⟨hlen, hnodup, hfree, hclean⟩ := h
  have hall : fs.all (fun x => isFree x s && isFast x s) = true :=
    List.all_eq_true.2 fun f hf => Bool.and_eq_true_iff.2 (hfree f hf)
  simp only [pickModelFrames, hlen, hnodup, hall, hclean, decide_true, Bool.and_self, if_true]

/-! ### A job is given to a mover (R505) -/

/-- Of Wardrobe, a job that is given changes the movers and the count of jobs. -/
theorem startJob_wrd (kind : MoveKind) (total : Nat) (bg : Bool) (who : Payer) (s : State) :
    (startJob kind total bg who s).wrd =
      { s.wrd with nextJob := s.wrd.nextJob + 1, movers := (startJob kind total bg who s).wrd.movers } := by
  cases bg <;> rfl

theorem startJob_frames : (startJob kind total bg who s).wrd.frames = s.wrd.frames :=
  (congrArg Wardrobe.frames (startJob_wrd kind total bg who s) :)

theorem startJob_models : (startJob kind total bg who s).wrd.models = s.wrd.models :=
  (congrArg Wardrobe.models (startJob_wrd kind total bg who s) :)

theorem startJob_nextModel : (startJob kind total bg who s).wrd.nextModel = s.wrd.nextModel :=
  (congrArg Wardrobe.nextModel (startJob_wrd kind total bg who s) :)

/-- The movers before a job joins them: background jobs that a foreground job waits for have come forward (R232). -/
def readied (kind : MoveKind) (bg : Bool) (who : Payer) (s : State) : State := if bg then s else hurry kind who.work s

/-- The mover that a job is given to (R505). -/
def moverFor (s : State) : Nat := ((leastMover 0 s.wrd.movers).map (·.1)).getD 0

/-- A job as it is given to a mover. -/
def MoveJob.start (kind : MoveKind) (total : Nat) (bg : Bool) (who : Payer) (mv : Nat) (s : State) : MoveJob :=
  { id := s.wrd.nextJob, mover := mv, kind := kind, total := total, done := 0, background := bg, stopped := false, ctx := who.ctx,
    tenant := who.tenant, key := who.key, work := who.work }

theorem startJob_movers : (startJob kind total bg who s).wrd.movers =
    (readied kind bg who s).wrd.movers.modify (moverFor (readied kind bg who s)) (fun x =>
      { x with jobs := x.jobs ++ [.start kind total bg who (moverFor (readied kind bg who s)) s] }) := by
  cases bg <;> rfl

theorem readied_movers_length : (readied kind bg who s).wrd.movers.length = s.wrd.movers.length := by
  cases bg
  · exact List.length_map ..
  · rfl

theorem startJob_movers_length : (startJob kind total bg who s).wrd.movers.length = s.wrd.movers.length := by
  rw [startJob_movers, List.length_modify, readied_movers_length]

/-- A job that comes forward keeps what it does and whether it has been told to stop. -/
theorem readied_job {j : MoveJob} (h : j ∈ (readied kind bg who s).allJobs) :
    ∃ i ∈ s.allJobs, i.kind = j.kind ∧ i.stopped = j.stopped := by
  cases bg with
  | true => exact ⟨j, h, rfl, rfl⟩
  | false =>
    simp only [readied, hurry, State.allJobs, Bool.false_eq_true, if_false, List.map_map, List.mem_flatten, List.mem_map] at h ⊢
    obtain ⟨_, ⟨y, hy, rfl⟩, hj⟩ := h
    obtain ⟨i, hi, rfl⟩ := List.mem_map.1 hj
    refine ⟨i, ⟨_, ⟨y, hy, rfl⟩, hi⟩, ?_⟩
    split
    · exact ⟨rfl, rfl⟩
    · exact ⟨rfl, rfl⟩

/-- The jobs once one is given: that one, and those of before. -/
theorem startJob_job {j : MoveJob} (h : j ∈ (startJob kind total bg who s).allJobs) :
    j.kind = kind ∨ ∃ i ∈ s.allJobs, i.kind = j.kind ∧ i.stopped = j.stopped := by
  obtain ⟨_, hl, hj⟩ := List.mem_flatten.1 h
  obtain ⟨y, hy, rfl⟩ := List.mem_map.1 hl
  obtain ⟨i, hi⟩ := List.mem_iff_getElem?.1 hy
  rw [startJob_movers, List.getElem?_modify] at hi
  obtain ⟨z, hz, hzy⟩ := Option.map_eq_some_iff.1 hi
  have hold : ∀ j ∈ z.jobs, ∃ i ∈ s.allJobs, i.kind = j.kind ∧ i.stopped = j.stopped := fun j hj =>
    readied_job (List.mem_flatten.2 ⟨_, List.mem_map.2 ⟨z, List.mem_of_getElem? hz, rfl⟩, hj⟩)
  split at hzy
  · subst hzy
    rcases List.mem_append.1 hj with hj | hj
    · exact .inr (hold j hj)
    · exact .inl (congrArg MoveJob.kind (List.mem_singleton.1 hj))
  · exact .inr (hold j (hzy ▸ hj))

theorem moverFor_lt (h : s.wrd.movers ≠ []) : moverFor s < s.wrd.movers.length := by
  cases hl : leastMover 0 s.wrd.movers with
  | none => exact absurd (leastMover_none hl) h
  | some r =>
    obtain ⟨i, b⟩ := r
    obtain ⟨d, y, hd, hy, -, -⟩ := leastMover_spec hl
    obtain ⟨hlt, -⟩ := List.getElem?_eq_some_iff.1 hy
    simp only [moverFor, hl, Option.map_some, Option.getD_some]
    omega

/-- A job that is given to one of the movers. -/
theorem start_mem_startJob (h : s.wrd.movers ≠ []) :
    MoveJob.start kind total bg who (moverFor (readied kind bg who s)) s ∈ (startJob kind total bg who s).allJobs := by
  have hne : (readied kind bg who s).wrd.movers ≠ [] := fun e =>
    h (List.length_eq_zero_iff.1 (readied_movers_length.symm.trans (congrArg List.length e)))
  obtain ⟨y, hy⟩ : ∃ y, (readied kind bg who s).wrd.movers[moverFor (readied kind bg who s)]? = some y :=
    ⟨_, List.getElem?_eq_getElem (moverFor_lt hne)⟩
  have hin := List.mem_of_getElem? (startJob_movers (kind := kind) (total := total) (bg := bg) (who := who) (s := s) ▸
    (List.getElem?_modify_eq _ _ _).trans (congrArg _ hy))
  exact List.mem_flatten.2 ⟨_, List.mem_map.2 ⟨_, hin, rfl⟩, List.mem_append_right _ (List.mem_singleton_self _)⟩

/-! ### A frame that is taken (R231) -/

/-- A job that has not been told to stop fills a model. -/
def Filling (k : Nat) (s : State) : Prop := ∃ j ∈ s.allJobs, j.kind.fills k = true ∧ j.stopped = false

theorem startJob_filling (hk : kind.fills k = false) (h : Filling k (startJob kind total bg who s)) : Filling k s := by
  obtain ⟨j, hj, hfills, hstop⟩ := h
  rcases startJob_job hj with rfl | ⟨i, hi, hkind, hst⟩
  · exact absurd hfills (Bool.eq_false_iff.1 hk)
  · exact ⟨i, hi, by rw [hkind]; exact hfills, hst.trans hstop⟩

theorem allocFrame_eq : allocFrame tn f x s = setFrame f x s ∨
    allocFrame tn f x s = startJob (.zero f) (pageBytes s) false (Payer.workOf tn) (setFrame f x s) := by
  unfold allocFrame
  dsimp only
  split
  · exact .inr rfl
  · exact .inl rfl

/-- The frames of a model are taken for a tenant, one after another (R254). -/
def takeFrames (tn : Option Nat) (fs : List Nat) (s : State) : State := fs.foldl (fun s f => allocFrame tn f (Frame.of .model false) s) s

theorem takeModel_eq (k : Nat) (fs : List Nat) (s : State) :
    takeModel k fs s = (takeFrames ((tget s.wrd.models k).map (·.tenant)) fs s).modModel k (fun m => { m with frames := fs }) := rfl

theorem takeFrames_induction {p : State → Prop} (hp : ∀ f s, p s → p (allocFrame tn f (Frame.of .model false) s)) (h : p s) :
    p (takeFrames tn fs s) := by
  induction fs generalizing s with
  | nil => exact h
  | cons f fs ih => exact ih (hp f s h)

/-- What is taken with frames is neither a model nor a mover, and no job that fills a model. -/
theorem takeFrames_keeps (tn : Option Nat) (fs : List Nat) (s : State) :
    (takeFrames tn fs s).wrd.models = s.wrd.models ∧ (takeFrames tn fs s).wrd.nextModel = s.wrd.nextModel ∧
    (takeFrames tn fs s).wrd.movers.length = s.wrd.movers.length ∧ ∀ k, Filling k (takeFrames tn fs s) → Filling k s := by
  refine takeFrames_induction (p := fun t => t.wrd.models = s.wrd.models ∧ t.wrd.nextModel = s.wrd.nextModel ∧
    t.wrd.movers.length = s.wrd.movers.length ∧ ∀ k, Filling k t → Filling k s) (fun f t ht => ?_) ⟨rfl, rfl, rfl, fun _ => id⟩
  obtain ⟨hmodels, hnext, hmovers, hfill⟩ := ht
  rcases allocFrame_eq (tn := tn) (f := f) (x := Frame.of .model false) (s := t) with he | he
  · rw [he]; exact ⟨hmodels, hnext, hmovers, hfill⟩
  · rw [he]
    exact ⟨startJob_models.trans hmodels, startJob_nextModel.trans hnext, startJob_movers_length.trans hmovers,
      fun k hk => hfill k (startJob_filling (s := setFrame f _ t) rfl hk)⟩

theorem allocFrame_frames : (allocFrame tn f x s).wrd.frames = tset s.wrd.frames f x := by
  rcases allocFrame_eq (tn := tn) (f := f) (x := x) (s := s) with he | he
  · rw [he]; rfl
  · rw [he, startJob_frames]; rfl

theorem takeFrames_frame (tn : Option Nat) (fs : List Nat) (g : Nat) (s : State) :
    tget (takeFrames tn fs s).wrd.frames g = if g ∈ fs then some (Frame.of .model false) else tget s.wrd.frames g := by
  induction fs generalizing s with
  | nil => simp [takeFrames]
  | cons f fs ih =>
    refine (ih (s := allocFrame tn f (Frame.of .model false) s)).trans ?_
    rw [allocFrame_frames, tget_tset]
    by_cases hg : g ∈ fs
    · rw [if_pos hg, if_pos (List.mem_cons_of_mem f hg)]
    · rw [if_neg hg]
      exact ite_congr (by simp [hg]) (fun _ => rfl) (fun _ => rfl)

/-! ### The frames of a model (R254) -/

theorem modModel_model (k i : Nat) (h : Model → Model) (s : State) :
    tget (s.modModel k h).wrd.models i = if i = k then (tget s.wrd.models k).map h else tget s.wrd.models i := tget_tupd ..

/-- A model takes frames. -/
theorem takeModel_takes (hm : tget s.wrd.models k = some m) (fs : List Nat) :
    let t := takeModel k fs s
    tget t.wrd.models k = some { m with frames := fs } ∧ (∀ i, i ≠ k → tget t.wrd.models i = tget s.wrd.models i) ∧
    (∀ f ∈ fs, tget t.wrd.frames f = some (Frame.of .model false)) ∧ (∀ f, f ∉ fs → tget t.wrd.frames f = tget s.wrd.frames f) ∧
    t.wrd.nextModel = s.wrd.nextModel ∧ t.wrd.movers.length = s.wrd.movers.length ∧ (Filling k t → Filling k s) := by
  obtain ⟨hmodels, hnext, hmovers, hfill⟩ := takeFrames_keeps ((tget s.wrd.models k).map (·.tenant)) fs s
  dsimp only
  rw [takeModel_eq]
  refine ⟨?_, fun i hi => ?_, fun f hf => ?_, fun f hf => ?_, hnext, hmovers, hfill k⟩
  · rw [modModel_model, if_pos rfl, hmodels, hm, Option.map_some]
  · rw [modModel_model, if_neg hi, hmodels]
  · exact (takeFrames_frame _ fs f s).trans (if_pos hf)
  · exact (takeFrames_frame _ fs f s).trans (if_neg hf)

/-- A model that no job fills gets one (R258). -/
theorem fillModel_starts (hm : tget s.wrd.models k = some m) (h : ¬Filling k s) :
    fillModel k s = startJob (.model k m.src m.frames) m.length false (payModel m (m.state == .miss)) s := by
  have hany : s.allJobs.any (fun j => j.kind.fills k && !j.stopped) = false :=
    List.any_eq_false.2 fun j hj he => h ⟨j, hj, by simpa using he⟩
  simp only [fillModel, hm, hany, Bool.false_eq_true, if_false]

end Sys2Proof.Machine
end

section
/-! O31: the service of a miss, and its retry, case by case. -/

namespace Sys2Proof.Machine

variable {k : Nat} {fs : List Nat} {m : Model} {s t : State}

theorem missFill_unserved (h : hasService 1 (.modelLoad k) s = false) : missFill k fs s = s := by
  simp only [missFill, h, Bool.not_false, if_true]

theorem missFill_gone (h : hasService 1 (.modelLoad k) s = true) (hm : tget s.wrd.models k = none) :
    missFill k fs s = doneWork 1 (.modelLoad k) s := by
  simp only [missFill, h, Bool.not_true, Bool.false_eq_true, if_false, hm]

/-- What the service of a miss does once room is asked for (R256). -/
def missGiven (k : Nat) (m : Model) (fs : List Nat) : State × Bool → State
  | (u, true) => fillModel k (takeModel k (pickModelFrames m.count fs u) u)
  | (u, false) => u

/-- The service of a model of the directory (R256). -/
theorem missFill_model (h : hasService 1 (.modelLoad k) s = true) (hm : tget s.wrd.models k = some m) :
    missFill k fs s = if m.state = .miss ∧ m.frames = [] then missGiven k m fs (makeRoom m.tenant m.count (s.wrd.models.length + 1) s)
      else s := by
  unfold missFill
  rw [h, hm]
  rfl

theorem missFill_waits (h : hasService 1 (.modelLoad k) s = true) (hm : tget s.wrd.models k = some m) (hroom : ¬HotRoom m.count s)
    (hev : ∀ e ∈ s.wrd.models, evictable e.2 s = false) : missFill k fs s = s := by
  rw [missFill_model h hm, makeRoom_fails hroom hev, missGiven, ite_self]

theorem missFill_fills (h : hasService 1 (.modelLoad k) s = true) (hm : tget s.wrd.models k = some m) (hmiss : m.state = .miss)
    (hnone : m.frames = []) (hroom : HotRoom m.count s) (hfs : GoodFrames m.count fs s) :
    missFill k fs s = fillModel k (takeModel k fs s) := by
  rw [missFill_model h hm, if_pos ⟨hmiss, hnone⟩, makeRoom_ready hroom, missGiven, pickModelFrames_good hfs]

/-- Nothing is in service on a core that does not run. -/
theorem running_of_hasService {k : Nat} {w : Work} (h : hasService k w s = true) : (coreAt k s).state = .running := by
  obtain ⟨hrun, -⟩ := Bool.and_eq_true_iff.1 h
  exact beq_iff_eq.1 hrun

theorem coreAt_modCore {k : Nat} (g : Core → Core) (h : k < s.mgmt.cores.length) : coreAt k (s.modCore k g) = g (coreAt k s) := by
  simp [coreAt, State.modCore, h]

/-- A core that runs is one of the cores. -/
theorem core_inRange {k : Nat} (h : (coreAt k s).state = .running) : k < s.mgmt.cores.length := by
  by_contra hk
  rw [coreAt, List.getElem?_eq_none (not_lt.1 hk)] at h
  cases h

theorem doneWork_inService {k : Nat} {w : Work} (h : hasService k w s = true) :
    (coreAt k (doneWork k w s)).inService = (coreAt k s).inService.erase w :=
  congrArg Core.inService (coreAt_modCore _ (core_inRange (running_of_hasService h)))

/-- Settles O31: the service and the retry are one operation, whose cases are the clauses. -/
theorem missesAreServed : Obligations.MissesAreServed := by
  intro k fs c s hc
  have hexec : Machine.exec c s = .next (missFill k fs s) := by
    rcases hc with rfl | rfl
    · rfl
    · rfl
  rw [hexec]
  refine ⟨fun h => congrArg Host.Outcome.next (missFill_unserved h), fun h hm => ?_, fun x h hm => ⟨fun hx => ?_, fun hmiss hnone => ?_⟩⟩
  · rw [missFill_gone h hm]
    exact ⟨_, rfl, doneWork_inService h, (doneWork_within 1 _ (.refl [.mgmt] s) (.refl _)).onlyIn⟩
  · rw [missFill_model h hm, if_neg fun e => hx.elim (fun g => g e.1) fun g => g e.2]
  refine ⟨fun hroom hev => congrArg Host.Outcome.next (missFill_waits h hm hroom hev), fun hroom hfs hmv hstop => ?_⟩
  obtain ⟨hk, hothers, htaken, hleft, -, hlen, hfill⟩ := takeModel_takes hm fs
  have hidle : ¬Filling k (takeModel k fs s) := fun e => by
    obtain ⟨j, hj, hfills, hgo⟩ := hfill e
    exact absurd (hstop j hj hfills) (Bool.eq_false_iff.1 hgo)
  have hmovers : (takeModel k fs s).wrd.movers ≠ [] := fun e => hmv (List.length_eq_zero_iff.1 (hlen.symm.trans (congrArg List.length e)))
  have hwithin : Within [.wrd, .watch] s (fillModel k (takeModel k fs s)) :=
    fillModel_within k (takeModel_within k fs (.refl [.wrd, .watch] s) (.refl _)) (.refl _)
  rw [missFill_fills h hm hmiss hnone hroom hfs]
  rw [fillModel_starts hk hidle] at hwithin ⊢
  refine ⟨_, rfl, ?_, fun i hi => ?_, fun f hf => frameAt_of_some ?_, fun f hf => ?_, ⟨_, start_mem_startJob hmovers, rfl, rfl, ?_⟩, hwithin.onlyIn⟩
  · rw [startJob_models]; exact hk
  · rw [startJob_models]; exact hothers i hi
  · rw [startJob_frames]; exact htaken f hf
  · rw [startJob_frames]; exact hleft f hf
  · simp only [MoveJob.start, payModel, hmiss, beq_self_eq_true, if_true]

end Sys2Proof.Machine
end

section
/-! SUPPORT for O30. What the commands of models read once they have begun, and the entry of a model that is loaded, pinned, awaited or
given up (R253 to R257). -/

namespace Sys2Proof.Machine

variable {c q pos k id i op : Nat} {m : Cmd} {src : Loc} {st : ModelState} {fs : List Nat} {x : Model} {o : Obj} {s t : State}

/-! ### A command that has begun -/

theorem modelOf_begun (tn : Option Nat) (key : Nat) (s : State) : modelOf tn key (begun k pos s) = modelOf tn key s := by
  rw [begun_eq]; rfl

theorem tenantOf_begun (c : Nat) (s : State) : (begun k pos s).tenantOf c = s.tenantOf c := by
  rw [begun_eq]; rfl

theorem ctxSwap_begun (c : Nat) (s : State) : ctxSwap (begun k pos s) c = ctxSwap s c := by
  rw [begun_eq]; rfl

theorem modelRefusal_begun (c : Nat) (e : List Byte) (s : State) : modelRefusal c e (begun k pos s) = modelRefusal c e s := by
  rw [begun_eq]; rfl

theorem pinnedFrames_begun (id : Nat) (s : State) : pinnedFrames id (begun k pos s) = pinnedFrames id s := by
  rw [begun_eq]; rfl

theorem evictable_begun (x : Model) (s : State) : evictable x (begun k pos s) = evictable x s := by
  rw [begun_eq]; rfl

theorem pageBytes_begun (s : State) : pageBytes (begun k pos s) = pageBytes s := by
  rw [begun_eq]; rfl

theorem hotRoom_begun (n : Nat) (s : State) : HotRoom n (begun k pos s) ↔ HotRoom n s := by
  rw [begun_eq]; rfl

theorem goodFrames_begun (n : Nat) (fs : List Nat) (s : State) : GoodFrames n fs (begun k pos s) ↔ GoodFrames n fs s := by
  rw [begun_eq]; rfl

/-- A command that is refused as its executor begins on it touches no other queue. -/
theorem refused_answers (hs : starting k pos op s = some m) (st : Status) (aux : Nat) :
    ((finish k pos st aux (begun k pos s)).cmd k pos).map (·.latch) = some (some ⟨st, aux⟩) ∧
    OtherQueuesSame k s (finish k pos st aux (begun k pos s)) ∧ OnlyIn [.front, .chest, .jnl] s (finish k pos st aux (begun k pos s)) := by
  obtain ⟨hlatch, honly⟩ := finish_refused hs st aux
  exact ⟨hlatch, finish_others (begun_others k pos s), honly⟩

/-- A command that has begun stays as it is while the front end does. -/
theorem cmd_of_begun_front (hs : starting k pos op s = some m) (hf : t.front = (begun k pos s).front) :
    t.cmd k pos = some { m with started := true } := by
  obtain ⟨hb, -⟩ := begun_starting hs
  rw [State.cmd, hf]
  exact hb

/-- A command that ends with ST_OK after changes that leave the front end alone. -/
theorem finishOk_latch (hs : starting k pos op s = some m) (hf : t.front = (begun k pos s).front) :
    ((finishOk k pos t).cmd k pos).map (·.latch) = some (some ⟨.ok, 0⟩) := by
  obtain ⟨-, hl⟩ := begun_starting hs
  exact finish_latch (cmd_of_begun_front hs hf) hl

/-! ### The work of a core (R430) -/

theorem pushWork_mailbox (w : Work) (h : k < s.mgmt.cores.length) :
    (coreAt k (pushWork k w s)).mailbox = (coreAt k s).mailbox ++ [w] :=
  congrArg Core.mailbox (coreAt_modCore _ h)

/-- The item is the last of the core's mailbox where nothing but it has come since. -/
theorem pushWork_mailbox_of {u : State} (w : Work) (hu : u.mgmt = s.mgmt) (h : k < s.mgmt.cores.length) :
    (coreAt k (pushWork k w u)).mailbox = (coreAt k s).mailbox ++ [w] := by
  have hc : coreAt k u = coreAt k s := congrArg (fun g : Mgmt => (g.cores[k]?).getD Core.reset) hu
  rw [← hc]
  exact pushWork_mailbox w (by rw [hu]; exact h)

/-! ### OP_MODEL_LOAD (R254) -/

theorem modelRefusal_known (h : (modelOf (s.tenantOf c) (fld m.entry 16 8) s).isSome = true) :
    modelRefusal c m.entry s = some (.malformed, 16) := if_pos h

theorem modelRefusal_full (h : ¬(modelOf (s.tenantOf c) (fld m.entry 16 8) s).isSome = true) (hf : 4096 ≤ s.wrd.models.length) :
    modelRefusal c m.entry s = some (.noMemory, 1) := (if_neg h).trans (if_pos hf)

/-- The third check, of a model that is not there and has room in the directory (log 127). -/
theorem modelRefusal_room (h : ¬(modelOf (s.tenantOf c) (fld m.entry 16 8) s).isSome = true) (hf : ¬4096 ≤ s.wrd.models.length) :
    modelRefusal c m.entry s =
      if ctxSwap s c = false ∧ s.wrd.maxFrames < ceilDiv (fld m.entry 40 8) (pageBytes s) then some (.noMemory, 6) else none := by
  refine (if_neg h).trans ((if_neg hf).trans ?_)
  simp only [Bool.and_eq_true, Bool.not_eq_true', decide_eq_true_eq]

theorem opModelLoad_refused {r : Status × Nat} (hs : starting (qkey c q) pos 0x0C s = some m) (hr : modelRefusal c m.entry s = some r) :
    opModelLoad c q pos fs s = finish (qkey c q) pos r.1 r.2 (begun (qkey c q) pos s) := by
  simp only [opModelLoad, hs, modelRefusal_begun, hr]

/-- The entry of the directory that OP_MODEL_LOAD makes, without frames (R253, log 126). -/
def loadedModel (c q pos : Nat) (m : Cmd) (src : Loc) (st : ModelState) (s : State) : Model :=
  { tenant := (s.tenantOf c).getD 0, key := fld m.entry 16 8, state := st, frames := [],
    count := ceilDiv (fld m.entry 40 8) (pageBytes s), pins := 0, srcKey := objKey c (hIndex (fld m.entry 24 4)), src := src,
    srcOffset := fld m.entry 32 8, length := fld m.entry 40 8, ctx := c, lastUse := s.now,
    waiters := if st = .loading then [(c, q, pos)] else [], orphan := false }

/-- A model in the directory, entered by a command that has begun. -/
def modelEntered (c q pos : Nat) (m : Cmd) (src : Loc) (st : ModelState) (s : State) : State :=
  registerModel c q pos m src st (begun (qkey c q) pos s)

theorem modelEntered_wrd : (modelEntered c q pos m src st s).wrd =
    { s.wrd with nextModel := s.wrd.nextModel + 1, models := tset s.wrd.models s.wrd.nextModel (loadedModel c q pos m src st s) } := by
  rw [modelEntered, begun_eq]; rfl

theorem modelEntered_model (i : Nat) : tget (modelEntered c q pos m src st s).wrd.models i =
    if i = s.wrd.nextModel then some (loadedModel c q pos m src st s) else tget s.wrd.models i := by
  rw [modelEntered_wrd]; exact tget_tset ..

theorem modelEntered_front : (modelEntered c q pos m src st s).front = (begun (qkey c q) pos s).front := rfl

theorem modelEntered_mgmt : (modelEntered c q pos m src st s).mgmt = s.mgmt := by
  rw [modelEntered, begun_eq]; rfl

section
variable (hs : starting (qkey c q) pos 0x0C s = some m) (hr : modelRefusal c m.entry s = none)
  (hsrc : operandLoc (qkey c q) m 24 32 s = some src)
include hs hr hsrc

/-- The load of a swap-mode context is done at once. -/
theorem opModelLoad_swap (hswap : ctxSwap s c = true) :
    opModelLoad c q pos fs s = finishOk (qkey c q) pos (modelEntered c q pos m src .inPlace s) := by
  have ho := (operandLoc_of_objects (begun_objects (qkey c q) pos s) (k := qkey c q) (m := m) (hOff := 24) (oOff := 32)).trans hsrc
  simp only [opModelLoad, hs, modelRefusal_begun, hr, ho, ctxSwap_begun, hswap, if_true]
  rfl

/-- What a load does once room is asked for: it is refused, or the model takes frames and waits for MC1 (R254, R256). -/
def loadGiven (c q pos n id : Nat) (m : Cmd) (src : Loc) (fs : List Nat) : State × Bool → State
  | (u, false) => finish (qkey c q) pos .noMemory 6 u
  | (u, true) => pushWork 1 (.modelLoad id) (takeModel id (pickModelFrames n fs u) (registerModel c q pos m src .loading u))

/-- The load of another context asks for room (R256). -/
theorem opModelLoad_asks (hswap : ctxSwap s c = false) :
    opModelLoad c q pos fs s =
      loadGiven c q pos (ceilDiv (fld m.entry 40 8) (pageBytes s)) s.wrd.nextModel m src fs
        (makeRoom ((s.tenantOf c).getD 0) (ceilDiv (fld m.entry 40 8) (pageBytes s)) (s.wrd.models.length + 1) (begun (qkey c q) pos s)) := by
  have ho := (operandLoc_of_objects (begun_objects (qkey c q) pos s) (k := qkey c q) (m := m) (hOff := 24) (oOff := 32)).trans hsrc
  simp only [opModelLoad, hs, modelRefusal_begun, hr, ho, ctxSwap_begun, hswap, Bool.false_eq_true, if_false, tenantOf_begun, pageBytes_begun,
    begun_wrd]
  rfl

theorem opModelLoad_fails (hswap : ctxSwap s c = false) (hroom : ¬HotRoom (ceilDiv (fld m.entry 40 8) (pageBytes s)) s)
    (hev : ∀ e ∈ s.wrd.models, evictable e.2 s = false) :
    opModelLoad c q pos fs s = finish (qkey c q) pos .noMemory 6 (begun (qkey c q) pos s) := by
  have hev' : ∀ e ∈ (begun (qkey c q) pos s).wrd.models, evictable e.2 (begun (qkey c q) pos s) = false := fun e he => by
    rw [begun_wrd] at he
    rw [evictable_begun]
    exact hev e he
  rw [opModelLoad_asks hs hr hsrc hswap, makeRoom_fails (mt (hotRoom_begun _ _).1 hroom) hev', loadGiven]

theorem opModelLoad_loads (hswap : ctxSwap s c = false) (hroom : HotRoom (ceilDiv (fld m.entry 40 8) (pageBytes s)) s)
    (hfs : GoodFrames (ceilDiv (fld m.entry 40 8) (pageBytes s)) fs s) :
    opModelLoad c q pos fs s =
      pushWork 1 (.modelLoad s.wrd.nextModel) (takeModel s.wrd.nextModel fs (modelEntered c q pos m src .loading s)) := by
  rw [opModelLoad_asks hs hr hsrc hswap, makeRoom_ready ((hotRoom_begun _ _).2 hroom), loadGiven, pickModelFrames_good ((goodFrames_begun _ _ _).2 hfs)]
  rfl

end

/-! ### OP_MODEL_PIN (R255) -/

theorem opModelPin_unknown (hs : starting (qkey c q) pos 0x0D s = some m) (hm : modelOf (s.tenantOf c) (fld m.entry 16 8) s = none) :
    opModelPin c q pos s = finish (qkey c q) pos .stale 16 (begun (qkey c q) pos s) := by
  simp only [opModelPin, hs, tenantOf_begun, modelOf_begun, hm]

/-- A model with one pin more (R255). -/
def Model.pinned (x : Model) : Model := { x with pins := min 65535 (x.pins + 1) }

/-- A model that one command more waits for. -/
def Model.awaited (w : Nat × Nat × Nat) (x : Model) : Model := { x with waiters := x.waiters ++ [w] }

/-- The command has begun and its model has one pin more. -/
def pinTaken (k pos id : Nat) (s : State) : State := (begun k pos s).modModel id Model.pinned

/-- It waits for the model besides. -/
def pinWaits (c q pos id : Nat) (s : State) : State := (pinTaken (qkey c q) pos id s).modModel id (Model.awaited (c, q, pos))

theorem modModel_frames (i : Nat) (f : Model → Model) (s : State) : (s.modModel i f).wrd.frames = s.wrd.frames := rfl

theorem pinTaken_frames : (pinTaken k pos id s).wrd.frames = s.wrd.frames :=
  (modModel_frames ..).trans (congrArg Wardrobe.frames (begun_wrd k pos s))

theorem pinWaits_frames : (pinWaits c q pos id s).wrd.frames = s.wrd.frames := (modModel_frames ..).trans pinTaken_frames

theorem pinWaits_front : (pinWaits c q pos id s).front = (begun (qkey c q) pos s).front := (State.modModel_front ..).trans (State.modModel_front ..)

theorem pinTaken_model (hx : tget s.wrd.models id = some x) (i : Nat) :
    tget (pinTaken k pos id s).wrd.models i = if i = id then some x.pinned else tget s.wrd.models i := by
  rw [pinTaken, modModel_model, begun_wrd, hx, Option.map_some]

theorem pinWaits_model (hx : tget s.wrd.models id = some x) (i : Nat) :
    tget (pinWaits c q pos id s).wrd.models i = if i = id then some (x.pinned.awaited (c, q, pos)) else tget s.wrd.models i := by
  rw [pinWaits, modModel_model, pinTaken_model hx, pinTaken_model hx, if_pos rfl, Option.map_some]
  split
  · rfl
  · rfl

theorem pinTaken_within (k pos id : Nat) (s : State) : Within [.front, .wrd, .chest, .jnl] s (pinTaken k pos id s) :=
  State.modModel_within id _ (begun_within k pos (.refl _ s) (by simp [Covers])) (by simp [Covers])

theorem pinWaits_within (c q pos id : Nat) (s : State) : Within [.front, .wrd, .chest, .jnl] s (pinWaits c q pos id s) :=
  State.modModel_within id _ (pinTaken_within _ pos id s) (by simp [Covers])

theorem pinWaits_mgmt : (pinWaits c q pos id s).mgmt = s.mgmt := (pinWaits_within c q pos id s).same .mgmt (by decide)

/-- A pin of a model of the directory. -/
theorem opModelPin_model (hs : starting (qkey c q) pos 0x0D s = some m) (hm : modelOf (s.tenantOf c) (fld m.entry 16 8) s = some (id, x)) :
    opModelPin c q pos s =
      if x.state ≠ .inPlace ∧ s.wrd.maxFrames < 2 * pinnedFrames id s then finish (qkey c q) pos .noMemory 7 (begun (qkey c q) pos s)
      else if x.state = .resident ∨ x.state = .inPlace then finishOk (qkey c q) pos (pinTaken (qkey c q) pos id s)
      else demandModel id (pinWaits c q pos id s) := by
  simp only [opModelPin, hs, tenantOf_begun, modelOf_begun, hm, pinnedFrames_begun, begun_wrd]
  refine if_congr Iff.rfl rfl ?_
  cases hx : x.state <;> rfl

/-- A model that is not in the hot tier and is to be brought there (R256). -/
def Model.missed (x : Model) : Model := { x with state := .miss, frames := [] }

theorem demandModel_evicted (hx : tget s.wrd.models id = some x) (h : x.state = .evicted) :
    demandModel id s = pushWork 1 (.modelLoad id) (s.modModel id Model.missed) := by
  simp only [demandModel, hx, h, if_true]
  rfl

theorem demandModel_held (hx : tget s.wrd.models id = some x) (h : x.state ≠ .evicted) : demandModel id s = s := by
  simp only [demandModel, hx, h, if_false]

/-! ### OP_MODEL_UNPIN (R257) -/

theorem opModelUnpin_unknown (hs : starting (qkey c q) pos 0x0E s = some m) (hm : modelOf (s.tenantOf c) (fld m.entry 16 8) s = none) :
    opModelUnpin c q pos s = finish (qkey c q) pos .stale 16 (begun (qkey c q) pos s) := by
  simp only [opModelUnpin, hs, tenantOf_begun, modelOf_begun, hm]

/-- A model with one pin less, not below zero (R255). -/
def Model.unpinned (x : Model) : Model := { x with pins := x.pins - 1 }

/-- The model has lost the pin that a command gives back, and may go for it. -/
def pinGiven (k pos id : Nat) (s : State) : State := (begun k pos s).modModel id Model.unpinned

theorem opModelUnpin_model (hs : starting (qkey c q) pos 0x0E s = some m) (hm : modelOf (s.tenantOf c) (fld m.entry 16 8) s = some (id, x)) :
    opModelUnpin c q pos s = finishOk (qkey c q) pos (reapModel id (pinGiven (qkey c q) pos id s)) := by
  simp only [opModelUnpin, hs, tenantOf_begun, modelOf_begun, hm]
  rfl

theorem pinGiven_model (hx : tget s.wrd.models id = some x) (i : Nat) :
    tget (pinGiven k pos id s).wrd.models i = if i = id then some x.unpinned else tget s.wrd.models i := by
  rw [pinGiven, modModel_model, begun_wrd, hx, Option.map_some]

theorem pinGiven_objects : (pinGiven k pos id s).objects = s.objects := begun_objects k pos s

theorem pinGiven_modelInUse (y : Model) : modelInUse y (pinGiven k pos id s) = modelInUse y s := by
  rw [pinGiven, begun_eq]; rfl

/-- A model whose source object is there for others, and which no teardown has orphaned, stays. -/
theorem reapModel_stays (hx : tget s.wrd.models id = some x) (ho : tget s.objects x.srcKey = some o) (hf : o.freePending = false)
    (horphan : x.orphan = false) : reapModel id s = s := by
  simp only [reapModel, hx, ho, hf, horphan, Bool.or_self, Bool.false_and, Bool.false_eq_true, if_false]

/-- A model goes whose source object is freed, or whose context is, and that nothing uses or waits for (R257). -/
theorem reapModel_goes (hx : tget s.wrd.models id = some x) (ho : tget s.objects x.srcKey = some o)
    (hf : o.freePending = true ∨ x.orphan = true) (huse : modelInUse x s = false) (hw : x.waiters = []) :
    reapModel id s = removeModel id s := by
  have hgone : (o.freePending || x.orphan) = true := Bool.or_eq_true_iff.2 hf
  simp only [reapModel, hx, ho, hgone, huse, hw, Bool.not_false, List.isEmpty_nil, Bool.and_self, if_true]

theorem freeFrames_gone {f : Nat} (hf : f ∈ fs) (s : State) : tget (freeFrames fs s).wrd.frames f = none := by
  have hstays : ∀ (fs : List Nat) (s : State), tget s.wrd.frames f = none → tget (freeFrames fs s).wrd.frames f = none := by
    intro fs
    induction fs with
    | nil => exact fun _ h => h
    | cons g fs ih =>
      refine fun s h => ih (freeFrame g s) ((tget_tdel s.wrd.frames g f).trans ?_)
      split
      · rfl
      · exact h
  induction fs generalizing s with
  | nil => cases hf
  | cons g fs ih =>
    rcases List.mem_cons.1 hf with rfl | hf
    · exact hstays fs _ (tget_tdel_self s.wrd.frames f)
    · exact ih hf (freeFrame g s)

/-- A model that is removed leaves no entry and no frame. -/
theorem removeModel_removes (hx : tget s.wrd.models id = some x) :
    tget (removeModel id s).wrd.models id = none ∧ (∀ i, i ≠ id → tget (removeModel id s).wrd.models i = tget s.wrd.models i) ∧
    ∀ f ∈ x.frames, tget (removeModel id s).wrd.frames f = none := by
  simp only [removeModel, hx, unref_wrd, freeFrames_models]
  exact ⟨tget_tdel_self _ _, fun i hi => tget_tdel_ne _ hi, fun f hf => freeFrames_gone hf _⟩

end Sys2Proof.Machine
end

section
/-! SUPPORT for O30. What OP_MODEL_LOAD, OP_MODEL_PIN and OP_MODEL_UNPIN leave where they are not refused (R254 to R257). -/

namespace Sys2Proof.Machine

variable {c q pos id : Nat} {m : Cmd} {src : Loc} {fs : List Nat} {x : Model} {o : Obj} {s : State}

/-! ### Loads -/

section
variable (hs : starting (qkey c q) pos 0x0C s = some m) (hr : modelRefusal c m.entry s = none)
  (hsrc : operandLoc (qkey c q) m 24 32 s = some src)
include hs hr hsrc

/-- The model of a swap-mode context is there at once, IN_PLACE and without frames. -/
theorem opModelLoad_inPlace (hswap : ctxSwap s c = true) :
    let t := opModelLoad c q pos fs s
    tget t.wrd.models s.wrd.nextModel = some (loadedModel c q pos m src .inPlace s) ∧ t.wrd.frames = s.wrd.frames ∧
    (∀ i, i ≠ s.wrd.nextModel → tget t.wrd.models i = tget s.wrd.models i) ∧ t.wrd.nextModel = s.wrd.nextModel + 1 ∧
    (t.cmd (qkey c q) pos).map (·.latch) = some (some ⟨.ok, 0⟩) ∧ OnlyIn [.objects, .front, .wrd, .chest, .jnl] s t := by
  have hw : (finishOk (qkey c q) pos (modelEntered c q pos m src .inPlace s)).wrd = (modelEntered c q pos m src .inPlace s).wrd :=
    finish_wrd ..
  dsimp only
  rw [opModelLoad_swap hs hr hsrc hswap, hw]
  refine ⟨(modelEntered_model _).trans (if_pos rfl), ?_, fun i hi => (modelEntered_model i).trans (if_neg hi), ?_,
    finishOk_latch hs modelEntered_front, ?_⟩
  · rw [modelEntered_wrd]
  · rw [modelEntered_wrd]
  · exact (finishOk_within _ pos (registerModel_within c q pos m src .inPlace
      (begun_within _ pos (.refl [.objects, .front, .wrd, .chest, .jnl] s) (by simp [Covers])) (by simp [Covers])) (by simp [Covers])).onlyIn

/-- Where there is room the model is LOADING with its frames, and its item waits for MC1. -/
theorem opModelLoad_loading (hswap : ctxSwap s c = false) (hroom : HotRoom (ceilDiv (fld m.entry 40 8) (pageBytes s)) s)
    (hfs : GoodFrames (ceilDiv (fld m.entry 40 8) (pageBytes s)) fs s) (hcores : 1 < s.mgmt.cores.length) :
    let t := opModelLoad c q pos fs s
    tget t.wrd.models s.wrd.nextModel = some { loadedModel c q pos m src .loading s with frames := fs } ∧
    (∀ f ∈ fs, frameAt f t = Frame.of .model false) ∧ (∀ f, f ∉ fs → tget t.wrd.frames f = tget s.wrd.frames f) ∧
    (∀ i, i ≠ s.wrd.nextModel → tget t.wrd.models i = tget s.wrd.models i) ∧ t.wrd.nextModel = s.wrd.nextModel + 1 ∧
    (coreAt 1 t).mailbox = (coreAt 1 s).mailbox ++ [.modelLoad s.wrd.nextModel] ∧
    t.cmd (qkey c q) pos = some { m with started := true } := by
  have hin : tget (modelEntered c q pos m src .loading s).wrd.models s.wrd.nextModel = some (loadedModel c q pos m src .loading s) :=
    (modelEntered_model _).trans (if_pos rfl)
  obtain ⟨hmodel, hothers, htaken, hleft, hnext, -, -⟩ := takeModel_takes hin fs
  have hkept := takeModel_within s.wrd.nextModel fs (.refl [.wrd, .watch] (modelEntered c q pos m src .loading s)) (.refl _)
  have hw : (pushWork 1 (.modelLoad s.wrd.nextModel) (takeModel s.wrd.nextModel fs (modelEntered c q pos m src .loading s))).wrd =
      (takeModel s.wrd.nextModel fs (modelEntered c q pos m src .loading s)).wrd := State.modCore_wrd ..
  dsimp only
  rw [opModelLoad_loads hs hr hsrc hswap hroom hfs, hw]
  refine ⟨hmodel, fun f hf => frameAt_of_some ((congrArg (fun w : Wardrobe => tget w.frames f) hw).trans (htaken f hf)),
    fun f hf => (hleft f hf).trans ?_, fun i hi => (hothers i hi).trans ((modelEntered_model i).trans (if_neg hi)), hnext.trans ?_,
    pushWork_mailbox_of _ ((hkept.same .mgmt (by decide)).trans modelEntered_mgmt) hcores,
    cmd_of_begun_front hs ((State.modCore_front ..).trans ((hkept.same .front (by decide)).trans modelEntered_front))⟩
  · rw [modelEntered_wrd]
  · rw [modelEntered_wrd]

end

/-! ### Pins -/

section
variable (hs : starting (qkey c q) pos 0x0D s = some m) (hm : modelOf (s.tenantOf c) (fld m.entry 16 8) s = some (id, x))
include hs hm

theorem opModelPin_tooMany (hmany : x.state ≠ .inPlace ∧ s.wrd.maxFrames < 2 * pinnedFrames id s) :
    opModelPin c q pos s = finish (qkey c q) pos .noMemory 7 (begun (qkey c q) pos s) :=
  (opModelPin_model hs hm).trans (if_pos hmany)

variable (hfew : ¬(x.state ≠ .inPlace ∧ s.wrd.maxFrames < 2 * pinnedFrames id s))
include hfew

/-- A pin of a model that is there retires. -/
theorem opModelPin_retires (hx : tget s.wrd.models id = some x) (hst : x.state = .resident ∨ x.state = .inPlace) :
    let t := opModelPin c q pos s
    (t.cmd (qkey c q) pos).map (·.latch) = some (some ⟨.ok, 0⟩) ∧ tget t.wrd.models id = some x.pinned ∧
    (∀ i, i ≠ id → tget t.wrd.models i = tget s.wrd.models i) ∧ t.wrd.frames = s.wrd.frames ∧ OnlyIn [.front, .wrd, .chest, .jnl] s t := by
  have hw : (finishOk (qkey c q) pos (pinTaken (qkey c q) pos id s)).wrd = (pinTaken (qkey c q) pos id s).wrd := finish_wrd ..
  dsimp only
  rw [(opModelPin_model hs hm).trans ((if_neg hfew).trans (if_pos hst)), hw]
  exact ⟨finishOk_latch hs (State.modModel_front ..), (pinTaken_model hx id).trans (if_pos rfl),
    fun i hi => (pinTaken_model hx i).trans (if_neg hi), pinTaken_frames, (finishOk_within _ pos (pinTaken_within _ pos id s) (by simp [Covers])).onlyIn⟩

/-- A pin that waits for a model demands it. -/
theorem opModelPin_demands (hst : ¬(x.state = .resident ∨ x.state = .inPlace)) : opModelPin c q pos s = demandModel id (pinWaits c q pos id s) :=
  (opModelPin_model hs hm).trans ((if_neg hfew).trans (if_neg hst))

/-- A pin of a model that is not in the hot tier starts the miss service on MC1 (R256). -/
theorem opModelPin_misses (hx : tget s.wrd.models id = some x) (hst : x.state = .evicted) (hcores : 1 < s.mgmt.cores.length) :
    let t := opModelPin c q pos s
    t.front = (begun (qkey c q) pos s).front ∧ (∀ i, i ≠ id → tget t.wrd.models i = tget s.wrd.models i) ∧ t.wrd.frames = s.wrd.frames ∧
    tget t.wrd.models id = some (x.pinned.awaited (c, q, pos)).missed ∧ (coreAt 1 t).mailbox = (coreAt 1 s).mailbox ++ [.modelLoad id] := by
  have hy : tget (pinWaits c q pos id s).wrd.models id = some (x.pinned.awaited (c, q, pos)) := (pinWaits_model hx id).trans (if_pos rfl)
  have hw : (pushWork 1 (.modelLoad id) ((pinWaits c q pos id s).modModel id Model.missed)).wrd =
      ((pinWaits c q pos id s).modModel id Model.missed).wrd := State.modCore_wrd ..
  dsimp only
  rw [opModelPin_demands hs hm hfew (by simp [hst]), demandModel_evicted hy hst, hw]
  refine ⟨(State.modCore_front ..).trans ((State.modModel_front ..).trans pinWaits_front), fun i hi => ?_,
    (modModel_frames ..).trans pinWaits_frames, ?_, pushWork_mailbox_of _ ((State.modModel_mgmt ..).trans pinWaits_mgmt) hcores⟩
  · rw [modModel_model, if_neg hi, pinWaits_model hx, if_neg hi]
  · rw [modModel_model, if_pos rfl, hy, Option.map_some]

end

/-! ### Unpins -/

section
variable (hs : starting (qkey c q) pos 0x0E s = some m) (hm : modelOf (s.tenantOf c) (fld m.entry 16 8) s = some (id, x))
  (hx : tget s.wrd.models id = some x) (ho : tget s.objects x.srcKey = some o)
include hs hm hx ho

theorem opModelUnpin_keeps (hf : o.freePending = false) (horphan : x.orphan = false) :
    let t := opModelUnpin c q pos s
    (t.cmd (qkey c q) pos).map (·.latch) = some (some ⟨.ok, 0⟩) ∧ tget t.wrd.models id = some x.unpinned ∧
    (∀ i, i ≠ id → tget t.wrd.models i = tget s.wrd.models i) ∧ OnlyIn [.front, .wrd, .chest, .jnl] s t := by
  have hy : tget (pinGiven (qkey c q) pos id s).wrd.models id = some x.unpinned := (pinGiven_model hx id).trans (if_pos rfl)
  have hw : (finishOk (qkey c q) pos (pinGiven (qkey c q) pos id s)).wrd = (pinGiven (qkey c q) pos id s).wrd := finish_wrd ..
  dsimp only
  rw [opModelUnpin_model hs hm, reapModel_stays hy (pinGiven_objects.symm ▸ ho) hf horphan, hw]
  exact ⟨finishOk_latch hs (State.modModel_front ..), hy, fun i hi => (pinGiven_model hx i).trans (if_neg hi),
    (finishOk_within _ pos (State.modModel_within id _ (begun_within _ pos (.refl [.front, .wrd, .chest, .jnl] s) (by simp [Covers]))
      (by simp [Covers])) (by simp [Covers])).onlyIn⟩

theorem opModelUnpin_removes (hf : o.freePending = true ∨ x.orphan = true) (huse : modelInUse x.unpinned s = false) (hw : x.waiters = []) :
    let t := opModelUnpin c q pos s
    (t.cmd (qkey c q) pos).map (·.latch) = some (some ⟨.ok, 0⟩) ∧ tget t.wrd.models id = none ∧
    (∀ f ∈ x.frames, tget t.wrd.frames f = none) ∧ ∀ i, i ≠ id → tget t.wrd.models i = tget s.wrd.models i := by
  have hy : tget (pinGiven (qkey c q) pos id s).wrd.models id = some x.unpinned := (pinGiven_model hx id).trans (if_pos rfl)
  obtain ⟨hgone, hkept, hframes⟩ := removeModel_removes hy
  obtain ⟨-, hl⟩ := begun_starting hs
  obtain ⟨m', hm', hl', -⟩ := (removeModel_alike id (.refl (pinGiven (qkey c q) pos id s))).cmd_some
    (cmd_of_begun_front hs (State.modModel_front ..))
  have hwrd : (finishOk (qkey c q) pos (removeModel id (pinGiven (qkey c q) pos id s))).wrd =
      (removeModel id (pinGiven (qkey c q) pos id s)).wrd := finish_wrd ..
  dsimp only
  rw [opModelUnpin_model hs hm, reapModel_goes hy (pinGiven_objects.symm ▸ ho) hf ((pinGiven_modelInUse _).trans huse) hw, hwrd]
  exact ⟨finish_latch hm' (hl'.trans hl), hgone, hframes, fun i hi => (hkept i hi).trans ((pinGiven_model hx i).trans (if_neg hi))⟩

end

end Sys2Proof.Machine
end

section
/-! O30: OP_MODEL_LOAD, OP_MODEL_PIN and OP_MODEL_UNPIN. -/

namespace Sys2Proof.Machine

/-- Settles O30: each command is one of a few operations on the state in which it has begun, by the checks of R254 to R257. -/
theorem modelsAreLoadedAndPinned : Obligations.ModelsAreLoadedAndPinned := by
  refine ⟨?load, ?pin, ?unpin⟩
  case load =>
    intro c q pos fs m s hs _ _ k n id refused known full big room entered
    have hrefused : ∀ {st : Status} {aux : Nat}, modelRefusal c m.entry s = some (st, aux) → refused st aux := fun hr =>
      ⟨_, rfl, by rw [opModelLoad_refused hs hr]; exact refused_answers hs _ _⟩
    refine ⟨fun h => hrefused (modelRefusal_known h), fun h hf => hrefused (modelRefusal_full h hf),
      fun h hf hb => hrefused ((modelRefusal_room h hf).trans (if_pos hb)), fun src h hf hb hsrc => ?_⟩
    have hr : modelRefusal c m.entry s = none := (modelRefusal_room h hf).trans (if_neg hb)
    refine ⟨fun hswap => ⟨_, rfl, opModelLoad_inPlace hs hr hsrc hswap⟩, fun hswap hroom hfs hcores => ⟨_, rfl, ?_⟩,
      fun hswap hroom hev => ⟨_, rfl, by rw [opModelLoad_fails hs hr hsrc hswap hroom hev]; exact refused_answers hs _ _⟩⟩
    obtain ⟨hmodel, htaken, hleft, hothers, hnext, hmail, hcmd⟩ := opModelLoad_loading hs hr hsrc hswap hroom hfs hcores
    exact ⟨hmodel, htaken, hleft, hothers, hnext, hmail, hcmd, onlyIn_of_exec (c := .opModelLoad c q pos fs) rfl⟩
  case pin =>
    intro c q pos id m x s hs _ _ k pinned tooMany latch others
    refine ⟨fun hm => ⟨_, rfl, by rw [opModelPin_unknown hs hm]; exact finish_refused hs _ _⟩, fun hm hx => ?_⟩
    have hlatch : ∀ {t : State}, t.front = (begun k pos s).front → latch t = some none := fun hf => by
      obtain ⟨-, hl⟩ := begun_starting hs
      exact (congrArg (Option.map Cmd.latch) (cmd_of_begun_front hs hf)).trans (congrArg some hl)
    refine ⟨fun hmany => ⟨_, rfl, by rw [opModelPin_tooMany hs hm hmany]; exact finish_refused hs _ _⟩,
      fun hfew hst => ⟨_, rfl, opModelPin_retires hs hm hfew hx hst⟩, fun hfew hst hcores => ⟨_, rfl, ?_⟩, fun hfew hst => ⟨_, rfl, ?_⟩⟩
    · obtain ⟨hfront, hothers, hframes, hmodel, hmail⟩ := opModelPin_misses hs hm hfew hx hst hcores
      exact ⟨hlatch hfront, hothers, hframes, hmodel, hmail, onlyIn_of_exec (c := .opModelPin c q pos) rfl⟩
    · have hheld : ¬(x.state = .resident ∨ x.state = .inPlace) ∧ x.state ≠ .evicted := by
        rcases hst with h | h
        · simp [h]
        · simp [h]
      have hy : tget (pinWaits c q pos id s).wrd.models id = some (x.pinned.awaited (c, q, pos)) := (pinWaits_model hx id).trans (if_pos rfl)
      rw [opModelPin_demands hs hm hfew hheld.1, demandModel_held hy hheld.2]
      exact ⟨hlatch pinWaits_front, fun i hi => (pinWaits_model hx i).trans (if_neg hi), pinWaits_frames, hy, (pinWaits_within c q pos id s).onlyIn⟩
  case unpin =>
    intro c q pos id m x s hs _ _ k latch
    exact ⟨fun hm => ⟨_, rfl, by rw [opModelUnpin_unknown hs hm]; exact finish_refused hs _ _⟩, fun hm hx =>
      ⟨fun o ho hf horphan => ⟨_, rfl, opModelUnpin_keeps hs hm hx ho hf horphan⟩,
        fun o ho hf huse hw => ⟨_, rfl, opModelUnpin_removes hs hm hx ho hf huse hw⟩⟩⟩

end Sys2Proof.Machine
end

section
/-! SUPPORT for O26. What a GATHER leaves of the pages it names, one after the other (R234). -/

namespace Sys2Proof.Machine

variable {p i k base : Nat} {l : Launch} {c : SideCmd} {e : LeafEntry} {ps : List (Nat × LeafEntry)} {s t u : State}

/-! ### The record of a page -/

/-- What a GATHER brings into scratch for a page: header and blocks, or code 7 and zeros for a lost one. -/
def pageRecord (c : SideCmd) (e : LeafEntry) (s : State) : List Byte :=
  if e.lost then le 4 7 ++ le 4 (64 * c.length) ++ zeros (8 + 64 * c.length)
  else
    let d := blockData e.frame (frameAt e.frame s).format c.offset c.length s
    le 4 (frameAt e.frame s).format ++ le 4 d.length ++ zeros 8 ++ d

@[simp] theorem zeros_length (n : Nat) : (zeros n).length = n := List.length_replicate

theorem blockData_length (f fmt off n : Nat) (s : State) : (blockData f fmt off n s).length = n * (codeBytes fmt + metaBytes fmt) := by
  simp only [blockData, List.length_append, memRead_length, Nat.mul_add]

/-- No format takes more than the 64 bytes of a block in the native one (R237). -/
theorem blockBytes_le (fmt : Nat) : codeBytes fmt + metaBytes fmt ≤ 64 := by
  unfold codeBytes metaBytes
  split_ifs <;> omega

theorem pageRecord_lost (h : e.lost = true) : pageRecord c e s = le 4 7 ++ le 4 (64 * c.length) ++ zeros (8 + 64 * c.length) := if_pos h

theorem pageRecord_found (h : e.lost = false) : pageRecord c e s =
    le 4 (frameAt e.frame s).format ++ le 4 (blockData e.frame (frameAt e.frame s).format c.offset c.length s).length ++ zeros 8 ++
      blockData e.frame (frameAt e.frame s).format c.offset c.length s := if_neg (Bool.eq_false_iff.1 h)

theorem headed_length (a b : Nat) (d : List Byte) : (le 4 a ++ le 4 b ++ zeros 8 ++ d).length = 16 + d.length := by
  simp only [List.length_append, le_length, zeros_length]

theorem pageRecord_lost_length (h : e.lost = true) : (pageRecord c e s).length = 16 + 64 * c.length := by
  rw [pageRecord_lost h]
  simp only [List.length_append, le_length, zeros_length]
  omega

theorem pageRecord_length (c : SideCmd) (e : LeafEntry) (s : State) : (pageRecord c e s).length ≤ 16 + 64 * c.length := by
  cases h : e.lost with
  | true => exact (pageRecord_lost_length h).le
  | false =>
    have hd := Nat.mul_le_mul_left c.length (blockBytes_le (frameAt e.frame s).format)
    rw [pageRecord_found h, headed_length, blockData_length]
    omega

/-! ### What the records read stays -/

/-- As far as a GATHER has gone, every page's bytes and format, and the flags it has set, are as they were. -/
structure Gathering (s u : State) : Prop where
  host : u.mem.host = s.mem.host
  fast : u.mem.fast = s.mem.fast
  slow : u.mem.slow = s.mem.slow
  pageBytes : pageBytes u = pageBytes s
  frameLoc : ∀ f, frameLoc f u = frameLoc f s
  format : ∀ f, (frameAt f u).format = (frameAt f s).format
  accessed : ∀ f, (frameAt f s).accessed = true → (frameAt f u).accessed = true
  ok : s.MemOk → u.MemOk

theorem Gathering.trans (h : Gathering s t) (h' : Gathering t u) : Gathering s u where
  host := h'.host.trans h.host
  fast := h'.fast.trans h.fast
  slow := h'.slow.trans h.slow
  pageBytes := h'.pageBytes.trans h.pageBytes
  frameLoc := fun f => (h'.frameLoc f).trans (h.frameLoc f)
  format := fun f => (h'.format f).trans (h.format f)
  accessed := fun f ha => h'.accessed f (h.accessed f ha)
  ok := fun hs => h'.ok (h.ok hs)

theorem Gathering.of_alike (h : FramesAlike s t) (hm : t.mem = s.mem) : Gathering s t where
  host := congrArg Mems.host hm
  fast := congrArg Mems.fast hm
  slow := congrArg Mems.slow hm
  pageBytes := h.pageBytes
  frameLoc := h.frameLoc
  format := fun f => congrArg Frame.format (h.frameAt f)
  accessed := fun f ha => (congrArg Frame.accessed (h.frameAt f)).trans ha
  ok := fun hs => (congrArg (fun m : Mems => m.wf = true) hm).mpr hs

theorem frameLoc_space_ne_host (f : Nat) (s : State) : (frameLoc f s).space ≠ .host := by
  unfold frameLoc
  split <;> exact nofun

theorem Gathering.memRead (h : Gathering s u) (k : Loc) (n : Nat) : memRead k n u = memRead k n s := by
  have hof : u.mem.of k.space = s.mem.of k.space := by
    cases k.space with
    | host => exact h.host
    | fast => exact h.fast
    | slow => exact h.slow
  rw [Machine.memRead, hof, Machine.memRead]

theorem Gathering.pageRecord (h : Gathering s u) (c : SideCmd) (e : LeafEntry) : pageRecord c e u = pageRecord c e s := by
  simp only [Machine.pageRecord, blockData, h.format, h.frameLoc, h.pageBytes, h.memRead]

/-! ### One page -/

theorem scratchWrite_mem (a : Nat) (bs : List Byte) (s : State) :
    (scratchWrite a bs s).mem = { s.mem with scratch := writeN s.mem.scratch a bs } := rfl

theorem reportLost_mem (i f : Nat) (s : State) : (reportLost i f s).mem = s.mem := rfl

theorem gatherPage_lost (a : Nat) (h : e.lost = true) : gatherPage p l c i e a s = reportLost i e.frame
    (scratchWrite a (le 4 7 ++ le 4 (64 * c.length) ++ zeros 8 ++ zeros (64 * c.length)) s) := if_pos h

/-- The page's frame has been accessed (R241). -/
def touched (f : Nat) (s : State) : State := setFrame f { frameAt f s with accessed := true } s

theorem gatherPage_found (a : Nat) (h : e.lost = false) : ∃ k n, gatherPage p l c i e a s =
    readBy (.slice p) (some l.ctx) k n (scratchWrite a (pageRecord c e s) (touched e.frame s)) := by
  rw [pageRecord_found h]
  exact ⟨_, _, if_neg (Bool.eq_false_iff.1 h)⟩

theorem gatherPage_mem (a : Nat) : (gatherPage p l c i e a s).mem = (scratchWrite a (pageRecord c e s) s).mem := by
  cases h : e.lost with
  | true =>
    rw [gatherPage_lost a h, reportLost_mem, pageRecord_lost h, zeros, zeros, zeros, List.append_assoc, List.replicate_append_replicate]
  | false =>
    obtain ⟨k, n, hk⟩ := gatherPage_found (p := p) (l := l) (c := c) (i := i) (s := s) a h
    rw [hk, readBy_mem, scratchWrite_mem, scratchWrite_mem, touched, setFrame_mem]

theorem frameAt_touched (f g : Nat) (s : State) :
    frameAt g (touched f s) = if g = f then { frameAt f s with accessed := true } else frameAt g s := by
  by_cases h : g = f
  · subst h
    rw [if_pos rfl, touched, frameAt_setFrame]
  · have hg : tget (touched f s).wrd.frames g = tget s.wrd.frames g := tget_tset_ne s.wrd.frames _ h
    rw [if_neg h, frameAt, hg]
    rfl

theorem touched_gathering (f : Nat) (s : State) : Gathering s (touched f s) where
  host := rfl
  fast := rfl
  slow := rfl
  pageBytes := rfl
  frameLoc := fun _ => rfl
  format := fun g => by
    rw [frameAt_touched]
    split
    · next h => rw [h]
    · rfl
  accessed := fun g ha => by
    rw [frameAt_touched]
    split
    · rfl
    · exact ha
  ok := id

theorem scratchWrite_gathering (a : Nat) (bs : List Byte) (s : State) : Gathering s (scratchWrite a bs s) where
  host := rfl
  fast := rfl
  slow := rfl
  pageBytes := rfl
  frameLoc := fun _ => rfl
  format := fun _ => rfl
  accessed := fun _ ha => ha
  ok := fun hs => (Mems.wf_iff _).2 ((scratchWrite_within a bs (.refl [.mem] s) (.refl _)).canon ((Mems.wf_iff _).1 hs))

/-- A state that differs in requests, counts and verdicts. -/
theorem Gathering.of_within (h : Within [.port, .hub] s t) : Gathering s t :=
  .of_alike ⟨congrArg (fun w : Wardrobe => { w with movers := [] }) (h.same .wrd (by decide)), h.same .tenants (by decide), h.same .watch (by decide), h.same .trestle (by decide)⟩
    (h.same .mem (by decide))

theorem reportLost_gathering (i f : Nat) (s : State) : Gathering s (reportLost i f s) where
  host := rfl
  fast := rfl
  slow := rfl
  pageBytes := rfl
  frameLoc := fun _ => rfl
  format := fun _ => rfl
  accessed := fun _ ha => ha
  ok := id

theorem modEngine_gathering (p st eng : Nat) (f : SideEngine → SideEngine) (s : State) : Gathering s (s.modEngine p st eng f) where
  host := rfl
  fast := rfl
  slow := rfl
  pageBytes := rfl
  frameLoc := fun _ => rfl
  format := fun _ => rfl
  accessed := fun _ ha => ha
  ok := id

theorem gatherPage_gathering (a : Nat) : Gathering s (gatherPage p l c i e a s) := by
  cases h : e.lost with
  | true =>
    rw [gatherPage_lost a h]
    exact (scratchWrite_gathering ..).trans (reportLost_gathering ..)
  | false =>
    obtain ⟨k, n, hk⟩ := gatherPage_found (p := p) (l := l) (c := c) (i := i) (s := s) a h
    rw [hk]
    exact (touched_gathering ..).trans ((scratchWrite_gathering ..).trans (.of_within (readBy_within _ _ _ _ (.refl _ _) (.refl _))))

theorem gatherPage_accessed (a : Nat) (h : e.lost = false) : (frameAt e.frame (gatherPage p l c i e a s)).accessed = true := by
  obtain ⟨k, n, hk⟩ := gatherPage_found (p := p) (l := l) (c := c) (i := i) (s := s) a h
  rw [hk]
  refine ((scratchWrite_gathering ..).trans (.of_within (readBy_within _ _ _ _ (.refl _ _) (.refl _)))).accessed _ ?_
  rw [frameAt_touched, if_pos rfl]

/-! ### All pages -/

/-- Where a GATHER puts the record of its page k. -/
def recordPlace (c : SideCmd) (base k : Nat) : Nat := base + k * (16 + 64 * c.length)

theorem recordPlace_succ (c : SideCmd) (base k : Nat) : recordPlace c base (k + 1) = recordPlace c base k + (16 + 64 * c.length) := by
  rw [recordPlace, Nat.succ_mul, recordPlace, Nat.add_assoc]

/-- The pages of a GATHER are brought in order, each to its place in scratch (R234). -/
def gatherPages (p : Nat) (l : Launch) (c : SideCmd) (i base k : Nat) (ps : List (Nat × LeafEntry)) (s : State) : State :=
  (ps.zipIdx k).foldl (fun s e => gatherPage p l c i e.1.2 (recordPlace c base e.2) s) s

theorem gatherPages_cons (x : Nat × LeafEntry) : gatherPages p l c i base k (x :: ps) s =
    gatherPages p l c i base (k + 1) ps (gatherPage p l c i x.2 (recordPlace c base k) s) := rfl

theorem gatherPages_gathering : Gathering s (gatherPages p l c i base k ps s) := by
  induction ps generalizing k s with
  | nil => exact .of_within (.refl _ s)
  | cons x ps ih => exact (gatherPage_gathering _).trans ih

/-- What lies before the place of the first page stays. -/
theorem gatherPages_before {a : Nat} (ha : a < recordPlace c base k) :
    cellGet (gatherPages p l c i base k ps s).mem.scratch a = cellGet s.mem.scratch a := by
  induction ps generalizing k s with
  | nil => rfl
  | cons x ps ih =>
    rw [gatherPages_cons, ih (by rw [recordPlace_succ]; omega), gatherPage_mem, scratchWrite_mem]
    exact cellGet_writeN_outside _ _ (.inl ha)

/-- The pages that follow leave the record of the first one. -/
theorem gatherPages_cons_first (x : Nat × LeafEntry) (hs : s.MemOk) :
    readN (gatherPages p l c i base k (x :: ps) s).mem.scratch (recordPlace c base k) (pageRecord c x.2 s).length = pageRecord c x.2 s := by
  have hlen := pageRecord_length c x.2 s
  have hkept : ∀ a, a < recordPlace c base k + (16 + 64 * c.length) →
      cellGet (gatherPages p l c i base k (x :: ps) s).mem.scratch a =
        cellGet (gatherPage p l c i x.2 (recordPlace c base k) s).mem.scratch a :=
    fun a ha => gatherPages_before (recordPlace_succ c base k ▸ ha)
  have hsame : readN (gatherPages p l c i base k (x :: ps) s).mem.scratch (recordPlace c base k) (pageRecord c x.2 s).length =
      readN (gatherPage p l c i x.2 (recordPlace c base k) s).mem.scratch (recordPlace c base k) (pageRecord c x.2 s).length :=
    List.map_congr_left fun a ha => hkept _ (by have ha := List.mem_range.1 ha; omega)
  rw [hsame, gatherPage_mem, scratchWrite_mem]
  exact readN_writeN _ _ ((Mems.wf_iff s.mem).1 hs).2.2.2.1

/-- Each page's record is in its place (R234). -/
theorem gatherPages_record (hs : s.MemOk) {j : Nat} {x : Nat × LeafEntry} (hx : ps[j]? = some x) :
    readN (gatherPages p l c i base k ps s).mem.scratch (recordPlace c base (k + j)) (pageRecord c x.2 s).length = pageRecord c x.2 s := by
  induction ps generalizing k j s with
  | nil => cases hx
  | cons y ps ih =>
    cases j with
    | zero =>
      obtain rfl : y = x := Option.some.inj hx
      exact gatherPages_cons_first y hs
    | succ j =>
      have hpage := gatherPage_gathering (p := p) (l := l) (c := c) (i := i) (e := y.2) (s := s) (recordPlace c base k)
      have hrest := ih (k := k + 1) (hpage.ok hs) hx
      rw [hpage.pageRecord, Nat.add_right_comm, Nat.add_assoc k] at hrest
      exact hrest

theorem gatherPages_accessed {j : Nat} {x : Nat × LeafEntry} (hx : ps[j]? = some x) (hl : x.2.lost = false) :
    (frameAt x.2.frame (gatherPages p l c i base k ps s)).accessed = true := by
  induction ps generalizing k j s with
  | nil => cases hx
  | cons y ps ih =>
    rw [gatherPages_cons]
    cases j with
    | zero =>
      obtain rfl : y = x := Option.some.inj hx
      exact gatherPages_gathering.accessed _ (gatherPage_accessed _ hl)
    | succ j => exact ih hx

end Sys2Proof.Machine
end

section
/-! SUPPORT for O26. What a SCATTER writes to the pages it names, one after the other (R235). -/

namespace Sys2Proof.Machine

variable {p i k base : Nat} {l : Launch} {c : SideCmd} {e : LeafEntry} {ps : List (Nat × LeafEntry)} {s t u : State}

/-- Bytes of scratch go to the selected blocks of a page; those of a lost page are discarded. -/
def scatterPage (p : Nat) (l : Launch) (c : SideCmd) (i : Nat) (e : LeafEntry) (a : Nat) (s : State) : State :=
  if e.lost then reportLost i e.frame s
  else writeBy (.slice p) (some l.ctx) ((frameLoc e.frame s).plus (64 * c.offset)) (readN s.mem.scratch a (64 * c.length)) s

/-- The selected blocks of a native page (R237). -/
def blocksOf (c : SideCmd) (e : LeafEntry) (s : State) : Loc := (frameLoc e.frame s).plus (64 * c.offset)

theorem plus_space (k : Loc) (n : Nat) : (k.plus n).space = k.space := rfl

theorem blocksOf_space_ne_host (c : SideCmd) (e : LeafEntry) (s : State) : (blocksOf c e s).space ≠ .host := by
  rw [blocksOf, plus_space]
  exact frameLoc_space_ne_host e.frame s

theorem scatterable_fast {n : Nat} {x : Nat × LeafEntry} (h : scatterable n x s = true) : (blocksOf c x.2 s).space = .fast := by
  simp only [scatterable, Bool.and_eq_true, isFast, decide_eq_true_eq] at h
  obtain ⟨⟨⟨hfast, -⟩, -⟩, -⟩ := h
  rw [blocksOf, plus_space, frameLoc, if_pos hfast]

theorem scatterPage_lost (a : Nat) (h : e.lost = true) : scatterPage p l c i e a s = reportLost i e.frame s := if_pos h

theorem scatterPage_found (a : Nat) (h : e.lost = false) : scatterPage p l c i e a s =
    writeBy (.slice p) (some l.ctx) (blocksOf c e s) (readN s.mem.scratch a (64 * c.length)) s := if_neg (Bool.eq_false_iff.1 h)

theorem scatterPage_mem_lost (a : Nat) (h : e.lost = true) : (scatterPage p l c i e a s).mem = s.mem := by
  rw [scatterPage_lost a h, reportLost_mem]

theorem scatterPage_mem_found (a : Nat) (h : e.lost = false) : (scatterPage p l c i e a s).mem =
    s.mem.write (blocksOf c e s) (readN s.mem.scratch a (64 * c.length)) := by
  have hnot : ¬((blocksOf c e s).space = .host ∧ hostDropped (blocksOf c e s) s = true) := fun hd => blocksOf_space_ne_host c e s hd.1
  rw [scatterPage_found a h, writeBy_mem, if_neg hnot]

theorem scatterPage_within (a : Nat) : Within [.port, .mem, .hub, .trestle] s (scatterPage p l c i e a s) := by
  cases h : e.lost with
  | true => exact scatterPage_lost (p := p) (l := l) (c := c) a h ▸ reportLost_within _ _ (.refl _ s) (by simp [Covers])
  | false => exact scatterPage_found (p := p) (i := i) a h ▸ writeBy_within _ _ _ _ (.refl _ s) (by simp [Covers])

theorem frameLoc_of_wrd (h : t.wrd = s.wrd) (f : Nat) : frameLoc f t = frameLoc f s := by
  have hp : pageBytes t = pageBytes s := by rw [pageBytes, h, pageBytes]
  have hf : fFast t = fFast s := by rw [fFast, h, hp, fFast]
  simp only [frameLoc, hp, hf]

theorem blocksOf_scatterPage (e' : LeafEntry) (a : Nat) : blocksOf c e' (scatterPage p l c i e a s) = blocksOf c e' s :=
  congrArg (Loc.plus · _) (frameLoc_of_wrd ((scatterPage_within a).same .wrd (by decide)) _)

theorem scatterPage_scratch (a : Nat) : (scatterPage p l c i e a s).mem.scratch = s.mem.scratch := by
  cases h : e.lost with
  | true => rw [scatterPage_mem_lost a h]
  | false => rw [scatterPage_mem_found a h, Mems.write_scratch]

theorem scatterPage_ok (hs : s.MemOk) (a : Nat) : (scatterPage p l c i e a s).MemOk :=
  (Mems.wf_iff _).2 ((scatterPage_within a).canon ((Mems.wf_iff _).1 hs))

/-- Bytes apart from the page's blocks stay. -/
theorem scatterPage_apart {d : Loc} {m : Nat} (a : Nat) (h : e.lost = false → Apart (blocksOf c e s) (64 * c.length) d m) :
    memRead d m (scatterPage p l c i e a s) = memRead d m s := by
  cases hl : e.lost with
  | true => exact memRead_congr (scatterPage_mem_lost a hl) _ _
  | false => exact memRead_write_apart (scatterPage_mem_found a hl) (by rw [readN_length]; exact h hl)

theorem scatterPage_writes (hs : s.MemOk) (a : Nat) (hl : e.lost = false) :
    memRead (blocksOf c e s) (64 * c.length) (scatterPage p l c i e a s) = readN s.mem.scratch a (64 * c.length) := by
  have h := memRead_write _ _ hs (scatterPage_mem_found (p := p) (l := l) (c := c) (i := i) a hl)
  rwa [readN_length] at h

/-- The pages of a SCATTER are written in order, each from its place in scratch (R235). -/
def scatterPages (p : Nat) (l : Launch) (c : SideCmd) (i base k : Nat) (ps : List (Nat × LeafEntry)) (s : State) : State :=
  (ps.zipIdx k).foldl (fun s e => scatterPage p l c i e.1.2 (base + e.2 * (64 * c.length)) s) s

theorem scatterPages_cons (x : Nat × LeafEntry) : scatterPages p l c i base k (x :: ps) s =
    scatterPages p l c i base (k + 1) ps (scatterPage p l c i x.2 (base + k * (64 * c.length)) s) := rfl

theorem scatterPages_scratch : (scatterPages p l c i base k ps s).mem.scratch = s.mem.scratch := by
  induction ps generalizing k s with
  | nil => rfl
  | cons x ps ih => exact ih.trans (scatterPage_scratch _)

/-- Bytes apart from the blocks of every page that is not lost stay. -/
theorem scatterPages_apart {d : Loc} {m : Nat} (h : ∀ x ∈ ps, x.2.lost = false → Apart (blocksOf c x.2 s) (64 * c.length) d m) :
    memRead d m (scatterPages p l c i base k ps s) = memRead d m s := by
  induction ps generalizing k s with
  | nil => rfl
  | cons x ps ih =>
    obtain ⟨hx, hps⟩ := List.forall_mem_cons.1 h
    exact (ih fun y hy hl => by rw [blocksOf_scatterPage]; exact hps y hy hl).trans (scatterPage_apart _ hx)

/-- The blocks of a page apart from those of every later one hold the bytes of its place in scratch (R235). -/
theorem scatterPages_writes (hs : s.MemOk) {j : Nat} {x : Nat × LeafEntry} (hx : ps[j]? = some x) (hl : x.2.lost = false)
    (hlast : ∀ j' y, j < j' → ps[j']? = some y → y.2.lost = false →
      Apart (blocksOf c y.2 s) (64 * c.length) (blocksOf c x.2 s) (64 * c.length)) :
    memRead (blocksOf c x.2 s) (64 * c.length) (scatterPages p l c i base k ps s) =
      readN s.mem.scratch (base + (k + j) * (64 * c.length)) (64 * c.length) := by
  induction ps generalizing k j s with
  | nil => cases hx
  | cons y ps ih =>
    rw [scatterPages_cons]
    cases j with
    | zero =>
      obtain rfl : y = x := Option.some.inj hx
      refine (scatterPages_apart fun z hz hzl => ?_).trans (scatterPage_writes hs _ hl)
      obtain ⟨j, hj⟩ := List.mem_iff_getElem?.1 hz
      rw [blocksOf_scatterPage]
      exact hlast (j + 1) z j.succ_pos hj hzl
    | succ j =>
      have hrest := ih (k := k + 1) (scatterPage_ok (p := p) (l := l) (c := c) (i := i) (e := y.2) hs (base + k * (64 * c.length))) hx
        fun j' z hj hz hzl => by
          rw [blocksOf_scatterPage, blocksOf_scatterPage]
          exact hlast (j' + 1) z (Nat.succ_lt_succ hj) hz hzl
      rw [blocksOf_scatterPage, scatterPage_scratch, Nat.add_right_comm, Nat.add_assoc k] at hrest
      exact hrest

/-- Blocks of different frames are apart where they lie in their pages. -/
theorem blocksOf_apart {e' : LeafEntry} (hne : e'.frame ≠ e.frame) (hfit : c.offset + c.length ≤ pageBytes s / 64) :
    Apart (blocksOf c e' s) (64 * c.length) (blocksOf c e s) (64 * c.length) := by
  have hin : 64 * c.offset + 64 * c.length ≤ pageBytes s := by omega
  exact (frames_apart hne.symm s).mono hin hin

end Sys2Proof.Machine
end

section
/-! SUPPORT for O26. What a GATHER and a SCATTER do in the state in which they are read (R233 to R236). -/

namespace Sys2Proof.Machine

variable {p st eng pc i n : Nat} {s t : State} {l : Launch} {c : SideCmd} {h : Posted} {q : Seq} {ps : List (Nat × LeafEntry)} {e : Nat × LeafEntry}

/-- A page that a command names is moved, copied or zeroed, or in a partition reset (R236, R362). -/
def pagesHeld (ps : List (Nat × LeafEntry)) (s : State) : Bool :=
  ps.any (fun e => !e.2.lost && (inFlight e.2.frame s || frameHeld e.2.frame s))

theorem pagesHeld_iff : pagesHeld ps s = true ↔
    ∃ e ∈ ps, e.2.lost = false ∧ (inFlight e.2.frame s = true ∨ frameHeld e.2.frame s = true) := by
  simp [pagesHeld]

theorem pagesHeld_false (hfree : ∀ e ∈ ps, e.2.lost = false → inFlight e.2.frame s = false ∧ frameHeld e.2.frame s = false) :
    pagesHeld ps s = false := by
  refine Bool.eq_false_iff.2 fun hh => ?_
  obtain ⟨e, he, hl, hin⟩ := pagesHeld_iff.1 hh
  obtain ⟨h1, h2⟩ := hfree e he hl
  rcases hin with hin | hin
  · exact Bool.false_ne_true (h1.symm.trans hin)
  · exact Bool.false_ne_true (h2.symm.trans hin)

/-- A page that a SCATTER names may not be written to (R235). -/
def pagesRefused (limit : Nat) (ps : List (Nat × LeafEntry)) (s : State) : Bool := ps.any (fun e => !e.2.lost && !scatterable limit e s)

theorem pagesRefused_iff : pagesRefused n ps s = true ↔ ∃ e ∈ ps, e.2.lost = false ∧ scatterable n e s = false := by
  simp [pagesRefused]

theorem pagesNamed_sideRead (per : Nat) : pagesNamed l c per (sideRead p st eng pc l s) = pagesNamed l c per s := by
  obtain ⟨os, hr⟩ := sideRead_emits p st eng pc l s
  rw [hr]; rfl

theorem pagesHeld_sideRead : pagesHeld ps (sideRead p st eng pc l s) = pagesHeld ps s := by
  obtain ⟨os, hr⟩ := sideRead_emits p st eng pc l s
  rw [hr]; rfl

theorem pagesRefused_sideRead : pagesRefused n ps (sideRead p st eng pc l s) = pagesRefused n ps s := by
  obtain ⟨os, hr⟩ := sideRead_emits p st eng pc l s
  rw [hr]; rfl

/-- The blocks that a command names lie in their pages (R233). -/
theorem pagesNamed_fits {per : Nat} (hn : pagesNamed l c per s = some (i, q, ps, n)) : c.offset + c.length ≤ pageBytes s / 64 := by
  unfold pagesNamed at hn
  split at hn
  · cases hn
  · split at hn
    · cases hn
    · dsimp only at hn
      split at hn
      · next hok =>
        obtain ⟨-, -, -, hfit, -⟩ := hok
        exact hfit
      · cases hn

/-- The Batch Record of the step is read besides the command (R477). -/
def entryRead (p st eng pc : Nat) (l : Launch) (c : SideCmd) (s : State) : State := readRecord p l c (sideRead p st eng pc l s)

theorem sideRead_within {fp : List Part} (p st eng pc : Nat) (l : Launch) (s : State) (hm : Covers [.port] fp) :
    Within fp s (sideRead p st eng pc l s) := by
  obtain ⟨os, hr⟩ := sideRead_emits p st eng pc l s
  rw [hr]
  exact emitAll_within os (.refl _ s) hm

theorem entryRead_within : Within [.port, .hub] s (entryRead p st eng pc l c s) :=
  readRecord_within p l c (sideRead_within p st eng pc l s (by simp [Covers])) (by simp [Covers])

theorem entryRead_mem : (entryRead p st eng pc l c s).mem = s.mem := (entryRead_within ..).same .mem (by decide)

/-! ### GATHER -/

theorem gatherAct_misused (hn : pagesNamed l c (16 + 64 * c.length) s = none) :
    gatherAct p l c (sideRead p st eng pc l s) = .stop .engineFault 5 0 := by
  simp only [gatherAct, pagesNamed_sideRead, hn]

theorem gatherAct_named (hn : pagesNamed l c (16 + 64 * c.length) s = some (i, q, ps, n)) :
    gatherAct p l c (sideRead p st eng pc l s) = if pagesHeld ps s then .wait
      else .done (gatherPages p l c i (scratchOf l c) 0 ps (entryRead p st eng pc l c s)) := by
  rw [← pagesHeld_sideRead (p := p) (st := st) (eng := eng) (pc := pc) (l := l)]
  simp only [gatherAct, pagesNamed_sideRead, hn]
  rfl

/-- The parts that a GATHER or a SCATTER may change before its engine is busy. -/
theorem gatherAct_parts (ha : gatherAct p l c (sideRead p st 1 pc l s) = .done t) : Within [.port, .mem, .hub, .trestle, .wrd] s t := by
  have hw := gatherAct_within (fp := [.port, .mem, .hub, .trestle, .wrd]) p l c (sideRead_within p st 1 pc l s (by simp [Covers])) (.refl _)
  rw [ha] at hw
  exact hw

/-- A GATHER that acts: each page's record is in its place, and what it read is as it was. -/
theorem SideTakes.gathers (ht : SideTakes p st 1 2 l c h pc s) (hs : s.MemOk)
    (hn : pagesNamed l c (16 + 64 * c.length) s = some (i, q, ps, n)) (hfree : pagesHeld ps s = false) :
    let t := takeSide p st 1 2 (gatherAct p) s
    EngineTook p st 1 pc s t ∧ Gathering s t ∧
    (∀ k e, ps[k]? = some e → readN t.mem.scratch (recordPlace c (scratchOf l c) k) (pageRecord c e.2 s).length = pageRecord c e.2 s ∧
      (e.2.lost = false → (frameAt e.2.frame t).accessed = true)) := by
  have hact := (gatherAct_named (p := p) (st := st) (eng := 1) (pc := pc) hn).trans (if_neg (Bool.eq_false_iff.1 hfree))
  have hread := Gathering.of_within (entryRead_within (p := p) (st := st) (eng := 1) (pc := pc) (l := l) (c := c) (s := s))
  have hall := hread.trans (gatherPages_gathering (p := p) (l := l) (c := c) (i := i) (base := scratchOf l c) (k := 0) (ps := ps))
  have hengine : Gathering (gatherPages p l c i (scratchOf l c) 0 ps (entryRead p st 1 pc l c s)) (takeSide p st 1 2 (gatherAct p) s) := by
    rw [ht.does hact]
    exact modEngine_gathering ..
  refine ⟨ht.took hact ((gatherAct_parts hact).same .slices (by decide)), hall.trans hengine, fun k e he => ⟨?_, fun hl => ?_⟩⟩
  · have hrec := gatherPages_record (p := p) (l := l) (i := i) (base := scratchOf l c) (k := 0) (c := c) (hread.ok hs) he
    rw [hread.pageRecord, Nat.zero_add] at hrec
    rw [ht.does hact, State.modEngine, State.modStream_mem]
    exact hrec
  · exact hengine.accessed _ (gatherPages_accessed he hl)

/-! ### SCATTER -/

theorem scatterAct_misused (hn : pagesNamed l c (64 * c.length) s = none) :
    scatterAct p l c (sideRead p st eng pc l s) = .stop .engineFault 5 0 := by
  simp only [scatterAct, pagesNamed_sideRead, hn]

theorem scatterAct_named (hn : pagesNamed l c (64 * c.length) s = some (i, q, ps, n)) :
    scatterAct p l c (sideRead p st eng pc l s) = if pagesHeld ps s then .wait else if pagesRefused n ps s then .stop .engineFault 5 0
      else .done (scatterPages p l c i (scratchOf l c) 0 ps (entryRead p st eng pc l c s)) := by
  rw [← pagesHeld_sideRead (p := p) (st := st) (eng := eng) (pc := pc) (l := l),
    ← pagesRefused_sideRead (p := p) (st := st) (eng := eng) (pc := pc) (l := l)]
  simp only [scatterAct, pagesNamed_sideRead, hn]
  rfl

theorem scatterAct_parts (ha : scatterAct p l c (sideRead p st 2 pc l s) = .done t) : Within [.port, .mem, .hub, .trestle] s t := by
  have hw := scatterAct_within (fp := [.port, .mem, .hub, .trestle]) p l c (sideRead_within p st 2 pc l s (by simp [Covers])) (.refl _)
  rw [ha] at hw
  exact hw

theorem blocksOf_entryRead (e : LeafEntry) : blocksOf c e (entryRead p st eng pc l c s) = blocksOf c e s :=
  congrArg (Loc.plus · _) (frameLoc_of_wrd (entryRead_within.same .wrd (by decide)) _)

/-- A SCATTER that acts: the blocks of a page of which none that follows is in the same frame hold their bytes, and what is apart from
every page's blocks stays. -/
theorem SideTakes.scatters (ht : SideTakes p st 2 4 l c h pc s) (hs : s.MemOk)
    (hn : pagesNamed l c (64 * c.length) s = some (i, q, ps, n)) (hfree : pagesHeld ps s = false) (hok : pagesRefused n ps s = false) :
    let t := takeSide p st 2 4 (scatterAct p) s
    EngineTook p st 2 pc s t ∧
    (∀ k e, ps[k]? = some e → e.2.lost = false →
      (∀ k' e', k < k' → ps[k']? = some e' → e'.2.lost = false → e'.2.frame ≠ e.2.frame) →
      memRead (blocksOf c e.2 s) (64 * c.length) t = readN s.mem.scratch (scratchOf l c + k * (64 * c.length)) (64 * c.length)) ∧
    (∀ d m, (∀ e ∈ ps, e.2.lost = false → Apart (blocksOf c e.2 s) (64 * c.length) d m) → memRead d m t = memRead d m s) ∧
    t.mem.scratch = s.mem.scratch := by
  have hact := (scatterAct_named (p := p) (st := st) (eng := 2) (pc := pc) hn).trans
    ((if_neg (Bool.eq_false_iff.1 hfree)).trans (if_neg (Bool.eq_false_iff.1 hok)))
  have hread : (entryRead p st 2 pc l c s).mem = s.mem := entryRead_mem
  have hmem : (takeSide p st 2 4 (scatterAct p) s).mem = (scatterPages p l c i (scratchOf l c) 0 ps (entryRead p st 2 pc l c s)).mem := by
    rw [ht.does hact, State.modEngine, State.modStream_mem]
  refine ⟨ht.took hact ((scatterAct_parts hact).same .slices (by decide)), fun k e he hl hlast => ?_, fun d m hd => ?_,
    (congrArg Mems.scratch hmem).trans (scatterPages_scratch.trans (congrArg Mems.scratch hread))⟩
  · have hs' : (entryRead p st 2 pc l c s).MemOk := (congrArg (fun m : Mems => m.wf = true) hread).mpr hs
    have hwrites := scatterPages_writes (p := p) (l := l) (c := c) (i := i) (base := scratchOf l c) (k := 0) hs' he hl fun k' e' hk he' hl' => by
      rw [blocksOf_entryRead, blocksOf_entryRead]
      exact blocksOf_apart (hlast k' e' hk he' hl') (pagesNamed_fits hn)
    rw [blocksOf_entryRead, hread, Nat.zero_add] at hwrites
    exact (memRead_congr hmem _ _).trans hwrites
  · refine (memRead_congr hmem _ _).trans ((scatterPages_apart fun e he hl => ?_).trans (memRead_congr hread _ _))
    rw [blocksOf_entryRead]
    exact hd e he hl

end Sys2Proof.Machine
end

section
/-! O26: GATHER and SCATTER. -/

namespace Sys2Proof.Machine

/-- Settles O26: the pages are brought or written one after the other, and no step touches what a later one reads. -/
theorem pagesAreGatheredAndScattered : Obligations.PagesAreGatheredAndScattered := by
  refine ⟨?gather, ?scatter⟩
  case gather =>
    intro p st pc l c h s ht hs r per
    refine ⟨fun hn => ⟨_, rfl, ht.stops (gatherAct_misused hn)⟩, fun i q ps n hn => ⟨fun hheld => ?_, fun hfree => ?_⟩⟩
    · exact congrArg Host.Outcome.next (ht.waits ((gatherAct_named hn).trans (if_pos (pagesHeld_iff.2 hheld))))
    · obtain ⟨htook, hsame, hpages⟩ := ht.gathers hs hn (pagesHeld_false hfree)
      refine ⟨_, rfl, htook, fun k e he hl => ?_, fun k e he hl => ?_, hsame.host, hsame.fast, hsame.slow,
        takeSide_onlyIn (fun l c _ hk => gatherAct_within p l c hk (by simp [Covers])) (by simp [Covers])⟩
      · obtain ⟨hrec, hacc⟩ := hpages k e he
        rw [pageRecord_found hl, headed_length] at hrec
        exact ⟨hrec, hacc hl⟩
      · obtain ⟨hrec, -⟩ := hpages k e he
        rw [pageRecord_lost_length hl, pageRecord_lost hl] at hrec
        exact hrec
  case scatter =>
    intro p st pc l c h s ht hs r per
    refine ⟨fun hn => ⟨_, rfl, ht.stops (scatterAct_misused hn)⟩, fun i q ps n hn => ⟨fun hheld => ?_, fun hfree hbad => ?_, fun hgood => ?_⟩⟩
    · exact congrArg Host.Outcome.next (ht.waits ((scatterAct_named hn).trans (if_pos (pagesHeld_iff.2 hheld))))
    · exact ⟨_, rfl, ht.stops ((scatterAct_named hn).trans
        ((if_neg (Bool.eq_false_iff.1 (pagesHeld_false hfree))).trans (if_pos (pagesRefused_iff.2 hbad))))⟩
    · have hfree : pagesHeld ps s = false := pagesHeld_false fun e he hl => by
        obtain ⟨hflight, hheld, -⟩ := hgood e he hl
        exact ⟨hflight, hheld⟩
      have hok : pagesRefused n ps s = false := Bool.eq_false_iff.2 fun hbad => by
        obtain ⟨e, he, hl, hno⟩ := pagesRefused_iff.1 hbad
        obtain ⟨-, -, hyes⟩ := hgood e he hl
        exact Bool.false_ne_true (hno.symm.trans hyes)
      obtain ⟨htook, hwritten, hrest, hscratch⟩ := ht.scatters hs hn hfree hok
      refine ⟨_, rfl, htook, hwritten, fun a ha => hrest a 1 fun e he hl => Apart.of_outside ?_, hscratch,
        takeSide_onlyIn (fun l c _ hk => scatterAct_within p l c hk (by simp [Covers])) (by simp [Covers])⟩
      obtain ⟨-, -, hyes⟩ := hgood e he hl
      have hspace : (blocksOf c e.2 s).space = .fast := scatterable_fast hyes
      rw [hspace]
      exact (em (a.space = .fast)).elim (fun h => .inr (ha e he hl h)) .inl

end Sys2Proof.Machine
end

section
/-! SUPPORT for O59. What it is for a state to be in shape, part by part, and which changes keep it so (R302, R488, R410, R77, R328,
R221). -/

set_option Elab.async false

namespace Sys2Proof.Machine

/-! ### Tables whose keys rise -/

section
variable {α : Type} {t : Tab α}

theorem tabWf_iff_pairwise : ∀ {t : Tab α}, tabWf t = true ↔ t.Pairwise (fun a b => a.1 < b.1)
  | [] => by simp [tabWf]
  | [_] => by simp [tabWf]
  | a :: b :: t => by
    rw [tabWf_cons, List.pairwise_cons, tabWf_iff_pairwise, List.head?_cons]
    refine and_congr_left fun h => ⟨fun hab e he => ?_, fun hab e he => hab e (by simp_all)⟩
    rcases List.mem_cons.1 he with rfl | he
    · exact hab _ rfl
    · exact (hab b rfl).trans ((List.pairwise_cons.1 h).1 e he)

theorem tabWf_filter (p : Nat × α → Bool) (h : tabWf t = true) : tabWf (t.filter p) = true :=
  tabWf_iff_pairwise.2 ((tabWf_iff_pairwise.1 h).filter p)

theorem tabWf_map {f : Nat × α → Nat × α} (h : tabWf t = true) (hf : ∀ e, (f e).1 = e.1) : tabWf (t.map f) = true := by
  refine tabWf_iff_pairwise.2 (List.pairwise_map.2 ((tabWf_iff_pairwise.1 h).imp fun hab => ?_))
  rw [hf, hf]
  exact hab

theorem tabWf_tmapv (f : Nat → α → α) (h : tabWf t = true) : tabWf (tmapv t f) = true := tabWf_map h fun _ => rfl

theorem tdel_eq_filter (n : Nat) : ∀ t : Tab α, tdel t n = t.filter (fun e => e.1 != n)
  | [] => rfl
  | e :: t => by
    have ih := tdel_eq_filter n t
    by_cases h : e.1 = n <;> simp [tdel, h, ih]

theorem tabWf_tdel (n : Nat) (h : tabWf t = true) : tabWf (tdel t n) = true := by
  rw [tdel_eq_filter]
  exact tabWf_filter _ h

theorem tabWf_tupd (n : Nat) (f : α → α) (h : tabWf t = true) : tabWf (tupd t n f) = true := by
  unfold tupd
  split
  · exact tabWf_tset _ _ _ h
  · exact h

/-- Every entry of a table has a property. -/
def Entries (p : α → Prop) (t : Tab α) : Prop := ∀ e ∈ t, p e.2

variable {p : α → Prop}

theorem Entries.get {n : Nat} {a : α} (h : Entries p t) (e : tget t n = some a) : p a := h _ (mem_of_tget e)

theorem Entries.getD {n : Nat} {d : α} (h : Entries p t) (hd : p d) : p (tgetD t n d) := by
  unfold tgetD
  cases e : tget t n with
  | none => exact hd
  | some a => exact h.get e

theorem Entries.tset {n : Nat} {x : α} (h : Entries p t) (hx : p x) : Entries p (tset t n x) := fun e he => by
  rcases mem_tset he with rfl | he
  · exact hx
  · exact h e he

theorem Entries.tupd {n : Nat} {f : α → α} (h : Entries p t) (hf : ∀ x, p x → p (f x)) : Entries p (tupd t n f) := by
  unfold Machine.tupd
  split
  · next e => exact h.tset (hf _ (h.get e))
  · exact h

theorem Entries.tmapv {f : Nat → α → α} (h : Entries p t) (hf : ∀ k x, p x → p (f k x)) : Entries p (tmapv t f) := fun e he => by
  obtain ⟨a, ha, rfl⟩ := List.mem_map.1 he
  exact hf _ _ (h a ha)

theorem Entries.filter (q : Nat × α → Bool) (h : Entries p t) : Entries p (t.filter q) := fun e he => h e (List.mem_filter.1 he).1

theorem Entries.tdel (n : Nat) (h : Entries p t) : Entries p (tdel t n) := fun e he => h e (mem_tdel.1 he).1

end

/-! ### The state in shape -/

/-- A push window of four slots of at most 64 bytes (R77). -/
def Queue.WindowOk (q : Queue) : Prop := q.push.length = 4 ∧ ∀ l ∈ q.push, l.length ≤ 64

/-- Six counters in a tenant slot, in each of its three rows (R328). -/
def Slot.SixEach (x : Slot) : Prop := x.counters.length = 6 ∧ x.start.length = 6 ∧ x.prevStart.length = 6

/-- The parts of State.Shaped, by name. -/
structure InShape (s : State) : Prop where
  contexts : tabWf s.contexts = true
  queues : tabWf s.front.queues = true
  windows : Entries Queue.WindowOk s.front.queues
  slices : tabWf s.slices = true
  seqs : tabWf s.trestle.seqs = true
  benches : tabWf s.sched.benches = true
  frames : tabWf s.wrd.frames = true
  page : 14 ≤ s.wrd.pageLog2 ∧ s.wrd.pageLog2 ≤ 18
  banks : tabWf s.chest.bankCount = true
  classes : s.chest.classes.length = 6
  links : s.link.linksUp.length = 6
  cores : s.mgmt.cores.length = 4
  uses : Entries (fun u : Use => u.bytes.length = 4) s.hub.uses
  slots : Entries Slot.SixEach s.bureau.slots

theorem inShape_iff {s : State} : InShape s ↔ s.Shaped := by
  refine ⟨fun h => ⟨⟨h.contexts, h.queues, h.slices, h.seqs, h.benches, h.frames, h.banks⟩, h.classes, h.links, h.cores, h.page,
    h.windows, h.uses, h.slots⟩, fun h => ?_⟩
  obtain ⟨⟨contexts, queues, slices, seqs, benches, frames, banks⟩, classes, links, cores, page, windows, uses, slots⟩ := h
  exact ⟨contexts, queues, windows, slices, seqs, benches, frames, page, banks, classes, links, cores, uses, slots⟩

/-- What InShape speaks of. -/
def State.shape (s : State) :=
  (s.contexts, s.front.queues, s.slices, s.trestle.seqs, s.sched.benches, s.wrd.frames, s.wrd.pageLog2, s.chest.bankCount,
    s.chest.classes.length, s.link.linksUp.length, s.mgmt.cores.length, s.hub.uses, s.bureau.slots)

section
variable {s t : State}

/-- A change that leaves what InShape speaks of. -/
theorem InShape.of_shape (h : InShape s) (e : t.shape = s.shape) : InShape t := by
  simp only [State.shape, Prod.mk.injEq] at e
  obtain ⟨e1, e2, e3, e4, e5, e6, e7, e8, e9, e10, e11, e12, e13⟩ := e
  exact ⟨e1 ▸ h.contexts, e2 ▸ h.queues, e2 ▸ h.windows, e3 ▸ h.slices, e4 ▸ h.seqs, e5 ▸ h.benches, e6 ▸ h.frames,
    e7 ▸ h.page, e8 ▸ h.banks, e9 ▸ h.classes, e10 ▸ h.links, e11 ▸ h.cores, e12 ▸ h.uses, e13 ▸ h.slots⟩

/-- The parts that InShape speaks of. -/
def shapedParts : List Part := [.hub, .contexts, .front, .slices, .trestle, .sched, .wrd, .chest, .bureau, .mgmt, .link]

/-- An operation whose footprint holds none of those parts. -/
theorem InShape.within {fp : List Part} (h : InShape s) (w : Within fp s t) (hf : ∀ p ∈ shapedParts, p ∉ fp := by decide) :
    InShape t := by
  have e (p : Part) (hp : p ∈ shapedParts) : p.same s t := w.same p (hf p hp)
  refine h.of_shape ?_
  simp only [State.shape]
  rw [show t.hub = s.hub from e .hub (by decide), show t.contexts = s.contexts from e .contexts (by decide),
    show t.front = s.front from e .front (by decide), show t.slices = s.slices from e .slices (by decide),
    show t.trestle = s.trestle from e .trestle (by decide), show t.sched = s.sched from e .sched (by decide),
    show t.wrd = s.wrd from e .wrd (by decide), show t.chest = s.chest from e .chest (by decide),
    show t.bureau = s.bureau from e .bureau (by decide), show t.mgmt = s.mgmt from e .mgmt (by decide),
    show t.link = s.link from e .link (by decide)]

theorem InShape.ite {c : Prop} [Decidable c] {a b : State} (ha : c → InShape a) (hb : ¬c → InShape b) :
    InShape (if c then a else b) := by
  split
  · exact ha ‹_›
  · exact hb ‹_›

/-- A step that is made on a condition only. -/
theorem InShape.when {c : Prop} [Decidable c] {a b : State} (hb : InShape b) (ha : InShape b → InShape a) :
    InShape (if c then a else b) := .ite (fun _ => ha hb) (fun _ => hb)

theorem InShape.unless {c : Prop} [Decidable c] {a b : State} (ha : InShape a) (hb : InShape a → InShape b) :
    InShape (if c then a else b) := .ite (fun _ => ha) (fun _ => hb ha)

theorem InShape.foldl {α : Type} {f : State → α → State} (hf : ∀ s a, InShape s → InShape (f s a)) (l : List α) (h : InShape s) :
    InShape (l.foldl f s) := by
  induction l generalizing s with
  | nil => exact h
  | cons a l ih => exact ih (hf s a h)

theorem InShape.foldlB {α : Type} {f : Bnd → α → Bnd} (hf : ∀ b a, InShape b.s → InShape (f b a).s) (l : List α) {b : Bnd}
    (h : InShape b.s) : InShape (l.foldl f b).s := by
  induction l generalizing b with
  | nil => exact h
  | cons a l ih => exact ih (hf b a h)

theorem InShape.foldlS {α β : Type} {f : β × State → α → β × State} (hf : ∀ b a, InShape b.2 → InShape (f b a).2) (l : List α)
    {b : β × State} (h : InShape b.2) : InShape (l.foldl f b).2 := by
  induction l generalizing b with
  | nil => exact h
  | cons a l ih => exact ih (hf b a h)

theorem InShape.of_fst {α : Type} {a : α} {p : State × α} (e : p = (t, a)) (h : InShape p.1) : InShape t := by
  subst e; exact h

theorem InShape.of_snd {α : Type} {a : α} {p : α × State} (e : p = (a, t)) (h : InShape p.2) : InShape t := by
  subst e; exact h

/-- Where there is an answer, it is in shape. -/
abbrev InShapeO (o : Option State) : Prop := ∀ t, o = some t → InShape t

theorem InShapeO.none : InShapeO none := fun _ e => nomatch e

theorem InShapeO.some (h : InShape s) : InShapeO (some s) := fun _ e => Option.some.inj e ▸ h

theorem InShapeO.map {o : Option State} {f : State → State} (h : InShapeO o) (hf : ∀ t, InShape t → InShape (f t)) :
    InShapeO (o.map f) := by
  cases o with
  | none => exact .none
  | some t => exact .some (hf t (h t rfl))

theorem InShapeO.bind {o : Option State} {f : State → Option State} (h : InShapeO o) (hf : ∀ t, InShape t → InShapeO (f t)) :
    InShapeO (o.bind f) := by
  cases o with
  | none => exact .none
  | some t => exact hf t (h t rfl)

theorem InShape.getD {o : Option State} (h : InShape s) (ho : InShapeO o) : InShape (o.getD s) := by
  cases o with
  | none => exact h
  | some t => exact ho t rfl

/-- What an engine's action leaves is in shape. -/
def SideAct.InShape : SideAct → Prop
  | .done s => Machine.InShape s
  | .mismatch s => Machine.InShape s
  | _ => True

theorem SideAct.InShape.done (h : Machine.InShape s) : (SideAct.done s).InShape := h

theorem SideAct.InShape.mismatch (h : Machine.InShape s) : (SideAct.mismatch s).InShape := h

theorem SideAct.InShape.ite {c : Prop} [Decidable c] {a b : SideAct} (ha : c → a.InShape) (hb : ¬c → b.InShape) :
    (if c then a else b).InShape := by
  split
  · exact ha ‹_›
  · exact hb ‹_›

theorem SideAct.InShape.of_done {a : SideAct} (e : a = .done s) (h : a.InShape) : Machine.InShape s := by subst e; exact h

theorem SideAct.InShape.of_mismatch {a : SideAct} (e : a = .mismatch s) (h : a.InShape) : Machine.InShape s := by subst e; exact h

/-! ### Changes of one part -/

theorem InShape.port (h : InShape s) (v : Port) : InShape { s with port := v } := h.of_shape rfl
theorem InShape.tenants (h : InShape s) (v : Tab Tenant) : InShape { s with tenants := v } := h.of_shape rfl
theorem InShape.objects (h : InShape s) (v : Tab Obj) : InShape { s with objects := v } := h.of_shape rfl
theorem InShape.graphs (h : InShape s) (v : Tab GraphVers) : InShape { s with graphs := v } := h.of_shape rfl
theorem InShape.bramble (h : InShape s) (v : Bramble) : InShape { s with bramble := v } := h.of_shape rfl
theorem InShape.watch (h : InShape s) (v : Watch) : InShape { s with watch := v } := h.of_shape rfl
theorem InShape.hutch (h : InShape s) (v : Hutch) : InShape { s with hutch := v } := h.of_shape rfl
theorem InShape.jnl (h : InShape s) (v : JnlRegs) : InShape { s with jnl := v } := h.of_shape rfl
theorem InShape.power (h : InShape s) (v : Power) : InShape { s with power := v } := h.of_shape rfl

theorem InShape.hub {v : Hub} (h : InShape s) (e : v.uses = s.hub.uses) : InShape { s with hub := v } := { h with uses := e ▸ h.uses }

theorem InShape.front {v : Front} (h : InShape s) (e : v.queues = s.front.queues) : InShape { s with front := v } :=
  { h with queues := e ▸ h.queues, windows := e ▸ h.windows }

theorem InShape.trestle {v : Trestle} (h : InShape s) (e : v.seqs = s.trestle.seqs) : InShape { s with trestle := v } :=
  { h with seqs := e ▸ h.seqs }

theorem InShape.sched {v : Sched} (h : InShape s) (e : v.benches = s.sched.benches) : InShape { s with sched := v } :=
  { h with benches := e ▸ h.benches }

theorem InShape.wrd {v : Wardrobe} (h : InShape s) (e : v.frames = s.wrd.frames) (ep : v.pageLog2 = s.wrd.pageLog2) :
    InShape { s with wrd := v } :=
  { h with frames := e ▸ h.frames, page := ep ▸ h.page }

theorem InShape.chest {v : Chest} (h : InShape s) (e : v.bankCount = s.chest.bankCount)
    (ec : v.classes.length = s.chest.classes.length) : InShape { s with chest := v } :=
  { h with banks := e ▸ h.banks, classes := ec.trans h.classes }

theorem InShape.link {v : Link} (h : InShape s) (e : v.linksUp = s.link.linksUp) : InShape { s with link := v } :=
  { h with links := e ▸ h.links }

theorem InShape.mgmt {v : Mgmt} (h : InShape s) (e : v.cores.length = s.mgmt.cores.length) : InShape { s with mgmt := v } :=
  { h with cores := e.trans h.cores }

theorem InShape.bureau {v : Bureau} (h : InShape s) (e : v.slots = s.bureau.slots) : InShape { s with bureau := v } :=
  { h with slots := e ▸ h.slots }

theorem InShape.port_hub {v : Port} {w : Hub} (h : InShape s) (e : w.uses = s.hub.uses) :
    InShape { s with port := v, hub := w } := (h.port v).hub e

theorem InShape.port_chest {v : Port} {w : Chest} (h : InShape s) (e : w.bankCount = s.chest.bankCount)
    (ec : w.classes.length = s.chest.classes.length) : InShape { s with port := v, chest := w } := (h.port v).chest e ec

theorem State.modChest_inShape {f : Chest → Chest} (h : InShape s) (hb : ∀ c, (f c).bankCount = c.bankCount)
    (hc : ∀ c, (f c).classes.length = c.classes.length) : InShape (s.modChest f) := h.chest (hb _) (hc _)

theorem State.modMgmt_inShape {f : Mgmt → Mgmt} (h : InShape s) (hf : ∀ m, (f m).cores.length = m.cores.length) :
    InShape (s.modMgmt f) := h.mgmt (hf _)

theorem State.modLink_inShape {f : Link → Link} (h : InShape s) (hf : ∀ l, (f l).linksUp = l.linksUp) : InShape (s.modLink f) :=
  h.link (hf _)

/-! ### Changes of the tables themselves -/

theorem InShape.setContexts {v : Tab Context} (h : InShape s) (hv : tabWf v = true) : InShape { s with contexts := v } :=
  { h with contexts := hv }

theorem setQueues_inShape {f : Tab Queue → Tab Queue} (h : InShape s) (hw : tabWf (f s.front.queues) = true)
    (hp : Entries Queue.WindowOk (f s.front.queues)) : InShape (s.modQueues f) :=
  { h with queues := hw, windows := hp }

theorem mapQueues_inShape (f : Nat → Queue → Queue) (h : InShape s) (hf : ∀ k q, q.WindowOk → (f k q).WindowOk) :
    InShape (s.modQueues (fun t => tmapv t f)) :=
  setQueues_inShape h (tabWf_tmapv _ h.queues) (h.windows.tmapv hf)

theorem State.modQ_inShape (k : Nat) (f : Queue → Queue) (h : InShape s) (hf : ∀ q, q.WindowOk → (f q).WindowOk) :
    InShape (s.modQ k f) :=
  setQueues_inShape h (tabWf_tupd _ _ h.queues) (h.windows.tupd hf)

theorem State.modC_inShape (k pos : Nat) (f : Cmd → Cmd) (h : InShape s) : InShape (s.modC k pos f) :=
  State.modQ_inShape k _ h fun _ w => w

theorem Queue.reset_windowOk : Queue.reset.WindowOk := ⟨rfl, by decide⟩

theorem modQueue_inShape (c q : Nat) (f : Queue → Queue) (h : InShape s) (hf : ∀ q, q.WindowOk → (f q).WindowOk) :
    InShape (modQueue c q f s) :=
  setQueues_inShape h (tabWf_tset _ _ _ h.queues) (h.windows.tset (hf _ (h.windows.getD Queue.reset_windowOk)))

theorem State.modSlice_inShape (p : Nat) (f : Slice → Slice) (h : InShape s) : InShape (s.modSlice p f) :=
  { h with slices := tabWf_tset _ _ _ h.slices }

theorem mapSlices_inShape (f : Nat → Slice → Slice) (h : InShape s) : InShape { s with slices := tmapv s.slices f } :=
  { h with slices := tabWf_tmapv _ h.slices }

theorem State.modSeq_inShape (i : Nat) (f : Seq → Seq) (h : InShape s) : InShape (s.modSeq i f) :=
  { h with seqs := tabWf_tupd _ _ h.seqs }

theorem State.modLoop_inShape (l : Nat) (f : Loop → Loop) (h : InShape s) : InShape (s.modLoop l f) := h.trestle rfl

theorem InShape.setSeqs {v : Trestle} (h : InShape s) (hv : tabWf v.seqs = true) : InShape { s with trestle := v } :=
  { h with seqs := hv }

theorem InShape.setBenches {v : Sched} (h : InShape s) (hv : tabWf v.benches = true) : InShape { s with sched := v } :=
  { h with benches := hv }

theorem InShape.setFrames {v : Wardrobe} (h : InShape s) (hf : tabWf v.frames = true) (hp : v.pageLog2 = s.wrd.pageLog2) :
    InShape { s with wrd := v } :=
  { h with frames := hf, page := hp ▸ h.page }

theorem InShape.putContext (c : Nat) (x : Context) (h : InShape s) : InShape { s with contexts := tset s.contexts c x } :=
  h.setContexts (tabWf_tset _ _ _ h.contexts)

theorem InShape.updContext (c : Nat) (f : Context → Context) (h : InShape s) : InShape { s with contexts := tupd s.contexts c f } :=
  h.setContexts (tabWf_tupd _ _ h.contexts)

theorem InShape.dropContext (c : Nat) (h : InShape s) : InShape { s with contexts := tdel s.contexts c } :=
  h.setContexts (tabWf_tdel _ h.contexts)

theorem InShape.mapContexts (f : Nat → Context → Context) (h : InShape s) : InShape { s with contexts := tmapv s.contexts f } :=
  h.setContexts (tabWf_tmapv _ h.contexts)

theorem InShape.putSeq {v : Trestle} {i : Nat} {x : Seq} (h : InShape s) (e : v.seqs = tset s.trestle.seqs i x) :
    InShape { s with trestle := v } :=
  h.setSeqs (e ▸ tabWf_tset _ _ _ h.seqs)

theorem State.modChest_setBanks {f : Chest → Chest} (h : InShape s) (hb : tabWf (f s.chest).bankCount = true)
    (hc : ∀ c, (f c).classes.length = c.classes.length) : InShape (s.modChest f) :=
  { h with banks := hb, classes := (hc _).trans h.classes }

theorem Queue.WindowOk.ite {c : Prop} [Decidable c] {a b : Queue} (ha : a.WindowOk) (hb : b.WindowOk) :
    (if c then a else b).WindowOk := by
  split
  · exact ha
  · exact hb

theorem modUsed_inShape (cls : Nat) (f : Nat → Nat) (h : InShape s) : InShape (modUsed cls f s) :=
  { h with classes := (List.length_modify ..).trans h.classes }

theorem State.modCore_inShape (k : Nat) (f : Core → Core) (h : InShape s) : InShape (s.modCore k f) :=
  { h with cores := (List.length_modify ..).trans h.cores }

theorem modUse_inShape (c : Nat) (f : Use → Use) (h : InShape s) (hf : ∀ u, (f u).bytes.length = u.bytes.length) :
    InShape (modUse c f s) :=
  { h with uses := h.uses.tset ((hf _).trans (h.uses.getD rfl)) }

theorem Use.addBytes_length (cls n : Nat) (u : Use) : (u.addBytes cls n).bytes.length = u.bytes.length := List.length_modify ..

theorem setFrame_inShape (f : Nat) (x : Frame) (h : InShape s) : InShape (setFrame f x s) :=
  h.setFrames (tabWf_tset _ _ _ h.frames) rfl

theorem freeFrame_inShape (f : Nat) (h : InShape s) : InShape (freeFrame f s) := h.setFrames (tabWf_tdel _ h.frames) rfl

theorem freeSeq_inShape (i : Nat) (h : InShape s) : InShape (freeSeq i s) := h.setSeqs (tabWf_tdel _ h.seqs)

theorem evalLevels_inShape (h : InShape s) : InShape (evalLevels s) := by
  unfold evalLevels
  exact State.modChest_inShape h (fun _ => rfl) fun _ => List.length_map ..

theorem State.modBureau_inShape {f : Bureau → Bureau} (h : InShape s) (hf : Entries Slot.SixEach (f s.bureau).slots) :
    InShape (s.modBureau f) :=
  { h with slots := hf }

end

end Sys2Proof.Machine
end

section
/-! SUPPORT for O59. The first operations keep the shape. -/

set_option Elab.async false

namespace Sys2Proof.Machine

section
variable {s t : State}

theorem memWrite_inShape (l : Loc) (bs : List Byte) (hs : InShape s) : InShape (memWrite l bs s) :=
  hs.within (memWrite_within _ _ (.refl _ _) (.refl _))

theorem memCopy_inShape (src dst : Loc) (n : Nat) (hs : InShape s) : InShape (memCopy src dst n s) :=
  hs.within (memCopy_within _ _ _ (.refl _ _) (.refl _))

theorem memZero_inShape (l : Loc) (n : Nat) (hs : InShape s) : InShape (memZero l n s) :=
  hs.within (memZero_within _ _ (.refl _ _) (.refl _))

theorem clearBench_inShape (b : Nat) (hs : InShape s) : InShape (clearBench b s) :=
  hs.within (clearBench_within _ (.refl _ _) (.refl _))

end

end Sys2Proof.Machine
end

section
/-! SUPPORT for O59. The shared operations keep the shape. -/

set_option Elab.async false

namespace Sys2Proof.Machine

section
variable {s t : State}

theorem trace_inShape (point tag ctx queue arg : Nat) (hs : InShape s) : InShape (trace point tag ctx queue arg s) :=
  hs.within (trace_within _ _ _ _ _ (.refl _ _) (.refl _))

theorem modCells_inShape (cls queue : Nat) (f : CellQueue → CellQueue) (hs : InShape s) : InShape (modCells cls queue f s) := by
  unfold modCells
  dsimp only
  exact State.modChest_inShape hs (fun _ => rfl) (fun _ => rfl)

theorem evalChest_inShape (hs : InShape s) : InShape (evalChest s) := by
  unfold evalChest
  dsimp only
  exact .foldl (fun _ _ h => trace_inShape _ _ _ _ _ h) _ (evalLevels_inShape hs)

theorem linkPacket_inShape (r : CellReq) (cells : List Nat) (hs : InShape s) : InShape (linkPacket r cells s) := by
  unfold linkPacket
  exact State.modChest_inShape (modUsed_inShape _ _ (modCells_inShape _ _ _ hs)) (fun _ => rfl) (fun _ => rfl)

theorem linkWhole_inShape (r : CellReq) (hs : InShape s) : InShapeO (linkWhole r s) := by
  unfold linkWhole
  dsimp only
  split
  · exact .some (linkPacket_inShape _ _ hs)
  · exact .none

theorem relink_inShape (cls queue : Nat) (r : CellReq) (hs : InShape s) : InShape (relink cls queue r s) := by
  unfold relink
  dsimp only
  exact State.modChest_inShape (modUsed_inShape _ _ (modCells_inShape _ _ _ (modUsed_inShape _ _ (modCells_inShape _ _ _ hs))))
    (fun _ => rfl) (fun _ => rfl)

theorem serveReq_inShape (r : CellReq) (hs : InShape s) : InShapeO (serveReq r s) := by
  unfold serveReq
  split
  · exact .some (relink_inShape _ _ _ hs)
  · exact linkWhole_inShape _ hs

theorem grantNow_inShape (r : CellReq) (hs : InShape s) : InShapeO (grantNow r s) := by
  unfold grantNow
  split
  · exact serveReq_inShape _ hs
  · exact .none

theorem grantWaiting_inShape (n : Nat) (hs : InShape s) : InShape (grantWaiting n s) := by
  induction n generalizing s with
  | zero => exact hs
  | succ n ih =>
    simp only [grantWaiting]
    split
    · exact hs
    · split
      · exact hs
      · next e =>
        refine ih (serveReq_inShape _ ?_ _ e)
        exact State.modChest_inShape hs (fun _ => rfl) (fun _ => rfl)

theorem settleChest_inShape (hs : InShape s) : InShape (settleChest s) := by
  unfold settleChest
  exact evalChest_inShape (grantWaiting_inShape _ hs)

theorem takeCells_inShape (r : CellReq) (hs : InShape s) : InShapeO (takeCells r s) := by
  unfold takeCells
  split
  · exact .map (grantNow_inShape _ hs) (fun _ h => settleChest_inShape h)
  · split
    · exact .some (modCells_inShape _ _ _ hs)
    · exact .map (grantNow_inShape _ hs) (fun _ h => evalChest_inShape h)

theorem takeOrWait_inShape (r : CellReq) (hs : InShape s) : InShape (takeOrWait r s) := by
  unfold takeOrWait
  split
  · exact takeCells_inShape _ hs _ ‹_›
  · exact State.modChest_inShape hs (fun _ => rfl) (fun _ => rfl)

theorem askCells_inShape (r : CellReq) (hs : InShape s) : InShape (askCells r s).2 := by
  unfold askCells
  split
  · exact hs
  · split
    · exact hs
    · split
      · exact takeCells_inShape _ hs _ ‹_›
      · show InShape (s.modChest fun c => { c with waiting := c.waiting ++ [r] })
        exact State.modChest_inShape hs (fun _ => rfl) (fun _ => rfl)

theorem takeSkid_inShape (r : CellReq) (hs : InShape s) : InShapeO (takeSkid r s) := by
  unfold takeSkid
  split
  · exact .some (takeCells_inShape _ hs _ ‹_›)
  · split
    · exact .map (linkWhole_inShape _ hs) (fun _ h => evalChest_inShape h)
    · exact .none

theorem fillItem_inShape (cls queue item : Nat) (bs : List Byte) (hs : InShape s) : InShape (fillItem cls queue item bs s) := by
  unfold fillItem
  exact modCells_inShape _ _ _ hs

theorem freeCells_inShape (cls queue : Nat) (gone : Cell → Bool) (hs : InShape s) : InShape (freeCells cls queue gone s) := by
  unfold freeCells
  dsimp only
  exact .ite (fun _ => hs) (fun _ => settleChest_inShape (modUsed_inShape _ _ (modCells_inShape _ _ _ hs)))

theorem discardFrom_inShape (cls queue : Nat) (gone : Cell → Bool) (hs : InShape s) : InShape (discardFrom cls queue gone s) := by
  unfold discardFrom
  dsimp only
  exact freeCells_inShape _ _ _ hs

theorem dropRequests_inShape (cls queue : Nat) (gone : CellReq → Bool) (hs : InShape s) : InShape (dropRequests cls queue gone s) := by
  unfold dropRequests
  exact State.modChest_inShape hs (fun _ => rfl) (fun _ => rfl)

theorem dropItem_inShape (cls queue item : Nat) (hs : InShape s) : InShape (dropItem cls queue item s) := by
  unfold dropItem
  exact discardFrom_inShape _ _ _ (dropRequests_inShape _ _ _ hs)

theorem consumeItem_inShape (cls queue item : Nat) (hs : InShape s) : InShape (consumeItem cls queue item s) := by
  unfold consumeItem
  exact discardFrom_inShape _ _ _ (modCells_inShape _ _ _ (dropRequests_inShape _ _ _ hs))

theorem dropQueue_inShape (cls queue : Nat) (hs : InShape s) : InShape (dropQueue cls queue s) := by
  unfold dropQueue
  exact discardFrom_inShape _ _ _ (modCells_inShape _ _ _ (dropRequests_inShape _ _ _ hs))

theorem readMarked_inShape (cls queue : Nat) (hs : InShape s) : InShape (readMarked cls queue s) := by
  unfold readMarked
  exact modCells_inShape _ _ _ hs

theorem rewindQueue_inShape (cls queue : Nat) (hs : InShape s) : InShape (rewindQueue cls queue s) := by
  unfold rewindQueue
  exact modCells_inShape _ _ _ hs

theorem freeHead_inShape (cls queue k : Nat) (hs : InShape s) : InShape (freeHead cls queue k s) := by
  unfold freeHead
  dsimp only
  exact settleChest_inShape (modUsed_inShape _ _ (modCells_inShape _ _ _ hs))

theorem discardCells_inShape (cls queue : Nat) (hs : InShape s) : InShape (discardCells cls queue s) := by
  unfold discardCells
  dsimp only
  split
  · exact dropRequests_inShape _ _ _ hs
  · exact discardFrom_inShape _ _ _ (dropRequests_inShape _ _ _ hs)

theorem askMove_inShape (cls queue : Nat) (r : CellReq) (hs : InShape s) : InShape (askMove cls queue r s).2 := by
  unfold askMove
  dsimp only
  exact askCells_inShape _ hs

theorem bar0Err_inShape (cause off : Nat) (hs : InShape s) : InShape (bar0Err cause off s) := by
  unfold bar0Err
  dsimp only
  exact hs.hub rfl

theorem cmdIgnored_inShape (off : Nat) (hs : InShape s) : InShape (cmdIgnored off s) := by
  unfold cmdIgnored
  exact .ite (fun _ => hs) (fun _ => .ite (fun _ => bar0Err_inShape _ _ hs) (fun _ => bar0Err_inShape _ _ hs))

theorem usageSend_inShape (u : Usage) (hs : InShape s) : InShape (usageSend u s) := by
  unfold usageSend
  dsimp only
  exact hs.hub rfl

theorem aggBytes_inShape (t cls n : Nat) (hs : InShape s) : InShape (aggBytes t cls n s) := by
  unfold aggBytes
  dsimp only
  exact .ite (fun _ => (usageSend_inShape _ hs).hub rfl) (fun _ => hs.hub rfl)

theorem charge_inShape (c : Option Nat) (cls n : Nat) (hs : InShape s) : InShape (charge c cls n s) := by
  unfold charge
  split
  · exact hs
  · refine .ite (fun _ => ?_) (fun _ => ?_)
    · exact hs
    · split
      · exact modUse_inShape _ _ hs (fun _ => Use.addBytes_length _ _ _)
      · exact aggBytes_inShape _ _ _ (modUse_inShape _ _ hs (fun _ => Use.addBytes_length _ _ _))

theorem flushBytes_inShape (t cls : Nat) (hs : InShape s) : InShape (flushBytes t cls s) := by
  unfold flushBytes
  dsimp only
  split
  · exact hs
  · exact (usageSend_inShape _ hs).hub rfl

theorem emit_inShape (o : PortOut) (hs : InShape s) : InShape (emit o s) := hs.within (emit_within _ (.refl _ _) (.refl _))

theorem emitAll_inShape (os : List PortOut) (hs : InShape s) : InShape (emitAll os s) :=
  hs.within (emitAll_within _ (.refl _ _) (.refl _))

theorem readReq_inShape (key : Option Nat) (via : Via) (l : Loc) (n : Nat) (hs : InShape s) : InShape (readReq key via l n s) :=
  hs.within (readReq_within _ _ _ _ (.refl _ _) (.refl _))

theorem readBy_inShape (via : Via) (c : Option Nat) (l : Loc) (n : Nat) (hs : InShape s) : InShape (readBy via c l n s) := by
  unfold readBy
  exact .ite (fun _ => hs) (fun _ => charge_inShape _ _ _ (readReq_inShape _ _ _ _ hs))

theorem readFor_inShape (c : Option Nat) (l : Loc) (n : Nat) (hs : InShape s) : InShape (readFor c l n s) := by
  unfold readFor
  exact readBy_inShape _ _ _ _ hs

theorem portWrite_inShape (key : Option Nat) (via : Via) (l : Loc) (bs : List Byte) (hs : InShape s) :
    InShape (portWrite key via l bs s) :=
  hs.within (portWrite_within _ _ _ _ (.refl _ _) (.refl _))

theorem hostWrite_inShape (c : Option Nat) (l : Loc) (bs : List Byte) (hs : InShape s) : InShape (hostWrite c l bs s) := by
  unfold hostWrite
  exact .ite (fun _ => hs) (fun _ => charge_inShape _ _ _ (portWrite_inShape _ _ _ _ hs))

theorem writeBy_inShape (via : Via) (c : Option Nat) (l : Loc) (bs : List Byte) (hs : InShape s) : InShape (writeBy via c l bs s) := by
  unfold writeBy
  split
  · exact hostWrite_inShape _ _ _ hs
  · exact charge_inShape _ _ _ (portWrite_inShape _ _ _ _ hs)

theorem locWrite_inShape (c : Option Nat) (l : Loc) (bs : List Byte) (hs : InShape s) : InShape (locWrite c l bs s) := by
  unfold locWrite
  exact writeBy_inShape _ _ _ _ hs

theorem msix_inShape (fn vector : Nat) (hs : InShape s) : InShape (msix fn vector s) :=
  hs.within (msix_within _ _ (.refl _ _) (.refl _))

theorem raiseEvent_inShape (e : Event) (hs : InShape s) : InShape (raiseEvent e s) := by
  unfold raiseEvent
  dsimp only
  exact .ite (fun _ => hs.jnl _) (fun _ => takeOrWait_inShape _ (hs.jnl _))

theorem spillWrite_inShape (off : Nat) (bs : List Byte) (hs : InShape s) : InShape (spillWrite off bs s) :=
  hs.within (spillWrite_within _ _ (.refl _ _) (.refl _))

theorem hutchRec_inShape (typ : Nat) (h : RecHead) (payload : List Byte) (hs : InShape s) : InShape (hutchRec typ h payload s) :=
  hs.within (hutchRec_within _ _ _ (.refl _ _) (.refl _))

theorem bump_inShape (e : Nat) (hs : InShape s) : InShape (bump e s) := hs.within (bump_within _ (.refl _ _) (.refl _))

theorem dropCmdCells_inShape (k pos op : Nat) (hs : InShape s) : InShape (dropCmdCells k pos op s) := by
  unfold dropCmdCells
  exact dropItem_inShape _ _ _ (dropItem_inShape _ _ _ (dropItem_inShape _ _ _ hs))

theorem takeLatch_inShape (k pos : Nat) (st : Status) (aux : Nat) (hs : InShape s) : InShape (takeLatch k pos st aux s) := by
  unfold takeLatch
  exact dropCmdCells_inShape _ _ _ (State.modC_inShape _ _ _ hs)

theorem finish_inShape (k pos : Nat) (st : Status) (aux : Nat) (hs : InShape s) : InShape (finish k pos st aux s) := by
  unfold finish
  dsimp only
  exact State.modC_inShape _ _ _ hs

theorem finishOk_inShape (k pos : Nat) (hs : InShape s) : InShape (finishOk k pos s) := by
  unfold finishOk
  exact finish_inShape _ _ _ _ hs

theorem addResult_inShape (k pos : Nat) (l : Loc) (bs : List Byte) (hs : InShape s) : InShape (addResult k pos l bs s) := by
  unfold addResult
  exact State.modC_inShape _ _ _ hs

theorem dropShadows_inShape (hs : InShape s) : InShape (dropShadows s) := hs.within (dropShadows_within (.refl _ _) (.refl _))

theorem loadShadow_inShape (c : Option Nat) (l : Loc) (compact : Bool) (hs : InShape s) : InShape (loadShadow c l compact s) := by
  unfold loadShadow
  dsimp only
  split
  · exact hs
  · exact InShape.bramble (.ite (fun _ => hs) (fun _ => readFor_inShape _ _ _ hs)) _

theorem fenceRise_inShape (c : Option Nat) (l : Loc) (compact : Bool) (v : Nat) (hs : InShape s) :
    InShape (fenceRise c l compact v s) := by
  unfold fenceRise
  dsimp only
  exact mapQueues_inShape _ (locWrite_inShape _ _ _ (hs.bramble _)) (fun _ _ w => w)

theorem signalFence_inShape (c tag : Nat) (r : FenceRef) (hs : InShape s) : InShape (signalFence c tag r s) := by
  unfold signalFence
  dsimp only
  split
  · exact trace_inShape _ _ _ _ _ (fenceRise_inShape _ _ _ _ hs)
  · exact hs
  · exact raiseEvent_inShape _ hs

theorem noteThrough_inShape (k pos tag : Nat) (hs : InShape s) : InShape (noteThrough k pos tag s) :=
  hs.within (noteThrough_within _ _ _ (.refl _ _) (.refl _))

theorem signalOut_inShape (c k pos tag : Nat) (r : FenceRef) (hs : InShape s) : InShape (signalOut c k pos tag r s) := by
  unfold signalOut
  dsimp only
  exact .when (signalFence_inShape _ _ _ hs) (fun h => noteThrough_inShape _ _ _ h)

theorem releaseOne_inShape (key : Nat) (hs : InShape s) : InShape (releaseOne key s) := by
  unfold releaseOne
  dsimp only
  split
  · exact hs
  · split
    · refine signalOut_inShape _ _ _ _ _ ?_
      split
      · exact hostWrite_inShape _ _ _ (hs.objects _)
      · exact hs.objects _
    · split
      · exact hostWrite_inShape _ _ _ (hs.objects _)
      · exact hs.objects _

theorem releaseIfIdle_inShape (key : Nat) (hs : InShape s) : InShape (releaseIfIdle key s) := by
  unfold releaseIfIdle
  split
  · exact .ite (fun _ => releaseOne_inShape _ hs) (fun _ => hs)
  · exact hs

theorem dropRefMem_inShape (key : Nat) (hs : InShape s) : InShape (dropRefMem key s) := by
  unfold dropRefMem
  exact releaseIfIdle_inShape _ (hs.objects _)

theorem dropLines_inShape (g : Nat) (gone : Nat → Bool) (hs : InShape s) : InShape (dropLines g gone s) := mapSlices_inShape _ hs

theorem freeVersions_inShape (key : Nat) (hs : InShape s) : InShape (freeVersions key s) := by
  unfold freeVersions
  split
  · exact hs
  · exact .foldl (fun _ _ h => dropRefMem_inShape _ h) _ (dropLines_inShape _ _ (hs.graphs _))

theorem releaseObj_inShape (key : Nat) (hs : InShape s) : InShape (releaseObj key s) := by
  unfold releaseObj
  split
  · exact .ite (fun _ => releaseOne_inShape _ (freeVersions_inShape _ hs)) (fun _ => hs)
  · exact hs

theorem unpin_inShape (key : Nat) (hs : InShape s) : InShape (unpin key s) := by
  unfold unpin
  exact releaseObj_inShape _ (hs.objects _)

theorem unref_inShape (key : Nat) (hs : InShape s) : InShape (unref key s) := by
  unfold unref
  exact releaseObj_inShape _ (hs.objects _)

theorem unpinAll_inShape (keys : List Nat) (hs : InShape s) : InShape (unpinAll keys s) := by
  unfold unpinAll
  exact .foldl (fun _ _ h => unpin_inShape _ h) _ hs

theorem unrefAll_inShape (keys : List Nat) (hs : InShape s) : InShape (unrefAll keys s) := by
  unfold unrefAll
  exact .foldl (fun _ _ h => unref_inShape _ h) _ hs

theorem addRef_inShape (key : Nat) (hs : InShape s) : InShape (addRef key s) := hs.within (addRef_within _ (.refl _ _) (.refl _))

theorem unbind_inShape (g ver : Nat) (hs : InShape s) : InShape (unbind g ver s) := by
  unfold unbind
  dsimp only
  split
  · exact hs
  · split
    · exact dropRefMem_inShape _ (dropLines_inShape _ _ (hs.graphs _))
    · exact hs.graphs _

theorem bindVer_inShape (g ver : Nat) (hs : InShape s) : InShape (bindVer g ver s) :=
  hs.within (bindVer_within _ _ (.refl _ _) (.refl _))

theorem journal_inShape (l typ tag step part items : Nat) (payload : List Byte) (hs : InShape s) :
    InShape (journal l typ tag step part items payload s) := by
  unfold journal
  dsimp only
  split
  · exact hs
  · split
    · exact hs
    · exact takeOrWait_inShape _ (hs.trestle rfl)

theorem freeFrames_inShape (fs : List Nat) (hs : InShape s) : InShape (freeFrames fs s) := by
  unfold freeFrames
  exact .foldl (fun _ _ h => freeFrame_inShape _ h) _ hs

theorem hurry_inShape (kind : MoveKind) (work : Option Nat) (hs : InShape s) : InShape (hurry kind work s) := by
  unfold hurry
  dsimp only
  exact hs.wrd rfl rfl

theorem startJob_inShape (kind : MoveKind) (total : Nat) (background : Bool) (who : Payer) (hs : InShape s) :
    InShape (startJob kind total background who s) := by
  unfold startJob
  dsimp only
  exact bump_inShape _ (InShape.wrd (.ite (fun _ => hs) (fun _ => hurry_inShape _ _ hs)) rfl rfl)

theorem chargeJob_inShape (j : MoveJob) (cls n : Nat) (hs : InShape s) : InShape (chargeJob j cls n s) := by
  unfold chargeJob
  dsimp only
  refine .ite (fun _ => ?_) (fun _ => ?_)
  · exact hs
  · split
    · refine aggBytes_inShape _ _ _ ?_
      split
      · exact modUse_inShape _ _ hs (fun _ => Use.addBytes_length _ _ _)
      · exact hs
    · split
      · exact modUse_inShape _ _ hs (fun _ => Use.addBytes_length _ _ _)
      · exact hs

theorem moverRead_inShape (j : MoveJob) (l : Loc) (n : Nat) (hs : InShape s) : InShape (moverRead j l n s) := by
  unfold moverRead
  exact .ite (fun _ => hs) (fun _ => chargeJob_inShape _ _ _ (readReq_inShape _ _ _ _ hs))

theorem moverWrote_inShape (j : MoveJob) (l : Loc) (n : Nat) (hs : InShape s) : InShape (moverWrote j l n s) := by
  unfold moverWrote
  exact chargeJob_inShape _ _ _ (emitAll_inShape _ hs)

theorem stopJobs_inShape (t : MoveKind → Bool) (hs : InShape s) : InShape (stopJobs t s) := by
  unfold stopJobs
  dsimp only
  exact hs.wrd rfl rfl

theorem allocFrame_inShape (t : Option Nat) (f : Nat) (x : Frame) (hs : InShape s) : InShape (allocFrame t f x s) := by
  unfold allocFrame
  dsimp only
  exact .when (setFrame_inShape _ _ hs) (fun h => startJob_inShape _ _ _ _ h)

theorem takeSave_inShape (t : Option Nat) (fs : List Nat) (hs : InShape s) : InShape (takeSave t fs s) := by
  unfold takeSave
  exact .foldl (fun _ _ h => allocFrame_inShape _ _ _ h) _ hs

theorem addPage_inShape (i f : Nat) (leaf : Option Nat) (hs : InShape s) : InShape (addPage i f leaf s) := by
  unfold addPage
  dsimp only
  split
  · exact hs
  · exact .ite (fun _ => hs.wrd rfl rfl) (fun _ => State.modSeq_inShape _ _ (hs.wrd rfl rfl))

theorem dropHolder_inShape (f : Nat) (hs : InShape s) : InShape (dropHolder f s) := by
  unfold dropHolder
  dsimp only
  exact .when (setFrame_inShape _ _ hs) (fun h => .unless h (fun h => .ite (fun _ => h) (fun _ => freeFrame_inShape _ hs)))

theorem dropLeaf_inShape (i : Nat) (hs : InShape s) : InShape (dropLeaf i s) := by
  unfold dropLeaf
  dsimp only
  split
  · exact hs
  · exact .ite (fun _ => hs.wrd rfl rfl) (fun _ => hs.wrd rfl rfl)

theorem freePages_inShape (i : Nat) (hs : InShape s) : InShape (freePages i s) := by
  unfold freePages
  dsimp only
  split
  · exact hs
  · exact State.modSeq_inShape _ _ (.foldl (fun _ _ h => dropLeaf_inShape _ h) _ (.foldl (fun _ _ h => dropHolder_inShape _ h) _ hs))

theorem modEntry_inShape (f : Nat) (g : LeafEntry → LeafEntry) (hs : InShape s) : InShape (modEntry f g s) := by
  unfold modEntry
  dsimp only
  exact hs.wrd rfl rfl

theorem movePage_inShape (src dst fmt : Nat) (demote early background : Bool) (ctx : Option Nat) (hs : InShape s) :
    InShape (movePage src dst fmt demote early background ctx s) := by
  unfold movePage
  dsimp only
  exact trace_inShape _ _ _ _ _ (.when (startJob_inShape _ _ _ _ (modEntry_inShape _ _ (setFrame_inShape _ _ hs)))
    (fun h => freeFrame_inShape _ h))

theorem capacityEvent_inShape (phase : Nat) (m : Mapout) (hs : InShape s) : InShape (capacityEvent phase m s) := by
  unfold capacityEvent
  dsimp only
  exact raiseEvent_inShape _ hs

theorem State.modStream_inShape (p st : Nat) (f : Stream → Stream) (hs : InShape s) : InShape (State.modStream s p st f) := by
  unfold State.modStream
  exact State.modSlice_inShape _ _ hs

theorem sendLaunch_inShape (base : Launch) (benches : List Nat) (hs : InShape s) : InShape (sendLaunch base benches s) := by
  unfold sendLaunch
  dsimp only
  refine .foldl ?_ _ ?_
  · intro _ _ h
    split
    · exact h
    · exact emit_inShape _ (State.modStream_inShape _ _ _ (takeOrWait_inShape _ h))
  · exact trace_inShape _ _ _ _ _ hs

theorem requestStop_inShape (p st : Nat) (hs : InShape s) : InShape (requestStop p st s) := by
  unfold requestStop
  dsimp only
  exact .ite (fun _ => emit_inShape _ (State.modStream_inShape _ _ _ hs)) (fun _ => hs)

theorem requestStops_inShape (l : List (Nat × Nat)) (hs : InShape s) : InShape (requestStops l s) := by
  unfold requestStops
  exact .foldl (fun _ _ h => requestStop_inShape _ _ h) _ hs

theorem dropStreamCells_inShape (p st : Nat) (hs : InShape s) : InShape (dropStreamCells p st s) := by
  unfold dropStreamCells
  exact dropQueue_inShape _ _ hs

theorem State.modRes_inShape (r : Nat) (f : Residency → Residency) (hs : InShape s) : InShape (State.modRes s r f) := by
  unfold State.modRes
  dsimp only
  exact hs.sched rfl

theorem keepRegs_inShape (p st : Nat) (hs : InShape s) : InShape (keepRegs p st s) := by
  unfold keepRegs
  dsimp only
  split
  · exact hs
  · exact State.modRes_inShape _ _ hs

theorem releaseStream_inShape (p st : Nat) (hs : InShape s) : InShape (releaseStream p st s) := by
  unfold releaseStream
  dsimp only
  exact State.modStream_inShape _ _ _ ((dropStreamCells_inShape _ _ (keepRegs_inShape _ _ hs)).link rfl)

theorem setBench_inShape (b : Nat) (x : Bench) (hs : InShape s) : InShape (setBench b x s) := by
  unfold setBench
  have hb : InShape { s with sched := { s.sched with
      benches := if x = Bench.reset then tdel s.sched.benches b else tset s.sched.benches b x } } := by
    refine hs.setBenches ?_
    dsimp only
    split
    · exact tabWf_tdel _ hs.benches
    · exact tabWf_tset _ _ _ hs.benches
  exact .ite (fun _ => hb) (fun _ => usageSend_inShape _ hb)

theorem setBenches_inShape (bs : List Nat) (f : Bench → Bench) (hs : InShape s) : InShape (setBenches bs f s) := by
  unfold setBenches
  exact .foldl (fun _ _ h => setBench_inShape _ _ h) _ hs

theorem updateGvt_inShape (hs : InShape s) : InShape (updateGvt s) := by
  unfold updateGvt
  dsimp only
  split
  · exact hs
  · exact hs.sched rfl

theorem joinSet_inShape (c : Nat) (hs : InShape s) : InShape (joinSet c s) := by
  unfold joinSet
  dsimp only
  exact .unless (updateGvt_inShape hs) (fun h => .when h (fun h => h.sched rfl))

theorem chargeCycles_inShape (c k : Nat) (hs : InShape s) : InShape (chargeCycles c k s) := by
  unfold chargeCycles
  dsimp only
  refine .ite (fun _ => ?_) (fun _ => ?_)
  · exact hs
  · split
    · exact usageSend_inShape _ (modUse_inShape _ _ (updateGvt_inShape (hs.sched rfl)) (fun _ => rfl))
    · exact modUse_inShape _ _ (updateGvt_inShape (hs.sched rfl)) (fun _ => rfl)

theorem withdrawClaims_inShape (id : Nat) (hs : InShape s) : InShape (withdrawClaims id s) := by
  unfold withdrawClaims
  exact setBenches_inShape _ _ hs

theorem settleReady_inShape (hs : InShape s) : InShape (settleReady s) := by
  unfold settleReady
  dsimp only
  exact hs.sched rfl

theorem dropJob_inShape (id : Nat) (hs : InShape s) : InShape (dropJob id s) := by
  unfold dropJob
  dsimp only
  exact settleReady_inShape (updateGvt_inShape ((withdrawClaims_inShape _ hs).sched rfl))

theorem launchGraph_inShape (k pos r : Nat) (hs : InShape s) : InShape (launchGraph k pos r s) := by
  unfold launchGraph
  dsimp only
  split
  · split
    · exact sendLaunch_inShape _ _ (State.modRes_inShape _ _ hs)
    · exact hs
  · exact hs

theorem journalPlace_inShape (o : Owner) (bs : List Nat) (hs : InShape s) : InShape (journalPlace o bs s) := by
  unfold journalPlace
  dsimp only
  split
  · exact hs
  · split
    · exact hs
    · exact .foldl (fun _ _ h => journal_inShape _ _ _ _ _ _ _ h) _ hs

theorem State.modPower_inShape (f : Power → Power) (hs : InShape s) : InShape (State.modPower s f) :=
  hs.within (State.modPower_within _ (.refl _ _) (.refl _))

theorem State.modVf_inShape (p : Nat) (f : Vf → Vf) (hs : InShape s) : InShape (State.modVf s p f) :=
  hs.within (State.modVf_within _ _ (.refl _ _) (.refl _))

theorem requestCodes_inShape (hs : InShape s) : InShape (requestCodes s) := hs.within (requestCodes_within (.refl _ _) (.refl _))

theorem requestParts_inShape (bs : List Nat) (hs : InShape s) : InShape (requestParts bs s) :=
  hs.within (requestParts_within _ (.refl _ _) (.refl _))

theorem placeJob_inShape (id : Nat) (j : Job) (bs : List Nat) (hs : InShape s) : InShape (placeJob id j bs s) := by
  unfold placeJob
  dsimp only
  split
  · exact .when (dropJob_inShape _ hs) (fun h => journalPlace_inShape _ _ (trace_inShape _ _ _ _ _ (requestParts_inShape _
      (setBenches_inShape _ _ (State.modRes_inShape _ _ h)))))
  · split
    · exact launchGraph_inShape _ _ _ (journalPlace_inShape _ _ (trace_inShape _ _ _ _ _ (requestParts_inShape _ (setBenches_inShape _ _
        ((dropJob_inShape _ hs).sched rfl)))))
    · exact journalPlace_inShape _ _ (trace_inShape _ _ _ _ _ (requestParts_inShape _ (setBenches_inShape _ _
        ((dropJob_inShape _ hs).sched rfl))))

theorem countVacate_inShape (hs : InShape s) : InShape (countVacate s) := by
  unfold countVacate
  dsimp only
  exact hs.sched rfl

theorem startClear_inShape (c : Nat) (bs : List Nat) (hs : InShape s) : InShape (startClear c bs s) :=
  hs.within (startClear_within _ _ (.refl _ _) (.refl _))

theorem releaseRes_inShape (r : Nat) (hs : InShape s) : InShape (releaseRes r s) := by
  unfold releaseRes
  dsimp only
  split
  · exact hs
  · exact updateGvt_inShape (trace_inShape _ _ _ _ _ (requestParts_inShape _ ((setBenches_inShape _ _ (startClear_inShape _ _ hs)).sched
      rfl)))

theorem saveInto_inShape {fs : List Nat} (c : Nat) (benches : List Nat) (hs : InShape s) (h : saveInto c benches s = some (fs, t)) :
    InShape t := by
  unfold saveInto at h
  dsimp only at h
  split at h
  · cases h
  · obtain ⟨-, rfl⟩ := Prod.mk.inj (Option.some.inj h)
    have ht := takeSave_inShape (s.tenantOf c) ‹List Nat› hs
    exact .ite (fun _ => ht.setContexts (tabWf_tupd _ _ ht.contexts)) (fun _ => ht)

theorem saveRes_inShape (r : Nat) (hs : InShape s) : InShapeO (saveRes r s) := by
  unfold saveRes
  split
  · exact .none
  · split
    · exact .none
    · exact .some (trace_inShape _ _ _ _ _ (countVacate_inShape (setBenches_inShape _ _ (State.modRes_inShape _ _
        (saveInto_inShape _ _ hs ‹_›)))))

theorem dropSave_inShape (x : Residency) (hs : InShape s) : InShape (dropSave x s) := by
  unfold dropSave
  exact .ite (fun _ => hs) (fun _ => freeFrames_inShape _ hs)

theorem vacateRes_inShape (r : Nat) (hs : InShape s) : InShapeO (vacateRes r s) := by
  unfold vacateRes
  split
  · exact .none
  · split
    · exact saveRes_inShape _ hs
    · exact .some (releaseRes_inShape _ (countVacate_inShape hs))

theorem vacateAll_inShape (here : Option Nat) (l : List (Nat × Residency)) (hs : InShape s) :
    InShape (vacated (vacateAll here l s)) := by
  induction l generalizing s with
  | nil => exact hs
  | cons v t ih =>
    simp only [vacateAll]
    split
    · split
      · exact ih (vacateRes_inShape _ hs _ ‹_›)
      · exact hs
    · exact ih hs

theorem claimTarget_inShape (id : Nat) (free : List Nat) (vs : List (Nat × Residency)) (hs : InShape s) :
    InShape (claimTarget id free vs s) := by
  unfold claimTarget
  dsimp only
  exact .foldl (fun _ _ h => setBenches_inShape _ _ h) _ (setBenches_inShape _ _ hs)

theorem claimFor_inShape (here : Option Nat) (id : Nat) (h : Job) (n : Nat) (skip : List Nat) (hs : InShape s) :
    InShapeO (claimFor here id h n skip s) := by
  induction n generalizing skip s with
  | zero => exact .none
  | succ n ih =>
    simp only [claimFor]
    split
    · exact .none
    · next free vs _ =>
      have hv := vacateAll_inShape here vs (claimTarget_inShape id free vs hs)
      split
      · next e => rw [e] at hv; exact .some hv
      · next e => rw [e] at hv; exact ih _ (withdrawClaims_inShape _ hv)

theorem passJobs_inShape (here : Option Nat) (js : List (Nat × Job)) (b : Bool) (hs : InShape s) : InShape (passJobs here js b s) := by
  induction js generalizing b s with
  | nil => exact hs
  | cons e js ih =>
    simp only [passJobs]
    split
    · exact ih _ (launchGraph_inShape _ _ _ (dropJob_inShape _ hs))
    · split
      · exact ih _ (placeJob_inShape _ _ _ hs)
      · split
        · exact ih _ hs
        · split
          · exact ih _ hs
          · split
            · exact ih _ (claimFor_inShape _ _ _ _ _ hs _ ‹_›)
            · exact ih _ hs

theorem passAt_inShape (here : Option Nat) (hs : InShape s) : InShape (passAt here s) := by
  unfold passAt
  dsimp only
  refine .ite (fun _ => updateGvt_inShape hs) (fun _ => ?_)
  exact bump_inShape _ (updateGvt_inShape (passJobs_inShape _ _ _ (.foldl (fun _ _ h => .ite (fun _ => h)
    (fun _ => withdrawClaims_inShape _ h)) _ hs)))

theorem decisionPass_inShape (hs : InShape s) : InShape (decisionPass s) := by
  unfold decisionPass
  exact passAt_inShape _ hs

theorem tryNext_inShape (r : Nat) (hs : InShape s) : InShape (tryNext r s) := by
  unfold tryNext
  split
  · exact hs
  · split
    · exact hs
    · exact .getD (withdrawClaims_inShape _ hs) (claimFor_inShape _ _ _ _ _ (withdrawClaims_inShape _ hs))

theorem dropJobs_inShape (t : Job → Bool) (hs : InShape s) : InShape (dropJobs t s) := by
  unfold dropJobs
  split
  · exact hs
  · exact decisionPass_inShape (.foldl (fun _ _ h => dropJob_inShape _ h) _ hs)

theorem addJob_inShape (j : Job) (hs : InShape s) : InShape (addJob j s) := by
  unfold addJob
  dsimp only
  exact settleReady_inShape ((joinSet_inShape _ hs).sched rfl)

theorem writeBatch_inShape (l : Nat) (hs : InShape s) : InShape (writeBatch l s) :=
  hs.within (writeBatch_within _ (.refl _ _) (.refl _))

theorem journalPut_inShape (ctx : Nat) (j : Jnl) (hs : InShape s) : InShape (journalPut ctx j s).2 := by
  unfold journalPut
  dsimp only
  split
  · exact hs
  · split
    · exact bump_inShape _ (dropItem_inShape _ _ _ (locWrite_inShape _ _ _ (locWrite_inShape _ _ _ hs)))
    · exact hs

theorem journalOne_inShape (l : Nat) (hs : InShape s) : InShape (journalOne l s) := by
  unfold journalOne
  dsimp only
  split
  · exact hs
  · split
    · exact hs
    · exact State.modLoop_inShape _ _ (journalPut_inShape _ _ hs)

theorem journalDrain_inShape (l n : Nat) (hs : InShape s) : InShape (journalDrain l n s) := by
  induction n generalizing s with
  | zero => exact hs
  | succ n ih => exact ih (journalOne_inShape _ hs)

theorem seqEnded_inShape (seqId : Nat) (hs : InShape s) : InShape (seqEnded seqId s) := by
  unfold seqEnded
  dsimp only
  exact mapQueues_inShape _ hs (fun _ _ w => w)

theorem dropSeq_inShape (i : Nat) (hs : InShape s) : InShape (dropSeq i s) := by
  unfold dropSeq
  split
  · exact hs
  · exact seqEnded_inShape _ (freeSeq_inShape _ (unrefAll_inShape _ (freePages_inShape _ hs)))

theorem dropEntry_inShape (l i : Nat) (hs : InShape s) : InShape (dropEntry l i s) := by
  unfold dropEntry
  dsimp only
  split
  · exact hs
  · exact .ite (fun _ => .unless (State.modLoop_inShape _ _ hs) (fun h => writeBatch_inShape _ h)) (fun _ => hs)

theorem endSeq_inShape (i : Nat) (st : Status) (reason stop : Nat) (hs : InShape s) : InShape (endSeq i st reason stop s) := by
  unfold endSeq
  dsimp only
  split
  · exact hs
  · refine dropEntry_inShape _ _ ?_
    refine seqEnded_inShape _ ?_
    refine freeSeq_inShape _ ?_
    refine unrefAll_inShape _ ?_
    refine State.modLoop_inShape _ _ ?_
    exact .unless (.unless (.unless (freePages_inShape _ hs) (fun h => locWrite_inShape _ _ _ h)) (fun h => signalFence_inShape _ _ _
      h)) (fun h => journal_inShape _ _ _ _ _ _ _ h)

theorem removeModel_inShape (id : Nat) (hs : InShape s) : InShape (removeModel id s) := by
  unfold removeModel
  dsimp only
  split
  · exact hs
  · exact unref_inShape _ (freeFrames_inShape _ ((stopJobs_inShape _ hs).wrd rfl rfl))

theorem reapModel_inShape (id : Nat) (hs : InShape s) : InShape (reapModel id s) := by
  unfold reapModel
  dsimp only
  split
  · exact hs
  · exact .ite (fun _ => removeModel_inShape _ hs) (fun _ => hs)

theorem reapModels_inShape (hs : InShape s) : InShape (reapModels s) := by
  unfold reapModels
  exact .foldl (fun _ _ h => reapModel_inShape _ h) _ hs

theorem dropLoopRes_inShape (l : Nat) (hs : InShape s) : InShape (dropLoopRes l s) := by
  unfold dropLoopRes
  dsimp only
  split
  · exact releaseRes_inShape _ (dropSave_inShape _ (dropJobs_inShape _ hs))
  · exact dropJobs_inShape _ hs

theorem leaveJournal_inShape (l : Nat) (hs : InShape s) : InShape (leaveJournal l s) := by
  unfold leaveJournal
  dsimp only
  split
  · split
    · exact .ite (fun _ => journalDrain_inShape _ _ hs) (fun _ => hs)
    · exact hs
  · split
    · split
      · exact .ite (fun _ => journalDrain_inShape _ _ hs) (fun _ => hs)
      · exact hs
    · refine .ite (fun _ => ?_) (fun _ => ?_)
      · refine dropQueue_inShape _ _ ?_
        split
        · exact .ite (fun _ => journalDrain_inShape _ _ hs) (fun _ => hs)
        · exact hs
      · refine addRef_inShape _ ?_
        refine InShape.trestle ?_ rfl
        split
        · exact .ite (fun _ => journalDrain_inShape _ _ hs) (fun _ => hs)
        · exact hs

theorem dropLeft_inShape (c : Nat) (hs : InShape s) : InShape (dropLeft c s) := by
  unfold dropLeft
  dsimp only
  exact .foldl (fun _ _ h => unref_inShape _ (dropQueue_inShape _ _ h)) _ (hs.trestle rfl)

theorem replayResult_inShape (lp : Loop) (hs : InShape s) : InShape (replayResult lp s) := by
  unfold replayResult
  split
  · exact hs
  · exact addResult_inShape _ _ _ _ hs

theorem closeLoop_inShape (l : Nat) (hs : InShape s) : InShape (closeLoop l s) := by
  unfold closeLoop
  dsimp only
  split
  · exact hs
  · refine reapModels_inShape ?_
    split
    · exact finishOk_inShape _ _ (unrefAll_inShape _ (unbind_inShape _ _ (replayResult_inShape _ ((dropQueue_inShape _ _
        (dropLoopRes_inShape _ (leaveJournal_inShape _ hs))).trestle rfl))))
    · exact unrefAll_inShape _ (unbind_inShape _ _ (replayResult_inShape _ ((dropQueue_inShape _ _ (dropLoopRes_inShape _
        (leaveJournal_inShape _ hs))).trestle rfl)))

theorem closeIfDone_inShape (l : Nat) (hs : InShape s) : InShape (closeIfDone l s) := by
  unfold closeIfDone
  split
  · exact hs
  · exact .ite (fun _ => closeLoop_inShape _ hs) (fun _ => hs)

theorem contextRecords_inShape (c tag : Nat) (hs : InShape s) : InShape (contextRecords c tag s) :=
  hs.within (contextRecords_within _ _ (.refl _ _) (.refl _))

theorem stopWork_inShape (t : Nat → Nat → Bool) (hs : InShape s) : InShape (stopWork t s) := by
  unfold stopWork
  lift_lets
  intro s1 s2 _ s3 s4 gone _ _ _
  have h3 : InShape s3 := (requestStops_inShape _ (stopJobs_inShape _ hs)).link rfl
  have h4 : InShape s4 := dropJobs_inShape _ h3
  exact h4.of_shape rfl

theorem settleStops_inShape (hs : InShape s) : InShape (settleStops s) := by
  unfold settleStops
  dsimp only
  exact mapQueues_inShape _ hs (fun _ _ w => w)

theorem qResult_inShape (r : Nat) (hs : InShape s) : InShape (qResult r s) := by
  unfold qResult
  dsimp only
  exact hs.front rfl

theorem settleQueue_inShape (k : Nat) (hs : InShape s) : InShape (settleQueue k s) := by
  unfold settleQueue
  dsimp only
  split
  · exact hs
  · exact .ite (fun _ => .when (State.modQ_inShape _ _ hs (fun _ w => w)) (fun h => qResult_inShape _ h)) (fun _ => hs)

theorem Queue.shut_windowOk (l : Latch) (now : Nat) (q : Queue) : (q.shut l now).WindowOk :=
  ⟨rfl, fun x hx => by rw [List.eq_of_mem_replicate hx]; exact Nat.zero_le _⟩

theorem shutQueue_inShape (k : Nat) (l : Latch) (hs : InShape s) : InShape (shutQueue k l s) := by
  unfold shutQueue
  dsimp only
  split
  · exact hs
  · refine settleQueue_inShape _ ?_
    refine settleStops_inShape ?_
    refine dropShadows_inShape ?_
    exact stopWork_inShape _ (State.modQ_inShape _ _ (.foldl (fun _ _ h => dropCmdCells_inShape _ _ _ h) _ (.foldl (fun _ _ h =>
      dropItem_inShape _ _ _ h) _ (discardCells_inShape _ _ hs))) (fun _ _ => Queue.shut_windowOk _ _ _))

theorem dropIdleRes_inShape (c : Nat) (hs : InShape s) : InShape (dropIdleRes c s) := by
  unfold dropIdleRes
  exact .foldl (fun _ _ h => .ite (fun _ => releaseRes_inShape _ (dropSave_inShape _ h)) (fun _ => h)) _ hs

theorem forgetReleases_inShape (c : Nat) (hs : InShape s) : InShape (forgetReleases c s) :=
  hs.within (forgetReleases_within _ (.refl _ _) (.refl _))

theorem markTeardown_inShape (c : Nat) (fault : Bool) (info : FaultInfo) (headRec : Option (Nat × List Byte)) (x : Context)
    (hs : InShape s) :
    InShape (markTeardown c fault info headRec x s) := by
  unfold markTeardown
  lift_lets
  intro info' _ s1 s2 _
  have h1 : InShape s1 := .ite (fun _ => contextRecords_inShape _ _ (hutchRec_inShape _ _ _ hs)) (fun _ => hs)
  have h2 : InShape s2 := h1.putContext _ _
  exact .ite (fun _ => h2.watch _) (fun _ => h2)

theorem oweMsix_inShape (mine : Nat → Bool) (hs : InShape s) : InShape (oweMsix mine s) := by
  unfold oweMsix
  exact mapQueues_inShape _ hs (fun _ _ w => .ite w w)

theorem stopContext_inShape (c : Nat) (fault : Bool) (l : Latch) (hs : InShape s) : InShape (stopContext c fault l s) := by
  unfold stopContext
  dsimp only
  refine decisionPass_inShape ?_
  refine dropIdleRes_inShape _ ?_
  exact (dropJobs_inShape _ (requestStops_inShape _ (.foldl (fun _ _ h => .ite (fun _ => shutQueue_inShape _ _ h) (fun _ => h)) _
    (.when (forgetReleases_inShape _ hs) (fun h => oweMsix_inShape _ h))))).link rfl

theorem beginTeardown_inShape (c : Nat) (fault : Bool) (info : FaultInfo) (headRec : Option (Nat × List Byte)) (hs : InShape s) :
    InShape (beginTeardown c fault info headRec s) := by
  unfold beginTeardown
  split
  · exact hs
  · exact .ite (fun _ => hs) (fun _ => stopContext_inShape _ _ _ (markTeardown_inShape _ _ _ _ _ hs))

theorem faultLatch_inShape (k pos : Nat) (st : Status) (aux : Nat) (hs : InShape s) : InShape (faultLatch k pos st aux s) := by
  unfold faultLatch
  dsimp only
  exact dropCmdCells_inShape _ _ _ (State.modC_inShape _ _ _ hs)

theorem faultCmd_inShape (k pos : Nat) (info : FaultInfo) (headRec : Option (Nat × List Byte)) (hs : InShape s) :
    InShape (faultCmd k pos info headRec s) := by
  unfold faultCmd
  split
  · exact hs
  · split
    · exact hs
    · exact beginTeardown_inShape _ _ _ _ (faultLatch_inShape _ _ _ _ hs)

theorem faultStream_inShape (p st : Nat) (info : FaultInfo) (headRec : Option (Nat × List Byte)) (hs : InShape s) :
    InShape (faultStream p st info headRec s) := by
  unfold faultStream
  dsimp only
  split
  · exact hs
  · split
    · exact faultCmd_inShape _ _ _ _ hs
    · exact beginTeardown_inShape _ _ _ _ hs

theorem memFaultCmd_inShape (k pos source bank : Nat) (hs : InShape s) : InShape (memFaultCmd k pos source bank s) := by
  unfold memFaultCmd
  exact faultCmd_inShape _ _ _ _ hs

theorem tierFaultCmd_inShape (k pos source : Nat) (t : Tier) (address : Nat) (hs : InShape s) :
    InShape (tierFaultCmd k pos source t address s) := by
  unfold tierFaultCmd
  exact faultCmd_inShape _ _ _ _ hs

theorem stageRec_inShape (stage event cause slot elapsed flags part : Nat) (hs : InShape s) :
    InShape (stageRec stage event cause slot elapsed flags part s) :=
  hs.within (stageRec_within _ _ _ _ _ _ _ (.refl _ _) (.refl _))

theorem notify_inShape (hs : InShape s) : InShape (notify s) := hs.within (notify_within (.refl _ _) (.refl _))

theorem writeDump_inShape (d : List Byte) (hs : InShape s) : InShape (writeDump d s) :=
  hs.within (writeDump_within _ (.refl _ _) (.refl _))

theorem addStage_inShape (x : Stage) (hs : InShape s) : InShape (addStage x s) := hs.within (addStage_within _ (.refl _ _) (.refl _))

theorem modStage_inShape (n unit : Nat) (f : Stage → Stage) (hs : InShape s) : InShape (modStage n unit f s) :=
  hs.within (modStage_within _ _ _ (.refl _ _) (.refl _))

theorem dropStage_inShape (n unit : Nat) (hs : InShape s) : InShape (dropStage n unit s) :=
  hs.within (dropStage_within _ _ (.refl _ _) (.refl _))

theorem orderStage4_inShape (cause : Nat) (byCmd : Bool) (hs : InShape s) : InShape (orderStage4 cause byCmd s) :=
  hs.within (orderStage4_within _ _ (.refl _ _) (.refl _))

theorem orderStage3_inShape (cause : Nat) (byCmd flr : Bool) (hs : InShape s) : InShape (orderStage3 cause byCmd flr s) := by
  unfold orderStage3
  refine .ite (fun _ => hs) (fun _ => ?_)
  lift_lets
  intro _ s1 _ s2 slot s3 s4 _ s5 _ s6 _ info s7 s8 runs s9 s10 s11 s12
  have h1 : InShape s1 := .ite (fun _ => hs.watch _) (fun _ => hs)
  have h5 : InShape s5 := (notify_inShape (writeDump_inShape _ (stageRec_inShape _ _ _ _ _ _ _ (h1.watch _)))).chest rfl rfl
  have h6 : InShape s6 := .ite (fun _ => h5.port _) (fun _ => h5)
  have h8 : InShape s8 := .foldl (fun _ _ h => forgetReleases_inShape _ h) _ (h6.mapContexts _)
  have h9 : InShape s9 := .foldl (fun _ _ h => State.modC_inShape _ _ _ h) _ h8
  have h11 : InShape s11 :=
    .foldl (fun _ _ h => .ite (fun _ => shutQueue_inShape _ _ h) (fun _ => h)) _ (oweMsix_inShape _ h9)
  have h12 : InShape s12 := settleStops_inShape (stopJobs_inShape _ (requestStops_inShape _ h11))
  exact trace_inShape _ _ _ _ _ (addStage_inShape _ h12)

theorem clearBystanders_inShape (p : Nat) (hs : InShape s) : InShape (clearBystanders p s) := by
  unfold clearBystanders
  dsimp only
  refine .foldl ?_ _ ?_
  · intro _ _ h
    split
    · exact h
    · refine .ite (fun _ => ?_) (fun _ => ?_)
      · exact h
      · split
        · exact releaseRes_inShape _ h
        · exact .getD h (saveRes_inShape _ h)
  · exact .foldl (fun _ _ h => withdrawClaims_inShape _ h) _ hs

theorem killRuns_inShape (p : Nat) (hs : InShape s) : InShape (killRuns p s) := by
  unfold killRuns
  dsimp only
  exact requestStops_inShape _ (.foldl (fun _ _ h => State.modC_inShape _ _ _ h) _ hs)

theorem orderStage2_inShape (p cause : Nat) (byCmd test : Bool) (hs : InShape s) : InShape (orderStage2 p cause byCmd test s) := by
  unfold orderStage2
  dsimp only
  refine .ite (fun _ => ?_) (fun _ => ?_)
  · exact hs
  · split
    · exact .ite (fun _ => modStage_inShape _ _ _ hs) (fun _ => hs)
    · refine trace_inShape _ _ _ _ _ ?_
      refine addStage_inShape _ ?_
      refine clearBystanders_inShape _ ?_
      refine .of_shape (s := notify _) (notify_inShape ?_) rfl
      exact .unless (stageRec_inShape _ _ _ _ _ _ _ hs) (fun h => writeDump_inShape _ h)

theorem stageEnd_inShape (x : Stage) (flags : Nat) (hs : InShape s) : InShape (stageEnd x flags s) :=
  hs.within (stageEnd_within _ _ (.refl _ _) (.refl _))

theorem rstDone_inShape (result : Nat) (hs : InShape s) : InShape (rstDone result s) :=
  hs.within (rstDone_within _ (.refl _ _) (.refl _))

theorem machineCheck_inShape (code unit detail : Nat) (hs : InShape s) : InShape (machineCheck code unit detail s) := by
  unfold machineCheck
  dsimp only
  exact orderStage3_inShape _ _ _ (notify_inShape ((hutchRec_inShape _ _ _ hs).watch _))

end

end Sys2Proof.Machine
end

section
/-! SUPPORT for O59. The commands of the front, of Bramble, Wardrobe and Trestle keep the shape. -/

set_option Elab.async false

namespace Sys2Proof.Machine

section
variable {s t : State}

theorem recordRead_inShape (c q : Nat) (x : CtxRec) (hs : InShape s) : InShape (recordRead c q x s) := by
  unfold recordRead
  dsimp only
  refine readFor_inShape _ _ _ ?_
  split
  · exact dropItem_inShape _ _ _ (evalChest_inShape (grantNow_inShape _ hs _ ‹_›))
  · exact hs

theorem Queue.enable_windowOk (r : QueueRec) (now : Nat) : (Queue.enable r now).WindowOk := Queue.reset_windowOk

theorem queueEnable_inShape (c q : Nat) (rd : HostRead) (wr : HostStatus) (hs : InShape s) : InShape (queueEnable c q rd wr s) := by
  unfold queueEnable
  dsimp only
  refine .ite (fun _ => ?_) (fun _ => ?_)
  · exact cmdIgnored_inShape _ hs
  · split
    · exact qResult_inShape _ hs
    · refine .ite (fun _ => ?_) (fun _ => ?_)
      · exact qResult_inShape _ hs
      · refine .ite (fun _ => ?_) (fun _ => ?_)
        · exact qResult_inShape _ hs
        · split
          · split
            · exact qResult_inShape _ (recordRead_inShape _ _ _ hs)
            · refine .ite (fun _ => ?_) (fun _ => ?_)
              · exact qResult_inShape _ (recordRead_inShape _ _ _ hs)
              · split
                · exact qResult_inShape _ (modQueue_inShape _ _ _ (discardCells_inShape _ _ (hostWrite_inShape _ _ _
                    (recordRead_inShape _ _ _ hs))) (fun _ _ => Queue.enable_windowOk _ _))
                · exact qResult_inShape _ (beginTeardown_inShape _ _ _ _ (recordRead_inShape _ _ _ hs))
          · exact qResult_inShape _ (recordRead_inShape _ _ _ hs)

theorem queueShutdown_inShape (c q : Nat) (hs : InShape s) : InShape (queueShutdown c q s) := by
  unfold queueShutdown
  dsimp only
  refine .ite (fun _ => ?_) (fun _ => ?_)
  · exact cmdIgnored_inShape _ hs
  · split
    · exact qResult_inShape _ hs
    · refine .ite (fun _ => qResult_inShape _ hs) (fun _ => ?_)
      exact .ite (fun _ => qResult_inShape _ hs) (fun _ => shutQueue_inShape _ _ (hs.front rfl))

theorem queueShutdownHang_inShape (c q : Nat) (hs : InShape s) : InShape (queueShutdownHang c q s) := by
  unfold queueShutdownHang
  dsimp only
  exact .ite (fun _ => beginTeardown_inShape _ _ _ _ hs) (fun _ => hs)

theorem countCtxDrop_inShape (c : Nat) (other : Bool) (hs : InShape s) : InShape (countCtxDrop c other s) := by
  unfold countCtxDrop
  dsimp only
  exact hs.front rfl

theorem takePushes_inShape (k : Nat) (tenant : Option Nat) (l : List Fetched) (hs : InShape s) :
    InShape (takePushes k tenant l s).2 := by
  induction l generalizing s with
  | nil => exact hs
  | cons f t ih =>
    simp only [takePushes]
    split
    · exact ih hs
    · next e =>
      split at e
      · cases e
      · exact ih (takeSkid_inShape _ hs _ e)

theorem Queue.produce_windowOk (v now : Nat) (fs : List Fetched) (q : Queue) (w : q.WindowOk) : (q.produce v now fs).WindowOk := by
  unfold Queue.produce
  split
  · exact w
  · split
    · exact w
    · exact ⟨rfl, by simp⟩

theorem Queue.consume_windowOk (v : Nat) (q : Queue) (w : q.WindowOk) : (q.consume v).WindowOk := by
  unfold Queue.consume
  split <;> exact w

theorem produceAt_inShape (c q v : Nat) (hs : InShape s) : InShape (produceAt c q v s) := by
  unfold produceAt
  dsimp only
  exact .unless (modQueue_inShape _ _ _ (takePushes_inShape _ _ _ hs) (Queue.produce_windowOk _ _ _))
    (fun h => trace_inShape _ _ _ _ _ h)

theorem doorbellAt_inShape (c q w size : Nat) (v : W64) (hs : InShape s) : InShape (doorbellAt c q w size v s) := by
  unfold doorbellAt
  dsimp only
  refine .ite (fun _ => modQueue_inShape _ _ _ hs (fun _ w => w)) (fun _ => ?_)
  refine .ite (fun _ => modQueue_inShape _ _ _ hs (fun _ w => w)) (fun _ => ?_)
  refine .ite (fun _ => modQueue_inShape _ _ _ (.ite (fun _ => hs) (fun _ => produceAt_inShape _ _ _ hs)) (Queue.consume_windowOk _))
    (fun _ => ?_)
  exact .when (.ite (fun _ => hs) (fun _ => produceAt_inShape _ _ _ hs)) (fun h => modQueue_inShape _ _ _ h (Queue.consume_windowOk _))

theorem writeSlot_length_le (sl : List (Option Byte)) (off : Nat) (bs : List Byte) (h : sl.length ≤ 64) :
    (writeSlot sl off bs).length ≤ 64 := by
  have hset (l : List (Byte × Nat)) (a : List (Option Byte)) :
      (l.foldl (fun a e => a.set (off + e.2) (some e.1)) a).length = a.length := by
    induction l generalizing a with
    | nil => rfl
    | cons e l ih => exact (ih _).trans List.length_set
  simp only [writeSlot, hset, List.length_append, List.length_replicate]
  omega

theorem pushAt_inShape (c q o : Nat) (bytes : List Byte) (hs : InShape s) : InShape (pushAt c q o bytes s) := by
  unfold pushAt
  refine .ite (fun _ => modQueue_inShape _ _ _ hs (fun _ w => w)) (fun _ => modQueue_inShape _ _ _ hs fun a w => ?_)
  refine ⟨by simpa using w.1, fun l hl => ?_⟩
  obtain ⟨e, he, rfl⟩ := List.mem_map.1 hl
  have hlen := w.2 e.1 (List.fst_mem_of_mem_zipIdx he)
  dsimp only
  split
  · exact hlen
  · exact writeSlot_length_le _ _ _ hlen

theorem bar2Write_inShape (fn off size : Nat) (v : W64) (bytes : List Byte) (hs : InShape s) :
    InShape (bar2Write fn off size v bytes s) := by
  unfold bar2Write
  dsimp only
  refine .ite (fun _ => ?_) (fun _ => ?_)
  · exact hs
  · split
    · exact hs
    · refine .ite (fun _ => countCtxDrop_inShape _ _ hs) (fun _ => ?_)
      refine .ite (fun _ => .ite (fun _ => countCtxDrop_inShape _ _ hs) (fun _ => doorbellAt_inShape _ _ _ _ _ hs)) (fun _ => ?_)
      exact .unless (countCtxDrop_inShape _ _ hs) (fun h => .ite (fun _ => h) (fun _ => pushAt_inShape _ _ _ _ hs))

theorem doorbellWrite_inShape (fn off size : Nat) (v : W64) (hs : InShape s) : InShape (doorbellWrite fn off size v s) := by
  unfold doorbellWrite
  exact bar2Write_inShape _ _ _ _ _ hs

theorem pushWrite_inShape (fn off : Nat) (bytes : List Byte) (hs : InShape s) : InShape (pushWrite fn off bytes s) := by
  unfold pushWrite
  exact bar2Write_inShape _ _ _ _ _ hs

theorem takeFetch_inShape (k : Nat) (tenant : Option Nat) (p n : Nat) (hs : InShape s) : InShape (takeFetch k tenant p n s).2 := by
  induction n generalizing p s with
  | zero => exact hs
  | succ n ih => exact ih _ (askCells_inShape _ hs)

theorem fetchIssue_inShape (c q n : Nat) (hs : InShape s) : InShape (fetchIssue c q n s) := by
  unfold fetchIssue
  dsimp only
  refine .ite (fun _ => ?_) (fun _ => ?_)
  · split
    · exact readReq_inShape _ _ _ _ (trace_inShape _ _ _ _ _ (bump_inShape _ (modQueue_inShape _ _ _ (.of_snd ‹_›
        (takeFetch_inShape _ _ _ _ hs)) (fun _ w => w))))
    · exact .of_snd ‹_› (takeFetch_inShape _ _ _ _ hs)
    · exact hs
  · exact hs

theorem entryArrived_inShape (c q pos : Nat) (b : List Byte) (hs : InShape s) : InShape (entryArrived c q pos b s) := by
  unfold entryArrived
  dsimp only
  exact .ite (fun _ => fillItem_inShape _ _ _ _ (modQueue_inShape _ _ _ hs (fun _ w => w))) (fun _ => dropItem_inShape _ _ _ hs)

theorem fetchReturn_inShape (c q : Nat) (rd : HostRead) (hs : InShape s) : InShape (fetchReturn c q rd s) := by
  unfold fetchReturn
  dsimp only
  split
  · split
    · exact .foldl (fun _ _ h => entryArrived_inShape _ _ _ _ h) _ (charge_inShape _ _ _ (memWrite_inShape _ _ (modQueue_inShape _ _ _
        hs (fun _ w => w))))
    · exact beginTeardown_inShape _ _ _ _ (modQueue_inShape _ _ _ hs (fun _ w => w))
  · exact hs

theorem fetcherGoIdle_inShape (c q : Nat) (hs : InShape s) : InShape (fetcherGoIdle c q s) := by
  unfold fetcherGoIdle
  dsimp only
  refine .ite (fun _ => modQueue_inShape _ _ _ hs (fun _ w => w)) (fun _ => ?_)
  exact .ite (fun _ => modQueue_inShape _ _ _ hs (fun _ w => w)) (fun _ => hs)

theorem moveEntries_inShape (k : Nat) (tenant : Option Nat) (l : List Fetched) (hs : InShape s) :
    InShape (moveEntries k tenant l s).2 := by
  induction l generalizing s with
  | nil => exact hs
  | cons f t ih =>
    simp only [moveEntries]
    have h : InShape (if f.latch.isSome = true then (true, dropItem 0 k f.pos s)
        else askMove 0 k (itemReq 1 k tenant f.pos 1 (some f.entry)) s).2 := by
      split
      · exact dropItem_inShape _ _ _ hs
      · exact askMove_inShape _ _ _ hs
    split
    · next e => exact .of_snd e h
    · next e => exact ih (.of_snd e h)

theorem grantCtx_inShape (c : Nat) (hs : InShape s) : InShape (grantCtx c s) := by
  have hc : InShape (match wrrPick c s with
      | some _ => s
      | none => s.modQueues (fun t => tmapv t (fun k x => if k / 256 = c then { x with credit := x.rcd.weight } else x))) := by
    split
    · exact hs
    · exact mapQueues_inShape _ hs fun k q w => .ite w w
  unfold grantCtx
  dsimp only
  split
  · exact hc
  · split
    · exact hc
    · refine .ite (fun _ => moveEntries_inShape _ _ _ hc) (fun _ => ?_)
      refine InShape.front ?_ rfl
      exact State.modQ_inShape _ _ (moveEntries_inShape _ _ _ hc) (fun _ w => w)

theorem arbiterGrant_inShape (slot : Option Nat) (hs : InShape s) : InShape (arbiterGrant slot s) := by
  unfold arbiterGrant
  dsimp only
  refine .ite (fun _ => ?_) (fun _ => ?_)
  · exact hs
  · split
    · exact hs
    · split <;> exact (grantCtx_inShape _ hs).front rfl

theorem graphBoundary_inShape (r : Nat) (hs : InShape s) : InShape (graphBoundary r s) := by
  unfold graphBoundary
  dsimp only
  split
  · exact hs
  · refine .ite (fun _ => ?_) (fun _ => ?_)
    · exact decisionPass_inShape (releaseRes_inShape _ (countVacate_inShape (settleReady_inShape (State.modRes_inShape _ _ hs))))
    · refine .ite (fun _ => decisionPass_inShape (releaseRes_inShape _ (settleReady_inShape (State.modRes_inShape _ _ hs))))
        (fun _ => ?_)
      exact passAt_inShape _ (settleReady_inShape (State.modRes_inShape _ _ hs))

theorem retireCmd_inShape (c q : Nat) (m : Cmd) (l : Latch) (hs : InShape s) : InShape (retireCmd c q m l s) := by
  unfold retireCmd
  lift_lets
  intro k s1 unread tag s2 s3 r res s4 s5 s6 s7 s8
  have h1 : InShape s1 := dropCmdCells_inShape _ _ _ (dropItem_inShape _ _ _ (charge_inShape _ _ _ hs))
  have h2 : InShape s2 := .foldl (fun _ _ h => locWrite_inShape _ _ _ h) _ h1
  have h3 : InShape s3 := .ite (fun _ => .foldl (fun _ _ h => signalOut_inShape _ _ _ _ _ h) _ h2) (fun _ => h2)
  have h4 : InShape s4 := takeOrWait_inShape _ (State.modQ_inShape _ _ h3 (fun _ w => w))
  have h5 : InShape s5 := unpinAll_inShape _ h4
  have h6 : InShape s6 := by
    dsimp only [s6]
    split
    · exact unbind_inShape _ _ h5
    · exact h5
  have h7 : InShape s7 := reapModels_inShape (dropShadows_inShape (trace_inShape _ _ _ _ _ h6))
  have h8 : InShape s8 := by
    clear_value res s7
    rcases res with _ | ⟨id, _⟩
    · exact h7
    · exact .ite (fun _ => graphBoundary_inShape _ h7) (fun _ => h7)
  exact settleQueue_inShape _ h8

theorem commandRetire_inShape (c q : Nat) (hs : InShape s) : InShape (commandRetire c q s) := by
  unfold commandRetire
  split
  · exact hs
  · refine .ite (fun _ => ?_) (fun _ => ?_)
    · exact hs
    · split
      · split
        · exact .ite (fun _ => hs) (fun _ => retireCmd_inShape _ _ _ _ hs)
        · exact hs
      · split
        · exact retireCmd_inShape _ _ _ _ (State.modQ_inShape _ _ hs (fun _ w => w))
        · exact .ite (fun _ => retireCmd_inShape _ _ _ _ hs) (fun _ => hs)

theorem spillDetail_inShape (k : Nat) (r : List Byte) (hs : InShape s) : InShape (spillDetail k r s) := by
  unfold spillDetail
  dsimp only
  exact State.modQ_inShape _ _ (portWrite_inShape _ _ _ _ hs) (fun _ w => w)

theorem detailDue_inShape (c q : Nat) (r : Retired) (hs : InShape s) : InShape (detailDue c q r s) := by
  unfold detailDue
  dsimp only
  split
  · refine .ite (fun _ => hs) (fun _ => ?_)
    refine .ite (fun _ => State.modQ_inShape _ _ hs (fun _ w => w)) (fun _ => ?_)
    refine .ite (fun _ => ?_) (fun _ => ?_)
    · exact .when (.when (State.modQ_inShape _ _ hs (fun _ w => w)) (fun h => spillDetail_inShape _ _ h)) (fun h => raiseEvent_inShape _
        h)
    · exact State.modQ_inShape _ _ (hostWrite_inShape _ _ _ hs) (fun _ w => w)
  · exact hs

theorem sendMsix_inShape (c q : Nat) (hs : InShape s) : InShape (sendMsix c q s) := by
  unfold sendMsix
  split
  · exact hs
  · exact msix_inShape _ _ (State.modQ_inShape _ _ hs (fun _ w => w))

theorem dropCompletion_inShape (k pos : Nat) (hs : InShape s) : InShape (dropCompletion k pos s) := by
  unfold dropCompletion
  exact dropItem_inShape _ _ _ (State.modChest_inShape hs (fun _ => rfl) (fun _ => rfl))

theorem completionWordWrite_inShape (c q : Nat) (hs : InShape s) : InShape (completionWordWrite c q s) := by
  unfold completionWordWrite
  dsimp only
  split
  · refine .ite (fun _ => ?_) (fun _ => ?_)
    · exact hs
    · refine .ite (fun _ => ?_) (fun _ => ?_)
      · exact .ite (fun _ => settleQueue_inShape _ (sendMsix_inShape _ _ hs)) (fun _ => hs)
      · refine settleQueue_inShape _ ?_
        refine .when ?_ ?_
        · exact bump_inShape _ (State.modQ_inShape _ _ (.foldl (fun _ _ h => dropCompletion_inShape _ _ h) _ (hostWrite_inShape _ _ _
            (.foldl (fun _ _ h => detailDue_inShape _ _ _ h) _ hs))) (fun _ w => w))
        · exact fun h => sendMsix_inShape _ _ h
  · exact hs

theorem msixModerationTimeout_inShape (c q : Nat) (hs : InShape s) : InShape (msixModerationTimeout c q s) := by
  unfold msixModerationTimeout
  split
  · exact hs
  · exact .ite (fun _ => sendMsix_inShape _ _ hs) (fun _ => hs)

theorem queueTimeout_inShape (c q : Nat) (hs : InShape s) : InShape (queueTimeout c q s) := by
  unfold queueTimeout
  dsimp only
  split
  · exact hs
  · refine .ite (fun _ => ?_) (fun _ => ?_)
    · split
      · refine .unless ?_ ?_
        · exact trace_inShape _ _ _ _ _ (State.modQ_inShape _ _ hs (fun _ w => w))
        · exact fun h => .ite (fun _ => State.modQ_inShape _ _ h (fun _ w => w)) (fun _ => dropShadows_inShape (stopWork_inShape _
            (takeLatch_inShape _ _ _ _ h)))
      · exact dropItem_inShape _ _ _ (dropItem_inShape _ _ _ (State.modQ_inShape _ _ (trace_inShape _ _ _ _ _ (State.modQ_inShape _ _ hs
          (fun _ w => w))) (fun _ w => .ite w w)))
    · exact hs

theorem addVersion_inShape (g imageKey : Nat) (b : List Byte) (hs : InShape s) : InShape (addVersion g imageKey b s) := by
  unfold addVersion
  dsimp only
  exact .foldl (fun _ _ h => dropRefMem_inShape _ h) _ (dropLines_inShape _ _ (addRef_inShape _ (hs.graphs _)))

theorem askPayload_inShape (k pos n : Nat) (hs : InShape s) : InShape (askPayload k pos n s).2 := by
  unfold askPayload
  split
  · exact hs
  · exact askCells_inShape _ hs

theorem tierReads_inShape (k pos : Nat) (l : List (Loc × List Byte)) (hs : InShape s) : InShape (tierReads k pos l s).2 := by
  induction l generalizing s with
  | nil => exact hs
  | cons r t ih =>
    simp only [tierReads]
    split
    · next e => exact .of_snd e (askPayload_inShape _ _ _ hs)
    · next e => exact ih (fillItem_inShape _ _ _ _ (readFor_inShape _ _ _ (.of_snd e (askPayload_inShape _ _ _ hs))))

theorem nextOrder_inShape (hs : InShape s) : InShape (nextOrder s) := hs.within (nextOrder_within (.refl _ _) (.refl _))

theorem pinNew_inShape (held pins : List Nat) (hs : InShape s) : InShape (pinNew held pins s) :=
  hs.within (pinNew_within _ _ (.refl _ _) (.refl _))

theorem holdCmd_inShape (k : Nat) (m : Cmd) (why : HoldCause) (reads : List (Loc × List Byte)) (hs : InShape s) :
    InShape (holdCmd k m why reads s) := by
  unfold holdCmd
  dsimp only
  split
  · exact State.modC_inShape _ _ _ hs
  · exact nextOrder_inShape (State.modC_inShape _ _ _ hs)

theorem commitAccept_inShape (k : Nat) (m : Cmd) (v : AccEnv) (behind : Bool) (hs : InShape s) :
    InShape (commitAccept k m v behind s) := by
  unfold commitAccept
  dsimp only
  refine .ite (fun _ => ?_) (fun _ => ?_)
  · exact holdCmd_inShape _ _ _ _ (hs.objects _)
  · refine .ite (fun _ => ?_) (fun _ => ?_)
    · exact holdCmd_inShape _ _ _ _ (hs.objects _)
    · refine .ite (fun _ => ?_) (fun _ => ?_)
      · exact holdCmd_inShape _ _ _ _ (askPayload_inShape _ _ _ (hs.objects _))
      · refine trace_inShape _ _ _ _ _ ?_
        refine nextOrder_inShape ?_
        refine State.modC_inShape _ _ _ ?_
        refine consumeItem_inShape _ _ _ ?_
        refine consumeItem_inShape _ _ _ ?_
        refine .when ?_ ?_
        · exact .foldl (fun _ _ h => loadShadow_inShape _ _ _ h) _ (pinNew_inShape _ _ (askPayload_inShape _ _ _ (hs.objects _)))
        · intro h
          exact h.updContext _ _

theorem askImage_inShape (c : Nat) (g : Option Obj) (hs : InShape s) : InShape (askImage c g s) :=
  hs.within (askImage_within _ _ (.refl _ _) (.refl _))

theorem beginVerify_inShape (k : Nat) (m : Cmd) (v : AccEnv) (g aux : Nat) (hs : InShape s) : InShape (beginVerify k m v g aux s) := by
  unfold beginVerify
  dsimp only
  refine .ite (fun _ => ?_) (fun _ => ?_)
  · exact holdCmd_inShape _ _ _ _ (askPayload_inShape _ _ _ hs)
  · refine .ite (fun _ => ?_) (fun _ => ?_)
    · exact holdCmd_inShape _ _ _ _ (askPayload_inShape _ _ _ hs)
    · refine State.modC_inShape _ _ _ ?_
      refine askImage_inShape _ _ ?_
      refine pinNew_inShape _ _ ?_
      refine .foldl ?_ _ ?_
      · intro _ _ h
        split
        · exact h.objects _
        · exact h
      · exact askPayload_inShape _ _ _ hs

theorem issueRead_inShape (k : Nat) (m : Cmd) (reads : List (Loc × List Byte)) (l : Loc) (n aux : Nat) (hs : InShape s) :
    InShape (issueRead k m reads l n aux s) := by
  unfold issueRead
  refine .ite (fun _ => ?_) (fun _ => ?_)
  · exact holdCmd_inShape _ _ _ _ hs
  · split
    · exact holdCmd_inShape _ _ _ _ (.of_snd ‹_› (askPayload_inShape _ _ _ hs))
    · exact readReq_inShape _ _ _ _ (State.modC_inShape _ _ _ (.of_snd ‹_› (askPayload_inShape _ _ _ hs)))

theorem envResult_inShape (k : Nat) (m : Cmd) (st : Status) (v : AccEnv) (hs : InShape s) : InShape (envResult k m st v s) := by
  unfold envResult
  split
  · exact addResult_inShape _ _ _ _ hs
  · exact hs

theorem tryAccept_inShape (behind : Bool) (k : Nat) (m : Cmd) (hs : InShape s) : InShape (tryAccept behind k m s) := by
  unfold tryAccept
  dsimp only
  split
  · exact hs
  · split
    · refine .ite (fun _ => ?_) (fun _ => ?_)
      · exact holdCmd_inShape _ _ _ _ hs
      · refine .ite (fun _ => ?_) (fun _ => ?_)
        · exact holdCmd_inShape _ _ _ _ (tierReads_inShape _ _ _ hs)
        · split
          · exact commitAccept_inShape _ _ _ _ (tierReads_inShape _ _ _ hs)
          · exact .unless (tierReads_inShape _ _ _ hs) (fun h => takeLatch_inShape _ _ _ _ (envResult_inShape _ _ _ _ h))
          · exact issueRead_inShape _ _ _ _ _ _ (tierReads_inShape _ _ _ hs)
          · exact beginVerify_inShape _ _ _ _ _ (tierReads_inShape _ _ _ hs)

theorem serveHeld_inShape (slot : Option Nat) (b : Bool) (l : List (Nat × Cmd)) (hs : InShape s) : InShape (serveHeld slot b l s) := by
  induction l generalizing b s with
  | nil => exact hs
  | cons e t ih => exact ih _ (.ite (fun _ => tryAccept_inShape _ _ _ hs) (fun _ => hs))

theorem acceptAgain_inShape (k pos : Nat) (hs : InShape s) : InShape (acceptAgain k pos s) := by
  unfold acceptAgain
  dsimp only
  split
  · exact tryAccept_inShape _ _ _ (serveHeld_inShape _ _ _ hs)
  · exact serveHeld_inShape _ _ _ hs

theorem entryAccept_inShape (c q : Nat) (hs : InShape s) : InShape (entryAccept c q s) := by
  unfold entryAccept
  dsimp only
  split
  · exact serveHeld_inShape _ _ _ hs
  · refine .unless ?_ ?_
    · exact serveHeld_inShape _ _ _ hs
    · intro h
      split
      · exact machineCheck_inShape _ _ _ h
      · exact tryAccept_inShape _ _ _ (bump_inShape _ (h.bramble _))

theorem acceptReadReturn_inShape (c q : Nat) (rd : HostRead) (hs : InShape s) : InShape (acceptReadReturn c q rd s) := by
  unfold acceptReadReturn
  dsimp only
  split
  · exact hs
  · split
    · split
      · refine .ite (fun _ => State.modC_inShape _ _ _ (charge_inShape _ _ _ (memWrite_inShape _ _ hs))) (fun _ => ?_)
        exact acceptAgain_inShape _ _ (bump_inShape _ (State.modC_inShape _ _ _ (fillItem_inShape _ _ _ _ (charge_inShape _ _ _
          (memWrite_inShape _ _ hs)))))
      · exact takeLatch_inShape _ _ _ _ (State.modC_inShape _ _ _ hs)
    · exact hs

theorem chargeImage_inShape (c : Nat) (im : MemObj) (off n : Nat) (hs : InShape s) : InShape (chargeImage c im off n s) := by
  unfold chargeImage
  exact .ite (fun _ => charge_inShape _ _ _ hs) (fun _ => readFor_inShape _ _ _ hs)

theorem lateImage_inShape (c key off n : Nat) (rd : HostRead) (hs : InShape s) : InShape (lateImage c key off n rd s) := by
  unfold lateImage
  split
  · split
    · exact chargeImage_inShape _ _ _ _ hs
    · exact hs
  · exact hs

theorem verifyFirst_inShape (c q : Nat) (m : Cmd) (g aux : Nat) (rd : HostRead) (hs : InShape s) :
    InShape (verifyFirst c q m g aux rd s) := by
  unfold verifyFirst
  dsimp only
  refine .ite (fun _ => ?_) (fun _ => ?_)
  · exact acceptAgain_inShape _ _ (State.modC_inShape _ _ _ hs)
  · split
    · split
      · exact takeLatch_inShape _ _ _ _ hs
      · split
        · exact takeLatch_inShape _ _ _ _ hs
        · split
          · exact takeLatch_inShape _ _ _ _ (chargeImage_inShape _ _ _ _ hs)
          · exact acceptAgain_inShape _ _ (State.modC_inShape _ _ _ (addVersion_inShape _ _ _ (chargeImage_inShape _ _ _ _ hs)))
    · exact takeLatch_inShape _ _ _ _ hs

theorem verifyPatch_inShape (c q : Nat) (m : Cmd) (rd : HostRead) (hs : InShape s) : InShape (verifyPatch c q m rd s) := by
  unfold verifyPatch
  dsimp only
  split
  · exact finish_inShape _ _ _ _ hs
  · split
    · exact finish_inShape _ _ _ _ hs
    · split
      · exact finish_inShape _ _ _ _ (chargeImage_inShape _ _ _ _ hs)
      · refine .ite (fun _ => finish_inShape _ _ _ _ (chargeImage_inShape _ _ _ _ hs)) (fun _ => ?_)
        refine .ite (fun _ => finish_inShape _ _ _ _ (chargeImage_inShape _ _ _ _ hs)) (fun _ => ?_)
        exact finishOk_inShape _ _ (addVersion_inShape _ _ _ (chargeImage_inShape _ _ _ _ hs))

theorem verifyDone_inShape (c q pos : Nat) (rd : HostRead) (hs : InShape s) : InShape (verifyDone c q pos rd s) := by
  unfold verifyDone
  dsimp only
  split
  · exact hs
  · split
    · refine .ite (fun _ => ?_) (fun _ => ?_)
      · exact verifyFirst_inShape _ _ _ _ _ _ hs
      · split
        · exact lateImage_inShape _ _ _ _ _ (State.modC_inShape _ _ _ hs)
        · exact State.modC_inShape _ _ _ hs
    · refine .ite (fun _ => hs) (fun _ => ?_)
      refine .ite (fun _ => dropItem_inShape _ _ _ (verifyPatch_inShape _ _ _ _ hs)) (fun _ => ?_)
      exact lateImage_inShape _ _ _ _ _ (State.modC_inShape _ _ _ hs)
    · exact hs

theorem bindCurrent_inShape (k pos g : Nat) (hs : InShape s) : InShape (bindCurrent k pos g s) := by
  unfold bindCurrent
  split
  · exact bindVer_inShape _ _ (State.modC_inShape _ _ _ hs)
  · exact hs

theorem armJoin_inShape (c q : Nat) (m : Cmd) (hs : InShape s) : InShape (armJoin c q m s) := by
  unfold armJoin
  dsimp only
  exact hs.link rfl

theorem onDispatch_inShape (c q : Nat) (m : Cmd) (hs : InShape s) : InShape (onDispatch c q m s) := by
  unfold onDispatch
  dsimp only
  refine .ite (fun _ => bindCurrent_inShape _ _ _ hs) (fun _ => ?_)
  refine .ite (fun _ => bindCurrent_inShape _ _ _ hs) (fun _ => ?_)
  refine .ite (fun _ => armJoin_inShape _ _ _ hs) (fun _ => ?_)
  exact .ite (fun _ => State.modC_inShape _ _ _ hs) (fun _ => .ite (fun _ => State.modC_inShape _ _ _ hs) (fun _ => hs))

theorem commandDispatch_inShape (c q pos : Nat) (hs : InShape s) : InShape (commandDispatch c q pos s) := by
  unfold commandDispatch
  dsimp only
  split
  · exact hs
  · refine .ite (fun _ => ?_) (fun _ => ?_)
    · refine .ite (fun _ => ?_) (fun _ => ?_)
      · exact dropShadows_inShape (takeLatch_inShape _ _ _ _ hs)
      · split
        · exact .of_snd ‹_› (askCells_inShape _ hs)
        · exact trace_inShape _ _ _ _ _ (onDispatch_inShape _ _ _ (State.modC_inShape _ _ _ (.of_snd ‹_› (askCells_inShape _ hs))))
    · exact hs

theorem begun_inShape (k pos : Nat) (hs : InShape s) : InShape (begun k pos s) := by
  unfold begun
  dsimp only
  exact consumeItem_inShape _ _ _ (State.modC_inShape _ _ _ hs)

theorem putResult_inShape (k : Nat) (m : Cmd) (hOff oOff : Nat) (bs : List Byte) (hs : InShape s) :
    InShape (putResult k m hOff oOff bs s) := by
  unfold putResult
  split
  · exact addResult_inShape _ _ _ _ hs
  · exact hs

theorem finishNop_inShape (k pos op : Nat) (hs : InShape s) : InShape (finishNop k pos op s) := by
  unfold finishNop
  split
  · exact finishOk_inShape _ _ (begun_inShape _ _ hs)
  · exact hs

theorem opTimestamp_inShape (c q pos : Nat) (hs : InShape s) : InShape (opTimestamp c q pos s) := by
  unfold opTimestamp
  dsimp only
  split
  · exact finishOk_inShape _ _ (putResult_inShape _ _ _ _ _ (begun_inShape _ _ hs))
  · exact hs

theorem opObjFree_inShape (c q pos : Nat) (hs : InShape s) : InShape (opObjFree c q pos s) := by
  unfold opObjFree
  dsimp only
  split
  · exact hs
  · split
    · exact finish_inShape _ _ _ _ (begun_inShape _ _ hs)
    · refine .ite (fun _ => finish_inShape _ _ _ _ (begun_inShape _ _ hs)) (fun _ => ?_)
      exact finishOk_inShape _ _ (unpin_inShape _ (reapModels_inShape (State.modC_inShape _ _ _ ((begun_inShape _ _ hs).objects _))))

theorem opBarrierJoin_inShape (c q pos : Nat) (hs : InShape s) : InShape (opBarrierJoin c q pos s) := by
  unfold opBarrierJoin
  dsimp only
  split
  · exact hs
  · split
    · exact hs
    · exact emit_inShape _ (begun_inShape _ _ hs)

theorem Queue.abortEarly_windowOk (t : Nat) (l : Latch) (q : Queue) (w : q.WindowOk) : (q.abortEarly t l).WindowOk := by
  unfold Queue.abortEarly
  split <;> exact w

theorem abortTarget_inShape (k t : Nat) (hs : InShape s) : InShape (abortTarget k t s) := by
  unfold abortTarget
  dsimp only
  split
  · exact settleStops_inShape (dropShadows_inShape (stopWork_inShape _ (dropCmdCells_inShape _ _ _ (State.modC_inShape _ _ _ hs))))
  · exact dropItem_inShape _ _ _ (dropItem_inShape _ _ _ (State.modQ_inShape _ _ hs (Queue.abortEarly_windowOk _ _)))

theorem abortAnswer_inShape (c k : Nat) (m : Cmd) (v : Nat) (hs : InShape s) : InShape (abortAnswer c k m v s) := by
  unfold abortAnswer
  split
  · exact locWrite_inShape _ _ _ hs
  · exact hs

theorem opAbort_inShape (c q pos : Nat) (hs : InShape s) : InShape (opAbort c q pos s) := by
  unfold opAbort
  dsimp only
  split
  · exact hs
  · split
    · exact finish_inShape _ _ _ _ (begun_inShape _ _ hs)
    · refine .ite (fun _ => finish_inShape _ _ _ _ (begun_inShape _ _ hs)) (fun _ => ?_)
      refine .ite (fun _ => finishOk_inShape _ _ (abortAnswer_inShape _ _ _ _ (abortTarget_inShape _ _ (begun_inShape _ _ hs))))
        (fun _ => ?_)
      exact finishOk_inShape _ _ (abortAnswer_inShape _ _ _ _ (begun_inShape _ _ hs))

theorem askPatch_inShape (c : Nat) (m : Cmd) (hs : InShape s) : InShape (askPatch c m s) :=
  hs.within (askPatch_within _ _ (.refl _ _) (.refl _))

theorem opGraphPatch_inShape (c q pos : Nat) (hs : InShape s) : InShape (opGraphPatch c q pos s) := by
  unfold opGraphPatch
  split
  · split
    · exact begun_inShape _ _ (askPatch_inShape _ _ (.of_snd ‹_› (askPayload_inShape _ _ _ hs)))
    · exact .of_snd ‹_› (askPayload_inShape _ _ _ hs)
  · exact hs

theorem opLaunchGraph_inShape (c q pos : Nat) (hs : InShape s) : InShape (opLaunchGraph c q pos s) := by
  unfold opLaunchGraph
  dsimp only
  split
  · exact hs
  · refine .ite (fun _ => dropShadows_inShape (finish_inShape _ _ _ _ (begun_inShape _ _ hs))) (fun _ => ?_)
    exact decisionPass_inShape (addJob_inShape _ (begun_inShape _ _ hs))

theorem opQuery_inShape (c q pos : Nat) (hs : InShape s) : InShape (opQuery c q pos s) := by
  unfold opQuery
  dsimp only
  split
  · exact finishOk_inShape _ _ (putResult_inShape _ _ _ _ _ (begun_inShape _ _ hs))
  · exact hs

theorem verdict_inShape (k : List Stuck) (hs : InShape s) : InShape (verdict k s) := by
  unfold verdict
  dsimp only
  split
  · exact hs
  · exact raiseEvent_inShape _ (faultCmd_inShape _ _ _ _ (hs.bramble _))

theorem deadlockScan_inShape (hs : InShape s) : InShape (deadlockScan s) := by
  unfold deadlockScan
  dsimp only
  exact .ite (fun _ => hs) (fun _ => InShape.bramble (.ite (fun _ => verdict_inShape _ hs) (fun _ => hs)) _)

theorem convertFrame_inShape (f fmt : Nat) (hs : InShape s) : InShape (convertFrame f fmt s) := by
  unfold convertFrame
  dsimp only
  exact setFrame_inShape _ _ (memWrite_inShape _ _ (memZero_inShape _ _ hs))

theorem journalConvert_inShape (l f fmt step : Nat) (hs : InShape s) : InShape (journalConvert l f fmt step s) := by
  unfold journalConvert
  dsimp only
  split
  · exact hs
  · exact .foldl (fun _ _ h => journal_inShape _ _ _ _ _ _ _ h) _ hs

theorem State.modStats_inShape (l : Nat) (f : LoopStats → LoopStats) (hs : InShape s) : InShape (State.modStats s l f) := by
  unfold State.modStats
  exact State.modLoop_inShape _ _ hs

theorem countDemoted_inShape (l fmt : Nat) (mean : Option Nat) (hs : InShape s) : InShape (countDemoted l fmt mean s) := by
  unfold countDemoted
  dsimp only
  exact State.modStats_inShape _ _ hs

theorem pushWork_inShape (k : Nat) (w : Work) (hs : InShape s) : InShape (pushWork k w s) := by
  unfold pushWork
  exact State.modCore_inShape _ _ hs

theorem doneWork_inShape (k : Nat) (w : Work) (hs : InShape s) : InShape (doneWork k w s) := by
  unfold doneWork
  exact State.modCore_inShape _ _ hs

theorem State.modModel_inShape (k : Nat) (f : Model → Model) (hs : InShape s) : InShape (State.modModel s k f) := by
  unfold State.modModel
  dsimp only
  exact hs.wrd rfl rfl

theorem demandModel_inShape (k : Nat) (hs : InShape s) : InShape (demandModel k s) := by
  unfold demandModel
  split
  · exact .ite (fun _ => pushWork_inShape _ _ (State.modModel_inShape _ _ hs)) (fun _ => hs)
  · exact hs

theorem evictModel_inShape (k : Nat) (hs : InShape s) : InShape (evictModel k s) := by
  unfold evictModel
  split
  · exact State.modModel_inShape _ _ (freeFrames_inShape _ (stopJobs_inShape _ hs))
  · exact hs

theorem redemand_inShape (k : Nat) (hs : InShape s) : InShape (redemand k s) := by
  unfold redemand
  split
  · exact .ite (fun _ => demandModel_inShape _ hs) (fun _ => hs)
  · exact hs

theorem makeRoom_inShape (req f n : Nat) (hs : InShape s) : InShape (makeRoom req f n s).1 := by
  induction n generalizing s with
  | zero => exact hs
  | succ n ih =>
    simp only [makeRoom]
    split
    · exact hs
    · split
      · exact ih (evictModel_inShape _ hs)
      · exact hs

theorem takeModel_inShape (k : Nat) (fs : List Nat) (hs : InShape s) : InShape (takeModel k fs s) := by
  unfold takeModel
  dsimp only
  exact State.modModel_inShape _ _ (.foldl (fun _ _ h => allocFrame_inShape _ _ _ h) _ hs)

theorem fillModel_inShape (k : Nat) (hs : InShape s) : InShape (fillModel k s) := by
  unfold fillModel
  split
  · exact .ite (fun _ => hs) (fun _ => startJob_inShape _ _ _ _ hs)
  · exact hs

theorem modelWork_inShape (k : Nat) (hs : InShape s) : InShape (modelWork k s) := by
  unfold modelWork
  split
  · exact doneWork_inShape _ _ hs
  · split
    · exact .ite (fun _ => hs) (fun _ => fillModel_inShape _ hs)
    · exact .ite (fun _ => hs) (fun _ => fillModel_inShape _ hs)
    · exact doneWork_inShape _ _ hs

theorem missFill_inShape (k : Nat) (frames : List Nat) (hs : InShape s) : InShape (missFill k frames s) := by
  unfold missFill
  refine .ite (fun _ => ?_) (fun _ => ?_)
  · exact hs
  · split
    · exact doneWork_inShape _ _ hs
    · refine .ite (fun _ => ?_) (fun _ => ?_)
      · split
        · exact fillModel_inShape _ (takeModel_inShape _ _ (.of_fst ‹_› (makeRoom_inShape _ _ _ hs)))
        · exact .of_fst ‹_› (makeRoom_inShape _ _ _ hs)
      · exact hs

theorem modelLanded_inShape (k : Nat) (hs : InShape s) : InShape (modelLanded k s) := by
  unfold modelLanded
  dsimp only
  split
  · exact doneWork_inShape _ _ hs
  · refine .ite (fun _ => hs) (fun _ => ?_)
    exact reapModel_inShape _ (doneWork_inShape _ _ (State.modModel_inShape _ _ (.foldl (fun _ _ h => finishOk_inShape _ _ h) _ hs)))

theorem lostRecord_inShape (q : Seq) (f : Nat) (hs : InShape s) : InShape (lostRecord q f s) :=
  hs.within (lostRecord_within _ _ (.refl _ _) (.refl _))

theorem endVerdict_inShape (i : Nat) (hs : InShape s) : InShape (endVerdict i s) := by
  unfold endVerdict
  split
  · split
    · exact endSeq_inShape _ _ _ _ (.ite (fun _ => lostRecord_inShape _ _ hs) (fun _ => hs))
    · exact hs
  · exact hs

theorem loseHolder_inShape (f : Nat) (uncorrectable : Bool) (i : Nat) (hs : InShape s) : InShape (loseHolder f uncorrectable i s) := by
  unfold loseHolder
  dsimp only
  split
  · exact .ite (fun _ => State.modSeq_inShape _ _ hs) (fun _ => hs)
  · refine .unless ?_ ?_
    · exact .ite (fun _ => State.modSeq_inShape _ _ hs) (fun _ => hs)
    · exact fun h => .ite (fun _ => State.modSeq_inShape _ _ h) (fun _ => .ite (fun _ => endSeq_inShape _ _ _ _ (lostRecord_inShape _ _
        h)) (fun _ => endSeq_inShape _ _ _ _ h))

theorem losePage_inShape (at_ : Nat) (uncorrectable : Bool) (hs : InShape s) : InShape (losePage at_ uncorrectable s) := by
  unfold losePage
  dsimp only
  refine .foldl ?_ _ ?_
  · exact fun _ _ h => closeIfDone_inShape _ h
  · refine .foldl ?_ _ ?_
    · exact fun _ _ h => loseHolder_inShape _ _ _ h
    · split
      · split
        · exact State.modStats_inShape _ _ (setFrame_inShape _ _ (modEntry_inShape _ _ hs))
        · exact setFrame_inShape _ _ (modEntry_inShape _ _ hs)
      · exact setFrame_inShape _ _ (modEntry_inShape _ _ hs)

theorem mapMove_inShape (f dst : Nat) (hs : InShape s) : InShape (mapMove f dst s) := by
  unfold mapMove
  dsimp only
  split
  · exact movePage_inShape _ _ _ _ _ _ _ hs
  · exact startJob_inShape _ _ _ _ (setFrame_inShape _ _ hs)

theorem follow_inShape (f dst : Nat) (hs : InShape s) : InShape (follow f dst s) := by
  unfold follow
  exact { hs with contexts := tabWf_map hs.contexts fun _ => rfl }

theorem leaveFrame_inShape (f : Nat) (dst : Option Nat) (hs : InShape s) : InShape (leaveFrame f dst s) := by
  unfold leaveFrame
  dsimp only
  refine .ite (fun _ => ?_) (fun _ => ?_)
  · exact hs
  · split
    · split
      · exact mapMove_inShape _ _ hs
      · split
        · exact redemand_inShape _ (evictModel_inShape _ hs)
        · exact freeFrame_inShape _ hs
    · split
      · exact mapMove_inShape _ _ hs
      · split
        · exact mapMove_inShape _ _ hs
        · exact hs

theorem forgetSave_inShape (f : Nat) (hs : InShape s) : InShape (forgetSave f s) := by
  unfold forgetSave
  exact { hs with contexts := tabWf_map hs.contexts fun _ => rfl }

theorem loseFrame_inShape (f : Nat) (hs : InShape s) : InShape (loseFrame f s) := by
  unfold loseFrame
  dsimp only
  split
  · exact losePage_inShape _ _ hs
  · split
    · exact redemand_inShape _ (evictModel_inShape _ hs)
    · exact freeFrame_inShape _ hs
  · split
    · exact freeFrame_inShape _ (forgetSave_inShape _ (beginTeardown_inShape _ _ _ _ hs))
    · exact freeFrame_inShape _ hs

theorem tearArena_inShape (m : Mapout) (hs : InShape s) : InShape (tearArena m s) := by
  unfold tearArena
  dsimp only
  exact .foldl (fun _ _ h => .ite (fun _ => beginTeardown_inShape _ _ _ _ h) (fun _ => h)) _ hs

theorem mapoutEnd_inShape (m : Mapout) (hs : InShape s) : InShape (mapoutEnd m s) := by
  unfold mapoutEnd
  dsimp only
  exact notify_inShape ((hutchRec_inShape _ _ _ hs).wrd rfl rfl)

theorem startMapout_inShape (m : Mapout) (hs : InShape s) : InShape (startMapout m s) := by
  unfold startMapout
  lift_lets
  intro hk spill arena all removed used m' frames _ s1 s2 s3 _ s4 s5 s6 models rest
  have hf : tabWf frames = true := tabWf_filter _ hs.frames
  have h1 : InShape s1 := { hs with frames := tabWf_map hf fun _ => rfl }
  have h2 : InShape s2 := by
    dsimp only [s2]
    split
    · exact State.modSlice_inShape _ _ h1
    · exact h1
  have h3 : InShape s3 := capacityEvent_inShape _ _ h2
  have h4 : InShape s4 := .ite (fun _ => h3.hutch _) (fun _ => h3)
  have h5 : InShape s5 := .ite (fun _ => tearArena_inShape _ h4) (fun _ => h4)
  have h6 : InShape s6 := .ite (fun _ => orderStage4_inShape _ _ h5) (fun _ => h5)
  exact .foldl (fun _ _ h => .ite (fun _ => loseFrame_inShape _ h) (fun _ => leaveFrame_inShape _ _ h)) _ h6

theorem finishTest_inShape (k pos word : Nat) (hs : InShape s) : InShape (finishTest k pos word s) := by
  unfold finishTest
  split
  · exact .ite (fun _ => finishOk_inShape _ _ (putResult_inShape _ _ _ _ _ hs)) (fun _ => hs)
  · exact hs

theorem failTest_inShape (p : Nat) (hs : InShape s) : InShape (failTest p s) := by
  unfold failTest
  dsimp only
  exact pushWork_inShape _ _ (hs.power _)

theorem testEnd_inShape (p detail : Nat) (hs : InShape s) : InShape (testEnd p detail s) := by
  unfold testEnd
  dsimp only
  split
  · exact hs
  · exact doneWork_inShape _ _ (finishTest_inShape _ _ _ (hs.power _))

theorem settlePart_inShape (p : Nat) (hs : InShape s) : InShape (settlePart p s) := by
  unfold settlePart
  dsimp only
  split
  · exact hs
  · refine .ite (fun _ => ?_) (fun _ => ?_)
    · refine trace_inShape _ _ _ _ _ ?_
      refine dropStage_inShape _ _ ?_
      refine .when ?_ ?_
      · exact stageEnd_inShape _ _ (.when (InShape.sched (.ite (fun _ => hs) (fun _ => setBenches_inShape _ _ (emitAll_inShape _ hs)))
          rfl) (fun h => testEnd_inShape _ _ h))
      · exact fun h => rstDone_inShape _ h
    · exact hs

theorem beginMapout_inShape (m : Mapout) (hs : InShape s) : InShape (beginMapout m s) := by
  unfold beginMapout
  dsimp only
  split
  · exact settlePart_inShape _ (startMapout_inShape _ hs)
  · exact startMapout_inShape _ hs

theorem settleMapout_inShape (n : Nat) (hs : InShape s) : InShape (settleMapout n s) := by
  induction n generalizing s with
  | zero => exact hs
  | succ n ih =>
    simp only [settleMapout]
    split
    · exact .ite (fun _ => ih (mapoutEnd_inShape _ (capacityEvent_inShape _ _ hs))) (fun _ => hs)
    · split
      · exact ih (beginMapout_inShape _ (hs.wrd rfl rfl))
      · exact hs

theorem checkMapout_inShape (hs : InShape s) : InShape (checkMapout s) := by
  unfold checkMapout
  exact settleMapout_inShape _ hs

theorem mapoutRequest_inShape (tier : Tier) (ch : Nat) (lost : Bool) (units : List Nat) (source : Nat) (hs : InShape s) :
    InShape (mapoutRequest tier ch lost units source s) := by
  unfold mapoutRequest
  dsimp only
  exact .ite (fun _ => hs) (fun _ => checkMapout_inShape (doneWork_inShape _ _ (hs.wrd rfl rfl)))

theorem demotePage_inShape (f : Nat) (convert early background : Bool) (ctx : Option Nat) (dst : Option Nat) (hs : InShape s) :
    InShape (demotePage f convert early background ctx dst s) := by
  unfold demotePage
  dsimp only
  split
  · exact hs
  · exact movePage_inShape _ _ _ _ _ _ _ hs

theorem demoteCold_inShape (n t : Nat) (ctx : Option Nat) (choice : List Nat) (hs : InShape s) :
    InShape (demoteCold n t ctx choice s) := by
  unfold demoteCold
  dsimp only
  exact .foldl (fun _ _ h => demotePage_inShape _ _ _ _ _ _ h) _ hs

theorem backgroundDemote_inShape (f dst : Nat) (hs : InShape s) : InShape (backgroundDemote f dst s) := by
  unfold backgroundDemote
  exact .ite (fun _ => demotePage_inShape _ _ _ _ _ _ hs) (fun _ => hs)

theorem promotePage_inShape (f : Nat) (background : Bool) (ctx : Option Nat) (dst : Option Nat) (hs : InShape s) :
    InShape (promotePage f background ctx dst s) := by
  unfold promotePage
  split
  · exact movePage_inShape _ _ _ _ _ _ _ hs
  · exact hs

theorem backgroundPromote_inShape (f dst : Nat) (hs : InShape s) : InShape (backgroundPromote f dst s) := by
  unfold backgroundPromote
  exact .ite (fun _ => promotePage_inShape _ _ _ _ hs) (fun _ => hs)

theorem backgroundZero_inShape (f : Nat) (hs : InShape s) : InShape (backgroundZero f s) := by
  unfold backgroundZero
  exact .ite (fun _ => startJob_inShape _ _ _ _ hs) (fun _ => hs)

theorem wardrobeSweep_inShape (n : Nat) (hs : InShape s) : InShape (wardrobeSweep n s) := by
  unfold wardrobeSweep
  dsimp only
  exact .ite (fun _ => hs) (fun _ => { hs with frames := tabWf_map hs.frames fun _ => rfl })

theorem frameTableBuilt_inShape (hs : InShape s) : InShape (frameTableBuilt s) := by
  unfold frameTableBuilt
  dsimp only
  exact .ite (fun _ => hs.wrd rfl rfl) (fun _ => hs)

theorem carryPage_inShape (src dst n : Nat) (hs : InShape s) : InShape (carryPage src dst n s) :=
  hs.within (carryPage_within _ _ _ (.refl _ _) (.refl _))

theorem convertLanded_inShape (j : MoveJob) (src dst fmt l step : Nat) (lp : Loop) (hs : InShape s) :
    InShape (convertLanded j src dst fmt l step lp s) := by
  unfold convertLanded
  dsimp only
  refine .ite (fun _ => ?_) (fun _ => ?_)
  · exact State.modStats_inShape _ _ (countDemoted_inShape _ _ _ (moverWrote_inShape _ _ _ (carryPage_inShape _ _ _ hs)))
  · exact journalConvert_inShape _ _ _ _ (countDemoted_inShape _ _ _ (moverWrote_inShape _ _ _ (convertFrame_inShape _ _
      (memCopy_inShape _ _ _ hs))))

theorem pageArrives_inShape (j : MoveJob) (src dst fmt : Nat) (loopId : Option Nat) (demote : Bool) (step : Nat) (hs : InShape s) :
    InShape (pageArrives j src dst fmt loopId demote step s) := by
  unfold pageArrives
  dsimp only
  split
  · exact hs
  · refine .ite (fun _ => convertLanded_inShape _ _ _ _ _ _ _ hs) (fun _ => ?_)
    exact .ite (fun _ => countDemoted_inShape _ _ _ hs) (fun _ => .ite (fun _ => State.modStats_inShape _ _ hs) (fun _ => hs))

theorem pageLanded_inShape (j : MoveJob) (src dst fmt : Nat) (loopId : Option Nat) (demote early : Bool) (step : Nat) (hs : InShape s) :
    InShape (pageLanded j src dst fmt loopId demote early step s) := by
  unfold pageLanded
  dsimp only
  refine .ite (fun _ => ?_) (fun _ => ?_)
  · exact trace_inShape _ _ _ _ _ (.unless (.ite (fun _ => moverWrote_inShape _ _ _ (carryPage_inShape _ _ _ hs)) (fun _ => hs))
      (fun h => freeFrame_inShape _ h))
  · refine trace_inShape _ _ _ _ _ ?_
    exact .when (.unless (.unless (.ite (fun _ => hs) (fun _ => setFrame_inShape _ _ hs)) (fun h => pageArrives_inShape _ _ _ _ _ _ _
      h)) (fun h => freeFrame_inShape _ h)) (fun h => freeFrame_inShape _ h)

theorem frameLanded_inShape (src dst : Nat) (hs : InShape s) : InShape (frameLanded src dst s) := by
  unfold frameLanded
  exact .ite (fun _ => freeFrame_inShape _ (follow_inShape _ _ hs)) (fun _ => freeFrame_inShape _ hs)

theorem jobLanded_inShape (j : MoveJob) (hs : InShape s) : InShape (jobLanded j s) := by
  unfold jobLanded
  dsimp only
  split
  · exact settleStops_inShape (finishOk_inShape _ _ hs)
  · exact settleStops_inShape (finishOk_inShape _ _ hs)
  · exact modelLanded_inShape _ hs
  · exact checkMapout_inShape (pageLanded_inShape _ _ _ _ _ _ _ _ hs)
  · exact .ite (fun _ => freeFrame_inShape _ hs) (fun _ => hs)
  · refine .ite (fun _ => setFrame_inShape _ _ (memZero_inShape _ _ hs)) (fun _ => ?_)
    exact .when (memZero_inShape _ _ hs) (fun h => freeFrame_inShape _ h)
  · exact checkMapout_inShape (frameLanded_inShape _ _ hs)

theorem framePiece_inShape (j : MoveJob) (src dst n : Nat) (hs : InShape s) : InShape (framePiece j src dst n s) := by
  unfold framePiece
  dsimp only
  exact .unless (moverRead_inShape _ _ _ hs) (fun h => moverWrote_inShape _ _ _ (memCopy_inShape _ _ _
    (.when h (fun h => memZero_inShape _ _ h))))

theorem pieceMoved_inShape (j : MoveJob) (n : Nat) (hs : InShape s) : InShape (pieceMoved j n s) := by
  unfold pieceMoved
  dsimp only
  split
  · exact .unless (moverRead_inShape _ _ _ hs) (fun h => moverWrote_inShape _ _ _ (memWrite_inShape _ _ h))
  · exact .ite (fun _ => hs) (fun _ => moverWrote_inShape _ _ _ (memWrite_inShape _ _ hs))
  · split
    · exact hs
    · split
      · exact hs
      · exact .ite (fun _ => hs) (fun _ => moverWrote_inShape _ _ _ (memCopy_inShape _ _ _ (moverRead_inShape _ _ _ hs)))
  · exact emitAll_inShape _ hs
  · exact framePiece_inShape _ _ _ _ hs
  · exact framePiece_inShape _ _ _ _ hs
  · exact framePiece_inShape _ _ _ _ hs

theorem State.modMover_inShape (m : Nat) (f : Mover → Mover) (hs : InShape s) : InShape (State.modMover s m f) := by
  unfold State.modMover
  dsimp only
  exact hs.wrd rfl rfl

theorem moverPieceLanded_inShape (m : Nat) (slot : Option Nat) (hs : InShape s) : InShape (moverPieceLanded m slot s) := by
  unfold moverPieceLanded
  dsimp only
  split
  · exact hs
  · refine .ite (fun _ => ?_) (fun _ => ?_)
    · exact settleStops_inShape (State.modMover_inShape _ _ hs)
    · split
      · exact hs
      · refine .ite (fun _ => hs) (fun _ => ?_)
        refine .ite (fun _ => jobLanded_inShape _ (State.modMover_inShape _ _ (pieceMoved_inShape _ _ (State.modMover_inShape _ _ hs))))
          (fun _ => ?_)
        exact State.modMover_inShape _ _ (pieceMoved_inShape _ _ (State.modMover_inShape _ _ hs))

theorem opCopy_inShape (c q pos : Nat) (hs : InShape s) : InShape (opCopy c q pos s) := by
  unfold opCopy
  dsimp only
  split
  · exact hs
  · split
    · exact startJob_inShape _ _ _ _ (begun_inShape _ _ hs)
    · exact finish_inShape _ _ _ _ (begun_inShape _ _ hs)

theorem opFill_inShape (c q pos : Nat) (hs : InShape s) : InShape (opFill c q pos s) := by
  unfold opFill
  dsimp only
  split
  · exact hs
  · split
    · exact startJob_inShape _ _ _ _ (begun_inShape _ _ hs)
    · exact finish_inShape _ _ _ _ (begun_inShape _ _ hs)

theorem registerModel_inShape (c q pos : Nat) (m : Cmd) (src : Loc) (st : ModelState) (hs : InShape s) :
    InShape (registerModel c q pos m src st s) := by
  unfold registerModel
  dsimp only
  exact addRef_inShape _ (hs.wrd rfl rfl)

theorem opModelLoad_inShape (c q pos : Nat) (frames : List Nat) (hs : InShape s) : InShape (opModelLoad c q pos frames s) := by
  unfold opModelLoad
  dsimp only
  split
  · exact hs
  · split
    · exact finish_inShape _ _ _ _ (begun_inShape _ _ hs)
    · exact finish_inShape _ _ _ _ (begun_inShape _ _ hs)
    · refine .ite (fun _ => ?_) (fun _ => ?_)
      · exact finishOk_inShape _ _ (registerModel_inShape _ _ _ _ _ _ (begun_inShape _ _ hs))
      · split
        · exact finish_inShape _ _ _ _ (.of_fst ‹_› (makeRoom_inShape _ _ _ (begun_inShape _ _ hs)))
        · exact pushWork_inShape _ _ (takeModel_inShape _ _ (registerModel_inShape _ _ _ _ _ _ (.of_fst ‹_› (makeRoom_inShape _ _ _
            (begun_inShape _ _ hs)))))

theorem opModelPin_inShape (c q pos : Nat) (hs : InShape s) : InShape (opModelPin c q pos s) := by
  unfold opModelPin
  dsimp only
  split
  · exact hs
  · split
    · exact finish_inShape _ _ _ _ (begun_inShape _ _ hs)
    · refine .ite (fun _ => ?_) (fun _ => ?_)
      · exact finish_inShape _ _ _ _ (begun_inShape _ _ hs)
      · split
        · exact finishOk_inShape _ _ (State.modModel_inShape _ _ (begun_inShape _ _ hs))
        · exact finishOk_inShape _ _ (State.modModel_inShape _ _ (begun_inShape _ _ hs))
        · exact demandModel_inShape _ (State.modModel_inShape _ _ (State.modModel_inShape _ _ (begun_inShape _ _ hs)))

theorem opModelUnpin_inShape (c q pos : Nat) (hs : InShape s) : InShape (opModelUnpin c q pos s) := by
  unfold opModelUnpin
  dsimp only
  split
  · exact hs
  · split
    · exact finish_inShape _ _ _ _ (begun_inShape _ _ hs)
    · exact finishOk_inShape _ _ (reapModel_inShape _ (State.modModel_inShape _ _ (begun_inShape _ _ hs)))

theorem journalLoop_inShape (l tag t c g ver : Nat) (raw : List Byte) (key : Nat) (hs : InShape s) :
    InShape (journalLoop l tag t c g ver raw key s) := by
  unfold journalLoop
  dsimp only
  exact journal_inShape _ _ _ _ _ _ _ (journal_inShape _ _ _ _ _ _ _ (.foldl (fun _ _ h => journal_inShape _ _ _ _ _ _ _ h) _ hs))

theorem openLoop_inShape (k : Nat) (m : Cmd) (p : LoopParams) (raw : List Byte) (replay : Option Replay) (hs : InShape s) :
    InShape (openLoop k m p raw replay s) := by
  unfold openLoop
  dsimp only
  exact journalLoop_inShape _ _ _ _ _ _ _ _ (.unless (State.modC_inShape _ _ _ (.foldl (fun _ _ h => addRef_inShape _ h) _ (hs.trestle
    rfl))) (fun h => demandModel_inShape _ h))

theorem opLoopOpen_inShape (c q pos : Nat) (hs : InShape s) : InShape (opLoopOpen c q pos s) := by
  unfold opLoopOpen
  dsimp only
  split
  · exact hs
  · split
    · exact finish_inShape _ _ _ _ (begun_inShape _ _ hs)
    · split
      · exact finish_inShape _ _ _ _ (begun_inShape _ _ hs)
      · exact finishOk_inShape _ _ (putResult_inShape _ _ _ _ _ (openLoop_inShape _ _ _ _ _ (begun_inShape _ _ hs)))

theorem takeSeqIndex_inShape (hs : InShape s) : InShape (takeSeqIndex s) := by
  unfold takeSeqIndex
  dsimp only
  exact hs.trestle rfl

theorem sharePages_inShape (src : Seq) (p : Nat) (hs : InShape s) : InShape (sharePages src p s) := by
  unfold sharePages
  dsimp only
  refine .foldl (fun s l h => ?_) _ (.foldl (fun _ _ h => setFrame_inShape _ _ h) _ hs)
  exact h.wrd rfl rfl

theorem admitSeq_inShape (l : Nat) (lp : Loop) (tag : Nat) (a : AdmitRec) (raw : List Byte) (src : Option Seq) (p : Nat) (hs : InShape
    s) :
    InShape (admitSeq l lp tag a raw src p s) := by
  unfold admitSeq
  dsimp only
  refine State.modLoop_inShape _ _ ?_
  refine InShape.putSeq ?_ rfl
  refine portWrite_inShape _ _ _ _ ?_
  refine .foldl ?_ _ ?_
  · exact fun _ _ h => addRef_inShape _ h
  · refine takeSeqIndex_inShape ?_
    split
    · exact sharePages_inShape _ _ hs
    · exact hs

theorem journalFences_inShape (l : Nat) (m : Cmd) (id : Nat) (hs : InShape s) : InShape (journalFences l m id s) := by
  unfold journalFences
  exact .foldl (fun _ _ h => journal_inShape _ _ _ _ _ _ _ h) _ hs

theorem wakeLoop_inShape (l : Nat) (hs : InShape s) : InShape (wakeLoop l s) := by
  unfold wakeLoop
  exact State.modLoop_inShape _ _ hs

theorem opLoopAdmit_inShape (c q pos : Nat) (seed : W64) (hs : InShape s) : InShape (opLoopAdmit c q pos seed s) := by
  unfold opLoopAdmit
  dsimp only
  split
  · exact hs
  · split
    · refine .ite (fun _ => ?_) (fun _ => ?_)
      · exact finish_inShape _ _ _ _ (begun_inShape _ _ hs)
      · split
        · exact finish_inShape _ _ _ _ (begun_inShape _ _ hs)
        · exact finishOk_inShape _ _ (putResult_inShape _ _ _ _ _ (wakeLoop_inShape _ (journalFences_inShape _ _ _
            (admitSeq_inShape _ _ _ _ _ _ _ (begun_inShape _ _ hs)))))
    · exact finish_inShape _ _ _ _ (begun_inShape _ _ hs)
    · exact finish_inShape _ _ _ _ (begun_inShape _ _ hs)

theorem cancelSeq_inShape (i : Nat) (hs : InShape s) : InShape (cancelSeq i s) := by
  unfold cancelSeq
  dsimp only
  split
  · exact hs
  · exact .when (State.modSeq_inShape _ _ hs) (fun h => endSeq_inShape _ _ _ _ h)

theorem cancelSeqs_inShape (l : List Nat) (hs : InShape s) : InShape (cancelSeqs l s) := by
  unfold cancelSeqs
  exact .foldl (fun _ _ h => cancelSeq_inShape _ h) _ hs

theorem endParked_inShape (l : Nat) (hs : InShape s) : InShape (endParked l s) := by
  unfold endParked
  exact .foldl (fun _ _ h => .ite (fun _ => h) (fun _ => .ite (fun _ => endVerdict_inShape _ h) (fun _ => .ite
    (fun _ => endSeq_inShape _ _ _ _ h) (fun _ => h)))) _ hs

theorem opLoopCancel_inShape (c q pos : Nat) (hs : InShape s) : InShape (opLoopCancel c q pos s) := by
  unfold opLoopCancel
  dsimp only
  split
  · exact hs
  · split
    · exact finish_inShape _ _ _ _ (begun_inShape _ _ hs)
    · refine .ite (fun _ => finishOk_inShape _ _ (begun_inShape _ _ hs)) (fun _ => ?_)
      exact checkMapout_inShape (closeIfDone_inShape _ (cancelSeqs_inShape _ (State.modC_inShape _ _ _ (begun_inShape _ _ hs))))

theorem opLoopClose_inShape (c q pos : Nat) (hs : InShape s) : InShape (opLoopClose c q pos s) := by
  unfold opLoopClose
  dsimp only
  split
  · exact hs
  · refine .ite (fun _ => ?_) (fun _ => finish_inShape _ _ _ _ (begun_inShape _ _ hs))
    exact checkMapout_inShape (closeIfDone_inShape _ (.when (journal_inShape _ _ _ _ _ _ _ (State.modLoop_inShape _ _ (begun_inShape _ _
      hs))) (fun h => cancelSeqs_inShape _ h)))

theorem journalRefused_inShape (l c tag : Nat) (j : Jnl) (hs : InShape s) : InShape (journalRefused l c tag j s) := by
  unfold journalRefused
  dsimp only
  exact beginTeardown_inShape _ _ _ _ hs

theorem Jnl.drain_inShape (ctx n : Nat) (j : Jnl) (hs : InShape s) : InShape (Jnl.drain ctx n j s).2 := by
  induction n generalizing j s with
  | zero => exact hs
  | succ n ih => exact ih _ (journalPut_inShape _ _ hs)

theorem State.setLeft_inShape (x : JnlLeft) (j : Jnl) (hs : InShape s) : InShape (State.setLeft s x j) := by
  unfold State.setLeft
  dsimp only
  exact .ite (fun _ => unref_inShape _ (hs.trestle rfl)) (fun _ => hs.trestle rfl)

theorem leftWrite_inShape (x : JnlLeft) (hs : InShape s) : InShape (leftWrite x s) := by
  unfold leftWrite
  dsimp only
  exact .ite (fun _ => State.setLeft_inShape _ _ (Jnl.drain_inShape _ _ _ hs)) (fun _ => journalRefused_inShape _ _ _ _ hs)

theorem journalWrite_inShape (l : Nat) (hs : InShape s) : InShape (journalWrite l s) := by
  unfold journalWrite
  dsimp only
  split
  · exact .foldl (fun _ _ h => leftWrite_inShape _ h) _ hs
  · split
    · exact .foldl (fun _ _ h => leftWrite_inShape _ h) _ hs
    · exact .unless (.foldl (fun _ _ h => leftWrite_inShape _ h) _ hs) (fun h => .ite (fun _ => journalDrain_inShape _ _ h)
        (fun _ => journalRefused_inShape _ _ _ _ h))

theorem readConsumed_inShape (l : Nat) (hs : InShape s) : InShape (readConsumed l s) := by
  unfold readConsumed
  dsimp only
  split
  · exact hs
  · split
    · exact hs
    · exact readFor_inShape _ _ _ (State.modLoop_inShape _ _ hs)

theorem journalConsumedPoll_inShape (l : Nat) (consumed : Nat) (hs : InShape s) : InShape (journalConsumedPoll l consumed s) := by
  unfold journalConsumedPoll
  split
  · exact readConsumed_inShape _ (memWrite_inShape _ _ hs)
  · exact .foldl (fun _ _ h => readFor_inShape _ _ _ (State.setLeft_inShape _ _ (memWrite_inShape _ _ h))) _ hs

theorem replayFails_inShape (k : Nat) (m : Cmd) (r : Status × Nat) (kind : Nat) (hs : InShape s) :
    InShape (replayFails k m r kind s) := by
  unfold replayFails
  exact finish_inShape _ _ _ _ (putResult_inShape _ _ _ _ _ hs)

theorem opReplayOpen_inShape (c q pos : Nat) (hs : InShape s) : InShape (opReplayOpen c q pos s) := by
  unfold opReplayOpen
  dsimp only
  split
  · exact hs
  · split
    · exact replayFails_inShape _ _ _ _ (begun_inShape _ _ hs)
    · split
      · exact replayFails_inShape _ _ _ _ (begun_inShape _ _ hs)
      · refine .ite (fun _ => replayFails_inShape _ _ _ _ (begun_inShape _ _ hs)) (fun _ => ?_)
        exact openLoop_inShape _ _ _ _ _ (begun_inShape _ _ hs)

theorem deliver_inShape (i : Nat) (q : Seq) (lp : Loop) (tok : Nat) (hs : InShape s) : InShape (deliver i q lp tok s) := by
  unfold deliver
  dsimp only
  exact State.modSeq_inShape _ _ (.ite (fun _ => hs) (fun _ => signalFence_inShape _ _ _ (locWrite_inShape _ _ _ hs)))

theorem dropPrompt_inShape (i : Nat) (hs : InShape s) : InShape (dropPrompt i s) := by
  unfold dropPrompt
  split
  · exact .ite (fun _ => hs) (fun _ => unref_inShape _ (State.modSeq_inShape _ _ hs))
  · exact hs

theorem collectOne_inShape (lp : Loop) (e : BEntry) (i : Nat) (hs : InShape s) : InShape (collectOne lp e i s).1 := by
  unfold collectOne
  dsimp only
  split
  · exact hs
  · split
    · exact hs
    · split
      · exact .when (State.modSeq_inShape _ _ hs) (fun h => dropPrompt_inShape _ h)
      · split
        · exact .when (State.modSeq_inShape _ _ hs) (fun h => dropPrompt_inShape _ h)
        · split
          · exact State.modSeq_inShape _ _ (.when (State.modSeq_inShape _ _ hs) (fun h => dropPrompt_inShape _ h))
          · exact State.modSeq_inShape _ _ (deliver_inShape _ _ _ _ (.when (State.modSeq_inShape _ _ hs) (fun h => dropPrompt_inShape _
              h)))

theorem collectAll_inShape (lp : Loop) (hs : InShape s) : InShape (collectAll lp s).1 := by
  unfold collectAll
  suffices h : ∀ (l : List (BEntry × Nat)) (a : State × List Nat), InShape a.1 →
      InShape (l.foldl (fun a e =>
        let r := collectOne lp e.1 e.2 a.1
        (r.1, match r.2 with | some t => a.2 ++ [t] | none => a.2)) a).1 from h _ _ hs
  intro l
  induction l with
  | nil => exact fun _ h => h
  | cons e l ih => exact fun _ h => ih _ (collectOne_inShape lp e.1 e.2 h)

theorem journalResults_inShape (l : Nat) (lp : Loop) (toks : List Nat) (hs : InShape s) : InShape (journalResults l lp toks s) := by
  unfold journalResults
  dsimp only
  exact .foldl (fun _ _ h => journal_inShape _ _ _ _ _ _ _ h) _ hs

theorem lostVerdicts_inShape (l : Nat) (hs : InShape s) : InShape (lostVerdicts l s) := by
  unfold lostVerdicts
  refine .foldl ?_ _ ?_
  · intro _ _ h
    split
    · split
      · exact State.modSeq_inShape _ _ h
      · exact h
    · exact h
  · exact hs

theorem stage2_inShape (l : Nat) (hs : InShape s) : InShape (stage2 l s) := by
  unfold stage2
  dsimp only
  refine .foldl ?_ _ ?_
  · intro _ _ h
    split
    · exact .ite (fun _ => endSeq_inShape _ _ _ _ h) (fun _ => h)
    · exact h
  · exact .foldl (fun _ _ h => endVerdict_inShape _ h) _ (lostVerdicts_inShape _ hs)

theorem journalPreempt_inShape (q : Seq) (kind : Nat) (discard : Bool) (hs : InShape s) :
    InShape (journalPreempt q kind discard s) := by
  unfold journalPreempt
  exact journal_inShape _ _ _ _ _ _ _ hs

theorem countPreempt_inShape (l : Nat) (q : Seq) (hs : InShape s) : InShape (countPreempt l q s) := by
  unfold countPreempt
  dsimp only
  exact modUse_inShape _ _ (.unless (State.modStats_inShape _ _ hs) (fun h => State.modStats_inShape _ _ h)) (fun _ => rfl)

theorem swapOut_inShape {b : Bnd} (l i : Nat) (q : Seq) (ctx : Nat) (hs : InShape b.s) : InShape (swapOut l i q ctx b).s := by
  unfold swapOut
  dsimp only [Bnd.on]
  exact dropEntry_inShape _ _ (State.modSeq_inShape _ _ (.foldlB (fun _ _ h => demotePage_inShape _ _ _ _ _ _ h) _ hs))

theorem preempt_inShape {b : Bnd} (l i kind ctx : Nat) (hs : InShape b.s) : InShape (preempt l i kind ctx b).s := by
  unfold preempt
  dsimp only [Bnd.on]
  split
  · exact hs
  · split
    · exact endSeq_inShape _ _ _ _ (countPreempt_inShape _ _ (journalPreempt_inShape _ _ _ hs))
    · exact swapOut_inShape _ _ _ _ (countPreempt_inShape _ _ (journalPreempt_inShape _ _ _ hs))

theorem takeShort_inShape (l t tpp ctx : Nat) (es : List (Nat × Nat)) (n : Nat) {b : Bnd} (hs : InShape b.s) :
    InShape (takeShort l t tpp ctx es n b).s := by
  induction n generalizing b with
  | zero => exact hs
  | succ n ih =>
    simp only [takeShort]
    split
    · split
      · exact ih (preempt_inShape _ _ _ _ hs)
      · exact hs
    · exact hs

theorem copyOnWrite_inShape {b : Bnd} (i ctx : Nat) (hs : InShape b.s) : InShape (copyOnWrite i ctx b).s := by
  unfold copyOnWrite
  dsimp only
  split
  · exact hs
  · split
    · exact hs
    · split
      · exact hs
      · refine addPage_inShape _ _ _ ?_
        split
        · exact dropLeaf_inShape _ (dropHolder_inShape _ (State.modSeq_inShape _ _ (startJob_inShape _ _ _ _ (setFrame_inShape _ _
            hs))))
        · exact dropHolder_inShape _ (State.modSeq_inShape _ _ (startJob_inShape _ _ _ _ (setFrame_inShape _ _ hs)))

theorem growOne_inShape {b : Bnd} (i : Nat) (hs : InShape b.s) : InShape (growOne i b).s := by
  unfold growOne
  dsimp only [Bnd.on]
  split
  · exact hs
  · exact addPage_inShape _ _ _ (allocFrame_inShape _ _ _ hs)

theorem growN_inShape (i n : Nat) {b : Bnd} (hs : InShape b.s) : InShape (growN i n b).s := by
  induction n generalizing b with
  | zero => exact hs
  | succ n ih => exact ih (growOne_inShape _ hs)

theorem reserveFor_inShape {b : Bnd} (i n tpp ctx : Nat) (hs : InShape b.s) : InShape (reserveFor i n tpp ctx b).s := by
  unfold reserveFor
  dsimp only [Bnd.on]
  split
  · exact hs
  · refine growN_inShape _ _ ?_
    split
    · exact copyOnWrite_inShape _ _ (State.modSeq_inShape _ _ hs)
    · exact State.modSeq_inShape _ _ hs

theorem stage4_inShape (l : Nat) (lp : Loop) (victims : List Nat) (toks : List (Nat × Nat)) {b : Bnd} (hs : InShape b.s) :
    InShape (stage4 l lp victims toks b).1.s := by
  unfold stage4
  dsimp only
  refine .foldlB ?_ _ ?_
  · exact fun _ _ h => reserveFor_inShape _ _ _ _ h
  · split
    · split
      · exact hs
      · exact demoteCold_inShape _ _ _ _ hs
    · refine takeShort_inShape _ _ _ _ _ _ ?_
      split
      · exact .foldlB (fun _ _ h => preempt_inShape _ _ _ _ h) _ hs
      · exact demoteCold_inShape _ _ _ _ (.foldlB (fun _ _ h => preempt_inShape _ _ _ _ h) _ hs)

theorem journalJoin_inShape (l : Nat) (lp : Loop) (q : Seq) (n : Nat) (hs : InShape s) : InShape (journalJoin l lp q n s) := by
  unfold journalJoin
  dsimp only
  split
  · exact journal_inShape _ _ _ _ _ _ _ (.when (.foldl (fun _ _ h => journal_inShape _ _ _ _ _ _ _ h) _ hs)
      (fun h => readFor_inShape _ _ _ h))
  · exact journal_inShape _ _ _ _ _ _ _ hs

theorem joinSeq_inShape {b : Bnd} (l : Nat) (lp : Loop) (i : Nat) (q : Seq) (n : Nat) (hs : InShape b.s) :
    InShape (joinSeq l lp i q n b).1.s := by
  unfold joinSeq
  dsimp only [Bnd.on]
  exact reserveFor_inShape _ _ _ _ (.foldlB (fun _ _ h => promotePage_inShape _ _ _ _ h) _ (State.modSeq_inShape _ _
    (journalJoin_inShape _ _ _ _ hs)))

theorem stage5_inShape (l : Nat) (lp : Loop) (shed : Nat) (is : List Nat) {b : Bnd} (es : List BEntry) (hs : InShape b.s) :
    InShape (stage5 l lp shed is b es).1.s := by
  induction is generalizing b es with
  | nil => exact hs
  | cons i t ih =>
    simp only [stage5]
    split
    · exact ih _ hs
    · split
      · exact ih _ (joinSeq_inShape _ _ _ _ _ hs)
      · dsimp only [Bnd.on]
        exact State.modStats_inShape _ _ hs

theorem journalStep_inShape (l : Nat) (lp : Loop) (hs : InShape s) : InShape (journalStep l lp s) := by
  unfold journalStep
  exact journal_inShape _ _ _ _ _ _ _ hs

theorem chargePrompts_inShape (lp : Loop) (hs : InShape s) : InShape (chargePrompts lp s) := by
  unfold chargePrompts
  refine .foldl ?_ _ ?_
  · intro _ _ h
    split
    · exact .ite (fun _ => h) (fun _ => readFor_inShape _ _ _ h)
    · exact h
  · exact hs

theorem stage6_inShape (l : Nat) (es : List BEntry) (hs : InShape s) : InShape (stage6 l es s) := by
  unfold stage6
  dsimp only
  split
  · exact State.modLoop_inShape _ _ hs
  · exact .unless (State.modLoop_inShape _ _ hs) (fun h => chargePrompts_inShape _ (writeBatch_inShape _ h))

theorem loopBoundary_inShape (l : Nat) (hs : InShape s) : InShape (loopBoundary l s) := by
  unfold loopBoundary
  dsimp only
  split
  · exact decisionPass_inShape (.when (State.modRes_inShape _ _ hs) (fun h => .getD (tryNext_inShape _ h) (vacateRes_inShape _ h)))
  · exact hs

theorem replayEnds_inShape (r : Replay) (step : Nat) (hs : InShape s) : InShape (replayEnds r step s) := by
  unfold replayEnds
  dsimp only
  refine .foldl ?_ _ ?_
  · intro _ _ h
    refine .ite (fun _ => ?_) (fun _ => ?_)
    · split
      · exact endSeq_inShape _ _ _ _ h
      · exact h
    · exact h
  · exact hs

theorem replayPreempts_inShape {b : Bnd} (l ctx : Nat) (r : Replay) (step : Nat) (ok : Nat → Bool) (hs : InShape b.s) :
    InShape (replayPreempts l ctx r step ok b).s := by
  unfold replayPreempts
  dsimp only [Bnd.on]
  refine .foldlB ?_ _ ?_
  · intro _ _ h
    split
    · exact h
    · split
      · exact h
      · split
        · exact h
        · split
          · exact endSeq_inShape _ _ _ _ (countPreempt_inShape _ _ h)
          · exact swapOut_inShape _ _ _ _ (countPreempt_inShape _ _ h)
  · exact hs

theorem convertMove_inShape (l f fmt step : Nat) (hs : InShape s) : InShape (convertMove l f fmt step s) := by
  unfold convertMove
  dsimp only
  exact hs.wrd rfl rfl

theorem replayConvert_inShape (l step : Nat) (e : Nat × Nat) (hs : InShape s) : InShape (replayConvert l step s e) := by
  unfold replayConvert
  exact .ite (fun _ => hs) (fun _ => .ite (fun _ => convertMove_inShape _ _ _ _ hs) (fun _ => convertFrame_inShape _ _ hs))

theorem replayConverts_inShape (l : Nat) (r : Replay) (step : Nat) (hs : InShape s) : InShape (replayConverts l r step s) := by
  unfold replayConverts
  exact .foldl (fun _ _ h => replayConvert_inShape _ _ _ h) _ hs

theorem resolveObj_inShape (c h : Nat) (hs : InShape s) : InShape (resolveObj c h s).1 := by
  unfold resolveObj
  dsimp only
  split
  · exact hs
  · split
    · exact hs
    · split
      · split
        · split
          · exact (readFor_inShape _ _ _ hs).objects _
          · exact readFor_inShape _ _ _ hs
        · exact readFor_inShape _ _ _ hs
      · exact hs

theorem resolveAll_inShape (c : Nat) (l : List Nat) (hs : InShape s) : InShape (resolveAll c l s).1 := by
  induction l generalizing s with
  | nil => exact hs
  | cons h t ih =>
    simp only [resolveAll]
    split
    · next e => exact ih (.of_fst e (resolveObj_inShape _ _ hs))
    · next e => exact .of_fst e (resolveObj_inShape _ _ hs)

theorem admitAgain_inShape (l : Nat) (a : RecAdmit) (r : AdmitRec) (lp : Loop) (hs : InShape s) : InShape (admitAgain l a r lp s) := by
  unfold admitAgain
  dsimp only
  exact State.modLoop_inShape _ _ (State.modSeq_inShape _ _ (admitSeq_inShape _ _ _ _ _ _ _ hs))

theorem admitRecord_inShape (l : Nat) (a : RecAdmit) (hs : InShape s) : InShape (admitRecord l a s).1 := by
  unfold admitRecord
  split
  · exact hs
  · split
    · split
      · exact .of_fst ‹_› (resolveAll_inShape _ _ hs)
      · exact admitAgain_inShape _ _ _ _ (.of_fst ‹_› (resolveAll_inShape _ _ hs))
    · exact hs

theorem replayAdmit_inShape (l : Nat) (a : RecAdmit) (hs : InShape s) : InShape (replayAdmit l a s).1 := by
  unfold replayAdmit
  dsimp only
  split
  · exact .of_fst ‹_› (admitRecord_inShape _ _ hs)
  · split
    · exact .of_fst ‹_› (admitRecord_inShape _ _ hs)
    · split
      · exact readFor_inShape _ _ _ (.of_fst ‹_› (admitRecord_inShape _ _ hs))
      · exact .of_fst ‹_› (admitRecord_inShape _ _ hs)

theorem keepPrefixes_inShape (l : Nat) (r : Replay) (step : Nat) (hs : InShape s) : InShape (keepPrefixes l r step s) := by
  unfold keepPrefixes
  dsimp only
  exact .foldl (fun _ _ h => admitRecord_inShape _ _ h) _ hs

theorem replayAdmits_inShape (l : Nat) (as : List RecAdmit) (hs : InShape s) : InShape (replayAdmits l as s).1 := by
  induction as generalizing s with
  | nil => exact hs
  | cons a t ih =>
    simp only [replayAdmits]
    split
    · next e => exact ih (.of_fst e (replayAdmit_inShape _ _ hs))
    · next e => exact .of_fst e (replayAdmit_inShape _ _ hs)

theorem readWindow_inShape (l : Nat) (lp : Loop) (r : Replay) (step : Nat) (hs : InShape s) : InShape (readWindow l lp r step s).2 := by
  unfold readWindow
  dsimp only
  split
  · dsimp only
    exact modCells_inShape _ _ _ hs
  · have ha := InShape.foldlS (f := fun (a : Bool × State) x =>
        let p := askCells (itemReq 5 l (some lp.tenant) (jSeq x) 1 (some x)) a.2
        (a.1 && p.1, p.2)) (fun _ _ h => askCells_inShape _ h) (r.records.filter (fun x => jStep x == step)) (b := (true, s)) hs
    split
    · next e =>
      dsimp only
      exact modCells_inShape _ _ _ (.of_snd e ha)
    · next e => exact .of_snd e ha

theorem replayJoins_inShape (l : Nat) (lp : Loop) (shed : Nat) (is : List (Nat × Option Nat)) {b : Bnd} (es : List BEntry) {r : Bnd ×
    List BEntry} (hs : InShape b.s) (h : replayJoins l lp shed is b es = some r) :
    InShape r.1.s := by
  induction is generalizing b es with
  | nil => exact Option.some.inj h ▸ hs
  | cons e t ih =>
    obtain ⟨i, first⟩ := e
    simp only [replayJoins] at h
    split at h
    · exact ih _ hs h
    · split at h
      · exact ih _ (joinSeq_inShape _ _ _ _ _ hs) h
      · cases h

theorem endReplay_inShape (l : Nat) (d : Option Diverge) (hs : InShape s) : InShape (endReplay l d s) := by
  unfold endReplay
  dsimp only
  split
  · exact hs
  · split
    · exact hs
    · refine closeLoop_inShape _ ?_
      split
      · exact finish_inShape _ _ _ _ (State.modLoop_inShape _ _ (.foldl (fun _ _ h => endSeq_inShape _ _ _ _ h) _ hs))
      · exact finishOk_inShape _ _ (State.modLoop_inShape _ _ (.foldl (fun _ _ h => endSeq_inShape _ _ _ _ h) _ hs))

theorem replayStages_inShape (l : Nat) (lp : Loop) (r : Replay) (ch : BoundaryChoice) (hs : InShape s) :
    InShapeO (replayStages l lp r ch s) := by
  unfold replayStages
  dsimp only
  split
  · exact .some (endReplay_inShape _ _ hs)
  · split
    · exact .none
    · have hb (r' : Replay) : InShape (replayEnds r' (lp.step + 1) ((loopOrder l (keepPrefixes l r (lp.step + 1) s)).foldl
          (fun s i => endVerdict i s) (keepPrefixes l r (lp.step + 1) s))) :=
        replayEnds_inShape _ _ (.foldl (fun _ _ h => endVerdict_inShape _ h) _ (keepPrefixes_inShape _ _ _ hs))
      generalize mapNow l r (keepPrefixes l r (lp.step + 1) s) = r at hb ⊢
      replace hb := hb r
      generalize replayEnds r (lp.step + 1) _ = s1 at hb ⊢
      split
      · exact .some (endReplay_inShape _ _ hb)
      · split
        · exact .some (State.modLoop_inShape _ _ hb)
        · next lp' _ =>
          have h3 (s2 : State) (ok : Nat → Bool) (h2 : InShape s2) :
              InShape ((replayPreempts l lp'.ctx r (lp.step + 1) ok { s := s2, ch := ch }).on (replayConverts l r (lp.step + 1))).s :=
            replayConverts_inShape _ _ _ (replayPreempts_inShape _ _ _ _ _ h2)
          generalize hok : (replayPreempts l lp'.ctx r (lp.step + 1) _ _).on _ = b
          replace h3 : InShape b.s := hok ▸ h3 _ _ (State.modLoop_inShape _ _ hb)
          have h4 (tk : List (Nat × Nat)) :
              InShape (tk.foldl (fun b e => reserveFor e.1 e.2 lp'.params.tokensPerPage lp'.ctx b) b).s :=
            .foldlB (fun _ _ h => reserveFor_inShape _ _ _ _ h) tk h3
          split
          · exact .none
          · split
            · next e => exact .some (endReplay_inShape _ _ (.of_fst e (replayAdmits_inShape _ _ (h4 _))))
            · next e =>
              have h5 := InShape.of_fst e (replayAdmits_inShape _ _ (h4 _))
              split
              · exact .none
              · next hj =>
                have h6 := fun ok => replayPreempts_inShape l lp'.ctx r (lp.step + 1) ok (replayJoins_inShape _ _ _ _ _ (by exact h5)
                  hj)
                have h7 := fun ok es => stage6_inShape l es (h6 ok)
                split
                · exact .some (h7 _ _)
                · split
                  · exact .some (h7 _ _)
                  · exact .some (endReplay_inShape _ _ (h7 _ _))

theorem replayBoundary_inShape (l : Nat) (lp : Loop) (r : Replay) (ch : BoundaryChoice) (hs : InShape s) :
    InShape (replayBoundary l lp r ch s) := by
  unfold replayBoundary
  dsimp only
  refine .ite (fun _ => ?_) (fun _ => ?_)
  · exact endReplay_inShape _ _ hs
  · split
    · exact .of_snd ‹_› (readWindow_inShape _ _ _ _ (State.modLoop_inShape _ _ hs))
    · split
      · split
        · exact endReplay_inShape _ _ (.of_snd ‹_› (readWindow_inShape _ _ _ _ (State.modLoop_inShape _ _ hs)))
        · split
          · exact endReplay_inShape _ _ (collectAll_inShape _ (.of_snd ‹_› (readWindow_inShape _ _ _ _ (State.modLoop_inShape _ _ hs))))
          · refine .ite (fun _ => ?_) (fun _ => ?_)
            · exact endReplay_inShape _ _ (collectAll_inShape _ (.of_snd ‹_› (readWindow_inShape _ _ _ _ (State.modLoop_inShape _ _
                hs))))
            · refine .getD ?_ ?_
              · exact .of_snd ‹_› (readWindow_inShape _ _ _ _ (State.modLoop_inShape _ _ hs))
              · exact replayStages_inShape _ _ _ _ (collectAll_inShape _ (.of_snd ‹_› (readWindow_inShape _ _ _ _
                  (State.modLoop_inShape _ _ hs))))
      · refine .getD ?_ ?_
        · exact .of_snd ‹_› (readWindow_inShape _ _ _ _ (State.modLoop_inShape _ _ hs))
        · exact replayStages_inShape _ _ _ _ (.of_snd ‹_› (readWindow_inShape _ _ _ _ (State.modLoop_inShape _ _ hs)))

theorem liveStages_inShape (l : Nat) (ch : BoundaryChoice) (hs : InShape s) : InShape (liveStages l ch s) := by
  unfold liveStages
  dsimp only
  split
  · exact hs
  · exact stage6_inShape _ _ (stage5_inShape _ _ _ _ _ (stage4_inShape _ _ _ _ hs))

theorem liveBoundary_inShape (l : Nat) (lp : Loop) (ch : BoundaryChoice) (hs : InShape s) : InShape (liveBoundary l lp ch s) := by
  unfold liveBoundary
  dsimp only
  split
  · exact liveStages_inShape _ _ (stage2_inShape _ (journalResults_inShape _ _ _ (collectAll_inShape _ (readConsumed_inShape _
      (State.modLoop_inShape _ _ hs)))))
  · exact liveStages_inShape _ _ (State.modLoop_inShape _ _ hs)

theorem settleEmptied_inShape (was : List Nat) (hs : InShape s) : InShape (settleEmptied was s) := by
  unfold settleEmptied
  refine .foldl ?_ _ ?_
  · intro _ _ h
    split
    · split
      · exact closeIfDone_inShape _ (loopBoundary_inShape _ (endParked_inShape _ h))
      · exact h
    · exact h
  · exact hs

theorem traceStages_inShape (lp : Loop) (hs : InShape s) : InShape (traceStages lp s) :=
  hs.within (traceStages_within _ (.refl _ _) (.refl _))

theorem stepBoundary_inShape (l : Nat) (ch : BoundaryChoice) (hs : InShape s) : InShape (stepBoundary l ch s) := by
  unfold stepBoundary
  dsimp only
  split
  · exact hs
  · refine .ite (fun _ => ?_) (fun _ => ?_)
    · exact hs
    · refine checkMapout_inShape ?_
      refine settleEmptied_inShape _ ?_
      refine closeIfDone_inShape _ ?_
      refine loopBoundary_inShape _ ?_
      refine bump_inShape _ ?_
      refine traceStages_inShape _ ?_
      split
      · exact replayBoundary_inShape _ _ _ _ hs
      · exact liveBoundary_inShape _ _ _ hs

theorem launchStep_inShape (l r : Nat) (lp : Loop) (x : Residency) (hs : InShape s) : InShape (launchStep l r lp x s) := by
  unfold launchStep
  dsimp only
  refine checkMapout_inShape ?_
  refine endParked_inShape _ ?_
  refine trace_inShape _ _ _ _ _ ?_
  refine sendLaunch_inShape _ _ ?_
  refine .when ?_ ?_
  · refine State.modRes_inShape _ _ ?_
    split
    · refine State.modModel_inShape _ _ ?_
      exact modUse_inShape _ _ (State.modLoop_inShape _ _ (.foldl (fun _ _ h => State.modSeq_inShape _ _ h) _ (journalDrain_inShape _ _
        (journalStep_inShape _ _ hs)))) (fun _ => rfl)
    · exact modUse_inShape _ _ (State.modLoop_inShape _ _ (.foldl (fun _ _ h => State.modSeq_inShape _ _ h) _ (journalDrain_inShape _ _
        (journalStep_inShape _ _ hs)))) (fun _ => rfl)
  · exact fun h => dropQueue_inShape _ _ h

theorem stage7_inShape (l r : Nat) (lp : Loop) (hs : InShape s) : InShape (stage7 l r lp s) := by
  unfold stage7
  dsimp only
  split
  · exact hs
  · refine .ite (fun _ => ?_) (fun _ => ?_)
    · exact hs
    · refine .ite (fun _ => ?_) (fun _ => ?_)
      · split
        · exact decisionPass_inShape (State.modLoop_inShape _ _ (saveRes_inShape _ hs _ ‹_›))
        · exact .unless (tryNext_inShape _ hs) (fun h => launchStep_inShape _ _ _ _ h)
      · exact .ite (fun _ => launchStep_inShape _ _ _ _ hs) (fun _ => hs)

theorem askBenches_inShape (l : Nat) (lp : Loop) (hs : InShape s) : InShape (askBenches l lp s) := by
  unfold askBenches
  exact decisionPass_inShape (addJob_inShape _ hs)

theorem stepLaunch_inShape (l : Nat) (hs : InShape s) : InShape (stepLaunch l s) := by
  unfold stepLaunch
  split
  · exact hs
  · refine .ite (fun _ => ?_) (fun _ => ?_)
    · exact hs
    · refine .ite (fun _ => ?_) (fun _ => ?_)
      · exact State.modLoop_inShape _ _ hs
      · refine .ite (fun _ => ?_) (fun _ => ?_)
        · exact hs
        · split
          · refine .ite (fun _ => .ite (fun _ => hs) (fun _ => askBenches_inShape _ _ hs)) (fun _ => ?_)
            exact .ite (fun _ => hs) (fun _ => stage7_inShape _ _ _ (passAt_inShape _ hs))
          · exact .ite (fun _ => hs) (fun _ => askBenches_inShape _ _ hs)

end

end Sys2Proof.Machine
end

section
/-! SUPPORT for O59. The other commands of the block keep the shape. -/

set_option Elab.async false

namespace Sys2Proof.Machine

section
variable {s t : State}

theorem chargeStream_inShape (p st : Nat) (hs : InShape s) : InShape (chargeStream p st s) := by
  unfold chargeStream
  dsimp only
  split
  · exact hs
  · exact chargeCycles_inShape _ _ (State.modStream_inShape _ _ _ hs)

theorem chargeTick_inShape (hs : InShape s) : InShape (chargeTick s) := by
  unfold chargeTick
  dsimp only
  exact decisionPass_inShape (.foldl (fun _ _ h => chargeStream_inShape _ _ h) _ hs)

theorem evictAfterExpiry_inShape (r : Nat) (hs : InShape s) : InShape (evictAfterExpiry r s) := by
  unfold evictAfterExpiry
  split
  · split
    · refine .ite (fun _ => decisionPass_inShape (releaseRes_inShape _ (countVacate_inShape hs))) (fun _ => ?_)
      exact .ite (fun _ => decisionPass_inShape hs) (fun _ => hs)
    · exact hs
  · exact hs

theorem saveBytes_inShape (bs fs : List Nat) (hs : InShape s) : InShape (saveBytes bs fs s) :=
  hs.within (saveBytes_within _ _ (.refl _ _) (.refl _))

theorem restoreBytes_inShape (bs fs : List Nat) (hs : InShape s) : InShape (restoreBytes bs fs s) :=
  hs.within (restoreBytes_within _ _ (.refl _ _) (.refl _))

theorem frameTraffic_inShape (write : Bool) (c : Nat) (bs fs : List Nat) (hs : InShape s) : InShape (frameTraffic write c bs fs s) :=
  hs.within (frameTraffic_within _ _ _ _ (.refl _ _) (.refl _))

theorem saveLanded_inShape (r : Nat) (hs : InShape s) : InShape (saveLanded r s) := by
  unfold saveLanded
  dsimp only
  split
  · exact hs
  · refine .ite (fun _ => ?_) (fun _ => ?_)
    · refine decisionPass_inShape ?_
      exact trace_inShape _ _ _ _ _ (requestParts_inShape _ (startClear_inShape _ _ (State.modRes_inShape _ _ (setBenches_inShape _ _
        (frameTraffic_inShape _ _ _ _ (saveBytes_inShape _ _ hs))))))
    · exact hs

theorem restoreLanded_inShape (r : Nat) (hs : InShape s) : InShape (restoreLanded r s) := by
  unfold restoreLanded
  dsimp only
  split
  · exact hs
  · refine .ite (fun _ => ?_) (fun _ => ?_)
    · refine checkMapout_inShape ?_
      exact decisionPass_inShape (trace_inShape _ _ _ _ _ (setBenches_inShape _ _ (State.modRes_inShape _ _ (dropSave_inShape _
        (frameTraffic_inShape _ _ _ _ (restoreBytes_inShape _ _ hs))))))
    · exact hs

theorem clearDone_inShape (b : Nat) (hs : InShape s) : InShape (clearDone b s) := by
  unfold clearDone
  dsimp only
  refine .ite (fun _ => ?_) (fun _ => hs)
  exact decisionPass_inShape (trace_inShape _ _ _ _ _ (setBench_inShape _ _ (State.modSlice_inShape _ _ (clearBench_inShape _ hs))))

theorem readText_inShape (p : Nat) (l : Launch) (off : Nat) (hs : InShape s) : InShape (readText p l off s) := by
  unfold readText
  exact readBy_inShape _ _ _ _ hs

theorem readTable_inShape (p : Nat) (l : Launch) (a : Loc) (n : Nat) (hs : InShape s) : InShape (readTable p l a n s) :=
  hs.within (readTable_within _ _ _ _ (.refl _ _) (.refl _))

theorem launchReceive_inShape (p st : Nat) (hs : InShape s) : InShape (launchReceive p st s) := by
  unfold launchReceive
  dsimp only
  split
  · exact hs
  · exact .ite (fun _ => hs) (fun _ => State.modStream_inShape _ _ _ (readTable_inShape _ _ _ _ (readMarked_inShape _ _ hs)))

theorem launchRetryRequest_inShape (p st cause : Nat) (hs : InShape s) : InShape (launchRetryRequest p st cause s) := by
  unfold launchRetryRequest
  dsimp only
  split
  · exact hs
  · refine .ite (fun _ => hs) (fun _ => ?_)
    refine .ite (fun _ => orderStage2_inShape _ _ _ _ (emit_inShape _ hs)) (fun _ => ?_)
    exact emit_inShape _ (State.modStream_inShape _ _ _ (rewindQueue_inShape _ _ (hutchRec_inShape _ _ _ (emit_inShape _ hs))))

theorem stall_inShape (p st cause what : Nat) (hs : InShape s) : InShape (stall p st cause what s) := by
  unfold stall
  dsimp only
  refine .ite (fun _ => .ite (fun _ => hs) (fun _ => State.modStream_inShape _ _ _ (State.modSlice_inShape _ _ hs))) (fun _ => ?_)
  exact State.modSlice_inShape _ _ (State.modStream_inShape _ _ _ hs)

theorem lineArrives_inShape (p st off : Nat) (hs : InShape s) : InShape (lineArrives p st off s) := by
  unfold lineArrives
  dsimp only
  split
  · exact hs
  · refine .ite (fun _ => ?_) (fun _ => hs)
    exact readText_inShape _ _ _ (.when (State.modStream_inShape _ _ _ (State.modSlice_inShape _ _ hs))
      (fun h => State.modSlice_inShape _ _ h))

theorem icacheFill_inShape (p st off : Nat) (hs : InShape s) : InShape (icacheFill p st off s) := by
  unfold icacheFill
  dsimp only
  split
  · exact hs
  · refine .ite (fun _ => lineArrives_inShape _ _ _ (stall_inShape _ _ _ _ (State.modSlice_inShape _ _ hs))) (fun _ => ?_)
    exact lineArrives_inShape _ _ _ hs

theorem alarmReport_inShape (p st : Nat) (r : AlarmReport) (hs : InShape s) : InShape (alarmReport p st r s) := by
  unfold alarmReport
  exact emit_inShape _ (State.modStream_inShape _ _ _ hs)

theorem alarmSet_inShape (p st cycle id : Nat) (prefetch : Bool) (hs : InShape s) : InShape (alarmSet p st cycle id prefetch s) := by
  unfold alarmSet
  dsimp only
  refine .ite (fun _ => hs) (fun _ => ?_)
  exact .ite (fun _ => alarmReport_inShape _ _ _ (emit_inShape _ hs)) (fun _ => State.modStream_inShape _ _ _ (emit_inShape _ hs))

theorem haltStream_inShape (p st : Nat) (f : Option StreamFault) (hs : InShape s) : InShape (haltStream p st f s) := by
  unfold haltStream
  exact State.modStream_inShape _ _ _ hs

theorem programError_inShape (p st code : Nat) (hs : InShape s) : InShape (programError p st code s) := by
  unfold programError
  dsimp only
  exact haltStream_inShape _ _ _ hs

theorem slipEvent_inShape (p st : Nat) (hs : InShape s) : InShape (slipEvent p st s) := by
  unfold slipEvent
  dsimp only
  split
  · exact raiseEvent_inShape _ hs
  · exact hs

theorem stopRequest_inShape (p st : Nat) (hs : InShape s) : InShape (stopRequest p st s) := by
  unfold stopRequest
  dsimp only
  exact .ite (fun _ => haltStream_inShape _ _ _ hs) (fun _ => hs)

theorem stopConfirm_inShape (p st : Nat) (hs : InShape s) : InShape (stopConfirm p st s) := by
  unfold stopConfirm
  dsimp only
  split
  · exact hs
  · refine .ite (fun _ => ?_) (fun _ => hs)
    exact settleStops_inShape (emit_inShape _ (State.modStream_inShape _ _ _ (chargeStream_inShape _ _ (slipEvent_inShape _ _ hs))))

theorem hazardReport_inShape (p st : Nat) (hs : InShape s) : InShape (hazardReport p st s) := by
  unfold hazardReport
  dsimp only
  split
  · exact .ite (fun _ => requestStops_inShape _ (State.modStream_inShape _ _ _ (faultStream_inShape _ _ _ _ hs))) (fun _ => hs)
  · exact hs

theorem streamRelease_inShape (p st : Nat) (hs : InShape s) : InShape (streamRelease p st s) := by
  unfold streamRelease
  dsimp only
  split
  · exact hs
  · exact .ite (fun _ => emit_inShape _ (releaseStream_inShape _ _ hs)) (fun _ => hs)

theorem unitActions_inShape (p : Nat) (l : Launch) (actions : List Byte) (cycle : Nat) (hs : InShape s) :
    InShape (unitActions p l actions cycle s) :=
  hs.within (unitActions_within _ _ _ _ (.refl _ _) (.refl _))

theorem prefetchText_inShape (p : Nat) (l : Launch) (hs : InShape s) : InShape (prefetchText p l s) := by
  unfold prefetchText
  exact .foldl (fun _ _ h => .ite (fun _ => h) (fun _ => readText_inShape _ _ _ (State.modSlice_inShape _ _ h))) _ hs

theorem fireAlarms_inShape (p st : Nat) (l : Launch) (cycle : Nat) (hs : InShape s) : InShape (fireAlarms p st l cycle s) := by
  unfold fireAlarms
  dsimp only
  exact .when (.foldl (fun _ _ h => alarmReport_inShape _ _ _ h) _ (State.modStream_inShape _ _ _ hs))
    (fun h => prefetchText_inShape _ _ h)

theorem useLines_inShape (p : Nat) (l : Launch) (pc n : Nat) (hs : InShape s) : InShape (useLines p l pc n s) := by
  unfold useLines
  exact .foldl (fun _ _ h => State.modSlice_inShape _ _ h) _ hs

theorem issueCommon_inShape (p st : Nat) (l : Launch) (b : Ctl) (actions : List Byte) (hs : InShape s) :
    InShape (issueCommon p st l b actions s) := by
  unfold issueCommon
  dsimp only
  exact fireAlarms_inShape _ _ _ _ (unitActions_inShape _ _ _ _ (State.modStream_inShape _ _ _ (useLines_inShape _ _ _ _ hs)))

theorem issueBundle_inShape (p st : Nat) (l : Launch) (b : Ctl) (actions : List Byte) (loops : List (Nat × Nat)) (pc : Nat)
    (hs : InShape s) :
    InShape (issueBundle p st l b actions loops pc s) := by
  unfold issueBundle
  exact State.modStream_inShape _ _ _ (issueCommon_inShape _ _ _ _ _ hs)

theorem bundleGo_inShape (p st : Nat) (hazard : Option (Nat × Nat)) (x : Stream) (l : Launch) (b : Ctl) (hs : InShape s) :
    InShape (bundleGo p st hazard x l b s) := by
  unfold bundleGo
  dsimp only
  refine .ite (fun _ => ?_) (fun _ => ?_)
  · exact .when (State.modStream_inShape _ _ _ hs) (fun h => stall_inShape _ _ _ _ h)
  · split
    · exact haltStream_inShape _ _ _ hs
    · exact haltStream_inShape _ _ _ hs
    · split
      · exact programError_inShape _ _ _ hs
      · exact issueBundle_inShape _ _ _ _ _ _ _ hs

theorem bundleRun_inShape (p st : Nat) (hazard : Option (Nat × Nat)) (x : Stream) (l : Launch) (hs : InShape s) :
    InShape (bundleRun p st hazard x l s) := by
  unfold bundleRun
  dsimp only
  refine .ite (fun _ => programError_inShape _ _ _ hs) (fun _ => .ite (fun _ => stall_inShape _ _ _ _ hs) (fun _ => ?_))
  refine .ite (fun _ => programError_inShape _ _ _ hs) (fun _ => .ite (fun _ => stall_inShape _ _ _ _ hs) (fun _ => ?_))
  refine .ite (fun _ => programError_inShape _ _ _ hs) (fun _ => .ite (fun _ => stall_inShape _ _ _ _ hs) (fun _ => ?_))
  exact .ite (fun _ => stall_inShape _ _ _ _ hs) (fun _ => bundleGo_inShape _ _ _ _ _ _ hs)

theorem bundleIssue_inShape (p st : Nat) (hazard : Option (Nat × Nat)) (hs : InShape s) : InShape (bundleIssue p st hazard s) := by
  unfold bundleIssue
  dsimp only
  split
  · exact hs
  · split
    · refine .ite (fun _ => ?_) (fun _ => ?_)
      · exact stall_inShape _ _ _ _ hs
      · split
        · exact haltStream_inShape _ _ _ hs
        · exact hs
    · exact bundleRun_inShape _ _ _ _ _ hs
    · exact bundleRun_inShape _ _ _ _ _ hs
    · exact bundleRun_inShape _ _ _ _ _ hs
    · exact hs

theorem streamDrainDone_inShape (p st : Nat) (hs : InShape s) : InShape (streamDrainDone p st s) := by
  unfold streamDrainDone
  dsimp only
  split
  · exact hs
  · refine .ite (fun _ => ?_) (fun _ => hs)
    exact settleStops_inShape (emit_inShape _ (slipEvent_inShape _ _ (.foldl (fun _ _ h => alarmReport_inShape _ _ _ h) _
      (State.modStream_inShape _ _ _ (issueCommon_inShape _ _ _ _ _ hs)))))

theorem stepEnded_inShape (l : Nat) (r : Nat) (hs : InShape s) : InShape (stepEnded l r s) := by
  unfold stepEnded
  dsimp only
  split
  · exact hs
  · exact trace_inShape _ _ _ _ _ (State.modRes_inShape _ _ (State.modLoop_inShape _ _ hs))

theorem runEnded_inShape (k pos r : Nat) (hs : InShape s) : InShape (runEnded k pos r s) := by
  unfold runEnded
  dsimp only
  exact .when (settleStops_inShape (finishOk_inShape _ _ (settleReady_inShape (State.modRes_inShape _ _ hs))))
    (fun h => decisionPass_inShape h)

theorem badReport_inShape (p st : Nat) (l : Launch) (hs : InShape s) : InShape (badReport p st l s) := by
  unfold badReport
  dsimp only
  exact .when (emit_inShape _ (State.modSlice_inShape _ _ (hutchRec_inShape _ _ _ hs))) (fun h => machineCheck_inShape _ _ _ h)

theorem stepEndReport_inShape (p st : Nat) (crcOk : Bool) (hs : InShape s) : InShape (stepEndReport p st crcOk s) := by
  unfold stepEndReport
  dsimp only
  split
  · exact hs
  · split
    · refine .ite (fun _ => ?_) (fun _ => ?_)
      · exact hs
      · refine .ite (fun _ => ?_) (fun _ => ?_)
        · exact badReport_inShape _ _ _ hs
        · refine .when ?_ ?_
          · exact releaseStream_inShape _ _ (chargeStream_inShape _ _ (State.modSlice_inShape _ _ hs))
          · intro h
            split
            · exact runEnded_inShape _ _ _ h
            · exact stepEnded_inShape _ _ h
            · exact h
    · exact .ite (fun _ => badReport_inShape _ _ _ hs) (fun _ => hs)
    · exact hs

theorem State.modEngine_inShape (p st eng : Nat) (f : SideEngine → SideEngine) (hs : InShape s) :
    InShape (State.modEngine s p st eng f) := by
  unfold State.modEngine
  exact State.modStream_inShape _ _ _ hs

theorem sideFault_inShape (p st eng : Nat) (h : Posted) (status : Status) (code address : Nat) (hs : InShape s) :
    InShape (sideFault p st eng h status code address s) := by
  unfold sideFault
  exact haltStream_inShape _ _ _ (State.modEngine_inShape _ _ _ _ hs)

theorem takeSide_inShape (p st eng op : Nat) (act : Launch → SideCmd → State → SideAct) (hs : InShape s) (ha : ∀ l c s, InShape s →
    (act l c s).InShape) :
    InShape (takeSide p st eng op act s) := by
  unfold takeSide
  dsimp only
  split
  · exact hs
  · next l _ =>
    split
    · exact hs
    · next h pc _ =>
      refine .ite (fun _ => hs) (fun _ => .ite (fun _ => sideFault_inShape _ _ _ _ _ _ _ hs) (fun _ => ?_))
      have hr : InShape (if (engineAt (streamAt p st s) eng).waiting = true then s
          else readTable p l (storeLoc l (imSideOff (launchImage l s) + pc) s) 32 s) :=
        .ite (fun _ => hs) (fun _ => readTable_inShape _ _ _ _ hs)
      refine .ite (fun _ => sideFault_inShape _ _ _ _ _ _ _ hr) (fun _ => .ite (fun _ => hs) (fun _ => ?_))
      split
      · next e => exact State.modEngine_inShape _ _ _ _ (SideAct.InShape.of_done e (ha _ _ _ hr))
      · exact sideFault_inShape _ _ _ _ _ _ _ hr
      · next e => exact sideFault_inShape _ _ _ _ _ _ _ (SideAct.InShape.of_mismatch e (ha _ _ _ hr))
      · exact State.modEngine_inShape _ _ _ _ hr
      · exact hs

theorem scratchWrite_inShape (a : Nat) (bs : List Byte) (hs : InShape s) : InShape (scratchWrite a bs s) :=
  hs.within (scratchWrite_within _ _ (.refl _ _) (.refl _))

theorem readHot_inShape (p c : Nat) (m : Model) (off n : Nat) (hs : InShape s) : InShape (readHot p c m off n s) := by
  unfold readHot
  exact .foldl (fun _ _ h => readBy_inShape _ _ _ _ h) _ hs

theorem loadAct_inShape (p : Nat) (l : Launch) (c : SideCmd) (hs : InShape s) : (loadAct p l c s).InShape := by
  unfold loadAct
  dsimp only
  refine .ite ?_ ?_
  · intro _
    exact trivial -- Sys2Proof.Machine.SideAct.stop
  · intro _
    split
    · exact trivial -- Sys2Proof.Machine.SideAct.stop
    · split
      · refine .ite ?_ ?_
        · intro _
          exact trivial -- Sys2Proof.Machine.SideAct.wait
        · exact fun _ => .done (readHot_inShape _ _ _ _ _ (scratchWrite_inShape _ _ hs))
      · refine .ite ?_ ?_
        · intro _
          exact trivial -- Sys2Proof.Machine.SideAct.hold
        · intro _
          refine .ite ?_ ?_
          · intro _
            exact trivial -- Sys2Proof.Machine.SideAct.wait
          · exact fun _ => .done (readBy_inShape _ _ _ _ (scratchWrite_inShape _ _ hs))

theorem storeAct_inShape (p : Nat) (l : Launch) (c : SideCmd) (hs : InShape s) : (storeAct p l c s).InShape := by
  unfold storeAct
  dsimp only
  refine .ite ?_ ?_
  · intro _
    exact trivial -- Sys2Proof.Machine.SideAct.stop
  · intro _
    split
    · exact trivial -- Sys2Proof.Machine.SideAct.stop
    · split
      · exact trivial -- Sys2Proof.Machine.SideAct.stop
      · refine .ite ?_ ?_
        · intro _
          exact trivial -- Sys2Proof.Machine.SideAct.wait
        · exact fun _ => .done (writeBy_inShape _ _ _ _ hs)

theorem reportLost_inShape (i f : Nat) (hs : InShape s) : InShape (reportLost i f s) := by
  unfold reportLost
  exact State.modSeq_inShape _ _ hs

theorem gatherPage_inShape (p : Nat) (l : Launch) (c : SideCmd) (i : Nat) (e : LeafEntry) (a : Nat) (hs : InShape s) :
    InShape (gatherPage p l c i e a s) := by
  unfold gatherPage
  dsimp only
  refine .ite (fun _ => reportLost_inShape _ _ (scratchWrite_inShape _ _ hs)) (fun _ => ?_)
  exact readBy_inShape _ _ _ _ (scratchWrite_inShape _ _ (setFrame_inShape _ _ hs))

theorem readRecord_inShape (p : Nat) (l : Launch) (c : SideCmd) (hs : InShape s) : InShape (readRecord p l c s) :=
  hs.within (readRecord_within _ _ _ (.refl _ _) (.refl _))

theorem gatherAct_inShape (p : Nat) (l : Launch) (c : SideCmd) (hs : InShape s) : (gatherAct p l c s).InShape := by
  unfold gatherAct
  dsimp only
  split
  · exact trivial -- Sys2Proof.Machine.SideAct.stop
  · refine .ite ?_ ?_
    · intro _
      exact trivial -- Sys2Proof.Machine.SideAct.wait
    · exact fun _ => .done (.foldl (fun _ _ h => gatherPage_inShape _ _ _ _ _ _ h) _ (readRecord_inShape _ _ _ hs))

theorem scatterAct_inShape (p : Nat) (l : Launch) (c : SideCmd) (hs : InShape s) : (scatterAct p l c s).InShape := by
  unfold scatterAct
  dsimp only
  split
  · exact trivial -- Sys2Proof.Machine.SideAct.stop
  · refine .ite ?_ ?_
    · intro _
      exact trivial -- Sys2Proof.Machine.SideAct.wait
    · intro _
      refine .ite ?_ ?_
      · intro _
        exact trivial -- Sys2Proof.Machine.SideAct.stop
      · exact fun _ => .done (.foldl (fun _ _ h => .ite (fun _ => reportLost_inShape _ _ h) (fun _ => writeBy_inShape _ _ _ _ h)) _
          (readRecord_inShape _ _ _ hs))

theorem sendAct_inShape (p st : Nat) (l : Launch) (c : SideCmd) (hs : InShape s) : (sendAct p st l c s).InShape := by
  unfold sendAct
  dsimp only
  refine .ite ?_ ?_
  · intro _
    exact trivial -- Sys2Proof.Machine.SideAct.stop
  · exact fun _ => .done (charge_inShape _ _ _ (emit_inShape _ hs))

theorem recvAct_inShape (p st : Nat) (l : Launch) (c : SideCmd) (hs : InShape s) : (recvAct p st l c s).InShape := by
  unfold recvAct
  dsimp only
  refine .ite ?_ ?_
  · intro _
    exact trivial -- Sys2Proof.Machine.SideAct.stop
  · intro _
    split
    · exact trivial -- Sys2Proof.Machine.SideAct.wait
    · exact .ite (fun _ => .mismatch (hs.link rfl)) (fun _ => .done (scratchWrite_inShape _ _ (hs.link rfl)))

theorem collectiveData_inShape (p st peer chan : Nat) (data : List Byte) (hs : InShape s) :
    InShape (collectiveData p st peer chan data s) := by
  unfold collectiveData
  dsimp only
  split
  · exact .ite (fun _ => charge_inShape _ _ _ (hs.link rfl)) (fun _ => hs.link rfl)
  · exact hs.link rfl

theorem writeReg_inShape (p st r : Nat) (v : W64) (hs : InShape s) : InShape (writeReg p st r v s) := by
  unfold writeReg
  exact State.modStream_inShape _ _ _ hs

theorem reduceAct_inShape (p st : Nat) (l : Launch) (c : SideCmd) (hs : InShape s) : (reduceAct p st l c s).InShape := by
  unfold reduceAct
  refine .ite ?_ ?_
  · intro _
    exact trivial -- Sys2Proof.Machine.SideAct.stop
  · exact fun _ => .done (writeReg_inShape _ _ _ _ hs)

theorem setregAct_inShape (p st : Nat) (x0 : Launch) (c : SideCmd) (hs : InShape s) : (setregAct p st x0 c s).InShape := by
  unfold setregAct
  refine .ite ?_ ?_
  · intro _
    exact trivial -- Sys2Proof.Machine.SideAct.stop
  · exact fun _ => .done (writeReg_inShape _ _ _ _ hs)

theorem sidePieceLanded_inShape (p st eng : Nat) (hs : InShape s) : InShape (sidePieceLanded p st eng s) := by
  unfold sidePieceLanded
  dsimp only
  split
  · exact hs
  · exact .ite (fun _ => State.modStream_inShape _ _ _ (State.modEngine_inShape _ _ _ _ hs)) (fun _ => hs)

theorem sideCommandLanded_inShape (p st eng : Nat) (hs : InShape s) : InShape (sideCommandLanded p st eng s) := by
  unfold sideCommandLanded
  dsimp only
  split
  · exact hs
  · exact State.modStream_inShape _ _ _ hs

theorem objResult_inShape (r id : Nat) (hs : InShape s) : InShape (objResult r id s) := by
  unfold objResult
  dsimp only
  exact hs.hub rfl

theorem takeArenas_inShape (t : TenantRec) (hs : InShape s) : InShape (takeArenas t s) := by
  unfold takeArenas
  exact hs.setFrames (tabWf_filter _ hs.frames) rfl

theorem tenantActivate_inShape (id : Nat) (rd : HostRead) (hs : InShape s) : InShape (tenantActivate id rd s) := by
  unfold tenantActivate
  dsimp only
  refine .ite (fun _ => ?_) (fun _ => ?_)
  · exact cmdIgnored_inShape _ hs
  · refine .ite (fun _ => ?_) (fun _ => ?_)
    · exact objResult_inShape _ _ hs
    · refine .ite (fun _ => ?_) (fun _ => ?_)
      · exact objResult_inShape _ _ hs
      · split
        · split
          · exact objResult_inShape _ _ (readReq_inShape _ _ _ _ hs)
          · refine .ite (fun _ => objResult_inShape _ _ (readReq_inShape _ _ _ _ hs)) (fun _ => ?_)
            refine .ite (fun _ => objResult_inShape _ _ (readReq_inShape _ _ _ _ hs)) (fun _ => ?_)
            refine .ite (fun _ => objResult_inShape _ _ (readReq_inShape _ _ _ _ hs)) (fun _ => ?_)
            exact objResult_inShape _ _ (usageSend_inShape _ ((takeArenas_inShape _ (readReq_inShape _ _ _ _ hs)).tenants _))
        · exact objResult_inShape _ _ (readReq_inShape _ _ _ _ hs)

theorem dropTenantModels_inShape (t : Nat) (hs : InShape s) : InShape (dropTenantModels t s) := by
  unfold dropTenantModels
  exact .foldl (fun _ _ h => removeModel_inShape _ h) _ hs

theorem tenantRetire_inShape (id : Nat) (hs : InShape s) : InShape (tenantRetire id s) := by
  unfold tenantRetire
  dsimp only
  refine .ite (fun _ => cmdIgnored_inShape _ hs) (fun _ => ?_)
  refine .ite (fun _ => objResult_inShape _ _ hs) (fun _ => ?_)
  refine .ite (fun _ => objResult_inShape _ _ hs) (fun _ => ?_)
  exact objResult_inShape _ _ (usageSend_inShape _ (InShape.tenants (.foldl (fun _ _ h => flushBytes_inShape _ _ h) _
    (dropTenantModels_inShape _ hs)) _))

theorem contextActivate_inShape (id : Nat) (rd : HostRead) (hs : InShape s) : InShape (contextActivate id rd s) := by
  unfold contextActivate
  dsimp only
  refine .ite (fun _ => ?_) (fun _ => ?_)
  · exact cmdIgnored_inShape _ hs
  · refine .ite (fun _ => ?_) (fun _ => ?_)
    · exact objResult_inShape _ _ hs
    · split
      · split
        · exact objResult_inShape _ _ (readReq_inShape _ _ _ _ hs)
        · split
          · exact objResult_inShape _ _ (readReq_inShape _ _ _ _ hs)
          · refine .ite (fun _ => ?_) (fun _ => ?_)
            · exact objResult_inShape _ _ (readReq_inShape _ _ _ _ hs)
            · refine .ite (fun _ => ?_) (fun _ => ?_)
              · exact objResult_inShape _ _ (readReq_inShape _ _ _ _ hs)
              · refine objResult_inShape _ _ ?_
                have h : InShape (readReq none .hub (pfLoc (s.hub.ctxBase + id % 16384 * 64)) 64 s) := readReq_inShape _ _ _ _ hs
                exact { h with contexts := tabWf_tset _ _ _ h.contexts, uses := h.uses.tdel _ }
      · exact objResult_inShape _ _ (readReq_inShape _ _ _ _ hs)

theorem freeContext_inShape (c : Nat) (hs : InShape s) : InShape (freeContext c s) := { hs with
  contexts := tabWf_tdel _ hs.contexts, queues := tabWf_filter _ hs.queues, windows := hs.windows.filter _ }

theorem contextRetire_inShape (id : Nat) (hs : InShape s) : InShape (contextRetire id s) := by
  unfold contextRetire
  dsimp only
  refine .ite (fun _ => ?_) (fun _ => ?_)
  · exact cmdIgnored_inShape _ hs
  · split
    · exact objResult_inShape _ _ hs
    · split
      · exact objResult_inShape _ _ hs
      · exact objResult_inShape _ _ (freeContext_inShape _ hs)
      · refine beginTeardown_inShape _ _ _ _ ?_
        exact { hs with contexts := tabWf_tset _ _ _ hs.contexts }

theorem releaseStreams_inShape (c : Nat) (hs : InShape s) : InShape (releaseStreams c s) := by
  unfold releaseStreams
  dsimp only
  exact .foldl (fun _ _ h => releaseStream_inShape _ _ (.ite (fun _ => chargeStream_inShape _ _ h) (fun _ => h))) _ hs

theorem dropKept_inShape (c : Nat) (hs : InShape s) : InShape (dropKept c s) := by
  unfold dropKept
  split
  · exact hs
  · exact freeFrames_inShape _ (hs.putContext _ _)

theorem releaseAllRes_inShape (c : Nat) (hs : InShape s) : InShape (releaseAllRes c s) := by
  unfold releaseAllRes
  exact dropKept_inShape _ (.foldl (fun _ _ h => releaseRes_inShape _ (.foldl (fun _ _ h => clearBench_inShape _ h) _
    (dropSave_inShape _ h))) _ hs)

theorem orphanModels_inShape (c : Nat) (hs : InShape s) : InShape (orphanModels c s) := by
  unfold orphanModels
  dsimp only
  exact reapModels_inShape (hs.wrd rfl rfl)

theorem dropOwned_inShape (c : Nat) (hs : InShape s) : InShape (dropOwned c s) := by
  unfold dropOwned
  lift_lets
  intro s1 s2 s3
  have h1 : InShape s1 := .foldl (fun _ _ h => dropSeq_inShape _ h) _ hs
  have h2 : InShape s2 := .foldl (fun _ _ h => closeLoop_inShape _ h) _ (dropLeft_inShape _ h1)
  have h3 : InShape s3 := .foldl (fun _ _ h => dropLines_inShape _ _ h) _ h2
  exact orphanModels_inShape _ (h3.of_shape rfl)

theorem writeFault_inShape (c : Nat) (x : Context) (hs : InShape s) : InShape (writeFault c x s) := by
  unfold writeFault
  split
  · exact hs
  · exact hostWrite_inShape _ _ _ hs

theorem endTeardown_inShape (c : Nat) (x : Context) (fault : Bool) (hs : InShape s) : InShape (endTeardown c x fault s) := by
  unfold endTeardown
  lift_lets
  intro s1 _ s2 s3 y s4 s5
  have h1 : InShape s1 := releaseAllRes_inShape _ (releaseStreams_inShape _ (dropOwned_inShape _ hs))
  clear_value s1
  have h2 : InShape s2 := h1.sched rfl
  have h3 : InShape s3 := .ite (fun _ => writeFault_inShape _ _ h2) (fun _ => h2)
  have h4 : InShape s4 := .ite (fun _ => h3.putContext _ _) (fun _ => freeContext_inShape _ h3)
  have h5 : InShape s5 := .ite (fun _ => objResult_inShape _ _ h4) (fun _ => h4)
  exact decisionPass_inShape (checkMapout_inShape (updateGvt_inShape h5))

theorem teardownDone_inShape (c : Nat) (hs : InShape s) : InShape (teardownDone c s) := by
  unfold teardownDone
  split
  · exact hs
  · split
    · exact .ite (fun _ => endTeardown_inShape _ _ _ hs) (fun _ => hs)
    · exact hs

theorem sealResult_inShape (r : Nat) (hs : InShape s) : InShape (sealResult r s) := by
  unfold sealResult
  dsimp only
  exact hs.hub rfl

theorem sealLoad_inShape (slot : Nat) (rd : HostRead) (hs : InShape s) : InShape (sealLoad slot rd s) := by
  unfold sealLoad
  dsimp only
  refine .ite (fun _ => ?_) (fun _ => ?_)
  · exact cmdIgnored_inShape _ hs
  · split
    · split
      · exact sealResult_inShape _ (readReq_inShape _ _ _ _ hs)
      · refine .ite (fun _ => sealResult_inShape _ (readReq_inShape _ _ _ _ hs)) (fun _ => ?_)
        exact sealResult_inShape _ ((readReq_inShape _ _ _ _ hs).hub rfl)
    · exact sealResult_inShape _ (readReq_inShape _ _ _ _ hs)

theorem sealClear_inShape (slot : Nat) (hs : InShape s) : InShape (sealClear slot s) := by
  unfold sealClear
  dsimp only
  exact .ite (fun _ => cmdIgnored_inShape _ hs) (fun _ => sealResult_inShape _ (hs.hub rfl))

theorem cellAllocate_inShape (cls queue : Nat) (tenant : Option Nat) (cells : List Nat) (hs : InShape s) :
    InShape (cellAllocate cls queue tenant cells s) := by
  unfold cellAllocate
  dsimp only
  refine .ite (fun _ => ?_) (fun _ => ?_)
  · exact hs
  · split
    · exact evalChest_inShape (grantNow_inShape _ hs _ ‹_›)
    · exact State.modChest_inShape hs (fun _ => rfl) (fun _ => rfl)

theorem chestCheck_inShape (code cls queue : Nat) (hs : InShape s) : InShape (chestCheck code cls queue s) := by
  unfold chestCheck
  dsimp only
  exact machineCheck_inShape _ _ _ hs

theorem cellMark_inShape (cls queue : Nat) (hs : InShape s) : InShape (cellMark cls queue s) := by
  unfold cellMark
  exact .ite (fun _ => modCells_inShape _ _ _ hs) (fun _ => hs)

theorem cellRewind_inShape (cls queue : Nat) (hs : InShape s) : InShape (cellRewind cls queue s) := by
  unfold cellRewind
  refine .ite (fun _ => ?_) (fun _ => ?_)
  · exact hs
  · split
    · exact modCells_inShape _ _ _ hs
    · exact chestCheck_inShape _ _ _ hs

theorem cellRelease_inShape (cls queue k : Nat) (hs : InShape s) : InShape (cellRelease cls queue k s) := by
  unfold cellRelease
  exact .ite (fun _ => hs) (fun _ => .ite (fun _ => chestCheck_inShape _ _ _ hs) (fun _ => freeHead_inShape _ _ _ hs))

theorem correctedEcc_inShape (cell word : Nat) (hs : InShape s) : InShape (correctedEcc cell word s) := by
  unfold correctedEcc
  dsimp only
  exact .when (State.modChest_setBanks hs (tabWf_tset _ _ _ hs.banks) (fun _ => rfl)) (fun h => raiseEvent_inShape _ h)

theorem retireCell_inShape (cell : Nat) (hs : InShape s) : InShape (retireCell cell s) := by
  unfold retireCell
  dsimp only
  exact .when (State.modChest_inShape hs (fun _ => rfl) (fun _ => rfl)) (fun h => orderStage3_inShape _ _ _ h)

theorem poisonCtx_inShape (cs : List (Nat × Nat)) (cell : Nat) (hs : InShape s) : InShape (poisonCtx cs cell s) := by
  unfold poisonCtx
  dsimp only
  split
  · exact hs
  · exact memFaultCmd_inShape _ _ _ _ (.foldl (fun _ _ h => faultLatch_inShape _ _ _ _ h) _ hs)

theorem poisonCmds_inShape (cs : List (Nat × Nat)) (cell : Nat) (hs : InShape s) : InShape (poisonCmds cs cell s) := by
  unfold poisonCmds
  exact .foldl (fun _ _ h => poisonCtx_inShape _ _ h) _ hs

theorem poisonFetch_inShape (k : Nat) (items : List Nat) (hs : InShape s) : InShape (poisonFetch k items s) := by
  unfold poisonFetch
  dsimp only
  split
  · exact hs
  · exact .foldl (fun _ _ h => dropItem_inShape _ _ _ (dropItem_inShape _ _ _ h)) _ (State.modQ_inShape _ _ hs (fun _ w => w))

theorem poisonJournal_inShape (queue : Nat) (items : List Nat) (hs : InShape s) : InShape (poisonJournal queue items s) := by
  unfold poisonJournal
  dsimp only
  split
  · exact hs.trestle rfl
  · split
    · exact hs.trestle rfl
    · split
      · exact hs.trestle rfl
      · exact journal_inShape _ _ _ _ _ _ _ (State.modLoop_inShape _ _ (hs.trestle rfl))

theorem poisonOutcome_inShape (cls queue cell : Nat) (items : List Nat) (hs : InShape s) :
    InShape (poisonOutcome cls queue cell items s) := by
  unfold poisonOutcome
  dsimp only
  refine .ite (fun _ => ?_) (fun _ => ?_)
  · exact poisonFetch_inShape _ _ hs
  · refine .ite (fun _ => ?_) (fun _ => ?_)
    · split
      · exact poisonCmds_inShape _ _ hs
      · exact poisonCmds_inShape _ _ hs
      · exact .ite (fun _ => hs) (fun _ => faultStream_inShape _ _ _ _ hs)
    · refine .ite (fun _ => poisonCmds_inShape _ _ hs) (fun _ => ?_)
      refine .ite (fun _ => State.modQ_inShape _ _ hs (fun _ w => w)) (fun _ => ?_)
      exact .ite (fun _ => hs.jnl _) (fun _ => poisonJournal_inShape _ _ hs)

theorem chestRecord_inShape (cls queue word cause : Nat) (c : Cell) (scrub : Bool) (hs : InShape s) :
    InShape (chestRecord cls queue word cause c scrub s) :=
  hs.within (chestRecord_within _ _ _ _ _ _ (.refl _ _) (.refl _))

theorem cellLost_inShape (cls queue : Nat) (i : Nat) (c : Cell) (word cause : Nat) (scrub : Bool) (hs : InShape s) :
    InShape (cellLost cls queue i c word cause scrub s) := by
  unfold cellLost
  dsimp only
  refine poisonOutcome_inShape _ _ _ _ ?_
  exact settleChest_inShape (retireCell_inShape _ (State.modChest_inShape (modUsed_inShape _ _ (modCells_inShape _ _ _
    (chestRecord_inShape _ _ _ _ _ _ hs))) (fun _ => rfl) (fun _ => rfl)))

theorem correctAll_inShape (cell : Nat) (ecc : List EccFinding) (hs : InShape s) : InShape (correctAll cell ecc s) := by
  unfold correctAll
  refine .foldl ?_ _ ?_
  · intro _ _ h
    split
    · exact correctedEcc_inShape _ _ h
    · exact h
  · exact hs

theorem cellRead_inShape (cls queue : Nat) (ecc : List EccFinding) (hs : InShape s) : InShape (cellRead cls queue ecc s) := by
  unfold cellRead
  dsimp only
  refine .ite (fun _ => ?_) (fun _ => ?_)
  · exact hs
  · split
    · exact hs
    · refine .ite (fun _ => ?_) (fun _ => ?_)
      · exact hs
      · split
        · exact cellLost_inShape _ _ _ _ _ _ _ (correctAll_inShape _ _ hs)
        · refine .ite (fun _ => State.modChest_inShape (modCells_inShape _ _ _ (correctAll_inShape _ _ hs)) (fun _ => rfl)
            (fun _ => rfl)) (fun _ => ?_)
          exact cellLost_inShape _ _ _ _ _ _ _ (correctAll_inShape _ _ hs)

theorem chestWalkDone_inShape (stray : Option Nat) (hs : InShape s) : InShape (chestWalkDone stray s) := by
  unfold chestWalkDone
  dsimp only
  refine .ite (fun _ => ?_) (fun _ => ?_)
  · exact hs
  · split
    · exact machineCheck_inShape _ _ _ (State.modChest_inShape hs (fun _ => rfl) (fun _ => rfl))
    · exact settleChest_inShape (.foldl (fun _ _ h => freeCells_inShape _ _ _ h) _ (State.modChest_inShape hs (fun _ => rfl)
        (fun _ => rfl)))

theorem peakRead_inShape (cls : Option Nat) (hs : InShape s) : InShape (peakRead cls s) := by
  unfold peakRead
  dsimp only
  refine .ite (fun _ => hs) (fun _ => ?_)
  split
  · exact hs.port_chest rfl rfl
  · refine .ite (fun _ => hs.port _) (fun _ => ?_)
    exact hs.port_chest rfl (List.length_modify ..)

/-- Every slot of Bureau has six counters in each row. -/
abbrev Bureau.SlotsOk (b : Bureau) : Prop := Entries Slot.SixEach b.slots

section
variable {b : Bureau}

theorem Bureau.modSlot_slotsOk (t : Nat) {f : Slot → Slot} (h : b.SlotsOk) (hf : ∀ x, x.SixEach → (f x).SixEach) :
    (b.modSlot t f).SlotsOk :=
  Entries.tset h (hf _ (Entries.getD h ⟨rfl, rfl, rfl⟩))

theorem Slot.add_sixEach (i n : Nat) (x : Slot) (h : x.SixEach) : (x.add i n).SixEach :=
  ⟨(List.length_modify ..).trans h.1, h.2⟩

theorem Bureau.foldl_slotsOk {α : Type} {f : Bureau → α → Bureau} (hf : ∀ b a, b.SlotsOk → (f b a).SlotsOk) (l : List α)
    (h : b.SlotsOk) : (l.foldl f b).SlotsOk := by
  induction l generalizing b with
  | nil => exact h
  | cons a l ih => exact ih (hf b a h)

theorem pickCode_slotsOk (p : Nat) (h : b.SlotsOk) : (pickCode p b).2.SlotsOk := by
  unfold pickCode
  split
  · exact h
  · dsimp only
    split
    · exact h
    · refine Bureau.foldl_slotsOk (fun b t h => ?_) _ h
      exact Bureau.modSlot_slotsOk t h fun _ w => w

theorem shareEnergy_slotsOk (i : Integ) (p : Nat) (h : b.SlotsOk) : (shareEnergy i b p).SlotsOk := by
  unfold shareEnergy
  refine Bureau.foldl_slotsOk (fun b x hb => ?_) _ (pickCode_slotsOk p h)
  dsimp only
  split
  · exact hb
  · exact Bureau.modSlot_slotsOk _ hb fun y w => Slot.add_sixEach _ _ y w

theorem makePending_slotsOk (t : Nat) (k : ReportKind) (h : b.SlotsOk) : (makePending t k b).SlotsOk := by
  unfold makePending
  split
  · exact h
  · split <;> exact h

theorem retireSlot_slotsOk (t : Nat) (h : b.SlotsOk) : (retireSlot t b).SlotsOk :=
  makePending_slotsOk _ _ (Bureau.modSlot_slotsOk _ h fun _ w => w)

theorem activateSlot_slotsOk (t : Nat) (h : b.SlotsOk) : (activateSlot t b).SlotsOk :=
  makePending_slotsOk _ _ (Bureau.modSlot_slotsOk _ h fun _ ⟨hc, hs, _⟩ => ⟨hc, hc, hs⟩)

theorem addUse_slotsOk (t i n : Nat) (h : b.SlotsOk) : (addUse t i n b).SlotsOk := by
  have ha := Bureau.modSlot_slotsOk t h (Slot.add_sixEach i n)
  unfold addUse
  dsimp only
  split <;> exact ha

theorem applyUsage_slotsOk (u : Usage) (h : b.SlotsOk) : (applyUsage u b).SlotsOk := by
  unfold applyUsage
  split
  · exact h
  · exact addUse_slotsOk _ _ _ h
  · exact addUse_slotsOk _ _ _ h
  · exact activateSlot_slotsOk _ h
  · exact retireSlot_slotsOk _ h
  · exact makePending_slotsOk _ _ h
  · exact Bureau.foldl_slotsOk (fun _ _ h => makePending_slotsOk _ _ h) _ h
  · exact h

theorem bureauReset_slotsOk (h : b.SlotsOk) : (bureauReset b).SlotsOk := by
  unfold bureauReset
  exact Bureau.foldl_slotsOk (f := fun b t => retireSlot t b) (b := { b with occ := [] }) (fun _ _ h => retireSlot_slotsOk _ h) _ h

end

theorem sensorSample_inShape (p : Nat) (code : BitVec 16) (hs : InShape s) : InShape (sensorSample p code s) := by
  unfold sensorSample
  exact .ite (fun _ => State.modBureau_inShape hs hs.slots) (fun _ => hs)

theorem bureauTick_inShape (hs : InShape s) : InShape (bureauTick s) := by
  unfold bureauTick
  dsimp only
  refine .ite (fun _ => ?_) (fun _ => hs)
  exact State.modBureau_inShape (emit_inShape _ hs) (Bureau.foldl_slotsOk (fun _ _ h => shareEnergy_slotsOk _ _ h) _ hs.slots)

theorem takeUsage_inShape (kind : Nat) (hs : InShape s) : InShape (takeUsage kind s) := by
  unfold takeUsage
  dsimp only
  split
  · exact hs
  · exact .ite (fun _ => { hs with slots := applyUsage_slotsOk _ hs.slots }) (fun _ => hs)

theorem bytFlushTimer_inShape (tenant cls : Nat) (hs : InShape s) : InShape (bytFlushTimer tenant cls s) := by
  unfold bytFlushTimer
  exact .ite (fun _ => flushBytes_inShape _ _ hs) (fun _ => hs)

theorem periodicReport_inShape (hs : InShape s) : InShape (periodicReport s) := by
  unfold periodicReport
  dsimp only
  refine .ite (fun _ => State.modBureau_inShape hs (Bureau.foldl_slotsOk (fun _ _ h => makePending_slotsOk _ _ h) _ hs.slots))
    (fun _ => ?_)
  exact hs

theorem signingStart_inShape (hs : InShape s) : InShape (signingStart s) := by
  unfold signingStart
  dsimp only
  split
  · exact hs
  · exact .ite (fun _ => State.modBureau_inShape hs hs.slots) (fun _ => hs)

theorem signingDone_inShape (k next : BitVec 256) (hs : InShape s) : InShape (signingDone k next s) := by
  unfold signingDone
  split
  · exact hs
  · split
    · exact hs
    · exact State.modBureau_inShape hs hs.slots

theorem reportForward_inShape (hs : InShape s) : InShape (reportForward s) := by
  unfold reportForward
  dsimp only
  split
  · exact hs
  · exact .ite (fun _ => .of_shape (s := hostWrite _ _ _ s) (hostWrite_inShape _ _ _ hs) rfl) (fun _ => hs)

theorem burRingWrite_inShape (v : W64) (hs : InShape s) : InShape (burRingWrite v s) := by
  unfold burRingWrite
  dsimp only
  exact .ite (fun _ => hs) (fun _ => hs.hub rfl)

theorem burReqWrite_inShape (v : W32) (hs : InShape s) : InShape (burReqWrite v s) := by
  unfold burReqWrite
  exact .ite (fun _ => hs) (fun _ => usageSend_inShape _ hs)

theorem vddAonUp_inShape (epoch : W64) (keyOk : Bool) (hs : InShape s) :
    InShape (vddAonUp epoch keyOk s) := { hs with slots := fun _ h => nomatch h }

theorem vddAonLoss_inShape (hs : InShape s) : InShape (vddAonLoss s) := { hs with slots := fun _ h => nomatch h }

theorem resetCmd_inShape (op : State → State) (ho : ∀ {s}, InShape s → InShape (op s)) (hs : InShape s) : InShape (resetCmd op s) := by
  unfold resetCmd
  exact .ite (fun _ => hs) (fun _ => .ite (fun _ => bar0Err_inShape _ _ hs) (fun _ => ho hs))

theorem rstStart_inShape (hs : InShape s) : InShape (rstStart s) := hs.within (rstStart_within (.refl _ _) (.refl _))

theorem partitionReset_inShape (p : Nat) (hs : InShape s) : InShape (partitionReset p s) := by
  unfold partitionReset
  exact resetCmd_inShape _ (fun h => .ite (fun _ => rstDone_inShape _ h) (fun _ => .ite (fun _ => rstDone_inShape _ h)
    (fun _ => orderStage2_inShape _ _ _ _ (rstStart_inShape h)))) hs

theorem computeReset_inShape (p : Nat) (hs : InShape s) : InShape (computeReset p s) := by
  unfold computeReset
  refine resetCmd_inShape _ ?_ ?_
  · exact fun h => .ite (fun _ => rstDone_inShape _ h) (fun _ => .ite (fun _ => rstDone_inShape _ h) (fun _ => modStage_inShape _ _ _
      (orderStage3_inShape _ _ _ (rstStart_inShape h))))
  · exact hs

theorem resetReq_inShape (p : Nat) (hs : InShape s) : InShape (resetReq p s) := by
  unfold resetReq
  refine resetCmd_inShape _ ?_ ?_
  · exact fun h => .ite (fun _ => rstDone_inShape _ h) (fun _ => .ite (fun _ => rstDone_inShape _ h) (fun _ => modStage_inShape _ _ _
      (orderStage4_inShape _ _ (rstStart_inShape h))))
  · exact hs

theorem resetRequest_inShape (hs : InShape s) : InShape (resetRequest s) := hs.within (resetRequest_within (.refl _ _) (.refl _))

theorem escalateContext_inShape (c : Nat) (x : Context) (hs : InShape s) : InShape (escalateContext c x s) := by
  unfold escalateContext
  dsimp only
  refine .ite (fun _ => ?_) (fun _ => ?_)
  · refine orderStage3_inShape _ _ _ ?_
    exact hs.updContext _ _
  · refine .foldl ?_ _ ?_
    · exact fun _ _ h => orderStage2_inShape _ _ _ _ h
    · exact hs.updContext _ _

theorem stageBudgetExpiry_inShape (stage unit : Nat) (hs : InShape s) : InShape (stageBudgetExpiry stage unit s) := by
  unfold stageBudgetExpiry
  dsimp only
  refine .ite (fun _ => ?_) (fun _ => ?_)
  · split
    · exact hs
    · split
      · exact .ite (fun _ => escalateContext_inShape _ _ hs) (fun _ => hs)
      · exact hs
  · split
    · exact hs
    · refine .ite (fun _ => hs) (fun _ => ?_)
      refine .ite (fun _ => orderStage3_inShape _ _ _ (stageEnd_inShape _ _ hs)) (fun _ => ?_)
      exact orderStage4_inShape _ _ (stageEnd_inShape _ _ hs)

theorem setPhase_inShape (stage unit n : Nat) (hs : InShape s) : InShape (setPhase stage unit n s) :=
  hs.within (setPhase_within _ _ _ (.refl _ _) (.refl _))

theorem evictRes_inShape (p r : Nat) (hs : InShape s) : InShape (evictRes p r s) := by
  unfold evictRes
  dsimp only
  split
  · exact hs
  · split
    · exact .ite (fun _ => hs) (fun _ => releaseRes_inShape _ hs)
    · exact .ite (fun _ => State.modRes_inShape _ _ (setBenches_inShape _ _ hs)) (fun _ => beginTeardown_inShape _ _ _ _ hs)

theorem partitionResetAssert_inShape (p : Nat) (hs : InShape s) : InShape (partitionResetAssert p s) := by
  unfold partitionResetAssert
  split
  · exact hs
  · refine .ite (fun _ => hs) (fun _ => ?_)
    lift_lets
    intro s1 s2 s3 rs held _ _ s4
    have h2 : InShape s2 := .foldl (fun _ _ h => evictRes_inShape _ _ h) _ (killRuns_inShape _ hs)
    have h3 : InShape s3 := setBenches_inShape _ _ h2
    clear_value s3
    exact setPhase_inShape _ _ _ (State.modSlice_inShape _ _ (h3.of_shape rfl))

theorem partitionWritesDrained_inShape (p : Nat) (hs : InShape s) : InShape (partitionWritesDrained p s) := by
  unfold partitionWritesDrained
  dsimp only
  split
  · exact hs
  · refine .ite (fun _ => ?_) (fun _ => ?_)
    · exact hs
    · refine settleStops_inShape ?_
      refine setPhase_inShape _ _ _ ?_
      refine .foldl ?_ _ ?_
      · intro _ _ h
        split
        · exact .ite (fun _ => State.modStream_inShape _ _ _ (chargeStream_inShape _ _ h)) (fun _ => h)
        · exact h
      · exact hs

theorem partitionResetRelease_inShape (p : Nat) (hs : InShape s) : InShape (partitionResetRelease p s) :=
  hs.within (partitionResetRelease_within _ (.refl _ _) (.refl _))

theorem clearStreams_inShape (p : Nat) (hs : InShape s) : InShape (clearStreams p s) := by
  unfold clearStreams
  dsimp only
  exact .foldl (fun _ _ h => .ite (fun _ => releaseStream_inShape _ _ h) (fun _ => h)) _ hs

theorem sliceReady_inShape (p : Nat) (hs : InShape s) : InShape (sliceReady p s) := by
  unfold sliceReady
  split
  · exact .ite (fun _ => modStage_inShape _ _ _ hs) (fun _ => hs)
  · refine .ite (fun _ => settlePart_inShape _ (modStage_inShape _ _ _ (State.modSlice_inShape _ _ (clearStreams_inShape _ hs))))
      (fun _ => ?_)
    exact hs
  · exact hs

theorem channelReady_inShape (tier : Tier) (ch : Nat) (hs : InShape s) : InShape (channelReady tier ch s) := by
  unfold channelReady
  dsimp only
  split
  · exact .when (hs.wrd rfl rfl) (fun h => settlePart_inShape _ (modStage_inShape _ _ _ h))
  · exact hs.wrd rfl rfl

theorem requestMapout_inShape (tier : Tier) (ch : Nat) (lost : Bool) (units : List Nat) (source : Nat) (hs : InShape s) :
    InShape (requestMapout tier ch lost units source s) := by
  unfold requestMapout
  exact pushWork_inShape _ _ hs

theorem channelReadyTimeout_inShape (ch : Nat) (units : List Nat) (hs : InShape s) : InShape (channelReadyTimeout ch units s) := by
  unfold channelReadyTimeout
  dsimp only
  split
  · exact hs
  · refine .ite (fun _ => hs) (fun _ => ?_)
    refine .ite (fun _ => ?_) (fun _ => requestMapout_inShape _ _ _ _ _ hs)
    exact dropStage_inShape _ _ (stageEnd_inShape _ _ (.when (.ite (fun _ => testEnd_inShape _ _ (.ite (fun _ => failTest_inShape _ hs)
      (fun _ => hs))) (fun _ => hs)) (fun h => rstDone_inShape _ h)))

theorem channelFault_inShape (tier : Tier) (ch : Nat) (units : List Nat) (hs : InShape s) : InShape (channelFault tier ch units s) := by
  unfold channelFault
  dsimp only
  refine requestMapout_inShape _ _ _ _ _ ?_
  split
  · exact .when (hs.wrd rfl rfl) (fun h => orderStage2_inShape _ _ _ _ h)
  · exact hs.wrd rfl rfl

theorem ceRate_inShape (tier : Tier) (ch : Nat) (units : List Nat) (hs : InShape s) : InShape (ceRate tier ch units s) := by
  unfold ceRate
  exact requestMapout_inShape _ _ _ _ _ hs

theorem uncorrectableFrame_inShape (tier : Tier) (addr : Nat) (hs : InShape s) : InShape (uncorrectableFrame tier addr s) := by
  unfold uncorrectableFrame
  dsimp only
  exact .ite (fun _ => checkMapout_inShape (losePage_inShape _ _ hs)) (fun _ => hs)

theorem dumpAllowanceExpiry_inShape (landed : Nat) (hs : InShape s) : InShape (dumpAllowanceExpiry landed s) :=
  hs.within (dumpAllowanceExpiry_within _ (.refl _ _) (.refl _))

theorem loseCompletions_inShape (k : Nat) (q : Queue) (hs : InShape s) : InShape (loseCompletions k q s) := by
  unfold loseCompletions
  lift_lets
  intro row slot n s1 hu _ s2 s3
  have h1 : InShape s1 := .ite (fun _ => spillWrite_inShape _ _ hs) (fun _ => hs)
  clear_value s1
  have h3 : InShape s3 := State.modQ_inShape _ _ (h1.of_shape rfl) (fun _ w => w)
  exact .ite (fun _ => qResult_inShape _ h3) (fun _ => h3)

theorem completionsAllowanceExpiry_inShape (hs : InShape s) : InShape (completionsAllowanceExpiry s) := by
  unfold completionsAllowanceExpiry
  split
  · exact hs
  · exact .ite (fun _ => .foldl (fun _ _ h => loseCompletions_inShape _ _ h) _ hs) (fun _ => hs)

theorem loseContext_inShape (c : Nat) (x : Context) (hs : InShape s) : InShape (loseContext c x s) := by
  unfold loseContext
  lift_lets
  intro lostQ y s1 s2 z
  split
  · exact hs
  · have h1 : InShape s1 := writeFault_inShape _ _ hs
    have h2 : InShape s2 := .ite (fun _ => objResult_inShape _ _ h1) (fun _ => h1)
    exact .ite (fun _ => h2.dropContext _) (fun _ => h2.putContext _ _)

theorem resetHub_inShape (hs : InShape s) : InShape (resetHub s) := by
  unfold resetHub
  dsimp only
  exact { hs with
    queues := rfl, windows := (fun _ h => nomatch h), slices := tabWf_map hs.slices fun _ => rfl, seqs := rfl, banks := rfl,
    classes := (List.length_map ..).trans hs.classes }

theorem computeResetAssert_inShape (hs : InShape s) : InShape (computeResetAssert s) := by
  unfold computeResetAssert
  dsimp only
  split
  · exact hs
  · refine .ite (fun _ => hs) (fun _ => ?_)
    exact setPhase_inShape _ _ _ ((resetHub_inShape (setBenches_inShape _ _ (.foldl (fun _ _ h => loseContext_inShape _ _ h) _
      hs))).port _)

theorem endMapout_inShape (hs : InShape s) : InShape (endMapout s) := by
  unfold endMapout
  dsimp only
  split
  · exact hs
  · exact (mapoutEnd_inShape _ hs).wrd rfl rfl

theorem computeResetRelease_inShape (hs : InShape s) : InShape (computeResetRelease s) := by
  unfold computeResetRelease
  dsimp only
  split
  · exact hs
  · refine .ite (fun _ => ?_) (fun _ => ?_)
    · exact hs
    · refine setPhase_inShape _ _ _ ?_
      have h := endMapout_inShape hs
      exact { h with benches := rfl, frames := tabWf_filter _ h.frames }

theorem finishStart_inShape (hs : InShape s) : InShape (finishStart s) := by
  unfold finishStart
  dsimp only
  refine .ite (fun _ => ?_) (fun _ => ?_)
  · refine .ite (fun _ => ?_) (fun _ => ?_)
    · exact .of_shape hs rfl
    · exact hs.mgmt rfl
  · exact hs

theorem hubReady_inShape (hs : InShape s) : InShape (hubReady s) := by
  unfold hubReady
  dsimp only
  split
  · exact hs
  · refine .ite (fun _ => ?_) (fun _ => ?_)
    · refine finishStart_inShape ?_
      refine checkMapout_inShape ?_
      refine evalChest_inShape ?_
      split
      · refine capacityEvent_inShape _ _ ?_
        exact InShape.wrd (.when (trace_inShape _ _ _ _ _ (dropStage_inShape _ _ (.when (stageEnd_inShape _ _ (hs.watch _))
          (fun h => rstDone_inShape _ h)))) (fun h => h.port _)) rfl rfl
      · exact .when (trace_inShape _ _ _ _ _ (dropStage_inShape _ _ (.when (stageEnd_inShape _ _ (hs.watch _))
          (fun h => rstDone_inShape _ h)))) (fun h => h.port _)
    · exact hs

theorem Queue.sampled_windowOk (now : Nat) (q : Queue) (w : q.WindowOk) : (q.sampled now).WindowOk := by
  unfold Queue.sampled
  exact .ite w w

theorem watchSample_inShape (hs : InShape s) : InShape (watchSample s) := by
  unfold watchSample
  dsimp only
  exact { hs with
    queues := tabWf_map hs.queues fun _ => rfl
    windows := hs.windows.tmapv (f := fun _ q => q.sampled s.now) fun _ => Queue.sampled_windowOk _
    slices := tabWf_map hs.slices fun _ => rfl
    cores := (List.length_map ..).trans hs.cores }

theorem reflag_inShape (p st : Nat) (l : Launch) (hs : InShape s) : InShape (reflag p st l s) := by
  unfold reflag
  exact trace_inShape _ _ _ _ _ (State.modStream_inShape _ _ _ hs)

theorem streamHang_inShape (p st : Nat) (hs : InShape s) : InShape (streamHang p st s) := by
  unfold streamHang
  dsimp only
  split
  · exact hs
  · exact .ite (fun _ => faultStream_inShape _ _ _ _ (reflag_inShape _ _ _ hs)) (fun _ => hs)

theorem peerWaitTimeout_inShape (p st : Nat) (hs : InShape s) : InShape (peerWaitTimeout p st s) := by
  unfold peerWaitTimeout
  dsimp only
  split
  · exact hs
  · split
    · exact hs
    · split
      · split
        · exact hutchRec_inShape _ _ _ (raiseEvent_inShape _ (reflag_inShape _ _ _ hs))
        · exact requestStops_inShape _ (State.modC_inShape _ _ _ (hutchRec_inShape _ _ _ (raiseEvent_inShape _ (reflag_inShape _ _ _
            hs))))
      · exact beginTeardown_inShape _ _ _ _ (raiseEvent_inShape _ (reflag_inShape _ _ _ hs))

theorem hubHang_inShape (payload : List Byte) (hs : InShape s) : InShape (hubHang payload s) := by
  unfold hubHang
  exact orderStage3_inShape _ _ _ (hutchRec_inShape _ _ _ hs)

theorem hangCmd_inShape (k pos : Nat) (info : FaultInfo) (rcd : List Byte) (hs : InShape s) : InShape (hangCmd k pos info rcd s) := by
  unfold hangCmd
  split
  · exact hs
  · split
    · exact beginTeardown_inShape _ _ _ _ hs
    · exact faultCmd_inShape _ _ _ _ hs

theorem moverHang_inShape (m : Nat) (hs : InShape s) : InShape (moverHang m s) := by
  unfold moverHang
  dsimp only
  split
  · exact hs
  · refine .ite (fun _ => ?_) (fun _ => ?_)
    · split
      · exact hangCmd_inShape _ _ _ _ (trace_inShape _ _ _ _ _ (hs.wrd rfl rfl))
      · exact hubHang_inShape _ (trace_inShape _ _ _ _ _ (hs.wrd rfl rfl))
    · exact hs

theorem hubEngineHang_inShape (h : HubEngine) (hs : InShape s) : InShape (hubEngineHang h s) := by
  unfold hubEngineHang
  dsimp only
  exact .ite (fun _ => hubHang_inShape _ (trace_inShape _ _ _ _ _ (hs.watch _))) (fun _ => hs)

theorem unitFault_inShape (p st : Nat) (i : FaultInfo) (rcd : Option (Nat × List Byte)) (hs : InShape s) :
    InShape (unitFault p st i rcd s) := by
  unfold unitFault
  dsimp only
  split
  · exact hs
  · exact requestStops_inShape _ (faultStream_inShape _ _ _ _ hs)

theorem ownStateLost_inShape (c queue seqId bank : Nat) (hs : InShape s) : InShape (ownStateLost c queue seqId bank s) := by
  unfold ownStateLost
  dsimp only
  exact beginTeardown_inShape _ _ _ _ hs

theorem sramLost_inShape (w : SramWord) (bank : Nat) (hs : InShape s) : InShape (sramLost w bank s) := by
  unfold sramLost
  split
  · exact .ite (fun _ => ownStateLost_inShape _ _ _ _ hs) (fun _ => hs)
  · exact .ite (fun _ => ownStateLost_inShape _ _ _ _ hs) (fun _ => hs)
  · split
    · exact ownStateLost_inShape _ _ _ _ hs
    · exact hs
  · exact machineCheck_inShape _ _ _ hs
  · exact .ite (fun _ => orderStage2_inShape _ _ _ _ hs) (fun _ => hs)

theorem engineFaultReport_inShape (u : FaultUnit) (hs : InShape s) : InShape (engineFaultReport u s) := by
  unfold engineFaultReport
  dsimp only
  split
  · exact .ite (fun _ => unitFault_inShape _ _ _ _ hs) (fun _ => hs)
  · exact .ite (fun _ => unitFault_inShape _ _ _ _ hs) (fun _ => hs)
  · exact .ite (fun _ => unitFault_inShape _ _ _ _ hs) (fun _ => hs)
  · exact .ite (fun _ => unitFault_inShape _ _ _ _ hs) (fun _ => hs)
  · split
    · exact faultCmd_inShape _ _ _ _ hs
    · exact orderStage3_inShape _ _ _ hs
  · exact sramLost_inShape _ _ hs

theorem textFailed_inShape (p st : Nat) (tier : Tier) (addr : Nat) (hs : InShape s) : InShape (textFailed p st tier addr s) := by
  unfold textFailed
  dsimp only
  split
  · exact hs
  · refine .ite (fun _ => hs) (fun _ => ?_)
    refine .ite (fun _ => launchRetryRequest_inShape _ _ _ hs) (fun _ => ?_)
    exact .ite (fun _ => State.modStream_inShape _ _ _ (hutchRec_inShape _ _ _ hs)) (fun _ => unitFault_inShape _ _ _ _ hs)

theorem hostFault_inShape (c queue pos tag addr : Nat) (hs : InShape s) : InShape (hostFault c queue pos tag addr s) := by
  unfold hostFault
  dsimp only
  exact beginTeardown_inShape _ _ _ _ hs

theorem pageUnreadable_inShape (p st eng : Nat) (tier : Tier) (addr : Nat) (hs : InShape s) :
    InShape (pageUnreadable p st eng tier addr s) := by
  unfold pageUnreadable
  dsimp only
  split
  · exact reportLost_inShape _ _ (uncorrectableFrame_inShape _ _ hs)
  · exact uncorrectableFrame_inShape _ _ hs

theorem hubData_inShape (tier : Tier) (addr : Nat) (hs : InShape s) : InShape (hubData tier addr s) := by
  unfold hubData
  dsimp only
  split
  · exact takeCells_inShape _ hs _ ‹_›
  · refine .ite (fun _ => ?_) (fun _ => ?_)
    · exact takeOrWait_inShape _ hs
    · split
      · refine evalChest_inShape ?_
        refine (?_ : InShapeO _) _ ‹_›
        split
        · exact linkWhole_inShape _ hs
        · exact .none
      · exact machineCheck_inShape _ _ _ hs

theorem mfpResponse_inShape (who : MfpWho) (tier : Tier) (addr : Nat) (status : MfpStatus) (hs : InShape s) :
    InShape (mfpResponse who tier addr status s) := by
  unfold mfpResponse
  dsimp only
  split
  · exact .ite (fun _ => hubData_inShape _ _ hs) (fun _ => hs)
  · split
    · refine .ite (fun _ => ?_) (fun _ => ?_)
      · exact pageUnreadable_inShape _ _ _ _ _ hs
      · split
        · exact .ite (fun _ => unitFault_inShape _ _ _ _ hs) (fun _ => hs)
        · exact hs
    · exact .ite (fun _ => uncorrectableFrame_inShape _ _ hs) (fun _ => textFailed_inShape _ _ _ _ hs)
    · refine .ite (fun _ => ?_) (fun _ => ?_)
      · exact uncorrectableFrame_inShape _ _ hs
      · split
        · exact tierFaultCmd_inShape _ _ _ _ _ hs
        · exact beginTeardown_inShape _ _ _ _ hs
        · exact hs
    · exact machineCheck_inShape _ _ _ hs
  · split
    · exact machineCheck_inShape _ _ _ hs
    · exact .ite (fun _ => unitFault_inShape _ _ _ _ hs) (fun _ => hs)
    · exact .ite (fun _ => unitFault_inShape _ _ _ _ hs) (fun _ => hs)
    · split
      · exact faultCmd_inShape _ _ _ _ hs
      · exact hostFault_inShape _ _ _ _ _ hs
      · exact hs

theorem hostData_inShape (c addr : Nat) (b : List Byte) (hs : InShape s) : InShape (hostData c addr b s) :=
  hs.within (hostData_within _ _ _ (.refl _ _) (.refl _))

theorem throughDone_inShape (c q pos : Nat) (hs : InShape s) : InShape (throughDone c q pos s) :=
  hs.within (throughDone_within _ _ _ (.refl _ _) (.refl _))

theorem hfpCompletion_inShape (who : HfpWho) (rd : HostRead) (hs : InShape s) : InShape (hfpCompletion who rd s) := by
  unfold hfpCompletion
  dsimp only
  split
  · split
    · exact hostData_inShape _ _ _ hs
    · exact throughDone_inShape _ _ _ hs
    · split
      · exact hostData_inShape _ _ _ hs
      · exact hs
    · split
      · exact hostData_inShape _ _ _ hs
      · exact hs
    · exact hostData_inShape _ _ _ hs
    · exact memWrite_inShape _ _ hs
  · split
    · exact hostFault_inShape _ _ _ _ _ hs
    · exact hostFault_inShape _ _ _ _ _ (throughDone_inShape _ _ _ hs)
    · exact .ite (fun _ => unitFault_inShape _ _ _ _ hs) (fun _ => hs)
    · split
      · exact faultCmd_inShape _ _ _ _ hs
      · exact hs
    · exact hostFault_inShape _ _ _ _ _ hs
    · exact hs

theorem shedEvent_inShape (old new : Nat) (hs : InShape s) : InShape (shedEvent old new s) := by
  unfold shedEvent
  dsimp only
  exact raiseEvent_inShape _ hs

theorem shedCmd_inShape (k pos : Nat) (hs : InShape s) : InShape (shedCmd k pos s) := by
  unfold shedCmd
  exact dropShadows_inShape (finish_inShape _ _ _ _ hs)

theorem shedTests_inShape (hs : InShape s) : InShape (shedTests s) := by
  unfold shedTests
  dsimp only
  exact .foldl (fun _ _ h => shedCmd_inShape _ _ h) _ (.foldl (fun _ _ h => shedCmd_inShape _ _ h) _ ((State.modPower_inShape _
    hs).sched rfl))

theorem shedJobs_inShape (hs : InShape s) : InShape (shedJobs s) := by
  unfold shedJobs
  refine .foldl ?_ _ ?_
  · intro _ _ h
    split
    · exact shedCmd_inShape _ _ (dropJob_inShape _ h)
    · exact h
  · exact hs

theorem wakeLoops_inShape (hs : InShape s) : InShape (wakeLoops s) := by
  unfold wakeLoops
  dsimp only
  exact hs.trestle rfl

theorem setLevel_inShape (new : Nat) (hs : InShape s) : InShape (setLevel new s) := by
  unfold setLevel
  dsimp only
  refine requestCodes_inShape ?_
  exact decisionPass_inShape (.when (.when (.when (shedEvent_inShape _ _ (State.modPower_inShape _ hs)) (fun h => wakeLoops_inShape h))
    (fun h => shedTests_inShape h)) (fun h => shedJobs_inShape h))

theorem limiter_inShape (f : State → State) (hf : ∀ {s}, InShape s → InShape (f s)) (hs : InShape s) : InShape (limiter f s) := by
  unfold limiter
  dsimp only
  refine .unless ?_ ?_
  · exact hf hs
  · exact fun h => .ite (fun _ => setLevel_inShape _ (.unless (State.modPower_inShape _ h) (fun h => State.modPower_inShape _ h)))
      (fun _ => requestCodes_inShape (.unless (State.modPower_inShape _ h) (fun h => State.modPower_inShape _ h)))

theorem temperatureInput_inShape (sensor temp : Nat) (hs : InShape s) : InShape (temperatureInput sensor temp s) := by
  unfold temperatureInput
  exact limiter_inShape _ (fun h => .ite (fun _ => State.modPower_inShape _ h) (fun _ => .ite (fun _ => State.modVf_inShape _ _ h)
    (fun _ => h))) hs

theorem vminTimer_inShape (p mv : Nat) (hs : InShape s) : InShape (vminTimer p mv s) := by
  unfold vminTimer
  refine .ite (fun _ => hs) (fun _ => ?_)
  exact limiter_inShape _ (fun h => .ite (fun _ => State.modVf_inShape _ _ h) (fun _ => State.modVf_inShape _ _ h)) hs

theorem limiterCapStep_inShape (p mv : Nat) (hs : InShape s) : InShape (limiterCapStep p mv s) := by
  unfold limiterCapStep
  refine .ite (fun _ => hs) (fun _ => ?_)
  exact limiter_inShape _ (fun h => .ite (fun _ => State.modVf_inShape _ _ h) (fun _ => State.modVf_inShape _ _ h)) hs

theorem vfGrant_inShape (p code : Nat) (hs : InShape s) : InShape (vfGrant p code s) := by
  unfold vfGrant
  exact .ite (fun _ => hs) (fun _ => limiter_inShape _ (fun h => State.modVf_inShape _ _ h) hs)

theorem vfGrantTimeout_inShape (p : Nat) (hs : InShape s) : InShape (vfGrantTimeout p s) := by
  unfold vfGrantTimeout
  dsimp only
  exact .ite (fun _ => limiter_inShape _ (fun h => State.modVf_inShape _ _ h) hs) (fun _ => hs)

theorem shedHoldExpiry_inShape (hs : InShape s) : InShape (shedHoldExpiry s) := by
  unfold shedHoldExpiry
  exact .ite (fun _ => setLevel_inShape _ (State.modPower_inShape _ hs)) (fun _ => hs)

theorem quiesceDump_inShape (hs : InShape s) : InShape (quiesceDump s) := hs.within (quiesceDump_within (.refl _ _) (.refl _))

theorem withdrawPart_inShape (p : Nat) (hs : InShape s) : InShape (withdrawPart p s) := by
  unfold withdrawPart
  exact .foldl (fun _ _ h => withdrawClaims_inShape _ h) _ hs

theorem nextBankTest_inShape (hs : InShape s) : InShape (nextBankTest s) := by
  unfold nextBankTest
  split
  · exact pushWork_inShape _ _ (State.modPower_inShape _ hs)
  · exact hs

theorem opSelftest_inShape (c q pos : Nat) (hs : InShape s) : InShape (opSelftest c q pos s) := by
  unfold opSelftest
  dsimp only
  split
  · exact hs
  · refine .ite (fun _ => finish_inShape _ _ _ _ (begun_inShape _ _ hs)) (fun _ => ?_)
    refine .ite (fun _ => ?_) (fun _ => ?_)
    · refine .ite (fun _ => finish_inShape _ _ _ _ (begun_inShape _ _ hs)) (fun _ => ?_)
      refine .ite (fun _ => shedCmd_inShape _ _ (begun_inShape _ _ hs)) (fun _ => ?_)
      exact decisionPass_inShape (withdrawPart_inShape _ (pushWork_inShape _ _ ((State.modPower_inShape _ (begun_inShape _ _ hs)).sched
        rfl)))
    · refine .ite (fun _ => finish_inShape _ _ _ _ (begun_inShape _ _ hs)) (fun _ => ?_)
      exact .ite (fun _ => shedCmd_inShape _ _ (begun_inShape _ _ hs)) (fun _ => nextBankTest_inShape (begun_inShape _ _ hs))

theorem selftestRun_inShape (p : Nat) (hs : InShape s) : InShape (selftestRun p s) := by
  unfold selftestRun
  dsimp only
  refine .ite (fun _ => ?_) (fun _ => ?_)
  · exact hs
  · refine .ite (fun _ => ?_) (fun _ => ?_)
    · exact hs
    · split
      · exact hs
      · exact .ite (fun _ => State.modPower_inShape _ (setBenches_inShape _ _ hs)) (fun _ => hs)

theorem selftestDone_inShape (p detail : Nat) (hs : InShape s) : InShape (selftestDone p detail s) := by
  unfold selftestDone
  dsimp only
  refine .ite (fun _ => hs) (fun _ => ?_)
  exact modStage_inShape _ _ _ (orderStage2_inShape _ _ _ _ (.ite (fun _ => hs) (fun _ => failTest_inShape _ hs)))

theorem bankVisited_inShape (hs : InShape s) : InShape (bankVisited s) := by
  unfold bankVisited
  dsimp only
  split
  · exact hs
  · refine .ite (fun _ => ?_) (fun _ => ?_)
    · exact State.modPower_inShape _ hs
    · refine nextBankTest_inShape ?_
      split
      · exact finishTest_inShape _ _ _ (doneWork_inShape _ _ (State.modPower_inShape _ hs))
      · exact State.modPower_inShape _ hs

theorem bankTest_inShape (bank : Nat) (hs : InShape s) : InShape (bankTest bank s) := by
  unfold bankTest
  dsimp only
  refine .ite (fun _ => ?_) (fun _ => ?_)
  · exact hs
  · split
    · exact hs
    · refine .ite (fun _ => ?_) (fun _ => ?_)
      · refine (?_ : InShapeO _) _ ‹_›
        split
        · split
          · exact .some hs
          · exact .none
        · split
          · exact .some hs
          · exact .none
        · split
          · exact .some (State.modPower_inShape _ hs)
          · exact .none
      · refine .ite (fun _ => ?_) (fun _ => ?_)
        · refine State.modPower_inShape _ ?_
          refine (?_ : InShapeO _) _ ‹_›
          split
          · split
            · exact .some hs
            · exact .none
          · split
            · exact .some hs
            · exact .none
          · split
            · exact .some (State.modPower_inShape _ hs)
            · exact .none
        · refine bankVisited_inShape ?_
          refine (?_ : InShapeO _) _ ‹_›
          split
          · split
            · exact .some hs
            · exact .none
          · split
            · exact .some hs
            · exact .none
          · split
            · exact .some (State.modPower_inShape _ hs)
            · exact .none

theorem retireBank_inShape (bank : Nat) (hs : InShape s) : InShape (retireBank bank s) := by
  unfold retireBank
  dsimp only
  refine .ite (fun _ => hs) (fun _ => ?_)
  exact .when (settleChest_inShape (State.modChest_inShape hs (fun _ => rfl) (fun _ => rfl))) (fun h => orderStage3_inShape _ _ _ h)

theorem bankTestDone_inShape (bank : Nat) (failed : Bool) (hs : InShape s) : InShape (bankTestDone bank failed s) := by
  unfold bankTestDone
  dsimp only
  split
  · exact hs
  · refine .ite (fun _ => hs) (fun _ => ?_)
    refine .ite (fun _ => bankVisited_inShape (retireBank_inShape _ (hutchRec_inShape _ _ _ (State.modPower_inShape _ hs))))
      (fun _ => ?_)
    exact bankVisited_inShape (settleChest_inShape (State.modPower_inShape _ hs))

theorem calibration_inShape (p : Nat) (hs : InShape s) : InShape (calibration p s) := by
  unfold calibration
  refine .ite (fun _ => hs) (fun _ => ?_)
  exact .ite (fun _ => State.modPower_inShape _ (setBenches_inShape _ _ hs)) (fun _ => State.modPower_inShape _ hs)

theorem calibrationDone_inShape (p : Nat) (hs : InShape s) : InShape (calibrationDone p s) := by
  unfold calibrationDone
  dsimp only
  exact .ite (fun _ => hs) (fun _ => .unless (State.modPower_inShape _ hs) (fun h => decisionPass_inShape (setBenches_inShape _ _ h)))

theorem scrubCell_inShape (cell : Nat) (ecc : EccFinding) (hs : InShape s) : InShape (scrubCell cell ecc s) := by
  unfold scrubCell
  dsimp only
  refine .ite (fun _ => ?_) (fun _ => ?_)
  · exact hs
  · split
    · exact hs
    · exact correctedEcc_inShape _ _ hs
    · split
      · exact .ite (fun _ => hs) (fun _ => cellLost_inShape _ _ _ _ _ _ _ hs)
      · exact settleChest_inShape (retireCell_inShape _ (hutchRec_inShape _ _ _ hs))
    · split
      · exact .ite (fun _ => hs) (fun _ => cellLost_inShape _ _ _ _ _ _ _ hs)
      · exact settleChest_inShape (retireCell_inShape _ (hutchRec_inShape _ _ _ hs))

theorem scrubFinding_inShape (f : ScrubFinding) (hs : InShape s) : InShape (scrubFinding f s) := by
  unfold scrubFinding
  split
  · exact scrubCell_inShape _ _ hs
  · exact sramLost_inShape _ _ hs

theorem scrubBank_inShape (b : Nat) (found : List ScrubFinding) (hs : InShape s) : InShape (scrubBank b found s) := by
  have h := InShape.foldl (fun _ f h => scrubFinding_inShape f h) (found.filter (ScrubFinding.inBank b)) hs
  unfold scrubBank
  refine State.modPower_inShape _ (State.modChest_setBanks h ?_ (fun _ => rfl))
  exact tabWf_tdel _ h.banks

theorem scrubAll_inShape (found : List ScrubFinding) (hs : InShape s) : InShape (scrubAll found s) := by
  have h := InShape.foldl (fun _ f h => scrubFinding_inShape f h) found hs
  unfold scrubAll
  exact State.modPower_inShape _ (State.modChest_setBanks h rfl (fun _ => rfl))

theorem scrub_inShape (found : List ScrubFinding) (hs : InShape s) : InShape (scrub found s) := by
  unfold scrub
  refine .ite (fun _ => ?_) (fun _ => ?_)
  · exact hs
  · split
    · exact scrubBank_inShape _ _ hs
    · exact .ite (fun _ => hs) (fun _ => scrubAll_inShape _ hs)

theorem programSlot_inShape (slot : Nat) (img : List Byte) (hs : InShape s) : InShape (programSlot slot img s) :=
  hs.within (programSlot_within _ _ (.refl _ _) (.refl _))

theorem writeDir_inShape (d : BootDir) (hs : InShape s) : InShape (writeDir d s) := hs.within (writeDir_within _ (.refl _ _) (.refl _))

theorem runCore_inShape (k slot : Nat) (hs : InShape s) : InShape (runCore k slot s) := by
  unfold runCore
  exact State.modCore_inShape _ _ hs

theorem tierSetup_inShape (hs : InShape s) : InShape (tierSetup s) := by
  unfold tierSetup
  dsimp only
  exact .of_shape hs rfl

theorem bootSetup_inShape (hs : InShape s) : InShape (bootSetup s) := by
  unfold bootSetup
  exact .ite (fun _ => hs) (fun _ => orderStage3_inShape _ _ _ (tierSetup_inShape (State.modMgmt_inShape hs (fun _ => rfl))))

theorem bootLoadDone_inShape (hs : InShape s) : InShape (bootLoadDone s) := by
  unfold bootLoadDone
  dsimp only
  refine .ite (fun _ => ?_) (fun _ => ?_)
  · exact hs
  · split
    · refine State.modMgmt_inShape ?_ (fun _ => rfl)
      split
      · exact writeDir_inShape _ (emitAll_inShape _ hs)
      · exact emitAll_inShape _ hs
    · refine pushWork_inShape _ _ ?_
      refine .foldl ?_ _ ?_
      · exact fun _ _ h => runCore_inShape _ _ h
      · refine State.modMgmt_inShape ?_ (fun _ => rfl)
        split
        · exact writeDir_inShape _ (emitAll_inShape _ hs)
        · exact emitAll_inShape _ hs

theorem bootCommit_inShape (hs : InShape s) : InShape (bootCommit s) := by
  unfold bootCommit
  dsimp only
  exact .ite (fun _ => State.modMgmt_inShape (writeDir_inShape _ hs) (fun _ => rfl)) (fun _ => hs)

theorem patchLoad_inShape (pkg : PatchPkg) (hs : InShape s) : InShape (patchLoad pkg s) := by
  unfold patchLoad
  dsimp only
  split
  · exact hs
  · refine .ite (fun _ => ?_) (fun _ => ?_)
    · exact hs
    · split
      · exact .of_shape hs rfl
      · exact State.modMgmt_inShape hs (fun _ => rfl)

theorem hostCapsWrite_inShape (v : W64) (hs : InShape s) : InShape (hostCapsWrite v s) := by
  unfold hostCapsWrite
  dsimp only
  refine .ite (fun _ => hs) (fun _ => ?_)
  refine .ite (fun _ => bar0Err_inShape _ _ hs) (fun _ => ?_)
  exact .ite (fun _ => bar0Err_inShape _ _ hs) (fun _ => (State.modMgmt_inShape hs (fun _ => List.length_map ..)).hub rfl)

theorem firmwareRec_inShape (k cause state : Nat) (c : Core) (hs : InShape s) : InShape (firmwareRec k cause state c s) := by
  unfold firmwareRec
  dsimp only
  exact .ite (fun _ => hutchRec_inShape _ _ _ hs) (fun _ => pushWork_inShape _ _ hs)

theorem fwRestartEvent_inShape (k cause outcome : Nat) (c : Core) (hs : InShape s) : InShape (fwRestartEvent k cause outcome c s) := by
  unfold fwRestartEvent
  exact raiseEvent_inShape _ hs

theorem stopFills_inShape (ws : List Work) (hs : InShape s) : InShape (stopFills ws s) := by
  unfold stopFills
  exact stopJobs_inShape _ hs

theorem loadShared_inShape (slot : Nat) (hs : InShape s) : InShape (loadShared slot s) := by
  unfold loadShared
  exact State.modMgmt_inShape hs (fun _ => rfl)

theorem restartInto_inShape (slot : Nat) (hs : InShape s) : InShape (restartInto slot s) := by
  unfold restartInto
  dsimp only
  exact loadShared_inShape _ (State.modMgmt_inShape (stopFills_inShape _ hs) (fun _ => List.length_map ..))

theorem rollback_inShape (hs : InShape s) : InShape (rollback s) := by
  unfold rollback
  dsimp only
  exact State.modMgmt_inShape (restartInto_inShape _ (writeDir_inShape _ hs)) (fun _ => rfl)

theorem enterRollback_inShape (hs : InShape s) : InShape (enterRollback s) := by
  unfold enterRollback
  exact .ite (fun _ => rollback_inShape hs) (fun _ => State.modMgmt_inShape hs (fun _ => rfl))

theorem endProbation_inShape (hs : InShape s) : InShape (endProbation s) := by
  unfold endProbation
  split
  · exact enterRollback_inShape hs
  · exact hs

theorem coreStop_inShape (k cause : Nat) (t : TrapFrame) (hs : InShape s) : InShape (coreStop k cause t s) := by
  unfold coreStop
  dsimp only
  split
  · refine .when ?_ ?_
    · exact State.modMgmt_inShape (State.modCore_inShape _ _ (.ite (fun _ => stopFills_inShape _ hs) (fun _ => hs))) (fun _ => rfl)
    · exact fun h => fwRestartEvent_inShape _ _ _ _ (firmwareRec_inShape _ _ _ _ h)
  · exact hs

theorem coreFail_inShape (k cause : Nat) (t : TrapFrame) (hs : InShape s) : InShape (coreFail k cause t s) := by
  unfold coreFail
  exact .ite (fun _ => endProbation_inShape (coreStop_inShape _ _ _ hs)) (fun _ => hs)

theorem mcWatchFlag_inShape (k : Nat) (t : TrapFrame) (hs : InShape s) : InShape (mcWatchFlag k t s) := by
  unfold mcWatchFlag
  dsimp only
  exact .ite (fun _ => coreFail_inShape _ _ _ (trace_inShape _ _ _ _ _ hs)) (fun _ => hs)

theorem watchdogExpiry_inShape (k : Nat) (t : TrapFrame) (hs : InShape s) : InShape (watchdogExpiry k t s) := by
  unfold watchdogExpiry
  dsimp only
  exact .ite (fun _ => coreFail_inShape _ _ _ (State.modCore_inShape _ _ hs)) (fun _ => hs)

theorem memoryError_inShape (core : Option Nat) (t : TrapFrame) (hs : InShape s) : InShape (memoryError core t s) := by
  unfold memoryError
  dsimp only
  split
  · exact coreFail_inShape _ _ _ hs
  · exact .when (loadShared_inShape _ (.foldl (fun _ _ h => coreStop_inShape _ _ _ h) _ hs)) (fun h => endProbation_inShape h)

theorem mcDumpDone_inShape (k : Nat) (hs : InShape s) : InShape (mcDumpDone k s) := by
  unfold mcDumpDone
  dsimp only
  split
  · exact .ite (fun _ => hs) (fun _ => State.modCore_inShape _ _ (firmwareRec_inShape _ _ _ _ hs))
  · exact hs

theorem writeRecord_inShape (p : List Byte) (hs : InShape s) : InShape (writeRecord p s) :=
  hs.within (writeRecord_within _ (.refl _ _) (.refl _))

theorem emergencyTest_inShape (hs : InShape s) : InShape (emergencyTest s) := by
  unfold emergencyTest
  exact State.modMgmt_inShape hs (fun _ => rfl)

theorem resumeActivate_inShape (hs : InShape s) : InShape (resumeActivate s) := by
  unfold resumeActivate
  exact .ite (fun _ => emergencyTest_inShape hs) (fun _ => hs)

theorem resumeMc0_inShape (hs : InShape s) : InShape (resumeMc0 s) := by
  unfold resumeMc0
  exact .ite (fun _ => rollback_inShape hs) (fun _ => finishStart_inShape (resumeActivate_inShape hs))

theorem mcReloadDone_inShape (k : Nat) (ok : Bool) (hs : InShape s) : InShape (mcReloadDone k ok s) := by
  unfold mcReloadDone
  dsimp only
  split
  · refine .ite (fun _ => ?_) (fun _ => ?_)
    · exact .when (fwRestartEvent_inShape _ _ _ _ (runCore_inShape _ _ (emitAll_inShape _ hs))) (fun h => resumeMc0_inShape h)
    · refine .ite (fun _ => ?_) (fun _ => ?_)
      · refine endProbation_inShape ?_
        refine fwRestartEvent_inShape _ _ _ _ ?_
        refine firmwareRec_inShape _ _ _ _ ?_
        refine State.modCore_inShape _ _ ?_
        split
        · exact State.modMgmt_inShape (emitAll_inShape _ hs) (fun _ => rfl)
        · exact emitAll_inShape _ hs
      · refine State.modCore_inShape _ _ ?_
        split
        · exact State.modMgmt_inShape (emitAll_inShape _ hs) (fun _ => rfl)
        · exact emitAll_inShape _ hs
  · exact hs

theorem logEntry_inShape (level core subject : Nat) (hs : InShape s) : InShape (logEntry level core subject s) := by
  unfold logEntry
  dsimp only
  exact .ite (fun _ => hs) (fun _ => (hostWrite_inShape _ _ _ hs).jnl _)

theorem retakeTest_inShape (p : Nat) (hs : InShape s) : InShape (retakeTest p s) :=
  hs.within (retakeTest_within _ (.refl _ _) (.refl _))

theorem retakeBankTest_inShape (hs : InShape s) : InShape (retakeBankTest s) := by
  unfold retakeBankTest
  split
  · exact settleChest_inShape (State.modPower_inShape _ hs)
  · exact hs

theorem serveWork_inShape (k : Nat) (w : Work) (hs : InShape s) : InShape (serveWork k w s) := by
  unfold serveWork
  split
  · exact modelWork_inShape _ hs
  · exact hs
  · exact .ite (fun _ => retakeTest_inShape _ hs) (fun _ => doneWork_inShape _ _ hs)
  · exact .ite (fun _ => retakeBankTest_inShape hs) (fun _ => doneWork_inShape _ _ hs)
  · exact doneWork_inShape _ _ (writeRecord_inShape _ hs)
  · exact doneWork_inShape _ _ (bootSetup_inShape hs)
  · exact doneWork_inShape _ _ hs
  · exact doneWork_inShape _ _ (logEntry_inShape _ _ _ hs)

theorem mailboxItem_inShape (k : Nat) (hs : InShape s) : InShape (mailboxItem k s) := by
  unfold mailboxItem
  dsimp only
  split
  · exact serveWork_inShape _ _ (State.modCore_inShape _ _ hs)
  · exact hs

theorem updEnd_inShape (result : Nat) (hs : InShape s) : InShape (updEnd result s) := by
  unfold updEnd
  exact State.modMgmt_inShape hs (fun _ => rfl)

theorem updResult_inShape (result : Nat) (hs : InShape s) : InShape (updResult result s) := by
  unfold updResult
  exact State.modMgmt_inShape hs (fun _ => rfl)

theorem updCmd_inShape (op : State → State) (ho : ∀ {s}, InShape s → InShape (op s)) (hs : InShape s) : InShape (updCmd op s) := by
  unfold updCmd
  exact .ite (fun _ => hs) (fun _ => .ite (fun _ => bar0Err_inShape _ _ hs) (fun _ => ho hs))

theorem updateStage_inShape (kib : Nat) (hs : InShape s) : InShape (updateStage kib s) := by
  unfold updateStage
  exact updCmd_inShape _ (fun h => .ite (fun _ => updEnd_inShape _ h) (fun _ => State.modMgmt_inShape h (fun _ => rfl))) hs

theorem stagingDone_inShape (img : List Byte) (flashOk : Bool) (hs : InShape s) : InShape (stagingDone img flashOk s) := by
  unfold stagingDone
  dsimp only
  split
  · refine .ite (fun _ => hs) (fun _ => ?_)
    refine .ite (fun _ => updEnd_inShape _ (memWrite_inShape _ _ (readReq_inShape _ _ _ _ hs))) (fun _ => ?_)
    refine .ite (fun _ => updEnd_inShape _ (memWrite_inShape _ _ (readReq_inShape _ _ _ _ hs))) (fun _ => ?_)
    refine .ite (fun _ => updEnd_inShape _ (programSlot_inShape _ _ (memWrite_inShape _ _ (readReq_inShape _ _ _ _ hs)))) (fun _ => ?_)
    exact State.modMgmt_inShape (emitAll_inShape _ (programSlot_inShape _ _ (memWrite_inShape _ _ (readReq_inShape _ _ _ _ hs))))
      (fun _ => rfl)
  · exact hs

theorem updateActivate_inShape (raise : Bool) (hs : InShape s) : InShape (updateActivate raise s) := by
  unfold updateActivate
  refine updCmd_inShape _ (fun {s} h => ?_) hs
  dsimp only
  split
  · refine .ite (fun _ => updResult_inShape _ h) (fun _ => ?_)
    exact .when (State.modMgmt_inShape h (fun _ => rfl)) (fun h => emergencyTest_inShape h)
  · exact updResult_inShape _ h

theorem updateCancel_inShape (hs : InShape s) : InShape (updateCancel s) := by
  unfold updateCancel
  refine .ite (fun _ => ?_) (fun _ => ?_)
  · exact hs
  · split
    · exact updEnd_inShape _ hs
    · exact .ite (fun _ => bar0Err_inShape _ _ hs) (fun _ => updEnd_inShape _ hs)
    · exact updResult_inShape _ hs
    · exact bar0Err_inShape _ _ hs

theorem updateEmergencyCleared_inShape (hs : InShape s) : InShape (updateEmergencyCleared s) := by
  unfold updateEmergencyCleared
  split
  · exact .ite (fun _ => emergencyTest_inShape hs) (fun _ => hs)
  · exact hs

theorem updateQuiesced_inShape (hs : InShape s) : InShape (updateQuiesced s) := by
  unfold updateQuiesced
  dsimp only
  split
  · exact .ite (fun _ => hs) (fun _ => State.modMgmt_inShape (restartInto_inShape _ (writeDir_inShape _ hs)) (fun _ => rfl))
  · exact hs

theorem updateLoaded_inShape (ok : Bool) (hs : InShape s) : InShape (updateLoaded ok s) := by
  unfold updateLoaded
  split
  · exact .ite (fun _ => enterRollback_inShape hs) (fun _ => .ite (fun _ => State.modMgmt_inShape hs (fun _ => rfl)) (fun _ => hs))
  · exact hs

theorem probationExpiry_inShape (hs : InShape s) : InShape (probationExpiry s) := by
  unfold probationExpiry
  dsimp only
  split
  · exact .ite (fun _ => updEnd_inShape _ (State.modMgmt_inShape (writeDir_inShape _ hs) (fun _ => rfl))) (fun _ => hs)
  · exact hs

theorem rollbackDone_inShape (hs : InShape s) : InShape (rollbackDone s) := by
  unfold rollbackDone
  split
  · exact .ite (fun _ => updEnd_inShape _ hs) (fun _ => hs)
  · exact hs

theorem State.modPort_inShape (f : Port → Port) (hs : InShape s) : InShape (State.modPort s f) :=
  hs.within (State.modPort_within _ (.refl _ _) (.refl _))

theorem sendBudget_inShape (dir : Nat) (hs : InShape s) : InShape (sendBudget s dir) :=
  hs.within (sendBudget_within _ (.refl _ _) (.refl _))

theorem sendBudgets_inShape (hs : InShape s) : InShape (sendBudgets s) := hs.within (sendBudgets_within (.refl _ _) (.refl _))

theorem links_inShape (dir up : Nat) (hs : InShape s) : InShape (links dir up s) := by
  unfold links
  exact .ite (fun _ => sendBudget_inShape _ { hs with links := (List.length_set ..).trans hs.links }) (fun _ => hs)

theorem barrierSlotOwn_inShape (v : W32) (hs : InShape s) : InShape (barrierSlotOwn v s) := by
  unfold barrierSlotOwn
  dsimp only
  refine .ite (fun _ => hs) (fun _ => ?_)
  exact .ite (fun _ => bar0Err_inShape _ _ hs) (fun _ => State.modLink_inShape (hs.hub rfl) (fun _ => rfl))

theorem freeSlot_inShape (slot : Nat) (hs : InShape s) : InShape (freeSlot slot s) := by
  unfold freeSlot
  exact State.modLink_inShape hs (fun _ => rfl)

theorem release_inShape (group slot epoch : Nat) (hs : InShape s) : InShape (release group slot epoch s) := by
  unfold release
  dsimp only
  refine .ite (fun _ => ?_) (fun _ => ?_)
  · exact hs
  · split
    · exact State.modLink_inShape hs (fun _ => rfl)
    · exact .ite (fun _ => finishOk_inShape _ _ (freeSlot_inShape _ hs)) (fun _ => State.modLink_inShape hs (fun _ => rfl))

theorem barrierDeadline_inShape (slot : Nat) (hs : InShape s) : InShape (barrierDeadline slot s) := by
  unfold barrierDeadline
  dsimp only
  split
  · exact hs
  · refine .ite (fun _ => hs) (fun _ => ?_)
    exact dropShadows_inShape (finish_inShape _ _ _ _ (hutchRec_inShape _ _ _ (raiseEvent_inShape _ (freeSlot_inShape _ hs))))

theorem hfpFlrReq_inShape (fn : Nat) (hs : InShape s) : InShape (hfpFlrReq fn s) := by
  unfold hfpFlrReq
  dsimp only
  refine .ite (fun _ => hs) (fun _ => ?_)
  refine .ite (fun _ => State.modPort_inShape _ (modStage_inShape _ _ _ (orderStage3_inShape _ _ _ hs))) (fun _ => ?_)
  exact .foldl (fun _ _ h => beginTeardown_inShape _ _ _ _ h) _ (State.modPort_inShape _ hs)

theorem hfpFlrAck_inShape (fn : Nat) (hs : InShape s) : InShape (hfpFlrAck fn s) := hs.within (hfpFlrAck_within _ (.refl _ _) (.refl _))

theorem clearBlock_inShape (hs : InShape s) : InShape (clearBlock s) := by
  unfold clearBlock
  dsimp only
  exact { hs with
    contexts := rfl, queues := rfl, windows := (fun _ h => nomatch h), slices := rfl, seqs := rfl, benches := rfl, frames := rfl,
    page := (by decide : 14 ≤ Wardrobe.reset.pageLog2 ∧ Wardrobe.reset.pageLog2 ≤ 18), banks := rfl, classes := rfl, links := rfl,
      cores := rfl, uses := (fun _ h => nomatch h) }

theorem blockReset_inShape (hs : InShape s) : InShape (blockReset s) := by
  have h := clearBlock_inShape hs
  refine { h with slots := ?_ }
  unfold blockReset
  dsimp only
  split
  · exact bureauReset_slotsOk hs.slots
  · exact hs.slots

theorem por_inShape (hs : InShape s) : InShape (por s) := by
  unfold por
  exact .of_shape (s := blockReset s) (blockReset_inShape hs) rfl

theorem blockResetRelease_inShape (hs : InShape s) : InShape (blockResetRelease s) := by
  unfold blockResetRelease
  dsimp only
  refine .ite (fun _ => ?_) (fun _ => ?_)
  · exact hs
  · refine limiter_inShape _ ?_ ?_
    · exact fun h => h
    · refine sendBudgets_inShape ?_
      refine usageSend_inShape _ ?_
      exact hs.of_shape rfl

theorem tapInstruction_inShape (t : TapInstr) (hs : InShape s) : InShape (tapInstruction t s) := by
  unfold tapInstruction
  dsimp only
  split
  · exact .ite (fun _ => hs) (fun _ => State.modPort_inShape _ (clearBlock_inShape hs))
  · exact .ite (fun _ => hs) (fun _ => State.modPort_inShape _ (clearBlock_inShape hs))
  · exact hs
  · exact hs
  · exact hs

theorem State.modJnl_inShape (f : JnlRegs → JnlRegs) (hs : InShape s) : InShape (State.modJnl s f) :=
  hs.within (State.modJnl_within _ (.refl _ _) (.refl _))

theorem jnlRingWrite_inShape (ring : JnlRing) (v : W64) (hs : InShape s) : InShape (jnlRingWrite ring v s) :=
  hs.within (jnlRingWrite_within _ _ (.refl _ _) (.refl _))

theorem eventConsWrite_inShape (v : W64) (hs : InShape s) : InShape (eventConsWrite v s) := by
  unfold eventConsWrite
  dsimp only
  refine .ite (fun _ => hs) (fun _ => ?_)
  exact .ite (fun _ => bar0Err_inShape _ _ (State.modJnl_inShape _ hs)) (fun _ => State.modJnl_inShape _ (State.modJnl_inShape _ hs))

theorem eventWrite_inShape (hs : InShape s) : InShape (eventWrite s) := by
  unfold eventWrite
  dsimp only
  split
  · exact hs
  · refine .ite (fun _ => ?_) (fun _ => hs)
    exact bump_inShape _ (.when (dropItem_inShape _ _ _ (State.modJnl_inShape _ (hostWrite_inShape _ _ _ hs)))
      (fun h => msix_inShape _ _ h))

theorem traceRingWrite_inShape (hs : InShape s) : InShape (traceRingWrite s) := by
  unfold traceRingWrite
  dsimp only
  split
  · exact hs
  · exact .ite (fun _ => State.modJnl_inShape _ (hostWrite_inShape _ _ _ hs)) (fun _ => hs)

theorem staAddrWrite_inShape (v : W64) (hs : InShape s) : InShape (staAddrWrite v s) :=
  hs.within (staAddrWrite_within _ (.refl _ _) (.refl _))

theorem staReadDone_inShape (hs : InShape s) : InShape (staReadDone s) := hs.within (staReadDone_within (.refl _ _) (.refl _))

theorem takeSpilled_inShape (c : Nat) (hs : InShape s) : InShape (takeSpilled c s) := by
  unfold takeSpilled
  exact mapQueues_inShape _ hs (fun _ _ w => .ite w w)

theorem snapSection_inShape (c : Nat) (buf : Loc) (len : Nat) (a : Snap × State) (typ : Nat) (hs : InShape a.2) :
    InShape (snapSection c buf len a typ).2 := by
  unfold snapSection
  dsimp only
  split
  · exact .when (locWrite_inShape _ _ _ hs) (fun h => takeSpilled_inShape _ h)
  · exact hs

theorem opSnapshot_inShape (c q pos : Nat) (hs : InShape s) : InShape (opSnapshot c q pos s) := by
  unfold opSnapshot
  dsimp only
  split
  · exact hs
  · split
    · exact finish_inShape _ _ _ _ (begun_inShape _ _ hs)
    · exact finishOk_inShape _ _ (locWrite_inShape _ _ _ (.foldlS (fun _ _ h => snapSection_inShape _ _ _ _ _ h) _ (begun_inShape _ _
        hs)))

theorem bar0ErrRead_inShape (hs : InShape s) : InShape (bar0ErrRead s) := by
  unfold bar0ErrRead
  exact .ite (fun _ => hs) (fun _ => hs.port_hub rfl)

theorem wrdCfgWrite_inShape (v : W64) (hs : InShape s) : InShape (wrdCfgWrite v s) := by
  unfold wrdCfgWrite
  dsimp only
  refine .ite (fun _ => hs) (fun _ => .ite (fun _ => bar0Err_inShape _ _ hs) (fun _ => .ite (fun _ => bar0Err_inShape _ _ hs)
    (fun _ => ?_)))
  have h : InShape { s with wrd := { s.wrd with hkBase := bits v.toNat 63 30 * 2 ^ 30 } } := hs.wrd rfl rfl
  refine .unless (.ite (fun hp => { h with page := of_decide_eq_true hp }) (fun _ => bar0Err_inShape _ _ h)) (fun h => ?_)
  exact .ite (fun _ => bar0Err_inShape _ _ h) (fun _ => h.setFrames rfl rfl)

theorem accept_inShape (ok : Bool) (off : Nat) (f : State → State) (hf : ∀ {s}, InShape s → InShape (f s)) (hs : InShape s) :
    InShape (accept ok off f s) := by
  unfold accept
  exact .ite (fun _ => hf hs) (fun _ => bar0Err_inShape _ _ hs)

theorem objCmdWrite_inShape (n : Nat) (hs : InShape s) : InShape (objCmdWrite n s) := by
  unfold objCmdWrite
  dsimp only
  refine .ite (fun _ => tenantActivate_inShape _ _ hs) (fun _ => ?_)
  refine .ite (fun _ => tenantRetire_inShape _ hs) (fun _ => ?_)
  refine .ite (fun _ => contextActivate_inShape _ _ hs) (fun _ => ?_)
  refine .ite (fun _ => contextRetire_inShape _ hs) (fun _ => ?_)
  exact .ite (fun _ => objResult_inShape _ _ hs) (fun _ => cmdIgnored_inShape _ hs)

theorem qcmdWrite_inShape (n : Nat) (hs : InShape s) : InShape (qcmdWrite n s) := by
  unfold qcmdWrite
  dsimp only
  refine .ite (fun _ => queueEnable_inShape _ _ _ _ hs) (fun _ => ?_)
  exact .ite (fun _ => queueShutdown_inShape _ _ hs) (fun _ => .ite (fun _ => qResult_inShape _ hs) (fun _ => cmdIgnored_inShape _ hs))

theorem sealCmdWrite_inShape (n : Nat) (hs : InShape s) : InShape (sealCmdWrite n s) := by
  unfold sealCmdWrite
  dsimp only
  refine .ite (fun _ => sealLoad_inShape _ _ hs) (fun _ => ?_)
  exact .ite (fun _ => sealClear_inShape _ hs) (fun _ => .ite (fun _ => sealResult_inShape _ hs) (fun _ => cmdIgnored_inShape _ hs))

theorem resetCmdWrite_inShape (n : Nat) (hs : InShape s) : InShape (resetCmdWrite n s) := by
  unfold resetCmdWrite
  dsimp only
  refine .ite (fun _ => partitionReset_inShape _ hs) (fun _ => ?_)
  refine .ite (fun _ => computeReset_inShape _ hs) (fun _ => ?_)
  exact .ite (fun _ => resetReq_inShape _ hs) (fun _ => resetCmd_inShape _ (fun h => rstDone_inShape _ h) hs)

theorem updCmdWrite_inShape (n : Nat) (hs : InShape s) : InShape (updCmdWrite n s) := by
  unfold updCmdWrite
  dsimp only
  refine .ite (fun _ => updateStage_inShape _ hs) (fun _ => ?_)
  refine .ite (fun _ => updateActivate_inShape _ hs) (fun _ => ?_)
  exact .ite (fun _ => updateCancel_inShape hs) (fun _ => updCmd_inShape _ (fun h => updResult_inShape _ h) hs)

theorem setClassCfg_inShape (c n : Nat) (hs : InShape s) : InShape (setClassCfg c n s) := by
  unfold setClassCfg
  exact settleChest_inShape (State.modChest_inShape hs (fun _ => rfl) (fun _ => List.length_modify ..))

theorem Reg.write_inShape (r : Reg) (off n : Nat) (hs : InShape s) : InShape (Reg.write r off n s) := by
  unfold Reg.write
  dsimp only
  split
  · exact accept_inShape _ _ _ (fun h => h.hub rfl) hs
  · exact accept_inShape _ _ _ (fun h => h.hub rfl) hs
  · exact objCmdWrite_inShape _ hs
  · exact hs.hub rfl
  · exact sealCmdWrite_inShape _ hs
  · exact burRingWrite_inShape _ hs
  · exact burReqWrite_inShape _ hs
  · exact hostCapsWrite_inShape _ hs
  · exact accept_inShape _ _ _ (fun h => sendBudgets_inShape (State.modLink_inShape h (fun _ => rfl))) hs
  · exact barrierSlotOwn_inShape _ hs
  · exact qcmdWrite_inShape _ hs
  · exact accept_inShape _ _ _ (fun h => h.bramble _) hs
  · exact hs.sched rfl
  · exact accept_inShape _ _ _ (fun h => h.sched rfl) hs
  · exact accept_inShape _ _ _ (fun h => h.sched rfl) hs
  · exact wrdCfgWrite_inShape _ hs
  · exact accept_inShape _ _ _ (fun h => h.wrd rfl rfl) hs
  · exact accept_inShape _ _ _ (fun h => h.wrd rfl rfl) hs
  · exact accept_inShape _ _ _ (fun h => h.wrd rfl rfl) hs
  · exact accept_inShape _ _ _ (fun h => evalChest_inShape (State.modChest_inShape h (fun _ => rfl) (fun _ => rfl))) hs
  · exact accept_inShape _ _ _ (fun h => setClassCfg_inShape _ _ h) hs
  · exact accept_inShape _ _ _ (fun h => State.modChest_inShape h (fun _ => rfl) (fun _ => rfl)) hs
  · exact accept_inShape _ _ _ (fun h => h.watch _) hs
  · exact resetCmdWrite_inShape _ hs
  · refine accept_inShape _ _ _ ?_ ?_
    · exact fun h => h.of_shape rfl
    · exact hs
  · exact accept_inShape _ _ _ (fun h => State.modMgmt_inShape h (fun _ => rfl)) hs
  · exact State.modMgmt_inShape hs (fun _ => rfl)
  · exact updCmdWrite_inShape _ hs
  · exact accept_inShape _ _ _ (fun h => limiter_inShape _ (fun h => State.modPower_inShape _ h) h) hs
  · exact accept_inShape _ _ _ (fun h => limiter_inShape _ (fun h => State.modPower_inShape _ h) h) hs
  · exact accept_inShape _ _ _ (fun h => limiter_inShape _ (fun h => State.modPower_inShape _ h) h) hs
  · exact accept_inShape _ _ _ (fun h => State.modPower_inShape _ h) hs
  · exact staAddrWrite_inShape _ hs
  · exact jnlRingWrite_inShape _ _ hs
  · exact eventConsWrite_inShape _ hs
  · exact jnlRingWrite_inShape _ _ hs
  · exact hs.jnl _
  · exact jnlRingWrite_inShape _ _ hs
  · exact hs

theorem regWrite_inShape (r : Reg) (off size n : Nat) (hs : InShape s) : InShape (regWrite r off size n s) := by
  unfold regWrite
  exact .ite (fun _ => bar0Err_inShape _ _ hs) (fun _ => .ite (fun _ => bar0Err_inShape _ _ hs) (fun _ => Reg.write_inShape _ _ _ hs))

theorem registerWrite_inShape (off size : Nat) (v : W64) (hs : InShape s) : InShape (registerWrite off size v s) := by
  unfold registerWrite
  refine .ite (fun _ => ?_) (fun _ => ?_)
  · exact hs
  · refine .ite (fun _ => ?_) (fun _ => ?_)
    · exact State.modBureau_inShape hs hs.slots
    · refine .ite (fun _ => ?_) (fun _ => ?_)
      · exact bar0Err_inShape _ _ hs
      · split
        · exact bar0Err_inShape _ _ hs
        · exact regWrite_inShape _ _ _ _ hs

end

end Sys2Proof.Machine
end

section
/-! SUPPORT for O59. Every command keeps the shape, and so does every step. -/

set_option Elab.async false

namespace Sys2Proof.Machine

variable {s t : State}

/-- The outcome of a command in shape. -/
def AnswersInShape (o : Out) : Prop := ∀ t, o = .next t → InShape t

theorem next_inShape (h : InShape t) : AnswersInShape (.next t) := fun _ e => by
  cases e
  exact h

/-- One arm per command, each by the lemma of the command's meaning. -/
theorem exec_inShape (c : Instr) (hs : InShape s) : AnswersInShape (exec c s) := by
  cases c with
  | tenantActivate => exact next_inShape (tenantActivate_inShape _ _ hs)
  | tenantRetire => exact next_inShape (tenantRetire_inShape _ hs)
  | contextActivate => exact next_inShape (contextActivate_inShape _ _ hs)
  | contextRetire => exact next_inShape (contextRetire_inShape _ hs)
  | teardownDone => exact next_inShape (teardownDone_inShape _ hs)
  | queueEnable => exact next_inShape (queueEnable_inShape _ _ _ _ hs)
  | queueShutdown => exact next_inShape (queueShutdown_inShape _ _ hs)
  | queueShutdownHang => exact next_inShape (queueShutdownHang_inShape _ _ hs)
  | sealLoad => exact next_inShape (sealLoad_inShape _ _ hs)
  | sealClear => exact next_inShape (sealClear_inShape _ hs)
  | partitionReset => exact next_inShape (partitionReset_inShape _ hs)
  | computeReset => exact next_inShape (computeReset_inShape _ hs)
  | resetReq => exact next_inShape (resetReq_inShape _ hs)
  | updateStage => exact next_inShape (updateStage_inShape _ hs)
  | updateActivate => exact next_inShape (updateActivate_inShape _ hs)
  | updateCancel => exact next_inShape (updateCancel_inShape hs)
  | stagingDone => exact next_inShape (stagingDone_inShape _ _ hs)
  | updateEmergencyCleared => exact next_inShape (updateEmergencyCleared_inShape hs)
  | updateQuiesced => exact next_inShape (updateQuiesced_inShape hs)
  | updateLoaded => exact next_inShape (updateLoaded_inShape _ hs)
  | probationExpiry => exact next_inShape (probationExpiry_inShape hs)
  | rollbackDone => exact next_inShape (rollbackDone_inShape hs)
  | wrdCfgWrite => exact next_inShape (wrdCfgWrite_inShape _ hs)
  | frameTableBuilt => exact next_inShape (frameTableBuilt_inShape hs)
  | hostCapsWrite => exact next_inShape (hostCapsWrite_inShape _ hs)
  | burReqWrite => exact next_inShape (burReqWrite_inShape _ hs)
  | burRingWrite => exact next_inShape (burRingWrite_inShape _ hs)
  | jnlRingWrite => exact next_inShape (jnlRingWrite_inShape _ _ hs)
  | eventConsWrite => exact next_inShape (eventConsWrite_inShape _ hs)
  | barrierSlotOwn => exact next_inShape (barrierSlotOwn_inShape _ hs)
  | staAddrWrite => exact next_inShape (staAddrWrite_inShape _ hs)
  | staReadDone => exact next_inShape (staReadDone_inShape hs)
  | bar0ErrRead => exact next_inShape (bar0ErrRead_inShape hs)
  | peakRead => exact next_inShape (peakRead_inShape _ hs)
  | registerWrite => exact next_inShape (registerWrite_inShape _ _ _ hs)
  | doorbellWrite => exact next_inShape (doorbellWrite_inShape _ _ _ _ hs)
  | pushWrite => exact next_inShape (pushWrite_inShape _ _ _ hs)
  | fetchIssue => exact next_inShape (fetchIssue_inShape _ _ _ hs)
  | fetchReturn => exact next_inShape (fetchReturn_inShape _ _ _ hs)
  | fetcherGoIdle => exact next_inShape (fetcherGoIdle_inShape _ _ hs)
  | arbiterGrant => exact next_inShape (arbiterGrant_inShape _ hs)
  | entryAccept => exact next_inShape (entryAccept_inShape _ _ hs)
  | acceptReadReturn => exact next_inShape (acceptReadReturn_inShape _ _ _ hs)
  | commandDispatch => exact next_inShape (commandDispatch_inShape _ _ _ hs)
  | commandRetire => exact next_inShape (commandRetire_inShape _ _ hs)
  | completionWordWrite => exact next_inShape (completionWordWrite_inShape _ _ hs)
  | msixModerationTimeout => exact next_inShape (msixModerationTimeout_inShape _ _ hs)
  | watchSample => exact next_inShape (watchSample_inShape hs)
  | queueTimeout => exact next_inShape (queueTimeout_inShape _ _ hs)
  | streamHang => exact next_inShape (streamHang_inShape _ _ hs)
  | peerWaitTimeout => exact next_inShape (peerWaitTimeout_inShape _ _ hs)
  | moverHang => exact next_inShape (moverHang_inShape _ hs)
  | hubEngineHang => exact next_inShape (hubEngineHang_inShape _ hs)
  | deadlockScan => exact next_inShape (deadlockScan_inShape hs)
  | opNop | opFenceWait | opFenceSignal => exact next_inShape (finishNop_inShape _ _ _ hs)
  | opCopy => exact next_inShape (opCopy_inShape _ _ _ hs)
  | opFill => exact next_inShape (opFill_inShape _ _ _ hs)
  | opTimestamp => exact next_inShape (opTimestamp_inShape _ _ _ hs)
  | opLaunchGraph => exact next_inShape (opLaunchGraph_inShape _ _ _ hs)
  | opGraphPatch => exact next_inShape (opGraphPatch_inShape _ _ _ hs)
  | opLoopOpen => exact next_inShape (opLoopOpen_inShape _ _ _ hs)
  | opLoopAdmit => exact next_inShape (opLoopAdmit_inShape _ _ _ _ hs)
  | opLoopCancel => exact next_inShape (opLoopCancel_inShape _ _ _ hs)
  | opLoopClose => exact next_inShape (opLoopClose_inShape _ _ _ hs)
  | opModelLoad => exact next_inShape (opModelLoad_inShape _ _ _ _ hs)
  | opModelPin => exact next_inShape (opModelPin_inShape _ _ _ hs)
  | opModelUnpin => exact next_inShape (opModelUnpin_inShape _ _ _ hs)
  | opObjFree => exact next_inShape (opObjFree_inShape _ _ _ hs)
  | opBarrierJoin => exact next_inShape (opBarrierJoin_inShape _ _ _ hs)
  | opQuery => exact next_inShape (opQuery_inShape _ _ _ hs)
  | opSnapshot => exact next_inShape (opSnapshot_inShape _ _ _ hs)
  | opSelftest => exact next_inShape (opSelftest_inShape _ _ _ hs)
  | opAbort => exact next_inShape (opAbort_inShape _ _ _ hs)
  | opReplayOpen => exact next_inShape (opReplayOpen_inShape _ _ _ hs)
  | verifyDone => exact next_inShape (verifyDone_inShape _ _ _ _ hs)
  | launchReceive => exact next_inShape (launchReceive_inShape _ _ hs)
  | launchRetryRequest => exact next_inShape (launchRetryRequest_inShape _ _ _ hs)
  | bundleIssue => exact next_inShape (bundleIssue_inShape _ _ _ hs)
  | icacheFill => exact next_inShape (icacheFill_inShape _ _ _ hs)
  | alarmSet => exact next_inShape (alarmSet_inShape _ _ _ _ _ hs)
  | load => exact next_inShape (takeSide_inShape _ _ _ _ _ hs fun _ _ _ h => loadAct_inShape _ _ _ h)
  | store => exact next_inShape (takeSide_inShape _ _ _ _ _ hs fun _ _ _ h => storeAct_inShape _ _ _ h)
  | gather => exact next_inShape (takeSide_inShape _ _ _ _ _ hs fun _ _ _ h => gatherAct_inShape _ _ _ h)
  | scatter => exact next_inShape (takeSide_inShape _ _ _ _ _ hs fun _ _ _ h => scatterAct_inShape _ _ _ h)
  | send => exact next_inShape (takeSide_inShape _ _ _ _ _ hs fun _ _ _ h => sendAct_inShape _ _ _ _ h)
  | recv => exact next_inShape (takeSide_inShape _ _ _ _ _ hs fun _ _ _ h => recvAct_inShape _ _ _ _ h)
  | reduce => exact next_inShape (takeSide_inShape _ _ _ _ _ hs fun _ _ _ h => reduceAct_inShape _ _ _ _ h)
  | setreg => exact next_inShape (takeSide_inShape _ _ _ _ _ hs fun _ _ _ h => setregAct_inShape _ _ _ _ h)
  | sideCommandLanded _ _ what =>
    cases what with
    | piece => exact next_inShape (sidePieceLanded_inShape _ _ _ hs)
    | whole => exact next_inShape (sideCommandLanded_inShape _ _ _ hs)
  | collectiveData => exact next_inShape (collectiveData_inShape _ _ _ _ _ hs)
  | streamDrainDone => exact next_inShape (streamDrainDone_inShape _ _ hs)
  | stopRequest => exact next_inShape (stopRequest_inShape _ _ hs)
  | stopConfirm => exact next_inShape (stopConfirm_inShape _ _ hs)
  | streamRelease => exact next_inShape (streamRelease_inShape _ _ hs)
  | hazardReport => exact next_inShape (hazardReport_inShape _ _ hs)
  | stepEndReport => exact next_inShape (stepEndReport_inShape _ _ _ hs)
  | stepBoundary => exact next_inShape (stepBoundary_inShape _ _ hs)
  | stepLaunch => exact next_inShape (stepLaunch_inShape _ hs)
  | chargeTick => exact next_inShape (chargeTick_inShape hs)
  | evictAfterExpiry => exact next_inShape (evictAfterExpiry_inShape _ hs)
  | saveLanded => exact next_inShape (saveLanded_inShape _ hs)
  | restoreLanded => exact next_inShape (restoreLanded_inShape _ hs)
  | clearDone => exact next_inShape (clearDone_inShape _ hs)
  | wardrobeSweep => exact next_inShape (wardrobeSweep_inShape _ hs)
  | backgroundDemote => exact next_inShape (backgroundDemote_inShape _ _ hs)
  | backgroundPromote => exact next_inShape (backgroundPromote_inShape _ _ hs)
  | backgroundZero => exact next_inShape (backgroundZero_inShape _ hs)
  | moverPieceLanded => exact next_inShape (moverPieceLanded_inShape _ _ hs)
  | mapoutRequest => exact next_inShape (mapoutRequest_inShape _ _ _ _ _ hs)
  | mapoutMoveRetry =>
    exact next_inShape (checkMapout_inShape (leaveFrame_inShape _ _ hs))
  | modelMissRetry | modelMissService => exact next_inShape (missFill_inShape _ _ hs)
  | mfpResponse => exact next_inShape (mfpResponse_inShape _ _ _ _ hs)
  | hfpCompletion => exact next_inShape (hfpCompletion_inShape _ _ hs)
  | channelReady => exact next_inShape (channelReady_inShape _ _ hs)
  | channelFault => exact next_inShape (channelFault_inShape _ _ _ hs)
  | ceRate => exact next_inShape (ceRate_inShape _ _ _ hs)
  | channelUncorrectable => exact next_inShape (uncorrectableFrame_inShape _ _ hs)
  | cellAllocate => exact next_inShape (cellAllocate_inShape _ _ _ _ hs)
  | cellRead => exact next_inShape (cellRead_inShape _ _ _ hs)
  | cellMark => exact next_inShape (cellMark_inShape _ _ hs)
  | cellRewind => exact next_inShape (cellRewind_inShape _ _ hs)
  | cellRelease => exact next_inShape (cellRelease_inShape _ _ _ hs)
  | chestWalkDone => exact next_inShape (chestWalkDone_inShape _ hs)
  | bureauTick => exact next_inShape (bureauTick_inShape hs)
  | sensorSample => exact next_inShape (sensorSample_inShape _ _ hs)
  | occ | eng | byt | act | ret | req | sync => exact next_inShape (takeUsage_inShape _ hs)
  | bytFlushTimer => exact next_inShape (bytFlushTimer_inShape _ _ hs)
  | periodicReport => exact next_inShape (periodicReport_inShape hs)
  | signingStart => exact next_inShape (signingStart_inShape hs)
  | signingDone => exact next_inShape (signingDone_inShape _ _ hs)
  | reportForward => exact next_inShape (reportForward_inShape hs)
  | vddAonUp => exact next_inShape (vddAonUp_inShape _ _ hs)
  | stageBudgetExpiry => exact next_inShape (stageBudgetExpiry_inShape _ _ hs)
  | partitionResetAssert => exact next_inShape (partitionResetAssert_inShape _ hs)
  | partitionWritesDrained => exact next_inShape (partitionWritesDrained_inShape _ hs)
  | partitionResetRelease => exact next_inShape (partitionResetRelease_inShape _ hs)
  | sliceReady => exact next_inShape (sliceReady_inShape _ hs)
  | dumpAllowanceExpiry => exact next_inShape (dumpAllowanceExpiry_inShape _ hs)
  | completionsAllowanceExpiry => exact next_inShape (completionsAllowanceExpiry_inShape hs)
  | computeResetAssert => exact next_inShape (computeResetAssert_inShape hs)
  | computeResetRelease => exact next_inShape (computeResetRelease_inShape hs)
  | hubReady => exact next_inShape (hubReady_inShape hs)
  | resetRequest => exact next_inShape (resetRequest_inShape hs)
  | por => exact next_inShape (por_inShape hs)
  | blockReset => exact next_inShape (blockReset_inShape hs)
  | blockResetRelease => exact next_inShape (blockResetRelease_inShape hs)
  | bootLoadDone => exact next_inShape (bootLoadDone_inShape hs)
  | patchLoad => exact next_inShape (patchLoad_inShape _ hs)
  | bootCommit => exact next_inShape (bootCommit_inShape hs)
  | mcWatchFlag => exact next_inShape (mcWatchFlag_inShape _ _ hs)
  | watchdogExpiry => exact next_inShape (watchdogExpiry_inShape _ _ hs)
  | fatalTrap | settlePanic => exact next_inShape (coreFail_inShape _ _ _ hs)
  | memoryError => exact next_inShape (memoryError_inShape _ _ hs)
  | mcDumpDone => exact next_inShape (mcDumpDone_inShape _ hs)
  | mcReloadDone => exact next_inShape (mcReloadDone_inShape _ _ hs)
  | mailboxItem => exact next_inShape (mailboxItem_inShape _ hs)
  | pwrSag | thermAlert =>
    exact next_inShape (limiter_inShape _ (fun h => State.modPower_inShape _ h) hs)
  | temperatureInput => exact next_inShape (temperatureInput_inShape _ _ hs)
  | vminTimer => exact next_inShape (vminTimer_inShape _ _ hs)
  | vfGrant => exact next_inShape (vfGrant_inShape _ _ hs)
  | vfGrantTimeout => exact next_inShape (vfGrantTimeout_inShape _ hs)
  | limiterCapStep => exact next_inShape (limiterCapStep_inShape _ _ hs)
  | shedHoldExpiry => exact next_inShape (shedHoldExpiry_inShape hs)
  | quiesceDump => exact next_inShape (quiesceDump_inShape hs)
  | selftestRun => exact next_inShape (selftestRun_inShape _ hs)
  | selftestDone => exact next_inShape (selftestDone_inShape _ _ hs)
  | bankTest => exact next_inShape (bankTest_inShape _ hs)
  | calibration => exact next_inShape (calibration_inShape _ hs)
  | scrub => exact next_inShape (scrub_inShape _ hs)
  | telemetry => exact next_inShape hs
  | hfpFlrReq => exact next_inShape (hfpFlrReq_inShape _ hs)
  | hfpFlrAck => exact next_inShape (hfpFlrAck_inShape _ hs)
  | release => exact next_inShape (release_inShape _ _ _ hs)
  | barrierDeadline => exact next_inShape (barrierDeadline_inShape _ hs)
  | links => exact next_inShape (links_inShape _ _ hs)
  | tapInstruction => exact next_inShape (tapInstruction_inShape _ hs)
  | journalWrite => exact next_inShape (journalWrite_inShape _ hs)
  | journalConsumedPoll => exact next_inShape (journalConsumedPoll_inShape _ _ hs)
  | eventWrite => exact next_inShape (eventWrite_inShape hs)
  | channelReadyTimeout => exact next_inShape (channelReadyTimeout_inShape _ _ hs)
  | engineFaultReport => exact next_inShape (engineFaultReport_inShape _ hs)
  | calibrationDone => exact next_inShape (calibrationDone_inShape _ hs)
  | bankTestDone => exact next_inShape (bankTestDone_inShape _ _ hs)
  | traceRingWrite => exact next_inShape (traceRingWrite_inShape hs)
  | hubSupplyLoss => exact next_inShape (hs.hutch _)
  | vddAonLoss => exact next_inShape (vddAonLoss_inShape hs)

theorem step_inShape (hs : InShape s) : AnswersInShape (step s) := by
  cases hp : s.pending with
  | nil =>
    rw [step_of_pending_nil hp]
    exact next_inShape (hs.of_shape rfl)
  | cons c rest =>
    rw [step_of_pending_cons hp]
    exact exec_inShape c (hs.of_shape rfl)

/-- Settles O59: a command at the front of the queue keeps the shape, and a tick leaves what it speaks of. -/
theorem tablesStayInOrder : Obligations.TablesStayInOrder := by
  intro s t hs ht
  exact inShape_iff.1 (step_inShape (inShape_iff.2 hs) t ht)

end Sys2Proof.Machine
end

section
/-! Refutation of O35: a corrected word (R314) in the queue of class 3 whose number is 2^32, a number that no queue of R302 has. -/

set_option Elab.async false

namespace Sys2Proof.Machine

/-- A cell of no tenant, which is a packet of its own. -/
def loneCell : Cell :=
  { index := 7, data := List.replicate 8 0, complete := true, first := true, last := true, tenant := none, poison := false, item := none,
    taken := false }

/-- That cell in queue 2^32 of class 3, which has the key of the event queue. -/
def sharedKey : State :=
  { State.reset with chest := { Chest.reset with queues := [(cellKey 3 (2 ^ 32), { cells := [loneCell], rd := 0, mark := none })] } }

/-- The read puts the bank's first EV_CORRECTED_ECC behind the cell. -/
theorem cellRead_sharedKey : (cellQueue 3 (2 ^ 32) (cellRead 3 (2 ^ 32) [.corrected 3] sharedKey)).cells.length = 2 := by decide +kernel

/-- Refutes O35: no hypothesis bounds the number of a queue, and queue 2^32 of class 3 is queue 0 of class 4 by its key, so the event of
a corrected word joins the queue that was read, of which the statement has only the read pointer advance. -/
theorem not_consumersReadCells : ¬ Obligations.ConsumersReadCells := by
  intro h
  obtain ⟨-, hread⟩ := h 3 (2 ^ 32) loneCell [] [loneCell] [] sharedKey (by decide) (by decide) (by decide +kernel) rfl
    (by decide +kernel) (by decide) (by decide +kernel) (by decide) (by decide +kernel)
  obtain ⟨-, hcorrected, -⟩ := hread rfl fun _ x hx => by
    obtain rfl := List.mem_singleton.1 (List.mem_of_mem_take hx)
    rfl
  obtain ⟨t, ht, -, hqueue, -⟩ := hcorrected 3 (by decide +kernel)
  obtain rfl : cellRead 3 (2 ^ 32) [.corrected 3] sharedKey = t := Host.Outcome.next.inj ht
  have hlength := congrArg (fun q => q.cells.length) (hqueue (by decide))
  rw [cellRead_sharedKey] at hlength
  exact absurd hlength (by decide +kernel)

end Sys2Proof.Machine
end

section
/-! SUPPORT for O34. What the shared operations of Chest leave of its queues, its counts and its levels (R300 to R307, R312). -/

set_option Elab.async false

namespace Sys2Proof.Machine

variable {cls queue : Nat} {f : CellQueue → CellQueue} {s t : State}

/-! ### Queues -/

theorem cellQueue_of_queues (h : t.chest.queues = s.chest.queues) (cls queue : Nat) : cellQueue cls queue t = cellQueue cls queue s := by
  rw [cellQueue, h]
  rfl

theorem OtherCellsSame.trans {u : State} (h : OtherCellsSame cls queue s t) (h' : OtherCellsSame cls queue t u) :
    OtherCellsSame cls queue s u := fun k hk => (h' k hk).trans (h k hk)

theorem OtherCellsSame.of_queues (h : t.chest.queues = s.chest.queues) : OtherCellsSame cls queue s t := fun _ _ => by rw [h]

theorem modCells_queues (cls queue : Nat) (f : CellQueue → CellQueue) (s : State) :
    (modCells cls queue f s).chest.queues =
      if (f (cellQueue cls queue s)).cells.isEmpty && (f (cellQueue cls queue s)).mark.isNone then
        tdel s.chest.queues (cellKey cls queue)
      else tset s.chest.queues (cellKey cls queue) (f (cellQueue cls queue s)) := rfl

theorem modCells_others (cls queue : Nat) (f : CellQueue → CellQueue) (s : State) : OtherCellsSame cls queue s (modCells cls queue f s) := by
  intro k hk
  rw [modCells_queues]
  split
  · exact tget_tdel_ne _ hk
  · exact tget_tset_ne _ _ hk

/-- A queue that still has cells or a mark. -/
theorem cellQueue_modCells (h : (f (cellQueue cls queue s)).cells ≠ [] ∨ (f (cellQueue cls queue s)).mark ≠ none) :
    cellQueue cls queue (modCells cls queue f s) = f (cellQueue cls queue s) := by
  have hkept : ¬((f (cellQueue cls queue s)).cells.isEmpty && (f (cellQueue cls queue s)).mark.isNone) = true := by
    simpa [imp_iff_not_or] using h
  rw [cellQueue, modCells_queues, if_neg hkept, tgetD, tget_tset_self, Option.getD_some]

/-- A queue that has neither is gone. -/
theorem cellQueue_modCells_gone (hc : (f (cellQueue cls queue s)).cells = []) (hm : (f (cellQueue cls queue s)).mark = none) :
    cellQueue cls queue (modCells cls queue f s) = CellQueue.empty := by
  have hgone : ((f (cellQueue cls queue s)).cells.isEmpty && (f (cellQueue cls queue s)).mark.isNone) = true := by simp [hc, hm]
  rw [cellQueue, modCells_queues, if_pos hgone, tgetD, tget_tdel_self, Option.getD_none]

theorem modCells_cells_mark (cls queue : Nat) (f : CellQueue → CellQueue) (s : State) :
    (cellQueue cls queue (modCells cls queue f s)).cells = (f (cellQueue cls queue s)).cells ∧
    (cellQueue cls queue (modCells cls queue f s)).mark = (f (cellQueue cls queue s)).mark := by
  by_cases h : (f (cellQueue cls queue s)).cells ≠ [] ∨ (f (cellQueue cls queue s)).mark ≠ none
  · rw [cellQueue_modCells h]
    exact ⟨rfl, rfl⟩
  · rw [not_or, not_not, not_not] at h
    rw [cellQueue_modCells_gone h.1 h.2, h.1, h.2]
    exact ⟨rfl, rfl⟩

/-! ### Counts -/

theorem classAt_of_classes (h : t.chest.classes = s.chest.classes) (n : Nat) : classAt n t = classAt n s := by
  rw [classAt, h]
  rfl

theorem classAt_modUsed (g : Nat → Nat) (h : cls < s.chest.classes.length) :
    (classAt cls (modUsed cls g s)).used = g (classAt cls s).used := by
  simp [classAt, modUsed, State.modChest, List.getElem?_eq_getElem h]

theorem classAt_modUsed_ne {d : Nat} (g : Nat → Nat) (h : d ≠ cls) (s : State) : classAt d (modUsed cls g s) = classAt d s := by
  simp [classAt, modUsed, State.modChest, h.symm]

/-- Cells used: those charged to a class and those retired (R303, R307). -/
theorem poolUsed'_eq (s : State) : poolUsed' s = (s.chest.classes.map (·.used)).sum + s.chest.retired.length := by
  rw [poolUsed', List.sum_eq_foldl, List.foldl_map]

theorem otherQuotas_eq (hc : cls < 6) (hl : s.chest.classes.length = 6) :
    otherQuotas cls s = (((List.range 6).filter (fun d => d ≠ cls)).map (fun d => (classAt d s).quota - (classAt d s).used)).sum := by
  match hcs : s.chest.classes, hl with
  | [c0, c1, c2, c3, c4, c5], _ =>
    have hrange : List.range 6 = [0, 1, 2, 3, 4, 5] := rfl
    interval_cases cls <;> simp [otherQuotas, classAt, hcs, hrange, Nat.add_assoc]

/-- The two ways of R304 to be granted. -/
theorem grants_iff (k : Nat) (hc : cls < 6) (hl : s.chest.classes.length = 6) :
    grants cls k s = true ↔ (classAt cls s).used + k ≤ (classAt cls s).quota ∨
      k + 1024 + (((List.range 6).filter (fun d => d ≠ cls)).map (fun d => (classAt d s).quota - (classAt d s).used)).sum ≤
        262144 - ((s.chest.classes.map (·.used)).sum + s.chest.retired.length) := by
  rw [grants, Bool.or_eq_true, decide_eq_true_iff, decide_eq_true_iff, poolFree, poolUsed'_eq, otherQuotas_eq hc hl]
  rfl

/-! ### Levels -/

theorem evalChest_chest (s : State) : (evalChest s).chest = (evalLevels s).chest := by
  have htrace (l : List Nat) (t : State) : (l.foldl (fun t c => trace 12 0 0xFFFF 0 c t) t).chest = t.chest := by
    induction l generalizing t with
    | nil => rfl
    | cons a l ih => exact (ih _).trans (trace_chest ..)
  exact htrace _ _

theorem evalChest_queues (s : State) : (evalChest s).chest.queues = s.chest.queues := by
  rw [evalChest_chest]
  rfl

theorem evalChest_walk (s : State) : (evalChest s).chest.walk = s.chest.walk := by
  rw [evalChest_chest]
  rfl

theorem classAt_evalChest (n : Nat) (s : State) :
    (classAt n (evalChest s)).used = (classAt n s).used ∧ (classAt n (evalChest s)).high = (classAt n s).high := by
  simp only [classAt, evalChest_chest, evalLevels, State.modChest, List.getElem?_map]
  cases s.chest.classes[n]? with
  | none => exact ⟨rfl, rfl⟩
  | some x => exact ⟨rfl, rfl⟩

/-- A class at or above its high mark is congested (R306). -/
theorem congested_evalChest {n : Nat} (h : n < s.chest.classes.length) (hu : (classAt n (evalChest s)).high ≤ (classAt n (evalChest s)).used) :
    (classAt n (evalChest s)).congested = true := by
  rw [(classAt_evalChest n s).1, (classAt_evalChest n s).2] at hu
  simp only [classAt, List.getElem?_eq_getElem h, Option.getD_some] at hu
  simp only [classAt, evalChest_chest, evalLevels, State.modChest, List.getElem?_map, List.getElem?_eq_getElem h, Option.map_some,
    Option.getD_some, hysteresis, if_pos hu]

theorem poolUsed'_evalChest (s : State) : poolUsed' (evalChest s) = poolUsed' s := by
  simp only [poolUsed', evalChest_chest, evalLevels, State.modChest, List.foldl_map]

/-- The pauses at or above their high marks (R307). -/
theorem evalChest_pauses (s : State) :
    (256 * s.chest.hfpHigh ≤ poolUsed' s → (∀ g ∈ s.watch.stages, g.stage ≠ 3) → (evalChest s).chest.hfpPause = true) ∧
    (256 * s.chest.mfpHigh ≤ poolUsed' s → (evalChest s).chest.mfpPause = true) := by
  rw [evalChest_chest]
  refine ⟨fun hu hstages => ?_, fun hu => ?_⟩
  · have hfree : s.watch.stages.any (fun x => x.stage == 3) = false := by simpa using hstages
    simp [evalLevels, State.modChest, hysteresis, hu, hfree]
  · simp [evalLevels, State.modChest, hysteresis, hu]

/-- Where nothing waits, the change of a count is seen by the watermarks alone (R304, R306). -/
theorem settleChest_evalChest (h : s.chest.waiting = []) : settleChest s = evalChest s := by
  rw [settleChest, h]
  rfl

end Sys2Proof.Machine
end

section
/-! SUPPORT for O34. CELL_ALLOCATE (R300, R303, R304): the packet that a grant links, and the request that waits. -/

set_option Elab.async false

namespace Sys2Proof.Machine

variable {cls queue : Nat} {r : CellReq} {s t : State}

/-! ### A packet -/

theorem mkPacket_index (r : CellReq) (cells : List Nat) : (mkPacket r cells).map (·.index) = cells := by
  rw [mkPacket, List.map_map]
  exact List.zipIdx_map_fst 0 cells

theorem mkPacket_onePacket (r : CellReq) {cells : List Nat} (h : cells ≠ []) : OnePacket (mkPacket r cells) := by
  refine ⟨by simpa [mkPacket] using h, fun i _ x hx => ?_⟩
  obtain ⟨e, he, rfl⟩ := Option.map_eq_some_iff.1 (List.getElem?_map (l := cells.zipIdx) ▸ hx)
  rw [List.getElem?_zipIdx] at he
  obtain ⟨a, -, rfl⟩ := Option.map_eq_some_iff.1 he
  simp [mkPacket, Bool.beq_eq_decide_eq]

theorem cellWords_nil : cellWords [] = List.replicate 8 0 := by decide

/-- A cell of a packet that is to be written (R300). -/
theorem mem_mkPacket {cells : List Nat} {c : Cell} (hd : r.data = none) (h : c ∈ mkPacket r cells) :
    c.complete = false ∧ c.poison = false ∧ c.tenant = r.tenant ∧ c.item = r.item ∧ c.taken = false ∧ c.data = List.replicate 8 0 := by
  obtain ⟨e, -, rfl⟩ := List.mem_map.1 h
  have hblank : slice ([] : List Byte) (64 * e.2) 64 = [] := by simp [slice]
  refine ⟨by rw [hd]; rfl, rfl, rfl, rfl, rfl, ?_⟩
  rw [hd, Option.getD_none, hblank]
  exact cellWords_nil

/-! ### The queue and the counts -/

theorem cellQueue_linkPacket {cells : List Nat} (h : cells ≠ []) :
    cellQueue r.cls r.queue (linkPacket r cells s) =
      { cellQueue r.cls r.queue s with cells := (cellQueue r.cls r.queue s).cells ++ mkPacket r cells } := by
  refine (cellQueue_of_queues (s := modCells r.cls r.queue (fun q => { q with cells := q.cells ++ mkPacket r cells }) s) rfl _ _).trans ?_
  exact cellQueue_modCells (.inl (by simp [mkPacket, h]))

theorem linkPacket_others (r : CellReq) (cells : List Nat) (s : State) : OtherCellsSame r.cls r.queue s (linkPacket r cells s) :=
  modCells_others r.cls r.queue (fun q => { q with cells := q.cells ++ mkPacket r cells }) s

theorem classAt_linkPacket {cells : List Nat} (h : r.cls < s.chest.classes.length) :
    (classAt r.cls (linkPacket r cells s)).used = (classAt r.cls s).used + cells.length :=
  classAt_modUsed (s := modCells r.cls r.queue _ s) (fun u => u + cells.length) h

theorem classAt_linkPacket_ne {cells : List Nat} {d : Nat} (h : d ≠ r.cls) : classAt d (linkPacket r cells s) = classAt d s :=
  classAt_modUsed_ne (fun u => u + cells.length) h (modCells r.cls r.queue _ s)

/-! ### Grants -/

theorem eraseDups_of_nodup {l : List Nat} (h : l.Nodup) : l.eraseDups = l := by
  induction l with
  | nil => rfl
  | cons a l ih =>
    obtain ⟨ha, hl⟩ := List.nodup_cons.1 h
    have hrest : l.filter (fun b => !(b == a)) = l := List.filter_eq_self.2 fun b hb => by simpa using ne_of_mem_of_not_mem hb ha
    rw [List.eraseDups_cons, hrest, ih hl]

/-- The cells that the pool has chosen are those of the packet, where they are free (log 11). -/
theorem packetCells_chosen {cells : List Nat} (hfree : ∀ i ∈ cells, cellFree i s = true) (hn : cells.Nodup) :
    packetCells cells s = cells := by
  rw [packetCells, if_pos]
  simpa [eraseDups_of_nodup hn] using hfree

/-- What a grant asks for: nothing of the class waits, R304 holds, and the pool has all the cells. -/
def Grantable (r : CellReq) (s : State) : Prop :=
  (∀ w ∈ s.chest.waiting, w.cls ≠ r.cls) ∧ grants r.cls r.choice.length s = true ∧
    (packetCells r.choice s).length = r.choice.length

theorem grantNow_some (hr : r.source = none) (h : Grantable r s) : grantNow r s = some (linkPacket r (packetCells r.choice s) s) := by
  obtain ⟨hw, hg, hl⟩ := h
  have hnone : s.chest.waiting.any (fun w => w.cls == r.cls) = false := by simpa using hw
  simp only [grantNow, hnone, hg, Bool.not_false, Bool.and_self, if_true, serveReq, hr, linkWhole, if_pos hl]

theorem grantNow_none (hr : r.source = none) (h : ¬Grantable r s) : grantNow r s = none := by
  by_cases hgo : (!s.chest.waiting.any (fun w => w.cls == r.cls) && grants r.cls r.choice.length s) = true
  · obtain ⟨hw, hg⟩ := Bool.and_eq_true_iff.1 hgo
    have hwait : ∀ w ∈ s.chest.waiting, w.cls ≠ r.cls := by simpa using hw
    have hl : ¬(packetCells r.choice s).length = r.choice.length := fun hl => h ⟨hwait, hg, hl⟩
    simp only [grantNow, if_pos hgo, serveReq, hr, linkWhole, if_neg hl]
  · rw [grantNow, if_neg hgo]

/-- The request of a CELL_ALLOCATE. -/
def allocRequest (cls queue : Nat) (tenant : Option Nat) (cells : List Nat) : CellReq :=
  { cls := cls, queue := queue, tenant := tenant, choice := cells, item := none, data := none, source := none }

variable {tenant : Option Nat} {cells : List Nat}

theorem cellAllocate_granted (hc : cls < 6) (h1 : 1 ≤ cells.length) (h64 : cells.length ≤ 64)
    (h : Grantable (allocRequest cls queue tenant cells) s) :
    cellAllocate cls queue tenant cells s = evalChest (linkPacket (allocRequest cls queue tenant cells) (packetCells cells s) s) := by
  have hlegal : ¬(6 ≤ cls ∨ cells.length = 0 ∨ 64 < cells.length) := by omega
  have hg := grantNow_some rfl h
  simp only [allocRequest] at hg ⊢
  simp only [cellAllocate, if_neg hlegal, hg]

theorem cellAllocate_waits (hc : cls < 6) (h1 : 1 ≤ cells.length) (h64 : cells.length ≤ 64)
    (h : ¬Grantable (allocRequest cls queue tenant cells) s) :
    cellAllocate cls queue tenant cells s =
      s.modChest (fun c => { c with waiting := c.waiting ++ [allocRequest cls queue tenant cells] }) := by
  have hlegal : ¬(6 ≤ cls ∨ cells.length = 0 ∨ 64 < cells.length) := by omega
  have hg := grantNow_none rfl h
  simp only [allocRequest] at hg ⊢
  simp only [cellAllocate, if_neg hlegal, hg]

end Sys2Proof.Machine
end

section
/-! SUPPORT for O34. A metadata walk that has ended stays ended, and a machine check keeps its code, through the order of a compute reset
(R315, R366, R378). -/

set_option Elab.async false

namespace Sys2Proof.Machine

variable {k : Nat} {s t : State}

/-! ### Cells -/

theorem linkWhole_walk {r : CellReq} (h : linkWhole r s = some t) : t.chest.walk = s.chest.walk := by
  simp only [linkWhole] at h
  split at h
  · cases h
    rfl
  · cases h

theorem serveReq_walk {r : CellReq} (h : serveReq r s = some t) : t.chest.walk = s.chest.walk := by
  unfold serveReq at h
  split at h
  · cases h
    rfl
  · exact linkWhole_walk h

theorem grantWaiting_walk (n : Nat) (s : State) : (grantWaiting n s).chest.walk = s.chest.walk := by
  induction n generalizing s with
  | zero => rfl
  | succ n ih =>
    simp only [grantWaiting]
    split
    · rfl
    · split
      · rfl
      · next e => exact (ih _).trans ((serveReq_walk e).trans rfl)

theorem settleChest_walk (s : State) : (settleChest s).chest.walk = s.chest.walk := (evalChest_walk _).trans (grantWaiting_walk _ s)

theorem freeCells_walk (cls queue : Nat) (gone : Cell → Bool) (s : State) : (freeCells cls queue gone s).chest.walk = s.chest.walk := by
  simp only [freeCells]
  split
  · rfl
  · exact settleChest_walk _

theorem dropItem_walk (cls queue item : Nat) (s : State) : (dropItem cls queue item s).chest.walk = s.chest.walk :=
  freeCells_walk cls queue _ (dropRequests cls queue (fun w => w.item == some item) s)

theorem dropCmdCells_walk (k pos op : Nat) (s : State) : (dropCmdCells k pos op s).chest.walk = s.chest.walk :=
  (dropItem_walk ..).trans ((dropItem_walk ..).trans (dropItem_walk ..))

theorem discardCells_walk (cls queue : Nat) (s : State) : (discardCells cls queue s).chest.walk = s.chest.walk := by
  simp only [discardCells]
  split
  · rfl
  · exact freeCells_walk cls queue _ (dropRequests cls queue (fun _ => true) s)

theorem foldl_walk {α : Type} {f : State → α → State} (hf : ∀ s a, (f s a).chest.walk = s.chest.walk) (l : List α) (s : State) :
    (l.foldl f s).chest.walk = s.chest.walk := by
  induction l generalizing s with
  | nil => rfl
  | cons a l ih => exact (ih _).trans (hf s a)

/-! ### The stop of a queue while the hub is not ready -/

theorem Within.chest_eq {fp : List Part} (h : Within fp s t) (hp : Part.chest ∉ fp := by decide) : t.chest = s.chest := h.same .chest hp

theorem Within.watch_eq {fp : List Part} (h : Within fp s t) (hp : Part.watch ∉ fp := by decide) : t.watch = s.watch := h.same .watch hp

theorem passAt_chest (here : Option Nat) (hr : s.watch.hubReady = false) : (passAt here s).chest = s.chest := by
  rw [passAt, hr, Bool.not_false, if_pos rfl]
  exact (updateGvt_within (.refl [.sched] s) (.refl _)).chest_eq

theorem dropJobs_chest (f : Job → Bool) (hr : s.watch.hubReady = false) : (dropJobs f s).chest = s.chest := by
  have hw (l : List (Nat × Job)) : Within [.hub, .sched] s (l.foldl (fun s e => dropJob e.1 s) s) :=
    Within.foldl (fun _ e h => dropJob_within e.1 h (.refl _)) _ (.refl _ s)
  unfold dropJobs
  split
  · rfl
  · exact (passAt_chest none (by rw [(hw _).watch_eq, hr])).trans (hw _).chest_eq

theorem stopWork_chest (f : Nat → Nat → Bool) (hr : s.watch.hubReady = false) : (stopWork f s).chest = s.chest := by
  have hw (l : List (Nat × Nat)) (g : MoveKind → Bool) : Within [.port, .slices, .wrd] s (requestStops l (stopJobs g s)) :=
    requestStops_within _ (stopJobs_within _ (.refl _ s) (by simp [Covers])) (by simp [Covers])
  unfold stopWork
  refine (dropJobs_chest (s := { requestStops _ (stopJobs _ s) with link := _ }) _ ?_).trans (hw _ _).chest_eq
  exact (congrArg Watch.hubReady (hw _ _).watch_eq :).trans hr

/-- The cells that the fetched entries and the commands of a queue leave as it shuts (R94, R313). -/
def cellsLeft (k : Nat) (u : Queue) (s : State) : State :=
  (u.cmds.filter (fun c => c.latch.isNone)).foldl (fun s c => dropCmdCells k c.pos (eOp c.entry) s)
    (u.fetched.foldl (fun s f => dropItem 1 k f.pos s) (discardCells 0 k s))

theorem cellsLeft_within (k : Nat) (u : Queue) (s : State) : Within [.chest, .jnl] s (cellsLeft k u s) :=
  Within.foldl (fun _ c h => dropCmdCells_within k c.pos (eOp c.entry) h (.refl _)) _
    (Within.foldl (fun _ f h => dropItem_within 1 k f.pos h (.refl _)) _ (discardCells_within 0 k (.refl _ s) (.refl _)))

theorem cellsLeft_walk (k : Nat) (u : Queue) (s : State) : (cellsLeft k u s).chest.walk = s.chest.walk := by
  unfold cellsLeft
  rw [foldl_walk (fun s (c : Cmd) => dropCmdCells_walk k c.pos (eOp c.entry) s),
    foldl_walk (fun s (f : Fetched) => dropItem_walk 1 k f.pos s), discardCells_walk]

theorem shutting_walk (k : Nat) (l : Latch) (u : Queue) (hr : s.watch.hubReady = false) :
    (shutting k l u s).chest.walk = s.chest.walk := by
  have hwatch : ((cellsLeft k u s).modQ k (Queue.shut l (cellsLeft k u s).now)).watch = s.watch := (cellsLeft_within k u s).watch_eq
  have hchest := stopWork_chest (s := (cellsLeft k u s).modQ k (Queue.shut l (cellsLeft k u s).now))
    (fun k' pos => k' == k && ((u.cmds.filter (fun c => c.latch.isNone || c.stopping)).map (·.pos)).contains pos) (by rw [hwatch, hr])
  exact (congrArg Chest.walk hchest).trans (cellsLeft_walk k u s)

theorem shutQueue_walk (k : Nat) (l : Latch) (hr : s.watch.hubReady = false) : (shutQueue k l s).chest.walk = s.chest.walk := by
  cases hu : tget s.front.queues k with
  | none => rw [shutQueue, hu]
  | some u =>
    rw [shutQueue_eq hu]
    exact (congrArg Chest.walk ((settleQueue_within k (.refl [.front] _) (.refl _)).same .chest (by decide))).trans (shutting_walk k l u hr)

theorem shutAll_walk (l : Latch) (qs : Tab Queue) (hr : s.watch.hubReady = false) : (shutAll l qs s).chest.walk = s.chest.walk := by
  induction qs generalizing s with
  | nil => rfl
  | cons a qs ih =>
    have hw : (if a.2.enabled then shutQueue a.1 l s else s).watch = s.watch := by
      split
      · exact shutQueue_watch _ _ hr rfl
      · rfl
    refine (ih (s := if a.2.enabled then shutQueue a.1 l s else s) (hw ▸ hr)).trans ?_
    split
    · exact shutQueue_walk _ _ hr
    · rfl

/-! ### The order of a compute reset -/

theorem resetStopped_walk (hr : s.watch.hubReady = false) : (resetStopped s).chest.walk = s.chest.walk := by
  have hkilled := resetKilled_within s
  have howed := oweMsix_within (fun _ => true) (.refl [.front] (resetKilled s)) (.refl _)
  have hwatch : (oweMsix (fun _ => true) (resetKilled s)).watch = s.watch :=
    (howed.same .watch (by decide)).trans (hkilled.same .watch (by decide))
  have hchest : (oweMsix (fun _ => true) (resetKilled s)).chest = s.chest :=
    (howed.same .chest (by decide)).trans (hkilled.same .chest (by decide))
  have hquiesced : (resetStopped s).chest = (resetShut (resetKilled s)).chest := (resetQuiesced_within _).same .chest (by decide)
  rw [hquiesced, resetShut, shutAll_walk _ _ (hwatch ▸ hr), hchest]

/-- The state in which a compute reset begins to stop the commands (R366). -/
theorem resetRecorded_watch (cause : Nat) (flr : Bool) (s : State) :
    (resetContexts (resetRecorded cause flr (resetMarked s))).watch = (resetMarked s).watch :=
  (resetRecorded_within cause flr (resetMarked s)).same .watch (by decide)

theorem resetRecorded_walk (cause : Nat) (flr : Bool) (s : State) : (resetRecorded cause flr s).chest.walk = s.chest.walk := by
  have hwrite := writeDump_within (dump3 (stageRec 3 0 cause (nextDump s) 0 0 0xFF s))
    (.refl [.port, .mem, .hutch] (stageRec 3 0 cause (nextDump s) 0 0 0xFF s)) (.refl _)
  have hchest : (notify (writeDump (dump3 (stageRec 3 0 cause (nextDump s) 0 0 0xFF s)) (stageRec 3 0 cause (nextDump s) 0 0 0xFF s))).chest =
      s.chest := (notify_chest _).trans ((hwrite.same .chest (by decide)).trans (stageRec_chest ..))
  have hwalk := congrArg Chest.walk hchest
  simp only [resetRecorded]
  split <;> exact hwalk

theorem orderStage3_walk (cause : Nat) (byCmd flr : Bool) (hn : NoReset s) :
    (orderStage3 cause byCmd flr s).chest.walk = s.chest.walk := by
  have hready : (resetContexts (resetRecorded cause flr (resetMarked s))).watch.hubReady = false := by
    rw [resetRecorded_watch]
    exact (resetMarked_watch s hn).2.1
  have hmark : (resetMarked s).chest = s.chest := (resetMarked_within s).chest_eq
  rw [orderStage3_eq cause byCmd flr hn, trace_chest, addStage_chest, resetStopped_walk hready]
  exact (resetRecorded_walk cause flr _).trans (congrArg Chest.walk hmark)

theorem orderStage3_lastMc (cause : Nat) (byCmd flr : Bool) (hn : NoReset s) :
    (orderStage3 cause byCmd flr s).watch.lastMc = s.watch.lastMc := by
  have hready : (resetContexts (resetRecorded cause flr (resetMarked s))).watch.hubReady = false := by
    rw [resetRecorded_watch]
    exact (resetMarked_watch s hn).2.1
  have hstop := (resetStopped_watch hready).trans (resetRecorded_watch cause flr s)
  have hmark : (resetMarked s).watch.lastMc = s.watch.lastMc := by
    simp only [resetMarked]
    split <;> rfl
  rw [orderStage3_eq cause byCmd flr hn]
  dsimp only
  generalize resetStopped (resetContexts (resetRecorded cause flr (resetMarked s))) = t at hstop
  rw [trace_watch, addStage, hstop]
  exact hmark

/-! ### Machine checks -/

/-- A machine check that no compute reset has come before (R378). -/
theorem machineCheck_checked (code unit detail : Nat) (hn : NoReset s) :
    MachineChecked code s (machineCheck code unit detail s) ∧ (machineCheck code unit detail s).chest.walk = s.chest.walk := by
  have hu := hutchRec_within 0x0A RecHead.blank (le 1 code ++ zeros 3 ++ le 4 unit ++ le 8 detail ++ zeros 16)
    (.refl [.port, .mem, .hutch] s) (.refl _)
  simp only [machineCheck]
  generalize hutchRec 0x0A RecHead.blank _ s = u at hu
  have hnotify := notify_within (.refl [.port] { u with watch := { u.watch with lastMc := code } }) (.refl _)
  generalize notify { u with watch := { u.watch with lastMc := code } } = v at hnotify
  have hwatch : v.watch = { s.watch with lastMc := code } := by
    rw [hnotify.watch_eq, hu.watch_eq]
  have hv : NoReset v := by
    rw [NoReset, hwatch]
    exact hn
  refine ⟨⟨(orderStage3_lastMc 8 false false hv).trans (by rw [hwatch]), ?_⟩, (orderStage3_walk 8 false false hv).trans ?_⟩
  · refine (orderStage3_begun 8 false false hv).of_same ?_ (by rw [hwatch]) ?_
    · exact congrArg BitVec.toNat ((hnotify.same .time (by decide)).trans (hu.same .time (by decide)))
    · exact (hnotify.same .contexts (by decide)).trans (hu.same .contexts (by decide))
  · exact congrArg Chest.walk (hnotify.chest_eq.trans hu.chest_eq)

end Sys2Proof.Machine
end

section
/-! SUPPORT for O34. MARK, REWIND and RELEASE (R312), the end of the metadata walk (R315), and reads of the status registers (R321). -/

set_option Elab.async false

namespace Sys2Proof.Machine

variable {cls queue k : Nat} {s t : State}

/-! ### A change that frees cells -/

/-- What is left where cells leave a queue, nothing waits, and the watermarks follow (R303, R306). -/
theorem cellsLeave {n : Nat} {f : CellQueue → CellQueue} (hc : cls < s.chest.classes.length) (hw : s.chest.waiting = []) :
    let t := settleChest (modUsed cls (fun u => u - n) (modCells cls queue f s))
    t.chest.queues = (modCells cls queue f s).chest.queues ∧ t.chest.waiting = [] ∧
      (classAt cls t).used = (classAt cls s).used - n ∧ (∀ d, d ≠ cls → (classAt d t).used = (classAt d s).used) ∧
      OtherCellsSame cls queue s t := by
  intro t
  have ht : t = evalChest (modUsed cls (fun u => u - n) (modCells cls queue f s)) := settleChest_evalChest hw
  have hq : t.chest.queues = (modCells cls queue f s).chest.queues := by
    rw [ht, evalChest_queues]
    rfl
  refine ⟨hq, ?_, ?_, fun d hd => ?_, (modCells_others cls queue f s).trans (.of_queues hq)⟩
  · rw [ht, evalChest_waiting]
    exact hw
  · rw [ht, (classAt_evalChest ..).1]
    exact classAt_modUsed (s := modCells cls queue f s) (fun u => u - n) hc
  · rw [ht, (classAt_evalChest ..).1, classAt_modUsed_ne _ hd]
    rfl

/-! ### The head of a queue -/

theorem cellRelease_check (hc : cls < 6) (h : (cellQueue cls queue s).rd < k) : cellRelease cls queue k s = chestCheck 2 cls queue s := by
  rw [cellRelease, if_neg (by omega), if_pos h]

theorem cellRelease_frees (hc : cls < 6) (h : k ≤ (cellQueue cls queue s).rd) : cellRelease cls queue k s = freeHead cls queue k s := by
  rw [cellRelease, if_neg (by omega), if_neg (by omega)]

theorem cellRewind_check (hc : cls < 6) (h : (cellQueue cls queue s).mark = none) : cellRewind cls queue s = chestCheck 2 cls queue s := by
  rw [cellRewind, if_neg (by omega), h]

theorem cellRewind_marked {m : Nat} (hc : cls < 6) (h : (cellQueue cls queue s).mark = some m) :
    cellRewind cls queue s = modCells cls queue (fun q => { q with rd := m }) s := by
  rw [cellRewind, if_neg (by omega), h]

/-! ### The metadata walk -/

/-- The cells of the queue with a key. -/
def keyCells (k : Nat) (s : State) : List Cell := (tgetD s.chest.queues k CellQueue.empty).cells

theorem cellQueue_of_key (k : Nat) (s : State) : cellQueue (k / 2 ^ 32) (k % 2 ^ 32) s = tgetD s.chest.queues k CellQueue.empty := by
  rw [cellQueue, cellKey, Nat.div_add_mod']

theorem keyCells_cellQueue (cls queue : Nat) (s : State) : keyCells (cellKey cls queue) s = (cellQueue cls queue s).cells := rfl

theorem OtherCellsSame.keyCells {j : Nat} (h : OtherCellsSame cls queue s t) (hj : j ≠ cellKey cls queue) :
    Machine.keyCells j t = Machine.keyCells j s := by
  rw [Machine.keyCells, tgetD, h j hj]
  rfl

/-- Cells of one queue are freed, and of no other. -/
theorem keyCells_freeCells (gone : Cell → Bool) (j : Nat) (hw : s.chest.waiting = []) :
    let t := freeCells (k / 2 ^ 32) (k % 2 ^ 32) gone s
    t.chest.waiting = [] ∧ keyCells j t = if j = k then (keyCells k s).filter (fun c => !gone c) else keyCells j s := by
  intro t
  have hkey : cellKey (k / 2 ^ 32) (k % 2 ^ 32) = k := Nat.div_add_mod' k _
  by_cases hn : (cellQueue (k / 2 ^ 32) (k % 2 ^ 32) s).cells.countP gone = 0
  · have ht : t = s := if_pos hn
    have hkept : (keyCells k s).filter (fun c => !gone c) = keyCells k s := by
      rw [cellQueue_of_key] at hn
      exact List.filter_eq_self.2 fun c hc => by simpa using List.countP_eq_zero.1 hn c hc
    rw [ht, hkept]
    refine ⟨hw, ?_⟩
    split
    · next e => rw [e]
    · rfl
  · let removed := modUsed (k / 2 ^ 32) (fun u => u - (cellQueue (k / 2 ^ 32) (k % 2 ^ 32) s).cells.countP gone)
      (modCells (k / 2 ^ 32) (k % 2 ^ 32) (fun q => q.without gone) s)
    have ht : t = evalChest removed :=
      (if_neg hn : t = settleChest removed).trans (settleChest_evalChest (s := removed) hw)
    have hq : t.chest.queues = (modCells (k / 2 ^ 32) (k % 2 ^ 32) (fun q => q.without gone) s).chest.queues := by
      rw [ht, evalChest_queues]
      rfl
    refine ⟨by rw [ht, evalChest_waiting]; exact hw, ?_⟩
    split
    · next e =>
      have hcells := (modCells_cells_mark (k / 2 ^ 32) (k % 2 ^ 32) (fun q => q.without gone) s).1
      rw [← keyCells_cellQueue, hkey, cellQueue_of_key] at hcells
      rw [e, keyCells, hq]
      exact hcells
    · next e =>
      rw [keyCells, hq]
      exact (modCells_others _ _ _ s).keyCells (hkey.symm ▸ e)

theorem keyCells_freeAll (gone : Cell → Bool) (l : Tab CellQueue) (j : Nat) (hw : s.chest.waiting = []) :
    let t := l.foldl (fun s e => freeCells (e.1 / 2 ^ 32) (e.1 % 2 ^ 32) gone s) s
    t.chest.waiting = [] ∧ keyCells j t = if j ∈ l.map (·.1) then (keyCells j s).filter (fun c => !gone c) else keyCells j s := by
  induction l generalizing s with
  | nil => exact ⟨hw, rfl⟩
  | cons e l ih =>
    obtain ⟨hw1, hcells1⟩ := keyCells_freeCells (k := e.1) gone j hw
    obtain ⟨hw2, hcells2⟩ := ih hw1
    refine ⟨hw2, hcells2.trans ?_⟩
    rw [hcells1]
    by_cases he : j = e.1
    · subst he
      simp
    · simp only [List.map_cons, List.mem_cons, he, false_or, if_false]

/-- A walk that finds no stray cell frees the unreachable ones (R315). -/
theorem chestWalkDone_frees (hwalk : s.chest.walk = true) (hw : s.chest.waiting = []) :
    (chestWalkDone none s).chest.walk = false ∧
    ∀ j, keyCells j (chestWalkDone none s) = (keyCells j s).filter (fun c => !c.poison) := by
  have heq : chestWalkDone none s = settleChest (s.chest.queues.foldl
      (fun s e => freeCells (e.1 / 2 ^ 32) (e.1 % 2 ^ 32) (·.poison) s) (s.modChest (fun c => { c with walk := false }))) := by
    simp only [chestWalkDone, hwalk, Bool.not_true, Bool.false_eq_true, if_false]
    rfl
  have hall := fun j => keyCells_freeAll (s := s.modChest (fun c => { c with walk := false })) (·.poison) s.chest.queues j hw
  refine ⟨?_, fun j => ?_⟩
  · rw [heq, settleChest_walk, foldl_walk (fun s (e : Nat × CellQueue) => freeCells_walk ..)]
    rfl
  · obtain ⟨hwait, hcells⟩ := hall j
    rw [heq, settleChest_evalChest hwait, keyCells, evalChest_queues]
    refine hcells.trans ?_
    split
    · rfl
    · next hj =>
      have hnone : tget s.chest.queues j = none := by
        cases h : tget s.chest.queues j with
        | none => rfl
        | some q => exact absurd (List.mem_map_of_mem (mem_of_tget h)) hj
      have hempty : keyCells j s = [] := by rw [keyCells, tgetD, hnone]; rfl
      exact (show keyCells j _ = keyCells j s from rfl).trans (by rw [hempty]; rfl)

theorem chestWalkDone_stray (i : Nat) (hwalk : s.chest.walk = true) :
    chestWalkDone (some i) s = machineCheck 4 (bankOf i) i (s.modChest (fun c => { c with walk := false })) := by
  simp only [chestWalkDone, hwalk, Bool.not_true, Bool.false_eq_true, if_false]

/-! ### Status registers -/

/-- The fields of a status word (R321). -/
theorem statusWord_fields (a b : Bool) (p u : Nat) :
    let w := (BitVec.ofNat 64 (b2n a * 2 ^ 63 + b2n b * 2 ^ 62 + p % 2 ^ 19 * 2 ^ 32 + u % 2 ^ 19)).toNat
    bits w 18 0 = u % 2 ^ 19 ∧ bits w 50 32 = p % 2 ^ 19 ∧ w.testBit 63 = a ∧ w.testBit 62 = b := by
  have hw : (BitVec.ofNat 64 (b2n a * 2 ^ 63 + b2n b * 2 ^ 62 + p % 2 ^ 19 * 2 ^ 32 + u % 2 ^ 19)).toNat =
      b2n a * 2 ^ 63 + b2n b * 2 ^ 62 + p % 2 ^ 19 * 2 ^ 32 + u % 2 ^ 19 := by
    rw [BitVec.toNat_ofNat]
    refine Nat.mod_eq_of_lt ?_
    cases a <;> cases b <;> simp [b2n] <;> omega
  simp only [hw, bits, Nat.shiftRight_eq_div_pow, Nat.testBit_eq_decide_div_mod_eq]
  cases a <;> cases b <;> simp [b2n] <;> omega

theorem peakRead_closed (r : Option Nat) (h : barOpen s = false) : peakRead r s = s := by
  simp [peakRead, h]

theorem peakRead_pool (h : barOpen s = true) :
    peakRead none s = { s with
      port := { s.port with readData := BitVec.ofNat 64 (b2n s.chest.hfpPause * 2 ^ 63 + b2n s.chest.mfpPause * 2 ^ 62 +
        s.chest.peak % 2 ^ 19 * 2 ^ 32 + poolUsed' s % 2 ^ 19) }
      chest := { s.chest with peak := poolUsed' s } } := by
  simp only [peakRead, h, Bool.not_true, Bool.false_eq_true, if_false]

theorem peakRead_class {n : Nat} {x : CellClass} (h : barOpen s = true) (hn : n < 6) (hx : s.chest.classes[n]? = some x) :
    peakRead (some n) s = { s with
      port := { s.port with readData := BitVec.ofNat 64 (b2n x.congested * 2 ^ 63 + x.peak % 2 ^ 19 * 2 ^ 32 + x.used % 2 ^ 19) }
      chest := { s.chest with classes := s.chest.classes.set n { x with peak := x.used } } } := by
  have hmodify : s.chest.classes.modify n (fun x => { x with peak := x.used }) = s.chest.classes.set n { x with peak := x.used } := by
    rw [List.modify_eq_set_getElem?, hx]
    rfl
  simp only [peakRead, h, Bool.not_true, Bool.false_eq_true, if_false, Nat.not_le.2 hn, classAt, hx, Option.getD_some, hmodify]

end Sys2Proof.Machine
end

section
/-! O34: CELL_ALLOCATE, CELL_MARK, CELL_REWIND, CELL_RELEASE, the end of the metadata walk, and peak reads. -/

set_option Elab.async false

namespace Sys2Proof.Machine

variable {cls queue k : Nat} {s t : State}

/-! ### CELL_ALLOCATE -/

/-- What a grant leaves (R300, R303, R304, R306, R307): the packet at the tail, charged to its class, and the watermarks in force. -/
theorem granted_linked {r : CellReq} {cells : List Nat} (hc : r.cls < 6) (hl : s.chest.classes.length = 6) (hcells : cells ≠ []) :
    let t := evalChest (linkPacket r cells s)
    cellQueue r.cls r.queue t =
      { cellQueue r.cls r.queue s with cells := (cellQueue r.cls r.queue s).cells ++ mkPacket r cells } ∧
    (classAt r.cls t).used = (classAt r.cls s).used + cells.length ∧
    (∀ d, d ≠ r.cls → (classAt d t).used = (classAt d s).used) ∧
    (∀ d, d < 6 → (classAt d t).high ≤ (classAt d t).used → (classAt d t).congested = true) ∧
    (256 * s.chest.hfpHigh ≤ poolUsed' t → (∀ g ∈ s.watch.stages, g.stage ≠ 3) → t.chest.hfpPause = true) ∧
    (256 * s.chest.mfpHigh ≤ poolUsed' t → t.chest.mfpPause = true) ∧
    t.chest.waiting = s.chest.waiting ∧ OtherCellsSame r.cls r.queue s t ∧ OnlyIn [.chest, .jnl] s t := by
  intro t
  have hqueues : t.chest.queues = (linkPacket r cells s).chest.queues := evalChest_queues _
  have hlen : (linkPacket r cells s).chest.classes.length = 6 := (List.length_modify ..).trans hl
  obtain ⟨hhfp, hmfp⟩ := evalChest_pauses (linkPacket r cells s)
  refine ⟨?_, ?_, fun d hd => ?_, fun d hd hu => ?_, fun hu hg => ?_, fun hu => ?_, evalChest_waiting _, ?_, ?_⟩
  · exact (cellQueue_of_queues hqueues _ _).trans (cellQueue_linkPacket hcells)
  · exact (classAt_evalChest ..).1.trans (classAt_linkPacket (by omega))
  · rw [(classAt_evalChest ..).1, classAt_linkPacket_ne hd]
  · exact congested_evalChest (by omega) hu
  · rw [poolUsed'_evalChest] at hu
    exact hhfp hu hg
  · rw [poolUsed'_evalChest] at hu
    exact hmfp hu
  · exact (linkPacket_others r cells s).trans (.of_queues hqueues)
  · exact (evalChest_within (linkPacket_within r cells (.refl [.chest, .jnl] s) (by simp [Covers])) (.refl _)).onlyIn

/-! ### CELL_MARK, CELL_REWIND and CELL_RELEASE -/

/-- A change of a queue that holds a mark is one of that queue alone. -/
theorem modCells_marked {f : CellQueue → CellQueue} (h : (f (cellQueue cls queue s)).mark ≠ none) :
    cellQueue cls queue (modCells cls queue f s) = f (cellQueue cls queue s) ∧ OtherCellsSame cls queue s (modCells cls queue f s) ∧
      (modCells cls queue f s).chest.classes = s.chest.classes ∧ OnlyIn [.chest] s (modCells cls queue f s) :=
  ⟨cellQueue_modCells (.inr h), modCells_others cls queue f s, rfl, (modCells_within cls queue f (.refl [.chest] s) (.refl _)).onlyIn⟩

/-- The oldest cells of a queue are freed: its pointers follow, and a mark among the cells freed goes (R312). -/
theorem freeHead_frees (hc : cls < s.chest.classes.length) (hw : s.chest.waiting = []) (hk : k ≤ (cellQueue cls queue s).cells.length) :
    let q := cellQueue cls queue s
    let t := freeHead cls queue k s
    (cellQueue cls queue t).cells = q.cells.drop k ∧ (q.cells.drop k ≠ [] → (cellQueue cls queue t).rd = q.rd - k) ∧
      (∀ m, q.mark = some m → (cellQueue cls queue t).mark = if m < k then none else some (m - k)) ∧
      (classAt cls t).used = (classAt cls s).used - k ∧ (∀ d, d ≠ cls → (classAt d t).used = (classAt d s).used) ∧
      OtherCellsSame cls queue s t ∧ OnlyIn [.chest, .jnl] s t := by
  intro q t
  obtain ⟨hqueues, -, hused, hothers, hsame⟩ := cellsLeave (queue := queue) (n := (q.cells.take k).length)
    (f := fun q => { cells := q.cells.drop k, rd := q.rd - k, mark := q.mark.bind (fun m => if m < k then none else some (m - k)) }) hc hw
  obtain ⟨hcells, hmark⟩ := modCells_cells_mark cls queue
    (fun q => { cells := q.cells.drop k, rd := q.rd - k, mark := q.mark.bind (fun m => if m < k then none else some (m - k)) }) s
  have hq := cellQueue_of_queues hqueues cls queue
  have hlen : (q.cells.take k).length = k := List.length_take_of_le hk
  refine ⟨(congrArg CellQueue.cells hq).trans hcells, fun hleft => ?_, fun m hm => ?_, ?_, hothers, hsame,
    (freeHead_within cls queue k (.refl [.chest, .jnl] s) (.refl _)).onlyIn⟩
  · exact (congrArg CellQueue.rd hq).trans (congrArg CellQueue.rd (cellQueue_modCells (.inl hleft)))
  · refine (congrArg CellQueue.mark hq).trans (hmark.trans ?_)
    exact congrArg (fun o => Option.bind o _) hm
  · exact hused.trans (congrArg ((classAt cls s).used - ·) hlen)

theorem chestCheck_checked (code : Nat) (hn : NoReset s) : MachineChecked code s (chestCheck code cls queue s) :=
  (machineCheck_checked code _ _ hn).1

/-! ### The metadata walk -/

theorem chestWalkDone_none_within (s : State) : Within [.chest, .jnl] s (chestWalkDone none s) := by
  cases hwalk : s.chest.walk with
  | false => simpa [chestWalkDone, hwalk] using Within.refl [.chest, .jnl] s
  | true =>
    simp only [chestWalkDone, hwalk, Bool.not_true, Bool.false_eq_true, if_false]
    exact settleChest_within (Within.foldl (fun _ e h => freeCells_within _ _ _ h (.refl _)) _
      (State.modChest_within _ (.refl _ s) (by simp [Covers]))) (.refl _)

/-! ### The obligation -/

/-- Settles O34: the grant of a packet and its wait; MARK, REWIND and RELEASE; the walk; and the status registers. -/
theorem cellsAreGrantedAndFreed : Obligations.CellsAreGrantedAndFreed := by
  unfold Obligations.CellsAreGrantedAndFreed
  refine ⟨fun cls queue tenant cells s hc h1 h64 hl => ?_, fun cls queue s hc hl => ?_, fun stray s => ?_, fun r s => ?_⟩
  · intro k got used others free granted
    have hiff : Grantable (allocRequest cls queue tenant cells) s ↔ granted ∧ got.length = k :=
      (and_congr_right' (and_congr_left' (grants_iff cells.length hc hl))).trans and_assoc.symm
    refine ⟨fun hfree hn => packetCells_chosen hfree hn, fun hgr hlen => ?_, fun hgr => ?_⟩
    · have hgot : got ≠ [] := List.ne_nil_of_length_pos (by omega)
      obtain ⟨hq, hused, hothers, hcong, hhfp, hmfp, hwait, hsame, honly⟩ :=
        granted_linked (r := allocRequest cls queue tenant cells) (s := s) hc hl hgot
      have hcells := congrArg CellQueue.cells hq
      have hrd := congrArg CellQueue.rd hq
      have hmark := congrArg CellQueue.mark hq
      refine ⟨_, mkPacket (allocRequest cls queue tenant cells) got,
        congrArg Host.Outcome.next (cellAllocate_granted hc h1 h64 (hiff.2 ⟨hgr, hlen⟩)), hcells, mkPacket_index _ _,
        mkPacket_onePacket _ hgot, fun c hmem => mem_mkPacket rfl hmem, hrd, hmark,
        ?_, hothers, hcong, hhfp, hmfp, hwait, hsame, honly⟩
      exact hused.trans (congrArg ((classAt cls s).used + ·) hlen)
    · exact congrArg Host.Outcome.next (cellAllocate_waits hc h1 h64 fun h => hgr (hiff.1 h))
  · intro q
    refine ⟨⟨_, congrArg Host.Outcome.next (if_pos hc), modCells_marked (Option.some_ne_none _)⟩, fun m hm => ?_,
      fun hm hn => ?_, fun k hk hn => ?_, fun k hk hrd hw => ?_⟩
    · exact ⟨_, congrArg Host.Outcome.next (cellRewind_marked hc hm),
        modCells_marked (f := fun q => { q with rd := m }) (hm ▸ Option.some_ne_none m)⟩
    · exact ⟨_, congrArg Host.Outcome.next (cellRewind_check hc hm), chestCheck_checked 2 hn⟩
    · exact ⟨_, congrArg Host.Outcome.next (cellRelease_check hc hk), chestCheck_checked 2 hn⟩
    · exact ⟨_, congrArg Host.Outcome.next (cellRelease_frees hc hk), freeHead_frees (by omega) hw (hk.trans hrd)⟩
  · refine ⟨fun hwalk => congrArg Host.Outcome.next (by simp [chestWalkDone, hwalk] : chestWalkDone stray s = s),
      fun i hwalk hi hn => ?_, fun hwalk hi hw => ?_⟩
    · subst hi
      obtain ⟨hchecked, hdone⟩ := machineCheck_checked (s := s.modChest (fun c => { c with walk := false })) 4 (bankOf i) i hn
      exact ⟨_, congrArg Host.Outcome.next (chestWalkDone_stray i hwalk), hdone, hchecked⟩
    · subst hi
      obtain ⟨hdone, hcells⟩ := chestWalkDone_frees hwalk hw
      exact ⟨_, rfl, hdone, fun cls queue _ => hcells (cellKey cls queue), (chestWalkDone_none_within s).onlyIn⟩
  · refine ⟨_, rfl, (peakRead_within r (.refl [.port, .chest] s) (.refl _)).onlyIn, peakRead_closed r, fun h hr => ?_,
      fun n x h hr hn hx => ?_⟩
    · subst hr
      obtain ⟨hused, hpeak, hhfp, hmfp⟩ := statusWord_fields s.chest.hfpPause s.chest.mfpPause s.chest.peak (poolUsed' s)
      rw [peakRead_pool h]
      exact ⟨hused, hpeak, hhfp, hmfp, rfl⟩
    · subst hr
      have hfields := statusWord_fields x.congested false x.peak x.used
      simp only [show b2n false = 0 from rfl, Nat.zero_mul, Nat.add_zero] at hfields
      obtain ⟨hused, hpeak, hcong, -⟩ := hfields
      rw [peakRead_class h hn hx]
      exact ⟨hused, hpeak, hcong, rfl⟩

end Sys2Proof.Machine
end
